-- ==== Sys2Proof/Word.lean ====
section
/-! DEFINITION. The word types of the model: bytes, the 64-bit value field of a parameter (R379), and the two IEEE 754
formats the spec computes in (R7, R120, R164, R184). -/

namespace Sys2Proof

/-- A byte of a message, frame, image or record. -/
abbrev Byte := BitVec 8

/-- The 8-byte value field of a parameter (R379). -/
abbrev W64 := BitVec 64

/-- The bits of an IEEE 754 binary32 value (Table 0.2). -/
abbrev F32 := BitVec 32

/-- The bits of an IEEE 754 binary64 value (R126, R184, R226). -/
abbrev F64 := BitVec 64

end Sys2Proof
end

