-- ==== Sys2Proof/Messages.lean ====
section
/-! DEFINITION. The host messages of Tables 17.1, 17.2 and 18.7 as data: what a host, a proxied host or a weave session
sends. They are operands of the commands. -/

namespace Sys2Proof

/-- One entry of a WRITE (Table 17.2): object identifier, parameter index, value field of R379. -/
structure WEntry where
  obj : BitVec 32
  idx : BitVec 16
  val : W64
deriving DecidableEq, Repr

/-- The seal of a message (R399): its sequence number, and whether its AES-256-GCM tag verifies under the session's key
(the cipher is a standard the spec names; whether the tag verifies is an input of the model, log entry 4). -/
structure Seal where
  seq : BitVec 64
  tagOk : Bool
deriving DecidableEq, Repr

/-- What comes with every host message of a local session (Table 17.1): the instant it is registered, in fine ticks from
the start of the present beat, its session, its tag, its seal, and the SHADOW flag. -/
structure Hdr where
  t : Nat
  session : Fin 16
  tag : BitVec 32
  sealed : Option Seal
  shadow : Bool
deriving DecidableEq, Repr

/-- A request of Table 17.2 or Table 18.7 with its payload. -/
inductive HostMsg where
  | opn
  | close
  | heartbeat
  | finish (sig : List Byte)
  | read (entries : List (BitVec 32 × BitVec 16))
  | readImage (obj offset length : BitVec 32)
  | write (entries : List WEntry)
  | bulkWrite (obj offset : BitVec 32) (data : List Byte)
  | claim (objs : List (BitVec 32))
  | release (objs : List (BitVec 32))
  | modeRequest (code : BitVec 16)
  | stopTrip
  | stopLegs
  | abort (tag : BitVec 32)
  | attest (nonce : List Byte)
  | updManifest (total offset : BitVec 32) (data : List Byte)
  | updChunk (index : BitVec 16) (half : Byte) (data : List Byte)
  | updStatus
  | updCancel
  | updActivate (mode : Byte)
  | updConfirm
  | keyEnrol (payload : List Byte)
  | keyRevoke (payload : List Byte)
  | proxy (stake : Byte) (inner : List Byte)
deriving DecidableEq, Repr

/-- The opcode of a request (Tables 17.2 and 18.7). -/
def HostMsg.opcode : HostMsg → Nat
  | .opn => 0x01 | .close => 0x02 | .heartbeat => 0x03 | .finish _ => 0x06
  | .read _ => 0x10 | .readImage _ _ _ => 0x11
  | .write _ => 0x20 | .bulkWrite _ _ _ => 0x21 | .claim _ => 0x22 | .release _ => 0x23
  | .modeRequest _ => 0x30 | .stopTrip => 0x40 | .stopLegs => 0x41 | .abort _ => 0x50
  | .attest _ => 0x60 | .updManifest _ _ _ => 0x61 | .updChunk _ _ _ => 0x62 | .updStatus => 0x63
  | .updCancel => 0x64 | .updActivate _ => 0x65 | .updConfirm => 0x66 | .keyEnrol _ => 0x67 | .keyRevoke _ => 0x68
  | .proxy _ _ => 0x70

/-- What comes with every weave message (Table 16.2): the instant of its arrival in fine ticks from the start of the present beat, the weft
port, and the header's fields; whether its CRC-32 holds (R351). -/
structure WHdr where
  t : Nat
  port : Fin 4
  src : Byte
  dest : Byte
  hop : Byte
  seq : BitVec 16
  crcOk : Bool
deriving DecidableEq, Repr

/-- BEAT_PKT payload (Table 16.4). -/
structure BeatPkt where
  beat : BitVec 32
  ticks : BitVec 16
  phase : BitVec 16
  window : Byte
  kind : Byte
  tstate : BitVec 3
  rank : BitVec 4
  root : Byte
  partner : Byte
  hold : Bool
  pass : Bool
  depart : Bool
deriving DecidableEq, Repr

/-- A record of SIGNALS (R365): stake, signal, FRESH, value. -/
structure SigRec where
  stake : Byte
  signal : Byte
  fresh : Bool
  val : F32
deriving DecidableEq, Repr

/-- What comes from outside at a beat boundary: the codes of the 24 SAR channels; the bits that each of the 32 sigma-delta inputs has clocked in
since the last step that took them, oldest first; and how many single-bit memory errors the ended beat has corrected (R28). -/
structure Samples where
  adc : List Int
  sdi : List (List Bool)
  ecc : Nat := 0
deriving DecidableEq, Repr

/-- Where an uncorrectable error is read (R28): the control regions, the capture region with the stream and the slot of its record, the region
of a supervisor pair, a ring's memory with its slot, anywhere else. -/
inductive MemRegion where
  | control
  | capture (stream : Fin 32) (pos : Nat)
  | supervisor (pair : Fin 2)
  | ring (n : Fin 96) (slot : Fin 64)
  | other
deriving DecidableEq, Repr

/-- Requests the Ethernet stack answers itself (R398). -/
inductive EchoKind where
  | arp | neighbour | icmp | icmpv6
deriving DecidableEq, Repr

/-- What a MGMT message carries (R403): a request of the origin's session, with the tag, SHADOW flag and message of its header, or the response of
a proxied message, a whole message for the named session of this stake. -/
inductive MgmtMsg where
  | request (session : BitVec 16) (tag : BitVec 32) (shadow : Bool) (m : HostMsg)
  | response (session : BitVec 16) (bytes : List Byte)
deriving DecidableEq, Repr

end Sys2Proof
end

