-- ==== Sys2Proof/Syntax.lean ====
section
/-! DEFINITION. The commands of the block: one constructor for each row of the spec's table of operations and events. `t` is the instant of the
command in fine ticks from the start of the present beat; `h` brings the instant, session, tag and seal of a host message. -/

namespace Sys2Proof

/-- The commands. Each constructor names the rule of its row; an operand says what comes from outside. -/
inductive Instr where
  /-- BEAT_BOUNDARY, R35: the present beat ends and the next starts; the converters present their samples. -/
  | beatBoundary (x : Samples)
  /-- TABLE_SYNC_DONE, R59, for one table set. -/
  | tableSyncDone (t : Nat) (set : Fin 3)
  /-- TABLE_PERSIST, R64. -/
  | tablePersist (t : Nat)
  /-- COMMIT_VALIDATION_DONE, R60: validation of the oldest commit in hand ends. -/
  | commitValidationDone (t : Nat)
  /-- TBL_COMMIT, R60. -/
  | tblCommit (h : Hdr) (val : W64)
  /-- TBL_ABORT, R62. -/
  | tblAbort (h : Hdr) (val : W64)
  /-- BEAT_GRID_WRITE, R38: beat_ticks 0, window_pct 1, beat_phase 2. -/
  | beatGridWrite (h : Hdr) (which : Fin 3) (val : W64)
  /-- COMPUTE_WINDOW_END, R37: at window_ticks from the start of the beat. -/
  | computeWindowEnd
  /-- FINAL_STEP, R126: at the start of the last 15 % of the window. -/
  | finalStep
  /-- CONTEXT_DEADLINE, R175. -/
  | contextDeadline (t : Nat) (ctx : Fin 128)
  /-- GRID_TARGET_WRITE, R189: p_ref 0, q_ref 1, phi_ref 2. -/
  | gridTargetWrite (h : Hdr) (g : Fin 4) (which : Fin 3) (val : W64)
  /-- IMPEDANCE_ESTIMATE, R212: the points of the oldest completed sequence. -/
  | impedanceEstimate (t : Nat) (g : Fin 4)
  /-- SV_CYCLE_COMPARISON, R216: frequency and fundamental voltage angle of a cycle that ended `ago` beats before. -/
  | svCycleComparison (t : Nat) (g : Fin 4) (stream : Fin 8) (freq ang : F32) (ago : Nat)
  /-- SV_STREAM_ABSENT, R216: 3 ms without a valid frame. -/
  | svStreamAbsent (t : Nat) (stream : Fin 8)
  /-- STAGGER_SLOT, R227. -/
  | staggerSlot (t : Nat)
  /-- OPENING_DUE, R227. -/
  | openingDue (t : Nat) (p : Fin 32)
  /-- OPENING_END, R229. -/
  | openingEnd (t : Nat) (p : Fin 32)
  /-- DITHER_PERIOD_END, R231. -/
  | ditherPeriodEnd (t : Nat) (p : Fin 32)
  /-- SAMPLE_NOW, R227. -/
  | sampleNow (h : Hdr) (p : Fin 32) (val : W64)
  /-- SOC_SET, R234. -/
  | socSet (h : Hdr) (p : Fin 32) (val : W64)
  /-- STORAGE_ENERGY_SAVE, R234. -/
  | storageEnergySave (t : Nat)
  /-- P_SET_WRITE, R235. -/
  | pSetWrite (h : Hdr) (p : Fin 32) (val : W64)
  /-- BURST_REQUEST, R236. -/
  | burstRequest (h : Hdr) (p : Fin 32) (val : W64)
  /-- BURST_END, R237. -/
  | burstEnd (t : Nat) (p : Fin 32)
  /-- BURST_ABORT, R238. -/
  | burstAbort (h : Hdr) (p : Fin 32) (val : W64)
  /-- PORT_CLEAR, R240. -/
  | portClear (h : Hdr) (p : Fin 32) (val : W64)
  /-- PORT_UNLOCK, R240. -/
  | portUnlock (h : Hdr) (p : Fin 32) (val : W64)
  /-- CARRIER_UPDATE_POINT, R251: at carrier zero, or at the peak. -/
  | carrierUpdatePoint (t : Nat) (n : Fin 40) (peak : Bool)
  /-- VARIABLE_INTERVAL_MAX, R250. -/
  | variableIntervalMax (t : Nat) (n : Fin 40)
  /-- BOOTSTRAP_REFRESH, R259. -/
  | bootstrapRefresh (t : Nat) (n : Fin 40)
  /-- OSIER_CALIBRATION, R255: the measured span of the line in calibration, in thousandths of a tick. -/
  | osierCalibration (t : Nat) (span : Nat)
  /-- LEG_FAULT_INPUT, R257: the legs whose LEG_FLT has been low for flt_filter in this tick. -/
  | legFaultInput (t : Nat) (legs : List (Fin 40))
  /-- LEG_READY_HIGH, R256. -/
  | legReadyHigh (t : Nat) (n : Fin 40)
  /-- LEG_READY_LOW, R256: the legs whose LEG_RDY has been low for flt_filter in this tick. -/
  | legReadyLow (t : Nat) (legs : List (Fin 40))
  /-- LEG_CLEAR, R258. -/
  | legClear (h : Hdr) (n : Fin 40) (val : W64)
  /-- ADC_CONVERSION, R263. -/
  | adcConversion (t : Nat) (n : Fin 24) (code : Int)
  /-- ADC_CALIBRATE, R267. -/
  | adcCalibrate (h : Hdr) (n : Fin 24) (val : W64)
  /-- ADC_CALIBRATION_DONE, R267: the offset and gain found. -/
  | adcCalibrationDone (t : Nat) (n : Fin 24) (off : Int) (gain : F32)
  /-- SDI_STUCK, R271. -/
  | sdiStuck (t : Nat) (n : Fin 32)
  /-- WINDOW_COMPARATOR_CHANGE, R273: the high or the low comparator. -/
  | windowComparatorChange (t : Nat) (w : Fin 64) (low : Bool) (active : Bool)
  /-- WIN_READBACK, R278. -/
  | winReadback (h : Hdr) (w : Fin 64) (val : W64)
  /-- READBACK_DONE, R278: the conversions taken. -/
  | readbackDone (t : Nat) (w : Fin 64) (codes : List Int)
  /-- THRESHOLD_CHECK_PERIOD, R279. -/
  | thresholdCheckPeriod (t : Nat) (w : Fin 64)
  /-- METER_SAMPLE, R283: codes of the four voltage and four current channels. -/
  | meterSample (t : Nat) (vs is : List Int)
  /-- ZERO_CROSSING_TIMEOUT, R284. -/
  | zeroCrossingTimeout (t : Nat) (e : Fin 4)
  /-- METER_COMMIT, R293. -/
  | meterCommit (t : Nat)
  /-- SUPPLY_LOSS, R294. -/
  | supplyLoss (t : Nat)
  /-- LAST_GASP_REARM, R294. -/
  | lastGaspRearm (t : Nat)
  /-- CAP_RUN_START, R307: a write of 1. -/
  | capRunStart (h : Hdr) (n : Fin 32)
  /-- CAP_RUN_STOP, R313: a write of 0. -/
  | capRunStop (h : Hdr) (n : Fin 32)
  /-- BLOCK_FLUSH, R303. -/
  | blockFlush (t : Nat) (n : Fin 32)
  /-- CAPTURE_BLOCK_DELIVERY, R307. -/
  | captureBlockDelivery (t : Nat) (n : Fin 32)
  /-- RING_CAPTURE_COMPLETE, R312. -/
  | ringCaptureComplete (t : Nat) (n : Fin 32)
  /-- HOST_FIRE, R314. -/
  | hostFire (h : Hdr) (n : Fin 16) (val : W64)
  /-- TRIG_ARM_WRITE, R316. -/
  | trigArmWrite (h : Hdr) (n : Fin 16) (val : W64)
  /-- HOLDOFF_END, R316. -/
  | holdoffEnd (t : Nat) (n : Fin 16)
  /-- AUTO_FIRE, R317. -/
  | autoFire (t : Nat) (n : Fin 16)
  /-- FIRE_WINDOW_CLOSE, R320. -/
  | fireWindowClose (t : Nat) (n : Fin 16)
  /-- RIM_INPUT_CHANGE, R325: a RIM_IN pin and its voltage in mV. -/
  | rimInputChange (t : Nat) (c : Fin 16) (mv : Nat)
  /-- RIM_INPUT_FILTERED, R325. -/
  | rimInputFiltered (t : Nat) (c : Fin 16)
  /-- DISCREPANCY_TIMEOUT, R326. -/
  | discrepancyTimeout (t : Nat) (k : Fin 8)
  /-- TEST_PULSE_START, R327. -/
  | testPulseStart (t : Nat) (m : Fin 4)
  /-- TEST_PULSE_END, R327. -/
  | testPulseEnd (t : Nat) (m : Fin 4)
  /-- TEST_LOW_DEADLINE, R328. -/
  | testLowDeadline (t : Nat)
  /-- TEST_WINDOW_CLOSE, R329. -/
  | testWindowClose (t : Nat)
  /-- OFF_TEST, R332. -/
  | offTest (t : Nat) (j : Fin 4) (ch : Fin 2)
  /-- OFF_TEST_END, R332. -/
  | offTestEnd (t : Nat) (j : Fin 4) (ch : Fin 2)
  /-- OUTPUT_READBACK_MISMATCH, R332. -/
  | outputReadbackMismatch (t : Nat) (j : Fin 4) (ch : Fin 2)
  /-- EDM_TIMEOUT, R334. -/
  | edmTimeout (t : Nat) (j : Fin 4)
  /-- CHANNEL_COMPARISON, R322. -/
  | channelComparison (t : Nat) (agree : Bool)
  /-- RIM_SUPPLY_FAULT, R338. -/
  | rimSupplyFault (t : Nat)
  /-- RIM_RESET_RELEASE, R340: the times between the two channels' presses and releases (none: one channel never did), and whether the Rim's supplies are in range. -/
  | rimResetRelease (t : Nat) (pressGap releaseGap : Option Nat) (railsOk : Bool)
  /-- RIM_RESET_STUCK_TIMEOUT, R339. -/
  | rimResetStuckTimeout (t : Nat)
  /-- RIM_CONFIG_RECORD, R344: a BULK_WRITE of a whole record. -/
  | rimConfigRecord (h : Hdr) (data : List Byte)
  /-- WEFT_BLOCK_LOCK, R349. -/
  | weftBlockLock (t : Nat) (p : Fin 4)
  /-- WEFT_LOCK_LOSS, R349. -/
  | weftLockLoss (t : Nat) (p : Fin 4)
  /-- WEFT_RELOCK_WAIT, R349. -/
  | weftRelockWait (t : Nat) (p : Fin 4)
  /-- WEFT_PORT_MISSED_BEATS, R349. -/
  | weftPortMissedBeats (t : Nat) (p : Fin 4)
  /-- IDENT, R355; the neighbour's port is that of the link (log entry 47). -/
  | ident (h : WHdr) (identity : W64) (strap stake partner peerPort : Byte)
  /-- LSA, R359: local port, neighbour stake, neighbour port. -/
  | lsa (h : WHdr) (links : List (Byte × Byte × Byte))
  /-- ASSIGN, R357. -/
  | assign (h : WHdr) (pairs : List (W64 × Byte))
  /-- BEAT_PKT, R354. -/
  | beatPkt (h : WHdr) (b : BeatPkt)
  /-- TIME, R362. -/
  | time (h : WHdr) (t1 t2 echo : W64)
  /-- SIGNALS, R365. -/
  | signals (h : WHdr) (recs : List SigRec)
  /-- ARM_CUR, R119. -/
  | armCur (h : WHdr) (xs : List (Byte × F32))
  /-- CTX_STATE, R179. -/
  | ctxState (h : WHdr) (ctx n : Byte) (xs : List F32)
  /-- TELEM_RELAY, R103. -/
  | telemRelay (h : WHdr) (spoke : Byte) (pos : Byte) (half : List Byte)
  /-- RING_REPORT, R104. -/
  | ringReport (h : WHdr) (spoke count : Byte) (ids : List (List Byte))
  /-- FIRE, R319. -/
  | fire (h : WHdr) (trig : Byte) (ts : W64) (cause stake : Byte)
  /-- ARM_BLOCK, R152. -/
  | armBlock (h : WHdr) (arm cause : Byte)
  /-- TRIG_ARM, R318. -/
  | trigArm (h : WHdr) (trig arm : Byte) (beat : W64)
  /-- MGMT, R403. -/
  | mgmt (h : WHdr) (m : MgmtMsg)
  /-- CODES, R206. -/
  | codes (h : WHdr) (codes : List (BitVec 16))
  /-- SUBSCRIBE, R365. -/
  | subscribe (h : WHdr) (sigs : List Byte)
  /-- WEAVE_PERIODIC_SEND, R352. -/
  | weavePeriodicSend (t : Nat)
  /-- DUPLEX_CONFIG_TIMEOUT, R367. -/
  | duplexConfigTimeout (t : Nat)
  /-- PARTNER_ABSENT, R370. -/
  | partnerAbsent (t : Nat)
  /-- TOKEN_GIVE, R369. -/
  | tokenGive (h : Hdr) (val : W64)
  /-- CONTROL_FRAME, R83: the bytes received, and whether the line coding held. -/
  | controlFrame (t : Nat) (s : Fin 64) (bytes : List Byte) (lineOk : Bool)
  /-- DISCOVER_FRAME, R104. -/
  | discoverFrame (t : Nat) (s : Fin 64) (bytes : List Byte) (lineOk : Bool)
  /-- RANGE_FRAME, R107: the round trip in fine ticks. -/
  | rangeFrame (t : Nat) (s : Fin 64) (bytes : List Byte) (lineOk : Bool) (rt : Nat)
  /-- RETURN_FRAME, R101. -/
  | returnFrame (t : Nat) (s : Fin 64) (bytes : List Byte) (lineOk : Bool)
  /-- SPOKE_RECEIVER_DEAD, R78. -/
  | spokeReceiverDead (t : Nat) (s : Fin 64)
  /-- SPOKE_RECEIVER_LIVE, R104. -/
  | spokeReceiverLive (t : Nat) (s : Fin 64)
  /-- SPOKE_DISCOVER, R104. -/
  | spokeDiscover (h : Hdr) (s : Fin 64) (val : W64)
  /-- DISCOVERY_COMPLETE, R104. -/
  | discoveryComplete (t : Nat) (s : Fin 64)
  /-- CELL_LOST, R100. -/
  | cellLost (t : Nat) (c : Fin 512)
  /-- SPOKE_SPLIT, R101. -/
  | spokeSplit (t : Nat) (s : Fin 64)
  /-- SPOKE_REJOINED, R101. -/
  | spokeRejoined (t : Nat) (s : Fin 64)
  /-- CELL_UNBLOCK_FAIL, R98. -/
  | cellUnblockFail (t : Nat) (c : Fin 512)
  /-- CELL_BYPASS_FAIL, R150. -/
  | cellBypassFail (t : Nat) (c : Fin 512)
  /-- SPOKE_UNBLOCK, R98. -/
  | spokeUnblock (h : Hdr) (s : Fin 64) (val : W64)
  /-- CELL_BYPASS_WRITE, R149. -/
  | cellBypassWrite (h : Hdr) (c : Fin 512) (val : W64)
  /-- CELL_CLEAR_LOCK_WRITE, R153. -/
  | cellClearLockWrite (h : Hdr) (c : Fin 512) (val : W64)
  /-- CELL_SERIAL_REF_WRITE, R106. -/
  | cellSerialRefWrite (h : Hdr) (c : Fin 512) (val : W64)
  /-- CELL_SETTING_WRITE, R146: the setting's parameter index. -/
  | cellSettingWrite (h : Hdr) (c : Fin 512) (idx : BitVec 16) (val : W64)
  /-- BLOCK_CLEAR, R151. -/
  | blockClear (h : Hdr) (j : Fin 24) (val : W64)
  /-- RECOVER, R177. -/
  | recover (h : Hdr) (c : Fin 128) (val : W64)
  /-- PTP_MESSAGE, R401: the offset from the grandmaster in ns, the UTC offset, and whether the port is locked. -/
  | ptpMessage (t : Nat) (port : Fin 2) (off : Int) (utc : BitVec 16) (locked : Bool)
  /-- TIME_LOCK_LOST, R44. -/
  | timeLockLost (t : Nat)
  /-- HOLDOVER_LIMIT, R44. -/
  | holdoverLimit (t : Nat)
  /-- CLK_FAIL, R48: domains of Table 2.5 in order, AON 0 to MEM 7. -/
  | clkFail (t : Nat) (dom : Fin 8)
  /-- CLOCK_DOMAIN_LOCKED, R47. -/
  | clockDomainLocked (t : Nat) (dom : Fin 8)
  /-- SUP_LOCKSTEP, R26. -/
  | supLockstep (t : Nat) (pair : Fin 2)
  /-- MEM_UNCORR, R28. -/
  | memUncorr (t : Nat) (region : MemRegion)
  /-- OPEN, R376: in the command ring of the header's session. -/
  | opn (h : Hdr)
  /-- CLOSE, R377. -/
  | close (h : Hdr)
  /-- HEARTBEAT, R396. -/
  | heartbeat (h : Hdr)
  /-- HELLO, R400: within an open session, or for a new one; the payload of Table 17.7. -/
  | hello (t : Nat) (link : Fin 7) (session : Option (Fin 16)) (tag : BitVec 32) (payload : List Byte)
  /-- FINISH, R400. -/
  | finish (h : Hdr) (sig : List Byte)
  /-- READ, R381. -/
  | read (h : Hdr) (entries : List (BitVec 32 × BitVec 16))
  /-- READ_IMAGE, R378. -/
  | readImage (h : Hdr) (obj offset length : BitVec 32)
  /-- WRITE, R381. -/
  | write (h : Hdr) (entries : List WEntry)
  /-- PARAMETER_WRITE, R55. -/
  | parameterWrite (h : Hdr) (entry : WEntry)
  /-- BULK_WRITE, R393. -/
  | bulkWrite (h : Hdr) (obj offset : BitVec 32) (data : List Byte)
  /-- CLAIM, R393. -/
  | claim (h : Hdr) (objs : List (BitVec 32))
  /-- RELEASE, R393. -/
  | release (h : Hdr) (objs : List (BitVec 32))
  /-- MODE_REQUEST, R393. -/
  | modeRequest (h : Hdr) (code : BitVec 16)
  /-- STOP_TRIP, R394. -/
  | stopTrip (h : Hdr)
  /-- STOP_LEGS, R394. -/
  | stopLegs (h : Hdr)
  /-- STOP_REGISTER_WRITE, R394. -/
  | stopRegisterWrite (t : Nat) (val : BitVec 32)
  /-- ABORT, R395. -/
  | abort (h : Hdr) (tag : BitVec 32)
  /-- PROXY, R403: placed in weave-out ring 64 + ring. -/
  | proxy (h : Hdr) (ring : Fin 8) (stake : Byte) (inner : List Byte)
  /-- RING_DOORBELL, R388. -/
  | ringDoorbell (t : Nat) (n : Fin 96) (head : BitVec 32)
  /-- RING_TAIL_WRITE, R387. -/
  | ringTailWrite (t : Nat) (n : Fin 96) (tail : BitVec 32)
  /-- RING_RESET, R388. -/
  | ringReset (h : Hdr) (n : Fin 96) (val : W64)
  /-- HEARTBEAT_SEND, R396. -/
  | heartbeatSend (t : Nat)
  /-- SESSION_TIMEOUT, R396. -/
  | sessionTimeout (t : Nat) (s : Fin 80)
  /-- HANDSHAKE_TIMEOUT, R400. -/
  | handshakeTimeout (t : Nat) (s : Fin 16)
  /-- LINK_LOSS, R377. -/
  | linkLoss (t : Nat) (link : Fin 3)
  /-- INTERRUPT_COALESCE, R392. -/
  | interruptCoalesce (t : Nat) (n : Fin 96)
  /-- SV_FRAME, R402: destination, APPID, CRC-32 of the svID, smpSynch, and whether the redundancy rules drop it. -/
  | svFrame (t : Nat) (port : Fin 2) (mac : BitVec 48) (appid : BitVec 16) (id : BitVec 32) (synch : Byte) (datasetOk qualityOk : Bool) (dup : Bool)
  /-- REASSEMBLY_TIMEOUT, R398. -/
  | reassemblyTimeout (t : Nat) (link : Fin 3) (datagram : Nat)
  /-- SUPERVISION_FRAME, R397. -/
  | supervisionFrame (t : Nat)
  /-- ATTEST, R413. -/
  | attest (h : Hdr) (nonce : List Byte)
  /-- UPD_MANIFEST, R419. -/
  | updManifest (h : Hdr) (total offset : BitVec 32) (data : List Byte)
  /-- UPD_CHUNK, R422. -/
  | updChunk (h : Hdr) (index : BitVec 16) (half : Byte) (data : List Byte)
  /-- CHUNK_MARKED, R422. -/
  | chunkMarked (t : Nat) (index : BitVec 16)
  /-- UPD_STATUS, R421. -/
  | updStatus (h : Hdr)
  /-- UPD_CANCEL, R420. -/
  | updCancel (h : Hdr)
  /-- UPD_ACTIVATE, R423. -/
  | updActivate (h : Hdr) (mode : Byte)
  /-- ACTIVATION_VERIFIED, R423. -/
  | activationVerified (t : Nat)
  /-- UPD_CONFIRM, R425. -/
  | updConfirm (h : Hdr)
  /-- AUTO_CONFIRM, R425. -/
  | autoConfirm (t : Nat)
  /-- TRIAL_WINDOW_EXPIRY, R425. -/
  | trialWindowExpiry (t : Nat)
  /-- OWNERSHIP_LAPSE, R420. -/
  | ownershipLapse (t : Nat)
  /-- KEY_ENROL, R408. -/
  | keyEnrol (h : Hdr) (payload : List Byte)
  /-- KEY_REVOKE, R408. -/
  | keyRevoke (h : Hdr) (payload : List Byte)
  /-- RETAINED_CLEAR, R427. -/
  | retainedClear (h : Hdr) (val : W64)
  /-- PORSTN_ASSERT, R434. -/
  | porstnAssert (t : Nat)
  /-- PORSTN_RELEASE, R435, with the levels of the STAKE and RIM strap pins. -/
  | porstnRelease (t : Nat) (straps : BitVec 6) (rimStraps : BitVec 4)
  /-- BROWN_OUT, R430, with the rail's bit in supply_ok. -/
  | brownOut (t : Nat) (rail : Fin 8)
  /-- SERVICE_RESET, R436. -/
  | serviceReset (t : Nat)
  /-- SVC_RST_STUCK_TIMEOUT, R436. -/
  | svcRstStuckTimeout (t : Nat)
  /-- WATCHDOG_EXPIRY, R437. -/
  | watchdogExpiry (t : Nat)
  /-- RESET_REQ, R438. -/
  | resetReq (h : Hdr) (val : W64)
  /-- WARM_RESET_RELEASE, R435. -/
  | warmResetRelease (t : Nat) (straps : BitVec 6) (rimStraps : BitVec 4)
  /-- BOOT_LOADER_START, R409. -/
  | bootLoaderStart (t : Nat)
  /-- FIRMWARE_START, R409. -/
  | firmwareStart (t : Nat)
  /-- RUN_ENTRY, R439, with the LPDDR4X fitted and trained in MiB (0 none). -/
  | runEntry (t : Nat) (ddrMiB : Fin 8193)
  /-- PWR_REQUEST_PARKED, R441. -/
  | pwrRequestParked (h : Hdr)
  /-- PWR_REQUEST_RUN, R444. -/
  | pwrRequestRun (h : Hdr)
  /-- PWR_REQUEST_DARK, R446. -/
  | pwrRequestDark (h : Hdr)
  /-- AUTO_PARK, R441. -/
  | autoPark (t : Nat)
  /-- PARKING_COMPLETE, R442. -/
  | parkingComplete (t : Nat)
  /-- WAKE_PIN, R444. -/
  | wakePin (t : Nat)
  /-- PARK_TIMER_WAKE, R444. -/
  | parkTimerWake (t : Nat)
  /-- WAKE_COMPLETE, R444: at a beat boundary, with the samples of that boundary. -/
  | wakeComplete (x : Samples) (ddrMiB : Fin 8193)
  /-- DARK_ENTRY_COMPLETE, R446. -/
  | darkEntryComplete (t : Nat)
  /-- AUX_FAIL_HIGH, R448. -/
  | auxFailHigh (t : Nat)
  /-- DARK_ALARM, R448. -/
  | darkAlarm (t : Nat)
  /-- DARK_EXIT_RELEASE, R449. -/
  | darkExitRelease (t : Nat) (straps : BitVec 6) (rimStraps : BitVec 4)
  /-- TAMPER_CHANGE, R447. -/
  | tamperChange (t : Nat) (level : Bool)
  /-- TEMPERATURE_LOG, R447: the die temperature (R14) and VSTORE in mV. -/
  | temperatureLog (t : Nat) (tj : BitVec 16) (mv : BitVec 16)
  /-- HARV_PG_CHANGE, R455. -/
  | harvPgChange (t : Nat) (rising : Bool) (vstore : F32)
  /-- CONTROLLED_STAGE_START, R453. -/
  | controlledStageStart (t : Nat) (vstore : F32)
  /-- COLD_START_RETURN, R453. -/
  | coldStartReturn (t : Nat) (vstore : F32)
  /-- VSTORE_FULL, R454. -/
  | vstoreFull (t : Nat) (vstore : F32)
  /-- VSTORE_RESUME, R454. -/
  | vstoreResume (t : Nat) (vstore : F32)
  /-- HARVESTER_VOC_SAMPLE, R454: the HARV_TEG voltage at the end of the pause, the operating voltage before it, VSTORE. -/
  | harvesterVocSample (t : Nat) (voc vteg vstore : F32)
  /-- ISLAND_SOURCE_CHANGE, R451: codes of aon_source. -/
  | islandSourceChange (t : Nat) (src : Fin 3)
  /-- ISLAND_SOURCES_LOST, R452. -/
  | islandSourcesLost (t : Nat)
  /-- ISLAND_POWER_ON, R452, with the source it starts from and whether VSTORE is below the HARV_PG band. -/
  | islandPowerOn (t : Nat) (src : Fin 3) (vstore : F32) (below : Bool)
  /-- EVT_RAISE, R458. -/
  | evtRaise (h : Hdr) (n : Fin 256) (val : W64)
  /-- EVENT_LOG_APPEND, R465. -/
  | eventLogAppend (t : Nat)
  /-- EVENT_RECORD_DELIVERY, R463. -/
  | eventRecordDelivery (t : Nat)
  /-- DELIVERY_SECOND, R462. -/
  | deliverySecond (t : Nat)
  /-- SUPERVISOR_PAIR_RESTARTED, R26. -/
  | supervisorPairRestarted (t : Nat) (pair : Fin 2)
  /-- ROLLBACK_FUSES_BLOWN, R415. -/
  | rollbackFusesBlown (t : Nat)
  /-- LINK_UP, R404, with the PCIe rate and width trained. -/
  | linkUp (t : Nat) (link : Fin 3) (speed width : Byte)
  /-- SDI_DECIMATED_SAMPLE, R269: the bits clocked since the last step that took them. -/
  | sdiDecimatedSample (t : Nat) (n : Fin 32) (bits : List Bool)
  /-- GATE_L_EDGE, R252: the next placed edge of the leg. -/
  | gateLEdge (t : Nat) (n : Fin 40)
  /-- RIM_RESET_PRESS_START, R339. -/
  | rimResetPressStart (t : Nat) (released1s : Bool)
  /-- SERVICE_RESET_PRESS_START, R436: how long the pin had read high before, in ms. -/
  | serviceResetPressStart (t : Nat) (highFor : Nat)
  /-- WEAVE_TIME_REGISTER_READ, R385. -/
  | weaveTimeRegisterRead (t : Nat)
  /-- ARP_NEIGHBOUR_OR_ECHO, R398: the address asked for, and an echo's data. -/
  | arpNeighbourOrEcho (t : Nat) (port : Fin 2) (kind : EchoKind) (target : BitVec 128) (data : List Byte)
  /-- HSR_RING_FORWARD, R397. -/
  | hsrRingForward (t : Nat) (port : Fin 2) (src : BitVec 48) (seq : BitVec 16) (frame : List Byte)
deriving DecidableEq, Repr

end Sys2Proof
end

