-- ==== Sys2Proof/Config.lean ====
section
/-! DEFINITION. What one implementation fixes and the values the spec leaves open. Every constant here is opaque: nothing in
Lean can evaluate it, so a claim that holds holds whatever its value. Each is named in the assumption log. -/

namespace Sys2Proof.Config

/-- R184 lets a sine, cosine, tangent or arctangent differ from the correctly rounded value by one unit in the last
place. This chooses 0, 1 up or 2 down for function `k` at the operand bits (log entry 3). -/
opaque trigUlp (k : Nat) (a b : F32) : Fin 3

/-- ECDSA P-384 verification of a signature under a public key over a digest: the standard the spec names, not written
out by it (log entry 4). -/
opaque ecdsaVerify (key digest sig : List Byte) : Bool

/-- The attestation and handshake signature of the device identity key, which no command reads (R405, log entry 4). -/
opaque deviceSign (digest : List Byte) : List Byte

/-- The Rinica root verification of a code-signing certificate, and the key it carries (R419, log entry 4). -/
opaque rinicaCertKey (cert : List Byte) : Option (List Byte)

/-- The public key of a host credential, its issuer signature check under an owner key, and its validity at a weave
time (R407, log entry 4). -/
opaque credentialKey (cert : List Byte) : Option (List Byte)
/-- See `credentialKey`. -/
opaque credentialSigned (cert key : List Byte) : Bool
/-- See `credentialKey`. -/
opaque credentialSelfSigned (cert : List Byte) : Bool
/-- See `credentialKey`. -/
opaque credentialValidAt (cert : List Byte) (time : Nat) : Bool

/-- Whether 97 bytes are a valid uncompressed point on P-384 (R408, log entry 4). -/
opaque validPoint (key : List Byte) : Bool

/-- The ephemeral key pair and nonce of a HELLO_ACK, and the session keys of R400 (log entry 4). -/
opaque helloEphemeral (session : Nat) (time : Nat) : List Byte
/-- See `helloEphemeral`. -/
opaque helloNonce (session : Nat) (time : Nat) : List Byte
/-- See `helloEphemeral`. -/
opaque sessionKeys (hello ack finish : List Byte) : List Byte

/-- AES-256-GCM of R399 under a key and a nonce, with additional data, of a plain text: the encrypted bytes and the 16-byte tag (log entry 4). -/
opaque gcm (key nonce aad plain : List Byte) : List Byte × List Byte

/-- The identity chain of R405: two entries of a length and a DER certificate (log entry 4). -/
opaque identityChain : List Byte

/-- The 64-bit identity of this device (R355, R405): set at manufacture. -/
opaque identity : W64

/-- The MAC address of a port "from manufacture" (Table 17.9). -/
opaque macAddress (port : Nat) : W64

/-- The fixed SHA-384 digest of the boot ROM of this silicon revision (Table 18.3). -/
opaque bootRomDigest : List Byte

/-- The image installed at manufacture in slot A (log entry 48): image version, settings schema, arc, and the digests of its header, boot
loader section and firmware section. -/
opaque factoryVersion : BitVec 32
/-- See `factoryVersion`. -/
opaque factorySchema : BitVec 16
/-- See `factoryVersion`. -/
opaque factoryArc : BitVec 8
/-- See `factoryVersion`. -/
opaque factoryHeader : List Byte
/-- See `factoryVersion`. -/
opaque factoryLoader : List Byte
/-- See `factoryVersion`. -/
opaque factoryFirmware : List Byte

/-- The fractional-delay filter coefficients of R283 step 4, which the spec does not list: tap `i` for a delay in
nanoseconds (log entry 5). -/
opaque delayTap (delayNs : Int) (i : Nat) : F64

/-- One step of the DC-blocking filter of R283 step 2, first order with a 1.0 Hz corner, whose coefficients the spec does not list:
from the sample, the one before it and the output before it (log entry 5). -/
opaque dcBlock (x x1 y1 : F64) : F64

/-- The reading of `freq`, "smoothed over 8 periods" (R285) in a form the spec does not state, from the frequencies of at most the last
8 periods, newest first (log entry 5). -/
opaque freqSmooth (fs : List F64) : F32

/-- A value the spec calls for and does not fix, fresh for every use: applied to a counter held in the state
(log entry 6). -/
opaque freeValue (n : Nat) : W64

end Sys2Proof.Config
end

