-- ==== Sys2Proof/Machine/Bits.lean ====
section
/-! DEFINITION. Bytes and fields: little-endian fields (R13), most-significant-first fields of the spoke frame (R85),
sign extension (R379), the two CRCs (R87), and bit tests on numbers. -/

namespace Sys2Proof.Machine

/-- Bit `i` of a number. -/
def bit (n i : Nat) : Bool := n / 2 ^ i % 2 == 1

/-- Field of `w` bits of `n` from bit `lo`. -/
def field (n lo w : Nat) : Nat := n / 2 ^ lo % 2 ^ w

/-- `n` with bit `i` set to `b`. -/
def setBit (n i : Nat) (b : Bool) : Nat :=
  if bit n i = b then n else if b then n + 2 ^ i else n - 2 ^ i

/-- `n` with its `w`-bit field at `lo` replaced by `v mod 2^w`. -/
def setField (n lo w v : Nat) : Nat := n - field n lo w * 2 ^ lo + v % 2 ^ w * 2 ^ lo

/-- A Bool as 0 or 1. -/
def b2n (b : Bool) : Nat := if b then 1 else 0

/-- The bits set in a mask among bits 0 to `k - 1`, lowest first. -/
def bitsOf (m k : Nat) : List Nat := (List.range k).filter (bit m)

/-- Number of set bits among bits 0 to `k - 1`. -/
def popcount (m k : Nat) : Nat := (bitsOf m k).length

/-- The signed value of the low `w` bits of `n`. -/
def sgn (w n : Nat) : Int := if n % 2 ^ w < 2 ^ (w - 1) then (n % 2 ^ w : Nat) else ((n % 2 ^ w : Nat) : Int) - 2 ^ w

/-- The `w`-bit two's-complement code of an integer. -/
def enc (w : Nat) (z : Int) : Nat := (z % 2 ^ w).toNat

/-- The number spelled by bytes, least significant first (R13). -/
def leNat : List Byte → Nat
  | [] => 0
  | b :: t => b.toNat + 256 * leNat t

/-- `k` bytes of a number, least significant first (R13). -/
def leBytes : Nat → Nat → List Byte
  | 0, _ => []
  | k + 1, n => BitVec.ofNat 8 n :: leBytes k (n / 256)

/-- The number spelled by bytes, most significant first (R85). -/
def beNat (bs : List Byte) : Nat := leNat bs.reverse

/-- `k` bytes of a number, most significant first (R85). -/
def beBytes (k n : Nat) : List Byte := (leBytes k n).reverse

/-- `n` bytes of a list from offset `o`, zero where the list ends. -/
def slice (bs : List Byte) (o n : Nat) : List Byte :=
  let r := (bs.drop o).take n
  r ++ List.replicate (n - r.length) 0

/-- Little-endian field of `n` bytes at offset `o`. -/
def leAt (bs : List Byte) (o n : Nat) : Nat := leNat (slice bs o n)

/-- Big-endian field of `n` bytes at offset `o` (R85). -/
def beAt (bs : List Byte) (o n : Nat) : Nat := beNat (slice bs o n)

/-- One byte at offset `o`; 0 past the end. -/
def byteAt (bs : List Byte) (o : Nat) : Nat := (bs.getD o 0).toNat

/-- Eight shifts of the reflected CRC-32 register. -/
def crc32Shift : Nat → Nat → Nat
  | 0, c => c
  | k + 1, c => crc32Shift k (if c % 2 = 1 then (c / 2) ^^^ 0xEDB88320 else c / 2)

/-- The CRC-32 of R87 (IEEE 802.3): its check value over "123456789" is 0xCBF4_3926. -/
def crc32 (bs : List Byte) : Nat :=
  (bs.foldl (fun c b => crc32Shift 8 (c ^^^ b.toNat)) 0xFFFFFFFF) ^^^ 0xFFFFFFFF

/-- Eight shifts of the CRC-16 register, most significant bit first. -/
def crc16Shift : Nat → Nat → Nat
  | 0, c => c
  | k + 1, c => crc16Shift k ((if c ≥ 0x8000 then (c * 2) ^^^ 0x1021 else c * 2) % 0x10000)

/-- The CRC-16 of R87: polynomial 0x1021, initial 0xFFFF, no final complement; check value 0x29B1. -/
def crc16 (bs : List Byte) : Nat :=
  bs.foldl (fun c b => crc16Shift 8 (c ^^^ (b.toNat * 256))) 0xFFFF

/-- Division rounded up. -/
def ceilDiv (a b : Nat) : Nat := (a + b - 1) / b

/-- Insert into a list that is sorted by a strict order `lt`, after its equals. -/
def insertBy {α : Type} (lt : α → α → Bool) (x : α) : List α → List α
  | [] => [x]
  | y :: t => if lt x y then x :: y :: t else y :: insertBy lt x t

/-- Stable insertion sort. -/
def sortBy {α : Type} (lt : α → α → Bool) : List α → List α
  | [] => []
  | x :: t => insertBy (fun a b => !lt b a) x (sortBy lt t)

/-- The elements of `xs` kept at most `n` from the end. -/
def lastN {α : Type} (n : Nat) (xs : List α) : List α := xs.drop (xs.length - n)

/-- Index a list. -/
def indexed {α : Type} (xs : List α) : List (Nat × α) := List.zip (List.range xs.length) xs

/-- `xs` with element `i` replaced (unchanged when `i` is past the end). -/
def setAt {α : Type} (xs : List α) (i : Nat) (v : α) : List α := xs.set i v

end Sys2Proof.Machine
end

