-- ==== Sys2Proof/Machine/Params.lean ====
section
/-! DEFINITION. The object dictionary of the spec (R5, R6, R7, R8, R32, R54): the object classes and, for every class,
the rows of its parameter tables in index order, each with its type, range, default and access code. -/

namespace Sys2Proof.Machine

/-- A parameter of a class: class code of Table 1.6 and parameter index (R54). -/
structure Par where
  cls : Nat
  idx : Nat
deriving DecidableEq, Repr

/-- Access codes of Table 0.3 (R8). -/
inductive Acc where
  | ro | rw | rws | w1c
deriving DecidableEq, Repr

/-- Parameter types of Table 0.2. -/
inductive PTy where
  | u (w : Nat) | i (w : Nat) | f | enum | bitset
deriving DecidableEq, Repr

/-- The range column of a parameter row: intervals of natural numbers, a signed interval, a binary32 interval (its ends
rounded once to binary32), any finite binary32, any binary32, or a mask of the defined bits of a bitset (R11). -/
inductive Dom where
  | nat (rs : List (Nat × Nat))
  | int (lo hi : Int)
  | f32 (lo hi : Nat)
  | f32fin
  | f32any
  | bits (mask : Nat)
deriving DecidableEq, Repr

/-- One row of a parameter table (R7). -/
structure PRow where
  name : String
  ty : PTy
  dom : Dom
  dflt : Nat
  acc : Acc
deriving DecidableEq, Repr

abbrev Par.devPartId : Par := ⟨1, 0⟩
abbrev Par.devSiliconRev : Par := ⟨1, 1⟩
abbrev Par.devFwVersion : Par := ⟨1, 2⟩
abbrev Par.devFwSchema : Par := ⟨1, 3⟩
abbrev Par.devUptime : Par := ⟨1, 4⟩
abbrev Par.devEccCorrected : Par := ⟨1, 5⟩
abbrev Par.devEccUncorrected : Par := ⟨1, 6⟩
abbrev Par.devSupRestarts : Par := ⟨1, 7⟩
abbrev Par.devTblCommit : Par := ⟨1, 8⟩
abbrev Par.devTblAbort : Par := ⟨1, 9⟩
abbrev Par.devTblState : Par := ⟨1, 10⟩
abbrev Par.devTblSwitchBeat : Par := ⟨1, 11⟩
abbrev Par.devConvMode : Par := ⟨1, 12⟩
abbrev Par.devModeIndex : Par := ⟨1, 13⟩
abbrev Par.devModeEntryBeat : Par := ⟨1, 14⟩
abbrev Par.beatBeatTicks : Par := ⟨2, 0⟩
abbrev Par.beatWindowPct : Par := ⟨2, 1⟩
abbrev Par.beatBeatPhase : Par := ⟨2, 2⟩
abbrev Par.beatWindowTicks : Par := ⟨2, 3⟩
abbrev Par.beatBeatCount : Par := ⟨2, 4⟩
abbrev Par.beatTimeNow : Par := ⟨2, 5⟩
abbrev Par.beatTimeSource : Par := ⟨2, 6⟩
abbrev Par.beatTimeState : Par := ⟨2, 7⟩
abbrev Par.beatPtpOffset : Par := ⟨2, 8⟩
abbrev Par.beatStepThreshold : Par := ⟨2, 9⟩
abbrev Par.beatSlewLimit : Par := ⟨2, 10⟩
abbrev Par.beatHoldoverLimit : Par := ⟨2, 11⟩
abbrev Par.beatUtcOffset : Par := ⟨2, 12⟩
abbrev Par.beatAlignError : Par := ⟨2, 13⟩
abbrev Par.curveHeaderEntry : Par := ⟨3, 0⟩
abbrev Par.curveCount : Par := ⟨3, 1⟩
abbrev Par.curveBelow : Par := ⟨3, 2⟩
abbrev Par.curveAbove : Par := ⟨3, 3⟩
abbrev Par.curveNanCount : Par := ⟨3, 4⟩
abbrev Par.modeKind : Par := ⟨4, 0⟩
abbrev Par.modeFlags : Par := ⟨4, 1⟩
abbrev Par.modeEntryAction : Par := ⟨4, 2⟩
abbrev Par.modeEntryArg : Par := ⟨4, 3⟩
abbrev Par.modeCtxMaskLo : Par := ⟨4, 4⟩
abbrev Par.modeCtxMaskHi : Par := ⟨4, 5⟩
abbrev Par.modeEntries : Par := ⟨4, 6⟩
abbrev Par.spokeRole : Par := ⟨16, 0⟩
abbrev Par.spokeFarSpoke : Par := ⟨16, 1⟩
abbrev Par.spokeCells : Par := ⟨16, 2⟩
abbrev Par.spokeState : Par := ⟨16, 3⟩
abbrev Par.spokeDiscover : Par := ⟨16, 4⟩
abbrev Par.spokeUnblock : Par := ⟨16, 5⟩
abbrev Par.spokeCellsFound : Par := ⟨16, 6⟩
abbrev Par.spokeTurnA : Par := ⟨16, 7⟩
abbrev Par.spokeTurnB : Par := ⟨16, 8⟩
abbrev Par.spokeFrameTime : Par := ⟨16, 9⟩
abbrev Par.spokeFramesLost : Par := ⟨16, 10⟩
abbrev Par.spokeCrcErrors : Par := ⟨16, 11⟩
abbrev Par.spokeErrPos : Par := ⟨16, 12⟩
abbrev Par.spokeAuthSplit : Par := ⟨16, 13⟩
abbrev Par.spokeLink : Par := ⟨16, 14⟩
abbrev Par.cellPresent : Par := ⟨17, 0⟩
abbrev Par.cellSerial : Par := ⟨17, 1⟩
abbrev Par.cellSerialRef : Par := ⟨17, 2⟩
abbrev Par.cellMaker : Par := ⟨17, 3⟩
abbrev Par.cellCellType : Par := ⟨17, 4⟩
abbrev Par.cellRelayLatency : Par := ⟨17, 5⟩
abbrev Par.cellDelayA : Par := ⟨17, 6⟩
abbrev Par.cellDelayB : Par := ⟨17, 7⟩
abbrev Par.cellVcap : Par := ⟨17, 8⟩
abbrev Par.cellTemp : Par := ⟨17, 9⟩
abbrev Par.cellBoot : Par := ⟨17, 10⟩
abbrev Par.cellVgate : Par := ⟨17, 11⟩
abbrev Par.cellStatus : Par := ⟨17, 12⟩
abbrev Par.cellSwState : Par := ⟨17, 13⟩
abbrev Par.cellFaults : Par := ⟨17, 14⟩
abbrev Par.cellTelemBeat : Par := ⟨17, 15⟩
abbrev Par.cellStale : Par := ⟨17, 16⟩
abbrev Par.cellLost : Par := ⟨17, 17⟩
abbrev Par.cellBypass : Par := ⟨17, 18⟩
abbrev Par.cellClearLock : Par := ⟨17, 19⟩
abbrev Par.cellProtState : Par := ⟨17, 20⟩
abbrev Par.cellLockMask : Par := ⟨17, 21⟩
abbrev Par.cellDesatCount : Par := ⟨17, 22⟩
abbrev Par.cellShortCount : Par := ⟨17, 23⟩
abbrev Par.cellUvloFaults : Par := ⟨17, 24⟩
abbrev Par.cellBlankTime : Par := ⟨17, 25⟩
abbrev Par.cellDidtThr : Par := ⟨17, 26⟩
abbrev Par.cellDesatV : Par := ⟨17, 27⟩
abbrev Par.cellSoftOff : Par := ⟨17, 28⟩
abbrev Par.cellDeadTime : Par := ⟨17, 29⟩
abbrev Par.cellUvloV : Par := ⟨17, 30⟩
abbrev Par.cellUvloHyst : Par := ⟨17, 31⟩
abbrev Par.cellVcapTrip : Par := ⟨17, 32⟩
abbrev Par.armSpokeSet : Par := ⟨18, 0⟩
abbrev Par.armCellType : Par := ⟨18, 1⟩
abbrev Par.armRedundMode : Par := ⟨18, 2⟩
abbrev Par.armNSpare : Par := ⟨18, 3⟩
abbrev Par.armCellsMin : Par := ⟨18, 4⟩
abbrev Par.armCellCap : Par := ⟨18, 5⟩
abbrev Par.armVCellNom : Par := ⟨18, 6⟩
abbrev Par.armVref : Par := ⟨18, 7⟩
abbrev Par.armISrc : Par := ⟨18, 8⟩
abbrev Par.armIOut : Par := ⟨18, 9⟩
abbrev Par.armIScale : Par := ⟨18, 10⟩
abbrev Par.armIDead : Par := ⟨18, 11⟩
abbrev Par.armWV : Par := ⟨18, 12⟩
abbrev Par.armWB : Par := ⟨18, 13⟩
abbrev Par.armWH : Par := ⟨18, 14⟩
abbrev Par.armWT : Par := ⟨18, 15⟩
abbrev Par.armWN : Par := ⟨18, 16⟩
abbrev Par.armBudget : Par := ⟨18, 17⟩
abbrev Par.armBootDrain : Par := ⟨18, 18⟩
abbrev Par.armBootPump : Par := ⟨18, 19⟩
abbrev Par.armRefreshThr : Par := ⟨18, 20⟩
abbrev Par.armHoldFloor : Par := ⟨18, 21⟩
abbrev Par.armRefreshDwell : Par := ⟨18, 22⟩
abbrev Par.armDwellMin : Par := ⟨18, 23⟩
abbrev Par.armFracRotate : Par := ⟨18, 24⟩
abbrev Par.armState : Par := ⟨18, 25⟩
abbrev Par.armNAvail : Par := ⟨18, 26⟩
abbrev Par.armNService : Par := ⟨18, 27⟩
abbrev Par.armNInserted : Par := ⟨18, 28⟩
abbrev Par.armFracCell : Par := ⟨18, 29⟩
abbrev Par.armFracEdge : Par := ⟨18, 30⟩
abbrev Par.armVout : Par := ⟨18, 31⟩
abbrev Par.armCarry : Par := ⟨18, 32⟩
abbrev Par.armStatus : Par := ⟨18, 33⟩
abbrev Par.armSatCount : Par := ⟨18, 34⟩
abbrev Par.armClipCount : Par := ⟨18, 35⟩
abbrev Par.armDeferCount : Par := ⟨18, 36⟩
abbrev Par.armRefreshCount : Par := ⟨18, 37⟩
abbrev Par.armUvloRefresh : Par := ⟨18, 38⟩
abbrev Par.armCarryDiscards : Par := ⟨18, 39⟩
abbrev Par.armBudgetOver : Par := ⟨18, 40⟩
abbrev Par.armDivergeCount : Par := ⟨18, 41⟩
abbrev Par.armProbeCell : Par := ⟨18, 42⟩
abbrev Par.armProbeVhat : Par := ⟨18, 43⟩
abbrev Par.armProbeBoot : Par := ⟨18, 44⟩
abbrev Par.armProbeRate : Par := ⟨18, 45⟩
abbrev Par.armProbeScore : Par := ⟨18, 46⟩
abbrev Par.armProbeRank : Par := ⟨18, 47⟩
abbrev Par.armFaultCause : Par := ⟨18, 48⟩
abbrev Par.armFaultBeat : Par := ⟨18, 49⟩
abbrev Par.armFaultCells : Par := ⟨18, 50⟩
abbrev Par.armArmFaults : Par := ⟨18, 51⟩
abbrev Par.armBlockClear : Par := ⟨18, 52⟩
abbrev Par.armBypassed : Par := ⟨18, 53⟩
abbrev Par.ctxState : Par := ⟨32, 0⟩
abbrev Par.ctxNStates : Par := ⟨32, 1⟩
abbrev Par.ctxNOut : Par := ⟨32, 2⟩
abbrev Par.ctxNIn : Par := ⟨32, 3⟩
abbrev Par.ctxFlags : Par := ⟨32, 4⟩
abbrev Par.ctxRateDiv : Par := ⟨32, 5⟩
abbrev Par.ctxPhase : Par := ⟨32, 6⟩
abbrev Par.ctxOrder : Par := ⟨32, 7⟩
abbrev Par.ctxOverrunLimit : Par := ⟨32, 8⟩
abbrev Par.ctxIntMask : Par := ⟨32, 9⟩
abbrev Par.ctxCycles : Par := ⟨32, 10⟩
abbrev Par.ctxRef0 : Par := ⟨32, 11⟩
abbrev Par.ctxRef1 : Par := ⟨32, 12⟩
abbrev Par.ctxRef2 : Par := ⟨32, 13⟩
abbrev Par.ctxRef3 : Par := ⟨32, 14⟩
abbrev Par.ctxRef4 : Par := ⟨32, 15⟩
abbrev Par.ctxRef5 : Par := ⟨32, 16⟩
abbrev Par.ctxRef6 : Par := ⟨32, 17⟩
abbrev Par.ctxRef7 : Par := ⟨32, 18⟩
abbrev Par.ctxRecover : Par := ⟨32, 19⟩
abbrev Par.ctxConsec : Par := ⟨32, 20⟩
abbrev Par.ctxOverruns : Par := ⟨32, 21⟩
abbrev Par.ctxLastCause : Par := ⟨32, 22⟩
abbrev Par.ctxStaleInputs : Par := ⟨32, 23⟩
abbrev Par.ctxIntHolds : Par := ⟨32, 24⟩
abbrev Par.ctxSatMask : Par := ⟨32, 25⟩
abbrev Par.ctxExecCount : Par := ⟨32, 26⟩
abbrev Par.ctxLastExecBeat : Par := ⟨32, 27⟩
abbrev Par.ctxFinishCycle : Par := ⟨32, 28⟩
abbrev Par.ctxProbeSel : Par := ⟨32, 29⟩
abbrev Par.ctxProbeX : Par := ⟨32, 30⟩
abbrev Par.ctxProbeU : Par := ⟨32, 31⟩
abbrev Par.ctxProbeIn : Par := ⟨32, 32⟩
abbrev Par.ctxSyncMisses : Par := ⟨32, 33⟩
abbrev Par.gridEnable : Par := ⟨33, 0⟩
abbrev Par.gridSBase : Par := ⟨33, 1⟩
abbrev Par.gridVBase : Par := ⟨33, 2⟩
abbrev Par.gridVdcNom : Par := ⟨33, 3⟩
abbrev Par.gridFNom : Par := ⟨33, 4⟩
abbrev Par.gridCtxSync : Par := ⟨33, 5⟩
abbrev Par.gridCtxCur : Par := ⟨33, 6⟩
abbrev Par.gridCtxDc : Par := ⟨33, 7⟩
abbrev Par.gridCtxChop : Par := ⟨33, 8⟩
abbrev Par.gridOrder : Par := ⟨33, 9⟩
abbrev Par.gridLead : Par := ⟨33, 10⟩
abbrev Par.gridSyncMin : Par := ⟨33, 11⟩
abbrev Par.gridFTau : Par := ⟨33, 12⟩
abbrev Par.gridPSrc : Par := ⟨33, 13⟩
abbrev Par.gridQMode : Par := ⟨33, 14⟩
abbrev Par.gridPRef : Par := ⟨33, 15⟩
abbrev Par.gridQRef : Par := ⟨33, 16⟩
abbrev Par.gridPhiRef : Par := ⟨33, 17⟩
abbrev Par.gridPRate : Par := ⟨33, 18⟩
abbrev Par.gridQRate : Par := ⟨33, 19⟩
abbrev Par.gridPhiRate : Par := ⟨33, 20⟩
abbrev Par.gridPMax : Par := ⟨33, 21⟩
abbrev Par.gridPMin : Par := ⟨33, 22⟩
abbrev Par.gridQMax : Par := ⟨33, 23⟩
abbrev Par.gridQMin : Par := ⟨33, 24⟩
abbrev Par.gridIMax : Par := ⟨33, 25⟩
abbrev Par.gridHInertia : Par := ⟨33, 26⟩
abbrev Par.gridDDamp : Par := ⟨33, 27⟩
abbrev Par.gridRV : Par := ⟨33, 28⟩
abbrev Par.gridXV : Par := ⟨33, 29⟩
abbrev Par.gridERef : Par := ⟨33, 30⟩
abbrev Par.gridQDroop : Par := ⟨33, 31⟩
abbrev Par.gridFrtMeasure : Par := ⟨33, 32⟩
abbrev Par.gridUvEnter : Par := ⟨33, 33⟩
abbrev Par.gridUvExit : Par := ⟨33, 34⟩
abbrev Par.gridOvEnter : Par := ⟨33, 35⟩
abbrev Par.gridOvExit : Par := ⟨33, 36⟩
abbrev Par.gridFrtConfirm : Par := ⟨33, 37⟩
abbrev Par.gridFrtExitMs : Par := ⟨33, 38⟩
abbrev Par.gridFrtMax : Par := ⟨33, 39⟩
abbrev Par.gridUvCurve : Par := ⟨33, 40⟩
abbrev Par.gridOvCurve : Par := ⟨33, 41⟩
abbrev Par.gridKPos : Par := ⟨33, 42⟩
abbrev Par.gridKNeg : Par := ⟨33, 43⟩
abbrev Par.gridKPosCurve : Par := ⟨33, 44⟩
abbrev Par.gridRecRate : Par := ⟨33, 45⟩
abbrev Par.gridUPos : Par := ⟨33, 46⟩
abbrev Par.gridUNeg : Par := ⟨33, 47⟩
abbrev Par.gridULo : Par := ⟨33, 48⟩
abbrev Par.gridUHi : Par := ⟨33, 49⟩
abbrev Par.gridTheta : Par := ⟨33, 50⟩
abbrev Par.gridFreq : Par := ⟨33, 51⟩
abbrev Par.gridPMeas : Par := ⟨33, 52⟩
abbrev Par.gridQMeas : Par := ⟨33, 53⟩
abbrev Par.gridVdcPu : Par := ⟨33, 54⟩
abbrev Par.gridPEff : Par := ⟨33, 55⟩
abbrev Par.gridQEff : Par := ⟨33, 56⟩
abbrev Par.gridPhiEff : Par := ⟨33, 57⟩
abbrev Par.gridPCmd : Par := ⟨33, 58⟩
abbrev Par.gridPRec : Par := ⟨33, 59⟩
abbrev Par.gridID : Par := ⟨33, 60⟩
abbrev Par.gridIR : Par := ⟨33, 61⟩
abbrev Par.gridIRn : Par := ⟨33, 62⟩
abbrev Par.gridFrtState : Par := ⟨33, 63⟩
abbrev Par.gridFrtOrigin : Par := ⟨33, 64⟩
abbrev Par.gridFrtOnset : Par := ⟨33, 65⟩
abbrev Par.gridUPre : Par := ⟨33, 66⟩
abbrev Par.gridVsmSpeed : Par := ⟨33, 67⟩
abbrev Par.gridStatus : Par := ⟨33, 68⟩
abbrev Par.gridFrtCount : Par := ⟨33, 69⟩
abbrev Par.gridFrtTrips : Par := ⟨33, 70⟩
abbrev Par.gridSyncMisses : Par := ⟨33, 71⟩
abbrev Par.isldEnable : Par := ⟨34, 0⟩
abbrev Par.isldSiteId : Par := ⟨34, 1⟩
abbrev Par.isldCodeIndex : Par := ⟨34, 2⟩
abbrev Par.isldInjectAmp : Par := ⟨34, 3⟩
abbrev Par.isldInjectAxis : Par := ⟨34, 4⟩
abbrev Par.isldChipBeats : Par := ⟨34, 5⟩
abbrev Par.isldLagWindow : Par := ⟨34, 6⟩
abbrev Par.isldVSrc0 : Par := ⟨34, 7⟩
abbrev Par.isldVSrc1 : Par := ⟨34, 8⟩
abbrev Par.isldVSrc2 : Par := ⟨34, 9⟩
abbrev Par.isldISrc0 : Par := ⟨34, 10⟩
abbrev Par.isldISrc1 : Par := ⟨34, 11⟩
abbrev Par.isldISrc2 : Par := ⟨34, 12⟩
abbrev Par.isldVScale : Par := ⟨34, 13⟩
abbrev Par.isldIScale : Par := ⟨34, 14⟩
abbrev Par.isldZFreq0 : Par := ⟨34, 15⟩
abbrev Par.isldZFreq1 : Par := ⟨34, 16⟩
abbrev Par.isldZFreq2 : Par := ⟨34, 17⟩
abbrev Par.isldZFreq3 : Par := ⟨34, 18⟩
abbrev Par.isldZFreq4 : Par := ⟨34, 19⟩
abbrev Par.isldZFreq5 : Par := ⟨34, 20⟩
abbrev Par.isldZFreq6 : Par := ⟨34, 21⟩
abbrev Par.isldZFreq7 : Par := ⟨34, 22⟩
abbrev Par.isldZRefIdx : Par := ⟨34, 23⟩
abbrev Par.isldZRatio : Par := ⟨34, 24⟩
abbrev Par.isldZIsland : Par := ⟨34, 25⟩
abbrev Par.isldZTau : Par := ⟨34, 26⟩
abbrev Par.isldZWarm : Par := ⟨34, 27⟩
abbrev Par.isldICorrFloor : Par := ⟨34, 28⟩
abbrev Par.isldZBase : Par := ⟨34, 29⟩
abbrev Par.isldZSel : Par := ⟨34, 30⟩
abbrev Par.isldZMag : Par := ⟨34, 31⟩
abbrev Par.isldZAng : Par := ⟨34, 32⟩
abbrev Par.isldZValid : Par := ⟨34, 33⟩
abbrev Par.isldRocofThr : Par := ⟨34, 34⟩
abbrev Par.isldRocofWin : Par := ⟨34, 35⟩
abbrev Par.isldVshiftThr : Par := ⟨34, 36⟩
abbrev Par.isldVwinCurve : Par := ⟨34, 37⟩
abbrev Par.isldFwinCurve : Par := ⟨34, 38⟩
abbrev Par.isldSvMask : Par := ⟨34, 39⟩
abbrev Par.isldSvDf : Par := ⟨34, 40⟩
abbrev Par.isldSvDtheta : Par := ⟨34, 41⟩
abbrev Par.isldSvOffset : Par := ⟨34, 42⟩
abbrev Par.isldSvConfirm : Par := ⟨34, 43⟩
abbrev Par.isldPolicy : Par := ⟨34, 44⟩
abbrev Par.isldHoldMs : Par := ⟨34, 45⟩
abbrev Par.isldCriteria : Par := ⟨34, 46⟩
abbrev Par.isldDecision : Par := ⟨34, 47⟩
abbrev Par.isldDecisionTime : Par := ⟨34, 48⟩
abbrev Par.isldDecisionCriteria : Par := ⟨34, 49⟩
abbrev Par.isldStatus : Par := ⟨34, 50⟩
abbrev Par.isldSequences : Par := ⟨34, 51⟩
abbrev Par.isldSeqInvalid : Par := ⟨34, 52⟩
abbrev Par.isldDecisions : Par := ⟨34, 53⟩
abbrev Par.isldSuppressed : Par := ⟨34, 54⟩
abbrev Par.portTopology : Par := ⟨48, 0⟩
abbrev Par.portKind : Par := ⟨48, 1⟩
abbrev Par.portLegA : Par := ⟨48, 2⟩
abbrev Par.portLegB : Par := ⟨48, 3⟩
abbrev Par.portCtx : Par := ⟨48, 4⟩
abbrev Par.portOrder : Par := ⟨48, 5⟩
abbrev Par.portVSrc : Par := ⟨48, 6⟩
abbrev Par.portISrc : Par := ⟨48, 7⟩
abbrev Par.portVScale : Par := ⟨48, 8⟩
abbrev Par.portIScale : Par := ⟨48, 9⟩
abbrev Par.portPRated : Par := ⟨48, 10⟩
abbrev Par.portState : Par := ⟨48, 11⟩
abbrev Par.portVMeas : Par := ⟨48, 12⟩
abbrev Par.portIMeas : Par := ⟨48, 13⟩
abbrev Par.portPMeas : Par := ⟨48, 14⟩
abbrev Par.portStatus : Par := ⟨48, 15⟩
abbrev Par.portClear : Par := ⟨48, 16⟩
abbrev Par.portUnlock : Par := ⟨48, 17⟩
abbrev Par.portTrips : Par := ⟨48, 18⟩
abbrev Par.portTSrc : Par := ⟨48, 19⟩
abbrev Par.portTScale : Par := ⟨48, 20⟩
abbrev Par.portTModule : Par := ⟨48, 21⟩
abbrev Par.portVocCurve : Par := ⟨48, 22⟩
abbrev Par.portVocFraction : Par := ⟨48, 23⟩
abbrev Par.portVocPeriod : Par := ⟨48, 24⟩
abbrev Par.portOpenMs : Par := ⟨48, 25⟩
abbrev Par.portVocMin : Par := ⟨48, 26⟩
abbrev Par.portVocMax : Par := ⟨48, 27⟩
abbrev Par.portVSlew : Par := ⟨48, 28⟩
abbrev Par.portDitherPct : Par := ⟨48, 29⟩
abbrev Par.portDitherMs : Par := ⟨48, 30⟩
abbrev Par.portDitherDead : Par := ⟨48, 31⟩
abbrev Par.portTrimStep : Par := ⟨48, 32⟩
abbrev Par.portTrimMax : Par := ⟨48, 33⟩
abbrev Par.portPLimit : Par := ⟨48, 34⟩
abbrev Par.portSampleNow : Par := ⟨48, 35⟩
abbrev Par.portVoc : Par := ⟨48, 36⟩
abbrev Par.portVocTime : Par := ⟨48, 37⟩
abbrev Par.portFraction : Par := ⟨48, 38⟩
abbrev Par.portTrim : Par := ⟨48, 39⟩
abbrev Par.portVTarget : Par := ⟨48, 40⟩
abbrev Par.portSamples : Par := ⟨48, 41⟩
abbrev Par.portVocInvalid : Par := ⟨48, 42⟩
abbrev Par.portSamplesLate : Par := ⟨48, 43⟩
abbrev Par.portECap : Par := ⟨48, 44⟩
abbrev Par.portEtaChg : Par := ⟨48, 45⟩
abbrev Par.portEtaDis : Par := ⟨48, 46⟩
abbrev Par.portSocSet : Par := ⟨48, 47⟩
abbrev Par.portSoc : Par := ⟨48, 48⟩
abbrev Par.portEnergy : Par := ⟨48, 49⟩
abbrev Par.portEFloor : Par := ⟨48, 50⟩
abbrev Par.portEReserve : Par := ⟨48, 51⟩
abbrev Par.portSocMax : Par := ⟨48, 52⟩
abbrev Par.portPSet : Par := ⟨48, 53⟩
abbrev Par.portPRate : Par := ⟨48, 54⟩
abbrev Par.portPDisMax : Par := ⟨48, 55⟩
abbrev Par.portPChgMax : Par := ⟨48, 56⟩
abbrev Par.portPEff : Par := ⟨48, 57⟩
abbrev Par.portPCmd : Par := ⟨48, 58⟩
abbrev Par.portBurstReq : Par := ⟨48, 59⟩
abbrev Par.portBurstP : Par := ⟨48, 60⟩
abbrev Par.portBurstS : Par := ⟨48, 61⟩
abbrev Par.portBurstRate : Par := ⟨48, 62⟩
abbrev Par.portBurstMinS : Par := ⟨48, 63⟩
abbrev Par.portBurstAbort : Par := ⟨48, 64⟩
abbrev Par.portBurstState : Par := ⟨48, 65⟩
abbrev Par.portBurstEnd : Par := ⟨48, 66⟩
abbrev Par.portBurstResult : Par := ⟨48, 67⟩
abbrev Par.portBurstsTruncated : Par := ⟨48, 68⟩
abbrev Par.legRole : Par := ⟨49, 0⟩
abbrev Par.legCarrier : Par := ⟨49, 1⟩
abbrev Par.legInvert : Par := ⟨49, 2⟩
abbrev Par.legSwap : Par := ⟨49, 3⟩
abbrev Par.legComp : Par := ⟨49, 4⟩
abbrev Par.legPeriod : Par := ⟨49, 5⟩
abbrev Par.legPhase : Par := ⟨49, 6⟩
abbrev Par.legSyncLeg : Par := ⟨49, 7⟩
abbrev Par.legUpdate : Par := ⟨49, 8⟩
abbrev Par.legDtRise : Par := ⟨49, 9⟩
abbrev Par.legDtFall : Par := ⟨49, 10⟩
abbrev Par.legMinPulse : Par := ⟨49, 11⟩
abbrev Par.legDuty : Par := ⟨49, 12⟩
abbrev Par.legTCtrl : Par := ⟨49, 13⟩
abbrev Par.legShift : Par := ⟨49, 14⟩
abbrev Par.legTermWin : Par := ⟨49, 15⟩
abbrev Par.legTVarMin : Par := ⟨49, 16⟩
abbrev Par.legTVarMax : Par := ⟨49, 17⟩
abbrev Par.legRefreshMax : Par := ⟨49, 18⟩
abbrev Par.legRefreshPulse : Par := ⟨49, 19⟩
abbrev Par.legFltFilter : Par := ⟨49, 20⟩
abbrev Par.legRdyUse : Par := ⟨49, 21⟩
abbrev Par.legEvZeroDiv : Par := ⟨49, 22⟩
abbrev Par.legEvPeriodDiv : Par := ⟨49, 23⟩
abbrev Par.legEvCmpDiv : Par := ⟨49, 24⟩
abbrev Par.legState : Par := ⟨49, 25⟩
abbrev Par.legStatus : Par := ⟨49, 26⟩
abbrev Par.legTripCause : Par := ⟨49, 27⟩
abbrev Par.legTripTime : Par := ⟨49, 28⟩
abbrev Par.legClear : Par := ⟨49, 29⟩
abbrev Par.legTrips : Par := ⟨49, 30⟩
abbrev Par.legCarry : Par := ⟨49, 31⟩
abbrev Par.legPulsesDropped : Par := ⟨49, 32⟩
abbrev Par.legCarryDiscards : Par := ⟨49, 33⟩
abbrev Par.legRefreshes : Par := ⟨49, 34⟩
abbrev Par.legChopGrid : Par := ⟨49, 35⟩
abbrev Par.legChopR : Par := ⟨49, 36⟩
abbrev Par.legChopTau : Par := ⟨49, 37⟩
abbrev Par.legChopEMax : Par := ⟨49, 38⟩
abbrev Par.legChopEnergy : Par := ⟨49, 39⟩
abbrev Par.legChopLimited : Par := ⟨49, 40⟩
abbrev Par.adcEnable : Par := ⟨64, 0⟩
abbrev Par.adcOffset : Par := ⟨64, 1⟩
abbrev Par.adcGain : Par := ⟨64, 2⟩
abbrev Par.adcCalibrate : Par := ⟨64, 3⟩
abbrev Par.adcValue : Par := ⟨64, 4⟩
abbrev Par.adcCode : Par := ⟨64, 5⟩
abbrev Par.adcSampleTime : Par := ⟨64, 6⟩
abbrev Par.adcStatus : Par := ⟨64, 7⟩
abbrev Par.adcOvrCount : Par := ⟨64, 8⟩
abbrev Par.adcCalOffset : Par := ⟨64, 9⟩
abbrev Par.adcCalGain : Par := ⟨64, 10⟩
abbrev Par.sdiEnable : Par := ⟨65, 0⟩
abbrev Par.sdiClkSel : Par := ⟨65, 1⟩
abbrev Par.sdiClkDelay : Par := ⟨65, 2⟩
abbrev Par.sdiDecim : Par := ⟨65, 3⟩
abbrev Par.sdiOffset : Par := ⟨65, 4⟩
abbrev Par.sdiGain : Par := ⟨65, 5⟩
abbrev Par.sdiStuckRun : Par := ⟨65, 6⟩
abbrev Par.sdiValue : Par := ⟨65, 7⟩
abbrev Par.sdiSampleTime : Par := ⟨65, 8⟩
abbrev Par.sdiStatus : Par := ⟨65, 9⟩
abbrev Par.sdiStuckCount : Par := ⟨65, 10⟩
abbrev Par.winInput : Par := ⟨66, 0⟩
abbrev Par.winCompEn : Par := ⟨66, 1⟩
abbrev Par.winHiThr : Par := ⟨66, 2⟩
abbrev Par.winLoThr : Par := ⟨66, 3⟩
abbrev Par.winHyst : Par := ⟨66, 4⟩
abbrev Par.winModeRun : Par := ⟨66, 5⟩
abbrev Par.winModeParked : Par := ⟨66, 6⟩
abbrev Par.winRouteLeg : Par := ⟨66, 7⟩
abbrev Par.winRouteArm : Par := ⟨66, 8⟩
abbrev Par.winRouteRim : Par := ⟨66, 9⟩
abbrev Par.winStateHi : Par := ⟨66, 10⟩
abbrev Par.winStateLo : Par := ⟨66, 11⟩
abbrev Par.winTripped : Par := ⟨66, 12⟩
abbrev Par.winFlag : Par := ⟨66, 13⟩
abbrev Par.winTripCount : Par := ⟨66, 14⟩
abbrev Par.winTripTime : Par := ⟨66, 15⟩
abbrev Par.winReadback : Par := ⟨66, 16⟩
abbrev Par.winReadbackChan : Par := ⟨66, 17⟩
abbrev Par.winReadbackV : Par := ⟨66, 18⟩
abbrev Par.winReadbackErr : Par := ⟨66, 19⟩
abbrev Par.winCheckPeriod : Par := ⟨66, 20⟩
abbrev Par.winThrFail : Par := ⟨66, 21⟩
abbrev Par.metrEnable : Par := ⟨80, 0⟩
abbrev Par.metrVSel : Par := ⟨80, 1⟩
abbrev Par.metrVFs : Par := ⟨80, 2⟩
abbrev Par.metrIFs : Par := ⟨80, 3⟩
abbrev Par.metrHpf : Par := ⟨80, 4⟩
abbrev Par.metrVGain : Par := ⟨80, 5⟩
abbrev Par.metrIGain : Par := ⟨80, 6⟩
abbrev Par.metrVOffset : Par := ⟨80, 7⟩
abbrev Par.metrIOffset : Par := ⟨80, 8⟩
abbrev Par.metrVDelay : Par := ⟨80, 9⟩
abbrev Par.metrIDelay : Par := ⟨80, 10⟩
abbrev Par.metrPGain : Par := ⟨80, 11⟩
abbrev Par.metrQGain : Par := ⟨80, 12⟩
abbrev Par.metrSGain : Par := ⟨80, 13⟩
abbrev Par.metrPOffset : Par := ⟨80, 14⟩
abbrev Par.metrQOffset : Par := ⟨80, 15⟩
abbrev Par.metrPqPhase : Par := ⟨80, 16⟩
abbrev Par.metrIBasic : Par := ⟨80, 17⟩
abbrev Par.metrStartPct : Par := ⟨80, 18⟩
abbrev Par.metrVRms : Par := ⟨80, 19⟩
abbrev Par.metrIRms : Par := ⟨80, 20⟩
abbrev Par.metrElemMask : Par := ⟨80, 21⟩
abbrev Par.metrFNom : Par := ⟨80, 22⟩
abbrev Par.metrP : Par := ⟨80, 23⟩
abbrev Par.metrQ : Par := ⟨80, 24⟩
abbrev Par.metrS : Par := ⟨80, 25⟩
abbrev Par.metrPf : Par := ⟨80, 26⟩
abbrev Par.metrFreq : Par := ⟨80, 27⟩
abbrev Par.metrStatus : Par := ⟨80, 28⟩
abbrev Par.metrAImp : Par := ⟨80, 29⟩
abbrev Par.metrAExp : Par := ⟨80, 30⟩
abbrev Par.metrQ1 : Par := ⟨80, 31⟩
abbrev Par.metrQ2 : Par := ⟨80, 32⟩
abbrev Par.metrQ3 : Par := ⟨80, 33⟩
abbrev Par.metrQ4 : Par := ⟨80, 34⟩
abbrev Par.metrSTot : Par := ⟨80, 35⟩
abbrev Par.metrRegSel : Par := ⟨80, 36⟩
abbrev Par.metrRegDelta : Par := ⟨80, 37⟩
abbrev Par.metrRegWrap : Par := ⟨80, 38⟩
abbrev Par.metrAllocSel : Par := ⟨80, 39⟩
abbrev Par.metrAllocOut : Par := ⟨80, 40⟩
abbrev Par.metrAllocIn : Par := ⟨80, 41⟩
abbrev Par.metrCommitSeq : Par := ⟨80, 42⟩
abbrev Par.metrCommitTime : Par := ⟨80, 43⟩
abbrev Par.metrSLast : Par := ⟨80, 44⟩
abbrev Par.metrLostCount : Par := ⟨80, 45⟩
abbrev Par.metrLostBound : Par := ⟨80, 46⟩
abbrev Par.metrLostTime : Par := ⟨80, 47⟩
abbrev Par.capMode : Par := ⟨96, 0⟩
abbrev Par.capSrc : Par := ⟨96, 1⟩
abbrev Par.capSrcSel : Par := ⟨96, 2⟩
abbrev Par.capRate : Par := ⟨96, 3⟩
abbrev Par.capDiv : Par := ⟨96, 4⟩
abbrev Par.capFormat : Par := ⟨96, 5⟩
abbrev Par.capMem : Par := ⟨96, 6⟩
abbrev Par.capBufKib : Par := ⟨96, 7⟩
abbrev Par.capPreCount : Par := ⟨96, 8⟩
abbrev Par.capPostCount : Par := ⟨96, 9⟩
abbrev Par.capRearm : Par := ⟨96, 10⟩
abbrev Par.capFlushMs : Par := ⟨96, 11⟩
abbrev Par.capMarkEvt : Par := ⟨96, 12⟩
abbrev Par.capMarkLeg : Par := ⟨96, 13⟩
abbrev Par.capRun : Par := ⟨96, 14⟩
abbrev Par.capState : Par := ⟨96, 15⟩
abbrev Par.capFlags : Par := ⟨96, 16⟩
abbrev Par.capSamples : Par := ⟨96, 17⟩
abbrev Par.capBlocks : Par := ⟨96, 18⟩
abbrev Par.capGaps : Par := ⟨96, 19⟩
abbrev Par.capGapSamples : Par := ⟨96, 20⟩
abbrev Par.capMissed : Par := ⟨96, 21⟩
abbrev Par.capPreActual : Par := ⟨96, 22⟩
abbrev Par.capTrigTime : Par := ⟨96, 23⟩
abbrev Par.trigKind : Par := ⟨97, 0⟩
abbrev Par.trigSrc : Par := ⟨97, 1⟩
abbrev Par.trigSrcSel : Par := ⟨97, 2⟩
abbrev Par.trigSrcRate : Par := ⟨97, 3⟩
abbrev Par.trigEdge : Par := ⟨97, 4⟩
abbrev Par.trigLevel : Par := ⟨97, 5⟩
abbrev Par.trigHyst : Par := ⟨97, 6⟩
abbrev Par.trigWin : Par := ⟨97, 7⟩
abbrev Par.trigWinComp : Par := ⟨97, 8⟩
abbrev Par.trigEvt : Par := ⟨97, 9⟩
abbrev Par.trigLeg : Par := ⟨97, 10⟩
abbrev Par.trigCarrierKind : Par := ⟨97, 11⟩
abbrev Par.trigStreamMask : Par := ⟨97, 12⟩
abbrev Par.trigHoldoffUs : Par := ⟨97, 13⟩
abbrev Par.trigAutoMs : Par := ⟨97, 14⟩
abbrev Par.trigWeave : Par := ⟨97, 15⟩
abbrev Par.trigFireWindow : Par := ⟨97, 16⟩
abbrev Par.trigArm : Par := ⟨97, 17⟩
abbrev Par.trigFire : Par := ⟨97, 18⟩
abbrev Par.trigState : Par := ⟨97, 19⟩
abbrev Par.trigFires : Par := ⟨97, 20⟩
abbrev Par.trigMissed : Par := ⟨97, 21⟩
abbrev Par.trigLastTime : Par := ⟨97, 22⟩
abbrev Par.trigLastCause : Par := ⟨97, 23⟩
abbrev Par.trigLastStake : Par := ⟨97, 24⟩
abbrev Par.rimState : Par := ⟨112, 0⟩
abbrev Par.rimCause : Par := ⟨112, 1⟩
abbrev Par.rimInLevel : Par := ⟨112, 2⟩
abbrev Par.rimInUndet : Par := ⟨112, 3⟩
abbrev Par.rimInDemand : Par := ⟨112, 4⟩
abbrev Par.rimInFault : Par := ⟨112, 5⟩
abbrev Par.rimOutEnergised : Par := ⟨112, 6⟩
abbrev Par.rimOutCauses : Par := ⟨112, 7⟩
abbrev Par.rimOutFault : Par := ⟨112, 8⟩
abbrev Par.rimLockoutTime : Par := ⟨112, 9⟩
abbrev Par.rimLockouts : Par := ⟨112, 10⟩
abbrev Par.rimDemands : Par := ⟨112, 11⟩
abbrev Par.rimTestsPassed : Par := ⟨112, 12⟩
abbrev Par.rimTestsFailed : Par := ⟨112, 13⟩
abbrev Par.rimTestsDiscarded : Par := ⟨112, 14⟩
abbrev Par.rimOffTests : Par := ⟨112, 15⟩
abbrev Par.rimResetPresses : Par := ⟨112, 16⟩
abbrev Par.rimResetsAccepted : Par := ⟨112, 17⟩
abbrev Par.rimResetFaults : Par := ⟨112, 18⟩
abbrev Par.rimStrapId : Par := ⟨112, 19⟩
abbrev Par.rimCfgSerial : Par := ⟨112, 20⟩
abbrev Par.rimCfgStaged : Par := ⟨112, 21⟩
abbrev Par.weaveStake : Par := ⟨128, 0⟩
abbrev Par.weaveStrap : Par := ⟨128, 1⟩
abbrev Par.weaveAssigned : Par := ⟨128, 2⟩
abbrev Par.weaveIdentity : Par := ⟨128, 3⟩
abbrev Par.weavePartner : Par := ⟨128, 4⟩
abbrev Par.weavePairState : Par := ⟨128, 5⟩
abbrev Par.weaveToken : Par := ⟨128, 6⟩
abbrev Par.weaveTokenGive : Par := ⟨128, 7⟩
abbrev Par.weaveTokenChanges : Par := ⟨128, 8⟩
abbrev Par.weaveTokenYields : Par := ⟨128, 9⟩
abbrev Par.weaveStakesPresent : Par := ⟨128, 10⟩
abbrev Par.weaveTimeRoot : Par := ⟨128, 11⟩
abbrev Par.weaveTimeParent : Par := ⟨128, 12⟩
abbrev Par.weaveTimeRank : Par := ⟨128, 13⟩
abbrev Par.weavePortSel : Par := ⟨128, 14⟩
abbrev Par.weavePortState : Par := ⟨128, 15⟩
abbrev Par.weavePortPeer : Par := ⟨128, 16⟩
abbrev Par.weavePortPeerPort : Par := ⟨128, 17⟩
abbrev Par.weavePortDelay : Par := ⟨128, 18⟩
abbrev Par.weavePortOffset : Par := ⟨128, 19⟩
abbrev Par.weavePortAsym : Par := ⟨128, 20⟩
abbrev Par.weavePortCrc : Par := ⟨128, 21⟩
abbrev Par.weavePortDowns : Par := ⟨128, 22⟩
abbrev Par.weaveBeatDrops : Par := ⟨128, 23⟩
abbrev Par.weaveRouteChanges : Par := ⟨128, 24⟩
abbrev Par.weaveSigSubs : Par := ⟨128, 25⟩
abbrev Par.weaveRelayLate : Par := ⟨128, 26⟩
abbrev Par.stakePresent : Par := ⟨129, 0⟩
abbrev Par.stakeIdentity : Par := ⟨129, 1⟩
abbrev Par.stakeStrapped : Par := ⟨129, 2⟩
abbrev Par.stakeHops : Par := ⟨129, 3⟩
abbrev Par.stakeOutPort : Par := ⟨129, 4⟩
abbrev Par.stakePartner : Par := ⟨129, 5⟩
abbrev Par.stakeConvMode : Par := ⟨129, 6⟩
abbrev Par.stakeTimeState : Par := ⟨129, 7⟩
abbrev Par.stakeTimeRank : Par := ⟨129, 8⟩
abbrev Par.stakeBeatTicks : Par := ⟨129, 9⟩
abbrev Par.stakeBeatPhase : Par := ⟨129, 10⟩
abbrev Par.stakeHoldsToken : Par := ⟨129, 11⟩
abbrev Par.stakeLastBeat : Par := ⟨129, 12⟩
abbrev Par.stakeAbsences : Par := ⟨129, 13⟩
abbrev Par.stakeSigSel : Par := ⟨129, 14⟩
abbrev Par.stakeSigValue : Par := ⟨129, 15⟩
abbrev Par.stakeSigFresh : Par := ⟨129, 16⟩
abbrev Par.linkKind : Par := ⟨144, 0⟩
abbrev Par.linkState : Par := ⟨144, 1⟩
abbrev Par.linkPcieSpeed : Par := ⟨144, 2⟩
abbrev Par.linkPcieWidth : Par := ⟨144, 3⟩
abbrev Par.linkPhyMode : Par := ⟨144, 4⟩
abbrev Par.linkRedMode : Par := ⟨144, 5⟩
abbrev Par.linkMac : Par := ⟨144, 6⟩
abbrev Par.linkIpv4 : Par := ⟨144, 7⟩
abbrev Par.linkIpv4Mask : Par := ⟨144, 8⟩
abbrev Par.linkIpv6Lo : Par := ⟨144, 9⟩
abbrev Par.linkIpv6Hi : Par := ⟨144, 10⟩
abbrev Par.linkUdpPort : Par := ⟨144, 11⟩
abbrev Par.linkMtu : Par := ⟨144, 12⟩
abbrev Par.linkVlanId : Par := ⟨144, 13⟩
abbrev Par.linkHostPrio : Par := ⟨144, 14⟩
abbrev Par.linkPtpPort : Par := ⟨144, 15⟩
abbrev Par.linkSealRequired : Par := ⟨144, 16⟩
abbrev Par.linkHbTimeout : Par := ⟨144, 17⟩
abbrev Par.linkLossCmd : Par := ⟨144, 18⟩
abbrev Par.linkSvSel : Par := ⟨144, 19⟩
abbrev Par.linkSvMac : Par := ⟨144, 20⟩
abbrev Par.linkSvAppid : Par := ⟨144, 21⟩
abbrev Par.linkSvId : Par := ⟨144, 22⟩
abbrev Par.linkSvRate : Par := ⟨144, 23⟩
abbrev Par.linkSvFrames : Par := ⟨144, 24⟩
abbrev Par.linkSessions : Par := ⟨144, 25⟩
abbrev Par.linkRxFrames : Par := ⟨144, 26⟩
abbrev Par.linkTxFrames : Par := ⟨144, 27⟩
abbrev Par.linkUnsealedDrops : Par := ⟨144, 28⟩
abbrev Par.linkDupDrops : Par := ⟨144, 29⟩
abbrev Par.ringDepth : Par := ⟨145, 0⟩
abbrev Par.ringLink : Par := ⟨145, 1⟩
abbrev Par.ringSession : Par := ⟨145, 2⟩
abbrev Par.ringHead : Par := ⟨145, 3⟩
abbrev Par.ringTail : Par := ⟨145, 4⟩
abbrev Par.ringState : Par := ⟨145, 5⟩
abbrev Par.ringReset : Par := ⟨145, 6⟩
abbrev Par.ringVector : Par := ⟨145, 7⟩
abbrev Par.ringCoalesceUs : Par := ⟨145, 8⟩
abbrev Par.ringHostAddr : Par := ⟨145, 9⟩
abbrev Par.ringOverflows : Par := ⟨145, 10⟩
abbrev Par.ringMessages : Par := ⟨145, 11⟩
abbrev Par.lidIdentity : Par := ⟨160, 0⟩
abbrev Par.lidSiliconRev : Par := ⟨160, 1⟩
abbrev Par.lidRollbackCount : Par := ⟨160, 2⟩
abbrev Par.lidRollbackMirror : Par := ⟨160, 3⟩
abbrev Par.lidKeyEpoch : Par := ⟨160, 4⟩
abbrev Par.lidKeySel : Par := ⟨160, 5⟩
abbrev Par.lidKeyUsage : Par := ⟨160, 6⟩
abbrev Par.lidKeyFp : Par := ⟨160, 7⟩
abbrev Par.lidAnchored : Par := ⟨160, 8⟩
abbrev Par.lidUnanchoredSessions : Par := ⟨160, 9⟩
abbrev Par.lidTallySel : Par := ⟨160, 10⟩
abbrev Par.lidTallyCount : Par := ⟨160, 11⟩
abbrev Par.lidLogEntries : Par := ⟨160, 12⟩
abbrev Par.lidReports : Par := ⟨160, 13⟩
abbrev Par.lidBootCount : Par := ⟨160, 14⟩
abbrev Par.updState : Par := ⟨161, 0⟩
abbrev Par.updOwnerLink : Par := ⟨161, 1⟩
abbrev Par.updOwnerStake : Par := ⟨161, 2⟩
abbrev Par.updOwnerFp : Par := ⟨161, 3⟩
abbrev Par.updImgVersion : Par := ⟨161, 4⟩
abbrev Par.updImgArc : Par := ⟨161, 5⟩
abbrev Par.updImgSchema : Par := ⟨161, 6⟩
abbrev Par.updChunksTotal : Par := ⟨161, 7⟩
abbrev Par.updChunksDone : Par := ⟨161, 8⟩
abbrev Par.updLastChunkTime : Par := ⟨161, 9⟩
abbrev Par.updChunkRejects : Par := ⟨161, 10⟩
abbrev Par.updLastRefusal : Par := ⟨161, 11⟩
abbrev Par.updRefusals : Par := ⟨161, 12⟩
abbrev Par.updActiveSlot : Par := ⟨161, 13⟩
abbrev Par.updRunningSlot : Par := ⟨161, 14⟩
abbrev Par.updRunningVersion : Par := ⟨161, 15⟩
abbrev Par.updInactiveVersion : Par := ⟨161, 16⟩
abbrev Par.updBootState : Par := ⟨161, 17⟩
abbrev Par.updTrialWindow : Par := ⟨161, 18⟩
abbrev Par.updTrialRemaining : Par := ⟨161, 19⟩
abbrev Par.updAutoConfirm : Par := ⟨161, 20⟩
abbrev Par.updSchema : Par := ⟨161, 21⟩
abbrev Par.updSettingsState : Par := ⟨161, 22⟩
abbrev Par.updRetainedSchema : Par := ⟨161, 23⟩
abbrev Par.updRetainedClear : Par := ⟨161, 24⟩
abbrev Par.pwrMode : Par := ⟨176, 0⟩
abbrev Par.pwrRequest : Par := ⟨176, 1⟩
abbrev Par.pwrAutoPark : Par := ⟨176, 2⟩
abbrev Par.pwrParkHold : Par := ⟨176, 3⟩
abbrev Par.pwrWakeMask : Par := ⟨176, 4⟩
abbrev Par.pwrWakeWin : Par := ⟨176, 5⟩
abbrev Par.pwrParkWakeS : Par := ⟨176, 6⟩
abbrev Par.pwrDarkWakeS : Par := ⟨176, 7⟩
abbrev Par.pwrWakeCause : Par := ⟨176, 8⟩
abbrev Par.pwrResetReq : Par := ⟨176, 9⟩
abbrev Par.pwrResetCause : Par := ⟨176, 10⟩
abbrev Par.pwrResets : Par := ⟨176, 11⟩
abbrev Par.pwrBrownouts : Par := ⟨176, 12⟩
abbrev Par.pwrWdTimeout : Par := ⟨176, 13⟩
abbrev Par.pwrWdtExpiries : Par := ⟨176, 14⟩
abbrev Par.pwrSvcStuck : Par := ⟨176, 15⟩
abbrev Par.pwrSupplyOk : Par := ⟨176, 16⟩
abbrev Par.pwrAonSource : Par := ⟨176, 17⟩
abbrev Par.pwrRtcValid : Par := ⟨176, 18⟩
abbrev Par.pwrTj : Par := ⟨176, 19⟩
abbrev Par.pwrTempEntries : Par := ⟨176, 20⟩
abbrev Par.harvEnable : Par := ⟨177, 0⟩
abbrev Par.harvFraction : Par := ⟨177, 1⟩
abbrev Par.harvVocPeriod : Par := ⟨177, 2⟩
abbrev Par.harvState : Par := ⟨177, 3⟩
abbrev Par.harvVOc : Par := ⟨177, 4⟩
abbrev Par.harvVTeg : Par := ⟨177, 5⟩
abbrev Par.harvVstore : Par := ⟨177, 6⟩
abbrev Par.harvPg : Par := ⟨177, 7⟩
abbrev Par.harvColdStarts : Par := ⟨177, 8⟩
abbrev Par.harvPgFalls : Par := ⟨177, 9⟩
abbrev Par.evtFlag : Par := ⟨192, 0⟩
abbrev Par.evtCount : Par := ⟨192, 1⟩
abbrev Par.evtLastTime : Par := ⟨192, 2⟩
abbrev Par.evtLastObject : Par := ⟨192, 3⟩
abbrev Par.evtLastDetail : Par := ⟨192, 4⟩
abbrev Par.evtRingMask : Par := ⟨192, 5⟩
abbrev Par.evtPinMask : Par := ⟨192, 6⟩
abbrev Par.evtLogEn : Par := ⟨192, 7⟩
abbrev Par.evtRateLimit : Par := ⟨192, 8⟩
abbrev Par.evtSuppressed : Par := ⟨192, 9⟩
abbrev Par.evtRaiseDetail : Par := ⟨192, 10⟩
abbrev Par.evtRaise : Par := ⟨192, 11⟩

/-- Rows of DEV, from index 0 (Table 1.11, R34, Table 3.7, R75). -/
def rowsDEV : List PRow :=
  [ ⟨"part_id", .u 32, .nat [(0, 4294967295)], 34368, .ro⟩,
    ⟨"silicon_rev", .u 8, .nat [(0, 0), (1, 1), (16, 16)], 16, .ro⟩,
    ⟨"fw_version", .u 32, .nat [(0, 4294967295)], 0, .ro⟩,
    ⟨"fw_schema", .u 16, .nat [(0, 65535)], 0, .ro⟩,
    ⟨"uptime", .u 64, .nat [(0, 18446744073709551615)], 0, .ro⟩,
    ⟨"ecc_corrected", .u 32, .nat [(0, 4294967295)], 0, .ro⟩,
    ⟨"ecc_uncorrected", .u 32, .nat [(0, 4294967295)], 0, .ro⟩,
    ⟨"sup_restarts", .u 32, .nat [(0, 4294967295)], 0, .ro⟩,
    ⟨"tbl_commit", .bitset, .bits 7, 0, .rw⟩,
    ⟨"tbl_abort", .bitset, .bits 7, 0, .rw⟩,
    ⟨"tbl_state", .u 8, .nat [(0, 255)], 0, .ro⟩,
    ⟨"tbl_switch_beat", .u 64, .nat [(0, 18446744073709551615)], 0, .ro⟩,
    ⟨"conv_mode", .enum, .nat [(0, 9)], 0, .ro⟩,
    ⟨"mode_index", .u 8, .nat [(0, 63)], 0, .ro⟩,
    ⟨"mode_entry_beat", .u 64, .nat [(0, 18446744073709551615)], 0, .ro⟩ ]

/-- Rows of BEAT, from index 0 (Table 2.7, R52). -/
def rowsBEAT : List PRow :=
  [ ⟨"beat_ticks", .u 16, .nat [(1000, 16000)], 2000, .rws⟩,
    ⟨"window_pct", .u 8, .nat [(10, 80)], 40, .rws⟩,
    ⟨"beat_phase", .u 16, .nat [(0, 15999)], 0, .rws⟩,
    ⟨"window_ticks", .u 16, .nat [(100, 12800)], 800, .ro⟩,
    ⟨"beat_count", .u 64, .nat [(0, 18446744073709551615)], 0, .ro⟩,
    ⟨"time_now", .u 64, .nat [(0, 18446744073709551615)], 0, .ro⟩,
    ⟨"time_source", .enum, .nat [(0, 3)], 0, .rw⟩,
    ⟨"time_state", .enum, .nat [(0, 4)], 4, .ro⟩,
    ⟨"ptp_offset", .i 32, .int (-2147483648) 2147483647, 0, .ro⟩,
    ⟨"step_threshold", .u 32, .nat [(1000, 1000000000)], 1000000, .rw⟩,
    ⟨"slew_limit", .u 32, .nat [(1000, 100000)], 50000, .rw⟩,
    ⟨"holdover_limit", .u 16, .nat [(1, 3600)], 60, .rw⟩,
    ⟨"utc_offset", .i 16, .int (-32768) 32767, 0, .ro⟩,
    ⟨"align_error", .i 16, .int (-32768) 32767, 0, .ro⟩ ]

/-- Rows of CURVE, from index 0 (Table 3.8, R76). -/
def rowsCURVE : List PRow :=
  [ ⟨"header_entry", .u 16, .nat [(0, 0), (64, 8189)], 0, .rw⟩,
    ⟨"count", .u 16, .nat [(2, 512)], 2, .rw⟩,
    ⟨"below", .enum, .nat [(0, 1)], 0, .rw⟩,
    ⟨"above", .enum, .nat [(0, 1)], 0, .rw⟩,
    ⟨"nan_count", .u 32, .nat [(0, 4294967295)], 0, .w1c⟩ ]

/-- Rows of MODE, from index 0 (Table 3.9, R76). -/
def rowsMODE : List PRow :=
  [ ⟨"kind", .enum, .nat [(0, 9), (255, 255)], 255, .rw⟩,
    ⟨"flags", .bitset, .bits 15, 0, .rw⟩,
    ⟨"entry_action", .u 8, .nat [(0, 3)], 0, .rw⟩,
    ⟨"entry_arg", .u 32, .nat [(0, 4294967295)], 0, .rw⟩,
    ⟨"ctx_mask_lo", .u 64, .nat [(0, 18446744073709551615)], 0, .rw⟩,
    ⟨"ctx_mask_hi", .u 64, .nat [(0, 18446744073709551615)], 0, .rw⟩,
    ⟨"entries", .u 32, .nat [(0, 4294967295)], 0, .ro⟩ ]

/-- Rows of SPOKE, from index 0 (Table 4.13, R109). -/
def rowsSPOKE : List PRow :=
  [ ⟨"role", .enum, .nat [(0, 4)], 0, .rws⟩,
    ⟨"far_spoke", .u 8, .nat [(0, 63)], 0, .rws⟩,
    ⟨"cells", .u 8, .nat [(0, 8)], 0, .rws⟩,
    ⟨"state", .enum, .nat [(0, 4)], 0, .ro⟩,
    ⟨"discover", .u 8, .nat [(0, 1)], 0, .rw⟩,
    ⟨"unblock", .u 8, .nat [(0, 1)], 0, .rw⟩,
    ⟨"cells_found", .u 8, .nat [(0, 15)], 0, .ro⟩,
    ⟨"turn_a", .u 8, .nat [(0, 7), (255, 255)], 255, .ro⟩,
    ⟨"turn_b", .u 8, .nat [(0, 7), (255, 255)], 255, .ro⟩,
    ⟨"frame_time", .u 16, .nat [(0, 65535)], 0, .ro⟩,
    ⟨"frames_lost", .u 32, .nat [(0, 4294967295)], 0, .ro⟩,
    ⟨"crc_errors", .u 32, .nat [(0, 4294967295)], 0, .ro⟩,
    ⟨"err_pos", .u 8, .nat [(0, 8)], 0, .ro⟩,
    ⟨"auth_split", .u 32, .nat [(0, 4294967295)], 0, .ro⟩,
    ⟨"link", .bitset, .bits 1, 0, .ro⟩ ]

/-- Rows of CELL, from index 0 (Table 4.14, R110, Table 6.3, R154). cell_type has no default: it holds 0, neither HB nor FB,
until a discovery (DESIGN CHOICE, log entries 2 and 68). -/
def rowsCELL : List PRow :=
  [ ⟨"present", .u 8, .nat [(0, 1)], 0, .ro⟩,
    ⟨"serial", .u 64, .nat [(0, 281474976710655)], 0, .ro⟩,
    ⟨"serial_ref", .u 64, .nat [(0, 281474976710655)], 0, .rw⟩,
    ⟨"maker", .u 16, .nat [(0, 65535)], 0, .ro⟩,
    ⟨"cell_type", .enum, .nat [(1, 2)], 0, .ro⟩,
    ⟨"relay_latency", .u 16, .nat [(0, 65535)], 0, .ro⟩,
    ⟨"delay_a", .u 32, .nat [(0, 4294967295)], 0, .ro⟩,
    ⟨"delay_b", .u 32, .nat [(0, 4294967295)], 0, .ro⟩,
    ⟨"vcap", .u 16, .nat [(0, 65535)], 0, .ro⟩,
    ⟨"temp", .i 16, .int (-32768) 32767, 0, .ro⟩,
    ⟨"boot", .u 8, .nat [(0, 255)], 0, .ro⟩,
    ⟨"vgate", .u 8, .nat [(0, 255)], 0, .ro⟩,
    ⟨"status", .bitset, .bits 255, 0, .ro⟩,
    ⟨"sw_state", .bitset, .bits 15, 0, .ro⟩,
    ⟨"faults", .bitset, .bits 255, 0, .ro⟩,
    ⟨"telem_beat", .u 64, .nat [(0, 18446744073709551615)], 0, .ro⟩,
    ⟨"stale", .u 8, .nat [(0, 255)], 0, .ro⟩,
    ⟨"lost", .u 8, .nat [(0, 1)], 0, .ro⟩,
    ⟨"bypass", .u 8, .nat [(0, 1)], 0, .rw⟩,
    ⟨"clear_lock", .bitset, .bits 15, 0, .rw⟩,
    ⟨"prot_state", .enum, .nat [(0, 3)], 0, .ro⟩,
    ⟨"lock_mask", .bitset, .bits 15, 0, .ro⟩,
    ⟨"desat_count", .u 32, .nat [(0, 4294967295)], 0, .ro⟩,
    ⟨"short_count", .u 32, .nat [(0, 4294967295)], 0, .ro⟩,
    ⟨"uvlo_faults", .u 32, .nat [(0, 4294967295)], 0, .ro⟩,
    ⟨"blank_time", .u 16, .nat [(200, 10000)], 1500, .rws⟩,
    ⟨"didt_thr", .u 32, .nat [(100, 100000)], 10000, .rws⟩,
    ⟨"desat_v", .u 8, .nat [(20, 200)], 90, .rws⟩,
    ⟨"soft_off", .u 16, .nat [(200, 10000)], 2000, .rws⟩,
    ⟨"dead_time", .u 16, .nat [(100, 5000)], 800, .rws⟩,
    ⟨"uvlo_v", .u 8, .nat [(50, 200)], 120, .rws⟩,
    ⟨"uvlo_hyst", .u 8, .nat [(2, 50)], 10, .rws⟩,
    ⟨"vcap_trip", .u 16, .nat [(2000, 65535)], 42000, .rws⟩ ]

/-- Rows of ARM, from index 0 (Table 5.6, R133, Table 6.4, R155). -/
def rowsARM_0 : List PRow :=
  [ ⟨"spoke_set", .bitset, .bits 18446744073709551615, 0, .rws⟩,
    ⟨"cell_type", .enum, .nat [(1, 2)], 1, .rws⟩,
    ⟨"redund_mode", .enum, .nat [(0, 1)], 0, .rws⟩,
    ⟨"n_spare", .u 8, .nat [(0, 64)], 0, .rws⟩,
    ⟨"cells_min", .u 16, .nat [(1, 256)], 2, .rw⟩,
    ⟨"cell_cap", .f, .f32 953267991 1065353216, 998445679, .rws⟩,
    ⟨"v_cell_nom", .f, .f32 1092616192 1161527296, 1154367488, .rw⟩,
    ⟨"vref", .f, .f32 3379831808 1232348160, 0, .rw⟩,
    ⟨"i_src", .u 32, .nat [(0, 4294967295)], 0, .rws⟩,
    ⟨"i_out", .u 8, .nat [(0, 7)], 0, .rws⟩,
    ⟨"i_scale", .f, .f32 3379831808 1232348160, 1065353216, .rws⟩,
    ⟨"i_dead", .f, .f32 0 1148846080, 1084227584, .rw⟩,
    ⟨"w_v", .f, .f32 0 1120403456, 1065353216, .rw⟩,
    ⟨"w_b", .f, .f32 0 1120403456, 1017370378, .rw⟩,
    ⟨"w_h", .f, .f32 0 1120403456, 981668463, .rw⟩,
    ⟨"w_t", .f, .f32 0 1120403456, 990057071, .rw⟩,
    ⟨"w_n", .f, .f32 0 1120403456, 990057071, .rw⟩,
    ⟨"budget", .u 16, .nat [(10, 10000)], 400, .rw⟩,
    ⟨"boot_drain", .f, .f32 0 1056964608, 1000593162, .rw⟩,
    ⟨"boot_pump", .f, .f32 0 1092616192, 1050253722, .rw⟩,
    ⟨"refresh_thr", .u 8, .nat [(1, 254)], 102, .rw⟩,
    ⟨"hold_floor", .u 8, .nat [(0, 253)], 38, .rw⟩,
    ⟨"refresh_dwell", .u 16, .nat [(200, 20000)], 2000, .rw⟩,
    ⟨"dwell_min", .u 16, .nat [(100, 5000)], 1000, .rw⟩,
    ⟨"frac_rotate", .u 8, .nat [(0, 1)], 1, .rw⟩,
    ⟨"state", .enum, .nat [(0, 2)], 0, .ro⟩,
    ⟨"n_avail", .u 16, .nat [(0, 256)], 0, .ro⟩,
    ⟨"n_service", .u 16, .nat [(0, 256)], 0, .ro⟩,
    ⟨"n_inserted", .u 16, .nat [(0, 256)], 0, .ro⟩,
    ⟨"frac_cell", .u 16, .nat [(0, 511), (65535, 65535)], 65535, .ro⟩,
    ⟨"frac_edge", .u 32, .nat [(0, 255999)], 0, .ro⟩,
    ⟨"vout", .f, .f32any, 0, .ro⟩,
    ⟨"carry", .f, .f32any, 0, .ro⟩,
    ⟨"status", .bitset, .bits 63, 0, .ro⟩,
    ⟨"sat_count", .u 32, .nat [(0, 4294967295)], 0, .ro⟩,
    ⟨"clip_count", .u 32, .nat [(0, 4294967295)], 0, .ro⟩,
    ⟨"defer_count", .u 32, .nat [(0, 4294967295)], 0, .ro⟩,
    ⟨"refresh_count", .u 32, .nat [(0, 4294967295)], 0, .ro⟩,
    ⟨"uvlo_refresh", .u 32, .nat [(0, 4294967295)], 0, .ro⟩,
    ⟨"carry_discards", .u 32, .nat [(0, 4294967295)], 0, .ro⟩ ]

/-- Rows of ARM, from index 40 (Table 5.6, R133, Table 6.4, R155). -/
def rowsARM_1 : List PRow :=
  [ ⟨"budget_over", .u 32, .nat [(0, 4294967295)], 0, .ro⟩,
    ⟨"diverge_count", .u 32, .nat [(0, 4294967295)], 0, .ro⟩,
    ⟨"probe_cell", .u 16, .nat [(0, 511)], 0, .rw⟩,
    ⟨"probe_vhat", .f, .f32any, 0, .ro⟩,
    ⟨"probe_boot", .f, .f32 0 1065353216, 0, .ro⟩,
    ⟨"probe_rate", .f, .f32any, 0, .ro⟩,
    ⟨"probe_score", .f, .f32any, 0, .ro⟩,
    ⟨"probe_rank", .u 16, .nat [(1, 256), (0, 0), (65535, 65535)], 65535, .ro⟩,
    ⟨"fault_cause", .enum, .nat [(0, 4)], 0, .ro⟩,
    ⟨"fault_beat", .u 64, .nat [(0, 18446744073709551615)], 0, .ro⟩,
    ⟨"fault_cells", .u 32, .nat [(0, 4294967295)], 4294967295, .ro⟩,
    ⟨"arm_faults", .u 32, .nat [(0, 4294967295)], 0, .ro⟩,
    ⟨"block_clear", .u 8, .nat [(0, 1)], 0, .rw⟩,
    ⟨"bypassed", .u 16, .nat [(0, 256)], 0, .ro⟩ ]

/-- All rows of ARM in index order. -/
def rowsARM : List PRow := rowsARM_0 ++ rowsARM_1

/-- Rows of CTX, from index 0 (Table 7.8, R180). -/
def rowsCTX : List PRow :=
  [ ⟨"state", .enum, .nat [(0, 2)], 0, .ro⟩,
    ⟨"n_states", .u 8, .nat [(0, 16)], 0, .rw⟩,
    ⟨"n_out", .u 8, .nat [(0, 8)], 0, .rw⟩,
    ⟨"n_in", .u 8, .nat [(0, 16)], 0, .rw⟩,
    ⟨"flags", .bitset, .bits 15, 0, .rw⟩,
    ⟨"rate_div", .u 16, .nat [(1, 256)], 1, .rw⟩,
    ⟨"phase", .u 8, .nat [(0, 255)], 0, .rw⟩,
    ⟨"order", .u 8, .nat [(0, 255)], 128, .rw⟩,
    ⟨"overrun_limit", .u 8, .nat [(1, 8)], 3, .rw⟩,
    ⟨"int_mask", .bitset, .bits 65535, 0, .rw⟩,
    ⟨"cycles", .u 16, .nat [(2, 32)], 2, .ro⟩,
    ⟨"ref0", .f, .f32fin, 0, .rw⟩,
    ⟨"ref1", .f, .f32fin, 0, .rw⟩,
    ⟨"ref2", .f, .f32fin, 0, .rw⟩,
    ⟨"ref3", .f, .f32fin, 0, .rw⟩,
    ⟨"ref4", .f, .f32fin, 0, .rw⟩,
    ⟨"ref5", .f, .f32fin, 0, .rw⟩,
    ⟨"ref6", .f, .f32fin, 0, .rw⟩,
    ⟨"ref7", .f, .f32fin, 0, .rw⟩,
    ⟨"recover", .u 8, .nat [(0, 1)], 0, .rw⟩,
    ⟨"consec", .u 8, .nat [(0, 8)], 0, .ro⟩,
    ⟨"overruns", .u 32, .nat [(0, 4294967295)], 0, .ro⟩,
    ⟨"last_cause", .enum, .nat [(0, 3)], 0, .ro⟩,
    ⟨"stale_inputs", .u 32, .nat [(0, 4294967295)], 0, .ro⟩,
    ⟨"int_holds", .u 32, .nat [(0, 4294967295)], 0, .ro⟩,
    ⟨"sat_mask", .bitset, .bits 65535, 0, .ro⟩,
    ⟨"exec_count", .u 64, .nat [(0, 18446744073709551615)], 0, .ro⟩,
    ⟨"last_exec_beat", .u 64, .nat [(0, 18446744073709551615)], 0, .ro⟩,
    ⟨"finish_cycle", .u 16, .nat [(0, 65535)], 0, .ro⟩,
    ⟨"probe_sel", .u 8, .nat [(0, 15)], 0, .rw⟩,
    ⟨"probe_x", .f, .f32any, 0, .ro⟩,
    ⟨"probe_u", .f, .f32any, 0, .ro⟩,
    ⟨"probe_in", .f, .f32any, 0, .ro⟩,
    ⟨"sync_misses", .u 32, .nat [(0, 4294967295)], 0, .ro⟩ ]

/-- Rows of GRID, from index 0 (Table 8.9, R204). -/
def rowsGRID_0 : List PRow :=
  [ ⟨"enable", .u 8, .nat [(0, 1)], 0, .rws⟩,
    ⟨"s_base", .f, .f32 1148846080 1315859240, 1232348160, .rws⟩,
    ⟨"v_base", .f, .f32 1092616192 1232348160, 1148846080, .rws⟩,
    ⟨"vdc_nom", .f, .f32 1092616192 1232348160, 1157234688, .rws⟩,
    ⟨"f_nom", .enum, .nat [(0, 1)], 0, .rws⟩,
    ⟨"ctx_sync", .u 8, .nat [(0, 127), (255, 255)], 255, .rws⟩,
    ⟨"ctx_cur", .u 8, .nat [(0, 127), (255, 255)], 255, .rws⟩,
    ⟨"ctx_dc", .u 8, .nat [(0, 127), (255, 255)], 255, .rws⟩,
    ⟨"ctx_chop", .u 8, .nat [(0, 127), (255, 255)], 255, .rws⟩,
    ⟨"order", .u 8, .nat [(0, 255)], 8, .rws⟩,
    ⟨"lead", .f, .f32 0 1082130432, 1069547520, .rws⟩,
    ⟨"sync_min", .f, .f32 1017370378 1056964608, 1036831949, .rw⟩,
    ⟨"f_tau", .f, .f32 981668463 1065353216, 1017370378, .rw⟩,
    ⟨"p_src", .enum, .nat [(0, 1)], 0, .rws⟩,
    ⟨"q_mode", .enum, .nat [(0, 1)], 0, .rw⟩,
    ⟨"p_ref", .f, .f32 3221225472 1073741824, 0, .rw⟩,
    ⟨"q_ref", .f, .f32 3221225472 1073741824, 0, .rw⟩,
    ⟨"phi_ref", .f, .f32 3266576384 1119092736, 0, .rw⟩,
    ⟨"p_rate", .f, .f32 981668463 1120403456, 1045220557, .rw⟩,
    ⟨"q_rate", .f, .f32 981668463 1120403456, 1065353216, .rw⟩,
    ⟨"phi_rate", .f, .f32 1036831949 1163984896, 1092616192, .rw⟩,
    ⟨"p_max", .f, .f32 0 1073741824, 1065353216, .rw⟩,
    ⟨"p_min", .f, .f32 3221225472 0, 3212836864, .rw⟩,
    ⟨"q_max", .f, .f32 0 1073741824, 1056964608, .rw⟩,
    ⟨"q_min", .f, .f32 3221225472 0, 3204448256, .rw⟩,
    ⟨"i_max", .f, .f32 1036831949 1073741824, 1066192077, .rw⟩,
    ⟨"h_inertia", .f, .f32 1056964608 1092616192, 1082130432, .rw⟩,
    ⟨"d_damp", .f, .f32 0 1120403456, 1101004800, .rw⟩,
    ⟨"r_v", .f, .f32 0 1065353216, 1008981770, .rw⟩,
    ⟨"x_v", .f, .f32 1008981770 1065353216, 1041865114, .rw⟩,
    ⟨"e_ref", .f, .f32 1056964608 1069547520, 1065353216, .rw⟩,
    ⟨"q_droop", .f, .f32 0 1065353216, 1028443341, .rw⟩,
    ⟨"frt_measure", .enum, .nat [(0, 1)], 1, .rw⟩,
    ⟨"uv_enter", .f, .f32 1056964608 1065185444, 1063675494, .rw⟩,
    ⟨"uv_exit", .f, .f32 1056964608 1065353216, 1064011039, .rw⟩,
    ⟨"ov_enter", .f, .f32 1065437102 1069547520, 1066192077, .rw⟩,
    ⟨"ov_exit", .f, .f32 1065353216 1069547520, 1066024305, .rw⟩,
    ⟨"frt_confirm", .u 8, .nat [(1, 16)], 2, .rw⟩,
    ⟨"frt_exit_ms", .u 16, .nat [(1, 5000)], 20, .rw⟩,
    ⟨"frt_max", .f, .f32 1036831949 1114636288, 1092616192, .rw⟩ ]

/-- Rows of GRID, from index 40 (Table 8.9, R204). -/
def rowsGRID_1 : List PRow :=
  [ ⟨"uv_curve", .u 16, .nat [(0, 255), (65535, 65535)], 65535, .rw⟩,
    ⟨"ov_curve", .u 16, .nat [(0, 255), (65535, 65535)], 65535, .rw⟩,
    ⟨"k_pos", .f, .f32 0 1092616192, 1073741824, .rw⟩,
    ⟨"k_neg", .f, .f32 0 1092616192, 1073741824, .rw⟩,
    ⟨"k_pos_curve", .u 16, .nat [(0, 255), (65535, 65535)], 65535, .rw⟩,
    ⟨"rec_rate", .f, .f32 1008981770 1120403456, 1073741824, .rw⟩,
    ⟨"u_pos", .f, .f32any, 0, .ro⟩,
    ⟨"u_neg", .f, .f32any, 0, .ro⟩,
    ⟨"u_lo", .f, .f32any, 0, .ro⟩,
    ⟨"u_hi", .f, .f32any, 0, .ro⟩,
    ⟨"theta", .f, .f32any, 0, .ro⟩,
    ⟨"freq", .f, .f32any, 0, .ro⟩,
    ⟨"p_meas", .f, .f32any, 0, .ro⟩,
    ⟨"q_meas", .f, .f32any, 0, .ro⟩,
    ⟨"vdc_pu", .f, .f32any, 0, .ro⟩,
    ⟨"p_eff", .f, .f32any, 0, .ro⟩,
    ⟨"q_eff", .f, .f32any, 0, .ro⟩,
    ⟨"phi_eff", .f, .f32any, 0, .ro⟩,
    ⟨"p_cmd", .f, .f32any, 0, .ro⟩,
    ⟨"p_rec", .f, .f32any, 0, .ro⟩,
    ⟨"i_d", .f, .f32any, 0, .ro⟩,
    ⟨"i_r", .f, .f32any, 0, .ro⟩,
    ⟨"i_rn", .f, .f32any, 0, .ro⟩,
    ⟨"frt_state", .enum, .nat [(0, 3)], 0, .ro⟩,
    ⟨"frt_origin", .enum, .nat [(0, 0), (4, 4), (5, 5)], 0, .ro⟩,
    ⟨"frt_onset", .u 64, .nat [(0, 18446744073709551615)], 0, .ro⟩,
    ⟨"u_pre", .f, .f32any, 0, .ro⟩,
    ⟨"vsm_speed", .f, .f32any, 0, .ro⟩,
    ⟨"status", .bitset, .bits 31, 0, .ro⟩,
    ⟨"frt_count", .u 32, .nat [(0, 4294967295)], 0, .ro⟩,
    ⟨"frt_trips", .u 32, .nat [(0, 4294967295)], 0, .ro⟩,
    ⟨"sync_misses", .u 32, .nat [(0, 4294967295)], 0, .ro⟩ ]

/-- All rows of GRID in index order. -/
def rowsGRID : List PRow := rowsGRID_0 ++ rowsGRID_1

/-- Rows of ISLD, from index 0 (Table 9.2, R221). -/
def rowsISLD_0 : List PRow :=
  [ ⟨"enable", .u 8, .nat [(0, 1)], 0, .rws⟩,
    ⟨"site_id", .u 8, .nat [(0, 7)], 0, .rws⟩,
    ⟨"code_index", .u 16, .nat [(0, 2048)], 0, .ro⟩,
    ⟨"inject_amp", .f, .f32 1036831949 1065353216, 1050253722, .rw⟩,
    ⟨"inject_axis", .f, .f32 0 1127481344, 0, .rws⟩,
    ⟨"chip_beats", .u 8, .nat [(1, 64)], 4, .rws⟩,
    ⟨"lag_window", .u 16, .nat [(64, 2047)], 1024, .rws⟩,
    ⟨"v_src0", .u 32, .nat [(0, 4294967295)], 0, .rws⟩,
    ⟨"v_src1", .u 32, .nat [(0, 4294967295)], 0, .rws⟩,
    ⟨"v_src2", .u 32, .nat [(0, 4294967295)], 0, .rws⟩,
    ⟨"i_src0", .u 32, .nat [(0, 4294967295)], 0, .rws⟩,
    ⟨"i_src1", .u 32, .nat [(0, 4294967295)], 0, .rws⟩,
    ⟨"i_src2", .u 32, .nat [(0, 4294967295)], 0, .rws⟩,
    ⟨"v_scale", .f, .f32 3379831808 1232348160, 1065353216, .rws⟩,
    ⟨"i_scale", .f, .f32 3379831808 1232348160, 1065353216, .rws⟩,
    ⟨"z_freq0", .f, .f32 1112014848 1167867904, 1117126656, .rws⟩,
    ⟨"z_freq1", .f, .f32 1112014848 1167867904, 1123680256, .rws⟩,
    ⟨"z_freq2", .f, .f32 1112014848 1167867904, 1130430464, .rws⟩,
    ⟨"z_freq3", .f, .f32 1112014848 1167867904, 1139638272, .rws⟩,
    ⟨"z_freq4", .f, .f32 1112014848 1167867904, 1148436480, .rws⟩,
    ⟨"z_freq5", .f, .f32 1112014848 1167867904, 1157029888, .rws⟩,
    ⟨"z_freq6", .f, .f32 1112014848 1167867904, 1163472896, .rws⟩,
    ⟨"z_freq7", .f, .f32 1112014848 1167867904, 1167816704, .rws⟩,
    ⟨"z_ref_idx", .u 8, .nat [(0, 7)], 1, .rw⟩,
    ⟨"z_ratio", .f, .f32 1067030938 1120403456, 1077936128, .rw⟩,
    ⟨"z_island", .f, .f32 0 1203982336, 0, .rw⟩,
    ⟨"z_tau", .f, .f32 1065353216 1163984896, 1114636288, .rw⟩,
    ⟨"z_warm", .u 8, .nat [(1, 64)], 8, .rw⟩,
    ⟨"i_corr_floor", .f, .f32 981668463 1092616192, 1028443341, .rw⟩,
    ⟨"z_base", .f, .f32any, 0, .ro⟩,
    ⟨"z_sel", .u 8, .nat [(0, 7)], 0, .rw⟩,
    ⟨"z_mag", .f, .f32any, 0, .ro⟩,
    ⟨"z_ang", .f, .f32 3274964992 1127481344, 0, .ro⟩,
    ⟨"z_valid", .bitset, .bits 255, 0, .ro⟩,
    ⟨"rocof_thr", .f, .f32 1036831949 1092616192, 1065353216, .rw⟩,
    ⟨"rocof_win", .u 16, .nat [(20, 500)], 40, .rw⟩,
    ⟨"vshift_thr", .f, .f32 1073741824 1106247680, 1090519040, .rw⟩,
    ⟨"vwin_curve", .u 16, .nat [(0, 255), (65535, 65535)], 65535, .rw⟩,
    ⟨"fwin_curve", .u 16, .nat [(0, 255), (65535, 65535)], 65535, .rw⟩,
    ⟨"sv_mask", .bitset, .bits 255, 0, .rw⟩ ]

/-- Rows of ISLD, from index 40 (Table 9.2, R221). -/
def rowsISLD_1 : List PRow :=
  [ ⟨"sv_df", .f, .f32 1008981770 1073741824, 1036831949, .rw⟩,
    ⟨"sv_dtheta", .f, .f32 1065353216 1119092736, 1092616192, .rw⟩,
    ⟨"sv_offset", .f, .f32 3274964992 1127481344, 0, .rw⟩,
    ⟨"sv_confirm", .u 16, .nat [(10, 1000)], 60, .rw⟩,
    ⟨"policy", .u 64, .nat [(0, 18446744073709551615)], 137707914753, .rw⟩,
    ⟨"hold_ms", .u 16, .nat [(0, 1000)], 100, .rw⟩,
    ⟨"criteria", .bitset, .bits 63, 0, .ro⟩,
    ⟨"decision", .u 8, .nat [(0, 1)], 0, .w1c⟩,
    ⟨"decision_time", .u 64, .nat [(0, 18446744073709551615)], 0, .ro⟩,
    ⟨"decision_criteria", .bitset, .bits 63, 0, .ro⟩,
    ⟨"status", .bitset, .bits 15, 0, .ro⟩,
    ⟨"sequences", .u 32, .nat [(0, 4294967295)], 0, .ro⟩,
    ⟨"seq_invalid", .u 32, .nat [(0, 4294967295)], 0, .ro⟩,
    ⟨"decisions", .u 32, .nat [(0, 4294967295)], 0, .ro⟩,
    ⟨"suppressed", .u 32, .nat [(0, 4294967295)], 0, .ro⟩ ]

/-- All rows of ISLD in index order. -/
def rowsISLD : List PRow := rowsISLD_0 ++ rowsISLD_1

/-- Rows of PORT, from index 0 (Table 10.4, R244). -/
def rowsPORT_0 : List PRow :=
  [ ⟨"topology", .enum, .nat [(0, 3)], 0, .rws⟩,
    ⟨"kind", .enum, .nat [(0, 1)], 0, .rws⟩,
    ⟨"leg_a", .u 8, .nat [(0, 39), (255, 255)], 255, .rws⟩,
    ⟨"leg_b", .u 8, .nat [(0, 39), (255, 255)], 255, .rws⟩,
    ⟨"ctx", .u 8, .nat [(0, 127), (255, 255)], 255, .rws⟩,
    ⟨"order", .u 8, .nat [(0, 255)], 28, .rws⟩,
    ⟨"v_src", .u 32, .nat [(0, 4294967295)], 0, .rws⟩,
    ⟨"i_src", .u 32, .nat [(0, 4294967295)], 0, .rws⟩,
    ⟨"v_scale", .f, .f32 3379831808 1232348160, 1065353216, .rws⟩,
    ⟨"i_scale", .f, .f32 3379831808 1232348160, 1065353216, .rws⟩,
    ⟨"p_rated", .f, .f32 1036831949 1203982336, 1120403456, .rws⟩,
    ⟨"state", .enum, .nat [(0, 5)], 0, .ro⟩,
    ⟨"v_meas", .f, .f32any, 0, .ro⟩,
    ⟨"i_meas", .f, .f32any, 0, .ro⟩,
    ⟨"p_meas", .f, .f32any, 0, .ro⟩,
    ⟨"status", .bitset, .bits 127, 0, .ro⟩,
    ⟨"clear", .u 8, .nat [(0, 1)], 0, .rw⟩,
    ⟨"unlock", .u 8, .nat [(0, 1)], 0, .rw⟩,
    ⟨"trips", .u 32, .nat [(0, 4294967295)], 0, .ro⟩,
    ⟨"t_src", .u 32, .nat [(0, 4294967295)], 0, .rws⟩,
    ⟨"t_scale", .f, .f32 3296329728 1148846080, 1065353216, .rws⟩,
    ⟨"t_module", .f, .f32 3262119936 1125515264, 1103626240, .rw⟩,
    ⟨"voc_curve", .u 16, .nat [(0, 255), (65535, 65535)], 65535, .rw⟩,
    ⟨"voc_fraction", .f, .f32 1056964608 1064514355, 1061662228, .rw⟩,
    ⟨"voc_period", .u 16, .nat [(1, 600)], 60, .rw⟩,
    ⟨"open_ms", .u 8, .nat [(2, 20)], 2, .rw⟩,
    ⟨"voc_min", .f, .f32 0 1203982336, 1092616192, .rw⟩,
    ⟨"voc_max", .f, .f32 0 1203982336, 1157234688, .rw⟩,
    ⟨"v_slew", .f, .f32 1065353216 1176256512, 1120403456, .rw⟩,
    ⟨"dither_pct", .f, .f32 0 1073741824, 1056964608, .rw⟩,
    ⟨"dither_ms", .u 16, .nat [(100, 10000)], 500, .rw⟩,
    ⟨"dither_dead", .f, .f32 0 1028443341, 981668463, .rw⟩,
    ⟨"trim_step", .f, .f32 953267991 1008981770, 990057071, .rw⟩,
    ⟨"trim_max", .f, .f32 0 1036831949, 1022739087, .rw⟩,
    ⟨"p_limit", .f, .f32 0 1232348160, 1232348160, .rw⟩,
    ⟨"sample_now", .u 8, .nat [(0, 1)], 0, .rw⟩,
    ⟨"voc", .f, .f32any, 0, .ro⟩,
    ⟨"voc_time", .u 64, .nat [(0, 18446744073709551615)], 0, .ro⟩,
    ⟨"fraction", .f, .f32any, 0, .ro⟩,
    ⟨"trim", .f, .f32any, 0, .ro⟩ ]

/-- Rows of PORT, from index 40 (Table 10.4, R244). -/
def rowsPORT_1 : List PRow :=
  [ ⟨"v_target", .f, .f32any, 0, .ro⟩,
    ⟨"samples", .u 32, .nat [(0, 4294967295)], 0, .ro⟩,
    ⟨"voc_invalid", .u 32, .nat [(0, 4294967295)], 0, .ro⟩,
    ⟨"samples_late", .u 32, .nat [(0, 4294967295)], 0, .ro⟩,
    ⟨"e_cap", .f, .f32 0 1232348160, 0, .rws⟩,
    ⟨"eta_chg", .f, .f32 1056964608 1065353216, 1064514355, .rws⟩,
    ⟨"eta_dis", .f, .f32 1056964608 1065353216, 1064514355, .rws⟩,
    ⟨"soc_set", .f, .f32 0 1065353216, 0, .rw⟩,
    ⟨"soc", .f, .f32any, 0, .ro⟩,
    ⟨"energy", .f, .f32any, 0, .ro⟩,
    ⟨"e_floor", .f, .f32 0 1232348160, 0, .rw⟩,
    ⟨"e_reserve", .f, .f32 0 1232348160, 0, .rw⟩,
    ⟨"soc_max", .f, .f32 1056964608 1065353216, 1064514355, .rw⟩,
    ⟨"p_set", .f, .f32 3379831808 1232348160, 0, .rw⟩,
    ⟨"p_rate", .f, .f32 1036831949 1232348160, 1120403456, .rw⟩,
    ⟨"p_dis_max", .f, .f32 0 1232348160, 1120403456, .rw⟩,
    ⟨"p_chg_max", .f, .f32 0 1232348160, 1120403456, .rw⟩,
    ⟨"p_eff", .f, .f32any, 0, .ro⟩,
    ⟨"p_cmd", .f, .f32any, 0, .ro⟩,
    ⟨"burst_req", .f, .f32 0 1065353216, 0, .rw⟩,
    ⟨"burst_p", .f, .f32 0 1232348160, 0, .rw⟩,
    ⟨"burst_s", .f, .f32 1036831949 1202241536, 1092616192, .rw⟩,
    ⟨"burst_rate", .f, .f32 1065353216 1232348160, 1140457472, .rw⟩,
    ⟨"burst_min_s", .f, .f32 1036831949 1163984896, 1092616192, .rw⟩,
    ⟨"burst_abort", .u 8, .nat [(0, 1)], 0, .rw⟩,
    ⟨"burst_state", .enum, .nat [(0, 3)], 0, .ro⟩,
    ⟨"burst_end", .u 64, .nat [(0, 18446744073709551615)], 0, .ro⟩,
    ⟨"burst_result", .enum, .nat [(0, 7)], 0, .ro⟩,
    ⟨"bursts_truncated", .u 32, .nat [(0, 4294967295)], 0, .ro⟩ ]

/-- All rows of PORT in index order. -/
def rowsPORT : List PRow := rowsPORT_0 ++ rowsPORT_1

/-- Rows of LEG, from index 0 (Table 11.6, R261, Table 10.3, R243). -/
def rowsLEG_0 : List PRow :=
  [ ⟨"role", .enum, .nat [(0, 3)], 0, .rws⟩,
    ⟨"carrier", .enum, .nat [(0, 4)], 0, .rws⟩,
    ⟨"invert", .u 8, .nat [(0, 1)], 0, .rws⟩,
    ⟨"swap", .u 8, .nat [(0, 1)], 0, .rws⟩,
    ⟨"comp", .u 8, .nat [(0, 1)], 1, .rws⟩,
    ⟨"period", .u 32, .nat [(6400, 16777215)], 320000, .rws⟩,
    ⟨"phase", .u 32, .nat [(0, 16777214)], 0, .rws⟩,
    ⟨"sync_leg", .u 8, .nat [(0, 39), (255, 255)], 255, .rws⟩,
    ⟨"update", .enum, .nat [(0, 1)], 0, .rws⟩,
    ⟨"dt_rise", .u 16, .nat [(0, 12800)], 3200, .rws⟩,
    ⟨"dt_fall", .u 16, .nat [(0, 12800)], 3200, .rws⟩,
    ⟨"min_pulse", .u 16, .nat [(0, 12800)], 1600, .rws⟩,
    ⟨"duty", .f, .f32 0 1065353216, 0, .rw⟩,
    ⟨"t_ctrl", .f, .f32 0 1243525376, 0, .rw⟩,
    ⟨"shift", .f, .f32 0 1056964608, 0, .rw⟩,
    ⟨"term_win", .u 8, .nat [(0, 63), (255, 255)], 255, .rws⟩,
    ⟨"t_var_min", .u 32, .nat [(100, 2600000)], 500, .rws⟩,
    ⟨"t_var_max", .u 32, .nat [(100, 2600000)], 100000, .rws⟩,
    ⟨"refresh_max", .u 16, .nat [(0, 1000)], 50, .rw⟩,
    ⟨"refresh_pulse", .u 16, .nat [(200, 5000)], 1000, .rw⟩,
    ⟨"flt_filter", .u 8, .nat [(0, 255)], 4, .rws⟩,
    ⟨"rdy_use", .u 8, .nat [(0, 1)], 1, .rws⟩,
    ⟨"ev_zero_div", .u 8, .nat [(0, 16)], 0, .rw⟩,
    ⟨"ev_period_div", .u 8, .nat [(0, 16)], 0, .rw⟩,
    ⟨"ev_cmp_div", .u 8, .nat [(0, 16)], 0, .rw⟩,
    ⟨"state", .enum, .nat [(0, 3)], 0, .ro⟩,
    ⟨"status", .bitset, .bits 15, 0, .ro⟩,
    ⟨"trip_cause", .bitset, .bits 31, 0, .ro⟩,
    ⟨"trip_time", .u 64, .nat [(0, 18446744073709551615)], 0, .ro⟩,
    ⟨"clear", .u 8, .nat [(0, 1)], 0, .rw⟩,
    ⟨"trips", .u 32, .nat [(0, 4294967295)], 0, .ro⟩,
    ⟨"carry", .f, .f32any, 0, .ro⟩,
    ⟨"pulses_dropped", .u 32, .nat [(0, 4294967295)], 0, .ro⟩,
    ⟨"carry_discards", .u 32, .nat [(0, 4294967295)], 0, .ro⟩,
    ⟨"refreshes", .u 32, .nat [(0, 4294967295)], 0, .ro⟩,
    ⟨"chop_grid", .u 8, .nat [(0, 3)], 0, .rws⟩,
    ⟨"chop_r", .f, .f32 1036831949 1232348160, 1148846080, .rws⟩,
    ⟨"chop_tau", .f, .f32 1065353216 1176256512, 1123024896, .rws⟩,
    ⟨"chop_e_max", .f, .f32 0 1232348160, 0, .rw⟩,
    ⟨"chop_energy", .f, .f32any, 0, .ro⟩ ]

/-- Rows of LEG, from index 40 (Table 11.6, R261, Table 10.3, R243). -/
def rowsLEG_1 : List PRow :=
  [ ⟨"chop_limited", .u 8, .nat [(0, 1)], 0, .ro⟩ ]

/-- All rows of LEG in index order. -/
def rowsLEG : List PRow := rowsLEG_0 ++ rowsLEG_1

/-- Rows of ADC, from index 0 (Table 12.8, R280). -/
def rowsADC : List PRow :=
  [ ⟨"enable", .u 8, .nat [(0, 1)], 1, .rw⟩,
    ⟨"offset", .f, .f32 3184315597 1036831949, 0, .rw⟩,
    ⟨"gain", .f, .f32 1063675494 1066192077, 1065353216, .rw⟩,
    ⟨"calibrate", .u 8, .nat [(0, 1)], 0, .rw⟩,
    ⟨"value", .f, .f32any, 0, .ro⟩,
    ⟨"code", .i 16, .int (-32768) 32767, 0, .ro⟩,
    ⟨"sample_time", .u 64, .nat [(0, 18446744073709551615)], 0, .ro⟩,
    ⟨"status", .bitset, .bits 31, 0, .ro⟩,
    ⟨"ovr_count", .u 32, .nat [(0, 4294967295)], 0, .ro⟩,
    ⟨"cal_offset", .i 16, .int (-32768) 32767, 0, .ro⟩,
    ⟨"cal_gain", .f, .f32any, 1065353216, .ro⟩ ]

/-- Rows of SDI, from index 0 (Table 12.9, R280). -/
def rowsSDI : List PRow :=
  [ ⟨"enable", .u 8, .nat [(0, 1)], 0, .rw⟩,
    ⟨"clk_sel", .u 8, .nat [(0, 3)], 0, .rws⟩,
    ⟨"clk_delay", .u 8, .nat [(0, 19)], 4, .rws⟩,
    ⟨"decim", .u 16, .nat [(16, 256)], 32, .rws⟩,
    ⟨"offset", .f, .f32 3184315597 1036831949, 0, .rw⟩,
    ⟨"gain", .f, .f32 1063675494 1066192077, 1065353216, .rw⟩,
    ⟨"stuck_run", .u 16, .nat [(16, 1024)], 64, .rw⟩,
    ⟨"value", .f, .f32 3212836864 1065353216, 0, .ro⟩,
    ⟨"sample_time", .u 64, .nat [(0, 18446744073709551615)], 0, .ro⟩,
    ⟨"status", .bitset, .bits 15, 0, .ro⟩,
    ⟨"stuck_count", .u 32, .nat [(0, 4294967295)], 0, .ro⟩ ]

/-- Rows of WIN, from index 0 (Table 12.10, R280). -/
def rowsWIN : List PRow :=
  [ ⟨"input", .u 8, .nat [(0, 63), (255, 255)], 255, .rws⟩,
    ⟨"comp_en", .bitset, .bits 3, 0, .rw⟩,
    ⟨"hi_thr", .u 16, .nat [(0, 1023)], 1023, .rw⟩,
    ⟨"lo_thr", .u 16, .nat [(0, 1023)], 0, .rw⟩,
    ⟨"hyst", .u 8, .nat [(0, 31)], 4, .rw⟩,
    ⟨"mode_run", .enum, .nat [(0, 4)], 0, .rw⟩,
    ⟨"mode_parked", .enum, .nat [(0, 0), (3, 4)], 0, .rw⟩,
    ⟨"route_leg", .bitset, .bits 1099511627775, 0, .rw⟩,
    ⟨"route_arm", .bitset, .bits 16777215, 0, .rw⟩,
    ⟨"route_rim", .u 8, .nat [(0, 1)], 0, .rw⟩,
    ⟨"state_hi", .enum, .nat [(0, 2)], 2, .ro⟩,
    ⟨"state_lo", .enum, .nat [(0, 2)], 2, .ro⟩,
    ⟨"tripped", .u 8, .nat [(0, 1)], 1, .ro⟩,
    ⟨"flag", .u 8, .nat [(0, 1)], 0, .w1c⟩,
    ⟨"trip_count", .u 32, .nat [(0, 4294967295)], 0, .ro⟩,
    ⟨"trip_time", .u 64, .nat [(0, 18446744073709551615)], 0, .ro⟩,
    ⟨"readback", .enum, .nat [(0, 2)], 0, .rw⟩,
    ⟨"readback_chan", .u 8, .nat [(0, 23)], 23, .rw⟩,
    ⟨"readback_v", .f, .f32any, 0, .ro⟩,
    ⟨"readback_err", .f, .f32any, 0, .ro⟩,
    ⟨"check_period", .u 16, .nat [(0, 3600)], 0, .rw⟩,
    ⟨"thr_fail", .u 8, .nat [(0, 1)], 0, .ro⟩ ]

/-- Rows of METR, from index 0 (Table 13.6, R297). -/
def rowsMETR_0 : List PRow :=
  [ ⟨"enable", .u 8, .nat [(0, 1)], 0, .rws⟩,
    ⟨"v_sel", .u 8, .nat [(0, 3)], 0, .rws⟩,
    ⟨"v_fs", .f, .f32 1065353216 1232348160, 1148846080, .rws⟩,
    ⟨"i_fs", .f, .f32 1008981770 1232348160, 1120403456, .rws⟩,
    ⟨"hpf", .u 8, .nat [(0, 1)], 1, .rws⟩,
    ⟨"v_gain", .f, .f32 1063675494 1066192077, 1065353216, .rw⟩,
    ⟨"i_gain", .f, .f32 1063675494 1066192077, 1065353216, .rw⟩,
    ⟨"v_offset", .f, .f32 3296329728 1148846080, 0, .rw⟩,
    ⟨"i_offset", .f, .f32 3296329728 1148846080, 0, .rw⟩,
    ⟨"v_delay", .i 32, .int (-50000) 50000, 0, .rw⟩,
    ⟨"i_delay", .i 32, .int (-50000) 50000, 0, .rw⟩,
    ⟨"p_gain", .f, .f32 1063675494 1066192077, 1065353216, .rw⟩,
    ⟨"q_gain", .f, .f32 1063675494 1066192077, 1065353216, .rw⟩,
    ⟨"s_gain", .f, .f32 1063675494 1066192077, 1065353216, .rw⟩,
    ⟨"p_offset", .f, .f32 3379831808 1232348160, 0, .rw⟩,
    ⟨"q_offset", .f, .f32 3379831808 1232348160, 0, .rw⟩,
    ⟨"pq_phase", .f, .f32 3343077376 1195593728, 0, .rw⟩,
    ⟨"i_basic", .f, .f32 1008981770 1232348160, 1120403456, .rws⟩,
    ⟨"start_pct", .f, .f32 1008981770 1065353216, 1028443341, .rw⟩,
    ⟨"v_rms", .f, .f32any, 0, .ro⟩,
    ⟨"i_rms", .f, .f32any, 0, .ro⟩,
    ⟨"elem_mask", .bitset, .bits 15, 7, .rws⟩,
    ⟨"f_nom", .enum, .nat [(0, 1)], 0, .rws⟩,
    ⟨"p", .f, .f32any, 0, .ro⟩,
    ⟨"q", .f, .f32any, 0, .ro⟩,
    ⟨"s", .f, .f32any, 0, .ro⟩,
    ⟨"pf", .f, .f32 3212836864 1065353216, 0, .ro⟩,
    ⟨"freq", .f, .f32any, 0, .ro⟩,
    ⟨"status", .bitset, .bits 15, 0, .ro⟩,
    ⟨"a_imp", .u 64, .nat [(0, 18446744073709551615)], 0, .ro⟩,
    ⟨"a_exp", .u 64, .nat [(0, 18446744073709551615)], 0, .ro⟩,
    ⟨"q1", .u 64, .nat [(0, 18446744073709551615)], 0, .ro⟩,
    ⟨"q2", .u 64, .nat [(0, 18446744073709551615)], 0, .ro⟩,
    ⟨"q3", .u 64, .nat [(0, 18446744073709551615)], 0, .ro⟩,
    ⟨"q4", .u 64, .nat [(0, 18446744073709551615)], 0, .ro⟩,
    ⟨"s_tot", .u 64, .nat [(0, 18446744073709551615)], 0, .ro⟩,
    ⟨"reg_sel", .u 8, .nat [(0, 6)], 0, .rw⟩,
    ⟨"reg_delta", .u 32, .nat [(0, 4294967295)], 0, .ro⟩,
    ⟨"reg_wrap", .u 16, .nat [(0, 65535)], 0, .ro⟩,
    ⟨"alloc_sel", .u 8, .nat [(0, 31)], 0, .rw⟩ ]

/-- Rows of METR, from index 40 (Table 13.6, R297). -/
def rowsMETR_1 : List PRow :=
  [ ⟨"alloc_out", .u 64, .nat [(0, 18446744073709551615)], 0, .ro⟩,
    ⟨"alloc_in", .u 64, .nat [(0, 18446744073709551615)], 0, .ro⟩,
    ⟨"commit_seq", .u 32, .nat [(0, 4294967295)], 0, .ro⟩,
    ⟨"commit_time", .u 64, .nat [(0, 18446744073709551615)], 0, .ro⟩,
    ⟨"s_last", .u 32, .nat [(0, 4294967295)], 0, .ro⟩,
    ⟨"lost_count", .u 32, .nat [(0, 4294967295)], 0, .ro⟩,
    ⟨"lost_bound", .u 64, .nat [(0, 18446744073709551615)], 0, .ro⟩,
    ⟨"lost_time", .u 64, .nat [(0, 18446744073709551615)], 0, .ro⟩ ]

/-- All rows of METR in index order. -/
def rowsMETR : List PRow := rowsMETR_0 ++ rowsMETR_1

/-- Rows of CAP, from index 0 (Table 14.6, R321). -/
def rowsCAP : List PRow :=
  [ ⟨"mode", .enum, .nat [(0, 1)], 0, .rws⟩,
    ⟨"src", .u 32, .nat [(0, 4294967295)], 0, .rws⟩,
    ⟨"src_sel", .u 16, .nat [(0, 65535)], 0, .rws⟩,
    ⟨"rate", .enum, .nat [(0, 1)], 0, .rws⟩,
    ⟨"div", .u 16, .nat [(1, 65535)], 1, .rws⟩,
    ⟨"format", .enum, .nat [(0, 1)], 0, .rws⟩,
    ⟨"mem", .enum, .nat [(0, 1)], 0, .rws⟩,
    ⟨"buf_kib", .u 32, .nat [(4, 8388608)], 64, .rws⟩,
    ⟨"pre_count", .u 32, .nat [(0, 2147483648)], 0, .rws⟩,
    ⟨"post_count", .u 32, .nat [(1, 2147483648)], 1024, .rws⟩,
    ⟨"rearm", .enum, .nat [(0, 1)], 0, .rw⟩,
    ⟨"flush_ms", .u 8, .nat [(1, 100)], 20, .rw⟩,
    ⟨"mark_evt", .u 16, .nat [(0, 255), (65535, 65535)], 65535, .rw⟩,
    ⟨"mark_leg", .u 8, .nat [(0, 39), (255, 255)], 255, .rw⟩,
    ⟨"run", .u 8, .nat [(0, 1)], 0, .rw⟩,
    ⟨"state", .enum, .nat [(0, 4)], 0, .ro⟩,
    ⟨"flags", .bitset, .bits 15, 0, .w1c⟩,
    ⟨"samples", .u 64, .nat [(0, 18446744073709551615)], 0, .ro⟩,
    ⟨"blocks", .u 32, .nat [(0, 4294967295)], 0, .ro⟩,
    ⟨"gaps", .u 32, .nat [(0, 4294967295)], 0, .ro⟩,
    ⟨"gap_samples", .u 64, .nat [(0, 18446744073709551615)], 0, .ro⟩,
    ⟨"missed", .u 32, .nat [(0, 4294967295)], 0, .ro⟩,
    ⟨"pre_actual", .u 32, .nat [(0, 4294967295)], 0, .ro⟩,
    ⟨"trig_time", .u 64, .nat [(0, 18446744073709551615)], 0, .ro⟩ ]

/-- Rows of TRIG, from index 0 (Table 14.7, R321). -/
def rowsTRIG : List PRow :=
  [ ⟨"kind", .enum, .nat [(0, 4)], 0, .rws⟩,
    ⟨"src", .u 32, .nat [(0, 4294967295)], 0, .rws⟩,
    ⟨"src_sel", .u 16, .nat [(0, 65535)], 0, .rws⟩,
    ⟨"src_rate", .enum, .nat [(0, 1)], 0, .rws⟩,
    ⟨"edge", .enum, .nat [(0, 2)], 0, .rws⟩,
    ⟨"level", .f, .f32fin, 0, .rw⟩,
    ⟨"hyst", .f, .f32 0 1900671690, 0, .rw⟩,
    ⟨"win", .u 8, .nat [(0, 63)], 0, .rws⟩,
    ⟨"win_comp", .enum, .nat [(0, 2)], 2, .rws⟩,
    ⟨"evt", .u 16, .nat [(0, 255)], 0, .rws⟩,
    ⟨"leg", .u 8, .nat [(0, 39)], 0, .rws⟩,
    ⟨"carrier_kind", .enum, .nat [(0, 2)], 0, .rws⟩,
    ⟨"stream_mask", .bitset, .bits 4294967295, 0, .rw⟩,
    ⟨"holdoff_us", .u 32, .nat [(0, 10000000)], 1000, .rw⟩,
    ⟨"auto_ms", .u 32, .nat [(0, 3600000)], 0, .rw⟩,
    ⟨"weave", .u 8, .nat [(0, 1)], 0, .rws⟩,
    ⟨"fire_window", .u 16, .nat [(300, 10000)], 1000, .rws⟩,
    ⟨"arm", .u 8, .nat [(0, 1)], 0, .rw⟩,
    ⟨"fire", .u 8, .nat [(0, 1)], 0, .rw⟩,
    ⟨"state", .enum, .nat [(0, 3)], 0, .ro⟩,
    ⟨"fires", .u 32, .nat [(0, 4294967295)], 0, .ro⟩,
    ⟨"missed", .u 32, .nat [(0, 4294967295)], 0, .ro⟩,
    ⟨"last_time", .u 64, .nat [(0, 18446744073709551615)], 0, .ro⟩,
    ⟨"last_cause", .enum, .nat [(0, 7)], 0, .ro⟩,
    ⟨"last_stake", .u 8, .nat [(0, 63)], 0, .ro⟩ ]

/-- Rows of RIM, from index 0 (Table 15.6, R346). -/
def rowsRIM : List PRow :=
  [ ⟨"state", .enum, .nat [(0, 1)], 1, .ro⟩,
    ⟨"cause", .enum, .nat [(0, 9)], 1, .ro⟩,
    ⟨"in_level", .bitset, .bits 65535, 0, .ro⟩,
    ⟨"in_undet", .bitset, .bits 65535, 65535, .ro⟩,
    ⟨"in_demand", .bitset, .bits 255, 0, .ro⟩,
    ⟨"in_fault", .bitset, .bits 65535, 0, .ro⟩,
    ⟨"out_energised", .bitset, .bits 15, 0, .ro⟩,
    ⟨"out_causes", .u 64, .nat [(0, 18446744073709551615)], 0, .ro⟩,
    ⟨"out_fault", .bitset, .bits 15, 0, .ro⟩,
    ⟨"lockout_time", .u 64, .nat [(0, 18446744073709551615)], 0, .ro⟩,
    ⟨"lockouts", .u 32, .nat [(0, 4294967295)], 0, .ro⟩,
    ⟨"demands", .u 32, .nat [(0, 4294967295)], 0, .ro⟩,
    ⟨"tests_passed", .u 32, .nat [(0, 4294967295)], 0, .ro⟩,
    ⟨"tests_failed", .u 32, .nat [(0, 4294967295)], 0, .ro⟩,
    ⟨"tests_discarded", .u 32, .nat [(0, 4294967295)], 0, .ro⟩,
    ⟨"off_tests", .u 32, .nat [(0, 4294967295)], 0, .ro⟩,
    ⟨"reset_presses", .u 32, .nat [(0, 4294967295)], 0, .ro⟩,
    ⟨"resets_accepted", .u 32, .nat [(0, 4294967295)], 0, .ro⟩,
    ⟨"reset_faults", .u 32, .nat [(0, 4294967295)], 0, .ro⟩,
    ⟨"strap_id", .u 8, .nat [(0, 15)], 0, .ro⟩,
    ⟨"cfg_serial", .u 32, .nat [(0, 4294967295)], 0, .ro⟩,
    ⟨"cfg_staged", .u 32, .nat [(0, 4294967295)], 0, .ro⟩ ]

/-- Rows of WEAVE, from index 0 (Table 16.7, R374). -/
def rowsWEAVE : List PRow :=
  [ ⟨"stake", .u 8, .nat [(0, 63), (255, 255)], 255, .ro⟩,
    ⟨"strap", .u 8, .nat [(0, 63)], 0, .ro⟩,
    ⟨"assigned", .u 8, .nat [(0, 1)], 0, .ro⟩,
    ⟨"identity", .u 64, .nat [(0, 18446744073709551615)], 0, .ro⟩,
    ⟨"partner", .u 8, .nat [(0, 63), (255, 255)], 255, .rws⟩,
    ⟨"pair_state", .enum, .nat [(0, 3)], 0, .ro⟩,
    ⟨"token", .u 8, .nat [(0, 1)], 0, .ro⟩,
    ⟨"token_give", .u 8, .nat [(0, 1)], 0, .rw⟩,
    ⟨"token_changes", .u 32, .nat [(0, 4294967295)], 0, .ro⟩,
    ⟨"token_yields", .u 32, .nat [(0, 4294967295)], 0, .ro⟩,
    ⟨"stakes_present", .bitset, .bits 18446744073709551615, 0, .ro⟩,
    ⟨"time_root", .u 8, .nat [(0, 63), (255, 255)], 255, .ro⟩,
    ⟨"time_parent", .u 8, .nat [(0, 63), (255, 255)], 255, .ro⟩,
    ⟨"time_rank", .u 8, .nat [(0, 15)], 0, .ro⟩,
    ⟨"port_sel", .u 8, .nat [(0, 3)], 0, .rw⟩,
    ⟨"port_state", .enum, .nat [(0, 2)], 0, .ro⟩,
    ⟨"port_peer", .u 8, .nat [(0, 63), (255, 255)], 255, .ro⟩,
    ⟨"port_peer_port", .u 8, .nat [(0, 3), (255, 255)], 255, .ro⟩,
    ⟨"port_delay", .u 32, .nat [(0, 4294967295)], 0, .ro⟩,
    ⟨"port_offset", .i 32, .int (-2147483648) 2147483647, 0, .ro⟩,
    ⟨"port_asym", .i 16, .int (-64) 64, 0, .rws⟩,
    ⟨"port_crc", .u 32, .nat [(0, 4294967295)], 0, .ro⟩,
    ⟨"port_downs", .u 32, .nat [(0, 4294967295)], 0, .ro⟩,
    ⟨"beat_drops", .u 32, .nat [(0, 4294967295)], 0, .ro⟩,
    ⟨"route_changes", .u 32, .nat [(0, 4294967295)], 0, .ro⟩,
    ⟨"sig_subs", .u 16, .nat [(0, 4096)], 0, .ro⟩,
    ⟨"relay_late", .u 32, .nat [(0, 4294967295)], 0, .ro⟩ ]

/-- Rows of STAKE, from index 0 (Table 16.8, R375). -/
def rowsSTAKE : List PRow :=
  [ ⟨"present", .u 8, .nat [(0, 1)], 0, .ro⟩,
    ⟨"identity", .u 64, .nat [(0, 18446744073709551615)], 0, .ro⟩,
    ⟨"strapped", .u 8, .nat [(0, 1)], 0, .ro⟩,
    ⟨"hops", .u 8, .nat [(0, 15), (255, 255)], 255, .ro⟩,
    ⟨"out_port", .u 8, .nat [(0, 3), (255, 255)], 255, .ro⟩,
    ⟨"partner", .u 8, .nat [(0, 63), (255, 255)], 255, .ro⟩,
    ⟨"conv_mode", .enum, .nat [(0, 9)], 0, .ro⟩,
    ⟨"time_state", .enum, .nat [(0, 4)], 0, .ro⟩,
    ⟨"time_rank", .u 8, .nat [(0, 15)], 0, .ro⟩,
    ⟨"beat_ticks", .u 16, .nat [(0, 65535)], 0, .ro⟩,
    ⟨"beat_phase", .u 16, .nat [(0, 65535)], 0, .ro⟩,
    ⟨"holds_token", .u 8, .nat [(0, 1)], 0, .ro⟩,
    ⟨"last_beat", .u 64, .nat [(0, 18446744073709551615)], 0, .ro⟩,
    ⟨"absences", .u 32, .nat [(0, 4294967295)], 0, .ro⟩,
    ⟨"sig_sel", .u 8, .nat [(0, 63)], 0, .rw⟩,
    ⟨"sig_value", .f, .f32any, 0, .ro⟩,
    ⟨"sig_fresh", .u 8, .nat [(0, 1)], 0, .ro⟩ ]

/-- Rows of LINK, from index 0 (Table 17.9, R404). -/
def rowsLINK : List PRow :=
  [ ⟨"kind", .enum, .nat [(0, 2)], 0, .ro⟩,
    ⟨"state", .enum, .nat [(0, 1)], 0, .ro⟩,
    ⟨"pcie_speed", .u 8, .nat [(2, 2), (5, 5), (8, 8)], 0, .ro⟩,
    ⟨"pcie_width", .u 8, .nat [(1, 2)], 0, .ro⟩,
    ⟨"phy_mode", .enum, .nat [(0, 1)], 0, .rws⟩,
    ⟨"red_mode", .enum, .nat [(0, 2)], 0, .rws⟩,
    ⟨"mac", .u 64, .nat [(0, 281474976710655)], 0, .rws⟩,
    ⟨"ipv4", .u 32, .nat [(0, 4294967295)], 0, .rws⟩,
    ⟨"ipv4_mask", .u 8, .nat [(0, 32)], 24, .rws⟩,
    ⟨"ipv6_lo", .u 64, .nat [(0, 18446744073709551615)], 0, .rws⟩,
    ⟨"ipv6_hi", .u 64, .nat [(0, 18446744073709551615)], 0, .rws⟩,
    ⟨"udp_port", .u 16, .nat [(1024, 65535)], 48640, .rws⟩,
    ⟨"mtu", .u 16, .nat [(1500, 1500), (9000, 9000)], 1500, .rws⟩,
    ⟨"vlan_id", .u 16, .nat [(0, 4094)], 0, .rws⟩,
    ⟨"host_prio", .u 8, .nat [(0, 7)], 4, .rws⟩,
    ⟨"ptp_port", .u 8, .nat [(0, 1)], 0, .rws⟩,
    ⟨"seal_required", .u 8, .nat [(0, 1)], 0, .rws⟩,
    ⟨"hb_timeout", .u 16, .nat [(1000, 60000)], 3000, .rw⟩,
    ⟨"loss_cmd", .u 16, .nat [(0, 65535)], 0, .rw⟩,
    ⟨"sv_sel", .u 8, .nat [(0, 7)], 0, .rw⟩,
    ⟨"sv_mac", .u 64, .nat [(0, 281474976710655)], 0, .rw⟩,
    ⟨"sv_appid", .u 16, .nat [(0, 65535)], 16384, .rw⟩,
    ⟨"sv_id", .u 32, .nat [(0, 4294967295)], 0, .rw⟩,
    ⟨"sv_rate", .enum, .nat [(0, 1)], 0, .rw⟩,
    ⟨"sv_frames", .u 32, .nat [(0, 4294967295)], 0, .ro⟩,
    ⟨"sessions", .bitset, .bits 65535, 0, .ro⟩,
    ⟨"rx_frames", .u 64, .nat [(0, 18446744073709551615)], 0, .ro⟩,
    ⟨"tx_frames", .u 64, .nat [(0, 18446744073709551615)], 0, .ro⟩,
    ⟨"unsealed_drops", .u 32, .nat [(0, 4294967295)], 0, .ro⟩,
    ⟨"dup_drops", .u 64, .nat [(0, 18446744073709551615)], 0, .ro⟩ ]

/-- Rows of RING, from index 0 (Table 17.10, R404). -/
def rowsRING : List PRow :=
  [ ⟨"depth", .u 8, .nat [(2, 64)], 4, .rws⟩,
    ⟨"link", .u 8, .nat [(0, 2), (255, 255)], 255, .ro⟩,
    ⟨"session", .u 8, .nat [(0, 15), (255, 255)], 255, .rw⟩,
    ⟨"head", .u 32, .nat [(0, 4294967295)], 0, .ro⟩,
    ⟨"tail", .u 32, .nat [(0, 4294967295)], 0, .ro⟩,
    ⟨"state", .enum, .nat [(0, 2)], 0, .ro⟩,
    ⟨"reset", .u 8, .nat [(0, 1)], 0, .rw⟩,
    ⟨"vector", .u 8, .nat [(0, 31), (255, 255)], 0, .rw⟩,
    ⟨"coalesce_us", .u 16, .nat [(0, 10000)], 0, .rw⟩,
    ⟨"host_addr", .u 64, .nat [(0, 18446744073709551615)], 0, .rws⟩,
    ⟨"overflows", .u 32, .nat [(0, 4294967295)], 0, .ro⟩,
    ⟨"messages", .u 64, .nat [(0, 18446744073709551615)], 0, .ro⟩ ]

/-- Rows of LID, from index 0 (Table 18.8, R429). -/
def rowsLID : List PRow :=
  [ ⟨"identity", .u 64, .nat [(0, 18446744073709551615)], 0, .ro⟩,
    ⟨"silicon_rev", .u 8, .nat [(0, 0), (1, 1), (16, 16)], 16, .ro⟩,
    ⟨"rollback_count", .u 16, .nat [(0, 256)], 0, .ro⟩,
    ⟨"rollback_mirror", .u 16, .nat [(0, 256)], 0, .ro⟩,
    ⟨"key_epoch", .u 32, .nat [(0, 4294967295)], 0, .ro⟩,
    ⟨"key_sel", .u 8, .nat [(0, 3)], 0, .rw⟩,
    ⟨"key_usage", .bitset, .bits 3, 0, .ro⟩,
    ⟨"key_fp", .u 64, .nat [(0, 18446744073709551615)], 0, .ro⟩,
    ⟨"anchored", .u 8, .nat [(0, 1)], 0, .ro⟩,
    ⟨"unanchored_sessions", .u 32, .nat [(0, 4294967295)], 0, .ro⟩,
    ⟨"tally_sel", .u 8, .nat [(0, 7)], 0, .rw⟩,
    ⟨"tally_count", .u 32, .nat [(0, 4294967295)], 0, .ro⟩,
    ⟨"log_entries", .u 32, .nat [(0, 4294967295)], 0, .ro⟩,
    ⟨"reports", .u 32, .nat [(0, 4294967295)], 0, .ro⟩,
    ⟨"boot_count", .u 32, .nat [(0, 4294967295)], 0, .ro⟩ ]

/-- Rows of UPD, from index 0 (Table 18.9, R429). -/
def rowsUPD : List PRow :=
  [ ⟨"state", .enum, .nat [(0, 3)], 0, .ro⟩,
    ⟨"owner_link", .u 8, .nat [(0, 6), (255, 255)], 255, .ro⟩,
    ⟨"owner_stake", .u 8, .nat [(0, 63), (255, 255)], 255, .ro⟩,
    ⟨"owner_fp", .u 64, .nat [(0, 18446744073709551615)], 0, .ro⟩,
    ⟨"img_version", .u 32, .nat [(0, 4294967295)], 0, .ro⟩,
    ⟨"img_arc", .u 16, .nat [(0, 256)], 0, .ro⟩,
    ⟨"img_schema", .u 16, .nat [(0, 65535)], 0, .ro⟩,
    ⟨"chunks_total", .u 16, .nat [(0, 1792)], 0, .ro⟩,
    ⟨"chunks_done", .u 16, .nat [(0, 1792)], 0, .ro⟩,
    ⟨"last_chunk_time", .u 64, .nat [(0, 18446744073709551615)], 0, .ro⟩,
    ⟨"chunk_rejects", .u 32, .nat [(0, 4294967295)], 0, .ro⟩,
    ⟨"last_refusal", .enum, .nat [(0, 6)], 0, .ro⟩,
    ⟨"refusals", .u 32, .nat [(0, 4294967295)], 0, .ro⟩,
    ⟨"active_slot", .u 8, .nat [(0, 1)], 0, .ro⟩,
    ⟨"running_slot", .u 8, .nat [(0, 1)], 0, .ro⟩,
    ⟨"running_version", .u 32, .nat [(0, 4294967295)], 0, .ro⟩,
    ⟨"inactive_version", .u 32, .nat [(0, 4294967295)], 0, .ro⟩,
    ⟨"boot_state", .enum, .nat [(0, 3)], 0, .ro⟩,
    ⟨"trial_window", .u 8, .nat [(1, 120)], 10, .rw⟩,
    ⟨"trial_remaining", .u 32, .nat [(0, 4294967295)], 0, .ro⟩,
    ⟨"auto_confirm", .u 8, .nat [(0, 1)], 0, .rw⟩,
    ⟨"schema", .u 16, .nat [(0, 65535)], 0, .ro⟩,
    ⟨"settings_state", .enum, .nat [(0, 1)], 0, .ro⟩,
    ⟨"retained_schema", .u 16, .nat [(0, 65535)], 0, .ro⟩,
    ⟨"retained_clear", .u 8, .nat [(0, 1)], 0, .rw⟩ ]

/-- Rows of PWR, from index 0 (Table 19.10, R456). -/
def rowsPWR : List PRow :=
  [ ⟨"mode", .enum, .nat [(0, 4)], 0, .ro⟩,
    ⟨"request", .enum, .nat [(0, 3)], 0, .rw⟩,
    ⟨"auto_park", .u 8, .nat [(0, 1)], 1, .rw⟩,
    ⟨"park_hold", .u 16, .nat [(1, 3600)], 10, .rw⟩,
    ⟨"wake_mask", .bitset, .bits 3, 3, .rw⟩,
    ⟨"wake_win", .bitset, .bits 18446744073709551615, 0, .rw⟩,
    ⟨"park_wake_s", .u 32, .nat [(0, 86400)], 0, .rw⟩,
    ⟨"dark_wake_s", .u 32, .nat [(0, 2592000)], 0, .rw⟩,
    ⟨"wake_cause", .enum, .nat [(0, 8)], 0, .ro⟩,
    ⟨"reset_req", .u 8, .nat [(0, 1)], 0, .rw⟩,
    ⟨"reset_cause", .enum, .nat [(0, 6)], 0, .ro⟩,
    ⟨"resets", .u 32, .nat [(0, 4294967295)], 0, .ro⟩,
    ⟨"brownouts", .u 32, .nat [(0, 4294967295)], 0, .ro⟩,
    ⟨"wd_timeout", .u 16, .nat [(100, 10000)], 1000, .rws⟩,
    ⟨"wdt_expiries", .u 32, .nat [(0, 4294967295)], 0, .ro⟩,
    ⟨"svc_stuck", .u 32, .nat [(0, 4294967295)], 0, .ro⟩,
    ⟨"supply_ok", .bitset, .bits 255, 0, .ro⟩,
    ⟨"aon_source", .enum, .nat [(0, 2)], 0, .ro⟩,
    ⟨"rtc_valid", .u 8, .nat [(0, 1)], 0, .ro⟩,
    ⟨"tj", .i 16, .int (-32768) 32767, 0, .ro⟩,
    ⟨"temp_entries", .u 32, .nat [(0, 4294967295)], 0, .ro⟩ ]

/-- Rows of HARV, from index 0 (Table 19.11, R456). -/
def rowsHARV : List PRow :=
  [ ⟨"enable", .u 8, .nat [(0, 1)], 1, .rw⟩,
    ⟨"fraction", .f, .f32 1053609165 1058642330, 1056964608, .rw⟩,
    ⟨"voc_period", .u 8, .nat [(1, 60)], 4, .rw⟩,
    ⟨"state", .enum, .nat [(0, 4)], 0, .ro⟩,
    ⟨"v_oc", .f, .f32any, 0, .ro⟩,
    ⟨"v_teg", .f, .f32any, 0, .ro⟩,
    ⟨"vstore", .f, .f32any, 0, .ro⟩,
    ⟨"pg", .enum, .nat [(0, 2)], 2, .ro⟩,
    ⟨"cold_starts", .u 32, .nat [(0, 4294967295)], 0, .ro⟩,
    ⟨"pg_falls", .u 32, .nat [(0, 4294967295)], 0, .ro⟩ ]

/-- Rows of EVT, from index 0 (Table 20.5, R467). -/
def rowsEVT : List PRow :=
  [ ⟨"flag", .u 8, .nat [(0, 1)], 0, .w1c⟩,
    ⟨"count", .u 32, .nat [(0, 4294967295)], 0, .ro⟩,
    ⟨"last_time", .u 64, .nat [(0, 18446744073709551615)], 0, .ro⟩,
    ⟨"last_object", .u 32, .nat [(0, 4294967295)], 0, .ro⟩,
    ⟨"last_detail", .u 64, .nat [(0, 18446744073709551615)], 0, .ro⟩,
    ⟨"ring_mask", .bitset, .bits 65535, 1, .rw⟩,
    ⟨"pin_mask", .bitset, .bits 15, 0, .rw⟩,
    ⟨"log_en", .u 8, .nat [(0, 1)], 1, .rw⟩,
    ⟨"rate_limit", .u 16, .nat [(1, 1000)], 20, .rw⟩,
    ⟨"suppressed", .u 32, .nat [(0, 4294967295)], 0, .ro⟩,
    ⟨"raise_detail", .u 64, .nat [(0, 18446744073709551615)], 0, .rw⟩,
    ⟨"raise", .u 8, .nat [(0, 1)], 0, .rw⟩ ]

/-- The parameter rows of a class code; the empty list for a reserved code (R32). -/
def rowsOf : Nat → List PRow
  | 1 => rowsDEV
  | 2 => rowsBEAT
  | 3 => rowsCURVE
  | 4 => rowsMODE
  | 16 => rowsSPOKE
  | 17 => rowsCELL
  | 18 => rowsARM
  | 32 => rowsCTX
  | 33 => rowsGRID
  | 34 => rowsISLD
  | 48 => rowsPORT
  | 49 => rowsLEG
  | 64 => rowsADC
  | 65 => rowsSDI
  | 66 => rowsWIN
  | 80 => rowsMETR
  | 96 => rowsCAP
  | 97 => rowsTRIG
  | 112 => rowsRIM
  | 128 => rowsWEAVE
  | 129 => rowsSTAKE
  | 144 => rowsLINK
  | 145 => rowsRING
  | 160 => rowsLID
  | 161 => rowsUPD
  | 176 => rowsPWR
  | 177 => rowsHARV
  | 192 => rowsEVT
  | _ => []

/-- The number of instances of a class (Table 1.6, R32); 0 for a reserved code. -/
def instances : Nat → Nat
  | 1 => 1
  | 2 => 1
  | 3 => 256
  | 4 => 64
  | 16 => 64
  | 17 => 512
  | 18 => 24
  | 32 => 128
  | 33 => 4
  | 34 => 4
  | 48 => 32
  | 49 => 40
  | 64 => 24
  | 65 => 32
  | 66 => 64
  | 80 => 5
  | 96 => 32
  | 97 => 16
  | 112 => 1
  | 128 => 1
  | 129 => 64
  | 144 => 7
  | 145 => 96
  | 160 => 1
  | 161 => 1
  | 176 => 1
  | 177 => 1
  | 192 => 256
  | _ => 0

/-- The row of a parameter, if the index is in range (R54). -/
def rowOf (p : Par) : Option PRow := (rowsOf p.cls)[p.idx]?

end Sys2Proof.Machine
end

