-- ==== Sys2Proof/Machine/State.lean ====
section
/-! DEFINITION. The state of the device: the object dictionary's values, and beside it every queue, engine, image, store and
pin that the chapters of the spec give it. Plain data throughout. -/

namespace Sys2Proof.Machine

/-! ## Power and start-up phase (ch. 19) -/

/-- Where the device stands between reset and operation (Table 19.3, R426, R446). `held`: PORSTn low or a brown-out.
`warm`: the 10 µs of a warm reset. `rom`, `loader`, `firmware`: start-up after a release. `run`: firmware serves the host
(power modes RUN, PARKING, PARKED, WAKING). `dark`: only the always-on island runs. `recovery`: no slot verifies. -/
inductive Phase where
  | held | warm | rom | loader | firmware | run | dark | recovery
deriving DecidableEq, Repr

/-! ## Events (ch. 20) -/

/-- One occurrence of an event as R461 records it. -/
structure EvRec where
  ev : Nat
  tq : Nat
  suppr : Bool
  stake : Nat
  ts : Nat
  cnt : Nat
  obj : Nat
  detail : Nat
deriving DecidableEq, Repr

/-- Rate-limit state of one event within the present delivery second (R462). -/
structure EvRate where
  sent : Nat := 0
  suppr : Bool := false
deriving DecidableEq, Repr

/-- An occurrence detected before the firmware starts (R459): its event, TS64, object, detail, time quality, and whether the always-on island
has written its log entry. -/
structure EarlyOcc where
  ev : Nat
  ts : Nat
  obj : Nat
  detail : Nat
  tq : Nat
  logged : Bool
deriving DecidableEq, Repr

/-- Event machinery beside the EVT parameters. -/
structure EvtSt where
  /-- The event log of R465 in storage order: 4,096 entries of 32 bytes. -/
  log : Tab (List Byte) := []
  /-- Storage place of the next entry. -/
  logPos : Nat := 0
  /-- seq of the next entry (the event log write count of Table 17.6). -/
  seq : Nat := 0
  rate : Tab EvRate := []
  /-- Records waiting for the log writer, oldest first. -/
  toLog : List EvRec := []
  /-- Records waiting for the event rings, with their ring_mask. -/
  toRings : List (EvRec × Nat) := []
  /-- Occurrences detected before the firmware starts. -/
  early : List EarlyOcc := []
  /-- Occurrences of the present command, for EVENT triggers (R314): event and object. -/
  fresh : List (Nat × Nat) := []
deriving DecidableEq, Repr

/-! ## Host interface (ch. 17) -/

/-- One write entry registered in the present beat, with the status judged so far (R55, R57). -/
structure RegWrite where
  obj : Nat
  idx : Nat
  val : W64
  status : Nat
  /-- A burst request that the next port step decides (R236). -/
  held : Bool := false
deriving DecidableEq, Repr

/-- A write-class message registered in the present beat, answered after its end (R382). `work` holds its parameter
writes; a bulk write is held as its data and place. -/
structure Msg where
  session : Nat
  tag : Nat
  op : Nat
  ts : Nat
  status : Nat
  work : List RegWrite
  bulk : Option (Nat × Nat × List Byte) := none
  code : Nat := 0
  /-- Further bytes of the response (the owner of a refused claim, R393), by entry number. -/
  owners : List (Nat × Nat × Nat) := []
  /-- The context that breaks a bound and its finish cycle, where the grid writes of the message are refused for it (R174). -/
  refusedAt : Option (Nat × Nat) := none
deriving DecidableEq, Repr

/-- A stored response of R384. -/
structure Stored where
  op : Nat
  tag : Nat
  ts : Nat
  resp : List (List Byte)
deriving DecidableEq, Repr

/-- A session (R376): 0–15 hold a ring pair, 16–79 are weave sessions. -/
structure Sess where
  isOpen : Bool := false
  /-- Ended; its ring pair is free and its claims end at the next boundary (R377). -/
  ending : Bool := false
  link : Nat := 0
  /-- FINISH has completed (Ethernet), or the session needs none. -/
  auth : Bool := false
  /-- HELLO received and FINISH awaited, since this time. -/
  helloAt : Option Nat := none
  hello : List Byte := []
  ack : List Byte := []
  cred : List Byte := []
  keys : List Byte := []
  /-- Highest sequence number accepted and the window of the 64 below it (R399). -/
  rxHigh : Nat := 0
  rxWin : Nat := 0
  txSeq : Nat := 1
  lastMsg : Nat := 0
  stored : List Stored := []
  origin : Option (Nat × Nat) := none
deriving DecidableEq, Repr

/-- A claim (R56); `ending` after a release or the end of its session, until the next boundary. -/
structure Claim where
  obj : Nat
  session : Nat
  ending : Bool
deriving DecidableEq, Repr

/-- Contents of one ring beside its parameters: slots produced and not consumed, oldest first; messages that wait for a
free slot (R391); the first unsignalled advance (R392). -/
structure RingSt where
  slots : List (List Byte) := []
  waiting : List (List Byte) := []
  unsignalled : Option Nat := none
  /-- Slots of a host-filled ring that cannot be read (R28). -/
  bad : List Nat := []
deriving DecidableEq, Repr

/-- An operation whose outcome comes later (R383): a commit of table sets, or an update activation. -/
inductive OpKind where
  | commit | activate
deriving DecidableEq, Repr

/-- A running operation of a session. -/
structure Oper where
  session : Nat
  tag : Nat
  op : Nat
  kind : OpKind
  obj : Nat
  idx : Nat
  /-- TS64 of registration (R381). -/
  ts : Nat := 0
  /-- Its session has ended (R377). -/
  gone : Bool := false
deriving DecidableEq, Repr

/-- A sampled-value subscription (R402, Table 17.9). -/
structure SvSub where
  mac : Nat := 0
  appid : Nat := 0x4000
  id : Nat := 0
  rate : Nat := 0
  frames : Nat := 0
  /-- No valid frame for 3 ms (R216). -/
  absent : Bool := true
deriving DecidableEq, Repr

/-- Host side beside the LINK and RING parameters. -/
structure HostSt where
  msgs : List Msg := []
  /-- Messages applied whose answer waits for a port step (R236). -/
  waiting : List Msg := []
  sess : Tab Sess := []
  claims : List Claim := []
  rings : Tab RingSt := []
  ops : List Oper := []
  /-- Operations of open sessions that have reached their outcome: session and tag (R395). -/
  doneOps : List (Nat × Nat) := []
  /-- Mode requests for the next boundary (R393, R396). -/
  modeReq : List Nat := []
  /-- The request held in power mode PARKED (R443). -/
  heldReq : Option Nat := none
  /-- Times each MSI-X vector has been raised (R392). -/
  msix : Tab Nat := []
  /-- The weave time latched by a read of the low word (R385). -/
  timeLatch : Nat := 0
  /-- Value returned to the last BAR0 read of the weave time register (low word). -/
  barRead : Nat := 0
  /-- BAR2 by slot in slot order: what was last written into the slot, and its seal record (R386, R399). -/
  bar2 : Tab (List Byte × List Byte) := []
  /-- Fragments held for reassembly: link and datagram number (R398). -/
  fragments : List (Nat × Nat) := []
  /-- Frames sent on the Ethernet ports or the weft ports that are no ring slot: port, kind, bytes; newest last. -/
  sent : List (Nat × Nat × List Byte) := []
  /-- Datagrams sent to an Ethernet session, newest last: session and message. -/
  datagrams : List (Nat × List Byte) := []
  /-- Recently seen redundancy sequence numbers: key and time (R397). -/
  dups : List (Nat × Nat) := []
  supervision : Nat := 0
  /-- Sampled-value streams 0 to 7. -/
  sv : Tab SvSub := []
  /-- Rings in which proxied messages came: stake, session of this stake, weave-out ring (R403). -/
  proxied : List (Nat × Nat × Nat) := []
deriving DecidableEq, Repr

/-! ## Tables and modes (ch. 3) -/

/-- A commit under validation or waiting for its switch (R60, R61). -/
structure Commit where
  mask : Nat
  session : Nat
  tag : Nat
  /-- TS64 of registration. -/
  ts : Nat := 0
  validated : Bool := false
  /-- Its session has ended (R377). -/
  gone : Bool := false
deriving DecidableEq, Repr

/-- One table set: image copies as sparse bytes, its state (Table 3.2), the digest computed at validation, and the beat
in which it last switched. -/
structure TblSet where
  active : Tab Byte := []
  shadow : Tab Byte := []
  state : Nat := 0
  /-- Digest of the shadow, from its validation. -/
  digest : List Byte := []
  /-- Digest of the active copy, since it switched (R64). -/
  actDigest : List Byte := []
  committed : Bool := false
  switched : Bool := false
  /-- Waiting to be persisted (R64). -/
  dirty : Bool := false
deriving DecidableEq, Repr

/-- The mode table engine (R73, R74). -/
structure ModeSt where
  /-- The present state; none before the first beat after start-up. -/
  state : Option Nat := none
  /-- How long the present state has been held, in fine ticks, counted in beats (DWELL, R39). -/
  held : Nat := 0
  tripReq : Bool := false
  /-- A stop-class trip is registered and not yet evaluated (R99). -/
  stopReq : Bool := false
  /-- TABLE_RESTORE_FAIL or SETTINGS_DEFAULTED since the previous boundary (priority 4). -/
  restoreOcc : Bool := false
  /-- Islanding decision registered at this boundary (priority 3). -/
  isldDec : Bool := false
  /-- Actions that wait for the control pair (R26): code, argument, owning state. -/
  actHeld : List (Nat × Nat × Nat) := []
deriving DecidableEq, Repr

/-! ## Local legs and source ports (ch. 10, 11) -/

/-- What a leg in RUN waits for before its gates follow its commands: the window end of its entry beat, then an update
point (R246), or after a clear the next commanded input edge (R258). -/
inductive LegWait where
  | none | windowEnd | updatePoint | inputEdge
deriving DecidableEq, Repr

/-- A placed edge of a leg (R252, R259, R260): its instant, the instant of the commanded change it follows, the new level of the high-side and
low-side role signals, whether it is a turn-off of the main switch (CMP), the carrier peak (PERIOD) or the zero of a PS leg (ZERO and PERIOD). -/
structure LegEdge where
  at' : Nat
  src : Nat := 0
  hi : Option Bool := none
  lo : Option Bool := none
  cmp : Bool := false
  peak : Bool := false
  zero : Bool := false
deriving DecidableEq, Repr

/-- A local leg beside its parameters. -/
structure LegRt where
  flt : Bool := false
  rdy : Bool := false
  rdyLow : Bool := false
  wait : LegWait := .none
  duty : F32 := 0
  tCtrl : F32 := 0
  shift : F32 := 0
  /-- carry_out of the last period, and what the present one took in (R253). -/
  carry : F64 := 0
  carryIn : F64 := 0
  /-- Present role signals after dead time. -/
  hs : Bool := false
  ls : Bool := false
  /-- Commanded state of the two switches at the end of the placed edges. -/
  cmdH : Bool := false
  cmdL : Bool := false
  edges : List LegEdge := []
  /-- The last zero or period start; a period has started since entry to RUN. -/
  zero : Nat := 0
  running : Bool := false
  /-- The end of the forced refresh in progress (R259). -/
  seqEnd : Nat := 0
  /-- Start of the variable interval (COT, CFT). -/
  varStart : Option Nat := none
  termHeld : Bool := false
  refreshDue : Bool := false
  evZero : Nat := 0
  evPeriod : Nat := 0
  evCmp : Nat := 0
  /-- Chopper: resistor energy in kJ and the duty limit in force (R242). -/
  energy : F64 := 0
  dutyLimit : Option F32 := none
deriving DecidableEq, Repr

/-- The 81 osier lines (R254): which line serves each pin (pin 2n high, 2n + 1 low), the spare, the pin next in turn, and
the lines whose last calibration failed. -/
structure OsierSt where
  lineOf : Tab Nat := []
  spare : Nat := 80
  nextPin : Nat := 0
  failed : List Nat := []
deriving DecidableEq, Repr

/-- Phases of a burst (Table 10.4). -/
inductive BurstEnd where
  | completed | aborted | truncated
deriving DecidableEq, Repr

/-- A source port beside its parameters. -/
structure PortRt where
  /-- Due for an opening since this weave time (R227). -/
  due : Option Nat := none
  /-- Chosen in the present slot: the opening starts at the next boundary. -/
  chosen : Bool := false
  /-- An opening is in progress: beats since its first, and its samples of v, newest first; none for a missing beat. -/
  opening : Bool := false
  openN : Nat := 0
  openV : List (Option F32) := []
  /-- Start of the last opening, and whether its sample was invalid. -/
  openStart : Nat := 0
  lastBad : Bool := false
  opened : Bool := false
  /-- Hold requested: takes effect, or ends, at the end of the present window (R228, R229). -/
  holdNext : Option Bool := none
  vocOk : Bool := false
  vOff : F64 := 0
  /-- The voltage target before the offset while it slews from Voc (R229). -/
  slewing : Bool := false
  target : F32 := 0
  /-- Beats of the dither period in progress; none when no period runs. -/
  ditherN : Option Nat := none
  hiSum : F32 := 0
  loSum : F32 := 0
  pSum : F32 := 0
  /-- Storage: energy in J, caps, burst. -/
  energy : F64 := 0
  disCap : Option F32 := none
  chgCap : Option F32 := none
  clamped : Bool := false
  reqPrev : F32 := 0
  /-- The value that a host write of burst_req replaced, while its request waits. -/
  reqOld : Option F32 := none
  /-- A request was formed and waits for its decision (R236). -/
  reqDue : Bool := false
  /-- Burst in progress: p_burst, granted power, elapsed fine ticks, granted length, and the elapsed time and power at which a
  ramp-down before its time started. -/
  pBurst : F32 := 0
  burstP : F32 := 0
  burstEl : Nat := 0
  burstLen : Nat := 0
  burstDown : Option (Nat × F32) := none
  burstEnds : BurstEnd := .completed
  /-- Weave time at which the last burst completed (R238). -/
  burstDone : Option Nat := none
  /-- Tick of the last trip that stopped the port (R239). -/
  tripTick : Option Nat := none
  configHeld : Bool := false
deriving DecidableEq, Repr

/-! ## Capture engine (ch. 14) -/

/-- A mark of a stream (Table 14.3): instant, kind, cause, trigger, stake, PRE_SHORT, and the two last fields. -/
structure Mark where
  ts : Nat
  index : Nat
  kind : Nat
  cause : Nat := 0
  trig : Nat := 255
  stake : Nat := 255
  short : Bool := false
  /-- Time quality at the stamp (R49). -/
  tq : Nat := 0
  a : Nat := 0
  b : Nat := 0
deriving DecidableEq, Repr

/-- A block of samples and marks (Table 14.2). -/
structure Blk where
  seq : Nat
  ts : Nat
  opened : Nat
  tq : Nat
  interval : Nat
  samples : List (Nat × F32) := []
  marks : List Mark := []
  gapCause : Nat := 0
  gapCount : Nat := 0
  last : Bool := false
deriving DecidableEq, Repr

/-- A capture stream beside its parameters. -/
structure CapRt where
  divCnt : Nat := 0
  seq : Nat := 0
  cur : Option Blk := none
  closed : List Blk := []
  /-- Samples dropped in an OVERFLOW in progress (R307). -/
  dropping : Option Nat := none
  /-- Stops at the end of draining (R308). -/
  stopping : Bool := false
  /-- Instant of the last sample of a constant-interval source. -/
  lastTs : Option Nat := none
  /-- A gap that the next block opens with: cause and count. -/
  gap : Option (Nat × Nat) := none
  /-- Ring-buffer capture: samples before and from the fire, oldest first, and its marks. -/
  pre : List (Nat × F32) := []
  post : List (Nat × F32) := []
  rmarks : List Mark := []
  /-- Gaps of a ring-buffer capture: instant of the sample each stands before, or which an ECC gap replaces; cause, count (R304). -/
  rgaps : List (Nat × Nat × Nat) := []
  /-- Instants at which the flags of CAP.n were last set (R10), by bit. -/
  flagAt : Tab Nat := []
  /-- Bytes of records written in the present beat (R306). -/
  wrote : Nat := 0
  fireAt : Option Nat := none
  armedAt : Nat := 0
  /-- Held STREAM at an exit from RUN (R308). -/
  restart : Bool := false
  rearmNext : Bool := false
deriving DecidableEq, Repr

/-- A fire kept open for its window (R320). -/
structure Fire where
  ts : Nat
  cause : Nat
  stake : Nat
deriving DecidableEq, Repr

/-- A trigger beside its parameters. -/
structure TrigRt where
  /-- A sample has been below level − hyst, above level + hyst, since the arm or the last return to WAIT (R315). -/
  below : Bool := false
  above : Bool := false
  openFire : Option Fire := none
  missedFires : List Fire := []
  /-- Weave-wide arm value and its target beat (R318). -/
  armNext : Option (Nat × Nat) := none
  /-- This stake runs the auto timer (R318). -/
  autoHere : Bool := true
deriving DecidableEq, Repr

/-! ## Loop engine (ch. 7) -/

/-- Run-time state of one context (R158): 64 bytes of states, 32 of stored outputs, the last value of each input slot. -/
structure CtxRt where
  x : List F32 := []
  u : List F32 := []
  /-- Value of each input slot at the last execution (probe_in), and at the last completed one (R168). -/
  vin : List F32 := []
  vdone : List F32 := []
  /-- Completed or written by a fallback in the present beat (FRESH, R178). -/
  fresh : Bool := false
  /-- Due in the present beat and past its deadline without completing. -/
  late : Bool := false
  /-- Cycle at which a late execution started or would have started. -/
  lateCycle : Nat := 0
  /-- In RUN in the beat before the present one. -/
  ran : Bool := false
  /-- State vector received from the token holder for the next beat (R179). -/
  sync : Option (List F32) := none
  recover : Bool := false
deriving DecidableEq, Repr

/-- One item of the engine's order (R170): place, kind (0 context, 1 grid step, 2 islanding step, 3 port step, 4 the cycles of a context whose
deadline has passed), number. -/
structure Item where
  order : Nat
  kind : Nat
  num : Nat
deriving DecidableEq, Repr

/-- The engine within a beat, while it waits for a deadline (R175): the items it has not reached, and the cycle at which it goes on. -/
structure EngSt where
  rest : List Item := []
  cycle : Nat := 16
deriving DecidableEq, Repr

/-! ## Analogue front end and window monitors (ch. 12) -/

/-- A SAR channel beside its parameters. -/
structure AdcRt where
  calRunning : Bool := false
  calFail : Bool := false
  /-- Held for a threshold readback (R278). -/
  held : Bool := false
  /-- Code of the last conversion of any kind. -/
  lastCode : Int := 0
deriving DecidableEq, Repr

/-- A sigma-delta input beside its parameters: the last 1,024 bits, newest first, and the clocks since the clock started or
decim changed (R271). -/
structure SdiRt where
  hist : List Bool := []
  clocks : Nat := 0
  stuck : Bool := false
  /-- Clocks, modulo D, since the last D-th edge. -/
  phase : Nat := 0
deriving DecidableEq, Repr

/-- A threshold check in progress (R278): which converter (1 high, 2 low), its channel, and whole beats left once the
channel is taken. -/
structure Readback where
  which : Nat
  chan : Nat
  taken : Bool := false
  beatsLeft : Nat := 0
deriving DecidableEq, Repr

/-- A window monitor beside its parameters. -/
structure WinRt where
  check : Option Readback := none
  /-- The last automatic check was of the high converter. -/
  autoHi : Bool := false
deriving DecidableEq, Repr

/-! ## Supervisor pairs, clock domains, memories (ch. 1, 2) -/

/-- Supervisor pairs and clock domains. -/
structure SupSt where
  /-- Pairs halted or restarting (R22, R26): bit 0 control, bit 1 service. -/
  halted : Nat := 0
  /-- Clock domains that have lost lock or not yet reached it (Table 2.5): bit 0 AON, 1 TB, 2 SUP, 3 LOOP, 4 SPK, 5 WEFT,
  6 NET, 7 MEM. -/
  unlocked : Nat := 0xFE
  /-- LPDDR4X fitted and trained, in MiB; 0 not fitted (R31, R475). -/
  ddrMiB : Nat := 0
  /-- Consecutive valid offset measurements while a source returns (R44). -/
  validOffsets : Nat := 0
  /-- Ethernet ports locked to a grandmaster with an offset within ±1 µs (Table 2.4): bit 0 port 0, bit 1 port 1. -/
  ptpOk : Nat := 0
  /-- Steering rate in ppb applied to the counter (R42, R43). -/
  steer : Int := 0
deriving DecidableEq, Repr

/-! ## Output pins -/

/-- Levels the device drives. -/
structure PinSt where
  /-- GATE_LnnH and GATE_LnnL, bit n. -/
  gateH : BitVec 40 := 0
  gateL : BitVec 40 := 0
  /-- EVT_OUT0–3 (R464). -/
  evtOut : BitVec 4 := 0
  /-- RIM_OUTjA and RIM_OUTjB toggling, bit j (R331). -/
  rimOutA : BitVec 4 := 0
  rimOutB : BitVec 4 := 0
  /-- RIM_TP0–3 supplies driven (R327). -/
  rimTp : BitVec 4 := 0
  /-- SDI_CLK0–3 running (R268). -/
  sdiClk : BitVec 4 := 0
  /-- LOOP_EN high (R433); MAIN_EN driven low (R446); HARV_PG high (R455). -/
  loopEn : Bool := false
  mainEnLow : Bool := false
  harvPg : Bool := false
deriving DecidableEq, Repr



/-! ## Weave fabric (ch. 16) -/

/-- Message types of Table 16.3. -/
abbrev wkIdent : Nat := 0x01
/-- See `wkIdent`. -/
abbrev wkLsa : Nat := 0x02
/-- See `wkIdent`. -/
abbrev wkAssign : Nat := 0x03
/-- See `wkIdent`. -/
abbrev wkBeatPkt : Nat := 0x10
/-- See `wkIdent`. -/
abbrev wkTime : Nat := 0x11
/-- See `wkIdent`. -/
abbrev wkSignals : Nat := 0x12
/-- See `wkIdent`. -/
abbrev wkArmCur : Nat := 0x13
/-- See `wkIdent`. -/
abbrev wkCtxState : Nat := 0x14
/-- See `wkIdent`. -/
abbrev wkTelemRelay : Nat := 0x15
/-- See `wkIdent`. -/
abbrev wkRingReport : Nat := 0x16
/-- See `wkIdent`. -/
abbrev wkFire : Nat := 0x20
/-- See `wkIdent`. -/
abbrev wkArmBlock : Nat := 0x21
/-- See `wkIdent`. -/
abbrev wkTrigArm : Nat := 0x22
/-- See `wkIdent`. -/
abbrev wkMgmt : Nat := 0x30
/-- See `wkIdent`. -/
abbrev wkCodes : Nat := 0x31
/-- See `wkIdent`. -/
abbrev wkSubscribe : Nat := 0x32

/-- A message put into the weave by this stake (R351): type, source, destination (0xFE neighbour, 0xFF flood), hop limit, sequence
number, the port it leaves on (255: by route, or every UP port for a flood), payload. -/
structure WOut where
  kind : Nat
  src : Nat
  dest : Nat
  hop : Nat := 8
  seq : Nat := 0
  port : Nat := 255
  bytes : List Byte
deriving DecidableEq, Repr

/-- A shared signal: value and FRESH; for a received one whether it arrived for the coming beat. -/
structure Sig where
  val : F32 := 0
  fresh : Bool := false
  arrived : Bool := false
deriving DecidableEq, Repr

/-- A weft port (R349, R362) beside the WEAVE parameters, which show the port named in port_sel. -/
structure WPort where
  /-- DOWN 0, LOCK 1, UP 2. -/
  state : Nat := 0
  peer : Nat := 255
  peerPort : Nat := 255
  /-- IDENT has passed outwards and inwards since block lock. -/
  identOut : Bool := false
  identIn : Bool := false
  /-- The 1 ms wait after a lost link runs. -/
  waiting : Bool := false
  missRun : Nat := 0
  gotPkt : Bool := false
  delay : Nat := 0
  offset : Int := 0
  asym : Int := 0
  /-- Sums of the present average over 16 beats, and the number of exchanges in them. -/
  dSum : Int := 0
  oSum : Int := 0
  n : Nat := 0
  /-- Arrival of the neighbour's last TIME message and its t1 (R362). -/
  t2 : Nat := 0
  nbrT1 : Nat := 0
  crc : Nat := 0
  downs : Nat := 0
  /-- Offset of the last exchange (R46). -/
  last : Int := 0
deriving DecidableEq, Repr

/-- A device known from IDENT messages (R355). -/
structure Known where
  ident : W64
  strap : Nat
  stake : Nat
  partner : Nat
deriving DecidableEq, Repr

/-- The weave side of the device. -/
structure WeaveSt where
  /-- Own stake number; none without one (R356). -/
  stake : Option Nat := none
  /-- Isolated under R358. -/
  isolated : Bool := false
  /-- A number assigned, taken at the next boundary (R357). -/
  assignedNo : Option Nat := none
  ports : Tab WPort := []
  known : List Known := []
  /-- Assignments this device has made as assigner: identity and number. -/
  made : List (W64 × Nat) := []
  /-- Link-state database: by stake, its (local port, neighbour stake, neighbour port). -/
  lsdb : Tab (List (Nat × Nat × Nat)) := []
  /-- Routing table: output port and hops (R359). -/
  routes : Tab (Option (Nat × Nat)) := []
  /-- Recently seen floods: source, type, sequence, time (R351). -/
  seen : List (Nat × Nat × Nat × Nat) := []
  /-- Stakes from which a BEAT_PKT or IDENT has arrived since their route exists (R360), and those whose BEAT_PKT of the present beat
  has arrived. -/
  heard : List Nat := []
  pkts : List Nat := []
  /-- Next sequence number of each type (R351). -/
  seqs : Tab Nat := []
  /-- Messages originated or forwarded since the present beat started, oldest first. -/
  out : List WOut := []
  sig : Tab Sig := []
  pub : Tab Sig := []
  /-- Pairs this stake has subscribed to, and for each own signal the stakes that read it (R365). -/
  subs : List (Nat × Nat) := []
  readers : List (Nat × Nat) := []
  /-- This stake holds the token for the present beat, and a scheduled change: the first beat it applies to, and its value (R368). -/
  tokenCur : Bool := false
  tokPlan : Option (Nat × Bool) := none
  /-- PASS is pending (R369); DEPART is sent. -/
  passing : Bool := false
  depart : Bool := false
  /-- Last BEAT_PKT of the partner names this stake; its HOLD bit; consecutive missed beats (R354, R370); it departs (R373). -/
  partnerNames : Bool := false
  partnerHold : Bool := false
  partnerMiss : Nat := 0
  partnerDepart : Bool := false
  partnerWindow : Nat := 40
  /-- Code indices other stakes announce (R206): stake, index. -/
  codes : List (Nat × Nat) := []
  /-- Time root that each stake announces in its BEAT_PKT (Table 16.4). -/
  roots : Tab Nat := []
  /-- BEAT_MISMATCH is active (R40). -/
  mismatch : Bool := false
  /-- BEAT messages were discarded in this beat (R353). -/
  overloaded : Bool := false
deriving DecidableEq, Repr

/-! ## Spokes, cells and arms (ch. 4, 5, 6) -/

/-- A command half without position, timing and check (Table 4.4): code, states A, B, C, the two edges, argument. In a CONFIG half
`e2` is the value. -/
structure Half where
  code : Nat := 0
  a : Nat := 0
  b : Nat := 0
  c : Nat := 0
  e1 : Nat := 0
  e2 : Nat := 0
  arg : Nat := 0
deriving DecidableEq, Repr

/-- A cell beside its parameters. -/
structure CellRt where
  /-- In service at the last pass, and its arm. -/
  inService : Bool := false
  arm : Option Nat := none
  /-- Model (R120): predicted voltage, bootstrap state, switching rate and its value before the last commanded beat, and the lower
  conduction the commands imply at the start of the beat before the present one, in fine ticks. -/
  vhat : F32 := 0
  bhat : F32 := 0
  rho : F32 := 0
  rhoPrev : F32 := 0
  /-- Changes of gate state that the half sent in this beat commands. -/
  moves : Nat := 0
  lowImpl : Nat := 0
  /-- Halves sent for the beat before the last commanded beat and for the last commanded beat, whether BLOCK_ALL went with them,
  and the commanded gate state at the end of the beat before them and of each. -/
  prev : Half := {}
  prevAll : Bool := false
  cur : Half := {}
  curAll : Bool := false
  stBefore : Nat := 0
  stPrev : Nat := 0
  stCur : Nat := 0
  /-- The scheduler's half for the next frame. -/
  plan : Option Half := none
  /-- A valid half has arrived in the present beat; one has arrived since the last discovery (a cell counts as blocked by its start-up
  until then, R96); the cell was available at the last pass (R118). -/
  fresh : Bool := false
  heard : Bool := false
  avail : Bool := false
  /-- A refresh is due and not yet completed; due at the last pass and at the one before (R122). -/
  refPending : Bool := false
  due : Bool := false
  duePrev : Bool := false
  /-- The last beats for which BLOCK or BLOCK_ALL was sent, newest first, and the beat in which the cell left block (R144). -/
  blockHist : List Nat := []
  leftBlock : Option Nat := none
  /-- UNBLOCK is due: 0 before the first is sent, then 1 and the beats since (R98). -/
  unblk : Option Nat := none
  /-- Settings still to be sent, those sent and not answered with their commanded beats, and the settings refused (R146). -/
  cfg : List Nat := []
  cfgSent : List (Nat × Nat) := []
  cfgBad : Nat := 0
  clearLock : Option Nat := none
  /-- The beat from which a selected cell counts as bypassed (R150). -/
  bypFrom : Nat := 0
  /-- BYPASS has been sent; valid halves since without BYPASSED (R150). -/
  bypSent : Bool := false
  bypN : Nat := 0
  /-- Times of the undervoltage faults within the last second (R143). -/
  uvTimes : List Nat := []
  /-- Protocol version discovered; type mismatch reported. -/
  version : Nat := 1
  typeBad : Bool := false
  idBad : Bool := false
deriving DecidableEq, Repr

/-- An arm beside its parameters. -/
structure ArmRt where
  iHat : F32 := 0
  latched : Bool := false
  /-- Current received from the token holder for the next beat (R119). -/
  partnerI : Option F32 := none
  carry : F64 := 0
  /-- Ranked lists of the two polarities with scores; a deferrable cell's score is NaN. -/
  listP : List (Nat × F32) := []
  listN : List (Nat × F32) := []
  neg : Bool := false
  prevFrac : Option Nat := none
  finalBeat : Option Nat := none
  /-- First reports of code 1 or 2: cell and tseq (R149). -/
  reports : List (Nat × Nat) := []
  /-- The beat in which a difference of the halves was last counted (R132). -/
  divBeat : Option Nat := none
  faultTseq : Option Nat := none
  lowCap : Bool := true
deriving DecidableEq, Repr

/-- A discovery in progress (Table 4.11): the beat it started in, beats run, cells counted by the hop at the far end and by turns from each
end, round trips of ranging frames (position, fine ticks) from each end, and the identity halves that the B end reports. -/
structure Disc where
  start : Nat := 0
  beats : Nat := 0
  hopA : Option Nat := none
  retA : Option Nat := none
  hopB : Option Nat := none
  retB : Option Nat := none
  rtA : List (Nat × Nat) := []
  rtB : List (Nat × Nat) := []
  long : Bool := false
  ids : List (List Byte) := []
deriving DecidableEq, Repr

/-- A spoke port beside its parameters. -/
structure SpokeRt where
  /-- A valid frame from the far end, and a RETURN frame, in the present beat; a cell reported AUTH_SPLIT in it. -/
  far : Bool := false
  ret : Bool := false
  split : Bool := false
  missRun : Nat := 0
  goodRun : Nat := 0
  disc : Option Disc := none
  /-- An automatic discovery is held until the kind allows it (R104). -/
  autoPend : Bool := false
  /-- The frame sent in the present beat, and the running disparity before it: set when positive (R77). -/
  tx : List Byte := []
  rd : Bool := false
deriving DecidableEq, Repr


/-! ## Grid functions (ch. 8) -/

/-- A grid connection beside its parameters. -/
structure GridRt where
  /-- Beat number of the last completed grid step, and of the last formed angles (R185). -/
  lastStep : Option Nat := none
  angBeat : Option Nat := none
  thetaN : F32 := 0
  /-- Ramp values and recovery bound in binary64 (R184). -/
  pEff : F64 := 0
  qEff : F64 := 0
  phiEff : F64 := 0
  pRec : F64 := 0
  pRec0 : F64 := 0
  recN : Nat := 0
  pPre : F32 := 0
  thV : F32 := 0
  /-- The virtual machine ran in the previous grid step (R195). -/
  forming : Bool := false
  limPrev : Bool := false
  /-- Targets stored clamped; the context's target was clamped at the last step (R189, R190). -/
  clampBits : Nat := 0
  clampCtx : Bool := false
  /-- Kind from which the present RIDE_THROUGH state was entered (R192, R194). -/
  rideFrom : Nat := 0
  outN : Nat := 0
  inN : Nat := 0
  /-- First of the consecutive out-of-band beats: its weave time, and u_pos and p_cmd of the step before it. -/
  candTs : Nat := 0
  candU : F32 := 0
  candP : F32 := 0
  missRun : Nat := 0
deriving DecidableEq, Repr


/-! ## Islanding detection (ch. 9) -/

/-- A completed sequence waiting for the control pair's computation (R212): its lag accumulators, chip period in fine
ticks, end and start, and whether R213 makes it invalid. -/
structure IslSeq where
  rv : List F32
  ri : List F32
  chip : Nat
  ended : Nat
  started : Nat
  len : Nat
  bad : Bool
deriving DecidableEq, Repr

/-- The estimate of a sequence (R212, R213): magnitudes, angles, valid points, and the sequence's span. -/
structure IslEst where
  mags : List F32
  angs : List F32
  valid : Nat
  ended : Nat
  started : Nat
  len : Nat
  bad : Bool
deriving DecidableEq, Repr

/-- Deviation of one sampled-value stream (R216): since when every cycle has deviated. -/
structure SvDev where
  since : Option Nat := none
  last : Nat := 0
deriving DecidableEq, Repr

/-- An islanding detector beside its parameters. -/
structure IslRt where
  /-- Sequence in progress, the weave time of its start, and whether some beat of it made it invalid. -/
  seqNo : Option Nat := none
  seqStart : Nat := 0
  seqBad : Bool := false
  /-- The stake injected in the previous islanding step; a sequence has started since injection started. -/
  injecting : Bool := false
  firstSeq : Bool := true
  /-- Sums of ev and ei over the chip in progress. -/
  evSum : F32 := 0
  eiSum : F32 := 0
  rv : List F32 := []
  ri : List F32 := []
  doneSeqs : List IslSeq := []
  ests : List IslEst := []
  /-- The last registered estimate of each point: magnitude and angle. -/
  regMag : List F32 := []
  regAng : List F32 := []
  baseN : Nat := 0
  active : Bool := false
  /-- freq and theta of earlier islanding steps, newest first. -/
  freqs : List F32 := []
  thetas : List F32 := []
  vTimer : Nat := 0
  fTimer : Nat := 0
  rocof : Bool := false
  vshift : Bool := false
  vwin : Bool := false
  fwin : Bool := false
  sv : Bool := false
  svDev : Tab SvDev := []
  /-- Last beat, in weave time, in which each criterion was true. -/
  lastTrue : Tab (Option Nat) := []
  policySat : Bool := false
  prevActive : Bool := false
  /-- A suppression was counted in the present envelope. -/
  suppr : Bool := false
  prevFrt : Bool := false
  /-- End of the last envelope (R219). -/
  rearm : Option Nat := none
  /-- Injection stopped for a clash (R206). -/
  stopped : Bool := false
  /-- Instant at which the decision flag was last set (R10). -/
  decAt : Nat := 0
deriving DecidableEq, Repr


/-! ## Rim (ch. 15) -/

/-- The Rim beside its parameters. Channel 2k is channel A of input k and 2k + 1 its channel B; a mask has one bit per channel,
input or output. -/
structure RimSt where
  running : Bool := false
  /-- Active and staged configuration record, 256 bytes each; empty when there is none. -/
  active : List Byte := []
  staged : List Byte := []
  /-- Bytes of a record being written. -/
  buf : Tab Byte := []
  /-- Pin voltage in mV; level after the hysteresis; pins that have left the band since the start (R325). -/
  mv : Tab Nat := []
  raw : Nat := 0
  known : Nat := 0
  /-- Open test window (its RIM_TP pin), channels under test and their held levels, those that have read low in it, those that fell
  without being under test, inputs whose test has failed in it (R327, R328). -/
  window : Option Nat := none
  under : Nat := 0
  sawLow : Nat := 0
  fell : Nat := 0
  failed : Nat := 0
  /-- Inputs not tested until both channels read high (R329). -/
  skip : Nat := 0
  /-- Channels that must change before the DISCREPANCY of their input clears (R326). -/
  lag : Nat := 0
  /-- Inputs whose channel B was the last to change its filtered level. -/
  mover : Nat := 0
  /-- Causes on each output: bit c − 1 for code c of Table 15.2. -/
  causes : Tab Nat := []
  /-- Off-tests in progress (bit 2j + channel), outputs whose last off-test passed, and outputs whose OUTPUT_FAULT latched after a
  passed off-test (Table 15.2). -/
  offRun : Nat := 0
  offOk : Nat := 0
  ofOk : Nat := 0
  /-- Outputs whose EDM feedback may still move (R334). -/
  edmOpen : Nat := 0
  /-- A press in progress: its start, and whether both channels had read released for 1 s (R339). -/
  press : Option (Nat × Bool) := none
  stuck : Bool := false
deriving DecidableEq, Repr



/-! ## Metering (ch. 13) -/

/-- One channel of an element: DC-block memory and the last samples before the delay filter, newest first (R283). -/
structure MetCh where
  x1 : F64 := 0
  y1 : F64 := 0
  taps : List F64 := []
deriving DecidableEq, Repr

/-- A metering element beside its parameters. -/
structure MetRt where
  v : MetCh := {}
  i : MetCh := {}
  /-- Corrected voltages, newest first, as far back as a quarter period needs; voltages and currents of the present period. -/
  vHist : List F64 := []
  vs : List F64 := []
  is : List F64 := []
  /-- Sample periods from the start of the accumulation period to the latest sample, and since the last counted crossing. -/
  pos : F64 := 0
  cross : Option F64 := none
  /-- Samples since the voltage was below −1 % of v_fs; length of the last measured period in sample periods. -/
  sinceLow : Option Nat := none
  lastLen : F64 := 0
  timeout : Bool := false
  /-- Frequencies of the last periods, newest first. -/
  freqs : List F64 := []
  /-- OVR seen in the present period; out of 40–70 Hz at the last period. -/
  ovr : Bool := false
deriving DecidableEq, Repr

/-- A metering record (Table 13.4). -/
structure MetRec where
  seq : Nat
  ts : Nat
  cause : Nat
  tq : Nat
  sLast : Nat
  regs : List Nat
  alloc : List Nat
deriving DecidableEq, Repr

/-- A lost-interval entry (R296). -/
structure MetLost where
  ts : Nat
  seq : Nat
  startTs : Nat
  cause : Nat
  sLast : Nat
  bound : Nat
deriving DecidableEq, Repr

/-- The metering engine. -/
structure MetSt where
  el : Tab MetRt := []
  /-- Live registers in units of 2^-64 milli-unit, register r of METR.e at 7e + r; alloc_out and alloc_in of port p at 2p, 2p + 1. -/
  regs : Tab Nat := []
  alloc : Tab Nat := []
  /-- Sums of the block in progress: active and reactive energy in J, apparent, and whether an element registered. -/
  bP : F64 := 0
  bQ : F64 := 0
  bS : F64 := 0
  bAny : Bool := false
  slots : Tab (Option MetRec) := []
  lost : List MetLost := []
  armed : Bool := true
deriving DecidableEq, Repr



/-! ## Lid and update (ch. 18) -/

/-- An entry of the measurement log (R412). -/
structure MeasLog where
  reg : Nat
  count : Nat
  ts : Nat
  digest : List Byte
  value : List Byte
deriving DecidableEq, Repr

/-- Boot record (Table 18.5). -/
structure BootRec where
  seq : Nat := 0
  active : Nat := 0
  pending : Nat := 255
  started : Bool := false
  failed : Bool := false
  mirror : Nat := 0
  window : Nat := 10
  start : Nat := 0
deriving DecidableEq, Repr

/-- Ownership record (Table 18.5). -/
structure OwnRec where
  seq : Nat := 0
  state : Nat := 0
  link : Nat := 255
  stake : Nat := 255
  fp : Nat := 0
  digest : List Byte := []
  version : Nat := 0
  arc : Nat := 0
  count : Nat := 0
  last : Nat := 0
deriving DecidableEq, Repr

/-- A firmware slot: the image installed at manufacture, or chunks written by the update process. -/
structure FwSlot where
  made : Bool := false
  chunks : Tab (List Byte) := []
deriving DecidableEq, Repr

/-- Source of a manifest (R420): link, origin stake, fingerprint. -/
structure Src where
  link : Nat
  stake : Nat
  fp : Nat
deriving DecidableEq, Repr

/-- A manifest being assembled by a session. -/
structure Assem where
  total : Nat
  /-- Parts received, oldest first: offset and data. -/
  parts : List (Nat × List Byte) := []
deriving DecidableEq, Repr

/-- Settings of another schema (R427). -/
structure Retained where
  schema : Nat
  vals : Tab W64
  modeImg : Tab Byte
  ctxImg : Tab Byte
deriving DecidableEq, Repr

/-- The Lid and the update process beside their parameters. -/
structure LidSt where
  tally : Tab (List Byte) := []
  counts : Tab Nat := []
  log : List MeasLog := []
  /-- Owner key slots: usage and public key. -/
  keys : Tab (Nat × List Byte) := []
  epoch : Nat := 0
  /-- Fuses blown, and the value an advance in progress blows up to (R415). -/
  fuses : Nat := 0
  blowTo : Option Nat := none
  boot : Tab (Option BootRec) := []
  own : Tab (Option OwnRec) := []
  bitmap : Nat := 0
  slots : Tab FwSlot := []
  running : Nat := 0
  /-- The running image is a trial; boot_state; an update reset is requested (R423, R425). -/
  trial : Bool := false
  resetWanted : Bool := false
  /-- Working memory of the update process, lost at power loss: the recorded manifest, manifests being assembled, halves that wait,
  chunks verified and not yet marked, contributors. -/
  manifest : List Byte := []
  assem : Tab (Option Assem) := []
  halves : Tab (List Byte) := []
  marking : Tab (List Byte) := []
  contrib : List Src := []
  activating : Bool := false
  whenStopped : Bool := false
  /-- Weave time since which a host session has been open (R425). -/
  openSince : Option Nat := none
  clkFailed : Bool := false
  /-- Registers, counts and fuses at the last beat boundary (R413). -/
  tallySnap : Tab (List Byte) := []
  countSnap : Tab Nat := []
  fuseSnap : Nat := 0
  /-- Schema of the current settings, none for that of the image installed at manufacture; settings of a previous schema; DEFAULTED at this
  start. -/
  schema : Option Nat := none
  retained : Option Retained := none
  defaulted : Bool := false
  /-- Digests of the table sets recorded in MRAM, and the stored images (R64). -/
  stored : Tab (Tab Byte) := []
  storedDigest : Tab (List Byte) := []
deriving DecidableEq, Repr



/-! ## Power, reset, always-on island (ch. 19) -/

/-- A temperature log entry (R456): weave time in minutes, die temperature, VSTORE in mV. -/
structure TempEntry where
  minute : Nat
  tj : Int
  mv : Nat
deriving DecidableEq, Repr

/-- Power beside the PWR and HARV parameters. -/
structure PwrSt where
  /-- PORSTn is low; reset cause of a reset in progress; a warm reset requested for the next boundary. -/
  porst : Bool := true
  cause : Nat := 0
  resetReq : Bool := false
  /-- PARKED requested; park_hold has passed in converter kind PARKED; a wake cause that waits for the end of PARKING. -/
  parkReq : Bool := false
  autoDue : Bool := false
  wakeHeld : Option Nat := none
  /-- Entry to PARKED, in weave time. -/
  parkedAt : Nat := 0
  /-- DARK requested; alarm set at its entry; an exit cause has occurred; AUX_FAILn has been low (R446, R448). -/
  darkReq : Bool := false
  alarm : Option Nat := none
  exitCause : Option Nat := none
  auxLow : Bool := false
  /-- SVC_RSTn press in progress since, and treated as stuck. -/
  press : Option Nat := none
  stuck : Bool := false
  tamper : Bool := false
  /-- The island runs (R451, R452). -/
  island : Bool := true
  temp : List TempEntry := []
  straps : Nat := 63
  rimStraps : Nat := 0
  /-- Stored energies of the ports as saved in the health counters region (R234). -/
  energies : Tab F64 := []
  /-- The counters of the health counters region (Table 1.5) over the starts before the present one, by parameter key. -/
  health : Tab Nat := []
deriving DecidableEq, Repr

/-! ## The device -/

/-- Everything the device holds, except the queue of commands waiting for it. -/
structure Dev where
  /-- Weave time of the last command (R15). -/
  now : Nat := 0
  /-- Weave time at which the present beat started, and the length of the beat in progress in fine ticks. -/
  beatStart : Nat := 0
  beatLen : Nat := 32000
  /-- An accepted new grid: beat_ticks, window_pct, beat_phase, and the earliest weave time of its first boundary (R38, R39). -/
  newGrid : Option (Nat × Nat × Nat × Nat) := none
  /-- Values of all parameters; an unlisted one reads its default. -/
  par : Tab W64 := []
  /-- Counter of the open values used so far (the model's own field, log entry 6). -/
  free : Nat := 0
  phase : Phase := .held
  evt : EvtSt := {}
  host : HostSt := {}
  tsets : Tab TblSet := []
  commits : List Commit := []
  mode : ModeSt := {}
  legs : Tab LegRt := []
  osier : OsierSt := {}
  ports : Tab PortRt := []
  caps : Tab CapRt := []
  trigs : Tab TrigRt := []
  ctxs : Tab CtxRt := []
  eng : EngSt := {}
  grids : Tab GridRt := []
  isls : Tab IslRt := []
  spokes : Tab SpokeRt := []
  cells : Tab CellRt := []
  arms : Tab ArmRt := []
  adcs : Tab AdcRt := []
  sdis : Tab SdiRt := []
  wins : Tab WinRt := []
  sup : SupSt := {}
  weave : WeaveSt := {}
  rim : RimSt := {}
  met : MetSt := {}
  lid : LidSt := {}
  pwr : PwrSt := {}
  pins : PinSt := {}
deriving DecidableEq, Repr

/-! ## State, stops, reset -/

/-- The whole state: the device and the commands waiting, first in, first out. -/
structure State where
  dev : Dev
  pending : List Instr
deriving DecidableEq, Repr

/-- Reasons to stop with a fault. No command of this device raises one: every condition the spec describes has an effect
(log entry 1). -/
inductive Fault where
  /-- Never raised. -/
  | none
deriving DecidableEq, Repr

/-- Reasons to refuse a command. -/
inductive Refusal where
  /-- A command whose meaning has not been written; safe, since no next state is claimed. -/
  | notModelled (mnemonic : String)
deriving DecidableEq, Repr

/-- The device held in reset by PORSTn, every parameter at its default (log entry 2), firmware slot A as installed at manufacture
and named by the boot record. -/
def Dev.reset : Dev :=
  { lid := { slots := [(0, { made := true })], boot := [(0, some {})] } }

/-- The machine right after reset: nothing pending. -/
def State.reset : State := { dev := Dev.reset, pending := [] }

end Sys2Proof.Machine
end

