-- ==== Sys2Proof/Machine/Ops.lean ====
section
/-! DEFINITION. Operations every family uses: the object dictionary's storage, weave time, free values, events (ch. 20),
messages into rings and to sessions (ch. 17). -/

namespace Sys2Proof.Machine

/-! ## Units of weave time (Table 0.5) -/

/-- Fine ticks in a second. -/
def fineS : Nat := 6400000000
/-- Fine ticks in a millisecond. -/
def fineMs : Nat := 6400000
/-- Fine ticks in a microsecond. -/
def fineUs : Nat := 6400
/-- Fine ticks in `n` nanoseconds (6.4 each), rounded down. -/
def fineNs (n : Nat) : Nat := n * 32 / 5

/-! ## The object dictionary -/

/-- A class of one byte and an index of two (R6). -/
def Par.small (p : Par) : Bool := decide (p.cls < 256) && decide (p.idx < 65536)

/-- Key of a parameter of an instance: object identifier, then index (R6). An instance beyond 24 bits has no identifier; it gets a key of its
own, above all of those. -/
def parKey (p : Par) (i : Nat) : Nat :=
  if i < 16777216 then (p.cls * 16777216 + i) * 65536 + p.idx else 2 ^ 64 + (i * 65536 + p.idx) * 256 + p.cls

/-- Default of a parameter whose default depends on the instance (Tables 13.6, 17.4, 17.9), else that of its row. -/
def parDefault (key : Nat) : W64 :=
  let idx := key % 65536
  let i := key / 65536 % 16777216
  let cls := key / 65536 / 16777216
  let p : Par := ⟨cls, idx⟩
  if p = Par.ringVector then
    (if i < 16 then 255 else if i < 32 then BitVec.ofNat 64 (i - 16)
     else if i < 64 then BitVec.ofNat 64 (16 + i % 8) else if i < 72 then 255
     else if i < 80 then BitVec.ofNat 64 (24 + i % 4) else BitVec.ofNat 64 (28 + i % 4))
  else if p = Par.linkKind then (if i = 0 then 0 else if i < 3 then 1 else 2)
  else if p = Par.linkMac then (if i = 1 ∨ i = 2 then Config.macAddress i else 0)
  else if p = Par.metrVSel then (if i < 4 then BitVec.ofNat 64 i else 0)
  else if p = Par.gridFreq then 0x42480000
  else if (rowOf p).isSome then BitVec.ofNat 64 (((rowOf p).map (·.dflt)).getD 0)
  else 0

/-- Stored 64-bit field of a parameter. -/
def Dev.raw (d : Dev) (p : Par) (i : Nat) : W64 := d.par.get parDefault (parKey p i)

/-- Store the 64-bit field of a parameter. -/
def Dev.setRaw (d : Dev) (p : Par) (i : Nat) (v : W64) : Dev :=
  { d with par := d.par.set parDefault (parKey p i) v }

/-- An unsigned parameter. -/
def Dev.get (d : Dev) (p : Par) (i : Nat) : Nat := (d.raw p i).toNat
/-- Store an unsigned parameter. -/
def Dev.put (d : Dev) (p : Par) (i : Nat) (v : Nat) : Dev := d.setRaw p i (BitVec.ofNat 64 v)
/-- A binary32 parameter (R379). -/
def Dev.getF (d : Dev) (p : Par) (i : Nat) : F32 := (d.raw p i).setWidth 32
/-- Store a binary32 parameter. -/
def Dev.putF (d : Dev) (p : Par) (i : Nat) (v : F32) : Dev := d.setRaw p i (v.setWidth 64)
/-- A signed parameter, held sign-extended (R379). -/
def Dev.getI (d : Dev) (p : Par) (i : Nat) : Int := (d.raw p i).toInt
/-- Store a signed parameter. -/
def Dev.putI (d : Dev) (p : Par) (i : Nat) (v : Int) : Dev := d.setRaw p i (BitVec.ofInt 64 v)
/-- Add to a counter of `w` bits, modulo 2^w. -/
def Dev.inc (d : Dev) (w : Nat) (p : Par) (i : Nat) (n : Nat := 1) : Dev := d.put p i ((d.get p i + n) % 2 ^ w)
/-- Add to a counter of `w` bits that stays at its top. -/
def Dev.incSat (d : Dev) (w : Nat) (p : Par) (i : Nat) (n : Nat := 1) : Dev := d.put p i (min (d.get p i + n) (2 ^ w - 1))
/-- A parameter that is a flag. -/
def Dev.isOn (d : Dev) (p : Par) (i : Nat) : Bool := d.get p i != 0
/-- Set or clear bit `b` of a parameter. -/
def Dev.putBit (d : Dev) (p : Par) (i b : Nat) (v : Bool) : Dev := d.put p i (setBit (d.get p i) b v)

/-- Object identifier (R6). -/
def oid (cls inst : Nat) : Nat := cls * 16777216 + inst

/-- A value the spec leaves open, fresh at every use: the counter of the state advances. -/
def Dev.freeVal (d : Dev) : W64 × Dev := (Config.freeValue d.free, { d with free := d.free + 1 })

/-- Apply `f` over the numbers below `n`, lowest first. -/
def Dev.forN (d : Dev) (n : Nat) (f : Dev → Nat → Dev) : Dev := (List.range n).foldl f d

/-- Apply `f` over a list, first element first. -/
def Dev.forL {α : Type} (d : Dev) (xs : List α) (f : Dev → α → Dev) : Dev := xs.foldl f d

/-- Apply `f` when a condition holds. -/
def Dev.whenD (d : Dev) (c : Bool) (f : Dev → Dev) : Dev := if c then f d else d

/-- Power modes of PWR.0/mode. -/
abbrev pmRun : Nat := 0
/-- See `pmRun`. -/
abbrev pmParked : Nat := 1
/-- See `pmRun`. -/
abbrev pmDark : Nat := 2
/-- See `pmRun`. -/
abbrev pmWaking : Nat := 3
/-- See `pmRun`. -/
abbrev pmParking : Nat := 4

/-- Clock domains of Table 2.5. -/
abbrev cdAon : Nat := 0
/-- See `cdAon`. -/
abbrev cdTb : Nat := 1
/-- See `cdAon`. -/
abbrev cdSup : Nat := 2
/-- See `cdAon`. -/
abbrev cdLoop : Nat := 3
/-- See `cdAon`. -/
abbrev cdSpk : Nat := 4
/-- See `cdAon`. -/
abbrev cdWeft : Nat := 5
/-- See `cdAon`. -/
abbrev cdNet : Nat := 6
/-- See `cdAon`. -/
abbrev cdMem : Nat := 7

/-- The clock domain is usable (R47, R48). -/
def Dev.clkOk (d : Dev) (dom : Nat) : Bool := !(bit d.sup.unlocked dom)

/-- The always-on island runs: it has a source (R452) and its clock (R48). -/
def Dev.islandOn (d : Dev) : Bool := d.pwr.island && d.clkOk cdAon

/-- The power mode. -/
def Dev.pmode (d : Dev) : Nat := d.get Par.pwrMode 0

/-- A supervisor pair (0 control, 1 service) is halted or restarting (R22, R26), or without its clock (R48). -/
def Dev.pairHalted (d : Dev) (c : Nat) : Bool := bit d.sup.halted c || !(d.clkOk cdSup)

/-- What the control pair serves (tables, descriptors, cell discovery, the mode table's actions) stands still: the pair is halted, or in power
mode PARKED, and until the wake is over, the service pair that has taken its duties over (R26). -/
def Dev.controlHalted (d : Dev) : Bool := d.pairHalted (b2n (d.pmode == pmParked || d.pmode == pmWaking))
/-- Firmware serves the host: phase run. -/
def Dev.up (d : Dev) : Bool := d.phase == .run
/-- The blocks that run only in power mode RUN are powered: RUN, and PARKING until it completes (Table 1.1, R442). -/
def Dev.full (d : Dev) : Bool := d.up && (d.pmode == pmRun || d.pmode == pmParking)
/-- The capture engine runs: in RUN, with the clocks of TB, and of MEM where LPDDR4X is fitted (Tables 1.1 and 2.5, R48). -/
def Dev.capOn (d : Dev) : Bool := d.full && d.clkOk cdTb && (d.sup.ddrMiB == 0 || d.clkOk cdMem)

/-- Kind of the present converter mode (R68); PARKED before the engine has entered a state. -/
def Dev.kind (d : Dev) : Nat := d.get Par.devConvMode 0

/-- Mode kinds of R68. -/
abbrev kOff : Nat := 0
/-- See `kOff`. -/
abbrev kPrecharge : Nat := 1
/-- See `kOff`. -/
abbrev kParked : Nat := 2
/-- See `kOff`. -/
abbrev kStandby : Nat := 3
/-- See `kOff`. -/
abbrev kFollow : Nat := 4
/-- See `kOff`. -/
abbrev kForm : Nat := 5
/-- See `kOff`. -/
abbrev kRide : Nat := 6
/-- See `kOff`. -/
abbrev kIslStop : Nat := 7
/-- See `kOff`. -/
abbrev kTripped : Nat := 8
/-- See `kOff`. -/
abbrev kLockout : Nat := 9

/-- Kinds OFF and PARKED, in which BEAT.0 and PWR.0 count as stopped (R38, R456). -/
def Dev.offOrParked (d : Dev) : Bool := d.kind == kOff || d.kind == kParked

/-- Beat length in ticks. -/
def Dev.beatTicks (d : Dev) : Nat := d.get Par.beatBeatTicks 0
/-- Compute window in ticks (R37). -/
def Dev.windowTicks (d : Dev) : Nat := d.beatTicks * d.get Par.beatWindowPct 0 / 100
/-- Beat number (R35). -/
def Dev.beatNo (d : Dev) : Nat := d.get Par.beatBeatCount 0

/-! ## Events (ch. 20) -/

/-- The 32 bytes of a record (Table 20.2). -/
def EvRec.bytes (r : EvRec) (seq : Nat) : List Byte :=
  leBytes 4 seq ++ leBytes 2 r.ev ++ leBytes 1 (r.tq % 8 + b2n r.suppr * 8) ++ leBytes 1 r.stake
    ++ leBytes 8 r.ts ++ leBytes 4 r.cnt ++ leBytes 4 r.obj ++ leBytes 8 r.detail

/-- The last number of every group of Table 20.1 that has a name. -/
def evNamed (n : Nat) : Bool :=
  n ≤ 11 || (16 ≤ n && n ≤ 25) || (32 ≤ n && n ≤ 48) || (64 ≤ n && n ≤ 69) || (80 ≤ n && n ≤ 83) || (96 ≤ n && n ≤ 103)
    || (112 ≤ n && n ≤ 119) || (128 ≤ n && n ≤ 136) || (144 ≤ n && n ≤ 147) || (160 ≤ n && n ≤ 165)
    || (176 ≤ n && n ≤ 186) || (192 ≤ n && n ≤ 195) || (208 ≤ n && n ≤ 219) || (224 ≤ n && n ≤ 239)

/-- Of two records with one TS64: the lower event number comes first, and of one event the lower object identifier (R460). -/
def EvRec.before (a b : EvRec) : Bool := a.ts == b.ts && (decide (a.ev < b.ev) || (a.ev == b.ev && decide (a.obj < b.obj)))

/-- Place a new record among those that wait, with its ring mask (R460). The counts of one event follow the order of its records. -/
def placeRec (r : EvRec) (mask : Nat) (xs : List (EvRec × Nat)) : List (EvRec × Nat) :=
  let later := (xs.reverse.takeWhile (fun x => r.before x.1)).reverse
  let same := (later.filter (fun x => x.1.ev == r.ev)).length
  xs.take (xs.length - later.length) ++ ({ r with cnt := (r.cnt + 2 ^ 32 - same) % 2 ^ 32 }, mask)
    :: later.map (fun x => if x.1.ev = r.ev then ({ x.1 with cnt := (x.1.cnt + 1) % 2 ^ 32 }, x.2) else x)

/-- An occurrence of EVT.n with its own TS64 and the time quality `tq` at it (R49, R459, R461, R462). A record within the rate limit goes to the
log, with log_en unless the island has logged it, and to the event rings; one beyond it counts as suppressed. -/
def Dev.occur (d : Dev) (n ts obj detail tq : Nat) (logged : Bool := false) : Dev :=
  let first := decide (0 < d.get Par.evtCount n) && d.get Par.evtLastTime n == ts && decide (obj < d.get Par.evtLastObject n)
  let d := (d.put Par.evtFlag n 1).inc 32 Par.evtCount n
  let d := if first then d else ((d.put Par.evtLastTime n ts).put Par.evtLastObject n obj).put Par.evtLastDetail n detail
  let r := d.evt.rate.get (fun _ => {}) n
  let d := { d with evt := { d.evt with fresh := d.evt.fresh ++ [(n, obj)] } }
  if r.sent < d.get Par.evtRateLimit n then
    let rec' : EvRec :=
      { ev := n, tq := tq, suppr := r.suppr, stake := d.weave.stake.getD 255, ts := ts,
        cnt := d.get Par.evtCount n, obj := obj, detail := detail }
    let log := if d.isOn Par.evtLogEn n && !logged then (placeRec rec' 0 (d.evt.toLog.map (fun x => (x, 0)))).map (·.1) else d.evt.toLog
    { d with evt := { d.evt with
        rate := d.evt.rate.set (fun _ => {}) n { sent := r.sent + 1, suppr := false }
        toLog := if d.pairHalted 1 then lastN 256 log else log
        toRings := if d.get Par.evtRingMask n = 0 then d.evt.toRings
                   else placeRec rec' (d.get Par.evtRingMask n) d.evt.toRings } }
  else
    let d := d.inc 32 Par.evtSuppressed n
    { d with evt := { d.evt with rate := d.evt.rate.set (fun _ => {}) n { r with suppr := true } } }

/-- Append one record to the event log (R465): the next storage place, its seq, which skips 0xFFFF_FFFF. -/
def Dev.logAppend (d : Dev) (r : EvRec) : Dev :=
  let e := d.evt
  let next := if e.seq + 1 ≥ 4294967295 then 0 else e.seq + 1
  { d with evt := { e with
      log := e.log.set (fun _ => List.replicate 32 0xFF) e.logPos (r.bytes e.seq)
      logPos := (e.logPos + 1) % 4096
      seq := next } }

/-- The always-on island writes the log entry of an occurrence while no firmware runs (R446, R447, R465), unless it runs in clock-only state
(R451). The count is the one the occurrence has once it is applied at the firmware start. -/
def Dev.islandLog (d : Dev) (n obj detail : Nat) : Dev :=
  if !d.islandOn ∨ d.get Par.pwrAonSource 0 = 2 ∨ !(d.isOn Par.evtLogEn n) then d
  else
    d.logAppend { ev := n, tq := d.get Par.beatTimeState 0, suppr := false, stake := 255, ts := d.now,
                  cnt := (d.evt.early.filter (fun e => e.ev == n)).length + 1, obj := obj, detail := detail }

/-- The firmware applies occurrences. -/
def Dev.evtUp (d : Dev) : Bool := d.up || d.phase == .firmware

/-- Raise an event now. Before the firmware starts the occurrence is kept with its TS64 and applied at the firmware start
(R459); `island` marks one whose log entry the island writes meanwhile. -/
def Dev.raise (d : Dev) (n : Nat) (obj : Nat := 0) (detail : Nat := 0) (island : Bool := false) : Dev :=
  let tq := d.get Par.beatTimeState 0
  if d.evtUp then d.occur n d.now obj detail tq
  else
    let d := if island then d.islandLog n obj detail else d
    let e : EarlyOcc := { ev := n, ts := d.now, obj := obj, detail := detail, tq := tq, logged := island && d.islandOn }
    { d with evt := { d.evt with early := d.evt.early ++ [e] } }

/-! ## Messages and rings (ch. 17) -/

/-- Status codes (Table 20.4). -/
abbrev stOk : Nat := 0x0000
/-- See `stOk`. -/
abbrev stRamping : Nat := 0x0001
/-- See `stOk`. -/
abbrev stClamped : Nat := 0x0002
/-- See `stOk`. -/
abbrev stGrantPartial : Nat := 0x0003
/-- See `stOk`. -/
abbrev stCompleted : Nat := 0x0010
/-- See `stOk`. -/
abbrev stAborted : Nat := 0x0011
/-- See `stOk`. -/
abbrev stLateAbort : Nat := 0x0012
/-- See `stOk`. -/
abbrev stBusy : Nat := 0x0101
/-- See `stOk`. -/
abbrev stConflict : Nat := 0x0102
/-- See `stOk`. -/
abbrev stNotOwner : Nat := 0x0103
/-- See `stOk`. -/
abbrev stAuth : Nat := 0x0104
/-- See `stOk`. -/
abbrev stBadState : Nat := 0x0105
/-- See `stOk`. -/
abbrev stRange : Nat := 0x0106
/-- See `stOk`. -/
abbrev stLength : Nat := 0x0107
/-- See `stOk`. -/
abbrev stAdmission : Nat := 0x0108
/-- See `stOk`. -/
abbrev stTripActive : Nat := 0x0109

/-- Accepted, with or without a remark (R466: a refusal has bit 8 set). -/
def accepted (st : Nat) : Bool := !(bit st 8)

/-- A whole message of Table 17.1. -/
def mkMsg (op tag session status flags : Nat) (payload : List Byte) : List Byte :=
  leBytes 1 1 ++ leBytes 1 op ++ leBytes 2 payload.length ++ leBytes 4 tag ++ leBytes 2 session ++ leBytes 2 status
    ++ leBytes 2 flags ++ leBytes 2 0 ++ payload

/-- Session record. -/
def Dev.sess (d : Dev) (i : Nat) : Sess := d.host.sess.get (fun _ => {}) i
/-- Store a session record. -/
def Dev.setSess (d : Dev) (i : Nat) (x : Sess) : Dev := { d with host := { d.host with sess := d.host.sess.set (fun _ => {}) i x } }
/-- Ring contents. -/
def Dev.ring (d : Dev) (n : Nat) : RingSt := d.host.rings.get (fun _ => {}) n
/-- Store ring contents. -/
def Dev.setRing (d : Dev) (n : Nat) (x : RingSt) : Dev := { d with host := { d.host with rings := d.host.rings.set (fun _ => {}) n x } }
/-- Count one raise of an MSI-X vector. -/
def Dev.msixRaise (d : Dev) (v : Nat) : Dev :=
  { d with host := { d.host with msix := d.host.msix.set (fun _ => 0) v (d.host.msix.get (fun _ => 0) v + 1) } }

/-- Slots in use: head − tail modulo 2^32 (R387). -/
def Dev.ringUsed (d : Dev) (n : Nat) : Nat := (d.get Par.ringHead n + 2 ^ 32 - d.get Par.ringTail n) % 2 ^ 32
/-- The ring is full (R387). -/
def Dev.ringFull (d : Dev) (n : Nat) : Bool := d.ringUsed n ≥ d.get Par.ringDepth n
/-- Place of a ring's slot in slot order for an index value (R386, R387): slots are allocated in ring order. -/
def Dev.slotNo (d : Dev) (n i : Nat) : Nat := ((List.range n).map (fun r => d.get Par.ringDepth r)).sum + i % d.get Par.ringDepth n

/-- Offset in BAR2 of a slot, and of its seal record (R386). -/
def slotAddr (k : Nat) : Nat := 4096 * k
/-- See `slotAddr`. -/
def sealAddr (k : Nat) : Nat := 0x180000 + 32 * k

/-- A slot of a ring is written with its seal record. A ring with host_addr lies in host memory, and BAR2 is left alone (R389). -/
def Dev.slotPut (d : Dev) (n i : Nat) (m rec' : List Byte) : Dev :=
  if d.get Par.ringHostAddr n ≠ 0 then d
  else { d with host := { d.host with bar2 := d.host.bar2.set (fun _ => ([], [])) (d.slotNo n i) (m, rec') } }

/-- A byte of BAR2 (R386): slots, then the seal area; the rest is reserved, holds nothing and reads zero. -/
def Dev.bar2 (d : Dev) (a : Nat) : Byte :=
  let used := ((List.range 96).map (fun r => d.get Par.ringDepth r)).sum
  let slot := fun (k : Nat) => if k < used then d.host.bar2.get (fun _ => ([], [])) k else ([], [])
  if a < sealAddr 0 then (slot (a / 4096)).1.getD (a % 4096) 0
  else (slot ((a - sealAddr 0) / 32)).2.getD ((a - sealAddr 0) % 32) 0

/-- The session that holds or receives a ring (Table 17.4): its own for command and response rings, the session
parameter for capture and event rings. -/
def Dev.ringSession (d : Dev) (n : Nat) : Nat := if n < 16 then n else if n < 32 then n - 16 else d.get Par.ringSession n

/-- Put one message into a MY8640-produced ring that has room: the slot is written, then head advances (R389). The
vector is raised when everything before was consumed, or at once without coalescing; else the first unsignalled advance
is noted (R392). The ring of an Ethernet session advances its tail as the datagram leaves (R398). -/
def Dev.ringPut (d : Dev) (n : Nat) (m : List Byte) : Dev :=
  let s := d.ringSession n
  let eth := s < 16 && ((d.sess s).link == 1 || (d.sess s).link == 2)
  let wasEmpty := d.ringUsed n == 0
  let d := ((d.slotPut n (d.get Par.ringHead n) m []).inc 32 Par.ringHead n).inc 64 Par.ringMessages n
  if eth then
    let x := d.sess s
    let d := (d.inc 32 Par.ringTail n).inc 64 Par.linkTxFrames x.link
    let d := d.setSess s { x with txSeq := x.txSeq + 1 }
    { d with host := { d.host with datagrams := d.host.datagrams ++ [(s, m)] } }
  else
    let v := d.get Par.ringVector n
    let r := d.ring n
    let d := d.inc 64 Par.linkTxFrames 0
    if v ≥ 32 then d.setRing n { r with slots := r.slots ++ [m] }
    else if wasEmpty || d.get Par.ringCoalesceUs n == 0 then
      (d.setRing n { r with slots := r.slots ++ [m] }).msixRaise v
    else d.setRing n { r with slots := r.slots ++ [m], unsignalled := some (r.unsignalled.getD d.now) }

/-- Put a message into a ring, or keep it waiting while the ring is full or in FAULT (R388, R391). -/
def Dev.ringPush (d : Dev) (n : Nat) (m : List Byte) : Dev :=
  let r := d.ring n
  if d.ringFull n || d.get Par.ringState n == 2 || !r.waiting.isEmpty then d.setRing n { r with waiting := r.waiting ++ [m] }
  else d.ringPut n m

/-- Move waiting messages into freed slots, oldest first; `k` bounds the number moved. -/
def Dev.ringDrain (n : Nat) : Nat → Dev → Dev
  | 0, d => d
  | k + 1, d =>
    match (d.ring n).waiting with
    | [] => d
    | m :: rest =>
      if d.ringFull n || d.get Par.ringState n == 2 then d
      else Dev.ringDrain n k ((d.setRing n { (d.ring n) with waiting := rest }).ringPut n m)

/-- Weft port record. -/
def Dev.wport (d : Dev) (p : Nat) : WPort := d.weave.ports.get (fun _ => {}) p
/-- Store a weft port record. -/
def Dev.setWport (d : Dev) (p : Nat) (x : WPort) : Dev :=
  { d with weave := { d.weave with ports := d.weave.ports.set (fun _ => {}) p x } }

/-- Stake number of this device; 255 none. -/
def Dev.stakeNo (d : Dev) : Nat := d.weave.stake.getD 255

/-- Put a message of this stake into the weave: type, destination stake, payload (R351). A device without a number originates only
IDENT and ASSIGN (R356). -/
def Dev.weavePut (d : Dev) (kind dest : Nat) (body : List Byte) (port : Nat := 255) : Dev :=
  if d.weave.stake.isNone && kind != wkIdent && kind != wkAssign then d
  else
    let q := d.weave.seqs.get (fun _ => 0) kind
    { d with weave := { d.weave with
      seqs := d.weave.seqs.set (fun _ => 0) kind ((q + 1) % 65536)
      out := d.weave.out ++ [{ kind := kind, src := d.stakeNo, dest := dest, seq := q, port := port, bytes := body }] } }

/-- This stake holds the authority token for the present beat (R368). -/
def Dev.token (d : Dev) : Bool := d.weave.tokenCur
/-- It holds the token for the next beat (WEAVE.0/token): its frames carry AUTH (R84). -/
def Dev.tokenNext (d : Dev) : Bool := d.isOn Par.weaveToken 0
/-- The duplex pair is formed and the partner present (R367, R370). -/
def Dev.paired (d : Dev) : Bool := d.get Par.weavePairState 0 == 1
/-- The partner named by WEAVE.0/partner; 255 none. -/
def Dev.partnerNo (d : Dev) : Nat := d.get Par.weavePartner 0

/-- Send a message of a session: into its response ring, as a datagram, or as MGMT over the weave (R403). -/
def Dev.sendTo (d : Dev) (s : Nat) (m : List Byte) : Dev :=
  if s < 16 then (if (d.sess s).isOpen || (d.sess s).helloAt.isSome then d.ringPush (16 + s) m else d)
  else match (d.sess s).origin with
    | some (stake, _) => d.weavePut wkMgmt stake m
    | none => d

/-- Keep a response under R384: the last 16 of the session, further responses with their first. -/
def storeResp (xs : List Stored) (op tag ts : Nat) (m : List Byte) : List Stored :=
  match xs.find? (fun x => x.op == op && x.tag == tag && x.ts == ts) with
  | some _ => xs.map (fun x => if x.op == op && x.tag == tag && x.ts == ts then { x with resp := x.resp ++ [m] } else x)
  | none => lastN 16 (xs ++ [{ op := op, tag := tag, ts := ts, resp := [m] }])

/-- Flag bits of Table 17.1: RESPONSE and DEFERRED. -/
def flResponse : Nat := 4
/-- See `flResponse`. -/
def flDeferred : Nat := 8

/-- Answer a message (R381): the payload begins with the TS64 of registration. The response is stored (R384) and sent. -/
def Dev.respond (d : Dev) (s tag op ts status : Nat) (payload : List Byte) (deferred : Bool := false) : Dev :=
  let m := mkMsg op tag (((d.sess s).origin.map (·.2)).getD s) status (flResponse + (if deferred then flDeferred else 0)) (leBytes 8 ts ++ payload)
  let x := d.sess s
  (d.setSess s { x with stored := storeResp x.stored op tag ts m }).sendTo s m

/-- Event number of OP_OUTCOME. -/
abbrev evOpOutcome : Nat := 195

/-- Answer the outcome of an operation (R383); the outcome of an ended session is recorded as OP_OUTCOME (R377). The
response begins with the TS64 of the registration (R381); for a write its entry carries object, index and outcome. -/
def Dev.outcome (d : Dev) (o : Oper) (status : Nat) (extra : List Byte) : Dev :=
  let d := { d with host := { d.host with
      ops := d.host.ops.filter (fun x => !(x == o))
      doneOps := if o.gone then d.host.doneOps else d.host.doneOps ++ [(o.session, o.tag)] } }
  if !o.gone then
    match o.kind with
    | .commit => d.respond o.session o.tag o.op o.ts stOk
        (leBytes 4 o.obj ++ leBytes 2 o.idx ++ leBytes 2 status ++ extra)
    | .activate => d.respond o.session o.tag o.op o.ts status extra
  else d.raise evOpOutcome o.obj (o.tag % 2 ^ 32 + status % 65536 * 2 ^ 32 + o.session % 65536 * 2 ^ 48)

end Sys2Proof.Machine
end

