-- ==== Sys2Proof/Machine/Sha.lean ====
section
/-! DEFINITION. SHA-384 (FIPS 180-4), the digest of R63, R410 and R411. The constants are formed as that standard defines them, from roots of the
first primes. -/

namespace Sys2Proof.Machine

/-- 2^64. -/
def w64 : Nat := 2 ^ 64

/-- The primes up to 409, smallest first: the first 80. -/
def primes80 : List Nat :=
  ((List.range 408).map (· + 2)).foldl (fun ps n => if ps.any (fun p => n % p == 0) then ps else ps ++ [n]) []

/-- The largest number below `r + 2^k` at or above `r` whose `e`-th power does not exceed `n`, bit by bit from the top. -/
def rootFrom (e n : Nat) : Nat → Nat → Nat
  | 0, r => r
  | k + 1, r => rootFrom e n k (if (r + 2 ^ k) ^ e ≤ n then r + 2 ^ k else r)

/-- The first 64 bits of the fraction of the `e`-th root of `p`. -/
def rootFraction (e p : Nat) : Nat := rootFrom e (p * w64 ^ e) 70 0 % w64

/-- What is added in each of the 80 rounds. -/
def roundAdd : List Nat := primes80.map (rootFraction 3)

/-- The chaining value that SHA-384 starts from. -/
def chainStart : List Nat := (primes80.drop 8).take 8 |>.map (rootFraction 2)

/-- Exclusive or of a word rotated right by each of some distances. -/
def spin (x : Nat) (ns : List Nat) : Nat := (ns.map (fun n => x >>> n + x <<< (64 - n) % w64)).foldl (· ^^^ ·) 0

/-- `k` more words of the message schedule in front of those there are, newest first. -/
def schedule : Nat → List Nat → List Nat
  | 0, ws => ws
  | k + 1, ws =>
    let old := ws.getD 14 0
    let new := ws.getD 1 0
    schedule k (((spin new [19, 61] ^^^ new >>> 6) + ws.getD 6 0 + (spin old [1, 8] ^^^ old >>> 7) + ws.getD 15 0) % w64 :: ws)

/-- One round. The eight working variables are the last four values of two sequences, newest first. -/
def digestRound (v : List Nat × List Nat) (x : Nat) : List Nat × List Nat :=
  match v with
  | ([a0, a1, a2, a3], [e0, e1, e2, e3]) =>
    let t := e3 + spin e0 [14, 18, 41] + ((e0 &&& e1) ||| ((w64 - 1 ^^^ e0) &&& e2)) + x
    ([(t + spin a0 [28, 34, 39] + ((a0 &&& (a1 ||| a2)) ||| (a1 &&& a2))) % w64, a0, a1, a2], [(a3 + t) % w64, e0, e1, e2])
  | v => v

/-- The chaining value after a block of 128 bytes. -/
def digestBlock (chain : List Nat) (block : List Byte) : List Nat :=
  let first := (List.range 16).map (fun i => beAt block (8 * i) 8)
  let xs := List.zipWith (· + ·) roundAdd (schedule 64 first.reverse).reverse
  let v := xs.foldl digestRound (chain.take 4, chain.drop 4)
  List.zipWith (fun x y => (x + y) % w64) chain (v.1 ++ v.2)

/-- The chaining value after `k` blocks. -/
def digestBlocks : Nat → List Nat → List Byte → List Nat
  | 0, chain, _ => chain
  | k + 1, chain, bs => digestBlocks k (digestBlock chain bs) (bs.drop 128)

/-- SHA-384 of a byte string: 48 bytes. -/
def sha384 (bs : List Byte) : List Byte :=
  let blocks := bs.length / 128 + 1 + (if 112 ≤ bs.length % 128 then 1 else 0)
  let padded := bs ++ [0x80] ++ List.replicate (128 * blocks - 17 - bs.length) 0 ++ beBytes 16 (8 * bs.length)
  ((digestBlocks blocks chainStart padded).take 6).flatMap (beBytes 8)

end Sys2Proof.Machine
end

