-- ==== Sys2Proof/Machine/Lid.lean ====
section
/-! DEFINITION. The Lid's tally registers, measurement log and owner keys (R405, R406, R410 to R412). -/

namespace Sys2Proof.Machine

/-- Events of the group. -/
abbrev evLidUnanchored : Nat := 208
/-- See `evLidUnanchored`. -/
abbrev evLidKeyChange : Nat := 209
/-- See `evLidUnanchored`. -/
abbrev evLidRollbackAdvance : Nat := 210
/-- See `evLidUnanchored`. -/
abbrev evLidBootFallback : Nat := 211
/-- See `evLidUnanchored`. -/
abbrev evUpdManifestAccepted : Nat := 212
/-- See `evLidUnanchored`. -/
abbrev evUpdLapsed : Nat := 213
/-- See `evLidUnanchored`. -/
abbrev evUpdComplete : Nat := 214
/-- See `evLidUnanchored`. -/
abbrev evUpdActivated : Nat := 215
/-- See `evLidUnanchored`. -/
abbrev evUpdConfirmed : Nat := 216
/-- See `evLidUnanchored`. -/
abbrev evUpdTrialFailed : Nat := 217
/-- See `evLidUnanchored`. -/
abbrev evUpdReverted : Nat := 218
/-- See `evLidUnanchored`. -/
abbrev evSettingsDefaulted : Nat := 219

/-- A zeroed tally register. -/
def tally0 : List Byte := List.replicate 48 0

/-- Tally register `r`. -/
def Dev.tally (d : Dev) (r : Nat) : List Byte := d.lid.tally.get (fun _ => tally0) r

/-- Extensions of register `r` since zeroing. -/
def Dev.tallyCount (d : Dev) (r : Nat) : Nat := d.lid.counts.get (fun _ => 0) r

/-- Zero the tally registers and the measurement log (R410). -/
def Dev.tallyZero (d : Dev) : Dev :=
  let d := { d with lid := { d.lid with tally := [], counts := [], log := [] } }
  d.put Par.lidLogEntries 0 0

/-- Extend register `r` with a digest (R410): T = SHA-384(T ‖ digest), the count steps and the log gains an entry (R412). -/
def Dev.tallyExtend (d : Dev) (r : Nat) (digest : List Byte) : Dev :=
  let v := sha384 (d.tally r ++ digest)
  let c := (d.tallyCount r + 1) % 2 ^ 32
  let e : MeasLog := { reg := r, count := c, ts := d.now, digest := digest, value := v }
  let d := { d with lid := { d.lid with
      tally := d.lid.tally.set (fun _ => tally0) r v
      counts := d.lid.counts.set (fun _ => 0) r c
      log := lastN 1024 (d.lid.log ++ [e]) } }
  d.inc 32 Par.lidLogEntries 0

/-- The 128 bytes of a log entry (R412). -/
def MeasLog.bytes (e : MeasLog) : List Byte :=
  leBytes 1 e.reg ++ leBytes 3 0 ++ leBytes 4 e.count ++ leBytes 8 e.ts ++ slice e.digest 0 48 ++ slice e.value 0 48 ++ leBytes 16 0

/-- Owner key slot: usage and public key (R406). -/
def Dev.keySlot (d : Dev) (s : Nat) : Nat × List Byte := d.lid.keys.get (fun _ => (0, [])) s

/-- Some slot holds a key with UPDATE (R406). -/
def Dev.anchored (d : Dev) : Bool := (List.range 4).any (fun s => bit (d.keySlot s).1 0)

/-- Some slot holds a key with ACCESS (R407). -/
def Dev.accessKeys (d : Dev) : List (List Byte) := (List.range 4).filterMap (fun s => if bit (d.keySlot s).1 1 then some (d.keySlot s).2 else none)

/-- A signature over a digest by the key of slot `s`, which must have UPDATE. -/
def Dev.ownerSigned (d : Dev) (s : Nat) (digest sig : List Byte) : Bool :=
  decide (s < 4) && bit (d.keySlot s).1 0 && Config.ecdsaVerify (d.keySlot s).2 digest sig

/-- The key-state record of Table 18.10. -/
def Dev.keyState (d : Dev) : List Byte :=
  (List.range 4).flatMap (fun s => leBytes 1 (d.keySlot s).1 ++ leBytes 7 0 ++ slice (d.keySlot s).2 0 97 ++ leBytes 7 0)
    ++ leBytes 2 d.lid.fuses ++ leBytes 4 d.lid.epoch ++ leBytes 2 0

/-- Extend register 7 with the key state (Table 18.3). -/
def Dev.tallyKeys (d : Dev) : Dev := d.tallyExtend 7 (sha384 d.keyState)

/-- First 8 bytes of a SHA-384, as the fingerprints of R420 and key_fp read them: a number, least significant byte first (log entry 33). -/
def fingerprint (bs : List Byte) : Nat := leNat (slice (sha384 bs) 0 8)

/-- Modular order of two sequence numbers (R296): `a` is higher than `b`. -/
def seqHigher (a b : Nat) : Bool :=
  let x := (a + 2 ^ 32 - b % 2 ^ 32) % 2 ^ 32
  decide (1 ≤ x ∧ x < 2 ^ 31)

/-- The governing copy of two records that alternate (R296, R416). -/
def governing {α : Type} (seq : α → Nat) : Option α → Option α → Option α
  | some a, some b => if seqHigher (seq a) (seq b) then some a else some b
  | some a, none => some a
  | none, y => y

/-- The governing boot record; without one, slot A is active (R426). -/
def Dev.bootRec (d : Dev) : BootRec :=
  (governing (·.seq) (d.lid.boot.get (fun _ => none) 0) (d.lid.boot.get (fun _ => none) 1)).getD {}

/-- Write a boot record: one copy, seq one above (R416). -/
def Dev.bootWrite (d : Dev) (r : BootRec) : Dev :=
  let n := (d.bootRec.seq + 1) % 2 ^ 32
  { d with lid := { d.lid with boot := d.lid.boot.set (fun _ => none) (n % 2) (some { r with seq := n }) } }

/-- The governing ownership record (R416). -/
def Dev.ownRec (d : Dev) : OwnRec :=
  (governing (·.seq) (d.lid.own.get (fun _ => none) 0) (d.lid.own.get (fun _ => none) 1)).getD {}

/-- Write an ownership record. -/
def Dev.ownWrite (d : Dev) (r : OwnRec) : Dev :=
  let n := (d.ownRec.seq + 1) % 2 ^ 32
  { d with lid := { d.lid with own := d.lid.own.set (fun _ => none) (n % 2) (some { r with seq := n }) } }

end Sys2Proof.Machine
end

