-- ==== Sys2Proof/Machine/Float.lean ====
section
/-! DEFINITION. IEEE 754 binary32 and binary64 arithmetic with round-to-nearest-even, on exact dyadic values: the
arithmetic of R67, R120, R124, R126, R164, R184, R194, R226 and R265. A result that is NaN is 0x7FC0_0000 (R164).
Subnormals are kept and nothing traps. -/

namespace Sys2Proof.Machine

/-- An unpacked floating-point value: (−1)^neg × m × 2^e. -/
inductive Fl where
  | nan
  | inf (neg : Bool)
  | fin (neg : Bool) (m : Nat) (e : Int)
deriving DecidableEq, Repr

/-- Exponent of the least significant bit of the smallest values of a format of precision `p` and `w` exponent bits. -/
def qmin (p w : Nat) : Int := 3 - 2 ^ (w - 1) - p

/-- Unpack the bits of a format. -/
def unpack (p w b : Nat) : Fl :=
  let frac := b % 2 ^ (p - 1)
  let ex := b / 2 ^ (p - 1) % 2 ^ w
  let neg := b / 2 ^ (p - 1 + w) % 2 == 1
  if ex = 2 ^ w - 1 then (if frac = 0 then .inf neg else .nan)
  else if ex = 0 then .fin neg frac (qmin p w)
  else .fin neg (frac + 2 ^ (p - 1)) (qmin p w + ex - 1)

/-- The bits of ±infinity. -/
def infBits (p w : Nat) (neg : Bool) : Nat := b2n neg * 2 ^ (p - 1 + w) + (2 ^ w - 1) * 2 ^ (p - 1)
where b2n (b : Bool) : Nat := if b then 1 else 0

/-- The quiet NaN of a format (0x7FC0_0000 in binary32). -/
def nanBits (p w : Nat) : Nat := (2 ^ w - 1) * 2 ^ (p - 1) + 2 ^ (p - 2)

/-- Pack a magnitude `r × 2^q`, `r ≤ 2^p`, normalised or at the least exponent. -/
def packMag (p w : Nat) (neg : Bool) (r : Nat) (q : Int) : Nat :=
  let mag := r + (q - qmin p w).toNat * 2 ^ (p - 1)
  if mag ≥ (2 ^ w - 1) * 2 ^ (p - 1) then infBits p w neg
  else (if neg then 2 ^ (p - 1 + w) else 0) + mag

/-- Round `(−1)^neg × m × 2^e` to nearest, ties to even; `sticky` says that the exact magnitude lies strictly between `m`
and `m + 1` units of `2^e`. -/
def roundPack (p w : Nat) (neg : Bool) (m : Nat) (e : Int) (sticky : Bool) : Nat :=
  if m = 0 then (if neg then 2 ^ (p - 1 + w) else 0)
  else
    let l : Int := Nat.log2 m + 1
    let q := max (e + l - p) (qmin p w)
    let sh := q - e
    if sh ≤ 0 then packMag p w neg (m * 2 ^ (-sh).toNat) q
    else
      let s := sh.toNat
      let r := m / 2 ^ s
      let rem := m % 2 ^ s
      let half := 2 ^ (s - 1)
      let up := decide (rem > half) || (rem == half && (sticky || r % 2 == 1))
      packMag p w neg (if up then r + 1 else r) q

/-- Pack any unpacked value, rounding once. -/
def packFl (p w : Nat) : Fl → Nat
  | .nan => nanBits p w
  | .inf n => infBits p w n
  | .fin n m e => roundPack p w n m e false

/-- The signed integer of a sign and a magnitude. -/
def signed (neg : Bool) (m : Nat) : Int := if neg then -(m : Int) else m

/-- Exact sum of two unpacked values. -/
def flAdd : Fl → Fl → Fl
  | .nan, _ => .nan
  | _, .nan => .nan
  | .inf a, .inf b => if a = b then .inf a else .nan
  | .inf a, _ => .inf a
  | _, .inf b => .inf b
  | .fin a m e, .fin b n f =>
    let g := min e f
    let z := signed a m * 2 ^ (e - g).toNat + signed b n * 2 ^ (f - g).toNat
    if z = 0 then .fin (a && b) 0 g else .fin (decide (z < 0)) z.natAbs g

/-- Negation. -/
def flNeg : Fl → Fl
  | .nan => .nan
  | .inf a => .inf (!a)
  | .fin a m e => .fin (!a) m e

/-- Magnitude. -/
def flAbs : Fl → Fl
  | .nan => .nan
  | .inf _ => .inf false
  | .fin _ m e => .fin false m e

/-- Exact product of two unpacked values. -/
def flMul : Fl → Fl → Fl
  | .nan, _ => .nan
  | _, .nan => .nan
  | .inf a, .inf b => .inf (a != b)
  | .inf a, .fin b n _ => if n = 0 then .nan else .inf (a != b)
  | .fin a m _, .inf b => if m = 0 then .nan else .inf (a != b)
  | .fin a m e, .fin b n f => .fin (a != b) (m * n) (e + f)

/-- Quotient of two unpacked values, rounded once to the format. -/
def flDiv (p w : Nat) : Fl → Fl → Nat
  | .nan, _ => nanBits p w
  | _, .nan => nanBits p w
  | .inf _, .inf _ => nanBits p w
  | .inf a, .fin b _ _ => infBits p w (a != b)
  | .fin a _ _, .inf b => roundPack p w (a != b) 0 0 false
  | .fin a m e, .fin b n f =>
    if n = 0 then (if m = 0 then nanBits p w else infBits p w (a != b))
    else
      let k := p + 3 + Nat.log2 n
      let num := m * 2 ^ k
      roundPack p w (a != b) (num / n) (e - f - k) (num % n != 0)

/-- Integer square root by bits from `2^k` down. -/
def isqrtFrom : Nat → Nat → Nat → Nat
  | 0, _, r => r
  | k + 1, n, r => let c := r + 2 ^ k; isqrtFrom k n (if c * c ≤ n then c else r)

/-- Integer square root. -/
def isqrt (n : Nat) : Nat := isqrtFrom (Nat.log2 n / 2 + 1) n 0

/-- Correctly rounded square root. -/
def flSqrt (p w : Nat) : Fl → Nat
  | .nan => nanBits p w
  | .inf a => if a then nanBits p w else infBits p w false
  | .fin a m e =>
    if m = 0 then roundPack p w a 0 0 false
    else if a then nanBits p w
    else
      let k0 := 2 * p + 6
      let k := if (e - k0) % 2 = 0 then k0 else k0 + 1
      let n := m * 2 ^ k
      let r := isqrt n
      roundPack p w false r ((e - k) / 2) (r * r != n)

/-- Order of two values; none when either is NaN. −0 equals +0. -/
def flCmp : Fl → Fl → Option Ordering
  | .nan, _ => none
  | _, .nan => none
  | .inf a, .inf b => some (if a = b then .eq else if a then .lt else .gt)
  | .inf a, _ => some (if a then .lt else .gt)
  | _, .inf b => some (if b then .gt else .lt)
  | .fin a m e, .fin b n f =>
    let g := min e f
    some (compare (signed a m * 2 ^ (e - g).toNat) (signed b n * 2 ^ (f - g).toNat))

/-- Nearest integer, ties to even, of a finite value; 0 otherwise. -/
def flRound : Fl → Int
  | .fin a m e =>
    if 0 ≤ e then signed a (m * 2 ^ e.toNat)
    else
      let s := (-e).toNat
      let r := m / 2 ^ s
      let rem := m % 2 ^ s
      let half := 2 ^ (s - 1)
      signed a (if rem > half || (rem == half && r % 2 == 1) then r + 1 else r)
  | _ => 0

/-- Largest integer at or below a finite value; 0 otherwise. -/
def flFloor : Fl → Int
  | .fin a m e =>
    if 0 ≤ e then signed a (m * 2 ^ e.toNat) else signed a m / 2 ^ (-e).toNat
  | _ => 0

/-- The rational num / den rounded once to the format. -/
def ratPack (p w : Nat) (num : Int) (den : Nat) : Nat :=
  flDiv p w (.fin (decide (num < 0)) num.natAbs 0) (.fin false den 0)

/-! ## binary32 -/

/-- Unpack binary32. -/
def f32u (a : F32) : Fl := unpack 24 8 a.toNat
/-- Pack binary32. -/
def f32p (x : Fl) : F32 := BitVec.ofNat 32 (packFl 24 8 x)
/-- binary32 sum. -/
def fadd (a b : F32) : F32 := f32p (flAdd (f32u a) (f32u b))
/-- binary32 difference. -/
def fsub (a b : F32) : F32 := f32p (flAdd (f32u a) (flNeg (f32u b)))
/-- binary32 product. -/
def fmul (a b : F32) : F32 := f32p (flMul (f32u a) (f32u b))
/-- binary32 fusedMultiplyAdd a × b + c, rounded once (R164). -/
def ffma (a b c : F32) : F32 := f32p (flAdd (flMul (f32u a) (f32u b)) (f32u c))
/-- binary32 quotient. -/
def fdiv (a b : F32) : F32 := BitVec.ofNat 32 (flDiv 24 8 (f32u a) (f32u b))
/-- binary32 square root. -/
def fsqrt (a : F32) : F32 := BitVec.ofNat 32 (flSqrt 24 8 (f32u a))
/-- binary32 negation. -/
def fneg (a : F32) : F32 := f32p (flNeg (f32u a))
/-- binary32 magnitude. -/
def fabs (a : F32) : F32 := f32p (flAbs (f32u a))
/-- a < b; false when either is NaN. -/
def flt (a b : F32) : Bool := flCmp (f32u a) (f32u b) == some .lt
/-- a ≤ b; false when either is NaN. -/
def fle (a b : F32) : Bool := flt a b || flCmp (f32u a) (f32u b) == some .eq
/-- a = b as values. -/
def feq (a b : F32) : Bool := flCmp (f32u a) (f32u b) == some .eq
/-- Neither infinite nor NaN. -/
def ffinite (a : F32) : Bool := match f32u a with | .fin _ _ _ => true | _ => false
/-- NaN. -/
def fisNaN (a : F32) : Bool := f32u a == .nan
/-- The larger of two values. -/
def fmax (a b : F32) : F32 := if flt a b then b else a
/-- The smaller of two values. -/
def fmin (a b : F32) : F32 := if flt b a then b else a
/-- Clamp to lo..hi. -/
def fclamp (lo hi a : F32) : F32 := if flt a lo then lo else if flt hi a then hi else a
/-- binary32 of an integer. -/
def fint (z : Int) : F32 := BitVec.ofNat 32 (ratPack 24 8 z 1)
/-- binary32 of num / den. -/
def frat (num : Int) (den : Nat) : F32 := BitVec.ofNat 32 (ratPack 24 8 num den)
/-- Nearest integer of a binary32. -/
def fround (a : F32) : Int := flRound (f32u a)
/-- Floor of a binary32. -/
def ffloor (a : F32) : Int := flFloor (f32u a)
/-- +0.0 -/
def f0 : F32 := 0x00000000
/-- 1.0 -/
def f1 : F32 := 0x3F800000
/-- The NaN of R164. -/
def fNaN : F32 := 0x7FC00000

/-! ## binary64 -/

/-- Unpack binary64. -/
def f64u (a : F64) : Fl := unpack 53 11 a.toNat
/-- Pack binary64. -/
def f64p (x : Fl) : F64 := BitVec.ofNat 64 (packFl 53 11 x)
/-- binary64 sum. -/
def dadd (a b : F64) : F64 := f64p (flAdd (f64u a) (f64u b))
/-- binary64 difference. -/
def dsub (a b : F64) : F64 := f64p (flAdd (f64u a) (flNeg (f64u b)))
/-- binary64 product. -/
def dmul (a b : F64) : F64 := f64p (flMul (f64u a) (f64u b))
/-- binary64 quotient. -/
def ddiv (a b : F64) : F64 := BitVec.ofNat 64 (flDiv 53 11 (f64u a) (f64u b))
/-- binary64 square root. -/
def dsqrt (a : F64) : F64 := BitVec.ofNat 64 (flSqrt 53 11 (f64u a))
/-- binary64 negation. -/
def dneg (a : F64) : F64 := f64p (flNeg (f64u a))
/-- binary64 magnitude. -/
def dabs (a : F64) : F64 := f64p (flAbs (f64u a))
/-- a < b. -/
def dlt (a b : F64) : Bool := flCmp (f64u a) (f64u b) == some .lt
/-- a ≤ b. -/
def dle (a b : F64) : Bool := dlt a b || flCmp (f64u a) (f64u b) == some .eq
/-- The larger. -/
def dmax (a b : F64) : F64 := if dlt a b then b else a
/-- The smaller. -/
def dmin (a b : F64) : F64 := if dlt b a then b else a
/-- binary64 of an integer. -/
def dint (z : Int) : F64 := BitVec.ofNat 64 (ratPack 53 11 z 1)
/-- binary64 of num / den. -/
def drat (num : Int) (den : Nat) : F64 := BitVec.ofNat 64 (ratPack 53 11 num den)
/-- A binary32 value in binary64, exactly. -/
def dof (a : F32) : F64 := f64p (f32u a)
/-- A binary64 value rounded once to binary32. -/
def fofd (a : F64) : F32 := f32p (f64u a)
/-- Nearest integer of a binary64, ties to even. -/
def dround (a : F64) : Int := flRound (f64u a)
/-- Ceiling of a binary64. -/
def dceil (a : F64) : Int := -flFloor (flNeg (f64u a))
/-- Neither infinite nor NaN. -/
def dfinite (a : F64) : Bool := match f64u a with | .fin _ _ _ => true | _ => false
/-- +0.0 in binary64. -/
def d0 : F64 := 0

/-- One step of an ACC64 chain (R164): the exact product of two binary32 operands and a binary64 accumulator, rounded
once to binary64. -/
def dfma32 (a b : F32) (c : F64) : F64 := f64p (flAdd (flMul (f32u a) (f32u b)) (f64u c))

/-! ## Angles (R184): evaluated far beyond binary64, rounded to binary64 and once more to binary32, then moved by the unit
in the last place that R184 leaves open. -/

/-- floor(π × 2^400). -/
def piFix : Nat :=
  8112377246730971238862271351300894519161151600179265203591191037615230905373990498745523360926816815427566779727327576236

/-- π in binary64. -/
def piD : F64 := BitVec.ofNat 64 (roundPack 53 11 false piFix (-400) true)

/-- Working precision of the series, in bits. -/
def tp : Nat := 200

/-- An exact value as an integer multiple of 2^-s, truncated. -/
def fixOf (s : Nat) (neg : Bool) (m : Nat) (e : Int) : Int :=
  let k := e + s
  signed neg (if 0 ≤ k then m * 2 ^ k.toNat else m / 2 ^ (-k).toNat)

/-- Sum of the Taylor terms of sine or cosine: `t` is the present term, `i` its index. -/
def trigSeries : Nat → Int → Int → Nat → Int → Int
  | 0, _, _, _, acc => acc
  | k + 1, x2, t, i, acc => trigSeries k x2 (-(t * x2 / 2 ^ tp) / ((i + 1 : Nat) * (i + 2 : Nat) : Int)) (i + 2) (acc + t)

/-- The angle of an exact value reduced to [0, 2π), in units of 2^-tp. -/
def reduce2pi (neg : Bool) (m : Nat) (e : Int) : Int :=
  (fixOf 400 neg m e % (2 * piFix : Nat)) / 2 ^ (400 - tp)

/-- Sine of a reduced angle, in units of 2^-tp. -/
def sinFix (x : Int) : Int := trigSeries 60 (x * x / 2 ^ tp) x 1 0
/-- Cosine of a reduced angle, in units of 2^-tp. -/
def cosFix (x : Int) : Int := trigSeries 60 (x * x / 2 ^ tp) (2 ^ tp) 0 0

/-- Round a fixed-point value to binary64 and then once to binary32. -/
def fixTo32 (z : Int) (s : Nat) : F32 :=
  fofd (BitVec.ofNat 64 (roundPack 53 11 (decide (z < 0)) z.natAbs (-(s : Int)) true))

/-- Move a finite nonzero value by the open unit in the last place of R184. -/
def ulpMove (c : Fin 3) (a : F32) : F32 :=
  if ffinite a && !(feq a f0) then (if c = 1 then a + 1 else if c = 2 then a - 1 else a) else a

/-- Correctly rounded sine before the open unit in the last place. -/
def sinCore : Fl → F32
  | .fin neg m e =>
    if m = 0 || decide ((Nat.log2 m : Int) + e < -40) then f32p (.fin neg m e)
    else fixTo32 (sinFix (reduce2pi neg m e)) tp
  | _ => fNaN

/-- Correctly rounded cosine before the open unit in the last place. -/
def cosCore : Fl → F32
  | .fin neg m e => fixTo32 (cosFix (reduce2pi neg m e)) tp
  | _ => fNaN

/-- sin of a binary64 angle, as R184 evaluates it. -/
def sinD (a : F64) : F32 := ulpMove (Config.trigUlp 0 (fofd a) 0) (sinCore (f64u a))
/-- cos of a binary64 angle. -/
def cosD (a : F64) : F32 := ulpMove (Config.trigUlp 1 (fofd a) 0) (cosCore (f64u a))
/-- sin of a binary32 angle. -/
def fsin (a : F32) : F32 := sinD (dof a)
/-- cos of a binary32 angle. -/
def fcos (a : F32) : F32 := cosD (dof a)

/-- tan of a binary64 angle (R192). -/
def tanD (a : F64) : F32 :=
  match f64u a with
  | .fin neg m e =>
    let x := reduce2pi neg m e
    let c := cosFix x
    let s := sinFix x
    let t := if c = 0 then 0 else s * 2 ^ tp / c
    ulpMove (Config.trigUlp 2 (fofd a) 0)
      (if m = 0 || decide ((Nat.log2 m : Int) + e < -40) then f32p (.fin neg m e) else fixTo32 t tp)
  | _ => fNaN

/-- One argument halving of the arctangent: t / (1 + √(1 + t²)), in units of 2^-tp. -/
def atanHalf (t : Nat) : Nat :=
  let one := 2 ^ tp
  t * one / (one + isqrt (one * one + t * t))

/-- Taylor terms of the arctangent of a small argument. -/
def atanSeries : Nat → Int → Int → Nat → Int → Int
  | 0, _, _, _, acc => acc
  | k + 1, t2, t, i, acc => atanSeries k t2 (-(t * t2 / 2 ^ tp)) (i + 2) (acc + t / (i : Int))

/-- atan of `n/d` for naturals with d > 0, in units of 2^-tp. -/
def atanFix (n d : Nat) : Int :=
  let half : Int := (piFix / 2 ^ (401 - tp) : Nat)
  let core (t : Nat) : Int :=
    let h := atanHalf (atanHalf t)
    4 * atanSeries 90 ((h * h / 2 ^ tp : Nat) : Int) h 1 0
  if n ≤ d then core (n * 2 ^ tp / d) else half - core (d * 2 ^ tp / n)

/-- atan2 before the open unit in the last place, in units of 2^-tp, for finite operands not both zero. -/
def atan2Fix (yn : Bool) (ym : Nat) (ye : Int) (xn : Bool) (xm : Nat) (xe : Int) : Int :=
  let g := min ye xe
  let y := ym * 2 ^ (ye - g).toNat
  let x := xm * 2 ^ (xe - g).toNat
  let pi : Int := (piFix / 2 ^ (400 - tp) : Nat)
  let a := if x = 0 then pi / 2 else atanFix y x
  let a := if xn then pi - a else a
  if yn then -a else a

/-- atan2 of two binary32 values in (−π, π] (R184). -/
def fatan2 (y x : F32) : F32 :=
  match f32u y, f32u x with
  | .fin yn ym ye, .fin xn xm xe =>
    if ym = 0 then (if xn then (if yn then fneg (fofd piD) else fofd piD) else y)
    else
      let tiny := !xn && xm != 0 && decide ((Nat.log2 ym : Int) + ye + 40 < (Nat.log2 xm : Int) + xe)
      ulpMove (Config.trigUlp 3 y x)
        (if tiny then fofd (BitVec.ofNat 64 (flDiv 53 11 (.fin yn ym ye) (.fin false xm xe)))
         else fixTo32 (atan2Fix yn ym ye xn xm xe) tp)
  | _, _ => fNaN

/-- wrap() of R184: an angle mapped to (−π, π], computed on the exact value and rounded to binary64. -/
def wrapD (a : F64) : F64 :=
  match f64u a with
  | .fin neg m e =>
    let z := fixOf 400 neg m e
    let r := z % (2 * piFix : Nat)
    if decide (-(piFix : Int) < z) && decide (z ≤ piFix) then a
    else
      let r := if r > piFix then r - (2 * piFix : Nat) else r
      BitVec.ofNat 64 (roundPack 53 11 (decide (r < 0)) r.natAbs (-400) false)
  | _ => BitVec.ofNat 64 (nanBits 53 11)

/-- wrap() on a binary32 angle, result rounded to binary32. -/
def fwrap (a : F32) : F32 := fofd (wrapD (dof a))

/-- 2π rounded to binary32. -/
def twoPi : F32 := BitVec.ofNat 32 (roundPack 24 8 false (2 * piFix) (-400) true)

/-! ## binary64 elementary functions (R212) -/

/-- Move a finite nonzero binary64 value by the unit in the last place that the spec leaves open (log entry 3). -/
def ulpMove64 (c : Fin 3) (a : F64) : F64 :=
  if dfinite a && a != 0 then (if c = 1 then a + 1 else if c = 2 then a - 1 else a) else a

/-- cos and sin of 2π × num / den as binary64, for naturals. -/
def cisD (num den : Nat) : F64 × F64 :=
  let x : Int := (2 * piFix * (num % den) / den / 2 ^ (400 - tp) : Nat)
  let r := fun (z : Int) => BitVec.ofNat 64 (roundPack 53 11 (decide (z < 0)) z.natAbs (-(tp : Int)) true)
  (ulpMove64 (Config.trigUlp 4 (BitVec.ofNat 32 num) (BitVec.ofNat 32 den)) (r (cosFix x)),
   ulpMove64 (Config.trigUlp 5 (BitVec.ofNat 32 num) (BitVec.ofNat 32 den)) (r (sinFix x)))

/-- Angle of a complex binary64 value in degrees within (−180, 180], rounded to binary32 (R212). -/
def datan2Deg (y x : F64) : F32 :=
  match f64u y, f64u x with
  | .fin yn ym ye, .fin xn xm xe =>
    if ym = 0 then (if xn && xm != 0 then fint 180 else f0)
    else
      let z := atan2Fix yn ym ye xn xm xe
      let deg := z * 180 * 2 ^ (400 - tp) * 2 ^ 80 / (piFix : Int)
      ulpMove (Config.trigUlp 6 (fofd y) (fofd x)) (fixTo32 deg 80)
  | _, _ => fNaN

/-- Degrees to radians, multiplied by π and divided by 180 in binary64. -/
def radOf (deg : F32) : F64 := ddiv (dmul (dof deg) piD) (dint 180)

end Sys2Proof.Machine
end

