-- ==== Sys2Proof/Machine/Tables.lean ====
section
/-! DEFINITION. The three table sets (ch. 3): images as bytes, the default mode table of R203 and the default descriptors,
fields of images read through parameters (R76, R180), curve evaluation (R67), and the live value of a parameter. -/

namespace Sys2Proof.Machine

/-- The table sets: curve store, mode table, descriptors. -/
abbrev tsCurve : Nat := 0
/-- See `tsCurve`. -/
abbrev tsMode : Nat := 1
/-- See `tsCurve`. -/
abbrev tsCtx : Nat := 2

/-- Image size in bytes (R63, Table 3.5, R158). -/
def imgSize (k : Nat) : Nat := if k = 0 then 65536 else if k = 1 then 28736 else 516096

/-- Default states of Table 8.4: kind, flags, ctx_mask_lo, entry action, argument. -/
def defaultStates : List (Nat × Nat × Nat × Nat × Nat) :=
  [(0, 0x00, 0x400, 3, 0), (1, 0x02, 0x1FFFC0C00, 3, 1), (2, 0x00, 0, 3, 2), (3, 0x03, 0x1FFFFFFFF, 3, 3),
   (4, 0x0F, 0x1FFFFFFFF, 3, 4), (5, 0x0F, 0x1FFFFFFFF, 3, 5), (6, 0x0B, 0x1FFFFFFFF, 2, 0), (7, 0x00, 0x400, 3, 7),
   (8, 0x00, 0x400, 2, 1), (9, 0x00, 0x400, 3, 9)]

/-- Default watches of Table 8.5, all on GRID.0: parameter index, comparator, threshold. -/
def defaultWatches : List (Nat × Nat × F32) :=
  [(54, 3, frat 95 100), (46, 3, frat 85 100), (63, 4, f1), (63, 4, fint 3), (63, 4, f0), (64, 4, fint 5),
   (54, 0, frat 80 100)]

/-- A COMMAND term (R70). -/
def tC (n : Nat) : Nat := 4 + n * 65536
/-- A WATCH term. -/
def tW (n : Nat) : Nat := 2 + n * 65536
/-- An EVENT term. -/
def tE (n : Nat) : Nat := 1 + n * 65536
/-- A DWELL term. -/
def tD (n : Nat) : Nat := 3 + n * 65536

/-- Default transitions of Table 8.7: state, slot, terms, target, action, argument. -/
def defaultTransitions : List (Nat × Nat × List Nat × Nat × Nat × Nat) :=
  [(0, 0, [tC 1], 1, 0, 0), (0, 1, [tC 6], 2, 0, 0),
   (1, 0, [tW 0, tW 1], 3, 0, 0), (1, 1, [tC 5], 0, 0, 0), (1, 2, [tD 60000], 8, 1, 25),
   (2, 0, [tC 1], 1, 0, 0), (2, 1, [tC 5], 0, 0, 0),
   (3, 0, [tW 6], 8, 0, 0), (3, 1, [tC 3], 4, 0, 0), (3, 2, [tC 4], 5, 0, 0), (3, 3, [tC 5], 0, 0, 0)] ++
  [(4, 0, [tW 2], 6, 0, 0), (4, 1, [tE 96], 8, 0, 0), (4, 2, [tW 6], 8, 0, 0), (4, 3, [tC 4], 5, 0, 0),
   (4, 4, [tC 2], 3, 0, 0),
   (5, 0, [tW 2], 6, 0, 0), (5, 1, [tE 96], 8, 0, 0), (5, 2, [tW 6], 8, 0, 0), (5, 3, [tC 3], 4, 0, 0),
   (5, 4, [tC 2], 3, 0, 0)] ++
  [(6, 0, [tW 3], 8, 3, 6), (6, 1, [tE 96], 8, 0, 0), (6, 2, [tW 4, tW 5], 5, 3, 6), (6, 3, [tW 4], 4, 3, 6),
   (7, 0, [tC 5, tW 1], 0, 0, 0), (8, 0, [tC 7, tD 1000], 0, 0, 0), (9, 0, [tC 7, tD 1000], 0, 0, 0)]

/-- Byte `o` of a number written little-endian. -/
def byteOf (n o : Nat) : Byte := BitVec.ofNat 8 (n / 256 ^ o)

/-- Byte of the default mode table (R203) at an image offset (Table 3.5). -/
def modeDefault (a : Nat) : Byte :=
  if a = 0 then 2
  else if a < 0x40 then 0
  else if a < 0x840 then
    let o := (a - 0x40) % 32
    match defaultStates[(a - 0x40) / 32]? with
    | none => if o = 0 then 0xFF else 0
    | some (k, f, m, e, g) =>
      if o = 0 then byteOf k 0 else if o = 1 then byteOf f 0 else if o = 2 then byteOf e 0
      else if 4 ≤ o ∧ o < 8 then byteOf g (o - 4) else if 8 ≤ o ∧ o < 16 then byteOf m (o - 8) else 0
  else if a < 0x1040 then
    let o := (a - 0x840) % 16
    match defaultWatches[(a - 0x840) / 16]? with
    | none => 0
    | some (i, c, v) =>
      if o < 4 then byteOf 0x21000000 o else if o < 6 then byteOf i (o - 4) else if o = 6 then byteOf c 0
      else if 8 ≤ o ∧ o < 12 then byteOf v.toNat (o - 8) else 0
  else
    let o := (a - 0x1040) % 24
    let q := (a - 0x1040) / 24
    match defaultTransitions.find? (fun t => t.1 == q / 16 && t.2.1 == q % 16) with
    | none => 0
    | some (_, _, ts, tgt, act, arg) =>
      if o = 0 then 1 else if o = 1 then byteOf tgt 0 else if o = 2 then byteOf act 0 else if o = 3 then 0
      else if o < 20 then byteOf (ts.getD ((o - 4) / 4) 0) ((o - 4) % 4) else byteOf arg (o - 20)

/-- Byte of the default descriptors: every context stopped (R64), with the defaults of Table 7.8. -/
def ctxDefault (a : Nat) : Byte :=
  let o := a % 4032
  if o = 4 then 1 else if o = 7 then 128 else if o = 8 then 3 else 0

/-- What an unlisted byte of an image reads as. -/
def imgDefault (k a : Nat) : Byte := if k = 1 then modeDefault a else if k = 2 then ctxDefault a else 0

/-- The record of a table set. -/
def Dev.tset (d : Dev) (k : Nat) : TblSet := d.tsets.get (fun _ => {}) k
/-- Store the record of a table set. -/
def Dev.setTset (d : Dev) (k : Nat) (x : TblSet) : Dev := { d with tsets := d.tsets.set (fun _ => {}) k x }

/-- A copy of an image. -/
def TblSet.copy (x : TblSet) (shadow : Bool) : Tab Byte := if shadow then x.shadow else x.active

/-- `n` bytes of an image. -/
def Dev.img (d : Dev) (k : Nat) (shadow : Bool) (a n : Nat) : List Byte :=
  ((d.tset k).copy shadow).getList (imgDefault k) a n
/-- Little-endian field of an image. -/
def Dev.imgN (d : Dev) (k : Nat) (shadow : Bool) (a n : Nat) : Nat := leNat (d.img k shadow a n)
/-- binary32 field of an image. -/
def Dev.imgF (d : Dev) (k : Nat) (shadow : Bool) (a : Nat) : F32 := BitVec.ofNat 32 (d.imgN k shadow a 4)
/-- The bits of an image byte that are not reserved (R11, Tables 3.3, 3.5, 7.1, 7.2, 7.4; R68 to R70). The reserved bits of a curve header stand
wherever the directory puts one: see `Dev.headMask`. -/
def imgMask (k a : Nat) : Nat :=
  if k = 0 then (if a < 512 ∧ a % 2 = 1 then 0x1F else 0xFF)
  else if k = 1 then
    if a < 0x40 then (if a = 0 then 0xFF else 0)
    else if a < 0x840 then
      let o := (a - 0x40) % 32
      if o = 1 then 0x0F else if o = 3 ∨ 24 ≤ o then 0 else 0xFF
    else if a < 0x1040 then
      let o := (a - 0x840) % 16
      if o = 7 ∨ 12 ≤ o then 0 else 0xFF
    else
      let o := (a - 0x1040) % 24
      if o = 0 ∨ o = 5 ∨ o = 9 ∨ o = 13 ∨ o = 17 then 1 else 0xFF
  else
    let o := a % 4032
    if o = 3 then 0x0F
    else if o = 9 ∨ (0xC ≤ o ∧ o < 0x10) ∨ (0x20 ≤ o ∧ o < 0x40) then 0
    else if 0x40 ≤ o ∧ o < 0x100 then (if (o - 0x40) % 12 = 7 then 1 else 0xFF)
    else if 0x100 ≤ o ∧ o < 0x1C0 then
      let q := (o - 0x100) % 24
      if q = 7 then 1 else if 21 ≤ q then 0 else 0xFF
    else 0xFF

/-- Bytes for an image from offset `a`, without their reserved bits (R11). -/
def imgClean (k : Nat) : Nat → List Byte → List Byte
  | _, [] => []
  | a, b :: bs => (b &&& BitVec.ofNat 8 (imgMask k a)) :: imgClean k (a + 1) bs

/-- Write bytes into a shadow image (R58); reserved bits are ignored (R11). -/
def Dev.shadowWrite (d : Dev) (k a : Nat) (bs : List Byte) : Dev :=
  let x := d.tset k
  d.setTset k { x with shadow := x.shadow.setList (imgDefault k) a (imgClean k a bs) }
/-- The whole image, for its digest (R63). -/
def Dev.imgAll (d : Dev) (k : Nat) (shadow : Bool) : List Byte := d.img k shadow 0 (imgSize k)

/-! ## Fields of images read and written as parameters (R76, R180) -/

/-- Directory word of a curve. -/
def Dev.curveDir (d : Dev) (shadow : Bool) (n : Nat) : Nat := d.imgN tsCurve shadow (2 * n) 2 % 8192

/-- Entries at which a copy of the curve store holds a header (R65). -/
def Dev.heads (d : Dev) (shadow : Bool) : List Nat := ((List.range 256).map (d.curveDir shadow)).filter (fun h => decide (64 ≤ h))

/-- The bits of a byte of the curve store that are not the reserved bits of one of the headers `hs` (Table 3.4). -/
def headMask (hs : List Nat) (a : Nat) : Nat :=
  if hs.contains (a / 8) then (if a % 8 = 0 then 0xFF else if a % 8 = 1 then 0x3F else 0) else 0xFF

/-- Bytes of an image as a host reads them: reserved bits read zero (R11). -/
def Dev.imgRead (d : Dev) (k : Nat) (shadow : Bool) (a n : Nat) : List Byte :=
  let bs := d.img k shadow a n
  if k = tsCurve then
    let hs := d.heads shadow
    (indexed bs).map (fun p => p.2 &&& BitVec.ofNat 8 (headMask hs (a + p.1)))
  else bs

/-- Clear the reserved bits of the headers of the shadow curve store: done at its validation, so that its digest is that of what is read. -/
def Dev.headsClean (d : Dev) : Dev :=
  let x := d.tset tsCurve
  let t := (d.heads true).foldl (fun t h =>
    t.setList (imgDefault tsCurve) (8 * h + 1) ((t.get (imgDefault tsCurve) (8 * h + 1) &&& 0x3F) :: List.replicate 6 0)) x.shadow
  d.setTset tsCurve { x with shadow := t }

/-- Where a parameter that is a field of an image stands in it: set, byte offset, lowest bit, width (Tables 3.4, 3.8, 3.9, 7.1, 7.8). `dir`
gives the entry of a curve's header. -/
def imgPlace (dir : Nat → Nat) (p : Par) (i : Nat) : Option (Nat × Nat × Nat × Nat) :=
  if p.cls = 3 then
    if p = Par.curveHeaderEntry then some (tsCurve, 2 * i, 0, 13)
    else if p = Par.curveCount then some (tsCurve, 8 * dir i, 0, 10)
    else if p = Par.curveBelow then some (tsCurve, 8 * dir i, 10, 2)
    else if p = Par.curveAbove then some (tsCurve, 8 * dir i, 12, 2)
    else none
  else if p.cls = 4 then
    let b := 0x40 + 32 * i
    if p = Par.modeKind then some (tsMode, b, 0, 8)
    else if p = Par.modeFlags then some (tsMode, b + 1, 0, 4)
    else if p = Par.modeEntryAction then some (tsMode, b + 2, 0, 8)
    else if p = Par.modeEntryArg then some (tsMode, b + 4, 0, 32)
    else if p = Par.modeCtxMaskLo then some (tsMode, b + 8, 0, 64)
    else if p = Par.modeCtxMaskHi then some (tsMode, b + 16, 0, 64)
    else none
  else if p.cls = 0x20 then
    let b := 4032 * i
    if p = Par.ctxNStates then some (tsCtx, b, 0, 8)
    else if p = Par.ctxNOut then some (tsCtx, b + 1, 0, 8)
    else if p = Par.ctxNIn then some (tsCtx, b + 2, 0, 8)
    else if p = Par.ctxFlags then some (tsCtx, b + 3, 0, 4)
    else if p = Par.ctxRateDiv then some (tsCtx, b + 4, 0, 16)
    else if p = Par.ctxPhase then some (tsCtx, b + 6, 0, 8)
    else if p = Par.ctxOrder then some (tsCtx, b + 7, 0, 8)
    else if p = Par.ctxOverrunLimit then some (tsCtx, b + 8, 0, 8)
    else if p = Par.ctxIntMask then some (tsCtx, b + 10, 0, 16)
    else none
  else none

/-- Bytes that a field touches. -/
def fieldBytes (lo w : Nat) : Nat := ceilDiv (lo + w) 8

/-- Read a parameter that is a field of an image; none for any other parameter. While a curve has no header its fields read as the defaults
(R76). -/
def Dev.imgPar (d : Dev) (shadow : Bool) (p : Par) (i : Nat) : Option Nat :=
  match imgPlace (d.curveDir shadow) p i with
  | none => none
  | some (k, a, lo, w) =>
    if p.cls = 3 ∧ p ≠ Par.curveHeaderEntry ∧ d.curveDir shadow i = 0 then some (if p = Par.curveCount then 2 else 0)
    else some (field (d.imgN k shadow a (fieldBytes lo w)) lo w)

/-- Write a field of a shadow image through its parameter. -/
def Dev.imgParWrite (d : Dev) (p : Par) (i v : Nat) : Dev :=
  match imgPlace (d.curveDir true) p i with
  | none => d
  | some (k, a, lo, w) =>
    let n := fieldBytes lo w
    d.shadowWrite k a (leBytes n (setField (d.imgN k true a n) lo w v))

/-- The parameter is a field of a table image. -/
def isImgPar (p : Par) : Bool :=
  (p.cls == 3 && p.idx < 4) || (p.cls == 4 && p.idx < 6) || (p.cls == 0x20 && 1 ≤ p.idx && p.idx < 10)

/-- The table set of a class (R58). -/
def setOfClass (c : Nat) : Option Nat := if c = 3 then some 0 else if c = 4 then some 1 else if c = 0x20 then some 2 else none

/-! ## Curves (R65, R66, R67) -/

/-- Point `j` of the curve whose header is at entry `h` of the active store. -/
def Dev.curvePoint (d : Dev) (h j : Nat) : F32 × F32 :=
  (d.imgF tsCurve false (8 * (h + 1 + j)), d.imgF tsCurve false (8 * (h + 1 + j) + 4))

/-- y_i + (u − x_i) × (y_(i+1) − y_i) / (x_(i+1) − x_i), in that order of operations (R67). -/
def segment (p q : F32 × F32) (u : F32) : F32 :=
  fadd p.2 (fdiv (fmul (fsub u p.1) (fsub q.2 p.2)) (fsub q.1 p.1))

/-- The largest index below `n` whose x is at or below `u`, searched downwards. -/
def Dev.curveSeg (d : Dev) (h : Nat) (u : F32) : Nat → Nat
  | 0 => 0
  | n + 1 => if fle (d.curvePoint h n).1 u then n else Dev.curveSeg d h u n

/-- Event CURVE_UNDEFINED. -/
abbrev evCurveUndefined : Nat := 22

/-- Evaluate CURVE.n at `u` (R67). -/
def Dev.curveEval (d : Dev) (n : Nat) (u : F32) : F32 × Dev :=
  let h := d.curveDir false n
  if h = 0 then (f0, d.raise evCurveUndefined (oid 3 n))
  else
    let w := d.imgN tsCurve false (8 * h) 2
    let cnt := field w 0 10
    let p0 := d.curvePoint h 0
    let pl := d.curvePoint h (cnt - 1)
    if fisNaN u then (p0.2, d.inc 32 Par.curveNanCount n)
    else if flt u p0.1 then
      (if field w 10 2 = 0 then p0.2 else segment p0 (d.curvePoint h 1) u, d)
    else if flt pl.1 u then
      (if field w 12 2 = 0 then pl.2 else segment (d.curvePoint h (cnt - 2)) pl u, d)
    else
      let i := d.curveSeg h u cnt
      let p := d.curvePoint h i
      if feq u p.1 then (p.2, d) else (segment p (d.curvePoint h (i + 1)) u, d)

/-! ## Live values -/

/-- The record of the last commit of the metering engine (R289, R293). -/
def Dev.metLast (d : Dev) : Option MetRec := d.met.slots.get (fun _ => none) (d.get Par.metrCommitSeq 4 % 2)

/-- Rows of METR shown by a selector (R289, R290): the delta and wrap count of a register, the allocation of a port, as at the last
commit. Rows of Table 13.6 that do not apply to an instance read 0 (R297). -/
def Dev.showMetr (d : Dev) (p : Par) (i : Nat) : Option Nat :=
  let reg := (((d.metLast).map (fun r => r.regs.getD (7 * i + d.get Par.metrRegSel i) 0)).getD 0) / 1000
  let alloc := fun k => ((d.metLast).map (fun r => r.alloc.getD (2 * d.get Par.metrAllocSel 4 + k) 0)).getD 0
  if p = Par.metrRegDelta then some (reg % 2 ^ 32)
  else if p = Par.metrRegWrap then some (field reg 32 16)
  else if i = 4 then
    (if p = Par.metrAllocOut then some (alloc 0) else if p = Par.metrAllocIn then some (alloc 1)
     else if p.idx ≤ 20 then some 0 else none)
  else if p.idx = 21 ∨ p.idx = 22 ∨ 39 ≤ p.idx then some 0 else none

/-- Rows of WEAVE.0 that show the port of port_sel, and STAKE rows that show the signal of sig_sel (R374, R375). -/
def Dev.showWeave (d : Dev) (p : Par) (i : Nat) : Option Nat :=
  let x := d.wport (d.get Par.weavePortSel 0)
  if p = Par.weavePortState then some x.state
  else if p = Par.weavePortPeer then some x.peer
  else if p = Par.weavePortPeerPort then some x.peerPort
  else if p = Par.weavePortDelay then some x.delay
  else if p = Par.weavePortOffset then some (enc 64 x.offset)
  else if p = Par.weavePortAsym then some (enc 64 x.asym)
  else if p = Par.weavePortCrc then some x.crc
  else if p = Par.weavePortDowns then some x.downs
  else if p = Par.weaveIdentity then some Config.identity.toNat
  else if p = Par.weaveStakesPresent then some (((List.range 64).map (fun s => b2n (d.isOn Par.stakePresent s) * 2 ^ s)).sum)
  else if p.cls = 0x81 then
    let g := d.weave.sig.get (fun _ => {}) (64 * i + d.get Par.stakeSigSel i)
    if p = Par.stakeSigValue then some g.val.toNat else if p = Par.stakeSigFresh then some (b2n g.fresh) else none
  else none

/-- Rows of LID.0 and UPD.0 that show the Lid's stores (R429, R416). -/
def Dev.showLid (d : Dev) (p : Par) : Option Nat :=
  let k := d.keySlot (d.get Par.lidKeySel 0)
  let b := d.bootRec
  let o := d.ownRec
  if p = Par.lidIdentity then some Config.identity.toNat
  else if p = Par.lidRollbackCount then some d.lid.fuses
  else if p = Par.lidRollbackMirror then some b.mirror
  else if p = Par.lidKeyEpoch then some d.lid.epoch
  else if p = Par.lidKeyUsage then some k.1
  else if p = Par.lidKeyFp then some (if k.1 = 0 then 0 else fingerprint k.2)
  else if p = Par.lidAnchored then some (b2n d.anchored)
  else if p = Par.lidTallyCount then some (d.tallyCount (d.get Par.lidTallySel 0))
  else if p = Par.updState then some o.state
  else if p = Par.updOwnerLink then some o.link
  else if p = Par.updOwnerStake then some o.stake
  else if p = Par.updOwnerFp then some o.fp
  else if p = Par.updImgVersion then some o.version
  else if p = Par.updImgArc then some o.arc
  else if p = Par.updChunksTotal then some o.count
  else if p = Par.updChunksDone then some (popcount d.lid.bitmap 1792)
  else if p = Par.updLastChunkTime then some o.last
  else if p = Par.updActiveSlot then some b.active
  else if p = Par.updRunningSlot then some d.lid.running
  else if p = Par.updTrialRemaining then some (if d.lid.trial then (b.start + b.window * 60 * fineS - d.now) / fineS else 0)
  else if p = Par.updSchema then some (d.get Par.devFwSchema 0)
  else if p = Par.updRunningVersion then some (d.get Par.devFwVersion 0)
  else if p = Par.updRetainedSchema then some ((d.lid.retained.map (·.schema)).getD 0)
  else none

/-- A sampled-value subscription of LINK.1 (R402). -/
def Dev.sv (d : Dev) (k : Nat) : SvSub := d.host.sv.get (fun _ => {}) k

/-- Rows of LINK: the stream of sv_sel, which LINK.2 reads as LINK.1 does (R402); rows of the weft links that do not apply (R404). -/
def Dev.showLink (d : Dev) (p : Par) (i : Nat) : Option Nat :=
  let x := d.sv (d.get Par.linkSvSel 1)
  if 3 ≤ i then (if p.idx ≤ 1 then none else some 0)
  else if i = 0 ∧ 19 ≤ p.idx ∧ p.idx ≤ 24 then none
  else if p = Par.linkSvSel then some (d.get Par.linkSvSel 1)
  else if p = Par.linkSvMac then some x.mac
  else if p = Par.linkSvAppid then some x.appid
  else if p = Par.linkSvId then some x.id
  else if p = Par.linkSvRate then some x.rate
  else if p = Par.linkSvFrames then some x.frames
  else none

/-! ## Descriptor fields (Tables 7.1, 7.4) -/

/-- Field of a descriptor. -/
def Dev.desc (d : Dev) (sh : Bool) (n o k : Nat) : Nat := d.imgN tsCtx sh (4032 * n + o) k
/-- Number of states. -/
def Dev.cN (d : Dev) (sh : Bool) (n : Nat) : Nat := d.desc sh n 0 1
/-- Number of outputs. -/
def Dev.cM (d : Dev) (sh : Bool) (n : Nat) : Nat := d.desc sh n 1 1
/-- Number of inputs. -/
def Dev.cW (d : Dev) (sh : Bool) (n : Nat) : Nat := d.desc sh n 2 1
/-- Flags: bit 0 ENABLE, 1 ACC64, 2 INT_DIR, 3 SYNC_STATE. -/
def Dev.cFlags (d : Dev) (sh : Bool) (n : Nat) : Nat := d.desc sh n 3 1
/-- ENABLE. -/
def Dev.cEn (d : Dev) (sh : Bool) (n : Nat) : Bool := bit (d.cFlags sh n) 0
/-- rate_div. -/
def Dev.cDiv (d : Dev) (sh : Bool) (n : Nat) : Nat := d.desc sh n 4 2
/-- phase. -/
def Dev.cPhase (d : Dev) (sh : Bool) (n : Nat) : Nat := d.desc sh n 6 1
/-- order. -/
def Dev.cOrder (d : Dev) (sh : Bool) (n : Nat) : Nat := d.desc sh n 7 1

/-- Cost in LOOP cycles (R172). -/
def Dev.cCycles (d : Dev) (sh : Bool) (c : Nat) : Nat :=
  let n := d.cN sh c
  let m := d.cM sh c
  let w := d.cW sh c
  let p := n * (n + m + w) + m * (n + w)
  ceilDiv ((if bit (d.cFlags sh c) 1 then 2 else 1) * p) 64 + 2

/-- The cost of the active descriptor and the probes of CTX.n (Table 7.8): the element probe_sel of the states, of the stored outputs and of the inputs of the last execution. -/
def Dev.showCtx (d : Dev) (p : Par) (c : Nat) : Option Nat :=
  let x := d.ctxs.get (fun _ => {}) c
  let k := d.get Par.ctxProbeSel c
  if p = Par.ctxCycles then some (d.cCycles false c)
  else if p = Par.ctxProbeX then some (if k < d.cN false c then (x.x.getD k f0).toNat else 0)
  else if p = Par.ctxProbeU then some (if k < d.cM false c then (x.u.getD k f0).toNat else 0)
  else if p = Par.ctxProbeIn then some (x.vin.getD k f0).toNat
  else none

/-- z_mag and z_ang report point z_sel of the last registration (R212). -/
def Dev.showIsld (d : Dev) (p : Par) (g : Nat) : Option Nat :=
  let x := d.isls.get (fun _ => {}) g
  let k := d.get Par.isldZSel g
  if p = Par.isldZMag then some (x.regMag.getD k f0).toNat
  else if p = Par.isldZAng then some (x.regAng.getD k f0).toNat
  else none

/-- The port in use that names a leg (R222). -/
def Dev.portOfLeg (d : Dev) (n : Nat) : Option Nat :=
  (List.range 32).find? (fun p => d.get Par.portTopology p != 0 && (d.get Par.portLegA p == n || d.get Par.portLegB p == n))

/-- A setting of a leg as a port in use fixes it (R223, R249, Table 10.1): leg_b of BOOST2 follows leg_a half a period behind with its carrier and
duty; PSFB drives leg_a as SAW and leg_b as PS against it at 50 % duty each. Any other setting is the parameter. The carriers of PSFB and the
shared period follow from the topologies by inference (DEDUCED, log entry 76). -/
def Dev.legSet (d : Dev) (p : Par) (n : Nat) : Nat :=
  match d.portOfLeg n with
  | none => d.get p n
  | some q =>
    let t := d.get Par.portTopology q
    let a := d.get Par.portLegA q
    let isB := d.get Par.portLegB q == n
    if t = 2 ∧ isB = true then
      (if p = Par.legSyncLeg then a else if p = Par.legPhase then d.get Par.legPeriod a / 2
       else if p = Par.legPeriod ∨ p = Par.legCarrier ∨ p = Par.legDuty then d.get p a else d.get p n)
    else if t = 3 then
      (if p = Par.legDuty then 0x3F000000 else if p = Par.legCarrier then (if isB then 4 else 1)
       else if isB = true ∧ p = Par.legSyncLeg then a else if isB = true ∧ p = Par.legPhase then 0
       else if isB = true ∧ p = Par.legPeriod then d.get p a else d.get p n)
    else d.get p n

/-- Rows whose value is formed at the read. -/
def Dev.shown (d : Dev) (p : Par) (i : Nat) : Option Nat :=
  if p = Par.beatTimeNow then some d.now
  else if p = Par.beatWindowTicks then some d.windowTicks
  else if p = Par.devTblState then some ((d.tset 0).state + 4 * (d.tset 1).state + 16 * (d.tset 2).state)
  else if p.cls = 0xC0 then (if evNamed i then none else some 0)
  else if p.cls = 0x11 then (if 8 ≤ p.idx ∧ p.idx ≤ 17 ∧ !(d.isOn Par.cellPresent i) then some 0 else none)
  else if p.cls = 0x20 then d.showCtx p i
  else if p.cls = 0x22 then d.showIsld p i
  else if p.cls = 0x50 then d.showMetr p i
  else if p.cls = 0x80 ∨ p.cls = 0x81 then d.showWeave p i
  else if p.cls = 0x90 then d.showLink p i
  else if p.cls = 0xA0 ∨ p.cls = 0xA1 then d.showLid p
  -- R245, R223: a leg named by a port in use reads PORT, and its settings as the port fixes them.
  else if p.cls = 0x31 ∧ (d.portOfLeg i).isSome = true then
    (if p = Par.legRole then some 3
     else if p = Par.legSyncLeg ∨ p = Par.legPhase ∨ p = Par.legPeriod ∨ p = Par.legCarrier ∨ p = Par.legDuty then some (d.legSet p i) else none)
  else none

/-- The value that a read of a parameter returns: from the shadow copy where it is selected and the row is a field of an image. -/
def Dev.live (d : Dev) (shadow : Bool) (p : Par) (i : Nat) : W64 :=
  match d.shown p i with
  | some v => BitVec.ofNat 64 v
  | none =>
    match d.imgPar shadow p i with
    | some v => BitVec.ofNat 64 v
    | none => d.raw p i

/-- A parameter's value converted to binary32, as a watch, a PARAM slot or a capture reads it (R69, Table 7.3). -/
def Dev.liveF (d : Dev) (p : Par) (i : Nat) : F32 :=
  let v := d.live false p i
  match (rowOf p).map PRow.ty with
  | some .f => v.setWidth 32
  | some (.i _) => fint v.toInt
  | _ => fint v.toNat

end Sys2Proof.Machine
end

