-- ==== Sys2Proof/Machine/Capture.lean ====
section
/-! DEFINITION. The capture engine (ch. 14): streams, blocks, gaps, ring-buffer captures and triggers. -/

namespace Sys2Proof.Machine

/-- Capture stream record. -/
def Dev.cap (d : Dev) (n : Nat) : CapRt := d.caps.get (fun _ => {}) n
/-- Store a capture stream record. -/
def Dev.setCap (d : Dev) (n : Nat) (x : CapRt) : Dev := { d with caps := d.caps.set (fun _ => {}) n x }
/-- Trigger record. -/
def Dev.trig (d : Dev) (n : Nat) : TrigRt := d.trigs.get (fun _ => {}) n
/-- Store a trigger record. -/
def Dev.setTrig (d : Dev) (n : Nat) (x : TrigRt) : Dev := { d with trigs := d.trigs.set (fun _ => {}) n x }

/-- Stream states (Table 14.6). -/
abbrev csIdle : Nat := 0
/-- See `csIdle`. -/
abbrev csStream : Nat := 1
/-- See `csIdle`. -/
abbrev csArmed : Nat := 2
/-- See `csIdle`. -/
abbrev csPost : Nat := 3
/-- See `csIdle`. -/
abbrev csDeliver : Nat := 4

/-- Trigger states (Table 14.7). -/
abbrev tsOff : Nat := 0
/-- See `tsOff`. -/
abbrev tsWait : Nat := 1
/-- See `tsOff`. -/
abbrev tsArmed : Nat := 2
/-- See `tsOff`. -/
abbrev tsHoldoff : Nat := 3

/-- Events of the group (Table 20.1). -/
abbrev evCapGap : Nat := 144
/-- See `evCapGap`. -/
abbrev evCapDone : Nat := 145
/-- See `evCapGap`. -/
abbrev evTrigFire : Nat := 146
/-- See `evCapGap`. -/
abbrev evTrigMissed : Nat := 147


/-! ## Blocks (R301, R302, R303) -/

/-- Bytes of one sample record: 8 TIMED, 4 PACKED (R301). -/
def Dev.recSize (d : Dev) (n : Nat) : Nat := if d.get Par.capFormat n = 1 then 4 else 8

/-- Bytes a block uses after its header. -/
def Blk.used (b : Blk) (size : Nat) : Nat := size * b.samples.length + 24 * b.marks.length

/-- The interval of a constant-interval source in fine ticks between recorded samples; 0 when it is not constant (R299). -/
def Dev.capInterval (d : Dev) (n : Nat) : Nat :=
  let src := d.get Par.capSrc n
  let c := src / 16777216
  let i := src % 16777216
  let beat := d.beatTicks * 16
  let one :=
    if c = 0x50 then 800000
    else if c = 0x11 ∨ c = 0x20 then 0
    else if d.get Par.capRate n = 0 then beat
    else if c = 0x40 then (if d.beatTicks % 80 = 0 then 1280 else 0)
    else if c = 0x41 then 320 * d.get Par.sdiDecim i
    else beat
  one * d.get Par.capDiv n

/-- A fresh block, opened now. -/
def Dev.newBlk (d : Dev) (n : Nat) (ts : Nat) : Blk :=
  let x := d.cap n
  { seq := x.seq, ts := ts, opened := d.now, tq := d.get Par.beatTimeState 0,
    interval := if d.get Par.capFormat n = 1 then d.capInterval n else 0,
    gapCause := (x.gap.getD (0, 0)).1, gapCount := (x.gap.getD (0, 0)).2 }

/-- Close the open block: it joins the closed ones, and the sequence number advances. -/
def Dev.closeBlk (d : Dev) (n : Nat) : Dev :=
  let x := d.cap n
  match x.cur with
  | none => d
  | some b => d.setCap n { x with cur := none, closed := x.closed ++ [b], seq := (x.seq + 1) % 2 ^ 32 }

/-- Open a block if none is open. A pending gap goes into its header (R304). -/
def Dev.openBlk (d : Dev) (n ts : Nat) : Dev :=
  let x := d.cap n
  match x.cur with
  | some _ => d
  | none => d.setCap n { x with cur := some (d.newBlk n ts), gap := none }

/-- Bytes of the buffer in use. -/
def Dev.capUsed (d : Dev) (n : Nat) : Nat :=
  let x := d.cap n
  let s := d.recSize n
  ((x.closed ++ x.cur.toList).map (fun b => 32 + b.used s)).sum + s * (x.pre.length + x.post.length)

/-- Buffer size in bytes. -/
def Dev.capBuf (d : Dev) (n : Nat) : Nat := d.get Par.capBufKib n * 1024

/-- Set a flag of CAP.n now (R10). -/
def Dev.capFlag (d : Dev) (n b : Nat) : Dev :=
  (d.putBit Par.capFlags n b true).setCap n { d.cap n with flagAt := (d.cap n).flagAt.set (fun _ => 0) b d.now }

/-- A gap is noted in the flag, the counters and an event (R304). -/
def Dev.gapNote (d : Dev) (n count : Nat) : Dev :=
  (((d.capFlag n 1).inc 32 Par.capGaps n).inc 64 Par.capGapSamples n count).raise evCapGap (oid 0x60 n)

/-- A gap that still waits for a block goes out with an empty one, so that none is lost (log entry 55). -/
def Dev.gapFlush (d : Dev) (n : Nat) : Dev :=
  if (d.cap n).gap.isSome then (d.openBlk n d.now).closeBlk n else d

/-- Record a gap (R304). Of a stream: the open block closes and the next one carries cause and count. Of a ring-buffer capture: it stands before
the next sample; two gaps with no sample between are one, of the later cause (log entry 55). -/
def Dev.capGap (d : Dev) (n cause count : Nat) : Dev :=
  let st := d.get Par.capState n
  if st = csArmed ∨ st = csPost then
    let x := d.cap n
    (d.setCap n { x with gap := some (cause, min (count + (x.gap.getD (0, 0)).2) 4294967295) }).gapNote n count
  else
    let d := (d.closeBlk n).gapFlush n
    (d.setCap n { d.cap n with gap := some (cause, min count 4294967295) }).gapNote n count

/-- What the engine can still write in the present beat: 1,000 MB/s over all streams, 5 bytes in 32 fine ticks (R306, reckoned beat by beat: log
entry 56). -/
def Dev.capRoom (d : Dev) (s : Nat) : Bool :=
  decide (((List.range 32).map (fun n => (d.cap n).wrote)).sum + s ≤ d.beatLen * 5 / 32)

/-- `s` bytes are written for stream `n`. -/
def Dev.capWrote (d : Dev) (n s : Nat) : Dev := d.setCap n { d.cap n with wrote := (d.cap n).wrote + s }

/-- A mark as it is stamped now (R49). -/
def Dev.stamped (d : Dev) (m : Mark) : Mark := { m with tq := d.get Par.beatTimeState 0 }

/-- Add a mark to a streaming stream (R302): its index is the first sample of the open block at or after it. -/
def Dev.markStream (d : Dev) (n : Nat) (m : Mark) : Dev :=
  let s := d.recSize n
  let full := match (d.cap n).cur with
    | some b => decide (4048 < b.used s + 24)
    | none => false
  let d := if full then d.closeBlk n else d
  let d := d.openBlk n m.ts
  let x := d.cap n
  match x.cur with
  | none => d
  | some b =>
    let ix := (b.samples.takeWhile (fun p => decide (p.1 < m.ts))).length
    (d.setCap n { x with cur := some { b with marks := b.marks ++ [{ d.stamped m with index := ix }] } }).capWrote n 24

/-- Add a mark to a ring-buffer capture. -/
def Dev.markRing (d : Dev) (n : Nat) (m : Mark) : Dev :=
  (d.setCap n { d.cap n with rmarks := (d.cap n).rmarks ++ [d.stamped m] }).capWrote n 24

/-- Add one sample to a streaming stream (R301, R306, R307): a full block closes; without room for the record, samples are dropped and counted
until a whole block's space is free again, or, beyond the engine's rate, until it can write again. -/
def Dev.sampleStream (d : Dev) (n ts : Nat) (v : F32) : Dev :=
  let s := d.recSize n
  match (d.cap n).dropping with
  | some k =>
    if d.capUsed n + 4080 ≤ d.capBuf n ∧ d.capRoom s then
      let d := (d.setCap n { d.cap n with dropping := none }).capGap n 1 k
      let d := d.openBlk n ts
      let x := d.cap n
      let b := x.cur.getD (d.newBlk n ts)
      ((d.setCap n { x with cur := some { b with ts := ts, samples := b.samples ++ [(ts, v)] } }).capWrote n s).inc 64 Par.capSamples n
    else d.setCap n { d.cap n with dropping := some (k + 1) }
  | none =>
    if d.capBuf n < d.capUsed n + s ∨ !(d.capRoom s) then d.setCap n { d.cap n with dropping := some 1 }
    else
      let full := match (d.cap n).cur with
        | some b => decide (4048 < b.used s + s)
        | none => false
      let moved := match (d.cap n).cur with
        | some b => b.interval != 0 && b.interval != d.capInterval n
        | none => false
      let d := if full || moved then d.closeBlk n else d
      let d := d.openBlk n ts
      let x := d.cap n
      let b := x.cur.getD (d.newBlk n ts)
      let b := if b.samples.isEmpty then { b with ts := ts } else b
      ((d.setCap n { x with cur := some { b with samples := b.samples ++ [(ts, v)] } }).capWrote n s).inc 64 Par.capSamples n

/-- Add one sample to a ring-buffer capture (R309): before a fire the newest pre_count are kept; from the fire on, samples
at or after it are post-trigger, up to post_count. A gap that waits stands before it. -/
def Dev.ringKeep (d : Dev) (n ts : Nat) (v : F32) : Dev :=
  let x := d.cap n
  let x := match x.gap with
    | some g => { x with gap := none, rgaps := x.rgaps ++ [(ts, g.1, g.2)] }
    | none => x
  let before : Bool := match x.fireAt with
    | none => true
    | some f => decide (ts < f)
  let x := if before then { x with pre := lastN (d.get Par.capPreCount n) (x.pre ++ [(ts, v)]) } else { x with post := x.post ++ [(ts, v)] }
  ((d.setCap n x).capWrote n (d.recSize n)).inc 64 Par.capSamples n

/-- Offer one sample to a ring-buffer capture: beyond the engine's rate it is dropped and counted (R306); when post_count samples are in, none is
taken. -/
def Dev.sampleRing (d : Dev) (n ts : Nat) (v : F32) : Dev :=
  let x := d.cap n
  let isPost : Bool := match x.fireAt with
    | none => false
    | some f => decide (f ≤ ts)
  if isPost ∧ d.get Par.capPostCount n ≤ x.post.length then d
  else if !(d.capRoom (d.recSize n)) then d.setCap n { x with dropping := some (x.dropping.getD 0 + 1) }
  else
    let d := match x.dropping with
      | some k => (d.setCap n { x with dropping := none }).capGap n 1 k
      | none => d
    d.ringKeep n ts v

/-- Offer one sample of a source to stream `n` (R298). -/
def Dev.capOffer (d : Dev) (n ts : Nat) (v : F32) : Dev :=
  let x := d.cap n
  let st := d.get Par.capState n
  if (st = csStream && !x.stopping) || st = csArmed || st = csPost then
    let k := x.divCnt + 1
    if k < d.get Par.capDiv n then d.setCap n { x with divCnt := k }
    else
      -- R299: a missing instant of a constant-interval source opens a SOURCE gap.
      let iv := d.capInterval n
      let lost := match x.lastTs with
        | some l => if iv ≠ 0 ∧ l + iv ≠ ts then (if l < ts then max 1 ((ts - l) / iv - 1) else 1) else 0
        | none => 0
      let d := d.setCap n { x with divCnt := 0, lastTs := some ts }
      let d := if lost = 0 then d else d.capGap n 5 lost
      if st = csStream then d.sampleStream n ts v else d.sampleRing n ts v
  else d

/-! ## Triggers (R314 to R320) -/

/-- Place a mark in every streaming stream of a mask. -/
def Dev.markMask (d : Dev) (mask : Nat) (m : Mark) : Dev :=
  d.forL (bitsOf mask 32) (fun d n => if d.get Par.capState n = csStream then d.markStream n m else d)

/-- Split a ring-buffer capture at a fire instant (R309): samples already recorded at or after it become post-trigger. -/
def Dev.capSplit (d : Dev) (n f : Nat) : Dev :=
  let x := d.cap n
  let all := x.pre ++ x.post
  let d := d.setCap n { x with
    pre := lastN (d.get Par.capPreCount n) (all.filter (fun p => decide (p.1 < f)))
    post := (all.filter (fun p => decide (f ≤ p.1))).take (d.get Par.capPostCount n)
    fireAt := some f }
  d.put Par.capState n csPost

/-- The TRIGGER mark and PRE_SHORT of the ring-buffer streams of a fire (R311, R320). -/
def Dev.ringMarks (d : Dev) (mask trig : Nat) (f : Fire) : Dev :=
  d.forL (bitsOf mask 32) (fun d n =>
    let x := d.cap n
    if d.get Par.capState n = csPost ∧ x.fireAt = some f.ts then
      let held := x.pre.length
      let short := decide (held < d.get Par.capPreCount n)
      let d := d.markRing n { ts := f.ts, index := 0, kind := 1, cause := f.cause, trig := trig, stake := f.stake, short := short, a := held }
      let d := (d.put Par.capPreActual n held).put Par.capTrigTime n f.ts
      if short then d.capFlag n 0 else d
    else d)

/-- A fire or condition that is not captured by the trigger (R316). -/
def Dev.trigMissed (d : Dev) (n ts cause stake : Nat) : Dev :=
  let d := (d.inc 32 Par.trigMissed n).raise evTrigMissed (oid 0x61 n)
  d.markMask (d.get Par.trigStreamMask n)
    { ts := ts, index := 0, kind := 2, cause := cause, trig := n, stake := stake, a := d.get Par.trigMissed n }

/-- Place the marks of the fire kept (R320) and of the fires it replaced. -/
def Dev.fireMarks (d : Dev) (n : Nat) (f : Fire) : Dev :=
  let mask := d.get Par.trigStreamMask n
  let d := d.markMask mask { ts := f.ts, index := 0, kind := 1, cause := f.cause, trig := n, stake := f.stake }
  d.ringMarks mask n f

/-- Flood a FIRE (R319, Table 16.3): trigger, TS64, cause, stake. -/
def Dev.sendFire (d : Dev) (n ts cause : Nat) : Dev :=
  d.weavePut wkFire 0xFF (leBytes 1 n ++ leBytes 8 ts ++ leBytes 1 cause ++ leBytes 1 d.stakeNo)

/-- Causes of Table 14.3. -/
abbrev fcSource : Nat := 0
/-- See `fcSource`. -/
abbrev fcWindow : Nat := 1
/-- See `fcSource`. -/
abbrev fcEvent : Nat := 2
/-- See `fcSource`. -/
abbrev fcCarrier : Nat := 3
/-- See `fcSource`. -/
abbrev fcWeave : Nat := 4
/-- See `fcSource`. -/
abbrev fcMode : Nat := 5
/-- See `fcSource`. -/
abbrev fcHost : Nat := 6
/-- See `fcSource`. -/
abbrev fcAuto : Nat := 7

/-- Fire a trigger (R314, R316, R319, R320). Conditions of its kind and the auto timer act as the caller has found the state
to allow; HOST, MODE and WEAVE fires act in WAIT and ARMED. In HOLDOFF the fire is missed. -/
def Dev.fireTrig (d : Dev) (n ts cause stake : Nat) : Dev :=
  let st := d.get Par.trigState n
  let weave := d.isOn Par.trigWeave n
  if st = tsOff then d
  else if st = tsHoldoff then
    match (d.trig n).openFire with
    | some f =>
      -- R320: within the window an earlier TS64, or at equal TS64 a lower stake number, replaces the fire kept.
      if cause = fcWeave ∧ (ts < f.ts ∨ (ts = f.ts ∧ stake < f.stake)) then
        let t := d.trig n
        let d := d.setTrig n { t with openFire := some ⟨ts, cause, stake⟩, missedFires := t.missedFires ++ [f] }
        let d := ((d.put Par.trigLastTime n ts).put Par.trigLastCause n cause).put Par.trigLastStake n stake
        d.forL (bitsOf (d.get Par.trigStreamMask n) 32) (fun d s =>
          if (d.cap s).fireAt = some f.ts ∧ d.get Par.capState s = csPost then d.capSplit s ts else d)
      else if cause = fcWeave then
        let t := d.trig n
        d.setTrig n { t with missedFires := t.missedFires ++ [⟨ts, cause, stake⟩] }
      else d.trigMissed n ts cause stake
    | none => d.trigMissed n ts cause stake
  else
    let d := (d.inc 32 Par.trigFires n).raise evTrigFire (oid 0x61 n)
    let d := ((d.put Par.trigLastTime n ts).put Par.trigLastCause n cause).put Par.trigLastStake n (stake % 256)
    let d := d.put Par.trigState n tsHoldoff
    let mask := d.get Par.trigStreamMask n
    let d := d.forL (bitsOf mask 32) (fun d s =>
      let cs := d.get Par.capState s
      if d.get Par.capMode s = 1 then
        (if cs = csArmed then d.capSplit s ts
         else (d.inc 32 Par.capMissed s).capFlag s 2)
      else d)
    let f : Fire := ⟨ts, cause, stake⟩
    if weave then
      let d := if cause = fcWeave then d else d.sendFire n ts cause
      d.setTrig n { d.trig n with openFire := some f, missedFires := [], below := false, above := false }
    else (d.setTrig n { d.trig n with below := false, above := false }).fireMarks n f

/-- A condition of the trigger's own kind holds: it fires only in ARMED, and is missed in HOLDOFF (R316). -/
def Dev.trigCond (d : Dev) (n ts cause : Nat) : Dev :=
  let st := d.get Par.trigState n
  if st = tsArmed ∨ st = tsHoldoff then d.fireTrig n ts cause d.stakeNo else d

/-- Offer one sample of a source to SOURCE trigger `n` (R315, R316). -/
def Dev.trigOffer (d : Dev) (n ts : Nat) (v : F32) : Dev :=
  let t := d.trig n
  let lvl := d.getF Par.trigLevel n
  let h := d.getF Par.trigHyst n
  let e := d.get Par.trigEdge n
  if !(ffinite v) ∨ d.get Par.trigState n = tsOff then d
  else
    let below := t.below || flt v (fsub lvl h)
    let above := t.above || flt (fadd lvl h) v
    let rise := t.below && flt lvl v
    let fall := t.above && flt v lvl
    let hit := (e = 0 && rise) || (e = 1 && fall) || (e = 2 && (rise || fall))
    if hit then
      -- The sample that crosses has left the other side of the band for the next crossing.
      let d := d.setTrig n { t with below := false, above := false }
      let d := d.trigCond n ts fcSource
      d.setTrig n { d.trig n with below := flt v (fsub lvl h), above := flt (fadd lvl h) v }
    else
      let d := d.setTrig n { t with below := below, above := above }
      let q := (e = 0 && below) || (e = 1 && above) || (e = 2 && (below || above))
      if d.get Par.trigState n = tsWait ∧ q then d.put Par.trigState n tsArmed else d

/-- A sample of a source (Table 14.1): class, instance, selector, sample instant, value; `rate` 0 for a beat sample, 1 for
one of every conversion, 2 where either rate takes it. The streams and SOURCE triggers that name the source take it, while the engine runs. -/
def Dev.sample (d : Dev) (cls inst sel ts : Nat) (v : F32) (rate : Nat) : Dev :=
  if !d.capOn then d
  else
    let o := oid cls inst
    let d := d.forN 32 (fun d n =>
      if d.get Par.capState n ≠ csIdle ∧ d.get Par.capSrc n = o ∧ d.get Par.capSrcSel n = sel ∧
          (rate = 2 ∨ d.get Par.capRate n = rate) then d.capOffer n ts v else d)
    d.forN 16 (fun d n =>
      if d.get Par.trigKind n = 1 ∧ d.get Par.trigSrc n = o ∧ d.get Par.trigSrcSel n = sel ∧
          (rate = 2 ∨ d.get Par.trigSrcRate n = rate) then d.trigOffer n ts v else d)

/-- The class takes its samples through a path of its own (Table 14.1). -/
def ownSamples (cls : Nat) : Bool := cls == 0x40 || cls == 0x41 || cls == 0x50 || cls == 0x11 || cls == 0x20

/-- Samples of parameter sources at a beat boundary (Table 14.1, "any other class"). -/
def Dev.sampleParams (d : Dev) : Dev :=
  if !d.capOn then d
  else
    let d := d.forN 32 (fun d n =>
      let s := d.get Par.capSrc n
      if d.get Par.capState n ≠ csIdle ∧ s ≠ 0 ∧ !(ownSamples (s / 16777216)) then
        d.capOffer n d.now (d.liveF ⟨s / 16777216, d.get Par.capSrcSel n⟩ (s % 16777216)) else d)
    d.forN 16 (fun d n =>
      let s := d.get Par.trigSrc n
      if d.get Par.trigKind n = 1 ∧ s ≠ 0 ∧ !(ownSamples (s / 16777216)) then
        d.trigOffer n d.now (d.liveF ⟨s / 16777216, d.get Par.trigSrcSel n⟩ (s % 16777216)) else d)

/-- A carrier event of a leg (R260): marks of the streams that name the leg, and CARRIER triggers. Kinds ZERO 0, PERIOD 1,
CMP 2. -/
def Dev.carrierEvent (d : Dev) (leg kind ts : Nat) : Dev :=
  if !d.capOn then d
  else
    let m : Mark := { ts := ts, index := 0, kind := 4, a := leg + kind * 256 }
    let d := d.forN 32 (fun d n =>
      if d.get Par.capMarkLeg n = leg then
        (if d.get Par.capState n = csStream then d.markStream n m
         else if d.get Par.capState n = csArmed ∨ d.get Par.capState n = csPost then
           d.markRing n m else d)
      else d)
    d.forN 16 (fun d n =>
      if d.get Par.trigKind n = 4 ∧ d.get Par.trigLeg n = leg ∧ d.get Par.trigCarrierKind n = kind then
        d.trigCond n ts fcCarrier else d)

/-- An occurrence of an event: marks of the streams that name it (R300) and EVENT triggers (R314). -/
def Dev.eventTrig (d : Dev) (ev : Nat) : Dev :=
  if !d.capOn then d
  else
    let ts := d.get Par.evtLastTime ev
    let m : Mark := { ts := ts, index := 0, kind := 3, a := ev, b := d.get Par.evtCount ev }
    let d := d.forN 32 (fun d n =>
      if d.get Par.capMarkEvt n = ev then
        (if d.get Par.capState n = csStream then d.markStream n m
         else if d.get Par.capState n = csArmed ∨ d.get Par.capState n = csPost then
           d.markRing n m else d)
      else d)
    d.forN 16 (fun d n =>
      if d.get Par.trigKind n = 3 ∧ d.get Par.trigEvt n = ev then d.trigCond n ts fcEvent else d)

/-- Serve the EVENT triggers and event marks of the occurrences of this command; a TRIG_FIRE that a fire raises may fire
a trigger in turn, each trigger once before its hold-off. `k` bounds the chain. -/
def Dev.serveFresh : Nat → Dev → Dev
  | 0, d => { d with evt := { d.evt with fresh := [] } }
  | k + 1, d =>
    match d.evt.fresh with
    | [] => d
    | (ev, _) :: rest => Dev.serveFresh k (({ d with evt := { d.evt with fresh := rest } }).eventTrig ev)

/-- A window comparator becomes ACTIVE: WINDOW triggers (R314, R315). -/
def Dev.windowTrig (d : Dev) (win comp : Nat) : Dev :=
  if !d.capOn then d
  else d.forN 16 (fun d n =>
    if d.get Par.trigKind n = 2 ∧ d.get Par.trigWin n = win ∧
        (d.get Par.trigWinComp n = 2 ∨ d.get Par.trigWinComp n = comp) then
      d.trigCond n (d.now - d.now % 16) fcWindow else d)

/-- Take a new arm value (R316): 1 enters WAIT, or ARMED for a kind that is qualified at once; 0 enters OFF. -/
def Dev.trigArm (d : Dev) (n v : Nat) (here : Bool) : Dev :=
  let d := d.put Par.trigArm n v
  if v = 0 then d.put Par.trigState n tsOff
  else if d.get Par.trigState n ≠ tsOff then d
  else
    let d := d.setTrig n { d.trig n with below := false, above := false, autoHere := here }
    d.put Par.trigState n (if d.get Par.trigKind n = 1 then tsWait else tsArmed)

/-! ## Start, arm, stop, delivery -/

/-- KiB of SRAM taken by the streams that hold a buffer, with stream `n` as if started (R305). -/
def Dev.capSram (d : Dev) (n : Nat) : Nat :=
  ((List.range 32).map (fun s =>
    if (s = n ∨ d.get Par.capState s ≠ csIdle) ∧ d.get Par.capMem s = 0 then d.get Par.capBufKib s else 0)).sum

/-- KiB of LPDDR4X taken in the same way. -/
def Dev.capDdr (d : Dev) (n : Nat) : Nat :=
  ((List.range 32).map (fun s =>
    if (s = n ∨ d.get Par.capState s ≠ csIdle) ∧ d.get Par.capMem s = 1 then d.get Par.capBufKib s else 0)).sum

/-- KiB of the general pool that staging takes: manifests and chunks that wait, unless an LPDDR4X holds them (Table 1.3, R31, R419). -/
def Dev.stagingKib (d : Dev) : Nat :=
  if d.sup.ddrMiB ≠ 0 then 0
  else
    let parts := (d.lid.assem.map (fun e => ((e.2.map (fun a => (a.parts.map (fun q => q.2.length)).sum)).getD 0))).sum
    let held := fun (t : Tab (List Byte)) => (t.map (fun e => e.2.length)).sum
    ceilDiv (d.lid.manifest.length + parts + held d.lid.halves + held d.lid.marking) 1024

/-- The general pool of R27 in KiB less what staging takes. -/
def Dev.poolKib (d : Dev) : Nat := 16432 - d.stagingKib

/-- A source object of Table 14.1, or none. -/
def capSrcOk (o : Nat) : Bool :=
  let c := o / 16777216
  o == 0 || (decide (o % 16777216 < instances c) && (c != 0x50 || decide (o % 16777216 < 4)))

/-- A selector that Table 14.1 gives the source. -/
def capSelOk (o sel : Nat) : Bool :=
  let c := o / 16777216
  if o = 0 then true
  else if c = 0x40 ∨ c = 0x41 then sel == 0
  else if c = 0x50 then decide (sel ≤ 1)
  else if c = 0x11 then decide (sel ≤ 3)
  else if c = 0x20 then decide (sel ≤ 23)
  else (rowOf ⟨c, sel⟩).isSome

/-- Judge a write of 1 to run (R299, R305, R310). A selector that does not fit the source is refused here too (log entry 57). -/
def Dev.judgeStart (d : Dev) (n : Nat) : Nat :=
  let src := d.get Par.capSrc n
  if d.get Par.capState n ≠ csIdle then stBadState
  else if src = 0 ∨ !(capSelOk src (d.get Par.capSrcSel n)) then stRange
  else if d.get Par.capFormat n = 1 ∧ d.capInterval n = 0 then stRange
  else if d.get Par.capMode n = 1 ∧
      d.get Par.capBufKib n * 1024 / d.recSize n < d.get Par.capPreCount n + d.get Par.capPostCount n then stLength
  else if d.get Par.capMem n = 1 then
    (if d.sup.ddrMiB = 0 then stRange else if d.sup.ddrMiB * 1024 < d.capDdr n then stBusy else stOk)
  else if d.get Par.capBufKib n > 16384 then stRange
  else
    let mib := ceilDiv (d.capSram n) 1024
    if mib > 16 then stRange else if mib * 1024 > d.poolKib then stBusy else stOk

/-- What a stream's record keeps over a start or the return to IDLE: when its flags were set, what it wrote in this beat. -/
def CapRt.kept (x : CapRt) : CapRt := { flagAt := x.flagAt, wrote := x.wrote }

/-- Start or arm a stream at a boundary (R303, R307, R309), with a gap for its first block or none. -/
def Dev.startStream (d : Dev) (n : Nat) (gap : Option (Nat × Nat)) : Dev :=
  let d := d.setCap n { (d.cap n).kept with armedAt := d.now, gap := gap }
  let d := (d.put Par.capSamples n 0).put Par.capRun n 1
  let start : Mark := { ts := d.now, index := 0, kind := 5 }
  if d.get Par.capMode n = 0 then
    (d.put Par.capState n csStream).markStream n start
  else
    (d.put Par.capState n csArmed).markRing n start

/-- Return a stream to IDLE; its buffer is freed (R305). -/
def Dev.capIdle (d : Dev) (n : Nat) : Dev :=
  (d.setCap n (d.cap n).kept).put Par.capState n csIdle |>.put Par.capRun n 0

/-- The end of a stream's data: an overflow in progress is a gap, and the last block closes with an END mark (R304, R308). -/
def Dev.endStream (d : Dev) (n : Nat) : Dev :=
  let d := match (d.cap n).dropping with
    | some k => (d.setCap n { d.cap n with dropping := none }).capGap n 1 k
    | none => d
  (d.markStream n { ts := d.now, index := 0, kind := 6 }).closeBlk n

/-- Stop a stream with an END mark (R308); it is IDLE once drained. -/
def Dev.stopStream (d : Dev) (n : Nat) : Dev :=
  let d := d.endStream n
  let d := d.setCap n { d.cap n with stopping := true }
  if (d.cap n).closed.isEmpty then d.capIdle n else d.put Par.capRun n 0

/-- Cut samples without a gap among them into blocks, oldest first: each block takes records while they fit beside its marks (R301, R312), and a
TIMED one ends within the span of R50. `k` bounds the number of blocks. -/
def cutBlocks (size interval tq opened : Nat) : Nat → Nat → List (Nat × F32) → List Mark → List Blk
  | 0, _, _, _ => []
  | k + 1, seq, xs, ms =>
    let t0 := (xs.head?.map (·.1)).getD opened
    let cap0 := min (4048 / size) (if size = 8 then (xs.takeWhile (fun p => decide (p.1 < t0 + 2 ^ 30))).length else xs.length)
    -- Marks that stand within the samples this block can hold; a mark past the last sample goes to the last block.
    let here := fun (c : Nat) => ms.filter (fun m => match xs[c]? with
      | some p => decide (m.ts ≤ p.1)
      | none => true)
    let fit := fun (c : Nat) => decide (size * c + 24 * (here c).length ≤ 4048)
    let c := min xs.length cap0
    let c := (List.range 8).foldl (fun c _ => if fit c then c else c - ceilDiv (size * c + 24 * (here c).length - 4048) size) c
    let mine := here c
    let b : Blk :=
      { seq := seq, ts := t0, opened := opened, tq := tq, interval := interval,
        samples := xs.take c,
        marks := mine.map (fun m => { m with index := ((xs.take c).takeWhile (fun p => decide (p.1 < m.ts))).length }) }
    if xs.length ≤ c then [b]
    else b :: cutBlocks size interval tq opened k (seq + 1) (xs.drop c) (ms.filter (fun m => !(mine.contains m)))

/-- The runs of samples of a capture between its gaps, each with the gap before it (R303, R304). An ECC gap takes the place of its sample (R28);
a gap before samples that the buffer no longer holds is no part of the capture. -/
def gapRuns : Nat × Nat → List (Nat × Nat × Nat) → List (Nat × F32) → List ((Nat × Nat) × List (Nat × F32))
  | g, [], xs => [(g, xs)]
  | g, (ts, cause, count) :: gs, xs =>
    let a := xs.takeWhile (fun p => p.1 != ts)
    let b := xs.dropWhile (fun p => p.1 != ts)
    if b = [] then gapRuns g gs xs
    else
      let rest := gapRuns (cause, count) gs (if cause = 3 then b.drop 1 else b)
      if a = [] ∧ g.1 = 0 then rest else (g, a) :: rest

/-- Cut a capture into blocks, run by run: the first block of a run carries its gap; marks up to the last sample of a run stand in it. -/
def cutRuns (size interval tq opened : Nat) : Nat → List ((Nat × Nat) × List (Nat × F32)) → List Mark → List Blk
  | _, [], _ => []
  | seq, (g, xs) :: rest, ms =>
    let mine := if rest = [] then ms else ms.filter (fun m => decide (m.ts ≤ ((xs.getLast?).map (·.1)).getD 0))
    let bs := match cutBlocks size interval tq opened (xs.length + ms.length + 1) seq xs mine with
      | b :: t => { b with gapCause := g.1, gapCount := g.2 } :: t
      | [] => []
    bs ++ cutRuns size interval tq opened (seq + bs.length) rest (ms.filter (fun m => !(mine.contains m)))

/-- The last of the blocks is marked LAST. -/
def markLast (bs : List Blk) : List Blk := (indexed bs).map (fun p => if p.1 + 1 = bs.length then { p.2 with last := true } else p.2)

/-- Enter DELIVER with the capture cut into blocks (R312). -/
def Dev.capComplete (d : Dev) (n : Nat) : Dev :=
  let x := d.cap n
  if d.get Par.capState n = csPost ∧ x.post.length ≥ d.get Par.capPostCount n then
    let bs := cutRuns (d.recSize n) (if d.get Par.capFormat n = 1 then d.capInterval n else 0)
      (d.get Par.beatTimeState 0) d.now 0 (gapRuns (0, 0) x.rgaps (x.pre ++ x.post)) x.rmarks
    (d.setCap n { x with closed := markLast bs, seq := bs.length, pre := [], post := [], rmarks := [], rgaps := [] }).put Par.capState n csDeliver
  else d

/-- Bytes of a mark (Table 14.3). -/
def Mark.bytes (m : Mark) : List Byte :=
  leBytes 8 m.ts ++ leBytes 2 m.index ++ leBytes 1 m.kind ++ leBytes 1 m.cause ++ leBytes 1 m.trig ++ leBytes 1 m.stake
    ++ leBytes 1 (b2n m.short + m.tq % 8 * 2) ++ leBytes 1 0 ++ leBytes 4 m.a ++ leBytes 4 m.b

/-- Bytes of a block (Tables 14.2 and 14.3). -/
def Blk.bytes (b : Blk) (n fmt : Nat) (ring : Bool) : List Byte :=
  leBytes 2 0x0CB1 ++ leBytes 1 n ++ leBytes 1 fmt ++ leBytes 4 b.seq ++ leBytes 8 b.ts ++ leBytes 4 b.interval
    ++ leBytes 2 b.samples.length ++ leBytes 1 b.marks.length ++ leBytes 1 (b.tq % 8 + b2n ring * 8 + b2n b.last * 16)
    ++ leBytes 1 b.gapCause ++ leBytes 3 0 ++ leBytes 4 b.gapCount
    ++ b.samples.flatMap (fun p => (if fmt = 1 then [] else leBytes 4 p.1) ++ leBytes 4 p.2.toNat)
    ++ b.marks.flatMap Mark.bytes

/-- A block without record `k`: what stands before it, and what stands after it with a gap of one record (R28). -/
def Blk.cut (b : Blk) (k : Nat) : List Blk :=
  let lost := ((b.samples[k]?).map (·.1)).getD b.ts
  let rest := b.samples.drop (k + 1)
  let one : Blk := { b with samples := b.samples.take k, marks := b.marks.filter (fun m => decide (m.index ≤ k)), last := false }
  let two : Blk := { b with samples := rest, ts := ((rest.head?).map (·.1)).getD lost, gapCause := 3, gapCount := 1
                            marks := (b.marks.filter (fun m => decide (k < m.index))).map (fun m => { m with index := m.index - (k + 1) }) }
  if one.samples = [] ∧ one.marks = [] ∧ one.gapCause = 0 then [two] else [one, two]

/-- Cut the block that holds record `pos` of a list of blocks. -/
def cutAt : List Blk → Nat → List Blk
  | [], _ => []
  | b :: t, pos => if pos < b.samples.length then b.cut pos ++ t else b :: cutAt t (pos - b.samples.length)

/-- Number blocks from the first one's sequence number on. -/
def renumber (bs : List Blk) : List Blk :=
  let s := ((bs.head?).map (·.seq)).getD 0
  (indexed bs).map (fun p => { p.2 with seq := (s + p.1) % 2 ^ 32 })

/-- The record at a place of a stream's memory, counted from the oldest, cannot be read: a gap of its length takes its place (R28, R304). The
blocks that have not been delivered are numbered on. -/
def Dev.capEcc (d : Dev) (n pos : Nat) : Dev :=
  let x := d.cap n
  let st := d.get Par.capState n
  let ring := x.pre ++ x.post
  if st = csArmed ∨ st = csPost then
    match ring[pos]? with
    | some p => (d.setCap n { x with rgaps := x.rgaps ++ [(p.1, 3, 1)] }).gapNote n 1
    | none => d
  else
    let all := x.closed ++ x.cur.toList
    if (all.map (fun b => b.samples.length)).sum ≤ pos then d
    else
      let bs := renumber (cutAt all pos)
      let more := bs.length - all.length
      let y := if x.cur.isSome then { x with closed := bs.dropLast, cur := bs.getLast?, seq := (x.seq + more) % 2 ^ 32 }
        else { x with closed := bs, seq := (x.seq + more) % 2 ^ 32 }
      (d.setCap n y).gapNote n 1

/-- Pass the next closed block into its capture ring while a slot is free (R307, R312). After the LAST block: DONE,
CAP_DONE, and IDLE or, with rearm AUTO, armed again at the next boundary. -/
def Dev.deliverBlock (d : Dev) (n : Nat) : Dev :=
  let x := d.cap n
  let r := 32 + n
  match x.closed with
  | [] => d
  | b :: rest =>
    let s := d.get Par.ringSession r
    if s ≥ 16 ∨ !(d.sess s).isOpen ∨ d.ringFull r ∨ d.get Par.ringState r = 2 then d
    else
      let ringMode := d.get Par.capState n == csDeliver
      let d := d.ringPut r (mkMsg 0x81 0 s 0 0 (b.bytes n (d.get Par.capFormat n) ringMode))
      let d := (d.setCap n { x with closed := rest }).inc 32 Par.capBlocks n
      if ringMode ∧ b.last then
        let d := ((d.capFlag n 3).raise evCapDone (oid 0x60 n)).capIdle n
        if d.get Par.capRearm n = 1 then d.setCap n { d.cap n with rearmNext := true } else d
      else if x.stopping ∧ rest.isEmpty then (d.capIdle n).setCap n { (d.capIdle n).cap n with restart := x.restart } else d

end Sys2Proof.Machine
end

