-- ==== Sys2Proof/Machine/Legs.lean ====
section
/-! DEFINITION. Local legs (ch. 11): effective settings, carriers and carry (R247 to R253), edges, trips with the stop of a
port (R257, R239), refresh (R259), the osier lines (R254, R255). -/

namespace Sys2Proof.Machine

/-- Leg record. -/
def Dev.leg (d : Dev) (n : Nat) : LegRt := d.legs.get (fun _ => {}) n
/-- Store a leg record. -/
def Dev.setLeg (d : Dev) (n : Nat) (x : LegRt) : Dev := { d with legs := d.legs.set (fun _ => {}) n x }
/-- Port record. -/
def Dev.port (d : Dev) (n : Nat) : PortRt := d.ports.get (fun _ => {}) n
/-- Store a port record. -/
def Dev.setPort (d : Dev) (n : Nat) (x : PortRt) : Dev := { d with ports := d.ports.set (fun _ => {}) n x }

/-- Flags byte of the present converter-mode state (R68); 0 before the engine has entered one. -/
def Dev.modeFlags (d : Dev) : Nat :=
  match d.mode.state with
  | some s => d.imgN tsMode false (0x40 + 32 * s + 1) 1 % 16
  | none => 0
/-- CELLS_RUN of the present state. -/
def Dev.cellsRun (d : Dev) : Bool := bit d.modeFlags 0
/-- LEGS_RUN of the present state. -/
def Dev.legsRun (d : Dev) : Bool := bit d.modeFlags 1

/-- Leg states (Table 11.6). -/
abbrev lsOff : Nat := 0
/-- See `lsOff`. -/
abbrev lsRun : Nat := 1
/-- See `lsOff`. -/
abbrev lsHold : Nat := 2
/-- See `lsOff`. -/
abbrev lsTripped : Nat := 3

/-- Port states (Table 10.4). -/
abbrev psOff : Nat := 0
/-- See `psOff`. -/
abbrev psTrack : Nat := 1
/-- See `psOff`. -/
abbrev psOpen : Nat := 2
/-- See `psOff`. -/
abbrev psRun : Nat := 3
/-- See `psOff`. -/
abbrev psFault : Nat := 4
/-- See `psOff`. -/
abbrev psLocked : Nat := 5

/-- Legs of a port in use, leading leg first. -/
def Dev.portLegs (d : Dev) (p : Nat) : List Nat :=
  if d.get Par.portTopology p = 0 then []
  else [d.get Par.portLegA p, d.get Par.portLegB p].filter (fun n => decide (n < 40))

/-- The leg's role: PORT while a port in use names it, else the value written (R245). -/
def Dev.legRole (d : Dev) (n : Nat) : Nat := if (d.portOfLeg n).isSome then 3 else d.get Par.legRole n

/-- Duty input as the topology drives it (Table 10.1). -/
def Dev.legDutyIn (d : Dev) (n : Nat) : F32 := BitVec.ofNat 32 (d.legSet Par.legDuty n)

/-- Some routed window of the leg is tripped (R274). -/
def Dev.legWindow (d : Dev) (n : Nat) : Bool :=
  (List.range 64).any (fun w => d.isOn Par.winTripped w && bit (d.get Par.winRouteLeg w) n)

/-- Causes of Table 11.4 present at the inputs of a leg: FLT, WINDOW, RDY. -/
def Dev.legInputs (d : Dev) (n : Nat) : Nat :=
  let x := d.leg n
  b2n x.flt + 2 * b2n (d.legWindow n) + 4 * b2n (x.rdyLow && d.isOn Par.legRdyUse n)

/-- Events of the group. -/
abbrev evPortTrip : Nat := 112
/-- See `evPortTrip`. -/
abbrev evPortLocked : Nat := 113
/-- See `evPortTrip`. -/
abbrev evPortConfig : Nat := 114
/-- See `evPortTrip`. -/
abbrev evPortVocInvalid : Nat := 115
/-- See `evPortTrip`. -/
abbrev evBurstTruncated : Nat := 116
/-- See `evPortTrip`. -/
abbrev evChopOverload : Nat := 117
/-- See `evPortTrip`. -/
abbrev evLegTrip : Nat := 118
/-- See `evPortTrip`. -/
abbrev evOsierCalFail : Nat := 119

/-- Both gates low, no edge pending, carry 0: the exit from RUN or HOLD (R246, R257). -/
def LegRt.stop (x : LegRt) : LegRt :=
  { x with hs := false, ls := false, cmdH := false, cmdL := false, edges := [], carry := 0, carryIn := 0, varStart := none,
           termHeld := false, refreshDue := false, wait := .none, running := false, seqEnd := 0 }

/-- Put a leg into a state that is not RUN, gates low. -/
def Dev.legStop (d : Dev) (n st : Nat) : Dev :=
  ((d.setLeg n (d.leg n).stop).put Par.legState n st).putF Par.legCarry n f0

/-- Trip one leg that is in RUN or HOLD with a cause of Table 11.4 (R257). -/
def Dev.tripOne (d : Dev) (n cause : Nat) : Dev :=
  let st := d.get Par.legState n
  if st = lsRun ∨ st = lsHold then
    let d := (d.legStop n lsTripped).putBit Par.legTripCause n cause true
    let d := (d.put Par.legTripTime n (d.now - d.now % 16)).inc 32 Par.legTrips n
    d.raise evLegTrip (oid 0x31 n) (d.get Par.legTripCause n)
  else d

/-- A burst in progress ends at once with result ABORTED when its port leaves RUN (R238). -/
def Dev.burstKill (d : Dev) (p : Nat) : Dev :=
  if d.get Par.portBurstState p = 0 then d
  else
    let d := d.setPort p { d.port p with pBurst := f0 }
    (d.put Par.portBurstState p 0).put Par.portBurstResult p 6

/-- Stop a port whose legs `which` have tripped in this tick (R239): the other leg trips with cause PORT, the port enters
FAULT; with both legs in one tick it enters LOCKED. -/
def Dev.portStop (d : Dev) (p : Nat) (which : List Nat) (cause : Nat) : Dev :=
  let legs := d.portLegs p
  let both := which.length ≥ 2
  let d := d.forL legs (fun d n => if which.contains n then d else d.tripOne n 3)
  let d := d.burstKill p
  let d := d.setPort p { d.port p with tripTick := some (d.now / 16), chosen := false, holdNext := none
                                       opening := false, openV := [], openN := 0, ditherN := none }
  let d := d.put Par.portState p (if both then psLocked else psFault)
  let d := d.inc 32 Par.portTrips p (if both then 2 else 1)
  let d := d.raise evPortTrip (oid 0x30 p) (2 ^ cause)
  let d := if both then d.raise evPortLocked (oid 0x30 p) else d
  let c := d.get Par.portCtx p
  if c < 128 then (d.putF Par.ctxRef0 c f0).putF Par.ctxRef1 c f0 else d

/-- Legs trip in one tick with one cause: each trips, and the port of each stops. A leg that the trip of its partner took down
in this same tick counts as tripped with it (R239). -/
def Dev.tripLegs (d : Dev) (ns : List Nat) (cause : Nat) : Dev :=
  let live := ns.filter (fun n => d.get Par.legState n == lsRun || d.get Par.legState n == lsHold)
  let second := ns.filter (fun n => d.get Par.legState n == lsTripped && d.get Par.legTripCause n == 8
    && d.get Par.legTripTime n / 16 == d.now / 16)
  let portsHit := (List.range 32).filter (fun p => (d.portLegs p).any (fun n => live.contains n))
  let d := d.forL live (fun d n => d.tripOne n cause)
  let d := d.forL portsHit (fun d p => d.portStop p ((d.portLegs p).filter (fun n => live.contains n)) cause)
  d.forL second (fun d n =>
    match d.portOfLeg n with
    | none => d
    | some p =>
      if d.get Par.portState p = psFault then
        let d := (d.putBit Par.legTripCause n cause true).put Par.portState p psLocked
        (d.inc 32 Par.portTrips p).raise evPortLocked (oid 0x30 p)
      else d)

/-- Every local leg. -/
def allLegs : List Nat := List.range 40

/-! ## Osier lines (R254, R255) -/

/-- Line that serves a pin (2n high, 2n + 1 low). -/
def Dev.lineOf (d : Dev) (pin : Nat) : Nat := d.osier.lineOf.get (fun p => p) pin
/-- The pin's line failed its last calibration: edges at the nearest tick. -/
def Dev.coarse (d : Dev) (pin : Nat) : Bool := d.osier.failed.contains (d.lineOf pin)

/-- Nearest multiple of 16, ties to even (R255). -/
def nearestTick (t : Nat) : Nat :=
  let q := t / 16
  let r := t % 16
  if r > 8 ∨ (r = 8 ∧ q % 2 = 1) then (q + 1) * 16 else q * 16

/-- Place an edge of a pin: at a fine tick, or at the nearest tick while its line is COARSE. -/
def Dev.place (d : Dev) (pin t : Nat) : Nat := if d.coarse pin then nearestTick t else t

/-! ## Periods (R247 to R253, R259) -/

/-- Fine ticks of a time in nanoseconds held in binary32, rounded to nearest with ties to even. -/
def fineOfNsF (x : F32) : Int := dround (dmul (dof x) (drat 32 5))

/-- Main interval of a period under the carry rule of R253, in fine ticks and binary64: `want` is duty × P or the controlled time, `p` the cap.
Gives the emitted interval rounded to the nearest fine tick (R248), the carry out, whether the carry was capped and whether an interval was
dropped. -/
def carryRule (want carry : F64) (p dtMain dtComp minPulse : Nat) : Nat × F64 × Bool × Bool :=
  let h0 := dadd want carry
  let h := if dlt (dint p) h0 then dint p else if dlt h0 d0 then d0 else h0
  let hOut := if dlt d0 h ∧ dlt h (dint (dtMain + minPulse : Nat)) then d0
    else if dlt h (dint p) ∧ dlt (dsub (dint p) h) (dint (dtComp + minPulse : Nat)) then dint p else h
  ((dround hOut).toNat, dsub h hOut, dlt (dint p) h0 || dlt h0 d0, !(dle h hOut && dle hOut h))

/-- A commanded change: instant, high-side and low-side role signals. -/
abbrev Cmd := Nat × Bool × Bool

/-- Role signals of a command: main is the low side with invert (R247). -/
def Dev.roles (d : Dev) (n : Nat) (c : Bool × Bool) : Bool × Bool := if d.isOn Par.legInvert n then (c.2, c.1) else c

/-- Edges in the making: the edges, the commanded levels, whether the gates still wait for the first commanded change (R258), and turn-ons cut before
they came. -/
structure LegOut where
  edges : List LegEdge
  hi : Bool
  lo : Bool
  wait : Bool := false
  cuts : Nat := 0
deriving DecidableEq, Repr

/-- A commanded change becomes edges with dead time (R252): a switch that turns on as the other turns off waits dt_rise or dt_fall. A turn-on still
pending in its dead time when its switch is commanded off does not come (DESIGN CHOICE, log entry 74). A main turn-off carries CMP (R260). -/
def Dev.emit1 (d : Dev) (n : Nat) (s : LegOut) (c : Cmd) : LegOut :=
  let t := c.1
  let r := c.2
  if r = (s.hi, s.lo) then s
  else
    let lateH := fun (e : LegEdge) => e.hi == some true && decide (t < e.at') && !r.1
    let lateL := fun (e : LegEdge) => e.lo == some true && decide (t < e.at') && !r.2
    let offH := !s.wait && s.hi && !r.1 && !(s.edges.any lateH)
    let offL := !s.wait && s.lo && !r.2 && !(s.edges.any lateL)
    let inv := d.isOn Par.legInvert n
    let dtr := if offL then d.get Par.legDtRise n else 0
    let dtf := if offH then d.get Par.legDtFall n else 0
    let es : List LegEdge :=
      (if offH then [{ at' := d.place (2 * n) t, src := t, hi := some false, cmp := !inv }] else [])
      ++ (if offL then [{ at' := d.place (2 * n + 1) t, src := t, lo := some false, cmp := inv }] else [])
      ++ (if r.1 && (!s.hi || s.wait) then [{ at' := d.place (2 * n) (t + dtr), src := t, hi := some true }] else [])
      ++ (if r.2 && (!s.lo || s.wait) then [{ at' := d.place (2 * n + 1) (t + dtf), src := t, lo := some true }] else [])
    { edges := s.edges.filter (fun e => !(lateH e || lateL e)) ++ es, hi := r.1, lo := r.2, wait := false
      cuts := s.cuts + (s.edges.filter (fun e => lateH e || lateL e)).length }

/-- A run of commanded changes in the order of their instants. -/
def Dev.emit (d : Dev) (n : Nat) (cs : List Cmd) (s : LegOut) : LegOut := cs.foldl (d.emit1 n) s

/-- Sort edges by instant, keeping the order of equals. -/
def sortEdges (es : List LegEdge) : List LegEdge := sortBy (fun a b => decide (a.at' < b.at')) es

/-- The state that a plan of changes gives at an instant. -/
def stateAt (cs : List Cmd) (before : Bool × Bool) (t : Nat) : Bool × Bool := ((cs.filter (fun c => decide (c.1 ≤ t))).getLast?.map (·.2)).getD before

/-- Override a plan from `s` to `e` by changes of its own; from `e` on the plan stands again, and its changes inside leave no trace (R259). -/
def overridden (cs : List Cmd) (before : Bool × Bool) (s e : Nat) (mid : List Cmd) : List Cmd :=
  cs.filter (fun c => decide (c.1 < s)) ++ mid ++ [(e, stateAt cs before e)] ++ cs.filter (fun c => decide (e < c.1))

/-- Force a refresh into a plan at `s` (R259): high side off, low side on after dt_fall for refresh_pulse; a low side that is on already stays on. -/
def Dev.refreshInto (d : Dev) (n s : Nat) (cs : List Cmd) (before : Bool × Bool) : List Cmd × Nat :=
  let on := s + d.get Par.legDtFall n
  let e := on + fineNs (d.get Par.legRefreshPulse n)
  let was := (stateAt (cs.filter (fun c => decide (c.1 < s))) before s).2
  (overridden cs before s e [(s, false, was), (on, false, true)], e)

/-- Count one carrier event of a kind under its prescaler (R260). -/
def Dev.legEvent (d : Dev) (n kind ts : Nat) : Dev :=
  let x := d.leg n
  let (p, k) := if kind = 0 then (d.get Par.legEvZeroDiv n, x.evZero)
    else if kind = 1 then (d.get Par.legEvPeriodDiv n, x.evPeriod) else (d.get Par.legEvCmpDiv n, x.evCmp)
  if p = 0 then d
  else
    let k' := (k + 1) % p
    let d := d.setLeg n (if kind = 0 then { x with evZero := k' } else if kind = 1 then { x with evPeriod := k' }
      else { x with evCmp := k' })
    if k' = 0 then d.carrierEvent n kind ts else d

/-- Carrier codes (Table 11.2). -/
abbrev cTri : Nat := 0
/-- See `cTri`. -/
abbrev cSaw : Nat := 1
/-- See `cTri`. -/
abbrev cCot : Nat := 2
/-- See `cTri`. -/
abbrev cCft : Nat := 3
/-- See `cTri`. -/
abbrev cPs : Nat := 4

/-- Dead times before the main switch's and the complement's turn-on (R253). -/
def Dev.legDts (d : Dev) (n : Nat) : Nat × Nat :=
  if d.isOn Par.legComp n then
    (if d.isOn Par.legInvert n then (d.get Par.legDtFall n, d.get Par.legDtRise n)
     else (d.get Par.legDtRise n, d.get Par.legDtFall n))
  else (0, 0)

/-- A carrier whose period has a variable interval. -/
def isVari (car : Nat) : Bool := car == cCot || car == cCft

/-- Commanded changes of a period, main switch and complement by their offsets (Table 11.2): `h` is the main interval, or with COT and CFT the
controlled one, whose drop or cap leaves the main switch off, or on, for the whole period (R253). -/
def planOf (car h p : Nat) (comp : Bool) : List (Nat × Bool × Bool) :=
  let on := (true, false)
  let off := (false, comp)
  if car = cTri then
    if h = 0 then [(0, off)] else if h = p then [(0, on)]
    else [(0, off), ((dround (drat ((p : Int) - h) 2)).toNat, on), ((dround (drat ((p : Int) + h) 2)).toNat, off)]
  else if car = cCft then (if h = 0 then [(0, on)] else if h = p then [(0, off)] else [(0, off), (h, on)])
  else if h = 0 then [(0, off)] else if h = p then [(0, on)] else [(0, on), (h, off)]

/-- The period of a leg's carrier in fine ticks; with COT and CFT the cap of R253. -/
def Dev.legP (d : Dev) (n : Nat) : Nat :=
  if isVari (d.legSet Par.legCarrier n) then fineNs (d.get Par.legTVarMax n) else d.legSet Par.legPeriod n

/-- The interval that the latched set-points give with a carry (R248, R253). -/
def Dev.legInterval (d : Dev) (n : Nat) (carry : F64) : Nat × F64 × Bool × Bool :=
  let x := d.leg n
  let car := d.legSet Par.legCarrier n
  let dts := d.legDts n
  let want := if isVari car then dmul (dof x.tCtrl) (drat 32 5)
    else dmul (dof (if car = cPs then 0x3F000000 else x.duty)) (dint (d.legP n))
  let cft := car = cCft
  carryRule want carry (d.legP n) (if cft then dts.2 else dts.1) (if cft then dts.1 else dts.2) (d.get Par.legMinPulse n)

/-- The commanded changes of the period that starts at `z`, as role signals. -/
def Dev.legPlan (d : Dev) (n z h : Nat) : List Cmd :=
  (planOf (d.legSet Par.legCarrier n) h (d.legP n) (d.isOn Par.legComp n)).map (fun c => (z + c.1, d.roles n c.2))

/-- Offset of the zeros of a leg's carrier in weave time (R249): its phase, after that of the leg it follows; `k` bounds the chain. -/
def Dev.zeroOff (d : Dev) : Nat → Nat → Nat
  | 0, n => d.legSet Par.legPhase n
  | k + 1, n =>
    let s := d.legSet Par.legSyncLeg n
    d.legSet Par.legPhase n + (if s < 40 then d.zeroOff k s else 0)

/-- The last zero of a fixed carrier at or before a weave time (R249). -/
def Dev.lastZero (d : Dev) (n t : Nat) : Nat :=
  let p := d.legSet Par.legPeriod n
  t - (t + p - d.zeroOff 2 n % p) % p

/-- Where the period that an update point at `t` starts lies (R248 to R250): for a fixed carrier at its last zero, for PS shift × P after the zero of
sync_leg, for COT and CFT at `t`. -/
def Dev.legZero (d : Dev) (n t : Nat) : Nat :=
  let car := d.legSet Par.legCarrier n
  let s := d.legSet Par.legSyncLeg n
  if isVari car then t
  else if car = cPs then
    (if s < 40 then d.lastZero s t + d.legSet Par.legPhase n else d.lastZero n t)
      + (dround (dmul (dof (d.leg n).shift) (dint (d.legP n)))).toNat
  else d.lastZero n t

/-- Before a PS period at `z` (R251): where a change of shift leaves the off interval shorter than R253 admits and its turn-off has not come yet, the
interval is dropped and the main switch stays on. Gives the record and whether it was dropped. -/
def Dev.psShorten (d : Dev) (n z : Nat) : LegRt × Bool :=
  let x := d.leg n
  let p := d.legP n
  let offAt := x.zero + (dround (drat p 2)).toNat
  if d.legSet Par.legCarrier n = cPs ∧ x.running = true ∧ d.now ≤ offAt ∧ x.edges.any (fun e => e.src == offAt) = true
      ∧ z < offAt + (d.legDts n).2 + d.get Par.legMinPulse n then
    let on := d.roles n (true, false)
    ({ x with edges := x.edges.filter (fun e => e.src != offAt), cmdH := on.1, cmdL := on.2 }, true)
  else (x, false)

/-- Emit a plan from `z` on over the edges that commands before `z` left, with a refresh that is in progress or due (R259): the first zero takes it,
or with COT and CFT the start of the next interval with the high side off. Gives the record and the number of turn-ons cut. -/
def Dev.legEmit (d : Dev) (n z : Nat) (x : LegRt) (cs : List Cmd) (wait : Bool) : LegRt × Nat × Bool :=
  let before := (x.cmdH, x.cmdL)
  let s := if !x.refreshDue then none
    else if isVari (d.legSet Par.legCarrier n) then (cs.find? (fun c => !c.2.1)).map (·.1) else some z
  let out : LegOut := { edges := x.edges.filter (fun e => decide (e.src < z)), hi := x.cmdH, lo := x.cmdL, wait := wait }
  let (cs, out, e, forced) :=
    if z < x.seqEnd then
      (overridden (cs.filter (fun c => decide (x.seqEnd ≤ c.1))) (stateAt cs before x.seqEnd) z x.seqEnd [],
       { out with edges := x.edges.filter (fun e => decide (e.src < x.seqEnd)), hi := false, lo := true }, x.seqEnd, false)
    else match s with
      | some s => let r := d.refreshInto n s cs before; (r.1, out, r.2, true)
      | none => (cs, out, 0, false)
  let o := d.emit n cs out
  ({ x with edges := sortEdges o.edges, cmdH := o.hi, cmdL := o.lo, wait := if o.wait then .inputEdge else .none, seqEnd := e,
            refreshDue := x.refreshDue && !forced }, o.cuts, forced)

/-- The edges of the period that starts at `z`: the record with them, the turn-ons cut, and whether a refresh was forced. After a clear the commanded
state before the zero is that of a carrier that has run (R258). -/
def Dev.legFrom (d : Dev) (n z : Nat) : LegRt × Nat × Bool :=
  let x := (d.psShorten n z).1
  let cs := d.legPlan n z (d.legInterval n x.carry).1
  let lv := if !x.running && x.wait == .inputEdge then stateAt cs (false, false) (z + d.legP n) else (x.cmdH, x.cmdL)
  d.legEmit n z { x with cmdH := lv.1, cmdL := lv.2 } cs (x.wait == .inputEdge)

/-- Start the period of a leg whose zero or period start is `z` with the latched set-points (R248, R251, R253, R259). -/
def Dev.legPeriod (d : Dev) (n z : Nat) : Dev :=
  let car := d.legSet Par.legCarrier n
  let p := d.legP n
  let first := !(d.leg n).running
  let ps := d.psShorten n z
  let x := ps.1
  let r := d.legInterval n x.carry
  let o := d.legFrom n z
  let marks : List LegEdge := if car = cTri then [{ at' := z + (dround (drat p 2)).toNat, src := z, peak := true }]
    else if car = cPs then [{ at' := z, src := z, zero := true }] else []
  let d := d.setLeg n { o.1 with
    carry := r.2.1, carryIn := x.carry, zero := z, running := true, termHeld := false, edges := sortEdges (o.1.edges ++ marks)
    varStart := if isVari car then some (z + r.1) else none }
  let d := d.putF Par.legCarry n (fofd r.2.1)
  let d := if r.2.2.1 then d.inc 32 Par.legCarryDiscards n else d
  let drops := b2n r.2.2.2 + b2n ps.2 + o.2.1
  let d := if drops = 0 then d else d.inc 32 Par.legPulsesDropped n drops
  let d := if o.2.2 then d.inc 32 Par.legRefreshes n else d
  let d := (d.putBit Par.legStatus n 2 (r.2.1 != d0)).putBit Par.legStatus n 3 o.2.2
  if car = cPs then d
  else
    let d := d.legEvent n 0 z
    if car = cTri ∨ first then d else d.legEvent n 1 z

/-- The second half of a TRI period with update = BOTH takes the value latched at the peak (R248, R251): each half counts half of its own carry rule
(DESIGN CHOICE, log entry 75). An entering leg starts here (R246). -/
def Dev.legPeak (d : Dev) (n : Nat) : Dev :=
  let x := d.leg n
  let p := d.legP n
  let z := d.lastZero n d.now
  let pk := z + (dround (drat p 2)).toNat
  let fresh := !x.running
  if !fresh && x.zero != z then d
  else
    let r := d.legInterval n (if fresh then d0 else x.carryIn)
    let off := d.roles n (false, d.isOn Par.legComp n)
    let on := d.roles n (true, false)
    let cs : List Cmd := if r.1 = 0 then [(pk, off)] else if r.1 = p then [(pk, on)]
      else [(pk, on), (z + (dround (drat ((p : Int) + r.1) 2)).toNat, off)]
    let y := { x with refreshDue := false }
    let o := d.legEmit n pk y cs (x.wait == .inputEdge)
    let carry := if fresh then r.2.1 else ddiv (dadd x.carry r.2.1) (dint 2)
    let d := d.setLeg n { o.1 with refreshDue := x.refreshDue, carry := carry, zero := z, running := true }
    let d := (d.putF Par.legCarry n (fofd carry)).putBit Par.legStatus n 2 (carry != d0)
    if o.2.1 = 0 then d else d.inc 32 Par.legPulsesDropped n o.2.1

/-- An update point of a leg (R246, R251). A leg in RUN past the window end of its entry beat starts a period at its zero, once; at the peak of TRI
with update = BOTH the second half follows the value latched last. In HOLD the carrier runs on with the gates low. -/
def Dev.legUpdate (d : Dev) (n : Nat) (peak : Bool) : Dev :=
  let x := d.leg n
  let st := d.get Par.legState n
  let z := d.legZero n d.now
  if st = lsHold then
    (if peak then d else d.setLeg n { x with zero := z, varStart := if isVari (d.legSet Par.legCarrier n) then some (z + (d.legInterval n d0).1) else none })
  else if st ≠ lsRun ∨ x.wait = .windowEnd then d
  else if peak then (if d.legSet Par.legCarrier n = cTri ∧ d.get Par.legUpdate n = 1 then d.legPeak n else d)
  else if x.running = true ∧ x.zero = z then d
  else d.legPeriod n z

/-- End the variable interval of a COT or CFT leg at `t` (R250): the next period starts, with the gates low in HOLD. -/
def Dev.legVarEnd (d : Dev) (n t : Nat) : Dev :=
  let d := d.setLeg n { d.leg n with varStart := none, termHeld := false }
  if d.get Par.legState n = lsRun then d.legPeriod n t
  else if d.get Par.legState n = lsHold then d.setLeg n { d.leg n with zero := t, varStart := some (t + (d.legInterval n d0).1) }
  else d

/-- The earliest end of the variable interval that starts at `v`: t_var_min, and the end of a refresh that is in progress (R250, R259). -/
def Dev.varFloor (d : Dev) (n v : Nat) : Nat := max (v + fineNs (d.get Par.legTVarMin n)) (d.leg n).seqEnd

/-- A termination of the variable interval (R250): it ends it at the first tick from the change on, of the 2 that R250 admits (DESIGN CHOICE, log
entry 78), or is held until it may end. -/
def Dev.legTerminate (d : Dev) (n : Nat) : Dev :=
  let x := d.leg n
  let tick := (d.now + 15) / 16 * 16
  match x.varStart with
  | some v =>
    if d.now < v then d
    else if d.varFloor n v ≤ tick then d.legVarEnd n tick
    else d.setLeg n { x with termHeld := true }
  | none => d

/-- Apply the earliest placed edge of a leg (R252): signals change; a main turn-off emits CMP, the peak PERIOD, a PS zero
both ZERO and PERIOD (R260). -/
def Dev.legEdge (d : Dev) (n : Nat) : Dev :=
  let x := d.leg n
  match x.edges with
  | [] => d
  | e :: rest =>
    if d.get Par.legState n ≠ lsRun then d
    else
      let d := d.setLeg n { x with edges := rest, hs := e.hi.getD x.hs, ls := e.lo.getD x.ls }
      let d := if e.cmp then d.legEvent n 2 e.at' else d
      let d := if e.zero then (d.legEvent n 0 e.at').legEvent n 1 e.at' else d
      if e.peak then d.legEvent n 1 e.at' else d

/-- Latch the set-point inputs of a leg at a window end (R251), clamped to range; the chopper limit of R242 applies. -/
def Dev.legLatch (d : Dev) (n : Nat) : Dev :=
  let x := d.leg n
  let cl := fun (hi v : F32) => if fisNaN v then f0 else fclamp f0 hi v
  let du := cl f1 (d.legDutyIn n)
  let du := match (if d.legRole n = 2 then x.dutyLimit else none) with
    | some l => fmin du l
    | none => du
  let w := if x.wait = .windowEnd then LegWait.updatePoint else x.wait
  d.setLeg n { x with duty := du, tCtrl := cl 0x4A1EB100 (d.getF Par.legTCtrl n), shift := cl 0x3F000000 (d.getF Par.legShift n), wait := w }

/-- After a clear the leg follows from the first change of the modulator's commanded state (R258): those of the running period of a fixed carrier
that are still to come are placed. -/
def Dev.legResume (d : Dev) (n : Nat) : Dev :=
  let x := d.leg n
  let p := d.legP n
  let z0 := d.legZero n d.now
  let z := if d.now < z0 then z0 - p else z0
  if isVari (d.legSet Par.legCarrier n) then d
  else
    let cs := d.legPlan n z (d.legInterval n d0).1
    let lv := stateAt cs (false, false) d.now
    let o := d.legEmit n (d.now + 1) { x with cmdH := lv.1, cmdL := lv.2 } (cs.filter (fun c => decide (d.now < c.1))) true
    let pk := z + (dround (drat p 2)).toNat
    let marks : List LegEdge := if d.legSet Par.legCarrier n = cTri ∧ d.now < pk then [{ at' := pk, src := z, peak := true }] else []
    d.setLeg n { o.1 with zero := z, running := true, edges := sortEdges (o.1.edges ++ marks) }

/-- Enter RUN (or HOLD for an opening port, gates low): wait says what the gates wait for; carrier events count from here
(R260); a cause already satisfied trips at once (R257, R274). -/
def Dev.legEnter (d : Dev) (n : Nat) (w : LegWait) (hold : Bool) : Dev :=
  let x := (d.leg n).stop
  let d := d.setLeg n { x with wait := w, evZero := 0, evPeriod := 0, evCmp := 0 }
  let d := (d.put Par.legState n (if hold then lsHold else lsRun)).putBit Par.legStatus n 0 false
  let c := d.legInputs n
  if c = 0 then (if w = .inputEdge ∧ !hold then d.legResume n else d)
  else d.tripLegs [n] (if bit c 0 then 0 else if bit c 1 then 1 else 2)

/-- The ready condition of R256. -/
def Dev.legReady (d : Dev) (n : Nat) : Bool := !(d.isOn Par.legRdyUse n) || (d.leg n).rdy

/-- Leg states at a beat boundary (R246, R256): without LEGS_RUN every leg in RUN or HOLD goes OFF, gates low; with it a leg in
OFF with a role, whose port (if any) tracks, opens or runs, enters RUN, or HOLD while its port has no valid Voc. -/
def Dev.legBoundary (d : Dev) (n : Nat) : Dev :=
  let st := d.get Par.legState n
  if !d.legsRun then
    let d := if st = lsRun ∨ st = lsHold then d.legStop n lsOff else d
    d.putBit Par.legStatus n 0 false
  else if st = lsOff ∧ d.legRole n ≠ 0 then
    match d.portOfLeg n with
    | some p =>
      let ps := d.get Par.portState p
      if ps = psTrack ∨ ps = psRun ∨ ps = psOpen then
        if d.legReady n then d.legEnter n .windowEnd (d.get Par.portKind p == 0 && !(d.port p).vocOk)
        else d.putBit Par.legStatus n 0 true
      else d
    | none => if d.legReady n then d.legEnter n .windowEnd false else d.putBit Par.legStatus n 0 true
  else d

/-- Leave TRIPPED after an accepted clear (R258): RUN with LEGS_RUN, gates low until the next commanded input edge, else OFF.
An active input leaves the leg TRIPPED. -/
def Dev.legClear (d : Dev) (n : Nat) : Dev :=
  if d.get Par.legState n ≠ lsTripped ∨ d.legInputs n ≠ 0 then d
  else
    let d := d.put Par.legTripCause n 0
    if d.legsRun ∧ d.legRole n ≠ 0 then d.legEnter n .inputEdge false else d.put Par.legState n lsOff

/-- Judge a write of 1 to LEG.n/clear (R258). -/
def Dev.judgeLegClear (d : Dev) (n : Nat) : Nat :=
  if (d.portOfLeg n).isSome then stBadState
  else if d.get Par.legState n = lsTripped ∧
      (d.legInputs n ≠ 0 ∨ d.get Par.legTripTime n / 16 = d.now / 16) then stTripActive
  else stOk

/-- Calibrate the spare line (R254, R255) with a 16-tap span in thousandths of a tick, and swap it in for the pin next in turn. -/
def Dev.osierCal (d : Dev) (span : Nat) : Dev :=
  let o := d.osier
  let bad := decide (span < 900 ∨ 1100 < span)
  let pin := o.nextPin
  let old := d.lineOf pin
  let failed := o.failed.filter (· != o.spare) ++ (if bad then [o.spare] else [])
  let d := { d with osier := { lineOf := o.lineOf.set (fun p => p) pin o.spare, spare := old, nextPin := (pin + 1) % 80, failed := failed } }
  let d := if bad then d.raise evOsierCalFail (oid 0x31 (pin / 2)) else d
  d.forN 40 (fun d n => d.putBit Par.legStatus n 1 (d.coarse (2 * n) || d.coarse (2 * n + 1)))

end Sys2Proof.Machine
end

