-- ==== Sys2Proof/Machine/Loop.lean ====
section
/-! DEFINITION. The loop engine (ch. 7): descriptors, one execution (R163 to R168), cost and admission (R172 to R174), overruns
and fallback (R175 to R177). -/

namespace Sys2Proof.Machine

/-- Context record. -/
def Dev.ctx (d : Dev) (n : Nat) : CtxRt := d.ctxs.get (fun _ => {}) n
/-- Store a context record. -/
def Dev.setCtx (d : Dev) (n : Nat) (x : CtxRt) : Dev := { d with ctxs := d.ctxs.set (fun _ => {}) n x }

/-- Cell record. -/
def Dev.cell (d : Dev) (c : Nat) : CellRt := d.cells.get (fun _ => {}) c
/-- Store a cell record. -/
def Dev.setCell (d : Dev) (c : Nat) (x : CellRt) : Dev := { d with cells := d.cells.set (fun _ => {}) c x }
/-- Arm record. -/
def Dev.arm (d : Dev) (j : Nat) : ArmRt := d.arms.get (fun _ => {}) j
/-- Store an arm record. -/
def Dev.setArm (d : Dev) (j : Nat) (x : ArmRt) : Dev := { d with arms := d.arms.set (fun _ => {}) j x }

/-- Context states (Table 7.8). -/
abbrev xsStopped : Nat := 0
/-- See `xsStopped`. -/
abbrev xsRun : Nat := 1
/-- See `xsStopped`. -/
abbrev xsFallback : Nat := 2

/-- Overrun causes (Table 7.8). -/
abbrev ocDeadline : Nat := 1
/-- See `ocDeadline`. -/
abbrev ocInput : Nat := 2
/-- See `ocDeadline`. -/
abbrev ocNumeric : Nat := 3

/-- Events of the group. -/
abbrev evCtxOverrun : Nat := 80
/-- See `evCtxOverrun`. -/
abbrev evCtxFallback : Nat := 81
/-- See `evCtxOverrun`. -/
abbrev evCtxStaleInput : Nat := 82
/-- See `evCtxOverrun`. -/
abbrev evCtxSyncLost : Nat := 83

/-! ## Descriptor fields (Tables 7.1, 7.2, 7.4) -/

/-- An input slot (Table 7.2). -/
structure InSlot where
  obj : Nat
  sel : Nat
  kind : Nat
  strict : Bool
  scale : F32
deriving DecidableEq, Repr

/-- Read an input slot. -/
def Dev.inSlot (d : Dev) (sh : Bool) (n i : Nat) : InSlot :=
  let o := 0x40 + 12 * i
  { obj := d.desc sh n o 4, sel := d.desc sh n (o + 4) 2, kind := d.desc sh n (o + 6) 1,
    strict := bit (d.desc sh n (o + 7) 1) 0, scale := d.imgF tsCtx sh (4032 * n + o + 8) }

/-- An output slot (Table 7.4). -/
structure OutSlot where
  obj : Nat
  sel : Nat
  kind : Nat
  dyn : Bool
  lo : F32
  hi : F32
  fallback : F32
  limSlot : Nat
deriving DecidableEq, Repr

/-- Read an output slot. -/
def Dev.outSlot (d : Dev) (sh : Bool) (n i : Nat) : OutSlot :=
  let o := 0x100 + 24 * i
  let b := 4032 * n + o
  { obj := d.desc sh n o 4, sel := d.desc sh n (o + 4) 2, kind := d.desc sh n (o + 6) 1,
    dyn := bit (d.desc sh n (o + 7) 1) 0, lo := d.imgF tsCtx sh (b + 8), hi := d.imgF tsCtx sh (b + 12),
    fallback := d.imgF tsCtx sh (b + 16), limSlot := d.desc sh n (o + 20) 1 }

/-- Entry of M_x (Table 7.5). -/
def Dev.mx (d : Dev) (sh : Bool) (n i c : Nat) : F32 := d.imgF tsCtx sh (4032 * n + 0x1C0 + 160 * i + 4 * c)
/-- Entry of M_u. -/
def Dev.mu (d : Dev) (sh : Bool) (n o c : Nat) : F32 := d.imgF tsCtx sh (4032 * n + 0xBC0 + 128 * o + 4 * c)

/-- The fallback vector. -/
def Dev.fallbackVec (d : Dev) (n : Nat) : List F32 := (List.range (d.cM false n)).map (fun o => (d.outSlot false n o).fallback)

/-- A context is local: a slot of kind ADC or SDI (R159). -/
def Dev.cLocal (d : Dev) (sh : Bool) (n : Nat) : Bool :=
  (List.range (d.cW sh n)).any (fun i => let k := (d.inSlot sh n i).kind; k == 3 || k == 4)

/-- A vref writer: an output to an ARM.j/vref (R173). -/
def Dev.cVref (d : Dev) (sh : Bool) (n : Nat) : Bool :=
  (List.range (d.cM sh n)).any (fun o => let s := d.outSlot sh n o
    s.kind == 1 && s.obj / 16777216 == 0x12 && s.sel == 7)

/-- Window bound C in cycles (R173). -/
def boundC (window : Nat) : Nat := window * 5 / 2
/-- Scheduler bound D in cycles (R173). -/
def boundD (window : Nat) : Nat := (window - window * 15 / 100) * 5 / 2

/-- Set-point inputs of R25 that a PARAM destination may name: ARM vref, CTX ref0 to ref7, LEG duty, t_ctrl, shift, PORT
p_limit, p_set, burst_req. -/
def setPoints : List Par :=
  [Par.armVref, Par.ctxRef0, Par.ctxRef1, Par.ctxRef2, Par.ctxRef3, Par.ctxRef4, Par.ctxRef5, Par.ctxRef6, Par.ctxRef7,
   Par.legDuty, Par.legTCtrl, Par.legShift, Par.portPLimit, Par.portPSet, Par.portBurstReq]

/-- REF parameter of a context. -/
def refPar (k : Nat) : Par := ⟨0x20, Par.ctxRef0.idx + k % 8⟩

/-- An enabled context's output names this parameter of this instance (R160); with the contexts that do so. -/
def Dev.ctxWriters (d : Dev) (sh : Bool) (p : Par) (i : Nat) : List Nat :=
  (List.range 128).filter (fun c => d.cEn sh c && (List.range (d.cM sh c)).any (fun o =>
    let s := d.outSlot sh c o
    s.kind == 1 && s.obj == oid p.cls i && s.sel == p.idx))

/-! ## Inputs (Table 7.3, R168) -/

/-- In-service cells of an arm. -/
def Dev.serviceCells (d : Dev) (a : Nat) : List Nat :=
  (List.range 512).filter (fun c => let x := d.cell c; x.inService && x.arm == some a)

/-- Stored output of a context. -/
def Dev.ctxOut (d : Dev) (c o : Nat) : F32 := (d.ctx c).u.getD o f0

/-- Voltage of a code of 0.05 V: exact times 0.05, rounded once. -/
def vOfCode (n : Nat) : F32 := frat n 20

/-- Value of a CELL selector (Table 7.3): vcap V, temp °C, boot 0–1, vgate V. -/
def Dev.cellVal (d : Dev) (c sel : Nat) : F32 :=
  if sel = 0 then vOfCode (d.get Par.cellVcap c)
  else if sel = 1 then frat (d.getI Par.cellTemp c) 10
  else if sel = 2 then frat (d.get Par.cellBoot c) 255
  else frat (d.get Par.cellVgate c) 10

/-- Raw value of an input slot, and whether the input is missing (R168). `vs` are the slots already gathered. -/
def Dev.rawInput (d : Dev) (c : Nat) (s : InSlot) (vs : List F32) : F32 × Bool × Dev :=
  let i := s.obj % 16777216
  match s.kind with
  | 0 => (f0, false, d)
  | 1 => (f1, false, d)
  | 2 => (d.liveF ⟨s.obj / 16777216, s.sel⟩ i, false, d)
  | 3 => (d.getF Par.adcValue i, bit (d.get Par.adcStatus i) 4, d)
  | 4 => (d.getF Par.sdiValue i, bit (d.get Par.sdiStatus i) 3, d)
  | 5 => (d.cellVal i s.sel, d.get Par.cellStale i != 0 || d.get Par.cellPresent i == 0, d)
  | 6 =>
    (match s.sel with
     | 0 => (d.arm i).iHat
     | 1 => vOfCode (((d.serviceCells i).map (fun x => d.get Par.cellVcap x)).sum)
     | 2 => d.getF Par.armVout i
     | 3 => fint (d.get Par.armNService i)
     | _ => d.getF Par.armCarry i,
     s.sel == 1 && (d.serviceCells i).any (fun x => d.get Par.cellStale x != 0), d)
  | 7 => (d.ctxOut i s.sel, false, d)
  | 8 =>
    let g := d.weave.sig.get (fun _ => {}) (i * 64 + s.sel)
    (g.val, !(g.arrived && g.fresh), d)
  | 9 =>
    let r := d.curveEval i (vs.getD s.sel f0)
    (r.1, false, r.2)
  | 10 => (d.getF (refPar s.sel) c, false, d)
  | _ => (f0, true, d)

/-- Gather slots from `i` on, `k` of them (R163): values, and whether a STRICT input is missing. A missing input without STRICT
takes its value of the last completed execution and counts. -/
def Dev.gather (c : Nat) : Nat → Nat → Dev → List F32 → Bool → List F32 × Bool × Dev
  | 0, _, d, vs, miss => (vs, miss, d)
  | k + 1, i, d, vs, miss =>
    let s := d.inSlot false c i
    let r := d.rawInput c s vs
    let d := r.2.2
    let v := if s.kind = 1 then s.scale else fmul r.1 s.scale
    if r.2.1 || !(ffinite v) then
      if s.strict then Dev.gather c k (i + 1) d (vs ++ [v]) true
      else
        let held := (d.ctx c).vdone.getD i f0
        let d := (d.inc 32 Par.ctxStaleInputs c).raise evCtxStaleInput (oid 0x20 c)
        Dev.gather c k (i + 1) d (vs ++ [held]) miss
    else Dev.gather c k (i + 1) d (vs ++ [v]) miss

/-! ## Arithmetic (R164 to R166) -/

/-- One chain over pairs of a matrix entry and an operand, in order (R164): fma in binary32, or with ACC64 in binary64 and
rounded once at the end. -/
def dot (acc64 : Bool) (ps : List (F32 × F32)) : F32 :=
  if acc64 then fofd (ps.foldl (fun a p => dfma32 p.1 p.2 a) d0)
  else ps.foldl (fun a p => ffma p.1 p.2 a) f0

/-- Row of M_u applied: states, then inputs. -/
def Dev.rowU (d : Dev) (c o : Nat) (x v : List F32) : F32 :=
  dot (bit (d.cFlags false c) 1)
    ((indexed x).map (fun p => (d.mu false c o p.1, p.2)) ++ (indexed v).map (fun p => (d.mu false c o (16 + p.1), p.2)))

/-- Row of M_x applied: states, outputs, inputs. -/
def Dev.rowX (d : Dev) (c i : Nat) (x u v : List F32) : F32 :=
  dot (bit (d.cFlags false c) 1)
    ((indexed x).map (fun p => (d.mx false c i p.1, p.2)) ++ (indexed u).map (fun p => (d.mx false c i (16 + p.1), p.2))
      ++ (indexed v).map (fun p => (d.mx false c i (24 + p.1), p.2)))

/-- Limit an output (R165): value, sat_hi, sat_lo. -/
def limitOut (s : OutSlot) (g raw : F32) : F32 × Bool × Bool :=
  let hi := if s.dyn then fmin s.hi (fabs g) else s.hi
  let lo := if s.dyn then fmax s.lo (fneg (fabs g)) else s.lo
  if flt hi lo then (lo, true, true)
  else if flt hi raw then (hi, true, false)
  else if flt raw lo then (lo, false, true)
  else (raw, false, false)

/-- Integration of state `i` is stopped (R166). -/
def Dev.intStopped (d : Dev) (c i : Nat) (sats : List (Bool × Bool)) (x xn : F32) : Bool :=
  let mask := d.desc false c (0x10 + i) 1
  (bitsOf mask 8).any (fun o =>
    let s := sats.getD o (false, false)
    if bit (d.cFlags false c) 2 then
      let δ := fmul (d.mu false c o i) (fsub xn x)
      (s.1 && flt f0 δ) || (s.2 && flt δ f0)
    else s.1 || s.2)

/-- The absolute limits of p_set (R235). -/
def Dev.pSetLimits (d : Dev) (p : Nat) : F32 × F32 := (fneg (d.getF Par.portPChgMax p), d.getF Par.portPDisMax p)
/-- Write a value to a destination (R160, R167): a PARAM set-point takes it at once, p_set clamped to its limits (R235, R189), and a WEAVE output
publishes it fresh. -/
def Dev.writeDest (d : Dev) (s : OutSlot) (v : F32) : Dev :=
  if s.kind = 1 then
    let p : Par := ⟨s.obj / 16777216, s.sel⟩
    let i := s.obj % 16777216
    let lim := d.pSetLimits i
    if setPoints.contains p then d.putF p i (if p = Par.portPSet then fclamp lim.1 lim.2 v else v) else d
  else if s.kind = 2 then
    { d with weave := { d.weave with pub := d.weave.pub.set (fun _ => {}) s.sel { val := v, fresh := true, arrived := false } } }
  else d

/-- Write a vector to the destinations in output order. -/
def Dev.writeOuts (d : Dev) (c : Nat) (us : List F32) : Dev :=
  d.forL (indexed us) (fun d p => d.writeDest (d.outSlot false c p.1) p.2)

/-- An overrun (R175, R176): counted; at overrun_limit the context enters FALLBACK and its fallback vector is written. Its events carry
the time of the stop cycle. -/
def Dev.overrun (d : Dev) (c cause cycle : Nat) : Dev :=
  let at' := d.beatStart + fineNs cycle
  let d := (d.inc 32 Par.ctxOverruns c).put Par.ctxLastCause c cause
  let k := d.get Par.ctxConsec c + 1
  let tq := d.get Par.beatTimeState 0
  let d := (d.put Par.ctxConsec c k).occur evCtxOverrun at' (oid 0x20 c) (cause % 256 + cycle % 65536 * 256) tq
  if d.desc false c 8 1 ≤ k then
    let d := (d.put Par.ctxState c xsFallback).occur evCtxFallback at' (oid 0x20 c) 0 tq
    let d := d.setCtx c { d.ctx c with u := d.fallbackVec c, fresh := true }
    d.writeOuts c (d.fallbackVec c)
  else d

/-- The inputs of an execution, gathered at its start (R159, R163): the values, and whether a STRICT one is missing. -/
def Dev.gatherCtx (d : Dev) (c : Nat) : List F32 × Bool × Dev :=
  let r := Dev.gather c (d.cW false c) 0 d [] false
  (r.1, r.2.1, r.2.2.setCtx c { r.2.2.ctx c with vin := r.1 })

/-- The rest of an execution that reaches its end within its deadline (R163), at its completion; `fin` is its cycle, `v` the inputs. -/
def Dev.finishCtx (d : Dev) (c fin : Nat) (v : List F32) : Dev :=
  let n := d.cN false c
  let m := d.cM false c
  let x := (d.ctx c).x
  let raw := (List.range m).map (fun o => d.rowU c o x v)
  if !(raw.all ffinite) then d.overrun c ocNumeric fin
  else
    let lim := (indexed raw).map (fun p => let s := d.outSlot false c p.1; limitOut s (v.getD s.limSlot f0) p.2)
    let u := lim.map (·.1)
    let sats := lim.map (·.2)
    let xn0 := (List.range n).map (fun i => d.rowX c i x u v)
    let ints := bitsOf (d.desc false c 10 2) 16
    let held := (List.range n).map (fun i => ints.contains i && d.intStopped c i sats (x.getD i f0) (xn0.getD i f0))
    let xn := (indexed xn0).map (fun p => if held.getD p.1 false then x.getD p.1 f0 else p.2)
    let d := if held.any id then d.inc 32 Par.ctxIntHolds c else d
    if !(xn.all ffinite) then d.overrun c ocNumeric fin
    else
      let d := d.setCtx c { d.ctx c with x := xn, u := u, vdone := v, fresh := true }
      let d := d.writeOuts c u
      let hi := ((indexed sats).map (fun p => b2n p.2.1 * 2 ^ p.1)).sum
      let lo := ((indexed sats).map (fun p => b2n p.2.2 * 2 ^ (8 + p.1))).sum
      let d := ((d.put Par.ctxConsec c 0).put Par.ctxSatMask c (hi + lo)).inc 64 Par.ctxExecCount c
      let d := (d.put Par.ctxLastExecBeat c d.beatNo).put Par.ctxFinishCycle c (fin % 65536)
      let d := d.forL (indexed u) (fun d p => d.sample 0x20 c p.1 d.beatStart p.2 2)
      let d := d.forL (indexed xn) (fun d p => d.sample 0x20 c (8 + p.1) d.beatStart p.2 2)
      -- R179: the token holder sends the new state vector to its partner.
      if d.paired && d.token && bit (d.cFlags false c) 3 then
        d.weavePut wkCtxState d.partnerNo (leBytes 1 c ++ leBytes 1 n ++ ((List.range 16).map (fun i => xn.getD i f0)).flatMap (fun f => leBytes 4 f.toNat))
      else d

/-- A context is due in the present beat (R169). -/
def Dev.cDue (d : Dev) (sh : Bool) (c beat : Nat) : Bool := d.cDiv sh c != 0 && beat % d.cDiv sh c == d.cPhase sh c

/-- Context mask bit of the present mode state (R68). -/
def Dev.maskBit (d : Dev) (c : Nat) : Bool :=
  match d.mode.state with
  | some s => bit (d.imgN tsMode false (0x40 + 32 * s + 8) 16) c
  | none => false

/-- Context states at a boundary (R156, R157, R177): RUN with ENABLE and mask bit outside FALLBACK; every entry to RUN restarts
the context. A recover takes a context out of FALLBACK. -/
def Dev.ctxBoundary (d : Dev) (c : Nat) : Dev :=
  let st := d.get Par.ctxState c
  let x := d.ctx c
  let d := if x.fresh ∨ x.late ∨ x.ran ≠ (st == xsRun) then d.setCtx c { x with fresh := false, late := false, ran := st == xsRun } else d
  let x := d.ctx c
  let st' := if st = xsFallback ∧ !x.recover then xsFallback
    else if d.cEn false c && d.maskBit c then xsRun else xsStopped
  let d := if x.recover then d.setCtx c { x with recover := false } else d
  if st' = xsRun ∧ st ≠ xsRun then
    let d := d.setCtx c { d.ctx c with x := List.replicate (d.cN false c) f0, u := d.fallbackVec c }
    (d.put Par.ctxConsec c 0).put Par.ctxState c xsRun
  else d.put Par.ctxState c st'

/-- Restart a context whose descriptor a switch has changed (R157); FALLBACK clears. -/
def Dev.ctxRestart (d : Dev) (c : Nat) : Dev :=
  (d.setCtx c { d.ctx c with recover := false }).put Par.ctxState c xsStopped

/-- Apply the state vector received for this beat, or count a miss (R179), on the partner without the token, for a context that was in RUN and due
in the beat before. A vector that no execution of that beat calls for is dropped. -/
def Dev.ctxSync (d : Dev) (c : Nat) : Dev :=
  let x := d.ctx c
  let e := if x.sync.isSome then d.setCtx c { x with sync := none } else d
  if !d.paired ∨ d.token ∨ d.get Par.ctxState c ≠ xsRun ∨ !x.ran ∨ !(bit (d.cFlags false c) 3) ∨ !(d.cDue false c (d.beatNo - 1)) then e
  else match x.sync with
    | some xs =>
      if xs.length = d.cN false c then e.setCtx c { e.ctx c with x := xs }
      else (e.inc 32 Par.ctxSyncMisses c).raise evCtxSyncLost (oid 0x20 c)
    | none => (e.inc 32 Par.ctxSyncMisses c).raise evCtxSyncLost (oid 0x20 c)

/-! ## Cost of steps and admission (R173, R174, R181, R209, R225) -/

/-- Place of an item among those of one order value: contexts, then each grid step with the islanding step directly after it (R181, R209), then
port steps. -/
def Item.rank (a : Item) : Nat × Nat :=
  if a.kind = 0 then (0, a.num) else if a.kind = 3 then (2, a.num) else (1, 2 * a.num + (a.kind - 1))

/-- Items in order: ascending order value, contexts before steps of the same value. -/
def itemLt (a b : Item) : Bool :=
  let x := a.rank
  let y := b.rank
  decide (a.order < b.order) || (a.order == b.order && (decide (x.1 < y.1) || (x.1 == y.1 && decide (x.2 < y.2))))

/-- The steps that admission counts beside the contexts: enabled GRIDs at 48 cycles, enabled detectors, ports in use at 12. -/
def Dev.stepItems (d : Dev) : List Item :=
  ((List.range 4).filter (fun g => d.isOn Par.gridEnable g)).map (fun g => ⟨d.get Par.gridOrder g, 1, g⟩)
  ++ ((List.range 4).filter (fun g => d.isOn Par.isldEnable g)).map (fun g => ⟨d.get Par.gridOrder g, 2, g⟩)
  ++ ((List.range 32).filter (fun p => d.get Par.portTopology p != 0)).map (fun p => ⟨d.get Par.portOrder p, 3, p⟩)

/-- Cost of the islanding step of ISLD.g (R209). -/
def Dev.isldCost (d : Dev) (g : Nat) : Nat := ceilDiv (d.get Par.isldLagWindow g) 32 + 12

/-- Run the feasibility sum of R173 over items in order: the first item that breaks a bound with its finish cycle, or none. -/
def Dev.feasible (d : Dev) (sh : Bool) (cB dB : Nat) : List Item → Nat → Option (Nat × Nat)
  | [], _ => none
  | it :: rest, t =>
    let loc := if it.kind = 0 then d.cLocal sh it.num else it.kind == 2 || it.kind == 3
    let cost := if it.kind = 0 then d.cCycles sh it.num else if it.kind = 1 then 48
      else if it.kind = 2 then d.isldCost it.num else 12
    let t' := (if loc then max t 200 else t) + cost
    if (it.kind == 0 && d.cVref sh it.num && decide (dB < t')) || decide (cB < t') then some (it.num, t')
    else Dev.feasible d sh cB dB rest t'

/-- Least common multiple over a list. -/
def lcmL (xs : List Nat) : Nat := xs.foldl Nat.lcm 1

/-- Admission (R173): the first context that breaks a bound in the first infeasible residue, with its finish cycle; none when
the schedule is admitted. -/
def Dev.admission (d : Dev) (sh : Bool) (window : Nat) : Option (Nat × Nat) :=
  let en := (List.range 128).filter (d.cEn sh)
  let steps := d.stepItems
  let H := lcmL (en.map (d.cDiv sh))
  let check := fun (cs : List Nat) =>
    d.feasible sh (boundC window) (boundD window) (sortBy itemLt (cs.map (fun c => ⟨d.cOrder sh c, 0, c⟩) ++ steps)) 16
  if H > 65536 then check en
  else (List.range (max H 1)).findSome? (fun r => check (en.filter (fun c => d.cDue sh c r)))

end Sys2Proof.Machine
end

