-- ==== Sys2Proof/Machine/Isld.lean ====
section
/-! DEFINITION. Islanding detection (ch. 9): the coded injection (R205 to R208), the islanding step (R209 to R211, R215), the
estimate and its registration (R212 to R214), sampled-value comparison (R216) and the policy (R217 to R219). -/

namespace Sys2Proof.Machine

/-- Detector record. -/
def Dev.isl (d : Dev) (g : Nat) : IslRt := d.isls.get (fun _ => {}) g
/-- Store a detector record. -/
def Dev.setIsl (d : Dev) (g : Nat) (x : IslRt) : Dev := { d with isls := d.isls.set (fun _ => {}) g x }

/-- Events of the group. -/
abbrev evIsldDecision : Nat := 100
/-- See `evIsldDecision`. -/
abbrev evIsldSuppressed : Nat := 101
/-- See `evIsldDecision`. -/
abbrev evIsldCodeClash : Nat := 102
/-- See `evIsldDecision`. -/
abbrev evIsldSvLost : Nat := 103

/-- Ride-through states (Table 8.9). -/
abbrev frIdle : Nat := 0
/-- See `frIdle`. -/
abbrev frFault : Nat := 1
/-- See `frIdle`. -/
abbrev frRecover : Nat := 2
/-- See `frIdle`. -/
abbrev frTrip : Nat := 3

/-- A ride-through envelope of this GRID is active (R201). -/
def Dev.frtActive (d : Dev) (g : Nat) : Bool := d.get Par.gridFrtState g == frFault || d.get Par.gridFrtState g == frRecover
/-- Some GRID's envelope is active. -/
def Dev.anyFrt (d : Dev) : Bool := (List.range 4).any d.frtActive

/-- f_nom in Hz. -/
def Dev.fNom (d : Dev) (g : Nat) : F32 := if d.get Par.gridFNom g = 1 then 0x42700000 else 0x42480000

/-- Beat length in seconds, T = beat_ticks / 400,000,000, in binary32 (R184). -/
def Dev.tBeat (d : Dev) : F32 := frat d.beatTicks 400000000

/-- The grid step of GRID.g runs (R181): enabled, with ctx_sync not stopped; a ctx_sync in FALLBACK makes it a miss (R186). -/
def Dev.gridRuns (d : Dev) (g : Nat) : Bool :=
  let c := d.get Par.gridCtxSync g
  d.isOn Par.gridEnable g && decide (c < 128) && d.get Par.ctxState c != xsStopped

/-! ## The code (R205, R206, R207) -/

/-- Bits of the sequence with the 11-bit register `r`, whose next bit is the parity of the register under `taps`. -/
def goldBits (taps : Nat) : Nat → Nat → List Bool
  | 0, _ => []
  | k + 1, r => (r % 2 == 1) :: goldBits taps k (r / 2 + (popcount (r &&& taps) 11 % 2) * 1024)

/-- The 2,047 bits of code `j` (R205). -/
def goldCode (j : Nat) : List Bool :=
  let a := goldBits 0x005 2047 2047
  let b := goldBits 0x125 2047 2047
  if j = 0 then a else if j = 1 then b
  else List.zipWith (fun x y => x != y) a (b.drop ((j - 2) % 2047) ++ b.take ((j - 2) % 2047))

/-- The stake belongs to a duplex pair: formed, or its partner absent, so that a takeover leaves the code as it is (R207). -/
def Dev.inPair (d : Dev) : Bool := (d.get Par.weavePairState 0 == 1 || d.get Par.weavePairState 0 == 2) && decide (d.partnerNo < 64)

/-- Code index of ISLD.g (R206). -/
def Dev.codeIndex (d : Dev) (g : Nat) : Nat :=
  let me := d.stakeNo % 64
  let pair := if d.inPair then min me d.partnerNo else me
  (d.get Par.isldSiteId g * 256 + pair * 4 + g) % 2049

/-- Sequence length in beats. -/
def Dev.seqBeats (d : Dev) (g : Nat) : Nat := 2047 * d.get Par.isldChipBeats g
/-- Chip index of a beat (R207). -/
def Dev.chipOf (d : Dev) (g beat : Nat) : Nat := beat % d.seqBeats g / d.get Par.isldChipBeats g
/-- Chip of ISLD.g at an index, as ±1. -/
def Dev.chipSign (d : Dev) (g m : Nat) : Int := if (goldCode (d.get Par.isldCodeIndex g)).getD m false then -1 else 1

/-- ISLD.g injects in this beat (R208), given that the grid step runs. -/
def Dev.isldInjecting (d : Dev) (g : Nat) : Bool :=
  d.isOn Par.isldEnable g && bit d.modeFlags 2 && (d.token || !d.paired) && !(d.isl g).stopped

/-- The grid step forms a current to which the injection is added: kinds FOLLOW and FORM, and RIDE_THROUGH entered from one
(R191, R192, R194; log entry 20). -/
def Dev.isldAdds (d : Dev) (g : Nat) : Bool :=
  d.kind == kFollow || d.kind == kForm || (d.kind == kRide && d.get Par.gridFrtOrigin g != 0)

/-- Injection amplitude a in pu. -/
def Dev.isldAmp (d : Dev) (g : Nat) : F32 := fdiv (d.getF Par.isldInjectAmp g) (fint 100)

/-- The injection added to the two references for the beat commanded, k + 1 (R208): i_base × a × chip × cos or sin of the
axis, in that order. -/
def Dev.isldInject (d : Dev) (g : Nat) (ib : F32) (r : F32 × F32) : F32 × F32 :=
  let c := fint (d.chipSign g (d.chipOf g (d.beatNo + 1)))
  let a := fmul (fmul ib (d.isldAmp g)) c
  let psi := radOf (d.getF Par.isldInjectAxis g)
  (fadd r.1 (fmul a (cosD psi)), fadd r.2 (fmul a (sinD psi)))

/-! ## The islanding step (R209 to R211, R215) -/

/-- Value of a source object of the residuals, scaled; none when it is missing (R210). -/
def Dev.isldSrc (d : Dev) (obj : Nat) (scale : F32) : Option F32 :=
  let i := obj % 16777216
  if obj / 16777216 = 0x40 then
    (if bit (d.get Par.adcStatus i) 4 || !d.full then none else some (fmul (d.getF Par.adcValue i) scale))
  else if obj / 16777216 = 0x41 then
    (if bit (d.get Par.sdiStatus i) 3 || !d.full then none else some (fmul (d.getF Par.sdiValue i) scale))
  else none

/-- Residuals on the injection axis (R210): ev and ei; none when the beat is missing. -/
def Dev.isldResiduals (d : Dev) (g : Nat) : Option (F32 × F32) :=
  let vs := [Par.isldVSrc0, Par.isldVSrc1, Par.isldVSrc2].map (fun p => d.isldSrc (d.get p g) (d.getF Par.isldVScale g))
  let is := [Par.isldISrc0, Par.isldISrc1, Par.isldISrc2].map (fun p => d.isldSrc (d.get p g) (d.getF Par.isldIScale g))
  match vs, is with
  | [some v0, some v1, some v2], [some i0, some i1, some i2] =>
    let s3 := fsqrt (fint 3)
    let o := d.ctxOut (d.get Par.gridCtxSync g)
    let va := fdiv (fsub (fsub (fmul (fint 2) v0) v1) v2) (fint 3)
    let vb := fdiv (fsub v1 v2) s3
    let ia := fdiv (fsub (fsub (fmul (fint 2) i0) i1) i2) (fint 3)
    let ib := fdiv (fsub i1 i2) s3
    let psi := radOf (d.getF Par.isldInjectAxis g)
    let c := cosD psi
    let s := sinD psi
    some (fadd (fmul (fsub (fsub va (o 0)) (o 2)) c) (fmul (fsub (fsub vb (o 1)) (o 3)) s),
          fadd (fmul (fsub ia (o 4)) c) (fmul (fsub ib (o 5)) s))
  | _, _ => none

/-- Add a chip's average into the lag accumulators (R211): one fused multiply-add per lag with the coefficient chip / 2,047. -/
def lagAdd (code : List Bool) (m : Nat) (avg : F32) (acc : List F32) : List F32 :=
  let kp := frat 1 2047
  let kn := frat (-1) 2047
  (indexed acc).map (fun p => ffma avg (if code.getD ((m + 2047 * (p.1 / 2047 + 1) - p.1) % 2047) false then kn else kp) p.2)

/-- The detector's sums after the present beat of a sequence (R209 to R212), whether the grid step adds the injection in it, and how many sequences
it cuts off. -/
def Dev.isldSums (d : Dev) (g : Nat) : IslRt × Bool × Nat :=
  let k := d.beatNo
  let L := d.seqBeats g
  let cb := d.get Par.isldChipBeats g
  let lw := d.get Par.isldLagWindow g
  let x := d.isl g
  let on := d.isldInjecting g && d.isldAdds g
  let inj := on && !(bit (d.get Par.gridStatus g) 4)
  let x := if on && !x.injecting then { x with firstSeq := true } else x
  let x := { x with injecting := on }
  let cut := x.seqNo.isSome && x.seqNo != some (k / L)
  let x := if x.seqNo = some (k / L) then x
    else { x with seqNo := some (k / L), seqStart := d.beatStart, seqBad := k % L != 0 || x.firstSeq, firstSeq := false,
                  rv := List.replicate lw f0, ri := List.replicate lw f0, evSum := f0, eiSum := f0 }
  let res := d.isldResiduals g
  let bad := !inj || res.isNone || bit (d.get Par.gridStatus g) 4 || d.frtActive g
  let x := if bad then { x with seqBad := true } else x
  let r := res.getD (f0, f0)
  let first := k % cb == 0
  let x := { x with evSum := fadd (if first then f0 else x.evSum) r.1, eiSum := fadd (if first then f0 else x.eiSum) r.2 }
  let m := d.chipOf g k
  let x := if k % cb + 1 = cb then
      let code := goldCode (d.get Par.isldCodeIndex g)
      { x with rv := lagAdd code m (fdiv x.evSum (fint cb)) x.rv, ri := lagAdd code m (fdiv x.eiSum (fint cb)) x.ri }
    else x
  (x, inj, b2n cut)

/-- Sequence part of the islanding step: residuals, chip averages, lags, end of a sequence. A sequence that a change of chip_beats or of the grid
cuts off counts as invalid (log entry 63). -/
def Dev.isldSeq (d : Dev) (g : Nat) : Dev :=
  let k := d.beatNo
  let L := d.seqBeats g
  let cb := d.get Par.isldChipBeats g
  let r := d.isldSums g
  let x := r.1
  let d := (d.put Par.isldStatus g (setBit (d.get Par.isldStatus g) 0 r.2.1)).inc 32 Par.isldSeqInvalid g r.2.2
  if k % L + 1 = L then
    let s : IslSeq := { rv := x.rv, ri := x.ri, chip := cb * d.beatTicks, ended := d.beatStart + d.beatLen,
                        started := x.seqStart, len := L * d.beatTicks * 16, bad := x.seqBad }
    let d := (d.setIsl g { x with doneSeqs := x.doneSeqs ++ [s], seqNo := none }).inc 32 Par.isldSequences g
    if x.seqBad then d.inc 32 Par.isldSeqInvalid g else d
  else d.setIsl g x

/-- A permitted-time criterion (R215): the new timer and whether the criterion is true. -/
def Dev.timeCriterion (d : Dev) (curve : Nat) (u : F32) (timer : Nat) : Nat × Bool × Dev :=
  if curve = 0xFFFF then (0, false, d)
  -- An undefined curve makes the criterion false, and its evaluation raises CURVE_UNDEFINED (R67).
  else if d.curveDir false curve = 0 then (0, false, (d.curveEval curve u).2)
  else
    let r := d.curveEval curve u
    let t := if flt r.1 (fint 3600) then timer + d.beatLen else 0
    (t, dle (dof r.1) (ddiv (dint t) (dint 6400000000)) && flt r.1 (fint 3600), r.2)

/-- N_r of R215, rocof_win in beats. -/
def Dev.rocofBeats (d : Dev) (g : Nat) : Nat := (dround (ddiv (dint (d.get Par.isldRocofWin g * 400000 : Nat)) (dint d.beatTicks))).toNat
/-- N_c of R215, one nominal cycle in beats. -/
def Dev.cycleBeats (d : Dev) (g : Nat) : Nat := (dround (ddiv (dint 400000000) (dmul (dof (d.fNom g)) (dint d.beatTicks)))).toNat

/-- freq and theta of GRID.g join the history, one entry for each beat (R215). -/
def Dev.isldHistory (d : Dev) (g : Nat) : Dev :=
  let x := d.isl g
  d.setIsl g { x with freqs := (d.getF Par.gridFreq g :: x.freqs).take (max (d.rocofBeats g) (d.cycleBeats g) + 1)
                      thetas := (d.getF Par.gridTheta g :: x.thetas).take (d.cycleBeats g + 1) }

/-- Passive criteria (R215, R219), on the history with the present beat in it. -/
def Dev.isldPassive (d : Dev) (g : Nat) : Dev :=
  let x := d.isl g
  let t := d.tBeat
  let fr := d.getF Par.gridFreq g
  let th := d.getF Par.gridTheta g
  let nr := d.rocofBeats g
  let nc := d.cycleBeats g
  let fs := x.freqs
  let ts := x.thetas
  let after := fun (len : Nat) => match x.rearm with
    | some e => decide (e + len ≤ d.beatStart)
    | none => true
  let rocof := match fs[nr]? with
    | some f => after (d.get Par.isldRocofWin g * fineMs)
        && flt (d.getF Par.isldRocofThr g) (fdiv (fabs (fsub fr f)) (fmul (fint nr) t))
    | none => false
  let vshift := match fs[nc]?, ts[nc]? with
    | some f, some h => after (nc * d.beatLen) && !(bit (d.get Par.gridStatus g) 3)
        && flt (fofd (radOf (d.getF Par.isldVshiftThr g)))
             (fabs (fwrap (fsub (fsub th h) (fmul (fmul (fmul twoPi f) (fint nc)) t))))
    | _, _ => false
  let v := d.timeCriterion (d.get Par.isldVwinCurve g) (d.getF Par.gridUPos g) x.vTimer
  let d := v.2.2
  let f := d.timeCriterion (d.get Par.isldFwinCurve g) (fsub fr (d.fNom g)) x.fTimer
  let d := f.2.2
  let crit := [x.active, rocof, vshift, v.2.1, f.2.1, x.sv]
  let last := (indexed crit).foldl (fun t p => if p.2 then Tab.set (fun _ => none) t p.1 (some d.beatStart) else t) x.lastTrue
  d.setIsl g { x with rocof := rocof, vshift := vshift, vwin := v.2.1, fwin := f.2.1,
                      vTimer := v.1, fTimer := f.1, lastTrue := last }

/-- End of an envelope (R219): criteria and holds are cleared and re-armed. -/
def IslRt.envEnd (x : IslRt) (t : Nat) : IslRt :=
  { x with active := false, rocof := false, vshift := false, vwin := false, fwin := false, sv := false, vTimer := 0,
           fTimer := 0, lastTrue := [], svDev := [], suppr := false, rearm := some t }

/-- Note whether the envelope is active, and its end (R219). -/
def Dev.isldEnvelope (d : Dev) (g : Nat) : Dev :=
  let x := d.isl g
  let f := d.frtActive g
  let x := if x.prevFrt && !f then x.envEnd d.beatStart else x
  d.setIsl g { x with prevFrt := f }

/-- The islanding step of ISLD.g (R209), directly after the grid step. -/
def Dev.isldStep (d : Dev) (g : Nat) : Dev :=
  if !(d.isOn Par.isldEnable g) ∨ !(d.gridRuns g) then d
  else (((d.isldEnvelope g).isldSeq g).isldHistory g).isldPassive g

/-- A beat in which the islanding step of an enabled ISLD.g does not run, because the grid step does not (R208, R209): nothing is injected, and
the sequence in progress is invalid and ends with its last beat (R213; log entry 63). -/
def Dev.isldIdle (d : Dev) (g : Nat) : Dev :=
  if !(d.isOn Par.isldEnable g) then d
  else
    let d := (d.isldEnvelope g).putBit Par.isldStatus g 0 false
    let x := d.isl g
    let L := d.seqBeats g
    let done := x.seqNo.isSome && (d.beatNo % L + 1 == L || x.seqNo != some (d.beatNo / L))
    let d := d.setIsl g { x with injecting := false, seqBad := true, seqNo := if done then none else x.seqNo }
    (if done then d.inc 32 Par.isldSeqInvalid g else d).isldHistory g

/-! ## Estimates (R212 to R214) -/

/-- Numerator and denominator of f × τ × t_c for a chip period in ticks. -/
def phaseFrac (f : F32) (tau chip : Nat) : Nat × Nat :=
  match f32u f with
  | .fin _ m e => if 0 ≤ e then (m * 2 ^ e.toNat * tau * chip, 400000000) else (m * tau * chip, 400000000 * 2 ^ (-e).toNat)
  | _ => (0, 1)

/-- The bounds of R213 on a point, for a chip period in ticks. -/
def zFreqOk (f : F32) (lag chip : Nat) : Bool :=
  let a := phaseFrac f lag chip
  let b := phaseFrac f 1 chip
  decide (a.2 ≤ a.1) && decide (b.1 * 5 ≤ b.2 * 2)

/-- Σ r[τ] e^(−j 2π f τ t_c) in binary64, lags ascending (R212). -/
def lagSum (f : F32) (chip : Nat) (r : List F32) : F64 × F64 :=
  (indexed r).foldl (fun s p =>
    let q := phaseFrac f p.1 chip
    let c := cisD q.1 q.2
    (dadd s.1 (dmul (dof p.2) c.1), dsub s.2 (dmul (dof p.2) c.2))) (d0, d0)

/-- Parameters z_freq0 to z_freq7. -/
def zFreqPar (k : Nat) : Par := ⟨0x22, Par.isldZFreq0.idx + k⟩

/-- Magnitude of a complex binary64 value. -/
def dmag (a : F64 × F64) : F64 := dsqrt (dadd (dmul a.1 a.1) (dmul a.2 a.2))

/-- The estimate of one completed sequence (R212, R213). -/
def Dev.estimate (d : Dev) (g : Nat) (s : IslSeq) : IslEst :=
  let pts := (List.range 8).map (fun k =>
    let f := d.getF (zFreqPar k) g
    let v := lagSum f s.chip s.rv
    let i := lagSum f s.chip s.ri
    let n := dadd (dmul i.1 i.1) (dmul i.2 i.2)
    let z := (ddiv (dadd (dmul v.1 i.1) (dmul v.2 i.2)) n, ddiv (dsub (dmul v.2 i.1) (dmul v.1 i.2)) n)
    (fofd (dmag z), datan2Deg z.2 z.1,
     !s.bad && dle (dof (d.getF Par.isldICorrFloor g)) (dmag i) && zFreqOk f s.rv.length s.chip))
  { mags := pts.map (·.1), angs := pts.map (·.2.1),
    valid := ((indexed pts).map (fun p => b2n p.2.2.2 * 2 ^ p.1)).sum,
    ended := s.ended, started := s.started, len := s.len, bad := s.bad }

/-- The control pair finishes the oldest completed sequence of ISLD.g (R212); with none waiting there is nothing to do. -/
def Dev.isldEstimate (d : Dev) (g : Nat) : Dev :=
  let x := d.isl g
  match x.doneSeqs with
  | [] => d
  | s :: rest => d.setIsl g { x with doneSeqs := rest, ests := x.ests ++ [d.estimate g s] }

/-- Register one estimate at a boundary (R212, R214): the active criterion is judged against the baseline so far, then the
baseline takes the estimate in while the criterion was and is false. -/
def Dev.isldRegister (d : Dev) (g : Nat) (e : IslEst) : Dev :=
  let d := d.setIsl g { d.isl g with regMag := e.mags, regAng := e.angs }
  let d := d.put Par.isldZValid g e.valid
  let r := d.get Par.isldZRefIdx g
  if e.bad ∨ !(bit e.valid r) then d
  else
    let x := d.isl g
    let z := e.mags.getD r f0
    let zb := d.getF Par.isldZBase g
    let warm := bit (d.get Par.isldStatus g) 1
    let isl := d.getF Par.isldZIsland g
    let fresh := match x.rearm with
      | some t => decide (t < e.started)
      | none => true
    let act := (warm && flt (fmul (d.getF Par.isldZRatio g) zb) z) || (flt f0 isl && flt isl z)
    let was := x.active
    let x := if fresh then { x with active := act } else x
    if was || x.active then d.setIsl g x
    else
      let ts := frat e.len 6400000000
      let zb' := if x.baseN = 0 then z else fadd zb (fmul (fdiv ts (fadd (d.getF Par.isldZTau g) ts)) (fsub z zb))
      let x := { x with baseN := x.baseN + 1 }
      let d := (d.setIsl g x).putF Par.isldZBase g zb'
      if d.get Par.isldZWarm g ≤ x.baseN then d.put Par.isldStatus g (setBit (d.get Par.isldStatus g) 1 true) else d

/-- Reset of baseline and WARM at a change of enable, site_id or the sources (R221). -/
def Dev.isldReset (d : Dev) (g : Nat) : Dev :=
  let x := d.isl g
  ((d.setIsl g { x with baseN := 0 }).putF Par.isldZBase g f0).put Par.isldStatus g (setBit (d.get Par.isldStatus g) 1 false)

/-- A change of beat_ticks clears the bits of z_valid of points out of bounds (R213). -/
def Dev.isldRebound (d : Dev) (g : Nat) : Dev :=
  let chip := d.get Par.isldChipBeats g * d.beatTicks
  d.put Par.isldZValid g (((List.range 8).map (fun k =>
    b2n (bit (d.get Par.isldZValid g) k && zFreqOk (d.getF (zFreqPar k) g) (d.get Par.isldLagWindow g) chip) * 2 ^ k)).sum)

/-- A TIME_STEP makes the sequences in progress invalid (R213): also one whose last beat is the present one and whose step has run. -/
def Dev.isldTimeStep (d : Dev) : Dev := d.forN 4 (fun d g =>
  let x := d.isl g
  let hit := fun (s : IslSeq) => decide (d.now < s.ended) && !s.bad
  let n := (x.doneSeqs.filter hit).length
  let d := if d.isOn Par.isldEnable g then
      d.setIsl g { x with seqBad := true, doneSeqs := x.doneSeqs.map (fun s => if hit s then { s with bad := true } else s) } else d
  if d.isOn Par.isldEnable g then d.inc 32 Par.isldSeqInvalid g n else d)

/-! ## Sampled values (R216) -/

/-- Sampled-value streams without a subscription or a valid frame (R216). -/
def Dev.svAbsentMask (d : Dev) : Nat := ((List.range 8).map (fun k => b2n ((d.sv k).absent || (d.sv k).mac == 0) * 2 ^ k)).sum

/-- The criterion SV (R216): some stream that is selected and present has deviated in every cycle for sv_confirm. A stream's deviation starts anew
after an envelope, so sv_confirm passes before SV can be true again (R219). -/
def Dev.svTrue (d : Dev) (g : Nat) : Bool :=
  let absent := d.svAbsentMask
  (bitsOf (d.get Par.isldSvMask g) 8).any (fun k =>
    let s := (d.isl g).svDev.get (fun _ => {}) k
    !(bit absent k) && (match s.since with
      | some t0 => decide (t0 + d.get Par.isldSvConfirm g * fineMs ≤ s.last)
      | none => false))

/-- SV and SV_LOST follow the streams and the selection (R216): with every selected stream absent, ISLD_SV_LOST once, and SV is false. -/
def Dev.svEval (d : Dev) (g : Nat) : Dev :=
  let m := d.get Par.isldSvMask g
  let absent := d.svAbsentMask
  let lost := d.isOn Par.isldEnable g && m != 0 && (bitsOf m 8).all (bit absent)
  let was := bit (d.get Par.isldStatus g) 3
  let d := d.setIsl g { d.isl g with sv := d.svTrue g && !lost }
  let d := d.put Par.isldStatus g (setBit (d.get Par.isldStatus g) 3 lost)
  if lost && !was then d.raise evIsldSvLost (oid 0x22 g) else d

/-- Compare one nominal cycle of a stream, of frequency `f` and angle `ang` in radians at `ago` beats before the present
beat, with GRID.g (R216). -/
def Dev.svCompare (d : Dev) (g stream : Nat) (f ang : F32) (ago : Nat) : Dev :=
  let x := d.isl g
  match x.freqs[ago]?, x.thetas[ago]? with
  | some fr, some th =>
    let df := fabs (fsub f fr)
    let dth := fabs (fwrap (fsub (fsub ang th) (fofd (radOf (d.getF Par.isldSvOffset g)))))
    let dev := flt (d.getF Par.isldSvDf g) df || flt (fofd (radOf (d.getF Par.isldSvDtheta g))) dth
    let s := x.svDev.get (fun _ => {}) stream
    let s' : SvDev := if dev then { since := some (s.since.getD d.now), last := d.now } else { since := none, last := d.now }
    (d.setIsl g { x with svDev := x.svDev.set (fun _ => {}) stream s' }).svEval g
  | _, _ => d

/-- A stream becomes absent: its deviations are over, and every detector is judged again (R216). -/
def Dev.svGone (d : Dev) (k : Nat) : Dev :=
  let d := { d with host := { d.host with sv := d.host.sv.set (fun _ => {}) k { d.sv k with absent := true } } }
  d.forN 4 (fun d g => (d.setIsl g { d.isl g with svDev := (d.isl g).svDev.set (fun _ => {}) k {} }).svEval g)

/-! ## Policy (R217 to R219) -/

/-- Criteria held at this boundary (R217). -/
def Dev.isldHeld (d : Dev) (g : Nat) : Nat :=
  let x := d.isl g
  ((List.range 6).map (fun c =>
    let now := [x.active, x.rocof, x.vshift, x.vwin, x.fwin, x.sv].getD c false
    let held := match Tab.get (fun _ => none) x.lastTrue c with
      | some t => decide (d.beatStart ≤ t + d.get Par.isldHoldMs g * fineMs)
      | none => false
    b2n (now || held) * 2 ^ c)).sum

/-- Some nonzero row of the policy has every criterion it names held (R217). -/
def policyMet (policy held : Nat) : Bool :=
  (List.range 8).any (fun r => let row := field policy (8 * r) 8; row != 0 && (bitsOf row 8).all (bit held))

/-- Evaluation at a beat boundary (R214, R218, R219): estimates due are registered, the policy is judged. -/
def Dev.isldBoundary (d : Dev) (g : Nat) : Dev :=
  if !(d.isOn Par.isldEnable g) then d
  else
    let due := (d.isl g).ests.filter (fun e => e.ended + fineMs ≤ d.beatStart)
    let d := d.setIsl g { d.isl g with ests := (d.isl g).ests.filter (fun e => decide (d.beatStart < e.ended + fineMs)) }
    let d := if d.pairHalted 0 then d else d.forL due (fun d e => d.isldRegister g e)
    let held := d.isldHeld g
    let met := policyMet (d.get Par.isldPolicy g) held
    let x := d.isl g
    let isAct := bit d.modeFlags 2
    let d := d.put Par.isldCriteria g held
    let dec := met && isAct && !(d.frtActive g) && (!x.policySat || !x.prevActive)
    let sup := met && d.frtActive g && !x.suppr
    let d := d.setIsl g { x with policySat := met, prevActive := isAct, suppr := x.suppr || sup }
    let d := if sup then (d.inc 32 Par.isldSuppressed g).raise evIsldSuppressed (oid 0x22 g) else d
    if dec then
      let d := ((d.put Par.isldDecision g 1).put Par.isldDecisionTime g d.beatStart).put Par.isldDecisionCriteria g held
      let d := d.setIsl g { d.isl g with decAt := d.now }
      let d := { d with mode := { d.mode with isldDec := true } }
      (d.inc 32 Par.isldDecisions g).raise evIsldDecision (oid 0x22 g) held
    else d

end Sys2Proof.Machine
end

