-- ==== Sys2Proof/Machine/Grid.lean ====
section
/-! DEFINITION. The grid step (ch. 8): measurement and angles (R184, R185), ramps and clamps (R188 to R191), ride-through (R196 to
R202), following and forming (R192 to R195). -/

namespace Sys2Proof.Machine

/-- Grid record. -/
def Dev.grid (d : Dev) (g : Nat) : GridRt := d.grids.get (fun _ => {}) g
/-- Store a grid record. -/
def Dev.setGrid (d : Dev) (g : Nat) (x : GridRt) : Dev := { d with grids := d.grids.set (fun _ => {}) g x }

/-- Events of the group. -/
abbrev evGridSyncLost : Nat := 96
/-- See `evGridSyncLost`. -/
abbrev evFrtOnset : Nat := 97
/-- See `evGridSyncLost`. -/
abbrev evFrtEnd : Nat := 98
/-- See `evGridSyncLost`. -/
abbrev evFrtTrip : Nat := 99

/-- One step of a rate-limited value (R188): rate times beat_ticks over 400,000,000, in binary64. -/
def Dev.rampStep (d : Dev) (rate : F32) : F64 := ddiv (dmul (dof rate) (dint d.beatTicks)) (dint 400000000)

/-- Move an effective value one step towards its target (R188). -/
def rampMove (step target eff : F64) : F64 := dadd eff (dmax (dneg step) (dmin step (dsub target eff)))

/-- The target lies further than one step away: RAMPING. -/
def ramping (step target eff : F64) : Bool := dlt step (dabs (dsub target eff))

/-- The answer to a write of a ramped target (R189): the target stored, and CLAMPED, RAMPING or OK. -/
def targetAnswer (lo hi v : F32) (step eff : F64) : F32 × Nat :=
  let t := fclamp lo hi v
  (t, if !(feq t v) then stClamped else if ramping step (dof t) eff then stRamping else stOk)

/-- The active target with p_src = CTX (R190): output 0 of ctx_dc clamped, with the clamp flag; none with p_src = RAMP. -/
def Dev.ctxTarget (d : Dev) (g : Nat) : Option (F32 × Bool) :=
  if d.get Par.gridPSrc g = 0 then none
  else
    let c := d.get Par.gridCtxDc g
    let v := if c < 128 then d.ctxOut c 0 else f0
    let w := fclamp (d.getF Par.gridPMin g) (d.getF Par.gridPMax g) v
    some (w, !(feq w v))

/-- Kinds in which the effective values move: FOLLOW, FORM, RIDE_THROUGH (R191). -/
def Dev.exporting (d : Dev) : Bool := d.kind == kFollow || d.kind == kForm || d.kind == kRide

/-- Effective values under R191: in the kinds without export they are 0. -/
def Dev.gridEffs (d : Dev) (g : Nat) : F64 × F64 × F64 :=
  let x := d.grid g
  if d.exporting then (x.pEff, x.qEff, x.phiEff) else (d0, d0, d0)

/-- RAMPING (R188): some target lies further than one step from its effective value; p_ref counts with p_src = RAMP (R190). -/
def Dev.gridRamping (d : Dev) (g : Nat) : Bool :=
  let e := d.gridEffs g
  (d.get Par.gridPSrc g == 0 && ramping (d.rampStep (d.getF Par.gridPRate g)) (dof (d.getF Par.gridPRef g)) e.1)
    || ramping (d.rampStep (d.getF Par.gridQRate g)) (dof (d.getF Par.gridQRef g)) e.2.1
    || ramping (d.rampStep (d.getF Par.gridPhiRate g)) (dof (d.getF Par.gridPhiRef g)) e.2.2

/-- The effective values after one step (R188, R190, R191): p_eff stands still in FAULT (R200) and follows the context with p_src = CTX. -/
def Dev.gridMoved (d : Dev) (g : Nat) : F64 × F64 × F64 :=
  let e := d.gridEffs g
  let move := fun (rate ref : Par) (eff : F64) => rampMove (d.rampStep (d.getF rate g)) (dof (d.getF ref g)) eff
  if !d.exporting then e
  else
    (match d.ctxTarget g with
     | some (w, _) => dof w
     | none => if d.get Par.gridFrtState g = frFault then e.1 else move Par.gridPRate Par.gridPRef e.1,
     move Par.gridQRate Par.gridQRef e.2.1, move Par.gridPhiRate Par.gridPhiRef e.2.2)

/-- Advance the recovery count and the recovery bound with it (R200). -/
def Dev.gridRecover (d : Dev) (g : Nat) : Dev :=
  let x := d.grid g
  if d.get Par.gridFrtState g = frRecover then
    let n := x.recN + 1
    d.setGrid g { x with recN := n,
                         pRec := dadd x.pRec0 (ddiv (dmul (dmul (dof (d.getF Par.gridRecRate g)) (dint n)) (dint d.beatTicks)) (dint 400000000)) }
  else d

/-- The clocks of a grid step: the ramps and, in RECOVER, the recovery bound (R186, R188, R200). -/
def Dev.gridClocks (d : Dev) (g : Nat) : Dev :=
  let m := d.gridMoved g
  (d.setGrid g { d.grid g with pEff := m.1, qEff := m.2.1, phiEff := m.2.2 }).gridRecover g

/-- Report effective values and the recovery bound. -/
def Dev.gridReport (d : Dev) (g : Nat) : Dev :=
  let x := d.grid g
  (((d.putF Par.gridPEff g (fofd x.pEff)).putF Par.gridQEff g (fofd x.qEff)).putF Par.gridPhiEff g (fofd x.phiEff)).putF
    Par.gridPRec g (fofd x.pRec)

/-- A sync miss (R186): nothing written; the clocks advance, and the reported values but for RAMPING stay; the third in a row raises
GRID_SYNC_LOST. -/
def Dev.gridMiss (d : Dev) (g : Nat) : Dev :=
  let ram := d.gridRamping g
  let d := if d.exporting then d.gridClocks g else d.gridRecover g
  let d := d.gridReport g
  let x := d.grid g
  let d := d.setGrid g { x with missRun := x.missRun + 1 }
  let d := d.inc 32 Par.gridSyncMisses g
  let d := (d.putBit Par.gridStatus g 0 ram).putBit Par.gridStatus g 4 true
  if x.missRun + 1 = 3 then d.raise evGridSyncLost (oid 0x21 g) else d

/-- Magnitude of a pair in binary32. -/
def mag2 (a b : F32) : F32 := fsqrt (fadd (fmul a a) (fmul b b))

/-- What the first part of the grid step measures. -/
structure GridMeas where
  uPos : F32
  uNeg : F32
  pM : F32
  qM : F32
  vdc : F32
  uLo : F32
  uHi : F32
  theta : F32
  thetaN : F32
  freq : F32
  fly : Bool
deriving DecidableEq, Repr

/-- Quantities, angles and frequency (R184, R185). -/
def Dev.gridMeasure (d : Dev) (g : Nat) : GridMeas :=
  let x := d.grid g
  let o := d.ctxOut (d.get Par.gridCtxSync g)
  let vb := d.getF Par.gridVBase g
  let sb := d.getF Par.gridSBase g
  let t := d.tBeat
  let k15 : F32 := 0x3FC00000
  let uPos := fdiv (mag2 (o 0) (o 1)) vb
  let uNeg := fdiv (mag2 (o 2) (o 3)) vb
  let pM := fdiv (fmul k15 (fadd (fmul (o 0) (o 4)) (fmul (o 1) (o 5)))) sb
  let qM := fdiv (fmul k15 (fsub (fmul (o 1) (o 4)) (fmul (o 0) (o 5)))) sb
  let vdc := fdiv (o 6) (d.getF Par.gridVdcNom g)
  let fn := d.fNom g
  let freq := d.getF Par.gridFreq g
  let was := bit (d.get Par.gridStatus g) 3
  let sm := d.getF Par.gridSyncMin g
  let fly := if was then flt uPos (fadd sm (frat 2 100)) else flt uPos sm
  let fresh := x.lastStep != some (d.beatNo - 1) || d.beatNo == 0
  let w := fmul (fmul twoPi freq) t
  let th0 := d.getF Par.gridTheta g
  let estT := fatan2 (o 1) (o 0)
  let estN := fatan2 (o 3) (o 2)
  let theta := if !fly then estT
    else if !fresh then fwrap (fadd th0 w)
    else match x.angBeat with
      | none => f0
      | some b => fwrap (fadd th0 (fmul w (fint ((d.beatNo : Int) - b))))
  let thetaN := if !fly then estN
    else if !fresh then fwrap (fsub x.thetaN w)
    else match x.angBeat with
      | none => f0
      | some b => fwrap (fsub x.thetaN (fmul w (fint ((d.beatNo : Int) - b))))
  let freq' := if fly || was || fresh then freq
    else
      let raw := fadd fn (fdiv (fwrap (fsub (fsub estT th0) (fmul (fmul twoPi fn) t))) (fmul twoPi t))
      fadd freq (fmul (fdiv t (fadd (d.getF Par.gridFTau g) t)) (fsub raw freq))
  let b := d.get Par.gridFrtMeasure g = 1
  { uPos := uPos, uNeg := uNeg, pM := pM, qM := qM, vdc := vdc,
    uLo := if b then fsub uPos uNeg else uPos, uHi := if b then fadd uPos uNeg else uPos,
    theta := theta, thetaN := thetaN, freq := freq', fly := fly }

/-- Every measured value is finite (R186). -/
def GridMeas.finite (m : GridMeas) : Bool :=
  [m.uPos, m.uNeg, m.pM, m.qM, m.vdc, m.uLo, m.uHi, m.theta, m.thetaN, m.freq].all ffinite

/-- One curve of the envelope at `te` (R198): `u` lies below, or above, its value. Curve 0xFFFF is none. -/
def Dev.curveCheck (d : Dev) (te : F64) (c : Nat) (u : F32) (below : Bool) : Bool × Dev :=
  if c = 0xFFFF then (false, d)
  else
    let defd := d.curveDir false c != 0
    let r := d.curveEval c (fofd te)
    (defd && (if below then flt u r.1 else flt r.1 u), r.2)

/-- The envelope is violated (R198), with the curves' evaluation effects. -/
def Dev.gridViolated (d : Dev) (g : Nat) (m : GridMeas) : Bool × Dev :=
  let te := ddiv (dint ((d.beatStart : Int) - d.get Par.gridFrtOnset g)) (dint 6400000000)
  let a := d.curveCheck te (d.get Par.gridUvCurve g) m.uLo true
  let b := a.2.curveCheck te (d.get Par.gridOvCurve g) m.uHi false
  (a.1 || b.1 || (d.get Par.gridFrtState g == frFault && dlt (dof (d.getF Par.gridFrtMax g)) te), b.2)

/-- Enter FAULT (Table 8.3). -/
def Dev.frtOnset (d : Dev) (g : Nat) : Dev :=
  let x := d.grid g
  let d := d.setGrid g { x with inN := 0 }
  let d := (d.put Par.gridFrtState g frFault).put Par.gridFrtOnset g x.candTs
  (d.inc 32 Par.gridFrtCount g).raise evFrtOnset (oid 0x21 g)

/-- Counts of out-of-band and in-band beats (R196, Table 8.3); the first of a run of out-of-band beats keeps what the onset records. -/
def Dev.gridBand (d : Dev) (g : Nat) (m : GridMeas) : Dev :=
  let x := d.grid g
  let out := flt m.uLo (d.getF Par.gridUvEnter g) || flt (d.getF Par.gridOvEnter g) m.uHi
  let inb := fle (d.getF Par.gridUvExit g) m.uLo && fle m.uHi (d.getF Par.gridOvExit g)
  let x := if out then
      (if x.outN = 0 then
        { x with outN := 1, candTs := d.beatStart, candU := d.getF Par.gridUPos g, candP := d.getF Par.gridPCmd g }
       else { x with outN := x.outN + 1 })
    else if inb then { x with outN := 0 } else x
  let x := if d.get Par.gridFrtState g = frFault then
      (if inb then { x with inN := x.inN + 1 } else if out then { x with inN := 0 } else x) else x
  d.setGrid g x

/-- The transitions of Table 8.3 made on the counts. -/
def Dev.gridFrtMove (d : Dev) (g : Nat) : Dev :=
  let x := d.grid g
  let st := d.get Par.gridFrtState g
  let confirmed := decide (d.get Par.gridFrtConfirm g ≤ x.outN)
  if st = frFault then
    if ceilDiv (d.get Par.gridFrtExitMs g * 400000) d.beatTicks ≤ x.inN then
      (d.setGrid g { x with pRec0 := x.pRec, recN := 0 }).put Par.gridFrtState g frRecover
    else d
  else if st = frRecover then (if confirmed then d.frtOnset g else d)
  else if st = frIdle ∧ d.kind ≠ kRide ∧ confirmed = true then
    let d := d.setGrid g { x with pPre := x.candP, pRec := dabs (dof x.candP) }
    let d := (d.putF Par.gridUPre g x.candU).put Par.gridFrtOrigin g (if d.kind = kFollow ∨ d.kind = kForm then d.kind else 0)
    d.frtOnset g
  else d

/-- Ride-through state of one grid step (R196 to R198, Table 8.3): the counts move it, and the envelope is checked in every step that is then in
FAULT or RECOVER, the one that enters FAULT among them (log entry 72). -/
def Dev.gridRide (d : Dev) (g : Nat) (m : GridMeas) : Dev :=
  let d := (d.gridBand g m).gridFrtMove g
  let st := d.get Par.gridFrtState g
  if st = frFault ∨ st = frRecover then
    let v := d.gridViolated g m
    if v.1 then ((v.2.put Par.gridFrtState g frTrip).inc 32 Par.gridFrtTrips g).raise evFrtTrip (oid 0x21 g) else v.2
  else d

/-- The current limit in pu: i_max, less the injection of an enabled detector (R193, R208). -/
def Dev.iMaxEff (d : Dev) (g : Nat) : F32 :=
  if d.isldInjecting g then fsub (d.getF Par.gridIMax g) (d.isldAmp g) else d.getF Par.gridIMax g

/-- What following or forming computes: i_d, i_r and i_rn after the limit, the two references in A, the limit flag, and the values on the way that
a limit could hide (R186). -/
structure GridCur where
  iD : F32 := f0
  iR : F32 := f0
  iN : F32 := f0
  refA : F32 := f0
  refB : F32 := f0
  lim : Bool := false
  vals : List F32 := []
deriving DecidableEq, Repr

/-- Following (R192, R193, R199). -/
def Dev.gridFollow (d : Dev) (g : Nat) (m : GridMeas) (pCmd : F32) : GridCur × Dev :=
  let x := d.grid g
  let st := d.get Par.gridFrtState g
  let uc := fmax m.uPos (frat 2 10)
  let iD := fdiv pCmd uc
  let iR := if d.get Par.gridQMode g = 1 then fmul iD (tanD (ddiv (dmul x.phiEff piD) (dint 180)))
    else fdiv (fofd x.qEff) uc
  let kc := d.get Par.gridKPosCurve g
  let useC := st == frFault && kc != 0xFFFF && d.curveDir false kc != 0
  let r := if useC then d.curveEval kc m.uPos else (d.getF Par.gridKPos g, d)
  let d := r.2
  let iR := if st = frFault then fadd iR (fmul r.1 (fsub (d.getF Par.gridUPre g) m.uPos)) else iR
  let iN := if st = frFault then fmul (d.getF Par.gridKNeg g) m.uNeg else f0
  let im := d.iMaxEff g
  let sgnCap := fun (cap v : F32) => if flt cap (fabs v) then (if flt v f0 then fneg cap else cap) else v
  let (iD', iR', iN', lim) :=
    if st = frFault then
      let s := fadd (fabs iR) iN
      let ovr := flt im s
      let f := fdiv im s
      let iR1 := if ovr then fmul iR f else iR
      let iN1 := if ovr then fmul iN f else iN
      let dm := fsub im iN1
      let cap := fsqrt (fmax f0 (fsub (fmul dm dm) (fmul iR1 iR1)))
      (sgnCap cap iD, iR1, iN1, ovr || flt cap (fabs iD))
    else
      let iD1 := sgnCap im iD
      let cap := fsqrt (fmax f0 (fsub (fmul im im) (fmul iD1 iD1)))
      (iD1, sgnCap cap iR, iN, flt im (fabs iD) || flt cap (fabs iR))
  let lead := fmul (fmul (fmul twoPi m.freq) d.tBeat) (d.getF Par.gridLead g)
  let tr := fadd m.theta lead
  let tn := fsub m.thetaN lead
  let ib := fdiv (fmul (fint 2) (d.getF Par.gridSBase g)) (fmul (fint 3) (d.getF Par.gridVBase g))
  let ia := fmul ib (fsub (fadd (fmul iD' (fcos tr)) (fmul iR' (fsin tr))) (fmul iN' (fsin tn)))
  let ibt := fmul ib (fadd (fsub (fmul iD' (fsin tr)) (fmul iR' (fcos tr))) (fmul iN' (fcos tn)))
  ({ iD := iD', iR := iR', iN := iN', refA := ia, refB := ibt, lim := lim, vals := [iD, iR, iN, fadd (fabs iR) iN, tr, tn] }, d)

/-- Forming (R194, R195): the virtual machine's angle and speed advance. -/
def Dev.gridForm (d : Dev) (g : Nat) (m : GridMeas) (pCmd : F32) : GridCur × Dev :=
  let x := d.grid g
  let fn := d.fNom g
  let t := d.tBeat
  let fr := fdiv m.freq fn
  let th0 := if x.forming then x.thV else m.theta
  let w0 := if x.forming then d.getF Par.gridVsmSpeed g else fr
  let dp := fsub (fsub pCmd m.pM) (fmul (d.getF Par.gridDDamp g) (fsub w0 fr))
  let w := if x.limPrev then w0 else fadd w0 (fdiv (fmul dp t) (fmul (fint 2) (d.getF Par.gridHInertia g)))
  let th := fwrap (fadd th0 (fmul (fmul (fmul twoPi fn) w) t))
  let e := fsub (d.getF Par.gridERef g) (fmul (d.getF Par.gridQDroop g) (fsub m.qM (fofd x.qEff)))
  let ct := fcos m.theta
  let st := fsin m.theta
  let nre := fsub (fmul e (fcos th)) (fmul m.uPos ct)
  let nim := fsub (fmul e (fsin th)) (fmul m.uPos st)
  let r := d.getF Par.gridRV g
  let xv := d.getF Par.gridXV g
  let den := fadd (fmul r r) (fmul xv xv)
  let cre0 := fdiv (fadd (fmul nre r) (fmul nim xv)) den
  let cim0 := fdiv (fsub (fmul nim r) (fmul nre xv)) den
  let im := d.iMaxEff g
  let a := mag2 cre0 cim0
  let lim := flt im a
  let s := fdiv im a
  let cre := if lim then fmul cre0 s else cre0
  let cim := if lim then fmul cim0 s else cim0
  let iD := fadd (fmul cre ct) (fmul cim st)
  let iR := fneg (fsub (fmul cim ct) (fmul cre st))
  let rot := dmul (dmul (dmul (dmul (dint 2) piD) (dof m.freq)) (dof t)) (dof (d.getF Par.gridLead g))
  let co := cosD rot
  let si := sinD rot
  let ib := fdiv (fmul (fint 2) (d.getF Par.gridSBase g)) (fmul (fint 3) (d.getF Par.gridVBase g))
  let ia := fmul ib (fsub (fmul cre co) (fmul cim si))
  let ibt := fmul ib (fadd (fmul cre si) (fmul cim co))
  let d := (d.setGrid g { x with thV := th }).putF Par.gridVsmSpeed g w
  ({ iD := iD, iR := iR, iN := f0, refA := ia, refB := ibt, lim := lim, vals := [dp, w, th, e, nre, nim, den, cre0, cim0, a] }, d)

/-- Write a context reference by the fixed step that owns it (R181, R225). -/
def Dev.writeRef (d : Dev) (c k : Nat) (v : F32) : Dev := if c < 128 then d.putF (refPar k) c v else d

/-- The grid step forms a current under R194: in FORM, and in RIDE_THROUGH entered from FORM; with frt_origin NONE that state forms none (R197). A transition
from RIDE_THROUGH to RIDE_THROUGH keeps the kind that the first was entered from (DESIGN CHOICE, log entry 71). -/
def Dev.gridForms (d : Dev) (g : Nat) : Bool :=
  d.kind == kForm || (d.kind == kRide && (d.grid g).rideFrom == kForm && d.get Par.gridFrtOrigin g != 0)

/-- The grid step forms a current under R192, as `Dev.gridForms` is for R194. -/
def Dev.gridFollows (d : Dev) (g : Nat) : Bool :=
  d.kind == kFollow || (d.kind == kRide && (d.grid g).rideFrom == kFollow && d.get Par.gridFrtOrigin g != 0)

/-- Report the measured quantities of a step. -/
def Dev.gridShow (d : Dev) (g : Nat) (m : GridMeas) : Dev :=
  let d := (((d.putF Par.gridUPos g m.uPos).putF Par.gridUNeg g m.uNeg).putF Par.gridULo g m.uLo).putF Par.gridUHi g m.uHi
  let d := (((d.putF Par.gridTheta g m.theta).putF Par.gridFreq g m.freq).putF Par.gridPMeas g m.pM).putF Par.gridQMeas g m.qM
  let d := d.putF Par.gridVdcPu g m.vdc
  d.setGrid g { d.grid g with thetaN := m.thetaN, lastStep := some d.beatNo, angBeat := some d.beatNo, missRun := 0 }

/-- The end of RECOVER (Table 8.3), while the present state has FRT_ARMED (R197). -/
def Dev.gridFrtEnd (d : Dev) (g : Nat) : Dev :=
  let x := d.grid g
  if bit d.modeFlags 3 = true ∧ d.get Par.gridFrtState g = frRecover ∧ dle (dabs x.pEff) x.pRec = true then
    (d.put Par.gridFrtState g frIdle).raise evFrtEnd (oid 0x21 g)
  else d

/-- The currents of a step for a command p_cmd, the islanding injection on their references (R192, R194, R208); none in the other kinds (R191). -/
def Dev.gridCurrents (d : Dev) (g : Nat) (m : GridMeas) (pCmd : F32) : GridCur × Dev :=
  if d.gridForms g || d.gridFollows g then
    let k := if d.gridForms g then d.gridForm g m pCmd else d.gridFollow g m pCmd
    let ib := fdiv (fmul (fint 2) (d.getF Par.gridSBase g)) (fmul (fint 3) (d.getF Par.gridVBase g))
    let refs := if k.2.isldInjecting g then k.2.isldInject g ib (k.1.refA, k.1.refB) else (k.1.refA, k.1.refB)
    ({ k.1 with refA := refs.1, refB := refs.2, vals := k.1.vals ++ [ib, k.1.refA, k.1.refB] }, k.2)
  else ({}, d)

/-- The grid step from a valid measurement: ride-through, ramps, currents, references (R184), and whether all it computed is finite (R186). In the
step that enters RECOVER the recovery bound starts; its end is checked from the next step on, after the ramps. -/
def Dev.gridRun (d : Dev) (g : Nat) (m : GridMeas) : Bool × Dev :=
  let d := if bit d.modeFlags 3 then d.gridRide g m else d
  let d := d.gridShow g m
  let ram := d.gridRamping g
  let d := (d.gridClocks g).gridFrtEnd g
  let x := d.grid g
  let frt := d.get Par.gridFrtState g
  let ride := decide (frt = frFault) || decide (frt = frRecover)
  let cc := d.get Par.gridCtxCur g
  let ch := d.get Par.gridCtxChop g
  let clampCtx := ((d.ctxTarget g).map (·.2)).getD false
  let pCmd := fofd (if ride then dmax (dneg x.pRec) (dmin x.pRec x.pEff) else x.pEff)
  let form := d.gridForms g
  let makes := form || d.gridFollows g
  let k := d.gridCurrents g m pCmd
  let c := k.1
  let d := k.2
  let x := d.grid g
  let pr := if frt = frFault then dmin x.pRec (dabs (dof (fmul m.uPos c.iD))) else x.pRec
  let d := d.setGrid g { x with pRec := pr, forming := form, limPrev := c.lim, clampCtx := clampCtx }
  let chop := if ride && makes then fmax f0 (fsub x.pPre (fmul m.uPos c.iD)) else f0
  let d := ((d.writeRef cc 0 c.refA).writeRef cc 1 c.refB).writeRef ch 0 chop
  let d := (((d.putF Par.gridPCmd g pCmd).putF Par.gridID g c.iD).putF Par.gridIR g c.iR).putF Par.gridIRn g c.iN
  let fin := ([pCmd, c.iD, c.iR, c.iN, c.refA, c.refB, chop] ++ c.vals).all ffinite
  (fin, (d.gridReport g).put Par.gridStatus g
    (b2n ram + 2 * b2n (x.clampBits != 0 || clampCtx) + 4 * b2n c.lim + 8 * b2n m.fly))

/-- The grid step of one beat (R181, R186). A sync miss is a context that did not complete in this beat or is not in RUN, or a value that is not
finite, which discards the whole step. -/
def Dev.gridStep (d : Dev) (g : Nat) : Dev :=
  let c := d.get Par.gridCtxSync g
  if !(d.gridRuns g) then d
  else if d.get Par.ctxState c ≠ xsRun ∨ !(d.ctx c).fresh then d.gridMiss g
  else
    let m := d.gridMeasure g
    let r := d.gridRun g m
    if m.finite && r.1 then r.2 else d.gridMiss g

/-- A state is entered from one of kind `was`: without FRT_ARMED it sets frt_state to IDLE and keeps frt_origin (R197); RIDE_THROUGH notes the kind
it is entered from (R192, R194); a kind other than FORM, or than RIDE_THROUGH entered from FORM, ends forming (R195). -/
def Dev.gridStateChange (d : Dev) (was g : Nat) : Dev :=
  let d := if bit d.modeFlags 3 then d else (d.put Par.gridFrtState g frIdle).setGrid g { d.grid g with outN := 0, inN := 0 }
  let x := d.grid g
  let rideFrom := if d.kind = kRide then (if was = kRide then x.rideFrom else was) else 0
  let keeps := d.kind == kForm || (d.kind == kRide && rideFrom == kForm)
  d.setGrid g { x with rideFrom := rideFrom, forming := x.forming && keeps }

/-- Setting enable to 1 and each entry to power mode RUN set freq to f_nom (R185). -/
def Dev.gridFreqInit (d : Dev) (g : Nat) : Dev :=
  (d.putF Par.gridFreq g (d.fNom g)).setGrid g { d.grid g with lastStep := none }

/-- Store a target (R189): p_ref, q_ref or phi_ref, clamped; the answer and the CLAMPED bit. -/
def Dev.gridTarget (d : Dev) (p : Par) (g : Nat) (v : F32) : Nat × Dev :=
  let x := d.grid g
  let k := if p = Par.gridPRef then 0 else if p = Par.gridQRef then 1 else 2
  let (lo, hi, rate, eff) :=
    if k = 0 then (d.getF Par.gridPMin g, d.getF Par.gridPMax g, Par.gridPRate, x.pEff)
    else if k = 1 then (d.getF Par.gridQMin g, d.getF Par.gridQMax g, Par.gridQRate, x.qEff)
    else (fint (-80), fint 80, Par.gridPhiRate, x.phiEff)
  let r := targetAnswer lo hi v (d.rampStep (d.getF rate g)) eff
  let cb := setBit x.clampBits k (r.2 == stClamped)
  let d := (d.setGrid g { x with clampBits := cb }).putBit Par.gridStatus g 1 (cb != 0 || x.clampCtx)
  (r.2, d.putF p g r.1)

/-- GRID.o names a context in one of its four parameters. -/
def Dev.gridNames (d : Dev) (o c : Nat) : Bool :=
  [Par.gridCtxSync, Par.gridCtxCur, Par.gridCtxDc, Par.gridCtxChop].any (fun p => d.get p o == c)

/-- Checks of R182 on a set of GRID fields against the copy `sh` of the descriptors. -/
def Dev.gridOk (d : Dev) (sh : Bool) (g sync cur chop order : Nat) : Bool :=
  let others := (List.range 4).filter (· != g)
  let free := fun (c k : Nat) => (d.ctxWriters sh (refPar k) c).isEmpty
  (decide (128 ≤ sync) || (d.cDiv sh sync == 1 && decide (d.cOrder sh sync ≤ order)))
  && (decide (128 ≤ cur) || (decide (order < d.cOrder sh cur) && free cur 0 && free cur 1
      && others.all (fun o => !(d.gridNames o cur))))
  && (decide (128 ≤ chop) || (decide (order < d.cOrder sh chop) && free chop 0
      && others.all (fun o => !(d.gridNames o chop))))

end Sys2Proof.Machine
end

