-- ==== Sys2Proof/Machine/Ports.lean ====
section
/-! DEFINITION. Source ports (ch. 10): port states, openings and tracking, dither and curtailment, storage energy, set-points and
bursts, and the chopper legs' resistor model. -/

namespace Sys2Proof.Machine

/-- Every port in use. -/
def Dev.portsUsed (d : Dev) : List Nat := (List.range 32).filter (fun p => d.get Par.portTopology p != 0)
/-- A PV port. -/
def Dev.isPv (d : Dev) (p : Nat) : Bool := d.get Par.portKind p == 0

/-- Hold the gates of a port's legs low, or release them, at a window end (R228, R229): a held refresh is due in the first period
after the hold. -/
def Dev.portHold (d : Dev) (p : Nat) (hold : Bool) : Dev :=
  d.forL (d.portLegs p) (fun d n =>
    let st := d.get Par.legState n
    if hold ∧ st = lsRun then
      let r := (d.leg n).refreshDue
      let d := d.legStop n lsHold
      d.setLeg n { d.leg n with refreshDue := r }
    else if !hold ∧ st = lsHold then (d.setLeg n { d.leg n with wait := .updatePoint }).put Par.legState n lsRun
    else d)

/-- A port is OFF: its effective set-points are 0 (R224). -/
def Dev.portOff (d : Dev) (p : Nat) : Dev := ((d.put Par.portState p psOff).putF Par.portPEff p f0).putF Par.portPCmd p f0

/-- The state a port takes with LEGS_RUN from OFF, or after a clear (R224, R240): a PV port tracks and is due, with trim 0 where it comes from OFF
(R230); a storage port runs once e_cap is set, else PORT_CONFIG is raised and it stays OFF (R222). -/
def Dev.portEnter (d : Dev) (p : Nat) (fromOff : Bool) : Dev :=
  if d.isPv p then
    let d := d.setPort p { d.port p with due := some d.now, vocOk := false, vOff := d0, slewing := false, ditherN := none,
                                         opening := false, chosen := false, opened := false }
    let d := d.put Par.portState p psTrack
    if fromOff then d.putF Par.portTrim p f0 else d
  else if feq (d.getF Par.portECap p) f0 then
    let d := d.put Par.portState p psOff
    if (d.port p).configHeld then d else (d.setPort p { d.port p with configHeld := true }).raise evPortConfig (oid 0x30 p)
  else (d.setPort p { d.port p with configHeld := false }).put Par.portState p psRun

/-- Port states at a boundary (R224): OFF without LEGS_RUN or topology, except FAULT and LOCKED. -/
def Dev.portBoundary (d : Dev) (p : Nat) : Dev :=
  let st := d.get Par.portState p
  let used := d.get Par.portTopology p != 0
  if !used ∨ !d.legsRun then
    let d := if (d.port p).configHeld then d.setPort p { d.port p with configHeld := false } else d
    if st = psTrack ∨ st = psOpen ∨ st = psRun then
      let d := d.burstKill p
      let d := d.setPort p { d.port p with due := none, chosen := false, opening := false, openV := [], openN := 0, ditherN := none,
                                           holdNext := none }
      d.portOff p
    else d
  else if st = psOff then d.portEnter p true
  else d

/-- Value of a port's source (R226): none when it is 0, unpowered or invalid. -/
def Dev.portSrc (d : Dev) (obj : Nat) (scale : F32) : Option F32 := d.isldSrc obj scale

/-- Write the references of a port's context. -/
def Dev.portRefs (d : Dev) (p : Nat) (r0 r1 : F32) : Dev :=
  let c := d.get Par.portCtx p
  (d.writeRef c 0 r0).writeRef c 1 r1

/-- Voltage step of one beat in V: v_slew × T, T in ms (R229). -/
def Dev.slewStep (d : Dev) (p : Nat) : F32 := fmul (d.getF Par.portVSlew p) (frat d.beatTicks 400000)

/-- Beats of the hold of an opening (R228). -/
def Dev.openBeats (d : Dev) (p : Nat) : Nat := ceilDiv (d.get Par.portOpenMs p * 400000) d.beatTicks
/-- Beats of a dither period. -/
def Dev.ditherBeats (d : Dev) (p : Nat) : Nat := ceilDiv (d.get Par.portDitherMs p * 400000) d.beatTicks

/-- The fraction F (R230). -/
def Dev.portFraction (d : Dev) (p : Nat) : F32 × Dev :=
  let c := d.get Par.portVocCurve p
  let temp := if d.get Par.portTSrc p = 0 then d.getF Par.portTModule p
    else (d.portSrc (d.get Par.portTSrc p) (d.getF Par.portTScale p)).getD (d.getF Par.portTModule p)
  let r := if c = 0xFFFF ∨ d.curveDir false c = 0 then (d.getF Par.portVocFraction p, d) else d.curveEval c temp
  (fclamp 0x3F000000 (frat 95 100) (fadd r.1 (d.getF Par.portTrim p)), r.2)

/-- Start the opening of a chosen port in this beat (R228). -/
def Dev.portOpen (d : Dev) (p : Nat) : Dev :=
  let x := d.port p
  if x.chosen && !d.anyFrt then
    (d.setPort p { x with chosen := false, due := none, opening := true, openN := 0, openV := [], openStart := d.beatStart,
                          opened := true, vOff := d0, ditherN := none, holdNext := some true }).put Par.portState p psOpen
  else if x.chosen then d.setPort p { x with chosen := false } else d

/-- A PV step's voltage target, slewing, dither and curtailment from fraction `F` (R229 to R233): the port's record, its status, its voltage
target with the offset. -/
def Dev.pvTarget (d : Dev) (p : Nat) (pw F : F32) : PortRt × Nat × F32 :=
  let x := d.port p
  let st0 := d.get Par.portStatus p
  let voc := d.getF Par.portVoc p
  let tracked := fmul F voc
  let step := d.slewStep p
  let diff := fsub tracked x.target
  let arrive := fle (fabs diff) step
  let base := if !x.slewing || arrive then tracked
    else if flt diff f0 then fsub x.target step else fadd x.target step
  let slewing := x.slewing && !arrive
  -- dither
  let N := d.ditherBeats p
  let half := N / 2
  let pct := d.getF Par.portDitherPct p
  let n := match x.ditherN with
    | some k => if k < N then k else 0
    | none => 0
  let ps := if n = 0 then pw else fadd x.pSum pw
  let mean := fdiv ps (fint (n + 1 : Nat))
  let go := !(bit st0 1) && !(bit st0 2) && !(bit st0 0) && !d.anyFrt && flt f0 pct
    && fle (fmul (frat 1 100) (d.getF Par.portPRated p)) mean
  let hi := decide (n < half)
  let a := fdiv pct (fint 100)
  let tgt := if go then fmul base (if hi then fadd f1 a else fsub f1 a) else base
  let inHi := go && hi && decide (half - half / 2 ≤ n)
  let inLo := go && !hi && decide (N - (N - half) / 2 ≤ n)
  let hs := if n = 0 then f0 else x.hiSum
  let ls := if n = 0 then f0 else x.loSum
  let x := { x with slewing := slewing, target := base, ditherN := if go then some (n + 1) else none, pSum := ps
                    hiSum := if inHi then fadd hs pw else hs, loSum := if inLo then fadd ls pw else ls }
  -- curtailment
  let lim := d.getF Par.portPLimit p
  let top := dof (fsub voc tracked)
  let off := if flt lim pw then dmin top (dadd x.vOff (dof step))
    else if flt pw (fmul (frat 98 100) lim) then dmax d0 (dsub x.vOff (dof step)) else x.vOff
  let off := dmax d0 off
  let ref := fadd tgt (fofd off)
  ({ x with vOff := off }, setBit (setBit (setBit (st0) 0 false) 1 slewing) 2 (dlt d0 off), ref)

/-- One PV step in TRACK with a valid Voc (R229 to R232). -/
def Dev.pvTrack (d : Dev) (p : Nat) (pw : F32) : Dev :=
  let r := d.portFraction p
  let t := r.2.pvTarget p pw r.1
  let d := r.2.setPort p t.1
  (((d.put Par.portStatus p t.2.1).putF Par.portFraction p r.1).putF Par.portVTarget p t.2.2).portRefs p t.2.2 f0

/-- One PV step that is not missing. -/
def Dev.pvStep (d : Dev) (p : Nat) (v pw : F32) : Dev :=
  let x := d.port p
  let st := d.get Par.portState p
  if st = psTrack ∧ x.vocOk then d.pvTrack p pw
  else if st = psTrack ∨ st = psOpen then
    let d := d.setPort p { x with ditherN := none }
    let d := d.put Par.portStatus p (setField (d.get Par.portStatus p) 0 3 0)
    (d.putF Par.portVTarget p v).portRefs p v f0
  else (d.put Par.portStatus p (setField (d.get Par.portStatus p) 0 3 0)).portRefs p f0 f0

/-- Seconds of a number of fine ticks. -/
def secOf (n : Nat) : F64 := ddiv (dint n) (dint 6400000000)

/-- One step of p_eff in kW. -/
def Dev.pStep (d : Dev) (p : Nat) : F32 := fdiv (fmul (d.getF Par.portPRate p) (fint d.beatTicks)) (fint 400000000)

/-- E in kJ above the floor, less the reserve (R236). -/
def Dev.eAvail (d : Dev) (p : Nat) : F64 :=
  dsub (dsub (ddiv (d.port p).energy (dint 1000)) (dmul (dof (d.getF Par.portEFloor p)) (dint 3600)))
    (dmul (dof (d.getF Par.portEReserve p)) (dint 3600))
/-- E is at or below the floor. -/
def Dev.atFloor (d : Dev) (p : Nat) : Bool := dle (d.port p).energy (dmul (dof (d.getF Par.portEFloor p)) (dint 3600000))

/-- p_burst and the burst phase at the present elapsed time (R237, R238): ramp up at r, hold at P, ramp down to 0 at the granted
end, or at once from a truncation or an abort. -/
def Dev.burstAt (d : Dev) (p : Nat) : F32 × Nat :=
  let x := d.port p
  let r := dof (d.getF Par.portBurstRate p)
  let P := dof x.burstP
  match x.burstDown with
  | some (t0, p0) => (fofd (dmax d0 (dsub (dof p0) (dmul r (secOf (x.burstEl - t0))))), 3)
  | none =>
    let up := dmul r (secOf x.burstEl)
    let dn := if x.burstLen ≤ x.burstEl then d0 else dmul r (secOf (x.burstLen - x.burstEl))
    let v := dmin P (dmin up dn)
    (fofd v, if dlt dn P && dle dn up then 3 else if dlt up P then 1 else 2)

/-- Advance a burst in progress by one step (R237): power, phase, truncation at the floor. -/
def Dev.burstStep (d : Dev) (p : Nat) : Dev :=
  if d.get Par.portBurstState p = 0 then d
  else
    let a := d.burstAt p
    let d := (d.setPort p { d.port p with pBurst := a.1 }).put Par.portBurstState p a.2
    let x := d.port p
    if d.atFloor p ∧ flt f0 x.pBurst ∧ x.burstEnds = .completed then
      let d := d.setPort p { x with burstDown := some (x.burstEl, x.pBurst), burstEnds := .truncated }
      (((d.put Par.portBurstState p 3).inc 32 Par.portBurstsTruncated p).raise evBurstTruncated (oid 0x30 p))
    else d

/-- One storage step that is not missing (R226, R233, R235 to R237): energy, p_eff, burst, caps, the request, references. While OFF the effective
value and the command are 0, and the caps follow E as in every state. -/
def Dev.storageStep (d : Dev) (p : Nat) (v pw : F32) : Dev :=
  let x := d.port p
  let t := secOf d.beatLen
  let w := dmul (dof pw) (dint 1000)
  let e := if dle d0 w then dsub x.energy (ddiv (dmul w t) (dof (d.getF Par.portEtaDis p)))
    else dsub x.energy (dmul (dmul w t) (dof (d.getF Par.portEtaChg p)))
  let d := d.setPort p { x with energy := e }
  let kwh := ddiv e (dint 3600000)
  let soc := fofd (ddiv e (dmul (dint 3600000) (dof (d.getF Par.portECap p))))
  let d := (d.putF Par.portEnergy p (fofd kwh)).putF Par.portSoc p soc
  let st := d.get Par.portState p
  let off := decide (st = psOff)
  let tgt := d.getF Par.portPSet p
  let step := d.pStep p
  let eff0 := d.getF Par.portPEff p
  let ram := flt step (fabs (fsub tgt eff0))
  let eff := if off then f0 else fadd eff0 (fmax (fneg step) (fmin step (fsub tgt eff0)))
  let d := d.burstStep p
  let x := d.port p
  let lim := d.pSetLimits p
  let empty := d.atFloor p
  let full := fle (d.getF Par.portSocMax p) soc
  let move := fun (cond : Bool) (top : F32) (c : Option F32) =>
    let c := fmin top (c.getD top)
    if cond then fmax f0 (fsub c step) else fmin top (fadd c step)
  let dc := move empty lim.2 x.disCap
  let cc := move full (fneg lim.1) x.chgCap
  let eff := fmax (fneg cc) (fmin dc eff)
  let cmd := if off then f0 else fmax (fneg cc) (fmin dc (fadd eff x.pBurst))
  let req := d.getF Par.portBurstReq p
  let half : F32 := 0x3F000000
  let cross := fle x.reqPrev half && flt half req
  let d := d.setPort p { x with disCap := some dc, chgCap := some cc, reqPrev := req, reqDue := x.reqDue || cross }
  let s := d.get Par.portStatus p
  let s := setBit (setBit (setBit (setBit s 0 false) 3 empty) 4 full) 6 ram
  let d := ((d.put Par.portStatus p s).putF Par.portPEff p eff).putF Par.portPCmd p cmd
  if st = psRun then d.portRefs p (fdiv (fmul (fint 1000) cmd) (fmax (fabs v) (fint 10))) cmd
  else d.portRefs p f0 f0

/-- The port step of one beat (R225, R226). In a missing beat only the clocks advance: the opening's beats, the burst's elapsed
time; the dither period is dropped (log entry 24). -/
def Dev.portStep (d : Dev) (p : Nat) : Dev :=
  let d := if d.isPv p then d.portOpen p else d
  let x := d.port p
  let x := if x.opening && x.openStart != d.beatStart then { x with openN := x.openN + 1 } else x
  let x := if d.get Par.portBurstState p != 0 then { x with burstEl := x.burstEl + d.beatLen } else x
  let v := d.portSrc (d.get Par.portVSrc p) (d.getF Par.portVScale p)
  let i := d.portSrc (d.get Par.portISrc p) (d.getF Par.portIScale p)
  let keep := fun (s : Option F32) => if x.opening then s :: x.openV else x.openV
  match v, i with
  | some v, some i =>
    let pw := fdiv (fmul v i) (fint 1000)
    let d := d.setPort p { x with openV := keep (some v) }
    let d := ((d.putF Par.portVMeas p v).putF Par.portIMeas p i).putF Par.portPMeas p pw
    if d.isPv p then d.pvStep p v pw else d.storageStep p v pw
  | _, _ =>
    let d := d.setPort p { x with openV := keep none, ditherN := none }
    let d := d.putBit Par.portStatus p 0 true
    if d.get Par.portState p = psOff then d.portRefs p f0 f0 else d

/-! ## Commands of ports -/

/-- A stagger slot begins (R227): the port due longest, lowest number among equals, is chosen; each other due port has waited. -/
def Dev.staggerSlot (d : Dev) : Dev :=
  let ps := d.portsUsed.filter (fun p => d.isPv p && (d.port p).due.isSome && !(d.port p).opening
    && (d.get Par.portState p == psTrack || d.get Par.portState p == psOpen))
  let order := sortBy (fun a b => decide (((d.port a).due.getD 0) < ((d.port b).due.getD 0))) ps
  let busy := fun p => d.portsUsed.any (fun q => q != p && d.get Par.portState q == psOpen)
  let pick := if d.anyFrt then none else order.find? (fun p => !(busy p))
  let d := d.forL ps (fun d p => if pick = some p then d else d.inc 32 Par.portSamplesLate p)
  match pick with
  | some p => d.setPort p { d.port p with chosen := true }
  | none => d

/-- A port becomes due (R227). -/
def Dev.portDue (d : Dev) (p : Nat) : Dev :=
  let x := d.port p
  let st := d.get Par.portState p
  if d.get Par.portTopology p != 0 ∧ d.isPv p ∧ (st = psTrack ∨ st = psOpen) ∧ !x.opening then
    d.setPort p { x with due := some (x.due.getD d.now) }
  else d

/-- Elements present among the beats of a mean. -/
def present (xs : List (Option F32)) : List F32 := xs.filterMap id

/-- The hold of an opening ends (R229): Voc is formed and judged. -/
def Dev.openingEnd (d : Dev) (p : Nat) : Dev :=
  let x := d.port p
  let ob := d.openBeats p
  if !x.opening ∨ x.openN < ob then d
  else
    let k := ob / 4
    let win := x.openV.take k
    let vs := (present win).reverse
    let voc := fdiv (vs.foldl fadd f0) (fint vs.length)
    let mx := vs.foldl fmax (vs.headD f0)
    let mn := vs.foldl fmin (vs.headD f0)
    let ok := decide (k ≤ 2 * vs.length) && decide (0 < vs.length)
      && fle (d.getF Par.portVocMin p) voc && fle voc (d.getF Par.portVocMax p) && fle (fsub mx mn) (fmul (frat 1 100) voc)
    let d := d.inc 32 Par.portSamples p
    let d := if ok then (d.putF Par.portVoc p voc).put Par.portVocTime p d.beatStart
      else (d.inc 32 Par.portVocInvalid p).raise evPortVocInvalid (oid 0x30 p)
    let good := ok || x.vocOk
    let x := { x with opening := false, openV := [], openN := 0, vocOk := good, lastBad := !ok }
    if good then
      let v := d.getF Par.portVoc p
      let d := d.setPort p { x with slewing := true, target := v, holdNext := some false }
      let d := (d.put Par.portState p psTrack).putBit Par.portStatus p 1 true
      (d.putF Par.portVTarget p v).portRefs p v f0
    else d.setPort p x

/-- A dither period ends (R231): the means are compared and trim moves. -/
def Dev.ditherEnd (d : Dev) (p : Nat) : Dev :=
  let x := d.port p
  let N := d.ditherBeats p
  if x.ditherN != some N ∨ N = 0 then d
  else
    let half := N / 2
    let hi := fdiv x.hiSum (fint (half / 2 : Nat))
    let lo := fdiv x.loSum (fint ((N - half) / 2 : Nat))
    let dead := fmul (d.getF Par.portDitherDead p) (fdiv (fadd hi lo) (fint 2))
    let t := d.getF Par.portTrim p
    let s := d.getF Par.portTrimStep p
    let t := if flt dead (fsub hi lo) then fadd t s else if flt dead (fsub lo hi) then fsub t s else t
    let m := d.getF Par.portTrimMax p
    (d.setPort p { x with ditherN := none }).putF Par.portTrim p (fclamp (fneg m) m t)

/-- A stored-energy calibration takes effect (R234). -/
def Dev.socSet (d : Dev) (p : Nat) (v : F32) : Dev :=
  let e := dmul (dmul (dof v) (dof (d.getF Par.portECap p))) (dint 3600000)
  (d.setPort p { d.port p with energy := e }).putBit Par.portStatus p 5 false

/-- Store p_set as a target is stored (R235, R189): the answer. -/
def Dev.pSetWrite (d : Dev) (p : Nat) (v : F32) : Nat × Dev :=
  let lim := d.pSetLimits p
  let t := fclamp lim.1 lim.2 v
  let st := if !(feq t v) then stClamped
    else if flt (d.pStep p) (fabs (fsub t (d.getF Par.portPEff p))) then stRamping else stOk
  (st, d.putF Par.portPSet p t)

/-- burst_result codes (Table 10.4). -/
def burstCode (st : Nat) : Option Nat :=
  if st = stOk then some 1 else if st = stGrantPartial then some 2 else if st = stLength then some 3
  else if st = stBusy then some 4 else none

/-- Decide a burst request (R236), grant and start it (R237): the answer. -/
def Dev.burstRequest (d : Dev) (p : Nat) : Nat × Dev :=
  let d := d.setPort p { d.port p with reqDue := false, reqPrev := d.getF Par.portBurstReq p }
  let P := d.getF Par.portBurstP p
  let D := dof (d.getF Par.portBurstS p)
  let r := dof (d.getF Par.portBurstRate p)
  let pb := fmax f0 (d.getF Par.portPEff p)
  let Pd := dof P
  let pbd := dof pb
  let eta := dof (d.getF Par.portEtaDis p)
  let eb := ddiv (dadd (dadd (dmul Pd D) (ddiv (dmul Pd Pd) r)) (dmul pbd (dadd D (ddiv (dmul (dint 2) Pd) r)))) eta
  let av := d.eAvail p
  let D' := ddiv (dsub (dsub (dmul av eta) (ddiv (dmul Pd Pd) r)) (ddiv (dmul (dmul (dint 2) pbd) Pd) r)) (dadd Pd pbd)
  let (st, len) :=
    if d.get Par.portBurstState p ≠ 0 then (stBusy, d0)
    else if d.get Par.portState p ≠ psRun then (stBadState, d0)
    else if fle P f0 || flt (d.getF Par.portPDisMax p) (fadd P pb) then (stRange, d0)
    else if dle eb av then (stOk, D)
    else if dle (dof (d.getF Par.portBurstMinS p)) D' then (stGrantPartial, D')
    else (stLength, d0)
  let d := match burstCode st with
    | some c => d.put Par.portBurstResult p c
    | none => d
  if st = stOk ∨ st = stGrantPartial then
    let secs := dadd (ddiv (dmul (dint 2) Pd) r) len
    let beats := (dceil (ddiv (dmul secs (dint 400000000)) (dint d.beatTicks))).toNat
    let l := beats * d.beatTicks * 16
    let d := d.setPort p { d.port p with burstP := P, burstEl := 0, burstLen := l, burstDown := none, burstEnds := .completed,
                                         pBurst := f0 }
    (st, (d.put Par.portBurstState p 1).put Par.portBurstEnd p (d.beatStart + l))
  else (st, d)

/-- A burst whose power has returned to 0 ends with its result (R237, R238). -/
def Dev.burstEnd (d : Dev) (p : Nat) : Dev :=
  let x := d.port p
  if d.get Par.portBurstState p = 3 ∧ (x.burstDown.isSome ∨ x.burstLen ≤ x.burstEl) ∧ fle x.pBurst f0 then
    let d := d.put Par.portBurstState p 0
    let d := d.put Par.portBurstResult p (match x.burstEnds with | .completed => 5 | .aborted => 6 | .truncated => 7)
    d.setPort p { x with burstDone := some d.beatStart, burstDown := none }
  else d

/-- Decide a write of 1 to burst_abort (R238): LATE_ABORT with no burst in progress or its completion registered, else ABORTED and the ramp-down
starts. A burst that a truncation or an abort ramps down already goes on so, with the result it has (DESIGN CHOICE, log entry 73). -/
def Dev.burstAbort (d : Dev) (p : Nat) : Nat × Dev :=
  let x := d.port p
  if d.get Par.portBurstState p = 0 then (stLateAbort, d)
  else if x.burstEnds != .completed then (stAborted, d)
  else (stAborted, (d.setPort p { x with burstDown := some (x.burstEl, x.pBurst), burstEnds := .aborted }).put Par.portBurstState p 3)

/-- A trip input of a leg of the port is active (R240). -/
def Dev.portInputs (d : Dev) (p : Nat) : Bool := (d.portLegs p).any (fun n => d.legInputs n != 0)

/-- Judge a write of 1 to clear (R240). -/
def Dev.judgePortClear (d : Dev) (p : Nat) : Nat :=
  if d.get Par.portState p = psLocked then stBadState
  else if d.get Par.portState p = psFault ∧ (d.portInputs p ∨ (d.port p).tripTick = some (d.now / 16)) then stTripActive
  else stOk

/-- Judge a write of 1 to unlock (R240). -/
def Dev.judgePortUnlock (d : Dev) (p : Nat) : Nat :=
  if d.get Par.portState p ≠ psLocked then stOk
  else if d.portInputs p then stTripActive else if d.legsRun then stBadState else stOk

/-- Leave FAULT or LOCKED (R240): the legs leave TRIPPED, the port takes the state of R224 and a PV port is due. -/
def Dev.portRelease (d : Dev) (p from' : Nat) : Dev :=
  if d.get Par.portState p ≠ from' ∨ d.portInputs p then d
  else
    let run := d.legsRun && d.get Par.portTopology p != 0
    let d := d.portOff p
    let d := if run then d.portEnter p false else d
    let d := d.forL (d.portLegs p) (fun d n =>
      if d.get Par.legState n = lsTripped then
        let d := d.put Par.legTripCause n 0
        if d.get Par.portState p ≠ psOff then d.legEnter n .inputEdge (d.isPv p) else d.put Par.legState n lsOff
      else d)
    d

/-! ## Chopper legs (R242) -/

/-- Advance the resistor model of chopper leg `n` by one beat; in another role a leg has no limit (R243). -/
def Dev.chopperStep (d : Dev) (n : Nat) : Dev :=
  if d.legRole n ≠ 2 then
    (if d.isOn Par.legChopLimited n then (d.setLeg n { d.leg n with dutyLimit := none }).put Par.legChopLimited n 0 else d)
  else
    let g := d.get Par.legChopGrid n
    let vdc := dmul (dof (d.getF Par.gridVdcPu g)) (dof (d.getF Par.gridVdcNom g))
    let x := d.leg n
    let duty := if d.get Par.legState n = lsRun then dof x.duty else d0
    let r := dof (d.getF Par.legChopR n)
    let tau := dof (d.getF Par.legChopTau n)
    let t := secOf d.beatLen
    let heat := ddiv (ddiv (dmul (dmul vdc vdc) duty) r) (dint 1000)
    let e := dmax d0 (dadd x.energy (dmul (dsub heat (ddiv x.energy tau)) t))
    let emax := d.getF Par.legChopEMax n
    let on := flt f0 emax
    let was := d.isOn Par.legChopLimited n
    let lim := on && (if was then !(dlt e (dmul (drat 9 10) (dof emax))) else dle (dof emax) e)
    let cap := fofd (ddiv (dmul (dmul (ddiv (dof emax) tau) r) (dint 1000)) (dmul vdc vdc))
    let x := { x with energy := e, dutyLimit := if lim then some cap else none }
    let d := ((d.setLeg n x).putF Par.legChopEnergy n (fofd e)).put Par.legChopLimited n (b2n lim)
    if lim && !was then d.raise evChopOverload (oid 0x31 n) else d

end Sys2Proof.Machine
end

