-- ==== Sys2Proof/Machine/Meter.lean ====
section
/-! DEFINITION. Energy metering (ch. 13): sample processing, accumulation periods, registers, commits and records. -/

namespace Sys2Proof.Machine

/-- Events of the group. -/
abbrev evMeterZcTimeout : Nat := 132
/-- See `evMeterZcTimeout`. -/
abbrev evMeterFreqRange : Nat := 133
/-- See `evMeterZcTimeout`. -/
abbrev evMeterOvr : Nat := 134
/-- See `evMeterZcTimeout`. -/
abbrev evMeterLostInterval : Nat := 135
/-- See `evMeterZcTimeout`. -/
abbrev evMeterRecordLost : Nat := 136

/-- Record causes (Table 13.4). -/
abbrev mcPeriodic : Nat := 0
/-- See `mcPeriodic`. -/
abbrev mcLastGasp : Nat := 1
/-- See `mcPeriodic`. -/
abbrev mcClean : Nat := 2
/-- See `mcPeriodic`. -/
abbrev mcReset : Nat := 3

/-- A metering element. -/
def Dev.met1 (d : Dev) (e : Nat) : MetRt := d.met.el.get (fun _ => {}) e
/-- Store a metering element. -/
def Dev.setMet1 (d : Dev) (e : Nat) (x : MetRt) : Dev := { d with met := { d.met with el := d.met.el.set (fun _ => {}) e x } }

/-- The engine runs: power modes RUN and PARKED, with or without firmware (R281). -/
def Dev.metRuns (d : Dev) : Bool := d.phase != .held && d.phase != .dark && d.phase != .warm

/-! ## Sample processing (R283) -/

/-- Sum of products, first element first, in binary64. -/
def dsumProd (ps : List (F64 × F64)) : F64 := ps.foldl (fun s p => dadd s (dmul p.1 p.2)) d0

/-- The 16-tap delay filter over the newest samples. -/
def delayed (ns : Int) (xs : List F64) : F64 :=
  dsumProd ((List.range 16).map (fun i => (Config.delayTap ns i, xs.getD i d0)))

/-- One channel: code, full scale, DC block or offset, gain, delay. -/
def metChannel (c : MetCh) (code : Int) (fs : F32) (hpf : Bool) (off gain : F32) (delay : Int) : F64 × MetCh :=
  let x := dmul (dof fs) (drat code 8388608)
  let y := if hpf then Config.dcBlock x c.x1 c.y1 else dsub x (dof off)
  let taps := (dmul y (dof gain) :: c.taps).take 16
  (delayed delay taps, { x1 := x, y1 := y, taps := taps })

/-- Nominal period in sample periods (Table 13.6, f_nom): 160 for 50 Hz, 8,000 / 60 for 60 Hz. -/
def Dev.metNominal (d : Dev) : F64 := if d.get Par.metrFNom 4 = 1 then drat 400 3 else dint 160

/-! ## Registers (R286, R287) -/

/-- 2^64, the scale of the fraction kept with a register (R287). -/
def regScale : Nat := 18446744073709551616

/-- Milli-unit-hours of an energy in joules, in the fixed point of R287: 3.6 J each, converted once, rounded to nearest. -/
def milliHours (e : F64) : Nat :=
  let m := ddiv (dabs e) (drat 18 5)
  (dround (dmul m (dint regScale))).toNat

/-- Live register `r` of METR.e. -/
def Dev.metReg (d : Dev) (e r : Nat) : Nat := d.met.regs.get (fun _ => 0) (7 * e + r)

/-- Add to a live register, modulo 2^64 milli-units. -/
def Dev.metAdd (d : Dev) (e r n : Nat) : Dev :=
  { d with met := { d.met with regs := d.met.regs.set (fun _ => 0) (7 * e + r) ((d.metReg e r + n) % (regScale * regScale)) } }

/-- Quadrant register of Table 13.2: 2 to 5; none with q1 = 0. -/
def quadrant (pNeg : Bool) (q : F64) : Option Nat :=
  if dlt q d0 then some (if pNeg then 2 else 3)
  else if dlt d0 q then some (if pNeg then 5 else 4)
  else none

/-- Register active, reactive and apparent energies in METR.e (R287): a power of 0 counts as export. -/
def Dev.metRegister (d : Dev) (e : Nat) (ep eq es : F64) : Dev :=
  let pNeg := dlt ep d0
  let d := d.metAdd e (if pNeg then 0 else 1) (milliHours ep)
  let d := match quadrant pNeg eq with
    | some r => d.metAdd e r (milliHours eq)
    | none => d
  d.metAdd e 6 (milliHours es)

/-! ## Accumulation periods (R284 to R286, R291) -/

/-- v90 of R285: the corrected voltage delayed by a quarter of a period of `len` sample periods, for the sample `j` places back. -/
def v90At (h : List F64) (len : F64) (j : Nat) : F64 :=
  let q := ddiv len (dint 4)
  let k := (flFloor (f64u q)).toNat
  delayed (dround (dmul (dsub q (dint k)) (dint 125000))) ((h.drop (j + k)).take 16)

/-- Wrap a phase in micro-radians into cosine and sine of R285. -/
def phaseCis (urad : F32) : F64 × F64 :=
  let a := ddiv (dof urad) (dint 1000000)
  (dof (cosD a), dof (sinD a))

/-- End the accumulation period of element `e`, `len` sample periods long (R285, R286, R291): quantities, energies and the block of the
commit interval. `f` is the frequency of the period where one was measured; `newer` samples of the history follow the period. -/
def Dev.metPeriod (d : Dev) (e : Nat) (len : F64) (f : Option F64) (newer : Nat := 0) : Dev :=
  let x := d.met1 e
  let n := dint x.vs.length
  let t := ddiv len (dint 8000)
  let quarter := if x.timeout then d.metNominal else len
  let hist := x.vHist.drop newer
  let idx := List.range x.vs.length
  let vr := dsqrt (ddiv (dsumProd (x.vs.map (fun a => (a, a)))) n)
  let ir := dsqrt (ddiv (dsumProd (x.is.map (fun a => (a, a)))) n)
  let p := ddiv (dsumProd (List.zip x.vs x.is)) n
  let q := ddiv (dsumProd (List.zip (idx.map (fun j => v90At hist quarter j)) x.is)) n
  let cs := phaseCis (d.getF Par.metrPqPhase e)
  let p1 := dadd (dmul (dof (d.getF Par.metrPGain e)) (dsub (dmul p cs.1) (dmul q cs.2))) (dof (d.getF Par.metrPOffset e))
  let q1 := dadd (dmul (dof (d.getF Par.metrQGain e)) (dadd (dmul q cs.1) (dmul p cs.2))) (dof (d.getF Par.metrQOffset e))
  let s := dmul (dmul (dof (d.getF Par.metrSGain e)) vr) ir
  let pf := if dlt d0 s || dlt s d0 then ddiv p1 s else d0
  let noLoad := x.vs.isEmpty || dlt ir (ddiv (dmul (dof (d.getF Par.metrStartPct e)) (dof (d.getF Par.metrIBasic e))) (dint 100))
  let fs := match f with
    | some y => (y :: x.freqs).take 8
    | none => if x.timeout then [] else x.freqs
  let out := match f with
    | some y => dlt y (dint 40) || dlt (dint 70) y
    | none => bit (d.get Par.metrStatus e) 2
  let freq := if x.timeout then f0 else if fs = [] then f0 else Config.freqSmooth fs
  let wasOut := bit (d.get Par.metrStatus e) 2
  let d := d.setMet1 e { x with vs := [], is := [], ovr := false, freqs := fs, lastLen := if f.isSome then len else x.lastLen }
  let d := ((d.putF Par.metrVRms e (fofd vr)).putF Par.metrIRms e (fofd ir)).putF Par.metrS e (fofd s)
  let d := ((d.putF Par.metrP e (fofd p1)).putF Par.metrQ e (fofd q1)).putF Par.metrPf e (fofd pf)
  let d := d.putF Par.metrFreq e freq
  let d := d.put Par.metrStatus e (b2n noLoad + 2 * b2n x.timeout + 4 * b2n out + 8 * b2n x.ovr)
  let d := if out && !wasOut then d.raise evMeterFreqRange (oid 0x50 e) else d
  if noLoad then d
  else
    let ep := dmul p1 t
    let eq := dmul q1 t
    let es := dmul s t
    let d := d.metRegister e ep eq es
    if bit (d.get Par.metrElemMask 4) e then
      { d with met := { d.met with bP := dadd d.met.bP ep, bQ := dadd d.met.bQ eq, bS := dadd d.met.bS es, bAny := true } }
    else d

/-- A positive-going zero crossing between the last two samples, `x` of the way, ends the period (R284); in timeout only the second
of two crossings less than 40 ms apart does, and ends the timeout. -/
def Dev.metCrossing (d : Dev) (e : Nat) (frac : F64) : Dev :=
  let x := d.met1 e
  let rest := dsub (dint 1) frac
  let len := dsub x.pos rest
  if x.timeout then
    match x.cross with
    | some g =>
      if dlt (dsub g rest) (dint 320) then
        let d := d.setMet1 e { x with timeout := false }
        let d := (d.putBit Par.metrStatus e 1 false).metPeriod e len none 1
        d.setMet1 e { d.met1 e with pos := rest, cross := some rest, freqs := [] }
      else d.setMet1 e { x with cross := some rest }
    | none => d.setMet1 e { x with cross := some rest }
  else
    -- The first crossing of all starts the first period.
    let d := match x.cross with
      | some _ => d.metPeriod e len (some (ddiv (dint 8000) len)) 1
      | none => d.setMet1 e { x with vs := [], is := [], ovr := false }
    d.setMet1 e { d.met1 e with pos := rest, cross := some rest }

/-- No crossing within 40 ms, or a fixed period ends (R284). -/
def Dev.metTimeout (d : Dev) (e : Nat) : Dev :=
  if !d.metRuns ∨ !(d.isOn Par.metrEnable e) then d
  else
    let x := d.met1 e
    let len := if x.timeout then d.metNominal else dint 320
    let first := !x.timeout
    let d := d.setMet1 e { x with timeout := true, freqs := [], cross := if first then none else x.cross }
    let d := d.metPeriod e len none
    let d := d.setMet1 e { d.met1 e with pos := dmax d0 (dsub (d.met1 e).pos len) }
    if first then d.raise evMeterZcTimeout (oid 0x50 e) else d

/-- A code that is out of range (R291). -/
def metOvr (c : Int) : Bool := c == 8388607 || c == -8388607 || c == -8388608

/-- The sample instant of one element (R281 to R284): its two corrected samples, and the crossing they may close. -/
def Dev.metElement (d : Dev) (e : Nat) (vc ic : Int) : Dev :=
  if !(d.isOn Par.metrEnable e) then d
  else
    let x := d.met1 e
    let hpf := d.isOn Par.metrHpf e
    let vf := d.getF Par.metrVFs e
    let v := metChannel x.v vc vf hpf (d.getF Par.metrVOffset e) (d.getF Par.metrVGain e) (d.getI Par.metrVDelay e)
    let i := metChannel x.i ic (d.getF Par.metrIFs e) hpf (d.getF Par.metrIOffset e) (d.getF Par.metrIGain e) (d.getI Par.metrIDelay e)
    let prev := x.vHist.getD 0 d0
    let half := (flFloor (f64u (ddiv (if x.lastLen = d0 then d.metNominal else x.lastLen) (dint 2)))).toNat
    let low := dlt v.1 (dneg (ddiv (dof vf) (dint 100)))
    let since := if low then some 0 else x.sinceLow.map (· + 1)
    let counts := match x.sinceLow with
      | some k => decide (k < half)
      | none => false
    let crossing := counts && dlt prev d0 && dle d0 v.1
    let ovr := metOvr vc || metOvr ic
    let d := if ovr && !x.ovr then d.raise evMeterOvr (oid 0x50 e) else d
    let d := d.setMet1 e { x with v := v.2, i := i.2, vHist := (v.1 :: x.vHist).take 440, sinceLow := if crossing then none else since,
                                  pos := dadd x.pos (dint 1), cross := x.cross.map (fun g => dadd g (dint 1)) }
    let d := if crossing then d.metCrossing e (ddiv (dneg prev) (dsub v.1 prev)) else d
    let y := d.met1 e
    d.setMet1 e { y with vs := v.1 :: y.vs, is := i.1 :: y.is, ovr := y.ovr || ovr }

/-- The sample instant of the eight channels (R281): codes of voltage channels 0–3 and current channels 0–3. -/
def Dev.metSample (d : Dev) (vs is : List Int) : Dev :=
  if !d.metRuns then d
  else
    let d := d.forN 4 (fun d e => d.metElement e (vs.getD (d.get Par.metrVSel e) 0) (is.getD e 0))
    if d.up then
      d.forN 4 (fun d e =>
        if d.isOn Par.metrEnable e then
          let x := d.met1 e
          let d := d.sample 0x50 e 0 d.now (fofd (x.vHist.getD 0 d0)) 2
          d.sample 0x50 e 1 d.now (fofd (x.is.getD 0 d0)) 2
        else d)
    else d

/-! ## Blocks, commits and records (R288, R289, R292 to R296) -/

/-- Register `r` of METR.e as parameters 0 to 6 of Table 13.2. -/
def regPar (r : Nat) : Par := ⟨0x50, Par.metrAImp.idx + r % 7⟩

/-- Register the block in METR.4 (R288) and its block values, over `t` seconds. -/
def Dev.metBlock (d : Dev) (t : F64) : Dev :=
  let m := d.met
  let p := ddiv m.bP t
  let q := ddiv m.bQ t
  let s := ddiv m.bS t
  let els := bitsOf (d.get Par.metrElemMask 4) 4
  let d := if m.bAny then d.metRegister 4 m.bP m.bQ m.bS else d
  let d := { d with met := { d.met with bP := d0, bQ := d0, bS := d0, bAny := false } }
  let d := ((d.putF Par.metrP 4 (fofd p)).putF Par.metrQ 4 (fofd q)).putF Par.metrS 4 (fofd s)
  let d := d.putF Par.metrPf 4 (if dlt d0 s || dlt s d0 then fofd (ddiv p s) else f0)
  let d := d.putF Par.metrFreq 4 (match els with
    | e :: _ => d.getF Par.metrFreq e
    | [] => f0)
  let st := els.map (d.get Par.metrStatus)
  let any := fun b => st.any (fun v => bit v b)
  d.put Par.metrStatus 4 (b2n (!m.bAny) + 2 * b2n (any 1) + 4 * b2n (any 2) + 8 * b2n (any 3))

/-- Write a record (R293): seq one above the last, into slot seq mod 2; the registers and rows that show the last commit follow. -/
def Dev.metRecord (d : Dev) (cause : Nat) : Dev :=
  let seq := (d.get Par.metrCommitSeq 4 + 1) % 2 ^ 32
  let sl := (min (max 0 (fround (d.getF Par.metrS 4))) 4294967295).toNat
  let rec' : MetRec :=
    { seq := seq, ts := d.now, cause := cause, tq := d.get Par.beatTimeState 0, sLast := sl
      regs := (List.range 35).map (fun k => d.metReg (k / 7) (k % 7) / regScale)
      alloc := (List.range 64).map (fun k => d.met.alloc.get (fun _ => 0) k / regScale) }
  let d := { d with met := { d.met with slots := d.met.slots.set (fun _ => none) (seq % 2) (some rec') } }
  let d := ((d.put Par.metrCommitSeq 4 seq).put Par.metrCommitTime 4 d.now).put Par.metrSLast 4 sl
  d.forN 35 (fun d k => d.put (regPar (k % 7)) (k / 7) (rec'.regs.getD k 0))

/-- The bytes of a record (Table 13.4). -/
def MetRec.bytes (r : MetRec) : List Byte :=
  let body := leBytes 4 0x4D455452 ++ leBytes 4 r.seq ++ leBytes 8 r.ts ++ leBytes 1 r.cause ++ leBytes 1 r.tq ++ leBytes 2 1
    ++ leBytes 4 r.sLast ++ leBytes 8 0 ++ r.regs.flatMap (leBytes 8) ++ r.alloc.flatMap (leBytes 8) ++ leBytes 196 0
  body ++ leBytes 4 (crc32 body)

/-- A commit instant (R293): the block is registered and a PERIODIC record written. -/
def Dev.metCommit (d : Dev) : Dev :=
  if !d.metRuns then d else (d.metBlock (drat 1 100)).metRecord mcPeriodic

/-- A last-gasp commit (R294): every element's period and the block close at the detection sample. -/
def Dev.supplyLoss (d : Dev) : Dev :=
  if !d.metRuns ∨ !d.met.armed then d
  else
    let d := { d with met := { d.met with armed := false } }
    let d := d.forN 4 (fun d e =>
      if d.isOn Par.metrEnable e && !(d.met1 e).vs.isEmpty then
        let d := d.metPeriod e (d.met1 e).pos none
        d.setMet1 e { d.met1 e with pos := d0 }
      else d)
    (d.metBlock (drat 1 100)).metRecord mcLastGasp

/-- The supply has been good for 10 ms (R294). -/
def Dev.gaspRearm (d : Dev) : Dev := { d with met := { d.met with armed := true } }

/-- Energy of a port step of this beat, its power in kW, into alloc_out or alloc_in (R290). -/
def Dev.metAlloc (d : Dev) (p : Nat) (pw : F32) : Dev :=
  let e := dmul (dmul (dof pw) (dint 1000)) (ddiv (dint d.beatLen) (dint 6400000000))
  let k := 2 * p + b2n (dlt e d0)
  let v := (d.met.alloc.get (fun _ => 0) k + milliHours e) % (regScale * regScale)
  { d with met := { d.met with alloc := d.met.alloc.set (fun _ => 0) k v } }

/-- Enter a lost interval (R296). -/
def Dev.metLose (d : Dev) (l : MetLost) : Dev :=
  let d := { d with met := { d.met with lost := lastN 32 (d.met.lost ++ [l]) } }
  ((d.inc 32 Par.metrLostCount 4).put Par.metrLostBound 4 l.bound).put Par.metrLostTime 4 l.ts

/-- Start-up (R296): the newer valid record is loaded; a PERIODIC one leaves a bounded lost interval, no valid one an unbounded one. -/
def Dev.metLoad (d : Dev) : Dev :=
  let sl := fun k => d.met.slots.get (fun _ => none) k
  match governing (·.seq) (sl 0) (sl 1) with
  | some r =>
    let regs := ((List.range 35).foldl (fun (t : Tab Nat) k => t.set (fun _ => 0) k (r.regs.getD k 0 * regScale)) [])
    let alloc := ((List.range 64).foldl (fun (t : Tab Nat) k => t.set (fun _ => 0) k (r.alloc.getD k 0 * regScale)) [])
    let d := { d with met := { slots := d.met.slots, lost := d.met.lost, regs := regs, alloc := alloc } }
    let d := ((d.put Par.metrCommitSeq 4 r.seq).put Par.metrCommitTime 4 r.ts).put Par.metrSLast 4 r.sLast
    let d := d.forN 35 (fun d k => d.put (regPar (k % 7)) (k / 7) (r.regs.getD k 0))
    if r.cause = mcPeriodic then
      let b := ceilDiv r.sLast 360
      (d.metLose { ts := r.ts, seq := r.seq, startTs := d.now, cause := r.cause, sLast := r.sLast, bound := b }).raise evMeterLostInterval (oid 0x50 4) b
    else d
  | none =>
    let d := { d with met := { lost := d.met.lost } }
    (d.metLose { ts := 0, seq := 0, startTs := d.now, cause := 255, sLast := 0, bound := 2 ^ 64 - 1 }).raise evMeterRecordLost (oid 0x50 4)

end Sys2Proof.Machine
end

