-- ==== Sys2Proof/Machine/Line.lean ====
section
/-! DEFINITION. The line code of the spokes (R77, R78): 8b/10b code groups and running disparity of IEEE 802.3 clause 36. -/

namespace Sys2Proof.Machine

/-- 5b/6b blocks of D0 to D31 at negative running disparity, the bit sent first most significant (PRESUMED: clause 36, log entry 66). -/
def data6 : List Nat :=
  [0b100111, 0b011101, 0b101101, 0b110001, 0b110101, 0b101001, 0b011001, 0b111000,
   0b111001, 0b100101, 0b010101, 0b110100, 0b001101, 0b101100, 0b011100, 0b010111]
  ++ [0b011011, 0b100011, 0b010011, 0b110010, 0b001011, 0b101010, 0b011010, 0b111010,
      0b110011, 0b100110, 0b010110, 0b110110, 0b001110, 0b101110, 0b011110, 0b101011]

/-- 3b/4b blocks of .0 to .7 at negative running disparity. -/
def data4 : List Nat := [0b1011, 0b1001, 0b0101, 0b1100, 0b1101, 0b1010, 0b0110, 0b1110]

/-- Ones in the low bits of a block. -/
def ones (n : Nat) : Nat := ((List.range 6).map (fun k => b2n (bit n k))).sum

/-- The 6-bit block of a code group, and the running disparity after it. -/
def block6 (k : Bool) (x : Nat) (rd : Bool) : Nat × Bool :=
  let t := if k && x == 28 then 0b001111 else data6.getD x 0
  let even := ones t == 3
  (if rd && (!even || x == 7) then 63 - t else t, if even then rd else !rd)

/-- The 4-bit block of a code group, and the running disparity after it. -/
def block4 (k : Bool) (x y : Nat) (rd : Bool) : Nat × Bool :=
  let alt := k || (!rd && (x == 17 || x == 18 || x == 20)) || (rd && (x == 11 || x == 13 || x == 14))
  let t := if y = 7 ∧ alt then 0b0111 else data4.getD y 0
  let even := ones t == 2
  let flip := if even then y == 3 && rd || (k && x == 28 && y != 3 && !rd) else rd
  (if flip then 15 - t else t, if even then rd else !rd)

/-- The code group of a byte, data or (`k`) special, and the running disparity after it (R77). -/
def codeGroup (k : Bool) (b : Nat) (rd : Bool) : Nat × Bool :=
  let p := block6 k (b % 32) rd
  let q := block4 k (b % 32) (b / 32 % 8) p.2
  (p.1 * 16 + q.1, q.2)

/-- Code groups of a run of bytes, each marked special or data, in the order sent. -/
def codeGroups : List (Bool × Nat) → Bool → List Nat × Bool
  | [], rd => ([], rd)
  | b :: t, rd =>
    let g := codeGroup b.1 b.2 rd
    let r := codeGroups t g.2
    (g.1 :: r.1, r.2)

/-- The bytes of a frame with its two delimiters at either end marked special (Tables 4.2 and 4.3). -/
def frameSymbols (bs : List Byte) : List (Bool × Nat) :=
  let n := bs.length
  (List.range n).map (fun i => (decide (i < 2) || decide (n ≤ i + 2), (bs.getD i 0).toNat))

/-- The idle ordered set K28.5 D16.2 (R78); it leaves the running disparity as it was. -/
def idleSet : List (Bool × Nat) := [(true, 0xBC), (false, 0x50)]

/-- What a transmitter sends in a beat from running disparity `rd`: its frame, if any, then `n` idle ordered sets (R77, R78). -/
def lineOut (rd : Bool) (frame : List Byte) (n : Nat) : List Nat :=
  (codeGroups (frameSymbols frame ++ (List.replicate n idleSet).flatMap id) rd).1

end Sys2Proof.Machine
end

