-- ==== Sys2Proof/Machine/Cells.lean ====
section
/-! DEFINITION. Arms and the randing scheduler (ch. 5): cell models, availability, ranking, the final step. -/

namespace Sys2Proof.Machine

/-- Spoke record. -/
def Dev.spoke (d : Dev) (s : Nat) : SpokeRt := d.spokes.get (fun _ => {}) s
/-- Store a spoke record. -/
def Dev.setSpoke (d : Dev) (s : Nat) (x : SpokeRt) : Dev := { d with spokes := d.spokes.set (fun _ => {}) s x }

/-- Spoke roles (Table 4.13). -/
abbrev srUnused : Nat := 0
/-- See `srUnused`. -/
abbrev srSingleA : Nat := 1
/-- See `srUnused`. -/
abbrev srSingleB : Nat := 2
/-- See `srUnused`. -/
abbrev srDuplexA : Nat := 3
/-- See `srUnused`. -/
abbrev srDuplexB : Nat := 4

/-- Ring states (Table 4.13). -/
abbrev rsIdle : Nat := 0
/-- See `rsIdle`. -/
abbrev rsDiscover : Nat := 1
/-- See `rsIdle`. -/
abbrev rsRun : Nat := 2
/-- See `rsIdle`. -/
abbrev rsSplit : Nat := 3
/-- See `rsIdle`. -/
abbrev rsFault : Nat := 4

/-- Command codes (Table 4.7). -/
abbrev hcNop : Nat := 0
/-- See `hcNop`. -/
abbrev hcRun : Nat := 1
/-- See `hcNop`. -/
abbrev hcBlock : Nat := 2
/-- See `hcNop`. -/
abbrev hcUnblock : Nat := 3
/-- See `hcNop`. -/
abbrev hcBypass : Nat := 4
/-- See `hcNop`. -/
abbrev hcClearLock : Nat := 5
/-- See `hcNop`. -/
abbrev hcConfig : Nat := 6

/-- Arm states (Table 5.6). -/
abbrev asStopped : Nat := 0
/-- See `asStopped`. -/
abbrev asRun : Nat := 1
/-- See `asStopped`. -/
abbrev asBlocked : Nat := 2

/-- Events of the group. -/
abbrev evArmFault : Nat := 64
/-- See `evArmFault`. -/
abbrev evArmCapacity : Nat := 65
/-- See `evArmFault`. -/
abbrev evArmVlimit : Nat := 66
/-- See `evArmFault`. -/
abbrev evBootstrapClip : Nat := 67
/-- See `evArmFault`. -/
abbrev evArmDiverge : Nat := 68
/-- See `evArmFault`. -/
abbrev evArmCellType : Nat := 69

/-- The A-end spoke of the ring at a port on this device (R82). -/
def Dev.ringOf (d : Dev) (s : Nat) : Nat := if d.get Par.spokeRole s = srSingleB then d.get Par.spokeFarSpoke s else s
/-- Configured cells of a ring, by its A-end spoke. -/
def Dev.ringCells (d : Dev) (a : Nat) : Nat := min 8 (d.get Par.spokeCells a)
/-- A port serves cells of its own: any role but UNUSED and SINGLE_B (R82). -/
def Dev.servesCells (d : Dev) (s : Nat) : Bool := let r := d.get Par.spokeRole s; r != srUnused && r != srSingleB
/-- CELL instances of an arm, ascending (R111). -/
def Dev.armCells (d : Dev) (j : Nat) : List Nat :=
  (bitsOf (d.get Par.armSpokeSet j) 64).flatMap (fun s => (List.range (d.ringCells s)).map (fun p => 8 * s + p))
/-- The arm of a cell. -/
def Dev.armOf (d : Dev) (c : Nat) : Option Nat := (List.range 24).find? (fun j => bit (d.get Par.armSpokeSet j) (c / 8))
/-- A full-bridge cell. -/
def Dev.isFB (d : Dev) (c : Nat) : Bool := d.get Par.cellCellType c == 2

/-! ## Gate states and models (R120, R121) -/

/-- Bypass state of Table 5.3. -/
def bypassState (fb : Bool) : Nat := if fb then 0xA else 0x2
/-- Insert state of Table 5.3 for a polarity. -/
def insertState (fb neg : Bool) : Nat := if !fb then 0x1 else if neg then 0x6 else 0x9
/-- Polarity with which a state inserts the cell: +1, −1 or 0; with all switches off the current chooses (R120). -/
def statePol (fb : Bool) (st : Nat) (i : F32) : Int :=
  if st = 0 then (if flt f0 i then 1 else if fb && flt i f0 then -1 else 0)
  else if st = insertState fb false then 1 else if fb && st == insertState fb true then -1 else 0

/-- Segments of constant gate state that a half gives a cell over a beat of `L` fine ticks (R120). -/
def Half.segs (h : Half) (all blocked fb : Bool) (st L : Nat) : List (Nat × Nat) :=
  let abc := if h.e1 = 0 ∨ L ≤ h.e1 then [(h.a, L)]
    else if h.e2 = 0 ∨ L ≤ h.e2 ∨ h.e2 ≤ h.e1 then [(h.a, h.e1), (h.b, L - h.e1)]
    else [(h.a, h.e1), (h.b, h.e2 - h.e1), (h.c, L - h.e2)]
  if all then (if h.code = hcBypass then [(bypassState fb, L)] else [(0, L)])
  else match h.code with
  | 0 => [(st, L)]
  | 1 => if blocked then [(0, L)] else abc
  | 3 => abc
  | 4 => [(bypassState fb, L)]
  | _ => [(0, L)]

/-- State at the end of segments. -/
def endState (st : Nat) (segs : List (Nat × Nat)) : Nat := (segs.getLast?.map (·.1)).getD st

/-- The part of a cell's model that a beat advances. -/
structure CellModel where
  v : F32
  b : F32
  low : Nat
  st : Nat
  /-- The bootstrap supply returned to full by bypass conduction. -/
  full : Bool
deriving DecidableEq, Repr

/-- Advance a model over one segment (R120): turn-ons of upper switches drain, bypass conduction refills. -/
def segStep (fb : Bool) (drain : F32) (dwell : Nat) (m : CellModel) (s : Nat × Nat) : CellModel :=
  let on := fun k => bit s.1 k && !(bit m.st k)
  let b := if on 0 then fmax f0 (fsub m.b drain) else m.b
  let b := if on 2 then fmax f0 (fsub b drain) else b
  if s.1 = bypassState fb then
    let low := m.low + s.2
    if dwell * 32 ≤ low * 5 then { m with b := f1, low := low, st := s.1, full := true } else { m with b := b, low := low, st := s.1 }
  else { m with b := b, low := 0, st := s.1 }

/-- Advance a model over one beat of a half (R120). -/
def Dev.beatStep (d : Dev) (j : Nat) (fb : Bool) (i : F32) (m : CellModel) (h : Half) (all blocked : Bool) : CellModel :=
  let L := d.beatTicks * 16
  let segs := h.segs all blocked fb m.st L
  let signed := (segs.map (fun s => statePol fb s.1 i * (s.2 : Int))).foldl (· + ·) 0
  let t := d.tBeat
  let v := fadd m.v (fdiv (fmul (frat signed L) (fmul i t)) (d.getF Par.armCellCap j))
  let b := fmin f1 (fadd m.b (fmul (d.getF Par.armBootPump j) (fmul t (fint 1000))))
  segs.foldl (segStep fb (d.getF Par.armBootDrain j) (d.get Par.armRefreshDwell j)) { m with v := v, b := b, full := false }

/-- A cell counts as blocked: its last valid half showed BLOCKED, or none has come since its discovery and its start-up block stands
(R96). -/
def Dev.cellBlocked (d : Dev) (c : Nat) : Bool := bit (d.get Par.cellStatus c) 0 || !(d.cell c).heard

/-- The pass of beat k advances the model of a cell of arm `j` (R121): from the half sampled at the start of beat k − 1 over the two
beats k − 1 and k, or from the last prediction over beat k. -/
def Dev.cellAdvance (d : Dev) (j c : Nat) : Dev :=
  let x := d.cell c
  let taken := x.fresh && d.get Par.cellTelemBeat c + 1 == d.beatNo
  let fb := d.isFB c
  let i := (d.arm j).iHat
  let blk := d.cellBlocked c
  let lower := bypassState fb
  let low0 := if taken && (d.get Par.cellSwState c &&& lower) != lower then 0 else x.lowImpl
  let m0 : CellModel :=
    { v := if taken then vOfCode (d.get Par.cellVcap c) else x.vhat
      b := if taken then frat (d.get Par.cellBoot c) 255 else x.bhat
      low := low0, st := x.stBefore, full := false }
  let m1 := d.beatStep j fb i m0 x.prev x.prevAll blk
  let m1' : CellModel := if taken then m1 else { m1 with v := x.vhat, b := x.bhat }
  let m2 := d.beatStep j fb i { m1' with st := x.stPrev } x.cur x.curAll blk
  let done := m2.full && x.refPending
  let d := if done then d.inc 32 Par.armRefreshCount j else d
  d.setCell c { x with vhat := m2.v, bhat := m2.b, lowImpl := m1.low, refPending := x.refPending && !done }

/-! ## Currents (R119) -/

/-- The value of an arm's current source now, times i_scale: none while an ADC or SDI sample is invalid in a powered block. -/
def Dev.armSource (d : Dev) (j : Nat) : Option F32 :=
  let o := d.get Par.armISrc j
  let i := o % 16777216
  let sc := d.getF Par.armIScale j
  if o = 0 ∨ !d.full then some f0
  else if o / 16777216 = 0x40 then (if bit (d.get Par.adcStatus i) 4 then none else some (fmul (d.getF Par.adcValue i) sc))
  else if o / 16777216 = 0x41 then (if bit (d.get Par.sdiStatus i) 3 then none else some (fmul (d.getF Par.sdiValue i) sc))
  else if o / 16777216 = 0x20 then some (fmul (d.ctxOut i (d.get Par.armIOut j)) sc)
  else some f0

/-- Latch the arm current at the start of a beat, before the beat's own samples (R119). The partner without the token uses the
holder's value; where it has not arrived, its own, with status bit DIVERGE. -/
def Dev.armLatch (d : Dev) (j : Nat) : Dev :=
  let x := d.arm j
  let own := match d.armSource j with
    | some v => (v, true)
    | none => (if x.latched then x.iHat else f0, x.latched)
  if d.paired && !d.token then
    match x.partnerI with
    | some v => (d.setArm j { x with iHat := v, latched := true, partnerI := none }).putBit Par.armStatus j 4 false
    | none => (d.setArm j { x with iHat := own.1, latched := own.2 }).putBit Par.armStatus j 4 true
  else (d.setArm j { x with iHat := own.1, latched := own.2, partnerI := none }).putBit Par.armStatus j 4 false

/-! ## Availability and service (R112 to R115) -/

/-- Refused by identity (R106). -/
def Dev.cellRefused (d : Dev) (c : Nat) : Bool :=
  let r := d.get Par.cellSerialRef c
  (r != 0 && r != d.get Par.cellSerial c) || (d.cell c).version == 0

/-- A cell is available (Table 5.1). A cell whose fourth stale beat in a row has just ended is lost from this beat on (R100). -/
def Dev.cellAvail (d : Dev) (j c : Nat) : Bool :=
  d.isOn Par.cellPresent c && !(d.isOn Par.cellLost c) && !(d.cellBlocked c)
  && ((d.cell c).fresh || decide (d.get Par.cellStale c < 3))
  && (d.get Par.cellProtState c == 0 || decide (d.beatNo < (d.cell c).bypFrom))
  && !(bit (d.get Par.cellStatus c) 2) && d.get Par.cellLockMask c == 0 && !(d.cellRefused c)
  && d.get Par.cellCellType c == d.get Par.armCellType j

/-- A present cell of the wrong type (Table 5.1). -/
def Dev.cellWrongType (d : Dev) (j c : Nat) : Bool :=
  d.isOn Par.cellPresent c && d.get Par.cellCellType c != d.get Par.armCellType j

/-- A window that names the arm is tripped (R115). -/
def Dev.armWindow (d : Dev) (j : Nat) : Bool :=
  (List.range 64).any (fun w => d.isOn Par.winTripped w && bit (d.get Par.winRouteArm w) j)

/-- Arm state at a boundary (R115); leaving RUN clears the carry. -/
def Dev.armBoundary (d : Dev) (j : Nat) : Dev :=
  let st := d.get Par.armState j
  if st = asBlocked then d
  else
    let run := d.full && d.cellsRun && d.get Par.armSpokeSet j != 0 && !(d.armWindow j)
    let d := if st = asRun ∧ !run then (d.setArm j { d.arm j with carry := d0 }).putF Par.armCarry j f0 else d
    d.put Par.armState j (if run then asRun else asStopped)

/-! ## Ranking (R123 to R125) -/

/-- Refresh-due (R123). -/
def Dev.refreshDue (d : Dev) (j c : Nat) : Bool := flt (d.cell c).bhat (frat (d.get Par.armRefreshThr j) 255)
/-- Floor-due (R123). -/
def Dev.floorDue (d : Dev) (j c : Nat) : Bool :=
  d.refreshDue j c && flt (fsub (d.cell c).bhat (d.getF Par.armBootDrain j)) (frat (d.get Par.armHoldFloor j) 255)

/-- The cell is inserted with a polarity at the end of the last commanded beat. -/
def Dev.insertedAt (d : Dev) (c : Nat) (neg : Bool) : Bool := (d.cell c).stCur == insertState (d.isFB c) neg

/-- Mean heatsink temperature of cells in °C (R124): codes summed exactly. -/
def Dev.tMean (d : Dev) (cs : List Nat) : F32 :=
  let s := (cs.map (fun c => d.getI Par.cellTemp c)).foldl (· + ·) 0
  if cs.isEmpty then f0 else fofd (ddiv (dmul (dint s) (drat 1 10)) (dint cs.length))

/-- Score of a candidate (R124). -/
def Dev.cellScore (d : Dev) (j c : Nat) (neg : Bool) (tMean : F32) : F32 :=
  let x := d.cell c
  let i := (d.arm j).iHat
  let ip := if neg then fneg i else i
  let dead := d.getF Par.armIDead j
  let s : F32 := if flt dead ip then f1 else if flt ip (fneg dead) then fneg f1 else f0
  let vn := d.getF Par.armVCellNom j
  let ev := fmul s (fdiv (fsub x.vhat vn) vn)
  let eb := fsub f1 x.bhat
  let th := fdiv (fmax f0 (fsub (frat (d.getI Par.cellTemp c) 10) tMean)) (fint 10)
  let h := fadd (fadd (d.getF Par.armWH j) (fmul (d.getF Par.armWT j) th))
    (fmul (d.getF Par.armWN j) (fdiv x.rho (fint (d.get Par.armBudget j))))
  let sg := if d.insertedAt c neg then fneg f1 else f1
  fadd (fadd (fmul (d.getF Par.armWV j) ev) (fmul (d.getF Par.armWB j) eb)) (fmul sg h)

/-- Order of candidates (R125). -/
def Dev.candLt (d : Dev) (a b : Nat × F32) : Bool :=
  if flt a.2 b.2 then true else if flt b.2 a.2 then false
  else
    let x := d.cell a.1
    let y := d.cell b.1
    if flt y.bhat x.bhat then true else if flt x.bhat y.bhat then false
    else if flt x.rho y.rho then true else if flt y.rho x.rho then false
    else decide (a.1 < b.1)

/-- Order of deferrable cells (R125). -/
def Dev.deferLt (d : Dev) (neg : Bool) (a b : Nat) : Bool :=
  let ia := d.insertedAt a neg
  let ib := d.insertedAt b neg
  if ia != ib then ia
  else if flt (d.cell b).bhat (d.cell a).bhat then true else if flt (d.cell a).bhat (d.cell b).bhat then false
  else decide (a < b)

/-- The ranked list of an arm for a polarity (R125); deferrable cells carry NaN. -/
def Dev.rankList (d : Dev) (j : Nat) (cs : List Nat) (neg : Bool) : List (Nat × F32) :=
  let tm := d.tMean cs
  let cand := cs.filter (fun c => !(d.refreshDue j c))
  let dfr := cs.filter (fun c => d.refreshDue j c && !(d.floorDue j c))
  sortBy d.candLt (cand.map (fun c => (c, d.cellScore j c neg tm)))
    ++ (sortBy (d.deferLt neg) dfr).map (fun c => (c, fNaN))

/-- Probe parameters of an arm (R133), as at the last pass. -/
def Dev.armProbe (d : Dev) (j : Nat) : Dev :=
  let c := d.get Par.armProbeCell j
  if !((d.armCells j).contains c) then
    (((d.putF Par.armProbeVhat j f0).putF Par.armProbeBoot j f0).putF Par.armProbeRate j f0).putF Par.armProbeScore j fNaN
      |>.put Par.armProbeRank j 0xFFFF
  else
    let x := d.cell c
    let y := d.arm j
    let l := if y.neg then y.listN else y.listP
    let k := l.findIdx (fun p => p.1 == c)
    let d := ((d.putF Par.armProbeVhat j x.vhat).putF Par.armProbeBoot j x.bhat).putF Par.armProbeRate j x.rho
    if k < l.length then (d.putF Par.armProbeScore j ((l.getD k (0, fNaN)).2)).put Par.armProbeRank j (k + 1)
    else (d.putF Par.armProbeScore j fNaN).put Par.armProbeRank j 0

/-- In-service cells (R113): the lowest-numbered available ones, less the spares of STANDBY. -/
def Dev.chooseService (d : Dev) (j : Nat) (avail : List Nat) : List Nat :=
  if d.get Par.armRedundMode j = 0 then avail
  else avail.take (min avail.length ((d.armCells j).length - d.get Par.armNSpare j))

/-- The pass of one arm at a beat boundary (R112 to R115, R121, R123 to R125). -/
def Dev.armPass (d : Dev) (j : Nat) : Dev :=
  let cells := d.armCells j
  let d := d.forL cells (fun d c => d.cellAdvance j c)
  let d := d.forL cells (fun d c =>
    let bad := d.cellWrongType j c
    let x := d.cell c
    let d := if bad && !x.typeBad then d.raise evArmCellType (oid 0x12 j) else d
    d.setCell c { x with typeBad := bad })
  let avail := cells.filter (d.cellAvail j)
  let serv := d.chooseService j avail
  let d := d.forL cells (fun d c =>
    let x := d.cell c
    let isIn := serv.contains c
    let due := isIn && d.refreshDue j c
    d.setCell c { x with inService := isIn, arm := some j, duePrev := x.due, due := due, refPending := due, avail := avail.contains c })
  let d := ((d.put Par.armNAvail j avail.length).put Par.armNService j serv.length)
  let low := decide (serv.length < d.get Par.armCellsMin j)
  let st := d.get Par.armStatus j
  let d := d.put Par.armStatus j (8 * b2n (low && d.get Par.armSpokeSet j != 0) + 16 * b2n (bit st 4) + 32 * b2n (bit st 5))
  let x := d.arm j
  let d := if low && !x.lowCap then d.raise evArmCapacity (oid 0x12 j) else d
  let p := d.rankList j serv false
  let n := if d.get Par.armCellType j = 2 then d.rankList j serv true else []
  (d.setArm j { d.arm j with lowCap := low, listP := p, listN := n, reports := [] }).armProbe j

/-! ## The final step (R126 to R131) -/

/-- Prefix sums of predicted voltages in binary64. -/
def Dev.prefixes (d : Dev) : List (Nat × F32) → F64 → List F64
  | [], s => [s]
  | p :: t, s => s :: d.prefixes t (dadd s (dof (d.cell p.1).vhat))

/-- A segment shorter than dwell_min × 6.4 fine ticks (R130). -/
def shortSeg (len dwell : Nat) : Bool := decide (len * 5 < dwell * 32)

/-- What the final step decides for one arm. -/
structure FinalPlan where
  whole : List Nat
  frac : Option Nat
  a : Nat
  b : Nat
  edge : Nat
  w : F64
  /-- Share of the fractional cell's pulse, and its predicted voltage. -/
  share : F64
  vf : F64
deriving DecidableEq, Repr

/-- Count, rotation, placement and dwell (R127 to R130) for a target of magnitude `u` over a ranked list. -/
def Dev.planArm (d : Dev) (j : Nat) (neg : Bool) (l : List (Nat × F32)) (u : F64) : FinalPlan :=
  let ps := d.prefixes l d0
  let N := ((List.range (l.length + 1)).filter (fun k => dle (ps.getD k d0) u)).foldl max 0
  let cs := l.map (·.1)
  let pN := ps.getD N d0
  if N = l.length ∨ pN = u then { whole := cs.take N, frac := none, a := 0, b := 0, edge := 0, w := pN, share := d0, vf := d0 }
  else
    let c1 := cs.getD N 0
    let cN := cs.getD (N - 1) 0
    let rot := d.isOn Par.armFracRotate j && decide (1 ≤ N) && (d.arm j).prevFrac == some c1
    let fc := if rot then cN else c1
    let whole := if rot then cs.take (N - 1) ++ [c1] else cs.take N
    let w := (whole.map (fun c => dof (d.cell c).vhat)).foldl dadd d0
    let vf := dof (d.cell fc).vhat
    let f := dmax d0 (dmin (dint 1) (ddiv (dsub u w) vf))
    let L := d.beatTicks * 16
    let fb := d.isFB fc
    let ins := insertState fb neg
    let byp := bypassState fb
    let lead := d.insertedAt fc neg
    let e := (dround (dmul (if lead then f else dsub (dint 1) f) (dint L))).toNat
    let tin := if lead then e else L - e
    let dw := d.get Par.armDwellMin j
    let si := shortSeg tin dw
    let sb := shortSeg (L - tin) dw
    if si ∨ sb then
      let on := if si && sb then !(dle f (drat 1 2)) else sb
      { whole := whole, frac := some fc, a := if on then ins else byp, b := 0, edge := 0, w := w,
        share := if on then dint 1 else d0, vf := vf }
    else { whole := whole, frac := some fc, a := if lead then ins else byp, b := if lead then byp else ins, edge := e, w := w,
           share := ddiv (dint tin) (dint L), vf := vf }

/-- The final step of one arm in RUN (R126 to R131). -/
def Dev.armFinal (d : Dev) (j : Nat) : Dev :=
  let x := d.arm j
  if d.get Par.armState j ≠ asRun ∨ x.finalBeat = some d.beatNo then d
  else
    let cells := d.armCells j
    let serv := cells.filter (fun c => (d.cell c).inService)
    let fbArm := d.get Par.armCellType j = 2
    let u0 := dadd (dof (d.getF Par.armVref j)) x.carry
    let S := (serv.map (fun c => dof (d.cell c).vhat)).foldl dadd d0
    let u1 := dmax (if fbArm then dneg S else d0) (dmin S u0)
    let sat := dlt S u0 || dlt u0 (if fbArm then dneg S else d0)
    let neg := dlt u1 d0
    let l := if neg then x.listN else x.listP
    let L := ((d.prefixes l d0).getLast?).getD d0
    let clip := dlt L (dabs u1)
    let m := dmin L (dabs u1)
    let ulim := if neg then dneg m else m
    let p := d.planArm j neg l m
    let out := dadd p.w (dmul p.share p.vf)
    let carry := dsub ulim (if neg then dneg out else out)
    let cap := dof (d.getF Par.armVCellNom j)
    let carry' := dmax (dneg cap) (dmin cap carry)
    let dfr := (p.whole ++ p.frac.toList).any (fun c => d.refreshDue j c)
    let d := d.forL cells (fun d c =>
      let fb := d.isFB c
      let h : Option Half :=
        if !(d.cell c).avail then none
        else if p.whole.contains c then some { code := hcRun, a := insertState fb neg }
        else if p.frac = some c then some { code := hcRun, a := p.a, b := p.b, e1 := p.edge }
        else some { code := hcRun, a := bypassState fb }
      d.setCell c { d.cell c with plan := h })
    let d := d.setArm j { d.arm j with carry := carry', neg := neg, prevFrac := p.frac, finalBeat := some d.beatNo }
    let st := d.get Par.armStatus j
    let d := d.put Par.armStatus j (setBit (setBit (setBit st 0 sat) 1 clip) 2 dfr)
    let d := if sat then (d.inc 32 Par.armSatCount j).raise evArmVlimit (oid 0x12 j) else d
    let d := if clip then (d.inc 32 Par.armClipCount j).raise evBootstrapClip (oid 0x12 j) else d
    let d := if dfr then d.inc 32 Par.armDeferCount j else d
    let d := if carry' != carry then d.inc 32 Par.armCarryDiscards j else d
    let d := (d.put Par.armNInserted j p.whole.length).put Par.armFracCell j (p.frac.getD 0xFFFF)
    let d := (d.put Par.armFracEdge j p.edge).putF Par.armVout j (fofd (if neg then dneg out else out))
    (d.putF Par.armCarry j (fofd carry')).armProbe j

/-- The final step of every arm (R116, R117). -/
def Dev.finalStep (d : Dev) : Dev := if d.full then d.forN 24 Dev.armFinal else d

/-- Changes of gate state over the segments of a commanded beat (R121). -/
def moveCount (st : Nat) (segs : List (Nat × Nat)) : Nat :=
  (segs.foldl (fun (p : Nat × Nat) s => (s.1, if s.1 = p.1 then p.2 else p.2 + 1)) (st, 0)).2

/-- The switching rate after `n` commanded changes (R121). -/
def Dev.rhoStep (d : Dev) (rho : F32) (n : Nat) : F32 := fadd (fmul rho (fsub f1 d.tBeat)) (fint n)

/-- The end of an arm's pass, once its halves have left: ρ of its cells follows the commanded changes, with BUDGET and the probe of ρ (R121,
Table 5.6). -/
def Dev.armRates (d : Dev) (j : Nat) : Dev :=
  let cells := d.armCells j
  let d := d.forL cells (fun d c =>
    let x := d.cell c
    d.setCell c { x with rhoPrev := x.rho, rho := d.rhoStep x.rho x.moves, moves := 0 })
  let hot := cells.any (fun c => flt (fint (d.get Par.armBudget j)) (d.cell c).rho)
  let d := d.putBit Par.armStatus j 5 hot
  let d := if hot then d.inc 32 Par.armBudgetOver j else d
  let c := d.get Par.armProbeCell j
  if cells.contains c then d.putF Par.armProbeRate j (d.cell c).rho else d

/-- Note that BLOCK or BLOCK_ALL was sent to a cell for a beat (R144). -/
def CellRt.noted (x : CellRt) (b : Nat) : List Nat := if x.blockHist.head? = some b then x.blockHist else (b :: x.blockHist).take 4

/-- See `CellRt.noted`. -/
def Dev.noteBlock (d : Dev) (c b : Nat) : Dev := d.setCell c { d.cell c with blockHist := (d.cell c).noted b }

/-- Record the half sent to a cell for the next beat: histories move on (R121). -/
def Dev.sendHalf (d : Dev) (c : Nat) (h : Half) (all : Bool) : Dev :=
  let x := d.cell c
  let fb := d.isFB c
  let segs := h.segs all (d.cellBlocked c) fb x.stCur (d.beatTicks * 16)
  let blk := h.code == hcBlock || all
  d.setCell c { x with prev := x.cur, prevAll := x.curAll, cur := h, curAll := all, stBefore := x.stPrev, stPrev := x.stCur,
                       stCur := endState x.stCur segs, moves := moveCount x.stCur segs,
                       blockHist := if blk then x.noted (d.beatNo + 1) else x.blockHist, plan := none }

end Sys2Proof.Machine
end

