-- ==== Sys2Proof/Machine/Protect.lean ====
section
/-! DEFINITION. Cell protection at the MY8640 (R143, R144, R149 to R153) and the telemetry half (Table 4.5, R100, R110). -/

namespace Sys2Proof.Machine

/-- Events of the group. -/
abbrev evSpokeLinkDown : Nat := 32
/-- See `evSpokeLinkDown`. -/
abbrev evSpokeTiming : Nat := 33
/-- See `evSpokeLinkDown`. -/
abbrev evSpokeSplit : Nat := 34
/-- See `evSpokeLinkDown`. -/
abbrev evSpokeRejoined : Nat := 35
/-- See `evSpokeLinkDown`. -/
abbrev evSpokeRingLong : Nat := 36
/-- See `evSpokeLinkDown`. -/
abbrev evSpokeConfig : Nat := 37
/-- See `evSpokeLinkDown`. -/
abbrev evAuthSplit : Nat := 38
/-- See `evSpokeLinkDown`. -/
abbrev evCellLost : Nat := 39
/-- See `evSpokeLinkDown`. -/
abbrev evCellUnblockFail : Nat := 40
/-- See `evSpokeLinkDown`. -/
abbrev evCellIdentity : Nat := 41
/-- See `evSpokeLinkDown`. -/
abbrev evCellConfig : Nat := 42
/-- See `evSpokeLinkDown`. -/
abbrev evCellGateSupply : Nat := 43
/-- See `evSpokeLinkDown`. -/
abbrev evCellDesat : Nat := 44
/-- See `evSpokeLinkDown`. -/
abbrev evCellShort : Nat := 45
/-- See `evSpokeLinkDown`. -/
abbrev evCellLock : Nat := 46
/-- See `evSpokeLinkDown`. -/
abbrev evCellBypass : Nat := 47
/-- See `evSpokeLinkDown`. -/
abbrev evCellBypassFail : Nat := 48

/-- Bypass progress (Table 6.3). -/
abbrev bpNone : Nat := 0
/-- See `bpNone`. -/
abbrev bpPending : Nat := 1
/-- See `bpNone`. -/
abbrev bpBypassed : Nat := 2
/-- See `bpNone`. -/
abbrev bpFailed : Nat := 3

/-- Arm fault causes (Table 6.4). -/
abbrev afTwoCell : Nat := 1
/-- See `afTwoCell`. -/
abbrev afBypassFail : Nat := 2
/-- See `afTwoCell`. -/
abbrev afWindow : Nat := 3
/-- See `afTwoCell`. -/
abbrev afPartner : Nat := 4

/-- Two cell instances as fault_cells (Table 6.4). -/
def faultCells (lo hi : Nat) : Nat := lo % 65536 + hi % 65536 * 65536

/-- Register an arm block (R151, R152): the arm blocks, a converter trip is requested, and on the stake without the token the
partner is told. A second cause while BLOCKED only counts. -/
def Dev.armBlock (d : Dev) (j cause cells : Nat) : Dev :=
  let d := d.inc 32 Par.armArmFaults j
  if d.get Par.armState j = asBlocked then d
  else
    let d := (d.setArm j { d.arm j with carry := d0 }).putF Par.armCarry j f0
    let d := ((d.put Par.armState j asBlocked).put Par.armFaultCause j cause).put Par.armFaultBeat j d.beatNo
    let d := d.put Par.armFaultCells j cells
    let d := { d with mode := { d.mode with tripReq := true } }
    let d := d.raise evArmFault (oid 0x12 j) (cause + cells * 65536)
    if d.paired && !d.token && cause != afPartner then
      d.weavePut wkArmBlock d.partnerNo (leBytes 1 j ++ leBytes 1 cause) else d

/-- Leave BLOCKED after an accepted block_clear (R151). -/
def Dev.armBlockClear (d : Dev) (j : Nat) : Dev :=
  if d.get Par.armState j = asBlocked ∧ !d.cellsRun then (d.put Par.armState j asStopped).setArm j { d.arm j with faultTseq := none }
  else d

/-- Cells of an arm selected for bypass (Table 6.4). -/
def Dev.countBypassed (d : Dev) (j : Nat) : Dev :=
  d.put Par.armBypassed j (((d.armCells j).filter (fun c => d.get Par.cellProtState c != bpNone)).length)

/-- Select a cell for bypass (R149, R150); it counts as bypassed from the start of the next beat. -/
def Dev.selectBypass (d : Dev) (c : Nat) : Dev :=
  if d.get Par.cellProtState c ≠ bpNone then d
  else
    let d := d.put Par.cellProtState c bpPending
    let d := d.setCell c { d.cell c with bypFrom := d.beatNo + 1, bypSent := false, bypN := 0, unblk := none }
    match d.armOf c with
    | some j => d.inc 16 Par.armBypassed j
    | none => d

/-- The cell lies in an arm in RUN. -/
def Dev.inRunArm (d : Dev) (c : Nat) : Bool := match d.armOf c with
  | some j => d.get Par.armState j == asRun
  | none => false

/-- Fault code of a switch in a telemetry fault byte (Table 4.5). -/
def switchFault (f k : Nat) : Nat := field f (2 * k) 2

/-- Switches whose code in `new` is a first report of `code` against `old` (R149). -/
def firstReports (old new code : Nat) : Nat :=
  ((List.range 4).filter (fun k => switchFault new k == code && switchFault old k != code)).length

/-- The two-cell rule (R149): first reports of code 1 or 2 from two cells of one arm with one tseq. The second cell registers the cause; further
cells of that tseq belong to it, and keep the two lowest instances on record where the record is of this cause. -/
def Dev.twoCell (d : Dev) (j c tseq : Nat) : Dev :=
  let x := d.arm j
  if x.reports.contains (c, tseq) then d
  else
    let rs := x.reports ++ [(c, tseq)]
    let d := d.setArm j { x with reports := rs }
    let same := sortBy (fun a b => decide (a < b)) ((rs.filter (fun p => p.2 == tseq)).map (·.1))
    match same with
    | [a, b] =>
      let d := if d.get Par.armState j = asBlocked then d else d.setArm j { d.arm j with faultTseq := some tseq }
      d.armBlock j afTwoCell (faultCells a b)
    | a :: b :: _ =>
      if x.faultTseq = some tseq ∧ d.get Par.armFaultBeat j = d.beatNo ∧ d.get Par.armFaultCause j = afTwoCell then
        d.put Par.armFaultCells j (faultCells a b) else d
    | _ => d

/-- An undervoltage report (R143, R122). -/
def Dev.underVoltage (d : Dev) (c : Nat) : Dev :=
  let x := d.cell c
  match (if x.due || x.duePrev then d.armOf c else none) with
  | some j => d.inc 32 Par.armUvloRefresh j
  | none =>
    let ts := (x.uvTimes.filter (fun t => d.now < t + fineS)) ++ [d.now]
    let d := (d.setCell c { x with uvTimes := lastN 3 ts }).inc 32 Par.cellUvloFaults c
    let d := d.raise evCellGateSupply (oid 0x11 c)
    if 3 ≤ ts.length then d.selectBypass c else d

/-- Answer to the settings sent for the beat of this half (R146). -/
def Dev.configAnswer (d : Dev) (c beat : Nat) (err : Bool) : Dev :=
  let x := d.cell c
  match x.cfgSent.find? (fun p => p.2 == beat) with
  | some (a, _) =>
    let d := d.setCell c { x with cfgSent := x.cfgSent.filter (fun p => p.2 != beat), cfgBad := setBit x.cfgBad a err }
    if err then d.raise evCellConfig (oid 0x11 c) else d
  | none => d

/-- A cell may receive UNBLOCK: present, not bypassed, locked, lost or refused (R98). -/
def Dev.unblockable (d : Dev) (c : Nat) : Bool :=
  d.isOn Par.cellPresent c && d.get Par.cellProtState c == 0 && !(bit (d.get Par.cellStatus c) 2) && d.get Par.cellLockMask c == 0
  && !(d.isOn Par.cellLost c) && !(d.cellRefused c)

/-- Start UNBLOCK for a cell that may have it (R98). -/
def Dev.unblockStart (d : Dev) (c : Nat) : Dev := if d.unblockable c then d.setCell c { d.cell c with unblk := some 0 } else d

/-- A cell that reports BLOCKED, or to which BLOCK has been sent for a beat that its last sample cannot show. A cell that reports BLOCKED clear
after the last BLOCK needs no UNBLOCK: the repetition of R98 ends with that report. -/
def Dev.blockedOrSent (d : Dev) (c : Nat) : Bool :=
  d.cellBlocked c || (d.cell c).blockHist.any (fun b => decide (d.get Par.cellTelemBeat c ≤ b))

/-- The record that a half of beat `beat` gives a cell (R110, R154). -/
def Dev.telemRecord (d : Dev) (c beat : Nat) (h : List Byte) : Dev :=
  let ft := byteAt h 8
  let d := ((d.put Par.cellVcap c (beAt h 2 2)).putI Par.cellTemp c (sgn 16 (beAt h 4 2))).put Par.cellBoot c (byteAt h 6)
  let d := ((d.put Par.cellVgate c (byteAt h 12)).put Par.cellStatus c (byteAt h 1)).put Par.cellSwState c (byteAt h 7 % 16)
  let d := ((d.put Par.cellFaults c ft).put Par.cellTelemBeat c beat).put Par.cellStale c 0
  let d := d.put Par.cellLost c 0
  d.put Par.cellLockMask c (((List.range 4).map (fun s => b2n (switchFault ft s == 3) * 2 ^ s)).sum)

/-- First reports of the codes 1, 2 and 3 in a fault byte `ft` that follows `old` (R149). A first report is the half, so the switches in it count
once. -/
def Dev.telemFaults (d : Dev) (c old ft tseq : Nat) : Dev :=
  let det := ft + tseq * 256
  let n1 := firstReports old ft 1
  let n2 := firstReports old ft 2
  let n3 := firstReports old ft 3
  let d := if n1 = 0 then d else (d.inc 32 Par.cellDesatCount c).raise evCellDesat (oid 0x11 c) det
  let d := if n2 = 0 then d else ((d.inc 32 Par.cellShortCount c).raise evCellShort (oid 0x11 c) det).selectBypass c
  let d := if n3 = 0 then d else (d.raise evCellLock (oid 0x11 c) det).selectBypass c
  match d.armOf c with
  | some j => if n1 + n2 = 0 then d else d.twoCell j c tseq
  | none => d

/-- How a bypass goes on with a half that reports BYPASSED or not (R150). -/
def Dev.telemBypass (d : Dev) (c : Nat) (bypassed : Bool) : Dev :=
  if bypassed then
    if d.get Par.cellProtState c = bpNone then ((d.selectBypass c).put Par.cellProtState c bpBypassed).raise evCellBypass (oid 0x11 c)
    else if (d.cell c).bypSent || d.get Par.cellProtState c == bpBypassed then d.put Par.cellProtState c bpBypassed
    else (d.put Par.cellProtState c bpBypassed).raise evCellBypass (oid 0x11 c)
  else if (d.cell c).bypSent ∧ d.get Par.cellProtState c = bpPending then
    d.setCell c { d.cell c with bypN := (d.cell c).bypN + 1 }
  else d

/-- The first copy in a beat of a valid telemetry half of cell `c` (Table 4.5, R100, R110, R149, R150). -/
def Dev.telemFirst (d : Dev) (c : Nat) (h : List Byte) : Dev :=
  let st := byteAt h 1
  let tseq := beAt h 10 2
  let oldSt := d.get Par.cellStatus c
  let was := d.cellBlocked c
  let oldFt := d.get Par.cellFaults c
  let k := d.beatNo
  let beat := k - (k + 65536 - tseq) % 65536
  let x := d.cell c
  let d := d.telemRecord c beat h
  let blocked := bit st 0
  let left := if !blocked && was then some beat else if blocked then none else x.leftBlock
  let selfBlock := blocked && !(bit st 1) && !was
    && !(x.blockHist.any (fun b => decide (x.leftBlock.getD 0 ≤ b) && decide (b ≤ beat)))
  let wd := bit st 1 && x.heard && !(bit oldSt 1)
  let pending := blocked || x.blockHist.any (fun b => decide (beat ≤ b))
  let d := d.setCell c { d.cell c with fresh := true, heard := true, leftBlock := left, unblk := if pending then x.unblk else none }
  let d := d.configAnswer c beat (bit st 4)
  let run := d.inRunArm c
  let d := d.telemFaults c oldFt (byteAt h 8) tseq
  let d := if byteAt h 12 ≤ d.get Par.cellUvloV c then d.underVoltage c else d
  let d := if run && (selfBlock || wd) then d.selectBypass c else d
  let d := d.telemBypass c (bit st 2)
  let ts := if beat = k then d.beatStart else d.beatStart - (k - beat) * d.beatLen
  d.forL [0, 1, 2, 3] (fun d s => d.sample 0x11 c s ts (d.cellVal c s) 2)

/-- A valid telemetry half of cell `c`. A cell writes one half into the frames of both directions (R83): the second copy in a beat is
the half that has been taken already. -/
def Dev.telemHalf (d : Dev) (c : Nat) (h : List Byte) : Dev :=
  let tseq := beAt h 10 2
  if (d.cell c).fresh && d.get Par.cellTelemBeat c == d.beatNo - (d.beatNo + 65536 - tseq) % 65536 then d else d.telemFirst c h

/-- Eight valid halves have come after BYPASS without BYPASSED (R150). -/
def Dev.bypassFail (d : Dev) (c : Nat) : Dev :=
  if d.get Par.cellProtState c = bpPending ∧ 8 ≤ (d.cell c).bypN ∧ d.get Par.cellLost c = 0 then
    let d := (d.put Par.cellProtState c bpFailed).raise evCellBypassFail (oid 0x11 c)
    match d.armOf c with
    | some j => d.armBlock j afBypassFail (faultCells c 0xFFFF)
    | none => d
  else d

/-- Four consecutive stale beats (R100, R149). -/
def Dev.cellLost (d : Dev) (c : Nat) : Dev :=
  if d.isOn Par.cellPresent c ∧ 4 ≤ d.get Par.cellStale c ∧ d.get Par.cellLost c = 0 then
    let run := d.inRunArm c
    let d := (d.put Par.cellLost c 1).raise evCellLost (oid 0x11 c)
    let d := d.setCell c { d.cell c with unblk := none }
    if run then d.selectBypass c else d
  else d

/-- 64 beats have passed since the first UNBLOCK (R98). -/
def Dev.unblockFail (d : Dev) (c : Nat) : Dev :=
  match (d.cell c).unblk with
  | some n => if 64 < n then (d.setCell c { d.cell c with unblk := none }).raise evCellUnblockFail (oid 0x11 c) else d
  | none => d

/-- A boundary for a cell: the beats since its first UNBLOCK (R98), and staleness (R100), which is that of a cell of a running ring without a valid
half in the beat that ends. -/
def Dev.staleBeat (d : Dev) (c : Nat) : Dev :=
  let x := d.cell c
  let x := { x with unblk := x.unblk.map (fun n => if n = 0 then 0 else n + 1) }
  let d := d.setCell c x
  if x.fresh then d.setCell c { x with fresh := false }
  else
    let s := c / 8
    let st := d.get Par.spokeState s
    if d.isOn Par.cellPresent c ∧ (st = rsRun ∨ st = rsSplit) then
      -- R146: an unanswered CONFIG is sent again before the next setting.
      let lostCfg := (x.cfgSent.filter (fun p => decide (p.2 < d.beatNo))).map (·.1)
      let x := { x with cfgSent := x.cfgSent.filter (fun p => decide (d.beatNo ≤ p.2)), cfg := lostCfg ++ x.cfg }
      (d.setCell c x).put Par.cellStale c (min 255 (d.get Par.cellStale c + 1))
    else d

/-- Settings of Table 6.1 as CELL parameters in parameter order. -/
def settingPar (arg : Nat) : Par := ⟨0x11, Par.cellBlankTime.idx + arg⟩

end Sys2Proof.Machine
end

