-- ==== Sys2Proof/Machine/Spokes.lean ====
section
/-! DEFINITION. Spoke frames (R83 to R86, R92), the command halves of R479, reception (R81, R100, R101, R103, R132) and discovery
(R104 to R107). -/

namespace Sys2Proof.Machine

/-! ## Command halves (R479) -/

/-- BLOCK_ALL of the frames that leave now (R99): a TRIPPED or LOCKOUT state, or a stop-class trip not yet evaluated. -/
def Dev.blockAll (d : Dev) : Bool := d.kind == kTripped || d.kind == kLockout || d.mode.stopReq

/-- The half of a cell in the frame that leaves now, by the order of R479, and what sending it changes. -/
def Dev.chooseHalf (d : Dev) (c : Nat) : Half × Dev :=
  let x := d.cell c
  let prot := d.get Par.cellProtState c
  let arm := d.armOf c
  let armBlk := match arm with
    | some j => d.get Par.armState j == asBlocked || d.cellWrongType j c
    | none => false
  let blk := d.cellBlocked c
  if prot = bpBypassed then ({ code := hcNop }, d)
  else if prot ≠ bpNone ∧ x.bypFrom ≤ d.beatNo then ({ code := hcBypass }, d.setCell c { x with bypSent := true })
  else if x.clearLock.isSome ∧ blk then
    ({ code := hcClearLock, arg := x.clearLock.getD 0 }, d.setCell c { x with clearLock := none })
  else match x.cfg, blk with
    | a :: rest, true =>
      ({ code := hcConfig, e2 := d.get (settingPar a) c, arg := a },
       d.setCell c { x with cfg := rest, cfgSent := x.cfgSent ++ [(a, d.beatNo + 1)] })
    | _, _ =>
      if armBlk || !d.cellsRun then ({ code := hcBlock }, d)
      else match x.unblk with
        | some n =>
          if n ≤ 64 ∧ d.unblockable c ∧ x.cfg = [] ∧ x.cfgSent = [] ∧ x.cfgBad = 0 then
            ({ code := hcUnblock, a := bypassState (d.isFB c) }, d.setCell c { x with unblk := some (max 1 n) })
          else (x.plan.getD { code := hcNop }, d)
        | none => (x.plan.getD { code := hcNop }, d)

/-- Decide and record the halves of every cell of a ring for the next beat. -/
def Dev.ringHalves (d : Dev) (a : Nat) : Dev :=
  d.forN (d.ringCells a) (fun d p =>
    let r := d.chooseHalf (8 * a + p)
    r.2.sendHalf (8 * a + p) r.1 r.2.blockAll)

/-! ## Frames (Tables 4.2 to 4.4) -/

/-- The port is the B end of its ring. -/
def Dev.bEnd (d : Dev) (s : Nat) : Bool := d.get Par.spokeRole s == srSingleB || d.get Par.spokeRole s == srDuplexB

/-- AUTH of the frames of a port (R84). -/
def Dev.spokeAuth (d : Dev) (s : Nat) : Bool :=
  let r := d.get Par.spokeRole s
  d.get Par.spokeState s == rsSplit || r == srSingleA || ((r == srDuplexA || r == srDuplexB) && d.tokenNext)

/-- t_ref for a cell (R92): the time after the window less the ranged delay of the frame's direction. -/
def Dev.tRef (d : Dev) (s c : Nat) : Nat :=
  let a := if d.bEnd s then d.get Par.cellDelayB c else d.get Par.cellDelayA c
  enc 24 (((d.beatTicks - d.windowTicks) * 16 : Nat) - (a : Int))

/-- Bytes of a command half (Table 4.4). -/
def Half.bytes (h : Half) (pos tref : Nat) : List Byte :=
  let b := leBytes 1 pos ++ leBytes 1 h.code ++ beBytes 2 (h.a + 16 * h.b + 256 * h.c) ++ beBytes 3 h.e1 ++ beBytes 3 h.e2
    ++ beBytes 3 tref ++ leBytes 1 h.arg
  b ++ beBytes 2 (crc16 b)

/-- Header of a frame (Table 4.3) from byte 2 on. -/
def Dev.frameHead (d : Dev) (s type n turn : Nat) : List Byte :=
  let b := d.bEnd s
  let fl := b2n (d.spokeAuth s) + 2 * b2n d.blockAll + 4 * b2n b + 8 * b2n (d.get Par.spokeState s == rsSplit)
  leBytes 1 type ++ leBytes 1 1 ++ leBytes 1 fl ++ leBytes 1 (d.stakeNo % 64) ++ leBytes 1 (d.ringOf s) ++ leBytes 1 n
    ++ leBytes 1 (if b then (d.ringCells (d.ringOf s) + 255) % 256 else 0) ++ leBytes 1 turn ++ beBytes 4 ((d.beatNo + 1) % 2 ^ 32)
    ++ beBytes 2 d.beatTicks ++ List.replicate 8 0

/-- A whole frame (Table 4.2): delimiters, header and slots, CRC-32, ERR, end. -/
def frameOf (body : List Byte) : List Byte :=
  [0xBC, 0xFB] ++ body ++ beBytes 4 (crc32 body) ++ [0, 0, 0xFD, 0xF7]

/-- The CONTROL frame of a port. -/
def Dev.controlFrame (d : Dev) (s : Nat) : List Byte :=
  let a := d.ringOf s
  let n := d.ringCells a
  frameOf (d.frameHead s 1 n 0xFF ++ (List.range n).flatMap (fun p =>
    ((d.cell (8 * a + p)).cur).bytes p (d.tRef s (8 * a + p)) ++ List.replicate 16 0))

/-- A DISCOVER frame with `n` empty slots. -/
def Dev.discoverFrame (d : Dev) (s : Nat) : List Byte :=
  let n := d.ringCells (d.ringOf s)
  frameOf (d.frameHead s 2 n 0xFF ++ List.replicate (32 * n) 0)

/-- A RANGE frame for a position. -/
def Dev.rangeFrame (d : Dev) (s pos : Nat) : List Byte := frameOf (d.frameHead s 3 0 pos)

/-- Keep what a port sends in this beat; the running disparity has gone through the frame before it (R77). -/
def Dev.spokeTx (d : Dev) (s : Nat) (f : List Byte) : Dev :=
  let x := d.spoke s
  d.setSpoke s { x with tx := f, rd := (codeGroups (frameSymbols x.tx) x.rd).2 }

/-- The code groups on the line of a port from the end of the compute window, with `n` idle ordered sets after the frame (R77, R78). -/
def Dev.spokeLine (d : Dev) (s n : Nat) : List Nat := lineOut (d.spoke s).rd (d.spoke s).tx n

/-- Fewer cells were reached from the A end than are configured, by the hop at the B end or the turn of RETURN frames (Table 4.11). -/
def Disc.short (x : Disc) (n : Nat) : Bool := decide (max (x.hopA.getD 0) ((x.retA.map (· + 1)).getD 0) < n)

/-- Beats of DISCOVER frames from the B end (Table 4.11). -/
def Disc.ext (x : Disc) (n : Nat) : Nat := if x.short n then 16 else 0

/-- Beats of a discovery with its ranging (Table 4.11). -/
def Disc.span (x : Disc) (n : Nat) : Nat := 16 + x.ext n + 8 * n

/-- What the two ends of a ring send in one beat of a discovery (Table 4.11). While the pair that serves it is halted, it stands still (R26). -/
def Dev.discSend (d : Dev) (s : Nat) : Dev :=
  let a := d.ringOf s
  match (d.spoke a).disc with
  | none => d
  | some x => if d.controlHalted then d.spokeTx s [] else
    let n := d.ringCells a
    let k := x.beats
    let ext := x.ext n
    let atA := !(d.bEnd s)
    if k < 16 then (if atA then d.spokeTx s (d.discoverFrame s) else d.spokeTx s [])
    else if k < 16 + ext then (if atA then d.spokeTx s [] else d.spokeTx s (d.discoverFrame s))
    else if k < 16 + ext + 4 * n then (if atA then d.spokeTx s (d.rangeFrame s ((k - 16 - ext) / 4)) else d.spokeTx s [])
    else if k < 16 + ext + 8 * n then (if atA then d.spokeTx s [] else d.spokeTx s (d.rangeFrame s ((k - 16 - ext - 4 * n) / 4)))
    else d.spokeTx s []

/-- Everything the spokes send at the end of a compute window (R83, R92). -/
def Dev.spokesSend (d : Dev) : Dev :=
  if !d.full then d
  else
    let d := d.forN 64 (fun d a =>
      if d.servesCells a ∧ (d.get Par.spokeState a = rsRun ∨ d.get Par.spokeState a = rsSplit) then d.ringHalves a else d)
    d.forN 64 (fun d s =>
      let st := d.get Par.spokeState s
      if d.get Par.spokeRole s = srUnused then d
      else if st = rsRun ∨ st = rsSplit then d.spokeTx s (d.controlFrame s)
      else if st = rsDiscover then d.discSend s
      else if (d.spoke s).tx = [] then d else d.spokeTx s [])

/-! ## Reception -/

/-- What a received frame is, judged on its bytes and on whether its code groups and delimiters were correct (R87, R94, Table 4.2). -/
structure RxFrame where
  ok : Bool
  crcBad : Bool
  type : Nat
  flags : Nat
  n : Nat
  hop : Nat
  turn : Nat
  seq : Nat
  err : Nat
  slots : List Byte
deriving DecidableEq, Repr

/-- Parse a frame. -/
def parseFrame (bs : List Byte) (lineOk : Bool) : RxFrame :=
  let len := bs.length
  let body := slice bs 2 (len - 10)
  let crcBad := beAt bs (len - 8) 4 != crc32 body
  let ok := lineOk && decide (32 ≤ len) && byteAt bs 0 == 0xBC && byteAt bs 1 == 0xFB && byteAt bs 3 == 1 && !crcBad
    && byteAt bs (len - 2) == 0xFD && byteAt bs (len - 1) == 0xF7
  { ok := ok, crcBad := lineOk && crcBad, type := byteAt bs 2, flags := byteAt bs 4, n := byteAt bs 7 % 16, hop := byteAt bs 8,
    turn := byteAt bs 9, seq := beAt bs 10 4, err := byteAt bs (len - 4), slots := slice bs 24 (len - 32) }

/-- The frame was sent in the present beat: it commands the next one. A frame that ends after its beat is missing in it, and nothing of it is used
later (R41, R81). -/
def Dev.onBeat (d : Dev) (f : RxFrame) : Bool := f.seq == (d.beatNo + 1) % 2 ^ 32

/-- The time of R81 and its bound; a bad CRC-32 is counted with its ERR (Table 4.13). The time of a frame that ends in the next beat, before that
beat's own window ends, counts from the window it was sent in. -/
def Dev.rxTiming (d : Dev) (s : Nat) (f : RxFrame) : Dev :=
  let w := d.beatStart + d.windowTicks * 16
  let t := if w ≤ d.now then d.now - w else d.now + d.beatTicks * 16 - w
  let d := d.put Par.spokeFrameTime s (min 65535 (t * 5 / 32))
  let d := if 95 * ((d.beatTicks - d.windowTicks) * 16) < 100 * t then d.raise evSpokeTiming (oid 0x10 s) else d
  if f.crcBad then (d.inc 32 Par.spokeCrcErrors s).put Par.spokeErrPos s (min 8 f.err) else d

/-- A 16-byte half is valid: CRC-16, position and present bit (Table 4.5). -/
def halfOk (h : List Byte) (pos : Nat) : Bool :=
  beAt h 14 2 == crc16 (slice h 0 14) && byteAt h 0 % 8 == pos && bit (byteAt h 0) 3

/-- Telemetry halves of a frame at a port: each valid half updates its cell; AUTH_SPLIT is noted once a beat (R95, R368). -/
def Dev.takeHalf (d : Dev) (s a pos : Nat) (h : List Byte) : Dev :=
  if !(halfOk h pos) then d
  else
    let d := d.telemHalf (8 * a + pos) h
    if bit (byteAt h 1) 6 then
      let x := d.spoke s
      let d := if x.split then d else d.inc 32 Par.spokeAuthSplit s
      let d := (d.setSpoke s { x with split := true }).raise evAuthSplit (oid 0x10 s)
      -- Yield (R368): a holder of the higher stake number gives the token up from beat k + 2.
      let r := d.get Par.spokeRole s
      if d.tokenNext ∧ (r = srDuplexA ∨ r = srDuplexB) ∧ d.partnerNo < d.stakeNo ∧ d.weave.tokPlan = none then
        let d := { d with weave := { d.weave with tokPlan := some (d.beatNo + 2, false) } }
        (d.inc 32 Par.weaveTokenYields 0).raise 186 (oid 0x80 0)
      else d
    else d

/-- Compare the halves the partner sent for the commanded beat with this stake's own (R132): code, states, edges and argument, which do
not depend on the end they were sent from. -/
def Dev.compareHalves (d : Dev) (f : RxFrame) (a : Nat) : Dev :=
  if !d.paired ∨ d.tokenNext then d
  else
    let all := bit f.flags 1
    let other := fun p =>
      let h := slice f.slots (32 * p) 16
      let st := beAt h 2 2
      ({ code := byteAt h 1, a := st % 16, b := st / 16 % 16, c := st / 256 % 16, e1 := beAt h 4 3, e2 := beAt h 7 3,
         arg := byteAt h 13 } : Half)
    -- R144: BLOCK in the holder's frames is BLOCK sent to the cell.
    let d := d.forN f.n (fun d p => if (other p).code = hcBlock ∨ all then d.noteBlock (8 * a + p) (d.beatNo + 1) else d)
    let diff := (List.range f.n).filter (fun p => other p != (d.cell (8 * a + p)).cur)
    if diff.isEmpty then d
    else
      let d := d.forL diff (fun d p =>
        let c := 8 * a + p
        let x := d.cell c
        let h := other p
        let segs := h.segs all (d.cellBlocked c) (d.isFB c) x.stPrev (d.beatTicks * 16)
        d.setCell c { x with cur := h, curAll := all, stCur := endState x.stPrev segs,
                             rho := d.rhoStep x.rhoPrev (moveCount x.stPrev segs) })
      match d.armOf (8 * a) with
      | some j =>
        let fc := (d.armCells j).find? (fun c => (d.cell c).cur.e1 != 0)
        let first := (d.arm j).divBeat != some d.beatNo
        let d := (d.setArm j { d.arm j with prevFrac := fc, divBeat := some d.beatNo }).putBit Par.armStatus j 4 true
        if first then (d.inc 32 Par.armDivergeCount j).raise evArmDiverge (oid 0x12 j) else d
      | none => d

/-- A CONTROL frame arrives at a port (R81, R83, R100, R132). -/
def Dev.rxControl (d : Dev) (s : Nat) (bs : List Byte) (lineOk : Bool) : Dev :=
  let f := parseFrame bs lineOk
  let st := d.get Par.spokeState s
  if !d.full ∨ d.get Par.spokeRole s = srUnused ∨ !(st == rsRun || st == rsSplit) then d
  else
    let d := d.rxTiming s f
    let a := d.ringOf s
    if !f.ok ∨ f.type ≠ 1 ∨ f.n ≠ d.ringCells a ∨ !(d.onBeat f) then d
    else
      let d := d.setSpoke s { d.spoke s with far := true }
      let d := if d.get Par.spokeRole s = srDuplexA ∨ d.get Par.spokeRole s = srDuplexB then d.compareHalves f a else d
      d.forN f.n (fun d p => d.takeHalf s a p (slice f.slots (32 * p + 16) 16))

/-- The ring at a port enters SPLIT (R101). -/
def Dev.enterSplit (d : Dev) (s : Nat) : Dev :=
  if d.get Par.spokeState s = rsRun then
    ((d.setSpoke s { d.spoke s with goodRun := 0 }).put Par.spokeState s rsSplit).raise evSpokeSplit (oid 0x10 s)
  else d

/-- A RETURN frame arrives (R90, R101, R103): SPLIT, the turning position, the halves of this side, relayed to the partner of a duplex
ring; in a discovery it counts the cells reached. -/
def Dev.rxReturn (d : Dev) (s : Nat) (bs : List Byte) (lineOk : Bool) : Dev :=
  let f := parseFrame bs lineOk
  let st := d.get Par.spokeState s
  let a := d.ringOf s
  let b := d.bEnd s
  if !d.full ∨ d.get Par.spokeRole s = srUnused then d
  else if st = rsDiscover then
    let d := d.rxTiming s f
    (match (d.spoke a).disc with
     | some x => if f.ok && f.type == 4 && d.onBeat f then
         d.setSpoke a { d.spoke a with disc := some (if b then { x with retB := some f.turn } else { x with retA := some f.turn }) }
       else d
     | none => d)
  else if !(st == rsRun || st == rsSplit) then d
  else
    let d := d.rxTiming s f
    if !f.ok ∨ f.type ≠ 4 ∨ !(d.onBeat f) then d
    else
      let d := d.enterSplit s
      let d := d.setSpoke s { d.spoke s with ret := true }
      let d := d.put (if b then Par.spokeTurnB else Par.spokeTurnA) s f.turn
      let m := f.slots.length / 16
      let first := if b then f.turn else 0
      d.forN m (fun d i =>
        let p := first + i
        let h := slice f.slots (16 * i) 16
        if p ≥ 8 then d
        else
          let d := d.takeHalf s a p h
          if (d.get Par.spokeRole s = srDuplexA ∨ d.get Par.spokeRole s = srDuplexB) ∧ halfOk h p ∧ d.paired then
            d.weavePut wkTelemRelay d.partnerNo (leBytes 1 s ++ leBytes 1 p ++ h)
          else d)

/-- A relayed half arrives from the partner (R103, R366): one sampled before this beat is stale and late; any other is received as at the port. -/
def Dev.telemRelay (d : Dev) (s p : Nat) (h : List Byte) : Dev :=
  if !d.full ∨ !(halfOk h p) then d
  else if beAt h 10 2 ≠ d.beatNo % 65536 then d.inc 32 Par.weaveRelayLate 0
  else d.takeHalf s (d.ringOf s) p h

/-- A spoke receiver goes dead (R78). -/
def Dev.receiverDead (d : Dev) (s : Nat) : Dev :=
  let was := bit (d.get Par.spokeLink s) 0
  let d := d.put Par.spokeLink s 0
  if was ∧ d.get Par.spokeRole s ≠ srUnused then d.raise evSpokeLinkDown (oid 0x10 s) else d

/-- Two beats without a valid far-end frame (R101). -/
def Dev.spokeSplit (d : Dev) (s : Nat) : Dev :=
  let a := d.ringOf s
  if 2 ≤ (d.spoke s).missRun ∧ (List.range 8).any (fun p => d.isOn Par.cellPresent (8 * a + p)) then d.enterSplit s else d

/-- Sixteen good beats (R101). -/
def Dev.spokeRejoin (d : Dev) (s : Nat) : Dev :=
  if d.get Par.spokeState s = rsSplit ∧ 16 ≤ (d.spoke s).goodRun then
    (((d.put Par.spokeState s rsRun).put Par.spokeTurnA s 0xFF).put Par.spokeTurnB s 0xFF).raise evSpokeRejoined (oid 0x10 s)
  else d

/-! ## Discovery (R104 to R107) -/

/-- Kinds that allow discovery: OFF, PRECHARGE, PARKED (R104). -/
def Dev.discKind (d : Dev) : Bool := d.kind == kOff || d.kind == kPrecharge || d.kind == kParked

/-- Where a discovery of the ring at a port may run (R104): in these kinds here and, for a duplex ring, at a partner that is present. The kind of an
absent partner is not known and binds nothing (log entry 67). -/
def Dev.discMay (d : Dev) (s : Nat) : Bool :=
  let p := d.partnerNo
  let k := d.get Par.stakeConvMode p
  d.discKind && (d.get Par.spokeRole s != srDuplexA || decide (64 ≤ p) || d.get Par.stakePresent p == 0
    || k == kOff || k == kPrecharge || k == kParked)

/-- The configuration faults of R105: a SINGLE_A whose far spoke does not name it back as SINGLE_B; a duplex ring whose DUPLEX_A end is on the
higher stake, seen from either end. -/
def Dev.ringConfigBad (d : Dev) (s : Nat) : Bool :=
  let r := d.get Par.spokeRole s
  if r = srSingleA then
    let f := d.get Par.spokeFarSpoke s
    !(d.get Par.spokeRole f == srSingleB && d.get Par.spokeFarSpoke f == s)
  else decide (d.partnerNo < 64) && ((r == srDuplexA && decide (d.partnerNo < d.stakeNo))
    || (r == srDuplexB && decide (d.stakeNo < d.partnerNo)))

/-- Set the ring state at the ports of a ring on this device. -/
def Dev.ringState (d : Dev) (a st : Nat) : Dev :=
  let d := d.put Par.spokeState a st
  if d.get Par.spokeRole a = srSingleA ∧ d.get Par.spokeRole (d.get Par.spokeFarSpoke a) = srSingleB then
    d.put Par.spokeState (d.get Par.spokeFarSpoke a) st else d

/-- Start a discovery of a ring at its A-end port, or follow it at the B end of a duplex ring (R104); a configuration fault ends it at once
(R105). -/
def Dev.discStart (d : Dev) (s : Nat) : Dev :=
  if (d.spoke s).disc.isSome then d
  else if d.ringConfigBad s then
    ((d.ringState s rsFault).setSpoke s { d.spoke s with autoPend := false }).raise evSpokeConfig (oid 0x10 s)
  else
    let d := d.ringState s rsDiscover
    let d := d.setSpoke s { d.spoke s with disc := some { start := d.beatNo }, autoPend := false, missRun := 0, goodRun := 0 }
    let d := d.forN 8 (fun d p => d.setCell (8 * s + p) { d.cell (8 * s + p) with idBad := false })
    (((d.put Par.spokeDiscover s 1).put Par.spokeTurnA s 0xFF).put Par.spokeTurnB s 0xFF)

/-- Judge a write of 1 to discover (R104). -/
def Dev.judgeDiscover (d : Dev) (s : Nat) : Nat :=
  let r := d.get Par.spokeRole s
  if r ≠ srSingleA ∧ r ≠ srDuplexA then stBadState
  else if (d.spoke s).disc.isSome then stOk
  else if !(d.discMay s) then stBadState
  else stOk

/-- A receiver becomes live (R78, R104): automatic discovery of an IDLE ring at an A end, held until the kind allows it. -/
def Dev.receiverLive (d : Dev) (s : Nat) : Dev :=
  let d := d.put Par.spokeLink s 1
  let r := d.get Par.spokeRole s
  if (r = srSingleA ∨ r = srDuplexA) ∧ d.get Par.spokeState s = rsIdle then
    d.setSpoke s { d.spoke s with autoPend := true }
  else d

/-- A cell found refused by identity raises CELL_IDENTITY, once until the refusal ends or the ring is discovered again (R106). -/
def Dev.identityCheck (d : Dev) (c : Nat) : Dev :=
  let bad := d.cellRefused c
  let d := if bad && !(d.cell c).idBad then d.raise evCellIdentity (oid 0x11 c) else d
  d.setCell c { d.cell c with idBad := bad }

/-- Identity half of a DISCOVER frame (Table 4.6, R106): what it names is stored. The type is that of caps bit 0, where the id byte gives it as
well (DESIGN CHOICE, log entry 68). -/
def Dev.takeIdentity (d : Dev) (c : Nat) (h : List Byte) : Dev :=
  if beAt h 14 2 ≠ crc16 (slice h 0 14) ∨ !(bit (byteAt h 0) 3) then d
  else
    let d := ((d.put Par.cellSerial c (beAt h 2 6)).put Par.cellMaker c (beAt h 8 2)).put Par.cellRelayLatency c (beAt h 10 2)
    let d := d.put Par.cellCellType c (if bit (byteAt h 12) 0 then 2 else 1)
    (d.setCell c { d.cell c with version := byteAt h 1 }).identityCheck c

/-- A DISCOVER frame reaches an end (R104, R105): its hop counts the cells, its halves identify them. The B end of a duplex ring learns of the
discovery by the first one (log entry 67). -/
def Dev.rxDiscover (d : Dev) (s : Nat) (bs : List Byte) (lineOk : Bool) : Dev :=
  let f := parseFrame bs lineOk
  let a := d.ringOf s
  if !d.full ∨ d.get Par.spokeRole s = srUnused then d
  else
    let d := d.rxTiming s f
    if !f.ok ∨ f.type ≠ 2 ∨ !(d.onBeat f) ∨ d.controlHalted then d
    else
      let d := if d.get Par.spokeRole s = srDuplexB ∧ (d.spoke s).disc = none ∧ d.discKind then d.discStart s else d
      match (d.spoke a).disc with
      | some x =>
        let fromB := bit f.flags 2
        let n := f.n
        let count := if fromB then (n + 255 - f.hop) % 256 else f.hop
        let half := fun p => slice f.slots (32 * p + 16) 16
        let d := d.forN (min n (min count 8)) (fun d i =>
          let p := if fromB then n - 1 - i else i
          d.takeIdentity (8 * a + p) (half p))
        let x := if fromB then { x with hopB := some count }
          else { x with hopA := some count, long := x.long || decide (n < count), ids := (List.range n).map half }
        d.setSpoke a { d.spoke a with disc := some x }
      | none => d

/-- A discovery report of the B end arrives at the A end of a duplex ring (R104). -/
def Dev.ringReport (d : Dev) (s count : Nat) (ids : List (List Byte)) : Dev :=
  match (d.spoke s).disc with
  | some x =>
    let d := d.forN (min 8 ids.length) (fun d p => d.takeIdentity (8 * s + p) (ids.getD p []))
    d.setSpoke s { d.spoke s with disc := some { x with hopA := some count, long := x.long || decide (d.ringCells s < count) } }
  | none => d

/-- A RANGE frame returns (R107) with the round trip in fine ticks. -/
def Dev.rxRange (d : Dev) (s : Nat) (bs : List Byte) (lineOk : Bool) (rt : Nat) : Dev :=
  let f := parseFrame bs lineOk
  let a := d.ringOf s
  match (d.spoke a).disc with
  | some x =>
    let d := d.rxTiming s f
    if f.ok && f.type == 3 && d.onBeat f && !d.controlHalted then
      let y := if d.bEnd s then { x with rtB := x.rtB ++ [(f.turn, rt)] } else { x with rtA := x.rtA ++ [(f.turn, rt)] }
      d.setSpoke a { d.spoke a with disc := some y }
    else d
  | none => d

/-- Ranged delay of a position (R107): half of the mean of its first four round trips less the declared turnaround; the mean and the half are
rounded down to whole fine ticks (DESIGN CHOICE, log entry 70). -/
def rangedDelay (rts : List (Nat × Nat)) (p relay : Nat) : Option Nat :=
  match (rts.filter (fun q => q.1 == p)).map (·.2) with
  | a :: b :: c :: e :: _ => some (((a + b + c + e) / 4 - relay) / 2)
  | _ => none

/-- Store ranged delays and check relay latencies (R107): delays of neighbours more than 80 ns (512 fine ticks) apart, from either end, raise
SPOKE_TIMING. -/
def Dev.storeRange (d : Dev) (a : Nat) (x : Disc) : Dev :=
  let n := d.ringCells a
  let d := d.forN n (fun d p =>
    let c := 8 * a + p
    let r := d.get Par.cellRelayLatency c
    let d := d.put Par.cellDelayA c ((rangedDelay x.rtA p r).getD 0)
    d.put Par.cellDelayB c ((rangedDelay x.rtB p r).getD 0))
  let far := (List.range (n - 1)).any (fun p =>
    let u := fun q => d.get q (8 * a + p)
    let v := fun q => d.get q (8 * a + p + 1)
    (u Par.cellDelayA != 0 && decide (u Par.cellDelayA + 512 < v Par.cellDelayA))
      || (v Par.cellDelayB != 0 && decide (v Par.cellDelayB + 512 < u Par.cellDelayB)))
  if far then d.raise evSpokeTiming (oid 0x10 a) else d

/-- Discovery and ranging end, once the beats of Table 4.11 have run (R104 to R107, R146): presence, delays, settings; the ring enters RUN, SPLIT or
FAULT. Table 4.11 does not say which: FAULT where no cell was reached or R105 names it, SPLIT after a RETURN frame or without the partner, else RUN
(DESIGN CHOICE, log entry 69). A cell reached by RETURN frames alone has shown no identity half and keeps what is stored (log entry 68). -/
def Dev.discComplete (d : Dev) (a : Nat) : Dev :=
  match (d.spoke a).disc with
  | none => d
  | some x =>
    let n := d.ringCells a
    if x.beats < x.span n ∨ d.controlHalted then d else
    let d := (d.setSpoke a { d.spoke a with disc := none, far := false, ret := false }).put Par.spokeDiscover a 0
    let reach := fun p =>
      (match x.hopA with | some h => decide (p < h) | none => false)
      || (match x.retA with | some t => decide (p ≤ t) | none => false)
      || (match x.hopB with | some h => decide (n ≤ p + h) | none => false)
      || (match x.retB with | some t => decide (t ≤ p) | none => false)
    let found := (List.range n).filter reach
    let cnt := match x.hopA with
      | some h => max h found.length
      | none => found.length
    let d := d.put Par.spokeCellsFound a (min 15 cnt)
    let d := d.forN 8 (fun d p =>
      let c := 8 * a + p
      let isHere := decide (p < n) && reach p
      let d := (d.put Par.cellPresent c (b2n isHere)).put Par.cellProtState c bpNone
      let y := d.cell c
      let cfgs := if isHere then List.range 8 else []
      d.setCell c { y with cfg := cfgs, cfgSent := [], cfgBad := 0, bypSent := false, bypN := 0, heard := false,
                           unblk := none, uvTimes := [], leftBlock := none, clearLock := none })
    let d := match d.armOf (8 * a) with
      | some j => d.countBypassed j
      | none => d
    let d := d.storeRange a x
    let duplex := d.get Par.spokeRole a == srDuplexA || d.get Par.spokeRole a == srDuplexB
    let split := x.retA.isSome || x.retB.isSome || duplex && d.get Par.weavePairState 0 == 2
    if x.long then (d.ringState a rsFault).raise evSpokeRingLong (oid 0x10 a)
    else if found.isEmpty then d.ringState a rsFault
    else if split then (d.ringState a rsSplit).raise evSpokeSplit (oid 0x10 a)
    else d.ringState a rsRun

/-- Beat 16 at the B end of a duplex ring: it reports what it received over the weave (Tables 4.11 and 16.3). -/
def Dev.ringReportSend (d : Dev) (s : Nat) : Dev :=
  match (d.spoke s).disc with
  | some x =>
    if x.beats = 16 ∧ d.get Par.spokeRole s = srDuplexB ∧ d.partnerNo < 64 then
      d.weavePut wkRingReport d.partnerNo (leBytes 1 s ++ leBytes 1 (x.hopA.getD 0) ++ x.ids.flatMap id)
    else d
  | none => d

/-- Ring counters at a beat boundary (R100, R101, R104): lost frames, runs of missing and of good beats, a held discovery. -/
def Dev.spokeBeat (d : Dev) (s : Nat) : Dev :=
  if d.get Par.spokeRole s = srUnused then d
  else
    let x := d.spoke s
    let st := d.get Par.spokeState s
    let live := st == rsRun || st == rsSplit
    let d := if live && !x.far && !x.ret then d.inc 32 Par.spokeFramesLost s else d
    let miss := if live && !x.far then x.missRun + 1 else 0
    let good := if live && x.far && !x.ret then x.goodRun + 1 else 0
    let disc := x.disc.map (fun y => if y.start = d.beatNo ∨ d.controlHalted then y else { y with beats := y.beats + 1 })
    let x := { x with missRun := miss, goodRun := good, far := false, ret := false, split := false, disc := disc }
    let d := (d.setSpoke s x).ringReportSend s
    if x.autoPend then
      if st ≠ rsIdle ∨ !(bit (d.get Par.spokeLink s) 0) then d.setSpoke s { x with autoPend := false }
      else if d.discMay s ∧ !d.controlHalted then d.discStart s else d
    else d

/-- A write of role, far_spoke or cells sets the ring IDLE (R104). -/
def Dev.ringReset (d : Dev) (s : Nat) : Dev :=
  let d := d.put Par.spokeState s rsIdle
  let d := (d.setSpoke s { d.spoke s with disc := none }).put Par.spokeDiscover s 0
  if bit (d.get Par.spokeLink s) 0 then d.receiverLive s else d

/-- UNBLOCK for the cells of a ring that a condition picks (R98). -/
def Dev.ringUnblock (d : Dev) (a : Nat) (pick : Dev → Nat → Bool) : Dev :=
  d.forN (d.ringCells a) (fun d p => if pick d (8 * a + p) then d.unblockStart (8 * a + p) else d)

/-- From the first beat of a state with CELLS_RUN, UNBLOCK for every cell that may have it (R98). -/
def Dev.unblockAll (d : Dev) : Dev :=
  if d.cellsRun && d.mode.held == 0 then d.forN 64 (fun d a => if d.servesCells a then d.ringUnblock a Dev.blockedOrSent else d) else d

end Sys2Proof.Machine
end

