-- ==== Sys2Proof/Machine/Time.lean ====
section
/-! DEFINITION. The beat grid and weave time: boundaries (R35, R39), time sources and steering (R42 to R46), the time root of the
weave (R363, R364), agreement of the grids (R40). -/

namespace Sys2Proof.Machine

/-- Events of the group. -/
abbrev evBeatMismatch : Nat := 16
/-- See `evBeatMismatch`. -/
abbrev evTimeOffsetLarge : Nat := 17
/-- See `evBeatMismatch`. -/
abbrev evTimeStep : Nat := 18
/-- See `evBeatMismatch`. -/
abbrev evTimeLockLost : Nat := 19
/-- See `evBeatMismatch`. -/
abbrev evTimeRootChange : Nat := 20

/-- Object BEAT.0. -/
abbrev oBeat : Nat := 0x02000000

/-- Codes of time_state (Table 2.4). -/
abbrev tmPtp : Nat := 0
/-- See `tmPtp`. -/
abbrev tmWeave : Nat := 1
/-- See `tmPtp`. -/
abbrev tmHoldover : Nat := 2
/-- See `tmPtp`. -/
abbrev tmFree : Nat := 3
/-- See `tmPtp`. -/
abbrev tmAon : Nat := 4

/-- Values of time_source. -/
abbrev srcAuto : Nat := 0
/-- See `srcAuto`. -/
abbrev srcPtpOnly : Nat := 1
/-- See `srcAuto`. -/
abbrev srcWeaveOnly : Nat := 2
/-- See `srcAuto`. -/
abbrev srcFree : Nat := 3

/-! ## Beat boundaries -/

/-- Start of beat `k` of a grid (R35). -/
def beatAt (bt ph k : Nat) : Nat := (k * bt + ph) * 16

/-- Number of the beat of a grid in which a weave time lies (R35, R36). -/
def beatOf (bt ph t : Nat) : Nat := (t - ph * 16) / (bt * 16)

/-- First boundary of a grid at or after a weave time. -/
def nextBoundary (bt ph t : Nat) : Nat := beatAt bt ph (ceilDiv (t - ph * 16) (bt * 16))

/-- The first boundary of an accepted new grid (R39). -/
def Dev.gridStart (d : Dev) : Option Nat := d.newGrid.map (fun g => nextBoundary g.1 g.2.2.1 g.2.2.2)

/-- The present beat starts at `t`: it ends at the next boundary of the grid in force, or at the first boundary of an accepted new
grid if that comes first (R39; a last beat cut short is the model's reading, log entry 40). beat_count follows R35. -/
def Dev.beginBeat (d : Dev) (t : Nat) : Dev :=
  let bt := d.beatTicks
  let ph := d.get Par.beatBeatPhase 0
  let next := nextBoundary bt ph (t + 1)
  let next := match d.gridStart with
    | some at' => if t < at' then min next at' else next
    | none => next
  { d.put Par.beatBeatCount 0 (beatOf bt ph t) with beatStart := t, beatLen := next - t, now := t }

/-- Take an accepted new grid at its first boundary (R39). -/
def Dev.takeGrid (d : Dev) (t : Nat) : Dev :=
  match d.newGrid with
  | some (bt, pct, ph, _) =>
    if d.gridStart.any (fun s => decide (s ≤ t)) then
      let d := ((d.put Par.beatBeatTicks 0 bt).put Par.beatWindowPct 0 pct).put Par.beatBeatPhase 0 ph
      -- R213: a sequence in progress becomes invalid, and points out of bounds leave z_valid.
      (({ d with newGrid := none } : Dev).isldTimeStep).forN 4 Dev.isldRebound
    else d
  | none => d

/-- Every cell and local leg is blocked (R43). -/
def Dev.allBlocked (d : Dev) : Bool :=
  (List.range 40).all (fun n => d.get Par.legState n != 1 && d.get Par.legState n != 2)
    && (List.range 512).all (fun c => !(d.isOn Par.cellPresent c) || bit (d.get Par.cellStatus c) 0)

/-! ## Steering (R42 to R44) -/

/-- Step the counter by −`off` fine ticks (R43): TIME_STEP, capture gaps, and the beat in progress then ends at the first boundary of the
grid that lies at least one beat_ticks after the step; beat_count is that of the beat in which the stepped time lies (R35), also for the rest of the
beat that the step lengthens (DESIGN CHOICE, log entry 64). The first boundary of an accepted new grid moves with the counter. -/
def Dev.timeStep (d : Dev) (off : Int) : Dev :=
  let d := d.isldTimeStep
  let moved := fun (t : Nat) => ((t : Int) - off).toNat
  let now := moved d.now
  let start := moved d.beatStart
  let bt := d.beatTicks
  let ph := d.get Par.beatBeatPhase 0
  let stop := nextBoundary bt ph (now + 16 * bt)
  let d := d.put Par.beatBeatCount 0 (beatOf bt ph now)
  let d := { d with now := now, beatStart := start, beatLen := stop - start
                    newGrid := d.newGrid.map (fun (g : Nat × Nat × Nat × Nat) => (g.1, g.2.1, g.2.2.1, moved g.2.2.2)) }
  let d := d.raise evTimeStep oBeat (enc 64 (-off))
  d.forN 32 (fun d n =>
    let st := d.get Par.capState n
    if st = csStream ∨ st = csArmed ∨ st = csPost then (d.capGap n 2 0).setCap n { (d.capGap n 2 0).cap n with lastTs := none } else d)

/-- Act on an offset from the selected source, in fine ticks (R43). The rate at which the loop is steered is open but for its bound
slew_limit (log entry 41). -/
def Dev.timeCorrect (d : Dev) (off : Int) : Dev :=
  let large := decide (d.get Par.beatStepThreshold 0 * 32 / 5 < off.natAbs)
  if large && d.allBlocked then d.timeStep off
  else
    let d := if large then d.raise evTimeOffsetLarge oBeat else d
    let k := d.freeVal
    let d := k.2
    let lim : Int := d.get Par.beatSlewLimit 0
    { d with sup := { d.sup with steer := max (-lim) (min lim k.1.toInt) } }

/-- The selected source is lost (R44). -/
def Dev.timeLost (d : Dev) : Dev :=
  let own := d.get Par.beatTimeState 0 == tmPtp
  let d := { d with sup := { d.sup with validOffsets := 0, ptpOk := if own then 0 else d.sup.ptpOk } }
  if d.get Par.beatTimeState 0 ≤ tmWeave then (d.put Par.beatTimeState 0 tmHoldover).raise evTimeLockLost oBeat else d

/-- holdover_limit has passed without a source (R44). -/
def Dev.holdoverLimit (d : Dev) : Dev :=
  if d.get Par.beatTimeState 0 = tmHoldover then d.put Par.beatTimeState 0 tmFree else d

/-- One valid offset measurement of the selected source, whose state code is `st` (R44): it takes effect after 8. -/
def Dev.timeMeasure (d : Dev) (st : Nat) (off : Int) : Dev :=
  let n := min 8 (d.sup.validOffsets + 1)
  let d := { d with sup := { d.sup with validOffsets := n } }
  let d := if n = 8 then d.put Par.beatTimeState 0 st else d
  d.timeCorrect off

/-- This stake steers by its own PTP port: it is the time root, or has no stake number (R363; log entry 42). -/
def Dev.ptpSelected (d : Dev) : Bool :=
  d.get Par.beatTimeSource 0 ≤ srcPtpOnly && (d.weave.stake.isNone || d.get Par.weaveTimeRoot 0 == d.stakeNo)

/-- Some Ethernet port is locked to a grandmaster with an offset within ±1 µs (Table 2.4). -/
def Dev.ptpLocked (d : Dev) : Bool := d.sup.ptpOk != 0

/-- A PTP message has been timestamped at a port (R401, R45, R44): offset in ns from the grandmaster, which ptp_offset holds to its 32 bits (log
entry 65), the UTC offset, and whether the port is locked. -/
def Dev.ptpMessage (d : Dev) (port : Nat) (off : Int) (utc : BitVec 16) (locked : Bool) : Dev :=
  let d := (d.putI Par.beatPtpOffset 0 (max (-2147483648) (min 2147483647 off))).putI Par.beatUtcOffset 0 utc.toInt
  let ok := locked && decide (off.natAbs ≤ 1000)
  let d := { d with sup := { d.sup with ptpOk := setBit d.sup.ptpOk port ok } }
  if !d.ptpSelected then d
  else if ok then d.timeMeasure tmPtp (off * 32 / 5)
  else if d.ptpLocked && !locked then d
  else
    let lost := d.get Par.beatTimeState 0 == tmPtp && !d.ptpLocked
    let d := { d with sup := { d.sup with validOffsets := 0 } }
    let d := if lost then d.timeLost else d
    -- A locked grandmaster beyond ±1 µs still steers the counter towards it (R43).
    if locked then d.timeCorrect (off * 32 / 5) else d

/-- An Ethernet port goes down: it is not locked to a grandmaster, and a source that it was is lost (R44, Table 2.4). -/
def Dev.ptpGone (d : Dev) (port : Nat) : Dev :=
  let was := d.ptpLocked
  let d := { d with sup := { d.sup with ptpOk := setBit d.sup.ptpOk port false } }
  if was && !d.ptpLocked && d.get Par.beatTimeState 0 == tmPtp then d.timeLost else d

/-! ## Time root (R363, R364) -/

/-- Neighbour stakes on UP ports. -/
def Dev.neighbours (d : Dev) : List Nat :=
  ((List.range 4).filter (fun p => (d.wport p).state == 2 && decide ((d.wport p).peer < 64))).map (fun p => (d.wport p).peer)

/-- Smallest of a list. -/
def minOf : List Nat → Option Nat
  | [] => none
  | x :: xs => some (xs.foldl min x)

/-- The root this stake sees: the lowest of itself, when its PTP port meets the condition, and the roots its neighbours know through
stakes in state PTP or WEAVE; else the lowest of itself and the roots its neighbours know (R363, R364; log entry 42). `roots` gives the
root each neighbour announces. -/
def Dev.timeRoot (d : Dev) (roots : Nat → Nat) : Nat :=
  let src := d.get Par.beatTimeSource 0
  let me := d.stakeNo
  let ok := fun s => decide (roots s < 64) && roots s != me && decide (d.get Par.stakeTimeRank s < 15)
  if src = srcFree ∨ d.weave.stake.isNone then 255
  else
    let first := (if src ≤ srcPtpOnly ∧ d.ptpLocked then [me] else [])
      ++ (d.neighbours.filter (fun s => ok s && decide (d.get Par.stakeTimeState s ≤ tmWeave))).map roots
    match minOf first with
    | some r => r
    | none => (minOf (me :: (d.neighbours.filter ok).map roots)).getD me

/-- The parent: the neighbour of lowest rank among those that announce the root, ties to the lower stake (R363). -/
def Dev.timeParent (d : Dev) (root : Nat) (roots : Nat → Nat) : Nat :=
  let src := d.get Par.beatTimeSource 0
  if root = 255 ∨ root = d.stakeNo ∨ src = srcPtpOnly ∨ src = srcFree then 255
  else
    (d.neighbours.filter (fun s => roots s == root)).foldl (fun best s =>
      if best = 255 then s
      else
        let a := d.get Par.stakeTimeRank s
        let b := d.get Par.stakeTimeRank best
        if a < b ∨ (a = b ∧ s < best) then s else best) 255

/-- Evaluate the time root, parent, rank and state at a beat boundary (R363, R364), and align_error (R46). -/
def Dev.timeBoundary (d : Dev) : Dev :=
  let roots := fun s => d.weave.roots.get (fun _ => 255) s
  let root := d.timeRoot roots
  let parent := d.timeParent root roots
  let rank := if parent = 255 then 0 else min 15 (d.get Par.stakeTimeRank parent + 1)
  let changed := root != d.get Par.weaveTimeRoot 0
  let moved := parent != d.get Par.weaveTimeParent 0
  let d := ((d.put Par.weaveTimeRoot 0 root).put Par.weaveTimeParent 0 parent).put Par.weaveTimeRank 0 rank
  let d := if changed then d.raise evTimeRootChange oBeat else d
  let st := d.get Par.beatTimeState 0
  let d :=
    if parent ≠ 255 then
      -- A follower that was locked goes over to its parent; it reports the root's state when that has no source.
      let ps := d.get Par.stakeTimeState parent
      if st ≤ tmWeave ∨ (d.sup.validOffsets = 8 ∧ !moved) then
        d.put Par.beatTimeState 0 (if ps ≤ tmWeave then tmWeave else if ps = tmHoldover then tmHoldover else tmFree)
      else d
    else if d.ptpSelected ∧ d.ptpLocked then (if st = tmWeave then d.put Par.beatTimeState 0 tmPtp else d)
    else d.timeLost
  let errs := (List.range 4).filterMap (fun p => if (d.wport p).state = 2 then some (d.wport p).last.natAbs else none)
  d.put Par.beatAlignError 0 (min 32767 (errs.foldl max 0))

/-! ## Agreement of grids (R40) -/

/-- BEAT_MISMATCH: the grid of the lowest present stake differs, or the partner's window. -/
def Dev.gridMismatch (d : Dev) : Bool :=
  let low := (List.range 64).find? (fun s => s == d.stakeNo || d.isOn Par.stakePresent s)
  let other := match low with
    | some s => s != d.stakeNo && (d.get Par.stakeBeatTicks s != d.beatTicks
        || d.get Par.stakeBeatPhase s != d.get Par.beatBeatPhase 0)
    | none => false
  other || (d.paired && d.weave.partnerWindow != d.get Par.beatWindowPct 0)

/-- Raise BEAT_MISMATCH at its onset and clear its flag when the values agree (R40). -/
def Dev.mismatchBoundary (d : Dev) : Dev :=
  let m := d.weave.stake.isSome && d.gridMismatch
  let was := d.weave.mismatch
  let d := { d with weave := { d.weave with mismatch := m } }
  if m && !was then d.raise evBeatMismatch oBeat
  else if was && !m then d.put Par.evtFlag evBeatMismatch 0 else d

end Sys2Proof.Machine
end

