-- ==== Sys2Proof/Machine/Weave.lean ====
section
/-! DEFINITION. The weave fabric and the duplex pair (ch. 16): ports, messages, identities and stake numbers, routes, link times, shared
signals, the authority token. -/

namespace Sys2Proof.Machine

/-- Events of the group. -/
abbrev evWeftLinkUp : Nat := 176
/-- See `evWeftLinkUp`. -/
abbrev evWeftLinkDown : Nat := 177
/-- See `evWeftLinkUp`. -/
abbrev evWeaveOverload : Nat := 178
/-- See `evWeftLinkUp`. -/
abbrev evWeaveRouteChange : Nat := 179
/-- See `evWeftLinkUp`. -/
abbrev evStakeAbsent : Nat := 180
/-- See `evWeftLinkUp`. -/
abbrev evStakePresent : Nat := 181
/-- See `evWeftLinkUp`. -/
abbrev evStakeDuplicate : Nat := 182
/-- See `evWeftLinkUp`. -/
abbrev evDuplexConfig : Nat := 183
/-- See `evWeftLinkUp`. -/
abbrev evTokenTaken : Nat := 184
/-- See `evWeftLinkUp`. -/
abbrev evTokenReleased : Nat := 185

/-- Object WEAVE.0. -/
abbrev oWeave : Nat := 0x80000000
/-- Object of a stake. -/
def oStake (s : Nat) : Nat := oid 0x81 s

/-- Weft port states (R349). -/
abbrev wpDown : Nat := 0
/-- See `wpDown`. -/
abbrev wpLock : Nat := 1
/-- See `wpDown`. -/
abbrev wpUp : Nat := 2

/-- Pair states. -/
abbrev paNone : Nat := 0
/-- See `paNone`. -/
abbrev paFormed : Nat := 1
/-- See `paNone`. -/
abbrev paAbsent : Nat := 2
/-- See `paNone`. -/
abbrev paConfig : Nat := 3

/-! ## Routes (R359, R360) -/

/-- A shortest path found: destination, hops, next-hop stake, local port. -/
structure Route where
  dest : Nat
  hops : Nat
  via : Nat
  port : Nat
deriving DecidableEq, Repr

/-- Tie-break of R359: the lowest next-hop stake, then the lowest local port. -/
def Route.better (a b : Route) : Bool := decide (a.via < b.via) || (a.via == b.via && decide (a.port < b.port))

/-- Keep the best of the candidates for each destination. -/
def Route.merge (rs : List Route) (r : Route) : List Route :=
  match rs with
  | [] => [r]
  | x :: t => if x.dest = r.dest then (if r.better x then r :: t else x :: t) else x :: Route.merge t r

/-- Add the stakes at one hop more than `k` from the database. -/
def Route.layer (adj : Nat → List Nat) (me k : Nat) (known : List Route) : List Route :=
  let cands := (known.filter (fun r => r.hops == k)).flatMap (fun r =>
    ((adj r.dest).filter (fun s => decide (s < 64) && s != me && !(known.any (fun q => q.dest == s)))).map
      (fun s => (⟨s, k + 1, r.via, r.port⟩ : Route)))
  known ++ cands.foldl Route.merge []

/-- The layers up to 63 hops. -/
def Route.search (adj : Nat → List Nat) (me : Nat) : Nat → Nat → List Route → List Route
  | 0, _, known => known
  | n + 1, k, known => Route.search adj me n (k + 1) (Route.layer adj me k known)

/-- The routing table of this stake from its UP links and its database (R359). -/
def Dev.computeRoutes (d : Dev) : List Route :=
  let first := ((List.range 4).filter (fun p => (d.wport p).state == wpUp && decide ((d.wport p).peer < 64))).map
    (fun p => (⟨(d.wport p).peer, 1, (d.wport p).peer, p⟩ : Route))
  let adj := fun s => (d.weave.lsdb.get (fun _ => []) s).map (fun l => l.2.1)
  Route.search adj d.stakeNo 63 1 (first.foldl Route.merge [])

/-- Entry of the routing table: output port and hop count. -/
def Dev.routeTo (d : Dev) (s : Nat) : Option (Nat × Nat) := d.weave.routes.get (fun _ => none) s

/-- Recompute the routing table; a change raises WEAVE_ROUTE_CHANGE and counts (R360). -/
def Dev.reroute (d : Dev) : Dev :=
  let rs := d.computeRoutes
  let tab : Tab (Option (Nat × Nat)) := rs.foldl (fun t r => t.set (fun _ => none) r.dest (some (r.port, r.hops))) []
  if tab = d.weave.routes then d
  else
    let d := { d with weave := { d.weave with routes := tab } }
    let d := d.forN 64 (fun d s => match d.routeTo s with
      | some (p, h) => (d.put Par.stakeHops s (min h 255)).put Par.stakeOutPort s p
      | none => (d.put Par.stakeHops s 255).put Par.stakeOutPort s 255)
    (d.inc 32 Par.weaveRouteChanges 0).raise evWeaveRouteChange oWeave

/-! ## Messages -/

/-- The port a message to the partner leaves on: the lowest direct link that is UP, else by route (R366). -/
def Dev.partnerPort (d : Dev) : Option Nat :=
  match (List.range 4).find? (fun p => (d.wport p).state == wpUp && (d.wport p).peer == d.partnerNo) with
  | some p => some p
  | none => (d.routeTo d.partnerNo).map (·.1)

/-- Payload of IDENT (Table 16.3). -/
def Dev.identBytes (d : Dev) : List Byte :=
  leBytes 8 Config.identity.toNat ++ leBytes 1 (d.get Par.weaveStrap 0) ++ leBytes 1 d.stakeNo ++ leBytes 1 d.partnerNo ++ leBytes 1 1

/-- The links this stake announces: local port, neighbour stake, neighbour port. -/
def Dev.ownLinks (d : Dev) : List (Nat × Nat × Nat) :=
  ((List.range 4).filter (fun p => (d.wport p).state == wpUp && decide ((d.wport p).peer < 64))).map
    (fun p => (p, (d.wport p).peer, (d.wport p).peerPort))

/-- Payload of LSA. -/
def lsaBytes (links : List (Nat × Nat × Nat)) : List Byte :=
  links.flatMap (fun l => leBytes 1 l.1 ++ leBytes 1 l.2.1 ++ leBytes 1 l.2.2)

/-- Send an LSA after a port change (Table 16.3). -/
def Dev.sendLsa (d : Dev) : Dev := d.weavePut wkLsa 0xFF (lsaBytes d.ownLinks)

/-- Forward a received message on a port with its hop limit decremented; at 0 it is discarded (Table 16.2). -/
def Dev.wForward (d : Dev) (h : WHdr) (kind : Nat) (body : List Byte) (port : Nat) : Dev :=
  if h.hop.toNat ≤ 1 then d
  else { d with weave := { d.weave with out := d.weave.out ++
    [{ kind := kind, src := h.src.toNat, dest := h.dest.toNat, hop := h.hop.toNat - 1, seq := h.seq.toNat, port := port,
       bytes := body }] } }

/-- A device without a number forwards only IDENT and ASSIGN (R356). -/
def Dev.forwards (d : Dev) (kind : Nat) : Bool := d.weave.stake.isSome || kind == wkIdent || kind == wkAssign

/-- Receive a weave message (R349, R351, R359): CRC, flood, destination; `act` is what this device does with one meant for it. -/
def Dev.wrx (d : Dev) (h : WHdr) (kind : Nat) (body : List Byte) (act : Dev → Dev) : Dev :=
  let p := h.port.val
  let st := (d.wport p).state
  if !d.full ∨ !(st = wpUp ∨ (st = wpLock ∧ kind = wkIdent)) then d
  else if !h.crcOk then d.setWport p { d.wport p with crc := ((d.wport p).crc + 1) % 2 ^ 32 }
  else
    let dest := h.dest.toNat
    let src := h.src.toNat
    if dest = 0xFE then act d
    else if dest = 0xFF then
      let old := d.weave.seen.filter (fun x => decide (d.now < x.2.2.2 + fineS))
      if (d.weave.stake = some src) ∨ old.any (fun x => x.1 == src && x.2.1 == kind && x.2.2.1 == h.seq.toNat) then
        { d with weave := { d.weave with seen := old } }
      else
        let d := { d with weave := { d.weave with seen := old ++ [(src, kind, h.seq.toNat, d.now)] } }
        let d := if d.forwards kind then
          d.forL ((List.range 4).filter (fun q => q != p && (d.wport q).state == wpUp)) (fun d q => d.wForward h kind body q)
          else d
        act d
    else if d.weave.stake = some dest then act d
    else if !(d.forwards kind) then d
    else match d.routeTo dest with
      | some (q, _) => d.wForward h kind body q
      | none => d

/-! ## Ports (R349, R373) -/

/-- A port leaves LOCK or UP for DOWN. -/
def Dev.weftDown (d : Dev) (p : Nat) : Dev :=
  let x := d.wport p
  if x.state = wpDown then d
  else
    let up := x.state = wpUp
    let y : WPort := { crc := x.crc, asym := x.asym, delay := x.delay, offset := x.offset, waiting := true,
                       downs := if up then (x.downs + 1) % 2 ^ 32 else x.downs }
    let d := d.setWport p y
    if up then ((d.put Par.linkState (3 + p) 0).raise evWeftLinkDown (oid 0x90 (3 + p))).reroute.sendLsa else d

/-- Block lock (R349): LOCK, and IDENT leaves at once. -/
def Dev.weftLock (d : Dev) (p : Nat) : Dev :=
  let x := d.wport p
  if !d.full ∨ x.state ≠ wpDown ∨ x.waiting ∨ bit d.sup.unlocked 5 then d
  else
    let d := d.setWport p { x with state := wpLock, identOut := true, identIn := false }
    d.weavePut wkIdent 0xFF d.identBytes p

/-- IDENT has passed both ways: UP (R349). -/
def Dev.weftUp (d : Dev) (p : Nat) : Dev :=
  let x := d.wport p
  if x.state = wpLock ∧ x.identIn ∧ x.identOut then
    let d := d.setWport p { x with state := wpUp, missRun := 0, gotPkt := true }
    let d := (d.put Par.linkState (3 + p) 1).raise evWeftLinkUp (oid 0x90 (3 + p))
    (d.reroute.sendLsa).weavePut wkIdent 0xFF d.identBytes
  else d

/-- The 1 ms wait after a lost link ends. -/
def Dev.weftWaitEnd (d : Dev) (p : Nat) : Dev := d.setWport p { d.wport p with waiting := false }

/-- Three consecutive beats missed from the neighbour (R349). -/
def Dev.weftMissed (d : Dev) (p : Nat) : Dev :=
  if (d.wport p).state = wpUp ∧ 3 ≤ (d.wport p).missRun then d.weftDown p else d

/-! ## Identities and stake numbers (R355 to R358) -/

/-- Take or give up a stake number. -/
def Dev.setStake (d : Dev) (s : Option Nat) (assigned : Bool) : Dev :=
  let d := { d with weave := { d.weave with stake := s } }
  ((d.put Par.weaveStake 0 (s.getD 255)).put Par.weaveAssigned 0 (b2n assigned)).reroute

/-- The strap value gives a number (R356). -/
def strapNo (strap : Nat) : Option Nat := if strap < 63 then some strap else none

/-- An IDENT is received (R355, R349, R357, R358). -/
def Dev.takeIdent (d : Dev) (h : WHdr) (ident : W64) (strap stake partner peerPort : Nat) : Dev :=
  if ident = Config.identity then d
  else
    let k : Known := { ident := ident, strap := strap, stake := stake, partner := partner }
    let was := d.weave.known.find? (fun x => x.ident == ident)
    let d := { d with weave := { d.weave with
      known := sortBy (fun a b => decide (a.ident.toNat < b.ident.toNat)) (k :: d.weave.known.filter (fun x => x.ident != ident)) } }
    -- The neighbour's own IDENT still has the originator's hop limit.
    let p := h.port.val
    let d := if h.hop = 8 then
        let x := d.wport p
        let moved := x.state = wpUp ∧ (x.peer ≠ stake ∨ x.peerPort ≠ peerPort)
        let d := (d.setWport p { x with identIn := true, peer := stake, peerPort := peerPort }).weftUp p
        if moved then d.reroute.sendLsa else d
      else d
    let d := if stake < 64 then
        let d := ((d.put Par.stakeIdentity stake ident.toNat).put Par.stakeStrapped stake (b2n (strap == stake))).put Par.stakePartner stake partner
        if d.weave.heard.contains stake then d else { d with weave := { d.weave with heard := stake :: d.weave.heard } }
      else d
    match d.weave.stake with
    | some me =>
      if strap = me ∧ strapNo (d.get Par.weaveStrap 0) = some me then
        -- R358: both hold the number by their straps; the higher identity becomes isolated.
        let d := if was.isNone ∨ (was.map (·.strap)) ≠ some strap then d.raise evStakeDuplicate (oStake me) else d
        if ident.toNat < Config.identity.toNat then
          { d with weave := { d.weave with isolated := true } }.setStake none false
        else d
      else if strap = me ∧ d.isOn Par.weaveAssigned 0 then d.setStake none false
      else d
    | none => d

/-- Every reachable device in ascending order of identity, this one included. -/
def Dev.members (d : Dev) : List Known :=
  let me : Known := { ident := Config.identity, strap := d.get Par.weaveStrap 0, stake := d.stakeNo, partner := d.partnerNo }
  sortBy (fun a b => decide (a.ident.toNat < b.ident.toNat)) (me :: d.weave.known)

/-- Stake numbers for the devices without one, as the assigner gives them (R357): the lowest free numbers in ascending order of identity;
an earlier assignment that is still free stands. -/
def Dev.assignments (d : Dev) : List (W64 × Nat) :=
  let ms := d.members
  let taken := ms.filterMap (fun k => if k.stake < 64 then some k.stake else strapNo k.strap)
    ++ ms.filterMap (fun k => strapNo k.strap)
  let need := ms.filter (fun k => decide (64 ≤ k.stake) && (strapNo k.strap).isNone)
  (need.foldl (fun (acc : List (W64 × Nat)) k =>
    let used := taken ++ acc.map (·.2)
    let old := d.weave.made.find? (fun m => m.1 == k.ident && !(used.contains m.2))
    match old with
    | some m => acc ++ [m]
    | none =>
      match (List.range 63).find? (fun s => !(used.contains s) && !(d.weave.made.any (fun m => m.2 == s && need.any (fun q => q.ident == m.1)))) with
      | some s => acc ++ [(k.ident, s)]
      | none => acc) [])

/-- An ASSIGN is received, or made here: this device takes its number at the next boundary (R357). -/
def Dev.takeAssign (d : Dev) (pairs : List (W64 × Nat)) : Dev :=
  match pairs.find? (fun p => p.1 == Config.identity) with
  | some p =>
    if d.weave.stake.isNone ∧ !d.weave.isolated ∧ p.2 < 63 then { d with weave := { d.weave with assignedNo := some p.2 } } else d
  | none => d

/-- Payload of ASSIGN. -/
def assignBytes (pairs : List (W64 × Nat)) : List Byte := pairs.flatMap (fun p => leBytes 8 p.1.toNat ++ leBytes 1 p.2)

/-- An LSA is received (R359). -/
def Dev.takeLsa (d : Dev) (src : Nat) (links : List (Nat × Nat × Nat)) : Dev :=
  if 64 ≤ src then d
  else { d with weave := { d.weave with lsdb := d.weave.lsdb.set (fun _ => []) src links } }.reroute

/-! ## BEAT_PKT (R354) -/

/-- Payload of Table 16.4. -/
def beatPktBytes (b : BeatPkt) : List Byte :=
  leBytes 4 b.beat.toNat ++ leBytes 2 b.ticks.toNat ++ leBytes 2 b.phase.toNat ++ leBytes 1 b.window.toNat ++ leBytes 1 b.kind.toNat
    ++ leBytes 1 (b.tstate.toNat + 16 * b.rank.toNat) ++ leBytes 1 b.root.toNat ++ leBytes 1 b.partner.toNat
    ++ leBytes 1 (b2n b.hold + 2 * b2n b.pass + 4 * b2n b.depart) ++ leBytes 2 0

/-- The packet this stake sends in the present beat. -/
def Dev.beatPkt (d : Dev) : BeatPkt :=
  { beat := BitVec.ofNat 32 d.beatNo, ticks := BitVec.ofNat 16 d.beatTicks, phase := BitVec.ofNat 16 (d.get Par.beatBeatPhase 0)
    window := BitVec.ofNat 8 (d.get Par.beatWindowPct 0), kind := BitVec.ofNat 8 d.kind
    tstate := BitVec.ofNat 3 (d.get Par.beatTimeState 0), rank := BitVec.ofNat 4 (d.get Par.weaveTimeRank 0)
    root := BitVec.ofNat 8 (d.get Par.weaveTimeRoot 0), partner := BitVec.ofNat 8 d.partnerNo
    hold := d.tokenNext, pass := d.weave.passing, depart := d.weave.depart }

/-- Send the BEAT_PKTs at the end of the compute window (R354): on every UP port, and by route to a partner that is no neighbour. The
first packet with PASS fixes the release (R368). -/
def Dev.sendBeatPkts (d : Dev) : Dev :=
  if !d.full ∨ d.weave.stake.isNone then d
  else
    let d := if (d.weave.depart ∨ d.sup.halted ≠ 0) ∧ d.tokenNext ∧ d.paired then { d with weave := { d.weave with passing := true } } else d
    let body := beatPktBytes d.beatPkt
    let ups := (List.range 4).filter (fun p => (d.wport p).state == wpUp)
    let d := d.forL ups (fun d p => d.weavePut wkBeatPkt 0xFE body p)
    let d := if d.partnerNo < 64 ∧ !(d.neighbours.contains d.partnerNo) ∧ (d.routeTo d.partnerNo).isSome then
        d.weavePut wkBeatPkt d.partnerNo body else d
    if d.weave.passing ∧ d.tokenNext ∧ d.weave.tokPlan = none then
      { d with weave := { d.weave with tokPlan := some (d.beatNo + 2, false) } } else d

/-- beat_count of a packet from its low 32 bits, nearest to the own count (Table 16.4). -/
def Dev.beatOfPkt (d : Dev) (low : Nat) : Nat :=
  let own := d.beatNo
  let delta := sgn 32 ((low + 2 ^ 32 - own % 2 ^ 32) % 2 ^ 32)
  ((own : Int) + delta).toNat

/-- Note a packet of stake `s`: its STAKE values, its root, its arrival for the present beat (R375, R354). -/
def Dev.notePkt (d : Dev) (s : Nat) (b : BeatPkt) (ofBeat : Bool) : Dev :=
  let d := ((((d.put Par.stakePartner s b.partner.toNat).put Par.stakeConvMode s b.kind.toNat).put Par.stakeTimeState s b.tstate.toNat).put
    Par.stakeTimeRank s b.rank.toNat).put Par.stakeBeatTicks s b.ticks.toNat
  let d := ((d.put Par.stakeBeatPhase s b.phase.toNat).put Par.stakeHoldsToken s (b2n b.hold)).put Par.stakeLastBeat s
    (d.beatOfPkt b.beat.toNat)
  let w := d.weave
  { d with weave := { w with
    roots := w.roots.set (fun _ => 255) s b.root.toNat
    heard := if w.heard.contains s then w.heard else s :: w.heard
    pkts := if ofBeat && !(w.pkts.contains s) then s :: w.pkts else w.pkts } }

/-- Plan a change of the holding from a beat on, unless one is planned (R368). -/
def Dev.planToken (d : Dev) (b : Nat) (v : Bool) : Dev :=
  if d.weave.tokPlan.isNone then { d with weave := { d.weave with tokPlan := some (b, v) } } else d

/-- The token bits of the partner's packet (R368): Pass, the end of a PASS, Contention. -/
def Dev.partnerPkt (d : Dev) (b : BeatPkt) : Dev :=
  let d := { d with weave := { d.weave with
    partnerNames := b.partner.toNat == d.stakeNo, partnerHold := b.hold
    partnerDepart := b.depart, partnerWindow := b.window.toNat } }
  if !d.paired then d
  else if b.pass && !d.tokenNext then d.planToken (d.beatNo + 2) true
  else if d.weave.passing then
    -- PASS is repeated until the partner shows HOLD.
    (if b.hold && !d.tokenNext then { d with weave := { d.weave with passing := false } } else d)
  else if b.hold && d.tokenNext && decide (d.partnerNo < d.stakeNo) then d.planToken (d.beatNo + 2) false
  else d

/-- A BEAT_PKT is received (R354, R363, R368, R373, R375). -/
def Dev.takeBeatPkt (d : Dev) (h : WHdr) (b : BeatPkt) : Dev :=
  let s := h.src.toNat
  if 64 ≤ s ∨ s = d.stakeNo then d
  else
    let p := h.port.val
    let ofBeat := b.beat == BitVec.ofNat 32 d.beatNo
    let d := d.notePkt s b ofBeat
    let d := if h.dest.toNat = 254 ∧ (d.wport p).peer = s ∧ ofBeat = true then d.setWport p { d.wport p with gotPkt := true } else d
    let d := if s = d.partnerNo then d.partnerPkt b else d
    -- R373: a neighbour that departs takes its ports to DOWN at once.
    if b.depart then
      d.forL ((List.range 4).filter (fun q => (d.wport q).state == wpUp && (d.wport q).peer == s)) (fun d q => d.weftDown q)
    else d

/-! ## TIME (R362) -/

/-- Send TIME on every UP port, 0.25 µs from the start of the beat. -/
def Dev.sendTimes (d : Dev) : Dev :=
  if !d.full then d
  else d.forL ((List.range 4).filter (fun p => (d.wport p).state == wpUp)) (fun d p =>
    let x := d.wport p
    d.weavePut wkTime 0xFE (leBytes 8 (d.beatStart + 1600) ++ leBytes 8 x.t2 ++ leBytes 8 x.nbrT1) p)

/-- A TIME message: `t1` its departure, `t2` the arrival of our message there, `echo` our departure time of that message. Delay and offset
are averaged over 16 beats, rounded down (log entry 43); the parent's average steers the counter. -/
def Dev.takeTime (d : Dev) (h : WHdr) (t1 t2 echo : Nat) : Dev :=
  let p := h.port.val
  let x := d.wport p
  let x := { x with t2 := d.now, nbrT1 := t1 }
  if echo = 0 then d.setWport p x
  else
    let a : Int := (t2 : Int) - echo
    let b : Int := (d.now : Int) - t1
    let x := { x with dSum := x.dSum + (a + b), oSum := x.oSum + (a - b), n := x.n + 1, last := (a - b) / 2 - x.asym }
    if x.n < 16 then d.setWport p x
    else
      let off := x.oSum / 32 - x.asym
      let d := d.setWport p { x with delay := (x.dSum / 32).toNat % 2 ^ 32, offset := off, n := 0, dSum := 0, oSum := 0 }
      let parent := d.get Par.weaveTimeParent 0
      let first := (List.range 4).find? (fun q => (d.wport q).state == wpUp && (d.wport q).peer == parent)
      if parent < 64 ∧ first = some p then
        let ps := d.get Par.stakeTimeState parent
        d.timeMeasure (if ps ≤ tmWeave then tmWeave else if ps = tmHoldover then tmHoldover else tmFree) (-off)
      else d

/-! ## Shared signals (R365, R178) -/

/-- Pairs (stake × 64 + signal) that the WEAVE input slots of enabled contexts name. -/
def Dev.wantedSignals (d : Dev) : List Nat :=
  ((List.range 128).filter (d.cEn false)).flatMap (fun c =>
    ((List.range (d.cW false c)).filterMap (fun i =>
      let s := d.inSlot false c i
      if s.kind = 8 then some (s.obj % 64 * 64 + s.sel % 64) else none))) |>.eraseDups

/-- Send the list of signals to each publisher (R365). -/
def Dev.sendSubscribe (d : Dev) : Dev :=
  d.forL ((List.range 64).filter (fun s => s != d.stakeNo && d.weave.subs.any (fun x => x.1 == s))) (fun d s =>
    d.weavePut wkSubscribe s ((d.weave.subs.filter (fun x => x.1 == s)).flatMap (fun x => leBytes 1 x.2)))

/-- The descriptors have switched, or the stake starts: collect the pairs and subscribe (R365). -/
def Dev.resubscribe (d : Dev) : Dev :=
  let w := d.wantedSignals.map (fun k => (k / 64, k % 64))
  let d := { d with weave := { d.weave with subs := w } }
  (d.put Par.weaveSigSubs 0 w.length).sendSubscribe

/-- A SUBSCRIBE list for publisher `pub` from stake `who` passes here (R365): a stake on the way notes it to split records by route. -/
def Dev.takeSubscribe (d : Dev) (who pub : Nat) (sigs : List Nat) : Dev :=
  let keep := d.weave.readers.filter (fun r => !(r.2 == who && r.1 / 64 == pub))
  { d with weave := { d.weave with readers := keep ++ sigs.map (fun s => (pub * 64 + s % 64, who)) } }

/-- An 8-byte record of R365. -/
def sigBytes (r : SigRec) : List Byte :=
  leBytes 1 r.stake.toNat ++ leBytes 1 r.signal.toNat ++ leBytes 1 (b2n r.fresh) ++ leBytes 1 0 ++ leBytes 4 r.val.toNat

/-- Send records towards their readers: once over each port behind which some reader lies, never back over `from'` (R365). -/
def Dev.sendRecords (d : Dev) (recs : List SigRec) (from' : Nat) : Dev :=
  d.forL ((List.range 4).filter (· != from')) (fun d p =>
    let mine := recs.filter (fun r => d.weave.readers.any (fun x =>
      x.1 == r.stake.toNat * 64 + r.signal.toNat && (d.routeTo x.2).map (·.1) == some p))
    if mine = [] then d else d.weavePut wkSignals 0xFE (mine.flatMap sigBytes) p)

/-- Store a signal. -/
def Dev.setSig (d : Dev) (k : Nat) (g : Sig) : Dev := { d with weave := { d.weave with sig := d.weave.sig.set (fun _ => {}) k g } }

/-- A published signal after its beat. -/
def Sig.sent (g : Sig) : Sig := { g with fresh := false }
/-- A received signal after the beat it was for. -/
def Sig.used (g : Sig) : Sig := { g with arrived := false }
/-- Apply `f` to every signal held; one that becomes what an unlisted signal reads as is not listed. -/
def mapSig (f : Sig → Sig) (t : Tab Sig) : Tab Sig := t.filterMap (fun e => if f e.2 = {} then none else some (e.1, f e.2))

/-- The signals written in a beat are fresh in that beat alone (R178). -/
def Dev.pubClear (d : Dev) : Dev := { d with weave := { d.weave with pub := mapSig Sig.sent d.weave.pub } }

/-- Publish the subscribed signals of this stake for the beat (R178, R365): every signal with its last value, FRESH when written in
this beat. A device without a stake number publishes nothing (R356). -/
def Dev.publish (d : Dev) : Dev :=
  if !d.full ∨ d.weave.stake.isNone then d.pubClear
  else
    let recs := (List.range 64).map (fun s =>
      let g := d.weave.pub.get (fun _ => {}) s
      ({ stake := BitVec.ofNat 8 d.stakeNo, signal := BitVec.ofNat 8 s, fresh := g.fresh, val := g.val } : SigRec))
    let d := d.sendRecords recs 255
    -- A stake reads its own signals in the next beat as well.
    let d := d.forL recs (fun d r => d.setSig (d.stakeNo * 64 + r.signal.toNat) { val := r.val, fresh := r.fresh, arrived := r.fresh })
    d.pubClear

/-- SIGNALS records are received (R365). -/
def Dev.takeSignals (d : Dev) (h : WHdr) (recs : List SigRec) : Dev :=
  let d := d.forL recs (fun d r =>
    let s := r.stake.toNat
    if s < 64 ∧ d.weave.subs.contains (s, r.signal.toNat) then
      d.setSig (s * 64 + r.signal.toNat) { val := r.val, fresh := r.fresh, arrived := true }
    else d)
  if d.forwards wkSignals then d.sendRecords (recs.filter (fun r => r.stake.toNat != d.stakeNo)) h.port.val else d

/-- After a beat's contexts have run, what arrived for that beat is used up (R168). -/
def Dev.signalsUsed (d : Dev) : Dev :=
  let t := mapSig Sig.used d.weave.sig
  { d with weave := { d.weave with sig := t } }

/-! ## Partner messages (R119, R179, R152, R372) -/

/-- From the partner of a formed pair, to the stake without the token. -/
def Dev.fromHolder (d : Dev) (h : WHdr) : Bool := d.paired && !d.tokenNext && h.src.toNat == d.partnerNo

/-- Keep an arm current of the holder. -/
def Dev.setPartnerI (d : Dev) (j : Nat) (v : F32) : Dev := d.setArm j { d.arm j with partnerI := some v }

/-- Arm currents of the holder (R119). -/
def Dev.takeArmCur (d : Dev) (h : WHdr) (xs : List (Nat × F32)) : Dev :=
  if d.fromHolder h then d.forL (xs.filter (fun x => decide (x.1 < 24))) (fun d x => d.setPartnerI x.1 x.2)
  else d

/-- Send the partner the arm currents that the holder latches at the next boundary (R119): those of ADC and SDI sources once their samples are
taken, and (`ctx`) those of contexts once the outputs of the beat stand. -/
def Dev.sendArmCur (d : Dev) (ctx : Bool) : Dev :=
  if d.paired ∧ d.tokenNext ∧ d.full then
    let js := (List.range 24).filter (fun j => d.get Par.armSpokeSet j != 0 && (d.get Par.armISrc j / 16777216 == 0x20) == ctx)
    if js = [] then d
    else d.weavePut wkArmCur d.partnerNo (js.flatMap (fun j => leBytes 1 j ++ leBytes 4 ((d.armSource j).getD (d.arm j).iHat).toNat))
  else d

/-- A context's state vector from the holder (R179). -/
def Dev.takeCtxState (d : Dev) (h : WHdr) (c n : Nat) (xs : List F32) : Dev :=
  if d.fromHolder h ∧ c < 128 then d.setCtx c { d.ctx c with sync := some (xs.take n) } else d

/-- An arm block of the partner (R152). -/
def Dev.takeArmBlock (d : Dev) (h : WHdr) (j : Nat) : Dev :=
  if d.paired ∧ h.src.toNat = d.partnerNo ∧ j < 24 ∧ d.get Par.armState j ≠ asBlocked then d.armBlock j afPartner (faultCells 0xFFFF 0xFFFF)
  else d

/-! ## Triggers across the weave (R318, R319) -/

/-- A fire from the weave. -/
def Dev.takeFire (d : Dev) (n ts stake : Nat) : Dev :=
  if n < 16 ∧ d.isOn Par.trigWeave n then d.fireTrig n ts fcWeave stake else d

/-- A weave-wide arm value from another stake. -/
def Dev.takeTrigArm (d : Dev) (n v beat : Nat) : Dev :=
  if n < 16 ∧ d.isOn Par.trigWeave n then
    let t := { d.trig n with armNext := some (v, beat) }
    d.setTrig n { t with autoHere := false }
  else d

/-! ## Islanding codes (R206) -/

/-- Payload of CODES: the code indices of the enabled detectors, two bytes each. -/
def Dev.codeBytes (d : Dev) : List Byte :=
  ((List.range 4).filter (d.isOn Par.isldEnable)).flatMap (fun g => leBytes 2 (d.get Par.isldCodeIndex g))

/-- Evaluate clashes: another stake that is not the partner announces the index of ISLD.g (R206). -/
def Dev.clashEval (d : Dev) : Dev :=
  d.forN 4 (fun d g =>
    let others := if d.isOn Par.isldEnable g then
      d.weave.codes.filter (fun c => c.2 == d.get Par.isldCodeIndex g && !(d.inPair && c.1 == d.partnerNo)) else []
    let was := bit (d.get Par.isldStatus g) 2
    let d := d.putBit Par.isldStatus g 2 (others != [])
    let d := d.setIsl g { d.isl g with stopped := others.any (fun c => decide (c.1 < d.stakeNo)) }
    if others != [] && !was then d.raise evIsldCodeClash (oid 0x22 g) else d)

/-- CODES of another stake are received. -/
def Dev.takeCodes (d : Dev) (src : Nat) (codes : List Nat) : Dev :=
  if 64 ≤ src then d
  else
    let keep : List (Nat × Nat) := d.weave.codes.filter (fun c => decide (c.1 ≠ src))
    let d := { d with weave := { d.weave with codes := keep ++ codes.map (fun c => (src, c)) } }
    d.clashEval

/-! ## Once a second (R352, Table 16.3) -/

/-- The messages sent every second. -/
def Dev.weavePeriodic (d : Dev) : Dev :=
  if !d.full then d
  else
    let d := d.weavePut wkIdent 0xFF d.identBytes
    let d := d.sendLsa
    let assigner := match d.members with
      | m :: _ => m.ident == Config.identity
      | [] => false
    let d := if assigner then
        let as := d.assignments
        let d := { d with weave := { d.weave with made := as } }
        if as = [] then d else (d.weavePut wkAssign 0xFF (assignBytes as)).takeAssign as
      else d
    (d.weavePut wkCodes 0xFF d.codeBytes).sendSubscribe

/-! ## Pair and token (R367 to R373) -/

/-- Set the holding for the next beat; a change counts and is reported (R368). -/
def Dev.setToken (d : Dev) (v : Bool) : Dev :=
  if d.tokenNext = v then d
  else
    let d := (d.put Par.weaveToken 0 (b2n v)).inc 32 Par.weaveTokenChanges 0
    d.raise (if v then evTokenTaken else evTokenReleased) oWeave

/-- The partner becomes absent (R370, R373): this stake holds the token from the next beat. -/
def Dev.partnerLost (d : Dev) : Dev :=
  let s := d.partnerNo
  if 64 ≤ s ∨ d.weave.stake.isNone ∨ d.get Par.weavePairState 0 = paAbsent then d
  else
    let config := d.get Par.weavePairState 0 == paConfig
    let d := d.put Par.weavePairState 0 paAbsent
    let d := { d with weave := { d.weave with
      partnerNames := false, partnerHold := false, partnerDepart := false, passing := false, tokPlan := none
      heard := d.weave.heard.filter (· != s) } }
    let d := (d.put Par.stakePresent s 0).inc 32 Par.stakeAbsences s
    let d := d.raise evStakeAbsent (oStake s)
    if config && d.tokenNext then d else d.setToken true

/-- The third consecutive missed beat of the partner (R370). -/
def Dev.partnerAbsent (d : Dev) : Dev := if d.full ∧ 3 ≤ d.weave.partnerMiss then d.partnerLost else d

/-- 1 s without a direct link UP, or declarations that disagree (R367). -/
def Dev.duplexTimeout (d : Dev) : Dev :=
  let s := d.partnerNo
  if !d.full ∨ 64 ≤ s ∨ d.weave.stake.isNone ∨ d.get Par.weavePairState 0 = paConfig then d
  else
    let agree := d.get Par.stakePartner s == d.stakeNo
    let direct := d.neighbours.contains s
    if agree && direct then d
    else ((d.put Par.weavePairState 0 paConfig).raise evDuplexConfig oWeave).setToken true

/-- Judge a write of 1 to token_give (R369). -/
def Dev.judgeTokenGive (d : Dev) : Nat :=
  if !d.tokenNext ∨ !d.paired then stBadState else if d.weave.passing then stBusy else stOk

/-- Set PASS (R369). -/
def Dev.tokenGive (d : Dev) : Dev := { d with weave := { d.weave with passing := true } }

/-- Formation of the pair at a boundary (R367, R368). -/
def Dev.pairForm (d : Dev) : Dev :=
  let s := d.partnerNo
  if d.paired ∨ 64 ≤ s ∨ d.weave.stake.isNone then d
  else if d.weave.partnerNames ∧ d.weave.pkts.contains s ∧ d.neighbours.contains s ∧ !d.weave.partnerDepart then
    let d := d.put Par.weavePairState 0 paFormed
    let f := d.beatNo
    if d.weave.tokenCur ∧ d.weave.partnerHold then
      (if s < d.stakeNo then { d with weave := { d.weave with tokPlan := some (f + 2, false) } } else d)
    else if !d.weave.tokenCur ∧ !d.weave.partnerHold ∧ d.stakeNo < s then
      { d with weave := { d.weave with tokPlan := some (f + 1, true) } }
    else d
  else d

/-- Presence of the other stakes at a boundary (R360). -/
def Dev.presence (d : Dev) : Dev :=
  let me := d.stakeNo
  let d := d.forN 64 (fun d s =>
    if s = me then d.put Par.stakePresent s 1
    else
      let here := d.isOn Par.stakePresent s
      let route := (d.routeTo s).isSome
      if here ∧ !route ∧ s ≠ d.partnerNo then
        let d := (d.put Par.stakePresent s 0).inc 32 Par.stakeAbsences s
        let d := { d with weave := { d.weave with heard := d.weave.heard.filter (· != s), codes := d.weave.codes.filter (fun c => c.1 != s)
                                                  known := d.weave.known.filter (fun k => k.stake != s) } }
        (d.raise evStakeAbsent (oStake s)).clashEval
      else if !here ∧ route ∧ d.weave.heard.contains s then (d.put Par.stakePresent s 1).raise evStakePresent (oStake s)
      else d)
  d.put Par.weaveStakesPresent 0 (((List.range 64).map (fun s => b2n (d.isOn Par.stakePresent s) * 2 ^ s)).sum)

/-- STAKE parameters of the own number (R375). -/
def Dev.ownStake (d : Dev) : Dev :=
  match d.weave.stake with
  | none => d
  | some me =>
    let d := ((d.put Par.stakeIdentity me Config.identity.toNat).put Par.stakeStrapped me (1 - d.get Par.weaveAssigned 0)).put
      Par.stakePartner me d.partnerNo
    let d := ((d.put Par.stakeConvMode me d.kind).put Par.stakeTimeState me (d.get Par.beatTimeState 0)).put Par.stakeTimeRank me
      (d.get Par.weaveTimeRank 0)
    let d := ((d.put Par.stakeBeatTicks me d.beatTicks).put Par.stakeBeatPhase me (d.get Par.beatBeatPhase 0)).put Par.stakeHoldsToken me
      (b2n d.tokenNext)
    d.put Par.stakeLastBeat me d.beatNo

/-- Bytes of a message on a link with its overhead (Table 16.5). -/
def WOut.size (w : WOut) : Nat := w.bytes.length + 28

/-- The message is of class BEAT (Table 16.3). -/
def WOut.isBeat (w : WOut) : Bool := (wkBeatPkt ≤ w.kind && w.kind ≤ wkRingReport) || w.kind == wkTrigArm

/-- Ports a message leaves on. -/
def Dev.wOutPorts (d : Dev) (w : WOut) : List Nat :=
  if w.port < 4 then [w.port]
  else if 0xFE ≤ w.dest then (List.range 4).filter (fun p => (d.wport p).state == wpUp)
  else if w.dest = d.partnerNo then d.partnerPort.toList
  else ((d.routeTo w.dest).map (·.1)).toList

/-- BEAT messages that do not fit a port in the beat that ends are discarded (R353): 606 bytes per microsecond, oldest first within the
order of R352 (log entry 44). -/
def Dev.beatDiscard (d : Dev) : Dev :=
  let cap := d.beatLen * 606 / 6400
  let over' := (List.range 4).map (fun p =>
    let xs := d.weave.out.filter (fun w => w.isBeat && (d.wOutPorts w).contains p)
    let xs := sortBy (fun (a b : WOut) => decide (a.kind < b.kind)) xs
    (xs.foldl (fun (acc : Nat × Nat) w => if acc.1 < cap then (acc.1 + w.size, acc.2) else (acc.1, acc.2 + 1)) (0, 0)).2)
  let n := over'.sum
  if n = 0 then d else (d.inc 32 Par.weaveBeatDrops 0 n).raise evWeaveOverload oWeave

/-- Take an assigned number at the boundary (R357). -/
def Dev.takeNumber (d : Dev) : Dev :=
  match d.weave.assignedNo with
  | some n =>
    let d := { d with weave := { d.weave with assignedNo := none } }
    if d.weave.stake.isNone && !d.weave.isolated then d.setStake (some n) true else d
  | none => d

/-- Count the beats missed from the neighbours and the partner in the beat that ended (R349, R354, R370). -/
def Dev.countMissed (d : Dev) : Dev :=
  let d := d.forN 4 (fun d p =>
    let x := d.wport p
    if x.state = wpUp then d.setWport p { x with missRun := if x.gotPkt then 0 else x.missRun + 1, gotPkt := false } else d)
  let declared := decide (d.partnerNo < 64) && d.weave.stake.isSome
  let miss := if declared then (if d.weave.pkts.contains d.partnerNo then 0 else d.weave.partnerMiss + 1) else 0
  { d with weave := { d.weave with partnerMiss := miss } }

/-- A planned change of the holding whose first beat is the next one, or earlier (R368). -/
def Dev.tokenPlanned (d : Dev) : Dev :=
  match d.weave.tokPlan with
  | some (b, v) =>
    if b ≤ d.beatNo + 1 then
      let d := { d with weave := { d.weave with tokPlan := none } }
      d.setToken v
    else d
  | none => d

/-- The weave side of the end of a beat: what did not fit is discarded, and the beats missed are counted (R353, R354). -/
def Dev.weaveEnd (d : Dev) : Dev :=
  if !d.full then d
  else
    let d := d.beatDiscard
    ({ d with weave := { d.weave with out := [] } }).countMissed

/-- The weave side of a beat boundary, after the new beat number stands: stake number (R357), presence, the token (R368), the pair. -/
def Dev.weaveBoundary (d : Dev) : Dev :=
  if !d.full then d
  else
    let d := d.takeNumber
    let d := { d with weave := { d.weave with tokenCur := d.tokenNext } }
    let d := if d.weave.partnerDepart then d.partnerLost else d
    let d := d.pairForm.tokenPlanned
    let d := { d with weave := { d.weave with pkts := [] } }
    d.presence.ownStake

end Sys2Proof.Machine
end

