-- ==== Sys2Proof/Machine/Mode.lean ====
section
/-! DEFINITION. The mode table engine (R68 to R74), wake causes (R443, R444), and the table sets: validation (R66, R72, R162), commit,
abort, switch and persistence (R59 to R64). -/

namespace Sys2Proof.Machine

/-- Events of the group. -/
abbrev evModeChange : Nat := 23
/-- See `evModeChange`. -/
abbrev evModeNotify : Nat := 24
/-- See `evModeChange`. -/
abbrev evTableRestoreFail : Nat := 21
/-- See `evModeChange`. -/
abbrev evPwrWake : Nat := 7

/-- Object PWR.0. -/
abbrev oPwr : Nat := 0xB0000000
/-- Object DEV.0. -/
abbrev oDev : Nat := 0x01000000

/-- Codes of wake_cause. -/
abbrev wcTransition : Nat := 1
/-- See `wcTransition`. -/
abbrev wcHost : Nat := 2
/-- See `wcTransition`. -/
abbrev wcRim : Nat := 3
/-- See `wcTransition`. -/
abbrev wcWakePin : Nat := 4
/-- See `wcTransition`. -/
abbrev wcGrid : Nat := 5
/-- See `wcTransition`. -/
abbrev wcTimer : Nat := 6
/-- See `wcTransition`. -/
abbrev wcAux : Nat := 7
/-- See `wcTransition`. -/
abbrev wcAlarm : Nat := 8

/-- A wake cause in PARKED starts the wake; one during PARKING waits for the end of the entry (R444, R445). -/
def Dev.wake (d : Dev) (c : Nat) : Dev :=
  if !d.up then d
  else if d.pmode = pmParked then ((d.put Par.pwrMode 0 pmWaking).put Par.pwrWakeCause 0 c).raise evPwrWake oPwr
  else if d.pmode = pmParking ∧ d.pwr.wakeHeld.isNone then { d with pwr := { d.pwr with wakeHeld := some c } }
  else d

/-! ## Reading the active mode table -/

/-- Kind of a state in the active table; 0xFF undefined. -/
def Dev.kindOf (d : Dev) (s : Nat) : Nat := d.imgN tsMode false (0x40 + 32 * s) 1

/-- Lowest-numbered state of a kind. -/
def Dev.stateOfKind (d : Dev) (k : Nat) : Option Nat := (List.range 64).find? (fun s => d.kindOf s == k)

/-- Comparators of R69. -/
def compareF (c : Nat) (v thr : F32) : Bool :=
  if fisNaN v then false
  else if c = 0 then flt v thr else if c = 1 then fle v thr else if c = 2 then flt thr v else if c = 3 then fle thr v
  else if c = 4 then feq v thr else !(feq v thr)

/-- Watch `w` is true (R69). -/
def Dev.watch (d : Dev) (w : Nat) : Bool :=
  let b := 0x840 + 16 * w
  let o := d.imgN tsMode false b 4
  let p : Par := ⟨o / 16777216, d.imgN tsMode false (b + 4) 2⟩
  (rowOf p).isSome && compareF (d.imgN tsMode false (b + 6) 1) (d.liveF p (o % 16777216)) (d.imgF tsMode false (b + 8))

/-- A term of a guard (R70), before its negate bit. -/
def Dev.term (d : Dev) (cmds : List Nat) (w : Nat) : Bool :=
  let k := w % 256
  let op := w / 65536
  if k = 1 then d.isOn Par.evtFlag op
  else if k = 2 then d.watch op
  else if k = 3 then decide (op * fineMs ≤ d.mode.held)
  else if k = 4 then cmds.contains op
  else false

/-- Terms of a transition. -/
def Dev.transTerms (d : Dev) (a : Nat) : List Nat := (List.range 4).map (fun i => d.imgN tsMode false (a + 4 + 4 * i) 4)

/-- The guard of the transition at image offset `a` (R70). -/
def Dev.guard (d : Dev) (cmds : List Nat) (a : Nat) : Bool :=
  let vs := ((d.transTerms a).filter (fun w => w % 256 != 0)).map (fun w => d.term cmds w != bit w 8)
  if vs = [] then false
  else if d.imgN tsMode false (a + 3) 1 = 1 then vs.any id else vs.all id

/-- Offset of slot `t` of state `s`. -/
def transAt (s t : Nat) : Nat := 0x1040 + 24 * (16 * s + t)

/-- The first slot of state `s` whose transition fires. -/
def Dev.firstSlot (d : Dev) (cmds : List Nat) (s : Nat) : Option Nat :=
  (List.range 16).find? (fun t => bit (d.imgN tsMode false (transAt s t) 1) 0 && d.guard cmds (transAt s t))

/-! ## Entering a state (R71, R74) -/

/-- What an action does (R71): `owner` is the state that owns it. A USER event carries raise_detail, and the object of EVT.n (R457). -/
def Dev.actionDo (d : Dev) (code arg owner : Nat) : Dev :=
  if code = 1 then d.raise arg (oid 0xC0 arg) (if 224 ≤ arg ∧ arg < 240 then d.get Par.evtRaiseDetail arg else 0)
  else if code = 2 then (if arg < 16 then d.fireTrig arg d.now fcMode d.stakeNo else d)
  else if code = 3 then d.raise evModeNotify (oid 4 owner) (arg % 2 ^ 32 + owner * 2 ^ 32)
  else d

/-- Run an action. The pair that serves the actions may be halted (R26): then it waits for the restart. -/
def Dev.action (d : Dev) (code arg owner : Nat) : Dev :=
  if d.controlHalted then { d with mode := { d.mode with actHeld := d.mode.actHeld ++ [(code, arg, owner)] } } else d.actionDo code arg owner

/-- The actions that waited run, once the pair that serves them does. -/
def Dev.actionsRun (d : Dev) : Dev :=
  if d.controlHalted then d
  else ({ d with mode := { d.mode with actHeld := [] } } : Dev).forL d.mode.actHeld (fun d a => d.actionDo a.1 a.2.1 a.2.2)

/-- Note the kind and number of the present state. -/
def Dev.showState (d : Dev) (s : Nat) : Dev := (d.put Par.devConvMode 0 (d.kindOf s)).put Par.devModeIndex 0 s

/-- Enter state `s` (R74): MODE_CHANGE, the dwell count when the number changes, the entry count, the entry action. -/
def Dev.enterState (d : Dev) (s : Nat) (keepDwell : Bool) : Dev :=
  let old := d.mode.state
  let was := d.kind
  let same := keepDwell && old == some s
  let d := (d.showState s).put Par.devModeEntryBeat 0 (if same then d.get Par.devModeEntryBeat 0 else d.beatNo)
  let d := { d with mode := { d.mode with state := some s, held := if same then d.mode.held else 0 } }
  let d := d.raise evModeChange (oid 4 s) (old.getD 255 + s * 256 + d.kindOf s * 65536)
  let d := d.inc 32 Par.modeEntries s
  let b := 0x40 + 32 * s
  let d := d.forN 4 (fun d g => d.gridStateChange was g)
  d.action (d.imgN tsMode false (b + 2) 1) (d.imgN tsMode false (b + 4) 4) s

/-! ## Evaluation (R73) -/

/-- Target of the first fixed transition that fires (Table 3.6): `low` admits priorities 3 and 4. -/
def Dev.fixedTarget (d : Dev) (low : Bool) : Option Nat :=
  let k := match d.mode.state with
    | some s => d.kindOf s
    | none => 255
  if d.get Par.rimState 0 = 1 ∧ k ≠ kLockout then d.stateOfKind kLockout
  else if k = kLockout then none
  else if d.mode.tripReq ∧ k ≠ kTripped then d.stateOfKind kTripped
  else if k = kTripped ∨ !low then none
  else if d.mode.isldDec ∧ k ≠ kIslStop then d.stateOfKind kIslStop
  else if d.mode.restoreOcc ∧ k ≠ kParked then d.stateOfKind kParked
  else none

/-- Every transition out of OFF and PARKED is refused, the fixed ones with the others: BEAT_MISMATCH (R40), no stake number (R356). -/
def Dev.modeHeld (d : Dev) : Bool := d.offOrParked && (d.weave.mismatch || d.weave.stake.isNone)

/-- Conditions of the boundary are used up. -/
def Dev.modeDone (d : Dev) : Dev :=
  { d with mode := { d.mode with tripReq := false, stopReq := false, restoreOcc := false, isldDec := false }
           host := { d.host with modeReq := [] } }

/-- The fire of a slot transition: its action, then the target (R71). A transition to the present state's own number is a state change like any
other: it starts the dwell count and mode_entry_beat anew (DESIGN CHOICE, log entry 60). -/
def Dev.slotFire (d : Dev) (s t : Nat) : Dev :=
  let a := transAt s t
  let d := d.action (d.imgN tsMode false (a + 2) 1) (d.imgN tsMode false (a + 20) 4) s
  d.enterState (d.imgN tsMode false (a + 1) 1 % 64) false

/-- One evaluation of the engine at a boundary in RUN or PARKING; `switched` when the mode table has just switched (R73, R74). -/
def Dev.modeRun (d : Dev) (switched : Bool) : Dev :=
  let cmds := d.host.modeReq
  match d.mode.state with
  | none =>
    let s := (d.fixedTarget true).getD (d.imgN tsMode false 0 1 % 64)
    (d.enterState s false).modeDone
  | some s =>
    let d := if switched then d.showState s else d
    let lost := switched && decide (9 < d.kindOf s)
    if d.modeHeld then d.modeDone
    else match d.fixedTarget true with
      | some t => (d.enterState t lost).modeDone
      | none =>
        if lost then (d.enterState (d.imgN tsMode false 0 1 % 64) true).modeDone
        else match d.firstSlot cmds s with
          | some t => (d.slotFire s t).modeDone
          | none => d.modeDone

/-- The trip and stop requests of a boundary have been served in PARKED. -/
def Dev.modeServed (d : Dev) : Dev := { d with mode := { d.mode with tripReq := false, stopReq := false } }

/-- One evaluation at a boundary in PARKED or WAKING (R443): only priorities 1 and 2 fire; what else would fire is a wake cause and waits
for RUN. A switch of the mode table that leaves the present state undefined forces the initial state here as well: that entry is no transition
(R74). -/
def Dev.modePark (d : Dev) (switched : Bool) : Dev :=
  match d.mode.state with
  | none => d
  | some s =>
    let d := if switched then d.showState s else d
    let lost := switched && decide (9 < d.kindOf s)
    if d.modeHeld then d.modeServed
    else match d.fixedTarget false with
      | some t => ((d.enterState t lost).wake wcTransition).modeDone
      | none =>
        let would := (d.fixedTarget true).isSome || (!lost && (d.firstSlot [] s).isSome)
        let d := (if lost then d.enterState (d.imgN tsMode false 0 1 % 64) true else d).modeServed
        if would then d.wake wcTransition else d

/-! ## Validation -/

/-- Kind flags that R68 allows. -/
def flagsAllowed (kind : Nat) : Nat :=
  if kind = kFollow ∨ kind = kForm then 0xF
  else if kind = kStandby ∨ kind = kRide then 0xB
  else if kind = kPrecharge then 0xA
  else 8

/-- Offending field of an action with code at `a` and argument at `g`. -/
def actionFault (code arg a g : Nat) : List Nat :=
  if 3 < code then [a]
  else if code = 1 ∧ !(evNamed arg) then [g]
  else if code = 2 ∧ 16 ≤ arg then [g]
  else []

/-- Offending fields of the shadow mode table (R72, R458). A watch entry is checked where a term of a valid transition names it: an entry that
none names is unused, and may be all zero (DESIGN CHOICE, log entry 61). -/
def Dev.modeFaults (d : Dev) : List Nat :=
  let n := fun a k => d.imgN tsMode true a k
  let kind := fun s => n (0x40 + 32 * s) 1
  let defd := fun s => decide (s < 64) && decide (kind s ≤ 9)
  let init := n 0 1
  let f0' := if defd init && (kind init == kOff || kind init == kParked) then [] else [0]
  let states := (List.range 64).flatMap (fun s =>
    let b := 0x40 + 32 * s
    if kind s = 0xFF then []
    else if 9 < kind s then [b]
    else (if field (n (b + 1) 1) 0 4 &&& flagsAllowed (kind s) = field (n (b + 1) 1) 0 4 then [] else [b + 1])
      ++ actionFault (n (b + 2) 1) (n (b + 4) 4) (b + 2) (b + 4))
  let miss := [kOff, kParked, kIslStop, kTripped, kLockout].flatMap (fun k =>
    if (List.range 64).any (fun s => kind s == k) then [] else [0x40])
  let valid := (List.range 1024).filter (fun q => bit (n (0x1040 + 24 * q) 1) 0)
  let terms := fun q => (List.range 4).map (fun i => (0x1040 + 24 * q + 4 + 4 * i, n (0x1040 + 24 * q + 4 + 4 * i) 4))
  let trans := valid.flatMap (fun q =>
    let a := 0x1040 + 24 * q
    let s := q / 16
    if !(defd s) then [a]
    else
      (if defd (n (a + 1) 1) then [] else [a + 1])
      ++ actionFault (n (a + 2) 1) (n (a + 20) 4) (a + 2) (a + 20)
      ++ (if 1 < n (a + 3) 1 then [a + 3] else [])
      ++ (terms q).flatMap (fun t =>
        if 4 < t.2 % 256 then [t.1]
        else if t.2 % 256 = 1 ∧ !(evNamed (t.2 / 65536)) then [t.1 + 2]
        else if t.2 % 256 = 2 ∧ 128 ≤ t.2 / 65536 then [t.1 + 2]
        else [])
      ++ (if (kind s = kTripped ∨ kind s = kLockout) ∧ !(n (a + 3) 1 == 0 && (terms q).any (fun t => t.2 % 256 == 4)) then [a + 3] else []))
  let used := valid.flatMap (fun q => (terms q).filterMap (fun t => if t.2 % 256 = 2 then some (t.2 / 65536) else none))
  let watches := ((List.range 128).filter used.contains).flatMap (fun w =>
    let b := 0x840 + 16 * w
    let o := n b 4
    if instances (o / 16777216) ≤ o % 16777216 then [b]
    else (if (rowOf ⟨o / 16777216, n (b + 4) 2⟩).isNone then [b + 4] else []) ++ (if 5 < n (b + 6) 1 then [b + 6] else []))
  f0' ++ states ++ miss ++ trans ++ watches

/-- Offending fields of the shadow curve store (R66). An overlap is reported at the directory word of the higher-numbered curve
(log entry 45). -/
def Dev.curveFaults (d : Dev) : List Nat :=
  let dir := fun n => d.curveDir true n
  let word := fun h => d.imgN tsCurve true (8 * h) 2
  let defd := (List.range 256).filter (fun n => dir n != 0)
  let span := fun n => (dir n, dir n + field (word (dir n)) 0 10)
  defd.flatMap (fun n =>
    let h := dir n
    let c := field (word h) 0 10
    if h < 64 then [2 * n]
    else if c < 2 ∨ 512 < c ∨ 8191 < h + c then [8 * h]
    else
      (if 1 < field (word h) 10 2 ∨ 1 < field (word h) 12 2 then [8 * h + 1] else [])
      ++ (List.range c).flatMap (fun j =>
        let a := 8 * (h + 1 + j)
        let x := d.imgF tsCurve true a
        (if ffinite x then [] else [a]) ++ (if ffinite (d.imgF tsCurve true (a + 4)) then [] else [a + 4])
        ++ (if 0 < j ∧ !(flt (d.imgF tsCurve true (a - 8)) x) then [a] else []))
      ++ (if defd.any (fun m => decide (m < n) && decide ((span m).1 ≤ (span n).2) && decide ((span n).1 ≤ (span m).2)) then [2 * n] else []))

/-- The object is in range (R33). -/
def objOk (o : Nat) : Bool := decide (o % 16777216 < instances (o / 16777216))

/-- Offending fields of one input slot (R162, Table 7.3). -/
def inFaults (c i b : Nat) (s : InSlot) : List Nat :=
  let k := s.kind
  let cls := s.obj / 16777216
  let want := if k = 3 then 0x40 else if k = 4 then 0x41 else if k = 5 then 0x11 else if k = 6 then 0x12 else if k = 7 then 0x20
    else if k = 8 then 0x81 else if k = 9 then 3 else 0x20
  let top := if k = 5 then 3 else if k = 6 then 4 else if k = 7 ∨ k = 10 then 7 else if k = 8 then 63 else 0
  (if ffinite s.scale then [] else [b + 8])
  ++ (if 10 < k then [b + 6]
      else if k ≤ 1 then (if s.obj = 0 then [] else [b]) ++ (if s.sel = 0 then [] else [b + 4])
      else if k = 2 then
        (if objOk s.obj then (if (rowOf ⟨cls, s.sel⟩).isSome then [] else [b + 4]) else [b])
      else
        (if cls = want ∧ objOk s.obj ∧ (k ≠ 10 ∨ s.obj % 16777216 = c) then [] else [b])
        ++ (if (if k = 9 then s.sel < i else s.sel ≤ top) then [] else [b + 4]))

/-- The parameter is a set-point input (R25, R160). -/
def isSetPoint (obj sel : Nat) : Bool := setPoints.contains ⟨obj / 16777216, sel⟩

/-- Offending fields of the enabled descriptor `c` of the shadow, of its own (R162). -/
def Dev.descFaults (d : Dev) (c : Nat) : List Nat :=
  let base := 4032 * c
  let g := fun o k => d.desc true c o k
  let n := g 0 1
  let m := g 1 1
  let w := g 2 1
  let head := (if 16 < n then [base] else []) ++ (if 8 < m then [base + 1] else []) ++ (if 16 < w then [base + 2] else [])
    ++ (if g 4 2 = 0 ∨ 256 < g 4 2 then [base + 4] else if g 4 2 ≤ g 6 1 then [base + 6] else [])
    ++ (if g 8 1 = 0 ∨ 8 < g 8 1 then [base + 8] else [])
  if head ≠ [] then head
  else
    (if g 0xA 2 / 2 ^ n = 0 then [] else [base + 0xA])
    ++ (List.range 16).flatMap (fun i => if g (0x10 + i) 1 / 2 ^ m = 0 then [] else [base + 0x10 + i])
    ++ (List.range w).flatMap (fun i => inFaults c i (base + 0x40 + 12 * i) (d.inSlot true c i))
    ++ (List.range m).flatMap (fun o =>
      let b := base + 0x100 + 24 * o
      let s := d.outSlot true c o
      (if 2 < s.kind then [b + 6]
       else if s.kind = 1 then (if !(objOk s.obj) then [b] else if !(isSetPoint s.obj s.sel) then [b + 4] else [])
       else if s.kind = 2 ∧ 63 < s.sel then [b + 4] else [])
      ++ (if s.dyn ∧ w ≤ s.limSlot then [b + 20] else [])
      ++ (if ffinite s.lo then [] else [b + 8]) ++ (if ffinite s.hi then [] else [b + 12]) ++ (if ffinite s.fallback then [] else [b + 16])
      ++ (if flt s.hi s.lo then [b + 8] else []))
    ++ (List.range n).flatMap (fun i => (List.range n ++ (List.range m).map (· + 16) ++ (List.range w).map (· + 24)).flatMap (fun j =>
      if ffinite (d.mx true c i j) then [] else [base + 0x1C0 + 160 * i + 4 * j]))
    ++ (List.range m).flatMap (fun o => (List.range n ++ (List.range w).map (· + 16)).flatMap (fun j =>
      if ffinite (d.mu true c o j) then [] else [base + 0xBC0 + 128 * o + 4 * j]))

/-- Outputs of the enabled shadow descriptors, in order: context, output number, slot. -/
def Dev.shadowOuts (d : Dev) : List (Nat × Nat × OutSlot) :=
  ((List.range 128).filter (d.cEn true)).flatMap (fun c => (List.range (min 8 (d.cM true c))).map (fun o => (c, o, d.outSlot true c o)))

/-- Checks that hold between descriptors (R162, R171): a destination or signal named twice, which holds at the first output that names it; a cascade. -/
def Dev.crossFaults (d : Dev) : List Nat :=
  let outs := d.shadowOuts
  let place := fun (x : Nat × Nat × OutSlot) => 4032 * x.1 + 0x100 + 24 * x.2.1
  outs.flatMap (fun x =>
    let s := x.2.2
    let other := outs.filter (fun y => place y != place x)
    (if s.kind = 1 ∧ other.any (fun y => y.2.2.kind == 1 && y.2.2.obj == s.obj && y.2.2.sel == s.sel) then [place x] else [])
    ++ (if s.kind = 2 ∧ other.any (fun y => y.2.2.kind == 2 && y.2.2.sel == s.sel) then [place x + 4] else [])
    ++ (if s.kind = 1 ∧ s.obj / 16777216 = 0x20 ∧ isSetPoint s.obj s.sel then
          let t := s.obj % 16777216
          let dt := d.cDiv true t
          if dt ≠ 0 ∧ (d.cDiv true x.1 % dt ≠ 0 ∨ d.cPhase true x.1 % dt ≠ d.cPhase true t) then [place x] else []
        else []))

/-- Checks against the enabled grids (R182) and the ports in use (R225): the offset of the context that breaks them. -/
def Dev.stepFaults (d : Dev) : List Nat :=
  let grids := ((List.range 4).filter (d.isOn Par.gridEnable)).flatMap (fun g =>
    if d.gridOk true g (d.get Par.gridCtxSync g) (d.get Par.gridCtxCur g) (d.get Par.gridCtxChop g) (d.get Par.gridOrder g) then []
    else [4032 * min 127 (d.get Par.gridCtxSync g)])
  let ports := d.portsUsed.flatMap (fun p =>
    let c := d.get Par.portCtx p
    if 128 ≤ c then []
    else if decide (d.get Par.portOrder p < d.cOrder true c) && (d.ctxWriters true (refPar 0) c).isEmpty
      && (d.ctxWriters true (refPar 1) c).isEmpty then [] else [4032 * c])
  grids ++ ports

/-- Offending fields of the shadow descriptors (R162, R182, R225). -/
def Dev.ctxFaults (d : Dev) : List Nat :=
  ((List.range 128).filter (d.cEn true)).flatMap d.descFaults ++ d.crossFaults ++ d.stepFaults

/-- Offending fields of the shadow of set `k`. -/
def Dev.setFaults (d : Dev) (k : Nat) : List Nat :=
  if k = tsCurve then d.curveFaults else if k = tsMode then d.modeFaults else d.ctxFaults

/-! ## Commit and abort (R60 to R62) -/

/-- Sets named by a mask. -/
def setsOf (mask : Nat) : List Nat := (List.range 3).filter (bit mask)

/-- Change the state of the sets of a mask. -/
def Dev.setsState (d : Dev) (mask st : Nat) : Dev := d.forL (setsOf mask) (fun d k => d.setTset k { d.tset k with state := st })

/-- The operation of a commit (R383). -/
def Commit.oper (c : Commit) : Oper :=
  { session := c.session, tag := c.tag, op := 0x20, kind := .commit, obj := oDev, idx := Par.devTblCommit.idx, ts := c.ts, gone := c.gone }

/-- Start a commit whose sets are in EDIT (R59, R60). -/
def Dev.commitStart (d : Dev) (mask session tag ts : Nat) : Dev :=
  let c : Commit := { mask := mask, session := session, tag := tag, ts := ts }
  let d := d.setsState mask 1
  let d := d.forL (setsOf mask) (fun d k => d.setTset k { d.tset k with committed := true, switched := false })
  { d with commits := d.commits ++ [c], host := { d.host with ops := d.host.ops ++ [c.oper] } }

/-- End a commit without a switch: its sets are in EDIT again. -/
def Dev.commitEnd (d : Dev) (c : Commit) (status : Nat) (extra : List Byte) : Dev :=
  let d := { d with commits := d.commits.filter (fun x => !(x == c)) }
  (d.setsState c.mask 0).outcome c.oper status extra

/-- Validation of the oldest commit that waits for it ends (R60, R63): RANGE with the first offending offset, ADMISSION with the context
and its finish cycle (R174), or a switch at the next boundary. Where several sets of a commit fail, the offset is that of the lowest-numbered one
(DESIGN CHOICE, log entry 62). -/
def Dev.validated (d : Dev) : Dev :=
  match d.commits.find? (fun c => !c.validated) with
  | none => d
  | some c =>
    match (setsOf c.mask).findSome? (fun k => minOf (d.setFaults k)) with
    | some off => d.commitEnd c stRange (leBytes 4 off)
    | none =>
      match if bit c.mask tsCtx then d.admission true d.windowTicks else none with
      | some (ctx, cyc) => d.commitEnd c stAdmission (leBytes 4 ctx ++ leBytes 4 cyc)
      | none =>
        let d := if bit c.mask tsCurve then d.headsClean else d
        let d := d.forL (setsOf c.mask) (fun d k => d.setTset k { d.tset k with digest := sha384 (d.imgAll k true) })
        { d with commits := d.commits.map (fun x => if x = c then { x with validated := true } else x) }

/-- Abort the commits that name a set of `mask` (R62). -/
def Dev.abortSets (d : Dev) (mask : Nat) : Dev :=
  d.forL (d.commits.filter (fun c => (setsOf mask).any (bit c.mask))) (fun d c => d.commitEnd c stAborted [])

/-- Judge and act on a write of tbl_abort (R62). A named set whose last commit was refused or aborted answers as one never committed
(log entry 46). -/
def Dev.tblAbort (d : Dev) (mask : Nat) : Nat × Dev :=
  if setsOf mask = [] then (stOk, d)
  else if d.commits.any (fun c => (setsOf mask).any (bit c.mask)) then (stOk, d.abortSets mask)
  else if (setsOf mask).any (fun k => (d.tset k).switched) then (stLateAbort, d)
  else (stBadState, d)

/-! ## Switch (R61, R63) and copies (R59, R64) -/

/-- Restart the contexts of which some descriptor byte changed (R157). -/
def Dev.restartChanged (d : Dev) (old : Tab Byte) : Dev :=
  d.forN 128 (fun d c =>
    if old.getList (imgDefault tsCtx) (4032 * c) 4032 = d.img tsCtx false (4032 * c) 4032 then d else d.ctxRestart c)

/-- Switch one set at the boundary: the copies exchange roles, and the Lid extends the set's tally register. -/
def Dev.switchSet (d : Dev) (k : Nat) : Dev :=
  let x := d.tset k
  let y : TblSet := { x with active := x.shadow, shadow := x.active, state := 2, switched := true, dirty := true,
                             actDigest := x.digest }
  let d := (d.setTset k y).put Par.devTblSwitchBeat 0 d.beatNo
  let d := d.tallyExtend (4 + k) x.digest
  if k = tsCtx then (d.restartChanged x.active).resubscribe else d

/-- Every validated commit switches; answers whether the mode table did. -/
def Dev.switchTables (d : Dev) : Bool × Dev :=
  let cs := d.commits.filter (·.validated)
  let mode := cs.any (fun c => bit c.mask tsMode)
  let d := d.forL cs (fun d c =>
    let d := d.forL (setsOf c.mask) Dev.switchSet
    let d := { d with commits := d.commits.filter (fun x => !(x == c)) }
    d.outcome c.oper stCompleted [])
  (mode, d)

/-- The copy into the new shadow is done (R59, R61). -/
def Dev.syncDone (d : Dev) (k : Nat) : Dev :=
  let x := d.tset k
  if x.state = 2 then d.setTset k { x with shadow := x.active, state := 0 } else d

/-- Write the switched sets and their digests to MRAM (R64). -/
def Dev.persist (d : Dev) : Dev :=
  d.forN 3 (fun d k =>
    let x := d.tset k
    if x.dirty then
      let d := d.setTset k { x with dirty := false }
      { d with lid := { d.lid with
          stored := d.lid.stored.set (fun _ => []) k x.active
          storedDigest := d.lid.storedDigest.set (fun _ => []) k x.actDigest } }
    else d)

/-- Both copies of a set take an image. -/
def Dev.loadSet (d : Dev) (k : Nat) (t : Tab Byte) : Dev := d.setTset k { active := t, shadow := t }

/-- Load the table sets at start-up and digest them (R64): content that does not match its recorded digest is replaced by the default. A set
that was never committed has none recorded and is its default. -/
def Dev.loadTables (d : Dev) : Dev :=
  d.forN 3 (fun d k =>
    let img := d.lid.stored.get (fun _ => []) k
    let dig := d.lid.storedDigest.get (fun _ => []) k
    let d := d.loadSet k img
    let d := if dig ≠ [] ∧ sha384 (d.imgAll k false) ≠ dig then
        let d := (d.loadSet k []).raise evTableRestoreFail oDev
        { d with mode := { d.mode with restoreOcc := true } }
      else d
    d.tallyExtend (4 + k) (sha384 (d.imgAll k false)))

end Sys2Proof.Machine
end

