-- ==== Sys2Proof/Machine/Analog.lean ====
section
/-! DEFINITION. SAR channels and sigma-delta inputs (R263 to R271) and the threshold readback (R278, R279). -/

namespace Sys2Proof.Machine

/-- SAR channel record. -/
def Dev.adc (d : Dev) (n : Nat) : AdcRt := d.adcs.get (fun _ => {}) n
/-- Store a SAR channel record. -/
def Dev.setAdc (d : Dev) (n : Nat) (x : AdcRt) : Dev := { d with adcs := d.adcs.set (fun _ => {}) n x }
/-- Sigma-delta input record. -/
def Dev.sdi (d : Dev) (n : Nat) : SdiRt := d.sdis.get (fun _ => {}) n
/-- Store a sigma-delta input record. -/
def Dev.setSdi (d : Dev) (n : Nat) (x : SdiRt) : Dev := { d with sdis := d.sdis.set (fun _ => {}) n x }
/-- Window monitor record. -/
def Dev.win (d : Dev) (n : Nat) : WinRt := d.wins.get (fun _ => {}) n
/-- Store a window monitor record. -/
def Dev.setWin (d : Dev) (n : Nat) (x : WinRt) : Dev := { d with wins := d.wins.set (fun _ => {}) n x }

/-- Events of the group. -/
abbrev evAdcCalFail : Nat := 128
/-- See `evAdcCalFail`. -/
abbrev evSdiModFault : Nat := 129
/-- See `evAdcCalFail`. -/
abbrev evWinTrip : Nat := 130
/-- See `evAdcCalFail`. -/
abbrev evWinThreshFail : Nat := 131

/-! ## SAR converters -/

/-- The value of a code (R265): c × 2.5 / 65536, less offset, times gain, in binary32. -/
def Dev.adcVolts (d : Dev) (n : Nat) (c : Int) : F32 :=
  fmul (fsub (fdiv (fmul (fint c) 0x40200000) (fint 65536)) (d.getF Par.adcOffset n)) (d.getF Par.adcGain n)

/-- A code out of range (R266). -/
def isOvr (c : Int) : Bool := c == 32767 || c == -32768

/-- Causes that make every sample of a channel invalid (R266): CAL bit 1, CAL_FAIL bit 2, READBACK bit 3. -/
def Dev.adcCauses (d : Dev) (n : Nat) : Nat :=
  let x := d.adc n
  2 * b2n x.calRunning + 4 * b2n x.calFail + 8 * b2n x.held

/-- The channel converts: enabled, and its block powered (R266). -/
def Dev.adcOn (d : Dev) (n : Nat) : Bool := d.isOn Par.adcEnable n && d.full

/-- Value of a sample as the capture engine records it (Table 14.1). -/
def Dev.adcRecord (d : Dev) (n : Nat) (c : Int) : F32 :=
  if isOvr c || d.adcCauses n != 0 then 0x7FC00000 else d.adcVolts n c

/-- The beat sample of a channel (R264 to R266). -/
def Dev.adcBeat (d : Dev) (n : Nat) (c : Int) : Dev :=
  if !(d.adcOn n) then d.putBit Par.adcStatus n 4 true
  else
    let cause := b2n (isOvr c) + d.adcCauses n
    let d := ((d.putF Par.adcValue n (d.adcVolts n c)).putI Par.adcCode n c).put Par.adcSampleTime n d.beatStart
    let d := d.put Par.adcStatus n (cause + 16 * b2n (cause != 0))
    let d := if isOvr c then d.inc 32 Par.adcOvrCount n else d
    let d := d.setAdc n { d.adc n with lastCode := c }
    d.sample 0x40 n 0 d.beatStart (d.adcRecord n c) 2

/-- Any other conversion of the beat (R263, R264): counted when out of range, offered at rate ALL with its aperture, 80 ticks
before its end. -/
def Dev.adcConvert (d : Dev) (n : Nat) (c : Int) : Dev :=
  if !(d.adcOn n) then d
  else
    let d := if isOvr c then d.inc 32 Par.adcOvrCount n else d
    let d := d.setAdc n { d.adc n with lastCode := c }
    d.sample 0x40 n 0 (d.now - 1280) (d.adcRecord n c) 1

/-- Start or restart a calibration (R267). -/
def Dev.adcCalStart (d : Dev) (n : Nat) : Dev := d.setAdc n { d.adc n with calRunning := true }

/-- A calibration ends with the offset in LSB and the gain found (R267). -/
def Dev.adcCalDone (d : Dev) (n : Nat) (off : Int) (gain : F32) : Dev :=
  if !(d.adc n).calRunning then d
  else
    let bad := decide (64 < off.natAbs) || !(fle (fabs (fsub gain f1)) (frat 5 1000))
    let d := (d.putI Par.adcCalOffset n off).putF Par.adcCalGain n gain
    let d := d.setAdc n { d.adc n with calRunning := false, calFail := bad }
    if bad then d.raise evAdcCalFail (oid 0x40 n) else d

/-! ## Sigma-delta inputs -/

/-- SDI_CLKm runs (R268). -/
def Dev.sdiClock (d : Dev) (m : Nat) : Bool :=
  d.full && (List.range 32).any (fun n => d.isOn Par.sdiEnable n && d.get Par.sdiClkSel n == m)

/-- Binomial coefficient of `n` over 2 for the closed form of the moving sums. -/
def choose2 (n : Int) : Int := if n < 2 then 0 else n * (n - 1) / 2

/-- Weight of the bit `i` clocks back in the third-order moving sum of decimation `D` (R269). -/
def sincWeight (D i : Nat) : Int :=
  choose2 (i + 2) - 3 * choose2 ((i : Int) - D + 2) + 3 * choose2 ((i : Int) - 2 * D + 2)

/-- The third-order moving sum over the last 3D − 2 bits, newest first (R269). -/
def sincSum (D : Nat) (bits : List Bool) : Int :=
  ((List.zip (List.range (3 * D - 2)) bits).map (fun p => if p.2 then sincWeight D p.1 else -(sincWeight D p.1))).foldl (· + ·) 0

/-- The value of the filter at the last clock edge (R269). -/
def Dev.sdiValueOf (d : Dev) (n : Nat) : F32 :=
  let D := d.get Par.sdiDecim n
  fmul (fsub (frat (sincSum D (d.sdi n).hist) (D * D * D)) (d.getF Par.sdiOffset n)) (d.getF Par.sdiGain n)

/-- Status of a sample (R271): SETTLING bit 0, STUCK bit 1, NO_CLOCK bit 2. -/
def Dev.sdiCauses (d : Dev) (n : Nat) : Nat :=
  let x := d.sdi n
  b2n (decide (x.clocks < 3 * d.get Par.sdiDecim n - 2)) + 2 * b2n x.stuck + 4 * b2n (!(d.sdiClock (d.get Par.sdiClkSel n)))

/-- The last `k` bits are all equal. -/
def stuckBits (k : Nat) (bits : List Bool) : Bool :=
  decide (k ≤ bits.length) && ((bits.take k).all id || (bits.take k).all (fun b => !b))

/-- Take in the bits sampled since the last ones, oldest first; a bit that differs ends a stuck run. -/
def Dev.sdiBits (d : Dev) (n : Nat) (bits : List Bool) : Dev :=
  if !(d.isOn Par.sdiEnable n) ∨ !(d.sdiClock (d.get Par.sdiClkSel n)) then d
  else
    let x := d.sdi n
    let h := (bits.reverse ++ x.hist).take 1024
    let x := { x with hist := h, clocks := x.clocks + bits.length, phase := (x.phase + bits.length) % max 1 (d.get Par.sdiDecim n) }
    d.setSdi n { x with stuck := x.stuck && stuckBits (d.get Par.sdiStuckRun n) h }

/-- The modulator clock of an input starts, or its decimation changes: the filter settles anew (R271). -/
def Dev.sdiRestart (d : Dev) (n : Nat) : Dev := d.setSdi n {}

/-- A stuck run is met (R271): once per run. -/
def Dev.sdiStuck (d : Dev) (n : Nat) : Dev :=
  let x := d.sdi n
  if d.isOn Par.sdiEnable n ∧ d.full ∧ !x.stuck ∧ stuckBits (d.get Par.sdiStuckRun n) x.hist then
    ((d.setSdi n { x with stuck := true }).inc 32 Par.sdiStuckCount n).raise evSdiModFault (oid 0x41 n)
  else d

/-- Weave time of the last modulator clock edge at or before `t`: whole multiples of 20 ticks (R268). -/
def lastEdge (t : Nat) : Nat := t - t % 320

/-- The beat sample of an input (R269 to R271). -/
def Dev.sdiBeat (d : Dev) (n : Nat) : Dev :=
  if !(d.isOn Par.sdiEnable n) || !d.full then d.putBit Par.sdiStatus n 3 true
  else
    let c := d.sdiCauses n
    let v := d.sdiValueOf n
    let ts := lastEdge d.beatStart
    let d := (d.putF Par.sdiValue n v).put Par.sdiSampleTime n ts
    let d := d.put Par.sdiStatus n (c + 8 * b2n (c != 0))
    d.sample 0x41 n 0 ts (if c != 0 then 0x7FC00000 else v) 0

/-- A D-th clock edge (R269): the output for the capture engine at rate ALL. -/
def Dev.sdiDecimated (d : Dev) (n : Nat) : Dev :=
  if !(d.isOn Par.sdiEnable n) || !d.full then d
  else d.sample 0x41 n 0 (lastEdge d.now) (if d.sdiCauses n != 0 then 0x7FC00000 else d.sdiValueOf n) 1

/-! ## Threshold readback (R278, R279) -/

/-- Judge a request on a window (R279): BUSY with one pending on the window or the channel held by another check. -/
def Dev.judgeReadback (d : Dev) (w : Nat) : Nat :=
  let ch := d.get Par.winReadbackChan w
  if (d.win w).check.isSome ∨ (List.range 64).any (fun v => match (d.win v).check with
      | some c => c.chan == ch
      | none => false) then stBusy
  else stOk

/-- Request a check of converter `which` (1 high, 2 low). -/
def Dev.readbackStart (d : Dev) (w which : Nat) : Dev :=
  (d.setWin w { d.win w with check := some { which := which, chan := d.get Par.winReadbackChan w } }).put Par.winReadback w which

/-- A check advances at a boundary (R278): it takes its channel, then counts down the whole beats of the hold. -/
def Dev.readbackBeat (d : Dev) (w : Nat) : Dev :=
  match (d.win w).check with
  | none => d
  | some c =>
    if !c.taken then
      let r := max 1 (ceilDiv 2400 d.beatTicks)
      (d.setWin w { d.win w with check := some { c with taken := true, beatsLeft := r } }).setAdc c.chan { d.adc c.chan with held := true }
    else d.setWin w { d.win w with check := some { c with beatsLeft := c.beatsLeft - 1 } }

/-- Voltage of a threshold code (Table 12.4), and the LSB in volts. -/
def thrVolts (input t : Nat) : F32 := if input < 24 then frat (((t : Int) - 512) * 25) 10240 else frat (t * 125 : Nat) 102400
/-- See `thrVolts`. -/
def thrLsb (input : Nat) : F32 := if input < 24 then frat 25 10240 else frat 125 102400

/-- A check ends with the 16 averaged codes (R278). -/
def Dev.readbackDone (d : Dev) (w : Nat) (codes : List Int) : Dev :=
  match (d.win w).check with
  | none => d
  | some c =>
    if !c.taken then d
    else
      let vs := codes.map (d.adcVolts c.chan)
      let v := fdiv (vs.foldl fadd f0) (fint (vs.length : Nat))
      let input := d.get Par.winInput w
      let thr := if c.which = 1 then d.get Par.winHiThr w else d.get Par.winLoThr w
      let err := fdiv (fsub v (thrVolts input thr)) (thrLsb input)
      let fail := !(fle (fabs err) (fint 4))
      let d := (d.setWin w { d.win w with check := none }).setAdc c.chan { d.adc c.chan with held := false }
      let d := ((d.put Par.winReadback w 0).putF Par.winReadbackV w v).putF Par.winReadbackErr w err
      let d := d.put Par.winThrFail w (b2n fail)
      if fail then d.raise evWinThreshFail (oid 0x42 w) else d

/-- check_period expires (R279): the high and then the low converter, alternately. -/
def Dev.checkPeriod (d : Dev) (w : Nat) : Dev :=
  if d.get Par.winCheckPeriod w = 0 ∨ !d.up ∨ d.judgeReadback w ≠ stOk then d
  else
    let hi := !(d.win w).autoHi
    let d := d.setWin w { d.win w with autoHi := hi }
    d.readbackStart w (if hi then 1 else 2)

end Sys2Proof.Machine
end

