-- ==== Sys2Proof/Machine/Rim.lean ====
section
/-! DEFINITION. The Rim (ch. 15): configuration record, inputs and their tests, dynamic outputs, latches and the reset press.
Both channel logics are one evaluation; a disagreement between them is the command CHANNEL_COMPARISON. -/

namespace Sys2Proof.Machine

/-- Events of the group. -/
abbrev evRimLockout : Nat := 160
/-- See `evRimLockout`. -/
abbrev evRimFault : Nat := 161
/-- See `evRimLockout`. -/
abbrev evRimResetFault : Nat := 162
/-- See `evRimLockout`. -/
abbrev evRimResetStuck : Nat := 163
/-- See `evRimLockout`. -/
abbrev evRimResetRefused : Nat := 164
/-- See `evRimLockout`. -/
abbrev evRimCfgStaged : Nat := 165

/-- Latch causes (Table 15.2). -/
abbrev rcStart : Nat := 1
/-- See `rcStart`. -/
abbrev rcDemand : Nat := 2
/-- See `rcStart`. -/
abbrev rcInputFault : Nat := 3
/-- See `rcStart`. -/
abbrev rcOutputFault : Nat := 4
/-- See `rcStart`. -/
abbrev rcNonSafety : Nat := 5
/-- See `rcStart`. -/
abbrev rcConfigChange : Nat := 6
/-- See `rcStart`. -/
abbrev rcSupply : Nat := 7
/-- See `rcStart`. -/
abbrev rcInternal : Nat := 8
/-- See `rcStart`. -/
abbrev rcConfig : Nat := 9

/-! ## Configuration record (Table 15.5) -/

/-- Type of input `k` in a record (Table 15.1): 0 unused, 1 EQUIV, 2 ANTIVAL, 3 EDM. -/
def recType (r : List Byte) (k : Nat) : Nat := byteAt r (0x08 + 8 * k)
/-- Test-pulse pin of a channel: 0–3, 7 none. -/
def recPin (r : List Byte) (k ch : Nat) : Nat := field (byteAt r (0x09 + 8 * k)) (4 * ch) 3
/-- in_filter in units of 0.1 ms. -/
def recFilter (r : List Byte) (k : Nat) : Nat := byteAt r (0x0A + 8 * k)
/-- discrepancy_ms. -/
def recDisc (r : List Byte) (k : Nat) : Nat := leAt r (0x0C + 8 * k) 2
/-- out_mask of an input. -/
def recMask (r : List Byte) (k : Nat) : Nat := byteAt r (0x0E + 8 * k) % 16
/-- Output `j` is used. -/
def recUsed (r : List Byte) (j : Nat) : Bool := byteAt r (0x48 + 4 * j) == 1
/-- EDM input of an output; 255 none. -/
def recEdm (r : List Byte) (j : Nat) : Nat := byteAt r (0x49 + 4 * j)
/-- edm_ms. -/
def recEdmMs (r : List Byte) (j : Nat) : Nat := byteAt r (0x4A + 4 * j)
/-- tp_period in ms. -/
def recTp (r : List Byte) : Nat := leAt r 0x58 2
/-- ns_mask. -/
def recNs (r : List Byte) : Nat := byteAt r 0x5A % 16
/-- Signing key slot; 255 unsigned. -/
def recKey (r : List Byte) : Nat := byteAt r 0x5B
/-- Record serial. -/
def recSerial (r : List Byte) : Nat := leAt r 0x5C 4
/-- strap_id of a record. -/
def recStrap (r : List Byte) : Nat := byteAt r 6 % 16

/-- The fields of an input are in range (R344); those of an unused input are not judged (log entry 34). -/
def recInputOk (r : List Byte) (k : Nat) : Bool :=
  let t := recType r k
  let pa := recPin r k 0
  let pb := recPin r k 1
  t == 0 || (decide (t ≤ 3) && (decide (pa ≤ 3) || pa == 7) && (decide (pb ≤ 3) || pb == 7) && (pa != pb || pa == 7)
    && decide (1 ≤ recFilter r k ∧ recFilter r k ≤ 10) && decide (10 ≤ recDisc r k ∧ recDisc r k ≤ 1000) && (t != 3 || recMask r k == 0))

/-- The fields of an output are in range (R344). -/
def recOutputOk (r : List Byte) (j : Nat) : Bool :=
  let u := byteAt r (0x48 + 4 * j)
  let e := recEdm r j
  u == 0 || (u == 1 && (e == 255 || (decide (e < 8) && recType r e == 3 && decide (10 ≤ recEdmMs r j ∧ recEdmMs r j ≤ 250))))

/-- Judge a configuration record (R344): RANGE for its fields, its magic, version or CRC-32; AUTH for its signature. -/
def Dev.judgeRecord (d : Dev) (r : List Byte) : Nat :=
  if r.length ≠ 256 ∨ leAt r 0 4 ≠ 0x52494D43 ∨ leAt r 4 2 ≠ 1 ∨ leAt r 0xFC 4 ≠ crc32 (slice r 0 0xFC) then stRange
  else if !((List.range 8).all (recInputOk r)) || !((List.range 4).all (recOutputOk r)) then stRange
  else if recTp r < 100 ∨ 5000 < recTp r ∨ (3 < recKey r ∧ recKey r ≠ 255) then stRange
  else if recKey r = 255 then (if d.anchored then stAuth else stOk)
  else if d.ownerSigned (recKey r) (sha384 (slice r 0 0x90)) (slice r 0x90 96) then stOk
  else stAuth

/-- Stage an accepted record (R344). -/
def Dev.rimStage (d : Dev) (r : List Byte) : Dev :=
  ({ d with rim := { d.rim with staged := r } }.put Par.rimCfgStaged 0 (recSerial r)).raise evRimCfgStaged (oid 0x70 0)

/-! ## Evaluation -/

/-- The active record holds a valid type for input `k`. -/
def Dev.rimType (d : Dev) (k : Nat) : Nat := if d.rim.active = [] then 0 else recType d.rim.active k

/-- Level by which a channel is evaluated (R325, R328): held while under test, else filtered. A channel under test read high when its
window opened. -/
def Dev.rimLevel (d : Dev) (c : Nat) : Bool := bit d.rim.under c || bit (d.get Par.rimInLevel 0) c

/-- A channel shows demand (Table 15.1, R325); for EDM, its level alone. -/
def Dev.chDemand (d : Dev) (k ch : Nat) : Bool :=
  let c := 2 * k + ch
  bit (d.get Par.rimInUndet 0) c || (if d.rimType k == 2 && ch == 1 then d.rimLevel c else !(d.rimLevel c))

/-- Input `k` is in demand (R326, R335). -/
def Dev.inDemand (d : Dev) (k : Nat) : Bool :=
  let t := d.rimType k
  (t == 1 || t == 2) && (d.chDemand k 0 || d.chDemand k 1)

/-- The channels of an input agree (R326, R335). -/
def Dev.chAgree (d : Dev) (k : Nat) : Bool := d.chDemand k 0 == d.chDemand k 1

/-- Output `j` is used. -/
def Dev.outUsed (d : Dev) (j : Nat) : Bool := d.rim.active != [] && recUsed d.rim.active j

/-- Causes on output `j`. -/
def Dev.outCauses (d : Dev) (j : Nat) : Nat := d.rim.causes.get (fun _ => 0) j

/-- Causes that apply to all outputs (Table 15.2). -/
def rimAll : Nat := 2 ^ (rcSupply - 1) + 2 ^ (rcInternal - 1) + 2 ^ (rcConfig - 1)

/-- Output `j` is LATCHED for the lock-out of R323: used, or held by a cause that latches every output (R345, log entry 34). -/
def Dev.outLatched (d : Dev) (j : Nat) : Bool :=
  let m := d.outCauses j
  m != 0 && (d.outUsed j || decide ((List.range 9).any (fun c => bit m c && bit rimAll c)))

/-- Output `j` is ENERGISED (R323). -/
def Dev.outOn (d : Dev) (j : Nat) : Bool := bit (d.get Par.rimOutEnergised 0) j

/-- A non-safety demand exists (R337). -/
def Dev.nsDemand (d : Dev) : Bool := (List.range 64).any (fun w => d.isOn Par.winRouteRim w && d.isOn Par.winTripped w)

/-- Outputs that are LATCHED, as a mask. -/
def Dev.latchedMask (d : Dev) : Nat := ((List.range 4).map (fun j => b2n (d.outLatched j) * 2 ^ j)).sum

/-- Latch an output that becomes energised or stops, and the state of R323: edm windows open, off-tests end, RIM_LOCKOUT. -/
def Dev.rimRefresh (d : Dev) (cause : Nat) : Dev :=
  let d := d.forN 4 (fun d j =>
    let on := d.outUsed j && d.outCauses j == 0
    if on = d.outOn j then d
    else
      let r := d.rim
      let d := { d with rim := { r with edmOpen := setBit r.edmOpen j true } }
      d.putBit Par.rimOutEnergised 0 j on)
  let d := d.put Par.rimOutCauses 0 (((List.range 4).map (fun j => d.outCauses j % 256 * 256 ^ j)).sum)
  let lock := (List.range 4).any d.outLatched
  if lock && d.get Par.rimState 0 == 0 then
    let d := ((d.put Par.rimState 0 1).put Par.rimCause 0 cause).put Par.rimLockoutTime 0 d.now
    (d.inc 32 Par.rimLockouts 0).raise evRimLockout (oid 0x70 0) (cause + d.latchedMask * 256)
  else if !lock then (d.put Par.rimState 0 0).put Par.rimCause 0 0
  else d

/-- Latch the outputs of a mask with a cause (R336): causes that apply to all outputs reach every output, the others the used ones.
A new latch of a cause other than START, DEMAND and NON_SAFETY raises RIM_FAULT. -/
def Dev.rimLatch (d : Dev) (mask cause : Nat) : Dev :=
  let hit := (List.range 4).filter (fun j => bit mask j && (d.outUsed j || bit rimAll (cause - 1)) && !(bit (d.outCauses j) (cause - 1)))
  if hit = [] then d
  else
    let d := d.forL hit (fun d j =>
      { d with rim := { d.rim with causes := d.rim.causes.set (fun _ => 0) j (setBit (d.outCauses j) (cause - 1) true) } })
    let d := if cause = rcStart ∨ cause = rcDemand ∨ cause = rcNonSafety then d
      else d.raise evRimFault (oid 0x70 0) (cause + ((hit.map (fun j => 2 ^ j)).sum) * 256)
    d.rimRefresh cause

/-- The evaluation of every input and of the non-safety demand (R322, R326, R337): demands are counted as they begin and latch, faults
latch, a DISCREPANCY ends when the channels agree and the one that failed has changed. -/
def Dev.rimEval (d : Dev) : Dev :=
  if !d.rim.running then d
  else
    let d := d.forN 8 (fun d k =>
      let dem := d.inDemand k
      let was := bit (d.get Par.rimInDemand 0) k
      let d := d.putBit Par.rimInDemand 0 k dem
      let d := if dem && !was then d.inc 32 Par.rimDemands 0 else d
      let lag := bit d.rim.lag (2 * k) || bit d.rim.lag (2 * k + 1)
      let d := if bit (d.get Par.rimInFault 0) k && d.chAgree k && !lag then d.putBit Par.rimInFault 0 k false else d
      let mask := if d.rim.active = [] then 0 else recMask d.rim.active k
      let d := if dem then d.rimLatch mask rcDemand else d
      let f := d.get Par.rimInFault 0
      if (d.rimType k == 1 || d.rimType k == 2) && (bit f k || bit f (8 + k)) then d.rimLatch mask rcInputFault else d)
    if d.nsDemand && d.rim.active != [] then d.rimLatch (recNs d.rim.active) rcNonSafety else d

/-- An OUTPUT_FAULT on output `j` (R332, R334). -/
def Dev.outputFault (d : Dev) (j : Nat) : Dev :=
  let d := if bit (d.outCauses j) (rcOutputFault - 1) then d
    else { d with rim := { d.rim with ofOk := setBit d.rim.ofOk j (bit d.rim.offOk j) } }
  let d := d.putBit Par.rimOutFault 0 j true
  d.rimLatch (2 ^ j) rcOutputFault

/-! ## Start and stop -/

/-- Reading of a pin (R325): high above 2.0 V, low below 1.2 V, else none. -/
def pinRead (mv : Nat) : Option Bool := if 2000 < mv then some true else if mv < 1200 then some false else none

/-- Take the pin voltages at a start of the Rim: a pin inside the band is UNDETERMINED until it leaves it. -/
def Dev.rimPins (d : Dev) : Dev :=
  let r := d.rim
  let rd := fun c => pinRead (r.mv.get (fun _ => 0) c)
  let raw := ((List.range 16).map (fun c => b2n (rd c == some true) * 2 ^ c)).sum
  let known := ((List.range 16).map (fun c => b2n (rd c).isSome * 2 ^ c)).sum
  { d with rim := { r with raw := raw, known := known } }

/-- Start of the Rim (R324, R344, R345): straps read, used outputs latched with START, inputs UNDETERMINED, and every output latched
with CONFIG without a valid record that matches the straps. -/
def Dev.rimStart (d : Dev) : Dev :=
  let r := d.rim
  let d := { d with rim := { active := r.active, staged := r.staged, mv := r.mv, running := true }, pins := { d.pins with rimTp := 15 } }
  let d := d.rimPins
  let d := d.put Par.rimStrapId 0 d.pwr.rimStraps
  let d := (((d.put Par.rimInLevel 0 0).put Par.rimInUndet 0 0xFFFF).put Par.rimInFault 0 0).put Par.rimOutFault 0 0
  let d := ((d.put Par.rimOutEnergised 0 0).put Par.rimState 0 1).put Par.rimCause 0 rcStart
  let d := (d.put Par.rimCfgSerial 0 (if r.active = [] then 0 else recSerial r.active)).put Par.rimCfgStaged 0 (if r.staged = [] then 0 else recSerial r.staged)
  let d := { d with rim := { d.rim with edmOpen := 15 } }
  let d := d.put Par.rimInDemand 0 (((List.range 8).map (fun k => b2n (d.inDemand k) * 2 ^ k)).sum)
  let d := d.rimLatch 15 rcStart
  let d := if r.active = [] ∨ recStrap r.active ≠ d.pwr.rimStraps then d.rimLatch 15 rcConfig else d
  (d.rimRefresh rcStart).rimEval

/-! ## Inputs -/

/-- The voltage at a RIM_IN pin changes (R325, R328). In a test window a channel under test is seen low, and a channel not under
test that falls and rises again is a cross-short, a failed test of its input. -/
def Dev.rimInput (d : Dev) (c mv : Nat) : Dev :=
  let d := { d with rim := { d.rim with mv := d.rim.mv.set (fun _ => 0) c mv } }
  if !d.rim.running then d
  else match pinRead mv with
  | none => d
  | some lv =>
    let r := d.rim
    let was := bit r.raw c
    let r := { r with raw := setBit r.raw c lv, known := setBit r.known c true }
    let d := { d with rim := r }
    let k := c / 2
    let d := if r.window.isNone ∨ d.rimType k = 0 then d
      else if bit r.under c then { d with rim := { r with sawLow := setBit r.sawLow c (bit r.sawLow c || !lv) } }
      else if was && !lv then { d with rim := { r with fell := setBit r.fell c true } }
      else if lv && bit r.fell c && !(bit r.failed k) then
        let d := { d with rim := { r with failed := setBit r.failed k true, fell := setBit r.fell c false } }
        ((d.putBit Par.rimInFault 0 (8 + k) true).inc 32 Par.rimTestsFailed 0).rimEval
      else d
    -- R329: both channels high again.
    if bit d.rim.raw (2 * k) && bit d.rim.raw (2 * k + 1) then { d with rim := { d.rim with skip := setBit d.rim.skip k false } } else d

/-- EDM feedback that changes out of turn is an OUTPUT_FAULT on the outputs it serves (R334). -/
def Dev.edmChange (d : Dev) (k : Nat) : Dev :=
  d.forN 4 (fun d j => if d.outUsed j && recEdm d.rim.active j == k && !(bit d.rim.edmOpen j) then d.outputFault j else d)

/-- A pin level has held for in_filter (R325): it is the channel's filtered level, unless the channel is under test (R328). -/
def Dev.rimFiltered (d : Dev) (c : Nat) : Dev :=
  let r := d.rim
  let k := c / 2
  if !r.running ∨ !(bit r.known c) ∨ bit r.under c ∨ d.rimType k = 0 then d
  else
    let lv := bit r.raw c
    let undet := bit (d.get Par.rimInUndet 0) c
    let change := !undet && bit (d.get Par.rimInLevel 0) c != lv
    let d := (d.putBit Par.rimInLevel 0 c lv).putBit Par.rimInUndet 0 c false
    let d := { d with rim := { d.rim with lag := setBit d.rim.lag c (bit d.rim.lag c && !change), mover := setBit d.rim.mover k (if change || undet then c % 2 == 1 else bit d.rim.mover k) } }
    let d := if change && d.rimType k == 3 then d.edmChange k else d
    d.rimEval

/-- discrepancy_ms has passed (R326): channels that disagree give a DISCREPANCY fault; the channel that did not follow the latest
demand or release, the one that did not move last, is the one the fault waits for (log entry 34). -/
def Dev.discrepancy (d : Dev) (k : Nat) : Dev :=
  if !d.rim.running ∨ d.rimType k = 0 ∨ d.chAgree k then d
  else
    let ch := if bit d.rim.mover k then 0 else 1
    let d := if bit (d.get Par.rimInFault 0) k then d else { d with rim := { d.rim with lag := setBit d.rim.lag (2 * k + ch) true } }
    (d.putBit Par.rimInFault 0 k true).rimEval

/-! ## Test pulses (R327 to R329) -/

/-- RIM_TPm is pulled low and a test window opens. -/
def Dev.testStart (d : Dev) (m : Nat) : Dev :=
  let r := d.rim
  if !r.running ∨ r.active = [] ∨ r.window.isSome then d
  else
    let ut := (List.range 16).filter (fun c => recType r.active (c / 2) != 0 && recPin r.active (c / 2) (c % 2) == m && bit r.raw c
      && bit (d.get Par.rimInLevel 0) c && !(bit r.skip (c / 2)))
    { d with rim := { r with window := some m, under := (ut.map (fun c => 2 ^ c)).sum, sawLow := 0, fell := 0, failed := 0 },
             pins := { d.pins with rimTp := d.pins.rimTp &&& ~~~(BitVec.ofNat 4 (2 ^ m)) } }

/-- The 400 µs pulse ends. -/
def Dev.testEnd (d : Dev) (m : Nat) : Dev :=
  if !d.rim.running then d else { d with pins := { d.pins with rimTp := d.pins.rimTp ||| BitVec.ofNat 4 (2 ^ m) } }

/-- 300 µs after pulse start: a channel under test that has not read low fails. -/
def Dev.testDeadline (d : Dev) : Dev :=
  if d.rim.window.isNone then d
  else
    let d := d.forL (bitsOf d.rim.under 16) (fun d c =>
      if bit d.rim.sawLow c || bit d.rim.failed (c / 2) then d
      else
        let d := { d with rim := { d.rim with failed := setBit d.rim.failed (c / 2) true } }
        (d.putBit Par.rimInFault 0 (8 + c / 2) true).inc 32 Par.rimTestsFailed 0)
    d.rimEval

/-- The window closes: a channel still low is evaluated live and its result discarded; a channel that read low and is high again passes,
which clears the TEST fault of its input. -/
def Dev.testClose (d : Dev) : Dev :=
  let r := d.rim
  if r.window.isNone then d
  else
    let d := d.forL (bitsOf r.under 16) (fun d c =>
      let k := c / 2
      if !(bit r.raw c) then
        ({ d with rim := { d.rim with skip := setBit d.rim.skip k true } }.inc 32 Par.rimTestsDiscarded 0)
      else if bit r.failed k || !(bit r.sawLow c) then d
      else (d.inc 32 Par.rimTestsPassed 0).putBit Par.rimInFault 0 (8 + k) false)
    { d with rim := { d.rim with window := none, under := 0, sawLow := 0, fell := 0, failed := 0 } }.rimEval

/-! ## Outputs (R330 to R334) -/

/-- The once-a-second off-test of an output channel begins. -/
def Dev.offTest (d : Dev) (j ch : Nat) : Dev :=
  if d.rim.running ∧ d.outOn j then { d with rim := { d.rim with offRun := setBit d.rim.offRun (2 * j + ch) true } } else d

/-- An off-test ends: it passes, clearing an OUTPUT_FAULT, or after a latch its result is discarded (R332, R333). -/
def Dev.offTestEnd (d : Dev) (j ch : Nat) : Dev :=
  if !(bit d.rim.offRun (2 * j + ch)) then d
  else
    let d := { d with rim := { d.rim with offRun := setBit d.rim.offRun (2 * j + ch) false } }
    if d.outOn j then
      let d := { d with rim := { d.rim with offOk := setBit d.rim.offOk j true } }
      (d.inc 32 Par.rimOffTests 0).putBit Par.rimOutFault 0 j false
    else d.inc 32 Par.rimTestsDiscarded 0

/-- A pad readback disagrees with its drive (R332); in an off-test the off-test has failed. -/
def Dev.readbackMismatch (d : Dev) (j ch : Nat) : Dev :=
  if !d.rim.running then d
  else
    let inTest := bit d.rim.offRun (2 * j + ch)
    let d := if inTest then { d with rim := { d.rim with offRun := setBit d.rim.offRun (2 * j + ch) false, offOk := setBit d.rim.offOk j false } } else d
    d.outputFault j

/-- Both feedback channels of output `j` read `lv`. -/
def Dev.edmReads (d : Dev) (j : Nat) (lv : Bool) : Bool :=
  let k := recEdm d.rim.active j
  let ok := fun c => !(bit (d.get Par.rimInUndet 0) c) && d.rimLevel c == lv
  ok (2 * k) && ok (2 * k + 1)

/-- edm_ms has passed since output `j` changed (R334): low when ENERGISED, high when LATCHED, else an OUTPUT_FAULT. -/
def Dev.edmTimeout (d : Dev) (j : Nat) : Dev :=
  if !d.rim.running ∨ !(d.outUsed j) ∨ recEdm d.rim.active j = 255 then d
  else
    let d := { d with rim := { d.rim with edmOpen := setBit d.rim.edmOpen j false } }
    if d.edmReads j (!(d.outOn j)) then d else d.outputFault j

/-- The comparison of the two channel logics every 100 µs (R322). -/
def Dev.channelCompare (d : Dev) (agree : Bool) : Dev :=
  if !d.rim.running then d else if agree then d.rimEval else d.rimLatch 15 rcInternal

/-- A rail of the Rim has been out of range for 20 µs (R338). -/
def Dev.rimSupply (d : Dev) : Dev := if d.rim.running then d.rimLatch 15 rcSupply else d

/-! ## The reset press (R339, R340) -/

/-- The first reset channel reads pressed; both had read released for 1 s or not. -/
def Dev.rstPress (d : Dev) (released1s : Bool) : Dev :=
  if d.rim.running ∧ d.rim.press.isNone then { d with rim := { d.rim with press := some (d.now, released1s), stuck := false } } else d

/-- A press is still held at 8 s: RIM_RESET_STUCK once. -/
def Dev.rstStuck (d : Dev) : Dev :=
  if d.rim.press.isSome ∧ !d.rim.stuck then
    { d with rim := { d.rim with stuck := true } }.raise evRimResetStuck (oid 0x70 0)
  else d

/-- A cause on output `j` meets its condition of Table 15.2. `railsOk`: the rails have been in range for 10 ms. -/
def Dev.causeClears (d : Dev) (railsOk : Bool) (j c : Nat) : Bool :=
  let named := fun k => d.rimType k != 0 && bit (recMask d.rim.active k) j
  if c = rcStart ∨ c = rcConfigChange then true
  else if c = rcDemand then (List.range 8).all (fun k => !(named k) || !(d.inDemand k))
  else if c = rcInputFault then
    let f := d.get Par.rimInFault 0
    (List.range 8).all (fun k => !(named k) || !(bit f k || bit f (8 + k)))
  else if c = rcOutputFault then bit d.rim.ofOk j || !(bit (d.get Par.rimOutFault 0) j)
  else if c = rcNonSafety then !d.nsDemand
  else if c = rcSupply then railsOk
  else false

/-- Activation of the staged record (R340 case 1, R345). -/
def Dev.rimActivate (d : Dev) : Dev :=
  let r := d.rim.staged
  let d := { d with rim := { d.rim with active := r, staged := [], window := none, under := 0, skip := 0, lag := 0, edmOpen := 15 } }
  let d := (d.put Par.rimCfgSerial 0 (recSerial r)).put Par.rimCfgStaged 0 0
  let d := (d.put Par.rimInUndet 0 0xFFFF).put Par.rimInLevel 0 0
  let d := d.rimPins
  let d := d.tallyExtend 3 (sha384 r)
  let d := d.forN 8 (fun d k => if recType r k = 0 then (d.putBit Par.rimInFault 0 k false).putBit Par.rimInFault 0 (8 + k) false else d)
  let d := d.put Par.rimInDemand 0 (((List.range 8).map (fun k => b2n (d.inDemand k) * 2 ^ k)).sum)
  let d := d.rimLatch 15 rcConfigChange
  let d := if recStrap r = d.pwr.rimStraps then
      let d := d.forN 4 (fun d j =>
        { d with rim := { d.rim with causes := d.rim.causes.set (fun _ => 0) j (setBit (d.outCauses j) (rcConfig - 1) false) } })
      d.rimRefresh rcConfigChange
    else d.rimLatch 15 rcConfig
  d.rimEval

/-- A valid press is released (R340). -/
def Dev.rimAct (d : Dev) (railsOk : Bool) : Dev :=
  let d := d.rimEval
  if d.rim.staged ≠ [] then d.rimActivate
  else if d.get Par.rimState 0 = 0 then d
  else
    let ok := (List.range 4).all (fun j => !(d.outLatched j) || (List.range 10).all (fun c => c == 0 || !(bit (d.outCauses j) (c - 1)) || d.causeClears railsOk j c))
    let edm := (List.range 4).all (fun j => !(d.outUsed j) || recEdm d.rim.active j == 255 || d.outCauses j == 0
      || (let k := recEdm d.rim.active j
          let lv := d.get Par.rimInLevel 0
          bit lv (2 * k) && bit lv (2 * k + 1)))
    if ok && edm then
      let d := { d with rim := { d.rim with causes := [] } }
      (d.inc 32 Par.rimResetsAccepted 0).rimRefresh 0
    else d.raise evRimResetRefused (oid 0x70 0)

/-- A press ends (R339): the gaps in milliseconds by which the second channel followed at the press and at the release, where it did. -/
def Dev.rstRelease (d : Dev) (pressGap releaseGap : Option Nat) (railsOk : Bool) : Dev :=
  match d.rim.press with
  | none => d
  | some (start, hist) =>
    let dur := d.now - start
    let d := { d with rim := { d.rim with press := none, stuck := false } }
    let near := fun (g : Option Nat) => match g with
      | some n => decide (n ≤ 50)
      | none => false
    if !(near pressGap && near releaseGap) then (d.inc 32 Par.rimResetFaults 0).raise evRimResetFault (oid 0x70 0)
    else if hist ∧ 100 * fineMs ≤ dur ∧ dur ≤ 3000 * fineMs then (d.inc 32 Par.rimResetPresses 0).rimAct railsOk
    else d

end Sys2Proof.Machine
end

