-- ==== Sys2Proof/Machine/Windows.lean ====
section
/-! DEFINITION. Window monitors and what a trip acts on (R272 to R277): legs, arms, the Rim, triggers, termination. -/

namespace Sys2Proof.Machine

/-- Comparator states (Table 12.10). -/
abbrev wcInactive : Nat := 0
/-- See `wcInactive`. -/
abbrev wcActive : Nat := 1
/-- See `wcInactive`. -/
abbrev wcUndet : Nat := 2

/-- State parameter of a comparator: 0 high, 1 low. -/
def winComp (comp : Nat) : Par := if comp = 0 then Par.winStateHi else Par.winStateLo

/-- Speed mode of a window in the present power mode (R276): OFF while the device does not run. -/
def Dev.winMode (d : Dev) (w : Nat) : Nat :=
  if !d.up then 0
  else if d.pmode == pmParked || d.pmode == pmWaking then d.get Par.winModeParked w
  else d.get Par.winModeRun w

/-- The window is tripped (R274). -/
def Dev.winIsTripped (d : Dev) (w : Nat) : Bool :=
  let en := d.get Par.winCompEn w
  d.winMode w != 0 && ((bit en 0 && d.get Par.winStateHi w != wcInactive) || (bit en 1 && d.get Par.winStateLo w != wcInactive))

/-- A tripped window acts on its routes as a state (R274): legs in RUN or HOLD trip, the Rim has a non-safety demand. -/
def Dev.winRoutes (d : Dev) (w : Nat) : Dev :=
  if !(d.isOn Par.winTripped w) then d
  else
    let d := d.tripLegs (bitsOf (d.get Par.winRouteLeg w) 40) 1
    if d.isOn Par.winRouteRim w then d.rimEval else d

/-- Form the tripped state anew. A change from not tripped to tripped is a trip (R275), unless it is the state a start begins with
(`counts` false): flag, count, time, WIN_TRIP and arm blocks. -/
def Dev.winRecalc (d : Dev) (w : Nat) (counts : Bool := true) : Dev :=
  let now := d.winIsTripped w
  let was := d.isOn Par.winTripped w
  let d := d.put Par.winTripped w (b2n now)
  let d :=
    if now && !was && counts then
      let d := ((d.put Par.winFlag w 1).inc 32 Par.winTripCount w).put Par.winTripTime w d.now
      let d := d.raise evWinTrip (oid 0x42 w)
      d.forL (bitsOf (d.get Par.winRouteArm w) 24) (fun d j => d.armBlock j afWindow 0xFFFFFFFF)
    else d
  d.winRoutes w

/-- Legs whose variable interval a comparator of window `w` ends (R250): COT by the low, CFT by the high comparator. -/
def Dev.winTerminates (d : Dev) (w comp : Nat) : Dev :=
  d.forL allLegs (fun d n =>
    let car := d.legSet Par.legCarrier n
    if d.get Par.legTermWin n = w ∧ ((car = cCot ∧ comp = 1) ∨ (car = cCft ∧ comp = 0)) then d.legTerminate n else d)

/-- A comparator becomes ACTIVE or INACTIVE (R273, R274). A comparator that is off does not change. -/
def Dev.winChange (d : Dev) (w comp : Nat) (active : Bool) : Dev :=
  let p := winComp comp
  let st := if active then wcActive else wcInactive
  if d.winMode w = 0 ∨ d.get p w = st then d
  else
    let d := (d.put p w st).winRecalc w
    if active then (d.windowTrig w comp).winTerminates w comp else d

/-- Both comparators become UNDETERMINED (R273). -/
def Dev.winUndet (d : Dev) (w : Nat) : Dev := (d.put Par.winStateHi w wcUndet).put Par.winStateLo w wcUndet

/-- The tripped states at a start (R275): not a trip. -/
def Dev.winStart (d : Dev) : Dev := d.forN 64 (fun d w => (d.winUndet w).winRecalc w false)

/-- Modes follow the power mode or a write (R273, R276): a comparator that enters a speed mode from OFF, `was`, is UNDETERMINED. -/
def Dev.winModes (d : Dev) (was : Nat → Nat) : Dev :=
  d.forN 64 (fun d w =>
    let d := if was w = 0 ∧ d.winMode w ≠ 0 then d.winUndet w else d
    if was w = d.winMode w then d else d.winRecalc w)

end Sys2Proof.Machine
end

