-- ==== Sys2Proof/Machine/Writes.lean ====
section
/-! DEFINITION. Parameter writes: the checks every write passes (R8, R9, R21, R25, R33, R54), the rules of single parameters, and what an
accepted write does at the boundary after its beat (R55). -/

namespace Sys2Proof.Machine

/-! ## Values and ranges -/

/-- The value lies in the range of its row (R9, R379). An f32 whose upper four bytes are not zero is no value of its type. -/
def domOk (dm : Dom) (v : W64) : Bool :=
  let f : F32 := v.setWidth 32
  match dm with
  | .nat rs => rs.any (fun r => decide (r.1 ≤ v.toNat ∧ v.toNat ≤ r.2))
  | .int lo hi => decide (lo ≤ v.toInt ∧ v.toInt ≤ hi)
  | .f32 lo hi => decide (v.toNat < 2 ^ 32) && fle (BitVec.ofNat 32 lo) f && fle f (BitVec.ofNat 32 hi)
  | .f32fin => decide (v.toNat < 2 ^ 32) && ffinite f
  | .f32any => decide (v.toNat < 2 ^ 32)
  | .bits _ => true

/-- The value as it is stored: reserved bits of a bitset read zero (R11). -/
def domClean (dm : Dom) (v : W64) : W64 :=
  match dm with
  | .bits m => v &&& BitVec.ofNat 64 m
  | _ => v

/-! ## Powered, stopped, wired -/

/-- The block that serves an instance of a class is powered and its clock runs (R21, Table 1.1, R48). -/
def Dev.powered (d : Dev) (cls i : Nat) : Bool :=
  if cls = 0x10 then d.full && d.clkOk cdSpk
  else if cls = 0x11 ∨ cls = 0x12 ∨ cls = 0x30 ∨ cls = 0x31 ∨ cls = 0x40 ∨ cls = 0x41 then d.full && d.clkOk cdTb
  else if cls = 0x60 ∨ cls = 0x61 then d.capOn
  else if cls = 0x20 ∨ cls = 0x21 ∨ cls = 0x22 then d.full && d.clkOk cdLoop
  else if cls = 0x42 ∨ cls = 0x50 then d.up && d.clkOk cdTb
  else if cls = 0x80 ∨ cls = 0x81 ∨ (cls = 0x90 ∧ 3 ≤ i) then d.full && d.clkOk cdWeft
  else if cls = 0x90 then (if i = 1 then d.up else d.full) && d.clkOk cdNet
  else if cls = 0xB1 then d.up && d.islandOn
  else d.up

/-- Every cell of a ring is blocked. -/
def Dev.ringBlocked (d : Dev) (a : Nat) : Bool :=
  (List.range (d.ringCells a)).all (fun p => !(d.isOn Par.cellPresent (8 * a + p)) || d.cellBlocked (8 * a + p))

/-- The converter-mode kinds in which grid functions run (R204). -/
def Dev.gridKind (d : Dev) : Bool := d.kind == kStandby || d.kind == kFollow || d.kind == kForm || d.kind == kRide

/-- A ring is held by a session, or its capture stream runs (R390). -/
def Dev.ringHeld (d : Dev) (n : Nat) : Bool :=
  let s := d.ringSession n
  (decide (s < 16) && (d.sess s).isOpen) || (decide (32 ≤ n ∧ n < 64) && d.get Par.capState (n - 32) != csIdle)

/-- The object counts as stopped (each chapter's rule for its class). -/
def Dev.stopped (d : Dev) (cls i : Nat) : Bool :=
  if cls = 0x02 ∨ cls = 0x80 ∨ cls = 0xB0 then d.offOrParked
  else if cls = 0x10 then d.ringBlocked (d.ringOf i) && (d.offOrParked || d.kind == kPrecharge)
  else if cls = 0x11 then d.cellBlocked i
  else if cls = 0x12 then d.get Par.armState i == asStopped
  else if cls = 0x20 then d.get Par.ctxState i == xsStopped
  else if cls = 0x21 ∨ cls = 0x22 then !d.gridKind
  else if cls = 0x30 then (let s := d.get Par.portState i; s == psOff || s == psFault || s == psLocked)
  else if cls = 0x31 then (let s := d.get Par.legState i; s == lsOff || s == lsTripped)
  else if cls = 0x40 then !(d.isOn Par.adcEnable i)
  else if cls = 0x41 then !(d.isOn Par.sdiEnable i)
  else if cls = 0x42 then d.winMode i == 0
  else if cls = 0x50 then (if i < 4 then !(d.isOn Par.metrEnable i) else (List.range 4).all (fun e => !(d.isOn Par.metrEnable e)))
  else if cls = 0x60 then d.get Par.capState i == csIdle
  else if cls = 0x61 then d.get Par.trigState i == tsOff
  else if cls = 0x90 then d.get Par.linkState i == 0
  else if cls = 0x91 then !(d.ringHeld i)
  else false

/-- A set-point input with a writer other than the host (R25, R182, R223, R225, R245). -/
def Dev.wired (d : Dev) (p : Par) (i : Nat) : Bool :=
  (setPoints.contains p && !(d.ctxWriters false p i).isEmpty)
  || (p.cls == 0x20 && p.idx == Par.ctxRef0.idx &&
      ((List.range 4).any (fun g => d.isOn Par.gridEnable g && (d.get Par.gridCtxCur g == i || d.get Par.gridCtxChop g == i))
        || d.portsUsed.any (fun q => d.get Par.portCtx q == i)))
  || (p.cls == 0x20 && p.idx == Par.ctxRef0.idx + 1 &&
      ((List.range 4).any (fun g => d.isOn Par.gridEnable g && d.get Par.gridCtxCur g == i)
        || d.portsUsed.any (fun q => d.get Par.portCtx q == i)))
  || ((p == Par.legDuty || p == Par.legTCtrl || p == Par.legShift) && (d.legRole i == 2 || d.legRole i == 3))

/-- A row that its chapter says does not apply to the instance (R54): METR rows E and T, LINK rows of the weft ports. -/
def notApplying (p : Par) (i : Nat) : Bool :=
  (p.cls == 0x50 && ((i == 4 && (decide (p.idx ≤ 20))) || (decide (i < 4) && (p.idx == 21 || p.idx == 22 || decide (39 ≤ p.idx)))))
  || (p.cls == 0x90 && decide (3 ≤ i) && decide (2 ≤ p.idx))

/-- The checks that every write entry passes: object and row, reserved event, row that does not apply, block without power, cell not found, access,
range, writer, stopped; NOT_OWNER comes before all of them, at registration. R8 puts the refusals of a whole object by its chapter (reserved event,
row that does not apply, no power, cell not found) before the access code. The rest of the order, which decides the status where several refusals
apply, is the model's choice (DESIGN CHOICE, log entry 54). -/
def Dev.judgeStatic (d : Dev) (obj idx : Nat) (v : W64) : Nat :=
  let p : Par := ⟨obj / 16777216, idx⟩
  let i := obj % 16777216
  if instances p.cls ≤ i then stRange
  else match rowOf p with
    | none => stRange
    | some r =>
      if p.cls = 0xC0 ∧ !(evNamed i) then stRange
      else if notApplying p i then stRange
      else if !(d.powered p.cls i) then stBadState
      else if p.cls = 0x11 ∧ !(d.isOn Par.cellPresent i) then stBadState
      else if r.acc = .ro then stAuth
      else if !(domOk r.dom v) then stRange
      else if d.wired p i then stBadState
      else if r.acc = .rws ∧ !(d.stopped p.cls i) then stBadState
      else stOk

/-! ## Rules of single parameters. Each answers the status and the device after the write; none where the value is stored as it is. -/

/-- Refuse. -/
def no (d : Dev) (st : Nat) : Option (Nat × Dev) := some (st, d)
/-- Accept with an effect in place of storing. -/
def did (d : Dev) : Option (Nat × Dev) := some (stOk, d)

/-- The table set is not in EDIT (R59). -/
def Dev.notEdit (d : Dev) (k : Nat) : Bool := (d.tset k).state != 0

/-- DEV.0: commit and abort (R60, R62). Neither value is kept: both parameters read 0 after an accepted write (DESIGN CHOICE, log entry 58). -/
def Dev.wDev (d : Dev) (session tag ts : Nat) (p : Par) (v : Nat) : Option (Nat × Dev) :=
  let m := v % 8
  if p = Par.devTblCommit then
    if m = 0 then did d
    else if (setsOf m).any d.notEdit then no d stBusy
    else did (d.commitStart m session tag ts)
  else if p = Par.devTblAbort then some (d.tblAbort m)
  else none

/-- Fields of the shadow images and nan_count (R58, R59, R76, R180). -/
def Dev.wImage (d : Dev) (p : Par) (i v : Nat) : Option (Nat × Dev) :=
  if p = Par.curveNanCount then did (if bit v 0 then d.put p i 0 else d)
  else if !(isImgPar p) then none
  else if d.notEdit ((setOfClass p.cls).getD 0) then no d stBusy
  else if p.cls = 3 ∧ p ≠ Par.curveHeaderEntry ∧ d.curveDir true i = 0 then no d stBadState
  else if p = Par.ctxPhase ∧ d.cDiv true i ≤ v then no d stRange
  else did (d.imgParWrite p i v)

/-- The ring check of R38 for `n` cells, in tenths of a nanosecond. -/
def ringFits (bt pct n : Nat) : Bool :=
  decide ((32 + 32 * n) * 80 + n * 800 + 500 ≤ (bt - bt * pct / 100) * 25)

/-- SPOKE.n (R98, R104, R109, R111). -/
def Dev.wSpoke (d : Dev) (p : Par) (s v : Nat) : Option (Nat × Dev) :=
  if p = Par.spokeCells then
    let arms := (List.range 24).filter (fun j => bit (d.get Par.armSpokeSet j) s)
    let sum := fun j => ((bitsOf (d.get Par.armSpokeSet j) 64).map (fun q => if q = s then v else d.get Par.spokeCells q)).sum
    if !(ringFits d.beatTicks (d.get Par.beatWindowPct 0) v) then no d stAdmission
    else if arms.any (fun j => decide (sum j < 2) || decide (256 < sum j)) then no d stRange
    else did ((d.put p s v).ringReset s)
  else if p = Par.spokeRole ∨ p = Par.spokeFarSpoke then did ((d.put p s v).ringReset s)
  else if p = Par.spokeDiscover then
    if v = 0 then did d
    else if d.judgeDiscover s ≠ stOk then no d (d.judgeDiscover s)
    else did (if (d.spoke s).disc.isSome then d else d.discStart s)
  else if p = Par.spokeUnblock then
    if v = 0 then did d else if !d.cellsRun then no d stBadState else did (d.ringUnblock (d.ringOf s) Dev.cellBlocked)
  else none

/-- CELL.s.p (R106, R146, R149, R153). -/
def Dev.wCell (d : Dev) (p : Par) (c v : Nat) : Option (Nat × Dev) :=
  if p = Par.cellBypass then did (if v = 1 then d.selectBypass c else d)
  else if p = Par.cellClearLock then
    let w := v % 16
    if !(d.cellBlocked c) ∨ d.get Par.cellProtState c = 2 ∨ d.inRunArm c then no d stBadState
    else did (d.setCell c { d.cell c with clearLock := some w })
  else if p = Par.cellSerialRef then
    let d := d.put p c v
    did (if d.isOn Par.cellPresent c then d.identityCheck c else d)
  else if Par.cellBlankTime.idx ≤ p.idx then
    let k := p.idx - Par.cellBlankTime.idx
    let x := d.cell c
    did ((d.put p c v).setCell c { x with cfg := sortBy (fun a b => decide (a < b)) (k :: x.cfg.filter (· != k)) })
  else none

/-- An ADC, SDI or (with `ctx`) CTX object, or 0 (Tables 5.6, 9.2, 10.5). -/
def srcOk (ctx : Bool) (v : Nat) : Bool :=
  let c := v / 16777216
  v == 0 || ((c == 0x40 || c == 0x41 || (ctx && c == 0x20)) && decide (v % 16777216 < instances c))

/-- ARM.j (R111, R133, R151). -/
def Dev.wArm (d : Dev) (p : Par) (j v : Nat) : Option (Nat × Dev) :=
  if p = Par.armSpokeSet then
    let ss := bitsOf v 64
    let others := (List.range 24).filter (· != j)
    let n := (ss.map (d.get Par.spokeCells)).sum
    if ss.any (fun s => !(d.servesCells s) || others.any (fun k => bit (d.get Par.armSpokeSet k) s)) then no d stRange
    else if v ≠ 0 ∧ (n < 2 ∨ 256 < n) then no d stRange
    else did ((d.put p j v).countBypassed j)
  else if p = Par.armHoldFloor ∧ d.get Par.armRefreshThr j ≤ v then no d stRange
  else if p = Par.armRefreshThr ∧ v ≤ d.get Par.armHoldFloor j then no d stRange
  else if p = Par.armISrc ∧ !(srcOk true v) then no d stRange
  else if p = Par.armBlockClear then
    if v = 0 then did d
    else if d.cellsRun then no d stBadState
    else did (d.armBlockClear j)
  else none

/-- CTX.n/recover (R177). -/
def Dev.wCtx (d : Dev) (p : Par) (c v : Nat) : Option (Nat × Dev) :=
  if p = Par.ctxRecover then
    if v = 0 then did d
    else if d.get Par.ctxState c ≠ xsFallback then no d stBadState
    else did (d.setCtx c { d.ctx c with recover := true })
  else none

/-- GRID.g (R182, R185, R189, Table 8.9). -/
def Dev.wGrid (d : Dev) (p : Par) (g : Nat) (v : W64) : Option (Nat × Dev) :=
  let n := v.toNat
  let f : F32 := v.setWidth 32
  let pick := fun q => if p = q then n else d.get q g
  if p = Par.gridPRef ∨ p = Par.gridQRef ∨ p = Par.gridPhiRef then some (d.gridTarget p g f)
  else if p = Par.gridCtxSync ∨ p = Par.gridCtxCur ∨ p = Par.gridCtxDc ∨ p = Par.gridCtxChop ∨ p = Par.gridOrder then
    if d.gridOk false g (pick Par.gridCtxSync) (pick Par.gridCtxCur) (pick Par.gridCtxChop) (pick Par.gridOrder) then none
    else no d stRange
  else if p = Par.gridUvExit ∧ flt f (d.getF Par.gridUvEnter g) then no d stRange
  else if p = Par.gridOvExit ∧ flt (d.getF Par.gridOvEnter g) f then no d stRange
  else if p = Par.gridEnable ∧ n = 1 then did ((d.put p g 1).gridFreqInit g)
  else none

/-- The points of ISLD.g with one parameter replaced (R213). -/
def Dev.isldBounds (d : Dev) (p : Par) (g : Nat) (v : W64) : Bool :=
  let lag := if p = Par.isldLagWindow then v.toNat else d.get Par.isldLagWindow g
  let cb := if p = Par.isldChipBeats then v.toNat else d.get Par.isldChipBeats g
  (List.range 8).all (fun k =>
    let q := zFreqPar k
    let one := decide (Par.isldZFreq0.idx ≤ p.idx ∧ p.idx ≤ Par.isldZFreq7.idx)
    (one && p != q) || zFreqOk (if p = q then v.setWidth 32 else d.getF q g) lag (cb * d.beatTicks))

/-- ISLD.g (R10, R206, R213, R217, R218, R221): a decision made in the instant of the write, or after it, stays flagged. -/
def Dev.wIsld (d : Dev) (ts : Nat) (p : Par) (g : Nat) (v : W64) : Option (Nat × Dev) :=
  let n := v.toNat
  if p = Par.isldDecision then did (if bit n 0 ∧ (d.isl g).decAt < ts then d.put p g 0 else d)
  else if (p = Par.isldChipBeats ∨ p = Par.isldLagWindow ∨ (Par.isldZFreq0.idx ≤ p.idx ∧ p.idx ≤ Par.isldZFreq7.idx)) ∧ !(d.isldBounds p g v) then
    no d stRange
  else if p = Par.isldPolicy ∧ (List.range 8).any (fun r => bit n (8 * r + 6) || bit n (8 * r + 7)) then no d stRange
  else if Par.isldVSrc0.idx ≤ p.idx ∧ p.idx ≤ Par.isldISrc2.idx then
    if !(srcOk false n) then no d stRange
    else did (if d.get p g = n then d else (d.put p g n).isldReset g)
  else if p = Par.isldSvMask ∨ p = Par.isldSvConfirm then did ((d.put p g n).svEval g)
  else if p = Par.isldEnable ∨ p = Par.isldSiteId then
    let e := if d.get p g = n then d else (d.put p g n).isldReset g
    did ((e.put Par.isldCodeIndex g (e.codeIndex g)).clashEval)
  else none

/-- The legs match the topology (Table 10.1): one for BOOST1, two for BOOST2 and PSFB; a port that is not in use may name any. -/
def legsMatch (topo a b : Nat) : Bool :=
  topo == 0 || (topo == 1 && decide (a < 40) && b == 255) || (decide (2 ≤ topo) && decide (a < 40) && decide (b < 40) && a != b)

/-- PORT.n (R222, R225, R227, R234 to R240). -/
def Dev.wPort (d : Dev) (p : Par) (q : Nat) (v : W64) : Option (Nat × Dev) :=
  let n := v.toNat
  let f : F32 := v.setWidth 32
  let pick := fun r => if p = r then n else d.get r q
  if p = Par.portTopology ∨ p = Par.portLegA ∨ p = Par.portLegB then
    let a := pick Par.portLegA
    let b := pick Par.portLegB
    let legs := [a, b].filter (fun l => decide (l < 40))
    let others := (List.range 32).filter (· != q)
    if !(legsMatch (pick Par.portTopology) a b)
        || legs.any (fun l => d.get Par.legRole l == 2 || others.any (fun o => d.get Par.portLegA o == l || d.get Par.portLegB o == l)) then
      no d stRange
    else none
  else if p = Par.portCtx ∨ p = Par.portOrder then
    let c := pick Par.portCtx
    let others := (List.range 32).filter (· != q)
    if c < 128 ∧ (d.cOrder false c ≤ pick Par.portOrder
        ∨ others.any (fun o => d.get Par.portCtx o == c)
        ∨ (List.range 4).any (fun g => d.get Par.gridCtxSync g == c || d.get Par.gridCtxCur g == c || d.get Par.gridCtxDc g == c
            || d.get Par.gridCtxChop g == c)
        ∨ !(d.ctxWriters false (refPar 0) c).isEmpty ∨ !(d.ctxWriters false (refPar 1) c).isEmpty) then no d stRange
    else none
  else if (p = Par.portVSrc ∨ p = Par.portISrc ∨ p = Par.portTSrc) ∧ !(srcOk false n) then no d stRange
  else if (p = Par.portEFloor ∨ p = Par.portEReserve) ∧ flt (d.getF Par.portECap q) f then no d stRange
  else if p = Par.portSampleNow then did (if n = 1 then d.portDue q else d)
  else if p = Par.portSocSet then did (let e := d.putF p q f; if d.isPv q then e else e.socSet q f)
  else if p = Par.portPSet then some (d.pSetWrite q f)
  else if p = Par.portClear then
    if n = 0 then did d
    else if d.judgePortClear q ≠ stOk then no d (d.judgePortClear q)
    else did (d.portRelease q psFault)
  else if p = Par.portUnlock then
    if n = 0 then did d
    else if d.judgePortUnlock q ≠ stOk then no d (d.judgePortUnlock q)
    else did (d.portRelease q psLocked)
  else if p = Par.portBurstAbort then (if n = 0 ∨ d.isPv q then did d else some (d.burstAbort q))
  else none

/-- A write of burst_req (R236): one that passes 0.5 upwards forms a request for the next port step, whose answer the write waits for; without a port
step to come it is decided at once. Gives the status, whether it is held, and the device. -/
def Dev.burstReqWrite (d : Dev) (q : Nat) (f : F32) : Nat × Bool × Dev :=
  let old := d.getF Par.portBurstReq q
  let prev := (d.port q).reqPrev
  let d := d.putF Par.portBurstReq q f
  if d.isPv q || !(fle prev 0x3F000000 && flt 0x3F000000 f) then (stOk, false, d)
  else if d.get Par.portTopology q = 0 ∨ !d.full then (stBadState, false, d.putF Par.portBurstReq q old)
  else (stOk, true, d.setPort q { d.port q with reqDue := true, reqOld := some old })

/-- Settings of a leg that a port in use fixes (R223). -/
def Dev.legFixed (d : Dev) (p : Par) (n : Nat) : Bool :=
  d.portsUsed.any (fun q =>
    let t := d.get Par.portTopology q
    let a := d.get Par.portLegA q == n
    let b := d.get Par.portLegB q == n
    let tied := p == Par.legSyncLeg || p == Par.legPhase || p == Par.legPeriod
    (t == 2 && b && (tied || p == Par.legCarrier || p == Par.legDuty))
    || (t == 3 && ((a || b) && (p == Par.legCarrier || p == Par.legDuty) || b && tied)))

/-- LEG.n (R241, R245, R249, R258, Table 11.6). -/
def Dev.wLeg (d : Dev) (p : Par) (n v : Nat) : Option (Nat × Dev) :=
  if d.legFixed p n then no d stBadState
  else if p = Par.legRole then
    if v = 3 then no d stRange
    else if v = 2 ∧ (((List.range 40).filter (fun m => m != n && d.get Par.legRole m == 2)).length ≥ 8
        ∨ (List.range 32).any (fun q => d.get Par.portLegA q == n || d.get Par.portLegB q == n)) then no d stRange
    else none
  else if p = Par.legPhase ∧ d.get Par.legPeriod n ≤ v then no d stRange
  else if p = Par.legTVarMax ∧ v < d.get Par.legTVarMin n then no d stRange
  else if p = Par.legSyncLeg ∧ v < 40 then
    let var := fun m => d.get Par.legCarrier m == cCot || d.get Par.legCarrier m == cCft
    if d.get Par.legSyncLeg v ≠ 255 ∨ d.get Par.legPeriod v ≠ d.get Par.legPeriod n ∨ var v = true ∨ var n = true then no d stRange
    else none
  else if p = Par.legClear then
    if v = 0 then did d
    else if d.judgeLegClear n ≠ stOk then no d (d.judgeLegClear n)
    else did (d.legClear n)
  else none

/-- ADC.n, SDI.n, WIN.n (R267, R271, R275 to R279): a write of 1 to flag leaves it set while the window is tripped, or where a trip has come
since the registration at `ts` (R10). -/
def Dev.wAnalog (d : Dev) (ts : Nat) (p : Par) (i v : Nat) : Option (Nat × Dev) :=
  if p = Par.adcCalibrate then did (if v = 1 then d.adcCalStart i else d)
  else if p = Par.sdiEnable then did (if v = 1 ∧ !(d.isOn p i) then (d.put p i v).sdiRestart i else d.put p i v)
  else if p = Par.sdiDecim then did ((d.put p i v).sdiRestart i)
  else if p = Par.winFlag then did (if bit v 0 ∧ !(d.isOn Par.winTripped i) ∧ (d.get Par.winTripCount i = 0 ∨ d.get Par.winTripTime i < ts) then d.put p i 0 else d)
  else if p = Par.winReadback then
    if v = 0 then did d
    else if d.judgeReadback i ≠ stOk then no d stBusy
    else did (d.readbackStart i v)
  else if p.cls = 0x42 then
    let was := d.winMode i
    let e := d.put p i v
    did (e.winModes (fun w => if w = i then was else d.winMode w) |>.winRecalc i)
  else none

/-- METR.n/enable starts the element afresh. -/
def Dev.wMetr (d : Dev) (p : Par) (e v : Nat) : Option (Nat × Dev) :=
  if p = Par.metrEnable ∧ v ≠ d.get p e then did ((d.put p e v).setMet1 e {}) else none

/-- CAP.n (R10, R298, R305, R307, R308, R313). A flag stays set where it was set in the instant of the write, or after it. src, src_sel and
buf_kib are each judged beside the parameters as they stand (log entry 57). -/
def Dev.wCap (d : Dev) (ts : Nat) (p : Par) (n v : Nat) : Option (Nat × Dev) :=
  let st := d.get Par.capState n
  if p = Par.capFlags then
    let old := d.get p n
    let stays := fun b => bit old b && !(bit v b && decide ((d.cap n).flagAt.get (fun _ => 0) b < ts))
    did (d.put p n (((List.range 4).map (fun b => b2n (stays b) * 2 ^ b)).sum))
  else if p = Par.capSrc then (if capSrcOk v then none else no d stRange)
  else if p = Par.capSrcSel then (if capSelOk (d.get Par.capSrc n) v then none else no d stRange)
  else if (p = Par.capBufKib ∧ 16384 < v ∧ d.get Par.capMem n = 0) ∨ (p = Par.capMem ∧ v = 0 ∧ 16384 < d.get Par.capBufKib n) then no d stRange
  else if p = Par.capRun then
    if v = 1 then
      if d.judgeStart n ≠ stOk then no d (d.judgeStart n) else did (d.startStream n none)
    else if st = csIdle then did d
    else if d.get Par.capMode n = 0 then did (if st = csStream then d.stopStream n else d)
    else if st = csDeliver then no d stLateAbort
    else some (stAborted, d.capIdle n)
  else none

/-- TRIG.n/arm (R316, R318): a weave-wide arm is sent and taken two beats after the beat of registration, the beat that has just ended. -/
def Dev.wTrig (d : Dev) (p : Par) (n v : Nat) : Option (Nat × Dev) :=
  if p = Par.trigFire then did d
  else if p = Par.trigSrc then (if capSrcOk v then none else no d stRange)
  else if p = Par.trigSrcSel then (if capSelOk (d.get Par.trigSrc n) v then none else no d stRange)
  else if p = Par.trigArm then
    if d.isOn Par.trigWeave n then
      let b := d.beatNo + 1
      let d := d.setTrig n { d.trig n with armNext := some (v, b), autoHere := true }
      did (d.weavePut wkTrigArm 0xFF (leBytes 1 n ++ leBytes 1 v ++ leBytes 8 b))
    else did (d.trigArm n v true)
  else none

/-- WEAVE.0 (R369, R374). A new partner is a pair that is not formed. -/
def Dev.wWeave (d : Dev) (p : Par) (v : W64) : Option (Nat × Dev) :=
  if p = Par.weaveTokenGive then
    if v.toNat = 0 then did d
    else if d.judgeTokenGive ≠ stOk then no d d.judgeTokenGive
    else did d.tokenGive
  else if p = Par.weavePartner then
    if d.partnerNo = v.toNat then did d
    else
      let e := (d.put p 0 v.toNat).put Par.weavePairState 0 paNone
      did { e with weave := { e.weave with partnerNames := false, partnerHold := false, partnerMiss := 0, partnerDepart := false,
                                           passing := false, tokPlan := none } }
  else if p = Par.weavePortAsym then
    let k := d.get Par.weavePortSel 0
    did (d.setWport k { d.wport k with asym := v.toInt })
  else none

/-- LINK.n: rows of the sampled-value subscriptions, which LINK.1 and LINK.2 share (R402). -/
def Dev.wLink (d : Dev) (p : Par) (i v : Nat) : Option (Nat × Dev) :=
  if i = 0 ∨ p.idx < Par.linkSvSel.idx then none
  else if p = Par.linkSvSel then did (d.put p 1 v)
  else
    let k := d.get Par.linkSvSel 1
    let x := d.sv k
    let y : SvSub := if p = Par.linkSvMac then { x with mac := v } else if p = Par.linkSvAppid then { x with appid := v }
      else if p = Par.linkSvId then { x with id := v } else { x with rate := v }
    did { d with host := { d.host with sv := d.host.sv.set (fun _ => {}) k y } }

/-- Empty a ring (R388, R390). -/
def Dev.ringEmpty (d : Dev) (n : Nat) : Dev :=
  let d := (d.put Par.ringTail n (d.get Par.ringHead n)).setRing n {}
  d.put Par.ringState n (if d.get Par.ringLink n = 255 then 0 else 1)

/-- A host-produced ring (Table 17.4). -/
def hostRing (n : Nat) : Bool := decide (n < 16) || decide (64 ≤ n ∧ n < 72)

/-- RING.n (R388 to R390). -/
def Dev.wRing (d : Dev) (p : Par) (n v : Nat) : Option (Nat × Dev) :=
  if p = Par.ringDepth then
    let sum := ((List.range 96).map (fun r => if r = n then v else d.get Par.ringDepth r)).sum
    if 384 < sum then no d stRange
    else if hostRing n ∧ v ≠ d.get p n then did ((d.put p n v).ringEmpty n)
    else none
  else if p = Par.ringHostAddr ∧ v % 4096 ≠ 0 then no d stRange
  else if p = Par.ringReset then did (if v = 1 then d.ringEmpty n else d)
  else none

/-- PWR.0 and UPD.0 (R427, R438, R441, R444 to R446). -/
def Dev.wPwr (d : Dev) (p : Par) (v : Nat) : Option (Nat × Dev) :=
  let pm := d.pmode
  if p = Par.updRetainedClear then did (if v = 1 then { d with lid := { d.lid with retained := none } } else d)
  else if p = Par.pwrRequest then
    if v = 1 then did (d.wake wcHost)
    else if v = 2 then
      if d.kind ≠ kParked then no d stBadState
      else if pm = pmWaking then no d stBusy
      else did (if pm = pmRun then { d with pwr := { d.pwr with parkReq := true } } else d)
    else if v = 3 then
      if pm ≠ pmParked ∨ d.pwr.darkReq then no d stBadState
      else did { d with pwr := { d.pwr with darkReq := true } }
    else did d
  else if p = Par.pwrResetReq then
    if v = 0 then did d
    else if d.offOrParked ∨ d.kind = kTripped ∨ d.kind = kLockout then did { d with pwr := { d.pwr with resetReq := true } }
    else no d stBadState
  else none

/-- HARV.0/enable: the controlled stage stops, or takes over at 1.20 V (R453). -/
def Dev.wHarv (d : Dev) (p : Par) (v : Nat) : Option (Nat × Dev) :=
  if p = Par.harvEnable then
    let st := d.get Par.harvState 0
    let d := d.put p 0 v
    did (if v = 0 then (if 2 ≤ st then d.put Par.harvState 0 0 else d)
      else if st = 0 ∧ fle 0x3F99999A (d.getF Par.harvVstore 0) then d.put Par.harvState 0 2 else d)
  else none

/-- EVT.n (R10, R458, R460): a flag that an occurrence sets in the instant of the write or after it stays set. -/
def Dev.wEvt (d : Dev) (p : Par) (n v ts : Nat) : Option (Nat × Dev) :=
  if p = Par.evtFlag then did (if v = 1 ∧ d.get Par.evtLastTime n < ts then d.put p n 0 else d)
  else if p = Par.evtRaise then
    if n < 224 then no d stBadState
    else did (if v = 1 then d.raise n (oid 0xC0 n) (d.get Par.evtRaiseDetail n) else d)
  else none

/-- The rule of the parameter's class. -/
def Dev.wRule (d : Dev) (session tag ts : Nat) (p : Par) (i : Nat) (v : W64) : Option (Nat × Dev) :=
  let n := v.toNat
  if p.cls = 1 then d.wDev session tag ts p n
  else if p.cls = 3 ∨ p.cls = 4 then d.wImage p i n
  else if p.cls = 0x10 then d.wSpoke p i n
  else if p.cls = 0x11 then d.wCell p i n
  else if p.cls = 0x12 then d.wArm p i n
  else if p.cls = 0x20 then (if isImgPar p then d.wImage p i n else d.wCtx p i n)
  else if p.cls = 0x21 then d.wGrid p i v
  else if p.cls = 0x22 then d.wIsld ts p i v
  else if p.cls = 0x30 then d.wPort p i v
  else if p.cls = 0x31 then d.wLeg p i n
  else if p.cls = 0x40 ∨ p.cls = 0x41 ∨ p.cls = 0x42 then d.wAnalog ts p i n
  else if p.cls = 0x50 then d.wMetr p i n
  else if p.cls = 0x60 then d.wCap ts p i n
  else if p.cls = 0x61 then d.wTrig p i n
  else if p.cls = 0x80 then d.wWeave p v
  else if p.cls = 0x90 then d.wLink p i n
  else if p.cls = 0x91 then d.wRing p i n
  else if p.cls = 0xA1 ∨ p.cls = 0xB0 then d.wPwr p n
  else if p.cls = 0xB1 then d.wHarv p n
  else if p.cls = 0xC0 then d.wEvt p i n ts
  else none

/-- Apply a write that has passed the checks of every write: its status, and the device. -/
def Dev.applyWrite (d : Dev) (session tag ts obj idx : Nat) (v : W64) : Nat × Dev :=
  let p : Par := ⟨obj / 16777216, idx⟩
  let i := obj % 16777216
  let v := ((rowOf p).map (fun r => domClean r.dom v)).getD v
  if ((rowOf p).map PRow.acc).getD .ro = .ro then (stAuth, d)
  else (d.wRule session tag ts p i v).getD (stOk, d.setRaw p i v)

/-! ## The beat grid (R38, R39) -/

/-- Judge beat_ticks, window_pct and beat_phase as they would stand together, and accept the grid (R38, R39): it starts at its first boundary
at least one old beat after the last of the writes. A refusal for the loop engine names a context and its finish cycle (R174). -/
def Dev.gridWrite (d : Dev) (bt pct ph last : Nat) : Nat × Option (Nat × Nat) × Dev :=
  if bt ≤ ph then (stRange, none, d)
  else if !((List.range 64).all (fun s => ringFits bt pct (d.get Par.spokeCells s))) then (stAdmission, none, d)
  else
    let e := { d with par := (d.put Par.beatBeatTicks 0 bt).par }
    match e.admission false (bt * pct / 100) with
    | some a => (stAdmission, some a, d)
    | none => (stOk, none, { d with newGrid := some (bt, pct, ph, last + d.beatTicks * 16) })

/-! ## Whole images (R393) -/

/-- The class of a table set for a bulk write; RIM.0 counts as 3. -/
def bulkSet (obj : Nat) : Option Nat :=
  if obj = 0x03FFFFFF then some 0 else if obj = 0x04FFFFFF then some 1 else if obj = 0x20FFFFFF then some 2
  else if obj = 0x70000000 then some 3 else none

/-- Judge a bulk write but for its claims and contradictions. -/
def Dev.judgeBulk (d : Dev) (obj off : Nat) (data : List Byte) : Nat :=
  match bulkSet obj with
  | none => stRange
  | some k =>
    let size := if k = 3 then 256 else imgSize k
    if data.length = 0 ∨ 4072 < data.length then stLength
    else if size < off + data.length then stRange
    else if !(d.powered (obj / 16777216) 0) then stBadState
    else if k < 3 ∧ d.notEdit k then stBusy
    else stOk

/-- Apply a bulk write: bytes into the shadow, or into the record being written, which is judged and staged once its last byte is there
(R344). -/
def Dev.applyBulk (d : Dev) (obj off : Nat) (data : List Byte) : Nat × Dev :=
  match bulkSet obj with
  | none => (stRange, d)
  | some k =>
    if k < 3 then (if d.notEdit k then (stBusy, d) else (stOk, d.shadowWrite k off data))
    else
      let buf := d.rim.buf.setList (fun _ => 0) off data
      let d := { d with rim := { d.rim with buf := buf } }
      if off + data.length < 256 then (stOk, d)
      else
        let r := buf.getList (fun _ => 0) 0 256
        let st := d.judgeRecord r
        let d := { d with rim := { d.rim with buf := [] } }
        if st = stOk then (stOk, d.rimStage r) else (st, d)

end Sys2Proof.Machine
end

