-- ==== Sys2Proof/Machine/Upd.lean ====
section
/-! DEFINITION. Attestation, owner keys, manifests, chunks, activation, trials and rollback (R405 to R428), and the settings region (R427). -/

namespace Sys2Proof.Machine

/-- Object UPD.0. -/
abbrev oUpd : Nat := 0xA1000000
/-- Object LID.0. -/
abbrev oLid : Nat := 0xA0000000

/-! ## Images (R417) -/

/-- A firmware slot. -/
def Dev.slot (d : Dev) (s : Nat) : FwSlot := d.lid.slots.get (fun _ => {}) s

/-- Chunk `i` of a slot. -/
def FwSlot.chunk (x : FwSlot) (i : Nat) : List Byte := x.chunks.get (fun _ => []) i

/-- The header of a slot. -/
def FwSlot.header (x : FwSlot) : List Byte := x.chunk 0

/-- The slot that the update process writes (R426): the one not running; in recovery the one that the boot record does not name as active,
slot A without a boot record. -/
def Dev.inactiveSlot (d : Dev) : Nat :=
  if d.phase = .recovery then
    (if (governing (·.seq) (d.lid.boot.get (fun _ => none) 0) (d.lid.boot.get (fun _ => none) 1)).isNone then 0 else 1 - d.bootRec.active)
  else 1 - d.lid.running

/-- Image version, settings schema and arc of a slot. -/
def FwSlot.version (x : FwSlot) : Nat := if x.made then Config.factoryVersion.toNat else leAt x.header 0x08 4
/-- See `FwSlot.version`. -/
def FwSlot.schema (x : FwSlot) : Nat := if x.made then Config.factorySchema.toNat else leAt x.header 0x06 2
/-- See `FwSlot.version`. -/
def FwSlot.arc (x : FwSlot) : Nat := if x.made then Config.factoryArc.toNat else leAt x.header 0x0C 2

/-- Reasons of last_refusal. -/
abbrev rfSignature : Nat := 1
/-- See `rfSignature`. -/
abbrev rfOwnerSig : Nat := 2
/-- See `rfSignature`. -/
abbrev rfRollback : Nat := 3
/-- See `rfSignature`. -/
abbrev rfSilicon : Nat := 4
/-- See `rfSignature`. -/
abbrev rfSize : Nat := 5
/-- See `rfSignature`. -/
abbrev rfDigest : Nat := 6

/-- Signatures, arc and mask of a header or manifest (R419, R422): `cert` and the two signed spans end where the signatures stand. -/
def Dev.signFault (d : Dev) (bs : List Byte) (cert sig : Nat) (arc mask : Nat) : Option Nat :=
  let key := Config.rinicaCertKey (slice bs cert 1024)
  let signed := match key with
    | some k => Config.ecdsaVerify k (sha384 (bs.take sig)) (slice bs sig 96)
    | none => false
  if !signed then some rfSignature
  else if d.anchored && !(d.ownerSigned (byteAt bs (sig + 0x60)) (sha384 (bs.take (sig + 0x70))) (slice bs (sig + 0x70) 96)) then some rfOwnerSig
  else if arc < d.lid.fuses then some rfRollback
  else if !(bit mask 2) then some rfSilicon
  else none

/-- What fails when the boot ROM verifies a slot (R422): the header, then the boot loader section's digest. -/
def Dev.slotFault (d : Dev) (s : Nat) : Option Nat :=
  let x := d.slot s
  if x.made then (if x.arc < d.lid.fuses then some rfRollback else none)
  else
    let h := x.header
    let len := leAt h 0x10 4
    let boot := leAt h 0x14 4
    if h.length ≠ 4096 ∨ leAt h 0 4 ≠ 0x4D59494D ∨ leAt h 4 2 ≠ 1 then some rfSignature
    else if len < 4097 ∨ 7340032 < len ∨ len < 4096 + boot then some rfSize
    else match d.signFault h 0x100 0x500 x.arc (byteAt h 0x0E) with
      | some f => some f
      | none =>
        let sect := ((List.range (ceilDiv boot 4096)).flatMap (fun i => x.chunk (i + 1))).take boot
        if sha384 sect = slice h 0x18 48 then none else some rfDigest

/-- A slot's firmware section matches its header (R409). -/
def Dev.firmwareOk (d : Dev) (s : Nat) : Bool :=
  let x := d.slot s
  let h := x.header
  let len := leAt h 0x10 4
  let boot := leAt h 0x14 4
  x.made || sha384 ((((List.range (ceilDiv len 4096 - 1)).flatMap (fun i => x.chunk (i + 1))).drop boot).take (len - 4096 - boot)) == slice h 0x48 48

/-- Digests that the tally registers take of the running image (Table 18.3): header, boot loader section, firmware section. -/
def Dev.imageDigests (d : Dev) : List Byte × List Byte × List Byte :=
  let x := d.slot d.lid.running
  if x.made then (Config.factoryHeader, Config.factoryLoader, Config.factoryFirmware)
  else (sha384 x.header, slice x.header 0x18 48, slice x.header 0x48 48)

/-! ## Sources (R420) -/

/-- The source of a session: its link, the stake at which it entered, its credential's fingerprint (0 without one). -/
def Dev.srcOf (d : Dev) (s : Nat) : Src :=
  let x := d.sess s
  { link := x.link, stake := (x.origin.map (·.1)).getD d.stakeNo, fp := if x.cred = [] then 0 else fingerprint x.cred }

/-- The ownership record names an owner. -/
def OwnRec.owned (o : OwnRec) : Bool := o.link != 255
/-- The source is the owner. -/
def OwnRec.is (o : OwnRec) (s : Src) : Bool := o.owned && o.link == s.link && o.stake == s.stake && o.fp == s.fp

/-- Count a refusal and keep its reason, if it has one. -/
def Dev.refuseUpd (d : Dev) (reason : Option Nat) : Dev :=
  let d := d.inc 32 Par.updRefusals 0
  match reason with
  | some r => d.put Par.updLastRefusal 0 r
  | none => d

/-! ## Manifests (R418 to R421) -/

/-- Join the parts of a manifest from position `pos` on; `k` bounds the steps. -/
def joinParts (parts : List (Nat × List Byte)) : Nat → List Byte → List Byte
  | 0, acc => acc
  | k + 1, acc =>
    match parts.find? (fun p => decide (p.1 ≤ acc.length ∧ acc.length < p.1 + p.2.length)) with
    | some p => joinParts parts k (acc ++ p.2.drop (acc.length - p.1))
    | none => acc

/-- Chunk count of a manifest. -/
def manC (m : List Byte) : Nat := leAt m 0x14 2
/-- Image length of a manifest. -/
def manLen (m : List Byte) : Nat := leAt m 0x10 4
/-- Length of chunk `i`. -/
def manChunkLen (m : List Byte) (i : Nat) : Nat := min 4096 (manLen m - 4096 * i)

/-- What fails in a complete manifest (R419): status and reason. -/
def Dev.manifestFault (d : Dev) (m : List Byte) : Option (Nat × Nat) :=
  let c := manC m
  if 7340032 < manLen m then some (stLength, rfSize)
  else if manLen m < 4097 ∨ c ≠ ceilDiv (manLen m) 4096 ∨ m.length ≠ 0x5D0 + 48 * c then some (stRange, rfSize)
  else if leAt m 0 4 ≠ 0x4D594D46 ∨ leAt m 4 2 ≠ 1 then some (stAuth, rfSignature)
  else match d.signFault m 0x20 (0x500 + 48 * c) (leAt m 0x0C 2) (byteAt m 0x0E) with
    | some f => some (if f = rfSilicon then stRange else stAuth, f)
    | none => none

/-- The working memory of a transfer is empty. -/
def LidSt.clearWork (l : LidSt) : LidSt := { l with halves := [], marking := [], contrib := [] }

/-- Record a manifest with its source as owner (R420). -/
def Dev.ownManifest (d : Dev) (s : Src) (m : List Byte) (digest : List Byte) (keep : Bool) : Dev :=
  let o := d.ownRec
  let d := if keep then d.ownWrite { o with link := s.link, stake := s.stake, fp := s.fp }
    else d.ownWrite { state := 1, link := s.link, stake := s.stake, fp := s.fp, digest := digest, version := leAt m 0x08 4,
                      arc := leAt m 0x0C 2, count := manC m }
  let l := if keep then d.lid else { d.lid.clearWork with bitmap := 0 }
  { (d.put Par.updImgSchema 0 (leAt m 0x06 2)) with lid := { l with manifest := m } }

/-- The manifest in working memory. -/
def Dev.holdManifest (d : Dev) (m : List Byte) : Dev := { d with lid := { d.lid with manifest := m } }

/-- A verified manifest of a source (R420, R421): the status, bytes that follow it, the device. -/
def Dev.acceptManifest (d : Dev) (s : Src) (m : List Byte) : Nat × List Byte × Dev :=
  let o := d.ownRec
  let digest := sha384 m
  if o.state = 0 then (stOk, [], (d.ownManifest s m digest false).raise evUpdManifestAccepted oUpd)
  else if o.digest = digest then
    if o.is s then (stOk, [], d.holdManifest m)
    else if !o.owned then (stOk, [], d.ownManifest s m digest true)
    else
      let d := d.holdManifest m
      (stOk, [], if d.lid.contrib.contains s then d else { d with lid := { d.lid with contrib := d.lid.contrib ++ [s] } })
  else if o.owned then (stBusy, leBytes 1 o.link ++ leBytes 1 o.stake ++ leBytes 8 o.fp ++ leBytes 4 o.version, d.refuseUpd none)
  else (stOk, [], d.ownManifest s m digest false)

/-- The manifest being assembled for a session, or none. -/
def Dev.setAssem (d : Dev) (s : Nat) (v : Option Assem) : Dev :=
  { d with lid := { d.lid with assem := d.lid.assem.set (fun _ => none) s v } }

/-- A part of a manifest arrives (R419). -/
def Dev.updManifest (d : Dev) (s total off : Nat) (data : List Byte) : Nat × List Byte × Dev :=
  let asm := fun k => d.lid.assem.get (fun _ => none) k
  let others := (List.range 80).filter (fun k => k != s && (asm k).isSome)
  if data.length = 0 ∨ 4072 < data.length then (stLength, [], d)
  else if total < off + data.length then (stRange, [], d)
  else if (asm s).isNone ∧ 4 ≤ others.length then (stBusy, [], d)
  else
    let x := match asm s with
      | some a => if a.total = total then a else { total := total }
      | none => { total := total }
    let x := { x with parts := x.parts ++ [(off, data)] }
    let m := joinParts x.parts.reverse x.parts.length []
    if m.length < total then (stOk, [], d.setAssem s (some x))
    else
      let m := m.take total
      let d := d.setAssem s none
      match d.manifestFault m with
      | some (st, r) => (st, [], d.refuseUpd (some r))
      | none => d.acceptManifest (d.srcOf s) m

/-! ## Chunks (R422) -/

/-- Half of a chunk arrives. -/
def Dev.updChunk (d : Dev) (s i half : Nat) (data : List Byte) : Nat × Dev :=
  let o := d.ownRec
  let src := d.srcOf s
  let m := d.lid.manifest
  let len := manChunkLen m i
  if o.state = 0 then (stNotOwner, d)
  else if 2 ≤ o.state then (stOk, d)
  else if !(o.is src) && !(d.lid.contrib.contains src) then (stNotOwner, d)
  else if m = [] then (stBadState, d)
  else if manC m ≤ i ∨ 2 ≤ half then (stRange, d)
  else if data.length ≠ (if half = 0 then min 2048 len else len - 2048) ∨ data.length = 0 then (stRange, d)
  else if bit d.lid.bitmap i ∨ d.lid.marking.get (fun _ => []) i ≠ [] then (stOk, d)
  else
    let hs := d.lid.halves.set (fun _ => []) (2 * i + half) data
    let h0 := hs.get (fun _ => []) (2 * i)
    let h1 := hs.get (fun _ => []) (2 * i + 1)
    let d := { d with lid := { d.lid with halves := hs } }
    if h0 = [] ∨ (2048 < len ∧ h1 = []) then (stOk, d)
    else
      let hs := (hs.set (fun _ => []) (2 * i) []).set (fun _ => []) (2 * i + 1) []
      let d := { d with lid := { d.lid with halves := hs } }
      if sha384 (h0 ++ h1) = slice m (0x500 + 48 * i) 48 then
        (stOk, { d with lid := { d.lid with marking := d.lid.marking.set (fun _ => []) i (h0 ++ h1) } })
      else (stAuth, d.inc 32 Par.updChunkRejects 0)

/-- A verified chunk has been written to the slot, read back and marked (R422). -/
def Dev.chunkMarked (d : Dev) (i : Nat) : Dev :=
  let bs := d.lid.marking.get (fun _ => []) i
  let o := d.ownRec
  if bs = [] ∨ o.state ≠ 1 ∨ 1792 ≤ i then d
  else
    let k := d.inactiveSlot
    let slot : FwSlot := { made := false, chunks := (d.slot k).chunks.set (fun _ => []) i bs }
    let bm := setBit d.lid.bitmap i true
    let d := { d with lid := { d.lid with
      slots := d.lid.slots.set (fun _ => {}) k slot, bitmap := bm, marking := d.lid.marking.set (fun _ => []) i [] } }
    let done := (List.range o.count).all (bit bm)
    let d := d.ownWrite { o with last := d.now, state := if done then 2 else 1 }
    if done then d.raise evUpdComplete oUpd else d

/-- The 128 bytes of the ownership record (Table 18.5). -/
def OwnRec.bytes (o : OwnRec) : List Byte :=
  let b := leBytes 4 0x4F574E52 ++ leBytes 4 o.seq ++ leBytes 1 o.state ++ leBytes 1 o.link ++ leBytes 1 o.stake ++ leBytes 1 0
    ++ leBytes 8 o.fp ++ slice o.digest 0 48 ++ leBytes 4 o.version ++ leBytes 2 o.arc ++ leBytes 2 o.count ++ leBytes 8 o.last ++ leBytes 40 0
  b ++ leBytes 4 (crc32 b)

/-- The received-chunk bitmap as bytes (Table 18.5). -/
def Dev.bitmapBytes (d : Dev) : List Byte := leBytes 224 d.lid.bitmap

/-- Return the update to IDLE (R420). -/
def Dev.updIdle (d : Dev) : Dev :=
  let d := d.ownWrite {}
  { d with lid := { d.lid.clearWork with bitmap := 0, manifest := [], activating := false } }

/-- UPD_CANCEL (R420, R428). -/
def Dev.updCancel (d : Dev) (s : Nat) : Nat × Dev :=
  let o := d.ownRec
  if o.state = 0 ∨ o.state = 3 then (stBadState, d)
  else if o.owned && !(o.is (d.srcOf s)) then (stNotOwner, d)
  else (stOk, d.updIdle)

/-! ## Activation and trial (R423 to R425) -/

/-- Judge UPD_ACTIVATE (R423). -/
def Dev.judgeActivate (d : Dev) (s mode : Nat) : Nat :=
  let o := d.ownRec
  if o.owned && !(o.is (d.srcOf s)) then stNotOwner
  else if o.state ≠ 2 then stBadState
  else if 2 ≤ mode then stRange
  else stOk

/-- Start an activation. -/
def Dev.activateStart (d : Dev) (s tag mode : Nat) : Dev :=
  let d := d.ownWrite { d.ownRec with state := 3 }
  let op : Oper := { session := s, tag := tag, op := 0x65, kind := .activate, obj := oUpd, idx := 0, ts := d.now }
  { d with lid := { d.lid with activating := true, whenStopped := mode == 1 }, host := { d.host with ops := d.host.ops ++ [op] } }

/-- What fails when a slot is verified whole against the recorded manifest (R423). -/
def Dev.activateFault (d : Dev) : Option Nat :=
  let m := d.lid.manifest
  let x := d.slot d.inactiveSlot
  let h := x.header
  match d.slotFault d.inactiveSlot with
  | some f => some f
  | none =>
    if !((List.range (manC m)).all (fun i => sha384 (x.chunk i) == slice m (0x500 + 48 * i) 48)) then some rfDigest
    else if slice h 0x06 9 ≠ slice m 0x06 9 ∨ leAt h 0x10 4 ≠ manLen m then some rfDigest
    else none

/-- The running activation. -/
def Dev.activateOp (d : Dev) : Option Oper := d.host.ops.find? (fun o => o.kind == .activate)

/-- End the running activation with an outcome. -/
def Dev.activateEnd (d : Dev) (state status : Nat) : Dev :=
  let d := { d with lid := { d.lid with activating := false } }
  let d := if state = 0 then d.ownWrite {} else d.ownWrite { d.ownRec with state := state }
  match d.activateOp with
  | some o => d.outcome o status []
  | none => d

/-- Slot verification for an activation ends (R423, R426). -/
def Dev.activationVerified (d : Dev) : Dev :=
  if !d.lid.activating then d
  else match d.activateFault with
    | some f => (d.refuseUpd (some f)).activateEnd 2 stAuth
    | none =>
      let d := d.bootWrite { d.bootRec with pending := d.inactiveSlot, started := false, failed := false, window := d.get Par.updTrialWindow 0 }
      let d := { d with lid := { d.lid with resetWanted := d.lid.resetWanted || d.lid.whenStopped || (d.phase == Phase.recovery) } }
      (d.raise evUpdActivated oUpd).activateEnd 0 stCompleted

/-- Abort the running activation (R395, R423). -/
def Dev.activateAbort (d : Dev) : Dev := d.activateEnd 2 stAborted

/-- The trial may still be confirmed in the present beat (R425). -/
def Dev.trialOpen (d : Dev) : Bool :=
  d.lid.trial && decide (d.beatStart < d.bootRec.start + d.bootRec.window * 60 * fineS)

/-- Confirm the running trial (R425) and start the rollback advance (R415). -/
def Dev.confirm (d : Dev) : Dev :=
  let arc := (d.slot d.lid.running).arc
  let adv := decide (d.lid.fuses < arc)
  let r := d.bootRec
  let d := d.bootWrite { r with active := d.lid.running, pending := 255, started := false, failed := false, mirror := if adv then arc else r.mirror }
  let d := d.updIdle
  let d := { d with lid := { d.lid with trial := false, blowTo := if adv then some arc else d.lid.blowTo } }
  d.raise evUpdConfirmed oUpd

/-- The firmware confirms itself (R425). -/
def Dev.autoConfirm (d : Dev) : Dev :=
  if d.isOn Par.updAutoConfirm 0 ∧ d.trialOpen ∧ d.full ∧ !d.lid.clkFailed ∧ d.lid.openSince.isSome then d.confirm else d

/-- The trial window expires (R425). -/
def Dev.trialExpiry (d : Dev) : Dev :=
  if !d.lid.trial then d
  else
    let d := d.bootWrite { d.bootRec with pending := 255, started := false, failed := true }
    { d with lid := { d.lid with trial := false, resetWanted := true } }.raise evUpdTrialFailed oUpd

/-- 72 h without a verified chunk (R420). -/
def Dev.ownershipLapse (d : Dev) : Dev :=
  let o := d.ownRec
  if o.state = 1 ∧ o.owned then (d.ownWrite { o with link := 255, stake := 255, fp := 0 }).raise evUpdLapsed oUpd else d

/-- Blow the fuses of an advance (R415), and what follows. -/
def Dev.fusesBlown (d : Dev) : Dev :=
  match d.lid.blowTo with
  | none => d
  | some a =>
    let d := { d with lid := { d.lid with fuses := min 256 (max d.lid.fuses a), blowTo := none } }
    (d.raise evLidRollbackAdvance oLid).tallyKeys

/-! ## Attestation and keys (R408, R413) -/

/-- The report of Table 18.4. -/
def Dev.report (d : Dev) (nonce : List Byte) : List Byte :=
  let run := d.phase == .run
  let tally := if run then d.lid.tallySnap else d.lid.tally
  let counts := if run then d.lid.countSnap else d.lid.counts
  let fuses := if run then d.lid.fuseSnap else d.lid.fuses
  let body := leBytes 4 0x41545354 ++ leBytes 2 1 ++ leBytes 1 d.lid.running
    ++ leBytes 1 (b2n d.lid.trial + 2 * b2n d.lid.defaulted + 4 * b2n (!d.anchored)) ++ leBytes 8 Config.identity.toNat ++ leBytes 8 d.now
    ++ leBytes 1 (d.get Par.beatTimeState 0) ++ leBytes 1 (d.get Par.lidSiliconRev 0) ++ leBytes 2 (d.get Par.devFwSchema 0)
    ++ leBytes 4 (d.get Par.devFwVersion 0) ++ leBytes 2 fuses ++ leBytes 1 nonce.length ++ leBytes 1 0
    ++ leBytes 4 (d.get Par.lidBootCount 0) ++ slice nonce 0 48
    ++ (List.range 8).flatMap (fun r => slice (tally.get (fun _ => tally0) r) 0 48)
    ++ (List.range 8).flatMap (fun r => leBytes 4 (counts.get (fun _ => 0) r)) ++ leBytes 8 d.beatNo
  body ++ slice (Config.deviceSign (sha384 body)) 0 96

/-- ATTEST (R413): the status, the report, the device. -/
def Dev.attest (d : Dev) (nonce : List Byte) : Nat × List Byte × Dev :=
  if nonce.length < 16 ∨ 48 < nonce.length then (stLength, [], d)
  else (stOk, d.report nonce, d.inc 32 Par.lidReports 0)

/-- Judge KEY_ENROL or KEY_REVOKE (R408). -/
def Dev.judgeKey (d : Dev) (s : Nat) (enrol : Bool) (x : List Byte) : Nat :=
  let key := slice x 16 97
  let auth := byteAt x 113
  let unsignedOk := enrol && !d.anchored && (d.sess s).link == 0 && decide (s < 16) && d.offOrParked
  if x.length ≠ 212 then stLength
  else if 4 ≤ byteAt x 0 ∨ (if enrol then decide (4 ≤ byteAt x 1) else byteAt x 1 != 0) then stRange
  else if enrol && !(Config.validPoint key) then stRange
  else if !enrol && key ≠ List.replicate 97 0 then stRange
  else if leAt x 4 8 ≠ Config.identity.toNat ∨ leAt x 12 4 ≠ d.lid.epoch then stAuth
  else if auth = 255 then (if unsignedOk then stOk else stBadState)
  else if d.ownerSigned auth (sha384 (x.take 116)) (slice x 116 96) then stOk
  else stAuth

/-- Write or empty a key slot (R408). -/
def Dev.keyChange (d : Dev) (x : List Byte) : Dev :=
  let u := byteAt x 1 % 4
  let d := { d with lid := { d.lid with
    keys := d.lid.keys.set (fun _ => (0, [])) (byteAt x 0) (if u = 0 then (0, []) else (u, slice x 16 97))
    epoch := (d.lid.epoch + 1) % 2 ^ 32 } }
  (d.raise evLidKeyChange oLid).tallyKeys

/-! ## Settings (R427) -/

/-- A key of the object dictionary that is a setting: a value the host writes. Classes LINK, RING and WEAVE are carried over a change of
schema (`carried`). -/
def settingKey (carried : Bool) (k : Nat) : Bool :=
  let cls := k / 65536 / 16777216
  (match (rowOf ⟨cls, k % 65536⟩).map PRow.acc with
    | some .rw => true
    | some .rws => true
    | _ => false) && (carried || !(cls == 0x80 || cls == 0x90 || cls == 0x91))

/-- PARAM records of the values that differ from their defaults (R427). -/
def paramRecords (vals : Tab W64) : List Byte :=
  (vals.filter (fun e => settingKey true e.1)).flatMap (fun e =>
    leBytes 1 1 ++ leBytes 1 0 ++ leBytes 2 16 ++ leBytes 4 (e.1 / 65536) ++ leBytes 2 (e.1 % 65536) ++ leBytes 2 0 ++ leBytes 8 e.2.toNat)

/-- IMAGE records of a table set, in pieces of 4,096 bytes. -/
def imageRecords (k : Nat) (img : Tab Byte) : List Byte :=
  let obj := if k = 1 then 0x04FFFFFF else 0x20FFFFFF
  (List.range (ceilDiv (imgSize k) 4096)).flatMap (fun i =>
    let n := min 4096 (imgSize k - 4096 * i)
    leBytes 1 2 ++ leBytes 1 0 ++ leBytes 2 (8 + n) ++ leBytes 4 obj ++ leBytes 4 (4096 * i) ++ img.getList (imgDefault k) (4096 * i) n)

/-- A settings region (R427): header and body. -/
def settingsRegion (schema : Nat) (vals : Tab W64) (modeImg ctxImg : Tab Byte) : List Byte :=
  let body := paramRecords vals ++ imageRecords 1 modeImg ++ imageRecords 2 ctxImg
  leBytes 4 0x53544753 ++ leBytes 2 schema ++ leBytes 2 0 ++ leBytes 4 body.length ++ sha384 body ++ leBytes 4 0 ++ body

/-- A stored image of a table set. -/
def Dev.storedImg (d : Dev) (k : Nat) : Tab Byte := d.lid.stored.get (fun _ => []) k

/-- Schema of the current settings. -/
def Dev.settingsSchema (d : Dev) : Nat := d.lid.schema.getD Config.factorySchema.toNat

/-- The current settings region. -/
def Dev.settings (d : Dev) : List Byte := settingsRegion d.settingsSchema d.par (d.storedImg 1) (d.storedImg 2)

/-- Put settings in force: values, and stored images with their digests. -/
def Dev.putSettings (d : Dev) (vals : Tab W64) (modeImg ctxImg : Tab Byte) : Dev :=
  let keep := d.par.filter (fun e => !(settingKey false e.1))
  let par := (vals.filter (fun e => settingKey false e.1)).foldl (fun (t : Tab W64) (e : Nat × W64) => Tab.set parDefault t e.1 e.2) keep
  let dig := fun (k : Nat) (img : Tab Byte) => sha384 (img.getList (imgDefault k) 0 (imgSize k))
  { d with par := par, lid := { d.lid with
      stored := (d.lid.stored.set (fun _ => []) 1 modeImg).set (fun _ => []) 2 ctxImg
      storedDigest := (d.lid.storedDigest.set (fun _ => []) 1 (dig 1 modeImg)).set (fun _ => []) 2 (dig 2 ctxImg) } }

/-- The check at the firmware start (R427), and tally register 3 (Table 18.3). -/
def Dev.settingsCheck (d : Dev) : Dev :=
  let sch := (d.slot d.lid.running).schema
  let cur := d.settingsSchema
  let mine : Retained := { schema := cur, vals := d.par.filter (fun e => settingKey false e.1), modeImg := d.storedImg 1, ctxImg := d.storedImg 2 }
  let d := { d with lid := { d.lid with defaulted := false } }
  let d :=
    if sch = cur then d
    else match d.lid.retained with
      | some r =>
        if r.schema = sch then
          let d := d.putSettings r.vals r.modeImg r.ctxImg
          { d with lid := { d.lid with retained := some mine, schema := some sch } }
        else
          let d := (d.tallyExtend 3 (sha384 d.settings)).putSettings [] [] []
          { d with lid := { d.lid with retained := some mine, schema := some sch, defaulted := true } }
      | none =>
        let d := (d.tallyExtend 3 (sha384 d.settings)).putSettings [] [] []
        { d with lid := { d.lid with retained := some mine, schema := some sch, defaulted := true } }
  let d := d.tallyExtend 3 (sha384 d.settings)
  let d := d.put Par.updSettingsState 0 (b2n d.lid.defaulted)
  if d.lid.defaulted then
    let d := d.raise evSettingsDefaulted oUpd
    { d with mode := { d.mode with restoreOcc := true } }
  else d

/-! ## Messages -/

/-- A message of ch. 18 (R428): the status, bytes after the TS64, whether more follows, and the device. -/
def Dev.updMessage (d : Dev) (s tag : Nat) (m : HostMsg) : Option (Nat × List Byte × Bool × Dev) :=
  match m with
  | .attest n => let r := d.attest n; some (r.1, r.2.1, false, r.2.2)
  | .updManifest total off data =>
    let r := d.updManifest s total.toNat off.toNat data
    some (r.1, r.2.1, false, r.2.2)
  | .updChunk i h data => let r := d.updChunk s i.toNat h.toNat data; some (r.1, [], false, r.2)
  | .updStatus => some (stOk, d.ownRec.bytes ++ d.bitmapBytes, false, d)
  | .updCancel => let r := d.updCancel s; some (r.1, [], false, r.2)
  | .updActivate mode =>
    let st := d.judgeActivate s mode.toNat
    if st = stOk then some (stOk, [], true, d.activateStart s tag mode.toNat) else some (st, [], false, d.refuseUpd none)
  | .updConfirm => if d.trialOpen then some (stOk, [], false, d.confirm) else some (stBadState, [], false, d)
  | .keyEnrol x => let st := d.judgeKey s true x; some (st, [], false, if st = stOk then d.keyChange x else d)
  | .keyRevoke x => let st := d.judgeKey s false x; some (st, [], false, if st = stOk then d.keyChange x else d)
  | _ => none

end Sys2Proof.Machine
end

