-- ==== Sys2Proof/Machine/Sessions.lean ====
section
/-! DEFINITION. Host sessions, claims, rings, seals and links (ch. 17). -/

namespace Sys2Proof.Machine

/-- HOST_LOST. -/
abbrev evHostLost : Nat := 192
/-- RING_FAULT. -/
abbrev evRingFault : Nat := 193
/-- RING_OVERFLOW. -/
abbrev evRingOverflow : Nat := 194

/-- Fine ticks of the 10 s of R384. -/
def replayTime : Nat := 10 * fineS

/-! ## Sessions (R376, R377) -/

/-- Some session is open. -/
def Dev.anySession (d : Dev) : Bool := (List.range 80).any (fun s => (d.sess s).isOpen)

/-- Link and state of a session's ring pair. -/
def Dev.pairRings (d : Dev) (i link st : Nat) : Dev :=
  (((d.put Par.ringLink i link).put Par.ringLink (16 + i) link).put Par.ringState i st).put Par.ringState (16 + i) st

/-- A session becomes open: its record, its ring pair, its bit in LINK.n/sessions. -/
def Dev.sessionOpen (d : Dev) (s : Nat) (x : Sess) : Dev :=
  let d := d.setSess s { x with isOpen := true, auth := true, helloAt := none, lastMsg := d.now }
  let d := { d with lid := { d.lid with openSince := some (d.lid.openSince.getD d.now) } }
  if 16 ≤ s then d else (d.pairRings s x.link 1).putBit Par.linkSessions x.link s true

/-- A session ends (R377): its claims and its ring pair end at the next boundary, its operations run on without it. -/
def Dev.sessionEnd (d : Dev) (s : Nat) : Dev :=
  let x := d.sess s
  if !x.isOpen ∧ x.helloAt.isNone then d
  else
    let d := d.setSess s { x with isOpen := false, ending := true, auth := false, helloAt := none, keys := [] }
    let d := if s < 16 then d.putBit Par.linkSessions x.link s false else d
    let d := { d with
      commits := d.commits.map (fun c => if c.session = s then { c with gone := true } else c)
      host := { d.host with
        claims := d.host.claims.map (fun c => if c.session = s then { c with ending := true } else c)
        ops := d.host.ops.map (fun o => if o.session = s then { o with gone := true } else o)
        doneOps := d.host.doneOps.filter (fun o => o.1 != s) } }
    if d.anySession then d else { d with lid := { d.lid with openSince := none } }

/-- At the boundary: ended sessions give up their numbers and ring pairs and what waits to be answered to them, released claims end (R56,
R377). -/
def Dev.sessionsFreed (d : Dev) : Dev :=
  let d := { d with host := { d.host with claims := d.host.claims.filter (fun c => !c.ending),
                                          waiting := d.host.waiting.filter (fun m => !(d.sess m.session).ending) } }
  d.forN 80 (fun d s =>
    if !(d.sess s).ending then d
    else
      let d := d.setSess s {}
      if 16 ≤ s then d
      else
        let d := (d.pairRings s 255 0).setRing s { d.ring s with waiting := [] }
        d.setRing (16 + s) { d.ring (16 + s) with waiting := [] })

/-- A ring pair is free. -/
def Dev.pairFree (d : Dev) (i : Nat) : Bool := d.sess i == {}

/-- The lowest free ring pair. -/
def Dev.freePair (d : Dev) : Option Nat := (List.range 16).find? d.pairFree

/-- The weave session of an origin stake and origin session, taken up in order of arrival (R376, R403); none with all 64 in use. -/
def Dev.weaveSession (d : Dev) (stake session port : Nat) : Option (Nat × Dev) :=
  match (List.range 64).find? (fun k => (d.sess (16 + k)).isOpen && (d.sess (16 + k)).origin == some (stake, session)) with
  | some k => some (16 + k, d)
  | none =>
    match (List.range 64).find? (fun k => d.pairFree (16 + k)) with
    | some k => some (16 + k, d.sessionOpen (16 + k) { link := 3 + port, origin := some (stake, session) })
    | none => none

/-- Register the mode request that a lost link's loss_cmd names (R396), which waits for RUN in PARKED or during a wake (R443). -/
def Dev.modeCommand (d : Dev) (code : Nat) : Dev :=
  if d.pmode = pmParked ∨ d.pmode = pmWaking then ({ d with host := { d.host with heldReq := some code } }).wake wcHost
  else { d with host := { d.host with modeReq := d.host.modeReq ++ [code] } }

/-- hb_timeout passes without a message of the session (R396). -/
def Dev.sessionTimeout (d : Dev) (s : Nat) : Dev :=
  let x := d.sess s
  if !d.up ∨ !x.isOpen then d
  else
    let code := if x.link < 3 then d.get Par.linkLossCmd x.link else 0
    let d := d.sessionEnd s
    let d := if code = 0 then d else d.modeCommand code
    d.raise evHostLost (oid 0x90 x.link)

/-- 2 s pass without the end of a handshake (R400): it ends, and its ring pair is free. -/
def Dev.handshakeTimeout (d : Dev) (s : Nat) : Dev :=
  let x := d.sess s
  if x.helloAt.isNone then d
  else if x.isOpen then d.sessionEnd s
  else (d.setSess s {}).pairRings s 255 0

/-! ## Claims (R56, R58, R393) -/

/-- Another session has claimed the object. -/
def Dev.claimedByOther (d : Dev) (s obj : Nat) : Bool := d.host.claims.any (fun c => c.obj == obj && c.session != s)

/-- Another session has claimed some object of the class. -/
def Dev.classClaimed (d : Dev) (s cls : Nat) : Bool := d.host.claims.any (fun c => c.obj / 16777216 == cls && c.session != s)

/-- A write entry is refused with NOT_OWNER (R56, R58). -/
def Dev.entryOwned (d : Dev) (s obj idx : Nat) (v : W64) : Bool :=
  let p : Par := ⟨obj / 16777216, idx⟩
  d.claimedByOther s obj
  || (isImgPar p && d.classClaimed s p.cls)
  || (p == Par.devTblCommit && (setsOf (v.toNat % 8)).any (fun k => d.classClaimed s (if k = 0 then 3 else if k = 1 then 4 else 0x20)))

/-- Objects that an entry of a CLAIM or RELEASE names: one, or every instance of a class. -/
def claimObjs (obj : Nat) : List Nat :=
  let n := instances (obj / 16777216)
  if obj % 16777216 = 0xFFFFFF then (List.range n).map (fun i => oid (obj / 16777216) i)
  else if obj % 16777216 < n then [obj] else []

/-- One entry of a CLAIM: its status, the owner that refuses it (link and session), and the device. -/
def Dev.claimEntry (d : Dev) (s obj : Nat) : Nat × Option (Nat × Nat) × Dev :=
  let os := claimObjs obj
  if os = [] then (stRange, none, d)
  else match d.host.claims.find? (fun c => os.contains c.obj && c.session != s) with
    | some c => (stBusy, some ((d.sess c.session).link, c.session), d)
    | none =>
      let rest := d.host.claims.filter (fun c => !(os.contains c.obj))
      if 4096 < rest.length + os.length then (stLength, none, d)
      else (stOk, none, { d with host := { d.host with
        claims := rest ++ os.map (fun o => { obj := o, session := s, ending := false }) } })

/-- One entry of a RELEASE. -/
def Dev.releaseEntry (d : Dev) (s obj : Nat) : Nat × Dev :=
  let os := claimObjs obj
  let own := fun (c : Claim) => os.contains c.obj && c.session == s && !c.ending
  if os = [] then (stRange, d)
  else if !(d.host.claims.any own) then (stNotOwner, d)
  else (stOk, { d with host := { d.host with
    claims := d.host.claims.map (fun c => if own c then { c with ending := true } else c) } })

/-! ## Seals (R399) -/

/-- A sequence number against the window of the last 64: the new window, or none for a number older or repeated. -/
def sealWindow (high win seq : Nat) : Option (Nat × Nat) :=
  if seq = 0 then none
  else if high < seq then some (seq, (win * 2 ^ (min (seq - high) 64) + 1) % 2 ^ 64)
  else if 64 ≤ high - seq ∨ bit win (high - seq) then none
  else some (high, setBit win (high - seq) true)

/-- What becomes of a message before its content counts: discarded, refused with a status, or taken. -/
inductive Gate where
  | drop
  | refuse (status : Nat)
  | take
deriving DecidableEq, Repr

/-- The seal of a message on a session with keys. -/
def Dev.checkSeal (d : Dev) (s : Nat) (z : Seal) : Gate × Dev :=
  let x := d.sess s
  match sealWindow x.rxHigh x.rxWin z.seq.toNat with
  | none => (.drop, d)
  | some (high, win) =>
    if x.keys = [] ∨ z.tagOk = false then (.drop, d.sessionEnd s)
    else (.take, d.setSess s { x with rxHigh := high, rxWin := win })

/-! ## Rings (R387 to R392) -/

/-- The host's write of a command or weave-out ring's head (R388). -/
def Dev.doorbell (d : Dev) (n head : Nat) : Dev :=
  if !d.up ∨ !(hostRing n) ∨ d.get Par.ringState n = 2 then d
  else
    let old := d.get Par.ringHead n
    let used := (head + 2 ^ 32 - d.get Par.ringTail n) % 2 ^ 32
    if 2 ^ 31 ≤ (head + 2 ^ 32 - old) % 2 ^ 32 ∨ d.get Par.ringDepth n < used then
      (d.put Par.ringState n 2).raise evRingFault (oid 0x91 n)
    else d.put Par.ringHead n head

/-- The host's write of the tail of a ring that the MY8640 fills (R387, R388, R391): consumed slots leave it and waiting messages follow. -/
def Dev.tailWrite (d : Dev) (n tail : Nat) : Dev :=
  if !d.up ∨ hostRing n ∨ d.get Par.ringState n = 2 then d
  else
    let moved := (tail + 2 ^ 32 - d.get Par.ringTail n) % 2 ^ 32
    if d.ringUsed n < moved then (d.put Par.ringState n 2).raise evRingFault (oid 0x91 n)
    else
      let r := d.ring n
      let d := (d.put Par.ringTail n tail).setRing n { r with slots := r.slots.drop moved }
      Dev.ringDrain n (r.waiting.length) d

/-- coalesce_us has passed since the first unsignalled advance (R392). -/
def Dev.coalesce (d : Dev) (n : Nat) : Dev :=
  let v := d.get Par.ringVector n
  if (d.ring n).unsignalled.isNone ∨ 32 ≤ v then d
  else (d.setRing n { d.ring n with unsignalled := none }).msixRaise v

/-- A message as its slot holds it, and the slot's seal record (R378, R399): a sealed one has its payload encrypted. -/
def Dev.slotBytes (d : Dev) (s tag op : Nat) (shadow : Bool) (z : Option Seal) (payload : List Byte) : List Byte × List Byte :=
  let flags := b2n z.isSome + 2 * b2n shadow
  match z with
  | none => (mkMsg op tag s 0 flags payload, [])
  | some x =>
    let head := (mkMsg op tag s 0 flags payload).take 16
    let q := leBytes 8 x.seq.toNat
    let c := Config.gcm ((d.sess s).keys.take 32) (leBytes 2 s ++ leBytes 2 0 ++ q) head payload
    (head ++ c.1, slice (q ++ c.2) 0 32)

/-- The slot of a command or weave-out ring that is taken next cannot be read (R28). -/
def Dev.slotBad (d : Dev) (n : Nat) : Bool := (d.ring n).bad.contains (d.get Par.ringTail n % d.get Par.ringDepth n)

/-- A slot of a command or weave-out ring, which holds the message, is taken: the tail advances, and the head with it where no doorbell was seen
for the slot (log entry 49). -/
def Dev.ringTake (d : Dev) (n : Nat) (m : List Byte × List Byte) : Dev :=
  let at' := d.get Par.ringTail n
  let d := d.slotPut n at' m.1 m.2
  let d := d.setRing n { d.ring n with bad := (d.ring n).bad.filter (fun k => k != at' % d.get Par.ringDepth n) }
  let d := if d.get Par.ringHead n = at' then d.inc 32 Par.ringHead n else d
  d.inc 32 Par.ringTail n

/-! ## Messages to hosts -/

/-- HEARTBEAT to every open session that holds a ring pair (R396, Table 17.6). -/
def Dev.heartbeats (d : Dev) : Dev :=
  if !d.up ∨ d.pairHalted 1 then d
  else d.forN 16 (fun d s =>
    if !(d.sess s).isOpen then d
    else
      let body := leBytes 8 d.now ++ leBytes 8 d.beatNo ++ leBytes 1 d.kind ++ leBytes 1 (d.get Par.devModeIndex 0)
        ++ leBytes 1 (d.get Par.rimState 0) ++ leBytes 1 (b2n d.weave.tokenCur + 2 * (d.get Par.beatTimeState 0 % 8)) ++ leBytes 4 d.evt.seq
      d.sendTo s (mkMsg 0x03 0 s 0 0 body))

/-- Event records of one ring as messages of at most 127 records; `k` bounds the messages. -/
def Dev.eventMsgs (n : Nat) : Nat → List EvRec → Dev → Dev
  | 0, _, d => d
  | k + 1, rs, d =>
    match rs with
    | [] => d
    | _ =>
      let now := rs.take 127
      if d.ringFull n ∨ d.get Par.ringState n = 2 then
        let first := decide (d.get Par.ringOverflows n = 0)
        let d := d.inc 32 Par.ringOverflows n now.length
        Dev.eventMsgs n k (rs.drop 127) (if first then d.raise evRingOverflow (oid 0x91 n) else d)
      else
        let body := now.flatMap (fun r => r.bytes 0xFFFFFFFF)
        Dev.eventMsgs n k (rs.drop 127) (d.ringPut n (mkMsg 0x80 0 (d.ringSession n) 0 0 body))

/-- Records go to the event rings (R463): each ring of the mask whose session is open; a full ring drops them (R391). -/
def Dev.deliverEvents (d : Dev) : Dev :=
  if !d.up ∨ d.pairHalted 1 then d
  else
    let recs := d.evt.toRings
    let d := { d with evt := { d.evt with toRings := [] } }
    d.forN 16 (fun d i =>
      let n := 80 + i
      let s := d.ringSession n
      let mine := recs.filter (fun r => bit r.2 i)
      if s < 16 ∧ (d.sess s).isOpen then Dev.eventMsgs n (mine.length) (mine.map (·.1)) d else d)

/-! ## Links (R377, R397, R404) -/

/-- The two Ethernet ports form one node. -/
def Dev.redundant (d : Dev) : Bool := d.get Par.linkRedMode 1 != 0

/-- A link goes down: its sessions end, those of a doubly attached node when both ports are down. -/
def Dev.linkDown (d : Dev) (l : Nat) : Dev :=
  let d := d.put Par.linkState l 0
  let d := if l = 0 then d else d.ptpGone (l - 1)
  let both := decide (d.get Par.linkState 1 = 0 ∧ d.get Par.linkState 2 = 0)
  let lost := fun (x : Sess) => if l = 0 ∨ !d.redundant then x.link == l else both && (x.link == 1 || x.link == 2)
  d.forN 16 (fun d s => if lost (d.sess s) then d.sessionEnd s else d)

/-- A link comes up: in PARKED only Ethernet port 0 runs (R397, R442). -/
def Dev.linkUp (d : Dev) (l speed width : Nat) : Dev :=
  let starting := d.phase == .rom || d.phase == .loader || d.phase == .firmware
  let parked := d.pmode == pmParked
  if !(d.clkOk cdNet) then d
  else if d.phase = .recovery ∧ l ≠ 0 then d
  else if starting || d.phase == .recovery || (d.up && (!parked || l == 1)) then
    let d := d.put Par.linkState l 1
    if l = 0 then (d.put Par.linkPcieSpeed 0 speed).put Par.linkPcieWidth 0 width else d
  else d

/-- The link is up. -/
def Dev.linkIsUp (d : Dev) (l : Nat) : Bool := d.get Par.linkState l == 1

/-! ## Ethernet services (R397, R398, R402) -/

/-- Codes of frames in the record of sent frames. -/
abbrev frForward : Nat := 0
/-- See `frForward`. -/
abbrev frSupervision : Nat := 1
/-- See `frForward`. -/
abbrev frAnswer : Nat := 2

/-- A frame leaves an Ethernet port (0 or 1) that is up. -/
def Dev.frameOut (d : Dev) (port kind : Nat) (bytes : List Byte) : Dev :=
  if d.up && d.linkIsUp (1 + port) then
    let d := d.inc 64 Par.linkTxFrames (1 + port)
    { d with host := { d.host with sent := d.host.sent ++ [(port, kind, bytes)] } }
  else d

/-- The link whose addresses a port has (R397). -/
def Dev.addrLink (d : Dev) (port : Nat) : Nat := if d.redundant then 1 else 1 + port

/-- A request for an address of the port is answered by the stack (R398): ARP and ICMP for the IPv4 address, neighbour discovery and ICMPv6
for the link-local and, with a prefix, the global IPv6 address. -/
def Dev.echo (d : Dev) (port : Nat) (kind : EchoKind) (target : Nat) (data : List Byte) : Dev :=
  let l := d.addrLink port
  let v4 := d.get Par.linkIpv4 l
  let lo := d.get Par.linkIpv6Lo l
  let hi := d.get Par.linkIpv6Hi l
  let v6 := decide (target = 0xFE80000000000000 * 2 ^ 64 + lo) || (decide (hi ≠ 0) && decide (target = hi * 2 ^ 64 + lo))
  let mine := match kind with
    | .arp | .icmp => decide (v4 ≠ 0) && decide (target = v4)
    | .neighbour | .icmpv6 => v6
  if !d.up ∨ !(d.linkIsUp (1 + port)) then d
  else
    let d := d.inc 64 Par.linkRxFrames (1 + port)
    if !mine then d
    else match kind with
      | .arp | .neighbour => d.frameOut port frAnswer (leBytes 6 (d.get Par.linkMac l))
      | .icmp | .icmpv6 => d.frameOut port frAnswer data

/-- A frame of the HSR ring (R397): forwarded once to the other port; a duplicate within 400 ms, or the node's own frame, is not. -/
def Dev.hsrForward (d : Dev) (port src seq : Nat) (frame : List Byte) : Dev :=
  if !d.up ∨ d.get Par.linkRedMode 1 ≠ 2 ∨ !(d.linkIsUp (1 + port)) then d
  else
    let d := d.inc 64 Par.linkRxFrames (1 + port)
    let key := src * 65536 + seq
    let old := d.host.dups.filter (fun x => decide (d.now < x.2 + 400 * fineMs))
    if src = d.get Par.linkMac 1 then d
    else if old.any (fun x => x.1 == key) then
      ({ d with host := { d.host with dups := old } }).inc 64 Par.linkDupDrops (1 + port)
    else ({ d with host := { d.host with dups := old ++ [(key, d.now)] } }).frameOut (1 - port) frForward frame

/-- A PRP or HSR node sends its supervision frame (R397). -/
def Dev.supervision (d : Dev) : Dev :=
  if !d.up ∨ !d.redundant then d
  else
    let d := { d with host := { d.host with supervision := d.host.supervision + 1 } }
    (d.frameOut 0 frSupervision (leBytes 6 (d.get Par.linkMac 1))).frameOut 1 frSupervision (leBytes 6 (d.get Par.linkMac 1))

/-- A sampled-value frame (R402): counted when valid and subscribed, which ends the absence of its stream; one that flags its quality invalid
makes the stream absent (R216). -/
def Dev.svFrame (d : Dev) (port mac appid id synch : Nat) (datasetOk qualityOk dup : Bool) : Dev :=
  let l := 1 + port
  if !d.up ∨ !(d.linkIsUp l) then d
  else
    let d := d.inc 64 Par.linkRxFrames l
    if dup && d.redundant then d.inc 64 Par.linkDupDrops l
    else match (List.range 8).find? (fun k => (d.sv k).mac != 0 && (d.sv k).mac == mac && (d.sv k).appid == appid && (d.sv k).id == id) with
      | none => d
      | some k =>
        let x := d.sv k
        if !qualityOk then d.svGone k
        else if !(datasetOk && (synch == 1 || synch == 2)) then d
        else
          let y : SvSub := { x with frames := (x.frames + 1) % 2 ^ 32, absent := false }
          let d := { d with host := { d.host with sv := d.host.sv.set (fun _ => {}) k y } }
          if x.absent then d.forN 4 Dev.svEval else d

/-- 3 ms without a valid frame of a stream (R216). -/
def Dev.svAbsent (d : Dev) (k : Nat) : Dev := if d.up then d.svGone k else d

/-- The 10 ms of a reassembly pass (R398): its fragments are dropped. -/
def Dev.reassemblyTimeout (d : Dev) (l n : Nat) : Dev :=
  { d with host := { d.host with fragments := d.host.fragments.filter (fun f => f != (l, n)) } }

/-- A read of the BAR0 weave time register latches it at its low word (R385). -/
def Dev.timeRegisterRead (d : Dev) : Dev :=
  if d.up then { d with host := { d.host with timeLatch := d.now, barRead := d.now % 2 ^ 32 } } else d

end Sys2Proof.Machine
end

