-- ==== Sys2Proof/Machine/Host.lean ====
section
/-! DEFINITION. Host messages (ch. 17): how one is taken, what it does at its registration, and what the writes registered in a beat do at
the boundary after it. -/

namespace Sys2Proof.Machine

/-! ## The bytes of a request, for the weave (R403) -/

/-- Payload of a request (Tables 17.2 and 18.11). -/
def hostPayload : HostMsg → List Byte
  | .opn | .close | .heartbeat | .stopTrip | .stopLegs | .updStatus | .updCancel | .updConfirm => []
  | .finish sig => sig
  | .read es => es.flatMap (fun e => leBytes 4 e.1.toNat ++ leBytes 2 e.2.toNat ++ leBytes 2 0)
  | .readImage o off n => leBytes 4 o.toNat ++ leBytes 4 off.toNat ++ leBytes 4 n.toNat
  | .write es => es.flatMap (fun e => leBytes 4 e.obj.toNat ++ leBytes 2 e.idx.toNat ++ leBytes 2 0 ++ leBytes 8 e.val.toNat)
  | .bulkWrite o off data => leBytes 4 o.toNat ++ leBytes 4 off.toNat ++ data
  | .claim os | .release os => os.flatMap (fun o => leBytes 4 o.toNat)
  | .modeRequest c => leBytes 2 c.toNat
  | .abort t => leBytes 4 t.toNat
  | .attest n => n
  | .updManifest total off data => leBytes 4 total.toNat ++ leBytes 4 off.toNat ++ data
  | .updChunk i half data => leBytes 2 i.toNat ++ leBytes 1 half.toNat ++ leBytes 1 0 ++ data
  | .updActivate mode => leBytes 1 mode.toNat ++ leBytes 3 0
  | .keyEnrol x | .keyRevoke x => x
  | .proxy stake inner => leBytes 1 stake.toNat ++ leBytes 3 0 ++ inner

/-- What a MGMT message carries, as bytes. -/
def mgmtBytes : MgmtMsg → List Byte
  | .request s tag shadow m => mkMsg m.opcode tag.toNat s.toNat 0 (2 * b2n shadow) (hostPayload m)
  | .response _ bs => bs

/-! ## Reading (R378, R381, Table 18.10) -/

/-- One entry of a READ response. -/
def Dev.readEntry (d : Dev) (shadow : Bool) (e : BitVec 32 × BitVec 16) : List Byte :=
  let p : Par := ⟨e.1.toNat / 16777216, e.2.toNat⟩
  let i := e.1.toNat % 16777216
  let ok := decide (i < instances p.cls) && (rowOf p).isSome
  leBytes 4 e.1.toNat ++ leBytes 2 e.2.toNat ++ leBytes 2 (if ok then stOk else stRange)
    ++ leBytes 8 (if ok then (d.live shadow p i).toNat else 0)

/-- Bytes of a temperature log entry (R456). -/
def TempEntry.bytes (e : TempEntry) : List Byte := leBytes 4 e.minute ++ leBytes 2 (enc 16 e.tj) ++ leBytes 2 e.mv

/-- Regions of LID.0, UPD.0, PWR.0 and EVT.0 that READ_IMAGE reads: base and bytes. -/
def Dev.readRegions (d : Dev) (obj : Nat) : List (Nat × List Byte) :=
  if obj = 0xA0000000 then
    [(0x0, (List.range 8).flatMap d.tally ++ (List.range 8).flatMap (fun r => leBytes 4 (d.tallyCount r))),
     (0x1000, Config.identityChain), (0x2000, d.keyState), (0x10000, slice (d.lid.log.flatMap MeasLog.bytes) 0 131072)]
  else if obj = 0xA1000000 then
    [(0x0, d.bitmapBytes), (0x100000, (d.lid.retained.map (fun r => settingsRegion r.schema r.vals r.modeImg r.ctxImg)).getD [])]
  else if obj = 0xB0000000 then [(0x0, slice (d.pwr.temp.flatMap TempEntry.bytes) 0 8192)]
  else if obj = 0xC0000000 then [(0x0, (d.evt.log.getList (fun _ => List.replicate 32 0xFF) 0 4096).flatten)]
  else []

/-- READ_IMAGE: the status and the bytes. -/
def Dev.readImage (d : Dev) (shadow : Bool) (obj off len : Nat) : Nat × List Byte :=
  if 4072 < len then (stLength, [])
  else match bulkSet obj with
    | some k =>
      if k < 3 ∧ off + len ≤ imgSize k then (stOk, d.imgRead k shadow off len) else (stRange, [])
    | none =>
      match (d.readRegions obj).find? (fun r => decide (r.1 ≤ off ∧ off + len ≤ r.1 + r.2.length)) with
      | some r => (stOk, slice r.2 (off - r.1) len)
      | none => (stRange, [])

/-! ## Write-class messages: registration (R57, R382) -/

/-- Keep a message for the end of the beat. -/
def Dev.register (d : Dev) (m : Msg) : Dev := { d with host := { d.host with msgs := d.host.msgs ++ [m] } }

/-- A write-class message refused as a whole. -/
def Dev.registerRefused (d : Dev) (s tag op st : Nat) : Dev :=
  d.register { session := s, tag := tag, op := op, ts := d.now, status := st, work := [] }

/-- TRIG.n/fire, whose write is the fire (R314). -/
def isFire (obj idx : Nat) : Bool := (⟨obj / 16777216, idx⟩ : Par) == Par.trigFire

/-- A WRITE is registered: claims decide now, fires act now (R56, R314). -/
def Dev.regWrite (d : Dev) (s tag : Nat) (es : List WEntry) : Dev :=
  if es = [] ∨ 255 < es.length then d.registerRefused s tag 0x20 stLength
  else
    let work := es.map (fun e =>
      let o := e.obj.toNat
      let i := e.idx.toNat
      ({ obj := o, idx := i, val := e.val, status := if d.entryOwned s o i e.val then stNotOwner else stOk } : RegWrite))
    let m : Msg := { session := s, tag := tag, op := 0x20, ts := d.now, status := stOk, work := work }
    let fires := work.filter (fun w => isFire w.obj w.idx && w.status == stOk && w.val == 1 && d.judgeStatic w.obj w.idx w.val == stOk)
    (d.register m).forL fires (fun d w => d.fireTrig (w.obj % 16777216) d.now fcHost d.stakeNo)

/-- A BULK_WRITE is registered: the claims of its class, or of RIM.0, decide now (R58, R393). -/
def Dev.regBulk (d : Dev) (s tag obj off : Nat) (data : List Byte) : Dev :=
  d.register { session := s, tag := tag, op := 0x21, ts := d.now, work := [], bulk := some (obj, off, data)
               status := if d.classClaimed s (obj / 16777216) then stNotOwner else stOk }

/-- A CLAIM takes effect at registration (R393). -/
def Dev.regClaim (d : Dev) (s tag : Nat) (objs : List (BitVec 32)) : Dev :=
  let r := objs.foldl (fun (acc : List RegWrite × List (Nat × Nat × Nat) × Dev) o =>
    let k := acc.2.2.claimEntry s o.toNat
    let own := match k.2.1 with
      | some (l, q) => [(acc.1.length, l, q)]
      | none => []
    (acc.1 ++ [{ obj := o.toNat, idx := 0, val := 0, status := k.1 }], acc.2.1 ++ own, k.2.2)) ([], [], d)
  r.2.2.register { session := s, tag := tag, op := 0x22, ts := d.now, status := stOk, work := r.1, owners := r.2.1 }

/-- A RELEASE: each claim ends at the next boundary (R56, R393). -/
def Dev.regRelease (d : Dev) (s tag : Nat) (objs : List (BitVec 32)) : Dev :=
  let r := objs.foldl (fun (acc : List RegWrite × Dev) o =>
    let k := acc.2.releaseEntry s o.toNat
    (acc.1 ++ [{ obj := o.toNat, idx := 0, val := 0, status := k.1 }], k.2)) ([], d)
  r.2.register { session := s, tag := tag, op := 0x23, ts := d.now, status := stOk, work := r.1 }

/-- Judge a MODE_REQUEST but for contradictions (R40, R356, R393). -/
def Dev.judgeMode (d : Dev) (s : Nat) : Nat :=
  if d.classClaimed s 4 then stNotOwner else if d.modeHeld then stBadState else stOk

/-- A MODE_REQUEST is registered. -/
def Dev.regMode (d : Dev) (s tag code : Nat) : Dev :=
  d.register { session := s, tag := tag, op := 0x30, ts := d.now, status := d.judgeMode s, work := [], code := code }

/-! ## Stop-class commands and abort (R394, R395) -/

/-- Bit of STOP in Table 11.4. -/
abbrev tcStop : Nat := 4

/-- STOP_TRIP: the converter trip request with the timing of R99, and every local leg. -/
def Dev.stopTrip (d : Dev) : Dev :=
  let d := { d with mode := { d.mode with tripReq := true, stopReq := true } }
  d.tripLegs allLegs tcStop

/-- STOP_LEGS. -/
def Dev.stopLegs (d : Dev) : Dev := d.tripLegs allLegs tcStop

/-- ABORT of the operation with a tag (R395): its status. -/
def Dev.abortOp (d : Dev) (s tag : Nat) : Nat × Dev :=
  match d.host.ops.find? (fun o => o.session == s && o.tag == tag && !o.gone) with
  | some o =>
    match o.kind with
    | .activate => (stOk, d.activateAbort)
    | .commit =>
      match d.commits.find? (fun c => c.oper == o) with
      | some c => (stOk, d.commitEnd c stAborted [])
      | none => (stRange, d)
  | none => if d.host.doneOps.contains (s, tag) then (stLateAbort, d) else (stRange, d)

/-- The tag names a commit that is registered in the present beat and not yet decided: the abort is decided after it (R62). -/
def Dev.abortWaits (d : Dev) (s tag : Nat) : Bool :=
  (d.host.ops.find? (fun o => o.session == s && o.tag == tag && !o.gone)).isNone
  && d.host.msgs.any (fun m => m.op == 0x20 && m.session == s && m.tag == tag
      && m.work.any (fun w => w.obj == oDev && w.idx == Par.devTblCommit.idx && w.val.toNat % 8 != 0 && w.status == stOk))

/-! ## Forwarding (R403) -/

/-- A message for another stake, placed in a weave-out ring: it goes out as MGMT, or is answered BAD_STATE where the stake is absent or has no
route. `back` is the weave-in ring of its response. -/
def Dev.proxyOut (d : Dev) (s tag stake back : Nat) (inner : List Byte) : Dev :=
  if (d.routeTo stake).isNone ∨ !(d.isOn Par.stakePresent stake) then d.respond s tag 0x70 d.now stBadState []
  else
    let sn := leAt inner 8 2
    let old := d.host.proxied.filter (fun p => !(p.1 == stake && p.2.1 == sn))
    ({ d with host := { d.host with proxied := old ++ [(stake, sn, back)] } }).weavePut wkMgmt stake inner

/-- The response of another stake (R403): wrapped in PROXY in the weave-in ring that belongs to the request, or answered BUSY to that stake
while the ring is full (R391). -/
def Dev.proxyBack (d : Dev) (stake session : Nat) (bytes : List Byte) : Dev :=
  let n := ((d.host.proxied.find? (fun p => p.1 == stake && p.2.1 == session)).map (·.2.2)).getD 72
  let tag := leAt bytes 4 4
  if d.ringFull n ∨ d.get Par.ringState n = 2 then
    d.weavePut wkMgmt stake (mkMsg 0x70 tag session stBusy flResponse (leBytes 8 d.now))
  else d.ringPut n (mkMsg 0x70 tag session 0 flResponse (leBytes 1 stake ++ leBytes 3 0 ++ bytes))

/-! ## Handshake (R399, R400) -/

/-- A credential passes the checks of R407. -/
def Dev.credentialOk (d : Dev) (cred : List Byte) : Bool :=
  let keys := d.accessKeys
  decide (cred.length ≤ 2048) && (Config.credentialKey cred).isSome
    && (if keys = [] then Config.credentialSelfSigned cred else keys.any (Config.credentialSigned cred))
    && (decide (1 < d.get Par.beatTimeState 0) || Config.credentialValidAt cred d.now)

/-- HELLO_ACK of Table 17.7 for a HELLO message. -/
def Dev.helloAck (d : Dev) (s tag : Nat) (hello : List Byte) : List Byte :=
  let chain := Config.identityChain
  let body := slice (Config.helloEphemeral s d.now) 0 97 ++ slice (Config.helloNonce s d.now) 0 32 ++ leBytes 2 chain.length ++ chain
  let head := (mkMsg 0x05 tag s 0 0 (body ++ List.replicate 96 0)).take (16 + body.length)
  head ++ slice (Config.deviceSign (sha384 (hello ++ head))) 0 96

/-- Answer a HELLO that opens no session: in the response ring on PCIe, as a datagram of no session on Ethernet. -/
def Dev.helloRefuse (d : Dev) (link i tag st : Nat) : Dev :=
  let m := mkMsg 0x04 tag i st flResponse (leBytes 8 d.now)
  if link = 0 then d.ringPush (16 + i % 16) m
  else { d with host := { d.host with datagrams := d.host.datagrams ++ [(255, m)] } }

/-- HELLO accepted for session `s`: HELLO_ACK goes out and the keys of the session are new, its numbers begin again. -/
def Dev.helloTake (d : Dev) (s tag : Nat) (x : Sess) (hello cred : List Byte) : Dev :=
  let ack := d.helloAck s tag hello
  let y : Sess := { x with helloAt := some d.now, hello := hello, ack := ack, cred := cred, keys := Config.sessionKeys hello ack []
                           rxHigh := 0, rxWin := 0, txSeq := 1, lastMsg := d.now }
  let d := d.setSess s y
  let d := if x.isOpen then d else d.pairRings s x.link 1
  d.sendTo s ack

/-- HELLO (R400): within an open session it renews the keys, else it takes the pair of its ring on PCIe or the lowest free one. -/
def Dev.hello (d : Dev) (link : Nat) (session : Option Nat) (tag : Nat) (payload : List Byte) : Dev :=
  if !d.up ∨ d.pairHalted 1 ∨ 2 < link ∨ !(d.linkIsUp link) then d
  else
    let bad := link == 0 && session.any d.slotBad
    let d := d.inc 64 Par.linkRxFrames link
    let d := if link = 0 then (match session with
      | some i => d.ringTake i (d.slotBytes i tag 0x04 false none payload)
      | none => d) else d
    if bad then d.helloRefuse link (session.getD 0) tag stBadState else
    let cred := payload.drop 131
    let hello := mkMsg 0x04 tag (session.getD 0) 0 0 payload
    let st := if payload.length < 131 ∨ cred.length ≠ leAt payload 129 2 then stLength
      else if Config.validPoint (slice payload 0 97) && d.credentialOk cred then stOk else stAuth
    let again := match session with
      | some i => if (d.sess i).isOpen ∧ (d.sess i).link = link then some i else none
      | none => none
    match again with
    | some i => if st = stOk then d.helloTake i tag (d.sess i) hello cred else d.respond i tag 0x04 d.now st []
    | none =>
      let pair := match session with
        | some i => if link = 0 then (if d.pairFree i then some i else none) else d.freePair
        | none => d.freePair
      match pair with
      | none => d.helloRefuse link (session.getD 0) tag stBusy
      | some i => if st = stOk then d.helloTake i tag { link := link } hello cred else d.helloRefuse link i tag st

/-- FINISH (R400, R407): the credential key's signature over the three messages. -/
def Dev.finish (d : Dev) (s tag : Nat) (sealed : Bool) (sig : List Byte) : Dev :=
  let x := d.sess s
  if x.helloAt.isNone then d.respond s tag 0x06 d.now stBadState []
  else
    let head := (mkMsg 0x06 tag s 0 (b2n sealed) sig).take 16
    let key := (Config.credentialKey x.cred).getD []
    if sig.length ≠ 96 then d.respond s tag 0x06 d.now stLength []
    else if !(Config.ecdsaVerify key (sha384 (x.hello ++ x.ack ++ head)) sig) then d.respond s tag 0x06 d.now stAuth []
    else if x.isOpen then (d.setSess s { x with helloAt := none }).respond s tag 0x06 d.now stOk []
    else
      let d := d.sessionOpen s x
      let d := if d.accessKeys = [] then (d.inc 32 Par.lidUnanchoredSessions 0).raise evLidUnanchored oLid else d
      d.respond s tag 0x06 d.now stOk []

/-! ## What a message does at its registration -/

/-- Act on a message of a session. -/
def Dev.actOn (d : Dev) (s tag : Nat) (shadow sealed : Bool) (back : Nat) (m : HostMsg) : Dev :=
  let op := m.opcode
  match m with
  | .opn => d.respond s tag op d.now stBusy []
  | .close => (d.respond s tag op d.now stOk []).sessionEnd s
  | .heartbeat => d
  | .finish sig => d.finish s tag sealed sig
  | .read es =>
    if es = [] ∨ 255 < es.length then d.respond s tag op d.now stLength []
    else d.respond s tag op d.now stOk (es.flatMap (d.readEntry shadow))
  | .readImage o off n => let r := d.readImage shadow o.toNat off.toNat n.toNat; d.respond s tag op d.now r.1 r.2
  | .write es => d.regWrite s tag es
  | .bulkWrite o off data => d.regBulk s tag o.toNat off.toNat data
  | .claim os => d.regClaim s tag os
  | .release os => d.regRelease s tag os
  | .modeRequest c => d.regMode s tag c.toNat
  | .stopTrip => d.stopTrip.respond s tag op d.now stOk []
  | .stopLegs => d.stopLegs.respond s tag op d.now stOk []
  | .abort t =>
    if d.abortWaits s t.toNat then d.register { session := s, tag := tag, op := op, ts := d.now, status := stOk, work := [], code := t.toNat }
    else let r := d.abortOp s t.toNat; r.2.respond s tag op d.now r.1 []
  | .proxy stake inner => d.proxyOut s tag stake.toNat back inner
  | _ =>
    match d.updMessage s tag m with
    | some (st, bs, more, e) => e.respond s tag op d.now st bs more
    | none => d

/-- A response of the last 10 s to the same request (R384). -/
def Dev.replay (d : Dev) (s op tag : Nat) : Option Stored :=
  ((d.sess s).stored.filter (fun x => x.op == op && x.tag == tag && decide (d.now ≤ x.ts + replayTime))).getLast?

/-- Register a message of an open session (R380, R384). -/
def Dev.takeMsg (d : Dev) (s tag : Nat) (shadow sealed : Bool) (back : Nat) (m : HostMsg) : Dev :=
  let d := d.setSess s { d.sess s with lastMsg := d.now }
  match d.replay s m.opcode tag with
  | some x => d.forL x.resp (fun d r => d.sendTo s r)
  | none =>
    if d.host.msgs.any (fun x => x.session == s && x.op == m.opcode && x.tag == tag) then d
    else d.actOn s tag shadow sealed back m

/-- A message as its slot holds it (R378). -/
def Dev.msgSlot (d : Dev) (h : Hdr) (m : HostMsg) : List Byte × List Byte :=
  d.slotBytes h.session.val h.tag.toNat m.opcode h.shadow h.sealed (hostPayload m)

/-- How a message of a local session gets in (R377, R388, R391, R394, R399). One whose slot cannot be read is answered BAD_STATE (R28). -/
def Dev.gate (d : Dev) (h : Hdr) (ring : Nat) (m : HostMsg) : Gate × Dev :=
  let op := m.opcode
  let s := h.session.val
  let x := d.sess s
  let known := x.isOpen || x.helloAt.isSome
  if d.pairHalted 1 then (.drop, d)
  else if known && x.link != 0 then
    let up := d.linkIsUp x.link || (d.redundant && (d.linkIsUp 1 || d.linkIsUp 2))
    if !up then (.drop, d)
    else
      let d := d.inc 64 Par.linkRxFrames x.link
      match h.sealed with
      | none => (.drop, d.inc 32 Par.linkUnsealedDrops x.link)
      | some z =>
        let r := d.checkSeal s z
        if r.1 = .take ∧ !x.auth ∧ op ≠ 0x06 then (.refuse stAuth, r.2) else r
  else if !(d.linkIsUp 0) ∨ d.get Par.ringState ring = 2 ∨ (known && (d.ringFull (16 + s) || !(d.ring (16 + s)).waiting.isEmpty)) then (.drop, d)
  else
    let bad := d.slotBad ring
    let d := (d.ringTake ring (d.msgSlot h m)).inc 64 Par.linkRxFrames 0
    if bad then (.refuse stBadState, d) else
    let r := match h.sealed with
      | some z => d.checkSeal s z
      | none => if d.isOn Par.linkSealRequired 0 then (Gate.refuse stAuth, d) else (Gate.take, d)
    if r.1 ≠ .take ∨ x.isOpen then r
    else if known then (if op = 0x06 then r else (.refuse stAuth, r.2))
    else if op = 0x01 then r
    else (.drop, r.2)

/-- A message in recovery (R426): session 0 on PCIe, and only the update commands and ATTEST. -/
def Dev.recoveryMsg (d : Dev) (h : Hdr) (m : HostMsg) : Dev :=
  let tag := h.tag.toNat
  let op := m.opcode
  if h.session.val ≠ 0 ∨ h.sealed.isSome ∨ !(d.linkIsUp 0) ∨ d.get Par.ringState 0 = 2 ∨ d.ringFull 16 then d
  else
    let bad := d.slotBad 0
    let d := (d.ringTake 0 (d.msgSlot h m)).inc 64 Par.linkRxFrames 0
    if bad then d.respond 0 tag op d.now stBadState [] else
    match d.replay 0 op tag with
    | some x => d.forL x.resp (fun d r => d.sendTo 0 r)
    | none => if 0x60 ≤ op ∧ op ≤ 0x65 then d.actOn 0 tag h.shadow false 72 m else d.respond 0 tag op d.now stBadState []

/-- A message of a local session, from its command ring or `ring`; `back` is the weave-in ring of a proxied message's response. -/
def Dev.hostMsgIn (d : Dev) (h : Hdr) (ring back : Nat) (m : HostMsg) : Dev :=
  if d.phase = .recovery then d.recoveryMsg h m
  else if !d.up then d
  else
    let s := h.session.val
    let tag := h.tag.toNat
    let r := d.gate h ring m
    let d := r.2
    match r.1 with
    | .drop => d
    | .refuse st =>
      if (d.sess s).isOpen ∨ (d.sess s).helloAt.isSome then d.respond s tag m.opcode d.now st []
      else d.ringPush (16 + s) (mkMsg m.opcode tag s st flResponse (leBytes 8 d.now))
    | .take =>
      if m.opcode = 0x01 ∧ !(d.sess s).isOpen then
        if d.pairFree s then (d.sessionOpen s { link := 0 }).respond s tag 0x01 d.now stOk []
        else d.ringPush (16 + s) (mkMsg 0x01 tag s stBusy flResponse (leBytes 8 d.now))
      else d.takeMsg s tag h.shadow h.sealed.isSome back m

/-- A message in the command ring of its session. -/
def Dev.hostMsg (d : Dev) (h : Hdr) (m : HostMsg) : Dev := d.hostMsgIn h h.session.val 72 m

/-- A write of one parameter. -/
def Dev.writeOne (d : Dev) (h : Hdr) (p : Par) (i : Nat) (v : W64) : Dev :=
  d.hostMsg h (.write [{ obj := BitVec.ofNat 32 (oid p.cls i), idx := BitVec.ofNat 16 p.idx, val := v }])

/-- A request of weave session `s` (R403). -/
def Dev.weaveRequest (d : Dev) (s tag : Nat) (shadow : Bool) (req : HostMsg) : Dev :=
  if req = .opn then
    match d.replay s 0x01 tag with
    | some x => d.forL x.resp (fun d r => d.sendTo s r)
    | none => d.respond s tag 0x01 d.now stOk []
  else d.takeMsg s tag shadow false 72 req

/-- MGMT (R403): a request of a weave session, or the response to a proxied one. -/
def Dev.mgmt (d : Dev) (h : WHdr) (m : MgmtMsg) : Dev :=
  d.wrx h wkMgmt (mgmtBytes m) (fun d =>
    let stake := h.src.toNat
    if d.pairHalted 1 then d
    else match m with
      | .response session bytes => d.proxyBack stake session.toNat bytes
      | .request session tag shadow req =>
        match d.weaveSession stake session.toNat h.port.val with
        | none => d.weavePut wkMgmt stake (mkMsg req.opcode tag.toNat session.toNat stBusy flResponse (leBytes 8 d.now))
        | some r => r.2.weaveRequest r.1 tag.toNat shadow req)

end Sys2Proof.Machine
end

