-- ==== Sys2Proof/Machine/Boundary.lean ====
section
/-! DEFINITION. The writes registered in a beat at the boundary after it (R55, R57, R382, R393): judged on the state of the boundary,
contradictions refused, the others applied in the order of registration, the responses sent. -/

namespace Sys2Proof.Machine

/-- Judge the entries and bulk writes of a message that its claims have not refused. -/
def Dev.judgeMsg (d : Dev) (m : Msg) : Msg :=
  let work := if m.op = 0x20 then
      m.work.map (fun w => if w.status = stOk then { w with status := d.judgeStatic w.obj w.idx w.val } else w)
    else m.work
  let st := match m.bulk with
    | some (o, off, data) => if m.status = stOk then d.judgeBulk o off data else m.status
    | none => m.status
  { m with work := work, status := st }

/-- The entry is a write of tbl_commit. -/
def RegWrite.isCommit (w : RegWrite) : Bool := w.obj == oDev && w.idx == Par.devTblCommit.idx

/-- The value of an entry without its reserved bits (R11). -/
def RegWrite.clean (w : RegWrite) : W64 :=
  ((rowOf ⟨w.obj / 16777216, w.idx⟩).map (fun r => domClean r.dom w.val)).getD w.val

/-- Two entries of different sessions contradict each other (R57, R60): different values; for tbl_commit any two commits. -/
def RegWrite.clash (w v : RegWrite) : Bool :=
  w.status == stOk && v.status == stOk && w.obj == v.obj && w.idx == v.idx && !(isFire w.obj w.idx)
  && (if w.isCommit then w.val.toNat % 8 != 0 && v.val.toNat % 8 != 0 else w.clean != v.clean)

/-- The bytes of a bulk write without their reserved bits. -/
def bulkBytes (b : Nat × Nat × List Byte) : List Byte :=
  match bulkSet b.1 with
  | some k => if k < 3 then imgClean k b.2.1 b.2.2 else b.2.2
  | none => b.2.2

/-- Two bulk writes contradict each other: some byte of an image differs. -/
def bulkClash (a b : Nat × Nat × List Byte) : Bool :=
  let xs := bulkBytes a
  let ys := bulkBytes b
  a.1 == b.1 && (List.range xs.length).any (fun i =>
    decide (b.2.1 ≤ a.2.1 + i) && decide (a.2.1 + i < b.2.1 + ys.length) && xs.getD i 0 != ys.getD (a.2.1 + i - b.2.1) 0)

/-- An entry and a bulk write contradict each other: some bit of the entry's field differs in the bytes the bulk write brings (R57, R393). -/
def Dev.fieldClash (d : Dev) (w : RegWrite) (b : Nat × Nat × List Byte) : Bool :=
  match imgPlace (d.curveDir true) ⟨w.obj / 16777216, w.idx⟩ (w.obj % 16777216) with
  | none => false
  | some (k, a, lo, n) =>
    w.status == stOk && bulkSet b.1 == some k && (List.range (fieldBytes lo n)).any (fun j =>
      let m := (2 ^ n - 1) * 2 ^ lo / 256 ^ j % 256
      decide (b.2.1 ≤ a + j) && decide (a + j < b.2.1 + b.2.2.length)
        && (w.clean.toNat * 2 ^ lo / 256 ^ j % 256) &&& m != byteAt b.2.2 (a + j - b.2.1) &&& m)

/-- An entry of a WRITE is contradicted by a message of another session. -/
def Dev.entryClash (d : Dev) (w : RegWrite) (x : Msg) : Bool :=
  (x.op == 0x20 && x.work.any w.clash) || (x.status == stOk && (match x.bulk with
    | some b => d.fieldClash w b
    | none => false))

/-- A bulk write is contradicted by a message of another session. -/
def Dev.bulkClashes (d : Dev) (b : Nat × Nat × List Byte) (x : Msg) : Bool :=
  (x.op == 0x20 && x.work.any (fun w => d.fieldClash w b)) || (x.status == stOk && (match x.bulk with
    | some c => bulkClash b c
    | none => false))

/-- Refuse the contradictions of a message with those of the other sessions (R57, R393). -/
def Dev.clashMsg (d : Dev) (ms : List Msg) (m : Msg) : Msg :=
  let others := ms.filter (fun x => x.session != m.session)
  let work := m.work.map (fun w => if m.op == 0x20 && others.any (d.entryClash w) then { w with status := stConflict } else w)
  let bulk := match m.bulk with
    | some b => m.status == stOk && others.any (d.bulkClashes b)
    | none => false
  let mode := m.op == 0x30 && m.status == stOk && others.any (fun x => x.op == 0x30 && x.status == stOk && x.code != m.code)
  { m with work := work, status := if bulk || mode then stConflict else m.status }

/-- A write of the beat grid, which is judged with the others of the beat (R38). -/
def RegWrite.isGrid (w : RegWrite) : Bool := w.obj == oBeat && decide (w.idx < 3)

/-- A write of burst_req, which is decided after the others (R236). -/
def RegWrite.isBurst (w : RegWrite) : Bool := w.obj / 16777216 == 0x30 && w.idx == Par.portBurstReq.idx

/-- Apply the entries of a message that `sel` picks, in order. -/
def Dev.applyEntries (d : Dev) (sel : RegWrite → Bool) (m : Msg) : List RegWrite × Dev :=
  m.work.foldl (fun (acc : List RegWrite × Dev) w =>
    if m.op = 0x20 ∧ w.status = stOk ∧ sel w then
      if w.isBurst then
        let r := acc.2.burstReqWrite (w.obj % 16777216) (w.val.setWidth 32)
        (acc.1 ++ [{ w with status := r.1, held := r.2.1 }], r.2.2)
      else
        let r := acc.2.applyWrite m.session m.tag m.ts w.obj w.idx w.val
        (acc.1 ++ [{ w with status := r.1 }], r.2)
    else (acc.1 ++ [w], acc.2)) ([], d)

/-- Apply the messages of the beat in order: their entries that `sel` picks, and with `bulk` their bulk writes. -/
def Dev.applyMsgs (d : Dev) (sel : RegWrite → Bool) (bulk : Bool) (ms : List Msg) : List Msg × Dev :=
  ms.foldl (fun (acc : List Msg × Dev) m =>
    let r := acc.2.applyEntries sel m
    match if bulk && m.status == stOk then m.bulk else none with
    | some (o, off, data) =>
      let b := r.2.applyBulk o off data
      (acc.1 ++ [{ m with work := r.1, status := b.1 }], b.2)
    | none => (acc.1 ++ [{ m with work := r.1 }], r.2)) ([], d)

/-- The grid writes of the beat together (R38, R39): one status for all of them. -/
def Dev.applyGrid (d : Dev) (ms : List Msg) : List Msg × Dev :=
  let mine := ms.filter (fun m => m.op == 0x20 && m.work.any (fun w => w.isGrid && w.status == stOk))
  let ws := mine.flatMap (fun m => m.work.filter (fun w => w.isGrid && w.status == stOk))
  if ws = [] then (ms, d)
  else
    let now := match d.newGrid with
      | some (bt, pct, ph, _) => (bt, pct, ph)
      | none => (d.beatTicks, d.get Par.beatWindowPct 0, d.get Par.beatBeatPhase 0)
    let pick := fun (k old : Nat) => (((ws.filter (fun w => w.idx == k)).getLast?).map (fun w => w.val.toNat)).getD old
    let last := (mine.map (·.ts)).foldl max 0
    let r := d.gridWrite (pick 0 now.1) (pick 1 now.2.1) (pick 2 now.2.2) last
    (ms.map (fun m => if mine.contains m then
      { m with refusedAt := r.2.1, work := m.work.map (fun w => if w.isGrid && w.status == stOk then { w with status := r.1 } else w) }
      else m), r.2.2)

/-- Payload of a response after its TS64 (R381, R393). A grid write refused for the loop engine is followed by the context and its finish cycle,
as in the outcome of a commit (R174; the place is the model's choice, log entry 59). -/
def Msg.answer (m : Msg) : List Byte :=
  if m.status ≠ stOk then []
  else (List.zip (List.range m.work.length) m.work).flatMap (fun e =>
    let w := e.2
    leBytes 4 w.obj ++ leBytes 2 w.idx ++ leBytes 2 w.status
      ++ (match m.owners.find? (fun o => o.1 == e.1) with
          | some (_, l, s) => leBytes 1 l ++ leBytes 1 0 ++ leBytes 2 s
          | none => [])
      ++ (match m.refusedAt with
          | some (c, t) => if w.isGrid ∧ w.status = stAdmission then leBytes 4 c ++ leBytes 4 t else []
          | none => []))

/-- A commit of the message was accepted: an outcome follows (R383). -/
def Msg.deferred (m : Msg) : Bool := m.work.any (fun w => m.op == 0x20 && w.isCommit && w.val.toNat % 8 != 0 && accepted w.status)

/-- The response of a message at the end of its beat (R382); an abort of a commit of the same beat is decided here (R62). -/
def Dev.answerMsg (d : Dev) (m : Msg) : Dev :=
  if m.op = 0x50 then let r := d.abortOp m.session m.code; r.2.respond m.session m.tag m.op m.ts r.1 []
  else d.respond m.session m.tag m.op m.ts m.status m.answer m.deferred

/-- A burst request that waits for its answer. -/
def Msg.waits (m : Msg) : Bool := m.work.any (·.held)

/-- Decide the waiting burst requests of the ports that `sel` picks with one status each: the entries take it, and a message with none left to wait for
is answered (R236). -/
def Dev.burstAnswer (d : Dev) (sel : Nat → Bool) (st : Nat) : Dev :=
  let ms := d.host.waiting.map (fun m =>
    { m with work := m.work.map (fun w => if w.held && sel (w.obj % 16777216) then { w with held := false, status := st } else w) })
  let d := { d with host := { d.host with waiting := ms.filter Msg.waits } }
  d.forL (ms.filter (fun m => !m.waits)) Dev.answerMsg

/-- The request of port `p` is decided in its port step (R236): the outcome stands, a refused host write leaves the parameter as it was, and the
write that asked is answered. -/
def Dev.burstDecide (d : Dev) (p : Nat) : Dev :=
  let r := d.burstRequest p
  let d := r.2
  let x := d.port p
  let d := match x.reqOld with
    | some old =>
      let d := d.setPort p { x with reqOld := none, reqPrev := if accepted r.1 then x.reqPrev else old }
      if accepted r.1 then d else d.putF Par.portBurstReq p old
    | none => d
  d.burstAnswer (fun q => q == p) r.1

/-- Requests whose port step does not come, in power modes PARKED and WAKING: the port is not in RUN (R236). -/
def Dev.burstFlush (d : Dev) : Dev :=
  if d.host.waiting = [] then d
  else
    let d := d.forN 32 (fun d p => if (d.port p).reqOld.isSome then
      (d.setPort p { d.port p with reqOld := none, reqDue := false }).putF Par.portBurstReq p ((d.port p).reqOld.getD f0) else d)
    d.burstAnswer (fun _ => true) stBadState

/-- Everything that the messages registered in the ended beat do at its end (R55, R382). -/
def Dev.applyWrites (d : Dev) : Dev :=
  let ms := d.host.msgs
  let d := { d with host := { d.host with msgs := [] } }
  let judged := ms.map d.judgeMsg
  let kept := judged.map (d.clashMsg judged)
  let r := d.applyMsgs (fun w => !w.isGrid && !w.isBurst) true kept
  let r := r.2.applyGrid r.1
  let r := r.2.applyMsgs RegWrite.isBurst false r.1
  let d := r.2.forL (r.1.filter (fun m => m.op == 0x30 && m.status == stOk)) (fun d m => d.modeCommand m.code)
  let d := d.forL (r.1.filter (fun m => !m.waits)) Dev.answerMsg
  let d := { d with host := { d.host with waiting := d.host.waiting ++ r.1.filter Msg.waits } }
  d.sessionsFreed

end Sys2Proof.Machine
end

