-- ==== Sys2Proof/Machine/Power.lean ====
section
/-! DEFINITION. Power modes, resets, start-up and the always-on island (ch. 19), slot choice (R424), and the faults of supervisor pairs, clock
domains and memories (R26, R28, R48). -/

namespace Sys2Proof.Machine

/-- Events of the group. -/
abbrev evSupLockstep : Nat := 0
/-- See `evSupLockstep`. -/
abbrev evMemUncorr : Nat := 1
/-- See `evSupLockstep`. -/
abbrev evClkFail : Nat := 2
/-- See `evSupLockstep`. -/
abbrev evWdtExpiry : Nat := 3
/-- See `evSupLockstep`. -/
abbrev evReset : Nat := 4
/-- See `evSupLockstep`. -/
abbrev evSvcRstStuck : Nat := 5
/-- See `evSupLockstep`. -/
abbrev evPwrParked : Nat := 6
/-- See `evSupLockstep`. -/
abbrev evRtcLost : Nat := 8
/-- See `evSupLockstep`. -/
abbrev evHarvPgLow : Nat := 9
/-- See `evSupLockstep`. -/
abbrev evHarvPgHigh : Nat := 10
/-- See `evSupLockstep`. -/
abbrev evTamper : Nat := 11

/-- Object identifiers of BEAT, RIM and HARV. -/
abbrev oHarv : Nat := 0xB1000000

/-- Reset causes (Table 19.2). -/
abbrev rsAonPor : Nat := 0
/-- See `rsAonPor`. -/
abbrev rsPorst : Nat := 1
/-- See `rsAonPor`. -/
abbrev rsBrownout : Nat := 2
/-- See `rsAonPor`. -/
abbrev rsService : Nat := 3
/-- See `rsAonPor`. -/
abbrev rsWatchdog : Nat := 4
/-- See `rsAonPor`. -/
abbrev rsRequested : Nat := 5
/-- See `rsAonPor`. -/
abbrev rsDarkExit : Nat := 6

/-! ## What a reset keeps (log entry 50) -/

/-- Report parameters that a reset keeps: counts since manufacture, and what the always-on island holds. -/
def keptRows : List Par :=
  [Par.pwrWakeCause, Par.pwrResetCause, Par.pwrResets, Par.pwrBrownouts, Par.pwrWdtExpiries, Par.pwrSvcStuck, Par.pwrSupplyOk,
   Par.pwrAonSource, Par.pwrRtcValid, Par.pwrTj, Par.pwrTempEntries, Par.lidBootCount, Par.metrLostCount, Par.metrLostBound,
   Par.metrLostTime, Par.beatUtcOffset, Par.beatBeatCount]

/-- Counters of the health counters region (Table 1.5): of ECC, overruns, links and faults. Which counters these are is the model's choice (DESIGN
CHOICE, log entry 77). -/
def healthRows : List Par :=
  [Par.devEccCorrected, Par.devEccUncorrected, Par.devSupRestarts, Par.ctxOverruns, Par.spokeFramesLost, Par.spokeCrcErrors, Par.weavePortCrc,
   Par.weavePortDowns, Par.linkUnsealedDrops, Par.linkDupDrops, Par.ringOverflows, Par.cellDesatCount, Par.cellShortCount, Par.cellUvloFaults,
   Par.armArmFaults, Par.legTrips, Par.portTrips, Par.winTripCount, Par.rimTestsFailed, Par.rimLockouts]

/-- The health counters region with the counts of the start that ends: the parameters themselves begin again at 0 (R34). -/
def Dev.healthSaved (d : Dev) : Tab Nat :=
  (d.par.filter (fun e => healthRows.contains ⟨e.1 / 65536 / 16777216, e.1 % 65536⟩)).foldl
    (fun (t : Tab Nat) (e : Nat × W64) => Tab.set (fun _ => 0) t e.1 (Tab.get (fun _ => 0) t e.1 + e.2.toNat)) d.pwr.health

/-- The parameter behind a key survives a reset: settings, kept rows, HARV, and over a warm reset the Rim's. -/
def keptKey (warm : Bool) (k : Nat) : Bool :=
  let p : Par := ⟨k / 65536 / 16777216, k % 65536⟩
  settingKey true k || keptRows.contains p || p.cls == 0xB1 || (warm && p.cls == 0x70)

/-- A subscription keeps its settings over a reset. -/
def SvSub.fresh (x : SvSub) : SvSub := { x with frames := 0, absent := true }

/-- Stores of the Lid that survive a reset (R29, R30): keys, fuses, update region, slots, settings. -/
def LidSt.kept (l : LidSt) : LidSt :=
  { keys := l.keys, epoch := l.epoch, fuses := l.fuses, boot := l.boot, own := l.own, bitmap := l.bitmap, slots := l.slots
    schema := l.schema, retained := l.retained, stored := l.stored, storedDigest := l.storedDigest, running := l.running }

/-- What of the power side survives a reset: pins, the island, stores. -/
def PwrSt.kept (x : PwrSt) : PwrSt :=
  { porst := x.porst, cause := x.cause, auxLow := x.auxLow, stuck := x.stuck, tamper := x.tamper, island := x.island, temp := x.temp
    straps := x.straps, rimStraps := x.rimStraps, energies := x.energies, alarm := x.alarm, exitCause := x.exitCause
    health := x.health }

/-- The device without what a reset clears; weave time, logs and stores stay. -/
def Dev.cleared (d : Dev) (ph : Phase) (warm : Bool) : Dev :=
  { now := d.now, beatStart := d.beatStart, beatLen := d.beatLen, free := d.free, phase := ph
    par := d.par.filter (fun e => keptKey warm e.1)
    evt := { log := d.evt.log, logPos := d.evt.logPos, seq := d.evt.seq, toLog := d.evt.toLog, early := d.evt.early }
    host := { sv := d.host.sv.map (fun e => (e.1, e.2.fresh)) }
    rim := if warm then d.rim else { active := d.rim.active, staged := d.rim.staged, mv := d.rim.mv }
    met := { slots := d.met.slots, lost := d.met.lost }
    lid := d.lid.kept, pwr := ({ d.pwr with health := d.healthSaved } : PwrSt).kept
    pins := if warm then { rimTp := d.pins.rimTp } else {}
    sup := { unlocked := setBit 0xFE cdTb (!warm || bit d.sup.unlocked cdTb) + b2n (bit d.sup.unlocked cdAon) } }

/-- A cold reset is asserted (R430, R434, R435). -/
def Dev.coldReset (d : Dev) (cause : Nat) : Dev :=
  let d := (d.cleared .held false).put Par.beatTimeState 0 tmAon
  { d with pwr := { d.pwr with cause := cause, press := none } }

/-- A warm reset starts (R295, R435): the RESET record is written first. -/
def Dev.warmReset (d : Dev) (cause : Nat) : Dev :=
  let d := if d.metRuns then d.metRecord mcReset else d
  let d := d.cleared .warm true
  { d with pwr := { d.pwr with cause := cause } }

/-! ## Release and slot choice (R424, R435, R439) -/

/-- Reconcile the rollback mirror with the counter (R415). -/
def Dev.reconcile (d : Dev) : Dev :=
  let m := d.bootRec.mirror
  if d.lid.fuses < m then
    let d := { d with lid := { d.lid with fuses := min 256 m } }
    (d.raise evLidRollbackAdvance oLid).tallyKeys
  else if m < d.lid.fuses then d.bootWrite { d.bootRec with mirror := d.lid.fuses }
  else d

/-- boot_state codes (Table 18.9). -/
abbrev bsNormal : Nat := 0
/-- See `bsNormal`. -/
abbrev bsTrial : Nat := 1
/-- See `bsNormal`. -/
abbrev bsReverted : Nat := 2
/-- See `bsNormal`. -/
abbrev bsFallback : Nat := 3

/-- Choose the slot and verify it (R422, R424, R426): the chosen one, the other, or recovery. -/
def Dev.slotChoice (d : Dev) : Dev :=
  let b := d.bootRec
  let trial := b.pending != 255 && !b.started
  let (d, slot, st) :=
    if trial then (d.bootWrite { b with started := true, start := d.now }, b.pending, bsTrial)
    else if b.pending != 255 then (d.bootWrite { b with pending := 255, started := false }, b.active, bsReverted)
    else (d, b.active, bsNormal)
  let other := 1 - slot
  let run := fun (d : Dev) (s st : Nat) =>
    ({ d with phase := .rom, lid := { d.lid with running := s, trial := st == bsTrial } }).put Par.updBootState 0 st
  if (d.slotFault slot).isNone then run d slot st
  else if (d.slotFault other).isNone then
    ((run d other bsFallback).bootWrite { d.bootRec with active := other }).raise evLidBootFallback oUpd
  else
    let d := ({ d with phase := .recovery }).setSess 0 { isOpen := true, auth := true, lastMsg := d.now }
    (d.pairRings 0 0 1).put Par.linkSessions 0 1

/-- The beat in progress is that of the grid in force in which the weave time lies (R35). -/
def Dev.anchorBeat (d : Dev) : Dev :=
  let bt := d.beatTicks
  let ph := d.get Par.beatBeatPhase 0
  { d.beginBeat (beatAt bt ph (beatOf bt ph d.now)) with now := d.now }

/-- The release of a reset (R435): the metering record is loaded, the tally zeroed, the Rim started unless it kept running, the slot chosen. -/
def Dev.release (d : Dev) (warm : Bool) (straps rimStraps : Nat) : Dev :=
  let d := { d with phase := .rom, pwr := { d.pwr with porst := false, straps := straps, rimStraps := if warm then d.pwr.rimStraps else rimStraps,
                                                       alarm := none, exitCause := none } }
  let d := (d.put Par.pwrResetCause 0 d.pwr.cause).inc 32 Par.pwrResets 0
  let d := if warm then d else d.put Par.pwrSupplyOk 0 0x3D
  let d := (d.inc 32 Par.lidBootCount 0).raise evReset oPwr d.pwr.cause
  let d := if warm then d else d.rimStart
  let d := (d.metLoad.winStart).tallyZero
  (d.tallyExtend 0 Config.bootRomDigest).reconcile.slotChoice

/-- PORSTn goes low (R434, R449): a reset, but in DARK only noted. -/
def Dev.porstLow (d : Dev) : Dev :=
  let d := { d with pwr := { d.pwr with porst := true } }
  if d.phase = .dark ∨ d.phase = .held then d else d.coldReset rsPorst

/-- PORSTn goes high (R434, R435). -/
def Dev.porstHigh (d : Dev) (straps rimStraps : Nat) : Dev :=
  if d.phase = .held ∧ d.pwr.island then d.release false straps rimStraps
  else { d with pwr := { d.pwr with porst := false } }

/-- A monitored rail has been low for 2 µs (R430). In DARK the main rails may be absent (R446). -/
def Dev.brownOut (d : Dev) (rail : Nat) : Dev :=
  let used := if rail = 1 then d.pins.loopEn else if 6 ≤ rail then d.sup.ddrMiB != 0 && d.full else true
  let e := d.putBit Par.pwrSupplyOk 0 rail false
  if d.phase = .dark ∨ d.phase = .held then e
  else if !used then d
  else (e.inc 32 Par.pwrBrownouts 0).coldReset rsBrownout

/-- The 10 µs of a warm reset are over (R435). -/
def Dev.warmRelease (d : Dev) (straps rimStraps : Nat) : Dev := if d.phase = .warm then d.release true straps rimStraps else d

/-- The boot loader starts (R409, Table 18.3), with the SUP clock (Table 19.3). -/
def Dev.loaderStart (d : Dev) : Dev :=
  if d.phase ≠ .rom ∨ !(d.clkOk cdSup) then d
  else
    let g := d.imageDigests
    { ((d.tallyExtend 1 g.1).tallyExtend 1 g.2.1) with phase := .loader }

/-- Apply the occurrences detected before the firmware started, each with its own TS64 (R459, R460). -/
def Dev.applyEarly (d : Dev) : Dev :=
  let es := d.evt.early
  let d := { d with evt := { d.evt with early := [] } }
  d.forL es (fun d e => d.occur e.ev e.ts e.obj e.detail e.tq e.logged)

/-- Stored energies are restored, uncalibrated (R234). -/
def Dev.energyRestore (d : Dev) : Dev :=
  d.forN 32 (fun d p =>
    let d := d.setPort p { d.port p with energy := d.pwr.energies.get (fun _ => d0) p }
    d.putBit Par.portStatus p 5 true)

/-- Stored energies of the storage ports are saved (R234). -/
def Dev.energySave (d : Dev) : Dev :=
  d.forN 32 (fun d p =>
    if d.isPv p then d
    else { d with pwr := { d.pwr with energies := d.pwr.energies.set (fun _ => d0) p (d.port p).energy } })

/-- The firmware section is verified and started; settings and tables are loaded (R64, R409, R411, R427, R459). -/
def Dev.firmwareStart (d : Dev) : Dev :=
  if d.phase ≠ .loader ∨ !(d.clkOk cdSup) ∨ !(d.firmwareOk d.lid.running) then d
  else
    let x := d.slot d.lid.running
    let d := { (d.tallyExtend 2 d.imageDigests.2.2) with phase := .firmware }
    let d := (d.put Par.devFwVersion 0 x.version).put Par.devFwSchema 0 x.schema
    let d := d.applyEarly.settingsCheck.loadTables.tallyKeys.energyRestore
    let o := 1 - d.lid.running
    let d := d.put Par.updInactiveVersion 0 (if (d.slotFault o).isNone then (d.slot o).version else 0)
    if d.get Par.updBootState 0 = bsReverted then d.raise evUpdReverted oUpd else d

/-- What every entry to RUN does (R185, R206, R267, R356, R370, R433). -/
def Dev.enterRun (d : Dev) (ddr : Nat) : Dev :=
  let d := { d with sup := { d.sup with ddrMiB := ddr }, weave := { d.weave with partnerMiss := 0 } }
  let d := d.put Par.pwrSupplyOk 0 (setField (d.get Par.pwrSupplyOk 0) 6 2 (if ddr = 0 then 0 else 3))
  let d := d.putBit Par.pwrSupplyOk 0 1 true
  let d := d.setStake (strapNo d.pwr.straps) false
  let d := d.forN 24 Dev.adcCalStart
  d.forN 4 (fun d g => (d.gridFreqInit g).put Par.isldCodeIndex g (d.codeIndex g))

/-- Entry to RUN at the end of the start-up (R439). -/
def Dev.runEntry (d : Dev) (ddr : Nat) : Dev :=
  if d.phase ≠ .firmware ∨ !(d.clkOk cdSup) then d
  else
    let was := d.winMode
    let d := ({ d with phase := .run }).put Par.pwrMode 0 pmRun
    let d := (d.enterRun ddr).put Par.beatTimeState 0 tmFree
    (d.winModes was).anchorBeat

/-! ## Power mode PARKED (R441 to R445) -/

/-- Every stream stops at an exit from RUN (R308); data in LPDDR4X are lost (R31). -/
def Dev.capExit (d : Dev) (n : Nat) : Dev :=
  let st := d.get Par.capState n
  let ddr := d.get Par.capMem n == 1
  let held := fun (d : Dev) => ((d.cap n).closed.map (fun b => b.samples.length)).sum
  if st = csIdle then d
  else if st = csStream then
    let d := d.endStream n
    let k := held d
    let d := if ddr ∧ 0 < k then ((d.setCap n { d.cap n with closed := [] }).capGap n 4 k).gapFlush n else d
    d.setCap n { d.cap n with stopping := true, restart := true }
  else if st = csDeliver then
    let k := held d
    if !ddr ∨ k = 0 then d
    else
      -- What is left of the capture is one block without samples, the last, with the gap in its header.
      let seq := (((d.cap n).closed.head?).map (·.seq)).getD 0
      let b : Blk := { d.newBlk n d.now with seq := seq, gapCause := 4, gapCount := min k 4294967295, last := true }
      (d.setCap n { d.cap n with closed := [b] }).gapNote n k
  else
    let k := (d.cap n).pre.length + (d.cap n).post.length
    (if ddr ∧ 0 < k then d.gapNote n k else d).capIdle n

/-- A stream that the exit stopped restarts at the return to RUN (R304, R308). -/
def Dev.capResume (d : Dev) (n : Nat) : Dev :=
  let x := d.cap n
  if x.restart then
    let d := d.startStream n (some (6, 0))
    (d.setCap n { d.cap n with closed := x.closed }).gapNote n 0
  else d

/-- AUTO_PARK (R441): park_hold has passed in converter kind PARKED. -/
def Dev.autoPark (d : Dev) : Dev :=
  if d.up ∧ d.pmode = pmRun ∧ d.kind = kParked ∧ d.isOn Par.pwrAutoPark 0 then { d with pwr := { d.pwr with autoDue := true } } else d

/-- Entry to PARKED starts at a boundary (R441, R442): the next BEAT_PKT carries DEPART, and PASS with the token. -/
def Dev.parkStart (d : Dev) : Dev :=
  let idle := (List.range 32).all (fun n => d.get Par.capState n == csIdle)
  if d.pmode ≠ pmRun then d
  else if d.kind ≠ kParked then { d with pwr := { d.pwr with parkReq := false, autoDue := false } }
  else if d.pwr.parkReq || (d.pwr.autoDue && d.isOn Par.pwrAutoPark 0 && idle) then
    let d := d.put Par.pwrMode 0 pmParking
    { d with pwr := { d.pwr with parkReq := false, autoDue := false, wakeHeld := none }
             weave := { d.weave with depart := true, passing := d.weave.passing || (d.tokenNext && d.paired) } }
  else d

/-- The weave side at an exit from RUN (R357, R373): ports DOWN, other stakes absent, the token and an assigned number given up. -/
def Dev.weaveLeave (d : Dev) : Dev :=
  let d := d.forN 4 (fun d p => d.weftDown p)
  let d := d.setToken false
  let me := d.stakeNo
  let keep := if d.isOn Par.weaveAssigned 0 then none else d.weave.stake
  let d := d.forN 64 (fun d s => if s ≠ me ∧ d.isOn Par.stakePresent s then
    ((d.put Par.stakePresent s 0).inc 32 Par.stakeAbsences s).raise evStakeAbsent (oStake s) else d)
  let d := d.put Par.weavePairState 0 paNone
  let d := { d with weave := { ports := d.weave.ports, seqs := d.weave.seqs, stake := keep, mismatch := d.weave.mismatch } }
  d.setStake keep false

/-- The entry sequence completes (R442): captures stop, the blocks that run only in RUN stop (every context is STOPPED, R157), links go down,
PWR_PARKED. -/
def Dev.parkingComplete (d : Dev) : Dev :=
  if !d.up ∨ d.pmode ≠ pmParking then d
  else
    let was := d.winMode
    let d := (d.forN 32 Dev.capExit).weaveLeave
    let d := d.forN 128 (fun d c => d.put Par.ctxState c xsStopped)
    let d := (d.put Par.pwrMode 0 pmParked).winModes was
    let d := (d.linkDown 0).linkDown 2
    let dead := [cdLoop, cdSpk, cdWeft, cdMem].foldl (fun m k => setBit m k true) d.sup.unlocked
    let d := { d with sup := { d.sup with unlocked := dead, ddrMiB := 0 }, pwr := { d.pwr with parkedAt := d.now } }
    let d := ((d.putBit Par.pwrSupplyOk 0 1 false).putBit Par.pwrSupplyOk 0 6 false).putBit Par.pwrSupplyOk 0 7 false
    let d := d.raise evPwrParked oPwr
    match d.pwr.wakeHeld with
    | some c => ({ d with pwr := { d.pwr with wakeHeld := none } }).wake c
    | none => d

/-- WAKEn has been low for 1 ms (R444, R448). -/
def Dev.wakePin (d : Dev) : Dev :=
  if d.phase = .dark then
    (if d.pwr.exitCause.isNone ∧ d.islandOn then ({ d with pwr := { d.pwr with exitCause := some wcWakePin } }).put Par.pwrWakeCause 0 wcWakePin else d)
  else d.wake wcWakePin

/-- park_wake_s has passed since the entry (R444). -/
def Dev.parkTimer (d : Dev) : Dev :=
  if bit (d.get Par.pwrWakeMask 0) 1 ∧ d.get Par.pwrParkWakeS 0 ≠ 0 ∧ d.pmode = pmParked then d.wake wcTimer else d

/-- The wake reaches RUN (R308, R443, R444), just before the boundary's evaluation: the held request becomes the COMMAND term. -/
def Dev.wakeRun (d : Dev) (ddr : Nat) : Dev :=
  let was := d.winMode
  let d := d.put Par.pwrMode 0 pmRun
  let d := (d.enterRun ddr).winModes was
  let d := { d with host := { d.host with modeReq := d.host.heldReq.toList, heldReq := none } }
  (d.forN 32 Dev.capResume).actionsRun

/-! ## DARK (R446 to R449) -/

/-- Entry to DARK (R51, R295, R446). -/
def Dev.darkEntry (d : Dev) : Dev :=
  if !d.up ∨ d.pmode ≠ pmParked ∨ !d.pwr.darkReq then d
  else
    let secs := d.get Par.pwrDarkWakeS 0
    let d := d.metRecord mcClean
    let d := ((d.cleared .dark false).put Par.pwrMode 0 pmDark).put Par.beatTimeState 0 tmAon
    { d with beatStart := d.now, pwr := { d.pwr with alarm := if secs = 0 then none else some (d.now + secs * fineS), exitCause := none } }

/-- An exit cause from DARK (R448). -/
def Dev.darkExit (d : Dev) (c : Nat) : Dev :=
  if d.phase = .dark ∧ d.pwr.exitCause.isNone ∧ d.islandOn then
    ({ d with pwr := { d.pwr with exitCause := some c } }).put Par.pwrWakeCause 0 c
  else d

/-- AUX_FAILn has been high for 10 ms (R448). -/
def Dev.auxHigh (d : Dev) : Dev :=
  let d := if d.pwr.auxLow then d.darkExit wcAux else d
  { d with pwr := { d.pwr with auxLow := false } }

/-- The weave time reaches the alarm (R448). -/
def Dev.darkAlarm (d : Dev) : Dev := if d.pwr.alarm.isSome then d.darkExit wcAlarm else d

/-- The conditions of R449 hold: the release of a cold reset with cause DARK_EXIT. -/
def Dev.darkRelease (d : Dev) (straps rimStraps : Nat) : Dev :=
  if d.phase = .dark ∧ d.pwr.exitCause.isSome ∧ !d.pwr.porst then
    let d := d.put Par.pwrMode 0 pmRun
    ({ d with pwr := { d.pwr with cause := rsDarkExit } }).release false straps rimStraps
  else d

/-! ## Service reset and watchdog (R436, R437) -/

/-- SVC_RSTn counts: not while PORSTn is low, not in DARK. -/
def Dev.svcOn (d : Dev) : Bool := d.phase != .held && d.phase != .dark

/-- A press starts, after the pin had read high for some milliseconds (R436). -/
def Dev.svcPress (d : Dev) (highFor : Nat) : Dev :=
  if !d.svcOn ∨ (d.pwr.stuck ∧ highFor < 1000) then d
  else { d with pwr := { d.pwr with press := some d.now, stuck := false } }

/-- A press is still held at 10 s (R436). -/
def Dev.svcStuck (d : Dev) : Dev :=
  if d.pwr.press.isNone ∨ !d.svcOn then d
  else (({ d with pwr := { d.pwr with press := none, stuck := true } }).inc 32 Par.pwrSvcStuck 0).raise evSvcRstStuck oPwr

/-- A press of 20 ms to 10 s ends (R436). -/
def Dev.svcReset (d : Dev) : Dev := if d.pwr.press.isSome ∧ d.svcOn ∧ d.phase ≠ .warm then d.warmReset rsService else d

/-- The watchdog expires (R437): the island writes the log entry, then a warm reset. -/
def Dev.watchdog (d : Dev) : Dev :=
  if d.phase = .held ∨ d.phase = .dark ∨ d.phase = .warm then d
  else
    let d := (d.inc 32 Par.pwrWdtExpiries 0).islandLog evWdtExpiry oPwr 0
    let e : EarlyOcc := { ev := evWdtExpiry, ts := d.now, obj := oPwr, detail := 0, tq := d.get Par.beatTimeState 0, logged := d.islandOn }
    let d := { d with evt := { d.evt with early := d.evt.early ++ [e] } }
    d.warmReset rsWatchdog

/-! ## The always-on island and the harvester (R447, R451 to R455) -/

/-- TAMPERn changes (R447). -/
def Dev.tamperChange (d : Dev) (level : Bool) : Dev :=
  if !d.islandOn then d
  else ({ d with pwr := { d.pwr with tamper := level } }).raise evTamper oPwr (b2n level) true

/-- A temperature log entry (R447, R456); clock-only state takes none (R451). -/
def Dev.tempLog (d : Dev) (tj mv : Nat) : Dev :=
  if !d.islandOn ∨ d.get Par.pwrAonSource 0 = 2 then d
  else
    let e : TempEntry := { minute := d.now / (60 * fineS) % 2 ^ 32, tj := sgn 16 tj, mv := mv }
    (({ d with pwr := { d.pwr with temp := lastN 1024 (d.pwr.temp ++ [e]) } }).inc 32 Par.pwrTempEntries 0).putI Par.pwrTj 0 (sgn 16 tj)

/-- HARV_PG rises or falls (R455). -/
def Dev.pgChange (d : Dev) (rising : Bool) (vstore : F32) : Dev :=
  if !d.islandOn then d
  else
    let d := d.putF Par.harvVstore 0 vstore
    if d.get Par.harvPg 0 = b2n rising then d
    else
      let was := d.get Par.harvPg 0
      let d := d.put Par.harvPg 0 (b2n rising)
      if rising then d.raise evHarvPgHigh oHarv 1 true
      else if was = 1 then (d.inc 32 Par.harvPgFalls 0).raise evHarvPgLow oHarv 0 true
      else d

/-- VSTORE reaches 1.20 V: the controlled stage takes over, with enable (R453). -/
def Dev.harvControlled (d : Dev) (vstore : F32) : Dev :=
  let d := d.putF Par.harvVstore 0 vstore
  d.put Par.harvState 0 (if d.isOn Par.harvEnable 0 then 2 else 0)

/-- VSTORE falls below 1.00 V (R453). -/
def Dev.harvCold (d : Dev) (vstore : F32) : Dev := ((d.putF Par.harvVstore 0 vstore).put Par.harvState 0 1).inc 32 Par.harvColdStarts 0

/-- VSTORE reaches 3.00 V (R454). -/
def Dev.harvFull (d : Dev) (vstore : F32) : Dev :=
  let d := d.putF Par.harvVstore 0 vstore
  if d.get Par.harvState 0 = 2 ∨ d.get Par.harvState 0 = 4 then d.put Par.harvState 0 3 else d

/-- VSTORE falls below 2.95 V (R454). -/
def Dev.harvResume (d : Dev) (vstore : F32) : Dev :=
  let d := d.putF Par.harvVstore 0 vstore
  if d.get Par.harvState 0 = 3 then d.put Par.harvState 0 2 else d

/-- The controlled stage samples v_oc (R454): fraction × v_oc below 10 mV is state LOW. -/
def Dev.harvSample (d : Dev) (voc vteg vstore : F32) : Dev :=
  if d.get Par.harvState 0 < 2 then d
  else
    let d := ((d.putF Par.harvVOc 0 voc).putF Par.harvVTeg 0 vteg).putF Par.harvVstore 0 vstore
    if d.get Par.harvState 0 = 3 then d
    else d.put Par.harvState 0 (if flt (fmul (d.getF Par.harvFraction 0) voc) 0x41200000 then 4 else 2)

/-- The island changes its source (R451): before clock-only state it writes a HARV_PG_LOW entry, unless the fall of HARV_PG that takes it there
has written it. -/
def Dev.islandSource (d : Dev) (src : Nat) : Dev :=
  if !d.islandOn then d
  else
    let old := d.get Par.pwrAonSource 0
    let logged := old == 1 && d.get Par.harvPg 0 == 0
    let d := if src = 2 ∧ old ≠ 2 ∧ !logged then d.islandLog evHarvPgLow oHarv 0 else d
    d.put Par.pwrAonSource 0 src

/-- The island loses every source (R452): it stops with its clock, and the whole device is in reset. -/
def Dev.islandLost (d : Dev) : Dev :=
  let d := d.coldReset rsAonPor
  { d with sup := { d.sup with unlocked := setBit d.sup.unlocked cdAon true },
           par := d.par.filter (fun e => e.1 / 65536 / 16777216 != 0xB1),
           pwr := { d.pwr with island := false, alarm := none, exitCause := none } }

/-- TS64 of the latest entry of the event log; 0 in an empty log. -/
def Dev.logLatest (d : Dev) : Nat :=
  let e := d.evt.log.get (fun _ => List.replicate 32 0xFF) ((d.evt.logPos + 4095) % 4096)
  if leAt e 0 4 = 0xFFFFFFFF then 0 else leAt e 8 8

/-- The island starts again, once its clock is usable (R47, R452, R455): RTC_LOST, weave time from the log, HARV_PG undetermined unless VSTORE is below its band. -/
def Dev.islandStart (d : Dev) (src : Nat) (vstore : F32) (below : Bool) : Dev :=
  if d.pwr.island ∨ !(d.clkOk cdAon) then d
  else
    let t := d.logLatest
    let d := { d with pwr := { d.pwr with island := true, cause := rsAonPor }, now := t, beatStart := t, phase := .held }
    let d := ((d.put Par.pwrAonSource 0 src).put Par.pwrRtcValid 0 0).putF Par.harvVstore 0 vstore
    let d := (d.put Par.harvPg 0 (if below then 0 else 2)).put Par.beatTimeState 0 tmFree
    d.raise evRtcLost oPwr 0 true

/-! ## Faults of pairs, clocks and memories (R26, R28, R48) -/

/-- A fault of a supervisor pair (R26): it is reset; a holder with its partner present passes the token, else a fault of the control pair
requests a converter trip; a fault of the service pair ends the host sessions (R377) and makes the sampled-value criterion false (R22). -/
def Dev.pairFault (d : Dev) (pair : Nat) : Dev :=
  let d := { d with sup := { d.sup with halted := setBit d.sup.halted pair true } }
  let d := if d.full && d.tokenNext && d.paired then { d with weave := { d.weave with passing := true } }
    else if pair = 0 then { d with mode := { d.mode with tripReq := true } } else d
  if pair = 1 then (d.forN 80 Dev.sessionEnd).forN 4 (fun d g => d.setIsl g { d.isl g with sv := false, svDev := [] }) else d

/-- A lockstep mismatch (R26). In PARKED the control pair is halted already. -/
def Dev.lockstep (d : Dev) (pair : Nat) : Dev :=
  if !d.up ∨ (pair = 0 ∧ d.pmode = pmParked) then d else (d.raise evSupLockstep oDev).pairFault pair

/-- A pair's firmware has restarted (R26, R34): the actions that waited for it run. -/
def Dev.pairRestarted (d : Dev) (pair : Nat) : Dev :=
  if !(bit d.sup.halted pair) then d
  else (({ d with sup := { d.sup with halted := setBit d.sup.halted pair false } }).inc 32 Par.devSupRestarts 0).actionsRun

/-- A slot of a ring cannot be read (R28): it is discarded and its message answered BAD_STATE. In a ring that the host fills the message is
answered when its turn comes; a response gives way to one with that status; a slot of another ring is left blank (log entry 51). -/
def Dev.slotLost (d : Dev) (n slot : Nat) : Dev :=
  let depth := d.get Par.ringDepth n
  let k := (slot + depth - d.get Par.ringTail n % depth) % depth
  let x := d.ring n
  if hostRing n then (if slot < depth then d.setRing n { x with bad := x.bad ++ [slot] } else d)
  else match x.slots[k]? with
    | none => d
    | some m =>
      let answer := (16 ≤ n ∧ n < 32) ∨ (72 ≤ n ∧ n < 80)
      let m' := if answer then mkMsg (byteAt m 1) (leAt m 4 4) (leAt m 8 2) stBadState flResponse (leBytes 8 d.now) else []
      (d.slotPut n (d.get Par.ringTail n + k) m' []).setRing n { x with slots := x.slots.set k m' }

/-- An uncorrectable error is read (R28). -/
def Dev.memUncorr (d : Dev) (r : MemRegion) : Dev :=
  if !d.up then d
  else
    let d := (d.inc 32 Par.devEccUncorrected 0).raise evMemUncorr oDev
    match r with
    | .control => d.pairFault 0
    | .capture s pos => if d.get Par.capState s.val = csIdle then d else d.capEcc s.val pos
    | .supervisor pair => d.pairFault pair.val
    | .ring n slot => d.slotLost n.val slot.val
    | .other => d

/-- A converter-mode change is told to every session at once (R396). -/
def Dev.modeTold (d : Dev) (old : Option Nat) (n : Nat) : Dev :=
  if d.mode.state != old || d.get Par.modeEntries ((d.mode.state).getD 0) != n then d.heartbeats else d

/-- Without the TB clock no beat boundary comes: a converter trip takes effect at once (R48), and in PARKED it wakes (R443). -/
def Dev.tripNow (d : Dev) : Dev :=
  match d.fixedTarget false with
  | some t =>
    if !d.up ∨ d.modeHeld ∨ d.kindOf t ≠ kTripped then d
    else
      let e := (d.enterState t false).modeDone
      (if d.full then e else e.wake wcTransition).modeTold d.mode.state (d.get Par.modeEntries t)
  | none => d

/-- A clock domain loses lock (R48). -/
def Dev.clkFail (d : Dev) (dom : Nat) : Dev :=
  if bit d.sup.unlocked dom then d
  else
    let d := { d with sup := { d.sup with unlocked := setBit d.sup.unlocked dom true }, lid := { d.lid with clkFailed := true } }
    let d := d.raise evClkFail oDev
    let d := if dom = cdTb then d.tripLegs allLegs tcStop else d
    let d := if dom = cdTb ∨ dom = cdLoop ∨ dom = cdSpk then { d with mode := { d.mode with tripReq := true } } else d
    let d := if dom = cdTb then d.tripNow else d
    let d := if dom = cdWeft then d.forN 4 (fun d p => d.weftDown p) else d
    if dom = cdNet then ((d.linkDown 0).linkDown 1).linkDown 2 else d

/-- A clock domain locks after its start trigger (R47): LOOP, SPK and WEFT at an entry to RUN, and MEM where LPDDR4X is fitted. Beats take up the
grid as TB locks; actions that waited run as SUP does. -/
def Dev.clkLocked (d : Dev) (dom : Nat) : Bool × Dev :=
  let started := d.phase != .held && d.phase != .dark
  let run := d.full || (d.up && d.pmode == pmWaking)
  let ok := if dom = cdAon then true else if dom = cdTb ∨ dom = cdSup ∨ dom = cdNet then started
    else if dom = cdMem then run && d.sup.ddrMiB != 0 else run
  if !ok ∨ d.clkOk dom then (ok, d)
  else
    let d := { d with sup := { d.sup with unlocked := setBit d.sup.unlocked dom false } }
    (ok, if dom = cdTb then d.anchorBeat else if dom = cdSup then d.actionsRun else d)

end Sys2Proof.Machine
end

