-- ==== Sys2Proof/Machine/Beat.lean ====
section
/-! DEFINITION. The beat: what a beat boundary does (R35), the loop engine's run through a beat (R163, R170, R175, R176), the final step and the
end of the compute window (R37). -/

namespace Sys2Proof.Machine

/-! ## The loop engine (R170, R173, R175) -/

/-- What the engine runs in the present beat, in order: contexts that are due, in RUN or in FALLBACK with their mask bit set, and the steps that
run (R176, R181, R209, R225). -/
def Dev.engineItems (d : Dev) : List Item :=
  let cs := (List.range 128).filter (fun c =>
    let st := d.get Par.ctxState c
    (st == xsRun || (st == xsFallback && d.maskBit c)) && d.cDue false c d.beatNo)
  let steps := d.stepItems.filter (fun it => it.kind == 3 || d.gridRuns it.num)
  sortBy itemLt (cs.map (fun c => ⟨d.cOrder false c, 0, c⟩) ++ steps)

/-- A context's deadline in cycles (R175). -/
def Dev.ctxDeadline (d : Dev) (c : Nat) : Nat := if d.cVref false c then boundD d.windowTicks else boundC d.windowTicks

/-- A context in FALLBACK writes its fallback vector again in its place (R176). -/
def Dev.fallbackWrite (d : Dev) (c : Nat) : Dev :=
  (d.setCtx c { d.ctx c with u := d.fallbackVec c, fresh := true }).writeOuts c (d.fallbackVec c)

/-- Run a step that is complete at cycle `t` of the beat: its events carry that time. -/
def Dev.atCycle (d : Dev) (t : Nat) (f : Dev → Dev) : Dev := { f { d with now := d.beatStart + fineNs t } with now := d.now }

/-- A port step with what follows from it: allocation of its energy (R290), a burst request it forms (R236). -/
def Dev.portRun (d : Dev) (p : Nat) : Dev :=
  let d := d.portStep p
  let d := if bit (d.get Par.portStatus p) 0 then d else d.metAlloc p (d.getF Par.portPMeas p)
  if (d.port p).reqDue ∧ !(bit (d.get Par.portStatus p) 0) then d.burstDecide p else d

/-- The cycle at which an item reached at cycle `t` starts: a local context and the islanding and port steps do not start before cycle 200 (R170,
R209, R225). -/
def Dev.itemStart (d : Dev) (t : Nat) (it : Item) : Nat :=
  if it.kind = 2 ∨ it.kind = 3 ∨ ((it.kind = 0 ∨ it.kind = 4) ∧ d.cLocal false it.num = true) then max t 200 else t

/-- The cycles an item takes (R172, R181, R209, R225). -/
def Dev.itemCost (d : Dev) (it : Item) : Nat :=
  if it.kind = 1 then 48 else if it.kind = 2 then d.isldCost it.num else if it.kind = 3 then 12 else d.cCycles false it.num

/-- A context of a list has not started by its deadline at cycle `s`. -/
def Dev.overdue (d : Dev) (s : Nat) (its : List Item) : Bool := its.any (fun it => it.kind == 0 && decide (d.ctxDeadline it.num ≤ s))

/-- The gathering of context `c` at cycle `s`: the values, whether a strict input is missing, the device (R168). -/
def Dev.gatherAt (d : Dev) (c s : Nat) : List F32 × Bool × Dev :=
  let r := ({ d with now := d.beatStart + fineNs s } : Dev).gatherCtx c
  (r.1, r.2.1, { r.2.2 with now := d.now })

/-- The engine waits at context `c`, whose deadline comes before its last cycle: with `cycle` it goes on after the deadline. -/
def Dev.engineLate (d : Dev) (c : Nat) (rest : List Item) (cycle : Nat) : Dev :=
  { d.setCtx c { d.ctx c with late := true, lateCycle := d.ctxDeadline c } with eng := { rest := rest, cycle := cycle } }

/-- One execution of context `c` from cycle `s` to `fin` (R170, R175): the cycle at which the engine goes on, none where it waits for the context's
deadline. It gathers at its start and is complete at its last cycle; cause INPUT stops it after the first. -/
def Dev.engineCtx (d : Dev) (c s fin : Nat) (rest : List Item) : Option Nat × Dev :=
  if d.get Par.ctxState c = xsFallback then
    if d.ctxDeadline c < fin then (none, d.engineLate c rest fin) else (some fin, d.atCycle fin (fun d => d.fallbackWrite c))
  else
    let r := d.gatherAt c s
    if r.2.1 then (some (s + 1), r.2.2.overrun c ocInput (s + 1))
    else if d.ctxDeadline c < fin then (none, r.2.2.engineLate c rest (d.ctxDeadline c))
    else (some fin, r.2.2.atCycle fin (fun d => d.finishCtx c fin r.1))

/-- One step of a grid function, an islanding step, a port step, or the cycles of a context past its deadline, ending at cycle `fin`. -/
def Dev.engineFixed (d : Dev) (it : Item) (fin : Nat) : Dev :=
  if it.kind = 1 then d.atCycle fin (fun d => d.gridStep it.num)
  else if it.kind = 2 then d.atCycle fin (fun d => d.isldStep it.num)
  else if it.kind = 3 then d.atCycle fin (fun d => d.portRun it.num)
  else d

/-- The engine goes through its items from cycle `t` (R170, R175). Where a deadline passes first, it waits for it: the context at work is noted as
late, or the item is not begun. -/
def Dev.engineGo : List Item → Nat → Dev → Dev
  | [], _, d => { d with eng := {} }
  | it :: rest, t, d =>
    let s := d.itemStart t it
    let fin := s + d.itemCost it
    if d.overdue s (it :: rest) then { d with eng := { rest := it :: rest, cycle := t } }
    else if it.kind = 0 then
      let r := d.engineCtx it.num s fin rest
      match r.1 with
      | some t => Dev.engineGo rest t r.2
      | none => r.2
    else Dev.engineGo rest fin (d.engineFixed it fin)

/-- The loop engine runs through the beat from cycle 16 (R170), while its clock domain is locked (R48), as far as the first deadline that passes. The
islanding step of a GRID whose step does not run is idle. -/
def Dev.engineRun (d : Dev) : Dev :=
  let idle := (List.range 4).filter (fun g => !(d.clkOk cdLoop && d.gridRuns g))
  let d := if d.clkOk cdLoop then Dev.engineGo d.engineItems 16 d else { d with eng := {} }
  d.forL idle Dev.isldIdle

/-- A context's deadline has passed without its completion (R175, R176): an overrun in RUN, the write of the fallback vector in FALLBACK. -/
def Dev.passed (d : Dev) (c cycle : Nat) : Dev :=
  let d := d.setCtx c { d.ctx c with late := false }
  if d.get Par.ctxState c = xsRun then d.overrun c ocDeadline cycle
  else if d.get Par.ctxState c = xsFallback then d.fallbackWrite c
  else d

/-- The deadline at cycle `dl` passes (R175): of the context at work and of those not started, at one instant; then the engine goes on. It passes
an overrun context without spending cycles, and spends those of one in FALLBACK. -/
def Dev.deadlinePass (d : Dev) (dl : Nat) : Dev :=
  let e := d.eng
  let late := (List.range 128).filter (fun c => (d.ctx c).late && decide ((d.ctx c).lateCycle ≤ dl))
  let hit := fun (it : Item) => it.kind == 0 && decide (d.ctxDeadline it.num ≤ dl)
  let rest := e.rest.filterMap (fun it =>
    if hit it then (if d.get Par.ctxState it.num = xsFallback then some { it with kind := 4 } else none) else some it)
  if late = [] ∧ !(e.rest.any hit) then d
  else
    let d := d.forL late (fun d c => d.passed c (d.ctx c).lateCycle)
    let d := d.forL (e.rest.filter hit) (fun d it => d.passed it.num (d.ctxDeadline it.num))
    Dev.engineGo rest e.cycle d

/-- The deadline of a context passes (R175). -/
def Dev.deadline (d : Dev) (c : Nat) : Dev :=
  if (d.ctx c).late || d.eng.rest.any (fun it => it.kind == 0 && it.num == c) then d.deadlinePass (d.ctxDeadline c) else d

/-! ## Pieces of the boundary -/

/-- The mode table engine's evaluation, by power mode (R73, R443). -/
def Dev.modeBoundary (d : Dev) (switched : Bool) : Dev :=
  let old := d.mode.state
  let e := if d.full then d.modeRun switched else d.modePark switched
  e.modeTold old (d.get Par.modeEntries ((e.mode.state).getD 0))

/-- A weave-wide arm value is taken at its target beat (R318). -/
def Dev.armTarget (d : Dev) (n : Nat) : Dev :=
  let x := d.trig n
  match x.armNext with
  | some (v, b) => if b ≤ d.beatNo then (d.setTrig n { x with armNext := none }).trigArm n v x.autoHere else d
  | none => d

/-- A capture with rearm AUTO is armed again at the boundary after its delivery (R312). -/
def Dev.rearm (d : Dev) (n : Nat) : Dev := if (d.cap n).rearmNext then d.startStream n none else d

/-- Code indices follow the stake number and the pair (R206). -/
def Dev.codesFollow (d : Dev) : Dev :=
  let moved := (List.range 4).any (fun g => d.get Par.isldCodeIndex g != d.codeIndex g)
  if moved then (d.forN 4 (fun d g => d.put Par.isldCodeIndex g (d.codeIndex g))).clashEval else d

/-- The beat samples of the SAR channels and sigma-delta inputs (R264, R269), and the parameters that streams and triggers name. -/
def Dev.sampleBeat (d : Dev) (x : Samples) : Dev :=
  let d := d.forL (indexed (x.adc.take 24)) (fun d p => d.adcBeat p.1 p.2)
  let d := d.forN 32 (fun d n => (d.sdiBits n (x.sdi.getD n [])).sdiBeat n)
  d.sampleParams

/-- The randing scheduler's part at the start of a beat: the currents are latched, the arms passed, silent cells counted (R100, R112 to R125). -/
def Dev.armsBeat (d : Dev) : Dev :=
  let d := d.forN 24 Dev.armLatch
  let d := d.forN 24 Dev.armPass
  let d := d.forN 512 Dev.staleBeat
  d.forN 64 Dev.spokeBeat

/-- States that follow the converter-mode state at the boundary (R115, R156, R224, R246). -/
def Dev.followMode (d : Dev) : Dev :=
  let d := d.unblockAll.forN 32 Dev.portBoundary
  let d := d.forN 40 Dev.legBoundary
  let d := d.forN 24 Dev.armBoundary
  d.forN 128 Dev.ctxBoundary

/-- The boundary in power modes RUN and PARKING, from the mode table's evaluation on. -/
def Dev.beatFull (d : Dev) (x : Samples) (switched : Bool) : Dev :=
  let d := d.weaveBoundary.codesFollow.timeBoundary.mismatchBoundary
  let d := d.armsBeat
  let d := d.forN 4 Dev.isldBoundary
  let d := (d.modeBoundary switched).followMode.parkStart
  let d := (d.forN 16 Dev.armTarget).forN 32 Dev.rearm
  let d := d.forN 64 Dev.readbackBeat
  let d := ((d.sampleBeat x).sendArmCur false).sendTimes
  let d := d.forN 40 Dev.chopperStep
  let d := d.forN 128 Dev.ctxSync
  d.engineRun.signalsUsed

/-- The boundary in power modes PARKED and WAKING (R443). No port step comes, so burst requests that wait are answered (R236). -/
def Dev.beatParked (d : Dev) (switched : Bool) : Dev := (d.timeBoundary.modeBoundary switched).burstFlush

/-- The kinds in which the reset of an update is taken (R423), and in which reset_req is accepted (R438). -/
def Dev.stoppedKind (d : Dev) : Bool := d.offOrParked || d.kind == kTripped || d.kind == kLockout

/-- End of the boundary: the Lid's registers as attested in this beat (R413), beats counted, a reset that waits for the boundary. -/
def Dev.beatClose (d : Dev) : Dev :=
  let d := { d with lid := { d.lid with tallySnap := d.lid.tally, countSnap := d.lid.counts, fuseSnap := d.lid.fuses } }
  let d := d.inc 64 Par.devUptime 0
  if d.pwr.resetReq || (d.lid.resetWanted && d.stoppedKind) then d.warmReset rsRequested else d

/-- What is reckoned per beat as one ends: the dwell of the mode (R39), ECC corrections (R28), the engine's rate (R306). -/
def Dev.beatCount (d : Dev) (ecc : Nat) : Dev :=
  let d := { d with mode := { d.mode with held := d.mode.held + min d.beatLen (16 * d.beatTicks) } }
  let d := d.inc 32 Par.devEccCorrected 0 ecc
  d.forN 32 (fun d n => if (d.cap n).wrote = 0 then d else d.setCap n { d.cap n with wrote := 0 })

/-- The next beat starts at `t`, on an accepted new grid where that is its first boundary (R35, R39). -/
def Dev.nextBeat (d : Dev) (t : Nat) : Dev := (d.takeGrid t).beginBeat t

/-- A beat boundary (R35), at the end of the present beat. With `wake` a wake reaches RUN at it (R444). Without the TB clock there is
no beat; before the firmware runs, weave time and the beat number move on. A grid accepted at the boundary may cut the beat that starts there. -/
def Dev.beat (d : Dev) (x : Samples) (wake : Option Nat) : Dev :=
  if !(d.clkOk cdTb) then d
  else
    let d := if d.beatStart + d.beatLen < d.now then d.anchorBeat else d
    let t := d.beatStart + d.beatLen
    let d := (if d.up then d.weaveEnd.beatCount x.ecc else d).nextBeat t
    if !d.up then d
    else
      let d := d.applyWrites.nextBeat t
      let d := match wake with
        | some ddr => if d.pmode = pmWaking then d.wakeRun ddr else d
        | none => d
      let r := d.switchTables
      let d := if r.2.full then r.2.beatFull x r.1 else r.2.beatParked r.1
      d.beatClose

/-! ## The compute window (R37) -/

/-- The start of the last 15 % of the window, in ticks from the start of the beat. -/
def Dev.finalTicks (d : Dev) : Nat := d.windowTicks - d.windowTicks * 15 / 100

/-- A hold of a port's gates starts or ends (R228, R229). -/
def Dev.portHoldNext (d : Dev) (p : Nat) : Dev :=
  match (d.port p).holdNext with
  | some h => (d.setPort p { d.port p with holdNext := none }).portHold p h
  | none => d

/-- The scheduler's final step, once the deadline that falls on its start has passed (R126, R175, R176). -/
def Dev.finalPass (d : Dev) : Dev := (d.deadlinePass (boundD d.windowTicks)).finalStep

/-- The compute window ends (R37): the commands are final, signals go out (R365), spoke frames leave (R83, R84), the BEAT_PKTs leave (R354),
legs latch their set-points (R251). -/
def Dev.windowEnd (d : Dev) : Dev :=
  if !d.full || !(d.clkOk cdTb) then d
  else
    let d := (d.finalPass.deadlinePass (boundC d.windowTicks)).publish
    let d := (if d.clkOk cdSpk then d.spokesSend else d).forN 24 Dev.armRates
    let d := (d.sendArmCur true).sendBeatPkts
    let d := d.forN 40 Dev.legLatch
    d.forN 32 Dev.portHoldNext

end Sys2Proof.Machine
end

