-- ==== Sys2Proof/Machine/Flags.lean ====
section
/-! DEFINITION. What follows every command: the flags and pins that show the device's state (R464, Table 19.7), EVENT triggers of the
occurrences a command has caused (R314), and the wake causes that a change of the Rim, of a window or of a meter is (R444). -/

namespace Sys2Proof.Machine

/-- OR of the masks of a list. -/
def orAll (ms : List Nat) : Nat := ms.foldl (· ||| ·) 0

/-- EVT_OUT: the pins of every event whose flag is set (R464). -/
def Dev.evtPins (d : Dev) : BitVec 4 :=
  if d.evtUp then BitVec.ofNat 4 (orAll (((List.range 256).filter (fun n => d.isOn Par.evtFlag n)).map (fun n => d.get Par.evtPinMask n))) else 0

/-- Levels of the two gate pins of a leg: its signals after dead time, exchanged with swap (R252), low in every state but RUN and without the TB
clock (R48, R257), and never both high. -/
def Dev.gatePins (d : Dev) (n : Nat) : Bool × Bool :=
  let x := d.leg n
  if (x.hs || x.ls) && d.full && d.clkOk cdTb && d.get Par.legState n == lsRun then
    let hs := x.hs && !x.ls
    let ls := x.ls && !x.hs
    if d.isOn Par.legSwap n then (ls, hs) else (hs, ls)
  else (false, false)

/-- The Rim drives its pins: running, with the TB clock, not in recovery (R24, Table 19.7). -/
def Dev.rimDrives (d : Dev) : Bool := d.rim.running && d.clkOk cdTb && d.phase != .recovery

/-- Outputs whose channel `ch` toggles: energised and not in an off-test (R331, R332). -/
def Dev.rimToggles (d : Dev) (ch : Nat) : Nat :=
  if d.rimDrives then ((List.range 4).map (fun j => b2n (d.outOn j && !(bit d.rim.offRun (2 * j + ch))) * 2 ^ j)).sum else 0

/-- Sum of the bits at which a predicate holds. -/
def maskOf (k : Nat) (f : Nat → Bool) : Nat := ((List.range k).map (fun n => b2n (f n) * 2 ^ n)).sum

/-- The levels the device drives. -/
def Dev.pinsNow (d : Dev) : PinSt :=
  { gateH := BitVec.ofNat 40 (maskOf 40 (fun n => (d.gatePins n).1))
    gateL := BitVec.ofNat 40 (maskOf 40 (fun n => (d.gatePins n).2))
    evtOut := d.evtPins
    rimOutA := BitVec.ofNat 4 (d.rimToggles 0)
    rimOutB := BitVec.ofNat 4 (d.rimToggles 1)
    rimTp := if d.rim.running && d.phase != .recovery then d.pins.rimTp else 0
    sdiClk := BitVec.ofNat 4 (maskOf 4 d.sdiClock)
    loopEn := d.up && d.pmode != pmParked
    mainEnLow := d.phase == .dark && d.pwr.exitCause.isNone
    harvPg := d.get Par.harvPg 0 == 1 }

/-- A window of the mask has tripped since `old`. -/
def Dev.winTripped (d old : Dev) (mask : Nat) : Bool :=
  (List.range 64).any (fun w => bit mask w && d.get Par.winTripCount w != old.get Par.winTripCount w)

/-- ZC_TIMEOUT of an enabled element has changed since `old`. -/
def Dev.zcChanged (d old : Dev) : Bool :=
  (List.range 4).any (fun e => d.isOn Par.metrEnable e && (d.met1 e).timeout != (old.met1 e).timeout)

/-- Wake causes among the changes since `old` (R444). -/
def Dev.wakeScan (d old : Dev) : Dev :=
  let asleep := d.up && (d.pmode == pmParked || d.pmode == pmParking) && old.pmode == d.pmode
  let rim := [Par.rimState, Par.rimInLevel, Par.rimInDemand].any (fun p => d.get p 0 != old.get p 0)
  let grid := bit (d.get Par.pwrWakeMask 0) 0 && (d.winTripped old (d.get Par.pwrWakeWin 0) || d.zcChanged old)
  if !asleep then d else if rim then d.wake wcRim else if grid then d.wake wcGrid else d

/-- What follows a command that has taken the device from `old`: wake causes, EVENT triggers, rtc_valid (R456), the pins. -/
def Dev.settle (d old : Dev) : Dev :=
  let d := d.wakeScan old
  let d := Dev.serveFresh (d.evt.fresh.length + 64) d
  let d := if d.up && decide (d.get Par.beatTimeState 0 ≤ tmWeave) then d.put Par.pwrRtcValid 0 1 else d
  { d with pins := d.pinsNow }

end Sys2Proof.Machine
end

