-- ==== Sys2Proof/Machine/Operands.lean ====
section
/-! DEFINITION. The operands that commands share: the instant of a command, the header of a host message, the header of a weave message; and how a
command's effect is taken into the state. -/

namespace Sys2Proof.Machine

/-- Outcome of a command. -/
abbrev Out := Host.Outcome State Fault Refusal

/-- The island's count after `t` fine ticks (R51): whole AON periods of 195,312 and 195,313 fine ticks alternately. -/
def aonFloor (t : Nat) : Nat := t / 390625 * 390625 + (if 195312 ≤ t % 390625 then 195312 else 0)

/-- Weave time of an instant given in fine ticks from the start of the present beat, in DARK from the entry. Time does not go back, and while beats
run an instant at or past the end of the beat, which belongs to the next one (R36), is taken as the last of this one (log entry 52). In DARK the
island counts (R51). -/
def Dev.instant (d : Dev) (t : Nat) : Nat :=
  max d.now (d.beatStart + (if d.phase = .dark then aonFloor t else if d.up && d.clkOk cdTb then min t (d.beatLen - 1) else t))

/-- The device at an instant. -/
def Dev.atTime (d : Dev) (t : Nat) : Dev := { d with now := d.instant t }

/-- An effect at an instant, and what follows it. -/
def Dev.act (d : Dev) (t : Nat) (f : Dev → Dev) : Dev := (f (d.atTime t)).settle (d.atTime t)

/-- A command acts on the device at an instant; the queue is left alone. -/
def State.act (s : State) (t : Nat) (f : Dev → Dev) : State := { s with dev := s.dev.act t f }

/-- A command's outcome: the state with its effect. -/
def State.does (s : State) (t : Nat) (f : Dev → Dev) : Out := .next (s.act t f)

/-- A host message of a local session in its command ring (R380). -/
def State.host (s : State) (h : Hdr) (m : HostMsg) : Out := s.does h.t (fun d => d.hostMsg h m)

/-- A host's write of one parameter of an instance (R55). -/
def State.write (s : State) (h : Hdr) (p : Par) (i : Nat) (v : W64) : Out := s.does h.t (fun d => d.writeOne h p i v)

/-- A weave message (R351): its type, its payload, what it does where it is meant to go. -/
def State.weave (s : State) (h : WHdr) (kind : Nat) (body : List Byte) (f : Dev → Dev) : Out :=
  s.does h.t (fun d => d.wrx h kind body f)

/-- An effect while firmware serves the host. -/
def Dev.whenUp (d : Dev) (f : Dev → Dev) : Dev := if d.up then f d else d

/-- An effect of the pair that serves tables, descriptors, discovery and mode actions (R26). -/
def Dev.whenControl (d : Dev) (f : Dev → Dev) : Dev := if d.up && !d.controlHalted then f d else d

/-- An effect of the service pair (R26), in recovery as well. -/
def Dev.whenService (d : Dev) (f : Dev → Dev) : Dev := if d.pairHalted 1 then d else f d

/-- An effect on blocks that run only in power mode RUN, with the clock of a domain. -/
def Dev.whenOn (d : Dev) (dom : Nat) (f : Dev → Dev) : Dev := if d.full && d.clkOk dom then f d else d

end Sys2Proof.Machine
end

