-- ==== Sys2Proof/Machine/AnalogCmds.lean ====
section
/-! DEFINITION. The analogue front end (ch. 12): the meanings of the commands, one definition each. -/

namespace Sys2Proof.Machine

/-- ADC_CONVERSION (R263): any conversion but the beat sample. -/
def execAdcConversion (t : Nat) (n : Fin 24) (code : Int) (s : State) : Out :=
  s.does t (fun d => d.whenOn cdTb (fun d => d.adcConvert n.val code))

/-- ADC_CALIBRATE (R267): a host write of calibrate. -/
def execAdcCalibrate (h : Hdr) (n : Fin 24) (val : W64) (s : State) : Out :=
  s.write h Par.adcCalibrate n.val val

/-- ADC_CALIBRATION_DONE (R267): a calibration ends. -/
def execAdcCalibrationDone (t : Nat) (n : Fin 24) (off : Int) (gain : F32) (s : State) : Out :=
  s.does t (fun d => d.whenOn cdTb (fun d => d.adcCalDone n.val off gain))

/-- SDI_STUCK (R271): stuck_run equal bits have come. -/
def execSdiStuck (t : Nat) (n : Fin 32) (s : State) : Out :=
  s.does t (fun d => d.whenOn cdTb (fun d => d.sdiStuck n.val))

/-- WINDOW_COMPARATOR_CHANGE (R273): a comparator becomes ACTIVE or INACTIVE. -/
def execWindowComparatorChange (t : Nat) (w : Fin 64) (low : Bool) (active : Bool) (s : State) : Out :=
  s.does t (fun d => d.winChange w.val (b2n low) active)

/-- WIN_READBACK (R278): a host write of readback. -/
def execWinReadback (h : Hdr) (w : Fin 64) (val : W64) (s : State) : Out :=
  s.write h Par.winReadback w.val val

/-- READBACK_DONE (R278): a threshold check ends. -/
def execReadbackDone (t : Nat) (w : Fin 64) (codes : List Int) (s : State) : Out :=
  s.does t (fun d => d.whenOn cdTb (fun d => d.readbackDone w.val codes))

/-- THRESHOLD_CHECK_PERIOD (R279): check_period has passed. -/
def execThresholdCheckPeriod (t : Nat) (w : Fin 64) (s : State) : Out :=
  s.does t (fun d => d.whenOn cdTb (fun d => d.checkPeriod w.val))

/-- SDI_DECIMATED_SAMPLE (R269): a D-th modulator clock. -/
def execSdiDecimatedSample (t : Nat) (n : Fin 32) (bits : List Bool) (s : State) : Out :=
  s.does t (fun d => d.whenOn cdTb (fun d => (d.sdiBits n.val bits).sdiDecimated n.val))

end Sys2Proof.Machine
end

