-- ==== Sys2Proof/Machine/BeatCmds.lean ====
section
/-! DEFINITION. The beat, table sets and the compute window (ch. 2, 3, 7): the meanings of the commands, one definition each. -/

namespace Sys2Proof.Machine

/-- The three grid parameters, which are written together (R39). -/
def beatGridPar (which : Fin 3) : Par := ⟨0x02, which.val⟩

/-- BEAT_BOUNDARY (R35): the present beat ends at its fixed instant and the next one starts. -/
def execBeatBoundary (x : Samples) (s : State) : Out :=
  s.does s.dev.beatLen (fun d => d.beat x none)

/-- TABLE_SYNC_DONE (R59): the new shadow of a set is a copy of what is in use; the set is in EDIT. -/
def execTableSyncDone (t : Nat) (set : Fin 3) (s : State) : Out :=
  s.does t (fun d => d.whenControl (fun d => d.syncDone set.val))

/-- TABLE_PERSIST (R64): switched sets and their digests are written to MRAM. -/
def execTablePersist (t : Nat) (s : State) : Out :=
  s.does t (fun d => d.whenControl Dev.persist)

/-- COMMIT_VALIDATION_DONE (R60): validation of the oldest commit in hand ends. -/
def execCommitValidationDone (t : Nat) (s : State) : Out :=
  s.does t (fun d => d.whenControl Dev.validated)

/-- TBL_COMMIT (R60): a host write of tbl_commit. -/
def execTblCommit (h : Hdr) (val : W64) (s : State) : Out :=
  s.write h Par.devTblCommit 0 val

/-- TBL_ABORT (R62): a host write of tbl_abort. -/
def execTblAbort (h : Hdr) (val : W64) (s : State) : Out :=
  s.write h Par.devTblAbort 0 val

/-- BEAT_GRID_WRITE (R38): a host write of beat_ticks, window_pct or beat_phase. -/
def execBeatGridWrite (h : Hdr) (which : Fin 3) (val : W64) (s : State) : Out :=
  s.write h (beatGridPar which) 0 val

/-- COMPUTE_WINDOW_END (R37): window_ticks after beat start. -/
def execComputeWindowEnd (s : State) : Out :=
  s.does (s.dev.windowTicks * 16) (fun d => d.windowEnd)

/-- FINAL_STEP (R126): the randing scheduler's final step, at the start of the last 15 % of the window. -/
def execFinalStep (s : State) : Out :=
  s.does (s.dev.finalTicks * 16) (fun d => d.whenOn cdTb Dev.finalPass)

/-- CONTEXT_DEADLINE (R175): an execution that has not completed by its deadline overruns. -/
def execContextDeadline (t : Nat) (ctx : Fin 128) (s : State) : Out :=
  s.does t (fun d => d.whenOn cdLoop (fun d => d.deadline ctx.val))

end Sys2Proof.Machine
end

