-- ==== Sys2Proof/Machine/CaptureCmds.lean ====
section
/-! DEFINITION. Capture streams and triggers (ch. 14): the meanings of the commands, one definition each. -/

namespace Sys2Proof.Machine

/-- flush_ms has passed since the open block of a streaming stream opened (R303). -/
def Dev.blockFlush (d : Dev) (n : Nat) : Dev :=
  if d.capOn ∧ d.get Par.capState n = csStream ∧ (d.cap n).cur.isSome then d.closeBlk n else d

/-- The hold-off of a trigger ends (R316): WAIT, or ARMED for a kind that is qualified at once. -/
def Dev.holdoffEnd (d : Dev) (n : Nat) : Dev :=
  if d.get Par.trigState n ≠ tsHoldoff then d
  else
    (d.setTrig n { d.trig n with below := false, above := false }).put Par.trigState n (if d.get Par.trigKind n = 1 then tsWait else tsArmed)

/-- The auto timer of a trigger expires (R317), on the stake that runs it (R318). -/
def Dev.autoFire (d : Dev) (n : Nat) : Dev :=
  let st := d.get Par.trigState n
  if d.get Par.trigAutoMs n ≠ 0 ∧ (st = tsWait ∨ st = tsArmed) ∧ (d.trig n).autoHere then d.fireTrig n d.now fcAuto d.stakeNo else d

/-- The fire window closes (R320): marks of the fire kept, and the fires it replaced are missed. -/
def Dev.fireClose (d : Dev) (n : Nat) : Dev :=
  let x := d.trig n
  match x.openFire with
  | none => d
  | some f =>
    let d := (d.setTrig n { x with openFire := none, missedFires := [] }).fireMarks n f
    d.forL x.missedFires (fun d g => d.trigMissed n g.ts g.cause g.stake)

/-- CAP_RUN_START (R307): a host write of 1 to run. -/
def execCapRunStart (h : Hdr) (n : Fin 32) (s : State) : Out :=
  s.write h Par.capRun n.val 1

/-- CAP_RUN_STOP (R313): a host write of 0 to run. -/
def execCapRunStop (h : Hdr) (n : Fin 32) (s : State) : Out :=
  s.write h Par.capRun n.val 0

/-- BLOCK_FLUSH (R303): flush_ms has passed since the open block opened. -/
def execBlockFlush (t : Nat) (n : Fin 32) (s : State) : Out :=
  s.does t (fun d => d.blockFlush n.val)

/-- CAPTURE_BLOCK_DELIVERY (R307): the next closed block passes into its ring. -/
def execCaptureBlockDelivery (t : Nat) (n : Fin 32) (s : State) : Out :=
  s.does t (fun d => d.whenUp (fun d => d.deliverBlock n.val))

/-- RING_CAPTURE_COMPLETE (R312): the last post-trigger sample is in. -/
def execRingCaptureComplete (t : Nat) (n : Fin 32) (s : State) : Out :=
  s.does t (fun d => d.whenOn cdTb (fun d => d.capComplete n.val))

/-- HOST_FIRE (R314): a host write of fire. -/
def execHostFire (h : Hdr) (n : Fin 16) (val : W64) (s : State) : Out :=
  s.write h Par.trigFire n.val val

/-- TRIG_ARM_WRITE (R316): a host write of arm. -/
def execTrigArmWrite (h : Hdr) (n : Fin 16) (val : W64) (s : State) : Out :=
  s.write h Par.trigArm n.val val

/-- HOLDOFF_END (R316): holdoff_us has passed since the fire. -/
def execHoldoffEnd (t : Nat) (n : Fin 16) (s : State) : Out :=
  s.does t (fun d => d.whenOn cdTb (fun d => d.holdoffEnd n.val))

/-- AUTO_FIRE (R317): auto_ms has passed in WAIT or ARMED. -/
def execAutoFire (t : Nat) (n : Fin 16) (s : State) : Out :=
  s.does t (fun d => d.whenOn cdTb (fun d => d.autoFire n.val))

/-- FIRE_WINDOW_CLOSE (R320): fire_window has passed since the fire was registered. -/
def execFireWindowClose (t : Nat) (n : Fin 16) (s : State) : Out :=
  s.does t (fun d => d.whenOn cdTb (fun d => d.fireClose n.val))

end Sys2Proof.Machine
end

