-- ==== Sys2Proof/Machine/ClockCmds.lean ====
section
/-! DEFINITION. Time, clock domains, supervisor pairs and memories (ch. 1, 2): the meanings of the commands, one definition each. -/

namespace Sys2Proof.Machine

/-- A PTP message at an Ethernet port that is up (R401). -/
def Dev.ptpRx (d : Dev) (port : Nat) (off : Int) (utc : BitVec 16) (locked : Bool) : Dev :=
  if d.up ∧ d.linkIsUp (1 + port) then (d.inc 64 Par.linkRxFrames (1 + port)).ptpMessage port off utc locked else d

/-- PTP_MESSAGE (R401): a PTP message is timestamped. -/
def execPtpMessage (t : Nat) (port : Fin 2) (off : Int) (utc : BitVec 16) (locked : Bool) (s : State) : Out :=
  s.does t (fun d => d.ptpRx port.val off utc locked)

/-- TIME_LOCK_LOST (R44): the selected source is lost. -/
def execTimeLockLost (t : Nat) (s : State) : Out :=
  s.does t (fun d => d.whenUp Dev.timeLost)

/-- HOLDOVER_LIMIT (R44): holdover_limit has passed. -/
def execHoldoverLimit (t : Nat) (s : State) : Out :=
  s.does t (fun d => d.whenUp Dev.holdoverLimit)

/-- CLK_FAIL (R48): a clock domain loses lock. -/
def execClkFail (t : Nat) (dom : Fin 8) (s : State) : Out :=
  s.does t (fun d => d.clkFail dom.val)

/-- CLOCK_DOMAIN_LOCKED (R47): a clock domain locks after its start. -/
def execClockDomainLocked (t : Nat) (dom : Fin 8) (s : State) : Out :=
  s.does t (fun d => (d.clkLocked dom.val).2)

/-- SUP_LOCKSTEP (R26): a lockstep mismatch in a pair. -/
def execSupLockstep (t : Nat) (pair : Fin 2) (s : State) : Out :=
  s.does t (fun d => d.lockstep pair.val)

/-- MEM_UNCORR (R28): an uncorrectable memory error is read. -/
def execMemUncorr (t : Nat) (region : MemRegion) (s : State) : Out :=
  s.does t (fun d => d.memUncorr region)

/-- SUPERVISOR_PAIR_RESTARTED (R26): a pair's firmware has restarted. -/
def execSupervisorPairRestarted (t : Nat) (pair : Fin 2) (s : State) : Out :=
  s.does t (fun d => d.pairRestarted pair.val)

end Sys2Proof.Machine
end

