-- ==== Sys2Proof/Machine/EventCmds.lean ====
section
/-! DEFINITION. Events (ch. 20): the meanings of the commands, one definition each. -/

namespace Sys2Proof.Machine

/-- The oldest record that waits goes into the event log (R465), while the service pair runs. -/
def Dev.logNext (d : Dev) : Dev :=
  match d.evt.toLog with
  | [] => d
  | r :: rest => if d.up ∧ !(d.pairHalted 1) then ({ d with evt := { d.evt with toLog := rest } }).logAppend r else d

/-- EVT_RAISE (R458): a host write of raise. -/
def execEvtRaise (h : Hdr) (n : Fin 256) (val : W64) (s : State) : Out :=
  s.write h Par.evtRaise n.val val

/-- EVENT_LOG_APPEND (R465): the service pair appends the oldest record that waits. -/
def execEventLogAppend (t : Nat) (s : State) : Out :=
  s.does t (fun d => d.logNext)

/-- EVENT_RECORD_DELIVERY (R463): records pass into the event rings. -/
def execEventRecordDelivery (t : Nat) (s : State) : Out :=
  s.does t (fun d => d.deliverEvents)

/-- DELIVERY_SECOND (R462): a second of weave time ends and the rate limits start anew. -/
def execDeliverySecond (t : Nat) (s : State) : Out :=
  s.does t (fun d => { d with evt := { d.evt with rate := [] } })

end Sys2Proof.Machine
end

