-- ==== Sys2Proof/Machine/GridCmds.lean ====
section
/-! DEFINITION. Grid targets and the slow computations of islanding detection (ch. 8, 9): the meanings of the commands, one definition each. -/

namespace Sys2Proof.Machine

/-- The three ramped targets. -/
def gridTargetPar (which : Fin 3) : Par :=
  if which.val = 0 then Par.gridPRef else if which.val = 1 then Par.gridQRef else Par.gridPhiRef

/-- GRID_TARGET_WRITE (R189): a host write of p_ref, q_ref or phi_ref. -/
def execGridTargetWrite (h : Hdr) (g : Fin 4) (which : Fin 3) (val : W64) (s : State) : Out :=
  s.write h (gridTargetPar which) g.val val

/-- IMPEDANCE_ESTIMATE (R212): the control pair has formed the points of the oldest completed sequence; while it is halted the sequence gives none (R22). -/
def execImpedanceEstimate (t : Nat) (g : Fin 4) (s : State) : Out :=
  s.does t (fun d => d.whenOn cdLoop (fun d =>
    if d.pairHalted 0 then d.setIsl g.val { d.isl g.val with doneSeqs := (d.isl g.val).doneSeqs.drop 1 } else d.isldEstimate g.val))

/-- SV_CYCLE_COMPARISON (R216): the service pair compares a cycle of a stream with GRID.g (R22). -/
def execSvCycleComparison (t : Nat) (g : Fin 4) (stream : Fin 8) (freq : F32) (ang : F32) (ago : Nat) (s : State) : Out :=
  s.does t (fun d => d.whenOn cdLoop (fun d => if d.pairHalted 1 then d else d.svCompare g.val stream.val freq ang ago))

/-- SV_STREAM_ABSENT (R216): a stream has had no valid frame for 3 ms. -/
def execSvStreamAbsent (t : Nat) (stream : Fin 8) (s : State) : Out :=
  s.does t (fun d => d.svAbsent stream.val)

end Sys2Proof.Machine
end

