-- ==== Sys2Proof/Machine/HostCmds.lean ====
section
/-! DEFINITION. The host interface (ch. 17): the meanings of the commands, one definition each. -/

namespace Sys2Proof.Machine

/-- A write of the stop register (R394): the word "STOP" acts as STOP_TRIP. -/
def Dev.stopRegister (d : Dev) (v : Nat) : Dev := if v = 0x53544F50 ∧ d.up ∧ d.linkIsUp 0 then d.stopTrip else d

/-- OPEN (R376): OPEN in the command ring of a pair. -/
def execOpn (h : Hdr) (s : State) : Out :=
  s.host h (.opn)

/-- CLOSE (R377): the session ends. -/
def execClose (h : Hdr) (s : State) : Out :=
  s.host h (.close)

/-- HEARTBEAT (R396): the session lives on. -/
def execHeartbeat (h : Hdr) (s : State) : Out :=
  s.host h (.heartbeat)

/-- HELLO (R400): the first message of a handshake. -/
def execHello (t : Nat) (link : Fin 7) (session : Option (Fin 16)) (tag : BitVec 32) (payload : List Byte) (s : State) : Out :=
  s.does t (fun d => d.hello link.val (session.map (·.val)) tag.toNat payload)

/-- FINISH (R400): the host's signature completes a handshake. -/
def execFinish (h : Hdr) (sig : List Byte) (s : State) : Out :=
  s.host h (.finish sig)

/-- READ (R381): values of parameters, as now. -/
def execRead (h : Hdr) (entries : List (BitVec 32 × BitVec 16)) (s : State) : Out :=
  s.host h (.read entries)

/-- READ_IMAGE (R378): bytes of an image. -/
def execReadImage (h : Hdr) (obj : BitVec 32) (offset : BitVec 32) (length : BitVec 32) (s : State) : Out :=
  s.host h (.readImage obj offset length)

/-- WRITE (R381): parameter writes, taken at the end of the beat. -/
def execWrite (h : Hdr) (entries : List WEntry) (s : State) : Out :=
  s.host h (.write entries)

/-- PARAMETER_WRITE (R55): a write of one parameter. -/
def execParameterWrite (h : Hdr) (entry : WEntry) (s : State) : Out :=
  s.host h (.write [entry])

/-- BULK_WRITE (R393): bytes of an image, taken at the end of the beat. -/
def execBulkWrite (h : Hdr) (obj : BitVec 32) (offset : BitVec 32) (data : List Byte) (s : State) : Out :=
  s.host h (.bulkWrite obj offset data)

/-- CLAIM (R393): the session claims objects. -/
def execClaim (h : Hdr) (objs : List (BitVec 32)) (s : State) : Out :=
  s.host h (.claim objs)

/-- RELEASE (R393): the session releases objects. -/
def execRelease (h : Hdr) (objs : List (BitVec 32)) (s : State) : Out :=
  s.host h (.release objs)

/-- MODE_REQUEST (R393): a mode request for the next boundary. -/
def execModeRequest (h : Hdr) (code : BitVec 16) (s : State) : Out :=
  s.host h (.modeRequest code)

/-- STOP_TRIP (R394): a converter trip and a trip of every leg. -/
def execStopTrip (h : Hdr) (s : State) : Out :=
  s.host h (.stopTrip)

/-- STOP_LEGS (R394): a trip of every leg. -/
def execStopLegs (h : Hdr) (s : State) : Out :=
  s.host h (.stopLegs)

/-- STOP_REGISTER_WRITE (R394): a write of the stop register of BAR0. -/
def execStopRegisterWrite (t : Nat) (val : BitVec 32) (s : State) : Out :=
  s.does t (fun d => d.stopRegister val.toNat)

/-- ABORT (R395): an operation of the session is aborted. -/
def execAbort (h : Hdr) (tag : BitVec 32) (s : State) : Out :=
  s.host h (.abort tag)

/-- PROXY (R403): a message for another stake, in a weave-out ring. -/
def execProxy (h : Hdr) (ring : Fin 8) (stake : Byte) (inner : List Byte) (s : State) : Out :=
  s.does h.t (fun d => d.hostMsgIn h (64 + ring.val) (72 + ring.val) (.proxy stake inner))

/-- RING_DOORBELL (R388): the host advances the head of a ring it fills. -/
def execRingDoorbell (t : Nat) (n : Fin 96) (head : BitVec 32) (s : State) : Out :=
  s.does t (fun d => d.doorbell n.val head.toNat)

/-- RING_TAIL_WRITE (R387): the host advances the tail of a ring it reads. -/
def execRingTailWrite (t : Nat) (n : Fin 96) (tail : BitVec 32) (s : State) : Out :=
  s.does t (fun d => d.tailWrite n.val tail.toNat)

/-- RING_RESET (R388): a host write of reset. -/
def execRingReset (h : Hdr) (n : Fin 96) (val : W64) (s : State) : Out :=
  s.write h Par.ringReset n.val val

/-- HEARTBEAT_SEND (R396): the heartbeat of every 100 ms. -/
def execHeartbeatSend (t : Nat) (s : State) : Out :=
  s.does t (fun d => d.heartbeats)

/-- SESSION_TIMEOUT (R396): a session has been silent for its limit. -/
def execSessionTimeout (t : Nat) (s' : Fin 80) (s : State) : Out :=
  s.does t (fun d => d.sessionTimeout s'.val)

/-- HANDSHAKE_TIMEOUT (R400): a handshake has not ended in 5 s. -/
def execHandshakeTimeout (t : Nat) (s' : Fin 16) (s : State) : Out :=
  s.does t (fun d => d.handshakeTimeout s'.val)

/-- LINK_LOSS (R377): a link goes down. -/
def execLinkLoss (t : Nat) (link : Fin 3) (s : State) : Out :=
  s.does t (fun d => d.whenUp (fun d => d.linkDown link.val))

/-- INTERRUPT_COALESCE (R392): coalesce_us has passed. -/
def execInterruptCoalesce (t : Nat) (n : Fin 96) (s : State) : Out :=
  s.does t (fun d => d.whenUp (fun d => d.coalesce n.val))

/-- SV_FRAME (R402): a sampled-value frame is received. -/
def execSvFrame (t : Nat) (port : Fin 2) (mac : BitVec 48) (appid : BitVec 16) (id : BitVec 32) (synch : Byte) (datasetOk : Bool) (qualityOk : Bool) (dup : Bool) (s : State) : Out :=
  s.does t (fun d => d.svFrame port.val mac.toNat appid.toNat id.toNat synch.toNat datasetOk qualityOk dup)

/-- REASSEMBLY_TIMEOUT (R398): 10 ms have passed since the first fragment. -/
def execReassemblyTimeout (t : Nat) (link : Fin 3) (datagram : Nat) (s : State) : Out :=
  s.does t (fun d => d.reassemblyTimeout link.val datagram)

/-- SUPERVISION_FRAME (R397): the supervision frame of every 2 s. -/
def execSupervisionFrame (t : Nat) (s : State) : Out :=
  s.does t (fun d => d.supervision)

/-- LINK_UP (R404): a link comes up. -/
def execLinkUp (t : Nat) (link : Fin 3) (speed : Byte) (width : Byte) (s : State) : Out :=
  s.does t (fun d => d.linkUp link.val speed.toNat width.toNat)

/-- WEAVE_TIME_REGISTER_READ (R385): the host reads the low word of the time register. -/
def execWeaveTimeRegisterRead (t : Nat) (s : State) : Out :=
  s.does t (fun d => d.timeRegisterRead)

/-- ARP_NEIGHBOUR_OR_ECHO (R398): a request the Ethernet stack answers itself. -/
def execArpNeighbourOrEcho (t : Nat) (port : Fin 2) (kind : EchoKind) (target : BitVec 128) (data : List Byte) (s : State) : Out :=
  s.does t (fun d => d.echo port.val kind target.toNat data)

/-- HSR_RING_FORWARD (R397): a frame of another node in an HSR ring. -/
def execHsrRingForward (t : Nat) (port : Fin 2) (src : BitVec 48) (seq : BitVec 16) (frame : List Byte) (s : State) : Out :=
  s.does t (fun d => d.hsrForward port.val src.toNat seq.toNat frame)

end Sys2Proof.Machine
end

