-- ==== Sys2Proof/Machine/IslandCmds.lean ====
section
/-! DEFINITION. The always-on island and the harvester (ch. 19): the meanings of the commands, one definition each. -/

namespace Sys2Proof.Machine

/-- TAMPER_CHANGE (R447): TAMPERn changes. -/
def execTamperChange (t : Nat) (level : Bool) (s : State) : Out :=
  s.does t (fun d => d.tamperChange level)

/-- TEMPERATURE_LOG (R447): an entry of the temperature log. -/
def execTemperatureLog (t : Nat) (tj : BitVec 16) (mv : BitVec 16) (s : State) : Out :=
  s.does t (fun d => d.tempLog tj.toNat mv.toNat)

/-- HARV_PG_CHANGE (R455): HARV_PG rises or falls. -/
def execHarvPgChange (t : Nat) (rising : Bool) (vstore : F32) (s : State) : Out :=
  s.does t (fun d => d.pgChange rising vstore)

/-- CONTROLLED_STAGE_START (R453): VSTORE reaches 1.20 V. -/
def execControlledStageStart (t : Nat) (vstore : F32) (s : State) : Out :=
  s.does t (fun d => d.harvControlled vstore)

/-- COLD_START_RETURN (R453): VSTORE falls below 1.00 V. -/
def execColdStartReturn (t : Nat) (vstore : F32) (s : State) : Out :=
  s.does t (fun d => d.harvCold vstore)

/-- VSTORE_FULL (R454): VSTORE reaches 3.00 V. -/
def execVstoreFull (t : Nat) (vstore : F32) (s : State) : Out :=
  s.does t (fun d => d.harvFull vstore)

/-- VSTORE_RESUME (R454): VSTORE falls below 2.95 V. -/
def execVstoreResume (t : Nat) (vstore : F32) (s : State) : Out :=
  s.does t (fun d => d.harvResume vstore)

/-- HARVESTER_VOC_SAMPLE (R454): the controlled stage samples v_oc. -/
def execHarvesterVocSample (t : Nat) (voc : F32) (vteg : F32) (vstore : F32) (s : State) : Out :=
  s.does t (fun d => d.harvSample voc vteg vstore)

/-- ISLAND_SOURCE_CHANGE (R451): the island changes its source. -/
def execIslandSourceChange (t : Nat) (src : Fin 3) (s : State) : Out :=
  s.does t (fun d => d.islandSource src.val)

/-- ISLAND_SOURCES_LOST (R452): the island loses every source. -/
def execIslandSourcesLost (t : Nat) (s : State) : Out :=
  s.does t (fun d => d.islandLost)

/-- ISLAND_POWER_ON (R452): the island starts again. -/
def execIslandPowerOn (t : Nat) (src : Fin 3) (vstore : F32) (below : Bool) (s : State) : Out :=
  s.does t (fun d => d.islandStart src.val vstore below)

end Sys2Proof.Machine
end

