-- ==== Sys2Proof/Machine/LegCmds.lean ====
section
/-! DEFINITION. Local legs (ch. 11): the meanings of the commands, one definition each. -/

namespace Sys2Proof.Machine

/-- An update point of a leg (R250, R251): in COT and CFT an end of the variable interval that was held acts here. -/
def Dev.updatePoint (d : Dev) (n : Nat) (peak : Bool) : Dev :=
  let x := d.leg n
  match (if isVari (d.legSet Par.legCarrier n) then x.varStart else none) with
  | some v => if x.termHeld then d.legVarEnd n (d.varFloor n v) else d
  | none => d.legUpdate n peak

/-- t_var_max ends a variable interval (R250); within a refresh the end is held (R259). -/
def Dev.varMax (d : Dev) (n : Nat) : Dev :=
  match (d.leg n).varStart with
  | some v =>
    let e := v + fineNs (d.get Par.legTVarMax n)
    if e < (d.leg n).seqEnd then d.setLeg n { d.leg n with termHeld := true } else d.legVarEnd n e
  | none => d

/-- The refresh timer of a leg expires (R259): not while OFF or TRIPPED. -/
def Dev.refreshTimer (d : Dev) (n : Nat) : Dev :=
  if d.get Par.legRefreshMax n ≠ 0 ∧ (d.get Par.legState n = lsRun ∨ d.get Par.legState n = lsHold) then
    d.setLeg n { d.leg n with refreshDue := true }
  else d

/-- The filtered LEG_FLT inputs of this tick (R257): the legs named are those whose input has been low for flt_filter. -/
def Dev.faultInputs (d : Dev) (ns : List Nat) : Dev :=
  let d := d.forN 40 (fun d n => d.setLeg n { d.leg n with flt := ns.contains n })
  d.tripLegs ns 0

/-- The filtered LEG_RDY inputs of this tick (R256, R257): the legs named are those whose input has been low for flt_filter. -/
def Dev.readyLow (d : Dev) (ns : List Nat) : Dev :=
  let d := d.forN 40 (fun d n => d.setLeg n { d.leg n with rdy := (d.leg n).rdy && !(ns.contains n), rdyLow := ns.contains n })
  d.tripLegs (ns.filter (d.isOn Par.legRdyUse)) 2

/-- CARRIER_UPDATE_POINT (R251): a carrier zero, a held termination's update point, or the peak. -/
def execCarrierUpdatePoint (t : Nat) (n : Fin 40) (peak : Bool) (s : State) : Out :=
  s.does t (fun d => d.whenOn cdTb (fun d => d.updatePoint n.val peak))

/-- VARIABLE_INTERVAL_MAX (R250): t_var_max has passed in a variable interval. -/
def execVariableIntervalMax (t : Nat) (n : Fin 40) (s : State) : Out :=
  s.does t (fun d => d.whenOn cdTb (fun d => d.varMax n.val))

/-- BOOTSTRAP_REFRESH (R259): refresh_max has passed without a low-side interval. -/
def execBootstrapRefresh (t : Nat) (n : Fin 40) (s : State) : Out :=
  s.does t (fun d => d.whenOn cdTb (fun d => d.refreshTimer n.val))

/-- OSIER_CALIBRATION (R255): the spare line is calibrated and swapped in. -/
def execOsierCalibration (t : Nat) (span : Nat) (s : State) : Out :=
  s.does t (fun d => d.whenOn cdTb (fun d => d.osierCal span))

/-- LEG_FAULT_INPUT (R257): the fault inputs as filtered in this tick; those in RUN or HOLD trip. -/
def execLegFaultInput (t : Nat) (legs : List (Fin 40)) (s : State) : Out :=
  s.does t (fun d => d.whenOn cdTb (fun d => d.faultInputs (legs.map (·.val))))

/-- LEG_READY_HIGH (R256): LEG_RDY has been high for 1 ms. -/
def execLegReadyHigh (t : Nat) (n : Fin 40) (s : State) : Out :=
  s.does t (fun d => d.whenOn cdTb (fun d => d.setLeg n.val { d.leg n.val with rdy := true, rdyLow := false }))

/-- LEG_READY_LOW (R256): LEG_RDY of these legs has been low for flt_filter; with rdy_use that is a trip. -/
def execLegReadyLow (t : Nat) (legs : List (Fin 40)) (s : State) : Out :=
  s.does t (fun d => d.whenOn cdTb (fun d => d.readyLow (legs.map (·.val))))

/-- LEG_CLEAR (R258): a host write of clear. -/
def execLegClear (h : Hdr) (n : Fin 40) (val : W64) (s : State) : Out :=
  s.write h Par.legClear n.val val

/-- GATE_L_EDGE (R252): the earliest placed edge of a leg. -/
def execGateLEdge (t : Nat) (n : Fin 40) (s : State) : Out :=
  s.does t (fun d => d.whenOn cdTb (fun d => d.legEdge n.val))

end Sys2Proof.Machine
end

