-- ==== Sys2Proof/Machine/MeterCmds.lean ====
section
/-! DEFINITION. Metering (ch. 13): the meanings of the commands, one definition each. -/

namespace Sys2Proof.Machine

/-- METER_SAMPLE (R283): a 125 µs sample instant. -/
def execMeterSample (t : Nat) (vs : List Int) (is : List Int) (s : State) : Out :=
  s.does t (fun d => d.metSample vs is)

/-- ZERO_CROSSING_TIMEOUT (R284): no crossing for 40 ms, or a fixed period ends. -/
def execZeroCrossingTimeout (t : Nat) (e : Fin 4) (s : State) : Out :=
  s.does t (fun d => d.metTimeout e.val)

/-- METER_COMMIT (R293): a commit instant. -/
def execMeterCommit (t : Nat) (s : State) : Out :=
  s.does t (fun d => d.metCommit)

/-- SUPPLY_LOSS (R294): VDD_IO33 has fallen: the last-gasp commit, and AUX_FAILn has been low (R448). -/
def execSupplyLoss (t : Nat) (s : State) : Out :=
  s.does t (fun d => { d.supplyLoss with pwr := { d.supplyLoss.pwr with auxLow := true } })

/-- LAST_GASP_REARM (R294): the supply has been good for 10 ms. -/
def execLastGaspRearm (t : Nat) (s : State) : Out :=
  s.does t (fun d => { d.gaspRearm with pwr := { d.pwr with auxLow := false } })

end Sys2Proof.Machine
end

