-- ==== Sys2Proof/Machine/PortCmds.lean ====
section
/-! DEFINITION. Source ports (ch. 10): the meanings of the commands, one definition each. -/

namespace Sys2Proof.Machine

/-- STAGGER_SLOT (R227): a slot begins and one due port is chosen. -/
def execStaggerSlot (t : Nat) (s : State) : Out :=
  s.does t (fun d => d.whenOn cdTb Dev.staggerSlot)

/-- OPENING_DUE (R227): a PV port becomes due for an opening. -/
def execOpeningDue (t : Nat) (p : Fin 32) (s : State) : Out :=
  s.does t (fun d => d.whenOn cdTb (fun d => d.portDue p.val))

/-- OPENING_END (R229): the hold of an opening ends and Voc is judged. -/
def execOpeningEnd (t : Nat) (p : Fin 32) (s : State) : Out :=
  s.does t (fun d => d.whenOn cdTb (fun d => d.openingEnd p.val))

/-- DITHER_PERIOD_END (R231): a dither period ends and trim moves. -/
def execDitherPeriodEnd (t : Nat) (p : Fin 32) (s : State) : Out :=
  s.does t (fun d => d.whenOn cdTb (fun d => d.ditherEnd p.val))

/-- SAMPLE_NOW (R227): a host write of sample_now. -/
def execSampleNow (h : Hdr) (p : Fin 32) (val : W64) (s : State) : Out :=
  s.write h Par.portSampleNow p.val val

/-- SOC_SET (R234): a host write of soc_set. -/
def execSocSet (h : Hdr) (p : Fin 32) (val : W64) (s : State) : Out :=
  s.write h Par.portSocSet p.val val

/-- STORAGE_ENERGY_SAVE (R234): stored energies go to the health counters region. -/
def execStorageEnergySave (t : Nat) (s : State) : Out :=
  s.does t (fun d => d.whenUp Dev.energySave)

/-- P_SET_WRITE (R235): a host write of p_set. -/
def execPSetWrite (h : Hdr) (p : Fin 32) (val : W64) (s : State) : Out :=
  s.write h Par.portPSet p.val val

/-- BURST_REQUEST (R236): a host write of burst_req. -/
def execBurstRequest (h : Hdr) (p : Fin 32) (val : W64) (s : State) : Out :=
  s.write h Par.portBurstReq p.val val

/-- BURST_END (R237): p_burst has returned to 0. -/
def execBurstEnd (t : Nat) (p : Fin 32) (s : State) : Out :=
  s.does t (fun d => d.whenOn cdTb (fun d => d.burstEnd p.val))

/-- BURST_ABORT (R238): a host write of burst_abort. -/
def execBurstAbort (h : Hdr) (p : Fin 32) (val : W64) (s : State) : Out :=
  s.write h Par.portBurstAbort p.val val

/-- PORT_CLEAR (R240): a host write of clear. -/
def execPortClear (h : Hdr) (p : Fin 32) (val : W64) (s : State) : Out :=
  s.write h Par.portClear p.val val

/-- PORT_UNLOCK (R240): a host write of unlock. -/
def execPortUnlock (h : Hdr) (p : Fin 32) (val : W64) (s : State) : Out :=
  s.write h Par.portUnlock p.val val

end Sys2Proof.Machine
end

