-- ==== Sys2Proof/Machine/PowerCmds.lean ====
section
/-! DEFINITION. Power modes and resets (ch. 19): the meanings of the commands, one definition each. -/

namespace Sys2Proof.Machine

/-- PORSTN_ASSERT (R434): PORSTn goes low. -/
def execPorstnAssert (t : Nat) (s : State) : Out :=
  s.does t (fun d => d.porstLow)

/-- PORSTN_RELEASE (R435): PORSTn goes high. -/
def execPorstnRelease (t : Nat) (straps : BitVec 6) (rimStraps : BitVec 4) (s : State) : Out :=
  s.does t (fun d => d.porstHigh straps.toNat rimStraps.toNat)

/-- BROWN_OUT (R430): a monitored rail has been low for 2 µs. -/
def execBrownOut (t : Nat) (rail : Fin 8) (s : State) : Out :=
  s.does t (fun d => d.brownOut rail.val)

/-- SERVICE_RESET (R436): a press of SVC_RSTn ends. -/
def execServiceReset (t : Nat) (s : State) : Out :=
  s.does t (fun d => d.svcReset)

/-- SVC_RST_STUCK_TIMEOUT (R436): a press is held at 10 s. -/
def execSvcRstStuckTimeout (t : Nat) (s : State) : Out :=
  s.does t (fun d => d.svcStuck)

/-- WATCHDOG_EXPIRY (R437): the watchdog expires. -/
def execWatchdogExpiry (t : Nat) (s : State) : Out :=
  s.does t (fun d => d.watchdog)

/-- RESET_REQ (R438): a host write of reset_req. -/
def execResetReq (h : Hdr) (val : W64) (s : State) : Out :=
  s.write h Par.pwrResetReq 0 val

/-- WARM_RESET_RELEASE (R435): the 10 µs of a warm reset end. -/
def execWarmResetRelease (t : Nat) (straps : BitVec 6) (rimStraps : BitVec 4) (s : State) : Out :=
  s.does t (fun d => d.warmRelease straps.toNat rimStraps.toNat)

/-- BOOT_LOADER_START (R409): the verified boot loader starts. -/
def execBootLoaderStart (t : Nat) (s : State) : Out :=
  s.does t (fun d => d.loaderStart)

/-- FIRMWARE_START (R409): the verified firmware starts. -/
def execFirmwareStart (t : Nat) (s : State) : Out :=
  s.does t (fun d => d.firmwareStart)

/-- RUN_ENTRY (R439): start-up reaches RUN. -/
def execRunEntry (t : Nat) (ddrMiB : Fin 8193) (s : State) : Out :=
  s.does t (fun d => d.runEntry ddrMiB.val)

/-- PWR_REQUEST_PARKED (R441): a host write of PARKED. -/
def execPwrRequestParked (h : Hdr) (s : State) : Out :=
  s.write h Par.pwrRequest 0 2

/-- PWR_REQUEST_RUN (R444): a host write of RUN. -/
def execPwrRequestRun (h : Hdr) (s : State) : Out :=
  s.write h Par.pwrRequest 0 1

/-- PWR_REQUEST_DARK (R446): a host write of DARK. -/
def execPwrRequestDark (h : Hdr) (s : State) : Out :=
  s.write h Par.pwrRequest 0 3

/-- AUTO_PARK (R441): park_hold has passed in converter kind PARKED. -/
def execAutoPark (t : Nat) (s : State) : Out :=
  s.does t (fun d => d.autoPark)

/-- PARKING_COMPLETE (R442): the entry to PARKED completes. -/
def execParkingComplete (t : Nat) (s : State) : Out :=
  s.does t (fun d => d.parkingComplete)

/-- WAKE_PIN (R444): WAKEn has been low for 1 ms. -/
def execWakePin (t : Nat) (s : State) : Out :=
  s.does t (fun d => d.wakePin)

/-- PARK_TIMER_WAKE (R444): park_wake_s has passed since the entry. -/
def execParkTimerWake (t : Nat) (s : State) : Out :=
  s.does t (fun d => d.parkTimer)

/-- WAKE_COMPLETE (R444): a wake reaches RUN at a beat boundary. -/
def execWakeComplete (x : Samples) (ddrMiB : Fin 8193) (s : State) : Out :=
  s.does s.dev.beatLen (fun d => if d.up ∧ d.pmode = pmWaking then d.beat x (some ddrMiB.val) else d)

/-- DARK_ENTRY_COMPLETE (R446): the entry to DARK completes. -/
def execDarkEntryComplete (t : Nat) (s : State) : Out :=
  s.does t (fun d => d.darkEntry)

/-- AUX_FAIL_HIGH (R448): AUX_FAILn has been high for 10 ms. -/
def execAuxFailHigh (t : Nat) (s : State) : Out :=
  s.does t (fun d => d.auxHigh)

/-- DARK_ALARM (R448): weave time reaches the alarm. -/
def execDarkAlarm (t : Nat) (s : State) : Out :=
  s.does t (fun d => d.darkAlarm)

/-- DARK_EXIT_RELEASE (R449): the conditions of R449 hold. -/
def execDarkExitRelease (t : Nat) (straps : BitVec 6) (rimStraps : BitVec 4) (s : State) : Out :=
  s.does t (fun d => d.darkRelease straps.toNat rimStraps.toNat)

/-- SERVICE_RESET_PRESS_START (R436): a press of SVC_RSTn starts. -/
def execServiceResetPressStart (t : Nat) (highFor : Nat) (s : State) : Out :=
  s.does t (fun d => d.svcPress highFor)

end Sys2Proof.Machine
end

