-- ==== Sys2Proof/Machine/RimCmds.lean ====
section
/-! DEFINITION. The Rim (ch. 15): the meanings of the commands, one definition each. -/

namespace Sys2Proof.Machine

/-- RIM_INPUT_CHANGE (R325): the voltage at a RIM_IN pin. -/
def execRimInputChange (t : Nat) (c : Fin 16) (mv : Nat) (s : State) : Out :=
  s.does t (fun d => d.rimInput c.val mv)

/-- RIM_INPUT_FILTERED (R325): a pin level has held for in_filter. -/
def execRimInputFiltered (t : Nat) (c : Fin 16) (s : State) : Out :=
  s.does t (fun d => d.rimFiltered c.val)

/-- DISCREPANCY_TIMEOUT (R326): discrepancy_ms has passed. -/
def execDiscrepancyTimeout (t : Nat) (k : Fin 8) (s : State) : Out :=
  s.does t (fun d => d.discrepancy k.val)

/-- TEST_PULSE_START (R327): a test pulse starts. -/
def execTestPulseStart (t : Nat) (m : Fin 4) (s : State) : Out :=
  s.does t (fun d => d.testStart m.val)

/-- TEST_PULSE_END (R327): a test pulse ends. -/
def execTestPulseEnd (t : Nat) (m : Fin 4) (s : State) : Out :=
  s.does t (fun d => d.testEnd m.val)

/-- TEST_LOW_DEADLINE (R328): 300 µs after pulse start. -/
def execTestLowDeadline (t : Nat) (s : State) : Out :=
  s.does t (fun d => d.testDeadline)

/-- TEST_WINDOW_CLOSE (R329): the test window closes. -/
def execTestWindowClose (t : Nat) (s : State) : Out :=
  s.does t (fun d => d.testClose)

/-- OFF_TEST (R332): an off-test starts. -/
def execOffTest (t : Nat) (j : Fin 4) (ch : Fin 2) (s : State) : Out :=
  s.does t (fun d => d.offTest j.val ch.val)

/-- OFF_TEST_END (R332): an off-test ends. -/
def execOffTestEnd (t : Nat) (j : Fin 4) (ch : Fin 2) (s : State) : Out :=
  s.does t (fun d => d.offTestEnd j.val ch.val)

/-- OUTPUT_READBACK_MISMATCH (R332): a pad readback disagrees with its drive. -/
def execOutputReadbackMismatch (t : Nat) (j : Fin 4) (ch : Fin 2) (s : State) : Out :=
  s.does t (fun d => d.readbackMismatch j.val ch.val)

/-- EDM_TIMEOUT (R334): edm_ms has passed since an output changed. -/
def execEdmTimeout (t : Nat) (j : Fin 4) (s : State) : Out :=
  s.does t (fun d => d.edmTimeout j.val)

/-- CHANNEL_COMPARISON (R322): the comparison of the two channel logics. -/
def execChannelComparison (t : Nat) (agree : Bool) (s : State) : Out :=
  s.does t (fun d => d.channelCompare agree)

/-- RIM_SUPPLY_FAULT (R338): a rail of the Rim has been out of range for 20 µs. -/
def execRimSupplyFault (t : Nat) (s : State) : Out :=
  s.does t (fun d => d.rimSupply)

/-- RIM_RESET_RELEASE (R340): a reset press ends. -/
def execRimResetRelease (t : Nat) (pressGap : Option Nat) (releaseGap : Option Nat) (railsOk : Bool) (s : State) : Out :=
  s.does t (fun d => d.rstRelease pressGap releaseGap railsOk)

/-- RIM_RESET_STUCK_TIMEOUT (R339): a reset press is held at 8 s. -/
def execRimResetStuckTimeout (t : Nat) (s : State) : Out :=
  s.does t (fun d => d.rstStuck)

/-- RIM_CONFIG_RECORD (R344): a BULK_WRITE of a whole record to RIM.0. -/
def execRimConfigRecord (h : Hdr) (data : List Byte) (s : State) : Out :=
  s.host h (.bulkWrite 0x70000000 0 data)

/-- RIM_RESET_PRESS_START (R339): a reset press starts. -/
def execRimResetPressStart (t : Nat) (released1s : Bool) (s : State) : Out :=
  s.does t (fun d => d.rstPress released1s)

end Sys2Proof.Machine
end

