-- ==== Sys2Proof/Machine/SpokeCmds.lean ====
section
/-! DEFINITION. Spokes, cells, arms and contexts (ch. 4 to 7): the meanings of the commands, one definition each. -/

namespace Sys2Proof.Machine

/-- CONTROL_FRAME (R83): a CONTROL frame is received. -/
def execControlFrame (t : Nat) (s' : Fin 64) (bytes : List Byte) (lineOk : Bool) (s : State) : Out :=
  s.does t (fun d => d.whenOn cdSpk (fun d => d.rxControl s'.val bytes lineOk))

/-- DISCOVER_FRAME (R104): a DISCOVER frame reaches an end. -/
def execDiscoverFrame (t : Nat) (s' : Fin 64) (bytes : List Byte) (lineOk : Bool) (s : State) : Out :=
  s.does t (fun d => d.whenOn cdSpk (fun d => d.rxDiscover s'.val bytes lineOk))

/-- RANGE_FRAME (R107): a RANGE frame returns. -/
def execRangeFrame (t : Nat) (s' : Fin 64) (bytes : List Byte) (lineOk : Bool) (rt : Nat) (s : State) : Out :=
  s.does t (fun d => d.whenOn cdSpk (fun d => d.rxRange s'.val bytes lineOk rt))

/-- RETURN_FRAME (R101): a RETURN frame is received. -/
def execReturnFrame (t : Nat) (s' : Fin 64) (bytes : List Byte) (lineOk : Bool) (s : State) : Out :=
  s.does t (fun d => d.whenOn cdSpk (fun d => d.rxReturn s'.val bytes lineOk))

/-- SPOKE_RECEIVER_DEAD (R78): a receiver goes dead. -/
def execSpokeReceiverDead (t : Nat) (s' : Fin 64) (s : State) : Out :=
  s.does t (fun d => d.whenOn cdSpk (fun d => d.receiverDead s'.val))

/-- SPOKE_RECEIVER_LIVE (R104): a receiver becomes live. -/
def execSpokeReceiverLive (t : Nat) (s' : Fin 64) (s : State) : Out :=
  s.does t (fun d => d.whenOn cdSpk (fun d => d.receiverLive s'.val))

/-- SPOKE_DISCOVER (R104): a host write of discover. -/
def execSpokeDiscover (h : Hdr) (s' : Fin 64) (val : W64) (s : State) : Out :=
  s.write h Par.spokeDiscover s'.val val

/-- DISCOVERY_COMPLETE (R104): discovery and ranging of a ring end. -/
def execDiscoveryComplete (t : Nat) (s' : Fin 64) (s : State) : Out :=
  s.does t (fun d => d.whenOn cdSpk (fun d => d.discComplete (d.ringOf s'.val)))

/-- CELL_LOST (R100): four consecutive stale beats. -/
def execCellLost (t : Nat) (c : Fin 512) (s : State) : Out :=
  s.does t (fun d => d.whenOn cdSpk (fun d => d.cellLost c.val))

/-- SPOKE_SPLIT (R101): two consecutive beats without a valid far-end frame. -/
def execSpokeSplit (t : Nat) (s' : Fin 64) (s : State) : Out :=
  s.does t (fun d => d.whenOn cdSpk (fun d => d.spokeSplit s'.val))

/-- SPOKE_REJOINED (R101): 16 consecutive good beats. -/
def execSpokeRejoined (t : Nat) (s' : Fin 64) (s : State) : Out :=
  s.does t (fun d => d.whenOn cdSpk (fun d => d.spokeRejoin s'.val))

/-- CELL_UNBLOCK_FAIL (R98): 64 beats of UNBLOCK without effect. -/
def execCellUnblockFail (t : Nat) (c : Fin 512) (s : State) : Out :=
  s.does t (fun d => d.whenOn cdSpk (fun d => d.unblockFail c.val))

/-- CELL_BYPASS_FAIL (R150): eight valid halves after BYPASS without BYPASSED. -/
def execCellBypassFail (t : Nat) (c : Fin 512) (s : State) : Out :=
  s.does t (fun d => d.whenOn cdSpk (fun d => d.bypassFail c.val))

/-- SPOKE_UNBLOCK (R98): a host write of unblock. -/
def execSpokeUnblock (h : Hdr) (s' : Fin 64) (val : W64) (s : State) : Out :=
  s.write h Par.spokeUnblock s'.val val

/-- CELL_BYPASS_WRITE (R149): a host write of bypass. -/
def execCellBypassWrite (h : Hdr) (c : Fin 512) (val : W64) (s : State) : Out :=
  s.write h Par.cellBypass c.val val

/-- CELL_CLEAR_LOCK_WRITE (R153): a host write of clear_lock. -/
def execCellClearLockWrite (h : Hdr) (c : Fin 512) (val : W64) (s : State) : Out :=
  s.write h Par.cellClearLock c.val val

/-- CELL_SERIAL_REF_WRITE (R106): a host write of serial_ref. -/
def execCellSerialRefWrite (h : Hdr) (c : Fin 512) (val : W64) (s : State) : Out :=
  s.write h Par.cellSerialRef c.val val

/-- CELL_SETTING_WRITE (R146): a host write of a setting of Table 6.1. -/
def execCellSettingWrite (h : Hdr) (c : Fin 512) (idx : BitVec 16) (val : W64) (s : State) : Out :=
  s.write h ⟨0x11, idx.toNat⟩ c.val val

/-- BLOCK_CLEAR (R151): a host write of block_clear. -/
def execBlockClear (h : Hdr) (j : Fin 24) (val : W64) (s : State) : Out :=
  s.write h Par.armBlockClear j.val val

/-- RECOVER (R177): a host write of recover. -/
def execRecover (h : Hdr) (c : Fin 128) (val : W64) (s : State) : Out :=
  s.write h Par.ctxRecover c.val val

end Sys2Proof.Machine
end

