-- ==== Sys2Proof/Machine/UpdateCmds.lean ====
section
/-! DEFINITION. The Lid and the update process (ch. 18), which the service pair serves (R26): the meanings of the commands, one definition each. -/

namespace Sys2Proof.Machine

/-- Verification for an activation ends (R423); in recovery the reset that it asks for is taken at once (R426). -/
def Dev.activated (d : Dev) : Dev :=
  let d := d.activationVerified
  if d.phase = .recovery ∧ d.lid.resetWanted then d.warmReset rsRequested else d

/-- ATTEST (R413): a signed report of the tally registers. -/
def execAttest (h : Hdr) (nonce : List Byte) (s : State) : Out :=
  s.host h (.attest nonce)

/-- UPD_MANIFEST (R419): a part of a manifest. -/
def execUpdManifest (h : Hdr) (total : BitVec 32) (offset : BitVec 32) (data : List Byte) (s : State) : Out :=
  s.host h (.updManifest total offset data)

/-- UPD_CHUNK (R422): half of a chunk. -/
def execUpdChunk (h : Hdr) (index : BitVec 16) (half : Byte) (data : List Byte) (s : State) : Out :=
  s.host h (.updChunk index half data)

/-- CHUNK_MARKED (R422): a chunk is written, read back and marked. -/
def execChunkMarked (t : Nat) (index : BitVec 16) (s : State) : Out :=
  s.does t (fun d => d.whenService (fun d => d.chunkMarked index.toNat))

/-- UPD_STATUS (R421): the ownership record and bitmap. -/
def execUpdStatus (h : Hdr) (s : State) : Out :=
  s.host h (.updStatus)

/-- UPD_CANCEL (R420): the owner gives the update up. -/
def execUpdCancel (h : Hdr) (s : State) : Out :=
  s.host h (.updCancel)

/-- UPD_ACTIVATE (R423): the received image is to be activated. -/
def execUpdActivate (h : Hdr) (mode : Byte) (s : State) : Out :=
  s.host h (.updActivate mode)

/-- ACTIVATION_VERIFIED (R423): the written slot has been verified whole; in recovery the reset follows at once (R426). -/
def execActivationVerified (t : Nat) (s : State) : Out :=
  s.does t (fun d => d.whenService Dev.activated)

/-- UPD_CONFIRM (R425): the trial image is confirmed. -/
def execUpdConfirm (h : Hdr) (s : State) : Out :=
  s.host h (.updConfirm)

/-- AUTO_CONFIRM (R425): the conditions of auto_confirm hold. -/
def execAutoConfirm (t : Nat) (s : State) : Out :=
  s.does t (fun d => d.whenUp (fun d => d.whenService Dev.autoConfirm))

/-- TRIAL_WINDOW_EXPIRY (R425): trial_window has passed. -/
def execTrialWindowExpiry (t : Nat) (s : State) : Out :=
  s.does t (fun d => d.whenUp (fun d => d.whenService Dev.trialExpiry))

/-- OWNERSHIP_LAPSE (R420): 72 h without a verified chunk. -/
def execOwnershipLapse (t : Nat) (s : State) : Out :=
  s.does t (fun d => d.whenService Dev.ownershipLapse)

/-- KEY_ENROL (R408): a key is written into an owner slot. -/
def execKeyEnrol (h : Hdr) (payload : List Byte) (s : State) : Out :=
  s.host h (.keyEnrol payload)

/-- KEY_REVOKE (R408): an owner slot is emptied. -/
def execKeyRevoke (h : Hdr) (payload : List Byte) (s : State) : Out :=
  s.host h (.keyRevoke payload)

/-- RETAINED_CLEAR (R427): a host write of retained_clear. -/
def execRetainedClear (h : Hdr) (val : W64) (s : State) : Out :=
  s.write h Par.updRetainedClear 0 val

/-- ROLLBACK_FUSES_BLOWN (R415): the fuses of an advance are blown. -/
def execRollbackFusesBlown (t : Nat) (s : State) : Out :=
  s.does t (fun d => d.whenService Dev.fusesBlown)

end Sys2Proof.Machine
end

