-- ==== Sys2Proof/Machine/WeaveCmds.lean ====
section
/-! DEFINITION. The weave (ch. 16): the meanings of the commands, one definition each. -/

namespace Sys2Proof.Machine

/-- The list of a SUBSCRIBE is noted where it passes and where it is meant to go (R365). -/
def Dev.noteSubscribe (d : Dev) (h : WHdr) (sigs : List Nat) : Dev :=
  if d.full ∧ (d.wport h.port.val).state = wpUp ∧ h.crcOk then d.takeSubscribe h.src.toNat h.dest.toNat sigs else d

/-- WEFT_BLOCK_LOCK (R349): a port gains block lock. -/
def execWeftBlockLock (t : Nat) (p : Fin 4) (s : State) : Out :=
  s.does t (fun d => d.weftLock p.val)

/-- WEFT_LOCK_LOSS (R349): a port loses block lock. -/
def execWeftLockLoss (t : Nat) (p : Fin 4) (s : State) : Out :=
  s.does t (fun d => d.weftDown p.val)

/-- WEFT_RELOCK_WAIT (R349): the 1 ms wait ends. -/
def execWeftRelockWait (t : Nat) (p : Fin 4) (s : State) : Out :=
  s.does t (fun d => d.weftWaitEnd p.val)

/-- WEFT_PORT_MISSED_BEATS (R349): the third consecutive missed beat of a neighbour. -/
def execWeftPortMissedBeats (t : Nat) (p : Fin 4) (s : State) : Out :=
  s.does t (fun d => d.weftMissed p.val)

/-- IDENT (R355): a device announces itself. -/
def execIdent (h : WHdr) (identity : W64) (strap : Byte) (stake : Byte) (partner : Byte) (peerPort : Byte) (s : State) : Out :=
  s.weave h wkIdent (leBytes 8 identity.toNat ++ [strap, stake, partner, 1]) (fun d => d.takeIdent h identity strap.toNat stake.toNat partner.toNat peerPort.toNat)

/-- LSA (R359): a stake announces its links. -/
def execLsa (h : WHdr) (links : List (Byte × Byte × Byte)) (s : State) : Out :=
  let xs := links.map (fun l => (l.1.toNat, l.2.1.toNat, l.2.2.toNat))
  s.weave h wkLsa (lsaBytes xs) (fun d => d.takeLsa h.src.toNat xs)

/-- ASSIGN (R357): the assigner gives stake numbers. -/
def execAssign (h : WHdr) (pairs : List (W64 × Byte)) (s : State) : Out :=
  let xs := pairs.map (fun p => (p.1, p.2.toNat))
  s.weave h wkAssign (assignBytes xs) (fun d => d.takeAssign xs)

/-- BEAT_PKT (R354): a stake's packet of the beat. -/
def execBeatPkt (h : WHdr) (b : BeatPkt) (s : State) : Out :=
  s.weave h wkBeatPkt (beatPktBytes b) (fun d => d.takeBeatPkt h b)

/-- TIME (R362): the neighbour's timestamps. -/
def execTime (h : WHdr) (t1 : W64) (t2 : W64) (echo : W64) (s : State) : Out :=
  s.weave h wkTime (leBytes 8 t1.toNat ++ leBytes 8 t2.toNat ++ leBytes 8 echo.toNat) (fun d => d.takeTime h t1.toNat t2.toNat echo.toNat)

/-- SIGNALS (R365): records of shared signals. -/
def execSignals (h : WHdr) (recs : List SigRec) (s : State) : Out :=
  s.weave h wkSignals (recs.flatMap sigBytes) (fun d => d.takeSignals h recs)

/-- ARM_CUR (R119): arm currents of the token holder. -/
def execArmCur (h : WHdr) (xs : List (Byte × F32)) (s : State) : Out :=
  s.weave h wkArmCur (xs.flatMap (fun x => x.1 :: leBytes 4 x.2.toNat)) (fun d => d.takeArmCur h (xs.map (fun x => (x.1.toNat, x.2))))

/-- CTX_STATE (R179): a state vector of the token holder. -/
def execCtxState (h : WHdr) (ctx : Byte) (n : Byte) (xs : List F32) (s : State) : Out :=
  s.weave h wkCtxState (ctx :: n :: xs.flatMap (fun f => leBytes 4 f.toNat)) (fun d => d.takeCtxState h ctx.toNat n.toNat xs)

/-- TELEM_RELAY (R103): a telemetry half that the partner has received. -/
def execTelemRelay (h : WHdr) (spoke : Byte) (pos : Byte) (half : List Byte) (s : State) : Out :=
  s.weave h wkTelemRelay (spoke :: pos :: half) (fun d => d.telemRelay spoke.toNat pos.toNat half)

/-- RING_REPORT (R104): the B end's discovery report. -/
def execRingReport (h : WHdr) (spoke : Byte) (count : Byte) (ids : List (List Byte)) (s : State) : Out :=
  s.weave h wkRingReport (spoke :: count :: ids.flatMap id) (fun d => d.ringReport spoke.toNat count.toNat ids)

/-- FIRE (R319): a fire of another stake. -/
def execFire (h : WHdr) (trig : Byte) (ts : W64) (cause : Byte) (stake : Byte) (s : State) : Out :=
  s.weave h wkFire (trig :: leBytes 8 ts.toNat ++ [cause, stake]) (fun d => d.takeFire trig.toNat ts.toNat stake.toNat)

/-- ARM_BLOCK (R152): an arm block of the partner. -/
def execArmBlock (h : WHdr) (arm : Byte) (cause : Byte) (s : State) : Out :=
  s.weave h wkArmBlock ([arm, cause]) (fun d => d.takeArmBlock h arm.toNat)

/-- TRIG_ARM (R318): a weave-wide arm value. -/
def execTrigArm (h : WHdr) (trig : Byte) (arm : Byte) (beat : W64) (s : State) : Out :=
  s.weave h wkTrigArm (trig :: arm :: leBytes 8 beat.toNat) (fun d => d.takeTrigArm trig.toNat arm.toNat beat.toNat)

/-- MGMT (R403): a management message of another stake. -/
def execMgmt (h : WHdr) (m : MgmtMsg) (s : State) : Out :=
  s.does h.t (fun d => d.mgmt h m)

/-- CODES (R206): islanding code indices of another stake. -/
def execCodes (h : WHdr) (codes : List (BitVec 16)) (s : State) : Out :=
  s.weave h wkCodes (codes.flatMap (fun c => leBytes 2 c.toNat)) (fun d => d.takeCodes h.src.toNat (codes.map (·.toNat)))

/-- SUBSCRIBE (R365): the list of signals a stake reads; stakes on the way note it too. -/
def execSubscribe (h : WHdr) (sigs : List Byte) (s : State) : Out :=
  s.does h.t (fun d => (d.wrx h wkSubscribe sigs id).noteSubscribe h (sigs.map (·.toNat)))

/-- WEAVE_PERIODIC_SEND (R352): the messages of every second. -/
def execWeavePeriodicSend (t : Nat) (s : State) : Out :=
  s.does t (fun d => d.weavePeriodic)

/-- DUPLEX_CONFIG_TIMEOUT (R367): 1 s without a direct link, or declarations that disagree. -/
def execDuplexConfigTimeout (t : Nat) (s : State) : Out :=
  s.does t (fun d => d.duplexTimeout)

/-- PARTNER_ABSENT (R370): the third consecutive missed beat of the partner. -/
def execPartnerAbsent (t : Nat) (s : State) : Out :=
  s.does t (fun d => d.partnerAbsent)

/-- TOKEN_GIVE (R369): a host write of token_give. -/
def execTokenGive (h : Hdr) (val : W64) (s : State) : Out :=
  s.write h Par.weaveTokenGive 0 val

end Sys2Proof.Machine
end

