-- ==== Sys2Proof/Machine/Dispatch.lean ====
section
/-! DEFINITION. Every command and its meaning. -/

namespace Sys2Proof.Machine

/-- What a command does to everything but the queue. -/
def exec (i : Instr) (s : State) : Host.Outcome State Fault Refusal :=
  match i with
  | .beatBoundary x => Sys2Proof.Machine.execBeatBoundary x s
  | .tableSyncDone t set => Sys2Proof.Machine.execTableSyncDone t set s
  | .tablePersist t => Sys2Proof.Machine.execTablePersist t s
  | .commitValidationDone t => Sys2Proof.Machine.execCommitValidationDone t s
  | .tblCommit h val => Sys2Proof.Machine.execTblCommit h val s
  | .tblAbort h val => Sys2Proof.Machine.execTblAbort h val s
  | .beatGridWrite h which val => Sys2Proof.Machine.execBeatGridWrite h which val s
  | .computeWindowEnd => Sys2Proof.Machine.execComputeWindowEnd s
  | .finalStep => Sys2Proof.Machine.execFinalStep s
  | .contextDeadline t ctx => Sys2Proof.Machine.execContextDeadline t ctx s
  | .gridTargetWrite h g which val => Sys2Proof.Machine.execGridTargetWrite h g which val s
  | .impedanceEstimate t g => Sys2Proof.Machine.execImpedanceEstimate t g s
  | .svCycleComparison t g stream freq ang ago => Sys2Proof.Machine.execSvCycleComparison t g stream freq ang ago s
  | .svStreamAbsent t stream => Sys2Proof.Machine.execSvStreamAbsent t stream s
  | .staggerSlot t => Sys2Proof.Machine.execStaggerSlot t s
  | .openingDue t p => Sys2Proof.Machine.execOpeningDue t p s
  | .openingEnd t p => Sys2Proof.Machine.execOpeningEnd t p s
  | .ditherPeriodEnd t p => Sys2Proof.Machine.execDitherPeriodEnd t p s
  | .sampleNow h p val => Sys2Proof.Machine.execSampleNow h p val s
  | .socSet h p val => Sys2Proof.Machine.execSocSet h p val s
  | .storageEnergySave t => Sys2Proof.Machine.execStorageEnergySave t s
  | .pSetWrite h p val => Sys2Proof.Machine.execPSetWrite h p val s
  | .burstRequest h p val => Sys2Proof.Machine.execBurstRequest h p val s
  | .burstEnd t p => Sys2Proof.Machine.execBurstEnd t p s
  | .burstAbort h p val => Sys2Proof.Machine.execBurstAbort h p val s
  | .portClear h p val => Sys2Proof.Machine.execPortClear h p val s
  | .portUnlock h p val => Sys2Proof.Machine.execPortUnlock h p val s
  | .carrierUpdatePoint t n peak => Sys2Proof.Machine.execCarrierUpdatePoint t n peak s
  | .variableIntervalMax t n => Sys2Proof.Machine.execVariableIntervalMax t n s
  | .bootstrapRefresh t n => Sys2Proof.Machine.execBootstrapRefresh t n s
  | .osierCalibration t span => Sys2Proof.Machine.execOsierCalibration t span s
  | .legFaultInput t legs => Sys2Proof.Machine.execLegFaultInput t legs s
  | .legReadyHigh t n => Sys2Proof.Machine.execLegReadyHigh t n s
  | .legReadyLow t legs => Sys2Proof.Machine.execLegReadyLow t legs s
  | .legClear h n val => Sys2Proof.Machine.execLegClear h n val s
  | .adcConversion t n code => Sys2Proof.Machine.execAdcConversion t n code s
  | .adcCalibrate h n val => Sys2Proof.Machine.execAdcCalibrate h n val s
  | .adcCalibrationDone t n off gain => Sys2Proof.Machine.execAdcCalibrationDone t n off gain s
  | .sdiStuck t n => Sys2Proof.Machine.execSdiStuck t n s
  | .windowComparatorChange t w low active => Sys2Proof.Machine.execWindowComparatorChange t w low active s
  | .winReadback h w val => Sys2Proof.Machine.execWinReadback h w val s
  | .readbackDone t w codes => Sys2Proof.Machine.execReadbackDone t w codes s
  | .thresholdCheckPeriod t w => Sys2Proof.Machine.execThresholdCheckPeriod t w s
  | .meterSample t vs is => Sys2Proof.Machine.execMeterSample t vs is s
  | .zeroCrossingTimeout t e => Sys2Proof.Machine.execZeroCrossingTimeout t e s
  | .meterCommit t => Sys2Proof.Machine.execMeterCommit t s
  | .supplyLoss t => Sys2Proof.Machine.execSupplyLoss t s
  | .lastGaspRearm t => Sys2Proof.Machine.execLastGaspRearm t s
  | .capRunStart h n => Sys2Proof.Machine.execCapRunStart h n s
  | .capRunStop h n => Sys2Proof.Machine.execCapRunStop h n s
  | .blockFlush t n => Sys2Proof.Machine.execBlockFlush t n s
  | .captureBlockDelivery t n => Sys2Proof.Machine.execCaptureBlockDelivery t n s
  | .ringCaptureComplete t n => Sys2Proof.Machine.execRingCaptureComplete t n s
  | .hostFire h n val => Sys2Proof.Machine.execHostFire h n val s
  | .trigArmWrite h n val => Sys2Proof.Machine.execTrigArmWrite h n val s
  | .holdoffEnd t n => Sys2Proof.Machine.execHoldoffEnd t n s
  | .autoFire t n => Sys2Proof.Machine.execAutoFire t n s
  | .fireWindowClose t n => Sys2Proof.Machine.execFireWindowClose t n s
  | .rimInputChange t c mv => Sys2Proof.Machine.execRimInputChange t c mv s
  | .rimInputFiltered t c => Sys2Proof.Machine.execRimInputFiltered t c s
  | .discrepancyTimeout t k => Sys2Proof.Machine.execDiscrepancyTimeout t k s
  | .testPulseStart t m => Sys2Proof.Machine.execTestPulseStart t m s
  | .testPulseEnd t m => Sys2Proof.Machine.execTestPulseEnd t m s
  | .testLowDeadline t => Sys2Proof.Machine.execTestLowDeadline t s
  | .testWindowClose t => Sys2Proof.Machine.execTestWindowClose t s
  | .offTest t j ch => Sys2Proof.Machine.execOffTest t j ch s
  | .offTestEnd t j ch => Sys2Proof.Machine.execOffTestEnd t j ch s
  | .outputReadbackMismatch t j ch => Sys2Proof.Machine.execOutputReadbackMismatch t j ch s
  | .edmTimeout t j => Sys2Proof.Machine.execEdmTimeout t j s
  | .channelComparison t agree => Sys2Proof.Machine.execChannelComparison t agree s
  | .rimSupplyFault t => Sys2Proof.Machine.execRimSupplyFault t s
  | .rimResetRelease t pressGap releaseGap railsOk => Sys2Proof.Machine.execRimResetRelease t pressGap releaseGap railsOk s
  | .rimResetStuckTimeout t => Sys2Proof.Machine.execRimResetStuckTimeout t s
  | .rimConfigRecord h data => Sys2Proof.Machine.execRimConfigRecord h data s
  | .weftBlockLock t p => Sys2Proof.Machine.execWeftBlockLock t p s
  | .weftLockLoss t p => Sys2Proof.Machine.execWeftLockLoss t p s
  | .weftRelockWait t p => Sys2Proof.Machine.execWeftRelockWait t p s
  | .weftPortMissedBeats t p => Sys2Proof.Machine.execWeftPortMissedBeats t p s
  | .ident h identity strap stake partner peerPort => Sys2Proof.Machine.execIdent h identity strap stake partner peerPort s
  | .lsa h links => Sys2Proof.Machine.execLsa h links s
  | .assign h pairs => Sys2Proof.Machine.execAssign h pairs s
  | .beatPkt h b => Sys2Proof.Machine.execBeatPkt h b s
  | .time h t1 t2 echo => Sys2Proof.Machine.execTime h t1 t2 echo s
  | .signals h recs => Sys2Proof.Machine.execSignals h recs s
  | .armCur h xs => Sys2Proof.Machine.execArmCur h xs s
  | .ctxState h ctx n xs => Sys2Proof.Machine.execCtxState h ctx n xs s
  | .telemRelay h spoke pos half => Sys2Proof.Machine.execTelemRelay h spoke pos half s
  | .ringReport h spoke count ids => Sys2Proof.Machine.execRingReport h spoke count ids s
  | .fire h trig ts cause stake => Sys2Proof.Machine.execFire h trig ts cause stake s
  | .armBlock h arm cause => Sys2Proof.Machine.execArmBlock h arm cause s
  | .trigArm h trig arm beat => Sys2Proof.Machine.execTrigArm h trig arm beat s
  | .mgmt h m => Sys2Proof.Machine.execMgmt h m s
  | .codes h codes => Sys2Proof.Machine.execCodes h codes s
  | .subscribe h sigs => Sys2Proof.Machine.execSubscribe h sigs s
  | .weavePeriodicSend t => Sys2Proof.Machine.execWeavePeriodicSend t s
  | .duplexConfigTimeout t => Sys2Proof.Machine.execDuplexConfigTimeout t s
  | .partnerAbsent t => Sys2Proof.Machine.execPartnerAbsent t s
  | .tokenGive h val => Sys2Proof.Machine.execTokenGive h val s
  | .controlFrame t s' bytes lineOk => Sys2Proof.Machine.execControlFrame t s' bytes lineOk s
  | .discoverFrame t s' bytes lineOk => Sys2Proof.Machine.execDiscoverFrame t s' bytes lineOk s
  | .rangeFrame t s' bytes lineOk rt => Sys2Proof.Machine.execRangeFrame t s' bytes lineOk rt s
  | .returnFrame t s' bytes lineOk => Sys2Proof.Machine.execReturnFrame t s' bytes lineOk s
  | .spokeReceiverDead t s' => Sys2Proof.Machine.execSpokeReceiverDead t s' s
  | .spokeReceiverLive t s' => Sys2Proof.Machine.execSpokeReceiverLive t s' s
  | .spokeDiscover h s' val => Sys2Proof.Machine.execSpokeDiscover h s' val s
  | .discoveryComplete t s' => Sys2Proof.Machine.execDiscoveryComplete t s' s
  | .cellLost t c => Sys2Proof.Machine.execCellLost t c s
  | .spokeSplit t s' => Sys2Proof.Machine.execSpokeSplit t s' s
  | .spokeRejoined t s' => Sys2Proof.Machine.execSpokeRejoined t s' s
  | .cellUnblockFail t c => Sys2Proof.Machine.execCellUnblockFail t c s
  | .cellBypassFail t c => Sys2Proof.Machine.execCellBypassFail t c s
  | .spokeUnblock h s' val => Sys2Proof.Machine.execSpokeUnblock h s' val s
  | .cellBypassWrite h c val => Sys2Proof.Machine.execCellBypassWrite h c val s
  | .cellClearLockWrite h c val => Sys2Proof.Machine.execCellClearLockWrite h c val s
  | .cellSerialRefWrite h c val => Sys2Proof.Machine.execCellSerialRefWrite h c val s
  | .cellSettingWrite h c idx val => Sys2Proof.Machine.execCellSettingWrite h c idx val s
  | .blockClear h j val => Sys2Proof.Machine.execBlockClear h j val s
  | .recover h c val => Sys2Proof.Machine.execRecover h c val s
  | .ptpMessage t port off utc locked => Sys2Proof.Machine.execPtpMessage t port off utc locked s
  | .timeLockLost t => Sys2Proof.Machine.execTimeLockLost t s
  | .holdoverLimit t => Sys2Proof.Machine.execHoldoverLimit t s
  | .clkFail t dom => Sys2Proof.Machine.execClkFail t dom s
  | .clockDomainLocked t dom => Sys2Proof.Machine.execClockDomainLocked t dom s
  | .supLockstep t pair => Sys2Proof.Machine.execSupLockstep t pair s
  | .memUncorr t region => Sys2Proof.Machine.execMemUncorr t region s
  | .opn h => Sys2Proof.Machine.execOpn h s
  | .close h => Sys2Proof.Machine.execClose h s
  | .heartbeat h => Sys2Proof.Machine.execHeartbeat h s
  | .hello t link session tag payload => Sys2Proof.Machine.execHello t link session tag payload s
  | .finish h sig => Sys2Proof.Machine.execFinish h sig s
  | .read h entries => Sys2Proof.Machine.execRead h entries s
  | .readImage h obj offset length => Sys2Proof.Machine.execReadImage h obj offset length s
  | .write h entries => Sys2Proof.Machine.execWrite h entries s
  | .parameterWrite h entry => Sys2Proof.Machine.execParameterWrite h entry s
  | .bulkWrite h obj offset data => Sys2Proof.Machine.execBulkWrite h obj offset data s
  | .claim h objs => Sys2Proof.Machine.execClaim h objs s
  | .release h objs => Sys2Proof.Machine.execRelease h objs s
  | .modeRequest h code => Sys2Proof.Machine.execModeRequest h code s
  | .stopTrip h => Sys2Proof.Machine.execStopTrip h s
  | .stopLegs h => Sys2Proof.Machine.execStopLegs h s
  | .stopRegisterWrite t val => Sys2Proof.Machine.execStopRegisterWrite t val s
  | .abort h tag => Sys2Proof.Machine.execAbort h tag s
  | .proxy h ring stake inner => Sys2Proof.Machine.execProxy h ring stake inner s
  | .ringDoorbell t n head => Sys2Proof.Machine.execRingDoorbell t n head s
  | .ringTailWrite t n tail => Sys2Proof.Machine.execRingTailWrite t n tail s
  | .ringReset h n val => Sys2Proof.Machine.execRingReset h n val s
  | .heartbeatSend t => Sys2Proof.Machine.execHeartbeatSend t s
  | .sessionTimeout t s' => Sys2Proof.Machine.execSessionTimeout t s' s
  | .handshakeTimeout t s' => Sys2Proof.Machine.execHandshakeTimeout t s' s
  | .linkLoss t link => Sys2Proof.Machine.execLinkLoss t link s
  | .interruptCoalesce t n => Sys2Proof.Machine.execInterruptCoalesce t n s
  | .svFrame t port mac appid id synch datasetOk qualityOk dup => Sys2Proof.Machine.execSvFrame t port mac appid id synch datasetOk qualityOk dup s
  | .reassemblyTimeout t link datagram => Sys2Proof.Machine.execReassemblyTimeout t link datagram s
  | .supervisionFrame t => Sys2Proof.Machine.execSupervisionFrame t s
  | .attest h nonce => Sys2Proof.Machine.execAttest h nonce s
  | .updManifest h total offset data => Sys2Proof.Machine.execUpdManifest h total offset data s
  | .updChunk h index half data => Sys2Proof.Machine.execUpdChunk h index half data s
  | .chunkMarked t index => Sys2Proof.Machine.execChunkMarked t index s
  | .updStatus h => Sys2Proof.Machine.execUpdStatus h s
  | .updCancel h => Sys2Proof.Machine.execUpdCancel h s
  | .updActivate h mode => Sys2Proof.Machine.execUpdActivate h mode s
  | .activationVerified t => Sys2Proof.Machine.execActivationVerified t s
  | .updConfirm h => Sys2Proof.Machine.execUpdConfirm h s
  | .autoConfirm t => Sys2Proof.Machine.execAutoConfirm t s
  | .trialWindowExpiry t => Sys2Proof.Machine.execTrialWindowExpiry t s
  | .ownershipLapse t => Sys2Proof.Machine.execOwnershipLapse t s
  | .keyEnrol h payload => Sys2Proof.Machine.execKeyEnrol h payload s
  | .keyRevoke h payload => Sys2Proof.Machine.execKeyRevoke h payload s
  | .retainedClear h val => Sys2Proof.Machine.execRetainedClear h val s
  | .porstnAssert t => Sys2Proof.Machine.execPorstnAssert t s
  | .porstnRelease t straps rimStraps => Sys2Proof.Machine.execPorstnRelease t straps rimStraps s
  | .brownOut t rail => Sys2Proof.Machine.execBrownOut t rail s
  | .serviceReset t => Sys2Proof.Machine.execServiceReset t s
  | .svcRstStuckTimeout t => Sys2Proof.Machine.execSvcRstStuckTimeout t s
  | .watchdogExpiry t => Sys2Proof.Machine.execWatchdogExpiry t s
  | .resetReq h val => Sys2Proof.Machine.execResetReq h val s
  | .warmResetRelease t straps rimStraps => Sys2Proof.Machine.execWarmResetRelease t straps rimStraps s
  | .bootLoaderStart t => Sys2Proof.Machine.execBootLoaderStart t s
  | .firmwareStart t => Sys2Proof.Machine.execFirmwareStart t s
  | .runEntry t ddrMiB => Sys2Proof.Machine.execRunEntry t ddrMiB s
  | .pwrRequestParked h => Sys2Proof.Machine.execPwrRequestParked h s
  | .pwrRequestRun h => Sys2Proof.Machine.execPwrRequestRun h s
  | .pwrRequestDark h => Sys2Proof.Machine.execPwrRequestDark h s
  | .autoPark t => Sys2Proof.Machine.execAutoPark t s
  | .parkingComplete t => Sys2Proof.Machine.execParkingComplete t s
  | .wakePin t => Sys2Proof.Machine.execWakePin t s
  | .parkTimerWake t => Sys2Proof.Machine.execParkTimerWake t s
  | .wakeComplete x ddrMiB => Sys2Proof.Machine.execWakeComplete x ddrMiB s
  | .darkEntryComplete t => Sys2Proof.Machine.execDarkEntryComplete t s
  | .auxFailHigh t => Sys2Proof.Machine.execAuxFailHigh t s
  | .darkAlarm t => Sys2Proof.Machine.execDarkAlarm t s
  | .darkExitRelease t straps rimStraps => Sys2Proof.Machine.execDarkExitRelease t straps rimStraps s
  | .tamperChange t level => Sys2Proof.Machine.execTamperChange t level s
  | .temperatureLog t tj mv => Sys2Proof.Machine.execTemperatureLog t tj mv s
  | .harvPgChange t rising vstore => Sys2Proof.Machine.execHarvPgChange t rising vstore s
  | .controlledStageStart t vstore => Sys2Proof.Machine.execControlledStageStart t vstore s
  | .coldStartReturn t vstore => Sys2Proof.Machine.execColdStartReturn t vstore s
  | .vstoreFull t vstore => Sys2Proof.Machine.execVstoreFull t vstore s
  | .vstoreResume t vstore => Sys2Proof.Machine.execVstoreResume t vstore s
  | .harvesterVocSample t voc vteg vstore => Sys2Proof.Machine.execHarvesterVocSample t voc vteg vstore s
  | .islandSourceChange t src => Sys2Proof.Machine.execIslandSourceChange t src s
  | .islandSourcesLost t => Sys2Proof.Machine.execIslandSourcesLost t s
  | .islandPowerOn t src vstore below => Sys2Proof.Machine.execIslandPowerOn t src vstore below s
  | .evtRaise h n val => Sys2Proof.Machine.execEvtRaise h n val s
  | .eventLogAppend t => Sys2Proof.Machine.execEventLogAppend t s
  | .eventRecordDelivery t => Sys2Proof.Machine.execEventRecordDelivery t s
  | .deliverySecond t => Sys2Proof.Machine.execDeliverySecond t s
  | .supervisorPairRestarted t pair => Sys2Proof.Machine.execSupervisorPairRestarted t pair s
  | .rollbackFusesBlown t => Sys2Proof.Machine.execRollbackFusesBlown t s
  | .linkUp t link speed width => Sys2Proof.Machine.execLinkUp t link speed width s
  | .sdiDecimatedSample t n bits => Sys2Proof.Machine.execSdiDecimatedSample t n bits s
  | .gateLEdge t n => Sys2Proof.Machine.execGateLEdge t n s
  | .rimResetPressStart t released1s => Sys2Proof.Machine.execRimResetPressStart t released1s s
  | .serviceResetPressStart t highFor => Sys2Proof.Machine.execServiceResetPressStart t highFor s
  | .weaveTimeRegisterRead t => Sys2Proof.Machine.execWeaveTimeRegisterRead t s
  | .arpNeighbourOrEcho t port kind target data => Sys2Proof.Machine.execArpNeighbourOrEcho t port kind target data s
  | .hsrRingForward t port src seq frame => Sys2Proof.Machine.execHsrRingForward t port src seq frame s

end Sys2Proof.Machine
end

