-- ==== Sys2Proof/Safety.lean ====
section
/-! DEFINITION. The terms in which claims speak: what it is for a command to complete, for the pins to be safe, for a table to be in its
canonical form. -/

namespace Sys2Proof.Machine

/-- A command completes: it answers a next state, with the queue as it was and the device as `P` says. -/
def Completes (c : Instr) (s : State) (P : Dev → Prop) : Prop :=
  ∃ t : State, exec c s = .next t ∧ t.pending = s.pending ∧ P t.dev

/-- The parts of the device beside the object dictionary. -/
inductive Fld where
  | now | beatStart | beatLen | newGrid | free | phase | evt | host | tsets | commits | mode | legs | osier | ports | caps | trigs | ctxs | eng | grids | isls | spokes | cells | arms | adcs | sdis | wins | sup | weave | rim | met | lid | pwr | pins
deriving DecidableEq, Repr

/-- Two devices have this part in common. -/
def Fld.same (d e : Dev) : Fld → Prop
  | .now => e.now = d.now
  | .beatStart => e.beatStart = d.beatStart
  | .beatLen => e.beatLen = d.beatLen
  | .newGrid => e.newGrid = d.newGrid
  | .free => e.free = d.free
  | .phase => e.phase = d.phase
  | .evt => e.evt = d.evt
  | .host => e.host = d.host
  | .tsets => e.tsets = d.tsets
  | .commits => e.commits = d.commits
  | .mode => e.mode = d.mode
  | .legs => e.legs = d.legs
  | .osier => e.osier = d.osier
  | .ports => e.ports = d.ports
  | .caps => e.caps = d.caps
  | .trigs => e.trigs = d.trigs
  | .ctxs => e.ctxs = d.ctxs
  | .eng => e.eng = d.eng
  | .grids => e.grids = d.grids
  | .isls => e.isls = d.isls
  | .spokes => e.spokes = d.spokes
  | .cells => e.cells = d.cells
  | .arms => e.arms = d.arms
  | .adcs => e.adcs = d.adcs
  | .sdis => e.sdis = d.sdis
  | .wins => e.wins = d.wins
  | .sup => e.sup = d.sup
  | .weave => e.weave = d.weave
  | .rim => e.rim = d.rim
  | .met => e.met = d.met
  | .lid => e.lid = d.lid
  | .pwr => e.pwr = d.pwr
  | .pins => e.pins = d.pins

/-- The class of a parameter; beat_count stands by itself, since only the boundary and a step of the counter write it. -/
def Par.group (p : Par) : Nat := if p = Par.beatBeatCount then 0x200 else p.cls

/-- A frame: `e` has every parameter of `d` but those of the groups `cs`, and every other part of it but those of `fs`. -/
def Dev.Agree (cs : List Nat) (fs : List Fld) (d e : Dev) : Prop :=
  (∀ (p : Par) (i : Nat), p.small = true → cs.contains p.group = false → e.raw p i = d.raw p i) ∧
  ∀ f : Fld, fs.contains f = false → f.same d e

/-- No leg has both gate pins high; a leg with a gate pin high is in RUN, with the TB clock, in a power mode in which legs run (R48, R252, R257). -/
def Dev.gatesSafe (d : Dev) : Prop :=
  ∀ n < 40, ¬(d.pins.gateH.getLsbD n = true ∧ d.pins.gateL.getLsbD n = true) ∧
    (d.pins.gateH.getLsbD n = true ∨ d.pins.gateL.getLsbD n = true →
      d.get Par.legState n = lsRun ∧ d.full = true ∧ d.clkOk cdTb = true)

/-- A Rim output pin toggles only while its output is energised, the Rim runs and the TB clock is there (R24, R331, R332). -/
def Dev.rimOutputsSafe (d : Dev) : Prop :=
  ∀ j < 4, (d.pins.rimOutA.getLsbD j = true ∨ d.pins.rimOutB.getLsbD j = true) →
    d.rim.running = true ∧ d.clkOk cdTb = true ∧ d.phase ≠ .recovery ∧ d.outOn j = true

/-- An output that is energised is used and has no latch cause (R323, R330). -/
def Dev.rimLatchedOff (d : Dev) : Prop := ∀ j < 4, d.outOn j = true → d.outUsed j = true ∧ d.outCauses j = 0

/-- LOOP_EN is high only while firmware serves the part; MAIN_EN is driven low only in DARK (R446, Table 19.7). -/
def Dev.powerPinsSafe (d : Dev) : Prop :=
  (d.pins.loopEn = true → d.phase = .run) ∧ (d.pins.mainEnLow = true → d.phase = .dark)

/-- The pins are safe. -/
def Dev.pinsSafe (d : Dev) : Prop := d.gatesSafe ∧ d.rimOutputsSafe ∧ d.powerPinsSafe

/-- A weave message is received and meant for this device: the port is UP, the CRC-32 holds, and it goes to the neighbour or to this stake (R349, R351). -/
def Dev.hears (d : Dev) (h : WHdr) : Prop :=
  d.full = true ∧ (d.wport h.port.val).state = wpUp ∧ h.crcOk = true
    ∧ (h.dest.toNat = 0xFE ∨ (h.dest.toNat < 0xFE ∧ d.weave.stake = some h.dest.toNat))

/-- The pins show the state: what the device drives is what its state says it drives (Table 19.7, R464). -/
def Dev.pinsShown (d : Dev) : Prop := d.pins = d.pinsNow

/-- A host message of an open session gets in by its command ring on PCIe and its response finds room: firmware and the service pair run, the link is
up, no seal is asked for, and neither a stored response nor a message registered in this beat has its opcode and tag; its slot can be read (R28, R380, R384, R388, R399). -/
def Dev.served (d : Dev) (h : Hdr) (op : Nat) : Prop :=
  d.phase = .run ∧ d.pairHalted 1 = false ∧ d.linkIsUp 0 = true ∧ h.sealed = none ∧ d.isOn Par.linkSealRequired 0 = false
  ∧ (d.sess h.session.val).isOpen = true ∧ (d.sess h.session.val).link = 0 ∧ (d.sess h.session.val).origin = none
  ∧ d.get Par.ringState h.session.val ≠ 2 ∧ d.get Par.ringState (16 + h.session.val) ≠ 2 ∧ d.ringFull (16 + h.session.val) = false
  ∧ d.slotBad h.session.val = false ∧ (d.ring (16 + h.session.val)).waiting = []
  ∧ (∀ x ∈ (d.sess h.session.val).stored, x.op = op → x.tag ≠ h.tag.toNat)
  ∧ ∀ m ∈ d.host.msgs, m.session = h.session.val → m.op = op → m.tag ≠ h.tag.toNat

/-- The message has been answered: the response ring holds one slot more, a response of this opcode and tag with its status, the TS64 of the
registration and what follows it (Table 17.1, R381). -/
def Dev.answered (d e : Dev) (h : Hdr) (op status : Nat) (body : List Byte) (deferred : Bool) : Prop :=
  (e.ring (16 + h.session.val)).slots = (d.ring (16 + h.session.val)).slots
      ++ [mkMsg op h.tag.toNat h.session.val status (if deferred then 12 else 4) (leBytes 8 (d.instant h.t) ++ body)]
  ∧ e.get Par.ringHead (16 + h.session.val) = (d.get Par.ringHead (16 + h.session.val) + 1) % 2 ^ 32

/-- The message as it is registered in the present beat: its session and tag, the TS64 of its registration, its status and its entries (R382). -/
def Dev.registered (d : Dev) (h : Hdr) (op status : Nat) (work : List RegWrite) : Msg :=
  { session := h.session.val, tag := h.tag.toNat, op := op, ts := d.instant h.t, status := status, work := work }

/-- The command is a write of one parameter: its header, the parameter, the instance and the value. -/
def hostWrite : Instr → Option (Hdr × Par × Nat × W64)
  | .adcCalibrate h n val => some (h, Par.adcCalibrate, n.val, val)
  | .winReadback h w val => some (h, Par.winReadback, w.val, val)
  | .tblCommit h val => some (h, Par.devTblCommit, 0, val)
  | .tblAbort h val => some (h, Par.devTblAbort, 0, val)
  | .beatGridWrite h which val => some (h, beatGridPar which, 0, val)
  | .capRunStart h n => some (h, Par.capRun, n.val, 1)
  | .capRunStop h n => some (h, Par.capRun, n.val, 0)
  | .hostFire h n val => some (h, Par.trigFire, n.val, val)
  | .trigArmWrite h n val => some (h, Par.trigArm, n.val, val)
  | .evtRaise h n val => some (h, Par.evtRaise, n.val, val)
  | .gridTargetWrite h g which val => some (h, gridTargetPar which, g.val, val)
  | .ringReset h n val => some (h, Par.ringReset, n.val, val)
  | .legClear h n val => some (h, Par.legClear, n.val, val)
  | .sampleNow h p val => some (h, Par.portSampleNow, p.val, val)
  | .socSet h p val => some (h, Par.portSocSet, p.val, val)
  | .pSetWrite h p val => some (h, Par.portPSet, p.val, val)
  | .burstRequest h p val => some (h, Par.portBurstReq, p.val, val)
  | .burstAbort h p val => some (h, Par.portBurstAbort, p.val, val)
  | .portClear h p val => some (h, Par.portClear, p.val, val)
  | .portUnlock h p val => some (h, Par.portUnlock, p.val, val)
  | .resetReq h val => some (h, Par.pwrResetReq, 0, val)
  | .pwrRequestParked h => some (h, Par.pwrRequest, 0, 2)
  | .pwrRequestRun h => some (h, Par.pwrRequest, 0, 1)
  | .pwrRequestDark h => some (h, Par.pwrRequest, 0, 3)
  | .spokeDiscover h s' val => some (h, Par.spokeDiscover, s'.val, val)
  | .spokeUnblock h s' val => some (h, Par.spokeUnblock, s'.val, val)
  | .cellBypassWrite h c val => some (h, Par.cellBypass, c.val, val)
  | .cellClearLockWrite h c val => some (h, Par.cellClearLock, c.val, val)
  | .cellSerialRefWrite h c val => some (h, Par.cellSerialRef, c.val, val)
  | .cellSettingWrite h c idx val => some (h, ⟨0x11, idx.toNat⟩, c.val, val)
  | .blockClear h j val => some (h, Par.armBlockClear, j.val, val)
  | .recover h c val => some (h, Par.ctxRecover, c.val, val)
  | .retainedClear h val => some (h, Par.updRetainedClear, 0, val)
  | .tokenGive h val => some (h, Par.weaveTokenGive, 0, val)
  | _ => none

/-- The command is a host message in the command ring of its session: its header and the request. -/
def hostRequest : Instr → Option (Hdr × HostMsg)
  | .opn h => some (h, .opn)
  | .close h => some (h, .close)
  | .heartbeat h => some (h, .heartbeat)
  | .finish h sig => some (h, .finish sig)
  | .read h es => some (h, .read es)
  | .readImage h o off n => some (h, .readImage o off n)
  | .write h es => some (h, .write es)
  | .parameterWrite h e => some (h, .write [e])
  | .bulkWrite h o off x => some (h, .bulkWrite o off x)
  | .rimConfigRecord h x => some (h, .bulkWrite 0x70000000 0 x)
  | .claim h os => some (h, .claim os)
  | .release h os => some (h, .release os)
  | .modeRequest h c => some (h, .modeRequest c)
  | .stopTrip h => some (h, .stopTrip)
  | .stopLegs h => some (h, .stopLegs)
  | .abort h tag => some (h, .abort tag)
  | .attest h n => some (h, .attest n)
  | .updManifest h total off x => some (h, .updManifest total off x)
  | .updChunk h i half x => some (h, .updChunk i half x)
  | .updStatus h => some (h, .updStatus)
  | .updCancel h => some (h, .updCancel)
  | .updActivate h mode => some (h, .updActivate mode)
  | .updConfirm h => some (h, .updConfirm)
  | .keyEnrol h x => some (h, .keyEnrol x)
  | .keyRevoke h x => some (h, .keyRevoke x)
  | c => (hostWrite c).map (fun e =>
      (e.1, .write [{ obj := BitVec.ofNat 32 (oid e.2.1.cls e.2.2.1), idx := BitVec.ofNat 16 e.2.1.idx, val := e.2.2.2 }]))

/-- No session but this one holds a claim. -/
def Dev.soleClaims (d : Dev) (s : Nat) : Prop := ∀ c ∈ d.host.claims, c.session = s

/-- The copies of the boot and ownership records alternate (R416): a record stands in the place of its sequence number's last bit. -/
def Dev.recordsAlternate (d : Dev) : Prop :=
  ∀ k < 2, (∀ r : BootRec, d.lid.boot.get (fun _ => none) k = some r → r.seq % 2 = k ∧ r.seq < 2 ^ 32)
    ∧ ∀ r : OwnRec, d.lid.own.get (fun _ => none) k = some r → r.seq % 2 = k ∧ r.seq < 2 ^ 32

/-! ## Frames of the commands -/

/-- What may change in every command: time, and what follows an occurrence (event records and flags, triggers and streams it names, messages of a fire
that leave, a wake, the pins). -/
def touches (cs : List Nat) (fs : List Fld) : List Nat × List Fld :=
  (cs ++ [0x60, 0x61, 0xB0, 0xC0], fs ++ [.now, .evt, .caps, .trigs, .weave, .pwr, .pins])

/-- No frame: a boundary or a reset, or what may end in one. -/
def everything : List Nat × List Fld :=
  (List.range 0x201, [.now, .beatStart, .beatLen, .newGrid, .free, .phase, .evt, .host, .tsets, .commits, .mode, .legs, .osier, .ports, .caps, .trigs, .ctxs,
    .eng, .grids, .isls, .spokes, .cells, .arms, .adcs, .sdis, .wins, .sup, .weave, .rim, .met, .lid, .pwr, .pins])

/-- The groups of parameters and the parts of the device that a command may change, by the classes and blocks its rules name. -/
def instrTouch : Instr → List Nat × List Fld
  | .beatBoundary _ | .activationVerified _ | .porstnAssert _ | .brownOut _ _ | .serviceReset _ | .watchdogExpiry _ | .firmwareStart _
    | .wakeComplete _ _ | .darkEntryComplete _ | .islandSourcesLost _ =>
    everything
  | .tableSyncDone _ _ =>
    touches [] [.tsets]
  | .tablePersist _ =>
    touches [] [.lid, .tsets]
  | .commitValidationDone _ =>
    touches [0x90, 0x91] [.commits, .host, .tsets]
  | .tblCommit _ _ | .tblAbort _ _ | .beatGridWrite _ _ _ | .gridTargetWrite _ _ _ _ | .sampleNow _ _ _ | .socSet _ _ _ | .pSetWrite _ _ _
    | .burstRequest _ _ _ | .burstAbort _ _ _ | .portClear _ _ _ | .portUnlock _ _ _ | .legClear _ _ _ | .adcCalibrate _ _ _ | .winReadback _ _ _
    | .capRunStart _ _ | .capRunStop _ _ | .trigArmWrite _ _ _ | .rimConfigRecord _ _ | .tokenGive _ _ | .spokeDiscover _ _ _
    | .spokeUnblock _ _ _ | .cellBypassWrite _ _ _ | .cellClearLockWrite _ _ _ | .cellSerialRefWrite _ _ _ | .cellSettingWrite _ _ _ _
    | .blockClear _ _ _ | .recover _ _ _ | .opn _ | .close _ | .heartbeat _ | .read _ _ | .readImage _ _ _ _ | .bulkWrite _ _ _ _ | .claim _ _
    | .release _ _ | .modeRequest _ _ | .ringReset _ _ _ | .handshakeTimeout _ _ | .updStatus _ | .retainedClear _ _ | .resetReq _ _
    | .pwrRequestParked _ | .pwrRequestRun _ | .pwrRequestDark _ | .evtRaise _ _ _ =>
    touches [0x90, 0x91] [.commits, .host, .lid]
  | .computeWindowEnd =>
    touches [0x03, 0x12, 0x20, 0x21, 0x22, 0x30, 0x31, 0x90, 0x91] [.arms, .cells, .commits, .ctxs, .eng, .grids, .host, .isls, .legs, .lid, .met, .ports, .spokes, .tsets]
  | .finalStep =>
    touches [0x03, 0x12, 0x20, 0x21, 0x22, 0x30, 0x31, 0x90, 0x91] [.arms, .cells, .commits, .ctxs, .eng, .grids, .host, .isls, .lid, .met, .ports, .tsets]
  | .contextDeadline _ _ =>
    touches [0x03, 0x12, 0x20, 0x21, 0x22, 0x30, 0x31, 0x90, 0x91] [.commits, .ctxs, .eng, .grids, .host, .isls, .lid, .met, .ports, .tsets]
  | .impedanceEstimate _ _ =>
    touches [] [.isls]
  | .svCycleComparison _ _ _ _ _ _ | .codes _ _ =>
    touches [0x22] [.isls]
  | .svStreamAbsent _ _ =>
    touches [0x22] [.host, .isls]
  | .staggerSlot _ | .ditherPeriodEnd _ _ | .burstEnd _ _ =>
    touches [0x30] [.ports]
  | .openingDue _ _ =>
    touches [] [.ports]
  | .openingEnd _ _ =>
    touches [0x20, 0x30] [.ports]
  | .storageEnergySave _ | .blockFlush _ _ | .ringCaptureComplete _ _ | .holdoffEnd _ _ | .autoFire _ _ | .fireWindowClose _ _
    | .testPulseEnd _ _ | .weftBlockLock _ _ | .weftRelockWait _ _ | .assign _ _ | .signals _ _ | .fire _ _ _ _ _ | .trigArm _ _ _ _
    | .subscribe _ _ | .weavePeriodicSend _ | .svcRstStuckTimeout _ | .autoPark _ | .wakePin _ | .parkTimerWake _ | .auxFailHigh _ | .darkAlarm _
    | .tamperChange _ _ | .temperatureLog _ _ _ | .islandSourceChange _ _ | .eventLogAppend _ | .deliverySecond _ | .serviceResetPressStart _ _ =>
    touches [] []
  | .carrierUpdatePoint _ _ _ | .variableIntervalMax _ _ =>
    touches [0x31] [.legs]
  | .bootstrapRefresh _ _ | .legReadyHigh _ _ | .gateLEdge _ _ =>
    touches [] [.legs]
  | .osierCalibration _ _ =>
    touches [0x31] [.osier]
  | .legFaultInput _ _ | .legReadyLow _ _ =>
    touches [0x20, 0x30, 0x31] [.legs, .ports]
  | .adcConversion _ _ _ | .adcCalibrationDone _ _ _ _ =>
    touches [0x40] [.adcs]
  | .sdiStuck _ _ =>
    touches [0x41] [.sdis]
  | .windowComparatorChange _ _ _ _ =>
    touches [0x12, 0x20, 0x30, 0x31, 0x42, 0x70] [.arms, .legs, .mode, .ports, .rim]
  | .readbackDone _ _ _ =>
    touches [0x42] [.adcs, .wins]
  | .thresholdCheckPeriod _ _ =>
    touches [0x42] [.wins]
  | .meterSample _ _ _ | .zeroCrossingTimeout _ _ | .meterCommit _ | .supplyLoss _ =>
    touches [0x50] [.met]
  | .lastGaspRearm _ =>
    touches [] [.met]
  | .captureBlockDelivery _ _ | .hello _ _ _ _ _ | .ringTailWrite _ _ _ | .heartbeatSend _ | .eventRecordDelivery _ =>
    touches [0x90, 0x91] [.host]
  | .hostFire _ _ _ | .mgmt _ _ | .finish _ _ | .write _ _ | .parameterWrite _ _ | .stopTrip _ | .stopLegs _ | .abort _ _ | .proxy _ _ _ _
    | .attest _ _ | .updManifest _ _ _ _ | .updChunk _ _ _ _ | .updCancel _ | .updActivate _ _ | .updConfirm _ | .keyEnrol _ _ | .keyRevoke _ _ =>
    touches [0x20, 0x30, 0x31, 0x90, 0x91, 0xA0, 0xA1] [.commits, .host, .legs, .lid, .mode, .ports, .tsets]
  | .rimInputChange _ _ _ | .rimInputFiltered _ _ | .discrepancyTimeout _ _ | .testLowDeadline _ | .testWindowClose _ | .offTestEnd _ _ _
    | .outputReadbackMismatch _ _ _ | .edmTimeout _ _ | .channelComparison _ _ | .rimSupplyFault _ =>
    touches [0x70] [.rim]
  | .testPulseStart _ _ | .offTest _ _ _ | .rimResetStuckTimeout _ | .rimResetPressStart _ _ =>
    touches [] [.rim]
  | .rimResetRelease _ _ _ _ =>
    touches [0x70, 0xA0] [.lid, .rim]
  | .weftLockLoss _ _ | .weftPortMissedBeats _ _ | .ident _ _ _ _ _ _ | .beatPkt _ _ =>
    touches [0x80, 0x81, 0x90] []
  | .lsa _ _ | .partnerAbsent _ =>
    touches [0x80, 0x81] []
  | .time _ _ _ _ =>
    touches [0x02, 0x200, 0x22] [.beatLen, .beatStart, .free, .isls, .newGrid, .sup]
  | .armCur _ _ =>
    touches [] [.arms]
  | .ctxState _ _ _ _ =>
    touches [] [.ctxs]
  | .telemRelay _ _ _ _ | .controlFrame _ _ _ _ | .returnFrame _ _ _ _ =>
    touches [0x10, 0x11, 0x12, 0x80] [.arms, .cells, .mode, .spokes]
  | .ringReport _ _ _ _ =>
    touches [0x11] [.cells, .spokes]
  | .armBlock _ _ _ =>
    touches [0x12] [.arms, .mode]
  | .duplexConfigTimeout _ =>
    touches [0x80] []
  | .discoverFrame _ _ _ _ =>
    touches [0x10, 0x11] [.cells, .spokes]
  | .rangeFrame _ _ _ _ _ | .spokeReceiverLive _ _ | .spokeSplit _ _ =>
    touches [0x10] [.spokes]
  | .spokeReceiverDead _ _ | .spokeRejoined _ _ =>
    touches [0x10] []
  | .discoveryComplete _ _ =>
    touches [0x10, 0x11, 0x12] [.cells, .spokes]
  | .cellLost _ _ =>
    touches [0x11, 0x12] [.cells]
  | .cellUnblockFail _ _ =>
    touches [] [.cells]
  | .cellBypassFail _ _ =>
    touches [0x11, 0x12] [.arms, .mode]
  | .ptpMessage _ _ _ _ _ =>
    touches [0x02, 0x200, 0x22, 0x90] [.beatLen, .beatStart, .free, .isls, .newGrid, .sup]
  | .timeLockLost _ =>
    touches [0x02] [.sup]
  | .holdoverLimit _ =>
    touches [0x02] []
  | .clkFail _ _ =>
    touches [0x01, 0x02, 0x04, 0x20, 0x21, 0x30, 0x31, 0x80, 0x81, 0x90, 0x91] [.commits, .grids, .host, .legs, .lid, .mode, .ports, .sup]
  | .clockDomainLocked _ _ =>
    touches [0x200] [.beatLen, .beatStart, .mode, .sup]
  | .supLockstep _ _ =>
    touches [0x90] [.commits, .host, .isls, .lid, .mode, .sup]
  | .memUncorr _ _ =>
    touches [0x01, 0x90] [.commits, .host, .isls, .lid, .mode, .sup]
  | .stopRegisterWrite _ _ =>
    touches [0x20, 0x30, 0x31] [.legs, .mode, .ports]
  | .ringDoorbell _ _ _ =>
    touches [0x91] []
  | .sessionTimeout _ _ =>
    touches [0x90] [.commits, .host, .lid]
  | .linkLoss _ _ =>
    touches [0x02, 0x90] [.commits, .host, .lid, .sup]
  | .interruptCoalesce _ _ | .reassemblyTimeout _ _ _ | .weaveTimeRegisterRead _ =>
    touches [] [.host]
  | .svFrame _ _ _ _ _ _ _ _ _ =>
    touches [0x22, 0x90] [.host, .isls]
  | .supervisionFrame _ | .arpNeighbourOrEcho _ _ _ _ _ | .hsrRingForward _ _ _ _ _ =>
    touches [0x90] [.host]
  | .chunkMarked _ _ | .autoConfirm _ | .trialWindowExpiry _ | .ownershipLapse _ =>
    touches [] [.lid]
  | .porstnRelease _ _ _ | .warmResetRelease _ _ _ | .darkExitRelease _ _ _ =>
    touches [0x12, 0x20, 0x30, 0x31, 0x42, 0x50, 0x70, 0x90, 0x91, 0xA0, 0xA1] [.arms, .host, .legs, .lid, .met, .mode, .phase, .ports, .rim]
  | .bootLoaderStart _ =>
    touches [0xA0] [.lid, .phase]
  | .runEntry _ _ =>
    touches [0x02, 0x12, 0x20, 0x200, 0x21, 0x22, 0x30, 0x31, 0x42, 0x70, 0x80, 0x81] [.adcs, .arms, .beatLen, .beatStart, .grids, .legs, .mode, .phase, .ports, .rim, .sup]
  | .parkingComplete _ =>
    touches [0x02, 0x12, 0x20, 0x30, 0x31, 0x42, 0x70, 0x80, 0x81, 0x90] [.arms, .commits, .host, .legs, .lid, .mode, .ports, .rim, .sup]
  | .harvPgChange _ _ _ | .controlledStageStart _ _ | .coldStartReturn _ _ | .vstoreFull _ _ | .vstoreResume _ _ | .harvesterVocSample _ _ _ _ =>
    touches [0xB1] []
  | .islandPowerOn _ _ _ _ =>
    touches [0x02, 0xB1] [.beatStart, .phase]
  | .supervisorPairRestarted _ _ =>
    touches [0x01] [.mode, .sup]
  | .rollbackFusesBlown _ =>
    touches [0xA0] [.lid]
  | .linkUp _ _ _ _ =>
    touches [0x90] []
  | .sdiDecimatedSample _ _ _ =>
    touches [] [.sdis]

end Sys2Proof.Machine
end

