-- ==== Sys2Proof/Certificates/Slice0/Obligations.lean ====
section
/-! DEFINITION. The statements for the provers: what a step does, what every step keeps, and for every family of commands what each command
does and what it leaves alone. -/

open Sys2Proof Sys2Proof.Machine

/-! ## The machine as a whole -/

/-- A step with a command in front of the queue is that command on the queue's rest. -/
def Obligations.StepRunsFrontCommand : Prop :=
  ∀ (c : Instr) (s : State) (cs : List Instr), s.pending = c :: cs → step s = exec c { s with pending := cs }

/-- With no command waiting the block idles: a step changes nothing (the model's choice, log entry 7). -/
def Obligations.EmptyQueueIdles : Prop :=
  ∀ s : State, s.pending = [] → step s = .next s

/-- No command stops the machine: each answers a next state, leaves the queue as it was, and leaves no occurrence unserved (the model's choice where
a state does not allow the effect, log entry 1). -/
def Obligations.EveryCommandAnswers : Prop :=
  ∀ (c : Instr) (s : State), Completes c s (fun d => d.evt.fresh = [])

/-- Right after reset every pin is at rest: no gate driven, no Rim output, no LOOP_EN, no EVT_OUT, and the pins show the state; every parameter is
at its default (R456, Table 18.5; log entry 2 names the values the spec does not give); what every step keeps holds there. -/
def Obligations.ResetPinsAtRest : Prop :=
  State.reset.dev.pinsShown ∧ State.reset.dev.pins.gateH = 0 ∧ State.reset.dev.pins.gateL = 0 ∧ State.reset.dev.pins.evtOut = 0
  ∧ State.reset.dev.pins.rimOutA = 0 ∧ State.reset.dev.pins.rimOutB = 0 ∧ State.reset.dev.pins.rimTp = 0
  ∧ State.reset.dev.pins.loopEn = false ∧ State.reset.dev.phase = .held ∧ State.reset.pending = []
  ∧ State.reset.dev.pinsSafe ∧ State.reset.dev.evt.fresh = [] ∧ State.reset.dev.rimLatchedOff ∧ State.reset.dev.recordsAlternate
  ∧ ∀ (p : Par) (i : Nat), State.reset.dev.raw p i = parDefault (parKey p i)

/-- Pins that show the state are safe: no leg has both gate pins high, a leg with a gate pin high is in RUN with the TB clock (R48, R252, R257), a
Rim output toggles only while energised (R24, R331), LOOP_EN only while firmware runs. -/
def Obligations.ShownPinsAreSafe : Prop :=
 ∀ d : Dev, d.pinsShown → d.pinsSafe

/-- Every step keeps the pins true to the state and safe, from every state in which they are. -/
def Obligations.StepKeepsPinsSafe : Prop :=
  ∀ s t : State, s.dev.pinsShown ∧ s.dev.pinsSafe ∧ s.dev.evt.fresh = [] → step s = .next t →
    t.dev.pinsShown ∧ t.dev.pinsSafe ∧ t.dev.evt.fresh = []

/-- EVT_OUTk is high exactly while some event whose pin_mask names it has its flag set, after every command while firmware or the start-up applies
events (R464). -/
def Obligations.EventPinsFollowFlags : Prop :=
  ∀ (c : Instr) (s : State), Completes c s (fun d => ∀ k < 4,
    d.pins.evtOut.getLsbD k = (d.evtUp && (List.range 256).any (fun n => d.isOn Par.evtFlag n && bit (d.get Par.evtPinMask n) k)))

/-! ## Power, reset and the always-on island -/

/-- PORSTN_ASSERT, BROWN_OUT and ISLAND_SOURCES_LOST reset the device (R430, R434, R435, R452): it is held, its cause noted; weave time, the event
log and the settings stay (R29, R30), every other parameter is at its default but those a reset keeps (log entry 50). SERVICE_RESET and
WATCHDOG_EXPIRY are warm resets (R435, R436, R437): the 10 µs begin, the Rim keeps running with its state and parameters, the TB domain and weave
time run on. -/
def Obligations.Resets : Prop :=
  ((∀ (t : Nat) (s : State), s.dev.phase ≠ .dark → s.dev.phase ≠ .held →
    Completes (.porstnAssert t) s (fun d => d.phase = .held ∧ d.pwr.porst = true ∧ d.pwr.cause = rsPorst ∧ d.evt.log = s.dev.evt.log
      ∧ d.beatStart = s.dev.beatStart ∧ d.lid.slots = s.dev.lid.slots ∧ d.pins.gateH = 0 ∧ d.pins.gateL = 0
      ∧ ∀ (p : Par) (i : Nat), p.small = true → p ≠ Par.beatTimeState →
          d.raw p i = if keptKey false (parKey p i) = true then s.dev.raw p i else parDefault (parKey p i)))
  ∧ (∀ (t : Nat) (rail : Fin 8) (s : State), s.dev.phase ≠ .dark → s.dev.phase ≠ .held →
      (rail.val = 1 → s.dev.pins.loopEn = true) → (6 ≤ rail.val → s.dev.sup.ddrMiB ≠ 0 ∧ s.dev.full = true) →
    Completes (.brownOut t rail) s (fun d => d.phase = .held ∧ d.pwr.cause = rsBrownout
      ∧ d.get Par.pwrBrownouts 0 = (s.dev.get Par.pwrBrownouts 0 + 1) % 2 ^ 32
      ∧ bit (d.get Par.pwrSupplyOk 0) rail.val = false ∧ d.evt.log = s.dev.evt.log ∧ d.pins.gateH = 0 ∧ d.pins.gateL = 0))
  ∧ ∀ (t : Nat) (s : State),
    Completes (.islandSourcesLost t) s (fun d => d.phase = .held ∧ d.pwr.island = false ∧ d.clkOk cdAon = false ∧ d.pwr.cause = rsAonPor
      ∧ d.pwr.alarm = none ∧ d.evt.log = s.dev.evt.log ∧ d.pins.gateH = 0 ∧ d.pins.gateL = 0))
  ∧ ((∀ (t : Nat) (s : State), s.dev.pwr.press.isSome = true → s.dev.svcOn = true → s.dev.phase ≠ .warm →
    Completes (.serviceReset t) s (fun d => d.phase = .warm ∧ d.pwr.cause = rsService ∧ d.pwr.press = none ∧ d.rim = s.dev.rim
      ∧ d.beatStart = s.dev.beatStart ∧ d.clkOk cdTb = s.dev.clkOk cdTb
      ∧ ∀ (p : Par) (i : Nat), i < 16777216 → p.small = true → p.cls = 0x70 → d.raw p i = s.dev.raw p i))
  ∧ ∀ (t : Nat) (s : State), s.dev.phase ≠ .held → s.dev.phase ≠ .dark → s.dev.phase ≠ .warm →
    Completes (.watchdogExpiry t) s (fun d => d.phase = .warm ∧ d.pwr.cause = rsWatchdog ∧ d.rim = s.dev.rim
      ∧ d.get Par.pwrWdtExpiries 0 = (s.dev.get Par.pwrWdtExpiries 0 + 1) % 2 ^ 32
      ∧ d.evt.early = s.dev.evt.early ++ [{ ev := evWdtExpiry, ts := s.dev.instant t, obj := oPwr, detail := 0,
                                              tq := s.dev.get Par.beatTimeState 0, logged := s.dev.islandOn }]
      ∧ d.beatStart = s.dev.beatStart ∧ d.clkOk cdTb = s.dev.clkOk cdTb))

/-- PORSTN_RELEASE, WARM_RESET_RELEASE and DARK_EXIT_RELEASE start the device (R435, R439, R449): the start-up or, with no slot that verifies,
recovery; the cause is reported, resets and boots are counted, the straps are taken. -/
def Obligations.ReleasesStartUp : Prop :=
  (∀ (t : Nat) (straps : BitVec 6) (rimStraps : BitVec 4) (s : State), s.dev.phase = .held → s.dev.pwr.island = true →
    Completes (.porstnRelease t straps rimStraps) s (fun d => (d.phase = .rom ∨ d.phase = .recovery) ∧ d.pwr.porst = false
      ∧ d.pwr.straps = straps.toNat ∧ d.pwr.rimStraps = rimStraps.toNat ∧ d.get Par.pwrResetCause 0 = s.dev.pwr.cause % 2 ^ 64
      ∧ d.get Par.pwrResets 0 = (s.dev.get Par.pwrResets 0 + 1) % 2 ^ 32
      ∧ d.get Par.lidBootCount 0 = (s.dev.get Par.lidBootCount 0 + 1) % 2 ^ 32))
  ∧ (∀ (t : Nat) (straps : BitVec 6) (rimStraps : BitVec 4) (s : State), s.dev.phase = .warm →
    Completes (.warmResetRelease t straps rimStraps) s (fun d => (d.phase = .rom ∨ d.phase = .recovery)
      ∧ d.pwr.straps = straps.toNat ∧ d.pwr.rimStraps = s.dev.pwr.rimStraps ∧ d.get Par.pwrResetCause 0 = s.dev.pwr.cause % 2 ^ 64
      ∧ d.get Par.pwrResets 0 = (s.dev.get Par.pwrResets 0 + 1) % 2 ^ 32
      ∧ d.get Par.lidBootCount 0 = (s.dev.get Par.lidBootCount 0 + 1) % 2 ^ 32))
  ∧ ∀ (t : Nat) (straps : BitVec 6) (rimStraps : BitVec 4) (s : State), s.dev.phase = .dark → s.dev.pwr.exitCause.isSome = true →
      s.dev.pwr.porst = false →
    Completes (.darkExitRelease t straps rimStraps) s (fun d => (d.phase = .rom ∨ d.phase = .recovery) ∧ d.pwr.exitCause = none
      ∧ d.get Par.pwrMode 0 = pmRun ∧ d.get Par.pwrResetCause 0 = rsDarkExit ∧ d.pins.mainEnLow = false
      ∧ d.get Par.pwrResets 0 = (s.dev.get Par.pwrResets 0 + 1) % 2 ^ 32)

/-- The start-up after a release (R409, R411, R439, R459), with the SUP clock: BOOT_LOADER_START, FIRMWARE_START with a firmware section that
verifies, RUN_ENTRY. -/
def Obligations.StartUp : Prop :=
  (∀ (t : Nat) (s : State), s.dev.phase = .rom → s.dev.clkOk cdSup = true →
    Completes (.bootLoaderStart t) s (fun d => d.phase = .loader ∧ d.tallyCount 1 = (s.dev.tallyCount 1 + 2) % 2 ^ 32
      ∧ d.tally 1 = sha384 (sha384 (s.dev.tally 1 ++ s.dev.imageDigests.1) ++ s.dev.imageDigests.2.1)
      ∧ (∀ r < 8, r ≠ 1 → d.tally r = s.dev.tally r) ∧ d.rim = s.dev.rim))
  ∧ (∀ (t : Nat) (s : State), s.dev.phase = .loader → s.dev.clkOk cdSup = true → s.dev.firmwareOk s.dev.lid.running = true →
    Completes (.firmwareStart t) s (fun d => d.phase = .firmware ∧ d.evt.early = []))
  ∧ ∀ (t : Nat) (ddr : Fin 8193) (s : State), s.dev.phase = .firmware → s.dev.clkOk cdSup = true →
    Completes (.runEntry t ddr) s (fun d => d.phase = .run ∧ d.get Par.pwrMode 0 = pmRun ∧ d.get Par.beatTimeState 0 = tmFree
      ∧ d.sup.ddrMiB = ddr.val ∧ d.pins.loopEn = true ∧ d.pins.mainEnLow = false
      ∧ (∀ n < 24, (d.adc n).calRunning = true))

/-- Power mode PARKED (R433, R441 to R445): AUTO_PARK notes that park_hold has passed; PARKING_COMPLETE enters PARKED, with LOOP_EN low, every link
but Ethernet port 0 down, every context STOPPED (R157) and the clocks of the stopped blocks off. Wakes from PARKED (R444): WAKE_PIN and
PARK_TIMER_WAKE start the wake and report their cause; during PARKING the cause waits (R445). -/
def Obligations.ParkingAndWakes : Prop :=
  ((∀ (t : Nat) (s : State), s.dev.phase = .run → s.dev.pmode = pmRun → s.dev.kind = kParked → s.dev.isOn Par.pwrAutoPark 0 = true →
    Completes (.autoPark t) s (fun d => d.pwr = { s.dev.pwr with autoDue := true } ∧ d.pmode = pmRun))
  ∧ ∀ (t : Nat) (s : State), s.dev.phase = .run → s.dev.pmode = pmParking → s.dev.pwr.wakeHeld = none →
    Completes (.parkingComplete t) s (fun d => d.pmode = pmParked ∧ d.pins.loopEn = false ∧ d.sup.ddrMiB = 0
      ∧ d.pwr.parkedAt = s.dev.instant t
      ∧ d.clkOk cdLoop = false ∧ d.clkOk cdSpk = false ∧ d.clkOk cdWeft = false ∧ d.clkOk cdMem = false
      ∧ d.linkIsUp 0 = false ∧ d.linkIsUp 2 = false ∧ d.get Par.linkState 1 = s.dev.get Par.linkState 1
      ∧ (∀ c < 128, d.get Par.ctxState c = xsStopped) ∧ d.isOn Par.evtFlag evPwrParked = true))
  ∧ ((∀ (t : Nat) (s : State), s.dev.phase = .run → s.dev.pmode = pmParked →
    Completes (.wakePin t) s (fun d => d.pmode = pmWaking ∧ d.get Par.pwrWakeCause 0 = wcWakePin ∧ d.isOn Par.evtFlag evPwrWake = true))
  ∧ (∀ (t : Nat) (s : State), s.dev.phase = .run → s.dev.pmode = pmParked → bit (s.dev.get Par.pwrWakeMask 0) 1 = true →
      s.dev.get Par.pwrParkWakeS 0 ≠ 0 →
    Completes (.parkTimerWake t) s (fun d => d.pmode = pmWaking ∧ d.get Par.pwrWakeCause 0 = wcTimer ∧ d.isOn Par.evtFlag evPwrWake = true))
  ∧ (∀ (t : Nat) (s : State), s.dev.phase = .run → s.dev.pmode = pmParking → s.dev.pwr.wakeHeld = none →
    Completes (.wakePin t) s (fun d => d.pmode = pmParking ∧ d.pwr.wakeHeld = some wcWakePin)))

/-- DARK (R446 to R449): DARK_ENTRY_COMPLETE leaves only the always-on island; in DARK the first of WAKE_PIN, AUX_FAIL_HIGH (after a fall) and
DARK_ALARM (with an alarm set) is the exit cause, and MAIN_EN is released. -/
def Obligations.Dark : Prop :=
  (∀ (t : Nat) (s : State), s.dev.phase = .run → s.dev.pmode = pmParked → s.dev.pwr.darkReq = true →
    Completes (.darkEntryComplete t) s (fun d => d.phase = .dark ∧ d.pmode = pmDark ∧ d.get Par.beatTimeState 0 = tmAon
      ∧ d.pwr.exitCause = none ∧ d.pins.mainEnLow = true ∧ d.pins.loopEn = false
      ∧ d.pwr.alarm = (if s.dev.get Par.pwrDarkWakeS 0 = 0 then none
          else some (s.dev.instant t + s.dev.get Par.pwrDarkWakeS 0 * fineS))))
  ∧ ∀ (t : Nat) (s : State), s.dev.phase = .dark → s.dev.islandOn = true → s.dev.pwr.exitCause = none →
    Completes (.wakePin t) s (fun d => d.pwr.exitCause = some wcWakePin ∧ d.get Par.pwrWakeCause 0 = wcWakePin ∧ d.pins.mainEnLow = false)
    ∧ (s.dev.pwr.auxLow = true →
      Completes (.auxFailHigh t) s (fun d => d.pwr.exitCause = some wcAux ∧ d.get Par.pwrWakeCause 0 = wcAux ∧ d.pwr.auxLow = false
        ∧ d.pins.mainEnLow = false))
    ∧ (s.dev.pwr.alarm.isSome = true →
      Completes (.darkAlarm t) s (fun d => d.pwr.exitCause = some wcAlarm ∧ d.get Par.pwrWakeCause 0 = wcAlarm ∧ d.pins.mainEnLow = false))

/-- SVC_RSTn (R436): SERVICE_RESET_PRESS_START starts a press, for a stuck pin only after 1 s high; SVC_RST_STUCK_TIMEOUT counts one held for 10 s.
The always-on island (R447, R451, R452, R456): TAMPER_CHANGE, TEMPERATURE_LOG, ISLAND_SOURCE_CHANGE, ISLAND_POWER_ON. The loss of all sources of the
island and its next start (R47, R452): it stops; at its start, once its clock is usable, RTC_LOST is raised (it is kept for the firmware), rtc_valid
is 0, weave time goes on from the latest TS64 of the event log, and time_state reads FREE. -/
def Obligations.AlwaysOnIsland : Prop :=
  ((∀ (t highFor : Nat) (s : State), s.dev.svcOn = true → (s.dev.pwr.stuck = true → 1000 ≤ highFor) →
    Completes (.serviceResetPressStart t highFor) s (fun d => d.pwr.press = some (s.dev.instant t) ∧ d.pwr.stuck = false ∧ d.phase = s.dev.phase))
  ∧ ∀ (t : Nat) (s : State), s.dev.svcOn = true → s.dev.pwr.press.isSome = true →
    Completes (.svcRstStuckTimeout t) s (fun d => d.pwr.press = none ∧ d.pwr.stuck = true
      ∧ d.get Par.pwrSvcStuck 0 = (s.dev.get Par.pwrSvcStuck 0 + 1) % 2 ^ 32))
  ∧ ((∀ (t : Nat) (level : Bool) (s : State), s.dev.islandOn = true →
    Completes (.tamperChange t level) s (fun d => d.pwr.tamper = level ∧ d.phase = s.dev.phase
      ∧ (s.dev.evtUp = false → d.evt.early = s.dev.evt.early ++ [{ ev := evTamper, ts := s.dev.instant t, obj := oPwr, detail := b2n level,
                                                                     tq := s.dev.get Par.beatTimeState 0, logged := true }])))
  ∧ (∀ (t : Nat) (tj mv : BitVec 16) (s : State), s.dev.islandOn = true → s.dev.get Par.pwrAonSource 0 ≠ 2 →
    Completes (.temperatureLog t tj mv) s (fun d =>
      d.pwr.temp = lastN 1024 (s.dev.pwr.temp ++ [{ minute := s.dev.instant t / (60 * fineS) % 2 ^ 32, tj := tj.toInt, mv := mv.toNat }])
      ∧ d.get Par.pwrTempEntries 0 = (s.dev.get Par.pwrTempEntries 0 + 1) % 2 ^ 32 ∧ d.getI Par.pwrTj 0 = tj.toInt))
  ∧ (∀ (t : Nat) (src : Fin 3) (s : State), s.dev.islandOn = true →
    Completes (.islandSourceChange t src) s (fun d => d.get Par.pwrAonSource 0 = src.val ∧ d.phase = s.dev.phase))
  ∧ ∀ (t : Nat) (src : Fin 3) (vstore : F32) (below : Bool) (s : State), s.dev.pwr.island = false → s.dev.clkOk cdAon = true →
    Completes (.islandPowerOn t src vstore below) s (fun d => d.pwr.island = true ∧ d.phase = .held ∧ d.now = s.dev.logLatest
      ∧ d.get Par.pwrAonSource 0 = src.val ∧ d.get Par.pwrRtcValid 0 = 0 ∧ d.get Par.beatTimeState 0 = tmFree
      ∧ d.getF Par.harvVstore 0 = vstore ∧ d.get Par.harvPg 0 = (if below then 0 else 2) ∧ d.pins.harvPg = false))
  ∧ ((∀ (t : Nat) (s : State), Completes (.islandSourcesLost t) s (fun d => d.pwr.island = false ∧ d.phase = .held))
  ∧ ∀ (t : Nat) (src : Fin 3) (vstore : F32) (below : Bool) (s : State), s.dev.pwr.island = false → s.dev.clkOk cdAon = true →
    Completes (.islandPowerOn t src vstore below) s (fun d => d.pwr.island = true ∧ d.now = s.dev.logLatest
      ∧ (∃ e ∈ d.evt.early, e.ev = evRtcLost) ∧ d.get Par.pwrRtcValid 0 = 0 ∧ d.get Par.beatTimeState 0 = tmFree))

/-- The harvester (R453, R454, R455): each level of VSTORE, each sample of the source, and HARV_PG with its pin. HARV.0 is all that changes, with
the occurrence of a change of HARV_PG. -/
def Obligations.Harvester : Prop :=
  (∀ (t : Nat) (v : F32) (s : State),
    Completes (.controlledStageStart t v) s (fun d => d.getF Par.harvVstore 0 = v
      ∧ d.get Par.harvState 0 = (if s.dev.isOn Par.harvEnable 0 then 2 else 0) ∧ d.phase = s.dev.phase)
    ∧ Completes (.coldStartReturn t v) s (fun d => d.getF Par.harvVstore 0 = v ∧ d.get Par.harvState 0 = 1
      ∧ d.get Par.harvColdStarts 0 = (s.dev.get Par.harvColdStarts 0 + 1) % 2 ^ 32)
    ∧ Completes (.vstoreFull t v) s (fun d => d.getF Par.harvVstore 0 = v
      ∧ d.get Par.harvState 0 = (if s.dev.get Par.harvState 0 = 2 ∨ s.dev.get Par.harvState 0 = 4 then 3 else s.dev.get Par.harvState 0))
    ∧ Completes (.vstoreResume t v) s (fun d => d.getF Par.harvVstore 0 = v
      ∧ d.get Par.harvState 0 = (if s.dev.get Par.harvState 0 = 3 then 2 else s.dev.get Par.harvState 0)))
  ∧ (∀ (t : Nat) (voc vteg v : F32) (s : State), 2 ≤ s.dev.get Par.harvState 0 →
    Completes (.harvesterVocSample t voc vteg v) s (fun d => d.getF Par.harvVOc 0 = voc ∧ d.getF Par.harvVTeg 0 = vteg ∧ d.getF Par.harvVstore 0 = v
      ∧ (s.dev.get Par.harvState 0 ≠ 3 →
          d.get Par.harvState 0 = (if flt (fmul (s.dev.getF Par.harvFraction 0) voc) 0x41200000 then 4 else 2))))
  ∧ ∀ (t : Nat) (rising : Bool) (v : F32) (s : State), s.dev.islandOn = true →
    Completes (.harvPgChange t rising v) s (fun d => d.getF Par.harvVstore 0 = v ∧ d.get Par.harvPg 0 = b2n rising ∧ d.pins.harvPg = rising
      ∧ d.get Par.harvPgFalls 0 = (if rising = false ∧ s.dev.get Par.harvPg 0 = 1 then (s.dev.get Par.harvPgFalls 0 + 1) % 2 ^ 32
          else s.dev.get Par.harvPgFalls 0))

/-! ## Clocks, time, supervisor pairs, memories -/

/-- PTP_MESSAGE at an Ethernet port that is up is counted and its offsets are reported (R45, R401); TIME_LOCK_LOST takes a locked time_state to
HOLDOVER, and HOLDOVER_LIMIT takes HOLDOVER to FREE (R44). CLK_FAIL (R48): the domain is without its clock; for TB every local leg in RUN or HOLD
trips and all gate pins are low; for LOOP and SPK a converter trip is requested, and for TB, which ends the beats, the converter mode goes to
TRIPPED at once. CLOCK_DOMAIN_LOCKED (R47): the domain has its clock where it starts. -/
def Obligations.TimeAndClocks : Prop :=
  ((∀ (t : Nat) (port : Fin 2) (off : Int) (utc : BitVec 16) (locked : Bool) (s : State), s.dev.phase = .run → s.dev.linkIsUp (1 + port.val) = true →
    Completes (.ptpMessage t port off utc locked) s (fun d => d.raw Par.beatPtpOffset 0 = BitVec.ofInt 64 (max (-2147483648) (min 2147483647 off))
      ∧ d.raw Par.beatUtcOffset 0 = BitVec.ofInt 64 utc.toInt
      ∧ d.sup.ptpOk = setBit s.dev.sup.ptpOk port.val (locked && decide (off.natAbs ≤ 1000))
      ∧ d.get Par.linkRxFrames (1 + port.val) = (s.dev.get Par.linkRxFrames (1 + port.val) + 1) % 2 ^ 64))
  ∧ (∀ (t : Nat) (s : State), s.dev.phase = .run →
    Completes (.timeLockLost t) s (fun d => d.sup.validOffsets = 0
      ∧ d.get Par.beatTimeState 0 = (if s.dev.get Par.beatTimeState 0 ≤ tmWeave then tmHoldover else s.dev.get Par.beatTimeState 0)
      ∧ (s.dev.get Par.beatTimeState 0 ≤ tmWeave → d.isOn Par.evtFlag evTimeLockLost = true)))
  ∧ ∀ (t : Nat) (s : State), s.dev.phase = .run →
    Completes (.holdoverLimit t) s (fun d =>
      d.get Par.beatTimeState 0 = (if s.dev.get Par.beatTimeState 0 = tmHoldover then tmFree else s.dev.get Par.beatTimeState 0)))
  ∧ ((∀ (t : Nat) (dom : Fin 8) (s : State), s.dev.clkOk dom.val = true →
    Completes (.clkFail t dom) s (fun d => d.clkOk dom.val = false ∧ (∀ k < 8, k ≠ dom.val → d.clkOk k = s.dev.clkOk k)
      ∧ (dom.val = cdTb → d.pins.gateH = 0 ∧ d.pins.gateL = 0 ∧ d.pins.rimOutA = 0 ∧ d.pins.rimOutB = 0
          ∧ ∀ n < 40, d.get Par.legState n ≠ lsRun ∧ d.get Par.legState n ≠ lsHold)
      ∧ (dom.val = cdLoop ∨ dom.val = cdSpk → d.mode.tripReq = true)
      ∧ (dom.val = cdTb → s.dev.phase = .run → s.dev.modeHeld = false → s.dev.get Par.rimState 0 ≠ 1 →
          (s.dev.stateOfKind kTripped).isSome = true → s.dev.mode.state.map s.dev.kindOf ≠ some kLockout →
          d.mode.state.map d.kindOf = some kTripped)
      ∧ (s.dev.evtUp = true → d.isOn Par.evtFlag evClkFail = true)))
  ∧ (∀ (t : Nat) (dom : Fin 8) (s : State),
      (dom.val = cdAon ∨ s.dev.full = true ∨ s.dev.phase ≠ .held ∧ s.dev.phase ≠ .dark ∧ (dom.val = cdTb ∨ dom.val = cdSup ∨ dom.val = cdNet)) →
      (dom.val = cdMem → s.dev.sup.ddrMiB ≠ 0) →
    Completes (.clockDomainLocked t dom) s (fun d => d.clkOk dom.val = true ∧ (∀ k < 8, k ≠ dom.val → d.clkOk k = s.dev.clkOk k))))

/-- SUP_LOCKSTEP, MEM_UNCORR in a control region and SUPERVISOR_PAIR_RESTARTED (R26, R28): the pair halts, and without a partner to take over a
fault of the control pair requests a converter trip and one of the service pair ends every session; the restart is counted. -/
def Obligations.SupervisorPairs : Prop :=
  (∀ (t : Nat) (pair : Fin 2) (s : State), s.dev.phase = .run → ¬(pair.val = 0 ∧ s.dev.pmode = pmParked) →
    Completes (.supLockstep t pair) s (fun d => d.pairHalted pair.val = true ∧ d.isOn Par.evtFlag evSupLockstep = true
      ∧ (pair.val = 0 → s.dev.paired = false → d.mode.tripReq = true)
      ∧ (pair.val = 1 → ∀ k < 80, (d.sess k).isOpen = false)))
  ∧ (∀ (t : Nat) (s : State), s.dev.phase = .run →
    Completes (.memUncorr t .control) s (fun d => d.pairHalted 0 = true
      ∧ d.get Par.devEccUncorrected 0 = (s.dev.get Par.devEccUncorrected 0 + 1) % 2 ^ 32 ∧ d.isOn Par.evtFlag evMemUncorr = true
      ∧ (s.dev.paired = false → d.mode.tripReq = true)))
  ∧ (∀ (t : Nat) (s : State), s.dev.phase = .run →
    Completes (.memUncorr t .other) s (fun d => d.get Par.devEccUncorrected 0 = (s.dev.get Par.devEccUncorrected 0 + 1) % 2 ^ 32
      ∧ d.isOn Par.evtFlag evMemUncorr = true ∧ d.sup = s.dev.sup ∧ d.mode = s.dev.mode ∧ d.host = s.dev.host))
  ∧ ∀ (t : Nat) (pair : Fin 2) (s : State), s.dev.pairHalted pair.val = true → s.dev.clkOk cdSup = true →
    Completes (.supervisorPairRestarted t pair) s (fun d => d.pairHalted pair.val = false
      ∧ d.pairHalted (1 - pair.val) = s.dev.pairHalted (1 - pair.val)
      ∧ d.get Par.devSupRestarts 0 = (s.dev.get Par.devSupRestarts 0 + 1) % 2 ^ 32)

/-! ## Local legs -/

/-- A carrier zero of a leg in RUN (R248, R249, R251, R253; CARRIER_UPDATE_POINT), TRI or SAW: the period starts at the zero, once, with the latched
duty; its main interval and the carry follow the rule of R253, and a capped carry, a dropped pulse and a turn-on cut short are counted.
VARIABLE_INTERVAL_MAX ends the variable interval of a leg in COT or CFT t_var_max after its start and starts the next period there (R250), unless a
refresh lasts longer (R259); BOOTSTRAP_REFRESH makes a refresh due (R259); GATE_L_EDGE applies the earliest placed edge (R252). Other legs stay. -/
def Obligations.LegPeriods : Prop :=
  (∀ (t : Nat) (n : Fin 40) (s : State), s.dev.full = true → s.dev.clkOk cdTb = true → s.dev.get Par.legState n.val = lsRun →
    (s.dev.leg n.val).wait ≠ .windowEnd → s.dev.legSet Par.legCarrier n.val < 2 →
    let z := s.dev.lastZero n.val (s.dev.instant t)
    ((s.dev.leg n.val).running = true → (s.dev.leg n.val).zero ≠ z) →
    let p := s.dev.legSet Par.legPeriod n.val
    let r := carryRule (dmul (dof (s.dev.leg n.val).duty) (dint p)) (s.dev.leg n.val).carry p (s.dev.legDts n.val).1 (s.dev.legDts n.val).2
      (s.dev.get Par.legMinPulse n.val)
    let drops := b2n r.2.2.2 + ((s.dev.atTime t).legFrom n.val z).2.1
    Completes (.carrierUpdatePoint t n false) s (fun d => (d.leg n.val).zero = z ∧ (d.leg n.val).running = true ∧ (d.leg n.val).carry = r.2.1
      ∧ d.getF Par.legCarry n.val = fofd r.2.1
      ∧ d.get Par.legCarryDiscards n.val = (if r.2.2.1 then (s.dev.get Par.legCarryDiscards n.val + 1) % 2 ^ 32 else s.dev.get Par.legCarryDiscards n.val)
      ∧ d.get Par.legPulsesDropped n.val = (if drops = 0 then s.dev.get Par.legPulsesDropped n.val
          else (s.dev.get Par.legPulsesDropped n.val + drops) % 2 ^ 32)
      ∧ ∀ m < 40, m ≠ n.val → d.leg m = s.dev.leg m))
  ∧ ((∀ (t v : Nat) (n : Fin 40) (s : State), s.dev.full = true → s.dev.clkOk cdTb = true → s.dev.get Par.legState n.val = lsRun →
      (s.dev.leg n.val).varStart = some v → isVari (s.dev.legSet Par.legCarrier n.val) = true →
      (s.dev.leg n.val).seqEnd ≤ v + fineNs (s.dev.get Par.legTVarMax n.val) →
    Completes (.variableIntervalMax t n) s (fun d => (d.leg n.val).zero = v + fineNs (s.dev.get Par.legTVarMax n.val)
      ∧ (d.leg n.val).termHeld = false
      ∧ (d.leg n.val).varStart.isSome = true ∧ ∀ m < 40, m ≠ n.val → d.leg m = s.dev.leg m))
  ∧ (∀ (t : Nat) (n : Fin 40) (s : State), s.dev.full = true → s.dev.clkOk cdTb = true →
      (s.dev.get Par.legState n.val = lsRun ∨ s.dev.get Par.legState n.val = lsHold) → s.dev.get Par.legRefreshMax n.val ≠ 0 →
    Completes (.bootstrapRefresh t n) s (fun d => d.leg n.val = { s.dev.leg n.val with refreshDue := true }
      ∧ ∀ m < 40, m ≠ n.val → d.leg m = s.dev.leg m))
  ∧ ∀ (t : Nat) (n : Fin 40) (e : LegEdge) (rest : List LegEdge) (s : State), s.dev.full = true → s.dev.clkOk cdTb = true →
      s.dev.get Par.legState n.val = lsRun → (s.dev.leg n.val).edges = e :: rest →
    Completes (.gateLEdge t n) s (fun d => (d.leg n.val).edges = rest ∧ (d.leg n.val).hs = e.hi.getD (s.dev.leg n.val).hs
      ∧ (d.leg n.val).ls = e.lo.getD (s.dev.leg n.val).ls ∧ ∀ m < 40, m ≠ n.val → d.leg m = s.dev.leg m))

/-- LEG_FAULT_INPUT (R257): each leg named that is in RUN or HOLD trips with cause FLT in this tick, its gate pins low; the inputs follow, and a leg
neither named nor the partner of one keeps its state. LEG_READY_HIGH and LEG_READY_LOW (R256, R257): the filtered ready inputs follow; low, a leg
named that uses the input and is in RUN or HOLD trips with cause RDY. OSIER_CALIBRATION (R254, R255): the spare line, now calibrated, serves the pin
next in turn, whose line becomes the spare; a span outside 0.9 to 1.1 ticks fails the line and its legs show COARSE. -/
def Obligations.LegTrips : Prop :=
  (∀ (t : Nat) (legs : List (Fin 40)) (s : State), s.dev.full = true → s.dev.clkOk cdTb = true →
    Completes (.legFaultInput t legs) s (fun d =>
      (∀ n : Fin 40, (d.leg n.val).flt = legs.contains n)
      ∧ (∀ n ∈ legs, s.dev.get Par.legState n.val = lsRun ∨ s.dev.get Par.legState n.val = lsHold →
          d.get Par.legState n.val = lsTripped ∧ bit (d.get Par.legTripCause n.val) 0 = true
          ∧ d.get Par.legTripTime n.val = (s.dev.instant t - s.dev.instant t % 16) % 2 ^ 64
          ∧ d.get Par.legTrips n.val = (s.dev.get Par.legTrips n.val + 1) % 2 ^ 32
          ∧ d.pins.gateH.getLsbD n.val = false ∧ d.pins.gateL.getLsbD n.val = false)
      ∧ ∀ n : Fin 40, n ∉ legs → (∀ p < 32, ¬ (s.dev.portLegs p).contains n.val) → d.get Par.legState n.val = s.dev.get Par.legState n.val))
  ∧ ((∀ (t : Nat) (n : Fin 40) (s : State), s.dev.full = true → s.dev.clkOk cdTb = true →
    Completes (.legReadyHigh t n) s (fun d => d.leg n.val = { s.dev.leg n.val with rdy := true, rdyLow := false }
      ∧ ∀ m < 40, m ≠ n.val → d.leg m = s.dev.leg m))
  ∧ ∀ (t : Nat) (legs : List (Fin 40)) (s : State), s.dev.full = true → s.dev.clkOk cdTb = true →
    Completes (.legReadyLow t legs) s (fun d =>
      (∀ n : Fin 40, (d.leg n.val).rdyLow = legs.contains n ∧ ((d.leg n.val).rdy = ((s.dev.leg n.val).rdy && !(legs.contains n))))
      ∧ ∀ n ∈ legs, s.dev.isOn Par.legRdyUse n.val = true → (s.dev.get Par.legState n.val = lsRun ∨ s.dev.get Par.legState n.val = lsHold) →
          d.get Par.legState n.val = lsTripped ∧ bit (d.get Par.legTripCause n.val) 2 = true))
  ∧ (∀ (t span : Nat) (s : State), s.dev.full = true → s.dev.clkOk cdTb = true →
    Completes (.osierCalibration t span) s (fun d => d.lineOf s.dev.osier.nextPin = s.dev.osier.spare
      ∧ d.osier.spare = s.dev.lineOf s.dev.osier.nextPin ∧ d.osier.nextPin = (s.dev.osier.nextPin + 1) % 80
      ∧ (d.osier.failed.contains s.dev.osier.spare = (decide (span < 900) || decide (1100 < span)))
      ∧ (∀ n < 40, bit (d.get Par.legStatus n) 1 = (d.coarse (2 * n) || d.coarse (2 * n + 1)))))

/-! ## Source ports -/

/-- STAGGER_SLOT (R227): while some converter rides through a fault, or where another port is open, no port starts and every due port counts as
late; else, with one port due, that port is chosen. OPENING_DUE makes a port that tracks due. OPENING_END (R229): the opening is counted and ends;
with a valid Voc, now or before, the port tracks again from it. DITHER_PERIOD_END (R231): trim moves by trim_step towards the side of more power,
beyond the dead band, within ±trim_max. STORAGE_ENERGY_SAVE keeps the energies of the storage ports in the health counters (R234); BURST_END ends a
burst whose ramp-down is through (R237): NONE, with its result. -/
def Obligations.PortTimers : Prop :=
  ((∀ (t : Nat) (p : Fin 32) (s : State), s.dev.full = true → s.dev.clkOk cdTb = true → s.dev.anyFrt = true →
      p.val ∈ s.dev.portsUsed → s.dev.isPv p.val = true → (s.dev.port p.val).due.isSome = true → (s.dev.port p.val).opening = false →
      (s.dev.get Par.portState p.val = psTrack ∨ s.dev.get Par.portState p.val = psOpen) →
    Completes (.staggerSlot t) s (fun d => d.get Par.portSamplesLate p.val = (s.dev.get Par.portSamplesLate p.val + 1) % 2 ^ 32
      ∧ d.port p.val = s.dev.port p.val))
  ∧ (∀ (t : Nat) (p : Fin 32) (s : State), s.dev.full = true → s.dev.clkOk cdTb = true → s.dev.anyFrt = false →
      p.val ∈ s.dev.portsUsed → s.dev.isPv p.val = true → (s.dev.port p.val).due.isSome = true → (s.dev.port p.val).opening = false →
      s.dev.get Par.portState p.val = psTrack →
      (∀ q < 32, q ≠ p.val → (s.dev.port q).due = none ∧ s.dev.get Par.portState q ≠ psOpen) →
    Completes (.staggerSlot t) s (fun d => d.port p.val = { s.dev.port p.val with chosen := true }
      ∧ d.get Par.portSamplesLate p.val = s.dev.get Par.portSamplesLate p.val ∧ ∀ q < 32, q ≠ p.val → d.port q = s.dev.port q))
  ∧ ∀ (t : Nat) (p : Fin 32) (s : State), s.dev.full = true → s.dev.clkOk cdTb = true →
      s.dev.get Par.portTopology p.val ≠ 0 → s.dev.isPv p.val = true → (s.dev.port p.val).opening = false →
      (s.dev.get Par.portState p.val = psTrack ∨ s.dev.get Par.portState p.val = psOpen) →
    Completes (.openingDue t p) s (fun d => d.port p.val = { s.dev.port p.val with due := some ((s.dev.port p.val).due.getD (s.dev.instant t)) }
      ∧ ∀ q < 32, q ≠ p.val → d.port q = s.dev.port q))
  ∧ ((∀ (t : Nat) (p : Fin 32) (s : State), s.dev.full = true → s.dev.clkOk cdTb = true → (s.dev.port p.val).opening = true →
      s.dev.openBeats p.val ≤ (s.dev.port p.val).openN →
    Completes (.openingEnd t p) s (fun d => d.get Par.portSamples p.val = (s.dev.get Par.portSamples p.val + 1) % 2 ^ 32
      ∧ (d.port p.val).opening = false ∧ (d.port p.val).openV = []
      ∧ ((s.dev.port p.val).vocOk = true → d.get Par.portState p.val = psTrack ∧ (d.port p.val).vocOk = true
          ∧ d.getF Par.portVTarget p.val = d.getF Par.portVoc p.val)
      ∧ ∀ q < 32, q ≠ p.val → d.port q = s.dev.port q))
  ∧ ∀ (t N : Nat) (p : Fin 32) (s : State), s.dev.full = true → s.dev.clkOk cdTb = true → N = s.dev.ditherBeats p.val → N ≠ 0 →
      (s.dev.port p.val).ditherN = some N →
    let hi := fdiv (s.dev.port p.val).hiSum (fint (N / 2 / 2 : Nat))
    let lo := fdiv (s.dev.port p.val).loSum (fint ((N - N / 2) / 2 : Nat))
    let dead := fmul (s.dev.getF Par.portDitherDead p.val) (fdiv (fadd hi lo) (fint 2))
    let trim := s.dev.getF Par.portTrim p.val
    let m := s.dev.getF Par.portTrimMax p.val
    Completes (.ditherPeriodEnd t p) s (fun d => (d.port p.val).ditherN = none
      ∧ d.getF Par.portTrim p.val = fclamp (fneg m) m
          (if flt dead (fsub hi lo) then fadd trim (s.dev.getF Par.portTrimStep p.val)
           else if flt dead (fsub lo hi) then fsub trim (s.dev.getF Par.portTrimStep p.val) else trim)))
  ∧ ((∀ (t : Nat) (s : State), s.dev.phase = .run →
    Completes (.storageEnergySave t) s (fun d => ∀ p < 32,
      d.pwr.energies.get (fun _ => d0) p = (if s.dev.isPv p then s.dev.pwr.energies.get (fun _ => d0) p else (s.dev.port p).energy)))
  ∧ ∀ (t : Nat) (p : Fin 32) (s : State), s.dev.full = true → s.dev.clkOk cdTb = true → s.dev.get Par.portBurstState p.val = 3 →
      ((s.dev.port p.val).burstDown.isSome = true ∨ (s.dev.port p.val).burstLen ≤ (s.dev.port p.val).burstEl) →
      fle (s.dev.port p.val).pBurst f0 = true →
    Completes (.burstEnd t p) s (fun d => d.get Par.portBurstState p.val = 0 ∧ (d.port p.val).burstDone = some s.dev.beatStart
      ∧ d.get Par.portBurstResult p.val = (match (s.dev.port p.val).burstEnds with | .completed => 5 | .aborted => 6 | .truncated => 7)
      ∧ ∀ q < 32, q ≠ p.val → d.port q = s.dev.port q))

/-! ## Metering -/

/-- METER_SAMPLE (R281 to R283), without firmware too: each enabled element takes the samples of its voltage and current channels through the
corrections of Table 13.1, and the corrected voltage joins its history; a disabled element stays. ZERO_CROSSING_TIMEOUT (R284): the element is in
timeout, its period ends, its frequency reads 0. METER_COMMIT and SUPPLY_LOSS (R293, R294): a record with the next sequence number goes into slot
seq mod 2 with its cause and time, the block of METR.4 starts anew; the other slot stays. LAST_GASP_REARM makes the last-gasp commit ready again. -/
def Obligations.Meters : Prop :=
  (∀ (t : Nat) (vs is : List Int) (s : State), s.dev.metRuns = true →
    Completes (.meterSample t vs is) s (fun d => ∀ e < 4,
      if s.dev.isOn Par.metrEnable e then
        let v := metChannel (s.dev.met1 e).v (vs.getD (s.dev.get Par.metrVSel e) 0) (s.dev.getF Par.metrVFs e) (s.dev.isOn Par.metrHpf e)
          (s.dev.getF Par.metrVOffset e) (s.dev.getF Par.metrVGain e) (s.dev.getI Par.metrVDelay e)
        let i := metChannel (s.dev.met1 e).i (is.getD e 0) (s.dev.getF Par.metrIFs e) (s.dev.isOn Par.metrHpf e)
          (s.dev.getF Par.metrIOffset e) (s.dev.getF Par.metrIGain e) (s.dev.getI Par.metrIDelay e)
        (d.met1 e).v = v.2 ∧ (d.met1 e).i = i.2 ∧ (d.met1 e).vHist = (v.1 :: (s.dev.met1 e).vHist).take 440
          ∧ (d.met1 e).vs.head? = some v.1 ∧ (d.met1 e).is.head? = some i.1
      else d.met1 e = s.dev.met1 e))
  ∧ (∀ (t : Nat) (e : Fin 4) (s : State), s.dev.metRuns = true → s.dev.isOn Par.metrEnable e.val = true →
    Completes (.zeroCrossingTimeout t e) s (fun d => (d.met1 e.val).timeout = true ∧ (d.met1 e.val).vs = [] ∧ (d.met1 e.val).is = []
      ∧ d.getF Par.metrFreq e.val = f0 ∧ bit (d.get Par.metrStatus e.val) 1 = true
      ∧ ((s.dev.met1 e.val).timeout = false → s.dev.evtUp = true → d.isOn Par.evtFlag evMeterZcTimeout = true)
      ∧ ∀ k < 4, k ≠ e.val → d.met1 k = s.dev.met1 k))
  ∧ ((∀ (t : Nat) (s : State), s.dev.metRuns = true →
    let seq := (s.dev.get Par.metrCommitSeq 4 + 1) % 2 ^ 32
    Completes (.meterCommit t) s (fun d => d.get Par.metrCommitSeq 4 = seq ∧ d.get Par.metrCommitTime 4 = s.dev.instant t % 2 ^ 64
      ∧ (∃ r : MetRec, d.met.slots.get (fun _ => none) (seq % 2) = some r ∧ r.seq = seq ∧ r.cause = mcPeriodic ∧ r.ts = s.dev.instant t)
      ∧ d.met.slots.get (fun _ => none) (1 - seq % 2) = s.dev.met.slots.get (fun _ => none) (1 - seq % 2)
      ∧ d.met.bAny = false ∧ d.met.bP = d0))
  ∧ (∀ (t : Nat) (s : State), s.dev.metRuns = true → s.dev.met.armed = true →
    let seq := (s.dev.get Par.metrCommitSeq 4 + 1) % 2 ^ 32
    Completes (.supplyLoss t) s (fun d => d.get Par.metrCommitSeq 4 = seq ∧ d.met.armed = false ∧ d.pwr.auxLow = true
      ∧ (∃ r : MetRec, d.met.slots.get (fun _ => none) (seq % 2) = some r ∧ r.seq = seq ∧ r.cause = mcLastGasp ∧ r.ts = s.dev.instant t)
      ∧ d.met.slots.get (fun _ => none) (1 - seq % 2) = s.dev.met.slots.get (fun _ => none) (1 - seq % 2)))
  ∧ ∀ (t : Nat) (s : State),
    Completes (.lastGaspRearm t) s (fun d => d.met = { s.dev.met with armed := true } ∧ d.pwr.auxLow = false))

/-! ## Capture and triggers -/

/-- BLOCK_FLUSH closes the open block of a streaming stream, which joins the closed ones (R303); RING_CAPTURE_COMPLETE takes a complete ring-buffer
capture to DELIVER (R312). CAPTURE_BLOCK_DELIVERY (R307, R312): the oldest closed block goes into the stream's capture ring, which has a free slot
and an open session. HOLDOFF_END (R316): the trigger waits again, armed at once for a kind that needs no qualification; AUTO_FIRE (R317) fires a
trigger in WAIT or ARMED, which then holds off; FIRE_WINDOW_CLOSE (R320) closes the window of a fire. -/
def Obligations.CapturesAndTriggers : Prop :=
  ((∀ (t : Nat) (n : Fin 32) (b : Blk) (s : State), s.dev.capOn = true → s.dev.evt.fresh = [] → s.dev.get Par.capState n.val = csStream →
      (s.dev.cap n.val).cur = some b →
    Completes (.blockFlush t n) s (fun d => (d.cap n.val).cur = none ∧ (d.cap n.val).closed = (s.dev.cap n.val).closed ++ [b]
      ∧ (d.cap n.val).seq = ((s.dev.cap n.val).seq + 1) % 2 ^ 32 ∧ ∀ m < 32, m ≠ n.val → d.cap m = s.dev.cap m))
  ∧ ∀ (t : Nat) (n : Fin 32) (s : State), s.dev.full = true → s.dev.clkOk cdTb = true → s.dev.evt.fresh = [] →
      s.dev.get Par.capState n.val = csPost → s.dev.get Par.capPostCount n.val ≤ (s.dev.cap n.val).post.length →
    Completes (.ringCaptureComplete t n) s (fun d => d.get Par.capState n.val = csDeliver ∧ (d.cap n.val).pre = [] ∧ (d.cap n.val).post = []
      ∧ ∀ m < 32, m ≠ n.val → d.cap m = s.dev.cap m ∧ d.get Par.capState m = s.dev.get Par.capState m))
  ∧ (∀ (t : Nat) (n : Fin 32) (b : Blk) (rest : List Blk) (s : State), s.dev.phase = .run → (s.dev.cap n.val).closed = b :: rest →
    s.dev.ringSession (32 + n.val) < 16 → (s.dev.sess (s.dev.ringSession (32 + n.val))).isOpen = true →
    (s.dev.sess (s.dev.ringSession (32 + n.val))).link = 0 →
    s.dev.ringFull (32 + n.val) = false → s.dev.get Par.ringState (32 + n.val) ≠ 2 →
    Completes (.captureBlockDelivery t n) s (fun d =>
      (d.ring (32 + n.val)).slots = (s.dev.ring (32 + n.val)).slots ++ [mkMsg 0x81 0 (s.dev.ringSession (32 + n.val)) 0 0
        (b.bytes n.val (s.dev.get Par.capFormat n.val) (s.dev.get Par.capState n.val == csDeliver))]
      ∧ d.get Par.ringHead (32 + n.val) = (s.dev.get Par.ringHead (32 + n.val) + 1) % 2 ^ 32
      ∧ d.get Par.ringTail (32 + n.val) = s.dev.get Par.ringTail (32 + n.val)
      ∧ d.get Par.capBlocks n.val = (s.dev.get Par.capBlocks n.val + 1) % 2 ^ 32))
  ∧ ((∀ (t : Nat) (n : Fin 16) (s : State), s.dev.full = true → s.dev.clkOk cdTb = true → s.dev.evt.fresh = [] →
      s.dev.get Par.trigState n.val = tsHoldoff →
    Completes (.holdoffEnd t n) s (fun d => d.get Par.trigState n.val = (if s.dev.get Par.trigKind n.val = 1 then tsWait else tsArmed)
      ∧ (d.trig n.val).below = false ∧ (d.trig n.val).above = false ∧ d.get Par.trigFires n.val = s.dev.get Par.trigFires n.val
      ∧ ∀ m < 16, m ≠ n.val → d.get Par.trigState m = s.dev.get Par.trigState m ∧ d.trig m = s.dev.trig m))
  ∧ (∀ (t : Nat) (n : Fin 16) (s : State), s.dev.full = true → s.dev.clkOk cdTb = true → s.dev.get Par.trigAutoMs n.val ≠ 0 →
      (s.dev.trig n.val).autoHere = true → (s.dev.get Par.trigState n.val = tsWait ∨ s.dev.get Par.trigState n.val = tsArmed) →
    Completes (.autoFire t n) s (fun d => d.get Par.trigState n.val = tsHoldoff
      ∧ d.get Par.trigFires n.val = (s.dev.get Par.trigFires n.val + 1) % 2 ^ 32 ∧ d.get Par.trigLastTime n.val = s.dev.instant t % 2 ^ 64
      ∧ d.get Par.trigLastCause n.val = fcAuto ∧ d.isOn Par.evtFlag evTrigFire = true))
  ∧ ∀ (t : Nat) (n : Fin 16) (s : State), s.dev.full = true → s.dev.clkOk cdTb = true → s.dev.get Par.trigState n.val = tsHoldoff →
      (s.dev.trig n.val).openFire.isSome = true →
    Completes (.fireWindowClose t n) s (fun d => (d.trig n.val).openFire = none ∧ (d.trig n.val).missedFires = []
      ∧ d.get Par.trigState n.val = tsHoldoff ∧ d.get Par.trigFires n.val = s.dev.get Par.trigFires n.val))

/-! ## Analogue front end and windows -/

/-- ADC_CONVERSION (R263, R266): an enabled channel takes the code; a code at an end of the range is counted; the other channels stay.
ADC_CALIBRATION_DONE (R267): a calibration that runs ends with the offset and gain found; beyond 64 LSB or 0.5 % it fails, sets CAL_FAIL and raises
ADC_CAL_FAIL; otherwise CAL_FAIL is clear. Sigma-delta inputs (R269, R271): SDI_STUCK marks a run of equal bits once and counts it;
SDI_DECIMATED_SAMPLE takes the bits clocked in, newest first, and a bit that differs ends a stuck run. -/
def Obligations.Conversions : Prop :=
  (∀ (t : Nat) (n : Fin 24) (code : Int) (s : State), s.dev.full = true → s.dev.clkOk cdTb = true → s.dev.isOn Par.adcEnable n.val = true →
    Completes (.adcConversion t n code) s (fun d => d.adc n.val = { s.dev.adc n.val with lastCode := code }
      ∧ d.get Par.adcOvrCount n.val = (if code = 32767 ∨ code = -32768 then (s.dev.get Par.adcOvrCount n.val + 1) % 2 ^ 32
          else s.dev.get Par.adcOvrCount n.val)
      ∧ (∀ m < 24, m ≠ n.val → d.adc m = s.dev.adc m)
      ∧ ∀ p : Par, p.small = true → p.cls = 0x40 → p ≠ Par.adcOvrCount → ∀ m, d.raw p m = s.dev.raw p m))
  ∧ (∀ (t : Nat) (n : Fin 24) (off : Int) (gain : F32) (s : State), s.dev.full = true → s.dev.clkOk cdTb = true →
      (s.dev.adc n.val).calRunning = true →
    let bad := decide (64 < off.natAbs) || !(fle (fabs (fsub gain f1)) (frat 5 1000))
    Completes (.adcCalibrationDone t n off gain) s (fun d => d.adc n.val = { s.dev.adc n.val with calRunning := false, calFail := bad }
      ∧ d.raw Par.adcCalOffset n.val = BitVec.ofInt 64 off ∧ d.getF Par.adcCalGain n.val = gain
      ∧ (bad = true → d.isOn Par.evtFlag evAdcCalFail = true)
      ∧ ∀ m < 24, m ≠ n.val → d.adc m = s.dev.adc m ∧ d.raw Par.adcCalOffset m = s.dev.raw Par.adcCalOffset m))
  ∧ ((∀ (t : Nat) (n : Fin 32) (s : State), s.dev.full = true → s.dev.clkOk cdTb = true → s.dev.isOn Par.sdiEnable n.val = true →
      (s.dev.sdi n.val).stuck = false → stuckBits (s.dev.get Par.sdiStuckRun n.val) (s.dev.sdi n.val).hist = true →
    Completes (.sdiStuck t n) s (fun d => d.sdi n.val = { s.dev.sdi n.val with stuck := true }
      ∧ d.get Par.sdiStuckCount n.val = (s.dev.get Par.sdiStuckCount n.val + 1) % 2 ^ 32 ∧ d.isOn Par.evtFlag evSdiModFault = true
      ∧ ∀ m < 32, m ≠ n.val → d.sdi m = s.dev.sdi m))
  ∧ ∀ (t : Nat) (n : Fin 32) (bits : List Bool) (s : State), s.dev.full = true → s.dev.clkOk cdTb = true →
      s.dev.isOn Par.sdiEnable n.val = true →
    Completes (.sdiDecimatedSample t n bits) s (fun d => (d.sdi n.val).hist = (bits.reverse ++ (s.dev.sdi n.val).hist).take 1024
      ∧ (d.sdi n.val).clocks = (s.dev.sdi n.val).clocks + bits.length
      ∧ ((d.sdi n.val).stuck = true → (s.dev.sdi n.val).stuck = true ∧ stuckBits (s.dev.get Par.sdiStuckRun n.val) (d.sdi n.val).hist = true)
      ∧ ∀ m < 32, m ≠ n.val → d.sdi m = s.dev.sdi m))

/-- WINDOW_COMPARATOR_CHANGE (R273, R274, R275): the comparator of a window that is on takes the level; from not tripped to tripped by an enabled
comparator the window trips: its flag, its count and its time, and every leg on its route in RUN or HOLD trips with cause WINDOW. A comparator that
becomes INACTIVE (WINDOW_COMPARATOR_CHANGE, R274): its level follows and no trip is counted; with neither enabled comparator tripping, the window is
not tripped. THRESHOLD_CHECK_PERIOD (R279) asks for a check of the converter whose turn it is; READBACK_DONE (R278) ends a check that has its
channel: the mean of the codes, the error in LSB, the verdict beyond 4 LSB, and the channel is free again. -/
def Obligations.Windows : Prop :=
  (∀ (t : Nat) (w : Fin 64) (low : Bool) (s : State), s.dev.winMode w.val ≠ 0 → s.dev.get (winComp (b2n low)) w.val ≠ wcActive →
    Completes (.windowComparatorChange t w low true) s (fun d => d.get (winComp (b2n low)) w.val = wcActive
      ∧ (bit (s.dev.get Par.winCompEn w.val) (b2n low) = true → s.dev.isOn Par.winTripped w.val = false →
          d.get Par.winTripped w.val = 1 ∧ d.get Par.winFlag w.val = 1
          ∧ d.get Par.winTripCount w.val = (s.dev.get Par.winTripCount w.val + 1) % 2 ^ 32
          ∧ d.get Par.winTripTime w.val = s.dev.instant t % 2 ^ 64
          ∧ ∀ n < 40, bit (s.dev.get Par.winRouteLeg w.val) n = true → d.get Par.legState n ≠ lsRun ∧ d.get Par.legState n ≠ lsHold)
      ∧ ∀ v < 64, v ≠ w.val → d.get Par.winTripped v = s.dev.get Par.winTripped v ∧ d.get Par.winTripCount v = s.dev.get Par.winTripCount v))
  ∧ (∀ (t : Nat) (w : Fin 64) (low : Bool) (s : State), s.dev.winMode w.val ≠ 0 → s.dev.get (winComp (b2n low)) w.val = wcActive →
      s.dev.isOn Par.winTripped w.val = true →
    Completes (.windowComparatorChange t w low false) s (fun d => d.get (winComp (b2n low)) w.val = wcInactive
      ∧ d.get Par.winTripCount w.val = s.dev.get Par.winTripCount w.val ∧ d.get Par.winFlag w.val = s.dev.get Par.winFlag w.val
      ∧ ((bit (s.dev.get Par.winCompEn w.val) (1 - b2n low) = false ∨ s.dev.get (winComp (1 - b2n low)) w.val = wcInactive) →
          d.get Par.winTripped w.val = 0)))
  ∧ ((∀ (t : Nat) (w : Fin 64) (s : State), s.dev.full = true → s.dev.clkOk cdTb = true → s.dev.get Par.winCheckPeriod w.val ≠ 0 →
      s.dev.judgeReadback w.val = stOk →
    let which := if (s.dev.win w.val).autoHi then 2 else 1
    Completes (.thresholdCheckPeriod t w) s (fun d => d.get Par.winReadback w.val = which
      ∧ (d.win w.val).check = some { which := which, chan := s.dev.get Par.winReadbackChan w.val }
      ∧ (d.win w.val).autoHi = !(s.dev.win w.val).autoHi ∧ ∀ v < 64, v ≠ w.val → d.win v = s.dev.win v))
  ∧ ∀ (t : Nat) (w : Fin 64) (codes : List Int) (c : Readback) (s : State), s.dev.full = true → s.dev.clkOk cdTb = true →
      (s.dev.win w.val).check = some c → c.taken = true →
    let vs := codes.map (s.dev.adcVolts c.chan)
    let v := fdiv (vs.foldl fadd f0) (fint (vs.length : Nat))
    let input := s.dev.get Par.winInput w.val
    let thr := if c.which = 1 then s.dev.get Par.winHiThr w.val else s.dev.get Par.winLoThr w.val
    let err := fdiv (fsub v (thrVolts input thr)) (thrLsb input)
    Completes (.readbackDone t w codes) s (fun d => (d.win w.val).check = none ∧ (d.adc c.chan).held = false ∧ d.get Par.winReadback w.val = 0
      ∧ d.getF Par.winReadbackV w.val = v ∧ d.getF Par.winReadbackErr w.val = err
      ∧ d.get Par.winThrFail w.val = b2n (!(fle (fabs err) (fint 4)))
      ∧ (fle (fabs err) (fint 4) = false → d.isOn Par.evtFlag evWinThreshFail = true)))

/-! ## The Rim -/

/-- RIM_INPUT_CHANGE and RIM_INPUT_FILTERED (R325, R328): a pin above 2.0 V reads high, below 1.2 V low, else as before; a level that has held is
the channel's level; and whatever is then in demand has its outputs off (R323, R326, R331), the output pins still. DISCREPANCY_TIMEOUT (R326):
channels that still disagree are a fault, and every used output that the input acts on is off. Test pulses (R327 to R329): TEST_PULSE_START drives
its supply low and opens the window, TEST_PULSE_END drives it high again; TEST_LOW_DEADLINE fails a channel under test that has not read low;
TEST_WINDOW_CLOSE closes the window and a test that passed clears the fault. -/
def Obligations.RimInputTests : Prop :=
  ((∀ (t mv : Nat) (c : Fin 16) (s : State), s.dev.rim.running = true →
    Completes (.rimInputChange t c mv) s (fun d => d.rim.mv.get (fun _ => 0) c.val = mv
      ∧ bit d.rim.raw c.val = (if 2000 < mv then true else if mv < 1200 then false else bit s.dev.rim.raw c.val)
      ∧ (2000 < mv ∨ mv < 1200 → bit d.rim.known c.val = true)
      ∧ d.get Par.rimInLevel 0 = s.dev.get Par.rimInLevel 0))
  ∧ ∀ (t : Nat) (c : Fin 16) (s : State), s.dev.rim.running = true → bit s.dev.rim.known c.val = true → bit s.dev.rim.under c.val = false →
      s.dev.rimType (c.val / 2) ≠ 0 → s.dev.rimLatchedOff →
    Completes (.rimInputFiltered t c) s (fun d => bit (d.get Par.rimInLevel 0) c.val = bit s.dev.rim.raw c.val
      ∧ bit (d.get Par.rimInUndet 0) c.val = false
      ∧ (∀ k < 8, bit (d.get Par.rimInDemand 0) k = d.inDemand k)
      ∧ ∀ k < 8, ∀ j < 4, d.inDemand k = true → bit (recMask d.rim.active k) j = true →
          d.outOn j = false ∧ d.pins.rimOutA.getLsbD j = false ∧ d.pins.rimOutB.getLsbD j = false))
  ∧ (∀ (t : Nat) (k : Fin 8) (s : State), s.dev.rim.running = true → s.dev.rimType k.val ≠ 0 → s.dev.chAgree k.val = false → s.dev.rimLatchedOff →
    Completes (.discrepancyTimeout t k) s (fun d => bit (d.get Par.rimInFault 0) k.val = true
      ∧ (s.dev.rimType k.val = 1 ∨ s.dev.rimType k.val = 2 → ∀ j < 4, bit (recMask d.rim.active k.val) j = true → d.outOn j = false
          ∧ (d.outUsed j = true → bit (d.outCauses j) (rcInputFault - 1) = true))))
  ∧ ((∀ (t : Nat) (m : Fin 4) (s : State), s.dev.rim.running = true → s.dev.rim.active ≠ [] → s.dev.rim.window = none →
    Completes (.testPulseStart t m) s (fun d => d.rim.window = some m.val ∧ d.pins.rimTp.getLsbD m.val = false ∧ d.rim.sawLow = 0
      ∧ (∀ c < 16, bit d.rim.under c = true → recPin d.rim.active (c / 2) (c % 2) = m.val ∧ bit (d.get Par.rimInLevel 0) c = true)))
  ∧ (∀ (t : Nat) (m : Fin 4) (s : State), s.dev.rim.running = true → s.dev.phase ≠ .recovery →
    Completes (.testPulseEnd t m) s (fun d => d.pins.rimTp.getLsbD m.val = true ∧ d.rim = s.dev.rim))
  ∧ (∀ (t : Nat) (s : State), s.dev.rim.window.isSome = true → s.dev.rim.failed = 0 →
    Completes (.testLowDeadline t) s (fun d => d.rim.window = s.dev.rim.window ∧ ∀ c < 16, bit s.dev.rim.under c = true → bit s.dev.rim.sawLow c = false →
      bit (d.get Par.rimInFault 0) (8 + c / 2) = true))
  ∧ ∀ (t : Nat) (s : State), s.dev.rim.window.isSome = true →
    Completes (.testWindowClose t) s (fun d => d.rim.window = none ∧ d.rim.under = 0
      ∧ ∀ c < 16, bit s.dev.rim.under c = true → bit s.dev.rim.raw c = true → bit s.dev.rim.sawLow c = true → bit s.dev.rim.failed (c / 2) = false →
          bit (d.get Par.rimInFault 0) (8 + c / 2) = false))

/-- Outputs (R332, R333, R334): OFF_TEST holds the channel's pin low, OFF_TEST_END counts a test that passed and clears the fault;
OUTPUT_READBACK_MISMATCH and EDM_TIMEOUT with feedback that has not followed latch the output with OUTPUT_FAULT and it is off. CHANNEL_COMPARISON
that disagrees and RIM_SUPPLY_FAULT turn every output off (R322, R338); a comparison that agrees leaves each input's demand as its channels show it.
-/
def Obligations.RimOutputTests : Prop :=
  ((∀ (t : Nat) (j : Fin 4) (ch : Fin 2) (s : State), s.dev.rim.running = true → s.dev.outOn j.val = true →
    Completes (.offTest t j ch) s (fun d => bit d.rim.offRun (2 * j.val + ch.val) = true
      ∧ (if ch.val = 0 then d.pins.rimOutA else d.pins.rimOutB).getLsbD j.val = false))
  ∧ (∀ (t : Nat) (j : Fin 4) (ch : Fin 2) (s : State), bit s.dev.rim.offRun (2 * j.val + ch.val) = true → s.dev.outOn j.val = true →
    Completes (.offTestEnd t j ch) s (fun d => bit d.rim.offRun (2 * j.val + ch.val) = false ∧ bit d.rim.offOk j.val = true
      ∧ d.get Par.rimOffTests 0 = (s.dev.get Par.rimOffTests 0 + 1) % 2 ^ 32 ∧ bit (d.get Par.rimOutFault 0) j.val = false
      ∧ d.outOn j.val = true))
  ∧ (∀ (t : Nat) (j : Fin 4) (ch : Fin 2) (s : State), s.dev.rim.running = true → s.dev.outUsed j.val = true → s.dev.rimLatchedOff →
    Completes (.outputReadbackMismatch t j ch) s (fun d => bit (d.get Par.rimOutFault 0) j.val = true ∧ d.outOn j.val = false
      ∧ bit (d.outCauses j.val) (rcOutputFault - 1) = true
      ∧ d.pins.rimOutA.getLsbD j.val = false ∧ d.pins.rimOutB.getLsbD j.val = false))
  ∧ ∀ (t : Nat) (j : Fin 4) (s : State), s.dev.rim.running = true → s.dev.outUsed j.val = true → recEdm s.dev.rim.active j.val ≠ 255 →
      s.dev.rimLatchedOff →
    (s.dev.edmReads j.val (!(s.dev.outOn j.val)) = true →
      Completes (.edmTimeout t j) s (fun d => d.rim = { s.dev.rim with edmOpen := setBit s.dev.rim.edmOpen j.val false }
        ∧ d.get Par.rimOutFault 0 = s.dev.get Par.rimOutFault 0))
    ∧ (s.dev.edmReads j.val (!(s.dev.outOn j.val)) = false →
      Completes (.edmTimeout t j) s (fun d => bit (d.get Par.rimOutFault 0) j.val = true ∧ d.outOn j.val = false)))
  ∧ ((∀ (t : Nat) (s : State), s.dev.rim.running = true → s.dev.rimLatchedOff →
    Completes (.channelComparison t false) s (fun d => ∀ j < 4, d.outOn j = false ∧ bit (d.outCauses j) (rcInternal - 1) = true))
  ∧ (∀ (t : Nat) (s : State), s.dev.rim.running = true →
    Completes (.channelComparison t true) s (fun d => (∀ k < 8, bit (d.get Par.rimInDemand 0) k = d.inDemand k)
      ∧ ∀ j < 4, d.outOn j = true → s.dev.outOn j = true ∨ d.outCauses j = 0))
  ∧ ∀ (t : Nat) (s : State), s.dev.rim.running = true → s.dev.rimLatchedOff →
    Completes (.rimSupplyFault t) s (fun d => ∀ j < 4, d.outOn j = false ∧ bit (d.outCauses j) (rcSupply - 1) = true))

/-- The reset press (R339, R340): RIM_RESET_PRESS_START starts it, RIM_RESET_STUCK_TIMEOUT reports one still held once, RIM_RESET_RELEASE ends it:
channels more than 50 ms apart are a reset fault; a valid press counts, activates a staged record with every output off, and an accepted one
energises every used output. -/
def Obligations.RimReset : Prop :=
  (∀ (t : Nat) (rel : Bool) (s : State), s.dev.rim.running = true → s.dev.rim.press = none →
    Completes (.rimResetPressStart t rel) s (fun d => d.rim = { s.dev.rim with press := some (s.dev.instant t, rel), stuck := false }))
  ∧ (∀ (t : Nat) (s : State), s.dev.rim.press.isSome = true → s.dev.rim.stuck = false →
    Completes (.rimResetStuckTimeout t) s (fun d => d.rim = { s.dev.rim with stuck := true }
      ∧ (s.dev.evtUp = true → d.isOn Par.evtFlag evRimResetStuck = true)))
  ∧ (∀ (t : Nat) (g r : Option Nat) (rails : Bool) (s : State), s.dev.rim.press.isSome = true → (∀ n, g = some n → 50 < n) →
    Completes (.rimResetRelease t g r rails) s (fun d => d.rim = { s.dev.rim with press := none, stuck := false }
      ∧ d.get Par.rimResetFaults 0 = (s.dev.get Par.rimResetFaults 0 + 1) % 2 ^ 32
      ∧ d.get Par.rimOutEnergised 0 = s.dev.get Par.rimOutEnergised 0))
  ∧ ∀ (t start g r : Nat) (rails : Bool) (s : State), s.dev.rim.running = true → s.dev.rim.press = some (start, true) → g ≤ 50 → r ≤ 50 →
      100 * fineMs ≤ s.dev.instant t - start → s.dev.instant t - start ≤ 3000 * fineMs → s.dev.rimLatchedOff →
    Completes (.rimResetRelease t (some g) (some r) rails) s (fun d => d.rim.press = none
      ∧ d.get Par.rimResetPresses 0 = (s.dev.get Par.rimResetPresses 0 + 1) % 2 ^ 32
      ∧ (s.dev.rim.staged ≠ [] → d.rim.active = s.dev.rim.staged ∧ d.rim.staged = [] ∧ ∀ j < 4, d.outOn j = false)
      ∧ (s.dev.rim.staged = [] → d.rim.active = s.dev.rim.active
          ∧ (d.get Par.rimResetsAccepted 0 = (s.dev.get Par.rimResetsAccepted 0 + 1) % 2 ^ 32 → ∀ j < 4, d.outOn j = d.outUsed j)))

/-- Every step keeps each energised output of the Rim free of latch causes (R323, R330), from every state in which it is. -/
def Obligations.StepKeepsRimLatched : Prop :=
  ∀ s t : State, s.dev.rimLatchedOff → step s = .next t → t.dev.rimLatchedOff

/-! ## Spokes, cells and arms -/

/-- CONTROL_FRAME (R41, R81, R83, R87, R100): a correct frame of the configured length, sent in this beat, at a port whose ring runs has been heard
from the far end, and each valid half updates its cell's record (Table 4.5), once a beat; a frame whose CRC-32 fails is counted with its ERR and
reaches no cell. RETURN_FRAME (R90, R101): the ring is split, its event raised, and the turning position of this side is reported; in a discovery
the position counts the cells reached from this end. A receiver goes dead or live (R78, R104): its link follows, a used port that loses its link
raises SPOKE_LINK_DOWN, and a ring in IDLE at an A end is held for discovery. -/
def Obligations.SpokeFrames : Prop :=
  (∀ (t : Nat) (s' : Fin 64) (bs : List Byte) (lineOk : Bool) (s : State), s.dev.full = true → s.dev.clkOk cdSpk = true →
    s.dev.get Par.spokeRole s'.val ≠ srUnused → (s.dev.get Par.spokeState s'.val = rsRun ∨ s.dev.get Par.spokeState s'.val = rsSplit) →
    let f := parseFrame bs lineOk
    let a := s.dev.ringOf s'.val
    (f.ok = true → f.type = 1 → f.n = s.dev.ringCells a → s.dev.onBeat f = true →
      Completes (.controlFrame t s' bs lineOk) s (fun d => (d.spoke s'.val).far = true
        ∧ ∀ p < f.n, let h := slice f.slots (32 * p + 16) 16
          halfOk h p = true → (s.dev.cell (8 * a + p)).fresh = false →
            d.get Par.cellVcap (8 * a + p) = beAt h 2 2 ∧ d.get Par.cellStatus (8 * a + p) = byteAt h 1
            ∧ d.get Par.cellFaults (8 * a + p) = byteAt h 8 ∧ d.get Par.cellVgate (8 * a + p) = byteAt h 12
            ∧ (d.cell (8 * a + p)).fresh = true))
    ∧ (f.crcBad = true →
      Completes (.controlFrame t s' bs lineOk) s (fun d => d.get Par.spokeCrcErrors s'.val = (s.dev.get Par.spokeCrcErrors s'.val + 1) % 2 ^ 32
        ∧ d.get Par.spokeErrPos s'.val = min 8 f.err ∧ d.cells = s.dev.cells ∧ d.spokes = s.dev.spokes)))
  ∧ (∀ (t : Nat) (s' : Fin 64) (bs : List Byte) (lineOk : Bool) (s : State), s.dev.full = true → s.dev.clkOk cdSpk = true →
    s.dev.get Par.spokeRole s'.val ≠ srUnused →
    let f := parseFrame bs lineOk
    f.ok = true → f.type = 4 → s.dev.onBeat f = true →
    (s.dev.get Par.spokeState s'.val = rsRun →
      Completes (.returnFrame t s' bs lineOk) s (fun d => d.get Par.spokeState s'.val = rsSplit ∧ (d.spoke s'.val).ret = true
        ∧ d.isOn Par.evtFlag evSpokeSplit = true
        ∧ d.get (if s.dev.bEnd s'.val then Par.spokeTurnB else Par.spokeTurnA) s'.val = f.turn))
    ∧ ∀ x : Disc, s.dev.get Par.spokeState s'.val = rsDiscover → (s.dev.spoke (s.dev.ringOf s'.val)).disc = some x →
      Completes (.returnFrame t s' bs lineOk) s (fun d => d.get Par.spokeState s'.val = rsDiscover
        ∧ (d.spoke (s.dev.ringOf s'.val)).disc = some (if s.dev.bEnd s'.val then { x with retB := some f.turn } else { x with retA := some f.turn })))
  ∧ ((∀ (t : Nat) (s' : Fin 64) (s : State), s.dev.full = true → s.dev.clkOk cdSpk = true →
    Completes (.spokeReceiverDead t s') s (fun d => d.get Par.spokeLink s'.val = 0
      ∧ (bit (s.dev.get Par.spokeLink s'.val) 0 = true → s.dev.get Par.spokeRole s'.val ≠ srUnused → d.isOn Par.evtFlag evSpokeLinkDown = true)
      ∧ d.spokes = s.dev.spokes))
  ∧ ∀ (t : Nat) (s' : Fin 64) (s : State), s.dev.full = true → s.dev.clkOk cdSpk = true →
    Completes (.spokeReceiverLive t s') s (fun d => d.get Par.spokeLink s'.val = 1
      ∧ ((s.dev.get Par.spokeRole s'.val = srSingleA ∨ s.dev.get Par.spokeRole s'.val = srDuplexA) → s.dev.get Par.spokeState s'.val = rsIdle →
          (d.spoke s'.val).autoPend = true)
      ∧ ∀ k < 64, k ≠ s'.val → d.get Par.spokeLink k = s.dev.get Par.spokeLink k ∧ d.spoke k = s.dev.spoke k))

/-- Discovery (R104 to R107): DISCOVER_FRAME counts the cells by its hop and stores what each valid identity half names; RANGE_FRAME keeps the round
trip; DISCOVERY_COMPLETE ends it, once its beats have run, with the cells that were reached present and their settings to be sent, and a ring
without any in FAULT (the choice of the model, log entry 69). While the pair that serves the rings is halted, it stands still (R26): then none of
the three moves it. SPOKE_SPLIT, SPOKE_REJOINED, CELL_LOST, CELL_UNBLOCK_FAIL and CELL_BYPASS_FAIL (R98, R100, R101, R149, R150, R151): each acts
when its count is reached. -/
def Obligations.Discoveries : Prop :=
  ((∀ (t : Nat) (s' : Fin 64) (bs : List Byte) (lineOk : Bool) (x : Disc) (s : State), s.dev.full = true → s.dev.clkOk cdSpk = true →
      s.dev.get Par.spokeRole s'.val ≠ srUnused → (s.dev.spoke (s.dev.ringOf s'.val)).disc = some x →
    let f := parseFrame bs lineOk
    let a := s.dev.ringOf s'.val
    f.ok = true → f.type = 2 → s.dev.onBeat f = true → s.dev.controlHalted = false → bit f.flags 2 = false →
    Completes (.discoverFrame t s' bs lineOk) s (fun d =>
      (d.spoke a).disc = some { x with hopA := some f.hop, long := x.long || decide (f.n < f.hop), ids := (List.range f.n).map (fun p => slice f.slots (32 * p + 16) 16) }
      ∧ ∀ p < min f.n (min f.hop 8), let h := slice f.slots (32 * p + 16) 16
        beAt h 14 2 = crc16 (slice h 0 14) → bit (byteAt h 0) 3 = true →
          d.get Par.cellSerial (8 * a + p) = beAt h 2 6 ∧ d.get Par.cellMaker (8 * a + p) = beAt h 8 2
          ∧ (d.cell (8 * a + p)).version = byteAt h 1))
  ∧ (∀ (t rt : Nat) (s' : Fin 64) (bs : List Byte) (lineOk : Bool) (x : Disc) (s : State), s.dev.full = true → s.dev.clkOk cdSpk = true →
      (s.dev.spoke (s.dev.ringOf s'.val)).disc = some x →
    let f := parseFrame bs lineOk
    f.ok = true → f.type = 3 → s.dev.onBeat f = true → s.dev.controlHalted = false →
    Completes (.rangeFrame t s' bs lineOk rt) s (fun d => (d.spoke (s.dev.ringOf s'.val)).disc =
      some (if s.dev.bEnd s'.val then { x with rtB := x.rtB ++ [(f.turn, rt)] } else { x with rtA := x.rtA ++ [(f.turn, rt)] })))
  ∧ (∀ (t rt : Nat) (s' : Fin 64) (bs : List Byte) (lineOk : Bool) (s : State), s.dev.full = true → s.dev.clkOk cdSpk = true → s.dev.controlHalted = true →
    Completes (.discoverFrame t s' bs lineOk) s (fun d => d.spokes = s.dev.spokes ∧ d.cells = s.dev.cells)
    ∧ Completes (.rangeFrame t s' bs lineOk rt) s (fun d => d.spokes = s.dev.spokes ∧ d.cells = s.dev.cells)
    ∧ Completes (.discoveryComplete t s') s (fun d => d.spokes = s.dev.spokes ∧ d.cells = s.dev.cells))
  ∧ ∀ (t : Nat) (s' : Fin 64) (x : Disc) (s : State), s.dev.full = true → s.dev.clkOk cdSpk = true →
      let a := s.dev.ringOf s'.val
      (s.dev.spoke a).disc = some x → a < 64 → s.dev.ringCells a ≤ 8 → x.retA = none → x.retB = none → x.hopB = none → x.long = false →
      x.span (s.dev.ringCells a) ≤ x.beats → s.dev.controlHalted = false →
    Completes (.discoveryComplete t s') s (fun d => (d.spoke a).disc = none ∧ d.get Par.spokeDiscover a = 0
      ∧ (∀ p < 8, d.get Par.cellPresent (8 * a + p) = b2n (decide (p < s.dev.ringCells a) && decide (p < x.hopA.getD 0)))
      ∧ (∀ p < 8, d.get Par.cellPresent (8 * a + p) = 1 → (d.cell (8 * a + p)).cfg = List.range 8)
      ∧ (min (s.dev.ringCells a) (x.hopA.getD 0) = 0 → d.get Par.spokeState a = rsFault)
      ∧ (min (s.dev.ringCells a) (x.hopA.getD 0) ≠ 0 → s.dev.get Par.spokeRole a = srSingleA → d.get Par.spokeState a = rsRun)))
  ∧ ((∀ (t : Nat) (s' : Fin 64) (s : State), s.dev.full = true → s.dev.clkOk cdSpk = true → 2 ≤ (s.dev.spoke s'.val).missRun →
      (∃ p < 8, s.dev.isOn Par.cellPresent (8 * s.dev.ringOf s'.val + p) = true) → s.dev.get Par.spokeState s'.val = rsRun →
    Completes (.spokeSplit t s') s (fun d => d.get Par.spokeState s'.val = rsSplit ∧ d.isOn Par.evtFlag evSpokeSplit = true
      ∧ ∀ k < 64, k ≠ s'.val → d.get Par.spokeState k = s.dev.get Par.spokeState k))
  ∧ (∀ (t : Nat) (s' : Fin 64) (s : State), s.dev.full = true → s.dev.clkOk cdSpk = true → 16 ≤ (s.dev.spoke s'.val).goodRun →
      s.dev.get Par.spokeState s'.val = rsSplit →
    Completes (.spokeRejoined t s') s (fun d => d.get Par.spokeState s'.val = rsRun ∧ d.get Par.spokeTurnA s'.val = 0xFF
      ∧ d.get Par.spokeTurnB s'.val = 0xFF ∧ d.isOn Par.evtFlag evSpokeRejoined = true))
  ∧ (∀ (t : Nat) (c : Fin 512) (s : State), s.dev.full = true → s.dev.clkOk cdSpk = true → s.dev.isOn Par.cellPresent c.val = true →
      4 ≤ s.dev.get Par.cellStale c.val → s.dev.get Par.cellLost c.val = 0 →
    Completes (.cellLost t c) s (fun d => d.get Par.cellLost c.val = 1 ∧ (d.cell c.val).unblk = none ∧ d.isOn Par.evtFlag evCellLost = true
      ∧ (s.dev.inRunArm c.val = true → s.dev.get Par.cellProtState c.val = bpNone →
          d.get Par.cellProtState c.val = bpPending ∧ (d.cell c.val).bypFrom = s.dev.beatNo + 1)
      ∧ ∀ k < 512, k ≠ c.val → d.cell k = s.dev.cell k ∧ d.get Par.cellLost k = s.dev.get Par.cellLost k))
  ∧ (∀ (t n : Nat) (c : Fin 512) (s : State), s.dev.full = true → s.dev.clkOk cdSpk = true → (s.dev.cell c.val).unblk = some n → 64 < n →
    Completes (.cellUnblockFail t c) s (fun d => d.cell c.val = { s.dev.cell c.val with unblk := none }
      ∧ d.isOn Par.evtFlag evCellUnblockFail = true ∧ ∀ k < 512, k ≠ c.val → d.cell k = s.dev.cell k))
  ∧ ∀ (t : Nat) (c : Fin 512) (s : State), s.dev.full = true → s.dev.clkOk cdSpk = true → s.dev.get Par.cellProtState c.val = bpPending →
      8 ≤ (s.dev.cell c.val).bypN → s.dev.get Par.cellLost c.val = 0 →
    Completes (.cellBypassFail t c) s (fun d => d.get Par.cellProtState c.val = bpFailed ∧ d.isOn Par.evtFlag evCellBypassFail = true
      ∧ ∀ j, s.dev.armOf c.val = some j → d.get Par.armState j = asBlocked
          ∧ (s.dev.get Par.armState j ≠ asBlocked → d.get Par.armFaultCause j = afBypassFail ∧ d.mode.tripReq = true)))

/-! ## Weave fabric -/

/-- A weft port (R349): WEFT_BLOCK_LOCK takes a port that is DOWN to LOCK; WEFT_LOCK_LOSS and, after three missed beats, WEFT_PORT_MISSED_BEATS take
it DOWN, counted where it was UP; WEFT_RELOCK_WAIT ends the wait. IDENT (R349, R355): the device is known by what it says; from the neighbour itself
the port knows its peer, and in LOCK, with the own IDENT sent, the port comes UP. LSA (R359): the links of its stake are in the database. ASSIGN
(R357): a device without a number takes the one it is given. -/
def Obligations.WeftLinks : Prop :=
  ((∀ (t : Nat) (p : Fin 4) (s : State), s.dev.full = true → (s.dev.wport p.val).state = wpDown → (s.dev.wport p.val).waiting = false →
      s.dev.clkOk cdWeft = true →
    Completes (.weftBlockLock t p) s (fun d => (d.wport p.val).state = wpLock ∧ (d.wport p.val).identOut = true
      ∧ (∃ w ∈ d.weave.out, w.kind = wkIdent ∧ w.port = p.val) ∧ ∀ q < 4, q ≠ p.val → d.wport q = s.dev.wport q))
  ∧ (∀ (t : Nat) (p : Fin 4) (s : State), (s.dev.wport p.val).state ≠ wpDown →
    Completes (.weftLockLoss t p) s (fun d => (d.wport p.val).state = wpDown ∧ (d.wport p.val).waiting = true
      ∧ ((s.dev.wport p.val).state = wpUp → (d.wport p.val).downs = ((s.dev.wport p.val).downs + 1) % 2 ^ 32
          ∧ d.get Par.linkState (3 + p.val) = 0)
      ∧ ∀ q < 4, q ≠ p.val → d.wport q = s.dev.wport q))
  ∧ (∀ (t : Nat) (p : Fin 4) (s : State),
    Completes (.weftRelockWait t p) s (fun d => d.wport p.val = { s.dev.wport p.val with waiting := false }
      ∧ ∀ q < 4, q ≠ p.val → d.wport q = s.dev.wport q))
  ∧ ∀ (t : Nat) (p : Fin 4) (s : State), (s.dev.wport p.val).state = wpUp → 3 ≤ (s.dev.wport p.val).missRun →
    Completes (.weftPortMissedBeats t p) s (fun d => (d.wport p.val).state = wpDown
      ∧ (d.wport p.val).downs = ((s.dev.wport p.val).downs + 1) % 2 ^ 32 ∧ d.get Par.linkState (3 + p.val) = 0))
  ∧ ((∀ (h : WHdr) (ident : W64) (strap stake partner peerPort : Byte) (s : State), ident ≠ Config.identity → s.dev.full = true →
      h.crcOk = true → h.dest.toNat = 0xFE → ((s.dev.wport h.port.val).state = wpUp ∨ (s.dev.wport h.port.val).state = wpLock) →
    Completes (.ident h ident strap stake partner peerPort) s (fun d =>
      d.weave.known.find? (fun x => x.ident == ident) =
        some { ident := ident, strap := strap.toNat, stake := stake.toNat, partner := partner.toNat }
      ∧ (h.hop = 8 → (d.wport h.port.val).peer = stake.toNat ∧ (d.wport h.port.val).peerPort = peerPort.toNat
          ∧ ((s.dev.wport h.port.val).identOut = true → (d.wport h.port.val).state = wpUp))
      ∧ (stake.toNat < 64 → d.get Par.stakeIdentity stake.toNat = ident.toNat ∧ stake.toNat ∈ d.weave.heard)))
  ∧ (∀ (h : WHdr) (links : List (Byte × Byte × Byte)) (s : State), s.dev.hears h → h.src.toNat < 64 →
    Completes (.lsa h links) s (fun d => d.weave.lsdb.get (fun _ => []) h.src.toNat = links.map (fun l => (l.1.toNat, l.2.1.toNat, l.2.2.toNat))
      ∧ d.weave.known = s.dev.weave.known))
  ∧ ∀ (h : WHdr) (pairs : List (W64 × Byte)) (n : Byte) (s : State), s.dev.hears h → s.dev.weave.stake = none → s.dev.weave.isolated = false →
      pairs.find? (fun p => p.1 == Config.identity) = some (Config.identity, n) → n.toNat < 63 →
    Completes (.assign h pairs) s (fun d => d.weave.assignedNo = some n.toNat ∧ d.weave.stake = none))

/-- BEAT_PKT (R354, R373, R375): the STAKE values of its source, its arrival in its beat, and with DEPART the ports to it DOWN. TIME (R362): the
times of the exchange are kept and summed up to 16 beats. SIGNALS, CODES and SUBSCRIBE (R206, R365): a record of a subscribed signal is its value
for the coming beat; the codes of a stake replace those it sent before; the readers of a publisher's signals are noted. Messages of the partner in a
formed pair (R119, R152, R179, R366): ARM_CUR and CTX_STATE of the holder are kept for the next beat, ARM_BLOCK blocks the arm and requests a
converter trip, TELEM_RELAY of this beat updates the cell and an older one counts as late, RING_REPORT counts the cells of a discovery. -/
def Obligations.WeaveMessages : Prop :=
  ((∀ (h : WHdr) (b : BeatPkt) (s : State), s.dev.hears h → h.src.toNat < 64 → h.src.toNat ≠ s.dev.stakeNo →
    Completes (.beatPkt h b) s (fun d => d.get Par.stakeConvMode h.src.toNat = b.kind.toNat ∧ d.get Par.stakeTimeState h.src.toNat = b.tstate.toNat
      ∧ d.get Par.stakeBeatTicks h.src.toNat = b.ticks.toNat ∧ d.get Par.stakeBeatPhase h.src.toNat = b.phase.toNat
      ∧ d.get Par.stakeHoldsToken h.src.toNat = b2n b.hold
      ∧ (b.beat = BitVec.ofNat 32 s.dev.beatNo → h.src.toNat ∈ d.weave.pkts)
      ∧ (b.depart = true → ∀ q < 4, (s.dev.wport q).state = wpUp → (s.dev.wport q).peer = h.src.toNat → (d.wport q).state = wpDown)))
  ∧ (∀ (h : WHdr) (t1 t2 echo : W64) (s : State), s.dev.hears h →
    Completes (.time h t1 t2 echo) s (fun d => (d.wport h.port.val).t2 = s.dev.instant h.t ∧ (d.wport h.port.val).nbrT1 = t1.toNat
      ∧ (echo ≠ 0 → (s.dev.wport h.port.val).n < 15 →
          (d.wport h.port.val).n = (s.dev.wport h.port.val).n + 1
          ∧ (d.wport h.port.val).dSum = (s.dev.wport h.port.val).dSum + (((t2.toNat : Int) - echo.toNat) + ((s.dev.instant h.t : Int) - t1.toNat))
          ∧ (d.wport h.port.val).oSum = (s.dev.wport h.port.val).oSum + (((t2.toNat : Int) - echo.toNat) - ((s.dev.instant h.t : Int) - t1.toNat))))))
  ∧ ((∀ (h : WHdr) (pre : List SigRec) (r : SigRec) (s : State), s.dev.hears h → r.stake.toNat < 64 →
      (r.stake.toNat, r.signal.toNat) ∈ s.dev.weave.subs →
    Completes (.signals h (pre ++ [r])) s (fun d =>
      d.weave.sig.get (fun _ => {}) (r.stake.toNat * 64 + r.signal.toNat) = { val := r.val, fresh := r.fresh, arrived := true }))
  ∧ (∀ (h : WHdr) (codes : List (BitVec 16)) (s : State), s.dev.hears h → h.src.toNat < 64 →
    Completes (.codes h codes) s (fun d => d.weave.codes =
      s.dev.weave.codes.filter (fun c => decide (c.1 ≠ h.src.toNat)) ++ codes.map (fun c => (h.src.toNat, c.toNat))))
  ∧ ∀ (h : WHdr) (sigs : List Byte) (s : State), s.dev.hears h →
    Completes (.subscribe h sigs) s (fun d => (∀ g ∈ sigs, (h.dest.toNat * 64 + g.toNat % 64, h.src.toNat) ∈ d.weave.readers)
      ∧ ∀ r ∈ s.dev.weave.readers, r.2 ≠ h.src.toNat → r ∈ d.weave.readers))
  ∧ ((∀ (h : WHdr) (pre : List (Byte × F32)) (j : Byte) (v : F32) (s : State), s.dev.hears h → s.dev.fromHolder h = true → j.toNat < 24 →
    Completes (.armCur h (pre ++ [(j, v)])) s (fun d => (d.arm j.toNat).partnerI = some v))
  ∧ (∀ (h : WHdr) (ctx n : Byte) (xs : List F32) (s : State), s.dev.hears h → s.dev.fromHolder h = true → ctx.toNat < 128 →
    Completes (.ctxState h ctx n xs) s (fun d => d.ctx ctx.toNat = { s.dev.ctx ctx.toNat with sync := some (xs.take n.toNat) }))
  ∧ (∀ (h : WHdr) (arm cause : Byte) (s : State), s.dev.hears h → s.dev.paired = true → h.src.toNat = s.dev.partnerNo → arm.toNat < 24 →
      s.dev.get Par.armState arm.toNat ≠ asBlocked →
    Completes (.armBlock h arm cause) s (fun d => d.get Par.armState arm.toNat = asBlocked ∧ d.get Par.armFaultCause arm.toNat = afPartner
      ∧ d.get Par.armArmFaults arm.toNat = (s.dev.get Par.armArmFaults arm.toNat + 1) % 2 ^ 32 ∧ d.mode.tripReq = true))
  ∧ (∀ (h : WHdr) (spoke pos : Byte) (half : List Byte) (s : State), s.dev.hears h → halfOk half pos.toNat = true →
    (beAt half 10 2 = s.dev.beatNo % 65536 → (s.dev.cell (8 * s.dev.ringOf spoke.toNat + pos.toNat)).fresh = false →
      Completes (.telemRelay h spoke pos half) s (fun d =>
        d.get Par.cellVcap (8 * s.dev.ringOf spoke.toNat + pos.toNat) = beAt half 2 2
        ∧ (d.cell (8 * s.dev.ringOf spoke.toNat + pos.toNat)).fresh = true))
    ∧ (beAt half 10 2 ≠ s.dev.beatNo % 65536 →
      Completes (.telemRelay h spoke pos half) s (fun d => d.get Par.weaveRelayLate 0 = (s.dev.get Par.weaveRelayLate 0 + 1) % 2 ^ 32
        ∧ d.cells = s.dev.cells)))
  ∧ ∀ (h : WHdr) (spoke count : Byte) (ids : List (List Byte)) (x : Disc) (s : State), s.dev.hears h → (s.dev.spoke spoke.toNat).disc = some x →
    Completes (.ringReport h spoke count ids) s (fun d => ∃ y, (d.spoke spoke.toNat).disc = some y ∧ y.hopA = some count.toNat ∧ y.rtA = x.rtA))

/-- FIRE and TRIG_ARM (R318, R319): a fire of the weave fires a weave-wide trigger in WAIT or ARMED with its own TS64 and stake; a weave-wide arm
value is kept for its target beat. MGMT (R403): OPEN of another stake's session opens a weave session of that origin while one is free.
WEAVE_PERIODIC_SEND (R352): IDENT, LSA and CODES leave for every stake. DUPLEX_CONFIG_TIMEOUT (R367) and PARTNER_ABSENT (R370): the pair is CONFIG
or its partner absent, and this stake holds the token. -/
def Obligations.WeaveServices : Prop :=
  ((∀ (h : WHdr) (trig : Byte) (ts : W64) (cause stake : Byte) (s : State), s.dev.hears h → trig.toNat < 16 →
      s.dev.isOn Par.trigWeave trig.toNat = true → (s.dev.get Par.trigState trig.toNat = tsWait ∨ s.dev.get Par.trigState trig.toNat = tsArmed) →
    Completes (.fire h trig ts cause stake) s (fun d => d.get Par.trigState trig.toNat = tsHoldoff
      ∧ d.get Par.trigFires trig.toNat = (s.dev.get Par.trigFires trig.toNat + 1) % 2 ^ 32 ∧ d.get Par.trigLastTime trig.toNat = ts.toNat
      ∧ d.get Par.trigLastCause trig.toNat = fcWeave ∧ d.get Par.trigLastStake trig.toNat = stake.toNat))
  ∧ ∀ (h : WHdr) (trig arm : Byte) (beat : W64) (s : State), s.dev.hears h → trig.toNat < 16 → s.dev.isOn Par.trigWeave trig.toNat = true →
    Completes (.trigArm h trig arm beat) s (fun d => (d.trig trig.toNat).armNext = some (arm.toNat, beat.toNat) ∧ (d.trig trig.toNat).autoHere = false))
  ∧ ((∀ (h : WHdr) (session : BitVec 16) (tag : BitVec 32) (s : State), s.dev.hears h → s.dev.pairHalted 1 = false →
      (∀ k < 80, (s.dev.sess k).origin ≠ some (h.src.toNat, session.toNat)) → (∃ k < 64, s.dev.pairFree (16 + k) = true) →
    Completes (.mgmt h (.request session tag false .opn)) s (fun d =>
      ∃ k, 16 ≤ k ∧ k < 80 ∧ (d.sess k).isOpen = true ∧ (d.sess k).origin = some (h.src.toNat, session.toNat) ∧ (s.dev.sess k).isOpen = false))
  ∧ (∀ (t me : Nat) (s : State), s.dev.full = true → s.dev.weave.stake = some me →
    Completes (.weavePeriodicSend t) s (fun d => (∃ w ∈ d.weave.out, w.kind = wkIdent ∧ w.dest = 0xFF)
      ∧ (∃ w ∈ d.weave.out, w.kind = wkLsa ∧ w.dest = 0xFF) ∧ (∃ w ∈ d.weave.out, w.kind = wkCodes ∧ w.dest = 0xFF)
      ∧ ∀ w ∈ s.dev.weave.out, w ∈ d.weave.out))
  ∧ (∀ (t me : Nat) (s : State), s.dev.full = true → s.dev.weave.stake = some me → s.dev.partnerNo < 64 → s.dev.get Par.weavePairState 0 ≠ paConfig →
      (s.dev.get Par.stakePartner s.dev.partnerNo ≠ me ∨ s.dev.partnerNo ∉ s.dev.neighbours) →
    Completes (.duplexConfigTimeout t) s (fun d => d.get Par.weavePairState 0 = paConfig ∧ d.tokenNext = true ∧ d.isOn Par.evtFlag evDuplexConfig = true))
  ∧ ∀ (t me : Nat) (s : State), s.dev.full = true → s.dev.weave.stake = some me → s.dev.partnerNo < 64 → 3 ≤ s.dev.weave.partnerMiss →
      s.dev.get Par.weavePairState 0 ≠ paAbsent →
    Completes (.partnerAbsent t) s (fun d => d.get Par.weavePairState 0 = paAbsent ∧ d.tokenNext = true ∧ d.get Par.stakePresent s.dev.partnerNo = 0
      ∧ d.get Par.stakeAbsences s.dev.partnerNo = (s.dev.get Par.stakeAbsences s.dev.partnerNo + 1) % 2 ^ 32
      ∧ d.weave.tokPlan = none ∧ d.weave.passing = false))

/-! ## The beat, table sets, the compute window -/

/-- Beat boundaries are fixed in weave time (R35): after BEAT_BOUNDARY at the start of beat k the beat number is k, the beat starts at (k ×
beat_ticks + beat_phase) × 16 fine ticks and ends at the start of beat k + 1, a tick edge. With `g`, the grid is one accepted before whose first
boundary this is; without it, the grid in force. The premises leave out a grid write that waits for this boundary, and the reset of a device that
starts over at it. -/
def Obligations.BeatsFollowGrid : Prop :=
  ∀ (x : Samples) (s : State) (g : Option (Nat × Nat × Nat × Nat)) (bt ph k : Nat), s.dev.clkOk cdTb = true → s.dev.newGrid = g → bt ≠ 0 →
    bt < 2 ^ 64 → ph < 2 ^ 64 → k < 2 ^ 64 → s.dev.now ≤ s.dev.beatStart + s.dev.beatLen →
    (∀ m ∈ s.dev.host.msgs, ∀ w ∈ m.work, w.isGrid = false) →
    s.dev.beatStart + s.dev.beatLen = (k * bt + ph) * 16 →
    (match g with
     | none => s.dev.beatTicks = bt ∧ s.dev.get Par.beatBeatPhase 0 = ph
     | some (bt', _, ph', e) => bt' = bt ∧ ph' = ph ∧ nextBoundary bt ph e = (k * bt + ph) * 16) →
    Completes (.beatBoundary x) s (fun d => d.phase = s.dev.phase → d.beatNo = k ∧ d.beatStart = (k * bt + ph) * 16
      ∧ d.beatStart + d.beatLen = ((k + 1) * bt + ph) * 16 ∧ d.beatStart % 16 = 0
      ∧ d.beatTicks = bt ∧ d.get Par.beatBeatPhase 0 = ph)

/-- BEAT_BOUNDARY and WAKE_COMPLETE (R35, R444): the new beat starts where the old one ended; a boundary leaves the phase, or a requested reset
starts; the registers of the Lid are those attested in the beat (R413); without the TB clock there is no beat. WAKE_COMPLETE reaches RUN with the
memory found. -/
def Obligations.BeatBoundaries : Prop :=
  (∀ (x : Samples) (s : State), s.dev.clkOk cdTb = true → s.dev.now ≤ s.dev.beatStart + s.dev.beatLen →
    Completes (.beatBoundary x) s (fun d => d.beatStart = s.dev.beatStart + s.dev.beatLen
      ∧ (d.phase = s.dev.phase ∨ d.phase = .warm ∧ d.pwr.cause = rsRequested)
      ∧ (s.dev.phase = .run → d.phase = .run → d.lid.tallySnap = d.lid.tally ∧ d.lid.countSnap = d.lid.counts)))
  ∧ (∀ (x : Samples) (s : State), s.dev.clkOk cdTb = false →
    Completes (.beatBoundary x) s (fun d => d.beatStart = s.dev.beatStart ∧ d.beatNo = s.dev.beatNo ∧ d.phase = s.dev.phase
      ∧ d.host = s.dev.host ∧ d.mode = s.dev.mode ∧ d.legs = s.dev.legs))
  ∧ ∀ (x : Samples) (ddr : Fin 8193) (s : State), s.dev.phase = .run → s.dev.pmode = pmWaking → s.dev.clkOk cdTb = true →
      s.dev.now ≤ s.dev.beatStart + s.dev.beatLen →
    Completes (.wakeComplete x ddr) s (fun d => d.beatStart = s.dev.beatStart + s.dev.beatLen
      ∧ (d.phase = .warm ∨ d.full = true ∧ d.sup.ddrMiB = ddr.val))

/-- Table sets: TABLE_SYNC_DONE (R59, R61) makes the shadow of a switched set a copy of what is in use, in EDIT; TABLE_PERSIST (R64) stores each
switched set with its digest; COMMIT_VALIDATION_DONE (R60, R63) validates the oldest commit in hand, or ends it with its sets in EDIT. The table in
use changes in none of them. While the pair that serves the tables is halted, none of the three does anything (R26). Writes of tbl_commit and
tbl_abort (R59, R60, R62): a commit of sets that are in EDIT is taken in hand with all of them, with one that is not it is refused with BUSY; an
abort ends every commit in hand that has a named set, which is in EDIT again, and answers LATE_ABORT after a switch. Naming no set has no effect. A
new beat grid (R38, R39): beat_phase not below beat_ticks is refused with RANGE and nothing changes; a refused grid never changes anything; an
accepted one starts at its first boundary at least one old beat after the last of the writes. -/
def Obligations.TableSetsAndGrid : Prop :=
  ((∀ (t : Nat) (k : Fin 3) (s : State), s.dev.phase = .run → s.dev.controlHalted = false → (s.dev.tset k.val).state = 2 →
    Completes (.tableSyncDone t k) s (fun d => (d.tset k.val).shadow = (s.dev.tset k.val).active ∧ (d.tset k.val).active = (s.dev.tset k.val).active
      ∧ (d.tset k.val).state = 0 ∧ ∀ j < 3, j ≠ k.val → d.tset j = s.dev.tset j))
  ∧ (∀ (t : Nat) (s : State), s.dev.phase = .run → s.dev.controlHalted = false →
    Completes (.tablePersist t) s (fun d => ∀ k < 3, (d.tset k).dirty = false ∧ (d.tset k).active = (s.dev.tset k).active
      ∧ (d.tset k).shadow = (s.dev.tset k).shadow
      ∧ d.lid.stored.get (fun _ => []) k = (if (s.dev.tset k).dirty then (s.dev.tset k).active else s.dev.lid.stored.get (fun _ => []) k)
      ∧ d.lid.storedDigest.get (fun _ => []) k = (if (s.dev.tset k).dirty then (s.dev.tset k).actDigest else s.dev.lid.storedDigest.get (fun _ => []) k)))
  ∧ (∀ (t : Nat) (k : Fin 3) (s : State), s.dev.controlHalted = true →
    Completes (.tableSyncDone t k) s (fun d => d.tsets = s.dev.tsets) ∧ Completes (.tablePersist t) s (fun d => d.tsets = s.dev.tsets ∧ d.lid = s.dev.lid)
    ∧ Completes (.commitValidationDone t) s (fun d => d.tsets = s.dev.tsets ∧ d.commits = s.dev.commits))
  ∧ (∀ (t off : Nat) (c : Commit) (s : State), s.dev.phase = .run → s.dev.controlHalted = false →
      s.dev.commits.find? (fun c => !c.validated) = some c → (setsOf c.mask).findSome? (fun k => minOf (s.dev.setFaults k)) = some off →
    Completes (.commitValidationDone t) s (fun d => c ∉ d.commits ∧ (∀ k ∈ setsOf c.mask, (d.tset k).state = 0)
      ∧ ∀ k < 3, (d.tset k).active = (s.dev.tset k).active ∧ (d.tset k).shadow = (s.dev.tset k).shadow))
  ∧ ∀ (t : Nat) (c : Commit) (s : State), s.dev.phase = .run → s.dev.controlHalted = false →
      s.dev.commits.find? (fun c => !c.validated) = some c → (setsOf c.mask).findSome? (fun k => minOf (s.dev.setFaults k)) = none →
      bit c.mask tsCtx = false →
    Completes (.commitValidationDone t) s (fun d => { c with validated := true } ∈ d.commits
      ∧ (∀ k ∈ setsOf c.mask, (d.tset k).digest = sha384 (s.dev.imgAll k true))
      ∧ ∀ k < 3, (d.tset k).active = (s.dev.tset k).active ∧ (d.tset k).shadow = (s.dev.tset k).shadow))
  ∧ (∀ (d : Dev) (ses tag ts : Nat) (v : W64),
    let m := v.toNat % 8
    let commit := d.applyWrite ses tag ts oDev Par.devTblCommit.idx v
    let stop := d.applyWrite ses tag ts oDev Par.devTblAbort.idx v
    (m = 0 → commit = (stOk, d) ∧ stop = (stOk, d))
    ∧ (m ≠ 0 → (∀ k ∈ setsOf m, (d.tset k).state = 0) → commit.1 = stOk
        ∧ commit.2.commits = d.commits ++ [{ mask := m, session := ses, tag := tag, ts := ts }]
        ∧ (∀ k ∈ setsOf m, (commit.2.tset k).state = 1 ∧ (commit.2.tset k).active = (d.tset k).active ∧ (commit.2.tset k).shadow = (d.tset k).shadow)
        ∧ ∀ k < 3, k ∉ setsOf m → commit.2.tset k = d.tset k)
    ∧ ((∃ k ∈ setsOf m, (d.tset k).state ≠ 0) → commit = (stBusy, d))
    ∧ ((∃ c ∈ d.commits, ∃ k ∈ setsOf m, bit c.mask k = true) → stop.1 = stOk
        ∧ ∀ c ∈ d.commits, (∃ k ∈ setsOf m, bit c.mask k = true) → c ∉ stop.2.commits ∧ ∀ k ∈ setsOf c.mask, (stop.2.tset k).state = 0)
    ∧ ((∀ c ∈ d.commits, ∀ k ∈ setsOf m, bit c.mask k = false) →
        ((∃ k ∈ setsOf m, (d.tset k).switched = true) → stop = (stLateAbort, d))
        ∧ (setsOf m ≠ [] → (∀ k ∈ setsOf m, (d.tset k).switched = false) → stop = (stBadState, d))))
  ∧ (∀ (d : Dev) (bt pct ph last : Nat),
    (bt ≤ ph → d.gridWrite bt pct ph last = (stRange, none, d))
    ∧ (d.gridWrite bt pct ph last).1 ∈ [stOk, stRange, stAdmission]
    ∧ ((d.gridWrite bt pct ph last).1 ≠ stOk → (d.gridWrite bt pct ph last).2.2 = d)
    ∧ ((d.gridWrite bt pct ph last).1 = stOk → ∃ k : Nat,
        let start := (k * bt + ph) * 16
        (d.gridWrite bt pct ph last).2.2 = { d with newGrid := some (bt, pct, ph, last + d.beatTicks * 16) }
        ∧ (d.gridWrite bt pct ph last).2.2.gridStart = some start
        ∧ last + d.beatTicks * 16 ≤ start ∧ start < last + d.beatTicks * 16 + bt * 16))

/-- COMPUTE_WINDOW_END (R37, R251, R354), with `e` the device once the last steps and the deadlines of the window have passed: every leg latches its
set-points, within range, a NaN as 0, and no longer waits for the window's end; a stake with a number sends a BEAT_PKT on every port that is UP. The
premise on the ports leaves out a hold that starts or ends (R228). FINAL_STEP (R126 to R129, R117), with `e` the device once the deadline at its
start has passed: an arm in RUN whose final step of the beat has not run takes its reference with the carry, limited to what its cells can give, and
reports how many cells its plan inserts, the fractional cell and its edge; an arm that does not run keeps all it has. CONTEXT_DEADLINE (R175, R176):
a context in RUN that is at work, or that has not started, when its deadline passes overruns: it is counted with its cause, its event is raised, and
at overrun_limit it enters FALLBACK; one that has completed is left alone. -/
def Obligations.ComputeWindow : Prop :=
  (∀ s : State, s.dev.full = true → s.dev.clkOk cdTb = true →
    let e := (s.dev.atTime (s.dev.windowTicks * 16)).finalPass.deadlinePass (boundC s.dev.windowTicks)
    (∀ p < 32, (e.port p).holdNext = none) →
    let within := fun (hi v : F32) => if fisNaN v then f0 else fclamp f0 hi v
    Completes .computeWindowEnd s (fun d => (∀ n < 40, (d.leg n).shift = within 0x3F000000 (e.getF Par.legShift n)
        ∧ (d.leg n).tCtrl = within 0x4A1EB100 (e.getF Par.legTCtrl n) ∧ (d.leg n).wait ≠ .windowEnd
        ∧ ((e.legRole n ≠ 2 ∨ (e.leg n).dutyLimit = none) → (d.leg n).duty = within f1 (e.legDutyIn n)) ∧ (d.leg n).zero = (e.leg n).zero)
      ∧ (s.dev.weave.stake.isSome = true → ∀ p < 4, (s.dev.wport p).state = wpUp → ∃ w ∈ d.weave.out, w.kind = wkBeatPkt ∧ w.port = p)))
  ∧ (∀ s : State, s.dev.full = true → s.dev.clkOk cdTb = true →
    let e := (s.dev.atTime (s.dev.finalTicks * 16)).deadlinePass (boundD s.dev.windowTicks)
    Completes .finalStep s (fun d => ∀ j < 24,
      if e.get Par.armState j = asRun ∧ (e.arm j).finalBeat ≠ some e.beatNo then
        let x := e.arm j
        let total := (((e.armCells j).filter (fun c => (e.cell c).inService)).map (fun c => dof (e.cell c).vhat)).foldl dadd d0
        let low := if e.get Par.armCellType j = 2 then dneg total else d0
        let u := dmax low (dmin total (dadd (dof (e.getF Par.armVref j)) x.carry))
        let ranked := if dlt u d0 then x.listN else x.listP
        let plan := e.planArm j (dlt u d0) ranked (dmin (((e.prefixes ranked d0).getLast?).getD d0) (dabs u))
        d.get Par.armNInserted j = plan.whole.length % 2 ^ 64 ∧ d.get Par.armFracCell j = (plan.frac.getD 0xFFFF) % 2 ^ 64
          ∧ d.get Par.armFracEdge j = plan.edge % 2 ^ 64 ∧ (d.arm j).finalBeat = some e.beatNo ∧ (d.arm j).prevFrac = plan.frac
      else d.arm j = e.arm j ∧ d.get Par.armNInserted j = e.get Par.armNInserted j))
  ∧ (∀ (t : Nat) (c : Fin 128) (s : State), s.dev.full = true → s.dev.clkOk cdLoop = true →
    ((((s.dev.ctx c.val).late = true ∧ (s.dev.ctx c.val).lateCycle ≤ s.dev.ctxDeadline c.val ∧ s.dev.eng.rest = [])
        ∨ ((∀ k < 128, (s.dev.ctx k).late = false) ∧ ∃ it : Item, s.dev.eng.rest = [it] ∧ it.kind = 0 ∧ it.num = c.val)) →
      s.dev.get Par.ctxState c.val = xsRun →
      Completes (.contextDeadline t c) s (fun d => (d.ctx c.val).late = false ∧ d.eng.rest = []
        ∧ d.get Par.ctxOverruns c.val = (s.dev.get Par.ctxOverruns c.val + 1) % 2 ^ 32 ∧ d.get Par.ctxLastCause c.val = ocDeadline
        ∧ d.isOn Par.evtFlag evCtxOverrun = true
        ∧ d.get Par.ctxState c.val = (if s.dev.desc false c.val 8 1 ≤ s.dev.get Par.ctxConsec c.val + 1 then xsFallback else xsRun)))
    ∧ ((s.dev.ctx c.val).late = false → s.dev.eng.rest.any (fun it => it.kind == 0 && it.num == c.val) = false →
      Completes (.contextDeadline t c) s (fun d => d.ctxs = s.dev.ctxs ∧ d.eng = s.dev.eng ∧ d.get Par.ctxState c.val = s.dev.get Par.ctxState c.val
        ∧ d.get Par.ctxOverruns c.val = s.dev.get Par.ctxOverruns c.val)))

/-! ## Events, grid functions, update -/

/-- Events (R462, R463, R465): EVENT_LOG_APPEND writes the oldest record that waits into the next place of the log with the next seq;
EVENT_RECORD_DELIVERY passes every record on; DELIVERY_SECOND starts the rate limits anew. Flags and counts of events stay. -/
def Obligations.EventRecords : Prop :=
  (∀ (t : Nat) (r : EvRec) (rest : List EvRec) (s : State), s.dev.phase = .run → s.dev.pairHalted 1 = false → s.dev.evt.fresh = [] →
      s.dev.pmode = pmRun → s.dev.evt.toLog = r :: rest →
    Completes (.eventLogAppend t) s (fun d => d.evt.toLog = rest ∧ d.evt.logPos = (s.dev.evt.logPos + 1) % 4096
      ∧ d.evt.log.get (fun _ => List.replicate 32 0xFF) s.dev.evt.logPos = r.bytes s.dev.evt.seq
      ∧ (∀ k, k ≠ s.dev.evt.logPos → d.evt.log.get (fun _ => List.replicate 32 0xFF) k = s.dev.evt.log.get (fun _ => List.replicate 32 0xFF) k)
      ∧ d.evt.seq = (if s.dev.evt.seq + 1 ≥ 4294967295 then 0 else s.dev.evt.seq + 1)
      ∧ ∀ n, d.get Par.evtCount n = s.dev.get Par.evtCount n ∧ d.get Par.evtFlag n = s.dev.get Par.evtFlag n))
  ∧ (∀ (t i : Nat) (s : State), s.dev.phase = .run → s.dev.pairHalted 1 = false → s.dev.pmode = pmRun → s.dev.evt.fresh = [] → i < 16 →
      s.dev.ringSession (80 + i) < 16 → (s.dev.sess (s.dev.ringSession (80 + i))).isOpen = true →
      (s.dev.sess (s.dev.ringSession (80 + i))).link = 0 → s.dev.ringFull (80 + i) = false → s.dev.get Par.ringState (80 + i) ≠ 2 →
      (s.dev.evt.toRings.filter (fun r => bit r.2 i)) ≠ [] → (s.dev.evt.toRings.filter (fun r => bit r.2 i)).length ≤ 127 →
    Completes (.eventRecordDelivery t) s (fun d => (d.ring (80 + i)).slots = (s.dev.ring (80 + i)).slots
      ++ [mkMsg 0x80 0 (s.dev.ringSession (80 + i)) 0 0 ((s.dev.evt.toRings.filter (fun r => bit r.2 i)).flatMap (fun r => r.1.bytes 0xFFFFFFFF))]))
  ∧ ∀ (t : Nat) (s : State), s.dev.evt.fresh = [] → s.dev.pmode = pmRun →
    Completes (.deliverySecond t) s (fun d => d.evt = { s.dev.evt with rate := [] } ∧ ∀ n, d.get Par.evtCount n = s.dev.get Par.evtCount n)

/-- The slow computations of islanding detection (R212, R216): IMPEDANCE_ESTIMATE forms the points of the oldest completed sequence, which waits for
its boundary, and drops it while the control pair is halted; SV_CYCLE_COMPARISON notes a deviation from its start on; SV_STREAM_ABSENT marks the
stream, and its deviations end. -/
def Obligations.IslandingComputations : Prop :=
  (∀ (t : Nat) (g : Fin 4) (q : IslSeq) (rest : List IslSeq) (s : State), s.dev.full = true → s.dev.clkOk cdLoop = true →
      (s.dev.isl g.val).doneSeqs = q :: rest →
    Completes (.impedanceEstimate t g) s (fun d => (d.isl g.val).doneSeqs = rest
      ∧ (d.isl g.val).ests = (s.dev.isl g.val).ests ++ (if s.dev.pairHalted 0 then [] else [s.dev.estimate g.val q])
      ∧ ∀ k < 4, k ≠ g.val → d.isl k = s.dev.isl k))
  ∧ (∀ (t ago : Nat) (g : Fin 4) (m : Fin 8) (f a fr th : F32) (s : State), s.dev.full = true → s.dev.clkOk cdLoop = true → s.dev.pairHalted 1 = false →
      (s.dev.isl g.val).freqs[ago]? = some fr → (s.dev.isl g.val).thetas[ago]? = some th →
    let old := (s.dev.isl g.val).svDev.get (fun _ => {}) m.val
    let off := flt (s.dev.getF Par.isldSvDf g.val) (fabs (fsub f fr))
      || flt (fofd (radOf (s.dev.getF Par.isldSvDtheta g.val))) (fabs (fwrap (fsub (fsub a th) (fofd (radOf (s.dev.getF Par.isldSvOffset g.val))))))
    Completes (.svCycleComparison t g m f a ago) s (fun d =>
      (d.isl g.val).svDev.get (fun _ => {}) m.val = { since := if off then some (old.since.getD (s.dev.instant t)) else none, last := s.dev.instant t }
      ∧ ((s.dev.isl g.val).rearm.isSome = true → s.dev.instant t < ((s.dev.isl g.val).rearm.getD 0) + s.dev.get Par.isldSvConfirm g.val * fineMs →
          (d.isl g.val).sv = false)
      ∧ ∀ k < 4, k ≠ g.val → d.isl k = s.dev.isl k))
  ∧ ∀ (t : Nat) (m : Fin 8) (s : State), s.dev.phase = .run →
    Completes (.svStreamAbsent t m) s (fun d => (d.sv m.val).absent = true
      ∧ (∀ g < 4, (d.isl g).svDev.get (fun _ => {}) m.val = {} ∧ ((d.isl g).sv = true → (s.dev.isl g).sv = true))
      ∧ ∀ k < 8, k ≠ m.val → d.sv k = s.dev.sv k)

/-- The update process (R420, R422, R423, R425): CHUNK_MARKED writes a verified chunk into the slot that does not run and marks it, complete with
the last; ACTIVATION_VERIFIED names the slot for the next boot or refuses; OWNERSHIP_LAPSE gives the ownership up. All of it while the service pair
runs (R26). Trials and rollback (R415, R425): AUTO_CONFIRM confirms a trial that meets its conditions, the update is IDLE again and a higher arc is
to be blown; TRIAL_WINDOW_EXPIRY ends a trial and asks for a reset; ROLLBACK_FUSES_BLOWN raises the fuse count, never lowers it, and register 7
takes the key state. -/
def Obligations.Updates : Prop :=
  ((∀ (t : Nat) (i : BitVec 16) (s : State), s.dev.pairHalted 1 = false → s.dev.lid.marking.get (fun _ => []) i.toNat ≠ [] → s.dev.ownRec.state = 1 → i.toNat < 1792 →
    let all := (List.range s.dev.ownRec.count).all (bit (setBit s.dev.lid.bitmap i.toNat true))
    Completes (.chunkMarked t i) s (fun d => (d.slot s.dev.inactiveSlot).chunk i.toNat = s.dev.lid.marking.get (fun _ => []) i.toNat
      ∧ (d.slot s.dev.inactiveSlot).made = false ∧ d.lid.bitmap = setBit s.dev.lid.bitmap i.toNat true
      ∧ d.lid.marking.get (fun _ => []) i.toNat = [] ∧ d.lid.running = s.dev.lid.running
      ∧ (all = true → s.dev.evtUp = true → d.isOn Par.evtFlag evUpdComplete = true)))
  ∧ (∀ (t f : Nat) (s : State), s.dev.phase = .run → s.dev.pairHalted 1 = false → s.dev.lid.activating = true → s.dev.activateFault = some f →
    Completes (.activationVerified t) s (fun d => d.lid.activating = false ∧ d.lid.boot = s.dev.lid.boot ∧ d.lid.resetWanted = s.dev.lid.resetWanted
      ∧ d.get Par.updRefusals 0 = (s.dev.get Par.updRefusals 0 + 1) % 2 ^ 32 ∧ d.get Par.updLastRefusal 0 = f % 2 ^ 64))
  ∧ (∀ (t : Nat) (s : State), s.dev.phase = .run → s.dev.pairHalted 1 = false → s.dev.lid.activating = true → s.dev.activateFault = none →
    Completes (.activationVerified t) s (fun d => d.lid.activating = false ∧ d.phase = .run
      ∧ d.lid.resetWanted = (s.dev.lid.resetWanted || s.dev.lid.whenStopped) ∧ d.isOn Par.evtFlag evUpdActivated = true
      ∧ (s.dev.recordsAlternate → d.bootRec.pending = s.dev.inactiveSlot ∧ d.bootRec.started = false)))
  ∧ ∀ (t : Nat) (s : State), s.dev.pairHalted 1 = false → s.dev.ownRec.state = 1 → s.dev.ownRec.owned = true → s.dev.recordsAlternate →
    Completes (.ownershipLapse t) s (fun d => d.ownRec.owned = false ∧ d.ownRec.state = 1 ∧ d.ownRec.digest = s.dev.ownRec.digest
      ∧ d.lid.bitmap = s.dev.lid.bitmap ∧ (s.dev.evtUp = true → d.isOn Par.evtFlag evUpdLapsed = true)))
  ∧ ((∀ (t : Nat) (s : State), s.dev.full = true → s.dev.pairHalted 1 = false → s.dev.isOn Par.updAutoConfirm 0 = true → s.dev.trialOpen = true → s.dev.lid.clkFailed = false →
      s.dev.lid.openSince.isSome = true →
    Completes (.autoConfirm t) s (fun d => d.lid.trial = false ∧ d.lid.bitmap = 0 ∧ d.lid.manifest = [] ∧ d.isOn Par.evtFlag evUpdConfirmed = true
      ∧ d.lid.blowTo = (if s.dev.lid.fuses < (s.dev.slot s.dev.lid.running).arc then some (s.dev.slot s.dev.lid.running).arc else s.dev.lid.blowTo)
      ∧ d.lid.fuses = s.dev.lid.fuses ∧ (s.dev.recordsAlternate → d.bootRec.active = s.dev.lid.running ∧ d.bootRec.pending = 255)))
  ∧ (∀ (t : Nat) (s : State), s.dev.phase = .run → s.dev.pairHalted 1 = false → s.dev.lid.trial = true →
    Completes (.trialWindowExpiry t) s (fun d => d.lid.trial = false ∧ d.lid.resetWanted = true ∧ d.isOn Par.evtFlag evUpdTrialFailed = true
      ∧ (s.dev.recordsAlternate → d.bootRec.failed = true ∧ d.bootRec.pending = 255)))
  ∧ ∀ (t a : Nat) (s : State), s.dev.pairHalted 1 = false → s.dev.lid.blowTo = some a →
    Completes (.rollbackFusesBlown t) s (fun d => d.lid.fuses = min 256 (max s.dev.lid.fuses a) ∧ d.lid.blowTo = none
      ∧ d.tallyCount 7 = (s.dev.tallyCount 7 + 1) % 2 ^ 32 ∧ d.tally 7 = sha384 (s.dev.tally 7 ++ sha384 d.keyState)
      ∧ (∀ r < 7, d.tally r = s.dev.tally r) ∧ (s.dev.evtUp = true → d.isOn Par.evtFlag evLidRollbackAdvance = true)))

/-- ATTEST, UPD_STATUS and UPD_CONFIRM (R413, R421, R425): the report over a nonce of 16 to 48 bytes, counted; the ownership record and bitmap; the
trial confirmed while it may be, else BAD_STATE. -/
def Obligations.AttestAndStatus : Prop :=
  (∀ (h : Hdr) (nonce : List Byte) (s : State), s.dev.served h 0x60 → 16 ≤ nonce.length → nonce.length ≤ 48 →
    Completes (.attest h nonce) s (fun d => s.dev.answered d h 0x60 stOk ((s.dev.atTime h.t).report nonce) false
      ∧ d.get Par.lidReports 0 = (s.dev.get Par.lidReports 0 + 1) % 2 ^ 32 ∧ d.lid = s.dev.lid))
  ∧ (∀ (h : Hdr) (nonce : List Byte) (s : State), s.dev.served h 0x60 → (nonce.length < 16 ∨ 48 < nonce.length) →
    Completes (.attest h nonce) s (fun d => s.dev.answered d h 0x60 stLength [] false ∧ d.get Par.lidReports 0 = s.dev.get Par.lidReports 0))
  ∧ (∀ (h : Hdr) (s : State), s.dev.served h 0x63 →
    Completes (.updStatus h) s (fun d => s.dev.answered d h 0x63 stOk (s.dev.ownRec.bytes ++ s.dev.bitmapBytes) false ∧ d.lid = s.dev.lid))
  ∧ (∀ (h : Hdr) (s : State), s.dev.served h 0x66 → s.dev.trialOpen = true → s.dev.recordsAlternate →
    Completes (.updConfirm h) s (fun d => s.dev.answered d h 0x66 stOk [] false ∧ d.lid.trial = false ∧ d.bootRec.active = s.dev.lid.running
      ∧ d.bootRec.pending = 255 ∧ d.ownRec.state = 0 ∧ d.isOn Par.evtFlag evUpdConfirmed = true))
  ∧ ∀ (h : Hdr) (s : State), s.dev.served h 0x66 → s.dev.trialOpen = false →
    Completes (.updConfirm h) s (fun d => s.dev.answered d h 0x66 stBadState [] false ∧ d.lid = s.dev.lid)

/-- UPD_CANCEL and UPD_ACTIVATE (R420, R423): the owner, or anyone where none is recorded, gives the update up, which is IDLE; a complete image of
the owner starts its activation, with an outcome to follow; a source that is not the owner is refused with NOT_OWNER. -/
def Obligations.UpdateOwnership : Prop :=
  (∀ (h : Hdr) (s : State), s.dev.served h 0x64 → s.dev.recordsAlternate → (s.dev.ownRec.state = 1 ∨ s.dev.ownRec.state = 2) →
      (s.dev.ownRec.owned = true → s.dev.ownRec.is (s.dev.srcOf h.session.val) = true) →
    Completes (.updCancel h) s (fun d => s.dev.answered d h 0x64 stOk [] false ∧ d.ownRec.state = 0 ∧ d.lid.bitmap = 0 ∧ d.lid.manifest = []
      ∧ d.lid.boot = s.dev.lid.boot))
  ∧ (∀ (h : Hdr) (s : State), s.dev.served h 0x64 → (s.dev.ownRec.state = 1 ∨ s.dev.ownRec.state = 2) → s.dev.ownRec.owned = true →
      s.dev.ownRec.is (s.dev.srcOf h.session.val) = false →
    Completes (.updCancel h) s (fun d => s.dev.answered d h 0x64 stNotOwner [] false ∧ d.lid = s.dev.lid))
  ∧ (∀ (h : Hdr) (mode : Byte) (s : State), s.dev.served h 0x65 → s.dev.recordsAlternate → s.dev.ownRec.state = 2 → mode.toNat < 2 →
      (s.dev.ownRec.owned = true → s.dev.ownRec.is (s.dev.srcOf h.session.val) = true) →
    Completes (.updActivate h mode) s (fun d => s.dev.answered d h 0x65 stOk [] true ∧ d.ownRec.state = 3 ∧ d.lid.activating = true
      ∧ d.lid.whenStopped = (mode.toNat == 1) ∧ (∃ o ∈ d.host.ops, o.session = h.session.val ∧ o.tag = h.tag.toNat ∧ o.kind = .activate)
      ∧ d.lid.boot = s.dev.lid.boot))
  ∧ ∀ (h : Hdr) (mode : Byte) (s : State), s.dev.served h 0x65 → s.dev.ownRec.owned = true → s.dev.ownRec.is (s.dev.srcOf h.session.val) = false →
    Completes (.updActivate h mode) s (fun d => s.dev.answered d h 0x65 stNotOwner [] false ∧ d.lid = s.dev.lid
      ∧ d.get Par.updRefusals 0 = (s.dev.get Par.updRefusals 0 + 1) % 2 ^ 32)

/-- UPD_MANIFEST (R419, R420): a part that does not complete the manifest is kept for the session; a manifest complete in one part and refused
leaves the records alone and is counted with its reason; one accepted, while no update is under way, is recorded with its source as owner. UPD_CHUNK
(R422): the first half of a long chunk is kept; a chunk of one half whose digest is that of the manifest is to be written and marked, and one whose
digest differs is refused with AUTH and counted; without an update under way it is refused with NOT_OWNER. -/
def Obligations.ManifestsAndChunks : Prop :=
  ((∀ (h : Hdr) (total off : BitVec 32) (data : List Byte) (s : State), s.dev.served h 0x61 → data ≠ [] → data.length ≤ 4072 →
      off.toNat + data.length ≤ total.toNat → (off.toNat ≠ 0 ∨ data.length < total.toNat) →
      (∀ k < 80, s.dev.lid.assem.get (fun _ => none) k = none) →
    Completes (.updManifest h total off data) s (fun d => s.dev.answered d h 0x61 stOk [] false
      ∧ d.lid.assem.get (fun _ => none) h.session.val = some { total := total.toNat, parts := [(off.toNat, data)] }
      ∧ d.lid.own = s.dev.lid.own ∧ d.lid.manifest = s.dev.lid.manifest))
  ∧ ∀ (h : Hdr) (total : BitVec 32) (data : List Byte) (s : State), s.dev.served h 0x61 → data ≠ [] → data.length ≤ 4072 →
      data.length = total.toNat → (∀ k < 80, s.dev.lid.assem.get (fun _ => none) k = none) → s.dev.ownRec.state = 0 → s.dev.recordsAlternate →
    Completes (.updManifest h total 0 data) s (fun d =>
      match s.dev.manifestFault data with
      | some (st, r) => s.dev.answered d h 0x61 st [] false ∧ d.lid.own = s.dev.lid.own ∧ d.lid.manifest = s.dev.lid.manifest
          ∧ d.get Par.updRefusals 0 = (s.dev.get Par.updRefusals 0 + 1) % 2 ^ 32 ∧ d.get Par.updLastRefusal 0 = r % 2 ^ 64
      | none => s.dev.answered d h 0x61 stOk [] false ∧ d.ownRec.state = 1
          ∧ d.ownRec.is (s.dev.srcOf h.session.val) = decide ((s.dev.srcOf h.session.val).link ≠ 255) ∧ d.ownRec.digest = sha384 data
          ∧ d.lid.manifest = data ∧ d.lid.bitmap = 0 ∧ d.isOn Par.evtFlag evUpdManifestAccepted = true))
  ∧ ((∀ (h : Hdr) (i : BitVec 16) (data : List Byte) (s : State), s.dev.served h 0x62 → s.dev.ownRec.state = 1 →
      s.dev.ownRec.is (s.dev.srcOf h.session.val) = true → s.dev.lid.manifest ≠ [] → i.toNat < manC s.dev.lid.manifest →
      bit s.dev.lid.bitmap i.toNat = false → s.dev.lid.marking.get (fun _ => []) i.toNat = [] →
      s.dev.lid.halves.get (fun _ => []) (2 * i.toNat + 1) = [] → data ≠ [] →
    let len := manChunkLen s.dev.lid.manifest i.toNat
    let good := sha384 data = slice s.dev.lid.manifest (0x500 + 48 * i.toNat) 48
    (2048 < len → data.length = 2048 →
      Completes (.updChunk h i 0 data) s (fun d => s.dev.answered d h 0x62 stOk [] false
        ∧ d.lid.halves.get (fun _ => []) (2 * i.toNat) = data ∧ d.lid.marking = s.dev.lid.marking))
    ∧ (data.length = len → len ≤ 2048 → good →
      Completes (.updChunk h i 0 data) s (fun d => s.dev.answered d h 0x62 stOk [] false ∧ d.lid.marking.get (fun _ => []) i.toNat = data
        ∧ d.lid.halves.get (fun _ => []) (2 * i.toNat) = [] ∧ d.lid.bitmap = s.dev.lid.bitmap))
    ∧ (data.length = len → len ≤ 2048 → ¬good →
      Completes (.updChunk h i 0 data) s (fun d => s.dev.answered d h 0x62 stAuth [] false ∧ d.lid.marking = s.dev.lid.marking
        ∧ d.get Par.updChunkRejects 0 = (s.dev.get Par.updChunkRejects 0 + 1) % 2 ^ 32)))
  ∧ ∀ (h : Hdr) (i : BitVec 16) (half : Byte) (data : List Byte) (s : State), s.dev.served h 0x62 → s.dev.ownRec.state = 0 →
    Completes (.updChunk h i half data) s (fun d => s.dev.answered d h 0x62 stNotOwner [] false ∧ d.lid = s.dev.lid))

/-- KEY_ENROL and KEY_REVOKE (R408): each is answered with its judgement; one that passes its checks writes or empties the slot it names, advances
the epoch, raises LID_KEY_CHANGE and extends register 7; one that does not changes nothing of the Lid. -/
def Obligations.KeyCommands : Prop :=
  (∀ (h : Hdr) (x : List Byte) (s : State), s.dev.served h 0x67 →
    Completes (.keyEnrol h x) s (fun d => s.dev.answered d h 0x67 (s.dev.judgeKey h.session.val true x) [] false
      ∧ if s.dev.judgeKey h.session.val true x = stOk then
          d.keySlot (byteAt x 0) = (if byteAt x 1 % 4 = 0 then (0, []) else (byteAt x 1 % 4, slice x 16 97))
          ∧ (∀ k, k ≠ byteAt x 0 → d.keySlot k = s.dev.keySlot k) ∧ d.lid.epoch = (s.dev.lid.epoch + 1) % 2 ^ 32
          ∧ d.isOn Par.evtFlag evLidKeyChange = true ∧ d.tally 7 = sha384 (s.dev.tally 7 ++ sha384 d.keyState)
        else d.lid = s.dev.lid))
  ∧ ∀ (h : Hdr) (x : List Byte) (s : State), s.dev.served h 0x68 →
    Completes (.keyRevoke h x) s (fun d => s.dev.answered d h 0x68 (s.dev.judgeKey h.session.val false x) [] false
      ∧ if s.dev.judgeKey h.session.val false x = stOk then
          d.keySlot (byteAt x 0) = (0, []) ∧ (∀ k, k ≠ byteAt x 0 → d.keySlot k = s.dev.keySlot k)
          ∧ d.lid.epoch = (s.dev.lid.epoch + 1) % 2 ^ 32
          ∧ d.isOn Par.evtFlag evLidKeyChange = true ∧ d.tally 7 = sha384 (s.dev.tally 7 ++ sha384 d.keyState)
        else d.lid = s.dev.lid)

/-! ## The host interface -/

/-- A write of one parameter (R55, R57, R382), whichever command brings it, is registered with its value for the end of the beat: it waits with its
session, tag and TS64 and no answer goes out yet. The claims of no other session stand against it. WRITE registers all its entries, BULK_WRITE and
RIM_CONFIG_RECORD their bytes. A host fire (R314) acts at its registration: a trigger in WAIT or ARMED fires with cause HOST at that instant and
holds off. -/
def Obligations.WritesRegistered : Prop :=
  ((∀ (c : Instr) (h : Hdr) (p : Par) (i : Nat) (v : W64) (s : State), hostWrite c = some (h, p, i, v) → s.dev.served h 0x20 →
      s.dev.soleClaims h.session.val →
    Completes c s (fun d => d.host.msgs = s.dev.host.msgs ++ [s.dev.registered h 0x20 stOk [{ obj := oid p.cls i, idx := p.idx, val := v, status := stOk }]]
      ∧ (d.ring (16 + h.session.val)).slots = (s.dev.ring (16 + h.session.val)).slots))
  ∧ (∀ (h : Hdr) (es : List WEntry) (s : State), s.dev.served h 0x20 → s.dev.soleClaims h.session.val → es ≠ [] → es.length ≤ 255 →
    Completes (.write h es) s (fun d => d.host.msgs = s.dev.host.msgs ++ [s.dev.registered h 0x20 stOk
        (es.map (fun e => { obj := e.obj.toNat, idx := e.idx.toNat, val := e.val, status := stOk }))]))
  ∧ (∀ (h : Hdr) (e : WEntry) (s : State), s.dev.served h 0x20 → s.dev.soleClaims h.session.val →
    Completes (.parameterWrite h e) s (fun d => d.host.msgs = s.dev.host.msgs ++ [s.dev.registered h 0x20 stOk [{ obj := e.obj.toNat, idx := e.idx.toNat, val := e.val, status := stOk }]]))
  ∧ ∀ (h : Hdr) (obj off : BitVec 32) (data : List Byte) (s : State), s.dev.served h 0x21 → s.dev.soleClaims h.session.val →
    Completes (.bulkWrite h obj off data) s (fun d => d.host.msgs = s.dev.host.msgs ++ [{ s.dev.registered h 0x21 stOk [] with bulk := some (obj.toNat, off.toNat, data) }])
    ∧ Completes (.rimConfigRecord h data) s (fun d => d.host.msgs = s.dev.host.msgs ++ [{ s.dev.registered h 0x21 stOk [] with bulk := some (0x70000000, 0, data) }] ∧ d.rim = s.dev.rim))
  ∧ (∀ (h : Hdr) (n : Fin 16) (s : State), s.dev.served h 0x20 → s.dev.soleClaims h.session.val → s.dev.evt.fresh = [] →
      s.dev.judgeStatic (oid 0x61 n.val) Par.trigFire.idx 1 = stOk →
      (s.dev.get Par.trigState n.val = tsWait ∨ s.dev.get Par.trigState n.val = tsArmed) →
    Completes (.hostFire h n 1) s (fun d => d.get Par.trigState n.val = tsHoldoff
      ∧ d.get Par.trigFires n.val = (s.dev.get Par.trigFires n.val + 1) % 2 ^ 32 ∧ d.get Par.trigLastTime n.val = s.dev.instant h.t % 2 ^ 64
      ∧ d.get Par.trigLastCause n.val = fcHost ∧ d.isOn Par.evtFlag evTrigFire = true))

/-- What the end of the beat does with registered messages (R55, R57, R382): all of them are taken; one write entry by itself that passes the checks
of every write is applied and answered with its status; one that does not changes nothing and is answered with its refusal. Grid writes are judged
together (R38) and burst requests by their port step (R236). -/
def Obligations.BoundaryTakesWrites : Prop :=
  (∀ d : Dev, d.applyWrites.host.msgs = [])
  ∧ ∀ (d : Dev) (m : Msg) (w : RegWrite), d.host.msgs = [m] → m.op = 0x20 → m.status = stOk → m.bulk = none → m.work = [w] → w.status = stOk →
      w.isGrid = false → w.isBurst = false → w.held = false →
    let e : Dev := { d with host := { d.host with msgs := [] } }
    (d.judgeStatic w.obj w.idx w.val = stOk →
      d.applyWrites = ((e.applyWrite m.session m.tag m.ts w.obj w.idx w.val).2.answerMsg
        { m with work := [{ w with status := (e.applyWrite m.session m.tag m.ts w.obj w.idx w.val).1 }] }).sessionsFreed)
    ∧ (d.judgeStatic w.obj w.idx w.val ≠ stOk →
      d.applyWrites = (e.answerMsg { m with work := [{ w with status := d.judgeStatic w.obj w.idx w.val }] }).sessionsFreed)

/-- A request whose session, opcode and tag repeat a request registered within the last 10 s is not acted on again: the stored response is sent once
more (R384). For every request of a session on PCIe, in its own command ring, nothing beside the session, its rings and link changes and nothing is
registered; the same choice is made for every session, whatever its link. Each session keeps its last 16 responses. -/
def Obligations.RepeatedRequests : Prop :=
  (∀ (c : Instr) (h : Hdr) (m : HostMsg) (x : Stored) (s : State), hostRequest c = some (h, m) →
      s.dev.phase = .run → s.dev.pairHalted 1 = false → s.dev.linkIsUp 0 = true →
      h.sealed = none → s.dev.isOn Par.linkSealRequired 0 = false → (s.dev.sess h.session.val).isOpen = true → (s.dev.sess h.session.val).link = 0 →
      s.dev.get Par.ringState h.session.val ≠ 2 → s.dev.get Par.ringState (16 + h.session.val) ≠ 2 → s.dev.slotBad h.session.val = false →
      (s.dev.ring (16 + h.session.val)).waiting = [] → s.dev.get Par.ringDepth (16 + h.session.val) < 2 ^ 32 → x.resp ≠ [] →
      s.dev.ringUsed (16 + h.session.val) + x.resp.length ≤ s.dev.get Par.ringDepth (16 + h.session.val) →
      ((s.dev.sess h.session.val).stored.filter (fun y => y.op == m.opcode && y.tag == h.tag.toNat
        && decide (s.dev.instant h.t ≤ y.ts + 10 * fineS))).getLast? = some x →
    Completes c s (fun d => s.dev.Agree (touches [0x90, 0x91] [.host]).1 (touches [0x90, 0x91] [.host]).2 d
      ∧ d.host.msgs = s.dev.host.msgs ∧ d.host.claims = s.dev.host.claims ∧ d.host.ops = s.dev.host.ops ∧ d.host.modeReq = s.dev.host.modeReq
      ∧ (d.ring (16 + h.session.val)).slots = (s.dev.ring (16 + h.session.val)).slots ++ x.resp
      ∧ (d.sess h.session.val).stored = (s.dev.sess h.session.val).stored ∧ (d.sess h.session.val).isOpen = true
      ∧ ∀ k < 80, k ≠ h.session.val → d.sess k = s.dev.sess k))
  ∧ (∀ (d : Dev) (k tag back : Nat) (shadow sealed' : Bool) (m : HostMsg) (x : Stored),
      ((d.sess k).stored.filter (fun y => y.op == m.opcode && y.tag == tag && decide (d.now ≤ y.ts + 10 * fineS))).getLast? = some x →
    d.takeMsg k tag shadow sealed' back m = (d.setSess k { d.sess k with lastMsg := d.now }).forL x.resp (fun d r => d.sendTo k r))
  ∧ ∀ (xs : List Stored) (op tag ts : Nat) (m : List Byte), (∀ y ∈ xs, y.op = op → y.tag = tag → y.ts ≠ ts) →
    (storeResp xs op tag ts m).length = min 16 (xs.length + 1)
      ∧ ∃ k, storeResp xs op tag ts m = (xs ++ [({ op := op, tag := tag, ts := ts, resp := [m] } : Stored)]).drop k

/-- Sessions (R376, R377, R396): OPEN in the ring of a free pair opens its session; CLOSE answers and ends it; HEARTBEAT only keeps it alive;
SESSION_TIMEOUT ends one that is silent with HOST_LOST, and HANDSHAKE_TIMEOUT frees the pair of a handshake. Handshakes (R400, R407): a HELLO of the
right length with a good key and credential takes the pair of its command ring on PCIe, the lowest free one on Ethernet, and waits for FINISH, any
other takes none; a FINISH whose signature verifies opens the session, and another is refused with AUTH. -/
def Obligations.SessionsAndHandshakes : Prop :=
  ((∀ (h : Hdr) (s : State), s.dev.phase = .run → s.dev.pairHalted 1 = false → s.dev.linkIsUp 0 = true → h.sealed = none →
      s.dev.isOn Par.linkSealRequired 0 = false → s.dev.sess h.session.val = {} → s.dev.get Par.ringState h.session.val ≠ 2 → s.dev.slotBad h.session.val = false →
      s.dev.ringFull (16 + h.session.val) = false → (s.dev.ring (16 + h.session.val)).waiting = [] →
    Completes (.opn h) s (fun d => (d.sess h.session.val).isOpen = true ∧ (d.sess h.session.val).link = 0
      ∧ bit (d.get Par.linkSessions 0) h.session.val = true ∧ d.get Par.ringState h.session.val = 1 ∧ d.get Par.ringState (16 + h.session.val) = 1
      ∧ s.dev.answered d h 0x01 stOk [] false ∧ ∀ k < 80, k ≠ h.session.val → d.sess k = s.dev.sess k))
  ∧ (∀ (h : Hdr) (s : State), s.dev.served h 0x02 →
    Completes (.close h) s (fun d => (d.sess h.session.val).isOpen = false ∧ (d.sess h.session.val).ending = true
      ∧ s.dev.answered d h 0x02 stOk [] false ∧ (∀ c ∈ d.host.claims, c.session = h.session.val → c.ending = true)
      ∧ ∀ k < 80, k ≠ h.session.val → d.sess k = s.dev.sess k))
  ∧ (∀ (h : Hdr) (s : State), s.dev.served h 0x03 →
    Completes (.heartbeat h) s (fun d => (d.sess h.session.val).isOpen = true ∧ (d.sess h.session.val).lastMsg = s.dev.instant h.t
      ∧ d.host.msgs = s.dev.host.msgs ∧ (d.ring (16 + h.session.val)).slots = (s.dev.ring (16 + h.session.val)).slots))
  ∧ (∀ (t : Nat) (k : Fin 80) (s : State), s.dev.phase = .run → s.dev.pmode = pmRun → (s.dev.sess k.val).isOpen = true →
    Completes (.sessionTimeout t k) s (fun d => (d.sess k.val).isOpen = false ∧ d.isOn Par.evtFlag evHostLost = true
      ∧ (∀ c ∈ d.host.claims, c.session = k.val → c.ending = true)
      ∧ ((s.dev.sess k.val).link < 3 → s.dev.get Par.linkLossCmd (s.dev.sess k.val).link ≠ 0 →
          d.host.modeReq = s.dev.host.modeReq ++ [s.dev.get Par.linkLossCmd (s.dev.sess k.val).link])
      ∧ ∀ j < 80, j ≠ k.val → d.sess j = s.dev.sess j))
  ∧ ∀ (t : Nat) (k : Fin 16) (s : State), (s.dev.sess k.val).helloAt.isSome = true → (s.dev.sess k.val).isOpen = false →
    Completes (.handshakeTimeout t k) s (fun d => d.sess k.val = {} ∧ d.get Par.ringState k.val = 0 ∧ d.get Par.ringState (16 + k.val) = 0
      ∧ ∀ j < 80, j ≠ k.val → d.sess j = s.dev.sess j))
  ∧ ((∀ (t : Nat) (link : Fin 7) (ses : Option (Fin 16)) (i : Fin 16) (tag : BitVec 32) (x : List Byte) (s : State), s.dev.phase = .run →
      s.dev.pairHalted 1 = false → s.dev.linkIsUp link.val = true → 131 ≤ x.length → (x.drop 131).length = leAt x 129 2 →
      (link.val = 0 ∧ ses = some i ∧ s.dev.sess i.val = {} ∧ s.dev.slotBad i.val = false ∨ (link.val = 1 ∨ link.val = 2) ∧ ses = none ∧ s.dev.freePair = some i.val) →
    Completes (.hello t link ses tag x) s (fun d => (∀ k < 80, k ≠ i.val → d.sess k = s.dev.sess k)
      ∧ if Config.validPoint (slice x 0 97) = true ∧ (s.dev.atTime t).credentialOk (x.drop 131) = true then
          (d.sess i.val).helloAt = some (s.dev.instant t) ∧ (d.sess i.val).isOpen = false ∧ (d.sess i.val).link = link.val
          ∧ (d.sess i.val).cred = x.drop 131 ∧ d.get Par.ringState i.val = 1
        else d.sess i.val = s.dev.sess i.val))
  ∧ ∀ (h : Hdr) (sig : List Byte) (s : State), s.dev.phase = .run → s.dev.pairHalted 1 = false → s.dev.linkIsUp 0 = true → h.sealed = none →
      s.dev.isOn Par.linkSealRequired 0 = false → (s.dev.sess h.session.val).isOpen = false → (s.dev.sess h.session.val).helloAt.isSome = true →
      (s.dev.sess h.session.val).link = 0 → (s.dev.sess h.session.val).origin = none → (s.dev.sess h.session.val).stored = [] →
      s.dev.host.msgs = [] → s.dev.slotBad h.session.val = false → s.dev.get Par.ringState h.session.val ≠ 2 → s.dev.get Par.ringState (16 + h.session.val) ≠ 2 →
      s.dev.ringFull (16 + h.session.val) = false → (s.dev.ring (16 + h.session.val)).waiting = [] → sig.length = 96 →
    let y := s.dev.sess h.session.val
    let signed := Config.ecdsaVerify ((Config.credentialKey y.cred).getD [])
      (sha384 (y.hello ++ y.ack ++ (mkMsg 0x06 h.tag.toNat h.session.val 0 0 sig).take 16)) sig
    Completes (.finish h sig) s (fun d => if signed = true then
        (d.sess h.session.val).isOpen = true ∧ (d.sess h.session.val).auth = true
        ∧ (d.sess h.session.val).helloAt = none ∧ s.dev.answered d h 0x06 stOk [] false
        ∧ (s.dev.accessKeys = [] → d.get Par.lidUnanchoredSessions 0 = (s.dev.get Par.lidUnanchoredSessions 0 + 1) % 2 ^ 32)
      else (d.sess h.session.val).isOpen = false ∧ s.dev.answered d h 0x06 stAuth [] false))

/-- Reading (R33, R381): READ answers at once with each entry's value as it is, RANGE for one the dictionary does not have; READ_IMAGE answers with
the bytes of an image. Nothing but the session, its rings and the link's counters changes. The clause on READ leaves out objects of the links and
rings themselves, whose counters the message moves. -/
def Obligations.Reads : Prop :=
  (∀ (h : Hdr) (e : BitVec 32 × BitVec 16) (s : State), s.dev.served h 0x10 → e.1.toNat / 16777216 ≠ 0x90 → e.1.toNat / 16777216 ≠ 0x91 →
    Completes (.read h [e]) s (fun d => s.dev.answered d h 0x10 stOk ((s.dev.atTime h.t).readEntry h.shadow e) false ∧ d.host.msgs = s.dev.host.msgs))
  ∧ (∀ (h : Hdr) (obj off len : BitVec 32) (s : State), s.dev.served h 0x11 →
    Completes (.readImage h obj off len) s (fun d => s.dev.answered d h 0x11 (s.dev.readImage h.shadow obj.toNat off.toNat len.toNat).1
      (s.dev.readImage h.shadow obj.toNat off.toNat len.toNat).2 false ∧ d.host.msgs = s.dev.host.msgs))
  ∧ ∀ (d : Dev) (shadow : Bool) (cls inst : Nat) (idx : BitVec 16), cls < 256 → inst < 16777216 → instances cls ≤ inst →
    d.readEntry shadow (BitVec.ofNat 32 (oid cls inst), idx) = leBytes 4 (oid cls inst) ++ leBytes 2 idx.toNat ++ leBytes 2 stRange ++ leBytes 8 0

/-- Claims and mode requests (R56, R393): CLAIM of an object that no other session holds makes it this session's at once, RELEASE marks an own claim
to end at the boundary, MODE_REQUEST is registered with its judgement. Each is answered after the end of the beat. -/
def Obligations.ClaimsAndRequests : Prop :=
  (∀ (h : Hdr) (o : BitVec 32) (s : State), s.dev.served h 0x22 → s.dev.soleClaims h.session.val → claimObjs o.toNat ≠ [] →
      s.dev.host.claims.length + (claimObjs o.toNat).length ≤ 4096 →
    Completes (.claim h [o]) s (fun d => (∀ x ∈ claimObjs o.toNat, { obj := x, session := h.session.val, ending := false } ∈ d.host.claims)
      ∧ (∀ c ∈ s.dev.host.claims, c.obj ∉ claimObjs o.toNat → c ∈ d.host.claims)
      ∧ d.host.msgs = s.dev.host.msgs ++ [s.dev.registered h 0x22 stOk [{ obj := o.toNat, idx := 0, val := 0, status := stOk }]]))
  ∧ (∀ (h : Hdr) (o : BitVec 32) (c : Claim) (s : State), s.dev.served h 0x22 → c ∈ s.dev.host.claims → c.session ≠ h.session.val →
      c.obj ∈ claimObjs o.toNat →
    Completes (.claim h [o]) s (fun d => d.host.claims = s.dev.host.claims
      ∧ ∃ m, d.host.msgs = s.dev.host.msgs ++ [m] ∧ m.work = [{ obj := o.toNat, idx := 0, val := 0, status := stBusy }]))
  ∧ (∀ (h : Hdr) (o : BitVec 32) (c : Claim) (s : State), s.dev.served h 0x23 → c ∈ s.dev.host.claims → c.session = h.session.val →
      c.ending = false → c.obj ∈ claimObjs o.toNat →
    Completes (.release h [o]) s (fun d => { c with ending := true } ∈ d.host.claims
      ∧ (∀ x ∈ d.host.claims, x.session = h.session.val → x.obj ∈ claimObjs o.toNat → x.ending = true)
      ∧ ∀ x ∈ s.dev.host.claims, x.obj ∉ claimObjs o.toNat → x ∈ d.host.claims))
  ∧ ∀ (h : Hdr) (code : BitVec 16) (s : State), s.dev.served h 0x30 →
    Completes (.modeRequest h code) s (fun d => d.host.msgs = s.dev.host.msgs ++ [{ s.dev.registered h 0x30 (s.dev.judgeMode h.session.val) [] with code := code.toNat }] ∧ d.host.modeReq = s.dev.host.modeReq)

/-- Stop commands (R394): STOP_TRIP, STOP_LEGS and the stop register trip every local leg that runs, in the beat in which they come, without regard
to claims; STOP_TRIP and the register request a converter trip as well. ABORT (R395) ends a running activation, and of a tag that names no operation
answers RANGE. -/
def Obligations.StopsAndAborts : Prop :=
  (∀ (h : Hdr) (s : State), s.dev.served h 0x40 →
    Completes (.stopTrip h) s (fun d => d.mode.tripReq = true ∧ d.mode.stopReq = true ∧ s.dev.answered d h 0x40 stOk [] false
      ∧ ∀ n < 40, d.get Par.legState n ≠ lsRun ∧ d.get Par.legState n ≠ lsHold ∧ d.pins.gateH.getLsbD n = false ∧ d.pins.gateL.getLsbD n = false))
  ∧ (∀ (h : Hdr) (s : State), s.dev.served h 0x41 →
    Completes (.stopLegs h) s (fun d => d.mode = s.dev.mode ∧ s.dev.answered d h 0x41 stOk [] false
      ∧ ∀ n < 40, d.get Par.legState n ≠ lsRun ∧ d.get Par.legState n ≠ lsHold ∧ d.pins.gateH.getLsbD n = false ∧ d.pins.gateL.getLsbD n = false))
  ∧ (∀ (t : Nat) (v : BitVec 32) (s : State), s.dev.phase = .run → s.dev.linkIsUp 0 = true →
    (v = 0x53544F50 → Completes (.stopRegisterWrite t v) s (fun d => d.mode.tripReq = true ∧ d.mode.stopReq = true
      ∧ ∀ n < 40, d.get Par.legState n ≠ lsRun ∧ d.get Par.legState n ≠ lsHold))
    ∧ (v ≠ 0x53544F50 → Completes (.stopRegisterWrite t v) s (fun d => d.mode = s.dev.mode ∧ d.legs = s.dev.legs)))
  ∧ (∀ (h : Hdr) (tag : BitVec 32) (o : Oper) (s : State), s.dev.served h 0x50 →
      s.dev.host.ops.find? (fun x => x.session == h.session.val && x.tag == tag.toNat && !x.gone) = some o → o.kind = .activate →
    Completes (.abort h tag) s (fun d => d.lid.activating = false ∧ d.lid.boot = s.dev.lid.boot))
  ∧ ∀ (h : Hdr) (tag : BitVec 32) (s : State), s.dev.served h 0x50 → s.dev.host.msgs = [] →
      s.dev.host.ops.find? (fun x => x.session == h.session.val && x.tag == tag.toNat && !x.gone) = none →
    Completes (.abort h tag) s (fun d => s.dev.answered d h 0x50
      (if s.dev.host.doneOps.contains (h.session.val, tag.toNat) then stLateAbort else stRange) [] false)

/-- Rings (R387, R388, R391, R392): a doorbell that stays within the ring moves its head, any other takes the ring to FAULT; a tail write takes
consumed slots away; INTERRUPT_COALESCE raises the vector of slots not yet signalled; HEARTBEAT_SEND puts one message into the ring of every open
session on PCIe. BAR2 (R386): a slot written lies at 4,096 bytes times its place in ring order, its seal record at 0x18_0000 and 32 bytes times it,
nothing else in BAR2 changes, and what belongs to no slot reads zero. Links (R377, R398, R404): LINK_LOSS takes the link down and ends its sessions;
LINK_UP brings it up while the NET clock is there (R48); REASSEMBLY_TIMEOUT drops the fragments of its datagram; WEAVE_TIME_REGISTER_READ latches
weave time at its low word (R385). PROXY (R403): a message for a stake that is present and has a route leaves as MGMT to it; for any other it is
answered BAD_STATE. -/
def Obligations.RingsAndLinks : Prop :=
  ((∀ (d : Dev) (n i : Nat) (m r : List Byte), n < 96 → d.get Par.ringHostAddr n = 0 → d.get Par.ringDepth n ≠ 0 →
      ((List.range 96).map (fun k => d.get Par.ringDepth k)).sum ≤ 384 →
    let used := ((List.range 96).map (fun k => d.get Par.ringDepth k)).sum
    let at' := ((List.range n).map (fun k => d.get Par.ringDepth k)).sum + i % d.get Par.ringDepth n
    let e := d.slotPut n i m r
    (∀ k < 4096, e.bar2 (4096 * at' + k) = m.getD k 0) ∧ (∀ k < 32, e.bar2 (0x180000 + 32 * at' + k) = r.getD k 0)
    ∧ (∀ a, (a < 4096 * at' ∨ 4096 * at' + 4096 ≤ a) → (a < 0x180000 + 32 * at' ∨ 0x180000 + 32 * at' + 32 ≤ a) → e.bar2 a = d.bar2 a)
    ∧ ∀ a, ((4096 * used ≤ a ∧ a < 0x180000) ∨ 0x180000 + 32 * used ≤ a) → d.bar2 a = 0)
  ∧ (∀ (t : Nat) (n : Fin 96) (head : BitVec 32) (s : State), s.dev.phase = .run → hostRing n.val = true → s.dev.get Par.ringState n.val ≠ 2 →
    let used := (head.toNat + 2 ^ 32 - s.dev.get Par.ringTail n.val) % 2 ^ 32
    let back := (head.toNat + 2 ^ 32 - s.dev.get Par.ringHead n.val) % 2 ^ 32
    (used ≤ s.dev.get Par.ringDepth n.val → back < 2 ^ 31 →
      Completes (.ringDoorbell t n head) s (fun d => d.get Par.ringHead n.val = head.toNat ∧ d.get Par.ringState n.val = s.dev.get Par.ringState n.val))
    ∧ (s.dev.get Par.ringDepth n.val < used →
      Completes (.ringDoorbell t n head) s (fun d => d.get Par.ringState n.val = 2 ∧ d.get Par.ringHead n.val = s.dev.get Par.ringHead n.val
        ∧ d.isOn Par.evtFlag evRingFault = true)))
  ∧ (∀ (t : Nat) (n : Fin 96) (tail : BitVec 32) (s : State), s.dev.phase = .run → hostRing n.val = false → s.dev.get Par.ringState n.val ≠ 2 →
    let moved := (tail.toNat + 2 ^ 32 - s.dev.get Par.ringTail n.val) % 2 ^ 32
    (moved ≤ s.dev.ringUsed n.val → (s.dev.ring n.val).waiting = [] →
      Completes (.ringTailWrite t n tail) s (fun d => d.get Par.ringTail n.val = tail.toNat
        ∧ (d.ring n.val).slots = (s.dev.ring n.val).slots.drop moved ∧ d.get Par.ringHead n.val = s.dev.get Par.ringHead n.val))
    ∧ (s.dev.ringUsed n.val < moved →
      Completes (.ringTailWrite t n tail) s (fun d => d.get Par.ringState n.val = 2 ∧ d.host = s.dev.host ∧ d.isOn Par.evtFlag evRingFault = true)))
  ∧ (∀ (t : Nat) (n : Fin 96) (s : State), s.dev.phase = .run → (s.dev.ring n.val).unsignalled.isSome = true → s.dev.get Par.ringVector n.val < 32 →
    Completes (.interruptCoalesce t n) s (fun d => (d.ring n.val).unsignalled = none ∧ (d.ring n.val).slots = (s.dev.ring n.val).slots
      ∧ d.host.msix.get (fun _ => 0) (s.dev.get Par.ringVector n.val) = s.dev.host.msix.get (fun _ => 0) (s.dev.get Par.ringVector n.val) + 1))
  ∧ ∀ (t : Nat) (k : Fin 16) (s : State), s.dev.phase = .run → s.dev.pairHalted 1 = false →
    ((s.dev.sess k.val).isOpen = true → (s.dev.sess k.val).link = 0 → s.dev.ringFull (16 + k.val) = false → (s.dev.ring (16 + k.val)).waiting = [] →
        s.dev.get Par.ringState (16 + k.val) ≠ 2 →
      Completes (.heartbeatSend t) s (fun d => (d.ring (16 + k.val)).slots.length = (s.dev.ring (16 + k.val)).slots.length + 1))
    ∧ ((s.dev.sess k.val).isOpen = false → Completes (.heartbeatSend t) s (fun d => d.ring (16 + k.val) = s.dev.ring (16 + k.val))))
  ∧ ((∀ (t : Nat) (l : Fin 3) (s : State), s.dev.phase = .run →
    Completes (.linkLoss t l) s (fun d => d.linkIsUp l.val = false
      ∧ (∀ k < 16, (s.dev.sess k).link = l.val → (l.val = 0 ∨ s.dev.redundant = false) → (d.sess k).isOpen = false)
      ∧ (∀ k < 16, l.val = 0 → (s.dev.sess k).link ≠ 0 → d.sess k = s.dev.sess k) ∧ ∀ k, 16 ≤ k → d.sess k = s.dev.sess k))
  ∧ (∀ (t : Nat) (l : Fin 3) (speed width : Byte) (s : State), s.dev.phase = .run → s.dev.pmode ≠ pmParked → s.dev.clkOk cdNet = true →
    Completes (.linkUp t l speed width) s (fun d => d.linkIsUp l.val = true
      ∧ (l.val = 0 → d.get Par.linkPcieSpeed 0 = speed.toNat ∧ d.get Par.linkPcieWidth 0 = width.toNat) ∧ d.host = s.dev.host))
  ∧ (∀ (t n : Nat) (l : Fin 3) (s : State),
    Completes (.reassemblyTimeout t l n) s (fun d => (l.val, n) ∉ d.host.fragments
      ∧ ∀ f ∈ s.dev.host.fragments, f ≠ (l.val, n) → f ∈ d.host.fragments))
  ∧ ∀ (t : Nat) (s : State), s.dev.phase = .run →
    Completes (.weaveTimeRegisterRead t) s (fun d => d.host.timeLatch = s.dev.instant t ∧ d.host.barRead = s.dev.instant t % 2 ^ 32))
  ∧ (∀ (h : Hdr) (ring : Fin 8) (stake : Byte) (inner : List Byte) (s : State), s.dev.served h 0x70 → s.dev.get Par.ringState (64 + ring.val) ≠ 2 →
      s.dev.slotBad (64 + ring.val) = false →
    ((s.dev.routeTo stake.toNat).isSome = true → s.dev.isOn Par.stakePresent stake.toNat = true → s.dev.weave.stake.isSome = true →
      Completes (.proxy h ring stake inner) s (fun d => ∃ w ∈ d.weave.out, w.kind = wkMgmt ∧ w.dest = stake.toNat ∧ w.bytes = inner))
    ∧ ((s.dev.routeTo stake.toNat).isNone = true ∨ s.dev.isOn Par.stakePresent stake.toNat = false →
      Completes (.proxy h ring stake inner) s (fun d => s.dev.answered d h 0x70 stBadState [] false)))

/-- Ethernet services (R397, R398, R402): an ARP or echo request for the port's address is answered, one for another is not; a frame of the HSR ring
goes on by the other port once; the supervision frame leaves both ports; a valid sampled-value frame of a stream is counted and ends its absence. -/
def Obligations.EthernetServices : Prop :=
  (∀ (t : Nat) (port : Fin 2) (target : BitVec 128) (data : List Byte) (s : State), s.dev.phase = .run → s.dev.linkIsUp (1 + port.val) = true →
    let v4 := s.dev.get Par.linkIpv4 (s.dev.addrLink port.val)
    (v4 ≠ 0 → target.toNat = v4 → Completes (.arpNeighbourOrEcho t port .icmp target data) s (fun d =>
      d.host.sent = s.dev.host.sent ++ [(port.val, frAnswer, data)]
      ∧ d.get Par.linkRxFrames (1 + port.val) = (s.dev.get Par.linkRxFrames (1 + port.val) + 1) % 2 ^ 64))
    ∧ (target.toNat ≠ v4 → Completes (.arpNeighbourOrEcho t port .arp target data) s (fun d => d.host.sent = s.dev.host.sent)))
  ∧ (∀ (t : Nat) (port : Fin 2) (src : BitVec 48) (seq : BitVec 16) (frame : List Byte) (s : State), s.dev.phase = .run →
      s.dev.get Par.linkRedMode 1 = 2 → s.dev.linkIsUp 1 = true → s.dev.linkIsUp 2 = true → src.toNat ≠ s.dev.get Par.linkMac 1 →
    ((∀ x ∈ s.dev.host.dups, x.1 ≠ src.toNat * 65536 + seq.toNat) →
      Completes (.hsrRingForward t port src seq frame) s (fun d => d.host.sent = s.dev.host.sent ++ [(1 - port.val, frForward, frame)]))
    ∧ ((∃ x ∈ s.dev.host.dups, x.1 = src.toNat * 65536 + seq.toNat ∧ s.dev.instant t < x.2 + 400 * fineMs) →
      Completes (.hsrRingForward t port src seq frame) s (fun d => d.host.sent = s.dev.host.sent
        ∧ d.get Par.linkDupDrops (1 + port.val) = (s.dev.get Par.linkDupDrops (1 + port.val) + 1) % 2 ^ 64)))
  ∧ (∀ (t : Nat) (s : State), s.dev.phase = .run → s.dev.redundant = true → s.dev.linkIsUp 1 = true → s.dev.linkIsUp 2 = true →
    Completes (.supervisionFrame t) s (fun d => ∃ b, d.host.sent = s.dev.host.sent ++ [(0, frSupervision, b), (1, frSupervision, b)]))
  ∧ ∀ (t : Nat) (port : Fin 2) (mac : BitVec 48) (appid : BitVec 16) (id : BitVec 32) (synch : Byte) (k : Fin 8) (s : State), s.dev.phase = .run →
      s.dev.linkIsUp (1 + port.val) = true → (synch.toNat = 1 ∨ synch.toNat = 2) → (s.dev.sv k.val).mac = mac.toNat → mac.toNat ≠ 0 →
      (s.dev.sv k.val).appid = appid.toNat → (s.dev.sv k.val).id = id.toNat →
      (∀ j < 8, j ≠ k.val → (s.dev.sv j).mac ≠ mac.toNat) →
    Completes (.svFrame t port mac appid id synch true true false) s (fun d => (d.sv k.val).absent = false
      ∧ (d.sv k.val).frames = ((s.dev.sv k.val).frames + 1) % 2 ^ 32 ∧ ∀ j < 8, j ≠ k.val → d.sv j = s.dev.sv j)

/-! ## What single writes do -/

/-- A write of 1 to reset_req causes a warm reset at the next beat boundary, and is refused with BAD_STATE unless the converter-mode kind is OFF,
PARKED, TRIPPED or LOCKOUT (R438): the write registered in the beat that ends, by itself; the refused one leaves the device as it is, and the
boundary no reset. -/
def Obligations.ResetRequests : Prop :=
  (∀ (x : Samples) (m : Msg) (w : RegWrite) (s : State), s.dev.phase = .run → s.dev.clkOk cdTb = true → s.dev.host.msgs = [m] → m.op = 0x20 →
      m.status = stOk → m.bulk = none → m.work = [w] → w.status = stOk → w.obj = oPwr → w.idx = Par.pwrResetReq.idx → w.val = 1 →
    (s.dev.stoppedKind = true →
      Completes (.beatBoundary x) s (fun d => d.phase = .warm ∧ d.pwr.cause = rsRequested))
    ∧ (s.dev.stoppedKind = false → s.dev.pwr.resetReq = false → s.dev.lid.resetWanted = false →
      Completes (.beatBoundary x) s (fun d => d.phase = .run ∧ d.pwr.resetReq = false)))
  ∧ ∀ (d : Dev) (ses tag ts : Nat), d.stoppedKind = false → d.applyWrite ses tag ts oPwr Par.pwrResetReq.idx 1 = (stBadState, d)

/-- Writes to PWR.0, UPD.0, RING.n and EVT.n (R10, R388, R427, R441, R446, R458): the power requests by the mode they ask for, retained_clear, reset
of a ring, a flag cleared unless an occurrence came in the instant of the write or after it, and raise of a user event. A row that is read only is
refused with AUTH. -/
def Obligations.ServiceWrites : Prop :=
  (∀ (d : Dev) (ses tag ts : Nat), d.up = true →
    (d.pmode = pmParked → let e := (d.applyWrite ses tag ts oPwr Par.pwrRequest.idx 1).2; e.pmode = pmWaking ∧ e.get Par.pwrWakeCause 0 = wcHost)
    ∧ (d.kind ≠ kParked → d.applyWrite ses tag ts oPwr Par.pwrRequest.idx 2 = (stBadState, d))
    ∧ (d.kind = kParked → d.pmode = pmWaking → d.applyWrite ses tag ts oPwr Par.pwrRequest.idx 2 = (stBusy, d))
    ∧ (d.kind = kParked → d.pmode = pmRun →
        d.applyWrite ses tag ts oPwr Par.pwrRequest.idx 2 = (stOk, { d with pwr := { d.pwr with parkReq := true } }))
    ∧ (d.pmode ≠ pmParked → d.applyWrite ses tag ts oPwr Par.pwrRequest.idx 3 = (stBadState, d))
    ∧ (d.pmode = pmParked → d.pwr.darkReq = false →
        d.applyWrite ses tag ts oPwr Par.pwrRequest.idx 3 = (stOk, { d with pwr := { d.pwr with darkReq := true } })))
  ∧ (∀ (d : Dev) (ses tag ts : Nat), (d.applyWrite ses tag ts 0xA1000000 Par.updRetainedClear.idx 1).2.lid = { d.lid with retained := none })
  ∧ (∀ (d : Dev) (ses tag ts : Nat) (n : Fin 96),
    let e := (d.applyWrite ses tag ts (oid 0x91 n.val) Par.ringReset.idx 1).2
    e.get Par.ringTail n.val = d.get Par.ringHead n.val ∧ e.get Par.ringHead n.val = d.get Par.ringHead n.val ∧ e.ring n.val = {}
      ∧ e.get Par.ringState n.val = (if d.get Par.ringLink n.val = 255 then 0 else 1) ∧ ∀ k, k ≠ n.val → e.ring k = d.ring k)
  ∧ (∀ (d : Dev) (ses tag ts : Nat) (n : Fin 256),
    let r := d.applyWrite ses tag ts (oid 0xC0 n.val) Par.evtFlag.idx 1
    r.1 = stOk ∧ (d.get Par.evtLastTime n.val < ts → r.2.isOn Par.evtFlag n.val = false) ∧ (ts ≤ d.get Par.evtLastTime n.val → r.2 = d)
      ∧ r.2.get Par.evtCount n.val = d.get Par.evtCount n.val)
  ∧ (∀ (d : Dev) (ses tag ts : Nat) (n : Fin 240), d.evtUp = true →
    let r := d.applyWrite ses tag ts (oid 0xC0 n.val) Par.evtRaise.idx 1
    (n.val < 224 → r = (stBadState, d))
    ∧ (224 ≤ n.val → r.1 = stOk ∧ r.2.isOn Par.evtFlag n.val = true ∧ r.2.get Par.evtCount n.val = (d.get Par.evtCount n.val + 1) % 2 ^ 32
        ∧ r.2.evt.fresh = d.evt.fresh ++ [(n.val, oid 0xC0 n.val)]))
  ∧ ∀ (d : Dev) (ses tag ts obj idx : Nat) (v : W64), (rowOf ⟨obj / 16777216, idx⟩).map PRow.acc = some .ro →
    d.applyWrite ses tag ts obj idx v = (stAuth, d)

/-- Writes to LEG.n, PORT.n and GRID.g (R189, R227, R234, R236, R238, R240, R258): clear and unlock by their conditions, a released leg or port is
OFF while the converter mode runs no legs; sample_now, soc_set, p_set, burst_abort, burst_req, whose request waits for the port step and is BUSY
there while a burst runs, and the targets of a grid, clamped to their limits. -/
def Obligations.LegAndPortWrites : Prop :=
  (∀ (d : Dev) (ses tag ts : Nat) (n : Fin 40),
    let r := d.applyWrite ses tag ts (oid 0x31 n.val) Par.legClear.idx 1
    (d.judgeLegClear n.val ≠ stOk → r = (d.judgeLegClear n.val, d))
    ∧ (d.judgeLegClear n.val = stOk → d.get Par.legState n.val = lsTripped → d.legsRun = false →
        r.1 = stOk ∧ r.2.get Par.legState n.val = lsOff ∧ r.2.get Par.legTripCause n.val = 0
          ∧ ∀ k < 40, k ≠ n.val → r.2.get Par.legState k = d.get Par.legState k))
  ∧ (∀ (d : Dev) (ses tag ts : Nat) (p : Fin 32),
    let clear := d.applyWrite ses tag ts (oid 0x30 p.val) Par.portClear.idx 1
    let unlock := d.applyWrite ses tag ts (oid 0x30 p.val) Par.portUnlock.idx 1
    (d.get Par.portState p.val = psLocked → clear = (stBadState, d))
    ∧ (d.get Par.portState p.val = psFault → d.portInputs p.val = true → clear = (stTripActive, d))
    ∧ (d.get Par.portState p.val = psLocked → d.portInputs p.val = true → unlock = (stTripActive, d))
    ∧ (d.get Par.portState p.val = psLocked → d.portInputs p.val = false → d.legsRun = true → unlock = (stBadState, d))
    ∧ (d.portInputs p.val = false → d.legsRun = false →
        (d.get Par.portState p.val = psFault → (d.port p.val).tripTick ≠ some (d.now / 16) →
          clear.1 = stOk ∧ clear.2.get Par.portState p.val = psOff ∧ ∀ n ∈ d.portLegs p.val, clear.2.get Par.legState n ≠ lsTripped)
        ∧ (d.get Par.portState p.val = psLocked →
          unlock.1 = stOk ∧ unlock.2.get Par.portState p.val = psOff ∧ ∀ n ∈ d.portLegs p.val, unlock.2.get Par.legState n ≠ lsTripped)))
  ∧ (∀ (d : Dev) (ses tag ts : Nat) (p : Fin 32) (f : F32),
    let v : W64 := f.setWidth 64
    let soc := (d.applyWrite ses tag ts (oid 0x30 p.val) Par.portSocSet.idx v).2
    let set := d.applyWrite ses tag ts (oid 0x30 p.val) Par.portPSet.idx v
    let lim := d.pSetLimits p.val
    (d.isPv p.val = false →
      (soc.port p.val).energy = dmul (dmul (dof f) (dof (d.getF Par.portECap p.val))) (dint 3600000) ∧ bit (soc.get Par.portStatus p.val) 5 = false)
    ∧ (d.isPv p.val = true → soc.port p.val = d.port p.val)
    ∧ set.2.getF Par.portPSet p.val = fclamp lim.1 lim.2 f ∧ accepted set.1 = true
    ∧ (set.1 = stClamped ↔ feq (fclamp lim.1 lim.2 f) f = false))
  ∧ (∀ (d : Dev) (ses tag ts : Nat) (p : Fin 32),
    let stop := d.applyWrite ses tag ts (oid 0x30 p.val) Par.portBurstAbort.idx 1
    (d.isPv p.val = false → d.get Par.portBurstState p.val = 0 → stop = (stLateAbort, d))
    ∧ (d.isPv p.val = true → stop = (stOk, d))
    ∧ (d.isPv p.val = false → d.get Par.portBurstState p.val ≠ 0 → (d.port p.val).burstEnds = .completed →
        stop.1 = stAborted ∧ stop.2.get Par.portBurstState p.val = 3 ∧ (stop.2.port p.val).burstEnds = .aborted)
    ∧ (d.get Par.portTopology p.val ≠ 0 → d.isPv p.val = true → d.get Par.portState p.val = psTrack → (d.port p.val).opening = false →
        (d.port p.val).due = none → ((d.applyWrite ses tag ts (oid 0x30 p.val) Par.portSampleNow.idx 1).2.port p.val).due = some d.now))
  ∧ (∀ (d : Dev) (p : Fin 32), d.isPv p.val = false → fle (d.port p.val).reqPrev 0x3F000000 = true →
    let r := d.burstReqWrite p.val f1
    (d.get Par.portTopology p.val ≠ 0 → d.full = true → r.1 = stOk ∧ r.2.1 = true ∧ (r.2.2.port p.val).reqDue = true
      ∧ (r.2.2.port p.val).reqOld = some (d.getF Par.portBurstReq p.val) ∧ r.2.2.getF Par.portBurstReq p.val = f1)
    ∧ (d.get Par.portTopology p.val = 0 ∨ d.full = false → r.1 = stBadState ∧ r.2.1 = false
      ∧ r.2.2.getF Par.portBurstReq p.val = d.getF Par.portBurstReq p.val ∧ r.2.2.port p.val = d.port p.val))
  ∧ (∀ (d : Dev) (p : Fin 32), d.get Par.portBurstState p.val ≠ 0 →
    (d.burstRequest p.val).1 = stBusy ∧ (d.burstRequest p.val).2.get Par.portBurstState p.val = d.get Par.portBurstState p.val
      ∧ (d.burstRequest p.val).2.get Par.portBurstResult p.val = 4)
  ∧ ∀ (d : Dev) (ses tag ts : Nat) (g : Fin 4) (f : F32),
    let v : W64 := f.setWidth 64
    (let r := d.applyWrite ses tag ts (oid 0x21 g.val) Par.gridPRef.idx v
     let t := fclamp (d.getF Par.gridPMin g.val) (d.getF Par.gridPMax g.val) f
     r.2.getF Par.gridPRef g.val = t ∧ accepted r.1 = true ∧ (r.1 = stClamped ↔ feq t f = false))
    ∧ (let r := d.applyWrite ses tag ts (oid 0x21 g.val) Par.gridQRef.idx v
       let t := fclamp (d.getF Par.gridQMin g.val) (d.getF Par.gridQMax g.val) f
       r.2.getF Par.gridQRef g.val = t ∧ accepted r.1 = true ∧ (r.1 = stClamped ↔ feq t f = false))

/-- Writes to SPOKE.n, CELL.s.p, ARM.j and CTX.n (R106, R109, R111, R146, R149, R153, R177): each by its condition, and what it starts. -/
def Obligations.CellAndArmWrites : Prop :=
  (∀ (d : Dev) (ses tag ts : Nat) (s : Fin 64),
    let disc := d.applyWrite ses tag ts (oid 0x10 s.val) Par.spokeDiscover.idx 1
    (d.judgeDiscover s.val ≠ stOk → disc = (d.judgeDiscover s.val, d))
    ∧ (d.judgeDiscover s.val = stOk → (d.spoke s.val).disc = none → d.ringConfigBad s.val = false →
        disc.1 = stOk ∧ (disc.2.spoke s.val).disc.isSome = true ∧ disc.2.get Par.spokeState s.val = rsDiscover)
    ∧ (d.judgeDiscover s.val = stOk → (d.spoke s.val).disc = none → d.ringConfigBad s.val = true →
        disc.1 = stOk ∧ (disc.2.spoke s.val).disc = none ∧ disc.2.get Par.spokeState s.val = rsFault)
    ∧ (d.cellsRun = false → d.applyWrite ses tag ts (oid 0x10 s.val) Par.spokeUnblock.idx 1 = (stBadState, d)))
  ∧ (∀ (d : Dev) (ses tag ts : Nat) (c : Fin 512),
    let byp := d.applyWrite ses tag ts (oid 0x11 c.val) Par.cellBypass.idx 1
    let unl := fun (v : W64) => d.applyWrite ses tag ts (oid 0x11 c.val) Par.cellClearLock.idx v
    (d.get Par.cellProtState c.val = bpNone → byp.1 = stOk ∧ byp.2.get Par.cellProtState c.val = bpPending
      ∧ (byp.2.cell c.val).bypFrom = d.beatNo + 1
      ∧ ∀ j, d.armOf c.val = some j → byp.2.get Par.armBypassed j = (d.get Par.armBypassed j + 1) % 2 ^ 16)
    ∧ (d.get Par.cellProtState c.val ≠ bpNone → byp = (stOk, d))
    ∧ (∀ v : W64, d.cellBlocked c.val = false ∨ d.get Par.cellProtState c.val = bpBypassed ∨ d.inRunArm c.val = true →
        unl v = (stBadState, d))
    ∧ (∀ v : W64, d.cellBlocked c.val = true → d.get Par.cellProtState c.val ≠ bpBypassed → d.inRunArm c.val = false →
        unl v = (stOk, d.setCell c.val { d.cell c.val with clearLock := some (v.toNat % 16) })))
  ∧ (∀ (d : Dev) (ses tag ts : Nat) (j : Fin 24),
    let r := d.applyWrite ses tag ts (oid 0x12 j.val) Par.armBlockClear.idx 1
    (d.cellsRun = true → r = (stBadState, d))
    ∧ (d.cellsRun = false → r.1 = stOk ∧ r.2.get Par.armState j.val
        = (if d.get Par.armState j.val = asBlocked then asStopped else d.get Par.armState j.val)))
  ∧ ∀ (d : Dev) (ses tag ts : Nat) (c : Fin 128),
    let r := d.applyWrite ses tag ts (oid 0x20 c.val) Par.ctxRecover.idx 1
    (d.get Par.ctxState c.val ≠ xsFallback → r = (stBadState, d))
    ∧ (d.get Par.ctxState c.val = xsFallback → r.1 = stOk ∧ (r.2.ctx c.val).recover = true ∧ r.2.get Par.ctxState c.val = xsFallback)

/-- Writes to CAP.n, TRIG.n, ADC.n, WIN.n and WEAVE.0 (R267, R279, R307, R308, R313, R314, R316, R318, R369): run starts a stream or an armed
capture and stops it; arm takes a trigger to OFF, WAIT or ARMED, a weave-wide one two beats later at every stake; calibrate; a readback while the
channel is free; flag; token_give. -/
def Obligations.CaptureAndAnalogWrites : Prop :=
  (∀ (d : Dev) (ses tag ts : Nat) (n : Fin 32),
    let on := d.applyWrite ses tag ts (oid 0x60 n.val) Par.capRun.idx 1
    let off := d.applyWrite ses tag ts (oid 0x60 n.val) Par.capRun.idx 0
    (d.judgeStart n.val ≠ stOk → on = (d.judgeStart n.val, d))
    ∧ (d.judgeStart n.val = stOk → on.1 = stOk ∧ on.2.get Par.capRun n.val = 1 ∧ on.2.get Par.capSamples n.val = 0
        ∧ on.2.get Par.capState n.val = (if d.get Par.capMode n.val = 0 then csStream else csArmed))
    ∧ (d.get Par.capState n.val = csIdle → off = (stOk, d))
    ∧ (d.get Par.capMode n.val ≠ 0 → d.get Par.capState n.val = csDeliver → off = (stLateAbort, d))
    ∧ (d.get Par.capMode n.val ≠ 0 → d.get Par.capState n.val ≠ csIdle → d.get Par.capState n.val ≠ csDeliver →
        off.1 = stAborted ∧ off.2.get Par.capState n.val = csIdle ∧ off.2.get Par.capRun n.val = 0 ∧ off.2.cap n.val = (d.cap n.val).kept))
  ∧ (∀ (d : Dev) (ses tag ts : Nat) (n : Fin 16),
    let off := d.applyWrite ses tag ts (oid 0x61 n.val) Par.trigArm.idx 0
    let on := d.applyWrite ses tag ts (oid 0x61 n.val) Par.trigArm.idx 1
    (d.isOn Par.trigWeave n.val = false → off.1 = stOk ∧ off.2.get Par.trigState n.val = tsOff
      ∧ (d.get Par.trigState n.val = tsOff → on.2.get Par.trigState n.val = (if d.get Par.trigKind n.val = 1 then tsWait else tsArmed))
      ∧ (d.get Par.trigState n.val ≠ tsOff → on.2.get Par.trigState n.val = d.get Par.trigState n.val))
    ∧ (d.isOn Par.trigWeave n.val = true → on.1 = stOk ∧ (on.2.trig n.val).armNext = some (1, d.beatNo + 1)
      ∧ on.2.get Par.trigState n.val = d.get Par.trigState n.val
      ∧ (d.weave.stake.isSome = true → ∃ w ∈ on.2.weave.out, w.kind = wkTrigArm ∧ w.dest = 0xFF)))
  ∧ (∀ (d : Dev) (ses tag ts : Nat) (n : Fin 24),
    ((d.applyWrite ses tag ts (oid 0x40 n.val) Par.adcCalibrate.idx 1).2.adc n.val).calRunning = true)
  ∧ (∀ (d : Dev) (ses tag ts : Nat) (w : Fin 64) (v : W64), v ≠ 0 →
    let r := d.applyWrite ses tag ts (oid 0x42 w.val) Par.winReadback.idx v
    (d.judgeReadback w.val ≠ stOk → r = (stBusy, d))
    ∧ (d.judgeReadback w.val = stOk → r.1 = stOk ∧ (r.2.win w.val).check.isSome = true ∧ r.2.get Par.winReadback w.val = v.toNat))
  ∧ (∀ (d : Dev) (ses tag ts : Nat) (w : Fin 64),
    let r := d.applyWrite ses tag ts (oid 0x42 w.val) Par.winFlag.idx 1
    r.1 = stOk ∧ (d.isOn Par.winTripped w.val = true → r.2 = d)
      ∧ (d.isOn Par.winTripped w.val = false → d.get Par.winTripTime w.val < ts → r.2.get Par.winFlag w.val = 0))
  ∧ ∀ (d : Dev) (ses tag ts : Nat),
    let r := d.applyWrite ses tag ts 0x80000000 Par.weaveTokenGive.idx 1
    (d.judgeTokenGive ≠ stOk → r = (d.judgeTokenGive, d)) ∧ (d.judgeTokenGive = stOk → r = (stOk, d.tokenGive))

/-! ## Frames and invariants -/

/-- What a command leaves alone: every parameter of the classes, and every other part of the device, that `instrTouch` does not list for it stays as
it was, from every state. Its table follows the classes and blocks that the rules of each command name; time, and what follows an occurrence, are
listed for all. -/
def Obligations.CommandFrames : Prop :=
  ∀ (c : Instr) (s : State), Completes c s (fun d => s.dev.Agree (instrTouch c).1 (instrTouch c).2 d)

/-- Every step keeps the copies of the boot and ownership records alternating (R416). -/
def Obligations.StepKeepsRecords : Prop :=
  ∀ s t : State, s.dev.recordsAlternate → step s = .next t → t.dev.recordsAlternate

/-- At the start of the Rim every used output is LATCHED with cause START and every input is UNDETERMINED (R324); the Rim starts at the release of
PORSTn and at each exit from DARK. So no output is energised then, and one that START holds off stays off in every command but the one that accepts
a reset. -/
def Obligations.RimStarts : Prop :=
  (∀ (t : Nat) (straps : BitVec 6) (rimStraps : BitVec 4) (s : State), s.dev.phase = .held → s.dev.pwr.island = true →
    Completes (.porstnRelease t straps rimStraps) s (fun d => d.rim.running = true ∧ d.get Par.rimInUndet 0 = 0xFFFF
      ∧ ∀ j < 4, d.outOn j = false ∧ (d.outUsed j = true → bit (d.outCauses j) (rcStart - 1) = true)))
  ∧ (∀ (t : Nat) (straps : BitVec 6) (rimStraps : BitVec 4) (s : State), s.dev.phase = .dark → s.dev.pwr.exitCause.isSome = true →
      s.dev.pwr.porst = false →
    Completes (.darkExitRelease t straps rimStraps) s (fun d => d.rim.running = true ∧ d.get Par.rimInUndet 0 = 0xFFFF
      ∧ ∀ j < 4, d.outOn j = false ∧ (d.outUsed j = true → bit (d.outCauses j) (rcStart - 1) = true)))
  ∧ ∀ (c : Instr) (s : State) (j : Nat), j < 4 → bit (s.dev.outCauses j) (rcStart - 1) = true → s.dev.outOn j = false →
    Completes c s (fun d => d.outOn j = false ∨ d.get Par.rimResetsAccepted 0 = (s.dev.get Par.rimResetsAccepted 0 + 1) % 2 ^ 32)
end

