-- ==== Sys2Proof/Laws/Tab.lean ====
section
/-! SUPPORT. Laws of sparse tables: read after write, other keys left alone, the canonical form kept. -/

namespace Sys2Proof.Machine

@[simp] theorem Tab.get_nil {α : Type} (d : Nat → α) (k : Nat) : Tab.get d [] k = d k := rfl

theorem Tab.get_ins_same {α : Type} (d : Nat → α) (t : Tab α) (k : Nat) (v : α) : (Tab.ins t k v).get d k = v := by
  induction t with
  | nil => simp [Tab.ins, Tab.get]
  | cons e t ih =>
    obtain ⟨k', v'⟩ := e
    simp only [Tab.ins]
    split
    · simp [Tab.get]
    · split
      · simp [Tab.get]
      · rename_i h
        simp [Tab.get, ih, Ne.symm h]

theorem Tab.get_ins_other {α : Type} (d : Nat → α) (t : Tab α) (k j : Nat) (v : α) (h : j ≠ k) : (Tab.ins t k v).get d j = t.get d j := by
  induction t with
  | nil => simp [Tab.ins, Tab.get, Ne.symm h]
  | cons e t ih =>
    obtain ⟨k', v'⟩ := e
    simp only [Tab.ins]
    split
    · simp [Tab.get, Ne.symm h]
    · split
      · rename_i hk
        subst hk
        simp [Tab.get, Ne.symm h]
      · simp [Tab.get, ih]

theorem Tab.get_filter_same {α : Type} (d : Nat → α) (t : Tab α) (k : Nat) :
    Tab.get d (t.filter (fun e => decide (e.1 ≠ k))) k = d k := by
  induction t with
  | nil => rfl
  | cons e t ih =>
    by_cases h : e.1 = k
    · simpa [List.filter, h] using ih
    · simp only [List.filter, ne_eq, h, not_false_eq_true, decide_true, Tab.get, ↓reduceIte]
      simpa using ih

theorem Tab.get_filter_other {α : Type} (d : Nat → α) (t : Tab α) (k j : Nat) (h : j ≠ k) :
    Tab.get d (t.filter (fun e => decide (e.1 ≠ k))) j = t.get d j := by
  induction t with
  | nil => rfl
  | cons e t ih =>
    by_cases hk : e.1 = k
    · have : e.1 ≠ j := fun hj => h (hj ▸ hk)
      simpa [List.filter, hk, Tab.get, Ne.symm h] using ih
    · simp only [List.filter, ne_eq, hk, not_false_eq_true, decide_true, Tab.get]
      split
      · rfl
      · simpa using ih

/-- Read after write. -/
@[simp] theorem Tab.get_set_same {α : Type} [DecidableEq α] (d : Nat → α) (t : Tab α) (k : Nat) (v : α) : (t.set d k v).get d k = v := by
  unfold Tab.set
  split
  · rename_i h
    rw [h, Tab.get_filter_same]
  · exact Tab.get_ins_same d t k v

/-- A write leaves every other key alone. -/
theorem Tab.get_set_other {α : Type} [DecidableEq α] (d : Nat → α) (t : Tab α) (k j : Nat) (v : α) (h : j ≠ k) : (t.set d k v).get d j = t.get d j := by
  unfold Tab.set
  split
  · exact Tab.get_filter_other d t k j h
  · exact Tab.get_ins_other d t k j v h

theorem Tab.rising_ins {α : Type} (t : Tab α) (lo k : Nat) (v : α) (h : Tab.rising lo t = true) (hk : lo ≤ k) : Tab.rising lo (t.ins k v) = true := by
  induction t generalizing lo with
  | nil => simp [Tab.ins, Tab.rising, hk]
  | cons e t ih =>
    obtain ⟨k', v'⟩ := e
    simp only [Tab.rising, Bool.and_eq_true, decide_eq_true_eq] at h
    simp only [Tab.ins]
    split
    · simp [Tab.rising, hk, h.2]; omega
    · split
      · rename_i h2
        subst h2
        simp [Tab.rising, h.2, hk]
      · simp only [Tab.rising, Bool.and_eq_true, decide_eq_true_eq]
        exact ⟨h.1, ih (k' + 1) h.2 (by omega)⟩

theorem Tab.rising_weaken {α : Type} (t : Tab α) (lo hi : Nat) (hl : lo ≤ hi) (h : Tab.rising hi t = true) : Tab.rising lo t = true := by
  cases t with
  | nil => rfl
  | cons e t =>
    simp only [Tab.rising, Bool.and_eq_true, decide_eq_true_eq] at h ⊢
    exact ⟨by omega, h.2⟩

theorem Tab.rising_filter {α : Type} (t : Tab α) (lo k : Nat) (h : Tab.rising lo t = true) :
    Tab.rising lo (t.filter (fun e => decide (e.1 ≠ k))) = true := by
  induction t generalizing lo with
  | nil => rfl
  | cons e t ih =>
    simp only [Tab.rising, Bool.and_eq_true, decide_eq_true_eq] at h
    by_cases hk : e.1 = k
    · simp only [List.filter, ne_eq, hk, not_true_eq_false, decide_false]
      exact ih lo (Tab.rising_weaken t lo (e.1 + 1) (by omega) h.2)
    · simp only [List.filter, ne_eq, hk, not_false_eq_true, decide_true, Tab.rising, Bool.and_eq_true, decide_eq_true_eq]
      exact ⟨h.1, ih (e.1 + 1) h.2⟩

theorem Tab.mem_ins {α : Type} (t : Tab α) (k : Nat) (v : α) (e : Nat × α) (h : e ∈ t.ins k v) : e = (k, v) ∨ e ∈ t := by
  induction t with
  | nil => simpa [Tab.ins] using h
  | cons e' t ih =>
    obtain ⟨k', v'⟩ := e'
    simp only [Tab.ins] at h
    split at h
    · simpa using h
    · split at h
      · rcases List.mem_cons.1 h with h | h
        · exact .inl h
        · exact .inr (List.mem_cons_of_mem _ h)
      · rcases List.mem_cons.1 h with h | h
        · exact .inr (by simp [h])
        · rcases ih h with h | h
          · exact .inl h
          · exact .inr (List.mem_cons_of_mem _ h)

/-- Every write keeps the canonical form. -/
theorem Tab.set_wf {α : Type} [DecidableEq α] (d : Nat → α) (t : Tab α) (k : Nat) (v : α) (h : t.wf d = true) : (t.set d k v).wf d = true := by
  simp only [Tab.wf, Bool.and_eq_true, List.all_eq_true, decide_eq_true_eq] at h ⊢
  unfold Tab.set
  split
  · exact ⟨Tab.rising_filter t 0 k h.1, fun e he => h.2 e (List.mem_filter.1 he).1⟩
  · rename_i hv
    refine ⟨Tab.rising_ins t 0 k v h.1 (by omega), fun e he => ?_⟩
    rcases Tab.mem_ins t k v e he with rfl | he
    · exact hv
    · exact h.2 e he

/-- Writing consecutive keys keeps the canonical form. -/
theorem Tab.setList_wf {α : Type} [DecidableEq α] (d : Nat → α) (vs : List α) (t : Tab α) (k : Nat) (h : t.wf d = true) : (t.setList d k vs).wf d = true := by
  induction vs generalizing t k with
  | nil => exact h
  | cons v vs ih => exact ih _ _ (Tab.set_wf d t k v h)

end Sys2Proof.Machine
end

