-- ==== Sys2Proof/Laws/State.lean ====
section
/-! SUPPORT. Laws of the state's plain updates: for each of them, every field it leaves alone; for each table of records, what a read
after a write gives; the object dictionary's read after write. -/

namespace Sys2Proof.Machine

/-! ## The object dictionary -/

/-- Two different parameters, both as R6 numbers them. -/
def Par.apart (p q : Par) : Bool := decide (p ≠ q) && p.small && q.small

theorem parKey_inj {p q : Par} {i j : Nat} (hp : p.small = true) (hq : q.small = true) (h : parKey p i = parKey q j) : p = q ∧ i = j := by
  obtain ⟨a, b⟩ := p
  obtain ⟨c, e⟩ := q
  simp only [Par.small, Bool.and_eq_true, decide_eq_true_eq] at hp hq
  obtain ⟨h1, h2⟩ := hp
  obtain ⟨h3, h4⟩ := hq
  have key : a = c ∧ b = e ∧ i = j := by
    unfold parKey at h
    simp only at h
    split at h <;> split at h <;> omega
  obtain ⟨rfl, rfl, rfl⟩ := key
  exact ⟨rfl, rfl⟩

/-- Two instances of one parameter have different keys. -/
theorem parKey_inst (p : Par) {i j : Nat} (hp : p.small = true) (h : j ≠ i) : parKey p j ≠ parKey p i :=
  fun hk => h (parKey_inj hp hp hk).2

@[simp] theorem Dev.raw_setRaw_same (d : Dev) (p : Par) (i : Nat) (v : W64) : (d.setRaw p i v).raw p i = v := by
  simp [Dev.raw, Dev.setRaw]

/-- Writing one parameter leaves the others. -/
theorem Dev.raw_setRaw_apart (d : Dev) {p q : Par} (i j : Nat) (v : W64) (h : Par.apart q p = true) :
    (d.setRaw p i v).raw q j = d.raw q j := by
  simp only [Par.apart, Bool.and_eq_true, decide_eq_true_eq] at h
  simp only [Dev.raw, Dev.setRaw]
  exact Tab.get_set_other _ _ _ _ _ (fun hk => h.1.1 (parKey_inj h.1.2 h.2 hk).1)

/-- Writing one instance leaves the others. -/
theorem Dev.raw_setRaw_inst (d : Dev) {p : Par} {i j : Nat} (v : W64) (hp : p.small = true) (h : j ≠ i) :
    (d.setRaw p i v).raw p j = d.raw p j := by
  simp only [Dev.raw, Dev.setRaw]
  exact Tab.get_set_other _ _ _ _ _ (parKey_inst p hp h)

@[simp] theorem Dev.get_put_same (d : Dev) (p : Par) (i v : Nat) : (d.put p i v).get p i = v % 2 ^ 64 := by
  simp [Dev.get, Dev.put]

theorem Dev.get_put_apart (d : Dev) {p q : Par} (i j v : Nat) (h : Par.apart q p = true) : (d.put p i v).get q j = d.get q j := by
  simp only [Dev.get, Dev.put, Dev.raw_setRaw_apart d i j _ h]

theorem Dev.get_put_inst (d : Dev) {p : Par} {i j : Nat} (v : Nat) (hp : p.small = true) (h : j ≠ i) : (d.put p i v).get p j = d.get p j := by
  simp only [Dev.get, Dev.put, Dev.raw_setRaw_inst d _ hp h]

theorem Dev.get_putF_apart (d : Dev) {p q : Par} (i j : Nat) (v : F32) (h : Par.apart q p = true) : (d.putF p i v).get q j = d.get q j := by
  simp only [Dev.get, Dev.putF, Dev.raw_setRaw_apart d i j _ h]

theorem Dev.getF_put_apart (d : Dev) {p q : Par} (i j v : Nat) (h : Par.apart q p = true) : (d.put p i v).getF q j = d.getF q j := by
  simp only [Dev.getF, Dev.put, Dev.raw_setRaw_apart d i j _ h]

theorem Dev.getF_putF_apart (d : Dev) {p q : Par} (i j : Nat) (v : F32) (h : Par.apart q p = true) : (d.putF p i v).getF q j = d.getF q j := by
  simp only [Dev.getF, Dev.putF, Dev.raw_setRaw_apart d i j _ h]

@[simp] theorem Dev.getF_putF_same (d : Dev) (p : Par) (i : Nat) (v : F32) : (d.putF p i v).getF p i = v := by
  simp [Dev.getF, Dev.putF]

/-! ## Tables of records -/

@[simp] theorem Dev.adc_setAdc_same (d : Dev) (n : Nat) (x : AdcRt) : (d.setAdc n x).adc n = x := by simp [Dev.setAdc, Dev.adc]
theorem Dev.adc_setAdc_other (d : Dev) (n m : Nat) (x : AdcRt) (h : m ≠ n) : (d.setAdc n x).adc m = d.adc m := by
  simp [Dev.setAdc, Dev.adc, Tab.get_set_other _ _ _ _ _ h]
@[simp] theorem Dev.sdi_setSdi_same (d : Dev) (n : Nat) (x : SdiRt) : (d.setSdi n x).sdi n = x := by simp [Dev.setSdi, Dev.sdi]
theorem Dev.sdi_setSdi_other (d : Dev) (n m : Nat) (x : SdiRt) (h : m ≠ n) : (d.setSdi n x).sdi m = d.sdi m := by
  simp [Dev.setSdi, Dev.sdi, Tab.get_set_other _ _ _ _ _ h]
@[simp] theorem Dev.win_setWin_same (d : Dev) (n : Nat) (x : WinRt) : (d.setWin n x).win n = x := by simp [Dev.setWin, Dev.win]
theorem Dev.win_setWin_other (d : Dev) (n m : Nat) (x : WinRt) (h : m ≠ n) : (d.setWin n x).win m = d.win m := by
  simp [Dev.setWin, Dev.win, Tab.get_set_other _ _ _ _ _ h]
@[simp] theorem Dev.cap_setCap_same (d : Dev) (n : Nat) (x : CapRt) : (d.setCap n x).cap n = x := by simp [Dev.setCap, Dev.cap]
theorem Dev.cap_setCap_other (d : Dev) (n m : Nat) (x : CapRt) (h : m ≠ n) : (d.setCap n x).cap m = d.cap m := by
  simp [Dev.setCap, Dev.cap, Tab.get_set_other _ _ _ _ _ h]
@[simp] theorem Dev.trig_setTrig_same (d : Dev) (n : Nat) (x : TrigRt) : (d.setTrig n x).trig n = x := by simp [Dev.setTrig, Dev.trig]
theorem Dev.trig_setTrig_other (d : Dev) (n m : Nat) (x : TrigRt) (h : m ≠ n) : (d.setTrig n x).trig m = d.trig m := by
  simp [Dev.setTrig, Dev.trig, Tab.get_set_other _ _ _ _ _ h]
@[simp] theorem Dev.spoke_setSpoke_same (d : Dev) (n : Nat) (x : SpokeRt) : (d.setSpoke n x).spoke n = x := by simp [Dev.setSpoke, Dev.spoke]
theorem Dev.spoke_setSpoke_other (d : Dev) (n m : Nat) (x : SpokeRt) (h : m ≠ n) : (d.setSpoke n x).spoke m = d.spoke m := by
  simp [Dev.setSpoke, Dev.spoke, Tab.get_set_other _ _ _ _ _ h]
@[simp] theorem Dev.grid_setGrid_same (d : Dev) (n : Nat) (x : GridRt) : (d.setGrid n x).grid n = x := by simp [Dev.setGrid, Dev.grid]
theorem Dev.grid_setGrid_other (d : Dev) (n m : Nat) (x : GridRt) (h : m ≠ n) : (d.setGrid n x).grid m = d.grid m := by
  simp [Dev.setGrid, Dev.grid, Tab.get_set_other _ _ _ _ _ h]
@[simp] theorem Dev.isl_setIsl_same (d : Dev) (n : Nat) (x : IslRt) : (d.setIsl n x).isl n = x := by simp [Dev.setIsl, Dev.isl]
theorem Dev.isl_setIsl_other (d : Dev) (n m : Nat) (x : IslRt) (h : m ≠ n) : (d.setIsl n x).isl m = d.isl m := by
  simp [Dev.setIsl, Dev.isl, Tab.get_set_other _ _ _ _ _ h]
@[simp] theorem Dev.leg_setLeg_same (d : Dev) (n : Nat) (x : LegRt) : (d.setLeg n x).leg n = x := by simp [Dev.setLeg, Dev.leg]
theorem Dev.leg_setLeg_other (d : Dev) (n m : Nat) (x : LegRt) (h : m ≠ n) : (d.setLeg n x).leg m = d.leg m := by
  simp [Dev.setLeg, Dev.leg, Tab.get_set_other _ _ _ _ _ h]
@[simp] theorem Dev.port_setPort_same (d : Dev) (n : Nat) (x : PortRt) : (d.setPort n x).port n = x := by simp [Dev.setPort, Dev.port]
theorem Dev.port_setPort_other (d : Dev) (n m : Nat) (x : PortRt) (h : m ≠ n) : (d.setPort n x).port m = d.port m := by
  simp [Dev.setPort, Dev.port, Tab.get_set_other _ _ _ _ _ h]
@[simp] theorem Dev.ctx_setCtx_same (d : Dev) (n : Nat) (x : CtxRt) : (d.setCtx n x).ctx n = x := by simp [Dev.setCtx, Dev.ctx]
theorem Dev.ctx_setCtx_other (d : Dev) (n m : Nat) (x : CtxRt) (h : m ≠ n) : (d.setCtx n x).ctx m = d.ctx m := by
  simp [Dev.setCtx, Dev.ctx, Tab.get_set_other _ _ _ _ _ h]
@[simp] theorem Dev.cell_setCell_same (d : Dev) (n : Nat) (x : CellRt) : (d.setCell n x).cell n = x := by simp [Dev.setCell, Dev.cell]
theorem Dev.cell_setCell_other (d : Dev) (n m : Nat) (x : CellRt) (h : m ≠ n) : (d.setCell n x).cell m = d.cell m := by
  simp [Dev.setCell, Dev.cell, Tab.get_set_other _ _ _ _ _ h]
@[simp] theorem Dev.arm_setArm_same (d : Dev) (n : Nat) (x : ArmRt) : (d.setArm n x).arm n = x := by simp [Dev.setArm, Dev.arm]
theorem Dev.arm_setArm_other (d : Dev) (n m : Nat) (x : ArmRt) (h : m ≠ n) : (d.setArm n x).arm m = d.arm m := by
  simp [Dev.setArm, Dev.arm, Tab.get_set_other _ _ _ _ _ h]
@[simp] theorem Dev.sess_setSess_same (d : Dev) (n : Nat) (x : Sess) : (d.setSess n x).sess n = x := by simp [Dev.setSess, Dev.sess]
theorem Dev.sess_setSess_other (d : Dev) (n m : Nat) (x : Sess) (h : m ≠ n) : (d.setSess n x).sess m = d.sess m := by
  simp [Dev.setSess, Dev.sess, Tab.get_set_other _ _ _ _ _ h]
@[simp] theorem Dev.ring_setRing_same (d : Dev) (n : Nat) (x : RingSt) : (d.setRing n x).ring n = x := by simp [Dev.setRing, Dev.ring]
theorem Dev.ring_setRing_other (d : Dev) (n m : Nat) (x : RingSt) (h : m ≠ n) : (d.setRing n x).ring m = d.ring m := by
  simp [Dev.setRing, Dev.ring, Tab.get_set_other _ _ _ _ _ h]
@[simp] theorem Dev.wport_setWport_same (d : Dev) (n : Nat) (x : WPort) : (d.setWport n x).wport n = x := by simp [Dev.setWport, Dev.wport]
theorem Dev.wport_setWport_other (d : Dev) (n m : Nat) (x : WPort) (h : m ≠ n) : (d.setWport n x).wport m = d.wport m := by
  simp [Dev.setWport, Dev.wport, Tab.get_set_other _ _ _ _ _ h]
@[simp] theorem Dev.tset_setTset_same (d : Dev) (n : Nat) (x : TblSet) : (d.setTset n x).tset n = x := by simp [Dev.setTset, Dev.tset]
theorem Dev.tset_setTset_other (d : Dev) (n m : Nat) (x : TblSet) (h : m ≠ n) : (d.setTset n x).tset m = d.tset m := by
  simp [Dev.setTset, Dev.tset, Tab.get_set_other _ _ _ _ _ h]

/-! ## Fields an update leaves alone -/

@[simp] theorem Dev.setRaw_now (d : Dev) (p : Par) (i : Nat) (v : W64) : (d.setRaw p i v).now = d.now := by unfold Dev.setRaw; rfl
@[simp] theorem Dev.setRaw_beatStart (d : Dev) (p : Par) (i : Nat) (v : W64) : (d.setRaw p i v).beatStart = d.beatStart := by unfold Dev.setRaw; rfl
@[simp] theorem Dev.setRaw_beatLen (d : Dev) (p : Par) (i : Nat) (v : W64) : (d.setRaw p i v).beatLen = d.beatLen := by unfold Dev.setRaw; rfl
@[simp] theorem Dev.setRaw_newGrid (d : Dev) (p : Par) (i : Nat) (v : W64) : (d.setRaw p i v).newGrid = d.newGrid := by unfold Dev.setRaw; rfl
@[simp] theorem Dev.setRaw_free (d : Dev) (p : Par) (i : Nat) (v : W64) : (d.setRaw p i v).free = d.free := by unfold Dev.setRaw; rfl
@[simp] theorem Dev.setRaw_phase (d : Dev) (p : Par) (i : Nat) (v : W64) : (d.setRaw p i v).phase = d.phase := by unfold Dev.setRaw; rfl
@[simp] theorem Dev.setRaw_evt (d : Dev) (p : Par) (i : Nat) (v : W64) : (d.setRaw p i v).evt = d.evt := by unfold Dev.setRaw; rfl
@[simp] theorem Dev.setRaw_host (d : Dev) (p : Par) (i : Nat) (v : W64) : (d.setRaw p i v).host = d.host := by unfold Dev.setRaw; rfl
@[simp] theorem Dev.setRaw_tsets (d : Dev) (p : Par) (i : Nat) (v : W64) : (d.setRaw p i v).tsets = d.tsets := by unfold Dev.setRaw; rfl
@[simp] theorem Dev.setRaw_commits (d : Dev) (p : Par) (i : Nat) (v : W64) : (d.setRaw p i v).commits = d.commits := by unfold Dev.setRaw; rfl
@[simp] theorem Dev.setRaw_mode (d : Dev) (p : Par) (i : Nat) (v : W64) : (d.setRaw p i v).mode = d.mode := by unfold Dev.setRaw; rfl
@[simp] theorem Dev.setRaw_legs (d : Dev) (p : Par) (i : Nat) (v : W64) : (d.setRaw p i v).legs = d.legs := by unfold Dev.setRaw; rfl
@[simp] theorem Dev.setRaw_osier (d : Dev) (p : Par) (i : Nat) (v : W64) : (d.setRaw p i v).osier = d.osier := by unfold Dev.setRaw; rfl
@[simp] theorem Dev.setRaw_ports (d : Dev) (p : Par) (i : Nat) (v : W64) : (d.setRaw p i v).ports = d.ports := by unfold Dev.setRaw; rfl
@[simp] theorem Dev.setRaw_caps (d : Dev) (p : Par) (i : Nat) (v : W64) : (d.setRaw p i v).caps = d.caps := by unfold Dev.setRaw; rfl
@[simp] theorem Dev.setRaw_trigs (d : Dev) (p : Par) (i : Nat) (v : W64) : (d.setRaw p i v).trigs = d.trigs := by unfold Dev.setRaw; rfl
@[simp] theorem Dev.setRaw_ctxs (d : Dev) (p : Par) (i : Nat) (v : W64) : (d.setRaw p i v).ctxs = d.ctxs := by unfold Dev.setRaw; rfl
@[simp] theorem Dev.setRaw_eng (d : Dev) (p : Par) (i : Nat) (v : W64) : (d.setRaw p i v).eng = d.eng := by unfold Dev.setRaw; rfl
@[simp] theorem Dev.setRaw_grids (d : Dev) (p : Par) (i : Nat) (v : W64) : (d.setRaw p i v).grids = d.grids := by unfold Dev.setRaw; rfl
@[simp] theorem Dev.setRaw_isls (d : Dev) (p : Par) (i : Nat) (v : W64) : (d.setRaw p i v).isls = d.isls := by unfold Dev.setRaw; rfl
@[simp] theorem Dev.setRaw_spokes (d : Dev) (p : Par) (i : Nat) (v : W64) : (d.setRaw p i v).spokes = d.spokes := by unfold Dev.setRaw; rfl
@[simp] theorem Dev.setRaw_cells (d : Dev) (p : Par) (i : Nat) (v : W64) : (d.setRaw p i v).cells = d.cells := by unfold Dev.setRaw; rfl
@[simp] theorem Dev.setRaw_arms (d : Dev) (p : Par) (i : Nat) (v : W64) : (d.setRaw p i v).arms = d.arms := by unfold Dev.setRaw; rfl
@[simp] theorem Dev.setRaw_adcs (d : Dev) (p : Par) (i : Nat) (v : W64) : (d.setRaw p i v).adcs = d.adcs := by unfold Dev.setRaw; rfl
@[simp] theorem Dev.setRaw_sdis (d : Dev) (p : Par) (i : Nat) (v : W64) : (d.setRaw p i v).sdis = d.sdis := by unfold Dev.setRaw; rfl
@[simp] theorem Dev.setRaw_wins (d : Dev) (p : Par) (i : Nat) (v : W64) : (d.setRaw p i v).wins = d.wins := by unfold Dev.setRaw; rfl
@[simp] theorem Dev.setRaw_sup (d : Dev) (p : Par) (i : Nat) (v : W64) : (d.setRaw p i v).sup = d.sup := by unfold Dev.setRaw; rfl
@[simp] theorem Dev.setRaw_weave (d : Dev) (p : Par) (i : Nat) (v : W64) : (d.setRaw p i v).weave = d.weave := by unfold Dev.setRaw; rfl
@[simp] theorem Dev.setRaw_rim (d : Dev) (p : Par) (i : Nat) (v : W64) : (d.setRaw p i v).rim = d.rim := by unfold Dev.setRaw; rfl
@[simp] theorem Dev.setRaw_met (d : Dev) (p : Par) (i : Nat) (v : W64) : (d.setRaw p i v).met = d.met := by unfold Dev.setRaw; rfl
@[simp] theorem Dev.setRaw_lid (d : Dev) (p : Par) (i : Nat) (v : W64) : (d.setRaw p i v).lid = d.lid := by unfold Dev.setRaw; rfl
@[simp] theorem Dev.setRaw_pwr (d : Dev) (p : Par) (i : Nat) (v : W64) : (d.setRaw p i v).pwr = d.pwr := by unfold Dev.setRaw; rfl
@[simp] theorem Dev.setRaw_pins (d : Dev) (p : Par) (i : Nat) (v : W64) : (d.setRaw p i v).pins = d.pins := by unfold Dev.setRaw; rfl
@[simp] theorem Dev.put_now (d : Dev) (p : Par) (i v : Nat) : (d.put p i v).now = d.now := Dev.setRaw_now _ _ _ _
@[simp] theorem Dev.put_beatStart (d : Dev) (p : Par) (i v : Nat) : (d.put p i v).beatStart = d.beatStart := Dev.setRaw_beatStart _ _ _ _
@[simp] theorem Dev.put_beatLen (d : Dev) (p : Par) (i v : Nat) : (d.put p i v).beatLen = d.beatLen := Dev.setRaw_beatLen _ _ _ _
@[simp] theorem Dev.put_newGrid (d : Dev) (p : Par) (i v : Nat) : (d.put p i v).newGrid = d.newGrid := Dev.setRaw_newGrid _ _ _ _
@[simp] theorem Dev.put_free (d : Dev) (p : Par) (i v : Nat) : (d.put p i v).free = d.free := Dev.setRaw_free _ _ _ _
@[simp] theorem Dev.put_phase (d : Dev) (p : Par) (i v : Nat) : (d.put p i v).phase = d.phase := Dev.setRaw_phase _ _ _ _
@[simp] theorem Dev.put_evt (d : Dev) (p : Par) (i v : Nat) : (d.put p i v).evt = d.evt := Dev.setRaw_evt _ _ _ _
@[simp] theorem Dev.put_host (d : Dev) (p : Par) (i v : Nat) : (d.put p i v).host = d.host := Dev.setRaw_host _ _ _ _
@[simp] theorem Dev.put_tsets (d : Dev) (p : Par) (i v : Nat) : (d.put p i v).tsets = d.tsets := Dev.setRaw_tsets _ _ _ _
@[simp] theorem Dev.put_commits (d : Dev) (p : Par) (i v : Nat) : (d.put p i v).commits = d.commits := Dev.setRaw_commits _ _ _ _
@[simp] theorem Dev.put_mode (d : Dev) (p : Par) (i v : Nat) : (d.put p i v).mode = d.mode := Dev.setRaw_mode _ _ _ _
@[simp] theorem Dev.put_legs (d : Dev) (p : Par) (i v : Nat) : (d.put p i v).legs = d.legs := Dev.setRaw_legs _ _ _ _
@[simp] theorem Dev.put_osier (d : Dev) (p : Par) (i v : Nat) : (d.put p i v).osier = d.osier := Dev.setRaw_osier _ _ _ _
@[simp] theorem Dev.put_ports (d : Dev) (p : Par) (i v : Nat) : (d.put p i v).ports = d.ports := Dev.setRaw_ports _ _ _ _
@[simp] theorem Dev.put_caps (d : Dev) (p : Par) (i v : Nat) : (d.put p i v).caps = d.caps := Dev.setRaw_caps _ _ _ _
@[simp] theorem Dev.put_trigs (d : Dev) (p : Par) (i v : Nat) : (d.put p i v).trigs = d.trigs := Dev.setRaw_trigs _ _ _ _
@[simp] theorem Dev.put_ctxs (d : Dev) (p : Par) (i v : Nat) : (d.put p i v).ctxs = d.ctxs := Dev.setRaw_ctxs _ _ _ _
@[simp] theorem Dev.put_eng (d : Dev) (p : Par) (i v : Nat) : (d.put p i v).eng = d.eng := Dev.setRaw_eng _ _ _ _
@[simp] theorem Dev.put_grids (d : Dev) (p : Par) (i v : Nat) : (d.put p i v).grids = d.grids := Dev.setRaw_grids _ _ _ _
@[simp] theorem Dev.put_isls (d : Dev) (p : Par) (i v : Nat) : (d.put p i v).isls = d.isls := Dev.setRaw_isls _ _ _ _
@[simp] theorem Dev.put_spokes (d : Dev) (p : Par) (i v : Nat) : (d.put p i v).spokes = d.spokes := Dev.setRaw_spokes _ _ _ _
@[simp] theorem Dev.put_cells (d : Dev) (p : Par) (i v : Nat) : (d.put p i v).cells = d.cells := Dev.setRaw_cells _ _ _ _
@[simp] theorem Dev.put_arms (d : Dev) (p : Par) (i v : Nat) : (d.put p i v).arms = d.arms := Dev.setRaw_arms _ _ _ _
@[simp] theorem Dev.put_adcs (d : Dev) (p : Par) (i v : Nat) : (d.put p i v).adcs = d.adcs := Dev.setRaw_adcs _ _ _ _
@[simp] theorem Dev.put_sdis (d : Dev) (p : Par) (i v : Nat) : (d.put p i v).sdis = d.sdis := Dev.setRaw_sdis _ _ _ _
@[simp] theorem Dev.put_wins (d : Dev) (p : Par) (i v : Nat) : (d.put p i v).wins = d.wins := Dev.setRaw_wins _ _ _ _
@[simp] theorem Dev.put_sup (d : Dev) (p : Par) (i v : Nat) : (d.put p i v).sup = d.sup := Dev.setRaw_sup _ _ _ _
@[simp] theorem Dev.put_weave (d : Dev) (p : Par) (i v : Nat) : (d.put p i v).weave = d.weave := Dev.setRaw_weave _ _ _ _
@[simp] theorem Dev.put_rim (d : Dev) (p : Par) (i v : Nat) : (d.put p i v).rim = d.rim := Dev.setRaw_rim _ _ _ _
@[simp] theorem Dev.put_met (d : Dev) (p : Par) (i v : Nat) : (d.put p i v).met = d.met := Dev.setRaw_met _ _ _ _
@[simp] theorem Dev.put_lid (d : Dev) (p : Par) (i v : Nat) : (d.put p i v).lid = d.lid := Dev.setRaw_lid _ _ _ _
@[simp] theorem Dev.put_pwr (d : Dev) (p : Par) (i v : Nat) : (d.put p i v).pwr = d.pwr := Dev.setRaw_pwr _ _ _ _
@[simp] theorem Dev.put_pins (d : Dev) (p : Par) (i v : Nat) : (d.put p i v).pins = d.pins := Dev.setRaw_pins _ _ _ _
@[simp] theorem Dev.putF_now (d : Dev) (p : Par) (i : Nat) (v : F32) : (d.putF p i v).now = d.now := Dev.setRaw_now _ _ _ _
@[simp] theorem Dev.putF_beatStart (d : Dev) (p : Par) (i : Nat) (v : F32) : (d.putF p i v).beatStart = d.beatStart := Dev.setRaw_beatStart _ _ _ _
@[simp] theorem Dev.putF_beatLen (d : Dev) (p : Par) (i : Nat) (v : F32) : (d.putF p i v).beatLen = d.beatLen := Dev.setRaw_beatLen _ _ _ _
@[simp] theorem Dev.putF_newGrid (d : Dev) (p : Par) (i : Nat) (v : F32) : (d.putF p i v).newGrid = d.newGrid := Dev.setRaw_newGrid _ _ _ _
@[simp] theorem Dev.putF_free (d : Dev) (p : Par) (i : Nat) (v : F32) : (d.putF p i v).free = d.free := Dev.setRaw_free _ _ _ _
@[simp] theorem Dev.putF_phase (d : Dev) (p : Par) (i : Nat) (v : F32) : (d.putF p i v).phase = d.phase := Dev.setRaw_phase _ _ _ _
@[simp] theorem Dev.putF_evt (d : Dev) (p : Par) (i : Nat) (v : F32) : (d.putF p i v).evt = d.evt := Dev.setRaw_evt _ _ _ _
@[simp] theorem Dev.putF_host (d : Dev) (p : Par) (i : Nat) (v : F32) : (d.putF p i v).host = d.host := Dev.setRaw_host _ _ _ _
@[simp] theorem Dev.putF_tsets (d : Dev) (p : Par) (i : Nat) (v : F32) : (d.putF p i v).tsets = d.tsets := Dev.setRaw_tsets _ _ _ _
@[simp] theorem Dev.putF_commits (d : Dev) (p : Par) (i : Nat) (v : F32) : (d.putF p i v).commits = d.commits := Dev.setRaw_commits _ _ _ _
@[simp] theorem Dev.putF_mode (d : Dev) (p : Par) (i : Nat) (v : F32) : (d.putF p i v).mode = d.mode := Dev.setRaw_mode _ _ _ _
@[simp] theorem Dev.putF_legs (d : Dev) (p : Par) (i : Nat) (v : F32) : (d.putF p i v).legs = d.legs := Dev.setRaw_legs _ _ _ _
@[simp] theorem Dev.putF_osier (d : Dev) (p : Par) (i : Nat) (v : F32) : (d.putF p i v).osier = d.osier := Dev.setRaw_osier _ _ _ _
@[simp] theorem Dev.putF_ports (d : Dev) (p : Par) (i : Nat) (v : F32) : (d.putF p i v).ports = d.ports := Dev.setRaw_ports _ _ _ _
@[simp] theorem Dev.putF_caps (d : Dev) (p : Par) (i : Nat) (v : F32) : (d.putF p i v).caps = d.caps := Dev.setRaw_caps _ _ _ _
@[simp] theorem Dev.putF_trigs (d : Dev) (p : Par) (i : Nat) (v : F32) : (d.putF p i v).trigs = d.trigs := Dev.setRaw_trigs _ _ _ _
@[simp] theorem Dev.putF_ctxs (d : Dev) (p : Par) (i : Nat) (v : F32) : (d.putF p i v).ctxs = d.ctxs := Dev.setRaw_ctxs _ _ _ _
@[simp] theorem Dev.putF_eng (d : Dev) (p : Par) (i : Nat) (v : F32) : (d.putF p i v).eng = d.eng := Dev.setRaw_eng _ _ _ _
@[simp] theorem Dev.putF_grids (d : Dev) (p : Par) (i : Nat) (v : F32) : (d.putF p i v).grids = d.grids := Dev.setRaw_grids _ _ _ _
@[simp] theorem Dev.putF_isls (d : Dev) (p : Par) (i : Nat) (v : F32) : (d.putF p i v).isls = d.isls := Dev.setRaw_isls _ _ _ _
@[simp] theorem Dev.putF_spokes (d : Dev) (p : Par) (i : Nat) (v : F32) : (d.putF p i v).spokes = d.spokes := Dev.setRaw_spokes _ _ _ _
@[simp] theorem Dev.putF_cells (d : Dev) (p : Par) (i : Nat) (v : F32) : (d.putF p i v).cells = d.cells := Dev.setRaw_cells _ _ _ _
@[simp] theorem Dev.putF_arms (d : Dev) (p : Par) (i : Nat) (v : F32) : (d.putF p i v).arms = d.arms := Dev.setRaw_arms _ _ _ _
@[simp] theorem Dev.putF_adcs (d : Dev) (p : Par) (i : Nat) (v : F32) : (d.putF p i v).adcs = d.adcs := Dev.setRaw_adcs _ _ _ _
@[simp] theorem Dev.putF_sdis (d : Dev) (p : Par) (i : Nat) (v : F32) : (d.putF p i v).sdis = d.sdis := Dev.setRaw_sdis _ _ _ _
@[simp] theorem Dev.putF_wins (d : Dev) (p : Par) (i : Nat) (v : F32) : (d.putF p i v).wins = d.wins := Dev.setRaw_wins _ _ _ _
@[simp] theorem Dev.putF_sup (d : Dev) (p : Par) (i : Nat) (v : F32) : (d.putF p i v).sup = d.sup := Dev.setRaw_sup _ _ _ _
@[simp] theorem Dev.putF_weave (d : Dev) (p : Par) (i : Nat) (v : F32) : (d.putF p i v).weave = d.weave := Dev.setRaw_weave _ _ _ _
@[simp] theorem Dev.putF_rim (d : Dev) (p : Par) (i : Nat) (v : F32) : (d.putF p i v).rim = d.rim := Dev.setRaw_rim _ _ _ _
@[simp] theorem Dev.putF_met (d : Dev) (p : Par) (i : Nat) (v : F32) : (d.putF p i v).met = d.met := Dev.setRaw_met _ _ _ _
@[simp] theorem Dev.putF_lid (d : Dev) (p : Par) (i : Nat) (v : F32) : (d.putF p i v).lid = d.lid := Dev.setRaw_lid _ _ _ _
@[simp] theorem Dev.putF_pwr (d : Dev) (p : Par) (i : Nat) (v : F32) : (d.putF p i v).pwr = d.pwr := Dev.setRaw_pwr _ _ _ _
@[simp] theorem Dev.putF_pins (d : Dev) (p : Par) (i : Nat) (v : F32) : (d.putF p i v).pins = d.pins := Dev.setRaw_pins _ _ _ _
@[simp] theorem Dev.putI_now (d : Dev) (p : Par) (i : Nat) (v : Int) : (d.putI p i v).now = d.now := Dev.setRaw_now _ _ _ _
@[simp] theorem Dev.putI_beatStart (d : Dev) (p : Par) (i : Nat) (v : Int) : (d.putI p i v).beatStart = d.beatStart := Dev.setRaw_beatStart _ _ _ _
@[simp] theorem Dev.putI_beatLen (d : Dev) (p : Par) (i : Nat) (v : Int) : (d.putI p i v).beatLen = d.beatLen := Dev.setRaw_beatLen _ _ _ _
@[simp] theorem Dev.putI_newGrid (d : Dev) (p : Par) (i : Nat) (v : Int) : (d.putI p i v).newGrid = d.newGrid := Dev.setRaw_newGrid _ _ _ _
@[simp] theorem Dev.putI_free (d : Dev) (p : Par) (i : Nat) (v : Int) : (d.putI p i v).free = d.free := Dev.setRaw_free _ _ _ _
@[simp] theorem Dev.putI_phase (d : Dev) (p : Par) (i : Nat) (v : Int) : (d.putI p i v).phase = d.phase := Dev.setRaw_phase _ _ _ _
@[simp] theorem Dev.putI_evt (d : Dev) (p : Par) (i : Nat) (v : Int) : (d.putI p i v).evt = d.evt := Dev.setRaw_evt _ _ _ _
@[simp] theorem Dev.putI_host (d : Dev) (p : Par) (i : Nat) (v : Int) : (d.putI p i v).host = d.host := Dev.setRaw_host _ _ _ _
@[simp] theorem Dev.putI_tsets (d : Dev) (p : Par) (i : Nat) (v : Int) : (d.putI p i v).tsets = d.tsets := Dev.setRaw_tsets _ _ _ _
@[simp] theorem Dev.putI_commits (d : Dev) (p : Par) (i : Nat) (v : Int) : (d.putI p i v).commits = d.commits := Dev.setRaw_commits _ _ _ _
@[simp] theorem Dev.putI_mode (d : Dev) (p : Par) (i : Nat) (v : Int) : (d.putI p i v).mode = d.mode := Dev.setRaw_mode _ _ _ _
@[simp] theorem Dev.putI_legs (d : Dev) (p : Par) (i : Nat) (v : Int) : (d.putI p i v).legs = d.legs := Dev.setRaw_legs _ _ _ _
@[simp] theorem Dev.putI_osier (d : Dev) (p : Par) (i : Nat) (v : Int) : (d.putI p i v).osier = d.osier := Dev.setRaw_osier _ _ _ _
@[simp] theorem Dev.putI_ports (d : Dev) (p : Par) (i : Nat) (v : Int) : (d.putI p i v).ports = d.ports := Dev.setRaw_ports _ _ _ _
@[simp] theorem Dev.putI_caps (d : Dev) (p : Par) (i : Nat) (v : Int) : (d.putI p i v).caps = d.caps := Dev.setRaw_caps _ _ _ _
@[simp] theorem Dev.putI_trigs (d : Dev) (p : Par) (i : Nat) (v : Int) : (d.putI p i v).trigs = d.trigs := Dev.setRaw_trigs _ _ _ _
@[simp] theorem Dev.putI_ctxs (d : Dev) (p : Par) (i : Nat) (v : Int) : (d.putI p i v).ctxs = d.ctxs := Dev.setRaw_ctxs _ _ _ _
@[simp] theorem Dev.putI_eng (d : Dev) (p : Par) (i : Nat) (v : Int) : (d.putI p i v).eng = d.eng := Dev.setRaw_eng _ _ _ _
@[simp] theorem Dev.putI_grids (d : Dev) (p : Par) (i : Nat) (v : Int) : (d.putI p i v).grids = d.grids := Dev.setRaw_grids _ _ _ _
@[simp] theorem Dev.putI_isls (d : Dev) (p : Par) (i : Nat) (v : Int) : (d.putI p i v).isls = d.isls := Dev.setRaw_isls _ _ _ _
@[simp] theorem Dev.putI_spokes (d : Dev) (p : Par) (i : Nat) (v : Int) : (d.putI p i v).spokes = d.spokes := Dev.setRaw_spokes _ _ _ _
@[simp] theorem Dev.putI_cells (d : Dev) (p : Par) (i : Nat) (v : Int) : (d.putI p i v).cells = d.cells := Dev.setRaw_cells _ _ _ _
@[simp] theorem Dev.putI_arms (d : Dev) (p : Par) (i : Nat) (v : Int) : (d.putI p i v).arms = d.arms := Dev.setRaw_arms _ _ _ _
@[simp] theorem Dev.putI_adcs (d : Dev) (p : Par) (i : Nat) (v : Int) : (d.putI p i v).adcs = d.adcs := Dev.setRaw_adcs _ _ _ _
@[simp] theorem Dev.putI_sdis (d : Dev) (p : Par) (i : Nat) (v : Int) : (d.putI p i v).sdis = d.sdis := Dev.setRaw_sdis _ _ _ _
@[simp] theorem Dev.putI_wins (d : Dev) (p : Par) (i : Nat) (v : Int) : (d.putI p i v).wins = d.wins := Dev.setRaw_wins _ _ _ _
@[simp] theorem Dev.putI_sup (d : Dev) (p : Par) (i : Nat) (v : Int) : (d.putI p i v).sup = d.sup := Dev.setRaw_sup _ _ _ _
@[simp] theorem Dev.putI_weave (d : Dev) (p : Par) (i : Nat) (v : Int) : (d.putI p i v).weave = d.weave := Dev.setRaw_weave _ _ _ _
@[simp] theorem Dev.putI_rim (d : Dev) (p : Par) (i : Nat) (v : Int) : (d.putI p i v).rim = d.rim := Dev.setRaw_rim _ _ _ _
@[simp] theorem Dev.putI_met (d : Dev) (p : Par) (i : Nat) (v : Int) : (d.putI p i v).met = d.met := Dev.setRaw_met _ _ _ _
@[simp] theorem Dev.putI_lid (d : Dev) (p : Par) (i : Nat) (v : Int) : (d.putI p i v).lid = d.lid := Dev.setRaw_lid _ _ _ _
@[simp] theorem Dev.putI_pwr (d : Dev) (p : Par) (i : Nat) (v : Int) : (d.putI p i v).pwr = d.pwr := Dev.setRaw_pwr _ _ _ _
@[simp] theorem Dev.putI_pins (d : Dev) (p : Par) (i : Nat) (v : Int) : (d.putI p i v).pins = d.pins := Dev.setRaw_pins _ _ _ _
@[simp] theorem Dev.inc_now (d : Dev) (w : Nat) (p : Par) (i n : Nat) : (d.inc w p i n).now = d.now := Dev.setRaw_now _ _ _ _
@[simp] theorem Dev.inc_beatStart (d : Dev) (w : Nat) (p : Par) (i n : Nat) : (d.inc w p i n).beatStart = d.beatStart := Dev.setRaw_beatStart _ _ _ _
@[simp] theorem Dev.inc_beatLen (d : Dev) (w : Nat) (p : Par) (i n : Nat) : (d.inc w p i n).beatLen = d.beatLen := Dev.setRaw_beatLen _ _ _ _
@[simp] theorem Dev.inc_newGrid (d : Dev) (w : Nat) (p : Par) (i n : Nat) : (d.inc w p i n).newGrid = d.newGrid := Dev.setRaw_newGrid _ _ _ _
@[simp] theorem Dev.inc_free (d : Dev) (w : Nat) (p : Par) (i n : Nat) : (d.inc w p i n).free = d.free := Dev.setRaw_free _ _ _ _
@[simp] theorem Dev.inc_phase (d : Dev) (w : Nat) (p : Par) (i n : Nat) : (d.inc w p i n).phase = d.phase := Dev.setRaw_phase _ _ _ _
@[simp] theorem Dev.inc_evt (d : Dev) (w : Nat) (p : Par) (i n : Nat) : (d.inc w p i n).evt = d.evt := Dev.setRaw_evt _ _ _ _
@[simp] theorem Dev.inc_host (d : Dev) (w : Nat) (p : Par) (i n : Nat) : (d.inc w p i n).host = d.host := Dev.setRaw_host _ _ _ _
@[simp] theorem Dev.inc_tsets (d : Dev) (w : Nat) (p : Par) (i n : Nat) : (d.inc w p i n).tsets = d.tsets := Dev.setRaw_tsets _ _ _ _
@[simp] theorem Dev.inc_commits (d : Dev) (w : Nat) (p : Par) (i n : Nat) : (d.inc w p i n).commits = d.commits := Dev.setRaw_commits _ _ _ _
@[simp] theorem Dev.inc_mode (d : Dev) (w : Nat) (p : Par) (i n : Nat) : (d.inc w p i n).mode = d.mode := Dev.setRaw_mode _ _ _ _
@[simp] theorem Dev.inc_legs (d : Dev) (w : Nat) (p : Par) (i n : Nat) : (d.inc w p i n).legs = d.legs := Dev.setRaw_legs _ _ _ _
@[simp] theorem Dev.inc_osier (d : Dev) (w : Nat) (p : Par) (i n : Nat) : (d.inc w p i n).osier = d.osier := Dev.setRaw_osier _ _ _ _
@[simp] theorem Dev.inc_ports (d : Dev) (w : Nat) (p : Par) (i n : Nat) : (d.inc w p i n).ports = d.ports := Dev.setRaw_ports _ _ _ _
@[simp] theorem Dev.inc_caps (d : Dev) (w : Nat) (p : Par) (i n : Nat) : (d.inc w p i n).caps = d.caps := Dev.setRaw_caps _ _ _ _
@[simp] theorem Dev.inc_trigs (d : Dev) (w : Nat) (p : Par) (i n : Nat) : (d.inc w p i n).trigs = d.trigs := Dev.setRaw_trigs _ _ _ _
@[simp] theorem Dev.inc_ctxs (d : Dev) (w : Nat) (p : Par) (i n : Nat) : (d.inc w p i n).ctxs = d.ctxs := Dev.setRaw_ctxs _ _ _ _
@[simp] theorem Dev.inc_eng (d : Dev) (w : Nat) (p : Par) (i n : Nat) : (d.inc w p i n).eng = d.eng := Dev.setRaw_eng _ _ _ _
@[simp] theorem Dev.inc_grids (d : Dev) (w : Nat) (p : Par) (i n : Nat) : (d.inc w p i n).grids = d.grids := Dev.setRaw_grids _ _ _ _
@[simp] theorem Dev.inc_isls (d : Dev) (w : Nat) (p : Par) (i n : Nat) : (d.inc w p i n).isls = d.isls := Dev.setRaw_isls _ _ _ _
@[simp] theorem Dev.inc_spokes (d : Dev) (w : Nat) (p : Par) (i n : Nat) : (d.inc w p i n).spokes = d.spokes := Dev.setRaw_spokes _ _ _ _
@[simp] theorem Dev.inc_cells (d : Dev) (w : Nat) (p : Par) (i n : Nat) : (d.inc w p i n).cells = d.cells := Dev.setRaw_cells _ _ _ _
@[simp] theorem Dev.inc_arms (d : Dev) (w : Nat) (p : Par) (i n : Nat) : (d.inc w p i n).arms = d.arms := Dev.setRaw_arms _ _ _ _
@[simp] theorem Dev.inc_adcs (d : Dev) (w : Nat) (p : Par) (i n : Nat) : (d.inc w p i n).adcs = d.adcs := Dev.setRaw_adcs _ _ _ _
@[simp] theorem Dev.inc_sdis (d : Dev) (w : Nat) (p : Par) (i n : Nat) : (d.inc w p i n).sdis = d.sdis := Dev.setRaw_sdis _ _ _ _
@[simp] theorem Dev.inc_wins (d : Dev) (w : Nat) (p : Par) (i n : Nat) : (d.inc w p i n).wins = d.wins := Dev.setRaw_wins _ _ _ _
@[simp] theorem Dev.inc_sup (d : Dev) (w : Nat) (p : Par) (i n : Nat) : (d.inc w p i n).sup = d.sup := Dev.setRaw_sup _ _ _ _
@[simp] theorem Dev.inc_weave (d : Dev) (w : Nat) (p : Par) (i n : Nat) : (d.inc w p i n).weave = d.weave := Dev.setRaw_weave _ _ _ _
@[simp] theorem Dev.inc_rim (d : Dev) (w : Nat) (p : Par) (i n : Nat) : (d.inc w p i n).rim = d.rim := Dev.setRaw_rim _ _ _ _
@[simp] theorem Dev.inc_met (d : Dev) (w : Nat) (p : Par) (i n : Nat) : (d.inc w p i n).met = d.met := Dev.setRaw_met _ _ _ _
@[simp] theorem Dev.inc_lid (d : Dev) (w : Nat) (p : Par) (i n : Nat) : (d.inc w p i n).lid = d.lid := Dev.setRaw_lid _ _ _ _
@[simp] theorem Dev.inc_pwr (d : Dev) (w : Nat) (p : Par) (i n : Nat) : (d.inc w p i n).pwr = d.pwr := Dev.setRaw_pwr _ _ _ _
@[simp] theorem Dev.inc_pins (d : Dev) (w : Nat) (p : Par) (i n : Nat) : (d.inc w p i n).pins = d.pins := Dev.setRaw_pins _ _ _ _
@[simp] theorem Dev.incSat_now (d : Dev) (w : Nat) (p : Par) (i n : Nat) : (d.incSat w p i n).now = d.now := Dev.setRaw_now _ _ _ _
@[simp] theorem Dev.incSat_beatStart (d : Dev) (w : Nat) (p : Par) (i n : Nat) : (d.incSat w p i n).beatStart = d.beatStart := Dev.setRaw_beatStart _ _ _ _
@[simp] theorem Dev.incSat_beatLen (d : Dev) (w : Nat) (p : Par) (i n : Nat) : (d.incSat w p i n).beatLen = d.beatLen := Dev.setRaw_beatLen _ _ _ _
@[simp] theorem Dev.incSat_newGrid (d : Dev) (w : Nat) (p : Par) (i n : Nat) : (d.incSat w p i n).newGrid = d.newGrid := Dev.setRaw_newGrid _ _ _ _
@[simp] theorem Dev.incSat_free (d : Dev) (w : Nat) (p : Par) (i n : Nat) : (d.incSat w p i n).free = d.free := Dev.setRaw_free _ _ _ _
@[simp] theorem Dev.incSat_phase (d : Dev) (w : Nat) (p : Par) (i n : Nat) : (d.incSat w p i n).phase = d.phase := Dev.setRaw_phase _ _ _ _
@[simp] theorem Dev.incSat_evt (d : Dev) (w : Nat) (p : Par) (i n : Nat) : (d.incSat w p i n).evt = d.evt := Dev.setRaw_evt _ _ _ _
@[simp] theorem Dev.incSat_host (d : Dev) (w : Nat) (p : Par) (i n : Nat) : (d.incSat w p i n).host = d.host := Dev.setRaw_host _ _ _ _
@[simp] theorem Dev.incSat_tsets (d : Dev) (w : Nat) (p : Par) (i n : Nat) : (d.incSat w p i n).tsets = d.tsets := Dev.setRaw_tsets _ _ _ _
@[simp] theorem Dev.incSat_commits (d : Dev) (w : Nat) (p : Par) (i n : Nat) : (d.incSat w p i n).commits = d.commits := Dev.setRaw_commits _ _ _ _
@[simp] theorem Dev.incSat_mode (d : Dev) (w : Nat) (p : Par) (i n : Nat) : (d.incSat w p i n).mode = d.mode := Dev.setRaw_mode _ _ _ _
@[simp] theorem Dev.incSat_legs (d : Dev) (w : Nat) (p : Par) (i n : Nat) : (d.incSat w p i n).legs = d.legs := Dev.setRaw_legs _ _ _ _
@[simp] theorem Dev.incSat_osier (d : Dev) (w : Nat) (p : Par) (i n : Nat) : (d.incSat w p i n).osier = d.osier := Dev.setRaw_osier _ _ _ _
@[simp] theorem Dev.incSat_ports (d : Dev) (w : Nat) (p : Par) (i n : Nat) : (d.incSat w p i n).ports = d.ports := Dev.setRaw_ports _ _ _ _
@[simp] theorem Dev.incSat_caps (d : Dev) (w : Nat) (p : Par) (i n : Nat) : (d.incSat w p i n).caps = d.caps := Dev.setRaw_caps _ _ _ _
@[simp] theorem Dev.incSat_trigs (d : Dev) (w : Nat) (p : Par) (i n : Nat) : (d.incSat w p i n).trigs = d.trigs := Dev.setRaw_trigs _ _ _ _
@[simp] theorem Dev.incSat_ctxs (d : Dev) (w : Nat) (p : Par) (i n : Nat) : (d.incSat w p i n).ctxs = d.ctxs := Dev.setRaw_ctxs _ _ _ _
@[simp] theorem Dev.incSat_eng (d : Dev) (w : Nat) (p : Par) (i n : Nat) : (d.incSat w p i n).eng = d.eng := Dev.setRaw_eng _ _ _ _
@[simp] theorem Dev.incSat_grids (d : Dev) (w : Nat) (p : Par) (i n : Nat) : (d.incSat w p i n).grids = d.grids := Dev.setRaw_grids _ _ _ _
@[simp] theorem Dev.incSat_isls (d : Dev) (w : Nat) (p : Par) (i n : Nat) : (d.incSat w p i n).isls = d.isls := Dev.setRaw_isls _ _ _ _
@[simp] theorem Dev.incSat_spokes (d : Dev) (w : Nat) (p : Par) (i n : Nat) : (d.incSat w p i n).spokes = d.spokes := Dev.setRaw_spokes _ _ _ _
@[simp] theorem Dev.incSat_cells (d : Dev) (w : Nat) (p : Par) (i n : Nat) : (d.incSat w p i n).cells = d.cells := Dev.setRaw_cells _ _ _ _
@[simp] theorem Dev.incSat_arms (d : Dev) (w : Nat) (p : Par) (i n : Nat) : (d.incSat w p i n).arms = d.arms := Dev.setRaw_arms _ _ _ _
@[simp] theorem Dev.incSat_adcs (d : Dev) (w : Nat) (p : Par) (i n : Nat) : (d.incSat w p i n).adcs = d.adcs := Dev.setRaw_adcs _ _ _ _
@[simp] theorem Dev.incSat_sdis (d : Dev) (w : Nat) (p : Par) (i n : Nat) : (d.incSat w p i n).sdis = d.sdis := Dev.setRaw_sdis _ _ _ _
@[simp] theorem Dev.incSat_wins (d : Dev) (w : Nat) (p : Par) (i n : Nat) : (d.incSat w p i n).wins = d.wins := Dev.setRaw_wins _ _ _ _
@[simp] theorem Dev.incSat_sup (d : Dev) (w : Nat) (p : Par) (i n : Nat) : (d.incSat w p i n).sup = d.sup := Dev.setRaw_sup _ _ _ _
@[simp] theorem Dev.incSat_weave (d : Dev) (w : Nat) (p : Par) (i n : Nat) : (d.incSat w p i n).weave = d.weave := Dev.setRaw_weave _ _ _ _
@[simp] theorem Dev.incSat_rim (d : Dev) (w : Nat) (p : Par) (i n : Nat) : (d.incSat w p i n).rim = d.rim := Dev.setRaw_rim _ _ _ _
@[simp] theorem Dev.incSat_met (d : Dev) (w : Nat) (p : Par) (i n : Nat) : (d.incSat w p i n).met = d.met := Dev.setRaw_met _ _ _ _
@[simp] theorem Dev.incSat_lid (d : Dev) (w : Nat) (p : Par) (i n : Nat) : (d.incSat w p i n).lid = d.lid := Dev.setRaw_lid _ _ _ _
@[simp] theorem Dev.incSat_pwr (d : Dev) (w : Nat) (p : Par) (i n : Nat) : (d.incSat w p i n).pwr = d.pwr := Dev.setRaw_pwr _ _ _ _
@[simp] theorem Dev.incSat_pins (d : Dev) (w : Nat) (p : Par) (i n : Nat) : (d.incSat w p i n).pins = d.pins := Dev.setRaw_pins _ _ _ _
@[simp] theorem Dev.putBit_now (d : Dev) (p : Par) (i b : Nat) (v : Bool) : (d.putBit p i b v).now = d.now := Dev.setRaw_now _ _ _ _
@[simp] theorem Dev.putBit_beatStart (d : Dev) (p : Par) (i b : Nat) (v : Bool) : (d.putBit p i b v).beatStart = d.beatStart := Dev.setRaw_beatStart _ _ _ _
@[simp] theorem Dev.putBit_beatLen (d : Dev) (p : Par) (i b : Nat) (v : Bool) : (d.putBit p i b v).beatLen = d.beatLen := Dev.setRaw_beatLen _ _ _ _
@[simp] theorem Dev.putBit_newGrid (d : Dev) (p : Par) (i b : Nat) (v : Bool) : (d.putBit p i b v).newGrid = d.newGrid := Dev.setRaw_newGrid _ _ _ _
@[simp] theorem Dev.putBit_free (d : Dev) (p : Par) (i b : Nat) (v : Bool) : (d.putBit p i b v).free = d.free := Dev.setRaw_free _ _ _ _
@[simp] theorem Dev.putBit_phase (d : Dev) (p : Par) (i b : Nat) (v : Bool) : (d.putBit p i b v).phase = d.phase := Dev.setRaw_phase _ _ _ _
@[simp] theorem Dev.putBit_evt (d : Dev) (p : Par) (i b : Nat) (v : Bool) : (d.putBit p i b v).evt = d.evt := Dev.setRaw_evt _ _ _ _
@[simp] theorem Dev.putBit_host (d : Dev) (p : Par) (i b : Nat) (v : Bool) : (d.putBit p i b v).host = d.host := Dev.setRaw_host _ _ _ _
@[simp] theorem Dev.putBit_tsets (d : Dev) (p : Par) (i b : Nat) (v : Bool) : (d.putBit p i b v).tsets = d.tsets := Dev.setRaw_tsets _ _ _ _
@[simp] theorem Dev.putBit_commits (d : Dev) (p : Par) (i b : Nat) (v : Bool) : (d.putBit p i b v).commits = d.commits := Dev.setRaw_commits _ _ _ _
@[simp] theorem Dev.putBit_mode (d : Dev) (p : Par) (i b : Nat) (v : Bool) : (d.putBit p i b v).mode = d.mode := Dev.setRaw_mode _ _ _ _
@[simp] theorem Dev.putBit_legs (d : Dev) (p : Par) (i b : Nat) (v : Bool) : (d.putBit p i b v).legs = d.legs := Dev.setRaw_legs _ _ _ _
@[simp] theorem Dev.putBit_osier (d : Dev) (p : Par) (i b : Nat) (v : Bool) : (d.putBit p i b v).osier = d.osier := Dev.setRaw_osier _ _ _ _
@[simp] theorem Dev.putBit_ports (d : Dev) (p : Par) (i b : Nat) (v : Bool) : (d.putBit p i b v).ports = d.ports := Dev.setRaw_ports _ _ _ _
@[simp] theorem Dev.putBit_caps (d : Dev) (p : Par) (i b : Nat) (v : Bool) : (d.putBit p i b v).caps = d.caps := Dev.setRaw_caps _ _ _ _
@[simp] theorem Dev.putBit_trigs (d : Dev) (p : Par) (i b : Nat) (v : Bool) : (d.putBit p i b v).trigs = d.trigs := Dev.setRaw_trigs _ _ _ _
@[simp] theorem Dev.putBit_ctxs (d : Dev) (p : Par) (i b : Nat) (v : Bool) : (d.putBit p i b v).ctxs = d.ctxs := Dev.setRaw_ctxs _ _ _ _
@[simp] theorem Dev.putBit_eng (d : Dev) (p : Par) (i b : Nat) (v : Bool) : (d.putBit p i b v).eng = d.eng := Dev.setRaw_eng _ _ _ _
@[simp] theorem Dev.putBit_grids (d : Dev) (p : Par) (i b : Nat) (v : Bool) : (d.putBit p i b v).grids = d.grids := Dev.setRaw_grids _ _ _ _
@[simp] theorem Dev.putBit_isls (d : Dev) (p : Par) (i b : Nat) (v : Bool) : (d.putBit p i b v).isls = d.isls := Dev.setRaw_isls _ _ _ _
@[simp] theorem Dev.putBit_spokes (d : Dev) (p : Par) (i b : Nat) (v : Bool) : (d.putBit p i b v).spokes = d.spokes := Dev.setRaw_spokes _ _ _ _
@[simp] theorem Dev.putBit_cells (d : Dev) (p : Par) (i b : Nat) (v : Bool) : (d.putBit p i b v).cells = d.cells := Dev.setRaw_cells _ _ _ _
@[simp] theorem Dev.putBit_arms (d : Dev) (p : Par) (i b : Nat) (v : Bool) : (d.putBit p i b v).arms = d.arms := Dev.setRaw_arms _ _ _ _
@[simp] theorem Dev.putBit_adcs (d : Dev) (p : Par) (i b : Nat) (v : Bool) : (d.putBit p i b v).adcs = d.adcs := Dev.setRaw_adcs _ _ _ _
@[simp] theorem Dev.putBit_sdis (d : Dev) (p : Par) (i b : Nat) (v : Bool) : (d.putBit p i b v).sdis = d.sdis := Dev.setRaw_sdis _ _ _ _
@[simp] theorem Dev.putBit_wins (d : Dev) (p : Par) (i b : Nat) (v : Bool) : (d.putBit p i b v).wins = d.wins := Dev.setRaw_wins _ _ _ _
@[simp] theorem Dev.putBit_sup (d : Dev) (p : Par) (i b : Nat) (v : Bool) : (d.putBit p i b v).sup = d.sup := Dev.setRaw_sup _ _ _ _
@[simp] theorem Dev.putBit_weave (d : Dev) (p : Par) (i b : Nat) (v : Bool) : (d.putBit p i b v).weave = d.weave := Dev.setRaw_weave _ _ _ _
@[simp] theorem Dev.putBit_rim (d : Dev) (p : Par) (i b : Nat) (v : Bool) : (d.putBit p i b v).rim = d.rim := Dev.setRaw_rim _ _ _ _
@[simp] theorem Dev.putBit_met (d : Dev) (p : Par) (i b : Nat) (v : Bool) : (d.putBit p i b v).met = d.met := Dev.setRaw_met _ _ _ _
@[simp] theorem Dev.putBit_lid (d : Dev) (p : Par) (i b : Nat) (v : Bool) : (d.putBit p i b v).lid = d.lid := Dev.setRaw_lid _ _ _ _
@[simp] theorem Dev.putBit_pwr (d : Dev) (p : Par) (i b : Nat) (v : Bool) : (d.putBit p i b v).pwr = d.pwr := Dev.setRaw_pwr _ _ _ _
@[simp] theorem Dev.putBit_pins (d : Dev) (p : Par) (i b : Nat) (v : Bool) : (d.putBit p i b v).pins = d.pins := Dev.setRaw_pins _ _ _ _
@[simp] theorem Dev.setAdc_now (d : Dev) (n : Nat) (x : AdcRt) : (d.setAdc n x).now = d.now := by unfold Dev.setAdc; rfl
@[simp] theorem Dev.setAdc_beatStart (d : Dev) (n : Nat) (x : AdcRt) : (d.setAdc n x).beatStart = d.beatStart := by unfold Dev.setAdc; rfl
@[simp] theorem Dev.setAdc_beatLen (d : Dev) (n : Nat) (x : AdcRt) : (d.setAdc n x).beatLen = d.beatLen := by unfold Dev.setAdc; rfl
@[simp] theorem Dev.setAdc_newGrid (d : Dev) (n : Nat) (x : AdcRt) : (d.setAdc n x).newGrid = d.newGrid := by unfold Dev.setAdc; rfl
@[simp] theorem Dev.setAdc_par (d : Dev) (n : Nat) (x : AdcRt) : (d.setAdc n x).par = d.par := by unfold Dev.setAdc; rfl
@[simp] theorem Dev.setAdc_free (d : Dev) (n : Nat) (x : AdcRt) : (d.setAdc n x).free = d.free := by unfold Dev.setAdc; rfl
@[simp] theorem Dev.setAdc_phase (d : Dev) (n : Nat) (x : AdcRt) : (d.setAdc n x).phase = d.phase := by unfold Dev.setAdc; rfl
@[simp] theorem Dev.setAdc_evt (d : Dev) (n : Nat) (x : AdcRt) : (d.setAdc n x).evt = d.evt := by unfold Dev.setAdc; rfl
@[simp] theorem Dev.setAdc_host (d : Dev) (n : Nat) (x : AdcRt) : (d.setAdc n x).host = d.host := by unfold Dev.setAdc; rfl
@[simp] theorem Dev.setAdc_tsets (d : Dev) (n : Nat) (x : AdcRt) : (d.setAdc n x).tsets = d.tsets := by unfold Dev.setAdc; rfl
@[simp] theorem Dev.setAdc_commits (d : Dev) (n : Nat) (x : AdcRt) : (d.setAdc n x).commits = d.commits := by unfold Dev.setAdc; rfl
@[simp] theorem Dev.setAdc_mode (d : Dev) (n : Nat) (x : AdcRt) : (d.setAdc n x).mode = d.mode := by unfold Dev.setAdc; rfl
@[simp] theorem Dev.setAdc_legs (d : Dev) (n : Nat) (x : AdcRt) : (d.setAdc n x).legs = d.legs := by unfold Dev.setAdc; rfl
@[simp] theorem Dev.setAdc_osier (d : Dev) (n : Nat) (x : AdcRt) : (d.setAdc n x).osier = d.osier := by unfold Dev.setAdc; rfl
@[simp] theorem Dev.setAdc_ports (d : Dev) (n : Nat) (x : AdcRt) : (d.setAdc n x).ports = d.ports := by unfold Dev.setAdc; rfl
@[simp] theorem Dev.setAdc_caps (d : Dev) (n : Nat) (x : AdcRt) : (d.setAdc n x).caps = d.caps := by unfold Dev.setAdc; rfl
@[simp] theorem Dev.setAdc_trigs (d : Dev) (n : Nat) (x : AdcRt) : (d.setAdc n x).trigs = d.trigs := by unfold Dev.setAdc; rfl
@[simp] theorem Dev.setAdc_ctxs (d : Dev) (n : Nat) (x : AdcRt) : (d.setAdc n x).ctxs = d.ctxs := by unfold Dev.setAdc; rfl
@[simp] theorem Dev.setAdc_eng (d : Dev) (n : Nat) (x : AdcRt) : (d.setAdc n x).eng = d.eng := by unfold Dev.setAdc; rfl
@[simp] theorem Dev.setAdc_grids (d : Dev) (n : Nat) (x : AdcRt) : (d.setAdc n x).grids = d.grids := by unfold Dev.setAdc; rfl
@[simp] theorem Dev.setAdc_isls (d : Dev) (n : Nat) (x : AdcRt) : (d.setAdc n x).isls = d.isls := by unfold Dev.setAdc; rfl
@[simp] theorem Dev.setAdc_spokes (d : Dev) (n : Nat) (x : AdcRt) : (d.setAdc n x).spokes = d.spokes := by unfold Dev.setAdc; rfl
@[simp] theorem Dev.setAdc_cells (d : Dev) (n : Nat) (x : AdcRt) : (d.setAdc n x).cells = d.cells := by unfold Dev.setAdc; rfl
@[simp] theorem Dev.setAdc_arms (d : Dev) (n : Nat) (x : AdcRt) : (d.setAdc n x).arms = d.arms := by unfold Dev.setAdc; rfl
@[simp] theorem Dev.setAdc_sdis (d : Dev) (n : Nat) (x : AdcRt) : (d.setAdc n x).sdis = d.sdis := by unfold Dev.setAdc; rfl
@[simp] theorem Dev.setAdc_wins (d : Dev) (n : Nat) (x : AdcRt) : (d.setAdc n x).wins = d.wins := by unfold Dev.setAdc; rfl
@[simp] theorem Dev.setAdc_sup (d : Dev) (n : Nat) (x : AdcRt) : (d.setAdc n x).sup = d.sup := by unfold Dev.setAdc; rfl
@[simp] theorem Dev.setAdc_weave (d : Dev) (n : Nat) (x : AdcRt) : (d.setAdc n x).weave = d.weave := by unfold Dev.setAdc; rfl
@[simp] theorem Dev.setAdc_rim (d : Dev) (n : Nat) (x : AdcRt) : (d.setAdc n x).rim = d.rim := by unfold Dev.setAdc; rfl
@[simp] theorem Dev.setAdc_met (d : Dev) (n : Nat) (x : AdcRt) : (d.setAdc n x).met = d.met := by unfold Dev.setAdc; rfl
@[simp] theorem Dev.setAdc_lid (d : Dev) (n : Nat) (x : AdcRt) : (d.setAdc n x).lid = d.lid := by unfold Dev.setAdc; rfl
@[simp] theorem Dev.setAdc_pwr (d : Dev) (n : Nat) (x : AdcRt) : (d.setAdc n x).pwr = d.pwr := by unfold Dev.setAdc; rfl
@[simp] theorem Dev.setAdc_pins (d : Dev) (n : Nat) (x : AdcRt) : (d.setAdc n x).pins = d.pins := by unfold Dev.setAdc; rfl
@[simp] theorem Dev.setAdc_raw (d : Dev) (n : Nat) (x : AdcRt) (q : Par) (j : Nat) : (d.setAdc n x).raw q j = d.raw q j := by unfold Dev.setAdc; rfl
@[simp] theorem Dev.setAdc_get (d : Dev) (n : Nat) (x : AdcRt) (q : Par) (j : Nat) : (d.setAdc n x).get q j = d.get q j := by unfold Dev.setAdc; rfl
@[simp] theorem Dev.setSdi_now (d : Dev) (n : Nat) (x : SdiRt) : (d.setSdi n x).now = d.now := by unfold Dev.setSdi; rfl
@[simp] theorem Dev.setSdi_beatStart (d : Dev) (n : Nat) (x : SdiRt) : (d.setSdi n x).beatStart = d.beatStart := by unfold Dev.setSdi; rfl
@[simp] theorem Dev.setSdi_beatLen (d : Dev) (n : Nat) (x : SdiRt) : (d.setSdi n x).beatLen = d.beatLen := by unfold Dev.setSdi; rfl
@[simp] theorem Dev.setSdi_newGrid (d : Dev) (n : Nat) (x : SdiRt) : (d.setSdi n x).newGrid = d.newGrid := by unfold Dev.setSdi; rfl
@[simp] theorem Dev.setSdi_par (d : Dev) (n : Nat) (x : SdiRt) : (d.setSdi n x).par = d.par := by unfold Dev.setSdi; rfl
@[simp] theorem Dev.setSdi_free (d : Dev) (n : Nat) (x : SdiRt) : (d.setSdi n x).free = d.free := by unfold Dev.setSdi; rfl
@[simp] theorem Dev.setSdi_phase (d : Dev) (n : Nat) (x : SdiRt) : (d.setSdi n x).phase = d.phase := by unfold Dev.setSdi; rfl
@[simp] theorem Dev.setSdi_evt (d : Dev) (n : Nat) (x : SdiRt) : (d.setSdi n x).evt = d.evt := by unfold Dev.setSdi; rfl
@[simp] theorem Dev.setSdi_host (d : Dev) (n : Nat) (x : SdiRt) : (d.setSdi n x).host = d.host := by unfold Dev.setSdi; rfl
@[simp] theorem Dev.setSdi_tsets (d : Dev) (n : Nat) (x : SdiRt) : (d.setSdi n x).tsets = d.tsets := by unfold Dev.setSdi; rfl
@[simp] theorem Dev.setSdi_commits (d : Dev) (n : Nat) (x : SdiRt) : (d.setSdi n x).commits = d.commits := by unfold Dev.setSdi; rfl
@[simp] theorem Dev.setSdi_mode (d : Dev) (n : Nat) (x : SdiRt) : (d.setSdi n x).mode = d.mode := by unfold Dev.setSdi; rfl
@[simp] theorem Dev.setSdi_legs (d : Dev) (n : Nat) (x : SdiRt) : (d.setSdi n x).legs = d.legs := by unfold Dev.setSdi; rfl
@[simp] theorem Dev.setSdi_osier (d : Dev) (n : Nat) (x : SdiRt) : (d.setSdi n x).osier = d.osier := by unfold Dev.setSdi; rfl
@[simp] theorem Dev.setSdi_ports (d : Dev) (n : Nat) (x : SdiRt) : (d.setSdi n x).ports = d.ports := by unfold Dev.setSdi; rfl
@[simp] theorem Dev.setSdi_caps (d : Dev) (n : Nat) (x : SdiRt) : (d.setSdi n x).caps = d.caps := by unfold Dev.setSdi; rfl
@[simp] theorem Dev.setSdi_trigs (d : Dev) (n : Nat) (x : SdiRt) : (d.setSdi n x).trigs = d.trigs := by unfold Dev.setSdi; rfl
@[simp] theorem Dev.setSdi_ctxs (d : Dev) (n : Nat) (x : SdiRt) : (d.setSdi n x).ctxs = d.ctxs := by unfold Dev.setSdi; rfl
@[simp] theorem Dev.setSdi_eng (d : Dev) (n : Nat) (x : SdiRt) : (d.setSdi n x).eng = d.eng := by unfold Dev.setSdi; rfl
@[simp] theorem Dev.setSdi_grids (d : Dev) (n : Nat) (x : SdiRt) : (d.setSdi n x).grids = d.grids := by unfold Dev.setSdi; rfl
@[simp] theorem Dev.setSdi_isls (d : Dev) (n : Nat) (x : SdiRt) : (d.setSdi n x).isls = d.isls := by unfold Dev.setSdi; rfl
@[simp] theorem Dev.setSdi_spokes (d : Dev) (n : Nat) (x : SdiRt) : (d.setSdi n x).spokes = d.spokes := by unfold Dev.setSdi; rfl
@[simp] theorem Dev.setSdi_cells (d : Dev) (n : Nat) (x : SdiRt) : (d.setSdi n x).cells = d.cells := by unfold Dev.setSdi; rfl
@[simp] theorem Dev.setSdi_arms (d : Dev) (n : Nat) (x : SdiRt) : (d.setSdi n x).arms = d.arms := by unfold Dev.setSdi; rfl
@[simp] theorem Dev.setSdi_adcs (d : Dev) (n : Nat) (x : SdiRt) : (d.setSdi n x).adcs = d.adcs := by unfold Dev.setSdi; rfl
@[simp] theorem Dev.setSdi_wins (d : Dev) (n : Nat) (x : SdiRt) : (d.setSdi n x).wins = d.wins := by unfold Dev.setSdi; rfl
@[simp] theorem Dev.setSdi_sup (d : Dev) (n : Nat) (x : SdiRt) : (d.setSdi n x).sup = d.sup := by unfold Dev.setSdi; rfl
@[simp] theorem Dev.setSdi_weave (d : Dev) (n : Nat) (x : SdiRt) : (d.setSdi n x).weave = d.weave := by unfold Dev.setSdi; rfl
@[simp] theorem Dev.setSdi_rim (d : Dev) (n : Nat) (x : SdiRt) : (d.setSdi n x).rim = d.rim := by unfold Dev.setSdi; rfl
@[simp] theorem Dev.setSdi_met (d : Dev) (n : Nat) (x : SdiRt) : (d.setSdi n x).met = d.met := by unfold Dev.setSdi; rfl
@[simp] theorem Dev.setSdi_lid (d : Dev) (n : Nat) (x : SdiRt) : (d.setSdi n x).lid = d.lid := by unfold Dev.setSdi; rfl
@[simp] theorem Dev.setSdi_pwr (d : Dev) (n : Nat) (x : SdiRt) : (d.setSdi n x).pwr = d.pwr := by unfold Dev.setSdi; rfl
@[simp] theorem Dev.setSdi_pins (d : Dev) (n : Nat) (x : SdiRt) : (d.setSdi n x).pins = d.pins := by unfold Dev.setSdi; rfl
@[simp] theorem Dev.setSdi_raw (d : Dev) (n : Nat) (x : SdiRt) (q : Par) (j : Nat) : (d.setSdi n x).raw q j = d.raw q j := by unfold Dev.setSdi; rfl
@[simp] theorem Dev.setSdi_get (d : Dev) (n : Nat) (x : SdiRt) (q : Par) (j : Nat) : (d.setSdi n x).get q j = d.get q j := by unfold Dev.setSdi; rfl
@[simp] theorem Dev.setWin_now (d : Dev) (n : Nat) (x : WinRt) : (d.setWin n x).now = d.now := by unfold Dev.setWin; rfl
@[simp] theorem Dev.setWin_beatStart (d : Dev) (n : Nat) (x : WinRt) : (d.setWin n x).beatStart = d.beatStart := by unfold Dev.setWin; rfl
@[simp] theorem Dev.setWin_beatLen (d : Dev) (n : Nat) (x : WinRt) : (d.setWin n x).beatLen = d.beatLen := by unfold Dev.setWin; rfl
@[simp] theorem Dev.setWin_newGrid (d : Dev) (n : Nat) (x : WinRt) : (d.setWin n x).newGrid = d.newGrid := by unfold Dev.setWin; rfl
@[simp] theorem Dev.setWin_par (d : Dev) (n : Nat) (x : WinRt) : (d.setWin n x).par = d.par := by unfold Dev.setWin; rfl
@[simp] theorem Dev.setWin_free (d : Dev) (n : Nat) (x : WinRt) : (d.setWin n x).free = d.free := by unfold Dev.setWin; rfl
@[simp] theorem Dev.setWin_phase (d : Dev) (n : Nat) (x : WinRt) : (d.setWin n x).phase = d.phase := by unfold Dev.setWin; rfl
@[simp] theorem Dev.setWin_evt (d : Dev) (n : Nat) (x : WinRt) : (d.setWin n x).evt = d.evt := by unfold Dev.setWin; rfl
@[simp] theorem Dev.setWin_host (d : Dev) (n : Nat) (x : WinRt) : (d.setWin n x).host = d.host := by unfold Dev.setWin; rfl
@[simp] theorem Dev.setWin_tsets (d : Dev) (n : Nat) (x : WinRt) : (d.setWin n x).tsets = d.tsets := by unfold Dev.setWin; rfl
@[simp] theorem Dev.setWin_commits (d : Dev) (n : Nat) (x : WinRt) : (d.setWin n x).commits = d.commits := by unfold Dev.setWin; rfl
@[simp] theorem Dev.setWin_mode (d : Dev) (n : Nat) (x : WinRt) : (d.setWin n x).mode = d.mode := by unfold Dev.setWin; rfl
@[simp] theorem Dev.setWin_legs (d : Dev) (n : Nat) (x : WinRt) : (d.setWin n x).legs = d.legs := by unfold Dev.setWin; rfl
@[simp] theorem Dev.setWin_osier (d : Dev) (n : Nat) (x : WinRt) : (d.setWin n x).osier = d.osier := by unfold Dev.setWin; rfl
@[simp] theorem Dev.setWin_ports (d : Dev) (n : Nat) (x : WinRt) : (d.setWin n x).ports = d.ports := by unfold Dev.setWin; rfl
@[simp] theorem Dev.setWin_caps (d : Dev) (n : Nat) (x : WinRt) : (d.setWin n x).caps = d.caps := by unfold Dev.setWin; rfl
@[simp] theorem Dev.setWin_trigs (d : Dev) (n : Nat) (x : WinRt) : (d.setWin n x).trigs = d.trigs := by unfold Dev.setWin; rfl
@[simp] theorem Dev.setWin_ctxs (d : Dev) (n : Nat) (x : WinRt) : (d.setWin n x).ctxs = d.ctxs := by unfold Dev.setWin; rfl
@[simp] theorem Dev.setWin_eng (d : Dev) (n : Nat) (x : WinRt) : (d.setWin n x).eng = d.eng := by unfold Dev.setWin; rfl
@[simp] theorem Dev.setWin_grids (d : Dev) (n : Nat) (x : WinRt) : (d.setWin n x).grids = d.grids := by unfold Dev.setWin; rfl
@[simp] theorem Dev.setWin_isls (d : Dev) (n : Nat) (x : WinRt) : (d.setWin n x).isls = d.isls := by unfold Dev.setWin; rfl
@[simp] theorem Dev.setWin_spokes (d : Dev) (n : Nat) (x : WinRt) : (d.setWin n x).spokes = d.spokes := by unfold Dev.setWin; rfl
@[simp] theorem Dev.setWin_cells (d : Dev) (n : Nat) (x : WinRt) : (d.setWin n x).cells = d.cells := by unfold Dev.setWin; rfl
@[simp] theorem Dev.setWin_arms (d : Dev) (n : Nat) (x : WinRt) : (d.setWin n x).arms = d.arms := by unfold Dev.setWin; rfl
@[simp] theorem Dev.setWin_adcs (d : Dev) (n : Nat) (x : WinRt) : (d.setWin n x).adcs = d.adcs := by unfold Dev.setWin; rfl
@[simp] theorem Dev.setWin_sdis (d : Dev) (n : Nat) (x : WinRt) : (d.setWin n x).sdis = d.sdis := by unfold Dev.setWin; rfl
@[simp] theorem Dev.setWin_sup (d : Dev) (n : Nat) (x : WinRt) : (d.setWin n x).sup = d.sup := by unfold Dev.setWin; rfl
@[simp] theorem Dev.setWin_weave (d : Dev) (n : Nat) (x : WinRt) : (d.setWin n x).weave = d.weave := by unfold Dev.setWin; rfl
@[simp] theorem Dev.setWin_rim (d : Dev) (n : Nat) (x : WinRt) : (d.setWin n x).rim = d.rim := by unfold Dev.setWin; rfl
@[simp] theorem Dev.setWin_met (d : Dev) (n : Nat) (x : WinRt) : (d.setWin n x).met = d.met := by unfold Dev.setWin; rfl
@[simp] theorem Dev.setWin_lid (d : Dev) (n : Nat) (x : WinRt) : (d.setWin n x).lid = d.lid := by unfold Dev.setWin; rfl
@[simp] theorem Dev.setWin_pwr (d : Dev) (n : Nat) (x : WinRt) : (d.setWin n x).pwr = d.pwr := by unfold Dev.setWin; rfl
@[simp] theorem Dev.setWin_pins (d : Dev) (n : Nat) (x : WinRt) : (d.setWin n x).pins = d.pins := by unfold Dev.setWin; rfl
@[simp] theorem Dev.setWin_raw (d : Dev) (n : Nat) (x : WinRt) (q : Par) (j : Nat) : (d.setWin n x).raw q j = d.raw q j := by unfold Dev.setWin; rfl
@[simp] theorem Dev.setWin_get (d : Dev) (n : Nat) (x : WinRt) (q : Par) (j : Nat) : (d.setWin n x).get q j = d.get q j := by unfold Dev.setWin; rfl
@[simp] theorem Dev.setCap_now (d : Dev) (n : Nat) (x : CapRt) : (d.setCap n x).now = d.now := by unfold Dev.setCap; rfl
@[simp] theorem Dev.setCap_beatStart (d : Dev) (n : Nat) (x : CapRt) : (d.setCap n x).beatStart = d.beatStart := by unfold Dev.setCap; rfl
@[simp] theorem Dev.setCap_beatLen (d : Dev) (n : Nat) (x : CapRt) : (d.setCap n x).beatLen = d.beatLen := by unfold Dev.setCap; rfl
@[simp] theorem Dev.setCap_newGrid (d : Dev) (n : Nat) (x : CapRt) : (d.setCap n x).newGrid = d.newGrid := by unfold Dev.setCap; rfl
@[simp] theorem Dev.setCap_par (d : Dev) (n : Nat) (x : CapRt) : (d.setCap n x).par = d.par := by unfold Dev.setCap; rfl
@[simp] theorem Dev.setCap_free (d : Dev) (n : Nat) (x : CapRt) : (d.setCap n x).free = d.free := by unfold Dev.setCap; rfl
@[simp] theorem Dev.setCap_phase (d : Dev) (n : Nat) (x : CapRt) : (d.setCap n x).phase = d.phase := by unfold Dev.setCap; rfl
@[simp] theorem Dev.setCap_evt (d : Dev) (n : Nat) (x : CapRt) : (d.setCap n x).evt = d.evt := by unfold Dev.setCap; rfl
@[simp] theorem Dev.setCap_host (d : Dev) (n : Nat) (x : CapRt) : (d.setCap n x).host = d.host := by unfold Dev.setCap; rfl
@[simp] theorem Dev.setCap_tsets (d : Dev) (n : Nat) (x : CapRt) : (d.setCap n x).tsets = d.tsets := by unfold Dev.setCap; rfl
@[simp] theorem Dev.setCap_commits (d : Dev) (n : Nat) (x : CapRt) : (d.setCap n x).commits = d.commits := by unfold Dev.setCap; rfl
@[simp] theorem Dev.setCap_mode (d : Dev) (n : Nat) (x : CapRt) : (d.setCap n x).mode = d.mode := by unfold Dev.setCap; rfl
@[simp] theorem Dev.setCap_legs (d : Dev) (n : Nat) (x : CapRt) : (d.setCap n x).legs = d.legs := by unfold Dev.setCap; rfl
@[simp] theorem Dev.setCap_osier (d : Dev) (n : Nat) (x : CapRt) : (d.setCap n x).osier = d.osier := by unfold Dev.setCap; rfl
@[simp] theorem Dev.setCap_ports (d : Dev) (n : Nat) (x : CapRt) : (d.setCap n x).ports = d.ports := by unfold Dev.setCap; rfl
@[simp] theorem Dev.setCap_trigs (d : Dev) (n : Nat) (x : CapRt) : (d.setCap n x).trigs = d.trigs := by unfold Dev.setCap; rfl
@[simp] theorem Dev.setCap_ctxs (d : Dev) (n : Nat) (x : CapRt) : (d.setCap n x).ctxs = d.ctxs := by unfold Dev.setCap; rfl
@[simp] theorem Dev.setCap_eng (d : Dev) (n : Nat) (x : CapRt) : (d.setCap n x).eng = d.eng := by unfold Dev.setCap; rfl
@[simp] theorem Dev.setCap_grids (d : Dev) (n : Nat) (x : CapRt) : (d.setCap n x).grids = d.grids := by unfold Dev.setCap; rfl
@[simp] theorem Dev.setCap_isls (d : Dev) (n : Nat) (x : CapRt) : (d.setCap n x).isls = d.isls := by unfold Dev.setCap; rfl
@[simp] theorem Dev.setCap_spokes (d : Dev) (n : Nat) (x : CapRt) : (d.setCap n x).spokes = d.spokes := by unfold Dev.setCap; rfl
@[simp] theorem Dev.setCap_cells (d : Dev) (n : Nat) (x : CapRt) : (d.setCap n x).cells = d.cells := by unfold Dev.setCap; rfl
@[simp] theorem Dev.setCap_arms (d : Dev) (n : Nat) (x : CapRt) : (d.setCap n x).arms = d.arms := by unfold Dev.setCap; rfl
@[simp] theorem Dev.setCap_adcs (d : Dev) (n : Nat) (x : CapRt) : (d.setCap n x).adcs = d.adcs := by unfold Dev.setCap; rfl
@[simp] theorem Dev.setCap_sdis (d : Dev) (n : Nat) (x : CapRt) : (d.setCap n x).sdis = d.sdis := by unfold Dev.setCap; rfl
@[simp] theorem Dev.setCap_wins (d : Dev) (n : Nat) (x : CapRt) : (d.setCap n x).wins = d.wins := by unfold Dev.setCap; rfl
@[simp] theorem Dev.setCap_sup (d : Dev) (n : Nat) (x : CapRt) : (d.setCap n x).sup = d.sup := by unfold Dev.setCap; rfl
@[simp] theorem Dev.setCap_weave (d : Dev) (n : Nat) (x : CapRt) : (d.setCap n x).weave = d.weave := by unfold Dev.setCap; rfl
@[simp] theorem Dev.setCap_rim (d : Dev) (n : Nat) (x : CapRt) : (d.setCap n x).rim = d.rim := by unfold Dev.setCap; rfl
@[simp] theorem Dev.setCap_met (d : Dev) (n : Nat) (x : CapRt) : (d.setCap n x).met = d.met := by unfold Dev.setCap; rfl
@[simp] theorem Dev.setCap_lid (d : Dev) (n : Nat) (x : CapRt) : (d.setCap n x).lid = d.lid := by unfold Dev.setCap; rfl
@[simp] theorem Dev.setCap_pwr (d : Dev) (n : Nat) (x : CapRt) : (d.setCap n x).pwr = d.pwr := by unfold Dev.setCap; rfl
@[simp] theorem Dev.setCap_pins (d : Dev) (n : Nat) (x : CapRt) : (d.setCap n x).pins = d.pins := by unfold Dev.setCap; rfl
@[simp] theorem Dev.setCap_raw (d : Dev) (n : Nat) (x : CapRt) (q : Par) (j : Nat) : (d.setCap n x).raw q j = d.raw q j := by unfold Dev.setCap; rfl
@[simp] theorem Dev.setCap_get (d : Dev) (n : Nat) (x : CapRt) (q : Par) (j : Nat) : (d.setCap n x).get q j = d.get q j := by unfold Dev.setCap; rfl
@[simp] theorem Dev.setTrig_now (d : Dev) (n : Nat) (x : TrigRt) : (d.setTrig n x).now = d.now := by unfold Dev.setTrig; rfl
@[simp] theorem Dev.setTrig_beatStart (d : Dev) (n : Nat) (x : TrigRt) : (d.setTrig n x).beatStart = d.beatStart := by unfold Dev.setTrig; rfl
@[simp] theorem Dev.setTrig_beatLen (d : Dev) (n : Nat) (x : TrigRt) : (d.setTrig n x).beatLen = d.beatLen := by unfold Dev.setTrig; rfl
@[simp] theorem Dev.setTrig_newGrid (d : Dev) (n : Nat) (x : TrigRt) : (d.setTrig n x).newGrid = d.newGrid := by unfold Dev.setTrig; rfl
@[simp] theorem Dev.setTrig_par (d : Dev) (n : Nat) (x : TrigRt) : (d.setTrig n x).par = d.par := by unfold Dev.setTrig; rfl
@[simp] theorem Dev.setTrig_free (d : Dev) (n : Nat) (x : TrigRt) : (d.setTrig n x).free = d.free := by unfold Dev.setTrig; rfl
@[simp] theorem Dev.setTrig_phase (d : Dev) (n : Nat) (x : TrigRt) : (d.setTrig n x).phase = d.phase := by unfold Dev.setTrig; rfl
@[simp] theorem Dev.setTrig_evt (d : Dev) (n : Nat) (x : TrigRt) : (d.setTrig n x).evt = d.evt := by unfold Dev.setTrig; rfl
@[simp] theorem Dev.setTrig_host (d : Dev) (n : Nat) (x : TrigRt) : (d.setTrig n x).host = d.host := by unfold Dev.setTrig; rfl
@[simp] theorem Dev.setTrig_tsets (d : Dev) (n : Nat) (x : TrigRt) : (d.setTrig n x).tsets = d.tsets := by unfold Dev.setTrig; rfl
@[simp] theorem Dev.setTrig_commits (d : Dev) (n : Nat) (x : TrigRt) : (d.setTrig n x).commits = d.commits := by unfold Dev.setTrig; rfl
@[simp] theorem Dev.setTrig_mode (d : Dev) (n : Nat) (x : TrigRt) : (d.setTrig n x).mode = d.mode := by unfold Dev.setTrig; rfl
@[simp] theorem Dev.setTrig_legs (d : Dev) (n : Nat) (x : TrigRt) : (d.setTrig n x).legs = d.legs := by unfold Dev.setTrig; rfl
@[simp] theorem Dev.setTrig_osier (d : Dev) (n : Nat) (x : TrigRt) : (d.setTrig n x).osier = d.osier := by unfold Dev.setTrig; rfl
@[simp] theorem Dev.setTrig_ports (d : Dev) (n : Nat) (x : TrigRt) : (d.setTrig n x).ports = d.ports := by unfold Dev.setTrig; rfl
@[simp] theorem Dev.setTrig_caps (d : Dev) (n : Nat) (x : TrigRt) : (d.setTrig n x).caps = d.caps := by unfold Dev.setTrig; rfl
@[simp] theorem Dev.setTrig_ctxs (d : Dev) (n : Nat) (x : TrigRt) : (d.setTrig n x).ctxs = d.ctxs := by unfold Dev.setTrig; rfl
@[simp] theorem Dev.setTrig_eng (d : Dev) (n : Nat) (x : TrigRt) : (d.setTrig n x).eng = d.eng := by unfold Dev.setTrig; rfl
@[simp] theorem Dev.setTrig_grids (d : Dev) (n : Nat) (x : TrigRt) : (d.setTrig n x).grids = d.grids := by unfold Dev.setTrig; rfl
@[simp] theorem Dev.setTrig_isls (d : Dev) (n : Nat) (x : TrigRt) : (d.setTrig n x).isls = d.isls := by unfold Dev.setTrig; rfl
@[simp] theorem Dev.setTrig_spokes (d : Dev) (n : Nat) (x : TrigRt) : (d.setTrig n x).spokes = d.spokes := by unfold Dev.setTrig; rfl
@[simp] theorem Dev.setTrig_cells (d : Dev) (n : Nat) (x : TrigRt) : (d.setTrig n x).cells = d.cells := by unfold Dev.setTrig; rfl
@[simp] theorem Dev.setTrig_arms (d : Dev) (n : Nat) (x : TrigRt) : (d.setTrig n x).arms = d.arms := by unfold Dev.setTrig; rfl
@[simp] theorem Dev.setTrig_adcs (d : Dev) (n : Nat) (x : TrigRt) : (d.setTrig n x).adcs = d.adcs := by unfold Dev.setTrig; rfl
@[simp] theorem Dev.setTrig_sdis (d : Dev) (n : Nat) (x : TrigRt) : (d.setTrig n x).sdis = d.sdis := by unfold Dev.setTrig; rfl
@[simp] theorem Dev.setTrig_wins (d : Dev) (n : Nat) (x : TrigRt) : (d.setTrig n x).wins = d.wins := by unfold Dev.setTrig; rfl
@[simp] theorem Dev.setTrig_sup (d : Dev) (n : Nat) (x : TrigRt) : (d.setTrig n x).sup = d.sup := by unfold Dev.setTrig; rfl
@[simp] theorem Dev.setTrig_weave (d : Dev) (n : Nat) (x : TrigRt) : (d.setTrig n x).weave = d.weave := by unfold Dev.setTrig; rfl
@[simp] theorem Dev.setTrig_rim (d : Dev) (n : Nat) (x : TrigRt) : (d.setTrig n x).rim = d.rim := by unfold Dev.setTrig; rfl
@[simp] theorem Dev.setTrig_met (d : Dev) (n : Nat) (x : TrigRt) : (d.setTrig n x).met = d.met := by unfold Dev.setTrig; rfl
@[simp] theorem Dev.setTrig_lid (d : Dev) (n : Nat) (x : TrigRt) : (d.setTrig n x).lid = d.lid := by unfold Dev.setTrig; rfl
@[simp] theorem Dev.setTrig_pwr (d : Dev) (n : Nat) (x : TrigRt) : (d.setTrig n x).pwr = d.pwr := by unfold Dev.setTrig; rfl
@[simp] theorem Dev.setTrig_pins (d : Dev) (n : Nat) (x : TrigRt) : (d.setTrig n x).pins = d.pins := by unfold Dev.setTrig; rfl
@[simp] theorem Dev.setTrig_raw (d : Dev) (n : Nat) (x : TrigRt) (q : Par) (j : Nat) : (d.setTrig n x).raw q j = d.raw q j := by unfold Dev.setTrig; rfl
@[simp] theorem Dev.setTrig_get (d : Dev) (n : Nat) (x : TrigRt) (q : Par) (j : Nat) : (d.setTrig n x).get q j = d.get q j := by unfold Dev.setTrig; rfl
@[simp] theorem Dev.setSpoke_now (d : Dev) (n : Nat) (x : SpokeRt) : (d.setSpoke n x).now = d.now := by unfold Dev.setSpoke; rfl
@[simp] theorem Dev.setSpoke_beatStart (d : Dev) (n : Nat) (x : SpokeRt) : (d.setSpoke n x).beatStart = d.beatStart := by unfold Dev.setSpoke; rfl
@[simp] theorem Dev.setSpoke_beatLen (d : Dev) (n : Nat) (x : SpokeRt) : (d.setSpoke n x).beatLen = d.beatLen := by unfold Dev.setSpoke; rfl
@[simp] theorem Dev.setSpoke_newGrid (d : Dev) (n : Nat) (x : SpokeRt) : (d.setSpoke n x).newGrid = d.newGrid := by unfold Dev.setSpoke; rfl
@[simp] theorem Dev.setSpoke_par (d : Dev) (n : Nat) (x : SpokeRt) : (d.setSpoke n x).par = d.par := by unfold Dev.setSpoke; rfl
@[simp] theorem Dev.setSpoke_free (d : Dev) (n : Nat) (x : SpokeRt) : (d.setSpoke n x).free = d.free := by unfold Dev.setSpoke; rfl
@[simp] theorem Dev.setSpoke_phase (d : Dev) (n : Nat) (x : SpokeRt) : (d.setSpoke n x).phase = d.phase := by unfold Dev.setSpoke; rfl
@[simp] theorem Dev.setSpoke_evt (d : Dev) (n : Nat) (x : SpokeRt) : (d.setSpoke n x).evt = d.evt := by unfold Dev.setSpoke; rfl
@[simp] theorem Dev.setSpoke_host (d : Dev) (n : Nat) (x : SpokeRt) : (d.setSpoke n x).host = d.host := by unfold Dev.setSpoke; rfl
@[simp] theorem Dev.setSpoke_tsets (d : Dev) (n : Nat) (x : SpokeRt) : (d.setSpoke n x).tsets = d.tsets := by unfold Dev.setSpoke; rfl
@[simp] theorem Dev.setSpoke_commits (d : Dev) (n : Nat) (x : SpokeRt) : (d.setSpoke n x).commits = d.commits := by unfold Dev.setSpoke; rfl
@[simp] theorem Dev.setSpoke_mode (d : Dev) (n : Nat) (x : SpokeRt) : (d.setSpoke n x).mode = d.mode := by unfold Dev.setSpoke; rfl
@[simp] theorem Dev.setSpoke_legs (d : Dev) (n : Nat) (x : SpokeRt) : (d.setSpoke n x).legs = d.legs := by unfold Dev.setSpoke; rfl
@[simp] theorem Dev.setSpoke_osier (d : Dev) (n : Nat) (x : SpokeRt) : (d.setSpoke n x).osier = d.osier := by unfold Dev.setSpoke; rfl
@[simp] theorem Dev.setSpoke_ports (d : Dev) (n : Nat) (x : SpokeRt) : (d.setSpoke n x).ports = d.ports := by unfold Dev.setSpoke; rfl
@[simp] theorem Dev.setSpoke_caps (d : Dev) (n : Nat) (x : SpokeRt) : (d.setSpoke n x).caps = d.caps := by unfold Dev.setSpoke; rfl
@[simp] theorem Dev.setSpoke_trigs (d : Dev) (n : Nat) (x : SpokeRt) : (d.setSpoke n x).trigs = d.trigs := by unfold Dev.setSpoke; rfl
@[simp] theorem Dev.setSpoke_ctxs (d : Dev) (n : Nat) (x : SpokeRt) : (d.setSpoke n x).ctxs = d.ctxs := by unfold Dev.setSpoke; rfl
@[simp] theorem Dev.setSpoke_eng (d : Dev) (n : Nat) (x : SpokeRt) : (d.setSpoke n x).eng = d.eng := by unfold Dev.setSpoke; rfl
@[simp] theorem Dev.setSpoke_grids (d : Dev) (n : Nat) (x : SpokeRt) : (d.setSpoke n x).grids = d.grids := by unfold Dev.setSpoke; rfl
@[simp] theorem Dev.setSpoke_isls (d : Dev) (n : Nat) (x : SpokeRt) : (d.setSpoke n x).isls = d.isls := by unfold Dev.setSpoke; rfl
@[simp] theorem Dev.setSpoke_cells (d : Dev) (n : Nat) (x : SpokeRt) : (d.setSpoke n x).cells = d.cells := by unfold Dev.setSpoke; rfl
@[simp] theorem Dev.setSpoke_arms (d : Dev) (n : Nat) (x : SpokeRt) : (d.setSpoke n x).arms = d.arms := by unfold Dev.setSpoke; rfl
@[simp] theorem Dev.setSpoke_adcs (d : Dev) (n : Nat) (x : SpokeRt) : (d.setSpoke n x).adcs = d.adcs := by unfold Dev.setSpoke; rfl
@[simp] theorem Dev.setSpoke_sdis (d : Dev) (n : Nat) (x : SpokeRt) : (d.setSpoke n x).sdis = d.sdis := by unfold Dev.setSpoke; rfl
@[simp] theorem Dev.setSpoke_wins (d : Dev) (n : Nat) (x : SpokeRt) : (d.setSpoke n x).wins = d.wins := by unfold Dev.setSpoke; rfl
@[simp] theorem Dev.setSpoke_sup (d : Dev) (n : Nat) (x : SpokeRt) : (d.setSpoke n x).sup = d.sup := by unfold Dev.setSpoke; rfl
@[simp] theorem Dev.setSpoke_weave (d : Dev) (n : Nat) (x : SpokeRt) : (d.setSpoke n x).weave = d.weave := by unfold Dev.setSpoke; rfl
@[simp] theorem Dev.setSpoke_rim (d : Dev) (n : Nat) (x : SpokeRt) : (d.setSpoke n x).rim = d.rim := by unfold Dev.setSpoke; rfl
@[simp] theorem Dev.setSpoke_met (d : Dev) (n : Nat) (x : SpokeRt) : (d.setSpoke n x).met = d.met := by unfold Dev.setSpoke; rfl
@[simp] theorem Dev.setSpoke_lid (d : Dev) (n : Nat) (x : SpokeRt) : (d.setSpoke n x).lid = d.lid := by unfold Dev.setSpoke; rfl
@[simp] theorem Dev.setSpoke_pwr (d : Dev) (n : Nat) (x : SpokeRt) : (d.setSpoke n x).pwr = d.pwr := by unfold Dev.setSpoke; rfl
@[simp] theorem Dev.setSpoke_pins (d : Dev) (n : Nat) (x : SpokeRt) : (d.setSpoke n x).pins = d.pins := by unfold Dev.setSpoke; rfl
@[simp] theorem Dev.setSpoke_raw (d : Dev) (n : Nat) (x : SpokeRt) (q : Par) (j : Nat) : (d.setSpoke n x).raw q j = d.raw q j := by unfold Dev.setSpoke; rfl
@[simp] theorem Dev.setSpoke_get (d : Dev) (n : Nat) (x : SpokeRt) (q : Par) (j : Nat) : (d.setSpoke n x).get q j = d.get q j := by unfold Dev.setSpoke; rfl
@[simp] theorem Dev.setGrid_now (d : Dev) (n : Nat) (x : GridRt) : (d.setGrid n x).now = d.now := by unfold Dev.setGrid; rfl
@[simp] theorem Dev.setGrid_beatStart (d : Dev) (n : Nat) (x : GridRt) : (d.setGrid n x).beatStart = d.beatStart := by unfold Dev.setGrid; rfl
@[simp] theorem Dev.setGrid_beatLen (d : Dev) (n : Nat) (x : GridRt) : (d.setGrid n x).beatLen = d.beatLen := by unfold Dev.setGrid; rfl
@[simp] theorem Dev.setGrid_newGrid (d : Dev) (n : Nat) (x : GridRt) : (d.setGrid n x).newGrid = d.newGrid := by unfold Dev.setGrid; rfl
@[simp] theorem Dev.setGrid_par (d : Dev) (n : Nat) (x : GridRt) : (d.setGrid n x).par = d.par := by unfold Dev.setGrid; rfl
@[simp] theorem Dev.setGrid_free (d : Dev) (n : Nat) (x : GridRt) : (d.setGrid n x).free = d.free := by unfold Dev.setGrid; rfl
@[simp] theorem Dev.setGrid_phase (d : Dev) (n : Nat) (x : GridRt) : (d.setGrid n x).phase = d.phase := by unfold Dev.setGrid; rfl
@[simp] theorem Dev.setGrid_evt (d : Dev) (n : Nat) (x : GridRt) : (d.setGrid n x).evt = d.evt := by unfold Dev.setGrid; rfl
@[simp] theorem Dev.setGrid_host (d : Dev) (n : Nat) (x : GridRt) : (d.setGrid n x).host = d.host := by unfold Dev.setGrid; rfl
@[simp] theorem Dev.setGrid_tsets (d : Dev) (n : Nat) (x : GridRt) : (d.setGrid n x).tsets = d.tsets := by unfold Dev.setGrid; rfl
@[simp] theorem Dev.setGrid_commits (d : Dev) (n : Nat) (x : GridRt) : (d.setGrid n x).commits = d.commits := by unfold Dev.setGrid; rfl
@[simp] theorem Dev.setGrid_mode (d : Dev) (n : Nat) (x : GridRt) : (d.setGrid n x).mode = d.mode := by unfold Dev.setGrid; rfl
@[simp] theorem Dev.setGrid_legs (d : Dev) (n : Nat) (x : GridRt) : (d.setGrid n x).legs = d.legs := by unfold Dev.setGrid; rfl
@[simp] theorem Dev.setGrid_osier (d : Dev) (n : Nat) (x : GridRt) : (d.setGrid n x).osier = d.osier := by unfold Dev.setGrid; rfl
@[simp] theorem Dev.setGrid_ports (d : Dev) (n : Nat) (x : GridRt) : (d.setGrid n x).ports = d.ports := by unfold Dev.setGrid; rfl
@[simp] theorem Dev.setGrid_caps (d : Dev) (n : Nat) (x : GridRt) : (d.setGrid n x).caps = d.caps := by unfold Dev.setGrid; rfl
@[simp] theorem Dev.setGrid_trigs (d : Dev) (n : Nat) (x : GridRt) : (d.setGrid n x).trigs = d.trigs := by unfold Dev.setGrid; rfl
@[simp] theorem Dev.setGrid_ctxs (d : Dev) (n : Nat) (x : GridRt) : (d.setGrid n x).ctxs = d.ctxs := by unfold Dev.setGrid; rfl
@[simp] theorem Dev.setGrid_eng (d : Dev) (n : Nat) (x : GridRt) : (d.setGrid n x).eng = d.eng := by unfold Dev.setGrid; rfl
@[simp] theorem Dev.setGrid_isls (d : Dev) (n : Nat) (x : GridRt) : (d.setGrid n x).isls = d.isls := by unfold Dev.setGrid; rfl
@[simp] theorem Dev.setGrid_spokes (d : Dev) (n : Nat) (x : GridRt) : (d.setGrid n x).spokes = d.spokes := by unfold Dev.setGrid; rfl
@[simp] theorem Dev.setGrid_cells (d : Dev) (n : Nat) (x : GridRt) : (d.setGrid n x).cells = d.cells := by unfold Dev.setGrid; rfl
@[simp] theorem Dev.setGrid_arms (d : Dev) (n : Nat) (x : GridRt) : (d.setGrid n x).arms = d.arms := by unfold Dev.setGrid; rfl
@[simp] theorem Dev.setGrid_adcs (d : Dev) (n : Nat) (x : GridRt) : (d.setGrid n x).adcs = d.adcs := by unfold Dev.setGrid; rfl
@[simp] theorem Dev.setGrid_sdis (d : Dev) (n : Nat) (x : GridRt) : (d.setGrid n x).sdis = d.sdis := by unfold Dev.setGrid; rfl
@[simp] theorem Dev.setGrid_wins (d : Dev) (n : Nat) (x : GridRt) : (d.setGrid n x).wins = d.wins := by unfold Dev.setGrid; rfl
@[simp] theorem Dev.setGrid_sup (d : Dev) (n : Nat) (x : GridRt) : (d.setGrid n x).sup = d.sup := by unfold Dev.setGrid; rfl
@[simp] theorem Dev.setGrid_weave (d : Dev) (n : Nat) (x : GridRt) : (d.setGrid n x).weave = d.weave := by unfold Dev.setGrid; rfl
@[simp] theorem Dev.setGrid_rim (d : Dev) (n : Nat) (x : GridRt) : (d.setGrid n x).rim = d.rim := by unfold Dev.setGrid; rfl
@[simp] theorem Dev.setGrid_met (d : Dev) (n : Nat) (x : GridRt) : (d.setGrid n x).met = d.met := by unfold Dev.setGrid; rfl
@[simp] theorem Dev.setGrid_lid (d : Dev) (n : Nat) (x : GridRt) : (d.setGrid n x).lid = d.lid := by unfold Dev.setGrid; rfl
@[simp] theorem Dev.setGrid_pwr (d : Dev) (n : Nat) (x : GridRt) : (d.setGrid n x).pwr = d.pwr := by unfold Dev.setGrid; rfl
@[simp] theorem Dev.setGrid_pins (d : Dev) (n : Nat) (x : GridRt) : (d.setGrid n x).pins = d.pins := by unfold Dev.setGrid; rfl
@[simp] theorem Dev.setGrid_raw (d : Dev) (n : Nat) (x : GridRt) (q : Par) (j : Nat) : (d.setGrid n x).raw q j = d.raw q j := by unfold Dev.setGrid; rfl
@[simp] theorem Dev.setGrid_get (d : Dev) (n : Nat) (x : GridRt) (q : Par) (j : Nat) : (d.setGrid n x).get q j = d.get q j := by unfold Dev.setGrid; rfl
@[simp] theorem Dev.setIsl_now (d : Dev) (n : Nat) (x : IslRt) : (d.setIsl n x).now = d.now := by unfold Dev.setIsl; rfl
@[simp] theorem Dev.setIsl_beatStart (d : Dev) (n : Nat) (x : IslRt) : (d.setIsl n x).beatStart = d.beatStart := by unfold Dev.setIsl; rfl
@[simp] theorem Dev.setIsl_beatLen (d : Dev) (n : Nat) (x : IslRt) : (d.setIsl n x).beatLen = d.beatLen := by unfold Dev.setIsl; rfl
@[simp] theorem Dev.setIsl_newGrid (d : Dev) (n : Nat) (x : IslRt) : (d.setIsl n x).newGrid = d.newGrid := by unfold Dev.setIsl; rfl
@[simp] theorem Dev.setIsl_par (d : Dev) (n : Nat) (x : IslRt) : (d.setIsl n x).par = d.par := by unfold Dev.setIsl; rfl
@[simp] theorem Dev.setIsl_free (d : Dev) (n : Nat) (x : IslRt) : (d.setIsl n x).free = d.free := by unfold Dev.setIsl; rfl
@[simp] theorem Dev.setIsl_phase (d : Dev) (n : Nat) (x : IslRt) : (d.setIsl n x).phase = d.phase := by unfold Dev.setIsl; rfl
@[simp] theorem Dev.setIsl_evt (d : Dev) (n : Nat) (x : IslRt) : (d.setIsl n x).evt = d.evt := by unfold Dev.setIsl; rfl
@[simp] theorem Dev.setIsl_host (d : Dev) (n : Nat) (x : IslRt) : (d.setIsl n x).host = d.host := by unfold Dev.setIsl; rfl
@[simp] theorem Dev.setIsl_tsets (d : Dev) (n : Nat) (x : IslRt) : (d.setIsl n x).tsets = d.tsets := by unfold Dev.setIsl; rfl
@[simp] theorem Dev.setIsl_commits (d : Dev) (n : Nat) (x : IslRt) : (d.setIsl n x).commits = d.commits := by unfold Dev.setIsl; rfl
@[simp] theorem Dev.setIsl_mode (d : Dev) (n : Nat) (x : IslRt) : (d.setIsl n x).mode = d.mode := by unfold Dev.setIsl; rfl
@[simp] theorem Dev.setIsl_legs (d : Dev) (n : Nat) (x : IslRt) : (d.setIsl n x).legs = d.legs := by unfold Dev.setIsl; rfl
@[simp] theorem Dev.setIsl_osier (d : Dev) (n : Nat) (x : IslRt) : (d.setIsl n x).osier = d.osier := by unfold Dev.setIsl; rfl
@[simp] theorem Dev.setIsl_ports (d : Dev) (n : Nat) (x : IslRt) : (d.setIsl n x).ports = d.ports := by unfold Dev.setIsl; rfl
@[simp] theorem Dev.setIsl_caps (d : Dev) (n : Nat) (x : IslRt) : (d.setIsl n x).caps = d.caps := by unfold Dev.setIsl; rfl
@[simp] theorem Dev.setIsl_trigs (d : Dev) (n : Nat) (x : IslRt) : (d.setIsl n x).trigs = d.trigs := by unfold Dev.setIsl; rfl
@[simp] theorem Dev.setIsl_ctxs (d : Dev) (n : Nat) (x : IslRt) : (d.setIsl n x).ctxs = d.ctxs := by unfold Dev.setIsl; rfl
@[simp] theorem Dev.setIsl_eng (d : Dev) (n : Nat) (x : IslRt) : (d.setIsl n x).eng = d.eng := by unfold Dev.setIsl; rfl
@[simp] theorem Dev.setIsl_grids (d : Dev) (n : Nat) (x : IslRt) : (d.setIsl n x).grids = d.grids := by unfold Dev.setIsl; rfl
@[simp] theorem Dev.setIsl_spokes (d : Dev) (n : Nat) (x : IslRt) : (d.setIsl n x).spokes = d.spokes := by unfold Dev.setIsl; rfl
@[simp] theorem Dev.setIsl_cells (d : Dev) (n : Nat) (x : IslRt) : (d.setIsl n x).cells = d.cells := by unfold Dev.setIsl; rfl
@[simp] theorem Dev.setIsl_arms (d : Dev) (n : Nat) (x : IslRt) : (d.setIsl n x).arms = d.arms := by unfold Dev.setIsl; rfl
@[simp] theorem Dev.setIsl_adcs (d : Dev) (n : Nat) (x : IslRt) : (d.setIsl n x).adcs = d.adcs := by unfold Dev.setIsl; rfl
@[simp] theorem Dev.setIsl_sdis (d : Dev) (n : Nat) (x : IslRt) : (d.setIsl n x).sdis = d.sdis := by unfold Dev.setIsl; rfl
@[simp] theorem Dev.setIsl_wins (d : Dev) (n : Nat) (x : IslRt) : (d.setIsl n x).wins = d.wins := by unfold Dev.setIsl; rfl
@[simp] theorem Dev.setIsl_sup (d : Dev) (n : Nat) (x : IslRt) : (d.setIsl n x).sup = d.sup := by unfold Dev.setIsl; rfl
@[simp] theorem Dev.setIsl_weave (d : Dev) (n : Nat) (x : IslRt) : (d.setIsl n x).weave = d.weave := by unfold Dev.setIsl; rfl
@[simp] theorem Dev.setIsl_rim (d : Dev) (n : Nat) (x : IslRt) : (d.setIsl n x).rim = d.rim := by unfold Dev.setIsl; rfl
@[simp] theorem Dev.setIsl_met (d : Dev) (n : Nat) (x : IslRt) : (d.setIsl n x).met = d.met := by unfold Dev.setIsl; rfl
@[simp] theorem Dev.setIsl_lid (d : Dev) (n : Nat) (x : IslRt) : (d.setIsl n x).lid = d.lid := by unfold Dev.setIsl; rfl
@[simp] theorem Dev.setIsl_pwr (d : Dev) (n : Nat) (x : IslRt) : (d.setIsl n x).pwr = d.pwr := by unfold Dev.setIsl; rfl
@[simp] theorem Dev.setIsl_pins (d : Dev) (n : Nat) (x : IslRt) : (d.setIsl n x).pins = d.pins := by unfold Dev.setIsl; rfl
@[simp] theorem Dev.setIsl_raw (d : Dev) (n : Nat) (x : IslRt) (q : Par) (j : Nat) : (d.setIsl n x).raw q j = d.raw q j := by unfold Dev.setIsl; rfl
@[simp] theorem Dev.setIsl_get (d : Dev) (n : Nat) (x : IslRt) (q : Par) (j : Nat) : (d.setIsl n x).get q j = d.get q j := by unfold Dev.setIsl; rfl
@[simp] theorem Dev.setLeg_now (d : Dev) (n : Nat) (x : LegRt) : (d.setLeg n x).now = d.now := by unfold Dev.setLeg; rfl
@[simp] theorem Dev.setLeg_beatStart (d : Dev) (n : Nat) (x : LegRt) : (d.setLeg n x).beatStart = d.beatStart := by unfold Dev.setLeg; rfl
@[simp] theorem Dev.setLeg_beatLen (d : Dev) (n : Nat) (x : LegRt) : (d.setLeg n x).beatLen = d.beatLen := by unfold Dev.setLeg; rfl
@[simp] theorem Dev.setLeg_newGrid (d : Dev) (n : Nat) (x : LegRt) : (d.setLeg n x).newGrid = d.newGrid := by unfold Dev.setLeg; rfl
@[simp] theorem Dev.setLeg_par (d : Dev) (n : Nat) (x : LegRt) : (d.setLeg n x).par = d.par := by unfold Dev.setLeg; rfl
@[simp] theorem Dev.setLeg_free (d : Dev) (n : Nat) (x : LegRt) : (d.setLeg n x).free = d.free := by unfold Dev.setLeg; rfl
@[simp] theorem Dev.setLeg_phase (d : Dev) (n : Nat) (x : LegRt) : (d.setLeg n x).phase = d.phase := by unfold Dev.setLeg; rfl
@[simp] theorem Dev.setLeg_evt (d : Dev) (n : Nat) (x : LegRt) : (d.setLeg n x).evt = d.evt := by unfold Dev.setLeg; rfl
@[simp] theorem Dev.setLeg_host (d : Dev) (n : Nat) (x : LegRt) : (d.setLeg n x).host = d.host := by unfold Dev.setLeg; rfl
@[simp] theorem Dev.setLeg_tsets (d : Dev) (n : Nat) (x : LegRt) : (d.setLeg n x).tsets = d.tsets := by unfold Dev.setLeg; rfl
@[simp] theorem Dev.setLeg_commits (d : Dev) (n : Nat) (x : LegRt) : (d.setLeg n x).commits = d.commits := by unfold Dev.setLeg; rfl
@[simp] theorem Dev.setLeg_mode (d : Dev) (n : Nat) (x : LegRt) : (d.setLeg n x).mode = d.mode := by unfold Dev.setLeg; rfl
@[simp] theorem Dev.setLeg_osier (d : Dev) (n : Nat) (x : LegRt) : (d.setLeg n x).osier = d.osier := by unfold Dev.setLeg; rfl
@[simp] theorem Dev.setLeg_ports (d : Dev) (n : Nat) (x : LegRt) : (d.setLeg n x).ports = d.ports := by unfold Dev.setLeg; rfl
@[simp] theorem Dev.setLeg_caps (d : Dev) (n : Nat) (x : LegRt) : (d.setLeg n x).caps = d.caps := by unfold Dev.setLeg; rfl
@[simp] theorem Dev.setLeg_trigs (d : Dev) (n : Nat) (x : LegRt) : (d.setLeg n x).trigs = d.trigs := by unfold Dev.setLeg; rfl
@[simp] theorem Dev.setLeg_ctxs (d : Dev) (n : Nat) (x : LegRt) : (d.setLeg n x).ctxs = d.ctxs := by unfold Dev.setLeg; rfl
@[simp] theorem Dev.setLeg_eng (d : Dev) (n : Nat) (x : LegRt) : (d.setLeg n x).eng = d.eng := by unfold Dev.setLeg; rfl
@[simp] theorem Dev.setLeg_grids (d : Dev) (n : Nat) (x : LegRt) : (d.setLeg n x).grids = d.grids := by unfold Dev.setLeg; rfl
@[simp] theorem Dev.setLeg_isls (d : Dev) (n : Nat) (x : LegRt) : (d.setLeg n x).isls = d.isls := by unfold Dev.setLeg; rfl
@[simp] theorem Dev.setLeg_spokes (d : Dev) (n : Nat) (x : LegRt) : (d.setLeg n x).spokes = d.spokes := by unfold Dev.setLeg; rfl
@[simp] theorem Dev.setLeg_cells (d : Dev) (n : Nat) (x : LegRt) : (d.setLeg n x).cells = d.cells := by unfold Dev.setLeg; rfl
@[simp] theorem Dev.setLeg_arms (d : Dev) (n : Nat) (x : LegRt) : (d.setLeg n x).arms = d.arms := by unfold Dev.setLeg; rfl
@[simp] theorem Dev.setLeg_adcs (d : Dev) (n : Nat) (x : LegRt) : (d.setLeg n x).adcs = d.adcs := by unfold Dev.setLeg; rfl
@[simp] theorem Dev.setLeg_sdis (d : Dev) (n : Nat) (x : LegRt) : (d.setLeg n x).sdis = d.sdis := by unfold Dev.setLeg; rfl
@[simp] theorem Dev.setLeg_wins (d : Dev) (n : Nat) (x : LegRt) : (d.setLeg n x).wins = d.wins := by unfold Dev.setLeg; rfl
@[simp] theorem Dev.setLeg_sup (d : Dev) (n : Nat) (x : LegRt) : (d.setLeg n x).sup = d.sup := by unfold Dev.setLeg; rfl
@[simp] theorem Dev.setLeg_weave (d : Dev) (n : Nat) (x : LegRt) : (d.setLeg n x).weave = d.weave := by unfold Dev.setLeg; rfl
@[simp] theorem Dev.setLeg_rim (d : Dev) (n : Nat) (x : LegRt) : (d.setLeg n x).rim = d.rim := by unfold Dev.setLeg; rfl
@[simp] theorem Dev.setLeg_met (d : Dev) (n : Nat) (x : LegRt) : (d.setLeg n x).met = d.met := by unfold Dev.setLeg; rfl
@[simp] theorem Dev.setLeg_lid (d : Dev) (n : Nat) (x : LegRt) : (d.setLeg n x).lid = d.lid := by unfold Dev.setLeg; rfl
@[simp] theorem Dev.setLeg_pwr (d : Dev) (n : Nat) (x : LegRt) : (d.setLeg n x).pwr = d.pwr := by unfold Dev.setLeg; rfl
@[simp] theorem Dev.setLeg_pins (d : Dev) (n : Nat) (x : LegRt) : (d.setLeg n x).pins = d.pins := by unfold Dev.setLeg; rfl
@[simp] theorem Dev.setLeg_raw (d : Dev) (n : Nat) (x : LegRt) (q : Par) (j : Nat) : (d.setLeg n x).raw q j = d.raw q j := by unfold Dev.setLeg; rfl
@[simp] theorem Dev.setLeg_get (d : Dev) (n : Nat) (x : LegRt) (q : Par) (j : Nat) : (d.setLeg n x).get q j = d.get q j := by unfold Dev.setLeg; rfl
@[simp] theorem Dev.setPort_now (d : Dev) (n : Nat) (x : PortRt) : (d.setPort n x).now = d.now := by unfold Dev.setPort; rfl
@[simp] theorem Dev.setPort_beatStart (d : Dev) (n : Nat) (x : PortRt) : (d.setPort n x).beatStart = d.beatStart := by unfold Dev.setPort; rfl
@[simp] theorem Dev.setPort_beatLen (d : Dev) (n : Nat) (x : PortRt) : (d.setPort n x).beatLen = d.beatLen := by unfold Dev.setPort; rfl
@[simp] theorem Dev.setPort_newGrid (d : Dev) (n : Nat) (x : PortRt) : (d.setPort n x).newGrid = d.newGrid := by unfold Dev.setPort; rfl
@[simp] theorem Dev.setPort_par (d : Dev) (n : Nat) (x : PortRt) : (d.setPort n x).par = d.par := by unfold Dev.setPort; rfl
@[simp] theorem Dev.setPort_free (d : Dev) (n : Nat) (x : PortRt) : (d.setPort n x).free = d.free := by unfold Dev.setPort; rfl
@[simp] theorem Dev.setPort_phase (d : Dev) (n : Nat) (x : PortRt) : (d.setPort n x).phase = d.phase := by unfold Dev.setPort; rfl
@[simp] theorem Dev.setPort_evt (d : Dev) (n : Nat) (x : PortRt) : (d.setPort n x).evt = d.evt := by unfold Dev.setPort; rfl
@[simp] theorem Dev.setPort_host (d : Dev) (n : Nat) (x : PortRt) : (d.setPort n x).host = d.host := by unfold Dev.setPort; rfl
@[simp] theorem Dev.setPort_tsets (d : Dev) (n : Nat) (x : PortRt) : (d.setPort n x).tsets = d.tsets := by unfold Dev.setPort; rfl
@[simp] theorem Dev.setPort_commits (d : Dev) (n : Nat) (x : PortRt) : (d.setPort n x).commits = d.commits := by unfold Dev.setPort; rfl
@[simp] theorem Dev.setPort_mode (d : Dev) (n : Nat) (x : PortRt) : (d.setPort n x).mode = d.mode := by unfold Dev.setPort; rfl
@[simp] theorem Dev.setPort_legs (d : Dev) (n : Nat) (x : PortRt) : (d.setPort n x).legs = d.legs := by unfold Dev.setPort; rfl
@[simp] theorem Dev.setPort_osier (d : Dev) (n : Nat) (x : PortRt) : (d.setPort n x).osier = d.osier := by unfold Dev.setPort; rfl
@[simp] theorem Dev.setPort_caps (d : Dev) (n : Nat) (x : PortRt) : (d.setPort n x).caps = d.caps := by unfold Dev.setPort; rfl
@[simp] theorem Dev.setPort_trigs (d : Dev) (n : Nat) (x : PortRt) : (d.setPort n x).trigs = d.trigs := by unfold Dev.setPort; rfl
@[simp] theorem Dev.setPort_ctxs (d : Dev) (n : Nat) (x : PortRt) : (d.setPort n x).ctxs = d.ctxs := by unfold Dev.setPort; rfl
@[simp] theorem Dev.setPort_eng (d : Dev) (n : Nat) (x : PortRt) : (d.setPort n x).eng = d.eng := by unfold Dev.setPort; rfl
@[simp] theorem Dev.setPort_grids (d : Dev) (n : Nat) (x : PortRt) : (d.setPort n x).grids = d.grids := by unfold Dev.setPort; rfl
@[simp] theorem Dev.setPort_isls (d : Dev) (n : Nat) (x : PortRt) : (d.setPort n x).isls = d.isls := by unfold Dev.setPort; rfl
@[simp] theorem Dev.setPort_spokes (d : Dev) (n : Nat) (x : PortRt) : (d.setPort n x).spokes = d.spokes := by unfold Dev.setPort; rfl
@[simp] theorem Dev.setPort_cells (d : Dev) (n : Nat) (x : PortRt) : (d.setPort n x).cells = d.cells := by unfold Dev.setPort; rfl
@[simp] theorem Dev.setPort_arms (d : Dev) (n : Nat) (x : PortRt) : (d.setPort n x).arms = d.arms := by unfold Dev.setPort; rfl
@[simp] theorem Dev.setPort_adcs (d : Dev) (n : Nat) (x : PortRt) : (d.setPort n x).adcs = d.adcs := by unfold Dev.setPort; rfl
@[simp] theorem Dev.setPort_sdis (d : Dev) (n : Nat) (x : PortRt) : (d.setPort n x).sdis = d.sdis := by unfold Dev.setPort; rfl
@[simp] theorem Dev.setPort_wins (d : Dev) (n : Nat) (x : PortRt) : (d.setPort n x).wins = d.wins := by unfold Dev.setPort; rfl
@[simp] theorem Dev.setPort_sup (d : Dev) (n : Nat) (x : PortRt) : (d.setPort n x).sup = d.sup := by unfold Dev.setPort; rfl
@[simp] theorem Dev.setPort_weave (d : Dev) (n : Nat) (x : PortRt) : (d.setPort n x).weave = d.weave := by unfold Dev.setPort; rfl
@[simp] theorem Dev.setPort_rim (d : Dev) (n : Nat) (x : PortRt) : (d.setPort n x).rim = d.rim := by unfold Dev.setPort; rfl
@[simp] theorem Dev.setPort_met (d : Dev) (n : Nat) (x : PortRt) : (d.setPort n x).met = d.met := by unfold Dev.setPort; rfl
@[simp] theorem Dev.setPort_lid (d : Dev) (n : Nat) (x : PortRt) : (d.setPort n x).lid = d.lid := by unfold Dev.setPort; rfl
@[simp] theorem Dev.setPort_pwr (d : Dev) (n : Nat) (x : PortRt) : (d.setPort n x).pwr = d.pwr := by unfold Dev.setPort; rfl
@[simp] theorem Dev.setPort_pins (d : Dev) (n : Nat) (x : PortRt) : (d.setPort n x).pins = d.pins := by unfold Dev.setPort; rfl
@[simp] theorem Dev.setPort_raw (d : Dev) (n : Nat) (x : PortRt) (q : Par) (j : Nat) : (d.setPort n x).raw q j = d.raw q j := by unfold Dev.setPort; rfl
@[simp] theorem Dev.setPort_get (d : Dev) (n : Nat) (x : PortRt) (q : Par) (j : Nat) : (d.setPort n x).get q j = d.get q j := by unfold Dev.setPort; rfl
@[simp] theorem Dev.setCtx_now (d : Dev) (n : Nat) (x : CtxRt) : (d.setCtx n x).now = d.now := by unfold Dev.setCtx; rfl
@[simp] theorem Dev.setCtx_beatStart (d : Dev) (n : Nat) (x : CtxRt) : (d.setCtx n x).beatStart = d.beatStart := by unfold Dev.setCtx; rfl
@[simp] theorem Dev.setCtx_beatLen (d : Dev) (n : Nat) (x : CtxRt) : (d.setCtx n x).beatLen = d.beatLen := by unfold Dev.setCtx; rfl
@[simp] theorem Dev.setCtx_newGrid (d : Dev) (n : Nat) (x : CtxRt) : (d.setCtx n x).newGrid = d.newGrid := by unfold Dev.setCtx; rfl
@[simp] theorem Dev.setCtx_par (d : Dev) (n : Nat) (x : CtxRt) : (d.setCtx n x).par = d.par := by unfold Dev.setCtx; rfl
@[simp] theorem Dev.setCtx_free (d : Dev) (n : Nat) (x : CtxRt) : (d.setCtx n x).free = d.free := by unfold Dev.setCtx; rfl
@[simp] theorem Dev.setCtx_phase (d : Dev) (n : Nat) (x : CtxRt) : (d.setCtx n x).phase = d.phase := by unfold Dev.setCtx; rfl
@[simp] theorem Dev.setCtx_evt (d : Dev) (n : Nat) (x : CtxRt) : (d.setCtx n x).evt = d.evt := by unfold Dev.setCtx; rfl
@[simp] theorem Dev.setCtx_host (d : Dev) (n : Nat) (x : CtxRt) : (d.setCtx n x).host = d.host := by unfold Dev.setCtx; rfl
@[simp] theorem Dev.setCtx_tsets (d : Dev) (n : Nat) (x : CtxRt) : (d.setCtx n x).tsets = d.tsets := by unfold Dev.setCtx; rfl
@[simp] theorem Dev.setCtx_commits (d : Dev) (n : Nat) (x : CtxRt) : (d.setCtx n x).commits = d.commits := by unfold Dev.setCtx; rfl
@[simp] theorem Dev.setCtx_mode (d : Dev) (n : Nat) (x : CtxRt) : (d.setCtx n x).mode = d.mode := by unfold Dev.setCtx; rfl
@[simp] theorem Dev.setCtx_legs (d : Dev) (n : Nat) (x : CtxRt) : (d.setCtx n x).legs = d.legs := by unfold Dev.setCtx; rfl
@[simp] theorem Dev.setCtx_osier (d : Dev) (n : Nat) (x : CtxRt) : (d.setCtx n x).osier = d.osier := by unfold Dev.setCtx; rfl
@[simp] theorem Dev.setCtx_ports (d : Dev) (n : Nat) (x : CtxRt) : (d.setCtx n x).ports = d.ports := by unfold Dev.setCtx; rfl
@[simp] theorem Dev.setCtx_caps (d : Dev) (n : Nat) (x : CtxRt) : (d.setCtx n x).caps = d.caps := by unfold Dev.setCtx; rfl
@[simp] theorem Dev.setCtx_trigs (d : Dev) (n : Nat) (x : CtxRt) : (d.setCtx n x).trigs = d.trigs := by unfold Dev.setCtx; rfl
@[simp] theorem Dev.setCtx_eng (d : Dev) (n : Nat) (x : CtxRt) : (d.setCtx n x).eng = d.eng := by unfold Dev.setCtx; rfl
@[simp] theorem Dev.setCtx_grids (d : Dev) (n : Nat) (x : CtxRt) : (d.setCtx n x).grids = d.grids := by unfold Dev.setCtx; rfl
@[simp] theorem Dev.setCtx_isls (d : Dev) (n : Nat) (x : CtxRt) : (d.setCtx n x).isls = d.isls := by unfold Dev.setCtx; rfl
@[simp] theorem Dev.setCtx_spokes (d : Dev) (n : Nat) (x : CtxRt) : (d.setCtx n x).spokes = d.spokes := by unfold Dev.setCtx; rfl
@[simp] theorem Dev.setCtx_cells (d : Dev) (n : Nat) (x : CtxRt) : (d.setCtx n x).cells = d.cells := by unfold Dev.setCtx; rfl
@[simp] theorem Dev.setCtx_arms (d : Dev) (n : Nat) (x : CtxRt) : (d.setCtx n x).arms = d.arms := by unfold Dev.setCtx; rfl
@[simp] theorem Dev.setCtx_adcs (d : Dev) (n : Nat) (x : CtxRt) : (d.setCtx n x).adcs = d.adcs := by unfold Dev.setCtx; rfl
@[simp] theorem Dev.setCtx_sdis (d : Dev) (n : Nat) (x : CtxRt) : (d.setCtx n x).sdis = d.sdis := by unfold Dev.setCtx; rfl
@[simp] theorem Dev.setCtx_wins (d : Dev) (n : Nat) (x : CtxRt) : (d.setCtx n x).wins = d.wins := by unfold Dev.setCtx; rfl
@[simp] theorem Dev.setCtx_sup (d : Dev) (n : Nat) (x : CtxRt) : (d.setCtx n x).sup = d.sup := by unfold Dev.setCtx; rfl
@[simp] theorem Dev.setCtx_weave (d : Dev) (n : Nat) (x : CtxRt) : (d.setCtx n x).weave = d.weave := by unfold Dev.setCtx; rfl
@[simp] theorem Dev.setCtx_rim (d : Dev) (n : Nat) (x : CtxRt) : (d.setCtx n x).rim = d.rim := by unfold Dev.setCtx; rfl
@[simp] theorem Dev.setCtx_met (d : Dev) (n : Nat) (x : CtxRt) : (d.setCtx n x).met = d.met := by unfold Dev.setCtx; rfl
@[simp] theorem Dev.setCtx_lid (d : Dev) (n : Nat) (x : CtxRt) : (d.setCtx n x).lid = d.lid := by unfold Dev.setCtx; rfl
@[simp] theorem Dev.setCtx_pwr (d : Dev) (n : Nat) (x : CtxRt) : (d.setCtx n x).pwr = d.pwr := by unfold Dev.setCtx; rfl
@[simp] theorem Dev.setCtx_pins (d : Dev) (n : Nat) (x : CtxRt) : (d.setCtx n x).pins = d.pins := by unfold Dev.setCtx; rfl
@[simp] theorem Dev.setCtx_raw (d : Dev) (n : Nat) (x : CtxRt) (q : Par) (j : Nat) : (d.setCtx n x).raw q j = d.raw q j := by unfold Dev.setCtx; rfl
@[simp] theorem Dev.setCtx_get (d : Dev) (n : Nat) (x : CtxRt) (q : Par) (j : Nat) : (d.setCtx n x).get q j = d.get q j := by unfold Dev.setCtx; rfl
@[simp] theorem Dev.setCell_now (d : Dev) (n : Nat) (x : CellRt) : (d.setCell n x).now = d.now := by unfold Dev.setCell; rfl
@[simp] theorem Dev.setCell_beatStart (d : Dev) (n : Nat) (x : CellRt) : (d.setCell n x).beatStart = d.beatStart := by unfold Dev.setCell; rfl
@[simp] theorem Dev.setCell_beatLen (d : Dev) (n : Nat) (x : CellRt) : (d.setCell n x).beatLen = d.beatLen := by unfold Dev.setCell; rfl
@[simp] theorem Dev.setCell_newGrid (d : Dev) (n : Nat) (x : CellRt) : (d.setCell n x).newGrid = d.newGrid := by unfold Dev.setCell; rfl
@[simp] theorem Dev.setCell_par (d : Dev) (n : Nat) (x : CellRt) : (d.setCell n x).par = d.par := by unfold Dev.setCell; rfl
@[simp] theorem Dev.setCell_free (d : Dev) (n : Nat) (x : CellRt) : (d.setCell n x).free = d.free := by unfold Dev.setCell; rfl
@[simp] theorem Dev.setCell_phase (d : Dev) (n : Nat) (x : CellRt) : (d.setCell n x).phase = d.phase := by unfold Dev.setCell; rfl
@[simp] theorem Dev.setCell_evt (d : Dev) (n : Nat) (x : CellRt) : (d.setCell n x).evt = d.evt := by unfold Dev.setCell; rfl
@[simp] theorem Dev.setCell_host (d : Dev) (n : Nat) (x : CellRt) : (d.setCell n x).host = d.host := by unfold Dev.setCell; rfl
@[simp] theorem Dev.setCell_tsets (d : Dev) (n : Nat) (x : CellRt) : (d.setCell n x).tsets = d.tsets := by unfold Dev.setCell; rfl
@[simp] theorem Dev.setCell_commits (d : Dev) (n : Nat) (x : CellRt) : (d.setCell n x).commits = d.commits := by unfold Dev.setCell; rfl
@[simp] theorem Dev.setCell_mode (d : Dev) (n : Nat) (x : CellRt) : (d.setCell n x).mode = d.mode := by unfold Dev.setCell; rfl
@[simp] theorem Dev.setCell_legs (d : Dev) (n : Nat) (x : CellRt) : (d.setCell n x).legs = d.legs := by unfold Dev.setCell; rfl
@[simp] theorem Dev.setCell_osier (d : Dev) (n : Nat) (x : CellRt) : (d.setCell n x).osier = d.osier := by unfold Dev.setCell; rfl
@[simp] theorem Dev.setCell_ports (d : Dev) (n : Nat) (x : CellRt) : (d.setCell n x).ports = d.ports := by unfold Dev.setCell; rfl
@[simp] theorem Dev.setCell_caps (d : Dev) (n : Nat) (x : CellRt) : (d.setCell n x).caps = d.caps := by unfold Dev.setCell; rfl
@[simp] theorem Dev.setCell_trigs (d : Dev) (n : Nat) (x : CellRt) : (d.setCell n x).trigs = d.trigs := by unfold Dev.setCell; rfl
@[simp] theorem Dev.setCell_ctxs (d : Dev) (n : Nat) (x : CellRt) : (d.setCell n x).ctxs = d.ctxs := by unfold Dev.setCell; rfl
@[simp] theorem Dev.setCell_eng (d : Dev) (n : Nat) (x : CellRt) : (d.setCell n x).eng = d.eng := by unfold Dev.setCell; rfl
@[simp] theorem Dev.setCell_grids (d : Dev) (n : Nat) (x : CellRt) : (d.setCell n x).grids = d.grids := by unfold Dev.setCell; rfl
@[simp] theorem Dev.setCell_isls (d : Dev) (n : Nat) (x : CellRt) : (d.setCell n x).isls = d.isls := by unfold Dev.setCell; rfl
@[simp] theorem Dev.setCell_spokes (d : Dev) (n : Nat) (x : CellRt) : (d.setCell n x).spokes = d.spokes := by unfold Dev.setCell; rfl
@[simp] theorem Dev.setCell_arms (d : Dev) (n : Nat) (x : CellRt) : (d.setCell n x).arms = d.arms := by unfold Dev.setCell; rfl
@[simp] theorem Dev.setCell_adcs (d : Dev) (n : Nat) (x : CellRt) : (d.setCell n x).adcs = d.adcs := by unfold Dev.setCell; rfl
@[simp] theorem Dev.setCell_sdis (d : Dev) (n : Nat) (x : CellRt) : (d.setCell n x).sdis = d.sdis := by unfold Dev.setCell; rfl
@[simp] theorem Dev.setCell_wins (d : Dev) (n : Nat) (x : CellRt) : (d.setCell n x).wins = d.wins := by unfold Dev.setCell; rfl
@[simp] theorem Dev.setCell_sup (d : Dev) (n : Nat) (x : CellRt) : (d.setCell n x).sup = d.sup := by unfold Dev.setCell; rfl
@[simp] theorem Dev.setCell_weave (d : Dev) (n : Nat) (x : CellRt) : (d.setCell n x).weave = d.weave := by unfold Dev.setCell; rfl
@[simp] theorem Dev.setCell_rim (d : Dev) (n : Nat) (x : CellRt) : (d.setCell n x).rim = d.rim := by unfold Dev.setCell; rfl
@[simp] theorem Dev.setCell_met (d : Dev) (n : Nat) (x : CellRt) : (d.setCell n x).met = d.met := by unfold Dev.setCell; rfl
@[simp] theorem Dev.setCell_lid (d : Dev) (n : Nat) (x : CellRt) : (d.setCell n x).lid = d.lid := by unfold Dev.setCell; rfl
@[simp] theorem Dev.setCell_pwr (d : Dev) (n : Nat) (x : CellRt) : (d.setCell n x).pwr = d.pwr := by unfold Dev.setCell; rfl
@[simp] theorem Dev.setCell_pins (d : Dev) (n : Nat) (x : CellRt) : (d.setCell n x).pins = d.pins := by unfold Dev.setCell; rfl
@[simp] theorem Dev.setCell_raw (d : Dev) (n : Nat) (x : CellRt) (q : Par) (j : Nat) : (d.setCell n x).raw q j = d.raw q j := by unfold Dev.setCell; rfl
@[simp] theorem Dev.setCell_get (d : Dev) (n : Nat) (x : CellRt) (q : Par) (j : Nat) : (d.setCell n x).get q j = d.get q j := by unfold Dev.setCell; rfl
@[simp] theorem Dev.setArm_now (d : Dev) (n : Nat) (x : ArmRt) : (d.setArm n x).now = d.now := by unfold Dev.setArm; rfl
@[simp] theorem Dev.setArm_beatStart (d : Dev) (n : Nat) (x : ArmRt) : (d.setArm n x).beatStart = d.beatStart := by unfold Dev.setArm; rfl
@[simp] theorem Dev.setArm_beatLen (d : Dev) (n : Nat) (x : ArmRt) : (d.setArm n x).beatLen = d.beatLen := by unfold Dev.setArm; rfl
@[simp] theorem Dev.setArm_newGrid (d : Dev) (n : Nat) (x : ArmRt) : (d.setArm n x).newGrid = d.newGrid := by unfold Dev.setArm; rfl
@[simp] theorem Dev.setArm_par (d : Dev) (n : Nat) (x : ArmRt) : (d.setArm n x).par = d.par := by unfold Dev.setArm; rfl
@[simp] theorem Dev.setArm_free (d : Dev) (n : Nat) (x : ArmRt) : (d.setArm n x).free = d.free := by unfold Dev.setArm; rfl
@[simp] theorem Dev.setArm_phase (d : Dev) (n : Nat) (x : ArmRt) : (d.setArm n x).phase = d.phase := by unfold Dev.setArm; rfl
@[simp] theorem Dev.setArm_evt (d : Dev) (n : Nat) (x : ArmRt) : (d.setArm n x).evt = d.evt := by unfold Dev.setArm; rfl
@[simp] theorem Dev.setArm_host (d : Dev) (n : Nat) (x : ArmRt) : (d.setArm n x).host = d.host := by unfold Dev.setArm; rfl
@[simp] theorem Dev.setArm_tsets (d : Dev) (n : Nat) (x : ArmRt) : (d.setArm n x).tsets = d.tsets := by unfold Dev.setArm; rfl
@[simp] theorem Dev.setArm_commits (d : Dev) (n : Nat) (x : ArmRt) : (d.setArm n x).commits = d.commits := by unfold Dev.setArm; rfl
@[simp] theorem Dev.setArm_mode (d : Dev) (n : Nat) (x : ArmRt) : (d.setArm n x).mode = d.mode := by unfold Dev.setArm; rfl
@[simp] theorem Dev.setArm_legs (d : Dev) (n : Nat) (x : ArmRt) : (d.setArm n x).legs = d.legs := by unfold Dev.setArm; rfl
@[simp] theorem Dev.setArm_osier (d : Dev) (n : Nat) (x : ArmRt) : (d.setArm n x).osier = d.osier := by unfold Dev.setArm; rfl
@[simp] theorem Dev.setArm_ports (d : Dev) (n : Nat) (x : ArmRt) : (d.setArm n x).ports = d.ports := by unfold Dev.setArm; rfl
@[simp] theorem Dev.setArm_caps (d : Dev) (n : Nat) (x : ArmRt) : (d.setArm n x).caps = d.caps := by unfold Dev.setArm; rfl
@[simp] theorem Dev.setArm_trigs (d : Dev) (n : Nat) (x : ArmRt) : (d.setArm n x).trigs = d.trigs := by unfold Dev.setArm; rfl
@[simp] theorem Dev.setArm_ctxs (d : Dev) (n : Nat) (x : ArmRt) : (d.setArm n x).ctxs = d.ctxs := by unfold Dev.setArm; rfl
@[simp] theorem Dev.setArm_eng (d : Dev) (n : Nat) (x : ArmRt) : (d.setArm n x).eng = d.eng := by unfold Dev.setArm; rfl
@[simp] theorem Dev.setArm_grids (d : Dev) (n : Nat) (x : ArmRt) : (d.setArm n x).grids = d.grids := by unfold Dev.setArm; rfl
@[simp] theorem Dev.setArm_isls (d : Dev) (n : Nat) (x : ArmRt) : (d.setArm n x).isls = d.isls := by unfold Dev.setArm; rfl
@[simp] theorem Dev.setArm_spokes (d : Dev) (n : Nat) (x : ArmRt) : (d.setArm n x).spokes = d.spokes := by unfold Dev.setArm; rfl
@[simp] theorem Dev.setArm_cells (d : Dev) (n : Nat) (x : ArmRt) : (d.setArm n x).cells = d.cells := by unfold Dev.setArm; rfl
@[simp] theorem Dev.setArm_adcs (d : Dev) (n : Nat) (x : ArmRt) : (d.setArm n x).adcs = d.adcs := by unfold Dev.setArm; rfl
@[simp] theorem Dev.setArm_sdis (d : Dev) (n : Nat) (x : ArmRt) : (d.setArm n x).sdis = d.sdis := by unfold Dev.setArm; rfl
@[simp] theorem Dev.setArm_wins (d : Dev) (n : Nat) (x : ArmRt) : (d.setArm n x).wins = d.wins := by unfold Dev.setArm; rfl
@[simp] theorem Dev.setArm_sup (d : Dev) (n : Nat) (x : ArmRt) : (d.setArm n x).sup = d.sup := by unfold Dev.setArm; rfl
@[simp] theorem Dev.setArm_weave (d : Dev) (n : Nat) (x : ArmRt) : (d.setArm n x).weave = d.weave := by unfold Dev.setArm; rfl
@[simp] theorem Dev.setArm_rim (d : Dev) (n : Nat) (x : ArmRt) : (d.setArm n x).rim = d.rim := by unfold Dev.setArm; rfl
@[simp] theorem Dev.setArm_met (d : Dev) (n : Nat) (x : ArmRt) : (d.setArm n x).met = d.met := by unfold Dev.setArm; rfl
@[simp] theorem Dev.setArm_lid (d : Dev) (n : Nat) (x : ArmRt) : (d.setArm n x).lid = d.lid := by unfold Dev.setArm; rfl
@[simp] theorem Dev.setArm_pwr (d : Dev) (n : Nat) (x : ArmRt) : (d.setArm n x).pwr = d.pwr := by unfold Dev.setArm; rfl
@[simp] theorem Dev.setArm_pins (d : Dev) (n : Nat) (x : ArmRt) : (d.setArm n x).pins = d.pins := by unfold Dev.setArm; rfl
@[simp] theorem Dev.setArm_raw (d : Dev) (n : Nat) (x : ArmRt) (q : Par) (j : Nat) : (d.setArm n x).raw q j = d.raw q j := by unfold Dev.setArm; rfl
@[simp] theorem Dev.setArm_get (d : Dev) (n : Nat) (x : ArmRt) (q : Par) (j : Nat) : (d.setArm n x).get q j = d.get q j := by unfold Dev.setArm; rfl
@[simp] theorem Dev.setSess_now (d : Dev) (n : Nat) (x : Sess) : (d.setSess n x).now = d.now := by unfold Dev.setSess; rfl
@[simp] theorem Dev.setSess_beatStart (d : Dev) (n : Nat) (x : Sess) : (d.setSess n x).beatStart = d.beatStart := by unfold Dev.setSess; rfl
@[simp] theorem Dev.setSess_beatLen (d : Dev) (n : Nat) (x : Sess) : (d.setSess n x).beatLen = d.beatLen := by unfold Dev.setSess; rfl
@[simp] theorem Dev.setSess_newGrid (d : Dev) (n : Nat) (x : Sess) : (d.setSess n x).newGrid = d.newGrid := by unfold Dev.setSess; rfl
@[simp] theorem Dev.setSess_par (d : Dev) (n : Nat) (x : Sess) : (d.setSess n x).par = d.par := by unfold Dev.setSess; rfl
@[simp] theorem Dev.setSess_free (d : Dev) (n : Nat) (x : Sess) : (d.setSess n x).free = d.free := by unfold Dev.setSess; rfl
@[simp] theorem Dev.setSess_phase (d : Dev) (n : Nat) (x : Sess) : (d.setSess n x).phase = d.phase := by unfold Dev.setSess; rfl
@[simp] theorem Dev.setSess_evt (d : Dev) (n : Nat) (x : Sess) : (d.setSess n x).evt = d.evt := by unfold Dev.setSess; rfl
@[simp] theorem Dev.setSess_tsets (d : Dev) (n : Nat) (x : Sess) : (d.setSess n x).tsets = d.tsets := by unfold Dev.setSess; rfl
@[simp] theorem Dev.setSess_commits (d : Dev) (n : Nat) (x : Sess) : (d.setSess n x).commits = d.commits := by unfold Dev.setSess; rfl
@[simp] theorem Dev.setSess_mode (d : Dev) (n : Nat) (x : Sess) : (d.setSess n x).mode = d.mode := by unfold Dev.setSess; rfl
@[simp] theorem Dev.setSess_legs (d : Dev) (n : Nat) (x : Sess) : (d.setSess n x).legs = d.legs := by unfold Dev.setSess; rfl
@[simp] theorem Dev.setSess_osier (d : Dev) (n : Nat) (x : Sess) : (d.setSess n x).osier = d.osier := by unfold Dev.setSess; rfl
@[simp] theorem Dev.setSess_ports (d : Dev) (n : Nat) (x : Sess) : (d.setSess n x).ports = d.ports := by unfold Dev.setSess; rfl
@[simp] theorem Dev.setSess_caps (d : Dev) (n : Nat) (x : Sess) : (d.setSess n x).caps = d.caps := by unfold Dev.setSess; rfl
@[simp] theorem Dev.setSess_trigs (d : Dev) (n : Nat) (x : Sess) : (d.setSess n x).trigs = d.trigs := by unfold Dev.setSess; rfl
@[simp] theorem Dev.setSess_ctxs (d : Dev) (n : Nat) (x : Sess) : (d.setSess n x).ctxs = d.ctxs := by unfold Dev.setSess; rfl
@[simp] theorem Dev.setSess_eng (d : Dev) (n : Nat) (x : Sess) : (d.setSess n x).eng = d.eng := by unfold Dev.setSess; rfl
@[simp] theorem Dev.setSess_grids (d : Dev) (n : Nat) (x : Sess) : (d.setSess n x).grids = d.grids := by unfold Dev.setSess; rfl
@[simp] theorem Dev.setSess_isls (d : Dev) (n : Nat) (x : Sess) : (d.setSess n x).isls = d.isls := by unfold Dev.setSess; rfl
@[simp] theorem Dev.setSess_spokes (d : Dev) (n : Nat) (x : Sess) : (d.setSess n x).spokes = d.spokes := by unfold Dev.setSess; rfl
@[simp] theorem Dev.setSess_cells (d : Dev) (n : Nat) (x : Sess) : (d.setSess n x).cells = d.cells := by unfold Dev.setSess; rfl
@[simp] theorem Dev.setSess_arms (d : Dev) (n : Nat) (x : Sess) : (d.setSess n x).arms = d.arms := by unfold Dev.setSess; rfl
@[simp] theorem Dev.setSess_adcs (d : Dev) (n : Nat) (x : Sess) : (d.setSess n x).adcs = d.adcs := by unfold Dev.setSess; rfl
@[simp] theorem Dev.setSess_sdis (d : Dev) (n : Nat) (x : Sess) : (d.setSess n x).sdis = d.sdis := by unfold Dev.setSess; rfl
@[simp] theorem Dev.setSess_wins (d : Dev) (n : Nat) (x : Sess) : (d.setSess n x).wins = d.wins := by unfold Dev.setSess; rfl
@[simp] theorem Dev.setSess_sup (d : Dev) (n : Nat) (x : Sess) : (d.setSess n x).sup = d.sup := by unfold Dev.setSess; rfl
@[simp] theorem Dev.setSess_weave (d : Dev) (n : Nat) (x : Sess) : (d.setSess n x).weave = d.weave := by unfold Dev.setSess; rfl
@[simp] theorem Dev.setSess_rim (d : Dev) (n : Nat) (x : Sess) : (d.setSess n x).rim = d.rim := by unfold Dev.setSess; rfl
@[simp] theorem Dev.setSess_met (d : Dev) (n : Nat) (x : Sess) : (d.setSess n x).met = d.met := by unfold Dev.setSess; rfl
@[simp] theorem Dev.setSess_lid (d : Dev) (n : Nat) (x : Sess) : (d.setSess n x).lid = d.lid := by unfold Dev.setSess; rfl
@[simp] theorem Dev.setSess_pwr (d : Dev) (n : Nat) (x : Sess) : (d.setSess n x).pwr = d.pwr := by unfold Dev.setSess; rfl
@[simp] theorem Dev.setSess_pins (d : Dev) (n : Nat) (x : Sess) : (d.setSess n x).pins = d.pins := by unfold Dev.setSess; rfl
@[simp] theorem Dev.setSess_raw (d : Dev) (n : Nat) (x : Sess) (q : Par) (j : Nat) : (d.setSess n x).raw q j = d.raw q j := by unfold Dev.setSess; rfl
@[simp] theorem Dev.setSess_get (d : Dev) (n : Nat) (x : Sess) (q : Par) (j : Nat) : (d.setSess n x).get q j = d.get q j := by unfold Dev.setSess; rfl
@[simp] theorem Dev.setRing_now (d : Dev) (n : Nat) (x : RingSt) : (d.setRing n x).now = d.now := by unfold Dev.setRing; rfl
@[simp] theorem Dev.setRing_beatStart (d : Dev) (n : Nat) (x : RingSt) : (d.setRing n x).beatStart = d.beatStart := by unfold Dev.setRing; rfl
@[simp] theorem Dev.setRing_beatLen (d : Dev) (n : Nat) (x : RingSt) : (d.setRing n x).beatLen = d.beatLen := by unfold Dev.setRing; rfl
@[simp] theorem Dev.setRing_newGrid (d : Dev) (n : Nat) (x : RingSt) : (d.setRing n x).newGrid = d.newGrid := by unfold Dev.setRing; rfl
@[simp] theorem Dev.setRing_par (d : Dev) (n : Nat) (x : RingSt) : (d.setRing n x).par = d.par := by unfold Dev.setRing; rfl
@[simp] theorem Dev.setRing_free (d : Dev) (n : Nat) (x : RingSt) : (d.setRing n x).free = d.free := by unfold Dev.setRing; rfl
@[simp] theorem Dev.setRing_phase (d : Dev) (n : Nat) (x : RingSt) : (d.setRing n x).phase = d.phase := by unfold Dev.setRing; rfl
@[simp] theorem Dev.setRing_evt (d : Dev) (n : Nat) (x : RingSt) : (d.setRing n x).evt = d.evt := by unfold Dev.setRing; rfl
@[simp] theorem Dev.setRing_tsets (d : Dev) (n : Nat) (x : RingSt) : (d.setRing n x).tsets = d.tsets := by unfold Dev.setRing; rfl
@[simp] theorem Dev.setRing_commits (d : Dev) (n : Nat) (x : RingSt) : (d.setRing n x).commits = d.commits := by unfold Dev.setRing; rfl
@[simp] theorem Dev.setRing_mode (d : Dev) (n : Nat) (x : RingSt) : (d.setRing n x).mode = d.mode := by unfold Dev.setRing; rfl
@[simp] theorem Dev.setRing_legs (d : Dev) (n : Nat) (x : RingSt) : (d.setRing n x).legs = d.legs := by unfold Dev.setRing; rfl
@[simp] theorem Dev.setRing_osier (d : Dev) (n : Nat) (x : RingSt) : (d.setRing n x).osier = d.osier := by unfold Dev.setRing; rfl
@[simp] theorem Dev.setRing_ports (d : Dev) (n : Nat) (x : RingSt) : (d.setRing n x).ports = d.ports := by unfold Dev.setRing; rfl
@[simp] theorem Dev.setRing_caps (d : Dev) (n : Nat) (x : RingSt) : (d.setRing n x).caps = d.caps := by unfold Dev.setRing; rfl
@[simp] theorem Dev.setRing_trigs (d : Dev) (n : Nat) (x : RingSt) : (d.setRing n x).trigs = d.trigs := by unfold Dev.setRing; rfl
@[simp] theorem Dev.setRing_ctxs (d : Dev) (n : Nat) (x : RingSt) : (d.setRing n x).ctxs = d.ctxs := by unfold Dev.setRing; rfl
@[simp] theorem Dev.setRing_eng (d : Dev) (n : Nat) (x : RingSt) : (d.setRing n x).eng = d.eng := by unfold Dev.setRing; rfl
@[simp] theorem Dev.setRing_grids (d : Dev) (n : Nat) (x : RingSt) : (d.setRing n x).grids = d.grids := by unfold Dev.setRing; rfl
@[simp] theorem Dev.setRing_isls (d : Dev) (n : Nat) (x : RingSt) : (d.setRing n x).isls = d.isls := by unfold Dev.setRing; rfl
@[simp] theorem Dev.setRing_spokes (d : Dev) (n : Nat) (x : RingSt) : (d.setRing n x).spokes = d.spokes := by unfold Dev.setRing; rfl
@[simp] theorem Dev.setRing_cells (d : Dev) (n : Nat) (x : RingSt) : (d.setRing n x).cells = d.cells := by unfold Dev.setRing; rfl
@[simp] theorem Dev.setRing_arms (d : Dev) (n : Nat) (x : RingSt) : (d.setRing n x).arms = d.arms := by unfold Dev.setRing; rfl
@[simp] theorem Dev.setRing_adcs (d : Dev) (n : Nat) (x : RingSt) : (d.setRing n x).adcs = d.adcs := by unfold Dev.setRing; rfl
@[simp] theorem Dev.setRing_sdis (d : Dev) (n : Nat) (x : RingSt) : (d.setRing n x).sdis = d.sdis := by unfold Dev.setRing; rfl
@[simp] theorem Dev.setRing_wins (d : Dev) (n : Nat) (x : RingSt) : (d.setRing n x).wins = d.wins := by unfold Dev.setRing; rfl
@[simp] theorem Dev.setRing_sup (d : Dev) (n : Nat) (x : RingSt) : (d.setRing n x).sup = d.sup := by unfold Dev.setRing; rfl
@[simp] theorem Dev.setRing_weave (d : Dev) (n : Nat) (x : RingSt) : (d.setRing n x).weave = d.weave := by unfold Dev.setRing; rfl
@[simp] theorem Dev.setRing_rim (d : Dev) (n : Nat) (x : RingSt) : (d.setRing n x).rim = d.rim := by unfold Dev.setRing; rfl
@[simp] theorem Dev.setRing_met (d : Dev) (n : Nat) (x : RingSt) : (d.setRing n x).met = d.met := by unfold Dev.setRing; rfl
@[simp] theorem Dev.setRing_lid (d : Dev) (n : Nat) (x : RingSt) : (d.setRing n x).lid = d.lid := by unfold Dev.setRing; rfl
@[simp] theorem Dev.setRing_pwr (d : Dev) (n : Nat) (x : RingSt) : (d.setRing n x).pwr = d.pwr := by unfold Dev.setRing; rfl
@[simp] theorem Dev.setRing_pins (d : Dev) (n : Nat) (x : RingSt) : (d.setRing n x).pins = d.pins := by unfold Dev.setRing; rfl
@[simp] theorem Dev.setRing_raw (d : Dev) (n : Nat) (x : RingSt) (q : Par) (j : Nat) : (d.setRing n x).raw q j = d.raw q j := by unfold Dev.setRing; rfl
@[simp] theorem Dev.setRing_get (d : Dev) (n : Nat) (x : RingSt) (q : Par) (j : Nat) : (d.setRing n x).get q j = d.get q j := by unfold Dev.setRing; rfl
@[simp] theorem Dev.setWport_now (d : Dev) (n : Nat) (x : WPort) : (d.setWport n x).now = d.now := by unfold Dev.setWport; rfl
@[simp] theorem Dev.setWport_beatStart (d : Dev) (n : Nat) (x : WPort) : (d.setWport n x).beatStart = d.beatStart := by unfold Dev.setWport; rfl
@[simp] theorem Dev.setWport_beatLen (d : Dev) (n : Nat) (x : WPort) : (d.setWport n x).beatLen = d.beatLen := by unfold Dev.setWport; rfl
@[simp] theorem Dev.setWport_newGrid (d : Dev) (n : Nat) (x : WPort) : (d.setWport n x).newGrid = d.newGrid := by unfold Dev.setWport; rfl
@[simp] theorem Dev.setWport_par (d : Dev) (n : Nat) (x : WPort) : (d.setWport n x).par = d.par := by unfold Dev.setWport; rfl
@[simp] theorem Dev.setWport_free (d : Dev) (n : Nat) (x : WPort) : (d.setWport n x).free = d.free := by unfold Dev.setWport; rfl
@[simp] theorem Dev.setWport_phase (d : Dev) (n : Nat) (x : WPort) : (d.setWport n x).phase = d.phase := by unfold Dev.setWport; rfl
@[simp] theorem Dev.setWport_evt (d : Dev) (n : Nat) (x : WPort) : (d.setWport n x).evt = d.evt := by unfold Dev.setWport; rfl
@[simp] theorem Dev.setWport_host (d : Dev) (n : Nat) (x : WPort) : (d.setWport n x).host = d.host := by unfold Dev.setWport; rfl
@[simp] theorem Dev.setWport_tsets (d : Dev) (n : Nat) (x : WPort) : (d.setWport n x).tsets = d.tsets := by unfold Dev.setWport; rfl
@[simp] theorem Dev.setWport_commits (d : Dev) (n : Nat) (x : WPort) : (d.setWport n x).commits = d.commits := by unfold Dev.setWport; rfl
@[simp] theorem Dev.setWport_mode (d : Dev) (n : Nat) (x : WPort) : (d.setWport n x).mode = d.mode := by unfold Dev.setWport; rfl
@[simp] theorem Dev.setWport_legs (d : Dev) (n : Nat) (x : WPort) : (d.setWport n x).legs = d.legs := by unfold Dev.setWport; rfl
@[simp] theorem Dev.setWport_osier (d : Dev) (n : Nat) (x : WPort) : (d.setWport n x).osier = d.osier := by unfold Dev.setWport; rfl
@[simp] theorem Dev.setWport_ports (d : Dev) (n : Nat) (x : WPort) : (d.setWport n x).ports = d.ports := by unfold Dev.setWport; rfl
@[simp] theorem Dev.setWport_caps (d : Dev) (n : Nat) (x : WPort) : (d.setWport n x).caps = d.caps := by unfold Dev.setWport; rfl
@[simp] theorem Dev.setWport_trigs (d : Dev) (n : Nat) (x : WPort) : (d.setWport n x).trigs = d.trigs := by unfold Dev.setWport; rfl
@[simp] theorem Dev.setWport_ctxs (d : Dev) (n : Nat) (x : WPort) : (d.setWport n x).ctxs = d.ctxs := by unfold Dev.setWport; rfl
@[simp] theorem Dev.setWport_eng (d : Dev) (n : Nat) (x : WPort) : (d.setWport n x).eng = d.eng := by unfold Dev.setWport; rfl
@[simp] theorem Dev.setWport_grids (d : Dev) (n : Nat) (x : WPort) : (d.setWport n x).grids = d.grids := by unfold Dev.setWport; rfl
@[simp] theorem Dev.setWport_isls (d : Dev) (n : Nat) (x : WPort) : (d.setWport n x).isls = d.isls := by unfold Dev.setWport; rfl
@[simp] theorem Dev.setWport_spokes (d : Dev) (n : Nat) (x : WPort) : (d.setWport n x).spokes = d.spokes := by unfold Dev.setWport; rfl
@[simp] theorem Dev.setWport_cells (d : Dev) (n : Nat) (x : WPort) : (d.setWport n x).cells = d.cells := by unfold Dev.setWport; rfl
@[simp] theorem Dev.setWport_arms (d : Dev) (n : Nat) (x : WPort) : (d.setWport n x).arms = d.arms := by unfold Dev.setWport; rfl
@[simp] theorem Dev.setWport_adcs (d : Dev) (n : Nat) (x : WPort) : (d.setWport n x).adcs = d.adcs := by unfold Dev.setWport; rfl
@[simp] theorem Dev.setWport_sdis (d : Dev) (n : Nat) (x : WPort) : (d.setWport n x).sdis = d.sdis := by unfold Dev.setWport; rfl
@[simp] theorem Dev.setWport_wins (d : Dev) (n : Nat) (x : WPort) : (d.setWport n x).wins = d.wins := by unfold Dev.setWport; rfl
@[simp] theorem Dev.setWport_sup (d : Dev) (n : Nat) (x : WPort) : (d.setWport n x).sup = d.sup := by unfold Dev.setWport; rfl
@[simp] theorem Dev.setWport_rim (d : Dev) (n : Nat) (x : WPort) : (d.setWport n x).rim = d.rim := by unfold Dev.setWport; rfl
@[simp] theorem Dev.setWport_met (d : Dev) (n : Nat) (x : WPort) : (d.setWport n x).met = d.met := by unfold Dev.setWport; rfl
@[simp] theorem Dev.setWport_lid (d : Dev) (n : Nat) (x : WPort) : (d.setWport n x).lid = d.lid := by unfold Dev.setWport; rfl
@[simp] theorem Dev.setWport_pwr (d : Dev) (n : Nat) (x : WPort) : (d.setWport n x).pwr = d.pwr := by unfold Dev.setWport; rfl
@[simp] theorem Dev.setWport_pins (d : Dev) (n : Nat) (x : WPort) : (d.setWport n x).pins = d.pins := by unfold Dev.setWport; rfl
@[simp] theorem Dev.setWport_raw (d : Dev) (n : Nat) (x : WPort) (q : Par) (j : Nat) : (d.setWport n x).raw q j = d.raw q j := by unfold Dev.setWport; rfl
@[simp] theorem Dev.setWport_get (d : Dev) (n : Nat) (x : WPort) (q : Par) (j : Nat) : (d.setWport n x).get q j = d.get q j := by unfold Dev.setWport; rfl
@[simp] theorem Dev.setTset_now (d : Dev) (n : Nat) (x : TblSet) : (d.setTset n x).now = d.now := by unfold Dev.setTset; rfl
@[simp] theorem Dev.setTset_beatStart (d : Dev) (n : Nat) (x : TblSet) : (d.setTset n x).beatStart = d.beatStart := by unfold Dev.setTset; rfl
@[simp] theorem Dev.setTset_beatLen (d : Dev) (n : Nat) (x : TblSet) : (d.setTset n x).beatLen = d.beatLen := by unfold Dev.setTset; rfl
@[simp] theorem Dev.setTset_newGrid (d : Dev) (n : Nat) (x : TblSet) : (d.setTset n x).newGrid = d.newGrid := by unfold Dev.setTset; rfl
@[simp] theorem Dev.setTset_par (d : Dev) (n : Nat) (x : TblSet) : (d.setTset n x).par = d.par := by unfold Dev.setTset; rfl
@[simp] theorem Dev.setTset_free (d : Dev) (n : Nat) (x : TblSet) : (d.setTset n x).free = d.free := by unfold Dev.setTset; rfl
@[simp] theorem Dev.setTset_phase (d : Dev) (n : Nat) (x : TblSet) : (d.setTset n x).phase = d.phase := by unfold Dev.setTset; rfl
@[simp] theorem Dev.setTset_evt (d : Dev) (n : Nat) (x : TblSet) : (d.setTset n x).evt = d.evt := by unfold Dev.setTset; rfl
@[simp] theorem Dev.setTset_host (d : Dev) (n : Nat) (x : TblSet) : (d.setTset n x).host = d.host := by unfold Dev.setTset; rfl
@[simp] theorem Dev.setTset_commits (d : Dev) (n : Nat) (x : TblSet) : (d.setTset n x).commits = d.commits := by unfold Dev.setTset; rfl
@[simp] theorem Dev.setTset_mode (d : Dev) (n : Nat) (x : TblSet) : (d.setTset n x).mode = d.mode := by unfold Dev.setTset; rfl
@[simp] theorem Dev.setTset_legs (d : Dev) (n : Nat) (x : TblSet) : (d.setTset n x).legs = d.legs := by unfold Dev.setTset; rfl
@[simp] theorem Dev.setTset_osier (d : Dev) (n : Nat) (x : TblSet) : (d.setTset n x).osier = d.osier := by unfold Dev.setTset; rfl
@[simp] theorem Dev.setTset_ports (d : Dev) (n : Nat) (x : TblSet) : (d.setTset n x).ports = d.ports := by unfold Dev.setTset; rfl
@[simp] theorem Dev.setTset_caps (d : Dev) (n : Nat) (x : TblSet) : (d.setTset n x).caps = d.caps := by unfold Dev.setTset; rfl
@[simp] theorem Dev.setTset_trigs (d : Dev) (n : Nat) (x : TblSet) : (d.setTset n x).trigs = d.trigs := by unfold Dev.setTset; rfl
@[simp] theorem Dev.setTset_ctxs (d : Dev) (n : Nat) (x : TblSet) : (d.setTset n x).ctxs = d.ctxs := by unfold Dev.setTset; rfl
@[simp] theorem Dev.setTset_eng (d : Dev) (n : Nat) (x : TblSet) : (d.setTset n x).eng = d.eng := by unfold Dev.setTset; rfl
@[simp] theorem Dev.setTset_grids (d : Dev) (n : Nat) (x : TblSet) : (d.setTset n x).grids = d.grids := by unfold Dev.setTset; rfl
@[simp] theorem Dev.setTset_isls (d : Dev) (n : Nat) (x : TblSet) : (d.setTset n x).isls = d.isls := by unfold Dev.setTset; rfl
@[simp] theorem Dev.setTset_spokes (d : Dev) (n : Nat) (x : TblSet) : (d.setTset n x).spokes = d.spokes := by unfold Dev.setTset; rfl
@[simp] theorem Dev.setTset_cells (d : Dev) (n : Nat) (x : TblSet) : (d.setTset n x).cells = d.cells := by unfold Dev.setTset; rfl
@[simp] theorem Dev.setTset_arms (d : Dev) (n : Nat) (x : TblSet) : (d.setTset n x).arms = d.arms := by unfold Dev.setTset; rfl
@[simp] theorem Dev.setTset_adcs (d : Dev) (n : Nat) (x : TblSet) : (d.setTset n x).adcs = d.adcs := by unfold Dev.setTset; rfl
@[simp] theorem Dev.setTset_sdis (d : Dev) (n : Nat) (x : TblSet) : (d.setTset n x).sdis = d.sdis := by unfold Dev.setTset; rfl
@[simp] theorem Dev.setTset_wins (d : Dev) (n : Nat) (x : TblSet) : (d.setTset n x).wins = d.wins := by unfold Dev.setTset; rfl
@[simp] theorem Dev.setTset_sup (d : Dev) (n : Nat) (x : TblSet) : (d.setTset n x).sup = d.sup := by unfold Dev.setTset; rfl
@[simp] theorem Dev.setTset_weave (d : Dev) (n : Nat) (x : TblSet) : (d.setTset n x).weave = d.weave := by unfold Dev.setTset; rfl
@[simp] theorem Dev.setTset_rim (d : Dev) (n : Nat) (x : TblSet) : (d.setTset n x).rim = d.rim := by unfold Dev.setTset; rfl
@[simp] theorem Dev.setTset_met (d : Dev) (n : Nat) (x : TblSet) : (d.setTset n x).met = d.met := by unfold Dev.setTset; rfl
@[simp] theorem Dev.setTset_lid (d : Dev) (n : Nat) (x : TblSet) : (d.setTset n x).lid = d.lid := by unfold Dev.setTset; rfl
@[simp] theorem Dev.setTset_pwr (d : Dev) (n : Nat) (x : TblSet) : (d.setTset n x).pwr = d.pwr := by unfold Dev.setTset; rfl
@[simp] theorem Dev.setTset_pins (d : Dev) (n : Nat) (x : TblSet) : (d.setTset n x).pins = d.pins := by unfold Dev.setTset; rfl
@[simp] theorem Dev.setTset_raw (d : Dev) (n : Nat) (x : TblSet) (q : Par) (j : Nat) : (d.setTset n x).raw q j = d.raw q j := by unfold Dev.setTset; rfl
@[simp] theorem Dev.setTset_get (d : Dev) (n : Nat) (x : TblSet) (q : Par) (j : Nat) : (d.setTset n x).get q j = d.get q j := by unfold Dev.setTset; rfl
@[simp] theorem Dev.setSig_now (d : Dev) (n : Nat) (x : Sig) : (d.setSig n x).now = d.now := by unfold Dev.setSig; rfl
@[simp] theorem Dev.setSig_beatStart (d : Dev) (n : Nat) (x : Sig) : (d.setSig n x).beatStart = d.beatStart := by unfold Dev.setSig; rfl
@[simp] theorem Dev.setSig_beatLen (d : Dev) (n : Nat) (x : Sig) : (d.setSig n x).beatLen = d.beatLen := by unfold Dev.setSig; rfl
@[simp] theorem Dev.setSig_newGrid (d : Dev) (n : Nat) (x : Sig) : (d.setSig n x).newGrid = d.newGrid := by unfold Dev.setSig; rfl
@[simp] theorem Dev.setSig_par (d : Dev) (n : Nat) (x : Sig) : (d.setSig n x).par = d.par := by unfold Dev.setSig; rfl
@[simp] theorem Dev.setSig_free (d : Dev) (n : Nat) (x : Sig) : (d.setSig n x).free = d.free := by unfold Dev.setSig; rfl
@[simp] theorem Dev.setSig_phase (d : Dev) (n : Nat) (x : Sig) : (d.setSig n x).phase = d.phase := by unfold Dev.setSig; rfl
@[simp] theorem Dev.setSig_evt (d : Dev) (n : Nat) (x : Sig) : (d.setSig n x).evt = d.evt := by unfold Dev.setSig; rfl
@[simp] theorem Dev.setSig_host (d : Dev) (n : Nat) (x : Sig) : (d.setSig n x).host = d.host := by unfold Dev.setSig; rfl
@[simp] theorem Dev.setSig_tsets (d : Dev) (n : Nat) (x : Sig) : (d.setSig n x).tsets = d.tsets := by unfold Dev.setSig; rfl
@[simp] theorem Dev.setSig_commits (d : Dev) (n : Nat) (x : Sig) : (d.setSig n x).commits = d.commits := by unfold Dev.setSig; rfl
@[simp] theorem Dev.setSig_mode (d : Dev) (n : Nat) (x : Sig) : (d.setSig n x).mode = d.mode := by unfold Dev.setSig; rfl
@[simp] theorem Dev.setSig_legs (d : Dev) (n : Nat) (x : Sig) : (d.setSig n x).legs = d.legs := by unfold Dev.setSig; rfl
@[simp] theorem Dev.setSig_osier (d : Dev) (n : Nat) (x : Sig) : (d.setSig n x).osier = d.osier := by unfold Dev.setSig; rfl
@[simp] theorem Dev.setSig_ports (d : Dev) (n : Nat) (x : Sig) : (d.setSig n x).ports = d.ports := by unfold Dev.setSig; rfl
@[simp] theorem Dev.setSig_caps (d : Dev) (n : Nat) (x : Sig) : (d.setSig n x).caps = d.caps := by unfold Dev.setSig; rfl
@[simp] theorem Dev.setSig_trigs (d : Dev) (n : Nat) (x : Sig) : (d.setSig n x).trigs = d.trigs := by unfold Dev.setSig; rfl
@[simp] theorem Dev.setSig_ctxs (d : Dev) (n : Nat) (x : Sig) : (d.setSig n x).ctxs = d.ctxs := by unfold Dev.setSig; rfl
@[simp] theorem Dev.setSig_eng (d : Dev) (n : Nat) (x : Sig) : (d.setSig n x).eng = d.eng := by unfold Dev.setSig; rfl
@[simp] theorem Dev.setSig_grids (d : Dev) (n : Nat) (x : Sig) : (d.setSig n x).grids = d.grids := by unfold Dev.setSig; rfl
@[simp] theorem Dev.setSig_isls (d : Dev) (n : Nat) (x : Sig) : (d.setSig n x).isls = d.isls := by unfold Dev.setSig; rfl
@[simp] theorem Dev.setSig_spokes (d : Dev) (n : Nat) (x : Sig) : (d.setSig n x).spokes = d.spokes := by unfold Dev.setSig; rfl
@[simp] theorem Dev.setSig_cells (d : Dev) (n : Nat) (x : Sig) : (d.setSig n x).cells = d.cells := by unfold Dev.setSig; rfl
@[simp] theorem Dev.setSig_arms (d : Dev) (n : Nat) (x : Sig) : (d.setSig n x).arms = d.arms := by unfold Dev.setSig; rfl
@[simp] theorem Dev.setSig_adcs (d : Dev) (n : Nat) (x : Sig) : (d.setSig n x).adcs = d.adcs := by unfold Dev.setSig; rfl
@[simp] theorem Dev.setSig_sdis (d : Dev) (n : Nat) (x : Sig) : (d.setSig n x).sdis = d.sdis := by unfold Dev.setSig; rfl
@[simp] theorem Dev.setSig_wins (d : Dev) (n : Nat) (x : Sig) : (d.setSig n x).wins = d.wins := by unfold Dev.setSig; rfl
@[simp] theorem Dev.setSig_sup (d : Dev) (n : Nat) (x : Sig) : (d.setSig n x).sup = d.sup := by unfold Dev.setSig; rfl
@[simp] theorem Dev.setSig_rim (d : Dev) (n : Nat) (x : Sig) : (d.setSig n x).rim = d.rim := by unfold Dev.setSig; rfl
@[simp] theorem Dev.setSig_met (d : Dev) (n : Nat) (x : Sig) : (d.setSig n x).met = d.met := by unfold Dev.setSig; rfl
@[simp] theorem Dev.setSig_lid (d : Dev) (n : Nat) (x : Sig) : (d.setSig n x).lid = d.lid := by unfold Dev.setSig; rfl
@[simp] theorem Dev.setSig_pwr (d : Dev) (n : Nat) (x : Sig) : (d.setSig n x).pwr = d.pwr := by unfold Dev.setSig; rfl
@[simp] theorem Dev.setSig_pins (d : Dev) (n : Nat) (x : Sig) : (d.setSig n x).pins = d.pins := by unfold Dev.setSig; rfl
@[simp] theorem Dev.setSig_raw (d : Dev) (n : Nat) (x : Sig) (q : Par) (j : Nat) : (d.setSig n x).raw q j = d.raw q j := by unfold Dev.setSig; rfl
@[simp] theorem Dev.setSig_get (d : Dev) (n : Nat) (x : Sig) (q : Par) (j : Nat) : (d.setSig n x).get q j = d.get q j := by unfold Dev.setSig; rfl

end Sys2Proof.Machine
end

