-- ==== Sys2Proof/Laws/FrameBase.lean ====
section
/-! SUPPORT. Frames: for every operation, which groups of parameters and which parts of the device it may change (`Dev.Agree`). One lemma per
operation; a caller's frame follows from those of the operations it calls. -/

namespace Sys2Proof.Machine

/-! ## Frames compose -/

theorem Dev.Agree.refl {cs : List Nat} {fs : List Fld} {d : Dev} : d.Agree cs fs d :=
  ⟨fun _ _ _ _ => rfl, fun f _ => by cases f <;> rfl⟩

theorem Fld.same_trans {a b c : Dev} {f : Fld} (h : f.same a b) (g : f.same b c) : f.same a c := by
  cases f <;> exact Eq.trans g h

theorem Dev.Agree.trans {cs : List Nat} {fs : List Fld} {a b c : Dev} (h : a.Agree cs fs b) (g : b.Agree cs fs c) : a.Agree cs fs c :=
  ⟨fun p i hp hc => (g.1 p i hp hc).trans (h.1 p i hp hc), fun f hf => Fld.same_trans (h.2 f hf) (g.2 f hf)⟩

/-- One list lies within another. -/
def within {α : Type} [DecidableEq α] (a b : List α) : Bool := a.all b.contains

theorem within_not {α : Type} [DecidableEq α] {a b : List α} (h : within a b = true) {x : α} (hx : b.contains x = false) : a.contains x = false := by
  cases hc : a.contains x with
  | false => rfl
  | true =>
    have := List.all_eq_true.mp h x (by simpa using hc)
    rw [this] at hx
    cases hx

theorem Dev.Agree.mono {cs cs' : List Nat} {fs fs' : List Fld} {a b : Dev} (h : a.Agree cs fs b) (hc : within cs cs' = true)
    (hf : within fs fs' = true) : a.Agree cs' fs' b :=
  ⟨fun p i hp hg => h.1 p i hp (within_not hc hg), fun f hg => h.2 f (within_not hf hg)⟩

/-- One more operation, whose frame is known. -/
theorem Dev.Agree.step {cs gs : List Nat} {fs hs : List Fld} {a x y : Dev} (g : x.Agree gs hs y) (hc : within gs cs = true)
    (hf : within hs fs = true) (h : a.Agree cs fs x) : a.Agree cs fs y := h.trans (g.mono hc hf)

/-- Reading a parameter across a frame. -/
theorem Dev.Agree.get {cs : List Nat} {fs : List Fld} {a b : Dev} (h : a.Agree cs fs b) (p : Par) (i : Nat) (hp : p.small = true)
    (hc : cs.contains p.group = false) : b.get p i = a.get p i := by simp only [Dev.get, h.1 p i hp hc]

theorem Dev.Agree.getF {cs : List Nat} {fs : List Fld} {a b : Dev} (h : a.Agree cs fs b) (p : Par) (i : Nat) (hp : p.small = true)
    (hc : cs.contains p.group = false) : b.getF p i = a.getF p i := by simp only [Dev.getF, h.1 p i hp hc]

theorem Dev.Agree.have {cs : List Nat} {fs : List Fld} {a x : Dev} {P : Prop} (h : a.Agree cs fs x) (k : a.Agree cs fs x → P) : P := k h

/-! ## Frames of plain updates -/

theorem Dev.Agree.setRaw {cs : List Nat} {fs : List Fld} {a d : Dev} {p : Par} {i : Nat} {v : W64} (hs : p.small = true)
    (hc : cs.contains p.group = true) (h : a.Agree cs fs d) : a.Agree cs fs (d.setRaw p i v) := by
  refine h.trans ⟨fun q j hq hg => ?_, fun f _ => by cases f <;> rfl⟩
  refine Dev.raw_setRaw_apart d i j v ?_
  have hne : q ≠ p := fun e => by rw [e, hc] at hg; cases hg
  simp [Par.apart, hne, hq, hs]

theorem Dev.Agree.put {cs : List Nat} {fs : List Fld} {a d : Dev} {p : Par} {i : Nat} {v : Nat} (hs : p.small = true)
    (hc : cs.contains p.group = true) (h : a.Agree cs fs d) : a.Agree cs fs (d.put p i v) := Dev.Agree.setRaw hs hc h
theorem Dev.Agree.putF {cs : List Nat} {fs : List Fld} {a d : Dev} {p : Par} {i : Nat} {v : F32} (hs : p.small = true)
    (hc : cs.contains p.group = true) (h : a.Agree cs fs d) : a.Agree cs fs (d.putF p i v) := Dev.Agree.setRaw hs hc h
theorem Dev.Agree.putI {cs : List Nat} {fs : List Fld} {a d : Dev} {p : Par} {i : Nat} {v : Int} (hs : p.small = true)
    (hc : cs.contains p.group = true) (h : a.Agree cs fs d) : a.Agree cs fs (d.putI p i v) := Dev.Agree.setRaw hs hc h
theorem Dev.Agree.putBit {cs : List Nat} {fs : List Fld} {a d : Dev} {p : Par} {i b : Nat} {v : Bool} (hs : p.small = true)
    (hc : cs.contains p.group = true) (h : a.Agree cs fs d) : a.Agree cs fs (d.putBit p i b v) := Dev.Agree.setRaw hs hc h
theorem Dev.Agree.inc {cs : List Nat} {fs : List Fld} {a d : Dev} {w : Nat} {p : Par} {i n : Nat} (hs : p.small = true)
    (hc : cs.contains p.group = true) (h : a.Agree cs fs d) : a.Agree cs fs (d.inc w p i n) := Dev.Agree.setRaw hs hc h

/-! ## Frames through the shapes of a definition -/

theorem Dev.Agree.letD {cs : List Nat} {fs : List Fld} {a e : Dev} {f : Dev → Dev} (he : a.Agree cs fs e)
    (hf : ∀ x, a.Agree cs fs x → a.Agree cs fs (f x)) : a.Agree cs fs (let x := e; f x) := hf e he
theorem Dev.Agree.letP {α : Type} {cs : List Nat} {fs : List Fld} {a : Dev} {e : α × Dev} {f : α × Dev → Dev} (he : a.Agree cs fs e.2)
    (hf : ∀ x, a.Agree cs fs x.2 → a.Agree cs fs (f x)) : a.Agree cs fs (let x := e; f x) := hf e he
theorem Dev.Agree.letA {α : Sort _} {cs : List Nat} {fs : List Fld} {a : Dev} {e : α} {f : α → Dev}
    (hf : ∀ x, a.Agree cs fs (f x)) : a.Agree cs fs (let x := e; f x) := hf e
theorem Dev.Agree.letD2 {β : Type} {cs : List Nat} {fs : List Fld} {a e : Dev} {f : Dev → β × Dev} (he : a.Agree cs fs e)
    (hf : ∀ x, a.Agree cs fs x → a.Agree cs fs (f x).2) : a.Agree cs fs (let x := e; f x).2 := hf e he
theorem Dev.Agree.letP2 {α β : Type} {cs : List Nat} {fs : List Fld} {a : Dev} {e : α × Dev} {f : α × Dev → β × Dev} (he : a.Agree cs fs e.2)
    (hf : ∀ x, a.Agree cs fs x.2 → a.Agree cs fs (f x).2) : a.Agree cs fs (let x := e; f x).2 := hf e he
theorem Dev.Agree.letA2 {α : Sort _} {β : Type} {cs : List Nat} {fs : List Fld} {a : Dev} {e : α} {f : α → β × Dev}
    (hf : ∀ x, a.Agree cs fs (f x).2) : a.Agree cs fs (let x := e; f x).2 := hf e

theorem Dev.Agree.foldl {α : Type} {cs : List Nat} {fs : List Fld} {a : Dev} {f : Dev → α → Dev} (hf : ∀ x y, a.Agree cs fs x → a.Agree cs fs (f x y))
    {xs : List α} {d : Dev} (h : a.Agree cs fs d) : a.Agree cs fs (xs.foldl f d) := by
  induction xs generalizing d with
  | nil => exact h
  | cons x xs ih => exact ih (hf d x h)
theorem Dev.Agree.foldl2 {α β : Type} {cs : List Nat} {fs : List Fld} {a : Dev} {f : β × Dev → α → β × Dev}
    (hf : ∀ x y, a.Agree cs fs x.2 → a.Agree cs fs (f x y).2)
    {xs : List α} {r : β × Dev} (h : a.Agree cs fs r.2) : a.Agree cs fs (xs.foldl f r).2 := by
  induction xs generalizing r with
  | nil => exact h
  | cons x xs ih => exact ih (hf r x h)
theorem Dev.Agree.foldl3 {α β γ : Type} {cs : List Nat} {fs : List Fld} {a : Dev} {f : β × γ × Dev → α → β × γ × Dev}
    (hf : ∀ x y, a.Agree cs fs x.2.2 → a.Agree cs fs (f x y).2.2)
    {xs : List α} {r : β × γ × Dev} (h : a.Agree cs fs r.2.2) : a.Agree cs fs (xs.foldl f r).2.2 := by
  induction xs generalizing r with
  | nil => exact h
  | cons x xs ih => exact ih (hf r x h)
theorem Dev.Agree.forN {cs : List Nat} {fs : List Fld} {a d : Dev} {n : Nat} {f : Dev → Nat → Dev}
    (hf : ∀ x y, a.Agree cs fs x → a.Agree cs fs (f x y)) (h : a.Agree cs fs d) : a.Agree cs fs (d.forN n f) := Dev.Agree.foldl hf h
theorem Dev.Agree.forL {α : Type} {cs : List Nat} {fs : List Fld} {a d : Dev} {xs : List α} {f : Dev → α → Dev}
    (hf : ∀ x y, a.Agree cs fs x → a.Agree cs fs (f x y)) (h : a.Agree cs fs d) : a.Agree cs fs (d.forL xs f) := Dev.Agree.foldl hf h

theorem Dev.Agree.ite2 {β : Type} {cs : List Nat} {fs : List Fld} {a : Dev} {x y : β × Dev} {c : Prop} {i : Decidable c} (h : c → a.Agree cs fs x.2)
    (g : ¬c → a.Agree cs fs y.2) : a.Agree cs fs (if c then x else y).2 := by
  cases i with
  | isTrue hc => exact h hc
  | isFalse hc => exact g hc

/-- The frame of an operation that answers nothing, or a status and a device. -/
def Dev.AgreeO {α : Type} (cs : List Nat) (fs : List Fld) (d : Dev) : Option (α × Dev) → Prop
  | none => True
  | some r => d.Agree cs fs r.2

theorem Dev.AgreeO.no {cs : List Nat} {fs : List Fld} {a d : Dev} {st : Nat} (h : a.Agree cs fs d) : a.AgreeO cs fs (no d st) := h
theorem Dev.AgreeO.did {cs : List Nat} {fs : List Fld} {a d : Dev} (h : a.Agree cs fs d) : a.AgreeO cs fs (did d) := h
theorem Dev.AgreeO.some {α : Type} {cs : List Nat} {fs : List Fld} {a : Dev} {r : α × Dev} (h : a.Agree cs fs r.2) : a.AgreeO cs fs (some r) := h
theorem Dev.AgreeO.letA {α : Sort _} {β : Type} {cs : List Nat} {fs : List Fld} {a : Dev} {e : α} {f : α → Option (β × Dev)}
    (hf : ∀ x, a.AgreeO cs fs (f x)) : a.AgreeO cs fs (let x := e; f x) := hf e
theorem Dev.AgreeO.letD {β : Type} {cs : List Nat} {fs : List Fld} {a e : Dev} {f : Dev → Option (β × Dev)} (he : a.Agree cs fs e)
    (hf : ∀ x, a.Agree cs fs x → a.AgreeO cs fs (f x)) : a.AgreeO cs fs (let x := e; f x) := hf e he
theorem Dev.AgreeO.letP {α β : Type} {cs : List Nat} {fs : List Fld} {a : Dev} {e : α × Dev} {f : α × Dev → Option (β × Dev)} (he : a.Agree cs fs e.2)
    (hf : ∀ x, a.Agree cs fs x.2 → a.AgreeO cs fs (f x)) : a.AgreeO cs fs (let x := e; f x) := hf e he
theorem Dev.AgreeO.step {α : Type} {cs gs : List Nat} {fs hs : List Fld} {a x : Dev} {o : Option (α × Dev)} (g : x.AgreeO gs hs o)
    (hc : within gs cs = true) (hf : within hs fs = true) (h : a.Agree cs fs x) : a.AgreeO cs fs o := by
  cases o with
  | none => exact trivial
  | some r => exact Dev.Agree.step g hc hf h

theorem Dev.Agree.ite {cs : List Nat} {fs : List Fld} {a x y : Dev} {c : Prop} {i : Decidable c} (h : c → a.Agree cs fs x)
    (g : ¬c → a.Agree cs fs y) : a.Agree cs fs (if c then x else y) := by
  cases i with
  | isTrue hc => exact h hc
  | isFalse hc => exact g hc
theorem Dev.Agree.atCycle {cs : List Nat} {fs : List Fld} {a d : Dev} {t : Nat} {f : Dev → Dev} (hf : ∀ x : Dev, x.Agree cs fs (f x))
    (h : a.Agree cs fs d) : a.Agree cs fs (d.atCycle t f) := by
  refine h.trans ?_
  have g := hf { d with now := d.beatStart + fineNs t }
  refine ⟨fun p i hp hc => g.1 p i hp hc, fun k hk => ?_⟩
  have e := g.2 k hk
  cases k <;> first | exact e | rfl
theorem Dev.Agree.whenUp {cs : List Nat} {fs : List Fld} {a d : Dev} {f : Dev → Dev} (hf : a.Agree cs fs d → a.Agree cs fs (f d))
    (h : a.Agree cs fs d) : a.Agree cs fs (d.whenUp f) := by
  unfold Dev.whenUp
  exact Dev.Agree.ite (fun _ => hf h) (fun _ => h)
theorem Dev.Agree.whenOn {cs : List Nat} {fs : List Fld} {a d : Dev} {n : Nat} {f : Dev → Dev} (hf : a.Agree cs fs d → a.Agree cs fs (f d))
    (h : a.Agree cs fs d) : a.Agree cs fs (d.whenOn n f) := by
  unfold Dev.whenOn
  exact Dev.Agree.ite (fun _ => hf h) (fun _ => h)
theorem Dev.Agree.whenControl {cs : List Nat} {fs : List Fld} {a d : Dev} {f : Dev → Dev} (hf : a.Agree cs fs d → a.Agree cs fs (f d))
    (h : a.Agree cs fs d) : a.Agree cs fs (d.whenControl f) := by
  unfold Dev.whenControl
  exact Dev.Agree.ite (fun _ => hf h) (fun _ => h)
theorem Dev.Agree.whenService {cs : List Nat} {fs : List Fld} {a d : Dev} {f : Dev → Dev} (hf : a.Agree cs fs d → a.Agree cs fs (f d))
    (h : a.Agree cs fs d) : a.Agree cs fs (d.whenService f) := by
  unfold Dev.whenService
  exact Dev.Agree.ite (fun _ => h) (fun _ => hf h)
/-- An update of several parts at once. -/
theorem Dev.Agree.upd {cs : List Nat} {fs : List Fld} {a x y : Dev} (h : a.Agree cs fs x) (hp : y.par = x.par)
    (hf : ∀ f : Fld, fs.contains f = false → f.same x y) : a.Agree cs fs y :=
  h.trans ⟨fun p i _ _ => by simp only [Dev.raw, hp], hf⟩
theorem Dev.AgreeO.none {α : Type} {cs : List Nat} {fs : List Fld} {a : Dev} : a.AgreeO cs fs (Option.none (α := α × Dev)) := trivial
theorem Dev.AgreeO.getD {α : Type} {cs : List Nat} {fs : List Fld} {a : Dev} {o : Option (α × Dev)} {r : α × Dev} (h : a.AgreeO cs fs o)
    (g : a.Agree cs fs r.2) : a.Agree cs fs (o.getD r).2 := by
  cases o with
  | none => exact g
  | some x => exact h
theorem within_has {a b : List Nat} {x : Nat} (hx : a.contains x = true) (h : within a b = true) : b.contains x = true := by
  cases hc : b.contains x with
  | true => rfl
  | false => rw [within_not h hc] at hx; cases hx

/-- A class other than that of the beat is its own group. -/
theorem Par.group_of_cls {p : Par} {c : Nat} (h : p.cls = c) (hc : c ≠ 2) : p.group = c := by
  unfold Par.group
  split
  · rename_i e; rw [e] at h; exact absurd h.symm hc
  · exact h

theorem regPar_ok (k : Nat) : (regPar k).small = true ∧ (regPar k).group = 0x50 := by
  refine ⟨?_, Par.group_of_cls rfl (by decide)⟩
  have h : Par.metrAImp.idx + k % 7 < 65536 := by
    have : k % 7 < 7 := Nat.mod_lt _ (by decide)
    have h0 : Par.metrAImp.idx < 1000 := by decide
    omega
  simp [Par.small, regPar, h]
theorem Dev.AgreeO.ite {α : Type} {cs : List Nat} {fs : List Fld} {a : Dev} {x y : Option (α × Dev)} {c : Prop} {i : Decidable c}
    (h : c → a.AgreeO cs fs x) (g : ¬c → a.AgreeO cs fs y) : a.AgreeO cs fs (if c then x else y) := by
  cases i with
  | isTrue hc => exact h hc
  | isFalse hc => exact g hc
/-- The two comparators of a window. -/
theorem winComp_ok (c : Nat) : (winComp c).small = true ∧ (winComp c).group = 0x42 := by
  unfold winComp
  split <;> exact ⟨by decide, by decide⟩

theorem Dev.Agree.upd_now {cs : List Nat} {fs : List Fld} {a d : Dev} {v} (h1 : fs.contains .now = true) (h : a.Agree cs fs d) :
    a.Agree cs fs { d with now := v } := by
  refine h.trans ⟨fun _ _ _ _ => rfl, fun f hf => ?_⟩
  cases f <;> first | rfl | (rw [h1] at hf; cases hf)
theorem Dev.Agree.upd_beatStart {cs : List Nat} {fs : List Fld} {a d : Dev} {v} (h1 : fs.contains .beatStart = true) (h : a.Agree cs fs d) :
    a.Agree cs fs { d with beatStart := v } := by
  refine h.trans ⟨fun _ _ _ _ => rfl, fun f hf => ?_⟩
  cases f <;> first | rfl | (rw [h1] at hf; cases hf)
theorem Dev.Agree.upd_beatLen {cs : List Nat} {fs : List Fld} {a d : Dev} {v} (h1 : fs.contains .beatLen = true) (h : a.Agree cs fs d) :
    a.Agree cs fs { d with beatLen := v } := by
  refine h.trans ⟨fun _ _ _ _ => rfl, fun f hf => ?_⟩
  cases f <;> first | rfl | (rw [h1] at hf; cases hf)
theorem Dev.Agree.upd_newGrid {cs : List Nat} {fs : List Fld} {a d : Dev} {v} (h1 : fs.contains .newGrid = true) (h : a.Agree cs fs d) :
    a.Agree cs fs { d with newGrid := v } := by
  refine h.trans ⟨fun _ _ _ _ => rfl, fun f hf => ?_⟩
  cases f <;> first | rfl | (rw [h1] at hf; cases hf)
theorem Dev.Agree.upd_free {cs : List Nat} {fs : List Fld} {a d : Dev} {v} (h1 : fs.contains .free = true) (h : a.Agree cs fs d) :
    a.Agree cs fs { d with free := v } := by
  refine h.trans ⟨fun _ _ _ _ => rfl, fun f hf => ?_⟩
  cases f <;> first | rfl | (rw [h1] at hf; cases hf)
theorem Dev.Agree.upd_phase {cs : List Nat} {fs : List Fld} {a d : Dev} {v} (h1 : fs.contains .phase = true) (h : a.Agree cs fs d) :
    a.Agree cs fs { d with phase := v } := by
  refine h.trans ⟨fun _ _ _ _ => rfl, fun f hf => ?_⟩
  cases f <;> first | rfl | (rw [h1] at hf; cases hf)
theorem Dev.Agree.upd_evt {cs : List Nat} {fs : List Fld} {a d : Dev} {v} (h1 : fs.contains .evt = true) (h : a.Agree cs fs d) :
    a.Agree cs fs { d with evt := v } := by
  refine h.trans ⟨fun _ _ _ _ => rfl, fun f hf => ?_⟩
  cases f <;> first | rfl | (rw [h1] at hf; cases hf)
theorem Dev.Agree.upd_host {cs : List Nat} {fs : List Fld} {a d : Dev} {v} (h1 : fs.contains .host = true) (h : a.Agree cs fs d) :
    a.Agree cs fs { d with host := v } := by
  refine h.trans ⟨fun _ _ _ _ => rfl, fun f hf => ?_⟩
  cases f <;> first | rfl | (rw [h1] at hf; cases hf)
theorem Dev.Agree.upd_tsets {cs : List Nat} {fs : List Fld} {a d : Dev} {v} (h1 : fs.contains .tsets = true) (h : a.Agree cs fs d) :
    a.Agree cs fs { d with tsets := v } := by
  refine h.trans ⟨fun _ _ _ _ => rfl, fun f hf => ?_⟩
  cases f <;> first | rfl | (rw [h1] at hf; cases hf)
theorem Dev.Agree.upd_commits {cs : List Nat} {fs : List Fld} {a d : Dev} {v} (h1 : fs.contains .commits = true) (h : a.Agree cs fs d) :
    a.Agree cs fs { d with commits := v } := by
  refine h.trans ⟨fun _ _ _ _ => rfl, fun f hf => ?_⟩
  cases f <;> first | rfl | (rw [h1] at hf; cases hf)
theorem Dev.Agree.upd_mode {cs : List Nat} {fs : List Fld} {a d : Dev} {v} (h1 : fs.contains .mode = true) (h : a.Agree cs fs d) :
    a.Agree cs fs { d with mode := v } := by
  refine h.trans ⟨fun _ _ _ _ => rfl, fun f hf => ?_⟩
  cases f <;> first | rfl | (rw [h1] at hf; cases hf)
theorem Dev.Agree.upd_legs {cs : List Nat} {fs : List Fld} {a d : Dev} {v} (h1 : fs.contains .legs = true) (h : a.Agree cs fs d) :
    a.Agree cs fs { d with legs := v } := by
  refine h.trans ⟨fun _ _ _ _ => rfl, fun f hf => ?_⟩
  cases f <;> first | rfl | (rw [h1] at hf; cases hf)
theorem Dev.Agree.upd_osier {cs : List Nat} {fs : List Fld} {a d : Dev} {v} (h1 : fs.contains .osier = true) (h : a.Agree cs fs d) :
    a.Agree cs fs { d with osier := v } := by
  refine h.trans ⟨fun _ _ _ _ => rfl, fun f hf => ?_⟩
  cases f <;> first | rfl | (rw [h1] at hf; cases hf)
theorem Dev.Agree.upd_ports {cs : List Nat} {fs : List Fld} {a d : Dev} {v} (h1 : fs.contains .ports = true) (h : a.Agree cs fs d) :
    a.Agree cs fs { d with ports := v } := by
  refine h.trans ⟨fun _ _ _ _ => rfl, fun f hf => ?_⟩
  cases f <;> first | rfl | (rw [h1] at hf; cases hf)
theorem Dev.Agree.upd_caps {cs : List Nat} {fs : List Fld} {a d : Dev} {v} (h1 : fs.contains .caps = true) (h : a.Agree cs fs d) :
    a.Agree cs fs { d with caps := v } := by
  refine h.trans ⟨fun _ _ _ _ => rfl, fun f hf => ?_⟩
  cases f <;> first | rfl | (rw [h1] at hf; cases hf)
theorem Dev.Agree.upd_trigs {cs : List Nat} {fs : List Fld} {a d : Dev} {v} (h1 : fs.contains .trigs = true) (h : a.Agree cs fs d) :
    a.Agree cs fs { d with trigs := v } := by
  refine h.trans ⟨fun _ _ _ _ => rfl, fun f hf => ?_⟩
  cases f <;> first | rfl | (rw [h1] at hf; cases hf)
theorem Dev.Agree.upd_ctxs {cs : List Nat} {fs : List Fld} {a d : Dev} {v} (h1 : fs.contains .ctxs = true) (h : a.Agree cs fs d) :
    a.Agree cs fs { d with ctxs := v } := by
  refine h.trans ⟨fun _ _ _ _ => rfl, fun f hf => ?_⟩
  cases f <;> first | rfl | (rw [h1] at hf; cases hf)
theorem Dev.Agree.upd_eng {cs : List Nat} {fs : List Fld} {a d : Dev} {v} (h1 : fs.contains .eng = true) (h : a.Agree cs fs d) :
    a.Agree cs fs { d with eng := v } := by
  refine h.trans ⟨fun _ _ _ _ => rfl, fun f hf => ?_⟩
  cases f <;> first | rfl | (rw [h1] at hf; cases hf)
theorem Dev.Agree.upd_grids {cs : List Nat} {fs : List Fld} {a d : Dev} {v} (h1 : fs.contains .grids = true) (h : a.Agree cs fs d) :
    a.Agree cs fs { d with grids := v } := by
  refine h.trans ⟨fun _ _ _ _ => rfl, fun f hf => ?_⟩
  cases f <;> first | rfl | (rw [h1] at hf; cases hf)
theorem Dev.Agree.upd_isls {cs : List Nat} {fs : List Fld} {a d : Dev} {v} (h1 : fs.contains .isls = true) (h : a.Agree cs fs d) :
    a.Agree cs fs { d with isls := v } := by
  refine h.trans ⟨fun _ _ _ _ => rfl, fun f hf => ?_⟩
  cases f <;> first | rfl | (rw [h1] at hf; cases hf)
theorem Dev.Agree.upd_spokes {cs : List Nat} {fs : List Fld} {a d : Dev} {v} (h1 : fs.contains .spokes = true) (h : a.Agree cs fs d) :
    a.Agree cs fs { d with spokes := v } := by
  refine h.trans ⟨fun _ _ _ _ => rfl, fun f hf => ?_⟩
  cases f <;> first | rfl | (rw [h1] at hf; cases hf)
theorem Dev.Agree.upd_cells {cs : List Nat} {fs : List Fld} {a d : Dev} {v} (h1 : fs.contains .cells = true) (h : a.Agree cs fs d) :
    a.Agree cs fs { d with cells := v } := by
  refine h.trans ⟨fun _ _ _ _ => rfl, fun f hf => ?_⟩
  cases f <;> first | rfl | (rw [h1] at hf; cases hf)
theorem Dev.Agree.upd_arms {cs : List Nat} {fs : List Fld} {a d : Dev} {v} (h1 : fs.contains .arms = true) (h : a.Agree cs fs d) :
    a.Agree cs fs { d with arms := v } := by
  refine h.trans ⟨fun _ _ _ _ => rfl, fun f hf => ?_⟩
  cases f <;> first | rfl | (rw [h1] at hf; cases hf)
theorem Dev.Agree.upd_adcs {cs : List Nat} {fs : List Fld} {a d : Dev} {v} (h1 : fs.contains .adcs = true) (h : a.Agree cs fs d) :
    a.Agree cs fs { d with adcs := v } := by
  refine h.trans ⟨fun _ _ _ _ => rfl, fun f hf => ?_⟩
  cases f <;> first | rfl | (rw [h1] at hf; cases hf)
theorem Dev.Agree.upd_sdis {cs : List Nat} {fs : List Fld} {a d : Dev} {v} (h1 : fs.contains .sdis = true) (h : a.Agree cs fs d) :
    a.Agree cs fs { d with sdis := v } := by
  refine h.trans ⟨fun _ _ _ _ => rfl, fun f hf => ?_⟩
  cases f <;> first | rfl | (rw [h1] at hf; cases hf)
theorem Dev.Agree.upd_wins {cs : List Nat} {fs : List Fld} {a d : Dev} {v} (h1 : fs.contains .wins = true) (h : a.Agree cs fs d) :
    a.Agree cs fs { d with wins := v } := by
  refine h.trans ⟨fun _ _ _ _ => rfl, fun f hf => ?_⟩
  cases f <;> first | rfl | (rw [h1] at hf; cases hf)
theorem Dev.Agree.upd_sup {cs : List Nat} {fs : List Fld} {a d : Dev} {v} (h1 : fs.contains .sup = true) (h : a.Agree cs fs d) :
    a.Agree cs fs { d with sup := v } := by
  refine h.trans ⟨fun _ _ _ _ => rfl, fun f hf => ?_⟩
  cases f <;> first | rfl | (rw [h1] at hf; cases hf)
theorem Dev.Agree.upd_weave {cs : List Nat} {fs : List Fld} {a d : Dev} {v} (h1 : fs.contains .weave = true) (h : a.Agree cs fs d) :
    a.Agree cs fs { d with weave := v } := by
  refine h.trans ⟨fun _ _ _ _ => rfl, fun f hf => ?_⟩
  cases f <;> first | rfl | (rw [h1] at hf; cases hf)
theorem Dev.Agree.upd_rim {cs : List Nat} {fs : List Fld} {a d : Dev} {v} (h1 : fs.contains .rim = true) (h : a.Agree cs fs d) :
    a.Agree cs fs { d with rim := v } := by
  refine h.trans ⟨fun _ _ _ _ => rfl, fun f hf => ?_⟩
  cases f <;> first | rfl | (rw [h1] at hf; cases hf)
theorem Dev.Agree.upd_met {cs : List Nat} {fs : List Fld} {a d : Dev} {v} (h1 : fs.contains .met = true) (h : a.Agree cs fs d) :
    a.Agree cs fs { d with met := v } := by
  refine h.trans ⟨fun _ _ _ _ => rfl, fun f hf => ?_⟩
  cases f <;> first | rfl | (rw [h1] at hf; cases hf)
theorem Dev.Agree.upd_lid {cs : List Nat} {fs : List Fld} {a d : Dev} {v} (h1 : fs.contains .lid = true) (h : a.Agree cs fs d) :
    a.Agree cs fs { d with lid := v } := by
  refine h.trans ⟨fun _ _ _ _ => rfl, fun f hf => ?_⟩
  cases f <;> first | rfl | (rw [h1] at hf; cases hf)
theorem Dev.Agree.upd_pwr {cs : List Nat} {fs : List Fld} {a d : Dev} {v} (h1 : fs.contains .pwr = true) (h : a.Agree cs fs d) :
    a.Agree cs fs { d with pwr := v } := by
  refine h.trans ⟨fun _ _ _ _ => rfl, fun f hf => ?_⟩
  cases f <;> first | rfl | (rw [h1] at hf; cases hf)
theorem Dev.Agree.upd_pins {cs : List Nat} {fs : List Fld} {a d : Dev} {v} (h1 : fs.contains .pins = true) (h : a.Agree cs fs d) :
    a.Agree cs fs { d with pins := v } := by
  refine h.trans ⟨fun _ _ _ _ => rfl, fun f hf => ?_⟩
  cases f <;> first | rfl | (rw [h1] at hf; cases hf)

/-- Every group but that of beat_count. -/
abbrev allGroups : List Nat := [0x01, 0x02, 0x03, 0x04, 0x10, 0x11, 0x12, 0x20, 0x21, 0x22, 0x30, 0x31, 0x40, 0x41, 0x42, 0x50, 0x60, 0x61, 0x70, 0x80, 0x81, 0x90, 0x91, 0xA0, 0xA1, 0xB0, 0xB1, 0xC0]

/-- A parameter that a table gives, other than read-only: its class and index are as R6 numbers them, and it is not beat_count. -/
theorem rowOf_ok {p : Par} (h : ¬((rowOf p).map PRow.acc).getD .ro = .ro) : p.small = true ∧ allGroups.contains p.group = true := by
  have hl : p.idx < (rowsOf p.cls).length := by
    apply Classical.byContradiction
    intro hn
    have : rowOf p = none := by unfold rowOf; exact List.getElem?_eq_none (Nat.le_of_not_lt hn)
    rw [this] at h
    exact h rfl
  have hc : ∀ c, 0 < (rowsOf c).length → c < 256 ∧ (rowsOf c).length < 65536 ∧ (c = 2 ∨ allGroups.contains c = true) := by
    intro c hc
    unfold rowsOf at hc ⊢
    split at hc <;> first | exact ⟨by decide, by decide, by decide⟩ | exact absurd hc (by decide)
  obtain ⟨h1, h2, h3⟩ := hc p.cls (Nat.lt_of_le_of_lt (Nat.zero_le _) hl)
  refine ⟨by simp only [Par.small, Bool.and_eq_true, decide_eq_true_eq]; exact ⟨h1, by omega⟩, ?_⟩
  unfold Par.group
  split
  · rename_i hb
    rw [hb] at h
    exact absurd (by decide) h
  · rcases h3 with h3 | h3
    · rw [h3]; decide
    · exact h3

end Sys2Proof.Machine
end

