-- ==== Sys2Proof/Laws/FrameA.lean ====
section
/-! SUPPORT. Frames of the device's operations, part 1 of 4: for each, the groups of parameters and the parts of the device it may change. -/

set_option linter.all false

namespace Sys2Proof.Machine

theorem Dev.freeVal_frame (d : Dev) : Dev.Agree [] [.free] d (Dev.freeVal d).2 := by
  unfold Dev.freeVal
  repeat' (first
    | (with_reducible intro x; first
        | (with_reducible refine Dev.Agree.have (cs := []) (fs := [.free]) (a := d) (x := x) ?_ ?_; subst x; rotate_left 1; clear_value x; with_reducible intro _; rotate_right 1)
        | (with_reducible refine Dev.Agree.have (cs := []) (fs := [.free]) (a := d) (x := x.2) ?_ ?_; subst x; rotate_left 1; clear_value x; with_reducible intro _; rotate_right 1)
        | clear_value x
        | skip)
    | with_reducible exact Dev.Agree.refl
    | with_reducible assumption
    | lift_lets -underBinder
    | with_reducible apply Dev.Agree.ite
    | with_reducible apply Dev.Agree.ite2
    | split
    | (fail_if_no_progress with_reducible apply Dev.Agree.upd_free; decide))

theorem Dev.occur_frame (d : Dev) (n : Nat) (ts : Nat) (obj : Nat) (detail : Nat) (tq : Nat) (logged : optParam Bool false) : Dev.Agree [0xC0] [.evt] d (Dev.occur d n ts obj detail tq logged) := by
  unfold Dev.occur
  repeat' (first
    | (with_reducible intro x; first
        | (with_reducible refine Dev.Agree.have (cs := [0xC0]) (fs := [.evt]) (a := d) (x := x) ?_ ?_; subst x; rotate_left 1; clear_value x; with_reducible intro _; rotate_right 1)
        | (with_reducible refine Dev.Agree.have (cs := [0xC0]) (fs := [.evt]) (a := d) (x := x.2) ?_ ?_; subst x; rotate_left 1; clear_value x; with_reducible intro _; rotate_right 1)
        | clear_value x
        | skip)
    | with_reducible exact Dev.Agree.refl
    | with_reducible assumption
    | lift_lets -underBinder
    | with_reducible apply Dev.Agree.ite
    | (with_reducible apply Dev.Agree.put; decide; decide)
    | (with_reducible apply Dev.Agree.inc; decide; decide)
    | (fail_if_no_progress with_reducible apply Dev.Agree.upd_evt; decide)
    | split)

theorem Dev.logAppend_frame (d : Dev) (r : EvRec) : Dev.Agree [] [.evt] d (Dev.logAppend d r) := by
  unfold Dev.logAppend
  repeat' (first
    | (with_reducible intro x; first
        | (with_reducible refine Dev.Agree.have (cs := []) (fs := [.evt]) (a := d) (x := x) ?_ ?_; subst x; rotate_left 1; clear_value x; with_reducible intro _; rotate_right 1)
        | (with_reducible refine Dev.Agree.have (cs := []) (fs := [.evt]) (a := d) (x := x.2) ?_ ?_; subst x; rotate_left 1; clear_value x; with_reducible intro _; rotate_right 1)
        | clear_value x
        | skip)
    | with_reducible exact Dev.Agree.refl
    | with_reducible assumption
    | lift_lets -underBinder
    | with_reducible apply Dev.Agree.ite
    | (fail_if_no_progress with_reducible apply Dev.Agree.upd_evt; decide)
    | split)

theorem Dev.islandLog_frame (d : Dev) (n : Nat) (obj : Nat) (detail : Nat) : Dev.Agree [] [.evt] d (Dev.islandLog d n obj detail) := by
  unfold Dev.islandLog
  repeat' (first
    | (with_reducible intro x; first
        | (with_reducible refine Dev.Agree.have (cs := []) (fs := [.evt]) (a := d) (x := x) ?_ ?_; subst x; rotate_left 1; clear_value x; with_reducible intro _; rotate_right 1)
        | (with_reducible refine Dev.Agree.have (cs := []) (fs := [.evt]) (a := d) (x := x.2) ?_ ?_; subst x; rotate_left 1; clear_value x; with_reducible intro _; rotate_right 1)
        | clear_value x
        | skip)
    | with_reducible exact Dev.Agree.refl
    | with_reducible assumption
    | lift_lets -underBinder
    | with_reducible apply Dev.Agree.ite
    | (with_reducible apply Dev.Agree.step (Dev.logAppend_frame _ _); decide; decide)
    | split)

theorem Dev.raise_frame (d : Dev) (n : Nat) (obj : optParam Nat 0) (detail : optParam Nat 0) (island : optParam Bool false) : Dev.Agree [0xC0] [.evt] d (Dev.raise d n obj detail island) := by
  unfold Dev.raise
  repeat' (first
    | (with_reducible intro x; first
        | (with_reducible refine Dev.Agree.have (cs := [0xC0]) (fs := [.evt]) (a := d) (x := x) ?_ ?_; subst x; rotate_left 1; clear_value x; with_reducible intro _; rotate_right 1)
        | (with_reducible refine Dev.Agree.have (cs := [0xC0]) (fs := [.evt]) (a := d) (x := x.2) ?_ ?_; subst x; rotate_left 1; clear_value x; with_reducible intro _; rotate_right 1)
        | clear_value x
        | skip)
    | with_reducible exact Dev.Agree.refl
    | with_reducible assumption
    | lift_lets -underBinder
    | with_reducible apply Dev.Agree.ite
    | (with_reducible apply Dev.Agree.step (Dev.occur_frame _ _ _ _ _ _ _); decide; decide)
    | (with_reducible apply Dev.Agree.step (Dev.islandLog_frame _ _ _ _); decide; decide)
    | (fail_if_no_progress with_reducible apply Dev.Agree.upd_evt; decide)
    | split)

theorem Dev.setSess_frame (d : Dev) (i : Nat) (x : Sess) : Dev.Agree [] [.host] d (Dev.setSess d i x) := by
  unfold Dev.setSess
  repeat' (first
    | (with_reducible intro x; first
        | (with_reducible refine Dev.Agree.have (cs := []) (fs := [.host]) (a := d) (x := x) ?_ ?_; subst x; rotate_left 1; clear_value x; with_reducible intro _; rotate_right 1)
        | (with_reducible refine Dev.Agree.have (cs := []) (fs := [.host]) (a := d) (x := x.2) ?_ ?_; subst x; rotate_left 1; clear_value x; with_reducible intro _; rotate_right 1)
        | clear_value x
        | skip)
    | with_reducible exact Dev.Agree.refl
    | with_reducible assumption
    | lift_lets -underBinder
    | with_reducible apply Dev.Agree.ite
    | (fail_if_no_progress with_reducible apply Dev.Agree.upd_host; decide)
    | split)

theorem Dev.setRing_frame (d : Dev) (n : Nat) (x : RingSt) : Dev.Agree [] [.host] d (Dev.setRing d n x) := by
  unfold Dev.setRing
  repeat' (first
    | (with_reducible intro x; first
        | (with_reducible refine Dev.Agree.have (cs := []) (fs := [.host]) (a := d) (x := x) ?_ ?_; subst x; rotate_left 1; clear_value x; with_reducible intro _; rotate_right 1)
        | (with_reducible refine Dev.Agree.have (cs := []) (fs := [.host]) (a := d) (x := x.2) ?_ ?_; subst x; rotate_left 1; clear_value x; with_reducible intro _; rotate_right 1)
        | clear_value x
        | skip)
    | with_reducible exact Dev.Agree.refl
    | with_reducible assumption
    | lift_lets -underBinder
    | with_reducible apply Dev.Agree.ite
    | (fail_if_no_progress with_reducible apply Dev.Agree.upd_host; decide)
    | split)

theorem Dev.msixRaise_frame (d : Dev) (v : Nat) : Dev.Agree [] [.host] d (Dev.msixRaise d v) := by
  unfold Dev.msixRaise
  repeat' (first
    | (with_reducible intro x; first
        | (with_reducible refine Dev.Agree.have (cs := []) (fs := [.host]) (a := d) (x := x) ?_ ?_; subst x; rotate_left 1; clear_value x; with_reducible intro _; rotate_right 1)
        | (with_reducible refine Dev.Agree.have (cs := []) (fs := [.host]) (a := d) (x := x.2) ?_ ?_; subst x; rotate_left 1; clear_value x; with_reducible intro _; rotate_right 1)
        | clear_value x
        | skip)
    | with_reducible exact Dev.Agree.refl
    | with_reducible assumption
    | lift_lets -underBinder
    | with_reducible apply Dev.Agree.ite
    | (fail_if_no_progress with_reducible apply Dev.Agree.upd_host; decide)
    | split)

theorem Dev.slotPut_frame (d : Dev) (n : Nat) (i : Nat) (m : List Byte) (rec' : List Byte) : Dev.Agree [] [.host] d (Dev.slotPut d n i m rec') := by
  unfold Dev.slotPut
  repeat' (first
    | (with_reducible intro x; first
        | (with_reducible refine Dev.Agree.have (cs := []) (fs := [.host]) (a := d) (x := x) ?_ ?_; subst x; rotate_left 1; clear_value x; with_reducible intro _; rotate_right 1)
        | (with_reducible refine Dev.Agree.have (cs := []) (fs := [.host]) (a := d) (x := x.2) ?_ ?_; subst x; rotate_left 1; clear_value x; with_reducible intro _; rotate_right 1)
        | clear_value x
        | skip)
    | with_reducible exact Dev.Agree.refl
    | with_reducible assumption
    | lift_lets -underBinder
    | with_reducible apply Dev.Agree.ite
    | (fail_if_no_progress with_reducible apply Dev.Agree.upd_host; decide)
    | split)

theorem Dev.ringPut_frame (d : Dev) (n : Nat) (m : List Byte) : Dev.Agree [0x90, 0x91] [.host] d (Dev.ringPut d n m) := by
  unfold Dev.ringPut
  repeat' (first
    | (with_reducible intro x; first
        | (with_reducible refine Dev.Agree.have (cs := [0x90, 0x91]) (fs := [.host]) (a := d) (x := x) ?_ ?_; subst x; rotate_left 1; clear_value x; with_reducible intro _; rotate_right 1)
        | (with_reducible refine Dev.Agree.have (cs := [0x90, 0x91]) (fs := [.host]) (a := d) (x := x.2) ?_ ?_; subst x; rotate_left 1; clear_value x; with_reducible intro _; rotate_right 1)
        | clear_value x
        | skip)
    | with_reducible exact Dev.Agree.refl
    | with_reducible assumption
    | lift_lets -underBinder
    | with_reducible apply Dev.Agree.ite
    | (with_reducible apply Dev.Agree.inc; decide; decide)
    | (with_reducible apply Dev.Agree.step (Dev.setSess_frame _ _ _); decide; decide)
    | (with_reducible apply Dev.Agree.step (Dev.setRing_frame _ _ _); decide; decide)
    | (with_reducible apply Dev.Agree.step (Dev.msixRaise_frame _ _); decide; decide)
    | (with_reducible apply Dev.Agree.step (Dev.slotPut_frame _ _ _ _ _); decide; decide)
    | (fail_if_no_progress with_reducible apply Dev.Agree.upd_host; decide)
    | split)

theorem Dev.ringPush_frame (d : Dev) (n : Nat) (m : List Byte) : Dev.Agree [0x90, 0x91] [.host] d (Dev.ringPush d n m) := by
  unfold Dev.ringPush
  repeat' (first
    | (with_reducible intro x; first
        | (with_reducible refine Dev.Agree.have (cs := [0x90, 0x91]) (fs := [.host]) (a := d) (x := x) ?_ ?_; subst x; rotate_left 1; clear_value x; with_reducible intro _; rotate_right 1)
        | (with_reducible refine Dev.Agree.have (cs := [0x90, 0x91]) (fs := [.host]) (a := d) (x := x.2) ?_ ?_; subst x; rotate_left 1; clear_value x; with_reducible intro _; rotate_right 1)
        | clear_value x
        | skip)
    | with_reducible exact Dev.Agree.refl
    | with_reducible assumption
    | lift_lets -underBinder
    | with_reducible apply Dev.Agree.ite
    | (with_reducible apply Dev.Agree.step (Dev.setRing_frame _ _ _); decide; decide)
    | (with_reducible apply Dev.Agree.step (Dev.ringPut_frame _ _ _); decide; decide)
    | split)

theorem Dev.ringDrain_frame (n k : Nat) (d : Dev) : Dev.Agree [0x90, 0x91] [.host] d (Dev.ringDrain n k d) := by
  induction k generalizing d with
  | zero => exact Dev.Agree.refl
  | succ k ih =>
    unfold Dev.ringDrain
    split
    · exact Dev.Agree.refl
    · refine Dev.Agree.ite (fun _ => Dev.Agree.refl) (fun _ => Dev.Agree.trans ?_ (ih _))
      refine Dev.Agree.step (Dev.ringPut_frame _ _ _) (by decide) (by decide) ?_
      exact Dev.Agree.step (Dev.setRing_frame _ _ _) (by decide) (by decide) Dev.Agree.refl

theorem Dev.setWport_frame (d : Dev) (p : Nat) (x : WPort) : Dev.Agree [] [.weave] d (Dev.setWport d p x) := by
  unfold Dev.setWport
  repeat' (first
    | (with_reducible intro x; first
        | (with_reducible refine Dev.Agree.have (cs := []) (fs := [.weave]) (a := d) (x := x) ?_ ?_; subst x; rotate_left 1; clear_value x; with_reducible intro _; rotate_right 1)
        | (with_reducible refine Dev.Agree.have (cs := []) (fs := [.weave]) (a := d) (x := x.2) ?_ ?_; subst x; rotate_left 1; clear_value x; with_reducible intro _; rotate_right 1)
        | clear_value x
        | skip)
    | with_reducible exact Dev.Agree.refl
    | with_reducible assumption
    | lift_lets -underBinder
    | with_reducible apply Dev.Agree.ite
    | (fail_if_no_progress with_reducible apply Dev.Agree.upd_weave; decide)
    | split)

theorem Dev.weavePut_frame (d : Dev) (kind : Nat) (dest : Nat) (body : List Byte) (port : optParam Nat 255) : Dev.Agree [] [.weave] d (Dev.weavePut d kind dest body port) := by
  unfold Dev.weavePut
  repeat' (first
    | (with_reducible intro x; first
        | (with_reducible refine Dev.Agree.have (cs := []) (fs := [.weave]) (a := d) (x := x) ?_ ?_; subst x; rotate_left 1; clear_value x; with_reducible intro _; rotate_right 1)
        | (with_reducible refine Dev.Agree.have (cs := []) (fs := [.weave]) (a := d) (x := x.2) ?_ ?_; subst x; rotate_left 1; clear_value x; with_reducible intro _; rotate_right 1)
        | clear_value x
        | skip)
    | with_reducible exact Dev.Agree.refl
    | with_reducible assumption
    | lift_lets -underBinder
    | with_reducible apply Dev.Agree.ite
    | (fail_if_no_progress with_reducible apply Dev.Agree.upd_weave; decide)
    | split)

theorem Dev.sendTo_frame (d : Dev) (s : Nat) (m : List Byte) : Dev.Agree [0x90, 0x91] [.host, .weave] d (Dev.sendTo d s m) := by
  unfold Dev.sendTo
  repeat' (first
    | (with_reducible intro x; first
        | (with_reducible refine Dev.Agree.have (cs := [0x90, 0x91]) (fs := [.host, .weave]) (a := d) (x := x) ?_ ?_; subst x; rotate_left 1; clear_value x; with_reducible intro _; rotate_right 1)
        | (with_reducible refine Dev.Agree.have (cs := [0x90, 0x91]) (fs := [.host, .weave]) (a := d) (x := x.2) ?_ ?_; subst x; rotate_left 1; clear_value x; with_reducible intro _; rotate_right 1)
        | clear_value x
        | skip)
    | with_reducible exact Dev.Agree.refl
    | with_reducible assumption
    | lift_lets -underBinder
    | with_reducible apply Dev.Agree.ite
    | (with_reducible apply Dev.Agree.step (Dev.ringPush_frame _ _ _); decide; decide)
    | (with_reducible apply Dev.Agree.step (Dev.weavePut_frame _ _ _ _ _); decide; decide)
    | split)

theorem Dev.respond_frame (d : Dev) (s : Nat) (tag : Nat) (op : Nat) (ts : Nat) (status : Nat) (payload : List Byte) (deferred : optParam Bool false) : Dev.Agree [0x90, 0x91] [.host, .weave] d (Dev.respond d s tag op ts status payload deferred) := by
  unfold Dev.respond
  repeat' (first
    | (with_reducible intro x; first
        | (with_reducible refine Dev.Agree.have (cs := [0x90, 0x91]) (fs := [.host, .weave]) (a := d) (x := x) ?_ ?_; subst x; rotate_left 1; clear_value x; with_reducible intro _; rotate_right 1)
        | (with_reducible refine Dev.Agree.have (cs := [0x90, 0x91]) (fs := [.host, .weave]) (a := d) (x := x.2) ?_ ?_; subst x; rotate_left 1; clear_value x; with_reducible intro _; rotate_right 1)
        | clear_value x
        | skip)
    | with_reducible exact Dev.Agree.refl
    | with_reducible assumption
    | lift_lets -underBinder
    | with_reducible apply Dev.Agree.ite
    | (with_reducible apply Dev.Agree.step (Dev.setSess_frame _ _ _); decide; decide)
    | (with_reducible apply Dev.Agree.step (Dev.sendTo_frame _ _ _); decide; decide)
    | split)

theorem Dev.outcome_frame (d : Dev) (o : Oper) (status : Nat) (extra : List Byte) : Dev.Agree [0x90, 0x91, 0xC0] [.evt, .host, .weave] d (Dev.outcome d o status extra) := by
  unfold Dev.outcome
  repeat' (first
    | (with_reducible intro x; first
        | (with_reducible refine Dev.Agree.have (cs := [0x90, 0x91, 0xC0]) (fs := [.evt, .host, .weave]) (a := d) (x := x) ?_ ?_; subst x; rotate_left 1; clear_value x; with_reducible intro _; rotate_right 1)
        | (with_reducible refine Dev.Agree.have (cs := [0x90, 0x91, 0xC0]) (fs := [.evt, .host, .weave]) (a := d) (x := x.2) ?_ ?_; subst x; rotate_left 1; clear_value x; with_reducible intro _; rotate_right 1)
        | clear_value x
        | skip)
    | with_reducible exact Dev.Agree.refl
    | with_reducible assumption
    | lift_lets -underBinder
    | with_reducible apply Dev.Agree.ite
    | (with_reducible apply Dev.Agree.step (Dev.raise_frame _ _ _ _ _); decide; decide)
    | (with_reducible apply Dev.Agree.step (Dev.respond_frame _ _ _ _ _ _ _ _); decide; decide)
    | (fail_if_no_progress with_reducible apply Dev.Agree.upd_host; decide)
    | split)

theorem Dev.tallyZero_frame (d : Dev) : Dev.Agree [0xA0] [.lid] d (Dev.tallyZero d) := by
  unfold Dev.tallyZero
  repeat' (first
    | (with_reducible intro x; first
        | (with_reducible refine Dev.Agree.have (cs := [0xA0]) (fs := [.lid]) (a := d) (x := x) ?_ ?_; subst x; rotate_left 1; clear_value x; with_reducible intro _; rotate_right 1)
        | (with_reducible refine Dev.Agree.have (cs := [0xA0]) (fs := [.lid]) (a := d) (x := x.2) ?_ ?_; subst x; rotate_left 1; clear_value x; with_reducible intro _; rotate_right 1)
        | clear_value x
        | skip)
    | with_reducible exact Dev.Agree.refl
    | with_reducible assumption
    | lift_lets -underBinder
    | with_reducible apply Dev.Agree.ite
    | (with_reducible apply Dev.Agree.put; decide; decide)
    | (fail_if_no_progress with_reducible apply Dev.Agree.upd_lid; decide)
    | split)

theorem Dev.tallyExtend_frame (d : Dev) (r : Nat) (digest : List Byte) : Dev.Agree [0xA0] [.lid] d (Dev.tallyExtend d r digest) := by
  unfold Dev.tallyExtend
  repeat' (first
    | (with_reducible intro x; first
        | (with_reducible refine Dev.Agree.have (cs := [0xA0]) (fs := [.lid]) (a := d) (x := x) ?_ ?_; subst x; rotate_left 1; clear_value x; with_reducible intro _; rotate_right 1)
        | (with_reducible refine Dev.Agree.have (cs := [0xA0]) (fs := [.lid]) (a := d) (x := x.2) ?_ ?_; subst x; rotate_left 1; clear_value x; with_reducible intro _; rotate_right 1)
        | clear_value x
        | skip)
    | with_reducible exact Dev.Agree.refl
    | with_reducible assumption
    | lift_lets -underBinder
    | with_reducible apply Dev.Agree.ite
    | (with_reducible apply Dev.Agree.inc; decide; decide)
    | (fail_if_no_progress with_reducible apply Dev.Agree.upd_lid; decide)
    | split)

theorem Dev.tallyKeys_frame (d : Dev) : Dev.Agree [0xA0] [.lid] d (Dev.tallyKeys d) := by
  unfold Dev.tallyKeys
  repeat' (first
    | (with_reducible intro x; first
        | (with_reducible refine Dev.Agree.have (cs := [0xA0]) (fs := [.lid]) (a := d) (x := x) ?_ ?_; subst x; rotate_left 1; clear_value x; with_reducible intro _; rotate_right 1)
        | (with_reducible refine Dev.Agree.have (cs := [0xA0]) (fs := [.lid]) (a := d) (x := x.2) ?_ ?_; subst x; rotate_left 1; clear_value x; with_reducible intro _; rotate_right 1)
        | clear_value x
        | skip)
    | with_reducible exact Dev.Agree.refl
    | with_reducible assumption
    | lift_lets -underBinder
    | with_reducible apply Dev.Agree.ite
    | (with_reducible apply Dev.Agree.step (Dev.tallyExtend_frame _ _ _); decide; decide)
    | split)

theorem Dev.bootWrite_frame (d : Dev) (r : BootRec) : Dev.Agree [] [.lid] d (Dev.bootWrite d r) := by
  unfold Dev.bootWrite
  repeat' (first
    | (with_reducible intro x; first
        | (with_reducible refine Dev.Agree.have (cs := []) (fs := [.lid]) (a := d) (x := x) ?_ ?_; subst x; rotate_left 1; clear_value x; with_reducible intro _; rotate_right 1)
        | (with_reducible refine Dev.Agree.have (cs := []) (fs := [.lid]) (a := d) (x := x.2) ?_ ?_; subst x; rotate_left 1; clear_value x; with_reducible intro _; rotate_right 1)
        | clear_value x
        | skip)
    | with_reducible exact Dev.Agree.refl
    | with_reducible assumption
    | lift_lets -underBinder
    | with_reducible apply Dev.Agree.ite
    | (fail_if_no_progress with_reducible apply Dev.Agree.upd_lid; decide)
    | split)

theorem Dev.ownWrite_frame (d : Dev) (r : OwnRec) : Dev.Agree [] [.lid] d (Dev.ownWrite d r) := by
  unfold Dev.ownWrite
  repeat' (first
    | (with_reducible intro x; first
        | (with_reducible refine Dev.Agree.have (cs := []) (fs := [.lid]) (a := d) (x := x) ?_ ?_; subst x; rotate_left 1; clear_value x; with_reducible intro _; rotate_right 1)
        | (with_reducible refine Dev.Agree.have (cs := []) (fs := [.lid]) (a := d) (x := x.2) ?_ ?_; subst x; rotate_left 1; clear_value x; with_reducible intro _; rotate_right 1)
        | clear_value x
        | skip)
    | with_reducible exact Dev.Agree.refl
    | with_reducible assumption
    | lift_lets -underBinder
    | with_reducible apply Dev.Agree.ite
    | (fail_if_no_progress with_reducible apply Dev.Agree.upd_lid; decide)
    | split)

theorem Dev.setTset_frame (d : Dev) (k : Nat) (x : TblSet) : Dev.Agree [] [.tsets] d (Dev.setTset d k x) := by
  unfold Dev.setTset
  repeat' (first
    | (with_reducible intro x; first
        | (with_reducible refine Dev.Agree.have (cs := []) (fs := [.tsets]) (a := d) (x := x) ?_ ?_; subst x; rotate_left 1; clear_value x; with_reducible intro _; rotate_right 1)
        | (with_reducible refine Dev.Agree.have (cs := []) (fs := [.tsets]) (a := d) (x := x.2) ?_ ?_; subst x; rotate_left 1; clear_value x; with_reducible intro _; rotate_right 1)
        | clear_value x
        | skip)
    | with_reducible exact Dev.Agree.refl
    | with_reducible assumption
    | lift_lets -underBinder
    | with_reducible apply Dev.Agree.ite
    | (fail_if_no_progress with_reducible apply Dev.Agree.upd_tsets; decide)
    | split)

theorem Dev.shadowWrite_frame (d : Dev) (k : Nat) (a : Nat) (bs : List Byte) : Dev.Agree [] [.tsets] d (Dev.shadowWrite d k a bs) := by
  unfold Dev.shadowWrite
  repeat' (first
    | (with_reducible intro x; first
        | (with_reducible refine Dev.Agree.have (cs := []) (fs := [.tsets]) (a := d) (x := x) ?_ ?_; subst x; rotate_left 1; clear_value x; with_reducible intro _; rotate_right 1)
        | (with_reducible refine Dev.Agree.have (cs := []) (fs := [.tsets]) (a := d) (x := x.2) ?_ ?_; subst x; rotate_left 1; clear_value x; with_reducible intro _; rotate_right 1)
        | clear_value x
        | skip)
    | with_reducible exact Dev.Agree.refl
    | with_reducible assumption
    | lift_lets -underBinder
    | with_reducible apply Dev.Agree.ite
    | (with_reducible apply Dev.Agree.step (Dev.setTset_frame _ _ _); decide; decide)
    | split)

theorem Dev.headsClean_frame (d : Dev) : Dev.Agree [] [.tsets] d (Dev.headsClean d) := by
  unfold Dev.headsClean
  repeat' (first
    | (with_reducible intro x; first
        | (with_reducible refine Dev.Agree.have (cs := []) (fs := [.tsets]) (a := d) (x := x) ?_ ?_; subst x; rotate_left 1; clear_value x; with_reducible intro _; rotate_right 1)
        | (with_reducible refine Dev.Agree.have (cs := []) (fs := [.tsets]) (a := d) (x := x.2) ?_ ?_; subst x; rotate_left 1; clear_value x; with_reducible intro _; rotate_right 1)
        | clear_value x
        | skip)
    | with_reducible exact Dev.Agree.refl
    | with_reducible assumption
    | lift_lets -underBinder
    | with_reducible apply Dev.Agree.ite
    | (with_reducible apply Dev.Agree.step (Dev.setTset_frame _ _ _); decide; decide)
    | with_reducible apply Dev.Agree.foldl
    | with_reducible apply Dev.Agree.foldl2
    | split)

theorem Dev.imgParWrite_frame (d : Dev) (p : Par) (i : Nat) (v : Nat) : Dev.Agree [] [.tsets] d (Dev.imgParWrite d p i v) := by
  unfold Dev.imgParWrite
  repeat' (first
    | (with_reducible intro x; first
        | (with_reducible refine Dev.Agree.have (cs := []) (fs := [.tsets]) (a := d) (x := x) ?_ ?_; subst x; rotate_left 1; clear_value x; with_reducible intro _; rotate_right 1)
        | (with_reducible refine Dev.Agree.have (cs := []) (fs := [.tsets]) (a := d) (x := x.2) ?_ ?_; subst x; rotate_left 1; clear_value x; with_reducible intro _; rotate_right 1)
        | clear_value x
        | skip)
    | with_reducible exact Dev.Agree.refl
    | with_reducible assumption
    | lift_lets -underBinder
    | with_reducible apply Dev.Agree.ite
    | (with_reducible apply Dev.Agree.step (Dev.shadowWrite_frame _ _ _ _); decide; decide)
    | split)

theorem Dev.curveEval_frame (d : Dev) (n : Nat) (u : F32) : Dev.Agree [0x03, 0xC0] [.evt] d (Dev.curveEval d n u).2 := by
  unfold Dev.curveEval
  repeat' (first
    | (with_reducible intro x; first
        | (with_reducible refine Dev.Agree.have (cs := [0x03, 0xC0]) (fs := [.evt]) (a := d) (x := x) ?_ ?_; subst x; rotate_left 1; clear_value x; with_reducible intro _; rotate_right 1)
        | (with_reducible refine Dev.Agree.have (cs := [0x03, 0xC0]) (fs := [.evt]) (a := d) (x := x.2) ?_ ?_; subst x; rotate_left 1; clear_value x; with_reducible intro _; rotate_right 1)
        | clear_value x
        | skip)
    | with_reducible exact Dev.Agree.refl
    | with_reducible assumption
    | lift_lets -underBinder
    | with_reducible apply Dev.Agree.ite
    | with_reducible apply Dev.Agree.ite2
    | split
    | (with_reducible apply Dev.Agree.inc; decide; decide)
    | (with_reducible apply Dev.Agree.step (Dev.raise_frame _ _ _ _ _); decide; decide))

theorem Dev.setCap_frame (d : Dev) (n : Nat) (x : CapRt) : Dev.Agree [] [.caps] d (Dev.setCap d n x) := by
  unfold Dev.setCap
  repeat' (first
    | (with_reducible intro x; first
        | (with_reducible refine Dev.Agree.have (cs := []) (fs := [.caps]) (a := d) (x := x) ?_ ?_; subst x; rotate_left 1; clear_value x; with_reducible intro _; rotate_right 1)
        | (with_reducible refine Dev.Agree.have (cs := []) (fs := [.caps]) (a := d) (x := x.2) ?_ ?_; subst x; rotate_left 1; clear_value x; with_reducible intro _; rotate_right 1)
        | clear_value x
        | skip)
    | with_reducible exact Dev.Agree.refl
    | with_reducible assumption
    | lift_lets -underBinder
    | with_reducible apply Dev.Agree.ite
    | (fail_if_no_progress with_reducible apply Dev.Agree.upd_caps; decide)
    | split)

theorem Dev.setTrig_frame (d : Dev) (n : Nat) (x : TrigRt) : Dev.Agree [] [.trigs] d (Dev.setTrig d n x) := by
  unfold Dev.setTrig
  repeat' (first
    | (with_reducible intro x; first
        | (with_reducible refine Dev.Agree.have (cs := []) (fs := [.trigs]) (a := d) (x := x) ?_ ?_; subst x; rotate_left 1; clear_value x; with_reducible intro _; rotate_right 1)
        | (with_reducible refine Dev.Agree.have (cs := []) (fs := [.trigs]) (a := d) (x := x.2) ?_ ?_; subst x; rotate_left 1; clear_value x; with_reducible intro _; rotate_right 1)
        | clear_value x
        | skip)
    | with_reducible exact Dev.Agree.refl
    | with_reducible assumption
    | lift_lets -underBinder
    | with_reducible apply Dev.Agree.ite
    | (fail_if_no_progress with_reducible apply Dev.Agree.upd_trigs; decide)
    | split)

theorem Dev.closeBlk_frame (d : Dev) (n : Nat) : Dev.Agree [] [.caps] d (Dev.closeBlk d n) := by
  unfold Dev.closeBlk
  repeat' (first
    | (with_reducible intro x; first
        | (with_reducible refine Dev.Agree.have (cs := []) (fs := [.caps]) (a := d) (x := x) ?_ ?_; subst x; rotate_left 1; clear_value x; with_reducible intro _; rotate_right 1)
        | (with_reducible refine Dev.Agree.have (cs := []) (fs := [.caps]) (a := d) (x := x.2) ?_ ?_; subst x; rotate_left 1; clear_value x; with_reducible intro _; rotate_right 1)
        | clear_value x
        | skip)
    | with_reducible exact Dev.Agree.refl
    | with_reducible assumption
    | lift_lets -underBinder
    | with_reducible apply Dev.Agree.ite
    | (with_reducible apply Dev.Agree.step (Dev.setCap_frame _ _ _); decide; decide)
    | split)

theorem Dev.openBlk_frame (d : Dev) (n : Nat) (ts : Nat) : Dev.Agree [] [.caps] d (Dev.openBlk d n ts) := by
  unfold Dev.openBlk
  repeat' (first
    | (with_reducible intro x; first
        | (with_reducible refine Dev.Agree.have (cs := []) (fs := [.caps]) (a := d) (x := x) ?_ ?_; subst x; rotate_left 1; clear_value x; with_reducible intro _; rotate_right 1)
        | (with_reducible refine Dev.Agree.have (cs := []) (fs := [.caps]) (a := d) (x := x.2) ?_ ?_; subst x; rotate_left 1; clear_value x; with_reducible intro _; rotate_right 1)
        | clear_value x
        | skip)
    | with_reducible exact Dev.Agree.refl
    | with_reducible assumption
    | lift_lets -underBinder
    | with_reducible apply Dev.Agree.ite
    | (with_reducible apply Dev.Agree.step (Dev.setCap_frame _ _ _); decide; decide)
    | split)

theorem Dev.capFlag_frame (d : Dev) (n : Nat) (b : Nat) : Dev.Agree [0x60] [.caps] d (Dev.capFlag d n b) := by
  unfold Dev.capFlag
  repeat' (first
    | (with_reducible intro x; first
        | (with_reducible refine Dev.Agree.have (cs := [0x60]) (fs := [.caps]) (a := d) (x := x) ?_ ?_; subst x; rotate_left 1; clear_value x; with_reducible intro _; rotate_right 1)
        | (with_reducible refine Dev.Agree.have (cs := [0x60]) (fs := [.caps]) (a := d) (x := x.2) ?_ ?_; subst x; rotate_left 1; clear_value x; with_reducible intro _; rotate_right 1)
        | clear_value x
        | skip)
    | with_reducible exact Dev.Agree.refl
    | with_reducible assumption
    | lift_lets -underBinder
    | with_reducible apply Dev.Agree.ite
    | (with_reducible apply Dev.Agree.putBit; decide; decide)
    | (with_reducible apply Dev.Agree.step (Dev.setCap_frame _ _ _); decide; decide)
    | split)

theorem Dev.gapNote_frame (d : Dev) (n : Nat) (count : Nat) : Dev.Agree [0x60, 0xC0] [.evt, .caps] d (Dev.gapNote d n count) := by
  unfold Dev.gapNote
  repeat' (first
    | (with_reducible intro x; first
        | (with_reducible refine Dev.Agree.have (cs := [0x60, 0xC0]) (fs := [.evt, .caps]) (a := d) (x := x) ?_ ?_; subst x; rotate_left 1; clear_value x; with_reducible intro _; rotate_right 1)
        | (with_reducible refine Dev.Agree.have (cs := [0x60, 0xC0]) (fs := [.evt, .caps]) (a := d) (x := x.2) ?_ ?_; subst x; rotate_left 1; clear_value x; with_reducible intro _; rotate_right 1)
        | clear_value x
        | skip)
    | with_reducible exact Dev.Agree.refl
    | with_reducible assumption
    | lift_lets -underBinder
    | with_reducible apply Dev.Agree.ite
    | (with_reducible apply Dev.Agree.inc; decide; decide)
    | (with_reducible apply Dev.Agree.step (Dev.raise_frame _ _ _ _ _); decide; decide)
    | (with_reducible apply Dev.Agree.step (Dev.capFlag_frame _ _ _); decide; decide)
    | split)

theorem Dev.gapFlush_frame (d : Dev) (n : Nat) : Dev.Agree [] [.caps] d (Dev.gapFlush d n) := by
  unfold Dev.gapFlush
  repeat' (first
    | (with_reducible intro x; first
        | (with_reducible refine Dev.Agree.have (cs := []) (fs := [.caps]) (a := d) (x := x) ?_ ?_; subst x; rotate_left 1; clear_value x; with_reducible intro _; rotate_right 1)
        | (with_reducible refine Dev.Agree.have (cs := []) (fs := [.caps]) (a := d) (x := x.2) ?_ ?_; subst x; rotate_left 1; clear_value x; with_reducible intro _; rotate_right 1)
        | clear_value x
        | skip)
    | with_reducible exact Dev.Agree.refl
    | with_reducible assumption
    | lift_lets -underBinder
    | with_reducible apply Dev.Agree.ite
    | (with_reducible apply Dev.Agree.step (Dev.closeBlk_frame _ _); decide; decide)
    | (with_reducible apply Dev.Agree.step (Dev.openBlk_frame _ _ _); decide; decide)
    | split)

theorem Dev.capGap_frame (d : Dev) (n : Nat) (cause : Nat) (count : Nat) : Dev.Agree [0x60, 0xC0] [.evt, .caps] d (Dev.capGap d n cause count) := by
  unfold Dev.capGap
  repeat' (first
    | (with_reducible intro x; first
        | (with_reducible refine Dev.Agree.have (cs := [0x60, 0xC0]) (fs := [.evt, .caps]) (a := d) (x := x) ?_ ?_; subst x; rotate_left 1; clear_value x; with_reducible intro _; rotate_right 1)
        | (with_reducible refine Dev.Agree.have (cs := [0x60, 0xC0]) (fs := [.evt, .caps]) (a := d) (x := x.2) ?_ ?_; subst x; rotate_left 1; clear_value x; with_reducible intro _; rotate_right 1)
        | clear_value x
        | skip)
    | with_reducible exact Dev.Agree.refl
    | with_reducible assumption
    | lift_lets -underBinder
    | with_reducible apply Dev.Agree.ite
    | (with_reducible apply Dev.Agree.step (Dev.setCap_frame _ _ _); decide; decide)
    | (with_reducible apply Dev.Agree.step (Dev.closeBlk_frame _ _); decide; decide)
    | (with_reducible apply Dev.Agree.step (Dev.gapNote_frame _ _ _); decide; decide)
    | (with_reducible apply Dev.Agree.step (Dev.gapFlush_frame _ _); decide; decide)
    | split)

theorem Dev.capWrote_frame (d : Dev) (n : Nat) (s : Nat) : Dev.Agree [] [.caps] d (Dev.capWrote d n s) := by
  unfold Dev.capWrote
  repeat' (first
    | (with_reducible intro x; first
        | (with_reducible refine Dev.Agree.have (cs := []) (fs := [.caps]) (a := d) (x := x) ?_ ?_; subst x; rotate_left 1; clear_value x; with_reducible intro _; rotate_right 1)
        | (with_reducible refine Dev.Agree.have (cs := []) (fs := [.caps]) (a := d) (x := x.2) ?_ ?_; subst x; rotate_left 1; clear_value x; with_reducible intro _; rotate_right 1)
        | clear_value x
        | skip)
    | with_reducible exact Dev.Agree.refl
    | with_reducible assumption
    | lift_lets -underBinder
    | with_reducible apply Dev.Agree.ite
    | (with_reducible apply Dev.Agree.step (Dev.setCap_frame _ _ _); decide; decide)
    | split)

theorem Dev.markStream_frame (d : Dev) (n : Nat) (m : Mark) : Dev.Agree [] [.caps] d (Dev.markStream d n m) := by
  unfold Dev.markStream
  repeat' (first
    | (with_reducible intro x; first
        | (with_reducible refine Dev.Agree.have (cs := []) (fs := [.caps]) (a := d) (x := x) ?_ ?_; subst x; rotate_left 1; clear_value x; with_reducible intro _; rotate_right 1)
        | (with_reducible refine Dev.Agree.have (cs := []) (fs := [.caps]) (a := d) (x := x.2) ?_ ?_; subst x; rotate_left 1; clear_value x; with_reducible intro _; rotate_right 1)
        | clear_value x
        | skip)
    | with_reducible exact Dev.Agree.refl
    | with_reducible assumption
    | lift_lets -underBinder
    | with_reducible apply Dev.Agree.ite
    | (with_reducible apply Dev.Agree.step (Dev.setCap_frame _ _ _); decide; decide)
    | (with_reducible apply Dev.Agree.step (Dev.closeBlk_frame _ _); decide; decide)
    | (with_reducible apply Dev.Agree.step (Dev.openBlk_frame _ _ _); decide; decide)
    | (with_reducible apply Dev.Agree.step (Dev.capWrote_frame _ _ _); decide; decide)
    | split)

theorem Dev.markRing_frame (d : Dev) (n : Nat) (m : Mark) : Dev.Agree [] [.caps] d (Dev.markRing d n m) := by
  unfold Dev.markRing
  repeat' (first
    | (with_reducible intro x; first
        | (with_reducible refine Dev.Agree.have (cs := []) (fs := [.caps]) (a := d) (x := x) ?_ ?_; subst x; rotate_left 1; clear_value x; with_reducible intro _; rotate_right 1)
        | (with_reducible refine Dev.Agree.have (cs := []) (fs := [.caps]) (a := d) (x := x.2) ?_ ?_; subst x; rotate_left 1; clear_value x; with_reducible intro _; rotate_right 1)
        | clear_value x
        | skip)
    | with_reducible exact Dev.Agree.refl
    | with_reducible assumption
    | lift_lets -underBinder
    | with_reducible apply Dev.Agree.ite
    | (with_reducible apply Dev.Agree.step (Dev.setCap_frame _ _ _); decide; decide)
    | (with_reducible apply Dev.Agree.step (Dev.capWrote_frame _ _ _); decide; decide)
    | split)

theorem Dev.sampleStream_frame (d : Dev) (n : Nat) (ts : Nat) (v : F32) : Dev.Agree [0x60, 0xC0] [.evt, .caps] d (Dev.sampleStream d n ts v) := by
  unfold Dev.sampleStream
  repeat' (first
    | (with_reducible intro x; first
        | (with_reducible refine Dev.Agree.have (cs := [0x60, 0xC0]) (fs := [.evt, .caps]) (a := d) (x := x) ?_ ?_; subst x; rotate_left 1; clear_value x; with_reducible intro _; rotate_right 1)
        | (with_reducible refine Dev.Agree.have (cs := [0x60, 0xC0]) (fs := [.evt, .caps]) (a := d) (x := x.2) ?_ ?_; subst x; rotate_left 1; clear_value x; with_reducible intro _; rotate_right 1)
        | clear_value x
        | skip)
    | with_reducible exact Dev.Agree.refl
    | with_reducible assumption
    | lift_lets -underBinder
    | with_reducible apply Dev.Agree.ite
    | (with_reducible apply Dev.Agree.inc; decide; decide)
    | (with_reducible apply Dev.Agree.step (Dev.setCap_frame _ _ _); decide; decide)
    | (with_reducible apply Dev.Agree.step (Dev.closeBlk_frame _ _); decide; decide)
    | (with_reducible apply Dev.Agree.step (Dev.openBlk_frame _ _ _); decide; decide)
    | (with_reducible apply Dev.Agree.step (Dev.capGap_frame _ _ _ _); decide; decide)
    | (with_reducible apply Dev.Agree.step (Dev.capWrote_frame _ _ _); decide; decide)
    | split)

theorem Dev.ringKeep_frame (d : Dev) (n : Nat) (ts : Nat) (v : F32) : Dev.Agree [0x60] [.caps] d (Dev.ringKeep d n ts v) := by
  unfold Dev.ringKeep
  repeat' (first
    | (with_reducible intro x; first
        | (with_reducible refine Dev.Agree.have (cs := [0x60]) (fs := [.caps]) (a := d) (x := x) ?_ ?_; subst x; rotate_left 1; clear_value x; with_reducible intro _; rotate_right 1)
        | (with_reducible refine Dev.Agree.have (cs := [0x60]) (fs := [.caps]) (a := d) (x := x.2) ?_ ?_; subst x; rotate_left 1; clear_value x; with_reducible intro _; rotate_right 1)
        | clear_value x
        | skip)
    | with_reducible exact Dev.Agree.refl
    | with_reducible assumption
    | lift_lets -underBinder
    | with_reducible apply Dev.Agree.ite
    | (with_reducible apply Dev.Agree.inc; decide; decide)
    | (with_reducible apply Dev.Agree.step (Dev.setCap_frame _ _ _); decide; decide)
    | (with_reducible apply Dev.Agree.step (Dev.capWrote_frame _ _ _); decide; decide)
    | split)

theorem Dev.sampleRing_frame (d : Dev) (n : Nat) (ts : Nat) (v : F32) : Dev.Agree [0x60, 0xC0] [.evt, .caps] d (Dev.sampleRing d n ts v) := by
  unfold Dev.sampleRing
  repeat' (first
    | (with_reducible intro x; first
        | (with_reducible refine Dev.Agree.have (cs := [0x60, 0xC0]) (fs := [.evt, .caps]) (a := d) (x := x) ?_ ?_; subst x; rotate_left 1; clear_value x; with_reducible intro _; rotate_right 1)
        | (with_reducible refine Dev.Agree.have (cs := [0x60, 0xC0]) (fs := [.evt, .caps]) (a := d) (x := x.2) ?_ ?_; subst x; rotate_left 1; clear_value x; with_reducible intro _; rotate_right 1)
        | clear_value x
        | skip)
    | with_reducible exact Dev.Agree.refl
    | with_reducible assumption
    | lift_lets -underBinder
    | with_reducible apply Dev.Agree.ite
    | (with_reducible apply Dev.Agree.step (Dev.setCap_frame _ _ _); decide; decide)
    | (with_reducible apply Dev.Agree.step (Dev.capGap_frame _ _ _ _); decide; decide)
    | (with_reducible apply Dev.Agree.step (Dev.ringKeep_frame _ _ _ _); decide; decide)
    | split)

theorem Dev.capOffer_frame (d : Dev) (n : Nat) (ts : Nat) (v : F32) : Dev.Agree [0x60, 0xC0] [.evt, .caps] d (Dev.capOffer d n ts v) := by
  unfold Dev.capOffer
  repeat' (first
    | (with_reducible intro x; first
        | (with_reducible refine Dev.Agree.have (cs := [0x60, 0xC0]) (fs := [.evt, .caps]) (a := d) (x := x) ?_ ?_; subst x; rotate_left 1; clear_value x; with_reducible intro _; rotate_right 1)
        | (with_reducible refine Dev.Agree.have (cs := [0x60, 0xC0]) (fs := [.evt, .caps]) (a := d) (x := x.2) ?_ ?_; subst x; rotate_left 1; clear_value x; with_reducible intro _; rotate_right 1)
        | clear_value x
        | skip)
    | with_reducible exact Dev.Agree.refl
    | with_reducible assumption
    | lift_lets -underBinder
    | with_reducible apply Dev.Agree.ite
    | (with_reducible apply Dev.Agree.step (Dev.setCap_frame _ _ _); decide; decide)
    | (with_reducible apply Dev.Agree.step (Dev.capGap_frame _ _ _ _); decide; decide)
    | (with_reducible apply Dev.Agree.step (Dev.sampleStream_frame _ _ _ _); decide; decide)
    | (with_reducible apply Dev.Agree.step (Dev.sampleRing_frame _ _ _ _); decide; decide)
    | split)

theorem Dev.markMask_frame (d : Dev) (mask : Nat) (m : Mark) : Dev.Agree [] [.caps] d (Dev.markMask d mask m) := by
  unfold Dev.markMask
  repeat' (first
    | (with_reducible intro x; first
        | (with_reducible refine Dev.Agree.have (cs := []) (fs := [.caps]) (a := d) (x := x) ?_ ?_; subst x; rotate_left 1; clear_value x; with_reducible intro _; rotate_right 1)
        | (with_reducible refine Dev.Agree.have (cs := []) (fs := [.caps]) (a := d) (x := x.2) ?_ ?_; subst x; rotate_left 1; clear_value x; with_reducible intro _; rotate_right 1)
        | clear_value x
        | skip)
    | with_reducible exact Dev.Agree.refl
    | with_reducible assumption
    | lift_lets -underBinder
    | with_reducible apply Dev.Agree.ite
    | (with_reducible apply Dev.Agree.step (Dev.markStream_frame _ _ _); decide; decide)
    | with_reducible apply Dev.Agree.forL
    | split)

theorem Dev.capSplit_frame (d : Dev) (n : Nat) (f : Nat) : Dev.Agree [0x60] [.caps] d (Dev.capSplit d n f) := by
  unfold Dev.capSplit
  repeat' (first
    | (with_reducible intro x; first
        | (with_reducible refine Dev.Agree.have (cs := [0x60]) (fs := [.caps]) (a := d) (x := x) ?_ ?_; subst x; rotate_left 1; clear_value x; with_reducible intro _; rotate_right 1)
        | (with_reducible refine Dev.Agree.have (cs := [0x60]) (fs := [.caps]) (a := d) (x := x.2) ?_ ?_; subst x; rotate_left 1; clear_value x; with_reducible intro _; rotate_right 1)
        | clear_value x
        | skip)
    | with_reducible exact Dev.Agree.refl
    | with_reducible assumption
    | lift_lets -underBinder
    | with_reducible apply Dev.Agree.ite
    | (with_reducible apply Dev.Agree.put; decide; decide)
    | (with_reducible apply Dev.Agree.step (Dev.setCap_frame _ _ _); decide; decide)
    | split)

theorem Dev.ringMarks_frame (d : Dev) (mask : Nat) (trig : Nat) (f : Fire) : Dev.Agree [0x60] [.caps] d (Dev.ringMarks d mask trig f) := by
  unfold Dev.ringMarks
  repeat' (first
    | (with_reducible intro x; first
        | (with_reducible refine Dev.Agree.have (cs := [0x60]) (fs := [.caps]) (a := d) (x := x) ?_ ?_; subst x; rotate_left 1; clear_value x; with_reducible intro _; rotate_right 1)
        | (with_reducible refine Dev.Agree.have (cs := [0x60]) (fs := [.caps]) (a := d) (x := x.2) ?_ ?_; subst x; rotate_left 1; clear_value x; with_reducible intro _; rotate_right 1)
        | clear_value x
        | skip)
    | with_reducible exact Dev.Agree.refl
    | with_reducible assumption
    | lift_lets -underBinder
    | with_reducible apply Dev.Agree.ite
    | (with_reducible apply Dev.Agree.put; decide; decide)
    | (with_reducible apply Dev.Agree.step (Dev.capFlag_frame _ _ _); decide; decide)
    | (with_reducible apply Dev.Agree.step (Dev.markRing_frame _ _ _); decide; decide)
    | with_reducible apply Dev.Agree.forL
    | split)

theorem Dev.trigMissed_frame (d : Dev) (n : Nat) (ts : Nat) (cause : Nat) (stake : Nat) : Dev.Agree [0x61, 0xC0] [.evt, .caps] d (Dev.trigMissed d n ts cause stake) := by
  unfold Dev.trigMissed
  repeat' (first
    | (with_reducible intro x; first
        | (with_reducible refine Dev.Agree.have (cs := [0x61, 0xC0]) (fs := [.evt, .caps]) (a := d) (x := x) ?_ ?_; subst x; rotate_left 1; clear_value x; with_reducible intro _; rotate_right 1)
        | (with_reducible refine Dev.Agree.have (cs := [0x61, 0xC0]) (fs := [.evt, .caps]) (a := d) (x := x.2) ?_ ?_; subst x; rotate_left 1; clear_value x; with_reducible intro _; rotate_right 1)
        | clear_value x
        | skip)
    | with_reducible exact Dev.Agree.refl
    | with_reducible assumption
    | lift_lets -underBinder
    | with_reducible apply Dev.Agree.ite
    | (with_reducible apply Dev.Agree.inc; decide; decide)
    | (with_reducible apply Dev.Agree.step (Dev.raise_frame _ _ _ _ _); decide; decide)
    | (with_reducible apply Dev.Agree.step (Dev.markMask_frame _ _ _); decide; decide)
    | split)

theorem Dev.fireMarks_frame (d : Dev) (n : Nat) (f : Fire) : Dev.Agree [0x60] [.caps] d (Dev.fireMarks d n f) := by
  unfold Dev.fireMarks
  repeat' (first
    | (with_reducible intro x; first
        | (with_reducible refine Dev.Agree.have (cs := [0x60]) (fs := [.caps]) (a := d) (x := x) ?_ ?_; subst x; rotate_left 1; clear_value x; with_reducible intro _; rotate_right 1)
        | (with_reducible refine Dev.Agree.have (cs := [0x60]) (fs := [.caps]) (a := d) (x := x.2) ?_ ?_; subst x; rotate_left 1; clear_value x; with_reducible intro _; rotate_right 1)
        | clear_value x
        | skip)
    | with_reducible exact Dev.Agree.refl
    | with_reducible assumption
    | lift_lets -underBinder
    | with_reducible apply Dev.Agree.ite
    | (with_reducible apply Dev.Agree.step (Dev.markMask_frame _ _ _); decide; decide)
    | (with_reducible apply Dev.Agree.step (Dev.ringMarks_frame _ _ _ _); decide; decide)
    | split)

theorem Dev.sendFire_frame (d : Dev) (n : Nat) (ts : Nat) (cause : Nat) : Dev.Agree [] [.weave] d (Dev.sendFire d n ts cause) := by
  unfold Dev.sendFire
  repeat' (first
    | (with_reducible intro x; first
        | (with_reducible refine Dev.Agree.have (cs := []) (fs := [.weave]) (a := d) (x := x) ?_ ?_; subst x; rotate_left 1; clear_value x; with_reducible intro _; rotate_right 1)
        | (with_reducible refine Dev.Agree.have (cs := []) (fs := [.weave]) (a := d) (x := x.2) ?_ ?_; subst x; rotate_left 1; clear_value x; with_reducible intro _; rotate_right 1)
        | clear_value x
        | skip)
    | with_reducible exact Dev.Agree.refl
    | with_reducible assumption
    | lift_lets -underBinder
    | with_reducible apply Dev.Agree.ite
    | (with_reducible apply Dev.Agree.step (Dev.weavePut_frame _ _ _ _ _); decide; decide)
    | split)

theorem Dev.fireTrig_frame (d : Dev) (n : Nat) (ts : Nat) (cause : Nat) (stake : Nat) : Dev.Agree [0x60, 0x61, 0xC0] [.evt, .caps, .trigs, .weave] d (Dev.fireTrig d n ts cause stake) := by
  unfold Dev.fireTrig
  repeat' (first
    | (with_reducible intro x; first
        | (with_reducible refine Dev.Agree.have (cs := [0x60, 0x61, 0xC0]) (fs := [.evt, .caps, .trigs, .weave]) (a := d) (x := x) ?_ ?_; subst x; rotate_left 1; clear_value x; with_reducible intro _; rotate_right 1)
        | (with_reducible refine Dev.Agree.have (cs := [0x60, 0x61, 0xC0]) (fs := [.evt, .caps, .trigs, .weave]) (a := d) (x := x.2) ?_ ?_; subst x; rotate_left 1; clear_value x; with_reducible intro _; rotate_right 1)
        | clear_value x
        | skip)
    | with_reducible exact Dev.Agree.refl
    | with_reducible assumption
    | lift_lets -underBinder
    | with_reducible apply Dev.Agree.ite
    | (with_reducible apply Dev.Agree.put; decide; decide)
    | (with_reducible apply Dev.Agree.inc; decide; decide)
    | (with_reducible apply Dev.Agree.step (Dev.raise_frame _ _ _ _ _); decide; decide)
    | (with_reducible apply Dev.Agree.step (Dev.setTrig_frame _ _ _); decide; decide)
    | (with_reducible apply Dev.Agree.step (Dev.capFlag_frame _ _ _); decide; decide)
    | (with_reducible apply Dev.Agree.step (Dev.capSplit_frame _ _ _); decide; decide)
    | (with_reducible apply Dev.Agree.step (Dev.trigMissed_frame _ _ _ _ _); decide; decide)
    | (with_reducible apply Dev.Agree.step (Dev.fireMarks_frame _ _ _); decide; decide)
    | (with_reducible apply Dev.Agree.step (Dev.sendFire_frame _ _ _ _); decide; decide)
    | with_reducible apply Dev.Agree.forL
    | split)

theorem Dev.trigCond_frame (d : Dev) (n : Nat) (ts : Nat) (cause : Nat) : Dev.Agree [0x60, 0x61, 0xC0] [.evt, .caps, .trigs, .weave] d (Dev.trigCond d n ts cause) := by
  unfold Dev.trigCond
  repeat' (first
    | (with_reducible intro x; first
        | (with_reducible refine Dev.Agree.have (cs := [0x60, 0x61, 0xC0]) (fs := [.evt, .caps, .trigs, .weave]) (a := d) (x := x) ?_ ?_; subst x; rotate_left 1; clear_value x; with_reducible intro _; rotate_right 1)
        | (with_reducible refine Dev.Agree.have (cs := [0x60, 0x61, 0xC0]) (fs := [.evt, .caps, .trigs, .weave]) (a := d) (x := x.2) ?_ ?_; subst x; rotate_left 1; clear_value x; with_reducible intro _; rotate_right 1)
        | clear_value x
        | skip)
    | with_reducible exact Dev.Agree.refl
    | with_reducible assumption
    | lift_lets -underBinder
    | with_reducible apply Dev.Agree.ite
    | (with_reducible apply Dev.Agree.step (Dev.fireTrig_frame _ _ _ _ _); decide; decide)
    | split)

theorem Dev.trigOffer_frame (d : Dev) (n : Nat) (ts : Nat) (v : F32) : Dev.Agree [0x60, 0x61, 0xC0] [.evt, .caps, .trigs, .weave] d (Dev.trigOffer d n ts v) := by
  unfold Dev.trigOffer
  repeat' (first
    | (with_reducible intro x; first
        | (with_reducible refine Dev.Agree.have (cs := [0x60, 0x61, 0xC0]) (fs := [.evt, .caps, .trigs, .weave]) (a := d) (x := x) ?_ ?_; subst x; rotate_left 1; clear_value x; with_reducible intro _; rotate_right 1)
        | (with_reducible refine Dev.Agree.have (cs := [0x60, 0x61, 0xC0]) (fs := [.evt, .caps, .trigs, .weave]) (a := d) (x := x.2) ?_ ?_; subst x; rotate_left 1; clear_value x; with_reducible intro _; rotate_right 1)
        | clear_value x
        | skip)
    | with_reducible exact Dev.Agree.refl
    | with_reducible assumption
    | lift_lets -underBinder
    | with_reducible apply Dev.Agree.ite
    | (with_reducible apply Dev.Agree.put; decide; decide)
    | (with_reducible apply Dev.Agree.step (Dev.setTrig_frame _ _ _); decide; decide)
    | (with_reducible apply Dev.Agree.step (Dev.trigCond_frame _ _ _ _); decide; decide)
    | split)

theorem Dev.sample_frame (d : Dev) (cls : Nat) (inst : Nat) (sel : Nat) (ts : Nat) (v : F32) (rate : Nat) : Dev.Agree [0x60, 0x61, 0xC0] [.evt, .caps, .trigs, .weave] d (Dev.sample d cls inst sel ts v rate) := by
  unfold Dev.sample
  repeat' (first
    | (with_reducible intro x; first
        | (with_reducible refine Dev.Agree.have (cs := [0x60, 0x61, 0xC0]) (fs := [.evt, .caps, .trigs, .weave]) (a := d) (x := x) ?_ ?_; subst x; rotate_left 1; clear_value x; with_reducible intro _; rotate_right 1)
        | (with_reducible refine Dev.Agree.have (cs := [0x60, 0x61, 0xC0]) (fs := [.evt, .caps, .trigs, .weave]) (a := d) (x := x.2) ?_ ?_; subst x; rotate_left 1; clear_value x; with_reducible intro _; rotate_right 1)
        | clear_value x
        | skip)
    | with_reducible exact Dev.Agree.refl
    | with_reducible assumption
    | lift_lets -underBinder
    | with_reducible apply Dev.Agree.ite
    | (with_reducible apply Dev.Agree.step (Dev.capOffer_frame _ _ _ _); decide; decide)
    | (with_reducible apply Dev.Agree.step (Dev.trigOffer_frame _ _ _ _); decide; decide)
    | with_reducible apply Dev.Agree.forN
    | split)

theorem Dev.sampleParams_frame (d : Dev) : Dev.Agree [0x60, 0x61, 0xC0] [.evt, .caps, .trigs, .weave] d (Dev.sampleParams d) := by
  unfold Dev.sampleParams
  repeat' (first
    | (with_reducible intro x; first
        | (with_reducible refine Dev.Agree.have (cs := [0x60, 0x61, 0xC0]) (fs := [.evt, .caps, .trigs, .weave]) (a := d) (x := x) ?_ ?_; subst x; rotate_left 1; clear_value x; with_reducible intro _; rotate_right 1)
        | (with_reducible refine Dev.Agree.have (cs := [0x60, 0x61, 0xC0]) (fs := [.evt, .caps, .trigs, .weave]) (a := d) (x := x.2) ?_ ?_; subst x; rotate_left 1; clear_value x; with_reducible intro _; rotate_right 1)
        | clear_value x
        | skip)
    | with_reducible exact Dev.Agree.refl
    | with_reducible assumption
    | lift_lets -underBinder
    | with_reducible apply Dev.Agree.ite
    | (with_reducible apply Dev.Agree.step (Dev.capOffer_frame _ _ _ _); decide; decide)
    | (with_reducible apply Dev.Agree.step (Dev.trigOffer_frame _ _ _ _); decide; decide)
    | with_reducible apply Dev.Agree.forN
    | split)

theorem Dev.carrierEvent_frame (d : Dev) (leg : Nat) (kind : Nat) (ts : Nat) : Dev.Agree [0x60, 0x61, 0xC0] [.evt, .caps, .trigs, .weave] d (Dev.carrierEvent d leg kind ts) := by
  unfold Dev.carrierEvent
  repeat' (first
    | (with_reducible intro x; first
        | (with_reducible refine Dev.Agree.have (cs := [0x60, 0x61, 0xC0]) (fs := [.evt, .caps, .trigs, .weave]) (a := d) (x := x) ?_ ?_; subst x; rotate_left 1; clear_value x; with_reducible intro _; rotate_right 1)
        | (with_reducible refine Dev.Agree.have (cs := [0x60, 0x61, 0xC0]) (fs := [.evt, .caps, .trigs, .weave]) (a := d) (x := x.2) ?_ ?_; subst x; rotate_left 1; clear_value x; with_reducible intro _; rotate_right 1)
        | clear_value x
        | skip)
    | with_reducible exact Dev.Agree.refl
    | with_reducible assumption
    | lift_lets -underBinder
    | with_reducible apply Dev.Agree.ite
    | (with_reducible apply Dev.Agree.step (Dev.markStream_frame _ _ _); decide; decide)
    | (with_reducible apply Dev.Agree.step (Dev.markRing_frame _ _ _); decide; decide)
    | (with_reducible apply Dev.Agree.step (Dev.trigCond_frame _ _ _ _); decide; decide)
    | with_reducible apply Dev.Agree.forN
    | split)

theorem Dev.eventTrig_frame (d : Dev) (ev : Nat) : Dev.Agree [0x60, 0x61, 0xC0] [.evt, .caps, .trigs, .weave] d (Dev.eventTrig d ev) := by
  unfold Dev.eventTrig
  repeat' (first
    | (with_reducible intro x; first
        | (with_reducible refine Dev.Agree.have (cs := [0x60, 0x61, 0xC0]) (fs := [.evt, .caps, .trigs, .weave]) (a := d) (x := x) ?_ ?_; subst x; rotate_left 1; clear_value x; with_reducible intro _; rotate_right 1)
        | (with_reducible refine Dev.Agree.have (cs := [0x60, 0x61, 0xC0]) (fs := [.evt, .caps, .trigs, .weave]) (a := d) (x := x.2) ?_ ?_; subst x; rotate_left 1; clear_value x; with_reducible intro _; rotate_right 1)
        | clear_value x
        | skip)
    | with_reducible exact Dev.Agree.refl
    | with_reducible assumption
    | lift_lets -underBinder
    | with_reducible apply Dev.Agree.ite
    | (with_reducible apply Dev.Agree.step (Dev.markStream_frame _ _ _); decide; decide)
    | (with_reducible apply Dev.Agree.step (Dev.markRing_frame _ _ _); decide; decide)
    | (with_reducible apply Dev.Agree.step (Dev.trigCond_frame _ _ _ _); decide; decide)
    | with_reducible apply Dev.Agree.forN
    | split)

theorem Dev.serveFresh_frame (k : Nat) (d : Dev) : Dev.Agree [0x60, 0x61, 0xC0] [.evt, .caps, .trigs, .weave] d (Dev.serveFresh k d) := by
  induction k generalizing d with
  | zero => unfold Dev.serveFresh; exact Dev.Agree.upd_evt (by decide) Dev.Agree.refl
  | succ k ih =>
    unfold Dev.serveFresh
    split
    · exact Dev.Agree.refl
    · refine Dev.Agree.trans ?_ (ih _)
      refine Dev.Agree.step (Dev.eventTrig_frame _ _) (by decide) (by decide) ?_
      exact Dev.Agree.upd_evt (by decide) Dev.Agree.refl

theorem Dev.windowTrig_frame (d : Dev) (win : Nat) (comp : Nat) : Dev.Agree [0x60, 0x61, 0xC0] [.evt, .caps, .trigs, .weave] d (Dev.windowTrig d win comp) := by
  unfold Dev.windowTrig
  repeat' (first
    | (with_reducible intro x; first
        | (with_reducible refine Dev.Agree.have (cs := [0x60, 0x61, 0xC0]) (fs := [.evt, .caps, .trigs, .weave]) (a := d) (x := x) ?_ ?_; subst x; rotate_left 1; clear_value x; with_reducible intro _; rotate_right 1)
        | (with_reducible refine Dev.Agree.have (cs := [0x60, 0x61, 0xC0]) (fs := [.evt, .caps, .trigs, .weave]) (a := d) (x := x.2) ?_ ?_; subst x; rotate_left 1; clear_value x; with_reducible intro _; rotate_right 1)
        | clear_value x
        | skip)
    | with_reducible exact Dev.Agree.refl
    | with_reducible assumption
    | lift_lets -underBinder
    | with_reducible apply Dev.Agree.ite
    | (with_reducible apply Dev.Agree.step (Dev.trigCond_frame _ _ _ _); decide; decide)
    | with_reducible apply Dev.Agree.forN
    | split)

theorem Dev.trigArm_frame (d : Dev) (n : Nat) (v : Nat) (here : Bool) : Dev.Agree [0x61] [.trigs] d (Dev.trigArm d n v here) := by
  unfold Dev.trigArm
  repeat' (first
    | (with_reducible intro x; first
        | (with_reducible refine Dev.Agree.have (cs := [0x61]) (fs := [.trigs]) (a := d) (x := x) ?_ ?_; subst x; rotate_left 1; clear_value x; with_reducible intro _; rotate_right 1)
        | (with_reducible refine Dev.Agree.have (cs := [0x61]) (fs := [.trigs]) (a := d) (x := x.2) ?_ ?_; subst x; rotate_left 1; clear_value x; with_reducible intro _; rotate_right 1)
        | clear_value x
        | skip)
    | with_reducible exact Dev.Agree.refl
    | with_reducible assumption
    | lift_lets -underBinder
    | with_reducible apply Dev.Agree.ite
    | (with_reducible apply Dev.Agree.put; decide; decide)
    | (with_reducible apply Dev.Agree.step (Dev.setTrig_frame _ _ _); decide; decide)
    | split)

theorem Dev.startStream_frame (d : Dev) (n : Nat) (gap : Option (Nat × Nat)) : Dev.Agree [0x60] [.caps] d (Dev.startStream d n gap) := by
  unfold Dev.startStream
  repeat' (first
    | (with_reducible intro x; first
        | (with_reducible refine Dev.Agree.have (cs := [0x60]) (fs := [.caps]) (a := d) (x := x) ?_ ?_; subst x; rotate_left 1; clear_value x; with_reducible intro _; rotate_right 1)
        | (with_reducible refine Dev.Agree.have (cs := [0x60]) (fs := [.caps]) (a := d) (x := x.2) ?_ ?_; subst x; rotate_left 1; clear_value x; with_reducible intro _; rotate_right 1)
        | clear_value x
        | skip)
    | with_reducible exact Dev.Agree.refl
    | with_reducible assumption
    | lift_lets -underBinder
    | with_reducible apply Dev.Agree.ite
    | (with_reducible apply Dev.Agree.put; decide; decide)
    | (with_reducible apply Dev.Agree.step (Dev.setCap_frame _ _ _); decide; decide)
    | (with_reducible apply Dev.Agree.step (Dev.markStream_frame _ _ _); decide; decide)
    | (with_reducible apply Dev.Agree.step (Dev.markRing_frame _ _ _); decide; decide)
    | split)

theorem Dev.capIdle_frame (d : Dev) (n : Nat) : Dev.Agree [0x60] [.caps] d (Dev.capIdle d n) := by
  unfold Dev.capIdle
  repeat' (first
    | (with_reducible intro x; first
        | (with_reducible refine Dev.Agree.have (cs := [0x60]) (fs := [.caps]) (a := d) (x := x) ?_ ?_; subst x; rotate_left 1; clear_value x; with_reducible intro _; rotate_right 1)
        | (with_reducible refine Dev.Agree.have (cs := [0x60]) (fs := [.caps]) (a := d) (x := x.2) ?_ ?_; subst x; rotate_left 1; clear_value x; with_reducible intro _; rotate_right 1)
        | clear_value x
        | skip)
    | with_reducible exact Dev.Agree.refl
    | with_reducible assumption
    | lift_lets -underBinder
    | with_reducible apply Dev.Agree.ite
    | (with_reducible apply Dev.Agree.put; decide; decide)
    | (with_reducible apply Dev.Agree.step (Dev.setCap_frame _ _ _); decide; decide)
    | split)

theorem Dev.endStream_frame (d : Dev) (n : Nat) : Dev.Agree [0x60, 0xC0] [.evt, .caps] d (Dev.endStream d n) := by
  unfold Dev.endStream
  repeat' (first
    | (with_reducible intro x; first
        | (with_reducible refine Dev.Agree.have (cs := [0x60, 0xC0]) (fs := [.evt, .caps]) (a := d) (x := x) ?_ ?_; subst x; rotate_left 1; clear_value x; with_reducible intro _; rotate_right 1)
        | (with_reducible refine Dev.Agree.have (cs := [0x60, 0xC0]) (fs := [.evt, .caps]) (a := d) (x := x.2) ?_ ?_; subst x; rotate_left 1; clear_value x; with_reducible intro _; rotate_right 1)
        | clear_value x
        | skip)
    | with_reducible exact Dev.Agree.refl
    | with_reducible assumption
    | lift_lets -underBinder
    | with_reducible apply Dev.Agree.ite
    | (with_reducible apply Dev.Agree.step (Dev.setCap_frame _ _ _); decide; decide)
    | (with_reducible apply Dev.Agree.step (Dev.closeBlk_frame _ _); decide; decide)
    | (with_reducible apply Dev.Agree.step (Dev.capGap_frame _ _ _ _); decide; decide)
    | (with_reducible apply Dev.Agree.step (Dev.markStream_frame _ _ _); decide; decide)
    | split)

theorem Dev.stopStream_frame (d : Dev) (n : Nat) : Dev.Agree [0x60, 0xC0] [.evt, .caps] d (Dev.stopStream d n) := by
  unfold Dev.stopStream
  repeat' (first
    | (with_reducible intro x; first
        | (with_reducible refine Dev.Agree.have (cs := [0x60, 0xC0]) (fs := [.evt, .caps]) (a := d) (x := x) ?_ ?_; subst x; rotate_left 1; clear_value x; with_reducible intro _; rotate_right 1)
        | (with_reducible refine Dev.Agree.have (cs := [0x60, 0xC0]) (fs := [.evt, .caps]) (a := d) (x := x.2) ?_ ?_; subst x; rotate_left 1; clear_value x; with_reducible intro _; rotate_right 1)
        | clear_value x
        | skip)
    | with_reducible exact Dev.Agree.refl
    | with_reducible assumption
    | lift_lets -underBinder
    | with_reducible apply Dev.Agree.ite
    | (with_reducible apply Dev.Agree.put; decide; decide)
    | (with_reducible apply Dev.Agree.step (Dev.setCap_frame _ _ _); decide; decide)
    | (with_reducible apply Dev.Agree.step (Dev.capIdle_frame _ _); decide; decide)
    | (with_reducible apply Dev.Agree.step (Dev.endStream_frame _ _); decide; decide)
    | split)

theorem Dev.capComplete_frame (d : Dev) (n : Nat) : Dev.Agree [0x60] [.caps] d (Dev.capComplete d n) := by
  unfold Dev.capComplete
  repeat' (first
    | (with_reducible intro x; first
        | (with_reducible refine Dev.Agree.have (cs := [0x60]) (fs := [.caps]) (a := d) (x := x) ?_ ?_; subst x; rotate_left 1; clear_value x; with_reducible intro _; rotate_right 1)
        | (with_reducible refine Dev.Agree.have (cs := [0x60]) (fs := [.caps]) (a := d) (x := x.2) ?_ ?_; subst x; rotate_left 1; clear_value x; with_reducible intro _; rotate_right 1)
        | clear_value x
        | skip)
    | with_reducible exact Dev.Agree.refl
    | with_reducible assumption
    | lift_lets -underBinder
    | with_reducible apply Dev.Agree.ite
    | (with_reducible apply Dev.Agree.put; decide; decide)
    | (with_reducible apply Dev.Agree.step (Dev.setCap_frame _ _ _); decide; decide)
    | split)

theorem Dev.capEcc_frame (d : Dev) (n : Nat) (pos : Nat) : Dev.Agree [0x60, 0xC0] [.evt, .caps] d (Dev.capEcc d n pos) := by
  unfold Dev.capEcc
  repeat' (first
    | (with_reducible intro x; first
        | (with_reducible refine Dev.Agree.have (cs := [0x60, 0xC0]) (fs := [.evt, .caps]) (a := d) (x := x) ?_ ?_; subst x; rotate_left 1; clear_value x; with_reducible intro _; rotate_right 1)
        | (with_reducible refine Dev.Agree.have (cs := [0x60, 0xC0]) (fs := [.evt, .caps]) (a := d) (x := x.2) ?_ ?_; subst x; rotate_left 1; clear_value x; with_reducible intro _; rotate_right 1)
        | clear_value x
        | skip)
    | with_reducible exact Dev.Agree.refl
    | with_reducible assumption
    | lift_lets -underBinder
    | with_reducible apply Dev.Agree.ite
    | (with_reducible apply Dev.Agree.step (Dev.setCap_frame _ _ _); decide; decide)
    | (with_reducible apply Dev.Agree.step (Dev.gapNote_frame _ _ _); decide; decide)
    | split)

theorem Dev.deliverBlock_frame (d : Dev) (n : Nat) : Dev.Agree [0x60, 0x90, 0x91, 0xC0] [.evt, .host, .caps] d (Dev.deliverBlock d n) := by
  unfold Dev.deliverBlock
  repeat' (first
    | (with_reducible intro x; first
        | (with_reducible refine Dev.Agree.have (cs := [0x60, 0x90, 0x91, 0xC0]) (fs := [.evt, .host, .caps]) (a := d) (x := x) ?_ ?_; subst x; rotate_left 1; clear_value x; with_reducible intro _; rotate_right 1)
        | (with_reducible refine Dev.Agree.have (cs := [0x60, 0x90, 0x91, 0xC0]) (fs := [.evt, .host, .caps]) (a := d) (x := x.2) ?_ ?_; subst x; rotate_left 1; clear_value x; with_reducible intro _; rotate_right 1)
        | clear_value x
        | skip)
    | with_reducible exact Dev.Agree.refl
    | with_reducible assumption
    | lift_lets -underBinder
    | with_reducible apply Dev.Agree.ite
    | (with_reducible apply Dev.Agree.inc; decide; decide)
    | (with_reducible apply Dev.Agree.step (Dev.raise_frame _ _ _ _ _); decide; decide)
    | (with_reducible apply Dev.Agree.step (Dev.ringPut_frame _ _ _); decide; decide)
    | (with_reducible apply Dev.Agree.step (Dev.setCap_frame _ _ _); decide; decide)
    | (with_reducible apply Dev.Agree.step (Dev.capFlag_frame _ _ _); decide; decide)
    | (with_reducible apply Dev.Agree.step (Dev.capIdle_frame _ _); decide; decide)
    | split)

theorem Dev.setLeg_frame (d : Dev) (n : Nat) (x : LegRt) : Dev.Agree [] [.legs] d (Dev.setLeg d n x) := by
  unfold Dev.setLeg
  repeat' (first
    | (with_reducible intro x; first
        | (with_reducible refine Dev.Agree.have (cs := []) (fs := [.legs]) (a := d) (x := x) ?_ ?_; subst x; rotate_left 1; clear_value x; with_reducible intro _; rotate_right 1)
        | (with_reducible refine Dev.Agree.have (cs := []) (fs := [.legs]) (a := d) (x := x.2) ?_ ?_; subst x; rotate_left 1; clear_value x; with_reducible intro _; rotate_right 1)
        | clear_value x
        | skip)
    | with_reducible exact Dev.Agree.refl
    | with_reducible assumption
    | lift_lets -underBinder
    | with_reducible apply Dev.Agree.ite
    | (fail_if_no_progress with_reducible apply Dev.Agree.upd_legs; decide)
    | split)

theorem Dev.setPort_frame (d : Dev) (n : Nat) (x : PortRt) : Dev.Agree [] [.ports] d (Dev.setPort d n x) := by
  unfold Dev.setPort
  repeat' (first
    | (with_reducible intro x; first
        | (with_reducible refine Dev.Agree.have (cs := []) (fs := [.ports]) (a := d) (x := x) ?_ ?_; subst x; rotate_left 1; clear_value x; with_reducible intro _; rotate_right 1)
        | (with_reducible refine Dev.Agree.have (cs := []) (fs := [.ports]) (a := d) (x := x.2) ?_ ?_; subst x; rotate_left 1; clear_value x; with_reducible intro _; rotate_right 1)
        | clear_value x
        | skip)
    | with_reducible exact Dev.Agree.refl
    | with_reducible assumption
    | lift_lets -underBinder
    | with_reducible apply Dev.Agree.ite
    | (fail_if_no_progress with_reducible apply Dev.Agree.upd_ports; decide)
    | split)

theorem Dev.legStop_frame (d : Dev) (n : Nat) (st : Nat) : Dev.Agree [0x31] [.legs] d (Dev.legStop d n st) := by
  unfold Dev.legStop
  repeat' (first
    | (with_reducible intro x; first
        | (with_reducible refine Dev.Agree.have (cs := [0x31]) (fs := [.legs]) (a := d) (x := x) ?_ ?_; subst x; rotate_left 1; clear_value x; with_reducible intro _; rotate_right 1)
        | (with_reducible refine Dev.Agree.have (cs := [0x31]) (fs := [.legs]) (a := d) (x := x.2) ?_ ?_; subst x; rotate_left 1; clear_value x; with_reducible intro _; rotate_right 1)
        | clear_value x
        | skip)
    | with_reducible exact Dev.Agree.refl
    | with_reducible assumption
    | lift_lets -underBinder
    | with_reducible apply Dev.Agree.ite
    | (with_reducible apply Dev.Agree.put; decide; decide)
    | (with_reducible apply Dev.Agree.putF; decide; decide)
    | (with_reducible apply Dev.Agree.step (Dev.setLeg_frame _ _ _); decide; decide)
    | split)

theorem Dev.tripOne_frame (d : Dev) (n : Nat) (cause : Nat) : Dev.Agree [0x31, 0xC0] [.evt, .legs] d (Dev.tripOne d n cause) := by
  unfold Dev.tripOne
  repeat' (first
    | (with_reducible intro x; first
        | (with_reducible refine Dev.Agree.have (cs := [0x31, 0xC0]) (fs := [.evt, .legs]) (a := d) (x := x) ?_ ?_; subst x; rotate_left 1; clear_value x; with_reducible intro _; rotate_right 1)
        | (with_reducible refine Dev.Agree.have (cs := [0x31, 0xC0]) (fs := [.evt, .legs]) (a := d) (x := x.2) ?_ ?_; subst x; rotate_left 1; clear_value x; with_reducible intro _; rotate_right 1)
        | clear_value x
        | skip)
    | with_reducible exact Dev.Agree.refl
    | with_reducible assumption
    | lift_lets -underBinder
    | with_reducible apply Dev.Agree.ite
    | (with_reducible apply Dev.Agree.put; decide; decide)
    | (with_reducible apply Dev.Agree.putBit; decide; decide)
    | (with_reducible apply Dev.Agree.inc; decide; decide)
    | (with_reducible apply Dev.Agree.step (Dev.raise_frame _ _ _ _ _); decide; decide)
    | (with_reducible apply Dev.Agree.step (Dev.legStop_frame _ _ _); decide; decide)
    | split)

theorem Dev.burstKill_frame (d : Dev) (p : Nat) : Dev.Agree [0x30] [.ports] d (Dev.burstKill d p) := by
  unfold Dev.burstKill
  repeat' (first
    | (with_reducible intro x; first
        | (with_reducible refine Dev.Agree.have (cs := [0x30]) (fs := [.ports]) (a := d) (x := x) ?_ ?_; subst x; rotate_left 1; clear_value x; with_reducible intro _; rotate_right 1)
        | (with_reducible refine Dev.Agree.have (cs := [0x30]) (fs := [.ports]) (a := d) (x := x.2) ?_ ?_; subst x; rotate_left 1; clear_value x; with_reducible intro _; rotate_right 1)
        | clear_value x
        | skip)
    | with_reducible exact Dev.Agree.refl
    | with_reducible assumption
    | lift_lets -underBinder
    | with_reducible apply Dev.Agree.ite
    | (with_reducible apply Dev.Agree.put; decide; decide)
    | (with_reducible apply Dev.Agree.step (Dev.setPort_frame _ _ _); decide; decide)
    | split)

theorem Dev.portStop_frame (d : Dev) (p : Nat) (which : List Nat) (cause : Nat) : Dev.Agree [0x20, 0x30, 0x31, 0xC0] [.evt, .legs, .ports] d (Dev.portStop d p which cause) := by
  unfold Dev.portStop
  repeat' (first
    | (with_reducible intro x; first
        | (with_reducible refine Dev.Agree.have (cs := [0x20, 0x30, 0x31, 0xC0]) (fs := [.evt, .legs, .ports]) (a := d) (x := x) ?_ ?_; subst x; rotate_left 1; clear_value x; with_reducible intro _; rotate_right 1)
        | (with_reducible refine Dev.Agree.have (cs := [0x20, 0x30, 0x31, 0xC0]) (fs := [.evt, .legs, .ports]) (a := d) (x := x.2) ?_ ?_; subst x; rotate_left 1; clear_value x; with_reducible intro _; rotate_right 1)
        | clear_value x
        | skip)
    | with_reducible exact Dev.Agree.refl
    | with_reducible assumption
    | lift_lets -underBinder
    | with_reducible apply Dev.Agree.ite
    | (with_reducible apply Dev.Agree.put; decide; decide)
    | (with_reducible apply Dev.Agree.putF; decide; decide)
    | (with_reducible apply Dev.Agree.inc; decide; decide)
    | (with_reducible apply Dev.Agree.step (Dev.raise_frame _ _ _ _ _); decide; decide)
    | (with_reducible apply Dev.Agree.step (Dev.setPort_frame _ _ _); decide; decide)
    | (with_reducible apply Dev.Agree.step (Dev.tripOne_frame _ _ _); decide; decide)
    | (with_reducible apply Dev.Agree.step (Dev.burstKill_frame _ _); decide; decide)
    | with_reducible apply Dev.Agree.forL
    | split)

theorem Dev.tripLegs_frame (d : Dev) (ns : List Nat) (cause : Nat) : Dev.Agree [0x20, 0x30, 0x31, 0xC0] [.evt, .legs, .ports] d (Dev.tripLegs d ns cause) := by
  unfold Dev.tripLegs
  repeat' (first
    | (with_reducible intro x; first
        | (with_reducible refine Dev.Agree.have (cs := [0x20, 0x30, 0x31, 0xC0]) (fs := [.evt, .legs, .ports]) (a := d) (x := x) ?_ ?_; subst x; rotate_left 1; clear_value x; with_reducible intro _; rotate_right 1)
        | (with_reducible refine Dev.Agree.have (cs := [0x20, 0x30, 0x31, 0xC0]) (fs := [.evt, .legs, .ports]) (a := d) (x := x.2) ?_ ?_; subst x; rotate_left 1; clear_value x; with_reducible intro _; rotate_right 1)
        | clear_value x
        | skip)
    | with_reducible exact Dev.Agree.refl
    | with_reducible assumption
    | lift_lets -underBinder
    | with_reducible apply Dev.Agree.ite
    | (with_reducible apply Dev.Agree.put; decide; decide)
    | (with_reducible apply Dev.Agree.putBit; decide; decide)
    | (with_reducible apply Dev.Agree.inc; decide; decide)
    | (with_reducible apply Dev.Agree.step (Dev.raise_frame _ _ _ _ _); decide; decide)
    | (with_reducible apply Dev.Agree.step (Dev.tripOne_frame _ _ _); decide; decide)
    | (with_reducible apply Dev.Agree.step (Dev.portStop_frame _ _ _ _); decide; decide)
    | with_reducible apply Dev.Agree.forL
    | split)

theorem Dev.legEvent_frame (d : Dev) (n : Nat) (kind : Nat) (ts : Nat) : Dev.Agree [0x60, 0x61, 0xC0] [.evt, .legs, .caps, .trigs, .weave] d (Dev.legEvent d n kind ts) := by
  unfold Dev.legEvent
  repeat' (first
    | (with_reducible intro x; first
        | (with_reducible refine Dev.Agree.have (cs := [0x60, 0x61, 0xC0]) (fs := [.evt, .legs, .caps, .trigs, .weave]) (a := d) (x := x) ?_ ?_; subst x; rotate_left 1; clear_value x; with_reducible intro _; rotate_right 1)
        | (with_reducible refine Dev.Agree.have (cs := [0x60, 0x61, 0xC0]) (fs := [.evt, .legs, .caps, .trigs, .weave]) (a := d) (x := x.2) ?_ ?_; subst x; rotate_left 1; clear_value x; with_reducible intro _; rotate_right 1)
        | clear_value x
        | skip)
    | with_reducible exact Dev.Agree.refl
    | with_reducible assumption
    | lift_lets -underBinder
    | with_reducible apply Dev.Agree.ite
    | (with_reducible apply Dev.Agree.step (Dev.carrierEvent_frame _ _ _ _); decide; decide)
    | (with_reducible apply Dev.Agree.step (Dev.setLeg_frame _ _ _); decide; decide)
    | split)

theorem Dev.legPeriod_frame (d : Dev) (n : Nat) (z : Nat) : Dev.Agree [0x31, 0x60, 0x61, 0xC0] [.evt, .legs, .caps, .trigs, .weave] d (Dev.legPeriod d n z) := by
  unfold Dev.legPeriod
  repeat' (first
    | (with_reducible intro x; first
        | (with_reducible refine Dev.Agree.have (cs := [0x31, 0x60, 0x61, 0xC0]) (fs := [.evt, .legs, .caps, .trigs, .weave]) (a := d) (x := x) ?_ ?_; subst x; rotate_left 1; clear_value x; with_reducible intro _; rotate_right 1)
        | (with_reducible refine Dev.Agree.have (cs := [0x31, 0x60, 0x61, 0xC0]) (fs := [.evt, .legs, .caps, .trigs, .weave]) (a := d) (x := x.2) ?_ ?_; subst x; rotate_left 1; clear_value x; with_reducible intro _; rotate_right 1)
        | clear_value x
        | skip)
    | with_reducible exact Dev.Agree.refl
    | with_reducible assumption
    | lift_lets -underBinder
    | with_reducible apply Dev.Agree.ite
    | (with_reducible apply Dev.Agree.putF; decide; decide)
    | (with_reducible apply Dev.Agree.putBit; decide; decide)
    | (with_reducible apply Dev.Agree.inc; decide; decide)
    | (with_reducible apply Dev.Agree.step (Dev.setLeg_frame _ _ _); decide; decide)
    | (with_reducible apply Dev.Agree.step (Dev.legEvent_frame _ _ _ _); decide; decide)
    | split)

theorem Dev.legPeak_frame (d : Dev) (n : Nat) : Dev.Agree [0x31] [.legs] d (Dev.legPeak d n) := by
  unfold Dev.legPeak
  repeat' (first
    | (with_reducible intro x; first
        | (with_reducible refine Dev.Agree.have (cs := [0x31]) (fs := [.legs]) (a := d) (x := x) ?_ ?_; subst x; rotate_left 1; clear_value x; with_reducible intro _; rotate_right 1)
        | (with_reducible refine Dev.Agree.have (cs := [0x31]) (fs := [.legs]) (a := d) (x := x.2) ?_ ?_; subst x; rotate_left 1; clear_value x; with_reducible intro _; rotate_right 1)
        | clear_value x
        | skip)
    | with_reducible exact Dev.Agree.refl
    | with_reducible assumption
    | lift_lets -underBinder
    | with_reducible apply Dev.Agree.ite
    | (with_reducible apply Dev.Agree.putF; decide; decide)
    | (with_reducible apply Dev.Agree.putBit; decide; decide)
    | (with_reducible apply Dev.Agree.inc; decide; decide)
    | (with_reducible apply Dev.Agree.step (Dev.setLeg_frame _ _ _); decide; decide)
    | split)

theorem Dev.legUpdate_frame (d : Dev) (n : Nat) (peak : Bool) : Dev.Agree [0x31, 0x60, 0x61, 0xC0] [.evt, .legs, .caps, .trigs, .weave] d (Dev.legUpdate d n peak) := by
  unfold Dev.legUpdate
  repeat' (first
    | (with_reducible intro x; first
        | (with_reducible refine Dev.Agree.have (cs := [0x31, 0x60, 0x61, 0xC0]) (fs := [.evt, .legs, .caps, .trigs, .weave]) (a := d) (x := x) ?_ ?_; subst x; rotate_left 1; clear_value x; with_reducible intro _; rotate_right 1)
        | (with_reducible refine Dev.Agree.have (cs := [0x31, 0x60, 0x61, 0xC0]) (fs := [.evt, .legs, .caps, .trigs, .weave]) (a := d) (x := x.2) ?_ ?_; subst x; rotate_left 1; clear_value x; with_reducible intro _; rotate_right 1)
        | clear_value x
        | skip)
    | with_reducible exact Dev.Agree.refl
    | with_reducible assumption
    | lift_lets -underBinder
    | with_reducible apply Dev.Agree.ite
    | (with_reducible apply Dev.Agree.step (Dev.setLeg_frame _ _ _); decide; decide)
    | (with_reducible apply Dev.Agree.step (Dev.legPeriod_frame _ _ _); decide; decide)
    | (with_reducible apply Dev.Agree.step (Dev.legPeak_frame _ _); decide; decide)
    | split)

theorem Dev.legVarEnd_frame (d : Dev) (n : Nat) (t : Nat) : Dev.Agree [0x31, 0x60, 0x61, 0xC0] [.evt, .legs, .caps, .trigs, .weave] d (Dev.legVarEnd d n t) := by
  unfold Dev.legVarEnd
  repeat' (first
    | (with_reducible intro x; first
        | (with_reducible refine Dev.Agree.have (cs := [0x31, 0x60, 0x61, 0xC0]) (fs := [.evt, .legs, .caps, .trigs, .weave]) (a := d) (x := x) ?_ ?_; subst x; rotate_left 1; clear_value x; with_reducible intro _; rotate_right 1)
        | (with_reducible refine Dev.Agree.have (cs := [0x31, 0x60, 0x61, 0xC0]) (fs := [.evt, .legs, .caps, .trigs, .weave]) (a := d) (x := x.2) ?_ ?_; subst x; rotate_left 1; clear_value x; with_reducible intro _; rotate_right 1)
        | clear_value x
        | skip)
    | with_reducible exact Dev.Agree.refl
    | with_reducible assumption
    | lift_lets -underBinder
    | with_reducible apply Dev.Agree.ite
    | (with_reducible apply Dev.Agree.step (Dev.setLeg_frame _ _ _); decide; decide)
    | (with_reducible apply Dev.Agree.step (Dev.legPeriod_frame _ _ _); decide; decide)
    | split)

theorem Dev.legTerminate_frame (d : Dev) (n : Nat) : Dev.Agree [0x31, 0x60, 0x61, 0xC0] [.evt, .legs, .caps, .trigs, .weave] d (Dev.legTerminate d n) := by
  unfold Dev.legTerminate
  repeat' (first
    | (with_reducible intro x; first
        | (with_reducible refine Dev.Agree.have (cs := [0x31, 0x60, 0x61, 0xC0]) (fs := [.evt, .legs, .caps, .trigs, .weave]) (a := d) (x := x) ?_ ?_; subst x; rotate_left 1; clear_value x; with_reducible intro _; rotate_right 1)
        | (with_reducible refine Dev.Agree.have (cs := [0x31, 0x60, 0x61, 0xC0]) (fs := [.evt, .legs, .caps, .trigs, .weave]) (a := d) (x := x.2) ?_ ?_; subst x; rotate_left 1; clear_value x; with_reducible intro _; rotate_right 1)
        | clear_value x
        | skip)
    | with_reducible exact Dev.Agree.refl
    | with_reducible assumption
    | lift_lets -underBinder
    | with_reducible apply Dev.Agree.ite
    | (with_reducible apply Dev.Agree.step (Dev.setLeg_frame _ _ _); decide; decide)
    | (with_reducible apply Dev.Agree.step (Dev.legVarEnd_frame _ _ _); decide; decide)
    | split)

theorem Dev.legEdge_frame (d : Dev) (n : Nat) : Dev.Agree [0x60, 0x61, 0xC0] [.evt, .legs, .caps, .trigs, .weave] d (Dev.legEdge d n) := by
  unfold Dev.legEdge
  repeat' (first
    | (with_reducible intro x; first
        | (with_reducible refine Dev.Agree.have (cs := [0x60, 0x61, 0xC0]) (fs := [.evt, .legs, .caps, .trigs, .weave]) (a := d) (x := x) ?_ ?_; subst x; rotate_left 1; clear_value x; with_reducible intro _; rotate_right 1)
        | (with_reducible refine Dev.Agree.have (cs := [0x60, 0x61, 0xC0]) (fs := [.evt, .legs, .caps, .trigs, .weave]) (a := d) (x := x.2) ?_ ?_; subst x; rotate_left 1; clear_value x; with_reducible intro _; rotate_right 1)
        | clear_value x
        | skip)
    | with_reducible exact Dev.Agree.refl
    | with_reducible assumption
    | lift_lets -underBinder
    | with_reducible apply Dev.Agree.ite
    | (with_reducible apply Dev.Agree.step (Dev.setLeg_frame _ _ _); decide; decide)
    | (with_reducible apply Dev.Agree.step (Dev.legEvent_frame _ _ _ _); decide; decide)
    | split)

theorem Dev.legLatch_frame (d : Dev) (n : Nat) : Dev.Agree [] [.legs] d (Dev.legLatch d n) := by
  unfold Dev.legLatch
  repeat' (first
    | (with_reducible intro x; first
        | (with_reducible refine Dev.Agree.have (cs := []) (fs := [.legs]) (a := d) (x := x) ?_ ?_; subst x; rotate_left 1; clear_value x; with_reducible intro _; rotate_right 1)
        | (with_reducible refine Dev.Agree.have (cs := []) (fs := [.legs]) (a := d) (x := x.2) ?_ ?_; subst x; rotate_left 1; clear_value x; with_reducible intro _; rotate_right 1)
        | clear_value x
        | skip)
    | with_reducible exact Dev.Agree.refl
    | with_reducible assumption
    | lift_lets -underBinder
    | with_reducible apply Dev.Agree.ite
    | (with_reducible apply Dev.Agree.step (Dev.setLeg_frame _ _ _); decide; decide)
    | split)

theorem Dev.legResume_frame (d : Dev) (n : Nat) : Dev.Agree [] [.legs] d (Dev.legResume d n) := by
  unfold Dev.legResume
  repeat' (first
    | (with_reducible intro x; first
        | (with_reducible refine Dev.Agree.have (cs := []) (fs := [.legs]) (a := d) (x := x) ?_ ?_; subst x; rotate_left 1; clear_value x; with_reducible intro _; rotate_right 1)
        | (with_reducible refine Dev.Agree.have (cs := []) (fs := [.legs]) (a := d) (x := x.2) ?_ ?_; subst x; rotate_left 1; clear_value x; with_reducible intro _; rotate_right 1)
        | clear_value x
        | skip)
    | with_reducible exact Dev.Agree.refl
    | with_reducible assumption
    | lift_lets -underBinder
    | with_reducible apply Dev.Agree.ite
    | (with_reducible apply Dev.Agree.step (Dev.setLeg_frame _ _ _); decide; decide)
    | split)

theorem Dev.legEnter_frame (d : Dev) (n : Nat) (w : LegWait) (hold : Bool) : Dev.Agree [0x20, 0x30, 0x31, 0xC0] [.evt, .legs, .ports] d (Dev.legEnter d n w hold) := by
  unfold Dev.legEnter
  repeat' (first
    | (with_reducible intro x; first
        | (with_reducible refine Dev.Agree.have (cs := [0x20, 0x30, 0x31, 0xC0]) (fs := [.evt, .legs, .ports]) (a := d) (x := x) ?_ ?_; subst x; rotate_left 1; clear_value x; with_reducible intro _; rotate_right 1)
        | (with_reducible refine Dev.Agree.have (cs := [0x20, 0x30, 0x31, 0xC0]) (fs := [.evt, .legs, .ports]) (a := d) (x := x.2) ?_ ?_; subst x; rotate_left 1; clear_value x; with_reducible intro _; rotate_right 1)
        | clear_value x
        | skip)
    | with_reducible exact Dev.Agree.refl
    | with_reducible assumption
    | lift_lets -underBinder
    | with_reducible apply Dev.Agree.ite
    | (with_reducible apply Dev.Agree.put; decide; decide)
    | (with_reducible apply Dev.Agree.putBit; decide; decide)
    | (with_reducible apply Dev.Agree.step (Dev.setLeg_frame _ _ _); decide; decide)
    | (with_reducible apply Dev.Agree.step (Dev.tripLegs_frame _ _ _); decide; decide)
    | (with_reducible apply Dev.Agree.step (Dev.legResume_frame _ _); decide; decide)
    | split)

theorem Dev.legBoundary_frame (d : Dev) (n : Nat) : Dev.Agree [0x20, 0x30, 0x31, 0xC0] [.evt, .legs, .ports] d (Dev.legBoundary d n) := by
  unfold Dev.legBoundary
  repeat' (first
    | (with_reducible intro x; first
        | (with_reducible refine Dev.Agree.have (cs := [0x20, 0x30, 0x31, 0xC0]) (fs := [.evt, .legs, .ports]) (a := d) (x := x) ?_ ?_; subst x; rotate_left 1; clear_value x; with_reducible intro _; rotate_right 1)
        | (with_reducible refine Dev.Agree.have (cs := [0x20, 0x30, 0x31, 0xC0]) (fs := [.evt, .legs, .ports]) (a := d) (x := x.2) ?_ ?_; subst x; rotate_left 1; clear_value x; with_reducible intro _; rotate_right 1)
        | clear_value x
        | skip)
    | with_reducible exact Dev.Agree.refl
    | with_reducible assumption
    | lift_lets -underBinder
    | with_reducible apply Dev.Agree.ite
    | (with_reducible apply Dev.Agree.putBit; decide; decide)
    | (with_reducible apply Dev.Agree.step (Dev.legStop_frame _ _ _); decide; decide)
    | (with_reducible apply Dev.Agree.step (Dev.legEnter_frame _ _ _ _); decide; decide)
    | split)

theorem Dev.legClear_frame (d : Dev) (n : Nat) : Dev.Agree [0x20, 0x30, 0x31, 0xC0] [.evt, .legs, .ports] d (Dev.legClear d n) := by
  unfold Dev.legClear
  repeat' (first
    | (with_reducible intro x; first
        | (with_reducible refine Dev.Agree.have (cs := [0x20, 0x30, 0x31, 0xC0]) (fs := [.evt, .legs, .ports]) (a := d) (x := x) ?_ ?_; subst x; rotate_left 1; clear_value x; with_reducible intro _; rotate_right 1)
        | (with_reducible refine Dev.Agree.have (cs := [0x20, 0x30, 0x31, 0xC0]) (fs := [.evt, .legs, .ports]) (a := d) (x := x.2) ?_ ?_; subst x; rotate_left 1; clear_value x; with_reducible intro _; rotate_right 1)
        | clear_value x
        | skip)
    | with_reducible exact Dev.Agree.refl
    | with_reducible assumption
    | lift_lets -underBinder
    | with_reducible apply Dev.Agree.ite
    | (with_reducible apply Dev.Agree.put; decide; decide)
    | (with_reducible apply Dev.Agree.step (Dev.legEnter_frame _ _ _ _); decide; decide)
    | split)

theorem Dev.osierCal_frame (d : Dev) (span : Nat) : Dev.Agree [0x31, 0xC0] [.evt, .osier] d (Dev.osierCal d span) := by
  unfold Dev.osierCal
  repeat' (first
    | (with_reducible intro x; first
        | (with_reducible refine Dev.Agree.have (cs := [0x31, 0xC0]) (fs := [.evt, .osier]) (a := d) (x := x) ?_ ?_; subst x; rotate_left 1; clear_value x; with_reducible intro _; rotate_right 1)
        | (with_reducible refine Dev.Agree.have (cs := [0x31, 0xC0]) (fs := [.evt, .osier]) (a := d) (x := x.2) ?_ ?_; subst x; rotate_left 1; clear_value x; with_reducible intro _; rotate_right 1)
        | clear_value x
        | skip)
    | with_reducible exact Dev.Agree.refl
    | with_reducible assumption
    | lift_lets -underBinder
    | with_reducible apply Dev.Agree.ite
    | (with_reducible apply Dev.Agree.putBit; decide; decide)
    | (with_reducible apply Dev.Agree.step (Dev.raise_frame _ _ _ _ _); decide; decide)
    | with_reducible apply Dev.Agree.forN
    | (fail_if_no_progress with_reducible apply Dev.Agree.upd_osier; decide)
    | split)

theorem Dev.setCtx_frame (d : Dev) (n : Nat) (x : CtxRt) : Dev.Agree [] [.ctxs] d (Dev.setCtx d n x) := by
  unfold Dev.setCtx
  repeat' (first
    | (with_reducible intro x; first
        | (with_reducible refine Dev.Agree.have (cs := []) (fs := [.ctxs]) (a := d) (x := x) ?_ ?_; subst x; rotate_left 1; clear_value x; with_reducible intro _; rotate_right 1)
        | (with_reducible refine Dev.Agree.have (cs := []) (fs := [.ctxs]) (a := d) (x := x.2) ?_ ?_; subst x; rotate_left 1; clear_value x; with_reducible intro _; rotate_right 1)
        | clear_value x
        | skip)
    | with_reducible exact Dev.Agree.refl
    | with_reducible assumption
    | lift_lets -underBinder
    | with_reducible apply Dev.Agree.ite
    | (fail_if_no_progress with_reducible apply Dev.Agree.upd_ctxs; decide)
    | split)

theorem Dev.setCell_frame (d : Dev) (c : Nat) (x : CellRt) : Dev.Agree [] [.cells] d (Dev.setCell d c x) := by
  unfold Dev.setCell
  repeat' (first
    | (with_reducible intro x; first
        | (with_reducible refine Dev.Agree.have (cs := []) (fs := [.cells]) (a := d) (x := x) ?_ ?_; subst x; rotate_left 1; clear_value x; with_reducible intro _; rotate_right 1)
        | (with_reducible refine Dev.Agree.have (cs := []) (fs := [.cells]) (a := d) (x := x.2) ?_ ?_; subst x; rotate_left 1; clear_value x; with_reducible intro _; rotate_right 1)
        | clear_value x
        | skip)
    | with_reducible exact Dev.Agree.refl
    | with_reducible assumption
    | lift_lets -underBinder
    | with_reducible apply Dev.Agree.ite
    | (fail_if_no_progress with_reducible apply Dev.Agree.upd_cells; decide)
    | split)

theorem Dev.setArm_frame (d : Dev) (j : Nat) (x : ArmRt) : Dev.Agree [] [.arms] d (Dev.setArm d j x) := by
  unfold Dev.setArm
  repeat' (first
    | (with_reducible intro x; first
        | (with_reducible refine Dev.Agree.have (cs := []) (fs := [.arms]) (a := d) (x := x) ?_ ?_; subst x; rotate_left 1; clear_value x; with_reducible intro _; rotate_right 1)
        | (with_reducible refine Dev.Agree.have (cs := []) (fs := [.arms]) (a := d) (x := x.2) ?_ ?_; subst x; rotate_left 1; clear_value x; with_reducible intro _; rotate_right 1)
        | clear_value x
        | skip)
    | with_reducible exact Dev.Agree.refl
    | with_reducible assumption
    | lift_lets -underBinder
    | with_reducible apply Dev.Agree.ite
    | (fail_if_no_progress with_reducible apply Dev.Agree.upd_arms; decide)
    | split)

theorem Dev.rawInput_frame (d : Dev) (c : Nat) (s : InSlot) (vs : List F32) : Dev.Agree [0x03, 0xC0] [.evt] d (Dev.rawInput d c s vs).2.2 := by
  unfold Dev.rawInput
  repeat' (first
    | (with_reducible intro x; first
        | (with_reducible refine Dev.Agree.have (cs := [0x03, 0xC0]) (fs := [.evt]) (a := d) (x := x) ?_ ?_; subst x; rotate_left 1; clear_value x; with_reducible intro _; rotate_right 1)
        | (with_reducible refine Dev.Agree.have (cs := [0x03, 0xC0]) (fs := [.evt]) (a := d) (x := x.2) ?_ ?_; subst x; rotate_left 1; clear_value x; with_reducible intro _; rotate_right 1)
        | clear_value x
        | skip)
    | with_reducible exact Dev.Agree.refl
    | with_reducible assumption
    | lift_lets -underBinder
    | with_reducible apply Dev.Agree.ite
    | split
    | (with_reducible apply Dev.Agree.step (Dev.curveEval_frame _ _ _); decide; decide))

theorem Dev.gather_frame (c k i : Nat) (d : Dev) (vs : List F32) (miss : Bool) : Dev.Agree [0x03, 0x20, 0xC0] [.evt] d (Dev.gather c k i d vs miss).2.2 := by
  induction k generalizing i d vs miss with
  | zero => unfold Dev.gather; exact Dev.Agree.refl
  | succ k ih =>
    unfold Dev.gather
    simp only
    have h := Dev.rawInput_frame d c (d.inSlot false c i) vs
    generalize d.rawInput c (d.inSlot false c i) vs = r at h ⊢
    refine Dev.Agree.trans (h.mono (by decide) (by decide)) ?_
    generalize (r.2.1 || _) = b
    cases b with
    | false => exact ih _ _ _ _
    | true =>
      simp only [if_true]
      cases (d.inSlot false c i).strict with
      | true => exact ih _ _ _ _
      | false =>
        refine Dev.Agree.trans ?_ (ih _ _ _ _)
        refine Dev.Agree.step (Dev.raise_frame _ _ _ _ _) (by decide) (by decide) ?_
        exact Dev.Agree.inc (by decide) (by decide) Dev.Agree.refl

theorem Dev.writeDest_frame (d : Dev) (s : OutSlot) (v : F32) : Dev.Agree [0x12, 0x20, 0x30, 0x31] [.weave] d (Dev.writeDest d s v) := by
  have key : ∀ p, setPoints.contains p = true → p.small = true ∧ [0x12, 0x20, 0x30, 0x31].contains p.group = true := by
    intro p hp
    have h : setPoints.all (fun p => p.small && [0x12, 0x20, 0x30, 0x31].contains p.group) = true := by decide
    have := List.all_eq_true.mp h p (by simpa using hp)
    simpa using this
  unfold Dev.writeDest
  refine Dev.Agree.ite (fun _ => Dev.Agree.ite (fun h => ?_) (fun _ => Dev.Agree.refl))
    (fun _ => Dev.Agree.ite (fun _ => Dev.Agree.upd_weave (by decide) Dev.Agree.refl) (fun _ => Dev.Agree.refl))
  exact Dev.Agree.putF (key _ h).1 (key _ h).2 Dev.Agree.refl

theorem Dev.writeOuts_frame (d : Dev) (c : Nat) (us : List F32) : Dev.Agree [0x12, 0x20, 0x30, 0x31] [.weave] d (Dev.writeOuts d c us) := by
  unfold Dev.writeOuts
  repeat' (first
    | (with_reducible intro x; first
        | (with_reducible refine Dev.Agree.have (cs := [0x12, 0x20, 0x30, 0x31]) (fs := [.weave]) (a := d) (x := x) ?_ ?_; subst x; rotate_left 1; clear_value x; with_reducible intro _; rotate_right 1)
        | (with_reducible refine Dev.Agree.have (cs := [0x12, 0x20, 0x30, 0x31]) (fs := [.weave]) (a := d) (x := x.2) ?_ ?_; subst x; rotate_left 1; clear_value x; with_reducible intro _; rotate_right 1)
        | clear_value x
        | skip)
    | with_reducible exact Dev.Agree.refl
    | with_reducible assumption
    | lift_lets -underBinder
    | with_reducible apply Dev.Agree.ite
    | (with_reducible apply Dev.Agree.step (Dev.writeDest_frame _ _ _); decide; decide)
    | with_reducible apply Dev.Agree.forL
    | split)

theorem Dev.overrun_frame (d : Dev) (c : Nat) (cause : Nat) (cycle : Nat) : Dev.Agree [0x12, 0x20, 0x30, 0x31, 0xC0] [.evt, .ctxs, .weave] d (Dev.overrun d c cause cycle) := by
  unfold Dev.overrun
  repeat' (first
    | (with_reducible intro x; first
        | (with_reducible refine Dev.Agree.have (cs := [0x12, 0x20, 0x30, 0x31, 0xC0]) (fs := [.evt, .ctxs, .weave]) (a := d) (x := x) ?_ ?_; subst x; rotate_left 1; clear_value x; with_reducible intro _; rotate_right 1)
        | (with_reducible refine Dev.Agree.have (cs := [0x12, 0x20, 0x30, 0x31, 0xC0]) (fs := [.evt, .ctxs, .weave]) (a := d) (x := x.2) ?_ ?_; subst x; rotate_left 1; clear_value x; with_reducible intro _; rotate_right 1)
        | clear_value x
        | skip)
    | with_reducible exact Dev.Agree.refl
    | with_reducible assumption
    | lift_lets -underBinder
    | with_reducible apply Dev.Agree.ite
    | (with_reducible apply Dev.Agree.put; decide; decide)
    | (with_reducible apply Dev.Agree.inc; decide; decide)
    | (with_reducible apply Dev.Agree.step (Dev.occur_frame _ _ _ _ _ _ _); decide; decide)
    | (with_reducible apply Dev.Agree.step (Dev.setCtx_frame _ _ _); decide; decide)
    | (with_reducible apply Dev.Agree.step (Dev.writeOuts_frame _ _ _); decide; decide)
    | split)

theorem Dev.gatherCtx_frame (d : Dev) (c : Nat) : Dev.Agree [0x03, 0x20, 0xC0] [.evt, .ctxs] d (Dev.gatherCtx d c).2.2 := by
  unfold Dev.gatherCtx
  repeat' (first
    | (with_reducible intro x; first
        | (with_reducible refine Dev.Agree.have (cs := [0x03, 0x20, 0xC0]) (fs := [.evt, .ctxs]) (a := d) (x := x) ?_ ?_; subst x; rotate_left 1; clear_value x; with_reducible intro _; rotate_right 1)
        | (with_reducible refine Dev.Agree.have (cs := [0x03, 0x20, 0xC0]) (fs := [.evt, .ctxs]) (a := d) (x := x.2.2.2) ?_ ?_; subst x; rotate_left 1; clear_value x; with_reducible intro _; rotate_right 1)
        | (with_reducible refine Dev.Agree.have (cs := [0x03, 0x20, 0xC0]) (fs := [.evt, .ctxs]) (a := d) (x := x.2.2) ?_ ?_; subst x; rotate_left 1; clear_value x; with_reducible intro _; rotate_right 1)
        | (with_reducible refine Dev.Agree.have (cs := [0x03, 0x20, 0xC0]) (fs := [.evt, .ctxs]) (a := d) (x := x.2) ?_ ?_; subst x; rotate_left 1; clear_value x; with_reducible intro _; rotate_right 1)
        | clear_value x
        | skip)
    | with_reducible exact Dev.Agree.refl
    | with_reducible assumption
    | lift_lets -underBinder
    | with_reducible apply Dev.Agree.ite
    | split
    | (with_reducible apply Dev.Agree.step (Dev.setCtx_frame _ _ _); decide; decide)
    | (with_reducible apply Dev.Agree.step (Dev.gather_frame _ _ _ _ _ _); decide; decide))

theorem Dev.finishCtx_frame (d : Dev) (c : Nat) (fin : Nat) (v : List F32) : Dev.Agree [0x12, 0x20, 0x30, 0x31, 0x60, 0x61, 0xC0] [.evt, .caps, .trigs, .ctxs, .weave] d (Dev.finishCtx d c fin v) := by
  unfold Dev.finishCtx
  repeat' (first
    | (with_reducible intro x; first
        | (with_reducible refine Dev.Agree.have (cs := [0x12, 0x20, 0x30, 0x31, 0x60, 0x61, 0xC0]) (fs := [.evt, .caps, .trigs, .ctxs, .weave]) (a := d) (x := x) ?_ ?_; subst x; rotate_left 1; clear_value x; with_reducible intro _; rotate_right 1)
        | (with_reducible refine Dev.Agree.have (cs := [0x12, 0x20, 0x30, 0x31, 0x60, 0x61, 0xC0]) (fs := [.evt, .caps, .trigs, .ctxs, .weave]) (a := d) (x := x.2) ?_ ?_; subst x; rotate_left 1; clear_value x; with_reducible intro _; rotate_right 1)
        | clear_value x
        | skip)
    | with_reducible exact Dev.Agree.refl
    | with_reducible assumption
    | lift_lets -underBinder
    | with_reducible apply Dev.Agree.ite
    | (with_reducible apply Dev.Agree.put; decide; decide)
    | (with_reducible apply Dev.Agree.inc; decide; decide)
    | (with_reducible apply Dev.Agree.step (Dev.weavePut_frame _ _ _ _ _); decide; decide)
    | (with_reducible apply Dev.Agree.step (Dev.sample_frame _ _ _ _ _ _ _); decide; decide)
    | (with_reducible apply Dev.Agree.step (Dev.setCtx_frame _ _ _); decide; decide)
    | (with_reducible apply Dev.Agree.step (Dev.writeOuts_frame _ _ _); decide; decide)
    | (with_reducible apply Dev.Agree.step (Dev.overrun_frame _ _ _ _); decide; decide)
    | with_reducible apply Dev.Agree.forL
    | split)

theorem Dev.ctxBoundary_frame (d : Dev) (c : Nat) : Dev.Agree [0x20] [.ctxs] d (Dev.ctxBoundary d c) := by
  unfold Dev.ctxBoundary
  repeat' (first
    | (with_reducible intro x; first
        | (with_reducible refine Dev.Agree.have (cs := [0x20]) (fs := [.ctxs]) (a := d) (x := x) ?_ ?_; subst x; rotate_left 1; clear_value x; with_reducible intro _; rotate_right 1)
        | (with_reducible refine Dev.Agree.have (cs := [0x20]) (fs := [.ctxs]) (a := d) (x := x.2) ?_ ?_; subst x; rotate_left 1; clear_value x; with_reducible intro _; rotate_right 1)
        | clear_value x
        | skip)
    | with_reducible exact Dev.Agree.refl
    | with_reducible assumption
    | lift_lets -underBinder
    | with_reducible apply Dev.Agree.ite
    | (with_reducible apply Dev.Agree.put; decide; decide)
    | (with_reducible apply Dev.Agree.step (Dev.setCtx_frame _ _ _); decide; decide)
    | split)

theorem Dev.ctxRestart_frame (d : Dev) (c : Nat) : Dev.Agree [0x20] [.ctxs] d (Dev.ctxRestart d c) := by
  unfold Dev.ctxRestart
  repeat' (first
    | (with_reducible intro x; first
        | (with_reducible refine Dev.Agree.have (cs := [0x20]) (fs := [.ctxs]) (a := d) (x := x) ?_ ?_; subst x; rotate_left 1; clear_value x; with_reducible intro _; rotate_right 1)
        | (with_reducible refine Dev.Agree.have (cs := [0x20]) (fs := [.ctxs]) (a := d) (x := x.2) ?_ ?_; subst x; rotate_left 1; clear_value x; with_reducible intro _; rotate_right 1)
        | clear_value x
        | skip)
    | with_reducible exact Dev.Agree.refl
    | with_reducible assumption
    | lift_lets -underBinder
    | with_reducible apply Dev.Agree.ite
    | (with_reducible apply Dev.Agree.put; decide; decide)
    | (with_reducible apply Dev.Agree.step (Dev.setCtx_frame _ _ _); decide; decide)
    | split)

theorem Dev.ctxSync_frame (d : Dev) (c : Nat) : Dev.Agree [0x20, 0xC0] [.evt, .ctxs] d (Dev.ctxSync d c) := by
  unfold Dev.ctxSync
  repeat' (first
    | (with_reducible intro x; first
        | (with_reducible refine Dev.Agree.have (cs := [0x20, 0xC0]) (fs := [.evt, .ctxs]) (a := d) (x := x) ?_ ?_; subst x; rotate_left 1; clear_value x; with_reducible intro _; rotate_right 1)
        | (with_reducible refine Dev.Agree.have (cs := [0x20, 0xC0]) (fs := [.evt, .ctxs]) (a := d) (x := x.2) ?_ ?_; subst x; rotate_left 1; clear_value x; with_reducible intro _; rotate_right 1)
        | clear_value x
        | skip)
    | with_reducible exact Dev.Agree.refl
    | with_reducible assumption
    | lift_lets -underBinder
    | with_reducible apply Dev.Agree.ite
    | (with_reducible apply Dev.Agree.inc; decide; decide)
    | (with_reducible apply Dev.Agree.step (Dev.raise_frame _ _ _ _ _); decide; decide)
    | (with_reducible apply Dev.Agree.step (Dev.setCtx_frame _ _ _); decide; decide)
    | split)

theorem Dev.setIsl_frame (d : Dev) (g : Nat) (x : IslRt) : Dev.Agree [] [.isls] d (Dev.setIsl d g x) := by
  unfold Dev.setIsl
  repeat' (first
    | (with_reducible intro x; first
        | (with_reducible refine Dev.Agree.have (cs := []) (fs := [.isls]) (a := d) (x := x) ?_ ?_; subst x; rotate_left 1; clear_value x; with_reducible intro _; rotate_right 1)
        | (with_reducible refine Dev.Agree.have (cs := []) (fs := [.isls]) (a := d) (x := x.2) ?_ ?_; subst x; rotate_left 1; clear_value x; with_reducible intro _; rotate_right 1)
        | clear_value x
        | skip)
    | with_reducible exact Dev.Agree.refl
    | with_reducible assumption
    | lift_lets -underBinder
    | with_reducible apply Dev.Agree.ite
    | (fail_if_no_progress with_reducible apply Dev.Agree.upd_isls; decide)
    | split)

theorem Dev.isldSeq_frame (d : Dev) (g : Nat) : Dev.Agree [0x22] [.isls] d (Dev.isldSeq d g) := by
  unfold Dev.isldSeq
  repeat' (first
    | (with_reducible intro x; first
        | (with_reducible refine Dev.Agree.have (cs := [0x22]) (fs := [.isls]) (a := d) (x := x) ?_ ?_; subst x; rotate_left 1; clear_value x; with_reducible intro _; rotate_right 1)
        | (with_reducible refine Dev.Agree.have (cs := [0x22]) (fs := [.isls]) (a := d) (x := x.2) ?_ ?_; subst x; rotate_left 1; clear_value x; with_reducible intro _; rotate_right 1)
        | clear_value x
        | skip)
    | with_reducible exact Dev.Agree.refl
    | with_reducible assumption
    | lift_lets -underBinder
    | with_reducible apply Dev.Agree.ite
    | (with_reducible apply Dev.Agree.put; decide; decide)
    | (with_reducible apply Dev.Agree.inc; decide; decide)
    | (with_reducible apply Dev.Agree.step (Dev.setIsl_frame _ _ _); decide; decide)
    | split)

theorem Dev.timeCriterion_frame (d : Dev) (curve : Nat) (u : F32) (timer : Nat) : Dev.Agree [0x03, 0xC0] [.evt] d (Dev.timeCriterion d curve u timer).2.2 := by
  unfold Dev.timeCriterion
  repeat' (first
    | (with_reducible intro x; first
        | (with_reducible refine Dev.Agree.have (cs := [0x03, 0xC0]) (fs := [.evt]) (a := d) (x := x) ?_ ?_; subst x; rotate_left 1; clear_value x; with_reducible intro _; rotate_right 1)
        | (with_reducible refine Dev.Agree.have (cs := [0x03, 0xC0]) (fs := [.evt]) (a := d) (x := x.2) ?_ ?_; subst x; rotate_left 1; clear_value x; with_reducible intro _; rotate_right 1)
        | clear_value x
        | skip)
    | with_reducible exact Dev.Agree.refl
    | with_reducible assumption
    | lift_lets -underBinder
    | with_reducible apply Dev.Agree.ite
    | split
    | (with_reducible apply Dev.Agree.step (Dev.curveEval_frame _ _ _); decide; decide))

theorem Dev.isldHistory_frame (d : Dev) (g : Nat) : Dev.Agree [] [.isls] d (Dev.isldHistory d g) := by
  unfold Dev.isldHistory
  repeat' (first
    | (with_reducible intro x; first
        | (with_reducible refine Dev.Agree.have (cs := []) (fs := [.isls]) (a := d) (x := x) ?_ ?_; subst x; rotate_left 1; clear_value x; with_reducible intro _; rotate_right 1)
        | (with_reducible refine Dev.Agree.have (cs := []) (fs := [.isls]) (a := d) (x := x.2) ?_ ?_; subst x; rotate_left 1; clear_value x; with_reducible intro _; rotate_right 1)
        | clear_value x
        | skip)
    | with_reducible exact Dev.Agree.refl
    | with_reducible assumption
    | lift_lets -underBinder
    | with_reducible apply Dev.Agree.ite
    | (with_reducible apply Dev.Agree.step (Dev.setIsl_frame _ _ _); decide; decide)
    | split)

theorem Dev.isldPassive_frame (d : Dev) (g : Nat) : Dev.Agree [0x03, 0xC0] [.evt, .isls] d (Dev.isldPassive d g) := by
  unfold Dev.isldPassive
  repeat' (first
    | (with_reducible intro x; first
        | (with_reducible refine Dev.Agree.have (cs := [0x03, 0xC0]) (fs := [.evt, .isls]) (a := d) (x := x) ?_ ?_; subst x; rotate_left 1; clear_value x; with_reducible intro _; rotate_right 1)
        | (with_reducible refine Dev.Agree.have (cs := [0x03, 0xC0]) (fs := [.evt, .isls]) (a := d) (x := x.2.2.2) ?_ ?_; subst x; rotate_left 1; clear_value x; with_reducible intro _; rotate_right 1)
        | (with_reducible refine Dev.Agree.have (cs := [0x03, 0xC0]) (fs := [.evt, .isls]) (a := d) (x := x.2.2) ?_ ?_; subst x; rotate_left 1; clear_value x; with_reducible intro _; rotate_right 1)
        | (with_reducible refine Dev.Agree.have (cs := [0x03, 0xC0]) (fs := [.evt, .isls]) (a := d) (x := x.2) ?_ ?_; subst x; rotate_left 1; clear_value x; with_reducible intro _; rotate_right 1)
        | clear_value x
        | skip)
    | with_reducible exact Dev.Agree.refl
    | with_reducible assumption
    | lift_lets -underBinder
    | with_reducible apply Dev.Agree.ite
    | (with_reducible apply Dev.Agree.step (Dev.setIsl_frame _ _ _); decide; decide)
    | (with_reducible apply Dev.Agree.step (Dev.timeCriterion_frame _ _ _ _); decide; decide)
    | with_reducible apply Dev.Agree.foldl
    | with_reducible apply Dev.Agree.foldl2
    | split)

theorem Dev.isldEnvelope_frame (d : Dev) (g : Nat) : Dev.Agree [] [.isls] d (Dev.isldEnvelope d g) := by
  unfold Dev.isldEnvelope
  repeat' (first
    | (with_reducible intro x; first
        | (with_reducible refine Dev.Agree.have (cs := []) (fs := [.isls]) (a := d) (x := x) ?_ ?_; subst x; rotate_left 1; clear_value x; with_reducible intro _; rotate_right 1)
        | (with_reducible refine Dev.Agree.have (cs := []) (fs := [.isls]) (a := d) (x := x.2) ?_ ?_; subst x; rotate_left 1; clear_value x; with_reducible intro _; rotate_right 1)
        | clear_value x
        | skip)
    | with_reducible exact Dev.Agree.refl
    | with_reducible assumption
    | lift_lets -underBinder
    | with_reducible apply Dev.Agree.ite
    | (with_reducible apply Dev.Agree.step (Dev.setIsl_frame _ _ _); decide; decide)
    | split)

theorem Dev.isldStep_frame (d : Dev) (g : Nat) : Dev.Agree [0x03, 0x22, 0xC0] [.evt, .isls] d (Dev.isldStep d g) := by
  unfold Dev.isldStep
  repeat' (first
    | (with_reducible intro x; first
        | (with_reducible refine Dev.Agree.have (cs := [0x03, 0x22, 0xC0]) (fs := [.evt, .isls]) (a := d) (x := x) ?_ ?_; subst x; rotate_left 1; clear_value x; with_reducible intro _; rotate_right 1)
        | (with_reducible refine Dev.Agree.have (cs := [0x03, 0x22, 0xC0]) (fs := [.evt, .isls]) (a := d) (x := x.2) ?_ ?_; subst x; rotate_left 1; clear_value x; with_reducible intro _; rotate_right 1)
        | clear_value x
        | skip)
    | with_reducible exact Dev.Agree.refl
    | with_reducible assumption
    | lift_lets -underBinder
    | with_reducible apply Dev.Agree.ite
    | (with_reducible apply Dev.Agree.step (Dev.isldSeq_frame _ _); decide; decide)
    | (with_reducible apply Dev.Agree.step (Dev.isldHistory_frame _ _); decide; decide)
    | (with_reducible apply Dev.Agree.step (Dev.isldPassive_frame _ _); decide; decide)
    | (with_reducible apply Dev.Agree.step (Dev.isldEnvelope_frame _ _); decide; decide)
    | split)

theorem Dev.isldIdle_frame (d : Dev) (g : Nat) : Dev.Agree [0x22] [.isls] d (Dev.isldIdle d g) := by
  unfold Dev.isldIdle
  repeat' (first
    | (with_reducible intro x; first
        | (with_reducible refine Dev.Agree.have (cs := [0x22]) (fs := [.isls]) (a := d) (x := x) ?_ ?_; subst x; rotate_left 1; clear_value x; with_reducible intro _; rotate_right 1)
        | (with_reducible refine Dev.Agree.have (cs := [0x22]) (fs := [.isls]) (a := d) (x := x.2) ?_ ?_; subst x; rotate_left 1; clear_value x; with_reducible intro _; rotate_right 1)
        | clear_value x
        | skip)
    | with_reducible exact Dev.Agree.refl
    | with_reducible assumption
    | lift_lets -underBinder
    | with_reducible apply Dev.Agree.ite
    | (with_reducible apply Dev.Agree.putBit; decide; decide)
    | (with_reducible apply Dev.Agree.inc; decide; decide)
    | (with_reducible apply Dev.Agree.step (Dev.setIsl_frame _ _ _); decide; decide)
    | (with_reducible apply Dev.Agree.step (Dev.isldHistory_frame _ _); decide; decide)
    | (with_reducible apply Dev.Agree.step (Dev.isldEnvelope_frame _ _); decide; decide)
    | split)

theorem Dev.isldEstimate_frame (d : Dev) (g : Nat) : Dev.Agree [] [.isls] d (Dev.isldEstimate d g) := by
  unfold Dev.isldEstimate
  repeat' (first
    | (with_reducible intro x; first
        | (with_reducible refine Dev.Agree.have (cs := []) (fs := [.isls]) (a := d) (x := x) ?_ ?_; subst x; rotate_left 1; clear_value x; with_reducible intro _; rotate_right 1)
        | (with_reducible refine Dev.Agree.have (cs := []) (fs := [.isls]) (a := d) (x := x.2) ?_ ?_; subst x; rotate_left 1; clear_value x; with_reducible intro _; rotate_right 1)
        | clear_value x
        | skip)
    | with_reducible exact Dev.Agree.refl
    | with_reducible assumption
    | lift_lets -underBinder
    | with_reducible apply Dev.Agree.ite
    | (with_reducible apply Dev.Agree.step (Dev.setIsl_frame _ _ _); decide; decide)
    | split)

theorem Dev.isldRegister_frame (d : Dev) (g : Nat) (e : IslEst) : Dev.Agree [0x22] [.isls] d (Dev.isldRegister d g e) := by
  unfold Dev.isldRegister
  repeat' (first
    | (with_reducible intro x; first
        | (with_reducible refine Dev.Agree.have (cs := [0x22]) (fs := [.isls]) (a := d) (x := x) ?_ ?_; subst x; rotate_left 1; clear_value x; with_reducible intro _; rotate_right 1)
        | (with_reducible refine Dev.Agree.have (cs := [0x22]) (fs := [.isls]) (a := d) (x := x.2) ?_ ?_; subst x; rotate_left 1; clear_value x; with_reducible intro _; rotate_right 1)
        | clear_value x
        | skip)
    | with_reducible exact Dev.Agree.refl
    | with_reducible assumption
    | lift_lets -underBinder
    | with_reducible apply Dev.Agree.ite
    | (with_reducible apply Dev.Agree.put; decide; decide)
    | (with_reducible apply Dev.Agree.putF; decide; decide)
    | (with_reducible apply Dev.Agree.step (Dev.setIsl_frame _ _ _); decide; decide)
    | split)

theorem Dev.isldReset_frame (d : Dev) (g : Nat) : Dev.Agree [0x22] [.isls] d (Dev.isldReset d g) := by
  unfold Dev.isldReset
  repeat' (first
    | (with_reducible intro x; first
        | (with_reducible refine Dev.Agree.have (cs := [0x22]) (fs := [.isls]) (a := d) (x := x) ?_ ?_; subst x; rotate_left 1; clear_value x; with_reducible intro _; rotate_right 1)
        | (with_reducible refine Dev.Agree.have (cs := [0x22]) (fs := [.isls]) (a := d) (x := x.2) ?_ ?_; subst x; rotate_left 1; clear_value x; with_reducible intro _; rotate_right 1)
        | clear_value x
        | skip)
    | with_reducible exact Dev.Agree.refl
    | with_reducible assumption
    | lift_lets -underBinder
    | with_reducible apply Dev.Agree.ite
    | (with_reducible apply Dev.Agree.put; decide; decide)
    | (with_reducible apply Dev.Agree.putF; decide; decide)
    | (with_reducible apply Dev.Agree.step (Dev.setIsl_frame _ _ _); decide; decide)
    | split)

theorem Dev.isldRebound_frame (d : Dev) (g : Nat) : Dev.Agree [0x22] [] d (Dev.isldRebound d g) := by
  unfold Dev.isldRebound
  repeat' (first
    | (with_reducible intro x; first
        | (with_reducible refine Dev.Agree.have (cs := [0x22]) (fs := []) (a := d) (x := x) ?_ ?_; subst x; rotate_left 1; clear_value x; with_reducible intro _; rotate_right 1)
        | (with_reducible refine Dev.Agree.have (cs := [0x22]) (fs := []) (a := d) (x := x.2) ?_ ?_; subst x; rotate_left 1; clear_value x; with_reducible intro _; rotate_right 1)
        | clear_value x
        | skip)
    | with_reducible exact Dev.Agree.refl
    | with_reducible assumption
    | lift_lets -underBinder
    | with_reducible apply Dev.Agree.ite
    | (with_reducible apply Dev.Agree.put; decide; decide)
    | split)

theorem Dev.isldTimeStep_frame (d : Dev) : Dev.Agree [0x22] [.isls] d (Dev.isldTimeStep d) := by
  unfold Dev.isldTimeStep
  repeat' (first
    | (with_reducible intro x; first
        | (with_reducible refine Dev.Agree.have (cs := [0x22]) (fs := [.isls]) (a := d) (x := x) ?_ ?_; subst x; rotate_left 1; clear_value x; with_reducible intro _; rotate_right 1)
        | (with_reducible refine Dev.Agree.have (cs := [0x22]) (fs := [.isls]) (a := d) (x := x.2) ?_ ?_; subst x; rotate_left 1; clear_value x; with_reducible intro _; rotate_right 1)
        | clear_value x
        | skip)
    | with_reducible exact Dev.Agree.refl
    | with_reducible assumption
    | lift_lets -underBinder
    | with_reducible apply Dev.Agree.ite
    | (with_reducible apply Dev.Agree.inc; decide; decide)
    | (with_reducible apply Dev.Agree.step (Dev.setIsl_frame _ _ _); decide; decide)
    | with_reducible apply Dev.Agree.forN
    | split)

theorem Dev.svEval_frame (d : Dev) (g : Nat) : Dev.Agree [0x22, 0xC0] [.evt, .isls] d (Dev.svEval d g) := by
  unfold Dev.svEval
  repeat' (first
    | (with_reducible intro x; first
        | (with_reducible refine Dev.Agree.have (cs := [0x22, 0xC0]) (fs := [.evt, .isls]) (a := d) (x := x) ?_ ?_; subst x; rotate_left 1; clear_value x; with_reducible intro _; rotate_right 1)
        | (with_reducible refine Dev.Agree.have (cs := [0x22, 0xC0]) (fs := [.evt, .isls]) (a := d) (x := x.2) ?_ ?_; subst x; rotate_left 1; clear_value x; with_reducible intro _; rotate_right 1)
        | clear_value x
        | skip)
    | with_reducible exact Dev.Agree.refl
    | with_reducible assumption
    | lift_lets -underBinder
    | with_reducible apply Dev.Agree.ite
    | (with_reducible apply Dev.Agree.put; decide; decide)
    | (with_reducible apply Dev.Agree.step (Dev.raise_frame _ _ _ _ _); decide; decide)
    | (with_reducible apply Dev.Agree.step (Dev.setIsl_frame _ _ _); decide; decide)
    | split)

theorem Dev.svCompare_frame (d : Dev) (g : Nat) (stream : Nat) (f : F32) (ang : F32) (ago : Nat) : Dev.Agree [0x22, 0xC0] [.evt, .isls] d (Dev.svCompare d g stream f ang ago) := by
  unfold Dev.svCompare
  repeat' (first
    | (with_reducible intro x; first
        | (with_reducible refine Dev.Agree.have (cs := [0x22, 0xC0]) (fs := [.evt, .isls]) (a := d) (x := x) ?_ ?_; subst x; rotate_left 1; clear_value x; with_reducible intro _; rotate_right 1)
        | (with_reducible refine Dev.Agree.have (cs := [0x22, 0xC0]) (fs := [.evt, .isls]) (a := d) (x := x.2) ?_ ?_; subst x; rotate_left 1; clear_value x; with_reducible intro _; rotate_right 1)
        | clear_value x
        | skip)
    | with_reducible exact Dev.Agree.refl
    | with_reducible assumption
    | lift_lets -underBinder
    | with_reducible apply Dev.Agree.ite
    | (with_reducible apply Dev.Agree.step (Dev.setIsl_frame _ _ _); decide; decide)
    | (with_reducible apply Dev.Agree.step (Dev.svEval_frame _ _); decide; decide)
    | split)

theorem Dev.svGone_frame (d : Dev) (k : Nat) : Dev.Agree [0x22, 0xC0] [.evt, .host, .isls] d (Dev.svGone d k) := by
  unfold Dev.svGone
  repeat' (first
    | (with_reducible intro x; first
        | (with_reducible refine Dev.Agree.have (cs := [0x22, 0xC0]) (fs := [.evt, .host, .isls]) (a := d) (x := x) ?_ ?_; subst x; rotate_left 1; clear_value x; with_reducible intro _; rotate_right 1)
        | (with_reducible refine Dev.Agree.have (cs := [0x22, 0xC0]) (fs := [.evt, .host, .isls]) (a := d) (x := x.2) ?_ ?_; subst x; rotate_left 1; clear_value x; with_reducible intro _; rotate_right 1)
        | clear_value x
        | skip)
    | with_reducible exact Dev.Agree.refl
    | with_reducible assumption
    | lift_lets -underBinder
    | with_reducible apply Dev.Agree.ite
    | (with_reducible apply Dev.Agree.step (Dev.setIsl_frame _ _ _); decide; decide)
    | (with_reducible apply Dev.Agree.step (Dev.svEval_frame _ _); decide; decide)
    | with_reducible apply Dev.Agree.forN
    | (fail_if_no_progress with_reducible apply Dev.Agree.upd_host; decide)
    | split)

theorem Dev.isldBoundary_frame (d : Dev) (g : Nat) : Dev.Agree [0x22, 0xC0] [.evt, .mode, .isls] d (Dev.isldBoundary d g) := by
  unfold Dev.isldBoundary
  repeat' (first
    | (with_reducible intro x; first
        | (with_reducible refine Dev.Agree.have (cs := [0x22, 0xC0]) (fs := [.evt, .mode, .isls]) (a := d) (x := x) ?_ ?_; subst x; rotate_left 1; clear_value x; with_reducible intro _; rotate_right 1)
        | (with_reducible refine Dev.Agree.have (cs := [0x22, 0xC0]) (fs := [.evt, .mode, .isls]) (a := d) (x := x.2) ?_ ?_; subst x; rotate_left 1; clear_value x; with_reducible intro _; rotate_right 1)
        | clear_value x
        | skip)
    | with_reducible exact Dev.Agree.refl
    | with_reducible assumption
    | lift_lets -underBinder
    | with_reducible apply Dev.Agree.ite
    | (with_reducible apply Dev.Agree.put; decide; decide)
    | (with_reducible apply Dev.Agree.inc; decide; decide)
    | (with_reducible apply Dev.Agree.step (Dev.raise_frame _ _ _ _ _); decide; decide)
    | (with_reducible apply Dev.Agree.step (Dev.setIsl_frame _ _ _); decide; decide)
    | (with_reducible apply Dev.Agree.step (Dev.isldRegister_frame _ _ _); decide; decide)
    | with_reducible apply Dev.Agree.forL
    | (fail_if_no_progress with_reducible apply Dev.Agree.upd_mode; decide)
    | split)

theorem Dev.beginBeat_frame (d : Dev) (t : Nat) : Dev.Agree [0x200] [.now, .beatStart, .beatLen] d (Dev.beginBeat d t) := by
  unfold Dev.beginBeat
  repeat' (first
    | (with_reducible intro x; first
        | (with_reducible refine Dev.Agree.have (cs := [0x200]) (fs := [.now, .beatStart, .beatLen]) (a := d) (x := x) ?_ ?_; subst x; rotate_left 1; clear_value x; with_reducible intro _; rotate_right 1)
        | (with_reducible refine Dev.Agree.have (cs := [0x200]) (fs := [.now, .beatStart, .beatLen]) (a := d) (x := x.2) ?_ ?_; subst x; rotate_left 1; clear_value x; with_reducible intro _; rotate_right 1)
        | clear_value x
        | skip)
    | with_reducible exact Dev.Agree.refl
    | with_reducible assumption
    | lift_lets -underBinder
    | with_reducible apply Dev.Agree.ite
    | (with_reducible apply Dev.Agree.put; decide; decide)
    | (fail_if_no_progress with_reducible apply Dev.Agree.upd_now; decide)
    | (fail_if_no_progress with_reducible apply Dev.Agree.upd_beatStart; decide)
    | (fail_if_no_progress with_reducible apply Dev.Agree.upd_beatLen; decide)
    | (apply Dev.Agree.upd; (with_reducible assumption); exact Eq.refl _; intro f hf; cases f <;> first | exact absurd hf (by decide) | exact Eq.refl _)
    | (apply Dev.Agree.upd; (with_reducible exact Dev.Agree.refl); exact Eq.refl _; intro f hf; cases f <;> first | exact absurd hf (by decide) | exact Eq.refl _)
    | split)

theorem Dev.takeGrid_frame (d : Dev) (t : Nat) : Dev.Agree [0x02, 0x22] [.newGrid, .isls] d (Dev.takeGrid d t) := by
  unfold Dev.takeGrid
  repeat' (first
    | (with_reducible intro x; first
        | (with_reducible refine Dev.Agree.have (cs := [0x02, 0x22]) (fs := [.newGrid, .isls]) (a := d) (x := x) ?_ ?_; subst x; rotate_left 1; clear_value x; with_reducible intro _; rotate_right 1)
        | (with_reducible refine Dev.Agree.have (cs := [0x02, 0x22]) (fs := [.newGrid, .isls]) (a := d) (x := x.2) ?_ ?_; subst x; rotate_left 1; clear_value x; with_reducible intro _; rotate_right 1)
        | clear_value x
        | skip)
    | with_reducible exact Dev.Agree.refl
    | with_reducible assumption
    | lift_lets -underBinder
    | with_reducible apply Dev.Agree.ite
    | (with_reducible apply Dev.Agree.put; decide; decide)
    | (with_reducible apply Dev.Agree.step (Dev.isldRebound_frame _ _); decide; decide)
    | (with_reducible apply Dev.Agree.step (Dev.isldTimeStep_frame _); decide; decide)
    | with_reducible apply Dev.Agree.forN
    | (fail_if_no_progress with_reducible apply Dev.Agree.upd_newGrid; decide)
    | split)

theorem Dev.timeStep_frame (d : Dev) (off : Int) : Dev.Agree [0x22, 0x60, 0xC0, 0x200] [.now, .beatStart, .beatLen, .newGrid, .evt, .caps, .isls] d (Dev.timeStep d off) := by
  unfold Dev.timeStep
  repeat' (first
    | (with_reducible intro x; first
        | (with_reducible refine Dev.Agree.have (cs := [0x22, 0x60, 0xC0, 0x200]) (fs := [.now, .beatStart, .beatLen, .newGrid, .evt, .caps, .isls]) (a := d) (x := x) ?_ ?_; subst x; rotate_left 1; clear_value x; with_reducible intro _; rotate_right 1)
        | (with_reducible refine Dev.Agree.have (cs := [0x22, 0x60, 0xC0, 0x200]) (fs := [.now, .beatStart, .beatLen, .newGrid, .evt, .caps, .isls]) (a := d) (x := x.2) ?_ ?_; subst x; rotate_left 1; clear_value x; with_reducible intro _; rotate_right 1)
        | clear_value x
        | skip)
    | with_reducible exact Dev.Agree.refl
    | with_reducible assumption
    | lift_lets -underBinder
    | with_reducible apply Dev.Agree.ite
    | (with_reducible apply Dev.Agree.put; decide; decide)
    | (with_reducible apply Dev.Agree.step (Dev.raise_frame _ _ _ _ _); decide; decide)
    | (with_reducible apply Dev.Agree.step (Dev.setCap_frame _ _ _); decide; decide)
    | (with_reducible apply Dev.Agree.step (Dev.capGap_frame _ _ _ _); decide; decide)
    | (with_reducible apply Dev.Agree.step (Dev.isldTimeStep_frame _); decide; decide)
    | with_reducible apply Dev.Agree.forN
    | (fail_if_no_progress with_reducible apply Dev.Agree.upd_now; decide)
    | (fail_if_no_progress with_reducible apply Dev.Agree.upd_beatStart; decide)
    | (fail_if_no_progress with_reducible apply Dev.Agree.upd_beatLen; decide)
    | (fail_if_no_progress with_reducible apply Dev.Agree.upd_newGrid; decide)
    | (apply Dev.Agree.upd; (with_reducible assumption); exact Eq.refl _; intro f hf; cases f <;> first | exact absurd hf (by decide) | exact Eq.refl _)
    | (apply Dev.Agree.upd; (with_reducible exact Dev.Agree.refl); exact Eq.refl _; intro f hf; cases f <;> first | exact absurd hf (by decide) | exact Eq.refl _)
    | split)

theorem Dev.timeCorrect_frame (d : Dev) (off : Int) : Dev.Agree [0x22, 0x60, 0xC0, 0x200] [.now, .beatStart, .beatLen, .newGrid, .free, .evt, .caps, .isls, .sup] d (Dev.timeCorrect d off) := by
  unfold Dev.timeCorrect
  repeat' (first
    | (with_reducible intro x; first
        | (with_reducible refine Dev.Agree.have (cs := [0x22, 0x60, 0xC0, 0x200]) (fs := [.now, .beatStart, .beatLen, .newGrid, .free, .evt, .caps, .isls, .sup]) (a := d) (x := x) ?_ ?_; subst x; rotate_left 1; clear_value x; with_reducible intro _; rotate_right 1)
        | (with_reducible refine Dev.Agree.have (cs := [0x22, 0x60, 0xC0, 0x200]) (fs := [.now, .beatStart, .beatLen, .newGrid, .free, .evt, .caps, .isls, .sup]) (a := d) (x := x.2) ?_ ?_; subst x; rotate_left 1; clear_value x; with_reducible intro _; rotate_right 1)
        | clear_value x
        | skip)
    | with_reducible exact Dev.Agree.refl
    | with_reducible assumption
    | lift_lets -underBinder
    | with_reducible apply Dev.Agree.ite
    | (with_reducible apply Dev.Agree.step (Dev.freeVal_frame _); decide; decide)
    | (with_reducible apply Dev.Agree.step (Dev.raise_frame _ _ _ _ _); decide; decide)
    | (with_reducible apply Dev.Agree.step (Dev.timeStep_frame _ _); decide; decide)
    | (fail_if_no_progress with_reducible apply Dev.Agree.upd_sup; decide)
    | split)

theorem Dev.timeLost_frame (d : Dev) : Dev.Agree [0x02, 0xC0] [.evt, .sup] d (Dev.timeLost d) := by
  unfold Dev.timeLost
  repeat' (first
    | (with_reducible intro x; first
        | (with_reducible refine Dev.Agree.have (cs := [0x02, 0xC0]) (fs := [.evt, .sup]) (a := d) (x := x) ?_ ?_; subst x; rotate_left 1; clear_value x; with_reducible intro _; rotate_right 1)
        | (with_reducible refine Dev.Agree.have (cs := [0x02, 0xC0]) (fs := [.evt, .sup]) (a := d) (x := x.2) ?_ ?_; subst x; rotate_left 1; clear_value x; with_reducible intro _; rotate_right 1)
        | clear_value x
        | skip)
    | with_reducible exact Dev.Agree.refl
    | with_reducible assumption
    | lift_lets -underBinder
    | with_reducible apply Dev.Agree.ite
    | (with_reducible apply Dev.Agree.put; decide; decide)
    | (with_reducible apply Dev.Agree.step (Dev.raise_frame _ _ _ _ _); decide; decide)
    | (fail_if_no_progress with_reducible apply Dev.Agree.upd_sup; decide)
    | split)

theorem Dev.holdoverLimit_frame (d : Dev) : Dev.Agree [0x02] [] d (Dev.holdoverLimit d) := by
  unfold Dev.holdoverLimit
  repeat' (first
    | (with_reducible intro x; first
        | (with_reducible refine Dev.Agree.have (cs := [0x02]) (fs := []) (a := d) (x := x) ?_ ?_; subst x; rotate_left 1; clear_value x; with_reducible intro _; rotate_right 1)
        | (with_reducible refine Dev.Agree.have (cs := [0x02]) (fs := []) (a := d) (x := x.2) ?_ ?_; subst x; rotate_left 1; clear_value x; with_reducible intro _; rotate_right 1)
        | clear_value x
        | skip)
    | with_reducible exact Dev.Agree.refl
    | with_reducible assumption
    | lift_lets -underBinder
    | with_reducible apply Dev.Agree.ite
    | (with_reducible apply Dev.Agree.put; decide; decide)
    | split)

theorem Dev.timeMeasure_frame (d : Dev) (st : Nat) (off : Int) : Dev.Agree [0x02, 0x22, 0x60, 0xC0, 0x200] [.now, .beatStart, .beatLen, .newGrid, .free, .evt, .caps, .isls, .sup] d (Dev.timeMeasure d st off) := by
  unfold Dev.timeMeasure
  repeat' (first
    | (with_reducible intro x; first
        | (with_reducible refine Dev.Agree.have (cs := [0x02, 0x22, 0x60, 0xC0, 0x200]) (fs := [.now, .beatStart, .beatLen, .newGrid, .free, .evt, .caps, .isls, .sup]) (a := d) (x := x) ?_ ?_; subst x; rotate_left 1; clear_value x; with_reducible intro _; rotate_right 1)
        | (with_reducible refine Dev.Agree.have (cs := [0x02, 0x22, 0x60, 0xC0, 0x200]) (fs := [.now, .beatStart, .beatLen, .newGrid, .free, .evt, .caps, .isls, .sup]) (a := d) (x := x.2) ?_ ?_; subst x; rotate_left 1; clear_value x; with_reducible intro _; rotate_right 1)
        | clear_value x
        | skip)
    | with_reducible exact Dev.Agree.refl
    | with_reducible assumption
    | lift_lets -underBinder
    | with_reducible apply Dev.Agree.ite
    | (with_reducible apply Dev.Agree.put; decide; decide)
    | (with_reducible apply Dev.Agree.step (Dev.timeCorrect_frame _ _); decide; decide)
    | (fail_if_no_progress with_reducible apply Dev.Agree.upd_sup; decide)
    | split)

theorem Dev.ptpMessage_frame (d : Dev) (port : Nat) (off : Int) (utc : BitVec 16) (locked : Bool) : Dev.Agree [0x02, 0x22, 0x60, 0xC0, 0x200] [.now, .beatStart, .beatLen, .newGrid, .free, .evt, .caps, .isls, .sup] d (Dev.ptpMessage d port off utc locked) := by
  unfold Dev.ptpMessage
  repeat' (first
    | (with_reducible intro x; first
        | (with_reducible refine Dev.Agree.have (cs := [0x02, 0x22, 0x60, 0xC0, 0x200]) (fs := [.now, .beatStart, .beatLen, .newGrid, .free, .evt, .caps, .isls, .sup]) (a := d) (x := x) ?_ ?_; subst x; rotate_left 1; clear_value x; with_reducible intro _; rotate_right 1)
        | (with_reducible refine Dev.Agree.have (cs := [0x02, 0x22, 0x60, 0xC0, 0x200]) (fs := [.now, .beatStart, .beatLen, .newGrid, .free, .evt, .caps, .isls, .sup]) (a := d) (x := x.2) ?_ ?_; subst x; rotate_left 1; clear_value x; with_reducible intro _; rotate_right 1)
        | clear_value x
        | skip)
    | with_reducible exact Dev.Agree.refl
    | with_reducible assumption
    | lift_lets -underBinder
    | with_reducible apply Dev.Agree.ite
    | (with_reducible apply Dev.Agree.putI; decide; decide)
    | (with_reducible apply Dev.Agree.step (Dev.timeCorrect_frame _ _); decide; decide)
    | (with_reducible apply Dev.Agree.step (Dev.timeLost_frame _); decide; decide)
    | (with_reducible apply Dev.Agree.step (Dev.timeMeasure_frame _ _ _); decide; decide)
    | (fail_if_no_progress with_reducible apply Dev.Agree.upd_sup; decide)
    | split)

theorem Dev.ptpGone_frame (d : Dev) (port : Nat) : Dev.Agree [0x02, 0xC0] [.evt, .sup] d (Dev.ptpGone d port) := by
  unfold Dev.ptpGone
  repeat' (first
    | (with_reducible intro x; first
        | (with_reducible refine Dev.Agree.have (cs := [0x02, 0xC0]) (fs := [.evt, .sup]) (a := d) (x := x) ?_ ?_; subst x; rotate_left 1; clear_value x; with_reducible intro _; rotate_right 1)
        | (with_reducible refine Dev.Agree.have (cs := [0x02, 0xC0]) (fs := [.evt, .sup]) (a := d) (x := x.2) ?_ ?_; subst x; rotate_left 1; clear_value x; with_reducible intro _; rotate_right 1)
        | clear_value x
        | skip)
    | with_reducible exact Dev.Agree.refl
    | with_reducible assumption
    | lift_lets -underBinder
    | with_reducible apply Dev.Agree.ite
    | (with_reducible apply Dev.Agree.step (Dev.timeLost_frame _); decide; decide)
    | (fail_if_no_progress with_reducible apply Dev.Agree.upd_sup; decide)
    | split)

theorem Dev.timeBoundary_frame (d : Dev) : Dev.Agree [0x02, 0x80, 0xC0] [.evt, .sup] d (Dev.timeBoundary d) := by
  unfold Dev.timeBoundary
  repeat' (first
    | (with_reducible intro x; first
        | (with_reducible refine Dev.Agree.have (cs := [0x02, 0x80, 0xC0]) (fs := [.evt, .sup]) (a := d) (x := x) ?_ ?_; subst x; rotate_left 1; clear_value x; with_reducible intro _; rotate_right 1)
        | (with_reducible refine Dev.Agree.have (cs := [0x02, 0x80, 0xC0]) (fs := [.evt, .sup]) (a := d) (x := x.2) ?_ ?_; subst x; rotate_left 1; clear_value x; with_reducible intro _; rotate_right 1)
        | clear_value x
        | skip)
    | with_reducible exact Dev.Agree.refl
    | with_reducible assumption
    | lift_lets -underBinder
    | with_reducible apply Dev.Agree.ite
    | (with_reducible apply Dev.Agree.put; decide; decide)
    | (with_reducible apply Dev.Agree.step (Dev.raise_frame _ _ _ _ _); decide; decide)
    | (with_reducible apply Dev.Agree.step (Dev.timeLost_frame _); decide; decide)
    | with_reducible apply Dev.Agree.foldl
    | with_reducible apply Dev.Agree.foldl2
    | split)

theorem Dev.mismatchBoundary_frame (d : Dev) : Dev.Agree [0xC0] [.evt, .weave] d (Dev.mismatchBoundary d) := by
  unfold Dev.mismatchBoundary
  repeat' (first
    | (with_reducible intro x; first
        | (with_reducible refine Dev.Agree.have (cs := [0xC0]) (fs := [.evt, .weave]) (a := d) (x := x) ?_ ?_; subst x; rotate_left 1; clear_value x; with_reducible intro _; rotate_right 1)
        | (with_reducible refine Dev.Agree.have (cs := [0xC0]) (fs := [.evt, .weave]) (a := d) (x := x.2) ?_ ?_; subst x; rotate_left 1; clear_value x; with_reducible intro _; rotate_right 1)
        | clear_value x
        | skip)
    | with_reducible exact Dev.Agree.refl
    | with_reducible assumption
    | lift_lets -underBinder
    | with_reducible apply Dev.Agree.ite
    | (with_reducible apply Dev.Agree.put; decide; decide)
    | (with_reducible apply Dev.Agree.step (Dev.raise_frame _ _ _ _ _); decide; decide)
    | (fail_if_no_progress with_reducible apply Dev.Agree.upd_weave; decide)
    | split)

theorem Dev.setSpoke_frame (d : Dev) (s : Nat) (x : SpokeRt) : Dev.Agree [] [.spokes] d (Dev.setSpoke d s x) := by
  unfold Dev.setSpoke
  repeat' (first
    | (with_reducible intro x; first
        | (with_reducible refine Dev.Agree.have (cs := []) (fs := [.spokes]) (a := d) (x := x) ?_ ?_; subst x; rotate_left 1; clear_value x; with_reducible intro _; rotate_right 1)
        | (with_reducible refine Dev.Agree.have (cs := []) (fs := [.spokes]) (a := d) (x := x.2) ?_ ?_; subst x; rotate_left 1; clear_value x; with_reducible intro _; rotate_right 1)
        | clear_value x
        | skip)
    | with_reducible exact Dev.Agree.refl
    | with_reducible assumption
    | lift_lets -underBinder
    | with_reducible apply Dev.Agree.ite
    | (fail_if_no_progress with_reducible apply Dev.Agree.upd_spokes; decide)
    | split)

theorem Dev.cellAdvance_frame (d : Dev) (j : Nat) (c : Nat) : Dev.Agree [0x12] [.cells] d (Dev.cellAdvance d j c) := by
  unfold Dev.cellAdvance
  repeat' (first
    | (with_reducible intro x; first
        | (with_reducible refine Dev.Agree.have (cs := [0x12]) (fs := [.cells]) (a := d) (x := x) ?_ ?_; subst x; rotate_left 1; clear_value x; with_reducible intro _; rotate_right 1)
        | (with_reducible refine Dev.Agree.have (cs := [0x12]) (fs := [.cells]) (a := d) (x := x.2) ?_ ?_; subst x; rotate_left 1; clear_value x; with_reducible intro _; rotate_right 1)
        | clear_value x
        | skip)
    | with_reducible exact Dev.Agree.refl
    | with_reducible assumption
    | lift_lets -underBinder
    | with_reducible apply Dev.Agree.ite
    | (with_reducible apply Dev.Agree.inc; decide; decide)
    | (with_reducible apply Dev.Agree.step (Dev.setCell_frame _ _ _); decide; decide)
    | split)

theorem Dev.armLatch_frame (d : Dev) (j : Nat) : Dev.Agree [0x12] [.arms] d (Dev.armLatch d j) := by
  unfold Dev.armLatch
  repeat' (first
    | (with_reducible intro x; first
        | (with_reducible refine Dev.Agree.have (cs := [0x12]) (fs := [.arms]) (a := d) (x := x) ?_ ?_; subst x; rotate_left 1; clear_value x; with_reducible intro _; rotate_right 1)
        | (with_reducible refine Dev.Agree.have (cs := [0x12]) (fs := [.arms]) (a := d) (x := x.2) ?_ ?_; subst x; rotate_left 1; clear_value x; with_reducible intro _; rotate_right 1)
        | clear_value x
        | skip)
    | with_reducible exact Dev.Agree.refl
    | with_reducible assumption
    | lift_lets -underBinder
    | with_reducible apply Dev.Agree.ite
    | (with_reducible apply Dev.Agree.putBit; decide; decide)
    | (with_reducible apply Dev.Agree.step (Dev.setArm_frame _ _ _); decide; decide)
    | split)

theorem Dev.armBoundary_frame (d : Dev) (j : Nat) : Dev.Agree [0x12] [.arms] d (Dev.armBoundary d j) := by
  unfold Dev.armBoundary
  repeat' (first
    | (with_reducible intro x; first
        | (with_reducible refine Dev.Agree.have (cs := [0x12]) (fs := [.arms]) (a := d) (x := x) ?_ ?_; subst x; rotate_left 1; clear_value x; with_reducible intro _; rotate_right 1)
        | (with_reducible refine Dev.Agree.have (cs := [0x12]) (fs := [.arms]) (a := d) (x := x.2) ?_ ?_; subst x; rotate_left 1; clear_value x; with_reducible intro _; rotate_right 1)
        | clear_value x
        | skip)
    | with_reducible exact Dev.Agree.refl
    | with_reducible assumption
    | lift_lets -underBinder
    | with_reducible apply Dev.Agree.ite
    | (with_reducible apply Dev.Agree.put; decide; decide)
    | (with_reducible apply Dev.Agree.putF; decide; decide)
    | (with_reducible apply Dev.Agree.step (Dev.setArm_frame _ _ _); decide; decide)
    | split)

theorem Dev.armProbe_frame (d : Dev) (j : Nat) : Dev.Agree [0x12] [] d (Dev.armProbe d j) := by
  unfold Dev.armProbe
  repeat' (first
    | (with_reducible intro x; first
        | (with_reducible refine Dev.Agree.have (cs := [0x12]) (fs := []) (a := d) (x := x) ?_ ?_; subst x; rotate_left 1; clear_value x; with_reducible intro _; rotate_right 1)
        | (with_reducible refine Dev.Agree.have (cs := [0x12]) (fs := []) (a := d) (x := x.2) ?_ ?_; subst x; rotate_left 1; clear_value x; with_reducible intro _; rotate_right 1)
        | clear_value x
        | skip)
    | with_reducible exact Dev.Agree.refl
    | with_reducible assumption
    | lift_lets -underBinder
    | with_reducible apply Dev.Agree.ite
    | (with_reducible apply Dev.Agree.put; decide; decide)
    | (with_reducible apply Dev.Agree.putF; decide; decide)
    | split)

theorem Dev.armPass_frame (d : Dev) (j : Nat) : Dev.Agree [0x12, 0xC0] [.evt, .cells, .arms] d (Dev.armPass d j) := by
  unfold Dev.armPass
  repeat' (first
    | (with_reducible intro x; first
        | (with_reducible refine Dev.Agree.have (cs := [0x12, 0xC0]) (fs := [.evt, .cells, .arms]) (a := d) (x := x) ?_ ?_; subst x; rotate_left 1; clear_value x; with_reducible intro _; rotate_right 1)
        | (with_reducible refine Dev.Agree.have (cs := [0x12, 0xC0]) (fs := [.evt, .cells, .arms]) (a := d) (x := x.2) ?_ ?_; subst x; rotate_left 1; clear_value x; with_reducible intro _; rotate_right 1)
        | clear_value x
        | skip)
    | with_reducible exact Dev.Agree.refl
    | with_reducible assumption
    | lift_lets -underBinder
    | with_reducible apply Dev.Agree.ite
    | (with_reducible apply Dev.Agree.put; decide; decide)
    | (with_reducible apply Dev.Agree.step (Dev.raise_frame _ _ _ _ _); decide; decide)
    | (with_reducible apply Dev.Agree.step (Dev.setCell_frame _ _ _); decide; decide)
    | (with_reducible apply Dev.Agree.step (Dev.setArm_frame _ _ _); decide; decide)
    | (with_reducible apply Dev.Agree.step (Dev.cellAdvance_frame _ _ _); decide; decide)
    | (with_reducible apply Dev.Agree.step (Dev.armProbe_frame _ _); decide; decide)
    | with_reducible apply Dev.Agree.forL
    | split)

theorem Dev.armFinal_frame (d : Dev) (j : Nat) : Dev.Agree [0x12, 0xC0] [.evt, .cells, .arms] d (Dev.armFinal d j) := by
  unfold Dev.armFinal
  repeat' (first
    | (with_reducible intro x; first
        | (with_reducible refine Dev.Agree.have (cs := [0x12, 0xC0]) (fs := [.evt, .cells, .arms]) (a := d) (x := x) ?_ ?_; subst x; rotate_left 1; clear_value x; with_reducible intro _; rotate_right 1)
        | (with_reducible refine Dev.Agree.have (cs := [0x12, 0xC0]) (fs := [.evt, .cells, .arms]) (a := d) (x := x.2) ?_ ?_; subst x; rotate_left 1; clear_value x; with_reducible intro _; rotate_right 1)
        | clear_value x
        | skip)
    | with_reducible exact Dev.Agree.refl
    | with_reducible assumption
    | lift_lets -underBinder
    | with_reducible apply Dev.Agree.ite
    | (with_reducible apply Dev.Agree.put; decide; decide)
    | (with_reducible apply Dev.Agree.putF; decide; decide)
    | (with_reducible apply Dev.Agree.inc; decide; decide)
    | (with_reducible apply Dev.Agree.step (Dev.raise_frame _ _ _ _ _); decide; decide)
    | (with_reducible apply Dev.Agree.step (Dev.setCell_frame _ _ _); decide; decide)
    | (with_reducible apply Dev.Agree.step (Dev.setArm_frame _ _ _); decide; decide)
    | (with_reducible apply Dev.Agree.step (Dev.armProbe_frame _ _); decide; decide)
    | with_reducible apply Dev.Agree.forL
    | with_reducible apply Dev.Agree.foldl
    | with_reducible apply Dev.Agree.foldl2
    | split)

theorem Dev.finalStep_frame (d : Dev) : Dev.Agree [0x12, 0xC0] [.evt, .cells, .arms] d (Dev.finalStep d) := by
  unfold Dev.finalStep
  repeat' (first
    | (with_reducible intro x; first
        | (with_reducible refine Dev.Agree.have (cs := [0x12, 0xC0]) (fs := [.evt, .cells, .arms]) (a := d) (x := x) ?_ ?_; subst x; rotate_left 1; clear_value x; with_reducible intro _; rotate_right 1)
        | (with_reducible refine Dev.Agree.have (cs := [0x12, 0xC0]) (fs := [.evt, .cells, .arms]) (a := d) (x := x.2) ?_ ?_; subst x; rotate_left 1; clear_value x; with_reducible intro _; rotate_right 1)
        | clear_value x
        | skip)
    | with_reducible exact Dev.Agree.refl
    | with_reducible assumption
    | lift_lets -underBinder
    | with_reducible apply Dev.Agree.ite
    | (with_reducible apply Dev.Agree.step (Dev.armFinal_frame _ _); decide; decide)
    | with_reducible apply Dev.Agree.forN
    | split)

theorem Dev.armRates_frame (d : Dev) (j : Nat) : Dev.Agree [0x12] [.cells] d (Dev.armRates d j) := by
  unfold Dev.armRates
  repeat' (first
    | (with_reducible intro x; first
        | (with_reducible refine Dev.Agree.have (cs := [0x12]) (fs := [.cells]) (a := d) (x := x) ?_ ?_; subst x; rotate_left 1; clear_value x; with_reducible intro _; rotate_right 1)
        | (with_reducible refine Dev.Agree.have (cs := [0x12]) (fs := [.cells]) (a := d) (x := x.2) ?_ ?_; subst x; rotate_left 1; clear_value x; with_reducible intro _; rotate_right 1)
        | clear_value x
        | skip)
    | with_reducible exact Dev.Agree.refl
    | with_reducible assumption
    | lift_lets -underBinder
    | with_reducible apply Dev.Agree.ite
    | (with_reducible apply Dev.Agree.putF; decide; decide)
    | (with_reducible apply Dev.Agree.putBit; decide; decide)
    | (with_reducible apply Dev.Agree.inc; decide; decide)
    | (with_reducible apply Dev.Agree.step (Dev.setCell_frame _ _ _); decide; decide)
    | with_reducible apply Dev.Agree.forL
    | split)

theorem Dev.noteBlock_frame (d : Dev) (c : Nat) (b : Nat) : Dev.Agree [] [.cells] d (Dev.noteBlock d c b) := by
  unfold Dev.noteBlock
  repeat' (first
    | (with_reducible intro x; first
        | (with_reducible refine Dev.Agree.have (cs := []) (fs := [.cells]) (a := d) (x := x) ?_ ?_; subst x; rotate_left 1; clear_value x; with_reducible intro _; rotate_right 1)
        | (with_reducible refine Dev.Agree.have (cs := []) (fs := [.cells]) (a := d) (x := x.2) ?_ ?_; subst x; rotate_left 1; clear_value x; with_reducible intro _; rotate_right 1)
        | clear_value x
        | skip)
    | with_reducible exact Dev.Agree.refl
    | with_reducible assumption
    | lift_lets -underBinder
    | with_reducible apply Dev.Agree.ite
    | (with_reducible apply Dev.Agree.step (Dev.setCell_frame _ _ _); decide; decide)
    | split)

theorem Dev.sendHalf_frame (d : Dev) (c : Nat) (h : Half) (all : Bool) : Dev.Agree [] [.cells] d (Dev.sendHalf d c h all) := by
  unfold Dev.sendHalf
  repeat' (first
    | (with_reducible intro x; first
        | (with_reducible refine Dev.Agree.have (cs := []) (fs := [.cells]) (a := d) (x := x) ?_ ?_; subst x; rotate_left 1; clear_value x; with_reducible intro _; rotate_right 1)
        | (with_reducible refine Dev.Agree.have (cs := []) (fs := [.cells]) (a := d) (x := x.2) ?_ ?_; subst x; rotate_left 1; clear_value x; with_reducible intro _; rotate_right 1)
        | clear_value x
        | skip)
    | with_reducible exact Dev.Agree.refl
    | with_reducible assumption
    | lift_lets -underBinder
    | with_reducible apply Dev.Agree.ite
    | (with_reducible apply Dev.Agree.step (Dev.setCell_frame _ _ _); decide; decide)
    | split)

theorem Dev.armBlock_frame (d : Dev) (j : Nat) (cause : Nat) (cells : Nat) : Dev.Agree [0x12, 0xC0] [.evt, .mode, .arms, .weave] d (Dev.armBlock d j cause cells) := by
  unfold Dev.armBlock
  repeat' (first
    | (with_reducible intro x; first
        | (with_reducible refine Dev.Agree.have (cs := [0x12, 0xC0]) (fs := [.evt, .mode, .arms, .weave]) (a := d) (x := x) ?_ ?_; subst x; rotate_left 1; clear_value x; with_reducible intro _; rotate_right 1)
        | (with_reducible refine Dev.Agree.have (cs := [0x12, 0xC0]) (fs := [.evt, .mode, .arms, .weave]) (a := d) (x := x.2) ?_ ?_; subst x; rotate_left 1; clear_value x; with_reducible intro _; rotate_right 1)
        | clear_value x
        | skip)
    | with_reducible exact Dev.Agree.refl
    | with_reducible assumption
    | lift_lets -underBinder
    | with_reducible apply Dev.Agree.ite
    | (with_reducible apply Dev.Agree.put; decide; decide)
    | (with_reducible apply Dev.Agree.putF; decide; decide)
    | (with_reducible apply Dev.Agree.inc; decide; decide)
    | (with_reducible apply Dev.Agree.step (Dev.raise_frame _ _ _ _ _); decide; decide)
    | (with_reducible apply Dev.Agree.step (Dev.weavePut_frame _ _ _ _ _); decide; decide)
    | (with_reducible apply Dev.Agree.step (Dev.setArm_frame _ _ _); decide; decide)
    | (fail_if_no_progress with_reducible apply Dev.Agree.upd_mode; decide)
    | split)

theorem Dev.armBlockClear_frame (d : Dev) (j : Nat) : Dev.Agree [0x12] [.arms] d (Dev.armBlockClear d j) := by
  unfold Dev.armBlockClear
  repeat' (first
    | (with_reducible intro x; first
        | (with_reducible refine Dev.Agree.have (cs := [0x12]) (fs := [.arms]) (a := d) (x := x) ?_ ?_; subst x; rotate_left 1; clear_value x; with_reducible intro _; rotate_right 1)
        | (with_reducible refine Dev.Agree.have (cs := [0x12]) (fs := [.arms]) (a := d) (x := x.2) ?_ ?_; subst x; rotate_left 1; clear_value x; with_reducible intro _; rotate_right 1)
        | clear_value x
        | skip)
    | with_reducible exact Dev.Agree.refl
    | with_reducible assumption
    | lift_lets -underBinder
    | with_reducible apply Dev.Agree.ite
    | (with_reducible apply Dev.Agree.put; decide; decide)
    | (with_reducible apply Dev.Agree.step (Dev.setArm_frame _ _ _); decide; decide)
    | split)

theorem Dev.countBypassed_frame (d : Dev) (j : Nat) : Dev.Agree [0x12] [] d (Dev.countBypassed d j) := by
  unfold Dev.countBypassed
  repeat' (first
    | (with_reducible intro x; first
        | (with_reducible refine Dev.Agree.have (cs := [0x12]) (fs := []) (a := d) (x := x) ?_ ?_; subst x; rotate_left 1; clear_value x; with_reducible intro _; rotate_right 1)
        | (with_reducible refine Dev.Agree.have (cs := [0x12]) (fs := []) (a := d) (x := x.2) ?_ ?_; subst x; rotate_left 1; clear_value x; with_reducible intro _; rotate_right 1)
        | clear_value x
        | skip)
    | with_reducible exact Dev.Agree.refl
    | with_reducible assumption
    | lift_lets -underBinder
    | with_reducible apply Dev.Agree.ite
    | (with_reducible apply Dev.Agree.put; decide; decide)
    | split)

theorem Dev.selectBypass_frame (d : Dev) (c : Nat) : Dev.Agree [0x11, 0x12] [.cells] d (Dev.selectBypass d c) := by
  unfold Dev.selectBypass
  repeat' (first
    | (with_reducible intro x; first
        | (with_reducible refine Dev.Agree.have (cs := [0x11, 0x12]) (fs := [.cells]) (a := d) (x := x) ?_ ?_; subst x; rotate_left 1; clear_value x; with_reducible intro _; rotate_right 1)
        | (with_reducible refine Dev.Agree.have (cs := [0x11, 0x12]) (fs := [.cells]) (a := d) (x := x.2) ?_ ?_; subst x; rotate_left 1; clear_value x; with_reducible intro _; rotate_right 1)
        | clear_value x
        | skip)
    | with_reducible exact Dev.Agree.refl
    | with_reducible assumption
    | lift_lets -underBinder
    | with_reducible apply Dev.Agree.ite
    | (with_reducible apply Dev.Agree.put; decide; decide)
    | (with_reducible apply Dev.Agree.inc; decide; decide)
    | (with_reducible apply Dev.Agree.step (Dev.setCell_frame _ _ _); decide; decide)
    | split)

theorem Dev.twoCell_frame (d : Dev) (j : Nat) (c : Nat) (tseq : Nat) : Dev.Agree [0x12, 0xC0] [.evt, .mode, .arms, .weave] d (Dev.twoCell d j c tseq) := by
  unfold Dev.twoCell
  repeat' (first
    | (with_reducible intro x; first
        | (with_reducible refine Dev.Agree.have (cs := [0x12, 0xC0]) (fs := [.evt, .mode, .arms, .weave]) (a := d) (x := x) ?_ ?_; subst x; rotate_left 1; clear_value x; with_reducible intro _; rotate_right 1)
        | (with_reducible refine Dev.Agree.have (cs := [0x12, 0xC0]) (fs := [.evt, .mode, .arms, .weave]) (a := d) (x := x.2) ?_ ?_; subst x; rotate_left 1; clear_value x; with_reducible intro _; rotate_right 1)
        | clear_value x
        | skip)
    | with_reducible exact Dev.Agree.refl
    | with_reducible assumption
    | lift_lets -underBinder
    | with_reducible apply Dev.Agree.ite
    | (with_reducible apply Dev.Agree.put; decide; decide)
    | (with_reducible apply Dev.Agree.step (Dev.setArm_frame _ _ _); decide; decide)
    | (with_reducible apply Dev.Agree.step (Dev.armBlock_frame _ _ _ _); decide; decide)
    | split)

end Sys2Proof.Machine
end

