-- ==== Sys2Proof/Laws/FrameB.lean ====
section
/-! SUPPORT. Frames of the device's operations, part 2 of 4: for each, the groups of parameters and the parts of the device it may change. -/

set_option linter.all false

namespace Sys2Proof.Machine

theorem Dev.underVoltage_frame (d : Dev) (c : Nat) : Dev.Agree [0x11, 0x12, 0xC0] [.evt, .cells] d (Dev.underVoltage d c) := by
  unfold Dev.underVoltage
  repeat' (first
    | (with_reducible intro x; first
        | (with_reducible refine Dev.Agree.have (cs := [0x11, 0x12, 0xC0]) (fs := [.evt, .cells]) (a := d) (x := x) ?_ ?_; subst x; rotate_left 1; clear_value x; with_reducible intro _; rotate_right 1)
        | (with_reducible refine Dev.Agree.have (cs := [0x11, 0x12, 0xC0]) (fs := [.evt, .cells]) (a := d) (x := x.2) ?_ ?_; subst x; rotate_left 1; clear_value x; with_reducible intro _; rotate_right 1)
        | clear_value x
        | skip)
    | with_reducible exact Dev.Agree.refl
    | with_reducible assumption
    | lift_lets -underBinder
    | with_reducible apply Dev.Agree.ite
    | (with_reducible apply Dev.Agree.inc; decide; decide)
    | (with_reducible apply Dev.Agree.step (Dev.raise_frame _ _ _ _ _); decide; decide)
    | (with_reducible apply Dev.Agree.step (Dev.setCell_frame _ _ _); decide; decide)
    | (with_reducible apply Dev.Agree.step (Dev.selectBypass_frame _ _); decide; decide)
    | split)

theorem Dev.configAnswer_frame (d : Dev) (c : Nat) (beat : Nat) (err : Bool) : Dev.Agree [0xC0] [.evt, .cells] d (Dev.configAnswer d c beat err) := by
  unfold Dev.configAnswer
  repeat' (first
    | (with_reducible intro x; first
        | (with_reducible refine Dev.Agree.have (cs := [0xC0]) (fs := [.evt, .cells]) (a := d) (x := x) ?_ ?_; subst x; rotate_left 1; clear_value x; with_reducible intro _; rotate_right 1)
        | (with_reducible refine Dev.Agree.have (cs := [0xC0]) (fs := [.evt, .cells]) (a := d) (x := x.2) ?_ ?_; subst x; rotate_left 1; clear_value x; with_reducible intro _; rotate_right 1)
        | clear_value x
        | skip)
    | with_reducible exact Dev.Agree.refl
    | with_reducible assumption
    | lift_lets -underBinder
    | with_reducible apply Dev.Agree.ite
    | (with_reducible apply Dev.Agree.step (Dev.raise_frame _ _ _ _ _); decide; decide)
    | (with_reducible apply Dev.Agree.step (Dev.setCell_frame _ _ _); decide; decide)
    | split)

theorem Dev.unblockStart_frame (d : Dev) (c : Nat) : Dev.Agree [] [.cells] d (Dev.unblockStart d c) := by
  unfold Dev.unblockStart
  repeat' (first
    | (with_reducible intro x; first
        | (with_reducible refine Dev.Agree.have (cs := []) (fs := [.cells]) (a := d) (x := x) ?_ ?_; subst x; rotate_left 1; clear_value x; with_reducible intro _; rotate_right 1)
        | (with_reducible refine Dev.Agree.have (cs := []) (fs := [.cells]) (a := d) (x := x.2) ?_ ?_; subst x; rotate_left 1; clear_value x; with_reducible intro _; rotate_right 1)
        | clear_value x
        | skip)
    | with_reducible exact Dev.Agree.refl
    | with_reducible assumption
    | lift_lets -underBinder
    | with_reducible apply Dev.Agree.ite
    | (with_reducible apply Dev.Agree.step (Dev.setCell_frame _ _ _); decide; decide)
    | split)

theorem Dev.telemRecord_frame (d : Dev) (c : Nat) (beat : Nat) (h : List Byte) : Dev.Agree [0x11] [] d (Dev.telemRecord d c beat h) := by
  unfold Dev.telemRecord
  repeat' (first
    | (with_reducible intro x; first
        | (with_reducible refine Dev.Agree.have (cs := [0x11]) (fs := []) (a := d) (x := x) ?_ ?_; subst x; rotate_left 1; clear_value x; with_reducible intro _; rotate_right 1)
        | (with_reducible refine Dev.Agree.have (cs := [0x11]) (fs := []) (a := d) (x := x.2) ?_ ?_; subst x; rotate_left 1; clear_value x; with_reducible intro _; rotate_right 1)
        | clear_value x
        | skip)
    | with_reducible exact Dev.Agree.refl
    | with_reducible assumption
    | lift_lets -underBinder
    | with_reducible apply Dev.Agree.ite
    | (with_reducible apply Dev.Agree.put; decide; decide)
    | (with_reducible apply Dev.Agree.putI; decide; decide)
    | split)

theorem Dev.telemFaults_frame (d : Dev) (c : Nat) (old : Nat) (ft : Nat) (tseq : Nat) : Dev.Agree [0x11, 0x12, 0xC0] [.evt, .mode, .cells, .arms, .weave] d (Dev.telemFaults d c old ft tseq) := by
  unfold Dev.telemFaults
  repeat' (first
    | (with_reducible intro x; first
        | (with_reducible refine Dev.Agree.have (cs := [0x11, 0x12, 0xC0]) (fs := [.evt, .mode, .cells, .arms, .weave]) (a := d) (x := x) ?_ ?_; subst x; rotate_left 1; clear_value x; with_reducible intro _; rotate_right 1)
        | (with_reducible refine Dev.Agree.have (cs := [0x11, 0x12, 0xC0]) (fs := [.evt, .mode, .cells, .arms, .weave]) (a := d) (x := x.2) ?_ ?_; subst x; rotate_left 1; clear_value x; with_reducible intro _; rotate_right 1)
        | clear_value x
        | skip)
    | with_reducible exact Dev.Agree.refl
    | with_reducible assumption
    | lift_lets -underBinder
    | with_reducible apply Dev.Agree.ite
    | (with_reducible apply Dev.Agree.inc; decide; decide)
    | (with_reducible apply Dev.Agree.step (Dev.raise_frame _ _ _ _ _); decide; decide)
    | (with_reducible apply Dev.Agree.step (Dev.selectBypass_frame _ _); decide; decide)
    | (with_reducible apply Dev.Agree.step (Dev.twoCell_frame _ _ _ _); decide; decide)
    | split)

theorem Dev.telemBypass_frame (d : Dev) (c : Nat) (bypassed : Bool) : Dev.Agree [0x11, 0x12, 0xC0] [.evt, .cells] d (Dev.telemBypass d c bypassed) := by
  unfold Dev.telemBypass
  repeat' (first
    | (with_reducible intro x; first
        | (with_reducible refine Dev.Agree.have (cs := [0x11, 0x12, 0xC0]) (fs := [.evt, .cells]) (a := d) (x := x) ?_ ?_; subst x; rotate_left 1; clear_value x; with_reducible intro _; rotate_right 1)
        | (with_reducible refine Dev.Agree.have (cs := [0x11, 0x12, 0xC0]) (fs := [.evt, .cells]) (a := d) (x := x.2) ?_ ?_; subst x; rotate_left 1; clear_value x; with_reducible intro _; rotate_right 1)
        | clear_value x
        | skip)
    | with_reducible exact Dev.Agree.refl
    | with_reducible assumption
    | lift_lets -underBinder
    | with_reducible apply Dev.Agree.ite
    | (with_reducible apply Dev.Agree.put; decide; decide)
    | (with_reducible apply Dev.Agree.step (Dev.raise_frame _ _ _ _ _); decide; decide)
    | (with_reducible apply Dev.Agree.step (Dev.setCell_frame _ _ _); decide; decide)
    | (with_reducible apply Dev.Agree.step (Dev.selectBypass_frame _ _); decide; decide)
    | split)

theorem Dev.telemFirst_frame (d : Dev) (c : Nat) (h : List Byte) : Dev.Agree [0x11, 0x12, 0x60, 0x61, 0xC0] [.evt, .mode, .caps, .trigs, .cells, .arms, .weave] d (Dev.telemFirst d c h) := by
  unfold Dev.telemFirst
  repeat' (first
    | (with_reducible intro x; first
        | (with_reducible refine Dev.Agree.have (cs := [0x11, 0x12, 0x60, 0x61, 0xC0]) (fs := [.evt, .mode, .caps, .trigs, .cells, .arms, .weave]) (a := d) (x := x) ?_ ?_; subst x; rotate_left 1; clear_value x; with_reducible intro _; rotate_right 1)
        | (with_reducible refine Dev.Agree.have (cs := [0x11, 0x12, 0x60, 0x61, 0xC0]) (fs := [.evt, .mode, .caps, .trigs, .cells, .arms, .weave]) (a := d) (x := x.2) ?_ ?_; subst x; rotate_left 1; clear_value x; with_reducible intro _; rotate_right 1)
        | clear_value x
        | skip)
    | with_reducible exact Dev.Agree.refl
    | with_reducible assumption
    | lift_lets -underBinder
    | with_reducible apply Dev.Agree.ite
    | (with_reducible apply Dev.Agree.step (Dev.sample_frame _ _ _ _ _ _ _); decide; decide)
    | (with_reducible apply Dev.Agree.step (Dev.setCell_frame _ _ _); decide; decide)
    | (with_reducible apply Dev.Agree.step (Dev.selectBypass_frame _ _); decide; decide)
    | (with_reducible apply Dev.Agree.step (Dev.underVoltage_frame _ _); decide; decide)
    | (with_reducible apply Dev.Agree.step (Dev.configAnswer_frame _ _ _ _); decide; decide)
    | (with_reducible apply Dev.Agree.step (Dev.telemRecord_frame _ _ _ _); decide; decide)
    | (with_reducible apply Dev.Agree.step (Dev.telemFaults_frame _ _ _ _ _); decide; decide)
    | (with_reducible apply Dev.Agree.step (Dev.telemBypass_frame _ _ _); decide; decide)
    | with_reducible apply Dev.Agree.forL
    | split)

theorem Dev.telemHalf_frame (d : Dev) (c : Nat) (h : List Byte) : Dev.Agree [0x11, 0x12, 0x60, 0x61, 0xC0] [.evt, .mode, .caps, .trigs, .cells, .arms, .weave] d (Dev.telemHalf d c h) := by
  unfold Dev.telemHalf
  repeat' (first
    | (with_reducible intro x; first
        | (with_reducible refine Dev.Agree.have (cs := [0x11, 0x12, 0x60, 0x61, 0xC0]) (fs := [.evt, .mode, .caps, .trigs, .cells, .arms, .weave]) (a := d) (x := x) ?_ ?_; subst x; rotate_left 1; clear_value x; with_reducible intro _; rotate_right 1)
        | (with_reducible refine Dev.Agree.have (cs := [0x11, 0x12, 0x60, 0x61, 0xC0]) (fs := [.evt, .mode, .caps, .trigs, .cells, .arms, .weave]) (a := d) (x := x.2) ?_ ?_; subst x; rotate_left 1; clear_value x; with_reducible intro _; rotate_right 1)
        | clear_value x
        | skip)
    | with_reducible exact Dev.Agree.refl
    | with_reducible assumption
    | lift_lets -underBinder
    | with_reducible apply Dev.Agree.ite
    | (with_reducible apply Dev.Agree.step (Dev.telemFirst_frame _ _ _); decide; decide)
    | split)

theorem Dev.bypassFail_frame (d : Dev) (c : Nat) : Dev.Agree [0x11, 0x12, 0xC0] [.evt, .mode, .arms, .weave] d (Dev.bypassFail d c) := by
  unfold Dev.bypassFail
  repeat' (first
    | (with_reducible intro x; first
        | (with_reducible refine Dev.Agree.have (cs := [0x11, 0x12, 0xC0]) (fs := [.evt, .mode, .arms, .weave]) (a := d) (x := x) ?_ ?_; subst x; rotate_left 1; clear_value x; with_reducible intro _; rotate_right 1)
        | (with_reducible refine Dev.Agree.have (cs := [0x11, 0x12, 0xC0]) (fs := [.evt, .mode, .arms, .weave]) (a := d) (x := x.2) ?_ ?_; subst x; rotate_left 1; clear_value x; with_reducible intro _; rotate_right 1)
        | clear_value x
        | skip)
    | with_reducible exact Dev.Agree.refl
    | with_reducible assumption
    | lift_lets -underBinder
    | with_reducible apply Dev.Agree.ite
    | (with_reducible apply Dev.Agree.put; decide; decide)
    | (with_reducible apply Dev.Agree.step (Dev.raise_frame _ _ _ _ _); decide; decide)
    | (with_reducible apply Dev.Agree.step (Dev.armBlock_frame _ _ _ _); decide; decide)
    | split)

theorem Dev.cellLost_frame (d : Dev) (c : Nat) : Dev.Agree [0x11, 0x12, 0xC0] [.evt, .cells] d (Dev.cellLost d c) := by
  unfold Dev.cellLost
  repeat' (first
    | (with_reducible intro x; first
        | (with_reducible refine Dev.Agree.have (cs := [0x11, 0x12, 0xC0]) (fs := [.evt, .cells]) (a := d) (x := x) ?_ ?_; subst x; rotate_left 1; clear_value x; with_reducible intro _; rotate_right 1)
        | (with_reducible refine Dev.Agree.have (cs := [0x11, 0x12, 0xC0]) (fs := [.evt, .cells]) (a := d) (x := x.2) ?_ ?_; subst x; rotate_left 1; clear_value x; with_reducible intro _; rotate_right 1)
        | clear_value x
        | skip)
    | with_reducible exact Dev.Agree.refl
    | with_reducible assumption
    | lift_lets -underBinder
    | with_reducible apply Dev.Agree.ite
    | (with_reducible apply Dev.Agree.put; decide; decide)
    | (with_reducible apply Dev.Agree.step (Dev.raise_frame _ _ _ _ _); decide; decide)
    | (with_reducible apply Dev.Agree.step (Dev.setCell_frame _ _ _); decide; decide)
    | (with_reducible apply Dev.Agree.step (Dev.selectBypass_frame _ _); decide; decide)
    | split)

theorem Dev.unblockFail_frame (d : Dev) (c : Nat) : Dev.Agree [0xC0] [.evt, .cells] d (Dev.unblockFail d c) := by
  unfold Dev.unblockFail
  repeat' (first
    | (with_reducible intro x; first
        | (with_reducible refine Dev.Agree.have (cs := [0xC0]) (fs := [.evt, .cells]) (a := d) (x := x) ?_ ?_; subst x; rotate_left 1; clear_value x; with_reducible intro _; rotate_right 1)
        | (with_reducible refine Dev.Agree.have (cs := [0xC0]) (fs := [.evt, .cells]) (a := d) (x := x.2) ?_ ?_; subst x; rotate_left 1; clear_value x; with_reducible intro _; rotate_right 1)
        | clear_value x
        | skip)
    | with_reducible exact Dev.Agree.refl
    | with_reducible assumption
    | lift_lets -underBinder
    | with_reducible apply Dev.Agree.ite
    | (with_reducible apply Dev.Agree.step (Dev.raise_frame _ _ _ _ _); decide; decide)
    | (with_reducible apply Dev.Agree.step (Dev.setCell_frame _ _ _); decide; decide)
    | split)

theorem Dev.staleBeat_frame (d : Dev) (c : Nat) : Dev.Agree [0x11] [.cells] d (Dev.staleBeat d c) := by
  unfold Dev.staleBeat
  repeat' (first
    | (with_reducible intro x; first
        | (with_reducible refine Dev.Agree.have (cs := [0x11]) (fs := [.cells]) (a := d) (x := x) ?_ ?_; subst x; rotate_left 1; clear_value x; with_reducible intro _; rotate_right 1)
        | (with_reducible refine Dev.Agree.have (cs := [0x11]) (fs := [.cells]) (a := d) (x := x.2) ?_ ?_; subst x; rotate_left 1; clear_value x; with_reducible intro _; rotate_right 1)
        | clear_value x
        | skip)
    | with_reducible exact Dev.Agree.refl
    | with_reducible assumption
    | lift_lets -underBinder
    | with_reducible apply Dev.Agree.ite
    | (with_reducible apply Dev.Agree.put; decide; decide)
    | (with_reducible apply Dev.Agree.step (Dev.setCell_frame _ _ _); decide; decide)
    | split)

theorem Dev.chooseHalf_frame (d : Dev) (c : Nat) : Dev.Agree [] [.cells] d (Dev.chooseHalf d c).2 := by
  unfold Dev.chooseHalf
  repeat' (first
    | (with_reducible intro x; first
        | (with_reducible refine Dev.Agree.have (cs := []) (fs := [.cells]) (a := d) (x := x) ?_ ?_; subst x; rotate_left 1; clear_value x; with_reducible intro _; rotate_right 1)
        | (with_reducible refine Dev.Agree.have (cs := []) (fs := [.cells]) (a := d) (x := x.2) ?_ ?_; subst x; rotate_left 1; clear_value x; with_reducible intro _; rotate_right 1)
        | clear_value x
        | skip)
    | with_reducible exact Dev.Agree.refl
    | with_reducible assumption
    | lift_lets -underBinder
    | with_reducible apply Dev.Agree.ite
    | with_reducible apply Dev.Agree.ite2
    | split
    | (with_reducible apply Dev.Agree.step (Dev.setCell_frame _ _ _); decide; decide))

theorem Dev.ringHalves_frame (d : Dev) (a : Nat) : Dev.Agree [] [.cells] d (Dev.ringHalves d a) := by
  unfold Dev.ringHalves
  repeat' (first
    | (with_reducible intro x; first
        | (with_reducible refine Dev.Agree.have (cs := []) (fs := [.cells]) (a := d) (x := x) ?_ ?_; subst x; rotate_left 1; clear_value x; with_reducible intro _; rotate_right 1)
        | (with_reducible refine Dev.Agree.have (cs := []) (fs := [.cells]) (a := d) (x := x.2) ?_ ?_; subst x; rotate_left 1; clear_value x; with_reducible intro _; rotate_right 1)
        | clear_value x
        | skip)
    | with_reducible exact Dev.Agree.refl
    | with_reducible assumption
    | lift_lets -underBinder
    | with_reducible apply Dev.Agree.ite
    | (with_reducible apply Dev.Agree.step (Dev.sendHalf_frame _ _ _ _); decide; decide)
    | (with_reducible apply Dev.Agree.step (Dev.chooseHalf_frame _ _); decide; decide)
    | with_reducible apply Dev.Agree.forN
    | split)

theorem Dev.spokeTx_frame (d : Dev) (s : Nat) (f : List Byte) : Dev.Agree [] [.spokes] d (Dev.spokeTx d s f) := by
  unfold Dev.spokeTx
  repeat' (first
    | (with_reducible intro x; first
        | (with_reducible refine Dev.Agree.have (cs := []) (fs := [.spokes]) (a := d) (x := x) ?_ ?_; subst x; rotate_left 1; clear_value x; with_reducible intro _; rotate_right 1)
        | (with_reducible refine Dev.Agree.have (cs := []) (fs := [.spokes]) (a := d) (x := x.2) ?_ ?_; subst x; rotate_left 1; clear_value x; with_reducible intro _; rotate_right 1)
        | clear_value x
        | skip)
    | with_reducible exact Dev.Agree.refl
    | with_reducible assumption
    | lift_lets -underBinder
    | with_reducible apply Dev.Agree.ite
    | (with_reducible apply Dev.Agree.step (Dev.setSpoke_frame _ _ _); decide; decide)
    | split)

theorem Dev.discSend_frame (d : Dev) (s : Nat) : Dev.Agree [] [.spokes] d (Dev.discSend d s) := by
  unfold Dev.discSend
  repeat' (first
    | (with_reducible intro x; first
        | (with_reducible refine Dev.Agree.have (cs := []) (fs := [.spokes]) (a := d) (x := x) ?_ ?_; subst x; rotate_left 1; clear_value x; with_reducible intro _; rotate_right 1)
        | (with_reducible refine Dev.Agree.have (cs := []) (fs := [.spokes]) (a := d) (x := x.2) ?_ ?_; subst x; rotate_left 1; clear_value x; with_reducible intro _; rotate_right 1)
        | clear_value x
        | skip)
    | with_reducible exact Dev.Agree.refl
    | with_reducible assumption
    | lift_lets -underBinder
    | with_reducible apply Dev.Agree.ite
    | (with_reducible apply Dev.Agree.step (Dev.spokeTx_frame _ _ _); decide; decide)
    | split)

theorem Dev.spokesSend_frame (d : Dev) : Dev.Agree [] [.spokes, .cells] d (Dev.spokesSend d) := by
  unfold Dev.spokesSend
  repeat' (first
    | (with_reducible intro x; first
        | (with_reducible refine Dev.Agree.have (cs := []) (fs := [.spokes, .cells]) (a := d) (x := x) ?_ ?_; subst x; rotate_left 1; clear_value x; with_reducible intro _; rotate_right 1)
        | (with_reducible refine Dev.Agree.have (cs := []) (fs := [.spokes, .cells]) (a := d) (x := x.2) ?_ ?_; subst x; rotate_left 1; clear_value x; with_reducible intro _; rotate_right 1)
        | clear_value x
        | skip)
    | with_reducible exact Dev.Agree.refl
    | with_reducible assumption
    | lift_lets -underBinder
    | with_reducible apply Dev.Agree.ite
    | (with_reducible apply Dev.Agree.step (Dev.ringHalves_frame _ _); decide; decide)
    | (with_reducible apply Dev.Agree.step (Dev.spokeTx_frame _ _ _); decide; decide)
    | (with_reducible apply Dev.Agree.step (Dev.discSend_frame _ _); decide; decide)
    | with_reducible apply Dev.Agree.forN
    | split)

theorem Dev.rxTiming_frame (d : Dev) (s : Nat) (f : RxFrame) : Dev.Agree [0x10, 0xC0] [.evt] d (Dev.rxTiming d s f) := by
  unfold Dev.rxTiming
  repeat' (first
    | (with_reducible intro x; first
        | (with_reducible refine Dev.Agree.have (cs := [0x10, 0xC0]) (fs := [.evt]) (a := d) (x := x) ?_ ?_; subst x; rotate_left 1; clear_value x; with_reducible intro _; rotate_right 1)
        | (with_reducible refine Dev.Agree.have (cs := [0x10, 0xC0]) (fs := [.evt]) (a := d) (x := x.2) ?_ ?_; subst x; rotate_left 1; clear_value x; with_reducible intro _; rotate_right 1)
        | clear_value x
        | skip)
    | with_reducible exact Dev.Agree.refl
    | with_reducible assumption
    | lift_lets -underBinder
    | with_reducible apply Dev.Agree.ite
    | (with_reducible apply Dev.Agree.put; decide; decide)
    | (with_reducible apply Dev.Agree.inc; decide; decide)
    | (with_reducible apply Dev.Agree.step (Dev.raise_frame _ _ _ _ _); decide; decide)
    | split)

theorem Dev.takeHalf_frame (d : Dev) (s : Nat) (a : Nat) (pos : Nat) (h : List Byte) : Dev.Agree [0x10, 0x11, 0x12, 0x60, 0x61, 0x80, 0xC0] [.evt, .mode, .caps, .trigs, .spokes, .cells, .arms, .weave] d (Dev.takeHalf d s a pos h) := by
  unfold Dev.takeHalf
  repeat' (first
    | (with_reducible intro x; first
        | (with_reducible refine Dev.Agree.have (cs := [0x10, 0x11, 0x12, 0x60, 0x61, 0x80, 0xC0]) (fs := [.evt, .mode, .caps, .trigs, .spokes, .cells, .arms, .weave]) (a := d) (x := x) ?_ ?_; subst x; rotate_left 1; clear_value x; with_reducible intro _; rotate_right 1)
        | (with_reducible refine Dev.Agree.have (cs := [0x10, 0x11, 0x12, 0x60, 0x61, 0x80, 0xC0]) (fs := [.evt, .mode, .caps, .trigs, .spokes, .cells, .arms, .weave]) (a := d) (x := x.2) ?_ ?_; subst x; rotate_left 1; clear_value x; with_reducible intro _; rotate_right 1)
        | clear_value x
        | skip)
    | with_reducible exact Dev.Agree.refl
    | with_reducible assumption
    | lift_lets -underBinder
    | with_reducible apply Dev.Agree.ite
    | (with_reducible apply Dev.Agree.inc; decide; decide)
    | (with_reducible apply Dev.Agree.step (Dev.raise_frame _ _ _ _ _); decide; decide)
    | (with_reducible apply Dev.Agree.step (Dev.setSpoke_frame _ _ _); decide; decide)
    | (with_reducible apply Dev.Agree.step (Dev.telemHalf_frame _ _ _); decide; decide)
    | (fail_if_no_progress with_reducible apply Dev.Agree.upd_weave; decide)
    | split)

theorem Dev.compareHalves_frame (d : Dev) (f : RxFrame) (a : Nat) : Dev.Agree [0x12, 0xC0] [.evt, .cells, .arms] d (Dev.compareHalves d f a) := by
  unfold Dev.compareHalves
  repeat' (first
    | (with_reducible intro x; first
        | (with_reducible refine Dev.Agree.have (cs := [0x12, 0xC0]) (fs := [.evt, .cells, .arms]) (a := d) (x := x) ?_ ?_; subst x; rotate_left 1; clear_value x; with_reducible intro _; rotate_right 1)
        | (with_reducible refine Dev.Agree.have (cs := [0x12, 0xC0]) (fs := [.evt, .cells, .arms]) (a := d) (x := x.2) ?_ ?_; subst x; rotate_left 1; clear_value x; with_reducible intro _; rotate_right 1)
        | clear_value x
        | skip)
    | with_reducible exact Dev.Agree.refl
    | with_reducible assumption
    | lift_lets -underBinder
    | with_reducible apply Dev.Agree.ite
    | (with_reducible apply Dev.Agree.putBit; decide; decide)
    | (with_reducible apply Dev.Agree.inc; decide; decide)
    | (with_reducible apply Dev.Agree.step (Dev.raise_frame _ _ _ _ _); decide; decide)
    | (with_reducible apply Dev.Agree.step (Dev.setCell_frame _ _ _); decide; decide)
    | (with_reducible apply Dev.Agree.step (Dev.setArm_frame _ _ _); decide; decide)
    | (with_reducible apply Dev.Agree.step (Dev.noteBlock_frame _ _ _); decide; decide)
    | with_reducible apply Dev.Agree.forN
    | with_reducible apply Dev.Agree.forL
    | split)

theorem Dev.rxControl_frame (d : Dev) (s : Nat) (bs : List Byte) (lineOk : Bool) : Dev.Agree [0x10, 0x11, 0x12, 0x60, 0x61, 0x80, 0xC0] [.evt, .mode, .caps, .trigs, .spokes, .cells, .arms, .weave] d (Dev.rxControl d s bs lineOk) := by
  unfold Dev.rxControl
  repeat' (first
    | (with_reducible intro x; first
        | (with_reducible refine Dev.Agree.have (cs := [0x10, 0x11, 0x12, 0x60, 0x61, 0x80, 0xC0]) (fs := [.evt, .mode, .caps, .trigs, .spokes, .cells, .arms, .weave]) (a := d) (x := x) ?_ ?_; subst x; rotate_left 1; clear_value x; with_reducible intro _; rotate_right 1)
        | (with_reducible refine Dev.Agree.have (cs := [0x10, 0x11, 0x12, 0x60, 0x61, 0x80, 0xC0]) (fs := [.evt, .mode, .caps, .trigs, .spokes, .cells, .arms, .weave]) (a := d) (x := x.2) ?_ ?_; subst x; rotate_left 1; clear_value x; with_reducible intro _; rotate_right 1)
        | clear_value x
        | skip)
    | with_reducible exact Dev.Agree.refl
    | with_reducible assumption
    | lift_lets -underBinder
    | with_reducible apply Dev.Agree.ite
    | (with_reducible apply Dev.Agree.step (Dev.setSpoke_frame _ _ _); decide; decide)
    | (with_reducible apply Dev.Agree.step (Dev.rxTiming_frame _ _ _); decide; decide)
    | (with_reducible apply Dev.Agree.step (Dev.takeHalf_frame _ _ _ _ _); decide; decide)
    | (with_reducible apply Dev.Agree.step (Dev.compareHalves_frame _ _ _); decide; decide)
    | with_reducible apply Dev.Agree.forN
    | split)

theorem Dev.enterSplit_frame (d : Dev) (s : Nat) : Dev.Agree [0x10, 0xC0] [.evt, .spokes] d (Dev.enterSplit d s) := by
  unfold Dev.enterSplit
  repeat' (first
    | (with_reducible intro x; first
        | (with_reducible refine Dev.Agree.have (cs := [0x10, 0xC0]) (fs := [.evt, .spokes]) (a := d) (x := x) ?_ ?_; subst x; rotate_left 1; clear_value x; with_reducible intro _; rotate_right 1)
        | (with_reducible refine Dev.Agree.have (cs := [0x10, 0xC0]) (fs := [.evt, .spokes]) (a := d) (x := x.2) ?_ ?_; subst x; rotate_left 1; clear_value x; with_reducible intro _; rotate_right 1)
        | clear_value x
        | skip)
    | with_reducible exact Dev.Agree.refl
    | with_reducible assumption
    | lift_lets -underBinder
    | with_reducible apply Dev.Agree.ite
    | (with_reducible apply Dev.Agree.put; decide; decide)
    | (with_reducible apply Dev.Agree.step (Dev.raise_frame _ _ _ _ _); decide; decide)
    | (with_reducible apply Dev.Agree.step (Dev.setSpoke_frame _ _ _); decide; decide)
    | split)

theorem Dev.rxReturn_frame (d : Dev) (s : Nat) (bs : List Byte) (lineOk : Bool) : Dev.Agree [0x10, 0x11, 0x12, 0x60, 0x61, 0x80, 0xC0] [.evt, .mode, .caps, .trigs, .spokes, .cells, .arms, .weave] d (Dev.rxReturn d s bs lineOk) := by
  unfold Dev.rxReturn
  repeat' (first
    | (with_reducible intro x; first
        | (with_reducible refine Dev.Agree.have (cs := [0x10, 0x11, 0x12, 0x60, 0x61, 0x80, 0xC0]) (fs := [.evt, .mode, .caps, .trigs, .spokes, .cells, .arms, .weave]) (a := d) (x := x) ?_ ?_; subst x; rotate_left 1; clear_value x; with_reducible intro _; rotate_right 1)
        | (with_reducible refine Dev.Agree.have (cs := [0x10, 0x11, 0x12, 0x60, 0x61, 0x80, 0xC0]) (fs := [.evt, .mode, .caps, .trigs, .spokes, .cells, .arms, .weave]) (a := d) (x := x.2) ?_ ?_; subst x; rotate_left 1; clear_value x; with_reducible intro _; rotate_right 1)
        | clear_value x
        | skip)
    | with_reducible exact Dev.Agree.refl
    | with_reducible assumption
    | lift_lets -underBinder
    | with_reducible apply Dev.Agree.ite
    | (with_reducible apply Dev.Agree.put; decide; decide)
    | ((with_reducible apply Dev.Agree.put); (subst_vars; decide); (subst_vars; decide))
    | (with_reducible apply Dev.Agree.step (Dev.weavePut_frame _ _ _ _ _); decide; decide)
    | (with_reducible apply Dev.Agree.step (Dev.setSpoke_frame _ _ _); decide; decide)
    | (with_reducible apply Dev.Agree.step (Dev.rxTiming_frame _ _ _); decide; decide)
    | (with_reducible apply Dev.Agree.step (Dev.takeHalf_frame _ _ _ _ _); decide; decide)
    | (with_reducible apply Dev.Agree.step (Dev.enterSplit_frame _ _); decide; decide)
    | with_reducible apply Dev.Agree.forN
    | split)

theorem Dev.telemRelay_frame (d : Dev) (s : Nat) (p : Nat) (h : List Byte) : Dev.Agree [0x10, 0x11, 0x12, 0x60, 0x61, 0x80, 0xC0] [.evt, .mode, .caps, .trigs, .spokes, .cells, .arms, .weave] d (Dev.telemRelay d s p h) := by
  unfold Dev.telemRelay
  repeat' (first
    | (with_reducible intro x; first
        | (with_reducible refine Dev.Agree.have (cs := [0x10, 0x11, 0x12, 0x60, 0x61, 0x80, 0xC0]) (fs := [.evt, .mode, .caps, .trigs, .spokes, .cells, .arms, .weave]) (a := d) (x := x) ?_ ?_; subst x; rotate_left 1; clear_value x; with_reducible intro _; rotate_right 1)
        | (with_reducible refine Dev.Agree.have (cs := [0x10, 0x11, 0x12, 0x60, 0x61, 0x80, 0xC0]) (fs := [.evt, .mode, .caps, .trigs, .spokes, .cells, .arms, .weave]) (a := d) (x := x.2) ?_ ?_; subst x; rotate_left 1; clear_value x; with_reducible intro _; rotate_right 1)
        | clear_value x
        | skip)
    | with_reducible exact Dev.Agree.refl
    | with_reducible assumption
    | lift_lets -underBinder
    | with_reducible apply Dev.Agree.ite
    | (with_reducible apply Dev.Agree.inc; decide; decide)
    | (with_reducible apply Dev.Agree.step (Dev.takeHalf_frame _ _ _ _ _); decide; decide)
    | split)

theorem Dev.receiverDead_frame (d : Dev) (s : Nat) : Dev.Agree [0x10, 0xC0] [.evt] d (Dev.receiverDead d s) := by
  unfold Dev.receiverDead
  repeat' (first
    | (with_reducible intro x; first
        | (with_reducible refine Dev.Agree.have (cs := [0x10, 0xC0]) (fs := [.evt]) (a := d) (x := x) ?_ ?_; subst x; rotate_left 1; clear_value x; with_reducible intro _; rotate_right 1)
        | (with_reducible refine Dev.Agree.have (cs := [0x10, 0xC0]) (fs := [.evt]) (a := d) (x := x.2) ?_ ?_; subst x; rotate_left 1; clear_value x; with_reducible intro _; rotate_right 1)
        | clear_value x
        | skip)
    | with_reducible exact Dev.Agree.refl
    | with_reducible assumption
    | lift_lets -underBinder
    | with_reducible apply Dev.Agree.ite
    | (with_reducible apply Dev.Agree.put; decide; decide)
    | (with_reducible apply Dev.Agree.step (Dev.raise_frame _ _ _ _ _); decide; decide)
    | split)

theorem Dev.spokeSplit_frame (d : Dev) (s : Nat) : Dev.Agree [0x10, 0xC0] [.evt, .spokes] d (Dev.spokeSplit d s) := by
  unfold Dev.spokeSplit
  repeat' (first
    | (with_reducible intro x; first
        | (with_reducible refine Dev.Agree.have (cs := [0x10, 0xC0]) (fs := [.evt, .spokes]) (a := d) (x := x) ?_ ?_; subst x; rotate_left 1; clear_value x; with_reducible intro _; rotate_right 1)
        | (with_reducible refine Dev.Agree.have (cs := [0x10, 0xC0]) (fs := [.evt, .spokes]) (a := d) (x := x.2) ?_ ?_; subst x; rotate_left 1; clear_value x; with_reducible intro _; rotate_right 1)
        | clear_value x
        | skip)
    | with_reducible exact Dev.Agree.refl
    | with_reducible assumption
    | lift_lets -underBinder
    | with_reducible apply Dev.Agree.ite
    | (with_reducible apply Dev.Agree.step (Dev.enterSplit_frame _ _); decide; decide)
    | split)

theorem Dev.spokeRejoin_frame (d : Dev) (s : Nat) : Dev.Agree [0x10, 0xC0] [.evt] d (Dev.spokeRejoin d s) := by
  unfold Dev.spokeRejoin
  repeat' (first
    | (with_reducible intro x; first
        | (with_reducible refine Dev.Agree.have (cs := [0x10, 0xC0]) (fs := [.evt]) (a := d) (x := x) ?_ ?_; subst x; rotate_left 1; clear_value x; with_reducible intro _; rotate_right 1)
        | (with_reducible refine Dev.Agree.have (cs := [0x10, 0xC0]) (fs := [.evt]) (a := d) (x := x.2) ?_ ?_; subst x; rotate_left 1; clear_value x; with_reducible intro _; rotate_right 1)
        | clear_value x
        | skip)
    | with_reducible exact Dev.Agree.refl
    | with_reducible assumption
    | lift_lets -underBinder
    | with_reducible apply Dev.Agree.ite
    | (with_reducible apply Dev.Agree.put; decide; decide)
    | (with_reducible apply Dev.Agree.step (Dev.raise_frame _ _ _ _ _); decide; decide)
    | split)

theorem Dev.ringState_frame (d : Dev) (a : Nat) (st : Nat) : Dev.Agree [0x10] [] d (Dev.ringState d a st) := by
  unfold Dev.ringState
  repeat' (first
    | (with_reducible intro x; first
        | (with_reducible refine Dev.Agree.have (cs := [0x10]) (fs := []) (a := d) (x := x) ?_ ?_; subst x; rotate_left 1; clear_value x; with_reducible intro _; rotate_right 1)
        | (with_reducible refine Dev.Agree.have (cs := [0x10]) (fs := []) (a := d) (x := x.2) ?_ ?_; subst x; rotate_left 1; clear_value x; with_reducible intro _; rotate_right 1)
        | clear_value x
        | skip)
    | with_reducible exact Dev.Agree.refl
    | with_reducible assumption
    | lift_lets -underBinder
    | with_reducible apply Dev.Agree.ite
    | (with_reducible apply Dev.Agree.put; decide; decide)
    | split)

theorem Dev.discStart_frame (d : Dev) (s : Nat) : Dev.Agree [0x10, 0xC0] [.evt, .spokes, .cells] d (Dev.discStart d s) := by
  unfold Dev.discStart
  repeat' (first
    | (with_reducible intro x; first
        | (with_reducible refine Dev.Agree.have (cs := [0x10, 0xC0]) (fs := [.evt, .spokes, .cells]) (a := d) (x := x) ?_ ?_; subst x; rotate_left 1; clear_value x; with_reducible intro _; rotate_right 1)
        | (with_reducible refine Dev.Agree.have (cs := [0x10, 0xC0]) (fs := [.evt, .spokes, .cells]) (a := d) (x := x.2) ?_ ?_; subst x; rotate_left 1; clear_value x; with_reducible intro _; rotate_right 1)
        | clear_value x
        | skip)
    | with_reducible exact Dev.Agree.refl
    | with_reducible assumption
    | lift_lets -underBinder
    | with_reducible apply Dev.Agree.ite
    | (with_reducible apply Dev.Agree.put; decide; decide)
    | (with_reducible apply Dev.Agree.step (Dev.raise_frame _ _ _ _ _); decide; decide)
    | (with_reducible apply Dev.Agree.step (Dev.setCell_frame _ _ _); decide; decide)
    | (with_reducible apply Dev.Agree.step (Dev.setSpoke_frame _ _ _); decide; decide)
    | (with_reducible apply Dev.Agree.step (Dev.ringState_frame _ _ _); decide; decide)
    | with_reducible apply Dev.Agree.forN
    | split)

theorem Dev.receiverLive_frame (d : Dev) (s : Nat) : Dev.Agree [0x10] [.spokes] d (Dev.receiverLive d s) := by
  unfold Dev.receiverLive
  repeat' (first
    | (with_reducible intro x; first
        | (with_reducible refine Dev.Agree.have (cs := [0x10]) (fs := [.spokes]) (a := d) (x := x) ?_ ?_; subst x; rotate_left 1; clear_value x; with_reducible intro _; rotate_right 1)
        | (with_reducible refine Dev.Agree.have (cs := [0x10]) (fs := [.spokes]) (a := d) (x := x.2) ?_ ?_; subst x; rotate_left 1; clear_value x; with_reducible intro _; rotate_right 1)
        | clear_value x
        | skip)
    | with_reducible exact Dev.Agree.refl
    | with_reducible assumption
    | lift_lets -underBinder
    | with_reducible apply Dev.Agree.ite
    | (with_reducible apply Dev.Agree.put; decide; decide)
    | (with_reducible apply Dev.Agree.step (Dev.setSpoke_frame _ _ _); decide; decide)
    | split)

theorem Dev.identityCheck_frame (d : Dev) (c : Nat) : Dev.Agree [0xC0] [.evt, .cells] d (Dev.identityCheck d c) := by
  unfold Dev.identityCheck
  repeat' (first
    | (with_reducible intro x; first
        | (with_reducible refine Dev.Agree.have (cs := [0xC0]) (fs := [.evt, .cells]) (a := d) (x := x) ?_ ?_; subst x; rotate_left 1; clear_value x; with_reducible intro _; rotate_right 1)
        | (with_reducible refine Dev.Agree.have (cs := [0xC0]) (fs := [.evt, .cells]) (a := d) (x := x.2) ?_ ?_; subst x; rotate_left 1; clear_value x; with_reducible intro _; rotate_right 1)
        | clear_value x
        | skip)
    | with_reducible exact Dev.Agree.refl
    | with_reducible assumption
    | lift_lets -underBinder
    | with_reducible apply Dev.Agree.ite
    | (with_reducible apply Dev.Agree.step (Dev.raise_frame _ _ _ _ _); decide; decide)
    | (with_reducible apply Dev.Agree.step (Dev.setCell_frame _ _ _); decide; decide)
    | split)

theorem Dev.takeIdentity_frame (d : Dev) (c : Nat) (h : List Byte) : Dev.Agree [0x11, 0xC0] [.evt, .cells] d (Dev.takeIdentity d c h) := by
  unfold Dev.takeIdentity
  repeat' (first
    | (with_reducible intro x; first
        | (with_reducible refine Dev.Agree.have (cs := [0x11, 0xC0]) (fs := [.evt, .cells]) (a := d) (x := x) ?_ ?_; subst x; rotate_left 1; clear_value x; with_reducible intro _; rotate_right 1)
        | (with_reducible refine Dev.Agree.have (cs := [0x11, 0xC0]) (fs := [.evt, .cells]) (a := d) (x := x.2) ?_ ?_; subst x; rotate_left 1; clear_value x; with_reducible intro _; rotate_right 1)
        | clear_value x
        | skip)
    | with_reducible exact Dev.Agree.refl
    | with_reducible assumption
    | lift_lets -underBinder
    | with_reducible apply Dev.Agree.ite
    | (with_reducible apply Dev.Agree.put; decide; decide)
    | (with_reducible apply Dev.Agree.step (Dev.setCell_frame _ _ _); decide; decide)
    | (with_reducible apply Dev.Agree.step (Dev.identityCheck_frame _ _); decide; decide)
    | split)

theorem Dev.rxDiscover_frame (d : Dev) (s : Nat) (bs : List Byte) (lineOk : Bool) : Dev.Agree [0x10, 0x11, 0xC0] [.evt, .spokes, .cells] d (Dev.rxDiscover d s bs lineOk) := by
  unfold Dev.rxDiscover
  repeat' (first
    | (with_reducible intro x; first
        | (with_reducible refine Dev.Agree.have (cs := [0x10, 0x11, 0xC0]) (fs := [.evt, .spokes, .cells]) (a := d) (x := x) ?_ ?_; subst x; rotate_left 1; clear_value x; with_reducible intro _; rotate_right 1)
        | (with_reducible refine Dev.Agree.have (cs := [0x10, 0x11, 0xC0]) (fs := [.evt, .spokes, .cells]) (a := d) (x := x.2) ?_ ?_; subst x; rotate_left 1; clear_value x; with_reducible intro _; rotate_right 1)
        | clear_value x
        | skip)
    | with_reducible exact Dev.Agree.refl
    | with_reducible assumption
    | lift_lets -underBinder
    | with_reducible apply Dev.Agree.ite
    | (with_reducible apply Dev.Agree.step (Dev.setSpoke_frame _ _ _); decide; decide)
    | (with_reducible apply Dev.Agree.step (Dev.rxTiming_frame _ _ _); decide; decide)
    | (with_reducible apply Dev.Agree.step (Dev.discStart_frame _ _); decide; decide)
    | (with_reducible apply Dev.Agree.step (Dev.takeIdentity_frame _ _ _); decide; decide)
    | with_reducible apply Dev.Agree.forN
    | split)

theorem Dev.ringReport_frame (d : Dev) (s : Nat) (count : Nat) (ids : List (List Byte)) : Dev.Agree [0x11, 0xC0] [.evt, .spokes, .cells] d (Dev.ringReport d s count ids) := by
  unfold Dev.ringReport
  repeat' (first
    | (with_reducible intro x; first
        | (with_reducible refine Dev.Agree.have (cs := [0x11, 0xC0]) (fs := [.evt, .spokes, .cells]) (a := d) (x := x) ?_ ?_; subst x; rotate_left 1; clear_value x; with_reducible intro _; rotate_right 1)
        | (with_reducible refine Dev.Agree.have (cs := [0x11, 0xC0]) (fs := [.evt, .spokes, .cells]) (a := d) (x := x.2) ?_ ?_; subst x; rotate_left 1; clear_value x; with_reducible intro _; rotate_right 1)
        | clear_value x
        | skip)
    | with_reducible exact Dev.Agree.refl
    | with_reducible assumption
    | lift_lets -underBinder
    | with_reducible apply Dev.Agree.ite
    | (with_reducible apply Dev.Agree.step (Dev.setSpoke_frame _ _ _); decide; decide)
    | (with_reducible apply Dev.Agree.step (Dev.takeIdentity_frame _ _ _); decide; decide)
    | with_reducible apply Dev.Agree.forN
    | split)

theorem Dev.rxRange_frame (d : Dev) (s : Nat) (bs : List Byte) (lineOk : Bool) (rt : Nat) : Dev.Agree [0x10, 0xC0] [.evt, .spokes] d (Dev.rxRange d s bs lineOk rt) := by
  unfold Dev.rxRange
  repeat' (first
    | (with_reducible intro x; first
        | (with_reducible refine Dev.Agree.have (cs := [0x10, 0xC0]) (fs := [.evt, .spokes]) (a := d) (x := x) ?_ ?_; subst x; rotate_left 1; clear_value x; with_reducible intro _; rotate_right 1)
        | (with_reducible refine Dev.Agree.have (cs := [0x10, 0xC0]) (fs := [.evt, .spokes]) (a := d) (x := x.2) ?_ ?_; subst x; rotate_left 1; clear_value x; with_reducible intro _; rotate_right 1)
        | clear_value x
        | skip)
    | with_reducible exact Dev.Agree.refl
    | with_reducible assumption
    | lift_lets -underBinder
    | with_reducible apply Dev.Agree.ite
    | (with_reducible apply Dev.Agree.step (Dev.setSpoke_frame _ _ _); decide; decide)
    | (with_reducible apply Dev.Agree.step (Dev.rxTiming_frame _ _ _); decide; decide)
    | split)

theorem Dev.storeRange_frame (d : Dev) (a : Nat) (x : Disc) : Dev.Agree [0x11, 0xC0] [.evt] d (Dev.storeRange d a x) := by
  unfold Dev.storeRange
  repeat' (first
    | (with_reducible intro x; first
        | (with_reducible refine Dev.Agree.have (cs := [0x11, 0xC0]) (fs := [.evt]) (a := d) (x := x) ?_ ?_; subst x; rotate_left 1; clear_value x; with_reducible intro _; rotate_right 1)
        | (with_reducible refine Dev.Agree.have (cs := [0x11, 0xC0]) (fs := [.evt]) (a := d) (x := x.2) ?_ ?_; subst x; rotate_left 1; clear_value x; with_reducible intro _; rotate_right 1)
        | clear_value x
        | skip)
    | with_reducible exact Dev.Agree.refl
    | with_reducible assumption
    | lift_lets -underBinder
    | with_reducible apply Dev.Agree.ite
    | (with_reducible apply Dev.Agree.put; decide; decide)
    | (with_reducible apply Dev.Agree.step (Dev.raise_frame _ _ _ _ _); decide; decide)
    | with_reducible apply Dev.Agree.forN
    | split)

theorem Dev.discComplete_frame (d : Dev) (a : Nat) : Dev.Agree [0x10, 0x11, 0x12, 0xC0] [.evt, .spokes, .cells] d (Dev.discComplete d a) := by
  unfold Dev.discComplete
  repeat' (first
    | (with_reducible intro x; first
        | (with_reducible refine Dev.Agree.have (cs := [0x10, 0x11, 0x12, 0xC0]) (fs := [.evt, .spokes, .cells]) (a := d) (x := x) ?_ ?_; subst x; rotate_left 1; clear_value x; with_reducible intro _; rotate_right 1)
        | (with_reducible refine Dev.Agree.have (cs := [0x10, 0x11, 0x12, 0xC0]) (fs := [.evt, .spokes, .cells]) (a := d) (x := x.2) ?_ ?_; subst x; rotate_left 1; clear_value x; with_reducible intro _; rotate_right 1)
        | clear_value x
        | skip)
    | with_reducible exact Dev.Agree.refl
    | with_reducible assumption
    | lift_lets -underBinder
    | with_reducible apply Dev.Agree.ite
    | (with_reducible apply Dev.Agree.put; decide; decide)
    | (with_reducible apply Dev.Agree.step (Dev.raise_frame _ _ _ _ _); decide; decide)
    | (with_reducible apply Dev.Agree.step (Dev.setCell_frame _ _ _); decide; decide)
    | (with_reducible apply Dev.Agree.step (Dev.setSpoke_frame _ _ _); decide; decide)
    | (with_reducible apply Dev.Agree.step (Dev.countBypassed_frame _ _); decide; decide)
    | (with_reducible apply Dev.Agree.step (Dev.ringState_frame _ _ _); decide; decide)
    | (with_reducible apply Dev.Agree.step (Dev.storeRange_frame _ _ _); decide; decide)
    | with_reducible apply Dev.Agree.forN
    | split)

theorem Dev.ringReportSend_frame (d : Dev) (s : Nat) : Dev.Agree [] [.weave] d (Dev.ringReportSend d s) := by
  unfold Dev.ringReportSend
  repeat' (first
    | (with_reducible intro x; first
        | (with_reducible refine Dev.Agree.have (cs := []) (fs := [.weave]) (a := d) (x := x) ?_ ?_; subst x; rotate_left 1; clear_value x; with_reducible intro _; rotate_right 1)
        | (with_reducible refine Dev.Agree.have (cs := []) (fs := [.weave]) (a := d) (x := x.2) ?_ ?_; subst x; rotate_left 1; clear_value x; with_reducible intro _; rotate_right 1)
        | clear_value x
        | skip)
    | with_reducible exact Dev.Agree.refl
    | with_reducible assumption
    | lift_lets -underBinder
    | with_reducible apply Dev.Agree.ite
    | (with_reducible apply Dev.Agree.step (Dev.weavePut_frame _ _ _ _ _); decide; decide)
    | split)

theorem Dev.spokeBeat_frame (d : Dev) (s : Nat) : Dev.Agree [0x10, 0xC0] [.evt, .spokes, .cells, .weave] d (Dev.spokeBeat d s) := by
  unfold Dev.spokeBeat
  repeat' (first
    | (with_reducible intro x; first
        | (with_reducible refine Dev.Agree.have (cs := [0x10, 0xC0]) (fs := [.evt, .spokes, .cells, .weave]) (a := d) (x := x) ?_ ?_; subst x; rotate_left 1; clear_value x; with_reducible intro _; rotate_right 1)
        | (with_reducible refine Dev.Agree.have (cs := [0x10, 0xC0]) (fs := [.evt, .spokes, .cells, .weave]) (a := d) (x := x.2) ?_ ?_; subst x; rotate_left 1; clear_value x; with_reducible intro _; rotate_right 1)
        | clear_value x
        | skip)
    | with_reducible exact Dev.Agree.refl
    | with_reducible assumption
    | lift_lets -underBinder
    | with_reducible apply Dev.Agree.ite
    | (with_reducible apply Dev.Agree.inc; decide; decide)
    | (with_reducible apply Dev.Agree.step (Dev.setSpoke_frame _ _ _); decide; decide)
    | (with_reducible apply Dev.Agree.step (Dev.discStart_frame _ _); decide; decide)
    | (with_reducible apply Dev.Agree.step (Dev.ringReportSend_frame _ _); decide; decide)
    | split)

theorem Dev.ringReset_frame (d : Dev) (s : Nat) : Dev.Agree [0x10] [.spokes] d (Dev.ringReset d s) := by
  unfold Dev.ringReset
  repeat' (first
    | (with_reducible intro x; first
        | (with_reducible refine Dev.Agree.have (cs := [0x10]) (fs := [.spokes]) (a := d) (x := x) ?_ ?_; subst x; rotate_left 1; clear_value x; with_reducible intro _; rotate_right 1)
        | (with_reducible refine Dev.Agree.have (cs := [0x10]) (fs := [.spokes]) (a := d) (x := x.2) ?_ ?_; subst x; rotate_left 1; clear_value x; with_reducible intro _; rotate_right 1)
        | clear_value x
        | skip)
    | with_reducible exact Dev.Agree.refl
    | with_reducible assumption
    | lift_lets -underBinder
    | with_reducible apply Dev.Agree.ite
    | (with_reducible apply Dev.Agree.put; decide; decide)
    | (with_reducible apply Dev.Agree.step (Dev.setSpoke_frame _ _ _); decide; decide)
    | (with_reducible apply Dev.Agree.step (Dev.receiverLive_frame _ _); decide; decide)
    | split)

theorem Dev.ringUnblock_frame (d : Dev) (a : Nat) (pick : Dev → Nat → Bool) : Dev.Agree [] [.cells] d (Dev.ringUnblock d a pick) := by
  unfold Dev.ringUnblock
  repeat' (first
    | (with_reducible intro x; first
        | (with_reducible refine Dev.Agree.have (cs := []) (fs := [.cells]) (a := d) (x := x) ?_ ?_; subst x; rotate_left 1; clear_value x; with_reducible intro _; rotate_right 1)
        | (with_reducible refine Dev.Agree.have (cs := []) (fs := [.cells]) (a := d) (x := x.2) ?_ ?_; subst x; rotate_left 1; clear_value x; with_reducible intro _; rotate_right 1)
        | clear_value x
        | skip)
    | with_reducible exact Dev.Agree.refl
    | with_reducible assumption
    | lift_lets -underBinder
    | with_reducible apply Dev.Agree.ite
    | (with_reducible apply Dev.Agree.step (Dev.unblockStart_frame _ _); decide; decide)
    | with_reducible apply Dev.Agree.forN
    | split)

theorem Dev.unblockAll_frame (d : Dev) : Dev.Agree [] [.cells] d (Dev.unblockAll d) := by
  unfold Dev.unblockAll
  repeat' (first
    | (with_reducible intro x; first
        | (with_reducible refine Dev.Agree.have (cs := []) (fs := [.cells]) (a := d) (x := x) ?_ ?_; subst x; rotate_left 1; clear_value x; with_reducible intro _; rotate_right 1)
        | (with_reducible refine Dev.Agree.have (cs := []) (fs := [.cells]) (a := d) (x := x.2) ?_ ?_; subst x; rotate_left 1; clear_value x; with_reducible intro _; rotate_right 1)
        | clear_value x
        | skip)
    | with_reducible exact Dev.Agree.refl
    | with_reducible assumption
    | lift_lets -underBinder
    | with_reducible apply Dev.Agree.ite
    | (with_reducible apply Dev.Agree.step (Dev.ringUnblock_frame _ _ _); decide; decide)
    | with_reducible apply Dev.Agree.forN
    | split)

theorem Dev.reroute_frame (d : Dev) : Dev.Agree [0x80, 0x81, 0xC0] [.evt, .weave] d (Dev.reroute d) := by
  unfold Dev.reroute
  repeat' (first
    | (with_reducible intro x; first
        | (with_reducible refine Dev.Agree.have (cs := [0x80, 0x81, 0xC0]) (fs := [.evt, .weave]) (a := d) (x := x) ?_ ?_; subst x; rotate_left 1; clear_value x; with_reducible intro _; rotate_right 1)
        | (with_reducible refine Dev.Agree.have (cs := [0x80, 0x81, 0xC0]) (fs := [.evt, .weave]) (a := d) (x := x.2) ?_ ?_; subst x; rotate_left 1; clear_value x; with_reducible intro _; rotate_right 1)
        | clear_value x
        | skip)
    | with_reducible exact Dev.Agree.refl
    | with_reducible assumption
    | lift_lets -underBinder
    | with_reducible apply Dev.Agree.ite
    | (with_reducible apply Dev.Agree.put; decide; decide)
    | (with_reducible apply Dev.Agree.inc; decide; decide)
    | (with_reducible apply Dev.Agree.step (Dev.raise_frame _ _ _ _ _); decide; decide)
    | with_reducible apply Dev.Agree.forN
    | with_reducible apply Dev.Agree.foldl
    | with_reducible apply Dev.Agree.foldl2
    | (fail_if_no_progress with_reducible apply Dev.Agree.upd_weave; decide)
    | split)

theorem Dev.sendLsa_frame (d : Dev) : Dev.Agree [] [.weave] d (Dev.sendLsa d) := by
  unfold Dev.sendLsa
  repeat' (first
    | (with_reducible intro x; first
        | (with_reducible refine Dev.Agree.have (cs := []) (fs := [.weave]) (a := d) (x := x) ?_ ?_; subst x; rotate_left 1; clear_value x; with_reducible intro _; rotate_right 1)
        | (with_reducible refine Dev.Agree.have (cs := []) (fs := [.weave]) (a := d) (x := x.2) ?_ ?_; subst x; rotate_left 1; clear_value x; with_reducible intro _; rotate_right 1)
        | clear_value x
        | skip)
    | with_reducible exact Dev.Agree.refl
    | with_reducible assumption
    | lift_lets -underBinder
    | with_reducible apply Dev.Agree.ite
    | (with_reducible apply Dev.Agree.step (Dev.weavePut_frame _ _ _ _ _); decide; decide)
    | split)

theorem Dev.wForward_frame (d : Dev) (h : WHdr) (kind : Nat) (body : List Byte) (port : Nat) : Dev.Agree [] [.weave] d (Dev.wForward d h kind body port) := by
  unfold Dev.wForward
  repeat' (first
    | (with_reducible intro x; first
        | (with_reducible refine Dev.Agree.have (cs := []) (fs := [.weave]) (a := d) (x := x) ?_ ?_; subst x; rotate_left 1; clear_value x; with_reducible intro _; rotate_right 1)
        | (with_reducible refine Dev.Agree.have (cs := []) (fs := [.weave]) (a := d) (x := x.2) ?_ ?_; subst x; rotate_left 1; clear_value x; with_reducible intro _; rotate_right 1)
        | clear_value x
        | skip)
    | with_reducible exact Dev.Agree.refl
    | with_reducible assumption
    | lift_lets -underBinder
    | with_reducible apply Dev.Agree.ite
    | (fail_if_no_progress with_reducible apply Dev.Agree.upd_weave; decide)
    | split)

theorem Dev.weftDown_frame (d : Dev) (p : Nat) : Dev.Agree [0x80, 0x81, 0x90, 0xC0] [.evt, .weave] d (Dev.weftDown d p) := by
  unfold Dev.weftDown
  repeat' (first
    | (with_reducible intro x; first
        | (with_reducible refine Dev.Agree.have (cs := [0x80, 0x81, 0x90, 0xC0]) (fs := [.evt, .weave]) (a := d) (x := x) ?_ ?_; subst x; rotate_left 1; clear_value x; with_reducible intro _; rotate_right 1)
        | (with_reducible refine Dev.Agree.have (cs := [0x80, 0x81, 0x90, 0xC0]) (fs := [.evt, .weave]) (a := d) (x := x.2) ?_ ?_; subst x; rotate_left 1; clear_value x; with_reducible intro _; rotate_right 1)
        | clear_value x
        | skip)
    | with_reducible exact Dev.Agree.refl
    | with_reducible assumption
    | lift_lets -underBinder
    | with_reducible apply Dev.Agree.ite
    | (with_reducible apply Dev.Agree.put; decide; decide)
    | (with_reducible apply Dev.Agree.step (Dev.raise_frame _ _ _ _ _); decide; decide)
    | (with_reducible apply Dev.Agree.step (Dev.setWport_frame _ _ _); decide; decide)
    | (with_reducible apply Dev.Agree.step (Dev.reroute_frame _); decide; decide)
    | (with_reducible apply Dev.Agree.step (Dev.sendLsa_frame _); decide; decide)
    | split)

theorem Dev.weftLock_frame (d : Dev) (p : Nat) : Dev.Agree [] [.weave] d (Dev.weftLock d p) := by
  unfold Dev.weftLock
  repeat' (first
    | (with_reducible intro x; first
        | (with_reducible refine Dev.Agree.have (cs := []) (fs := [.weave]) (a := d) (x := x) ?_ ?_; subst x; rotate_left 1; clear_value x; with_reducible intro _; rotate_right 1)
        | (with_reducible refine Dev.Agree.have (cs := []) (fs := [.weave]) (a := d) (x := x.2) ?_ ?_; subst x; rotate_left 1; clear_value x; with_reducible intro _; rotate_right 1)
        | clear_value x
        | skip)
    | with_reducible exact Dev.Agree.refl
    | with_reducible assumption
    | lift_lets -underBinder
    | with_reducible apply Dev.Agree.ite
    | (with_reducible apply Dev.Agree.step (Dev.setWport_frame _ _ _); decide; decide)
    | (with_reducible apply Dev.Agree.step (Dev.weavePut_frame _ _ _ _ _); decide; decide)
    | split)

theorem Dev.weftUp_frame (d : Dev) (p : Nat) : Dev.Agree [0x80, 0x81, 0x90, 0xC0] [.evt, .weave] d (Dev.weftUp d p) := by
  unfold Dev.weftUp
  repeat' (first
    | (with_reducible intro x; first
        | (with_reducible refine Dev.Agree.have (cs := [0x80, 0x81, 0x90, 0xC0]) (fs := [.evt, .weave]) (a := d) (x := x) ?_ ?_; subst x; rotate_left 1; clear_value x; with_reducible intro _; rotate_right 1)
        | (with_reducible refine Dev.Agree.have (cs := [0x80, 0x81, 0x90, 0xC0]) (fs := [.evt, .weave]) (a := d) (x := x.2) ?_ ?_; subst x; rotate_left 1; clear_value x; with_reducible intro _; rotate_right 1)
        | clear_value x
        | skip)
    | with_reducible exact Dev.Agree.refl
    | with_reducible assumption
    | lift_lets -underBinder
    | with_reducible apply Dev.Agree.ite
    | (with_reducible apply Dev.Agree.put; decide; decide)
    | (with_reducible apply Dev.Agree.step (Dev.raise_frame _ _ _ _ _); decide; decide)
    | (with_reducible apply Dev.Agree.step (Dev.setWport_frame _ _ _); decide; decide)
    | (with_reducible apply Dev.Agree.step (Dev.weavePut_frame _ _ _ _ _); decide; decide)
    | (with_reducible apply Dev.Agree.step (Dev.reroute_frame _); decide; decide)
    | (with_reducible apply Dev.Agree.step (Dev.sendLsa_frame _); decide; decide)
    | split)

theorem Dev.weftWaitEnd_frame (d : Dev) (p : Nat) : Dev.Agree [] [.weave] d (Dev.weftWaitEnd d p) := by
  unfold Dev.weftWaitEnd
  repeat' (first
    | (with_reducible intro x; first
        | (with_reducible refine Dev.Agree.have (cs := []) (fs := [.weave]) (a := d) (x := x) ?_ ?_; subst x; rotate_left 1; clear_value x; with_reducible intro _; rotate_right 1)
        | (with_reducible refine Dev.Agree.have (cs := []) (fs := [.weave]) (a := d) (x := x.2) ?_ ?_; subst x; rotate_left 1; clear_value x; with_reducible intro _; rotate_right 1)
        | clear_value x
        | skip)
    | with_reducible exact Dev.Agree.refl
    | with_reducible assumption
    | lift_lets -underBinder
    | with_reducible apply Dev.Agree.ite
    | (with_reducible apply Dev.Agree.step (Dev.setWport_frame _ _ _); decide; decide)
    | split)

theorem Dev.weftMissed_frame (d : Dev) (p : Nat) : Dev.Agree [0x80, 0x81, 0x90, 0xC0] [.evt, .weave] d (Dev.weftMissed d p) := by
  unfold Dev.weftMissed
  repeat' (first
    | (with_reducible intro x; first
        | (with_reducible refine Dev.Agree.have (cs := [0x80, 0x81, 0x90, 0xC0]) (fs := [.evt, .weave]) (a := d) (x := x) ?_ ?_; subst x; rotate_left 1; clear_value x; with_reducible intro _; rotate_right 1)
        | (with_reducible refine Dev.Agree.have (cs := [0x80, 0x81, 0x90, 0xC0]) (fs := [.evt, .weave]) (a := d) (x := x.2) ?_ ?_; subst x; rotate_left 1; clear_value x; with_reducible intro _; rotate_right 1)
        | clear_value x
        | skip)
    | with_reducible exact Dev.Agree.refl
    | with_reducible assumption
    | lift_lets -underBinder
    | with_reducible apply Dev.Agree.ite
    | (with_reducible apply Dev.Agree.step (Dev.weftDown_frame _ _); decide; decide)
    | split)

theorem Dev.setStake_frame (d : Dev) (s : Option Nat) (assigned : Bool) : Dev.Agree [0x80, 0x81, 0xC0] [.evt, .weave] d (Dev.setStake d s assigned) := by
  unfold Dev.setStake
  repeat' (first
    | (with_reducible intro x; first
        | (with_reducible refine Dev.Agree.have (cs := [0x80, 0x81, 0xC0]) (fs := [.evt, .weave]) (a := d) (x := x) ?_ ?_; subst x; rotate_left 1; clear_value x; with_reducible intro _; rotate_right 1)
        | (with_reducible refine Dev.Agree.have (cs := [0x80, 0x81, 0xC0]) (fs := [.evt, .weave]) (a := d) (x := x.2) ?_ ?_; subst x; rotate_left 1; clear_value x; with_reducible intro _; rotate_right 1)
        | clear_value x
        | skip)
    | with_reducible exact Dev.Agree.refl
    | with_reducible assumption
    | lift_lets -underBinder
    | with_reducible apply Dev.Agree.ite
    | (with_reducible apply Dev.Agree.put; decide; decide)
    | (with_reducible apply Dev.Agree.step (Dev.reroute_frame _); decide; decide)
    | (fail_if_no_progress with_reducible apply Dev.Agree.upd_weave; decide)
    | split)

theorem Dev.takeIdent_frame (d : Dev) (h : WHdr) (ident : W64) (strap : Nat) (stake : Nat) (partner : Nat) (peerPort : Nat) : Dev.Agree [0x80, 0x81, 0x90, 0xC0] [.evt, .weave] d (Dev.takeIdent d h ident strap stake partner peerPort) := by
  unfold Dev.takeIdent
  repeat' (first
    | (with_reducible intro x; first
        | (with_reducible refine Dev.Agree.have (cs := [0x80, 0x81, 0x90, 0xC0]) (fs := [.evt, .weave]) (a := d) (x := x) ?_ ?_; subst x; rotate_left 1; clear_value x; with_reducible intro _; rotate_right 1)
        | (with_reducible refine Dev.Agree.have (cs := [0x80, 0x81, 0x90, 0xC0]) (fs := [.evt, .weave]) (a := d) (x := x.2) ?_ ?_; subst x; rotate_left 1; clear_value x; with_reducible intro _; rotate_right 1)
        | clear_value x
        | skip)
    | with_reducible exact Dev.Agree.refl
    | with_reducible assumption
    | lift_lets -underBinder
    | with_reducible apply Dev.Agree.ite
    | (with_reducible apply Dev.Agree.put; decide; decide)
    | (with_reducible apply Dev.Agree.step (Dev.raise_frame _ _ _ _ _); decide; decide)
    | (with_reducible apply Dev.Agree.step (Dev.setWport_frame _ _ _); decide; decide)
    | (with_reducible apply Dev.Agree.step (Dev.reroute_frame _); decide; decide)
    | (with_reducible apply Dev.Agree.step (Dev.sendLsa_frame _); decide; decide)
    | (with_reducible apply Dev.Agree.step (Dev.weftUp_frame _ _); decide; decide)
    | (with_reducible apply Dev.Agree.step (Dev.setStake_frame _ _ _); decide; decide)
    | (fail_if_no_progress with_reducible apply Dev.Agree.upd_weave; decide)
    | split)

theorem Dev.takeAssign_frame (d : Dev) (pairs : List (W64 × Nat)) : Dev.Agree [] [.weave] d (Dev.takeAssign d pairs) := by
  unfold Dev.takeAssign
  repeat' (first
    | (with_reducible intro x; first
        | (with_reducible refine Dev.Agree.have (cs := []) (fs := [.weave]) (a := d) (x := x) ?_ ?_; subst x; rotate_left 1; clear_value x; with_reducible intro _; rotate_right 1)
        | (with_reducible refine Dev.Agree.have (cs := []) (fs := [.weave]) (a := d) (x := x.2) ?_ ?_; subst x; rotate_left 1; clear_value x; with_reducible intro _; rotate_right 1)
        | clear_value x
        | skip)
    | with_reducible exact Dev.Agree.refl
    | with_reducible assumption
    | lift_lets -underBinder
    | with_reducible apply Dev.Agree.ite
    | (fail_if_no_progress with_reducible apply Dev.Agree.upd_weave; decide)
    | split)

theorem Dev.takeLsa_frame (d : Dev) (src : Nat) (links : List (Nat × Nat × Nat)) : Dev.Agree [0x80, 0x81, 0xC0] [.evt, .weave] d (Dev.takeLsa d src links) := by
  unfold Dev.takeLsa
  repeat' (first
    | (with_reducible intro x; first
        | (with_reducible refine Dev.Agree.have (cs := [0x80, 0x81, 0xC0]) (fs := [.evt, .weave]) (a := d) (x := x) ?_ ?_; subst x; rotate_left 1; clear_value x; with_reducible intro _; rotate_right 1)
        | (with_reducible refine Dev.Agree.have (cs := [0x80, 0x81, 0xC0]) (fs := [.evt, .weave]) (a := d) (x := x.2) ?_ ?_; subst x; rotate_left 1; clear_value x; with_reducible intro _; rotate_right 1)
        | clear_value x
        | skip)
    | with_reducible exact Dev.Agree.refl
    | with_reducible assumption
    | lift_lets -underBinder
    | with_reducible apply Dev.Agree.ite
    | (with_reducible apply Dev.Agree.step (Dev.reroute_frame _); decide; decide)
    | (fail_if_no_progress with_reducible apply Dev.Agree.upd_weave; decide)
    | split)

theorem Dev.sendBeatPkts_frame (d : Dev) : Dev.Agree [] [.weave] d (Dev.sendBeatPkts d) := by
  unfold Dev.sendBeatPkts
  repeat' (first
    | (with_reducible intro x; first
        | (with_reducible refine Dev.Agree.have (cs := []) (fs := [.weave]) (a := d) (x := x) ?_ ?_; subst x; rotate_left 1; clear_value x; with_reducible intro _; rotate_right 1)
        | (with_reducible refine Dev.Agree.have (cs := []) (fs := [.weave]) (a := d) (x := x.2) ?_ ?_; subst x; rotate_left 1; clear_value x; with_reducible intro _; rotate_right 1)
        | clear_value x
        | skip)
    | with_reducible exact Dev.Agree.refl
    | with_reducible assumption
    | lift_lets -underBinder
    | with_reducible apply Dev.Agree.ite
    | (with_reducible apply Dev.Agree.step (Dev.weavePut_frame _ _ _ _ _); decide; decide)
    | with_reducible apply Dev.Agree.forL
    | (fail_if_no_progress with_reducible apply Dev.Agree.upd_weave; decide)
    | split)

theorem Dev.notePkt_frame (d : Dev) (s : Nat) (b : BeatPkt) (ofBeat : Bool) : Dev.Agree [0x81] [.weave] d (Dev.notePkt d s b ofBeat) := by
  unfold Dev.notePkt
  repeat' (first
    | (with_reducible intro x; first
        | (with_reducible refine Dev.Agree.have (cs := [0x81]) (fs := [.weave]) (a := d) (x := x) ?_ ?_; subst x; rotate_left 1; clear_value x; with_reducible intro _; rotate_right 1)
        | (with_reducible refine Dev.Agree.have (cs := [0x81]) (fs := [.weave]) (a := d) (x := x.2) ?_ ?_; subst x; rotate_left 1; clear_value x; with_reducible intro _; rotate_right 1)
        | clear_value x
        | skip)
    | with_reducible exact Dev.Agree.refl
    | with_reducible assumption
    | lift_lets -underBinder
    | with_reducible apply Dev.Agree.ite
    | (with_reducible apply Dev.Agree.put; decide; decide)
    | (fail_if_no_progress with_reducible apply Dev.Agree.upd_weave; decide)
    | split)

theorem Dev.planToken_frame (d : Dev) (b : Nat) (v : Bool) : Dev.Agree [] [.weave] d (Dev.planToken d b v) := by
  unfold Dev.planToken
  repeat' (first
    | (with_reducible intro x; first
        | (with_reducible refine Dev.Agree.have (cs := []) (fs := [.weave]) (a := d) (x := x) ?_ ?_; subst x; rotate_left 1; clear_value x; with_reducible intro _; rotate_right 1)
        | (with_reducible refine Dev.Agree.have (cs := []) (fs := [.weave]) (a := d) (x := x.2) ?_ ?_; subst x; rotate_left 1; clear_value x; with_reducible intro _; rotate_right 1)
        | clear_value x
        | skip)
    | with_reducible exact Dev.Agree.refl
    | with_reducible assumption
    | lift_lets -underBinder
    | with_reducible apply Dev.Agree.ite
    | (fail_if_no_progress with_reducible apply Dev.Agree.upd_weave; decide)
    | split)

theorem Dev.partnerPkt_frame (d : Dev) (b : BeatPkt) : Dev.Agree [] [.weave] d (Dev.partnerPkt d b) := by
  unfold Dev.partnerPkt
  repeat' (first
    | (with_reducible intro x; first
        | (with_reducible refine Dev.Agree.have (cs := []) (fs := [.weave]) (a := d) (x := x) ?_ ?_; subst x; rotate_left 1; clear_value x; with_reducible intro _; rotate_right 1)
        | (with_reducible refine Dev.Agree.have (cs := []) (fs := [.weave]) (a := d) (x := x.2) ?_ ?_; subst x; rotate_left 1; clear_value x; with_reducible intro _; rotate_right 1)
        | clear_value x
        | skip)
    | with_reducible exact Dev.Agree.refl
    | with_reducible assumption
    | lift_lets -underBinder
    | with_reducible apply Dev.Agree.ite
    | (with_reducible apply Dev.Agree.step (Dev.planToken_frame _ _ _); decide; decide)
    | (fail_if_no_progress with_reducible apply Dev.Agree.upd_weave; decide)
    | split)

theorem Dev.takeBeatPkt_frame (d : Dev) (h : WHdr) (b : BeatPkt) : Dev.Agree [0x80, 0x81, 0x90, 0xC0] [.evt, .weave] d (Dev.takeBeatPkt d h b) := by
  unfold Dev.takeBeatPkt
  repeat' (first
    | (with_reducible intro x; first
        | (with_reducible refine Dev.Agree.have (cs := [0x80, 0x81, 0x90, 0xC0]) (fs := [.evt, .weave]) (a := d) (x := x) ?_ ?_; subst x; rotate_left 1; clear_value x; with_reducible intro _; rotate_right 1)
        | (with_reducible refine Dev.Agree.have (cs := [0x80, 0x81, 0x90, 0xC0]) (fs := [.evt, .weave]) (a := d) (x := x.2) ?_ ?_; subst x; rotate_left 1; clear_value x; with_reducible intro _; rotate_right 1)
        | clear_value x
        | skip)
    | with_reducible exact Dev.Agree.refl
    | with_reducible assumption
    | lift_lets -underBinder
    | with_reducible apply Dev.Agree.ite
    | (with_reducible apply Dev.Agree.step (Dev.setWport_frame _ _ _); decide; decide)
    | (with_reducible apply Dev.Agree.step (Dev.weftDown_frame _ _); decide; decide)
    | (with_reducible apply Dev.Agree.step (Dev.notePkt_frame _ _ _ _); decide; decide)
    | (with_reducible apply Dev.Agree.step (Dev.partnerPkt_frame _ _); decide; decide)
    | with_reducible apply Dev.Agree.forL
    | split)

theorem Dev.sendTimes_frame (d : Dev) : Dev.Agree [] [.weave] d (Dev.sendTimes d) := by
  unfold Dev.sendTimes
  repeat' (first
    | (with_reducible intro x; first
        | (with_reducible refine Dev.Agree.have (cs := []) (fs := [.weave]) (a := d) (x := x) ?_ ?_; subst x; rotate_left 1; clear_value x; with_reducible intro _; rotate_right 1)
        | (with_reducible refine Dev.Agree.have (cs := []) (fs := [.weave]) (a := d) (x := x.2) ?_ ?_; subst x; rotate_left 1; clear_value x; with_reducible intro _; rotate_right 1)
        | clear_value x
        | skip)
    | with_reducible exact Dev.Agree.refl
    | with_reducible assumption
    | lift_lets -underBinder
    | with_reducible apply Dev.Agree.ite
    | (with_reducible apply Dev.Agree.step (Dev.weavePut_frame _ _ _ _ _); decide; decide)
    | with_reducible apply Dev.Agree.forL
    | split)

theorem Dev.takeTime_frame (d : Dev) (h : WHdr) (t1 : Nat) (t2 : Nat) (echo : Nat) : Dev.Agree [0x02, 0x22, 0x60, 0xC0, 0x200] [.now, .beatStart, .beatLen, .newGrid, .free, .evt, .caps, .isls, .sup, .weave] d (Dev.takeTime d h t1 t2 echo) := by
  unfold Dev.takeTime
  repeat' (first
    | (with_reducible intro x; first
        | (with_reducible refine Dev.Agree.have (cs := [0x02, 0x22, 0x60, 0xC0, 0x200]) (fs := [.now, .beatStart, .beatLen, .newGrid, .free, .evt, .caps, .isls, .sup, .weave]) (a := d) (x := x) ?_ ?_; subst x; rotate_left 1; clear_value x; with_reducible intro _; rotate_right 1)
        | (with_reducible refine Dev.Agree.have (cs := [0x02, 0x22, 0x60, 0xC0, 0x200]) (fs := [.now, .beatStart, .beatLen, .newGrid, .free, .evt, .caps, .isls, .sup, .weave]) (a := d) (x := x.2) ?_ ?_; subst x; rotate_left 1; clear_value x; with_reducible intro _; rotate_right 1)
        | clear_value x
        | skip)
    | with_reducible exact Dev.Agree.refl
    | with_reducible assumption
    | lift_lets -underBinder
    | with_reducible apply Dev.Agree.ite
    | (with_reducible apply Dev.Agree.step (Dev.setWport_frame _ _ _); decide; decide)
    | (with_reducible apply Dev.Agree.step (Dev.timeMeasure_frame _ _ _); decide; decide)
    | split)

theorem Dev.sendSubscribe_frame (d : Dev) : Dev.Agree [] [.weave] d (Dev.sendSubscribe d) := by
  unfold Dev.sendSubscribe
  repeat' (first
    | (with_reducible intro x; first
        | (with_reducible refine Dev.Agree.have (cs := []) (fs := [.weave]) (a := d) (x := x) ?_ ?_; subst x; rotate_left 1; clear_value x; with_reducible intro _; rotate_right 1)
        | (with_reducible refine Dev.Agree.have (cs := []) (fs := [.weave]) (a := d) (x := x.2) ?_ ?_; subst x; rotate_left 1; clear_value x; with_reducible intro _; rotate_right 1)
        | clear_value x
        | skip)
    | with_reducible exact Dev.Agree.refl
    | with_reducible assumption
    | lift_lets -underBinder
    | with_reducible apply Dev.Agree.ite
    | (with_reducible apply Dev.Agree.step (Dev.weavePut_frame _ _ _ _ _); decide; decide)
    | with_reducible apply Dev.Agree.forL
    | split)

theorem Dev.resubscribe_frame (d : Dev) : Dev.Agree [0x80] [.weave] d (Dev.resubscribe d) := by
  unfold Dev.resubscribe
  repeat' (first
    | (with_reducible intro x; first
        | (with_reducible refine Dev.Agree.have (cs := [0x80]) (fs := [.weave]) (a := d) (x := x) ?_ ?_; subst x; rotate_left 1; clear_value x; with_reducible intro _; rotate_right 1)
        | (with_reducible refine Dev.Agree.have (cs := [0x80]) (fs := [.weave]) (a := d) (x := x.2) ?_ ?_; subst x; rotate_left 1; clear_value x; with_reducible intro _; rotate_right 1)
        | clear_value x
        | skip)
    | with_reducible exact Dev.Agree.refl
    | with_reducible assumption
    | lift_lets -underBinder
    | with_reducible apply Dev.Agree.ite
    | (with_reducible apply Dev.Agree.put; decide; decide)
    | (with_reducible apply Dev.Agree.step (Dev.sendSubscribe_frame _); decide; decide)
    | (fail_if_no_progress with_reducible apply Dev.Agree.upd_weave; decide)
    | split)

theorem Dev.takeSubscribe_frame (d : Dev) (who : Nat) (pub : Nat) (sigs : List Nat) : Dev.Agree [] [.weave] d (Dev.takeSubscribe d who pub sigs) := by
  unfold Dev.takeSubscribe
  repeat' (first
    | (with_reducible intro x; first
        | (with_reducible refine Dev.Agree.have (cs := []) (fs := [.weave]) (a := d) (x := x) ?_ ?_; subst x; rotate_left 1; clear_value x; with_reducible intro _; rotate_right 1)
        | (with_reducible refine Dev.Agree.have (cs := []) (fs := [.weave]) (a := d) (x := x.2) ?_ ?_; subst x; rotate_left 1; clear_value x; with_reducible intro _; rotate_right 1)
        | clear_value x
        | skip)
    | with_reducible exact Dev.Agree.refl
    | with_reducible assumption
    | lift_lets -underBinder
    | with_reducible apply Dev.Agree.ite
    | (fail_if_no_progress with_reducible apply Dev.Agree.upd_weave; decide)
    | split)

theorem Dev.sendRecords_frame (d : Dev) (recs : List SigRec) (from' : Nat) : Dev.Agree [] [.weave] d (Dev.sendRecords d recs from') := by
  unfold Dev.sendRecords
  repeat' (first
    | (with_reducible intro x; first
        | (with_reducible refine Dev.Agree.have (cs := []) (fs := [.weave]) (a := d) (x := x) ?_ ?_; subst x; rotate_left 1; clear_value x; with_reducible intro _; rotate_right 1)
        | (with_reducible refine Dev.Agree.have (cs := []) (fs := [.weave]) (a := d) (x := x.2) ?_ ?_; subst x; rotate_left 1; clear_value x; with_reducible intro _; rotate_right 1)
        | clear_value x
        | skip)
    | with_reducible exact Dev.Agree.refl
    | with_reducible assumption
    | lift_lets -underBinder
    | with_reducible apply Dev.Agree.ite
    | (with_reducible apply Dev.Agree.step (Dev.weavePut_frame _ _ _ _ _); decide; decide)
    | with_reducible apply Dev.Agree.forL
    | split)

theorem Dev.setSig_frame (d : Dev) (k : Nat) (g : Sig) : Dev.Agree [] [.weave] d (Dev.setSig d k g) := by
  unfold Dev.setSig
  repeat' (first
    | (with_reducible intro x; first
        | (with_reducible refine Dev.Agree.have (cs := []) (fs := [.weave]) (a := d) (x := x) ?_ ?_; subst x; rotate_left 1; clear_value x; with_reducible intro _; rotate_right 1)
        | (with_reducible refine Dev.Agree.have (cs := []) (fs := [.weave]) (a := d) (x := x.2) ?_ ?_; subst x; rotate_left 1; clear_value x; with_reducible intro _; rotate_right 1)
        | clear_value x
        | skip)
    | with_reducible exact Dev.Agree.refl
    | with_reducible assumption
    | lift_lets -underBinder
    | with_reducible apply Dev.Agree.ite
    | (fail_if_no_progress with_reducible apply Dev.Agree.upd_weave; decide)
    | split)

theorem Dev.pubClear_frame (d : Dev) : Dev.Agree [] [.weave] d (Dev.pubClear d) := by
  unfold Dev.pubClear
  repeat' (first
    | (with_reducible intro x; first
        | (with_reducible refine Dev.Agree.have (cs := []) (fs := [.weave]) (a := d) (x := x) ?_ ?_; subst x; rotate_left 1; clear_value x; with_reducible intro _; rotate_right 1)
        | (with_reducible refine Dev.Agree.have (cs := []) (fs := [.weave]) (a := d) (x := x.2) ?_ ?_; subst x; rotate_left 1; clear_value x; with_reducible intro _; rotate_right 1)
        | clear_value x
        | skip)
    | with_reducible exact Dev.Agree.refl
    | with_reducible assumption
    | lift_lets -underBinder
    | with_reducible apply Dev.Agree.ite
    | (fail_if_no_progress with_reducible apply Dev.Agree.upd_weave; decide)
    | split)

theorem Dev.publish_frame (d : Dev) : Dev.Agree [] [.weave] d (Dev.publish d) := by
  unfold Dev.publish
  repeat' (first
    | (with_reducible intro x; first
        | (with_reducible refine Dev.Agree.have (cs := []) (fs := [.weave]) (a := d) (x := x) ?_ ?_; subst x; rotate_left 1; clear_value x; with_reducible intro _; rotate_right 1)
        | (with_reducible refine Dev.Agree.have (cs := []) (fs := [.weave]) (a := d) (x := x.2) ?_ ?_; subst x; rotate_left 1; clear_value x; with_reducible intro _; rotate_right 1)
        | clear_value x
        | skip)
    | with_reducible exact Dev.Agree.refl
    | with_reducible assumption
    | lift_lets -underBinder
    | with_reducible apply Dev.Agree.ite
    | (with_reducible apply Dev.Agree.step (Dev.sendRecords_frame _ _ _); decide; decide)
    | (with_reducible apply Dev.Agree.step (Dev.setSig_frame _ _ _); decide; decide)
    | (with_reducible apply Dev.Agree.step (Dev.pubClear_frame _); decide; decide)
    | with_reducible apply Dev.Agree.forL
    | split)

theorem Dev.takeSignals_frame (d : Dev) (h : WHdr) (recs : List SigRec) : Dev.Agree [] [.weave] d (Dev.takeSignals d h recs) := by
  unfold Dev.takeSignals
  repeat' (first
    | (with_reducible intro x; first
        | (with_reducible refine Dev.Agree.have (cs := []) (fs := [.weave]) (a := d) (x := x) ?_ ?_; subst x; rotate_left 1; clear_value x; with_reducible intro _; rotate_right 1)
        | (with_reducible refine Dev.Agree.have (cs := []) (fs := [.weave]) (a := d) (x := x.2) ?_ ?_; subst x; rotate_left 1; clear_value x; with_reducible intro _; rotate_right 1)
        | clear_value x
        | skip)
    | with_reducible exact Dev.Agree.refl
    | with_reducible assumption
    | lift_lets -underBinder
    | with_reducible apply Dev.Agree.ite
    | (with_reducible apply Dev.Agree.step (Dev.sendRecords_frame _ _ _); decide; decide)
    | (with_reducible apply Dev.Agree.step (Dev.setSig_frame _ _ _); decide; decide)
    | with_reducible apply Dev.Agree.forL
    | split)

theorem Dev.signalsUsed_frame (d : Dev) : Dev.Agree [] [.weave] d (Dev.signalsUsed d) := by
  unfold Dev.signalsUsed
  repeat' (first
    | (with_reducible intro x; first
        | (with_reducible refine Dev.Agree.have (cs := []) (fs := [.weave]) (a := d) (x := x) ?_ ?_; subst x; rotate_left 1; clear_value x; with_reducible intro _; rotate_right 1)
        | (with_reducible refine Dev.Agree.have (cs := []) (fs := [.weave]) (a := d) (x := x.2) ?_ ?_; subst x; rotate_left 1; clear_value x; with_reducible intro _; rotate_right 1)
        | clear_value x
        | skip)
    | with_reducible exact Dev.Agree.refl
    | with_reducible assumption
    | lift_lets -underBinder
    | with_reducible apply Dev.Agree.ite
    | (fail_if_no_progress with_reducible apply Dev.Agree.upd_weave; decide)
    | split)

theorem Dev.setPartnerI_frame (d : Dev) (j : Nat) (v : F32) : Dev.Agree [] [.arms] d (Dev.setPartnerI d j v) := by
  unfold Dev.setPartnerI
  repeat' (first
    | (with_reducible intro x; first
        | (with_reducible refine Dev.Agree.have (cs := []) (fs := [.arms]) (a := d) (x := x) ?_ ?_; subst x; rotate_left 1; clear_value x; with_reducible intro _; rotate_right 1)
        | (with_reducible refine Dev.Agree.have (cs := []) (fs := [.arms]) (a := d) (x := x.2) ?_ ?_; subst x; rotate_left 1; clear_value x; with_reducible intro _; rotate_right 1)
        | clear_value x
        | skip)
    | with_reducible exact Dev.Agree.refl
    | with_reducible assumption
    | lift_lets -underBinder
    | with_reducible apply Dev.Agree.ite
    | (with_reducible apply Dev.Agree.step (Dev.setArm_frame _ _ _); decide; decide)
    | split)

theorem Dev.takeArmCur_frame (d : Dev) (h : WHdr) (xs : List (Nat × F32)) : Dev.Agree [] [.arms] d (Dev.takeArmCur d h xs) := by
  unfold Dev.takeArmCur
  repeat' (first
    | (with_reducible intro x; first
        | (with_reducible refine Dev.Agree.have (cs := []) (fs := [.arms]) (a := d) (x := x) ?_ ?_; subst x; rotate_left 1; clear_value x; with_reducible intro _; rotate_right 1)
        | (with_reducible refine Dev.Agree.have (cs := []) (fs := [.arms]) (a := d) (x := x.2) ?_ ?_; subst x; rotate_left 1; clear_value x; with_reducible intro _; rotate_right 1)
        | clear_value x
        | skip)
    | with_reducible exact Dev.Agree.refl
    | with_reducible assumption
    | lift_lets -underBinder
    | with_reducible apply Dev.Agree.ite
    | (with_reducible apply Dev.Agree.step (Dev.setPartnerI_frame _ _ _); decide; decide)
    | with_reducible apply Dev.Agree.forL
    | split)

theorem Dev.sendArmCur_frame (d : Dev) (ctx : Bool) : Dev.Agree [] [.weave] d (Dev.sendArmCur d ctx) := by
  unfold Dev.sendArmCur
  repeat' (first
    | (with_reducible intro x; first
        | (with_reducible refine Dev.Agree.have (cs := []) (fs := [.weave]) (a := d) (x := x) ?_ ?_; subst x; rotate_left 1; clear_value x; with_reducible intro _; rotate_right 1)
        | (with_reducible refine Dev.Agree.have (cs := []) (fs := [.weave]) (a := d) (x := x.2) ?_ ?_; subst x; rotate_left 1; clear_value x; with_reducible intro _; rotate_right 1)
        | clear_value x
        | skip)
    | with_reducible exact Dev.Agree.refl
    | with_reducible assumption
    | lift_lets -underBinder
    | with_reducible apply Dev.Agree.ite
    | (with_reducible apply Dev.Agree.step (Dev.weavePut_frame _ _ _ _ _); decide; decide)
    | split)

theorem Dev.takeCtxState_frame (d : Dev) (h : WHdr) (c : Nat) (n : Nat) (xs : List F32) : Dev.Agree [] [.ctxs] d (Dev.takeCtxState d h c n xs) := by
  unfold Dev.takeCtxState
  repeat' (first
    | (with_reducible intro x; first
        | (with_reducible refine Dev.Agree.have (cs := []) (fs := [.ctxs]) (a := d) (x := x) ?_ ?_; subst x; rotate_left 1; clear_value x; with_reducible intro _; rotate_right 1)
        | (with_reducible refine Dev.Agree.have (cs := []) (fs := [.ctxs]) (a := d) (x := x.2) ?_ ?_; subst x; rotate_left 1; clear_value x; with_reducible intro _; rotate_right 1)
        | clear_value x
        | skip)
    | with_reducible exact Dev.Agree.refl
    | with_reducible assumption
    | lift_lets -underBinder
    | with_reducible apply Dev.Agree.ite
    | (with_reducible apply Dev.Agree.step (Dev.setCtx_frame _ _ _); decide; decide)
    | split)

theorem Dev.takeArmBlock_frame (d : Dev) (h : WHdr) (j : Nat) : Dev.Agree [0x12, 0xC0] [.evt, .mode, .arms, .weave] d (Dev.takeArmBlock d h j) := by
  unfold Dev.takeArmBlock
  repeat' (first
    | (with_reducible intro x; first
        | (with_reducible refine Dev.Agree.have (cs := [0x12, 0xC0]) (fs := [.evt, .mode, .arms, .weave]) (a := d) (x := x) ?_ ?_; subst x; rotate_left 1; clear_value x; with_reducible intro _; rotate_right 1)
        | (with_reducible refine Dev.Agree.have (cs := [0x12, 0xC0]) (fs := [.evt, .mode, .arms, .weave]) (a := d) (x := x.2) ?_ ?_; subst x; rotate_left 1; clear_value x; with_reducible intro _; rotate_right 1)
        | clear_value x
        | skip)
    | with_reducible exact Dev.Agree.refl
    | with_reducible assumption
    | lift_lets -underBinder
    | with_reducible apply Dev.Agree.ite
    | (with_reducible apply Dev.Agree.step (Dev.armBlock_frame _ _ _ _); decide; decide)
    | split)

theorem Dev.takeFire_frame (d : Dev) (n : Nat) (ts : Nat) (stake : Nat) : Dev.Agree [0x60, 0x61, 0xC0] [.evt, .caps, .trigs, .weave] d (Dev.takeFire d n ts stake) := by
  unfold Dev.takeFire
  repeat' (first
    | (with_reducible intro x; first
        | (with_reducible refine Dev.Agree.have (cs := [0x60, 0x61, 0xC0]) (fs := [.evt, .caps, .trigs, .weave]) (a := d) (x := x) ?_ ?_; subst x; rotate_left 1; clear_value x; with_reducible intro _; rotate_right 1)
        | (with_reducible refine Dev.Agree.have (cs := [0x60, 0x61, 0xC0]) (fs := [.evt, .caps, .trigs, .weave]) (a := d) (x := x.2) ?_ ?_; subst x; rotate_left 1; clear_value x; with_reducible intro _; rotate_right 1)
        | clear_value x
        | skip)
    | with_reducible exact Dev.Agree.refl
    | with_reducible assumption
    | lift_lets -underBinder
    | with_reducible apply Dev.Agree.ite
    | (with_reducible apply Dev.Agree.step (Dev.fireTrig_frame _ _ _ _ _); decide; decide)
    | split)

theorem Dev.takeTrigArm_frame (d : Dev) (n : Nat) (v : Nat) (beat : Nat) : Dev.Agree [] [.trigs] d (Dev.takeTrigArm d n v beat) := by
  unfold Dev.takeTrigArm
  repeat' (first
    | (with_reducible intro x; first
        | (with_reducible refine Dev.Agree.have (cs := []) (fs := [.trigs]) (a := d) (x := x) ?_ ?_; subst x; rotate_left 1; clear_value x; with_reducible intro _; rotate_right 1)
        | (with_reducible refine Dev.Agree.have (cs := []) (fs := [.trigs]) (a := d) (x := x.2) ?_ ?_; subst x; rotate_left 1; clear_value x; with_reducible intro _; rotate_right 1)
        | clear_value x
        | skip)
    | with_reducible exact Dev.Agree.refl
    | with_reducible assumption
    | lift_lets -underBinder
    | with_reducible apply Dev.Agree.ite
    | (with_reducible apply Dev.Agree.step (Dev.setTrig_frame _ _ _); decide; decide)
    | split)

theorem Dev.clashEval_frame (d : Dev) : Dev.Agree [0x22, 0xC0] [.evt, .isls] d (Dev.clashEval d) := by
  unfold Dev.clashEval
  repeat' (first
    | (with_reducible intro x; first
        | (with_reducible refine Dev.Agree.have (cs := [0x22, 0xC0]) (fs := [.evt, .isls]) (a := d) (x := x) ?_ ?_; subst x; rotate_left 1; clear_value x; with_reducible intro _; rotate_right 1)
        | (with_reducible refine Dev.Agree.have (cs := [0x22, 0xC0]) (fs := [.evt, .isls]) (a := d) (x := x.2) ?_ ?_; subst x; rotate_left 1; clear_value x; with_reducible intro _; rotate_right 1)
        | clear_value x
        | skip)
    | with_reducible exact Dev.Agree.refl
    | with_reducible assumption
    | lift_lets -underBinder
    | with_reducible apply Dev.Agree.ite
    | (with_reducible apply Dev.Agree.putBit; decide; decide)
    | (with_reducible apply Dev.Agree.step (Dev.raise_frame _ _ _ _ _); decide; decide)
    | (with_reducible apply Dev.Agree.step (Dev.setIsl_frame _ _ _); decide; decide)
    | with_reducible apply Dev.Agree.forN
    | split)

theorem Dev.takeCodes_frame (d : Dev) (src : Nat) (codes : List Nat) : Dev.Agree [0x22, 0xC0] [.evt, .isls, .weave] d (Dev.takeCodes d src codes) := by
  unfold Dev.takeCodes
  repeat' (first
    | (with_reducible intro x; first
        | (with_reducible refine Dev.Agree.have (cs := [0x22, 0xC0]) (fs := [.evt, .isls, .weave]) (a := d) (x := x) ?_ ?_; subst x; rotate_left 1; clear_value x; with_reducible intro _; rotate_right 1)
        | (with_reducible refine Dev.Agree.have (cs := [0x22, 0xC0]) (fs := [.evt, .isls, .weave]) (a := d) (x := x.2) ?_ ?_; subst x; rotate_left 1; clear_value x; with_reducible intro _; rotate_right 1)
        | clear_value x
        | skip)
    | with_reducible exact Dev.Agree.refl
    | with_reducible assumption
    | lift_lets -underBinder
    | with_reducible apply Dev.Agree.ite
    | (with_reducible apply Dev.Agree.step (Dev.clashEval_frame _); decide; decide)
    | (fail_if_no_progress with_reducible apply Dev.Agree.upd_weave; decide)
    | split)

theorem Dev.weavePeriodic_frame (d : Dev) : Dev.Agree [] [.weave] d (Dev.weavePeriodic d) := by
  unfold Dev.weavePeriodic
  repeat' (first
    | (with_reducible intro x; first
        | (with_reducible refine Dev.Agree.have (cs := []) (fs := [.weave]) (a := d) (x := x) ?_ ?_; subst x; rotate_left 1; clear_value x; with_reducible intro _; rotate_right 1)
        | (with_reducible refine Dev.Agree.have (cs := []) (fs := [.weave]) (a := d) (x := x.2) ?_ ?_; subst x; rotate_left 1; clear_value x; with_reducible intro _; rotate_right 1)
        | clear_value x
        | skip)
    | with_reducible exact Dev.Agree.refl
    | with_reducible assumption
    | lift_lets -underBinder
    | with_reducible apply Dev.Agree.ite
    | (with_reducible apply Dev.Agree.step (Dev.weavePut_frame _ _ _ _ _); decide; decide)
    | (with_reducible apply Dev.Agree.step (Dev.sendLsa_frame _); decide; decide)
    | (with_reducible apply Dev.Agree.step (Dev.takeAssign_frame _ _); decide; decide)
    | (with_reducible apply Dev.Agree.step (Dev.sendSubscribe_frame _); decide; decide)
    | (fail_if_no_progress with_reducible apply Dev.Agree.upd_weave; decide)
    | split)

theorem Dev.setToken_frame (d : Dev) (v : Bool) : Dev.Agree [0x80, 0xC0] [.evt] d (Dev.setToken d v) := by
  unfold Dev.setToken
  repeat' (first
    | (with_reducible intro x; first
        | (with_reducible refine Dev.Agree.have (cs := [0x80, 0xC0]) (fs := [.evt]) (a := d) (x := x) ?_ ?_; subst x; rotate_left 1; clear_value x; with_reducible intro _; rotate_right 1)
        | (with_reducible refine Dev.Agree.have (cs := [0x80, 0xC0]) (fs := [.evt]) (a := d) (x := x.2) ?_ ?_; subst x; rotate_left 1; clear_value x; with_reducible intro _; rotate_right 1)
        | clear_value x
        | skip)
    | with_reducible exact Dev.Agree.refl
    | with_reducible assumption
    | lift_lets -underBinder
    | with_reducible apply Dev.Agree.ite
    | (with_reducible apply Dev.Agree.put; decide; decide)
    | (with_reducible apply Dev.Agree.inc; decide; decide)
    | (with_reducible apply Dev.Agree.step (Dev.raise_frame _ _ _ _ _); decide; decide)
    | split)

theorem Dev.partnerLost_frame (d : Dev) : Dev.Agree [0x80, 0x81, 0xC0] [.evt, .weave] d (Dev.partnerLost d) := by
  unfold Dev.partnerLost
  repeat' (first
    | (with_reducible intro x; first
        | (with_reducible refine Dev.Agree.have (cs := [0x80, 0x81, 0xC0]) (fs := [.evt, .weave]) (a := d) (x := x) ?_ ?_; subst x; rotate_left 1; clear_value x; with_reducible intro _; rotate_right 1)
        | (with_reducible refine Dev.Agree.have (cs := [0x80, 0x81, 0xC0]) (fs := [.evt, .weave]) (a := d) (x := x.2) ?_ ?_; subst x; rotate_left 1; clear_value x; with_reducible intro _; rotate_right 1)
        | clear_value x
        | skip)
    | with_reducible exact Dev.Agree.refl
    | with_reducible assumption
    | lift_lets -underBinder
    | with_reducible apply Dev.Agree.ite
    | (with_reducible apply Dev.Agree.put; decide; decide)
    | (with_reducible apply Dev.Agree.inc; decide; decide)
    | (with_reducible apply Dev.Agree.step (Dev.raise_frame _ _ _ _ _); decide; decide)
    | (with_reducible apply Dev.Agree.step (Dev.setToken_frame _ _); decide; decide)
    | (fail_if_no_progress with_reducible apply Dev.Agree.upd_weave; decide)
    | split)

theorem Dev.partnerAbsent_frame (d : Dev) : Dev.Agree [0x80, 0x81, 0xC0] [.evt, .weave] d (Dev.partnerAbsent d) := by
  unfold Dev.partnerAbsent
  repeat' (first
    | (with_reducible intro x; first
        | (with_reducible refine Dev.Agree.have (cs := [0x80, 0x81, 0xC0]) (fs := [.evt, .weave]) (a := d) (x := x) ?_ ?_; subst x; rotate_left 1; clear_value x; with_reducible intro _; rotate_right 1)
        | (with_reducible refine Dev.Agree.have (cs := [0x80, 0x81, 0xC0]) (fs := [.evt, .weave]) (a := d) (x := x.2) ?_ ?_; subst x; rotate_left 1; clear_value x; with_reducible intro _; rotate_right 1)
        | clear_value x
        | skip)
    | with_reducible exact Dev.Agree.refl
    | with_reducible assumption
    | lift_lets -underBinder
    | with_reducible apply Dev.Agree.ite
    | (with_reducible apply Dev.Agree.step (Dev.partnerLost_frame _); decide; decide)
    | split)

theorem Dev.duplexTimeout_frame (d : Dev) : Dev.Agree [0x80, 0xC0] [.evt] d (Dev.duplexTimeout d) := by
  unfold Dev.duplexTimeout
  repeat' (first
    | (with_reducible intro x; first
        | (with_reducible refine Dev.Agree.have (cs := [0x80, 0xC0]) (fs := [.evt]) (a := d) (x := x) ?_ ?_; subst x; rotate_left 1; clear_value x; with_reducible intro _; rotate_right 1)
        | (with_reducible refine Dev.Agree.have (cs := [0x80, 0xC0]) (fs := [.evt]) (a := d) (x := x.2) ?_ ?_; subst x; rotate_left 1; clear_value x; with_reducible intro _; rotate_right 1)
        | clear_value x
        | skip)
    | with_reducible exact Dev.Agree.refl
    | with_reducible assumption
    | lift_lets -underBinder
    | with_reducible apply Dev.Agree.ite
    | (with_reducible apply Dev.Agree.put; decide; decide)
    | (with_reducible apply Dev.Agree.step (Dev.raise_frame _ _ _ _ _); decide; decide)
    | (with_reducible apply Dev.Agree.step (Dev.setToken_frame _ _); decide; decide)
    | split)

theorem Dev.tokenGive_frame (d : Dev) : Dev.Agree [] [.weave] d (Dev.tokenGive d) := by
  unfold Dev.tokenGive
  repeat' (first
    | (with_reducible intro x; first
        | (with_reducible refine Dev.Agree.have (cs := []) (fs := [.weave]) (a := d) (x := x) ?_ ?_; subst x; rotate_left 1; clear_value x; with_reducible intro _; rotate_right 1)
        | (with_reducible refine Dev.Agree.have (cs := []) (fs := [.weave]) (a := d) (x := x.2) ?_ ?_; subst x; rotate_left 1; clear_value x; with_reducible intro _; rotate_right 1)
        | clear_value x
        | skip)
    | with_reducible exact Dev.Agree.refl
    | with_reducible assumption
    | lift_lets -underBinder
    | with_reducible apply Dev.Agree.ite
    | (fail_if_no_progress with_reducible apply Dev.Agree.upd_weave; decide)
    | split)

theorem Dev.pairForm_frame (d : Dev) : Dev.Agree [0x80] [.weave] d (Dev.pairForm d) := by
  unfold Dev.pairForm
  repeat' (first
    | (with_reducible intro x; first
        | (with_reducible refine Dev.Agree.have (cs := [0x80]) (fs := [.weave]) (a := d) (x := x) ?_ ?_; subst x; rotate_left 1; clear_value x; with_reducible intro _; rotate_right 1)
        | (with_reducible refine Dev.Agree.have (cs := [0x80]) (fs := [.weave]) (a := d) (x := x.2) ?_ ?_; subst x; rotate_left 1; clear_value x; with_reducible intro _; rotate_right 1)
        | clear_value x
        | skip)
    | with_reducible exact Dev.Agree.refl
    | with_reducible assumption
    | lift_lets -underBinder
    | with_reducible apply Dev.Agree.ite
    | (with_reducible apply Dev.Agree.put; decide; decide)
    | (fail_if_no_progress with_reducible apply Dev.Agree.upd_weave; decide)
    | split)

theorem Dev.presence_frame (d : Dev) : Dev.Agree [0x22, 0x80, 0x81, 0xC0] [.evt, .isls, .weave] d (Dev.presence d) := by
  unfold Dev.presence
  repeat' (first
    | (with_reducible intro x; first
        | (with_reducible refine Dev.Agree.have (cs := [0x22, 0x80, 0x81, 0xC0]) (fs := [.evt, .isls, .weave]) (a := d) (x := x) ?_ ?_; subst x; rotate_left 1; clear_value x; with_reducible intro _; rotate_right 1)
        | (with_reducible refine Dev.Agree.have (cs := [0x22, 0x80, 0x81, 0xC0]) (fs := [.evt, .isls, .weave]) (a := d) (x := x.2) ?_ ?_; subst x; rotate_left 1; clear_value x; with_reducible intro _; rotate_right 1)
        | clear_value x
        | skip)
    | with_reducible exact Dev.Agree.refl
    | with_reducible assumption
    | lift_lets -underBinder
    | with_reducible apply Dev.Agree.ite
    | (with_reducible apply Dev.Agree.put; decide; decide)
    | (with_reducible apply Dev.Agree.inc; decide; decide)
    | (with_reducible apply Dev.Agree.step (Dev.raise_frame _ _ _ _ _); decide; decide)
    | (with_reducible apply Dev.Agree.step (Dev.clashEval_frame _); decide; decide)
    | with_reducible apply Dev.Agree.forN
    | (fail_if_no_progress with_reducible apply Dev.Agree.upd_weave; decide)
    | split)

theorem Dev.ownStake_frame (d : Dev) : Dev.Agree [0x81] [] d (Dev.ownStake d) := by
  unfold Dev.ownStake
  repeat' (first
    | (with_reducible intro x; first
        | (with_reducible refine Dev.Agree.have (cs := [0x81]) (fs := []) (a := d) (x := x) ?_ ?_; subst x; rotate_left 1; clear_value x; with_reducible intro _; rotate_right 1)
        | (with_reducible refine Dev.Agree.have (cs := [0x81]) (fs := []) (a := d) (x := x.2) ?_ ?_; subst x; rotate_left 1; clear_value x; with_reducible intro _; rotate_right 1)
        | clear_value x
        | skip)
    | with_reducible exact Dev.Agree.refl
    | with_reducible assumption
    | lift_lets -underBinder
    | with_reducible apply Dev.Agree.ite
    | (with_reducible apply Dev.Agree.put; decide; decide)
    | split)

theorem Dev.beatDiscard_frame (d : Dev) : Dev.Agree [0x80, 0xC0] [.evt] d (Dev.beatDiscard d) := by
  unfold Dev.beatDiscard
  repeat' (first
    | (with_reducible intro x; first
        | (with_reducible refine Dev.Agree.have (cs := [0x80, 0xC0]) (fs := [.evt]) (a := d) (x := x) ?_ ?_; subst x; rotate_left 1; clear_value x; with_reducible intro _; rotate_right 1)
        | (with_reducible refine Dev.Agree.have (cs := [0x80, 0xC0]) (fs := [.evt]) (a := d) (x := x.2) ?_ ?_; subst x; rotate_left 1; clear_value x; with_reducible intro _; rotate_right 1)
        | clear_value x
        | skip)
    | with_reducible exact Dev.Agree.refl
    | with_reducible assumption
    | lift_lets -underBinder
    | with_reducible apply Dev.Agree.ite
    | (with_reducible apply Dev.Agree.inc; decide; decide)
    | (with_reducible apply Dev.Agree.step (Dev.raise_frame _ _ _ _ _); decide; decide)
    | with_reducible apply Dev.Agree.foldl
    | with_reducible apply Dev.Agree.foldl2
    | split)

theorem Dev.takeNumber_frame (d : Dev) : Dev.Agree [0x80, 0x81, 0xC0] [.evt, .weave] d (Dev.takeNumber d) := by
  unfold Dev.takeNumber
  repeat' (first
    | (with_reducible intro x; first
        | (with_reducible refine Dev.Agree.have (cs := [0x80, 0x81, 0xC0]) (fs := [.evt, .weave]) (a := d) (x := x) ?_ ?_; subst x; rotate_left 1; clear_value x; with_reducible intro _; rotate_right 1)
        | (with_reducible refine Dev.Agree.have (cs := [0x80, 0x81, 0xC0]) (fs := [.evt, .weave]) (a := d) (x := x.2) ?_ ?_; subst x; rotate_left 1; clear_value x; with_reducible intro _; rotate_right 1)
        | clear_value x
        | skip)
    | with_reducible exact Dev.Agree.refl
    | with_reducible assumption
    | lift_lets -underBinder
    | with_reducible apply Dev.Agree.ite
    | (with_reducible apply Dev.Agree.step (Dev.setStake_frame _ _ _); decide; decide)
    | (fail_if_no_progress with_reducible apply Dev.Agree.upd_weave; decide)
    | split)

theorem Dev.countMissed_frame (d : Dev) : Dev.Agree [] [.weave] d (Dev.countMissed d) := by
  unfold Dev.countMissed
  repeat' (first
    | (with_reducible intro x; first
        | (with_reducible refine Dev.Agree.have (cs := []) (fs := [.weave]) (a := d) (x := x) ?_ ?_; subst x; rotate_left 1; clear_value x; with_reducible intro _; rotate_right 1)
        | (with_reducible refine Dev.Agree.have (cs := []) (fs := [.weave]) (a := d) (x := x.2) ?_ ?_; subst x; rotate_left 1; clear_value x; with_reducible intro _; rotate_right 1)
        | clear_value x
        | skip)
    | with_reducible exact Dev.Agree.refl
    | with_reducible assumption
    | lift_lets -underBinder
    | with_reducible apply Dev.Agree.ite
    | (with_reducible apply Dev.Agree.step (Dev.setWport_frame _ _ _); decide; decide)
    | with_reducible apply Dev.Agree.forN
    | (fail_if_no_progress with_reducible apply Dev.Agree.upd_weave; decide)
    | split)

theorem Dev.tokenPlanned_frame (d : Dev) : Dev.Agree [0x80, 0xC0] [.evt, .weave] d (Dev.tokenPlanned d) := by
  unfold Dev.tokenPlanned
  repeat' (first
    | (with_reducible intro x; first
        | (with_reducible refine Dev.Agree.have (cs := [0x80, 0xC0]) (fs := [.evt, .weave]) (a := d) (x := x) ?_ ?_; subst x; rotate_left 1; clear_value x; with_reducible intro _; rotate_right 1)
        | (with_reducible refine Dev.Agree.have (cs := [0x80, 0xC0]) (fs := [.evt, .weave]) (a := d) (x := x.2) ?_ ?_; subst x; rotate_left 1; clear_value x; with_reducible intro _; rotate_right 1)
        | clear_value x
        | skip)
    | with_reducible exact Dev.Agree.refl
    | with_reducible assumption
    | lift_lets -underBinder
    | with_reducible apply Dev.Agree.ite
    | (with_reducible apply Dev.Agree.step (Dev.setToken_frame _ _); decide; decide)
    | (fail_if_no_progress with_reducible apply Dev.Agree.upd_weave; decide)
    | split)

theorem Dev.weaveEnd_frame (d : Dev) : Dev.Agree [0x80, 0xC0] [.evt, .weave] d (Dev.weaveEnd d) := by
  unfold Dev.weaveEnd
  repeat' (first
    | (with_reducible intro x; first
        | (with_reducible refine Dev.Agree.have (cs := [0x80, 0xC0]) (fs := [.evt, .weave]) (a := d) (x := x) ?_ ?_; subst x; rotate_left 1; clear_value x; with_reducible intro _; rotate_right 1)
        | (with_reducible refine Dev.Agree.have (cs := [0x80, 0xC0]) (fs := [.evt, .weave]) (a := d) (x := x.2) ?_ ?_; subst x; rotate_left 1; clear_value x; with_reducible intro _; rotate_right 1)
        | clear_value x
        | skip)
    | with_reducible exact Dev.Agree.refl
    | with_reducible assumption
    | lift_lets -underBinder
    | with_reducible apply Dev.Agree.ite
    | (with_reducible apply Dev.Agree.step (Dev.beatDiscard_frame _); decide; decide)
    | (with_reducible apply Dev.Agree.step (Dev.countMissed_frame _); decide; decide)
    | (fail_if_no_progress with_reducible apply Dev.Agree.upd_weave; decide)
    | split)

theorem Dev.weaveBoundary_frame (d : Dev) : Dev.Agree [0x22, 0x80, 0x81, 0xC0] [.evt, .isls, .weave] d (Dev.weaveBoundary d) := by
  unfold Dev.weaveBoundary
  repeat' (first
    | (with_reducible intro x; first
        | (with_reducible refine Dev.Agree.have (cs := [0x22, 0x80, 0x81, 0xC0]) (fs := [.evt, .isls, .weave]) (a := d) (x := x) ?_ ?_; subst x; rotate_left 1; clear_value x; with_reducible intro _; rotate_right 1)
        | (with_reducible refine Dev.Agree.have (cs := [0x22, 0x80, 0x81, 0xC0]) (fs := [.evt, .isls, .weave]) (a := d) (x := x.2) ?_ ?_; subst x; rotate_left 1; clear_value x; with_reducible intro _; rotate_right 1)
        | clear_value x
        | skip)
    | with_reducible exact Dev.Agree.refl
    | with_reducible assumption
    | lift_lets -underBinder
    | with_reducible apply Dev.Agree.ite
    | (with_reducible apply Dev.Agree.step (Dev.partnerLost_frame _); decide; decide)
    | (with_reducible apply Dev.Agree.step (Dev.pairForm_frame _); decide; decide)
    | (with_reducible apply Dev.Agree.step (Dev.presence_frame _); decide; decide)
    | (with_reducible apply Dev.Agree.step (Dev.ownStake_frame _); decide; decide)
    | (with_reducible apply Dev.Agree.step (Dev.takeNumber_frame _); decide; decide)
    | (with_reducible apply Dev.Agree.step (Dev.tokenPlanned_frame _); decide; decide)
    | (fail_if_no_progress with_reducible apply Dev.Agree.upd_weave; decide)
    | split)

theorem Dev.setGrid_frame (d : Dev) (g : Nat) (x : GridRt) : Dev.Agree [] [.grids] d (Dev.setGrid d g x) := by
  unfold Dev.setGrid
  repeat' (first
    | (with_reducible intro x; first
        | (with_reducible refine Dev.Agree.have (cs := []) (fs := [.grids]) (a := d) (x := x) ?_ ?_; subst x; rotate_left 1; clear_value x; with_reducible intro _; rotate_right 1)
        | (with_reducible refine Dev.Agree.have (cs := []) (fs := [.grids]) (a := d) (x := x.2) ?_ ?_; subst x; rotate_left 1; clear_value x; with_reducible intro _; rotate_right 1)
        | clear_value x
        | skip)
    | with_reducible exact Dev.Agree.refl
    | with_reducible assumption
    | lift_lets -underBinder
    | with_reducible apply Dev.Agree.ite
    | (fail_if_no_progress with_reducible apply Dev.Agree.upd_grids; decide)
    | split)

theorem Dev.gridRecover_frame (d : Dev) (g : Nat) : Dev.Agree [] [.grids] d (Dev.gridRecover d g) := by
  unfold Dev.gridRecover
  repeat' (first
    | (with_reducible intro x; first
        | (with_reducible refine Dev.Agree.have (cs := []) (fs := [.grids]) (a := d) (x := x) ?_ ?_; subst x; rotate_left 1; clear_value x; with_reducible intro _; rotate_right 1)
        | (with_reducible refine Dev.Agree.have (cs := []) (fs := [.grids]) (a := d) (x := x.2) ?_ ?_; subst x; rotate_left 1; clear_value x; with_reducible intro _; rotate_right 1)
        | clear_value x
        | skip)
    | with_reducible exact Dev.Agree.refl
    | with_reducible assumption
    | lift_lets -underBinder
    | with_reducible apply Dev.Agree.ite
    | (with_reducible apply Dev.Agree.step (Dev.setGrid_frame _ _ _); decide; decide)
    | split)

theorem Dev.gridClocks_frame (d : Dev) (g : Nat) : Dev.Agree [] [.grids] d (Dev.gridClocks d g) := by
  unfold Dev.gridClocks
  repeat' (first
    | (with_reducible intro x; first
        | (with_reducible refine Dev.Agree.have (cs := []) (fs := [.grids]) (a := d) (x := x) ?_ ?_; subst x; rotate_left 1; clear_value x; with_reducible intro _; rotate_right 1)
        | (with_reducible refine Dev.Agree.have (cs := []) (fs := [.grids]) (a := d) (x := x.2) ?_ ?_; subst x; rotate_left 1; clear_value x; with_reducible intro _; rotate_right 1)
        | clear_value x
        | skip)
    | with_reducible exact Dev.Agree.refl
    | with_reducible assumption
    | lift_lets -underBinder
    | with_reducible apply Dev.Agree.ite
    | (with_reducible apply Dev.Agree.step (Dev.setGrid_frame _ _ _); decide; decide)
    | (with_reducible apply Dev.Agree.step (Dev.gridRecover_frame _ _); decide; decide)
    | split)

theorem Dev.gridReport_frame (d : Dev) (g : Nat) : Dev.Agree [0x21] [] d (Dev.gridReport d g) := by
  unfold Dev.gridReport
  repeat' (first
    | (with_reducible intro x; first
        | (with_reducible refine Dev.Agree.have (cs := [0x21]) (fs := []) (a := d) (x := x) ?_ ?_; subst x; rotate_left 1; clear_value x; with_reducible intro _; rotate_right 1)
        | (with_reducible refine Dev.Agree.have (cs := [0x21]) (fs := []) (a := d) (x := x.2) ?_ ?_; subst x; rotate_left 1; clear_value x; with_reducible intro _; rotate_right 1)
        | clear_value x
        | skip)
    | with_reducible exact Dev.Agree.refl
    | with_reducible assumption
    | lift_lets -underBinder
    | with_reducible apply Dev.Agree.ite
    | (with_reducible apply Dev.Agree.putF; decide; decide)
    | split)

theorem Dev.gridMiss_frame (d : Dev) (g : Nat) : Dev.Agree [0x21, 0xC0] [.evt, .grids] d (Dev.gridMiss d g) := by
  unfold Dev.gridMiss
  repeat' (first
    | (with_reducible intro x; first
        | (with_reducible refine Dev.Agree.have (cs := [0x21, 0xC0]) (fs := [.evt, .grids]) (a := d) (x := x) ?_ ?_; subst x; rotate_left 1; clear_value x; with_reducible intro _; rotate_right 1)
        | (with_reducible refine Dev.Agree.have (cs := [0x21, 0xC0]) (fs := [.evt, .grids]) (a := d) (x := x.2) ?_ ?_; subst x; rotate_left 1; clear_value x; with_reducible intro _; rotate_right 1)
        | clear_value x
        | skip)
    | with_reducible exact Dev.Agree.refl
    | with_reducible assumption
    | lift_lets -underBinder
    | with_reducible apply Dev.Agree.ite
    | (with_reducible apply Dev.Agree.putBit; decide; decide)
    | (with_reducible apply Dev.Agree.inc; decide; decide)
    | (with_reducible apply Dev.Agree.step (Dev.raise_frame _ _ _ _ _); decide; decide)
    | (with_reducible apply Dev.Agree.step (Dev.setGrid_frame _ _ _); decide; decide)
    | (with_reducible apply Dev.Agree.step (Dev.gridRecover_frame _ _); decide; decide)
    | (with_reducible apply Dev.Agree.step (Dev.gridClocks_frame _ _); decide; decide)
    | (with_reducible apply Dev.Agree.step (Dev.gridReport_frame _ _); decide; decide)
    | split)

theorem Dev.curveCheck_frame (d : Dev) (te : F64) (c : Nat) (u : F32) (below : Bool) : Dev.Agree [0x03, 0xC0] [.evt] d (Dev.curveCheck d te c u below).2 := by
  unfold Dev.curveCheck
  repeat' (first
    | (with_reducible intro x; first
        | (with_reducible refine Dev.Agree.have (cs := [0x03, 0xC0]) (fs := [.evt]) (a := d) (x := x) ?_ ?_; subst x; rotate_left 1; clear_value x; with_reducible intro _; rotate_right 1)
        | (with_reducible refine Dev.Agree.have (cs := [0x03, 0xC0]) (fs := [.evt]) (a := d) (x := x.2) ?_ ?_; subst x; rotate_left 1; clear_value x; with_reducible intro _; rotate_right 1)
        | clear_value x
        | skip)
    | with_reducible exact Dev.Agree.refl
    | with_reducible assumption
    | lift_lets -underBinder
    | with_reducible apply Dev.Agree.ite
    | with_reducible apply Dev.Agree.ite2
    | split
    | (with_reducible apply Dev.Agree.step (Dev.curveEval_frame _ _ _); decide; decide))

theorem Dev.gridViolated_frame (d : Dev) (g : Nat) (m : GridMeas) : Dev.Agree [0x03, 0xC0] [.evt] d (Dev.gridViolated d g m).2 := by
  unfold Dev.gridViolated
  repeat' (first
    | (with_reducible intro x; first
        | (with_reducible refine Dev.Agree.have (cs := [0x03, 0xC0]) (fs := [.evt]) (a := d) (x := x) ?_ ?_; subst x; rotate_left 1; clear_value x; with_reducible intro _; rotate_right 1)
        | (with_reducible refine Dev.Agree.have (cs := [0x03, 0xC0]) (fs := [.evt]) (a := d) (x := x.2) ?_ ?_; subst x; rotate_left 1; clear_value x; with_reducible intro _; rotate_right 1)
        | clear_value x
        | skip)
    | with_reducible exact Dev.Agree.refl
    | with_reducible assumption
    | lift_lets -underBinder
    | with_reducible apply Dev.Agree.ite
    | with_reducible apply Dev.Agree.ite2
    | split
    | (with_reducible apply Dev.Agree.step (Dev.curveCheck_frame _ _ _ _ _); decide; decide))

theorem Dev.frtOnset_frame (d : Dev) (g : Nat) : Dev.Agree [0x21, 0xC0] [.evt, .grids] d (Dev.frtOnset d g) := by
  unfold Dev.frtOnset
  repeat' (first
    | (with_reducible intro x; first
        | (with_reducible refine Dev.Agree.have (cs := [0x21, 0xC0]) (fs := [.evt, .grids]) (a := d) (x := x) ?_ ?_; subst x; rotate_left 1; clear_value x; with_reducible intro _; rotate_right 1)
        | (with_reducible refine Dev.Agree.have (cs := [0x21, 0xC0]) (fs := [.evt, .grids]) (a := d) (x := x.2) ?_ ?_; subst x; rotate_left 1; clear_value x; with_reducible intro _; rotate_right 1)
        | clear_value x
        | skip)
    | with_reducible exact Dev.Agree.refl
    | with_reducible assumption
    | lift_lets -underBinder
    | with_reducible apply Dev.Agree.ite
    | (with_reducible apply Dev.Agree.put; decide; decide)
    | (with_reducible apply Dev.Agree.inc; decide; decide)
    | (with_reducible apply Dev.Agree.step (Dev.raise_frame _ _ _ _ _); decide; decide)
    | (with_reducible apply Dev.Agree.step (Dev.setGrid_frame _ _ _); decide; decide)
    | split)

theorem Dev.gridBand_frame (d : Dev) (g : Nat) (m : GridMeas) : Dev.Agree [] [.grids] d (Dev.gridBand d g m) := by
  unfold Dev.gridBand
  repeat' (first
    | (with_reducible intro x; first
        | (with_reducible refine Dev.Agree.have (cs := []) (fs := [.grids]) (a := d) (x := x) ?_ ?_; subst x; rotate_left 1; clear_value x; with_reducible intro _; rotate_right 1)
        | (with_reducible refine Dev.Agree.have (cs := []) (fs := [.grids]) (a := d) (x := x.2) ?_ ?_; subst x; rotate_left 1; clear_value x; with_reducible intro _; rotate_right 1)
        | clear_value x
        | skip)
    | with_reducible exact Dev.Agree.refl
    | with_reducible assumption
    | lift_lets -underBinder
    | with_reducible apply Dev.Agree.ite
    | (with_reducible apply Dev.Agree.step (Dev.setGrid_frame _ _ _); decide; decide)
    | split)

theorem Dev.gridFrtMove_frame (d : Dev) (g : Nat) : Dev.Agree [0x21, 0xC0] [.evt, .grids] d (Dev.gridFrtMove d g) := by
  unfold Dev.gridFrtMove
  repeat' (first
    | (with_reducible intro x; first
        | (with_reducible refine Dev.Agree.have (cs := [0x21, 0xC0]) (fs := [.evt, .grids]) (a := d) (x := x) ?_ ?_; subst x; rotate_left 1; clear_value x; with_reducible intro _; rotate_right 1)
        | (with_reducible refine Dev.Agree.have (cs := [0x21, 0xC0]) (fs := [.evt, .grids]) (a := d) (x := x.2) ?_ ?_; subst x; rotate_left 1; clear_value x; with_reducible intro _; rotate_right 1)
        | clear_value x
        | skip)
    | with_reducible exact Dev.Agree.refl
    | with_reducible assumption
    | lift_lets -underBinder
    | with_reducible apply Dev.Agree.ite
    | (with_reducible apply Dev.Agree.put; decide; decide)
    | (with_reducible apply Dev.Agree.putF; decide; decide)
    | (with_reducible apply Dev.Agree.step (Dev.setGrid_frame _ _ _); decide; decide)
    | (with_reducible apply Dev.Agree.step (Dev.frtOnset_frame _ _); decide; decide)
    | split)

theorem Dev.gridRide_frame (d : Dev) (g : Nat) (m : GridMeas) : Dev.Agree [0x03, 0x21, 0xC0] [.evt, .grids] d (Dev.gridRide d g m) := by
  unfold Dev.gridRide
  repeat' (first
    | (with_reducible intro x; first
        | (with_reducible refine Dev.Agree.have (cs := [0x03, 0x21, 0xC0]) (fs := [.evt, .grids]) (a := d) (x := x) ?_ ?_; subst x; rotate_left 1; clear_value x; with_reducible intro _; rotate_right 1)
        | (with_reducible refine Dev.Agree.have (cs := [0x03, 0x21, 0xC0]) (fs := [.evt, .grids]) (a := d) (x := x.2) ?_ ?_; subst x; rotate_left 1; clear_value x; with_reducible intro _; rotate_right 1)
        | clear_value x
        | skip)
    | with_reducible exact Dev.Agree.refl
    | with_reducible assumption
    | lift_lets -underBinder
    | with_reducible apply Dev.Agree.ite
    | (with_reducible apply Dev.Agree.put; decide; decide)
    | (with_reducible apply Dev.Agree.inc; decide; decide)
    | (with_reducible apply Dev.Agree.step (Dev.raise_frame _ _ _ _ _); decide; decide)
    | (with_reducible apply Dev.Agree.step (Dev.gridViolated_frame _ _ _); decide; decide)
    | (with_reducible apply Dev.Agree.step (Dev.gridBand_frame _ _ _); decide; decide)
    | (with_reducible apply Dev.Agree.step (Dev.gridFrtMove_frame _ _); decide; decide)
    | split)

theorem Dev.gridFollow_frame (d : Dev) (g : Nat) (m : GridMeas) (pCmd : F32) : Dev.Agree [0x03, 0xC0] [.evt] d (Dev.gridFollow d g m pCmd).2 := by
  unfold Dev.gridFollow
  repeat' (first
    | (with_reducible intro x; first
        | (with_reducible refine Dev.Agree.have (cs := [0x03, 0xC0]) (fs := [.evt]) (a := d) (x := x) ?_ ?_; subst x; rotate_left 1; clear_value x; with_reducible intro _; rotate_right 1)
        | (with_reducible refine Dev.Agree.have (cs := [0x03, 0xC0]) (fs := [.evt]) (a := d) (x := x.2) ?_ ?_; subst x; rotate_left 1; clear_value x; with_reducible intro _; rotate_right 1)
        | clear_value x
        | skip)
    | with_reducible exact Dev.Agree.refl
    | with_reducible assumption
    | lift_lets -underBinder
    | with_reducible apply Dev.Agree.ite
    | with_reducible apply Dev.Agree.ite2
    | split
    | (with_reducible apply Dev.Agree.step (Dev.curveEval_frame _ _ _); decide; decide))

theorem Dev.gridForm_frame (d : Dev) (g : Nat) (m : GridMeas) (pCmd : F32) : Dev.Agree [0x21] [.grids] d (Dev.gridForm d g m pCmd).2 := by
  unfold Dev.gridForm
  repeat' (first
    | (with_reducible intro x; first
        | (with_reducible refine Dev.Agree.have (cs := [0x21]) (fs := [.grids]) (a := d) (x := x) ?_ ?_; subst x; rotate_left 1; clear_value x; with_reducible intro _; rotate_right 1)
        | (with_reducible refine Dev.Agree.have (cs := [0x21]) (fs := [.grids]) (a := d) (x := x.2) ?_ ?_; subst x; rotate_left 1; clear_value x; with_reducible intro _; rotate_right 1)
        | clear_value x
        | skip)
    | with_reducible exact Dev.Agree.refl
    | with_reducible assumption
    | lift_lets -underBinder
    | with_reducible apply Dev.Agree.ite
    | with_reducible apply Dev.Agree.ite2
    | split
    | (with_reducible apply Dev.Agree.putF; decide; decide)
    | (with_reducible apply Dev.Agree.step (Dev.setGrid_frame _ _ _); decide; decide))

theorem Dev.writeRef_frame (d : Dev) (c k : Nat) (v : F32) : Dev.Agree [0x20] [] d (Dev.writeRef d c k v) := by
  have hg : (refPar k).small = true ∧ (refPar k).group = 0x20 := by
    have hk : k % 8 < 8 := Nat.mod_lt _ (by decide)
    simp only [refPar, Par.small, Par.group, Par.ctxRef0, Par.beatBeatCount]
    constructor
    · have : 11 + k % 8 < 65536 := by omega
      simp [this]
    · simp
  unfold Dev.writeRef
  exact Dev.Agree.ite (fun _ => Dev.Agree.putF hg.1 (by rw [hg.2]; decide) Dev.Agree.refl) (fun _ => Dev.Agree.refl)

theorem Dev.gridShow_frame (d : Dev) (g : Nat) (m : GridMeas) : Dev.Agree [0x21] [.grids] d (Dev.gridShow d g m) := by
  unfold Dev.gridShow
  repeat' (first
    | (with_reducible intro x; first
        | (with_reducible refine Dev.Agree.have (cs := [0x21]) (fs := [.grids]) (a := d) (x := x) ?_ ?_; subst x; rotate_left 1; clear_value x; with_reducible intro _; rotate_right 1)
        | (with_reducible refine Dev.Agree.have (cs := [0x21]) (fs := [.grids]) (a := d) (x := x.2) ?_ ?_; subst x; rotate_left 1; clear_value x; with_reducible intro _; rotate_right 1)
        | clear_value x
        | skip)
    | with_reducible exact Dev.Agree.refl
    | with_reducible assumption
    | lift_lets -underBinder
    | with_reducible apply Dev.Agree.ite
    | (with_reducible apply Dev.Agree.putF; decide; decide)
    | (with_reducible apply Dev.Agree.step (Dev.setGrid_frame _ _ _); decide; decide)
    | split)

theorem Dev.gridFrtEnd_frame (d : Dev) (g : Nat) : Dev.Agree [0x21, 0xC0] [.evt] d (Dev.gridFrtEnd d g) := by
  unfold Dev.gridFrtEnd
  repeat' (first
    | (with_reducible intro x; first
        | (with_reducible refine Dev.Agree.have (cs := [0x21, 0xC0]) (fs := [.evt]) (a := d) (x := x) ?_ ?_; subst x; rotate_left 1; clear_value x; with_reducible intro _; rotate_right 1)
        | (with_reducible refine Dev.Agree.have (cs := [0x21, 0xC0]) (fs := [.evt]) (a := d) (x := x.2) ?_ ?_; subst x; rotate_left 1; clear_value x; with_reducible intro _; rotate_right 1)
        | clear_value x
        | skip)
    | with_reducible exact Dev.Agree.refl
    | with_reducible assumption
    | lift_lets -underBinder
    | with_reducible apply Dev.Agree.ite
    | (with_reducible apply Dev.Agree.put; decide; decide)
    | (with_reducible apply Dev.Agree.step (Dev.raise_frame _ _ _ _ _); decide; decide)
    | split)

theorem Dev.gridCurrents_frame (d : Dev) (g : Nat) (m : GridMeas) (pCmd : F32) : Dev.Agree [0x03, 0x21, 0xC0] [.evt, .grids] d (Dev.gridCurrents d g m pCmd).2 := by
  unfold Dev.gridCurrents
  repeat' (first
    | (with_reducible intro x; first
        | (with_reducible refine Dev.Agree.have (cs := [0x03, 0x21, 0xC0]) (fs := [.evt, .grids]) (a := d) (x := x) ?_ ?_; subst x; rotate_left 1; clear_value x; with_reducible intro _; rotate_right 1)
        | (with_reducible refine Dev.Agree.have (cs := [0x03, 0x21, 0xC0]) (fs := [.evt, .grids]) (a := d) (x := x.2) ?_ ?_; subst x; rotate_left 1; clear_value x; with_reducible intro _; rotate_right 1)
        | clear_value x
        | skip)
    | with_reducible exact Dev.Agree.refl
    | with_reducible assumption
    | lift_lets -underBinder
    | with_reducible apply Dev.Agree.ite
    | with_reducible apply Dev.Agree.ite2
    | split
    | (with_reducible apply Dev.Agree.step (Dev.gridFollow_frame _ _ _ _); decide; decide)
    | (with_reducible apply Dev.Agree.step (Dev.gridForm_frame _ _ _ _); decide; decide))

theorem Dev.gridRun_frame (d : Dev) (g : Nat) (m : GridMeas) : Dev.Agree [0x03, 0x20, 0x21, 0xC0] [.evt, .grids] d (Dev.gridRun d g m).2 := by
  unfold Dev.gridRun
  repeat' (first
    | (with_reducible intro x; first
        | (with_reducible refine Dev.Agree.have (cs := [0x03, 0x20, 0x21, 0xC0]) (fs := [.evt, .grids]) (a := d) (x := x) ?_ ?_; subst x; rotate_left 1; clear_value x; with_reducible intro _; rotate_right 1)
        | (with_reducible refine Dev.Agree.have (cs := [0x03, 0x20, 0x21, 0xC0]) (fs := [.evt, .grids]) (a := d) (x := x.2) ?_ ?_; subst x; rotate_left 1; clear_value x; with_reducible intro _; rotate_right 1)
        | clear_value x
        | skip)
    | with_reducible exact Dev.Agree.refl
    | with_reducible assumption
    | lift_lets -underBinder
    | with_reducible apply Dev.Agree.ite
    | with_reducible apply Dev.Agree.ite2
    | split
    | (with_reducible apply Dev.Agree.put; decide; decide)
    | (with_reducible apply Dev.Agree.putF; decide; decide)
    | (with_reducible apply Dev.Agree.step (Dev.setGrid_frame _ _ _); decide; decide)
    | (with_reducible apply Dev.Agree.step (Dev.gridClocks_frame _ _); decide; decide)
    | (with_reducible apply Dev.Agree.step (Dev.gridReport_frame _ _); decide; decide)
    | (with_reducible apply Dev.Agree.step (Dev.gridRide_frame _ _ _); decide; decide)
    | (with_reducible apply Dev.Agree.step (Dev.writeRef_frame _ _ _ _); decide; decide)
    | (with_reducible apply Dev.Agree.step (Dev.gridShow_frame _ _ _); decide; decide)
    | (with_reducible apply Dev.Agree.step (Dev.gridFrtEnd_frame _ _); decide; decide)
    | (with_reducible apply Dev.Agree.step (Dev.gridCurrents_frame _ _ _ _); decide; decide))

theorem Dev.gridStep_frame (d : Dev) (g : Nat) : Dev.Agree [0x03, 0x20, 0x21, 0xC0] [.evt, .grids] d (Dev.gridStep d g) := by
  unfold Dev.gridStep
  repeat' (first
    | (with_reducible intro x; first
        | (with_reducible refine Dev.Agree.have (cs := [0x03, 0x20, 0x21, 0xC0]) (fs := [.evt, .grids]) (a := d) (x := x) ?_ ?_; subst x; rotate_left 1; clear_value x; with_reducible intro _; rotate_right 1)
        | (with_reducible refine Dev.Agree.have (cs := [0x03, 0x20, 0x21, 0xC0]) (fs := [.evt, .grids]) (a := d) (x := x.2) ?_ ?_; subst x; rotate_left 1; clear_value x; with_reducible intro _; rotate_right 1)
        | clear_value x
        | skip)
    | with_reducible exact Dev.Agree.refl
    | with_reducible assumption
    | lift_lets -underBinder
    | with_reducible apply Dev.Agree.ite
    | (with_reducible apply Dev.Agree.step (Dev.gridMiss_frame _ _); decide; decide)
    | (with_reducible apply Dev.Agree.step (Dev.gridRun_frame _ _ _); decide; decide)
    | split)

theorem Dev.gridStateChange_frame (d : Dev) (was : Nat) (g : Nat) : Dev.Agree [0x21] [.grids] d (Dev.gridStateChange d was g) := by
  unfold Dev.gridStateChange
  repeat' (first
    | (with_reducible intro x; first
        | (with_reducible refine Dev.Agree.have (cs := [0x21]) (fs := [.grids]) (a := d) (x := x) ?_ ?_; subst x; rotate_left 1; clear_value x; with_reducible intro _; rotate_right 1)
        | (with_reducible refine Dev.Agree.have (cs := [0x21]) (fs := [.grids]) (a := d) (x := x.2) ?_ ?_; subst x; rotate_left 1; clear_value x; with_reducible intro _; rotate_right 1)
        | clear_value x
        | skip)
    | with_reducible exact Dev.Agree.refl
    | with_reducible assumption
    | lift_lets -underBinder
    | with_reducible apply Dev.Agree.ite
    | (with_reducible apply Dev.Agree.put; decide; decide)
    | (with_reducible apply Dev.Agree.step (Dev.setGrid_frame _ _ _); decide; decide)
    | split)

theorem Dev.gridFreqInit_frame (d : Dev) (g : Nat) : Dev.Agree [0x21] [.grids] d (Dev.gridFreqInit d g) := by
  unfold Dev.gridFreqInit
  repeat' (first
    | (with_reducible intro x; first
        | (with_reducible refine Dev.Agree.have (cs := [0x21]) (fs := [.grids]) (a := d) (x := x) ?_ ?_; subst x; rotate_left 1; clear_value x; with_reducible intro _; rotate_right 1)
        | (with_reducible refine Dev.Agree.have (cs := [0x21]) (fs := [.grids]) (a := d) (x := x.2) ?_ ?_; subst x; rotate_left 1; clear_value x; with_reducible intro _; rotate_right 1)
        | clear_value x
        | skip)
    | with_reducible exact Dev.Agree.refl
    | with_reducible assumption
    | lift_lets -underBinder
    | with_reducible apply Dev.Agree.ite
    | (with_reducible apply Dev.Agree.putF; decide; decide)
    | (with_reducible apply Dev.Agree.step (Dev.setGrid_frame _ _ _); decide; decide)
    | split)

theorem Dev.gridTarget_frame (d : Dev) (p : Par) (g : Nat) (v : F32) (hp : p.small = true) (hg : List.contains [0x21] p.group = true) : Dev.Agree [0x21] [.grids] d (Dev.gridTarget d p g v).2 := by
  unfold Dev.gridTarget
  repeat' (first
    | (with_reducible intro x; first
        | (with_reducible refine Dev.Agree.have (cs := [0x21]) (fs := [.grids]) (a := d) (x := x) ?_ ?_; subst x; rotate_left 1; clear_value x; with_reducible intro _; rotate_right 1)
        | (with_reducible refine Dev.Agree.have (cs := [0x21]) (fs := [.grids]) (a := d) (x := x.2) ?_ ?_; subst x; rotate_left 1; clear_value x; with_reducible intro _; rotate_right 1)
        | clear_value x
        | skip)
    | with_reducible exact Dev.Agree.refl
    | with_reducible assumption
    | lift_lets -underBinder
    | with_reducible apply Dev.Agree.ite
    | with_reducible apply Dev.Agree.ite2
    | split
    | (with_reducible apply Dev.Agree.putF; decide; decide)
    | ((with_reducible apply Dev.Agree.putF); exact hp; exact within_has hg (by decide))
    | (with_reducible apply Dev.Agree.putBit; decide; decide)
    | ((with_reducible apply Dev.Agree.putBit); exact hp; exact within_has hg (by decide))
    | (with_reducible apply Dev.Agree.step (Dev.setGrid_frame _ _ _); decide; decide))

theorem Dev.portHold_frame (d : Dev) (p : Nat) (hold : Bool) : Dev.Agree [0x31] [.legs] d (Dev.portHold d p hold) := by
  unfold Dev.portHold
  repeat' (first
    | (with_reducible intro x; first
        | (with_reducible refine Dev.Agree.have (cs := [0x31]) (fs := [.legs]) (a := d) (x := x) ?_ ?_; subst x; rotate_left 1; clear_value x; with_reducible intro _; rotate_right 1)
        | (with_reducible refine Dev.Agree.have (cs := [0x31]) (fs := [.legs]) (a := d) (x := x.2) ?_ ?_; subst x; rotate_left 1; clear_value x; with_reducible intro _; rotate_right 1)
        | clear_value x
        | skip)
    | with_reducible exact Dev.Agree.refl
    | with_reducible assumption
    | lift_lets -underBinder
    | with_reducible apply Dev.Agree.ite
    | (with_reducible apply Dev.Agree.put; decide; decide)
    | (with_reducible apply Dev.Agree.step (Dev.setLeg_frame _ _ _); decide; decide)
    | (with_reducible apply Dev.Agree.step (Dev.legStop_frame _ _ _); decide; decide)
    | with_reducible apply Dev.Agree.forL
    | split)

theorem Dev.portOff_frame (d : Dev) (p : Nat) : Dev.Agree [0x30] [] d (Dev.portOff d p) := by
  unfold Dev.portOff
  repeat' (first
    | (with_reducible intro x; first
        | (with_reducible refine Dev.Agree.have (cs := [0x30]) (fs := []) (a := d) (x := x) ?_ ?_; subst x; rotate_left 1; clear_value x; with_reducible intro _; rotate_right 1)
        | (with_reducible refine Dev.Agree.have (cs := [0x30]) (fs := []) (a := d) (x := x.2) ?_ ?_; subst x; rotate_left 1; clear_value x; with_reducible intro _; rotate_right 1)
        | clear_value x
        | skip)
    | with_reducible exact Dev.Agree.refl
    | with_reducible assumption
    | lift_lets -underBinder
    | with_reducible apply Dev.Agree.ite
    | (with_reducible apply Dev.Agree.put; decide; decide)
    | (with_reducible apply Dev.Agree.putF; decide; decide)
    | split)

theorem Dev.portEnter_frame (d : Dev) (p : Nat) (fromOff : Bool) : Dev.Agree [0x30, 0xC0] [.evt, .ports] d (Dev.portEnter d p fromOff) := by
  unfold Dev.portEnter
  repeat' (first
    | (with_reducible intro x; first
        | (with_reducible refine Dev.Agree.have (cs := [0x30, 0xC0]) (fs := [.evt, .ports]) (a := d) (x := x) ?_ ?_; subst x; rotate_left 1; clear_value x; with_reducible intro _; rotate_right 1)
        | (with_reducible refine Dev.Agree.have (cs := [0x30, 0xC0]) (fs := [.evt, .ports]) (a := d) (x := x.2) ?_ ?_; subst x; rotate_left 1; clear_value x; with_reducible intro _; rotate_right 1)
        | clear_value x
        | skip)
    | with_reducible exact Dev.Agree.refl
    | with_reducible assumption
    | lift_lets -underBinder
    | with_reducible apply Dev.Agree.ite
    | (with_reducible apply Dev.Agree.put; decide; decide)
    | (with_reducible apply Dev.Agree.putF; decide; decide)
    | (with_reducible apply Dev.Agree.step (Dev.raise_frame _ _ _ _ _); decide; decide)
    | (with_reducible apply Dev.Agree.step (Dev.setPort_frame _ _ _); decide; decide)
    | split)

theorem Dev.portBoundary_frame (d : Dev) (p : Nat) : Dev.Agree [0x30, 0xC0] [.evt, .ports] d (Dev.portBoundary d p) := by
  unfold Dev.portBoundary
  repeat' (first
    | (with_reducible intro x; first
        | (with_reducible refine Dev.Agree.have (cs := [0x30, 0xC0]) (fs := [.evt, .ports]) (a := d) (x := x) ?_ ?_; subst x; rotate_left 1; clear_value x; with_reducible intro _; rotate_right 1)
        | (with_reducible refine Dev.Agree.have (cs := [0x30, 0xC0]) (fs := [.evt, .ports]) (a := d) (x := x.2) ?_ ?_; subst x; rotate_left 1; clear_value x; with_reducible intro _; rotate_right 1)
        | clear_value x
        | skip)
    | with_reducible exact Dev.Agree.refl
    | with_reducible assumption
    | lift_lets -underBinder
    | with_reducible apply Dev.Agree.ite
    | (with_reducible apply Dev.Agree.step (Dev.setPort_frame _ _ _); decide; decide)
    | (with_reducible apply Dev.Agree.step (Dev.burstKill_frame _ _); decide; decide)
    | (with_reducible apply Dev.Agree.step (Dev.portOff_frame _ _); decide; decide)
    | (with_reducible apply Dev.Agree.step (Dev.portEnter_frame _ _ _); decide; decide)
    | split)

theorem Dev.portRefs_frame (d : Dev) (p : Nat) (r0 : F32) (r1 : F32) : Dev.Agree [0x20] [] d (Dev.portRefs d p r0 r1) := by
  unfold Dev.portRefs
  repeat' (first
    | (with_reducible intro x; first
        | (with_reducible refine Dev.Agree.have (cs := [0x20]) (fs := []) (a := d) (x := x) ?_ ?_; subst x; rotate_left 1; clear_value x; with_reducible intro _; rotate_right 1)
        | (with_reducible refine Dev.Agree.have (cs := [0x20]) (fs := []) (a := d) (x := x.2) ?_ ?_; subst x; rotate_left 1; clear_value x; with_reducible intro _; rotate_right 1)
        | clear_value x
        | skip)
    | with_reducible exact Dev.Agree.refl
    | with_reducible assumption
    | lift_lets -underBinder
    | with_reducible apply Dev.Agree.ite
    | (with_reducible apply Dev.Agree.step (Dev.writeRef_frame _ _ _ _); decide; decide)
    | split)

theorem Dev.portFraction_frame (d : Dev) (p : Nat) : Dev.Agree [0x03, 0xC0] [.evt] d (Dev.portFraction d p).2 := by
  unfold Dev.portFraction
  repeat' (first
    | (with_reducible intro x; first
        | (with_reducible refine Dev.Agree.have (cs := [0x03, 0xC0]) (fs := [.evt]) (a := d) (x := x) ?_ ?_; subst x; rotate_left 1; clear_value x; with_reducible intro _; rotate_right 1)
        | (with_reducible refine Dev.Agree.have (cs := [0x03, 0xC0]) (fs := [.evt]) (a := d) (x := x.2) ?_ ?_; subst x; rotate_left 1; clear_value x; with_reducible intro _; rotate_right 1)
        | clear_value x
        | skip)
    | with_reducible exact Dev.Agree.refl
    | with_reducible assumption
    | lift_lets -underBinder
    | with_reducible apply Dev.Agree.ite
    | with_reducible apply Dev.Agree.ite2
    | split
    | (with_reducible apply Dev.Agree.step (Dev.curveEval_frame _ _ _); decide; decide))

theorem Dev.portOpen_frame (d : Dev) (p : Nat) : Dev.Agree [0x30] [.ports] d (Dev.portOpen d p) := by
  unfold Dev.portOpen
  repeat' (first
    | (with_reducible intro x; first
        | (with_reducible refine Dev.Agree.have (cs := [0x30]) (fs := [.ports]) (a := d) (x := x) ?_ ?_; subst x; rotate_left 1; clear_value x; with_reducible intro _; rotate_right 1)
        | (with_reducible refine Dev.Agree.have (cs := [0x30]) (fs := [.ports]) (a := d) (x := x.2) ?_ ?_; subst x; rotate_left 1; clear_value x; with_reducible intro _; rotate_right 1)
        | clear_value x
        | skip)
    | with_reducible exact Dev.Agree.refl
    | with_reducible assumption
    | lift_lets -underBinder
    | with_reducible apply Dev.Agree.ite
    | (with_reducible apply Dev.Agree.put; decide; decide)
    | (with_reducible apply Dev.Agree.step (Dev.setPort_frame _ _ _); decide; decide)
    | split)

theorem Dev.pvTrack_frame (d : Dev) (p : Nat) (pw : F32) : Dev.Agree [0x03, 0x20, 0x30, 0xC0] [.evt, .ports] d (Dev.pvTrack d p pw) := by
  unfold Dev.pvTrack
  repeat' (first
    | (with_reducible intro x; first
        | (with_reducible refine Dev.Agree.have (cs := [0x03, 0x20, 0x30, 0xC0]) (fs := [.evt, .ports]) (a := d) (x := x) ?_ ?_; subst x; rotate_left 1; clear_value x; with_reducible intro _; rotate_right 1)
        | (with_reducible refine Dev.Agree.have (cs := [0x03, 0x20, 0x30, 0xC0]) (fs := [.evt, .ports]) (a := d) (x := x.2) ?_ ?_; subst x; rotate_left 1; clear_value x; with_reducible intro _; rotate_right 1)
        | clear_value x
        | skip)
    | with_reducible exact Dev.Agree.refl
    | with_reducible assumption
    | lift_lets -underBinder
    | with_reducible apply Dev.Agree.ite
    | (with_reducible apply Dev.Agree.put; decide; decide)
    | (with_reducible apply Dev.Agree.putF; decide; decide)
    | (with_reducible apply Dev.Agree.step (Dev.setPort_frame _ _ _); decide; decide)
    | (with_reducible apply Dev.Agree.step (Dev.portRefs_frame _ _ _ _); decide; decide)
    | (with_reducible apply Dev.Agree.step (Dev.portFraction_frame _ _); decide; decide)
    | split)

theorem Dev.pvStep_frame (d : Dev) (p : Nat) (v : F32) (pw : F32) : Dev.Agree [0x03, 0x20, 0x30, 0xC0] [.evt, .ports] d (Dev.pvStep d p v pw) := by
  unfold Dev.pvStep
  repeat' (first
    | (with_reducible intro x; first
        | (with_reducible refine Dev.Agree.have (cs := [0x03, 0x20, 0x30, 0xC0]) (fs := [.evt, .ports]) (a := d) (x := x) ?_ ?_; subst x; rotate_left 1; clear_value x; with_reducible intro _; rotate_right 1)
        | (with_reducible refine Dev.Agree.have (cs := [0x03, 0x20, 0x30, 0xC0]) (fs := [.evt, .ports]) (a := d) (x := x.2) ?_ ?_; subst x; rotate_left 1; clear_value x; with_reducible intro _; rotate_right 1)
        | clear_value x
        | skip)
    | with_reducible exact Dev.Agree.refl
    | with_reducible assumption
    | lift_lets -underBinder
    | with_reducible apply Dev.Agree.ite
    | (with_reducible apply Dev.Agree.put; decide; decide)
    | (with_reducible apply Dev.Agree.putF; decide; decide)
    | (with_reducible apply Dev.Agree.step (Dev.setPort_frame _ _ _); decide; decide)
    | (with_reducible apply Dev.Agree.step (Dev.portRefs_frame _ _ _ _); decide; decide)
    | (with_reducible apply Dev.Agree.step (Dev.pvTrack_frame _ _ _); decide; decide)
    | split)

theorem Dev.burstStep_frame (d : Dev) (p : Nat) : Dev.Agree [0x30, 0xC0] [.evt, .ports] d (Dev.burstStep d p) := by
  unfold Dev.burstStep
  repeat' (first
    | (with_reducible intro x; first
        | (with_reducible refine Dev.Agree.have (cs := [0x30, 0xC0]) (fs := [.evt, .ports]) (a := d) (x := x) ?_ ?_; subst x; rotate_left 1; clear_value x; with_reducible intro _; rotate_right 1)
        | (with_reducible refine Dev.Agree.have (cs := [0x30, 0xC0]) (fs := [.evt, .ports]) (a := d) (x := x.2) ?_ ?_; subst x; rotate_left 1; clear_value x; with_reducible intro _; rotate_right 1)
        | clear_value x
        | skip)
    | with_reducible exact Dev.Agree.refl
    | with_reducible assumption
    | lift_lets -underBinder
    | with_reducible apply Dev.Agree.ite
    | (with_reducible apply Dev.Agree.put; decide; decide)
    | (with_reducible apply Dev.Agree.inc; decide; decide)
    | (with_reducible apply Dev.Agree.step (Dev.raise_frame _ _ _ _ _); decide; decide)
    | (with_reducible apply Dev.Agree.step (Dev.setPort_frame _ _ _); decide; decide)
    | split)

theorem Dev.storageStep_frame (d : Dev) (p : Nat) (v : F32) (pw : F32) : Dev.Agree [0x20, 0x30, 0xC0] [.evt, .ports] d (Dev.storageStep d p v pw) := by
  unfold Dev.storageStep
  repeat' (first
    | (with_reducible intro x; first
        | (with_reducible refine Dev.Agree.have (cs := [0x20, 0x30, 0xC0]) (fs := [.evt, .ports]) (a := d) (x := x) ?_ ?_; subst x; rotate_left 1; clear_value x; with_reducible intro _; rotate_right 1)
        | (with_reducible refine Dev.Agree.have (cs := [0x20, 0x30, 0xC0]) (fs := [.evt, .ports]) (a := d) (x := x.2) ?_ ?_; subst x; rotate_left 1; clear_value x; with_reducible intro _; rotate_right 1)
        | clear_value x
        | skip)
    | with_reducible exact Dev.Agree.refl
    | with_reducible assumption
    | lift_lets -underBinder
    | with_reducible apply Dev.Agree.ite
    | (with_reducible apply Dev.Agree.put; decide; decide)
    | (with_reducible apply Dev.Agree.putF; decide; decide)
    | (with_reducible apply Dev.Agree.step (Dev.setPort_frame _ _ _); decide; decide)
    | (with_reducible apply Dev.Agree.step (Dev.portRefs_frame _ _ _ _); decide; decide)
    | (with_reducible apply Dev.Agree.step (Dev.burstStep_frame _ _); decide; decide)
    | split)

theorem Dev.portStep_frame (d : Dev) (p : Nat) : Dev.Agree [0x03, 0x20, 0x30, 0xC0] [.evt, .ports] d (Dev.portStep d p) := by
  unfold Dev.portStep
  repeat' (first
    | (with_reducible intro x; first
        | (with_reducible refine Dev.Agree.have (cs := [0x03, 0x20, 0x30, 0xC0]) (fs := [.evt, .ports]) (a := d) (x := x) ?_ ?_; subst x; rotate_left 1; clear_value x; with_reducible intro _; rotate_right 1)
        | (with_reducible refine Dev.Agree.have (cs := [0x03, 0x20, 0x30, 0xC0]) (fs := [.evt, .ports]) (a := d) (x := x.2) ?_ ?_; subst x; rotate_left 1; clear_value x; with_reducible intro _; rotate_right 1)
        | clear_value x
        | skip)
    | with_reducible exact Dev.Agree.refl
    | with_reducible assumption
    | lift_lets -underBinder
    | with_reducible apply Dev.Agree.ite
    | (with_reducible apply Dev.Agree.putF; decide; decide)
    | (with_reducible apply Dev.Agree.putBit; decide; decide)
    | (with_reducible apply Dev.Agree.step (Dev.setPort_frame _ _ _); decide; decide)
    | (with_reducible apply Dev.Agree.step (Dev.portRefs_frame _ _ _ _); decide; decide)
    | (with_reducible apply Dev.Agree.step (Dev.portOpen_frame _ _); decide; decide)
    | (with_reducible apply Dev.Agree.step (Dev.pvStep_frame _ _ _ _); decide; decide)
    | (with_reducible apply Dev.Agree.step (Dev.storageStep_frame _ _ _ _); decide; decide)
    | split)

theorem Dev.staggerSlot_frame (d : Dev) : Dev.Agree [0x30] [.ports] d (Dev.staggerSlot d) := by
  unfold Dev.staggerSlot
  repeat' (first
    | (with_reducible intro x; first
        | (with_reducible refine Dev.Agree.have (cs := [0x30]) (fs := [.ports]) (a := d) (x := x) ?_ ?_; subst x; rotate_left 1; clear_value x; with_reducible intro _; rotate_right 1)
        | (with_reducible refine Dev.Agree.have (cs := [0x30]) (fs := [.ports]) (a := d) (x := x.2) ?_ ?_; subst x; rotate_left 1; clear_value x; with_reducible intro _; rotate_right 1)
        | clear_value x
        | skip)
    | with_reducible exact Dev.Agree.refl
    | with_reducible assumption
    | lift_lets -underBinder
    | with_reducible apply Dev.Agree.ite
    | (with_reducible apply Dev.Agree.inc; decide; decide)
    | (with_reducible apply Dev.Agree.step (Dev.setPort_frame _ _ _); decide; decide)
    | with_reducible apply Dev.Agree.forL
    | split)

theorem Dev.portDue_frame (d : Dev) (p : Nat) : Dev.Agree [] [.ports] d (Dev.portDue d p) := by
  unfold Dev.portDue
  repeat' (first
    | (with_reducible intro x; first
        | (with_reducible refine Dev.Agree.have (cs := []) (fs := [.ports]) (a := d) (x := x) ?_ ?_; subst x; rotate_left 1; clear_value x; with_reducible intro _; rotate_right 1)
        | (with_reducible refine Dev.Agree.have (cs := []) (fs := [.ports]) (a := d) (x := x.2) ?_ ?_; subst x; rotate_left 1; clear_value x; with_reducible intro _; rotate_right 1)
        | clear_value x
        | skip)
    | with_reducible exact Dev.Agree.refl
    | with_reducible assumption
    | lift_lets -underBinder
    | with_reducible apply Dev.Agree.ite
    | (with_reducible apply Dev.Agree.step (Dev.setPort_frame _ _ _); decide; decide)
    | split)

theorem Dev.openingEnd_frame (d : Dev) (p : Nat) : Dev.Agree [0x20, 0x30, 0xC0] [.evt, .ports] d (Dev.openingEnd d p) := by
  unfold Dev.openingEnd
  repeat' (first
    | (with_reducible intro x; first
        | (with_reducible refine Dev.Agree.have (cs := [0x20, 0x30, 0xC0]) (fs := [.evt, .ports]) (a := d) (x := x) ?_ ?_; subst x; rotate_left 1; clear_value x; with_reducible intro _; rotate_right 1)
        | (with_reducible refine Dev.Agree.have (cs := [0x20, 0x30, 0xC0]) (fs := [.evt, .ports]) (a := d) (x := x.2) ?_ ?_; subst x; rotate_left 1; clear_value x; with_reducible intro _; rotate_right 1)
        | clear_value x
        | skip)
    | with_reducible exact Dev.Agree.refl
    | with_reducible assumption
    | lift_lets -underBinder
    | with_reducible apply Dev.Agree.ite
    | (with_reducible apply Dev.Agree.put; decide; decide)
    | (with_reducible apply Dev.Agree.putF; decide; decide)
    | (with_reducible apply Dev.Agree.putBit; decide; decide)
    | (with_reducible apply Dev.Agree.inc; decide; decide)
    | (with_reducible apply Dev.Agree.step (Dev.raise_frame _ _ _ _ _); decide; decide)
    | (with_reducible apply Dev.Agree.step (Dev.setPort_frame _ _ _); decide; decide)
    | (with_reducible apply Dev.Agree.step (Dev.portRefs_frame _ _ _ _); decide; decide)
    | with_reducible apply Dev.Agree.foldl
    | with_reducible apply Dev.Agree.foldl2
    | split)

theorem Dev.ditherEnd_frame (d : Dev) (p : Nat) : Dev.Agree [0x30] [.ports] d (Dev.ditherEnd d p) := by
  unfold Dev.ditherEnd
  repeat' (first
    | (with_reducible intro x; first
        | (with_reducible refine Dev.Agree.have (cs := [0x30]) (fs := [.ports]) (a := d) (x := x) ?_ ?_; subst x; rotate_left 1; clear_value x; with_reducible intro _; rotate_right 1)
        | (with_reducible refine Dev.Agree.have (cs := [0x30]) (fs := [.ports]) (a := d) (x := x.2) ?_ ?_; subst x; rotate_left 1; clear_value x; with_reducible intro _; rotate_right 1)
        | clear_value x
        | skip)
    | with_reducible exact Dev.Agree.refl
    | with_reducible assumption
    | lift_lets -underBinder
    | with_reducible apply Dev.Agree.ite
    | (with_reducible apply Dev.Agree.putF; decide; decide)
    | (with_reducible apply Dev.Agree.step (Dev.setPort_frame _ _ _); decide; decide)
    | split)

theorem Dev.socSet_frame (d : Dev) (p : Nat) (v : F32) : Dev.Agree [0x30] [.ports] d (Dev.socSet d p v) := by
  unfold Dev.socSet
  repeat' (first
    | (with_reducible intro x; first
        | (with_reducible refine Dev.Agree.have (cs := [0x30]) (fs := [.ports]) (a := d) (x := x) ?_ ?_; subst x; rotate_left 1; clear_value x; with_reducible intro _; rotate_right 1)
        | (with_reducible refine Dev.Agree.have (cs := [0x30]) (fs := [.ports]) (a := d) (x := x.2) ?_ ?_; subst x; rotate_left 1; clear_value x; with_reducible intro _; rotate_right 1)
        | clear_value x
        | skip)
    | with_reducible exact Dev.Agree.refl
    | with_reducible assumption
    | lift_lets -underBinder
    | with_reducible apply Dev.Agree.ite
    | (with_reducible apply Dev.Agree.putBit; decide; decide)
    | (with_reducible apply Dev.Agree.step (Dev.setPort_frame _ _ _); decide; decide)
    | split)

theorem Dev.pSetWrite_frame (d : Dev) (p : Nat) (v : F32) : Dev.Agree [0x30] [] d (Dev.pSetWrite d p v).2 := by
  unfold Dev.pSetWrite
  repeat' (first
    | (with_reducible intro x; first
        | (with_reducible refine Dev.Agree.have (cs := [0x30]) (fs := []) (a := d) (x := x) ?_ ?_; subst x; rotate_left 1; clear_value x; with_reducible intro _; rotate_right 1)
        | (with_reducible refine Dev.Agree.have (cs := [0x30]) (fs := []) (a := d) (x := x.2) ?_ ?_; subst x; rotate_left 1; clear_value x; with_reducible intro _; rotate_right 1)
        | clear_value x
        | skip)
    | with_reducible exact Dev.Agree.refl
    | with_reducible assumption
    | lift_lets -underBinder
    | with_reducible apply Dev.Agree.ite
    | with_reducible apply Dev.Agree.ite2
    | split
    | (with_reducible apply Dev.Agree.putF; decide; decide))

theorem Dev.burstRequest_frame (d : Dev) (p : Nat) : Dev.Agree [0x30] [.ports] d (Dev.burstRequest d p).2 := by
  unfold Dev.burstRequest
  repeat' (first
    | (with_reducible intro x; first
        | (with_reducible refine Dev.Agree.have (cs := [0x30]) (fs := [.ports]) (a := d) (x := x) ?_ ?_; subst x; rotate_left 1; clear_value x; with_reducible intro _; rotate_right 1)
        | (with_reducible refine Dev.Agree.have (cs := [0x30]) (fs := [.ports]) (a := d) (x := x.2) ?_ ?_; subst x; rotate_left 1; clear_value x; with_reducible intro _; rotate_right 1)
        | clear_value x
        | skip)
    | with_reducible exact Dev.Agree.refl
    | with_reducible assumption
    | lift_lets -underBinder
    | with_reducible apply Dev.Agree.ite
    | with_reducible apply Dev.Agree.ite2
    | split
    | (with_reducible apply Dev.Agree.put; decide; decide)
    | (with_reducible apply Dev.Agree.step (Dev.setPort_frame _ _ _); decide; decide))

theorem Dev.burstEnd_frame (d : Dev) (p : Nat) : Dev.Agree [0x30] [.ports] d (Dev.burstEnd d p) := by
  unfold Dev.burstEnd
  repeat' (first
    | (with_reducible intro x; first
        | (with_reducible refine Dev.Agree.have (cs := [0x30]) (fs := [.ports]) (a := d) (x := x) ?_ ?_; subst x; rotate_left 1; clear_value x; with_reducible intro _; rotate_right 1)
        | (with_reducible refine Dev.Agree.have (cs := [0x30]) (fs := [.ports]) (a := d) (x := x.2) ?_ ?_; subst x; rotate_left 1; clear_value x; with_reducible intro _; rotate_right 1)
        | clear_value x
        | skip)
    | with_reducible exact Dev.Agree.refl
    | with_reducible assumption
    | lift_lets -underBinder
    | with_reducible apply Dev.Agree.ite
    | (with_reducible apply Dev.Agree.put; decide; decide)
    | (with_reducible apply Dev.Agree.step (Dev.setPort_frame _ _ _); decide; decide)
    | split)

theorem Dev.burstAbort_frame (d : Dev) (p : Nat) : Dev.Agree [0x30] [.ports] d (Dev.burstAbort d p).2 := by
  unfold Dev.burstAbort
  repeat' (first
    | (with_reducible intro x; first
        | (with_reducible refine Dev.Agree.have (cs := [0x30]) (fs := [.ports]) (a := d) (x := x) ?_ ?_; subst x; rotate_left 1; clear_value x; with_reducible intro _; rotate_right 1)
        | (with_reducible refine Dev.Agree.have (cs := [0x30]) (fs := [.ports]) (a := d) (x := x.2) ?_ ?_; subst x; rotate_left 1; clear_value x; with_reducible intro _; rotate_right 1)
        | clear_value x
        | skip)
    | with_reducible exact Dev.Agree.refl
    | with_reducible assumption
    | lift_lets -underBinder
    | with_reducible apply Dev.Agree.ite
    | with_reducible apply Dev.Agree.ite2
    | split
    | (with_reducible apply Dev.Agree.put; decide; decide)
    | (with_reducible apply Dev.Agree.step (Dev.setPort_frame _ _ _); decide; decide))

theorem Dev.portRelease_frame (d : Dev) (p : Nat) (from' : Nat) : Dev.Agree [0x20, 0x30, 0x31, 0xC0] [.evt, .legs, .ports] d (Dev.portRelease d p from') := by
  unfold Dev.portRelease
  repeat' (first
    | (with_reducible intro x; first
        | (with_reducible refine Dev.Agree.have (cs := [0x20, 0x30, 0x31, 0xC0]) (fs := [.evt, .legs, .ports]) (a := d) (x := x) ?_ ?_; subst x; rotate_left 1; clear_value x; with_reducible intro _; rotate_right 1)
        | (with_reducible refine Dev.Agree.have (cs := [0x20, 0x30, 0x31, 0xC0]) (fs := [.evt, .legs, .ports]) (a := d) (x := x.2) ?_ ?_; subst x; rotate_left 1; clear_value x; with_reducible intro _; rotate_right 1)
        | clear_value x
        | skip)
    | with_reducible exact Dev.Agree.refl
    | with_reducible assumption
    | lift_lets -underBinder
    | with_reducible apply Dev.Agree.ite
    | (with_reducible apply Dev.Agree.put; decide; decide)
    | (with_reducible apply Dev.Agree.step (Dev.legEnter_frame _ _ _ _); decide; decide)
    | (with_reducible apply Dev.Agree.step (Dev.portOff_frame _ _); decide; decide)
    | (with_reducible apply Dev.Agree.step (Dev.portEnter_frame _ _ _); decide; decide)
    | with_reducible apply Dev.Agree.forL
    | split)

theorem Dev.chopperStep_frame (d : Dev) (n : Nat) : Dev.Agree [0x31, 0xC0] [.evt, .legs] d (Dev.chopperStep d n) := by
  unfold Dev.chopperStep
  repeat' (first
    | (with_reducible intro x; first
        | (with_reducible refine Dev.Agree.have (cs := [0x31, 0xC0]) (fs := [.evt, .legs]) (a := d) (x := x) ?_ ?_; subst x; rotate_left 1; clear_value x; with_reducible intro _; rotate_right 1)
        | (with_reducible refine Dev.Agree.have (cs := [0x31, 0xC0]) (fs := [.evt, .legs]) (a := d) (x := x.2) ?_ ?_; subst x; rotate_left 1; clear_value x; with_reducible intro _; rotate_right 1)
        | clear_value x
        | skip)
    | with_reducible exact Dev.Agree.refl
    | with_reducible assumption
    | lift_lets -underBinder
    | with_reducible apply Dev.Agree.ite
    | (with_reducible apply Dev.Agree.put; decide; decide)
    | (with_reducible apply Dev.Agree.putF; decide; decide)
    | (with_reducible apply Dev.Agree.step (Dev.raise_frame _ _ _ _ _); decide; decide)
    | (with_reducible apply Dev.Agree.step (Dev.setLeg_frame _ _ _); decide; decide)
    | split)

theorem Dev.wake_frame (d : Dev) (c : Nat) : Dev.Agree [0xB0, 0xC0] [.evt, .pwr] d (Dev.wake d c) := by
  unfold Dev.wake
  repeat' (first
    | (with_reducible intro x; first
        | (with_reducible refine Dev.Agree.have (cs := [0xB0, 0xC0]) (fs := [.evt, .pwr]) (a := d) (x := x) ?_ ?_; subst x; rotate_left 1; clear_value x; with_reducible intro _; rotate_right 1)
        | (with_reducible refine Dev.Agree.have (cs := [0xB0, 0xC0]) (fs := [.evt, .pwr]) (a := d) (x := x.2) ?_ ?_; subst x; rotate_left 1; clear_value x; with_reducible intro _; rotate_right 1)
        | clear_value x
        | skip)
    | with_reducible exact Dev.Agree.refl
    | with_reducible assumption
    | lift_lets -underBinder
    | with_reducible apply Dev.Agree.ite
    | (with_reducible apply Dev.Agree.put; decide; decide)
    | (with_reducible apply Dev.Agree.step (Dev.raise_frame _ _ _ _ _); decide; decide)
    | (fail_if_no_progress with_reducible apply Dev.Agree.upd_pwr; decide)
    | split)

theorem Dev.actionDo_frame (d : Dev) (code : Nat) (arg : Nat) (owner : Nat) : Dev.Agree [0x60, 0x61, 0xC0] [.evt, .caps, .trigs, .weave] d (Dev.actionDo d code arg owner) := by
  unfold Dev.actionDo
  repeat' (first
    | (with_reducible intro x; first
        | (with_reducible refine Dev.Agree.have (cs := [0x60, 0x61, 0xC0]) (fs := [.evt, .caps, .trigs, .weave]) (a := d) (x := x) ?_ ?_; subst x; rotate_left 1; clear_value x; with_reducible intro _; rotate_right 1)
        | (with_reducible refine Dev.Agree.have (cs := [0x60, 0x61, 0xC0]) (fs := [.evt, .caps, .trigs, .weave]) (a := d) (x := x.2) ?_ ?_; subst x; rotate_left 1; clear_value x; with_reducible intro _; rotate_right 1)
        | clear_value x
        | skip)
    | with_reducible exact Dev.Agree.refl
    | with_reducible assumption
    | lift_lets -underBinder
    | with_reducible apply Dev.Agree.ite
    | (with_reducible apply Dev.Agree.step (Dev.raise_frame _ _ _ _ _); decide; decide)
    | (with_reducible apply Dev.Agree.step (Dev.fireTrig_frame _ _ _ _ _); decide; decide)
    | split)

theorem Dev.action_frame (d : Dev) (code : Nat) (arg : Nat) (owner : Nat) : Dev.Agree [0x60, 0x61, 0xC0] [.evt, .mode, .caps, .trigs, .weave] d (Dev.action d code arg owner) := by
  unfold Dev.action
  repeat' (first
    | (with_reducible intro x; first
        | (with_reducible refine Dev.Agree.have (cs := [0x60, 0x61, 0xC0]) (fs := [.evt, .mode, .caps, .trigs, .weave]) (a := d) (x := x) ?_ ?_; subst x; rotate_left 1; clear_value x; with_reducible intro _; rotate_right 1)
        | (with_reducible refine Dev.Agree.have (cs := [0x60, 0x61, 0xC0]) (fs := [.evt, .mode, .caps, .trigs, .weave]) (a := d) (x := x.2) ?_ ?_; subst x; rotate_left 1; clear_value x; with_reducible intro _; rotate_right 1)
        | clear_value x
        | skip)
    | with_reducible exact Dev.Agree.refl
    | with_reducible assumption
    | lift_lets -underBinder
    | with_reducible apply Dev.Agree.ite
    | (with_reducible apply Dev.Agree.step (Dev.actionDo_frame _ _ _ _); decide; decide)
    | (fail_if_no_progress with_reducible apply Dev.Agree.upd_mode; decide)
    | split)

end Sys2Proof.Machine
end

