-- ==== Sys2Proof/Laws/FrameC.lean ====
section
/-! SUPPORT. Frames of the device's operations, part 3 of 4: for each, the groups of parameters and the parts of the device it may change. -/

set_option linter.all false

namespace Sys2Proof.Machine

theorem Dev.actionsRun_frame (d : Dev) : Dev.Agree [0x60, 0x61, 0xC0] [.evt, .mode, .caps, .trigs, .weave] d (Dev.actionsRun d) := by
  unfold Dev.actionsRun
  repeat' (first
    | (with_reducible intro x; first
        | (with_reducible refine Dev.Agree.have (cs := [0x60, 0x61, 0xC0]) (fs := [.evt, .mode, .caps, .trigs, .weave]) (a := d) (x := x) ?_ ?_; subst x; rotate_left 1; clear_value x; with_reducible intro _; rotate_right 1)
        | (with_reducible refine Dev.Agree.have (cs := [0x60, 0x61, 0xC0]) (fs := [.evt, .mode, .caps, .trigs, .weave]) (a := d) (x := x.2) ?_ ?_; subst x; rotate_left 1; clear_value x; with_reducible intro _; rotate_right 1)
        | clear_value x
        | skip)
    | with_reducible exact Dev.Agree.refl
    | with_reducible assumption
    | lift_lets -underBinder
    | with_reducible apply Dev.Agree.ite
    | (with_reducible apply Dev.Agree.step (Dev.actionDo_frame _ _ _ _); decide; decide)
    | with_reducible apply Dev.Agree.forL
    | (fail_if_no_progress with_reducible apply Dev.Agree.upd_mode; decide)
    | split)

theorem Dev.showState_frame (d : Dev) (s : Nat) : Dev.Agree [0x01] [] d (Dev.showState d s) := by
  unfold Dev.showState
  repeat' (first
    | (with_reducible intro x; first
        | (with_reducible refine Dev.Agree.have (cs := [0x01]) (fs := []) (a := d) (x := x) ?_ ?_; subst x; rotate_left 1; clear_value x; with_reducible intro _; rotate_right 1)
        | (with_reducible refine Dev.Agree.have (cs := [0x01]) (fs := []) (a := d) (x := x.2) ?_ ?_; subst x; rotate_left 1; clear_value x; with_reducible intro _; rotate_right 1)
        | clear_value x
        | skip)
    | with_reducible exact Dev.Agree.refl
    | with_reducible assumption
    | lift_lets -underBinder
    | with_reducible apply Dev.Agree.ite
    | (with_reducible apply Dev.Agree.put; decide; decide)
    | split)

theorem Dev.enterState_frame (d : Dev) (s : Nat) (keepDwell : Bool) : Dev.Agree [0x01, 0x04, 0x21, 0x60, 0x61, 0xC0] [.evt, .mode, .caps, .trigs, .grids, .weave] d (Dev.enterState d s keepDwell) := by
  unfold Dev.enterState
  repeat' (first
    | (with_reducible intro x; first
        | (with_reducible refine Dev.Agree.have (cs := [0x01, 0x04, 0x21, 0x60, 0x61, 0xC0]) (fs := [.evt, .mode, .caps, .trigs, .grids, .weave]) (a := d) (x := x) ?_ ?_; subst x; rotate_left 1; clear_value x; with_reducible intro _; rotate_right 1)
        | (with_reducible refine Dev.Agree.have (cs := [0x01, 0x04, 0x21, 0x60, 0x61, 0xC0]) (fs := [.evt, .mode, .caps, .trigs, .grids, .weave]) (a := d) (x := x.2) ?_ ?_; subst x; rotate_left 1; clear_value x; with_reducible intro _; rotate_right 1)
        | clear_value x
        | skip)
    | with_reducible exact Dev.Agree.refl
    | with_reducible assumption
    | lift_lets -underBinder
    | with_reducible apply Dev.Agree.ite
    | (with_reducible apply Dev.Agree.put; decide; decide)
    | (with_reducible apply Dev.Agree.inc; decide; decide)
    | (with_reducible apply Dev.Agree.step (Dev.raise_frame _ _ _ _ _); decide; decide)
    | (with_reducible apply Dev.Agree.step (Dev.gridStateChange_frame _ _ _); decide; decide)
    | (with_reducible apply Dev.Agree.step (Dev.action_frame _ _ _ _); decide; decide)
    | (with_reducible apply Dev.Agree.step (Dev.showState_frame _ _); decide; decide)
    | with_reducible apply Dev.Agree.forN
    | (fail_if_no_progress with_reducible apply Dev.Agree.upd_mode; decide)
    | split)

theorem Dev.modeDone_frame (d : Dev) : Dev.Agree [] [.host, .mode] d (Dev.modeDone d) := by
  unfold Dev.modeDone
  repeat' (first
    | (with_reducible intro x; first
        | (with_reducible refine Dev.Agree.have (cs := []) (fs := [.host, .mode]) (a := d) (x := x) ?_ ?_; subst x; rotate_left 1; clear_value x; with_reducible intro _; rotate_right 1)
        | (with_reducible refine Dev.Agree.have (cs := []) (fs := [.host, .mode]) (a := d) (x := x.2) ?_ ?_; subst x; rotate_left 1; clear_value x; with_reducible intro _; rotate_right 1)
        | clear_value x
        | skip)
    | with_reducible exact Dev.Agree.refl
    | with_reducible assumption
    | lift_lets -underBinder
    | with_reducible apply Dev.Agree.ite
    | (fail_if_no_progress with_reducible apply Dev.Agree.upd_host; decide)
    | (fail_if_no_progress with_reducible apply Dev.Agree.upd_mode; decide)
    | (apply Dev.Agree.upd; (with_reducible assumption); exact Eq.refl _; intro f hf; cases f <;> first | exact absurd hf (by decide) | exact Eq.refl _)
    | (apply Dev.Agree.upd; (with_reducible exact Dev.Agree.refl); exact Eq.refl _; intro f hf; cases f <;> first | exact absurd hf (by decide) | exact Eq.refl _)
    | split)

theorem Dev.slotFire_frame (d : Dev) (s : Nat) (t : Nat) : Dev.Agree [0x01, 0x04, 0x21, 0x60, 0x61, 0xC0] [.evt, .mode, .caps, .trigs, .grids, .weave] d (Dev.slotFire d s t) := by
  unfold Dev.slotFire
  repeat' (first
    | (with_reducible intro x; first
        | (with_reducible refine Dev.Agree.have (cs := [0x01, 0x04, 0x21, 0x60, 0x61, 0xC0]) (fs := [.evt, .mode, .caps, .trigs, .grids, .weave]) (a := d) (x := x) ?_ ?_; subst x; rotate_left 1; clear_value x; with_reducible intro _; rotate_right 1)
        | (with_reducible refine Dev.Agree.have (cs := [0x01, 0x04, 0x21, 0x60, 0x61, 0xC0]) (fs := [.evt, .mode, .caps, .trigs, .grids, .weave]) (a := d) (x := x.2) ?_ ?_; subst x; rotate_left 1; clear_value x; with_reducible intro _; rotate_right 1)
        | clear_value x
        | skip)
    | with_reducible exact Dev.Agree.refl
    | with_reducible assumption
    | lift_lets -underBinder
    | with_reducible apply Dev.Agree.ite
    | (with_reducible apply Dev.Agree.step (Dev.action_frame _ _ _ _); decide; decide)
    | (with_reducible apply Dev.Agree.step (Dev.enterState_frame _ _ _); decide; decide)
    | split)

theorem Dev.modeRun_frame (d : Dev) (switched : Bool) : Dev.Agree [0x01, 0x04, 0x21, 0x60, 0x61, 0xC0] [.evt, .host, .mode, .caps, .trigs, .grids, .weave] d (Dev.modeRun d switched) := by
  unfold Dev.modeRun
  repeat' (first
    | (with_reducible intro x; first
        | (with_reducible refine Dev.Agree.have (cs := [0x01, 0x04, 0x21, 0x60, 0x61, 0xC0]) (fs := [.evt, .host, .mode, .caps, .trigs, .grids, .weave]) (a := d) (x := x) ?_ ?_; subst x; rotate_left 1; clear_value x; with_reducible intro _; rotate_right 1)
        | (with_reducible refine Dev.Agree.have (cs := [0x01, 0x04, 0x21, 0x60, 0x61, 0xC0]) (fs := [.evt, .host, .mode, .caps, .trigs, .grids, .weave]) (a := d) (x := x.2) ?_ ?_; subst x; rotate_left 1; clear_value x; with_reducible intro _; rotate_right 1)
        | clear_value x
        | skip)
    | with_reducible exact Dev.Agree.refl
    | with_reducible assumption
    | lift_lets -underBinder
    | with_reducible apply Dev.Agree.ite
    | (with_reducible apply Dev.Agree.step (Dev.showState_frame _ _); decide; decide)
    | (with_reducible apply Dev.Agree.step (Dev.enterState_frame _ _ _); decide; decide)
    | (with_reducible apply Dev.Agree.step (Dev.modeDone_frame _); decide; decide)
    | (with_reducible apply Dev.Agree.step (Dev.slotFire_frame _ _ _); decide; decide)
    | split)

theorem Dev.modeServed_frame (d : Dev) : Dev.Agree [] [.mode] d (Dev.modeServed d) := by
  unfold Dev.modeServed
  repeat' (first
    | (with_reducible intro x; first
        | (with_reducible refine Dev.Agree.have (cs := []) (fs := [.mode]) (a := d) (x := x) ?_ ?_; subst x; rotate_left 1; clear_value x; with_reducible intro _; rotate_right 1)
        | (with_reducible refine Dev.Agree.have (cs := []) (fs := [.mode]) (a := d) (x := x.2) ?_ ?_; subst x; rotate_left 1; clear_value x; with_reducible intro _; rotate_right 1)
        | clear_value x
        | skip)
    | with_reducible exact Dev.Agree.refl
    | with_reducible assumption
    | lift_lets -underBinder
    | with_reducible apply Dev.Agree.ite
    | (fail_if_no_progress with_reducible apply Dev.Agree.upd_mode; decide)
    | split)

theorem Dev.modePark_frame (d : Dev) (switched : Bool) : Dev.Agree [0x01, 0x04, 0x21, 0x60, 0x61, 0xB0, 0xC0] [.evt, .host, .mode, .caps, .trigs, .grids, .weave, .pwr] d (Dev.modePark d switched) := by
  unfold Dev.modePark
  repeat' (first
    | (with_reducible intro x; first
        | (with_reducible refine Dev.Agree.have (cs := [0x01, 0x04, 0x21, 0x60, 0x61, 0xB0, 0xC0]) (fs := [.evt, .host, .mode, .caps, .trigs, .grids, .weave, .pwr]) (a := d) (x := x) ?_ ?_; subst x; rotate_left 1; clear_value x; with_reducible intro _; rotate_right 1)
        | (with_reducible refine Dev.Agree.have (cs := [0x01, 0x04, 0x21, 0x60, 0x61, 0xB0, 0xC0]) (fs := [.evt, .host, .mode, .caps, .trigs, .grids, .weave, .pwr]) (a := d) (x := x.2) ?_ ?_; subst x; rotate_left 1; clear_value x; with_reducible intro _; rotate_right 1)
        | clear_value x
        | skip)
    | with_reducible exact Dev.Agree.refl
    | with_reducible assumption
    | lift_lets -underBinder
    | with_reducible apply Dev.Agree.ite
    | (with_reducible apply Dev.Agree.step (Dev.wake_frame _ _); decide; decide)
    | (with_reducible apply Dev.Agree.step (Dev.showState_frame _ _); decide; decide)
    | (with_reducible apply Dev.Agree.step (Dev.enterState_frame _ _ _); decide; decide)
    | (with_reducible apply Dev.Agree.step (Dev.modeDone_frame _); decide; decide)
    | (with_reducible apply Dev.Agree.step (Dev.modeServed_frame _); decide; decide)
    | split)

theorem Dev.setsState_frame (d : Dev) (mask : Nat) (st : Nat) : Dev.Agree [] [.tsets] d (Dev.setsState d mask st) := by
  unfold Dev.setsState
  repeat' (first
    | (with_reducible intro x; first
        | (with_reducible refine Dev.Agree.have (cs := []) (fs := [.tsets]) (a := d) (x := x) ?_ ?_; subst x; rotate_left 1; clear_value x; with_reducible intro _; rotate_right 1)
        | (with_reducible refine Dev.Agree.have (cs := []) (fs := [.tsets]) (a := d) (x := x.2) ?_ ?_; subst x; rotate_left 1; clear_value x; with_reducible intro _; rotate_right 1)
        | clear_value x
        | skip)
    | with_reducible exact Dev.Agree.refl
    | with_reducible assumption
    | lift_lets -underBinder
    | with_reducible apply Dev.Agree.ite
    | (with_reducible apply Dev.Agree.step (Dev.setTset_frame _ _ _); decide; decide)
    | with_reducible apply Dev.Agree.forL
    | split)

theorem Dev.commitStart_frame (d : Dev) (mask : Nat) (session : Nat) (tag : Nat) (ts : Nat) : Dev.Agree [] [.host, .tsets, .commits] d (Dev.commitStart d mask session tag ts) := by
  unfold Dev.commitStart
  repeat' (first
    | (with_reducible intro x; first
        | (with_reducible refine Dev.Agree.have (cs := []) (fs := [.host, .tsets, .commits]) (a := d) (x := x) ?_ ?_; subst x; rotate_left 1; clear_value x; with_reducible intro _; rotate_right 1)
        | (with_reducible refine Dev.Agree.have (cs := []) (fs := [.host, .tsets, .commits]) (a := d) (x := x.2) ?_ ?_; subst x; rotate_left 1; clear_value x; with_reducible intro _; rotate_right 1)
        | clear_value x
        | skip)
    | with_reducible exact Dev.Agree.refl
    | with_reducible assumption
    | lift_lets -underBinder
    | with_reducible apply Dev.Agree.ite
    | (with_reducible apply Dev.Agree.step (Dev.setTset_frame _ _ _); decide; decide)
    | (with_reducible apply Dev.Agree.step (Dev.setsState_frame _ _ _); decide; decide)
    | with_reducible apply Dev.Agree.forL
    | (fail_if_no_progress with_reducible apply Dev.Agree.upd_host; decide)
    | (fail_if_no_progress with_reducible apply Dev.Agree.upd_commits; decide)
    | (apply Dev.Agree.upd; (with_reducible assumption); exact Eq.refl _; intro f hf; cases f <;> first | exact absurd hf (by decide) | exact Eq.refl _)
    | (apply Dev.Agree.upd; (with_reducible exact Dev.Agree.refl); exact Eq.refl _; intro f hf; cases f <;> first | exact absurd hf (by decide) | exact Eq.refl _)
    | split)

theorem Dev.commitEnd_frame (d : Dev) (c : Commit) (status : Nat) (extra : List Byte) : Dev.Agree [0x90, 0x91, 0xC0] [.evt, .host, .tsets, .commits, .weave] d (Dev.commitEnd d c status extra) := by
  unfold Dev.commitEnd
  repeat' (first
    | (with_reducible intro x; first
        | (with_reducible refine Dev.Agree.have (cs := [0x90, 0x91, 0xC0]) (fs := [.evt, .host, .tsets, .commits, .weave]) (a := d) (x := x) ?_ ?_; subst x; rotate_left 1; clear_value x; with_reducible intro _; rotate_right 1)
        | (with_reducible refine Dev.Agree.have (cs := [0x90, 0x91, 0xC0]) (fs := [.evt, .host, .tsets, .commits, .weave]) (a := d) (x := x.2) ?_ ?_; subst x; rotate_left 1; clear_value x; with_reducible intro _; rotate_right 1)
        | clear_value x
        | skip)
    | with_reducible exact Dev.Agree.refl
    | with_reducible assumption
    | lift_lets -underBinder
    | with_reducible apply Dev.Agree.ite
    | (with_reducible apply Dev.Agree.step (Dev.outcome_frame _ _ _ _); decide; decide)
    | (with_reducible apply Dev.Agree.step (Dev.setsState_frame _ _ _); decide; decide)
    | (fail_if_no_progress with_reducible apply Dev.Agree.upd_commits; decide)
    | split)

theorem Dev.validated_frame (d : Dev) : Dev.Agree [0x90, 0x91, 0xC0] [.evt, .host, .tsets, .commits, .weave] d (Dev.validated d) := by
  unfold Dev.validated
  repeat' (first
    | (with_reducible intro x; first
        | (with_reducible refine Dev.Agree.have (cs := [0x90, 0x91, 0xC0]) (fs := [.evt, .host, .tsets, .commits, .weave]) (a := d) (x := x) ?_ ?_; subst x; rotate_left 1; clear_value x; with_reducible intro _; rotate_right 1)
        | (with_reducible refine Dev.Agree.have (cs := [0x90, 0x91, 0xC0]) (fs := [.evt, .host, .tsets, .commits, .weave]) (a := d) (x := x.2) ?_ ?_; subst x; rotate_left 1; clear_value x; with_reducible intro _; rotate_right 1)
        | clear_value x
        | skip)
    | with_reducible exact Dev.Agree.refl
    | with_reducible assumption
    | lift_lets -underBinder
    | with_reducible apply Dev.Agree.ite
    | (with_reducible apply Dev.Agree.step (Dev.setTset_frame _ _ _); decide; decide)
    | (with_reducible apply Dev.Agree.step (Dev.headsClean_frame _); decide; decide)
    | (with_reducible apply Dev.Agree.step (Dev.commitEnd_frame _ _ _ _); decide; decide)
    | with_reducible apply Dev.Agree.forL
    | (fail_if_no_progress with_reducible apply Dev.Agree.upd_commits; decide)
    | split)

theorem Dev.abortSets_frame (d : Dev) (mask : Nat) : Dev.Agree [0x90, 0x91, 0xC0] [.evt, .host, .tsets, .commits, .weave] d (Dev.abortSets d mask) := by
  unfold Dev.abortSets
  repeat' (first
    | (with_reducible intro x; first
        | (with_reducible refine Dev.Agree.have (cs := [0x90, 0x91, 0xC0]) (fs := [.evt, .host, .tsets, .commits, .weave]) (a := d) (x := x) ?_ ?_; subst x; rotate_left 1; clear_value x; with_reducible intro _; rotate_right 1)
        | (with_reducible refine Dev.Agree.have (cs := [0x90, 0x91, 0xC0]) (fs := [.evt, .host, .tsets, .commits, .weave]) (a := d) (x := x.2) ?_ ?_; subst x; rotate_left 1; clear_value x; with_reducible intro _; rotate_right 1)
        | clear_value x
        | skip)
    | with_reducible exact Dev.Agree.refl
    | with_reducible assumption
    | lift_lets -underBinder
    | with_reducible apply Dev.Agree.ite
    | (with_reducible apply Dev.Agree.step (Dev.commitEnd_frame _ _ _ _); decide; decide)
    | with_reducible apply Dev.Agree.forL
    | split)

theorem Dev.tblAbort_frame (d : Dev) (mask : Nat) : Dev.Agree [0x90, 0x91, 0xC0] [.evt, .host, .tsets, .commits, .weave] d (Dev.tblAbort d mask).2 := by
  unfold Dev.tblAbort
  repeat' (first
    | (with_reducible intro x; first
        | (with_reducible refine Dev.Agree.have (cs := [0x90, 0x91, 0xC0]) (fs := [.evt, .host, .tsets, .commits, .weave]) (a := d) (x := x) ?_ ?_; subst x; rotate_left 1; clear_value x; with_reducible intro _; rotate_right 1)
        | (with_reducible refine Dev.Agree.have (cs := [0x90, 0x91, 0xC0]) (fs := [.evt, .host, .tsets, .commits, .weave]) (a := d) (x := x.2) ?_ ?_; subst x; rotate_left 1; clear_value x; with_reducible intro _; rotate_right 1)
        | clear_value x
        | skip)
    | with_reducible exact Dev.Agree.refl
    | with_reducible assumption
    | lift_lets -underBinder
    | with_reducible apply Dev.Agree.ite
    | with_reducible apply Dev.Agree.ite2
    | split
    | (with_reducible apply Dev.Agree.step (Dev.abortSets_frame _ _); decide; decide))

theorem Dev.restartChanged_frame (d : Dev) (old : Tab Byte) : Dev.Agree [0x20] [.ctxs] d (Dev.restartChanged d old) := by
  unfold Dev.restartChanged
  repeat' (first
    | (with_reducible intro x; first
        | (with_reducible refine Dev.Agree.have (cs := [0x20]) (fs := [.ctxs]) (a := d) (x := x) ?_ ?_; subst x; rotate_left 1; clear_value x; with_reducible intro _; rotate_right 1)
        | (with_reducible refine Dev.Agree.have (cs := [0x20]) (fs := [.ctxs]) (a := d) (x := x.2) ?_ ?_; subst x; rotate_left 1; clear_value x; with_reducible intro _; rotate_right 1)
        | clear_value x
        | skip)
    | with_reducible exact Dev.Agree.refl
    | with_reducible assumption
    | lift_lets -underBinder
    | with_reducible apply Dev.Agree.ite
    | (with_reducible apply Dev.Agree.step (Dev.ctxRestart_frame _ _); decide; decide)
    | with_reducible apply Dev.Agree.forN
    | split)

theorem Dev.switchSet_frame (d : Dev) (k : Nat) : Dev.Agree [0x01, 0x20, 0x80, 0xA0] [.tsets, .ctxs, .weave, .lid] d (Dev.switchSet d k) := by
  unfold Dev.switchSet
  repeat' (first
    | (with_reducible intro x; first
        | (with_reducible refine Dev.Agree.have (cs := [0x01, 0x20, 0x80, 0xA0]) (fs := [.tsets, .ctxs, .weave, .lid]) (a := d) (x := x) ?_ ?_; subst x; rotate_left 1; clear_value x; with_reducible intro _; rotate_right 1)
        | (with_reducible refine Dev.Agree.have (cs := [0x01, 0x20, 0x80, 0xA0]) (fs := [.tsets, .ctxs, .weave, .lid]) (a := d) (x := x.2) ?_ ?_; subst x; rotate_left 1; clear_value x; with_reducible intro _; rotate_right 1)
        | clear_value x
        | skip)
    | with_reducible exact Dev.Agree.refl
    | with_reducible assumption
    | lift_lets -underBinder
    | with_reducible apply Dev.Agree.ite
    | (with_reducible apply Dev.Agree.put; decide; decide)
    | (with_reducible apply Dev.Agree.step (Dev.tallyExtend_frame _ _ _); decide; decide)
    | (with_reducible apply Dev.Agree.step (Dev.setTset_frame _ _ _); decide; decide)
    | (with_reducible apply Dev.Agree.step (Dev.resubscribe_frame _); decide; decide)
    | (with_reducible apply Dev.Agree.step (Dev.restartChanged_frame _ _); decide; decide)
    | split)

theorem Dev.switchTables_frame (d : Dev) : Dev.Agree [0x01, 0x20, 0x80, 0x90, 0x91, 0xA0, 0xC0] [.evt, .host, .tsets, .commits, .ctxs, .weave, .lid] d (Dev.switchTables d).2 := by
  unfold Dev.switchTables
  repeat' (first
    | (with_reducible intro x; first
        | (with_reducible refine Dev.Agree.have (cs := [0x01, 0x20, 0x80, 0x90, 0x91, 0xA0, 0xC0]) (fs := [.evt, .host, .tsets, .commits, .ctxs, .weave, .lid]) (a := d) (x := x) ?_ ?_; subst x; rotate_left 1; clear_value x; with_reducible intro _; rotate_right 1)
        | (with_reducible refine Dev.Agree.have (cs := [0x01, 0x20, 0x80, 0x90, 0x91, 0xA0, 0xC0]) (fs := [.evt, .host, .tsets, .commits, .ctxs, .weave, .lid]) (a := d) (x := x.2) ?_ ?_; subst x; rotate_left 1; clear_value x; with_reducible intro _; rotate_right 1)
        | clear_value x
        | skip)
    | with_reducible exact Dev.Agree.refl
    | with_reducible assumption
    | lift_lets -underBinder
    | with_reducible apply Dev.Agree.ite
    | with_reducible apply Dev.Agree.ite2
    | split
    | (with_reducible apply Dev.Agree.step (Dev.outcome_frame _ _ _ _); decide; decide)
    | (with_reducible apply Dev.Agree.step (Dev.switchSet_frame _ _); decide; decide)
    | with_reducible apply Dev.Agree.forL
    | (fail_if_no_progress with_reducible apply Dev.Agree.upd_commits; decide))

theorem Dev.syncDone_frame (d : Dev) (k : Nat) : Dev.Agree [] [.tsets] d (Dev.syncDone d k) := by
  unfold Dev.syncDone
  repeat' (first
    | (with_reducible intro x; first
        | (with_reducible refine Dev.Agree.have (cs := []) (fs := [.tsets]) (a := d) (x := x) ?_ ?_; subst x; rotate_left 1; clear_value x; with_reducible intro _; rotate_right 1)
        | (with_reducible refine Dev.Agree.have (cs := []) (fs := [.tsets]) (a := d) (x := x.2) ?_ ?_; subst x; rotate_left 1; clear_value x; with_reducible intro _; rotate_right 1)
        | clear_value x
        | skip)
    | with_reducible exact Dev.Agree.refl
    | with_reducible assumption
    | lift_lets -underBinder
    | with_reducible apply Dev.Agree.ite
    | (with_reducible apply Dev.Agree.step (Dev.setTset_frame _ _ _); decide; decide)
    | split)

theorem Dev.persist_frame (d : Dev) : Dev.Agree [] [.tsets, .lid] d (Dev.persist d) := by
  unfold Dev.persist
  repeat' (first
    | (with_reducible intro x; first
        | (with_reducible refine Dev.Agree.have (cs := []) (fs := [.tsets, .lid]) (a := d) (x := x) ?_ ?_; subst x; rotate_left 1; clear_value x; with_reducible intro _; rotate_right 1)
        | (with_reducible refine Dev.Agree.have (cs := []) (fs := [.tsets, .lid]) (a := d) (x := x.2) ?_ ?_; subst x; rotate_left 1; clear_value x; with_reducible intro _; rotate_right 1)
        | clear_value x
        | skip)
    | with_reducible exact Dev.Agree.refl
    | with_reducible assumption
    | lift_lets -underBinder
    | with_reducible apply Dev.Agree.ite
    | (with_reducible apply Dev.Agree.step (Dev.setTset_frame _ _ _); decide; decide)
    | with_reducible apply Dev.Agree.forN
    | (fail_if_no_progress with_reducible apply Dev.Agree.upd_lid; decide)
    | split)

theorem Dev.loadSet_frame (d : Dev) (k : Nat) (t : Tab Byte) : Dev.Agree [] [.tsets] d (Dev.loadSet d k t) := by
  unfold Dev.loadSet
  repeat' (first
    | (with_reducible intro x; first
        | (with_reducible refine Dev.Agree.have (cs := []) (fs := [.tsets]) (a := d) (x := x) ?_ ?_; subst x; rotate_left 1; clear_value x; with_reducible intro _; rotate_right 1)
        | (with_reducible refine Dev.Agree.have (cs := []) (fs := [.tsets]) (a := d) (x := x.2) ?_ ?_; subst x; rotate_left 1; clear_value x; with_reducible intro _; rotate_right 1)
        | clear_value x
        | skip)
    | with_reducible exact Dev.Agree.refl
    | with_reducible assumption
    | lift_lets -underBinder
    | with_reducible apply Dev.Agree.ite
    | (with_reducible apply Dev.Agree.step (Dev.setTset_frame _ _ _); decide; decide)
    | split)

theorem Dev.loadTables_frame (d : Dev) : Dev.Agree [0xA0, 0xC0] [.evt, .tsets, .mode, .lid] d (Dev.loadTables d) := by
  unfold Dev.loadTables
  repeat' (first
    | (with_reducible intro x; first
        | (with_reducible refine Dev.Agree.have (cs := [0xA0, 0xC0]) (fs := [.evt, .tsets, .mode, .lid]) (a := d) (x := x) ?_ ?_; subst x; rotate_left 1; clear_value x; with_reducible intro _; rotate_right 1)
        | (with_reducible refine Dev.Agree.have (cs := [0xA0, 0xC0]) (fs := [.evt, .tsets, .mode, .lid]) (a := d) (x := x.2) ?_ ?_; subst x; rotate_left 1; clear_value x; with_reducible intro _; rotate_right 1)
        | clear_value x
        | skip)
    | with_reducible exact Dev.Agree.refl
    | with_reducible assumption
    | lift_lets -underBinder
    | with_reducible apply Dev.Agree.ite
    | (with_reducible apply Dev.Agree.step (Dev.raise_frame _ _ _ _ _); decide; decide)
    | (with_reducible apply Dev.Agree.step (Dev.tallyExtend_frame _ _ _); decide; decide)
    | (with_reducible apply Dev.Agree.step (Dev.loadSet_frame _ _ _); decide; decide)
    | with_reducible apply Dev.Agree.forN
    | (fail_if_no_progress with_reducible apply Dev.Agree.upd_mode; decide)
    | split)

theorem Dev.setMet1_frame (d : Dev) (e : Nat) (x : MetRt) : Dev.Agree [] [.met] d (Dev.setMet1 d e x) := by
  unfold Dev.setMet1
  repeat' (first
    | (with_reducible intro x; first
        | (with_reducible refine Dev.Agree.have (cs := []) (fs := [.met]) (a := d) (x := x) ?_ ?_; subst x; rotate_left 1; clear_value x; with_reducible intro _; rotate_right 1)
        | (with_reducible refine Dev.Agree.have (cs := []) (fs := [.met]) (a := d) (x := x.2) ?_ ?_; subst x; rotate_left 1; clear_value x; with_reducible intro _; rotate_right 1)
        | clear_value x
        | skip)
    | with_reducible exact Dev.Agree.refl
    | with_reducible assumption
    | lift_lets -underBinder
    | with_reducible apply Dev.Agree.ite
    | (fail_if_no_progress with_reducible apply Dev.Agree.upd_met; decide)
    | split)

theorem Dev.metAdd_frame (d : Dev) (e : Nat) (r : Nat) (n : Nat) : Dev.Agree [] [.met] d (Dev.metAdd d e r n) := by
  unfold Dev.metAdd
  repeat' (first
    | (with_reducible intro x; first
        | (with_reducible refine Dev.Agree.have (cs := []) (fs := [.met]) (a := d) (x := x) ?_ ?_; subst x; rotate_left 1; clear_value x; with_reducible intro _; rotate_right 1)
        | (with_reducible refine Dev.Agree.have (cs := []) (fs := [.met]) (a := d) (x := x.2) ?_ ?_; subst x; rotate_left 1; clear_value x; with_reducible intro _; rotate_right 1)
        | clear_value x
        | skip)
    | with_reducible exact Dev.Agree.refl
    | with_reducible assumption
    | lift_lets -underBinder
    | with_reducible apply Dev.Agree.ite
    | (fail_if_no_progress with_reducible apply Dev.Agree.upd_met; decide)
    | split)

theorem Dev.metRegister_frame (d : Dev) (e : Nat) (ep : F64) (eq : F64) (es : F64) : Dev.Agree [] [.met] d (Dev.metRegister d e ep eq es) := by
  unfold Dev.metRegister
  repeat' (first
    | (with_reducible intro x; first
        | (with_reducible refine Dev.Agree.have (cs := []) (fs := [.met]) (a := d) (x := x) ?_ ?_; subst x; rotate_left 1; clear_value x; with_reducible intro _; rotate_right 1)
        | (with_reducible refine Dev.Agree.have (cs := []) (fs := [.met]) (a := d) (x := x.2) ?_ ?_; subst x; rotate_left 1; clear_value x; with_reducible intro _; rotate_right 1)
        | clear_value x
        | skip)
    | with_reducible exact Dev.Agree.refl
    | with_reducible assumption
    | lift_lets -underBinder
    | with_reducible apply Dev.Agree.ite
    | (with_reducible apply Dev.Agree.step (Dev.metAdd_frame _ _ _ _); decide; decide)
    | split)

theorem Dev.metPeriod_frame (d : Dev) (e : Nat) (len : F64) (f : Option F64) (newer : optParam Nat 0) : Dev.Agree [0x50, 0xC0] [.evt, .met] d (Dev.metPeriod d e len f newer) := by
  unfold Dev.metPeriod
  repeat' (first
    | (with_reducible intro x; first
        | (with_reducible refine Dev.Agree.have (cs := [0x50, 0xC0]) (fs := [.evt, .met]) (a := d) (x := x) ?_ ?_; subst x; rotate_left 1; clear_value x; with_reducible intro _; rotate_right 1)
        | (with_reducible refine Dev.Agree.have (cs := [0x50, 0xC0]) (fs := [.evt, .met]) (a := d) (x := x.2) ?_ ?_; subst x; rotate_left 1; clear_value x; with_reducible intro _; rotate_right 1)
        | clear_value x
        | skip)
    | with_reducible exact Dev.Agree.refl
    | with_reducible assumption
    | lift_lets -underBinder
    | with_reducible apply Dev.Agree.ite
    | (with_reducible apply Dev.Agree.put; decide; decide)
    | (with_reducible apply Dev.Agree.putF; decide; decide)
    | (with_reducible apply Dev.Agree.step (Dev.raise_frame _ _ _ _ _); decide; decide)
    | (with_reducible apply Dev.Agree.step (Dev.setMet1_frame _ _ _); decide; decide)
    | (with_reducible apply Dev.Agree.step (Dev.metRegister_frame _ _ _ _ _); decide; decide)
    | (fail_if_no_progress with_reducible apply Dev.Agree.upd_met; decide)
    | split)

theorem Dev.metCrossing_frame (d : Dev) (e : Nat) (frac : F64) : Dev.Agree [0x50, 0xC0] [.evt, .met] d (Dev.metCrossing d e frac) := by
  unfold Dev.metCrossing
  repeat' (first
    | (with_reducible intro x; first
        | (with_reducible refine Dev.Agree.have (cs := [0x50, 0xC0]) (fs := [.evt, .met]) (a := d) (x := x) ?_ ?_; subst x; rotate_left 1; clear_value x; with_reducible intro _; rotate_right 1)
        | (with_reducible refine Dev.Agree.have (cs := [0x50, 0xC0]) (fs := [.evt, .met]) (a := d) (x := x.2) ?_ ?_; subst x; rotate_left 1; clear_value x; with_reducible intro _; rotate_right 1)
        | clear_value x
        | skip)
    | with_reducible exact Dev.Agree.refl
    | with_reducible assumption
    | lift_lets -underBinder
    | with_reducible apply Dev.Agree.ite
    | (with_reducible apply Dev.Agree.putBit; decide; decide)
    | (with_reducible apply Dev.Agree.step (Dev.setMet1_frame _ _ _); decide; decide)
    | (with_reducible apply Dev.Agree.step (Dev.metPeriod_frame _ _ _ _ _); decide; decide)
    | split)

theorem Dev.metTimeout_frame (d : Dev) (e : Nat) : Dev.Agree [0x50, 0xC0] [.evt, .met] d (Dev.metTimeout d e) := by
  unfold Dev.metTimeout
  repeat' (first
    | (with_reducible intro x; first
        | (with_reducible refine Dev.Agree.have (cs := [0x50, 0xC0]) (fs := [.evt, .met]) (a := d) (x := x) ?_ ?_; subst x; rotate_left 1; clear_value x; with_reducible intro _; rotate_right 1)
        | (with_reducible refine Dev.Agree.have (cs := [0x50, 0xC0]) (fs := [.evt, .met]) (a := d) (x := x.2) ?_ ?_; subst x; rotate_left 1; clear_value x; with_reducible intro _; rotate_right 1)
        | clear_value x
        | skip)
    | with_reducible exact Dev.Agree.refl
    | with_reducible assumption
    | lift_lets -underBinder
    | with_reducible apply Dev.Agree.ite
    | (with_reducible apply Dev.Agree.step (Dev.raise_frame _ _ _ _ _); decide; decide)
    | (with_reducible apply Dev.Agree.step (Dev.setMet1_frame _ _ _); decide; decide)
    | (with_reducible apply Dev.Agree.step (Dev.metPeriod_frame _ _ _ _ _); decide; decide)
    | split)

theorem Dev.metElement_frame (d : Dev) (e : Nat) (vc : Int) (ic : Int) : Dev.Agree [0x50, 0xC0] [.evt, .met] d (Dev.metElement d e vc ic) := by
  unfold Dev.metElement
  repeat' (first
    | (with_reducible intro x; first
        | (with_reducible refine Dev.Agree.have (cs := [0x50, 0xC0]) (fs := [.evt, .met]) (a := d) (x := x) ?_ ?_; subst x; rotate_left 1; clear_value x; with_reducible intro _; rotate_right 1)
        | (with_reducible refine Dev.Agree.have (cs := [0x50, 0xC0]) (fs := [.evt, .met]) (a := d) (x := x.2) ?_ ?_; subst x; rotate_left 1; clear_value x; with_reducible intro _; rotate_right 1)
        | clear_value x
        | skip)
    | with_reducible exact Dev.Agree.refl
    | with_reducible assumption
    | lift_lets -underBinder
    | with_reducible apply Dev.Agree.ite
    | (with_reducible apply Dev.Agree.step (Dev.raise_frame _ _ _ _ _); decide; decide)
    | (with_reducible apply Dev.Agree.step (Dev.setMet1_frame _ _ _); decide; decide)
    | (with_reducible apply Dev.Agree.step (Dev.metCrossing_frame _ _ _); decide; decide)
    | split)

theorem Dev.metSample_frame (d : Dev) (vs : List Int) (is : List Int) : Dev.Agree [0x50, 0x60, 0x61, 0xC0] [.evt, .caps, .trigs, .weave, .met] d (Dev.metSample d vs is) := by
  unfold Dev.metSample
  repeat' (first
    | (with_reducible intro x; first
        | (with_reducible refine Dev.Agree.have (cs := [0x50, 0x60, 0x61, 0xC0]) (fs := [.evt, .caps, .trigs, .weave, .met]) (a := d) (x := x) ?_ ?_; subst x; rotate_left 1; clear_value x; with_reducible intro _; rotate_right 1)
        | (with_reducible refine Dev.Agree.have (cs := [0x50, 0x60, 0x61, 0xC0]) (fs := [.evt, .caps, .trigs, .weave, .met]) (a := d) (x := x.2) ?_ ?_; subst x; rotate_left 1; clear_value x; with_reducible intro _; rotate_right 1)
        | clear_value x
        | skip)
    | with_reducible exact Dev.Agree.refl
    | with_reducible assumption
    | lift_lets -underBinder
    | with_reducible apply Dev.Agree.ite
    | (with_reducible apply Dev.Agree.step (Dev.sample_frame _ _ _ _ _ _ _); decide; decide)
    | (with_reducible apply Dev.Agree.step (Dev.metElement_frame _ _ _ _); decide; decide)
    | with_reducible apply Dev.Agree.forN
    | split)

theorem Dev.metBlock_frame (d : Dev) (t : F64) : Dev.Agree [0x50] [.met] d (Dev.metBlock d t) := by
  unfold Dev.metBlock
  repeat' (first
    | (with_reducible intro x; first
        | (with_reducible refine Dev.Agree.have (cs := [0x50]) (fs := [.met]) (a := d) (x := x) ?_ ?_; subst x; rotate_left 1; clear_value x; with_reducible intro _; rotate_right 1)
        | (with_reducible refine Dev.Agree.have (cs := [0x50]) (fs := [.met]) (a := d) (x := x.2) ?_ ?_; subst x; rotate_left 1; clear_value x; with_reducible intro _; rotate_right 1)
        | clear_value x
        | skip)
    | with_reducible exact Dev.Agree.refl
    | with_reducible assumption
    | lift_lets -underBinder
    | with_reducible apply Dev.Agree.ite
    | (with_reducible apply Dev.Agree.put; decide; decide)
    | (with_reducible apply Dev.Agree.putF; decide; decide)
    | (with_reducible apply Dev.Agree.step (Dev.metRegister_frame _ _ _ _ _); decide; decide)
    | (fail_if_no_progress with_reducible apply Dev.Agree.upd_met; decide)
    | split)

theorem Dev.metRecord_frame (d : Dev) (cause : Nat) : Dev.Agree [0x50] [.met] d (Dev.metRecord d cause) := by
  unfold Dev.metRecord
  repeat' (first
    | (with_reducible intro x; first
        | (with_reducible refine Dev.Agree.have (cs := [0x50]) (fs := [.met]) (a := d) (x := x) ?_ ?_; subst x; rotate_left 1; clear_value x; with_reducible intro _; rotate_right 1)
        | (with_reducible refine Dev.Agree.have (cs := [0x50]) (fs := [.met]) (a := d) (x := x.2) ?_ ?_; subst x; rotate_left 1; clear_value x; with_reducible intro _; rotate_right 1)
        | clear_value x
        | skip)
    | with_reducible exact Dev.Agree.refl
    | with_reducible assumption
    | lift_lets -underBinder
    | with_reducible apply Dev.Agree.ite
    | (with_reducible apply Dev.Agree.put; decide; decide)
    | ((with_reducible apply Dev.Agree.put); exact (regPar_ok _).1; (rw [(regPar_ok _).2]; decide))
    | with_reducible apply Dev.Agree.forN
    | (fail_if_no_progress with_reducible apply Dev.Agree.upd_met; decide)
    | split)

theorem Dev.metCommit_frame (d : Dev) : Dev.Agree [0x50] [.met] d (Dev.metCommit d) := by
  unfold Dev.metCommit
  repeat' (first
    | (with_reducible intro x; first
        | (with_reducible refine Dev.Agree.have (cs := [0x50]) (fs := [.met]) (a := d) (x := x) ?_ ?_; subst x; rotate_left 1; clear_value x; with_reducible intro _; rotate_right 1)
        | (with_reducible refine Dev.Agree.have (cs := [0x50]) (fs := [.met]) (a := d) (x := x.2) ?_ ?_; subst x; rotate_left 1; clear_value x; with_reducible intro _; rotate_right 1)
        | clear_value x
        | skip)
    | with_reducible exact Dev.Agree.refl
    | with_reducible assumption
    | lift_lets -underBinder
    | with_reducible apply Dev.Agree.ite
    | (with_reducible apply Dev.Agree.step (Dev.metBlock_frame _ _); decide; decide)
    | (with_reducible apply Dev.Agree.step (Dev.metRecord_frame _ _); decide; decide)
    | split)

theorem Dev.supplyLoss_frame (d : Dev) : Dev.Agree [0x50, 0xC0] [.evt, .met] d (Dev.supplyLoss d) := by
  unfold Dev.supplyLoss
  repeat' (first
    | (with_reducible intro x; first
        | (with_reducible refine Dev.Agree.have (cs := [0x50, 0xC0]) (fs := [.evt, .met]) (a := d) (x := x) ?_ ?_; subst x; rotate_left 1; clear_value x; with_reducible intro _; rotate_right 1)
        | (with_reducible refine Dev.Agree.have (cs := [0x50, 0xC0]) (fs := [.evt, .met]) (a := d) (x := x.2) ?_ ?_; subst x; rotate_left 1; clear_value x; with_reducible intro _; rotate_right 1)
        | clear_value x
        | skip)
    | with_reducible exact Dev.Agree.refl
    | with_reducible assumption
    | lift_lets -underBinder
    | with_reducible apply Dev.Agree.ite
    | (with_reducible apply Dev.Agree.step (Dev.setMet1_frame _ _ _); decide; decide)
    | (with_reducible apply Dev.Agree.step (Dev.metPeriod_frame _ _ _ _ _); decide; decide)
    | (with_reducible apply Dev.Agree.step (Dev.metBlock_frame _ _); decide; decide)
    | (with_reducible apply Dev.Agree.step (Dev.metRecord_frame _ _); decide; decide)
    | with_reducible apply Dev.Agree.forN
    | (fail_if_no_progress with_reducible apply Dev.Agree.upd_met; decide)
    | split)

theorem Dev.gaspRearm_frame (d : Dev) : Dev.Agree [] [.met] d (Dev.gaspRearm d) := by
  unfold Dev.gaspRearm
  repeat' (first
    | (with_reducible intro x; first
        | (with_reducible refine Dev.Agree.have (cs := []) (fs := [.met]) (a := d) (x := x) ?_ ?_; subst x; rotate_left 1; clear_value x; with_reducible intro _; rotate_right 1)
        | (with_reducible refine Dev.Agree.have (cs := []) (fs := [.met]) (a := d) (x := x.2) ?_ ?_; subst x; rotate_left 1; clear_value x; with_reducible intro _; rotate_right 1)
        | clear_value x
        | skip)
    | with_reducible exact Dev.Agree.refl
    | with_reducible assumption
    | lift_lets -underBinder
    | with_reducible apply Dev.Agree.ite
    | (fail_if_no_progress with_reducible apply Dev.Agree.upd_met; decide)
    | split)

theorem Dev.metAlloc_frame (d : Dev) (p : Nat) (pw : F32) : Dev.Agree [] [.met] d (Dev.metAlloc d p pw) := by
  unfold Dev.metAlloc
  repeat' (first
    | (with_reducible intro x; first
        | (with_reducible refine Dev.Agree.have (cs := []) (fs := [.met]) (a := d) (x := x) ?_ ?_; subst x; rotate_left 1; clear_value x; with_reducible intro _; rotate_right 1)
        | (with_reducible refine Dev.Agree.have (cs := []) (fs := [.met]) (a := d) (x := x.2) ?_ ?_; subst x; rotate_left 1; clear_value x; with_reducible intro _; rotate_right 1)
        | clear_value x
        | skip)
    | with_reducible exact Dev.Agree.refl
    | with_reducible assumption
    | lift_lets -underBinder
    | with_reducible apply Dev.Agree.ite
    | (fail_if_no_progress with_reducible apply Dev.Agree.upd_met; decide)
    | split)

theorem Dev.metLose_frame (d : Dev) (l : MetLost) : Dev.Agree [0x50] [.met] d (Dev.metLose d l) := by
  unfold Dev.metLose
  repeat' (first
    | (with_reducible intro x; first
        | (with_reducible refine Dev.Agree.have (cs := [0x50]) (fs := [.met]) (a := d) (x := x) ?_ ?_; subst x; rotate_left 1; clear_value x; with_reducible intro _; rotate_right 1)
        | (with_reducible refine Dev.Agree.have (cs := [0x50]) (fs := [.met]) (a := d) (x := x.2) ?_ ?_; subst x; rotate_left 1; clear_value x; with_reducible intro _; rotate_right 1)
        | clear_value x
        | skip)
    | with_reducible exact Dev.Agree.refl
    | with_reducible assumption
    | lift_lets -underBinder
    | with_reducible apply Dev.Agree.ite
    | (with_reducible apply Dev.Agree.put; decide; decide)
    | (with_reducible apply Dev.Agree.inc; decide; decide)
    | (fail_if_no_progress with_reducible apply Dev.Agree.upd_met; decide)
    | split)

theorem Dev.metLoad_frame (d : Dev) : Dev.Agree [0x50, 0xC0] [.evt, .met] d (Dev.metLoad d) := by
  unfold Dev.metLoad
  repeat' (first
    | (with_reducible intro x; first
        | (with_reducible refine Dev.Agree.have (cs := [0x50, 0xC0]) (fs := [.evt, .met]) (a := d) (x := x) ?_ ?_; subst x; rotate_left 1; clear_value x; with_reducible intro _; rotate_right 1)
        | (with_reducible refine Dev.Agree.have (cs := [0x50, 0xC0]) (fs := [.evt, .met]) (a := d) (x := x.2) ?_ ?_; subst x; rotate_left 1; clear_value x; with_reducible intro _; rotate_right 1)
        | clear_value x
        | skip)
    | with_reducible exact Dev.Agree.refl
    | with_reducible assumption
    | lift_lets -underBinder
    | with_reducible apply Dev.Agree.ite
    | (with_reducible apply Dev.Agree.put; decide; decide)
    | ((with_reducible apply Dev.Agree.put); exact (regPar_ok _).1; (rw [(regPar_ok _).2]; decide))
    | (with_reducible apply Dev.Agree.step (Dev.raise_frame _ _ _ _ _); decide; decide)
    | (with_reducible apply Dev.Agree.step (Dev.metLose_frame _ _); decide; decide)
    | with_reducible apply Dev.Agree.forN
    | with_reducible apply Dev.Agree.foldl
    | with_reducible apply Dev.Agree.foldl2
    | (fail_if_no_progress with_reducible apply Dev.Agree.upd_met; decide)
    | split)

theorem Dev.setAdc_frame (d : Dev) (n : Nat) (x : AdcRt) : Dev.Agree [] [.adcs] d (Dev.setAdc d n x) := by
  unfold Dev.setAdc
  repeat' (first
    | (with_reducible intro x; first
        | (with_reducible refine Dev.Agree.have (cs := []) (fs := [.adcs]) (a := d) (x := x) ?_ ?_; subst x; rotate_left 1; clear_value x; with_reducible intro _; rotate_right 1)
        | (with_reducible refine Dev.Agree.have (cs := []) (fs := [.adcs]) (a := d) (x := x.2) ?_ ?_; subst x; rotate_left 1; clear_value x; with_reducible intro _; rotate_right 1)
        | clear_value x
        | skip)
    | with_reducible exact Dev.Agree.refl
    | with_reducible assumption
    | lift_lets -underBinder
    | with_reducible apply Dev.Agree.ite
    | (fail_if_no_progress with_reducible apply Dev.Agree.upd_adcs; decide)
    | split)

theorem Dev.setSdi_frame (d : Dev) (n : Nat) (x : SdiRt) : Dev.Agree [] [.sdis] d (Dev.setSdi d n x) := by
  unfold Dev.setSdi
  repeat' (first
    | (with_reducible intro x; first
        | (with_reducible refine Dev.Agree.have (cs := []) (fs := [.sdis]) (a := d) (x := x) ?_ ?_; subst x; rotate_left 1; clear_value x; with_reducible intro _; rotate_right 1)
        | (with_reducible refine Dev.Agree.have (cs := []) (fs := [.sdis]) (a := d) (x := x.2) ?_ ?_; subst x; rotate_left 1; clear_value x; with_reducible intro _; rotate_right 1)
        | clear_value x
        | skip)
    | with_reducible exact Dev.Agree.refl
    | with_reducible assumption
    | lift_lets -underBinder
    | with_reducible apply Dev.Agree.ite
    | (fail_if_no_progress with_reducible apply Dev.Agree.upd_sdis; decide)
    | split)

theorem Dev.setWin_frame (d : Dev) (n : Nat) (x : WinRt) : Dev.Agree [] [.wins] d (Dev.setWin d n x) := by
  unfold Dev.setWin
  repeat' (first
    | (with_reducible intro x; first
        | (with_reducible refine Dev.Agree.have (cs := []) (fs := [.wins]) (a := d) (x := x) ?_ ?_; subst x; rotate_left 1; clear_value x; with_reducible intro _; rotate_right 1)
        | (with_reducible refine Dev.Agree.have (cs := []) (fs := [.wins]) (a := d) (x := x.2) ?_ ?_; subst x; rotate_left 1; clear_value x; with_reducible intro _; rotate_right 1)
        | clear_value x
        | skip)
    | with_reducible exact Dev.Agree.refl
    | with_reducible assumption
    | lift_lets -underBinder
    | with_reducible apply Dev.Agree.ite
    | (fail_if_no_progress with_reducible apply Dev.Agree.upd_wins; decide)
    | split)

theorem Dev.adcBeat_frame (d : Dev) (n : Nat) (c : Int) : Dev.Agree [0x40, 0x60, 0x61, 0xC0] [.evt, .caps, .trigs, .adcs, .weave] d (Dev.adcBeat d n c) := by
  unfold Dev.adcBeat
  repeat' (first
    | (with_reducible intro x; first
        | (with_reducible refine Dev.Agree.have (cs := [0x40, 0x60, 0x61, 0xC0]) (fs := [.evt, .caps, .trigs, .adcs, .weave]) (a := d) (x := x) ?_ ?_; subst x; rotate_left 1; clear_value x; with_reducible intro _; rotate_right 1)
        | (with_reducible refine Dev.Agree.have (cs := [0x40, 0x60, 0x61, 0xC0]) (fs := [.evt, .caps, .trigs, .adcs, .weave]) (a := d) (x := x.2) ?_ ?_; subst x; rotate_left 1; clear_value x; with_reducible intro _; rotate_right 1)
        | clear_value x
        | skip)
    | with_reducible exact Dev.Agree.refl
    | with_reducible assumption
    | lift_lets -underBinder
    | with_reducible apply Dev.Agree.ite
    | (with_reducible apply Dev.Agree.put; decide; decide)
    | (with_reducible apply Dev.Agree.putF; decide; decide)
    | (with_reducible apply Dev.Agree.putI; decide; decide)
    | (with_reducible apply Dev.Agree.putBit; decide; decide)
    | (with_reducible apply Dev.Agree.inc; decide; decide)
    | (with_reducible apply Dev.Agree.step (Dev.sample_frame _ _ _ _ _ _ _); decide; decide)
    | (with_reducible apply Dev.Agree.step (Dev.setAdc_frame _ _ _); decide; decide)
    | split)

theorem Dev.adcConvert_frame (d : Dev) (n : Nat) (c : Int) : Dev.Agree [0x40, 0x60, 0x61, 0xC0] [.evt, .caps, .trigs, .adcs, .weave] d (Dev.adcConvert d n c) := by
  unfold Dev.adcConvert
  repeat' (first
    | (with_reducible intro x; first
        | (with_reducible refine Dev.Agree.have (cs := [0x40, 0x60, 0x61, 0xC0]) (fs := [.evt, .caps, .trigs, .adcs, .weave]) (a := d) (x := x) ?_ ?_; subst x; rotate_left 1; clear_value x; with_reducible intro _; rotate_right 1)
        | (with_reducible refine Dev.Agree.have (cs := [0x40, 0x60, 0x61, 0xC0]) (fs := [.evt, .caps, .trigs, .adcs, .weave]) (a := d) (x := x.2) ?_ ?_; subst x; rotate_left 1; clear_value x; with_reducible intro _; rotate_right 1)
        | clear_value x
        | skip)
    | with_reducible exact Dev.Agree.refl
    | with_reducible assumption
    | lift_lets -underBinder
    | with_reducible apply Dev.Agree.ite
    | (with_reducible apply Dev.Agree.inc; decide; decide)
    | (with_reducible apply Dev.Agree.step (Dev.sample_frame _ _ _ _ _ _ _); decide; decide)
    | (with_reducible apply Dev.Agree.step (Dev.setAdc_frame _ _ _); decide; decide)
    | split)

theorem Dev.adcCalStart_frame (d : Dev) (n : Nat) : Dev.Agree [] [.adcs] d (Dev.adcCalStart d n) := by
  unfold Dev.adcCalStart
  repeat' (first
    | (with_reducible intro x; first
        | (with_reducible refine Dev.Agree.have (cs := []) (fs := [.adcs]) (a := d) (x := x) ?_ ?_; subst x; rotate_left 1; clear_value x; with_reducible intro _; rotate_right 1)
        | (with_reducible refine Dev.Agree.have (cs := []) (fs := [.adcs]) (a := d) (x := x.2) ?_ ?_; subst x; rotate_left 1; clear_value x; with_reducible intro _; rotate_right 1)
        | clear_value x
        | skip)
    | with_reducible exact Dev.Agree.refl
    | with_reducible assumption
    | lift_lets -underBinder
    | with_reducible apply Dev.Agree.ite
    | (with_reducible apply Dev.Agree.step (Dev.setAdc_frame _ _ _); decide; decide)
    | split)

theorem Dev.adcCalDone_frame (d : Dev) (n : Nat) (off : Int) (gain : F32) : Dev.Agree [0x40, 0xC0] [.evt, .adcs] d (Dev.adcCalDone d n off gain) := by
  unfold Dev.adcCalDone
  repeat' (first
    | (with_reducible intro x; first
        | (with_reducible refine Dev.Agree.have (cs := [0x40, 0xC0]) (fs := [.evt, .adcs]) (a := d) (x := x) ?_ ?_; subst x; rotate_left 1; clear_value x; with_reducible intro _; rotate_right 1)
        | (with_reducible refine Dev.Agree.have (cs := [0x40, 0xC0]) (fs := [.evt, .adcs]) (a := d) (x := x.2) ?_ ?_; subst x; rotate_left 1; clear_value x; with_reducible intro _; rotate_right 1)
        | clear_value x
        | skip)
    | with_reducible exact Dev.Agree.refl
    | with_reducible assumption
    | lift_lets -underBinder
    | with_reducible apply Dev.Agree.ite
    | (with_reducible apply Dev.Agree.putF; decide; decide)
    | (with_reducible apply Dev.Agree.putI; decide; decide)
    | (with_reducible apply Dev.Agree.step (Dev.raise_frame _ _ _ _ _); decide; decide)
    | (with_reducible apply Dev.Agree.step (Dev.setAdc_frame _ _ _); decide; decide)
    | split)

theorem Dev.sdiBits_frame (d : Dev) (n : Nat) (bits : List Bool) : Dev.Agree [] [.sdis] d (Dev.sdiBits d n bits) := by
  unfold Dev.sdiBits
  repeat' (first
    | (with_reducible intro x; first
        | (with_reducible refine Dev.Agree.have (cs := []) (fs := [.sdis]) (a := d) (x := x) ?_ ?_; subst x; rotate_left 1; clear_value x; with_reducible intro _; rotate_right 1)
        | (with_reducible refine Dev.Agree.have (cs := []) (fs := [.sdis]) (a := d) (x := x.2) ?_ ?_; subst x; rotate_left 1; clear_value x; with_reducible intro _; rotate_right 1)
        | clear_value x
        | skip)
    | with_reducible exact Dev.Agree.refl
    | with_reducible assumption
    | lift_lets -underBinder
    | with_reducible apply Dev.Agree.ite
    | (with_reducible apply Dev.Agree.step (Dev.setSdi_frame _ _ _); decide; decide)
    | split)

theorem Dev.sdiRestart_frame (d : Dev) (n : Nat) : Dev.Agree [] [.sdis] d (Dev.sdiRestart d n) := by
  unfold Dev.sdiRestart
  repeat' (first
    | (with_reducible intro x; first
        | (with_reducible refine Dev.Agree.have (cs := []) (fs := [.sdis]) (a := d) (x := x) ?_ ?_; subst x; rotate_left 1; clear_value x; with_reducible intro _; rotate_right 1)
        | (with_reducible refine Dev.Agree.have (cs := []) (fs := [.sdis]) (a := d) (x := x.2) ?_ ?_; subst x; rotate_left 1; clear_value x; with_reducible intro _; rotate_right 1)
        | clear_value x
        | skip)
    | with_reducible exact Dev.Agree.refl
    | with_reducible assumption
    | lift_lets -underBinder
    | with_reducible apply Dev.Agree.ite
    | (with_reducible apply Dev.Agree.step (Dev.setSdi_frame _ _ _); decide; decide)
    | split)

theorem Dev.sdiStuck_frame (d : Dev) (n : Nat) : Dev.Agree [0x41, 0xC0] [.evt, .sdis] d (Dev.sdiStuck d n) := by
  unfold Dev.sdiStuck
  repeat' (first
    | (with_reducible intro x; first
        | (with_reducible refine Dev.Agree.have (cs := [0x41, 0xC0]) (fs := [.evt, .sdis]) (a := d) (x := x) ?_ ?_; subst x; rotate_left 1; clear_value x; with_reducible intro _; rotate_right 1)
        | (with_reducible refine Dev.Agree.have (cs := [0x41, 0xC0]) (fs := [.evt, .sdis]) (a := d) (x := x.2) ?_ ?_; subst x; rotate_left 1; clear_value x; with_reducible intro _; rotate_right 1)
        | clear_value x
        | skip)
    | with_reducible exact Dev.Agree.refl
    | with_reducible assumption
    | lift_lets -underBinder
    | with_reducible apply Dev.Agree.ite
    | (with_reducible apply Dev.Agree.inc; decide; decide)
    | (with_reducible apply Dev.Agree.step (Dev.raise_frame _ _ _ _ _); decide; decide)
    | (with_reducible apply Dev.Agree.step (Dev.setSdi_frame _ _ _); decide; decide)
    | split)

theorem Dev.sdiBeat_frame (d : Dev) (n : Nat) : Dev.Agree [0x41, 0x60, 0x61, 0xC0] [.evt, .caps, .trigs, .weave] d (Dev.sdiBeat d n) := by
  unfold Dev.sdiBeat
  repeat' (first
    | (with_reducible intro x; first
        | (with_reducible refine Dev.Agree.have (cs := [0x41, 0x60, 0x61, 0xC0]) (fs := [.evt, .caps, .trigs, .weave]) (a := d) (x := x) ?_ ?_; subst x; rotate_left 1; clear_value x; with_reducible intro _; rotate_right 1)
        | (with_reducible refine Dev.Agree.have (cs := [0x41, 0x60, 0x61, 0xC0]) (fs := [.evt, .caps, .trigs, .weave]) (a := d) (x := x.2) ?_ ?_; subst x; rotate_left 1; clear_value x; with_reducible intro _; rotate_right 1)
        | clear_value x
        | skip)
    | with_reducible exact Dev.Agree.refl
    | with_reducible assumption
    | lift_lets -underBinder
    | with_reducible apply Dev.Agree.ite
    | (with_reducible apply Dev.Agree.put; decide; decide)
    | (with_reducible apply Dev.Agree.putF; decide; decide)
    | (with_reducible apply Dev.Agree.putBit; decide; decide)
    | (with_reducible apply Dev.Agree.step (Dev.sample_frame _ _ _ _ _ _ _); decide; decide)
    | split)

theorem Dev.sdiDecimated_frame (d : Dev) (n : Nat) : Dev.Agree [0x60, 0x61, 0xC0] [.evt, .caps, .trigs, .weave] d (Dev.sdiDecimated d n) := by
  unfold Dev.sdiDecimated
  repeat' (first
    | (with_reducible intro x; first
        | (with_reducible refine Dev.Agree.have (cs := [0x60, 0x61, 0xC0]) (fs := [.evt, .caps, .trigs, .weave]) (a := d) (x := x) ?_ ?_; subst x; rotate_left 1; clear_value x; with_reducible intro _; rotate_right 1)
        | (with_reducible refine Dev.Agree.have (cs := [0x60, 0x61, 0xC0]) (fs := [.evt, .caps, .trigs, .weave]) (a := d) (x := x.2) ?_ ?_; subst x; rotate_left 1; clear_value x; with_reducible intro _; rotate_right 1)
        | clear_value x
        | skip)
    | with_reducible exact Dev.Agree.refl
    | with_reducible assumption
    | lift_lets -underBinder
    | with_reducible apply Dev.Agree.ite
    | (with_reducible apply Dev.Agree.step (Dev.sample_frame _ _ _ _ _ _ _); decide; decide)
    | split)

theorem Dev.readbackStart_frame (d : Dev) (w : Nat) (which : Nat) : Dev.Agree [0x42] [.wins] d (Dev.readbackStart d w which) := by
  unfold Dev.readbackStart
  repeat' (first
    | (with_reducible intro x; first
        | (with_reducible refine Dev.Agree.have (cs := [0x42]) (fs := [.wins]) (a := d) (x := x) ?_ ?_; subst x; rotate_left 1; clear_value x; with_reducible intro _; rotate_right 1)
        | (with_reducible refine Dev.Agree.have (cs := [0x42]) (fs := [.wins]) (a := d) (x := x.2) ?_ ?_; subst x; rotate_left 1; clear_value x; with_reducible intro _; rotate_right 1)
        | clear_value x
        | skip)
    | with_reducible exact Dev.Agree.refl
    | with_reducible assumption
    | lift_lets -underBinder
    | with_reducible apply Dev.Agree.ite
    | (with_reducible apply Dev.Agree.put; decide; decide)
    | (with_reducible apply Dev.Agree.step (Dev.setWin_frame _ _ _); decide; decide)
    | split)

theorem Dev.readbackBeat_frame (d : Dev) (w : Nat) : Dev.Agree [] [.adcs, .wins] d (Dev.readbackBeat d w) := by
  unfold Dev.readbackBeat
  repeat' (first
    | (with_reducible intro x; first
        | (with_reducible refine Dev.Agree.have (cs := []) (fs := [.adcs, .wins]) (a := d) (x := x) ?_ ?_; subst x; rotate_left 1; clear_value x; with_reducible intro _; rotate_right 1)
        | (with_reducible refine Dev.Agree.have (cs := []) (fs := [.adcs, .wins]) (a := d) (x := x.2) ?_ ?_; subst x; rotate_left 1; clear_value x; with_reducible intro _; rotate_right 1)
        | clear_value x
        | skip)
    | with_reducible exact Dev.Agree.refl
    | with_reducible assumption
    | lift_lets -underBinder
    | with_reducible apply Dev.Agree.ite
    | (with_reducible apply Dev.Agree.step (Dev.setAdc_frame _ _ _); decide; decide)
    | (with_reducible apply Dev.Agree.step (Dev.setWin_frame _ _ _); decide; decide)
    | split)

theorem Dev.readbackDone_frame (d : Dev) (w : Nat) (codes : List Int) : Dev.Agree [0x42, 0xC0] [.evt, .adcs, .wins] d (Dev.readbackDone d w codes) := by
  unfold Dev.readbackDone
  repeat' (first
    | (with_reducible intro x; first
        | (with_reducible refine Dev.Agree.have (cs := [0x42, 0xC0]) (fs := [.evt, .adcs, .wins]) (a := d) (x := x) ?_ ?_; subst x; rotate_left 1; clear_value x; with_reducible intro _; rotate_right 1)
        | (with_reducible refine Dev.Agree.have (cs := [0x42, 0xC0]) (fs := [.evt, .adcs, .wins]) (a := d) (x := x.2) ?_ ?_; subst x; rotate_left 1; clear_value x; with_reducible intro _; rotate_right 1)
        | clear_value x
        | skip)
    | with_reducible exact Dev.Agree.refl
    | with_reducible assumption
    | lift_lets -underBinder
    | with_reducible apply Dev.Agree.ite
    | (with_reducible apply Dev.Agree.put; decide; decide)
    | (with_reducible apply Dev.Agree.putF; decide; decide)
    | (with_reducible apply Dev.Agree.step (Dev.raise_frame _ _ _ _ _); decide; decide)
    | (with_reducible apply Dev.Agree.step (Dev.setAdc_frame _ _ _); decide; decide)
    | (with_reducible apply Dev.Agree.step (Dev.setWin_frame _ _ _); decide; decide)
    | with_reducible apply Dev.Agree.foldl
    | with_reducible apply Dev.Agree.foldl2
    | split)

theorem Dev.checkPeriod_frame (d : Dev) (w : Nat) : Dev.Agree [0x42] [.wins] d (Dev.checkPeriod d w) := by
  unfold Dev.checkPeriod
  repeat' (first
    | (with_reducible intro x; first
        | (with_reducible refine Dev.Agree.have (cs := [0x42]) (fs := [.wins]) (a := d) (x := x) ?_ ?_; subst x; rotate_left 1; clear_value x; with_reducible intro _; rotate_right 1)
        | (with_reducible refine Dev.Agree.have (cs := [0x42]) (fs := [.wins]) (a := d) (x := x.2) ?_ ?_; subst x; rotate_left 1; clear_value x; with_reducible intro _; rotate_right 1)
        | clear_value x
        | skip)
    | with_reducible exact Dev.Agree.refl
    | with_reducible assumption
    | lift_lets -underBinder
    | with_reducible apply Dev.Agree.ite
    | (with_reducible apply Dev.Agree.step (Dev.setWin_frame _ _ _); decide; decide)
    | (with_reducible apply Dev.Agree.step (Dev.readbackStart_frame _ _ _); decide; decide)
    | split)

theorem Dev.rimStage_frame (d : Dev) (r : List Byte) : Dev.Agree [0x70, 0xC0] [.evt, .rim] d (Dev.rimStage d r) := by
  unfold Dev.rimStage
  repeat' (first
    | (with_reducible intro x; first
        | (with_reducible refine Dev.Agree.have (cs := [0x70, 0xC0]) (fs := [.evt, .rim]) (a := d) (x := x) ?_ ?_; subst x; rotate_left 1; clear_value x; with_reducible intro _; rotate_right 1)
        | (with_reducible refine Dev.Agree.have (cs := [0x70, 0xC0]) (fs := [.evt, .rim]) (a := d) (x := x.2) ?_ ?_; subst x; rotate_left 1; clear_value x; with_reducible intro _; rotate_right 1)
        | clear_value x
        | skip)
    | with_reducible exact Dev.Agree.refl
    | with_reducible assumption
    | lift_lets -underBinder
    | with_reducible apply Dev.Agree.ite
    | (with_reducible apply Dev.Agree.put; decide; decide)
    | (with_reducible apply Dev.Agree.step (Dev.raise_frame _ _ _ _ _); decide; decide)
    | (fail_if_no_progress with_reducible apply Dev.Agree.upd_rim; decide)
    | split)

theorem Dev.rimRefresh_frame (d : Dev) (cause : Nat) : Dev.Agree [0x70, 0xC0] [.evt, .rim] d (Dev.rimRefresh d cause) := by
  unfold Dev.rimRefresh
  repeat' (first
    | (with_reducible intro x; first
        | (with_reducible refine Dev.Agree.have (cs := [0x70, 0xC0]) (fs := [.evt, .rim]) (a := d) (x := x) ?_ ?_; subst x; rotate_left 1; clear_value x; with_reducible intro _; rotate_right 1)
        | (with_reducible refine Dev.Agree.have (cs := [0x70, 0xC0]) (fs := [.evt, .rim]) (a := d) (x := x.2) ?_ ?_; subst x; rotate_left 1; clear_value x; with_reducible intro _; rotate_right 1)
        | clear_value x
        | skip)
    | with_reducible exact Dev.Agree.refl
    | with_reducible assumption
    | lift_lets -underBinder
    | with_reducible apply Dev.Agree.ite
    | (with_reducible apply Dev.Agree.put; decide; decide)
    | (with_reducible apply Dev.Agree.putBit; decide; decide)
    | (with_reducible apply Dev.Agree.inc; decide; decide)
    | (with_reducible apply Dev.Agree.step (Dev.raise_frame _ _ _ _ _); decide; decide)
    | with_reducible apply Dev.Agree.forN
    | (fail_if_no_progress with_reducible apply Dev.Agree.upd_rim; decide)
    | split)

theorem Dev.rimLatch_frame (d : Dev) (mask : Nat) (cause : Nat) : Dev.Agree [0x70, 0xC0] [.evt, .rim] d (Dev.rimLatch d mask cause) := by
  unfold Dev.rimLatch
  repeat' (first
    | (with_reducible intro x; first
        | (with_reducible refine Dev.Agree.have (cs := [0x70, 0xC0]) (fs := [.evt, .rim]) (a := d) (x := x) ?_ ?_; subst x; rotate_left 1; clear_value x; with_reducible intro _; rotate_right 1)
        | (with_reducible refine Dev.Agree.have (cs := [0x70, 0xC0]) (fs := [.evt, .rim]) (a := d) (x := x.2) ?_ ?_; subst x; rotate_left 1; clear_value x; with_reducible intro _; rotate_right 1)
        | clear_value x
        | skip)
    | with_reducible exact Dev.Agree.refl
    | with_reducible assumption
    | lift_lets -underBinder
    | with_reducible apply Dev.Agree.ite
    | (with_reducible apply Dev.Agree.step (Dev.raise_frame _ _ _ _ _); decide; decide)
    | (with_reducible apply Dev.Agree.step (Dev.rimRefresh_frame _ _); decide; decide)
    | with_reducible apply Dev.Agree.forL
    | (fail_if_no_progress with_reducible apply Dev.Agree.upd_rim; decide)
    | split)

theorem Dev.rimEval_frame (d : Dev) : Dev.Agree [0x70, 0xC0] [.evt, .rim] d (Dev.rimEval d) := by
  unfold Dev.rimEval
  repeat' (first
    | (with_reducible intro x; first
        | (with_reducible refine Dev.Agree.have (cs := [0x70, 0xC0]) (fs := [.evt, .rim]) (a := d) (x := x) ?_ ?_; subst x; rotate_left 1; clear_value x; with_reducible intro _; rotate_right 1)
        | (with_reducible refine Dev.Agree.have (cs := [0x70, 0xC0]) (fs := [.evt, .rim]) (a := d) (x := x.2) ?_ ?_; subst x; rotate_left 1; clear_value x; with_reducible intro _; rotate_right 1)
        | clear_value x
        | skip)
    | with_reducible exact Dev.Agree.refl
    | with_reducible assumption
    | lift_lets -underBinder
    | with_reducible apply Dev.Agree.ite
    | (with_reducible apply Dev.Agree.putBit; decide; decide)
    | (with_reducible apply Dev.Agree.inc; decide; decide)
    | (with_reducible apply Dev.Agree.step (Dev.rimLatch_frame _ _ _); decide; decide)
    | with_reducible apply Dev.Agree.forN
    | split)

theorem Dev.outputFault_frame (d : Dev) (j : Nat) : Dev.Agree [0x70, 0xC0] [.evt, .rim] d (Dev.outputFault d j) := by
  unfold Dev.outputFault
  repeat' (first
    | (with_reducible intro x; first
        | (with_reducible refine Dev.Agree.have (cs := [0x70, 0xC0]) (fs := [.evt, .rim]) (a := d) (x := x) ?_ ?_; subst x; rotate_left 1; clear_value x; with_reducible intro _; rotate_right 1)
        | (with_reducible refine Dev.Agree.have (cs := [0x70, 0xC0]) (fs := [.evt, .rim]) (a := d) (x := x.2) ?_ ?_; subst x; rotate_left 1; clear_value x; with_reducible intro _; rotate_right 1)
        | clear_value x
        | skip)
    | with_reducible exact Dev.Agree.refl
    | with_reducible assumption
    | lift_lets -underBinder
    | with_reducible apply Dev.Agree.ite
    | (with_reducible apply Dev.Agree.putBit; decide; decide)
    | (with_reducible apply Dev.Agree.step (Dev.rimLatch_frame _ _ _); decide; decide)
    | (fail_if_no_progress with_reducible apply Dev.Agree.upd_rim; decide)
    | split)

theorem Dev.rimPins_frame (d : Dev) : Dev.Agree [] [.rim] d (Dev.rimPins d) := by
  unfold Dev.rimPins
  repeat' (first
    | (with_reducible intro x; first
        | (with_reducible refine Dev.Agree.have (cs := []) (fs := [.rim]) (a := d) (x := x) ?_ ?_; subst x; rotate_left 1; clear_value x; with_reducible intro _; rotate_right 1)
        | (with_reducible refine Dev.Agree.have (cs := []) (fs := [.rim]) (a := d) (x := x.2) ?_ ?_; subst x; rotate_left 1; clear_value x; with_reducible intro _; rotate_right 1)
        | clear_value x
        | skip)
    | with_reducible exact Dev.Agree.refl
    | with_reducible assumption
    | lift_lets -underBinder
    | with_reducible apply Dev.Agree.ite
    | (fail_if_no_progress with_reducible apply Dev.Agree.upd_rim; decide)
    | split)

theorem Dev.rimStart_frame (d : Dev) : Dev.Agree [0x70, 0xC0] [.evt, .rim, .pins] d (Dev.rimStart d) := by
  unfold Dev.rimStart
  repeat' (first
    | (with_reducible intro x; first
        | (with_reducible refine Dev.Agree.have (cs := [0x70, 0xC0]) (fs := [.evt, .rim, .pins]) (a := d) (x := x) ?_ ?_; subst x; rotate_left 1; clear_value x; with_reducible intro _; rotate_right 1)
        | (with_reducible refine Dev.Agree.have (cs := [0x70, 0xC0]) (fs := [.evt, .rim, .pins]) (a := d) (x := x.2) ?_ ?_; subst x; rotate_left 1; clear_value x; with_reducible intro _; rotate_right 1)
        | clear_value x
        | skip)
    | with_reducible exact Dev.Agree.refl
    | with_reducible assumption
    | lift_lets -underBinder
    | with_reducible apply Dev.Agree.ite
    | (with_reducible apply Dev.Agree.put; decide; decide)
    | (with_reducible apply Dev.Agree.step (Dev.rimRefresh_frame _ _); decide; decide)
    | (with_reducible apply Dev.Agree.step (Dev.rimLatch_frame _ _ _); decide; decide)
    | (with_reducible apply Dev.Agree.step (Dev.rimEval_frame _); decide; decide)
    | (with_reducible apply Dev.Agree.step (Dev.rimPins_frame _); decide; decide)
    | (fail_if_no_progress with_reducible apply Dev.Agree.upd_rim; decide)
    | (fail_if_no_progress with_reducible apply Dev.Agree.upd_pins; decide)
    | (apply Dev.Agree.upd; (with_reducible assumption); exact Eq.refl _; intro f hf; cases f <;> first | exact absurd hf (by decide) | exact Eq.refl _)
    | (apply Dev.Agree.upd; (with_reducible exact Dev.Agree.refl); exact Eq.refl _; intro f hf; cases f <;> first | exact absurd hf (by decide) | exact Eq.refl _)
    | split)

theorem Dev.rimInput_frame (d : Dev) (c : Nat) (mv : Nat) : Dev.Agree [0x70, 0xC0] [.evt, .rim] d (Dev.rimInput d c mv) := by
  unfold Dev.rimInput
  repeat' (first
    | (with_reducible intro x; first
        | (with_reducible refine Dev.Agree.have (cs := [0x70, 0xC0]) (fs := [.evt, .rim]) (a := d) (x := x) ?_ ?_; subst x; rotate_left 1; clear_value x; with_reducible intro _; rotate_right 1)
        | (with_reducible refine Dev.Agree.have (cs := [0x70, 0xC0]) (fs := [.evt, .rim]) (a := d) (x := x.2) ?_ ?_; subst x; rotate_left 1; clear_value x; with_reducible intro _; rotate_right 1)
        | clear_value x
        | skip)
    | with_reducible exact Dev.Agree.refl
    | with_reducible assumption
    | lift_lets -underBinder
    | with_reducible apply Dev.Agree.ite
    | (with_reducible apply Dev.Agree.putBit; decide; decide)
    | (with_reducible apply Dev.Agree.inc; decide; decide)
    | (with_reducible apply Dev.Agree.step (Dev.rimEval_frame _); decide; decide)
    | (fail_if_no_progress with_reducible apply Dev.Agree.upd_rim; decide)
    | split)

theorem Dev.edmChange_frame (d : Dev) (k : Nat) : Dev.Agree [0x70, 0xC0] [.evt, .rim] d (Dev.edmChange d k) := by
  unfold Dev.edmChange
  repeat' (first
    | (with_reducible intro x; first
        | (with_reducible refine Dev.Agree.have (cs := [0x70, 0xC0]) (fs := [.evt, .rim]) (a := d) (x := x) ?_ ?_; subst x; rotate_left 1; clear_value x; with_reducible intro _; rotate_right 1)
        | (with_reducible refine Dev.Agree.have (cs := [0x70, 0xC0]) (fs := [.evt, .rim]) (a := d) (x := x.2) ?_ ?_; subst x; rotate_left 1; clear_value x; with_reducible intro _; rotate_right 1)
        | clear_value x
        | skip)
    | with_reducible exact Dev.Agree.refl
    | with_reducible assumption
    | lift_lets -underBinder
    | with_reducible apply Dev.Agree.ite
    | (with_reducible apply Dev.Agree.step (Dev.outputFault_frame _ _); decide; decide)
    | with_reducible apply Dev.Agree.forN
    | split)

theorem Dev.rimFiltered_frame (d : Dev) (c : Nat) : Dev.Agree [0x70, 0xC0] [.evt, .rim] d (Dev.rimFiltered d c) := by
  unfold Dev.rimFiltered
  repeat' (first
    | (with_reducible intro x; first
        | (with_reducible refine Dev.Agree.have (cs := [0x70, 0xC0]) (fs := [.evt, .rim]) (a := d) (x := x) ?_ ?_; subst x; rotate_left 1; clear_value x; with_reducible intro _; rotate_right 1)
        | (with_reducible refine Dev.Agree.have (cs := [0x70, 0xC0]) (fs := [.evt, .rim]) (a := d) (x := x.2) ?_ ?_; subst x; rotate_left 1; clear_value x; with_reducible intro _; rotate_right 1)
        | clear_value x
        | skip)
    | with_reducible exact Dev.Agree.refl
    | with_reducible assumption
    | lift_lets -underBinder
    | with_reducible apply Dev.Agree.ite
    | (with_reducible apply Dev.Agree.putBit; decide; decide)
    | (with_reducible apply Dev.Agree.step (Dev.rimEval_frame _); decide; decide)
    | (with_reducible apply Dev.Agree.step (Dev.edmChange_frame _ _); decide; decide)
    | (fail_if_no_progress with_reducible apply Dev.Agree.upd_rim; decide)
    | split)

theorem Dev.discrepancy_frame (d : Dev) (k : Nat) : Dev.Agree [0x70, 0xC0] [.evt, .rim] d (Dev.discrepancy d k) := by
  unfold Dev.discrepancy
  repeat' (first
    | (with_reducible intro x; first
        | (with_reducible refine Dev.Agree.have (cs := [0x70, 0xC0]) (fs := [.evt, .rim]) (a := d) (x := x) ?_ ?_; subst x; rotate_left 1; clear_value x; with_reducible intro _; rotate_right 1)
        | (with_reducible refine Dev.Agree.have (cs := [0x70, 0xC0]) (fs := [.evt, .rim]) (a := d) (x := x.2) ?_ ?_; subst x; rotate_left 1; clear_value x; with_reducible intro _; rotate_right 1)
        | clear_value x
        | skip)
    | with_reducible exact Dev.Agree.refl
    | with_reducible assumption
    | lift_lets -underBinder
    | with_reducible apply Dev.Agree.ite
    | (with_reducible apply Dev.Agree.putBit; decide; decide)
    | (with_reducible apply Dev.Agree.step (Dev.rimEval_frame _); decide; decide)
    | (fail_if_no_progress with_reducible apply Dev.Agree.upd_rim; decide)
    | split)

theorem Dev.testStart_frame (d : Dev) (m : Nat) : Dev.Agree [] [.rim, .pins] d (Dev.testStart d m) := by
  unfold Dev.testStart
  repeat' (first
    | (with_reducible intro x; first
        | (with_reducible refine Dev.Agree.have (cs := []) (fs := [.rim, .pins]) (a := d) (x := x) ?_ ?_; subst x; rotate_left 1; clear_value x; with_reducible intro _; rotate_right 1)
        | (with_reducible refine Dev.Agree.have (cs := []) (fs := [.rim, .pins]) (a := d) (x := x.2) ?_ ?_; subst x; rotate_left 1; clear_value x; with_reducible intro _; rotate_right 1)
        | clear_value x
        | skip)
    | with_reducible exact Dev.Agree.refl
    | with_reducible assumption
    | lift_lets -underBinder
    | with_reducible apply Dev.Agree.ite
    | (fail_if_no_progress with_reducible apply Dev.Agree.upd_rim; decide)
    | (fail_if_no_progress with_reducible apply Dev.Agree.upd_pins; decide)
    | (apply Dev.Agree.upd; (with_reducible assumption); exact Eq.refl _; intro f hf; cases f <;> first | exact absurd hf (by decide) | exact Eq.refl _)
    | (apply Dev.Agree.upd; (with_reducible exact Dev.Agree.refl); exact Eq.refl _; intro f hf; cases f <;> first | exact absurd hf (by decide) | exact Eq.refl _)
    | split)

theorem Dev.testEnd_frame (d : Dev) (m : Nat) : Dev.Agree [] [.pins] d (Dev.testEnd d m) := by
  unfold Dev.testEnd
  repeat' (first
    | (with_reducible intro x; first
        | (with_reducible refine Dev.Agree.have (cs := []) (fs := [.pins]) (a := d) (x := x) ?_ ?_; subst x; rotate_left 1; clear_value x; with_reducible intro _; rotate_right 1)
        | (with_reducible refine Dev.Agree.have (cs := []) (fs := [.pins]) (a := d) (x := x.2) ?_ ?_; subst x; rotate_left 1; clear_value x; with_reducible intro _; rotate_right 1)
        | clear_value x
        | skip)
    | with_reducible exact Dev.Agree.refl
    | with_reducible assumption
    | lift_lets -underBinder
    | with_reducible apply Dev.Agree.ite
    | (fail_if_no_progress with_reducible apply Dev.Agree.upd_pins; decide)
    | split)

theorem Dev.testDeadline_frame (d : Dev) : Dev.Agree [0x70, 0xC0] [.evt, .rim] d (Dev.testDeadline d) := by
  unfold Dev.testDeadline
  repeat' (first
    | (with_reducible intro x; first
        | (with_reducible refine Dev.Agree.have (cs := [0x70, 0xC0]) (fs := [.evt, .rim]) (a := d) (x := x) ?_ ?_; subst x; rotate_left 1; clear_value x; with_reducible intro _; rotate_right 1)
        | (with_reducible refine Dev.Agree.have (cs := [0x70, 0xC0]) (fs := [.evt, .rim]) (a := d) (x := x.2) ?_ ?_; subst x; rotate_left 1; clear_value x; with_reducible intro _; rotate_right 1)
        | clear_value x
        | skip)
    | with_reducible exact Dev.Agree.refl
    | with_reducible assumption
    | lift_lets -underBinder
    | with_reducible apply Dev.Agree.ite
    | (with_reducible apply Dev.Agree.putBit; decide; decide)
    | (with_reducible apply Dev.Agree.inc; decide; decide)
    | (with_reducible apply Dev.Agree.step (Dev.rimEval_frame _); decide; decide)
    | with_reducible apply Dev.Agree.forL
    | (fail_if_no_progress with_reducible apply Dev.Agree.upd_rim; decide)
    | split)

theorem Dev.testClose_frame (d : Dev) : Dev.Agree [0x70, 0xC0] [.evt, .rim] d (Dev.testClose d) := by
  unfold Dev.testClose
  repeat' (first
    | (with_reducible intro x; first
        | (with_reducible refine Dev.Agree.have (cs := [0x70, 0xC0]) (fs := [.evt, .rim]) (a := d) (x := x) ?_ ?_; subst x; rotate_left 1; clear_value x; with_reducible intro _; rotate_right 1)
        | (with_reducible refine Dev.Agree.have (cs := [0x70, 0xC0]) (fs := [.evt, .rim]) (a := d) (x := x.2) ?_ ?_; subst x; rotate_left 1; clear_value x; with_reducible intro _; rotate_right 1)
        | clear_value x
        | skip)
    | with_reducible exact Dev.Agree.refl
    | with_reducible assumption
    | lift_lets -underBinder
    | with_reducible apply Dev.Agree.ite
    | (with_reducible apply Dev.Agree.putBit; decide; decide)
    | (with_reducible apply Dev.Agree.inc; decide; decide)
    | (with_reducible apply Dev.Agree.step (Dev.rimEval_frame _); decide; decide)
    | with_reducible apply Dev.Agree.forL
    | (fail_if_no_progress with_reducible apply Dev.Agree.upd_rim; decide)
    | split)

theorem Dev.offTest_frame (d : Dev) (j : Nat) (ch : Nat) : Dev.Agree [] [.rim] d (Dev.offTest d j ch) := by
  unfold Dev.offTest
  repeat' (first
    | (with_reducible intro x; first
        | (with_reducible refine Dev.Agree.have (cs := []) (fs := [.rim]) (a := d) (x := x) ?_ ?_; subst x; rotate_left 1; clear_value x; with_reducible intro _; rotate_right 1)
        | (with_reducible refine Dev.Agree.have (cs := []) (fs := [.rim]) (a := d) (x := x.2) ?_ ?_; subst x; rotate_left 1; clear_value x; with_reducible intro _; rotate_right 1)
        | clear_value x
        | skip)
    | with_reducible exact Dev.Agree.refl
    | with_reducible assumption
    | lift_lets -underBinder
    | with_reducible apply Dev.Agree.ite
    | (fail_if_no_progress with_reducible apply Dev.Agree.upd_rim; decide)
    | split)

theorem Dev.offTestEnd_frame (d : Dev) (j : Nat) (ch : Nat) : Dev.Agree [0x70] [.rim] d (Dev.offTestEnd d j ch) := by
  unfold Dev.offTestEnd
  repeat' (first
    | (with_reducible intro x; first
        | (with_reducible refine Dev.Agree.have (cs := [0x70]) (fs := [.rim]) (a := d) (x := x) ?_ ?_; subst x; rotate_left 1; clear_value x; with_reducible intro _; rotate_right 1)
        | (with_reducible refine Dev.Agree.have (cs := [0x70]) (fs := [.rim]) (a := d) (x := x.2) ?_ ?_; subst x; rotate_left 1; clear_value x; with_reducible intro _; rotate_right 1)
        | clear_value x
        | skip)
    | with_reducible exact Dev.Agree.refl
    | with_reducible assumption
    | lift_lets -underBinder
    | with_reducible apply Dev.Agree.ite
    | (with_reducible apply Dev.Agree.putBit; decide; decide)
    | (with_reducible apply Dev.Agree.inc; decide; decide)
    | (fail_if_no_progress with_reducible apply Dev.Agree.upd_rim; decide)
    | split)

theorem Dev.readbackMismatch_frame (d : Dev) (j : Nat) (ch : Nat) : Dev.Agree [0x70, 0xC0] [.evt, .rim] d (Dev.readbackMismatch d j ch) := by
  unfold Dev.readbackMismatch
  repeat' (first
    | (with_reducible intro x; first
        | (with_reducible refine Dev.Agree.have (cs := [0x70, 0xC0]) (fs := [.evt, .rim]) (a := d) (x := x) ?_ ?_; subst x; rotate_left 1; clear_value x; with_reducible intro _; rotate_right 1)
        | (with_reducible refine Dev.Agree.have (cs := [0x70, 0xC0]) (fs := [.evt, .rim]) (a := d) (x := x.2) ?_ ?_; subst x; rotate_left 1; clear_value x; with_reducible intro _; rotate_right 1)
        | clear_value x
        | skip)
    | with_reducible exact Dev.Agree.refl
    | with_reducible assumption
    | lift_lets -underBinder
    | with_reducible apply Dev.Agree.ite
    | (with_reducible apply Dev.Agree.step (Dev.outputFault_frame _ _); decide; decide)
    | (fail_if_no_progress with_reducible apply Dev.Agree.upd_rim; decide)
    | split)

theorem Dev.edmTimeout_frame (d : Dev) (j : Nat) : Dev.Agree [0x70, 0xC0] [.evt, .rim] d (Dev.edmTimeout d j) := by
  unfold Dev.edmTimeout
  repeat' (first
    | (with_reducible intro x; first
        | (with_reducible refine Dev.Agree.have (cs := [0x70, 0xC0]) (fs := [.evt, .rim]) (a := d) (x := x) ?_ ?_; subst x; rotate_left 1; clear_value x; with_reducible intro _; rotate_right 1)
        | (with_reducible refine Dev.Agree.have (cs := [0x70, 0xC0]) (fs := [.evt, .rim]) (a := d) (x := x.2) ?_ ?_; subst x; rotate_left 1; clear_value x; with_reducible intro _; rotate_right 1)
        | clear_value x
        | skip)
    | with_reducible exact Dev.Agree.refl
    | with_reducible assumption
    | lift_lets -underBinder
    | with_reducible apply Dev.Agree.ite
    | (with_reducible apply Dev.Agree.step (Dev.outputFault_frame _ _); decide; decide)
    | (fail_if_no_progress with_reducible apply Dev.Agree.upd_rim; decide)
    | split)

theorem Dev.channelCompare_frame (d : Dev) (agree : Bool) : Dev.Agree [0x70, 0xC0] [.evt, .rim] d (Dev.channelCompare d agree) := by
  unfold Dev.channelCompare
  repeat' (first
    | (with_reducible intro x; first
        | (with_reducible refine Dev.Agree.have (cs := [0x70, 0xC0]) (fs := [.evt, .rim]) (a := d) (x := x) ?_ ?_; subst x; rotate_left 1; clear_value x; with_reducible intro _; rotate_right 1)
        | (with_reducible refine Dev.Agree.have (cs := [0x70, 0xC0]) (fs := [.evt, .rim]) (a := d) (x := x.2) ?_ ?_; subst x; rotate_left 1; clear_value x; with_reducible intro _; rotate_right 1)
        | clear_value x
        | skip)
    | with_reducible exact Dev.Agree.refl
    | with_reducible assumption
    | lift_lets -underBinder
    | with_reducible apply Dev.Agree.ite
    | (with_reducible apply Dev.Agree.step (Dev.rimLatch_frame _ _ _); decide; decide)
    | (with_reducible apply Dev.Agree.step (Dev.rimEval_frame _); decide; decide)
    | split)

theorem Dev.rimSupply_frame (d : Dev) : Dev.Agree [0x70, 0xC0] [.evt, .rim] d (Dev.rimSupply d) := by
  unfold Dev.rimSupply
  repeat' (first
    | (with_reducible intro x; first
        | (with_reducible refine Dev.Agree.have (cs := [0x70, 0xC0]) (fs := [.evt, .rim]) (a := d) (x := x) ?_ ?_; subst x; rotate_left 1; clear_value x; with_reducible intro _; rotate_right 1)
        | (with_reducible refine Dev.Agree.have (cs := [0x70, 0xC0]) (fs := [.evt, .rim]) (a := d) (x := x.2) ?_ ?_; subst x; rotate_left 1; clear_value x; with_reducible intro _; rotate_right 1)
        | clear_value x
        | skip)
    | with_reducible exact Dev.Agree.refl
    | with_reducible assumption
    | lift_lets -underBinder
    | with_reducible apply Dev.Agree.ite
    | (with_reducible apply Dev.Agree.step (Dev.rimLatch_frame _ _ _); decide; decide)
    | split)

theorem Dev.rstPress_frame (d : Dev) (released1s : Bool) : Dev.Agree [] [.rim] d (Dev.rstPress d released1s) := by
  unfold Dev.rstPress
  repeat' (first
    | (with_reducible intro x; first
        | (with_reducible refine Dev.Agree.have (cs := []) (fs := [.rim]) (a := d) (x := x) ?_ ?_; subst x; rotate_left 1; clear_value x; with_reducible intro _; rotate_right 1)
        | (with_reducible refine Dev.Agree.have (cs := []) (fs := [.rim]) (a := d) (x := x.2) ?_ ?_; subst x; rotate_left 1; clear_value x; with_reducible intro _; rotate_right 1)
        | clear_value x
        | skip)
    | with_reducible exact Dev.Agree.refl
    | with_reducible assumption
    | lift_lets -underBinder
    | with_reducible apply Dev.Agree.ite
    | (fail_if_no_progress with_reducible apply Dev.Agree.upd_rim; decide)
    | split)

theorem Dev.rstStuck_frame (d : Dev) : Dev.Agree [0xC0] [.evt, .rim] d (Dev.rstStuck d) := by
  unfold Dev.rstStuck
  repeat' (first
    | (with_reducible intro x; first
        | (with_reducible refine Dev.Agree.have (cs := [0xC0]) (fs := [.evt, .rim]) (a := d) (x := x) ?_ ?_; subst x; rotate_left 1; clear_value x; with_reducible intro _; rotate_right 1)
        | (with_reducible refine Dev.Agree.have (cs := [0xC0]) (fs := [.evt, .rim]) (a := d) (x := x.2) ?_ ?_; subst x; rotate_left 1; clear_value x; with_reducible intro _; rotate_right 1)
        | clear_value x
        | skip)
    | with_reducible exact Dev.Agree.refl
    | with_reducible assumption
    | lift_lets -underBinder
    | with_reducible apply Dev.Agree.ite
    | (with_reducible apply Dev.Agree.step (Dev.raise_frame _ _ _ _ _); decide; decide)
    | (fail_if_no_progress with_reducible apply Dev.Agree.upd_rim; decide)
    | split)

theorem Dev.rimActivate_frame (d : Dev) : Dev.Agree [0x70, 0xA0, 0xC0] [.evt, .rim, .lid] d (Dev.rimActivate d) := by
  unfold Dev.rimActivate
  repeat' (first
    | (with_reducible intro x; first
        | (with_reducible refine Dev.Agree.have (cs := [0x70, 0xA0, 0xC0]) (fs := [.evt, .rim, .lid]) (a := d) (x := x) ?_ ?_; subst x; rotate_left 1; clear_value x; with_reducible intro _; rotate_right 1)
        | (with_reducible refine Dev.Agree.have (cs := [0x70, 0xA0, 0xC0]) (fs := [.evt, .rim, .lid]) (a := d) (x := x.2) ?_ ?_; subst x; rotate_left 1; clear_value x; with_reducible intro _; rotate_right 1)
        | clear_value x
        | skip)
    | with_reducible exact Dev.Agree.refl
    | with_reducible assumption
    | lift_lets -underBinder
    | with_reducible apply Dev.Agree.ite
    | (with_reducible apply Dev.Agree.put; decide; decide)
    | (with_reducible apply Dev.Agree.putBit; decide; decide)
    | (with_reducible apply Dev.Agree.step (Dev.tallyExtend_frame _ _ _); decide; decide)
    | (with_reducible apply Dev.Agree.step (Dev.rimRefresh_frame _ _); decide; decide)
    | (with_reducible apply Dev.Agree.step (Dev.rimLatch_frame _ _ _); decide; decide)
    | (with_reducible apply Dev.Agree.step (Dev.rimEval_frame _); decide; decide)
    | (with_reducible apply Dev.Agree.step (Dev.rimPins_frame _); decide; decide)
    | with_reducible apply Dev.Agree.forN
    | (fail_if_no_progress with_reducible apply Dev.Agree.upd_rim; decide)
    | split)

theorem Dev.rimAct_frame (d : Dev) (railsOk : Bool) : Dev.Agree [0x70, 0xA0, 0xC0] [.evt, .rim, .lid] d (Dev.rimAct d railsOk) := by
  unfold Dev.rimAct
  repeat' (first
    | (with_reducible intro x; first
        | (with_reducible refine Dev.Agree.have (cs := [0x70, 0xA0, 0xC0]) (fs := [.evt, .rim, .lid]) (a := d) (x := x) ?_ ?_; subst x; rotate_left 1; clear_value x; with_reducible intro _; rotate_right 1)
        | (with_reducible refine Dev.Agree.have (cs := [0x70, 0xA0, 0xC0]) (fs := [.evt, .rim, .lid]) (a := d) (x := x.2) ?_ ?_; subst x; rotate_left 1; clear_value x; with_reducible intro _; rotate_right 1)
        | clear_value x
        | skip)
    | with_reducible exact Dev.Agree.refl
    | with_reducible assumption
    | lift_lets -underBinder
    | with_reducible apply Dev.Agree.ite
    | (with_reducible apply Dev.Agree.inc; decide; decide)
    | (with_reducible apply Dev.Agree.step (Dev.raise_frame _ _ _ _ _); decide; decide)
    | (with_reducible apply Dev.Agree.step (Dev.rimRefresh_frame _ _); decide; decide)
    | (with_reducible apply Dev.Agree.step (Dev.rimEval_frame _); decide; decide)
    | (with_reducible apply Dev.Agree.step (Dev.rimActivate_frame _); decide; decide)
    | (fail_if_no_progress with_reducible apply Dev.Agree.upd_rim; decide)
    | split)

theorem Dev.rstRelease_frame (d : Dev) (pressGap : Option Nat) (releaseGap : Option Nat) (railsOk : Bool) : Dev.Agree [0x70, 0xA0, 0xC0] [.evt, .rim, .lid] d (Dev.rstRelease d pressGap releaseGap railsOk) := by
  unfold Dev.rstRelease
  repeat' (first
    | (with_reducible intro x; first
        | (with_reducible refine Dev.Agree.have (cs := [0x70, 0xA0, 0xC0]) (fs := [.evt, .rim, .lid]) (a := d) (x := x) ?_ ?_; subst x; rotate_left 1; clear_value x; with_reducible intro _; rotate_right 1)
        | (with_reducible refine Dev.Agree.have (cs := [0x70, 0xA0, 0xC0]) (fs := [.evt, .rim, .lid]) (a := d) (x := x.2) ?_ ?_; subst x; rotate_left 1; clear_value x; with_reducible intro _; rotate_right 1)
        | clear_value x
        | skip)
    | with_reducible exact Dev.Agree.refl
    | with_reducible assumption
    | lift_lets -underBinder
    | with_reducible apply Dev.Agree.ite
    | (with_reducible apply Dev.Agree.inc; decide; decide)
    | (with_reducible apply Dev.Agree.step (Dev.raise_frame _ _ _ _ _); decide; decide)
    | (with_reducible apply Dev.Agree.step (Dev.rimAct_frame _ _); decide; decide)
    | (fail_if_no_progress with_reducible apply Dev.Agree.upd_rim; decide)
    | split)

theorem Dev.winRoutes_frame (d : Dev) (w : Nat) : Dev.Agree [0x20, 0x30, 0x31, 0x70, 0xC0] [.evt, .legs, .ports, .rim] d (Dev.winRoutes d w) := by
  unfold Dev.winRoutes
  repeat' (first
    | (with_reducible intro x; first
        | (with_reducible refine Dev.Agree.have (cs := [0x20, 0x30, 0x31, 0x70, 0xC0]) (fs := [.evt, .legs, .ports, .rim]) (a := d) (x := x) ?_ ?_; subst x; rotate_left 1; clear_value x; with_reducible intro _; rotate_right 1)
        | (with_reducible refine Dev.Agree.have (cs := [0x20, 0x30, 0x31, 0x70, 0xC0]) (fs := [.evt, .legs, .ports, .rim]) (a := d) (x := x.2) ?_ ?_; subst x; rotate_left 1; clear_value x; with_reducible intro _; rotate_right 1)
        | clear_value x
        | skip)
    | with_reducible exact Dev.Agree.refl
    | with_reducible assumption
    | lift_lets -underBinder
    | with_reducible apply Dev.Agree.ite
    | (with_reducible apply Dev.Agree.step (Dev.tripLegs_frame _ _ _); decide; decide)
    | (with_reducible apply Dev.Agree.step (Dev.rimEval_frame _); decide; decide)
    | split)

theorem Dev.winRecalc_frame (d : Dev) (w : Nat) (counts : optParam Bool true) : Dev.Agree [0x12, 0x20, 0x30, 0x31, 0x42, 0x70, 0xC0] [.evt, .mode, .legs, .ports, .arms, .weave, .rim] d (Dev.winRecalc d w counts) := by
  unfold Dev.winRecalc
  repeat' (first
    | (with_reducible intro x; first
        | (with_reducible refine Dev.Agree.have (cs := [0x12, 0x20, 0x30, 0x31, 0x42, 0x70, 0xC0]) (fs := [.evt, .mode, .legs, .ports, .arms, .weave, .rim]) (a := d) (x := x) ?_ ?_; subst x; rotate_left 1; clear_value x; with_reducible intro _; rotate_right 1)
        | (with_reducible refine Dev.Agree.have (cs := [0x12, 0x20, 0x30, 0x31, 0x42, 0x70, 0xC0]) (fs := [.evt, .mode, .legs, .ports, .arms, .weave, .rim]) (a := d) (x := x.2) ?_ ?_; subst x; rotate_left 1; clear_value x; with_reducible intro _; rotate_right 1)
        | clear_value x
        | skip)
    | with_reducible exact Dev.Agree.refl
    | with_reducible assumption
    | lift_lets -underBinder
    | with_reducible apply Dev.Agree.ite
    | (with_reducible apply Dev.Agree.put; decide; decide)
    | (with_reducible apply Dev.Agree.inc; decide; decide)
    | (with_reducible apply Dev.Agree.step (Dev.raise_frame _ _ _ _ _); decide; decide)
    | (with_reducible apply Dev.Agree.step (Dev.armBlock_frame _ _ _ _); decide; decide)
    | (with_reducible apply Dev.Agree.step (Dev.winRoutes_frame _ _); decide; decide)
    | with_reducible apply Dev.Agree.forL
    | split)

theorem Dev.winTerminates_frame (d : Dev) (w : Nat) (comp : Nat) : Dev.Agree [0x31, 0x60, 0x61, 0xC0] [.evt, .legs, .caps, .trigs, .weave] d (Dev.winTerminates d w comp) := by
  unfold Dev.winTerminates
  repeat' (first
    | (with_reducible intro x; first
        | (with_reducible refine Dev.Agree.have (cs := [0x31, 0x60, 0x61, 0xC0]) (fs := [.evt, .legs, .caps, .trigs, .weave]) (a := d) (x := x) ?_ ?_; subst x; rotate_left 1; clear_value x; with_reducible intro _; rotate_right 1)
        | (with_reducible refine Dev.Agree.have (cs := [0x31, 0x60, 0x61, 0xC0]) (fs := [.evt, .legs, .caps, .trigs, .weave]) (a := d) (x := x.2) ?_ ?_; subst x; rotate_left 1; clear_value x; with_reducible intro _; rotate_right 1)
        | clear_value x
        | skip)
    | with_reducible exact Dev.Agree.refl
    | with_reducible assumption
    | lift_lets -underBinder
    | with_reducible apply Dev.Agree.ite
    | (with_reducible apply Dev.Agree.step (Dev.legTerminate_frame _ _); decide; decide)
    | with_reducible apply Dev.Agree.forL
    | split)

theorem Dev.winChange_frame (d : Dev) (w comp : Nat) (active : Bool) : Dev.Agree [0x12, 0x20, 0x30, 0x31, 0x42, 0x60, 0x61, 0x70, 0xC0] [.evt, .mode, .legs, .ports, .caps, .trigs, .arms, .weave, .rim] d (Dev.winChange d w comp active) := by
  unfold Dev.winChange
  simp only
  refine Dev.Agree.ite (fun _ => Dev.Agree.refl) (fun _ => ?_)
  have h : ∀ st, Dev.Agree [0x12, 0x20, 0x30, 0x31, 0x42, 0x60, 0x61, 0x70, 0xC0] [.evt, .mode, .legs, .ports, .caps, .trigs, .arms, .weave, .rim] d ((d.put (winComp comp) w st).winRecalc w) := fun st =>
    Dev.Agree.step (Dev.winRecalc_frame _ _ _) (by decide) (by decide)
      (Dev.Agree.put (winComp_ok comp).1 (by rw [(winComp_ok comp).2]; decide) Dev.Agree.refl)
  refine Dev.Agree.ite (fun _ => ?_) (fun _ => h _)
  refine Dev.Agree.step (Dev.winTerminates_frame _ _ _) (by decide) (by decide) ?_
  exact Dev.Agree.step (Dev.windowTrig_frame _ _ _) (by decide) (by decide) (h _)

theorem Dev.winUndet_frame (d : Dev) (w : Nat) : Dev.Agree [0x42] [] d (Dev.winUndet d w) := by
  unfold Dev.winUndet
  repeat' (first
    | (with_reducible intro x; first
        | (with_reducible refine Dev.Agree.have (cs := [0x42]) (fs := []) (a := d) (x := x) ?_ ?_; subst x; rotate_left 1; clear_value x; with_reducible intro _; rotate_right 1)
        | (with_reducible refine Dev.Agree.have (cs := [0x42]) (fs := []) (a := d) (x := x.2) ?_ ?_; subst x; rotate_left 1; clear_value x; with_reducible intro _; rotate_right 1)
        | clear_value x
        | skip)
    | with_reducible exact Dev.Agree.refl
    | with_reducible assumption
    | lift_lets -underBinder
    | with_reducible apply Dev.Agree.ite
    | (with_reducible apply Dev.Agree.put; decide; decide)
    | split)

theorem Dev.winStart_frame (d : Dev) : Dev.Agree [0x12, 0x20, 0x30, 0x31, 0x42, 0x70, 0xC0] [.evt, .mode, .legs, .ports, .arms, .weave, .rim] d (Dev.winStart d) := by
  unfold Dev.winStart
  repeat' (first
    | (with_reducible intro x; first
        | (with_reducible refine Dev.Agree.have (cs := [0x12, 0x20, 0x30, 0x31, 0x42, 0x70, 0xC0]) (fs := [.evt, .mode, .legs, .ports, .arms, .weave, .rim]) (a := d) (x := x) ?_ ?_; subst x; rotate_left 1; clear_value x; with_reducible intro _; rotate_right 1)
        | (with_reducible refine Dev.Agree.have (cs := [0x12, 0x20, 0x30, 0x31, 0x42, 0x70, 0xC0]) (fs := [.evt, .mode, .legs, .ports, .arms, .weave, .rim]) (a := d) (x := x.2) ?_ ?_; subst x; rotate_left 1; clear_value x; with_reducible intro _; rotate_right 1)
        | clear_value x
        | skip)
    | with_reducible exact Dev.Agree.refl
    | with_reducible assumption
    | lift_lets -underBinder
    | with_reducible apply Dev.Agree.ite
    | (with_reducible apply Dev.Agree.step (Dev.winRecalc_frame _ _ _); decide; decide)
    | (with_reducible apply Dev.Agree.step (Dev.winUndet_frame _ _); decide; decide)
    | with_reducible apply Dev.Agree.forN
    | split)

theorem Dev.winModes_frame (d : Dev) (was : Nat → Nat) : Dev.Agree [0x12, 0x20, 0x30, 0x31, 0x42, 0x70, 0xC0] [.evt, .mode, .legs, .ports, .arms, .weave, .rim] d (Dev.winModes d was) := by
  unfold Dev.winModes
  repeat' (first
    | (with_reducible intro x; first
        | (with_reducible refine Dev.Agree.have (cs := [0x12, 0x20, 0x30, 0x31, 0x42, 0x70, 0xC0]) (fs := [.evt, .mode, .legs, .ports, .arms, .weave, .rim]) (a := d) (x := x) ?_ ?_; subst x; rotate_left 1; clear_value x; with_reducible intro _; rotate_right 1)
        | (with_reducible refine Dev.Agree.have (cs := [0x12, 0x20, 0x30, 0x31, 0x42, 0x70, 0xC0]) (fs := [.evt, .mode, .legs, .ports, .arms, .weave, .rim]) (a := d) (x := x.2) ?_ ?_; subst x; rotate_left 1; clear_value x; with_reducible intro _; rotate_right 1)
        | clear_value x
        | skip)
    | with_reducible exact Dev.Agree.refl
    | with_reducible assumption
    | lift_lets -underBinder
    | with_reducible apply Dev.Agree.ite
    | (with_reducible apply Dev.Agree.step (Dev.winRecalc_frame _ _ _); decide; decide)
    | (with_reducible apply Dev.Agree.step (Dev.winUndet_frame _ _); decide; decide)
    | with_reducible apply Dev.Agree.forN
    | split)

theorem no_frame (d : Dev) (st : Nat) : Dev.AgreeO [] [] d (no d st) := by
  unfold no
  repeat' (first
    | (with_reducible intro x; first
        | (with_reducible refine Dev.Agree.have (cs := []) (fs := []) (a := d) (x := x) ?_ ?_; subst x; rotate_left 1; clear_value x; with_reducible intro _; rotate_right 1)
        | (with_reducible refine Dev.Agree.have (cs := []) (fs := []) (a := d) (x := x.2) ?_ ?_; subst x; rotate_left 1; clear_value x; with_reducible intro _; rotate_right 1)
        | clear_value x
        | skip)
    | with_reducible exact Dev.AgreeO.none
    | with_reducible exact Dev.Agree.refl
    | with_reducible assumption
    | lift_lets -underBinder
    | with_reducible apply Dev.AgreeO.no
    | with_reducible apply Dev.AgreeO.did
    | with_reducible apply Dev.AgreeO.some
    | with_reducible apply Dev.AgreeO.ite
    | with_reducible apply Dev.Agree.ite
    | split)

theorem did_frame (d : Dev) : Dev.AgreeO [] [] d (did d) := by
  unfold did
  repeat' (first
    | (with_reducible intro x; first
        | (with_reducible refine Dev.Agree.have (cs := []) (fs := []) (a := d) (x := x) ?_ ?_; subst x; rotate_left 1; clear_value x; with_reducible intro _; rotate_right 1)
        | (with_reducible refine Dev.Agree.have (cs := []) (fs := []) (a := d) (x := x.2) ?_ ?_; subst x; rotate_left 1; clear_value x; with_reducible intro _; rotate_right 1)
        | clear_value x
        | skip)
    | with_reducible exact Dev.AgreeO.none
    | with_reducible exact Dev.Agree.refl
    | with_reducible assumption
    | lift_lets -underBinder
    | with_reducible apply Dev.AgreeO.no
    | with_reducible apply Dev.AgreeO.did
    | with_reducible apply Dev.AgreeO.some
    | with_reducible apply Dev.AgreeO.ite
    | with_reducible apply Dev.Agree.ite
    | split)

theorem Dev.wDev_frame (d : Dev) (session : Nat) (tag : Nat) (ts : Nat) (p : Par) (v : Nat) : Dev.AgreeO [0x90, 0x91, 0xC0] [.evt, .host, .tsets, .commits, .weave] d (Dev.wDev d session tag ts p v) := by
  unfold Dev.wDev
  repeat' (first
    | (with_reducible intro x; first
        | (with_reducible refine Dev.Agree.have (cs := [0x90, 0x91, 0xC0]) (fs := [.evt, .host, .tsets, .commits, .weave]) (a := d) (x := x) ?_ ?_; subst x; rotate_left 1; clear_value x; with_reducible intro _; rotate_right 1)
        | (with_reducible refine Dev.Agree.have (cs := [0x90, 0x91, 0xC0]) (fs := [.evt, .host, .tsets, .commits, .weave]) (a := d) (x := x.2) ?_ ?_; subst x; rotate_left 1; clear_value x; with_reducible intro _; rotate_right 1)
        | clear_value x
        | skip)
    | with_reducible exact Dev.AgreeO.none
    | with_reducible exact Dev.Agree.refl
    | with_reducible assumption
    | lift_lets -underBinder
    | with_reducible apply Dev.AgreeO.no
    | with_reducible apply Dev.AgreeO.did
    | with_reducible apply Dev.AgreeO.some
    | with_reducible apply Dev.AgreeO.ite
    | with_reducible apply Dev.Agree.ite
    | (with_reducible apply Dev.Agree.step (Dev.commitStart_frame _ _ _ _ _); decide; decide)
    | (with_reducible apply Dev.Agree.step (Dev.tblAbort_frame _ _); decide; decide)
    | (with_reducible apply Dev.AgreeO.step (no_frame _ _); decide; decide)
    | (with_reducible apply Dev.AgreeO.step (did_frame _); decide; decide)
    | split)

theorem Dev.wImage_frame (d : Dev) (p : Par) (i : Nat) (v : Nat) : Dev.AgreeO allGroups [.tsets] d (Dev.wImage d p i v) := by
  unfold Dev.wImage
  repeat' (first
    | (with_reducible intro x; first
        | (with_reducible refine Dev.Agree.have (cs := allGroups) (fs := [.tsets]) (a := d) (x := x) ?_ ?_; subst x; rotate_left 1; clear_value x; with_reducible intro _; rotate_right 1)
        | (with_reducible refine Dev.Agree.have (cs := allGroups) (fs := [.tsets]) (a := d) (x := x.2) ?_ ?_; subst x; rotate_left 1; clear_value x; with_reducible intro _; rotate_right 1)
        | clear_value x
        | skip)
    | with_reducible exact Dev.AgreeO.none
    | with_reducible exact Dev.Agree.refl
    | with_reducible assumption
    | lift_lets -underBinder
    | with_reducible apply Dev.AgreeO.no
    | with_reducible apply Dev.AgreeO.did
    | with_reducible apply Dev.AgreeO.some
    | with_reducible apply Dev.AgreeO.ite
    | with_reducible apply Dev.Agree.ite
    | (with_reducible apply Dev.Agree.put; decide; decide)
    | ((with_reducible apply Dev.Agree.put); (subst_vars; decide); (subst_vars; decide))
    | (with_reducible apply Dev.Agree.step (Dev.imgParWrite_frame _ _ _ _); decide; decide)
    | (with_reducible apply Dev.AgreeO.step (no_frame _ _); decide; decide)
    | (with_reducible apply Dev.AgreeO.step (did_frame _); decide; decide)
    | split)

theorem Dev.wSpoke_frame (d : Dev) (p : Par) (s : Nat) (v : Nat) (hp : p.small = true) (hg : List.contains [0x10] p.group = true) : Dev.AgreeO [0x10, 0xC0] [.evt, .spokes, .cells] d (Dev.wSpoke d p s v) := by
  unfold Dev.wSpoke
  repeat' (first
    | (with_reducible intro x; first
        | (with_reducible refine Dev.Agree.have (cs := [0x10, 0xC0]) (fs := [.evt, .spokes, .cells]) (a := d) (x := x) ?_ ?_; subst x; rotate_left 1; clear_value x; with_reducible intro _; rotate_right 1)
        | (with_reducible refine Dev.Agree.have (cs := [0x10, 0xC0]) (fs := [.evt, .spokes, .cells]) (a := d) (x := x.2) ?_ ?_; subst x; rotate_left 1; clear_value x; with_reducible intro _; rotate_right 1)
        | clear_value x
        | skip)
    | with_reducible exact Dev.AgreeO.none
    | with_reducible exact Dev.Agree.refl
    | with_reducible assumption
    | lift_lets -underBinder
    | with_reducible apply Dev.AgreeO.no
    | with_reducible apply Dev.AgreeO.did
    | with_reducible apply Dev.AgreeO.some
    | with_reducible apply Dev.AgreeO.ite
    | with_reducible apply Dev.Agree.ite
    | (with_reducible apply Dev.Agree.put; decide; decide)
    | ((with_reducible apply Dev.Agree.put); exact hp; exact within_has hg (by decide))
    | (with_reducible apply Dev.Agree.step (Dev.discStart_frame _ _); decide; decide)
    | (with_reducible apply Dev.Agree.step (Dev.ringReset_frame _ _); decide; decide)
    | (with_reducible apply Dev.Agree.step (Dev.ringUnblock_frame _ _ _); decide; decide)
    | (with_reducible apply Dev.AgreeO.step (no_frame _ _); decide; decide)
    | (with_reducible apply Dev.AgreeO.step (did_frame _); decide; decide)
    | split)

theorem Dev.wCell_frame (d : Dev) (p : Par) (c : Nat) (v : Nat) (hp : p.small = true) (hg : List.contains [0x11] p.group = true) : Dev.AgreeO [0x11, 0x12, 0xC0] [.evt, .cells] d (Dev.wCell d p c v) := by
  unfold Dev.wCell
  repeat' (first
    | (with_reducible intro x; first
        | (with_reducible refine Dev.Agree.have (cs := [0x11, 0x12, 0xC0]) (fs := [.evt, .cells]) (a := d) (x := x) ?_ ?_; subst x; rotate_left 1; clear_value x; with_reducible intro _; rotate_right 1)
        | (with_reducible refine Dev.Agree.have (cs := [0x11, 0x12, 0xC0]) (fs := [.evt, .cells]) (a := d) (x := x.2) ?_ ?_; subst x; rotate_left 1; clear_value x; with_reducible intro _; rotate_right 1)
        | clear_value x
        | skip)
    | with_reducible exact Dev.AgreeO.none
    | with_reducible exact Dev.Agree.refl
    | with_reducible assumption
    | lift_lets -underBinder
    | with_reducible apply Dev.AgreeO.no
    | with_reducible apply Dev.AgreeO.did
    | with_reducible apply Dev.AgreeO.some
    | with_reducible apply Dev.AgreeO.ite
    | with_reducible apply Dev.Agree.ite
    | (with_reducible apply Dev.Agree.put; decide; decide)
    | ((with_reducible apply Dev.Agree.put); exact hp; exact within_has hg (by decide))
    | (with_reducible apply Dev.Agree.step (Dev.setCell_frame _ _ _); decide; decide)
    | (with_reducible apply Dev.Agree.step (Dev.selectBypass_frame _ _); decide; decide)
    | (with_reducible apply Dev.Agree.step (Dev.identityCheck_frame _ _); decide; decide)
    | (with_reducible apply Dev.AgreeO.step (no_frame _ _); decide; decide)
    | (with_reducible apply Dev.AgreeO.step (did_frame _); decide; decide)
    | split)

theorem Dev.wArm_frame (d : Dev) (p : Par) (j : Nat) (v : Nat) (hp : p.small = true) (hg : List.contains [0x12] p.group = true) : Dev.AgreeO [0x12] [.arms] d (Dev.wArm d p j v) := by
  unfold Dev.wArm
  repeat' (first
    | (with_reducible intro x; first
        | (with_reducible refine Dev.Agree.have (cs := [0x12]) (fs := [.arms]) (a := d) (x := x) ?_ ?_; subst x; rotate_left 1; clear_value x; with_reducible intro _; rotate_right 1)
        | (with_reducible refine Dev.Agree.have (cs := [0x12]) (fs := [.arms]) (a := d) (x := x.2) ?_ ?_; subst x; rotate_left 1; clear_value x; with_reducible intro _; rotate_right 1)
        | clear_value x
        | skip)
    | with_reducible exact Dev.AgreeO.none
    | with_reducible exact Dev.Agree.refl
    | with_reducible assumption
    | lift_lets -underBinder
    | with_reducible apply Dev.AgreeO.no
    | with_reducible apply Dev.AgreeO.did
    | with_reducible apply Dev.AgreeO.some
    | with_reducible apply Dev.AgreeO.ite
    | with_reducible apply Dev.Agree.ite
    | (with_reducible apply Dev.Agree.put; decide; decide)
    | ((with_reducible apply Dev.Agree.put); exact hp; exact within_has hg (by decide))
    | (with_reducible apply Dev.Agree.step (Dev.armBlockClear_frame _ _); decide; decide)
    | (with_reducible apply Dev.Agree.step (Dev.countBypassed_frame _ _); decide; decide)
    | (with_reducible apply Dev.AgreeO.step (no_frame _ _); decide; decide)
    | (with_reducible apply Dev.AgreeO.step (did_frame _); decide; decide)
    | split)

theorem Dev.wCtx_frame (d : Dev) (p : Par) (c : Nat) (v : Nat) : Dev.AgreeO [] [.ctxs] d (Dev.wCtx d p c v) := by
  unfold Dev.wCtx
  repeat' (first
    | (with_reducible intro x; first
        | (with_reducible refine Dev.Agree.have (cs := []) (fs := [.ctxs]) (a := d) (x := x) ?_ ?_; subst x; rotate_left 1; clear_value x; with_reducible intro _; rotate_right 1)
        | (with_reducible refine Dev.Agree.have (cs := []) (fs := [.ctxs]) (a := d) (x := x.2) ?_ ?_; subst x; rotate_left 1; clear_value x; with_reducible intro _; rotate_right 1)
        | clear_value x
        | skip)
    | with_reducible exact Dev.AgreeO.none
    | with_reducible exact Dev.Agree.refl
    | with_reducible assumption
    | lift_lets -underBinder
    | with_reducible apply Dev.AgreeO.no
    | with_reducible apply Dev.AgreeO.did
    | with_reducible apply Dev.AgreeO.some
    | with_reducible apply Dev.AgreeO.ite
    | with_reducible apply Dev.Agree.ite
    | (with_reducible apply Dev.Agree.step (Dev.setCtx_frame _ _ _); decide; decide)
    | (with_reducible apply Dev.AgreeO.step (no_frame _ _); decide; decide)
    | (with_reducible apply Dev.AgreeO.step (did_frame _); decide; decide)
    | split)

theorem Dev.wGrid_frame (d : Dev) (p : Par) (g : Nat) (v : W64) (hp : p.small = true) (hg : List.contains [0x21] p.group = true) : Dev.AgreeO [0x21] [.grids] d (Dev.wGrid d p g v) := by
  unfold Dev.wGrid
  repeat' (first
    | (with_reducible intro x; first
        | (with_reducible refine Dev.Agree.have (cs := [0x21]) (fs := [.grids]) (a := d) (x := x) ?_ ?_; subst x; rotate_left 1; clear_value x; with_reducible intro _; rotate_right 1)
        | (with_reducible refine Dev.Agree.have (cs := [0x21]) (fs := [.grids]) (a := d) (x := x.2) ?_ ?_; subst x; rotate_left 1; clear_value x; with_reducible intro _; rotate_right 1)
        | clear_value x
        | skip)
    | with_reducible exact Dev.AgreeO.none
    | with_reducible exact Dev.Agree.refl
    | with_reducible assumption
    | lift_lets -underBinder
    | with_reducible apply Dev.AgreeO.no
    | with_reducible apply Dev.AgreeO.did
    | with_reducible apply Dev.AgreeO.some
    | with_reducible apply Dev.AgreeO.ite
    | with_reducible apply Dev.Agree.ite
    | (with_reducible apply Dev.Agree.put; decide; decide)
    | ((with_reducible apply Dev.Agree.put); exact hp; exact within_has hg (by decide))
    | (with_reducible apply Dev.Agree.step (Dev.gridFreqInit_frame _ _); decide; decide)
    | (with_reducible apply Dev.Agree.step (Dev.gridTarget_frame _ _ _ _ hp hg); decide; decide)
    | (with_reducible apply Dev.AgreeO.step (no_frame _ _); decide; decide)
    | (with_reducible apply Dev.AgreeO.step (did_frame _); decide; decide)
    | split)

theorem Dev.wIsld_frame (d : Dev) (ts : Nat) (p : Par) (g : Nat) (v : W64) (hp : p.small = true) (hg : List.contains [0x22] p.group = true) : Dev.AgreeO [0x22, 0xC0] [.evt, .isls] d (Dev.wIsld d ts p g v) := by
  unfold Dev.wIsld
  repeat' (first
    | (with_reducible intro x; first
        | (with_reducible refine Dev.Agree.have (cs := [0x22, 0xC0]) (fs := [.evt, .isls]) (a := d) (x := x) ?_ ?_; subst x; rotate_left 1; clear_value x; with_reducible intro _; rotate_right 1)
        | (with_reducible refine Dev.Agree.have (cs := [0x22, 0xC0]) (fs := [.evt, .isls]) (a := d) (x := x.2) ?_ ?_; subst x; rotate_left 1; clear_value x; with_reducible intro _; rotate_right 1)
        | clear_value x
        | skip)
    | with_reducible exact Dev.AgreeO.none
    | with_reducible exact Dev.Agree.refl
    | with_reducible assumption
    | lift_lets -underBinder
    | with_reducible apply Dev.AgreeO.no
    | with_reducible apply Dev.AgreeO.did
    | with_reducible apply Dev.AgreeO.some
    | with_reducible apply Dev.AgreeO.ite
    | with_reducible apply Dev.Agree.ite
    | (with_reducible apply Dev.Agree.put; decide; decide)
    | ((with_reducible apply Dev.Agree.put); exact hp; exact within_has hg (by decide))
    | (with_reducible apply Dev.Agree.step (Dev.isldReset_frame _ _); decide; decide)
    | (with_reducible apply Dev.Agree.step (Dev.svEval_frame _ _); decide; decide)
    | (with_reducible apply Dev.Agree.step (Dev.clashEval_frame _); decide; decide)
    | (with_reducible apply Dev.AgreeO.step (no_frame _ _); decide; decide)
    | (with_reducible apply Dev.AgreeO.step (did_frame _); decide; decide)
    | split)

theorem Dev.wPort_frame (d : Dev) (p : Par) (q : Nat) (v : W64) (hp : p.small = true) (hg : List.contains [0x30] p.group = true) : Dev.AgreeO [0x20, 0x30, 0x31, 0xC0] [.evt, .legs, .ports] d (Dev.wPort d p q v) := by
  unfold Dev.wPort
  repeat' (first
    | (with_reducible intro x; first
        | (with_reducible refine Dev.Agree.have (cs := [0x20, 0x30, 0x31, 0xC0]) (fs := [.evt, .legs, .ports]) (a := d) (x := x) ?_ ?_; subst x; rotate_left 1; clear_value x; with_reducible intro _; rotate_right 1)
        | (with_reducible refine Dev.Agree.have (cs := [0x20, 0x30, 0x31, 0xC0]) (fs := [.evt, .legs, .ports]) (a := d) (x := x.2) ?_ ?_; subst x; rotate_left 1; clear_value x; with_reducible intro _; rotate_right 1)
        | clear_value x
        | skip)
    | with_reducible exact Dev.AgreeO.none
    | with_reducible exact Dev.Agree.refl
    | with_reducible assumption
    | lift_lets -underBinder
    | with_reducible apply Dev.AgreeO.no
    | with_reducible apply Dev.AgreeO.did
    | with_reducible apply Dev.AgreeO.some
    | with_reducible apply Dev.AgreeO.ite
    | with_reducible apply Dev.Agree.ite
    | (with_reducible apply Dev.Agree.putF; decide; decide)
    | ((with_reducible apply Dev.Agree.putF); exact hp; exact within_has hg (by decide))
    | (with_reducible apply Dev.Agree.step (Dev.portDue_frame _ _); decide; decide)
    | (with_reducible apply Dev.Agree.step (Dev.socSet_frame _ _ _); decide; decide)
    | (with_reducible apply Dev.Agree.step (Dev.pSetWrite_frame _ _ _); decide; decide)
    | (with_reducible apply Dev.Agree.step (Dev.burstAbort_frame _ _); decide; decide)
    | (with_reducible apply Dev.Agree.step (Dev.portRelease_frame _ _ _); decide; decide)
    | (with_reducible apply Dev.AgreeO.step (no_frame _ _); decide; decide)
    | (with_reducible apply Dev.AgreeO.step (did_frame _); decide; decide)
    | split)

theorem Dev.burstReqWrite_frame (d : Dev) (q : Nat) (f : F32) : Dev.Agree [0x30] [.ports] d (Dev.burstReqWrite d q f).2.2 := by
  unfold Dev.burstReqWrite
  repeat' (first
    | (with_reducible intro x; first
        | (with_reducible refine Dev.Agree.have (cs := [0x30]) (fs := [.ports]) (a := d) (x := x) ?_ ?_; subst x; rotate_left 1; clear_value x; with_reducible intro _; rotate_right 1)
        | (with_reducible refine Dev.Agree.have (cs := [0x30]) (fs := [.ports]) (a := d) (x := x.2) ?_ ?_; subst x; rotate_left 1; clear_value x; with_reducible intro _; rotate_right 1)
        | clear_value x
        | skip)
    | with_reducible exact Dev.Agree.refl
    | with_reducible assumption
    | lift_lets -underBinder
    | with_reducible apply Dev.Agree.ite
    | split
    | (with_reducible apply Dev.Agree.putF; decide; decide)
    | (with_reducible apply Dev.Agree.step (Dev.setPort_frame _ _ _); decide; decide))

theorem Dev.wLeg_frame (d : Dev) (p : Par) (n : Nat) (v : Nat) : Dev.AgreeO [0x20, 0x30, 0x31, 0xC0] [.evt, .legs, .ports] d (Dev.wLeg d p n v) := by
  unfold Dev.wLeg
  repeat' (first
    | (with_reducible intro x; first
        | (with_reducible refine Dev.Agree.have (cs := [0x20, 0x30, 0x31, 0xC0]) (fs := [.evt, .legs, .ports]) (a := d) (x := x) ?_ ?_; subst x; rotate_left 1; clear_value x; with_reducible intro _; rotate_right 1)
        | (with_reducible refine Dev.Agree.have (cs := [0x20, 0x30, 0x31, 0xC0]) (fs := [.evt, .legs, .ports]) (a := d) (x := x.2) ?_ ?_; subst x; rotate_left 1; clear_value x; with_reducible intro _; rotate_right 1)
        | clear_value x
        | skip)
    | with_reducible exact Dev.AgreeO.none
    | with_reducible exact Dev.Agree.refl
    | with_reducible assumption
    | lift_lets -underBinder
    | with_reducible apply Dev.AgreeO.no
    | with_reducible apply Dev.AgreeO.did
    | with_reducible apply Dev.AgreeO.some
    | with_reducible apply Dev.AgreeO.ite
    | with_reducible apply Dev.Agree.ite
    | (with_reducible apply Dev.Agree.step (Dev.legClear_frame _ _); decide; decide)
    | (with_reducible apply Dev.AgreeO.step (no_frame _ _); decide; decide)
    | (with_reducible apply Dev.AgreeO.step (did_frame _); decide; decide)
    | split)

theorem Dev.wAnalog_frame (d : Dev) (ts : Nat) (p : Par) (i : Nat) (v : Nat) (hp : p.small = true) (hg : List.contains [0x40, 0x41, 0x42] p.group = true) : Dev.AgreeO [0x12, 0x20, 0x30, 0x31, 0x40, 0x41, 0x42, 0x70, 0xC0] [.evt, .mode, .legs, .ports, .arms, .adcs, .sdis, .wins, .weave, .rim] d (Dev.wAnalog d ts p i v) := by
  unfold Dev.wAnalog
  repeat' (first
    | (with_reducible intro x; first
        | (with_reducible refine Dev.Agree.have (cs := [0x12, 0x20, 0x30, 0x31, 0x40, 0x41, 0x42, 0x70, 0xC0]) (fs := [.evt, .mode, .legs, .ports, .arms, .adcs, .sdis, .wins, .weave, .rim]) (a := d) (x := x) ?_ ?_; subst x; rotate_left 1; clear_value x; with_reducible intro _; rotate_right 1)
        | (with_reducible refine Dev.Agree.have (cs := [0x12, 0x20, 0x30, 0x31, 0x40, 0x41, 0x42, 0x70, 0xC0]) (fs := [.evt, .mode, .legs, .ports, .arms, .adcs, .sdis, .wins, .weave, .rim]) (a := d) (x := x.2) ?_ ?_; subst x; rotate_left 1; clear_value x; with_reducible intro _; rotate_right 1)
        | clear_value x
        | skip)
    | with_reducible exact Dev.AgreeO.none
    | with_reducible exact Dev.Agree.refl
    | with_reducible assumption
    | lift_lets -underBinder
    | with_reducible apply Dev.AgreeO.no
    | with_reducible apply Dev.AgreeO.did
    | with_reducible apply Dev.AgreeO.some
    | with_reducible apply Dev.AgreeO.ite
    | with_reducible apply Dev.Agree.ite
    | (with_reducible apply Dev.Agree.put; decide; decide)
    | ((with_reducible apply Dev.Agree.put); exact hp; exact within_has hg (by decide))
    | (with_reducible apply Dev.Agree.step (Dev.adcCalStart_frame _ _); decide; decide)
    | (with_reducible apply Dev.Agree.step (Dev.sdiRestart_frame _ _); decide; decide)
    | (with_reducible apply Dev.Agree.step (Dev.readbackStart_frame _ _ _); decide; decide)
    | (with_reducible apply Dev.Agree.step (Dev.winRecalc_frame _ _ _); decide; decide)
    | (with_reducible apply Dev.Agree.step (Dev.winModes_frame _ _); decide; decide)
    | (with_reducible apply Dev.AgreeO.step (no_frame _ _); decide; decide)
    | (with_reducible apply Dev.AgreeO.step (did_frame _); decide; decide)
    | split)

theorem Dev.wMetr_frame (d : Dev) (p : Par) (e : Nat) (v : Nat) (hp : p.small = true) (hg : List.contains [0x50] p.group = true) : Dev.AgreeO [0x50] [.met] d (Dev.wMetr d p e v) := by
  unfold Dev.wMetr
  repeat' (first
    | (with_reducible intro x; first
        | (with_reducible refine Dev.Agree.have (cs := [0x50]) (fs := [.met]) (a := d) (x := x) ?_ ?_; subst x; rotate_left 1; clear_value x; with_reducible intro _; rotate_right 1)
        | (with_reducible refine Dev.Agree.have (cs := [0x50]) (fs := [.met]) (a := d) (x := x.2) ?_ ?_; subst x; rotate_left 1; clear_value x; with_reducible intro _; rotate_right 1)
        | clear_value x
        | skip)
    | with_reducible exact Dev.AgreeO.none
    | with_reducible exact Dev.Agree.refl
    | with_reducible assumption
    | lift_lets -underBinder
    | with_reducible apply Dev.AgreeO.no
    | with_reducible apply Dev.AgreeO.did
    | with_reducible apply Dev.AgreeO.some
    | with_reducible apply Dev.AgreeO.ite
    | with_reducible apply Dev.Agree.ite
    | (with_reducible apply Dev.Agree.put; decide; decide)
    | ((with_reducible apply Dev.Agree.put); exact hp; exact within_has hg (by decide))
    | (with_reducible apply Dev.Agree.step (Dev.setMet1_frame _ _ _); decide; decide)
    | (with_reducible apply Dev.AgreeO.step (did_frame _); decide; decide)
    | split)

theorem Dev.wCap_frame (d : Dev) (ts : Nat) (p : Par) (n : Nat) (v : Nat) : Dev.AgreeO [0x60, 0xC0] [.evt, .caps] d (Dev.wCap d ts p n v) := by
  unfold Dev.wCap
  repeat' (first
    | (with_reducible intro x; first
        | (with_reducible refine Dev.Agree.have (cs := [0x60, 0xC0]) (fs := [.evt, .caps]) (a := d) (x := x) ?_ ?_; subst x; rotate_left 1; clear_value x; with_reducible intro _; rotate_right 1)
        | (with_reducible refine Dev.Agree.have (cs := [0x60, 0xC0]) (fs := [.evt, .caps]) (a := d) (x := x.2) ?_ ?_; subst x; rotate_left 1; clear_value x; with_reducible intro _; rotate_right 1)
        | clear_value x
        | skip)
    | with_reducible exact Dev.AgreeO.none
    | with_reducible exact Dev.Agree.refl
    | with_reducible assumption
    | lift_lets -underBinder
    | with_reducible apply Dev.AgreeO.no
    | with_reducible apply Dev.AgreeO.did
    | with_reducible apply Dev.AgreeO.some
    | with_reducible apply Dev.AgreeO.ite
    | with_reducible apply Dev.Agree.ite
    | (with_reducible apply Dev.Agree.put; decide; decide)
    | ((with_reducible apply Dev.Agree.put); (subst_vars; decide); (subst_vars; decide))
    | (with_reducible apply Dev.Agree.step (Dev.startStream_frame _ _ _); decide; decide)
    | (with_reducible apply Dev.Agree.step (Dev.capIdle_frame _ _); decide; decide)
    | (with_reducible apply Dev.Agree.step (Dev.stopStream_frame _ _); decide; decide)
    | (with_reducible apply Dev.AgreeO.step (no_frame _ _); decide; decide)
    | (with_reducible apply Dev.AgreeO.step (did_frame _); decide; decide)
    | split)

theorem Dev.wTrig_frame (d : Dev) (p : Par) (n : Nat) (v : Nat) : Dev.AgreeO [0x61] [.trigs, .weave] d (Dev.wTrig d p n v) := by
  unfold Dev.wTrig
  repeat' (first
    | (with_reducible intro x; first
        | (with_reducible refine Dev.Agree.have (cs := [0x61]) (fs := [.trigs, .weave]) (a := d) (x := x) ?_ ?_; subst x; rotate_left 1; clear_value x; with_reducible intro _; rotate_right 1)
        | (with_reducible refine Dev.Agree.have (cs := [0x61]) (fs := [.trigs, .weave]) (a := d) (x := x.2) ?_ ?_; subst x; rotate_left 1; clear_value x; with_reducible intro _; rotate_right 1)
        | clear_value x
        | skip)
    | with_reducible exact Dev.AgreeO.none
    | with_reducible exact Dev.Agree.refl
    | with_reducible assumption
    | lift_lets -underBinder
    | with_reducible apply Dev.AgreeO.no
    | with_reducible apply Dev.AgreeO.did
    | with_reducible apply Dev.AgreeO.some
    | with_reducible apply Dev.AgreeO.ite
    | with_reducible apply Dev.Agree.ite
    | (with_reducible apply Dev.Agree.step (Dev.weavePut_frame _ _ _ _ _); decide; decide)
    | (with_reducible apply Dev.Agree.step (Dev.setTrig_frame _ _ _); decide; decide)
    | (with_reducible apply Dev.Agree.step (Dev.trigArm_frame _ _ _ _); decide; decide)
    | (with_reducible apply Dev.AgreeO.step (no_frame _ _); decide; decide)
    | (with_reducible apply Dev.AgreeO.step (did_frame _); decide; decide)
    | split)

theorem Dev.wWeave_frame (d : Dev) (p : Par) (v : W64) (hp : p.small = true) (hg : List.contains [0x80] p.group = true) : Dev.AgreeO [0x80] [.weave] d (Dev.wWeave d p v) := by
  unfold Dev.wWeave
  repeat' (first
    | (with_reducible intro x; first
        | (with_reducible refine Dev.Agree.have (cs := [0x80]) (fs := [.weave]) (a := d) (x := x) ?_ ?_; subst x; rotate_left 1; clear_value x; with_reducible intro _; rotate_right 1)
        | (with_reducible refine Dev.Agree.have (cs := [0x80]) (fs := [.weave]) (a := d) (x := x.2) ?_ ?_; subst x; rotate_left 1; clear_value x; with_reducible intro _; rotate_right 1)
        | clear_value x
        | skip)
    | with_reducible exact Dev.AgreeO.none
    | with_reducible exact Dev.Agree.refl
    | with_reducible assumption
    | lift_lets -underBinder
    | with_reducible apply Dev.AgreeO.no
    | with_reducible apply Dev.AgreeO.did
    | with_reducible apply Dev.AgreeO.some
    | with_reducible apply Dev.AgreeO.ite
    | with_reducible apply Dev.Agree.ite
    | (with_reducible apply Dev.Agree.put; decide; decide)
    | ((with_reducible apply Dev.Agree.put); exact hp; exact within_has hg (by decide))
    | (with_reducible apply Dev.Agree.step (Dev.setWport_frame _ _ _); decide; decide)
    | (with_reducible apply Dev.Agree.step (Dev.tokenGive_frame _); decide; decide)
    | (with_reducible apply Dev.AgreeO.step (no_frame _ _); decide; decide)
    | (with_reducible apply Dev.AgreeO.step (did_frame _); decide; decide)
    | (fail_if_no_progress with_reducible apply Dev.Agree.upd_weave; decide)
    | split)

theorem Dev.wLink_frame (d : Dev) (p : Par) (i : Nat) (v : Nat) : Dev.AgreeO [0x90] [.host] d (Dev.wLink d p i v) := by
  unfold Dev.wLink
  repeat' (first
    | (with_reducible intro x; first
        | (with_reducible refine Dev.Agree.have (cs := [0x90]) (fs := [.host]) (a := d) (x := x) ?_ ?_; subst x; rotate_left 1; clear_value x; with_reducible intro _; rotate_right 1)
        | (with_reducible refine Dev.Agree.have (cs := [0x90]) (fs := [.host]) (a := d) (x := x.2) ?_ ?_; subst x; rotate_left 1; clear_value x; with_reducible intro _; rotate_right 1)
        | clear_value x
        | skip)
    | with_reducible exact Dev.AgreeO.none
    | with_reducible exact Dev.Agree.refl
    | with_reducible assumption
    | lift_lets -underBinder
    | with_reducible apply Dev.AgreeO.no
    | with_reducible apply Dev.AgreeO.did
    | with_reducible apply Dev.AgreeO.some
    | with_reducible apply Dev.AgreeO.ite
    | with_reducible apply Dev.Agree.ite
    | (with_reducible apply Dev.Agree.put; decide; decide)
    | ((with_reducible apply Dev.Agree.put); (subst_vars; decide); (subst_vars; decide))
    | (with_reducible apply Dev.AgreeO.step (did_frame _); decide; decide)
    | (fail_if_no_progress with_reducible apply Dev.Agree.upd_host; decide)
    | split)

theorem Dev.ringEmpty_frame (d : Dev) (n : Nat) : Dev.Agree [0x91] [.host] d (Dev.ringEmpty d n) := by
  unfold Dev.ringEmpty
  repeat' (first
    | (with_reducible intro x; first
        | (with_reducible refine Dev.Agree.have (cs := [0x91]) (fs := [.host]) (a := d) (x := x) ?_ ?_; subst x; rotate_left 1; clear_value x; with_reducible intro _; rotate_right 1)
        | (with_reducible refine Dev.Agree.have (cs := [0x91]) (fs := [.host]) (a := d) (x := x.2) ?_ ?_; subst x; rotate_left 1; clear_value x; with_reducible intro _; rotate_right 1)
        | clear_value x
        | skip)
    | with_reducible exact Dev.Agree.refl
    | with_reducible assumption
    | lift_lets -underBinder
    | with_reducible apply Dev.Agree.ite
    | (with_reducible apply Dev.Agree.put; decide; decide)
    | (with_reducible apply Dev.Agree.step (Dev.setRing_frame _ _ _); decide; decide)
    | split)

theorem Dev.wRing_frame (d : Dev) (p : Par) (n : Nat) (v : Nat) : Dev.AgreeO [0x91] [.host] d (Dev.wRing d p n v) := by
  unfold Dev.wRing
  repeat' (first
    | (with_reducible intro x; first
        | (with_reducible refine Dev.Agree.have (cs := [0x91]) (fs := [.host]) (a := d) (x := x) ?_ ?_; subst x; rotate_left 1; clear_value x; with_reducible intro _; rotate_right 1)
        | (with_reducible refine Dev.Agree.have (cs := [0x91]) (fs := [.host]) (a := d) (x := x.2) ?_ ?_; subst x; rotate_left 1; clear_value x; with_reducible intro _; rotate_right 1)
        | clear_value x
        | skip)
    | with_reducible exact Dev.AgreeO.none
    | with_reducible exact Dev.Agree.refl
    | with_reducible assumption
    | lift_lets -underBinder
    | with_reducible apply Dev.AgreeO.no
    | with_reducible apply Dev.AgreeO.did
    | with_reducible apply Dev.AgreeO.some
    | with_reducible apply Dev.AgreeO.ite
    | with_reducible apply Dev.Agree.ite
    | (with_reducible apply Dev.Agree.put; decide; decide)
    | ((with_reducible apply Dev.Agree.put); (subst_vars; decide); (subst_vars; decide))
    | (with_reducible apply Dev.AgreeO.step (no_frame _ _); decide; decide)
    | (with_reducible apply Dev.AgreeO.step (did_frame _); decide; decide)
    | (with_reducible apply Dev.Agree.step (Dev.ringEmpty_frame _ _); decide; decide)
    | split)

theorem Dev.wPwr_frame (d : Dev) (p : Par) (v : Nat) : Dev.AgreeO [0xB0, 0xC0] [.evt, .lid, .pwr] d (Dev.wPwr d p v) := by
  unfold Dev.wPwr
  repeat' (first
    | (with_reducible intro x; first
        | (with_reducible refine Dev.Agree.have (cs := [0xB0, 0xC0]) (fs := [.evt, .lid, .pwr]) (a := d) (x := x) ?_ ?_; subst x; rotate_left 1; clear_value x; with_reducible intro _; rotate_right 1)
        | (with_reducible refine Dev.Agree.have (cs := [0xB0, 0xC0]) (fs := [.evt, .lid, .pwr]) (a := d) (x := x.2) ?_ ?_; subst x; rotate_left 1; clear_value x; with_reducible intro _; rotate_right 1)
        | clear_value x
        | skip)
    | with_reducible exact Dev.AgreeO.none
    | with_reducible exact Dev.Agree.refl
    | with_reducible assumption
    | lift_lets -underBinder
    | with_reducible apply Dev.AgreeO.no
    | with_reducible apply Dev.AgreeO.did
    | with_reducible apply Dev.AgreeO.some
    | with_reducible apply Dev.AgreeO.ite
    | with_reducible apply Dev.Agree.ite
    | (with_reducible apply Dev.Agree.step (Dev.wake_frame _ _); decide; decide)
    | (with_reducible apply Dev.AgreeO.step (no_frame _ _); decide; decide)
    | (with_reducible apply Dev.AgreeO.step (did_frame _); decide; decide)
    | (fail_if_no_progress with_reducible apply Dev.Agree.upd_lid; decide)
    | (fail_if_no_progress with_reducible apply Dev.Agree.upd_pwr; decide)
    | (apply Dev.Agree.upd; (with_reducible assumption); exact Eq.refl _; intro f hf; cases f <;> first | exact absurd hf (by decide) | exact Eq.refl _)
    | (apply Dev.Agree.upd; (with_reducible exact Dev.Agree.refl); exact Eq.refl _; intro f hf; cases f <;> first | exact absurd hf (by decide) | exact Eq.refl _)
    | split)

theorem Dev.wHarv_frame (d : Dev) (p : Par) (v : Nat) (hp : p.small = true) (hg : List.contains [0xB1] p.group = true) : Dev.AgreeO [0xB1] [] d (Dev.wHarv d p v) := by
  unfold Dev.wHarv
  repeat' (first
    | (with_reducible intro x; first
        | (with_reducible refine Dev.Agree.have (cs := [0xB1]) (fs := []) (a := d) (x := x) ?_ ?_; subst x; rotate_left 1; clear_value x; with_reducible intro _; rotate_right 1)
        | (with_reducible refine Dev.Agree.have (cs := [0xB1]) (fs := []) (a := d) (x := x.2) ?_ ?_; subst x; rotate_left 1; clear_value x; with_reducible intro _; rotate_right 1)
        | clear_value x
        | skip)
    | with_reducible exact Dev.AgreeO.none
    | with_reducible exact Dev.Agree.refl
    | with_reducible assumption
    | lift_lets -underBinder
    | with_reducible apply Dev.AgreeO.no
    | with_reducible apply Dev.AgreeO.did
    | with_reducible apply Dev.AgreeO.some
    | with_reducible apply Dev.AgreeO.ite
    | with_reducible apply Dev.Agree.ite
    | (with_reducible apply Dev.Agree.put; decide; decide)
    | ((with_reducible apply Dev.Agree.put); exact hp; exact within_has hg (by decide))
    | (with_reducible apply Dev.AgreeO.step (did_frame _); decide; decide)
    | split)

theorem Dev.wEvt_frame (d : Dev) (p : Par) (n : Nat) (v : Nat) (ts : Nat) : Dev.AgreeO [0xC0] [.evt] d (Dev.wEvt d p n v ts) := by
  unfold Dev.wEvt
  repeat' (first
    | (with_reducible intro x; first
        | (with_reducible refine Dev.Agree.have (cs := [0xC0]) (fs := [.evt]) (a := d) (x := x) ?_ ?_; subst x; rotate_left 1; clear_value x; with_reducible intro _; rotate_right 1)
        | (with_reducible refine Dev.Agree.have (cs := [0xC0]) (fs := [.evt]) (a := d) (x := x.2) ?_ ?_; subst x; rotate_left 1; clear_value x; with_reducible intro _; rotate_right 1)
        | clear_value x
        | skip)
    | with_reducible exact Dev.AgreeO.none
    | with_reducible exact Dev.Agree.refl
    | with_reducible assumption
    | lift_lets -underBinder
    | with_reducible apply Dev.AgreeO.no
    | with_reducible apply Dev.AgreeO.did
    | with_reducible apply Dev.AgreeO.some
    | with_reducible apply Dev.AgreeO.ite
    | with_reducible apply Dev.Agree.ite
    | (with_reducible apply Dev.Agree.put; decide; decide)
    | ((with_reducible apply Dev.Agree.put); (subst_vars; decide); (subst_vars; decide))
    | (with_reducible apply Dev.Agree.step (Dev.raise_frame _ _ _ _ _); decide; decide)
    | (with_reducible apply Dev.AgreeO.step (no_frame _ _); decide; decide)
    | (with_reducible apply Dev.AgreeO.step (did_frame _); decide; decide)
    | split)

theorem Dev.wRule_frame (d : Dev) (session tag ts : Nat) (p : Par) (i : Nat) (v : W64) (hp : p.small = true) : Dev.AgreeO allGroups [.evt, .host, .tsets, .commits, .mode, .legs, .ports, .caps, .trigs, .ctxs, .grids, .isls, .spokes, .cells, .arms, .adcs, .sdis, .wins, .weave, .rim, .met, .lid, .pwr] d (Dev.wRule d session tag ts p i v) := by
  unfold Dev.wRule
  simp only
  have gr : ∀ {c : Nat} {cs : List Nat}, p.cls = c → c ≠ 2 → cs.contains c = true → cs.contains p.group = true := fun h hc hm => by
    rw [Par.group_of_cls h hc]; exact hm
  have st : ∀ {gs : List Nat} {hs : List Fld} {o : Option (Nat × Dev)}, d.AgreeO gs hs o → within gs allGroups = true → within hs [.evt, .host, .tsets, .commits, .mode, .legs, .ports, .caps, .trigs, .ctxs, .grids, .isls, .spokes, .cells, .arms, .adcs, .sdis, .wins, .weave, .rim, .met, .lid, .pwr] = true →
      d.AgreeO allGroups [.evt, .host, .tsets, .commits, .mode, .legs, .ports, .caps, .trigs, .ctxs, .grids, .isls, .spokes, .cells, .arms, .adcs, .sdis, .wins, .weave, .rim, .met, .lid, .pwr] o := fun h a b => Dev.AgreeO.step h a b Dev.Agree.refl
  repeat' (with_reducible apply Dev.AgreeO.ite <;> intro h)
  · exact st (Dev.wDev_frame _ _ _ _ _ _) (by decide) (by decide)
  · exact st (Dev.wImage_frame _ _ _ _) (by decide) (by decide)
  · exact st (Dev.wSpoke_frame _ _ _ _ hp (gr h (by decide) (by decide))) (by decide) (by decide)
  · exact st (Dev.wCell_frame _ _ _ _ hp (gr h (by decide) (by decide))) (by decide) (by decide)
  · exact st (Dev.wArm_frame _ _ _ _ hp (gr h (by decide) (by decide))) (by decide) (by decide)
  · exact st (Dev.wImage_frame _ _ _ _) (by decide) (by decide)
  · exact st (Dev.wCtx_frame _ _ _ _) (by decide) (by decide)
  · exact st (Dev.wGrid_frame _ _ _ _ hp (gr h (by decide) (by decide))) (by decide) (by decide)
  · exact st (Dev.wIsld_frame _ _ _ _ _ hp (gr h (by decide) (by decide))) (by decide) (by decide)
  · exact st (Dev.wPort_frame _ _ _ _ hp (gr h (by decide) (by decide))) (by decide) (by decide)
  · exact st (Dev.wLeg_frame _ _ _ _) (by decide) (by decide)
  · refine st (Dev.wAnalog_frame _ _ _ _ _ hp ?_) (by decide) (by decide)
    rcases h with h | h | h
    · exact gr h (by decide) (by decide)
    · exact gr h (by decide) (by decide)
    · exact gr h (by decide) (by decide)
  · exact st (Dev.wMetr_frame _ _ _ _ hp (gr h (by decide) (by decide))) (by decide) (by decide)
  · exact st (Dev.wCap_frame _ _ _ _ _) (by decide) (by decide)
  · exact st (Dev.wTrig_frame _ _ _ _) (by decide) (by decide)
  · exact st (Dev.wWeave_frame _ _ _ hp (gr h (by decide) (by decide))) (by decide) (by decide)
  · exact st (Dev.wLink_frame _ _ _ _) (by decide) (by decide)
  · exact st (Dev.wRing_frame _ _ _ _) (by decide) (by decide)
  · exact st (Dev.wPwr_frame _ _ _) (by decide) (by decide)
  · exact st (Dev.wHarv_frame _ _ _ hp (gr h (by decide) (by decide))) (by decide) (by decide)
  · exact st (Dev.wEvt_frame _ _ _ _ _) (by decide) (by decide)
  · exact Dev.AgreeO.none

theorem Dev.applyWrite_frame (d : Dev) (session tag ts obj idx : Nat) (v : W64) : Dev.Agree allGroups [.evt, .host, .tsets, .commits, .mode, .legs, .ports, .caps, .trigs, .ctxs, .grids, .isls, .spokes, .cells, .arms, .adcs, .sdis, .wins, .weave, .rim, .met, .lid, .pwr] d (Dev.applyWrite d session tag ts obj idx v).2 := by
  unfold Dev.applyWrite
  simp only
  split
  · exact Dev.Agree.refl
  · rename_i h
    obtain ⟨hp, hg⟩ := rowOf_ok h
    refine Dev.AgreeO.getD (Dev.AgreeO.step (Dev.wRule_frame _ _ _ _ _ _ _ hp) (by decide) (by decide) Dev.Agree.refl) ?_
    exact Dev.Agree.setRaw hp hg Dev.Agree.refl

theorem Dev.gridWrite_frame (d : Dev) (bt pct ph last : Nat) : Dev.Agree [] [.newGrid] d (Dev.gridWrite d bt pct ph last).2.2 := by
  unfold Dev.gridWrite
  split
  · exact Dev.Agree.refl
  · split
    · exact Dev.Agree.refl
    · simp only
      split
      · exact Dev.Agree.refl
      · exact Dev.Agree.upd_newGrid (by decide) Dev.Agree.refl

theorem Dev.applyBulk_frame (d : Dev) (obj : Nat) (off : Nat) (data : List Byte) : Dev.Agree [0x70, 0xC0] [.evt, .tsets, .rim] d (Dev.applyBulk d obj off data).2 := by
  unfold Dev.applyBulk
  repeat' (first
    | (with_reducible intro x; first
        | (with_reducible refine Dev.Agree.have (cs := [0x70, 0xC0]) (fs := [.evt, .tsets, .rim]) (a := d) (x := x) ?_ ?_; subst x; rotate_left 1; clear_value x; with_reducible intro _; rotate_right 1)
        | (with_reducible refine Dev.Agree.have (cs := [0x70, 0xC0]) (fs := [.evt, .tsets, .rim]) (a := d) (x := x.2) ?_ ?_; subst x; rotate_left 1; clear_value x; with_reducible intro _; rotate_right 1)
        | clear_value x
        | skip)
    | with_reducible exact Dev.Agree.refl
    | with_reducible assumption
    | lift_lets -underBinder
    | with_reducible apply Dev.Agree.ite
    | with_reducible apply Dev.Agree.ite2
    | split
    | (with_reducible apply Dev.Agree.step (Dev.shadowWrite_frame _ _ _ _); decide; decide)
    | (with_reducible apply Dev.Agree.step (Dev.rimStage_frame _ _); decide; decide)
    | (fail_if_no_progress with_reducible apply Dev.Agree.upd_rim; decide))

theorem Dev.refuseUpd_frame (d : Dev) (reason : Option Nat) : Dev.Agree [0xA1] [] d (Dev.refuseUpd d reason) := by
  unfold Dev.refuseUpd
  repeat' (first
    | (with_reducible intro x; first
        | (with_reducible refine Dev.Agree.have (cs := [0xA1]) (fs := []) (a := d) (x := x) ?_ ?_; subst x; rotate_left 1; clear_value x; with_reducible intro _; rotate_right 1)
        | (with_reducible refine Dev.Agree.have (cs := [0xA1]) (fs := []) (a := d) (x := x.2) ?_ ?_; subst x; rotate_left 1; clear_value x; with_reducible intro _; rotate_right 1)
        | clear_value x
        | skip)
    | with_reducible exact Dev.Agree.refl
    | with_reducible assumption
    | lift_lets -underBinder
    | with_reducible apply Dev.Agree.ite
    | (with_reducible apply Dev.Agree.put; decide; decide)
    | (with_reducible apply Dev.Agree.inc; decide; decide)
    | split)

theorem Dev.ownManifest_frame (d : Dev) (s : Src) (m : List Byte) (digest : List Byte) (keep : Bool) : Dev.Agree [0xA1] [.lid] d (Dev.ownManifest d s m digest keep) := by
  unfold Dev.ownManifest
  repeat' (first
    | (with_reducible intro x; first
        | (with_reducible refine Dev.Agree.have (cs := [0xA1]) (fs := [.lid]) (a := d) (x := x) ?_ ?_; subst x; rotate_left 1; clear_value x; with_reducible intro _; rotate_right 1)
        | (with_reducible refine Dev.Agree.have (cs := [0xA1]) (fs := [.lid]) (a := d) (x := x.2) ?_ ?_; subst x; rotate_left 1; clear_value x; with_reducible intro _; rotate_right 1)
        | clear_value x
        | skip)
    | with_reducible exact Dev.Agree.refl
    | with_reducible assumption
    | lift_lets -underBinder
    | with_reducible apply Dev.Agree.ite
    | (with_reducible apply Dev.Agree.put; decide; decide)
    | (with_reducible apply Dev.Agree.step (Dev.ownWrite_frame _ _); decide; decide)
    | (fail_if_no_progress with_reducible apply Dev.Agree.upd_lid; decide)
    | split)

theorem Dev.holdManifest_frame (d : Dev) (m : List Byte) : Dev.Agree [] [.lid] d (Dev.holdManifest d m) := by
  unfold Dev.holdManifest
  repeat' (first
    | (with_reducible intro x; first
        | (with_reducible refine Dev.Agree.have (cs := []) (fs := [.lid]) (a := d) (x := x) ?_ ?_; subst x; rotate_left 1; clear_value x; with_reducible intro _; rotate_right 1)
        | (with_reducible refine Dev.Agree.have (cs := []) (fs := [.lid]) (a := d) (x := x.2) ?_ ?_; subst x; rotate_left 1; clear_value x; with_reducible intro _; rotate_right 1)
        | clear_value x
        | skip)
    | with_reducible exact Dev.Agree.refl
    | with_reducible assumption
    | lift_lets -underBinder
    | with_reducible apply Dev.Agree.ite
    | (fail_if_no_progress with_reducible apply Dev.Agree.upd_lid; decide)
    | split)

theorem Dev.acceptManifest_frame (d : Dev) (s : Src) (m : List Byte) : Dev.Agree [0xA1, 0xC0] [.evt, .lid] d (Dev.acceptManifest d s m).2.2 := by
  unfold Dev.acceptManifest
  repeat' (first
    | (with_reducible intro x; first
        | (with_reducible refine Dev.Agree.have (cs := [0xA1, 0xC0]) (fs := [.evt, .lid]) (a := d) (x := x) ?_ ?_; subst x; rotate_left 1; clear_value x; with_reducible intro _; rotate_right 1)
        | (with_reducible refine Dev.Agree.have (cs := [0xA1, 0xC0]) (fs := [.evt, .lid]) (a := d) (x := x.2) ?_ ?_; subst x; rotate_left 1; clear_value x; with_reducible intro _; rotate_right 1)
        | clear_value x
        | skip)
    | with_reducible exact Dev.Agree.refl
    | with_reducible assumption
    | lift_lets -underBinder
    | with_reducible apply Dev.Agree.ite
    | split
    | (with_reducible apply Dev.Agree.step (Dev.raise_frame _ _ _ _ _); decide; decide)
    | (with_reducible apply Dev.Agree.step (Dev.refuseUpd_frame _ _); decide; decide)
    | (with_reducible apply Dev.Agree.step (Dev.ownManifest_frame _ _ _ _ _); decide; decide)
    | (with_reducible apply Dev.Agree.step (Dev.holdManifest_frame _ _); decide; decide)
    | (fail_if_no_progress with_reducible apply Dev.Agree.upd_lid; decide))

theorem Dev.setAssem_frame (d : Dev) (s : Nat) (v : Option Assem) : Dev.Agree [] [.lid] d (Dev.setAssem d s v) := by
  unfold Dev.setAssem
  repeat' (first
    | (with_reducible intro x; first
        | (with_reducible refine Dev.Agree.have (cs := []) (fs := [.lid]) (a := d) (x := x) ?_ ?_; subst x; rotate_left 1; clear_value x; with_reducible intro _; rotate_right 1)
        | (with_reducible refine Dev.Agree.have (cs := []) (fs := [.lid]) (a := d) (x := x.2) ?_ ?_; subst x; rotate_left 1; clear_value x; with_reducible intro _; rotate_right 1)
        | clear_value x
        | skip)
    | with_reducible exact Dev.Agree.refl
    | with_reducible assumption
    | lift_lets -underBinder
    | with_reducible apply Dev.Agree.ite
    | (fail_if_no_progress with_reducible apply Dev.Agree.upd_lid; decide)
    | split)

theorem Dev.updManifest_frame (d : Dev) (s : Nat) (total : Nat) (off : Nat) (data : List Byte) : Dev.Agree [0xA1, 0xC0] [.evt, .lid] d (Dev.updManifest d s total off data).2.2 := by
  unfold Dev.updManifest
  repeat' (first
    | (with_reducible intro x; first
        | (with_reducible refine Dev.Agree.have (cs := [0xA1, 0xC0]) (fs := [.evt, .lid]) (a := d) (x := x) ?_ ?_; subst x; rotate_left 1; clear_value x; with_reducible intro _; rotate_right 1)
        | (with_reducible refine Dev.Agree.have (cs := [0xA1, 0xC0]) (fs := [.evt, .lid]) (a := d) (x := x.2.2.2) ?_ ?_; subst x; rotate_left 1; clear_value x; with_reducible intro _; rotate_right 1)
        | (with_reducible refine Dev.Agree.have (cs := [0xA1, 0xC0]) (fs := [.evt, .lid]) (a := d) (x := x.2.2) ?_ ?_; subst x; rotate_left 1; clear_value x; with_reducible intro _; rotate_right 1)
        | (with_reducible refine Dev.Agree.have (cs := [0xA1, 0xC0]) (fs := [.evt, .lid]) (a := d) (x := x.2) ?_ ?_; subst x; rotate_left 1; clear_value x; with_reducible intro _; rotate_right 1)
        | clear_value x
        | skip)
    | with_reducible exact Dev.Agree.refl
    | with_reducible assumption
    | lift_lets -underBinder
    | with_reducible apply Dev.Agree.ite
    | split
    | (with_reducible apply Dev.Agree.step (Dev.refuseUpd_frame _ _); decide; decide)
    | (with_reducible apply Dev.Agree.step (Dev.acceptManifest_frame _ _ _); decide; decide)
    | (with_reducible apply Dev.Agree.step (Dev.setAssem_frame _ _ _); decide; decide))

theorem Dev.updChunk_frame (d : Dev) (s : Nat) (i : Nat) (half : Nat) (data : List Byte) : Dev.Agree [0xA1] [.lid] d (Dev.updChunk d s i half data).2 := by
  unfold Dev.updChunk
  repeat' (first
    | (with_reducible intro x; first
        | (with_reducible refine Dev.Agree.have (cs := [0xA1]) (fs := [.lid]) (a := d) (x := x) ?_ ?_; subst x; rotate_left 1; clear_value x; with_reducible intro _; rotate_right 1)
        | (with_reducible refine Dev.Agree.have (cs := [0xA1]) (fs := [.lid]) (a := d) (x := x.2) ?_ ?_; subst x; rotate_left 1; clear_value x; with_reducible intro _; rotate_right 1)
        | clear_value x
        | skip)
    | with_reducible exact Dev.Agree.refl
    | with_reducible assumption
    | lift_lets -underBinder
    | with_reducible apply Dev.Agree.ite
    | with_reducible apply Dev.Agree.ite2
    | split
    | (with_reducible apply Dev.Agree.inc; decide; decide)
    | (fail_if_no_progress with_reducible apply Dev.Agree.upd_lid; decide))

theorem Dev.chunkMarked_frame (d : Dev) (i : Nat) : Dev.Agree [0xC0] [.evt, .lid] d (Dev.chunkMarked d i) := by
  unfold Dev.chunkMarked
  repeat' (first
    | (with_reducible intro x; first
        | (with_reducible refine Dev.Agree.have (cs := [0xC0]) (fs := [.evt, .lid]) (a := d) (x := x) ?_ ?_; subst x; rotate_left 1; clear_value x; with_reducible intro _; rotate_right 1)
        | (with_reducible refine Dev.Agree.have (cs := [0xC0]) (fs := [.evt, .lid]) (a := d) (x := x.2) ?_ ?_; subst x; rotate_left 1; clear_value x; with_reducible intro _; rotate_right 1)
        | clear_value x
        | skip)
    | with_reducible exact Dev.Agree.refl
    | with_reducible assumption
    | lift_lets -underBinder
    | with_reducible apply Dev.Agree.ite
    | (with_reducible apply Dev.Agree.step (Dev.raise_frame _ _ _ _ _); decide; decide)
    | (with_reducible apply Dev.Agree.step (Dev.ownWrite_frame _ _); decide; decide)
    | (fail_if_no_progress with_reducible apply Dev.Agree.upd_lid; decide)
    | split)

theorem Dev.updIdle_frame (d : Dev) : Dev.Agree [] [.lid] d (Dev.updIdle d) := by
  unfold Dev.updIdle
  repeat' (first
    | (with_reducible intro x; first
        | (with_reducible refine Dev.Agree.have (cs := []) (fs := [.lid]) (a := d) (x := x) ?_ ?_; subst x; rotate_left 1; clear_value x; with_reducible intro _; rotate_right 1)
        | (with_reducible refine Dev.Agree.have (cs := []) (fs := [.lid]) (a := d) (x := x.2) ?_ ?_; subst x; rotate_left 1; clear_value x; with_reducible intro _; rotate_right 1)
        | clear_value x
        | skip)
    | with_reducible exact Dev.Agree.refl
    | with_reducible assumption
    | lift_lets -underBinder
    | with_reducible apply Dev.Agree.ite
    | (with_reducible apply Dev.Agree.step (Dev.ownWrite_frame _ _); decide; decide)
    | (fail_if_no_progress with_reducible apply Dev.Agree.upd_lid; decide)
    | split)

theorem Dev.updCancel_frame (d : Dev) (s : Nat) : Dev.Agree [] [.lid] d (Dev.updCancel d s).2 := by
  unfold Dev.updCancel
  repeat' (first
    | (with_reducible intro x; first
        | (with_reducible refine Dev.Agree.have (cs := []) (fs := [.lid]) (a := d) (x := x) ?_ ?_; subst x; rotate_left 1; clear_value x; with_reducible intro _; rotate_right 1)
        | (with_reducible refine Dev.Agree.have (cs := []) (fs := [.lid]) (a := d) (x := x.2) ?_ ?_; subst x; rotate_left 1; clear_value x; with_reducible intro _; rotate_right 1)
        | clear_value x
        | skip)
    | with_reducible exact Dev.Agree.refl
    | with_reducible assumption
    | lift_lets -underBinder
    | with_reducible apply Dev.Agree.ite
    | with_reducible apply Dev.Agree.ite2
    | split
    | (with_reducible apply Dev.Agree.step (Dev.updIdle_frame _); decide; decide))

theorem Dev.activateStart_frame (d : Dev) (s : Nat) (tag : Nat) (mode : Nat) : Dev.Agree [] [.host, .lid] d (Dev.activateStart d s tag mode) := by
  unfold Dev.activateStart
  repeat' (first
    | (with_reducible intro x; first
        | (with_reducible refine Dev.Agree.have (cs := []) (fs := [.host, .lid]) (a := d) (x := x) ?_ ?_; subst x; rotate_left 1; clear_value x; with_reducible intro _; rotate_right 1)
        | (with_reducible refine Dev.Agree.have (cs := []) (fs := [.host, .lid]) (a := d) (x := x.2) ?_ ?_; subst x; rotate_left 1; clear_value x; with_reducible intro _; rotate_right 1)
        | clear_value x
        | skip)
    | with_reducible exact Dev.Agree.refl
    | with_reducible assumption
    | lift_lets -underBinder
    | with_reducible apply Dev.Agree.ite
    | (with_reducible apply Dev.Agree.step (Dev.ownWrite_frame _ _); decide; decide)
    | (fail_if_no_progress with_reducible apply Dev.Agree.upd_host; decide)
    | (fail_if_no_progress with_reducible apply Dev.Agree.upd_lid; decide)
    | (apply Dev.Agree.upd; (with_reducible assumption); exact Eq.refl _; intro f hf; cases f <;> first | exact absurd hf (by decide) | exact Eq.refl _)
    | (apply Dev.Agree.upd; (with_reducible exact Dev.Agree.refl); exact Eq.refl _; intro f hf; cases f <;> first | exact absurd hf (by decide) | exact Eq.refl _)
    | split)

theorem Dev.activateEnd_frame (d : Dev) (state : Nat) (status : Nat) : Dev.Agree [0x90, 0x91, 0xC0] [.evt, .host, .weave, .lid] d (Dev.activateEnd d state status) := by
  unfold Dev.activateEnd
  repeat' (first
    | (with_reducible intro x; first
        | (with_reducible refine Dev.Agree.have (cs := [0x90, 0x91, 0xC0]) (fs := [.evt, .host, .weave, .lid]) (a := d) (x := x) ?_ ?_; subst x; rotate_left 1; clear_value x; with_reducible intro _; rotate_right 1)
        | (with_reducible refine Dev.Agree.have (cs := [0x90, 0x91, 0xC0]) (fs := [.evt, .host, .weave, .lid]) (a := d) (x := x.2) ?_ ?_; subst x; rotate_left 1; clear_value x; with_reducible intro _; rotate_right 1)
        | clear_value x
        | skip)
    | with_reducible exact Dev.Agree.refl
    | with_reducible assumption
    | lift_lets -underBinder
    | with_reducible apply Dev.Agree.ite
    | (with_reducible apply Dev.Agree.step (Dev.outcome_frame _ _ _ _); decide; decide)
    | (with_reducible apply Dev.Agree.step (Dev.ownWrite_frame _ _); decide; decide)
    | (fail_if_no_progress with_reducible apply Dev.Agree.upd_lid; decide)
    | split)

theorem Dev.activationVerified_frame (d : Dev) : Dev.Agree [0x90, 0x91, 0xA1, 0xC0] [.evt, .host, .weave, .lid] d (Dev.activationVerified d) := by
  unfold Dev.activationVerified
  repeat' (first
    | (with_reducible intro x; first
        | (with_reducible refine Dev.Agree.have (cs := [0x90, 0x91, 0xA1, 0xC0]) (fs := [.evt, .host, .weave, .lid]) (a := d) (x := x) ?_ ?_; subst x; rotate_left 1; clear_value x; with_reducible intro _; rotate_right 1)
        | (with_reducible refine Dev.Agree.have (cs := [0x90, 0x91, 0xA1, 0xC0]) (fs := [.evt, .host, .weave, .lid]) (a := d) (x := x.2) ?_ ?_; subst x; rotate_left 1; clear_value x; with_reducible intro _; rotate_right 1)
        | clear_value x
        | skip)
    | with_reducible exact Dev.Agree.refl
    | with_reducible assumption
    | lift_lets -underBinder
    | with_reducible apply Dev.Agree.ite
    | (with_reducible apply Dev.Agree.step (Dev.raise_frame _ _ _ _ _); decide; decide)
    | (with_reducible apply Dev.Agree.step (Dev.bootWrite_frame _ _); decide; decide)
    | (with_reducible apply Dev.Agree.step (Dev.refuseUpd_frame _ _); decide; decide)
    | (with_reducible apply Dev.Agree.step (Dev.activateEnd_frame _ _ _); decide; decide)
    | (fail_if_no_progress with_reducible apply Dev.Agree.upd_lid; decide)
    | split)

theorem Dev.activateAbort_frame (d : Dev) : Dev.Agree [0x90, 0x91, 0xC0] [.evt, .host, .weave, .lid] d (Dev.activateAbort d) := by
  unfold Dev.activateAbort
  repeat' (first
    | (with_reducible intro x; first
        | (with_reducible refine Dev.Agree.have (cs := [0x90, 0x91, 0xC0]) (fs := [.evt, .host, .weave, .lid]) (a := d) (x := x) ?_ ?_; subst x; rotate_left 1; clear_value x; with_reducible intro _; rotate_right 1)
        | (with_reducible refine Dev.Agree.have (cs := [0x90, 0x91, 0xC0]) (fs := [.evt, .host, .weave, .lid]) (a := d) (x := x.2) ?_ ?_; subst x; rotate_left 1; clear_value x; with_reducible intro _; rotate_right 1)
        | clear_value x
        | skip)
    | with_reducible exact Dev.Agree.refl
    | with_reducible assumption
    | lift_lets -underBinder
    | with_reducible apply Dev.Agree.ite
    | (with_reducible apply Dev.Agree.step (Dev.activateEnd_frame _ _ _); decide; decide)
    | split)

theorem Dev.confirm_frame (d : Dev) : Dev.Agree [0xC0] [.evt, .lid] d (Dev.confirm d) := by
  unfold Dev.confirm
  repeat' (first
    | (with_reducible intro x; first
        | (with_reducible refine Dev.Agree.have (cs := [0xC0]) (fs := [.evt, .lid]) (a := d) (x := x) ?_ ?_; subst x; rotate_left 1; clear_value x; with_reducible intro _; rotate_right 1)
        | (with_reducible refine Dev.Agree.have (cs := [0xC0]) (fs := [.evt, .lid]) (a := d) (x := x.2) ?_ ?_; subst x; rotate_left 1; clear_value x; with_reducible intro _; rotate_right 1)
        | clear_value x
        | skip)
    | with_reducible exact Dev.Agree.refl
    | with_reducible assumption
    | lift_lets -underBinder
    | with_reducible apply Dev.Agree.ite
    | (with_reducible apply Dev.Agree.step (Dev.raise_frame _ _ _ _ _); decide; decide)
    | (with_reducible apply Dev.Agree.step (Dev.bootWrite_frame _ _); decide; decide)
    | (with_reducible apply Dev.Agree.step (Dev.updIdle_frame _); decide; decide)
    | (fail_if_no_progress with_reducible apply Dev.Agree.upd_lid; decide)
    | split)

theorem Dev.autoConfirm_frame (d : Dev) : Dev.Agree [0xC0] [.evt, .lid] d (Dev.autoConfirm d) := by
  unfold Dev.autoConfirm
  repeat' (first
    | (with_reducible intro x; first
        | (with_reducible refine Dev.Agree.have (cs := [0xC0]) (fs := [.evt, .lid]) (a := d) (x := x) ?_ ?_; subst x; rotate_left 1; clear_value x; with_reducible intro _; rotate_right 1)
        | (with_reducible refine Dev.Agree.have (cs := [0xC0]) (fs := [.evt, .lid]) (a := d) (x := x.2) ?_ ?_; subst x; rotate_left 1; clear_value x; with_reducible intro _; rotate_right 1)
        | clear_value x
        | skip)
    | with_reducible exact Dev.Agree.refl
    | with_reducible assumption
    | lift_lets -underBinder
    | with_reducible apply Dev.Agree.ite
    | (with_reducible apply Dev.Agree.step (Dev.confirm_frame _); decide; decide)
    | split)

theorem Dev.trialExpiry_frame (d : Dev) : Dev.Agree [0xC0] [.evt, .lid] d (Dev.trialExpiry d) := by
  unfold Dev.trialExpiry
  repeat' (first
    | (with_reducible intro x; first
        | (with_reducible refine Dev.Agree.have (cs := [0xC0]) (fs := [.evt, .lid]) (a := d) (x := x) ?_ ?_; subst x; rotate_left 1; clear_value x; with_reducible intro _; rotate_right 1)
        | (with_reducible refine Dev.Agree.have (cs := [0xC0]) (fs := [.evt, .lid]) (a := d) (x := x.2) ?_ ?_; subst x; rotate_left 1; clear_value x; with_reducible intro _; rotate_right 1)
        | clear_value x
        | skip)
    | with_reducible exact Dev.Agree.refl
    | with_reducible assumption
    | lift_lets -underBinder
    | with_reducible apply Dev.Agree.ite
    | (with_reducible apply Dev.Agree.step (Dev.raise_frame _ _ _ _ _); decide; decide)
    | (with_reducible apply Dev.Agree.step (Dev.bootWrite_frame _ _); decide; decide)
    | (fail_if_no_progress with_reducible apply Dev.Agree.upd_lid; decide)
    | split)

theorem Dev.ownershipLapse_frame (d : Dev) : Dev.Agree [0xC0] [.evt, .lid] d (Dev.ownershipLapse d) := by
  unfold Dev.ownershipLapse
  repeat' (first
    | (with_reducible intro x; first
        | (with_reducible refine Dev.Agree.have (cs := [0xC0]) (fs := [.evt, .lid]) (a := d) (x := x) ?_ ?_; subst x; rotate_left 1; clear_value x; with_reducible intro _; rotate_right 1)
        | (with_reducible refine Dev.Agree.have (cs := [0xC0]) (fs := [.evt, .lid]) (a := d) (x := x.2) ?_ ?_; subst x; rotate_left 1; clear_value x; with_reducible intro _; rotate_right 1)
        | clear_value x
        | skip)
    | with_reducible exact Dev.Agree.refl
    | with_reducible assumption
    | lift_lets -underBinder
    | with_reducible apply Dev.Agree.ite
    | (with_reducible apply Dev.Agree.step (Dev.raise_frame _ _ _ _ _); decide; decide)
    | (with_reducible apply Dev.Agree.step (Dev.ownWrite_frame _ _); decide; decide)
    | split)

theorem Dev.fusesBlown_frame (d : Dev) : Dev.Agree [0xA0, 0xC0] [.evt, .lid] d (Dev.fusesBlown d) := by
  unfold Dev.fusesBlown
  repeat' (first
    | (with_reducible intro x; first
        | (with_reducible refine Dev.Agree.have (cs := [0xA0, 0xC0]) (fs := [.evt, .lid]) (a := d) (x := x) ?_ ?_; subst x; rotate_left 1; clear_value x; with_reducible intro _; rotate_right 1)
        | (with_reducible refine Dev.Agree.have (cs := [0xA0, 0xC0]) (fs := [.evt, .lid]) (a := d) (x := x.2) ?_ ?_; subst x; rotate_left 1; clear_value x; with_reducible intro _; rotate_right 1)
        | clear_value x
        | skip)
    | with_reducible exact Dev.Agree.refl
    | with_reducible assumption
    | lift_lets -underBinder
    | with_reducible apply Dev.Agree.ite
    | (with_reducible apply Dev.Agree.step (Dev.raise_frame _ _ _ _ _); decide; decide)
    | (with_reducible apply Dev.Agree.step (Dev.tallyKeys_frame _); decide; decide)
    | (fail_if_no_progress with_reducible apply Dev.Agree.upd_lid; decide)
    | split)

theorem Dev.attest_frame (d : Dev) (nonce : List Byte) : Dev.Agree [0xA0] [] d (Dev.attest d nonce).2.2 := by
  unfold Dev.attest
  repeat' (first
    | (with_reducible intro x; first
        | (with_reducible refine Dev.Agree.have (cs := [0xA0]) (fs := []) (a := d) (x := x) ?_ ?_; subst x; rotate_left 1; clear_value x; with_reducible intro _; rotate_right 1)
        | (with_reducible refine Dev.Agree.have (cs := [0xA0]) (fs := []) (a := d) (x := x.2) ?_ ?_; subst x; rotate_left 1; clear_value x; with_reducible intro _; rotate_right 1)
        | clear_value x
        | skip)
    | with_reducible exact Dev.Agree.refl
    | with_reducible assumption
    | lift_lets -underBinder
    | with_reducible apply Dev.Agree.ite
    | split
    | (with_reducible apply Dev.Agree.inc; decide; decide))

theorem Dev.keyChange_frame (d : Dev) (x : List Byte) : Dev.Agree [0xA0, 0xC0] [.evt, .lid] d (Dev.keyChange d x) := by
  unfold Dev.keyChange
  repeat' (first
    | (with_reducible intro x; first
        | (with_reducible refine Dev.Agree.have (cs := [0xA0, 0xC0]) (fs := [.evt, .lid]) (a := d) (x := x) ?_ ?_; subst x; rotate_left 1; clear_value x; with_reducible intro _; rotate_right 1)
        | (with_reducible refine Dev.Agree.have (cs := [0xA0, 0xC0]) (fs := [.evt, .lid]) (a := d) (x := x.2) ?_ ?_; subst x; rotate_left 1; clear_value x; with_reducible intro _; rotate_right 1)
        | clear_value x
        | skip)
    | with_reducible exact Dev.Agree.refl
    | with_reducible assumption
    | lift_lets -underBinder
    | with_reducible apply Dev.Agree.ite
    | (with_reducible apply Dev.Agree.step (Dev.raise_frame _ _ _ _ _); decide; decide)
    | (with_reducible apply Dev.Agree.step (Dev.tallyKeys_frame _); decide; decide)
    | (fail_if_no_progress with_reducible apply Dev.Agree.upd_lid; decide)
    | split)

theorem Dev.pairRings_frame (d : Dev) (i : Nat) (link : Nat) (st : Nat) : Dev.Agree [0x91] [] d (Dev.pairRings d i link st) := by
  unfold Dev.pairRings
  repeat' (first
    | (with_reducible intro x; first
        | (with_reducible refine Dev.Agree.have (cs := [0x91]) (fs := []) (a := d) (x := x) ?_ ?_; subst x; rotate_left 1; clear_value x; with_reducible intro _; rotate_right 1)
        | (with_reducible refine Dev.Agree.have (cs := [0x91]) (fs := []) (a := d) (x := x.2) ?_ ?_; subst x; rotate_left 1; clear_value x; with_reducible intro _; rotate_right 1)
        | clear_value x
        | skip)
    | with_reducible exact Dev.Agree.refl
    | with_reducible assumption
    | lift_lets -underBinder
    | with_reducible apply Dev.Agree.ite
    | (with_reducible apply Dev.Agree.put; decide; decide)
    | split)

theorem Dev.sessionOpen_frame (d : Dev) (s : Nat) (x : Sess) : Dev.Agree [0x90, 0x91] [.host, .lid] d (Dev.sessionOpen d s x) := by
  unfold Dev.sessionOpen
  repeat' (first
    | (with_reducible intro x; first
        | (with_reducible refine Dev.Agree.have (cs := [0x90, 0x91]) (fs := [.host, .lid]) (a := d) (x := x) ?_ ?_; subst x; rotate_left 1; clear_value x; with_reducible intro _; rotate_right 1)
        | (with_reducible refine Dev.Agree.have (cs := [0x90, 0x91]) (fs := [.host, .lid]) (a := d) (x := x.2) ?_ ?_; subst x; rotate_left 1; clear_value x; with_reducible intro _; rotate_right 1)
        | clear_value x
        | skip)
    | with_reducible exact Dev.Agree.refl
    | with_reducible assumption
    | lift_lets -underBinder
    | with_reducible apply Dev.Agree.ite
    | (with_reducible apply Dev.Agree.putBit; decide; decide)
    | (with_reducible apply Dev.Agree.step (Dev.setSess_frame _ _ _); decide; decide)
    | (with_reducible apply Dev.Agree.step (Dev.pairRings_frame _ _ _ _); decide; decide)
    | (fail_if_no_progress with_reducible apply Dev.Agree.upd_lid; decide)
    | split)

theorem Dev.sessionEnd_frame (d : Dev) (s : Nat) : Dev.Agree [0x90] [.host, .commits, .lid] d (Dev.sessionEnd d s) := by
  unfold Dev.sessionEnd
  repeat' (first
    | (with_reducible intro x; first
        | (with_reducible refine Dev.Agree.have (cs := [0x90]) (fs := [.host, .commits, .lid]) (a := d) (x := x) ?_ ?_; subst x; rotate_left 1; clear_value x; with_reducible intro _; rotate_right 1)
        | (with_reducible refine Dev.Agree.have (cs := [0x90]) (fs := [.host, .commits, .lid]) (a := d) (x := x.2) ?_ ?_; subst x; rotate_left 1; clear_value x; with_reducible intro _; rotate_right 1)
        | clear_value x
        | skip)
    | with_reducible exact Dev.Agree.refl
    | with_reducible assumption
    | lift_lets -underBinder
    | with_reducible apply Dev.Agree.ite
    | (with_reducible apply Dev.Agree.putBit; decide; decide)
    | (with_reducible apply Dev.Agree.step (Dev.setSess_frame _ _ _); decide; decide)
    | (fail_if_no_progress with_reducible apply Dev.Agree.upd_host; decide)
    | (fail_if_no_progress with_reducible apply Dev.Agree.upd_commits; decide)
    | (fail_if_no_progress with_reducible apply Dev.Agree.upd_lid; decide)
    | (apply Dev.Agree.upd; (with_reducible assumption); exact Eq.refl _; intro f hf; cases f <;> first | exact absurd hf (by decide) | exact Eq.refl _)
    | (apply Dev.Agree.upd; (with_reducible exact Dev.Agree.refl); exact Eq.refl _; intro f hf; cases f <;> first | exact absurd hf (by decide) | exact Eq.refl _)
    | split)

theorem Dev.sessionsFreed_frame (d : Dev) : Dev.Agree [0x91] [.host] d (Dev.sessionsFreed d) := by
  unfold Dev.sessionsFreed
  repeat' (first
    | (with_reducible intro x; first
        | (with_reducible refine Dev.Agree.have (cs := [0x91]) (fs := [.host]) (a := d) (x := x) ?_ ?_; subst x; rotate_left 1; clear_value x; with_reducible intro _; rotate_right 1)
        | (with_reducible refine Dev.Agree.have (cs := [0x91]) (fs := [.host]) (a := d) (x := x.2) ?_ ?_; subst x; rotate_left 1; clear_value x; with_reducible intro _; rotate_right 1)
        | clear_value x
        | skip)
    | with_reducible exact Dev.Agree.refl
    | with_reducible assumption
    | lift_lets -underBinder
    | with_reducible apply Dev.Agree.ite
    | (with_reducible apply Dev.Agree.step (Dev.setSess_frame _ _ _); decide; decide)
    | (with_reducible apply Dev.Agree.step (Dev.setRing_frame _ _ _); decide; decide)
    | (with_reducible apply Dev.Agree.step (Dev.pairRings_frame _ _ _ _); decide; decide)
    | with_reducible apply Dev.Agree.forN
    | (fail_if_no_progress with_reducible apply Dev.Agree.upd_host; decide)
    | split)

theorem Dev.weaveSession_frame (d : Dev) (stake : Nat) (session : Nat) (port : Nat) : Dev.AgreeO [0x90, 0x91] [.host, .lid] d (Dev.weaveSession d stake session port) := by
  unfold Dev.weaveSession
  repeat' (first
    | (with_reducible intro x; first
        | (with_reducible refine Dev.Agree.have (cs := [0x90, 0x91]) (fs := [.host, .lid]) (a := d) (x := x) ?_ ?_; subst x; rotate_left 1; clear_value x; with_reducible intro _; rotate_right 1)
        | (with_reducible refine Dev.Agree.have (cs := [0x90, 0x91]) (fs := [.host, .lid]) (a := d) (x := x.2) ?_ ?_; subst x; rotate_left 1; clear_value x; with_reducible intro _; rotate_right 1)
        | clear_value x
        | skip)
    | with_reducible exact Dev.AgreeO.none
    | with_reducible exact Dev.Agree.refl
    | with_reducible assumption
    | lift_lets -underBinder
    | with_reducible apply Dev.AgreeO.no
    | with_reducible apply Dev.AgreeO.did
    | with_reducible apply Dev.AgreeO.some
    | with_reducible apply Dev.AgreeO.ite
    | with_reducible apply Dev.Agree.ite
    | (with_reducible apply Dev.Agree.step (Dev.sessionOpen_frame _ _ _); decide; decide)
    | split)

theorem Dev.modeCommand_frame (d : Dev) (code : Nat) : Dev.Agree [0xB0, 0xC0] [.evt, .host, .pwr] d (Dev.modeCommand d code) := by
  unfold Dev.modeCommand
  repeat' (first
    | (with_reducible intro x; first
        | (with_reducible refine Dev.Agree.have (cs := [0xB0, 0xC0]) (fs := [.evt, .host, .pwr]) (a := d) (x := x) ?_ ?_; subst x; rotate_left 1; clear_value x; with_reducible intro _; rotate_right 1)
        | (with_reducible refine Dev.Agree.have (cs := [0xB0, 0xC0]) (fs := [.evt, .host, .pwr]) (a := d) (x := x.2) ?_ ?_; subst x; rotate_left 1; clear_value x; with_reducible intro _; rotate_right 1)
        | clear_value x
        | skip)
    | with_reducible exact Dev.Agree.refl
    | with_reducible assumption
    | lift_lets -underBinder
    | with_reducible apply Dev.Agree.ite
    | (with_reducible apply Dev.Agree.step (Dev.wake_frame _ _); decide; decide)
    | (fail_if_no_progress with_reducible apply Dev.Agree.upd_host; decide)
    | split)

theorem Dev.sessionTimeout_frame (d : Dev) (s : Nat) : Dev.Agree [0x90, 0xB0, 0xC0] [.evt, .host, .commits, .lid, .pwr] d (Dev.sessionTimeout d s) := by
  unfold Dev.sessionTimeout
  repeat' (first
    | (with_reducible intro x; first
        | (with_reducible refine Dev.Agree.have (cs := [0x90, 0xB0, 0xC0]) (fs := [.evt, .host, .commits, .lid, .pwr]) (a := d) (x := x) ?_ ?_; subst x; rotate_left 1; clear_value x; with_reducible intro _; rotate_right 1)
        | (with_reducible refine Dev.Agree.have (cs := [0x90, 0xB0, 0xC0]) (fs := [.evt, .host, .commits, .lid, .pwr]) (a := d) (x := x.2) ?_ ?_; subst x; rotate_left 1; clear_value x; with_reducible intro _; rotate_right 1)
        | clear_value x
        | skip)
    | with_reducible exact Dev.Agree.refl
    | with_reducible assumption
    | lift_lets -underBinder
    | with_reducible apply Dev.Agree.ite
    | (with_reducible apply Dev.Agree.step (Dev.raise_frame _ _ _ _ _); decide; decide)
    | (with_reducible apply Dev.Agree.step (Dev.sessionEnd_frame _ _); decide; decide)
    | (with_reducible apply Dev.Agree.step (Dev.modeCommand_frame _ _); decide; decide)
    | split)

end Sys2Proof.Machine
end

