-- ==== Sys2Proof/Laws/FrameD.lean ====
section
/-! SUPPORT. Frames of the device's operations, part 4 of 4: for each, the groups of parameters and the parts of the device it may change. -/

set_option linter.all false

namespace Sys2Proof.Machine

theorem Dev.handshakeTimeout_frame (d : Dev) (s : Nat) : Dev.Agree [0x90, 0x91] [.host, .commits, .lid] d (Dev.handshakeTimeout d s) := by
  unfold Dev.handshakeTimeout
  repeat' (first
    | (with_reducible intro x; first
        | (with_reducible refine Dev.Agree.have (cs := [0x90, 0x91]) (fs := [.host, .commits, .lid]) (a := d) (x := x) ?_ ?_; subst x; rotate_left 1; clear_value x; with_reducible intro _; rotate_right 1)
        | (with_reducible refine Dev.Agree.have (cs := [0x90, 0x91]) (fs := [.host, .commits, .lid]) (a := d) (x := x.2) ?_ ?_; subst x; rotate_left 1; clear_value x; with_reducible intro _; rotate_right 1)
        | clear_value x
        | skip)
    | with_reducible exact Dev.Agree.refl
    | with_reducible assumption
    | lift_lets -underBinder
    | with_reducible apply Dev.Agree.ite
    | (with_reducible apply Dev.Agree.step (Dev.setSess_frame _ _ _); decide; decide)
    | (with_reducible apply Dev.Agree.step (Dev.pairRings_frame _ _ _ _); decide; decide)
    | (with_reducible apply Dev.Agree.step (Dev.sessionEnd_frame _ _); decide; decide)
    | split)

theorem Dev.claimEntry_frame (d : Dev) (s : Nat) (obj : Nat) : Dev.Agree [] [.host] d (Dev.claimEntry d s obj).2.2 := by
  unfold Dev.claimEntry
  repeat' (first
    | (with_reducible intro x; first
        | (with_reducible refine Dev.Agree.have (cs := []) (fs := [.host]) (a := d) (x := x) ?_ ?_; subst x; rotate_left 1; clear_value x; with_reducible intro _; rotate_right 1)
        | (with_reducible refine Dev.Agree.have (cs := []) (fs := [.host]) (a := d) (x := x.2) ?_ ?_; subst x; rotate_left 1; clear_value x; with_reducible intro _; rotate_right 1)
        | clear_value x
        | skip)
    | with_reducible exact Dev.Agree.refl
    | with_reducible assumption
    | lift_lets -underBinder
    | with_reducible apply Dev.Agree.ite
    | split
    | (fail_if_no_progress with_reducible apply Dev.Agree.upd_host; decide))

theorem Dev.releaseEntry_frame (d : Dev) (s : Nat) (obj : Nat) : Dev.Agree [] [.host] d (Dev.releaseEntry d s obj).2 := by
  unfold Dev.releaseEntry
  repeat' (first
    | (with_reducible intro x; first
        | (with_reducible refine Dev.Agree.have (cs := []) (fs := [.host]) (a := d) (x := x) ?_ ?_; subst x; rotate_left 1; clear_value x; with_reducible intro _; rotate_right 1)
        | (with_reducible refine Dev.Agree.have (cs := []) (fs := [.host]) (a := d) (x := x.2) ?_ ?_; subst x; rotate_left 1; clear_value x; with_reducible intro _; rotate_right 1)
        | clear_value x
        | skip)
    | with_reducible exact Dev.Agree.refl
    | with_reducible assumption
    | lift_lets -underBinder
    | with_reducible apply Dev.Agree.ite
    | with_reducible apply Dev.Agree.ite2
    | split
    | (fail_if_no_progress with_reducible apply Dev.Agree.upd_host; decide))

theorem Dev.checkSeal_frame (d : Dev) (s : Nat) (z : Seal) : Dev.Agree [0x90] [.host, .commits, .lid] d (Dev.checkSeal d s z).2 := by
  unfold Dev.checkSeal
  repeat' (first
    | (with_reducible intro x; first
        | (with_reducible refine Dev.Agree.have (cs := [0x90]) (fs := [.host, .commits, .lid]) (a := d) (x := x) ?_ ?_; subst x; rotate_left 1; clear_value x; with_reducible intro _; rotate_right 1)
        | (with_reducible refine Dev.Agree.have (cs := [0x90]) (fs := [.host, .commits, .lid]) (a := d) (x := x.2) ?_ ?_; subst x; rotate_left 1; clear_value x; with_reducible intro _; rotate_right 1)
        | clear_value x
        | skip)
    | with_reducible exact Dev.Agree.refl
    | with_reducible assumption
    | lift_lets -underBinder
    | with_reducible apply Dev.Agree.ite
    | with_reducible apply Dev.Agree.ite2
    | split
    | (with_reducible apply Dev.Agree.step (Dev.setSess_frame _ _ _); decide; decide)
    | (with_reducible apply Dev.Agree.step (Dev.sessionEnd_frame _ _); decide; decide))

theorem Dev.doorbell_frame (d : Dev) (n : Nat) (head : Nat) : Dev.Agree [0x91, 0xC0] [.evt] d (Dev.doorbell d n head) := by
  unfold Dev.doorbell
  repeat' (first
    | (with_reducible intro x; first
        | (with_reducible refine Dev.Agree.have (cs := [0x91, 0xC0]) (fs := [.evt]) (a := d) (x := x) ?_ ?_; subst x; rotate_left 1; clear_value x; with_reducible intro _; rotate_right 1)
        | (with_reducible refine Dev.Agree.have (cs := [0x91, 0xC0]) (fs := [.evt]) (a := d) (x := x.2) ?_ ?_; subst x; rotate_left 1; clear_value x; with_reducible intro _; rotate_right 1)
        | clear_value x
        | skip)
    | with_reducible exact Dev.Agree.refl
    | with_reducible assumption
    | lift_lets -underBinder
    | with_reducible apply Dev.Agree.ite
    | (with_reducible apply Dev.Agree.put; decide; decide)
    | (with_reducible apply Dev.Agree.step (Dev.raise_frame _ _ _ _ _); decide; decide)
    | split)

theorem Dev.tailWrite_frame (d : Dev) (n : Nat) (tail : Nat) : Dev.Agree [0x90, 0x91, 0xC0] [.evt, .host] d (Dev.tailWrite d n tail) := by
  unfold Dev.tailWrite
  repeat' (first
    | (with_reducible intro x; first
        | (with_reducible refine Dev.Agree.have (cs := [0x90, 0x91, 0xC0]) (fs := [.evt, .host]) (a := d) (x := x) ?_ ?_; subst x; rotate_left 1; clear_value x; with_reducible intro _; rotate_right 1)
        | (with_reducible refine Dev.Agree.have (cs := [0x90, 0x91, 0xC0]) (fs := [.evt, .host]) (a := d) (x := x.2) ?_ ?_; subst x; rotate_left 1; clear_value x; with_reducible intro _; rotate_right 1)
        | clear_value x
        | skip)
    | with_reducible exact Dev.Agree.refl
    | with_reducible assumption
    | lift_lets -underBinder
    | with_reducible apply Dev.Agree.ite
    | (with_reducible apply Dev.Agree.put; decide; decide)
    | (with_reducible apply Dev.Agree.step (Dev.raise_frame _ _ _ _ _); decide; decide)
    | (with_reducible apply Dev.Agree.step (Dev.setRing_frame _ _ _); decide; decide)
    | (with_reducible apply Dev.Agree.step (Dev.ringDrain_frame _ _ _); decide; decide)
    | split)

theorem Dev.coalesce_frame (d : Dev) (n : Nat) : Dev.Agree [] [.host] d (Dev.coalesce d n) := by
  unfold Dev.coalesce
  repeat' (first
    | (with_reducible intro x; first
        | (with_reducible refine Dev.Agree.have (cs := []) (fs := [.host]) (a := d) (x := x) ?_ ?_; subst x; rotate_left 1; clear_value x; with_reducible intro _; rotate_right 1)
        | (with_reducible refine Dev.Agree.have (cs := []) (fs := [.host]) (a := d) (x := x.2) ?_ ?_; subst x; rotate_left 1; clear_value x; with_reducible intro _; rotate_right 1)
        | clear_value x
        | skip)
    | with_reducible exact Dev.Agree.refl
    | with_reducible assumption
    | lift_lets -underBinder
    | with_reducible apply Dev.Agree.ite
    | (with_reducible apply Dev.Agree.step (Dev.setRing_frame _ _ _); decide; decide)
    | (with_reducible apply Dev.Agree.step (Dev.msixRaise_frame _ _); decide; decide)
    | split)

theorem Dev.ringTake_frame (d : Dev) (n : Nat) (m : List Byte × List Byte) : Dev.Agree [0x91] [.host] d (Dev.ringTake d n m) := by
  unfold Dev.ringTake
  repeat' (first
    | (with_reducible intro x; first
        | (with_reducible refine Dev.Agree.have (cs := [0x91]) (fs := [.host]) (a := d) (x := x) ?_ ?_; subst x; rotate_left 1; clear_value x; with_reducible intro _; rotate_right 1)
        | (with_reducible refine Dev.Agree.have (cs := [0x91]) (fs := [.host]) (a := d) (x := x.2) ?_ ?_; subst x; rotate_left 1; clear_value x; with_reducible intro _; rotate_right 1)
        | clear_value x
        | skip)
    | with_reducible exact Dev.Agree.refl
    | with_reducible assumption
    | lift_lets -underBinder
    | with_reducible apply Dev.Agree.ite
    | (with_reducible apply Dev.Agree.inc; decide; decide)
    | (with_reducible apply Dev.Agree.step (Dev.setRing_frame _ _ _); decide; decide)
    | (with_reducible apply Dev.Agree.step (Dev.slotPut_frame _ _ _ _ _); decide; decide)
    | split)

theorem Dev.heartbeats_frame (d : Dev) : Dev.Agree [0x90, 0x91] [.host, .weave] d (Dev.heartbeats d) := by
  unfold Dev.heartbeats
  repeat' (first
    | (with_reducible intro x; first
        | (with_reducible refine Dev.Agree.have (cs := [0x90, 0x91]) (fs := [.host, .weave]) (a := d) (x := x) ?_ ?_; subst x; rotate_left 1; clear_value x; with_reducible intro _; rotate_right 1)
        | (with_reducible refine Dev.Agree.have (cs := [0x90, 0x91]) (fs := [.host, .weave]) (a := d) (x := x.2) ?_ ?_; subst x; rotate_left 1; clear_value x; with_reducible intro _; rotate_right 1)
        | clear_value x
        | skip)
    | with_reducible exact Dev.Agree.refl
    | with_reducible assumption
    | lift_lets -underBinder
    | with_reducible apply Dev.Agree.ite
    | (with_reducible apply Dev.Agree.step (Dev.sendTo_frame _ _ _); decide; decide)
    | with_reducible apply Dev.Agree.forN
    | split)

theorem Dev.eventMsgs_frame (n k : Nat) (rs : List EvRec) (d : Dev) : Dev.Agree [0x90, 0x91, 0xC0] [.evt, .host] d (Dev.eventMsgs n k rs d) := by
  induction k generalizing d rs with
  | zero => unfold Dev.eventMsgs; exact Dev.Agree.refl
  | succ k ih =>
    unfold Dev.eventMsgs
    split
    · exact Dev.Agree.refl
    · refine Dev.Agree.ite (fun _ => ?_) (fun _ => ?_)
      · refine Dev.Agree.trans ?_ (ih _ _)
        refine Dev.Agree.ite (fun _ => ?_) (fun _ => ?_)
        · refine Dev.Agree.step (Dev.raise_frame _ _ _ _ _) (by decide) (by decide) ?_
          exact Dev.Agree.inc (by decide) (by decide) Dev.Agree.refl
        · exact Dev.Agree.inc (by decide) (by decide) Dev.Agree.refl
      · refine Dev.Agree.trans ?_ (ih _ _)
        exact Dev.Agree.step (Dev.ringPut_frame _ _ _) (by decide) (by decide) Dev.Agree.refl

theorem Dev.deliverEvents_frame (d : Dev) : Dev.Agree [0x90, 0x91, 0xC0] [.evt, .host] d (Dev.deliverEvents d) := by
  unfold Dev.deliverEvents
  repeat' (first
    | (with_reducible intro x; first
        | (with_reducible refine Dev.Agree.have (cs := [0x90, 0x91, 0xC0]) (fs := [.evt, .host]) (a := d) (x := x) ?_ ?_; subst x; rotate_left 1; clear_value x; with_reducible intro _; rotate_right 1)
        | (with_reducible refine Dev.Agree.have (cs := [0x90, 0x91, 0xC0]) (fs := [.evt, .host]) (a := d) (x := x.2) ?_ ?_; subst x; rotate_left 1; clear_value x; with_reducible intro _; rotate_right 1)
        | clear_value x
        | skip)
    | with_reducible exact Dev.Agree.refl
    | with_reducible assumption
    | lift_lets -underBinder
    | with_reducible apply Dev.Agree.ite
    | (with_reducible apply Dev.Agree.step (Dev.eventMsgs_frame _ _ _ _); decide; decide)
    | with_reducible apply Dev.Agree.forN
    | (fail_if_no_progress with_reducible apply Dev.Agree.upd_evt; decide)
    | split)

theorem Dev.linkDown_frame (d : Dev) (l : Nat) : Dev.Agree [0x02, 0x90, 0xC0] [.evt, .host, .commits, .sup, .lid] d (Dev.linkDown d l) := by
  unfold Dev.linkDown
  repeat' (first
    | (with_reducible intro x; first
        | (with_reducible refine Dev.Agree.have (cs := [0x02, 0x90, 0xC0]) (fs := [.evt, .host, .commits, .sup, .lid]) (a := d) (x := x) ?_ ?_; subst x; rotate_left 1; clear_value x; with_reducible intro _; rotate_right 1)
        | (with_reducible refine Dev.Agree.have (cs := [0x02, 0x90, 0xC0]) (fs := [.evt, .host, .commits, .sup, .lid]) (a := d) (x := x.2) ?_ ?_; subst x; rotate_left 1; clear_value x; with_reducible intro _; rotate_right 1)
        | clear_value x
        | skip)
    | with_reducible exact Dev.Agree.refl
    | with_reducible assumption
    | lift_lets -underBinder
    | with_reducible apply Dev.Agree.ite
    | (with_reducible apply Dev.Agree.put; decide; decide)
    | (with_reducible apply Dev.Agree.step (Dev.ptpGone_frame _ _); decide; decide)
    | (with_reducible apply Dev.Agree.step (Dev.sessionEnd_frame _ _); decide; decide)
    | with_reducible apply Dev.Agree.forN
    | split)

theorem Dev.linkUp_frame (d : Dev) (l : Nat) (speed : Nat) (width : Nat) : Dev.Agree [0x90] [] d (Dev.linkUp d l speed width) := by
  unfold Dev.linkUp
  repeat' (first
    | (with_reducible intro x; first
        | (with_reducible refine Dev.Agree.have (cs := [0x90]) (fs := []) (a := d) (x := x) ?_ ?_; subst x; rotate_left 1; clear_value x; with_reducible intro _; rotate_right 1)
        | (with_reducible refine Dev.Agree.have (cs := [0x90]) (fs := []) (a := d) (x := x.2) ?_ ?_; subst x; rotate_left 1; clear_value x; with_reducible intro _; rotate_right 1)
        | clear_value x
        | skip)
    | with_reducible exact Dev.Agree.refl
    | with_reducible assumption
    | lift_lets -underBinder
    | with_reducible apply Dev.Agree.ite
    | (with_reducible apply Dev.Agree.put; decide; decide)
    | split)

theorem Dev.frameOut_frame (d : Dev) (port : Nat) (kind : Nat) (bytes : List Byte) : Dev.Agree [0x90] [.host] d (Dev.frameOut d port kind bytes) := by
  unfold Dev.frameOut
  repeat' (first
    | (with_reducible intro x; first
        | (with_reducible refine Dev.Agree.have (cs := [0x90]) (fs := [.host]) (a := d) (x := x) ?_ ?_; subst x; rotate_left 1; clear_value x; with_reducible intro _; rotate_right 1)
        | (with_reducible refine Dev.Agree.have (cs := [0x90]) (fs := [.host]) (a := d) (x := x.2) ?_ ?_; subst x; rotate_left 1; clear_value x; with_reducible intro _; rotate_right 1)
        | clear_value x
        | skip)
    | with_reducible exact Dev.Agree.refl
    | with_reducible assumption
    | lift_lets -underBinder
    | with_reducible apply Dev.Agree.ite
    | (with_reducible apply Dev.Agree.inc; decide; decide)
    | (fail_if_no_progress with_reducible apply Dev.Agree.upd_host; decide)
    | split)

theorem Dev.echo_frame (d : Dev) (port : Nat) (kind : EchoKind) (target : Nat) (data : List Byte) : Dev.Agree [0x90] [.host] d (Dev.echo d port kind target data) := by
  unfold Dev.echo
  repeat' (first
    | (with_reducible intro x; first
        | (with_reducible refine Dev.Agree.have (cs := [0x90]) (fs := [.host]) (a := d) (x := x) ?_ ?_; subst x; rotate_left 1; clear_value x; with_reducible intro _; rotate_right 1)
        | (with_reducible refine Dev.Agree.have (cs := [0x90]) (fs := [.host]) (a := d) (x := x.2) ?_ ?_; subst x; rotate_left 1; clear_value x; with_reducible intro _; rotate_right 1)
        | clear_value x
        | skip)
    | with_reducible exact Dev.Agree.refl
    | with_reducible assumption
    | lift_lets -underBinder
    | with_reducible apply Dev.Agree.ite
    | (with_reducible apply Dev.Agree.inc; decide; decide)
    | (with_reducible apply Dev.Agree.step (Dev.frameOut_frame _ _ _ _); decide; decide)
    | split)

theorem Dev.hsrForward_frame (d : Dev) (port : Nat) (src : Nat) (seq : Nat) (frame : List Byte) : Dev.Agree [0x90] [.host] d (Dev.hsrForward d port src seq frame) := by
  unfold Dev.hsrForward
  repeat' (first
    | (with_reducible intro x; first
        | (with_reducible refine Dev.Agree.have (cs := [0x90]) (fs := [.host]) (a := d) (x := x) ?_ ?_; subst x; rotate_left 1; clear_value x; with_reducible intro _; rotate_right 1)
        | (with_reducible refine Dev.Agree.have (cs := [0x90]) (fs := [.host]) (a := d) (x := x.2) ?_ ?_; subst x; rotate_left 1; clear_value x; with_reducible intro _; rotate_right 1)
        | clear_value x
        | skip)
    | with_reducible exact Dev.Agree.refl
    | with_reducible assumption
    | lift_lets -underBinder
    | with_reducible apply Dev.Agree.ite
    | (with_reducible apply Dev.Agree.inc; decide; decide)
    | (with_reducible apply Dev.Agree.step (Dev.frameOut_frame _ _ _ _); decide; decide)
    | (fail_if_no_progress with_reducible apply Dev.Agree.upd_host; decide)
    | split)

theorem Dev.supervision_frame (d : Dev) : Dev.Agree [0x90] [.host] d (Dev.supervision d) := by
  unfold Dev.supervision
  repeat' (first
    | (with_reducible intro x; first
        | (with_reducible refine Dev.Agree.have (cs := [0x90]) (fs := [.host]) (a := d) (x := x) ?_ ?_; subst x; rotate_left 1; clear_value x; with_reducible intro _; rotate_right 1)
        | (with_reducible refine Dev.Agree.have (cs := [0x90]) (fs := [.host]) (a := d) (x := x.2) ?_ ?_; subst x; rotate_left 1; clear_value x; with_reducible intro _; rotate_right 1)
        | clear_value x
        | skip)
    | with_reducible exact Dev.Agree.refl
    | with_reducible assumption
    | lift_lets -underBinder
    | with_reducible apply Dev.Agree.ite
    | (with_reducible apply Dev.Agree.step (Dev.frameOut_frame _ _ _ _); decide; decide)
    | (fail_if_no_progress with_reducible apply Dev.Agree.upd_host; decide)
    | split)

theorem Dev.svFrame_frame (d : Dev) (port : Nat) (mac : Nat) (appid : Nat) (id : Nat) (synch : Nat) (datasetOk : Bool) (qualityOk : Bool) (dup : Bool) : Dev.Agree [0x22, 0x90, 0xC0] [.evt, .host, .isls] d (Dev.svFrame d port mac appid id synch datasetOk qualityOk dup) := by
  unfold Dev.svFrame
  repeat' (first
    | (with_reducible intro x; first
        | (with_reducible refine Dev.Agree.have (cs := [0x22, 0x90, 0xC0]) (fs := [.evt, .host, .isls]) (a := d) (x := x) ?_ ?_; subst x; rotate_left 1; clear_value x; with_reducible intro _; rotate_right 1)
        | (with_reducible refine Dev.Agree.have (cs := [0x22, 0x90, 0xC0]) (fs := [.evt, .host, .isls]) (a := d) (x := x.2) ?_ ?_; subst x; rotate_left 1; clear_value x; with_reducible intro _; rotate_right 1)
        | clear_value x
        | skip)
    | with_reducible exact Dev.Agree.refl
    | with_reducible assumption
    | lift_lets -underBinder
    | with_reducible apply Dev.Agree.ite
    | (with_reducible apply Dev.Agree.inc; decide; decide)
    | (with_reducible apply Dev.Agree.step (Dev.svEval_frame _ _); decide; decide)
    | (with_reducible apply Dev.Agree.step (Dev.svGone_frame _ _); decide; decide)
    | with_reducible apply Dev.Agree.forN
    | (fail_if_no_progress with_reducible apply Dev.Agree.upd_host; decide)
    | split)

theorem Dev.svAbsent_frame (d : Dev) (k : Nat) : Dev.Agree [0x22, 0xC0] [.evt, .host, .isls] d (Dev.svAbsent d k) := by
  unfold Dev.svAbsent
  repeat' (first
    | (with_reducible intro x; first
        | (with_reducible refine Dev.Agree.have (cs := [0x22, 0xC0]) (fs := [.evt, .host, .isls]) (a := d) (x := x) ?_ ?_; subst x; rotate_left 1; clear_value x; with_reducible intro _; rotate_right 1)
        | (with_reducible refine Dev.Agree.have (cs := [0x22, 0xC0]) (fs := [.evt, .host, .isls]) (a := d) (x := x.2) ?_ ?_; subst x; rotate_left 1; clear_value x; with_reducible intro _; rotate_right 1)
        | clear_value x
        | skip)
    | with_reducible exact Dev.Agree.refl
    | with_reducible assumption
    | lift_lets -underBinder
    | with_reducible apply Dev.Agree.ite
    | (with_reducible apply Dev.Agree.step (Dev.svGone_frame _ _); decide; decide)
    | split)

theorem Dev.reassemblyTimeout_frame (d : Dev) (l : Nat) (n : Nat) : Dev.Agree [] [.host] d (Dev.reassemblyTimeout d l n) := by
  unfold Dev.reassemblyTimeout
  repeat' (first
    | (with_reducible intro x; first
        | (with_reducible refine Dev.Agree.have (cs := []) (fs := [.host]) (a := d) (x := x) ?_ ?_; subst x; rotate_left 1; clear_value x; with_reducible intro _; rotate_right 1)
        | (with_reducible refine Dev.Agree.have (cs := []) (fs := [.host]) (a := d) (x := x.2) ?_ ?_; subst x; rotate_left 1; clear_value x; with_reducible intro _; rotate_right 1)
        | clear_value x
        | skip)
    | with_reducible exact Dev.Agree.refl
    | with_reducible assumption
    | lift_lets -underBinder
    | with_reducible apply Dev.Agree.ite
    | (fail_if_no_progress with_reducible apply Dev.Agree.upd_host; decide)
    | split)

theorem Dev.timeRegisterRead_frame (d : Dev) : Dev.Agree [] [.host] d (Dev.timeRegisterRead d) := by
  unfold Dev.timeRegisterRead
  repeat' (first
    | (with_reducible intro x; first
        | (with_reducible refine Dev.Agree.have (cs := []) (fs := [.host]) (a := d) (x := x) ?_ ?_; subst x; rotate_left 1; clear_value x; with_reducible intro _; rotate_right 1)
        | (with_reducible refine Dev.Agree.have (cs := []) (fs := [.host]) (a := d) (x := x.2) ?_ ?_; subst x; rotate_left 1; clear_value x; with_reducible intro _; rotate_right 1)
        | clear_value x
        | skip)
    | with_reducible exact Dev.Agree.refl
    | with_reducible assumption
    | lift_lets -underBinder
    | with_reducible apply Dev.Agree.ite
    | (fail_if_no_progress with_reducible apply Dev.Agree.upd_host; decide)
    | split)

theorem Dev.register_frame (d : Dev) (m : Msg) : Dev.Agree [] [.host] d (Dev.register d m) := by
  unfold Dev.register
  repeat' (first
    | (with_reducible intro x; first
        | (with_reducible refine Dev.Agree.have (cs := []) (fs := [.host]) (a := d) (x := x) ?_ ?_; subst x; rotate_left 1; clear_value x; with_reducible intro _; rotate_right 1)
        | (with_reducible refine Dev.Agree.have (cs := []) (fs := [.host]) (a := d) (x := x.2) ?_ ?_; subst x; rotate_left 1; clear_value x; with_reducible intro _; rotate_right 1)
        | clear_value x
        | skip)
    | with_reducible exact Dev.Agree.refl
    | with_reducible assumption
    | lift_lets -underBinder
    | with_reducible apply Dev.Agree.ite
    | (fail_if_no_progress with_reducible apply Dev.Agree.upd_host; decide)
    | split)

theorem Dev.registerRefused_frame (d : Dev) (s : Nat) (tag : Nat) (op : Nat) (st : Nat) : Dev.Agree [] [.host] d (Dev.registerRefused d s tag op st) := by
  unfold Dev.registerRefused
  repeat' (first
    | (with_reducible intro x; first
        | (with_reducible refine Dev.Agree.have (cs := []) (fs := [.host]) (a := d) (x := x) ?_ ?_; subst x; rotate_left 1; clear_value x; with_reducible intro _; rotate_right 1)
        | (with_reducible refine Dev.Agree.have (cs := []) (fs := [.host]) (a := d) (x := x.2) ?_ ?_; subst x; rotate_left 1; clear_value x; with_reducible intro _; rotate_right 1)
        | clear_value x
        | skip)
    | with_reducible exact Dev.Agree.refl
    | with_reducible assumption
    | lift_lets -underBinder
    | with_reducible apply Dev.Agree.ite
    | (with_reducible apply Dev.Agree.step (Dev.register_frame _ _); decide; decide)
    | split)

theorem Dev.regWrite_frame (d : Dev) (s : Nat) (tag : Nat) (es : List WEntry) : Dev.Agree [0x60, 0x61, 0xC0] [.evt, .host, .caps, .trigs, .weave] d (Dev.regWrite d s tag es) := by
  unfold Dev.regWrite
  repeat' (first
    | (with_reducible intro x; first
        | (with_reducible refine Dev.Agree.have (cs := [0x60, 0x61, 0xC0]) (fs := [.evt, .host, .caps, .trigs, .weave]) (a := d) (x := x) ?_ ?_; subst x; rotate_left 1; clear_value x; with_reducible intro _; rotate_right 1)
        | (with_reducible refine Dev.Agree.have (cs := [0x60, 0x61, 0xC0]) (fs := [.evt, .host, .caps, .trigs, .weave]) (a := d) (x := x.2) ?_ ?_; subst x; rotate_left 1; clear_value x; with_reducible intro _; rotate_right 1)
        | clear_value x
        | skip)
    | with_reducible exact Dev.Agree.refl
    | with_reducible assumption
    | lift_lets -underBinder
    | with_reducible apply Dev.Agree.ite
    | (with_reducible apply Dev.Agree.step (Dev.fireTrig_frame _ _ _ _ _); decide; decide)
    | (with_reducible apply Dev.Agree.step (Dev.register_frame _ _); decide; decide)
    | (with_reducible apply Dev.Agree.step (Dev.registerRefused_frame _ _ _ _ _); decide; decide)
    | with_reducible apply Dev.Agree.forL
    | split)

theorem Dev.regBulk_frame (d : Dev) (s : Nat) (tag : Nat) (obj : Nat) (off : Nat) (data : List Byte) : Dev.Agree [] [.host] d (Dev.regBulk d s tag obj off data) := by
  unfold Dev.regBulk
  repeat' (first
    | (with_reducible intro x; first
        | (with_reducible refine Dev.Agree.have (cs := []) (fs := [.host]) (a := d) (x := x) ?_ ?_; subst x; rotate_left 1; clear_value x; with_reducible intro _; rotate_right 1)
        | (with_reducible refine Dev.Agree.have (cs := []) (fs := [.host]) (a := d) (x := x.2) ?_ ?_; subst x; rotate_left 1; clear_value x; with_reducible intro _; rotate_right 1)
        | clear_value x
        | skip)
    | with_reducible exact Dev.Agree.refl
    | with_reducible assumption
    | lift_lets -underBinder
    | with_reducible apply Dev.Agree.ite
    | (with_reducible apply Dev.Agree.step (Dev.register_frame _ _); decide; decide)
    | split)

theorem Dev.regClaim_frame (d : Dev) (s tag : Nat) (objs : List (BitVec 32)) : Dev.Agree [] [.host] d (Dev.regClaim d s tag objs) := by
  unfold Dev.regClaim
  simp only
  refine Dev.Agree.step (Dev.register_frame _ _) (by decide) (by decide) ?_
  refine Dev.Agree.foldl3 (fun x y hx => ?_) Dev.Agree.refl
  exact Dev.Agree.step (Dev.claimEntry_frame _ _ _) (by decide) (by decide) hx

theorem Dev.regRelease_frame (d : Dev) (s : Nat) (tag : Nat) (objs : List (BitVec 32)) : Dev.Agree [] [.host] d (Dev.regRelease d s tag objs) := by
  unfold Dev.regRelease
  repeat' (first
    | (with_reducible intro x; first
        | (with_reducible refine Dev.Agree.have (cs := []) (fs := [.host]) (a := d) (x := x) ?_ ?_; subst x; rotate_left 1; clear_value x; with_reducible intro _; rotate_right 1)
        | (with_reducible refine Dev.Agree.have (cs := []) (fs := [.host]) (a := d) (x := x.2) ?_ ?_; subst x; rotate_left 1; clear_value x; with_reducible intro _; rotate_right 1)
        | clear_value x
        | skip)
    | with_reducible exact Dev.Agree.refl
    | with_reducible assumption
    | lift_lets -underBinder
    | with_reducible apply Dev.Agree.ite
    | (with_reducible apply Dev.Agree.step (Dev.releaseEntry_frame _ _ _); decide; decide)
    | (with_reducible apply Dev.Agree.step (Dev.register_frame _ _); decide; decide)
    | with_reducible apply Dev.Agree.foldl
    | with_reducible apply Dev.Agree.foldl2
    | split)

theorem Dev.regMode_frame (d : Dev) (s : Nat) (tag : Nat) (code : Nat) : Dev.Agree [] [.host] d (Dev.regMode d s tag code) := by
  unfold Dev.regMode
  repeat' (first
    | (with_reducible intro x; first
        | (with_reducible refine Dev.Agree.have (cs := []) (fs := [.host]) (a := d) (x := x) ?_ ?_; subst x; rotate_left 1; clear_value x; with_reducible intro _; rotate_right 1)
        | (with_reducible refine Dev.Agree.have (cs := []) (fs := [.host]) (a := d) (x := x.2) ?_ ?_; subst x; rotate_left 1; clear_value x; with_reducible intro _; rotate_right 1)
        | clear_value x
        | skip)
    | with_reducible exact Dev.Agree.refl
    | with_reducible assumption
    | lift_lets -underBinder
    | with_reducible apply Dev.Agree.ite
    | (with_reducible apply Dev.Agree.step (Dev.register_frame _ _); decide; decide)
    | split)

theorem Dev.stopTrip_frame (d : Dev) : Dev.Agree [0x20, 0x30, 0x31, 0xC0] [.evt, .mode, .legs, .ports] d (Dev.stopTrip d) := by
  unfold Dev.stopTrip
  repeat' (first
    | (with_reducible intro x; first
        | (with_reducible refine Dev.Agree.have (cs := [0x20, 0x30, 0x31, 0xC0]) (fs := [.evt, .mode, .legs, .ports]) (a := d) (x := x) ?_ ?_; subst x; rotate_left 1; clear_value x; with_reducible intro _; rotate_right 1)
        | (with_reducible refine Dev.Agree.have (cs := [0x20, 0x30, 0x31, 0xC0]) (fs := [.evt, .mode, .legs, .ports]) (a := d) (x := x.2) ?_ ?_; subst x; rotate_left 1; clear_value x; with_reducible intro _; rotate_right 1)
        | clear_value x
        | skip)
    | with_reducible exact Dev.Agree.refl
    | with_reducible assumption
    | lift_lets -underBinder
    | with_reducible apply Dev.Agree.ite
    | (with_reducible apply Dev.Agree.step (Dev.tripLegs_frame _ _ _); decide; decide)
    | (fail_if_no_progress with_reducible apply Dev.Agree.upd_mode; decide)
    | split)

theorem Dev.stopLegs_frame (d : Dev) : Dev.Agree [0x20, 0x30, 0x31, 0xC0] [.evt, .legs, .ports] d (Dev.stopLegs d) := by
  unfold Dev.stopLegs
  repeat' (first
    | (with_reducible intro x; first
        | (with_reducible refine Dev.Agree.have (cs := [0x20, 0x30, 0x31, 0xC0]) (fs := [.evt, .legs, .ports]) (a := d) (x := x) ?_ ?_; subst x; rotate_left 1; clear_value x; with_reducible intro _; rotate_right 1)
        | (with_reducible refine Dev.Agree.have (cs := [0x20, 0x30, 0x31, 0xC0]) (fs := [.evt, .legs, .ports]) (a := d) (x := x.2) ?_ ?_; subst x; rotate_left 1; clear_value x; with_reducible intro _; rotate_right 1)
        | clear_value x
        | skip)
    | with_reducible exact Dev.Agree.refl
    | with_reducible assumption
    | lift_lets -underBinder
    | with_reducible apply Dev.Agree.ite
    | (with_reducible apply Dev.Agree.step (Dev.tripLegs_frame _ _ _); decide; decide)
    | split)

theorem Dev.abortOp_frame (d : Dev) (s : Nat) (tag : Nat) : Dev.Agree [0x90, 0x91, 0xC0] [.evt, .host, .tsets, .commits, .weave, .lid] d (Dev.abortOp d s tag).2 := by
  unfold Dev.abortOp
  repeat' (first
    | (with_reducible intro x; first
        | (with_reducible refine Dev.Agree.have (cs := [0x90, 0x91, 0xC0]) (fs := [.evt, .host, .tsets, .commits, .weave, .lid]) (a := d) (x := x) ?_ ?_; subst x; rotate_left 1; clear_value x; with_reducible intro _; rotate_right 1)
        | (with_reducible refine Dev.Agree.have (cs := [0x90, 0x91, 0xC0]) (fs := [.evt, .host, .tsets, .commits, .weave, .lid]) (a := d) (x := x.2) ?_ ?_; subst x; rotate_left 1; clear_value x; with_reducible intro _; rotate_right 1)
        | clear_value x
        | skip)
    | with_reducible exact Dev.Agree.refl
    | with_reducible assumption
    | lift_lets -underBinder
    | with_reducible apply Dev.Agree.ite
    | with_reducible apply Dev.Agree.ite2
    | split
    | (with_reducible apply Dev.Agree.step (Dev.commitEnd_frame _ _ _ _); decide; decide)
    | (with_reducible apply Dev.Agree.step (Dev.activateAbort_frame _); decide; decide))

theorem Dev.proxyOut_frame (d : Dev) (s : Nat) (tag : Nat) (stake : Nat) (back : Nat) (inner : List Byte) : Dev.Agree [0x90, 0x91] [.host, .weave] d (Dev.proxyOut d s tag stake back inner) := by
  unfold Dev.proxyOut
  repeat' (first
    | (with_reducible intro x; first
        | (with_reducible refine Dev.Agree.have (cs := [0x90, 0x91]) (fs := [.host, .weave]) (a := d) (x := x) ?_ ?_; subst x; rotate_left 1; clear_value x; with_reducible intro _; rotate_right 1)
        | (with_reducible refine Dev.Agree.have (cs := [0x90, 0x91]) (fs := [.host, .weave]) (a := d) (x := x.2) ?_ ?_; subst x; rotate_left 1; clear_value x; with_reducible intro _; rotate_right 1)
        | clear_value x
        | skip)
    | with_reducible exact Dev.Agree.refl
    | with_reducible assumption
    | lift_lets -underBinder
    | with_reducible apply Dev.Agree.ite
    | (with_reducible apply Dev.Agree.step (Dev.weavePut_frame _ _ _ _ _); decide; decide)
    | (with_reducible apply Dev.Agree.step (Dev.respond_frame _ _ _ _ _ _ _ _); decide; decide)
    | (fail_if_no_progress with_reducible apply Dev.Agree.upd_host; decide)
    | split)

theorem Dev.proxyBack_frame (d : Dev) (stake : Nat) (session : Nat) (bytes : List Byte) : Dev.Agree [0x90, 0x91] [.host, .weave] d (Dev.proxyBack d stake session bytes) := by
  unfold Dev.proxyBack
  repeat' (first
    | (with_reducible intro x; first
        | (with_reducible refine Dev.Agree.have (cs := [0x90, 0x91]) (fs := [.host, .weave]) (a := d) (x := x) ?_ ?_; subst x; rotate_left 1; clear_value x; with_reducible intro _; rotate_right 1)
        | (with_reducible refine Dev.Agree.have (cs := [0x90, 0x91]) (fs := [.host, .weave]) (a := d) (x := x.2) ?_ ?_; subst x; rotate_left 1; clear_value x; with_reducible intro _; rotate_right 1)
        | clear_value x
        | skip)
    | with_reducible exact Dev.Agree.refl
    | with_reducible assumption
    | lift_lets -underBinder
    | with_reducible apply Dev.Agree.ite
    | (with_reducible apply Dev.Agree.step (Dev.ringPut_frame _ _ _); decide; decide)
    | (with_reducible apply Dev.Agree.step (Dev.weavePut_frame _ _ _ _ _); decide; decide)
    | split)

theorem Dev.helloRefuse_frame (d : Dev) (link : Nat) (i : Nat) (tag : Nat) (st : Nat) : Dev.Agree [0x90, 0x91] [.host] d (Dev.helloRefuse d link i tag st) := by
  unfold Dev.helloRefuse
  repeat' (first
    | (with_reducible intro x; first
        | (with_reducible refine Dev.Agree.have (cs := [0x90, 0x91]) (fs := [.host]) (a := d) (x := x) ?_ ?_; subst x; rotate_left 1; clear_value x; with_reducible intro _; rotate_right 1)
        | (with_reducible refine Dev.Agree.have (cs := [0x90, 0x91]) (fs := [.host]) (a := d) (x := x.2) ?_ ?_; subst x; rotate_left 1; clear_value x; with_reducible intro _; rotate_right 1)
        | clear_value x
        | skip)
    | with_reducible exact Dev.Agree.refl
    | with_reducible assumption
    | lift_lets -underBinder
    | with_reducible apply Dev.Agree.ite
    | (with_reducible apply Dev.Agree.step (Dev.ringPush_frame _ _ _); decide; decide)
    | (fail_if_no_progress with_reducible apply Dev.Agree.upd_host; decide)
    | split)

theorem Dev.helloTake_frame (d : Dev) (s : Nat) (tag : Nat) (x : Sess) (hello : List Byte) (cred : List Byte) : Dev.Agree [0x90, 0x91] [.host, .weave] d (Dev.helloTake d s tag x hello cred) := by
  unfold Dev.helloTake
  repeat' (first
    | (with_reducible intro x; first
        | (with_reducible refine Dev.Agree.have (cs := [0x90, 0x91]) (fs := [.host, .weave]) (a := d) (x := x) ?_ ?_; subst x; rotate_left 1; clear_value x; with_reducible intro _; rotate_right 1)
        | (with_reducible refine Dev.Agree.have (cs := [0x90, 0x91]) (fs := [.host, .weave]) (a := d) (x := x.2) ?_ ?_; subst x; rotate_left 1; clear_value x; with_reducible intro _; rotate_right 1)
        | clear_value x
        | skip)
    | with_reducible exact Dev.Agree.refl
    | with_reducible assumption
    | lift_lets -underBinder
    | with_reducible apply Dev.Agree.ite
    | (with_reducible apply Dev.Agree.step (Dev.setSess_frame _ _ _); decide; decide)
    | (with_reducible apply Dev.Agree.step (Dev.sendTo_frame _ _ _); decide; decide)
    | (with_reducible apply Dev.Agree.step (Dev.pairRings_frame _ _ _ _); decide; decide)
    | split)

theorem Dev.hello_frame (d : Dev) (link : Nat) (session : Option Nat) (tag : Nat) (payload : List Byte) : Dev.Agree [0x90, 0x91] [.host, .weave] d (Dev.hello d link session tag payload) := by
  unfold Dev.hello
  repeat' (first
    | (with_reducible intro x; first
        | (with_reducible refine Dev.Agree.have (cs := [0x90, 0x91]) (fs := [.host, .weave]) (a := d) (x := x) ?_ ?_; subst x; rotate_left 1; clear_value x; with_reducible intro _; rotate_right 1)
        | (with_reducible refine Dev.Agree.have (cs := [0x90, 0x91]) (fs := [.host, .weave]) (a := d) (x := x.2) ?_ ?_; subst x; rotate_left 1; clear_value x; with_reducible intro _; rotate_right 1)
        | clear_value x
        | skip)
    | with_reducible exact Dev.Agree.refl
    | with_reducible assumption
    | lift_lets -underBinder
    | with_reducible apply Dev.Agree.ite
    | (with_reducible apply Dev.Agree.inc; decide; decide)
    | (with_reducible apply Dev.Agree.step (Dev.respond_frame _ _ _ _ _ _ _ _); decide; decide)
    | (with_reducible apply Dev.Agree.step (Dev.ringTake_frame _ _ _); decide; decide)
    | (with_reducible apply Dev.Agree.step (Dev.helloRefuse_frame _ _ _ _ _); decide; decide)
    | (with_reducible apply Dev.Agree.step (Dev.helloTake_frame _ _ _ _ _ _); decide; decide)
    | split)

theorem Dev.finish_frame (d : Dev) (s : Nat) (tag : Nat) (sealed : Bool) (sig : List Byte) : Dev.Agree [0x90, 0x91, 0xA0, 0xC0] [.evt, .host, .weave, .lid] d (Dev.finish d s tag sealed sig) := by
  unfold Dev.finish
  repeat' (first
    | (with_reducible intro x; first
        | (with_reducible refine Dev.Agree.have (cs := [0x90, 0x91, 0xA0, 0xC0]) (fs := [.evt, .host, .weave, .lid]) (a := d) (x := x) ?_ ?_; subst x; rotate_left 1; clear_value x; with_reducible intro _; rotate_right 1)
        | (with_reducible refine Dev.Agree.have (cs := [0x90, 0x91, 0xA0, 0xC0]) (fs := [.evt, .host, .weave, .lid]) (a := d) (x := x.2) ?_ ?_; subst x; rotate_left 1; clear_value x; with_reducible intro _; rotate_right 1)
        | clear_value x
        | skip)
    | with_reducible exact Dev.Agree.refl
    | with_reducible assumption
    | lift_lets -underBinder
    | with_reducible apply Dev.Agree.ite
    | (with_reducible apply Dev.Agree.inc; decide; decide)
    | (with_reducible apply Dev.Agree.step (Dev.raise_frame _ _ _ _ _); decide; decide)
    | (with_reducible apply Dev.Agree.step (Dev.setSess_frame _ _ _); decide; decide)
    | (with_reducible apply Dev.Agree.step (Dev.respond_frame _ _ _ _ _ _ _ _); decide; decide)
    | (with_reducible apply Dev.Agree.step (Dev.sessionOpen_frame _ _ _); decide; decide)
    | split)

/-- The messages of ch. 18. -/
theorem updMessage_agree {cs : List Nat} {fs : List Fld} {d : Dev} {s tag st : Nat} {m : HostMsg} {bs : List Byte} {more : Bool} {e : Dev}
    (hc : within [0xA0, 0xA1, 0xC0] cs = true) (hf : within [.evt, .host, .lid] fs = true) (h : d.updMessage s tag m = some (st, bs, more, e)) : d.Agree cs fs e := by
  have key : d.Agree [0xA0, 0xA1, 0xC0] [.evt, .host, .lid] e := by
    unfold Dev.updMessage at h
    cases m with
    | attest x => simp only [Option.some.injEq, Prod.mk.injEq] at h; obtain ⟨_, _, _, rfl⟩ := h; exact Dev.Agree.step (Dev.attest_frame _ _) (by decide) (by decide) Dev.Agree.refl
    | updManifest a b c => simp only [Option.some.injEq, Prod.mk.injEq] at h; obtain ⟨_, _, _, rfl⟩ := h; exact Dev.Agree.step (Dev.updManifest_frame _ _ _ _ _) (by decide) (by decide) Dev.Agree.refl
    | updChunk a b c => simp only [Option.some.injEq, Prod.mk.injEq] at h; obtain ⟨_, _, _, rfl⟩ := h; exact Dev.Agree.step (Dev.updChunk_frame _ _ _ _ _) (by decide) (by decide) Dev.Agree.refl
    | updStatus => simp only [Option.some.injEq, Prod.mk.injEq] at h; obtain ⟨_, _, _, rfl⟩ := h; exact Dev.Agree.refl
    | updCancel => simp only [Option.some.injEq, Prod.mk.injEq] at h; obtain ⟨_, _, _, rfl⟩ := h; exact Dev.Agree.step (Dev.updCancel_frame _ _) (by decide) (by decide) Dev.Agree.refl
    | updActivate a =>
      simp only at h
      split at h
      · simp only [Option.some.injEq, Prod.mk.injEq] at h; obtain ⟨_, _, _, rfl⟩ := h
        exact Dev.Agree.step (Dev.activateStart_frame _ _ _ _) (by decide) (by decide) Dev.Agree.refl
      · simp only [Option.some.injEq, Prod.mk.injEq] at h; obtain ⟨_, _, _, rfl⟩ := h
        exact Dev.Agree.step (Dev.refuseUpd_frame _ _) (by decide) (by decide) Dev.Agree.refl
    | updConfirm =>
      simp only at h
      split at h
      · simp only [Option.some.injEq, Prod.mk.injEq] at h; obtain ⟨_, _, _, rfl⟩ := h
        exact Dev.Agree.step (Dev.confirm_frame _) (by decide) (by decide) Dev.Agree.refl
      · simp only [Option.some.injEq, Prod.mk.injEq] at h; obtain ⟨_, _, _, rfl⟩ := h; exact Dev.Agree.refl
    | keyEnrol x =>
      simp only [Option.some.injEq, Prod.mk.injEq] at h; obtain ⟨_, _, _, rfl⟩ := h
      split
      · exact Dev.Agree.step (Dev.keyChange_frame _ _) (by decide) (by decide) Dev.Agree.refl
      · exact Dev.Agree.refl
    | keyRevoke x =>
      simp only [Option.some.injEq, Prod.mk.injEq] at h; obtain ⟨_, _, _, rfl⟩ := h
      split
      · exact Dev.Agree.step (Dev.keyChange_frame _ _) (by decide) (by decide) Dev.Agree.refl
      · exact Dev.Agree.refl
    | _ => cases h
  exact key.mono hc hf

theorem Dev.actOn_frame (d : Dev) (s : Nat) (tag : Nat) (shadow : Bool) (sealed : Bool) (back : Nat) (m : HostMsg) : Dev.Agree [0x20, 0x30, 0x31, 0x60, 0x61, 0x90, 0x91, 0xA0, 0xA1, 0xC0] [.evt, .host, .tsets, .commits, .mode, .legs, .ports, .caps, .trigs, .weave, .lid] d (Dev.actOn d s tag shadow sealed back m) := by
  unfold Dev.actOn
  cases m <;> dsimp only
  all_goals repeat' (first
    | (with_reducible intro x; first
        | (with_reducible refine Dev.Agree.have (cs := [0x20, 0x30, 0x31, 0x60, 0x61, 0x90, 0x91, 0xA0, 0xA1, 0xC0]) (fs := [.evt, .host, .tsets, .commits, .mode, .legs, .ports, .caps, .trigs, .weave, .lid]) (a := d) (x := x) ?_ ?_; subst x; rotate_left 1; clear_value x; with_reducible intro _; rotate_right 1)
        | (with_reducible refine Dev.Agree.have (cs := [0x20, 0x30, 0x31, 0x60, 0x61, 0x90, 0x91, 0xA0, 0xA1, 0xC0]) (fs := [.evt, .host, .tsets, .commits, .mode, .legs, .ports, .caps, .trigs, .weave, .lid]) (a := d) (x := x.2.2.2) ?_ ?_; subst x; rotate_left 1; clear_value x; with_reducible intro _; rotate_right 1)
        | (with_reducible refine Dev.Agree.have (cs := [0x20, 0x30, 0x31, 0x60, 0x61, 0x90, 0x91, 0xA0, 0xA1, 0xC0]) (fs := [.evt, .host, .tsets, .commits, .mode, .legs, .ports, .caps, .trigs, .weave, .lid]) (a := d) (x := x.2.2) ?_ ?_; subst x; rotate_left 1; clear_value x; with_reducible intro _; rotate_right 1)
        | (with_reducible refine Dev.Agree.have (cs := [0x20, 0x30, 0x31, 0x60, 0x61, 0x90, 0x91, 0xA0, 0xA1, 0xC0]) (fs := [.evt, .host, .tsets, .commits, .mode, .legs, .ports, .caps, .trigs, .weave, .lid]) (a := d) (x := x.2) ?_ ?_; subst x; rotate_left 1; clear_value x; with_reducible intro _; rotate_right 1)
        | clear_value x
        | skip)
    | with_reducible exact Dev.Agree.refl
    | with_reducible assumption
    | lift_lets -underBinder
    | with_reducible apply Dev.Agree.ite
    | (with_reducible apply Dev.Agree.step (Dev.respond_frame _ _ _ _ _ _ _ _); decide; decide)
    | (with_reducible apply Dev.Agree.step (Dev.refuseUpd_frame _ _); decide; decide)
    | (with_reducible apply Dev.Agree.step (Dev.updManifest_frame _ _ _ _ _); decide; decide)
    | (with_reducible apply Dev.Agree.step (Dev.updChunk_frame _ _ _ _ _); decide; decide)
    | (with_reducible apply Dev.Agree.step (Dev.updCancel_frame _ _); decide; decide)
    | (with_reducible apply Dev.Agree.step (Dev.activateStart_frame _ _ _ _); decide; decide)
    | (with_reducible apply Dev.Agree.step (Dev.confirm_frame _); decide; decide)
    | (with_reducible apply Dev.Agree.step (Dev.attest_frame _ _); decide; decide)
    | (with_reducible apply Dev.Agree.step (Dev.keyChange_frame _ _); decide; decide)
    | (with_reducible apply Dev.Agree.step (Dev.sessionEnd_frame _ _); decide; decide)
    | (with_reducible apply Dev.Agree.step (Dev.register_frame _ _); decide; decide)
    | (with_reducible apply Dev.Agree.step (Dev.regWrite_frame _ _ _ _); decide; decide)
    | (with_reducible apply Dev.Agree.step (Dev.regBulk_frame _ _ _ _ _ _); decide; decide)
    | (with_reducible apply Dev.Agree.step (Dev.regClaim_frame _ _ _ _); decide; decide)
    | (with_reducible apply Dev.Agree.step (Dev.regRelease_frame _ _ _ _); decide; decide)
    | (with_reducible apply Dev.Agree.step (Dev.regMode_frame _ _ _ _); decide; decide)
    | (with_reducible apply Dev.Agree.step (Dev.stopTrip_frame _); decide; decide)
    | (with_reducible apply Dev.Agree.step (Dev.stopLegs_frame _); decide; decide)
    | (with_reducible apply Dev.Agree.step (Dev.abortOp_frame _ _ _); decide; decide)
    | (with_reducible apply Dev.Agree.step (Dev.proxyOut_frame _ _ _ _ _ _); decide; decide)
    | (with_reducible apply Dev.Agree.step (Dev.finish_frame _ _ _ _ _); decide; decide)
    | exact updMessage_agree (by decide) (by decide) (by assumption)
    | split)

theorem Dev.takeMsg_frame (d : Dev) (s : Nat) (tag : Nat) (shadow : Bool) (sealed : Bool) (back : Nat) (m : HostMsg) : Dev.Agree [0x20, 0x30, 0x31, 0x60, 0x61, 0x90, 0x91, 0xA0, 0xA1, 0xC0] [.evt, .host, .tsets, .commits, .mode, .legs, .ports, .caps, .trigs, .weave, .lid] d (Dev.takeMsg d s tag shadow sealed back m) := by
  unfold Dev.takeMsg
  repeat' (first
    | (with_reducible intro x; first
        | (with_reducible refine Dev.Agree.have (cs := [0x20, 0x30, 0x31, 0x60, 0x61, 0x90, 0x91, 0xA0, 0xA1, 0xC0]) (fs := [.evt, .host, .tsets, .commits, .mode, .legs, .ports, .caps, .trigs, .weave, .lid]) (a := d) (x := x) ?_ ?_; subst x; rotate_left 1; clear_value x; with_reducible intro _; rotate_right 1)
        | (with_reducible refine Dev.Agree.have (cs := [0x20, 0x30, 0x31, 0x60, 0x61, 0x90, 0x91, 0xA0, 0xA1, 0xC0]) (fs := [.evt, .host, .tsets, .commits, .mode, .legs, .ports, .caps, .trigs, .weave, .lid]) (a := d) (x := x.2) ?_ ?_; subst x; rotate_left 1; clear_value x; with_reducible intro _; rotate_right 1)
        | clear_value x
        | skip)
    | with_reducible exact Dev.Agree.refl
    | with_reducible assumption
    | lift_lets -underBinder
    | with_reducible apply Dev.Agree.ite
    | (with_reducible apply Dev.Agree.step (Dev.setSess_frame _ _ _); decide; decide)
    | (with_reducible apply Dev.Agree.step (Dev.sendTo_frame _ _ _); decide; decide)
    | (with_reducible apply Dev.Agree.step (Dev.actOn_frame _ _ _ _ _ _ _); decide; decide)
    | with_reducible apply Dev.Agree.forL
    | split)

theorem Dev.gate_frame (d : Dev) (h : Hdr) (ring : Nat) (m : HostMsg) : Dev.Agree [0x90, 0x91] [.host, .commits, .lid] d (Dev.gate d h ring m).2 := by
  have key : ∀ x : Dev, Dev.Agree [0x90, 0x91] [.host, .commits, .lid] d x → ∀ o : Option Seal, Dev.Agree [0x90, 0x91] [.host, .commits, .lid] d
      (match o with
        | some z => x.checkSeal h.session.val z
        | none => if x.isOn Par.linkSealRequired 0 then (Gate.refuse stAuth, x) else (Gate.take, x)).2 := by
    intro x hx o
    cases o with
    | none => simp only; split <;> exact hx
    | some z => exact Dev.Agree.step (Dev.checkSeal_frame _ _ _) (by decide) (by decide) hx
  unfold Dev.gate
  simp only
  split
  · exact Dev.Agree.refl
  · split
    · split
      · exact Dev.Agree.refl
      · split
        · exact Dev.Agree.inc (by decide) (by decide) (Dev.Agree.inc (by decide) (by decide) Dev.Agree.refl)
        · have h1 : Dev.Agree [0x90, 0x91] [.host, .commits, .lid] d (d.inc 64 Par.linkRxFrames (d.sess h.session.val).link) :=
            Dev.Agree.inc (by decide) (by decide) Dev.Agree.refl
          have hc := fun z => Dev.Agree.step (Dev.checkSeal_frame _ h.session.val z) (by decide) (by decide) h1
          split <;> exact hc _
    · split
      · exact Dev.Agree.refl
      · have h2 : Dev.Agree [0x90, 0x91] [.host, .commits, .lid] d ((d.ringTake ring (d.msgSlot h m)).inc 64 Par.linkRxFrames 0) :=
          Dev.Agree.inc (by decide) (by decide) (Dev.Agree.step (Dev.ringTake_frame d ring _) (by decide) (by decide) Dev.Agree.refl)
        have hx := key _ h2 h.sealed
        exact Dev.Agree.ite2 (fun _ => h2) (fun _ => Dev.Agree.ite2 (fun _ => hx) (fun _ => Dev.Agree.ite2
          (fun _ => Dev.Agree.ite2 (fun _ => hx) (fun _ => hx)) (fun _ => Dev.Agree.ite2 (fun _ => hx) (fun _ => hx))))

theorem Dev.recoveryMsg_frame (d : Dev) (h : Hdr) (m : HostMsg) : Dev.Agree [0x20, 0x30, 0x31, 0x60, 0x61, 0x90, 0x91, 0xA0, 0xA1, 0xC0] [.evt, .host, .tsets, .commits, .mode, .legs, .ports, .caps, .trigs, .weave, .lid] d (Dev.recoveryMsg d h m) := by
  unfold Dev.recoveryMsg
  repeat' (first
    | (with_reducible intro x; first
        | (with_reducible refine Dev.Agree.have (cs := [0x20, 0x30, 0x31, 0x60, 0x61, 0x90, 0x91, 0xA0, 0xA1, 0xC0]) (fs := [.evt, .host, .tsets, .commits, .mode, .legs, .ports, .caps, .trigs, .weave, .lid]) (a := d) (x := x) ?_ ?_; subst x; rotate_left 1; clear_value x; with_reducible intro _; rotate_right 1)
        | (with_reducible refine Dev.Agree.have (cs := [0x20, 0x30, 0x31, 0x60, 0x61, 0x90, 0x91, 0xA0, 0xA1, 0xC0]) (fs := [.evt, .host, .tsets, .commits, .mode, .legs, .ports, .caps, .trigs, .weave, .lid]) (a := d) (x := x.2) ?_ ?_; subst x; rotate_left 1; clear_value x; with_reducible intro _; rotate_right 1)
        | clear_value x
        | skip)
    | with_reducible exact Dev.Agree.refl
    | with_reducible assumption
    | lift_lets -underBinder
    | with_reducible apply Dev.Agree.ite
    | (with_reducible apply Dev.Agree.inc; decide; decide)
    | (with_reducible apply Dev.Agree.step (Dev.sendTo_frame _ _ _); decide; decide)
    | (with_reducible apply Dev.Agree.step (Dev.respond_frame _ _ _ _ _ _ _ _); decide; decide)
    | (with_reducible apply Dev.Agree.step (Dev.ringTake_frame _ _ _); decide; decide)
    | (with_reducible apply Dev.Agree.step (Dev.actOn_frame _ _ _ _ _ _ _); decide; decide)
    | with_reducible apply Dev.Agree.forL
    | split)

theorem Dev.hostMsgIn_frame (d : Dev) (h : Hdr) (ring : Nat) (back : Nat) (m : HostMsg) : Dev.Agree [0x20, 0x30, 0x31, 0x60, 0x61, 0x90, 0x91, 0xA0, 0xA1, 0xC0] [.evt, .host, .tsets, .commits, .mode, .legs, .ports, .caps, .trigs, .weave, .lid] d (Dev.hostMsgIn d h ring back m) := by
  unfold Dev.hostMsgIn
  repeat' (first
    | (with_reducible intro x; first
        | (with_reducible refine Dev.Agree.have (cs := [0x20, 0x30, 0x31, 0x60, 0x61, 0x90, 0x91, 0xA0, 0xA1, 0xC0]) (fs := [.evt, .host, .tsets, .commits, .mode, .legs, .ports, .caps, .trigs, .weave, .lid]) (a := d) (x := x) ?_ ?_; subst x; rotate_left 1; clear_value x; with_reducible intro _; rotate_right 1)
        | (with_reducible refine Dev.Agree.have (cs := [0x20, 0x30, 0x31, 0x60, 0x61, 0x90, 0x91, 0xA0, 0xA1, 0xC0]) (fs := [.evt, .host, .tsets, .commits, .mode, .legs, .ports, .caps, .trigs, .weave, .lid]) (a := d) (x := x.2) ?_ ?_; subst x; rotate_left 1; clear_value x; with_reducible intro _; rotate_right 1)
        | clear_value x
        | skip)
    | with_reducible exact Dev.Agree.refl
    | with_reducible assumption
    | lift_lets -underBinder
    | with_reducible apply Dev.Agree.ite
    | (with_reducible apply Dev.Agree.step (Dev.ringPush_frame _ _ _); decide; decide)
    | (with_reducible apply Dev.Agree.step (Dev.respond_frame _ _ _ _ _ _ _ _); decide; decide)
    | (with_reducible apply Dev.Agree.step (Dev.sessionOpen_frame _ _ _); decide; decide)
    | (with_reducible apply Dev.Agree.step (Dev.takeMsg_frame _ _ _ _ _ _ _); decide; decide)
    | (with_reducible apply Dev.Agree.step (Dev.gate_frame _ _ _ _); decide; decide)
    | (with_reducible apply Dev.Agree.step (Dev.recoveryMsg_frame _ _ _); decide; decide)
    | split)

theorem Dev.hostMsg_frame (d : Dev) (h : Hdr) (m : HostMsg) : Dev.Agree [0x20, 0x30, 0x31, 0x60, 0x61, 0x90, 0x91, 0xA0, 0xA1, 0xC0] [.evt, .host, .tsets, .commits, .mode, .legs, .ports, .caps, .trigs, .weave, .lid] d (Dev.hostMsg d h m) := by
  unfold Dev.hostMsg
  repeat' (first
    | (with_reducible intro x; first
        | (with_reducible refine Dev.Agree.have (cs := [0x20, 0x30, 0x31, 0x60, 0x61, 0x90, 0x91, 0xA0, 0xA1, 0xC0]) (fs := [.evt, .host, .tsets, .commits, .mode, .legs, .ports, .caps, .trigs, .weave, .lid]) (a := d) (x := x) ?_ ?_; subst x; rotate_left 1; clear_value x; with_reducible intro _; rotate_right 1)
        | (with_reducible refine Dev.Agree.have (cs := [0x20, 0x30, 0x31, 0x60, 0x61, 0x90, 0x91, 0xA0, 0xA1, 0xC0]) (fs := [.evt, .host, .tsets, .commits, .mode, .legs, .ports, .caps, .trigs, .weave, .lid]) (a := d) (x := x.2) ?_ ?_; subst x; rotate_left 1; clear_value x; with_reducible intro _; rotate_right 1)
        | clear_value x
        | skip)
    | with_reducible exact Dev.Agree.refl
    | with_reducible assumption
    | lift_lets -underBinder
    | with_reducible apply Dev.Agree.ite
    | (with_reducible apply Dev.Agree.step (Dev.hostMsgIn_frame _ _ _ _ _); decide; decide)
    | split)

theorem Dev.writeOne_frame (d : Dev) (h : Hdr) (p : Par) (i : Nat) (v : W64) : Dev.Agree [0x20, 0x30, 0x31, 0x60, 0x61, 0x90, 0x91, 0xA0, 0xA1, 0xC0] [.evt, .host, .tsets, .commits, .mode, .legs, .ports, .caps, .trigs, .weave, .lid] d (Dev.writeOne d h p i v) := by
  unfold Dev.writeOne
  repeat' (first
    | (with_reducible intro x; first
        | (with_reducible refine Dev.Agree.have (cs := [0x20, 0x30, 0x31, 0x60, 0x61, 0x90, 0x91, 0xA0, 0xA1, 0xC0]) (fs := [.evt, .host, .tsets, .commits, .mode, .legs, .ports, .caps, .trigs, .weave, .lid]) (a := d) (x := x) ?_ ?_; subst x; rotate_left 1; clear_value x; with_reducible intro _; rotate_right 1)
        | (with_reducible refine Dev.Agree.have (cs := [0x20, 0x30, 0x31, 0x60, 0x61, 0x90, 0x91, 0xA0, 0xA1, 0xC0]) (fs := [.evt, .host, .tsets, .commits, .mode, .legs, .ports, .caps, .trigs, .weave, .lid]) (a := d) (x := x.2) ?_ ?_; subst x; rotate_left 1; clear_value x; with_reducible intro _; rotate_right 1)
        | clear_value x
        | skip)
    | with_reducible exact Dev.Agree.refl
    | with_reducible assumption
    | lift_lets -underBinder
    | with_reducible apply Dev.Agree.ite
    | (with_reducible apply Dev.Agree.step (Dev.hostMsg_frame _ _ _); decide; decide)
    | split)

theorem Dev.weaveRequest_frame (d : Dev) (s : Nat) (tag : Nat) (shadow : Bool) (req : HostMsg) : Dev.Agree [0x20, 0x30, 0x31, 0x60, 0x61, 0x90, 0x91, 0xA0, 0xA1, 0xC0] [.evt, .host, .tsets, .commits, .mode, .legs, .ports, .caps, .trigs, .weave, .lid] d (Dev.weaveRequest d s tag shadow req) := by
  unfold Dev.weaveRequest
  repeat' (first
    | (with_reducible intro x; first
        | (with_reducible refine Dev.Agree.have (cs := [0x20, 0x30, 0x31, 0x60, 0x61, 0x90, 0x91, 0xA0, 0xA1, 0xC0]) (fs := [.evt, .host, .tsets, .commits, .mode, .legs, .ports, .caps, .trigs, .weave, .lid]) (a := d) (x := x) ?_ ?_; subst x; rotate_left 1; clear_value x; with_reducible intro _; rotate_right 1)
        | (with_reducible refine Dev.Agree.have (cs := [0x20, 0x30, 0x31, 0x60, 0x61, 0x90, 0x91, 0xA0, 0xA1, 0xC0]) (fs := [.evt, .host, .tsets, .commits, .mode, .legs, .ports, .caps, .trigs, .weave, .lid]) (a := d) (x := x.2) ?_ ?_; subst x; rotate_left 1; clear_value x; with_reducible intro _; rotate_right 1)
        | clear_value x
        | skip)
    | with_reducible exact Dev.Agree.refl
    | with_reducible assumption
    | lift_lets -underBinder
    | with_reducible apply Dev.Agree.ite
    | (with_reducible apply Dev.Agree.step (Dev.sendTo_frame _ _ _); decide; decide)
    | (with_reducible apply Dev.Agree.step (Dev.respond_frame _ _ _ _ _ _ _ _); decide; decide)
    | (with_reducible apply Dev.Agree.step (Dev.takeMsg_frame _ _ _ _ _ _ _); decide; decide)
    | with_reducible apply Dev.Agree.forL
    | split)

theorem Dev.applyEntries_frame (d : Dev) (sel : RegWrite → Bool) (m : Msg) : Dev.Agree allGroups [.evt, .host, .tsets, .commits, .mode, .legs, .ports, .caps, .trigs, .ctxs, .grids, .isls, .spokes, .cells, .arms, .adcs, .sdis, .wins, .weave, .rim, .met, .lid, .pwr] d (Dev.applyEntries d sel m).2 := by
  unfold Dev.applyEntries
  repeat' (first
    | (with_reducible intro x; first
        | (with_reducible refine Dev.Agree.have (cs := allGroups) (fs := [.evt, .host, .tsets, .commits, .mode, .legs, .ports, .caps, .trigs, .ctxs, .grids, .isls, .spokes, .cells, .arms, .adcs, .sdis, .wins, .weave, .rim, .met, .lid, .pwr]) (a := d) (x := x) ?_ ?_; subst x; rotate_left 1; clear_value x; with_reducible intro _; rotate_right 1)
        | (with_reducible refine Dev.Agree.have (cs := allGroups) (fs := [.evt, .host, .tsets, .commits, .mode, .legs, .ports, .caps, .trigs, .ctxs, .grids, .isls, .spokes, .cells, .arms, .adcs, .sdis, .wins, .weave, .rim, .met, .lid, .pwr]) (a := d) (x := x.2.2.2) ?_ ?_; subst x; rotate_left 1; clear_value x; with_reducible intro _; rotate_right 1)
        | (with_reducible refine Dev.Agree.have (cs := allGroups) (fs := [.evt, .host, .tsets, .commits, .mode, .legs, .ports, .caps, .trigs, .ctxs, .grids, .isls, .spokes, .cells, .arms, .adcs, .sdis, .wins, .weave, .rim, .met, .lid, .pwr]) (a := d) (x := x.2.2) ?_ ?_; subst x; rotate_left 1; clear_value x; with_reducible intro _; rotate_right 1)
        | (with_reducible refine Dev.Agree.have (cs := allGroups) (fs := [.evt, .host, .tsets, .commits, .mode, .legs, .ports, .caps, .trigs, .ctxs, .grids, .isls, .spokes, .cells, .arms, .adcs, .sdis, .wins, .weave, .rim, .met, .lid, .pwr]) (a := d) (x := x.2) ?_ ?_; subst x; rotate_left 1; clear_value x; with_reducible intro _; rotate_right 1)
        | clear_value x
        | skip)
    | with_reducible exact Dev.Agree.refl
    | with_reducible assumption
    | lift_lets -underBinder
    | with_reducible apply Dev.Agree.ite
    | with_reducible apply Dev.Agree.ite2
    | split
    | (with_reducible apply Dev.Agree.step (Dev.burstReqWrite_frame _ _ _); decide; decide)
    | (with_reducible apply Dev.Agree.step (Dev.applyWrite_frame _ _ _ _ _ _ _); decide; decide)
    | with_reducible apply Dev.Agree.foldl
    | with_reducible apply Dev.Agree.foldl2)

theorem Dev.applyMsgs_frame (d : Dev) (sel : RegWrite → Bool) (bulk : Bool) (ms : List Msg) : Dev.Agree allGroups [.evt, .host, .tsets, .commits, .mode, .legs, .ports, .caps, .trigs, .ctxs, .grids, .isls, .spokes, .cells, .arms, .adcs, .sdis, .wins, .weave, .rim, .met, .lid, .pwr] d (Dev.applyMsgs d sel bulk ms).2 := by
  unfold Dev.applyMsgs
  repeat' (first
    | (with_reducible intro x; first
        | (with_reducible refine Dev.Agree.have (cs := allGroups) (fs := [.evt, .host, .tsets, .commits, .mode, .legs, .ports, .caps, .trigs, .ctxs, .grids, .isls, .spokes, .cells, .arms, .adcs, .sdis, .wins, .weave, .rim, .met, .lid, .pwr]) (a := d) (x := x) ?_ ?_; subst x; rotate_left 1; clear_value x; with_reducible intro _; rotate_right 1)
        | (with_reducible refine Dev.Agree.have (cs := allGroups) (fs := [.evt, .host, .tsets, .commits, .mode, .legs, .ports, .caps, .trigs, .ctxs, .grids, .isls, .spokes, .cells, .arms, .adcs, .sdis, .wins, .weave, .rim, .met, .lid, .pwr]) (a := d) (x := x.2) ?_ ?_; subst x; rotate_left 1; clear_value x; with_reducible intro _; rotate_right 1)
        | clear_value x
        | skip)
    | with_reducible exact Dev.Agree.refl
    | with_reducible assumption
    | lift_lets -underBinder
    | with_reducible apply Dev.Agree.ite
    | with_reducible apply Dev.Agree.ite2
    | split
    | (with_reducible apply Dev.Agree.step (Dev.applyBulk_frame _ _ _ _); decide; decide)
    | (with_reducible apply Dev.Agree.step (Dev.applyEntries_frame _ _ _); decide; decide)
    | with_reducible apply Dev.Agree.foldl
    | with_reducible apply Dev.Agree.foldl2)

theorem Dev.applyGrid_frame (d : Dev) (ms : List Msg) : Dev.Agree [0x02] [.newGrid] d (Dev.applyGrid d ms).2 := by
  unfold Dev.applyGrid
  repeat' (first
    | (with_reducible intro x; first
        | (with_reducible refine Dev.Agree.have (cs := [0x02]) (fs := [.newGrid]) (a := d) (x := x) ?_ ?_; subst x; rotate_left 1; clear_value x; with_reducible intro _; rotate_right 1)
        | (with_reducible refine Dev.Agree.have (cs := [0x02]) (fs := [.newGrid]) (a := d) (x := x.2.2.2) ?_ ?_; subst x; rotate_left 1; clear_value x; with_reducible intro _; rotate_right 1)
        | (with_reducible refine Dev.Agree.have (cs := [0x02]) (fs := [.newGrid]) (a := d) (x := x.2.2) ?_ ?_; subst x; rotate_left 1; clear_value x; with_reducible intro _; rotate_right 1)
        | (with_reducible refine Dev.Agree.have (cs := [0x02]) (fs := [.newGrid]) (a := d) (x := x.2) ?_ ?_; subst x; rotate_left 1; clear_value x; with_reducible intro _; rotate_right 1)
        | clear_value x
        | skip)
    | with_reducible exact Dev.Agree.refl
    | with_reducible assumption
    | lift_lets -underBinder
    | with_reducible apply Dev.Agree.ite
    | with_reducible apply Dev.Agree.ite2
    | split
    | (with_reducible apply Dev.Agree.step (Dev.gridWrite_frame _ _ _ _ _); decide; decide)
    | with_reducible apply Dev.Agree.foldl
    | with_reducible apply Dev.Agree.foldl2)

theorem Dev.answerMsg_frame (d : Dev) (m : Msg) : Dev.Agree [0x90, 0x91, 0xC0] [.evt, .host, .tsets, .commits, .weave, .lid] d (Dev.answerMsg d m) := by
  unfold Dev.answerMsg
  repeat' (first
    | (with_reducible intro x; first
        | (with_reducible refine Dev.Agree.have (cs := [0x90, 0x91, 0xC0]) (fs := [.evt, .host, .tsets, .commits, .weave, .lid]) (a := d) (x := x) ?_ ?_; subst x; rotate_left 1; clear_value x; with_reducible intro _; rotate_right 1)
        | (with_reducible refine Dev.Agree.have (cs := [0x90, 0x91, 0xC0]) (fs := [.evt, .host, .tsets, .commits, .weave, .lid]) (a := d) (x := x.2) ?_ ?_; subst x; rotate_left 1; clear_value x; with_reducible intro _; rotate_right 1)
        | clear_value x
        | skip)
    | with_reducible exact Dev.Agree.refl
    | with_reducible assumption
    | lift_lets -underBinder
    | with_reducible apply Dev.Agree.ite
    | (with_reducible apply Dev.Agree.step (Dev.respond_frame _ _ _ _ _ _ _ _); decide; decide)
    | (with_reducible apply Dev.Agree.step (Dev.abortOp_frame _ _ _); decide; decide)
    | split)

theorem Dev.burstAnswer_frame (d : Dev) (sel : Nat → Bool) (st : Nat) : Dev.Agree [0x90, 0x91, 0xC0] [.evt, .host, .tsets, .commits, .weave, .lid] d (Dev.burstAnswer d sel st) := by
  unfold Dev.burstAnswer
  repeat' (first
    | (with_reducible intro x; first
        | (with_reducible refine Dev.Agree.have (cs := [0x90, 0x91, 0xC0]) (fs := [.evt, .host, .tsets, .commits, .weave, .lid]) (a := d) (x := x) ?_ ?_; subst x; rotate_left 1; clear_value x; with_reducible intro _; rotate_right 1)
        | (with_reducible refine Dev.Agree.have (cs := [0x90, 0x91, 0xC0]) (fs := [.evt, .host, .tsets, .commits, .weave, .lid]) (a := d) (x := x.2) ?_ ?_; subst x; rotate_left 1; clear_value x; with_reducible intro _; rotate_right 1)
        | clear_value x
        | skip)
    | with_reducible exact Dev.Agree.refl
    | with_reducible assumption
    | lift_lets -underBinder
    | with_reducible apply Dev.Agree.ite
    | (with_reducible apply Dev.Agree.step (Dev.answerMsg_frame _ _); decide; decide)
    | with_reducible apply Dev.Agree.forL
    | (fail_if_no_progress with_reducible apply Dev.Agree.upd_host; decide)
    | split)

theorem Dev.burstDecide_frame (d : Dev) (p : Nat) : Dev.Agree [0x30, 0x90, 0x91, 0xC0] [.evt, .host, .tsets, .commits, .ports, .weave, .lid] d (Dev.burstDecide d p) := by
  unfold Dev.burstDecide
  repeat' (first
    | (with_reducible intro x; first
        | (with_reducible refine Dev.Agree.have (cs := [0x30, 0x90, 0x91, 0xC0]) (fs := [.evt, .host, .tsets, .commits, .ports, .weave, .lid]) (a := d) (x := x) ?_ ?_; subst x; rotate_left 1; clear_value x; with_reducible intro _; rotate_right 1)
        | (with_reducible refine Dev.Agree.have (cs := [0x30, 0x90, 0x91, 0xC0]) (fs := [.evt, .host, .tsets, .commits, .ports, .weave, .lid]) (a := d) (x := x.2) ?_ ?_; subst x; rotate_left 1; clear_value x; with_reducible intro _; rotate_right 1)
        | clear_value x
        | skip)
    | with_reducible exact Dev.Agree.refl
    | with_reducible assumption
    | lift_lets -underBinder
    | with_reducible apply Dev.Agree.ite
    | (with_reducible apply Dev.Agree.putF; decide; decide)
    | (with_reducible apply Dev.Agree.step (Dev.setPort_frame _ _ _); decide; decide)
    | (with_reducible apply Dev.Agree.step (Dev.burstRequest_frame _ _); decide; decide)
    | (with_reducible apply Dev.Agree.step (Dev.burstAnswer_frame _ _ _); decide; decide)
    | split)

theorem Dev.burstFlush_frame (d : Dev) : Dev.Agree [0x30, 0x90, 0x91, 0xC0] [.evt, .host, .tsets, .commits, .ports, .weave, .lid] d (Dev.burstFlush d) := by
  unfold Dev.burstFlush
  repeat' (first
    | (with_reducible intro x; first
        | (with_reducible refine Dev.Agree.have (cs := [0x30, 0x90, 0x91, 0xC0]) (fs := [.evt, .host, .tsets, .commits, .ports, .weave, .lid]) (a := d) (x := x) ?_ ?_; subst x; rotate_left 1; clear_value x; with_reducible intro _; rotate_right 1)
        | (with_reducible refine Dev.Agree.have (cs := [0x30, 0x90, 0x91, 0xC0]) (fs := [.evt, .host, .tsets, .commits, .ports, .weave, .lid]) (a := d) (x := x.2) ?_ ?_; subst x; rotate_left 1; clear_value x; with_reducible intro _; rotate_right 1)
        | clear_value x
        | skip)
    | with_reducible exact Dev.Agree.refl
    | with_reducible assumption
    | lift_lets -underBinder
    | with_reducible apply Dev.Agree.ite
    | (with_reducible apply Dev.Agree.putF; decide; decide)
    | (with_reducible apply Dev.Agree.step (Dev.setPort_frame _ _ _); decide; decide)
    | (with_reducible apply Dev.Agree.step (Dev.burstAnswer_frame _ _ _); decide; decide)
    | with_reducible apply Dev.Agree.forN
    | split)

theorem Dev.applyWrites_frame (d : Dev) : Dev.Agree allGroups [.newGrid, .evt, .host, .tsets, .commits, .mode, .legs, .ports, .caps, .trigs, .ctxs, .grids, .isls, .spokes, .cells, .arms, .adcs, .sdis, .wins, .weave, .rim, .met, .lid, .pwr] d (Dev.applyWrites d) := by
  unfold Dev.applyWrites
  repeat' (first
    | (with_reducible intro x; first
        | (with_reducible refine Dev.Agree.have (cs := allGroups) (fs := [.newGrid, .evt, .host, .tsets, .commits, .mode, .legs, .ports, .caps, .trigs, .ctxs, .grids, .isls, .spokes, .cells, .arms, .adcs, .sdis, .wins, .weave, .rim, .met, .lid, .pwr]) (a := d) (x := x) ?_ ?_; subst x; rotate_left 1; clear_value x; with_reducible intro _; rotate_right 1)
        | (with_reducible refine Dev.Agree.have (cs := allGroups) (fs := [.newGrid, .evt, .host, .tsets, .commits, .mode, .legs, .ports, .caps, .trigs, .ctxs, .grids, .isls, .spokes, .cells, .arms, .adcs, .sdis, .wins, .weave, .rim, .met, .lid, .pwr]) (a := d) (x := x.2) ?_ ?_; subst x; rotate_left 1; clear_value x; with_reducible intro _; rotate_right 1)
        | clear_value x
        | skip)
    | with_reducible exact Dev.Agree.refl
    | with_reducible assumption
    | lift_lets -underBinder
    | with_reducible apply Dev.Agree.ite
    | (with_reducible apply Dev.Agree.step (Dev.sessionsFreed_frame _); decide; decide)
    | (with_reducible apply Dev.Agree.step (Dev.modeCommand_frame _ _); decide; decide)
    | (with_reducible apply Dev.Agree.step (Dev.applyMsgs_frame _ _ _ _); decide; decide)
    | (with_reducible apply Dev.Agree.step (Dev.applyGrid_frame _ _); decide; decide)
    | (with_reducible apply Dev.Agree.step (Dev.answerMsg_frame _ _); decide; decide)
    | with_reducible apply Dev.Agree.forL
    | (fail_if_no_progress with_reducible apply Dev.Agree.upd_host; decide)
    | split)

theorem Dev.reconcile_frame (d : Dev) : Dev.Agree [0xA0, 0xC0] [.evt, .lid] d (Dev.reconcile d) := by
  unfold Dev.reconcile
  repeat' (first
    | (with_reducible intro x; first
        | (with_reducible refine Dev.Agree.have (cs := [0xA0, 0xC0]) (fs := [.evt, .lid]) (a := d) (x := x) ?_ ?_; subst x; rotate_left 1; clear_value x; with_reducible intro _; rotate_right 1)
        | (with_reducible refine Dev.Agree.have (cs := [0xA0, 0xC0]) (fs := [.evt, .lid]) (a := d) (x := x.2) ?_ ?_; subst x; rotate_left 1; clear_value x; with_reducible intro _; rotate_right 1)
        | clear_value x
        | skip)
    | with_reducible exact Dev.Agree.refl
    | with_reducible assumption
    | lift_lets -underBinder
    | with_reducible apply Dev.Agree.ite
    | (with_reducible apply Dev.Agree.step (Dev.raise_frame _ _ _ _ _); decide; decide)
    | (with_reducible apply Dev.Agree.step (Dev.tallyKeys_frame _); decide; decide)
    | (with_reducible apply Dev.Agree.step (Dev.bootWrite_frame _ _); decide; decide)
    | (fail_if_no_progress with_reducible apply Dev.Agree.upd_lid; decide)
    | split)

theorem Dev.slotChoice_frame (d : Dev) : Dev.Agree [0x90, 0x91, 0xA1, 0xC0] [.phase, .evt, .host, .lid] d (Dev.slotChoice d) := by
  unfold Dev.slotChoice
  repeat' (first
    | (with_reducible intro x; first
        | (with_reducible refine Dev.Agree.have (cs := [0x90, 0x91, 0xA1, 0xC0]) (fs := [.phase, .evt, .host, .lid]) (a := d) (x := x) ?_ ?_; subst x; rotate_left 1; clear_value x; with_reducible intro _; rotate_right 1)
        | (with_reducible refine Dev.Agree.have (cs := [0x90, 0x91, 0xA1, 0xC0]) (fs := [.phase, .evt, .host, .lid]) (a := d) (x := x.2) ?_ ?_; subst x; rotate_left 1; clear_value x; with_reducible intro _; rotate_right 1)
        | clear_value x
        | skip)
    | with_reducible exact Dev.Agree.refl
    | with_reducible assumption
    | lift_lets -underBinder
    | with_reducible apply Dev.Agree.ite
    | (with_reducible apply Dev.Agree.put; decide; decide)
    | (with_reducible apply Dev.Agree.step (Dev.raise_frame _ _ _ _ _); decide; decide)
    | (with_reducible apply Dev.Agree.step (Dev.setSess_frame _ _ _); decide; decide)
    | (with_reducible apply Dev.Agree.step (Dev.bootWrite_frame _ _); decide; decide)
    | (with_reducible apply Dev.Agree.step (Dev.pairRings_frame _ _ _ _); decide; decide)
    | (fail_if_no_progress with_reducible apply Dev.Agree.upd_phase; decide)
    | (fail_if_no_progress with_reducible apply Dev.Agree.upd_lid; decide)
    | (apply Dev.Agree.upd; (with_reducible assumption); exact Eq.refl _; intro f hf; cases f <;> first | exact absurd hf (by decide) | exact Eq.refl _)
    | (apply Dev.Agree.upd; (with_reducible exact Dev.Agree.refl); exact Eq.refl _; intro f hf; cases f <;> first | exact absurd hf (by decide) | exact Eq.refl _)
    | split)

theorem Dev.anchorBeat_frame (d : Dev) : Dev.Agree [0x200] [.now, .beatStart, .beatLen] d (Dev.anchorBeat d) := by
  unfold Dev.anchorBeat
  have h : d.Agree [0x200] [.now, .beatStart, .beatLen] (d.beginBeat (beatAt d.beatTicks (d.get Par.beatBeatPhase 0) (beatOf d.beatTicks (d.get Par.beatBeatPhase 0) d.now))) :=
    Dev.Agree.step (Dev.beginBeat_frame _ _) (by decide) (by decide) Dev.Agree.refl
  exact Dev.Agree.upd_now (by decide) h

theorem Dev.release_frame (d : Dev) (warm : Bool) (straps : Nat) (rimStraps : Nat) : Dev.Agree [0x12, 0x20, 0x30, 0x31, 0x42, 0x50, 0x70, 0x90, 0x91, 0xA0, 0xA1, 0xB0, 0xC0] [.phase, .evt, .host, .mode, .legs, .ports, .arms, .weave, .rim, .met, .lid, .pwr, .pins] d (Dev.release d warm straps rimStraps) := by
  unfold Dev.release
  repeat' (first
    | (with_reducible intro x; first
        | (with_reducible refine Dev.Agree.have (cs := [0x12, 0x20, 0x30, 0x31, 0x42, 0x50, 0x70, 0x90, 0x91, 0xA0, 0xA1, 0xB0, 0xC0]) (fs := [.phase, .evt, .host, .mode, .legs, .ports, .arms, .weave, .rim, .met, .lid, .pwr, .pins]) (a := d) (x := x) ?_ ?_; subst x; rotate_left 1; clear_value x; with_reducible intro _; rotate_right 1)
        | (with_reducible refine Dev.Agree.have (cs := [0x12, 0x20, 0x30, 0x31, 0x42, 0x50, 0x70, 0x90, 0x91, 0xA0, 0xA1, 0xB0, 0xC0]) (fs := [.phase, .evt, .host, .mode, .legs, .ports, .arms, .weave, .rim, .met, .lid, .pwr, .pins]) (a := d) (x := x.2) ?_ ?_; subst x; rotate_left 1; clear_value x; with_reducible intro _; rotate_right 1)
        | clear_value x
        | skip)
    | with_reducible exact Dev.Agree.refl
    | with_reducible assumption
    | lift_lets -underBinder
    | with_reducible apply Dev.Agree.ite
    | (with_reducible apply Dev.Agree.put; decide; decide)
    | (with_reducible apply Dev.Agree.inc; decide; decide)
    | (with_reducible apply Dev.Agree.step (Dev.raise_frame _ _ _ _ _); decide; decide)
    | (with_reducible apply Dev.Agree.step (Dev.tallyZero_frame _); decide; decide)
    | (with_reducible apply Dev.Agree.step (Dev.tallyExtend_frame _ _ _); decide; decide)
    | (with_reducible apply Dev.Agree.step (Dev.metLoad_frame _); decide; decide)
    | (with_reducible apply Dev.Agree.step (Dev.rimStart_frame _); decide; decide)
    | (with_reducible apply Dev.Agree.step (Dev.winStart_frame _); decide; decide)
    | (with_reducible apply Dev.Agree.step (Dev.reconcile_frame _); decide; decide)
    | (with_reducible apply Dev.Agree.step (Dev.slotChoice_frame _); decide; decide)
    | (fail_if_no_progress with_reducible apply Dev.Agree.upd_phase; decide)
    | (fail_if_no_progress with_reducible apply Dev.Agree.upd_pwr; decide)
    | (apply Dev.Agree.upd; (with_reducible assumption); exact Eq.refl _; intro f hf; cases f <;> first | exact absurd hf (by decide) | exact Eq.refl _)
    | (apply Dev.Agree.upd; (with_reducible exact Dev.Agree.refl); exact Eq.refl _; intro f hf; cases f <;> first | exact absurd hf (by decide) | exact Eq.refl _)
    | split)

theorem Dev.porstHigh_frame (d : Dev) (straps : Nat) (rimStraps : Nat) : Dev.Agree [0x12, 0x20, 0x30, 0x31, 0x42, 0x50, 0x70, 0x90, 0x91, 0xA0, 0xA1, 0xB0, 0xC0] [.phase, .evt, .host, .mode, .legs, .ports, .arms, .weave, .rim, .met, .lid, .pwr, .pins] d (Dev.porstHigh d straps rimStraps) := by
  unfold Dev.porstHigh
  repeat' (first
    | (with_reducible intro x; first
        | (with_reducible refine Dev.Agree.have (cs := [0x12, 0x20, 0x30, 0x31, 0x42, 0x50, 0x70, 0x90, 0x91, 0xA0, 0xA1, 0xB0, 0xC0]) (fs := [.phase, .evt, .host, .mode, .legs, .ports, .arms, .weave, .rim, .met, .lid, .pwr, .pins]) (a := d) (x := x) ?_ ?_; subst x; rotate_left 1; clear_value x; with_reducible intro _; rotate_right 1)
        | (with_reducible refine Dev.Agree.have (cs := [0x12, 0x20, 0x30, 0x31, 0x42, 0x50, 0x70, 0x90, 0x91, 0xA0, 0xA1, 0xB0, 0xC0]) (fs := [.phase, .evt, .host, .mode, .legs, .ports, .arms, .weave, .rim, .met, .lid, .pwr, .pins]) (a := d) (x := x.2) ?_ ?_; subst x; rotate_left 1; clear_value x; with_reducible intro _; rotate_right 1)
        | clear_value x
        | skip)
    | with_reducible exact Dev.Agree.refl
    | with_reducible assumption
    | lift_lets -underBinder
    | with_reducible apply Dev.Agree.ite
    | (with_reducible apply Dev.Agree.step (Dev.release_frame _ _ _ _); decide; decide)
    | (fail_if_no_progress with_reducible apply Dev.Agree.upd_pwr; decide)
    | split)

theorem Dev.warmRelease_frame (d : Dev) (straps : Nat) (rimStraps : Nat) : Dev.Agree [0x12, 0x20, 0x30, 0x31, 0x42, 0x50, 0x70, 0x90, 0x91, 0xA0, 0xA1, 0xB0, 0xC0] [.phase, .evt, .host, .mode, .legs, .ports, .arms, .weave, .rim, .met, .lid, .pwr, .pins] d (Dev.warmRelease d straps rimStraps) := by
  unfold Dev.warmRelease
  repeat' (first
    | (with_reducible intro x; first
        | (with_reducible refine Dev.Agree.have (cs := [0x12, 0x20, 0x30, 0x31, 0x42, 0x50, 0x70, 0x90, 0x91, 0xA0, 0xA1, 0xB0, 0xC0]) (fs := [.phase, .evt, .host, .mode, .legs, .ports, .arms, .weave, .rim, .met, .lid, .pwr, .pins]) (a := d) (x := x) ?_ ?_; subst x; rotate_left 1; clear_value x; with_reducible intro _; rotate_right 1)
        | (with_reducible refine Dev.Agree.have (cs := [0x12, 0x20, 0x30, 0x31, 0x42, 0x50, 0x70, 0x90, 0x91, 0xA0, 0xA1, 0xB0, 0xC0]) (fs := [.phase, .evt, .host, .mode, .legs, .ports, .arms, .weave, .rim, .met, .lid, .pwr, .pins]) (a := d) (x := x.2) ?_ ?_; subst x; rotate_left 1; clear_value x; with_reducible intro _; rotate_right 1)
        | clear_value x
        | skip)
    | with_reducible exact Dev.Agree.refl
    | with_reducible assumption
    | lift_lets -underBinder
    | with_reducible apply Dev.Agree.ite
    | (with_reducible apply Dev.Agree.step (Dev.release_frame _ _ _ _); decide; decide)
    | split)

theorem Dev.loaderStart_frame (d : Dev) : Dev.Agree [0xA0] [.phase, .lid] d (Dev.loaderStart d) := by
  unfold Dev.loaderStart
  repeat' (first
    | (with_reducible intro x; first
        | (with_reducible refine Dev.Agree.have (cs := [0xA0]) (fs := [.phase, .lid]) (a := d) (x := x) ?_ ?_; subst x; rotate_left 1; clear_value x; with_reducible intro _; rotate_right 1)
        | (with_reducible refine Dev.Agree.have (cs := [0xA0]) (fs := [.phase, .lid]) (a := d) (x := x.2) ?_ ?_; subst x; rotate_left 1; clear_value x; with_reducible intro _; rotate_right 1)
        | clear_value x
        | skip)
    | with_reducible exact Dev.Agree.refl
    | with_reducible assumption
    | lift_lets -underBinder
    | with_reducible apply Dev.Agree.ite
    | (with_reducible apply Dev.Agree.step (Dev.tallyExtend_frame _ _ _); decide; decide)
    | (fail_if_no_progress with_reducible apply Dev.Agree.upd_phase; decide)
    | split)

theorem Dev.applyEarly_frame (d : Dev) : Dev.Agree [0xC0] [.evt] d (Dev.applyEarly d) := by
  unfold Dev.applyEarly
  repeat' (first
    | (with_reducible intro x; first
        | (with_reducible refine Dev.Agree.have (cs := [0xC0]) (fs := [.evt]) (a := d) (x := x) ?_ ?_; subst x; rotate_left 1; clear_value x; with_reducible intro _; rotate_right 1)
        | (with_reducible refine Dev.Agree.have (cs := [0xC0]) (fs := [.evt]) (a := d) (x := x.2) ?_ ?_; subst x; rotate_left 1; clear_value x; with_reducible intro _; rotate_right 1)
        | clear_value x
        | skip)
    | with_reducible exact Dev.Agree.refl
    | with_reducible assumption
    | lift_lets -underBinder
    | with_reducible apply Dev.Agree.ite
    | (with_reducible apply Dev.Agree.step (Dev.occur_frame _ _ _ _ _ _ _); decide; decide)
    | with_reducible apply Dev.Agree.forL
    | (fail_if_no_progress with_reducible apply Dev.Agree.upd_evt; decide)
    | split)

theorem Dev.energyRestore_frame (d : Dev) : Dev.Agree [0x30] [.ports] d (Dev.energyRestore d) := by
  unfold Dev.energyRestore
  repeat' (first
    | (with_reducible intro x; first
        | (with_reducible refine Dev.Agree.have (cs := [0x30]) (fs := [.ports]) (a := d) (x := x) ?_ ?_; subst x; rotate_left 1; clear_value x; with_reducible intro _; rotate_right 1)
        | (with_reducible refine Dev.Agree.have (cs := [0x30]) (fs := [.ports]) (a := d) (x := x.2) ?_ ?_; subst x; rotate_left 1; clear_value x; with_reducible intro _; rotate_right 1)
        | clear_value x
        | skip)
    | with_reducible exact Dev.Agree.refl
    | with_reducible assumption
    | lift_lets -underBinder
    | with_reducible apply Dev.Agree.ite
    | (with_reducible apply Dev.Agree.putBit; decide; decide)
    | (with_reducible apply Dev.Agree.step (Dev.setPort_frame _ _ _); decide; decide)
    | with_reducible apply Dev.Agree.forN
    | split)

theorem Dev.energySave_frame (d : Dev) : Dev.Agree [] [.pwr] d (Dev.energySave d) := by
  unfold Dev.energySave
  repeat' (first
    | (with_reducible intro x; first
        | (with_reducible refine Dev.Agree.have (cs := []) (fs := [.pwr]) (a := d) (x := x) ?_ ?_; subst x; rotate_left 1; clear_value x; with_reducible intro _; rotate_right 1)
        | (with_reducible refine Dev.Agree.have (cs := []) (fs := [.pwr]) (a := d) (x := x.2) ?_ ?_; subst x; rotate_left 1; clear_value x; with_reducible intro _; rotate_right 1)
        | clear_value x
        | skip)
    | with_reducible exact Dev.Agree.refl
    | with_reducible assumption
    | lift_lets -underBinder
    | with_reducible apply Dev.Agree.ite
    | with_reducible apply Dev.Agree.forN
    | (fail_if_no_progress with_reducible apply Dev.Agree.upd_pwr; decide)
    | split)

theorem Dev.enterRun_frame (d : Dev) (ddr : Nat) : Dev.Agree [0x21, 0x22, 0x80, 0x81, 0xB0, 0xC0] [.evt, .grids, .adcs, .sup, .weave] d (Dev.enterRun d ddr) := by
  unfold Dev.enterRun
  repeat' (first
    | (with_reducible intro x; first
        | (with_reducible refine Dev.Agree.have (cs := [0x21, 0x22, 0x80, 0x81, 0xB0, 0xC0]) (fs := [.evt, .grids, .adcs, .sup, .weave]) (a := d) (x := x) ?_ ?_; subst x; rotate_left 1; clear_value x; with_reducible intro _; rotate_right 1)
        | (with_reducible refine Dev.Agree.have (cs := [0x21, 0x22, 0x80, 0x81, 0xB0, 0xC0]) (fs := [.evt, .grids, .adcs, .sup, .weave]) (a := d) (x := x.2) ?_ ?_; subst x; rotate_left 1; clear_value x; with_reducible intro _; rotate_right 1)
        | clear_value x
        | skip)
    | with_reducible exact Dev.Agree.refl
    | with_reducible assumption
    | lift_lets -underBinder
    | with_reducible apply Dev.Agree.ite
    | (with_reducible apply Dev.Agree.put; decide; decide)
    | (with_reducible apply Dev.Agree.putBit; decide; decide)
    | (with_reducible apply Dev.Agree.step (Dev.setStake_frame _ _ _); decide; decide)
    | (with_reducible apply Dev.Agree.step (Dev.gridFreqInit_frame _ _); decide; decide)
    | (with_reducible apply Dev.Agree.step (Dev.adcCalStart_frame _ _); decide; decide)
    | with_reducible apply Dev.Agree.forN
    | (fail_if_no_progress with_reducible apply Dev.Agree.upd_sup; decide)
    | (fail_if_no_progress with_reducible apply Dev.Agree.upd_weave; decide)
    | (apply Dev.Agree.upd; (with_reducible assumption); exact Eq.refl _; intro f hf; cases f <;> first | exact absurd hf (by decide) | exact Eq.refl _)
    | (apply Dev.Agree.upd; (with_reducible exact Dev.Agree.refl); exact Eq.refl _; intro f hf; cases f <;> first | exact absurd hf (by decide) | exact Eq.refl _)
    | split)

theorem Dev.runEntry_frame (d : Dev) (ddr : Nat) : Dev.Agree [0x02, 0x12, 0x20, 0x21, 0x22, 0x30, 0x31, 0x42, 0x70, 0x80, 0x81, 0xB0, 0xC0, 0x200] [.now, .beatStart, .beatLen, .phase, .evt, .mode, .legs, .ports, .grids, .arms, .adcs, .sup, .weave, .rim] d (Dev.runEntry d ddr) := by
  unfold Dev.runEntry
  repeat' (first
    | (with_reducible intro x; first
        | (with_reducible refine Dev.Agree.have (cs := [0x02, 0x12, 0x20, 0x21, 0x22, 0x30, 0x31, 0x42, 0x70, 0x80, 0x81, 0xB0, 0xC0, 0x200]) (fs := [.now, .beatStart, .beatLen, .phase, .evt, .mode, .legs, .ports, .grids, .arms, .adcs, .sup, .weave, .rim]) (a := d) (x := x) ?_ ?_; subst x; rotate_left 1; clear_value x; with_reducible intro _; rotate_right 1)
        | (with_reducible refine Dev.Agree.have (cs := [0x02, 0x12, 0x20, 0x21, 0x22, 0x30, 0x31, 0x42, 0x70, 0x80, 0x81, 0xB0, 0xC0, 0x200]) (fs := [.now, .beatStart, .beatLen, .phase, .evt, .mode, .legs, .ports, .grids, .arms, .adcs, .sup, .weave, .rim]) (a := d) (x := x.2) ?_ ?_; subst x; rotate_left 1; clear_value x; with_reducible intro _; rotate_right 1)
        | clear_value x
        | skip)
    | with_reducible exact Dev.Agree.refl
    | with_reducible assumption
    | lift_lets -underBinder
    | with_reducible apply Dev.Agree.ite
    | (with_reducible apply Dev.Agree.put; decide; decide)
    | (with_reducible apply Dev.Agree.step (Dev.winModes_frame _ _); decide; decide)
    | (with_reducible apply Dev.Agree.step (Dev.anchorBeat_frame _); decide; decide)
    | (with_reducible apply Dev.Agree.step (Dev.enterRun_frame _ _); decide; decide)
    | (fail_if_no_progress with_reducible apply Dev.Agree.upd_phase; decide)
    | split)

theorem Dev.capExit_frame (d : Dev) (n : Nat) : Dev.Agree [0x60, 0xC0] [.evt, .caps] d (Dev.capExit d n) := by
  unfold Dev.capExit
  repeat' (first
    | (with_reducible intro x; first
        | (with_reducible refine Dev.Agree.have (cs := [0x60, 0xC0]) (fs := [.evt, .caps]) (a := d) (x := x) ?_ ?_; subst x; rotate_left 1; clear_value x; with_reducible intro _; rotate_right 1)
        | (with_reducible refine Dev.Agree.have (cs := [0x60, 0xC0]) (fs := [.evt, .caps]) (a := d) (x := x.2) ?_ ?_; subst x; rotate_left 1; clear_value x; with_reducible intro _; rotate_right 1)
        | clear_value x
        | skip)
    | with_reducible exact Dev.Agree.refl
    | with_reducible assumption
    | lift_lets -underBinder
    | with_reducible apply Dev.Agree.ite
    | (with_reducible apply Dev.Agree.step (Dev.setCap_frame _ _ _); decide; decide)
    | (with_reducible apply Dev.Agree.step (Dev.gapNote_frame _ _ _); decide; decide)
    | (with_reducible apply Dev.Agree.step (Dev.gapFlush_frame _ _); decide; decide)
    | (with_reducible apply Dev.Agree.step (Dev.capGap_frame _ _ _ _); decide; decide)
    | (with_reducible apply Dev.Agree.step (Dev.capIdle_frame _ _); decide; decide)
    | (with_reducible apply Dev.Agree.step (Dev.endStream_frame _ _); decide; decide)
    | split)

theorem Dev.capResume_frame (d : Dev) (n : Nat) : Dev.Agree [0x60, 0xC0] [.evt, .caps] d (Dev.capResume d n) := by
  unfold Dev.capResume
  repeat' (first
    | (with_reducible intro x; first
        | (with_reducible refine Dev.Agree.have (cs := [0x60, 0xC0]) (fs := [.evt, .caps]) (a := d) (x := x) ?_ ?_; subst x; rotate_left 1; clear_value x; with_reducible intro _; rotate_right 1)
        | (with_reducible refine Dev.Agree.have (cs := [0x60, 0xC0]) (fs := [.evt, .caps]) (a := d) (x := x.2) ?_ ?_; subst x; rotate_left 1; clear_value x; with_reducible intro _; rotate_right 1)
        | clear_value x
        | skip)
    | with_reducible exact Dev.Agree.refl
    | with_reducible assumption
    | lift_lets -underBinder
    | with_reducible apply Dev.Agree.ite
    | (with_reducible apply Dev.Agree.step (Dev.setCap_frame _ _ _); decide; decide)
    | (with_reducible apply Dev.Agree.step (Dev.gapNote_frame _ _ _); decide; decide)
    | (with_reducible apply Dev.Agree.step (Dev.startStream_frame _ _ _); decide; decide)
    | split)

theorem Dev.autoPark_frame (d : Dev) : Dev.Agree [] [.pwr] d (Dev.autoPark d) := by
  unfold Dev.autoPark
  repeat' (first
    | (with_reducible intro x; first
        | (with_reducible refine Dev.Agree.have (cs := []) (fs := [.pwr]) (a := d) (x := x) ?_ ?_; subst x; rotate_left 1; clear_value x; with_reducible intro _; rotate_right 1)
        | (with_reducible refine Dev.Agree.have (cs := []) (fs := [.pwr]) (a := d) (x := x.2) ?_ ?_; subst x; rotate_left 1; clear_value x; with_reducible intro _; rotate_right 1)
        | clear_value x
        | skip)
    | with_reducible exact Dev.Agree.refl
    | with_reducible assumption
    | lift_lets -underBinder
    | with_reducible apply Dev.Agree.ite
    | (fail_if_no_progress with_reducible apply Dev.Agree.upd_pwr; decide)
    | split)

theorem Dev.parkStart_frame (d : Dev) : Dev.Agree [0xB0] [.weave, .pwr] d (Dev.parkStart d) := by
  unfold Dev.parkStart
  repeat' (first
    | (with_reducible intro x; first
        | (with_reducible refine Dev.Agree.have (cs := [0xB0]) (fs := [.weave, .pwr]) (a := d) (x := x) ?_ ?_; subst x; rotate_left 1; clear_value x; with_reducible intro _; rotate_right 1)
        | (with_reducible refine Dev.Agree.have (cs := [0xB0]) (fs := [.weave, .pwr]) (a := d) (x := x.2) ?_ ?_; subst x; rotate_left 1; clear_value x; with_reducible intro _; rotate_right 1)
        | clear_value x
        | skip)
    | with_reducible exact Dev.Agree.refl
    | with_reducible assumption
    | lift_lets -underBinder
    | with_reducible apply Dev.Agree.ite
    | (with_reducible apply Dev.Agree.put; decide; decide)
    | (fail_if_no_progress with_reducible apply Dev.Agree.upd_weave; decide)
    | (fail_if_no_progress with_reducible apply Dev.Agree.upd_pwr; decide)
    | (apply Dev.Agree.upd; (with_reducible assumption); exact Eq.refl _; intro f hf; cases f <;> first | exact absurd hf (by decide) | exact Eq.refl _)
    | (apply Dev.Agree.upd; (with_reducible exact Dev.Agree.refl); exact Eq.refl _; intro f hf; cases f <;> first | exact absurd hf (by decide) | exact Eq.refl _)
    | split)

theorem Dev.weaveLeave_frame (d : Dev) : Dev.Agree [0x80, 0x81, 0x90, 0xC0] [.evt, .weave] d (Dev.weaveLeave d) := by
  unfold Dev.weaveLeave
  repeat' (first
    | (with_reducible intro x; first
        | (with_reducible refine Dev.Agree.have (cs := [0x80, 0x81, 0x90, 0xC0]) (fs := [.evt, .weave]) (a := d) (x := x) ?_ ?_; subst x; rotate_left 1; clear_value x; with_reducible intro _; rotate_right 1)
        | (with_reducible refine Dev.Agree.have (cs := [0x80, 0x81, 0x90, 0xC0]) (fs := [.evt, .weave]) (a := d) (x := x.2) ?_ ?_; subst x; rotate_left 1; clear_value x; with_reducible intro _; rotate_right 1)
        | clear_value x
        | skip)
    | with_reducible exact Dev.Agree.refl
    | with_reducible assumption
    | lift_lets -underBinder
    | with_reducible apply Dev.Agree.ite
    | (with_reducible apply Dev.Agree.put; decide; decide)
    | (with_reducible apply Dev.Agree.inc; decide; decide)
    | (with_reducible apply Dev.Agree.step (Dev.raise_frame _ _ _ _ _); decide; decide)
    | (with_reducible apply Dev.Agree.step (Dev.weftDown_frame _ _); decide; decide)
    | (with_reducible apply Dev.Agree.step (Dev.setStake_frame _ _ _); decide; decide)
    | (with_reducible apply Dev.Agree.step (Dev.setToken_frame _ _); decide; decide)
    | with_reducible apply Dev.Agree.forN
    | (fail_if_no_progress with_reducible apply Dev.Agree.upd_weave; decide)
    | split)

theorem Dev.parkingComplete_frame (d : Dev) : Dev.Agree [0x02, 0x12, 0x20, 0x30, 0x31, 0x42, 0x60, 0x70, 0x80, 0x81, 0x90, 0xB0, 0xC0] [.evt, .host, .commits, .mode, .legs, .ports, .caps, .arms, .sup, .weave, .rim, .lid, .pwr] d (Dev.parkingComplete d) := by
  unfold Dev.parkingComplete
  repeat' (first
    | (with_reducible intro x; first
        | (with_reducible refine Dev.Agree.have (cs := [0x02, 0x12, 0x20, 0x30, 0x31, 0x42, 0x60, 0x70, 0x80, 0x81, 0x90, 0xB0, 0xC0]) (fs := [.evt, .host, .commits, .mode, .legs, .ports, .caps, .arms, .sup, .weave, .rim, .lid, .pwr]) (a := d) (x := x) ?_ ?_; subst x; rotate_left 1; clear_value x; with_reducible intro _; rotate_right 1)
        | (with_reducible refine Dev.Agree.have (cs := [0x02, 0x12, 0x20, 0x30, 0x31, 0x42, 0x60, 0x70, 0x80, 0x81, 0x90, 0xB0, 0xC0]) (fs := [.evt, .host, .commits, .mode, .legs, .ports, .caps, .arms, .sup, .weave, .rim, .lid, .pwr]) (a := d) (x := x.2) ?_ ?_; subst x; rotate_left 1; clear_value x; with_reducible intro _; rotate_right 1)
        | clear_value x
        | skip)
    | with_reducible exact Dev.Agree.refl
    | with_reducible assumption
    | lift_lets -underBinder
    | with_reducible apply Dev.Agree.ite
    | (with_reducible apply Dev.Agree.put; decide; decide)
    | (with_reducible apply Dev.Agree.putBit; decide; decide)
    | (with_reducible apply Dev.Agree.step (Dev.raise_frame _ _ _ _ _); decide; decide)
    | (with_reducible apply Dev.Agree.step (Dev.wake_frame _ _); decide; decide)
    | (with_reducible apply Dev.Agree.step (Dev.winModes_frame _ _); decide; decide)
    | (with_reducible apply Dev.Agree.step (Dev.linkDown_frame _ _); decide; decide)
    | (with_reducible apply Dev.Agree.step (Dev.capExit_frame _ _); decide; decide)
    | (with_reducible apply Dev.Agree.step (Dev.weaveLeave_frame _); decide; decide)
    | with_reducible apply Dev.Agree.forN
    | with_reducible apply Dev.Agree.foldl
    | with_reducible apply Dev.Agree.foldl2
    | (fail_if_no_progress with_reducible apply Dev.Agree.upd_sup; decide)
    | (fail_if_no_progress with_reducible apply Dev.Agree.upd_pwr; decide)
    | (apply Dev.Agree.upd; (with_reducible assumption); exact Eq.refl _; intro f hf; cases f <;> first | exact absurd hf (by decide) | exact Eq.refl _)
    | (apply Dev.Agree.upd; (with_reducible exact Dev.Agree.refl); exact Eq.refl _; intro f hf; cases f <;> first | exact absurd hf (by decide) | exact Eq.refl _)
    | split)

theorem Dev.wakePin_frame (d : Dev) : Dev.Agree [0xB0, 0xC0] [.evt, .pwr] d (Dev.wakePin d) := by
  unfold Dev.wakePin
  repeat' (first
    | (with_reducible intro x; first
        | (with_reducible refine Dev.Agree.have (cs := [0xB0, 0xC0]) (fs := [.evt, .pwr]) (a := d) (x := x) ?_ ?_; subst x; rotate_left 1; clear_value x; with_reducible intro _; rotate_right 1)
        | (with_reducible refine Dev.Agree.have (cs := [0xB0, 0xC0]) (fs := [.evt, .pwr]) (a := d) (x := x.2) ?_ ?_; subst x; rotate_left 1; clear_value x; with_reducible intro _; rotate_right 1)
        | clear_value x
        | skip)
    | with_reducible exact Dev.Agree.refl
    | with_reducible assumption
    | lift_lets -underBinder
    | with_reducible apply Dev.Agree.ite
    | (with_reducible apply Dev.Agree.put; decide; decide)
    | (with_reducible apply Dev.Agree.step (Dev.wake_frame _ _); decide; decide)
    | (fail_if_no_progress with_reducible apply Dev.Agree.upd_pwr; decide)
    | split)

theorem Dev.parkTimer_frame (d : Dev) : Dev.Agree [0xB0, 0xC0] [.evt, .pwr] d (Dev.parkTimer d) := by
  unfold Dev.parkTimer
  repeat' (first
    | (with_reducible intro x; first
        | (with_reducible refine Dev.Agree.have (cs := [0xB0, 0xC0]) (fs := [.evt, .pwr]) (a := d) (x := x) ?_ ?_; subst x; rotate_left 1; clear_value x; with_reducible intro _; rotate_right 1)
        | (with_reducible refine Dev.Agree.have (cs := [0xB0, 0xC0]) (fs := [.evt, .pwr]) (a := d) (x := x.2) ?_ ?_; subst x; rotate_left 1; clear_value x; with_reducible intro _; rotate_right 1)
        | clear_value x
        | skip)
    | with_reducible exact Dev.Agree.refl
    | with_reducible assumption
    | lift_lets -underBinder
    | with_reducible apply Dev.Agree.ite
    | (with_reducible apply Dev.Agree.step (Dev.wake_frame _ _); decide; decide)
    | split)

theorem Dev.wakeRun_frame (d : Dev) (ddr : Nat) : Dev.Agree [0x12, 0x20, 0x21, 0x22, 0x30, 0x31, 0x42, 0x60, 0x61, 0x70, 0x80, 0x81, 0xB0, 0xC0] [.evt, .host, .mode, .legs, .ports, .caps, .trigs, .grids, .arms, .adcs, .sup, .weave, .rim] d (Dev.wakeRun d ddr) := by
  unfold Dev.wakeRun
  repeat' (first
    | (with_reducible intro x; first
        | (with_reducible refine Dev.Agree.have (cs := [0x12, 0x20, 0x21, 0x22, 0x30, 0x31, 0x42, 0x60, 0x61, 0x70, 0x80, 0x81, 0xB0, 0xC0]) (fs := [.evt, .host, .mode, .legs, .ports, .caps, .trigs, .grids, .arms, .adcs, .sup, .weave, .rim]) (a := d) (x := x) ?_ ?_; subst x; rotate_left 1; clear_value x; with_reducible intro _; rotate_right 1)
        | (with_reducible refine Dev.Agree.have (cs := [0x12, 0x20, 0x21, 0x22, 0x30, 0x31, 0x42, 0x60, 0x61, 0x70, 0x80, 0x81, 0xB0, 0xC0]) (fs := [.evt, .host, .mode, .legs, .ports, .caps, .trigs, .grids, .arms, .adcs, .sup, .weave, .rim]) (a := d) (x := x.2) ?_ ?_; subst x; rotate_left 1; clear_value x; with_reducible intro _; rotate_right 1)
        | clear_value x
        | skip)
    | with_reducible exact Dev.Agree.refl
    | with_reducible assumption
    | lift_lets -underBinder
    | with_reducible apply Dev.Agree.ite
    | (with_reducible apply Dev.Agree.put; decide; decide)
    | (with_reducible apply Dev.Agree.step (Dev.actionsRun_frame _); decide; decide)
    | (with_reducible apply Dev.Agree.step (Dev.winModes_frame _ _); decide; decide)
    | (with_reducible apply Dev.Agree.step (Dev.enterRun_frame _ _); decide; decide)
    | (with_reducible apply Dev.Agree.step (Dev.capResume_frame _ _); decide; decide)
    | with_reducible apply Dev.Agree.forN
    | (fail_if_no_progress with_reducible apply Dev.Agree.upd_host; decide)
    | split)

theorem Dev.darkExit_frame (d : Dev) (c : Nat) : Dev.Agree [0xB0] [.pwr] d (Dev.darkExit d c) := by
  unfold Dev.darkExit
  repeat' (first
    | (with_reducible intro x; first
        | (with_reducible refine Dev.Agree.have (cs := [0xB0]) (fs := [.pwr]) (a := d) (x := x) ?_ ?_; subst x; rotate_left 1; clear_value x; with_reducible intro _; rotate_right 1)
        | (with_reducible refine Dev.Agree.have (cs := [0xB0]) (fs := [.pwr]) (a := d) (x := x.2) ?_ ?_; subst x; rotate_left 1; clear_value x; with_reducible intro _; rotate_right 1)
        | clear_value x
        | skip)
    | with_reducible exact Dev.Agree.refl
    | with_reducible assumption
    | lift_lets -underBinder
    | with_reducible apply Dev.Agree.ite
    | (with_reducible apply Dev.Agree.put; decide; decide)
    | (fail_if_no_progress with_reducible apply Dev.Agree.upd_pwr; decide)
    | split)

theorem Dev.auxHigh_frame (d : Dev) : Dev.Agree [0xB0] [.pwr] d (Dev.auxHigh d) := by
  unfold Dev.auxHigh
  repeat' (first
    | (with_reducible intro x; first
        | (with_reducible refine Dev.Agree.have (cs := [0xB0]) (fs := [.pwr]) (a := d) (x := x) ?_ ?_; subst x; rotate_left 1; clear_value x; with_reducible intro _; rotate_right 1)
        | (with_reducible refine Dev.Agree.have (cs := [0xB0]) (fs := [.pwr]) (a := d) (x := x.2) ?_ ?_; subst x; rotate_left 1; clear_value x; with_reducible intro _; rotate_right 1)
        | clear_value x
        | skip)
    | with_reducible exact Dev.Agree.refl
    | with_reducible assumption
    | lift_lets -underBinder
    | with_reducible apply Dev.Agree.ite
    | (with_reducible apply Dev.Agree.step (Dev.darkExit_frame _ _); decide; decide)
    | (fail_if_no_progress with_reducible apply Dev.Agree.upd_pwr; decide)
    | split)

theorem Dev.darkAlarm_frame (d : Dev) : Dev.Agree [0xB0] [.pwr] d (Dev.darkAlarm d) := by
  unfold Dev.darkAlarm
  repeat' (first
    | (with_reducible intro x; first
        | (with_reducible refine Dev.Agree.have (cs := [0xB0]) (fs := [.pwr]) (a := d) (x := x) ?_ ?_; subst x; rotate_left 1; clear_value x; with_reducible intro _; rotate_right 1)
        | (with_reducible refine Dev.Agree.have (cs := [0xB0]) (fs := [.pwr]) (a := d) (x := x.2) ?_ ?_; subst x; rotate_left 1; clear_value x; with_reducible intro _; rotate_right 1)
        | clear_value x
        | skip)
    | with_reducible exact Dev.Agree.refl
    | with_reducible assumption
    | lift_lets -underBinder
    | with_reducible apply Dev.Agree.ite
    | (with_reducible apply Dev.Agree.step (Dev.darkExit_frame _ _); decide; decide)
    | split)

theorem Dev.darkRelease_frame (d : Dev) (straps : Nat) (rimStraps : Nat) : Dev.Agree [0x12, 0x20, 0x30, 0x31, 0x42, 0x50, 0x70, 0x90, 0x91, 0xA0, 0xA1, 0xB0, 0xC0] [.phase, .evt, .host, .mode, .legs, .ports, .arms, .weave, .rim, .met, .lid, .pwr, .pins] d (Dev.darkRelease d straps rimStraps) := by
  unfold Dev.darkRelease
  repeat' (first
    | (with_reducible intro x; first
        | (with_reducible refine Dev.Agree.have (cs := [0x12, 0x20, 0x30, 0x31, 0x42, 0x50, 0x70, 0x90, 0x91, 0xA0, 0xA1, 0xB0, 0xC0]) (fs := [.phase, .evt, .host, .mode, .legs, .ports, .arms, .weave, .rim, .met, .lid, .pwr, .pins]) (a := d) (x := x) ?_ ?_; subst x; rotate_left 1; clear_value x; with_reducible intro _; rotate_right 1)
        | (with_reducible refine Dev.Agree.have (cs := [0x12, 0x20, 0x30, 0x31, 0x42, 0x50, 0x70, 0x90, 0x91, 0xA0, 0xA1, 0xB0, 0xC0]) (fs := [.phase, .evt, .host, .mode, .legs, .ports, .arms, .weave, .rim, .met, .lid, .pwr, .pins]) (a := d) (x := x.2) ?_ ?_; subst x; rotate_left 1; clear_value x; with_reducible intro _; rotate_right 1)
        | clear_value x
        | skip)
    | with_reducible exact Dev.Agree.refl
    | with_reducible assumption
    | lift_lets -underBinder
    | with_reducible apply Dev.Agree.ite
    | (with_reducible apply Dev.Agree.put; decide; decide)
    | (with_reducible apply Dev.Agree.step (Dev.release_frame _ _ _ _); decide; decide)
    | (fail_if_no_progress with_reducible apply Dev.Agree.upd_pwr; decide)
    | split)

theorem Dev.svcPress_frame (d : Dev) (highFor : Nat) : Dev.Agree [] [.pwr] d (Dev.svcPress d highFor) := by
  unfold Dev.svcPress
  repeat' (first
    | (with_reducible intro x; first
        | (with_reducible refine Dev.Agree.have (cs := []) (fs := [.pwr]) (a := d) (x := x) ?_ ?_; subst x; rotate_left 1; clear_value x; with_reducible intro _; rotate_right 1)
        | (with_reducible refine Dev.Agree.have (cs := []) (fs := [.pwr]) (a := d) (x := x.2) ?_ ?_; subst x; rotate_left 1; clear_value x; with_reducible intro _; rotate_right 1)
        | clear_value x
        | skip)
    | with_reducible exact Dev.Agree.refl
    | with_reducible assumption
    | lift_lets -underBinder
    | with_reducible apply Dev.Agree.ite
    | (fail_if_no_progress with_reducible apply Dev.Agree.upd_pwr; decide)
    | split)

theorem Dev.svcStuck_frame (d : Dev) : Dev.Agree [0xB0, 0xC0] [.evt, .pwr] d (Dev.svcStuck d) := by
  unfold Dev.svcStuck
  repeat' (first
    | (with_reducible intro x; first
        | (with_reducible refine Dev.Agree.have (cs := [0xB0, 0xC0]) (fs := [.evt, .pwr]) (a := d) (x := x) ?_ ?_; subst x; rotate_left 1; clear_value x; with_reducible intro _; rotate_right 1)
        | (with_reducible refine Dev.Agree.have (cs := [0xB0, 0xC0]) (fs := [.evt, .pwr]) (a := d) (x := x.2) ?_ ?_; subst x; rotate_left 1; clear_value x; with_reducible intro _; rotate_right 1)
        | clear_value x
        | skip)
    | with_reducible exact Dev.Agree.refl
    | with_reducible assumption
    | lift_lets -underBinder
    | with_reducible apply Dev.Agree.ite
    | (with_reducible apply Dev.Agree.inc; decide; decide)
    | (with_reducible apply Dev.Agree.step (Dev.raise_frame _ _ _ _ _); decide; decide)
    | (fail_if_no_progress with_reducible apply Dev.Agree.upd_pwr; decide)
    | split)

theorem Dev.tamperChange_frame (d : Dev) (level : Bool) : Dev.Agree [0xC0] [.evt, .pwr] d (Dev.tamperChange d level) := by
  unfold Dev.tamperChange
  repeat' (first
    | (with_reducible intro x; first
        | (with_reducible refine Dev.Agree.have (cs := [0xC0]) (fs := [.evt, .pwr]) (a := d) (x := x) ?_ ?_; subst x; rotate_left 1; clear_value x; with_reducible intro _; rotate_right 1)
        | (with_reducible refine Dev.Agree.have (cs := [0xC0]) (fs := [.evt, .pwr]) (a := d) (x := x.2) ?_ ?_; subst x; rotate_left 1; clear_value x; with_reducible intro _; rotate_right 1)
        | clear_value x
        | skip)
    | with_reducible exact Dev.Agree.refl
    | with_reducible assumption
    | lift_lets -underBinder
    | with_reducible apply Dev.Agree.ite
    | (with_reducible apply Dev.Agree.step (Dev.raise_frame _ _ _ _ _); decide; decide)
    | (fail_if_no_progress with_reducible apply Dev.Agree.upd_pwr; decide)
    | split)

theorem Dev.tempLog_frame (d : Dev) (tj : Nat) (mv : Nat) : Dev.Agree [0xB0] [.pwr] d (Dev.tempLog d tj mv) := by
  unfold Dev.tempLog
  repeat' (first
    | (with_reducible intro x; first
        | (with_reducible refine Dev.Agree.have (cs := [0xB0]) (fs := [.pwr]) (a := d) (x := x) ?_ ?_; subst x; rotate_left 1; clear_value x; with_reducible intro _; rotate_right 1)
        | (with_reducible refine Dev.Agree.have (cs := [0xB0]) (fs := [.pwr]) (a := d) (x := x.2) ?_ ?_; subst x; rotate_left 1; clear_value x; with_reducible intro _; rotate_right 1)
        | clear_value x
        | skip)
    | with_reducible exact Dev.Agree.refl
    | with_reducible assumption
    | lift_lets -underBinder
    | with_reducible apply Dev.Agree.ite
    | (with_reducible apply Dev.Agree.putI; decide; decide)
    | (with_reducible apply Dev.Agree.inc; decide; decide)
    | (fail_if_no_progress with_reducible apply Dev.Agree.upd_pwr; decide)
    | split)

theorem Dev.pgChange_frame (d : Dev) (rising : Bool) (vstore : F32) : Dev.Agree [0xB1, 0xC0] [.evt] d (Dev.pgChange d rising vstore) := by
  unfold Dev.pgChange
  repeat' (first
    | (with_reducible intro x; first
        | (with_reducible refine Dev.Agree.have (cs := [0xB1, 0xC0]) (fs := [.evt]) (a := d) (x := x) ?_ ?_; subst x; rotate_left 1; clear_value x; with_reducible intro _; rotate_right 1)
        | (with_reducible refine Dev.Agree.have (cs := [0xB1, 0xC0]) (fs := [.evt]) (a := d) (x := x.2) ?_ ?_; subst x; rotate_left 1; clear_value x; with_reducible intro _; rotate_right 1)
        | clear_value x
        | skip)
    | with_reducible exact Dev.Agree.refl
    | with_reducible assumption
    | lift_lets -underBinder
    | with_reducible apply Dev.Agree.ite
    | (with_reducible apply Dev.Agree.put; decide; decide)
    | (with_reducible apply Dev.Agree.putF; decide; decide)
    | (with_reducible apply Dev.Agree.inc; decide; decide)
    | (with_reducible apply Dev.Agree.step (Dev.raise_frame _ _ _ _ _); decide; decide)
    | split)

theorem Dev.harvControlled_frame (d : Dev) (vstore : F32) : Dev.Agree [0xB1] [] d (Dev.harvControlled d vstore) := by
  unfold Dev.harvControlled
  repeat' (first
    | (with_reducible intro x; first
        | (with_reducible refine Dev.Agree.have (cs := [0xB1]) (fs := []) (a := d) (x := x) ?_ ?_; subst x; rotate_left 1; clear_value x; with_reducible intro _; rotate_right 1)
        | (with_reducible refine Dev.Agree.have (cs := [0xB1]) (fs := []) (a := d) (x := x.2) ?_ ?_; subst x; rotate_left 1; clear_value x; with_reducible intro _; rotate_right 1)
        | clear_value x
        | skip)
    | with_reducible exact Dev.Agree.refl
    | with_reducible assumption
    | lift_lets -underBinder
    | with_reducible apply Dev.Agree.ite
    | (with_reducible apply Dev.Agree.put; decide; decide)
    | (with_reducible apply Dev.Agree.putF; decide; decide)
    | split)

theorem Dev.harvCold_frame (d : Dev) (vstore : F32) : Dev.Agree [0xB1] [] d (Dev.harvCold d vstore) := by
  unfold Dev.harvCold
  repeat' (first
    | (with_reducible intro x; first
        | (with_reducible refine Dev.Agree.have (cs := [0xB1]) (fs := []) (a := d) (x := x) ?_ ?_; subst x; rotate_left 1; clear_value x; with_reducible intro _; rotate_right 1)
        | (with_reducible refine Dev.Agree.have (cs := [0xB1]) (fs := []) (a := d) (x := x.2) ?_ ?_; subst x; rotate_left 1; clear_value x; with_reducible intro _; rotate_right 1)
        | clear_value x
        | skip)
    | with_reducible exact Dev.Agree.refl
    | with_reducible assumption
    | lift_lets -underBinder
    | with_reducible apply Dev.Agree.ite
    | (with_reducible apply Dev.Agree.put; decide; decide)
    | (with_reducible apply Dev.Agree.putF; decide; decide)
    | (with_reducible apply Dev.Agree.inc; decide; decide)
    | split)

theorem Dev.harvFull_frame (d : Dev) (vstore : F32) : Dev.Agree [0xB1] [] d (Dev.harvFull d vstore) := by
  unfold Dev.harvFull
  repeat' (first
    | (with_reducible intro x; first
        | (with_reducible refine Dev.Agree.have (cs := [0xB1]) (fs := []) (a := d) (x := x) ?_ ?_; subst x; rotate_left 1; clear_value x; with_reducible intro _; rotate_right 1)
        | (with_reducible refine Dev.Agree.have (cs := [0xB1]) (fs := []) (a := d) (x := x.2) ?_ ?_; subst x; rotate_left 1; clear_value x; with_reducible intro _; rotate_right 1)
        | clear_value x
        | skip)
    | with_reducible exact Dev.Agree.refl
    | with_reducible assumption
    | lift_lets -underBinder
    | with_reducible apply Dev.Agree.ite
    | (with_reducible apply Dev.Agree.put; decide; decide)
    | (with_reducible apply Dev.Agree.putF; decide; decide)
    | split)

theorem Dev.harvResume_frame (d : Dev) (vstore : F32) : Dev.Agree [0xB1] [] d (Dev.harvResume d vstore) := by
  unfold Dev.harvResume
  repeat' (first
    | (with_reducible intro x; first
        | (with_reducible refine Dev.Agree.have (cs := [0xB1]) (fs := []) (a := d) (x := x) ?_ ?_; subst x; rotate_left 1; clear_value x; with_reducible intro _; rotate_right 1)
        | (with_reducible refine Dev.Agree.have (cs := [0xB1]) (fs := []) (a := d) (x := x.2) ?_ ?_; subst x; rotate_left 1; clear_value x; with_reducible intro _; rotate_right 1)
        | clear_value x
        | skip)
    | with_reducible exact Dev.Agree.refl
    | with_reducible assumption
    | lift_lets -underBinder
    | with_reducible apply Dev.Agree.ite
    | (with_reducible apply Dev.Agree.put; decide; decide)
    | (with_reducible apply Dev.Agree.putF; decide; decide)
    | split)

theorem Dev.harvSample_frame (d : Dev) (voc : F32) (vteg : F32) (vstore : F32) : Dev.Agree [0xB1] [] d (Dev.harvSample d voc vteg vstore) := by
  unfold Dev.harvSample
  repeat' (first
    | (with_reducible intro x; first
        | (with_reducible refine Dev.Agree.have (cs := [0xB1]) (fs := []) (a := d) (x := x) ?_ ?_; subst x; rotate_left 1; clear_value x; with_reducible intro _; rotate_right 1)
        | (with_reducible refine Dev.Agree.have (cs := [0xB1]) (fs := []) (a := d) (x := x.2) ?_ ?_; subst x; rotate_left 1; clear_value x; with_reducible intro _; rotate_right 1)
        | clear_value x
        | skip)
    | with_reducible exact Dev.Agree.refl
    | with_reducible assumption
    | lift_lets -underBinder
    | with_reducible apply Dev.Agree.ite
    | (with_reducible apply Dev.Agree.put; decide; decide)
    | (with_reducible apply Dev.Agree.putF; decide; decide)
    | split)

theorem Dev.islandSource_frame (d : Dev) (src : Nat) : Dev.Agree [0xB0] [.evt] d (Dev.islandSource d src) := by
  unfold Dev.islandSource
  repeat' (first
    | (with_reducible intro x; first
        | (with_reducible refine Dev.Agree.have (cs := [0xB0]) (fs := [.evt]) (a := d) (x := x) ?_ ?_; subst x; rotate_left 1; clear_value x; with_reducible intro _; rotate_right 1)
        | (with_reducible refine Dev.Agree.have (cs := [0xB0]) (fs := [.evt]) (a := d) (x := x.2) ?_ ?_; subst x; rotate_left 1; clear_value x; with_reducible intro _; rotate_right 1)
        | clear_value x
        | skip)
    | with_reducible exact Dev.Agree.refl
    | with_reducible assumption
    | lift_lets -underBinder
    | with_reducible apply Dev.Agree.ite
    | (with_reducible apply Dev.Agree.put; decide; decide)
    | (with_reducible apply Dev.Agree.step (Dev.islandLog_frame _ _ _ _); decide; decide)
    | split)

theorem Dev.islandStart_frame (d : Dev) (src : Nat) (vstore : F32) (below : Bool) : Dev.Agree [0x02, 0xB0, 0xB1, 0xC0] [.now, .beatStart, .phase, .evt, .pwr] d (Dev.islandStart d src vstore below) := by
  unfold Dev.islandStart
  repeat' (first
    | (with_reducible intro x; first
        | (with_reducible refine Dev.Agree.have (cs := [0x02, 0xB0, 0xB1, 0xC0]) (fs := [.now, .beatStart, .phase, .evt, .pwr]) (a := d) (x := x) ?_ ?_; subst x; rotate_left 1; clear_value x; with_reducible intro _; rotate_right 1)
        | (with_reducible refine Dev.Agree.have (cs := [0x02, 0xB0, 0xB1, 0xC0]) (fs := [.now, .beatStart, .phase, .evt, .pwr]) (a := d) (x := x.2) ?_ ?_; subst x; rotate_left 1; clear_value x; with_reducible intro _; rotate_right 1)
        | clear_value x
        | skip)
    | with_reducible exact Dev.Agree.refl
    | with_reducible assumption
    | lift_lets -underBinder
    | with_reducible apply Dev.Agree.ite
    | (with_reducible apply Dev.Agree.put; decide; decide)
    | (with_reducible apply Dev.Agree.putF; decide; decide)
    | (with_reducible apply Dev.Agree.step (Dev.raise_frame _ _ _ _ _); decide; decide)
    | (fail_if_no_progress with_reducible apply Dev.Agree.upd_now; decide)
    | (fail_if_no_progress with_reducible apply Dev.Agree.upd_beatStart; decide)
    | (fail_if_no_progress with_reducible apply Dev.Agree.upd_phase; decide)
    | (fail_if_no_progress with_reducible apply Dev.Agree.upd_pwr; decide)
    | (apply Dev.Agree.upd; (with_reducible assumption); exact Eq.refl _; intro f hf; cases f <;> first | exact absurd hf (by decide) | exact Eq.refl _)
    | (apply Dev.Agree.upd; (with_reducible exact Dev.Agree.refl); exact Eq.refl _; intro f hf; cases f <;> first | exact absurd hf (by decide) | exact Eq.refl _)
    | split)

theorem Dev.pairFault_frame (d : Dev) (pair : Nat) : Dev.Agree [0x90] [.host, .commits, .mode, .isls, .sup, .weave, .lid] d (Dev.pairFault d pair) := by
  unfold Dev.pairFault
  repeat' (first
    | (with_reducible intro x; first
        | (with_reducible refine Dev.Agree.have (cs := [0x90]) (fs := [.host, .commits, .mode, .isls, .sup, .weave, .lid]) (a := d) (x := x) ?_ ?_; subst x; rotate_left 1; clear_value x; with_reducible intro _; rotate_right 1)
        | (with_reducible refine Dev.Agree.have (cs := [0x90]) (fs := [.host, .commits, .mode, .isls, .sup, .weave, .lid]) (a := d) (x := x.2) ?_ ?_; subst x; rotate_left 1; clear_value x; with_reducible intro _; rotate_right 1)
        | clear_value x
        | skip)
    | with_reducible exact Dev.Agree.refl
    | with_reducible assumption
    | lift_lets -underBinder
    | with_reducible apply Dev.Agree.ite
    | (with_reducible apply Dev.Agree.step (Dev.setIsl_frame _ _ _); decide; decide)
    | (with_reducible apply Dev.Agree.step (Dev.sessionEnd_frame _ _); decide; decide)
    | with_reducible apply Dev.Agree.forN
    | (fail_if_no_progress with_reducible apply Dev.Agree.upd_mode; decide)
    | (fail_if_no_progress with_reducible apply Dev.Agree.upd_sup; decide)
    | (fail_if_no_progress with_reducible apply Dev.Agree.upd_weave; decide)
    | (apply Dev.Agree.upd; (with_reducible assumption); exact Eq.refl _; intro f hf; cases f <;> first | exact absurd hf (by decide) | exact Eq.refl _)
    | (apply Dev.Agree.upd; (with_reducible exact Dev.Agree.refl); exact Eq.refl _; intro f hf; cases f <;> first | exact absurd hf (by decide) | exact Eq.refl _)
    | split)

theorem Dev.lockstep_frame (d : Dev) (pair : Nat) : Dev.Agree [0x90, 0xC0] [.evt, .host, .commits, .mode, .isls, .sup, .weave, .lid] d (Dev.lockstep d pair) := by
  unfold Dev.lockstep
  repeat' (first
    | (with_reducible intro x; first
        | (with_reducible refine Dev.Agree.have (cs := [0x90, 0xC0]) (fs := [.evt, .host, .commits, .mode, .isls, .sup, .weave, .lid]) (a := d) (x := x) ?_ ?_; subst x; rotate_left 1; clear_value x; with_reducible intro _; rotate_right 1)
        | (with_reducible refine Dev.Agree.have (cs := [0x90, 0xC0]) (fs := [.evt, .host, .commits, .mode, .isls, .sup, .weave, .lid]) (a := d) (x := x.2) ?_ ?_; subst x; rotate_left 1; clear_value x; with_reducible intro _; rotate_right 1)
        | clear_value x
        | skip)
    | with_reducible exact Dev.Agree.refl
    | with_reducible assumption
    | lift_lets -underBinder
    | with_reducible apply Dev.Agree.ite
    | (with_reducible apply Dev.Agree.step (Dev.raise_frame _ _ _ _ _); decide; decide)
    | (with_reducible apply Dev.Agree.step (Dev.pairFault_frame _ _); decide; decide)
    | split)

theorem Dev.pairRestarted_frame (d : Dev) (pair : Nat) : Dev.Agree [0x01, 0x60, 0x61, 0xC0] [.evt, .mode, .caps, .trigs, .sup, .weave] d (Dev.pairRestarted d pair) := by
  unfold Dev.pairRestarted
  repeat' (first
    | (with_reducible intro x; first
        | (with_reducible refine Dev.Agree.have (cs := [0x01, 0x60, 0x61, 0xC0]) (fs := [.evt, .mode, .caps, .trigs, .sup, .weave]) (a := d) (x := x) ?_ ?_; subst x; rotate_left 1; clear_value x; with_reducible intro _; rotate_right 1)
        | (with_reducible refine Dev.Agree.have (cs := [0x01, 0x60, 0x61, 0xC0]) (fs := [.evt, .mode, .caps, .trigs, .sup, .weave]) (a := d) (x := x.2) ?_ ?_; subst x; rotate_left 1; clear_value x; with_reducible intro _; rotate_right 1)
        | clear_value x
        | skip)
    | with_reducible exact Dev.Agree.refl
    | with_reducible assumption
    | lift_lets -underBinder
    | with_reducible apply Dev.Agree.ite
    | (with_reducible apply Dev.Agree.inc; decide; decide)
    | (with_reducible apply Dev.Agree.step (Dev.actionsRun_frame _); decide; decide)
    | (fail_if_no_progress with_reducible apply Dev.Agree.upd_sup; decide)
    | split)

theorem Dev.slotLost_frame (d : Dev) (n : Nat) (slot : Nat) : Dev.Agree [] [.host] d (Dev.slotLost d n slot) := by
  unfold Dev.slotLost
  repeat' (first
    | (with_reducible intro x; first
        | (with_reducible refine Dev.Agree.have (cs := []) (fs := [.host]) (a := d) (x := x) ?_ ?_; subst x; rotate_left 1; clear_value x; with_reducible intro _; rotate_right 1)
        | (with_reducible refine Dev.Agree.have (cs := []) (fs := [.host]) (a := d) (x := x.2) ?_ ?_; subst x; rotate_left 1; clear_value x; with_reducible intro _; rotate_right 1)
        | clear_value x
        | skip)
    | with_reducible exact Dev.Agree.refl
    | with_reducible assumption
    | lift_lets -underBinder
    | with_reducible apply Dev.Agree.ite
    | (with_reducible apply Dev.Agree.step (Dev.setRing_frame _ _ _); decide; decide)
    | (with_reducible apply Dev.Agree.step (Dev.slotPut_frame _ _ _ _ _); decide; decide)
    | split)

theorem Dev.memUncorr_frame (d : Dev) (r : MemRegion) : Dev.Agree [0x01, 0x60, 0x90, 0xC0] [.evt, .host, .commits, .mode, .caps, .isls, .sup, .weave, .lid] d (Dev.memUncorr d r) := by
  unfold Dev.memUncorr
  repeat' (first
    | (with_reducible intro x; first
        | (with_reducible refine Dev.Agree.have (cs := [0x01, 0x60, 0x90, 0xC0]) (fs := [.evt, .host, .commits, .mode, .caps, .isls, .sup, .weave, .lid]) (a := d) (x := x) ?_ ?_; subst x; rotate_left 1; clear_value x; with_reducible intro _; rotate_right 1)
        | (with_reducible refine Dev.Agree.have (cs := [0x01, 0x60, 0x90, 0xC0]) (fs := [.evt, .host, .commits, .mode, .caps, .isls, .sup, .weave, .lid]) (a := d) (x := x.2) ?_ ?_; subst x; rotate_left 1; clear_value x; with_reducible intro _; rotate_right 1)
        | clear_value x
        | skip)
    | with_reducible exact Dev.Agree.refl
    | with_reducible assumption
    | lift_lets -underBinder
    | with_reducible apply Dev.Agree.ite
    | (with_reducible apply Dev.Agree.inc; decide; decide)
    | (with_reducible apply Dev.Agree.step (Dev.raise_frame _ _ _ _ _); decide; decide)
    | (with_reducible apply Dev.Agree.step (Dev.capEcc_frame _ _ _); decide; decide)
    | (with_reducible apply Dev.Agree.step (Dev.pairFault_frame _ _); decide; decide)
    | (with_reducible apply Dev.Agree.step (Dev.slotLost_frame _ _ _); decide; decide)
    | split)

theorem Dev.modeTold_frame (d : Dev) (old : Option Nat) (n : Nat) : Dev.Agree [0x90, 0x91] [.host, .weave] d (Dev.modeTold d old n) := by
  unfold Dev.modeTold
  repeat' (first
    | (with_reducible intro x; first
        | (with_reducible refine Dev.Agree.have (cs := [0x90, 0x91]) (fs := [.host, .weave]) (a := d) (x := x) ?_ ?_; subst x; rotate_left 1; clear_value x; with_reducible intro _; rotate_right 1)
        | (with_reducible refine Dev.Agree.have (cs := [0x90, 0x91]) (fs := [.host, .weave]) (a := d) (x := x.2) ?_ ?_; subst x; rotate_left 1; clear_value x; with_reducible intro _; rotate_right 1)
        | clear_value x
        | skip)
    | with_reducible exact Dev.Agree.refl
    | with_reducible assumption
    | lift_lets -underBinder
    | with_reducible apply Dev.Agree.ite
    | (with_reducible apply Dev.Agree.step (Dev.heartbeats_frame _); decide; decide)
    | split)

theorem Dev.tripNow_frame (d : Dev) : Dev.Agree [0x01, 0x04, 0x21, 0x60, 0x61, 0x90, 0x91, 0xB0, 0xC0] [.evt, .host, .mode, .caps, .trigs, .grids, .weave, .pwr] d (Dev.tripNow d) := by
  unfold Dev.tripNow
  repeat' (first
    | (with_reducible intro x; first
        | (with_reducible refine Dev.Agree.have (cs := [0x01, 0x04, 0x21, 0x60, 0x61, 0x90, 0x91, 0xB0, 0xC0]) (fs := [.evt, .host, .mode, .caps, .trigs, .grids, .weave, .pwr]) (a := d) (x := x) ?_ ?_; subst x; rotate_left 1; clear_value x; with_reducible intro _; rotate_right 1)
        | (with_reducible refine Dev.Agree.have (cs := [0x01, 0x04, 0x21, 0x60, 0x61, 0x90, 0x91, 0xB0, 0xC0]) (fs := [.evt, .host, .mode, .caps, .trigs, .grids, .weave, .pwr]) (a := d) (x := x.2) ?_ ?_; subst x; rotate_left 1; clear_value x; with_reducible intro _; rotate_right 1)
        | clear_value x
        | skip)
    | with_reducible exact Dev.Agree.refl
    | with_reducible assumption
    | lift_lets -underBinder
    | with_reducible apply Dev.Agree.ite
    | (with_reducible apply Dev.Agree.step (Dev.wake_frame _ _); decide; decide)
    | (with_reducible apply Dev.Agree.step (Dev.enterState_frame _ _ _); decide; decide)
    | (with_reducible apply Dev.Agree.step (Dev.modeDone_frame _); decide; decide)
    | (with_reducible apply Dev.Agree.step (Dev.modeTold_frame _ _ _); decide; decide)
    | split)

theorem Dev.clkFail_frame (d : Dev) (dom : Nat) : Dev.Agree [0x01, 0x02, 0x04, 0x20, 0x21, 0x30, 0x31, 0x60, 0x61, 0x80, 0x81, 0x90, 0x91, 0xB0, 0xC0] [.evt, .host, .commits, .mode, .legs, .ports, .caps, .trigs, .grids, .sup, .weave, .lid, .pwr] d (Dev.clkFail d dom) := by
  unfold Dev.clkFail
  repeat' (first
    | (with_reducible intro x; first
        | (with_reducible refine Dev.Agree.have (cs := [0x01, 0x02, 0x04, 0x20, 0x21, 0x30, 0x31, 0x60, 0x61, 0x80, 0x81, 0x90, 0x91, 0xB0, 0xC0]) (fs := [.evt, .host, .commits, .mode, .legs, .ports, .caps, .trigs, .grids, .sup, .weave, .lid, .pwr]) (a := d) (x := x) ?_ ?_; subst x; rotate_left 1; clear_value x; with_reducible intro _; rotate_right 1)
        | (with_reducible refine Dev.Agree.have (cs := [0x01, 0x02, 0x04, 0x20, 0x21, 0x30, 0x31, 0x60, 0x61, 0x80, 0x81, 0x90, 0x91, 0xB0, 0xC0]) (fs := [.evt, .host, .commits, .mode, .legs, .ports, .caps, .trigs, .grids, .sup, .weave, .lid, .pwr]) (a := d) (x := x.2) ?_ ?_; subst x; rotate_left 1; clear_value x; with_reducible intro _; rotate_right 1)
        | clear_value x
        | skip)
    | with_reducible exact Dev.Agree.refl
    | with_reducible assumption
    | lift_lets -underBinder
    | with_reducible apply Dev.Agree.ite
    | (with_reducible apply Dev.Agree.step (Dev.raise_frame _ _ _ _ _); decide; decide)
    | (with_reducible apply Dev.Agree.step (Dev.tripLegs_frame _ _ _); decide; decide)
    | (with_reducible apply Dev.Agree.step (Dev.weftDown_frame _ _); decide; decide)
    | (with_reducible apply Dev.Agree.step (Dev.linkDown_frame _ _); decide; decide)
    | (with_reducible apply Dev.Agree.step (Dev.tripNow_frame _); decide; decide)
    | with_reducible apply Dev.Agree.forN
    | (fail_if_no_progress with_reducible apply Dev.Agree.upd_mode; decide)
    | (fail_if_no_progress with_reducible apply Dev.Agree.upd_sup; decide)
    | (fail_if_no_progress with_reducible apply Dev.Agree.upd_lid; decide)
    | (apply Dev.Agree.upd; (with_reducible assumption); exact Eq.refl _; intro f hf; cases f <;> first | exact absurd hf (by decide) | exact Eq.refl _)
    | (apply Dev.Agree.upd; (with_reducible exact Dev.Agree.refl); exact Eq.refl _; intro f hf; cases f <;> first | exact absurd hf (by decide) | exact Eq.refl _)
    | split)

theorem Dev.clkLocked_frame (d : Dev) (dom : Nat) : Dev.Agree [0x60, 0x61, 0xC0, 0x200] [.now, .beatStart, .beatLen, .evt, .mode, .caps, .trigs, .sup, .weave] d (Dev.clkLocked d dom).2 := by
  unfold Dev.clkLocked
  repeat' (first
    | (with_reducible intro x; first
        | (with_reducible refine Dev.Agree.have (cs := [0x60, 0x61, 0xC0, 0x200]) (fs := [.now, .beatStart, .beatLen, .evt, .mode, .caps, .trigs, .sup, .weave]) (a := d) (x := x) ?_ ?_; subst x; rotate_left 1; clear_value x; with_reducible intro _; rotate_right 1)
        | (with_reducible refine Dev.Agree.have (cs := [0x60, 0x61, 0xC0, 0x200]) (fs := [.now, .beatStart, .beatLen, .evt, .mode, .caps, .trigs, .sup, .weave]) (a := d) (x := x.2) ?_ ?_; subst x; rotate_left 1; clear_value x; with_reducible intro _; rotate_right 1)
        | clear_value x
        | skip)
    | with_reducible exact Dev.Agree.refl
    | with_reducible assumption
    | lift_lets -underBinder
    | with_reducible apply Dev.Agree.ite
    | with_reducible apply Dev.Agree.ite2
    | split
    | (with_reducible apply Dev.Agree.step (Dev.actionsRun_frame _); decide; decide)
    | (with_reducible apply Dev.Agree.step (Dev.anchorBeat_frame _); decide; decide)
    | (fail_if_no_progress with_reducible apply Dev.Agree.upd_sup; decide))

theorem Dev.fallbackWrite_frame (d : Dev) (c : Nat) : Dev.Agree [0x12, 0x20, 0x30, 0x31] [.ctxs, .weave] d (Dev.fallbackWrite d c) := by
  unfold Dev.fallbackWrite
  repeat' (first
    | (with_reducible intro x; first
        | (with_reducible refine Dev.Agree.have (cs := [0x12, 0x20, 0x30, 0x31]) (fs := [.ctxs, .weave]) (a := d) (x := x) ?_ ?_; subst x; rotate_left 1; clear_value x; with_reducible intro _; rotate_right 1)
        | (with_reducible refine Dev.Agree.have (cs := [0x12, 0x20, 0x30, 0x31]) (fs := [.ctxs, .weave]) (a := d) (x := x.2) ?_ ?_; subst x; rotate_left 1; clear_value x; with_reducible intro _; rotate_right 1)
        | clear_value x
        | skip)
    | with_reducible exact Dev.Agree.refl
    | with_reducible assumption
    | lift_lets -underBinder
    | with_reducible apply Dev.Agree.ite
    | (with_reducible apply Dev.Agree.step (Dev.setCtx_frame _ _ _); decide; decide)
    | (with_reducible apply Dev.Agree.step (Dev.writeOuts_frame _ _ _); decide; decide)
    | split)

theorem Dev.portRun_frame (d : Dev) (p : Nat) : Dev.Agree [0x03, 0x20, 0x30, 0x90, 0x91, 0xC0] [.evt, .host, .tsets, .commits, .ports, .weave, .met, .lid] d (Dev.portRun d p) := by
  unfold Dev.portRun
  repeat' (first
    | (with_reducible intro x; first
        | (with_reducible refine Dev.Agree.have (cs := [0x03, 0x20, 0x30, 0x90, 0x91, 0xC0]) (fs := [.evt, .host, .tsets, .commits, .ports, .weave, .met, .lid]) (a := d) (x := x) ?_ ?_; subst x; rotate_left 1; clear_value x; with_reducible intro _; rotate_right 1)
        | (with_reducible refine Dev.Agree.have (cs := [0x03, 0x20, 0x30, 0x90, 0x91, 0xC0]) (fs := [.evt, .host, .tsets, .commits, .ports, .weave, .met, .lid]) (a := d) (x := x.2) ?_ ?_; subst x; rotate_left 1; clear_value x; with_reducible intro _; rotate_right 1)
        | clear_value x
        | skip)
    | with_reducible exact Dev.Agree.refl
    | with_reducible assumption
    | lift_lets -underBinder
    | with_reducible apply Dev.Agree.ite
    | (with_reducible apply Dev.Agree.step (Dev.portStep_frame _ _); decide; decide)
    | (with_reducible apply Dev.Agree.step (Dev.metAlloc_frame _ _ _); decide; decide)
    | (with_reducible apply Dev.Agree.step (Dev.burstDecide_frame _ _); decide; decide)
    | split)

theorem Dev.gatherAt_frame (d : Dev) (c : Nat) (s : Nat) : Dev.Agree [0x03, 0x20, 0xC0] [.now, .evt, .ctxs] d (Dev.gatherAt d c s).2.2 := by
  unfold Dev.gatherAt
  repeat' (first
    | (with_reducible intro x; first
        | (with_reducible refine Dev.Agree.have (cs := [0x03, 0x20, 0xC0]) (fs := [.now, .evt, .ctxs]) (a := d) (x := x) ?_ ?_; subst x; rotate_left 1; clear_value x; with_reducible intro _; rotate_right 1)
        | (with_reducible refine Dev.Agree.have (cs := [0x03, 0x20, 0xC0]) (fs := [.now, .evt, .ctxs]) (a := d) (x := x.2.2.2) ?_ ?_; subst x; rotate_left 1; clear_value x; with_reducible intro _; rotate_right 1)
        | (with_reducible refine Dev.Agree.have (cs := [0x03, 0x20, 0xC0]) (fs := [.now, .evt, .ctxs]) (a := d) (x := x.2.2) ?_ ?_; subst x; rotate_left 1; clear_value x; with_reducible intro _; rotate_right 1)
        | (with_reducible refine Dev.Agree.have (cs := [0x03, 0x20, 0xC0]) (fs := [.now, .evt, .ctxs]) (a := d) (x := x.2) ?_ ?_; subst x; rotate_left 1; clear_value x; with_reducible intro _; rotate_right 1)
        | clear_value x
        | skip)
    | with_reducible exact Dev.Agree.refl
    | with_reducible assumption
    | lift_lets -underBinder
    | with_reducible apply Dev.Agree.ite
    | split
    | (with_reducible apply Dev.Agree.step (Dev.gatherCtx_frame _ _); decide; decide)
    | (fail_if_no_progress with_reducible apply Dev.Agree.upd_now; decide))

theorem Dev.engineLate_frame (d : Dev) (c : Nat) (rest : List Item) (cycle : Nat) : Dev.Agree [] [.ctxs, .eng] d (Dev.engineLate d c rest cycle) := by
  unfold Dev.engineLate
  repeat' (first
    | (with_reducible intro x; first
        | (with_reducible refine Dev.Agree.have (cs := []) (fs := [.ctxs, .eng]) (a := d) (x := x) ?_ ?_; subst x; rotate_left 1; clear_value x; with_reducible intro _; rotate_right 1)
        | (with_reducible refine Dev.Agree.have (cs := []) (fs := [.ctxs, .eng]) (a := d) (x := x.2) ?_ ?_; subst x; rotate_left 1; clear_value x; with_reducible intro _; rotate_right 1)
        | clear_value x
        | skip)
    | with_reducible exact Dev.Agree.refl
    | with_reducible assumption
    | lift_lets -underBinder
    | with_reducible apply Dev.Agree.ite
    | (with_reducible apply Dev.Agree.step (Dev.setCtx_frame _ _ _); decide; decide)
    | (fail_if_no_progress with_reducible apply Dev.Agree.upd_eng; decide)
    | split)

theorem Dev.engineCtx_frame (d : Dev) (c : Nat) (s : Nat) (fin : Nat) (rest : List Item) : Dev.Agree [0x03, 0x12, 0x20, 0x30, 0x31, 0x60, 0x61, 0xC0] [.now, .evt, .caps, .trigs, .ctxs, .eng, .weave] d (Dev.engineCtx d c s fin rest).2 := by
  unfold Dev.engineCtx
  repeat' (first
    | (with_reducible intro x; first
        | (with_reducible refine Dev.Agree.have (cs := [0x03, 0x12, 0x20, 0x30, 0x31, 0x60, 0x61, 0xC0]) (fs := [.now, .evt, .caps, .trigs, .ctxs, .eng, .weave]) (a := d) (x := x) ?_ ?_; subst x; rotate_left 1; clear_value x; with_reducible intro _; rotate_right 1)
        | (with_reducible refine Dev.Agree.have (cs := [0x03, 0x12, 0x20, 0x30, 0x31, 0x60, 0x61, 0xC0]) (fs := [.now, .evt, .caps, .trigs, .ctxs, .eng, .weave]) (a := d) (x := x.2.2.2) ?_ ?_; subst x; rotate_left 1; clear_value x; with_reducible intro _; rotate_right 1)
        | (with_reducible refine Dev.Agree.have (cs := [0x03, 0x12, 0x20, 0x30, 0x31, 0x60, 0x61, 0xC0]) (fs := [.now, .evt, .caps, .trigs, .ctxs, .eng, .weave]) (a := d) (x := x.2.2) ?_ ?_; subst x; rotate_left 1; clear_value x; with_reducible intro _; rotate_right 1)
        | (with_reducible refine Dev.Agree.have (cs := [0x03, 0x12, 0x20, 0x30, 0x31, 0x60, 0x61, 0xC0]) (fs := [.now, .evt, .caps, .trigs, .ctxs, .eng, .weave]) (a := d) (x := x.2) ?_ ?_; subst x; rotate_left 1; clear_value x; with_reducible intro _; rotate_right 1)
        | clear_value x
        | skip)
    | with_reducible exact Dev.Agree.refl
    | with_reducible assumption
    | lift_lets -underBinder
    | with_reducible apply Dev.Agree.ite
    | with_reducible apply Dev.Agree.ite2
    | split
    | (with_reducible apply Dev.Agree.step (Dev.overrun_frame _ _ _ _); decide; decide)
    | (with_reducible apply Dev.Agree.step (Dev.finishCtx_frame _ _ _ _); decide; decide)
    | (with_reducible apply Dev.Agree.step (Dev.fallbackWrite_frame _ _); decide; decide)
    | (with_reducible apply Dev.Agree.step (Dev.gatherAt_frame _ _ _); decide; decide)
    | (with_reducible apply Dev.Agree.step (Dev.engineLate_frame _ _ _ _); decide; decide)
    | with_reducible apply Dev.Agree.atCycle)

theorem Dev.engineFixed_frame (d : Dev) (it : Item) (fin : Nat) : Dev.Agree [0x03, 0x20, 0x21, 0x22, 0x30, 0x90, 0x91, 0xC0] [.evt, .host, .tsets, .commits, .ports, .grids, .isls, .weave, .met, .lid] d (Dev.engineFixed d it fin) := by
  unfold Dev.engineFixed
  repeat' (first
    | (with_reducible intro x; first
        | (with_reducible refine Dev.Agree.have (cs := [0x03, 0x20, 0x21, 0x22, 0x30, 0x90, 0x91, 0xC0]) (fs := [.evt, .host, .tsets, .commits, .ports, .grids, .isls, .weave, .met, .lid]) (a := d) (x := x) ?_ ?_; subst x; rotate_left 1; clear_value x; with_reducible intro _; rotate_right 1)
        | (with_reducible refine Dev.Agree.have (cs := [0x03, 0x20, 0x21, 0x22, 0x30, 0x90, 0x91, 0xC0]) (fs := [.evt, .host, .tsets, .commits, .ports, .grids, .isls, .weave, .met, .lid]) (a := d) (x := x.2) ?_ ?_; subst x; rotate_left 1; clear_value x; with_reducible intro _; rotate_right 1)
        | clear_value x
        | skip)
    | with_reducible exact Dev.Agree.refl
    | with_reducible assumption
    | lift_lets -underBinder
    | with_reducible apply Dev.Agree.ite
    | (with_reducible apply Dev.Agree.step (Dev.isldStep_frame _ _); decide; decide)
    | (with_reducible apply Dev.Agree.step (Dev.gridStep_frame _ _); decide; decide)
    | (with_reducible apply Dev.Agree.step (Dev.portRun_frame _ _); decide; decide)
    | with_reducible apply Dev.Agree.atCycle
    | split)

theorem Dev.engineGo_frame (its : List Item) (t : Nat) (d : Dev) : Dev.Agree [0x03, 0x12, 0x20, 0x21, 0x22, 0x30, 0x31, 0x60, 0x61, 0x90, 0x91, 0xC0] [.now, .evt, .host, .tsets, .commits, .ports, .caps, .trigs, .ctxs, .eng, .grids, .isls, .weave, .met, .lid] d (Dev.engineGo its t d) := by
  induction its generalizing t d with
  | nil => unfold Dev.engineGo; exact Dev.Agree.upd_eng (by decide) Dev.Agree.refl
  | cons it rest ih =>
    unfold Dev.engineGo
    refine Dev.Agree.ite (fun _ => Dev.Agree.upd_eng (by decide) Dev.Agree.refl) (fun _ => Dev.Agree.ite (fun _ => ?_) (fun _ => ?_))
    · have h : d.Agree [0x03, 0x12, 0x20, 0x21, 0x22, 0x30, 0x31, 0x60, 0x61, 0x90, 0x91, 0xC0] [.now, .evt, .host, .tsets, .commits, .ports, .caps, .trigs, .ctxs, .eng, .grids, .isls, .weave, .met, .lid] (d.engineCtx it.num (d.itemStart t it) (d.itemStart t it + d.itemCost it) rest).2 :=
        Dev.Agree.step (Dev.engineCtx_frame _ _ _ _ _) (by decide) (by decide) Dev.Agree.refl
      generalize d.engineCtx it.num (d.itemStart t it) (d.itemStart t it + d.itemCost it) rest = r at h ⊢
      cases hr : r.1 with
      | none => simpa only [hr] using h
      | some u => simpa only [hr] using h.trans (ih _ _)
    · exact (Dev.Agree.step (Dev.engineFixed_frame _ _ _) (by decide) (by decide) Dev.Agree.refl).trans (ih _ _)

theorem Dev.engineRun_frame (d : Dev) : Dev.Agree [0x03, 0x12, 0x20, 0x21, 0x22, 0x30, 0x31, 0x60, 0x61, 0x90, 0x91, 0xC0] [.now, .evt, .host, .tsets, .commits, .ports, .caps, .trigs, .ctxs, .eng, .grids, .isls, .weave, .met, .lid] d (Dev.engineRun d) := by
  unfold Dev.engineRun
  repeat' (first
    | (with_reducible intro x; first
        | (with_reducible refine Dev.Agree.have (cs := [0x03, 0x12, 0x20, 0x21, 0x22, 0x30, 0x31, 0x60, 0x61, 0x90, 0x91, 0xC0]) (fs := [.now, .evt, .host, .tsets, .commits, .ports, .caps, .trigs, .ctxs, .eng, .grids, .isls, .weave, .met, .lid]) (a := d) (x := x) ?_ ?_; subst x; rotate_left 1; clear_value x; with_reducible intro _; rotate_right 1)
        | (with_reducible refine Dev.Agree.have (cs := [0x03, 0x12, 0x20, 0x21, 0x22, 0x30, 0x31, 0x60, 0x61, 0x90, 0x91, 0xC0]) (fs := [.now, .evt, .host, .tsets, .commits, .ports, .caps, .trigs, .ctxs, .eng, .grids, .isls, .weave, .met, .lid]) (a := d) (x := x.2) ?_ ?_; subst x; rotate_left 1; clear_value x; with_reducible intro _; rotate_right 1)
        | clear_value x
        | skip)
    | with_reducible exact Dev.Agree.refl
    | with_reducible assumption
    | lift_lets -underBinder
    | with_reducible apply Dev.Agree.ite
    | (with_reducible apply Dev.Agree.step (Dev.isldIdle_frame _ _); decide; decide)
    | (with_reducible apply Dev.Agree.step (Dev.engineGo_frame _ _ _); decide; decide)
    | with_reducible apply Dev.Agree.forL
    | (fail_if_no_progress with_reducible apply Dev.Agree.upd_eng; decide)
    | split)

theorem Dev.passed_frame (d : Dev) (c : Nat) (cycle : Nat) : Dev.Agree [0x12, 0x20, 0x30, 0x31, 0xC0] [.evt, .ctxs, .weave] d (Dev.passed d c cycle) := by
  unfold Dev.passed
  repeat' (first
    | (with_reducible intro x; first
        | (with_reducible refine Dev.Agree.have (cs := [0x12, 0x20, 0x30, 0x31, 0xC0]) (fs := [.evt, .ctxs, .weave]) (a := d) (x := x) ?_ ?_; subst x; rotate_left 1; clear_value x; with_reducible intro _; rotate_right 1)
        | (with_reducible refine Dev.Agree.have (cs := [0x12, 0x20, 0x30, 0x31, 0xC0]) (fs := [.evt, .ctxs, .weave]) (a := d) (x := x.2) ?_ ?_; subst x; rotate_left 1; clear_value x; with_reducible intro _; rotate_right 1)
        | clear_value x
        | skip)
    | with_reducible exact Dev.Agree.refl
    | with_reducible assumption
    | lift_lets -underBinder
    | with_reducible apply Dev.Agree.ite
    | (with_reducible apply Dev.Agree.step (Dev.setCtx_frame _ _ _); decide; decide)
    | (with_reducible apply Dev.Agree.step (Dev.overrun_frame _ _ _ _); decide; decide)
    | (with_reducible apply Dev.Agree.step (Dev.fallbackWrite_frame _ _); decide; decide)
    | split)

theorem Dev.deadlinePass_frame (d : Dev) (dl : Nat) : Dev.Agree [0x03, 0x12, 0x20, 0x21, 0x22, 0x30, 0x31, 0x60, 0x61, 0x90, 0x91, 0xC0] [.now, .evt, .host, .tsets, .commits, .ports, .caps, .trigs, .ctxs, .eng, .grids, .isls, .weave, .met, .lid] d (Dev.deadlinePass d dl) := by
  unfold Dev.deadlinePass
  repeat' (first
    | (with_reducible intro x; first
        | (with_reducible refine Dev.Agree.have (cs := [0x03, 0x12, 0x20, 0x21, 0x22, 0x30, 0x31, 0x60, 0x61, 0x90, 0x91, 0xC0]) (fs := [.now, .evt, .host, .tsets, .commits, .ports, .caps, .trigs, .ctxs, .eng, .grids, .isls, .weave, .met, .lid]) (a := d) (x := x) ?_ ?_; subst x; rotate_left 1; clear_value x; with_reducible intro _; rotate_right 1)
        | (with_reducible refine Dev.Agree.have (cs := [0x03, 0x12, 0x20, 0x21, 0x22, 0x30, 0x31, 0x60, 0x61, 0x90, 0x91, 0xC0]) (fs := [.now, .evt, .host, .tsets, .commits, .ports, .caps, .trigs, .ctxs, .eng, .grids, .isls, .weave, .met, .lid]) (a := d) (x := x.2) ?_ ?_; subst x; rotate_left 1; clear_value x; with_reducible intro _; rotate_right 1)
        | clear_value x
        | skip)
    | with_reducible exact Dev.Agree.refl
    | with_reducible assumption
    | lift_lets -underBinder
    | with_reducible apply Dev.Agree.ite
    | (with_reducible apply Dev.Agree.step (Dev.engineGo_frame _ _ _); decide; decide)
    | (with_reducible apply Dev.Agree.step (Dev.passed_frame _ _ _); decide; decide)
    | with_reducible apply Dev.Agree.forL
    | split)

theorem Dev.deadline_frame (d : Dev) (c : Nat) : Dev.Agree [0x03, 0x12, 0x20, 0x21, 0x22, 0x30, 0x31, 0x60, 0x61, 0x90, 0x91, 0xC0] [.now, .evt, .host, .tsets, .commits, .ports, .caps, .trigs, .ctxs, .eng, .grids, .isls, .weave, .met, .lid] d (Dev.deadline d c) := by
  unfold Dev.deadline
  repeat' (first
    | (with_reducible intro x; first
        | (with_reducible refine Dev.Agree.have (cs := [0x03, 0x12, 0x20, 0x21, 0x22, 0x30, 0x31, 0x60, 0x61, 0x90, 0x91, 0xC0]) (fs := [.now, .evt, .host, .tsets, .commits, .ports, .caps, .trigs, .ctxs, .eng, .grids, .isls, .weave, .met, .lid]) (a := d) (x := x) ?_ ?_; subst x; rotate_left 1; clear_value x; with_reducible intro _; rotate_right 1)
        | (with_reducible refine Dev.Agree.have (cs := [0x03, 0x12, 0x20, 0x21, 0x22, 0x30, 0x31, 0x60, 0x61, 0x90, 0x91, 0xC0]) (fs := [.now, .evt, .host, .tsets, .commits, .ports, .caps, .trigs, .ctxs, .eng, .grids, .isls, .weave, .met, .lid]) (a := d) (x := x.2) ?_ ?_; subst x; rotate_left 1; clear_value x; with_reducible intro _; rotate_right 1)
        | clear_value x
        | skip)
    | with_reducible exact Dev.Agree.refl
    | with_reducible assumption
    | lift_lets -underBinder
    | with_reducible apply Dev.Agree.ite
    | (with_reducible apply Dev.Agree.step (Dev.deadlinePass_frame _ _); decide; decide)
    | split)

theorem Dev.modeBoundary_frame (d : Dev) (switched : Bool) : Dev.Agree [0x01, 0x04, 0x21, 0x60, 0x61, 0x90, 0x91, 0xB0, 0xC0] [.evt, .host, .mode, .caps, .trigs, .grids, .weave, .pwr] d (Dev.modeBoundary d switched) := by
  unfold Dev.modeBoundary
  repeat' (first
    | (with_reducible intro x; first
        | (with_reducible refine Dev.Agree.have (cs := [0x01, 0x04, 0x21, 0x60, 0x61, 0x90, 0x91, 0xB0, 0xC0]) (fs := [.evt, .host, .mode, .caps, .trigs, .grids, .weave, .pwr]) (a := d) (x := x) ?_ ?_; subst x; rotate_left 1; clear_value x; with_reducible intro _; rotate_right 1)
        | (with_reducible refine Dev.Agree.have (cs := [0x01, 0x04, 0x21, 0x60, 0x61, 0x90, 0x91, 0xB0, 0xC0]) (fs := [.evt, .host, .mode, .caps, .trigs, .grids, .weave, .pwr]) (a := d) (x := x.2) ?_ ?_; subst x; rotate_left 1; clear_value x; with_reducible intro _; rotate_right 1)
        | clear_value x
        | skip)
    | with_reducible exact Dev.Agree.refl
    | with_reducible assumption
    | lift_lets -underBinder
    | with_reducible apply Dev.Agree.ite
    | (with_reducible apply Dev.Agree.step (Dev.modeRun_frame _ _); decide; decide)
    | (with_reducible apply Dev.Agree.step (Dev.modePark_frame _ _); decide; decide)
    | (with_reducible apply Dev.Agree.step (Dev.modeTold_frame _ _ _); decide; decide)
    | split)

theorem Dev.armTarget_frame (d : Dev) (n : Nat) : Dev.Agree [0x61] [.trigs] d (Dev.armTarget d n) := by
  unfold Dev.armTarget
  repeat' (first
    | (with_reducible intro x; first
        | (with_reducible refine Dev.Agree.have (cs := [0x61]) (fs := [.trigs]) (a := d) (x := x) ?_ ?_; subst x; rotate_left 1; clear_value x; with_reducible intro _; rotate_right 1)
        | (with_reducible refine Dev.Agree.have (cs := [0x61]) (fs := [.trigs]) (a := d) (x := x.2) ?_ ?_; subst x; rotate_left 1; clear_value x; with_reducible intro _; rotate_right 1)
        | clear_value x
        | skip)
    | with_reducible exact Dev.Agree.refl
    | with_reducible assumption
    | lift_lets -underBinder
    | with_reducible apply Dev.Agree.ite
    | (with_reducible apply Dev.Agree.step (Dev.setTrig_frame _ _ _); decide; decide)
    | (with_reducible apply Dev.Agree.step (Dev.trigArm_frame _ _ _ _); decide; decide)
    | split)

theorem Dev.rearm_frame (d : Dev) (n : Nat) : Dev.Agree [0x60] [.caps] d (Dev.rearm d n) := by
  unfold Dev.rearm
  repeat' (first
    | (with_reducible intro x; first
        | (with_reducible refine Dev.Agree.have (cs := [0x60]) (fs := [.caps]) (a := d) (x := x) ?_ ?_; subst x; rotate_left 1; clear_value x; with_reducible intro _; rotate_right 1)
        | (with_reducible refine Dev.Agree.have (cs := [0x60]) (fs := [.caps]) (a := d) (x := x.2) ?_ ?_; subst x; rotate_left 1; clear_value x; with_reducible intro _; rotate_right 1)
        | clear_value x
        | skip)
    | with_reducible exact Dev.Agree.refl
    | with_reducible assumption
    | lift_lets -underBinder
    | with_reducible apply Dev.Agree.ite
    | (with_reducible apply Dev.Agree.step (Dev.startStream_frame _ _ _); decide; decide)
    | split)

theorem Dev.codesFollow_frame (d : Dev) : Dev.Agree [0x22, 0xC0] [.evt, .isls] d (Dev.codesFollow d) := by
  unfold Dev.codesFollow
  repeat' (first
    | (with_reducible intro x; first
        | (with_reducible refine Dev.Agree.have (cs := [0x22, 0xC0]) (fs := [.evt, .isls]) (a := d) (x := x) ?_ ?_; subst x; rotate_left 1; clear_value x; with_reducible intro _; rotate_right 1)
        | (with_reducible refine Dev.Agree.have (cs := [0x22, 0xC0]) (fs := [.evt, .isls]) (a := d) (x := x.2) ?_ ?_; subst x; rotate_left 1; clear_value x; with_reducible intro _; rotate_right 1)
        | clear_value x
        | skip)
    | with_reducible exact Dev.Agree.refl
    | with_reducible assumption
    | lift_lets -underBinder
    | with_reducible apply Dev.Agree.ite
    | (with_reducible apply Dev.Agree.put; decide; decide)
    | (with_reducible apply Dev.Agree.step (Dev.clashEval_frame _); decide; decide)
    | with_reducible apply Dev.Agree.forN
    | split)

theorem Dev.sampleBeat_frame (d : Dev) (x : Samples) : Dev.Agree [0x40, 0x41, 0x60, 0x61, 0xC0] [.evt, .caps, .trigs, .adcs, .sdis, .weave] d (Dev.sampleBeat d x) := by
  unfold Dev.sampleBeat
  repeat' (first
    | (with_reducible intro x; first
        | (with_reducible refine Dev.Agree.have (cs := [0x40, 0x41, 0x60, 0x61, 0xC0]) (fs := [.evt, .caps, .trigs, .adcs, .sdis, .weave]) (a := d) (x := x) ?_ ?_; subst x; rotate_left 1; clear_value x; with_reducible intro _; rotate_right 1)
        | (with_reducible refine Dev.Agree.have (cs := [0x40, 0x41, 0x60, 0x61, 0xC0]) (fs := [.evt, .caps, .trigs, .adcs, .sdis, .weave]) (a := d) (x := x.2) ?_ ?_; subst x; rotate_left 1; clear_value x; with_reducible intro _; rotate_right 1)
        | clear_value x
        | skip)
    | with_reducible exact Dev.Agree.refl
    | with_reducible assumption
    | lift_lets -underBinder
    | with_reducible apply Dev.Agree.ite
    | (with_reducible apply Dev.Agree.step (Dev.sampleParams_frame _); decide; decide)
    | (with_reducible apply Dev.Agree.step (Dev.adcBeat_frame _ _ _); decide; decide)
    | (with_reducible apply Dev.Agree.step (Dev.sdiBits_frame _ _ _); decide; decide)
    | (with_reducible apply Dev.Agree.step (Dev.sdiBeat_frame _ _); decide; decide)
    | with_reducible apply Dev.Agree.forN
    | with_reducible apply Dev.Agree.forL
    | split)

theorem Dev.armsBeat_frame (d : Dev) : Dev.Agree [0x10, 0x11, 0x12, 0xC0] [.evt, .spokes, .cells, .arms, .weave] d (Dev.armsBeat d) := by
  unfold Dev.armsBeat
  repeat' (first
    | (with_reducible intro x; first
        | (with_reducible refine Dev.Agree.have (cs := [0x10, 0x11, 0x12, 0xC0]) (fs := [.evt, .spokes, .cells, .arms, .weave]) (a := d) (x := x) ?_ ?_; subst x; rotate_left 1; clear_value x; with_reducible intro _; rotate_right 1)
        | (with_reducible refine Dev.Agree.have (cs := [0x10, 0x11, 0x12, 0xC0]) (fs := [.evt, .spokes, .cells, .arms, .weave]) (a := d) (x := x.2) ?_ ?_; subst x; rotate_left 1; clear_value x; with_reducible intro _; rotate_right 1)
        | clear_value x
        | skip)
    | with_reducible exact Dev.Agree.refl
    | with_reducible assumption
    | lift_lets -underBinder
    | with_reducible apply Dev.Agree.ite
    | (with_reducible apply Dev.Agree.step (Dev.armLatch_frame _ _); decide; decide)
    | (with_reducible apply Dev.Agree.step (Dev.armPass_frame _ _); decide; decide)
    | (with_reducible apply Dev.Agree.step (Dev.staleBeat_frame _ _); decide; decide)
    | (with_reducible apply Dev.Agree.step (Dev.spokeBeat_frame _ _); decide; decide)
    | with_reducible apply Dev.Agree.forN
    | split)

theorem Dev.followMode_frame (d : Dev) : Dev.Agree [0x12, 0x20, 0x30, 0x31, 0xC0] [.evt, .legs, .ports, .ctxs, .cells, .arms] d (Dev.followMode d) := by
  unfold Dev.followMode
  repeat' (first
    | (with_reducible intro x; first
        | (with_reducible refine Dev.Agree.have (cs := [0x12, 0x20, 0x30, 0x31, 0xC0]) (fs := [.evt, .legs, .ports, .ctxs, .cells, .arms]) (a := d) (x := x) ?_ ?_; subst x; rotate_left 1; clear_value x; with_reducible intro _; rotate_right 1)
        | (with_reducible refine Dev.Agree.have (cs := [0x12, 0x20, 0x30, 0x31, 0xC0]) (fs := [.evt, .legs, .ports, .ctxs, .cells, .arms]) (a := d) (x := x.2) ?_ ?_; subst x; rotate_left 1; clear_value x; with_reducible intro _; rotate_right 1)
        | clear_value x
        | skip)
    | with_reducible exact Dev.Agree.refl
    | with_reducible assumption
    | lift_lets -underBinder
    | with_reducible apply Dev.Agree.ite
    | (with_reducible apply Dev.Agree.step (Dev.legBoundary_frame _ _); decide; decide)
    | (with_reducible apply Dev.Agree.step (Dev.ctxBoundary_frame _ _); decide; decide)
    | (with_reducible apply Dev.Agree.step (Dev.armBoundary_frame _ _); decide; decide)
    | (with_reducible apply Dev.Agree.step (Dev.unblockAll_frame _); decide; decide)
    | (with_reducible apply Dev.Agree.step (Dev.portBoundary_frame _ _); decide; decide)
    | with_reducible apply Dev.Agree.forN
    | split)

theorem Dev.beatFull_frame (d : Dev) (x : Samples) (switched : Bool) : Dev.Agree [0x01, 0x02, 0x03, 0x04, 0x10, 0x11, 0x12, 0x20, 0x21, 0x22, 0x30, 0x31, 0x40, 0x41, 0x60, 0x61, 0x80, 0x81, 0x90, 0x91, 0xB0, 0xC0] [.now, .evt, .host, .tsets, .commits, .mode, .legs, .ports, .caps, .trigs, .ctxs, .eng, .grids, .isls, .spokes, .cells, .arms, .adcs, .sdis, .wins, .sup, .weave, .met, .lid, .pwr] d (Dev.beatFull d x switched) := by
  unfold Dev.beatFull
  repeat' (first
    | (with_reducible intro x; first
        | (with_reducible refine Dev.Agree.have (cs := [0x01, 0x02, 0x03, 0x04, 0x10, 0x11, 0x12, 0x20, 0x21, 0x22, 0x30, 0x31, 0x40, 0x41, 0x60, 0x61, 0x80, 0x81, 0x90, 0x91, 0xB0, 0xC0]) (fs := [.now, .evt, .host, .tsets, .commits, .mode, .legs, .ports, .caps, .trigs, .ctxs, .eng, .grids, .isls, .spokes, .cells, .arms, .adcs, .sdis, .wins, .sup, .weave, .met, .lid, .pwr]) (a := d) (x := x) ?_ ?_; subst x; rotate_left 1; clear_value x; with_reducible intro _; rotate_right 1)
        | (with_reducible refine Dev.Agree.have (cs := [0x01, 0x02, 0x03, 0x04, 0x10, 0x11, 0x12, 0x20, 0x21, 0x22, 0x30, 0x31, 0x40, 0x41, 0x60, 0x61, 0x80, 0x81, 0x90, 0x91, 0xB0, 0xC0]) (fs := [.now, .evt, .host, .tsets, .commits, .mode, .legs, .ports, .caps, .trigs, .ctxs, .eng, .grids, .isls, .spokes, .cells, .arms, .adcs, .sdis, .wins, .sup, .weave, .met, .lid, .pwr]) (a := d) (x := x.2) ?_ ?_; subst x; rotate_left 1; clear_value x; with_reducible intro _; rotate_right 1)
        | clear_value x
        | skip)
    | with_reducible exact Dev.Agree.refl
    | with_reducible assumption
    | lift_lets -underBinder
    | with_reducible apply Dev.Agree.ite
    | (with_reducible apply Dev.Agree.step (Dev.ctxSync_frame _ _); decide; decide)
    | (with_reducible apply Dev.Agree.step (Dev.isldBoundary_frame _ _); decide; decide)
    | (with_reducible apply Dev.Agree.step (Dev.timeBoundary_frame _); decide; decide)
    | (with_reducible apply Dev.Agree.step (Dev.mismatchBoundary_frame _); decide; decide)
    | (with_reducible apply Dev.Agree.step (Dev.sendTimes_frame _); decide; decide)
    | (with_reducible apply Dev.Agree.step (Dev.signalsUsed_frame _); decide; decide)
    | (with_reducible apply Dev.Agree.step (Dev.sendArmCur_frame _ _); decide; decide)
    | (with_reducible apply Dev.Agree.step (Dev.weaveBoundary_frame _); decide; decide)
    | (with_reducible apply Dev.Agree.step (Dev.chopperStep_frame _ _); decide; decide)
    | (with_reducible apply Dev.Agree.step (Dev.readbackBeat_frame _ _); decide; decide)
    | (with_reducible apply Dev.Agree.step (Dev.parkStart_frame _); decide; decide)
    | (with_reducible apply Dev.Agree.step (Dev.engineRun_frame _); decide; decide)
    | (with_reducible apply Dev.Agree.step (Dev.modeBoundary_frame _ _); decide; decide)
    | (with_reducible apply Dev.Agree.step (Dev.armTarget_frame _ _); decide; decide)
    | (with_reducible apply Dev.Agree.step (Dev.rearm_frame _ _); decide; decide)
    | (with_reducible apply Dev.Agree.step (Dev.codesFollow_frame _); decide; decide)
    | (with_reducible apply Dev.Agree.step (Dev.sampleBeat_frame _ _); decide; decide)
    | (with_reducible apply Dev.Agree.step (Dev.armsBeat_frame _); decide; decide)
    | (with_reducible apply Dev.Agree.step (Dev.followMode_frame _); decide; decide)
    | with_reducible apply Dev.Agree.forN
    | split)

theorem Dev.beatParked_frame (d : Dev) (switched : Bool) : Dev.Agree [0x01, 0x02, 0x04, 0x21, 0x30, 0x60, 0x61, 0x80, 0x90, 0x91, 0xB0, 0xC0] [.evt, .host, .tsets, .commits, .mode, .ports, .caps, .trigs, .grids, .sup, .weave, .lid, .pwr] d (Dev.beatParked d switched) := by
  unfold Dev.beatParked
  repeat' (first
    | (with_reducible intro x; first
        | (with_reducible refine Dev.Agree.have (cs := [0x01, 0x02, 0x04, 0x21, 0x30, 0x60, 0x61, 0x80, 0x90, 0x91, 0xB0, 0xC0]) (fs := [.evt, .host, .tsets, .commits, .mode, .ports, .caps, .trigs, .grids, .sup, .weave, .lid, .pwr]) (a := d) (x := x) ?_ ?_; subst x; rotate_left 1; clear_value x; with_reducible intro _; rotate_right 1)
        | (with_reducible refine Dev.Agree.have (cs := [0x01, 0x02, 0x04, 0x21, 0x30, 0x60, 0x61, 0x80, 0x90, 0x91, 0xB0, 0xC0]) (fs := [.evt, .host, .tsets, .commits, .mode, .ports, .caps, .trigs, .grids, .sup, .weave, .lid, .pwr]) (a := d) (x := x.2) ?_ ?_; subst x; rotate_left 1; clear_value x; with_reducible intro _; rotate_right 1)
        | clear_value x
        | skip)
    | with_reducible exact Dev.Agree.refl
    | with_reducible assumption
    | lift_lets -underBinder
    | with_reducible apply Dev.Agree.ite
    | (with_reducible apply Dev.Agree.step (Dev.timeBoundary_frame _); decide; decide)
    | (with_reducible apply Dev.Agree.step (Dev.burstFlush_frame _); decide; decide)
    | (with_reducible apply Dev.Agree.step (Dev.modeBoundary_frame _ _); decide; decide)
    | split)

theorem Dev.beatCount_frame (d : Dev) (ecc : Nat) : Dev.Agree [0x01] [.mode, .caps] d (Dev.beatCount d ecc) := by
  unfold Dev.beatCount
  repeat' (first
    | (with_reducible intro x; first
        | (with_reducible refine Dev.Agree.have (cs := [0x01]) (fs := [.mode, .caps]) (a := d) (x := x) ?_ ?_; subst x; rotate_left 1; clear_value x; with_reducible intro _; rotate_right 1)
        | (with_reducible refine Dev.Agree.have (cs := [0x01]) (fs := [.mode, .caps]) (a := d) (x := x.2) ?_ ?_; subst x; rotate_left 1; clear_value x; with_reducible intro _; rotate_right 1)
        | clear_value x
        | skip)
    | with_reducible exact Dev.Agree.refl
    | with_reducible assumption
    | lift_lets -underBinder
    | with_reducible apply Dev.Agree.ite
    | (with_reducible apply Dev.Agree.inc; decide; decide)
    | (with_reducible apply Dev.Agree.step (Dev.setCap_frame _ _ _); decide; decide)
    | with_reducible apply Dev.Agree.forN
    | (fail_if_no_progress with_reducible apply Dev.Agree.upd_mode; decide)
    | split)

theorem Dev.nextBeat_frame (d : Dev) (t : Nat) : Dev.Agree [0x02, 0x22, 0x200] [.now, .beatStart, .beatLen, .newGrid, .isls] d (Dev.nextBeat d t) := by
  unfold Dev.nextBeat
  repeat' (first
    | (with_reducible intro x; first
        | (with_reducible refine Dev.Agree.have (cs := [0x02, 0x22, 0x200]) (fs := [.now, .beatStart, .beatLen, .newGrid, .isls]) (a := d) (x := x) ?_ ?_; subst x; rotate_left 1; clear_value x; with_reducible intro _; rotate_right 1)
        | (with_reducible refine Dev.Agree.have (cs := [0x02, 0x22, 0x200]) (fs := [.now, .beatStart, .beatLen, .newGrid, .isls]) (a := d) (x := x.2) ?_ ?_; subst x; rotate_left 1; clear_value x; with_reducible intro _; rotate_right 1)
        | clear_value x
        | skip)
    | with_reducible exact Dev.Agree.refl
    | with_reducible assumption
    | lift_lets -underBinder
    | with_reducible apply Dev.Agree.ite
    | (with_reducible apply Dev.Agree.step (Dev.beginBeat_frame _ _); decide; decide)
    | (with_reducible apply Dev.Agree.step (Dev.takeGrid_frame _ _); decide; decide)
    | split)

theorem Dev.portHoldNext_frame (d : Dev) (p : Nat) : Dev.Agree [0x31] [.legs, .ports] d (Dev.portHoldNext d p) := by
  unfold Dev.portHoldNext
  repeat' (first
    | (with_reducible intro x; first
        | (with_reducible refine Dev.Agree.have (cs := [0x31]) (fs := [.legs, .ports]) (a := d) (x := x) ?_ ?_; subst x; rotate_left 1; clear_value x; with_reducible intro _; rotate_right 1)
        | (with_reducible refine Dev.Agree.have (cs := [0x31]) (fs := [.legs, .ports]) (a := d) (x := x.2) ?_ ?_; subst x; rotate_left 1; clear_value x; with_reducible intro _; rotate_right 1)
        | clear_value x
        | skip)
    | with_reducible exact Dev.Agree.refl
    | with_reducible assumption
    | lift_lets -underBinder
    | with_reducible apply Dev.Agree.ite
    | (with_reducible apply Dev.Agree.step (Dev.setPort_frame _ _ _); decide; decide)
    | (with_reducible apply Dev.Agree.step (Dev.portHold_frame _ _ _); decide; decide)
    | split)

theorem Dev.finalPass_frame (d : Dev) : Dev.Agree [0x03, 0x12, 0x20, 0x21, 0x22, 0x30, 0x31, 0x60, 0x61, 0x90, 0x91, 0xC0] [.now, .evt, .host, .tsets, .commits, .ports, .caps, .trigs, .ctxs, .eng, .grids, .isls, .cells, .arms, .weave, .met, .lid] d (Dev.finalPass d) := by
  unfold Dev.finalPass
  repeat' (first
    | (with_reducible intro x; first
        | (with_reducible refine Dev.Agree.have (cs := [0x03, 0x12, 0x20, 0x21, 0x22, 0x30, 0x31, 0x60, 0x61, 0x90, 0x91, 0xC0]) (fs := [.now, .evt, .host, .tsets, .commits, .ports, .caps, .trigs, .ctxs, .eng, .grids, .isls, .cells, .arms, .weave, .met, .lid]) (a := d) (x := x) ?_ ?_; subst x; rotate_left 1; clear_value x; with_reducible intro _; rotate_right 1)
        | (with_reducible refine Dev.Agree.have (cs := [0x03, 0x12, 0x20, 0x21, 0x22, 0x30, 0x31, 0x60, 0x61, 0x90, 0x91, 0xC0]) (fs := [.now, .evt, .host, .tsets, .commits, .ports, .caps, .trigs, .ctxs, .eng, .grids, .isls, .cells, .arms, .weave, .met, .lid]) (a := d) (x := x.2) ?_ ?_; subst x; rotate_left 1; clear_value x; with_reducible intro _; rotate_right 1)
        | clear_value x
        | skip)
    | with_reducible exact Dev.Agree.refl
    | with_reducible assumption
    | lift_lets -underBinder
    | with_reducible apply Dev.Agree.ite
    | (with_reducible apply Dev.Agree.step (Dev.finalStep_frame _); decide; decide)
    | (with_reducible apply Dev.Agree.step (Dev.deadlinePass_frame _ _); decide; decide)
    | split)

theorem Dev.windowEnd_frame (d : Dev) : Dev.Agree [0x03, 0x12, 0x20, 0x21, 0x22, 0x30, 0x31, 0x60, 0x61, 0x90, 0x91, 0xC0] [.now, .evt, .host, .tsets, .commits, .legs, .ports, .caps, .trigs, .ctxs, .eng, .grids, .isls, .spokes, .cells, .arms, .weave, .met, .lid] d (Dev.windowEnd d) := by
  unfold Dev.windowEnd
  repeat' (first
    | (with_reducible intro x; first
        | (with_reducible refine Dev.Agree.have (cs := [0x03, 0x12, 0x20, 0x21, 0x22, 0x30, 0x31, 0x60, 0x61, 0x90, 0x91, 0xC0]) (fs := [.now, .evt, .host, .tsets, .commits, .legs, .ports, .caps, .trigs, .ctxs, .eng, .grids, .isls, .spokes, .cells, .arms, .weave, .met, .lid]) (a := d) (x := x) ?_ ?_; subst x; rotate_left 1; clear_value x; with_reducible intro _; rotate_right 1)
        | (with_reducible refine Dev.Agree.have (cs := [0x03, 0x12, 0x20, 0x21, 0x22, 0x30, 0x31, 0x60, 0x61, 0x90, 0x91, 0xC0]) (fs := [.now, .evt, .host, .tsets, .commits, .legs, .ports, .caps, .trigs, .ctxs, .eng, .grids, .isls, .spokes, .cells, .arms, .weave, .met, .lid]) (a := d) (x := x.2) ?_ ?_; subst x; rotate_left 1; clear_value x; with_reducible intro _; rotate_right 1)
        | clear_value x
        | skip)
    | with_reducible exact Dev.Agree.refl
    | with_reducible assumption
    | lift_lets -underBinder
    | with_reducible apply Dev.Agree.ite
    | (with_reducible apply Dev.Agree.step (Dev.legLatch_frame _ _); decide; decide)
    | (with_reducible apply Dev.Agree.step (Dev.armRates_frame _ _); decide; decide)
    | (with_reducible apply Dev.Agree.step (Dev.spokesSend_frame _); decide; decide)
    | (with_reducible apply Dev.Agree.step (Dev.sendBeatPkts_frame _); decide; decide)
    | (with_reducible apply Dev.Agree.step (Dev.publish_frame _); decide; decide)
    | (with_reducible apply Dev.Agree.step (Dev.sendArmCur_frame _ _); decide; decide)
    | (with_reducible apply Dev.Agree.step (Dev.deadlinePass_frame _ _); decide; decide)
    | (with_reducible apply Dev.Agree.step (Dev.portHoldNext_frame _ _); decide; decide)
    | (with_reducible apply Dev.Agree.step (Dev.finalPass_frame _); decide; decide)
    | with_reducible apply Dev.Agree.forN
    | split)

theorem Dev.wakeScan_frame (d : Dev) (old : Dev) : Dev.Agree [0xB0, 0xC0] [.evt, .pwr] d (Dev.wakeScan d old) := by
  unfold Dev.wakeScan
  repeat' (first
    | (with_reducible intro x; first
        | (with_reducible refine Dev.Agree.have (cs := [0xB0, 0xC0]) (fs := [.evt, .pwr]) (a := d) (x := x) ?_ ?_; subst x; rotate_left 1; clear_value x; with_reducible intro _; rotate_right 1)
        | (with_reducible refine Dev.Agree.have (cs := [0xB0, 0xC0]) (fs := [.evt, .pwr]) (a := d) (x := x.2) ?_ ?_; subst x; rotate_left 1; clear_value x; with_reducible intro _; rotate_right 1)
        | clear_value x
        | skip)
    | with_reducible exact Dev.Agree.refl
    | with_reducible assumption
    | lift_lets -underBinder
    | with_reducible apply Dev.Agree.ite
    | (with_reducible apply Dev.Agree.step (Dev.wake_frame _ _); decide; decide)
    | split)

theorem Dev.settle_frame (d : Dev) (old : Dev) : Dev.Agree [0x60, 0x61, 0xB0, 0xC0] [.evt, .caps, .trigs, .weave, .pwr, .pins] d (Dev.settle d old) := by
  unfold Dev.settle
  repeat' (first
    | (with_reducible intro x; first
        | (with_reducible refine Dev.Agree.have (cs := [0x60, 0x61, 0xB0, 0xC0]) (fs := [.evt, .caps, .trigs, .weave, .pwr, .pins]) (a := d) (x := x) ?_ ?_; subst x; rotate_left 1; clear_value x; with_reducible intro _; rotate_right 1)
        | (with_reducible refine Dev.Agree.have (cs := [0x60, 0x61, 0xB0, 0xC0]) (fs := [.evt, .caps, .trigs, .weave, .pwr, .pins]) (a := d) (x := x.2) ?_ ?_; subst x; rotate_left 1; clear_value x; with_reducible intro _; rotate_right 1)
        | clear_value x
        | skip)
    | with_reducible exact Dev.Agree.refl
    | with_reducible assumption
    | lift_lets -underBinder
    | with_reducible apply Dev.Agree.ite
    | (with_reducible apply Dev.Agree.put; decide; decide)
    | (with_reducible apply Dev.Agree.step (Dev.serveFresh_frame _ _); decide; decide)
    | (with_reducible apply Dev.Agree.step (Dev.wakeScan_frame _ _); decide; decide)
    | (fail_if_no_progress with_reducible apply Dev.Agree.upd_pins; decide)
    | split)

theorem Dev.updatePoint_frame (d : Dev) (n : Nat) (peak : Bool) : Dev.Agree [0x31, 0x60, 0x61, 0xC0] [.evt, .legs, .caps, .trigs, .weave] d (Dev.updatePoint d n peak) := by
  unfold Dev.updatePoint
  repeat' (first
    | (with_reducible intro x; first
        | (with_reducible refine Dev.Agree.have (cs := [0x31, 0x60, 0x61, 0xC0]) (fs := [.evt, .legs, .caps, .trigs, .weave]) (a := d) (x := x) ?_ ?_; subst x; rotate_left 1; clear_value x; with_reducible intro _; rotate_right 1)
        | (with_reducible refine Dev.Agree.have (cs := [0x31, 0x60, 0x61, 0xC0]) (fs := [.evt, .legs, .caps, .trigs, .weave]) (a := d) (x := x.2) ?_ ?_; subst x; rotate_left 1; clear_value x; with_reducible intro _; rotate_right 1)
        | clear_value x
        | skip)
    | with_reducible exact Dev.Agree.refl
    | with_reducible assumption
    | lift_lets -underBinder
    | with_reducible apply Dev.Agree.ite
    | (with_reducible apply Dev.Agree.step (Dev.legUpdate_frame _ _ _); decide; decide)
    | (with_reducible apply Dev.Agree.step (Dev.legVarEnd_frame _ _ _); decide; decide)
    | split)

theorem Dev.varMax_frame (d : Dev) (n : Nat) : Dev.Agree [0x31, 0x60, 0x61, 0xC0] [.evt, .legs, .caps, .trigs, .weave] d (Dev.varMax d n) := by
  unfold Dev.varMax
  repeat' (first
    | (with_reducible intro x; first
        | (with_reducible refine Dev.Agree.have (cs := [0x31, 0x60, 0x61, 0xC0]) (fs := [.evt, .legs, .caps, .trigs, .weave]) (a := d) (x := x) ?_ ?_; subst x; rotate_left 1; clear_value x; with_reducible intro _; rotate_right 1)
        | (with_reducible refine Dev.Agree.have (cs := [0x31, 0x60, 0x61, 0xC0]) (fs := [.evt, .legs, .caps, .trigs, .weave]) (a := d) (x := x.2) ?_ ?_; subst x; rotate_left 1; clear_value x; with_reducible intro _; rotate_right 1)
        | clear_value x
        | skip)
    | with_reducible exact Dev.Agree.refl
    | with_reducible assumption
    | lift_lets -underBinder
    | with_reducible apply Dev.Agree.ite
    | (with_reducible apply Dev.Agree.step (Dev.setLeg_frame _ _ _); decide; decide)
    | (with_reducible apply Dev.Agree.step (Dev.legVarEnd_frame _ _ _); decide; decide)
    | split)

theorem Dev.refreshTimer_frame (d : Dev) (n : Nat) : Dev.Agree [] [.legs] d (Dev.refreshTimer d n) := by
  unfold Dev.refreshTimer
  repeat' (first
    | (with_reducible intro x; first
        | (with_reducible refine Dev.Agree.have (cs := []) (fs := [.legs]) (a := d) (x := x) ?_ ?_; subst x; rotate_left 1; clear_value x; with_reducible intro _; rotate_right 1)
        | (with_reducible refine Dev.Agree.have (cs := []) (fs := [.legs]) (a := d) (x := x.2) ?_ ?_; subst x; rotate_left 1; clear_value x; with_reducible intro _; rotate_right 1)
        | clear_value x
        | skip)
    | with_reducible exact Dev.Agree.refl
    | with_reducible assumption
    | lift_lets -underBinder
    | with_reducible apply Dev.Agree.ite
    | (with_reducible apply Dev.Agree.step (Dev.setLeg_frame _ _ _); decide; decide)
    | split)

theorem Dev.faultInputs_frame (d : Dev) (ns : List Nat) : Dev.Agree [0x20, 0x30, 0x31, 0xC0] [.evt, .legs, .ports] d (Dev.faultInputs d ns) := by
  unfold Dev.faultInputs
  repeat' (first
    | (with_reducible intro x; first
        | (with_reducible refine Dev.Agree.have (cs := [0x20, 0x30, 0x31, 0xC0]) (fs := [.evt, .legs, .ports]) (a := d) (x := x) ?_ ?_; subst x; rotate_left 1; clear_value x; with_reducible intro _; rotate_right 1)
        | (with_reducible refine Dev.Agree.have (cs := [0x20, 0x30, 0x31, 0xC0]) (fs := [.evt, .legs, .ports]) (a := d) (x := x.2) ?_ ?_; subst x; rotate_left 1; clear_value x; with_reducible intro _; rotate_right 1)
        | clear_value x
        | skip)
    | with_reducible exact Dev.Agree.refl
    | with_reducible assumption
    | lift_lets -underBinder
    | with_reducible apply Dev.Agree.ite
    | (with_reducible apply Dev.Agree.step (Dev.setLeg_frame _ _ _); decide; decide)
    | (with_reducible apply Dev.Agree.step (Dev.tripLegs_frame _ _ _); decide; decide)
    | with_reducible apply Dev.Agree.forN
    | split)

theorem Dev.readyLow_frame (d : Dev) (ns : List Nat) : Dev.Agree [0x20, 0x30, 0x31, 0xC0] [.evt, .legs, .ports] d (Dev.readyLow d ns) := by
  unfold Dev.readyLow
  repeat' (first
    | (with_reducible intro x; first
        | (with_reducible refine Dev.Agree.have (cs := [0x20, 0x30, 0x31, 0xC0]) (fs := [.evt, .legs, .ports]) (a := d) (x := x) ?_ ?_; subst x; rotate_left 1; clear_value x; with_reducible intro _; rotate_right 1)
        | (with_reducible refine Dev.Agree.have (cs := [0x20, 0x30, 0x31, 0xC0]) (fs := [.evt, .legs, .ports]) (a := d) (x := x.2) ?_ ?_; subst x; rotate_left 1; clear_value x; with_reducible intro _; rotate_right 1)
        | clear_value x
        | skip)
    | with_reducible exact Dev.Agree.refl
    | with_reducible assumption
    | lift_lets -underBinder
    | with_reducible apply Dev.Agree.ite
    | (with_reducible apply Dev.Agree.step (Dev.setLeg_frame _ _ _); decide; decide)
    | (with_reducible apply Dev.Agree.step (Dev.tripLegs_frame _ _ _); decide; decide)
    | with_reducible apply Dev.Agree.forN
    | split)

theorem Dev.blockFlush_frame (d : Dev) (n : Nat) : Dev.Agree [] [.caps] d (Dev.blockFlush d n) := by
  unfold Dev.blockFlush
  repeat' (first
    | (with_reducible intro x; first
        | (with_reducible refine Dev.Agree.have (cs := []) (fs := [.caps]) (a := d) (x := x) ?_ ?_; subst x; rotate_left 1; clear_value x; with_reducible intro _; rotate_right 1)
        | (with_reducible refine Dev.Agree.have (cs := []) (fs := [.caps]) (a := d) (x := x.2) ?_ ?_; subst x; rotate_left 1; clear_value x; with_reducible intro _; rotate_right 1)
        | clear_value x
        | skip)
    | with_reducible exact Dev.Agree.refl
    | with_reducible assumption
    | lift_lets -underBinder
    | with_reducible apply Dev.Agree.ite
    | (with_reducible apply Dev.Agree.step (Dev.closeBlk_frame _ _); decide; decide)
    | split)

theorem Dev.holdoffEnd_frame (d : Dev) (n : Nat) : Dev.Agree [0x61] [.trigs] d (Dev.holdoffEnd d n) := by
  unfold Dev.holdoffEnd
  repeat' (first
    | (with_reducible intro x; first
        | (with_reducible refine Dev.Agree.have (cs := [0x61]) (fs := [.trigs]) (a := d) (x := x) ?_ ?_; subst x; rotate_left 1; clear_value x; with_reducible intro _; rotate_right 1)
        | (with_reducible refine Dev.Agree.have (cs := [0x61]) (fs := [.trigs]) (a := d) (x := x.2) ?_ ?_; subst x; rotate_left 1; clear_value x; with_reducible intro _; rotate_right 1)
        | clear_value x
        | skip)
    | with_reducible exact Dev.Agree.refl
    | with_reducible assumption
    | lift_lets -underBinder
    | with_reducible apply Dev.Agree.ite
    | (with_reducible apply Dev.Agree.put; decide; decide)
    | (with_reducible apply Dev.Agree.step (Dev.setTrig_frame _ _ _); decide; decide)
    | split)

theorem Dev.autoFire_frame (d : Dev) (n : Nat) : Dev.Agree [0x60, 0x61, 0xC0] [.evt, .caps, .trigs, .weave] d (Dev.autoFire d n) := by
  unfold Dev.autoFire
  repeat' (first
    | (with_reducible intro x; first
        | (with_reducible refine Dev.Agree.have (cs := [0x60, 0x61, 0xC0]) (fs := [.evt, .caps, .trigs, .weave]) (a := d) (x := x) ?_ ?_; subst x; rotate_left 1; clear_value x; with_reducible intro _; rotate_right 1)
        | (with_reducible refine Dev.Agree.have (cs := [0x60, 0x61, 0xC0]) (fs := [.evt, .caps, .trigs, .weave]) (a := d) (x := x.2) ?_ ?_; subst x; rotate_left 1; clear_value x; with_reducible intro _; rotate_right 1)
        | clear_value x
        | skip)
    | with_reducible exact Dev.Agree.refl
    | with_reducible assumption
    | lift_lets -underBinder
    | with_reducible apply Dev.Agree.ite
    | (with_reducible apply Dev.Agree.step (Dev.fireTrig_frame _ _ _ _ _); decide; decide)
    | split)

theorem Dev.fireClose_frame (d : Dev) (n : Nat) : Dev.Agree [0x60, 0x61, 0xC0] [.evt, .caps, .trigs] d (Dev.fireClose d n) := by
  unfold Dev.fireClose
  repeat' (first
    | (with_reducible intro x; first
        | (with_reducible refine Dev.Agree.have (cs := [0x60, 0x61, 0xC0]) (fs := [.evt, .caps, .trigs]) (a := d) (x := x) ?_ ?_; subst x; rotate_left 1; clear_value x; with_reducible intro _; rotate_right 1)
        | (with_reducible refine Dev.Agree.have (cs := [0x60, 0x61, 0xC0]) (fs := [.evt, .caps, .trigs]) (a := d) (x := x.2) ?_ ?_; subst x; rotate_left 1; clear_value x; with_reducible intro _; rotate_right 1)
        | clear_value x
        | skip)
    | with_reducible exact Dev.Agree.refl
    | with_reducible assumption
    | lift_lets -underBinder
    | with_reducible apply Dev.Agree.ite
    | (with_reducible apply Dev.Agree.step (Dev.setTrig_frame _ _ _); decide; decide)
    | (with_reducible apply Dev.Agree.step (Dev.trigMissed_frame _ _ _ _ _); decide; decide)
    | (with_reducible apply Dev.Agree.step (Dev.fireMarks_frame _ _ _); decide; decide)
    | with_reducible apply Dev.Agree.forL
    | split)

theorem Dev.noteSubscribe_frame (d : Dev) (h : WHdr) (sigs : List Nat) : Dev.Agree [] [.weave] d (Dev.noteSubscribe d h sigs) := by
  unfold Dev.noteSubscribe
  repeat' (first
    | (with_reducible intro x; first
        | (with_reducible refine Dev.Agree.have (cs := []) (fs := [.weave]) (a := d) (x := x) ?_ ?_; subst x; rotate_left 1; clear_value x; with_reducible intro _; rotate_right 1)
        | (with_reducible refine Dev.Agree.have (cs := []) (fs := [.weave]) (a := d) (x := x.2) ?_ ?_; subst x; rotate_left 1; clear_value x; with_reducible intro _; rotate_right 1)
        | clear_value x
        | skip)
    | with_reducible exact Dev.Agree.refl
    | with_reducible assumption
    | lift_lets -underBinder
    | with_reducible apply Dev.Agree.ite
    | (with_reducible apply Dev.Agree.step (Dev.takeSubscribe_frame _ _ _ _); decide; decide)
    | split)

theorem Dev.ptpRx_frame (d : Dev) (port : Nat) (off : Int) (utc : BitVec 16) (locked : Bool) : Dev.Agree [0x02, 0x22, 0x60, 0x90, 0xC0, 0x200] [.now, .beatStart, .beatLen, .newGrid, .free, .evt, .caps, .isls, .sup] d (Dev.ptpRx d port off utc locked) := by
  unfold Dev.ptpRx
  repeat' (first
    | (with_reducible intro x; first
        | (with_reducible refine Dev.Agree.have (cs := [0x02, 0x22, 0x60, 0x90, 0xC0, 0x200]) (fs := [.now, .beatStart, .beatLen, .newGrid, .free, .evt, .caps, .isls, .sup]) (a := d) (x := x) ?_ ?_; subst x; rotate_left 1; clear_value x; with_reducible intro _; rotate_right 1)
        | (with_reducible refine Dev.Agree.have (cs := [0x02, 0x22, 0x60, 0x90, 0xC0, 0x200]) (fs := [.now, .beatStart, .beatLen, .newGrid, .free, .evt, .caps, .isls, .sup]) (a := d) (x := x.2) ?_ ?_; subst x; rotate_left 1; clear_value x; with_reducible intro _; rotate_right 1)
        | clear_value x
        | skip)
    | with_reducible exact Dev.Agree.refl
    | with_reducible assumption
    | lift_lets -underBinder
    | with_reducible apply Dev.Agree.ite
    | (with_reducible apply Dev.Agree.inc; decide; decide)
    | (with_reducible apply Dev.Agree.step (Dev.ptpMessage_frame _ _ _ _ _); decide; decide)
    | split)

theorem Dev.stopRegister_frame (d : Dev) (v : Nat) : Dev.Agree [0x20, 0x30, 0x31, 0xC0] [.evt, .mode, .legs, .ports] d (Dev.stopRegister d v) := by
  unfold Dev.stopRegister
  repeat' (first
    | (with_reducible intro x; first
        | (with_reducible refine Dev.Agree.have (cs := [0x20, 0x30, 0x31, 0xC0]) (fs := [.evt, .mode, .legs, .ports]) (a := d) (x := x) ?_ ?_; subst x; rotate_left 1; clear_value x; with_reducible intro _; rotate_right 1)
        | (with_reducible refine Dev.Agree.have (cs := [0x20, 0x30, 0x31, 0xC0]) (fs := [.evt, .mode, .legs, .ports]) (a := d) (x := x.2) ?_ ?_; subst x; rotate_left 1; clear_value x; with_reducible intro _; rotate_right 1)
        | clear_value x
        | skip)
    | with_reducible exact Dev.Agree.refl
    | with_reducible assumption
    | lift_lets -underBinder
    | with_reducible apply Dev.Agree.ite
    | (with_reducible apply Dev.Agree.step (Dev.stopTrip_frame _); decide; decide)
    | split)

theorem Dev.logNext_frame (d : Dev) : Dev.Agree [] [.evt] d (Dev.logNext d) := by
  unfold Dev.logNext
  repeat' (first
    | (with_reducible intro x; first
        | (with_reducible refine Dev.Agree.have (cs := []) (fs := [.evt]) (a := d) (x := x) ?_ ?_; subst x; rotate_left 1; clear_value x; with_reducible intro _; rotate_right 1)
        | (with_reducible refine Dev.Agree.have (cs := []) (fs := [.evt]) (a := d) (x := x.2) ?_ ?_; subst x; rotate_left 1; clear_value x; with_reducible intro _; rotate_right 1)
        | clear_value x
        | skip)
    | with_reducible exact Dev.Agree.refl
    | with_reducible assumption
    | lift_lets -underBinder
    | with_reducible apply Dev.Agree.ite
    | (with_reducible apply Dev.Agree.step (Dev.logAppend_frame _ _); decide; decide)
    | (fail_if_no_progress with_reducible apply Dev.Agree.upd_evt; decide)
    | split)

end Sys2Proof.Machine
end

