-- ==== Sys2Proof/WellFormed.lean ====
section
/-! DEFINITION. What a command's operands must be for the command to be one that the outside world can send: converter codes within their
width, a sample of every converter, a set of legs without repeats, a weave payload of the form of Table 16.3. A host message of a wrong length
or content is no ill-formed command: the spec says how it is answered. -/

namespace Sys2Proof

/-- A 16-bit two's-complement code (R265). -/
def sarCodeOk (c : Int) : Bool := decide (-32768 ≤ c ∧ c < 32768)

/-- A 24-bit two's-complement code (R283: x = code / 2²³). -/
def meterCodeOk (c : Int) : Bool := decide (-8388608 ≤ c ∧ c < 8388608)

/-- One code for each of the 24 SAR channels and a bit list for each of the 32 sigma-delta inputs. -/
def Samples.wf (x : Samples) : Bool := x.adc.length == 24 && x.adc.all sarCodeOk && x.sdi.length == 32

/-- No leg twice. -/
def legsOk (legs : List (Fin 40)) : Bool := decide legs.Nodup

/-- Whether a command is well formed. -/
def Instr.wf : Instr → Bool
  | .beatBoundary x => x.wf
  | .wakeComplete x _ => x.wf
  | .legFaultInput _ legs => legsOk legs
  | .legReadyLow _ legs => legsOk legs
  | .adcConversion _ _ code => sarCodeOk code
  | .readbackDone _ _ cs => cs.all sarCodeOk
  | .meterSample _ vs is => vs.length == 4 && is.length == 4 && vs.all meterCodeOk && is.all meterCodeOk
  | .lsa _ links => decide (links.length ≤ 4)
  | .assign _ pairs => decide (9 * pairs.length ≤ 4096)
  | .armCur _ xs => decide (5 * xs.length ≤ 4096)
  | .ctxState _ _ _ xs => xs.length == 16
  | .telemRelay _ _ _ half => half.length == 16
  | .codes _ cs => decide (2 * cs.length ≤ 4096)
  | .subscribe _ sigs => decide (sigs.length ≤ 4096)
  | .rimResetRelease _ pressGap releaseGap _ => pressGap.isSome || releaseGap.isNone
  | _ => true

end Sys2Proof
end

