-- ==== Sys2Proof/Tests/Slice0.lean ====
section
/-! SUPPORT. Tests: the checks of WellFormed, values that the spec prints, and for every statement with hypotheses a state and operands that meet
them (`witness_…`, named as the statement). -/

open Sys2Proof Sys2Proof.Machine

namespace Sys2Proof.Tests

set_option Elab.async false

/-! ## Helpers -/

/-- Firmware serves the host, in power mode RUN, with every clock and every link up, session 0 open on PCIe. -/
def dev0 : Dev :=
  let d : Dev := { Dev.reset with phase := .run, sup := { unlocked := 0, ddrMiB := 1024 }, pwr := { porst := false } }
  let d := ((d.put Par.linkState 0 1).put Par.linkState 1 1).put Par.linkState 2 1
  let d := (d.setSess 0 { isOpen := true, auth := true }).pairRings 0 0 1
  (d.put Par.ringDepth 0 4).put Par.ringDepth 16 4

/-- A state of a device with nothing pending. -/
def st (d : Dev) : State := { dev := d, pending := [] }

/-- A header of session 0. -/
def hdr : Hdr := { t := 160, session := 0, tag := 7, sealed := none, shadow := false }

/-- The records of a device alternate: the check as a computation. -/
theorem alternate_of (d : Dev)
    (h : (List.range 2).all (fun k => ((d.lid.boot.get (fun _ => none) k).all (fun r => decide (r.seq % 2 = k ∧ r.seq < 2 ^ 32)))
      && (d.lid.own.get (fun _ => none) k).all (fun r => decide (r.seq % 2 = k ∧ r.seq < 2 ^ 32))) = true) : d.recordsAlternate := by
  intro k hk
  have hh := List.all_eq_true.mp h k (List.mem_range.mpr hk)
  rw [Bool.and_eq_true] at hh
  refine ⟨fun r hr => ?_, fun r hr => ?_⟩
  · have := hh.1; rw [hr] at this; simpa using this
  · have := hh.2; rw [hr] at this; simpa using this

/-- A host message gets in and is answered: the check as a computation, for a session with no stored response. -/
def ready (d : Dev) (h : Hdr) : Bool :=
  d.phase == .run && !(d.pairHalted 1) && d.linkIsUp 0 && h.sealed.isNone && !(d.isOn Par.linkSealRequired 0)
  && (d.sess h.session.val).isOpen && (d.sess h.session.val).link == 0 && (d.sess h.session.val).origin.isNone
  && d.get Par.ringState h.session.val != 2 && d.get Par.ringState (16 + h.session.val) != 2 && !(d.ringFull (16 + h.session.val))
  && !(d.slotBad h.session.val) && (d.ring (16 + h.session.val)).waiting.isEmpty && (d.sess h.session.val).stored.isEmpty && d.host.msgs.isEmpty

theorem served_of (d : Dev) (h : Hdr) (op : Nat) (hr : ready d h = true) : d.served h op := by
  simp only [ready, Bool.and_eq_true, beq_iff_eq, bne_iff_ne, ne_eq, Bool.not_eq_true', Option.isNone_iff_eq_none,
    List.isEmpty_iff] at hr
  obtain ⟨⟨⟨⟨⟨⟨⟨⟨⟨⟨⟨⟨⟨⟨h1, h2⟩, h3⟩, h4⟩, h5⟩, h6⟩, h7⟩, h8⟩, h9⟩, h10⟩, h11⟩, h12⟩, h13⟩, h14⟩, h15⟩ := hr
  refine ⟨h1, h2, h3, h4, h5, h6, h7, h8, h9, h10, h11, h12, h13, ?_, ?_⟩
  · intro x hx; rw [h14] at hx; exact absurd hx List.not_mem_nil
  · intro m hm; rw [h15] at hm; exact absurd hm List.not_mem_nil

/-- Every message of session 0 of `dev0` gets in. -/
theorem served0 (op : Nat) : dev0.served hdr op := served_of dev0 hdr op (by decide +kernel)

/-! ## Ill-formed commands -/

/-- WellFormed refuses a term for each of its checks: a code beyond 16 bits and one beyond 24, a missing sample, a leg twice, link lists, payloads and
halves of a wrong length, a release gap without a press gap. -/
theorem test_wf_refuses :
    (Instr.adcConversion 0 0 32768).wf = false ∧ (Instr.adcConversion 0 0 (-32769)).wf = false
    ∧ (Instr.readbackDone 0 0 [40000]).wf = false ∧ (Instr.meterSample 0 [0, 0, 0, 8388608] [0, 0, 0, 0]).wf = false
    ∧ (Instr.meterSample 0 [0] [0, 0, 0, 0]).wf = false ∧ (Instr.meterSample 0 [0, 0, 0, 0] []).wf = false
    ∧ (Instr.beatBoundary { adc := [], sdi := [] }).wf = false ∧ (Instr.wakeComplete { adc := [], sdi := [] } 0).wf = false
    ∧ (Instr.legFaultInput 0 [3, 3]).wf = false ∧ (Instr.legReadyLow 0 [1, 2, 1]).wf = false
    ∧ (Instr.rimResetRelease 0 none (some 5) true).wf = false := by decide +kernel

theorem test_wf_accepts :
    (Instr.adcConversion 0 0 (-32768)).wf = true ∧ (Instr.legFaultInput 0 [3, 4]).wf = true
    ∧ (Instr.rimResetRelease 0 (some 5) (some 5) true).wf = true := by decide +kernel

/-- The same for the weave payloads. -/
theorem test_wf_weave (h : WHdr) :
    (Instr.lsa h [(0, 0, 0), (0, 0, 0), (0, 0, 0), (0, 0, 0), (0, 0, 0)]).wf = false ∧ (Instr.telemRelay h 0 0 []).wf = false
    ∧ (Instr.ctxState h 0 0 []).wf = false ∧ (Instr.assign h (List.replicate 456 (0, 0))).wf = false
    ∧ (Instr.armCur h (List.replicate 820 (0, 0))).wf = false ∧ (Instr.codes h (List.replicate 2049 0)).wf = false
    ∧ (Instr.subscribe h (List.replicate 4097 0)).wf = false := by
  refine ⟨rfl, rfl, rfl, ?_, ?_, ?_, ?_⟩ <;> (simp only [Instr.wf, List.length_replicate]; decide)

/-! ## The machine, power, time -/

theorem witness_StepRunsFrontCommand : ({ st dev0 with pending := [.deliverySecond 0] } : State).pending = .deliverySecond 0 :: [] := rfl

theorem witness_EmptyQueueIdles : (st dev0).pending = [] := rfl

theorem witness_ShownPinsAreSafe : Dev.pinsShown { dev0 with pins := dev0.pinsNow } := by
  unfold Dev.pinsShown; decide +kernel

theorem witness_StepKeepsPinsSafe :
    (State.reset.dev.pinsShown ∧ State.reset.dev.pinsSafe ∧ State.reset.dev.evt.fresh = []) ∧ step State.reset = .next State.reset := by
  refine ⟨⟨?_, ?_, rfl⟩, rfl⟩
  · unfold Dev.pinsShown; decide +kernel
  · unfold Dev.pinsSafe Dev.gatesSafe Dev.rimOutputsSafe Dev.powerPinsSafe; decide +kernel

theorem witness_StepKeepsRimLatched : State.reset.dev.rimLatchedOff ∧ step State.reset = .next State.reset := by
  refine ⟨?_, rfl⟩; unfold Dev.rimLatchedOff; decide +kernel

theorem witness_StepKeepsRecords : State.reset.dev.recordsAlternate ∧ step State.reset = .next State.reset :=
  ⟨alternate_of _ (by decide +kernel), rfl⟩

theorem witness_Resets :
    (dev0.phase ≠ .dark ∧ dev0.phase ≠ .held ∧ dev0.phase ≠ .warm)
    ∧ (let d : Dev := { dev0 with pins := { loopEn := true } }
       (d.phase ≠ .dark ∧ d.phase ≠ .held) ∧ ∀ rail : Fin 8, (rail.val = 1 → d.pins.loopEn = true) ∧ (6 ≤ rail.val → d.sup.ddrMiB ≠ 0 ∧ d.full = true))
    ∧ (let d : Dev := { dev0 with pwr := { press := some 0 } }
       d.pwr.press.isSome = true ∧ d.svcOn = true ∧ d.phase ≠ .warm) := by decide +kernel

theorem witness_ReleasesStartUp :
    (Dev.reset.phase = .held ∧ Dev.reset.pwr.island = true) ∧ ({ dev0 with phase := .warm } : Dev).phase = .warm
    ∧ (let d : Dev := { dev0 with phase := .dark, pwr := { porst := false, exitCause := some 4 } }
       d.phase = .dark ∧ d.pwr.exitCause.isSome = true ∧ d.pwr.porst = false) := by decide +kernel

theorem witness_RimStarts :
    (Dev.reset.phase = .held ∧ Dev.reset.pwr.island = true)
    ∧ (let d : Dev := { dev0 with phase := .dark, pwr := { porst := false, exitCause := some 4 } }
       d.phase = .dark ∧ d.pwr.exitCause.isSome = true ∧ d.pwr.porst = false)
    ∧ (let d : Dev := { dev0 with rim := { running := true, causes := [(3, 1)] } }
       3 < 4 ∧ bit (d.outCauses 3) (rcStart - 1) = true ∧ d.outOn 3 = false) := by decide +kernel

theorem witness_StartUp :
    ({ dev0 with phase := .rom } : Dev).phase = .rom ∧ dev0.clkOk cdSup = true
    ∧ (let d : Dev := { dev0 with phase := .loader }
       d.phase = .loader ∧ d.clkOk cdSup = true ∧ d.firmwareOk d.lid.running = true)
    ∧ ({ dev0 with phase := .firmware } : Dev).phase = .firmware := by decide +kernel

/-- `dev0` in power mode PARKED, with a request for DARK, the timer and its wake mask. -/
def parked : Dev :=
  let d := ((dev0.put Par.pwrMode 0 pmParked).put Par.pwrWakeMask 0 2).put Par.pwrParkWakeS 0 1
  { d with pwr := { d.pwr with darkReq := true } }

theorem witness_ParkingAndWakes :
    (let d := (dev0.put Par.devConvMode 0 kParked).put Par.pwrAutoPark 0 1
     d.phase = .run ∧ d.pmode = pmRun ∧ d.kind = kParked ∧ d.isOn Par.pwrAutoPark 0 = true)
    ∧ (let d := dev0.put Par.pwrMode 0 pmParking
       d.phase = .run ∧ d.pmode = pmParking ∧ d.pwr.wakeHeld = none)
    ∧ (parked.phase = .run ∧ parked.pmode = pmParked ∧ bit (parked.get Par.pwrWakeMask 0) 1 = true ∧ parked.get Par.pwrParkWakeS 0 ≠ 0) := by
  decide +kernel

theorem witness_Dark :
    (parked.phase = .run ∧ parked.pmode = pmParked ∧ parked.pwr.darkReq = true)
    ∧ (let d : Dev := { dev0 with phase := .dark, pwr := { auxLow := true, alarm := some 5 } }
       d.phase = .dark ∧ d.islandOn = true ∧ d.pwr.exitCause = none ∧ d.pwr.auxLow = true ∧ d.pwr.alarm.isSome = true) := by decide +kernel

theorem witness_AlwaysOnIsland :
    (let d : Dev := { dev0 with pwr := { stuck := true } }
     d.svcOn = true ∧ (d.pwr.stuck = true → 1000 ≤ 1000))
    ∧ (let d : Dev := { dev0 with pwr := { press := some 0 } }
       d.svcOn = true ∧ d.pwr.press.isSome = true)
    ∧ (dev0.islandOn = true ∧ dev0.get Par.pwrAonSource 0 ≠ 2)
    ∧ (let d : Dev := { dev0 with phase := .held, pwr := { island := false } }
       d.pwr.island = false ∧ d.clkOk cdAon = true) := by decide +kernel

theorem witness_Harvester :
    2 ≤ (dev0.put Par.harvState 0 2).get Par.harvState 0 ∧ dev0.islandOn = true := by decide +kernel

theorem witness_TimeAndClocks :
    (dev0.phase = .run ∧ ∀ port : Fin 2, dev0.linkIsUp (1 + port.val) = true)
    ∧ (∀ dom : Fin 8, dev0.clkOk dom.val = true)
    ∧ (let d : Dev := { dev0 with sup := { unlocked := 0xFE, ddrMiB := 1024 } }
       ∀ dom : Fin 8, (dom.val = cdAon ∨ d.full = true ∨ d.phase ≠ .held ∧ d.phase ≠ .dark ∧ (dom.val = cdTb ∨ dom.val = cdSup ∨ dom.val = cdNet))
         ∧ (dom.val = cdMem → d.sup.ddrMiB ≠ 0)) := by
  decide +kernel

theorem witness_SupervisorPairs :
    (dev0.phase = .run ∧ ∀ pair : Fin 2, ¬(pair.val = 0 ∧ dev0.pmode = pmParked))
    ∧ (let d : Dev := { dev0 with sup := { unlocked := 0, halted := 3 } }
       d.clkOk cdSup = true ∧ ∀ pair : Fin 2, d.pairHalted pair.val = true) := by decide +kernel

/-! ## Legs, ports, meters, capture, the analogue front end -/

/-- `dev0` with a leg in RUN. -/
def legDev : Dev := dev0.put Par.legState 39 lsRun

theorem witness_LegPeriods :
    (legDev.full = true ∧ legDev.clkOk cdTb = true ∧ legDev.get Par.legState 39 = lsRun ∧ (legDev.leg 39).wait ≠ .windowEnd
      ∧ legDev.legSet Par.legCarrier 39 < 2 ∧ (legDev.leg 39).running = false)
    ∧ (let d := (legDev.put Par.legCarrier 39 cCot).setLeg 39 { varStart := some 0 }
       d.full = true ∧ d.clkOk cdTb = true ∧ d.get Par.legState 39 = lsRun ∧ (d.leg 39).varStart = some 0
         ∧ isVari (d.legSet Par.legCarrier 39) = true ∧ (d.leg 39).seqEnd ≤ 0 + fineNs (d.get Par.legTVarMax 39))
    ∧ (let d := legDev.put Par.legRefreshMax 39 1
       d.full = true ∧ d.clkOk cdTb = true ∧ d.get Par.legState 39 = lsRun ∧ d.get Par.legRefreshMax 39 ≠ 0)
    ∧ (let d := legDev.setLeg 39 { edges := [{ at' := 5 }] }
       d.full = true ∧ d.clkOk cdTb = true ∧ d.get Par.legState 39 = lsRun ∧ (d.leg 39).edges = { at' := 5 } :: []) := by decide +kernel

theorem witness_LegTrips :
    (legDev.full = true ∧ legDev.clkOk cdTb = true)
    ∧ (legDev.put Par.legRdyUse 39 1).isOn Par.legRdyUse 39 = true ∧ legDev.get Par.legState 39 = lsRun
    ∧ (∀ p < 32, ¬ (legDev.portLegs p).contains 0) := by decide +kernel

/-- `dev0` with port 31 in TRACK, due. -/
def portDev : Dev :=
  ((dev0.put Par.portTopology 31 1).put Par.portState 31 psTrack).setPort 31 { due := some 0 }

theorem witness_PortTimers :
    (let d := portDev.put Par.gridFrtState 0 1
     d.full = true ∧ d.clkOk cdTb = true ∧ d.anyFrt = true ∧ 31 ∈ d.portsUsed ∧ d.isPv 31 = true ∧ (d.port 31).due.isSome = true
       ∧ (d.port 31).opening = false ∧ d.get Par.portState 31 = psTrack)
    ∧ (portDev.full = true ∧ portDev.clkOk cdTb = true ∧ portDev.anyFrt = false ∧ 31 ∈ portDev.portsUsed ∧ portDev.isPv 31 = true
       ∧ (portDev.port 31).due.isSome = true ∧ (portDev.port 31).opening = false ∧ portDev.get Par.portState 31 = psTrack
       ∧ portDev.get Par.portTopology 31 ≠ 0
       ∧ ∀ q < 32, q ≠ 31 → (portDev.port q).due = none ∧ portDev.get Par.portState q ≠ psOpen)
    ∧ (let d := portDev.setPort 31 { opening := true, openN := portDev.openBeats 31, vocOk := true }
       d.full = true ∧ d.clkOk cdTb = true ∧ (d.port 31).opening = true ∧ d.openBeats 31 ≤ (d.port 31).openN)
    ∧ (let d := portDev.setPort 31 { ditherN := some (portDev.ditherBeats 31) }
       d.ditherBeats 31 ≠ 0 ∧ (d.port 31).ditherN = some (d.ditherBeats 31))
    ∧ (let d := portDev.put Par.portBurstState 31 3
       d.full = true ∧ d.clkOk cdTb = true ∧ d.get Par.portBurstState 31 = 3 ∧ (d.port 31).burstLen ≤ (d.port 31).burstEl
       ∧ fle (d.port 31).pBurst f0 = true) := by decide +kernel

theorem witness_Meters :
    dev0.metRuns = true ∧ (dev0.put Par.metrEnable 3 1).isOn Par.metrEnable 3 = true ∧ dev0.met.armed = true := by decide +kernel

/-- A block with nothing in it. -/
def blk : Blk := { seq := 0, ts := 0, opened := 0, tq := 0, interval := 0 }

/-- `dev0` with stream 31 streaming into the capture ring of session 0, and with ring-buffer capture 30 in POST. -/
def capDev : Dev :=
  let d := (((dev0.put Par.capState 31 csStream).put Par.ringSession 63 0).put Par.ringDepth 63 2).put Par.ringState 63 1
  let d := (d.setCap 31 { cur := some blk, closed := [blk] }).put Par.capState 30 csPost
  d.put Par.capPostCount 30 0

theorem witness_CapturesAndTriggers :
    (capDev.capOn = true ∧ capDev.evt.fresh = [] ∧ capDev.get Par.capState 31 = csStream ∧ (capDev.cap 31).cur = some blk)
    ∧ (capDev.get Par.capState 30 = csPost ∧ capDev.get Par.capPostCount 30 ≤ (capDev.cap 30).post.length)
    ∧ (capDev.phase = .run ∧ (capDev.cap 31).closed = blk :: [] ∧ capDev.ringSession (32 + 31) < 16
       ∧ (capDev.sess (capDev.ringSession (32 + 31))).isOpen = true ∧ (capDev.sess (capDev.ringSession (32 + 31))).link = 0
       ∧ capDev.ringFull (32 + 31) = false ∧ capDev.get Par.ringState (32 + 31) ≠ 2)
    ∧ (let d := (dev0.put Par.trigState 15 tsHoldoff).setTrig 15 { openFire := some { ts := 0, cause := 0, stake := 0 } }
       d.full = true ∧ d.clkOk cdTb = true ∧ d.evt.fresh = [] ∧ d.get Par.trigState 15 = tsHoldoff ∧ (d.trig 15).openFire.isSome = true)
    ∧ (let d := (dev0.put Par.trigState 15 tsArmed).put Par.trigAutoMs 15 1
       d.full = true ∧ d.clkOk cdTb = true ∧ d.get Par.trigAutoMs 15 ≠ 0 ∧ (d.trig 15).autoHere = true ∧ d.get Par.trigState 15 = tsArmed) := by
  decide +kernel

theorem witness_Conversions :
    (let d := (dev0.put Par.adcEnable 23 1).setAdc 23 { calRunning := true }
     d.full = true ∧ d.clkOk cdTb = true ∧ d.isOn Par.adcEnable 23 = true ∧ (d.adc 23).calRunning = true)
    ∧ (let d := ((dev0.put Par.sdiEnable 31 1).put Par.sdiStuckRun 31 2).setSdi 31 { hist := [true, true] }
       d.full = true ∧ d.clkOk cdTb = true ∧ d.isOn Par.sdiEnable 31 = true ∧ (d.sdi 31).stuck = false
       ∧ stuckBits (d.get Par.sdiStuckRun 31) (d.sdi 31).hist = true) := by decide +kernel

/-- `dev0` with window 63 on. -/
def winDev : Dev := (((dev0.put Par.winModeRun 63 1).put Par.winTripped 63 0).put Par.winCompEn 63 3).put Par.winCheckPeriod 63 1

theorem witness_Windows :
    (∀ low : Bool, winDev.winMode 63 ≠ 0 ∧ winDev.get (winComp (b2n low)) 63 ≠ wcActive ∧ bit (winDev.get Par.winCompEn 63) (b2n low) = true
      ∧ winDev.isOn Par.winTripped 63 = false)
    ∧ (∀ low : Bool, let d := ((winDev.put (winComp (b2n low)) 63 wcActive).put Par.winTripped 63 1).put (winComp (1 - b2n low)) 63 wcInactive
       d.winMode 63 ≠ 0 ∧ d.get (winComp (b2n low)) 63 = wcActive ∧ d.isOn Par.winTripped 63 = true
       ∧ d.get (winComp (1 - b2n low)) 63 = wcInactive)
    ∧ (winDev.full = true ∧ winDev.clkOk cdTb = true ∧ winDev.get Par.winCheckPeriod 63 ≠ 0 ∧ winDev.judgeReadback 63 = stOk)
    ∧ (let d := winDev.setWin 63 { check := some { which := 1, chan := 0, taken := true } }
       (d.win 63).check = some { which := 1, chan := 0, taken := true }) := by decide +kernel

/-! ## The Rim -/

/-- A configuration record with an emergency stop on input 0 and 7, feedback on input 1, output 3 used with that feedback, output 0 without. -/
def rimRec : List Byte :=
  let z : List Byte := List.replicate 256 0
  (((((z.set 0x08 1).set 0x40 1).set 0x0E 9).set 0x10 3).set 0x48 1).set 0x49 255 |>.set 0x54 1 |>.set 0x55 1 |>.set 0x46 8

/-- `dev0` with a running Rim, its record active. -/
def rimDev : Dev := { dev0 with rim := { running := true, active := rimRec, known := 0xFFFF } }

/-- No output energised: the invariant of the Rim holds. -/
theorem rimDev_latched : rimDev.rimLatchedOff := by unfold Dev.rimLatchedOff; decide +kernel

theorem witness_RimInputTests :
    (rimDev.rim.running = true ∧ bit rimDev.rim.known 15 = true ∧ bit rimDev.rim.under 15 = false ∧ rimDev.rimType (15 / 2) ≠ 0)
    ∧ rimDev.rimLatchedOff
    ∧ (let d := (rimDev.put Par.rimInLevel 0 1).put Par.rimInUndet 0 0
       d.rim.running = true ∧ d.rimType 0 ≠ 0 ∧ d.chAgree 0 = false)
    ∧ (rimDev.rim.active ≠ [] ∧ rimDev.rim.window = none ∧ rimDev.phase ≠ .recovery)
    ∧ (let d : Dev := { rimDev with rim := { rimDev.rim with window := some 3, under := 1, raw := 1, sawLow := 1 } }
       d.rim.window.isSome = true ∧ d.rim.failed = 0) := by
  refine ⟨by decide +kernel, rimDev_latched, by decide +kernel⟩

/-- `rimDev` with output 3 energised. -/
def rimOn : Dev := rimDev.put Par.rimOutEnergised 0 8

theorem witness_RimOutputTests :
    (rimOn.rim.running = true ∧ rimOn.outOn 3 = true)
    ∧ (let d : Dev := { rimOn with rim := { rimOn.rim with offRun := 128 } }
       bit d.rim.offRun (2 * 3 + 1) = true ∧ d.outOn 3 = true)
    ∧ rimOn.rimLatchedOff
    ∧ (rimOn.outUsed 3 = true ∧ recEdm rimOn.rim.active 3 ≠ 255)
    ∧ rimOn.edmReads 3 (!(rimOn.outOn 3)) = false
    ∧ (rimOn.put Par.rimInUndet 0 0).edmReads 3 (!((rimOn.put Par.rimInUndet 0 0).outOn 3)) = true := by
  refine ⟨by decide +kernel, by decide +kernel, ?_, by decide +kernel⟩
  unfold Dev.rimLatchedOff; decide +kernel

theorem witness_RimReset :
    (rimDev.rim.running = true ∧ rimDev.rim.press = none)
    ∧ (let d : Dev := { rimDev with rim := { rimDev.rim with press := some (0, true) } }
       d.rim.press.isSome = true ∧ d.rim.stuck = false ∧ (∀ n, some 51 = some n → 50 < n))
    ∧ (let d : Dev := { rimDev with rim := { rimDev.rim with press := some (0, true) }, now := 100 * fineMs }
       d.rim.running = true ∧ d.rim.press = some (0, true) ∧ 100 * fineMs ≤ d.instant 0 - 0 ∧ d.instant 0 - 0 ≤ 3000 * fineMs)
    ∧ rimDev.rimLatchedOff := by
  refine ⟨by decide +kernel, ?_, by decide +kernel, rimDev_latched⟩
  refine ⟨by decide +kernel, by decide +kernel, ?_⟩
  intro n hn
  cases hn
  decide

/-! ## Spokes -/

/-- A frame with a type, flags, a cell count, a hop, a turning position and slots, sent in beat `seq` − 1 (Table 4.2). -/
def frame (type fl n hop turn seq : Nat) (slots : List Byte) : List Byte :=
  frameOf (leBytes 1 type ++ [1] ++ leBytes 1 fl ++ [0, 0] ++ leBytes 1 n ++ leBytes 1 hop ++ leBytes 1 turn ++ beBytes 4 seq ++ beBytes 2 3125
    ++ List.replicate 8 0 ++ slots)

/-- A slot whose telemetry or identity half is valid for position `p`. -/
def slot (p : Nat) : List Byte :=
  let h := leBytes 1 (8 + p) ++ [0x10, 0x12, 0x34] ++ List.replicate 10 0
  List.replicate 16 0 ++ h ++ beBytes 2 (crc16 h)

/-- `dev0` with ring 5, a single ring from spoke 5 to spoke 63, of one cell, in RUN, whose cell is in the BLOCKED, absent and pending states that
the statements name. -/
def ringDev : Dev :=
  let d := ((((dev0.put Par.spokeRole 5 srSingleA).put Par.spokeFarSpoke 5 63).put Par.spokeRole 63 srSingleB).put Par.spokeFarSpoke 63 5).put Par.spokeCells 5 1
  let d := ((d.put Par.spokeState 5 rsRun).put Par.spokeState 63 rsRun).put Par.cellPresent 40 1
  { d with beatStart := 0 }

theorem test_slot_is_a_half : halfOk (slice (slot 3) 16 16) 3 = true ∧ halfOk (slice (slot 3) 16 16) 2 = false := by decide +kernel

theorem witness_SpokeFrames :
    (let f := parseFrame (frame 1 0 1 0 0xFF (ringDev.beatNo + 1) (slot 0)) true
     ringDev.full = true ∧ ringDev.clkOk cdSpk = true ∧ ringDev.get Par.spokeRole 63 ≠ srUnused ∧ ringDev.get Par.spokeState 63 = rsRun
       ∧ f.ok = true ∧ f.type = 1 ∧ f.n = ringDev.ringCells (ringDev.ringOf 63) ∧ ringDev.onBeat f = true
       ∧ halfOk (slice f.slots 16 16) 0 = true ∧ (ringDev.cell 40).fresh = false)
    ∧ (parseFrame ((frame 1 0 1 0 0xFF 1 (slot 0)).set 30 0xAA) true).crcBad = true
    ∧ (let f := parseFrame (frame 4 0 1 0 0 (ringDev.beatNo + 1) (slot 0)) true
       f.ok = true ∧ f.type = 4 ∧ ringDev.onBeat f = true ∧ ringDev.get Par.spokeState 5 = rsRun)
    ∧ (let d := (ringDev.put Par.spokeState 63 rsDiscover).setSpoke 5 { disc := some {} }
       d.get Par.spokeState 63 = rsDiscover ∧ (d.spoke (d.ringOf 63)).disc = some {}) := by decide +kernel

/-- Ring 5 of `ringDev` in discovery, its beats run. -/
def discDev : Dev := ringDev.setSpoke 5 { disc := some { beats := 24, hopA := some 1 } }

theorem witness_Discoveries :
    (let f := parseFrame (frame 2 0 1 1 0xFF (discDev.beatNo + 1) (slot 0)) true
     discDev.full = true ∧ discDev.clkOk cdSpk = true ∧ discDev.get Par.spokeRole 63 ≠ srUnused
       ∧ (discDev.spoke (discDev.ringOf 63)).disc = some { beats := 24, hopA := some 1 } ∧ f.ok = true ∧ f.type = 2 ∧ discDev.onBeat f = true
       ∧ discDev.controlHalted = false ∧ bit f.flags 2 = false)
    ∧ (let f := parseFrame (frame 3 0 1 1 0 (discDev.beatNo + 1) []) true
       f.ok = true ∧ f.type = 3 ∧ discDev.onBeat f = true)
    ∧ (let d : Dev := { discDev with sup := { unlocked := 0, halted := 1 } }
       d.full = true ∧ d.clkOk cdSpk = true ∧ d.controlHalted = true)
    ∧ (let x : Disc := { beats := 24, hopA := some 1 }
       discDev.ringOf 63 < 64 ∧ discDev.ringCells 5 ≤ 8 ∧ x.retA = none ∧ x.retB = none ∧ x.hopB = none ∧ x.long = false
         ∧ x.span (discDev.ringCells 5) ≤ x.beats)
    ∧ (let d := ringDev.setSpoke 63 { missRun := 2 }
       2 ≤ (d.spoke 63).missRun ∧ (∃ p < 8, d.isOn Par.cellPresent (8 * d.ringOf 63 + p) = true) ∧ d.get Par.spokeState 63 = rsRun)
    ∧ (let d := (ringDev.put Par.spokeState 63 rsSplit).setSpoke 63 { goodRun := 16 }
       16 ≤ (d.spoke 63).goodRun ∧ d.get Par.spokeState 63 = rsSplit)
    ∧ (let d := ringDev.put Par.cellStale 40 4
       d.isOn Par.cellPresent 40 = true ∧ 4 ≤ d.get Par.cellStale 40 ∧ d.get Par.cellLost 40 = 0)
    ∧ (let d := ringDev.setCell 40 { unblk := some 65 }
       (d.cell 40).unblk = some 65 ∧ 64 < 65)
    ∧ (let d := (ringDev.put Par.cellProtState 511 bpPending).setCell 511 { bypN := 8 }
       d.full = true ∧ d.clkOk cdSpk = true ∧ d.get Par.cellProtState 511 = bpPending ∧ 8 ≤ (d.cell 511).bypN ∧ d.get Par.cellLost 511 = 0) := by
  decide +kernel

/-! ## The weave -/

/-- A header of a message from the neighbour at weave port 3, stake 63. -/
def whdr : WHdr := { t := 160, port := 3, src := 63, dest := 0xFE, hop := 8, seq := 1, crcOk := true }

/-- `dev0` as stake 1 of a weave, port 3 UP to stake 63, its partner; the partner holds the token. -/
def weaveDev : Dev :=
  let d : Dev := { dev0 with weave := { stake := some 1 } }
  let d := (d.setWport 3 { state := wpUp, peer := 63, peerPort := 0 }).put Par.weavePartner 0 63
  (d.put Par.weavePairState 0 1).put Par.stakePresent 63 1

theorem weaveDev_hears : weaveDev.hears whdr := by unfold Dev.hears; decide +kernel

theorem witness_WeftLinks :
    (weaveDev.full = true ∧ (weaveDev.wport 0).state = wpDown ∧ (weaveDev.wport 0).waiting = false ∧ weaveDev.clkOk cdWeft = true)
    ∧ (weaveDev.wport 3).state ≠ wpDown
    ∧ (let d := weaveDev.setWport 3 { state := wpUp, peer := 63, missRun := 3 }
       (d.wport 3).state = wpUp ∧ 3 ≤ (d.wport 3).missRun)
    ∧ (whdr.crcOk = true ∧ whdr.dest.toNat = 0xFE ∧ whdr.src.toNat < 64)
    ∧ (dev0.weave.stake = none ∧ dev0.weave.isolated = false ∧ (62 : Byte).toNat < 63) ∧ (dev0.setWport 3 { state := wpUp }).hears whdr
    ∧ (∃ ident : W64, ident ≠ Config.identity)
    ∧ [(Config.identity, (62 : Byte))].find? (fun p => p.1 == Config.identity) = some (Config.identity, 62) := by
  refine ⟨by decide +kernel, by decide +kernel, by decide +kernel, by decide +kernel, by decide +kernel, ?_, ⟨Config.identity + 1, ?_⟩, ?_⟩
  · unfold Dev.hears; decide +kernel
  · intro h
    have := congrArg (· - Config.identity) h
    simp at this
  · simp [List.find?]

theorem witness_WeaveMessages :
    weaveDev.hears whdr ∧ (whdr.src.toNat < 64 ∧ whdr.src.toNat ≠ weaveDev.stakeNo)
    ∧ (let d : Dev := { weaveDev with weave := { weaveDev.weave with subs := [(63, 63)] } }
       (63, 63) ∈ d.weave.subs)
    ∧ (weaveDev.fromHolder whdr = true ∧ (23 : Byte).toNat < 24 ∧ (127 : Byte).toNat < 128)
    ∧ (weaveDev.paired = true ∧ whdr.src.toNat = weaveDev.partnerNo ∧ weaveDev.get Par.armState 23 ≠ asBlocked)
    ∧ (let half := slice (slot 7) 16 16
       halfOk half 7 = true ∧ beAt half 10 2 = weaveDev.beatNo % 65536 ∧ (weaveDev.cell (8 * weaveDev.ringOf 63 + 7)).fresh = false)
    ∧ beAt (slice (slot 7) 16 16) 10 2 ≠ (weaveDev.put Par.beatBeatCount 0 1).beatNo % 65536
    ∧ ((weaveDev.setSpoke 63 { disc := some {} }).spoke 63).disc = some {} := by
  refine ⟨weaveDev_hears, by decide +kernel, by decide +kernel, by decide +kernel, by decide +kernel, by decide +kernel, by decide +kernel, by decide +kernel⟩

theorem witness_WeaveServices :
    weaveDev.hears whdr
    ∧ (let d := (weaveDev.put Par.trigWeave 15 1).put Par.trigState 15 tsArmed
       (15 : Byte).toNat < 16 ∧ d.isOn Par.trigWeave 15 = true ∧ d.get Par.trigState 15 = tsArmed)
    ∧ (weaveDev.pairHalted 1 = false ∧ (∀ k < 80, (weaveDev.sess k).origin ≠ some (63, 5)) ∧ weaveDev.pairFree (16 + 63) = true)
    ∧ (weaveDev.full = true ∧ weaveDev.weave.stake = some 1 ∧ weaveDev.partnerNo < 64 ∧ weaveDev.get Par.weavePairState 0 ≠ paConfig
       ∧ weaveDev.get Par.stakePartner weaveDev.partnerNo ≠ 1)
    ∧ (let d : Dev := { weaveDev with weave := { weaveDev.weave with partnerMiss := 3 } }
       3 ≤ d.weave.partnerMiss ∧ d.get Par.weavePairState 0 ≠ paAbsent) := by
  refine ⟨weaveDev_hears, by decide +kernel, ⟨by decide +kernel, by decide +kernel, by decide +kernel⟩, by decide +kernel, by decide +kernel⟩

/-! ## The beat, table sets, the compute window -/

theorem witness_BeatsFollowGrid :
    (dev0.clkOk cdTb = true ∧ dev0.newGrid = none ∧ dev0.now ≤ dev0.beatStart + dev0.beatLen ∧ dev0.host.msgs = []
      ∧ dev0.beatStart + dev0.beatLen = (1 * 2000 + 0) * 16 ∧ dev0.beatTicks = 2000 ∧ dev0.get Par.beatBeatPhase 0 = 0)
    ∧ (let d : Dev := { dev0 with newGrid := some (6250, 40, 7, 50001), beatLen := 100112 }
       d.beatStart + d.beatLen = (1 * 6250 + 7) * 16 ∧ nextBoundary 6250 7 50001 = (1 * 6250 + 7) * 16) := by decide +kernel

theorem witness_BeatBoundaries :
    (dev0.clkOk cdTb = true ∧ dev0.now ≤ dev0.beatStart + dev0.beatLen ∧ dev0.phase = .run)
    ∧ ({ dev0 with sup := { unlocked := 2 } } : Dev).clkOk cdTb = false
    ∧ (let d := dev0.put Par.pwrMode 0 pmWaking
       d.phase = .run ∧ d.pmode = pmWaking ∧ d.clkOk cdTb = true ∧ d.now ≤ d.beatStart + d.beatLen) := by decide +kernel

/-- `dev0` with a commit of one set in hand, and its shadow. -/
def commitDev (k : Nat) (x : Tab Byte) : Dev :=
  { (dev0.setTset k { state := 1, shadow := x }) with commits := [{ mask := 2 ^ k, session := 0, tag := 1 }] }

theorem witness_TableSetsAndGrid :
    (let d := dev0.setTset 2 { state := 2 }
     d.phase = .run ∧ d.controlHalted = false ∧ (d.tset 2).state = 2)
    ∧ ({ dev0 with sup := { unlocked := 0, halted := 1 } } : Dev).controlHalted = true
    ∧ ((commitDev 1 [(0, 0xFF)]).commits.find? (fun c => !c.validated) = some { mask := 2, session := 0, tag := 1 }
       ∧ ((setsOf 2).findSome? (fun k => minOf ((commitDev 1 [(0, 0xFF)]).setFaults k))).isSome = true)
    ∧ ((commitDev 0 []).commits.find? (fun c => !c.validated) = some { mask := 1, session := 0, tag := 1 }
       ∧ (setsOf 1).findSome? (fun k => minOf ((commitDev 0 []).setFaults k)) = none ∧ bit 1 tsCtx = false)
    ∧ ((8 : W64).toNat % 8 = 0 ∧ ((7 : W64).toNat % 8 ≠ 0 ∧ ∀ k ∈ setsOf 7, (dev0.tset k).state = 0)
       ∧ (∃ k ∈ setsOf 7, ((commitDev 1 [(0, 0xFF)]).tset k).state ≠ 0) ∧ (∃ c ∈ (commitDev 1 [(0, 0xFF)]).commits, ∃ k ∈ setsOf 2, bit c.mask k = true)
       ∧ (∀ c ∈ dev0.commits, ∀ k ∈ setsOf 1, bit c.mask k = false) ∧ (∃ k ∈ setsOf 1, ((dev0.setTset 0 { switched := true }).tset k).switched = true)
       ∧ setsOf 1 ≠ [] ∧ ∀ k ∈ setsOf 1, (dev0.tset k).switched = false)
    ∧ (3125 ≤ 3125 ∧ (dev0.gridWrite 6250 40 7 0).1 = stOk ∧ (dev0.gridWrite 6250 40 6250 0).1 ≠ stOk) := by decide +kernel

/-- `dev0` with arm 23 in RUN, context 127 in RUN at work past its deadline. -/
def runDev : Dev := (((dev0.put Par.armState 23 asRun).put Par.ctxState 127 xsRun).setCtx 127 { late := true })

theorem witness_ComputeWindow :
    (dev0.full = true ∧ dev0.clkOk cdTb = true ∧ dev0.weave.stake.isSome = false ∧ weaveDev.weave.stake.isSome = true ∧ (weaveDev.wport 3).state = wpUp)
    ∧ (let e := (dev0.atTime (dev0.windowTicks * 16)).finalPass.deadlinePass (boundC dev0.windowTicks)
       ∀ p < 32, (e.port p).holdNext = none)
    ∧ (let e := (runDev.atTime (runDev.finalTicks * 16)).deadlinePass (boundD runDev.windowTicks)
       e.get Par.armState 23 = asRun ∧ (e.arm 23).finalBeat ≠ some e.beatNo ∧ ¬(e.get Par.armState 0 = asRun))
    ∧ (runDev.full = true ∧ runDev.clkOk cdLoop = true ∧ (runDev.ctx 127).late = true ∧ (runDev.ctx 127).lateCycle ≤ runDev.ctxDeadline 127
       ∧ runDev.eng.rest = [] ∧ runDev.get Par.ctxState 127 = xsRun)
    ∧ (let d : Dev := { (dev0.put Par.ctxState 5 xsRun) with eng := { rest := [{ order := 0, kind := 0, num := 5 }] } }
       (∀ k < 128, (d.ctx k).late = false) ∧ d.eng.rest = [{ order := 0, kind := 0, num := 5 }] ∧ d.get Par.ctxState 5 = xsRun)
    ∧ ((dev0.ctx 0).late = false ∧ dev0.eng.rest.any (fun it => it.kind == 0 && it.num == 0) = false) := by decide +kernel

/-! ## Events, islanding, update -/

/-- A record of event 1. -/
def rec1 : EvRec := { ev := 1, tq := 3, suppr := false, stake := 255, ts := 0, cnt := 1, obj := 0, detail := 0 }

/-- `dev0` with a record for the log and one for event ring 15 of session 0. -/
def evtDev : Dev :=
  let d := ((dev0.put Par.ringSession 95 0).put Par.ringDepth 95 2).put Par.ringState 95 1
  { d with evt := { d.evt with toLog := [rec1], toRings := [(rec1, 32768)] } }

theorem witness_EventRecords :
    (evtDev.phase = .run ∧ evtDev.pairHalted 1 = false ∧ evtDev.evt.fresh = [] ∧ evtDev.pmode = pmRun ∧ evtDev.evt.toLog = rec1 :: [])
    ∧ (15 < 16 ∧ evtDev.ringSession (80 + 15) < 16 ∧ (evtDev.sess (evtDev.ringSession (80 + 15))).isOpen = true
       ∧ (evtDev.sess (evtDev.ringSession (80 + 15))).link = 0 ∧ evtDev.ringFull (80 + 15) = false ∧ evtDev.get Par.ringState (80 + 15) ≠ 2
       ∧ (evtDev.evt.toRings.filter (fun r => bit r.2 15)) ≠ [] ∧ (evtDev.evt.toRings.filter (fun r => bit r.2 15)).length ≤ 127)
    ∧ (dev0.evt.fresh = [] ∧ dev0.pmode = pmRun) := by decide +kernel

/-- A completed sequence. -/
def seq1 : IslSeq := { rv := [], ri := [], chip := 1, ended := 0, started := 0, len := 0, bad := false }

theorem witness_IslandingComputations :
    (let d := dev0.setIsl 3 { doneSeqs := [seq1], freqs := [f1, f1], thetas := [f0, f0] }
     d.full = true ∧ d.clkOk cdLoop = true ∧ (d.isl 3).doneSeqs = seq1 :: [] ∧ d.pairHalted 1 = false
       ∧ (d.isl 3).freqs[1]? = some f1 ∧ (d.isl 3).thetas[1]? = some f0 ∧ d.phase = .run)
    ∧ (let d := dev0.setIsl 3 { rearm := some 0 }
       (d.isl 3).rearm.isSome = true ∧ (d.isl 3).sv = false) := by decide +kernel

/-- `dev0` with an ownership record. -/
def ownDev (r : OwnRec) : Dev := dev0.ownWrite r

/-- The record of an update that session 0 of the device without a stake number owns. -/
def own0 (state : Nat) : OwnRec := { state := state, link := 0, stake := 255, count := 1 }

theorem ownDev_alternates (k : Nat) (h : k = 0 ∨ k = 1 ∨ k = 2) : (ownDev (own0 k)).recordsAlternate := by
  rcases h with h | h | h <;> (rw [h]; exact alternate_of _ (by decide +kernel))

theorem witness_Updates :
    (let d : Dev := { (ownDev (own0 1)) with lid := { (ownDev (own0 1)).lid with marking := [(0, [1])] } }
     d.pairHalted 1 = false ∧ d.lid.marking.get (fun _ => []) (0 : BitVec 16).toNat ≠ [] ∧ d.ownRec.state = 1 ∧ (0 : BitVec 16).toNat < 1792)
    ∧ (let d : Dev := { dev0 with lid := { dev0.lid with activating := true, slots := [(0, { made := true })] } }
       d.phase = .run ∧ d.pairHalted 1 = false ∧ d.lid.activating = true ∧ d.activateFault = some rfSignature)
    ∧ (let d : Dev := { dev0 with lid := { dev0.lid with activating := true, slots := [(1, { made := true })] } }
       d.phase = .run ∧ d.pairHalted 1 = false ∧ d.lid.activating = true ∧ d.activateFault = none)
    ∧ (ownDev (own0 1)).recordsAlternate
    ∧ ((ownDev (own0 1)).pairHalted 1 = false ∧ (ownDev (own0 1)).ownRec.state = 1 ∧ (ownDev (own0 1)).ownRec.owned = true)
    ∧ (let d : Dev := { (dev0.put Par.updAutoConfirm 0 1) with lid := { dev0.lid with trial := true, openSince := some 0 } }
       d.full = true ∧ d.pairHalted 1 = false ∧ d.isOn Par.updAutoConfirm 0 = true ∧ d.trialOpen = true ∧ d.lid.clkFailed = false
         ∧ d.lid.openSince.isSome = true ∧ d.lid.trial = true)
    ∧ (let d : Dev := { dev0 with lid := { dev0.lid with blowTo := some 3 } }
       d.pairHalted 1 = false ∧ d.lid.blowTo = some 3) := by
  refine ⟨by decide +kernel, by decide +kernel, ⟨rfl, by decide +kernel, rfl, ?_⟩, ownDev_alternates 1 (by decide), by decide +kernel⟩
  decide +kernel

theorem witness_AttestAndStatus :
    (dev0.served hdr 0x60 ∧ dev0.served hdr 0x63 ∧ dev0.served hdr 0x66) ∧ (16 ≤ (List.replicate 48 (0 : Byte)).length ∧ (List.replicate 48 (0 : Byte)).length ≤ 48)
    ∧ 48 < (List.replicate 49 (0 : Byte)).length ∧ dev0.trialOpen = false
    ∧ (let d : Dev := { dev0 with lid := { dev0.lid with trial := true } }
       d.trialOpen = true ∧ d.served hdr 0x66 ∧ d.recordsAlternate) := by
  refine ⟨⟨served0 _, served0 _, served0 _⟩, by decide, by decide, by decide +kernel, by decide +kernel, served_of _ _ _ (by decide +kernel), ?_⟩
  exact alternate_of _ (by decide +kernel)

theorem witness_UpdateOwnership :
    ((ownDev (own0 2)).served hdr 0x64 ∧ (ownDev (own0 2)).served hdr 0x65 ∧ (ownDev (own0 2)).recordsAlternate)
    ∧ ((ownDev (own0 2)).ownRec.state = 2 ∧ (ownDev (own0 2)).ownRec.owned = true ∧ (1 : Byte).toNat < 2
       ∧ (ownDev (own0 2)).ownRec.is ((ownDev (own0 2)).srcOf hdr.session.val) = true)
    ∧ (let d := ownDev { own0 2 with fp := 5 }
       d.served hdr 0x64 ∧ d.served hdr 0x65 ∧ d.ownRec.state = 2 ∧ d.ownRec.owned = true ∧ d.ownRec.is (d.srcOf hdr.session.val) = false) := by
  refine ⟨⟨served_of _ _ _ (by decide +kernel), served_of _ _ _ (by decide +kernel), ownDev_alternates 2 (by decide)⟩, by decide +kernel,
    served_of _ _ _ (by decide +kernel), served_of _ _ _ (by decide +kernel), by decide +kernel⟩

/-- A manifest of one chunk of `len` bytes with a digest in its place. -/
def man1 (len : Nat) (digest : List Byte) : List Byte :=
  List.replicate 16 0 ++ leBytes 4 len ++ leBytes 2 1 ++ List.replicate 0x4EA 0 ++ digest

/-- An update of session 0 under way with a manifest. -/
def chunkDev (m : List Byte) : Dev := { (ownDev (own0 1)) with lid := { (ownDev (own0 1)).lid with manifest := m } }

theorem witness_ManifestsAndChunks :
    (dev0.served hdr 0x61 ∧ ([1] : List Byte) ≠ [] ∧ ([1] : List Byte).length ≤ 4072 ∧ (0 : BitVec 32).toNat + ([1] : List Byte).length ≤ (2 : BitVec 32).toNat
      ∧ ([1] : List Byte).length < (2 : BitVec 32).toNat ∧ ∀ k < 80, dev0.lid.assem.get (fun _ => none) k = none)
    ∧ (([1] : List Byte).length = (1 : BitVec 32).toNat ∧ dev0.ownRec.state = 0) ∧ dev0.recordsAlternate
    ∧ (∀ m ∈ [man1 4096 [], man1 3 (sha384 [1, 2, 3]), man1 3 []], (chunkDev m).served hdr 0x62)
    ∧ (∀ m ∈ [man1 4096 [], man1 3 (sha384 [1, 2, 3]), man1 3 []], let d := chunkDev m
       d.ownRec.state = 1 ∧ d.ownRec.is (d.srcOf hdr.session.val) = true ∧ d.lid.manifest ≠ [] ∧ (0 : BitVec 16).toNat < manC d.lid.manifest
         ∧ bit d.lid.bitmap 0 = false ∧ d.lid.marking.get (fun _ => []) 0 = [] ∧ d.lid.halves.get (fun _ => []) 1 = [])
    ∧ (2048 < manChunkLen (man1 4096 []) 0 ∧ manChunkLen (man1 3 (sha384 [1, 2, 3])) 0 = 3
       ∧ sha384 [1, 2, 3] = slice (man1 3 (sha384 [1, 2, 3])) 0x500 48 ∧ ¬(sha384 [1, 2, 3] = slice (man1 3 []) 0x500 48))
    ∧ dev0.served hdr 0x62 := by
  refine ⟨⟨served0 _, by decide, by decide, by decide, by decide, by decide +kernel⟩, by decide +kernel, alternate_of _ (by decide +kernel), ?_,
    by decide +kernel, by decide +kernel, served0 _⟩
  intro m hm
  simp only [List.mem_cons, List.not_mem_nil, or_false] at hm
  rcases hm with rfl | rfl | rfl <;> exact served_of _ _ _ (by decide +kernel)

theorem witness_KeyCommands : dev0.served hdr 0x67 ∧ dev0.served hdr 0x68 := ⟨served0 _, served0 _⟩

/-! ## The host interface -/

theorem soleClaims0 : dev0.soleClaims 0 := by intro c hc; exact absurd hc List.not_mem_nil

theorem witness_WritesRegistered :
    dev0.served hdr 0x20 ∧ dev0.served hdr 0x21 ∧ dev0.soleClaims hdr.session.val
    ∧ hostWrite (.legClear hdr 39 1) = some (hdr, Par.legClear, 39, 1)
    ∧ (List.replicate 255 ({ obj := 0, idx := 0, val := 0 } : WEntry)).length ≤ 255
    ∧ (let d := (dev0.put Par.trigKind 15 1).put Par.trigState 15 tsWait
       d.served hdr 0x20 ∧ d.soleClaims hdr.session.val ∧ d.evt.fresh = [] ∧ d.judgeStatic (oid 0x61 15) Par.trigFire.idx 1 = stOk
         ∧ d.get Par.trigState 15 = tsWait) := by
  refine ⟨served0 _, served0 _, soleClaims0, rfl, by rw [List.length_replicate], served_of _ _ _ (by decide +kernel), ?_, by decide +kernel⟩
  intro c hc; exact absurd hc List.not_mem_nil

/-- A message of one write: dt_rise of leg 39 is 5, and one beyond its range. -/
def msg1 (v : W64) : Msg :=
  { session := 0, tag := 1, op := 0x20, ts := 0, status := 0, work := [{ obj := oid 0x31 39, idx := Par.legRefreshMax.idx, val := v, status := 0 }] }

theorem witness_BoundaryTakesWrites :
    (let w : RegWrite := { obj := oid 0x31 39, idx := Par.legRefreshMax.idx, val := 5, status := 0 }
     (msg1 5).op = 0x20 ∧ (msg1 5).status = stOk ∧ (msg1 5).bulk = none ∧ (msg1 5).work = [w] ∧ w.status = stOk ∧ w.isGrid = false
       ∧ w.isBurst = false ∧ w.held = false)
    ∧ dev0.judgeStatic (oid 0x31 39) Par.legRefreshMax.idx 5 = stOk
    ∧ dev0.judgeStatic (oid 0x31 40) Par.legRefreshMax.idx 5 ≠ stOk := by decide +kernel

/-- A stored response. -/
def stored1 : Stored := { op := 0x10, tag := 7, ts := 0, resp := [[0]] }

theorem witness_RepeatedRequests :
    (let d := dev0.setSess 0 { isOpen := true, auth := true, stored := [stored1] }
     hostRequest (.read hdr []) = some (hdr, .read []) ∧ d.phase = .run ∧ d.pairHalted 1 = false ∧ d.linkIsUp 0 = true ∧ hdr.sealed = none
       ∧ d.isOn Par.linkSealRequired 0 = false ∧ (d.sess 0).isOpen = true ∧ (d.sess 0).link = 0 ∧ d.get Par.ringState 0 ≠ 2
       ∧ d.get Par.ringState 16 ≠ 2 ∧ d.slotBad 0 = false ∧ (d.ring 16).waiting = [] ∧ d.get Par.ringDepth 16 < 2 ^ 32 ∧ stored1.resp ≠ []
       ∧ d.ringUsed 16 + stored1.resp.length ≤ d.get Par.ringDepth 16
       ∧ ((d.sess 0).stored.filter (fun y => y.op == (HostMsg.read []).opcode && y.tag == hdr.tag.toNat
           && decide (d.instant hdr.t ≤ y.ts + 10 * fineS))).getLast? = some stored1)
    ∧ (∀ y ∈ [stored1], y.op = 0x10 → y.tag = 7 → y.ts ≠ 1) := by decide +kernel

/-- A header of session 5. -/
def hdr5 : Hdr := { hdr with session := 5 }

/-- `dev0` with a handshake of session 5 on PCIe that waits for FINISH. -/
def helloDev : Dev := ((dev0.setSess 5 { helloAt := some 0, hello := [1] }).pairRings 5 0 1).put Par.ringDepth 21 1

theorem witness_SessionsAndHandshakes :
    (dev0.phase = .run ∧ dev0.pairHalted 1 = false ∧ dev0.linkIsUp 0 = true ∧ hdr5.sealed = none ∧ dev0.isOn Par.linkSealRequired 0 = false
      ∧ dev0.sess 5 = {} ∧ dev0.get Par.ringState 5 ≠ 2 ∧ dev0.slotBad 5 = false ∧ (dev0.put Par.ringDepth 21 1).ringFull 21 = false ∧ (dev0.ring 21).waiting = [])
    ∧ dev0.served hdr 0x02 ∧ dev0.served hdr 0x03 ∧ (dev0.pmode = pmRun ∧ (dev0.sess 0).isOpen = true)
    ∧ ((helloDev.sess 5).helloAt.isSome = true ∧ (helloDev.sess 5).isOpen = false)
    ∧ (let x : List Byte := List.replicate 131 0
       131 ≤ x.length ∧ (x.drop 131).length = leAt x 129 2 ∧ (∀ l : Fin 7, l.val < 3 → dev0.linkIsUp l.val = true) ∧ dev0.freePair = some 1)
    ∧ ((helloDev.sess 5).link = 0 ∧ (helloDev.sess 5).origin = none ∧ (helloDev.sess 5).stored = [] ∧ helloDev.host.msgs = [] ∧ helloDev.slotBad 5 = false
       ∧ helloDev.get Par.ringState 5 ≠ 2 ∧ helloDev.get Par.ringState 21 ≠ 2 ∧ helloDev.ringFull 21 = false ∧ (helloDev.ring 21).waiting = []
       ∧ (List.replicate 96 (0 : Byte)).length = 96) := by
  refine ⟨by decide +kernel, served0 _, served0 _, by decide +kernel⟩

theorem witness_Reads :
    dev0.served hdr 0x10 ∧ dev0.served hdr 0x11 ∧ ((0x31000027 : BitVec 32).toNat / 16777216 ≠ 0x90 ∧ (0x31000027 : BitVec 32).toNat / 16777216 ≠ 0x91)
    ∧ (0x31 < 256 ∧ 40 < 16777216 ∧ instances 0x31 ≤ 40) := ⟨served0 _, served0 _, by decide, by decide⟩

/-- `dev0` with LEG.39 claimed by a session. -/
def claimDev (s : Nat) : Dev := { dev0 with host := { dev0.host with claims := [{ obj := oid 0x31 39, session := s, ending := false }] } }

theorem witness_ClaimsAndRequests :
    dev0.served hdr 0x22 ∧ dev0.soleClaims hdr.session.val ∧ (claimObjs (0x31FFFFFF : BitVec 32).toNat ≠ []
      ∧ dev0.host.claims.length + (claimObjs (0x31FFFFFF : BitVec 32).toNat).length ≤ 4096)
    ∧ (claimDev 1).served hdr 0x22 ∧ (claimDev 0).served hdr 0x23
    ∧ (∀ s < 2, { obj := oid 0x31 39, session := s, ending := false } ∈ (claimDev s).host.claims) ∧ oid 0x31 39 ∈ claimObjs (0x31000027 : BitVec 32).toNat
    ∧ dev0.served hdr 0x30 := by
  refine ⟨served0 _, soleClaims0, by decide +kernel, served_of _ _ _ (by decide +kernel), served_of _ _ _ (by decide +kernel), by decide +kernel,
    by decide +kernel, served0 _⟩

/-- An activation of session 0, tag 9. -/
def op9 : Oper := { session := 0, tag := 9, op := 0x65, kind := .activate, obj := oUpd, idx := 0 }

theorem witness_StopsAndAborts :
    dev0.served hdr 0x40 ∧ dev0.served hdr 0x41 ∧ (dev0.phase = .run ∧ dev0.linkIsUp 0 = true)
    ∧ (let d : Dev := { dev0 with host := { dev0.host with ops := [op9] } }
       d.served hdr 0x50 ∧ d.host.ops.find? (fun x => x.session == hdr.session.val && x.tag == (9 : BitVec 32).toNat && !x.gone) = some op9
         ∧ op9.kind = .activate)
    ∧ (dev0.served hdr 0x50 ∧ dev0.host.msgs = [] ∧ dev0.host.ops.find? (fun x => x.session == hdr.session.val && x.tag == (9 : BitVec 32).toNat && !x.gone) = none) := by
  refine ⟨served0 _, served0 _, by decide +kernel, ⟨served_of _ _ _ (by decide +kernel), by decide +kernel, rfl⟩, served0 _, by decide +kernel⟩

theorem witness_RingsAndLinks :
    (16 < 96 ∧ dev0.get Par.ringHostAddr 16 = 0 ∧ dev0.get Par.ringDepth 16 ≠ 0 ∧ ((List.range 96).map (fun k => dev0.get Par.ringDepth k)).sum ≤ 384)
    ∧ (hostRing 64 = true ∧ dev0.get Par.ringState 64 ≠ 2 ∧ hostRing 16 = false ∧ dev0.get Par.ringState 16 ≠ 2 ∧ (dev0.ring 16).waiting = []
       ∧ dev0.ringUsed 16 < 5 ∧ dev0.get Par.ringDepth 64 < 2 ^ 31 - 1)
    ∧ (let d := dev0.setRing 95 { unsignalled := some 0 }
       d.phase = .run ∧ (d.ring 95).unsignalled.isSome = true ∧ d.get Par.ringVector 95 < 32)
    ∧ (dev0.pairHalted 1 = false ∧ (dev0.sess 0).isOpen = true ∧ (dev0.sess 0).link = 0 ∧ dev0.ringFull 16 = false ∧ (dev0.sess 15).isOpen = false)
    ∧ (dev0.redundant = false ∧ dev0.pmode ≠ pmParked ∧ dev0.clkOk cdNet = true)
    ∧ dev0.served hdr 0x70 ∧ (dev0.get Par.ringState 71 ≠ 2 ∧ dev0.slotBad 71 = false ∧ (dev0.routeTo 9).isNone = true)
    ∧ (let d : Dev := { (dev0.put Par.stakePresent 9 1) with weave := { stake := some 1, routes := [(9, some (0, 1))] } }
       d.served hdr 0x70 ∧ (d.routeTo (9 : Byte).toNat).isSome = true ∧ d.isOn Par.stakePresent (9 : Byte).toNat = true ∧ d.weave.stake.isSome = true) := by
  refine ⟨by decide +kernel, by decide +kernel, by decide +kernel, by decide +kernel, by decide +kernel, served0 _, by decide +kernel,
    served_of _ _ _ (by decide +kernel), by decide +kernel⟩

theorem witness_EthernetServices :
    (let d := dev0.put Par.linkIpv4 1 9
     d.phase = .run ∧ (∀ port < 2, d.linkIsUp (1 + port) = true) ∧ d.get Par.linkIpv4 (d.addrLink 0) ≠ 0
       ∧ (9 : BitVec 128).toNat = d.get Par.linkIpv4 (d.addrLink 0) ∧ (8 : BitVec 128).toNat ≠ d.get Par.linkIpv4 (d.addrLink 0))
    ∧ (let d := dev0.put Par.linkRedMode 1 2
       d.get Par.linkRedMode 1 = 2 ∧ d.linkIsUp 1 = true ∧ d.linkIsUp 2 = true ∧ d.redundant = true ∧ d.host.dups = [])
    ∧ (∃ src : BitVec 48, src.toNat ≠ (dev0.put Par.linkRedMode 1 2).get Par.linkMac 1)
    ∧ (∀ src : BitVec 48, ∃ x ∈ [((src.toNat * 65536 + 1, 0) : Nat × Nat)],
       x.1 = src.toNat * 65536 + (1 : BitVec 16).toNat ∧ dev0.instant 0 < x.2 + 400 * fineMs)
    ∧ (let d : Dev := { dev0 with host := { dev0.host with sv := [(7, { mac := 9, appid := 0x4000, id := 3 })] } }
       d.linkIsUp 2 = true ∧ (d.sv 7).mac = (9 : BitVec 48).toNat ∧ (9 : BitVec 48).toNat ≠ 0 ∧ (d.sv 7).appid = (0x4000 : BitVec 16).toNat
         ∧ (d.sv 7).id = (3 : BitVec 32).toNat ∧ ∀ j < 8, j ≠ 7 → (d.sv j).mac ≠ (9 : BitVec 48).toNat) := by
  refine ⟨by decide +kernel, by decide +kernel, ?_, ?_, by decide +kernel⟩
  · by_cases h : (5 : BitVec 48).toNat = (dev0.put Par.linkRedMode 1 2).get Par.linkMac 1
    · exact ⟨6, fun g => absurd (h.trans g.symm) (by decide)⟩
    · exact ⟨5, h⟩
  · intro src
    exact ⟨_, List.mem_singleton.mpr rfl, rfl, show dev0.instant 0 < 0 + 400 * fineMs by decide +kernel⟩

/-! ## What single writes do -/

/-- A device in a state of the mode table of a kind, with all its flags. -/
def modeDev (k : Nat) : Dev :=
  { dev0.setTset tsMode { active := [(0x40, BitVec.ofNat 8 k), (0x41, 0xFF)] } with mode := { state := some 0 } }

theorem witness_ResetRequests :
    (let w : RegWrite := { obj := oPwr, idx := Par.pwrResetReq.idx, val := 1, status := 0 }
     let m : Msg := { session := 0, tag := 1, op := 0x20, ts := 0, status := 0, work := [w] }
     let d : Dev := { dev0 with host := { dev0.host with msgs := [m] } }
     d.phase = .run ∧ d.clkOk cdTb = true ∧ d.host.msgs = [m] ∧ m.op = 0x20 ∧ m.status = stOk ∧ m.bulk = none ∧ m.work = [w] ∧ w.status = stOk
       ∧ w.obj = oPwr ∧ w.idx = Par.pwrResetReq.idx ∧ w.val = 1 ∧ d.pwr.resetReq = false ∧ d.lid.resetWanted = false)
    ∧ dev0.stoppedKind = true ∧ (dev0.put Par.devConvMode 0 kFollow).stoppedKind = false := by decide +kernel

theorem witness_ServiceWrites :
    dev0.up = true ∧ (dev0.put Par.pwrMode 0 pmParked).pmode = pmParked ∧ dev0.kind ≠ kParked
    ∧ (let d := (dev0.put Par.devConvMode 0 kParked).put Par.pwrMode 0 pmWaking
       d.up = true ∧ d.kind = kParked ∧ d.pmode = pmWaking)
    ∧ ((dev0.put Par.devConvMode 0 kParked).kind = kParked ∧ dev0.pmode = pmRun ∧ dev0.pwr.darkReq = false)
    ∧ dev0.evtUp = true ∧ (223 < 224 ∧ 224 ≤ (224 : Fin 240).val)
    ∧ (dev0.get Par.evtLastTime 255 < 1 ∧ 0 ≤ dev0.get Par.evtLastTime 255)
    ∧ (rowOf ⟨oPwr / 16777216, Par.pwrMode.idx⟩).map PRow.acc = some .ro := by decide +kernel

theorem witness_LegAndPortWrites :
    (let d := dev0.put Par.legState 39 lsTripped
     (d.put Par.legTripTime 39 0).judgeLegClear 39 ≠ stOk
       ∧ (d.put Par.legTripTime 39 1600).judgeLegClear 39 = stOk ∧ d.get Par.legState 39 = lsTripped ∧ d.legsRun = false)
    ∧ (let d := (dev0.put Par.portTopology 31 1).put Par.portState 31 psLocked
       d.get Par.portState 31 = psLocked ∧ d.portInputs 31 = false ∧ d.legsRun = false)
    ∧ (dev0.isPv 31 = true ∧ (dev0.put Par.portKind 31 1).isPv 31 = false ∧ dev0.get Par.portBurstState 31 = 0)
    ∧ (let d := ((dev0.put Par.portKind 31 1).put Par.portBurstState 31 2).put Par.portTopology 31 1
       d.isPv 31 = false ∧ d.get Par.portBurstState 31 ≠ 0 ∧ (d.port 31).burstEnds = .completed ∧ fle (d.port 31).reqPrev 0x3F000000 = true
         ∧ d.get Par.portTopology 31 ≠ 0 ∧ d.full = true)
    ∧ (portDev.get Par.portTopology 31 ≠ 0 ∧ portDev.isPv 31 = true ∧ portDev.get Par.portState 31 = psTrack ∧ (portDev.port 31).opening = false
       ∧ ((portDev.setPort 31 {}).port 31).due = none) := by decide +kernel

theorem witness_CellAndArmWrites :
    (dev0.judgeDiscover 63 ≠ stOk
      ∧ (let d := ((dev0.put Par.spokeRole 5 srSingleA).put Par.spokeFarSpoke 5 63).put Par.spokeCells 5 1
         d.judgeDiscover 5 = stOk ∧ (d.spoke 5).disc = none ∧ d.ringConfigBad 5 = true)
      ∧ ringDev.judgeDiscover 5 = stOk ∧ (ringDev.spoke 5).disc = none ∧ ringDev.ringConfigBad 5 = false ∧ dev0.cellsRun = false)
    ∧ (dev0.get Par.cellProtState 511 = bpNone ∧ (dev0.put Par.cellProtState 511 bpBypassed).get Par.cellProtState 511 ≠ bpNone
       ∧ (let d := (dev0.setCell 511 { heard := true }).put Par.cellStatus 511 0
          d.cellBlocked 511 = false) ∧ dev0.cellBlocked 511 = true ∧ dev0.inRunArm 511 = false)
    ∧ (dev0.get Par.ctxState 127 ≠ xsFallback ∧ (dev0.put Par.ctxState 127 xsFallback).get Par.ctxState 127 = xsFallback) := by decide +kernel

theorem witness_CaptureAndAnalogWrites :
    (dev0.judgeStart 31 ≠ stOk
      ∧ (let d := (dev0.put Par.capSrc 31 0x40000000).put Par.capBufKib 31 16
         d.judgeStart 31 = stOk ∧ d.get Par.capMode 31 = 0 ∧ d.get Par.capState 31 = csIdle)
      ∧ (let d := (dev0.put Par.capMode 31 1).put Par.capState 31 csDeliver
         d.get Par.capMode 31 ≠ 0 ∧ d.get Par.capState 31 = csDeliver)
      ∧ (let d := (dev0.put Par.capMode 31 1).put Par.capState 31 csArmed
         d.get Par.capMode 31 ≠ 0 ∧ d.get Par.capState 31 ≠ csIdle ∧ d.get Par.capState 31 ≠ csDeliver))
    ∧ (dev0.isOn Par.trigWeave 15 = false ∧ dev0.get Par.trigState 15 = tsOff ∧ (dev0.put Par.trigState 15 tsWait).get Par.trigState 15 ≠ tsOff
       ∧ (weaveDev.put Par.trigWeave 15 1).isOn Par.trigWeave 15 = true ∧ weaveDev.weave.stake.isSome = true)
    ∧ ((2 : W64) ≠ 0 ∧ dev0.judgeReadback 63 = stOk ∧ (dev0.setWin 63 { check := some { which := 1, chan := 0 } }).judgeReadback 63 ≠ stOk)
    ∧ (dev0.isOn Par.winTripped 63 = true ∧ winDev.isOn Par.winTripped 63 = false ∧ winDev.get Par.winTripTime 63 < 1)
    ∧ (dev0.judgeTokenGive ≠ stOk ∧ (weaveDev.put Par.weaveToken 0 1).judgeTokenGive = stOk) := by decide +kernel

/-! ## Values that the spec prints -/

/-- Ch. 0, the identifier of CELL.41.6. -/
theorem test_oid_of_cell : oid 0x11 (41 * 8 + 6) = 0x1100014E := by decide +kernel

/-- R87: the check values of the two CRCs over "123456789". -/
theorem test_crc_check_values :
    crc32 ((List.range 9).map (fun i => BitVec.ofNat 8 (0x31 + i))) = 0xCBF43926
    ∧ crc16 ((List.range 9).map (fun i => BitVec.ofNat 8 (0x31 + i))) = 0x29B1 := by decide +kernel

/-- FIPS 180-4, the digest of "abc". -/
theorem test_sha384_abc : ((sha384 [0x61, 0x62, 0x63]).take 8).map (·.toNat) = [0xCB, 0x00, 0x75, 0x3F, 0x45, 0xA3, 0x5E, 0x8B] := by decide +kernel

/-- IEEE 802.3 clause 36: K28.5 and D16.2 at either running disparity. -/
theorem test_line_code :
    codeGroup true 0xBC false = (0b0011111010, true) ∧ codeGroup true 0xBC true = (0b1100000101, false)
    ∧ codeGroup false 0x50 true = (0b1001000101, false) := by decide +kernel

/-- Ch. 2, the ring check: 8 cells at 40 % and 42 % of 2,000 ticks, 42 % of 2,200 ticks, 7 cells at 46 % and 47 %. -/
theorem test_ring_check :
    ringFits 2000 40 8 = true ∧ ringFits 2000 42 8 = false ∧ ringFits 2200 42 8 = true ∧ ringFits 2000 46 7 = true ∧ ringFits 2000 47 7 = false := by
  decide +kernel

/-- The store of the worked example of ch. 3: CURVE.7, its header at entry 256. -/
def curveDev : Dev :=
  let put := fun (d : Dev) (a : Nat) (v : Nat) => d.shadowWrite tsCurve a (leBytes 8 v)
  let d := put (put (put (put (put dev0 8 0x0100000000000000) (8 * 256) 3) (8 * 257) 0x3F4CCCCDC1A00000) (8 * 258) 0x3F47AE1441C80000)
    (8 * 259) 0x3F400000428C0000
  d.setTset tsCurve { d.tset tsCurve with active := (d.tset tsCurve).shadow }

/-- Ch. 3: at 25 °C 0.78, at 85 °C the clamp 0.75, at 40 °C 0.77. -/
theorem test_curve :
    (curveDev.curveEval 7 0x41C80000).1 = 0x3F47AE14 ∧ (curveDev.curveEval 7 0x42AA0000).1 = 0x3F400000
    ∧ (curveDev.curveEval 7 0x42200000).1 = 0x3F451EB8 := by decide +kernel

/-- Ch. 4: a round trip of 950 ns with a turnaround of 60 ns gives 445 ns; the cell's reference and its command half follow. -/
theorem test_command_half :
    rangedDelay [(6, 6080), (6, 6080), (6, 6080), (6, 6080)] 6 384 = some 2848
    ∧ (dev0.put Par.cellDelayA 334 2848).tRef 41 334 = 0x3FE0
    ∧ ((Half.bytes { code := 1, a := 2, b := 1, e1 := 9600 } 6 0x3FE0).take 14).map (·.toNat)
        = [6, 1, 0, 0x12, 0, 0x25, 0x80, 0, 0, 0, 0, 0x3F, 0xE0, 0] := by decide +kernel

/-- ARM.0 of the worked example of ch. 5 with predicted voltages for the ring of spoke 5. -/
def armDev (vs : List Nat) : Dev :=
  (List.range 8).foldl (fun d p => d.setCell (40 + p) { d.cell (40 + p) with vhat := frat (vs.getD p 0) 1000 }) dev0

/-- Ch. 5, beat 1: N = 4, position 2 fractional, f = 0.5, trailing, edge1 = 16,000. -/
theorem test_arm_beat_1 :
    let d := armDev [1650000, 1648500, 1651500, 1649000, 1652000, 1647500, 1650500, 1649500]
    let p := d.planArm 0 false ([47, 41, 45, 40, 42, 44, 46].map (fun c => (c, f0))) (drat 742125 100)
    (p.whole, p.frac, p.a, p.b, p.edge) = ([47, 41, 45, 40], some 42, 2, 1, 16000)
    ∧ dadd p.w (dmul p.share p.vf) = drat 742125 100 := by decide +kernel

/-- Ch. 5, beat 3: rotation makes position 3 the fractional cell, placed leading with edge1 = 24,000. -/
theorem test_arm_beat_3 :
    let d := armDev [1650250, 1649000, 1651875, 1649250, 1652000, 1647750, 1650500, 1650000]
    let d := d.setArm 0 { d.arm 0 with prevFrac := some 45 }
    let d := d.setCell 43 { d.cell 43 with stCur := 1 }
    let p := d.planArm 0 false ([41, 43, 45, 47, 42, 40, 46, 44].map (fun c => (c, f0))) (drat 45336875 10000)
    (p.whole, p.frac, p.a, p.b, p.edge) = ([41, 45], some 43, 1, 2, 24000) := by decide +kernel

/-- Ch. 11, LEG.7: 1,920 and 3,840 are dropped and carried, 5,760 is emitted and the carry is 0. -/
theorem test_leg_carry :
    carryRule (dint 1920) d0 320000 3200 3200 1600 = (0, dint 1920, false, true)
    ∧ carryRule (dint 1920) (dint 1920) 320000 3200 3200 1600 = (0, dint 3840, false, true)
    ∧ carryRule (dint 1920) (dint 3840) 320000 3200 3200 1600 = (5760, d0, false, false) := by decide +kernel

end Sys2Proof.Tests
end

section
/-! SUPPORT and PROOF. The beat at its boundary (R35): what of the device says where a beat lies, which operations leave that alone, what the two that
set it do with it, and BEAT_BOUNDARY from them. -/

namespace Sys2Proof.Machine

/-! ## What says where the beat lies -/

/-- The beat, the grid in force and an accepted new grid are the same in both devices. -/
structure Dev.SameBeat (d e : Dev) : Prop where
  start : e.beatStart = d.beatStart
  len : e.beatLen = d.beatLen
  number : e.beatNo = d.beatNo
  ticks : e.beatTicks = d.beatTicks
  phase : e.get Par.beatBeatPhase 0 = d.get Par.beatBeatPhase 0
  newGrid : e.newGrid = d.newGrid

theorem Dev.SameBeat.refl (d : Dev) : d.SameBeat d := ⟨rfl, rfl, rfl, rfl, rfl, rfl⟩

theorem Dev.SameBeat.trans {a b c : Dev} (h : a.SameBeat b) (g : b.SameBeat c) : a.SameBeat c where
  start := g.start.trans h.start
  len := g.len.trans h.len
  number := g.number.trans h.number
  ticks := g.ticks.trans h.ticks
  phase := g.phase.trans h.phase
  newGrid := g.newGrid.trans h.newGrid

theorem Dev.SameBeat.ite {a x y : Dev} {c : Prop} [Decidable c] (h : a.SameBeat x) (g : a.SameBeat y) : a.SameBeat (if c then x else y) := by
  split
  · exact h
  · exact g

theorem Dev.SameBeat.foldl {α : Type} {f : Dev → α → Dev} (hf : ∀ (d : Dev) x, d.SameBeat (f d x)) (xs : List α) (d : Dev) : d.SameBeat (xs.foldl f d) :=
  List.foldlRecOn xs f (motive := d.SameBeat) (.refl d) (fun e h x _ => h.trans (hf e x))

theorem Dev.SameBeat.forN {f : Dev → Nat → Dev} (hf : ∀ (d : Dev) n, d.SameBeat (f d n)) (n : Nat) (d : Dev) : d.SameBeat (d.forN n f) :=
  .foldl hf (List.range n) d

theorem Dev.SameBeat.forL {α : Type} {f : Dev → α → Dev} (hf : ∀ (d : Dev) x, d.SameBeat (f d x)) (xs : List α) (d : Dev) : d.SameBeat (d.forL xs f) :=
  .foldl hf xs d

/-! ## Operations that leave the beat alone -/

/-- A frame that names neither group of BEAT.0 and no part that says where the beat lies. -/
def leavesBeat (cs : List Nat) (fs : List Fld) : Bool :=
  !cs.contains 2 && !cs.contains 0x200 && !fs.contains .beatStart && !fs.contains .beatLen && !fs.contains .newGrid

theorem Dev.Agree.sameBeat {cs : List Nat} {fs : List Fld} {d e : Dev} (h : d.Agree cs fs e) (hl : leavesBeat cs fs = true) : d.SameBeat e := by
  simp only [leavesBeat, Bool.and_eq_true, Bool.not_eq_true'] at hl
  obtain ⟨⟨⟨⟨hgrid, hcount⟩, hstart⟩, hlen⟩, hnew⟩ := hl
  exact ⟨h.2 .beatStart hstart, h.2 .beatLen hlen, h.get Par.beatBeatCount 0 (by decide) hcount, h.get Par.beatBeatTicks 0 (by decide) hgrid,
    h.get Par.beatBeatPhase 0 (by decide) hgrid, h.2 .newGrid hnew⟩

/-- Storing a parameter other than beat_ticks, beat_phase and beat_count of BEAT.0. -/
theorem Dev.setRaw_sameBeat (d : Dev) {p : Par} {i : Nat} (v : W64) (hp : p.small = true)
    (hn : ∀ q ∈ [Par.beatBeatTicks, Par.beatBeatPhase, Par.beatBeatCount], p = q → i ≠ 0) : d.SameBeat (d.setRaw p i v) := by
  have keep : ∀ q ∈ [Par.beatBeatTicks, Par.beatBeatPhase, Par.beatBeatCount], (d.setRaw p i v).get q 0 = d.get q 0 := by
    intro q hq
    have hqs : q.small = true := by
      revert q
      decide
    have hk : parKey q 0 ≠ parKey p i := fun hk =>
      have ⟨hpq, hi⟩ := parKey_inj hp hqs hk.symm
      hn q hq hpq hi
    simp only [Dev.get, Dev.raw, Dev.setRaw, Tab.get_set_other _ _ _ _ _ hk]
  exact ⟨rfl, rfl, keep _ (by decide), keep _ (by decide), keep _ (by decide), rfl⟩

theorem Dev.put_sameBeat (d : Dev) {p : Par} (i v : Nat) (hp : p.small = true)
    (hn : [Par.beatBeatTicks, Par.beatBeatPhase, Par.beatBeatCount].contains p = false) : d.SameBeat (d.put p i v) :=
  d.setRaw_sameBeat _ hp (fun q hq e => by
    subst e
    simp [List.contains_eq_mem, hq] at hn)

theorem Dev.host_sameBeat (d : Dev) (h : HostSt) : d.SameBeat { d with host := h } := ⟨rfl, rfl, rfl, rfl, rfl, rfl⟩

theorem Dev.raise_sameBeat (d : Dev) (n obj detail : Nat) : d.SameBeat (d.raise n obj detail) :=
  (Dev.raise_frame d n obj detail false).sameBeat (by decide)

theorem Dev.timeLost_sameBeat (d : Dev) : d.SameBeat d.timeLost := by
  unfold Dev.timeLost
  extract_lets own sup e
  have he : d.SameBeat e := ⟨rfl, rfl, rfl, rfl, rfl, rfl⟩
  exact .ite (he.trans ((e.put_sameBeat _ _ (by decide) (by decide)).trans (Dev.raise_sameBeat _ _ _ _))) he

/-- The time service writes other parameters of BEAT.0. -/
theorem Dev.timeBoundary_sameBeat (d : Dev) : d.SameBeat d.timeBoundary := by
  unfold Dev.timeBoundary
  extract_lets roots root parent rank changed moved ranked raised st parentState timed errs
  have hranked : d.SameBeat ranked := ((d.put_sameBeat _ _ (by decide) (by decide)).trans
    (Dev.put_sameBeat _ _ _ (by decide) (by decide))).trans (Dev.put_sameBeat _ _ _ (by decide) (by decide))
  have hraised : d.SameBeat raised := .ite (hranked.trans (Dev.raise_sameBeat _ _ _ _)) hranked
  have hput : ∀ v, d.SameBeat (raised.put Par.beatTimeState 0 v) := fun v => hraised.trans (Dev.put_sameBeat _ _ _ (by decide) (by decide))
  have htimed : d.SameBeat timed :=
    .ite (.ite (hput _) hraised) (.ite (.ite (hput _) hraised) (hraised.trans raised.timeLost_sameBeat))
  exact htimed.trans (Dev.put_sameBeat _ _ _ (by decide) (by decide))

/-- The boundary in power modes RUN and PARKING: the time service is the only part of it that writes BEAT.0. -/
theorem Dev.beatFull_sameBeat (d : Dev) (x : Samples) (switched : Bool) : d.SameBeat (d.beatFull x switched) := by
  unfold Dev.beatFull
  extract_lets timed armed isld moded recorded watched sent chopped synced
  have htimed : d.SameBeat timed := (((d.weaveBoundary_frame.sameBeat (by decide)).trans ((Dev.codesFollow_frame _).sameBeat (by decide))).trans
    (Dev.timeBoundary_sameBeat _)).trans ((Dev.mismatchBoundary_frame _).sameBeat (by decide))
  have harmed : timed.SameBeat armed := timed.armsBeat_frame.sameBeat (by decide)
  have hisld : armed.SameBeat isld := .forN (fun e g => (e.isldBoundary_frame g).sameBeat (by decide)) _ _
  have hmoded : isld.SameBeat moded := (((isld.modeBoundary_frame switched).sameBeat (by decide)).trans
    ((Dev.followMode_frame _).sameBeat (by decide))).trans ((Dev.parkStart_frame _).sameBeat (by decide))
  have hrecorded : moded.SameBeat recorded := (Dev.SameBeat.forN (fun e n => (e.armTarget_frame n).sameBeat (by decide)) _ _).trans
    (.forN (fun e n => (e.rearm_frame n).sameBeat (by decide)) _ _)
  have hwatched : recorded.SameBeat watched := .forN (fun e w => (e.readbackBeat_frame w).sameBeat (by decide)) _ _
  have hsent : watched.SameBeat sent := (((watched.sampleBeat_frame x).sameBeat (by decide)).trans
    ((Dev.sendArmCur_frame _ _).sameBeat (by decide))).trans ((Dev.sendTimes_frame _).sameBeat (by decide))
  have hchopped : sent.SameBeat chopped := .forN (fun e n => (e.chopperStep_frame n).sameBeat (by decide)) _ _
  have hsynced : chopped.SameBeat synced := .forN (fun e c => (e.ctxSync_frame c).sameBeat (by decide)) _ _
  have hrun : synced.SameBeat synced.engineRun.signalsUsed :=
    (synced.engineRun_frame.sameBeat (by decide)).trans ((Dev.signalsUsed_frame _).sameBeat (by decide))
  exact htimed.trans (harmed.trans (hisld.trans (hmoded.trans (hrecorded.trans (hwatched.trans (hsent.trans (hchopped.trans (hsynced.trans hrun))))))))

theorem Dev.beatParked_sameBeat (d : Dev) (switched : Bool) : d.SameBeat (d.beatParked switched) :=
  (d.timeBoundary_sameBeat.trans ((Dev.modeBoundary_frame _ _).sameBeat (by decide))).trans ((Dev.burstFlush_frame _).sameBeat (by decide))

/-- The close of a boundary leaves the beat alone, or starts a reset. -/
theorem Dev.beatClose_sameBeat (d : Dev) : d.SameBeat d.beatClose ∨ d.beatClose.phase = .warm := by
  unfold Dev.beatClose
  extract_lets lid snapped counted
  have hsnapped : d.SameBeat snapped := ⟨rfl, rfl, rfl, rfl, rfl, rfl⟩
  have hcounted : d.SameBeat counted := hsnapped.trans ((Dev.Agree.inc (cs := [0x01]) (fs := []) (by decide) (by decide) .refl).sameBeat (by decide))
  split
  · exact .inr rfl
  · exact .inl hcounted

/-! ## Writes at the boundary -/

/-- A rule of single parameters leaves the beat alone where it answers. -/
def Dev.SameBeatO (d : Dev) (o : Option (Nat × Dev)) : Prop := ∀ r ∈ o, d.SameBeat r.2

theorem Dev.AgreeO.sameBeatO {cs : List Nat} {fs : List Fld} {d : Dev} {o : Option (Nat × Dev)} (h : d.AgreeO cs fs o)
    (hl : leavesBeat cs fs = true) : d.SameBeatO o := by
  rintro r rfl
  exact Dev.Agree.sameBeat h hl

theorem Dev.SameBeatO.ite {d : Dev} {x y : Option (Nat × Dev)} {c : Prop} [Decidable c] (h : c → d.SameBeatO x) (g : ¬c → d.SameBeatO y) :
    d.SameBeatO (if c then x else y) := by
  split
  · exact h ‹_›
  · exact g ‹_›

theorem Dev.wImage_sameBeatO (d : Dev) (p : Par) (i v : Nat) : d.SameBeatO (d.wImage p i v) := by
  have refused : ∀ st, d.SameBeatO (no d st) := fun st => Dev.AgreeO.sameBeatO (cs := []) (fs := []) (.no .refl) (by decide)
  unfold Dev.wImage
  refine .ite (fun hp => ?_) fun _ => .ite (fun _ => ?_) fun _ => .ite (fun _ => refused _) fun _ => .ite (fun _ => refused _) fun _ =>
    .ite (fun _ => refused _) fun _ => (Dev.AgreeO.did (d.imgParWrite_frame p i v)).sameBeatO (by decide)
  · subst hp
    rintro r ⟨⟩
    exact .ite (d.put_sameBeat _ _ (by decide) (by decide)) (.refl d)
  · rintro r ⟨⟩

/-- The rule of a parameter's class leaves the beat alone; class BEAT has none. -/
theorem Dev.wRule_sameBeatO (d : Dev) (session tag ts : Nat) {p : Par} (i : Nat) (v : W64) (hp : p.small = true) :
    d.SameBeatO (d.wRule session tag ts p i v) := by
  have group : ∀ {c : Nat} {cs : List Nat}, p.cls = c → c ≠ 2 → cs.contains c = true → cs.contains p.group = true := fun h hc hm => by
    rw [Par.group_of_cls h hc]
    exact hm
  unfold Dev.wRule
  extract_lets n
  refine .ite (fun _ => (d.wDev_frame _ _ _ _ _).sameBeatO (by decide)) fun _ => .ite (fun _ => d.wImage_sameBeatO _ _ _) fun _ => ?_
  refine .ite (fun h => (d.wSpoke_frame _ _ _ hp (group h (by decide) (by decide))).sameBeatO (by decide)) fun _ => ?_
  refine .ite (fun h => (d.wCell_frame _ _ _ hp (group h (by decide) (by decide))).sameBeatO (by decide)) fun _ => ?_
  refine .ite (fun h => (d.wArm_frame _ _ _ hp (group h (by decide) (by decide))).sameBeatO (by decide)) fun _ => ?_
  refine .ite (fun _ => .ite (fun _ => d.wImage_sameBeatO _ _ _) fun _ => (d.wCtx_frame _ _ _).sameBeatO (by decide)) fun _ => ?_
  refine .ite (fun h => (d.wGrid_frame _ _ _ hp (group h (by decide) (by decide))).sameBeatO (by decide)) fun _ => ?_
  refine .ite (fun h => (d.wIsld_frame _ _ _ _ hp (group h (by decide) (by decide))).sameBeatO (by decide)) fun _ => ?_
  refine .ite (fun h => (d.wPort_frame _ _ _ hp (group h (by decide) (by decide))).sameBeatO (by decide)) fun _ => ?_
  refine .ite (fun _ => (d.wLeg_frame _ _ _).sameBeatO (by decide)) fun _ => .ite (fun h => ?_) fun _ => ?_
  · refine (d.wAnalog_frame _ _ _ _ hp ?_).sameBeatO (by decide)
    obtain h | h | h := h <;> exact group h (by decide) (by decide)
  refine .ite (fun h => (d.wMetr_frame _ _ _ hp (group h (by decide) (by decide))).sameBeatO (by decide)) fun _ => ?_
  refine .ite (fun _ => (d.wCap_frame _ _ _ _).sameBeatO (by decide)) fun _ => .ite (fun _ => (d.wTrig_frame _ _ _).sameBeatO (by decide)) fun _ => ?_
  refine .ite (fun h => (d.wWeave_frame _ _ hp (group h (by decide) (by decide))).sameBeatO (by decide)) fun _ => ?_
  refine .ite (fun _ => (d.wLink_frame _ _ _).sameBeatO (by decide)) fun _ => .ite (fun _ => (d.wRing_frame _ _ _).sameBeatO (by decide)) fun _ => ?_
  refine .ite (fun _ => (d.wPwr_frame _ _).sameBeatO (by decide)) fun _ => ?_
  refine .ite (fun h => (d.wHarv_frame _ _ hp (group h (by decide) (by decide))).sameBeatO (by decide)) fun _ => ?_
  refine .ite (fun _ => (d.wEvt_frame _ _ _ _).sameBeatO (by decide)) fun _ => ?_
  rintro r ⟨⟩

/-- A write that is not one of the grid leaves the beat alone: beat_count is read-only (Table 2.4). -/
theorem Dev.applyWrite_sameBeat (d : Dev) (session tag ts : Nat) (w : RegWrite) (hw : w.isGrid = false) :
    d.SameBeat (d.applyWrite session tag ts w.obj w.idx w.val).2 := by
  unfold Dev.applyWrite
  extract_lets p i v
  split
  · exact .refl d
  · next hrow =>
    obtain ⟨hsmall, hgroup⟩ := rowOf_ok hrow
    have hstored : d.SameBeat (d.setRaw p i v) := by
      refine d.setRaw_sameBeat v hsmall (fun q hq hpq hi => ?_)
      have hinst : w.obj % 16777216 = 0 := hi
      have grid : w.obj / 16777216 = 2 → w.idx < 3 → False := fun hcls hidx => by
        simp [RegWrite.isGrid, hidx, show w.obj = oBeat by unfold oBeat; omega] at hw
      simp only [List.mem_cons, List.not_mem_nil, or_false] at hq
      obtain rfl | rfl | rfl := hq
      · exact grid (congrArg Par.cls hpq) (by rw [show w.idx = 0 from congrArg Par.idx hpq]; decide)
      · exact grid (congrArg Par.cls hpq) (by rw [show w.idx = 2 from congrArg Par.idx hpq]; decide)
      · rw [hpq] at hgroup
        exact absurd hgroup (by decide)
    cases hrule : d.wRule session tag ts p i v with
    | none => exact hstored
    | some r => exact d.wRule_sameBeatO session tag ts i v hsmall r hrule

/-- No entry of the message writes the beat grid. -/
def Msg.offGrid (m : Msg) : Prop := ∀ w ∈ m.work, w.isGrid = false

theorem Dev.judgeMsg_offGrid (d : Dev) {m : Msg} (h : m.offGrid) : (d.judgeMsg m).offGrid := by
  intro w hw
  simp only [Dev.judgeMsg] at hw
  split at hw
  · obtain ⟨v, hv, rfl⟩ := List.mem_map.mp hw
    have := h v hv
    split <;> exact this
  · exact h w hw

theorem Dev.clashMsg_offGrid (d : Dev) (ms : List Msg) {m : Msg} (h : m.offGrid) : (d.clashMsg ms m).offGrid := by
  intro w hw
  obtain ⟨v, hv, rfl⟩ := List.mem_map.mp hw
  have := h v hv
  split <;> exact this

/-- Entries that are not of the grid leave the beat alone, and stay what they are. -/
theorem Dev.applyEntries_offGrid (d : Dev) (sel : RegWrite → Bool) {m : Msg} (h : m.offGrid) :
    (∀ w ∈ (d.applyEntries sel m).1, w.isGrid = false) ∧ d.SameBeat (d.applyEntries sel m).2 := by
  refine List.foldlRecOn m.work _ (motive := fun acc : List RegWrite × Dev => (∀ w ∈ acc.1, w.isGrid = false) ∧ d.SameBeat acc.2) ⟨by simp, .refl d⟩ ?_
  rintro ⟨done, e⟩ ⟨hdone, he⟩ w hw
  have happend : ∀ v : RegWrite, v.isGrid = w.isGrid → ∀ u ∈ done ++ [v], u.isGrid = false := by
    intro v hv u hu
    obtain hu | hu := List.mem_append.mp hu
    · exact hdone u hu
    · rw [List.mem_singleton.mp hu, hv]
      exact h w hw
  dsimp only
  split
  · split
    · exact ⟨happend _ rfl, he.trans ((e.burstReqWrite_frame _ _).sameBeat (by decide))⟩
    · exact ⟨happend _ rfl, he.trans (e.applyWrite_sameBeat _ _ _ w (h w hw))⟩
  · exact ⟨happend w rfl, he⟩

theorem Dev.applyMsgs_offGrid (d : Dev) (sel : RegWrite → Bool) (bulk : Bool) {ms : List Msg} (h : ∀ m ∈ ms, m.offGrid) :
    (∀ m ∈ (d.applyMsgs sel bulk ms).1, m.offGrid) ∧ d.SameBeat (d.applyMsgs sel bulk ms).2 := by
  refine List.foldlRecOn ms _ (motive := fun acc : List Msg × Dev => (∀ m ∈ acc.1, m.offGrid) ∧ d.SameBeat acc.2) ⟨by simp, .refl d⟩ ?_
  rintro ⟨done, e⟩ ⟨hdone, he⟩ m hm
  obtain ⟨hwork, hentries⟩ := e.applyEntries_offGrid sel (h m hm)
  have happend : ∀ n : Msg, n.work = (e.applyEntries sel m).1 → ∀ u ∈ done ++ [n], u.offGrid := by
    intro n hn u hu
    obtain hu | hu := List.mem_append.mp hu
    · exact hdone u hu
    · rw [List.mem_singleton.mp hu]
      unfold Msg.offGrid
      rw [hn]
      exact hwork
  dsimp only
  split
  · exact ⟨happend _ rfl, he.trans (hentries.trans ((Dev.applyBulk_frame _ _ _ _).sameBeat (by decide)))⟩
  · exact ⟨happend _ rfl, he.trans hentries⟩

theorem Dev.applyGrid_of_offGrid (d : Dev) {ms : List Msg} (h : ∀ m ∈ ms, m.offGrid) : d.applyGrid ms = (ms, d) := by
  have hnone : ms.filter (fun m => m.op == 0x20 && m.work.any (fun w => w.isGrid && w.status == stOk)) = [] := by
    refine List.filter_eq_nil_iff.mpr (fun m hm hgrid => ?_)
    obtain ⟨-, hany⟩ := Bool.and_eq_true_iff.mp hgrid
    obtain ⟨w, hw, hgrid⟩ := List.any_eq_true.mp hany
    simp [h m hm w hw] at hgrid
  simp [Dev.applyGrid, hnone]

/-- Where no registered entry writes the grid, what the messages of the ended beat do leaves the beat alone. -/
theorem Dev.applyWrites_sameBeat (d : Dev) (h : ∀ m ∈ d.host.msgs, m.offGrid) : d.SameBeat d.applyWrites := by
  unfold Dev.applyWrites
  extract_lets ms host taken judged kept applied gridded burst moded answered hostAfter parked
  have hkept : ∀ m ∈ kept, m.offGrid := by
    intro m hm
    obtain ⟨j, hj, rfl⟩ := List.mem_map.mp hm
    obtain ⟨n, hn, rfl⟩ := List.mem_map.mp hj
    exact Dev.clashMsg_offGrid _ _ (Dev.judgeMsg_offGrid _ (h n hn))
  obtain ⟨hms, happlied⟩ := taken.applyMsgs_offGrid (fun w => !w.isGrid && !w.isBurst) true hkept
  have hgridded : gridded = applied := Dev.applyGrid_of_offGrid _ hms
  obtain ⟨-, hburst⟩ := gridded.2.applyMsgs_offGrid RegWrite.isBurst false (ms := gridded.1) (hgridded ▸ hms)
  have hwritten : taken.SameBeat burst.2 := (hgridded ▸ happlied : taken.SameBeat gridded.2).trans hburst
  have hmode : ∀ (e : Dev) (m : Msg), e.SameBeat (e.modeCommand m.code) := fun e m => (e.modeCommand_frame m.code).sameBeat (by decide)
  have hanswer : ∀ (e : Dev) (m : Msg), e.SameBeat (e.answerMsg m) := fun e m => (e.answerMsg_frame m).sameBeat (by decide)
  have hmoded : burst.2.SameBeat moded := .forL hmode _ _
  have hanswered : moded.SameBeat answered := .forL hanswer _ _
  have hparked : answered.SameBeat parked := answered.host_sameBeat _
  have htaken : d.SameBeat taken := d.host_sameBeat _
  exact htaken.trans (hwritten.trans (hmoded.trans (hanswered.trans (hparked.trans (parked.sessionsFreed_frame.sameBeat (by decide))))))

/-! ## The grid and its boundaries -/

theorem beatOf_beatAt {bt : Nat} (hbt : bt ≠ 0) (ph k : Nat) : beatOf bt ph (beatAt bt ph k) = k := by
  have hspan : (k * bt + ph) * 16 - ph * 16 = k * (bt * 16) := by
    rw [Nat.add_mul, Nat.add_sub_cancel, Nat.mul_assoc]
  rw [beatOf, beatAt, hspan, Nat.mul_div_cancel _ (by omega)]

theorem nextBoundary_after_beatAt {bt : Nat} (hbt : bt ≠ 0) (ph k : Nat) : nextBoundary bt ph (beatAt bt ph k + 1) = beatAt bt ph (k + 1) := by
  have hspan : (k * bt + ph) * 16 + 1 - ph * 16 + bt * 16 - 1 = (k + 1) * (bt * 16) := by
    rw [Nat.add_mul, Nat.mul_assoc, Nat.add_one_mul]
    omega
  rw [nextBoundary, ceilDiv, show beatAt bt ph k = (k * bt + ph) * 16 from rfl, hspan, Nat.mul_div_cancel _ (by omega)]

theorem beatAt_le_succ (bt ph k : Nat) : beatAt bt ph k ≤ beatAt bt ph (k + 1) := by
  unfold beatAt
  rw [Nat.add_one_mul]
  omega

/-- From `t` on the grid of `bt` and `ph` holds: it is in force, or it is an accepted one whose first boundary is `t` (R39). -/
def Dev.gridFrom (d : Dev) (bt ph t : Nat) : Prop :=
  (d.newGrid = none ∧ d.beatTicks = bt ∧ d.get Par.beatBeatPhase 0 = ph) ∨ ∃ pct e, d.newGrid = some (bt, pct, ph, e) ∧ nextBoundary bt ph e = t

theorem Dev.SameBeat.gridFrom {d e : Dev} {bt ph t : Nat} (h : d.SameBeat e) (g : d.gridFrom bt ph t) : e.gridFrom bt ph t := by
  unfold Dev.gridFrom at g ⊢
  rwa [h.newGrid, h.ticks, h.phase]

/-- The device is in beat `k` of the grid of `bt` and `ph`, which is in force and the only one (R35). -/
structure Dev.InBeat (d : Dev) (bt ph k : Nat) : Prop where
  number : d.beatNo = k
  start : d.beatStart = beatAt bt ph k
  stop : d.beatStart + d.beatLen = beatAt bt ph (k + 1)
  ticks : d.beatTicks = bt
  phase : d.get Par.beatBeatPhase 0 = ph
  newGrid : d.newGrid = none

theorem Dev.SameBeat.inBeat {d e : Dev} {bt ph k : Nat} (h : d.SameBeat e) (g : d.InBeat bt ph k) : e.InBeat bt ph k where
  number := h.number.trans g.number
  start := h.start.trans g.start
  stop := by rw [h.start, h.len, g.stop]
  ticks := h.ticks.trans g.ticks
  phase := h.phase.trans g.phase
  newGrid := h.newGrid.trans g.newGrid

theorem Dev.InBeat.gridFrom {d : Dev} {bt ph k : Nat} (h : d.InBeat bt ph k) (t : Nat) : d.gridFrom bt ph t := .inl ⟨h.newGrid, h.ticks, h.phase⟩

/-- At its first boundary an accepted grid comes into force. -/
theorem Dev.takeGrid_inForce {d : Dev} {bt ph t : Nat} (hbt : bt < 2 ^ 64) (hph : ph < 2 ^ 64) (h : d.gridFrom bt ph t) :
    (d.takeGrid t).newGrid = none ∧ (d.takeGrid t).beatTicks = bt ∧ (d.takeGrid t).get Par.beatBeatPhase 0 = ph := by
  obtain ⟨hnone, hforce⟩ | ⟨pct, e, hnew, hfirst⟩ := h
  · rw [show d.takeGrid t = d by simp only [Dev.takeGrid, hnone]]
    exact ⟨hnone, hforce⟩
  · have hstart : d.gridStart = some t := by simp [Dev.gridStart, hnew, hfirst]
    simp only [Dev.takeGrid, hnew, hstart, Option.any_some, le_refl, decide_true, if_true]
    generalize hput : ((d.put Par.beatBeatTicks 0 bt).put Par.beatWindowPct 0 pct).put Par.beatBeatPhase 0 ph = stored
    have hticks : stored.beatTicks = bt := by
      rw [← hput, Dev.beatTicks, Dev.get_put_apart _ _ _ _ (by decide), Dev.get_put_apart _ _ _ _ (by decide), Dev.get_put_same, Nat.mod_eq_of_lt hbt]
    have hphase : stored.get Par.beatBeatPhase 0 = ph := by
      rw [← hput, Dev.get_put_same, Nat.mod_eq_of_lt hph]
    have hisld := (({ stored with newGrid := none } : Dev).isldTimeStep_frame.sameBeat (by decide)).trans
      (.forN (f := Dev.isldRebound) (fun x g => (x.isldRebound_frame g).sameBeat (by decide)) 4 _)
    exact ⟨hisld.newGrid, hisld.ticks.trans hticks, hisld.phase.trans hphase⟩

theorem Dev.beginBeat_inBeat {d : Dev} {bt ph k : Nat} (hbt : bt ≠ 0) (hk : k < 2 ^ 64) (hnew : d.newGrid = none) (hticks : d.beatTicks = bt)
    (hphase : d.get Par.beatBeatPhase 0 = ph) : (d.beginBeat (beatAt bt ph k)).InBeat bt ph k := by
  have hgrid : d.gridStart = none := by simp [Dev.gridStart, hnew]
  simp only [Dev.beginBeat, hgrid, hticks, hphase, beatOf_beatAt hbt, nextBoundary_after_beatAt hbt]
  have hcount : (d.put Par.beatBeatCount 0 k).get Par.beatBeatCount 0 = k := by rw [Dev.get_put_same, Nat.mod_eq_of_lt hk]
  exact {
    number := hcount
    start := rfl
    stop := Nat.add_sub_cancel' (beatAt_le_succ bt ph k)
    ticks := (d.get_put_apart 0 0 k (by decide)).trans hticks
    phase := (d.get_put_apart 0 0 k (by decide)).trans hphase
    newGrid := hnew }

/-- The next beat starts on the grid that holds from its start on. -/
theorem Dev.nextBeat_inBeat {d : Dev} {bt ph k : Nat} (hbt0 : bt ≠ 0) (hbt : bt < 2 ^ 64) (hph : ph < 2 ^ 64) (hk : k < 2 ^ 64)
    (h : d.gridFrom bt ph (beatAt bt ph k)) : (d.nextBeat (beatAt bt ph k)).InBeat bt ph k := by
  obtain ⟨hnew, hticks, hphase⟩ := Dev.takeGrid_inForce hbt hph h
  exact Dev.beginBeat_inBeat hbt0 hk hnew hticks hphase

/-! ## The boundary -/

/-- The old beat ends, reckoned in a device that firmware serves. -/
def Dev.beatEnd (d : Dev) (ecc : Nat) : Dev := if d.up then d.weaveEnd.beatCount ecc else d

theorem Dev.beatEnd_frame (d : Dev) (ecc : Nat) : Dev.Agree [0x01, 0x80, 0xC0] [.evt, .weave, .mode, .caps] d (d.beatEnd ecc) := by
  unfold Dev.beatEnd
  split
  · exact (d.weaveEnd_frame.mono (by decide) (by decide)).trans ((Dev.beatCount_frame _ _).mono (by decide) (by decide))
  · exact .refl

/-- The boundary of a device that firmware serves, once the old beat has ended at `t`. -/
def Dev.beatServe (d : Dev) (x : Samples) (t : Nat) : Dev :=
  let r := (d.applyWrites.nextBeat t).switchTables
  (if r.2.full then r.2.beatFull x r.1 else r.2.beatParked r.1).beatClose

/-- A boundary without a wake, reached in time: the old beat ends, the next starts where it ended, and firmware does its part. -/
theorem Dev.beat_eq {d : Dev} (x : Samples) (hclk : d.clkOk cdTb = true) (hnow : d.now ≤ d.beatStart + d.beatLen) :
    d.beat x none = if !((d.beatEnd x.ecc).nextBeat (d.beatStart + d.beatLen)).up
      then (d.beatEnd x.ecc).nextBeat (d.beatStart + d.beatLen)
      else ((d.beatEnd x.ecc).nextBeat (d.beatStart + d.beatLen)).beatServe x (d.beatStart + d.beatLen) := by
  have hlate : ¬d.beatStart + d.beatLen < d.now := Nat.not_lt.mpr hnow
  simp only [Dev.beat, hclk, hlate, Bool.not_true, Bool.false_eq_true, if_false]
  rfl

/-- Firmware's part of a boundary stays in the beat that has started, or ends in a reset. -/
theorem Dev.beatServe_inBeat {d : Dev} {bt ph k : Nat} (x : Samples) (hbt0 : bt ≠ 0) (hbt : bt < 2 ^ 64) (hph : ph < 2 ^ 64) (hk : k < 2 ^ 64)
    (hmsgs : ∀ m ∈ d.host.msgs, m.offGrid) (h : d.InBeat bt ph k) :
    (d.beatServe x (beatAt bt ph k)).InBeat bt ph k ∨ (d.beatServe x (beatAt bt ph k)).phase = .warm := by
  unfold Dev.beatServe
  extract_lets r
  have hnext : (d.applyWrites.nextBeat (beatAt bt ph k)).InBeat bt ph k :=
    Dev.nextBeat_inBeat hbt0 hbt hph hk ((d.applyWrites_sameBeat hmsgs).gridFrom (h.gridFrom _))
  have hr : r.2.InBeat bt ph k := ((Dev.switchTables_frame _).sameBeat (by decide)).inBeat hnext
  have hserved : (if r.2.full then r.2.beatFull x r.1 else r.2.beatParked r.1).InBeat bt ph k :=
    (Dev.SameBeat.ite (r.2.beatFull_sameBeat x r.1) (r.2.beatParked_sameBeat r.1)).inBeat hr
  exact (Dev.beatClose_sameBeat _).imp_left (fun hclose => hclose.inBeat hserved)

/-- A boundary at the start of beat `k` of the grid that holds from there on: the device is in beat `k`, unless it starts over. -/
theorem Dev.beat_inBeat {d : Dev} {bt ph k : Nat} (x : Samples) (hbt0 : bt ≠ 0) (hbt : bt < 2 ^ 64) (hph : ph < 2 ^ 64) (hk : k < 2 ^ 64)
    (hclk : d.clkOk cdTb = true) (hnow : d.now ≤ d.beatStart + d.beatLen) (hend : d.beatStart + d.beatLen = beatAt bt ph k)
    (hmsgs : ∀ m ∈ d.host.msgs, m.offGrid) (hgrid : d.gridFrom bt ph (beatAt bt ph k)) (hphase : (d.beat x none).phase = d.phase) :
    (d.beat x none).InBeat bt ph k := by
  rw [Dev.beat_eq x hclk hnow, hend] at hphase ⊢
  generalize hstarted : (d.beatEnd x.ecc).nextBeat (beatAt bt ph k) = started at hphase ⊢
  have hended := d.beatEnd_frame x.ecc
  have hnext := hstarted ▸ (d.beatEnd x.ecc).nextBeat_frame (beatAt bt ph k)
  have hin : started.InBeat bt ph k :=
    hstarted ▸ Dev.nextBeat_inBeat hbt0 hbt hph hk ((hended.sameBeat (by decide)).gridFrom hgrid)
  have hhost : started.host = d.host := (hnext.2 .host (by decide)).trans (hended.2 .host (by decide))
  have hstays : started.phase = d.phase := (hnext.2 .phase (by decide)).trans (hended.2 .phase (by decide))
  cases hup : started.up with
  | false => simpa [hup] using hin
  | true =>
    have hrun : d.phase = .run := hstays ▸ (by simpa [Dev.up] using hup)
    simp only [hup, hrun, Bool.not_true, Bool.false_eq_true, if_false] at hphase ⊢
    exact (Dev.beatServe_inBeat x hbt0 hbt hph hk (hhost ▸ hmsgs) hin).resolve_right (fun hwarm => by simp [hwarm] at hphase)

/-! ## BEAT_BOUNDARY -/

theorem aonFloor_le (t : Nat) : aonFloor t ≤ t := by
  unfold aonFloor
  split <;> omega

/-- A device that is not past the end of its beat meets BEAT_BOUNDARY there at the latest. -/
theorem Dev.instant_beatLen_le {d : Dev} (hnow : d.now ≤ d.beatStart + d.beatLen) : d.instant d.beatLen ≤ d.beatStart + d.beatLen := by
  have := aonFloor_le d.beatLen
  unfold Dev.instant
  split
  · omega
  · split <;> omega

end Sys2Proof.Machine

open Sys2Proof Sys2Proof.Machine

/-- Settles O33: the next beat starts at the end of the old one on the grid that holds from there on, and nothing else of a boundary moves the beat
but a reset. -/
theorem beatsFollowGrid : Obligations.BeatsFollowGrid := by
  unfold Obligations.BeatsFollowGrid
  intro x s g bt ph k hclk hg hbt0 hbt hph hk hnow hmsgs hend hgrid
  have hfrom : s.dev.gridFrom bt ph (beatAt bt ph k) := by
    cases g with
    | none => exact .inl ⟨hg, hgrid⟩
    | some g =>
      obtain ⟨bt', pct, ph', e⟩ := g
      obtain ⟨rfl, rfl, hfirst⟩ := hgrid
      exact .inr ⟨pct, e, hg, hfirst⟩
  refine ⟨s.act s.dev.beatLen (fun d => d.beat x none), rfl, rfl, fun hphase => ?_⟩
  have hsettle := Dev.settle_frame ((s.dev.atTime s.dev.beatLen).beat x none) (s.dev.atTime s.dev.beatLen)
  have hbeat : ((s.dev.atTime s.dev.beatLen).beat x none).InBeat bt ph k :=
    Dev.beat_inBeat x hbt0 hbt hph hk hclk (Dev.instant_beatLen_le hnow) hend hmsgs hfrom ((hsettle.2 .phase (by decide)).symm.trans hphase)
  obtain ⟨hnumber, hstart, hstop, hticks, hgridPhase, -⟩ := (hsettle.sameBeat (by decide)).inBeat hbeat
  exact ⟨hnumber, hstart, hstop, hstart ▸ Nat.mul_mod_left _ 16, hticks, hgridPhase⟩

end

section
/-! SUPPORT and PROOF. Starts of the Rim, and what START holds off (R324). The core is `Dev.Latching`: an operation that clears no latch cause and brings
no output on that START holds. All but eight commands only latch; those eight are a change of an input's level, the end of a reset press, cold resets,
the entry to DARK and the starts themselves. -/

namespace Sys2Proof.Machine

/-! ## Bits -/

theorem bit_eq_testBit (n i : Nat) : bit n i = n.testBit i := by
  rw [Nat.testBit_eq_decide_div_mod_eq]
  rfl

/-- Adding a power of two to a number without that bit changes no other bit. -/
theorem testBit_add_two_pow {m i j : Nat} (hm : m.testBit i = false) (h : j ≠ i) : (m + 2 ^ i).testBit j = m.testBit j := by
  have hlow : m % 2 ^ i < 2 ^ i := Nat.mod_lt _ (Nat.two_pow_pos i)
  have hbits : ∀ q, (2 ^ i * q + m % 2 ^ i).testBit j = if j < i then (m % 2 ^ i).testBit j else q.testBit (j - i) :=
    fun q => Nat.testBit_two_pow_mul_add q hlow j
  have hsum : m + 2 ^ i = 2 ^ i * (m / 2 ^ i + 1) + m % 2 ^ i := by
    rw [Nat.mul_add, Nat.mul_one, Nat.add_right_comm, Nat.div_add_mod]
  have heven : m / 2 ^ i % 2 = 0 := by simpa [Nat.testBit_eq_decide_div_mod_eq] using hm
  rw [hsum, hbits]
  conv_rhs => rw [← Nat.div_add_mod m (2 ^ i), hbits]
  split
  · rfl
  · obtain ⟨k, hk⟩ : ∃ k, j - i = k + 1 := ⟨j - i - 1, by omega⟩
    rw [hk, Nat.testBit_succ, Nat.testBit_succ, show (m / 2 ^ i + 1) / 2 = m / 2 ^ i / 2 by omega]

/-- A number with a bit is one without it and that power of two. -/
theorem exists_add_two_pow {n i : Nat} (h : n.testBit i = true) : ∃ m, n = m + 2 ^ i ∧ m.testBit i = false := by
  obtain ⟨m, hm⟩ := Nat.exists_eq_add_of_le (Nat.ge_two_pow_of_testBit h)
  refine ⟨m, by omega, ?_⟩
  rw [hm, Nat.testBit_two_pow_add_eq] at h
  simpa using h

theorem bit_setBit_same (n i : Nat) (b : Bool) : bit (setBit n i b) i = b := by
  unfold setBit
  split
  · assumption
  next hb =>
  rw [bit_eq_testBit] at hb ⊢
  cases b with
  | true =>
    rw [if_pos rfl, Nat.add_comm, Nat.testBit_two_pow_add_eq]
    simpa using hb
  | false =>
    obtain ⟨m, rfl, hm⟩ := exists_add_two_pow (by simpa using hb)
    simpa using hm

theorem bit_setBit_other {i j : Nat} (n : Nat) (b : Bool) (h : j ≠ i) : bit (setBit n i b) j = bit n j := by
  unfold setBit
  split
  · rfl
  next hb =>
  simp only [bit_eq_testBit] at hb ⊢
  cases b with
  | true => exact testBit_add_two_pow (by simpa using hb) h
  | false =>
    obtain ⟨m, rfl, hm⟩ := exists_add_two_pow (by simpa using hb)
    simpa using (testBit_add_two_pow hm h).symm

/-- The bits of a stored parameter are those that were put, up to its width. -/
theorem bit_mod_two_pow {i w : Nat} (n : Nat) (h : i < w) : bit (n % 2 ^ w) i = bit n i := by
  simp [bit_eq_testBit, Nat.testBit_mod_two_pow, h]

/-! ## What START holds off -/

/-- Output `j` is LATCHED by START and not ENERGISED (R323, R324). -/
structure Dev.StartHolds (d : Dev) (j : Nat) : Prop where
  latched : bit (d.outCauses j) (rcStart - 1) = true
  off : d.outOn j = false

/-- The Rim as it starts (R324): it runs, every input is UNDETERMINED, no output is ENERGISED and every used one is LATCHED by START. -/
structure Dev.RimStarted (d : Dev) : Prop where
  running : d.rim.running = true
  undet : d.get Par.rimInUndet 0 = 0xFFFF
  outputs : ∀ j < 4, d.outOn j = false ∧ (d.outUsed j = true → bit (d.outCauses j) (rcStart - 1) = true)

/-- From `d` to `e` the Rim only latches: it runs on with its record, no latch cause clears, and an output that comes on is used and not held by START.
Inputs leave UNDETERMINED, and resets are accepted, elsewhere. -/
structure Dev.Latching (d e : Dev) : Prop where
  running : e.rim.running = d.rim.running
  active : e.rim.active = d.rim.active
  causes : ∀ j c, bit (d.outCauses j) c = true → bit (e.outCauses j) c = true
  on : ∀ j < 4, e.outOn j = true → d.outOn j = true ∨ (d.outUsed j = true ∧ bit (d.outCauses j) (rcStart - 1) = false)
  undet : e.get Par.rimInUndet 0 = d.get Par.rimInUndet 0
  accepted : e.get Par.rimResetsAccepted 0 = d.get Par.rimResetsAccepted 0

theorem Dev.Latching.used {d e : Dev} (h : d.Latching e) (j : Nat) : e.outUsed j = d.outUsed j := by
  simp only [Dev.outUsed, h.active]

theorem Dev.Latching.refl (d : Dev) : d.Latching d := ⟨rfl, rfl, fun _ _ => id, fun _ _ => .inl, rfl, rfl⟩

theorem Dev.Latching.trans {a b c : Dev} (h : a.Latching b) (g : b.Latching c) : a.Latching c where
  running := g.running.trans h.running
  active := g.active.trans h.active
  causes j k hk := g.causes j k (h.causes j k hk)
  on j hj hon := by
    obtain hb | ⟨hused, hstart⟩ := g.on j hj hon
    · exact h.on j hj hb
    · exact .inr ⟨h.used j ▸ hused, Bool.eq_false_iff.mpr fun ha => Bool.false_ne_true (hstart.symm.trans (h.causes j _ ha))⟩
  undet := g.undet.trans h.undet
  accepted := g.accepted.trans h.accepted

theorem Dev.Latching.startHolds {d e : Dev} {j : Nat} (h : d.Latching e) (hj : j < 4) (g : d.StartHolds j) : e.StartHolds j where
  latched := h.causes j _ g.latched
  off := Bool.eq_false_iff.mpr fun hon => by
    obtain hon | ⟨-, hstart⟩ := h.on j hj hon
    · exact Bool.false_ne_true (g.off.symm.trans hon)
    · exact Bool.false_ne_true (hstart.symm.trans g.latched)

theorem Dev.Latching.rimStarted {d e : Dev} (h : d.Latching e) (g : d.RimStarted) : e.RimStarted where
  running := h.running.trans g.running
  undet := h.undet.trans g.undet
  outputs j hj := by
    obtain ⟨hoff, hused⟩ := g.outputs j hj
    refine ⟨Bool.eq_false_iff.mpr fun hon => ?_, fun hu => h.causes j _ (hused (h.used j ▸ hu))⟩
    obtain hon | ⟨hu, hstart⟩ := h.on j hj hon
    · exact Bool.false_ne_true (hoff.symm.trans hon)
    · exact Bool.false_ne_true (hstart.symm.trans (hused hu))

/-! ## The shapes of a definition -/

theorem Dev.Latching.ite {a x y : Dev} {c : Prop} [Decidable c] (h : a.Latching x) (g : a.Latching y) : a.Latching (if c then x else y) := by
  split
  · exact h
  · exact g

theorem Dev.Latching.foldl {α : Type} {f : Dev → α → Dev} (hf : ∀ (d : Dev) x, d.Latching (f d x)) (xs : List α) (d : Dev) : d.Latching (xs.foldl f d) :=
  List.foldlRecOn xs f (motive := d.Latching) (.refl d) (fun e h x _ => h.trans (hf e x))

theorem Dev.Latching.forN {f : Dev → Nat → Dev} (hf : ∀ (d : Dev) n, d.Latching (f d n)) (n : Nat) (d : Dev) : d.Latching (d.forN n f) :=
  .foldl hf (List.range n) d

theorem Dev.Latching.forL {α : Type} {f : Dev → α → Dev} (hf : ∀ (d : Dev) x, d.Latching (f d x)) (xs : List α) (d : Dev) : d.Latching (d.forL xs f) :=
  .foldl hf xs d

theorem Dev.Latching.whenOn {f : Dev → Dev} (hf : ∀ d : Dev, d.Latching (f d)) (n : Nat) (d : Dev) : d.Latching (d.whenOn n f) :=
  .ite (hf d) (.refl d)

theorem Dev.Latching.whenUp {f : Dev → Dev} (hf : ∀ d : Dev, d.Latching (f d)) (d : Dev) : d.Latching (d.whenUp f) := .ite (hf d) (.refl d)

theorem Dev.Latching.whenControl {f : Dev → Dev} (hf : ∀ d : Dev, d.Latching (f d)) (d : Dev) : d.Latching (d.whenControl f) := .ite (hf d) (.refl d)

theorem Dev.Latching.whenService {f : Dev → Dev} (hf : ∀ d : Dev, d.Latching (f d)) (d : Dev) : d.Latching (d.whenService f) := .ite (.refl d) (hf d)

/-! ## Operations beside the Rim -/

/-- The parameters of the Rim that `Dev.Latching` speaks of. -/
def rimHeld : List Par := [Par.rimOutEnergised, Par.rimInUndet, Par.rimResetsAccepted]

theorem rimHeld_small {p : Par} (hp : p ∈ rimHeld) : p.small = true := by
  revert p
  decide

theorem Dev.latching_of_raw {d e : Dev} (hrim : e.rim = d.rim) (hraw : ∀ p ∈ rimHeld, e.raw p 0 = d.raw p 0) : d.Latching e := by
  have hget : ∀ p ∈ rimHeld, e.get p 0 = d.get p 0 := fun p hp => by simp only [Dev.get, hraw p hp]
  have hcauses : ∀ j, e.outCauses j = d.outCauses j := fun j => by simp only [Dev.outCauses, hrim]
  refine ⟨by rw [hrim], by rw [hrim], fun j c hc => by rwa [hcauses], fun j _ hon => .inl ?_, hget _ (by decide), hget _ (by decide)⟩
  rwa [Dev.outOn, hget _ (by decide)] at hon

/-- A frame that names neither the parameters nor the state of the Rim. -/
def leavesRim (cs : List Nat) (fs : List Fld) : Bool := !cs.contains 0x70 && !fs.contains .rim

theorem Dev.Agree.latching {cs : List Nat} {fs : List Fld} {d e : Dev} (h : d.Agree cs fs e) (hl : leavesRim cs fs = true) : d.Latching e := by
  simp only [leavesRim, Bool.and_eq_true, Bool.not_eq_true'] at hl
  obtain ⟨hclass, hrim⟩ := hl
  refine Dev.latching_of_raw (h.2 .rim hrim) (fun p hp => h.1 p 0 (rimHeld_small hp) ?_)
  have hgroup : p.group = 0x70 := by
    revert p
    decide
  rwa [hgroup]

/-- A parameter whose value `Dev.Latching` does not speak of. -/
def Par.besideRim (p : Par) : Bool := p.small && !rimHeld.contains p

theorem Dev.setRaw_latching (d : Dev) {p : Par} (i : Nat) (v : W64) (h : p.besideRim = true) : d.Latching (d.setRaw p i v) := by
  simp only [Par.besideRim, Bool.and_eq_true, Bool.not_eq_true'] at h
  obtain ⟨hp, hn⟩ := h
  refine Dev.latching_of_raw (by simp) (fun q hq => d.raw_setRaw_apart i 0 v ?_)
  have hne : q ≠ p := fun e => by
    subst e
    simp [List.contains_eq_mem, hq] at hn
  simp [Par.apart, hne, rimHeld_small hq, hp]

theorem Dev.Latching.put {a d : Dev} (h : a.Latching d) {p : Par} {i v : Nat} (hp : p.besideRim = true) : a.Latching (d.put p i v) :=
  h.trans (d.setRaw_latching i _ hp)

theorem Dev.Latching.raise {a d : Dev} (h : a.Latching d) {n obj detail : Nat} {island : Bool} : a.Latching (d.raise n obj detail island) :=
  h.trans ((d.raise_frame n obj detail island).latching rfl)

/-- An operation whose frame leaves the Rim alone. -/
theorem Dev.Latching.frame {a d e : Dev} {cs : List Nat} {fs : List Fld} (h : a.Latching d) (g : d.Agree cs fs e) (hl : leavesRim cs fs = true) :
    a.Latching e := h.trans (g.latching hl)

/-- An update that leaves the parameters alone, and of the Rim's state its record, its causes and whether it runs. -/
theorem Dev.Latching.upd {a d e : Dev} (h : a.Latching d) (hpar : e.par = d.par) (hrun : e.rim.running = d.rim.running)
    (hactive : e.rim.active = d.rim.active) (hcauses : e.rim.causes = d.rim.causes) : a.Latching e := by
  have hget : ∀ p i, e.get p i = d.get p i := fun p i => by simp only [Dev.get, Dev.raw, hpar]
  refine h.trans ⟨hrun, hactive, fun j c => ?_, fun j _ hon => .inl ?_, hget _ _, hget _ _⟩
  · simp only [Dev.outCauses, hcauses, imp_self]
  · rwa [Dev.outOn, hget] at hon

/-! ## Latches and outputs -/

/-- A latch cause of output `j` is set or cleared. -/
def Dev.setCause (d : Dev) (j c : Nat) (b : Bool) : Dev :=
  { d with rim := { d.rim with causes := d.rim.causes.set (fun _ => 0) j (setBit (d.outCauses j) c b) } }

theorem Dev.bit_outCauses_setCause (d : Dev) (j c k e : Nat) (b : Bool) :
    bit ((d.setCause j c b).outCauses k) e = if k = j ∧ e = c then b else bit (d.outCauses k) e := by
  by_cases hk : k = j
  · subst hk
    by_cases he : e = c
    · subst he
      simp [Dev.setCause, Dev.outCauses, bit_setBit_same]
    · simp [Dev.setCause, Dev.outCauses, bit_setBit_other _ _ he, he]
  · simp [Dev.setCause, Dev.outCauses, Tab.get_set_other _ _ _ _ _ hk, hk]

theorem Dev.setCause_latching (d : Dev) (j c : Nat) : d.Latching (d.setCause j c true) where
  running := rfl
  active := rfl
  causes k e h := by
    rw [Dev.bit_outCauses_setCause]
    split
    · rfl
    · exact h
  on _ _ := .inl
  undet := rfl
  accepted := rfl

theorem Dev.outOn_putBit (d : Dev) (j : Nat) {k : Nat} (hk : k < 64) (b : Bool) :
    (d.putBit Par.rimOutEnergised 0 j b).outOn k = if k = j then b else d.outOn k := by
  rw [Dev.outOn, Dev.putBit, Dev.get_put_same, bit_mod_two_pow _ hk]
  split
  next h => rw [h, bit_setBit_same]
  next h => exact bit_setBit_other _ _ h

/-- One output is shown as R323 has it: ENERGISED where it is used and no cause holds it. -/
def Dev.showOutput (d : Dev) (j : Nat) : Dev :=
  let on := d.outUsed j && d.outCauses j == 0
  if on = d.outOn j then d
  else ({ d with rim := { d.rim with edmOpen := setBit d.rim.edmOpen j true } }).putBit Par.rimOutEnergised 0 j on

/-- `Dev.rimRefresh` shows the outputs one after another; what follows shows the lock-out. -/
theorem Dev.rimRefresh_eq (d : Dev) (cause : Nat) : d.rimRefresh cause =
    (let e := (d.forN 4 Dev.showOutput).put Par.rimOutCauses 0 (((List.range 4).map (fun j => (d.forN 4 Dev.showOutput).outCauses j % 256 * 256 ^ j)).sum)
     let lock := (List.range 4).any e.outLatched
     if lock && e.get Par.rimState 0 == 0 then
       let f := ((e.put Par.rimState 0 1).put Par.rimCause 0 cause).put Par.rimLockoutTime 0 e.now
       (f.inc 32 Par.rimLockouts 0).raise evRimLockout (oid 0x70 0) (cause + f.latchedMask * 256)
     else if !lock then (e.put Par.rimState 0 0).put Par.rimCause 0 0
     else e) := rfl

@[simp] theorem Dev.showOutput_used (d : Dev) (j k : Nat) : (d.showOutput j).outUsed k = d.outUsed k := by
  unfold Dev.showOutput
  dsimp only
  split <;> rfl

@[simp] theorem Dev.showOutput_causes (d : Dev) (j k : Nat) : (d.showOutput j).outCauses k = d.outCauses k := by
  unfold Dev.showOutput
  dsimp only
  split <;> rfl

theorem Dev.outOn_showOutput (d : Dev) (j : Nat) {k : Nat} (hk : k < 4) :
    (d.showOutput j).outOn k = if k = j then d.outUsed j && d.outCauses j == 0 else d.outOn k := by
  unfold Dev.showOutput
  extract_lets on
  split
  next h =>
    split
    next hkj => rw [hkj, ← h]
    next => rfl
  next => exact Dev.outOn_putBit _ j (by omega) on

theorem Dev.showOutput_latching (d : Dev) (j : Nat) : d.Latching (d.showOutput j) where
  running := by unfold Dev.showOutput; dsimp only; split <;> rfl
  active := by unfold Dev.showOutput; dsimp only; split <;> rfl
  causes k c h := by rwa [Dev.showOutput_causes]
  on k hk hon := by
    rw [Dev.outOn_showOutput d j hk] at hon
    split at hon
    next hkj =>
      subst hkj
      obtain ⟨hused, hnone⟩ := Bool.and_eq_true_iff.mp hon
      exact .inr ⟨hused, by rw [beq_iff_eq.mp hnone]; rfl⟩
    next => exact .inl hon
  undet := by
    unfold Dev.showOutput
    dsimp only
    split
    · rfl
    · exact Dev.get_put_apart _ _ _ _ (by decide)
  accepted := by
    unfold Dev.showOutput
    dsimp only
    split
    · rfl
    · exact Dev.get_put_apart _ _ _ _ (by decide)

theorem Dev.outOn_put (d : Dev) {p : Par} (i v j : Nat) (hp : Par.apart Par.rimOutEnergised p = true) : (d.put p i v).outOn j = d.outOn j := by
  rw [Dev.outOn, Dev.get_put_apart _ _ _ _ hp, Dev.outOn]

theorem Dev.outOn_raise (d : Dev) (n obj detail j : Nat) (island : Bool) : (d.raise n obj detail island).outOn j = d.outOn j := by
  rw [Dev.outOn, (d.raise_frame n obj detail island).get _ _ (by decide) (by decide), Dev.outOn]

/-- After the latches have been taken over, the outputs that are ENERGISED are the used ones without a cause (R323). -/
theorem Dev.outOn_rimRefresh (d : Dev) (cause : Nat) {j : Nat} (hj : j < 4) :
    (d.rimRefresh cause).outOn j = (d.outUsed j && d.outCauses j == 0) := by
  have hshown : (d.forN 4 Dev.showOutput).outOn j = (d.outUsed j && d.outCauses j == 0) := by
    have hall : d.forN 4 Dev.showOutput = (((d.showOutput 0).showOutput 1).showOutput 2).showOutput 3 := rfl
    rw [hall]
    simp only [Dev.outOn_showOutput _ _ hj, Dev.showOutput_used, Dev.showOutput_causes]
    obtain rfl | rfl | rfl | rfl : j = 0 ∨ j = 1 ∨ j = 2 ∨ j = 3 := by omega
    all_goals rfl
  rw [Dev.rimRefresh_eq, ← hshown]
  extract_lets e lock f
  have he : e.outOn j = (d.forN 4 Dev.showOutput).outOn j := Dev.outOn_put _ _ _ _ (by decide)
  rw [← he]
  clear_value e
  split
  · exact (Dev.outOn_raise _ _ _ _ _ _).trans ((Dev.outOn_put _ _ _ _ (by decide)).trans ((Dev.outOn_put _ _ _ _ (by decide)).trans
      ((Dev.outOn_put _ _ _ _ (by decide)).trans (Dev.outOn_put _ _ _ _ (by decide)))))
  · split
    · exact (Dev.outOn_put _ _ _ _ (by decide)).trans (Dev.outOn_put _ _ _ _ (by decide))
    · rfl

theorem Dev.rimRefresh_latching (d : Dev) (cause : Nat) : d.Latching (d.rimRefresh cause) := by
  rw [Dev.rimRefresh_eq]
  extract_lets e lock f
  have he : d.Latching e := .put (.forN Dev.showOutput_latching 4 d) rfl
  have hf : d.Latching f := .put (.put (.put he rfl) rfl) rfl
  exact .ite (.raise (.put hf rfl)) (.ite (.put (.put he rfl) rfl) he)

/-- The outputs that a latch reaches anew: those of the mask without the cause, used or reached by a cause of all outputs (R336). -/
def Dev.latchHit (d : Dev) (mask cause : Nat) : List Nat :=
  (List.range 4).filter (fun j => bit mask j && (d.outUsed j || bit rimAll (cause - 1)) && !(bit (d.outCauses j) (cause - 1)))

theorem Dev.rimLatch_eq (d : Dev) (mask cause : Nat) : d.rimLatch mask cause =
    (if d.latchHit mask cause = [] then d
    else
      let e := d.forL (d.latchHit mask cause) (fun e j => e.setCause j (cause - 1) true)
      let f := if cause = rcStart ∨ cause = rcDemand ∨ cause = rcNonSafety then e
        else e.raise evRimFault (oid 0x70 0) (cause + (((d.latchHit mask cause).map (fun j => 2 ^ j)).sum) * 256)
      f.rimRefresh cause) := rfl

theorem Dev.rimLatch_latching (d : Dev) (mask cause : Nat) : d.Latching (d.rimLatch mask cause) := by
  rw [Dev.rimLatch_eq]
  extract_lets e f
  have he : d.Latching e := .forL (fun x j => x.setCause_latching j _) _ d
  have hf : d.Latching f := .ite he (.raise he)
  exact .ite (.refl d) (hf.trans (f.rimRefresh_latching cause))

/-- A latch cause set on a list of outputs is on each of them. -/
theorem Dev.forL_setCause (d : Dev) (c : Nat) {xs : List Nat} {j : Nat} (hj : j ∈ xs) :
    bit ((d.forL xs (fun e k => e.setCause k c true)).outCauses j) c = true := by
  induction xs generalizing d with
  | nil => cases hj
  | cons x xs ih =>
    obtain rfl | hj := List.mem_cons.mp hj
    · have hset : bit ((d.setCause j c true).outCauses j) c = true := by simp [Dev.bit_outCauses_setCause]
      exact (Dev.Latching.forL (fun e k => e.setCause_latching k c) xs _).causes j c hset
    · exact ih _ hj

/-- A latch reaches every used output of its mask (R336). -/
theorem Dev.rimLatch_latches (d : Dev) {mask cause j : Nat} (hj : j < 4) (hmask : bit mask j = true) (hused : d.outUsed j = true) :
    bit ((d.rimLatch mask cause).outCauses j) (cause - 1) = true := by
  cases hold : bit (d.outCauses j) (cause - 1) with
  | true => exact (d.rimLatch_latching mask cause).causes j _ hold
  | false =>
    have hhit : j ∈ d.latchHit mask cause := by simp [Dev.latchHit, hj, hmask, hused, hold]
    rw [Dev.rimLatch_eq, if_neg (List.ne_nil_of_mem hhit)]
    extract_lets e f
    have hf : e.Latching f := .ite (.refl e) (.raise (.refl e))
    exact (hf.trans (f.rimRefresh_latching cause)).causes j _ (d.forL_setCause _ hhit)

theorem Dev.rimEval_latching (d : Dev) : d.Latching d.rimEval := by
  unfold Dev.rimEval
  extract_lets e
  have he : d.Latching e := by
    refine .forN (fun x k => ?_) 8 d
    extract_lets dem was y z lag u mask v f
    have hy : x.Latching y := .put (.refl x) rfl
    have hz : x.Latching z := .ite (.put hy rfl) hy
    have hu : x.Latching u := .ite (.put hz rfl) hz
    have hv : x.Latching v := .ite (hu.trans (u.rimLatch_latching _ _)) hu
    exact .ite (hv.trans (v.rimLatch_latching _ _)) hv
  exact .ite (.refl d) (he.trans (.ite (e.rimLatch_latching _ _) (.refl e)))

theorem Dev.outputFault_latching (d : Dev) (j : Nat) : d.Latching (d.outputFault j) := by
  unfold Dev.outputFault
  extract_lets r e f
  have he : d.Latching e := .ite (.refl d) (.upd (.refl d) rfl rfl rfl rfl)
  have hf : d.Latching f := .put he rfl
  exact hf.trans (f.rimLatch_latching _ _)

/-! ## The Rim's operations -/

theorem Dev.edmChange_latching (d : Dev) (k : Nat) : d.Latching (d.edmChange k) :=
  .forN (fun x j => .ite (x.outputFault_latching j) (.refl x)) 4 d

theorem Dev.rimInput_latching (d : Dev) (c mv : Nat) : d.Latching (d.rimInput c mv) := by
  unfold Dev.rimInput
  extract_lets r e was k
  have he : d.Latching e := .upd (.refl d) rfl rfl rfl rfl
  split
  · exact he
  · split
    · exact he
    · extract_lets s f g h
      have hf : d.Latching f := .upd he rfl rfl rfl rfl
      have hg : d.Latching g := .upd hf rfl rfl rfl rfl
      have hh : d.Latching h := .ite hf (.ite (.upd hf rfl rfl rfl rfl) (.ite (.upd hf rfl rfl rfl rfl)
        (.ite (.trans (.put (.put hg rfl) rfl) (Dev.rimEval_latching _)) hf)))
      exact .ite (.upd hh rfl rfl rfl rfl) hh

theorem Dev.discrepancy_latching (d : Dev) (k : Nat) : d.Latching (d.discrepancy k) := by
  unfold Dev.discrepancy
  extract_lets ch r e
  have he : d.Latching e := .ite (.refl d) (.upd (.refl d) rfl rfl rfl rfl)
  exact .ite (.refl d) (.trans (.put he rfl) (Dev.rimEval_latching _))

theorem Dev.testStart_latching (d : Dev) (m : Nat) : d.Latching (d.testStart m) := .ite (.refl d) (.upd (.refl d) rfl rfl rfl rfl)

theorem Dev.testDeadline_latching (d : Dev) : d.Latching d.testDeadline := by
  unfold Dev.testDeadline
  extract_lets e
  have he : d.Latching e := by
    refine .forL (fun x c => ?_) _ d
    refine .ite (.refl x) ?_
    extract_lets rim failed
    have hfailed : x.Latching failed := .upd (.refl x) rfl rfl rfl rfl
    exact .put (.put hfailed rfl) rfl
  exact .ite (.refl d) (he.trans e.rimEval_latching)

theorem Dev.testClose_latching (d : Dev) : d.Latching d.testClose := by
  unfold Dev.testClose
  extract_lets r e
  have he : d.Latching e := by
    refine .forL (fun x c => ?_) _ d
    have hskipped : x.Latching { x with rim := { x.rim with skip := setBit x.rim.skip (c / 2) true } } := .upd (.refl x) rfl rfl rfl rfl
    exact .ite (.put hskipped rfl) (.ite (.refl x) (.put (.put (.refl x) rfl) rfl))
  clear_value e
  have hclosed : d.Latching { e with rim := { e.rim with window := none, under := 0, sawLow := 0, fell := 0, failed := 0 } } := .upd he rfl rfl rfl rfl
  exact .ite (.refl d) (hclosed.trans (Dev.rimEval_latching _))

theorem Dev.offTest_latching (d : Dev) (j ch : Nat) : d.Latching (d.offTest j ch) := .ite (.upd (.refl d) rfl rfl rfl rfl) (.refl d)

theorem Dev.offTestEnd_latching (d : Dev) (j ch : Nat) : d.Latching (d.offTestEnd j ch) := by
  unfold Dev.offTestEnd
  extract_lets r e r' f
  have he : d.Latching e := .upd (.refl d) rfl rfl rfl rfl
  have hf : d.Latching f := .upd he rfl rfl rfl rfl
  exact .ite (.refl d) (.ite (.put (.put hf rfl) rfl) (.put he rfl))

theorem Dev.readbackMismatch_latching (d : Dev) (j ch : Nat) : d.Latching (d.readbackMismatch j ch) := by
  unfold Dev.readbackMismatch
  extract_lets inTest r e
  have he : d.Latching e := .ite (.upd (.refl d) rfl rfl rfl rfl) (.refl d)
  exact .ite (.refl d) (he.trans (e.outputFault_latching j))

theorem Dev.edmTimeout_latching (d : Dev) (j : Nat) : d.Latching (d.edmTimeout j) := by
  unfold Dev.edmTimeout
  extract_lets r e
  have he : d.Latching e := .upd (.refl d) rfl rfl rfl rfl
  exact .ite (.refl d) (.ite he (he.trans (e.outputFault_latching j)))

theorem Dev.channelCompare_latching (d : Dev) (agree : Bool) : d.Latching (d.channelCompare agree) :=
  .ite (.refl d) (.ite d.rimEval_latching (d.rimLatch_latching _ _))

theorem Dev.rimSupply_latching (d : Dev) : d.Latching d.rimSupply := .ite (d.rimLatch_latching _ _) (.refl d)

theorem Dev.rstPress_latching (d : Dev) (released1s : Bool) : d.Latching (d.rstPress released1s) := .ite (.upd (.refl d) rfl rfl rfl rfl) (.refl d)

theorem Dev.rstStuck_latching (d : Dev) : d.Latching d.rstStuck := by
  unfold Dev.rstStuck
  have hstuck : d.Latching { d with rim := { d.rim with stuck := true } } := .upd (.refl d) rfl rfl rfl rfl
  exact .ite (.raise hstuck) (.refl d)

theorem Dev.rimStage_latching (d : Dev) (r : List Byte) : d.Latching (d.rimStage r) := by
  have hstaged : d.Latching { d with rim := { d.rim with staged := r } } := .upd (.refl d) rfl rfl rfl rfl
  exact .raise (.put hstaged rfl)

/-! ## A start of the Rim -/

/-- No output is ENERGISED once the parameter that shows them is cleared. -/
theorem Dev.Latching.allOff {a d : Dev} (h : a.Latching d) : a.Latching (d.put Par.rimOutEnergised 0 0) := by
  refine h.trans ⟨rfl, rfl, fun _ _ => id, fun j _ hon => ?_, d.get_put_apart _ _ _ (by decide), d.get_put_apart _ _ _ (by decide)⟩
  rw [Dev.outOn, Dev.get_put_same] at hon
  simp [bit] at hon

/-- Taking over the latches with START on every used output leaves no output ENERGISED. -/
theorem Dev.rimRefresh_started (d : Dev) (cause : Nat) (hrun : d.rim.running = true) (hundet : d.get Par.rimInUndet 0 = 0xFFFF)
    (hstart : ∀ j < 4, d.outUsed j = true → bit (d.outCauses j) (rcStart - 1) = true) : (d.rimRefresh cause).RimStarted where
  running := (d.rimRefresh_latching cause).running.trans hrun
  undet := (d.rimRefresh_latching cause).undet.trans hundet
  outputs j hj := by
    have hl := d.rimRefresh_latching cause
    refine ⟨Bool.eq_false_iff.mpr fun hon => ?_, fun hu => hl.causes j _ (hstart j hj (hl.used j ▸ hu))⟩
    rw [Dev.outOn_rimRefresh d cause hj, Bool.and_eq_true, beq_iff_eq] at hon
    obtain ⟨hused, hnone⟩ := hon
    have hlatched := hstart j hj hused
    rw [hnone] at hlatched
    exact Bool.false_ne_true hlatched

theorem Dev.rimStart_started (d : Dev) : d.rimStart.RimStarted := by
  unfold Dev.rimStart
  extract_lets r pins running read strapped cleared shown serial rim open_ demand started configured
  have hrun : cleared.rim.running = true := rfl
  have hundet : cleared.get Par.rimInUndet 0 = 0xFFFF :=
    ((Dev.get_put_apart _ _ _ _ (by decide)).trans (Dev.get_put_apart _ _ _ _ (by decide))).trans (Dev.get_put_same _ _ _ _)
  have hserial : cleared.Latching serial := .put (.put (.put (.put (.allOff (.refl cleared)) rfl) rfl) rfl) rfl
  clear_value serial
  have hopen : cleared.Latching open_ := .upd hserial rfl rfl rfl rfl
  have hdemand : cleared.Latching demand := .put hopen rfl
  have hstarted : demand.Latching started := demand.rimLatch_latching 15 rcStart
  have hconfigured : started.Latching configured := .ite (started.rimLatch_latching 15 rcConfig) (.refl started)
  have hall := (hdemand.trans hstarted).trans hconfigured
  refine (Dev.rimEval_latching _).rimStarted (configured.rimRefresh_started rcStart (hall.running.trans hrun) (hall.undet.trans hundet) fun j hj hu => ?_)
  have hmask : bit 15 j = true := by
    obtain rfl | rfl | rfl | rfl : j = 0 ∨ j = 1 ∨ j = 2 ∨ j = 3 := by omega
    all_goals rfl
  refine hconfigured.causes j _ (demand.rimLatch_latches hj hmask ?_)
  rwa [← (hstarted.trans hconfigured).used]

/-! ## Inputs, the staged record and the reset press -/

theorem Dev.StartHolds.put {d : Dev} {j : Nat} (h : d.StartHolds j) {p : Par} {i v : Nat} (hp : Par.apart Par.rimOutEnergised p = true) :
    (d.put p i v).StartHolds j := ⟨by simpa [Dev.outCauses] using h.latched, (d.outOn_put i v j hp).trans h.off⟩

theorem Dev.StartHolds.upd {d e : Dev} {j : Nat} (h : d.StartHolds j) (hpar : e.par = d.par) (hcauses : e.rim.causes = d.rim.causes) :
    e.StartHolds j where
  latched := by simpa only [Dev.outCauses, hcauses] using h.latched
  off := by simpa only [Dev.outOn, Dev.get, Dev.raw, hpar] using h.off

/-- Pin levels taken over leave what START holds off. -/
theorem Dev.StartHolds.setPins {d : Dev} {j : Nat} (h : d.StartHolds j) (raw known : Nat) :
    ({ d with rim := { d.rim with raw := raw, known := known } } : Dev).StartHolds j := .upd h rfl rfl

/-- Clearing another cause does not end what START holds off. -/
theorem Dev.StartHolds.setCause {d : Dev} {j : Nat} (h : d.StartHolds j) (k : Nat) {c : Nat} (b : Bool) (hc : rcStart - 1 ≠ c) :
    (d.setCause k c b).StartHolds j :=
  ⟨by rw [Dev.bit_outCauses_setCause, if_neg (fun e => hc e.2)]; exact h.latched, h.off⟩

theorem Dev.rimFiltered_startHolds (d : Dev) (c : Nat) {j : Nat} (hj : j < 4) (h : d.StartHolds j) : (d.rimFiltered c).StartHolds j := by
  unfold Dev.rimFiltered
  extract_lets r k lv undet change e r' f g
  split
  · exact h
  · have he : e.StartHolds j := .put (.put h rfl) rfl
    have hf : e.Latching f := .upd (.refl e) rfl rfl rfl rfl
    have hg : e.Latching g := .ite (hf.trans (f.edmChange_latching k)) hf
    exact (hg.trans g.rimEval_latching).startHolds hj he

/-- The staged record becomes the active one: causes are added, and CONFIG alone may clear (R340 case 1, R345). -/
theorem Dev.rimActivate_startHolds (d : Dev) {j : Nat} (hj : j < 4) (h : d.StartHolds j) : d.rimActivate.StartHolds j := by
  unfold Dev.rimActivate
  extract_lets r rim active serial undet pins tally tests demand changed cleared configured
  have hactive : active.StartHolds j := .upd h rfl rfl
  have hundet : undet.StartHolds j := .put (.put (.put (.put hactive rfl) rfl) rfl) rfl
  have hpins : pins.StartHolds j := hundet.setPins _ _
  have htally : pins.Latching tally := .frame (.refl pins) (pins.tallyExtend_frame 3 (sha384 r)) rfl
  have htests : pins.Latching tests := by
    refine htally.trans (.forN (fun x k => ?_) 8 tally)
    exact .ite (.put (.put (.refl x) rfl) rfl) (.refl x)
  have hdemand : pins.Latching demand := .put htests rfl
  have hchanged : changed.StartHolds j := (hdemand.trans (demand.rimLatch_latching 15 rcConfigChange)).startHolds hj hpins
  have hcleared : cleared.StartHolds j :=
    List.foldlRecOn (List.range 4) _ (motive := fun e : Dev => e.StartHolds j) hchanged (fun _ he k _ => he.setCause k false (by decide))
  have hconfigured : configured.StartHolds j := by
    unfold configured
    split
    · exact (cleared.rimRefresh_latching _).startHolds hj hcleared
    · exact (changed.rimLatch_latching _ _).startHolds hj hchanged
  exact configured.rimEval_latching.startHolds hj hconfigured

/-- From `d` to `e` START holds output `j` off, or a reset has been accepted. -/
def Dev.HeldOrReset (d e : Dev) (j : Nat) : Prop :=
  e.StartHolds j ∨ e.get Par.rimResetsAccepted 0 = (d.get Par.rimResetsAccepted 0 + 1) % 2 ^ 32

theorem Dev.Latching.heldOrReset {d e : Dev} {j : Nat} (h : d.Latching e) (hj : j < 4) (hd : d.StartHolds j) : d.HeldOrReset e j :=
  .inl (h.startHolds hj hd)

theorem Dev.HeldOrReset.before {a d e : Dev} {j : Nat} (h : a.Latching d) (g : d.HeldOrReset e j) : a.HeldOrReset e j := by
  rwa [Dev.HeldOrReset, ← h.accepted]

/-- A valid press: the staged record, a refusal, or an accepted reset, which counts (R340). -/
theorem Dev.rimAct_heldOrReset (d : Dev) (railsOk : Bool) {j : Nat} (hj : j < 4) (h : d.StartHolds j) : d.HeldOrReset (d.rimAct railsOk) j := by
  have heval : d.Latching d.rimEval := d.rimEval_latching
  have hheld : d.rimEval.StartHolds j := heval.startHolds hj h
  unfold Dev.rimAct
  extract_lets e ok levels edm rim cleared
  refine .before heval ?_
  split
  · exact .inl (e.rimActivate_startHolds hj hheld)
  split
  · exact .inl hheld
  split
  · have hcounted : (cleared.inc 32 Par.rimResetsAccepted 0).get Par.rimResetsAccepted 0 = (e.get Par.rimResetsAccepted 0 + 1) % 2 ^ 32 := by
      rw [Dev.inc, Dev.get_put_same]
      exact Nat.mod_eq_of_lt (Nat.lt_of_lt_of_le (Nat.mod_lt _ (by decide)) (by decide))
    exact .inr ((Dev.rimRefresh_latching _ 0).accepted.trans hcounted)
  · exact (Dev.Latching.raise (.refl e)).heldOrReset hj hheld

theorem Dev.rstRelease_heldOrReset (d : Dev) (pressGap releaseGap : Option Nat) (railsOk : Bool) {j : Nat} (hj : j < 4) (h : d.StartHolds j) :
    d.HeldOrReset (d.rstRelease pressGap releaseGap railsOk) j := by
  unfold Dev.rstRelease
  split
  · exact .inl h
  · extract_lets dur rim released near
    have hreleased : d.Latching released := .upd (.refl d) rfl rfl rfl rfl
    split
    · exact (Dev.Latching.raise (.put hreleased rfl)).heldOrReset hj h
    split
    · have hpressed : d.Latching (released.inc 32 Par.rimResetPresses 0) := .put hreleased rfl
      exact .before hpressed (Dev.rimAct_heldOrReset _ railsOk hj (hpressed.startHolds hj h))
    · exact hreleased.heldOrReset hj h

/-! ## Windows -/

theorem Dev.winRoutes_latching (d : Dev) (w : Nat) : d.Latching (d.winRoutes w) := by
  unfold Dev.winRoutes
  extract_lets e
  have he : d.Latching e := .frame (.refl d) (d.tripLegs_frame _ _) rfl
  exact .ite (.refl d) (.ite (he.trans e.rimEval_latching) he)

theorem Dev.winRecalc_latching (d : Dev) (w : Nat) (counts : Bool) : d.Latching (d.winRecalc w counts) := by
  unfold Dev.winRecalc
  extract_lets now was e flagged raised f
  have he : d.Latching e := .put (.refl d) rfl
  have hraised : d.Latching raised := .raise (.put (.put (.put he rfl) rfl) rfl)
  have hblocked : d.Latching (raised.forL (bitsOf (raised.get Par.winRouteArm w) 24) (fun x j => x.armBlock j afWindow 0xFFFFFFFF)) :=
    hraised.trans (.forL (fun x j => (x.armBlock_frame _ _ _).latching rfl) _ _)
  have hf : d.Latching f := .ite hblocked he
  exact hf.trans (f.winRoutes_latching w)

theorem winComp_besideRim (comp : Nat) : (winComp comp).besideRim = true := by
  unfold winComp
  split <;> rfl

theorem Dev.winChange_latching (d : Dev) (w comp : Nat) (active : Bool) : d.Latching (d.winChange w comp active) := by
  unfold Dev.winChange
  extract_lets p st e
  have he : d.Latching e := .trans (.put (.refl d) (winComp_besideRim comp)) (Dev.winRecalc_latching _ w true)
  exact .ite (.refl d) (.ite (.frame (.frame he (e.windowTrig_frame w comp) rfl) (Dev.winTerminates_frame _ w comp) rfl) he)

theorem Dev.winUndet_latching (d : Dev) (w : Nat) : d.Latching (d.winUndet w) := .put (.put (.refl d) rfl) rfl

theorem Dev.winStart_latching (d : Dev) : d.Latching d.winStart :=
  .forN (fun x w => (x.winUndet_latching w).trans (Dev.winRecalc_latching _ w false)) 64 d

theorem Dev.winModes_latching (d : Dev) (was : Nat → Nat) : d.Latching (d.winModes was) := by
  refine .forN (fun x w => ?_) 64 d
  extract_lets y
  have hy : x.Latching y := .ite (x.winUndet_latching w) (.refl x)
  exact .ite hy (hy.trans (y.winRecalc_latching w true))

/-! ## Writes at the boundary -/

/-- A rule of single parameters only latches where it answers. -/
def Dev.LatchingO (d : Dev) (o : Option (Nat × Dev)) : Prop := ∀ r ∈ o, d.Latching r.2

theorem Dev.AgreeO.latchingO {cs : List Nat} {fs : List Fld} {d : Dev} {o : Option (Nat × Dev)} (h : d.AgreeO cs fs o)
    (hl : leavesRim cs fs = true) : d.LatchingO o := by
  rintro r rfl
  exact Dev.Agree.latching h hl

theorem Dev.LatchingO.ite {d : Dev} {x y : Option (Nat × Dev)} {c : Prop} [Decidable c] (h : c → d.LatchingO x) (g : ¬c → d.LatchingO y) :
    d.LatchingO (if c then x else y) := by
  split
  · exact h ‹_›
  · exact g ‹_›

theorem Dev.LatchingO.did {d e : Dev} (h : d.Latching e) : d.LatchingO (did e) := by
  rintro r ⟨⟩
  exact h

theorem Dev.LatchingO.no (d : Dev) (st : Nat) : d.LatchingO (no d st) := by
  rintro r ⟨⟩
  exact .refl d

theorem Dev.LatchingO.none (d : Dev) : d.LatchingO none := by
  rintro r ⟨⟩

theorem Dev.wImage_latchingO (d : Dev) (p : Par) (i v : Nat) : d.LatchingO (d.wImage p i v) := by
  unfold Dev.wImage
  refine .ite (fun hp => .did (.ite ?_ (.refl d))) fun _ => .ite (fun _ => .none d) fun _ => .ite (fun _ => .no d _) fun _ =>
    .ite (fun _ => .no d _) fun _ => .ite (fun _ => .no d _) fun _ => .did ((d.imgParWrite_frame p i v).latching rfl)
  subst hp
  exact .put (.refl d) rfl

/-- Writes of window rows evaluate the Rim (R274); those of ADC and SDI rows do not reach it. -/
theorem Dev.wAnalog_latchingO (d : Dev) (ts : Nat) {p : Par} (i v : Nat) (hp : p.besideRim = true) :
    d.LatchingO (d.wAnalog ts p i v) := by
  have hput : d.Latching (d.put p i v) := .put (.refl d) hp
  have hrestart : d.Latching ((d.put p i v).sdiRestart i) := .frame hput (Dev.sdiRestart_frame _ i) rfl
  unfold Dev.wAnalog
  refine .ite (fun _ => .did (.ite ((d.adcCalStart_frame i).latching rfl) (.refl d))) fun _ => ?_
  refine .ite (fun _ => .did (.ite hrestart hput)) fun _ => .ite (fun _ => .did hrestart) fun _ => ?_
  refine .ite (fun _ => .did (.ite (.put (.refl d) hp) (.refl d))) fun _ => ?_
  refine .ite (fun _ => .ite (fun _ => .did (.refl d)) fun _ => .ite (fun _ => .no d _) fun _ => .did ((d.readbackStart_frame i v).latching rfl)) fun _ => ?_
  refine .ite (fun _ => .did ?_) fun _ => .none d
  exact hput.trans ((Dev.winModes_latching _ _).trans (Dev.winRecalc_latching _ i true))

/-- The rule of a parameter's class only latches; class RIM has none. -/
theorem Dev.wRule_latchingO (d : Dev) (session tag ts : Nat) {p : Par} (i : Nat) (v : W64) (hp : p.small = true) (hn : rimHeld.contains p = false) :
    d.LatchingO (d.wRule session tag ts p i v) := by
  have group : ∀ {c : Nat} {cs : List Nat}, p.cls = c → c ≠ 2 → cs.contains c = true → cs.contains p.group = true := fun h hc hm => by
    rw [Par.group_of_cls h hc]
    exact hm
  have hfree : p.besideRim = true := by rw [Par.besideRim, hp, hn]; rfl
  unfold Dev.wRule
  extract_lets n
  refine .ite (fun _ => (d.wDev_frame _ _ _ _ _).latchingO rfl) fun _ => .ite (fun _ => d.wImage_latchingO _ _ _) fun _ => ?_
  refine .ite (fun h => (d.wSpoke_frame _ _ _ hp (group h (by decide) (by decide))).latchingO rfl) fun _ => ?_
  refine .ite (fun h => (d.wCell_frame _ _ _ hp (group h (by decide) (by decide))).latchingO rfl) fun _ => ?_
  refine .ite (fun h => (d.wArm_frame _ _ _ hp (group h (by decide) (by decide))).latchingO rfl) fun _ => ?_
  refine .ite (fun _ => .ite (fun _ => d.wImage_latchingO _ _ _) fun _ => (d.wCtx_frame _ _ _).latchingO rfl) fun _ => ?_
  refine .ite (fun h => (d.wGrid_frame _ _ _ hp (group h (by decide) (by decide))).latchingO rfl) fun _ => ?_
  refine .ite (fun h => (d.wIsld_frame _ _ _ _ hp (group h (by decide) (by decide))).latchingO rfl) fun _ => ?_
  refine .ite (fun h => (d.wPort_frame _ _ _ hp (group h (by decide) (by decide))).latchingO rfl) fun _ => ?_
  refine .ite (fun _ => (d.wLeg_frame _ _ _).latchingO rfl) fun _ => .ite (fun _ => d.wAnalog_latchingO ts i n hfree) fun _ => ?_
  refine .ite (fun h => (d.wMetr_frame _ _ _ hp (group h (by decide) (by decide))).latchingO rfl) fun _ => ?_
  refine .ite (fun _ => (d.wCap_frame _ _ _ _).latchingO rfl) fun _ => .ite (fun _ => (d.wTrig_frame _ _ _).latchingO rfl) fun _ => ?_
  refine .ite (fun h => (d.wWeave_frame _ _ hp (group h (by decide) (by decide))).latchingO rfl) fun _ => ?_
  refine .ite (fun _ => (d.wLink_frame _ _ _).latchingO rfl) fun _ => .ite (fun _ => (d.wRing_frame _ _ _).latchingO rfl) fun _ => ?_
  refine .ite (fun _ => (d.wPwr_frame _ _).latchingO rfl) fun _ => ?_
  refine .ite (fun h => (d.wHarv_frame _ _ hp (group h (by decide) (by decide))).latchingO rfl) fun _ => ?_
  exact .ite (fun _ => (d.wEvt_frame _ _ _ _).latchingO rfl) fun _ => .none d

/-- The parameters of the Rim are read-only (Table 15.6). -/
theorem rimHeld_readOnly {p : Par} (h : ¬((rowOf p).map PRow.acc).getD .ro = .ro) : rimHeld.contains p = false := by
  have hrows : ∀ q ∈ rimHeld, ((rowOf q).map PRow.acc).getD .ro = .ro := by decide
  exact Bool.eq_false_iff.mpr fun hp => h (hrows p (by simpa using hp))

theorem Dev.applyWrite_latching (d : Dev) (session tag ts obj idx : Nat) (v : W64) : d.Latching (d.applyWrite session tag ts obj idx v).2 := by
  unfold Dev.applyWrite
  extract_lets p i v
  split
  · exact .refl d
  next hrow =>
  obtain ⟨hsmall, -⟩ := rowOf_ok hrow
  have hfree := rimHeld_readOnly hrow
  cases hrule : d.wRule session tag ts p i v with
  | none => exact d.setRaw_latching i v (by rw [Par.besideRim, hsmall, hfree]; rfl)
  | some r => exact d.wRule_latchingO session tag ts i v hsmall hfree r hrule

/-- A bulk write of RIM.0 fills the record being written, and stages it at most (R344). -/
theorem Dev.applyBulk_latching (d : Dev) (obj off : Nat) (data : List Byte) : d.Latching (d.applyBulk obj off data).2 := by
  unfold Dev.applyBulk
  split
  · exact .refl d
  split
  · split
    · exact .refl d
    · exact (d.shadowWrite_frame _ _ _).latching rfl
  · extract_lets buf rim filled r st rim' emptied
    have hfilled : d.Latching filled := .upd (.refl d) rfl rfl rfl rfl
    have hemptied : d.Latching emptied := .upd hfilled rfl rfl rfl rfl
    split
    · exact hfilled
    split
    · exact hemptied.trans (emptied.rimStage_latching r)
    · exact hemptied

theorem Dev.applyEntries_latching (d : Dev) (sel : RegWrite → Bool) (m : Msg) : d.Latching (d.applyEntries sel m).2 := by
  refine List.foldlRecOn m.work _ (motive := fun acc : List RegWrite × Dev => d.Latching acc.2) (.refl d) ?_
  rintro ⟨done, e⟩ he w -
  dsimp only
  split
  · split
    · exact .frame he (e.burstReqWrite_frame _ _) rfl
    · exact he.trans (e.applyWrite_latching _ _ _ _ _ _)
  · exact he

theorem Dev.applyMsgs_latching (d : Dev) (sel : RegWrite → Bool) (bulk : Bool) (ms : List Msg) : d.Latching (d.applyMsgs sel bulk ms).2 := by
  refine List.foldlRecOn ms _ (motive := fun acc : List Msg × Dev => d.Latching acc.2) (.refl d) ?_
  rintro ⟨done, e⟩ he m -
  have hentries := he.trans (e.applyEntries_latching sel m)
  dsimp only
  split
  · exact hentries.trans (Dev.applyBulk_latching _ _ _ _)
  · exact hentries

theorem Dev.applyWrites_latching (d : Dev) : d.Latching d.applyWrites := by
  unfold Dev.applyWrites
  extract_lets ms host taken judged kept applied gridded burst moded answered hostAfter parked
  have htaken : d.Latching taken := .upd (.refl d) rfl rfl rfl rfl
  have happlied : d.Latching applied.2 := htaken.trans (taken.applyMsgs_latching _ true kept)
  have hgridded : d.Latching gridded.2 := .frame happlied (applied.2.applyGrid_frame applied.1) rfl
  have hburst : d.Latching burst.2 := hgridded.trans (gridded.2.applyMsgs_latching _ false gridded.1)
  have hmode : ∀ (e : Dev) (m : Msg), e.Latching (e.modeCommand m.code) := fun e m => (e.modeCommand_frame m.code).latching rfl
  have hanswer : ∀ (e : Dev) (m : Msg), e.Latching (e.answerMsg m) := fun e m => (e.answerMsg_frame m).latching rfl
  have hmoded : burst.2.Latching moded := .forL hmode _ _
  have hanswered : moded.Latching answered := .forL hanswer _ _
  have hparked : d.Latching parked := .upd (hburst.trans (hmoded.trans hanswered)) rfl rfl rfl rfl
  exact .frame hparked parked.sessionsFreed_frame rfl

/-! ## Resets and releases -/

/-- A read of a table of which the keys that `keep` picks are left. -/
theorem Tab.get_filter_keys {α : Type} (d : Nat → α) (keep : Nat → Bool) (t : Tab α) (k : Nat) :
    Tab.get d (t.filter (fun e => keep e.1)) k = if keep k then t.get d k else d k := by
  induction t with
  | nil => simp
  | cons e t ih =>
    by_cases hk : e.1 = k
    · subst hk
      cases hkeep : keep e.1 <;> simp [hkeep, Tab.get, ih]
    · cases hkeep : keep e.1 <;> simp [hkeep, Tab.get, ih, hk]

/-- What a warm reset clears is nothing of the Rim. -/
theorem Dev.cleared_warm_latching (d : Dev) (ph : Phase) : d.Latching (d.cleared ph true) := by
  have hkept : ∀ p ∈ rimHeld, keptKey true (parKey p 0) = true := by decide
  refine Dev.latching_of_raw rfl (fun p hp => (Tab.get_filter_keys _ _ _ _).trans ?_)
  rw [hkept p hp]
  rfl

theorem Dev.warmReset_latching (d : Dev) (cause : Nat) : d.Latching (d.warmReset cause) := by
  unfold Dev.warmReset
  extract_lets e f
  have he : d.Latching e := .ite ((d.metRecord_frame mcReset).latching rfl) (.refl d)
  exact .upd (he.trans (e.cleared_warm_latching .warm)) rfl rfl rfl rfl

theorem Dev.outOn_of_raw {d e : Dev} (h : e.raw Par.rimOutEnergised 0 = d.raw Par.rimOutEnergised 0) (j : Nat) : e.outOn j = d.outOn j := by
  simp only [Dev.outOn, Dev.get, h]

/-- No output is ENERGISED in a device that a cold reset, or the entry to DARK, has cleared. -/
theorem Dev.outOn_cleared_cold (d : Dev) (ph : Phase) (j : Nat) : (d.cleared ph false).outOn j = false := by
  have hcleared : keptKey false (parKey Par.rimOutEnergised 0) = false := by decide
  have hraw : (d.cleared ph false).raw Par.rimOutEnergised 0 = parDefault (parKey Par.rimOutEnergised 0) :=
    (Tab.get_filter_keys _ _ _ _).trans (if_neg (by simp [hcleared]))
  have hdefault : parDefault (parKey Par.rimOutEnergised 0) = 0 := by decide
  rw [Dev.outOn, Dev.get, hraw, hdefault]
  simp [bit]

theorem Dev.outOn_coldReset (d : Dev) (cause j : Nat) : (d.coldReset cause).outOn j = false := by
  have hstored : (d.coldReset cause).outOn j = ((d.cleared .held false).put Par.beatTimeState 0 tmAon).outOn j := Dev.outOn_of_raw rfl j
  rw [hstored, Dev.outOn_put _ _ _ _ (by decide), Dev.outOn_cleared_cold]

theorem Dev.outOn_islandLost (d : Dev) (j : Nat) : d.islandLost.outOn j = false := by
  have hraw : d.islandLost.raw Par.rimOutEnergised 0 = (d.coldReset rsAonPor).raw Par.rimOutEnergised 0 :=
    Tab.get_filter_keys _ (fun k => k / 65536 / 16777216 != 0xB1) _ (parKey Par.rimOutEnergised 0)
  rw [Dev.outOn_of_raw hraw, Dev.outOn_coldReset]

theorem Dev.outOn_darkEntry (d : Dev) {j : Nat} (h : d.outOn j = false) : d.darkEntry.outOn j = false := by
  unfold Dev.darkEntry
  split
  · exact h
  · extract_lets secs saved dark pwr
    have hdark : dark.outOn j = false :=
      ((Dev.outOn_put _ _ _ _ (by decide)).trans (Dev.outOn_put _ _ _ _ (by decide))).trans (saved.outOn_cleared_cold _ j)
    clear_value dark
    exact (Dev.outOn_of_raw rfl j).trans hdark

/-- The last part of a release, once the Rim runs: the metering record, the windows, the tally and the slot (R435). -/
theorem Dev.release_tail_latching (d : Dev) : d.Latching ((d.metLoad.winStart.tallyZero.tallyExtend 0 Config.bootRomDigest).reconcile.slotChoice) := by
  have hwindows : d.Latching d.metLoad.winStart := (d.metLoad_frame.latching rfl).trans (Dev.winStart_latching _)
  have htally : d.Latching (d.metLoad.winStart.tallyZero.tallyExtend 0 Config.bootRomDigest) :=
    .frame (.frame hwindows (Dev.tallyZero_frame _) rfl) (Dev.tallyExtend_frame _ _ _) rfl
  exact .frame (.frame htally (Dev.reconcile_frame _) rfl) (Dev.slotChoice_frame _) rfl

theorem Dev.release_started (d : Dev) (straps rimStraps : Nat) : (d.release false straps rimStraps).RimStarted := by
  unfold Dev.release
  extract_lets pwr rom counted supplied logged started zeroed
  have hstarted : started.RimStarted := by
    unfold started
    rw [if_neg Bool.false_ne_true]
    exact logged.rimStart_started
  exact started.release_tail_latching.rimStarted hstarted

theorem Dev.release_warm_latching (d : Dev) (straps rimStraps : Nat) : d.Latching (d.release true straps rimStraps) := by
  unfold Dev.release
  extract_lets pwr rom counted supplied logged started zeroed
  have hrom : d.Latching rom := .upd (.refl d) rfl rfl rfl rfl
  have hlogged : d.Latching logged := .raise (.put (.put (.put hrom rfl) rfl) rfl)
  exact hlogged.trans logged.release_tail_latching

/-! ## Start-up and power modes -/

theorem Tab.get_foldl_set_other {α : Type} [DecidableEq α] (d : Nat → α) {xs : List (Nat × α)} {k : Nat} (h : ∀ e ∈ xs, e.1 ≠ k) (t : Tab α) :
    Tab.get d (xs.foldl (fun (t : Tab α) (e : Nat × α) => Tab.set d t e.1 e.2) t) k = t.get d k :=
  List.foldlRecOn xs _ (motive := fun u : Tab α => u.get d k = t.get d k) rfl
    (fun u hu e he => (Tab.get_set_other d u e.1 k e.2 (h e he).symm).trans hu)

/-- Settings put in force are no parameters of the Rim (R427): those are read-only. -/
theorem Dev.putSettings_latching (d : Dev) (vals : Tab W64) (modeImg ctxImg : Tab Byte) : d.Latching (d.putSettings vals modeImg ctxImg) := by
  have hreport : ∀ p ∈ rimHeld, settingKey false (parKey p 0) = false := by decide
  refine Dev.latching_of_raw rfl (fun p hp => (Tab.get_foldl_set_other parDefault (fun e he hk => ?_) _).trans ?_)
  · obtain ⟨-, hsetting⟩ := List.mem_filter.mp he
    rw [hk, hreport p hp] at hsetting
    cases hsetting
  · rw [Tab.get_filter_keys _ (fun k => !settingKey false k), hreport p hp]
    rfl

theorem Dev.settingsCheck_latching (d : Dev) : d.Latching d.settingsCheck := by
  unfold Dev.settingsCheck
  extract_lets sch cur mine lid opened defaulted lid' checked tallied shown raised
  have hopened : d.Latching opened := .upd (.refl d) rfl rfl rfl rfl
  have hput : ∀ (vals : Tab W64) (modeImg ctxImg : Tab Byte), d.Latching (opened.putSettings vals modeImg ctxImg) :=
    fun _ _ _ => hopened.trans (opened.putSettings_latching _ _ _)
  have hdefaulted : d.Latching defaulted := .trans (.frame hopened (opened.tallyExtend_frame _ _) rfl) (Dev.putSettings_latching _ _ _ _)
  have hchecked : d.Latching checked := by
    unfold checked
    split
    · exact hopened
    split
    · split
      · rename_i r _ _
        have hretained := hput r.vals r.modeImg r.ctxImg
        exact .upd hretained rfl rfl rfl rfl
      · exact .upd hdefaulted rfl rfl rfl rfl
    · exact .upd hdefaulted rfl rfl rfl rfl
  have hshown : d.Latching shown := .put (.frame hchecked (checked.tallyExtend_frame _ _) rfl) rfl
  have hraised : d.Latching raised := .raise hshown
  exact .ite (.upd hraised rfl rfl rfl rfl) hshown

theorem Dev.firmwareStart_latching (d : Dev) : d.Latching d.firmwareStart := by
  unfold Dev.firmwareStart
  split
  · exact .refl d
  · extract_lets x tallied running named loaded o shown
    have hrunning : d.Latching running := .upd (.frame (.refl d) (d.tallyExtend_frame _ _) rfl) rfl rfl rfl rfl
    have hnamed : d.Latching named := .put (.put hrunning rfl) rfl
    have hchecked : d.Latching named.applyEarly.settingsCheck := .trans (.frame hnamed (Dev.applyEarly_frame _) rfl) (Dev.settingsCheck_latching _)
    have htallied : d.Latching named.applyEarly.settingsCheck.loadTables.tallyKeys :=
      .frame (.frame hchecked (Dev.loadTables_frame _) rfl) (Dev.tallyKeys_frame _) rfl
    have hloaded : d.Latching loaded := .frame htallied (Dev.energyRestore_frame _) rfl
    have hshown : d.Latching shown := .put hloaded rfl
    exact .ite (.raise hshown) hshown

theorem Dev.runEntry_latching (d : Dev) (ddr : Nat) : d.Latching (d.runEntry ddr) := by
  unfold Dev.runEntry
  extract_lets was running entered
  have hphase : d.Latching { d with phase := .run } := .upd (.refl d) rfl rfl rfl rfl
  have hrunning : d.Latching running := .put hphase rfl
  have hentered : d.Latching entered := .put (.frame hrunning (running.enterRun_frame ddr) rfl) rfl
  exact .ite (.refl d) (.frame (hentered.trans (entered.winModes_latching was)) (Dev.anchorBeat_frame _) rfl)

theorem Dev.wakeRun_latching (d : Dev) (ddr : Nat) : d.Latching (d.wakeRun ddr) := by
  unfold Dev.wakeRun
  extract_lets was running windows host told
  have hrunning : d.Latching running := .put (.refl d) rfl
  have hwindows : d.Latching windows := .trans (.frame hrunning (running.enterRun_frame ddr) rfl) (Dev.winModes_latching _ was)
  have htold : d.Latching told := .upd hwindows rfl rfl rfl rfl
  have hresume : told.Latching (told.forN 32 Dev.capResume) := .forN (fun x n => (x.capResume_frame n).latching rfl) 32 told
  exact .frame (htold.trans hresume) (Dev.actionsRun_frame _) rfl

theorem Dev.parkingComplete_latching (d : Dev) : d.Latching d.parkingComplete := by
  unfold Dev.parkingComplete
  split
  · exact .refl d
  · extract_lets was left stopped windows down dead sup pwr parked supplied raised waking
    have hleft : d.Latching left := .frame (.forN (fun x n => (x.capExit_frame n).latching rfl) 32 d) (Dev.weaveLeave_frame _) rfl
    have hstopped : left.Latching stopped := by
      refine .forN (fun x c => ?_) 128 left
      exact .put (.refl x) rfl
    have hwindows : d.Latching windows := .trans (.put (hleft.trans hstopped) rfl) (Dev.winModes_latching _ was)
    have hdown : d.Latching down := .frame (.frame hwindows (windows.linkDown_frame 0) rfl) (Dev.linkDown_frame _ 2) rfl
    clear_value down
    have hparked : d.Latching parked := .upd hdown rfl rfl rfl rfl
    have hsupplied : d.Latching supplied := .put (.put (.put hparked rfl) rfl) rfl
    have hraised : d.Latching raised := .raise hsupplied
    clear_value raised
    split
    · have hwaking : d.Latching { raised with pwr := { raised.pwr with wakeHeld := none } } := .upd hraised rfl rfl rfl rfl
      exact .frame hwaking (Dev.wake_frame _ _) rfl
    · exact hraised

/-! ## A beat, resets of firmware, messages of the weave -/

theorem Dev.beatClose_latching (d : Dev) : d.Latching d.beatClose := by
  unfold Dev.beatClose
  extract_lets lid snapped counted
  have hsnapped : d.Latching snapped := .upd (.refl d) rfl rfl rfl rfl
  have hcounted : d.Latching counted := .put hsnapped rfl
  exact .ite (hcounted.trans (counted.warmReset_latching _)) hcounted

theorem Dev.beat_latching (d : Dev) (x : Samples) (wake : Option Nat) : d.Latching (d.beat x wake) := by
  unfold Dev.beat
  split
  · exact .refl d
  · extract_lets anchored t ended started woken switched done
    have hanchored : d.Latching anchored := .ite (.frame (.refl d) d.anchorBeat_frame rfl) (.refl d)
    have hcounted : anchored.Latching (anchored.weaveEnd.beatCount x.ecc) :=
      .frame (.frame (.refl anchored) anchored.weaveEnd_frame rfl) (Dev.beatCount_frame _ _) rfl
    have hended : d.Latching ended := .frame (hanchored.trans (.ite hcounted (.refl anchored))) (Dev.nextBeat_frame _ t) rfl
    have hstarted : d.Latching started := .frame (hended.trans ended.applyWrites_latching) (Dev.nextBeat_frame _ t) rfl
    have hwoken : started.Latching woken := by
      unfold woken
      split
      · exact .ite (started.wakeRun_latching _) (.refl started)
      · exact .refl started
    have hswitched : d.Latching switched.2 := .frame (hstarted.trans hwoken) woken.switchTables_frame rfl
    have hdone : d.Latching done := .ite (.frame hswitched (Dev.beatFull_frame _ x _) rfl) (.frame hswitched (Dev.beatParked_frame _ _) rfl)
    exact .ite hended (hdone.trans done.beatClose_latching)

theorem Dev.activated_latching (d : Dev) : d.Latching d.activated := by
  have hverified : d.Latching d.activationVerified := d.activationVerified_frame.latching rfl
  exact .ite (hverified.trans (Dev.warmReset_latching _ _)) hverified

theorem Dev.svcReset_latching (d : Dev) : d.Latching d.svcReset := .ite (d.warmReset_latching _) (.refl d)

theorem Dev.watchdog_latching (d : Dev) : d.Latching d.watchdog := by
  unfold Dev.watchdog
  split
  · exact .refl d
  · extract_lets logged occ evt early
    have hlogged : d.Latching logged := .frame (.put (.refl d) rfl) (Dev.islandLog_frame _ _ _ _) rfl
    clear_value logged
    have hearly : d.Latching early := .upd hlogged rfl rfl rfl rfl
    exact hearly.trans (early.warmReset_latching _)

theorem Dev.warmRelease_latching (d : Dev) (straps rimStraps : Nat) : d.Latching (d.warmRelease straps rimStraps) :=
  .ite (d.release_warm_latching straps rimStraps) (.refl d)

theorem Dev.wrx_latching (d : Dev) (h : WHdr) (kind : Nat) (body : List Byte) {act : Dev → Dev} (hact : ∀ x : Dev, x.Latching (act x)) :
    d.Latching (d.wrx h kind body act) := by
  unfold Dev.wrx
  extract_lets p st dest src old weave seen marked forwarded
  have hforwarded : d.Latching forwarded := by
    have hmarked : d.Latching marked := .upd (.refl d) rfl rfl rfl rfl
    refine hmarked.trans (.ite (.forL (fun x q => ?_) _ marked) (.refl marked))
    exact (x.wForward_frame h kind body q).latching rfl
  refine .ite (.refl d) (.ite ((d.setWport_frame _ _).latching rfl) ?_)
  refine .ite (hact d) (.ite (.ite (.upd (.refl d) rfl rfl rfl rfl) (hforwarded.trans (hact _))) ?_)
  refine .ite (hact d) (.ite (.refl d) ?_)
  split
  · exact (d.wForward_frame h kind body _).latching rfl
  · exact .refl d

theorem Dev.mgmt_latching (d : Dev) (h : WHdr) (m : MgmtMsg) : d.Latching (d.mgmt h m) := by
  refine d.wrx_latching h wkMgmt (mgmtBytes m) (fun x => .ite (.refl x) ?_)
  split
  · exact (x.proxyBack_frame _ _ _).latching rfl
  · split
    · exact (x.weavePut_frame _ _ _).latching rfl
    next r hr =>
      have hsession : x.Latching r.2 := (Dev.AgreeO.latchingO (x.weaveSession_frame _ _ _) rfl) r hr
      exact .frame hsession (Dev.weaveRequest_frame _ _ _ _ _) rfl

theorem Dev.noteSubscribe_latching (d : Dev) (h : WHdr) (sigs : List Nat) : d.Latching (d.noteSubscribe h sigs) :=
  .ite ((d.takeSubscribe_frame _ _ _).latching rfl) (.refl d)

/-! ## What each command does to an output that START holds off -/

/-- From `d` to `e` an output that START holds off stays off, or a reset has been accepted. -/
def Dev.StaysOff (d e : Dev) : Prop :=
  ∀ j < 4, d.StartHolds j → e.outOn j = false ∨ e.get Par.rimResetsAccepted 0 = (d.get Par.rimResetsAccepted 0 + 1) % 2 ^ 32

theorem Dev.Latching.staysOff {d e : Dev} (h : d.Latching e) : d.StaysOff e := fun _ hj hd => .inl (h.startHolds hj hd).off

theorem Dev.StaysOff.of_off {d e : Dev} (h : ∀ j, e.outOn j = false) : d.StaysOff e := fun j _ _ => .inl (h j)

theorem Dev.RimStarted.staysOff {d e : Dev} (h : e.RimStarted) : d.StaysOff e := fun j hj _ => .inl (h.outputs j hj).1

theorem Dev.StaysOff.ite {a x y : Dev} {c : Prop} [Decidable c] (h : a.StaysOff x) (g : a.StaysOff y) : a.StaysOff (if c then x else y) := by
  split
  · exact h
  · exact g

theorem Dev.StaysOff.before {a d e : Dev} (h : a.Latching d) (g : d.StaysOff e) : a.StaysOff e := fun j hj ha => by
  rw [← h.accepted]
  exact g j hj (h.startHolds hj ha)

theorem Dev.StaysOff.settle {a d : Dev} (h : a.StaysOff d) (old : Dev) : a.StaysOff (d.settle old) := fun j hj ha => by
  have hget : ∀ p ∈ rimHeld, (d.settle old).get p 0 = d.get p 0 := fun p hp => by
    refine (d.settle_frame old).get p 0 (rimHeld_small hp) ?_
    revert p
    decide
  rw [Dev.outOn, hget _ (by decide), hget _ (by decide)]
  exact h j hj ha

theorem Dev.rimFiltered_staysOff (d : Dev) (c : Nat) : d.StaysOff (d.rimFiltered c) := fun _ hj hd => .inl (d.rimFiltered_startHolds c hj hd).off

theorem Dev.rstRelease_staysOff (d : Dev) (pressGap releaseGap : Option Nat) (railsOk : Bool) : d.StaysOff (d.rstRelease pressGap releaseGap railsOk) :=
  fun _ hj hd => (d.rstRelease_heldOrReset pressGap releaseGap railsOk hj hd).imp_left Dev.StartHolds.off

theorem Dev.porstLow_staysOff (d : Dev) : d.StaysOff d.porstLow := by
  unfold Dev.porstLow
  extract_lets pwr low
  have hlow : d.Latching low := .upd (.refl d) rfl rfl rfl rfl
  exact .ite hlow.staysOff (.of_off (low.outOn_coldReset rsPorst))

theorem Dev.brownOut_staysOff (d : Dev) (rail : Nat) : d.StaysOff (d.brownOut rail) := by
  unfold Dev.brownOut
  extract_lets used e
  have he : d.Latching e := .put (.refl d) rfl
  exact .ite he.staysOff (.ite (Dev.Latching.refl d).staysOff (.of_off (Dev.outOn_coldReset _ rsBrownout)))

theorem Dev.islandLost_staysOff (d : Dev) : d.StaysOff d.islandLost := .of_off d.outOn_islandLost

theorem Dev.darkEntry_staysOff (d : Dev) : d.StaysOff d.darkEntry := fun _ _ hd => .inl (d.outOn_darkEntry hd.off)

/-- The Rim starts at the release of PORSTn (R324). -/
theorem Dev.porstHigh_started (d : Dev) (straps rimStraps : Nat) (h : d.phase = .held ∧ d.pwr.island = true) :
    (d.porstHigh straps rimStraps).RimStarted := by
  rw [Dev.porstHigh, if_pos h]
  exact d.release_started straps rimStraps

theorem Dev.porstHigh_staysOff (d : Dev) (straps rimStraps : Nat) : d.StaysOff (d.porstHigh straps rimStraps) := by
  have hhigh : d.Latching { d with pwr := { d.pwr with porst := false } } := .upd (.refl d) rfl rfl rfl rfl
  exact .ite (d.release_started straps rimStraps).staysOff hhigh.staysOff

/-- The Rim starts at an exit from DARK (R324). -/
theorem Dev.darkRelease_started (d : Dev) (straps rimStraps : Nat) (h : d.phase = .dark ∧ d.pwr.exitCause.isSome = true ∧ (!d.pwr.porst) = true) :
    (d.darkRelease straps rimStraps).RimStarted := by
  rw [Dev.darkRelease, if_pos h]
  exact Dev.release_started _ straps rimStraps

theorem Dev.darkRelease_staysOff (d : Dev) (straps rimStraps : Nat) : d.StaysOff (d.darkRelease straps rimStraps) :=
  .ite (Dev.release_started _ straps rimStraps).staysOff (Dev.Latching.refl d).staysOff

theorem Dev.supplyLost_latching (d : Dev) : d.Latching { d.supplyLoss with pwr := { d.supplyLoss.pwr with auxLow := true } } := by
  have hlost : d.Latching d.supplyLoss := d.supplyLoss_frame.latching rfl
  exact .upd hlost rfl rfl rfl rfl

theorem Dev.gaspRearmed_latching (d : Dev) : d.Latching { d.gaspRearm with pwr := { d.pwr with auxLow := false } } := by
  have hrearmed : d.Latching d.gaspRearm := d.gaspRearm_frame.latching rfl
  exact .upd hrearmed rfl rfl rfl rfl

/-- A command takes the state on with its queue as it was, and an output that START holds off stays off unless a reset has been accepted. -/
def State.StaysOff (s : State) (o : Out) : Prop := ∃ t, o = .next t ∧ t.pending = s.pending ∧ s.dev.StaysOff t.dev

theorem State.does_staysOff (s : State) (t : Nat) {f : Dev → Dev} (h : ∀ d : Dev, d.StaysOff (f d)) : s.StaysOff (s.does t f) := by
  have htime : s.dev.Latching (s.dev.atTime t) := .upd (.refl s.dev) rfl rfl rfl rfl
  exact ⟨s.act t f, rfl, rfl, (Dev.StaysOff.before htime (h _)).settle _⟩

theorem State.does_of_latching (s : State) (t : Nat) {f : Dev → Dev} (h : ∀ d : Dev, d.Latching (f d)) : s.StaysOff (s.does t f) :=
  s.does_staysOff t fun d => (h d).staysOff

theorem State.on_of_latching (s : State) (t dom : Nat) {f : Dev → Dev} (h : ∀ d : Dev, d.Latching (f d)) : s.StaysOff (s.does t fun d => d.whenOn dom f) :=
  s.does_of_latching t (.whenOn h dom)

theorem State.host_staysOff (s : State) (h : Hdr) (m : HostMsg) : s.StaysOff (s.host h m) :=
  s.does_of_latching h.t fun d => (d.hostMsg_frame h m).latching rfl

theorem State.write_staysOff (s : State) (h : Hdr) (p : Par) (i : Nat) (v : W64) : s.StaysOff (s.write h p i v) :=
  s.does_of_latching h.t fun d => (d.writeOne_frame h p i v).latching rfl

theorem State.weave_of_latching (s : State) (h : WHdr) (kind : Nat) (body : List Byte) {f : Dev → Dev} (hf : ∀ d : Dev, d.Latching (f d)) :
    s.StaysOff (s.weave h kind body f) := s.does_of_latching h.t fun d => d.wrx_latching h kind body hf

/-- Every command: most only latch; cold resets, the entry to DARK and starts of the Rim leave no output ENERGISED; the end of a reset press may take
START from an output. -/
theorem exec_staysOff (c : Instr) (s : State) : s.StaysOff (exec c s) := by
  cases c with
  | tblCommit | tblAbort | beatGridWrite | gridTargetWrite | sampleNow | socSet | pSetWrite | burstRequest | burstAbort | portClear | portUnlock
    | legClear | adcCalibrate | winReadback | capRunStart | capRunStop | hostFire | trigArmWrite | tokenGive | spokeDiscover | spokeUnblock
    | cellBypassWrite | cellClearLockWrite | cellSerialRefWrite | cellSettingWrite | blockClear | recover | ringReset | retainedClear | resetReq
    | pwrRequestParked | pwrRequestRun | pwrRequestDark | evtRaise => exact s.write_staysOff _ _ _ _
  | rimConfigRecord | opn | close | heartbeat | finish | read | readImage | write | parameterWrite | bulkWrite | claim | release | modeRequest
    | stopTrip | stopLegs | abort | attest | updManifest | updChunk | updStatus | updCancel | updActivate | updConfirm | keyEnrol
    | keyRevoke => exact s.host_staysOff _ _
  | beatBoundary => exact s.does_of_latching _ fun d => d.beat_latching _ _
  | tableSyncDone => exact s.does_of_latching _ (.whenControl fun d => (d.syncDone_frame _).latching rfl)
  | tablePersist => exact s.does_of_latching _ (.whenControl fun d => d.persist_frame.latching rfl)
  | commitValidationDone => exact s.does_of_latching _ (.whenControl fun d => d.validated_frame.latching rfl)
  | computeWindowEnd => exact s.does_of_latching _ fun d => d.windowEnd_frame.latching rfl
  | finalStep => exact s.on_of_latching _ _ fun d => d.finalPass_frame.latching rfl
  | contextDeadline => exact s.on_of_latching _ _ fun d => (d.deadline_frame _).latching rfl
  | impedanceEstimate => exact s.on_of_latching _ _ fun d => .ite ((d.setIsl_frame _ _).latching rfl) ((d.isldEstimate_frame _).latching rfl)
  | svCycleComparison => exact s.on_of_latching _ _ fun d => .ite (.refl d) ((d.svCompare_frame _ _ _ _ _).latching rfl)
  | svStreamAbsent => exact s.does_of_latching _ fun d => (d.svAbsent_frame _).latching rfl
  | staggerSlot => exact s.on_of_latching _ _ fun d => d.staggerSlot_frame.latching rfl
  | openingDue => exact s.on_of_latching _ _ fun d => (d.portDue_frame _).latching rfl
  | openingEnd => exact s.on_of_latching _ _ fun d => (d.openingEnd_frame _).latching rfl
  | ditherPeriodEnd => exact s.on_of_latching _ _ fun d => (d.ditherEnd_frame _).latching rfl
  | storageEnergySave => exact s.does_of_latching _ (.whenUp fun d => d.energySave_frame.latching rfl)
  | burstEnd => exact s.on_of_latching _ _ fun d => (d.burstEnd_frame _).latching rfl
  | carrierUpdatePoint => exact s.on_of_latching _ _ fun d => (d.updatePoint_frame _ _).latching rfl
  | variableIntervalMax => exact s.on_of_latching _ _ fun d => (d.varMax_frame _).latching rfl
  | bootstrapRefresh => exact s.on_of_latching _ _ fun d => (d.refreshTimer_frame _).latching rfl
  | osierCalibration => exact s.on_of_latching _ _ fun d => (d.osierCal_frame _).latching rfl
  | legFaultInput => exact s.on_of_latching _ _ fun d => (d.faultInputs_frame _).latching rfl
  | legReadyHigh => exact s.on_of_latching _ _ fun d => (d.setLeg_frame _ _).latching rfl
  | legReadyLow => exact s.on_of_latching _ _ fun d => (d.readyLow_frame _).latching rfl
  | adcConversion => exact s.on_of_latching _ _ fun d => (d.adcConvert_frame _ _).latching rfl
  | adcCalibrationDone => exact s.on_of_latching _ _ fun d => (d.adcCalDone_frame _ _ _).latching rfl
  | sdiStuck => exact s.on_of_latching _ _ fun d => (d.sdiStuck_frame _).latching rfl
  | windowComparatorChange => exact s.does_of_latching _ fun d => d.winChange_latching _ _ _
  | readbackDone => exact s.on_of_latching _ _ fun d => (d.readbackDone_frame _ _).latching rfl
  | thresholdCheckPeriod => exact s.on_of_latching _ _ fun d => (d.checkPeriod_frame _).latching rfl
  | meterSample => exact s.does_of_latching _ fun d => (d.metSample_frame _ _).latching rfl
  | zeroCrossingTimeout => exact s.does_of_latching _ fun d => (d.metTimeout_frame _).latching rfl
  | meterCommit => exact s.does_of_latching _ fun d => d.metCommit_frame.latching rfl
  | supplyLoss => exact s.does_of_latching _ Dev.supplyLost_latching
  | lastGaspRearm => exact s.does_of_latching _ Dev.gaspRearmed_latching
  | blockFlush => exact s.does_of_latching _ fun d => (d.blockFlush_frame _).latching rfl
  | captureBlockDelivery => exact s.does_of_latching _ (.whenUp fun d => (d.deliverBlock_frame _).latching rfl)
  | ringCaptureComplete => exact s.on_of_latching _ _ fun d => (d.capComplete_frame _).latching rfl
  | holdoffEnd => exact s.on_of_latching _ _ fun d => (d.holdoffEnd_frame _).latching rfl
  | autoFire => exact s.on_of_latching _ _ fun d => (d.autoFire_frame _).latching rfl
  | fireWindowClose => exact s.on_of_latching _ _ fun d => (d.fireClose_frame _).latching rfl
  | rimInputChange => exact s.does_of_latching _ fun d => d.rimInput_latching _ _
  | rimInputFiltered => exact s.does_staysOff _ fun d => d.rimFiltered_staysOff _
  | discrepancyTimeout => exact s.does_of_latching _ fun d => d.discrepancy_latching _
  | testPulseStart => exact s.does_of_latching _ fun d => d.testStart_latching _
  | testPulseEnd => exact s.does_of_latching _ fun d => (d.testEnd_frame _).latching rfl
  | testLowDeadline => exact s.does_of_latching _ fun d => d.testDeadline_latching
  | testWindowClose => exact s.does_of_latching _ fun d => d.testClose_latching
  | offTest => exact s.does_of_latching _ fun d => d.offTest_latching _ _
  | offTestEnd => exact s.does_of_latching _ fun d => d.offTestEnd_latching _ _
  | outputReadbackMismatch => exact s.does_of_latching _ fun d => d.readbackMismatch_latching _ _
  | edmTimeout => exact s.does_of_latching _ fun d => d.edmTimeout_latching _
  | channelComparison => exact s.does_of_latching _ fun d => d.channelCompare_latching _
  | rimSupplyFault => exact s.does_of_latching _ fun d => d.rimSupply_latching
  | rimResetRelease => exact s.does_staysOff _ fun d => d.rstRelease_staysOff _ _ _
  | rimResetStuckTimeout => exact s.does_of_latching _ fun d => d.rstStuck_latching
  | weftBlockLock => exact s.does_of_latching _ fun d => (d.weftLock_frame _).latching rfl
  | weftLockLoss => exact s.does_of_latching _ fun d => (d.weftDown_frame _).latching rfl
  | weftRelockWait => exact s.does_of_latching _ fun d => (d.weftWaitEnd_frame _).latching rfl
  | weftPortMissedBeats => exact s.does_of_latching _ fun d => (d.weftMissed_frame _).latching rfl
  | ident => exact s.weave_of_latching _ _ _ fun d => (d.takeIdent_frame _ _ _ _ _ _).latching rfl
  | lsa => exact s.weave_of_latching _ _ _ fun d => (d.takeLsa_frame _ _).latching rfl
  | assign => exact s.weave_of_latching _ _ _ fun d => (d.takeAssign_frame _).latching rfl
  | beatPkt => exact s.weave_of_latching _ _ _ fun d => (d.takeBeatPkt_frame _ _).latching rfl
  | time => exact s.weave_of_latching _ _ _ fun d => (d.takeTime_frame _ _ _ _).latching rfl
  | signals => exact s.weave_of_latching _ _ _ fun d => (d.takeSignals_frame _ _).latching rfl
  | armCur => exact s.weave_of_latching _ _ _ fun d => (d.takeArmCur_frame _ _).latching rfl
  | ctxState => exact s.weave_of_latching _ _ _ fun d => (d.takeCtxState_frame _ _ _ _).latching rfl
  | telemRelay => exact s.weave_of_latching _ _ _ fun d => (d.telemRelay_frame _ _ _).latching rfl
  | ringReport => exact s.weave_of_latching _ _ _ fun d => (d.ringReport_frame _ _ _).latching rfl
  | fire => exact s.weave_of_latching _ _ _ fun d => (d.takeFire_frame _ _ _).latching rfl
  | armBlock => exact s.weave_of_latching _ _ _ fun d => (d.takeArmBlock_frame _ _).latching rfl
  | trigArm => exact s.weave_of_latching _ _ _ fun d => (d.takeTrigArm_frame _ _ _).latching rfl
  | mgmt => exact s.does_of_latching _ fun d => d.mgmt_latching _ _
  | codes => exact s.weave_of_latching _ _ _ fun d => (d.takeCodes_frame _ _).latching rfl
  | subscribe => exact s.does_of_latching _ fun d => (d.wrx_latching _ _ _ .refl).trans (Dev.noteSubscribe_latching _ _ _)
  | weavePeriodicSend => exact s.does_of_latching _ fun d => d.weavePeriodic_frame.latching rfl
  | duplexConfigTimeout => exact s.does_of_latching _ fun d => d.duplexTimeout_frame.latching rfl
  | partnerAbsent => exact s.does_of_latching _ fun d => d.partnerAbsent_frame.latching rfl
  | controlFrame => exact s.on_of_latching _ _ fun d => (d.rxControl_frame _ _ _).latching rfl
  | discoverFrame => exact s.on_of_latching _ _ fun d => (d.rxDiscover_frame _ _ _).latching rfl
  | rangeFrame => exact s.on_of_latching _ _ fun d => (d.rxRange_frame _ _ _ _).latching rfl
  | returnFrame => exact s.on_of_latching _ _ fun d => (d.rxReturn_frame _ _ _).latching rfl
  | spokeReceiverDead => exact s.on_of_latching _ _ fun d => (d.receiverDead_frame _).latching rfl
  | spokeReceiverLive => exact s.on_of_latching _ _ fun d => (d.receiverLive_frame _).latching rfl
  | discoveryComplete => exact s.on_of_latching _ _ fun d => (d.discComplete_frame _).latching rfl
  | cellLost => exact s.on_of_latching _ _ fun d => (d.cellLost_frame _).latching rfl
  | spokeSplit => exact s.on_of_latching _ _ fun d => (d.spokeSplit_frame _).latching rfl
  | spokeRejoined => exact s.on_of_latching _ _ fun d => (d.spokeRejoin_frame _).latching rfl
  | cellUnblockFail => exact s.on_of_latching _ _ fun d => (d.unblockFail_frame _).latching rfl
  | cellBypassFail => exact s.on_of_latching _ _ fun d => (d.bypassFail_frame _).latching rfl
  | ptpMessage => exact s.does_of_latching _ fun d => (d.ptpRx_frame _ _ _ _).latching rfl
  | timeLockLost => exact s.does_of_latching _ (.whenUp fun d => d.timeLost_frame.latching rfl)
  | holdoverLimit => exact s.does_of_latching _ (.whenUp fun d => d.holdoverLimit_frame.latching rfl)
  | clkFail => exact s.does_of_latching _ fun d => (d.clkFail_frame _).latching rfl
  | clockDomainLocked => exact s.does_of_latching _ fun d => (d.clkLocked_frame _).latching rfl
  | supLockstep => exact s.does_of_latching _ fun d => (d.lockstep_frame _).latching rfl
  | memUncorr => exact s.does_of_latching _ fun d => (d.memUncorr_frame _).latching rfl
  | hello => exact s.does_of_latching _ fun d => (d.hello_frame _ _ _ _).latching rfl
  | stopRegisterWrite => exact s.does_of_latching _ fun d => (d.stopRegister_frame _).latching rfl
  | proxy => exact s.does_of_latching _ fun d => (d.hostMsgIn_frame _ _ _ _).latching rfl
  | ringDoorbell => exact s.does_of_latching _ fun d => (d.doorbell_frame _ _).latching rfl
  | ringTailWrite => exact s.does_of_latching _ fun d => (d.tailWrite_frame _ _).latching rfl
  | heartbeatSend => exact s.does_of_latching _ fun d => d.heartbeats_frame.latching rfl
  | sessionTimeout => exact s.does_of_latching _ fun d => (d.sessionTimeout_frame _).latching rfl
  | handshakeTimeout => exact s.does_of_latching _ fun d => (d.handshakeTimeout_frame _).latching rfl
  | linkLoss => exact s.does_of_latching _ (.whenUp fun d => (d.linkDown_frame _).latching rfl)
  | interruptCoalesce => exact s.does_of_latching _ (.whenUp fun d => (d.coalesce_frame _).latching rfl)
  | svFrame => exact s.does_of_latching _ fun d => (d.svFrame_frame _ _ _ _ _ _ _ _).latching rfl
  | reassemblyTimeout => exact s.does_of_latching _ fun d => (d.reassemblyTimeout_frame _ _).latching rfl
  | supervisionFrame => exact s.does_of_latching _ fun d => d.supervision_frame.latching rfl
  | chunkMarked => exact s.does_of_latching _ (.whenService fun d => (d.chunkMarked_frame _).latching rfl)
  | activationVerified => exact s.does_of_latching _ (.whenService fun d => d.activated_latching)
  | autoConfirm => exact s.does_of_latching _ (.whenUp (.whenService fun d => d.autoConfirm_frame.latching rfl))
  | trialWindowExpiry => exact s.does_of_latching _ (.whenUp (.whenService fun d => d.trialExpiry_frame.latching rfl))
  | ownershipLapse => exact s.does_of_latching _ (.whenService fun d => d.ownershipLapse_frame.latching rfl)
  | porstnAssert => exact s.does_staysOff _ Dev.porstLow_staysOff
  | porstnRelease => exact s.does_staysOff _ fun d => d.porstHigh_staysOff _ _
  | brownOut => exact s.does_staysOff _ fun d => d.brownOut_staysOff _
  | serviceReset => exact s.does_of_latching _ fun d => d.svcReset_latching
  | svcRstStuckTimeout => exact s.does_of_latching _ fun d => d.svcStuck_frame.latching rfl
  | watchdogExpiry => exact s.does_of_latching _ fun d => d.watchdog_latching
  | warmResetRelease => exact s.does_of_latching _ fun d => d.warmRelease_latching _ _
  | bootLoaderStart => exact s.does_of_latching _ fun d => d.loaderStart_frame.latching rfl
  | firmwareStart => exact s.does_of_latching _ fun d => d.firmwareStart_latching
  | runEntry => exact s.does_of_latching _ fun d => d.runEntry_latching _
  | autoPark => exact s.does_of_latching _ fun d => d.autoPark_frame.latching rfl
  | parkingComplete => exact s.does_of_latching _ fun d => d.parkingComplete_latching
  | wakePin => exact s.does_of_latching _ fun d => d.wakePin_frame.latching rfl
  | parkTimerWake => exact s.does_of_latching _ fun d => d.parkTimer_frame.latching rfl
  | wakeComplete => exact s.does_of_latching _ fun d => .ite (d.beat_latching _ _) (.refl d)
  | darkEntryComplete => exact s.does_staysOff _ Dev.darkEntry_staysOff
  | auxFailHigh => exact s.does_of_latching _ fun d => d.auxHigh_frame.latching rfl
  | darkAlarm => exact s.does_of_latching _ fun d => d.darkAlarm_frame.latching rfl
  | darkExitRelease => exact s.does_staysOff _ fun d => d.darkRelease_staysOff _ _
  | tamperChange => exact s.does_of_latching _ fun d => (d.tamperChange_frame _).latching rfl
  | temperatureLog => exact s.does_of_latching _ fun d => (d.tempLog_frame _ _).latching rfl
  | harvPgChange => exact s.does_of_latching _ fun d => (d.pgChange_frame _ _).latching rfl
  | controlledStageStart => exact s.does_of_latching _ fun d => (d.harvControlled_frame _).latching rfl
  | coldStartReturn => exact s.does_of_latching _ fun d => (d.harvCold_frame _).latching rfl
  | vstoreFull => exact s.does_of_latching _ fun d => (d.harvFull_frame _).latching rfl
  | vstoreResume => exact s.does_of_latching _ fun d => (d.harvResume_frame _).latching rfl
  | harvesterVocSample => exact s.does_of_latching _ fun d => (d.harvSample_frame _ _ _).latching rfl
  | islandSourceChange => exact s.does_of_latching _ fun d => (d.islandSource_frame _).latching rfl
  | islandSourcesLost => exact s.does_staysOff _ Dev.islandLost_staysOff
  | islandPowerOn => exact s.does_of_latching _ fun d => (d.islandStart_frame _ _ _).latching rfl
  | eventLogAppend => exact s.does_of_latching _ fun d => d.logNext_frame.latching rfl
  | eventRecordDelivery => exact s.does_of_latching _ fun d => d.deliverEvents_frame.latching rfl
  | deliverySecond => exact s.does_of_latching _ fun d => .upd (.refl d) rfl rfl rfl rfl
  | supervisorPairRestarted => exact s.does_of_latching _ fun d => (d.pairRestarted_frame _).latching rfl
  | rollbackFusesBlown => exact s.does_of_latching _ (.whenService fun d => d.fusesBlown_frame.latching rfl)
  | linkUp => exact s.does_of_latching _ fun d => (d.linkUp_frame _ _ _).latching rfl
  | sdiDecimatedSample => exact s.on_of_latching _ _ fun d => .frame (.frame (.refl d) (d.sdiBits_frame _ _) rfl) (Dev.sdiDecimated_frame _ _) rfl
  | gateLEdge => exact s.on_of_latching _ _ fun d => (d.legEdge_frame _).latching rfl
  | rimResetPressStart => exact s.does_of_latching _ fun d => d.rstPress_latching _
  | serviceResetPressStart => exact s.does_of_latching _ fun d => (d.svcPress_frame _).latching rfl
  | weaveTimeRegisterRead => exact s.does_of_latching _ fun d => d.timeRegisterRead_frame.latching rfl
  | arpNeighbourOrEcho => exact s.does_of_latching _ fun d => (d.echo_frame _ _ _ _).latching rfl
  | hsrRingForward => exact s.does_of_latching _ fun d => (d.hsrForward_frame _ _ _ _).latching rfl

end Sys2Proof.Machine

open Sys2Proof Sys2Proof.Machine

/-- Settles O60: at a start every used output is LATCHED by START before the latches are taken over, so none comes on; and of all commands only the
end of a reset press takes START from an output, counting the reset as it does. -/
theorem rimStarts : Obligations.RimStarts := by
  unfold Obligations.RimStarts
  refine ⟨fun t straps rimStraps s hheld hisland => ?_, fun t straps rimStraps s hdark hcause hporst => ?_, fun c s j hj hstart hoff => ?_⟩
  · have hstarted := (s.dev.atTime t).porstHigh_started straps.toNat rimStraps.toNat ⟨hheld, hisland⟩
    obtain ⟨hrun, hundet, houts⟩ := ((Dev.settle_frame _ (s.dev.atTime t)).latching rfl).rimStarted hstarted
    exact ⟨_, rfl, rfl, hrun, hundet, houts⟩
  · have hstarted := (s.dev.atTime t).darkRelease_started straps.toNat rimStraps.toNat ⟨hdark, hcause, congrArg not hporst⟩
    obtain ⟨hrun, hundet, houts⟩ := ((Dev.settle_frame _ (s.dev.atTime t)).latching rfl).rimStarted hstarted
    exact ⟨_, rfl, rfl, hrun, hundet, houts⟩
  · obtain ⟨t, hnext, hpending, hstays⟩ := exec_staysOff c s
    exact ⟨t, hnext, hpending, hstays j hj ⟨hstart, hoff⟩⟩

end

section
/-! SUPPORT and PROOF. Repeated requests (R384): what a message put into the response ring of a session on PCIe changes, how a request gets in by its
command ring, and the stored response of a repeated one. -/

namespace Sys2Proof.Machine

/-! ## What is stored -/

theorem length_lastN {α : Type} (n : Nat) (xs : List α) : (lastN n xs).length = min n xs.length := by
  simp only [lastN, List.length_drop]
  omega

/-- A response to a request that none of the list answers stands last in it, and the list keeps its last 16. -/
theorem storeResp_of_new {xs : List Stored} {op tag ts : Nat} {m : List Byte} (h : ∀ y ∈ xs, y.op = op → y.tag = tag → y.ts ≠ ts) :
    storeResp xs op tag ts m = lastN 16 (xs ++ [{ op := op, tag := tag, ts := ts, resp := [m] }]) := by
  have hnone : xs.find? (fun x => x.op == op && x.tag == tag && x.ts == ts) = none := by simpa using h
  rw [storeResp, hnone]

/-! ## What the host side holds -/

theorem Dev.sess_of_host {d e : Dev} (h : e.host = d.host) (k : Nat) : e.sess k = d.sess k := by simp only [Dev.sess, h]

theorem Dev.ring_of_host {d e : Dev} (h : e.host = d.host) (n : Nat) : e.ring n = d.ring n := by simp only [Dev.ring, h]

/-- What follows a command leaves the host side alone. -/
theorem Dev.settle_host (d old : Dev) : (d.settle old).host = d.host := (d.settle_frame old).2 .host (by decide)

/-! ## A session heard and answered -/

/-- From `d` to `e` no session but `s` has been heard, and nothing is registered, claimed or asked for: of session `s` the time of its last message may
change, beside the host side only the parameters of links and rings do. -/
structure Dev.HeardOnly (d e : Dev) (s : Nat) : Prop where
  frame : d.Agree [0x90, 0x91] [.host] e
  msgs : e.host.msgs = d.host.msgs
  claims : e.host.claims = d.host.claims
  ops : e.host.ops = d.host.ops
  modeReq : e.host.modeReq = d.host.modeReq
  session : e.sess s = { d.sess s with lastMsg := (e.sess s).lastMsg }
  others : ∀ k, k ≠ s → e.sess k = d.sess k

/-- Beside that, `ms` have been put into the response ring of session `s`, with at most `k` more of its slots in use. -/
structure Dev.Sent (d e : Dev) (s k : Nat) (ms : List (List Byte)) : Prop extends d.HeardOnly e s where
  slots : (e.ring (16 + s)).slots = (d.ring (16 + s)).slots ++ ms
  waiting : (e.ring (16 + s)).waiting = (d.ring (16 + s)).waiting
  state : e.get Par.ringState (16 + s) = d.get Par.ringState (16 + s)
  depth : e.get Par.ringDepth (16 + s) = d.get Par.ringDepth (16 + s)
  used : e.ringUsed (16 + s) ≤ d.ringUsed (16 + s) + k

theorem Dev.HeardOnly.trans {a b c : Dev} {s : Nat} (h : a.HeardOnly b s) (g : b.HeardOnly c s) : a.HeardOnly c s where
  frame := h.frame.trans g.frame
  msgs := g.msgs.trans h.msgs
  claims := g.claims.trans h.claims
  ops := g.ops.trans h.ops
  modeReq := g.modeReq.trans h.modeReq
  session := by
    conv_lhs => rw [g.session, h.session]
  others k hk := (g.others k hk).trans (h.others k hk)

theorem Dev.Sent.trans {a b c : Dev} {s j k : Nat} {ms ns : List (List Byte)} (h : a.Sent b s j ms) (g : b.Sent c s k ns) :
    a.Sent c s (j + k) (ms ++ ns) where
  toHeardOnly := h.toHeardOnly.trans g.toHeardOnly
  slots := by rw [g.slots, h.slots, List.append_assoc]
  waiting := g.waiting.trans h.waiting
  state := g.state.trans h.state
  depth := g.depth.trans h.depth
  used := by
    have hab := h.used
    have hbc := g.used
    omega

/-! ## Single updates -/

/-- An update of the host side that leaves the sessions alone and registers nothing. -/
theorem Dev.Agree.heardOnly {d e : Dev} {s : Nat} (h : d.Agree [] [.host] e) (hsess : e.host.sess = d.host.sess) (hmsgs : e.host.msgs = d.host.msgs)
    (hclaims : e.host.claims = d.host.claims) (hops : e.host.ops = d.host.ops) (hmode : e.host.modeReq = d.host.modeReq) : d.HeardOnly e s := by
  have hkeep : ∀ k, e.sess k = d.sess k := fun k => by simp only [Dev.sess, hsess]
  exact ⟨h.mono (by decide) (by decide), hmsgs, hclaims, hops, hmode, by rw [hkeep], fun k _ => hkeep k⟩

/-- The parameters of a response ring that say whether it takes a message. -/
def ringRead : List Par := [Par.ringHead, Par.ringTail, Par.ringState, Par.ringDepth]

theorem ringRead_small {p : Par} (hp : p ∈ ringRead) : p.small = true := by
  revert p
  decide

/-- An operation that leaves the response ring alone. -/
theorem Dev.HeardOnly.sent {d e : Dev} {s : Nat} (h : d.HeardOnly e s) (hring : e.ring (16 + s) = d.ring (16 + s))
    (hget : ∀ q ∈ ringRead, e.get q (16 + s) = d.get q (16 + s)) : d.Sent e s 0 [] where
  toHeardOnly := h
  slots := by rw [hring, List.append_nil]
  waiting := by rw [hring]
  state := hget _ (by decide)
  depth := hget _ (by decide)
  used := by
    rw [Dev.ringUsed, Dev.ringUsed, hget _ (by decide), hget _ (by decide)]
    exact Nat.le_add_right _ _

theorem Dev.Sent.refl (d : Dev) (s : Nat) : d.Sent d s 0 [] :=
  (Dev.Agree.refl.heardOnly rfl rfl rfl rfl rfl).sent rfl (fun _ _ => rfl)

theorem Dev.inc_heardOnly (d : Dev) (s : Nat) {w i : Nat} {p : Par} (hp : p.small = true) (hc : [0x90, 0x91].contains p.group = true) :
    d.HeardOnly (d.inc w p i) s := ⟨.inc hp hc .refl, rfl, rfl, rfl, rfl, rfl, fun _ _ => rfl⟩

/-- A counter of links or rings that is none of these of the response ring. -/
theorem Dev.inc_sent (d : Dev) (s : Nat) {w i : Nat} {p : Par} (hp : p.small = true) (hc : [0x90, 0x91].contains p.group = true)
    (hi : p ∈ ringRead → i ≠ 16 + s) : d.Sent (d.inc w p i) s 0 [] := by
  refine (d.inc_heardOnly s hp hc).sent rfl (fun q hq => ?_)
  by_cases hqp : q = p
  · subst hqp
    exact d.get_put_inst _ hp (hi hq).symm
  · exact d.get_put_apart _ _ _ (by simp [Par.apart, hqp, ringRead_small hq, hp])

/-- The head of the response ring moves on by one. -/
theorem Dev.inc_head_sent (d : Dev) (s : Nat) : d.Sent (d.inc 32 Par.ringHead (16 + s)) s 1 [] where
  toHeardOnly := d.inc_heardOnly s (by decide) (by decide)
  slots := (List.append_nil _).symm
  waiting := rfl
  state := d.get_put_apart _ _ _ (by decide)
  depth := d.get_put_apart _ _ _ (by decide)
  used := by
    have htail : (d.inc 32 Par.ringHead (16 + s)).get Par.ringTail (16 + s) = d.get Par.ringTail (16 + s) := d.get_put_apart _ _ _ (by decide)
    have hhead : (d.inc 32 Par.ringHead (16 + s)).get Par.ringHead (16 + s) = (d.get Par.ringHead (16 + s) + 1) % 2 ^ 32 % 2 ^ 64 :=
      d.get_put_same _ _ _
    rw [Dev.ringUsed, Dev.ringUsed, htail, hhead]
    omega

theorem Dev.slotPut_sent (d : Dev) (s n i : Nat) (m r : List Byte) : d.Sent (d.slotPut n i m r) s 0 [] := by
  unfold Dev.slotPut
  split
  · exact .refl d s
  · exact Dev.HeardOnly.sent (Dev.Agree.heardOnly (.upd_host rfl .refl) rfl rfl rfl rfl rfl) rfl (fun _ _ => rfl)

theorem Dev.msixRaise_sent (d : Dev) (s v : Nat) : d.Sent (d.msixRaise v) s 0 [] :=
  ((d.msixRaise_frame v).heardOnly rfl rfl rfl rfl rfl).sent rfl (fun _ _ => rfl)

theorem Dev.setRing_heardOnly (d : Dev) (s n : Nat) (x : RingSt) : d.HeardOnly (d.setRing n x) s :=
  (d.setRing_frame n x).heardOnly rfl rfl rfl rfl rfl

theorem Dev.setRing_sent {s n : Nat} (d : Dev) (x : RingSt) (hn : n ≠ 16 + s) : d.Sent (d.setRing n x) s 0 [] :=
  (d.setRing_heardOnly s n x).sent (d.ring_setRing_other n (16 + s) x hn.symm) (fun _ _ => rfl)

/-- A message enters the slots of the response ring. -/
theorem Dev.setRing_slots_sent (d : Dev) (s : Nat) (m : List Byte) (u : Option Nat) :
    d.Sent (d.setRing (16 + s) { d.ring (16 + s) with slots := (d.ring (16 + s)).slots ++ [m], unsignalled := u }) s 0 [m] where
  toHeardOnly := d.setRing_heardOnly s _ _
  slots := by rw [Dev.ring_setRing_same]
  waiting := by rw [Dev.ring_setRing_same]
  state := rfl
  depth := rfl
  used := Nat.le_add_right _ _

/-- The time of a session's last message is noted (R396). -/
theorem Dev.setSess_lastMsg_sent (d : Dev) (s t : Nat) : d.Sent (d.setSess s { d.sess s with lastMsg := t }) s 0 [] :=
  Dev.HeardOnly.sent ⟨(d.setSess_frame _ _).mono (by decide) (by decide), rfl, rfl, rfl, rfl, by simp, fun k hk => d.sess_setSess_other s k _ hk⟩
    rfl (fun _ _ => rfl)

/-! ## Rings -/

/-- A slot of a command ring is taken (R388). -/
theorem Dev.ringTake_sent (d : Dev) {s n : Nat} (m : List Byte × List Byte) (hn : n ≠ 16 + s) : d.Sent (d.ringTake n m) s 0 [] := by
  unfold Dev.ringTake
  extract_lets tail put r read headed
  have hread : d.Sent read s 0 [] := (d.slotPut_sent s n tail m.1 m.2).trans (put.setRing_sent _ hn)
  have hheaded : read.Sent headed s 0 [] := by
    unfold headed
    split
    · exact read.inc_sent s (by decide) (by decide) (fun _ => hn)
    · exact .refl read s
  exact (hread.trans hheaded).trans (headed.inc_sent s (by decide) (by decide) (fun _ => hn))

/-- One message put into the response ring of a session on PCIe (R389). -/
theorem Dev.ringPut_sent (d : Dev) {s : Nat} (m : List Byte) (hs : s < 16) (hlink : (d.sess s).link = 0) :
    d.Sent (d.ringPut (16 + s) m) s 1 [m] := by
  have hsession : d.ringSession (16 + s) = s := by
    unfold Dev.ringSession
    rw [if_neg (by omega), if_pos (by omega), Nat.add_sub_cancel_left]
  unfold Dev.ringPut
  extract_lets t eth wasEmpty put x tailed noted host vector r counted
  have heth : ¬eth = true := by simp [eth, t, hsession, hlink]
  have hput : d.Sent put s 1 [] :=
    ((d.slotPut_sent s _ _ m []).trans (Dev.inc_head_sent _ s)).trans (Dev.inc_sent _ s (by decide) (by decide) (fun hp => absurd hp (by decide)))
  have hcounted : d.Sent counted s 1 [] := hput.trans (put.inc_sent s (by decide) (by decide) (fun hp => absurd hp (by decide)))
  have hr : r = counted.ring (16 + s) := (Dev.ring_of_host (put.inc_host ..) _).symm
  have hslots : ∀ u, d.Sent (counted.setRing (16 + s) { r with slots := r.slots ++ [m], unsignalled := u }) s 1 [m] := fun u => by
    rw [hr]
    exact hcounted.trans (counted.setRing_slots_sent s m u)
  rw [if_neg heth]
  split
  · exact hslots _
  · split
    · exact (hslots _).trans (Dev.msixRaise_sent _ s _)
    · exact hslots _

/-! ## Responses sent -/

/-- The response ring of a session on PCIe is served: a message goes into it as soon as it has room (R388, R391). -/
structure Dev.Serves (d : Dev) (s : Nat) : Prop where
  ring : s < 16
  isOpen : (d.sess s).isOpen = true
  pcie : (d.sess s).link = 0
  state : d.get Par.ringState (16 + s) ≠ 2
  waiting : (d.ring (16 + s)).waiting = []

theorem Dev.Sent.serves {d e : Dev} {s k : Nat} {ms : List (List Byte)} (h : d.Sent e s k ms) (g : d.Serves s) : e.Serves s where
  ring := g.ring
  isOpen := by
    rw [h.session]
    exact g.isOpen
  pcie := by
    rw [h.session]
    exact g.pcie
  state := h.state ▸ g.state
  waiting := h.waiting.trans g.waiting

theorem Dev.sendTo_sent {d : Dev} {s : Nat} (m : List Byte) (g : d.Serves s) (hroom : d.ringUsed (16 + s) < d.get Par.ringDepth (16 + s)) :
    d.Sent (d.sendTo s m) s 1 [m] := by
  have hsend : d.sendTo s m = d.ringPut (16 + s) m := by
    simp [Dev.sendTo, Dev.ringPush, Dev.ringFull, g.ring, g.isOpen, g.state, g.waiting, hroom]
  exact hsend ▸ d.ringPut_sent m g.ring g.pcie

/-- Messages for which the response ring has room all go into it, in their order. -/
theorem Dev.sendAll_sent {s : Nat} (ms : List (List Byte)) {d : Dev} (g : d.Serves s)
    (hroom : d.ringUsed (16 + s) + ms.length ≤ d.get Par.ringDepth (16 + s)) : d.Sent (d.forL ms (fun d r => d.sendTo s r)) s ms.length ms := by
  induction ms generalizing d with
  | nil => exact .refl d s
  | cons m ms ih =>
    rw [List.length_cons] at hroom ⊢
    have hfirst := Dev.sendTo_sent m g (by omega)
    have hused := hfirst.used
    have hrest := ih (hfirst.serves g) (by rw [hfirst.depth]; omega)
    exact Nat.add_comm 1 ms.length ▸ hfirst.trans hrest

/-! ## A repeated request -/

/-- A request of a session on PCIe gets in by its command ring: firmware and the service pair run, the link is up, no seal is asked for, its slot can be
read, and its response ring has room (R28, R388, R391, R399). -/
structure Dev.Admits (d : Dev) (h : Hdr) : Prop extends d.Serves h.session.val where
  run : d.phase = .run
  pair : d.pairHalted 1 = false
  linkUp : d.linkIsUp 0 = true
  unsealed : h.sealed = none
  sealFree : d.isOn Par.linkSealRequired 0 = false
  command : d.get Par.ringState h.session.val ≠ 2
  readable : d.slotBad h.session.val = false
  room : d.ringFull (16 + h.session.val) = false

/-- The device with the request taken from its slot, and counted. -/
def Dev.gated (d : Dev) (h : Hdr) (m : HostMsg) : Dev := (d.ringTake h.session.val (d.msgSlot h m)).inc 64 Par.linkRxFrames 0

theorem Dev.gated_sent (d : Dev) (h : Hdr) (m : HostMsg) : d.Sent (d.gated h m) h.session.val 0 [] :=
  (d.ringTake_sent _ (by omega)).trans (Dev.inc_sent _ _ (by decide) (by decide) (fun hp => absurd hp (by decide)))

theorem Dev.gate_of_admits {d : Dev} {h : Hdr} (g : d.Admits h) (m : HostMsg) : d.gate h h.session.val m = (.take, d.gated h m) := by
  have hseal : (d.gated h m).isOn Par.linkSealRequired 0 = false := by
    have hcounted : (d.gated h m).get Par.linkSealRequired 0 = (d.ringTake h.session.val (d.msgSlot h m)).get Par.linkSealRequired 0 :=
      Dev.get_put_apart _ _ _ _ (by decide)
    rw [Dev.isOn, hcounted, (d.ringTake_frame _ _).get _ _ (by decide) (by decide)]
    exact g.sealFree
  unfold Dev.gated at hseal ⊢
  simp [Dev.gate, g.pair, g.isOpen, g.pcie, g.linkUp, g.command, g.room, g.waiting, g.readable, g.unsealed, hseal]

theorem Dev.hostMsg_of_admits {d : Dev} {h : Hdr} (g : d.Admits h) (m : HostMsg) :
    d.hostMsg h m = (d.gated h m).takeMsg h.session.val h.tag.toNat h.shadow false 72 m := by
  have hopen : ((d.gated h m).sess h.session.val).isOpen = true := ((d.gated_sent h m).serves g.toServes).isOpen
  simp [Dev.hostMsg, Dev.hostMsgIn, Dev.up, g.run, d.gate_of_admits g, hopen, g.unsealed]

/-- Whatever its link, a session's request with a stored response of the last 10 s is answered by that alone (R384). -/
theorem Dev.takeMsg_of_replay {d : Dev} {s tag : Nat} {m : HostMsg} {x : Stored} (shadow sealed' : Bool) (back : Nat)
    (hx : d.replay s m.opcode tag = some x) :
    d.takeMsg s tag shadow sealed' back m = (d.setSess s { d.sess s with lastMsg := d.now }).forL x.resp (fun d r => d.sendTo s r) := by
  have hnoted : (d.setSess s { d.sess s with lastMsg := d.now }).replay s m.opcode tag = some x := by
    rw [← hx, Dev.replay, Dev.replay, Dev.sess_setSess_same, Dev.setSess_now]
  rw [Dev.takeMsg, hnoted]

/-- A repeated request is answered by its stored response, in the response ring. -/
theorem Dev.hostMsg_sent_of_replay {d : Dev} {h : Hdr} {m : HostMsg} {x : Stored} (g : d.Admits h)
    (hroom : d.ringUsed (16 + h.session.val) + x.resp.length ≤ d.get Par.ringDepth (16 + h.session.val))
    (hx : d.replay h.session.val m.opcode h.tag.toNat = some x) : d.Sent (d.hostMsg h m) h.session.val x.resp.length x.resp := by
  have hgated := d.gated_sent h m
  have hreplay : (d.gated h m).replay h.session.val m.opcode h.tag.toNat = some x := by
    rw [← hx, Dev.replay, Dev.replay, hgated.session, hgated.frame.2 .now (by decide)]
  have hnoted := hgated.trans ((d.gated h m).setSess_lastMsg_sent h.session.val (d.gated h m).now)
  rw [d.hostMsg_of_admits g, Dev.takeMsg_of_replay _ _ _ hreplay]
  have hused := hnoted.used
  have hall := Dev.sendAll_sent x.resp (hnoted.serves g.toServes) (by rw [hnoted.depth]; omega)
  exact Nat.zero_add x.resp.length ▸ hnoted.trans hall

/-! ## Requests as commands -/

/-- A command that is a request of a session is its message in the command ring of the session. -/
theorem exec_of_hostRequest {c : Instr} {h : Hdr} {m : HostMsg} (hc : hostRequest c = some (h, m)) (s : State) : exec c s = s.host h m := by
  cases c with
  | tblCommit | tblAbort | beatGridWrite | gridTargetWrite | sampleNow | socSet | pSetWrite | burstRequest | burstAbort | portClear | portUnlock
    | legClear | adcCalibrate | winReadback | capRunStart | capRunStop | hostFire | trigArmWrite | tokenGive | spokeDiscover | spokeUnblock
    | cellBypassWrite | cellClearLockWrite | cellSerialRefWrite | cellSettingWrite | blockClear | recover | ringReset | retainedClear | resetReq
    | pwrRequestParked | pwrRequestRun | pwrRequestDark | evtRaise
    | rimConfigRecord | opn | close | heartbeat | finish | read | readImage | write | parameterWrite | bulkWrite | claim | release | modeRequest
    | stopTrip | stopLegs | abort | attest | updManifest | updChunk | updStatus | updCancel | updActivate | updConfirm | keyEnrol
    | keyRevoke =>
    cases hc
    rfl
  | _ => cases hc

end Sys2Proof.Machine

open Sys2Proof Sys2Proof.Machine

/-- Settles O46: a repeated request gets in, finds its stored response and sends it once more into the response ring of its session; what follows
every command leaves the host side alone. -/
theorem repeatedRequests : Obligations.RepeatedRequests := by
  unfold Obligations.RepeatedRequests
  refine ⟨fun c h m x s hc hrun hpair hlink hunsealed hseal hopen hpcie hcommand hstate hreadable hwaiting _ hresp hroom hx => ?_,
    fun d k tag back shadow sealed' m x hx => Dev.takeMsg_of_replay shadow sealed' back hx, fun xs op tag ts m hnew => ?_⟩
  · have hfull : s.dev.ringFull (16 + h.session.val) = false := by
      have hpos := List.length_pos_of_ne_nil hresp
      simp only [Dev.ringFull, ge_iff_le, decide_eq_false_iff_not]
      omega
    have hadmits : (s.dev.atTime h.t).Admits h :=
      ⟨⟨h.session.isLt, hopen, hpcie, hstate, hwaiting⟩, hrun, hpair, hlink, hunsealed, hseal, hcommand, hreadable, hfull⟩
    have hsent := Dev.hostMsg_sent_of_replay hadmits hroom hx
    have hframe : s.dev.Agree (touches [0x90, 0x91] [.host]).1 (touches [0x90, 0x91] [.host]).2 (s.act h.t fun d => d.hostMsg h m).dev :=
      .step (Dev.settle_frame _ _) (by decide) (by decide) (.step hsent.frame (by decide) (by decide) (.upd_now (by decide) .refl))
    have hhost : (s.act h.t fun d => d.hostMsg h m).dev.host = ((s.dev.atTime h.t).hostMsg h m).host := Dev.settle_host _ _
    have hring := Dev.ring_of_host hhost (16 + h.session.val)
    have hsess := Dev.sess_of_host hhost
    refine ⟨s.act h.t fun d => d.hostMsg h m, exec_of_hostRequest hc s, rfl, hframe, ?_, ?_, ?_, ?_, ?_, ?_, ?_, fun k _ hk => ?_⟩
    · exact hhost ▸ hsent.msgs
    · exact hhost ▸ hsent.claims
    · exact hhost ▸ hsent.ops
    · exact hhost ▸ hsent.modeReq
    · exact hring ▸ hsent.slots
    · rw [hsess, hsent.session]
      rfl
    · rw [hsess, hsent.session]
      exact hopen
    · exact (hsess k).trans (hsent.others k hk)
  · rw [storeResp_of_new hnew]
    exact ⟨by rw [length_lastN, List.length_append, List.length_singleton], _, rfl⟩

end

section
/-! SUPPORT and PROOF. A reset that a host asks for, at the boundary after its write (R438): what of the device says whether and why a reset comes
(`Dev.SameReset`), that a boundary leaves all of it alone but for the writes of the ended beat and its close, and what a write of reset_req by itself
and the close do to it. -/

namespace Sys2Proof.Machine

/-! ## What says whether a reset comes -/

/-- The phase, the reset that waits for the boundary, on request (R438) or for an update (R423), and the cause of the last reset are the same. -/
structure Dev.SameReset (d e : Dev) : Prop where
  phase : e.phase = d.phase
  requested : e.pwr.resetReq = d.pwr.resetReq
  wanted : e.lid.resetWanted = d.lid.resetWanted
  cause : e.pwr.cause = d.pwr.cause

theorem Dev.SameReset.refl (d : Dev) : d.SameReset d := ⟨rfl, rfl, rfl, rfl⟩

theorem Dev.SameReset.trans {a b c : Dev} (h : a.SameReset b) (g : b.SameReset c) : a.SameReset c where
  phase := g.phase.trans h.phase
  requested := g.requested.trans h.requested
  wanted := g.wanted.trans h.wanted
  cause := g.cause.trans h.cause

theorem Dev.SameReset.ite {a x y : Dev} {c : Prop} [Decidable c] (h : a.SameReset x) (g : a.SameReset y) : a.SameReset (if c then x else y) := by
  split
  · exact h
  · exact g

theorem Dev.SameReset.forL {α : Type} {f : Dev → α → Dev} (hf : ∀ (d : Dev) x, d.SameReset (f d x)) (xs : List α) (d : Dev) :
    d.SameReset (d.forL xs f) :=
  List.foldlRecOn xs f (motive := d.SameReset) (.refl d) (fun e h x _ => h.trans (hf e x))

theorem Dev.SameReset.forN {f : Dev → Nat → Dev} (hf : ∀ (d : Dev) n, d.SameReset (f d n)) (n : Nat) (d : Dev) : d.SameReset (d.forN n f) :=
  .forL hf (List.range n) d

theorem Dev.SameReset.up {d e : Dev} (h : d.SameReset e) : e.up = d.up := by rw [Dev.up, Dev.up, h.phase]

/-! ## Operations that leave it alone -/

/-- A frame that names no part which says whether a reset comes. -/
def leavesReset (fs : List Fld) : Bool := !fs.contains .phase && !fs.contains .pwr && !fs.contains .lid

theorem Dev.Agree.sameReset {cs : List Nat} {fs : List Fld} {d e : Dev} (h : d.Agree cs fs e) (hl : leavesReset fs = true) : d.SameReset e := by
  simp only [leavesReset, Bool.and_eq_true, Bool.not_eq_true'] at hl
  obtain ⟨⟨hphase, hpwr⟩, hlid⟩ := hl
  have hp : e.pwr = d.pwr := h.2 .pwr hpwr
  exact ⟨h.2 .phase hphase, congrArg _ hp, congrArg LidSt.resetWanted (h.2 .lid hlid), congrArg _ hp⟩

/-- One more operation, whose frame names no such part. -/
theorem Dev.SameReset.frame {cs : List Nat} {fs : List Fld} {a d e : Dev} (h : a.SameReset d) (g : d.Agree cs fs e) (hl : leavesReset fs = true) :
    a.SameReset e := h.trans (g.sameReset hl)

/-- A step of the engine at its own instant. -/
theorem Dev.SameReset.atCycle {f : Dev → Dev} (hf : ∀ d : Dev, d.SameReset (f d)) (t : Nat) (d : Dev) : d.SameReset (d.atCycle t f) := by
  obtain ⟨hphase, hrequested, hwanted, hcause⟩ := hf { d with now := d.beatStart + fineNs t }
  exact ⟨hphase, hrequested, hwanted, hcause⟩

theorem Dev.host_sameReset (d : Dev) (h : HostSt) : d.SameReset { d with host := h } := ⟨rfl, rfl, rfl, rfl⟩

/-- A wake changes the power mode, or notes its own cause. -/
theorem Dev.wake_sameReset (d : Dev) (c : Nat) : d.SameReset (d.wake c) := by
  have hwaking : d.SameReset ((d.put Par.pwrMode 0 pmWaking).put Par.pwrWakeCause 0 c) := ⟨rfl, rfl, rfl, rfl⟩
  have hheld : d.SameReset { d with pwr := { d.pwr with wakeHeld := some c } } := ⟨rfl, rfl, rfl, rfl⟩
  exact .ite (.refl d) (.ite (hwaking.frame (Dev.raise_frame _ _ _ _ _) rfl) (.ite hheld (.refl d)))

theorem Dev.modePark_sameReset (d : Dev) (switched : Bool) : d.SameReset (d.modePark switched) := by
  unfold Dev.modePark
  split
  · exact .refl d
  next s _ =>
  extract_lets shown lost would served
  have hshown : d.SameReset shown := .ite ((d.showState_frame s).sameReset rfl) (.refl d)
  have henter : ∀ t keep, d.SameReset (shown.enterState t keep) := fun t keep => hshown.frame (shown.enterState_frame t keep) rfl
  have hserved : d.SameReset served := .frame (.ite (henter _ _) hshown) (Dev.modeServed_frame _) rfl
  refine .ite (hshown.frame shown.modeServed_frame rfl) ?_
  split
  · exact .frame ((henter _ _).trans (Dev.wake_sameReset _ _)) (Dev.modeDone_frame _) rfl
  · exact .ite (hserved.trans (served.wake_sameReset _)) hserved

theorem Dev.modeBoundary_sameReset (d : Dev) (switched : Bool) : d.SameReset (d.modeBoundary switched) := by
  unfold Dev.modeBoundary
  exact .frame (.ite ((d.modeRun_frame switched).sameReset rfl) (d.modePark_sameReset switched)) (Dev.modeTold_frame _ _ _) rfl

theorem Dev.modeCommand_sameReset (d : Dev) (code : Nat) : d.SameReset (d.modeCommand code) :=
  .ite ((d.host_sameReset _).trans (Dev.wake_sameReset _ _)) (d.host_sameReset _)

theorem Dev.parkStart_sameReset (d : Dev) : d.SameReset d.parkStart := by
  unfold Dev.parkStart
  exact .ite (.refl d) (.ite ⟨rfl, rfl, rfl, rfl⟩ (.ite ⟨rfl, rfl, rfl, rfl⟩ (.refl d)))

/-! ## Answers, tallies and the engine -/

theorem Dev.activateEnd_sameReset (d : Dev) (state status : Nat) : d.SameReset (d.activateEnd state status) := by
  unfold Dev.activateEnd
  extract_lets lid ended reset written
  have hrecorded : ∀ r, d.SameReset (ended.ownWrite r) := fun _ => ⟨rfl, rfl, rfl, rfl⟩
  have hwritten : d.SameReset written := .ite (hrecorded _) (hrecorded _)
  split
  · exact hwritten.frame (written.outcome_frame _ _ _) rfl
  · exact hwritten

/-- An abort of an activation takes back no reset that an earlier one has asked for. -/
theorem Dev.abortOp_sameReset (d : Dev) (s tag : Nat) : d.SameReset (d.abortOp s tag).2 := by
  unfold Dev.abortOp
  split
  · split
    · exact d.activateEnd_sameReset _ _
    · split
      · exact (d.commitEnd_frame _ _ _).sameReset rfl
      · exact .refl d
  · split
    · exact .refl d
    · exact .refl d

theorem Dev.answerMsg_sameReset (d : Dev) (m : Msg) : d.SameReset (d.answerMsg m) :=
  .ite (.frame (d.abortOp_sameReset _ _) (Dev.respond_frame _ _ _ _ _ _ _ _) rfl) ((d.respond_frame _ _ _ _ _ _ _).sameReset rfl)

theorem Dev.burstAnswer_sameReset (d : Dev) (sel : Nat → Bool) (st : Nat) : d.SameReset (d.burstAnswer sel st) :=
  (d.host_sameReset _).trans (.forL Dev.answerMsg_sameReset _ _)

theorem Dev.burstDecide_sameReset (d : Dev) (p : Nat) : d.SameReset (d.burstDecide p) := by
  unfold Dev.burstDecide
  extract_lets r asked x decided
  have hasked : d.SameReset asked := (d.burstRequest_frame p).sameReset rfl
  have hdecided : asked.SameReset decided := by
    unfold decided
    split
    · exact .ite ⟨rfl, rfl, rfl, rfl⟩ ⟨rfl, rfl, rfl, rfl⟩
    · exact .refl asked
  exact (hasked.trans hdecided).trans (decided.burstAnswer_sameReset _ _)

theorem Dev.burstFlush_sameReset (d : Dev) : d.SameReset d.burstFlush := by
  unfold Dev.burstFlush
  refine .ite (.refl d) ((Dev.SameReset.forN (fun x p => ?_) 32 d).trans (Dev.burstAnswer_sameReset _ _ _))
  exact .ite ⟨rfl, rfl, rfl, rfl⟩ (.refl x)

theorem Dev.portRun_sameReset (d : Dev) (p : Nat) : d.SameReset (d.portRun p) := by
  unfold Dev.portRun
  extract_lets stepped metered
  have hstepped : d.SameReset stepped := (d.portStep_frame p).sameReset rfl
  have hmetered : d.SameReset metered := .ite hstepped (hstepped.frame (stepped.metAlloc_frame _ _) rfl)
  exact .ite (hmetered.trans (metered.burstDecide_sameReset p)) hmetered

theorem Dev.engineFixed_sameReset (d : Dev) (it : Item) (fin : Nat) : d.SameReset (d.engineFixed it fin) :=
  .ite (.atCycle (fun x => (x.gridStep_frame _).sameReset rfl) _ _)
    (.ite (.atCycle (fun x => (x.isldStep_frame _).sameReset rfl) _ _) (.ite (.atCycle (fun x => x.portRun_sameReset _) _ _) (.refl d)))

theorem Dev.engineGo_sameReset (its : List Item) (t : Nat) (d : Dev) : d.SameReset (Dev.engineGo its t d) := by
  induction its generalizing t d with
  | nil => exact ⟨rfl, rfl, rfl, rfl⟩
  | cons it rest ih =>
    unfold Dev.engineGo
    extract_lets s fin r
    have hr : d.SameReset r.2 := (d.engineCtx_frame it.num s fin rest).sameReset rfl
    refine .ite ⟨rfl, rfl, rfl, rfl⟩ (.ite ?_ ((d.engineFixed_sameReset it fin).trans (ih _ _)))
    split
    · exact hr.trans (ih _ _)
    · exact hr

theorem Dev.engineRun_sameReset (d : Dev) : d.SameReset d.engineRun := by
  unfold Dev.engineRun
  extract_lets idle run
  have hrun : d.SameReset run := .ite (Dev.engineGo_sameReset _ _ d) ⟨rfl, rfl, rfl, rfl⟩
  exact hrun.trans (.forL (fun x g => (x.isldIdle_frame g).sameReset rfl) idle run)

theorem Dev.switchSet_sameReset (d : Dev) (k : Nat) : d.SameReset (d.switchSet k) := by
  unfold Dev.switchSet
  extract_lets x y shown tallied
  have htallied : d.SameReset tallied := ⟨rfl, rfl, rfl, rfl⟩
  exact .ite (.frame (htallied.frame (tallied.restartChanged_frame _) rfl) (Dev.resubscribe_frame _) rfl) htallied

theorem Dev.switchTables_sameReset (d : Dev) : d.SameReset d.switchTables.2 := by
  refine .forL (fun x c => ?_) _ d
  extract_lets switched done
  have hswitched : x.SameReset switched := .forL Dev.switchSet_sameReset _ x
  have hdone : x.SameReset done := hswitched.trans ⟨rfl, rfl, rfl, rfl⟩
  exact hdone.frame (done.outcome_frame _ _ _) rfl

/-! ## The boundary between its writes and its close -/

theorem Dev.beatFull_sameReset (d : Dev) (x : Samples) (switched : Bool) : d.SameReset (d.beatFull x switched) := by
  unfold Dev.beatFull
  extract_lets timed armed isld moded recorded watched sent chopped synced
  have htimed : d.SameReset timed :=
    .frame (.frame (.frame (d.weaveBoundary_frame.sameReset rfl) (Dev.codesFollow_frame _) rfl) (Dev.timeBoundary_frame _) rfl)
      (Dev.mismatchBoundary_frame _) rfl
  have hisld : timed.SameReset isld := (timed.armsBeat_frame.sameReset rfl).trans (.forN (fun e g => (e.isldBoundary_frame g).sameReset rfl) _ _)
  have hmoded : isld.SameReset moded :=
    ((isld.modeBoundary_sameReset switched).frame (Dev.followMode_frame _) rfl).trans (Dev.parkStart_sameReset _)
  have hrecorded : moded.SameReset recorded := (Dev.SameReset.forN (fun e n => (e.armTarget_frame n).sameReset rfl) _ _).trans
    (.forN (fun e n => (e.rearm_frame n).sameReset rfl) _ _)
  have hwatched : recorded.SameReset watched := .forN (fun e w => (e.readbackBeat_frame w).sameReset rfl) _ _
  have hsent : watched.SameReset sent :=
    .frame (.frame ((watched.sampleBeat_frame x).sameReset rfl) (Dev.sendArmCur_frame _ _) rfl) (Dev.sendTimes_frame _) rfl
  have hsynced : sent.SameReset synced := (Dev.SameReset.forN (fun e n => (e.chopperStep_frame n).sameReset rfl) _ _).trans
    (.forN (fun e c => (e.ctxSync_frame c).sameReset rfl) _ _)
  have hrun : synced.SameReset synced.engineRun.signalsUsed := synced.engineRun_sameReset.frame (Dev.signalsUsed_frame _) rfl
  exact htimed.trans (hisld.trans (hmoded.trans (hrecorded.trans (hwatched.trans (hsent.trans (hsynced.trans hrun))))))

theorem Dev.beatParked_sameReset (d : Dev) (switched : Bool) : d.SameReset (d.beatParked switched) :=
  ((d.timeBoundary_frame.sameReset rfl).trans (Dev.modeBoundary_sameReset _ _)).trans (Dev.burstFlush_sameReset _)

/-- Firmware's part of a boundary is the writes of the ended beat, what leaves a reset that waits alone, and the close. -/
theorem Dev.beatServe_closes (d : Dev) (x : Samples) (t : Nat) : ∃ e, d.applyWrites.SameReset e ∧ d.beatServe x t = e.beatClose := by
  unfold Dev.beatServe
  extract_lets r
  have hr : d.applyWrites.SameReset r.2 := ((d.applyWrites.nextBeat_frame t).sameReset rfl).trans (Dev.switchTables_sameReset _)
  exact ⟨_, .ite (hr.trans (r.2.beatFull_sameReset x r.1)) (hr.trans (r.2.beatParked_sameReset r.1)), rfl⟩

theorem Dev.settle_sameReset (d old : Dev) : d.SameReset (d.settle old) := by
  unfold Dev.settle
  extract_lets scanned served shown
  have hscanned : d.SameReset scanned := .ite (.refl d) (.ite (d.wake_sameReset _) (.ite (d.wake_sameReset _) (.refl d)))
  have hserved : d.SameReset served := hscanned.frame (Dev.serveFresh_frame _ _) rfl
  have hshown : d.SameReset shown := .ite (hserved.trans ⟨rfl, rfl, rfl, rfl⟩) hserved
  exact hshown.trans ⟨rfl, rfl, rfl, rfl⟩

/-! ## The close -/

/-- A reset that was asked for comes at the close of the boundary (R438). -/
theorem Dev.beatClose_of_requested {d : Dev} (h : d.pwr.resetReq = true) : d.beatClose.phase = .warm ∧ d.beatClose.pwr.cause = rsRequested := by
  unfold Dev.beatClose
  extract_lets lid snapped counted
  have hcounted : counted.pwr.resetReq = true := h
  rw [hcounted, Bool.true_or, if_pos rfl]
  exact ⟨rfl, rfl⟩

/-- Where no reset waits, the close starts none. -/
theorem Dev.beatClose_of_idle {d : Dev} (hrequested : d.pwr.resetReq = false) (hwanted : d.lid.resetWanted = false) : d.SameReset d.beatClose := by
  unfold Dev.beatClose
  extract_lets lid snapped counted
  have hreq : counted.pwr.resetReq = false := hrequested
  have hwant : counted.lid.resetWanted = false := hwanted
  rw [hreq, hwant, Bool.false_and, Bool.or_false, if_neg Bool.false_ne_true]
  exact ⟨rfl, rfl, rfl, rfl⟩

/-! ## A write of reset_req by itself -/

/-- A write of 1 to reset_req: noted in the kinds of R438, refused in the others. -/
theorem Dev.applyWrite_resetReq (d : Dev) (ses tag ts : Nat) : d.applyWrite ses tag ts oPwr Par.pwrResetReq.idx 1 =
    if d.stoppedKind then (stOk, { d with pwr := { d.pwr with resetReq := true } }) else (stBadState, d) := by
  have hrule : d.applyWrite ses tag ts oPwr Par.pwrResetReq.idx 1 =
      (if d.offOrParked ∨ d.kind = kTripped ∨ d.kind = kLockout then did { d with pwr := { d.pwr with resetReq := true } }
        else no d stBadState).getD (stOk, d.setRaw Par.pwrResetReq 0 1) := rfl
  have hkinds : (d.offOrParked ∨ d.kind = kTripped ∨ d.kind = kLockout) ↔ d.stoppedKind = true := by
    simp [Dev.stoppedKind, or_assoc]
  rw [hrule]
  simp only [hkinds]
  split
  · rfl
  · rfl

/-- In devices of one kind the write does the same to a reset. -/
theorem Dev.SameReset.write {d e : Dev} (h : d.SameReset e) (hkind : e.kind = d.kind) (ses tag ts : Nat) :
    (d.applyWrite ses tag ts oPwr Par.pwrResetReq.idx 1).2.SameReset (e.applyWrite ses tag ts oPwr Par.pwrResetReq.idx 1).2 := by
  have hstopped : e.stoppedKind = d.stoppedKind := by simp only [Dev.stoppedKind, Dev.offOrParked, hkind]
  rw [Dev.applyWrite_resetReq, Dev.applyWrite_resetReq, hstopped]
  split
  · exact ⟨h.phase, rfl, h.wanted, h.cause⟩
  · exact h

/-- The message is a WRITE of 1 to reset_req and nothing else, with no refusal from its registration. -/
structure Msg.AsksReset (m : Msg) (w : RegWrite) : Prop where
  op : m.op = 0x20
  status : m.status = stOk
  bulk : m.bulk = none
  work : m.work = [w]
  entry : w.status = stOk
  obj : w.obj = oPwr
  idx : w.idx = Par.pwrResetReq.idx
  val : w.val = 1

/-- The checks of every write let it pass while firmware serves the host: reset_req is RW, in range, with no other writer. -/
theorem Dev.judgeStatic_resetReq {d : Dev} (hup : d.up = true) : d.judgeStatic oPwr Par.pwrResetReq.idx 1 = stOk := by
  have hcls : oPwr / 16777216 = 0xB0 := rfl
  have hzero : oPwr % 16777216 = 0 := rfl
  have hinst : ¬instances 0xB0 ≤ 0 := by decide
  have hrow : rowOf Par.pwrResetReq = some ⟨"reset_req", .u 8, .nat [(0, 1)], 0, .rw⟩ := rfl
  have happlies : notApplying Par.pwrResetReq 0 = false := by decide
  have hpowered : d.powered 0xB0 0 = true := hup
  have hdom : domOk (.nat [(0, 1)]) 1#64 = true := by decide
  have hwired : d.wired Par.pwrResetReq 0 = false := rfl
  simp [Dev.judgeStatic, hcls, hzero, hinst, hrow, happlies, hpowered, hdom, hwired]

theorem Dev.judgeMsg_of_asksReset {d : Dev} {m : Msg} {w : RegWrite} (h : m.AsksReset w) (hup : d.up = true) : d.judgeMsg m = m := by
  obtain ⟨session, tag, op, ts, status, work, bulk, code, owners, refusedAt⟩ := m
  obtain ⟨obj, idx, val, st, held⟩ := w
  obtain ⟨rfl, rfl, rfl, rfl, rfl, rfl, rfl, rfl⟩ := h
  simp only [Dev.judgeMsg, if_true, List.map_cons, List.map_nil, Dev.judgeStatic_resetReq hup]

/-- No other session contradicts the only message of a beat. -/
theorem Dev.clashMsg_alone (d : Dev) (m : Msg) : d.clashMsg [m] m = m := by
  have hothers : [m].filter (fun x => x.session != m.session) = [] := by simp
  unfold Dev.clashMsg
  simp only [hothers, List.any_nil, Bool.and_false, Bool.false_eq_true, if_false, List.map_id']
  cases hb : m.bulk with
  | none => simp [← hb]
  | some b => simp [← hb]

/-- The message has one entry, which is neither of the grid nor of burst_req, and no bulk write. -/
structure Msg.Plain (m : Msg) (w : RegWrite) : Prop where
  bulk : m.bulk = none
  work : m.work = [w]
  grid : w.isGrid = false
  burst : w.isBurst = false

theorem Msg.AsksReset.plain {m : Msg} {w : RegWrite} (h : m.AsksReset w) : m.Plain w where
  bulk := h.bulk
  work := h.work
  grid := by simp [RegWrite.isGrid, h.obj]
  burst := by simp [RegWrite.isBurst, h.obj, show oPwr / 16777216 ≠ 0x30 by decide]

theorem Dev.applyMsgs_single (d : Dev) (sel : RegWrite → Bool) (bulk : Bool) {m : Msg} (hbulk : m.bulk = none) :
    d.applyMsgs sel bulk [m] = ([{ m with work := (d.applyEntries sel m).1 }], (d.applyEntries sel m).2) := by
  simp [Dev.applyMsgs, hbulk]

/-- The entry of a plain WRITE that has passed the checks is applied. -/
theorem Dev.applyMsgs_plain (d : Dev) {m : Msg} {w : RegWrite} (h : m.Plain w) (hop : m.op = 0x20) (hst : w.status = stOk) :
    ∃ n v, Msg.Plain n v ∧
      d.applyMsgs (fun w => !w.isGrid && !w.isBurst) true [m] = ([n], (d.applyWrite m.session m.tag m.ts w.obj w.idx w.val).2) := by
  generalize hr : d.applyWrite m.session m.tag m.ts w.obj w.idx w.val = r
  have hentries : d.applyEntries (fun w => !w.isGrid && !w.isBurst) m = ([{ w with status := r.1 }], r.2) := by
    simp [Dev.applyEntries, h.work, h.grid, h.burst, hop, hst, hr]
  refine ⟨{ m with work := [{ w with status := r.1 }] }, { w with status := r.1 }, ⟨h.bulk, rfl, h.grid, h.burst⟩, ?_⟩
  rw [d.applyMsgs_single _ _ h.bulk, hentries]

/-- The pass of the grid writes and that of burst_req leave a plain message alone. -/
theorem Dev.applyGrid_plain (d : Dev) {m : Msg} {w : RegWrite} (h : m.Plain w) : d.applyGrid [m] = ([m], d) :=
  d.applyGrid_of_offGrid (by simpa [Msg.offGrid, h.work] using h.grid)

theorem Dev.applyMsgs_burst_plain (d : Dev) {m : Msg} {w : RegWrite} (h : m.Plain w) : (d.applyMsgs RegWrite.isBurst false [m]).2 = d := by
  rw [d.applyMsgs_single _ _ h.bulk]
  simp [Dev.applyEntries, h.work, h.burst]

/-- A write of reset_req that is the only message of a beat is all that the beat's end does to a reset. -/
theorem Dev.applyWrites_of_asksReset {d : Dev} {m : Msg} {w : RegWrite} (h : m.AsksReset w) (hup : d.up = true) (hmsgs : d.host.msgs = [m]) :
    (d.applyWrite m.session m.tag m.ts oPwr Par.pwrResetReq.idx 1).2.SameReset d.applyWrites := by
  unfold Dev.applyWrites
  extract_lets ms host taken judged kept applied gridded burst moded answered hostAfter parked
  have hkept : kept = [m] := by
    have hjudged : judged = [m] := by simp [judged, ms, hmsgs, Dev.judgeMsg_of_asksReset (d := taken) h hup]
    simp [kept, hjudged, Dev.clashMsg_alone]
  have htaken : d.SameReset taken := d.host_sameReset _
  have hsame := htaken.write rfl m.session m.tag m.ts
  obtain ⟨n, v, hplain, happlied⟩ := taken.applyMsgs_plain h.plain h.op h.entry
  have hburst : burst.2 = (taken.applyWrite m.session m.tag m.ts oPwr Par.pwrResetReq.idx 1).2 := by
    unfold burst gridded applied
    rw [hkept, happlied, Dev.applyGrid_plain _ hplain, Dev.applyMsgs_burst_plain _ hplain, h.obj, h.idx, h.val]
  rw [← hburst] at hsame
  clear_value burst
  have hmode : ∀ (e : Dev) (m : Msg), e.SameReset (e.modeCommand m.code) := fun e m => e.modeCommand_sameReset m.code
  have hmoded : burst.2.SameReset moded := .forL hmode _ _
  have hanswered : moded.SameReset answered := .forL Dev.answerMsg_sameReset _ _
  have hparked : answered.SameReset parked := answered.host_sameReset _
  exact hsame.trans (hmoded.trans (hanswered.trans (hparked.frame parked.sessionsFreed_frame rfl)))

/-! ## The boundary of a running device -/

/-- ECC corrections and dwell are no mode of the converter. -/
theorem Dev.beatCount_kind (d : Dev) (ecc : Nat) : (d.beatCount ecc).kind = d.kind := by
  unfold Dev.beatCount
  extract_lets mode held counted
  have hcaps : counted.Agree [] [.caps] (counted.forN 32 fun d n => if (d.cap n).wrote = 0 then d else d.setCap n { d.cap n with wrote := 0 }) := by
    refine Dev.Agree.forN (fun x n hx => ?_) .refl
    exact .ite (fun _ => hx) fun _ => .step (x.setCap_frame n _) (by decide) (by decide) hx
  have hcounted : counted.kind = held.kind := held.get_put_apart _ _ _ (by decide)
  exact (hcaps.get Par.devConvMode 0 (by decide) (by decide)).trans hcounted

/-- At the boundary of a running device the ended beat is reckoned and the next one starts; then firmware serves the messages of the ended beat, in
the mode that the converter was in. -/
theorem Dev.beat_serves {d : Dev} (x : Samples) (hclk : d.clkOk cdTb = true) (hrun : d.phase = .run) : ∃ (e : Dev) (t : Nat),
    d.beat x none = e.beatServe x t ∧ d.SameReset e ∧ e.host = d.host ∧ e.kind = d.kind := by
  unfold Dev.beat
  rw [hclk]
  extract_lets anchored t ended started switched served
  have hanchored : d.Agree [0x200] [.now, .beatStart, .beatLen] anchored := .ite (fun _ => d.anchorBeat_frame) fun _ => .refl
  have hcounted : anchored.Agree [0x01, 0x80, 0xC0] [.evt, .weave, .mode, .caps] (anchored.weaveEnd.beatCount x.ecc) :=
    .step (Dev.beatCount_frame _ _) (by decide) (by decide) (.step anchored.weaveEnd_frame (by decide) (by decide) .refl)
  have hended : ended = (anchored.weaveEnd.beatCount x.ecc).nextBeat t := by
    unfold ended
    rw [if_pos]
    exact (hanchored.sameReset rfl).up.trans (by simp [Dev.up, hrun])
  have hsame : d.SameReset ended := by
    rw [hended]
    exact .frame (.frame (hanchored.sameReset rfl) hcounted rfl) (Dev.nextBeat_frame _ t) rfl
  have hup : ended.up = true := hsame.up.trans (by simp [Dev.up, hrun])
  refine ⟨ended, t, ?_, hsame, ?_, ?_⟩
  · simp only [hup, Bool.not_true, Bool.false_eq_true, if_false]
    rfl
  · rw [hended]
    exact ((Dev.nextBeat_frame _ t).2 .host (by decide)).trans ((hcounted.2 .host (by decide)).trans (hanchored.2 .host (by decide)))
  · rw [hended]
    exact (((Dev.nextBeat_frame _ t).get Par.devConvMode 0 (by decide) (by decide)).trans (Dev.beatCount_kind _ _)).trans
      ((anchored.weaveEnd_frame.get Par.devConvMode 0 (by decide) (by decide)).trans (hanchored.get Par.devConvMode 0 (by decide) (by decide)))

/-- BEAT_BOUNDARY of a running device with a write of reset_req alone: the write, operations that leave a waiting reset alone, and the close. -/
theorem Dev.beat_of_asksReset {d : Dev} {m : Msg} {w : RegWrite} (x : Samples) (h : m.AsksReset w) (hclk : d.clkOk cdTb = true)
    (hrun : d.phase = .run) (hmsgs : d.host.msgs = [m]) :
    ∃ e : Dev, (d.applyWrite m.session m.tag m.ts oPwr Par.pwrResetReq.idx 1).2.SameReset e ∧ d.beat x none = e.beatClose := by
  obtain ⟨started, t, hbeat, hsame, hhost, hkind⟩ := d.beat_serves x hclk hrun
  obtain ⟨e, hserved, hclose⟩ := started.beatServe_closes x t
  have hup : started.up = true := hsame.up.trans (by simp [Dev.up, hrun])
  have hwritten := Dev.applyWrites_of_asksReset h hup (hhost ▸ hmsgs)
  exact ⟨e, (hsame.write hkind _ _ _).trans (hwritten.trans hserved), hbeat.trans hclose⟩

end Sys2Proof.Machine

open Sys2Proof Sys2Proof.Machine

/-- Settles O53: the write is judged in the kind that stands at the boundary; noted, the close of the boundary starts the reset; refused, nothing of
the boundary asks for one. -/
theorem resetRequests : Obligations.ResetRequests := by
  unfold Obligations.ResetRequests
  refine ⟨fun x m w s hrun hclk hmsgs hop hstatus hbulk hwork hentry hobj hidx hval => ?_, fun d ses tag ts hkind => ?_⟩
  · obtain ⟨e, hwritten, hbeat⟩ := Dev.beat_of_asksReset (d := s.dev.atTime s.dev.beatLen) x
      ⟨hop, hstatus, hbulk, hwork, hentry, hobj, hidx, hval⟩ hclk hrun hmsgs
    have hstopped : (s.dev.atTime s.dev.beatLen).stoppedKind = s.dev.stoppedKind := rfl
    have hsettled := Dev.settle_sameReset ((s.dev.atTime s.dev.beatLen).beat x none) (s.dev.atTime s.dev.beatLen)
    rw [Dev.applyWrite_resetReq, hstopped] at hwritten
    refine ⟨fun hkind => ⟨s.act s.dev.beatLen (fun d => d.beat x none), rfl, rfl, ?_⟩,
      fun hkind hidle hwanted => ⟨s.act s.dev.beatLen (fun d => d.beat x none), rfl, rfl, ?_⟩⟩
    · rw [hkind, if_pos rfl] at hwritten
      obtain ⟨hphase, hcause⟩ := Dev.beatClose_of_requested hwritten.requested
      rw [← hbeat] at hphase hcause
      exact ⟨hsettled.phase.trans hphase, hsettled.cause.trans hcause⟩
    · rw [hkind, if_neg Bool.false_ne_true] at hwritten
      have hclosed := Dev.beatClose_of_idle (hwritten.requested.trans hidle) (hwritten.wanted.trans hwanted)
      rw [← hbeat] at hclosed
      have hall := hwritten.trans (hclosed.trans hsettled)
      exact ⟨hall.phase.trans hrun, hall.requested.trans hidle⟩
  · rw [Dev.applyWrite_resetReq, hkind, if_neg Bool.false_ne_true]

end

section
/-! SUPPORT and PROOF. The machine as a whole: every command is an effect at an instant and what follows it. After that the pins show the state and no
occurrence waits (R464, Table 19.7), and pins that show the state are safe. -/

namespace Sys2Proof.Machine

/-! ## Masks -/

theorem maskOf_succ (k : Nat) (f : Nat → Bool) : maskOf (k + 1) f = 2 ^ k * b2n (f k) + maskOf k f := by
  simp [maskOf, List.range_succ, Nat.mul_comm, Nat.add_comm]

theorem maskOf_lt (k : Nat) (f : Nat → Bool) : maskOf k f < 2 ^ k := by
  induction k with
  | zero => exact Nat.zero_lt_one
  | succ k ih =>
    rw [maskOf_succ, Nat.pow_succ]
    cases f k <;> simp only [b2n, Bool.false_eq_true, if_true, if_false] <;> omega

theorem testBit_b2n (b : Bool) (i : Nat) : (b2n b).testBit i = (b && decide (i = 0)) := by
  cases b
  · exact Nat.zero_testBit i
  · cases i with
    | zero => rfl
    | succ i => simp [b2n, Nat.testBit_succ]

/-- A bit of a mask is what its predicate says. -/
theorem testBit_maskOf (k : Nat) (f : Nat → Bool) (n : Nat) : (maskOf k f).testBit n = (decide (n < k) && f n) := by
  induction k with
  | zero => exact Nat.zero_testBit n
  | succ k ih =>
    rw [maskOf_succ, Nat.testBit_two_pow_mul_add _ (maskOf_lt k f)]
    split
    · next h => rw [ih, decide_eq_true h, decide_eq_true (Nat.lt_succ_of_lt h)]
    · next h =>
      rw [testBit_b2n]
      by_cases hn : n = k
      · subst hn
        simp
      · rw [decide_eq_false (by omega), decide_eq_false (by omega), Bool.and_false, Bool.false_and]

theorem getLsbD_maskOf {w n : Nat} (f : Nat → Bool) (h : n < w) : (BitVec.ofNat w (maskOf w f)).getLsbD n = f n := by
  rw [BitVec.getLsbD_ofNat, testBit_maskOf, decide_eq_true h, Bool.true_and, Bool.true_and]

theorem testBit_foldl_or (ms : List Nat) (a k : Nat) : (ms.foldl (· ||| ·) a).testBit k = (a.testBit k || ms.any (bit · k)) := by
  induction ms generalizing a with
  | nil => simp
  | cons m ms ih => rw [List.foldl_cons, ih, Nat.testBit_or, List.any_cons, bit_eq_testBit, Bool.or_assoc]

theorem testBit_orAll (ms : List Nat) (k : Nat) : (orAll ms).testBit k = ms.any (bit · k) := by
  rw [orAll, testBit_foldl_or, Nat.zero_testBit, Bool.false_or]

/-! ## Pins that show the state -/

/-- The pins of a device that shows its state on them already are what it shows. -/
theorem Dev.pinsNow_of_pins (d : Dev) (p : PinSt) : Dev.pinsNow { d with pins := p } =
    { d.pinsNow with rimTp := if d.rim.running && d.phase != .recovery then p.rimTp else 0 } := by
  have hgates : ∀ n, Dev.gatePins { d with pins := p } n = d.gatePins n := fun _ => rfl
  have hevents : Dev.evtPins { d with pins := p } = d.evtPins := rfl
  have hrim : ∀ ch, Dev.rimToggles { d with pins := p } ch = d.rimToggles ch := fun _ => rfl
  have hclocks : Dev.sdiClock { d with pins := p } = d.sdiClock := rfl
  simp only [Dev.pinsNow, hgates, hevents, hrim, hclocks]
  rfl

theorem Dev.pinsShown_pinsNow (d : Dev) : Dev.pinsShown { d with pins := d.pinsNow } := by
  have hpulled : (if d.rim.running && d.phase != .recovery then d.pinsNow.rimTp else 0) = d.pinsNow.rimTp := by
    simp only [Dev.pinsNow]
    split <;> rfl
  have hsame := d.pinsNow_of_pins d.pinsNow
  rw [hpulled] at hsame
  exact hsame.symm

/-- A leg drives one gate pin at most, and only in RUN with the TB clock. -/
theorem Dev.gatePins_safe (d : Dev) (n : Nat) : ¬((d.gatePins n).1 = true ∧ (d.gatePins n).2 = true)
    ∧ ((d.gatePins n).1 = true ∨ (d.gatePins n).2 = true → d.get Par.legState n = lsRun ∧ d.full = true ∧ d.clkOk cdTb = true) := by
  unfold Dev.gatePins
  extract_lets x hs ls
  split
  · next h =>
    simp only [Bool.and_eq_true, beq_iff_eq] at h
    obtain ⟨⟨⟨-, hfull⟩, hclk⟩, hrun⟩ := h
    refine ⟨?_, fun _ => ⟨hrun, hfull, hclk⟩⟩
    split <;> cases hx : x.hs <;> cases hy : x.ls <;> simp [hs, ls, hx, hy]
  · simp

theorem Dev.gatesSafe_of_shown {d : Dev} (h : d.pinsShown) : d.gatesSafe := by
  intro n hn
  have hH : d.pins.gateH.getLsbD n = (d.gatePins n).1 := by rw [h]; exact getLsbD_maskOf _ hn
  have hL : d.pins.gateL.getLsbD n = (d.gatePins n).2 := by rw [h]; exact getLsbD_maskOf _ hn
  rw [hH, hL]
  exact d.gatePins_safe n

/-- A channel of an output toggles where the Rim drives its pins and the output is energised. -/
theorem Dev.rimToggles_safe (d : Dev) (ch : Nat) {j : Nat} (hj : j < 4) (h : (BitVec.ofNat 4 (d.rimToggles ch)).getLsbD j = true) :
    d.rimDrives = true ∧ d.outOn j = true := by
  unfold Dev.rimToggles at h
  split at h
  · next hd =>
    have hon : (d.outOn j && !bit d.rim.offRun (2 * j + ch)) = true := (getLsbD_maskOf _ hj).symm.trans h
    exact ⟨hd, Bool.and_elim_left hon⟩
  · simp at h

theorem Dev.rimOutputsSafe_of_shown {d : Dev} (h : d.pinsShown) : d.rimOutputsSafe := by
  intro j hj hpin
  have hsafe : d.rimDrives = true ∧ d.outOn j = true := by
    rw [h] at hpin
    exact hpin.elim (d.rimToggles_safe 0 hj) (d.rimToggles_safe 1 hj)
  obtain ⟨hdrives, hon⟩ := hsafe
  simp only [Dev.rimDrives, Bool.and_eq_true, bne_iff_ne] at hdrives
  obtain ⟨⟨hrun, hclk⟩, hphase⟩ := hdrives
  exact ⟨hrun, hclk, hphase, hon⟩

theorem Dev.powerPinsSafe_of_shown {d : Dev} (h : d.pinsShown) : d.powerPinsSafe := by
  constructor
  · intro hpin
    rw [h] at hpin
    exact eq_of_beq (Bool.and_elim_left hpin)
  · intro hpin
    rw [h] at hpin
    exact eq_of_beq (Bool.and_elim_left hpin)

theorem Dev.pinsSafe_of_shown {d : Dev} (h : d.pinsShown) : d.pinsSafe :=
  ⟨d.gatesSafe_of_shown h, d.rimOutputsSafe_of_shown h, d.powerPinsSafe_of_shown h⟩

theorem Dev.evtPins_getLsbD (d : Dev) {k : Nat} (hk : k < 4) :
    d.evtPins.getLsbD k = (d.evtUp && (List.range 256).any (fun n => d.isOn Par.evtFlag n && bit (d.get Par.evtPinMask n) k)) := by
  unfold Dev.evtPins
  split
  · next h => rw [BitVec.getLsbD_ofNat, decide_eq_true hk, testBit_orAll, List.any_map, List.any_filter, h]; rfl
  · next h => rw [Bool.eq_false_of_not_eq_true h]; exact BitVec.getLsbD_zero

/-! ## What follows every command -/

theorem Dev.serveFresh_fresh (k : Nat) (d : Dev) : (Dev.serveFresh k d).evt.fresh = [] := by
  induction k generalizing d with
  | zero => rfl
  | succ k ih =>
    unfold Dev.serveFresh
    split
    · assumption
    · exact ih _

/-- The occurrences of a command are served when it ends. -/
theorem Dev.settle_fresh (d old : Dev) : (d.settle old).evt.fresh = [] := by
  have hserved := Dev.serveFresh_fresh ((d.wakeScan old).evt.fresh.length + 64) (d.wakeScan old)
  unfold Dev.settle
  dsimp only
  generalize Dev.serveFresh ((d.wakeScan old).evt.fresh.length + 64) (d.wakeScan old) = served at hserved ⊢
  split <;> exact hserved

theorem Dev.settle_pinsShown (d old : Dev) : (d.settle old).pinsShown := Dev.pinsShown_pinsNow _

/-! ## Every command is an effect at an instant -/

theorem exec_does (c : Instr) (s : State) : ∃ (t : Nat) (f : Dev → Dev), exec c s = s.does t f := by
  cases c <;> exact ⟨_, _, rfl⟩

/-- What holds after every effect holds after every command. -/
theorem completes_of_act {P : Dev → Prop} (h : ∀ (d : Dev) (t : Nat) (f : Dev → Dev), P (d.act t f)) (c : Instr) (s : State) : Completes c s P := by
  obtain ⟨t, f, hc⟩ := exec_does c s
  exact ⟨s.act t f, hc, rfl, h s.dev t f⟩

/-- What every command keeps, every step keeps. -/
theorem step_keeps {P : Dev → Prop} (h : ∀ (c : Instr) (s : State), P s.dev → Completes c s P) {s t : State} (hs : P s.dev) (hstep : step s = .next t) :
    P t.dev := by
  unfold step at hstep
  split at hstep
  · cases hstep
    exact hs
  · next c cs _ =>
    obtain ⟨u, hu, -, hP⟩ := h c { s with pending := cs } hs
    rw [hu] at hstep
    cases hstep
    exact hP

end Sys2Proof.Machine

open Sys2Proof Sys2Proof.Machine

/-- Settles O1: the command leaves the queue and acts. -/
theorem stepRunsFrontCommand : Obligations.StepRunsFrontCommand := by
  unfold Obligations.StepRunsFrontCommand
  intro c s cs h
  rw [step, h]

/-- Settles O2: there is no command to act. -/
theorem emptyQueueIdles : Obligations.EmptyQueueIdles := by
  unfold Obligations.EmptyQueueIdles
  intro s h
  rw [step, h]

/-- Settles O3: every command is an effect, and what follows it serves every occurrence. -/
theorem everyCommandAnswers : Obligations.EveryCommandAnswers := by
  unfold Obligations.EveryCommandAnswers
  exact completes_of_act fun d t f => Dev.settle_fresh _ _

/-- Settles O4: nothing drives a pin after reset, so the pins are at rest, and what is at rest is safe. -/
theorem resetPinsAtRest : Obligations.ResetPinsAtRest := by
  unfold Obligations.ResetPinsAtRest
  have hshown : State.reset.dev.pinsShown := by
    unfold Dev.pinsShown
    decide +kernel
  have halternate : State.reset.dev.recordsAlternate := by
    intro k hk
    match k with
    | 0 => exact ⟨by rintro r ⟨⟩; decide, by rintro r ⟨⟩⟩
    | 1 => exact ⟨by rintro r ⟨⟩, by rintro r ⟨⟩⟩
  have hlatched : State.reset.dev.rimLatchedOff := by
    intro j _ hon
    have hoff : State.reset.dev.get Par.rimOutEnergised 0 = 0 := by decide +kernel
    simp [Dev.outOn, hoff, bit] at hon
  exact ⟨hshown, rfl, rfl, rfl, rfl, rfl, rfl, rfl, rfl, rfl, Dev.pinsSafe_of_shown hshown, rfl, hlatched, halternate, fun _ _ => rfl⟩

/-- Settles O5: each pin that shows the state has its own conditions among those that drive it. -/
theorem shownPinsAreSafe : Obligations.ShownPinsAreSafe := by
  unfold Obligations.ShownPinsAreSafe
  exact fun _ h => Dev.pinsSafe_of_shown h

/-- Settles O6: what follows a command shows the state on the pins again, whatever the effect was. -/
theorem stepKeepsPinsSafe : Obligations.StepKeepsPinsSafe := by
  unfold Obligations.StepKeepsPinsSafe
  exact fun s t hs hstep => step_keeps (P := fun d => d.pinsShown ∧ d.pinsSafe ∧ d.evt.fresh = [])
    (fun c s _ => completes_of_act (fun d t f =>
      have hshown := Dev.settle_pinsShown (f (d.atTime t)) (d.atTime t)
      ⟨hshown, Dev.pinsSafe_of_shown hshown, Dev.settle_fresh _ _⟩) c s) hs hstep

/-- Settles O7: the pins that show the state after a command show the event flags. -/
theorem eventPinsFollowFlags : Obligations.EventPinsFollowFlags := by
  unfold Obligations.EventPinsFollowFlags
  exact completes_of_act fun d t f k hk => by
    have hshown : (d.act t f).pinsShown := Dev.settle_pinsShown _ _
    rw [hshown]
    exact Dev.evtPins_getLsbD _ hk

end

section
/-! SUPPORT and PROOF. What each command leaves alone (95_what_each_step_holds.md): the frame of its effect, with time and what follows an occurrence. -/

namespace Sys2Proof.Machine

theorem within_append {α : Type} [DecidableEq α] {a b : List α} (c : List α) (h : within a b = true) : within a (b ++ c) = true := by
  simp only [within, List.all_eq_true, List.contains_eq_mem, decide_eq_true_eq] at h ⊢
  exact fun x hx => List.mem_append_left c (h x hx)

/-! ## Commands and their frames -/

/-- A command takes the state on with its queue as it was and changes what `l` lists. -/
def State.Touches (s : State) (l : List Nat × List Fld) (o : Out) : Prop := ∃ t, o = .next t ∧ t.pending = s.pending ∧ s.dev.Agree l.1 l.2 t.dev

/-- An effect keeps its frame when time and what follows an occurrence are added to it. -/
theorem Dev.act_agree {cs gs : List Nat} {fs hs : List Fld} (d : Dev) (t : Nat) {f : Dev → Dev} (h : ∀ d : Dev, d.Agree gs hs (f d))
    (hc : within gs (touches cs fs).1 = true) (hf : within hs (touches cs fs).2 = true) : d.Agree (touches cs fs).1 (touches cs fs).2 (d.act t f) := by
  have htime : d.Agree (touches cs fs).1 (touches cs fs).2 (d.atTime t) := .upd_now (by simp [touches]) .refl
  have heffect := (h (d.atTime t)).step hc hf htime
  refine (Dev.settle_frame _ _).step ?_ ?_ heffect
  all_goals simp [within, touches]

theorem State.does_touches {cs gs : List Nat} {fs hs : List Fld} (s : State) (t : Nat) {f : Dev → Dev} (h : ∀ d : Dev, d.Agree gs hs (f d))
    (hc : within gs (touches cs fs).1 = true) (hf : within hs (touches cs fs).2 = true) : s.Touches (touches cs fs) (s.does t f) :=
  ⟨s.act t f, rfl, rfl, s.dev.act_agree t h hc hf⟩

theorem State.on_touches {cs gs : List Nat} {fs hs : List Fld} (s : State) (t dom : Nat) {f : Dev → Dev} (h : ∀ d : Dev, d.Agree gs hs (f d))
    (hc : within gs (touches cs fs).1 = true) (hf : within hs (touches cs fs).2 = true) :
    s.Touches (touches cs fs) (s.does t fun d => d.whenOn dom f) :=
  s.does_touches t (fun d => Dev.Agree.whenOn (fun _ => h d) .refl) hc hf

/-- An effect while firmware serves the host. -/
theorem State.up_touches {cs gs : List Nat} {fs hs : List Fld} (s : State) (t : Nat) {f : Dev → Dev} (h : ∀ d : Dev, d.Agree gs hs (f d))
    (hc : within gs (touches cs fs).1 = true) (hf : within hs (touches cs fs).2 = true) :
    s.Touches (touches cs fs) (s.does t fun d => d.whenUp f) :=
  s.does_touches t (fun d => Dev.Agree.whenUp (fun _ => h d) .refl) hc hf

theorem State.control_touches {cs gs : List Nat} {fs hs : List Fld} (s : State) (t : Nat) {f : Dev → Dev} (h : ∀ d : Dev, d.Agree gs hs (f d))
    (hc : within gs (touches cs fs).1 = true) (hf : within hs (touches cs fs).2 = true) :
    s.Touches (touches cs fs) (s.does t fun d => d.whenControl f) :=
  s.does_touches t (fun d => Dev.Agree.whenControl (fun _ => h d) .refl) hc hf

theorem State.service_touches {cs gs : List Nat} {fs hs : List Fld} (s : State) (t : Nat) {f : Dev → Dev} (h : ∀ d : Dev, d.Agree gs hs (f d))
    (hc : within gs (touches cs fs).1 = true) (hf : within hs (touches cs fs).2 = true) :
    s.Touches (touches cs fs) (s.does t fun d => d.whenService f) :=
  s.does_touches t (fun d => Dev.Agree.whenService (fun _ => h d) .refl) hc hf

/-- Where a command may change everything, nothing is left to keep. -/
theorem agree_everything (d e : Dev) : d.Agree everything.1 everything.2 e := by
  constructor
  · intro p i hp hg
    have hlisted : everything.1.contains p.group = true := by
      simp only [Par.small, Bool.and_eq_true, decide_eq_true_eq] at hp
      obtain ⟨hcls, -⟩ := hp
      simp only [everything, List.contains_eq_mem, List.mem_range, decide_eq_true_eq, Par.group]
      split <;> omega
    rw [hlisted] at hg
    cases hg
  · intro f hf
    cases f <;> cases hf

theorem State.does_everything (s : State) (t : Nat) (f : Dev → Dev) : s.Touches everything (s.does t f) :=
  ⟨s.act t f, rfl, rfl, agree_everything _ _⟩

/-! ## Weave messages -/

/-- Receiving a weave message moves the weave's own state beside what the message does. -/
theorem Dev.wrx_agree {gs : List Nat} {hs : List Fld} (d : Dev) (h : WHdr) (kind : Nat) (body : List Byte) {act : Dev → Dev}
    (hact : ∀ x : Dev, x.Agree gs hs (act x)) : d.Agree gs (.weave :: hs) (d.wrx h kind body act) := by
  have hweave : (Fld.weave :: hs).contains .weave = true := by simp
  have hacts (x : Dev) : x.Agree gs (.weave :: hs) (act x) :=
    (hact x).mono (by simp [within]) (by simp only [within, List.all_eq_true, List.contains_eq_mem, decide_eq_true_eq]; exact fun f => .tail _)
  have hforward (x : Dev) (q : Nat) : x.Agree gs (.weave :: hs) (x.wForward h kind body q) :=
    (x.wForward_frame h kind body q).mono rfl (by simp [within])
  unfold Dev.wrx
  extract_lets p st dest src old weave seen marked forwarded
  have hforwarded : d.Agree gs (.weave :: hs) forwarded := by
    have hmarked : d.Agree gs (.weave :: hs) marked := .upd_weave hweave .refl
    exact .ite (fun _ => .forL (fun x q hx => hx.trans (hforward x q)) hmarked) (fun _ => hmarked)
  refine .ite (fun _ => .refl) fun _ => .ite (fun _ => (d.setWport_frame _ _).mono rfl (by simp [within])) fun _ => ?_
  refine .ite (fun _ => hacts d) fun _ => .ite (fun _ => .ite (fun _ => .upd_weave hweave .refl) fun _ => hforwarded.trans (hacts _)) fun _ => ?_
  refine .ite (fun _ => hacts d) fun _ => .ite (fun _ => .refl) fun _ => ?_
  split
  · exact hforward d _
  · exact .refl

theorem State.weave_touches {cs gs : List Nat} {fs hs : List Fld} (s : State) (h : WHdr) (kind : Nat) (body : List Byte) {f : Dev → Dev}
    (hact : ∀ d : Dev, d.Agree gs hs (f d)) (hc : within gs (touches cs fs).1 = true) (hf : within (.weave :: hs) (touches cs fs).2 = true) :
    s.Touches (touches cs fs) (s.weave h kind body f) :=
  s.does_touches h.t (fun d => d.wrx_agree h kind body hact) hc hf

/-- What MGMT may change (R403): what a request of a host may, through a session of the weave. -/
theorem Dev.mgmt_agree (d : Dev) (h : WHdr) (m : MgmtMsg) :
    d.Agree [0x20, 0x30, 0x31, 0x60, 0x61, 0x90, 0x91, 0xA0, 0xA1, 0xC0]
      [.weave, .evt, .host, .tsets, .commits, .mode, .legs, .ports, .caps, .trigs, .weave, .lid] (d.mgmt h m) := by
  refine d.wrx_agree h wkMgmt (mgmtBytes m) fun x => .ite (fun _ => .refl) fun _ => ?_
  split
  · exact (x.proxyBack_frame _ _ _).mono rfl rfl
  · split
    · exact (x.weavePut_frame _ _ _).mono rfl rfl
    next r hr =>
      have hsession : Dev.AgreeO [0x90, 0x91] [.host, .lid] x (some r) := hr ▸ x.weaveSession_frame _ _ _
      exact (r.2.weaveRequest_frame _ _ _ _).step rfl rfl (Dev.Agree.mono hsession rfl rfl)

/-! ## Host messages that act on sessions and registered work alone -/

/-- Messages that act on the host's own state, or wait for the end of the beat. -/
def keepsToHost : HostMsg → Bool
  | .opn | .close | .heartbeat | .read _ | .readImage _ _ _ | .write _ | .bulkWrite _ _ _ | .claim _ | .release _ | .modeRequest _ | .updStatus => true
  | _ => false

/-- The host's own state, and what follows an occurrence. -/
abbrev Dev.HostAgree (d e : Dev) : Prop := d.Agree [0x60, 0x61, 0x90, 0x91, 0xC0] [.evt, .host, .commits, .caps, .trigs, .weave, .lid] e

theorem Dev.actOn_hostAgree (d : Dev) (s tag : Nat) (shadow sealed' : Bool) (back : Nat) {m : HostMsg} (hm : keepsToHost m = true) :
    d.HostAgree (d.actOn s tag shadow sealed' back m) := by
  have hanswer (op st : Nat) (bs : List Byte) : d.HostAgree (d.respond s tag op d.now st bs) := (d.respond_frame _ _ _ _ _ _).mono rfl rfl
  cases m with
  | opn => exact hanswer _ _ _
  | close => exact (Dev.sessionEnd_frame _ s).step rfl rfl (hanswer _ _ _)
  | heartbeat => exact .refl
  | read es => exact .ite (fun _ => hanswer _ _ _) fun _ => hanswer _ _ _
  | readImage => exact hanswer _ _ _
  | write => exact (d.regWrite_frame _ _ _).mono rfl rfl
  | bulkWrite => exact (d.regBulk_frame _ _ _ _ _).mono rfl rfl
  | claim => exact (d.regClaim_frame _ _ _).mono rfl rfl
  | release => exact (d.regRelease_frame _ _ _).mono rfl rfl
  | modeRequest => exact (d.regMode_frame _ _ _).mono rfl rfl
  | updStatus => exact (d.respond_frame _ _ _ _ _ _ _).mono rfl rfl
  | _ => cases hm

theorem Dev.takeMsg_hostAgree (d : Dev) (s tag : Nat) (shadow sealed' : Bool) (back : Nat) {m : HostMsg} (hm : keepsToHost m = true) :
    d.HostAgree (d.takeMsg s tag shadow sealed' back m) := by
  have halive : d.HostAgree (d.setSess s { d.sess s with lastMsg := d.now }) := (d.setSess_frame _ _).mono rfl rfl
  unfold Dev.takeMsg
  extract_lets e
  split
  · exact .forL (fun x _ hx => (x.sendTo_frame _ _).step rfl rfl hx) halive
  · exact .ite (fun _ => halive) fun _ => halive.trans (Dev.actOn_hostAgree _ _ _ _ _ _ hm)

theorem Dev.recoveryMsg_hostAgree (d : Dev) (h : Hdr) {m : HostMsg} (hm : keepsToHost m = true) : d.HostAgree (d.recoveryMsg h m) := by
  have hanswer (x : Dev) (tag op st : Nat) : x.HostAgree (x.respond 0 tag op x.now st []) := (x.respond_frame _ _ _ _ _ _).mono rfl rfl
  unfold Dev.recoveryMsg
  extract_lets tag op bad e
  have htaken : d.HostAgree e := .inc rfl rfl ((d.ringTake_frame 0 _).mono rfl rfl)
  refine .ite (fun _ => .refl) fun _ => .ite (fun _ => htaken.trans (hanswer e _ _ _)) fun _ => ?_
  split
  · exact .forL (fun x _ hx => (x.sendTo_frame _ _).step rfl rfl hx) htaken
  · exact .ite (fun _ => htaken.trans (e.actOn_hostAgree _ _ _ _ _ hm)) fun _ => htaken.trans (hanswer e _ _ _)

theorem Dev.hostMsg_hostAgree (d : Dev) (h : Hdr) {m : HostMsg} (hm : keepsToHost m = true) : d.HostAgree (d.hostMsg h m) := by
  have hgated : d.HostAgree (d.gate h h.session.val m).2 := (d.gate_frame _ _ _).mono rfl rfl
  unfold Dev.hostMsg Dev.hostMsgIn
  refine .ite (fun _ => d.recoveryMsg_hostAgree h hm) fun _ => .ite (fun _ => .refl) fun _ => ?_
  extract_lets s tag r e
  split
  · exact hgated
  · exact .ite (fun _ => (e.respond_frame _ _ _ _ _ _).step rfl rfl hgated) fun _ => (e.ringPush_frame _ _).step rfl rfl hgated
  · refine .ite (fun _ => .ite (fun _ => ?_) fun _ => (e.ringPush_frame _ _).step rfl rfl hgated) fun _ => hgated.trans (e.takeMsg_hostAgree _ _ _ _ _ hm)
    exact (Dev.respond_frame _ _ _ _ _ _ _).step rfl rfl ((e.sessionOpen_frame _ _).step rfl rfl hgated)

theorem State.host_touches {cs : List Nat} {fs : List Fld} (s : State) (h : Hdr) {m : HostMsg} (hm : keepsToHost m = true)
    (hc : within [0x60, 0x61, 0x90, 0x91, 0xC0] (touches cs fs).1 = true) (hf : within [.evt, .host, .commits, .caps, .trigs, .weave, .lid] (touches cs fs).2 = true) :
    s.Touches (touches cs fs) (s.host h m) :=
  s.does_touches h.t (fun d => d.hostMsg_hostAgree h hm) hc hf

theorem State.write_touches {cs : List Nat} {fs : List Fld} (s : State) (h : Hdr) (p : Par) (i : Nat) (v : W64)
    (hc : within [0x60, 0x61, 0x90, 0x91, 0xC0] (touches cs fs).1 = true) (hf : within [.evt, .host, .commits, .caps, .trigs, .weave, .lid] (touches cs fs).2 = true) :
    s.Touches (touches cs fs) (s.write h p i v) :=
  s.does_touches h.t (fun d => d.hostMsg_hostAgree h rfl) hc hf

/-! ## Every command -/

/-- The frame of each command is that of the operation it runs. -/
theorem exec_touches (c : Instr) (s : State) : s.Touches (instrTouch c) (exec c s) := by
  cases c with
  | beatBoundary | activationVerified | porstnAssert | brownOut | serviceReset | watchdogExpiry | firmwareStart | wakeComplete | darkEntryComplete
    | islandSourcesLost => exact s.does_everything _ _
  | tblCommit | tblAbort | beatGridWrite | gridTargetWrite | sampleNow | socSet | pSetWrite | burstRequest | burstAbort | portClear | portUnlock
    | legClear | adcCalibrate | winReadback | capRunStart | capRunStop | trigArmWrite | tokenGive | spokeDiscover | spokeUnblock | cellBypassWrite
    | cellClearLockWrite | cellSerialRefWrite | cellSettingWrite | blockClear | recover | ringReset | retainedClear | resetReq | pwrRequestParked
    | pwrRequestRun | pwrRequestDark | evtRaise => exact s.write_touches _ _ _ _ rfl rfl
  | rimConfigRecord | opn | close | heartbeat | read | readImage | bulkWrite | claim | release | modeRequest | updStatus => exact s.host_touches _ rfl rfl rfl
  | hostFire | finish | write | parameterWrite | stopTrip | stopLegs | abort | attest | updManifest | updChunk | updCancel | updActivate | updConfirm
    | keyEnrol | keyRevoke => exact s.does_touches _ (fun d => d.hostMsg_frame _ _) rfl rfl
  | tableSyncDone => exact s.control_touches _ (fun d => d.syncDone_frame _) rfl rfl
  | tablePersist => exact s.control_touches _ (fun d => d.persist_frame) rfl rfl
  | commitValidationDone => exact s.control_touches _ (fun d => d.validated_frame) rfl rfl
  | computeWindowEnd => exact s.does_touches _ (fun d => d.windowEnd_frame) rfl rfl
  | finalStep => exact s.on_touches _ _ (fun d => d.finalPass_frame) rfl rfl
  | contextDeadline => exact s.on_touches _ _ (fun d => d.deadline_frame _) rfl rfl
  | impedanceEstimate => exact s.on_touches _ _ (fun d => .ite (fun _ => (d.setIsl_frame _ _).mono (cs' := []) (fs' := [.isls]) rfl rfl) fun _ => (d.isldEstimate_frame _).mono rfl rfl) rfl rfl
  | svCycleComparison => exact s.on_touches _ _ (fun d => .ite (fun _ => .refl) fun _ => d.svCompare_frame _ _ _ _ _) rfl rfl
  | svStreamAbsent => exact s.does_touches _ (fun d => d.svAbsent_frame _) rfl rfl
  | staggerSlot => exact s.on_touches _ _ (fun d => d.staggerSlot_frame) rfl rfl
  | openingDue => exact s.on_touches _ _ (fun d => d.portDue_frame _) rfl rfl
  | openingEnd => exact s.on_touches _ _ (fun d => d.openingEnd_frame _) rfl rfl
  | ditherPeriodEnd => exact s.on_touches _ _ (fun d => d.ditherEnd_frame _) rfl rfl
  | storageEnergySave => exact s.up_touches _ (fun d => d.energySave_frame) rfl rfl
  | burstEnd => exact s.on_touches _ _ (fun d => d.burstEnd_frame _) rfl rfl
  | carrierUpdatePoint => exact s.on_touches _ _ (fun d => d.updatePoint_frame _ _) rfl rfl
  | variableIntervalMax => exact s.on_touches _ _ (fun d => d.varMax_frame _) rfl rfl
  | bootstrapRefresh => exact s.on_touches _ _ (fun d => d.refreshTimer_frame _) rfl rfl
  | osierCalibration => exact s.on_touches _ _ (fun d => d.osierCal_frame _) rfl rfl
  | legFaultInput => exact s.on_touches _ _ (fun d => d.faultInputs_frame _) rfl rfl
  | legReadyHigh => exact s.on_touches _ _ (fun d => d.setLeg_frame _ _) rfl rfl
  | legReadyLow => exact s.on_touches _ _ (fun d => d.readyLow_frame _) rfl rfl
  | adcConversion => exact s.on_touches _ _ (fun d => d.adcConvert_frame _ _) rfl rfl
  | adcCalibrationDone => exact s.on_touches _ _ (fun d => d.adcCalDone_frame _ _ _) rfl rfl
  | sdiStuck => exact s.on_touches _ _ (fun d => d.sdiStuck_frame _) rfl rfl
  | windowComparatorChange => exact s.does_touches _ (fun d => d.winChange_frame _ _ _) rfl rfl
  | readbackDone => exact s.on_touches _ _ (fun d => d.readbackDone_frame _ _) rfl rfl
  | thresholdCheckPeriod => exact s.on_touches _ _ (fun d => d.checkPeriod_frame _) rfl rfl
  | meterSample => exact s.does_touches _ (fun d => d.metSample_frame _ _) rfl rfl
  | zeroCrossingTimeout => exact s.does_touches _ (fun d => d.metTimeout_frame _) rfl rfl
  | meterCommit => exact s.does_touches _ (fun d => d.metCommit_frame) rfl rfl
  | supplyLoss => exact s.does_touches _ (fun d => .upd_pwr (cs := [0x50, 0xC0]) (fs := [.evt, .met, .pwr]) rfl (d.supplyLoss_frame.mono rfl rfl)) rfl rfl
  | lastGaspRearm => exact s.does_touches _ (fun d => .upd_pwr (cs := []) (fs := [.met, .pwr]) rfl (d.gaspRearm_frame.mono rfl rfl)) rfl rfl
  | blockFlush => exact s.does_touches _ (fun d => d.blockFlush_frame _) rfl rfl
  | captureBlockDelivery => exact s.up_touches _ (fun d => d.deliverBlock_frame _) rfl rfl
  | ringCaptureComplete => exact s.on_touches _ _ (fun d => d.capComplete_frame _) rfl rfl
  | holdoffEnd => exact s.on_touches _ _ (fun d => d.holdoffEnd_frame _) rfl rfl
  | autoFire => exact s.on_touches _ _ (fun d => d.autoFire_frame _) rfl rfl
  | fireWindowClose => exact s.on_touches _ _ (fun d => d.fireClose_frame _) rfl rfl
  | rimInputChange => exact s.does_touches _ (fun d => d.rimInput_frame _ _) rfl rfl
  | rimInputFiltered => exact s.does_touches _ (fun d => d.rimFiltered_frame _) rfl rfl
  | discrepancyTimeout => exact s.does_touches _ (fun d => d.discrepancy_frame _) rfl rfl
  | testPulseStart => exact s.does_touches _ (fun d => d.testStart_frame _) rfl rfl
  | testPulseEnd => exact s.does_touches _ (fun d => d.testEnd_frame _) rfl rfl
  | testLowDeadline => exact s.does_touches _ (fun d => d.testDeadline_frame) rfl rfl
  | testWindowClose => exact s.does_touches _ (fun d => d.testClose_frame) rfl rfl
  | offTest => exact s.does_touches _ (fun d => d.offTest_frame _ _) rfl rfl
  | offTestEnd => exact s.does_touches _ (fun d => d.offTestEnd_frame _ _) rfl rfl
  | outputReadbackMismatch => exact s.does_touches _ (fun d => d.readbackMismatch_frame _ _) rfl rfl
  | edmTimeout => exact s.does_touches _ (fun d => d.edmTimeout_frame _) rfl rfl
  | channelComparison => exact s.does_touches _ (fun d => d.channelCompare_frame _) rfl rfl
  | rimSupplyFault => exact s.does_touches _ (fun d => d.rimSupply_frame) rfl rfl
  | rimResetRelease => exact s.does_touches _ (fun d => d.rstRelease_frame _ _ _) rfl rfl
  | rimResetStuckTimeout => exact s.does_touches _ (fun d => d.rstStuck_frame) rfl rfl
  | weftBlockLock => exact s.does_touches _ (fun d => d.weftLock_frame _) rfl rfl
  | weftLockLoss => exact s.does_touches _ (fun d => d.weftDown_frame _) rfl rfl
  | weftRelockWait => exact s.does_touches _ (fun d => d.weftWaitEnd_frame _) rfl rfl
  | weftPortMissedBeats => exact s.does_touches _ (fun d => d.weftMissed_frame _) rfl rfl
  | ident => exact s.weave_touches _ _ _ (fun d => d.takeIdent_frame _ _ _ _ _ _) rfl rfl
  | lsa => exact s.weave_touches _ _ _ (fun d => d.takeLsa_frame _ _) rfl rfl
  | assign => exact s.weave_touches _ _ _ (fun d => d.takeAssign_frame _) rfl rfl
  | beatPkt => exact s.weave_touches _ _ _ (fun d => d.takeBeatPkt_frame _ _) rfl rfl
  | time => exact s.weave_touches _ _ _ (fun d => d.takeTime_frame _ _ _ _) rfl rfl
  | signals => exact s.weave_touches _ _ _ (fun d => d.takeSignals_frame _ _) rfl rfl
  | armCur => exact s.weave_touches _ _ _ (fun d => d.takeArmCur_frame _ _) rfl rfl
  | ctxState => exact s.weave_touches _ _ _ (fun d => d.takeCtxState_frame _ _ _ _) rfl rfl
  | telemRelay => exact s.weave_touches _ _ _ (fun d => d.telemRelay_frame _ _ _) rfl rfl
  | ringReport => exact s.weave_touches _ _ _ (fun d => d.ringReport_frame _ _ _) rfl rfl
  | fire => exact s.weave_touches _ _ _ (fun d => d.takeFire_frame _ _ _) rfl rfl
  | armBlock => exact s.weave_touches _ _ _ (fun d => d.takeArmBlock_frame _ _) rfl rfl
  | trigArm => exact s.weave_touches _ _ _ (fun d => d.takeTrigArm_frame _ _ _) rfl rfl
  | mgmt => exact s.does_touches _ (fun d => d.mgmt_agree _ _) rfl rfl
  | codes => exact s.weave_touches _ _ _ (fun d => d.takeCodes_frame _ _) rfl rfl
  | subscribe => exact s.does_touches _ (fun d => (Dev.noteSubscribe_frame _ _ _).step (cs := []) (fs := [.weave]) rfl rfl (d.wrx_agree _ _ _ fun _ => .refl)) rfl rfl
  | weavePeriodicSend => exact s.does_touches _ (fun d => d.weavePeriodic_frame) rfl rfl
  | duplexConfigTimeout => exact s.does_touches _ (fun d => d.duplexTimeout_frame) rfl rfl
  | partnerAbsent => exact s.does_touches _ (fun d => d.partnerAbsent_frame) rfl rfl
  | controlFrame => exact s.on_touches _ _ (fun d => d.rxControl_frame _ _ _) rfl rfl
  | discoverFrame => exact s.on_touches _ _ (fun d => d.rxDiscover_frame _ _ _) rfl rfl
  | rangeFrame => exact s.on_touches _ _ (fun d => d.rxRange_frame _ _ _ _) rfl rfl
  | returnFrame => exact s.on_touches _ _ (fun d => d.rxReturn_frame _ _ _) rfl rfl
  | spokeReceiverDead => exact s.on_touches _ _ (fun d => d.receiverDead_frame _) rfl rfl
  | spokeReceiverLive => exact s.on_touches _ _ (fun d => d.receiverLive_frame _) rfl rfl
  | discoveryComplete => exact s.on_touches _ _ (fun d => d.discComplete_frame _) rfl rfl
  | cellLost => exact s.on_touches _ _ (fun d => d.cellLost_frame _) rfl rfl
  | spokeSplit => exact s.on_touches _ _ (fun d => d.spokeSplit_frame _) rfl rfl
  | spokeRejoined => exact s.on_touches _ _ (fun d => d.spokeRejoin_frame _) rfl rfl
  | cellUnblockFail => exact s.on_touches _ _ (fun d => d.unblockFail_frame _) rfl rfl
  | cellBypassFail => exact s.on_touches _ _ (fun d => d.bypassFail_frame _) rfl rfl
  | ptpMessage => exact s.does_touches _ (fun d => d.ptpRx_frame _ _ _ _) rfl rfl
  | timeLockLost => exact s.up_touches _ (fun d => d.timeLost_frame) rfl rfl
  | holdoverLimit => exact s.up_touches _ (fun d => d.holdoverLimit_frame) rfl rfl
  | clkFail => exact s.does_touches _ (fun d => d.clkFail_frame _) rfl rfl
  | clockDomainLocked => exact s.does_touches _ (fun d => d.clkLocked_frame _) rfl rfl
  | supLockstep => exact s.does_touches _ (fun d => d.lockstep_frame _) rfl rfl
  | memUncorr => exact s.does_touches _ (fun d => d.memUncorr_frame _) rfl rfl
  | hello => exact s.does_touches _ (fun d => d.hello_frame _ _ _ _) rfl rfl
  | stopRegisterWrite => exact s.does_touches _ (fun d => d.stopRegister_frame _) rfl rfl
  | proxy => exact s.does_touches _ (fun d => d.hostMsgIn_frame _ _ _ _) rfl rfl
  | ringDoorbell => exact s.does_touches _ (fun d => d.doorbell_frame _ _) rfl rfl
  | ringTailWrite => exact s.does_touches _ (fun d => d.tailWrite_frame _ _) rfl rfl
  | heartbeatSend => exact s.does_touches _ (fun d => d.heartbeats_frame) rfl rfl
  | sessionTimeout => exact s.does_touches _ (fun d => d.sessionTimeout_frame _) rfl rfl
  | handshakeTimeout => exact s.does_touches _ (fun d => d.handshakeTimeout_frame _) rfl rfl
  | linkLoss => exact s.up_touches _ (fun d => d.linkDown_frame _) rfl rfl
  | interruptCoalesce => exact s.up_touches _ (fun d => d.coalesce_frame _) rfl rfl
  | svFrame => exact s.does_touches _ (fun d => d.svFrame_frame _ _ _ _ _ _ _ _) rfl rfl
  | reassemblyTimeout => exact s.does_touches _ (fun d => d.reassemblyTimeout_frame _ _) rfl rfl
  | supervisionFrame => exact s.does_touches _ (fun d => d.supervision_frame) rfl rfl
  | chunkMarked => exact s.service_touches _ (fun d => d.chunkMarked_frame _) rfl rfl
  | autoConfirm => exact s.up_touches _ (fun d => Dev.Agree.whenService (fun _ => d.autoConfirm_frame) .refl) rfl rfl
  | trialWindowExpiry => exact s.up_touches _ (fun d => Dev.Agree.whenService (fun _ => d.trialExpiry_frame) .refl) rfl rfl
  | ownershipLapse => exact s.service_touches _ (fun d => d.ownershipLapse_frame) rfl rfl
  | porstnRelease => exact s.does_touches _ (fun d => d.porstHigh_frame _ _) rfl rfl
  | svcRstStuckTimeout => exact s.does_touches _ (fun d => d.svcStuck_frame) rfl rfl
  | warmResetRelease => exact s.does_touches _ (fun d => d.warmRelease_frame _ _) rfl rfl
  | bootLoaderStart => exact s.does_touches _ (fun d => d.loaderStart_frame) rfl rfl
  | runEntry => exact s.does_touches _ (fun d => d.runEntry_frame _) rfl rfl
  | autoPark => exact s.does_touches _ (fun d => d.autoPark_frame) rfl rfl
  | parkingComplete => exact s.does_touches _ (fun d => d.parkingComplete_frame) rfl rfl
  | wakePin => exact s.does_touches _ (fun d => d.wakePin_frame) rfl rfl
  | parkTimerWake => exact s.does_touches _ (fun d => d.parkTimer_frame) rfl rfl
  | auxFailHigh => exact s.does_touches _ (fun d => d.auxHigh_frame) rfl rfl
  | darkAlarm => exact s.does_touches _ (fun d => d.darkAlarm_frame) rfl rfl
  | darkExitRelease => exact s.does_touches _ (fun d => d.darkRelease_frame _ _) rfl rfl
  | tamperChange => exact s.does_touches _ (fun d => d.tamperChange_frame _) rfl rfl
  | temperatureLog => exact s.does_touches _ (fun d => d.tempLog_frame _ _) rfl rfl
  | harvPgChange => exact s.does_touches _ (fun d => d.pgChange_frame _ _) rfl rfl
  | controlledStageStart => exact s.does_touches _ (fun d => d.harvControlled_frame _) rfl rfl
  | coldStartReturn => exact s.does_touches _ (fun d => d.harvCold_frame _) rfl rfl
  | vstoreFull => exact s.does_touches _ (fun d => d.harvFull_frame _) rfl rfl
  | vstoreResume => exact s.does_touches _ (fun d => d.harvResume_frame _) rfl rfl
  | harvesterVocSample => exact s.does_touches _ (fun d => d.harvSample_frame _ _ _) rfl rfl
  | islandSourceChange => exact s.does_touches _ (fun d => d.islandSource_frame _) rfl rfl
  | islandPowerOn => exact s.does_touches _ (fun d => d.islandStart_frame _ _ _) rfl rfl
  | eventLogAppend => exact s.does_touches _ (fun d => d.logNext_frame) rfl rfl
  | eventRecordDelivery => exact s.does_touches _ (fun d => d.deliverEvents_frame) rfl rfl
  | deliverySecond => exact s.does_touches _ (fun d => .upd_evt (cs := []) (fs := [.evt]) rfl .refl) rfl rfl
  | supervisorPairRestarted => exact s.does_touches _ (fun d => d.pairRestarted_frame _) rfl rfl
  | rollbackFusesBlown => exact s.service_touches _ (fun d => d.fusesBlown_frame) rfl rfl
  | linkUp => exact s.does_touches _ (fun d => d.linkUp_frame _ _ _) rfl rfl
  | sdiDecimatedSample => exact s.on_touches _ _ (fun d =>
      (Dev.sdiDecimated_frame _ _).step (cs := [0x60, 0x61, 0xC0]) (fs := [.evt, .caps, .trigs, .weave, .sdis]) rfl rfl ((d.sdiBits_frame _ _).mono rfl rfl)) rfl rfl
  | gateLEdge => exact s.on_touches _ _ (fun d => d.legEdge_frame _) rfl rfl
  | rimResetPressStart => exact s.does_touches _ (fun d => d.rstPress_frame _) rfl rfl
  | serviceResetPressStart => exact s.does_touches _ (fun d => d.svcPress_frame _) rfl rfl
  | weaveTimeRegisterRead => exact s.does_touches _ (fun d => d.timeRegisterRead_frame) rfl rfl
  | arpNeighbourOrEcho => exact s.does_touches _ (fun d => d.echo_frame _ _ _ _) rfl rfl
  | hsrRingForward => exact s.does_touches _ (fun d => d.hsrForward_frame _ _ _ _) rfl rfl

end Sys2Proof.Machine

open Sys2Proof Sys2Proof.Machine

/-- Settles O58: each command has the frame of its operation. -/
theorem commandFrames : Obligations.CommandFrames := by
  unfold Obligations.CommandFrames
  exact exec_touches

end

section
/-! SUPPORT and PROOF. Two invariants of every step: an output that is energised is used and has no latch cause (R323, R330), and the copies of the boot
and ownership records alternate (R416). -/

namespace Sys2Proof.Machine

/-- From `d` to `e` each of the two invariants is kept. -/
structure Dev.Keeps (d e : Dev) : Prop where
  latchedOff : d.rimLatchedOff → e.rimLatchedOff
  alternate : d.recordsAlternate → e.recordsAlternate

theorem Dev.Keeps.refl (d : Dev) : d.Keeps d := ⟨id, id⟩

theorem Dev.Keeps.trans {a b c : Dev} (h : a.Keeps b) (g : b.Keeps c) : a.Keeps c := ⟨g.latchedOff ∘ h.latchedOff, g.alternate ∘ h.alternate⟩

/-! ## The shapes of a definition -/

theorem Dev.Keeps.ite {a x y : Dev} {c : Prop} [Decidable c] (h : a.Keeps x) (g : a.Keeps y) : a.Keeps (if c then x else y) := by
  split
  · exact h
  · exact g

theorem Dev.Keeps.ite2 {α : Type} {a : Dev} {x y : α × Dev} {c : Prop} [Decidable c] (h : a.Keeps x.2) (g : a.Keeps y.2) :
    a.Keeps (if c then x else y).2 := by
  split
  · exact h
  · exact g

theorem Dev.Keeps.ite3 {α β : Type} {a : Dev} {x y : α × β × Dev} {c : Prop} [Decidable c] (h : a.Keeps x.2.2) (g : a.Keeps y.2.2) :
    a.Keeps (if c then x else y).2.2 := by
  split
  · exact h
  · exact g

theorem Dev.Keeps.foldl {α : Type} {f : Dev → α → Dev} (hf : ∀ (d : Dev) x, d.Keeps (f d x)) (xs : List α) (d : Dev) : d.Keeps (xs.foldl f d) :=
  List.foldlRecOn xs f (motive := d.Keeps) (.refl d) (fun e h x _ => h.trans (hf e x))

theorem Dev.Keeps.forN {f : Dev → Nat → Dev} (hf : ∀ (d : Dev) n, d.Keeps (f d n)) (n : Nat) (d : Dev) : d.Keeps (d.forN n f) :=
  .foldl hf (List.range n) d

theorem Dev.Keeps.forL {α : Type} {f : Dev → α → Dev} (hf : ∀ (d : Dev) x, d.Keeps (f d x)) (xs : List α) (d : Dev) : d.Keeps (d.forL xs f) :=
  .foldl hf xs d

theorem Dev.Keeps.whenUp {f : Dev → Dev} (hf : ∀ d : Dev, d.Keeps (f d)) (d : Dev) : d.Keeps (d.whenUp f) := .ite (hf d) (.refl d)

theorem Dev.Keeps.whenOn {f : Dev → Dev} (hf : ∀ d : Dev, d.Keeps (f d)) (n : Nat) (d : Dev) : d.Keeps (d.whenOn n f) := .ite (hf d) (.refl d)

theorem Dev.Keeps.whenControl {f : Dev → Dev} (hf : ∀ d : Dev, d.Keeps (f d)) (d : Dev) : d.Keeps (d.whenControl f) := .ite (hf d) (.refl d)

theorem Dev.Keeps.whenService {f : Dev → Dev} (hf : ∀ d : Dev, d.Keeps (f d)) (d : Dev) : d.Keeps (d.whenService f) := .ite (.refl d) (hf d)

/-! ## Operations beside both -/

theorem Dev.alternate_of_same {d e : Dev} (h : d.recordsAlternate) (hboot : e.lid.boot = d.lid.boot) (hown : e.lid.own = d.lid.own) :
    e.recordsAlternate := by
  rw [Dev.recordsAlternate, hboot, hown]
  exact h

theorem Dev.Keeps.of_same {d e : Dev} (hon : ∀ j < 4, e.outOn j = d.outOn j) (hactive : e.rim.active = d.rim.active)
    (hcauses : e.rim.causes = d.rim.causes) (hboot : e.lid.boot = d.lid.boot) (hown : e.lid.own = d.lid.own) : d.Keeps e where
  latchedOff h j hj he := by
    simpa only [Dev.outUsed, Dev.outCauses, hactive, hcauses] using h j hj (hon j hj ▸ he)
  alternate h := Dev.alternate_of_same h hboot hown

/-- A frame that names neither the parameters nor the state of the Rim, nor the Lid. -/
def leavesBoth (cs : List Nat) (fs : List Fld) : Bool := !cs.contains 0x70 && !fs.contains .rim && !fs.contains .lid

theorem Dev.Agree.outOn {cs : List Nat} {fs : List Fld} {d e : Dev} (h : d.Agree cs fs e) (hc : cs.contains 0x70 = false) (j : Nat) :
    e.outOn j = d.outOn j := Dev.outOn_of_raw (h.1 _ _ (by decide) hc) j

theorem Dev.Agree.keeps {cs : List Nat} {fs : List Fld} {d e : Dev} (h : d.Agree cs fs e) (hl : leavesBoth cs fs = true) : d.Keeps e := by
  simp only [leavesBoth, Bool.and_eq_true, Bool.not_eq_true'] at hl
  obtain ⟨⟨hclass, hrim⟩, hlid⟩ := hl
  have hsameRim : e.rim = d.rim := h.2 .rim hrim
  have hsameLid : e.lid = d.lid := h.2 .lid hlid
  exact .of_same (fun j _ => h.outOn hclass j) (by rw [hsameRim]) (by rw [hsameRim]) (by rw [hsameLid]) (by rw [hsameLid])

theorem Dev.Keeps.frame {a d e : Dev} {cs : List Nat} {fs : List Fld} (h : a.Keeps d) (g : d.Agree cs fs e) (hl : leavesBoth cs fs = true) : a.Keeps e :=
  h.trans (g.keeps hl)

/-- A parameter that does not show the outputs. -/
theorem Dev.Keeps.put {a d : Dev} (h : a.Keeps d) {p : Par} {i v : Nat} (hp : Par.apart Par.rimOutEnergised p = true) : a.Keeps (d.put p i v) :=
  h.trans (.of_same (fun j _ => d.outOn_put i v j hp) rfl rfl rfl rfl)

theorem Dev.Keeps.raise {a d : Dev} (h : a.Keeps d) {n obj detail : Nat} {island : Bool} : a.Keeps (d.raise n obj detail island) :=
  h.frame (d.raise_frame n obj detail island) rfl

/-- An update that leaves the parameters, the Rim's record and causes, and the records of the Lid. -/
theorem Dev.Keeps.upd {a d e : Dev} (h : a.Keeps d) (hpar : e.par = d.par) (hactive : e.rim.active = d.rim.active) (hcauses : e.rim.causes = d.rim.causes)
    (hboot : e.lid.boot = d.lid.boot) (hown : e.lid.own = d.lid.own) : a.Keeps e :=
  h.trans (.of_same (fun j _ => Dev.outOn_of_raw (by simp only [Dev.raw, hpar]) j) hactive hcauses hboot hown)

theorem Dev.Keeps.atCycle {f : Dev → Dev} (hf : ∀ d : Dev, d.Keeps (f d)) (t : Nat) (d : Dev) : d.Keeps (d.atCycle t f) := by
  have hset : d.Keeps { d with now := d.beatStart + fineNs t } := .upd (.refl d) rfl rfl rfl rfl rfl
  exact .upd (hset.trans (hf _)) rfl rfl rfl rfl rfl

/-! ## Records of the Lid -/

theorem Dev.bootWrite_keeps (d : Dev) (r : BootRec) : d.Keeps (d.bootWrite r) := by
  refine ⟨id, fun hd k hk => ⟨fun x hx => ?_, (hd k hk).2⟩⟩
  unfold Dev.bootWrite at hx
  by_cases hplace : k = (d.bootRec.seq + 1) % 2 ^ 32 % 2
  · subst hplace
    rw [Tab.get_set_same] at hx
    cases hx
    exact ⟨rfl, Nat.mod_lt _ (by decide)⟩
  · rw [Tab.get_set_other _ _ _ _ _ hplace] at hx
    exact (hd k hk).1 x hx

theorem Dev.ownWrite_keeps (d : Dev) (r : OwnRec) : d.Keeps (d.ownWrite r) := by
  refine ⟨id, fun hd k hk => ⟨(hd k hk).1, fun x hx => ?_⟩⟩
  unfold Dev.ownWrite at hx
  by_cases hplace : k = (d.ownRec.seq + 1) % 2 ^ 32 % 2
  · subst hplace
    rw [Tab.get_set_same] at hx
    cases hx
    exact ⟨rfl, Nat.mod_lt _ (by decide)⟩
  · rw [Tab.get_set_other _ _ _ _ _ hplace] at hx
    exact (hd k hk).2 x hx

theorem Dev.tallyZero_keeps (d : Dev) : d.Keeps d.tallyZero := by
  unfold Dev.tallyZero
  extract_lets lid zeroed
  have hzeroed : d.Keeps zeroed := .upd (.refl d) rfl rfl rfl rfl rfl
  exact .put hzeroed rfl

theorem Dev.tallyExtend_keeps (d : Dev) (r : Nat) (digest : List Byte) : d.Keeps (d.tallyExtend r digest) := by
  unfold Dev.tallyExtend
  extract_lets v c entry lid extended
  have hextended : d.Keeps extended := .upd (.refl d) rfl rfl rfl rfl rfl
  exact .put hextended rfl

theorem Dev.tallyKeys_keeps (d : Dev) : d.Keeps d.tallyKeys := d.tallyExtend_keeps _ _

/-! ## Table sets -/

theorem Dev.switchSet_keeps (d : Dev) (k : Nat) : d.Keeps (d.switchSet k) := by
  unfold Dev.switchSet
  extract_lets x y stored tallied
  have hstored : d.Keeps stored := .put (.frame (.refl d) (d.setTset_frame k y) rfl) rfl
  have htallied : d.Keeps tallied := hstored.trans (stored.tallyExtend_keeps _ _)
  exact .ite (.frame (.frame htallied (Dev.restartChanged_frame _ _) rfl) (Dev.resubscribe_frame _) rfl) htallied

theorem Dev.switchTables_keeps (d : Dev) : d.Keeps d.switchTables.2 := by
  refine .forL (fun x c => ?_) _ d
  extract_lets sets commits
  have hsets : x.Keeps sets := .forL Dev.switchSet_keeps _ x
  have hcommits : x.Keeps commits := .upd hsets rfl rfl rfl rfl rfl
  exact .frame hcommits (commits.outcome_frame _ _ _) rfl

theorem Dev.persist_keeps (d : Dev) : d.Keeps d.persist := by
  refine .forN (fun x k => ?_) 3 d
  extract_lets set clean
  have hclean : x.Keeps clean := .frame (.refl x) (x.setTset_frame _ _) rfl
  exact .ite (.upd hclean rfl rfl rfl rfl rfl) (.refl x)

theorem Dev.loadTables_keeps (d : Dev) : d.Keeps d.loadTables := by
  refine .forN (fun x k => ?_) 3 d
  extract_lets img dig loaded raised mode checked
  have hloaded : x.Keeps loaded := .frame (.refl x) (x.loadSet_frame _ _) rfl
  have hraised : x.Keeps raised := .raise (.frame hloaded (loaded.loadSet_frame _ _) rfl)
  have hchecked : x.Keeps checked := .ite (.upd hraised rfl rfl rfl rfl rfl) hloaded
  exact hchecked.trans (checked.tallyExtend_keeps _ _)

/-! ## The update process, keys -/

theorem Dev.holdManifest_keeps (d : Dev) (m : List Byte) : d.Keeps (d.holdManifest m) := .upd (.refl d) rfl rfl rfl rfl rfl

theorem Dev.ownManifest_keeps (d : Dev) (s : Src) (m digest : List Byte) (keep : Bool) : d.Keeps (d.ownManifest s m digest keep) := by
  unfold Dev.ownManifest
  extract_lets o owned src l
  have howned : d.Keeps owned := .ite (d.ownWrite_keeps _) (d.ownWrite_keeps _)
  have hput : d.Keeps (owned.put Par.updImgSchema 0 (leAt m 0x06 2)) := .put howned rfl
  refine .upd hput rfl rfl rfl ?_ ?_
  all_goals
    dsimp only [l, src]
    split <;> rfl

theorem Dev.acceptManifest_keeps (d : Dev) (s : Src) (m : List Byte) : d.Keeps (d.acceptManifest s m).2.2 := by
  unfold Dev.acceptManifest
  extract_lets o digest held
  have hheld : d.Keeps held := d.holdManifest_keeps m
  refine .ite3 (.raise (d.ownManifest_keeps _ _ _ _)) (.ite3 (.ite3 hheld (.ite3 (d.ownManifest_keeps _ _ _ _) ?_)) ?_)
  · exact .ite hheld (.upd hheld rfl rfl rfl rfl rfl)
  · exact .ite3 (.frame (.refl d) (d.refuseUpd_frame none) rfl) (d.ownManifest_keeps _ _ _ _)

theorem Dev.setAssem_keeps (d : Dev) (s : Nat) (v : Option Assem) : d.Keeps (d.setAssem s v) := .upd (.refl d) rfl rfl rfl rfl rfl

theorem Dev.updManifest_keeps (d : Dev) (s total off : Nat) (data : List Byte) : d.Keeps (d.updManifest s total off data).2.2 := by
  unfold Dev.updManifest
  extract_lets asm others x0 x m m' e
  have he : d.Keeps e := d.setAssem_keeps s none
  refine .ite3 (.refl d) (.ite3 (.refl d) (.ite3 (.refl d) (.ite3 (d.setAssem_keeps s _) ?_)))
  split
  · exact .frame he (e.refuseUpd_frame _) rfl
  · exact he.trans (e.acceptManifest_keeps _ _)

theorem Dev.updChunk_keeps (d : Dev) (s i half : Nat) (data : List Byte) : d.Keeps (d.updChunk s i half data).2 := by
  unfold Dev.updChunk
  extract_lets o src m len hs h0 h1 lid held hs' lid' cleared
  have hheld : d.Keeps held := .upd (.refl d) rfl rfl rfl rfl rfl
  have hcleared : d.Keeps cleared := .upd hheld rfl rfl rfl rfl rfl
  refine .ite2 (.refl d) (.ite2 (.refl d) (.ite2 (.refl d) (.ite2 (.refl d) (.ite2 (.refl d) (.ite2 (.refl d) (.ite2 (.refl d) ?_))))))
  exact .ite2 hheld (.ite2 (.upd hcleared rfl rfl rfl rfl rfl) (.put hcleared rfl))

theorem Dev.chunkMarked_keeps (d : Dev) (i : Nat) : d.Keeps (d.chunkMarked i) := by
  unfold Dev.chunkMarked
  extract_lets bs o k slot bm lid marked done owned
  have hmarked : d.Keeps marked := .upd (.refl d) rfl rfl rfl rfl rfl
  have howned : d.Keeps owned := hmarked.trans (marked.ownWrite_keeps _)
  exact .ite (.refl d) (.ite (.raise howned) howned)

theorem Dev.updIdle_keeps (d : Dev) : d.Keeps d.updIdle := .upd (d.ownWrite_keeps {}) rfl rfl rfl rfl rfl

theorem Dev.updCancel_keeps (d : Dev) (s : Nat) : d.Keeps (d.updCancel s).2 := by
  unfold Dev.updCancel
  extract_lets o
  exact .ite2 (.refl d) (.ite2 (.refl d) d.updIdle_keeps)

theorem Dev.activateStart_keeps (d : Dev) (s tag mode : Nat) : d.Keeps (d.activateStart s tag mode) := .upd (d.ownWrite_keeps _) rfl rfl rfl rfl rfl

theorem Dev.activateEnd_keeps (d : Dev) (state status : Nat) : d.Keeps (d.activateEnd state status) := by
  unfold Dev.activateEnd
  extract_lets lid ended record owned
  have hended : d.Keeps ended := .upd (.refl d) rfl rfl rfl rfl rfl
  have howned : d.Keeps owned := .ite (hended.trans (ended.ownWrite_keeps _)) (hended.trans (ended.ownWrite_keeps _))
  split
  · exact .frame howned (owned.outcome_frame _ _ _) rfl
  · exact howned

theorem Dev.activationVerified_keeps (d : Dev) : d.Keeps d.activationVerified := by
  unfold Dev.activationVerified
  split
  · exact .refl d
  split
  · exact .trans (.frame (.refl d) (d.refuseUpd_frame _) rfl) (Dev.activateEnd_keeps _ _ _)
  · extract_lets record booted lid wanted
    have hbooted : d.Keeps booted := d.bootWrite_keeps _
    have hwanted : d.Keeps wanted := .upd hbooted rfl rfl rfl rfl rfl
    exact .trans (.raise hwanted) (Dev.activateEnd_keeps _ _ _)

theorem Dev.confirm_keeps (d : Dev) : d.Keeps d.confirm := by
  unfold Dev.confirm
  extract_lets arc adv r booted idle lid confirmed
  have hidle : d.Keeps idle := (d.bootWrite_keeps _).trans (Dev.updIdle_keeps _)
  have hconfirmed : d.Keeps confirmed := .upd hidle rfl rfl rfl rfl rfl
  exact .raise hconfirmed

theorem Dev.autoConfirm_keeps (d : Dev) : d.Keeps d.autoConfirm := .ite d.confirm_keeps (.refl d)

theorem Dev.trialExpiry_keeps (d : Dev) : d.Keeps d.trialExpiry := by
  unfold Dev.trialExpiry
  extract_lets record booted
  have hended : d.Keeps { booted with lid := { booted.lid with trial := false, resetWanted := true } } :=
    .upd (d.bootWrite_keeps _) rfl rfl rfl rfl rfl
  exact .ite (.refl d) (.raise hended)

theorem Dev.ownershipLapse_keeps (d : Dev) : d.Keeps d.ownershipLapse := .ite (.raise (d.ownWrite_keeps _)) (.refl d)

theorem Dev.fusesBlown_keeps (d : Dev) : d.Keeps d.fusesBlown := by
  unfold Dev.fusesBlown
  split
  · exact .refl d
  · extract_lets fuses blown
    have hblown : d.Keeps blown := .upd (.refl d) rfl rfl rfl rfl rfl
    exact .trans (.raise hblown) (Dev.tallyKeys_keeps _)

theorem Dev.keyChange_keeps (d : Dev) (x : List Byte) : d.Keeps (d.keyChange x) := by
  unfold Dev.keyChange
  extract_lets u lid changed
  have hchanged : d.Keeps changed := .upd (.refl d) rfl rfl rfl rfl rfl
  exact .trans (.raise hchanged) (Dev.tallyKeys_keeps _)

theorem Dev.updMessage_keeps {d e : Dev} {s tag st : Nat} {m : HostMsg} {bs : List Byte} {more : Bool}
    (h : d.updMessage s tag m = some (st, bs, more, e)) : d.Keeps e := by
  unfold Dev.updMessage at h
  cases m with
  | attest x => cases h; exact .frame (.refl d) (d.attest_frame _) rfl
  | updManifest => cases h; exact d.updManifest_keeps _ _ _ _
  | updChunk => cases h; exact d.updChunk_keeps _ _ _ _
  | updStatus => cases h; exact .refl d
  | updCancel => cases h; exact d.updCancel_keeps _
  | updActivate =>
    dsimp only at h
    split at h
    · cases h
      exact d.activateStart_keeps _ _ _
    · cases h
      exact .frame (.refl d) (d.refuseUpd_frame _) rfl
  | updConfirm =>
    dsimp only at h
    split at h
    · cases h
      exact d.confirm_keeps
    · cases h
      exact .refl d
  | keyEnrol => cases h; exact .ite (d.keyChange_keeps _) (.refl d)
  | keyRevoke => cases h; exact .ite (d.keyChange_keeps _) (.refl d)
  | _ => cases h

/-! ## Sessions and messages -/

theorem Dev.sessionOpen_keeps (d : Dev) (s : Nat) (x : Sess) : d.Keeps (d.sessionOpen s x) := by
  unfold Dev.sessionOpen
  extract_lets opened lid since
  have hopened : d.Keeps opened := .frame (.refl d) (d.setSess_frame _ _) rfl
  have hsince : d.Keeps since := .upd hopened rfl rfl rfl rfl rfl
  exact .ite hsince (.put (.frame hsince (since.pairRings_frame _ _ _) rfl) rfl)

theorem Dev.sessionEnd_keeps (d : Dev) (s : Nat) : d.Keeps (d.sessionEnd s) := by
  unfold Dev.sessionEnd
  extract_lets x closed shown host ended lid
  have hclosed : d.Keeps closed := .frame (.refl d) (d.setSess_frame _ _) rfl
  have hshown : d.Keeps shown := .ite (.put hclosed rfl) hclosed
  have hended : d.Keeps ended := .upd hshown rfl rfl rfl rfl rfl
  exact .ite (.refl d) (.ite hended (.upd hended rfl rfl rfl rfl rfl))

theorem Dev.weaveSession_keeps {d : Dev} {stake session port : Nat} {r : Nat × Dev} (h : d.weaveSession stake session port = some r) : d.Keeps r.2 := by
  unfold Dev.weaveSession at h
  split at h
  · cases h
    exact .refl d
  · split at h
    · cases h
      exact d.sessionOpen_keeps _ _
    · cases h

theorem Dev.sessionTimeout_keeps (d : Dev) (s : Nat) : d.Keeps (d.sessionTimeout s) := by
  unfold Dev.sessionTimeout
  extract_lets x code ended moded
  have hended : d.Keeps ended := d.sessionEnd_keeps s
  exact .ite (.refl d) (.raise (.ite hended (.frame hended (ended.modeCommand_frame _) rfl)))

theorem Dev.handshakeTimeout_keeps (d : Dev) (s : Nat) : d.Keeps (d.handshakeTimeout s) :=
  .ite (.refl d) (.ite (d.sessionEnd_keeps s) (.frame (.frame (.refl d) (d.setSess_frame _ _) rfl) (Dev.pairRings_frame _ _ _ _) rfl))

theorem Dev.checkSeal_keeps (d : Dev) (s : Nat) (z : Seal) : d.Keeps (d.checkSeal s z).2 := by
  unfold Dev.checkSeal
  extract_lets x
  split
  · exact .refl d
  split
  · exact d.sessionEnd_keeps s
  · exact .frame (.refl d) (d.setSess_frame _ _) rfl

theorem Dev.linkDown_keeps (d : Dev) (l : Nat) : d.Keeps (d.linkDown l) := by
  unfold Dev.linkDown
  extract_lets down gone both lost
  have hdown : d.Keeps down := .put (.refl d) rfl
  have hgone : d.Keeps gone := .ite hdown (.frame hdown (down.ptpGone_frame _) rfl)
  exact hgone.trans (.forN (fun x s => .ite (x.sessionEnd_keeps s) (.refl x)) 16 gone)

theorem Dev.abortOp_keeps (d : Dev) (s tag : Nat) : d.Keeps (d.abortOp s tag).2 := by
  unfold Dev.abortOp
  split
  · split
    · exact d.activateEnd_keeps 2 stAborted
    · split
      · exact .frame (.refl d) (d.commitEnd_frame _ _ _) rfl
      · exact .refl d
  · split
    · exact .refl d
    · exact .refl d

theorem Dev.respond_keeps (d : Dev) (s tag op ts st : Nat) (bs : List Byte) (more : Bool) : d.Keeps (d.respond s tag op ts st bs more) :=
  .frame (.refl d) (d.respond_frame _ _ _ _ _ _ _) rfl

theorem Dev.finish_keeps (d : Dev) (s tag : Nat) (sealed' : Bool) (sig : List Byte) : d.Keeps (d.finish s tag sealed' sig) := by
  unfold Dev.finish
  extract_lets x head key opened counted
  have hopened : d.Keeps opened := d.sessionOpen_keeps s x
  have hcounted : d.Keeps counted := .ite (.raise (.put hopened rfl)) hopened
  refine .ite (d.respond_keeps _ _ _ _ _ _ _) (.ite (d.respond_keeps _ _ _ _ _ _ _) (.ite (d.respond_keeps _ _ _ _ _ _ _) (.ite ?_ ?_)))
  · exact .trans (.frame (.refl d) (d.setSess_frame _ _) rfl) (Dev.respond_keeps _ _ _ _ _ _ _ _)
  · exact hcounted.trans (counted.respond_keeps _ _ _ _ _ _ _)

theorem Dev.actOn_keeps (d : Dev) (s tag : Nat) (shadow sealed' : Bool) (back : Nat) (m : HostMsg) : d.Keeps (d.actOn s tag shadow sealed' back m) := by
  have hanswer (op st : Nat) (bs : List Byte) : d.Keeps (d.respond s tag op d.now st bs) := d.respond_keeps _ _ _ _ _ _ _
  have hupd : ∀ m : HostMsg, d.Keeps (match d.updMessage s tag m with
      | some (st, bs, more, e) => e.respond s tag m.opcode d.now st bs more
      | none => d) := fun m => by
    split
    · next e h => exact (Dev.updMessage_keeps h).trans (e.respond_keeps _ _ _ _ _ _ _)
    · exact .refl d
  cases m with
  | opn => exact hanswer _ _ _
  | close => exact (hanswer _ _ _).trans (Dev.sessionEnd_keeps _ s)
  | heartbeat => exact .refl d
  | finish => exact d.finish_keeps _ _ _ _
  | read => exact .ite (hanswer _ _ _) (hanswer _ _ _)
  | readImage => exact hanswer _ _ _
  | write => exact .frame (.refl d) (d.regWrite_frame _ _ _) rfl
  | bulkWrite => exact .frame (.refl d) (d.regBulk_frame _ _ _ _ _) rfl
  | claim => exact .frame (.refl d) (d.regClaim_frame _ _ _) rfl
  | release => exact .frame (.refl d) (d.regRelease_frame _ _ _) rfl
  | modeRequest => exact .frame (.refl d) (d.regMode_frame _ _ _) rfl
  | stopTrip => exact .frame (.frame (.refl d) d.stopTrip_frame rfl) (Dev.respond_frame _ _ _ _ _ _ _) rfl
  | stopLegs => exact .frame (.frame (.refl d) d.stopLegs_frame rfl) (Dev.respond_frame _ _ _ _ _ _ _) rfl
  | abort => exact .ite (.frame (.refl d) (d.register_frame _) rfl) ((d.abortOp_keeps _ _).trans (Dev.respond_keeps _ _ _ _ _ _ _ _))
  | proxy => exact .frame (.refl d) (d.proxyOut_frame _ _ _ _ _) rfl
  | attest n => exact hupd (.attest n)
  | updManifest a b c => exact hupd (.updManifest a b c)
  | updChunk a b c => exact hupd (.updChunk a b c)
  | updStatus => exact hupd .updStatus
  | updCancel => exact hupd .updCancel
  | updActivate a => exact hupd (.updActivate a)
  | updConfirm => exact hupd .updConfirm
  | keyEnrol x => exact hupd (.keyEnrol x)
  | keyRevoke x => exact hupd (.keyRevoke x)

theorem Dev.takeMsg_keeps (d : Dev) (s tag : Nat) (shadow sealed' : Bool) (back : Nat) (m : HostMsg) :
    d.Keeps (d.takeMsg s tag shadow sealed' back m) := by
  have halive : d.Keeps (d.setSess s { d.sess s with lastMsg := d.now }) := .frame (.refl d) (d.setSess_frame _ _) rfl
  unfold Dev.takeMsg
  extract_lets x e
  split
  · exact halive.trans (.forL (fun x _ => .frame (.refl x) (x.sendTo_frame _ _) rfl) _ _)
  · exact .ite halive (halive.trans (Dev.actOn_keeps _ _ _ _ _ _ _))

theorem Dev.recoveryMsg_keeps (d : Dev) (h : Hdr) (m : HostMsg) : d.Keeps (d.recoveryMsg h m) := by
  unfold Dev.recoveryMsg
  extract_lets tag op bad e
  have htaken : d.Keeps e := .put (.frame (.refl d) (d.ringTake_frame 0 _) rfl) rfl
  refine .ite (.refl d) (.ite (htaken.trans (e.respond_keeps _ _ _ _ _ _ _)) ?_)
  split
  · exact htaken.trans (.forL (fun x _ => .frame (.refl x) (x.sendTo_frame _ _) rfl) _ _)
  · exact .ite (htaken.trans (e.actOn_keeps _ _ _ _ _ _)) (htaken.trans (e.respond_keeps _ _ _ _ _ _ _))

theorem Dev.gate_keeps (d : Dev) (h : Hdr) (ring : Nat) (m : HostMsg) : d.Keeps (d.gate h ring m).2 := by
  unfold Dev.gate
  extract_lets op s x known up counted bad taken r
  have hcounted : d.Keeps counted := .put (.refl d) rfl
  have htaken : d.Keeps taken := .put (.frame (.refl d) (d.ringTake_frame _ _) rfl) rfl
  have hr : d.Keeps r.2 := by
    unfold r
    split
    · exact htaken.trans (taken.checkSeal_keeps _ _)
    · split
      · exact htaken
      · exact htaken
  refine .ite2 (.refl d) (.ite2 (.ite2 (.refl d) ?_) (.ite2 (.refl d) (.ite2 htaken (.ite2 hr (.ite2 (.ite2 hr hr) (.ite2 hr hr))))))
  split
  · exact .put hcounted rfl
  · have hsealed (z : Seal) : d.Keeps (counted.checkSeal s z).2 := hcounted.trans (counted.checkSeal_keeps s z)
    exact .ite2 (hsealed _) (hsealed _)

theorem Dev.hostMsgIn_keeps (d : Dev) (h : Hdr) (ring back : Nat) (m : HostMsg) : d.Keeps (d.hostMsgIn h ring back m) := by
  have hgated : d.Keeps (d.gate h ring m).2 := d.gate_keeps _ _ _
  unfold Dev.hostMsgIn
  extract_lets s tag r e
  refine .ite (d.recoveryMsg_keeps h m) (.ite (.refl d) ?_)
  split
  · exact hgated
  · exact .ite (hgated.trans (e.respond_keeps _ _ _ _ _ _ _)) (.frame hgated (e.ringPush_frame _ _) rfl)
  · refine .ite (.ite ?_ (.frame hgated (e.ringPush_frame _ _) rfl)) (hgated.trans (e.takeMsg_keeps _ _ _ _ _ _))
    exact hgated.trans ((e.sessionOpen_keeps _ _).trans (Dev.respond_keeps _ _ _ _ _ _ _ _))

theorem Dev.weaveRequest_keeps (d : Dev) (s tag : Nat) (shadow : Bool) (req : HostMsg) : d.Keeps (d.weaveRequest s tag shadow req) := by
  unfold Dev.weaveRequest
  split
  · split
    · exact .forL (fun x _ => .frame (.refl x) (x.sendTo_frame _ _) rfl) _ d
    · exact d.respond_keeps _ _ _ _ _ _ _
  · exact d.takeMsg_keeps _ _ _ _ _ _

end Sys2Proof.Machine
end

section
/-! SUPPORT and PROOF. Every command keeps both invariants: the Rim, the windows, writes, the boundary, resets. -/

namespace Sys2Proof.Machine

/-! ## The Rim: once the latches are taken over, the outputs are as they must be -/

theorem Dev.outCauses_of_rim {d e : Dev} (h : e.rim = d.rim) (j : Nat) : e.outCauses j = d.outCauses j := by rw [Dev.outCauses, h, Dev.outCauses]

theorem Dev.raise_rim (d : Dev) (n obj detail : Nat) (island : Bool) : (d.raise n obj detail island).rim = d.rim :=
  (d.raise_frame n obj detail island).2 .rim rfl

theorem Dev.outCauses_rimRefresh (d : Dev) (cause j : Nat) : (d.rimRefresh cause).outCauses j = d.outCauses j := by
  rw [Dev.rimRefresh_eq]
  extract_lets e lock f
  have he : e.outCauses j = d.outCauses j := by
    have hall : d.forN 4 Dev.showOutput = (((d.showOutput 0).showOutput 1).showOutput 2).showOutput 3 := rfl
    refine (Dev.outCauses_of_rim (Dev.put_rim _ _ _ _) j).trans ?_
    rw [hall]
    simp only [Dev.showOutput_causes]
  rw [← he]
  clear_value e
  refine Dev.outCauses_of_rim ?_ j
  split
  · rw [Dev.raise_rim, Dev.inc_rim]
    simp only [f, Dev.put_rim]
  · split
    · simp only [Dev.put_rim]
    · rfl

/-- Whatever the outputs were before (R323). -/
theorem Dev.rimRefresh_latchedOff (d : Dev) (cause : Nat) : (d.rimRefresh cause).rimLatchedOff := fun j hj hon => by
  rw [Dev.outOn_rimRefresh d cause hj, Bool.and_eq_true, beq_iff_eq] at hon
  rwa [(d.rimRefresh_latching cause).used, Dev.outCauses_rimRefresh]

/-- A latch that reaches an output takes the latches over; one that reaches none changes nothing. -/
theorem Dev.rimLatch_latchedOff (d : Dev) {mask cause : Nat} (hhit : d.latchHit mask cause ≠ []) : (d.rimLatch mask cause).rimLatchedOff := by
  rw [Dev.rimLatch_eq, if_neg hhit]
  exact Dev.rimRefresh_latchedOff _ cause

/-- An operation that leaves the Lid keeps its records. -/
theorem Dev.Agree.alternate {cs : List Nat} {fs : List Fld} {d e : Dev} (h : d.Agree cs fs e) (hl : fs.contains .lid = false)
    (hd : d.recordsAlternate) : e.recordsAlternate := by
  have hlid : e.lid = d.lid := h.2 .lid hl
  exact Dev.alternate_of_same hd (by rw [hlid]) (by rw [hlid])

theorem Dev.rimLatch_keeps (d : Dev) (mask cause : Nat) : d.Keeps (d.rimLatch mask cause) where
  latchedOff hd := by
    by_cases hhit : d.latchHit mask cause = []
    · rw [Dev.rimLatch_eq, if_pos hhit]
      exact hd
    · exact d.rimLatch_latchedOff hhit
  alternate := (d.rimLatch_frame mask cause).alternate rfl

theorem Dev.rimEval_keeps (d : Dev) : d.Keeps d.rimEval := by
  unfold Dev.rimEval
  extract_lets e
  have he : d.Keeps e := by
    refine .forN (fun x k => ?_) 8 d
    extract_lets dem was y z lag u mask v f
    have hy : x.Keeps y := .put (.refl x) rfl
    have hz : x.Keeps z := .ite (.put hy rfl) hy
    have hu : x.Keeps u := .ite (.put hz rfl) hz
    have hv : x.Keeps v := .ite (hu.trans (u.rimLatch_keeps _ _)) hu
    exact .ite (hv.trans (v.rimLatch_keeps _ _)) hv
  exact .ite (.refl d) (he.trans (.ite (e.rimLatch_keeps _ _) (.refl e)))

theorem Dev.outputFault_keeps (d : Dev) (j : Nat) : d.Keeps (d.outputFault j) := by
  unfold Dev.outputFault
  extract_lets r e f
  have he : d.Keeps e := .ite (.refl d) (.upd (.refl d) rfl rfl rfl rfl rfl)
  exact .trans (.put he rfl) (f.rimLatch_keeps _ _)

theorem Dev.edmChange_keeps (d : Dev) (k : Nat) : d.Keeps (d.edmChange k) := .forN (fun x j => .ite (x.outputFault_keeps j) (.refl x)) 4 d

theorem Dev.rimInput_keeps (d : Dev) (c mv : Nat) : d.Keeps (d.rimInput c mv) := by
  unfold Dev.rimInput
  extract_lets r e was k
  have he : d.Keeps e := .upd (.refl d) rfl rfl rfl rfl rfl
  split
  · exact he
  · split
    · exact he
    · extract_lets s f g h
      have hf : d.Keeps f := .upd he rfl rfl rfl rfl rfl
      have hg : d.Keeps g := .upd hf rfl rfl rfl rfl rfl
      have hh : d.Keeps h := .ite hf (.ite (.upd hf rfl rfl rfl rfl rfl) (.ite (.upd hf rfl rfl rfl rfl rfl)
        (.ite (.trans (.put (.put hg rfl) rfl) (Dev.rimEval_keeps _)) hf)))
      exact .ite (.upd hh rfl rfl rfl rfl rfl) hh

theorem Dev.rimFiltered_keeps (d : Dev) (c : Nat) : d.Keeps (d.rimFiltered c) := by
  unfold Dev.rimFiltered
  extract_lets r k lv undet change e r' f g
  have he : d.Keeps e := .put (.put (.refl d) rfl) rfl
  have hf : d.Keeps f := .upd he rfl rfl rfl rfl rfl
  have hg : d.Keeps g := .ite (hf.trans (f.edmChange_keeps k)) hf
  exact .ite (.refl d) (hg.trans g.rimEval_keeps)

theorem Dev.discrepancy_keeps (d : Dev) (k : Nat) : d.Keeps (d.discrepancy k) := by
  unfold Dev.discrepancy
  extract_lets ch r e
  have he : d.Keeps e := .ite (.refl d) (.upd (.refl d) rfl rfl rfl rfl rfl)
  exact .ite (.refl d) (.trans (.put he rfl) (Dev.rimEval_keeps _))

theorem Dev.testStart_keeps (d : Dev) (m : Nat) : d.Keeps (d.testStart m) := .ite (.refl d) (.upd (.refl d) rfl rfl rfl rfl rfl)

theorem Dev.testDeadline_keeps (d : Dev) : d.Keeps d.testDeadline := by
  unfold Dev.testDeadline
  extract_lets e
  have he : d.Keeps e := by
    refine .forL (fun x c => .ite (.refl x) ?_) _ d
    extract_lets rim failed
    have hfailed : x.Keeps failed := .upd (.refl x) rfl rfl rfl rfl rfl
    exact .put (.put hfailed rfl) rfl
  exact .ite (.refl d) (he.trans e.rimEval_keeps)

theorem Dev.testClose_keeps (d : Dev) : d.Keeps d.testClose := by
  unfold Dev.testClose
  extract_lets r e
  have he : d.Keeps e := by
    refine .forL (fun x c => ?_) _ d
    have hskipped : x.Keeps { x with rim := { x.rim with skip := setBit x.rim.skip (c / 2) true } } := .upd (.refl x) rfl rfl rfl rfl rfl
    exact .ite (.put hskipped rfl) (.ite (.refl x) (.put (.put (.refl x) rfl) rfl))
  clear_value e
  have hclosed : d.Keeps { e with rim := { e.rim with window := none, under := 0, sawLow := 0, fell := 0, failed := 0 } } := .upd he rfl rfl rfl rfl rfl
  exact .ite (.refl d) (hclosed.trans (Dev.rimEval_keeps _))

theorem Dev.offTest_keeps (d : Dev) (j ch : Nat) : d.Keeps (d.offTest j ch) := .ite (.upd (.refl d) rfl rfl rfl rfl rfl) (.refl d)

theorem Dev.offTestEnd_keeps (d : Dev) (j ch : Nat) : d.Keeps (d.offTestEnd j ch) := by
  unfold Dev.offTestEnd
  extract_lets r e r' f
  have he : d.Keeps e := .upd (.refl d) rfl rfl rfl rfl rfl
  have hf : d.Keeps f := .upd he rfl rfl rfl rfl rfl
  exact .ite (.refl d) (.ite (.put (.put hf rfl) rfl) (.put he rfl))

theorem Dev.readbackMismatch_keeps (d : Dev) (j ch : Nat) : d.Keeps (d.readbackMismatch j ch) := by
  unfold Dev.readbackMismatch
  extract_lets inTest r e
  have he : d.Keeps e := .ite (.upd (.refl d) rfl rfl rfl rfl rfl) (.refl d)
  exact .ite (.refl d) (he.trans (e.outputFault_keeps j))

theorem Dev.edmTimeout_keeps (d : Dev) (j : Nat) : d.Keeps (d.edmTimeout j) := by
  unfold Dev.edmTimeout
  extract_lets r e
  have he : d.Keeps e := .upd (.refl d) rfl rfl rfl rfl rfl
  exact .ite (.refl d) (.ite he (he.trans (e.outputFault_keeps j)))

theorem Dev.channelCompare_keeps (d : Dev) (agree : Bool) : d.Keeps (d.channelCompare agree) :=
  .ite (.refl d) (.ite d.rimEval_keeps (d.rimLatch_keeps _ _))

theorem Dev.rimSupply_keeps (d : Dev) : d.Keeps d.rimSupply := .ite (d.rimLatch_keeps _ _) (.refl d)

theorem Dev.rstPress_keeps (d : Dev) (released1s : Bool) : d.Keeps (d.rstPress released1s) := .ite (.upd (.refl d) rfl rfl rfl rfl rfl) (.refl d)

theorem Dev.rstStuck_keeps (d : Dev) : d.Keeps d.rstStuck := by
  have hstuck : d.Keeps { d with rim := { d.rim with stuck := true } } := .upd (.refl d) rfl rfl rfl rfl rfl
  exact .ite (.raise hstuck) (.refl d)

theorem Dev.rimStage_keeps (d : Dev) (r : List Byte) : d.Keeps (d.rimStage r) := by
  have hstaged : d.Keeps { d with rim := { d.rim with staged := r } } := .upd (.refl d) rfl rfl rfl rfl rfl
  exact .raise (.put hstaged rfl)

/-! ## A change of the record, a reset press, a start -/

/-- An output that is ENERGISED has no latch cause, used or not: what holds while the record in force changes. -/
def Dev.Uncaused (d : Dev) : Prop := ∀ j < 4, d.outOn j = true → d.outCauses j = 0

theorem Dev.uncaused_of_latchedOff {d : Dev} (h : d.rimLatchedOff) : d.Uncaused := fun j hj hon => (h j hj hon).2

theorem Dev.Uncaused.upd {d e : Dev} (h : d.Uncaused) (hpar : e.par = d.par) (hcauses : e.rim.causes = d.rim.causes) : e.Uncaused := fun j hj hon => by
  rw [Dev.outOn_of_raw (d := d) (by simp only [Dev.raw, hpar])] at hon
  simpa only [Dev.outCauses, hcauses] using h j hj hon

theorem Dev.Uncaused.put {d : Dev} (h : d.Uncaused) {p : Par} {i v : Nat} (hp : Par.apart Par.rimOutEnergised p = true) : (d.put p i v).Uncaused :=
  fun j hj hon => by
    rw [Dev.outOn_put _ _ _ _ hp] at hon
    rw [Dev.outCauses_of_rim (Dev.put_rim _ _ _ _)]
    exact h j hj hon

theorem Dev.Uncaused.tallyExtend {d : Dev} (h : d.Uncaused) (r : Nat) (digest : List Byte) : (d.tallyExtend r digest).Uncaused := fun j hj hon => by
  have hframe := d.tallyExtend_frame r digest
  rw [hframe.outOn rfl] at hon
  rw [Dev.outCauses_of_rim (hframe.2 .rim rfl)]
  exact h j hj hon

theorem Dev.Uncaused.rimLatch {d : Dev} (h : d.Uncaused) (mask cause : Nat) : (d.rimLatch mask cause).Uncaused := by
  by_cases hhit : d.latchHit mask cause = []
  · rw [Dev.rimLatch_eq, if_pos hhit]
    exact h
  · exact Dev.uncaused_of_latchedOff (d.rimLatch_latchedOff hhit)

theorem eq_of_lt_four {j : Nat} (h : j < 4) : j = 0 ∨ j = 1 ∨ j = 2 ∨ j = 3 := by omega

/-- CONFIG reaches every output, so an output that it does not reach anew has it already. -/
theorem Dev.Uncaused.rimLatch_config {d : Dev} (h : d.Uncaused) : (d.rimLatch 15 rcConfig).rimLatchedOff := by
  by_cases hhit : d.latchHit 15 rcConfig = []
  · rw [Dev.rimLatch_eq, if_pos hhit]
    intro j hj hon
    have hmask : bit 15 j = true := by
      obtain rfl | rfl | rfl | rfl := eq_of_lt_four hj
      all_goals rfl
    have hmiss : j ∉ d.latchHit 15 rcConfig := hhit ▸ List.not_mem_nil
    simp [Dev.latchHit, hj, hmask, h j hj hon] at hmiss
    exact absurd (hmiss (.inr (by decide))) (by decide)
  · exact d.rimLatch_latchedOff hhit

theorem Dev.rimActivate_latchedOff {d : Dev} (h : d.rimLatchedOff) : d.rimActivate.rimLatchedOff := by
  unfold Dev.rimActivate
  extract_lets r rim active serial undet pins tally tests demand changed cleared configured
  have hactive : active.Uncaused := .upd (Dev.uncaused_of_latchedOff h) rfl rfl
  have hundet : undet.Uncaused := .put (.put (.put (.put hactive rfl) rfl) rfl) rfl
  have hpins : pins.Uncaused := .upd hundet rfl rfl
  have htally : tally.Uncaused := hpins.tallyExtend 3 (sha384 r)
  have htests : tests.Uncaused := by
    refine List.foldlRecOn (List.range 8) _ (motive := Dev.Uncaused) htally fun x hx k _ => ?_
    split
    · exact .put (.put hx rfl) rfl
    · exact hx
  have hchanged : changed.Uncaused := .rimLatch (.put htests rfl) 15 rcConfigChange
  have hconfigured : configured.rimLatchedOff := by
    unfold configured
    split
    · exact cleared.rimRefresh_latchedOff _
    · exact hchanged.rimLatch_config
  exact configured.rimEval_keeps.latchedOff hconfigured

theorem Dev.rimActivate_alternate {d : Dev} (h : d.recordsAlternate) : d.rimActivate.recordsAlternate := by
  unfold Dev.rimActivate
  extract_lets r rim active serial undet pins tally tests demand changed cleared configured
  have hundet : undet.recordsAlternate := by
    refine Dev.alternate_of_same (d := active) h ?_ ?_
    all_goals simp only [undet, serial, Dev.put_lid]
  have htally : tally.recordsAlternate := (pins.tallyExtend_keeps 3 (sha384 r)).alternate (undet.rimPins_frame.alternate rfl hundet)
  have htests : tests.recordsAlternate := by
    refine List.foldlRecOn (List.range 8) _ (motive := Dev.recordsAlternate) htally fun x hx k _ => ?_
    have hput : x.Keeps ((x.putBit Par.rimInFault 0 k false).putBit Par.rimInFault 0 (8 + k) false) := .put (.put (.refl x) rfl) rfl
    exact (Dev.Keeps.ite hput (.refl x)).alternate hx
  have hdemand : tests.Keeps demand := .put (.refl tests) rfl
  have hchanged : changed.recordsAlternate := (demand.rimLatch_keeps 15 rcConfigChange).alternate (hdemand.alternate htests)
  have hconfigured : configured.recordsAlternate := by
    unfold configured
    split
    · have hcleared : cleared.recordsAlternate := List.foldlRecOn (List.range 4) _ (motive := Dev.recordsAlternate) hchanged (fun _ hx _ _ => hx)
      exact (cleared.rimRefresh_frame _).alternate rfl hcleared
    · exact (changed.rimLatch_keeps 15 rcConfig).alternate hchanged
  exact configured.rimEval_keeps.alternate hconfigured

theorem Dev.rimAct_keeps (d : Dev) (railsOk : Bool) : d.Keeps (d.rimAct railsOk) := by
  unfold Dev.rimAct
  extract_lets e ok levels edm rim cleared
  have haccepted : e.Keeps ((cleared.inc 32 Par.rimResetsAccepted 0).rimRefresh 0) := by
    have hcounted : (cleared.inc 32 Par.rimResetsAccepted 0).lid = e.lid := Dev.inc_lid cleared 32 Par.rimResetsAccepted 0 1
    refine ⟨fun _ => Dev.rimRefresh_latchedOff _ 0, fun h => (Dev.rimRefresh_frame _ 0).alternate rfl (Dev.alternate_of_same h ?_ ?_)⟩
    all_goals rw [hcounted]
  exact d.rimEval_keeps.trans (.ite ⟨Dev.rimActivate_latchedOff, Dev.rimActivate_alternate⟩ (.ite (.refl e) (.ite haccepted (.raise (.refl e)))))

theorem Dev.rstRelease_keeps (d : Dev) (pressGap releaseGap : Option Nat) (railsOk : Bool) : d.Keeps (d.rstRelease pressGap releaseGap railsOk) := by
  unfold Dev.rstRelease
  split
  · exact .refl d
  · extract_lets dur rim released near
    have hreleased : d.Keeps released := .upd (.refl d) rfl rfl rfl rfl rfl
    exact .ite (.raise (.put hreleased rfl)) (.ite (.trans (.put hreleased rfl) (Dev.rimAct_keeps _ _)) hreleased)

theorem Dev.rimStart_latchedOff (d : Dev) : d.rimStart.rimLatchedOff := by
  unfold Dev.rimStart
  exact (Dev.rimEval_keeps _).latchedOff (Dev.rimRefresh_latchedOff _ rcStart)

theorem Dev.rimStart_keeps (d : Dev) : d.Keeps d.rimStart := ⟨fun _ => d.rimStart_latchedOff, d.rimStart_frame.alternate rfl⟩

/-! ## Windows -/

theorem Dev.winRoutes_keeps (d : Dev) (w : Nat) : d.Keeps (d.winRoutes w) := by
  unfold Dev.winRoutes
  extract_lets e
  have he : d.Keeps e := .frame (.refl d) (d.tripLegs_frame _ _) rfl
  exact .ite (.refl d) (.ite (he.trans e.rimEval_keeps) he)

theorem Dev.winRecalc_keeps (d : Dev) (w : Nat) (counts : Bool) : d.Keeps (d.winRecalc w counts) := by
  unfold Dev.winRecalc
  extract_lets now was e flagged raised f
  have he : d.Keeps e := .put (.refl d) rfl
  have hraised : d.Keeps raised := .raise (.put (.put (.put he rfl) rfl) rfl)
  have hblocked : d.Keeps (raised.forL (bitsOf (raised.get Par.winRouteArm w) 24) (fun x j => x.armBlock j afWindow 0xFFFFFFFF)) :=
    hraised.trans (.forL (fun x j => .frame (.refl x) (x.armBlock_frame _ _ _) rfl) _ _)
  have hf : d.Keeps f := .ite hblocked he
  exact hf.trans (f.winRoutes_keeps w)

theorem winComp_apart (comp : Nat) : Par.apart Par.rimOutEnergised (winComp comp) = true := by
  unfold winComp
  split <;> rfl

theorem Dev.winChange_keeps (d : Dev) (w comp : Nat) (active : Bool) : d.Keeps (d.winChange w comp active) := by
  unfold Dev.winChange
  extract_lets p st e
  have he : d.Keeps e := .trans (.put (.refl d) (winComp_apart comp)) (Dev.winRecalc_keeps _ w true)
  exact .ite (.refl d) (.ite (.frame (.frame he (e.windowTrig_frame w comp) rfl) (Dev.winTerminates_frame _ w comp) rfl) he)

theorem Dev.winUndet_keeps (d : Dev) (w : Nat) : d.Keeps (d.winUndet w) := .put (.put (.refl d) rfl) rfl

theorem Dev.winStart_keeps (d : Dev) : d.Keeps d.winStart := .forN (fun x w => (x.winUndet_keeps w).trans (Dev.winRecalc_keeps _ w false)) 64 d

theorem Dev.winModes_keeps (d : Dev) (was : Nat → Nat) : d.Keeps (d.winModes was) := by
  refine .forN (fun x w => ?_) 64 d
  extract_lets y
  have hy : x.Keeps y := .ite (x.winUndet_keeps w) (.refl x)
  exact .ite hy (hy.trans (y.winRecalc_keeps w true))

/-! ## Writes at the boundary -/

/-- A rule of single parameters keeps both invariants where it answers. -/
def Dev.KeepsO (d : Dev) (o : Option (Nat × Dev)) : Prop := ∀ r ∈ o, d.Keeps r.2

theorem Dev.AgreeO.keepsO {cs : List Nat} {fs : List Fld} {d : Dev} {o : Option (Nat × Dev)} (h : d.AgreeO cs fs o)
    (hl : leavesBoth cs fs = true) : d.KeepsO o := by
  rintro r rfl
  exact Dev.Agree.keeps h hl

theorem Dev.KeepsO.ite {d : Dev} {x y : Option (Nat × Dev)} {c : Prop} [Decidable c] (h : c → d.KeepsO x) (g : ¬c → d.KeepsO y) :
    d.KeepsO (if c then x else y) := by
  split
  · exact h ‹_›
  · exact g ‹_›

theorem Dev.KeepsO.did {d e : Dev} (h : d.Keeps e) : d.KeepsO (did e) := by
  rintro r ⟨⟩
  exact h

theorem Dev.KeepsO.no (d : Dev) (st : Nat) : d.KeepsO (no d st) := by
  rintro r ⟨⟩
  exact .refl d

theorem Dev.KeepsO.none (d : Dev) : d.KeepsO none := by
  rintro r ⟨⟩

theorem Dev.wImage_keepsO (d : Dev) (p : Par) (i v : Nat) : d.KeepsO (d.wImage p i v) := by
  unfold Dev.wImage
  refine .ite (fun hp => .did (.ite ?_ (.refl d))) fun _ => .ite (fun _ => .none d) fun _ => .ite (fun _ => .no d _) fun _ =>
    .ite (fun _ => .no d _) fun _ => .ite (fun _ => .no d _) fun _ => .did (.frame (.refl d) (d.imgParWrite_frame p i v) rfl)
  subst hp
  exact .put (.refl d) rfl

theorem Dev.wAnalog_keepsO (d : Dev) (ts : Nat) {p : Par} (i v : Nat) (hp : Par.apart Par.rimOutEnergised p = true) : d.KeepsO (d.wAnalog ts p i v) := by
  have hput : d.Keeps (d.put p i v) := .put (.refl d) hp
  have hrestart : d.Keeps ((d.put p i v).sdiRestart i) := .frame hput (Dev.sdiRestart_frame _ i) rfl
  unfold Dev.wAnalog
  refine .ite (fun _ => .did (.ite (.frame (.refl d) (d.adcCalStart_frame i) rfl) (.refl d))) fun _ => ?_
  refine .ite (fun _ => .did (.ite hrestart hput)) fun _ => .ite (fun _ => .did hrestart) fun _ => ?_
  refine .ite (fun _ => .did (.ite (.put (.refl d) hp) (.refl d))) fun _ => ?_
  refine .ite (fun _ => .ite (fun _ => .did (.refl d)) fun _ => .ite (fun _ => .no d _) fun _ => .did (.frame (.refl d) (d.readbackStart_frame i v) rfl)) fun _ => ?_
  refine .ite (fun _ => .did ?_) fun _ => .none d
  exact hput.trans ((Dev.winModes_keeps _ _).trans (Dev.winRecalc_keeps _ i true))

theorem Dev.wPwr_keepsO (d : Dev) (p : Par) (v : Nat) : d.KeepsO (d.wPwr p v) := by
  unfold Dev.wPwr
  extract_lets pm
  refine .ite (fun _ => .did (.ite (.upd (.refl d) rfl rfl rfl rfl rfl) (.refl d))) fun _ => .ite (fun _ => .ite (fun _ => ?_) fun _ => ?_) fun _ => ?_
  · exact .did (.frame (.refl d) (d.wake_frame _) rfl)
  · refine .ite (fun _ => .ite (fun _ => .no d _) fun _ => .ite (fun _ => .no d _) fun _ => .did (.ite ?_ (.refl d))) fun _ => ?_
    · exact .upd (.refl d) rfl rfl rfl rfl rfl
    · exact .ite (fun _ => .ite (fun _ => .no d _) fun _ => .did (.upd (.refl d) rfl rfl rfl rfl rfl)) fun _ => .did (.refl d)
  · refine .ite (fun _ => .ite (fun _ => .did (.refl d)) fun _ => .ite (fun _ => .did ?_) fun _ => .no d _) fun _ => .none d
    exact .upd (.refl d) rfl rfl rfl rfl rfl

theorem Par.apart_of_besideRim {p : Par} (h : p.besideRim = true) : Par.apart Par.rimOutEnergised p = true := by
  simp only [Par.besideRim, Bool.and_eq_true, Bool.not_eq_true'] at h
  obtain ⟨hsmall, hfree⟩ := h
  have hne : Par.rimOutEnergised ≠ p := fun he => by
    subst he
    cases hfree
  have hshown : Par.rimOutEnergised.small = true := rfl
  simp [Par.apart, hne, hsmall, hshown]

/-- The rule of a parameter's class keeps both invariants; class RIM has none. -/
theorem Dev.wRule_keepsO (d : Dev) (session tag ts : Nat) {p : Par} (i : Nat) (v : W64) (hp : p.small = true) (hn : rimHeld.contains p = false) :
    d.KeepsO (d.wRule session tag ts p i v) := by
  have group : ∀ {c : Nat} {cs : List Nat}, p.cls = c → c ≠ 2 → cs.contains c = true → cs.contains p.group = true := fun h hc hm => by
    rw [Par.group_of_cls h hc]
    exact hm
  have hfree : Par.apart Par.rimOutEnergised p = true := Par.apart_of_besideRim (by rw [Par.besideRim, hp, hn]; rfl)
  unfold Dev.wRule
  extract_lets n
  refine .ite (fun _ => (d.wDev_frame _ _ _ _ _).keepsO rfl) fun _ => .ite (fun _ => d.wImage_keepsO _ _ _) fun _ => ?_
  refine .ite (fun h => (d.wSpoke_frame _ _ _ hp (group h (by decide) (by decide))).keepsO rfl) fun _ => ?_
  refine .ite (fun h => (d.wCell_frame _ _ _ hp (group h (by decide) (by decide))).keepsO rfl) fun _ => ?_
  refine .ite (fun h => (d.wArm_frame _ _ _ hp (group h (by decide) (by decide))).keepsO rfl) fun _ => ?_
  refine .ite (fun _ => .ite (fun _ => d.wImage_keepsO _ _ _) fun _ => (d.wCtx_frame _ _ _).keepsO rfl) fun _ => ?_
  refine .ite (fun h => (d.wGrid_frame _ _ _ hp (group h (by decide) (by decide))).keepsO rfl) fun _ => ?_
  refine .ite (fun h => (d.wIsld_frame _ _ _ _ hp (group h (by decide) (by decide))).keepsO rfl) fun _ => ?_
  refine .ite (fun h => (d.wPort_frame _ _ _ hp (group h (by decide) (by decide))).keepsO rfl) fun _ => ?_
  refine .ite (fun _ => (d.wLeg_frame _ _ _).keepsO rfl) fun _ => .ite (fun _ => d.wAnalog_keepsO ts i n hfree) fun _ => ?_
  refine .ite (fun h => (d.wMetr_frame _ _ _ hp (group h (by decide) (by decide))).keepsO rfl) fun _ => ?_
  refine .ite (fun _ => (d.wCap_frame _ _ _ _).keepsO rfl) fun _ => .ite (fun _ => (d.wTrig_frame _ _ _).keepsO rfl) fun _ => ?_
  refine .ite (fun h => (d.wWeave_frame _ _ hp (group h (by decide) (by decide))).keepsO rfl) fun _ => ?_
  refine .ite (fun _ => (d.wLink_frame _ _ _).keepsO rfl) fun _ => .ite (fun _ => (d.wRing_frame _ _ _).keepsO rfl) fun _ => ?_
  refine .ite (fun _ => d.wPwr_keepsO _ _) fun _ => ?_
  refine .ite (fun h => (d.wHarv_frame _ _ hp (group h (by decide) (by decide))).keepsO rfl) fun _ => ?_
  exact .ite (fun _ => (d.wEvt_frame _ _ _ _).keepsO rfl) fun _ => .none d

theorem Dev.applyWrite_keeps (d : Dev) (session tag ts obj idx : Nat) (v : W64) : d.Keeps (d.applyWrite session tag ts obj idx v).2 := by
  unfold Dev.applyWrite
  extract_lets p i v
  split
  · exact .refl d
  next hrow =>
  obtain ⟨hsmall, -⟩ := rowOf_ok hrow
  have hfree := rimHeld_readOnly hrow
  cases hrule : d.wRule session tag ts p i v with
  | none =>
    have hapart : Par.apart Par.rimOutEnergised p = true := Par.apart_of_besideRim (by rw [Par.besideRim, hsmall, hfree]; rfl)
    exact .of_same (fun j _ => Dev.outOn_of_raw (d.raw_setRaw_apart i 0 v hapart) j) rfl rfl rfl rfl
  | some r => exact d.wRule_keepsO session tag ts i v hsmall hfree r hrule

theorem Dev.applyBulk_keeps (d : Dev) (obj off : Nat) (data : List Byte) : d.Keeps (d.applyBulk obj off data).2 := by
  unfold Dev.applyBulk
  split
  · exact .refl d
  split
  · split
    · exact .refl d
    · exact .frame (.refl d) (d.shadowWrite_frame _ _ _) rfl
  · extract_lets buf rim filled r st rim' emptied
    have hfilled : d.Keeps filled := .upd (.refl d) rfl rfl rfl rfl rfl
    have hemptied : d.Keeps emptied := .upd hfilled rfl rfl rfl rfl rfl
    exact .ite2 hfilled (.ite2 (hemptied.trans (emptied.rimStage_keeps r)) hemptied)

theorem Dev.applyEntries_keeps (d : Dev) (sel : RegWrite → Bool) (m : Msg) : d.Keeps (d.applyEntries sel m).2 := by
  refine List.foldlRecOn m.work _ (motive := fun acc : List RegWrite × Dev => d.Keeps acc.2) (.refl d) ?_
  rintro ⟨done, e⟩ he w -
  dsimp only
  exact .ite2 (.ite2 (.frame he (e.burstReqWrite_frame _ _) rfl) (he.trans (e.applyWrite_keeps _ _ _ _ _ _))) he

theorem Dev.applyMsgs_keeps (d : Dev) (sel : RegWrite → Bool) (bulk : Bool) (ms : List Msg) : d.Keeps (d.applyMsgs sel bulk ms).2 := by
  refine List.foldlRecOn ms _ (motive := fun acc : List Msg × Dev => d.Keeps acc.2) (.refl d) ?_
  rintro ⟨done, e⟩ he m -
  have hentries := he.trans (e.applyEntries_keeps sel m)
  dsimp only
  split
  · exact hentries.trans (Dev.applyBulk_keeps _ _ _ _)
  · exact hentries

theorem Dev.answerMsg_keeps (d : Dev) (m : Msg) : d.Keeps (d.answerMsg m) :=
  .ite ((d.abortOp_keeps _ _).trans (Dev.respond_keeps _ _ _ _ _ _ _ _)) (d.respond_keeps _ _ _ _ _ _ _)

theorem Dev.applyWrites_keeps (d : Dev) : d.Keeps d.applyWrites := by
  unfold Dev.applyWrites
  extract_lets ms host taken judged kept applied gridded burst moded answered hostAfter parked
  have htaken : d.Keeps taken := .upd (.refl d) rfl rfl rfl rfl rfl
  have happlied : d.Keeps applied.2 := htaken.trans (taken.applyMsgs_keeps _ true kept)
  have hgridded : d.Keeps gridded.2 := .frame happlied (applied.2.applyGrid_frame applied.1) rfl
  have hburst : d.Keeps burst.2 := hgridded.trans (gridded.2.applyMsgs_keeps _ false gridded.1)
  have hmode : ∀ (e : Dev) (m : Msg), e.Keeps (e.modeCommand m.code) := fun e m => .frame (.refl e) (e.modeCommand_frame m.code) rfl
  have hmoded : burst.2.Keeps moded := .forL hmode _ _
  have hanswered : moded.Keeps answered := .forL Dev.answerMsg_keeps _ _
  have hparked : d.Keeps parked := .upd (hburst.trans (hmoded.trans hanswered)) rfl rfl rfl rfl rfl
  exact .frame hparked parked.sessionsFreed_frame rfl

end Sys2Proof.Machine
end

section
/-! SUPPORT and PROOF. Every command keeps both invariants: engines, beats, resets, all commands. -/

namespace Sys2Proof.Machine

/-! ## Engines and the beat -/

theorem Dev.Keeps.putF {a d : Dev} (h : a.Keeps d) {p : Par} {i : Nat} {v : F32} (hp : Par.apart Par.rimOutEnergised p = true) : a.Keeps (d.putF p i v) :=
  h.trans (.of_same (fun j _ => Dev.outOn_of_raw (d.raw_setRaw_apart i 0 _ hp) j) rfl rfl rfl rfl)

theorem Dev.burstAnswer_keeps (d : Dev) (sel : Nat → Bool) (st : Nat) : d.Keeps (d.burstAnswer sel st) := by
  unfold Dev.burstAnswer
  extract_lets ms host waiting
  have hwaiting : d.Keeps waiting := .upd (.refl d) rfl rfl rfl rfl rfl
  exact hwaiting.trans (.forL Dev.answerMsg_keeps _ waiting)

theorem Dev.burstDecide_keeps (d : Dev) (p : Nat) : d.Keeps (d.burstDecide p) := by
  unfold Dev.burstDecide
  extract_lets r e x f
  have he : d.Keeps e := .frame (.refl d) (d.burstRequest_frame p) rfl
  have hf : d.Keeps f := by
    unfold f
    split
    · exact .ite (.frame he (e.setPort_frame _ _) rfl) (.putF (.frame he (e.setPort_frame _ _) rfl) rfl)
    · exact he
  exact hf.trans (f.burstAnswer_keeps _ _)

theorem Dev.burstFlush_keeps (d : Dev) : d.Keeps d.burstFlush := by
  unfold Dev.burstFlush
  extract_lets e
  have he : d.Keeps e := .forN (fun x p => .ite (.putF (.frame (.refl x) (x.setPort_frame _ _) rfl) rfl) (.refl x)) 32 d
  exact .ite (.refl d) (he.trans (e.burstAnswer_keeps _ _))

theorem Dev.portRun_keeps (d : Dev) (p : Nat) : d.Keeps (d.portRun p) := by
  unfold Dev.portRun
  extract_lets e f
  have he : d.Keeps e := .frame (.refl d) (d.portStep_frame p) rfl
  have hf : d.Keeps f := .ite he (.frame he (e.metAlloc_frame _ _) rfl)
  exact .ite (hf.trans (f.burstDecide_keeps p)) hf

theorem Dev.engineFixed_keeps (d : Dev) (it : Item) (fin : Nat) : d.Keeps (d.engineFixed it fin) := by
  unfold Dev.engineFixed
  refine .ite (.atCycle (fun x => .frame (.refl x) (x.gridStep_frame _) rfl) fin d) (.ite (.atCycle (fun x => ?_) fin d) (.ite ?_ (.refl d)))
  · exact .frame (.refl x) (x.isldStep_frame _) rfl
  · exact .atCycle (fun x => x.portRun_keeps _) fin d

theorem Dev.engineGo_keeps (its : List Item) (t : Nat) (d : Dev) : d.Keeps (Dev.engineGo its t d) := by
  induction its generalizing t d with
  | nil => exact .upd (.refl d) rfl rfl rfl rfl rfl
  | cons it rest ih =>
    have hctx : d.Keeps (d.engineCtx it.num (d.itemStart t it) (d.itemStart t it + d.itemCost it) rest).2 := .frame (.refl d) (d.engineCtx_frame _ _ _ _) rfl
    unfold Dev.engineGo
    extract_lets s fin r
    refine .ite (.upd (.refl d) rfl rfl rfl rfl rfl) (.ite ?_ ((d.engineFixed_keeps _ _).trans (ih _ _)))
    split
    · exact hctx.trans (ih _ _)
    · exact hctx

theorem Dev.engineRun_keeps (d : Dev) : d.Keeps d.engineRun := by
  unfold Dev.engineRun
  extract_lets idle ran
  have hran : d.Keeps ran := .ite (d.engineGo_keeps _ _) (.upd (.refl d) rfl rfl rfl rfl rfl)
  exact hran.trans (.forL (fun x g => .frame (.refl x) (x.isldIdle_frame g) rfl) idle ran)

theorem Dev.deadlinePass_keeps (d : Dev) (dl : Nat) : d.Keeps (d.deadlinePass dl) := by
  unfold Dev.deadlinePass
  extract_lets e late hit rest noted passed
  have hnoted : d.Keeps noted := .forL (fun x c => .frame (.refl x) (x.passed_frame _ _) rfl) late d
  have hpassed : noted.Keeps passed := .forL (fun x it => .frame (.refl x) (x.passed_frame _ _) rfl) _ noted
  exact .ite (.refl d) ((hnoted.trans hpassed).trans (Dev.engineGo_keeps _ _ _))

theorem Dev.deadline_keeps (d : Dev) (c : Nat) : d.Keeps (d.deadline c) := .ite (d.deadlinePass_keeps _) (.refl d)

theorem Dev.finalPass_keeps (d : Dev) : d.Keeps d.finalPass := .frame (d.deadlinePass_keeps _) (Dev.finalStep_frame _) rfl

theorem Dev.windowEnd_keeps (d : Dev) : d.Keeps d.windowEnd := by
  unfold Dev.windowEnd
  extract_lets published rated sent latched
  have hpublished : d.Keeps published := .frame (d.finalPass_keeps.trans (Dev.deadlinePass_keeps _ _)) (Dev.publish_frame _) rfl
  have hsent : published.Keeps (if published.clkOk cdSpk then published.spokesSend else published) :=
    .ite (.frame (.refl published) published.spokesSend_frame rfl) (.refl published)
  have hrated : d.Keeps rated := (hpublished.trans hsent).trans (.forN (fun x j => .frame (.refl x) (x.armRates_frame j) rfl) 24 _)
  have hbeat : d.Keeps sent := .frame (.frame hrated (rated.sendArmCur_frame true) rfl) (Dev.sendBeatPkts_frame _) rfl
  have hlatched : d.Keeps latched := hbeat.trans (.forN (fun x n => .frame (.refl x) (x.legLatch_frame n) rfl) 40 sent)
  exact .ite (.refl d) (hlatched.trans (.forN (fun x p => .frame (.refl x) (x.portHoldNext_frame p) rfl) 32 latched))

theorem Dev.beatFull_keeps (d : Dev) (x : Samples) (switched : Bool) : d.Keeps (d.beatFull x switched) := by
  unfold Dev.beatFull
  extract_lets timed armed isled moded targeted readback sampled chopped synced
  have htimed : d.Keeps timed := .frame (.frame (.frame (.frame (.refl d) d.weaveBoundary_frame rfl) (Dev.codesFollow_frame _) rfl)
    (Dev.timeBoundary_frame _) rfl) (Dev.mismatchBoundary_frame _) rfl
  have hisled : d.Keeps isled := (Dev.Keeps.frame htimed timed.armsBeat_frame rfl).trans (.forN (fun y g => .frame (.refl y) (y.isldBoundary_frame g) rfl) 4 armed)
  have hmoded : d.Keeps moded := .frame (.frame (.frame hisled (isled.modeBoundary_frame _) rfl) (Dev.followMode_frame _) rfl) (Dev.parkStart_frame _) rfl
  have htargeted : d.Keeps targeted :=
    (hmoded.trans (.forN (fun y j => .frame (.refl y) (y.armTarget_frame j) rfl) 16 moded)).trans (.forN (fun y n => .frame (.refl y) (y.rearm_frame n) rfl) 32 _)
  have hreadback : d.Keeps readback := htargeted.trans (.forN (fun y w => .frame (.refl y) (y.readbackBeat_frame w) rfl) 64 targeted)
  have hsampled : d.Keeps sampled := .frame (.frame (.frame hreadback (readback.sampleBeat_frame x) rfl) (Dev.sendArmCur_frame _ _) rfl) (Dev.sendTimes_frame _) rfl
  have hchopped : d.Keeps chopped := hsampled.trans (.forN (fun y n => .frame (.refl y) (y.chopperStep_frame n) rfl) 40 sampled)
  have hsynced : d.Keeps synced := hchopped.trans (.forN (fun y c => .frame (.refl y) (y.ctxSync_frame c) rfl) 128 chopped)
  exact .frame (hsynced.trans synced.engineRun_keeps) (Dev.signalsUsed_frame _) rfl

theorem Dev.beatParked_keeps (d : Dev) (switched : Bool) : d.Keeps (d.beatParked switched) :=
  .trans (.frame (.frame (.refl d) d.timeBoundary_frame rfl) (Dev.modeBoundary_frame _ _) rfl) (Dev.burstFlush_keeps _)

/-! ## Resets and releases -/

/-- A warm reset leaves the Rim as it is. -/
theorem Dev.cleared_warm_keeps (d : Dev) (ph : Phase) : d.Keeps (d.cleared ph true) := by
  have hkept : keptKey true (parKey Par.rimOutEnergised 0) = true := by decide
  have hraw : (d.cleared ph true).raw Par.rimOutEnergised 0 = d.raw Par.rimOutEnergised 0 :=
    (Tab.get_filter_keys _ _ _ _).trans (if_pos hkept)
  exact .of_same (fun j _ => Dev.outOn_of_raw hraw j) rfl rfl rfl rfl

theorem Dev.latchedOff_of_off {d : Dev} (hoff : ∀ j, d.outOn j = false) : d.rimLatchedOff :=
  fun j _ hon => absurd hon (Bool.eq_false_iff.mp (hoff j))

theorem Dev.warmReset_keeps (d : Dev) (cause : Nat) : d.Keeps (d.warmReset cause) := by
  unfold Dev.warmReset
  extract_lets e f
  have he : d.Keeps e := .ite (.frame (.refl d) (d.metRecord_frame mcReset) rfl) (.refl d)
  exact .upd (he.trans (e.cleared_warm_keeps .warm)) rfl rfl rfl rfl rfl

/-- A cold reset leaves the outputs off, and the stores of the Lid as they are (R29, R30). -/
theorem Dev.cleared_cold_keeps (d : Dev) (ph : Phase) : d.Keeps (d.cleared ph false) := ⟨fun _ => Dev.latchedOff_of_off (d.outOn_cleared_cold ph), id⟩

theorem Dev.coldReset_keeps (d : Dev) (cause : Nat) : d.Keeps (d.coldReset cause) := ⟨fun _ => Dev.latchedOff_of_off (d.outOn_coldReset cause), id⟩

theorem Dev.islandLost_keeps (d : Dev) : d.Keeps d.islandLost :=
  ⟨fun _ => Dev.latchedOff_of_off d.outOn_islandLost, (d.coldReset_keeps rsAonPor).alternate⟩

theorem Dev.darkEntry_keeps (d : Dev) : d.Keeps d.darkEntry := by
  unfold Dev.darkEntry
  extract_lets secs saved dark pwr
  have hsaved : d.Keeps saved := .frame (.refl d) (d.metRecord_frame _) rfl
  have hdark : saved.Keeps dark := .put (.put (saved.cleared_cold_keeps .dark) rfl) rfl
  clear_value dark
  exact .ite (.refl d) (.upd (hsaved.trans hdark) rfl rfl rfl rfl rfl)

theorem Dev.porstLow_keeps (d : Dev) : d.Keeps d.porstLow := by
  unfold Dev.porstLow
  extract_lets pwr low
  have hlow : d.Keeps low := .upd (.refl d) rfl rfl rfl rfl rfl
  exact .ite hlow (hlow.trans (low.coldReset_keeps _))

theorem Dev.brownOut_keeps (d : Dev) (rail : Nat) : d.Keeps (d.brownOut rail) := by
  unfold Dev.brownOut
  extract_lets used e
  have he : d.Keeps e := .put (.refl d) rfl
  exact .ite he (.ite (.refl d) (.trans (.put he rfl) (Dev.coldReset_keeps _ _)))

theorem Dev.reconcile_keeps (d : Dev) : d.Keeps d.reconcile := by
  unfold Dev.reconcile
  extract_lets m lid advanced
  have hadvanced : d.Keeps advanced := .upd (.refl d) rfl rfl rfl rfl rfl
  exact .ite (.trans (.raise hadvanced) (Dev.tallyKeys_keeps _)) (.ite (d.bootWrite_keeps _) (.refl d))

/-- A slot that verifies runs (R424). -/
theorem Dev.runSlot_keeps (d : Dev) (slot st : Nat) :
    d.Keeps (({ d with phase := .rom, lid := { d.lid with running := slot, trial := st == bsTrial } } : Dev).put Par.updBootState 0 st) := by
  have hrun : d.Keeps { d with phase := .rom, lid := { d.lid with running := slot, trial := st == bsTrial } } := .upd (.refl d) rfl rfl rfl rfl rfl
  exact .put hrun rfl

theorem Dev.slotChoice_keeps (d : Dev) : d.Keeps d.slotChoice := by
  unfold Dev.slotChoice
  extract_lets b trial run
  generalize hc : (if trial = true then _ else _ : Dev × Nat × Nat) = c
  have hchoose : d.Keeps c.1 := by
    rw [← hc]
    split
    · exact d.bootWrite_keeps _
    · split
      · exact d.bootWrite_keeps _
      · exact .refl d
  obtain ⟨e, slot, st⟩ := c
  dsimp only at hchoose ⊢
  have hrecovery : d.Keeps { e with phase := .recovery } := .upd hchoose rfl rfl rfl rfl rfl
  refine .ite (hchoose.trans (e.runSlot_keeps slot st)) (.ite (.raise ?_) (.put (.frame (.frame hrecovery (Dev.setSess_frame _ _ _) rfl) (Dev.pairRings_frame _ _ _ _) rfl) rfl))
  exact (hchoose.trans (e.runSlot_keeps (1 - slot) bsFallback)).trans (Dev.bootWrite_keeps _ _)

theorem Dev.release_keeps (d : Dev) (warm : Bool) (straps rimStraps : Nat) : d.Keeps (d.release warm straps rimStraps) := by
  unfold Dev.release
  extract_lets pwr rom counted supplied logged started zeroed
  have hrom : d.Keeps rom := .upd (.refl d) rfl rfl rfl rfl rfl
  have hcounted : d.Keeps counted := .put (.put hrom rfl) rfl
  have hsupplied : d.Keeps supplied := .ite hcounted (.put hcounted rfl)
  have hlogged : d.Keeps logged := .raise (.put hsupplied rfl)
  have hstarted : d.Keeps started := .ite hlogged (hlogged.trans logged.rimStart_keeps)
  have hzeroed : d.Keeps zeroed := (Dev.Keeps.frame hstarted started.metLoad_frame rfl).trans ((Dev.winStart_keeps _).trans (Dev.tallyZero_keeps _))
  exact (hzeroed.trans (zeroed.tallyExtend_keeps _ _)).trans ((Dev.reconcile_keeps _).trans (Dev.slotChoice_keeps _))

theorem Dev.porstHigh_keeps (d : Dev) (straps rimStraps : Nat) : d.Keeps (d.porstHigh straps rimStraps) :=
  .ite (d.release_keeps _ _ _) (.upd (.refl d) rfl rfl rfl rfl rfl)

theorem Dev.warmRelease_keeps (d : Dev) (straps rimStraps : Nat) : d.Keeps (d.warmRelease straps rimStraps) := .ite (d.release_keeps _ _ _) (.refl d)

theorem Dev.darkRelease_keeps (d : Dev) (straps rimStraps : Nat) : d.Keeps (d.darkRelease straps rimStraps) := by
  unfold Dev.darkRelease
  extract_lets shown
  have hshown : d.Keeps shown := .put (.refl d) rfl
  have hcause : d.Keeps { shown with pwr := { shown.pwr with cause := rsDarkExit } } := .upd hshown rfl rfl rfl rfl rfl
  exact .ite (hcause.trans (Dev.release_keeps _ _ _ _)) (.refl d)

/-! ## Start-up and power modes -/

theorem Dev.loaderStart_keeps (d : Dev) : d.Keeps d.loaderStart := by
  unfold Dev.loaderStart
  extract_lets g
  have htallied : d.Keeps ((d.tallyExtend 1 g.1).tallyExtend 1 g.2.1) := (d.tallyExtend_keeps _ _).trans (Dev.tallyExtend_keeps _ _ _)
  exact .ite (.refl d) (.upd htallied rfl rfl rfl rfl rfl)

/-- Settings put in force do not show the outputs (R427). -/
theorem Dev.putSettings_keeps (d : Dev) (vals : Tab W64) (modeImg ctxImg : Tab Byte) : d.Keeps (d.putSettings vals modeImg ctxImg) := by
  have hreport : settingKey false (parKey Par.rimOutEnergised 0) = false := by decide
  have hraw : (d.putSettings vals modeImg ctxImg).raw Par.rimOutEnergised 0 = d.raw Par.rimOutEnergised 0 := by
    refine (Tab.get_foldl_set_other parDefault (fun e he hk => ?_) _).trans ?_
    · obtain ⟨-, hsetting⟩ := List.mem_filter.mp he
      rw [hk, hreport] at hsetting
      cases hsetting
    · rw [Tab.get_filter_keys _ (fun k => !settingKey false k), hreport]
      rfl
  exact .of_same (fun j _ => Dev.outOn_of_raw hraw j) rfl rfl rfl rfl

theorem Dev.settingsCheck_keeps (d : Dev) : d.Keeps d.settingsCheck := by
  unfold Dev.settingsCheck
  extract_lets sch cur mine lid opened defaulted lid' checked tallied shown raised
  have hopened : d.Keeps opened := .upd (.refl d) rfl rfl rfl rfl rfl
  have hdefaulted : d.Keeps defaulted := (hopened.trans (opened.tallyExtend_keeps _ _)).trans (Dev.putSettings_keeps _ _ _ _)
  have hchecked : d.Keeps checked := by
    unfold checked
    split
    · exact hopened
    split
    · split
      · rename_i r _ _
        have hretained := hopened.trans (opened.putSettings_keeps r.vals r.modeImg r.ctxImg)
        exact .upd hretained rfl rfl rfl rfl rfl
      · exact .upd hdefaulted rfl rfl rfl rfl rfl
    · exact .upd hdefaulted rfl rfl rfl rfl rfl
  have hshown : d.Keeps shown := .put (hchecked.trans (checked.tallyExtend_keeps _ _)) rfl
  have hraised : d.Keeps raised := .raise hshown
  exact .ite (.upd hraised rfl rfl rfl rfl rfl) hshown

theorem Dev.firmwareStart_keeps (d : Dev) : d.Keeps d.firmwareStart := by
  unfold Dev.firmwareStart
  split
  · exact .refl d
  · extract_lets x tallied running named loaded o shown
    have hrunning : d.Keeps running := .upd (d.tallyExtend_keeps _ _) rfl rfl rfl rfl rfl
    have hnamed : d.Keeps named := .put (.put hrunning rfl) rfl
    have hchecked : d.Keeps named.applyEarly.settingsCheck := .trans (.frame hnamed (Dev.applyEarly_frame _) rfl) (Dev.settingsCheck_keeps _)
    have hloaded : d.Keeps loaded := .frame (hchecked.trans ((Dev.loadTables_keeps _).trans (Dev.tallyKeys_keeps _))) (Dev.energyRestore_frame _) rfl
    have hshown : d.Keeps shown := .put hloaded rfl
    exact .ite (.raise hshown) hshown

theorem Dev.runEntry_keeps (d : Dev) (ddr : Nat) : d.Keeps (d.runEntry ddr) := by
  unfold Dev.runEntry
  extract_lets was running entered
  have hphase : d.Keeps { d with phase := .run } := .upd (.refl d) rfl rfl rfl rfl rfl
  have hentered : d.Keeps entered := .put (.frame (.put hphase rfl) (running.enterRun_frame ddr) rfl) rfl
  exact .ite (.refl d) (.frame (hentered.trans (entered.winModes_keeps was)) (Dev.anchorBeat_frame _) rfl)

theorem Dev.wakeRun_keeps (d : Dev) (ddr : Nat) : d.Keeps (d.wakeRun ddr) := by
  unfold Dev.wakeRun
  extract_lets was running windows host told
  have hrunning : d.Keeps running := .put (.refl d) rfl
  have hwindows : d.Keeps windows := .trans (.frame hrunning (running.enterRun_frame ddr) rfl) (Dev.winModes_keeps _ was)
  have htold : d.Keeps told := .upd hwindows rfl rfl rfl rfl rfl
  have hresume : told.Keeps (told.forN 32 Dev.capResume) := .forN (fun x n => .frame (.refl x) (x.capResume_frame n) rfl) 32 told
  exact .frame (htold.trans hresume) (Dev.actionsRun_frame _) rfl

theorem Dev.parkingComplete_keeps (d : Dev) : d.Keeps d.parkingComplete := by
  unfold Dev.parkingComplete
  split
  · exact .refl d
  · extract_lets was left stopped windows down dead sup pwr parked supplied raised waking
    have hleft : d.Keeps left := .frame (.forN (fun x n => .frame (.refl x) (x.capExit_frame n) rfl) 32 d) (Dev.weaveLeave_frame _) rfl
    have hstopped : left.Keeps stopped := .forN (fun x c => .put (.refl x) rfl) 128 left
    have hwindows : d.Keeps windows := .trans (.put (hleft.trans hstopped) rfl) (Dev.winModes_keeps _ was)
    have hdown : d.Keeps down := hwindows.trans ((windows.linkDown_keeps 0).trans (Dev.linkDown_keeps _ 2))
    clear_value down
    have hparked : d.Keeps parked := .upd hdown rfl rfl rfl rfl rfl
    have hraised : d.Keeps raised := .raise (.put (.put (.put hparked rfl) rfl) rfl)
    clear_value raised
    split
    · have hwaking : d.Keeps { raised with pwr := { raised.pwr with wakeHeld := none } } := .upd hraised rfl rfl rfl rfl rfl
      exact .frame hwaking (Dev.wake_frame _ _) rfl
    · exact hraised

/-! ## A beat, resets of firmware, faults, messages of the weave -/

theorem Dev.beatClose_keeps (d : Dev) : d.Keeps d.beatClose := by
  unfold Dev.beatClose
  extract_lets lid snapped counted
  have hsnapped : d.Keeps snapped := .upd (.refl d) rfl rfl rfl rfl rfl
  have hcounted : d.Keeps counted := .put hsnapped rfl
  exact .ite (hcounted.trans (counted.warmReset_keeps _)) hcounted

theorem Dev.beat_keeps (d : Dev) (x : Samples) (wake : Option Nat) : d.Keeps (d.beat x wake) := by
  unfold Dev.beat
  split
  · exact .refl d
  · extract_lets anchored t ended started woken switched done
    have hanchored : d.Keeps anchored := .ite (.frame (.refl d) d.anchorBeat_frame rfl) (.refl d)
    have hcounted : anchored.Keeps (anchored.weaveEnd.beatCount x.ecc) :=
      .frame (.frame (.refl anchored) anchored.weaveEnd_frame rfl) (Dev.beatCount_frame _ _) rfl
    have hended : d.Keeps ended := .frame (hanchored.trans (.ite hcounted (.refl anchored))) (Dev.nextBeat_frame _ t) rfl
    have hstarted : d.Keeps started := .frame (hended.trans ended.applyWrites_keeps) (Dev.nextBeat_frame _ t) rfl
    have hwoken : started.Keeps woken := by
      unfold woken
      split
      · exact .ite (started.wakeRun_keeps _) (.refl started)
      · exact .refl started
    have hswitched : d.Keeps switched.2 := (hstarted.trans hwoken).trans woken.switchTables_keeps
    have hdone : d.Keeps done := .ite (hswitched.trans (Dev.beatFull_keeps _ x _)) (hswitched.trans (Dev.beatParked_keeps _ _))
    exact .ite hended (hdone.trans done.beatClose_keeps)

theorem Dev.activated_keeps (d : Dev) : d.Keeps d.activated :=
  .ite (d.activationVerified_keeps.trans (Dev.warmReset_keeps _ _)) d.activationVerified_keeps

theorem Dev.svcReset_keeps (d : Dev) : d.Keeps d.svcReset := .ite (d.warmReset_keeps _) (.refl d)

theorem Dev.watchdog_keeps (d : Dev) : d.Keeps d.watchdog := by
  unfold Dev.watchdog
  split
  · exact .refl d
  · extract_lets logged occ evt early
    have hlogged : d.Keeps logged := .frame (.put (.refl d) rfl) (Dev.islandLog_frame _ _ _ _) rfl
    clear_value logged
    have hearly : d.Keeps early := .upd hlogged rfl rfl rfl rfl rfl
    exact hearly.trans (early.warmReset_keeps _)

theorem Dev.pairFault_keeps (d : Dev) (pair : Nat) : d.Keeps (d.pairFault pair) := by
  unfold Dev.pairFault
  extract_lets sup halted weave mode passed
  have hhalted : d.Keeps halted := .upd (.refl d) rfl rfl rfl rfl rfl
  have hpassed : d.Keeps passed := .ite (.upd hhalted rfl rfl rfl rfl rfl) (.ite (.upd hhalted rfl rfl rfl rfl rfl) hhalted)
  have hended : passed.Keeps (passed.forN 80 Dev.sessionEnd) := .forN Dev.sessionEnd_keeps 80 passed
  exact .ite ((hpassed.trans hended).trans (.forN (fun x g => .frame (.refl x) (x.setIsl_frame _ _) rfl) 4 _)) hpassed

theorem Dev.lockstep_keeps (d : Dev) (pair : Nat) : d.Keeps (d.lockstep pair) := .ite (.refl d) (.trans (.raise (.refl d)) (Dev.pairFault_keeps _ _))

theorem Dev.memUncorr_keeps (d : Dev) (r : MemRegion) : d.Keeps (d.memUncorr r) := by
  unfold Dev.memUncorr
  extract_lets e
  have he : d.Keeps e := .raise (.put (.refl d) rfl)
  refine .ite (.refl d) ?_
  cases r with
  | control => exact he.trans (e.pairFault_keeps 0)
  | capture => exact .ite he (.frame he (e.capEcc_frame _ _) rfl)
  | supervisor => exact he.trans (e.pairFault_keeps _)
  | ring => exact .frame he (e.slotLost_frame _ _) rfl
  | other => exact he

theorem Dev.clkFail_keeps (d : Dev) (dom : Nat) : d.Keeps (d.clkFail dom) := by
  unfold Dev.clkFail
  extract_lets sup lid failed raised tripped mode requested told weft
  have hfailed : d.Keeps failed := .upd (.refl d) rfl rfl rfl rfl rfl
  have hraised : d.Keeps raised := .raise hfailed
  have htripped : d.Keeps tripped := .ite (.frame hraised (raised.tripLegs_frame _ _) rfl) hraised
  have hrequested : d.Keeps requested := .ite (.upd htripped rfl rfl rfl rfl rfl) htripped
  have htold : d.Keeps told := .ite (.frame hrequested requested.tripNow_frame rfl) hrequested
  have hweft : d.Keeps weft := .ite (htold.trans (.forN (fun x p => .frame (.refl x) (x.weftDown_frame p) rfl) 4 told)) htold
  exact .ite (.refl d) (.ite (hweft.trans ((weft.linkDown_keeps 0).trans ((Dev.linkDown_keeps _ 1).trans (Dev.linkDown_keeps _ 2)))) hweft)

theorem Dev.wrx_keeps (d : Dev) (h : WHdr) (kind : Nat) (body : List Byte) {act : Dev → Dev} (hact : ∀ x : Dev, x.Keeps (act x)) :
    d.Keeps (d.wrx h kind body act) := by
  unfold Dev.wrx
  extract_lets p st dest src old weave seen marked forwarded
  have hforwarded : d.Keeps forwarded := by
    have hmarked : d.Keeps marked := .upd (.refl d) rfl rfl rfl rfl rfl
    exact hmarked.trans (.ite (.forL (fun x q => .frame (.refl x) (x.wForward_frame h kind body q) rfl) _ marked) (.refl marked))
  refine .ite (.refl d) (.ite (.frame (.refl d) (d.setWport_frame _ _) rfl) ?_)
  refine .ite (hact d) (.ite (.ite (.upd (.refl d) rfl rfl rfl rfl rfl) (hforwarded.trans (hact _))) ?_)
  refine .ite (hact d) (.ite (.refl d) ?_)
  split
  · exact .frame (.refl d) (d.wForward_frame h kind body _) rfl
  · exact .refl d

theorem Dev.mgmt_keeps (d : Dev) (h : WHdr) (m : MgmtMsg) : d.Keeps (d.mgmt h m) := by
  refine d.wrx_keeps h wkMgmt (mgmtBytes m) fun x => .ite (.refl x) ?_
  split
  · exact .frame (.refl x) (x.proxyBack_frame _ _ _) rfl
  · split
    · exact .frame (.refl x) (x.weavePut_frame _ _ _) rfl
    · next hr => exact (Dev.weaveSession_keeps hr).trans (Dev.weaveRequest_keeps _ _ _ _ _)

/-! ## Every command -/

/-- A command takes the state on and keeps both invariants. -/
def State.Keeps (s : State) (o : Out) : Prop := ∃ t, o = .next t ∧ t.pending = s.pending ∧ s.dev.Keeps t.dev

theorem State.does_keeps (s : State) (t : Nat) {f : Dev → Dev} (h : ∀ d : Dev, d.Keeps (f d)) : s.Keeps (s.does t f) := by
  have htime : s.dev.Keeps (s.dev.atTime t) := .upd (.refl s.dev) rfl rfl rfl rfl rfl
  exact ⟨s.act t f, rfl, rfl, .frame (htime.trans (h _)) (Dev.settle_frame _ _) rfl⟩

theorem State.on_keeps (s : State) (t dom : Nat) {f : Dev → Dev} (h : ∀ d : Dev, d.Keeps (f d)) : s.Keeps (s.does t fun d => d.whenOn dom f) :=
  s.does_keeps t (.whenOn h dom)

/-- The effects whose own frame leaves the Rim and the Lid. -/
theorem State.Touches.keeps {s : State} {l : List Nat × List Fld} {o : Out} (h : s.Touches l o) (hl : leavesBoth l.1 l.2 = true) : s.Keeps o := by
  obtain ⟨t, hnext, hpending, hframe⟩ := h
  exact ⟨t, hnext, hpending, hframe.keeps hl⟩

theorem State.Keeps.completes {c : Instr} {s : State} {P : Dev → Prop} (h : s.Keeps (exec c s)) (hP : ∀ e, s.dev.Keeps e → P e) : Completes c s P := by
  obtain ⟨t, hnext, hpending, hkeeps⟩ := h
  exact ⟨t, hnext, hpending, hP _ hkeeps⟩

theorem State.host_keeps (s : State) (h : Hdr) (m : HostMsg) : s.Keeps (s.host h m) := s.does_keeps h.t fun d => d.hostMsgIn_keeps _ _ _ _

theorem State.write_keeps (s : State) (h : Hdr) (p : Par) (i : Nat) (v : W64) : s.Keeps (s.write h p i v) := s.host_keeps h _

theorem exec_keeps (c : Instr) (s : State) : s.Keeps (exec c s) := by
  cases c with
  | tblCommit | tblAbort | beatGridWrite | gridTargetWrite | sampleNow | socSet | pSetWrite | burstRequest | burstAbort | portClear | portUnlock
    | legClear | adcCalibrate | winReadback | capRunStart | capRunStop | hostFire | trigArmWrite | tokenGive | spokeDiscover | spokeUnblock
    | cellBypassWrite | cellClearLockWrite | cellSerialRefWrite | cellSettingWrite | blockClear | recover | ringReset | retainedClear | resetReq
    | pwrRequestParked | pwrRequestRun | pwrRequestDark | evtRaise => exact s.write_keeps _ _ _ _
  | rimConfigRecord | opn | close | heartbeat | finish | read | readImage | write | parameterWrite | bulkWrite | claim | release | modeRequest
    | stopTrip | stopLegs | abort | attest | updManifest | updChunk | updStatus | updCancel | updActivate | updConfirm | keyEnrol | keyRevoke => exact s.host_keeps _ _
  | beatBoundary => exact s.does_keeps _ fun d => d.beat_keeps _ _
  | tablePersist => exact s.does_keeps _ (.whenControl fun d => d.persist_keeps)
  | computeWindowEnd => exact s.does_keeps _ fun d => d.windowEnd_keeps
  | finalStep => exact s.on_keeps _ _ fun d => d.finalPass_keeps
  | contextDeadline => exact s.on_keeps _ _ fun d => d.deadline_keeps _
  | windowComparatorChange => exact s.does_keeps _ fun d => d.winChange_keeps _ _ _
  | rimInputChange => exact s.does_keeps _ fun d => d.rimInput_keeps _ _
  | rimInputFiltered => exact s.does_keeps _ fun d => d.rimFiltered_keeps _
  | discrepancyTimeout => exact s.does_keeps _ fun d => d.discrepancy_keeps _
  | testPulseStart => exact s.does_keeps _ fun d => d.testStart_keeps _
  | testLowDeadline => exact s.does_keeps _ fun d => d.testDeadline_keeps
  | testWindowClose => exact s.does_keeps _ fun d => d.testClose_keeps
  | offTest => exact s.does_keeps _ fun d => d.offTest_keeps _ _
  | offTestEnd => exact s.does_keeps _ fun d => d.offTestEnd_keeps _ _
  | outputReadbackMismatch => exact s.does_keeps _ fun d => d.readbackMismatch_keeps _ _
  | edmTimeout => exact s.does_keeps _ fun d => d.edmTimeout_keeps _
  | channelComparison => exact s.does_keeps _ fun d => d.channelCompare_keeps _
  | rimSupplyFault => exact s.does_keeps _ fun d => d.rimSupply_keeps
  | rimResetRelease => exact s.does_keeps _ fun d => d.rstRelease_keeps _ _ _
  | rimResetStuckTimeout => exact s.does_keeps _ fun d => d.rstStuck_keeps
  | mgmt => exact s.does_keeps _ fun d => d.mgmt_keeps _ _
  | clkFail => exact s.does_keeps _ fun d => d.clkFail_keeps _
  | supLockstep => exact s.does_keeps _ fun d => d.lockstep_keeps _
  | memUncorr => exact s.does_keeps _ fun d => d.memUncorr_keeps _
  | proxy => exact s.does_keeps _ fun d => d.hostMsgIn_keeps _ _ _ _
  | sessionTimeout => exact s.does_keeps _ fun d => d.sessionTimeout_keeps _
  | handshakeTimeout => exact s.does_keeps _ fun d => d.handshakeTimeout_keeps _
  | linkLoss => exact s.does_keeps _ (.whenUp fun d => d.linkDown_keeps _)
  | chunkMarked => exact s.does_keeps _ (.whenService fun d => d.chunkMarked_keeps _)
  | activationVerified => exact s.does_keeps _ (.whenService fun d => d.activated_keeps)
  | autoConfirm => exact s.does_keeps _ (.whenUp (.whenService fun d => d.autoConfirm_keeps))
  | trialWindowExpiry => exact s.does_keeps _ (.whenUp (.whenService fun d => d.trialExpiry_keeps))
  | ownershipLapse => exact s.does_keeps _ (.whenService fun d => d.ownershipLapse_keeps)
  | porstnAssert => exact s.does_keeps _ fun d => d.porstLow_keeps
  | porstnRelease => exact s.does_keeps _ fun d => d.porstHigh_keeps _ _
  | brownOut => exact s.does_keeps _ fun d => d.brownOut_keeps _
  | serviceReset => exact s.does_keeps _ fun d => d.svcReset_keeps
  | watchdogExpiry => exact s.does_keeps _ fun d => d.watchdog_keeps
  | warmResetRelease => exact s.does_keeps _ fun d => d.warmRelease_keeps _ _
  | bootLoaderStart => exact s.does_keeps _ fun d => d.loaderStart_keeps
  | firmwareStart => exact s.does_keeps _ fun d => d.firmwareStart_keeps
  | runEntry => exact s.does_keeps _ fun d => d.runEntry_keeps _
  | parkingComplete => exact s.does_keeps _ fun d => d.parkingComplete_keeps
  | wakeComplete => exact s.does_keeps _ fun d => .ite (d.beat_keeps _ _) (.refl d)
  | darkEntryComplete => exact s.does_keeps _ fun d => d.darkEntry_keeps
  | darkExitRelease => exact s.does_keeps _ fun d => d.darkRelease_keeps _ _
  | islandSourcesLost => exact s.does_keeps _ fun d => d.islandLost_keeps
  | rollbackFusesBlown => exact s.does_keeps _ (.whenService fun d => d.fusesBlown_keeps)
  | rimResetPressStart => exact s.does_keeps _ fun d => d.rstPress_keeps _
  | _ => exact (exec_touches _ s).keeps rfl

end Sys2Proof.Machine

open Sys2Proof Sys2Proof.Machine

/-- Settles O59: an invariant of every command with that of O27; only the writes of the two records place a copy, each at the last bit of its number. -/
theorem stepKeepsRecords : Obligations.StepKeepsRecords := by
  unfold Obligations.StepKeepsRecords
  exact fun s t hs hstep => step_keeps (P := Dev.recordsAlternate) (fun c s hs => (exec_keeps c s).completes fun _ h => h.alternate hs) hs hstep

/-- Settles O27: after every change of the latches the outputs are shown anew; a start, a cold reset and DARK leave them off. -/
theorem stepKeepsRimLatched : Obligations.StepKeepsRimLatched := by
  unfold Obligations.StepKeepsRimLatched
  exact fun s t hs hstep => step_keeps (P := Dev.rimLatchedOff) (fun c s hs => (exec_keeps c s).completes fun _ h => h.latchedOff hs) hs hstep

end

section
/-! SUPPORT. What follows a command: which parts of the device the end of a command leaves as its effect made them, which flags of events it leaves set,
and what the pins then show. -/

namespace Sys2Proof.Machine

/-! ## Reading after an update -/

theorem Dev.get_inc_same (d : Dev) (p : Par) (i n : Nat) {w : Nat} (hw : w ≤ 64) : (d.inc w p i n).get p i = (d.get p i + n) % 2 ^ w := by
  rw [Dev.inc, Dev.get_put_same]
  exact Nat.mod_eq_of_lt (Nat.lt_of_lt_of_le (Nat.mod_lt _ (Nat.two_pow_pos w)) (Nat.pow_le_pow_right (by decide) hw))

theorem Dev.get_inc_apart (d : Dev) {p q : Par} (w i j n : Nat) (h : Par.apart q p = true) : (d.inc w p i n).get q j = d.get q j :=
  d.get_put_apart i j _ h

theorem Dev.get_inc_inst (d : Dev) {p : Par} (w : Nat) {i j : Nat} (n : Nat) (hp : p.small = true) (h : j ≠ i) : (d.inc w p i n).get p j = d.get p j :=
  d.get_put_inst _ hp h

theorem Dev.getF_inc_apart (d : Dev) {p q : Par} (w i j n : Nat) (h : Par.apart q p = true) : (d.inc w p i n).getF q j = d.getF q j :=
  d.getF_put_apart i j _ h

theorem Dev.get_putBit_apart (d : Dev) {p q : Par} (i j k : Nat) (b : Bool) (h : Par.apart q p = true) : (d.putBit p i k b).get q j = d.get q j :=
  d.get_put_apart i j _ h

theorem Dev.bit_putBit_same (d : Dev) (p : Par) (i : Nat) {k : Nat} (hk : k < 64) (b : Bool) : bit ((d.putBit p i k b).get p i) k = b := by
  rw [Dev.putBit, Dev.get_put_same, bit_mod_two_pow _ hk, bit_setBit_same]

theorem Dev.bit_putBit_other (d : Dev) (p : Par) (i : Nat) {k l : Nat} (hl : l < 64) (h : l ≠ k) (b : Bool) :
    bit ((d.putBit p i k b).get p i) l = bit (d.get p i) l := by
  rw [Dev.putBit, Dev.get_put_same, bit_mod_two_pow _ hl, bit_setBit_other _ _ h]

theorem Dev.get_lt (d : Dev) (p : Par) (i : Nat) : d.get p i < 2 ^ 64 := (d.raw p i).isLt

theorem Dev.get_put_of_lt (d : Dev) (p : Par) (i : Nat) {v : Nat} (hv : v < 2 ^ 64) : (d.put p i v).get p i = v := by
  rw [Dev.get_put_same, Nat.mod_eq_of_lt hv]

theorem Dev.isOn_put_one (d : Dev) (p : Par) (i : Nat) : (d.put p i 1).isOn p i = true := by simp [Dev.isOn]

theorem Dev.isOn_put_zero (d : Dev) (p : Par) (i : Nat) : (d.put p i 0).isOn p i = false := by simp [Dev.isOn]

theorem Dev.isOn_put_apart (d : Dev) {p q : Par} (i j v : Nat) (h : Par.apart q p = true) : (d.put p i v).isOn q j = d.isOn q j := by
  simp only [Dev.isOn, d.get_put_apart i j v h]

theorem Dev.getI_putI_same (d : Dev) (p : Par) (i : Nat) {v : Int} (h1 : -2 ^ 63 ≤ v) (h2 : v < 2 ^ 63) : (d.putI p i v).getI p i = v := by
  rw [Dev.getI, Dev.putI, Dev.raw_setRaw_same, BitVec.toInt_ofInt]
  exact Int.bmod_eq_of_le (by omega) (by omega)

theorem Dev.get_putI_apart (d : Dev) {p q : Par} (i j : Nat) (v : Int) (h : Par.apart q p = true) : (d.putI p i v).get q j = d.get q j := by
  simp only [Dev.get, Dev.putI, Dev.raw_setRaw_apart d i j _ h]

theorem Dev.getI_put_apart (d : Dev) {p q : Par} (i j v : Nat) (h : Par.apart q p = true) : (d.put p i v).getI q j = d.getI q j := by
  simp only [Dev.getI, Dev.put, Dev.raw_setRaw_apart d i j _ h]

/-- A raised event moves no parameter but those of events. -/
theorem Dev.get_raise (d : Dev) (n obj detail : Nat) (island : Bool) {p : Par} (i : Nat) (hp : p.small = true) (hg : [0xC0].contains p.group = false) :
    (d.raise n obj detail island).get p i = d.get p i := (d.raise_frame n obj detail island).get p i hp hg

theorem Dev.getF_raise (d : Dev) (n obj detail : Nat) (island : Bool) {p : Par} (i : Nat) (hp : p.small = true) (hg : [0xC0].contains p.group = false) :
    (d.raise n obj detail island).getF p i = d.getF p i := (d.raise_frame n obj detail island).getF p i hp hg

@[simp] theorem Dev.raise_now (d : Dev) (n obj detail : Nat) (island : Bool) : (d.raise n obj detail island).now = d.now :=
  (d.raise_frame n obj detail island).2 .now rfl
@[simp] theorem Dev.raise_beatStart (d : Dev) (n obj detail : Nat) (island : Bool) : (d.raise n obj detail island).beatStart = d.beatStart :=
  (d.raise_frame n obj detail island).2 .beatStart rfl
@[simp] theorem Dev.raise_beatLen (d : Dev) (n obj detail : Nat) (island : Bool) : (d.raise n obj detail island).beatLen = d.beatLen :=
  (d.raise_frame n obj detail island).2 .beatLen rfl
@[simp] theorem Dev.raise_newGrid (d : Dev) (n obj detail : Nat) (island : Bool) : (d.raise n obj detail island).newGrid = d.newGrid :=
  (d.raise_frame n obj detail island).2 .newGrid rfl
@[simp] theorem Dev.raise_free (d : Dev) (n obj detail : Nat) (island : Bool) : (d.raise n obj detail island).free = d.free :=
  (d.raise_frame n obj detail island).2 .free rfl
@[simp] theorem Dev.raise_phase (d : Dev) (n obj detail : Nat) (island : Bool) : (d.raise n obj detail island).phase = d.phase :=
  (d.raise_frame n obj detail island).2 .phase rfl
@[simp] theorem Dev.raise_host (d : Dev) (n obj detail : Nat) (island : Bool) : (d.raise n obj detail island).host = d.host :=
  (d.raise_frame n obj detail island).2 .host rfl
@[simp] theorem Dev.raise_tsets (d : Dev) (n obj detail : Nat) (island : Bool) : (d.raise n obj detail island).tsets = d.tsets :=
  (d.raise_frame n obj detail island).2 .tsets rfl
@[simp] theorem Dev.raise_commits (d : Dev) (n obj detail : Nat) (island : Bool) : (d.raise n obj detail island).commits = d.commits :=
  (d.raise_frame n obj detail island).2 .commits rfl
@[simp] theorem Dev.raise_mode (d : Dev) (n obj detail : Nat) (island : Bool) : (d.raise n obj detail island).mode = d.mode :=
  (d.raise_frame n obj detail island).2 .mode rfl
@[simp] theorem Dev.raise_legs (d : Dev) (n obj detail : Nat) (island : Bool) : (d.raise n obj detail island).legs = d.legs :=
  (d.raise_frame n obj detail island).2 .legs rfl
@[simp] theorem Dev.raise_osier (d : Dev) (n obj detail : Nat) (island : Bool) : (d.raise n obj detail island).osier = d.osier :=
  (d.raise_frame n obj detail island).2 .osier rfl
@[simp] theorem Dev.raise_ports (d : Dev) (n obj detail : Nat) (island : Bool) : (d.raise n obj detail island).ports = d.ports :=
  (d.raise_frame n obj detail island).2 .ports rfl
@[simp] theorem Dev.raise_caps (d : Dev) (n obj detail : Nat) (island : Bool) : (d.raise n obj detail island).caps = d.caps :=
  (d.raise_frame n obj detail island).2 .caps rfl
@[simp] theorem Dev.raise_trigs (d : Dev) (n obj detail : Nat) (island : Bool) : (d.raise n obj detail island).trigs = d.trigs :=
  (d.raise_frame n obj detail island).2 .trigs rfl
@[simp] theorem Dev.raise_ctxs (d : Dev) (n obj detail : Nat) (island : Bool) : (d.raise n obj detail island).ctxs = d.ctxs :=
  (d.raise_frame n obj detail island).2 .ctxs rfl
@[simp] theorem Dev.raise_eng (d : Dev) (n obj detail : Nat) (island : Bool) : (d.raise n obj detail island).eng = d.eng :=
  (d.raise_frame n obj detail island).2 .eng rfl
@[simp] theorem Dev.raise_grids (d : Dev) (n obj detail : Nat) (island : Bool) : (d.raise n obj detail island).grids = d.grids :=
  (d.raise_frame n obj detail island).2 .grids rfl
@[simp] theorem Dev.raise_isls (d : Dev) (n obj detail : Nat) (island : Bool) : (d.raise n obj detail island).isls = d.isls :=
  (d.raise_frame n obj detail island).2 .isls rfl
@[simp] theorem Dev.raise_spokes (d : Dev) (n obj detail : Nat) (island : Bool) : (d.raise n obj detail island).spokes = d.spokes :=
  (d.raise_frame n obj detail island).2 .spokes rfl
@[simp] theorem Dev.raise_cells (d : Dev) (n obj detail : Nat) (island : Bool) : (d.raise n obj detail island).cells = d.cells :=
  (d.raise_frame n obj detail island).2 .cells rfl
@[simp] theorem Dev.raise_arms (d : Dev) (n obj detail : Nat) (island : Bool) : (d.raise n obj detail island).arms = d.arms :=
  (d.raise_frame n obj detail island).2 .arms rfl
@[simp] theorem Dev.raise_adcs (d : Dev) (n obj detail : Nat) (island : Bool) : (d.raise n obj detail island).adcs = d.adcs :=
  (d.raise_frame n obj detail island).2 .adcs rfl
@[simp] theorem Dev.raise_sdis (d : Dev) (n obj detail : Nat) (island : Bool) : (d.raise n obj detail island).sdis = d.sdis :=
  (d.raise_frame n obj detail island).2 .sdis rfl
@[simp] theorem Dev.raise_wins (d : Dev) (n obj detail : Nat) (island : Bool) : (d.raise n obj detail island).wins = d.wins :=
  (d.raise_frame n obj detail island).2 .wins rfl
@[simp] theorem Dev.raise_sup (d : Dev) (n obj detail : Nat) (island : Bool) : (d.raise n obj detail island).sup = d.sup :=
  (d.raise_frame n obj detail island).2 .sup rfl
@[simp] theorem Dev.raise_weave (d : Dev) (n obj detail : Nat) (island : Bool) : (d.raise n obj detail island).weave = d.weave :=
  (d.raise_frame n obj detail island).2 .weave rfl
@[simp] theorem Dev.raise_met (d : Dev) (n obj detail : Nat) (island : Bool) : (d.raise n obj detail island).met = d.met :=
  (d.raise_frame n obj detail island).2 .met rfl
@[simp] theorem Dev.raise_lid (d : Dev) (n obj detail : Nat) (island : Bool) : (d.raise n obj detail island).lid = d.lid :=
  (d.raise_frame n obj detail island).2 .lid rfl
@[simp] theorem Dev.raise_pwr (d : Dev) (n obj detail : Nat) (island : Bool) : (d.raise n obj detail island).pwr = d.pwr :=
  (d.raise_frame n obj detail island).2 .pwr rfl
@[simp] theorem Dev.raise_pins (d : Dev) (n obj detail : Nat) (island : Bool) : (d.raise n obj detail island).pins = d.pins :=
  (d.raise_frame n obj detail island).2 .pins rfl

/-! ## The instant of a command -/

@[simp] theorem Dev.atTime_raw (d : Dev) (t : Nat) (p : Par) (i : Nat) : (d.atTime t).raw p i = d.raw p i := rfl
@[simp] theorem Dev.atTime_get (d : Dev) (t : Nat) (p : Par) (i : Nat) : (d.atTime t).get p i = d.get p i := rfl
@[simp] theorem Dev.atTime_getF (d : Dev) (t : Nat) (p : Par) (i : Nat) : (d.atTime t).getF p i = d.getF p i := rfl
@[simp] theorem Dev.atTime_getI (d : Dev) (t : Nat) (p : Par) (i : Nat) : (d.atTime t).getI p i = d.getI p i := rfl
@[simp] theorem Dev.atTime_isOn (d : Dev) (t : Nat) (p : Par) (i : Nat) : (d.atTime t).isOn p i = d.isOn p i := rfl
@[simp] theorem Dev.atTime_now (d : Dev) (t : Nat) : (d.atTime t).now = d.instant t := rfl
@[simp] theorem Dev.atTime_beatStart (d : Dev) (t : Nat) : (d.atTime t).beatStart = d.beatStart := rfl
@[simp] theorem Dev.atTime_beatLen (d : Dev) (t : Nat) : (d.atTime t).beatLen = d.beatLen := rfl
@[simp] theorem Dev.atTime_newGrid (d : Dev) (t : Nat) : (d.atTime t).newGrid = d.newGrid := rfl
@[simp] theorem Dev.atTime_free (d : Dev) (t : Nat) : (d.atTime t).free = d.free := rfl
@[simp] theorem Dev.atTime_phase (d : Dev) (t : Nat) : (d.atTime t).phase = d.phase := rfl
@[simp] theorem Dev.atTime_evt (d : Dev) (t : Nat) : (d.atTime t).evt = d.evt := rfl
@[simp] theorem Dev.atTime_host (d : Dev) (t : Nat) : (d.atTime t).host = d.host := rfl
@[simp] theorem Dev.atTime_tsets (d : Dev) (t : Nat) : (d.atTime t).tsets = d.tsets := rfl
@[simp] theorem Dev.atTime_commits (d : Dev) (t : Nat) : (d.atTime t).commits = d.commits := rfl
@[simp] theorem Dev.atTime_mode (d : Dev) (t : Nat) : (d.atTime t).mode = d.mode := rfl
@[simp] theorem Dev.atTime_legs (d : Dev) (t : Nat) : (d.atTime t).legs = d.legs := rfl
@[simp] theorem Dev.atTime_osier (d : Dev) (t : Nat) : (d.atTime t).osier = d.osier := rfl
@[simp] theorem Dev.atTime_ports (d : Dev) (t : Nat) : (d.atTime t).ports = d.ports := rfl
@[simp] theorem Dev.atTime_caps (d : Dev) (t : Nat) : (d.atTime t).caps = d.caps := rfl
@[simp] theorem Dev.atTime_trigs (d : Dev) (t : Nat) : (d.atTime t).trigs = d.trigs := rfl
@[simp] theorem Dev.atTime_ctxs (d : Dev) (t : Nat) : (d.atTime t).ctxs = d.ctxs := rfl
@[simp] theorem Dev.atTime_eng (d : Dev) (t : Nat) : (d.atTime t).eng = d.eng := rfl
@[simp] theorem Dev.atTime_grids (d : Dev) (t : Nat) : (d.atTime t).grids = d.grids := rfl
@[simp] theorem Dev.atTime_isls (d : Dev) (t : Nat) : (d.atTime t).isls = d.isls := rfl
@[simp] theorem Dev.atTime_spokes (d : Dev) (t : Nat) : (d.atTime t).spokes = d.spokes := rfl
@[simp] theorem Dev.atTime_cells (d : Dev) (t : Nat) : (d.atTime t).cells = d.cells := rfl
@[simp] theorem Dev.atTime_arms (d : Dev) (t : Nat) : (d.atTime t).arms = d.arms := rfl
@[simp] theorem Dev.atTime_adcs (d : Dev) (t : Nat) : (d.atTime t).adcs = d.adcs := rfl
@[simp] theorem Dev.atTime_sdis (d : Dev) (t : Nat) : (d.atTime t).sdis = d.sdis := rfl
@[simp] theorem Dev.atTime_wins (d : Dev) (t : Nat) : (d.atTime t).wins = d.wins := rfl
@[simp] theorem Dev.atTime_sup (d : Dev) (t : Nat) : (d.atTime t).sup = d.sup := rfl
@[simp] theorem Dev.atTime_weave (d : Dev) (t : Nat) : (d.atTime t).weave = d.weave := rfl
@[simp] theorem Dev.atTime_rim (d : Dev) (t : Nat) : (d.atTime t).rim = d.rim := rfl
@[simp] theorem Dev.atTime_met (d : Dev) (t : Nat) : (d.atTime t).met = d.met := rfl
@[simp] theorem Dev.atTime_lid (d : Dev) (t : Nat) : (d.atTime t).lid = d.lid := rfl
@[simp] theorem Dev.atTime_pwr (d : Dev) (t : Nat) : (d.atTime t).pwr = d.pwr := rfl
@[simp] theorem Dev.atTime_pins (d : Dev) (t : Nat) : (d.atTime t).pins = d.pins := rfl

/-! ## What the end of a command leaves -/

@[simp] theorem Dev.settle_now (d old : Dev) : (d.settle old).now = d.now := (d.settle_frame old).2 .now rfl
@[simp] theorem Dev.settle_beatStart (d old : Dev) : (d.settle old).beatStart = d.beatStart := (d.settle_frame old).2 .beatStart rfl
@[simp] theorem Dev.settle_beatLen (d old : Dev) : (d.settle old).beatLen = d.beatLen := (d.settle_frame old).2 .beatLen rfl
@[simp] theorem Dev.settle_newGrid (d old : Dev) : (d.settle old).newGrid = d.newGrid := (d.settle_frame old).2 .newGrid rfl
@[simp] theorem Dev.settle_free (d old : Dev) : (d.settle old).free = d.free := (d.settle_frame old).2 .free rfl
@[simp] theorem Dev.settle_phase (d old : Dev) : (d.settle old).phase = d.phase := (d.settle_frame old).2 .phase rfl
@[simp] theorem Dev.settle_tsets (d old : Dev) : (d.settle old).tsets = d.tsets := (d.settle_frame old).2 .tsets rfl
@[simp] theorem Dev.settle_commits (d old : Dev) : (d.settle old).commits = d.commits := (d.settle_frame old).2 .commits rfl
@[simp] theorem Dev.settle_mode (d old : Dev) : (d.settle old).mode = d.mode := (d.settle_frame old).2 .mode rfl
@[simp] theorem Dev.settle_legs (d old : Dev) : (d.settle old).legs = d.legs := (d.settle_frame old).2 .legs rfl
@[simp] theorem Dev.settle_osier (d old : Dev) : (d.settle old).osier = d.osier := (d.settle_frame old).2 .osier rfl
@[simp] theorem Dev.settle_ports (d old : Dev) : (d.settle old).ports = d.ports := (d.settle_frame old).2 .ports rfl
@[simp] theorem Dev.settle_ctxs (d old : Dev) : (d.settle old).ctxs = d.ctxs := (d.settle_frame old).2 .ctxs rfl
@[simp] theorem Dev.settle_eng (d old : Dev) : (d.settle old).eng = d.eng := (d.settle_frame old).2 .eng rfl
@[simp] theorem Dev.settle_grids (d old : Dev) : (d.settle old).grids = d.grids := (d.settle_frame old).2 .grids rfl
@[simp] theorem Dev.settle_isls (d old : Dev) : (d.settle old).isls = d.isls := (d.settle_frame old).2 .isls rfl
@[simp] theorem Dev.settle_spokes (d old : Dev) : (d.settle old).spokes = d.spokes := (d.settle_frame old).2 .spokes rfl
@[simp] theorem Dev.settle_cells (d old : Dev) : (d.settle old).cells = d.cells := (d.settle_frame old).2 .cells rfl
@[simp] theorem Dev.settle_arms (d old : Dev) : (d.settle old).arms = d.arms := (d.settle_frame old).2 .arms rfl
@[simp] theorem Dev.settle_adcs (d old : Dev) : (d.settle old).adcs = d.adcs := (d.settle_frame old).2 .adcs rfl
@[simp] theorem Dev.settle_sdis (d old : Dev) : (d.settle old).sdis = d.sdis := (d.settle_frame old).2 .sdis rfl
@[simp] theorem Dev.settle_wins (d old : Dev) : (d.settle old).wins = d.wins := (d.settle_frame old).2 .wins rfl
@[simp] theorem Dev.settle_sup (d old : Dev) : (d.settle old).sup = d.sup := (d.settle_frame old).2 .sup rfl
@[simp] theorem Dev.settle_rim (d old : Dev) : (d.settle old).rim = d.rim := (d.settle_frame old).2 .rim rfl
@[simp] theorem Dev.settle_met (d old : Dev) : (d.settle old).met = d.met := (d.settle_frame old).2 .met rfl
@[simp] theorem Dev.settle_lid (d old : Dev) : (d.settle old).lid = d.lid := (d.settle_frame old).2 .lid rfl

/-- The device with other levels on its pins. -/
def Dev.setPins (d : Dev) (p : PinSt) : Dev := { d with pins := p }

theorem Dev.setPins_raw (d : Dev) (v : PinSt) (p : Par) (i : Nat) : (d.setPins v).raw p i = d.raw p i := rfl

/-- The last of what follows a command: rtc_valid (R456) and the pins. -/
def Dev.ended (d : Dev) : Dev :=
  let e := if d.up && decide (d.get Par.beatTimeState 0 ≤ tmWeave) then d.put Par.pwrRtcValid 0 1 else d
  e.setPins e.pinsNow

theorem Dev.settle_eq (d old : Dev) :
    d.settle old = (Dev.serveFresh ((d.wakeScan old).evt.fresh.length + 64) (d.wakeScan old)).ended := by
  rw [Dev.settle, Dev.ended]
  generalize Dev.serveFresh ((d.wakeScan old).evt.fresh.length + 64) (d.wakeScan old) = served
  simp only [Dev.setPins]

theorem Dev.ended_raw (d : Dev) {p : Par} (i : Nat) (h : Par.apart p Par.pwrRtcValid = true) : d.ended.raw p i = d.raw p i := by
  rw [Dev.ended, Dev.setPins_raw]
  split
  · exact Dev.raw_setRaw_apart _ _ _ _ h
  · rfl

/-- A parameter that the end of a command does not move: none of captures, triggers and events, and of PWR.0 not the power mode, the wake cause and
rtc_valid. -/
def Par.stays (p : Par) : Bool :=
  p.small && !([0x60, 0x61, 0xC0].contains p.group) && Par.apart p Par.pwrMode && Par.apart p Par.pwrWakeCause && Par.apart p Par.pwrRtcValid

theorem Dev.wake_raw (d : Dev) (c : Nat) {p : Par} (i : Nat) (h : p.stays = true) : (d.wake c).raw p i = d.raw p i := by
  simp only [Par.stays, Bool.and_eq_true, Bool.not_eq_true'] at h
  obtain ⟨⟨⟨⟨hsmall, hgroup⟩, hmode⟩, hcause⟩, -⟩ := h
  have hraise : [0xC0].contains p.group = false := by
    simp only [List.contains_eq_mem, List.mem_cons, decide_eq_false_iff_not, not_or] at hgroup ⊢
    exact ⟨hgroup.2.2.1, hgroup.2.2.2⟩
  unfold Dev.wake
  split
  · rfl
  split
  · rw [(Dev.raise_frame _ _ _ _ _).1 p i hsmall hraise, Dev.put, Dev.raw_setRaw_apart _ _ _ _ hcause, Dev.put, Dev.raw_setRaw_apart _ _ _ _ hmode]
  split
  · rfl
  · rfl

theorem Dev.settle_raw (d old : Dev) {p : Par} (i : Nat) (h : p.stays = true) : (d.settle old).raw p i = d.raw p i := by
  have hwake (c : Nat) : (d.wake c).raw p i = d.raw p i := d.wake_raw c i h
  simp only [Par.stays, Bool.and_eq_true, Bool.not_eq_true'] at h
  obtain ⟨⟨⟨⟨hsmall, hgroup⟩, -⟩, -⟩, hvalid⟩ := h
  have hscanned : (d.wakeScan old).raw p i = d.raw p i := by
    unfold Dev.wakeScan
    extract_lets asleep rim grid
    split
    · rfl
    split
    · exact hwake _
    split
    · exact hwake _
    · rfl
  rw [Dev.settle_eq, Dev.ended_raw _ i hvalid, ← hscanned]
  exact (Dev.serveFresh_frame _ _).1 p i hsmall hgroup

theorem Dev.settle_get (d old : Dev) {p : Par} (i : Nat) (h : p.stays = true) : (d.settle old).get p i = d.get p i := by
  rw [Dev.get, d.settle_raw old i h, Dev.get]

theorem Dev.settle_getF (d old : Dev) {p : Par} (i : Nat) (h : p.stays = true) : (d.settle old).getF p i = d.getF p i := by
  rw [Dev.getF, d.settle_raw old i h, Dev.getF]

theorem Dev.settle_getI (d old : Dev) {p : Par} (i : Nat) (h : p.stays = true) : (d.settle old).getI p i = d.getI p i := by
  rw [Dev.getI, d.settle_raw old i h, Dev.getI]

theorem Dev.settle_isOn (d old : Dev) {p : Par} (i : Nat) (h : p.stays = true) : (d.settle old).isOn p i = d.isOn p i := by
  rw [Dev.isOn, d.settle_get old i h, Dev.isOn]

/-! ## Flags of events -/

/-- From `d` to `e` no flag of an event has been cleared. -/
def Dev.KeepsFlags (d e : Dev) : Prop := ∀ n, d.isOn Par.evtFlag n = true → e.isOn Par.evtFlag n = true

theorem Dev.KeepsFlags.refl (d : Dev) : d.KeepsFlags d := fun _ => id

theorem Dev.KeepsFlags.trans {a b c : Dev} (h : a.KeepsFlags b) (g : b.KeepsFlags c) : a.KeepsFlags c := fun n => g n ∘ h n

theorem Dev.KeepsFlags.of_raw {d e : Dev} (h : ∀ n, e.raw Par.evtFlag n = d.raw Par.evtFlag n) : d.KeepsFlags e := fun n hn => by
  rwa [Dev.isOn, Dev.get, h n]

theorem Dev.KeepsFlags.frame {a d e : Dev} {cs : List Nat} {fs : List Fld} (h : a.KeepsFlags d) (g : d.Agree cs fs e)
    (hc : cs.contains 0xC0 = false) : a.KeepsFlags e := h.trans (.of_raw fun n => g.1 _ n rfl hc)

theorem Dev.KeepsFlags.upd {a d e : Dev} (h : a.KeepsFlags d) (hpar : e.par = d.par) : a.KeepsFlags e :=
  h.trans (.of_raw fun n => by simp only [Dev.raw, hpar])

theorem Dev.KeepsFlags.put {a d : Dev} (h : a.KeepsFlags d) {p : Par} {i v : Nat} (hp : Par.apart Par.evtFlag p = true) : a.KeepsFlags (d.put p i v) :=
  h.trans (.of_raw fun n => d.raw_setRaw_apart i n _ hp)

theorem Dev.KeepsFlags.ite {a x y : Dev} {c : Prop} [Decidable c] (h : a.KeepsFlags x) (g : a.KeepsFlags y) : a.KeepsFlags (if c then x else y) := by
  split
  · exact h
  · exact g

theorem Dev.KeepsFlags.foldl {α : Type} {f : Dev → α → Dev} (hf : ∀ (d : Dev) x, d.KeepsFlags (f d x)) (xs : List α) (d : Dev) :
    d.KeepsFlags (xs.foldl f d) :=
  List.foldlRecOn xs f (motive := d.KeepsFlags) (.refl d) (fun e h x _ => h.trans (hf e x))

theorem Dev.KeepsFlags.forN {f : Dev → Nat → Dev} (hf : ∀ (d : Dev) n, d.KeepsFlags (f d n)) (n : Nat) (d : Dev) : d.KeepsFlags (d.forN n f) :=
  .foldl hf (List.range n) d

theorem Dev.KeepsFlags.forL {α : Type} {f : Dev → α → Dev} (hf : ∀ (d : Dev) x, d.KeepsFlags (f d x)) (xs : List α) (d : Dev) :
    d.KeepsFlags (d.forL xs f) := .foldl hf xs d

theorem Dev.keepsFlags_setFlag (d : Dev) (n : Nat) : d.KeepsFlags (d.put Par.evtFlag n 1) := fun m hm => by
  by_cases h : m = n
  · subst h
    exact d.isOn_put_one _ _
  · rwa [Dev.isOn, Dev.get_put_inst _ _ rfl h]

/-- What an occurrence counts and records, once its flag is set. -/
theorem Dev.occur_flag (d : Dev) (n ts obj detail tq : Nat) (logged : Bool) : (d.put Par.evtFlag n 1).KeepsFlags (d.occur n ts obj detail tq logged) := by
  unfold Dev.occur
  extract_lets first counted timed r evt fresh rec' log evt' suppressed evt''
  have hcounted : (d.put Par.evtFlag n 1).KeepsFlags counted := .put (.refl _) rfl
  have htimed : (d.put Par.evtFlag n 1).KeepsFlags timed := .ite hcounted (.put (.put (.put hcounted rfl) rfl) rfl)
  have hfresh : (d.put Par.evtFlag n 1).KeepsFlags fresh := .upd htimed rfl
  have hsuppressed : (d.put Par.evtFlag n 1).KeepsFlags suppressed := .put hfresh rfl
  exact .ite (.upd hfresh rfl) (.upd hsuppressed rfl)

theorem Dev.occur_keepsFlags (d : Dev) (n ts obj detail tq : Nat) (logged : Bool) : d.KeepsFlags (d.occur n ts obj detail tq logged) :=
  (d.keepsFlags_setFlag n).trans (d.occur_flag n ts obj detail tq logged)

theorem Dev.raise_keepsFlags (d : Dev) (n obj detail : Nat) (island : Bool) : d.KeepsFlags (d.raise n obj detail island) := by
  unfold Dev.raise
  extract_lets tq logged occ evt
  have hlogged : d.KeepsFlags logged := .ite (.frame (.refl d) (d.islandLog_frame _ _ _) rfl) (.refl d)
  exact .ite (d.occur_keepsFlags _ _ _ _ _ _) (.upd hlogged rfl)

theorem Dev.KeepsFlags.raise {a d : Dev} (h : a.KeepsFlags d) {n obj detail : Nat} {island : Bool} : a.KeepsFlags (d.raise n obj detail island) :=
  h.trans (d.raise_keepsFlags _ _ _ _)

/-- While events are applied, a raised event has its flag set. -/
theorem Dev.isOn_raise (d : Dev) {n : Nat} (obj detail : Nat) (island : Bool) (h : d.evtUp = true) :
    (d.raise n obj detail island).isOn Par.evtFlag n = true := by
  unfold Dev.raise
  extract_lets tq
  rw [if_pos h]
  exact d.occur_flag _ _ _ _ _ _ n (d.isOn_put_one _ _)

theorem Dev.trigMissed_keepsFlags (d : Dev) (n ts cause stake : Nat) : d.KeepsFlags (d.trigMissed n ts cause stake) := by
  unfold Dev.trigMissed
  extract_lets missed
  have hmissed : d.KeepsFlags missed := .raise (.put (.refl d) rfl)
  exact .frame hmissed (missed.markMask_frame _ _) rfl

theorem Dev.fireTrig_keepsFlags (d : Dev) (n ts cause stake : Nat) : d.KeepsFlags (d.fireTrig n ts cause stake) := by
  unfold Dev.fireTrig
  extract_lets st weave x raised told off mask split f sent
  have hraised : d.KeepsFlags raised := .raise (.put (.refl d) rfl)
  have htold : d.KeepsFlags told := .put (.put (.put hraised rfl) rfl) rfl
  have hoff : d.KeepsFlags off := .put htold rfl
  have hsplit : d.KeepsFlags split := by
    refine hoff.trans (.forL (fun x s => ?_) _ off)
    exact .ite (.ite (.frame (.refl x) (x.capSplit_frame _ _) rfl) (.frame (.put (.refl x) rfl) (Dev.capFlag_frame _ _ _) rfl)) (.refl x)
  refine .ite (.refl d) (.ite ?_ (.ite ?_ ?_))
  · split
    · next g hg =>
      extract_lets kept again
      have hkept : d.KeepsFlags again := .put (.put (.put (.frame (.refl d) (d.setTrig_frame _ _) rfl) rfl) rfl) rfl
      refine .ite (hkept.trans (.forL (fun y s => .ite (.frame (.refl y) (y.capSplit_frame _ _) rfl) (.refl y)) _ again)) (.ite ?_ ?_)
      · exact .frame (.refl d) (d.setTrig_frame _ _) rfl
      · exact d.trigMissed_keepsFlags _ _ _ _
    · exact d.trigMissed_keepsFlags _ _ _ _
  · exact .frame (.ite hsplit (.frame hsplit (split.sendFire_frame _ _ _) rfl)) (sent.setTrig_frame _ _) rfl
  · exact .frame (.frame hsplit (split.setTrig_frame _ _) rfl) (Dev.fireMarks_frame _ _ _) rfl

theorem Dev.eventTrig_keepsFlags (d : Dev) (ev : Nat) : d.KeepsFlags (d.eventTrig ev) := by
  unfold Dev.eventTrig
  extract_lets ts m marked
  have hmarked : d.KeepsFlags marked := by
    refine .forN (fun x n => .ite (.ite ?_ (.ite ?_ (.refl x))) (.refl x)) 32 d
    · exact .frame (.refl x) (x.markStream_frame _ _) rfl
    · exact .frame (.refl x) (x.markRing_frame _ _) rfl
  exact .ite (.refl d) (hmarked.trans (.forN (fun x n => .ite (.ite (x.fireTrig_keepsFlags _ _ _ _) (.refl x)) (.refl x)) 16 marked))

theorem Dev.serveFresh_keepsFlags (k : Nat) (d : Dev) : d.KeepsFlags (Dev.serveFresh k d) := by
  induction k generalizing d with
  | zero => exact .upd (.refl d) rfl
  | succ k ih =>
    unfold Dev.serveFresh
    split
    · exact .refl d
    · next ev obj rest _ =>
      have htaken : d.KeepsFlags { d with evt := { d.evt with fresh := rest } } := .upd (.refl d) rfl
      exact htaken.trans ((Dev.eventTrig_keepsFlags _ ev).trans (ih _))

theorem Dev.wake_keepsFlags (d : Dev) (c : Nat) : d.KeepsFlags (d.wake c) :=
  .ite (.refl d) (.ite (.raise (.put (.put (.refl d) rfl) rfl)) (.ite (.upd (.refl d) rfl) (.refl d)))

theorem Dev.wakeScan_keepsFlags (d old : Dev) : d.KeepsFlags (d.wakeScan old) :=
  .ite (.refl d) (.ite (d.wake_keepsFlags _) (.ite (d.wake_keepsFlags _) (.refl d)))

theorem Dev.ended_keepsFlags (d : Dev) : d.KeepsFlags d.ended := .of_raw fun n => d.ended_raw n rfl

/-- The end of a command clears no flag. -/
theorem Dev.settle_keepsFlags (d old : Dev) : d.KeepsFlags (d.settle old) := by
  rw [Dev.settle_eq]
  exact (d.wakeScan_keepsFlags old).trans ((Dev.serveFresh_keepsFlags _ _).trans (Dev.ended_keepsFlags _))

/-! ## The end of a command that serves no occurrence -/

/-- The device with no occurrence left to serve. -/
def Dev.quieted (d : Dev) : Dev := { d with evt := { d.evt with fresh := [] } }

theorem Dev.serveFresh_eq_of_capOff (k : Nat) {d : Dev} (h : d.capOn = false) : Dev.serveFresh k d = d.quieted := by
  induction k generalizing d with
  | zero => rfl
  | succ k ih =>
    unfold Dev.serveFresh
    split
    · next hf => rw [Dev.quieted, ← hf]
    · next ev obj rest _ =>
      have htaken : Dev.capOn { d with evt := { d.evt with fresh := rest } } = false := h
      have hquiet : Dev.eventTrig { d with evt := { d.evt with fresh := rest } } ev = { d with evt := { d.evt with fresh := rest } } := by
        rw [Dev.eventTrig, htaken]
        rfl
      rw [hquiet, ih htaken]
      rfl

/-- Before the firmware serves the host, the end of a command shows the state on the pins, and that is all. -/
theorem Dev.settle_of_down {d : Dev} (h : d.up = false) (old : Dev) : d.settle old = d.quieted.setPins d.quieted.pinsNow := by
  have hcap : d.capOn = false := by rw [Dev.capOn, Dev.full, h]; rfl
  have hscan : d.wakeScan old = d := by rw [Dev.wakeScan, h]; rfl
  rw [Dev.settle_eq, hscan, Dev.serveFresh_eq_of_capOff _ hcap]
  have hdown : d.quieted.up = false := h
  rw [Dev.ended, hdown]
  rfl

/-! ## The end of a command while the device is awake -/

/-- The device is not in PARKED or PARKING since before the command. -/
def Dev.awake (d old : Dev) : Prop := (d.up && (d.pmode == pmParked || d.pmode == pmParking) && old.pmode == d.pmode) = false

theorem Dev.wakeScan_of_awake {d old : Dev} (h : d.awake old) : d.wakeScan old = d := by
  rw [Dev.wakeScan, h]
  rfl

/-- A parameter that the end of a command moves in no power mode but PARKED. -/
def Par.staysAwake (p : Par) : Bool := p.small && !([0x60, 0x61, 0xC0].contains p.group) && Par.apart p Par.pwrRtcValid

theorem Dev.settle_raw_of_awake {d old : Dev} (ha : d.awake old) {p : Par} (i : Nat) (h : p.staysAwake = true) : (d.settle old).raw p i = d.raw p i := by
  simp only [Par.staysAwake, Bool.and_eq_true, Bool.not_eq_true'] at h
  obtain ⟨⟨hsmall, hgroup⟩, hvalid⟩ := h
  rw [Dev.settle_eq, Dev.ended_raw _ i hvalid, Dev.wakeScan_of_awake ha]
  exact (Dev.serveFresh_frame _ _).1 p i hsmall hgroup

theorem Dev.settle_get_of_awake {d old : Dev} (ha : d.awake old) {p : Par} (i : Nat) (h : p.staysAwake = true) : (d.settle old).get p i = d.get p i := by
  rw [Dev.get, Dev.settle_raw_of_awake ha i h, Dev.get]

theorem Dev.ended_pwr (d : Dev) : d.ended.pwr = d.pwr := by
  have hset (x : Dev) (v : PinSt) : (x.setPins v).pwr = x.pwr := rfl
  rw [Dev.ended, hset]
  split
  · exact Dev.put_pwr _ _ _ _
  · rfl

theorem Dev.settle_pwr_of_awake {d old : Dev} (ha : d.awake old) : (d.settle old).pwr = d.pwr := by
  rw [Dev.settle_eq, Dev.ended_pwr, Dev.wakeScan_of_awake ha]
  exact (Dev.serveFresh_frame _ _).2 .pwr rfl

/-- Only a wake cause that PARKING keeps may come at the end of a command. -/
theorem Dev.wake_pwr (d : Dev) (c : Nat) : ∃ w, (d.wake c).pwr = { d.pwr with wakeHeld := w } := by
  unfold Dev.wake
  split
  · exact ⟨_, rfl⟩
  split
  · exact ⟨d.pwr.wakeHeld, by rw [Dev.raise_pwr, Dev.put_pwr, Dev.put_pwr]⟩
  split
  · exact ⟨_, rfl⟩
  · exact ⟨_, rfl⟩

theorem Dev.settle_pwr (d old : Dev) : ∃ w, (d.settle old).pwr = { d.pwr with wakeHeld := w } := by
  have hscanned : ∃ w, (d.wakeScan old).pwr = { d.pwr with wakeHeld := w } := by
    unfold Dev.wakeScan
    extract_lets asleep rim grid
    split
    · exact ⟨_, rfl⟩
    split
    · exact d.wake_pwr _
    split
    · exact d.wake_pwr _
    · exact ⟨_, rfl⟩
  obtain ⟨w, hw⟩ := hscanned
  refine ⟨w, ?_⟩
  rw [Dev.settle_eq, Dev.ended_pwr, ← hw]
  exact (Dev.serveFresh_frame _ _).2 .pwr rfl

/-! ## What the pins show -/

theorem Dev.settle_pins (d old : Dev) : (d.settle old).pins = (d.settle old).pinsNow := d.settle_pinsShown old

theorem maskOf_eq_zero {k : Nat} {f : Nat → Bool} (h : ∀ n, f n = false) : maskOf k f = 0 := by
  induction k with
  | zero => rfl
  | succ k ih => rw [maskOf_succ, ih, h k]; rfl

theorem Dev.gatePins_of_not_full {d : Dev} (h : d.full = false) (n : Nat) : d.gatePins n = (false, false) := by
  unfold Dev.gatePins
  extract_lets x hs ls
  rw [h, Bool.and_false, Bool.false_and, Bool.false_and]
  rfl

/-- No gate is driven where the legs have no power. -/
theorem Dev.pinsNow_gates_of_not_full {d : Dev} (h : d.full = false) : d.pinsNow.gateH = 0 ∧ d.pinsNow.gateL = 0 := by
  have hmask (g : Bool × Bool → Bool) (hg : g (false, false) = false) : BitVec.ofNat 40 (maskOf 40 (fun n => g (d.gatePins n))) = 0 := by
    rw [maskOf_eq_zero fun n => by rw [Dev.gatePins_of_not_full h, hg]]
    rfl
  exact ⟨hmask Prod.fst rfl, hmask Prod.snd rfl⟩

theorem Dev.full_of_phase {d : Dev} (h : d.phase ≠ .run) : d.full = false := by
  simp [Dev.full, Dev.up, h]

theorem Dev.up_of_phase {d : Dev} (h : d.phase ≠ .run) : d.up = false := by
  simp [Dev.up, h]

theorem Dev.settle_gates_of_phase {d : Dev} (h : d.phase ≠ .run) (old : Dev) : (d.settle old).pins.gateH = 0 ∧ (d.settle old).pins.gateL = 0 := by
  rw [Dev.settle_pins]
  exact Dev.pinsNow_gates_of_not_full (Dev.full_of_phase (by rwa [Dev.settle_phase]))

end Sys2Proof.Machine
end

section
/-! PROOF. Resets (R430, R434 to R437, R452): what a reset clears and what it keeps. -/

namespace Sys2Proof.Machine

/-! ## What a reset leaves -/

theorem Dev.cleared_raw (d : Dev) (ph : Phase) (warm : Bool) (p : Par) (i : Nat) :
    (d.cleared ph warm).raw p i = if keptKey warm (parKey p i) then d.raw p i else parDefault (parKey p i) := Tab.get_filter_keys _ _ _ _

theorem Dev.cleared_get_of_kept (d : Dev) (ph : Phase) {warm : Bool} {p : Par} {i : Nat} (h : keptKey warm (parKey p i) = true) :
    (d.cleared ph warm).get p i = d.get p i := by
  rw [Dev.get, Dev.cleared_raw, if_pos h, Dev.get]

theorem Dev.coldReset_raw (d : Dev) (cause : Nat) {p : Par} (i : Nat) (hp : Par.apart p Par.beatTimeState = true) :
    (d.coldReset cause).raw p i = if keptKey false (parKey p i) then d.raw p i else parDefault (parKey p i) := by
  unfold Dev.coldReset
  extract_lets e
  have he : e.raw p i = (d.cleared .held false).raw p i := Dev.raw_setRaw_apart (d.cleared .held false) 0 i _ hp
  exact he.trans (d.cleared_raw .held false p i)

theorem Dev.coldReset_get_of_kept (d : Dev) (cause : Nat) {p : Par} {i : Nat} (hp : Par.apart p Par.beatTimeState = true)
    (h : keptKey false (parKey p i) = true) : (d.coldReset cause).get p i = d.get p i := by
  rw [Dev.get, d.coldReset_raw cause i hp, if_pos h, Dev.get]

/-- A reset keeps the event log and the stores of the Lid (R29, R30); weave time runs on. -/
theorem Dev.coldReset_held (d : Dev) (cause : Nat) : (d.coldReset cause).phase = .held ∧ (d.coldReset cause).pwr.cause = cause
    ∧ (d.coldReset cause).pwr.porst = d.pwr.porst ∧ (d.coldReset cause).evt.log = d.evt.log ∧ (d.coldReset cause).beatStart = d.beatStart
    ∧ (d.coldReset cause).lid.slots = d.lid.slots := by
  unfold Dev.coldReset
  extract_lets e
  have hphase : e.phase = (d.cleared .held false).phase := Dev.put_phase _ _ _ _
  have hpwr : e.pwr = (d.cleared .held false).pwr := Dev.put_pwr _ _ _ _
  have hevt : e.evt = (d.cleared .held false).evt := Dev.put_evt _ _ _ _
  have hstart : e.beatStart = (d.cleared .held false).beatStart := Dev.put_beatStart _ _ _ _
  have hlid : e.lid = (d.cleared .held false).lid := Dev.put_lid _ _ _ _
  have hporst := congrArg PwrSt.porst hpwr
  have hlog := congrArg EvtSt.log hevt
  have hslots := congrArg LidSt.slots hlid
  exact ⟨hphase, rfl, hporst, hlog, hstart, hslots⟩

theorem Dev.settle_down_evt {d : Dev} (h : d.phase ≠ .run) (old : Dev) :
    (d.settle old).evt = { d.evt with fresh := [] } ∧ (d.settle old).pwr = d.pwr := by
  rw [Dev.settle_of_down (Dev.up_of_phase h)]
  exact ⟨rfl, rfl⟩

theorem Dev.settle_down_raw {d : Dev} (h : d.phase ≠ .run) (old : Dev) (p : Par) (i : Nat) : (d.settle old).raw p i = d.raw p i := by
  rw [Dev.settle_of_down (Dev.up_of_phase h)]
  rfl

theorem Dev.settle_down_get {d : Dev} (h : d.phase ≠ .run) (old : Dev) (p : Par) (i : Nat) : (d.settle old).get p i = d.get p i := by
  rw [Dev.get, Dev.settle_down_raw h, Dev.get]

/-- A warm reset keeps the Rim with its parameters, and the TB domain and weave time run on (R435). -/
theorem Dev.warmReset_keepsRim (d : Dev) (cause : Nat) : (d.warmReset cause).phase = .warm ∧ (d.warmReset cause).pwr.cause = cause
    ∧ (d.warmReset cause).pwr.press = none ∧ (d.warmReset cause).rim = d.rim ∧ (d.warmReset cause).beatStart = d.beatStart
    ∧ (d.warmReset cause).clkOk cdTb = d.clkOk cdTb ∧ (d.warmReset cause).evt.early = d.evt.early := by
  unfold Dev.warmReset
  extract_lets e f
  have he : d.Agree [0x50] [.met] e := .ite (fun _ => d.metRecord_frame mcReset) (fun _ => .refl)
  have hclock (a c : Bool) : bit (setBit 0xFE cdTb a + b2n c) cdTb = a := by cases a <;> cases c <;> rfl
  have hevt : e.evt = d.evt := he.2 .evt rfl
  have hearly := congrArg EvtSt.early hevt
  refine ⟨rfl, rfl, rfl, he.2 .rim rfl, he.2 .beatStart rfl, ?_, hearly⟩
  have hsup : e.sup = d.sup := he.2 .sup rfl
  rw [Dev.clkOk, Dev.clkOk, ← hsup]
  exact congrArg (!·) ((hclock _ _).trans (Bool.false_or _))

theorem keptKey_rim {p : Par} {i : Nat} (hi : i < 16777216) (hp : p.small = true) (hc : p.cls = 0x70) : keptKey true (parKey p i) = true := by
  simp only [Par.small, Bool.and_eq_true, decide_eq_true_eq] at hp
  have hcls : parKey p i / 65536 / 16777216 = 0x70 := by
    rw [parKey, if_pos hi, hc]
    omega
  unfold keptKey
  simp [hcls]

theorem Dev.warmReset_raw_of_kept (d : Dev) (cause : Nat) {p : Par} {i : Nat} (hp : p.small = true) (hg : [0x50].contains p.group = false)
    (h : keptKey true (parKey p i) = true) : (d.warmReset cause).raw p i = d.raw p i := by
  unfold Dev.warmReset
  extract_lets e f
  have he : d.Agree [0x50] [.met] e := .ite (fun _ => d.metRecord_frame mcReset) (fun _ => .refl)
  have hf : f.raw p i = e.raw p i := (e.cleared_raw .warm true p i).trans (if_pos h)
  exact hf.trans (he.1 p i hp hg)

/-! ## The commands -/

/-- The device with PORSTn low. -/
def Dev.porstPulled (d : Dev) : Dev := { d with pwr := { d.pwr with porst := true } }

theorem Dev.porstLow_eq {d : Dev} (h1 : d.phase ≠ .dark) (h2 : d.phase ≠ .held) : d.porstLow = d.porstPulled.coldReset rsPorst :=
  if_neg (by simp [h1, h2])

theorem Dev.brownOut_eq {d : Dev} {rail : Nat} (h1 : d.phase ≠ .dark) (h2 : d.phase ≠ .held) (hl : rail = 1 → d.pins.loopEn = true)
    (hm : 6 ≤ rail → d.sup.ddrMiB ≠ 0 ∧ d.full = true) :
    d.brownOut rail = ((d.putBit Par.pwrSupplyOk 0 rail false).inc 32 Par.pwrBrownouts 0).coldReset rsBrownout := by
  unfold Dev.brownOut
  extract_lets used e
  have hused : used = true := by
    unfold used
    split
    · next h => exact hl h
    split
    · next h => simpa using hm h
    · rfl
  rw [if_neg (by simp [h1, h2]), hused]
  rfl

theorem Dev.porstLow_resets (d : Dev) (t : Nat) (h1 : d.phase ≠ .dark) (h2 : d.phase ≠ .held) :
    ∃ e, e = d.act t Dev.porstLow ∧ e.phase = .held ∧ e.pwr.porst = true ∧ e.pwr.cause = rsPorst ∧ e.evt.log = d.evt.log
      ∧ e.beatStart = d.beatStart ∧ e.lid.slots = d.lid.slots ∧ e.pins.gateH = 0 ∧ e.pins.gateL = 0
      ∧ ∀ (p : Par) (i : Nat), p.small = true → p ≠ Par.beatTimeState →
          e.raw p i = if keptKey false (parKey p i) = true then d.raw p i else parDefault (parKey p i) := by
  refine ⟨_, rfl, ?_⟩
  rw [Dev.act, Dev.porstLow_eq (d := d.atTime t) h1 h2]
  obtain ⟨hphase, hcause, hporst, hlog, hstart, hslots⟩ := (d.atTime t).porstPulled.coldReset_held rsPorst
  have hraw (p : Par) (i : Nat) (hp : p.small = true) (hne : p ≠ Par.beatTimeState) :=
    (d.atTime t).porstPulled.coldReset_raw rsPorst (p := p) i (by rw [Par.apart, hp, decide_eq_true hne]; rfl)
  generalize (d.atTime t).porstPulled.coldReset rsPorst = e at *
  have hdown : e.phase ≠ .run := by simp [hphase]
  obtain ⟨hevt, hpwr⟩ := Dev.settle_down_evt hdown (d.atTime t)
  obtain ⟨hgateH, hgateL⟩ := Dev.settle_gates_of_phase hdown (d.atTime t)
  rw [Dev.settle_phase, Dev.settle_beatStart, Dev.settle_lid, hevt, hpwr]
  refine ⟨hphase, hporst, hcause, hlog, hstart, hslots, hgateH, hgateL, fun p i hp hne => ?_⟩
  rw [Dev.settle_down_raw hdown]
  exact hraw p i hp hne

theorem Dev.brownOut_resets (d : Dev) (t rail : Nat) (hr : rail < 8) (h1 : d.phase ≠ .dark) (h2 : d.phase ≠ .held) (hl : rail = 1 → d.pins.loopEn = true)
    (hm : 6 ≤ rail → d.sup.ddrMiB ≠ 0 ∧ d.full = true) :
    ∃ e, e = d.act t (·.brownOut rail) ∧ e.phase = .held ∧ e.pwr.cause = rsBrownout
      ∧ e.get Par.pwrBrownouts 0 = (d.get Par.pwrBrownouts 0 + 1) % 2 ^ 32 ∧ bit (e.get Par.pwrSupplyOk 0) rail = false ∧ e.evt.log = d.evt.log
      ∧ e.pins.gateH = 0 ∧ e.pins.gateL = 0 := by
  refine ⟨_, rfl, ?_⟩
  rw [Dev.act, Dev.brownOut_eq (d := d.atTime t) h1 h2 hl hm]
  set c := ((d.atTime t).putBit Par.pwrSupplyOk 0 rail false).inc 32 Par.pwrBrownouts 0 with hc
  obtain ⟨hphase, hcause, -, hlog, -, -⟩ := c.coldReset_held rsBrownout
  have hdown : (c.coldReset rsBrownout).phase ≠ .run := by simp [hphase]
  obtain ⟨hevt, hpwr⟩ := Dev.settle_down_evt hdown (d.atTime t)
  obtain ⟨hgateH, hgateL⟩ := Dev.settle_gates_of_phase hdown (d.atTime t)
  have hlogged : c.evt.log = d.evt.log := by simp [hc, Dev.inc, Dev.putBit]
  rw [Dev.settle_phase, hevt, hpwr, Dev.settle_down_get hdown, Dev.settle_down_get hdown]
  refine ⟨hphase, hcause, ?_, ?_, hlog.trans hlogged, hgateH, hgateL⟩
  · rw [c.coldReset_get_of_kept _ rfl (by decide), hc, Dev.get_inc_same _ _ _ _ (by decide), Dev.get_putBit_apart _ _ _ _ _ rfl, Dev.atTime_get]
  · rw [c.coldReset_get_of_kept _ rfl (by decide), hc, Dev.get_inc_apart _ _ _ _ _ rfl, Dev.bit_putBit_same _ _ _ (by omega)]

theorem Dev.islandLost_resets (d : Dev) (t : Nat) :
    ∃ e, e = d.act t Dev.islandLost ∧ e.phase = .held ∧ e.pwr.island = false ∧ e.clkOk cdAon = false ∧ e.pwr.cause = rsAonPor ∧ e.pwr.alarm = none
      ∧ e.evt.log = d.evt.log ∧ e.pins.gateH = 0 ∧ e.pins.gateL = 0 := by
  refine ⟨_, rfl, ?_⟩
  obtain ⟨hphase, hcause, -, hlog, -, -⟩ := (d.atTime t).coldReset_held rsAonPor
  have hlost : ∃ x, (d.atTime t).islandLost = x ∧ x.phase = .held ∧ x.pwr.island = false ∧ x.clkOk cdAon = false ∧ x.pwr.cause = rsAonPor
      ∧ x.pwr.alarm = none ∧ x.evt.log = d.evt.log := by
    refine ⟨_, rfl, hphase, rfl, ?_, hcause, rfl, hlog⟩
    exact congrArg (!·) (bit_setBit_same _ _ true)
  obtain ⟨x, hx, hphase, hisland, hclock, hcause, halarm, hlog⟩ := hlost
  have hdown : x.phase ≠ .run := by simp [hphase]
  obtain ⟨hevt, hpwr⟩ := Dev.settle_down_evt hdown (d.atTime t)
  rw [Dev.act, hx, Dev.settle_phase, hevt, hpwr, Dev.clkOk, Dev.settle_sup]
  exact ⟨hphase, hisland, hclock, hcause, halarm, hlog, Dev.settle_gates_of_phase hdown (d.atTime t)⟩

theorem Dev.svcReset_resets (d : Dev) (t : Nat) (h1 : d.pwr.press.isSome = true) (h2 : d.svcOn = true) (h3 : d.phase ≠ .warm) :
    ∃ e, e = d.act t Dev.svcReset ∧ e.phase = .warm ∧ e.pwr.cause = rsService ∧ e.pwr.press = none ∧ e.rim = d.rim ∧ e.beatStart = d.beatStart
      ∧ e.clkOk cdTb = d.clkOk cdTb ∧ ∀ (p : Par) (i : Nat), i < 16777216 → p.small = true → p.cls = 0x70 → e.raw p i = d.raw p i := by
  refine ⟨_, rfl, ?_⟩
  have heq : (d.atTime t).svcReset = (d.atTime t).warmReset rsService := if_pos ⟨h1, h2, h3⟩
  obtain ⟨hphase, hcause, hpress, hrim, hstart, hclock, -⟩ := (d.atTime t).warmReset_keepsRim rsService
  have hdown : ((d.atTime t).warmReset rsService).phase ≠ .run := by simp [hphase]
  obtain ⟨-, hpwr⟩ := Dev.settle_down_evt hdown (d.atTime t)
  rw [Dev.act, heq, Dev.settle_phase, hpwr, Dev.settle_rim, Dev.settle_beatStart, Dev.clkOk, Dev.settle_sup]
  refine ⟨hphase, hcause, hpress, hrim, hstart, hclock, fun p i hi hp hcls => ?_⟩
  have hgroup : [0x50].contains p.group = false := by
    rw [Par.group]
    split
    · rfl
    · rw [hcls]; rfl
  rw [Dev.settle_down_raw hdown, Dev.warmReset_raw_of_kept _ _ hp hgroup (keptKey_rim hi hp hcls), Dev.atTime_raw]

/-- An entry that the island writes moves the log alone. -/
theorem Dev.islandLog_early (d : Dev) (n obj detail : Nat) : (d.islandLog n obj detail).evt.early = d.evt.early := by
  unfold Dev.islandLog
  split
  · rfl
  · rfl

/-- The watchdog counts and leaves an occurrence for the firmware to apply, then the warm reset starts. -/
theorem Dev.watchdog_eq {d : Dev} (h1 : d.phase ≠ .held) (h2 : d.phase ≠ .dark) (h3 : d.phase ≠ .warm) :
    ∃ w : Dev, d.watchdog = w.warmReset rsWatchdog ∧ w.rim = d.rim ∧ w.get Par.pwrWdtExpiries 0 = (d.get Par.pwrWdtExpiries 0 + 1) % 2 ^ 32
      ∧ w.evt.early = d.evt.early ++ [{ ev := evWdtExpiry, ts := d.now, obj := oPwr, detail := 0, tq := d.get Par.beatTimeState 0,
                                        logged := d.islandOn }] ∧ w.beatStart = d.beatStart ∧ w.clkOk cdTb = d.clkOk cdTb := by
  unfold Dev.watchdog
  rw [if_neg (by simp [h1, h2, h3])]
  extract_lets x e
  have hlog := (d.inc 32 Par.pwrWdtExpiries 0).islandLog_frame evWdtExpiry oPwr 0
  have hearly : x.evt.early = d.evt.early := ((d.inc 32 Par.pwrWdtExpiries 0).islandLog_early _ _ _).trans (by rw [Dev.inc, Dev.put_evt])
  have hon : x.islandOn = d.islandOn := by
    have hsup : x.sup = d.sup := (hlog.2 .sup rfl).trans (Dev.put_sup _ _ _ _)
    have hpwr : x.pwr = d.pwr := (hlog.2 .pwr rfl).trans (Dev.put_pwr _ _ _ _)
    simp only [Dev.islandOn, Dev.clkOk, hsup, hpwr]
  have hget (p : Par) (hp : p.small = true) (hg : [].contains p.group = false) : x.get p 0 = (d.inc 32 Par.pwrWdtExpiries 0).get p 0 := hlog.get p 0 hp hg
  have hnow : x.now = d.now := (hlog.2 .now rfl).trans (Dev.put_now _ _ _ _)
  have hrim : x.rim = d.rim := (hlog.2 .rim rfl).trans (Dev.put_rim _ _ _ _)
  have hstart : x.beatStart = d.beatStart := (hlog.2 .beatStart rfl).trans (Dev.put_beatStart _ _ _ _)
  have hsup : x.sup = d.sup := (hlog.2 .sup rfl).trans (Dev.put_sup _ _ _ _)
  have he : e = { ev := evWdtExpiry, ts := d.now, obj := oPwr, detail := 0, tq := d.get Par.beatTimeState 0, logged := d.islandOn } := by
    rw [← hnow, ← hon, ← Dev.get_inc_apart d 32 0 0 1 (p := Par.pwrWdtExpiries) (q := Par.beatTimeState) rfl, ← hget _ rfl rfl]
  have hcount : x.get Par.pwrWdtExpiries 0 = (d.get Par.pwrWdtExpiries 0 + 1) % 2 ^ 32 := (hget _ rfl rfl).trans (Dev.get_inc_same _ _ _ _ (by decide))
  rw [← he, ← hearly]
  clear_value e x
  exact ⟨_, rfl, hrim, hcount, rfl, hstart, by rw [Dev.clkOk, Dev.clkOk, hsup]⟩

theorem Dev.watchdog_resets (d : Dev) (t : Nat) (h1 : d.phase ≠ .held) (h2 : d.phase ≠ .dark) (h3 : d.phase ≠ .warm) :
    ∃ e, e = d.act t Dev.watchdog ∧ e.phase = .warm ∧ e.pwr.cause = rsWatchdog ∧ e.rim = d.rim
      ∧ e.get Par.pwrWdtExpiries 0 = (d.get Par.pwrWdtExpiries 0 + 1) % 2 ^ 32
      ∧ e.evt.early = d.evt.early ++ [{ ev := evWdtExpiry, ts := d.instant t, obj := oPwr, detail := 0, tq := d.get Par.beatTimeState 0,
                                        logged := d.islandOn }]
      ∧ e.beatStart = d.beatStart ∧ e.clkOk cdTb = d.clkOk cdTb := by
  refine ⟨_, rfl, ?_⟩
  obtain ⟨w, hw, hrim, hcount, hearly, hstart, hclk⟩ := (d.atTime t).watchdog_eq h1 h2 h3
  obtain ⟨hwarm, hcause, -, hrim', hstart', hclock, hearly'⟩ := w.warmReset_keepsRim rsWatchdog
  have hdown : (w.warmReset rsWatchdog).phase ≠ .run := by simp [hwarm]
  obtain ⟨hevt, hpwr⟩ := Dev.settle_down_evt hdown (d.atTime t)
  rw [Dev.act, hw, Dev.settle_phase, hevt, hpwr, Dev.settle_rim, Dev.settle_beatStart, Dev.clkOk, Dev.settle_sup, Dev.settle_down_get hdown]
  refine ⟨hwarm, hcause, hrim'.trans hrim, ?_, hearly'.trans hearly, hstart'.trans hstart, hclock.trans hclk⟩
  rw [Dev.get, Dev.warmReset_raw_of_kept _ _ rfl rfl (by decide)]
  exact hcount

end Sys2Proof.Machine

open Sys2Proof Sys2Proof.Machine

/-- Settles O8: each effect is a reset, of which `cleared` says what it keeps; what follows a command in a reset moves nothing more. -/
theorem resets : Obligations.Resets := by
  unfold Obligations.Resets
  refine ⟨⟨fun t s h1 h2 => ?_, fun t rail s h1 h2 hl hm => ?_, fun t s => ?_⟩, fun t s h1 h2 h3 => ?_, fun t s h1 h2 h3 => ?_⟩
  · obtain ⟨e, rfl, h⟩ := s.dev.porstLow_resets t h1 h2
    exact ⟨s.act t _, rfl, rfl, h⟩
  · obtain ⟨e, rfl, h⟩ := s.dev.brownOut_resets t rail.val rail.isLt h1 h2 hl hm
    exact ⟨s.act t _, rfl, rfl, h⟩
  · obtain ⟨e, rfl, h⟩ := s.dev.islandLost_resets t
    exact ⟨s.act t _, rfl, rfl, h⟩
  · obtain ⟨e, rfl, h⟩ := s.dev.svcReset_resets t h1 h2 h3
    exact ⟨s.act t _, rfl, rfl, h⟩
  · obtain ⟨e, rfl, h⟩ := s.dev.watchdog_resets t h1 h2 h3
    exact ⟨s.act t _, rfl, rfl, h⟩

end

section
/-! PROOF. The releases and the start-up (R409, R411, R435, R439, R449, R459). -/

namespace Sys2Proof.Machine

/-- A command completes with what holds of its effect after the end of the command. -/
theorem Completes.of_does {c : Instr} {s : State} {P : Dev → Prop} {t : Nat} {f : Dev → Dev} (hc : exec c s = s.does t f)
    (h : ∀ e, f (s.dev.atTime t) = e → P (e.settle (s.dev.atTime t))) : Completes c s P := ⟨s.act t f, hc, rfl, h _ rfl⟩

/-! ## Operations that spare one parameter -/

/-- The operation leaves the parameter as it was, at every index. -/
def Dev.Spares (p : Par) (d e : Dev) : Prop := ∀ i, e.raw p i = d.raw p i

variable {p : Par}

theorem Dev.Spares.refl (d : Dev) : Dev.Spares p d d := fun _ => rfl

theorem Dev.Spares.trans {a b c : Dev} (h : Dev.Spares p a b) (g : Dev.Spares p b c) : Dev.Spares p a c := fun i => (g i).trans (h i)

theorem Dev.Spares.get {d e : Dev} (h : Dev.Spares p d e) (i : Nat) : e.get p i = d.get p i := by rw [Dev.get, h i, Dev.get]

theorem Dev.Spares.frame {a d e : Dev} {cs : List Nat} {fs : List Fld} (h : Dev.Spares p a d) (g : d.Agree cs fs e) (hp : p.small = true)
    (hc : cs.contains p.group = false) : Dev.Spares p a e := h.trans fun i => g.1 p i hp hc

theorem Dev.Spares.upd {a d e : Dev} (h : Dev.Spares p a d) (hpar : e.par = d.par) : Dev.Spares p a e :=
  h.trans fun i => by simp only [Dev.raw, hpar]

theorem Dev.Spares.put {a d : Dev} (h : Dev.Spares p a d) {q : Par} {i v : Nat} (hp : Par.apart p q = true) : Dev.Spares p a (d.put q i v) :=
  h.trans fun n => d.raw_setRaw_apart i n _ hp

theorem Dev.Spares.ite {a x y : Dev} {c : Prop} [Decidable c] (h : Dev.Spares p a x) (g : Dev.Spares p a y) : Dev.Spares p a (if c then x else y) := by
  split
  · exact h
  · exact g

theorem Dev.Spares.foldl {α : Type} {f : Dev → α → Dev} (hf : ∀ (d : Dev) x, Dev.Spares p d (f d x)) (xs : List α) (d : Dev) :
    Dev.Spares p d (xs.foldl f d) :=
  List.foldlRecOn xs f (motive := Dev.Spares p d) (.refl d) (fun e h x _ => h.trans (hf e x))

theorem Dev.Spares.forN {f : Dev → Nat → Dev} (hf : ∀ (d : Dev) n, Dev.Spares p d (f d n)) (n : Nat) (d : Dev) : Dev.Spares p d (d.forN n f) :=
  .foldl hf (List.range n) d

theorem Dev.Spares.forL {α : Type} {f : Dev → α → Dev} (hf : ∀ (d : Dev) x, Dev.Spares p d (f d x)) (xs : List α) (d : Dev) :
    Dev.Spares p d (d.forL xs f) := .foldl hf xs d

theorem Dev.tallyZero_spares (d : Dev) (h : Par.apart p Par.lidLogEntries = true) : Dev.Spares p d d.tallyZero := .put (.upd (.refl d) rfl) h

theorem Dev.tallyExtend_spares (d : Dev) (r : Nat) (digest : List Byte) (h : Par.apart p Par.lidLogEntries = true) :
    Dev.Spares p d (d.tallyExtend r digest) := .put (.upd (.refl d) rfl) h

/-- The rollback mirror and the counter meet in the stores of the Lid. -/
theorem Dev.reconcile_spares (d : Dev) (h : Par.apart p Par.lidLogEntries = true) (hp : p.small = true) (hc : [0xC0].contains p.group = false) :
    Dev.Spares p d d.reconcile := by
  unfold Dev.reconcile
  extract_lets m lid e
  have he : Dev.Spares p d e := .upd (.refl d) rfl
  have hraised : Dev.Spares p d (e.raise evLidRollbackAdvance oLid) := he.frame (e.raise_frame _ _ _ _) hp hc
  exact .ite (hraised.trans (Dev.tallyExtend_spares _ _ _ h)) (.ite (.upd (.refl d) rfl) (.refl d))

/-! ## Releases -/

/-- The phase that the choice of the slot leaves: the start-up, or recovery without a slot that verifies. -/
theorem Dev.slotChoice_phase (d : Dev) : d.slotChoice.phase = .rom ∨ d.slotChoice.phase = .recovery := by
  unfold Dev.slotChoice
  extract_lets b trial run
  have hrun (x : Dev) (s st : Nat) : (run x s st).phase = .rom := Dev.put_phase _ _ _ _
  split
  next x slot st _ =>
  extract_lets other
  split
  · exact .inl (hrun _ _ _)
  split
  · refine .inl ?_
    rw [Dev.raise_phase]
    exact hrun x other bsFallback
  · refine .inr ?_
    rw [Dev.put_phase]
    exact (Dev.pairRings_frame _ 0 0 1).2 .phase rfl

/-- What a release does once the boot is counted: it moves nothing of PWR.0. -/
theorem Dev.booted_agree (d : Dev) (warm : Bool) (cause : Nat) (digest : List Byte) :
    d.Agree [0x12, 0x20, 0x30, 0x31, 0x42, 0x50, 0x70, 0x90, 0x91, 0xA0, 0xA1, 0xC0]
      [.phase, .evt, .host, .mode, .legs, .ports, .arms, .weave, .rim, .met, .lid, .pins]
      (((if warm then d.raise evReset oPwr cause else (d.raise evReset oPwr cause).rimStart).metLoad.winStart.tallyZero).tallyExtend 0
        digest).reconcile.slotChoice := by
  have hraised := Dev.Agree.step (d.raise_frame evReset oPwr cause false) (cs := [0x12, 0x20, 0x30, 0x31, 0x42, 0x50, 0x70, 0x90, 0x91, 0xA0, 0xA1, 0xC0])
    (fs := [.phase, .evt, .host, .mode, .legs, .ports, .arms, .weave, .rim, .met, .lid, .pins]) rfl rfl .refl
  refine .step (Dev.slotChoice_frame _) rfl rfl (.step (Dev.reconcile_frame _) rfl rfl (.step (Dev.tallyExtend_frame _ _ _) rfl rfl ?_))
  refine .step (Dev.tallyZero_frame _) rfl rfl (.step (Dev.winStart_frame _) rfl rfl (.step (Dev.metLoad_frame _) rfl rfl ?_))
  exact .ite (fun _ => hraised) (fun _ => .step (Dev.rimStart_frame _) rfl rfl hraised)

theorem Dev.booted_spares (d : Dev) (warm : Bool) (cause : Nat) (digest : List Byte) :
    Dev.Spares Par.lidBootCount d (((if warm then d.raise evReset oPwr cause else (d.raise evReset oPwr cause).rimStart).metLoad.winStart.tallyZero).tallyExtend 0
        digest).reconcile.slotChoice := by
  have hraised : Dev.Spares Par.lidBootCount d (d.raise evReset oPwr cause) := .frame (.refl d) (d.raise_frame _ _ _ _) rfl rfl
  have hloaded : Dev.Spares Par.lidBootCount d (if warm then d.raise evReset oPwr cause else (d.raise evReset oPwr cause).rimStart).metLoad.winStart :=
    .frame (.frame (.ite hraised (hraised.frame (Dev.rimStart_frame _) rfl rfl)) (Dev.metLoad_frame _) rfl rfl) (Dev.winStart_frame _) rfl rfl
  exact .frame (((hloaded.trans (Dev.tallyZero_spares _ rfl)).trans (Dev.tallyExtend_spares _ _ _ rfl)).trans (Dev.reconcile_spares _ rfl rfl rfl))
    (Dev.slotChoice_frame _) rfl rfl

/-- A release starts the device: its pins and cause are taken, resets and boots are counted (R435). -/
theorem Dev.release_starts (d : Dev) (warm : Bool) (straps rimStraps : Nat) :
    ((d.release warm straps rimStraps).phase = .rom ∨ (d.release warm straps rimStraps).phase = .recovery)
      ∧ (d.release warm straps rimStraps).pwr.porst = false ∧ (d.release warm straps rimStraps).pwr.straps = straps
      ∧ (d.release warm straps rimStraps).pwr.rimStraps = (if warm then d.pwr.rimStraps else rimStraps)
      ∧ (d.release warm straps rimStraps).pwr.exitCause = none
      ∧ (d.release warm straps rimStraps).get Par.pwrResetCause 0 = d.pwr.cause % 2 ^ 64
      ∧ (d.release warm straps rimStraps).get Par.pwrResets 0 = (d.get Par.pwrResets 0 + 1) % 2 ^ 32
      ∧ (d.release warm straps rimStraps).get Par.lidBootCount 0 = (d.get Par.lidBootCount 0 + 1) % 2 ^ 32
      ∧ (d.release warm straps rimStraps).get Par.pwrMode 0 = d.get Par.pwrMode 0 := by
  unfold Dev.release
  extract_lets pwr pins counted supplied booted rim loaded
  have hcounted : counted.pwr = pins.pwr ∧ counted.get Par.pwrResetCause 0 = d.pwr.cause % 2 ^ 64
      ∧ counted.get Par.pwrResets 0 = (d.get Par.pwrResets 0 + 1) % 2 ^ 32 ∧ Dev.Spares Par.lidBootCount d counted ∧ Dev.Spares Par.pwrMode d counted := by
    have hpar (p : Par) : Dev.Spares p d pins := .upd (.refl d) rfl
    refine ⟨by simp only [counted, Dev.inc, Dev.put_pwr], ?_, ?_, .put (.put (hpar _) rfl) rfl, .put (.put (hpar _) rfl) rfl⟩
    · exact (Dev.get_inc_apart _ _ _ _ _ rfl).trans (Dev.get_put_same _ _ _ _)
    · rw [Dev.get_inc_same _ _ _ _ (by decide), Dev.get_put_apart _ _ _ _ rfl, (hpar _).get]
  have hsupplied : supplied.pwr = pins.pwr ∧ ∀ p, Par.apart p Par.pwrSupplyOk = true → Dev.Spares p counted supplied := by
    refine ⟨?_, fun p hp => .ite (.refl _) (.put (.refl _) hp)⟩
    unfold supplied
    split
    · exact hcounted.1
    · rw [Dev.put_pwr, hcounted.1]
  set x := supplied.inc 32 Par.lidBootCount 0 with hx
  have htail := x.booted_agree warm supplied.pwr.cause Config.bootRomDigest
  have hboot := x.booted_spares warm supplied.pwr.cause Config.bootRomDigest
  have hphase := Dev.slotChoice_phase (loaded.tallyExtend 0 Config.bootRomDigest).reconcile
  change (_ : Dev).Agree _ _ (loaded.tallyExtend 0 Config.bootRomDigest).reconcile.slotChoice at htail
  change Dev.Spares _ _ (loaded.tallyExtend 0 Config.bootRomDigest).reconcile.slotChoice at hboot
  generalize (loaded.tallyExtend 0 Config.bootRomDigest).reconcile.slotChoice = e at *
  have hpwr : e.pwr = pins.pwr := (htail.2 .pwr rfl).trans (by rw [hx, Dev.inc, Dev.put_pwr, hsupplied.1])
  have hget (p : Par) (hp : p.small = true) (hb : Par.apart p Par.lidBootCount = true) (hs : Par.apart p Par.pwrSupplyOk = true)
      (hg : [0x12, 0x20, 0x30, 0x31, 0x42, 0x50, 0x70, 0x90, 0x91, 0xA0, 0xA1, 0xC0].contains p.group = false) : e.get p 0 = counted.get p 0 := by
    rw [htail.get p 0 hp hg, hx, Dev.get_inc_apart _ _ _ _ _ hb, (hsupplied.2 p hs).get]
  obtain ⟨-, hcause, hresets, hcount, hmode⟩ := hcounted
  refine ⟨hphase, by rw [hpwr], by rw [hpwr], by rw [hpwr], by rw [hpwr], ?_, ?_, ?_, ?_⟩
  · rw [hget _ rfl rfl rfl rfl, hcause]
  · rw [hget _ rfl rfl rfl rfl, hresets]
  · rw [hboot.get, hx, Dev.get_inc_same _ _ _ _ (by decide), (hsupplied.2 _ rfl).get, hcount.get]
  · rw [hget _ rfl rfl rfl rfl, hmode.get]

/-! ## The pins of the power side -/

theorem Dev.settle_mainEnLow (d old : Dev) : (d.settle old).pins.mainEnLow = (d.phase == .dark && d.pwr.exitCause.isNone) := by
  obtain ⟨w, hw⟩ := d.settle_pwr old
  rw [Dev.settle_pins]
  have hshown (x : Dev) : x.pinsNow.mainEnLow = (x.phase == .dark && x.pwr.exitCause.isNone) := rfl
  rw [hshown, Dev.settle_phase, hw]

theorem Dev.settle_loopEn (d old : Dev) : (d.settle old).pins.loopEn = (d.up && (d.settle old).pmode != pmParked) := by
  rw [Dev.settle_pins]
  have hshown (x : Dev) : x.pinsNow.loopEn = (x.up && x.pmode != pmParked) := rfl
  rw [hshown, Dev.up, Dev.settle_phase, ← Dev.up]

theorem Dev.settle_down_pwr {d : Dev} (h : d.phase ≠ .run) (old : Dev) : (d.settle old).pwr = d.pwr := (Dev.settle_down_evt h old).2

/-- The device at its exit from DARK (R449). -/
def Dev.leavingDark (d : Dev) : Dev := { d.put Par.pwrMode 0 pmRun with pwr := { (d.put Par.pwrMode 0 pmRun).pwr with cause := rsDarkExit } }

theorem Dev.leavingDark_get (d : Dev) (p : Par) (i : Nat) : d.leavingDark.get p i = (d.put Par.pwrMode 0 pmRun).get p i := rfl

theorem Dev.darkRelease_eq {d : Dev} {straps rimStraps : Nat} (h1 : d.phase = .dark) (h2 : d.pwr.exitCause.isSome = true) (h3 : d.pwr.porst = false) :
    d.darkRelease straps rimStraps = d.leavingDark.release false straps rimStraps := if_pos ⟨h1, h2, by simp [h3]⟩

theorem Phase.ne_run_of_started {ph : Phase} (h : ph = .rom ∨ ph = .recovery) : ph ≠ .run := by
  rcases h with rfl | rfl <;> decide

end Sys2Proof.Machine

open Sys2Proof Sys2Proof.Machine

/-- Settles O9: each release is `release`, which leaves the start-up or recovery. -/
theorem releasesStartUp : Obligations.ReleasesStartUp := by
  unfold Obligations.ReleasesStartUp
  refine ⟨fun t straps rimStraps s h1 h2 => .of_does rfl fun e he => ?_, fun t straps rimStraps s h1 => .of_does rfl fun e he => ?_,
    fun t straps rimStraps s h1 h2 h3 => .of_does rfl fun e he => ?_⟩
  · have heq : e = (s.dev.atTime t).release false straps.toNat rimStraps.toNat := he.symm.trans (if_pos ⟨h1, h2⟩)
    obtain ⟨hphase, hporst, hstraps, hrim, -, hcause, hresets, hboots, -⟩ := (s.dev.atTime t).release_starts false straps.toNat rimStraps.toNat
    rw [← heq] at *
    have hdown := Phase.ne_run_of_started hphase
    simp only [Dev.settle_phase, Dev.settle_down_pwr hdown, Dev.settle_down_get hdown]
    exact ⟨hphase, hporst, hstraps, hrim, hcause, hresets, hboots⟩
  · have heq : e = (s.dev.atTime t).release true straps.toNat rimStraps.toNat := he.symm.trans (if_pos h1)
    obtain ⟨hphase, -, hstraps, hrim, -, hcause, hresets, hboots, -⟩ := (s.dev.atTime t).release_starts true straps.toNat rimStraps.toNat
    rw [← heq] at *
    have hdown := Phase.ne_run_of_started hphase
    simp only [Dev.settle_phase, Dev.settle_down_pwr hdown, Dev.settle_down_get hdown]
    exact ⟨hphase, hstraps, hrim, hcause, hresets, hboots⟩
  · have heq : e = (s.dev.atTime t).leavingDark.release false straps.toNat rimStraps.toNat := he.symm.trans (Dev.darkRelease_eq h1 h2 h3)
    obtain ⟨hphase, -, -, -, hexit, hcause, hresets, -, hmode⟩ := (s.dev.atTime t).leavingDark.release_starts false straps.toNat rimStraps.toNat
    rw [← heq] at *
    have hdown := Phase.ne_run_of_started hphase
    have hlow : (e.phase == .dark && e.pwr.exitCause.isNone) = false := by rcases hphase with h | h <;> rw [h] <;> rfl
    rw [Dev.leavingDark_get, Dev.get_put_apart _ _ _ _ rfl] at hresets
    rw [Dev.leavingDark_get, Dev.get_put_same] at hmode
    simp only [Dev.settle_phase, Dev.settle_down_pwr hdown, Dev.settle_down_get hdown, Dev.settle_mainEnLow]
    exact ⟨hphase, hexit, hmode, hcause, hlow, hresets⟩

end

section
/-! PROOF. The start-up (R409, R411, R439, R459). -/

namespace Sys2Proof.Machine

/-! ## Tally registers -/

theorem Dev.tallyExtend_tally_same (d : Dev) (r : Nat) (digest : List Byte) : (d.tallyExtend r digest).tally r = sha384 (d.tally r ++ digest) := by
  unfold Dev.tallyExtend
  rw [Dev.tally, Dev.inc, Dev.put_lid]
  exact Tab.get_set_same _ _ _ _

theorem Dev.tallyExtend_tally_other (d : Dev) {r q : Nat} (digest : List Byte) (h : q ≠ r) : (d.tallyExtend r digest).tally q = d.tally q := by
  unfold Dev.tallyExtend
  rw [Dev.tally, Dev.inc, Dev.put_lid]
  exact Tab.get_set_other _ _ _ _ _ h

theorem Dev.tallyExtend_count (d : Dev) (r : Nat) (digest : List Byte) : (d.tallyExtend r digest).tallyCount r = (d.tallyCount r + 1) % 2 ^ 32 := by
  unfold Dev.tallyExtend
  rw [Dev.tallyCount, Dev.inc, Dev.put_lid]
  exact Tab.get_set_same _ _ _ _

theorem Dev.loaderStart_eq {d : Dev} (h1 : d.phase = .rom) (h2 : d.clkOk cdSup = true) :
    d.loaderStart = { ((d.tallyExtend 1 d.imageDigests.1).tallyExtend 1 d.imageDigests.2.1) with phase := .loader } := if_neg (by simp [h1, h2])

theorem Dev.loaderStart_extends (d : Dev) (h1 : d.phase = .rom) (h2 : d.clkOk cdSup = true) :
    d.loaderStart.phase = .loader ∧ d.loaderStart.tallyCount 1 = (d.tallyCount 1 + 2) % 2 ^ 32
      ∧ d.loaderStart.tally 1 = sha384 (sha384 (d.tally 1 ++ d.imageDigests.1) ++ d.imageDigests.2.1)
      ∧ (∀ r, r ≠ 1 → d.loaderStart.tally r = d.tally r) ∧ d.loaderStart.rim = d.rim := by
  rw [Dev.loaderStart_eq h1 h2]
  obtain ⟨a, b, c⟩ := d.imageDigests
  set x := d.tallyExtend 1 a with hx
  set y := x.tallyExtend 1 b with hy
  have hcount : y.tallyCount 1 = (d.tallyCount 1 + 2) % 2 ^ 32 := by
    rw [hy, Dev.tallyExtend_count, hx, Dev.tallyExtend_count]
    omega
  have hsame : y.tally 1 = sha384 (sha384 (d.tally 1 ++ a) ++ b) := by
    rw [hy, Dev.tallyExtend_tally_same, hx, Dev.tallyExtend_tally_same]
  have hother (r : Nat) (hr : r ≠ 1) : y.tally r = d.tally r := by
    rw [hy, Dev.tallyExtend_tally_other _ _ hr, hx, Dev.tallyExtend_tally_other _ _ hr]
  have hrim : y.rim = d.rim := ((x.tallyExtend_frame 1 b).2 .rim rfl).trans ((d.tallyExtend_frame 1 a).2 .rim rfl)
  exact ⟨rfl, hcount, hsame, hother, hrim⟩

/-! ## Occurrences that wait for the firmware -/

/-- While the firmware runs, the operation leaves no occurrence waiting that was not waiting before. -/
def Dev.KeepsEarly (d e : Dev) : Prop := d.phase = .firmware → e.phase = .firmware ∧ e.evt.early = d.evt.early

theorem Dev.KeepsEarly.trans {a b c : Dev} (h : a.KeepsEarly b) (g : b.KeepsEarly c) : a.KeepsEarly c := fun hd => by
  obtain ⟨hb, heb⟩ := h hd
  obtain ⟨hc, hec⟩ := g hb
  exact ⟨hc, hec.trans heb⟩

theorem Dev.KeepsEarly.of_same {d e : Dev} (hp : e.phase = d.phase) (he : e.evt = d.evt) : d.KeepsEarly e := fun hd => ⟨hp.trans hd, by rw [he]⟩

theorem Dev.KeepsEarly.of_agree {cs : List Nat} {fs : List Fld} {d e : Dev} (h : d.Agree cs fs e) (hp : fs.contains .phase = false)
    (he : fs.contains .evt = false) : d.KeepsEarly e := .of_same (h.2 .phase hp) (h.2 .evt he)

theorem Dev.KeepsEarly.refl (d : Dev) : d.KeepsEarly d := .of_same rfl rfl

theorem Dev.KeepsEarly.foldl {α : Type} {f : Dev → α → Dev} (hf : ∀ (d : Dev) x, d.KeepsEarly (f d x)) (xs : List α) (d : Dev) :
    d.KeepsEarly (xs.foldl f d) :=
  List.foldlRecOn xs f (motive := d.KeepsEarly) (.refl d) (fun e h x _ => h.trans (hf e x))

theorem Dev.KeepsEarly.forN {f : Dev → Nat → Dev} (hf : ∀ (d : Dev) n, d.KeepsEarly (f d n)) (n : Nat) (d : Dev) : d.KeepsEarly (d.forN n f) :=
  .foldl hf (List.range n) d

theorem Dev.occur_keepsEarly (d : Dev) (n ts obj detail tq : Nat) (logged : Bool) : d.KeepsEarly (d.occur n ts obj detail tq logged) := by
  refine fun hd => ⟨((d.occur_frame n ts obj detail tq logged).2 .phase rfl).trans hd, ?_⟩
  unfold Dev.occur
  extract_lets first counted timed r evt fresh rec' log evt' suppressed evt''
  have htimed : timed.evt = d.evt := by
    unfold timed counted Dev.inc
    split
    · simp only [Dev.put_evt]
    · simp only [Dev.put_evt]
  have hsuppressed : suppressed.evt = fresh.evt := Dev.put_evt _ _ _ _
  have hfresh : fresh.evt.early = timed.evt.early := rfl
  split
  · exact hfresh.trans (by rw [htimed])
  · exact (congrArg EvtSt.early hsuppressed).trans (hfresh.trans (by rw [htimed]))

theorem Dev.raise_keepsEarly (d : Dev) (n obj detail : Nat) (island : Bool) : d.KeepsEarly (d.raise n obj detail island) := fun hd => by
  have hup : d.evtUp = true := by simp [Dev.evtUp, hd]
  unfold Dev.raise
  extract_lets tq
  rw [if_pos hup]
  exact d.occur_keepsEarly _ _ _ _ _ _ hd

theorem Dev.applyEarly_early (d : Dev) (h : d.phase = .firmware) : d.applyEarly.phase = .firmware ∧ d.applyEarly.evt.early = [] := by
  unfold Dev.applyEarly
  extract_lets es evt x
  exact Dev.KeepsEarly.foldl (fun d e => d.occur_keepsEarly _ _ _ _ _ _) es x h

theorem Dev.settingsCheck_keepsEarly (d : Dev) : d.KeepsEarly d.settingsCheck := by
  unfold Dev.settingsCheck
  extract_lets sch cur mine lid checked replaced lid' taken extended settled told mode
  have hchecked : d.KeepsEarly checked := .of_same rfl rfl
  have htaken : checked.KeepsEarly taken := by
    have hextend := checked.tallyExtend_frame 3 (sha384 checked.settings)
    have hphase : replaced.phase = checked.phase := hextend.2 .phase rfl
    have hevt : replaced.evt = checked.evt := hextend.2 .evt rfl
    have hsame : taken.phase = checked.phase ∧ taken.evt = checked.evt := by
      unfold taken
      split
      · exact ⟨rfl, rfl⟩
      split
      · split
        · exact ⟨rfl, rfl⟩
        · exact ⟨hphase, hevt⟩
      · exact ⟨hphase, hevt⟩
    exact .of_same hsame.1 hsame.2
  have hsettled : d.KeepsEarly settled :=
    ((hchecked.trans htaken).trans (.of_agree (taken.tallyExtend_frame _ _) rfl rfl)).trans (.of_same (Dev.put_phase _ _ _ _) (Dev.put_evt _ _ _ _))
  split
  · exact (hsettled.trans (settled.raise_keepsEarly _ _ _ _)).trans (.of_same rfl rfl)
  · exact hsettled

theorem Dev.loadTables_keepsEarly (d : Dev) : d.KeepsEarly d.loadTables := by
  unfold Dev.loadTables
  refine .forN (fun d k => ?_) 3 d
  extract_lets img dig loaded again mode mended
  have hloaded : d.KeepsEarly loaded := .of_same rfl rfl
  have hcleared : loaded.KeepsEarly (loaded.loadSet k []) := .of_same rfl rfl
  have hagain : loaded.KeepsEarly again := hcleared.trans ((loaded.loadSet k []).raise_keepsEarly evTableRestoreFail oDev 0 false)
  have hmended : d.KeepsEarly mended := by
    unfold mended
    split
    · exact hloaded.trans (hagain.trans (.of_same rfl rfl))
    · exact hloaded
  exact hmended.trans (.of_agree (mended.tallyExtend_frame (4 + k) (sha384 (mended.imgAll k false))) rfl rfl)

theorem Dev.firmwareStart_applies (d : Dev) (h1 : d.phase = .loader) (h2 : d.clkOk cdSup = true) (h3 : d.firmwareOk d.lid.running = true) :
    d.firmwareStart.phase = .firmware ∧ d.firmwareStart.evt.early = [] := by
  unfold Dev.firmwareStart
  rw [if_neg (by simp [h1, h2, h3])]
  extract_lets x extended started versioned tables o ready
  have hversioned : versioned.phase = .firmware := (Dev.put_phase _ _ _ _).trans (Dev.put_phase _ _ _ _)
  have htables : versioned.applyEarly.KeepsEarly tables :=
    (((Dev.settingsCheck_keepsEarly _).trans (Dev.loadTables_keepsEarly _)).trans (.of_agree (Dev.tallyKeys_frame _) rfl rfl)).trans
      (.of_agree (Dev.energyRestore_frame _) rfl rfl)
  have hready : versioned.applyEarly.KeepsEarly ready := htables.trans (.of_same (Dev.put_phase _ _ _ _) (Dev.put_evt _ _ _ _))
  obtain ⟨hphase, hearly⟩ := versioned.applyEarly_early hversioned
  obtain ⟨hphase', hearly'⟩ := hready hphase
  have hnone : ready.evt.early = [] := hearly'.trans hearly
  split
  · obtain ⟨hraised, hraised'⟩ := ready.raise_keepsEarly evUpdReverted oUpd 0 false hphase'
    exact ⟨hraised, hraised'.trans hnone⟩
  · exact ⟨hphase', hnone⟩

/-! ## Entry to RUN -/

/-- What the turn of one index makes true, and every turn keeps, holds after all of them. -/
theorem Dev.forN_reaches {Q : Dev → Prop} {f : Dev → Nat → Dev} {k n : Nat} (hn : n < k) (hset : ∀ d, Q (f d n)) (hkeep : ∀ d m, Q d → Q (f d m))
    (d : Dev) : Q (d.forN k f) := by
  induction k with
  | zero => omega
  | succ k ih =>
    rw [Dev.forN, List.range_succ, List.foldl_append]
    by_cases h : n = k
    · subst h; exact hset _
    · exact hkeep _ _ (ih (by omega))

theorem Dev.adc_adcCalStart (d : Dev) (m n : Nat) : (d.adcCalStart m).adc n = if n = m then { d.adc m with calRunning := true } else d.adc n := by
  have hset (x : AdcRt) : (d.setAdc m x).adc n = if n = m then x else d.adc n := by
    unfold Dev.setAdc Dev.adc
    split
    · next h => subst h; exact Tab.get_set_same (fun _ => ({} : AdcRt)) _ _ _
    · next h => exact Tab.get_set_other (fun _ => ({} : AdcRt)) _ _ _ _ h
  exact hset _

theorem Dev.adcCalStart_all (d : Dev) {n : Nat} (hn : n < 24) : ((d.forN 24 Dev.adcCalStart).adc n).calRunning = true := by
  refine Dev.forN_reaches (Q := fun e => (e.adc n).calRunning = true) hn (fun d => ?_) (fun d m h => ?_) d
  · rw [Dev.adc_adcCalStart, if_pos rfl]
  · rw [Dev.adc_adcCalStart]
    split
    · rfl
    · exact h

theorem Dev.enterRun_starts (d : Dev) (ddr : Nat) : (d.enterRun ddr).sup.ddrMiB = ddr ∧ (∀ n < 24, ((d.enterRun ddr).adc n).calRunning = true)
    ∧ Dev.Spares Par.pwrMode d (d.enterRun ddr) := by
  unfold Dev.enterRun
  extract_lets sup weave fitted supplied powered placed started
  have hfitted : fitted.sup.ddrMiB = ddr := rfl
  have hpowered : powered.sup = fitted.sup := by unfold powered supplied Dev.putBit; rw [Dev.put_sup, Dev.put_sup]
  have hplaced : placed.sup = fitted.sup := ((powered.setStake_frame _ _).2 .sup rfl).trans hpowered
  have hstarted : started.Agree [0x21, 0x22] [.grids] (started.forN 4 (fun d g => (d.gridFreqInit g).put Par.isldCodeIndex g (d.codeIndex g))) :=
    .forN (fun x g h => .put rfl rfl (.step (x.gridFreqInit_frame g) rfl rfl h)) .refl
  have hstart : placed.Agree [] [.adcs] started := .forN (fun x g h => .step (x.adcCalStart_frame g) rfl rfl h) .refl
  have hadc : ∀ n < 24, (started.adc n).calRunning = true := fun n hn => placed.adcCalStart_all hn
  refine ⟨?_, fun n hn => ?_, ?_⟩
  · rw [hstarted.2 .sup rfl, hstart.2 .sup rfl, hplaced, hfitted]
  · rw [Dev.adc, hstarted.2 .adcs rfl]
    exact hadc n hn
  · have hpar : Dev.Spares Par.pwrMode d fitted := .upd (.refl d) rfl
    exact .frame (.frame (.frame (.put (.put hpar rfl) rfl) (powered.setStake_frame _ _) rfl rfl) hstart rfl rfl) hstarted rfl rfl

theorem Dev.runEntry_enters (d : Dev) (ddr : Nat) (h1 : d.phase = .firmware) (h2 : d.clkOk cdSup = true) :
    (d.runEntry ddr).phase = .run ∧ (d.runEntry ddr).pmode = pmRun ∧ (d.runEntry ddr).get Par.beatTimeState 0 = tmFree
      ∧ (d.runEntry ddr).sup.ddrMiB = ddr ∧ ∀ n < 24, ((d.runEntry ddr).adc n).calRunning = true := by
  unfold Dev.runEntry
  rw [if_neg (by simp [h1, h2])]
  extract_lets was run timed
  have hrun : run.phase = .run ∧ run.get Par.pwrMode 0 = pmRun := ⟨Dev.put_phase _ _ _ _, Dev.get_put_same _ _ _ _⟩
  obtain ⟨hddr, hadc, hmode⟩ := run.enterRun_starts ddr
  have htimed : (run.enterRun ddr).Agree [0x02] [] timed := .put rfl rfl .refl
  have htail : timed.Agree [0x12, 0x20, 0x30, 0x31, 0x42, 0x70, 0xC0, 0x200] [.now, .beatStart, .beatLen, .evt, .mode, .legs, .ports, .arms, .weave, .rim]
      (timed.winModes was).anchorBeat := .step (Dev.anchorBeat_frame _) rfl rfl (.step (Dev.winModes_frame _ _) rfl rfl .refl)
  refine ⟨?_, ?_, ?_, ?_, fun n hn => ?_⟩
  · rw [htail.2 .phase rfl, htimed.2 .phase rfl, (run.enterRun_frame ddr).2 .phase rfl, hrun.1]
  · rw [Dev.pmode, htail.get _ _ rfl rfl, htimed.get _ _ rfl rfl, hmode.get, hrun.2]
  · rw [htail.get _ _ rfl rfl]
    exact Dev.get_put_same _ _ _ _
  · rw [htail.2 .sup rfl, htimed.2 .sup rfl, hddr]
  · rw [Dev.adc, htail.2 .adcs rfl, htimed.2 .adcs rfl]
    exact hadc n hn

/-- In RUN the end of a command finds the device awake. -/
theorem Dev.awake_of_pmode {d : Dev} (h : d.pmode = pmRun) (old : Dev) : d.awake old := by
  rw [Dev.awake, h, Bool.or_eq_false_iff.mpr ⟨by decide, by decide⟩, Bool.and_false, Bool.false_and]

end Sys2Proof.Machine

open Sys2Proof Sys2Proof.Machine

/-- Settles O10: the loader extends tally register 1 twice, the firmware applies every occurrence that waits, and RUN is entered through
`enterRun`. -/
theorem startUp : Obligations.StartUp := by
  unfold Obligations.StartUp
  refine ⟨fun t s h1 h2 => .of_does rfl fun e he => ?_, fun t s h1 h2 h3 => .of_does rfl fun e he => ?_,
    fun t ddr s h1 h2 => .of_does rfl fun e he => ?_⟩
  · obtain ⟨hphase, hcount, hsame, hother, hrim⟩ := (s.dev.atTime t).loaderStart_extends h1 h2
    rw [he] at hphase hcount hsame hother hrim
    rw [Dev.settle_phase, Dev.settle_rim, Dev.tallyCount, Dev.tally, Dev.settle_lid]
    refine ⟨hphase, hcount, hsame, fun r _ hr => ?_, hrim⟩
    rw [Dev.tally, Dev.settle_lid]
    exact hother r hr
  · obtain ⟨hphase, hearly⟩ := (s.dev.atTime t).firmwareStart_applies h1 h2 h3
    rw [he] at hphase hearly
    have hdown : e.phase ≠ .run := by rw [hphase]; decide
    rw [Dev.settle_phase, (Dev.settle_down_evt hdown _).1]
    exact ⟨hphase, hearly⟩
  · obtain ⟨hphase, hmode, htime, hddr, hadc⟩ := (s.dev.atTime t).runEntry_enters ddr.val h1 h2
    rw [he] at hphase hmode htime hddr hadc
    have hawake := Dev.awake_of_pmode hmode (s.dev.atTime t)
    have hmode' : (e.settle (s.dev.atTime t)).pmode = pmRun := (Dev.settle_get_of_awake hawake 0 rfl).trans hmode
    rw [Dev.settle_phase, Dev.settle_get e _ (p := Par.beatTimeState) 0 rfl, Dev.settle_sup, Dev.settle_loopEn, Dev.settle_mainEnLow, hmode', Dev.up, hphase]
    exact ⟨rfl, hmode', htime, hddr, rfl, rfl, fun n hn => by rw [Dev.adc, Dev.settle_adcs]; exact hadc n hn⟩

end

section
/-! PROOF. Parking, the wakes from PARKED, and DARK (R433, R441 to R449). -/

namespace Sys2Proof.Machine

/-! ## Links that go down -/

theorem Dev.sessionEnd_spares_linkState (d : Dev) (s : Nat) : Dev.Spares Par.linkState d (d.sessionEnd s) := by
  unfold Dev.sessionEnd
  extract_lets x closed told host gone lid
  have hclosed : Dev.Spares Par.linkState d closed := .upd (.refl d) rfl
  have htold : Dev.Spares Par.linkState d told := .ite (.put hclosed rfl) hclosed
  have hgone : Dev.Spares Par.linkState d gone := htold.upd rfl
  exact .ite (.refl d) (.ite hgone (hgone.upd rfl))

theorem Dev.linkDown_linkState (d : Dev) (l m : Nat) : (d.linkDown l).get Par.linkState m = if m = l then 0 else d.get Par.linkState m := by
  unfold Dev.linkDown
  extract_lets low told both lost
  have htold : Dev.Spares Par.linkState low told := .ite (.refl low) (.frame (.refl low) (low.ptpGone_frame _) rfl rfl)
  have hended : Dev.Spares Par.linkState told (told.forN 16 (fun d s => if lost (d.sess s) then d.sessionEnd s else d)) :=
    .forN (fun x s => .ite (x.sessionEnd_spares_linkState s) (.refl x)) 16 told
  rw [hended.get, htold.get]
  split
  · next h => subst h; exact Dev.get_put_same _ _ _ _
  · next h => exact Dev.get_put_inst _ _ rfl h

theorem Dev.weftDown_linkState (d : Dev) (p : Nat) {l : Nat} (h : l < 3) : (d.weftDown p).get Par.linkState l = d.get Par.linkState l := by
  unfold Dev.weftDown
  extract_lets x up y down
  have hdown : down.get Par.linkState l = d.get Par.linkState l := rfl
  split
  · rfl
  split
  · have hraised := (down.put Par.linkState (3 + p) 0).raise_frame evWeftLinkDown (oid 0x90 (3 + p)) 0 false
    rw [(Dev.sendLsa_frame _).get _ _ rfl rfl, (Dev.reroute_frame _).get _ _ rfl rfl, hraised.get _ _ rfl rfl, Dev.get_put_inst _ _ rfl (by omega), hdown]
  · exact hdown

theorem Dev.weaveLeave_linkState (d : Dev) {l : Nat} (h : l < 3) : d.weaveLeave.get Par.linkState l = d.get Par.linkState l := by
  unfold Dev.weaveLeave
  extract_lets down loose me keep absent unpaired left
  have hdown : down.get Par.linkState l = d.get Par.linkState l :=
    List.foldlRecOn (List.range 4) _ (motive := fun e : Dev => e.get Par.linkState l = d.get Par.linkState l) rfl
      (fun e he p _ => (e.weftDown_linkState p h).trans he)
  have hloose : Dev.Spares Par.linkState down loose := .frame (.refl down) (down.setToken_frame false) rfl rfl
  have hgone (x : Dev) (s : Nat) : Dev.Spares Par.linkState x (((x.put Par.stakePresent s 0).inc 32 Par.stakeAbsences s).raise evStakeAbsent (oStake s)) := by
    have hcounted : Dev.Spares Par.linkState x ((x.put Par.stakePresent s 0).inc 32 Par.stakeAbsences s) := .put (.put (.refl x) rfl) rfl
    exact hcounted.frame (Dev.raise_frame _ evStakeAbsent (oStake s) 0 false) rfl rfl
  have habsent : Dev.Spares Par.linkState loose absent := .forN (fun x s => .ite (hgone x s) (.refl x)) 64 loose
  have hunpaired : Dev.Spares Par.linkState absent unpaired := .put (.refl absent) rfl
  have hpar : left.par = unpaired.par := by simp only [left]
  have hleft : Dev.Spares Par.linkState absent left := hunpaired.upd hpar
  rw [(left.setStake_frame keep false).get _ _ rfl rfl, hleft.get, habsent.get, hloose.get, hdown]

theorem Dev.Spares.putF {p : Par} {a d : Dev} (h : Dev.Spares p a d) {q : Par} {i : Nat} {v : F32} (hp : Par.apart p q = true) : Dev.Spares p a (d.putF q i v) :=
  h.trans fun n => d.raw_setRaw_apart i n _ hp

/-! ## Trips of legs write two references of a context -/

section
variable {p : Par} (hsmall : p.small = true) (hgroup : [0x30, 0x31, 0xC0].contains p.group = false) (href0 : Par.apart p Par.ctxRef0 = true)
  (href1 : Par.apart p Par.ctxRef1 = true)
include hsmall hgroup href0 href1

theorem Dev.portStop_spares (d : Dev) (k : Nat) (which : List Nat) (cause : Nat) : Dev.Spares p d (d.portStop k which cause) := by
  have hsub (cs : List Nat) (h : within cs [0x30, 0x31, 0xC0] = true) : cs.contains p.group = false := within_not h hgroup
  unfold Dev.portStop
  extract_lets legs both pulled killed rt stopped stated counted told locked c
  have hpulled : Dev.Spares p d pulled := .forL (fun x n => .ite (.refl x) (.frame (.refl x) (x.tripOne_frame n 3) hsmall (hsub [0x31, 0xC0] rfl))) legs d
  have hkilled : Dev.Spares p d killed := hpulled.frame (pulled.burstKill_frame k) hsmall (hsub [0x30] rfl)
  have hstopped : Dev.Spares p d stopped := hkilled.upd rfl
  have hport : Dev.Spares p stopped counted := .frame (.refl stopped) (.inc rfl rfl (.put rfl rfl .refl) : stopped.Agree [0x30] [] counted) hsmall (hsub [0x30] rfl)
  have htold : Dev.Spares p counted told := .frame (.refl counted) (counted.raise_frame _ _ _ _) hsmall (hsub [0xC0] rfl)
  have hlocked : Dev.Spares p d locked :=
    .ite (.frame ((hstopped.trans hport).trans htold) (told.raise_frame _ _ _ _) hsmall (hsub [0xC0] rfl)) ((hstopped.trans hport).trans htold)
  exact .ite (.putF (.putF hlocked href0) href1) hlocked

theorem Dev.tripLegs_spares (d : Dev) (ns : List Nat) (cause : Nat) : Dev.Spares p d (d.tripLegs ns cause) := by
  unfold Dev.tripLegs
  extract_lets live second portsHit tripped stopped
  have hsub (cs : List Nat) (h : within cs [0x30, 0x31, 0xC0] = true) : cs.contains p.group = false := within_not h hgroup
  have htripped : Dev.Spares p d tripped := .forL (fun x n => .frame (.refl x) (x.tripOne_frame n cause) hsmall (hsub [0x31, 0xC0] rfl)) live d
  have hstopped : Dev.Spares p tripped stopped := .forL (fun x n => x.portStop_spares hsmall hgroup href0 href1 n _ cause) portsHit tripped
  refine (htripped.trans hstopped).trans (.forL (fun x n => ?_) second stopped)
  split
  · exact .refl x
  split
  · next k _ _ =>
    have hlocked : x.Agree [0x30, 0x31, 0xC0] [.evt] ((((x.putBit Par.legTripCause n cause true).put Par.portState k psLocked).inc 32 Par.portTrips k).raise
        evPortLocked (oid 0x30 k)) := .step (Dev.raise_frame _ _ _ _ _) rfl rfl (.inc rfl rfl (.put rfl rfl (.putBit rfl rfl .refl)))
    exact .frame (.refl x) hlocked hsmall hgroup
  · exact .refl x

theorem Dev.winRecalc_spares (hwin : [0x12, 0x42, 0x70].contains p.group = false) (d : Dev) (w : Nat) (counts : Bool) :
    Dev.Spares p d (d.winRecalc w counts) := by
  unfold Dev.winRecalc
  extract_lets now was set marked told tripped
  have hsub (cs : List Nat) (h : within cs [0x12, 0x42, 0x70] = true) : cs.contains p.group = false := within_not h hwin
  have hevt : [0xC0].contains p.group = false := within_not (b := [0x30, 0x31, 0xC0]) rfl hgroup
  have hset : d.Agree [0x42] [] set := .put rfl rfl .refl
  have hmarked : set.Agree [0x42] [] marked := .put rfl rfl (.inc rfl rfl (.put rfl rfl .refl))
  have htold : Dev.Spares p d told := .frame (.frame (.frame (.refl d) hset hsmall (hsub [0x42] rfl)) hmarked hsmall (hsub [0x42] rfl)) (marked.raise_frame _ _ _ _) hsmall hevt
  have htripped : Dev.Spares p d tripped := by
    refine .ite (htold.trans (.forL (fun x j => ?_) _ told)) (.frame (.refl d) hset hsmall (hsub [0x42] rfl))
    have hblock : [0x12, 0xC0].contains p.group = false := by
      simp only [List.contains_cons, List.contains_nil, Bool.or_false, Bool.or_eq_false_iff] at hwin hgroup ⊢
      exact ⟨hwin.1, hgroup.2.2⟩
    exact .frame (.refl x) (x.armBlock_frame j afWindow 0xFFFFFFFF) hsmall hblock
  refine htripped.trans ?_
  unfold Dev.winRoutes
  extract_lets pulled
  have hpulled : Dev.Spares p tripped pulled := tripped.tripLegs_spares hsmall hgroup href0 href1 _ 1
  have hrim : [0x70, 0xC0].contains p.group = false := by
    simp only [List.contains_cons, List.contains_nil, Bool.or_false, Bool.or_eq_false_iff] at hwin hgroup ⊢
    exact ⟨hwin.2.2, hgroup.2.2⟩
  exact .ite (.refl tripped) (.ite (hpulled.frame pulled.rimEval_frame hsmall hrim) hpulled)

theorem Dev.winModes_spares (hwin : [0x12, 0x42, 0x70].contains p.group = false) (d : Dev) (was : Nat → Nat) : Dev.Spares p d (d.winModes was) := by
  unfold Dev.winModes
  have hsub : [0x42].contains p.group = false := within_not (b := [0x12, 0x42, 0x70]) rfl hwin
  refine .forN (fun x w => ?_) 64 d
  extract_lets y
  have hy : Dev.Spares p x y := .ite (.frame (.refl x) (x.winUndet_frame w) hsmall hsub) (.refl x)
  exact .ite hy (hy.trans (y.winRecalc_spares hsmall hgroup href0 href1 hwin w true))

end

/-! ## Entry to PARKED -/

theorem Dev.ctxStates_stopped (d : Dev) {c : Nat} (hc : c < 128) :
    (d.forN 128 (fun d c => d.put Par.ctxState c xsStopped)).get Par.ctxState c = xsStopped := by
  refine Dev.forN_reaches (Q := fun e => e.get Par.ctxState c = xsStopped) hc (fun d => Dev.get_put_same _ _ _ _) (fun d m h => ?_) d
  by_cases hm : c = m
  · subst hm; exact Dev.get_put_same _ _ _ _
  · rw [Dev.get_put_inst _ _ rfl hm, h]

theorem stoppedClocks_bit (n : Nat) : let m := [cdLoop, cdSpk, cdWeft, cdMem].foldl (fun m k => setBit m k true) n
    bit m cdLoop = true ∧ bit m cdSpk = true ∧ bit m cdWeft = true ∧ bit m cdMem = true := by
  simp only [List.foldl_cons, List.foldl_nil]
  refine ⟨?_, ?_, ?_, bit_setBit_same _ _ _⟩
  · rw [bit_setBit_other _ _ (by decide), bit_setBit_other _ _ (by decide), bit_setBit_other _ _ (by decide), bit_setBit_same]
  · rw [bit_setBit_other _ _ (by decide), bit_setBit_other _ _ (by decide), bit_setBit_same]
  · rw [bit_setBit_other _ _ (by decide), bit_setBit_same]

theorem Dev.parkingComplete_parks (d : Dev) (h1 : d.phase = .run) (h2 : d.pmode = pmParking) (h3 : d.pwr.wakeHeld = none) :
    d.parkingComplete.pmode = pmParked ∧ d.parkingComplete.sup.ddrMiB = 0 ∧ d.parkingComplete.pwr.parkedAt = d.now
      ∧ (d.parkingComplete.clkOk cdLoop = false ∧ d.parkingComplete.clkOk cdSpk = false ∧ d.parkingComplete.clkOk cdWeft = false
        ∧ d.parkingComplete.clkOk cdMem = false)
      ∧ (d.parkingComplete.get Par.linkState 0 = 0 ∧ d.parkingComplete.get Par.linkState 2 = 0
        ∧ d.parkingComplete.get Par.linkState 1 = d.get Par.linkState 1)
      ∧ (∀ c < 128, d.parkingComplete.get Par.ctxState c = xsStopped) ∧ d.parkingComplete.isOn Par.evtFlag evPwrParked = true := by
  unfold Dev.parkingComplete
  have hup : d.up = true := by simp [Dev.up, h1]
  rw [if_neg (by simp [hup, h2])]
  extract_lets was left stopped quiet cut dead sup pwr parked supplied raised pwr'
  have hexit : d.Agree [0x60, 0xC0] [.evt, .caps] (d.forN 32 Dev.capExit) := .forN (fun x n h => .step (x.capExit_frame n) rfl rfl h) .refl
  have hleft : d.Agree [0x60, 0x80, 0x81, 0x90, 0xC0] [.evt, .caps, .weave] left := .step (Dev.weaveLeave_frame _) rfl rfl (hexit.mono rfl rfl)
  have hstopped : left.Agree [0x20] [] stopped := .forN (fun x n h => .put rfl rfl h) .refl
  have hquiet : (stopped.put Par.pwrMode 0 pmParked).Agree [0x12, 0x20, 0x30, 0x31, 0x42, 0x70, 0xC0]
      [.evt, .mode, .legs, .ports, .arms, .weave, .rim] quiet := Dev.winModes_frame _ was
  have hcut : quiet.Agree [0x02, 0x90, 0xC0] [.evt, .host, .commits, .sup, .lid] cut :=
    .step ((quiet.linkDown 0).linkDown_frame 2) rfl rfl (quiet.linkDown_frame 0)
  have hcutPwr : cut.pwr = d.pwr := by
    rw [hcut.2 .pwr rfl, hquiet.2 .pwr rfl, Dev.put_pwr, hstopped.2 .pwr rfl, hleft.2 .pwr rfl]
  have hcutPhase : cut.phase = .run := by
    rw [hcut.2 .phase rfl, hquiet.2 .phase rfl, Dev.put_phase, hstopped.2 .phase rfl, hleft.2 .phase rfl, h1]
  have hnow : cut.now = d.now := by
    rw [hcut.2 .now rfl, hquiet.2 .now rfl, Dev.put_now, hstopped.2 .now rfl, hleft.2 .now rfl]
  have hparked : parked.phase = cut.phase ∧ parked.sup = { sup with unlocked := dead, ddrMiB := 0 } ∧ parked.pwr = { pwr with parkedAt := cut.now } :=
    ⟨by simp only [parked], by simp only [parked, sup], by simp only [parked, pwr]⟩
  have hparkedPar (p : Par) (i : Nat) : parked.get p i = cut.get p i := by simp only [parked, Dev.get, Dev.raw]
  obtain ⟨hphase, hsup, hpwr⟩ := hparked
  clear_value parked
  have hsupplied : parked.Agree [0xB0] [] supplied := .putBit rfl rfl (.putBit rfl rfl (.putBit rfl rfl .refl))
  have hraised : supplied.Agree [0xC0] [.evt] raised := supplied.raise_frame _ _ _ _
  have hheld : raised.pwr = { pwr with parkedAt := cut.now } := by rw [hraised.2 .pwr rfl, hsupplied.2 .pwr rfl, hpwr]
  have hunlocked : raised.sup = { sup with unlocked := dead, ddrMiB := 0 } := by rw [hraised.2 .sup rfl, hsupplied.2 .sup rfl, hsup]
  have hnone : raised.pwr.wakeHeld = none := by
    have hwait : pwr.wakeHeld = none := (congrArg PwrSt.wakeHeld hcutPwr).trans h3
    simp only [hheld, hwait]
  rw [hnone]
  have hclosed (p : Par) (i : Nat) (hp : p.small = true) (hc : [0xB0, 0xC0].contains p.group = false) : raised.get p i = cut.get p i := by
    rw [hraised.get p i hp (within_not (b := [0xB0, 0xC0]) rfl hc), hsupplied.get p i hp (within_not (b := [0xB0, 0xC0]) rfl hc), hparkedPar]
  have hlink (l : Nat) (hl : l < 3) : quiet.get Par.linkState l = d.get Par.linkState l := by
    rw [hquiet.get _ _ rfl rfl, Dev.get_put_apart _ _ _ _ rfl, hstopped.get _ _ rfl rfl, Dev.weaveLeave_linkState _ hl, hexit.get _ _ rfl rfl]
  obtain ⟨hloop, hspk, hweft, hmem⟩ := stoppedClocks_bit cut.sup.unlocked
  have hclk (k : Nat) (hk : bit dead k = true) : raised.clkOk k = false := by rw [Dev.clkOk, hunlocked, hk]; rfl
  refine ⟨?_, by rw [hunlocked], by rw [hheld, hnow], ⟨hclk _ hloop, hclk _ hspk, hclk _ hweft, hclk _ hmem⟩, ⟨?_, ?_, ?_⟩, fun c hc => ?_, ?_⟩
  · have hspared : Dev.Spares Par.pwrMode parked raised :=
      .frame (.put (.put (.put (.refl parked) rfl) rfl) rfl) hraised rfl rfl
    rw [Dev.pmode, hspared.get, hparkedPar, hcut.get _ _ rfl rfl, hquiet.get _ _ rfl rfl,
      Dev.get_put_of_lt _ _ _ (by decide)]
  · rw [hclosed _ _ rfl rfl, Dev.linkDown_linkState, Dev.linkDown_linkState]
    rfl
  · rw [hclosed _ _ rfl rfl, Dev.linkDown_linkState]
    rfl
  · rw [hclosed _ _ rfl rfl, Dev.linkDown_linkState, Dev.linkDown_linkState]
    exact hlink 1 (by decide)
  · have hspared : Dev.Spares Par.ctxState (stopped.put Par.pwrMode 0 pmParked) quiet := Dev.winModes_spares rfl rfl rfl rfl rfl _ was
    rw [hclosed _ _ rfl rfl, hcut.get _ _ rfl rfl, hspared.get, Dev.get_put_apart _ _ _ _ rfl]
    exact left.ctxStates_stopped hc
  · refine supplied.isOn_raise _ _ _ ?_
    rw [Dev.evtUp, Dev.up, hsupplied.2 .phase rfl, hphase, hcutPhase]
    rfl

/-! ## The wakes -/

theorem Dev.wake_wakes (d : Dev) (c : Nat) (h1 : d.phase = .run) (h2 : d.pmode = pmParked) (hc : c < 2 ^ 64) :
    (d.wake c).phase = .run ∧ (d.wake c).pmode = pmWaking ∧ (d.wake c).get Par.pwrWakeCause 0 = c ∧ (d.wake c).isOn Par.evtFlag evPwrWake = true := by
  have hup : d.up = true := by simp [Dev.up, h1]
  unfold Dev.wake
  rw [if_neg (by simp [hup]), if_pos h2]
  refine ⟨?_, ?_, ?_, Dev.isOn_raise _ _ _ _ ?_⟩
  · rw [Dev.raise_phase, Dev.put_phase, Dev.put_phase, h1]
  · rw [Dev.pmode, Dev.get_raise _ _ _ _ _ _ rfl rfl, Dev.get_put_apart _ _ _ _ rfl, Dev.get_put_of_lt _ _ _ (by decide)]
  · rw [Dev.get_raise _ _ _ _ _ _ rfl rfl, Dev.get_put_of_lt _ _ _ hc]
  · rw [Dev.evtUp, Dev.up, Dev.put_phase, Dev.put_phase, h1]
    rfl

/-- During PARKING a wake cause waits for the end of the entry (R445). -/
theorem Dev.wakePin_waits (d : Dev) (h1 : d.phase = .run) (h2 : d.pmode = pmParking) (h3 : d.pwr.wakeHeld = none) :
    d.wakePin.pmode = pmParking ∧ d.wakePin.pwr.wakeHeld = some wcWakePin := by
  have heq : d.wakePin = { d with pwr := { d.pwr with wakeHeld := some wcWakePin } } := by
    rw [Dev.wakePin, if_neg (by rw [h1]; decide), Dev.wake, if_neg (by simp [Dev.up, h1]), if_neg (by rw [h2]; decide), if_pos ⟨h2, by simp [h3]⟩]
  rw [heq]
  exact ⟨h2, rfl⟩

/-- A device that the command takes out of the power mode it was in is awake at its end. -/
theorem Dev.awake_of_changed {d old : Dev} (h : old.pmode ≠ d.pmode) : d.awake old := by
  rw [Dev.awake, beq_eq_false_iff_ne.mpr h, Bool.and_false]

theorem Dev.settle_woken {e old : Dev} {c : Nat} (hold : old.pmode = pmParked)
    (h : e.phase = .run ∧ e.pmode = pmWaking ∧ e.get Par.pwrWakeCause 0 = c ∧ e.isOn Par.evtFlag evPwrWake = true) :
    (e.settle old).pmode = pmWaking ∧ (e.settle old).get Par.pwrWakeCause 0 = c ∧ (e.settle old).isOn Par.evtFlag evPwrWake = true := by
  obtain ⟨-, hmode, hcause, hflag⟩ := h
  have hawake : e.awake old := Dev.awake_of_changed (by rw [hold, hmode]; decide)
  refine ⟨?_, ?_, e.settle_keepsFlags old _ hflag⟩
  · rw [Dev.pmode, Dev.settle_get_of_awake hawake _ rfl, ← Dev.pmode, hmode]
  · rw [Dev.settle_get_of_awake hawake _ rfl, hcause]

theorem Dev.settle_get_of_scan {d old : Dev} (hs : d.wakeScan old = d) {p : Par} (i : Nat) (h : p.staysAwake = true) : (d.settle old).get p i = d.get p i := by
  simp only [Par.staysAwake, Bool.and_eq_true, Bool.not_eq_true'] at h
  obtain ⟨⟨hsmall, hgroup⟩, hvalid⟩ := h
  rw [Dev.get, Dev.settle_eq, Dev.ended_raw _ i hvalid, hs]
  exact (Dev.serveFresh_frame _ _).get p i hsmall hgroup

theorem Dev.settle_pwr_of_scan {d old : Dev} (hs : d.wakeScan old = d) : (d.settle old).pwr = d.pwr := by
  rw [Dev.settle_eq, Dev.ended_pwr, hs]
  exact (Dev.serveFresh_frame _ _).2 .pwr rfl

/-- A cause that already waits stays while PARKING runs on. -/
theorem Dev.settle_parking {e : Dev} (old : Dev) (hmode : e.pmode = pmParking) {c : Nat} (hheld : e.pwr.wakeHeld = some c) :
    (e.settle old).pmode = pmParking ∧ (e.settle old).pwr.wakeHeld = some c := by
  have hwake (c' : Nat) : e.wake c' = e := by
    unfold Dev.wake
    rw [if_neg (show ¬ e.pmode = pmParked by rw [hmode]; decide), if_neg (show ¬ (e.pmode = pmParking ∧ e.pwr.wakeHeld.isNone = true) by simp [hheld]), ite_self]
  have hscan : e.wakeScan old = e := by
    unfold Dev.wakeScan
    simp only [hwake, ite_self]
  refine ⟨?_, ?_⟩
  · rw [Dev.pmode, Dev.settle_get_of_scan hscan _ rfl, ← Dev.pmode, hmode]
  · rw [Dev.settle_pwr_of_scan hscan, hheld]

/-! ## DARK -/

/-- What the entry to DARK leaves, before its alarm is set. -/
def Dev.darkened (d : Dev) : Dev := (((d.metRecord mcClean).cleared .dark false).put Par.pwrMode 0 pmDark).put Par.beatTimeState 0 tmAon

theorem Dev.darkEntry_enters (d : Dev) (h1 : d.phase = .run) (h2 : d.pmode = pmParked) (h3 : d.pwr.darkReq = true) :
    d.darkEntry.phase = .dark ∧ d.darkEntry.pmode = pmDark ∧ d.darkEntry.get Par.beatTimeState 0 = tmAon ∧ d.darkEntry.pwr.exitCause = none
      ∧ d.darkEntry.pwr.alarm = (if d.get Par.pwrDarkWakeS 0 = 0 then none else some (d.now + d.get Par.pwrDarkWakeS 0 * fineS)) := by
  have heq : d.darkEntry = { d.darkened with
      beatStart := d.darkened.now
      pwr := { d.darkened.pwr with alarm := if d.get Par.pwrDarkWakeS 0 = 0 then none else some (d.darkened.now + d.get Par.pwrDarkWakeS 0 * fineS)
                                   exitCause := none } } := if_neg (by simp [Dev.up, h1, h2, h3])
  have hphase : d.darkened.phase = .dark := by rw [Dev.darkened, Dev.put_phase, Dev.put_phase]; rfl
  have hnow : d.darkened.now = d.now := by
    have hcleared (x : Dev) : (x.cleared .dark false).now = x.now := rfl
    rw [Dev.darkened, Dev.put_now, Dev.put_now, hcleared]
    exact (d.metRecord_frame mcClean).2 .now rfl
  have hmode : d.darkened.pmode = pmDark := by
    rw [Dev.pmode, Dev.darkened, Dev.get_put_apart _ _ _ _ rfl, Dev.get_put_of_lt _ _ _ (by decide)]
  have htime : d.darkened.get Par.beatTimeState 0 = tmAon := Dev.get_put_of_lt _ _ _ (by decide)
  rw [heq, ← hnow]
  generalize d.darkened = x at *
  exact ⟨hphase, hmode, htime, rfl, rfl⟩

theorem Dev.darkExit_exits (d : Dev) (c : Nat) (hc : c < 2 ^ 64) (h1 : d.phase = .dark) (h2 : d.islandOn = true) (h3 : d.pwr.exitCause = none) :
    (d.darkExit c).phase = .dark ∧ (d.darkExit c).pwr.exitCause = some c ∧ (d.darkExit c).get Par.pwrWakeCause 0 = c := by
  have heq : d.darkExit c = Dev.put { d with pwr := { d.pwr with exitCause := some c } } Par.pwrWakeCause 0 c := if_pos ⟨h1, by simp [h3], h2⟩
  rw [heq, Dev.put_phase, Dev.put_pwr, Dev.get_put_of_lt _ _ _ hc]
  exact ⟨h1, rfl, rfl⟩

theorem Dev.wakePin_exits {d : Dev} (h1 : d.phase = .dark) (h2 : d.islandOn = true) (h3 : d.pwr.exitCause = none) : d.wakePin = d.darkExit wcWakePin := by
  rw [Dev.wakePin, if_pos h1, Dev.darkExit, if_pos ⟨by simp [h3], h2⟩, if_pos ⟨h1, by simp [h3], h2⟩]

/-- What the end of a command leaves of an exit cause: MAIN_EN is released. -/
theorem Dev.settle_exit {e : Dev} (old : Dev) {c : Nat} (h : e.phase = .dark ∧ e.pwr.exitCause = some c ∧ e.get Par.pwrWakeCause 0 = c) :
    (e.settle old).pwr.exitCause = some c ∧ (e.settle old).get Par.pwrWakeCause 0 = c ∧ (e.settle old).pwr.auxLow = e.pwr.auxLow
      ∧ (e.settle old).pins.mainEnLow = false := by
  obtain ⟨hphase, hexit, hcause⟩ := h
  have hdown : e.phase ≠ .run := by rw [hphase]; decide
  rw [Dev.settle_mainEnLow, Dev.settle_down_pwr hdown, Dev.settle_down_get hdown, hexit]
  exact ⟨rfl, hcause, rfl, Bool.and_false _⟩

end Sys2Proof.Machine

open Sys2Proof Sys2Proof.Machine

/-- Settles O11: the entry to PARKED through the frames of its steps; a wake cause starts the wake in PARKED and waits in PARKING. -/
theorem parkingAndWakes : Obligations.ParkingAndWakes := by
  unfold Obligations.ParkingAndWakes
  refine ⟨⟨fun t s h1 h2 h3 h4 => .of_does rfl fun e he => ?_, fun t s h1 h2 h3 => .of_does rfl fun e he => ?_⟩, fun t s h1 h2 => .of_does rfl fun e he => ?_,
    fun t s h1 h2 h3 h4 => .of_does rfl fun e he => ?_, fun t s h1 h2 h3 => .of_does rfl fun e he => ?_⟩
  · have heq : e = { s.dev.atTime t with pwr := { s.dev.pwr with autoDue := true } } := he.symm.trans (if_pos ⟨by rw [Dev.up, Dev.atTime_phase, h1]; rfl, h2, h3, h4⟩)
    have hmode : e.pmode = pmRun := by rw [heq]; exact h2
    have hpwr : e.pwr = { s.dev.pwr with autoDue := true } := by rw [heq]
    have hawake := Dev.awake_of_pmode hmode (s.dev.atTime t)
    exact ⟨(Dev.settle_pwr_of_awake hawake).trans hpwr, (Dev.settle_get_of_awake hawake 0 rfl).trans hmode⟩
  · obtain ⟨hmode, hddr, hat, ⟨hloop, hspk, hweft, hmem⟩, ⟨hlink0, hlink2, hlink1⟩, hctx, hflag⟩ := (s.dev.atTime t).parkingComplete_parks h1 h2 h3
    rw [he] at hmode hddr hat hloop hspk hweft hmem hlink0 hlink2 hlink1 hctx hflag
    have hawake : e.awake (s.dev.atTime t) := Dev.awake_of_changed (by
      rw [hmode]
      exact ne_of_eq_of_ne h2 (by decide))
    have hmode' : (e.settle (s.dev.atTime t)).pmode = pmParked := (Dev.settle_get_of_awake hawake 0 rfl).trans hmode
    have hlink (l : Nat) (h : e.get Par.linkState l = 0) : (e.settle (s.dev.atTime t)).linkIsUp l = false := by
      rw [Dev.linkIsUp, Dev.settle_get _ _ _ rfl, h]
      rfl
    have hclk (k : Nat) (h : e.clkOk k = false) : (e.settle (s.dev.atTime t)).clkOk k = false := by rwa [Dev.clkOk, Dev.settle_sup]
    refine ⟨hmode', ?_, ?_, ?_, hclk _ hloop, hclk _ hspk, hclk _ hweft, hclk _ hmem, hlink 0 hlink0, hlink 2 hlink2, ?_, fun c hc => ?_,
      e.settle_keepsFlags _ _ hflag⟩
    · rw [Dev.settle_loopEn, hmode']
      exact Bool.and_false _
    · rw [Dev.settle_sup, hddr]
    · rw [Dev.settle_pwr_of_awake hawake, hat]
      rfl
    · rw [Dev.settle_get _ _ _ rfl, hlink1, Dev.atTime_get]
    · rw [Dev.settle_get _ _ _ rfl, hctx c hc]
  · have heq : (s.dev.atTime t).wakePin = (s.dev.atTime t).wake wcWakePin := if_neg (by rw [Dev.atTime_phase, h1]; decide)
    exact Dev.settle_woken h2 (by rw [← he, heq]; exact Dev.wake_wakes _ _ h1 h2 (by decide))
  · have heq : (s.dev.atTime t).parkTimer = (s.dev.atTime t).wake wcTimer := if_pos ⟨h3, h4, h2⟩
    exact Dev.settle_woken h2 (by rw [← he, heq]; exact Dev.wake_wakes _ _ h1 h2 (by decide))
  · obtain ⟨hmode, hheld⟩ := (s.dev.atTime t).wakePin_waits h1 h2 h3
    rw [he] at hmode hheld
    exact Dev.settle_parking _ hmode hheld

/-- Settles O12: the entry to DARK keeps the island alone, and the first exit cause is the one that stays. -/
theorem dark : Obligations.Dark := by
  unfold Obligations.Dark
  refine ⟨fun t s h1 h2 h3 => .of_does rfl fun e he => ?_, fun t s h1 h2 h3 => ⟨.of_does rfl fun e he => ?_, fun h4 => .of_does rfl fun e he => ?_,
    fun h4 => .of_does rfl fun e he => ?_⟩⟩
  · obtain ⟨hphase, hmode, htime, hexit, halarm⟩ := (s.dev.atTime t).darkEntry_enters h1 h2 h3
    rw [he] at hphase hmode htime hexit halarm
    have hdown : e.phase ≠ .run := by rw [hphase]; decide
    rw [Dev.settle_mainEnLow, Dev.settle_loopEn, Dev.settle_down_pwr hdown, Dev.settle_down_get hdown, Dev.settle_phase, Dev.pmode,
      Dev.settle_down_get hdown, hexit, Dev.up, hphase]
    exact ⟨rfl, hmode, htime, rfl, rfl, rfl, halarm⟩
  · have hexit := (s.dev.atTime t).darkExit_exits wcWakePin (by decide) h1 h2 h3
    rw [← Dev.wakePin_exits (d := s.dev.atTime t) h1 h2 h3, he] at hexit
    obtain ⟨hcause, hwake, -, hlow⟩ := Dev.settle_exit (s.dev.atTime t) hexit
    exact ⟨hcause, hwake, hlow⟩
  · have hexit := (s.dev.atTime t).darkExit_exits wcAux (by decide) h1 h2 h3
    have heq : e = { (s.dev.atTime t).darkExit wcAux with pwr := { ((s.dev.atTime t).darkExit wcAux).pwr with auxLow := false } } := by
      rw [← he, Dev.auxHigh, if_pos (show (s.dev.atTime t).pwr.auxLow = true from h4)]
    generalize (s.dev.atTime t).darkExit wcAux = x at hexit heq
    subst heq
    obtain ⟨hcause, hwake, hlow, hpin⟩ := Dev.settle_exit (s.dev.atTime t) (e := { x with pwr := { x.pwr with auxLow := false } }) hexit
    exact ⟨hcause, hwake, hlow, hpin⟩
  · have hexit := (s.dev.atTime t).darkExit_exits wcAlarm (by decide) h1 h2 h3
    rw [← show (s.dev.atTime t).darkAlarm = _ from if_pos h4, he] at hexit
    obtain ⟨hcause, hwake, -, hlow⟩ := Dev.settle_exit (s.dev.atTime t) hexit
    exact ⟨hcause, hwake, hlow⟩

end

section
/-! PROOF. SVC_RSTn, the always-on island and the harvester (R436, R447, R451 to R456). -/

namespace Sys2Proof.Machine

theorem sgn_bitVec (v : BitVec 16) : sgn 16 v.toNat = v.toInt := by
  have hlt : v.toNat < 2 ^ 16 := v.isLt
  rw [sgn, Nat.mod_eq_of_lt hlt, BitVec.toInt_eq_toNat_cond]
  split <;> split <;> omega

theorem Dev.settle_harvPg (d old : Dev) : (d.settle old).pins.harvPg = (d.get Par.harvPg 0 == 1) := by
  rw [Dev.settle_pins]
  have hshown (x : Dev) : x.pinsNow.harvPg = (x.get Par.harvPg 0 == 1) := rfl
  rw [hshown, Dev.settle_get _ _ _ rfl]

/-- Before the firmware runs, an event that the island raises waits with its time and with what the island logs. -/
theorem Dev.raise_waits (d : Dev) (n obj detail : Nat) (h : d.evtUp = false) :
    (d.raise n obj detail true).evt.early
      = d.evt.early ++ [{ ev := n, ts := d.now, obj := obj, detail := detail, tq := d.get Par.beatTimeState 0, logged := d.islandOn }] := by
  unfold Dev.raise
  extract_lets tq logged occ evt
  have hlog := d.islandLog_frame n obj detail
  have hpwr : (d.islandLog n obj detail).pwr = d.pwr := hlog.2 .pwr rfl
  have hsup : (d.islandLog n obj detail).sup = d.sup := hlog.2 .sup rfl
  have hnow : (d.islandLog n obj detail).now = d.now := hlog.2 .now rfl
  have hocc : occ = { ev := n, ts := d.now, obj := obj, detail := detail, tq := d.get Par.beatTimeState 0, logged := d.islandOn } := by
    simp only [occ, logged, if_pos, tq, Bool.true_and, Dev.islandOn, Dev.clkOk, hpwr, hsup, hnow]
  have hearly : evt.early = d.evt.early := by
    simp only [evt, logged, if_pos]
    exact d.islandLog_early n obj detail
  rw [if_neg (by rw [h]; decide), ← hocc, ← hearly]

theorem Dev.settle_down_early {d : Dev} (h : d.phase ≠ .run) (old : Dev) : (d.settle old).evt.early = d.evt.early := by
  rw [(Dev.settle_down_evt h old).1]

theorem Dev.phase_of_evtUp {d : Dev} (h : d.evtUp = false) : d.phase ≠ .run := by
  intro hrun
  simp [Dev.evtUp, Dev.up, hrun] at h

/-! ## SVC_RSTn -/

/-- The device with a press under way, or a stuck pin. -/
def Dev.pressed (d : Dev) (press : Option Nat) (stuck : Bool) : Dev := { d with pwr := { d.pwr with press := press, stuck := stuck } }

theorem Dev.svcPress_eq {d : Dev} {highFor : Nat} (h1 : d.svcOn = true) (h2 : d.pwr.stuck = true → 1000 ≤ highFor) :
    d.svcPress highFor = d.pressed (some d.now) false := by
  refine if_neg ?_
  rw [h1]
  rintro (h | ⟨h, hlt⟩)
  · cases h
  · exact absurd (h2 h) (by omega)

theorem Dev.svcStuck_eq {d : Dev} (h1 : d.svcOn = true) (h2 : d.pwr.press.isSome = true) :
    d.svcStuck = ((d.pressed none true).inc 32 Par.pwrSvcStuck 0).raise evSvcRstStuck oPwr := by
  refine if_neg ?_
  rw [h1]
  cases h : d.pwr.press with
  | none => rw [h] at h2; cases h2
  | some x => simp

/-! ## The island -/

/-- The device with TAMPERn at a level. -/
def Dev.tampered (d : Dev) (level : Bool) : Dev := { d with pwr := { d.pwr with tamper := level } }

theorem Dev.tamperChange_eq {d : Dev} (level : Bool) (h : d.islandOn = true) :
    d.tamperChange level = (d.tampered level).raise evTamper oPwr (b2n level) true := if_neg (by rw [h]; decide)

/-- The device with one more temperature log entry. -/
def Dev.tempTaken (d : Dev) (e : TempEntry) : Dev := { d with pwr := { d.pwr with temp := lastN 1024 (d.pwr.temp ++ [e]) } }

theorem Dev.tempTaken_temp (d : Dev) (e : TempEntry) : (d.tempTaken e).pwr.temp = lastN 1024 (d.pwr.temp ++ [e]) := by
  simp only [Dev.tempTaken]

theorem Dev.tempTaken_get (d : Dev) (e : TempEntry) (p : Par) (i : Nat) : (d.tempTaken e).get p i = d.get p i := by
  simp only [Dev.tempTaken, Dev.get, Dev.raw]

theorem Dev.tempLog_eq {d : Dev} (tj mv : BitVec 16) (h1 : d.islandOn = true) (h2 : d.get Par.pwrAonSource 0 ≠ 2) :
    d.tempLog tj.toNat mv.toNat = ((d.tempTaken { minute := d.now / (60 * fineS) % 2 ^ 32, tj := tj.toInt, mv := mv.toNat }).inc 32 Par.pwrTempEntries
      0).putI Par.pwrTj 0 tj.toInt := by
  unfold Dev.tempLog
  rw [if_neg (by simp [h1, h2]), sgn_bitVec]
  rfl

theorem Dev.islandSource_takes (d : Dev) {src : Nat} (hs : src < 3) (h : d.islandOn = true) :
    (d.islandSource src).get Par.pwrAonSource 0 = src ∧ (d.islandSource src).phase = d.phase := by
  unfold Dev.islandSource
  rw [if_neg (by rw [h]; decide)]
  extract_lets old logged told
  have htold : told.phase = d.phase := by
    have hlog : d.Agree [] [.evt] told := .ite (fun _ => d.islandLog_frame _ _ _) (fun _ => .refl)
    exact hlog.2 .phase rfl
  exact ⟨Dev.get_put_of_lt _ _ _ (by omega), (Dev.put_phase _ _ _ _).trans htold⟩

/-- The device with its island started at weave time `t`, held. -/
def Dev.islandWoken (d : Dev) (t : Nat) : Dev := { d with pwr := { d.pwr with island := true, cause := rsAonPor }, now := t, beatStart := t, phase := .held }

/-- What the start of the island sets. -/
def Dev.islandReady (d : Dev) (src : Nat) (vstore : F32) (below : Bool) : Dev :=
  (((((d.islandWoken d.logLatest).put Par.pwrAonSource 0 src).put Par.pwrRtcValid 0 0).putF Par.harvVstore 0 vstore).put Par.harvPg 0
    (if below then 0 else 2)).put Par.beatTimeState 0 tmFree

theorem Dev.islandStart_eq {d : Dev} (src : Nat) (vstore : F32) (below : Bool) (h1 : d.pwr.island = false) (h2 : d.clkOk cdAon = true) :
    d.islandStart src vstore below = (d.islandReady src vstore below).raise evRtcLost oPwr 0 true := if_neg (by simp [h1, h2])

theorem Dev.islandReady_state (d : Dev) {src : Nat} (hs : src < 3) (vstore : F32) (below : Bool) :
    (d.islandReady src vstore below).pwr.island = true ∧ (d.islandReady src vstore below).phase = .held
      ∧ (d.islandReady src vstore below).now = d.logLatest ∧ (d.islandReady src vstore below).get Par.pwrAonSource 0 = src
      ∧ (d.islandReady src vstore below).get Par.pwrRtcValid 0 = 0 ∧ (d.islandReady src vstore below).get Par.beatTimeState 0 = tmFree
      ∧ (d.islandReady src vstore below).getF Par.harvVstore 0 = vstore
      ∧ (d.islandReady src vstore below).get Par.harvPg 0 = (if below then 0 else 2) := by
  unfold Dev.islandReady
  simp (disch := decide) only [Dev.put_pwr, Dev.putF_pwr, Dev.put_phase, Dev.putF_phase, Dev.put_now, Dev.putF_now, Dev.get_put_apart, Dev.get_putF_apart,
    Dev.getF_put_apart, Dev.getF_putF_same, Dev.get_put_same]
  refine ⟨rfl, rfl, rfl, Nat.mod_eq_of_lt (by omega), rfl, rfl, trivial, ?_⟩
  cases below <;> rfl

theorem Dev.islandStart_state (d : Dev) (src : Fin 3) (vstore : F32) (below : Bool) (old : Dev) (h1 : d.pwr.island = false) (h2 : d.clkOk cdAon = true) :
    ∀ e, e = (d.islandStart src.val vstore below).settle old → e.pwr.island = true ∧ e.phase = .held ∧ e.now = d.logLatest
      ∧ e.get Par.pwrAonSource 0 = src.val ∧ e.get Par.pwrRtcValid 0 = 0 ∧ e.get Par.beatTimeState 0 = tmFree ∧ e.getF Par.harvVstore 0 = vstore
      ∧ e.get Par.harvPg 0 = (if below then 0 else 2) ∧ e.pins.harvPg = false ∧ ∃ x ∈ e.evt.early, x.ev = evRtcLost := by
  rintro e rfl
  rw [Dev.islandStart_eq _ _ _ h1 h2]
  obtain ⟨hisland, hphase, hnow, hsource, hvalid, htime, hvstore, hpg⟩ := d.islandReady_state src.isLt vstore below
  generalize d.islandReady src.val vstore below = x at *
  have hquiet : x.evtUp = false := by rw [Dev.evtUp, Dev.up, hphase]; rfl
  have hdown : (x.raise evRtcLost oPwr 0 true).phase ≠ .run := by rw [Dev.raise_phase, hphase]; decide
  have hget (p : Par) (hp : p.small = true) (hg : [0xC0].contains p.group = false) : ((x.raise evRtcLost oPwr 0 true).settle old).get p 0 = x.get p 0 := by
    rw [Dev.settle_down_get hdown, Dev.get_raise _ _ _ _ _ _ hp hg]
  refine ⟨?_, ?_, ?_, ?_, ?_, ?_, ?_, ?_, ?_, ?_⟩
  · rw [Dev.settle_down_pwr hdown, Dev.raise_pwr, hisland]
  · rw [Dev.settle_phase, Dev.raise_phase, hphase]
  · rw [Dev.settle_now, Dev.raise_now, hnow]
  · rw [hget _ rfl rfl, hsource]
  · rw [hget _ rfl rfl, hvalid]
  · rw [hget _ rfl rfl, htime]
  · rw [Dev.settle_getF _ _ _ rfl, Dev.getF_raise _ _ _ _ _ _ rfl rfl, hvstore]
  · rw [hget _ rfl rfl, hpg]
  · rw [Dev.settle_harvPg, Dev.get_raise _ _ _ _ _ _ rfl rfl, hpg]
    cases below <;> rfl
  · rw [Dev.settle_down_early hdown, Dev.raise_waits _ _ _ _ hquiet]
    exact ⟨_, List.mem_append_right _ (List.mem_singleton_self _), rfl⟩

end Sys2Proof.Machine

open Sys2Proof Sys2Proof.Machine

/-- Settles O13: each command of the island is one update of PWR.0, which the end of the command leaves. -/
theorem alwaysOnIsland : Obligations.AlwaysOnIsland := by
  unfold Obligations.AlwaysOnIsland
  refine ⟨⟨fun t highFor s h1 h2 => .of_does rfl fun e he => ?_, fun t s h1 h2 => .of_does rfl fun e he => ?_⟩,
    ⟨fun t level s h1 => .of_does rfl fun e he => ?_, fun t tj mv s h1 h2 => .of_does rfl fun e he => ?_, fun t src s h1 => .of_does rfl fun e he => ?_,
      fun t src vstore below s h1 h2 => .of_does rfl fun e he => ?_⟩, fun t s => ?_,
    fun t src vstore below s h1 h2 => .of_does rfl fun e he => ?_⟩
  · rw [Dev.svcPress_eq (d := s.dev.atTime t) h1 h2] at he
    obtain ⟨w, hw⟩ := e.settle_pwr (s.dev.atTime t)
    rw [Dev.settle_phase, hw, ← he]
    exact ⟨rfl, rfl, rfl⟩
  · rw [Dev.svcStuck_eq (d := s.dev.atTime t) h1 h2] at he
    obtain ⟨w, hw⟩ := e.settle_pwr (s.dev.atTime t)
    rw [Dev.settle_get _ _ _ rfl, hw, ← he, Dev.raise_pwr, Dev.get_raise _ _ _ _ _ _ rfl rfl, Dev.get_inc_same _ _ _ _ (by decide)]
    rw [Dev.inc, Dev.put_pwr]
    exact ⟨rfl, rfl, rfl⟩
  · rw [Dev.tamperChange_eq (d := s.dev.atTime t) level h1] at he
    obtain ⟨w, hw⟩ := e.settle_pwr (s.dev.atTime t)
    rw [Dev.settle_phase, hw, ← he, Dev.raise_pwr, Dev.raise_phase]
    refine ⟨rfl, rfl, fun hup => ?_⟩
    have hquiet : ((s.dev.atTime t).tampered level).evtUp = false := hup
    rw [Dev.settle_down_early (by rw [Dev.raise_phase]; exact Dev.phase_of_evtUp hquiet), Dev.raise_waits _ _ _ _ hquiet]
    have hon : ((s.dev.atTime t).tampered level).islandOn = true := h1
    rw [hon]
    rfl
  · rw [Dev.tempLog_eq (d := s.dev.atTime t) tj mv h1 h2] at he
    obtain ⟨w, hw⟩ := e.settle_pwr (s.dev.atTime t)
    have hlow := tj.le_toInt
    have hhigh := tj.toInt_lt
    rw [Dev.settle_get _ _ _ rfl, Dev.settle_getI _ _ _ rfl, hw, ← he, Dev.putI_pwr, Dev.inc_pwr, Dev.get_putI_apart _ _ _ _ rfl,
      Dev.get_inc_same _ _ _ _ (by decide), Dev.tempTaken_get]
    refine ⟨?_, rfl, Dev.getI_putI_same _ _ _ (by omega) (by omega)⟩
    simp only [Dev.tempTaken_temp, Dev.atTime_pwr, Dev.atTime_now]
  · obtain ⟨hsource, hphase⟩ := (s.dev.atTime t).islandSource_takes src.isLt h1
    rw [he] at hsource hphase
    rw [Dev.settle_get _ _ _ rfl, Dev.settle_phase]
    exact ⟨hsource, hphase⟩
  · obtain ⟨hisland, hphase, hnow, hsource, hvalid, htime, hvstore, hpg, hpin, -⟩ :=
      (s.dev.atTime t).islandStart_state src vstore below (s.dev.atTime t) h1 h2 _ (congrArg (·.settle (s.dev.atTime t)) he.symm)
    exact ⟨hisland, hphase, hnow, hsource, hvalid, htime, hvstore, hpg, hpin⟩
  · obtain ⟨e', rfl, hphase, hisland, -⟩ := s.dev.islandLost_resets t
    exact ⟨s.act t _, rfl, rfl, hisland, hphase⟩
  · obtain ⟨hisland, -, hnow, -, hvalid, htime, -, -, -, hlost⟩ :=
      (s.dev.atTime t).islandStart_state src vstore below (s.dev.atTime t) h1 h2 _ (congrArg (·.settle (s.dev.atTime t)) he.symm)
    exact ⟨hisland, hnow, hlost, hvalid, htime⟩

end

section
/-! PROOF. The harvester (R453 to R455). -/

namespace Sys2Proof.Machine

/-- A rise or a fall of HARV_PG is shown by its parameter, and a fall from high is counted. -/
theorem Dev.pgChange_shows (d : Dev) (rising : Bool) (v : F32) (h : d.islandOn = true) :
    (d.pgChange rising v).getF Par.harvVstore 0 = v ∧ (d.pgChange rising v).get Par.harvPg 0 = b2n rising
      ∧ (d.pgChange rising v).get Par.harvPgFalls 0 = (if rising = false ∧ d.get Par.harvPg 0 = 1 then (d.get Par.harvPgFalls 0 + 1) % 2 ^ 32
          else d.get Par.harvPgFalls 0) := by
  have hb : b2n rising < 2 ^ 64 := by cases rising <;> decide
  unfold Dev.pgChange
  rw [if_neg (by rw [h]; decide)]
  extract_lets stored was shown
  have hstored (p : Par) (hp : Par.apart p Par.harvVstore = true) : stored.get p 0 = d.get p 0 := Dev.get_putF_apart _ _ _ _ hp
  have hvstore : stored.getF Par.harvVstore 0 = v := Dev.getF_putF_same _ _ _ _
  have hshown : shown.getF Par.harvVstore 0 = v ∧ shown.get Par.harvPg 0 = b2n rising ∧ shown.get Par.harvPgFalls 0 = d.get Par.harvPgFalls 0 :=
    ⟨(Dev.getF_put_apart _ _ _ _ rfl).trans hvstore, Dev.get_put_of_lt _ _ _ hb, (Dev.get_put_apart _ _ _ _ rfl).trans (hstored _ rfl)⟩
  obtain ⟨hv, hpg, hfalls⟩ := hshown
  have hwas : was = d.get Par.harvPg 0 := hstored _ rfl
  rw [← hwas]
  split
  · next hsame =>
    refine ⟨hvstore, hsame, ?_⟩
    rw [if_neg (fun hc => ?_), hstored _ rfl]
    obtain ⟨rfl, hone⟩ := hc
    exact absurd (hone.symm.trans hsame) (by decide)
  split
  · next hrising =>
    rw [Dev.getF_raise _ _ _ _ _ _ rfl rfl, Dev.get_raise _ _ _ _ _ _ rfl rfl, Dev.get_raise _ _ _ _ _ _ rfl rfl,
      if_neg (by rw [hrising]; simp)]
    exact ⟨hv, hpg, hfalls⟩
  · next hfalling =>
    have hlow : rising = false := by simpa using hfalling
    split
    · next hone =>
      rw [Dev.getF_raise _ _ _ _ _ _ rfl rfl, Dev.get_raise _ _ _ _ _ _ rfl rfl, Dev.get_raise _ _ _ _ _ _ rfl rfl,
        Dev.getF_inc_apart _ _ _ _ _ rfl, Dev.get_inc_apart _ _ _ _ _ rfl, Dev.get_inc_same _ _ _ _ (by decide), if_pos ⟨hlow, hone⟩, hfalls]
      exact ⟨hv, hpg, rfl⟩
    · next hone =>
      rw [if_neg (fun hc => hone hc.2)]
      exact ⟨hv, hpg, hfalls⟩

theorem Dev.harvSample_takes (d : Dev) (voc vteg v : F32) (h : 2 ≤ d.get Par.harvState 0) :
    (d.harvSample voc vteg v).getF Par.harvVOc 0 = voc ∧ (d.harvSample voc vteg v).getF Par.harvVTeg 0 = vteg
      ∧ (d.harvSample voc vteg v).getF Par.harvVstore 0 = v
      ∧ (d.get Par.harvState 0 ≠ 3 → (d.harvSample voc vteg v).get Par.harvState 0
          = (if flt (fmul (d.getF Par.harvFraction 0) voc) 0x41200000 then 4 else 2)) := by
  unfold Dev.harvSample
  rw [if_neg (by omega)]
  extract_lets x
  have hstate : x.get Par.harvState 0 = d.get Par.harvState 0 := by
    simp (disch := decide) only [x, Dev.get_putF_apart]
  have hfraction : x.getF Par.harvFraction 0 = d.getF Par.harvFraction 0 := by
    simp (disch := decide) only [x, Dev.getF_putF_apart]
  have hsampled : x.getF Par.harvVOc 0 = voc ∧ x.getF Par.harvVTeg 0 = vteg ∧ x.getF Par.harvVstore 0 = v := by
    simp (disch := decide) only [x, Dev.getF_putF_apart, Dev.getF_putF_same, and_self]
  obtain ⟨hvoc, hvteg, hv⟩ := hsampled
  rw [hstate, hfraction]
  split
  · next hfull => exact ⟨hvoc, hvteg, hv, fun hne => absurd hfull hne⟩
  · refine ⟨(Dev.getF_put_apart _ _ _ _ rfl).trans hvoc, (Dev.getF_put_apart _ _ _ _ rfl).trans hvteg, (Dev.getF_put_apart _ _ _ _ rfl).trans hv,
      fun _ => Dev.get_put_of_lt _ _ _ ?_⟩
    split <;> decide

/-- A level of VSTORE that moves the state of the harvester from some states on, to `next`. -/
theorem Dev.harvLevel_state (d : Dev) (v : F32) (next : Nat) (hnext : next < 2 ^ 64) (c : Nat → Prop) [DecidablePred c] :
    (if c ((d.putF Par.harvVstore 0 v).get Par.harvState 0) then (d.putF Par.harvVstore 0 v).put Par.harvState 0 next else d.putF Par.harvVstore 0 v).getF
        Par.harvVstore 0 = v
      ∧ (if c ((d.putF Par.harvVstore 0 v).get Par.harvState 0) then (d.putF Par.harvVstore 0 v).put Par.harvState 0 next else d.putF Par.harvVstore 0 v).get
        Par.harvState 0 = (if c (d.get Par.harvState 0) then next else d.get Par.harvState 0) := by
  have hsame : (d.putF Par.harvVstore 0 v).get Par.harvState 0 = d.get Par.harvState 0 := Dev.get_putF_apart _ _ _ _ rfl
  rw [hsame]
  split
  · exact ⟨(Dev.getF_put_apart _ _ _ _ rfl).trans (Dev.getF_putF_same _ _ _ _), Dev.get_put_of_lt _ _ _ hnext⟩
  · exact ⟨Dev.getF_putF_same _ _ _ _, hsame⟩

end Sys2Proof.Machine

open Sys2Proof Sys2Proof.Machine

/-- Settles O14: every harvester command writes parameters of HARV.0 alone, which the end of the command leaves. -/
theorem harvester : Obligations.Harvester := by
  unfold Obligations.Harvester
  refine ⟨fun t v s => ⟨.of_does rfl fun e he => ?_, .of_does rfl fun e he => ?_, .of_does rfl fun e he => ?_, .of_does rfl fun e he => ?_⟩,
    fun t voc vteg v s h => .of_does rfl fun e he => ?_, fun t rising v s h => .of_does rfl fun e he => ?_⟩
  · rw [Dev.settle_getF _ _ _ rfl, Dev.settle_get _ _ _ rfl, Dev.settle_phase, ← he, Dev.harvControlled, Dev.getF_put_apart _ _ _ _ rfl,
      Dev.getF_putF_same, Dev.put_phase, Dev.putF_phase, Dev.isOn, Dev.get_putF_apart _ _ _ _ rfl]
    refine ⟨rfl, Dev.get_put_of_lt _ _ _ ?_, rfl⟩
    split <;> decide
  · rw [Dev.settle_getF _ _ _ rfl, Dev.settle_get _ _ _ rfl, Dev.settle_get _ _ _ rfl, ← he, Dev.harvCold, Dev.getF_inc_apart _ _ _ _ _ rfl,
      Dev.getF_put_apart _ _ _ _ rfl, Dev.getF_putF_same, Dev.get_inc_apart _ _ _ _ _ rfl, Dev.get_put_of_lt _ _ _ (by decide),
      Dev.get_inc_same _ _ _ _ (by decide), Dev.get_put_apart _ _ _ _ rfl, Dev.get_putF_apart _ _ _ _ rfl]
    exact ⟨rfl, rfl, rfl⟩
  · rw [Dev.settle_getF _ _ _ rfl, Dev.settle_get _ _ _ rfl, ← he]
    exact (s.dev.atTime t).harvLevel_state v 3 (by decide) (fun n => n = 2 ∨ n = 4)
  · rw [Dev.settle_getF _ _ _ rfl, Dev.settle_get _ _ _ rfl, ← he]
    exact (s.dev.atTime t).harvLevel_state v 2 (by decide) (fun n => n = 3)
  · obtain ⟨hvoc, hvteg, hv, hstate⟩ := (s.dev.atTime t).harvSample_takes voc vteg v h
    rw [he] at hvoc hvteg hv hstate
    simp (disch := decide) only [Dev.settle_getF, Dev.settle_get]
    exact ⟨hvoc, hvteg, hv, hstate⟩
  · obtain ⟨hv, hpg, hfalls⟩ := (s.dev.atTime t).pgChange_shows rising v h
    rw [he] at hv hpg hfalls
    simp (disch := decide) only [Dev.settle_getF, Dev.settle_get, Dev.settle_harvPg]
    refine ⟨hv, hpg, ?_, hfalls⟩
    rw [hpg]
    cases rising <;> rfl

end

section
/-! SUPPORT. Trips of local legs (R257, R239): what a trip does to the leg, and what it leaves of the others. -/

namespace Sys2Proof.Machine

/-- The leg is in RUN or HOLD. -/
def Dev.legLive (d : Dev) (n : Nat) : Prop := d.get Par.legState n = lsRun ∨ d.get Par.legState n = lsHold

/-- From `d` to `e` the parameters of leg `n` stay. -/
def Dev.LegStays (n : Nat) (d e : Dev) : Prop := ∀ p : Par, p.small = true → p.group = 0x31 → e.raw p n = d.raw p n

theorem Dev.LegStays.refl (n : Nat) (d : Dev) : Dev.LegStays n d d := fun _ _ _ => rfl

theorem Dev.LegStays.trans {n : Nat} {a b c : Dev} (h : Dev.LegStays n a b) (g : Dev.LegStays n b c) : Dev.LegStays n a c :=
  fun p hp hg => (g p hp hg).trans (h p hp hg)

theorem Dev.LegStays.get {n : Nat} {d e : Dev} (h : Dev.LegStays n d e) {p : Par} (hp : p.small = true) (hg : p.group = 0x31) : e.get p n = d.get p n := by
  rw [Dev.get, h p hp hg, Dev.get]

theorem Dev.LegStays.live {n : Nat} {d e : Dev} (h : Dev.LegStays n d e) : e.legLive n ↔ d.legLive n := by
  rw [Dev.legLive, h.get rfl rfl, Dev.legLive]

theorem Dev.LegStays.of_agree {n : Nat} {cs : List Nat} {fs : List Fld} {d e : Dev} (h : d.Agree cs fs e) (hc : cs.contains 0x31 = false) :
    Dev.LegStays n d e := fun p hp hg => h.1 p n hp (by rwa [hg])

/-- What keeps a leg that is out of RUN and HOLD as it is does so all along a list. -/
theorem Dev.LegStays.foldl {α : Type} {n : Nat} {f : Dev → α → Dev} (xs : List α) (hf : ∀ (d : Dev) x, x ∈ xs → ¬ d.legLive n → Dev.LegStays n d (f d x))
    (d : Dev) (hd : ¬ d.legLive n) : Dev.LegStays n d (xs.foldl f d) :=
  List.foldlRecOn xs f (motive := Dev.LegStays n d) (.refl n d) (fun e h x hx => h.trans (hf e x hx (fun hl => hd (h.live.mp hl))))

/-! ## One leg -/

theorem Dev.tripOne_of_still {d : Dev} {n : Nat} (cause : Nat) (h : ¬ d.legLive n) : d.tripOne n cause = d := if_neg h

/-- A write of one leg leaves the others. -/
theorem Dev.LegStays.setRaw {n : Nat} {a d : Dev} (h : Dev.LegStays n a d) {p : Par} {m : Nat} {v : W64} (hp : p.small = true) (hm : n ≠ m) :
    Dev.LegStays n a (d.setRaw p m v) := h.trans fun q hq _ => by
  by_cases hpq : q = p
  · subst hpq; exact Dev.raw_setRaw_inst _ _ hp hm
  · exact Dev.raw_setRaw_apart _ _ _ _ (by simp [Par.apart, hpq, hp, hq])

theorem Dev.legStop_other (d : Dev) {m n : Nat} (st : Nat) (h : n ≠ m) : Dev.LegStays n d (d.legStop m st) := by
  have hset : Dev.LegStays n d (d.setLeg m (d.leg m).stop) := .of_agree (d.setLeg_frame _ _) rfl
  exact .setRaw (.setRaw hset rfl h) rfl h

/-- A trip of one leg leaves the others. -/
theorem Dev.tripOne_other (d : Dev) {m n : Nat} (cause : Nat) (h : n ≠ m) : Dev.LegStays n d (d.tripOne m cause) := by
  unfold Dev.tripOne
  extract_lets st stopped counted
  have hstopped : Dev.LegStays n d stopped := .setRaw (d.legStop_other lsTripped h) rfl h
  have hcounted : Dev.LegStays n d counted := .setRaw (.setRaw hstopped rfl h) rfl h
  split
  · exact hcounted.trans (.of_agree (counted.raise_frame _ _ _ _) rfl)
  · exact .refl n d

/-- What a trip with cause `cause` at the instant of `d` has made of a leg that was live in `d`. -/
def Dev.LegTripped (n cause : Nat) (d e : Dev) : Prop :=
  e.get Par.legState n = lsTripped ∧ bit (e.get Par.legTripCause n) cause = true
    ∧ e.get Par.legTripTime n = (d.now - d.now % 16) % 2 ^ 64 ∧ e.get Par.legTrips n = (d.get Par.legTrips n + 1) % 2 ^ 32

theorem Dev.LegTripped.not_live {n cause : Nat} {d e : Dev} (h : Dev.LegTripped n cause d e) : ¬ e.legLive n := by
  rw [Dev.legLive, h.1]
  decide

theorem Dev.LegTripped.then {n cause : Nat} {d e f : Dev} (h : Dev.LegTripped n cause d e) (g : Dev.LegStays n e f) : Dev.LegTripped n cause d f := by
  obtain ⟨hstate, hcause, htime, htrips⟩ := h
  exact ⟨by rw [g.get rfl rfl, hstate], by rw [g.get rfl rfl, hcause], by rw [g.get rfl rfl, htime], by rw [g.get rfl rfl, htrips]⟩

theorem Dev.LegTripped.since {n cause : Nat} {a d e : Dev} (h : Dev.LegTripped n cause d e) (hnow : d.now = a.now) (hs : Dev.LegStays n a d) :
    Dev.LegTripped n cause a e := by
  obtain ⟨hstate, hcause, htime, htrips⟩ := h
  exact ⟨hstate, hcause, by rw [htime, hnow], by rw [htrips, hs.get rfl rfl]⟩

theorem Dev.tripOne_trips (d : Dev) {n : Nat} (cause : Nat) (hc : cause < 64) (h : d.legLive n) : Dev.LegTripped n cause d (d.tripOne n cause) := by
  unfold Dev.tripOne
  extract_lets st stopped counted
  rw [if_pos (show st = lsRun ∨ st = lsHold from h)]
  have hraised := counted.raise_frame evLegTrip (oid 0x31 n) (counted.get Par.legTripCause n) false
  have hstopped : (d.legStop n lsTripped).get Par.legState n = lsTripped ∧ (d.legStop n lsTripped).now = d.now
      ∧ (d.legStop n lsTripped).get Par.legTrips n = d.get Par.legTrips n := by
    unfold Dev.legStop
    refine ⟨(Dev.get_putF_apart _ _ _ _ rfl).trans (Dev.get_put_of_lt _ _ _ (by decide)), ?_, ?_⟩
    · rw [Dev.putF_now, Dev.put_now, Dev.setLeg_now]
    · rw [Dev.get_putF_apart _ _ _ _ rfl, Dev.get_put_apart _ _ _ _ rfl]
      rfl
  obtain ⟨hstate, hnow, htrips⟩ := hstopped
  have hnow' : stopped.now = d.now := (Dev.put_now _ _ _ _).trans hnow
  refine ⟨?_, ?_, ?_, ?_⟩
  · rw [hraised.get _ _ rfl rfl, Dev.get_inc_apart _ _ _ _ _ rfl, Dev.get_put_apart _ _ _ _ rfl, Dev.get_putBit_apart _ _ _ _ _ rfl, hstate]
  · rw [hraised.get _ _ rfl rfl, Dev.get_inc_apart _ _ _ _ _ rfl, Dev.get_put_apart _ _ _ _ rfl, Dev.bit_putBit_same _ _ _ hc]
  · rw [hraised.get _ _ rfl rfl, Dev.get_inc_apart _ _ _ _ _ rfl, Dev.get_put_same, hnow']
  · rw [hraised.get _ _ rfl rfl, Dev.get_inc_same _ _ _ _ (by decide), Dev.get_put_apart _ _ _ _ rfl, Dev.get_putBit_apart _ _ _ _ _ rfl, htrips]

theorem Dev.tripOne_stays (d : Dev) {m n : Nat} (cause : Nat) (h : ¬ d.legLive n) : Dev.LegStays n d (d.tripOne m cause) := by
  by_cases hm : n = m
  · subst hm
    rw [Dev.tripOne_of_still _ h]
    exact .refl n d
  · exact d.tripOne_other cause hm

theorem Dev.tripOne_list (d : Dev) {n : Nat} (cause : Nat) (hc : cause < 64) {ns : List Nat} (hn : n ∈ ns) (h : d.legLive n) :
    Dev.LegTripped n cause d (d.forL ns (fun d m => d.tripOne m cause)) := by
  induction ns generalizing d with
  | nil => cases hn
  | cons m ms ih =>
    have hstep : Dev.forL d (m :: ms) (fun d m => d.tripOne m cause) = (d.tripOne m cause).forL ms (fun d m => d.tripOne m cause) := rfl
    rw [hstep]
    by_cases hm : n = m
    · subst hm
      have htripped := d.tripOne_trips cause hc h
      exact htripped.then (.foldl ms (fun d m _ hd => d.tripOne_stays cause hd) _ htripped.not_live)
    · have hother := d.tripOne_other cause hm
      have hmem : n ∈ ms := by simpa [hm] using hn
      exact (ih (d.tripOne m cause) hmem (hother.live.mpr h)).since ((d.tripOne_frame m cause).2 .now rfl) hother

/-! ## Legs and their ports -/

/-- What the stop of a port does once its other leg has tripped: it writes no leg. -/
theorem Dev.portStop_eq (d : Dev) (p : Nat) (which : List Nat) (cause n : Nat) :
    Dev.LegStays n (d.forL (d.portLegs p) (fun d m => if which.contains m then d else d.tripOne m 3)) (d.portStop p which cause) := by
  unfold Dev.portStop
  extract_lets legs both pulled killed rt stopped stated counted told locked c
  have hstopped : pulled.Agree [0x30] [.ports] stopped := (pulled.burstKill_frame p).trans ((killed.setPort_frame p _).mono rfl rfl)
  have hcounted : stopped.Agree [0x30] [] counted := .inc rfl rfl (.put rfl rfl .refl)
  have htold : counted.Agree [0xC0] [.evt] told := counted.raise_frame _ _ _ _
  have hlocked : counted.Agree [0xC0] [.evt] locked := .ite (fun _ => htold.trans (told.raise_frame _ _ _ _)) (fun _ => htold)
  have hnoted : pulled.Agree [0x20, 0x30, 0xC0] [.evt, .ports] locked :=
    (hstopped.mono rfl rfl).trans ((hcounted.mono rfl rfl).trans (hlocked.mono rfl rfl))
  exact .of_agree (.ite (fun _ => .putF rfl rfl (.putF rfl rfl hnoted)) (fun _ => hnoted)) rfl

/-- A leg out of RUN and HOLD is not touched by the stop of a port. -/
theorem Dev.portStop_stays (d : Dev) {n : Nat} (p : Nat) (which : List Nat) (cause : Nat) (h : ¬ d.legLive n) :
    Dev.LegStays n d (d.portStop p which cause) := by
  refine (Dev.LegStays.foldl _ (fun x m _ hx => ?_) d h).trans (d.portStop_eq p which cause n)
  split
  · exact .refl n x
  · exact x.tripOne_stays 3 hx

/-- Nor is a leg of another port. -/
theorem Dev.portStop_apart (d : Dev) {n : Nat} (p : Nat) (which : List Nat) (cause : Nat) (h : n ∉ d.portLegs p) :
    Dev.LegStays n d (d.portStop p which cause) := by
  refine Dev.LegStays.trans ?_ (d.portStop_eq p which cause n)
  refine List.foldlRecOn (d.portLegs p) _ (motive := Dev.LegStays n d) (.refl n d) (fun x hx m hm => hx.trans ?_)
  split
  · exact .refl n x
  · exact x.tripOne_other 3 (fun hnm => h (hnm ▸ hm))

/-! ## The legs of a port -/

/-- The parameters that name the legs of a port. -/
def Dev.portPars : List Par := [Par.portTopology, Par.portLegA, Par.portLegB]

theorem Dev.portPar_small {q : Par} (h : q ∈ Dev.portPars) : q.small = true := by
  simp only [Dev.portPars, List.mem_cons, List.not_mem_nil, or_false] at h
  rcases h with rfl | rfl | rfl <;> rfl

theorem Dev.portPar_group {q : Par} (h : q ∈ Dev.portPars) (cs : List Nat) (hc : cs.contains 0x30 = false) : cs.contains q.group = false := by
  simp only [Dev.portPars, List.mem_cons, List.not_mem_nil, or_false] at h
  rcases h with rfl | rfl | rfl <;> exact hc

theorem Dev.portLegs_of_spares {d e : Dev} (h : ∀ q ∈ Dev.portPars, Dev.Spares q d e) (p : Nat) : e.portLegs p = d.portLegs p := by
  rw [Dev.portLegs, (h Par.portTopology (by simp [Dev.portPars])).get, (h Par.portLegA (by simp [Dev.portPars])).get,
    (h Par.portLegB (by simp [Dev.portPars])).get, ← Dev.portLegs]

theorem Dev.portPar_apart {q : Par} (h : q ∈ Dev.portPars) : Par.apart q Par.portState = true ∧ Par.apart q Par.portTrips = true
    ∧ Par.apart q Par.portBurstState = true ∧ Par.apart q Par.portBurstResult = true := by
  simp only [Dev.portPars, List.mem_cons, List.not_mem_nil, or_false] at h
  rcases h with rfl | rfl | rfl <;> exact ⟨rfl, rfl, rfl, rfl⟩

/-- The stop of a port leaves every port its legs. -/
theorem Dev.portStop_portLegs (d : Dev) (p : Nat) (which : List Nat) (cause k : Nat) : (d.portStop p which cause).portLegs k = d.portLegs k := by
  refine Dev.portLegs_of_spares (fun q hq => ?_) k
  have hsmall := Dev.portPar_small hq
  obtain ⟨hstate, htrips, hburst, hresult⟩ := Dev.portPar_apart hq
  unfold Dev.portStop
  extract_lets legs both pulled killed rt stopped stated counted told locked c
  have hpulled : Dev.Spares q d pulled := .forL (fun x n => .ite (.refl x) (.frame (.refl x) (x.tripOne_frame n 3) hsmall (Dev.portPar_group hq _ rfl))) legs d
  have hkilled : Dev.Spares q pulled killed := by
    unfold killed Dev.burstKill
    exact .ite (.refl pulled) (.put (.put (.upd (.refl pulled) rfl) hburst) hresult)
  have hstopped : Dev.Spares q killed stopped := .upd (.refl killed) rfl
  have hcounted : Dev.Spares q stopped counted := .put (.put (.refl stopped) hstate) htrips
  have htold : Dev.Spares q counted told := .frame (.refl counted) (counted.raise_frame _ _ _ _) hsmall (Dev.portPar_group hq _ rfl)
  have hlocked : Dev.Spares q counted locked := .ite (htold.frame (told.raise_frame _ _ _ _) hsmall (Dev.portPar_group hq _ rfl)) htold
  have hrefs : Dev.Spares q locked (if c < 128 then (locked.putF Par.ctxRef0 c f0).putF Par.ctxRef1 c f0 else locked) := by
    have hctx : locked.Agree [0x20] [] (if c < 128 then (locked.putF Par.ctxRef0 c f0).putF Par.ctxRef1 c f0 else locked) :=
      .ite (fun _ => .putF rfl rfl (.putF rfl rfl .refl)) (fun _ => .refl)
    exact .frame (.refl locked) hctx hsmall (Dev.portPar_group hq _ rfl)
  exact ((((hpulled.trans hkilled).trans hstopped).trans hcounted).trans hlocked).trans hrefs

/-! ## Several legs in one tick -/

/-- The legs of `ns` that are live. -/
def Dev.liveLegs (d : Dev) (ns : List Nat) : List Nat := ns.filter (fun n => d.get Par.legState n == lsRun || d.get Par.legState n == lsHold)

theorem Dev.mem_liveLegs {d : Dev} {ns : List Nat} {n : Nat} : n ∈ d.liveLegs ns ↔ n ∈ ns ∧ d.legLive n := by
  simp [Dev.liveLegs, Dev.legLive]

/-- Legs that a partner's trip took down in this tick get one more cause; their state stays. -/
theorem Dev.secondTrips_state (d : Dev) (ns : List Nat) (cause n : Nat) (f : Dev → Nat → Dev)
    (hf : ∀ (x : Dev) m, f x m = match x.portOfLeg m with
      | none => x
      | some p =>
        if x.get Par.portState p = psFault then
          (((x.putBit Par.legTripCause m cause true).put Par.portState p psLocked).inc 32 Par.portTrips p).raise evPortLocked (oid 0x30 p)
        else x) :
    (d.forL ns f).get Par.legState n = d.get Par.legState n ∧ (n ∉ ns → Dev.LegStays n d (d.forL ns f)) := by
  have hlocked (x : Dev) (m p : Nat) : Dev.Spares Par.legState x
      ((((x.putBit Par.legTripCause m cause true).put Par.portState p psLocked).inc 32 Par.portTrips p).raise evPortLocked (oid 0x30 p)) := by
    have hcounted : Dev.Spares Par.legState x (((x.putBit Par.legTripCause m cause true).put Par.portState p psLocked).inc 32 Par.portTrips p) :=
      .put (.put (.put (.refl x) rfl) rfl) rfl
    exact hcounted.frame (Dev.raise_frame _ evPortLocked (oid 0x30 p) 0 false) rfl rfl
  have hstays (x : Dev) (m p : Nat) (hm : n ≠ m) : Dev.LegStays n x
      ((((x.putBit Par.legTripCause m cause true).put Par.portState p psLocked).inc 32 Par.portTrips p).raise evPortLocked (oid 0x30 p)) := by
    have hnoted : Dev.LegStays n x (x.putBit Par.legTripCause m cause true) := .setRaw (.refl n x) rfl hm
    have hport : (x.putBit Par.legTripCause m cause true).Agree [0x30] [] (((x.putBit Par.legTripCause m cause true).put Par.portState p psLocked).inc 32 Par.portTrips p) :=
      .inc rfl rfl (.put rfl rfl .refl)
    exact (hnoted.trans (.of_agree hport rfl)).trans (.of_agree (Dev.raise_frame _ evPortLocked (oid 0x30 p) 0 false) rfl)
  refine ⟨?_, fun hn => List.foldlRecOn ns f (motive := Dev.LegStays n d) (.refl n d) (fun x hx m hm => hx.trans ?_)⟩
  · refine Dev.Spares.get (.forL (fun x m => ?_) ns d) n
    rw [hf]
    split
    · exact .refl x
    · exact .ite (hlocked x m _) (.refl x)
  · rw [hf]
    split
    · exact .refl n x
    · split
      · exact hstays x m _ (fun hnm => hn (hnm ▸ hm))
      · exact .refl n x

/-- What `tripLegs` does to leg `n`: it trips where it is named and live; otherwise its state stays, unless its port stops. -/
theorem Dev.tripLegs_legs (d : Dev) (ns : List Nat) (cause n : Nat) (hc : cause < 64) :
    (n ∈ ns → d.legLive n → Dev.LegTripped n cause d (d.tripLegs ns cause))
      ∧ (¬ d.legLive n → (d.tripLegs ns cause).get Par.legState n = d.get Par.legState n)
      ∧ (n ∉ ns → (∀ p < 32, n ∉ d.portLegs p) → (d.tripLegs ns cause).get Par.legState n = d.get Par.legState n) := by
  unfold Dev.tripLegs
  extract_lets live second portsHit tripped stopped
  have hstopped (hx : ¬ tripped.legLive n) : Dev.LegStays n tripped stopped :=
    .foldl portsHit (fun x p _ hd => x.portStop_stays p _ cause hd) tripped hx
  obtain ⟨hstate, hstays⟩ := stopped.secondTrips_state second cause n _ (fun _ _ => rfl)
  refine ⟨fun hn hlive => ?_, fun hstill => ?_, fun hn hports => ?_⟩
  · have hmem : n ∈ live := Dev.mem_liveLegs.mpr ⟨hn, hlive⟩
    have htripped : Dev.LegTripped n cause d tripped := d.tripOne_list cause hc hmem hlive
    have hsecond : n ∉ second := fun hs => by
      have hst := (List.mem_filter.mp hs).2
      simp only [Bool.and_eq_true, beq_iff_eq] at hst
      rcases hlive with h | h <;> exact absurd (h.symm.trans hst.1.1) (by decide)
    exact (htripped.then (hstopped htripped.not_live)).then (hstays hsecond)
  · have htripped : Dev.LegStays n d tripped := .foldl live (fun x m _ hx => x.tripOne_stays cause hx) d hstill
    refine hstate.trans ?_
    rw [(hstopped (fun h => hstill (htripped.live.mp h))).get rfl rfl, htripped.get rfl rfl]
  · have hlive : n ∉ live := fun h => hn (Dev.mem_liveLegs.mp h).1
    have htripped : Dev.LegStays n d tripped :=
      List.foldlRecOn live _ (motive := Dev.LegStays n d) (.refl n d) (fun x hx m hm => hx.trans (x.tripOne_other cause (fun h => hlive (h ▸ hm))))
    have hlegs : ∀ p, tripped.portLegs p = d.portLegs p := fun p => Dev.portLegs_of_spares
      (fun q hq => .forL (fun x m => .frame (.refl x) (x.tripOne_frame m cause) (Dev.portPar_small hq) (Dev.portPar_group hq [0x31, 0xC0] rfl)) live d) p
    have hloop : Dev.LegStays n tripped stopped ∧ ∀ p, stopped.portLegs p = tripped.portLegs p := by
      refine List.foldlRecOn portsHit _ (motive := fun e : Dev => Dev.LegStays n tripped e ∧ ∀ p, e.portLegs p = tripped.portLegs p)
        ⟨.refl n tripped, fun _ => rfl⟩ (fun x hx p hp => ?_)
      have hp32 : p < 32 := List.mem_range.mp (List.mem_filter.mp hp).1
      have happart : n ∉ x.portLegs p := by rw [hx.2, hlegs]; exact hports p hp32
      exact ⟨hx.1.trans (x.portStop_apart p _ cause happart), fun q => (x.portStop_portLegs p _ cause q).trans (hx.2 q)⟩
    refine hstate.trans ?_
    rw [hloop.1.get rfl rfl, htripped.get rfl rfl]

end Sys2Proof.Machine
end

section
/-! SUPPORT. Operations that clear no flag of an event: trips, links that go down, converter modes. -/

namespace Sys2Proof.Machine

theorem Dev.KeepsFlags.of_agree {cs : List Nat} {fs : List Fld} {d e : Dev} (g : d.Agree cs fs e) (hc : cs.contains 0xC0 = false) : d.KeepsFlags e :=
  .frame (.refl d) g hc

theorem Dev.tripOne_keepsFlags (d : Dev) (n cause : Nat) : d.KeepsFlags (d.tripOne n cause) := by
  unfold Dev.tripOne
  extract_lets st stopped counted
  have hstopped : d.KeepsFlags stopped := .put (.of_agree (d.legStop_frame n lsTripped) rfl) rfl
  exact .ite (.raise (.put (.put hstopped rfl) rfl)) (.refl d)

theorem Dev.portStop_keepsFlags (d : Dev) (p : Nat) (which : List Nat) (cause : Nat) : d.KeepsFlags (d.portStop p which cause) := by
  unfold Dev.portStop
  extract_lets legs both pulled killed rt stopped stated counted told locked c
  have hpulled : d.KeepsFlags pulled := .forL (fun x n => .ite (.refl x) (x.tripOne_keepsFlags n 3)) legs d
  have hkilled : d.KeepsFlags killed := hpulled.frame (pulled.burstKill_frame p) rfl
  have hstopped : d.KeepsFlags stopped := hkilled.upd rfl
  have htold : d.KeepsFlags told := .raise (.put (.put hstopped rfl) rfl)
  have hlocked : d.KeepsFlags locked := .ite htold.raise htold
  exact .ite (hlocked.trans (.of_agree (.putF rfl rfl (.putF rfl rfl .refl) : locked.Agree [0x20] [] _) rfl)) hlocked

theorem Dev.tripLegs_keepsFlags (d : Dev) (ns : List Nat) (cause : Nat) : d.KeepsFlags (d.tripLegs ns cause) := by
  unfold Dev.tripLegs
  extract_lets live second portsHit tripped stopped
  have htripped : d.KeepsFlags tripped := .forL (fun x n => x.tripOne_keepsFlags n cause) live d
  have hstopped : tripped.KeepsFlags stopped := .forL (fun x p => x.portStop_keepsFlags p _ cause) portsHit tripped
  refine (htripped.trans hstopped).trans (.forL (fun x n => ?_) second stopped)
  split
  · exact .refl x
  · exact .ite (.raise (.put (.put (.put (.refl x) rfl) rfl) rfl)) (.refl x)

theorem Dev.timeLost_keepsFlags (d : Dev) : d.KeepsFlags d.timeLost := by
  unfold Dev.timeLost
  extract_lets own sup lost
  have hlost : d.KeepsFlags lost := .upd (.refl d) rfl
  exact .ite (.raise (.put hlost rfl)) hlost

theorem Dev.linkDown_keepsFlags (d : Dev) (l : Nat) : d.KeepsFlags (d.linkDown l) := by
  unfold Dev.linkDown
  extract_lets low told both lost
  have hlow : d.KeepsFlags low := .put (.refl d) rfl
  have hgone : low.KeepsFlags (low.ptpGone (l - 1)) := by
    unfold Dev.ptpGone
    extract_lets was sup gone
    have hsup : low.KeepsFlags gone := .upd (.refl low) rfl
    exact .ite (hsup.trans gone.timeLost_keepsFlags) hsup
  have htold : d.KeepsFlags told := .ite hlow (hlow.trans hgone)
  exact htold.trans (.forN (fun x s => .ite (.of_agree (x.sessionEnd_frame s) rfl) (.refl x)) 16 told)

theorem Dev.reroute_keepsFlags (d : Dev) : d.KeepsFlags d.reroute := by
  unfold Dev.reroute
  extract_lets rs tab weave routed shown
  have hrouted : d.KeepsFlags routed := .upd (.refl d) rfl
  have hshown : routed.KeepsFlags shown := by
    refine .forN (fun x s => ?_) 64 routed
    split
    · exact .put (.put (.refl x) rfl) rfl
    · exact .put (.put (.refl x) rfl) rfl
  exact .ite (.refl d) (.raise (.put (hrouted.trans hshown) rfl))

theorem Dev.weftDown_keepsFlags (d : Dev) (p : Nat) : d.KeepsFlags (d.weftDown p) := by
  unfold Dev.weftDown
  extract_lets x up y down
  have hdown : d.KeepsFlags down := .upd (.refl d) rfl
  have hraised : d.KeepsFlags ((down.put Par.linkState (3 + p) 0).raise evWeftLinkDown (oid 0x90 (3 + p))) := .raise (.put hdown rfl)
  exact .ite (.refl d) (.ite ((hraised.trans (Dev.reroute_keepsFlags _)).trans (.of_agree (Dev.sendLsa_frame _) rfl)) hdown)

/-! ## Converter modes -/

theorem Dev.kindOf_of_tsets {d e : Dev} (h : e.tsets = d.tsets) (s : Nat) : e.kindOf s = d.kindOf s := by
  simp only [Dev.kindOf, Dev.imgN, Dev.img, Dev.tset, h]

theorem Dev.actionDo_keepsFlags (d : Dev) (code arg owner : Nat) : d.KeepsFlags (d.actionDo code arg owner) :=
  .ite (d.raise_keepsFlags _ _ _ _) (.ite (.ite (d.fireTrig_keepsFlags _ _ _ _) (.refl d)) (.ite (d.raise_keepsFlags _ _ _ _) (.refl d)))

theorem Dev.action_keepsFlags (d : Dev) (code arg owner : Nat) : d.KeepsFlags (d.action code arg owner) :=
  .ite (.upd (.refl d) rfl) (d.actionDo_keepsFlags _ _ _)

theorem Dev.action_mode (d : Dev) (code arg owner : Nat) : (d.action code arg owner).mode.state = d.mode.state := by
  unfold Dev.action
  split
  · rfl
  · rw [(d.actionDo_frame code arg owner).2 .mode rfl]

theorem Dev.enterState_keepsFlags (d : Dev) (s : Nat) (keep : Bool) : d.KeepsFlags (d.enterState s keep) := by
  unfold Dev.enterState
  extract_lets old was same shown mode entered told counted b ready
  have hshown : d.KeepsFlags shown := .put (.of_agree (d.showState_frame s) rfl) rfl
  have hentered : d.KeepsFlags entered := hshown.upd rfl
  have hcounted : d.KeepsFlags counted := .put hentered.raise rfl
  exact (hcounted.trans (.forN (fun x g => .of_agree (x.gridStateChange_frame was g) rfl) 4 counted)).trans (ready.action_keepsFlags _ _ _)

theorem Dev.enterState_state (d : Dev) (s : Nat) (keep : Bool) : (d.enterState s keep).mode.state = some s := by
  unfold Dev.enterState
  extract_lets old was same shown mode entered told counted b ready
  have hready : counted.Agree [0x21] [.grids] ready := .forN (fun x g h => .step (x.gridStateChange_frame was g) rfl rfl h) .refl
  have hcounted : counted.mode = entered.mode := by unfold counted told; rw [Dev.inc_mode, Dev.raise_mode]
  rw [Dev.action_mode, hready.2 .mode rfl, hcounted]

theorem Dev.tripNow_keepsFlags (d : Dev) : d.KeepsFlags d.tripNow := by
  unfold Dev.tripNow
  split
  · next t _ =>
    have hentered : d.KeepsFlags (d.enterState t false).modeDone := .trans (d.enterState_keepsFlags t false) (.upd (.refl _) rfl)
    have hwoken : d.KeepsFlags (if d.full then (d.enterState t false).modeDone else (d.enterState t false).modeDone.wake wcTransition) :=
      .ite hentered (hentered.trans (Dev.wake_keepsFlags _ _))
    exact .ite (.refl d) (hwoken.frame (Dev.modeTold_frame _ _ _) rfl)
  · exact .refl d

end Sys2Proof.Machine
end

section
/-! PROOF. Time sources and clock domains (R43 to R48, R401). -/

namespace Sys2Proof.Machine

/-! ## Offsets of PTP -/

theorem Dev.timeStep_ptp (d : Dev) (off : Int) {p : Par} (hp : p.small = true) (hg : p.group = 0x02) :
    Dev.Spares p d (d.timeStep off) ∧ (d.timeStep off).sup = d.sup :=
  ⟨.frame (.refl d) (d.timeStep_frame off) hp (by rw [hg]; rfl), (d.timeStep_frame off).2 .sup rfl⟩

theorem Dev.timeCorrect_ptp (d : Dev) (off : Int) {p : Par} (hp : p.small = true) (hg : p.group = 0x02) :
    Dev.Spares p d (d.timeCorrect off) ∧ (d.timeCorrect off).sup.ptpOk = d.sup.ptpOk := by
  refine ⟨.frame (.refl d) (d.timeCorrect_frame off) hp (by rw [hg]; rfl), ?_⟩
  unfold Dev.timeCorrect
  extract_lets large told k drawn lim sup
  have hsup : drawn.sup = d.sup := by
    have htold : told.sup = d.sup := by
      unfold told
      split
      · exact Dev.raise_sup _ _ _ _ _
      · rfl
    exact (told.freeVal_frame.2 .sup rfl).trans htold
  split
  · rw [(d.timeStep_frame off).2 .sup rfl]
  · have hok := congrArg SupSt.ptpOk hsup
    exact hok

theorem Dev.timeMeasure_ptp (d : Dev) (st : Nat) (off : Int) {p : Par} (hp : p.small = true) (hg : p.group = 0x02)
    (ht : Par.apart p Par.beatTimeState = true) : Dev.Spares p d (d.timeMeasure st off) ∧ (d.timeMeasure st off).sup.ptpOk = d.sup.ptpOk := by
  unfold Dev.timeMeasure
  extract_lets n sup valid stated
  have hvalid : Dev.Spares p d valid := .upd (.refl d) rfl
  have hstated : Dev.Spares p d stated := .ite (.put hvalid ht) hvalid
  have hok : stated.sup.ptpOk = d.sup.ptpOk := by
    unfold stated
    split
    · rw [Dev.put_sup]
    · rfl
  obtain ⟨hpar, hsup⟩ := stated.timeCorrect_ptp off hp hg
  exact ⟨hstated.trans hpar, hsup.trans hok⟩

theorem Dev.timeLost_state (d : Dev) : d.timeLost.sup = { d.sup with validOffsets := 0, ptpOk := if d.get Par.beatTimeState 0 == tmPtp then 0 else d.sup.ptpOk }
    ∧ d.timeLost.get Par.beatTimeState 0 = (if d.get Par.beatTimeState 0 ≤ tmWeave then tmHoldover else d.get Par.beatTimeState 0)
    ∧ (∀ p : Par, p.small = true → [0xC0].contains p.group = false → Par.apart p Par.beatTimeState = true → Dev.Spares p d d.timeLost)
    ∧ (d.phase = .run → d.get Par.beatTimeState 0 ≤ tmWeave → d.timeLost.isOn Par.evtFlag evTimeLockLost = true) := by
  unfold Dev.timeLost
  extract_lets own sup lost
  have hget : lost.get Par.beatTimeState 0 = d.get Par.beatTimeState 0 := by simp only [lost, Dev.get, Dev.raw]
  have hpar (p : Par) : Dev.Spares p d lost := .upd (.refl d) rfl
  have hphase : lost.phase = d.phase := by simp only [lost]
  rw [hget]
  split
  · next h =>
    refine ⟨by simp only [Dev.raise_sup, Dev.put_sup]; rfl, ?_, fun p hp hg ht => ?_, fun hrun _ => Dev.isOn_raise _ _ _ _ ?_⟩
    · rw [Dev.get_raise _ _ _ _ _ _ rfl rfl, Dev.get_put_of_lt _ _ _ (by decide)]
    · exact .frame (.put (hpar p) ht) (Dev.raise_frame _ evTimeLockLost oBeat 0 false) hp hg
    · rw [Dev.evtUp, Dev.up, Dev.put_phase, hphase, hrun]
      rfl
  · next h => exact ⟨rfl, hget, fun p _ _ _ => hpar p, fun _ hle => absurd hle h⟩

/-- The offsets and the state of a port's lock, before the loop acts on them. -/
def Dev.ptpNoted (d : Dev) (port : Nat) (off : Int) (utc : BitVec 16) (ok : Bool) : Dev :=
  { (d.putI Par.beatPtpOffset 0 (max (-2147483648) (min 2147483647 off))).putI Par.beatUtcOffset 0 utc.toInt with
    sup := { d.sup with ptpOk := setBit d.sup.ptpOk port ok } }

theorem Dev.ptpMessage_notes (d : Dev) (port : Nat) (off : Int) (utc : BitVec 16) (locked : Bool) {p : Par} (hp : p.small = true) (hg : p.group = 0x02)
    (ht : Par.apart p Par.beatTimeState = true) :
    Dev.Spares p (d.ptpNoted port off utc (locked && decide (off.natAbs ≤ 1000))) (d.ptpMessage port off utc locked)
      ∧ (d.ptpMessage port off utc locked).sup.ptpOk = setBit d.sup.ptpOk port (locked && decide (off.natAbs ≤ 1000)) := by
  unfold Dev.ptpMessage
  extract_lets sent ok sup noted lost invalid cut gone
  have hsent : sent.sup = d.sup := by simp only [sent, Dev.putI_sup]
  have hnoted : d.ptpNoted port off utc ok = noted := by simp only [Dev.ptpNoted, noted, sup, sent, Dev.putI_sup]
  have hok : noted.sup.ptpOk = setBit d.sup.ptpOk port ok := by simp only [noted, hsent]
  have hcut : Dev.Spares p noted cut ∧ cut.sup.ptpOk = noted.sup.ptpOk := ⟨.upd (.refl noted) rfl, rfl⟩
  have hgone : Dev.Spares p noted gone ∧ gone.sup.ptpOk = noted.sup.ptpOk := by
    unfold gone
    split
    · next hlost =>
      obtain ⟨hsup, -, hspares, -⟩ := cut.timeLost_state
      refine ⟨hcut.1.trans (hspares p hp (by rw [hg]; rfl) ht), ?_⟩
      have hzero : noted.sup.ptpOk = 0 := by
        simp only [lost, Dev.ptpLocked, Bool.and_eq_true, Bool.not_eq_true', bne_eq_false_iff_eq] at hlost
        exact hlost.2
      rw [hsup, hzero]
      split
      · rfl
      · rfl
    · exact hcut
  rw [hnoted, ← hok]
  split
  · exact ⟨.refl noted, rfl⟩
  split
  · exact noted.timeMeasure_ptp tmPtp _ hp hg ht
  split
  · exact ⟨.refl noted, rfl⟩
  split
  · obtain ⟨hpar, hsup⟩ := gone.timeCorrect_ptp (off * 32 / 5) hp hg
    exact ⟨hgone.1.trans hpar, hsup.trans hgone.2⟩
  · exact hgone

theorem Dev.ptpMessage_frames (d : Dev) (port : Nat) (off : Int) (utc : BitVec 16) (locked : Bool) :
    Dev.Spares Par.linkRxFrames d (d.ptpMessage port off utc locked) := .frame (.refl d) (d.ptpMessage_frame port off utc locked) rfl rfl

/-! ## Clock domains -/

theorem Dev.clkOk_unlocked (m : Nat) (k dom : Nat) (b : Bool) : (!bit (setBit m dom b) k) = if k = dom then !b else !bit m k := by
  split
  · next h => rw [h, bit_setBit_same]
  · next h => rw [bit_setBit_other _ _ h]

/-- A domain that locks has its clock; the others stay as they were (R47). -/
theorem Dev.clkLocked_clock (d : Dev) (dom : Nat)
    (h : dom = cdAon ∨ d.full = true ∨ d.phase ≠ .held ∧ d.phase ≠ .dark ∧ (dom = cdTb ∨ dom = cdSup ∨ dom = cdNet)) (hm : dom = cdMem → d.sup.ddrMiB ≠ 0)
    (k : Nat) : (d.clkLocked dom).2.clkOk k = if k = dom then true else d.clkOk k := by
  unfold Dev.clkLocked
  extract_lets started run ok sup on
  have hok : ok = true := by
    have hrun (hf : d.full = true) : d.phase = .run := by
      simp only [Dev.full, Dev.up, Bool.and_eq_true, beq_iff_eq] at hf
      exact hf.1
    unfold ok
    rcases h with h | h | ⟨h1, h2, h3⟩
    · rw [if_pos h]
    · have hstarted : started = true := by simp [started, hrun h]
      have hpowered : run = true := by simp [run, h]
      split
      · rfl
      split
      · exact hstarted
      split
      · next hmem => simp [hpowered, hm hmem]
      · exact hpowered
    · have hstarted : started = true := by simp [started, h1, h2]
      rw [if_pos h3, hstarted, ite_self]
  have hon : on.sup.unlocked = setBit d.sup.unlocked dom false := rfl
  have hgo : (if dom = cdTb then on.anchorBeat else if dom = cdSup then on.actionsRun else on).sup = on.sup := by
    split
    · exact on.anchorBeat_frame.2 .sup rfl
    split
    · exact on.actionsRun_frame.2 .sup rfl
    · rfl
  split
  · next hskip =>
    have hhas : d.clkOk dom = true := by
      rcases hskip with h | h
      · rw [hok] at h; cases h
      · exact h
    split
    · next hk => rw [hk]; exact hhas
    · rfl
  · rw [Dev.clkOk, hgo, hon, Dev.clkOk_unlocked, Dev.clkOk]
    rfl

theorem Dev.linkDown_unlocked (d : Dev) (l : Nat) : (d.linkDown l).sup.unlocked = d.sup.unlocked := by
  unfold Dev.linkDown
  extract_lets low told both lost
  have hgone (port : Nat) : (low.ptpGone port).sup.unlocked = low.sup.unlocked := by
    unfold Dev.ptpGone
    extract_lets was sup gone
    split
    · rw [gone.timeLost_state.1]
    · rfl
  have htold : told.sup.unlocked = d.sup.unlocked := by
    have hlow : low.sup = d.sup := Dev.put_sup _ _ _ _
    unfold told
    split
    · rw [hlow]
    · rw [hgone, hlow]
  have hended : told.Agree [0x90] [.host, .commits, .lid] (told.forN 16 (fun d s => if lost (d.sess s) then d.sessionEnd s else d)) :=
    .forN (fun x s h => .ite (fun _ => h.trans (x.sessionEnd_frame s)) (fun _ => h)) .refl
  rw [hended.2 .sup rfl, htold]

/-- The device without the clock of a domain. -/
def Dev.unclocked (d : Dev) (dom : Nat) : Dev :=
  { d with sup := { d.sup with unlocked := setBit d.sup.unlocked dom true }, lid := { d.lid with clkFailed := true } }

/-- The device with a converter trip requested. -/
def Dev.tripAsked (d : Dev) : Dev := { d with mode := { d.mode with tripReq := true } }

/-- The links that run on the NET clock, and the weft on its own, go down with it. -/
def Dev.linksCut (d : Dev) (dom : Nat) : Dev :=
  let e := if dom = cdWeft then d.forN 4 (fun d p => d.weftDown p) else d
  if dom = cdNet then ((e.linkDown 0).linkDown 1).linkDown 2 else e

/-- CLK_FAIL of TB, with the legs and the converter mode (R48). -/
theorem Dev.clkFail_tb {d : Dev} (h : d.clkOk cdTb = true) :
    d.clkFail cdTb = (((d.unclocked cdTb).raise evClkFail oDev).tripLegs allLegs tcStop).tripAsked.tripNow := by
  have hbit : bit d.sup.unlocked cdTb = false := by simpa [Dev.clkOk] using h
  unfold Dev.clkFail
  rw [hbit]
  rfl

theorem Dev.clkFail_other {d : Dev} {dom : Nat} (h : d.clkOk dom = true) (htb : dom ≠ cdTb) :
    d.clkFail dom = (if dom = cdLoop ∨ dom = cdSpk then ((d.unclocked dom).raise evClkFail oDev).tripAsked
      else (d.unclocked dom).raise evClkFail oDev).linksCut dom := by
  have hbit : bit d.sup.unlocked dom = false := by simpa [Dev.clkOk] using h
  unfold Dev.clkFail
  rw [hbit]
  simp only [htb, if_false, false_or, Bool.false_eq_true]
  rfl

theorem Dev.linksCut_leaves (d : Dev) (dom : Nat) :
    (d.linksCut dom).sup.unlocked = d.sup.unlocked ∧ (d.linksCut dom).mode = d.mode ∧ d.KeepsFlags (d.linksCut dom) := by
  unfold Dev.linksCut
  extract_lets e
  have he : e.sup = d.sup ∧ e.mode = d.mode ∧ d.KeepsFlags e := by
    have hdown : d.Agree [0x80, 0x81, 0x90, 0xC0] [.evt, .weave] e := .ite (fun _ => .forN (fun x p h => h.trans (x.weftDown_frame p)) .refl) (fun _ => .refl)
    exact ⟨hdown.2 .sup rfl, hdown.2 .mode rfl, .ite (.forN (fun x p => x.weftDown_keepsFlags p) 4 d) (.refl d)⟩
  obtain ⟨hsup, hmode, hflags⟩ := he
  split
  · have hlinks : e.Agree [0x02, 0x90, 0xC0] [.evt, .host, .commits, .sup, .lid] (((e.linkDown 0).linkDown 1).linkDown 2) :=
      ((e.linkDown_frame 0).trans ((e.linkDown 0).linkDown_frame 1)).trans (Dev.linkDown_frame _ 2)
    refine ⟨by simp only [Dev.linkDown_unlocked, hsup], (hlinks.2 .mode rfl).trans hmode, hflags.trans ?_⟩
    exact ((e.linkDown_keepsFlags 0).trans (Dev.linkDown_keepsFlags _ 1)).trans (Dev.linkDown_keepsFlags _ 2)
  · exact ⟨by rw [hsup], hmode, hflags⟩

/-- The event of a clock that fails, and what it leaves. -/
def Dev.clkTold (d : Dev) (dom : Nat) : Dev := (d.unclocked dom).raise evClkFail oDev

theorem Dev.clkTold_state (d : Dev) (dom : Nat) : (d.clkTold dom).sup.unlocked = setBit d.sup.unlocked dom true ∧ (d.clkTold dom).phase = d.phase
    ∧ (d.clkTold dom).mode = d.mode ∧ (d.clkTold dom).weave = d.weave ∧ (d.clkTold dom).tsets = d.tsets
    ∧ (∀ p : Par, p.small = true → [0xC0].contains p.group = false → Dev.Spares p d (d.clkTold dom))
    ∧ (d.evtUp = true → (d.clkTold dom).isOn Par.evtFlag evClkFail = true) := by
  have hraised := (d.unclocked dom).raise_frame evClkFail oDev 0 false
  have hsup : (d.clkTold dom).sup = (d.unclocked dom).sup := hraised.2 .sup rfl
  refine ⟨by rw [hsup]; rfl, hraised.2 .phase rfl, hraised.2 .mode rfl, hraised.2 .weave rfl, hraised.2 .tsets rfl, fun p hp hg => ?_, fun hup => ?_⟩
  · have hcut : Dev.Spares p d (d.unclocked dom) := .upd (.refl d) rfl
    exact hcut.frame hraised hp hg
  · exact (d.unclocked dom).isOn_raise _ _ _ hup

/-- With a converter trip requested, and no lockout, the first fixed transition is that to TRIPPED (Table 3.6). -/
theorem Dev.fixedTarget_of_trip {d : Dev} (hreq : d.mode.tripReq = true) (hrim : d.get Par.rimState 0 ≠ 1)
    (hlock : d.mode.state.map d.kindOf ≠ some kLockout) :
    d.fixedTarget false = if d.mode.state.map d.kindOf = some kTripped then none else d.stateOfKind kTripped := by
  unfold Dev.fixedTarget
  cases hs : d.mode.state with
  | none => simp [hrim, hreq]
  | some s =>
    rw [hs] at hlock
    have hkind : d.kindOf s ≠ kLockout := fun h => hlock (by rw [Option.map_some, h])
    by_cases ht : d.kindOf s = kTripped
    · simp [hrim, ht]
    · simp [hrim, hkind, ht, hreq]

/-- A converter trip takes effect at once where the engine may act on it (R48). -/
theorem Dev.tripNow_trips (d : Dev) (hphase : d.phase = .run) (hreq : d.mode.tripReq = true) (hheld : d.modeHeld = false)
    (hrim : d.get Par.rimState 0 ≠ 1) (hsome : (d.stateOfKind kTripped).isSome = true) (hlock : d.mode.state.map d.kindOf ≠ some kLockout) :
    d.tripNow.mode.state.map d.kindOf = some kTripped := by
  have hup : d.up = true := by simp [Dev.up, hphase]
  obtain ⟨t, ht⟩ := Option.isSome_iff_exists.mp hsome
  have hkind : d.kindOf t = kTripped := by simpa using List.find?_some ht
  have htarget := Dev.fixedTarget_of_trip hreq hrim hlock
  unfold Dev.tripNow
  by_cases hthere : d.mode.state.map d.kindOf = some kTripped
  · rw [htarget, if_pos hthere]
    exact hthere
  · rw [htarget, if_neg hthere, ht]
    simp only [hup, hheld, hkind]
    have hentered : (d.enterState t false).modeDone.mode.state = some t := d.enterState_state t false
    have hwoken : (if d.full then (d.enterState t false).modeDone else (d.enterState t false).modeDone.wake wcTransition).mode.state = some t := by
      split
      · exact hentered
      · rw [(Dev.wake_frame _ _).2 .mode rfl, hentered]
    rw [if_neg (by simp)]
    rw [(Dev.modeTold_frame _ _ _).2 .mode rfl, hwoken, Option.map_some, hkind]

theorem Dev.clkTripped_state (d : Dev) : ∃ e, e = ((d.clkTold cdTb).tripLegs allLegs tcStop).tripAsked
    ∧ e.sup.unlocked = setBit d.sup.unlocked cdTb true ∧ e.phase = d.phase ∧ e.mode.tripReq = true ∧ e.mode.state = d.mode.state
    ∧ e.weave = d.weave ∧ e.tsets = d.tsets ∧ e.get Par.rimState 0 = d.get Par.rimState 0 ∧ e.get Par.devConvMode 0 = d.get Par.devConvMode 0
    ∧ (∀ n < 40, ¬ e.legLive n) ∧ (d.evtUp = true → e.isOn Par.evtFlag evClkFail = true) := by
  obtain ⟨hclock, hphase, hmode, hweave, htsets, hspares, hflag⟩ := d.clkTold_state cdTb
  have htrip := (d.clkTold cdTb).tripLegs_frame allLegs tcStop
  have hasked : ((d.clkTold cdTb).tripLegs allLegs tcStop).Agree [] [.mode] ((d.clkTold cdTb).tripLegs allLegs tcStop).tripAsked := .upd_mode rfl .refl
  refine ⟨_, rfl, ?_, ?_, rfl, ?_, ?_, ?_, ?_, ?_, fun n hn => ?_, fun hup => ?_⟩
  · rw [hasked.2 .sup rfl, htrip.2 .sup rfl, hclock]
  · rw [hasked.2 .phase rfl, htrip.2 .phase rfl, hphase]
  · have hstate : ((d.clkTold cdTb).tripLegs allLegs tcStop).mode = d.mode := (htrip.2 .mode rfl).trans hmode
    have hsame := congrArg ModeSt.state hstate
    exact hsame
  · rw [hasked.2 .weave rfl, htrip.2 .weave rfl, hweave]
  · rw [hasked.2 .tsets rfl, htrip.2 .tsets rfl, htsets]
  · rw [hasked.get _ _ rfl rfl, htrip.get _ _ rfl rfl, (hspares _ rfl rfl).get]
  · rw [hasked.get _ _ rfl rfl, htrip.get _ _ rfl rfl, (hspares _ rfl rfl).get]
  · obtain ⟨hnamed, hstill, -⟩ := (d.clkTold cdTb).tripLegs_legs allLegs tcStop n (by decide)
    rw [Dev.legLive, hasked.get _ _ rfl rfl, ← Dev.legLive]
    by_cases hlive : (d.clkTold cdTb).legLive n
    · exact (hnamed (List.mem_range.mpr hn) hlive).not_live
    · rwa [Dev.legLive, hstill hlive, ← Dev.legLive]
  · exact Dev.KeepsFlags.upd (Dev.tripLegs_keepsFlags _ _ _) rfl _ (hflag hup)

/-- The failure of TB (R48): its clock is gone, every leg is out of RUN and HOLD, and the converter mode goes to TRIPPED where it may. -/
theorem Dev.clkFail_tb_state (d : Dev) (h : d.clkOk cdTb = true) :
    (d.clkFail cdTb).sup.unlocked = setBit d.sup.unlocked cdTb true ∧ (∀ n < 40, ¬ (d.clkFail cdTb).legLive n)
      ∧ (d.evtUp = true → (d.clkFail cdTb).isOn Par.evtFlag evClkFail = true) ∧ (d.clkFail cdTb).tsets = d.tsets
      ∧ (d.phase = .run → d.modeHeld = false → d.get Par.rimState 0 ≠ 1 → (d.stateOfKind kTripped).isSome = true →
          d.mode.state.map d.kindOf ≠ some kLockout → (d.clkFail cdTb).mode.state.map d.kindOf = some kTripped) := by
  obtain ⟨x, hx, hclock, hphase, hreq, hstate, hweave, htsets, hrim, hconv, hlegs, hflag⟩ := d.clkTripped_state
  have heq : d.clkFail cdTb = x.tripNow := by rw [Dev.clkFail_tb h, hx]; rfl
  have hframe := x.tripNow_frame
  have hkinds : x.kindOf = d.kindOf := funext (Dev.kindOf_of_tsets htsets)
  rw [heq]
  refine ⟨by rw [hframe.2 .sup rfl, hclock], fun n hn => ?_, fun hup => x.tripNow_keepsFlags _ (hflag hup), by rw [hframe.2 .tsets rfl, htsets],
    fun h1 h2 h3 h4 h5 => ?_⟩
  · rw [Dev.legLive, hframe.get _ _ rfl rfl]
    exact hlegs n hn
  · have htripped := x.tripNow_trips (by rw [hphase, h1]) hreq (by rw [Dev.modeHeld, Dev.offOrParked, Dev.kind, hconv, hweave]; exact h2) (by rw [hrim]; exact h3)
      (by rw [Dev.stateOfKind, hkinds]; exact h4) (by rw [hstate, hkinds]; exact h5)
    rwa [hkinds] at htripped

theorem Dev.clkFail_other_state (d : Dev) {dom : Nat} (h : d.clkOk dom = true) (htb : dom ≠ cdTb) :
    (d.clkFail dom).sup.unlocked = setBit d.sup.unlocked dom true ∧ (dom = cdLoop ∨ dom = cdSpk → (d.clkFail dom).mode.tripReq = true)
      ∧ (d.evtUp = true → (d.clkFail dom).isOn Par.evtFlag evClkFail = true) := by
  obtain ⟨hclock, -, -, -, -, -, hflag⟩ := d.clkTold_state dom
  set x := if dom = cdLoop ∨ dom = cdSpk then (d.clkTold dom).tripAsked else d.clkTold dom with hx
  have hsup : x.sup = (d.clkTold dom).sup := by rw [hx]; split <;> rfl
  have hflags : (d.clkTold dom).KeepsFlags x := .ite (.upd (.refl _) rfl) (.refl _)
  have heq : d.clkFail dom = x.linksCut dom := Dev.clkFail_other h htb
  obtain ⟨hunlocked, hmode, hkeeps⟩ := x.linksCut_leaves dom
  rw [heq]
  refine ⟨by rw [hunlocked, hsup, hclock], fun hd => ?_, fun hup => hkeeps _ (hflags _ (hflag hup))⟩
  rw [hmode, hx, if_pos hd]
  rfl

/-! ## Pins without the TB clock -/

theorem Dev.pinsNow_of_no_tb {d : Dev} (h : d.clkOk cdTb = false) :
    d.pinsNow.gateH = 0 ∧ d.pinsNow.gateL = 0 ∧ d.pinsNow.rimOutA = 0 ∧ d.pinsNow.rimOutB = 0 := by
  have hgate (n : Nat) : d.gatePins n = (false, false) := by
    unfold Dev.gatePins
    extract_lets x hs ls
    rw [h, Bool.and_false, Bool.false_and]
    rfl
  have hmask (g : Bool × Bool → Bool) (hg : g (false, false) = false) : BitVec.ofNat 40 (maskOf 40 (fun n => g (d.gatePins n))) = 0 := by
    rw [maskOf_eq_zero fun n => by rw [hgate, hg]]
    rfl
  have hrim (ch : Nat) : BitVec.ofNat 4 (d.rimToggles ch) = 0 := by
    rw [Dev.rimToggles, Dev.rimDrives, h, Bool.and_false, Bool.false_and]
    rfl
  exact ⟨hmask Prod.fst rfl, hmask Prod.snd rfl, hrim 0, hrim 1⟩

end Sys2Proof.Machine

open Sys2Proof Sys2Proof.Machine

/-- Settles O15: the loop of the time source moves no parameter it reports, and a clock that fails is cut before what follows from it. -/
theorem timeAndClocks : Obligations.TimeAndClocks := by
  unfold Obligations.TimeAndClocks
  refine ⟨⟨fun t port off utc locked s h1 h2 => .of_does rfl fun e he => ?_, fun t s h1 => .of_does rfl fun e he => ?_, fun t s h1 => .of_does rfl fun e he => ?_⟩,
    fun t dom s h => .of_does rfl fun e he => ?_, fun t dom s h hm => .of_does rfl fun e he => ?_⟩
  · have hup : (s.dev.atTime t).up = true := by simp [Dev.up, h1]
    have heq : e = ((s.dev.atTime t).inc 64 Par.linkRxFrames (1 + port.val)).ptpMessage port off utc locked := he.symm.trans (if_pos ⟨hup, h2⟩)
    obtain ⟨hoff, hok⟩ := ((s.dev.atTime t).inc 64 Par.linkRxFrames (1 + port.val)).ptpMessage_notes port off utc locked (p := Par.beatPtpOffset) rfl rfl rfl
    obtain ⟨hutc, -⟩ := ((s.dev.atTime t).inc 64 Par.linkRxFrames (1 + port.val)).ptpMessage_notes port off utc locked (p := Par.beatUtcOffset) rfl rfl rfl
    have hframes := ((s.dev.atTime t).inc 64 Par.linkRxFrames (1 + port.val)).ptpMessage_frames port off utc locked
    rw [Dev.settle_raw _ _ _ rfl, Dev.settle_raw _ _ _ rfl, Dev.settle_sup, Dev.settle_get _ _ _ rfl, heq, hoff 0, hutc 0, hok, hframes.get,
      Dev.get_inc_same _ _ _ _ (by decide), Dev.inc_sup]
    refine ⟨?_, ?_, rfl, rfl⟩
    · exact (Dev.raw_setRaw_apart _ _ _ _ rfl).trans (Dev.raw_setRaw_same _ _ _ _)
    · exact Dev.raw_setRaw_same _ _ _ _
  · have hup : (s.dev.atTime t).up = true := by simp [Dev.up, h1]
    have heq : e = (s.dev.atTime t).timeLost := he.symm.trans (if_pos hup)
    obtain ⟨hsup, hstate, -, hflag⟩ := (s.dev.atTime t).timeLost_state
    rw [Dev.settle_sup, Dev.settle_get _ _ _ rfl, heq, hsup, hstate]
    exact ⟨rfl, rfl, fun hle => Dev.settle_keepsFlags _ _ _ (hflag h1 hle)⟩
  · have hup : (s.dev.atTime t).up = true := by simp [Dev.up, h1]
    have heq : e = (s.dev.atTime t).holdoverLimit := he.symm.trans (if_pos hup)
    rw [Dev.settle_get _ _ _ rfl, heq, Dev.holdoverLimit, Dev.atTime_get]
    split
    · exact Dev.get_put_of_lt _ _ _ (by decide)
    · rfl
  · by_cases htb : dom.val = cdTb
    · rw [htb] at h he ⊢
      obtain ⟨hclock, hlegs, hflag, htsets, hmode⟩ := (s.dev.atTime t).clkFail_tb_state h
      rw [he] at hclock hlegs hflag htsets hmode
      have hclk (k : Nat) : (e.settle (s.dev.atTime t)).clkOk k = if k = cdTb then false else s.dev.clkOk k := by
        rw [Dev.clkOk, Dev.settle_sup, hclock, Dev.clkOk_unlocked]
        rfl
      obtain ⟨hgateH, hgateL, hrimA, hrimB⟩ := Dev.pinsNow_of_no_tb (hclk cdTb)
      rw [← Dev.settle_pins] at hgateH hgateL hrimA hrimB
      refine ⟨hclk cdTb, fun k _ hk => by rw [hclk, if_neg hk], fun _ => ⟨hgateH, hgateL, hrimA, hrimB, fun n hn => ?_⟩,
        fun hd => absurd hd (by decide), fun _ h1 h2 h3 h4 h5 => ?_, fun hup => Dev.settle_keepsFlags _ _ _ (hflag hup)⟩
      · rw [Dev.settle_get _ _ _ rfl]
        exact not_or.mp (hlegs n hn)
      · have hkinds : (e.settle (s.dev.atTime t)).kindOf = (s.dev.atTime t).kindOf := funext (Dev.kindOf_of_tsets (by rw [Dev.settle_tsets, htsets]))
        rw [Dev.settle_mode, hkinds]
        exact hmode h1 h2 h3 h4 h5
    · obtain ⟨hclock, hreq, hflag⟩ := (s.dev.atTime t).clkFail_other_state h htb
      rw [he] at hclock hreq hflag
      have hclk (k : Nat) : (e.settle (s.dev.atTime t)).clkOk k = if k = dom.val then false else s.dev.clkOk k := by
        rw [Dev.clkOk, Dev.settle_sup, hclock, Dev.clkOk_unlocked]
        rfl
      refine ⟨by rw [hclk, if_pos rfl], fun k _ hk => by rw [hclk, if_neg hk], fun hd => absurd hd htb, fun hd => ?_, fun hd => absurd hd htb,
        fun hup => Dev.settle_keepsFlags _ _ _ (hflag hup)⟩
      rw [Dev.settle_mode]
      exact hreq hd
  · have hclock := (s.dev.atTime t).clkLocked_clock dom.val h hm
    rw [he] at hclock
    refine ⟨?_, fun k _ hk => ?_⟩
    · rw [Dev.clkOk, Dev.settle_sup, ← Dev.clkOk, hclock, if_pos rfl]
    · rw [Dev.clkOk, Dev.settle_sup, ← Dev.clkOk, hclock, if_neg hk]
      rfl

end

section
/-! PROOF. Faults and restarts of the supervisor pairs (R26, R28). -/

namespace Sys2Proof.Machine

theorem Dev.sessionEnd_isOpen (d : Dev) (s m : Nat) : ((d.sessionEnd s).sess m).isOpen = (decide (m ≠ s) && (d.sess m).isOpen) := by
  unfold Dev.sessionEnd
  extract_lets x closed told host gone lid
  have hclosed : (closed.sess m).isOpen = (decide (m ≠ s) && (d.sess m).isOpen) := by
    by_cases hm : m = s
    · subst hm; simp [closed]
    · simp [closed, Dev.sess_setSess_other _ _ _ _ hm, hm]
  have htold : told.host = closed.host := by
    unfold told
    split
    · exact Dev.putBit_host _ _ _ _ _
    · rfl
  have hgone : (gone.sess m).isOpen = (decide (m ≠ s) && (d.sess m).isOpen) := by
    have hsess : gone.sess m = closed.sess m := by simp only [gone, host, Dev.sess, htold]
    rw [hsess, hclosed]
  split
  · next h =>
    by_cases hm : m = s
    · subst hm; simpa using h.1
    · simp [hm]
  split
  · exact hgone
  · exact hgone

/-- After the service pair has halted no session is open (R377). -/
theorem Dev.sessionEnd_all (d : Dev) {k : Nat} (hk : k < 80) : ((d.forN 80 Dev.sessionEnd).sess k).isOpen = false := by
  refine Dev.forN_reaches (Q := fun e => (e.sess k).isOpen = false) hk (fun x => ?_) (fun x m h => ?_) d
  · rw [Dev.sessionEnd_isOpen]; simp
  · rw [Dev.sessionEnd_isOpen, h, Bool.and_false]

/-- What the fault of a pair does: it halts, and what it served ends (R26). -/
theorem Dev.pairFault_state (d : Dev) (pair : Nat) : bit (d.pairFault pair).sup.halted pair = true
    ∧ (pair = 0 → d.paired = false → (d.pairFault pair).mode.tripReq = true) ∧ (pair = 1 → ∀ k < 80, ((d.pairFault pair).sess k).isOpen = false) := by
  unfold Dev.pairFault
  extract_lets sup halted weave mode passed
  have hpassed : passed.sup = halted.sup := by
    unfold passed
    split
    · rfl
    split
    · rfl
    · rfl
  have hended : passed.Agree [0x90] [.host, .commits, .lid] (passed.forN 80 Dev.sessionEnd) := .forN (fun x s h => h.trans (x.sessionEnd_frame s)) .refl
  have hisl (x : Dev) : x.Agree [] [.isls] (x.forN 4 (fun d g => d.setIsl g { d.isl g with sv := false, svDev := [] })) :=
    .forN (fun y g h => h.trans (y.setIsl_frame g _)) .refl
  refine ⟨?_, fun h0 hpair => ?_, fun h1 k hk => ?_⟩
  · have hbit : bit passed.sup.halted pair = true := by rw [hpassed]; exact bit_setBit_same _ _ _
    split
    · rw [(hisl _).2 .sup rfl, hended.2 .sup rfl]
      exact hbit
    · exact hbit
  · rw [if_neg (by omega)]
    have hsame : halted.paired = d.paired := rfl
    unfold passed
    rw [hsame, hpair, Bool.and_false, if_neg (by decide), if_pos h0]
  · rw [if_pos h1, Dev.sess, (hisl _).2 .host rfl]
    have hclosed := passed.sessionEnd_all hk
    rw [Dev.sess] at hclosed
    exact hclosed

theorem Dev.raise_paired (d : Dev) (n obj detail : Nat) (island : Bool) : (d.raise n obj detail island).paired = d.paired := by
  rw [Dev.paired, Dev.get_raise _ _ _ _ _ _ rfl rfl, ← Dev.paired]

theorem Dev.settle_pairHalted (d old : Dev) (c : Nat) : (d.settle old).pairHalted c = d.pairHalted c := by
  rw [Dev.pairHalted, Dev.clkOk, Dev.settle_sup, ← Dev.clkOk, ← Dev.pairHalted]

theorem Dev.pairHalted_of_bit {d : Dev} {c : Nat} (h : bit d.sup.halted c = true) : d.pairHalted c = true := by
  rw [Dev.pairHalted, h, Bool.true_or]

theorem Dev.evtUp_of_run {d : Dev} (h : d.phase = .run) : d.evtUp = true := by simp [Dev.evtUp, Dev.up, h]

theorem Dev.up_of_run {d : Dev} (h : d.phase = .run) : d.up = true := by simp [Dev.up, h]

theorem Dev.lockstep_eq {d : Dev} {pair : Nat} (h1 : d.phase = .run) (h2 : ¬(pair = 0 ∧ d.pmode = pmParked)) :
    d.lockstep pair = (d.raise evSupLockstep oDev).pairFault pair := if_neg (by rw [Dev.up_of_run h1]; simpa using h2)

/-- An uncorrectable error counts and is reported before its region acts (R28). -/
def Dev.eccTold (d : Dev) : Dev := (d.inc 32 Par.devEccUncorrected 0).raise evMemUncorr oDev

theorem Dev.eccTold_count (d : Dev) : d.eccTold.get Par.devEccUncorrected 0 = (d.get Par.devEccUncorrected 0 + 1) % 2 ^ 32 := by
  rw [Dev.eccTold, Dev.get_raise _ _ _ _ _ _ rfl rfl, Dev.get_inc_same _ _ _ _ (by decide)]

theorem Dev.eccTold_flag {d : Dev} (h : d.phase = .run) : d.eccTold.isOn Par.evtFlag evMemUncorr = true :=
  Dev.isOn_raise _ _ _ _ (Dev.evtUp_of_run (by rw [Dev.inc_phase, h]))

/-- The device with a pair that no longer halts. -/
def Dev.unhalted (d : Dev) (pair : Nat) : Dev := { d with sup := { d.sup with halted := setBit d.sup.halted pair false } }

theorem Dev.pairRestarted_eq {d : Dev} {pair : Nat} (h : bit d.sup.halted pair = true) :
    d.pairRestarted pair = ((d.unhalted pair).inc 32 Par.devSupRestarts 0).actionsRun := if_neg (by rw [h]; decide)

/-- A pair whose firmware has restarted (R26). -/
theorem Dev.pairRestarted_state (d : Dev) (pair : Nat) (h : bit d.sup.halted pair = true) :
    (d.pairRestarted pair).sup = { d.sup with halted := setBit d.sup.halted pair false }
      ∧ (d.pairRestarted pair).get Par.devSupRestarts 0 = (d.get Par.devSupRestarts 0 + 1) % 2 ^ 32 := by
  have hrun := ((d.unhalted pair).inc 32 Par.devSupRestarts 0).actionsRun_frame
  rw [Dev.pairRestarted_eq h, hrun.2 .sup rfl, hrun.get _ _ rfl rfl, Dev.inc_sup, Dev.get_inc_same _ _ _ _ (by decide)]
  exact ⟨rfl, rfl⟩

end Sys2Proof.Machine

open Sys2Proof Sys2Proof.Machine

/-- Settles O16: a fault of a pair is `pairFault` after its event, which keeps the event's flag. -/
theorem supervisorPairs : Obligations.SupervisorPairs := by
  unfold Obligations.SupervisorPairs
  refine ⟨fun t pair s h1 h2 => .of_does rfl fun e he => ?_, fun t s h1 => .of_does rfl fun e he => ?_, fun t s h1 => .of_does rfl fun e he => ?_,
    fun t pair s h1 h2 => .of_does rfl fun e he => ?_⟩
  · have heq : e = ((s.dev.atTime t).raise evSupLockstep oDev).pairFault pair.val := he.symm.trans (Dev.lockstep_eq h1 h2)
    obtain ⟨hhalted, htrip, hsess⟩ := ((s.dev.atTime t).raise evSupLockstep oDev).pairFault_state pair.val
    have hflag : e.isOn Par.evtFlag evSupLockstep = true := by
      rw [heq]
      exact Dev.KeepsFlags.of_agree (Dev.pairFault_frame _ _) rfl _ ((s.dev.atTime t).isOn_raise _ _ _ (Dev.evtUp_of_run h1))
    rw [← heq] at hhalted htrip hsess
    refine ⟨by rw [Dev.settle_pairHalted, Dev.pairHalted_of_bit hhalted], e.settle_keepsFlags _ _ hflag, fun h0 hp => ?_, fun hp k hk => ?_⟩
    · rw [Dev.settle_mode]
      exact htrip h0 ((Dev.raise_paired _ _ _ _ _).trans hp)
    · rw [Dev.sess, Dev.settle_host]
      exact hsess hp k hk
  · have heq : e = (s.dev.atTime t).eccTold.pairFault 0 := he.symm.trans (if_neg (by rw [Dev.up_of_run (d := s.dev.atTime t) h1]; decide))
    obtain ⟨hhalted, htrip, -⟩ := (s.dev.atTime t).eccTold.pairFault_state 0
    have hframe := (s.dev.atTime t).eccTold.pairFault_frame 0
    have hcount := (s.dev.atTime t).eccTold_count
    have hflag := Dev.KeepsFlags.of_agree hframe rfl _ (Dev.eccTold_flag (d := s.dev.atTime t) h1)
    rw [← hframe.get _ _ rfl rfl] at hcount
    rw [← heq] at hhalted htrip hcount hflag
    refine ⟨by rw [Dev.settle_pairHalted, Dev.pairHalted_of_bit hhalted], by rw [Dev.settle_get _ _ _ rfl, hcount, Dev.atTime_get],
      e.settle_keepsFlags _ _ hflag, fun hp => ?_⟩
    rw [Dev.settle_mode]
    refine htrip rfl ?_
    rw [Dev.eccTold, Dev.raise_paired, Dev.paired, Dev.get_inc_apart _ _ _ _ _ rfl]
    exact hp
  · have heq : e = (s.dev.atTime t).eccTold := he.symm.trans (if_neg (by rw [Dev.up_of_run (d := s.dev.atTime t) h1]; decide))
    rw [Dev.settle_get _ _ _ rfl, Dev.settle_sup, Dev.settle_mode, Dev.settle_host, heq, Dev.eccTold_count, Dev.eccTold, Dev.raise_sup, Dev.raise_mode,
      Dev.raise_host, Dev.inc_sup, Dev.inc_mode, Dev.inc_host]
    exact ⟨rfl, Dev.settle_keepsFlags _ _ _ (Dev.eccTold_flag h1), rfl, rfl, rfl⟩
  · have hbit : bit (s.dev.atTime t).sup.halted pair.val = true := by simpa [Dev.pairHalted, h2] using h1
    obtain ⟨hsup, hcount⟩ := (s.dev.atTime t).pairRestarted_state pair.val hbit
    rw [he] at hsup hcount
    have hother : 1 - pair.val ≠ pair.val := by omega
    refine ⟨?_, ?_, by rw [Dev.settle_get _ _ _ rfl, hcount, Dev.atTime_get]⟩
    · rw [Dev.settle_pairHalted, Dev.pairHalted, Dev.clkOk, hsup]
      simp only [bit_setBit_same, Bool.false_or]
      exact congrArg (!·) h2
    · rw [Dev.settle_pairHalted, Dev.pairHalted, Dev.clkOk, hsup]
      simp only [bit_setBit_other _ _ hother]
      rfl

end

section
/-! PROOF. Faults, ready inputs and line calibration of local legs (R254 to R257). -/

namespace Sys2Proof.Machine

/-! ## The filtered inputs of a leg -/

/-- From `d` to `e` the filtered inputs of every leg stay. -/
def Dev.KeepsInputs (d e : Dev) : Prop := ∀ n, (e.leg n).flt = (d.leg n).flt ∧ (e.leg n).rdy = (d.leg n).rdy ∧ (e.leg n).rdyLow = (d.leg n).rdyLow

theorem Dev.KeepsInputs.refl (d : Dev) : d.KeepsInputs d := fun _ => ⟨rfl, rfl, rfl⟩

theorem Dev.KeepsInputs.trans {a b c : Dev} (h : a.KeepsInputs b) (g : b.KeepsInputs c) : a.KeepsInputs c := fun n => by
  obtain ⟨hf, hr, hl⟩ := h n
  obtain ⟨gf, gr, gl⟩ := g n
  exact ⟨gf.trans hf, gr.trans hr, gl.trans hl⟩

theorem Dev.KeepsInputs.of_legs {d e : Dev} (h : e.legs = d.legs) : d.KeepsInputs e := fun n => by
  have hleg : e.leg n = d.leg n := by rw [Dev.leg, h, Dev.leg]
  rw [hleg]
  exact ⟨rfl, rfl, rfl⟩

theorem Dev.KeepsInputs.of_agree {cs : List Nat} {fs : List Fld} {d e : Dev} (h : d.Agree cs fs e) (hf : fs.contains .legs = false) : d.KeepsInputs e :=
  .of_legs (h.2 .legs hf)

theorem Dev.KeepsInputs.foldl {α : Type} {f : Dev → α → Dev} (hf : ∀ (d : Dev) x, d.KeepsInputs (f d x)) (xs : List α) (d : Dev) :
    d.KeepsInputs (xs.foldl f d) :=
  List.foldlRecOn xs f (motive := d.KeepsInputs) (.refl d) (fun e h x _ => h.trans (hf e x))

theorem Dev.legStop_keepsInputs (d : Dev) (n st : Nat) : d.KeepsInputs (d.legStop n st) := by
  have hset : d.KeepsInputs (d.setLeg n (d.leg n).stop) := fun m => by
    by_cases hm : m = n
    · subst hm; rw [Dev.leg_setLeg_same]; exact ⟨rfl, rfl, rfl⟩
    · rw [Dev.leg_setLeg_other _ _ _ _ hm]; exact ⟨rfl, rfl, rfl⟩
  exact hset.trans (.of_legs (by rw [Dev.legStop, Dev.putF_legs, Dev.put_legs]))

theorem Dev.tripOne_keepsInputs (d : Dev) (n cause : Nat) : d.KeepsInputs (d.tripOne n cause) := by
  unfold Dev.tripOne
  extract_lets st stopped counted
  have hcounted : counted.legs = (d.legStop n lsTripped).legs := by
    simp only [counted, stopped, Dev.inc_legs, Dev.put_legs, Dev.putBit_legs]
  split
  · exact ((d.legStop_keepsInputs n lsTripped).trans (.of_legs hcounted)).trans (.of_agree (counted.raise_frame _ _ _ _) rfl)
  · exact .refl d

theorem Dev.portStop_keepsInputs (d : Dev) (p : Nat) (which : List Nat) (cause : Nat) : d.KeepsInputs (d.portStop p which cause) := by
  unfold Dev.portStop
  extract_lets legs both pulled killed rt stopped stated counted told locked c
  have hpulled : d.KeepsInputs pulled := .foldl (fun x n => by
    split
    · exact .refl x
    · exact x.tripOne_keepsInputs n 3) legs d
  have hstopped : pulled.Agree [0x30] [.ports] stopped := (pulled.burstKill_frame p).trans ((killed.setPort_frame p _).mono rfl rfl)
  have hcounted : stopped.Agree [0x30] [] counted := .inc rfl rfl (.put rfl rfl .refl)
  have htold : counted.Agree [0xC0] [.evt] told := counted.raise_frame _ _ _ _
  have hlocked : counted.Agree [0xC0] [.evt] locked := .ite (fun _ => htold.trans (told.raise_frame _ _ _ _)) (fun _ => htold)
  have hnoted : pulled.Agree [0x20, 0x30, 0xC0] [.evt, .ports] locked :=
    (hstopped.mono rfl rfl).trans ((hcounted.mono rfl rfl).trans (hlocked.mono rfl rfl))
  exact hpulled.trans (.of_agree (.ite (fun _ => .putF rfl rfl (.putF rfl rfl hnoted)) (fun _ => hnoted)) rfl)

/-- A trip leaves the inputs of every leg. -/
theorem Dev.tripLegs_keepsInputs (d : Dev) (ns : List Nat) (cause : Nat) : d.KeepsInputs (d.tripLegs ns cause) := by
  unfold Dev.tripLegs
  extract_lets live second portsHit tripped stopped
  have htripped : d.KeepsInputs tripped := .foldl (fun x n => x.tripOne_keepsInputs n cause) live d
  have hstopped : tripped.KeepsInputs stopped := .foldl (fun x p => x.portStop_keepsInputs p _ cause) portsHit tripped
  refine (htripped.trans hstopped).trans (.foldl (fun x n => ?_) second stopped)
  split
  · exact .refl x
  · next p _ =>
    have hlocked : x.Agree [0x30, 0x31, 0xC0] [.evt] ((((x.putBit Par.legTripCause n cause true).put Par.portState p psLocked).inc 32 Par.portTrips p).raise
        evPortLocked (oid 0x30 p)) := .step (Dev.raise_frame _ evPortLocked (oid 0x30 p) 0 false) rfl rfl (.inc rfl rfl (.put rfl rfl (.putBit rfl rfl .refl)))
    exact .of_agree (.ite (fun _ => hlocked) (fun _ => .refl)) rfl

/-! ## Setting a record of every leg -/

/-- A pass over the legs that sets each one's record from its own. -/
theorem Dev.leg_forN_setLeg (d : Dev) (k : Nat) (g : Nat → LegRt → LegRt) (n : Nat) :
    (d.forN k (fun d n => d.setLeg n (g n (d.leg n)))).leg n = if n < k then g n (d.leg n) else d.leg n := by
  induction k with
  | zero => rfl
  | succ k ih =>
    have hstep : d.forN (k + 1) (fun d n => d.setLeg n (g n (d.leg n))) = (d.forN k (fun d n => d.setLeg n (g n (d.leg n)))).setLeg k
        (g k ((d.forN k (fun d n => d.setLeg n (g n (d.leg n)))).leg k)) := by
      rw [Dev.forN, List.range_succ, List.foldl_append]
      rfl
    rw [hstep]
    by_cases hn : n = k
    · subst hn
      rw [Dev.leg_setLeg_same, ih, if_neg (lt_irrefl n), if_pos (Nat.lt_succ_self n)]
    · rw [Dev.leg_setLeg_other _ _ _ _ hn, ih]
      simp only [Nat.lt_succ_iff_lt_or_eq, hn, or_false]

theorem Dev.forN_setLeg_agree (d : Dev) (k : Nat) (g : Nat → LegRt → LegRt) :
    d.Agree [] [.legs] (d.forN k (fun d n => d.setLeg n (g n (d.leg n)))) := .forN (fun x n h => h.trans (x.setLeg_frame n _)) .refl

/-- The pins of a leg that is not in RUN are low. -/
theorem Dev.settle_gates_low {d old : Dev} {n : Nat} (hn : n < 40) (h : d.get Par.legState n ≠ lsRun) :
    (d.settle old).pins.gateH.getLsbD n = false ∧ (d.settle old).pins.gateL.getLsbD n = false := by
  have hstate : (d.settle old).get Par.legState n ≠ lsRun := by rwa [Dev.settle_get _ _ _ rfl]
  have hlow (x : Dev) (hx : x.get Par.legState n ≠ lsRun) : x.gatePins n = (false, false) := by
    unfold Dev.gatePins
    extract_lets y hs ls
    rw [beq_eq_false_iff_ne.mpr hx, Bool.and_false]
    rfl
  have hshown (x : Dev) : x.pinsNow.gateH.getLsbD n = (x.gatePins n).1 ∧ x.pinsNow.gateL.getLsbD n = (x.gatePins n).2 :=
    ⟨getLsbD_maskOf _ hn, getLsbD_maskOf _ hn⟩
  rw [Dev.settle_pins, (hshown _).1, (hshown _).2, hlow _ hstate]
  exact ⟨rfl, rfl⟩

theorem mem_map_val {legs : List (Fin 40)} {n : Fin 40} : n.val ∈ legs.map (·.val) ↔ n ∈ legs := by
  simp only [List.mem_map]
  exact ⟨fun ⟨m, hm, h⟩ => Fin.val_injective h ▸ hm, fun h => ⟨n, h, rfl⟩⟩

theorem contains_map_val (legs : List (Fin 40)) (n : Fin 40) : (legs.map (·.val)).contains n.val = legs.contains n := by
  rw [Bool.eq_iff_iff, List.contains_iff_mem, List.contains_iff_mem, mem_map_val]

/-- Fault inputs (R257): the legs follow their inputs, and those named that were live trip with cause FLT. -/
theorem Dev.faultInputs_legs (d : Dev) (ns : List Nat) (n : Nat) (hn : n < 40) :
    ((d.faultInputs ns).leg n).flt = ns.contains n ∧ (n ∈ ns → d.legLive n → Dev.LegTripped n 0 d (d.faultInputs ns))
      ∧ (n ∉ ns → (∀ p < 32, n ∉ d.portLegs p) → (d.faultInputs ns).get Par.legState n = d.get Par.legState n) := by
  unfold Dev.faultInputs
  extract_lets e
  have he : d.Agree [] [.legs] e := d.forN_setLeg_agree 40 (fun n x => { x with flt := ns.contains n })
  have hleg : e.leg n = { d.leg n with flt := ns.contains n } := (d.leg_forN_setLeg 40 (fun n x => { x with flt := ns.contains n }) n).trans (if_pos hn)
  have hstays : Dev.LegStays n d e := .of_agree he rfl
  obtain ⟨hnamed, -, hother⟩ := e.tripLegs_legs ns 0 n (by decide)
  refine ⟨?_, fun hmem hlive => (hnamed hmem (hstays.live.mpr hlive)).since (he.2 .now rfl) hstays, fun hmem hports => ?_⟩
  · rw [(e.tripLegs_keepsInputs ns 0 n).1, hleg]
  · rw [hother hmem (fun p hp => ?_), hstays.get rfl rfl]
    have hlegs : e.portLegs p = d.portLegs p := Dev.portLegs_of_spares (fun q hq i => he.1 q i (Dev.portPar_small hq) rfl) p
    rw [hlegs]
    exact hports p hp

/-- Ready inputs that go low (R256): a leg named that uses its input trips with cause RDY. -/
theorem Dev.readyLow_legs (d : Dev) (ns : List Nat) (n : Nat) (hn : n < 40) :
    ((d.readyLow ns).leg n).rdyLow = ns.contains n ∧ ((d.readyLow ns).leg n).rdy = ((d.leg n).rdy && !(ns.contains n))
      ∧ (n ∈ ns → d.isOn Par.legRdyUse n = true → d.legLive n → Dev.LegTripped n 2 d (d.readyLow ns)) := by
  unfold Dev.readyLow
  extract_lets e
  have he : d.Agree [] [.legs] e := d.forN_setLeg_agree 40 (fun n x => { x with rdy := x.rdy && !(ns.contains n), rdyLow := ns.contains n })
  have hleg : e.leg n = { d.leg n with rdy := (d.leg n).rdy && !(ns.contains n), rdyLow := ns.contains n } :=
    (d.leg_forN_setLeg 40 (fun n x => { x with rdy := x.rdy && !(ns.contains n), rdyLow := ns.contains n }) n).trans (if_pos hn)
  have hstays : Dev.LegStays n d e := .of_agree he rfl
  obtain ⟨-, hrdy, hlow⟩ := e.tripLegs_keepsInputs (ns.filter (e.isOn Par.legRdyUse)) 2 n
  obtain ⟨hnamed, -, -⟩ := e.tripLegs_legs (ns.filter (e.isOn Par.legRdyUse)) 2 n (by decide)
  refine ⟨?_, ?_, fun hmem huse hlive => ?_⟩
  · rw [hlow, hleg]
  · rw [hrdy, hleg]
  · have huse' : e.isOn Par.legRdyUse n = true := by rw [Dev.isOn, hstays.get rfl rfl]; exact huse
    exact (hnamed (List.mem_filter.mpr ⟨hmem, huse'⟩) (hstays.live.mpr hlive)).since (he.2 .now rfl) hstays

/-! ## Calibration of the spare line -/

theorem Dev.coarse_of_osier {d e : Dev} (h : e.osier = d.osier) (pin : Nat) : e.coarse pin = d.coarse pin := by
  simp only [Dev.coarse, Dev.lineOf, h]

theorem Dev.osierCal_lines (d : Dev) (span : Nat) : (d.osierCal span).lineOf d.osier.nextPin = d.osier.spare
    ∧ (d.osierCal span).osier.spare = d.lineOf d.osier.nextPin ∧ (d.osierCal span).osier.nextPin = (d.osier.nextPin + 1) % 80
    ∧ (d.osierCal span).osier.failed.contains d.osier.spare = (decide (span < 900) || decide (1100 < span))
    ∧ ∀ n < 40, bit ((d.osierCal span).get Par.legStatus n) 1 = ((d.osierCal span).coarse (2 * n) || (d.osierCal span).coarse (2 * n + 1)) := by
  unfold Dev.osierCal
  extract_lets o bad pin old failed swapped told
  have htold : told.osier = swapped.osier := by
    unfold told
    split
    · exact Dev.raise_osier _ _ _ _ _
    · rfl
  have hpass : told.Agree [0x31] [] (told.forN 40 (fun d n => d.putBit Par.legStatus n 1 (d.coarse (2 * n) || d.coarse (2 * n + 1)))) :=
    .forN (fun x n h => .putBit rfl rfl h) .refl
  have hosier := (hpass.2 .osier rfl : _ = told.osier).trans htold
  have hbad : bad = (decide (span < 900) || decide (1100 < span)) := by simp only [bad, Bool.decide_or]
  refine ⟨?_, by rw [hosier], by rw [hosier], ?_, fun n hn => ?_⟩
  · rw [Dev.lineOf, hosier]
    exact Tab.get_set_same (fun p => p) _ _ _
  · rw [hosier, ← hbad]
    have hfailed : swapped.osier.failed = failed := rfl
    rw [hfailed]
    cases hb : bad with
    | true => simp [failed, hb, o]
    | false => simp [failed, hb, o]
  · have hset (x : Dev) : bit ((x.putBit Par.legStatus n 1 (x.coarse (2 * n) || x.coarse (2 * n + 1))).get Par.legStatus n) 1
        = ((x.putBit Par.legStatus n 1 (x.coarse (2 * n) || x.coarse (2 * n + 1))).coarse (2 * n)
          || (x.putBit Par.legStatus n 1 (x.coarse (2 * n) || x.coarse (2 * n + 1))).coarse (2 * n + 1)) := x.bit_putBit_same Par.legStatus n (by decide) _
    refine Dev.forN_reaches (Q := fun x => bit (x.get Par.legStatus n) 1 = (x.coarse (2 * n) || x.coarse (2 * n + 1))) hn hset (fun x m hx => ?_) told
    by_cases hm : n = m
    · exact hm ▸ hset x
    · exact (congrArg (bit · 1) (x.get_put_inst _ rfl hm)).trans hx

theorem Dev.leg_settle (d old : Dev) (n : Nat) : (d.settle old).leg n = d.leg n := by rw [Dev.leg, Dev.settle_legs, Dev.leg]

/-- A command on blocks that run only in power mode RUN, with the clock of their domain, completes with its effect. -/
theorem Completes.of_whenOn {c : Instr} {s : State} {P : Dev → Prop} {t dom : Nat} {f : Dev → Dev} (hfull : s.dev.full = true) (hclk : s.dev.clkOk dom = true)
    (hc : exec c s = s.does t fun d => d.whenOn dom f) (h : ∀ e, f (s.dev.atTime t) = e → P (e.settle (s.dev.atTime t))) : Completes c s P :=
  .of_does hc fun e he => by
    have hgo : ((s.dev.atTime t).full && (s.dev.atTime t).clkOk dom) = true := Bool.and_eq_true_iff.mpr ⟨hfull, hclk⟩
    exact h e ((if_pos hgo).symm.trans he)

end Sys2Proof.Machine

open Sys2Proof Sys2Proof.Machine

/-- Settles O18: a trip by an input is `LegTripped` of the legs it names, and the calibrated line changes places with the one of the next pin. -/
theorem legTrips : Obligations.LegTrips := by
  unfold Obligations.LegTrips
  refine ⟨fun t legs s hfull htb => .of_whenOn hfull htb rfl fun e he => ⟨fun n => ?_, fun n hn hlive => ?_, fun n hn hports => ?_⟩,
    ⟨fun t n s hfull htb => .of_whenOn hfull htb rfl fun e he => ⟨?_, fun m _ hm => ?_⟩,
      fun t legs s hfull htb => .of_whenOn hfull htb rfl fun e he => ⟨fun n => ⟨?_, ?_⟩, fun n hn huse hlive => ?_⟩⟩,
    fun t span s hfull htb => .of_whenOn hfull htb rfl fun e he => ?_⟩
  · rw [Dev.leg_settle, ← he, ((s.dev.atTime t).faultInputs_legs _ n.val n.isLt).1, contains_map_val]
  · obtain ⟨-, htrip, -⟩ := (s.dev.atTime t).faultInputs_legs (legs.map (·.val)) n.val n.isLt
    rw [he] at htrip
    have htripped := htrip (mem_map_val.mpr hn) hlive
    have hidle : e.get Par.legState n.val ≠ lsRun := fun h => htripped.not_live (.inl h)
    obtain ⟨hstate, hcause, htime, htrips⟩ := htripped
    refine ⟨?_, ?_, ?_, ?_, Dev.settle_gates_low n.isLt hidle⟩
    · rw [Dev.settle_get _ _ _ rfl, hstate]
    · rw [Dev.settle_get _ _ _ rfl, hcause]
    · rw [Dev.settle_get _ _ _ rfl, htime, Dev.atTime_now]
    · rw [Dev.settle_get _ _ _ rfl, htrips, Dev.atTime_get]
  · obtain ⟨-, -, hother⟩ := (s.dev.atTime t).faultInputs_legs (legs.map (·.val)) n.val n.isLt
    rw [Dev.settle_get _ _ _ rfl, ← he, hother (fun h => hn (mem_map_val.mp h)) fun p hp h => hports p hp (List.contains_iff_mem.mpr h), Dev.atTime_get]
  · rw [Dev.leg_settle, ← he, Dev.leg_setLeg_same]
    rfl
  · rw [Dev.leg_settle, ← he, Dev.leg_setLeg_other _ _ _ _ hm]
    rfl
  · rw [Dev.leg_settle, ← he, ((s.dev.atTime t).readyLow_legs _ n.val n.isLt).1, contains_map_val]
  · rw [Dev.leg_settle, ← he, ((s.dev.atTime t).readyLow_legs _ n.val n.isLt).2.1, contains_map_val]
    rfl
  · obtain ⟨hstate, hcause, -, -⟩ := ((s.dev.atTime t).readyLow_legs _ n.val n.isLt).2.2 (mem_map_val.mpr hn) huse hlive
    rw [he] at hstate hcause
    exact ⟨by rw [Dev.settle_get _ _ _ rfl, hstate], by rw [Dev.settle_get _ _ _ rfl, hcause]⟩
  · obtain ⟨hline, hspare, hnext, hfailed, hcoarse⟩ := (s.dev.atTime t).osierCal_lines span
    rw [he] at hline hspare hnext hfailed hcoarse
    have hosier : (e.settle (s.dev.atTime t)).osier = e.osier := Dev.settle_osier _ _
    refine ⟨?_, ?_, ?_, ?_, fun n hn => ?_⟩
    · rw [Dev.lineOf, hosier, ← Dev.lineOf]; exact hline
    · rw [hosier]; exact hspare
    · rw [hosier]; exact hnext
    · rw [hosier]; exact hfailed
    · rw [Dev.settle_get _ _ _ rfl, hcoarse n hn, Dev.coarse_of_osier hosier, Dev.coarse_of_osier hosier]

end

section
/-! PROOF. Periods of local legs and their timers (R246 to R253, R259). -/

namespace Sys2Proof.Machine

/-- The record of a leg without its prescalers of carrier events (R260). -/
def LegRt.noEvents (x : LegRt) : LegRt := { x with evZero := 0, evPeriod := 0, evCmp := 0 }

/-- From `d` to `e` the records of the legs stay, but for the prescalers of leg `n`. -/
def Dev.CountsEvents (n : Nat) (d e : Dev) : Prop := (e.leg n).noEvents = (d.leg n).noEvents ∧ ∀ m, m ≠ n → e.leg m = d.leg m

theorem Dev.CountsEvents.of_legs (n : Nat) {d e : Dev} (h : e.legs = d.legs) : Dev.CountsEvents n d e := by
  have hleg (m : Nat) : e.leg m = d.leg m := by rw [Dev.leg, h, Dev.leg]
  exact ⟨by rw [hleg], fun m _ => hleg m⟩

theorem Dev.CountsEvents.refl (n : Nat) (d : Dev) : Dev.CountsEvents n d d := .of_legs n rfl

theorem Dev.CountsEvents.trans {n : Nat} {a b c : Dev} (h : Dev.CountsEvents n a b) (g : Dev.CountsEvents n b c) : Dev.CountsEvents n a c :=
  ⟨g.1.trans h.1, fun m hm => (g.2 m hm).trans (h.2 m hm)⟩

theorem Dev.CountsEvents.ite {n : Nat} {a x y : Dev} {c : Prop} [Decidable c] (h : Dev.CountsEvents n a x) (g : Dev.CountsEvents n a y) :
    Dev.CountsEvents n a (if c then x else y) := by
  split
  · exact h
  · exact g

theorem Dev.legEvent_counts (d : Dev) (n kind ts : Nat) : Dev.CountsEvents n d (d.legEvent n kind ts) := by
  unfold Dev.legEvent
  extract_lets x
  generalize (if kind = 0 then (d.get Par.legEvZeroDiv n, x.evZero)
    else if kind = 1 then (d.get Par.legEvPeriodDiv n, x.evPeriod) else (d.get Par.legEvCmpDiv n, x.evCmp)) = pk
  obtain ⟨p, k⟩ := pk
  dsimp only
  split
  · exact .refl n d
  · generalize hy : (if kind = 0 then { x with evZero := (k + 1) % p } else if kind = 1 then { x with evPeriod := (k + 1) % p }
      else { x with evCmp := (k + 1) % p }) = y
    have hsame : y.noEvents = x.noEvents := by
      subst hy
      split
      · rfl
      · split <;> rfl
    have hset : Dev.CountsEvents n d (d.setLeg n y) := ⟨by rw [Dev.leg_setLeg_same, hsame], fun m hm => Dev.leg_setLeg_other _ _ _ _ hm⟩
    split
    · exact hset.trans (.of_legs n ((Dev.carrierEvent_frame _ _ _ _).2 .legs rfl))
    · exact hset

/-- What starts with the period of leg `n` at `z` (R248, R253): the leg runs from `z`, with the carry of the rule, which is counted. -/
theorem Dev.legPeriod_starts (d : Dev) (n z : Nat) :
    let r := d.legInterval n (d.psShorten n z).1.carry
    let drops := b2n r.2.2.2 + b2n (d.psShorten n z).2 + (d.legFrom n z).2.1
    let e := d.legPeriod n z
    ((e.leg n).zero = z ∧ (e.leg n).running = true ∧ (e.leg n).carry = r.2.1 ∧ (e.leg n).termHeld = false
      ∧ (e.leg n).varStart = if isVari (d.legSet Par.legCarrier n) then some (z + r.1) else none)
    ∧ (∀ m, m ≠ n → e.leg m = d.leg m)
    ∧ e.getF Par.legCarry n = fofd r.2.1
    ∧ e.get Par.legCarryDiscards n = (if r.2.2.1 then (d.get Par.legCarryDiscards n + 1) % 2 ^ 32 else d.get Par.legCarryDiscards n)
    ∧ e.get Par.legPulsesDropped n = if drops = 0 then d.get Par.legPulsesDropped n else (d.get Par.legPulsesDropped n + drops) % 2 ^ 32 := by
  intro r drops
  generalize he : d.legPeriod n z = e
  intro e'
  subst e'
  unfold Dev.legPeriod at he
  extract_lets car p first ps x r' o marks src set put discards drops' dropped refreshed status event at he
  have hfirst : Dev.CountsEvents n status event ∧ status.Agree [0x60, 0x61, 0xC0] [.evt, .legs, .caps, .trigs, .weave] event :=
    ⟨Dev.legEvent_counts _ _ _ _, Dev.legEvent_frame _ _ _ _⟩
  have hevents : Dev.CountsEvents n status e ∧ status.Agree [0x60, 0x61, 0xC0] [.evt, .legs, .caps, .trigs, .weave] e := by
    rw [← he]
    split
    · exact ⟨.refl n status, .refl⟩
    · split
      · exact hfirst
      · exact ⟨hfirst.1.trans (Dev.legEvent_counts _ _ _ _), hfirst.2.trans (Dev.legEvent_frame _ _ _ _)⟩
  have hdropped : set.Agree [0x31] [] dropped :=
    .ite (fun _ => .ite (fun _ => .inc rfl rfl (.putF rfl rfl .refl)) (fun _ => .putF rfl rfl .refl))
      (fun _ => .inc rfl rfl (.ite (fun _ => .inc rfl rfl (.putF rfl rfl .refl)) (fun _ => .putF rfl rfl .refl)))
  have hstatus : dropped.Agree [0x31] [] status := .putBit rfl rfl (.putBit rfl rfl (.ite (fun _ => .inc rfl rfl .refl) (fun _ => .refl)))
  have hcore : (e.leg n).noEvents = LegRt.noEvents { o.1 with
      carry := r.2.1, carryIn := x.carry, zero := z, running := true, termHeld := false, edges := sortEdges (o.1.edges ++ marks)
      varStart := if isVari car then some (z + r.1) else none } := by
    rw [hevents.1.1, Dev.leg, hstatus.2 .legs rfl, hdropped.2 .legs rfl, ← Dev.leg, Dev.leg_setLeg_same]
  have hzero := congrArg LegRt.zero hcore
  have hrunning := congrArg LegRt.running hcore
  have hcarry := congrArg LegRt.carry hcore
  have hheld := congrArg LegRt.termHeld hcore
  have hvar := congrArg LegRt.varStart hcore
  have hlate {q : Par} (hs : Par.apart q Par.legStatus = true) (hr : Par.apart q Par.legRefreshes = true) (hq : q.small = true)
      (hg : [0x60, 0x61, 0xC0].contains q.group = false) : Dev.Spares q dropped e :=
    .frame (.put (.put (.ite (.put (.refl dropped) hr) (.refl dropped)) hs) hs) hevents.2 hq hg
  have hdrops {q : Par} (hp : Par.apart q Par.legPulsesDropped = true) : Dev.Spares q discards dropped := .ite (.refl discards) (.put (.refl discards) hp)
  have hput : discards.getF Par.legCarry n = fofd r.2.1 := by
    have hset : put.getF Par.legCarry n = fofd r.2.1 := Dev.getF_putF_same _ _ _ _
    unfold discards
    split
    · rw [Dev.getF_inc_apart _ _ _ _ _ rfl, hset]
    · exact hset
  have hcount : discards.get Par.legCarryDiscards n = if r.2.2.1 then (d.get Par.legCarryDiscards n + 1) % 2 ^ 32 else d.get Par.legCarryDiscards n := by
    have hset : put.get Par.legCarryDiscards n = d.get Par.legCarryDiscards n := Dev.get_putF_apart _ _ _ _ rfl
    unfold discards
    split
    · rw [Dev.get_inc_same _ _ _ _ (by decide), hset]
    · exact hset
  have hbefore : Dev.Spares Par.legPulsesDropped d discards := .ite (.put (.putF (.upd (.refl d) rfl) rfl) rfl) (.putF (.upd (.refl d) rfl) rfl)
  refine ⟨⟨hzero, hrunning, hcarry, hheld, hvar⟩, fun m hm => ?_, ?_, ?_, ?_⟩
  · rw [hevents.1.2 m hm, Dev.leg, hstatus.2 .legs rfl, hdropped.2 .legs rfl, ← Dev.leg, Dev.leg_setLeg_other _ _ _ _ hm]
  · rw [Dev.getF, hlate rfl rfl rfl rfl, hdrops rfl, ← Dev.getF, hput]
  · rw [(hlate rfl rfl rfl rfl).get, (hdrops rfl).get, hcount]
  · rw [(hlate rfl rfl rfl rfl).get, ← hbefore.get]
    unfold dropped
    split
    · rfl
    · rw [Dev.get_inc_same _ _ _ _ (by decide)]

/-- TRI and SAW are the fixed carriers without a leg to follow. -/
theorem fixed_of_lt {car : Nat} (h : car < 2) : isVari car = false ∧ car ≠ cPs ∧ car ≠ cCft := by
  interval_cases car <;> decide

/-- A carrier zero of TRI or SAW starts the period of a leg in RUN that has not started it yet (R249, R251). -/
theorem Dev.updatePoint_zero {d : Dev} {n : Nat} (hstate : d.get Par.legState n = lsRun) (hwait : (d.leg n).wait ≠ .windowEnd)
    (hcar : d.legSet Par.legCarrier n < 2) (hnew : (d.leg n).running = true → (d.leg n).zero ≠ d.lastZero n d.now) :
    d.updatePoint n false = d.legPeriod n (d.lastZero n d.now) := by
  obtain ⟨hvari, hps, -⟩ := fixed_of_lt hcar
  have hz : d.legZero n d.now = d.lastZero n d.now := by
    unfold Dev.legZero
    simp only [hvari, hps, Bool.false_eq_true, if_false]
  have hhold : ¬ d.get Par.legState n = lsHold := by rw [hstate]; decide
  have hgo : ¬ (d.get Par.legState n ≠ lsRun ∨ (d.leg n).wait = .windowEnd) := fun h => h.elim (· hstate) hwait
  have hnew' : ¬ ((d.leg n).running = true ∧ (d.leg n).zero = d.lastZero n d.now) := fun ⟨hr, h⟩ => hnew hr h
  unfold Dev.updatePoint
  simp only [hvari, Bool.false_eq_true, if_false]
  unfold Dev.legUpdate
  extract_lets x st z
  have hzero : z = d.lastZero n d.now := hz
  clear_value z
  subst hzero
  rw [if_neg hhold, if_neg hgo, if_neg Bool.false_ne_true, if_neg hnew']

theorem Dev.psShorten_of_lt {d : Dev} {n z : Nat} (hcar : d.legSet Par.legCarrier n < 2) : d.psShorten n z = (d.leg n, false) :=
  if_neg fun ⟨h, _⟩ => (fixed_of_lt hcar).2.1 h

theorem Dev.legInterval_of_lt {d : Dev} {n : Nat} {carry : F64} (hcar : d.legSet Par.legCarrier n < 2) : d.legInterval n carry
    = carryRule (dmul (dof (d.leg n).duty) (dint (d.legSet Par.legPeriod n))) carry (d.legSet Par.legPeriod n) (d.legDts n).1 (d.legDts n).2
      (d.get Par.legMinPulse n) := by
  obtain ⟨hvari, hps, hcft⟩ := fixed_of_lt hcar
  unfold Dev.legInterval Dev.legP
  simp only [hvari, Bool.false_eq_true, if_false, if_neg hps, hcft]

/-- The earliest placed edge of a leg in RUN is applied (R252). -/
theorem Dev.legEdge_leg {d : Dev} {n : Nat} {x : LegEdge} {rest : List LegEdge} (hstate : d.get Par.legState n = lsRun) (hedges : (d.leg n).edges = x :: rest) :
    Dev.CountsEvents n (d.setLeg n { d.leg n with edges := rest, hs := x.hi.getD (d.leg n).hs, ls := x.lo.getD (d.leg n).ls }) (d.legEdge n) := by
  unfold Dev.legEdge
  extract_lets y
  split
  · next h => exact absurd (h.symm.trans hedges) (List.cons_ne_nil x rest).symm
  next x' rest' h =>
  obtain ⟨rfl, rfl⟩ := List.cons.inj (h.symm.trans hedges)
  rw [if_neg (fun h => h hstate)]
  extract_lets set cmp zero
  have hcmp : Dev.CountsEvents n set cmp := .ite (Dev.legEvent_counts _ _ _ _) (.refl n set)
  have hzero : Dev.CountsEvents n set zero := .ite ((hcmp.trans (Dev.legEvent_counts _ _ _ _)).trans (Dev.legEvent_counts _ _ _ _)) hcmp
  exact .ite (hzero.trans (Dev.legEvent_counts _ _ _ _)) hzero

/-- t_var_max ends the variable interval of a leg in RUN: its next period starts there (R250). -/
theorem Dev.varMax_starts {d : Dev} {n v : Nat} (hstate : d.get Par.legState n = lsRun) (hstart : (d.leg n).varStart = some v)
    (hend : (d.leg n).seqEnd ≤ v + fineNs (d.get Par.legTVarMax n)) :
    d.varMax n = (d.setLeg n { d.leg n with varStart := none, termHeld := false }).legPeriod n (v + fineNs (d.get Par.legTVarMax n)) := by
  unfold Dev.varMax
  rw [hstart]
  dsimp only
  rw [if_neg (Nat.not_lt.mpr hend), Dev.legVarEnd]
  exact if_pos hstate

end Sys2Proof.Machine

open Sys2Proof Sys2Proof.Machine

/-- Settles O17: a zero of a fixed carrier and the end of a variable interval both start a period, whose effect `Dev.legPeriod_starts` says. -/
theorem legPeriods : Obligations.LegPeriods := by
  unfold Obligations.LegPeriods
  refine ⟨fun t n s hfull htb hstate hwait hcar => ?_, fun t v n s hfull htb hstate hstart hvari hend => .of_whenOn hfull htb rfl fun e he => ?_,
    fun t n s hfull htb hlive hmax => .of_whenOn hfull htb rfl fun e he => ?_,
    fun t n x rest s hfull htb hstate hedges => .of_whenOn hfull htb rfl fun e he => ?_⟩
  · intro z hnew p r drops
    refine .of_whenOn hfull htb rfl fun e he => ?_
    rw [Dev.updatePoint_zero (d := s.dev.atTime t) hstate hwait hcar hnew] at he
    obtain ⟨⟨hzero, hrunning, hcarry, -, -⟩, hother, hout, hdiscards, hdropped⟩ := (s.dev.atTime t).legPeriod_starts n.val z
    have hrule : (s.dev.atTime t).legInterval n.val ((s.dev.atTime t).psShorten n.val z).1.carry = r := by
      rw [Dev.psShorten_of_lt (d := s.dev.atTime t) hcar]
      exact Dev.legInterval_of_lt (d := s.dev.atTime t) hcar
    have hdrops : b2n r.2.2.2 + b2n ((s.dev.atTime t).psShorten n.val z).2 + ((s.dev.atTime t).legFrom n.val z).2.1 = drops := by
      rw [Dev.psShorten_of_lt (d := s.dev.atTime t) hcar]
      exact congrArg (· + _) (Nat.add_zero (b2n r.2.2.2))
    have he' : (s.dev.atTime t).legPeriod n.val z = e := he
    rw [hrule] at hcarry hout hdiscards hdropped
    rw [hdrops] at hdropped
    rw [he'] at hzero hrunning hcarry hother hout hdiscards hdropped
    rw [Dev.leg_settle, Dev.settle_getF _ _ _ rfl, Dev.settle_get _ _ _ rfl, Dev.settle_get _ _ _ rfl]
    exact ⟨hzero, hrunning, hcarry, hout, hdiscards, hdropped, fun m _ hm => by rw [Dev.leg_settle, hother m hm]; rfl⟩
  · obtain ⟨⟨hzero, -, -, hheld, hvar⟩, hother, -⟩ := Dev.legPeriod_starts ((s.dev.atTime t).setLeg n.val { s.dev.leg n.val with varStart := none, termHeld := false }) n.val
      (v + fineNs (s.dev.get Par.legTVarMax n.val))
    have he' := (Dev.varMax_starts (d := s.dev.atTime t) hstate hstart hend).symm.trans he
    have hset : ((s.dev.atTime t).setLeg n.val { s.dev.leg n.val with varStart := none, termHeld := false }).legSet Par.legCarrier n.val
        = s.dev.legSet Par.legCarrier n.val := rfl
    rw [hset, if_pos hvari] at hvar
    have he'' : ((s.dev.atTime t).setLeg n.val { s.dev.leg n.val with varStart := none, termHeld := false }).legPeriod n.val
        (v + fineNs (s.dev.get Par.legTVarMax n.val)) = e := he'
    rw [he''] at hzero hheld hvar hother
    rw [Dev.leg_settle]
    exact ⟨hzero, hheld, by rw [hvar]; rfl, fun m _ hm => by rw [Dev.leg_settle, hother m hm, Dev.leg_setLeg_other _ _ _ _ hm]; rfl⟩
  · have hset : (s.dev.atTime t).refreshTimer n.val = (s.dev.atTime t).setLeg n.val { s.dev.leg n.val with refreshDue := true } := if_pos ⟨hmax, hlive⟩
    rw [hset] at he
    exact ⟨by rw [Dev.leg_settle, ← he, Dev.leg_setLeg_same], fun m _ hm => by rw [Dev.leg_settle, ← he, Dev.leg_setLeg_other _ _ _ _ hm]; rfl⟩
  · obtain ⟨hleg, hother⟩ := Dev.legEdge_leg (d := s.dev.atTime t) hstate hedges
    rw [he, Dev.leg_setLeg_same] at hleg
    have hrest := congrArg LegRt.edges hleg
    have hhs := congrArg LegRt.hs hleg
    have hls := congrArg LegRt.ls hleg
    rw [he] at hother
    rw [Dev.leg_settle]
    exact ⟨hrest, hhs, hls, fun m _ hm => by rw [Dev.leg_settle, hother m hm, Dev.leg_setLeg_other _ _ _ _ hm]; rfl⟩

end

section
/-! PROOF. The timers of source ports (R227 to R237). -/

namespace Sys2Proof.Machine

theorem Dev.port_settle (d old : Dev) (p : Nat) : (d.settle old).port p = d.port p := by rw [Dev.port, Dev.settle_ports, Dev.port]

theorem Dev.port_of_ports {d e : Dev} (h : e.ports = d.ports) (p : Nat) : e.port p = d.port p := by rw [Dev.port, h, Dev.port]

theorem Dev.setPort_spares {q : Par} (d : Dev) (p : Nat) (x : PortRt) : Dev.Spares q d (d.setPort p x) := fun _ => rfl

/-! ## The slot of the stagger (R227) -/

/-- A pass that counts at each listed index but one. -/
theorem Dev.get_forL_inc (p : Par) (hp : p.small = true) (pick : Option Nat) (xs : List Nat) (hxs : xs.Nodup) (i : Nat) (d : Dev) :
    (d.forL xs (fun d q => if pick = some q then d else d.inc 32 p q)).get p i
      = if i ∈ xs ∧ pick ≠ some i then (d.get p i + 1) % 2 ^ 32 else d.get p i := by
  induction xs generalizing d with
  | nil => rw [if_neg fun ⟨h, _⟩ => List.not_mem_nil h]; rfl
  | cons x xs ih =>
    obtain ⟨hx, hxs⟩ := List.nodup_cons.mp hxs
    have hstep : (d.forL (x :: xs) fun d q => if pick = some q then d else d.inc 32 p q)
        = (if pick = some x then d else d.inc 32 p x).forL xs fun d q => if pick = some q then d else d.inc 32 p q := rfl
    rw [hstep, ih hxs]
    by_cases hi : i = x
    · subst hi
      have hnot : ¬ (i ∈ xs ∧ pick ≠ some i) := fun ⟨h, _⟩ => hx h
      rw [if_neg hnot]
      by_cases hpick : pick = some i
      · rw [if_pos hpick, if_neg fun ⟨_, h⟩ => h hpick]
      · rw [if_neg hpick, if_pos ⟨List.mem_cons_self, hpick⟩, Dev.get_inc_same _ _ _ _ (by decide)]
    · have hsame : (if pick = some x then d else d.inc 32 p x).get p i = d.get p i := by
        split
        · rfl
        · exact d.get_inc_inst 32 1 hp hi
      rw [hsame]
      simp only [List.mem_cons, hi, false_or]

/-- The ports that wait for a slot (R227). -/
def Dev.duePorts (d : Dev) : List Nat := d.portsUsed.filter fun p => d.isPv p && (d.port p).due.isSome && !(d.port p).opening
    && (d.get Par.portState p == psTrack || d.get Par.portState p == psOpen)

theorem Dev.mem_duePorts {d : Dev} {p : Nat} : p ∈ d.duePorts ↔ p ∈ d.portsUsed ∧ d.isPv p = true ∧ (d.port p).due.isSome = true ∧ (d.port p).opening = false
    ∧ (d.get Par.portState p = psTrack ∨ d.get Par.portState p = psOpen) := by
  simp only [Dev.duePorts, List.mem_filter, Bool.and_eq_true, Bool.or_eq_true, beq_iff_eq, Bool.not_eq_true', and_assoc]

theorem Dev.duePorts_nodup (d : Dev) : d.duePorts.Nodup := (List.nodup_range.filter _).filter _

/-- While some converter rides through a fault, no port starts and each that waits counts (R227). -/
theorem Dev.staggerSlot_frt {d : Dev} (h : d.anyFrt = true) :
    d.staggerSlot = d.forL d.duePorts fun d p => if (none : Option Nat) = some p then d else d.inc 32 Par.portSamplesLate p := by
  unfold Dev.staggerSlot
  rw [h]
  rfl

theorem eq_singleton {xs : List Nat} {p : Nat} (hn : xs.Nodup) (hp : p ∈ xs) (h : ∀ q ∈ xs, q = p) : xs = [p] := by
  cases xs with
  | nil => cases hp
  | cons a t =>
    obtain ⟨ha, -⟩ := List.nodup_cons.mp hn
    have hap := h a List.mem_cons_self
    cases t with
    | nil => rw [hap]
    | cons b u => exact absurd (hap.trans (h b (by simp)).symm ▸ List.mem_cons_self) ha

/-- A port that alone waits, with no other open, is chosen (R227). -/
theorem Dev.staggerSlot_one {d : Dev} {p : Nat} (h : d.anyFrt = false) (hp : p ∈ d.duePorts) (hother : ∀ q < 32, q ≠ p → (d.port q).due = none ∧ d.get Par.portState q ≠ psOpen) :
    d.staggerSlot = d.setPort p { d.port p with chosen := true } := by
  have hused {q : Nat} (hq : q ∈ d.portsUsed) : q < 32 := List.mem_range.mp (List.mem_filter.mp hq).1
  have hone : d.duePorts = [p] := eq_singleton d.duePorts_nodup hp fun q hq => by
    obtain ⟨hu, -, hdue, -⟩ := Dev.mem_duePorts.mp hq
    by_contra hne
    rw [(hother q (hused hu) hne).1] at hdue
    cases hdue
  have hbusy : (d.portsUsed.any fun q => q != p && d.get Par.portState q == psOpen) = false := by
    rw [List.any_eq_false]
    intro q hq
    by_cases hqp : q = p
    · simp [hqp]
    · simp [(hother q (hused hq) hqp).2]
  unfold Dev.staggerSlot
  extract_lets ps order busy pick late
  have hps : ps = [p] := hone
  have hpick : pick = some p := by
    simp only [pick, h, order, hps, sortBy, insertBy, busy, Bool.false_eq_true, if_false, List.find?_cons, hbusy, Bool.not_false]
  have hlate : late = d := by
    simp only [late, hps, Dev.forL, List.foldl_cons, List.foldl_nil, hpick, if_true]
  rw [hpick]
  dsimp only
  rw [hlate]

/-- The end of an opening (R229): it is counted and over, and with a valid Voc, now or before, the port tracks from it. -/
theorem Dev.openingEnd_counts {d : Dev} {p : Nat} (hopen : (d.port p).opening = true) (hn : d.openBeats p ≤ (d.port p).openN) :
    (d.openingEnd p).get Par.portSamples p = (d.get Par.portSamples p + 1) % 2 ^ 32 ∧ ((d.openingEnd p).port p).opening = false
    ∧ ((d.openingEnd p).port p).openV = []
    ∧ ((d.port p).vocOk = true → (d.openingEnd p).get Par.portState p = psTrack ∧ ((d.openingEnd p).port p).vocOk = true
        ∧ (d.openingEnd p).getF Par.portVTarget p = (d.openingEnd p).getF Par.portVoc p)
    ∧ ∀ q, q ≠ p → (d.openingEnd p).port q = d.port q := by
  have hgo : ¬ ((!(d.port p).opening) = true ∨ (d.port p).openN < d.openBeats p) := by
    rw [hopen]
    exact fun h => h.elim Bool.false_ne_true (Nat.not_lt.mpr hn)
  generalize he : d.openingEnd p = e
  unfold Dev.openingEnd at he
  extract_lets x ob k win vs voc mx mn ok counted judged good y v set track at he
  rw [if_neg hgo] at he
  have hcounted : d.Agree [0x30] [] counted := .inc rfl rfl .refl
  have hjudged : counted.Agree [0x30, 0xC0] [.evt] judged :=
    .ite (fun _ => .put rfl rfl (.putF rfl rfl .refl)) (fun _ => .step (Dev.raise_frame _ _ _ _ _) rfl rfl (.inc rfl rfl .refl))
  have hports : judged.ports = d.ports := (hjudged.2 .ports rfl).trans (hcounted.2 .ports rfl)
  have hcount : judged.get Par.portSamples p = (d.get Par.portSamples p + 1) % 2 ^ 32 := by
    have hspares : Dev.Spares Par.portSamples counted judged :=
      .ite (.put (.putF (.refl counted) rfl) rfl) (.frame (.put (.refl counted) rfl) (Dev.raise_frame _ _ _ _ _) rfl rfl)
    rw [hspares.get, Dev.get_inc_same _ _ _ _ (by decide)]
  clear hcounted hjudged
  clear_value judged ok
  split at he
  · next hgood =>
    have hrefs : (track.putF Par.portVTarget p v).Agree [0x20] [] ((track.putF Par.portVTarget p v).portRefs p v f0) := Dev.portRefs_frame _ p v f0
    rw [he] at hrefs
    have hset : set.Agree [0x20, 0x30] [] e := (Dev.Agree.putF rfl rfl (.putBit rfl rfl (.put rfl rfl .refl))).trans (hrefs.mono rfl rfl)
    have hport (q : Nat) : e.port q = set.port q := Dev.port_of_ports (hset.2 .ports rfl) q
    refine ⟨?_, ?_, ?_, fun hvoc => ⟨?_, ?_, ?_⟩, fun q hq => ?_⟩
    · have hspares : Dev.Spares Par.portSamples judged (track.putF Par.portVTarget p v) := .putF (.put (.put (judged.setPort_spares p _) rfl) rfl) rfl
      rw [(hspares.frame hrefs rfl rfl).get, hcount]
    · rw [hport, Dev.port_setPort_same]
    · rw [hport, Dev.port_setPort_same]
    · rw [hrefs.get _ _ rfl rfl, Dev.get_putF_apart _ _ _ _ rfl, Dev.get_putBit_apart _ _ _ _ _ rfl, Dev.get_put_same]
      rfl
    · rw [hport, Dev.port_setPort_same]
      exact hgood
    · have hspares : Dev.Spares Par.portVoc judged (track.putF Par.portVTarget p v) := .putF (.put (.put (judged.setPort_spares p _) rfl) rfl) rfl
      rw [hrefs.getF _ _ rfl rfl, Dev.getF_putF_same, Dev.getF, hspares.frame hrefs rfl rfl, ← Dev.getF]
    · rw [hport, Dev.port_setPort_other _ _ _ _ hq, Dev.port_of_ports hports]
  · next hbad =>
    have hvoc : (d.port p).vocOk = false := by
      cases h : (d.port p).vocOk with
      | false => rfl
      | true => exact absurd (by simp only [good, x, h, Bool.or_true]) hbad
    subst he
    refine ⟨((judged.setPort_spares p y).get p).trans hcount, ?_, ?_, fun h => absurd h (by rw [hvoc]; decide), fun q hq => ?_⟩
    · rw [Dev.port_setPort_same]
    · rw [Dev.port_setPort_same]
    · rw [Dev.port_setPort_other _ _ _ _ hq, Dev.port_of_ports hports]

/-- The save of the stored energies of the ports below `k` (R234). -/
def Dev.energiesSaved (d : Dev) (k : Nat) : Dev := d.forN k (fun d p =>
    if d.isPv p then d
    else { d with pwr := { d.pwr with energies := d.pwr.energies.set (fun _ => d0) p (d.port p).energy } })

theorem Dev.energiesSaved_succ (d : Dev) (k : Nat) : d.energiesSaved (k + 1) = if (d.energiesSaved k).isPv k then d.energiesSaved k
    else { d.energiesSaved k with pwr := { (d.energiesSaved k).pwr with
      energies := (d.energiesSaved k).pwr.energies.set (fun _ => d0) k ((d.energiesSaved k).port k).energy } } := by
  unfold Dev.energiesSaved
  rw [Dev.forN, List.range_succ, List.foldl_append]
  rfl

theorem Dev.energiesSaved_agree (d : Dev) (k : Nat) : d.Agree [] [.pwr] (d.energiesSaved k) :=
  .forN (fun _ _ h => .ite (fun _ => h) (fun _ => .upd_pwr rfl h)) .refl

/-- The table of stored energies after the save. -/
theorem Dev.energySave_energies (d : Dev) {p : Nat} (hp : p < 32) : d.energySave.pwr.energies.get (fun _ => d0) p
    = if d.isPv p then d.pwr.energies.get (fun _ => d0) p else (d.port p).energy := by
  have hpass (k : Nat) : ((d.energiesSaved k).pwr.energies.get (fun _ => d0) p
      = if p < k ∧ d.isPv p = false then (d.port p).energy else d.pwr.energies.get (fun _ => d0) p) := by
    induction k with
    | zero => rfl
    | succ k ih =>
      have hk := d.energiesSaved_agree k
      have hpv : (d.energiesSaved k).isPv k = d.isPv k := by rw [Dev.isPv, hk.get _ _ rfl rfl, Dev.isPv]
      have hport : (d.energiesSaved k).port k = d.port k := Dev.port_of_ports (hk.2 .ports rfl) k
      rw [d.energiesSaved_succ k, hpv, hport]
      clear hk hpv hport
      generalize d.energiesSaved k = x at ih
      by_cases hpk : p = k
      · subst hpk
        rw [if_neg fun ⟨h, _⟩ => lt_irrefl p h] at ih
        cases hkind : d.isPv p with
        | true => simpa using ih
        | false => simp
      · have hlt : p < k + 1 ↔ p < k := by omega
        cases hkind : d.isPv k with
        | true => simpa only [hlt, if_true] using ih
        | false => simpa only [hlt, if_false, Bool.false_eq_true, Tab.get_set_other _ _ _ _ _ hpk] using ih
  have hall := hpass 32
  have hsave : d.energiesSaved 32 = d.energySave := rfl
  rw [hsave] at hall
  rw [hall]
  cases h : d.isPv p with
  | true => simp
  | false => simp [hp]

end Sys2Proof.Machine

open Sys2Proof Sys2Proof.Machine

/-- Settles O19: each timer changes the record of its own port, and the slot of the stagger chooses the only port that waits. -/
theorem portTimers : Obligations.PortTimers := by
  unfold Obligations.PortTimers
  refine ⟨⟨fun t p s hfull htb hfrt hused hpv hdue hopening hstate => .of_whenOn hfull htb rfl fun e he => ?_,
    fun t p s hfull htb hfrt hused hpv hdue hopening hstate hother => .of_whenOn hfull htb rfl fun e he => ?_,
    fun t p s hfull htb htop hpv hopening hstate => .of_whenOn hfull htb rfl fun e he => ?_⟩,
    ⟨fun t p s hfull htb hopening hn => .of_whenOn hfull htb rfl fun e he => ?_, fun t N p s hfull htb hN hN0 hdither => ?_⟩,
    fun t s hrun => .of_does rfl fun e he => ?_, fun t p s hfull htb hstate hends hzero => .of_whenOn hfull htb rfl fun e he => ?_⟩
  · have hport : e.port p.val = s.dev.port p.val := by
      rw [← he, Dev.staggerSlot_frt (d := s.dev.atTime t) hfrt]
      exact Dev.port_of_ports ((Dev.Agree.forL (fun _ _ h => .ite (fun _ => h) (fun _ => .inc (cs := [0x30]) (fs := []) rfl rfl h)) .refl).2 .ports rfl) p.val
    have hcount := Dev.get_forL_inc Par.portSamplesLate rfl none _ (s.dev.atTime t).duePorts_nodup p.val (s.dev.atTime t)
    rw [← Dev.staggerSlot_frt (d := s.dev.atTime t) hfrt, he, if_pos ⟨Dev.mem_duePorts.mpr ⟨hused, hpv, hdue, hopening, hstate⟩, nofun⟩] at hcount
    rw [Dev.settle_get _ _ _ rfl, Dev.port_settle]
    exact ⟨hcount, hport⟩
  · have heq := (Dev.staggerSlot_one (d := s.dev.atTime t) hfrt (Dev.mem_duePorts.mpr ⟨hused, hpv, hdue, hopening, .inl hstate⟩) hother).symm.trans he
    subst heq
    rw [Dev.port_settle, Dev.port_setPort_same, Dev.settle_get _ _ _ rfl, (Dev.setPort_spares _ _ _).get]
    exact ⟨rfl, rfl, fun q _ hq => by rw [Dev.port_settle, Dev.port_setPort_other _ _ _ _ hq]; rfl⟩
  · have hdue : (s.dev.atTime t).portDue p.val = (s.dev.atTime t).setPort p.val
        { s.dev.port p.val with due := some ((s.dev.port p.val).due.getD (s.dev.instant t)) } :=
      if_pos ⟨by simpa using htop, hpv, hstate, congrArg not hopening⟩
    rw [hdue] at he
    subst he
    rw [Dev.port_settle, Dev.port_setPort_same]
    exact ⟨rfl, fun q _ hq => by rw [Dev.port_settle, Dev.port_setPort_other _ _ _ _ hq]; rfl⟩
  · obtain ⟨hcount, hended, hsamples, htrack, hother⟩ := Dev.openingEnd_counts (d := s.dev.atTime t) (p := p.val) hopening hn
    rw [he] at hcount hended hsamples htrack hother
    rw [Dev.settle_get _ _ _ rfl, Dev.port_settle, Dev.settle_get _ _ _ rfl, Dev.settle_getF _ _ _ rfl, Dev.settle_getF _ _ _ rfl]
    exact ⟨hcount, hended, hsamples, htrack, fun q _ hq => by rw [Dev.port_settle, hother q hq]; rfl⟩
  · intro hi lo dead trim m
    subst hN
    refine .of_whenOn hfull htb rfl fun e he => ?_
    have hgo : ¬ ((((s.dev.atTime t).port p.val).ditherN != some ((s.dev.atTime t).ditherBeats p.val)) = true ∨ (s.dev.atTime t).ditherBeats p.val = 0) :=
      fun h => h.elim (fun h => bne_iff_ne.mp h hdither) hN0
    unfold Dev.ditherEnd at he
    extract_lets x N half hi' lo' dead' trim' step moved m' at he
    rw [if_neg hgo] at he
    subst he
    rw [Dev.port_settle, Dev.settle_getF _ _ _ rfl, Dev.getF_putF_same]
    rw [Dev.port_of_ports (Dev.putF_ports _ _ _ _), Dev.port_setPort_same]
    exact ⟨rfl, rfl⟩
  · obtain ⟨w, hpwr⟩ := Dev.settle_pwr e (s.dev.atTime t)
    have hup : (s.dev.atTime t).energySave = e := (if_pos (Dev.up_of_run (d := s.dev.atTime t) hrun)).symm.trans he
    have henergies : (e.settle (s.dev.atTime t)).pwr.energies = e.pwr.energies := by rw [hpwr]
    intro p hp
    have hsaved := (s.dev.atTime t).energySave_energies hp
    rw [hup, ← henergies] at hsaved
    exact hsaved
  · have hgo : (s.dev.atTime t).get Par.portBurstState p.val = 3 ∧ ((((s.dev.atTime t).port p.val).burstDown.isSome = true)
        ∨ ((s.dev.atTime t).port p.val).burstLen ≤ ((s.dev.atTime t).port p.val).burstEl) ∧ fle ((s.dev.atTime t).port p.val).pBurst f0 = true := ⟨hstate, hends, hzero⟩
    unfold Dev.burstEnd at he
    extract_lets x idle result at he
    rw [if_pos hgo] at he
    subst he
    rw [Dev.settle_get _ _ _ rfl, Dev.settle_get _ _ _ rfl, Dev.port_settle, (Dev.setPort_spares _ _ _).get, (Dev.setPort_spares _ _ _).get, Dev.port_setPort_same]
    refine ⟨?_, rfl, ?_, fun q _ hq => ?_⟩
    · rw [Dev.get_put_apart _ _ _ _ rfl, Dev.get_put_same]
      rfl
    · rw [Dev.get_put_same]
      have hends : x.burstEnds = (s.dev.port p.val).burstEnds := rfl
      rw [hends]
      cases (s.dev.port p.val).burstEnds with
      | completed => rfl
      | aborted => rfl
      | truncated => rfl
    · rw [Dev.port_settle, Dev.port_setPort_other _ _ _ _ hq]
      rfl

end

section
/-! PROOF. The metering engine (R281 to R294). -/

namespace Sys2Proof.Machine

/-! ## The elements of the engine -/

/-- What of an element's record only its samples change: the corrections of its channels, and its history. -/
def MetRt.corrected (x : MetRt) : MetCh × MetCh × List F64 := (x.v, x.i, x.vHist)

/-- From `d` to `e` the corrections and the history of element `n` stay, and so do the other elements. -/
def Dev.KeepsSamples (n : Nat) (d e : Dev) : Prop := (e.met1 n).corrected = (d.met1 n).corrected ∧ ∀ m, m ≠ n → e.met1 m = d.met1 m

variable {n : Nat}

theorem Dev.met1_of_el {d e : Dev} (h : e.met.el = d.met.el) (m : Nat) : e.met1 m = d.met1 m := by rw [Dev.met1, h, Dev.met1]

theorem Dev.met1_of_met {d e : Dev} (h : e.met = d.met) (m : Nat) : e.met1 m = d.met1 m := by rw [Dev.met1, h, Dev.met1]

theorem Dev.KeepsSamples.of_el {d e : Dev} (h : e.met.el = d.met.el) : Dev.KeepsSamples n d e :=
  ⟨by rw [Dev.met1_of_el h], fun m _ => Dev.met1_of_el h m⟩

theorem Dev.KeepsSamples.refl (d : Dev) : Dev.KeepsSamples n d d := .of_el rfl

theorem Dev.KeepsSamples.trans {a b c : Dev} (h : Dev.KeepsSamples n a b) (g : Dev.KeepsSamples n b c) : Dev.KeepsSamples n a c :=
  ⟨g.1.trans h.1, fun m hm => (g.2 m hm).trans (h.2 m hm)⟩

theorem Dev.KeepsSamples.ite {a x y : Dev} {c : Prop} [Decidable c] (h : Dev.KeepsSamples n a x) (g : Dev.KeepsSamples n a y) :
    Dev.KeepsSamples n a (if c then x else y) := by
  split
  · exact h
  · exact g

theorem Dev.met1_setMet1_same (d : Dev) (e : Nat) (x : MetRt) : (d.setMet1 e x).met1 e = x := Tab.get_set_same (fun _ => ({} : MetRt)) d.met.el e x

theorem Dev.met1_setMet1_other (d : Dev) {e m : Nat} (x : MetRt) (h : m ≠ e) : (d.setMet1 e x).met1 m = d.met1 m :=
  Tab.get_set_other (fun _ => ({} : MetRt)) d.met.el e m x h

theorem Dev.KeepsSamples.setMet1 {a d : Dev} {x : MetRt} (h : Dev.KeepsSamples n a d) (hx : x.corrected = (d.met1 n).corrected) :
    Dev.KeepsSamples n a (d.setMet1 n x) :=
  h.trans ⟨by rw [Dev.met1_setMet1_same, hx], fun _ hm => d.met1_setMet1_other x hm⟩

theorem Dev.metRegister_el (d : Dev) (e : Nat) (ep eq es : F64) : (d.metRegister e ep eq es).met.el = d.met.el := by
  unfold Dev.metRegister
  extract_lets pNeg active reactive
  have hreactive : reactive.met.el = active.met.el := by
    unfold reactive
    split <;> rfl
  exact hreactive

theorem Dev.metRegister_slots (d : Dev) (e : Nat) (ep eq es : F64) :
    (d.metRegister e ep eq es).met.slots = d.met.slots ∧ (d.metRegister e ep eq es).met.armed = d.met.armed := by
  unfold Dev.metRegister
  extract_lets pNeg active reactive
  have hreactive : reactive.met.slots = active.met.slots ∧ reactive.met.armed = active.met.armed := by
    unfold reactive
    split <;> exact ⟨rfl, rfl⟩
  exact hreactive

/-- The end of a period (R285): the element is without samples of the present period; the other elements stay. -/
theorem Dev.metPeriod_met1 (d : Dev) (e : Nat) (len : F64) (f : Option F64) (newer : Nat) :
    Dev.KeepsSamples e d (d.metPeriod e len f newer) ∧ ((d.metPeriod e len f newer).met1 e).timeout = (d.met1 e).timeout
      ∧ ((d.metPeriod e len f newer).met1 e).vs = [] ∧ ((d.metPeriod e len f newer).met1 e).is = [] := by
  generalize hr : d.metPeriod e len f newer = r
  unfold Dev.metPeriod at hr
  extract_lets x k t quarter hist idx vr ir p q cs p1 q1 s pf noLoad fs out freq wasOut closed rms powers freqs status told ep eq es registered src at hr
  have htold : closed.Agree [0x50, 0xC0] [.evt] told := by
    have hstatus : closed.Agree [0x50, 0xC0] [.evt] status := .put rfl rfl (.putF rfl rfl (.putF rfl rfl (.putF rfl rfl (.putF rfl rfl (.putF rfl rfl
      (.putF rfl rfl (.putF rfl rfl .refl)))))))
    exact .ite (fun _ => .step (Dev.raise_frame _ _ _ _ _) rfl rfl hstatus) (fun _ => hstatus)
  have hel : r.met.el = closed.met.el := by
    rw [← congrArg MetSt.el (htold.2 .met rfl : told.met = closed.met), ← hr]
    split
    · rfl
    · split
      · exact told.metRegister_el e ep eq es
      · exact told.metRegister_el e ep eq es
  have hclosed (m : Nat) : r.met1 m = closed.met1 m := Dev.met1_of_el hel m
  refine ⟨⟨?_, fun m hm => ?_⟩, ?_, ?_, ?_⟩
  · rw [hclosed, Dev.met1_setMet1_same]; rfl
  · rw [hclosed, Dev.met1_setMet1_other _ _ hm]
  · rw [hclosed, Dev.met1_setMet1_same]
  · rw [hclosed, Dev.met1_setMet1_same]
  · rw [hclosed, Dev.met1_setMet1_same]

/-- A crossing (R284) leaves the corrections and the history. -/
theorem Dev.metCrossing_keepsSamples (d : Dev) (e : Nat) (frac : F64) : Dev.KeepsSamples e d (d.metCrossing e frac) := by
  unfold Dev.metCrossing
  extract_lets x rest len ended closed src started src'
  have hperiod (y : Dev) (l : F64) (f : Option F64) : Dev.KeepsSamples e y (y.metPeriod e l f 1) := (y.metPeriod_met1 e l f 1).1
  have hended : Dev.KeepsSamples e d ended := .setMet1 (.refl d) rfl
  have hclosed : Dev.KeepsSamples e d closed := (hended.trans (.of_el (e := ended.putBit Par.metrStatus e 1 false) rfl)).trans (hperiod _ _ _)
  have hstarted : Dev.KeepsSamples e d started := by
    unfold started
    split
    · exact hperiod _ _ _
    · exact .setMet1 (.refl d) rfl
  split
  · split
    · exact .ite (.setMet1 hclosed rfl) (.setMet1 (.refl d) rfl)
    · exact .setMet1 (.refl d) rfl
  · exact .setMet1 hstarted rfl

/-- The sample of an element (R281, R283): it takes the corrected values; the other elements stay. -/
theorem Dev.metElement_takes (d : Dev) (e : Nat) (vc ic : Int) (hon : d.isOn Par.metrEnable e = true) :
    let v := metChannel (d.met1 e).v vc (d.getF Par.metrVFs e) (d.isOn Par.metrHpf e) (d.getF Par.metrVOffset e) (d.getF Par.metrVGain e) (d.getI Par.metrVDelay e)
    let i := metChannel (d.met1 e).i ic (d.getF Par.metrIFs e) (d.isOn Par.metrHpf e) (d.getF Par.metrIOffset e) (d.getF Par.metrIGain e) (d.getI Par.metrIDelay e)
    ((d.metElement e vc ic).met1 e).corrected = (v.2, i.2, (v.1 :: (d.met1 e).vHist).take 440)
      ∧ ((d.metElement e vc ic).met1 e).vs.head? = some v.1 ∧ ((d.metElement e vc ic).met1 e).is.head? = some i.1
      ∧ ∀ m, m ≠ e → (d.metElement e vc ic).met1 m = d.met1 m := by
  intro v i
  generalize hr : d.metElement e vc ic = r
  unfold Dev.metElement at hr
  extract_lets x hpf vf v' i' prev half low since counts crossing ovr told sampled crossed y at hr
  have hon' : ¬ (!d.isOn Par.metrEnable e) = true := by rw [hon]; decide
  rw [if_neg hon'] at hr
  have htold (m : Nat) : told.met1 m = d.met1 m := Dev.met1_of_met ((Dev.Agree.ite (fun _ => Dev.raise_frame _ _ _ _ _) (fun _ => .refl) : d.Agree [0xC0] [.evt] told).2 .met rfl) m
  have hcrossed : Dev.KeepsSamples e sampled crossed := .ite (Dev.metCrossing_keepsSamples _ _ _) (.refl sampled)
  have hsampled : (sampled.met1 e).corrected = (v.2, i.2, (v.1 :: (d.met1 e).vHist).take 440) := by rw [Dev.met1_setMet1_same]; rfl
  subst hr
  refine ⟨?_, ?_, ?_, fun m hm => ?_⟩
  · rw [Dev.met1_setMet1_same, ← hsampled, ← hcrossed.1]
    rfl
  · rw [Dev.met1_setMet1_same]
    rfl
  · rw [Dev.met1_setMet1_same]
    rfl
  · rw [Dev.met1_setMet1_other _ _ hm, hcrossed.2 m hm, Dev.met1_setMet1_other _ _ hm, htold]

/-! ## The settings of an element -/

/-- The settings that a sample reads (Table 13.1). -/
def metSettings : List Par := [Par.metrEnable, Par.metrVSel, Par.metrVFs, Par.metrIFs, Par.metrHpf, Par.metrVGain, Par.metrIGain, Par.metrVOffset,
  Par.metrIOffset, Par.metrVDelay, Par.metrIDelay]

/-- The parameters of an element that the end of a period writes (Table 13.2). -/
def metResults : List Par := [Par.metrVRms, Par.metrIRms, Par.metrP, Par.metrQ, Par.metrS, Par.metrPf, Par.metrFreq, Par.metrStatus]

theorem metSettings_apart : ∀ q ∈ metSettings, ∀ p ∈ metResults, Par.apart q p = true := by decide

theorem metSettings_small : ∀ q ∈ metSettings, q.small = true ∧ [0xC0].contains q.group = false ∧ [0x60, 0x61, 0xC0].contains q.group = false := by decide

variable {q : Par}

theorem Dev.setMet1_spares (d : Dev) (e : Nat) (x : MetRt) : Dev.Spares q d (d.setMet1 e x) := fun _ => rfl

theorem Dev.metPeriod_spares (hq : ∀ p ∈ metResults, Par.apart q p = true) (hsmall : q.small = true) (hgroup : [0xC0].contains q.group = false)
    (d : Dev) (e : Nat) (len : F64) (f : Option F64) (newer : Nat) : Dev.Spares q d (d.metPeriod e len f newer) := by
  unfold Dev.metPeriod
  extract_lets x k t quarter hist idx vr ir p q' cs p1 q1 s pf noLoad fs out freq wasOut closed rms powers freqs status told ep eq es registered src
  have hclosed : Dev.Spares q d closed := d.setMet1_spares e _
  clear_value vr ir s p1 q1 pf noLoad out freq wasOut closed
  have hrms : Dev.Spares q d rms := .putF (.putF (.putF hclosed (hq _ (by decide))) (hq _ (by decide))) (hq _ (by decide))
  have hpowers : Dev.Spares q d powers := .putF (.putF (.putF hrms (hq _ (by decide))) (hq _ (by decide))) (hq _ (by decide))
  have hstatus : Dev.Spares q d status := .put (.putF hpowers (hq _ (by decide))) (hq _ (by decide))
  have htold : Dev.Spares q d told := .ite (.frame hstatus (Dev.raise_frame _ _ _ _ _) hsmall hgroup) hstatus
  have hregistered : Dev.Spares q d registered := .frame htold (Dev.metRegister_frame _ _ _ _ _) hsmall rfl
  exact .ite htold (.ite (.upd hregistered rfl) hregistered)

theorem Dev.metCrossing_spares (hq : ∀ p ∈ metResults, Par.apart q p = true) (hsmall : q.small = true) (hgroup : [0xC0].contains q.group = false)
    (d : Dev) (e : Nat) (frac : F64) : Dev.Spares q d (d.metCrossing e frac) := by
  unfold Dev.metCrossing
  extract_lets x rest len ended closed src started src'
  have hset (y : Dev) (z : MetRt) : Dev.Spares q y (y.setMet1 e z) := .upd (.refl y) rfl
  have hclosed : Dev.Spares q d closed := (Dev.Spares.put (hset d _) (hq Par.metrStatus (by decide))).trans (Dev.metPeriod_spares hq hsmall hgroup _ _ _ _ _)
  have hstarted : Dev.Spares q d started := by
    unfold started
    split
    · exact Dev.metPeriod_spares hq hsmall hgroup _ _ _ _ _
    · exact hset d _
  split
  · split
    · exact .ite (hclosed.trans (hset _ _)) (hset d _)
    · exact hset d _
  · exact hstarted.trans (hset _ _)

/-- The sample of an element leaves what it does not report (Table 13.2). -/
theorem Dev.metElement_spares (hq : ∀ p ∈ metResults, Par.apart q p = true) (hsmall : q.small = true) (hgroup : [0xC0].contains q.group = false)
    (d : Dev) (e : Nat) (vc ic : Int) : Dev.Spares q d (d.metElement e vc ic) := by
  unfold Dev.metElement
  extract_lets x hpf vf v i prev half low since counts crossing ovr told sampled crossed y
  have htold : Dev.Spares q d told := .ite (.frame (.refl d) (Dev.raise_frame _ _ _ _ _) hsmall hgroup) (.refl d)
  have hsampled : Dev.Spares q d sampled := .upd htold rfl
  have hcrossed : Dev.Spares q d crossed := .ite (hsampled.trans (Dev.metCrossing_spares hq hsmall hgroup _ _ _)) hsampled
  exact .ite (.refl d) (.upd hcrossed rfl)

/-- What a sample of the eight channels makes of element `e` between `d` and `x` (R281, R283). -/
def Dev.TookSample (vs is : List Int) (e : Nat) (d x : Dev) : Prop :=
  if d.isOn Par.metrEnable e then
    let v := metChannel (d.met1 e).v (vs.getD (d.get Par.metrVSel e) 0) (d.getF Par.metrVFs e) (d.isOn Par.metrHpf e)
      (d.getF Par.metrVOffset e) (d.getF Par.metrVGain e) (d.getI Par.metrVDelay e)
    let i := metChannel (d.met1 e).i (is.getD e 0) (d.getF Par.metrIFs e) (d.isOn Par.metrHpf e)
      (d.getF Par.metrIOffset e) (d.getF Par.metrIGain e) (d.getI Par.metrIDelay e)
    (x.met1 e).v = v.2 ∧ (x.met1 e).i = i.2 ∧ (x.met1 e).vHist = (v.1 :: (d.met1 e).vHist).take 440
      ∧ (x.met1 e).vs.head? = some v.1 ∧ (x.met1 e).is.head? = some i.1
  else x.met1 e = d.met1 e

/-- Only the element's settings and record before count, and its record after. -/
theorem Dev.TookSample.congr {vs is : List Int} {e : Nat} {d d' x x' : Dev} (h : Dev.TookSample vs is e d' x) (hset : ∀ q ∈ metSettings, Dev.Spares q d d')
    (hbefore : d'.met1 e = d.met1 e) (hafter : x'.met1 e = x.met1 e) : Dev.TookSample vs is e d x' := by
  have hraw (q : Par) (hq : q ∈ metSettings) : d'.raw q e = d.raw q e := hset q hq e
  unfold Dev.TookSample at h ⊢
  simp only [Dev.isOn, Dev.get, Dev.getF, Dev.getI, hbefore, hraw Par.metrEnable (by decide), hraw Par.metrVSel (by decide), hraw Par.metrVFs (by decide), hraw Par.metrIFs (by decide),
    hraw Par.metrHpf (by decide), hraw Par.metrVGain (by decide), hraw Par.metrIGain (by decide), hraw Par.metrVOffset (by decide), hraw Par.metrIOffset (by decide),
    hraw Par.metrVDelay (by decide), hraw Par.metrIDelay (by decide)] at h
  rw [hafter]
  exact h

/-- The samples of the elements below `k`. -/
def Dev.metElements (d : Dev) (vs is : List Int) (k : Nat) : Dev := d.forN k (fun d e => d.metElement e (vs.getD (d.get Par.metrVSel e) 0) (is.getD e 0))

theorem Dev.metElements_succ (d : Dev) (vs is : List Int) (k : Nat) : d.metElements vs is (k + 1)
    = (d.metElements vs is k).metElement k (vs.getD ((d.metElements vs is k).get Par.metrVSel k) 0) (is.getD k 0) := by
  unfold Dev.metElements
  rw [Dev.forN, List.range_succ, List.foldl_append]
  rfl

theorem Dev.metElements_spares (d : Dev) (vs is : List Int) (k : Nat) (hq : q ∈ metSettings) : Dev.Spares q d (d.metElements vs is k) :=
  .forN (fun x e => x.metElement_spares (metSettings_apart q hq) (metSettings_small q hq).1 (metSettings_small q hq).2.1 e _ _) k d

theorem Dev.metElement_tookSample (d : Dev) (vs is : List Int) (e : Nat) :
    Dev.TookSample vs is e d (d.metElement e (vs.getD (d.get Par.metrVSel e) 0) (is.getD e 0)) ∧
      ∀ m, m ≠ e → (d.metElement e (vs.getD (d.get Par.metrVSel e) 0) (is.getD e 0)).met1 m = d.met1 m := by
  unfold Dev.TookSample
  by_cases hon : d.isOn Par.metrEnable e = true
  · obtain ⟨hcorrected, hvs, his, hother⟩ := d.metElement_takes e (vs.getD (d.get Par.metrVSel e) 0) (is.getD e 0) hon
    rw [if_pos hon]
    have hv := congrArg Prod.fst hcorrected
    have hi := congrArg (·.2.1) hcorrected
    have hhist := congrArg (·.2.2) hcorrected
    exact ⟨⟨hv, hi, hhist, hvs, his⟩, hother⟩
  · have hsame : d.metElement e (vs.getD (d.get Par.metrVSel e) 0) (is.getD e 0) = d := if_pos (by simpa using hon)
    rw [if_neg hon, hsame]
    exact ⟨rfl, fun _ _ => rfl⟩

theorem Dev.metElements_took (d : Dev) (vs is : List Int) (k : Nat) :
    (∀ e < k, Dev.TookSample vs is e d (d.metElements vs is k)) ∧ ∀ e, k ≤ e → (d.metElements vs is k).met1 e = d.met1 e := by
  induction k with
  | zero => exact ⟨fun _ h => absurd h (Nat.not_lt_zero _), fun _ _ => rfl⟩
  | succ k ih =>
    obtain ⟨hdone, hrest⟩ := ih
    obtain ⟨htook, hother⟩ := (d.metElements vs is k).metElement_tookSample vs is k
    rw [d.metElements_succ]
    refine ⟨fun e he => ?_, fun e he => ?_⟩
    · by_cases h : e = k
      · subst h
        exact htook.congr (fun q hq => d.metElements_spares vs is e hq) (hrest e (Nat.le_refl e)) rfl
      · exact (hdone e (by omega)).congr (fun q _ => .refl d) rfl (hother e h)
    · rw [hother e (by omega), hrest e (by omega)]

/-- A sample of the eight channels (R281): every enabled element takes its own. -/
theorem Dev.metSample_took (d : Dev) (vs is : List Int) (hruns : d.metRuns = true) {e : Nat} (he : e < 4) : Dev.TookSample vs is e d (d.metSample vs is) := by
  have hstop : ¬ (!d.metRuns) = true := by rw [hruns]; decide
  have hmet : (d.metSample vs is).met = (d.metElements vs is 4).met := by
    unfold Dev.metSample
    rw [if_neg hstop]
    extract_lets taken
    have hagree : taken.Agree [0x60, 0x61, 0xC0] [.evt, .caps, .trigs, .weave] (if taken.up then taken.forN 4 (fun d e =>
        if d.isOn Par.metrEnable e then
          let x := d.met1 e
          let d := d.sample 0x50 e 0 d.now (fofd (x.vHist.getD 0 d0)) 2
          d.sample 0x50 e 1 d.now (fofd (x.is.getD 0 d0)) 2
        else d) else taken) :=
      .ite (fun _ => .forN (fun x _ h => .ite (fun _ => (h.trans (Dev.sample_frame _ _ _ _ _ _ _)).trans (Dev.sample_frame _ _ _ _ _ _ _)) (fun _ => h)) .refl) (fun _ => .refl)
    exact hagree.2 .met rfl
  exact ((d.metElements_took vs is 4).1 e he).congr (fun q _ => .refl d) rfl (Dev.met1_of_met hmet e)

/-! ## The timeout of the crossings (R284) -/

theorem bit_one_of_status (a c e : Bool) : bit ((b2n a + 2 * b2n true + 4 * b2n c + 8 * b2n e) % 2 ^ 64) 1 = true := by
  cases a <;> cases c <;> cases e <;> decide

/-- A period that ends in timeout reports a frequency of 0 and the timeout (R284). -/
theorem Dev.metPeriod_timeout {d : Dev} {e : Nat} (h : (d.met1 e).timeout = true) (len : F64) (f : Option F64) (newer : Nat) :
    (d.metPeriod e len f newer).getF Par.metrFreq e = f0 ∧ bit ((d.metPeriod e len f newer).get Par.metrStatus e) 1 = true := by
  generalize hr : d.metPeriod e len f newer = r
  unfold Dev.metPeriod at hr
  extract_lets x k t quarter hist idx vr ir p q' cs p1 q1 s pf noLoad fs out freq wasOut closed rms powers freqs status told ep eq es registered src at hr
  have hfreq : freq = f0 := if_pos h
  have htimeout : x.timeout = true := h
  have htold : status.Agree [0xC0] [.evt] told := .ite (fun _ => Dev.raise_frame _ _ _ _ _) (fun _ => .refl)
  have hend : told.Agree [] [.met] r := by
    have hregistered : told.Agree [] [.met] registered := Dev.metRegister_frame _ _ _ _ _
    rw [← hr]
    exact .ite (fun _ => .refl) (fun _ => .ite (fun _ => .upd_met rfl hregistered) (fun _ => hregistered))
  refine ⟨?_, ?_⟩
  · rw [hend.getF _ _ rfl rfl, htold.getF _ _ rfl rfl, Dev.getF_put_apart _ _ _ _ rfl, Dev.getF_putF_same, hfreq]
  · rw [hend.get _ _ rfl rfl, htold.get _ _ rfl rfl, Dev.get_put_same, htimeout]
    exact bit_one_of_status _ _ _

/-- A timeout (R284): the element is in it, its period has ended, and its frequency reads 0. -/
theorem Dev.metTimeout_ends {d : Dev} {e : Nat} (hruns : d.metRuns = true) (hon : d.isOn Par.metrEnable e = true) :
    ((d.metTimeout e).met1 e).timeout = true ∧ ((d.metTimeout e).met1 e).vs = [] ∧ ((d.metTimeout e).met1 e).is = []
    ∧ (d.metTimeout e).getF Par.metrFreq e = f0 ∧ bit ((d.metTimeout e).get Par.metrStatus e) 1 = true
    ∧ ((d.met1 e).timeout = false → d.evtUp = true → (d.metTimeout e).isOn Par.evtFlag evMeterZcTimeout = true)
    ∧ ∀ m, m ≠ e → (d.metTimeout e).met1 m = d.met1 m := by
  have hgo : ¬ ((!d.metRuns) = true ∨ (!d.isOn Par.metrEnable e) = true) := by rw [hruns, hon]; decide
  generalize hr : d.metTimeout e = r
  unfold Dev.metTimeout at hr
  rw [if_neg hgo] at hr
  extract_lets x len first begun closed src moved at hr
  obtain ⟨⟨-, hother⟩, htimeout, hvs, his⟩ := begun.metPeriod_met1 e len none 0
  have hbegun : (begun.met1 e).timeout = true := by rw [Dev.met1_setMet1_same]
  obtain ⟨hfreq, hstatus⟩ := Dev.metPeriod_timeout hbegun len none 0
  have hmoved : closed.Agree [] [.met] moved := closed.setMet1_frame e _
  have hend : moved.Agree [0xC0] [.evt] r := by
    rw [← hr]
    exact .ite (fun _ => Dev.raise_frame _ _ _ _ _) (fun _ => .refl)
  have hsame (m : Nat) : r.met1 m = moved.met1 m := Dev.met1_of_met (hend.2 .met rfl) m
  refine ⟨?_, ?_, ?_, ?_, ?_, fun hfirst hup => ?_, fun m hm => ?_⟩
  · rw [hsame, Dev.met1_setMet1_same]
    exact htimeout.trans hbegun
  · rw [hsame, Dev.met1_setMet1_same]
    exact hvs
  · rw [hsame, Dev.met1_setMet1_same]
    exact his
  · rw [hend.getF _ _ rfl rfl, hmoved.getF _ _ rfl rfl, hfreq]
  · rw [hend.get _ _ rfl rfl, hmoved.get _ _ rfl rfl, hstatus]
  · have hfirst' : first = true := congrArg not hfirst
    have hphase : moved.phase = d.phase :=
      (hmoved.2 .phase rfl).trans (((begun.metPeriod_frame e len none 0).2 .phase rfl).trans ((d.setMet1_frame e _).2 .phase rfl))
    rw [if_pos hfirst'] at hr
    rw [← hr]
    exact moved.isOn_raise _ _ _ (by rw [Dev.evtUp, Dev.up, hphase]; exact hup)
  · rw [hsame, Dev.met1_setMet1_other _ _ hm, hother m hm, Dev.met1_setMet1_other _ _ hm]

/-! ## Records (R293, R294) -/

/-- What the records of the metering engine rest on: the slots, whether the last-gasp commit is ready, and the sequence number. -/
def Dev.KeepsCommits (d e : Dev) : Prop := e.met.slots = d.met.slots ∧ e.met.armed = d.met.armed ∧ Dev.Spares Par.metrCommitSeq d e ∧ e.now = d.now

theorem Dev.KeepsCommits.trans {a b c : Dev} (h : a.KeepsCommits b) (g : b.KeepsCommits c) : a.KeepsCommits c := by
  obtain ⟨hslots, harmed, hseq, hnow⟩ := h
  obtain ⟨gslots, garmed, gseq, gnow⟩ := g
  exact ⟨gslots.trans hslots, garmed.trans harmed, hseq.trans gseq, gnow.trans hnow⟩

theorem Dev.KeepsCommits.refl (d : Dev) : d.KeepsCommits d := ⟨rfl, rfl, .refl d, rfl⟩

theorem Dev.setMet1_keepsCommits (d : Dev) (e : Nat) (x : MetRt) : d.KeepsCommits (d.setMet1 e x) := ⟨rfl, rfl, d.setMet1_spares e x, rfl⟩

theorem Dev.metPeriod_keepsCommits (d : Dev) (e : Nat) (len : F64) (f : Option F64) (newer : Nat) : d.KeepsCommits (d.metPeriod e len f newer) := by
  suffices h : (d.metPeriod e len f newer).met.slots = d.met.slots ∧ (d.metPeriod e len f newer).met.armed = d.met.armed from
    ⟨h.1, h.2, Dev.metPeriod_spares (by decide) rfl rfl d e len f newer, (d.metPeriod_frame e len f newer).2 .now rfl⟩
  generalize hr : d.metPeriod e len f newer = r
  unfold Dev.metPeriod at hr
  extract_lets x k t quarter hist idx vr ir p q cs p1 q1 s pf noLoad fs out freq wasOut closed rms powers freqs status told ep eq es registered src at hr
  have htold : closed.Agree [0x50, 0xC0] [.evt] told := by
    have hstatus : closed.Agree [0x50, 0xC0] [.evt] status := .put rfl rfl (.putF rfl rfl (.putF rfl rfl (.putF rfl rfl (.putF rfl rfl (.putF rfl rfl
      (.putF rfl rfl (.putF rfl rfl .refl)))))))
    exact .ite (fun _ => .step (Dev.raise_frame _ _ _ _ _) rfl rfl hstatus) (fun _ => hstatus)
  have hmet : told.met = closed.met := htold.2 .met rfl
  obtain ⟨hslots, harmed⟩ := told.metRegister_slots e ep eq es
  rw [hmet] at hslots harmed
  rw [← hr]
  split
  · rw [hmet]
    exact ⟨rfl, rfl⟩
  · split
    · exact ⟨hslots, harmed⟩
    · exact ⟨hslots, harmed⟩

/-- The end of a block (R288): its sums start anew. -/
theorem Dev.metBlock_ends (d : Dev) (t : F64) : d.KeepsCommits (d.metBlock t) ∧ (d.metBlock t).met.bAny = false ∧ (d.metBlock t).met.bP = d0 := by
  unfold Dev.metBlock
  extract_lets m p q s els registered src begun powers pf freq st any
  have hregistered : registered.met.slots = d.met.slots ∧ registered.met.armed = d.met.armed := by
    unfold registered
    split
    · exact d.metRegister_slots 4 _ _ _
    · exact ⟨rfl, rfl⟩
  have hagree : d.Agree [] [.met] registered := .ite (fun _ => d.metRegister_frame 4 _ _ _) (fun _ => .refl)
  have hend : begun.Agree [0x50] [] (freq.put Par.metrStatus 4 (b2n (!m.bAny) + 2 * b2n (any 1) + 4 * b2n (any 2) + 8 * b2n (any 3))) :=
    .put rfl rfl (.putF rfl rfl (.putF rfl rfl (.putF rfl rfl (.putF rfl rfl (.putF rfl rfl .refl)))))
  have hmet := hend.2 .met rfl
  have hseq : Dev.Spares Par.metrCommitSeq begun (freq.put Par.metrStatus 4 (b2n (!m.bAny) + 2 * b2n (any 1) + 4 * b2n (any 2) + 8 * b2n (any 3))) :=
    .put (.putF (.putF (.putF (.putF (.putF (.refl begun) rfl) rfl) rfl) rfl) rfl) rfl
  have hbegun : Dev.Spares Par.metrCommitSeq registered begun := .upd (.refl registered) rfl
  have hslots := congrArg MetSt.slots hmet
  have harmed := congrArg MetSt.armed hmet
  have hany := congrArg MetSt.bAny hmet
  have hsum := congrArg MetSt.bP hmet
  exact ⟨⟨hslots.trans hregistered.1, harmed.trans hregistered.2, (Dev.Spares.frame (.refl d) hagree rfl rfl).trans (hbegun.trans hseq),
    (hend.2 .now rfl).trans (hagree.2 .now rfl)⟩, hany, hsum⟩

theorem regPar_apart {p : Par} (h : p = Par.metrCommitSeq ∨ p = Par.metrCommitTime) (k : Nat) : Par.apart p (regPar k) = true := by
  have hidx : (regPar k).idx < 36 := by
    have := Nat.mod_lt k (show 0 < 7 by decide)
    change 29 + k % 7 < 36
    omega
  have hne : p ≠ regPar k := by
    rintro rfl
    rcases h with h | h <;> rw [h] at hidx <;> exact absurd hidx (by decide)
  have hsmall : p.small = true := by rcases h with rfl | rfl <;> rfl
  rw [Par.apart, (regPar_ok k).1, hsmall, decide_eq_true hne]
  rfl

/-- A record (R293) has been written from `d` to `r`: the next sequence number, in the slot of its parity; the other slot stays. -/
def Dev.Recorded (cause : Nat) (d r : Dev) : Prop :=
  r.get Par.metrCommitSeq 4 = (d.get Par.metrCommitSeq 4 + 1) % 2 ^ 32 ∧ r.get Par.metrCommitTime 4 = d.now % 2 ^ 64
    ∧ (∃ x : MetRec, r.met.slots.get (fun _ => none) ((d.get Par.metrCommitSeq 4 + 1) % 2 ^ 32 % 2) = some x
        ∧ x.seq = (d.get Par.metrCommitSeq 4 + 1) % 2 ^ 32 ∧ x.cause = cause ∧ x.ts = d.now)
    ∧ r.met.slots.get (fun _ => none) (1 - (d.get Par.metrCommitSeq 4 + 1) % 2 ^ 32 % 2)
        = d.met.slots.get (fun _ => none) (1 - (d.get Par.metrCommitSeq 4 + 1) % 2 ^ 32 % 2)

theorem Dev.Recorded.since {cause : Nat} {a d r : Dev} (h : Dev.Recorded cause d r) (k : a.KeepsCommits d) : Dev.Recorded cause a r := by
  obtain ⟨hslots, -, hseq, hnow⟩ := k
  unfold Dev.Recorded at h ⊢
  rwa [hslots, hseq.get, hnow] at h

/-- A record leaves the block, and whether the last-gasp commit is ready. -/
theorem Dev.metRecord_writes (d : Dev) (cause : Nat) : Dev.Recorded cause d (d.metRecord cause)
    ∧ (d.metRecord cause).met.bAny = d.met.bAny ∧ (d.metRecord cause).met.bP = d.met.bP ∧ (d.metRecord cause).met.armed = d.met.armed := by
  generalize hr : d.metRecord cause = y
  unfold Dev.metRecord at hr
  extract_lets seq sl rec' src stored numbered at hr
  have hagree : numbered.Agree [0x50] [] y := by
    rw [← hr]
    exact .forN (fun x k h => .put (regPar_ok _).1 (by rw [(regPar_ok _).2]; rfl) h) .refl
  have hshown {p : Par} (hp : p = Par.metrCommitSeq ∨ p = Par.metrCommitTime) : Dev.Spares p numbered y := by
    rw [← hr]
    exact .forN (fun x k => .put (.refl x) (regPar_apart hp _)) 35 numbered
  have hstored : stored.Agree [0x50] [] y := (Dev.Agree.put rfl rfl (.put rfl rfl (.put rfl rfl .refl)) : stored.Agree [0x50] [] numbered).trans hagree
  have hmet : y.met = stored.met := hstored.2 .met rfl
  have hslots := congrArg MetSt.slots hmet
  have hany := congrArg MetSt.bAny hmet
  have hsum := congrArg MetSt.bP hmet
  have harmed := congrArg MetSt.armed hmet
  have hseq : seq < 2 ^ 32 := Nat.mod_lt _ (by decide)
  refine ⟨⟨?_, ?_, ⟨rec', ?_, rfl, rfl, rfl⟩, ?_⟩, hany, hsum, harmed⟩
  · rw [(hshown (.inl rfl)).get, Dev.get_put_apart _ _ _ _ rfl, Dev.get_put_apart _ _ _ _ rfl, Dev.get_put_same, Nat.mod_eq_of_lt (by omega)]
  · rw [(hshown (.inr rfl)).get, Dev.get_put_apart _ _ _ _ rfl, Dev.get_put_same]
  · rw [hslots]
    exact Tab.get_set_same (fun _ => (none : Option MetRec)) d.met.slots (seq % 2) (some rec')
  · rw [hslots]
    exact Tab.get_set_other (fun _ => (none : Option MetRec)) d.met.slots (seq % 2) (1 - seq % 2) (some rec') (by omega)

/-- The last-gasp commit (R294): one record, and none again until it is ready. -/
theorem Dev.supplyLoss_records {d : Dev} (hruns : d.metRuns = true) (harmed : d.met.armed = true) :
    Dev.Recorded mcLastGasp d d.supplyLoss ∧ d.supplyLoss.met.armed = false := by
  have hgo : ¬ ((!d.metRuns) = true ∨ (!d.met.armed) = true) := by rw [hruns, harmed]; decide
  unfold Dev.supplyLoss
  rw [if_neg hgo]
  extract_lets src used closed
  have hclosed : used.KeepsCommits closed := by
    refine List.foldlRecOn (List.range 4) _ (motive := used.KeepsCommits) (.refl used) fun x h e _ => ?_
    split
    · exact h.trans ((x.metPeriod_keepsCommits e _ _ _).trans (Dev.setMet1_keepsCommits _ _ _))
    · exact h
  obtain ⟨hblock, -, -⟩ := closed.metBlock_ends (drat 1 100)
  obtain ⟨hrec, -, -, harm⟩ := (closed.metBlock (drat 1 100)).metRecord_writes mcLastGasp
  have hkept := hclosed.trans hblock
  obtain ⟨hseq, htime, hslot, hother⟩ := hrec.since hkept
  exact ⟨⟨hseq, htime, hslot, hother⟩, harm.trans hkept.2.1⟩

end Sys2Proof.Machine

open Sys2Proof Sys2Proof.Machine

/-- Settles O20: samples are `Dev.TookSample`, a timeout ends the period of its element, and a commit is a record after the end of its block. -/
theorem meters : Obligations.Meters := by
  unfold Obligations.Meters
  refine ⟨fun t vs is s hruns => .of_does rfl fun x hx => ?_, fun t e s hruns hon => .of_does rfl fun x hx => ?_,
    fun t s hruns => ?_, fun t s hruns harmed => ?_, fun t s => .of_does rfl fun x hx => ?_⟩
  · intro e he
    have htook := (Dev.metSample_took (s.dev.atTime t) vs is hruns he).congr (x' := x.settle (s.dev.atTime t)) (fun q _ => .refl _) rfl
      (by rw [Dev.met1_of_met (Dev.settle_met _ _), ← hx])
    exact htook
  · obtain ⟨htimeout, hvs, his, hfreq, hstatus, hflag, hother⟩ := Dev.metTimeout_ends (d := s.dev.atTime t) hruns hon
    rw [hx] at htimeout hvs his hfreq hstatus hflag hother
    have hmet1 (m : Nat) : (x.settle (s.dev.atTime t)).met1 m = x.met1 m := Dev.met1_of_met (Dev.settle_met _ _) m
    refine ⟨by rw [hmet1, htimeout], by rw [hmet1, hvs], by rw [hmet1, his], by rw [Dev.settle_getF _ _ _ rfl, hfreq], by rw [Dev.settle_get _ _ _ rfl, hstatus],
      fun hfirst hup => Dev.settle_keepsFlags _ _ _ (hflag hfirst hup), fun m _ hm => ?_⟩
    rw [hmet1, hother m hm]
    rfl
  · intro seq
    refine .of_does rfl fun x hx => ?_
    have hgo : ¬ (!(s.dev.atTime t).metRuns) = true := fun h => by simp [show (s.dev.atTime t).metRuns = true from hruns] at h
    have hx' : ((s.dev.atTime t).metBlock (drat 1 100)).metRecord mcPeriodic = x := (if_neg hgo).symm.trans hx
    obtain ⟨hkeeps, hany, hsum⟩ := (s.dev.atTime t).metBlock_ends (drat 1 100)
    obtain ⟨hrec, gany, gsum, -⟩ := ((s.dev.atTime t).metBlock (drat 1 100)).metRecord_writes mcPeriodic
    rw [hx'] at hrec gany gsum
    obtain ⟨hseq, htime, hslot, hother⟩ := hrec.since hkeeps
    rw [Dev.settle_get _ _ _ rfl, Dev.settle_get _ _ _ rfl, Dev.settle_met]
    exact ⟨hseq, htime, hslot, hother, gany.trans hany, gsum.trans hsum⟩
  · intro seq
    refine .of_does rfl fun x hx => ?_
    obtain ⟨hrec, harm⟩ := Dev.supplyLoss_records (d := s.dev.atTime t) hruns harmed
    obtain ⟨w, hpwr⟩ := Dev.settle_pwr x (s.dev.atTime t)
    have hlow : (x.settle (s.dev.atTime t)).pwr.auxLow = true := by rw [hpwr, ← hx]
    have hmet : x.met = (s.dev.atTime t).supplyLoss.met := by rw [← hx]
    have hsame (q : Par) : x.get q 4 = (s.dev.atTime t).supplyLoss.get q 4 := by rw [← hx]; rfl
    obtain ⟨hseq, -, hslot, hother⟩ := hrec
    rw [Dev.settle_get _ _ _ rfl, Dev.settle_met, hmet, hsame]
    exact ⟨hseq, harm, hlow, hslot, hother⟩
  · obtain ⟨w, hpwr⟩ := Dev.settle_pwr x (s.dev.atTime t)
    have hlow : (x.settle (s.dev.atTime t)).pwr.auxLow = false := by rw [hpwr, ← hx]
    rw [Dev.settle_met, ← hx]
    exact ⟨rfl, hx ▸ hlow⟩

end

section
/-! SUPPORT. Triggers and streams at the end of a command: what follows where no occurrence is left to serve, what a trigger in HOLDOFF keeps (R316),
and what serving an occurrence leaves. -/

namespace Sys2Proof.Machine

/-! ## The end of a command with nothing to serve -/

/-- In RUN and PARKING a wake cause is at most noted (R445). -/
theorem Dev.wakeScan_of_full {d : Dev} (h : d.full = true) (old : Dev) : d.Agree [] [.pwr] (d.wakeScan old) := by
  have hwake (c : Nat) : d.Agree [] [.pwr] (d.wake c) := by
    have hmode : ¬ d.pmode = pmParked := by
      intro hp
      rw [Dev.full, hp, Bool.and_eq_true] at h
      exact absurd h.2 (by decide)
    unfold Dev.wake
    rw [if_neg hmode]
    exact .ite (fun _ => .refl) (fun _ => .ite (fun _ => .upd_pwr rfl .refl) (fun _ => .refl))
  unfold Dev.wakeScan
  extract_lets asleep rim grid
  exact .ite (fun _ => .refl) (fun _ => .ite (fun _ => hwake _) (fun _ => .ite (fun _ => hwake _) (fun _ => .refl)))

theorem Dev.ended_agree (d : Dev) : d.Agree [0xB0] [.pins] d.ended := by
  have hvalid : d.Agree [0xB0] [.pins] (if d.up && decide (d.get Par.beatTimeState 0 ≤ tmWeave) then d.put Par.pwrRtcValid 0 1 else d) :=
    .ite (fun _ => .put rfl rfl .refl) (fun _ => .refl)
  exact hvalid.trans (.upd_pins rfl .refl)

theorem Dev.serveFresh_of_quiet {d : Dev} (h : d.evt.fresh = []) (k : Nat) : Dev.serveFresh (k + 1) d = d := by
  rw [Dev.serveFresh, h]

/-- Where no occurrence is to be served, the end of a command in RUN or PARKING touches the power block and the pins. -/
theorem Dev.settle_of_quiet {d : Dev} (hfull : d.full = true) (hfresh : d.evt.fresh = []) (old : Dev) : d.Agree [0xB0] [.pwr, .pins] (d.settle old) := by
  have hscan := d.wakeScan_of_full hfull old
  have hquiet : (d.wakeScan old).evt.fresh = [] := by rw [hscan.2 .evt rfl, hfresh]
  rw [Dev.settle_eq, hquiet]
  have hserve : Dev.serveFresh (0 + 64) (d.wakeScan old) = d.wakeScan old := Dev.serveFresh_of_quiet hquiet 63
  have hlen : (List.length ([] : List (Nat × Nat)) + 64) = 0 + 64 := rfl
  rw [hlen, hserve]
  exact (hscan.mono rfl rfl).trans ((Dev.ended_agree _).mono rfl rfl)

/-! ## What serving an occurrence leaves of a trigger -/

/-- From `d` to `e` trigger `n` stays. -/
def Dev.TrigStays (n : Nat) (d e : Dev) : Prop := (∀ p : Par, p.small = true → p.group = 0x61 → e.raw p n = d.raw p n) ∧ e.trig n = d.trig n

variable {n : Nat}

theorem Dev.TrigStays.refl (d : Dev) : Dev.TrigStays n d d := ⟨fun _ _ _ => rfl, rfl⟩

theorem Dev.TrigStays.trans {a b c : Dev} (h : Dev.TrigStays n a b) (g : Dev.TrigStays n b c) : Dev.TrigStays n a c :=
  ⟨fun p hp hg => (g.1 p hp hg).trans (h.1 p hp hg), g.2.trans h.2⟩

theorem Dev.TrigStays.ite {a x y : Dev} {c : Prop} [Decidable c] (h : Dev.TrigStays n a x) (g : Dev.TrigStays n a y) : Dev.TrigStays n a (if c then x else y) := by
  split
  · exact h
  · exact g

theorem Dev.trig_of_trigs {d e : Dev} (h : e.trigs = d.trigs) (m : Nat) : e.trig m = d.trig m := by rw [Dev.trig, h, Dev.trig]

theorem Dev.TrigStays.of_agree {cs : List Nat} {fs : List Fld} {d e : Dev} (h : d.Agree cs fs e) (hc : cs.contains 0x61 = false) (hf : fs.contains .trigs = false) :
    Dev.TrigStays n d e := ⟨fun p hp hg => h.1 p n hp (by rw [hg]; exact hc), Dev.trig_of_trigs (h.2 .trigs hf) n⟩

theorem Dev.TrigStays.put {a d : Dev} (h : Dev.TrigStays n a d) {m : Nat} (hm : n ≠ m) {q : Par} (hq : q.small = true) {v : Nat} : Dev.TrigStays n a (d.put q m v) :=
  h.trans ⟨fun p hp _ => by
    by_cases hpq : p = q
    · subst hpq; exact Dev.raw_setRaw_inst _ _ hp hm
    · exact Dev.raw_setRaw_apart _ _ _ _ (by simp [Par.apart, hpq, hp, hq]), rfl⟩

theorem Dev.TrigStays.setTrig {a d : Dev} (h : Dev.TrigStays n a d) {m : Nat} (hm : n ≠ m) {x : TrigRt} : Dev.TrigStays n a (d.setTrig m x) :=
  h.trans ⟨fun _ _ _ => rfl, d.trig_setTrig_other _ _ _ hm⟩

theorem Dev.trigMissed_other (d : Dev) {m : Nat} (h : n ≠ m) (ts cause stake : Nat) : Dev.TrigStays n d (d.trigMissed m ts cause stake) := by
  unfold Dev.trigMissed
  extract_lets counted
  have hcounted : Dev.TrigStays n d counted := (Dev.TrigStays.put (.refl d) h rfl).trans (.of_agree (Dev.raise_frame _ _ _ _ _) rfl rfl)
  exact hcounted.trans (.of_agree (counted.markMask_frame _ _) rfl rfl)

/-- A fire of one trigger leaves the others. -/
theorem Dev.fireTrig_other (d : Dev) {m : Nat} (h : n ≠ m) (ts cause stake : Nat) : Dev.TrigStays n d (d.fireTrig m ts cause stake) := by
  unfold Dev.fireTrig
  extract_lets st weave t told last held mask streams f sent src src'
  have htold : Dev.TrigStays n d told := (Dev.TrigStays.put (.refl d) h rfl).trans (.of_agree (Dev.raise_frame _ _ _ _ _) rfl rfl)
  have hheld : Dev.TrigStays n d held := .put (.put (.put (.put htold h rfl) h rfl) h rfl) h rfl
  have hstreams : Dev.TrigStays n d streams :=
    hheld.trans (.of_agree (cs := [0x60]) (fs := [.caps]) (.forL (fun x s hx => .ite (fun _ => .ite (fun _ => hx.trans (x.capSplit_frame s ts))
      (fun _ => .step (Dev.capFlag_frame _ _ _) rfl rfl (.inc rfl rfl hx))) (fun _ => hx)) .refl) rfl rfl)
  have hsent : Dev.TrigStays n d sent := .ite hstreams (hstreams.trans (.of_agree (Dev.sendFire_frame _ _ _ _) rfl rfl))
  refine .ite (.refl d) (.ite ?_ (.ite (.setTrig hsent h) ?_))
  · split
    · refine .ite ?_ (.ite (.setTrig (.refl d) h) (d.trigMissed_other h _ _ _))
      exact (Dev.TrigStays.put (.put (.put (.setTrig (.refl d) h) h rfl) h rfl) h rfl).trans
        (.of_agree (cs := [0x60]) (fs := [.caps]) (.forL (fun x s hx => .ite (fun _ => hx.trans (x.capSplit_frame s ts)) (fun _ => hx)) .refl) rfl rfl)
    · exact d.trigMissed_other h _ _ _
  · exact (Dev.TrigStays.setTrig hstreams h).trans (.of_agree (Dev.fireMarks_frame _ _ _) rfl rfl)

/-- From `d` to `e` the state of trigger `n`, its record, and what it reports of its last fire stay. -/
def Dev.TrigHeld (n : Nat) (d e : Dev) : Prop := e.trig n = d.trig n ∧ e.get Par.trigState n = d.get Par.trigState n ∧ e.get Par.trigFires n = d.get Par.trigFires n
  ∧ e.get Par.trigLastTime n = d.get Par.trigLastTime n ∧ e.get Par.trigLastCause n = d.get Par.trigLastCause n
  ∧ e.get Par.trigLastStake n = d.get Par.trigLastStake n

theorem Dev.TrigStays.held {d e : Dev} (h : Dev.TrigStays n d e) : Dev.TrigHeld n d e := by
  obtain ⟨hraw, htrig⟩ := h
  refine ⟨htrig, ?_, ?_, ?_, ?_, ?_⟩ <;> rw [Dev.get, hraw _ rfl rfl, Dev.get]

theorem Dev.TrigHeld.refl (d : Dev) : Dev.TrigHeld n d d := (Dev.TrigStays.refl d).held

theorem Dev.TrigHeld.trans {a b c : Dev} (h : Dev.TrigHeld n a b) (g : Dev.TrigHeld n b c) : Dev.TrigHeld n a c := by
  obtain ⟨ht, hs, hf, hl, hc, hk⟩ := h
  obtain ⟨gt, gs, gf, gl, gc, gk⟩ := g
  exact ⟨gt.trans ht, gs.trans hs, gf.trans hf, gl.trans hl, gc.trans hc, gk.trans hk⟩

theorem Dev.trigMissed_held (d : Dev) (m ts cause stake : Nat) : Dev.TrigHeld n d (d.trigMissed m ts cause stake) := by
  by_cases h : n = m
  · subst h
    unfold Dev.trigMissed
    extract_lets counted
    have hrest : Dev.TrigHeld n (d.inc 32 Par.trigMissed n) (counted.markMask (counted.get Par.trigStreamMask n)
        { ts := ts, index := 0, kind := 2, cause := cause, trig := n, stake := stake, a := counted.get Par.trigMissed n }) :=
      ((Dev.TrigStays.of_agree (Dev.raise_frame _ _ _ _ _) rfl rfl).trans (.of_agree (counted.markMask_frame _ _) rfl rfl)).held
    have hinc : Dev.TrigHeld n d (d.inc 32 Par.trigMissed n) :=
      ⟨Dev.trig_of_trigs (Dev.inc_trigs _ _ _ _ _) n, Dev.get_inc_apart _ _ _ _ _ rfl, Dev.get_inc_apart _ _ _ _ _ rfl, Dev.get_inc_apart _ _ _ _ _ rfl, Dev.get_inc_apart _ _ _ _ _ rfl,
        Dev.get_inc_apart _ _ _ _ _ rfl⟩
    exact hinc.trans hrest
  · exact (d.trigMissed_other h _ _ _).held

/-- In HOLDOFF a fire that the weave does not bring is missed (R316, R320). -/
theorem Dev.fireTrig_held {d : Dev} (hstate : d.get Par.trigState n = tsHoldoff) (m ts : Nat) {cause : Nat} (hc : cause ≠ fcWeave) (stake : Nat) :
    Dev.TrigHeld n d (d.fireTrig m ts cause stake) := by
  by_cases h : n = m
  · subst h
    unfold Dev.fireTrig
    extract_lets st weave t told last held mask streams f sent src src'
    have hoff : ¬ st = tsOff := by rw [show st = tsHoldoff from hstate]; decide
    rw [if_neg hoff, if_pos hstate]
    split
    · rw [if_neg fun h => hc h.1, if_neg hc]
      exact d.trigMissed_held _ _ _ _
    · exact d.trigMissed_held _ _ _ _
  · exact (d.fireTrig_other h _ _ _).held

theorem Dev.eventTrig_held {d : Dev} (hstate : d.get Par.trigState n = tsHoldoff) (ev : Nat) : Dev.TrigHeld n d (d.eventTrig ev) := by
  unfold Dev.eventTrig
  split
  · exact .refl d
  · extract_lets ts m marked
    have hmarked : Dev.TrigHeld n d marked := (Dev.TrigStays.of_agree (cs := []) (fs := [.caps]) (.forN (fun x k hx => .ite (fun _ => .ite (fun _ => hx.trans (x.markStream_frame k m))
      (fun _ => .ite (fun _ => hx.trans (x.markRing_frame k m)) (fun _ => hx))) (fun _ => hx)) .refl) rfl rfl).held
    refine hmarked.trans (List.foldlRecOn (List.range 16) _ (motive := Dev.TrigHeld n marked) (.refl marked) fun x hx k _ => ?_)
    have hx' : x.get Par.trigState n = tsHoldoff := hx.2.1.trans (hmarked.2.1.trans hstate)
    have hfire : Dev.TrigHeld n x (x.fireTrig k ts fcEvent x.stakeNo) := Dev.fireTrig_held hx' k ts (by decide) _
    unfold Dev.trigCond
    extract_lets st
    split
    · split
      · exact hx.trans hfire
      · exact hx
    · exact hx

/-- Serving the occurrences of a command leaves a trigger in HOLDOFF (R316). -/
theorem Dev.serveFresh_held (k : Nat) {d : Dev} (hstate : d.get Par.trigState n = tsHoldoff) : Dev.TrigHeld n d (Dev.serveFresh k d) := by
  induction k generalizing d with
  | zero => exact (Dev.TrigStays.of_agree (cs := []) (fs := [.evt]) (.upd_evt rfl .refl) rfl rfl).held
  | succ k ih =>
    unfold Dev.serveFresh
    split
    · exact .refl d
    · next ev obj rest _ =>
      have htaken : Dev.TrigHeld n d { d with evt := { d.evt with fresh := rest } } :=
        (Dev.TrigStays.of_agree (cs := []) (fs := [.evt]) (.upd_evt rfl .refl) rfl rfl).held
      have hserved := htaken.trans (Dev.eventTrig_held (htaken.2.1.trans hstate) ev)
      exact hserved.trans (ih (hserved.2.1.trans hstate))

/-- The end of a command leaves a trigger in HOLDOFF. -/
theorem Dev.settle_held {d : Dev} (hstate : d.get Par.trigState n = tsHoldoff) (old : Dev) : Dev.TrigHeld n d (d.settle old) := by
  have hscan : Dev.TrigHeld n d (d.wakeScan old) := (Dev.TrigStays.of_agree (d.wakeScan_frame old) rfl rfl).held
  have hserve := hscan.trans (Dev.serveFresh_held ((d.wakeScan old).evt.fresh.length + 64) (hscan.2.1.trans hstate))
  rw [Dev.settle_eq]
  exact hserve.trans (Dev.TrigStays.of_agree (Dev.ended_agree _) rfl rfl).held

end Sys2Proof.Machine
end

section
/-! PROOF. Capture streams, their delivery, and the timers of triggers (R303 to R320). -/

namespace Sys2Proof.Machine

variable {n : Nat}

theorem Dev.cap_of_caps {d e : Dev} (h : e.caps = d.caps) (m : Nat) : e.cap m = d.cap m := by rw [Dev.cap, h, Dev.cap]

theorem Dev.full_of_capOn {d : Dev} (h : d.capOn = true) : d.full = true := by
  rw [Dev.capOn, Bool.and_eq_true, Bool.and_eq_true] at h
  exact h.1.1

/-- A fire in WAIT or ARMED (R316): the trigger holds off, and the fire is counted, dated and reported. -/
theorem Dev.fireTrig_fires {d : Dev} (hstate : d.get Par.trigState n = tsWait ∨ d.get Par.trigState n = tsArmed) (ts cause stake : Nat) :
    (d.fireTrig n ts cause stake).get Par.trigState n = tsHoldoff
      ∧ (d.fireTrig n ts cause stake).get Par.trigFires n = (d.get Par.trigFires n + 1) % 2 ^ 32
      ∧ (d.fireTrig n ts cause stake).get Par.trigLastTime n = ts % 2 ^ 64 ∧ (d.fireTrig n ts cause stake).get Par.trigLastCause n = cause % 2 ^ 64
      ∧ (d.fireTrig n ts cause stake).get Par.trigLastStake n = stake % 256
      ∧ (d.evtUp = true → (d.fireTrig n ts cause stake).isOn Par.evtFlag evTrigFire = true) := by
  generalize hr : d.fireTrig n ts cause stake = r
  unfold Dev.fireTrig at hr
  extract_lets st weave t told last held mask streams f sent src src' at hr
  have hoff : ¬ st = tsOff := by
    rcases hstate with h | h <;> rw [show st = _ from h] <;> decide
  have hhold : ¬ st = tsHoldoff := by
    rcases hstate with h | h <;> rw [show st = _ from h] <;> decide
  rw [if_neg hoff, if_neg hhold] at hr
  have hend : held.Agree [0x60] [.caps, .weave, .trigs] r := by
    have hstreams : held.Agree [0x60] [.caps, .weave, .trigs] streams :=
      .forL (fun x s hx => .ite (fun _ => .ite (fun _ => .step (x.capSplit_frame s ts) rfl rfl hx)
        (fun _ => .step (Dev.capFlag_frame _ _ _) rfl rfl (.inc rfl rfl hx))) (fun _ => hx)) .refl
    have hsent : held.Agree [0x60] [.caps, .weave, .trigs] sent := .ite (fun _ => hstreams) (fun _ => .step (Dev.sendFire_frame _ _ _ _) rfl rfl hstreams)
    rw [← hr]
    exact .ite (fun _ => .step (Dev.setTrig_frame _ _ _) rfl rfl hsent)
      (fun _ => .step (Dev.fireMarks_frame _ _ _) rfl rfl (.step (Dev.setTrig_frame _ _ _) rfl rfl hstreams))
  have htold : (d.inc 32 Par.trigFires n).Agree [0xC0] [.evt] told := Dev.raise_frame _ _ _ _ _
  refine ⟨?_, ?_, ?_, ?_, ?_, fun hup => ?_⟩
  · rw [hend.get _ _ rfl rfl, Dev.get_put_same]
    rfl
  · rw [hend.get _ _ rfl rfl, Dev.get_put_apart _ _ _ _ rfl, Dev.get_put_apart _ _ _ _ rfl, Dev.get_put_apart _ _ _ _ rfl, Dev.get_put_apart _ _ _ _ rfl,
      htold.get _ _ rfl rfl, Dev.get_inc_same _ _ _ _ (by decide)]
  · rw [hend.get _ _ rfl rfl, Dev.get_put_apart _ _ _ _ rfl, Dev.get_put_apart _ _ _ _ rfl, Dev.get_put_apart _ _ _ _ rfl, Dev.get_put_same]
  · rw [hend.get _ _ rfl rfl, Dev.get_put_apart _ _ _ _ rfl, Dev.get_put_apart _ _ _ _ rfl, Dev.get_put_same]
  · rw [hend.get _ _ rfl rfl, Dev.get_put_apart _ _ _ _ rfl, Dev.get_put_same]
    omega
  · have hflag : told.isOn Par.evtFlag evTrigFire = true := Dev.isOn_raise _ _ _ _ hup
    have hkeeps : told.KeepsFlags held := .put (.put (.put (.put (.refl told) rfl) rfl) rfl) rfl
    exact (hkeeps.frame hend rfl) _ hflag

/-- The end of a fire's window (R320): the fires it replaced are missed. -/
theorem Dev.fireClose_closes {d : Dev} (hopen : (d.trig n).openFire.isSome = true) :
    ((d.fireClose n).trig n).openFire = none ∧ ((d.fireClose n).trig n).missedFires = [] ∧ (d.fireClose n).get Par.trigState n = d.get Par.trigState n
      ∧ (d.fireClose n).get Par.trigFires n = d.get Par.trigFires n := by
  obtain ⟨f, hf⟩ := Option.isSome_iff_exists.mp hopen
  unfold Dev.fireClose
  extract_lets x
  split
  · next h => exact absurd (h.symm.trans hf) nofun
  next g hg =>
  extract_lets marked
  have hset : (d.setTrig n { x with openFire := none, missedFires := [] }).trig n = { x with openFire := none, missedFires := [] } := Dev.trig_setTrig_same _ _ _
  have hparams : d.Agree [] [.trigs] (d.setTrig n { x with openFire := none, missedFires := [] }) := Dev.setTrig_frame _ _ _
  have hmarked : Dev.TrigHeld n (d.setTrig n { x with openFire := none, missedFires := [] }) marked := (Dev.TrigStays.of_agree (Dev.fireMarks_frame _ _ _) rfl rfl).held
  have hend : Dev.TrigHeld n marked (marked.forL x.missedFires (fun d g => d.trigMissed n g.ts g.cause g.stake)) :=
    List.foldlRecOn x.missedFires _ (motive := Dev.TrigHeld n marked) (.refl marked) fun y hy g _ => hy.trans (y.trigMissed_held _ _ _ _)
  obtain ⟨htrig, hstate, hfires, -, -⟩ := hmarked.trans hend
  rw [htrig, hset, hstate, hfires, hparams.get _ _ rfl rfl, hparams.get _ _ rfl rfl]
  exact ⟨rfl, rfl, rfl, rfl⟩

/-! ## Delivery -/

theorem Dev.setTrig_spares {p : Par} (d : Dev) (m : Nat) (x : TrigRt) : Dev.Spares p d (d.setTrig m x) := fun _ => rfl

theorem Dev.trigMissed_capBlocks (d : Dev) (m ts cause stake : Nat) : Dev.Spares Par.capBlocks d (d.trigMissed m ts cause stake) :=
  .frame (.refl d) (d.trigMissed_frame m ts cause stake) rfl rfl

theorem Dev.capFlag_capBlocks (d : Dev) (m b : Nat) : Dev.Spares Par.capBlocks d (d.capFlag m b) := .upd (.put (.refl d) rfl) rfl

theorem Dev.capIdle_capBlocks (d : Dev) (m : Nat) : Dev.Spares Par.capBlocks d (d.capIdle m) := .put (.put (.upd (.refl d) rfl) rfl) rfl

theorem Dev.setCap_spares {p : Par} (d : Dev) (m : Nat) (x : CapRt) : Dev.Spares p d (d.setCap m x) := fun _ => rfl

theorem Dev.capSplit_capBlocks (d : Dev) (m f : Nat) : Dev.Spares Par.capBlocks d (d.capSplit m f) := .put (.upd (.refl d) rfl) rfl

theorem Dev.fireMarks_capBlocks (d : Dev) (m : Nat) (f : Fire) : Dev.Spares Par.capBlocks d (d.fireMarks m f) := by
  unfold Dev.fireMarks
  extract_lets mask marked
  refine (Dev.Spares.frame (.refl d) (Dev.markMask_frame _ _ _) rfl rfl : Dev.Spares Par.capBlocks d marked).trans (.forL (fun y k => ?_) _ _)
  extract_lets x held short noted shown
  have hshown : Dev.Spares Par.capBlocks y shown := .put (.put (.frame (.refl y) (Dev.markRing_frame _ _ _) rfl rfl) rfl) rfl
  exact .ite (.ite (hshown.trans (Dev.capFlag_capBlocks _ _ _)) hshown) (.refl y)

theorem Dev.fireTrig_capBlocks (d : Dev) (m ts cause stake : Nat) : Dev.Spares Par.capBlocks d (d.fireTrig m ts cause stake) := by
  unfold Dev.fireTrig
  extract_lets st weave t told last held mask streams f sent src src'
  have htold : Dev.Spares Par.capBlocks d told := .frame (.put (.refl d) rfl) (Dev.raise_frame _ _ _ _ _) rfl rfl
  have hheld : Dev.Spares Par.capBlocks d held := .put (.put (.put (.put htold rfl) rfl) rfl) rfl
  have hstreams : Dev.Spares Par.capBlocks d streams :=
    hheld.trans (.forL (fun x s => .ite (.ite (x.capSplit_capBlocks s ts) ((Dev.Spares.put (.refl x) rfl).trans (Dev.capFlag_capBlocks _ _ _))) (.refl x)) _ _)
  have hsent : Dev.Spares Par.capBlocks d sent := .ite hstreams (.frame hstreams (Dev.sendFire_frame _ _ _ _) rfl rfl)
  refine .ite (.refl d) (.ite ?_ (.ite (hsent.trans (Dev.setTrig_spares _ _ _)) ?_))
  · split
    · refine .ite ?_ (.ite (Dev.setTrig_spares _ _ _) (d.trigMissed_capBlocks _ _ _ _))
      exact (Dev.Spares.put (.put (.put (Dev.setTrig_spares _ _ _) rfl) rfl) rfl).trans (.forL (fun x s => .ite (x.capSplit_capBlocks s ts) (.refl x)) _ _)
    · exact d.trigMissed_capBlocks _ _ _ _
  · exact (hstreams.trans (Dev.setTrig_spares _ _ _)).trans (Dev.fireMarks_capBlocks _ _ _)

theorem Dev.eventTrig_capBlocks (d : Dev) (ev : Nat) : Dev.Spares Par.capBlocks d (d.eventTrig ev) := by
  unfold Dev.eventTrig
  extract_lets ts m marked
  have hmarked : Dev.Spares Par.capBlocks d marked :=
    .forN (fun x k => .ite (.ite (.frame (.refl x) (x.markStream_frame k m) rfl rfl) (.ite (.frame (.refl x) (x.markRing_frame k m) rfl rfl) (.refl x))) (.refl x)) _ _
  exact .ite (.refl d) (hmarked.trans (.forN (fun x k => .ite (.ite (x.fireTrig_capBlocks _ _ _ _) (.refl x)) (.refl x)) _ _))

theorem Dev.serveFresh_capBlocks (k : Nat) (d : Dev) : Dev.Spares Par.capBlocks d (Dev.serveFresh k d) := by
  induction k generalizing d with
  | zero => exact .upd (.refl d) rfl
  | succ k ih =>
    unfold Dev.serveFresh
    split
    · exact .refl d
    · next ev obj rest _ =>
      have htaken : Dev.Spares Par.capBlocks d { d with evt := { d.evt with fresh := rest } } := .upd (.refl d) rfl
      exact (htaken.trans (Dev.eventTrig_capBlocks _ ev)).trans (ih _)

/-- Only a delivery counts blocks (R307): the end of a command leaves the counts. -/
theorem Dev.settle_capBlocks (d old : Dev) : Dev.Spares Par.capBlocks d (d.settle old) := by
  rw [Dev.settle_eq]
  exact ((Dev.Spares.frame (.refl d) (d.wakeScan_frame old) rfl rfl).trans (Dev.serveFresh_capBlocks _ _)).frame (Dev.ended_agree _) rfl rfl

theorem Dev.setRing_spares {p : Par} (d : Dev) (m : Nat) (x : RingSt) : Dev.Spares p d (d.setRing m x) := fun _ => rfl

theorem Dev.msixRaise_ring (d : Dev) (v r : Nat) : (d.msixRaise v).ring r = d.ring r := rfl

/-- A message into a ring of a PCIe session (R387, R389): the slot is written, and the head advances. -/
theorem Dev.ringPut_puts {d : Dev} {r : Nat} (hlink : (d.sess (d.ringSession r)).link = 0) (m : List Byte) :
    ((d.ringPut r m).ring r).slots = (d.ring r).slots ++ [m] ∧ (d.ringPut r m).get Par.ringHead r = (d.get Par.ringHead r + 1) % 2 ^ 32
      ∧ (d.ringPut r m).get Par.ringTail r = d.get Par.ringTail r := by
  generalize hr : d.ringPut r m = e
  unfold Dev.ringPut at hr
  extract_lets s eth wasEmpty written x tailed sent src v y counted at hr
  have heth : ¬ eth = true := by
    simp [eth, show (d.sess s).link = 0 from hlink]
  rw [if_neg heth] at hr
  have hslot : d.Agree [] [.host] (d.slotPut r (d.get Par.ringHead r) m []) := Dev.slotPut_frame _ _ _ _ _
  have hagree : (d.slotPut r (d.get Par.ringHead r) m []).Agree [0x91] [] written := .inc rfl rfl (.inc rfl rfl .refl)
  have hring : written.ring r = d.ring r := by
    rw [Dev.ring, hagree.2 .host rfl, Dev.slotPut]
    split <;> rfl
  have hy : y.slots = (d.ring r).slots := by rw [show y = d.ring r from hring]
  have hspares {p : Par} (hp : p.small = true) (h2 : Par.apart p Par.ringMessages = true) (h3 : Par.apart p Par.linkTxFrames = true) :
      Dev.Spares p ((d.slotPut r (d.get Par.ringHead r) m []).inc 32 Par.ringHead r) counted := .put (.put (.refl _) h2) h3
  clear_value y
  have hset (z : RingSt) : counted.Agree [] [.host] (counted.setRing r z) := Dev.setRing_frame _ _ _
  have hend : counted.Agree [] [.host] e ∧ (e.ring r).slots = y.slots ++ [m] := by
    rw [← hr]
    split
    · exact ⟨hset _, by rw [Dev.ring_setRing_same]⟩
    · split
      · exact ⟨(hset _).trans (Dev.msixRaise_frame _ _), by rw [Dev.msixRaise_ring, Dev.ring_setRing_same]⟩
      · exact ⟨hset _, by rw [Dev.ring_setRing_same]⟩
  obtain ⟨hafter, hslots⟩ := hend
  refine ⟨by rw [hslots, hy], ?_, ?_⟩
  · rw [hafter.get _ _ rfl rfl, (hspares rfl rfl rfl).get, Dev.get_inc_same _ _ _ _ (by decide), hslot.get _ _ rfl rfl]
  · rw [hafter.get _ _ rfl rfl, (hspares rfl rfl rfl).get, Dev.get_inc_apart _ _ _ _ _ rfl, hslot.get _ _ rfl rfl]

/-- A delivery (R307, R312): the oldest closed block goes into the stream's ring, and is counted. -/
theorem Dev.deliverBlock_delivers {d : Dev} {b : Blk} {rest : List Blk} (hclosed : (d.cap n).closed = b :: rest) (hsession : d.ringSession (32 + n) < 16)
    (hopen : (d.sess (d.ringSession (32 + n))).isOpen = true) (hlink : (d.sess (d.ringSession (32 + n))).link = 0) (hfull : d.ringFull (32 + n) = false)
    (hstate : d.get Par.ringState (32 + n) ≠ 2) :
    let e := d.deliverBlock n
    (e.ring (32 + n)).slots = (d.ring (32 + n)).slots ++ [mkMsg 0x81 0 (d.ringSession (32 + n)) 0 0
        (b.bytes n (d.get Par.capFormat n) (d.get Par.capState n == csDeliver))]
      ∧ e.get Par.ringHead (32 + n) = (d.get Par.ringHead (32 + n) + 1) % 2 ^ 32
      ∧ e.get Par.ringTail (32 + n) = d.get Par.ringTail (32 + n)
      ∧ e.get Par.capBlocks n = (d.get Par.capBlocks n + 1) % 2 ^ 32 := by
  generalize hr : d.deliverBlock n = r
  intro e
  subst e
  have hring : d.ringSession (32 + n) = d.get Par.ringSession (32 + n) := by
    rw [Dev.ringSession, if_neg (by omega), if_neg (by omega)]
  rw [hring] at hsession hopen hlink ⊢
  unfold Dev.deliverBlock at hr
  extract_lets x k s ringMode at hr
  have hgo : ¬ (s ≥ 16 ∨ (!(d.sess s).isOpen) = true ∨ d.ringFull k = true ∨ d.get Par.ringState k = 2) := by
    rw [hopen]
    exact fun h => h.elim (Nat.not_le.mpr hsession) fun h => h.elim Bool.false_ne_true fun h => h.elim (fun h => by rw [hfull] at h; exact Bool.false_ne_true h) hstate
  split at hr
  · next h => exact absurd (h.symm.trans hclosed) (List.cons_ne_nil b rest).symm
  next b' rest' h =>
  obtain ⟨rfl, rfl⟩ := List.cons.inj (h.symm.trans hclosed)
  rw [if_neg hgo] at hr
  extract_lets put counted done src src' at hr
  have hsetCap (y : Dev) (z : CapRt) : y.Agree [0x60, 0xC0] [.caps, .evt] (y.setCap n z) := (Dev.setCap_frame _ _ _).mono rfl rfl
  have hdone : counted.Agree [0x60, 0xC0] [.caps, .evt] done ∧ Dev.Spares Par.capBlocks counted done :=
    ⟨.step (Dev.capIdle_frame _ _) rfl rfl (.step (Dev.raise_frame _ _ _ _ _) rfl rfl ((Dev.capFlag_frame _ _ _).mono rfl rfl)),
      ((counted.capFlag_capBlocks n 3).frame (Dev.raise_frame _ _ _ _ _) rfl rfl).trans (Dev.capIdle_capBlocks _ _)⟩
  have hend : counted.Agree [0x60, 0xC0] [.caps, .evt] r ∧ Dev.Spares Par.capBlocks counted r := by
    rw [← hr]
    split
    · split
      · exact ⟨hdone.1.trans (hsetCap _ _), hdone.2.trans (Dev.setCap_spares _ _ _)⟩
      · exact hdone
    · split
      · exact ⟨((counted.capIdle_frame n).mono rfl rfl).trans (hsetCap _ _), (counted.capIdle_capBlocks n).trans (Dev.setCap_spares _ _ _)⟩
      · exact ⟨.refl, .refl counted⟩
  obtain ⟨hslots, hhead, htail⟩ := d.ringPut_puts (r := k) (by rw [hring]; exact hlink) (mkMsg 0x81 0 s 0 0 (b'.bytes n (d.get Par.capFormat n) ringMode))
  have hput : d.Agree [0x90, 0x91] [.host] put := Dev.ringPut_frame _ _ _
  have hcounted : put.Agree [0x60] [.caps] counted := .inc rfl rfl (Dev.setCap_frame _ _ _ |>.mono rfl rfl)
  refine ⟨?_, ?_, ?_, ?_⟩
  · rw [Dev.ring, hend.1.2 .host rfl, hcounted.2 .host rfl, ← Dev.ring, hslots]
  · rw [hend.1.get _ _ rfl rfl, hcounted.get _ _ rfl rfl, hhead]
  · rw [hend.1.get _ _ rfl rfl, hcounted.get _ _ rfl rfl, htail]
  · rw [hend.2.get, Dev.get_inc_same _ _ _ _ (by decide), (Dev.setCap_spares _ _ _).get, hput.get _ _ rfl rfl]

theorem Dev.run_of_full {d : Dev} (h : d.full = true) : d.phase = .run := by
  rw [Dev.full, Bool.and_eq_true] at h
  exact eq_of_beq h.1

theorem Dev.full_of_agree {cs : List Nat} {fs : List Fld} {d e : Dev} (h : d.Agree cs fs e) (hc : cs.contains 0xB0 = false) (hf : fs.contains .phase = false) :
    e.full = d.full := by
  have hmode : e.pmode = d.pmode := h.get _ _ rfl hc
  rw [Dev.full, Dev.up, hmode, h.2 .phase hf, Dev.full, Dev.up]

/-- Where the effect of a command in RUN or PARKING raises nothing and serves nothing, its end touches the power block and the pins. -/
theorem Dev.settle_of_agree {cs : List Nat} {fs : List Fld} {d e : Dev} (h : d.Agree cs fs e) (hfull : d.full = true) (hfresh : d.evt.fresh = [])
    (hc : cs.contains 0xB0 = false) (hf : fs.contains .phase = false) (hevt : fs.contains .evt = false) (old : Dev) : e.Agree [0xB0] [.pwr, .pins] (e.settle old) :=
  Dev.settle_of_quiet (by rw [Dev.full_of_agree h hc hf, hfull]) (by rw [h.2 .evt hevt, hfresh]) old

end Sys2Proof.Machine

open Sys2Proof Sys2Proof.Machine

/-- Settles O21: flush, completion and the end of a hold-off raise nothing, so that what they make stands; a fire leaves its trigger in HOLDOFF, which the
end of a command keeps. -/
theorem capturesAndTriggers : Obligations.CapturesAndTriggers := by
  unfold Obligations.CapturesAndTriggers
  refine ⟨⟨fun t n b s hcap hfresh hstate hcur => .of_does rfl fun e he => ?_, fun t n s hfull htb hfresh hstate hpost => .of_whenOn hfull htb rfl fun e he => ?_⟩,
    fun t n b rest s hrun hclosed hsession hopen hlink hfull hstate => .of_does rfl fun e he => ?_,
    fun t n s hfull htb hfresh hstate => .of_whenOn hfull htb rfl fun e he => ?_,
    fun t n s hfull htb hauto hhere hstate => .of_whenOn hfull htb rfl fun e he => ?_,
    fun t n s hfull htb hstate hopen => .of_whenOn hfull htb rfl fun e he => ?_⟩
  · have hgo : (s.dev.atTime t).capOn = true ∧ (s.dev.atTime t).get Par.capState n.val = csStream ∧ ((s.dev.atTime t).cap n.val).cur.isSome = true :=
      ⟨hcap, hstate, by rw [show ((s.dev.atTime t).cap n.val).cur = some b from hcur]; rfl⟩
    have he' : (s.dev.atTime t).closeBlk n.val = e := (if_pos hgo).symm.trans he
    have hsettle := Dev.settle_of_agree ((s.dev.atTime t).closeBlk_frame n.val) (Dev.full_of_capOn (d := s.dev.atTime t) hcap) hfresh rfl rfl rfl (s.dev.atTime t)
    have hset : (s.dev.atTime t).closeBlk n.val = (s.dev.atTime t).setCap n.val
        { s.dev.cap n.val with cur := none, closed := (s.dev.cap n.val).closed ++ [b], seq := ((s.dev.cap n.val).seq + 1) % 2 ^ 32 } := by
      unfold Dev.closeBlk
      extract_lets x
      split
      · next h => exact absurd (h.symm.trans hcur) nofun
      · next b' h =>
        cases h.symm.trans hcur
        rfl
    rw [he'] at hsettle hset
    have hcaps (m : Nat) : (e.settle (s.dev.atTime t)).cap m = e.cap m := Dev.cap_of_caps (hsettle.2 .caps rfl) m
    rw [hcaps, hset, Dev.cap_setCap_same]
    exact ⟨rfl, rfl, rfl, fun m _ hm => by rw [← hset, hcaps, hset, Dev.cap_setCap_other _ _ _ _ hm]; rfl⟩
  · have hgo : (s.dev.atTime t).get Par.capState n.val = csPost ∧ ((s.dev.atTime t).cap n.val).post.length ≥ (s.dev.atTime t).get Par.capPostCount n.val := ⟨hstate, hpost⟩
    have hsettle := Dev.settle_of_agree ((s.dev.atTime t).capComplete_frame n.val) hfull hfresh rfl rfl rfl (s.dev.atTime t)
    rw [he] at hsettle
    have hcaps (m : Nat) : (e.settle (s.dev.atTime t)).cap m = e.cap m := Dev.cap_of_caps (hsettle.2 .caps rfl) m
    unfold Dev.capComplete at he
    extract_lets x bs at he
    rw [if_pos hgo] at he
    refine ⟨?_, ?_, ?_, fun m _ hm => ⟨?_, ?_⟩⟩
    · rw [hsettle.get _ _ rfl rfl, ← he, Dev.get_put_same]
      rfl
    · rw [hcaps, ← he, Dev.cap_of_caps (Dev.put_caps _ _ _ _), Dev.cap_setCap_same]
    · rw [hcaps, ← he, Dev.cap_of_caps (Dev.put_caps _ _ _ _), Dev.cap_setCap_same]
    · rw [hcaps, ← he, Dev.cap_of_caps (Dev.put_caps _ _ _ _), Dev.cap_setCap_other _ _ _ _ hm]
      rfl
    · rw [hsettle.get _ _ rfl rfl, ← he, Dev.get_put_inst _ _ rfl hm, (Dev.setCap_spares _ _ _).get]
      rfl
  · have hdeliver := Dev.deliverBlock_delivers (d := s.dev.atTime t) (n := n.val) hclosed hsession hopen hlink hfull hstate
    have he' : (s.dev.atTime t).deliverBlock n.val = e := (if_pos (Dev.up_of_run (d := s.dev.atTime t) hrun)).symm.trans he
    rw [he'] at hdeliver
    obtain ⟨hslots, hhead, htail, hblocks⟩ := hdeliver
    rw [Dev.ring, Dev.settle_host, ← Dev.ring, Dev.settle_get _ _ _ rfl, Dev.settle_get _ _ _ rfl, (Dev.settle_capBlocks _ _).get]
    exact ⟨hslots, hhead, htail, hblocks⟩
  · have hstate' : ¬ (s.dev.atTime t).get Par.trigState n.val ≠ tsHoldoff := fun h => h hstate
    have hend : (s.dev.atTime t).Agree [0x61] [.trigs] e := he ▸ (s.dev.atTime t).holdoffEnd_frame n.val
    have hsettle := Dev.settle_of_agree hend hfull hfresh rfl rfl rfl (s.dev.atTime t)
    have htrigs (m : Nat) : (e.settle (s.dev.atTime t)).trig m = e.trig m := Dev.trig_of_trigs (hsettle.2 .trigs rfl) m
    have he' := (if_neg hstate').symm.trans he
    refine ⟨?_, ?_, ?_, ?_, fun m _ hm => ⟨?_, ?_⟩⟩
    · rw [hsettle.get _ _ rfl rfl, ← he', Dev.get_put_same]
      exact Nat.mod_eq_of_lt (by split <;> decide)
    · rw [htrigs, ← he', Dev.trig_of_trigs (Dev.put_trigs _ _ _ _), Dev.trig_setTrig_same]
    · rw [htrigs, ← he', Dev.trig_of_trigs (Dev.put_trigs _ _ _ _), Dev.trig_setTrig_same]
    · rw [hsettle.get _ _ rfl rfl, ← he', Dev.get_put_apart _ _ _ _ rfl, (Dev.setTrig_spares _ _ _).get]
      rfl
    · rw [hsettle.get _ _ rfl rfl, ← he', Dev.get_put_inst _ _ rfl hm, (Dev.setTrig_spares _ _ _).get]
      rfl
    · rw [htrigs, ← he', Dev.trig_of_trigs (Dev.put_trigs _ _ _ _), Dev.trig_setTrig_other _ _ _ _ hm]
      rfl
  · have hgo : (s.dev.atTime t).get Par.trigAutoMs n.val ≠ 0 ∧ ((s.dev.atTime t).get Par.trigState n.val = tsWait ∨ (s.dev.atTime t).get Par.trigState n.val = tsArmed)
        ∧ ((s.dev.atTime t).trig n.val).autoHere = true := ⟨hauto, hstate, hhere⟩
    have he' : (s.dev.atTime t).fireTrig n.val (s.dev.atTime t).now fcAuto (s.dev.atTime t).stakeNo = e := (if_pos hgo).symm.trans he
    obtain ⟨hheld, hfires, htime, hcause, -, hflag⟩ := Dev.fireTrig_fires (d := s.dev.atTime t) (n := n.val) hstate (s.dev.atTime t).now fcAuto (s.dev.atTime t).stakeNo
    rw [he'] at hheld hfires htime hcause hflag
    obtain ⟨-, gstate, gfires, gtime, gcause, -⟩ := Dev.settle_held hheld (s.dev.atTime t)
    have hup : (s.dev.atTime t).evtUp = true := Dev.evtUp_of_run (d := s.dev.atTime t) (Dev.run_of_full hfull)
    rw [gstate, gfires, gtime, gcause]
    exact ⟨hheld, hfires, htime, hcause, Dev.settle_keepsFlags _ _ _ (hflag hup)⟩
  · obtain ⟨hfire, hmissed, hkept, hfires⟩ := Dev.fireClose_closes (d := s.dev.atTime t) (n := n.val) hopen
    rw [he] at hfire hmissed hkept hfires
    obtain ⟨gtrig, gstate, gfires, -, -⟩ := Dev.settle_held (hkept.trans hstate) (s.dev.atTime t)
    rw [gtrig, gstate, gfires]
    exact ⟨hfire, hmissed, hkept.trans hstate, hfires⟩

end

section
/-! PROOF. Conversions of the analog front end and of the sigma-delta inputs (R263 to R271). -/

namespace Sys2Proof.Machine

variable {n : Nat}

theorem Dev.adc_of_adcs {d e : Dev} (h : e.adcs = d.adcs) (m : Nat) : e.adc m = d.adc m := by rw [Dev.adc, h, Dev.adc]

theorem Dev.sdi_of_sdis {d e : Dev} (h : e.sdis = d.sdis) (m : Nat) : e.sdi m = d.sdi m := by rw [Dev.sdi, h, Dev.sdi]

theorem Dev.setAdc_spares {p : Par} (d : Dev) (m : Nat) (x : AdcRt) : Dev.Spares p d (d.setAdc m x) := fun _ => rfl

theorem Dev.setSdi_spares {p : Par} (d : Dev) (m : Nat) (x : SdiRt) : Dev.Spares p d (d.setSdi m x) := fun _ => rfl

/-- The converter's parameters (Table 12.1) lie outside the classes that the end of a command moves. -/
theorem group_of_adc {p : Par} (hc : p.cls = 0x40) : p.group = 0x40 := by
  have hne : p ≠ Par.beatBeatCount := by
    rintro rfl
    cases hc
  rw [Par.group, if_neg hne, hc]

theorem apart_of_cls {p q : Par} (hp : p.small = true) (hq : q.small = true) (h : p.cls ≠ q.cls) : Par.apart p q = true := by
  have hne : p ≠ q := fun e => h (by rw [e])
  rw [Par.apart, hp, hq, decide_eq_true hne]
  rfl

theorem stays_of_adc {p : Par} (hp : p.small = true) (hc : p.cls = 0x40) : p.stays = true := by
  have hapart (q : Par) (hq : q.small = true) (hcls : q.cls = 0xB0) : Par.apart p q = true := apart_of_cls hp hq (by rw [hc, hcls]; decide)
  rw [Par.stays, hp, group_of_adc hc, hapart _ rfl rfl, hapart _ rfl rfl, hapart _ rfl rfl]
  rfl

/-- A conversion (R263, R266): the channel takes the code, and one out of range is counted. -/
theorem Dev.adcConvert_takes {d : Dev} (hon : d.isOn Par.adcEnable n = true) (hfull : d.full = true) (code : Int) :
    (d.adcConvert n code).adc n = { d.adc n with lastCode := code }
      ∧ (d.adcConvert n code).get Par.adcOvrCount n = (if code = 32767 ∨ code = -32768 then (d.get Par.adcOvrCount n + 1) % 2 ^ 32 else d.get Par.adcOvrCount n)
      ∧ (∀ m, m ≠ n → (d.adcConvert n code).adc m = d.adc m)
      ∧ ∀ p : Par, p.small = true → p.cls = 0x40 → p ≠ Par.adcOvrCount → ∀ m, (d.adcConvert n code).raw p m = d.raw p m := by
  generalize hr : d.adcConvert n code = r
  have hgo : ¬ (!d.adcOn n) = true := by rw [Dev.adcOn, hon, hfull]; decide
  unfold Dev.adcConvert at hr
  rw [if_neg hgo] at hr
  extract_lets counted src taken at hr
  have hcounted : counted.adcs = d.adcs := by
    unfold counted
    split
    · exact Dev.inc_adcs _ _ _ _ _
    · rfl
  have hend : taken.Agree [0x60, 0x61, 0xC0] [.evt, .caps, .trigs, .weave] r := hr ▸ Dev.sample_frame _ _ _ _ _ _ _
  have hadc (m : Nat) : r.adc m = taken.adc m := Dev.adc_of_adcs (hend.2 .adcs rfl) m
  have hovr : isOvr code = true ↔ code = 32767 ∨ code = -32768 := by simp [isOvr]
  refine ⟨?_, ?_, fun m hm => ?_, fun p hp hc hne m => ?_⟩
  · rw [hadc, Dev.adc_setAdc_same]
    exact congrArg (fun x : AdcRt => { x with lastCode := code }) (Dev.adc_of_adcs hcounted n)
  · rw [hend.get _ _ rfl rfl, (Dev.setAdc_spares _ _ _).get]
    unfold counted
    by_cases h : isOvr code = true
    · rw [if_pos h, if_pos (hovr.mp h), Dev.get_inc_same _ _ _ _ (by decide)]
    · rw [if_neg h, if_neg (fun g => h (hovr.mpr g))]
  · rw [hadc, Dev.adc_setAdc_other _ _ _ _ hm, Dev.adc_of_adcs hcounted]
  · have hapart : Par.apart p Par.adcOvrCount = true := by
      rw [Par.apart, hp, decide_eq_true hne]
      rfl
    have hcount : Dev.Spares p d counted := .ite (.put (.refl d) hapart) (.refl d)
    rw [hend.1 p m hp (by rw [group_of_adc hc]; rfl), Dev.setAdc_spares, hcount]

/-- The end of a calibration (R267): its offset and gain are taken, and judged. -/
theorem Dev.adcCalDone_ends {d : Dev} (hrun : (d.adc n).calRunning = true) (hup : d.evtUp = true) (off : Int) (gain : F32) :
    let bad := decide (64 < off.natAbs) || !(fle (fabs (fsub gain f1)) (frat 5 1000))
    (d.adcCalDone n off gain).adc n = { d.adc n with calRunning := false, calFail := bad }
      ∧ (d.adcCalDone n off gain).raw Par.adcCalOffset n = BitVec.ofInt 64 off ∧ (d.adcCalDone n off gain).getF Par.adcCalGain n = gain
      ∧ (bad = true → (d.adcCalDone n off gain).isOn Par.evtFlag evAdcCalFail = true)
      ∧ ∀ m, m ≠ n → (d.adcCalDone n off gain).adc m = d.adc m ∧ (d.adcCalDone n off gain).raw Par.adcCalOffset m = d.raw Par.adcCalOffset m := by
  intro bad
  generalize hr : d.adcCalDone n off gain = r
  have hgo : ¬ (!(d.adc n).calRunning) = true := by rw [hrun]; decide
  unfold Dev.adcCalDone at hr
  rw [if_neg hgo] at hr
  extract_lets found src ended at hr
  have hfound : found.adcs = d.adcs := (Dev.putF_adcs _ _ _ _).trans (Dev.putI_adcs _ _ _ _)
  have hend : ended.Agree [0xC0] [.evt] r := by
    rw [← hr]
    exact .ite (fun _ => Dev.raise_frame _ _ _ _ _) (fun _ => .refl)
  have hadc (m : Nat) : r.adc m = ended.adc m := Dev.adc_of_adcs (hend.2 .adcs rfl) m
  have hoff (m : Nat) : r.raw Par.adcCalOffset m = (d.putI Par.adcCalOffset n off).raw Par.adcCalOffset m := by
    rw [hend.1 _ m rfl rfl, Dev.setAdc_spares]
    exact Dev.raw_setRaw_apart _ _ _ _ rfl
  refine ⟨?_, ?_, ?_, fun hbad => ?_, fun m hm => ⟨?_, ?_⟩⟩
  · rw [hadc, Dev.adc_setAdc_same]
    exact congrArg (fun x : AdcRt => { x with calRunning := false, calFail := bad }) (Dev.adc_of_adcs hfound n)
  · rw [hoff]
    exact Dev.raw_setRaw_same _ _ _ _
  · rw [hend.getF _ _ rfl rfl, Dev.getF, Dev.setAdc_spares, ← Dev.getF, Dev.getF_putF_same]
  · rw [← hr, if_pos hbad]
    exact ended.isOn_raise _ _ _ hup
  · rw [hadc, Dev.adc_setAdc_other _ _ _ _ hm, Dev.adc_of_adcs hfound]
  · rw [hoff]
    exact Dev.raw_setRaw_inst _ _ rfl hm

/-- A stuck run (R271) is marked and counted once. -/
theorem Dev.sdiStuck_marks {d : Dev} (hon : d.isOn Par.sdiEnable n = true) (hfull : d.full = true) (hfree : (d.sdi n).stuck = false)
    (hbits : stuckBits (d.get Par.sdiStuckRun n) (d.sdi n).hist = true) :
    (d.sdiStuck n).sdi n = { d.sdi n with stuck := true } ∧ (d.sdiStuck n).get Par.sdiStuckCount n = (d.get Par.sdiStuckCount n + 1) % 2 ^ 32
      ∧ (d.evtUp = true → (d.sdiStuck n).isOn Par.evtFlag evSdiModFault = true) ∧ ∀ m, m ≠ n → (d.sdiStuck n).sdi m = d.sdi m := by
  have hgo : d.isOn Par.sdiEnable n = true ∧ d.full = true ∧ (!(d.sdi n).stuck) = true ∧ stuckBits (d.get Par.sdiStuckRun n) (d.sdi n).hist = true :=
    ⟨hon, hfull, by rw [hfree]; rfl, hbits⟩
  have heq : d.sdiStuck n = ((d.setSdi n { d.sdi n with stuck := true }).inc 32 Par.sdiStuckCount n).raise evSdiModFault (oid 0x41 n) := if_pos hgo
  rw [heq]
  have hsdi (m : Nat) : (((d.setSdi n { d.sdi n with stuck := true }).inc 32 Par.sdiStuckCount n).raise evSdiModFault (oid 0x41 n)).sdi m
      = (d.setSdi n { d.sdi n with stuck := true }).sdi m :=
    (Dev.sdi_of_sdis (Dev.raise_sdis _ _ _ _ _) m).trans (Dev.sdi_of_sdis (Dev.inc_sdis _ _ _ _ _) m)
  refine ⟨by rw [hsdi, Dev.sdi_setSdi_same], ?_, fun hup => Dev.isOn_raise _ _ _ _ ?_, fun m hm => by rw [hsdi, Dev.sdi_setSdi_other _ _ _ _ hm]⟩
  · rw [(Dev.raise_frame _ _ _ _ _).get _ _ rfl rfl, Dev.get_inc_same _ _ _ _ (by decide), (Dev.setSdi_spares _ _ _).get]
  · rw [Dev.evtUp, Dev.up, Dev.inc_phase]
    exact hup

/-- The bits clocked in (R269): they go before the history, and one that differs ends a stuck run. -/
theorem Dev.sdiBits_takes {d : Dev} (hn : n < 32) (hon : d.isOn Par.sdiEnable n = true) (hfull : d.full = true) (bits : List Bool) :
    ((d.sdiBits n bits).sdi n).hist = (bits.reverse ++ (d.sdi n).hist).take 1024 ∧ ((d.sdiBits n bits).sdi n).clocks = (d.sdi n).clocks + bits.length
      ∧ (((d.sdiBits n bits).sdi n).stuck = true → (d.sdi n).stuck = true ∧ stuckBits (d.get Par.sdiStuckRun n) ((d.sdiBits n bits).sdi n).hist = true)
      ∧ ∀ m, m ≠ n → (d.sdiBits n bits).sdi m = d.sdi m := by
  have hclock : d.sdiClock (d.get Par.sdiClkSel n) = true := by
    rw [Dev.sdiClock, hfull, List.any_eq_true.mpr ⟨n, List.mem_range.mpr hn, by rw [hon, beq_self_eq_true]; rfl⟩]
    rfl
  have hgo : ¬ ((!d.isOn Par.sdiEnable n) = true ∨ (!d.sdiClock (d.get Par.sdiClkSel n)) = true) := by rw [hon, hclock]; decide
  unfold Dev.sdiBits
  rw [if_neg hgo]
  extract_lets x hist y
  refine ⟨?_, ?_, ?_, fun m hm => Dev.sdi_setSdi_other _ _ _ _ hm⟩
  · rw [Dev.sdi_setSdi_same]
  · rw [Dev.sdi_setSdi_same]
  · rw [Dev.sdi_setSdi_same]
    exact fun h => Bool.and_eq_true_iff.mp h

theorem Dev.sdiDecimated_sdi (d : Dev) (m : Nat) : (d.sdiDecimated n).sdi m = d.sdi m := by
  have h : d.Agree [0x60, 0x61, 0xC0] [.evt, .caps, .trigs, .weave] (d.sdiDecimated n) := .ite (fun _ => .refl) (fun _ => Dev.sample_frame _ _ _ _ _ _ _)
  exact Dev.sdi_of_sdis (h.2 .sdis rfl) m

end Sys2Proof.Machine

open Sys2Proof Sys2Proof.Machine

/-- Settles O22: each command changes the record of its own channel, which the end of the command leaves. -/
theorem conversions : Obligations.Conversions := by
  unfold Obligations.Conversions
  have hadcs (e old : Dev) (m : Nat) : (e.settle old).adc m = e.adc m := Dev.adc_of_adcs (Dev.settle_adcs _ _) m
  have hsdis (e old : Dev) (m : Nat) : (e.settle old).sdi m = e.sdi m := Dev.sdi_of_sdis (Dev.settle_sdis _ _) m
  refine ⟨fun t n code s hfull htb hon => .of_whenOn hfull htb rfl fun e he => ?_, fun t n off gain s hfull htb hrun => ?_,
    fun t n s hfull htb hon hfree hbits => .of_whenOn hfull htb rfl fun e he => ?_, fun t n bits s hfull htb hon => .of_whenOn hfull htb rfl fun e he => ?_⟩
  · obtain ⟨hadc, hovr, hother, hraw⟩ := Dev.adcConvert_takes (d := s.dev.atTime t) (n := n.val) hon hfull code
    rw [he] at hadc hovr hother hraw
    rw [hadcs, Dev.settle_get _ _ _ rfl]
    exact ⟨hadc, hovr, fun m _ hm => by rw [hadcs]; exact hother m hm, fun p hp hc hne m => by
      rw [Dev.settle_raw _ _ _ (stays_of_adc hp hc)]; exact hraw p hp hc hne m⟩
  · intro bad
    refine .of_whenOn hfull htb rfl fun e he => ?_
    obtain ⟨hadc, hoff, hgain, hflag, hother⟩ :=
      Dev.adcCalDone_ends (d := s.dev.atTime t) (n := n.val) hrun (Dev.evtUp_of_run (d := s.dev.atTime t) (Dev.run_of_full hfull)) off gain
    rw [he] at hadc hoff hgain hflag hother
    rw [hadcs, Dev.settle_raw _ _ _ rfl, Dev.settle_getF _ _ _ rfl]
    refine ⟨hadc, hoff, hgain, fun hbad => Dev.settle_keepsFlags _ _ _ (hflag hbad), fun m _ hm => ?_⟩
    rw [hadcs, Dev.settle_raw _ _ _ rfl]
    exact hother m hm
  · obtain ⟨hsdi, hcount, hflag, hother⟩ := Dev.sdiStuck_marks (d := s.dev.atTime t) (n := n.val) hon hfull hfree hbits
    rw [he] at hsdi hcount hflag hother
    rw [hsdis, Dev.settle_get _ _ _ rfl]
    exact ⟨hsdi, hcount, Dev.settle_keepsFlags _ _ _ (hflag (Dev.evtUp_of_run (d := s.dev.atTime t) (Dev.run_of_full hfull))),
      fun m _ hm => by rw [hsdis]; exact hother m hm⟩
  · obtain ⟨hhist, hclocks, hstuck, hother⟩ := Dev.sdiBits_takes (d := s.dev.atTime t) n.isLt hon hfull bits
    have hsdi (m : Nat) : (e.settle (s.dev.atTime t)).sdi m = ((s.dev.atTime t).sdiBits n.val bits).sdi m := by rw [hsdis, ← he, Dev.sdiDecimated_sdi]
    rw [hsdi]
    exact ⟨hhist, hclocks, hstuck, fun m _ hm => by rw [hsdi]; exact hother m hm⟩

end

section
/-! PROOF. Window comparators, their trips, and the checks of their thresholds (R250, R273 to R279). -/

namespace Sys2Proof.Machine

variable {w : Nat}

theorem Dev.win_of_wins {d e : Dev} (h : e.wins = d.wins) (m : Nat) : e.win m = d.win m := by rw [Dev.win, h, Dev.win]

theorem mem_bitsOf {m k n : Nat} : n ∈ bitsOf m k ↔ n < k ∧ bit m n = true := by simp [bitsOf]

/-! ## Trips of a window -/

/-- From `d` to `e` the parameters of window `v` stay. -/
def Dev.WinStays (v : Nat) (d e : Dev) : Prop := ∀ p : Par, p.small = true → p.group = 0x42 → e.raw p v = d.raw p v

theorem Dev.WinStays.get {v : Nat} {d e : Dev} (h : Dev.WinStays v d e) {p : Par} (hp : p.small = true) (hg : p.group = 0x42) : e.get p v = d.get p v := by
  rw [Dev.get, h p hp hg, Dev.get]

theorem Dev.WinStays.of_agree {v : Nat} {cs : List Nat} {fs : List Fld} {d e : Dev} (h : d.Agree cs fs e) (hc : cs.contains 0x42 = false) : Dev.WinStays v d e :=
  fun p hp hg => h.1 p v hp (by rw [hg]; exact hc)

theorem Dev.WinStays.trans {v : Nat} {a b c : Dev} (h : Dev.WinStays v a b) (g : Dev.WinStays v b c) : Dev.WinStays v a c :=
  fun p hp hg => (g p hp hg).trans (h p hp hg)

theorem Dev.WinStays.refl (v : Nat) (d : Dev) : Dev.WinStays v d d := fun _ _ _ => rfl

theorem Dev.WinStays.put {v : Nat} {a d : Dev} (h : Dev.WinStays v a d) (hv : v ≠ w) {q : Par} (hq : q.small = true) {x : Nat} : Dev.WinStays v a (d.put q w x) :=
  h.trans fun p hp _ => by
    by_cases hpq : p = q
    · subst hpq; exact Dev.raw_setRaw_inst _ _ hp hv
    · exact Dev.raw_setRaw_apart _ _ _ _ (by simp [Par.apart, hpq, hp, hq])

/-- The window as its state is formed anew: marked, counted and dated where it trips (R275). -/
def Dev.winFormed (d : Dev) (w : Nat) : Dev :=
  if d.winIsTripped w && !d.isOn Par.winTripped w then
    (((d.put Par.winTripped w (b2n (d.winIsTripped w))).put Par.winFlag w 1).inc 32 Par.winTripCount w).put Par.winTripTime w d.now
  else d.put Par.winTripped w (b2n (d.winIsTripped w))

/-- Beyond the window's own parameters the trip acts on arms, legs and the Rim (R274). -/
theorem Dev.winRecalc_formed (d : Dev) : (d.winFormed w).Agree [0x12, 0x20, 0x30, 0x31, 0x70, 0xC0] [.evt, .mode, .legs, .ports, .arms, .weave, .rim] (d.winRecalc w) := by
  unfold Dev.winRecalc Dev.winFormed
  extract_lets now was set marked told tripped
  refine Dev.Agree.trans ?_ ((tripped.winRoutes_frame w).mono rfl rfl)
  have htold : marked.Agree [0x12, 0x20, 0x30, 0x31, 0x70, 0xC0] [.evt, .mode, .legs, .ports, .arms, .weave, .rim] told := (Dev.raise_frame _ _ _ _ _).mono rfl rfl
  have harms (js : List Nat) : marked.Agree [0x12, 0x20, 0x30, 0x31, 0x70, 0xC0] [.evt, .mode, .legs, .ports, .arms, .weave, .rim]
      (told.forL js fun d j => d.armBlock j afWindow 0xFFFFFFFF) := .forL (fun x j h => .step (x.armBlock_frame j afWindow 0xFFFFFFFF) rfl rfl h) htold
  unfold tripped
  rw [Bool.and_true]
  split
  · exact harms _
  · exact .refl

theorem Dev.winRecalc_other (d : Dev) {v : Nat} (hv : v ≠ w) : Dev.WinStays v d (d.winRecalc w) := by
  refine Dev.WinStays.trans ?_ (.of_agree d.winRecalc_formed rfl)
  unfold Dev.winFormed
  split
  · exact .put (.put (.put (.put (.refl v d) hv rfl) hv rfl) hv rfl) hv rfl
  · exact .put (.refl v d) hv rfl

/-- A comparator state stays as the window is formed anew. -/
theorem Dev.winRecalc_spares42 (d : Dev) {q : Par} (hq : q.small = true) (hg : q.group = 0x42)
    (h : ∀ p ∈ [Par.winTripped, Par.winFlag, Par.winTripCount, Par.winTripTime], Par.apart q p = true) : Dev.Spares q d (d.winRecalc w) := by
  refine Dev.Spares.frame ?_ d.winRecalc_formed hq (by rw [hg]; rfl)
  have hset : Dev.Spares q d (d.put Par.winTripped w (b2n (d.winIsTripped w))) := .put (.refl d) (h _ (by decide))
  exact .ite (.put (.put (.put hset (h _ (by decide))) (h _ (by decide))) (h _ (by decide))) hset

/-- Before the routes act, an untripped window whose comparators trip is counted and dated (R275). -/
theorem Dev.winRecalc_trips {d : Dev} (hnow : d.winIsTripped w = true) (hwas : d.isOn Par.winTripped w = false) :
    (d.winRecalc w).get Par.winTripped w = 1 ∧ (d.winRecalc w).get Par.winFlag w = 1
      ∧ (d.winRecalc w).get Par.winTripCount w = (d.get Par.winTripCount w + 1) % 2 ^ 32 ∧ (d.winRecalc w).get Par.winTripTime w = d.now % 2 ^ 64 := by
  have hformed : d.winFormed w = (((d.put Par.winTripped w 1).put Par.winFlag w 1).inc 32 Par.winTripCount w).put Par.winTripTime w d.now := by
    rw [Dev.winFormed, hnow, hwas]
    rfl
  have hrest := d.winRecalc_formed (w := w)
  rw [hformed] at hrest
  refine ⟨?_, ?_, ?_, ?_⟩
  · rw [hrest.get _ _ rfl rfl, Dev.get_put_apart _ _ _ _ rfl, Dev.get_inc_apart _ _ _ _ _ rfl, Dev.get_put_apart _ _ _ _ rfl, Dev.get_put_same]
    rfl
  · rw [hrest.get _ _ rfl rfl, Dev.get_put_apart _ _ _ _ rfl, Dev.get_inc_apart _ _ _ _ _ rfl, Dev.get_put_same]
    rfl
  · rw [hrest.get _ _ rfl rfl, Dev.get_put_apart _ _ _ _ rfl, Dev.get_inc_same _ _ _ _ (by decide), Dev.get_put_apart _ _ _ _ rfl, Dev.get_put_apart _ _ _ _ rfl]
  · rw [hrest.get _ _ rfl rfl, Dev.get_put_same]

/-- A window that was tripped is not counted again (R275). -/
theorem Dev.winRecalc_still {d : Dev} (hwas : d.isOn Par.winTripped w = true) :
    (d.winRecalc w).get Par.winTripped w = b2n (d.winIsTripped w) ∧ (d.winRecalc w).get Par.winFlag w = d.get Par.winFlag w
      ∧ (d.winRecalc w).get Par.winTripCount w = d.get Par.winTripCount w := by
  have hformed : d.winFormed w = d.put Par.winTripped w (b2n (d.winIsTripped w)) := by
    rw [Dev.winFormed, hwas, Bool.not_true, Bool.and_false]
    rfl
  have hrest := d.winRecalc_formed (w := w)
  rw [hformed] at hrest
  refine ⟨?_, ?_, ?_⟩
  · rw [hrest.get _ _ rfl rfl, Dev.get_put_same]
    cases d.winIsTripped w <;> rfl
  · rw [hrest.get _ _ rfl rfl, Dev.get_put_apart _ _ _ _ rfl]
  · rw [hrest.get _ _ rfl rfl, Dev.get_put_apart _ _ _ _ rfl]

/-- A tripped window trips the legs on its route (R274): none is live after it. -/
theorem Dev.winRoutes_legs {d : Dev} (htripped : d.isOn Par.winTripped w = true) {n : Nat} (hn : n < 40) (hroute : bit (d.get Par.winRouteLeg w) n = true) :
    ¬ (d.winRoutes w).legLive n := by
  unfold Dev.winRoutes
  have hgo : ¬ (!d.isOn Par.winTripped w) = true := by rw [htripped]; decide
  rw [if_neg hgo]
  extract_lets pulled
  have hend : pulled.Agree [0x70, 0xC0] [.evt, .rim] (if pulled.isOn Par.winRouteRim w then pulled.rimEval else pulled) :=
    .ite (fun _ => pulled.rimEval_frame) (fun _ => .refl)
  obtain ⟨hlive, hidle, -⟩ := d.tripLegs_legs (bitsOf (d.get Par.winRouteLeg w) 40) 1 n (by decide)
  have hpulled : ¬ pulled.legLive n := by
    by_cases h : d.legLive n
    · exact (hlive (mem_bitsOf.mpr ⟨hn, hroute⟩) h).not_live
    · rwa [Dev.legLive, hidle h]
  rwa [Dev.legLive, hend.get _ _ rfl rfl]

theorem Dev.winRecalc_legs {d : Dev} (hnow : d.winIsTripped w = true) {n : Nat} (hn : n < 40) (hroute : bit (d.get Par.winRouteLeg w) n = true) :
    ¬ (d.winRecalc w).legLive n := by
  unfold Dev.winRecalc
  extract_lets now was set marked told tripped
  have hmarked (js : List Nat) : marked.Agree [0x12, 0xC0] [.evt, .mode, .arms, .weave] (told.forL js fun d j => d.armBlock j afWindow 0xFFFFFFFF) :=
    .forL (fun x j h => h.trans (x.armBlock_frame j afWindow 0xFFFFFFFF)) ((Dev.raise_frame _ _ _ _ _).mono rfl rfl)
  have hkept {p : Par} (hp : p.small = true) (hg : p.group = 0x42) (h : ∀ q ∈ [Par.winFlag, Par.winTripCount, Par.winTripTime], Par.apart p q = true) :
      Dev.Spares p set tripped :=
    .ite (.frame (.put (.put (.put (.refl set) (h _ (by decide))) (h _ (by decide))) (h _ (by decide))) (hmarked _) hp (by rw [hg]; rfl)) (.refl set)
  have htripped : tripped.isOn Par.winTripped w = true := by
    rw [Dev.isOn, (hkept rfl rfl (by decide)).get, Dev.get_put_same, show now = true from hnow]
    rfl
  have hroutes : tripped.get Par.winRouteLeg w = d.get Par.winRouteLeg w := by
    rw [(hkept rfl rfl (by decide)).get, Dev.get_put_apart _ _ _ _ rfl]
  exact Dev.winRoutes_legs htripped hn (by rw [hroutes, hroute])

/-! ## Terminations (R250) leave the states of the legs -/

theorem Dev.setLeg_spares {p : Par} (d : Dev) (m : Nat) (x : LegRt) : Dev.Spares p d (d.setLeg m x) := fun _ => rfl

theorem Dev.legPeriod_legState (d : Dev) (n z : Nat) : Dev.Spares Par.legState d (d.legPeriod n z) := by
  unfold Dev.legPeriod
  extract_lets car p first ps x r o marks src set put discards drops dropped refreshed status event
  have hset : Dev.Spares Par.legState d set := d.setLeg_spares n _
  clear_value set
  have hdiscards : Dev.Spares Par.legState d discards := .ite (.put (.putF hset rfl) rfl) (.putF hset rfl)
  have hrefreshed : Dev.Spares Par.legState d refreshed := .ite (.put (.ite hdiscards (.put hdiscards rfl)) rfl) (.ite hdiscards (.put hdiscards rfl))
  have hstatus : Dev.Spares Par.legState d status := .put (.put hrefreshed rfl) rfl
  have hevent : Dev.Spares Par.legState d event := .frame hstatus (Dev.legEvent_frame _ _ _ _) rfl rfl
  exact .ite hstatus (.ite hevent (.frame hevent (Dev.legEvent_frame _ _ _ _) rfl rfl))

theorem Dev.legTerminate_legState (d : Dev) (n : Nat) : Dev.Spares Par.legState d (d.legTerminate n) := by
  have hend (x : Dev) (t : Nat) : Dev.Spares Par.legState x (x.legVarEnd n t) := by
    unfold Dev.legVarEnd
    extract_lets src ended
    have hended : Dev.Spares Par.legState x ended := x.setLeg_spares n _
    exact .ite (hended.trans (Dev.legPeriod_legState _ _ _)) (.ite (hended.trans (Dev.setLeg_spares _ _ _)) hended)
  unfold Dev.legTerminate
  extract_lets x tick
  split
  · exact .ite (.refl d) (.ite (hend d _) (d.setLeg_spares n _))
  · exact .refl d

theorem Dev.winTerminates_legState (d : Dev) (w comp : Nat) : Dev.Spares Par.legState d (d.winTerminates w comp) :=
  .forL (fun x n => .ite (x.legTerminate_legState n) (.refl x)) _ _

/-! ## A change of a comparator (R273, R274) -/

theorem winComp_apart_settings (comp : Nat) {q : Par} (hq : q ∈ [Par.winModeRun, Par.winModeParked, Par.winCompEn, Par.winRouteLeg, Par.winTripped, Par.winFlag,
    Par.winTripCount, Par.winTripTime, Par.pwrMode]) : Par.apart q (winComp comp) = true ∧ Par.apart (winComp comp) q = true := by
  have hall : ∀ q ∈ [Par.winModeRun, Par.winModeParked, Par.winCompEn, Par.winRouteLeg, Par.winTripped, Par.winFlag, Par.winTripCount, Par.winTripTime, Par.pwrMode],
      ∀ c ∈ [Par.winStateHi, Par.winStateLo], Par.apart q c = true ∧ Par.apart c q = true := by decide
  refine hall q hq (winComp comp) ?_
  unfold winComp
  split <;> simp

theorem winComp_small (comp : Nat) : (winComp comp).small = true ∧ (winComp comp).group = 0x42 ∧ (winComp comp).stays = true := by
  unfold winComp
  split <;> exact ⟨rfl, rfl, rfl⟩

theorem Dev.winMode_put (d : Dev) (comp st : Nat) : (d.put (winComp comp) w st).winMode w = d.winMode w := by
  have hget {q : Par} (hq : q ∈ [Par.winModeRun, Par.winModeParked, Par.winCompEn, Par.winRouteLeg, Par.winTripped, Par.winFlag, Par.winTripCount, Par.winTripTime, Par.pwrMode])
      (i : Nat) : (d.put (winComp comp) w st).get q i = d.get q i := Dev.get_put_apart _ _ _ _ (winComp_apart_settings comp hq).1
  simp only [Dev.winMode, Dev.up, Dev.pmode, Dev.put_phase, hget (show Par.pwrMode ∈ _ by decide), hget (show Par.winModeRun ∈ _ by decide), hget (show Par.winModeParked ∈ _ by decide)]
  rfl

theorem Dev.winIsTripped_active {d : Dev} (low : Bool) (hmode : d.winMode w ≠ 0) (hen : bit (d.get Par.winCompEn w) (b2n low) = true)
    (hstate : d.get (winComp (b2n low)) w = wcActive) : d.winIsTripped w = true := by
  have hmode' : (d.winMode w != 0) = true := bne_iff_ne.mpr hmode
  have hne : (wcActive != wcInactive) = true := rfl
  unfold Dev.winIsTripped
  extract_lets en
  cases low with
  | false =>
    have h0 : bit en 0 = true := hen
    have hs : d.get Par.winStateHi w = wcActive := hstate
    rw [hmode', h0, hs, hne]
    rfl
  | true =>
    have h1 : bit en 1 = true := hen
    have hs : d.get Par.winStateLo w = wcActive := hstate
    rw [hmode', h1, hs, hne, Bool.and_self, Bool.or_true]
    rfl

theorem Dev.winIsTripped_inactive {d : Dev} (low : Bool) (hstate : d.get (winComp (b2n low)) w = wcInactive)
    (hother : bit (d.get Par.winCompEn w) (1 - b2n low) = false ∨ d.get (winComp (1 - b2n low)) w = wcInactive) : d.winIsTripped w = false := by
  have hne : (wcInactive != wcInactive) = false := rfl
  unfold Dev.winIsTripped
  extract_lets en
  cases low with
  | false =>
    have hs : d.get Par.winStateHi w = wcInactive := hstate
    have ho : (bit en 1 && d.get Par.winStateLo w != wcInactive) = false := by
      rcases hother with h | h
      · rw [show bit en 1 = false from h, Bool.false_and]
      · rw [show d.get Par.winStateLo w = wcInactive from h, hne, Bool.and_false]
    rw [hs, hne, ho, Bool.and_false, Bool.or_false, Bool.and_false]
  | true =>
    have hs : d.get Par.winStateLo w = wcInactive := hstate
    have ho : (bit en 0 && d.get Par.winStateHi w != wcInactive) = false := by
      rcases hother with h | h
      · rw [show bit en 0 = false from h, Bool.false_and]
      · rw [show d.get Par.winStateHi w = wcInactive from h, hne, Bool.and_false]
    rw [hs, hne, ho, Bool.and_false, Bool.or_false, Bool.and_false]

/-- A comparator that becomes ACTIVE: what it starts leaves the windows and the states of the legs (R250, R314). -/
theorem Dev.winChange_active {d : Dev} {comp : Nat} (hmode : d.winMode w ≠ 0) (hstate : d.get (winComp comp) w ≠ wcActive) :
    ((d.put (winComp comp) w wcActive).winRecalc w).Agree [0x31, 0x60, 0x61, 0xC0] [.evt, .legs, .caps, .trigs, .weave] (d.winChange w comp true)
      ∧ Dev.Spares Par.legState ((d.put (winComp comp) w wcActive).winRecalc w) (d.winChange w comp true) := by
  have hgo : ¬ (d.winMode w = 0 ∨ d.get (winComp comp) w = wcActive) := fun h => h.elim hmode hstate
  have heq : d.winChange w comp true = (((d.put (winComp comp) w wcActive).winRecalc w).windowTrig w comp).winTerminates w comp := if_neg hgo
  rw [heq]
  generalize (d.put (winComp comp) w wcActive).winRecalc w = x
  exact ⟨((x.windowTrig_frame w comp).mono rfl rfl).trans (Dev.winTerminates_frame _ w comp),
    (Dev.Spares.frame (.refl x) (x.windowTrig_frame w comp) rfl rfl).trans (Dev.winTerminates_legState _ w comp)⟩

theorem Dev.winChange_inactive {d : Dev} {comp : Nat} (hmode : d.winMode w ≠ 0) (hstate : d.get (winComp comp) w = wcActive) :
    d.winChange w comp false = (d.put (winComp comp) w wcInactive).winRecalc w := by
  have hgo : ¬ (d.winMode w = 0 ∨ d.get (winComp comp) w = wcInactive) := fun h => h.elim hmode fun h => by rw [hstate] at h; cases h
  exact if_neg hgo

/-! ## Checks of the thresholds (R278, R279) -/

theorem Dev.setWin_spares {p : Par} (d : Dev) (m : Nat) (x : WinRt) : Dev.Spares p d (d.setWin m x) := fun _ => rfl

/-- check_period asks for a check of the converter whose turn it is. -/
theorem Dev.checkPeriod_asks {d : Dev} (hperiod : d.get Par.winCheckPeriod w ≠ 0) (hup : d.up = true) (hjudge : d.judgeReadback w = stOk) :
    (d.checkPeriod w).get Par.winReadback w = (if (d.win w).autoHi then 2 else 1)
      ∧ ((d.checkPeriod w).win w).check = some { which := if (d.win w).autoHi then 2 else 1, chan := d.get Par.winReadbackChan w }
      ∧ ((d.checkPeriod w).win w).autoHi = !(d.win w).autoHi ∧ ∀ v, v ≠ w → (d.checkPeriod w).win v = d.win v := by
  have hgo : ¬ (d.get Par.winCheckPeriod w = 0 ∨ (!d.up) = true ∨ d.judgeReadback w ≠ stOk) := by
    rw [hup]
    exact fun h => h.elim hperiod fun h => h.elim Bool.false_ne_true fun h => h hjudge
  unfold Dev.checkPeriod
  rw [if_neg hgo]
  extract_lets hi src turned
  have hwhich : (if hi = true then 1 else 2) = if (d.win w).autoHi then 2 else 1 := by
    unfold hi
    cases (d.win w).autoHi <;> rfl
  rw [hwhich, Dev.readbackStart]
  have hwins (m v : Nat) (x : Dev) : (x.put Par.winReadback w v).win m = x.win m := Dev.win_of_wins (Dev.put_wins _ _ _ _) m
  have hturned : turned.win w = { d.win w with autoHi := hi } := Dev.win_setWin_same _ _ _
  refine ⟨?_, ?_, ?_, fun v hv => ?_⟩
  · rw [Dev.get_put_same]
    exact Nat.mod_eq_of_lt (by split <;> decide)
  · rw [hwins, Dev.win_setWin_same, (d.setWin_spares w _).get]
  · rw [hwins, Dev.win_setWin_same, hturned]
  · rw [hwins, Dev.win_setWin_other _ _ _ _ hv, Dev.win_setWin_other _ _ _ _ hv]

/-- The end of a check that has its channel: the mean of the codes, its error, and the verdict. -/
theorem Dev.readbackDone_ends {d : Dev} {c : Readback} (hcheck : (d.win w).check = some c) (htaken : c.taken = true) (codes : List Int) :
    let vs := codes.map (d.adcVolts c.chan)
    let v := fdiv (vs.foldl fadd f0) (fint (vs.length : Nat))
    let thr := if c.which = 1 then d.get Par.winHiThr w else d.get Par.winLoThr w
    let err := fdiv (fsub v (thrVolts (d.get Par.winInput w) thr)) (thrLsb (d.get Par.winInput w))
    let e := d.readbackDone w codes
    (e.win w).check = none ∧ (e.adc c.chan).held = false ∧ e.get Par.winReadback w = 0 ∧ e.getF Par.winReadbackV w = v ∧ e.getF Par.winReadbackErr w = err
      ∧ e.get Par.winThrFail w = b2n (!(fle (fabs err) (fint 4)))
      ∧ (d.evtUp = true → fle (fabs err) (fint 4) = false → e.isOn Par.evtFlag evWinThreshFail = true) := by
  intro vs v thr err
  generalize hr : d.readbackDone w codes = r
  intro e
  subst e
  unfold Dev.readbackDone at hr
  split at hr
  · next h => exact absurd (h.symm.trans hcheck) nofun
  next c' h =>
  cases h.symm.trans hcheck
  have hgo : ¬ (!c.taken) = true := by rw [htaken]; decide
  rw [if_neg hgo] at hr
  extract_lets input err' fail src src' freed shown judged at hr
  have hfreed : freed.Agree [0x42] [] judged := .put rfl rfl (.putF rfl rfl (.putF rfl rfl (.put rfl rfl .refl)))
  have hend : judged.Agree [0xC0] [.evt] r := by
    rw [← hr]
    exact .ite (fun _ => Dev.raise_frame _ _ _ _ _) (fun _ => .refl)
  refine ⟨?_, ?_, ?_, ?_, ?_, ?_, fun hup hbad => ?_⟩
  · rw [Dev.win, hend.2 .wins rfl, hfreed.2 .wins rfl, (Dev.setAdc_frame _ _ _).2 .wins rfl, ← Dev.win, Dev.win_setWin_same]
  · rw [Dev.adc, hend.2 .adcs rfl, hfreed.2 .adcs rfl, ← Dev.adc, Dev.adc_setAdc_same]
  · rw [hend.get _ _ rfl rfl, Dev.get_put_apart _ _ _ _ rfl, Dev.get_putF_apart _ _ _ _ rfl, Dev.get_putF_apart _ _ _ _ rfl, Dev.get_put_same]
    rfl
  · rw [hend.getF _ _ rfl rfl, Dev.getF_put_apart _ _ _ _ rfl, Dev.getF_putF_apart _ _ _ _ rfl, Dev.getF_putF_same]
  · rw [hend.getF _ _ rfl rfl, Dev.getF_put_apart _ _ _ _ rfl, Dev.getF_putF_same]
  · rw [hend.get _ _ rfl rfl, Dev.get_put_same]
    exact Nat.mod_eq_of_lt (by unfold b2n; split <;> decide)
  · have hphase : judged.phase = d.phase :=
      (hfreed.2 .phase rfl).trans (((Dev.setAdc_frame _ _ _).2 .phase rfl).trans ((d.setWin_frame w _).2 .phase rfl))
    have hfail : fail = true := congrArg not hbad
    rw [← hr, if_pos hfail]
    exact Dev.isOn_raise _ _ _ _ (by rw [Dev.evtUp, Dev.up, hphase]; exact hup)

end Sys2Proof.Machine

open Sys2Proof Sys2Proof.Machine

/-- Settles O23: a change of a comparator forms its window anew, which trips its route; a check takes its result. -/
theorem windows : Obligations.Windows := by
  unfold Obligations.Windows
  refine ⟨fun t w low s hmode hstate => .of_does rfl fun e he => ?_, fun t w low s hmode hstate hwas => .of_does rfl fun e he => ?_,
    fun t w s hfull htb hperiod hjudge => ?_, fun t w codes c s hfull htb hcheck htaken => ?_⟩
  · obtain ⟨hend, hlegs⟩ := Dev.winChange_active (d := s.dev.atTime t) (w := w.val) (comp := b2n low) hmode hstate
    rw [he] at hend hlegs
    have hset {q : Par} (hq : q ∈ [Par.winModeRun, Par.winModeParked, Par.winCompEn, Par.winRouteLeg, Par.winTripped, Par.winFlag, Par.winTripCount, Par.winTripTime, Par.pwrMode])
        (v : Nat) : ((s.dev.atTime t).put (winComp (b2n low)) w.val wcActive).get q v = s.dev.get q v := Dev.get_put_apart _ _ _ _ (winComp_apart_settings _ hq).1
    have hmode' : ((s.dev.atTime t).put (winComp (b2n low)) w.val wcActive).winMode w.val ≠ 0 := by rw [Dev.winMode_put]; exact hmode
    have hactive : ((s.dev.atTime t).put (winComp (b2n low)) w.val wcActive).get (winComp (b2n low)) w.val = wcActive := by rw [Dev.get_put_same]; rfl
    have hother (v : Nat) (hv : v ≠ w.val) : Dev.WinStays v (s.dev.atTime t) e :=
      ((Dev.WinStays.put (.refl v _) hv (winComp_small _).1).trans (Dev.winRecalc_other _ hv)).trans (.of_agree hend rfl)
    have hnow : ((s.dev.atTime t).put (winComp (b2n low)) w.val wcActive).now = s.dev.instant t := Dev.put_now _ _ _ _
    generalize (s.dev.atTime t).put (winComp (b2n low)) w.val wcActive = x at *
    refine ⟨?_, fun hen hfree => ?_, fun v _ hv => ?_⟩
    · obtain ⟨hsmall, hgroup, hstays⟩ := winComp_small (b2n low)
      have hkept : Dev.Spares (winComp (b2n low)) x (x.winRecalc w.val) := Dev.winRecalc_spares42 x hsmall hgroup fun p hp =>
        (winComp_apart_settings (b2n low) (by revert p hp; decide)).2
      rw [Dev.settle_get _ _ _ hstays, (hend.get _ _ hsmall (by rw [hgroup]; rfl)), hkept.get, hactive]
    · have htrips : x.winIsTripped w.val = true := Dev.winIsTripped_active low hmode' (by rw [hset (by decide)]; exact hen) hactive
      obtain ⟨htripped, hflag, hcount, htime⟩ := Dev.winRecalc_trips htrips (by rw [Dev.isOn, hset (by decide)]; exact hfree)
      rw [Dev.settle_get _ _ _ rfl, Dev.settle_get _ _ _ rfl, Dev.settle_get _ _ _ rfl, Dev.settle_get _ _ _ rfl, hend.get _ _ rfl rfl, hend.get _ _ rfl rfl,
        hend.get _ _ rfl rfl, hend.get _ _ rfl rfl, htripped, hflag, hcount, htime, hset (by decide), hnow]
      refine ⟨rfl, rfl, rfl, rfl, fun n hn hroute => ?_⟩
      have hidle := Dev.winRecalc_legs htrips hn (by rw [hset (by decide)]; exact hroute)
      rw [Dev.settle_get _ _ _ rfl, hlegs.get]
      exact not_or.mp hidle
    · rw [Dev.settle_get _ _ _ rfl, Dev.settle_get _ _ _ rfl, (hother v hv).get rfl rfl, (hother v hv).get rfl rfl]
      exact ⟨rfl, rfl⟩
  · rw [Dev.winChange_inactive (d := s.dev.atTime t) hmode hstate] at he
    have hset {q : Par} (hq : q ∈ [Par.winModeRun, Par.winModeParked, Par.winCompEn, Par.winRouteLeg, Par.winTripped, Par.winFlag, Par.winTripCount, Par.winTripTime, Par.pwrMode])
        (v : Nat) : ((s.dev.atTime t).put (winComp (b2n low)) w.val wcInactive).get q v = s.dev.get q v := Dev.get_put_apart _ _ _ _ (winComp_apart_settings _ hq).1
    have hinactive : ((s.dev.atTime t).put (winComp (b2n low)) w.val wcInactive).get (winComp (b2n low)) w.val = wcInactive := by rw [Dev.get_put_same]; rfl
    have hother : (bit (s.dev.get Par.winCompEn w.val) (1 - b2n low) = false ∨ s.dev.get (winComp (1 - b2n low)) w.val = wcInactive) →
        ((s.dev.atTime t).put (winComp (b2n low)) w.val wcInactive).winIsTripped w.val = false := by
      intro h
      refine Dev.winIsTripped_inactive low hinactive (h.imp (fun h => by rw [hset (by decide)]; exact h) fun h => ?_)
      have happart : Par.apart (winComp (1 - b2n low)) (winComp (b2n low)) = true := by cases low <;> rfl
      rw [Dev.get_put_apart _ _ _ _ happart]
      exact h
    generalize (s.dev.atTime t).put (winComp (b2n low)) w.val wcInactive = x at *
    obtain ⟨hsmall, hgroup, hstays⟩ := winComp_small (b2n low)
    have hkept : Dev.Spares (winComp (b2n low)) x (x.winRecalc w.val) := Dev.winRecalc_spares42 x hsmall hgroup fun p hp =>
      (winComp_apart_settings (b2n low) (by revert p hp; decide)).2
    obtain ⟨htripped, hflag, hcount⟩ := Dev.winRecalc_still (d := x) (w := w.val) (by rw [Dev.isOn, hset (by decide)]; exact hwas)
    rw [he] at hkept htripped hflag hcount
    rw [Dev.settle_get _ _ _ hstays, Dev.settle_get _ _ _ rfl, Dev.settle_get _ _ _ rfl, Dev.settle_get _ _ _ rfl, hkept.get, hinactive, hcount, hflag, htripped,
      hset (by decide), hset (by decide)]
    exact ⟨rfl, rfl, rfl, fun h => by rw [hother h]; rfl⟩
  · intro which
    refine .of_whenOn hfull htb rfl fun e he => ?_
    obtain ⟨hshown, hasked, hturn, hother⟩ := Dev.checkPeriod_asks (d := s.dev.atTime t) (w := w.val) hperiod (Dev.up_of_run (d := s.dev.atTime t) (Dev.run_of_full hfull)) hjudge
    rw [he] at hshown hasked hturn hother
    have hwins (v : Nat) : (e.settle (s.dev.atTime t)).win v = e.win v := Dev.win_of_wins (Dev.settle_wins _ _) v
    rw [Dev.settle_get _ _ _ rfl, hwins]
    exact ⟨hshown, hasked, hturn, fun v _ hv => by rw [hwins]; exact hother v hv⟩
  · intro vs v input thr err
    refine .of_whenOn hfull htb rfl fun e he => ?_
    obtain ⟨hfree, hheld, hpending, hvoltage, herr, hfail, hflag⟩ := Dev.readbackDone_ends (d := s.dev.atTime t) (w := w.val) hcheck htaken codes
    rw [he] at hfree hheld hpending hvoltage herr hfail hflag
    have hwins : (e.settle (s.dev.atTime t)).win w.val = e.win w.val := Dev.win_of_wins (Dev.settle_wins _ _) _
    have hadcs : (e.settle (s.dev.atTime t)).adc c.chan = e.adc c.chan := Dev.adc_of_adcs (Dev.settle_adcs _ _) _
    rw [hwins, hadcs, Dev.settle_get _ _ _ rfl, Dev.settle_getF _ _ _ rfl, Dev.settle_getF _ _ _ rfl, Dev.settle_get _ _ _ rfl]
    exact ⟨hfree, hheld, hpending, hvoltage, herr, hfail,
      fun hbad => Dev.settle_keepsFlags _ _ _ (hflag (Dev.evtUp_of_run (d := s.dev.atTime t) (Dev.run_of_full hfull)) hbad)⟩

end

section
/-! SUPPORT. The Rim's evaluation of its inputs and its latches (R322 to R330, R336): what they leave of what the inputs show, and what they make of the
outputs. -/

namespace Sys2Proof.Machine

/-! ## What the inputs show -/

/-- The state of the Rim without what a latch moves. -/
def RimSt.sight (r : RimSt) : RimSt := { r with causes := [], edmOpen := 0, ofOk := 0 }

/-- From `d` to `e` what the inputs of the Rim show stays: its state but the latches, and the levels of the channels. -/
structure Dev.SameInputs (d e : Dev) : Prop where
  sight : e.rim.sight = d.rim.sight
  level : Dev.Spares Par.rimInLevel d e
  undet : Dev.Spares Par.rimInUndet d e

theorem Dev.SameInputs.refl (d : Dev) : d.SameInputs d := ⟨rfl, .refl d, .refl d⟩

theorem Dev.SameInputs.trans {a b c : Dev} (h : a.SameInputs b) (g : b.SameInputs c) : a.SameInputs c :=
  ⟨g.sight.trans h.sight, h.level.trans g.level, h.undet.trans g.undet⟩

theorem Dev.SameInputs.of_rim {d e : Dev} (hrim : e.rim = d.rim) (hlevel : Dev.Spares Par.rimInLevel d e) (hundet : Dev.Spares Par.rimInUndet d e) :
    d.SameInputs e := ⟨by rw [hrim], hlevel, hundet⟩

theorem Dev.SameInputs.put {a d : Dev} (h : a.SameInputs d) {p : Par} {i v : Nat} (hl : Par.apart Par.rimInLevel p = true) (hu : Par.apart Par.rimInUndet p = true) :
    a.SameInputs (d.put p i v) := h.trans (.of_rim (Dev.put_rim _ _ _ _) (.put (.refl d) hl) (.put (.refl d) hu))

theorem Dev.SameInputs.raise {a d : Dev} (h : a.SameInputs d) {n obj detail : Nat} {island : Bool} : a.SameInputs (d.raise n obj detail island) :=
  h.trans (.of_rim (Dev.raise_rim _ _ _ _ _) (.frame (.refl d) (d.raise_frame _ _ _ _) rfl rfl) (.frame (.refl d) (d.raise_frame _ _ _ _) rfl rfl))

theorem Dev.SameInputs.ite {a x y : Dev} {c : Prop} [Decidable c] (h : a.SameInputs x) (g : a.SameInputs y) : a.SameInputs (if c then x else y) := by
  split
  · exact h
  · exact g

theorem Dev.SameInputs.foldl {α : Type} {f : Dev → α → Dev} (hf : ∀ (d : Dev) x, d.SameInputs (f d x)) (xs : List α) (d : Dev) : d.SameInputs (xs.foldl f d) :=
  List.foldlRecOn xs f (motive := d.SameInputs) (.refl d) (fun e h x _ => h.trans (hf e x))

theorem Dev.SameInputs.active {d e : Dev} (h : d.SameInputs e) : e.rim.active = d.rim.active := by
  have hactive := congrArg RimSt.active h.sight
  exact hactive

theorem Dev.SameInputs.used {d e : Dev} (h : d.SameInputs e) (j : Nat) : e.outUsed j = d.outUsed j := by rw [Dev.outUsed, h.active, Dev.outUsed]

theorem Dev.SameInputs.type {d e : Dev} (h : d.SameInputs e) (k : Nat) : e.rimType k = d.rimType k := by rw [Dev.rimType, h.active, Dev.rimType]

theorem Dev.SameInputs.chDemand {d e : Dev} (h : d.SameInputs e) (k ch : Nat) : e.chDemand k ch = d.chDemand k ch := by
  have hunder : e.rim.under = d.rim.under := by
    have hsight := congrArg RimSt.under h.sight
    exact hsight
  have hlevel (c : Nat) : e.rimLevel c = d.rimLevel c := by rw [Dev.rimLevel, hunder, h.level.get, Dev.rimLevel]
  simp only [Dev.chDemand, hlevel, h.type, h.undet.get]

theorem Dev.SameInputs.inDemand {d e : Dev} (h : d.SameInputs e) (k : Nat) : e.inDemand k = d.inDemand k := by
  simp only [Dev.inDemand, h.type, h.chDemand]

theorem Dev.SameInputs.chAgree {d e : Dev} (h : d.SameInputs e) (k : Nat) : e.chAgree k = d.chAgree k := by
  simp only [Dev.chAgree, h.chDemand]

/-! ## Latches -/

/-- The parameters that a latch writes (R323, R330). -/
def rimLatchWrites : List Par := [Par.rimOutEnergised, Par.rimOutCauses, Par.rimState, Par.rimCause, Par.rimLockoutTime, Par.rimLockouts]

theorem Dev.showOutput_same (d : Dev) (j : Nat) : d.SameInputs (d.showOutput j) := by
  unfold Dev.showOutput
  extract_lets on
  exact .ite (.refl d) ⟨rfl, .put (.upd (.refl d) rfl) rfl, .put (.upd (.refl d) rfl) rfl⟩

theorem Dev.rimRefresh_same (d : Dev) (cause : Nat) : d.SameInputs (d.rimRefresh cause) := by
  rw [Dev.rimRefresh_eq]
  extract_lets e lock f
  have he : d.SameInputs e := .put (.foldl (fun x j => x.showOutput_same j) (List.range 4) d) rfl rfl
  exact .ite (.raise (.put (.put (.put (.put he rfl rfl) rfl rfl) rfl rfl) rfl rfl)) (.ite (.put (.put he rfl rfl) rfl rfl) he)

theorem Dev.setCause_same (d : Dev) (j c : Nat) (b : Bool) : d.SameInputs (d.setCause j c b) := ⟨rfl, fun _ => rfl, fun _ => rfl⟩

theorem Dev.setCause_spares {q : Par} (d : Dev) (j c : Nat) (b : Bool) : Dev.Spares q d (d.setCause j c b) := fun _ => rfl

theorem Dev.rimLatch_same (d : Dev) (mask cause : Nat) : d.SameInputs (d.rimLatch mask cause) := by
  rw [Dev.rimLatch_eq]
  extract_lets e f
  have he : d.SameInputs e := .foldl (fun x j => x.setCause_same j _ true) _ d
  have hf : d.SameInputs f := .ite he (.raise he)
  exact .ite (.refl d) (hf.trans (f.rimRefresh_same cause))

variable {q : Par}

theorem Dev.rimRefresh_spares (hq : ∀ p ∈ rimLatchWrites, Par.apart q p = true) (hsmall : q.small = true) (hgroup : [0xC0].contains q.group = false)
    (d : Dev) (cause : Nat) : Dev.Spares q d (d.rimRefresh cause) := by
  rw [Dev.rimRefresh_eq]
  extract_lets e lock f
  have hshow (x : Dev) (j : Nat) : Dev.Spares q x (x.showOutput j) := by
    unfold Dev.showOutput
    extract_lets on
    exact .ite (.refl x) (.put (.upd (.refl x) rfl) (hq _ (by decide)))
  have he : Dev.Spares q d e := .put (.forN hshow 4 d) (hq _ (by decide))
  exact .ite (.frame (.put (.put (.put (.put he (hq _ (by decide))) (hq _ (by decide))) (hq _ (by decide))) (hq _ (by decide))) (Dev.raise_frame _ _ _ _ _) hsmall hgroup)
    (.ite (.put (.put he (hq _ (by decide))) (hq _ (by decide))) he)

theorem Dev.rimLatch_spares (hq : ∀ p ∈ rimLatchWrites, Par.apart q p = true) (hsmall : q.small = true) (hgroup : [0xC0].contains q.group = false)
    (d : Dev) (mask cause : Nat) : Dev.Spares q d (d.rimLatch mask cause) := by
  rw [Dev.rimLatch_eq]
  extract_lets e f
  have he : Dev.Spares q d e := .forL (fun x j => x.setCause_spares j _ true) _ d
  have hf : Dev.Spares q d f := .ite he (.frame he (Dev.raise_frame _ _ _ _ _) hsmall hgroup)
  exact .ite (.refl d) (hf.trans (f.rimRefresh_spares hq hsmall hgroup cause))

/-- A cause of all outputs reaches every one of its mask (R336). -/
theorem Dev.rimLatch_latches_all (d : Dev) {mask cause j : Nat} (hj : j < 4) (hmask : bit mask j = true) (hall : bit rimAll (cause - 1) = true) :
    bit ((d.rimLatch mask cause).outCauses j) (cause - 1) = true := by
  cases hold : bit (d.outCauses j) (cause - 1) with
  | true => exact (d.rimLatch_latching mask cause).causes j _ hold
  | false =>
    have hhit : j ∈ d.latchHit mask cause := by simp [Dev.latchHit, hj, hmask, hall, hold]
    rw [Dev.rimLatch_eq, if_neg (List.ne_nil_of_mem hhit)]
    extract_lets e f
    have hf : e.Latching f := .ite (.refl e) (.raise (.refl e))
    exact (hf.trans (f.rimRefresh_latching cause)).causes j _ (d.forL_setCause _ hhit)

/-- An output that a cause holds is off (R323). -/
theorem Dev.outOn_of_cause {d : Dev} (h : d.rimLatchedOff) {j c : Nat} (hj : j < 4) (hc : bit (d.outCauses j) c = true) : d.outOn j = false := by
  by_contra hon
  obtain ⟨-, hnone⟩ := h j hj (by simpa using hon)
  rw [hnone] at hc
  simp [bit] at hc

/-- An output that is not used is off. -/
theorem Dev.outOn_of_unused {d : Dev} (h : d.rimLatchedOff) {j : Nat} (hj : j < 4) (hused : d.outUsed j = false) : d.outOn j = false := by
  by_contra hon
  obtain ⟨hu, -⟩ := h j hj (by simpa using hon)
  rw [hused] at hu
  cases hu

/-- From `d` to `e` an output comes on only without a cause, and one that stays on keeps its causes. -/
def Dev.TurnsOnFree (d e : Dev) : Prop := ∀ j < 4, e.outOn j = true → (d.outOn j = true ∧ e.outCauses j = d.outCauses j) ∨ e.outCauses j = 0

theorem Dev.TurnsOnFree.of_same {d e : Dev} (hon : ∀ j, e.outOn j = d.outOn j) (hcauses : ∀ j, e.outCauses j = d.outCauses j) : d.TurnsOnFree e :=
  fun j _ h => .inl ⟨by rw [← hon, h], hcauses j⟩

theorem Dev.TurnsOnFree.refl (d : Dev) : d.TurnsOnFree d := .of_same (fun _ => rfl) (fun _ => rfl)

theorem Dev.TurnsOnFree.trans {a b c : Dev} (h : a.TurnsOnFree b) (g : b.TurnsOnFree c) : a.TurnsOnFree c := fun j hj hc => by
  rcases g j hj hc with ⟨hb, hsame⟩ | hfree
  · rcases h j hj hb with ⟨ha, hsame'⟩ | hfree
    · exact .inl ⟨ha, hsame.trans hsame'⟩
    · exact .inr (hsame.trans hfree)
  · exact .inr hfree

theorem Dev.TurnsOnFree.ite {a x y : Dev} {c : Prop} [Decidable c] (h : a.TurnsOnFree x) (g : a.TurnsOnFree y) : a.TurnsOnFree (if c then x else y) := by
  split
  · exact h
  · exact g

theorem Dev.TurnsOnFree.put {a d : Dev} (h : a.TurnsOnFree d) {p : Par} {i v : Nat} (hp : Par.apart Par.rimOutEnergised p = true) : a.TurnsOnFree (d.put p i v) :=
  h.trans (.of_same (fun _ => Dev.outOn_put _ _ _ _ hp) (Dev.outCauses_of_rim (Dev.put_rim _ _ _ _)))

theorem Dev.rimLatch_turnsOnFree (d : Dev) (mask cause : Nat) : d.TurnsOnFree (d.rimLatch mask cause) := by
  by_cases hhit : d.latchHit mask cause = []
  · rw [Dev.rimLatch_eq, if_pos hhit]
    exact .refl d
  · exact fun j hj hon => .inr (d.rimLatch_latchedOff hhit j hj hon).2

/-! ## The evaluation -/

/-- The evaluation of one input (R326). -/
def Dev.evalInput (d : Dev) (k : Nat) : Dev :=
  let dem := d.inDemand k
  let was := bit (d.get Par.rimInDemand 0) k
  let d := d.putBit Par.rimInDemand 0 k dem
  let d := if dem && !was then d.inc 32 Par.rimDemands 0 else d
  let lag := bit d.rim.lag (2 * k) || bit d.rim.lag (2 * k + 1)
  let d := if bit (d.get Par.rimInFault 0) k && d.chAgree k && !lag then d.putBit Par.rimInFault 0 k false else d
  let mask := if d.rim.active = [] then 0 else recMask d.rim.active k
  let d := if dem then d.rimLatch mask rcDemand else d
  let f := d.get Par.rimInFault 0
  if (d.rimType k == 1 || d.rimType k == 2) && (bit f k || bit f (8 + k)) then d.rimLatch mask rcInputFault else d

/-- `Dev.rimEval` evaluates the inputs one after another, then the non-safety demand (R337). -/
theorem Dev.rimEval_eq (d : Dev) : d.rimEval = if !d.rim.running then d
    else
      let e := d.forN 8 Dev.evalInput
      if e.nsDemand && e.rim.active != [] then e.rimLatch (recNs e.rim.active) rcNonSafety else e := by
  refine (Dev.rimEval.eq_1 d).trans (if_congr Iff.rfl rfl ?_)
  extract_lets e e'
  have he : e = e' := by
    unfold e e'
    congr 1
  rw [he]

/-- What the evaluation of input `k` makes of the bits that show demands and faults. -/
theorem Dev.evalInput_shows (d : Dev) {k : Nat} (hk : k < 8) : d.SameInputs (d.evalInput k) ∧ d.TurnsOnFree (d.evalInput k)
    ∧ bit ((d.evalInput k).get Par.rimInDemand 0) k = d.inDemand k
    ∧ (∀ l < 64, l ≠ k → bit ((d.evalInput k).get Par.rimInDemand 0) l = bit (d.get Par.rimInDemand 0) l)
    ∧ (∀ l < 64, l ≠ k → bit ((d.evalInput k).get Par.rimInFault 0) l = bit (d.get Par.rimInFault 0) l)
    ∧ (d.chAgree k = false → bit ((d.evalInput k).get Par.rimInFault 0) k = bit (d.get Par.rimInFault 0) k) := by
  unfold Dev.evalInput
  extract_lets dem was shown counted lag cleared mask latched f
  have hlatch {q : Par} (hq : ∀ p ∈ rimLatchWrites, Par.apart q p = true) (hsmall : q.small = true) (hgroup : [0xC0].contains q.group = false) (x : Dev) :
      Dev.Spares q latched (if (latched.rimType k == 1 || latched.rimType k == 2) && (bit f k || bit f (8 + k)) then latched.rimLatch mask rcInputFault else latched)
        ∧ Dev.Spares q cleared latched :=
    ⟨.ite (latched.rimLatch_spares hq hsmall hgroup _ _) (.refl latched), .ite (cleared.rimLatch_spares hq hsmall hgroup _ _) (.refl cleared)⟩
  have hcounted : d.SameInputs counted := .ite (.put (.put (.refl d) rfl rfl) rfl rfl) (.put (.refl d) rfl rfl)
  have hcleared : d.SameInputs cleared := .ite (.put hcounted rfl rfl) hcounted
  have hlatched : d.SameInputs latched := .ite (hcleared.trans (cleared.rimLatch_same _ _)) hcleared
  have tcounted : d.TurnsOnFree counted := .ite (.put (.put (.refl d) rfl) rfl) (.put (.refl d) rfl)
  have tcleared : d.TurnsOnFree cleared := .ite (.put tcounted rfl) tcounted
  have tlatched : d.TurnsOnFree latched := .ite (tcleared.trans (cleared.rimLatch_turnsOnFree _ _)) tcleared
  have hdemand : Dev.Spares Par.rimInDemand shown cleared :=
    .ite (.put (.ite (.put (.refl shown) rfl) (.refl shown)) rfl) (.ite (.put (.refl shown) rfl) (.refl shown))
  have hfault : Dev.Spares Par.rimInFault d counted := .ite (.put (.put (.refl d) rfl) rfl) (.put (.refl d) rfl)
  have hbits (l : Nat) (hl : l < 64) (hne : l ≠ k ∨ d.chAgree k = false) : bit (cleared.get Par.rimInFault 0) l = bit (d.get Par.rimInFault 0) l := by
    unfold cleared
    split
    · next h =>
      rcases hne with hne | hagree
      · rw [Dev.bit_putBit_other _ _ _ hl hne, hfault.get]
      · rw [hcounted.chAgree, hagree, Bool.and_false, Bool.false_and] at h
        cases h
    · rw [hfault.get]
  refine ⟨.ite (hlatched.trans (latched.rimLatch_same _ _)) hlatched, .ite (tlatched.trans (latched.rimLatch_turnsOnFree _ _)) tlatched, ?_, fun l hl hne => ?_,
    fun l hl hne => ?_, fun hagree => ?_⟩
  · obtain ⟨h1, h2⟩ := hlatch (q := Par.rimInDemand) (by decide) rfl rfl d
    rw [h1.get, h2.get, hdemand.get, Dev.bit_putBit_same _ _ _ (by omega)]
  · obtain ⟨h1, h2⟩ := hlatch (q := Par.rimInDemand) (by decide) rfl rfl d
    rw [h1.get, h2.get, hdemand.get, Dev.bit_putBit_other _ _ _ hl hne]
  · obtain ⟨h1, h2⟩ := hlatch (q := Par.rimInFault) (by decide) rfl rfl d
    rw [h1.get, h2.get, hbits l hl (.inl hne)]
  · obtain ⟨h1, h2⟩ := hlatch (q := Par.rimInFault) (by decide) rfl rfl d
    rw [h1.get, h2.get, hbits k (by omega) (.inr hagree)]

theorem Dev.evalInput_latching (d : Dev) (k : Nat) : d.Latching (d.evalInput k) := by
  unfold Dev.evalInput
  extract_lets dem was shown counted lag cleared mask latched f
  have hcounted : d.Latching counted := .ite (.put (.put (.refl d) rfl) rfl) (.put (.refl d) rfl)
  have hcleared : d.Latching cleared := .ite (.put hcounted rfl) hcounted
  have hlatched : d.Latching latched := .ite (hcleared.trans (cleared.rimLatch_latching _ _)) hcleared
  exact .ite (hlatched.trans (latched.rimLatch_latching _ _)) hlatched

/-- A demand, and an input fault that stands after it, latch the used outputs on which the input acts (R326, R336). -/
theorem Dev.evalInput_latches (d : Dev) {k j : Nat} (hj : j < 4) (hmask : bit (recMask d.rim.active k) j = true) (hused : d.outUsed j = true) :
    (d.inDemand k = true → bit ((d.evalInput k).outCauses j) (rcDemand - 1) = true)
    ∧ (d.rimType k = 1 ∨ d.rimType k = 2 → bit ((d.evalInput k).get Par.rimInFault 0) k = true → bit ((d.evalInput k).outCauses j) (rcInputFault - 1) = true) := by
  have hactive : d.rim.active ≠ [] := by
    rintro h
    rw [Dev.outUsed, h] at hused
    cases hused
  unfold Dev.evalInput
  extract_lets dem was shown counted lag cleared mask latched f
  have hcounted : d.SameInputs counted := .ite (.put (.put (.refl d) rfl rfl) rfl rfl) (.put (.refl d) rfl rfl)
  have hcleared : d.SameInputs cleared := .ite (.put hcounted rfl rfl) hcounted
  have hlatched : d.SameInputs latched := .ite (hcleared.trans (cleared.rimLatch_same _ _)) hcleared
  have hmask' : bit mask j = true := by
    unfold mask
    rw [hcleared.active, if_neg hactive]
    exact hmask
  refine ⟨fun hdem => ?_, fun htype hfault => ?_⟩
  · have hset : bit (latched.outCauses j) (rcDemand - 1) = true := by
      unfold latched
      rw [if_pos hdem]
      exact cleared.rimLatch_latches hj hmask' (by rw [hcleared.used, hused])
    have hend : latched.Latching (if (latched.rimType k == 1 || latched.rimType k == 2) && (bit f k || bit f (8 + k)) then latched.rimLatch mask rcInputFault else latched) :=
      .ite (latched.rimLatch_latching _ _) (.refl latched)
    exact hend.causes j _ hset
  · have htype' : (latched.rimType k == 1 || latched.rimType k == 2) = true := by
      rw [hlatched.type]
      rcases htype with h | h <;> rw [h] <;> rfl
    have hspares : Dev.Spares Par.rimInFault latched
        (if (latched.rimType k == 1 || latched.rimType k == 2) && (bit f k || bit f (8 + k)) then latched.rimLatch mask rcInputFault else latched) :=
      .ite (latched.rimLatch_spares (by decide) rfl rfl _ _) (.refl latched)
    have hf : bit f k = true := by rw [hspares.get] at hfault; exact hfault
    rw [htype', hf, Bool.true_or, Bool.and_true, if_pos rfl]
    exact latched.rimLatch_latches hj hmask' (by rw [hlatched.used, hused])

/-! ## A pass that keeps an invariant -/

/-- What step `n` of a pass brings about, and the other steps keep, stands after the pass. -/
theorem Dev.forN_brings {I Q : Dev → Prop} {f : Dev → Nat → Dev} {k n : Nat} (hn : n < k) (hinv : ∀ d, ∀ m < k, I d → I (f d m)) (hset : ∀ d, I d → Q (f d n))
    (hkeep : ∀ d, ∀ m < k, m ≠ n → I d → Q d → Q (f d m)) {d : Dev} (h : I d) : Q (d.forN k f) := by
  have hpass (l : Nat) (hl : l ≤ k) : I (d.forN l f) ∧ (n < l → Q (d.forN l f)) := by
    induction l with
    | zero => exact ⟨h, fun h => absurd h (Nat.not_lt_zero n)⟩
    | succ l ih =>
      obtain ⟨hi, hq⟩ := ih (by omega)
      have hstep : d.forN (l + 1) f = f (d.forN l f) l := by
        rw [Dev.forN, List.range_succ, List.foldl_append]
        rfl
      rw [hstep]
      refine ⟨hinv _ l (by omega) hi, fun hnl => ?_⟩
      by_cases hln : l = n
      · subst hln
        exact hset _ hi
      · exact hkeep _ l (by omega) hln hi (hq (by omega))
  exact (hpass k (Nat.le_refl k)).2 hn

end Sys2Proof.Machine
end

section
/-! PROOF. The tests of the Rim's inputs and outputs (R322 to R334, R338). -/

namespace Sys2Proof.Machine

/-! ## Passes -/

/-- What every step of a pass keeps stands after it. -/
theorem Dev.forN_induct {P : Dev → Prop} {f : Dev → Nat → Dev} {n : Nat} {d : Dev} (h : P d) (step : ∀ e, ∀ k < n, P e → P (f e k)) : P (d.forN n f) :=
  List.foldlRecOn (List.range n) f (motive := P) h fun e he k hk => step e k (List.mem_range.mp hk) he

theorem Dev.forL_induct {α : Type} {P : Dev → Prop} {f : Dev → α → Dev} {xs : List α} {d : Dev} (h : P d) (step : ∀ e, ∀ x ∈ xs, P e → P (f e x)) :
    P (d.forL xs f) := List.foldlRecOn xs f (motive := P) h fun e he x hx => step e x hx he

/-- What the step for one element brings about, and every step keeps, stands after the pass over a list. -/
theorem Dev.forL_brings {α : Type} {I Q : Dev → Prop} {f : Dev → α → Dev} {x : α} {xs : List α} (hx : x ∈ xs) (hinv : ∀ d, ∀ y ∈ xs, I d → I (f d y))
    (hset : ∀ d, I d → Q (f d x)) (hkeep : ∀ d, ∀ y ∈ xs, I d → Q d → Q (f d y)) {d : Dev} (h : I d) : Q (d.forL xs f) := by
  obtain ⟨before, after, rfl⟩ := List.append_of_mem hx
  have hsplit : d.forL (before ++ x :: after) f = (f (d.forL before f) x).forL after f := by simp [Dev.forL]
  have hfirst : I (d.forL before f) := Dev.forL_induct h fun e y hy he => hinv e y (List.mem_append_left _ hy) he
  have hsecond : I (f (d.forL before f) x) := hinv _ x hx hfirst
  rw [hsplit]
  refine (Dev.forL_induct (P := fun e => I e ∧ Q e) ⟨hsecond, hset _ hfirst⟩ fun e y hy ⟨hi, hq⟩ => ?_).2
  have hy' : y ∈ before ++ x :: after := List.mem_append_right _ (List.mem_cons_of_mem x hy)
  exact ⟨hinv e y hy' hi, hkeep e y hy' hi hq⟩

/-! ## After an evaluation -/

/-- The pass over the inputs leaves what they show, and every output that comes on is free of causes. -/
theorem Dev.evalInputs_same (d : Dev) : d.SameInputs (d.forN 8 Dev.evalInput) ∧ d.TurnsOnFree (d.forN 8 Dev.evalInput) ∧ d.Latching (d.forN 8 Dev.evalInput) :=
  Dev.forN_induct (P := fun e => d.SameInputs e ∧ d.TurnsOnFree e ∧ d.Latching e) ⟨.refl d, .refl d, .refl d⟩ fun e k hk ⟨hsame, hfree, hlatch⟩ =>
    have ⟨same, free, _⟩ := e.evalInput_shows hk
    ⟨hsame.trans same, hfree.trans free, hlatch.trans (e.evalInput_latching k)⟩

/-- The evaluation is its pass over the inputs and what the non-safety demand latches after it. -/
theorem Dev.rimEval_ends {d : Dev} (hrun : d.rim.running = true) : ∃ mask, d.rimEval = d.forN 8 Dev.evalInput ∨ d.rimEval = (d.forN 8 Dev.evalInput).rimLatch mask rcNonSafety := by
  have hgo : ¬ (!d.rim.running) = true := by rw [hrun]; decide
  rw [Dev.rimEval_eq, if_neg hgo]
  extract_lets e
  refine ⟨recNs e.rim.active, ?_⟩
  split
  · exact .inr rfl
  · exact .inl rfl

theorem Dev.rimEval_same (d : Dev) : d.SameInputs d.rimEval := by
  cases hrun : d.rim.running with
  | false =>
    rw [Dev.rimEval_eq, if_pos (by rw [hrun]; rfl)]
    exact .refl d
  | true =>
    obtain ⟨mask, h | h⟩ := Dev.rimEval_ends hrun
    · rw [h]; exact d.evalInputs_same.1
    · rw [h]; exact d.evalInputs_same.1.trans (Dev.rimLatch_same _ _ _)

theorem Dev.rimEval_turnsOnFree {d : Dev} (hrun : d.rim.running = true) : d.TurnsOnFree d.rimEval := by
  obtain ⟨mask, h | h⟩ := Dev.rimEval_ends hrun
  · rw [h]; exact d.evalInputs_same.2.1
  · rw [h]; exact d.evalInputs_same.2.1.trans (Dev.rimLatch_turnsOnFree _ _ _)

/-- What a last latch leaves, the pass over the inputs has left. -/
theorem Dev.rimEval_spares_after {d : Dev} (hrun : d.rim.running = true) {q : Par} (hq : ∀ p ∈ rimLatchWrites, Par.apart q p = true) (hsmall : q.small = true)
    (hgroup : [0xC0].contains q.group = false) : Dev.Spares q (d.forN 8 Dev.evalInput) d.rimEval := by
  obtain ⟨mask, h | h⟩ := Dev.rimEval_ends hrun
  · rw [h]; exact .refl _
  · rw [h]; exact Dev.rimLatch_spares hq hsmall hgroup _ _ _

theorem Dev.rimEval_latching_after {d : Dev} (hrun : d.rim.running = true) : (d.forN 8 Dev.evalInput).Latching d.rimEval := by
  obtain ⟨mask, h | h⟩ := Dev.rimEval_ends hrun
  · rw [h]; exact .refl _
  · rw [h]; exact Dev.rimLatch_latching _ _ _

/-- Every input's demand is shown as its channels show it (R326). -/
theorem Dev.rimEval_demand {d : Dev} (hrun : d.rim.running = true) {k : Nat} (hk : k < 8) : bit (d.rimEval.get Par.rimInDemand 0) k = d.inDemand k := by
  rw [(Dev.rimEval_spares_after hrun (by decide) rfl rfl).get]
  exact Dev.forN_brings (I := d.SameInputs) (Q := fun e => bit (e.get Par.rimInDemand 0) k = d.inDemand k) hk
    (fun e m hm h => h.trans (e.evalInput_shows hm).1)
    (fun e h => by
      obtain ⟨-, -, hset, -⟩ := e.evalInput_shows hk
      rw [hset, h.inDemand])
    (fun e m hm hne _ hq => by
      obtain ⟨-, -, -, hkeep, -⟩ := e.evalInput_shows hm
      rw [hkeep k (by omega) (Ne.symm hne), hq])
    (.refl d)

/-- The fault of a test stays, and that of channels that still disagree (R326). -/
theorem Dev.rimEval_fault {d : Dev} (hrun : d.rim.running = true) {l : Nat} (hl : l < 64) (h : 8 ≤ l ∨ d.chAgree l = false) :
    bit (d.rimEval.get Par.rimInFault 0) l = bit (d.get Par.rimInFault 0) l := by
  rw [(Dev.rimEval_spares_after hrun (by decide) rfl rfl).get]
  refine (Dev.forN_induct (P := fun e => d.SameInputs e ∧ bit (e.get Par.rimInFault 0) l = bit (d.get Par.rimInFault 0) l) ⟨.refl d, rfl⟩ ?_).2
  rintro e m hm ⟨hsame, hbit⟩
  obtain ⟨same, -, -, -, hother, hagree⟩ := e.evalInput_shows hm
  refine ⟨hsame.trans same, ?_⟩
  by_cases hlm : l = m
  · subst hlm
    rw [hagree (by rw [hsame.chAgree]; exact h.resolve_left (by omega)), hbit]
  · rw [hother l hl hlm, hbit]

/-- The evaluation leaves the faults that tests have found, whether the Rim runs or not. -/
theorem Dev.rimEval_testFault (d : Dev) {k : Nat} (hk : k < 8) : bit (d.rimEval.get Par.rimInFault 0) (8 + k) = bit (d.get Par.rimInFault 0) (8 + k) := by
  cases hrun : d.rim.running with
  | true => exact Dev.rimEval_fault hrun (by omega) (.inl (by omega))
  | false => rw [Dev.rimEval_eq, if_pos (by rw [hrun]; rfl)]

/-- A cause that the evaluation of one input latches stands at the end. -/
theorem Dev.rimEval_holds {d : Dev} (hrun : d.rim.running = true) {k j c : Nat} (hk : k < 8)
    (hset : ∀ e, d.SameInputs e → (d.chAgree k = false → bit (e.get Par.rimInFault 0) k = bit (d.get Par.rimInFault 0) k) → bit ((e.evalInput k).outCauses j) c = true) :
    bit (d.rimEval.outCauses j) c = true := by
  refine (Dev.rimEval_latching_after hrun).causes j c ?_
  refine Dev.forN_brings (I := fun e => d.SameInputs e ∧ (d.chAgree k = false → bit (e.get Par.rimInFault 0) k = bit (d.get Par.rimInFault 0) k))
    (Q := fun e => bit (e.outCauses j) c = true) hk ?_ (fun e h => hset e h.1 h.2) (fun e m _ _ _ hq => (e.evalInput_latching m).causes j c hq)
    ⟨.refl d, fun _ => rfl⟩
  rintro e m hm ⟨hsame, hbit⟩
  obtain ⟨same, -, -, -, hother, hagree⟩ := e.evalInput_shows hm
  refine ⟨hsame.trans same, fun hd => ?_⟩
  by_cases hkm : k = m
  · subst hkm
    rw [hagree (by rw [hsame.chAgree, hd]), hbit hd]
  · rw [hother k (by omega) hkm, hbit hd]

/-- An input in demand latches the used outputs on which it acts (R326, R336). -/
theorem Dev.rimEval_demanded {d : Dev} (hrun : d.rim.running = true) {k j : Nat} (hk : k < 8) (hj : j < 4) (hdem : d.inDemand k = true)
    (hmask : bit (recMask d.rim.active k) j = true) (hused : d.outUsed j = true) : bit (d.rimEval.outCauses j) (rcDemand - 1) = true :=
  Dev.rimEval_holds hrun hk fun e he _ => (e.evalInput_latches hj (by rw [he.active, hmask]) (by rw [he.used, hused])).1 (by rw [he.inDemand, hdem])

/-- So does the fault of an input whose channels disagree (R326). -/
theorem Dev.rimEval_faulted {d : Dev} (hrun : d.rim.running = true) {k j : Nat} (hk : k < 8) (hj : j < 4) (hdis : d.chAgree k = false)
    (htype : d.rimType k = 1 ∨ d.rimType k = 2) (hfault : bit (d.get Par.rimInFault 0) k = true)
    (hmask : bit (recMask d.rim.active k) j = true) (hused : d.outUsed j = true) : bit (d.rimEval.outCauses j) (rcInputFault - 1) = true :=
  Dev.rimEval_holds hrun hk fun e he hbit => by
    obtain ⟨-, -, -, -, -, hagree⟩ := e.evalInput_shows hk
    exact (e.evalInput_latches hj (by rw [he.active, hmask]) (by rw [he.used, hused])).2 (by rw [he.type]; exact htype)
      (by rw [hagree (by rw [he.chAgree, hdis]), hbit hdis, hfault])

/-! ## After the end of the command -/

theorem Dev.settle_same (d old : Dev) : d.SameInputs (d.settle old) :=
  .of_rim (d.settle_rim old) (fun _ => Dev.settle_raw _ _ _ rfl) (fun _ => Dev.settle_raw _ _ _ rfl)

theorem Dev.settle_outOn (d old : Dev) (j : Nat) : (d.settle old).outOn j = d.outOn j := by
  rw [Dev.outOn, Dev.settle_get _ _ _ rfl, Dev.outOn]

theorem Dev.settle_outCauses (d old : Dev) (j : Nat) : (d.settle old).outCauses j = d.outCauses j := Dev.outCauses_of_rim (d.settle_rim old) j

/-- The bits of a channel's outputs that toggle (R331, R332). -/
theorem Dev.rimToggles_bit (d : Dev) (ch : Nat) {j : Nat} (hj : j < 4) :
    (BitVec.ofNat 4 (d.rimToggles ch)).getLsbD j = (d.rimDrives && (d.outOn j && !(bit d.rim.offRun (2 * j + ch)))) := by
  unfold Dev.rimToggles
  cases d.rimDrives with
  | false => simp
  | true => exact getLsbD_maskOf (fun j => d.outOn j && !(bit d.rim.offRun (2 * j + ch))) hj

theorem Dev.settle_rimOutA (d old : Dev) {j : Nat} (hj : j < 4) :
    (d.settle old).pins.rimOutA.getLsbD j = ((d.settle old).rimDrives && (d.outOn j && !(bit d.rim.offRun (2 * j)))) := by
  rw [Dev.settle_pins, ← Dev.settle_outOn d old, ← Dev.settle_rim d old]
  exact Dev.rimToggles_bit _ 0 hj

theorem Dev.settle_rimOutB (d old : Dev) {j : Nat} (hj : j < 4) :
    (d.settle old).pins.rimOutB.getLsbD j = ((d.settle old).rimDrives && (d.outOn j && !(bit d.rim.offRun (2 * j + 1)))) := by
  rw [Dev.settle_pins, ← Dev.settle_outOn d old, ← Dev.settle_rim d old]
  exact Dev.rimToggles_bit _ 1 hj

/-- An output that is off has its pins still (R331). -/
theorem Dev.settle_rimOut_off (d old : Dev) {j : Nat} (hj : j < 4) (hoff : d.outOn j = false) :
    (d.settle old).outOn j = false ∧ (d.settle old).pins.rimOutA.getLsbD j = false ∧ (d.settle old).pins.rimOutB.getLsbD j = false := by
  rw [Dev.settle_outOn, Dev.settle_rimOutA _ _ hj, Dev.settle_rimOutB _ _ hj, hoff]
  simp

/-- The pins are the last that the end of a command sets. -/
theorem Dev.settle_shows (d old : Dev) :
    ∃ y : Dev, d.settle old = y.setPins y.pinsNow ∧ d.Agree [0x60, 0x61, 0xB0, 0xC0] [.evt, .caps, .trigs, .weave, .pwr] y := by
  refine ⟨_, (d.settle_eq old).trans (Dev.ended.eq_1 _), ?_⟩
  have hscan : d.Agree [0x60, 0x61, 0xB0, 0xC0] [.evt, .caps, .trigs, .weave, .pwr] (Dev.serveFresh ((d.wakeScan old).evt.fresh.length + 64) (d.wakeScan old)) :=
    ((d.wakeScan_frame old).mono rfl rfl).trans ((Dev.serveFresh_frame _ _).mono rfl rfl)
  generalize Dev.serveFresh ((d.wakeScan old).evt.fresh.length + 64) (d.wakeScan old) = x at hscan
  exact .ite (fun _ => .put rfl rfl hscan) (fun _ => hscan)

/-- The test-pulse pins of the Rim are driven while it runs, outside recovery (Table 19.7). -/
theorem Dev.settle_rimTp (d old : Dev) : (d.settle old).pins.rimTp = if d.rim.running && d.phase != .recovery then d.pins.rimTp else 0 := by
  obtain ⟨y, hsettle, hframe⟩ := d.settle_shows old
  have hshown : (y.setPins y.pinsNow).pins.rimTp = if y.rim.running && y.phase != .recovery then y.pins.rimTp else 0 := rfl
  rw [hsettle, hshown, hframe.2 .rim rfl, hframe.2 .phase rfl, hframe.2 .pins rfl]

/-! ## Inputs -/

/-- From `d` to `e` the voltages and levels of the input pins, and the levels of the channels, stay. -/
structure Dev.SamePins (d e : Dev) : Prop where
  mv : e.rim.mv = d.rim.mv
  raw : e.rim.raw = d.rim.raw
  known : e.rim.known = d.rim.known
  level : Dev.Spares Par.rimInLevel d e

theorem Dev.SamePins.refl (d : Dev) : d.SamePins d := ⟨rfl, rfl, rfl, .refl d⟩

theorem Dev.SamePins.trans {a b c : Dev} (h : a.SamePins b) (g : b.SamePins c) : a.SamePins c :=
  ⟨g.mv.trans h.mv, g.raw.trans h.raw, g.known.trans h.known, h.level.trans g.level⟩

theorem Dev.SamePins.of_same {d e : Dev} (h : d.SameInputs e) : d.SamePins e where
  mv := by have hmv := congrArg RimSt.mv h.sight; exact hmv
  raw := by have hraw := congrArg RimSt.raw h.sight; exact hraw
  known := by have hknown := congrArg RimSt.known h.sight; exact hknown
  level := h.level

theorem Dev.SamePins.ite {a x y : Dev} {c : Prop} [Decidable c] (h : a.SamePins x) (g : a.SamePins y) : a.SamePins (if c then x else y) := by
  split
  · exact h
  · exact g

theorem Dev.SamePins.upd {a d e : Dev} (h : a.SamePins d) (hmv : e.rim.mv = d.rim.mv) (hraw : e.rim.raw = d.rim.raw) (hknown : e.rim.known = d.rim.known)
    (hpar : e.par = d.par) : a.SamePins e := h.trans ⟨hmv, hraw, hknown, .upd (.refl d) hpar⟩

/-- The pin of channel `c` at `mv` (R325). -/
def Dev.pinTaken (d : Dev) (c mv : Nat) : Dev :=
  { d with rim := { d.rim with mv := d.rim.mv.set (fun _ => 0) c mv } }

/-- The level that a pin shows is taken (R325). -/
def Dev.pinSeen (d : Dev) (c : Nat) (lv : Bool) : Dev := { d with rim := { d.rim with raw := setBit d.rim.raw c lv, known := setBit d.rim.known c true } }

/-- In a test window the level at the pin of channel `c`, which was `was`, is noted for the test of its input (R328). -/
def Dev.pinTested (e : Dev) (c : Nat) (was lv : Bool) : Dev :=
  let r := e.rim
  let k := c / 2
  if r.window.isNone ∨ e.rimType k = 0 then e
  else if bit r.under c then { e with rim := { r with sawLow := setBit r.sawLow c (bit r.sawLow c || !lv) } }
  else if was && !lv then { e with rim := { r with fell := setBit r.fell c true } }
  else if lv && bit r.fell c && !(bit r.failed k) then
    let e := { e with rim := { r with failed := setBit r.failed k true, fell := setBit r.fell c false } }
    ((e.putBit Par.rimInFault 0 (8 + k) true).inc 32 Par.rimTestsFailed 0).rimEval
  else e

/-- Both channels of an input high again (R329). -/
def Dev.pinsHigh (e : Dev) (k : Nat) : Dev :=
  if bit e.rim.raw (2 * k) && bit e.rim.raw (2 * k + 1) then { e with rim := { e.rim with skip := setBit e.rim.skip k false } } else e

/-- A change of a pin's voltage is taken, its level seen, and noted for a test. -/
theorem Dev.rimInput_eq {d : Dev} (hrun : d.rim.running = true) (c mv : Nat) : d.rimInput c mv = match pinRead mv with
    | none => d.pinTaken c mv
    | some lv => (((d.pinTaken c mv).pinSeen c lv).pinTested c (bit d.rim.raw c) lv).pinsHigh (c / 2) := by
  have hgo : ¬ (!(d.pinTaken c mv).rim.running) = true := by
    rw [show (d.pinTaken c mv).rim.running = d.rim.running from rfl, hrun]; decide
  exact (Dev.rimInput.eq_1 d c mv).trans (if_neg hgo)

theorem Dev.pinTested_pins (e : Dev) (c : Nat) (was lv : Bool) : e.SamePins (e.pinTested c was lv) := by
  unfold Dev.pinTested
  extract_lets r k failed
  have hfailed : e.SamePins failed := .upd (.refl e) rfl rfl rfl rfl
  have hshown : failed.SamePins ((failed.putBit Par.rimInFault 0 (8 + k) true).inc 32 Par.rimTestsFailed 0) :=
    .of_same (.put (.put (.refl failed) rfl rfl) rfl rfl)
  exact .ite (.refl e) (.ite (.upd (.refl e) rfl rfl rfl rfl) (.ite (.upd (.refl e) rfl rfl rfl rfl)
    (.ite ((hfailed.trans hshown).trans (.of_same (Dev.rimEval_same _))) (.refl e))))

theorem Dev.pinsHigh_pins (e : Dev) (k : Nat) : e.SamePins (e.pinsHigh k) := .ite (.upd (.refl e) rfl rfl rfl rfl) (.refl e)

theorem pinRead_none {mv : Nat} (h : pinRead mv = none) : ¬ 2000 < mv ∧ ¬ mv < 1200 := by
  unfold pinRead at h
  split at h
  · cases h
  split at h
  · cases h
  · constructor <;> assumption

theorem pinRead_some {mv : Nat} {lv : Bool} (h : pinRead mv = some lv) (b : Bool) : lv = if 2000 < mv then true else if mv < 1200 then false else b := by
  unfold pinRead at h
  split at h
  next hhigh => rw [if_pos hhigh, ← Option.some.inj h]
  next hhigh =>
    split at h
    next hlow => rw [if_neg hhigh, if_pos hlow, ← Option.some.inj h]
    · cases h

/-- A change of the voltage at a pin (R325): its level follows, the level of the channel stays. -/
theorem Dev.rimInput_takes {d : Dev} (hrun : d.rim.running = true) (c mv : Nat) :
    (d.rimInput c mv).rim.mv.get (fun _ => 0) c = mv
      ∧ bit (d.rimInput c mv).rim.raw c = (if 2000 < mv then true else if mv < 1200 then false else bit d.rim.raw c)
      ∧ (2000 < mv ∨ mv < 1200 → bit (d.rimInput c mv).rim.known c = true)
      ∧ Dev.Spares Par.rimInLevel d (d.rimInput c mv) := by
  have hmv : (d.rim.mv.set (fun _ => 0) c mv).get (fun _ => 0) c = mv := Tab.get_set_same (fun _ => 0) d.rim.mv c mv
  cases hread : pinRead mv with
  | none =>
    obtain ⟨hhigh, hlow⟩ := pinRead_none hread
    rw [Dev.rimInput_eq hrun, hread, if_neg hhigh, if_neg hlow]
    exact ⟨hmv, rfl, fun h => by omega, .upd (.refl d) rfl⟩
  | some lv =>
    have hpins : ((d.pinTaken c mv).pinSeen c lv).SamePins (d.rimInput c mv) := by
      rw [Dev.rimInput_eq hrun, hread]
      exact (Dev.pinTested_pins _ _ _ _).trans (Dev.pinsHigh_pins _ _)
    generalize d.rimInput c mv = e at hpins
    have hraw : ((d.pinTaken c mv).pinSeen c lv).rim.raw = setBit d.rim.raw c lv := rfl
    have hknown : ((d.pinTaken c mv).pinSeen c lv).rim.known = setBit d.rim.known c true := rfl
    rw [hpins.mv, hpins.raw, hpins.known, hraw, hknown, bit_setBit_same, bit_setBit_same]
    exact ⟨hmv, pinRead_some hread _, fun _ => rfl, Dev.Spares.trans (.upd (.refl d) rfl) hpins.level⟩

theorem Dev.edmChange_same (d : Dev) (k : Nat) : d.SameInputs (d.edmChange k) := by
  have hfault (x : Dev) (j : Nat) : x.SameInputs (x.outputFault j) := by
    unfold Dev.outputFault
    extract_lets rim noted shown
    have hnoted : x.SameInputs noted := .ite (.refl x) ⟨rfl, .upd (.refl x) rfl, .upd (.refl x) rfl⟩
    exact (Dev.SameInputs.put hnoted rfl rfl).trans (shown.rimLatch_same _ _)
  exact .foldl (fun x j => .ite (hfault x j) (.refl x)) _ d

/-- A level that has held (R325) is the channel's, and then the inputs are evaluated. -/
theorem Dev.rimFiltered_takes {d : Dev} {c : Nat} (hc : c < 16) (hrun : d.rim.running = true) (hknown : bit d.rim.known c = true) (hunder : bit d.rim.under c = false)
    (htype : d.rimType (c / 2) ≠ 0) :
    ∃ x : Dev, x.rim.running = true ∧ d.rimFiltered c = x.rimEval ∧ bit (x.get Par.rimInLevel 0) c = bit d.rim.raw c ∧ bit (x.get Par.rimInUndet 0) c = false := by
  have hgo : ¬ (!d.rim.running ∨ !(bit d.rim.known c) ∨ bit d.rim.under c ∨ d.rimType (c / 2) = 0) := by simp [hrun, hknown, hunder, htype]
  generalize hr : d.rimFiltered c = r
  unfold Dev.rimFiltered at hr
  extract_lets rim k lv undet change shown rim' moved edm at hr
  rw [if_neg hgo] at hr
  have hmoved : Dev.Spares Par.rimInLevel shown moved ∧ Dev.Spares Par.rimInUndet shown moved := ⟨.upd (.refl shown) rfl, .upd (.refl shown) rfl⟩
  have hrunning : moved.rim.running = true := by
    have hshown : shown.rim.running = true := by rw [show shown.rim = d.rim from rfl, hrun]
    exact hshown
  have hedm : moved.SameInputs edm ∧ edm.rim.running = moved.rim.running := by
    unfold edm
    split
    · exact ⟨moved.edmChange_same k, (moved.edmChange_latching k).running⟩
    · exact ⟨.refl moved, rfl⟩
  clear_value edm
  refine ⟨edm, hedm.2.trans hrunning, hr.symm, ?_, ?_⟩
  · have hlevel : Dev.Spares Par.rimInLevel (d.putBit Par.rimInLevel 0 c lv) shown := .put (.refl _) rfl
    rw [hedm.1.level.get, hmoved.1.get, hlevel.get, Dev.bit_putBit_same _ _ _ (by omega)]
  · rw [hedm.1.undet.get, hmoved.2.get, Dev.bit_putBit_same _ _ _ (by omega)]

/-- An evaluation of a Rim whose latched outputs are off: what is in demand has its outputs off (R323, R326, R331). -/
theorem Dev.rimEval_off {d : Dev} (hrun : d.rim.running = true) (hoff : d.rimEval.rimLatchedOff) {k j : Nat} (hk : k < 8) (hj : j < 4)
    (hdem : d.rimEval.inDemand k = true) (hmask : bit (recMask d.rimEval.rim.active k) j = true) : d.rimEval.outOn j = false := by
  have hsame := d.rimEval_same
  rw [hsame.inDemand] at hdem
  rw [hsame.active] at hmask
  cases hused : d.outUsed j with
  | true => exact Dev.outOn_of_cause hoff hj (Dev.rimEval_demanded hrun hk hj hdem hmask hused)
  | false => exact Dev.outOn_of_unused hoff hj (by rw [hsame.used, hused])

/-- The device with other channels that a discrepancy waits for. -/
def Dev.setLag (d : Dev) (lag : Nat) : Dev := { d with rim := { d.rim with lag := lag } }

theorem Dev.setLag_spares {p : Par} (d : Dev) (lag : Nat) : Dev.Spares p d (d.setLag lag) := fun _ => rfl

theorem Dev.setLag_reads (d : Dev) (lag k : Nat) : (d.setLag lag).rimType k = d.rimType k ∧ (d.setLag lag).chAgree k = d.chAgree k := ⟨rfl, rfl⟩

/-- Channels that still disagree (R326): a fault, for which the inputs are evaluated. -/
theorem Dev.discrepancy_faults {d : Dev} {k : Nat} (hk : k < 8) (hrun : d.rim.running = true) (htype : d.rimType k ≠ 0) (hdis : d.chAgree k = false) :
    ∃ x : Dev, x.rim.running = true ∧ d.discrepancy k = x.rimEval ∧ bit (x.get Par.rimInFault 0) k = true ∧ x.chAgree k = false ∧ x.rimType k = d.rimType k := by
  have hgo : ¬ (!d.rim.running ∨ d.rimType k = 0 ∨ d.chAgree k) := by simp [hrun, htype, hdis]
  have hnoted : ∃ e, d.discrepancy k = (e.putBit Par.rimInFault 0 k true).rimEval ∧ (e = d ∨ ∃ lag, e = d.setLag lag) := by
    unfold Dev.discrepancy
    rw [if_neg hgo]
    refine ⟨_, rfl, ?_⟩
    split
    · exact .inl rfl
    · exact .inr ⟨_, rfl⟩
  obtain ⟨e, hend, he⟩ := hnoted
  have hreads : e.rim.running = d.rim.running ∧ e.chAgree k = d.chAgree k ∧ e.rimType k = d.rimType k := by
    rcases he with rfl | ⟨lag, rfl⟩
    · exact ⟨rfl, rfl, rfl⟩
    · exact ⟨rfl, rfl, rfl⟩
  obtain ⟨hrunning, hagree, hkind⟩ := hreads
  have hput : e.SameInputs (e.putBit Par.rimInFault 0 k true) := .put (.refl e) rfl rfl
  refine ⟨_, ?_, hend, ?_, ?_, ?_⟩
  · rw [show (e.putBit Par.rimInFault 0 k true).rim = e.rim from Dev.put_rim _ _ _ _, hrunning, hrun]
  · rw [Dev.bit_putBit_same _ _ _ (by omega)]
  · rw [hput.chAgree, hagree, hdis]
  · rw [hput.type, hkind]

theorem Dev.rimInputTests_discrepancy {d : Dev} {k : Nat} (hk : k < 8) (hrun : d.rim.running = true) (htype : d.rimType k ≠ 0) (hdis : d.chAgree k = false)
    (hoff : d.rimLatchedOff) : bit ((d.discrepancy k).get Par.rimInFault 0) k = true
      ∧ (d.rimType k = 1 ∨ d.rimType k = 2 → ∀ j < 4, bit (recMask (d.discrepancy k).rim.active k) j = true → (d.discrepancy k).outOn j = false
          ∧ ((d.discrepancy k).outUsed j = true → bit ((d.discrepancy k).outCauses j) (rcInputFault - 1) = true)) := by
  have hkept := (d.discrepancy_keeps k).latchedOff hoff
  obtain ⟨x, hx, hend, hfault, hdis', htype'⟩ := Dev.discrepancy_faults hk hrun htype hdis
  rw [hend] at hkept ⊢
  have hsame := x.rimEval_same
  refine ⟨by rw [Dev.rimEval_fault hx (by omega) (.inr hdis'), hfault], fun h j hj hmask => ?_⟩
  rw [hsame.active] at hmask
  have hcause (hused : x.rimEval.outUsed j = true) : bit (x.rimEval.outCauses j) (rcInputFault - 1) = true :=
    Dev.rimEval_faulted hx hk hj hdis' (by rw [htype']; exact h) hfault hmask (by rw [← hsame.used, hused])
  refine ⟨?_, hcause⟩
  cases hused : x.rimEval.outUsed j with
  | true => exact Dev.outOn_of_cause hkept hj (hcause hused)
  | false => exact Dev.outOn_of_unused hkept hj hused

/-! ## Test pulses -/

/-- A number made of the powers at which a predicate holds has just these bits. -/
theorem bit_sum_filter (n : Nat) (f : Nat → Bool) (c : Nat) : bit (((List.range n).filter f).map (fun c => 2 ^ c)).sum c = (decide (c < n) && f c) := by
  have hsum : (((List.range n).filter f).map (fun c => 2 ^ c)).sum = maskOf n f := by
    unfold maskOf
    generalize List.range n = xs
    induction xs with
    | nil => rfl
    | cons x xs ih => cases h : f x <;> simp [h, b2n, ih]
  rw [hsum, bit_eq_testBit, testBit_maskOf]

theorem Dev.testStart_opens {d : Dev} {m : Nat} (hm : m < 4) (hrun : d.rim.running = true) (hactive : d.rim.active ≠ []) (hnone : d.rim.window = none) :
    (d.testStart m).rim.window = some m ∧ (d.testStart m).pins.rimTp.getLsbD m = false ∧ (d.testStart m).rim.sawLow = 0
      ∧ (∀ c < 16, bit (d.testStart m).rim.under c = true → recPin (d.testStart m).rim.active (c / 2) (c % 2) = m ∧ bit (d.get Par.rimInLevel 0) c = true)
      ∧ Dev.Spares Par.rimInLevel d (d.testStart m) := by
  have hgo : ¬ (!d.rim.running ∨ d.rim.active = [] ∨ d.rim.window.isSome) := by simp [hrun, hactive, hnone]
  unfold Dev.testStart
  extract_lets r ut
  rw [if_neg hgo]
  refine ⟨rfl, ?_, rfl, fun c hc hunder => ?_, .upd (.refl d) rfl⟩
  · rw [BitVec.getLsbD_and, BitVec.getLsbD_not, BitVec.getLsbD_ofNat, Nat.testBit_two_pow_self]
    simp [hm]
  · rw [bit_sum_filter] at hunder
    simp only [Bool.and_eq_true, decide_eq_true_eq, beq_iff_eq] at hunder
    obtain ⟨-, ⟨⟨⟨-, hpin⟩, -⟩, hlevel⟩, -⟩ := hunder
    exact ⟨hpin, hlevel⟩

theorem Dev.testEnd_releases {d : Dev} {m : Nat} (hm : m < 4) (hrun : d.rim.running = true) :
    (d.testEnd m).rim = d.rim ∧ (d.testEnd m).pins.rimTp.getLsbD m = true ∧ (d.testEnd m).phase = d.phase := by
  have hgo : ¬ (!d.rim.running) = true := by rw [hrun]; decide
  have hend : d.testEnd m = _ := (Dev.testEnd.eq_1 d m).trans (if_neg hgo)
  rw [hend]
  refine ⟨rfl, ?_, rfl⟩
  rw [BitVec.getLsbD_or, BitVec.getLsbD_ofNat, Nat.testBit_two_pow_self]
  simp [hm]

/-- At the deadline of a test a channel under test that has not read low fails its input (R328). -/
def Dev.failLate (d : Dev) (c : Nat) : Dev :=
  if bit d.rim.sawLow c || bit d.rim.failed (c / 2) then d
  else
    let d := { d with rim := { d.rim with failed := setBit d.rim.failed (c / 2) true } }
    (d.putBit Par.rimInFault 0 (8 + c / 2) true).inc 32 Par.rimTestsFailed 0

theorem Dev.failLate_window (d : Dev) (c : Nat) : (d.failLate c).rim.window = d.rim.window ∧ (d.failLate c).rim.sawLow = d.rim.sawLow
    ∧ (d.failLate c).rim.running = d.rim.running := by
  unfold Dev.failLate
  split
  · exact ⟨rfl, rfl, rfl⟩
  · extract_lets rim e
    have hrim : ((e.putBit Par.rimInFault 0 (8 + c / 2) true).inc 32 Par.rimTestsFailed 0).rim = e.rim := by
      rw [Dev.inc, Dev.put_rim, Dev.putBit, Dev.put_rim]
    rw [hrim]
    exact ⟨rfl, rfl, rfl⟩

/-- Inputs that have failed in this window show it. -/
def Dev.failsShown (d : Dev) : Prop := ∀ k < 8, bit d.rim.failed k = true → bit (d.get Par.rimInFault 0) (8 + k) = true

theorem Dev.failLate_shows {d : Dev} (h : d.failsShown) {c : Nat} (hc : c < 16) :
    (d.failLate c).failsShown ∧ (∀ k < 8, bit (d.get Par.rimInFault 0) (8 + k) = true → bit ((d.failLate c).get Par.rimInFault 0) (8 + k) = true)
      ∧ (bit d.rim.sawLow c = false → bit ((d.failLate c).get Par.rimInFault 0) (8 + c / 2) = true) := by
  unfold Dev.failLate
  split
  next hskip =>
    refine ⟨h, fun k _ hk => hk, fun hlow => h _ (by omega) ?_⟩
    rw [hlow, Bool.false_or] at hskip
    exact hskip
  next hskip =>
    extract_lets rim e
    have hfailed : e.rim.failed = setBit d.rim.failed (c / 2) true := rfl
    have hfault : Dev.Spares Par.rimInFault d e := .upd (.refl d) rfl
    have hbits (k : Nat) (hk : k < 8) : bit (((e.putBit Par.rimInFault 0 (8 + c / 2) true).inc 32 Par.rimTestsFailed 0).get Par.rimInFault 0) (8 + k)
        = if k = c / 2 then true else bit (d.get Par.rimInFault 0) (8 + k) := by
      rw [Dev.get_inc_apart _ _ _ _ _ rfl]
      split
      next hkc => rw [hkc, Dev.bit_putBit_same _ _ _ (by omega)]
      next hkc => rw [Dev.bit_putBit_other _ _ _ (by omega) (by omega), hfault.get]
    have hrim : ((e.putBit Par.rimInFault 0 (8 + c / 2) true).inc 32 Par.rimTestsFailed 0).rim = e.rim := by
      rw [Dev.inc, Dev.put_rim, Dev.putBit, Dev.put_rim]
    refine ⟨fun k hk hf => ?_, fun k hk hf => ?_, fun _ => ?_⟩
    · rw [hbits k hk]
      split
      · rfl
      next hkc =>
        rw [hrim, hfailed, bit_setBit_other _ _ hkc] at hf
        exact h k hk hf
    · rw [hbits k hk, hf, ite_self]
    · rw [hbits _ (by omega), if_pos rfl]

theorem Dev.testDeadline_fails {d : Dev} (hwindow : d.rim.window.isSome = true) (hnone : d.rim.failed = 0) : d.testDeadline.rim.window = d.rim.window
    ∧ ∀ c < 16, bit d.rim.under c = true → bit d.rim.sawLow c = false → bit (d.testDeadline.get Par.rimInFault 0) (8 + c / 2) = true := by
  have hgo : ¬ d.rim.window.isNone = true := by
    cases h : d.rim.window <;> simp [h] at hwindow ⊢
  have hend : d.testDeadline = (d.forL (bitsOf d.rim.under 16) Dev.failLate).rimEval := (Dev.testDeadline.eq_1 d).trans (if_neg hgo)
  rw [hend]
  have hshown : d.failsShown := fun k _ hk => by
    rw [hnone] at hk
    simp [bit] at hk
  refine ⟨?_, fun c hc hunder hlow => ?_⟩
  · have hkept : (d.forL (bitsOf d.rim.under 16) Dev.failLate).rim.window = d.rim.window :=
      Dev.forL_induct (P := fun e => e.rim.window = d.rim.window) rfl fun e x _ he => (e.failLate_window x).1.trans he
    have hsight := congrArg RimSt.window (d.forL (bitsOf d.rim.under 16) Dev.failLate).rimEval_same.sight
    exact hsight.trans hkept
  · rw [Dev.rimEval_testFault _ (by omega)]
    exact Dev.forL_brings (I := fun e => e.failsShown ∧ e.rim.sawLow = d.rim.sawLow) (Q := fun e => bit (e.get Par.rimInFault 0) (8 + c / 2) = true)
      (mem_bitsOf.mpr ⟨hc, hunder⟩) (fun e y hy h => ⟨(Dev.failLate_shows h.1 (mem_bitsOf.mp hy).1).1, (e.failLate_window y).2.1.trans h.2⟩)
      (fun e h => (Dev.failLate_shows h.1 hc).2.2 (by rw [h.2, hlow]))
      (fun e y hy h hq => (Dev.failLate_shows h.1 (mem_bitsOf.mp hy).1).2.1 _ (by omega) hq) ⟨hshown, rfl⟩

/-- The device with other inputs whose tests wait for high levels (R329). -/
def Dev.setSkip (d : Dev) (skip : Nat) : Dev := { d with rim := { d.rim with skip := skip } }

/-- The device without a test window. -/
def Dev.windowClosed (d : Dev) : Dev := { d with rim := { d.rim with window := none, under := 0, sawLow := 0, fell := 0, failed := 0 } }

/-- What the close of a test window makes of one channel under test (R329): a test still low is discarded, one that passed clears the fault. -/
def RimSt.closeTest (r : RimSt) (d : Dev) (c : Nat) : Dev :=
  let k := c / 2
  if !(bit r.raw c) then
    (d.setSkip (setBit d.rim.skip k true)).inc 32 Par.rimTestsDiscarded 0
  else if bit r.failed k || !(bit r.sawLow c) then d
  else (d.inc 32 Par.rimTestsPassed 0).putBit Par.rimInFault 0 (8 + k) false

theorem RimSt.closeTest_clears (r : RimSt) (d : Dev) {c : Nat} (hc : c < 16) :
    (∀ k < 8, bit (d.get Par.rimInFault 0) (8 + k) = false → bit ((r.closeTest d c).get Par.rimInFault 0) (8 + k) = false)
      ∧ (bit r.raw c = true → bit r.sawLow c = true → bit r.failed (c / 2) = false → bit ((r.closeTest d c).get Par.rimInFault 0) (8 + c / 2) = false) := by
  unfold RimSt.closeTest
  extract_lets k
  have hskipped : Dev.Spares Par.rimInFault d ((d.setSkip (setBit d.rim.skip k true)).inc 32 Par.rimTestsDiscarded 0) := .put (.upd (.refl d) rfl) rfl
  have hpassed : Dev.Spares Par.rimInFault d (d.inc 32 Par.rimTestsPassed 0) := .put (.refl d) rfl
  by_cases hlow : (!(bit r.raw c)) = true
  · rw [if_pos hlow]
    refine ⟨fun k _ hk => by rw [hskipped.get, hk], fun hraw => ?_⟩
    rw [hraw] at hlow
    cases hlow
  rw [if_neg hlow]
  by_cases hfail : (bit r.failed k || !(bit r.sawLow c)) = true
  · rw [if_pos hfail]
    refine ⟨fun _ _ h => h, fun _ hsaw hfailed => ?_⟩
    rw [hsaw, hfailed] at hfail
    cases hfail
  rw [if_neg hfail]
  refine ⟨fun l hl h => ?_, fun _ _ _ => Dev.bit_putBit_same _ _ _ (by omega) false⟩
  by_cases hlk : 8 + l = 8 + k
  · rw [hlk, Dev.bit_putBit_same _ _ _ (by omega)]
  · rw [Dev.bit_putBit_other _ _ _ (by omega) hlk, hpassed.get, h]

theorem Dev.testClose_closes {d : Dev} (hwindow : d.rim.window.isSome = true) : d.testClose.rim.window = none ∧ d.testClose.rim.under = 0
    ∧ ∀ c < 16, bit d.rim.under c = true → bit d.rim.raw c = true → bit d.rim.sawLow c = true → bit d.rim.failed (c / 2) = false →
        bit (d.testClose.get Par.rimInFault 0) (8 + c / 2) = false := by
  have hgo : ¬ d.rim.window.isNone = true := by
    cases h : d.rim.window <;> simp [h] at hwindow ⊢
  have hend : d.testClose = (d.forL (bitsOf d.rim.under 16) d.rim.closeTest).windowClosed.rimEval := (Dev.testClose.eq_1 d).trans (if_neg hgo)
  rw [hend]
  have hsight := (d.forL (bitsOf d.rim.under 16) d.rim.closeTest).windowClosed.rimEval_same.sight
  have hwin := congrArg RimSt.window hsight
  have hund := congrArg RimSt.under hsight
  refine ⟨hwin, hund, fun c hc hunder hraw hsaw hfailed => ?_⟩
  have hclosed (e : Dev) : Dev.Spares Par.rimInFault e e.windowClosed := .upd (.refl e) rfl
  rw [Dev.rimEval_testFault _ (by omega), (hclosed _).get]
  exact Dev.forL_brings (I := fun _ => True) (Q := fun e => bit (e.get Par.rimInFault 0) (8 + c / 2) = false) (mem_bitsOf.mpr ⟨hc, hunder⟩) (fun _ _ _ _ => trivial)
    (fun x _ => (d.rim.closeTest_clears x hc).2 hraw hsaw hfailed)
    (fun x y hy _ hq => (d.rim.closeTest_clears x (mem_bitsOf.mp hy).1).1 _ (by omega) hq) trivial

end Sys2Proof.Machine

open Sys2Proof Sys2Proof.Machine

/-- Settles O24: a pin's level is taken, then the inputs are evaluated, and an evaluation latches what is in demand; a test window is opened, judged and
closed channel by channel. -/
theorem rimInputTests : Obligations.RimInputTests := by
  unfold Obligations.RimInputTests
  refine ⟨⟨fun t mv c s hrun => ?_, fun t c s hrun hknown hunder htype hoff => ?_⟩, fun t k s hrun htype hdis hoff => ?_,
    fun t m s hrun hactive hnone => ?_, fun t m s hrun hphase => ?_, fun t s hwindow hnone => ?_, fun t s hwindow => ?_⟩
  · refine .of_does rfl fun e he => ?_
    obtain ⟨hmv, hraw, hknown, hlevel⟩ := Dev.rimInput_takes (d := s.dev.atTime t) hrun c.val mv
    rw [he] at hmv hraw hknown hlevel
    rw [Dev.settle_rim, Dev.settle_get _ _ _ rfl, hlevel.get]
    exact ⟨hmv, hraw, hknown, rfl⟩
  · refine .of_does rfl fun e he => ?_
    have hkept := (Dev.rimFiltered_keeps (s.dev.atTime t) c.val).latchedOff hoff
    obtain ⟨x, hx, hend, hlevel, hundet⟩ := Dev.rimFiltered_takes (d := s.dev.atTime t) c.isLt hrun hknown hunder htype
    rw [hend] at hkept
    have heval : x.rimEval = e := hend.symm.trans he
    have hsame := x.rimEval_same
    rw [Dev.settle_get _ _ _ rfl, Dev.settle_get _ _ _ rfl, Dev.settle_get _ _ _ rfl, ← heval, hsame.level.get, hsame.undet.get]
    refine ⟨hlevel, hundet, fun k hk => ?_, fun k hk j hj hdem hmask => ?_⟩
    · rw [(Dev.settle_same _ _).inDemand, hsame.inDemand, Dev.rimEval_demand hx hk]
    · rw [(Dev.settle_same _ _).inDemand] at hdem
      rw [Dev.settle_rim] at hmask
      exact Dev.settle_rimOut_off _ _ hj (Dev.rimEval_off hx hkept hk hj hdem hmask)
  · refine .of_does rfl fun e he => ?_
    obtain ⟨hfault, hacts⟩ := Dev.rimInputTests_discrepancy (d := s.dev.atTime t) k.isLt hrun htype hdis hoff
    rw [he] at hfault hacts
    rw [Dev.settle_get _ _ _ rfl, Dev.settle_rim]
    refine ⟨hfault, fun h j hj hmask => ?_⟩
    rw [Dev.settle_outOn, (Dev.settle_same _ _).used, Dev.settle_outCauses]
    exact hacts h j hj hmask
  · refine .of_does rfl fun e he => ?_
    obtain ⟨hwindow, hpin, hsaw, hunder, hlevel⟩ := Dev.testStart_opens (d := s.dev.atTime t) m.isLt hrun hactive hnone
    rw [he] at hwindow hpin hsaw hunder hlevel
    rw [Dev.settle_rim, Dev.settle_rimTp, Dev.settle_get _ _ _ rfl, hlevel.get]
    refine ⟨hwindow, ?_, hsaw, hunder⟩
    split
    · exact hpin
    · simp
  · refine .of_does rfl fun e he => ?_
    obtain ⟨hrim, hrimTp, hph⟩ := Dev.testEnd_releases (d := s.dev.atTime t) m.isLt hrun
    rw [he] at hrim hrimTp hph
    have hdriven : (e.rim.running && e.phase != .recovery) = true := by
      rw [hrim, hph, show (s.dev.atTime t).rim.running = true from hrun, show (s.dev.atTime t).phase = s.dev.phase from rfl, bne_iff_ne.mpr hphase]
      rfl
    rw [Dev.settle_rim, Dev.settle_rimTp, if_pos hdriven]
    exact ⟨hrimTp, hrim⟩
  · refine .of_does rfl fun e he => ?_
    obtain ⟨hwin, hfails⟩ := Dev.testDeadline_fails (d := s.dev.atTime t) hwindow hnone
    rw [he] at hwin hfails
    rw [Dev.settle_rim, Dev.settle_get _ _ _ rfl]
    exact ⟨hwin, hfails⟩
  · refine .of_does rfl fun e he => ?_
    obtain ⟨hwin, hund, hclears⟩ := Dev.testClose_closes (d := s.dev.atTime t) hwindow
    rw [he] at hwin hund hclears
    rw [Dev.settle_rim, Dev.settle_get _ _ _ rfl]
    exact ⟨hwin, hund, hclears⟩

end

section
/-! PROOF. The tests of the Rim's outputs, their feedback, and the comparison of its channels (R322, R332 to R334, R338). -/

namespace Sys2Proof.Machine

/-- An output fault is shown, and the output, where it is used, latches with it (R332). -/
theorem Dev.outputFault_faults (d : Dev) {j : Nat} (hj : j < 4) (hused : d.outUsed j = true) :
    bit ((d.outputFault j).get Par.rimOutFault 0) j = true ∧ bit ((d.outputFault j).outCauses j) (rcOutputFault - 1) = true := by
  unfold Dev.outputFault
  extract_lets rim noted shown
  have hnoted : d.SameInputs noted := .ite (.refl d) ⟨rfl, .upd (.refl d) rfl, .upd (.refl d) rfl⟩
  have hshown : d.SameInputs shown := .put hnoted rfl rfl
  refine ⟨?_, Dev.rimLatch_latches _ hj ?_ (by rw [hshown.used, hused])⟩
  · rw [(Dev.rimLatch_spares (by decide) rfl rfl _ _ _).get, Dev.bit_putBit_same _ _ _ (by omega)]
  · rw [bit_eq_testBit, Nat.testBit_two_pow_self]

theorem Dev.offTest_holds {d : Dev} {j ch : Nat} (hrun : d.rim.running = true) (hon : d.outOn j = true) :
    bit (d.offTest j ch).rim.offRun (2 * j + ch) = true := by
  rw [Dev.offTest, if_pos ⟨hrun, hon⟩]
  exact bit_setBit_same _ _ _

/-- A channel's pin is still during its off-test (R332). -/
theorem Dev.settle_rimOut_tested (d old : Dev) {j ch : Nat} (hj : j < 4) (hch : ch < 2) (htest : bit d.rim.offRun (2 * j + ch) = true) :
    (if ch = 0 then (d.settle old).pins.rimOutA else (d.settle old).pins.rimOutB).getLsbD j = false := by
  split
  next h =>
    rw [h, Nat.add_zero] at htest
    rw [Dev.settle_rimOutA _ _ hj, htest]
    simp
  next h =>
    rw [show ch = 1 by omega] at htest
    rw [Dev.settle_rimOutB _ _ hj, htest]
    simp

theorem Dev.offTestEnd_passes {d : Dev} {j ch : Nat} (hj : j < 4) (htest : bit d.rim.offRun (2 * j + ch) = true) (hon : d.outOn j = true) :
    bit (d.offTestEnd j ch).rim.offRun (2 * j + ch) = false ∧ bit (d.offTestEnd j ch).rim.offOk j = true
      ∧ (d.offTestEnd j ch).get Par.rimOffTests 0 = (d.get Par.rimOffTests 0 + 1) % 2 ^ 32 ∧ bit ((d.offTestEnd j ch).get Par.rimOutFault 0) j = false
      ∧ (d.offTestEnd j ch).outOn j = true := by
  have hgo : ¬ (!(bit d.rim.offRun (2 * j + ch))) = true := by rw [htest]; decide
  generalize hr : d.offTestEnd j ch = r
  unfold Dev.offTestEnd at hr
  rw [if_neg hgo] at hr
  extract_lets rim ended rim' passed at hr
  have hended : ended.outOn j = true := by
    have hsame : Dev.Spares Par.rimOutEnergised d ended := .upd (.refl d) rfl
    rw [Dev.outOn, hsame.get]
    exact hon
  rw [if_pos hended] at hr
  subst hr
  have hcount : Dev.Spares Par.rimOffTests d passed := .upd (.upd (.refl d) rfl) rfl
  have hrim : ((passed.inc 32 Par.rimOffTests 0).putBit Par.rimOutFault 0 j false).rim = passed.rim := by rw [Dev.putBit, Dev.put_rim, Dev.inc, Dev.put_rim]
  rw [hrim]
  refine ⟨bit_setBit_same _ _ _, bit_setBit_same _ _ _, ?_, Dev.bit_putBit_same _ _ _ (by omega) false, ?_⟩
  · rw [Dev.putBit, Dev.get_put_apart _ _ _ _ rfl, Dev.get_inc_same _ _ _ _ (by decide), hcount.get]
  · rw [Dev.putBit, Dev.outOn_put _ _ _ _ rfl, Dev.inc, Dev.outOn_put _ _ _ _ rfl]
    exact hended

theorem Dev.readbackMismatch_faults {d : Dev} {j : Nat} (ch : Nat) (hj : j < 4) (hrun : d.rim.running = true) (hused : d.outUsed j = true) :
    bit ((d.readbackMismatch j ch).get Par.rimOutFault 0) j = true ∧ bit ((d.readbackMismatch j ch).outCauses j) (rcOutputFault - 1) = true := by
  have hgo : ¬ (!d.rim.running) = true := by rw [hrun]; decide
  generalize hr : d.readbackMismatch j ch = r
  unfold Dev.readbackMismatch at hr
  rw [if_neg hgo] at hr
  extract_lets inTest rim ended at hr
  subst hr
  refine Dev.outputFault_faults _ hj ?_
  have hused' : ended.outUsed j = d.outUsed j := by
    unfold ended
    split
    · rfl
    · rfl
  rw [hused', hused]

/-- The device with other windows of feedback that are open (R334). -/
def Dev.setEdmOpen (d : Dev) (open' : Nat) : Dev := { d with rim := { d.rim with edmOpen := open' } }

theorem Dev.edmTimeout_judges {d : Dev} {j : Nat} (hrun : d.rim.running = true) (hused : d.outUsed j = true) (hedm : recEdm d.rim.active j ≠ 255) :
    d.edmTimeout j = if d.edmReads j (!(d.outOn j)) then d.setEdmOpen (setBit d.rim.edmOpen j false)
      else (d.setEdmOpen (setBit d.rim.edmOpen j false)).outputFault j := by
  have hgo : ¬ (!d.rim.running ∨ !(d.outUsed j) ∨ recEdm d.rim.active j = 255) := by simp [hrun, hused, hedm]
  exact (Dev.edmTimeout.eq_1 d j).trans (if_neg hgo)

theorem Dev.setEdmOpen_spares {p : Par} (d : Dev) (x : Nat) : Dev.Spares p d (d.setEdmOpen x) := fun _ => rfl

/-- A comparison that disagrees, and a supply fault, latch every output, used or not (R336, R338). -/
theorem Dev.rimLatch_all_off {d : Dev} (h : d.rimLatchedOff) {cause : Nat} (hall : bit rimAll (cause - 1) = true) {j : Nat} (hj : j < 4) :
    (d.rimLatch 15 cause).outOn j = false ∧ bit ((d.rimLatch 15 cause).outCauses j) (cause - 1) = true := by
  have hmask : bit 15 j = true := by
    interval_cases j <;> decide
  have hcause := d.rimLatch_latches_all hj hmask hall
  exact ⟨Dev.outOn_of_cause ((d.rimLatch_keeps 15 cause).latchedOff h) hj hcause, hcause⟩

theorem Dev.settle_all_off {d old : Dev} {c : Nat} (h : ∀ j < 4, d.outOn j = false ∧ bit (d.outCauses j) c = true) :
    ∀ j < 4, (d.settle old).outOn j = false ∧ bit ((d.settle old).outCauses j) c = true := fun j hj => by
  rw [Dev.settle_outOn, Dev.settle_outCauses]
  exact h j hj

end Sys2Proof.Machine

open Sys2Proof Sys2Proof.Machine

/-- Settles O25: a fault of an output latches it, a latched output is off, and its pins are still. -/
theorem rimOutputTests : Obligations.RimOutputTests := by
  unfold Obligations.RimOutputTests
  refine ⟨⟨fun t j ch s hrun hon => ?_, fun t j ch s htest hon => ?_, fun t j ch s hrun hused hoff => ?_, fun t j s hrun hused hedm hoff => ⟨fun hreads => ?_, fun hreads => ?_⟩⟩,
    fun t s hrun hoff => ?_, fun t s hrun => ?_, fun t s hrun hoff => ?_⟩
  · refine .of_does rfl fun e he => ?_
    have htest := Dev.offTest_holds (d := s.dev.atTime t) (ch := ch.val) hrun hon
    rw [he] at htest
    rw [Dev.settle_rim]
    exact ⟨htest, Dev.settle_rimOut_tested _ _ j.isLt ch.isLt htest⟩
  · refine .of_does rfl fun e he => ?_
    have hpass := Dev.offTestEnd_passes (d := s.dev.atTime t) j.isLt htest hon
    rw [he] at hpass
    rw [Dev.settle_rim, Dev.settle_get _ _ _ rfl, Dev.settle_get _ _ _ rfl, Dev.settle_outOn]
    exact hpass
  · refine .of_does rfl fun e he => ?_
    have hkept := (Dev.readbackMismatch_keeps (s.dev.atTime t) j.val ch.val).latchedOff hoff
    obtain ⟨hfault, hcause⟩ := Dev.readbackMismatch_faults (d := s.dev.atTime t) ch.val j.isLt hrun hused
    rw [he] at hkept hfault hcause
    rw [Dev.settle_get _ _ _ rfl, Dev.settle_outCauses]
    obtain ⟨hon, hpins⟩ := e.settle_rimOut_off (s.dev.atTime t) j.isLt (Dev.outOn_of_cause hkept j.isLt hcause)
    exact ⟨hfault, hon, hcause, hpins⟩
  · refine .of_does rfl fun e he => ?_
    have hjudge := Dev.edmTimeout_judges (d := s.dev.atTime t) (j := j.val) hrun hused hedm
    rw [if_pos (show (s.dev.atTime t).edmReads j.val (!((s.dev.atTime t).outOn j.val)) = true from hreads), he] at hjudge
    rw [Dev.settle_get _ _ _ rfl, Dev.settle_rim, hjudge, (Dev.setEdmOpen_spares _ _).get]
    exact ⟨rfl, rfl⟩
  · refine .of_does rfl fun e he => ?_
    have hkept := (Dev.edmTimeout_keeps (s.dev.atTime t) j.val).latchedOff hoff
    have hjudge := Dev.edmTimeout_judges (d := s.dev.atTime t) (j := j.val) hrun hused hedm
    rw [if_neg (by rw [show (s.dev.atTime t).edmReads j.val (!((s.dev.atTime t).outOn j.val)) = false from hreads]; decide), he] at hjudge
    rw [he] at hkept
    obtain ⟨hfault, hcause⟩ := ((s.dev.atTime t).setEdmOpen (setBit (s.dev.atTime t).rim.edmOpen j.val false)).outputFault_faults j.isLt hused
    rw [← hjudge] at hfault hcause
    rw [Dev.settle_get _ _ _ rfl, Dev.settle_outOn]
    exact ⟨hfault, Dev.outOn_of_cause hkept j.isLt hcause⟩
  · refine .of_does rfl fun e he => ?_
    have hend : (s.dev.atTime t).channelCompare false = (s.dev.atTime t).rimLatch 15 rcInternal := by
      rw [Dev.channelCompare, if_neg (by rw [show (s.dev.atTime t).rim.running = true from hrun]; decide), if_neg (by decide)]
    rw [← he]
    refine Dev.settle_all_off fun j hj => ?_
    rw [show (s.dev.atTime t).channelCompare false = _ from hend]
    exact Dev.rimLatch_all_off (d := s.dev.atTime t) hoff (by decide) hj
  · refine .of_does rfl fun e he => ?_
    have hend : (s.dev.atTime t).channelCompare true = (s.dev.atTime t).rimEval := by
      rw [Dev.channelCompare, if_neg (by rw [show (s.dev.atTime t).rim.running = true from hrun]; decide), if_pos rfl]
    have heval : (s.dev.atTime t).rimEval = e := hend.symm.trans he
    have hrun' : (s.dev.atTime t).rim.running = true := hrun
    refine ⟨fun k hk => ?_, fun j hj hon => ?_⟩
    · rw [Dev.settle_get _ _ _ rfl, (Dev.settle_same _ _).inDemand, ← heval, (Dev.rimEval_same _).inDemand, Dev.rimEval_demand hrun' hk]
    · rw [Dev.settle_outOn, ← heval] at hon
      rw [Dev.settle_outCauses, ← heval]
      exact (Dev.rimEval_turnsOnFree hrun' j hj hon).imp And.left id
  · refine .of_does rfl fun e he => ?_
    have hend : (s.dev.atTime t).rimSupply = (s.dev.atTime t).rimLatch 15 rcSupply := by
      rw [Dev.rimSupply, if_pos (show (s.dev.atTime t).rim.running = true from hrun)]
    rw [← he]
    refine Dev.settle_all_off fun j hj => ?_
    rw [show (s.dev.atTime t).rimSupply = _ from hend]
    exact Dev.rimLatch_all_off (d := s.dev.atTime t) hoff (by decide) hj

end

section
/-! SUPPORT. What samples, telemetry halves and arm blocks leave alone: the records of other cells, what a port has heard, and the flags of events
(R83, R100, R110, R298 to R306). -/

namespace Sys2Proof.Machine

/-! ## Samples clear no flag -/

theorem Dev.gapNote_keepsFlags (d : Dev) (n count : Nat) : d.KeepsFlags (d.gapNote n count) :=
  .raise (.put (.put (.of_agree (d.capFlag_frame n 1) rfl) rfl) rfl)

theorem Dev.setCap_keepsFlags (d : Dev) (n : Nat) (x : CapRt) : d.KeepsFlags (d.setCap n x) := .of_raw (fun i => d.setCap_spares n x i)

theorem Dev.capGap_keepsFlags (d : Dev) (n cause count : Nat) : d.KeepsFlags (d.capGap n cause count) := by
  unfold Dev.capGap
  extract_lets st x closed
  have hclosed : d.KeepsFlags closed := .frame (.of_agree (d.closeBlk_frame n) rfl) (Dev.gapFlush_frame _ n) rfl
  exact .ite ((d.setCap_keepsFlags n _).trans (Dev.gapNote_keepsFlags _ _ _))
    (hclosed.trans ((closed.setCap_keepsFlags n _).trans (Dev.gapNote_keepsFlags _ _ _)))

/-- The end of a sample that is taken into the open block. -/
theorem Dev.taken_keepsFlags (d : Dev) (n s : Nat) (x : CapRt) : d.KeepsFlags (((d.setCap n x).capWrote n s).inc 64 Par.capSamples n) :=
  .put (.frame (d.setCap_keepsFlags n x) (Dev.capWrote_frame _ n s) rfl) rfl

theorem Dev.sampleStream_keepsFlags (d : Dev) (n ts : Nat) (v : F32) : d.KeepsFlags (d.sampleStream n ts v) := by
  unfold Dev.sampleStream
  extract_lets s x0 full moved closed opened' x' b' b''
  split
  next k _ =>
    extract_lets gapped opened x b
    have hgapped : d.KeepsFlags gapped := (d.setCap_keepsFlags n _).trans (Dev.capGap_keepsFlags _ _ _ _)
    have hopened : d.KeepsFlags opened := .frame hgapped (gapped.openBlk_frame n ts) rfl
    exact .ite (hopened.trans (opened.taken_keepsFlags n s _)) (d.setCap_keepsFlags n _)
  · have hclosed : d.KeepsFlags closed := .ite (.of_agree (d.closeBlk_frame n) rfl) (.refl d)
    have hopened : d.KeepsFlags opened' := .frame hclosed (closed.openBlk_frame n ts) rfl
    exact .ite (d.setCap_keepsFlags n _) (hopened.trans (opened'.taken_keepsFlags n s _))

theorem Dev.sampleRing_keepsFlags (d : Dev) (n ts : Nat) (v : F32) : d.KeepsFlags (d.sampleRing n ts v) := by
  unfold Dev.sampleRing
  extract_lets x isPost gapped
  refine .ite (.refl d) (.ite (d.setCap_keepsFlags n _) ?_)
  have hgapped : d.KeepsFlags gapped := by
    unfold gapped
    split
    · exact (d.setCap_keepsFlags n _).trans (Dev.capGap_keepsFlags _ _ _ _)
    · exact .refl d
  exact .frame hgapped (gapped.ringKeep_frame n ts v) rfl

theorem Dev.capOffer_keepsFlags (d : Dev) (n ts : Nat) (v : F32) : d.KeepsFlags (d.capOffer n ts v) := by
  unfold Dev.capOffer
  extract_lets x st k iv lost set gapped
  have hgapped : d.KeepsFlags gapped := .ite (d.setCap_keepsFlags n _) ((d.setCap_keepsFlags n _).trans (Dev.capGap_keepsFlags _ _ _ _))
  exact .ite (.ite (d.setCap_keepsFlags n _) (.ite (hgapped.trans (gapped.sampleStream_keepsFlags n ts v)) (hgapped.trans (gapped.sampleRing_keepsFlags n ts v))))
    (.refl d)

theorem Dev.setTrig_keepsFlags (d : Dev) (n : Nat) (x : TrigRt) : d.KeepsFlags (d.setTrig n x) := .of_raw (fun i => d.setTrig_spares n x i)

theorem Dev.trigOffer_keepsFlags (d : Dev) (n ts : Nat) (v : F32) : d.KeepsFlags (d.trigOffer n ts v) := by
  unfold Dev.trigOffer
  extract_lets t lvl h e below above rise fall hit set fired t' shown q
  have hfired : d.KeepsFlags fired := (d.setTrig_keepsFlags n _).trans (.ite (Dev.fireTrig_keepsFlags _ _ _ _ _) (.refl _))
  have hshown : d.KeepsFlags shown := d.setTrig_keepsFlags n _
  exact .ite (.refl d) (.ite (hfired.trans (fired.setTrig_keepsFlags n _)) (.ite (.put hshown rfl) hshown))

theorem Dev.sample_keepsFlags (d : Dev) (cls inst sel ts : Nat) (v : F32) (rate : Nat) : d.KeepsFlags (d.sample cls inst sel ts v rate) := by
  unfold Dev.sample
  extract_lets o offered
  have hoffered : d.KeepsFlags offered := .forN (fun x n => .ite (x.capOffer_keepsFlags n ts v) (.refl x)) 32 d
  exact .ite (.refl d) (hoffered.trans (.forN (fun x n => .ite (x.trigOffer_keepsFlags n ts v) (.refl x)) 16 offered))

/-! ## What operations on cells and ports keep -/

/-- The parameters that show the last record of a cell, and the state and turning positions of a port. -/
def telemShown : List Par := [Par.cellVcap, Par.cellStatus, Par.cellFaults, Par.cellVgate, Par.spokeState, Par.spokeTurnA, Par.spokeTurnB]

/-- From `d` to `e` the records of cells stay, and whether they came in this beat; so does what ports have heard; no flag is cleared. -/
structure Dev.TelemKept (d e : Dev) : Prop where
  par : ∀ p ∈ telemShown, Dev.Spares p d e
  fresh : ∀ c, (e.cell c).fresh = (d.cell c).fresh
  port : ∀ s, (e.spoke s).far = (d.spoke s).far ∧ (e.spoke s).ret = (d.spoke s).ret
  flags : d.KeepsFlags e

theorem Dev.cell_of_cells {d e : Dev} (h : e.cells = d.cells) (c : Nat) : e.cell c = d.cell c := by rw [Dev.cell, h, Dev.cell]

theorem Dev.spoke_of_spokes {d e : Dev} (h : e.spokes = d.spokes) (s : Nat) : e.spoke s = d.spoke s := by rw [Dev.spoke, h, Dev.spoke]

variable {p : Par}

theorem Dev.setCell_spares (d : Dev) (c : Nat) (x : CellRt) : Dev.Spares p d (d.setCell c x) := fun _ => rfl

theorem Dev.setSpoke_spares (d : Dev) (s : Nat) (x : SpokeRt) : Dev.Spares p d (d.setSpoke s x) := fun _ => rfl

theorem Dev.TelemKept.refl (d : Dev) : d.TelemKept d := ⟨fun _ _ => .refl d, fun _ => rfl, fun _ => ⟨rfl, rfl⟩, .refl d⟩

theorem Dev.TelemKept.trans {a b c : Dev} (h : a.TelemKept b) (g : b.TelemKept c) : a.TelemKept c :=
  ⟨fun p hp => (h.par p hp).trans (g.par p hp), fun k => (g.fresh k).trans (h.fresh k),
    fun s => ⟨(g.port s).1.trans (h.port s).1, (g.port s).2.trans (h.port s).2⟩, h.flags.trans g.flags⟩

theorem Dev.TelemKept.of_parts {d e : Dev} (hpar : ∀ p ∈ telemShown, Dev.Spares p d e) (hcells : e.cells = d.cells) (hspokes : e.spokes = d.spokes)
    (hflags : d.KeepsFlags e) : d.TelemKept e :=
  ⟨hpar, fun c => by rw [Dev.cell_of_cells hcells], fun s => by rw [Dev.spoke_of_spokes hspokes]; exact ⟨rfl, rfl⟩, hflags⟩

theorem telemShown_small {p : Par} (hp : p ∈ telemShown) : p.small = true ∧ (p.group = 0x10 ∨ p.group = 0x11) := by
  have hall : ∀ p ∈ telemShown, p.small = true ∧ (p.group = 0x10 ∨ p.group = 0x11) := by decide
  exact hall p hp

/-- A frame without the classes of cells and ports keeps the records; the flags are shown apart. -/
theorem Dev.TelemKept.of_agree {cs : List Nat} {fs : List Fld} {d e : Dev} (h : d.Agree cs fs e) (hflags : d.KeepsFlags e)
    (hc : (cs.contains 0x10 || cs.contains 0x11 || fs.contains .cells || fs.contains .spokes) = false) : d.TelemKept e := by
  simp only [Bool.or_eq_false_iff] at hc
  obtain ⟨⟨⟨hports, hcells⟩, hcell⟩, hspoke⟩ := hc
  refine .of_parts (fun p hp => ?_) (h.2 .cells hcell) (h.2 .spokes hspoke) hflags
  obtain ⟨hsmall, hgroup⟩ := telemShown_small hp
  refine .frame (.refl d) h hsmall ?_
  rcases hgroup with hg | hg
  · rw [hg, hports]
  · rw [hg, hcells]

theorem Dev.TelemKept.put {a d : Dev} (h : a.TelemKept d) {q : Par} {i v : Nat} (hq : ∀ p ∈ Par.evtFlag :: telemShown, Par.apart p q = true) :
    a.TelemKept (d.put q i v) :=
  h.trans (.of_parts (fun p hp => .put (.refl d) (hq p (List.mem_cons_of_mem _ hp))) (Dev.put_cells _ _ _ _) (Dev.put_spokes _ _ _ _)
    (.put (.refl d) (hq _ (List.mem_cons_self ..))))

theorem Dev.TelemKept.raise {a d : Dev} (h : a.TelemKept d) {n obj detail : Nat} {island : Bool} : a.TelemKept (d.raise n obj detail island) :=
  h.trans (.of_agree (d.raise_frame _ _ _ _) (d.raise_keepsFlags _ _ _ _) rfl)

theorem Dev.TelemKept.setCell {a d : Dev} (h : a.TelemKept d) {c : Nat} {x : CellRt} (hx : x.fresh = (d.cell c).fresh) : a.TelemKept (d.setCell c x) :=
  h.trans ⟨fun _ _ => d.setCell_spares c x, fun k => by
    by_cases hk : k = c
    · rw [hk, Dev.cell_setCell_same, hx]
    · rw [Dev.cell_setCell_other _ _ _ _ hk], fun _ => ⟨rfl, rfl⟩, .of_raw (fun i => d.setCell_spares c x i)⟩

theorem Dev.TelemKept.setSpoke {a d : Dev} (h : a.TelemKept d) {s : Nat} {x : SpokeRt} (hfar : x.far = (d.spoke s).far) (hret : x.ret = (d.spoke s).ret) :
    a.TelemKept (d.setSpoke s x) :=
  h.trans ⟨fun _ _ => d.setSpoke_spares s x, fun _ => rfl, fun k => by
    by_cases hk : k = s
    · rw [hk, Dev.spoke_setSpoke_same]
      exact ⟨hfar, hret⟩
    · rw [Dev.spoke_setSpoke_other _ _ _ _ hk]
      exact ⟨rfl, rfl⟩, .of_raw (fun i => d.setSpoke_spares s x i)⟩

theorem Dev.TelemKept.ite {a x y : Dev} {c : Prop} [Decidable c] (h : a.TelemKept x) (g : a.TelemKept y) : a.TelemKept (if c then x else y) := by
  split
  · exact h
  · exact g

theorem Dev.TelemKept.foldl {α : Type} {f : Dev → α → Dev} (hf : ∀ (d : Dev) x, d.TelemKept (f d x)) (xs : List α) (d : Dev) : d.TelemKept (xs.foldl f d) :=
  List.foldlRecOn xs f (motive := d.TelemKept) (.refl d) (fun e h x _ => h.trans (hf e x))

/-! ## The steps of a telemetry half -/

theorem Dev.weavePut_keepsTelem (d : Dev) (kind dest : Nat) (body : List Byte) (port : Nat) : d.TelemKept (d.weavePut kind dest body port) :=
  .of_agree (d.weavePut_frame kind dest body port) (.of_agree (d.weavePut_frame kind dest body port) rfl) rfl

theorem Dev.sample_keepsTelem (d : Dev) (cls inst sel ts : Nat) (v : F32) (rate : Nat) : d.TelemKept (d.sample cls inst sel ts v rate) :=
  .of_agree (d.sample_frame _ _ _ _ _ _) (d.sample_keepsFlags _ _ _ _ _ _) rfl

theorem Dev.armBlock_keepsFlags (d : Dev) (j cause cells : Nat) : d.KeepsFlags (d.armBlock j cause cells) := by
  unfold Dev.armBlock
  extract_lets counted arm carried blocked listed mode asked raised
  have hcounted : d.KeepsFlags counted := .put (.refl d) rfl
  clear_value counted
  have hcarried : d.KeepsFlags carried := .trans (.upd hcounted (counted.setArm_par j _)) (.of_raw (Dev.Spares.putF (.refl _) rfl))
  clear_value carried
  have hlisted : d.KeepsFlags listed := .put (.put (.put (.put hcarried rfl) rfl) rfl) rfl
  clear_value listed
  have hasked : d.KeepsFlags asked := .upd hlisted rfl
  have hraised : d.KeepsFlags raised := .raise hasked
  clear_value raised
  exact .ite hcounted (.ite (.frame hraised (raised.weavePut_frame _ _ _ _) rfl) hraised)

theorem Dev.armBlock_keepsTelem (d : Dev) (j cause cells : Nat) : d.TelemKept (d.armBlock j cause cells) :=
  .of_agree (d.armBlock_frame j cause cells) (d.armBlock_keepsFlags j cause cells) rfl

/-- The device with another state of the weave. -/
def Dev.setWeave (d : Dev) (w : WeaveSt) : Dev := { d with weave := w }

theorem Dev.setWeave_keepsTelem (d : Dev) (w : WeaveSt) : d.TelemKept (d.setWeave w) :=
  .of_parts (fun _ _ _ => rfl) rfl rfl (.of_raw (fun _ => rfl))

theorem Dev.setArm_keepsTelem (d : Dev) (j : Nat) (x : ArmRt) : d.TelemKept (d.setArm j x) :=
  .of_parts (fun _ _ => .upd (.refl d) (Dev.setArm_par _ _ _)) (Dev.setArm_cells _ _ _) (Dev.setArm_spokes _ _ _) (.upd (.refl d) (Dev.setArm_par _ _ _))

theorem Dev.twoCell_keepsTelem (d : Dev) (j c tseq : Nat) : d.TelemKept (d.twoCell j c tseq) := by
  unfold Dev.twoCell
  extract_lets x rs noted same arm first
  have hnoted : d.TelemKept noted := d.setArm_keepsTelem j _
  refine .ite (.refl d) ?_
  clear_value same
  split
  next a b =>
    have hfirst : d.TelemKept first := .ite hnoted (hnoted.trans (noted.setArm_keepsTelem j _))
    exact hfirst.trans (first.armBlock_keepsTelem j _ _)
  · exact .ite (.put hnoted (by decide)) hnoted
  · exact hnoted

theorem Dev.selectBypass_keepsTelem (d : Dev) (c : Nat) : d.TelemKept (d.selectBypass c) := by
  unfold Dev.selectBypass
  extract_lets chosen cell marked
  have hchosen : d.TelemKept chosen := .put (.refl d) (by decide)
  have hmarked : d.TelemKept marked := .setCell hchosen rfl
  refine .ite (.refl d) ?_
  split
  · exact .put hmarked (by decide)
  · exact hmarked

theorem Dev.underVoltage_keepsTelem (d : Dev) (c : Nat) : d.TelemKept (d.underVoltage c) := by
  unfold Dev.underVoltage
  extract_lets x ts counted raised
  split
  · exact .put (.refl d) (by decide)
  · have hset : d.TelemKept (d.setCell c { x with uvTimes := lastN 3 ts }) := .setCell (.refl d) rfl
    have hcounted : d.TelemKept counted := .put hset (by decide)
    have hraised : d.TelemKept raised := .raise hcounted
    exact .ite (hraised.trans (raised.selectBypass_keepsTelem c)) hraised

theorem Dev.configAnswer_keepsTelem (d : Dev) (c beat : Nat) (err : Bool) : d.TelemKept (d.configAnswer c beat err) := by
  unfold Dev.configAnswer
  extract_lets x
  split
  · extract_lets answered
    have hanswered : d.TelemKept answered := .setCell (.refl d) rfl
    exact .ite (.raise hanswered) hanswered
  · exact .refl d

theorem Dev.telemFaults_keepsTelem (d : Dev) (c old ft tseq : Nat) : d.TelemKept (d.telemFaults c old ft tseq) := by
  unfold Dev.telemFaults
  extract_lets det n1 n2 n3 desat short lock
  have hdesat : d.TelemKept desat := .ite (.refl d) (.raise (.put (.refl d) (by decide)))
  have hshort : d.TelemKept short := .ite hdesat (.trans (.raise (.put hdesat (by decide))) (Dev.selectBypass_keepsTelem _ c))
  have hlock : d.TelemKept lock := .ite hshort (.trans (.raise hshort) (Dev.selectBypass_keepsTelem _ c))
  split
  · exact .ite hlock (hlock.trans (lock.twoCell_keepsTelem _ c tseq))
  · exact hlock

theorem Dev.telemBypass_keepsTelem (d : Dev) (c : Nat) (bypassed : Bool) : d.TelemKept (d.telemBypass c bypassed) := by
  have hput (x : Dev) : x.TelemKept (x.put Par.cellProtState c bpBypassed) := .put (.refl x) (by decide)
  exact .ite (.ite (.raise ((d.selectBypass_keepsTelem c).trans (hput _))) (.ite (hput d) (.raise (hput d)))) (.ite (.setCell (.refl d) rfl) (.refl d))

/-- The record of cell `c` after a half `h`: what the half says, once in the beat (Table 4.5). -/
def Dev.showsHalf (d : Dev) (c : Nat) (h : List Byte) : Prop :=
  d.get Par.cellVcap c = beAt h 2 2 ∧ d.get Par.cellStatus c = byteAt h 1 ∧ d.get Par.cellFaults c = byteAt h 8 ∧ d.get Par.cellVgate c = byteAt h 12
    ∧ (d.cell c).fresh = true

theorem Dev.showsHalf.of_kept {d e : Dev} {c : Nat} {h : List Byte} (hs : d.showsHalf c h) (g : d.TelemKept e) : e.showsHalf c h := by
  unfold Dev.showsHalf
  rw [(g.par _ (by decide)).get, (g.par _ (by decide)).get, (g.par _ (by decide)).get, (g.par _ (by decide)).get, g.fresh]
  exact hs

/-! ## The record of a cell -/

theorem leNat_lt (bs : List Byte) : leNat bs < 256 ^ bs.length := by
  induction bs with
  | nil => exact Nat.one_pos
  | cons b t ih =>
    have hb := b.isLt
    rw [leNat, List.length_cons, Nat.pow_succ]
    omega

theorem slice_length (bs : List Byte) (o n : Nat) : (slice bs o n).length = n := by
  simp only [slice, List.length_append, List.length_replicate, List.length_take]
  omega

theorem beAt_lt (bs : List Byte) (o n : Nat) : beAt bs o n < 256 ^ n := by
  have hlt := leNat_lt (slice bs o n).reverse
  rwa [List.length_reverse, slice_length] at hlt

theorem byteAt_lt (bs : List Byte) (o : Nat) : byteAt bs o < 256 := (bs.getD o 0).isLt

theorem Dev.get_put_lt (d : Dev) {q : Par} {i v : Nat} (hv : v < 2 ^ 64) : (d.put q i v).get q i = v := by rw [Dev.get_put_same, Nat.mod_eq_of_lt hv]

theorem Dev.Spares.putI {a d : Dev} (h : Dev.Spares p a d) {q : Par} {i : Nat} {v : Int} (hp : Par.apart p q = true) : Dev.Spares p a (d.putI q i v) :=
  h.trans fun n => d.raw_setRaw_apart i n _ hp

theorem Dev.telemRecord_shows (d : Dev) (c beat : Nat) (h : List Byte) :
    (d.telemRecord c beat h).get Par.cellVcap c = beAt h 2 2 ∧ (d.telemRecord c beat h).get Par.cellStatus c = byteAt h 1
      ∧ (d.telemRecord c beat h).get Par.cellFaults c = byteAt h 8 ∧ (d.telemRecord c beat h).get Par.cellVgate c = byteAt h 12 := by
  have hword : beAt h 2 2 < 2 ^ 64 := (beAt_lt h 2 2).trans (by decide)
  have hbyte (o : Nat) : byteAt h o < 2 ^ 64 := (byteAt_lt h o).trans (by decide)
  unfold Dev.telemRecord
  extract_lets ft first second third fourth
  have hvcap : Dev.Spares Par.cellVcap (d.put Par.cellVcap c (beAt h 2 2)) (fourth.put Par.cellLockMask c (((List.range 4).map (fun s => b2n (switchFault ft s == 3) * 2 ^ s)).sum)) :=
    .put (.put (.put (.put (.put (.put (.put (.put (.put (.putI (.refl _) rfl) rfl) rfl) rfl) rfl) rfl) rfl) rfl) rfl) rfl
  have hvgate : Dev.Spares Par.cellVgate (first.put Par.cellVgate c (byteAt h 12)) (fourth.put Par.cellLockMask c (((List.range 4).map (fun s => b2n (switchFault ft s == 3) * 2 ^ s)).sum)) :=
    .put (.put (.put (.put (.put (.put (.put (.refl _) rfl) rfl) rfl) rfl) rfl) rfl) rfl
  have hstatus : Dev.Spares Par.cellStatus ((first.put Par.cellVgate c (byteAt h 12)).put Par.cellStatus c (byteAt h 1))
      (fourth.put Par.cellLockMask c (((List.range 4).map (fun s => b2n (switchFault ft s == 3) * 2 ^ s)).sum)) :=
    .put (.put (.put (.put (.put (.put (.refl _) rfl) rfl) rfl) rfl) rfl) rfl
  have hfaults : Dev.Spares Par.cellFaults (second.put Par.cellFaults c ft) (fourth.put Par.cellLockMask c (((List.range 4).map (fun s => b2n (switchFault ft s == 3) * 2 ^ s)).sum)) :=
    .put (.put (.put (.put (.refl _) rfl) rfl) rfl) rfl
  rw [hvcap.get, hvgate.get, hstatus.get, hfaults.get]
  exact ⟨Dev.get_put_lt _ hword, Dev.get_put_lt _ (hbyte 1), Dev.get_put_lt _ (hbyte 8), Dev.get_put_lt _ (hbyte 12)⟩

/-- From `d` to `e` parameters change at index `c` alone. -/
def Dev.OnlyAt (c : Nat) (d e : Dev) : Prop := ∀ p : Par, p.small = true → ∀ k, k ≠ c → e.raw p k = d.raw p k

theorem Dev.OnlyAt.setRaw {c : Nat} {a d : Dev} (h : Dev.OnlyAt c a d) {q : Par} (hq : q.small = true) {v : W64} : Dev.OnlyAt c a (d.setRaw q c v) := fun p hp k hk => by
  refine Eq.trans ?_ (h p hp k hk)
  by_cases hpq : p = q
  · subst hpq
    exact Dev.raw_setRaw_inst _ _ hp hk
  · exact Dev.raw_setRaw_apart _ _ _ _ (by rw [Par.apart, hp, hq, decide_eq_true hpq]; rfl)

theorem Dev.OnlyAt.put {c : Nat} {a d : Dev} (h : Dev.OnlyAt c a d) {q : Par} (hq : q.small = true) {v : Nat} : Dev.OnlyAt c a (d.put q c v) := h.setRaw hq

theorem Dev.OnlyAt.get {c : Nat} {d e : Dev} (h : Dev.OnlyAt c d e) {p : Par} (hp : p.small = true) {k : Nat} (hk : k ≠ c) : e.get p k = d.get p k := by
  rw [Dev.get, h p hp k hk, Dev.get]

theorem Dev.telemRecord_onlyAt (d : Dev) (c beat : Nat) (h : List Byte) : Dev.OnlyAt c d (d.telemRecord c beat h) := by
  have hset : Dev.OnlyAt c d d := fun _ _ _ _ => rfl
  exact .put (.put (.put (.put (.put (.put (.put (.put (.put (.setRaw (.put hset rfl) rfl) rfl) rfl) rfl) rfl) rfl) rfl) rfl) rfl) rfl

/-- From `d` to `e` the records of cells other than `c` stay, and what ports have heard; no flag is cleared. -/
structure Dev.OthersKept (c : Nat) (d e : Dev) : Prop where
  cells : ∀ k, k ≠ c → ∀ h, d.showsHalf k h → e.showsHalf k h
  fresh : ∀ k, k ≠ c → (e.cell k).fresh = (d.cell k).fresh
  ports : ∀ p ∈ [Par.spokeState, Par.spokeTurnA, Par.spokeTurnB], Dev.Spares p d e
  port : ∀ s, (e.spoke s).far = (d.spoke s).far ∧ (e.spoke s).ret = (d.spoke s).ret
  flags : d.KeepsFlags e

theorem Dev.OthersKept.of_kept {c : Nat} {a d e : Dev} (h : Dev.OthersKept c a d) (g : d.TelemKept e) : Dev.OthersKept c a e where
  cells k hk x hx := (h.cells k hk x hx).of_kept g
  fresh k hk := (g.fresh k).trans (h.fresh k hk)
  ports p hp := (h.ports p hp).trans (g.par p (List.mem_append_right [Par.cellVcap, Par.cellStatus, Par.cellFaults, Par.cellVgate] hp))
  port s := ⟨(g.port s).1.trans (h.port s).1, (g.port s).2.trans (h.port s).2⟩
  flags := h.flags.trans g.flags

theorem Dev.OthersKept.refl (c : Nat) (d : Dev) : Dev.OthersKept c d d := ⟨fun _ _ _ h => h, fun _ _ => rfl, fun _ _ => .refl d, fun _ => ⟨rfl, rfl⟩, .refl d⟩

/-- The first copy of a half in a beat (R83, Table 4.5): the cell's record is the half's, and it has come. -/
theorem Dev.telemFirst_takes (d : Dev) (c : Nat) (h : List Byte) : (d.telemFirst c h).showsHalf c h ∧ Dev.OthersKept c d (d.telemFirst c h) := by
  unfold Dev.telemFirst
  extract_lets st tseq oldSt was oldFt k beat x record blocked left selfBlock wd pending cell marked answered run faults under self bypass ts
  have hrecord : d.Agree [0x11] [] record := d.telemRecord_frame c beat h
  obtain ⟨hvcap, hstatus, hfaults, hvgate⟩ : record.get Par.cellVcap c = beAt h 2 2 ∧ record.get Par.cellStatus c = byteAt h 1
    ∧ record.get Par.cellFaults c = byteAt h 8 ∧ record.get Par.cellVgate c = byteAt h 12 := d.telemRecord_shows c beat h
  have honly : Dev.OnlyAt c d record := d.telemRecord_onlyAt c beat h
  clear_value record
  have hset (p : Par) : Dev.Spares p record marked := record.setCell_spares c _
  have hfresh : (marked.cell c).fresh = true := by rw [Dev.cell_setCell_same]
  have hother (k : Nat) (hk : k ≠ c) : marked.cell k = record.cell k := Dev.cell_setCell_other _ _ _ _ hk
  have hports (s : Nat) : marked.spoke s = record.spoke s := Dev.spoke_of_spokes rfl s
  clear_value marked
  have hmarked : marked.showsHalf c h :=
    ⟨((hset _).get c).trans hvcap, ((hset _).get c).trans hstatus, ((hset _).get c).trans hfaults, ((hset _).get c).trans hvgate, hfresh⟩
  have hkept (k : Nat) (hk : k ≠ c) : (marked.cell k).fresh = (d.cell k).fresh := by
    rw [hother k hk, Dev.cell_of_cells (hrecord.2 .cells rfl)]
  have hothers : Dev.OthersKept c d marked := by
    refine ⟨fun k hk x hx => ?_, hkept, fun p hp => ?_, fun s => ?_, ?_⟩
    · unfold Dev.showsHalf
      rw [hkept k hk, (hset _).get, (hset _).get, (hset _).get, (hset _).get, honly.get rfl hk, honly.get rfl hk, honly.get rfl hk, honly.get rfl hk]
      exact hx
    · have hgroup : ∀ p ∈ [Par.spokeState, Par.spokeTurnA, Par.spokeTurnB], p.small = true ∧ [0x11].contains p.group = false := by decide
      exact Dev.Spares.trans (.frame (.refl d) hrecord (hgroup p hp).1 (hgroup p hp).2) (hset p)
    · rw [hports, Dev.spoke_of_spokes (hrecord.2 .spokes rfl)]
      exact ⟨rfl, rfl⟩
    · exact .trans (.of_agree hrecord rfl) (.of_raw (hset _))
  have hanswered : marked.TelemKept answered := marked.configAnswer_keepsTelem c beat _
  clear_value answered
  have hfaults : marked.TelemKept faults := hanswered.trans (answered.telemFaults_keepsTelem c oldFt _ tseq)
  clear_value faults
  have hunder : marked.TelemKept under := .ite (hfaults.trans (faults.underVoltage_keepsTelem c)) hfaults
  clear_value under
  have hself : marked.TelemKept self := .ite (hunder.trans (under.selectBypass_keepsTelem c)) hunder
  clear_value self
  have hbypass : marked.TelemKept bypass := hself.trans (self.telemBypass_keepsTelem c _)
  have hend : marked.TelemKept (bypass.forL [0, 1, 2, 3] fun d s => d.sample 0x11 c s ts (d.cellVal c s) 2) :=
    hbypass.trans (.foldl (fun x s => x.sample_keepsTelem 0x11 c s ts _ 2) _ bypass)
  exact ⟨hmarked.of_kept hend, hothers.of_kept hend⟩

/-- A half that has not come in this beat is taken (R83). -/
theorem Dev.telemHalf_takes (d : Dev) (c : Nat) (h : List Byte) :
    ((d.cell c).fresh = false → (d.telemHalf c h).showsHalf c h) ∧ Dev.OthersKept c d (d.telemHalf c h) := by
  unfold Dev.telemHalf
  extract_lets tseq
  split
  next hagain =>
    refine ⟨fun hfresh => ?_, .refl c d⟩
    rw [hfresh, Bool.false_and] at hagain
    cases hagain
  · exact ⟨fun _ => (d.telemFirst_takes c h).1, (d.telemFirst_takes c h).2⟩

/-- So is one at a port (R95, R368), and a half that is not valid is not. -/
theorem Dev.takeHalf_takes (d : Dev) (s a pos : Nat) (h : List Byte) :
    (halfOk h pos = true → (d.cell (8 * a + pos)).fresh = false → (d.takeHalf s a pos h).showsHalf (8 * a + pos) h)
      ∧ Dev.OthersKept (8 * a + pos) d (d.takeHalf s a pos h) := by
  unfold Dev.takeHalf
  extract_lets taken x counted noted r weave yielded
  by_cases hok : halfOk h pos = true
  · rw [if_neg (by rw [hok]; decide)]
    obtain ⟨htakes, hothers⟩ := d.telemHalf_takes (8 * a + pos) h
    have hcounted : taken.TelemKept counted := .ite (.refl taken) (.put (.refl taken) (by decide))
    have hport : x.far = (counted.spoke s).far ∧ x.ret = (counted.spoke s).ret := hcounted.port s |>.imp Eq.symm Eq.symm
    have hset : taken.TelemKept (counted.setSpoke s { x with split := true }) := .setSpoke hcounted hport.1 hport.2
    have hnoted : taken.TelemKept noted := .raise hset
    clear_value noted
    have hyielded : noted.TelemKept yielded := noted.setWeave_keepsTelem _
    clear_value yielded
    have hend : taken.TelemKept (if bit (byteAt h 1) 6 then
        if noted.tokenNext = true ∧ (r = srDuplexA ∨ r = srDuplexB) ∧ noted.partnerNo < noted.stakeNo ∧ noted.weave.tokPlan = none then
          (yielded.inc 32 Par.weaveTokenYields 0).raise 186 (oid 0x80 0)
        else noted
      else taken) := .ite (.ite (hnoted.trans (.raise (.put hyielded (by decide)))) hnoted) (.refl taken)
    exact ⟨fun _ hfresh => (htakes hfresh).of_kept hend, hothers.of_kept hend⟩
  · rw [if_pos (by simpa using hok)]
    exact ⟨fun h => absurd h hok, .refl _ d⟩

end Sys2Proof.Machine
end

section
/-! PROOF. Control and return frames of a spoke, and its receivers (R41, R78 to R104). -/

namespace Sys2Proof.Machine

variable {s : Nat} {f : RxFrame}

/-- The comparison with the partner's halves moves commands, not telemetry (R132). -/
theorem Dev.compareHalves_keepsTelem (d : Dev) (f : RxFrame) (a : Nat) : d.TelemKept (d.compareHalves f a) := by
  unfold Dev.compareHalves
  extract_lets all other noted diff set
  have hnote (x : Dev) (c b : Nat) : x.TelemKept (x.noteBlock c b) := .setCell (.refl x) rfl
  have hnoted : d.TelemKept noted := .foldl (fun x p => .ite (hnote x _ _) (.refl x)) _ d
  have hcell (x : Dev) (c : Nat) (h : Half) (all : Bool) (st : Nat) (rho : F32) :
      x.TelemKept (x.setCell c { x.cell c with cur := h, curAll := all, stCur := st, rho := rho }) := .setCell (.refl x) rfl
  have hset : noted.TelemKept set := .foldl (fun x p => hcell x _ _ _ _ _) diff noted
  have hall := hnoted.trans hset
  refine .ite (.refl d) (.ite hnoted ?_)
  clear_value set
  split
  next j _ =>
    extract_lets fc first cell shown
    have hput : set.TelemKept ((set.setArm j { set.arm j with prevFrac := fc, divBeat := some set.beatNo }).putBit Par.armStatus j 4 true) :=
      .put (set.setArm_keepsTelem j _) (by decide)
    have hshown : set.TelemKept shown := hput
    exact .ite (hall.trans (.raise (.put hshown (by decide)))) (hall.trans hshown)
  · exact hall

/-- The time of a frame, and its ERR where the CRC-32 fails (R81, Table 4.13). -/
theorem Dev.rxTiming_keepsTelem (d : Dev) (s : Nat) (f : RxFrame) : d.TelemKept (d.rxTiming s f) := by
  unfold Dev.rxTiming
  extract_lets w t timed late
  have htimed : d.TelemKept timed := .put (.refl d) (by decide)
  have hlate : d.TelemKept late := .ite (.raise htimed) htimed
  exact .ite (.put (.put hlate (by decide)) (by decide)) hlate

theorem Dev.rxTiming_spares {q : Par} (hq : ∀ p ∈ [Par.spokeFrameTime, Par.spokeCrcErrors, Par.spokeErrPos], Par.apart q p = true) (hsmall : q.small = true)
    (hgroup : [0xC0].contains q.group = false) (d : Dev) (s : Nat) (f : RxFrame) : Dev.Spares q d (d.rxTiming s f) := by
  unfold Dev.rxTiming
  extract_lets w t timed late
  have htimed : Dev.Spares q d timed := .put (.refl d) (hq _ (by decide))
  have hlate : Dev.Spares q d late := .ite (.frame htimed (timed.raise_frame _ _ _ _) hsmall hgroup) htimed
  exact .ite (.put (.put hlate (hq _ (by decide))) (hq _ (by decide))) hlate

/-- The ring at a port stays, and so does its number of cells. -/
theorem Dev.rxTiming_ring (d : Dev) (s k : Nat) (f : RxFrame) : (d.rxTiming s f).get Par.spokeRole k = d.get Par.spokeRole k
    ∧ (d.rxTiming s f).ringOf k = d.ringOf k ∧ (d.rxTiming s f).ringCells k = d.ringCells k ∧ (d.rxTiming s f).onBeat f = d.onBeat f := by
  have hbeat : (d.rxTiming s f).beatNo = d.beatNo := (d.rxTiming_frame s f).get _ _ rfl rfl
  rw [Dev.ringOf, Dev.ringCells, Dev.onBeat, hbeat, (Dev.rxTiming_spares (by decide) rfl rfl d s f).get, (Dev.rxTiming_spares (by decide) rfl rfl d s f).get,
    (Dev.rxTiming_spares (by decide) rfl rfl d s f).get]
  exact ⟨rfl, rfl, rfl, rfl⟩

theorem Dev.rxTiming_counts {d : Dev} (hbad : f.crcBad = true) (s : Nat) :
    (d.rxTiming s f).get Par.spokeCrcErrors s = (d.get Par.spokeCrcErrors s + 1) % 2 ^ 32 ∧ (d.rxTiming s f).get Par.spokeErrPos s = min 8 f.err := by
  unfold Dev.rxTiming
  extract_lets w t timed late
  have hlate : Dev.Spares Par.spokeCrcErrors d late := .ite (.frame (.put (.refl d) rfl) (Dev.raise_frame _ _ _ _ _) rfl rfl) (.put (.refl d) rfl)
  rw [if_pos hbad]
  refine ⟨?_, Dev.get_put_lt _ (by omega)⟩
  rw [Dev.get_put_apart _ _ _ _ rfl, Dev.get_inc_same _ _ _ _ (by decide), hlate.get]

/-- A frame in whose beat it was sent takes the halves of its cells, one after another (R83). -/
def Dev.takesHalves (d : Dev) (s a : Nat) (f : RxFrame) : Dev := d.forN f.n fun d p => d.takeHalf s a p (slice f.slots (32 * p + 16) 16)

/-- Every half that has not come before is taken. -/
theorem Dev.takesHalves_takes (d : Dev) (s a : Nat) (f : RxFrame) : (∀ k, ((d.takesHalves s a f).spoke k).far = (d.spoke k).far)
    ∧ ∀ p < f.n, halfOk (slice f.slots (32 * p + 16) 16) p = true → (d.cell (8 * a + p)).fresh = false →
        (d.takesHalves s a f).showsHalf (8 * a + p) (slice f.slots (32 * p + 16) 16) := by
  refine ⟨fun k => ?_, fun p hp hok hfresh => ?_⟩
  · exact Dev.forN_induct (P := fun e => (e.spoke k).far = (d.spoke k).far) rfl fun e n _ he => ((e.takeHalf_takes s a n _).2.port k).1.trans he
  · -- Up to its own step the cell has no half of this beat; from it on it has its own.
    have hpass (l : Nat) (hl : l ≤ f.n) : (l ≤ p → ((d.forN l fun d p => d.takeHalf s a p (slice f.slots (32 * p + 16) 16)).cell (8 * a + p)).fresh = false)
        ∧ (p < l → (d.forN l fun d p => d.takeHalf s a p (slice f.slots (32 * p + 16) 16)).showsHalf (8 * a + p) (slice f.slots (32 * p + 16) 16)) := by
      induction l with
      | zero => exact ⟨fun _ => hfresh, fun h => absurd h (Nat.not_lt_zero p)⟩
      | succ l ih =>
        obtain ⟨hbefore, hafter⟩ := ih (by omega)
        have hstep : (d.forN (l + 1) fun d p => d.takeHalf s a p (slice f.slots (32 * p + 16) 16))
            = (d.forN l fun d p => d.takeHalf s a p (slice f.slots (32 * p + 16) 16)).takeHalf s a l (slice f.slots (32 * l + 16) 16) := by
          rw [Dev.forN, List.range_succ, List.foldl_append]
          rfl
        rw [hstep]
        obtain ⟨htakes, hothers⟩ := (d.forN l fun d p => d.takeHalf s a p (slice f.slots (32 * p + 16) 16)).takeHalf_takes s a l (slice f.slots (32 * l + 16) 16)
        refine ⟨fun hlp => ?_, fun hpl => ?_⟩
        · rw [hothers.fresh _ (by omega), hbefore (by omega)]
        · by_cases hpl' : p = l
          · subst hpl'
            exact htakes hok (hbefore (Nat.le_refl p))
          · exact hothers.cells _ (by omega) _ (hafter (by omega))
    exact (hpass f.n (Nat.le_refl _)).2 hp

/-- A frame in order is heard and its halves are taken (R81, R83). -/
theorem Dev.rxControl_hears {d : Dev} {s : Nat} {bs : List Byte} {lineOk : Bool} (hfull : d.full = true) (hrole : d.get Par.spokeRole s ≠ srUnused)
    (hstate : d.get Par.spokeState s = rsRun ∨ d.get Par.spokeState s = rsSplit) :
    let f := parseFrame bs lineOk
    (f.ok = true → f.type = 1 → f.n = d.ringCells (d.ringOf s) → d.onBeat f = true → ((d.rxControl s bs lineOk).spoke s).far = true
      ∧ ∀ p < f.n, halfOk (slice f.slots (32 * p + 16) 16) p = true → (d.cell (8 * d.ringOf s + p)).fresh = false →
        (d.rxControl s bs lineOk).showsHalf (8 * d.ringOf s + p) (slice f.slots (32 * p + 16) 16))
    ∧ (f.ok = false → d.rxControl s bs lineOk = d.rxTiming s f) := by
  intro f
  generalize hr : d.rxControl s bs lineOk = r
  have hgo : ¬ (!d.full ∨ d.get Par.spokeRole s = srUnused ∨ !(d.get Par.spokeState s == rsRun || d.get Par.spokeState s == rsSplit)) := by
    rcases hstate with h | h <;> simp [hfull, hrole, h]
  unfold Dev.rxControl at hr
  extract_lets st timed a port heard compared at hr
  rw [if_neg hgo] at hr
  obtain ⟨hrole', hring, hcells, hbeat'⟩ : timed.get Par.spokeRole s = d.get Par.spokeRole s ∧ timed.ringOf s = d.ringOf s
    ∧ timed.ringCells (d.ringOf s) = d.ringCells (d.ringOf s) ∧ timed.onBeat f = d.onBeat f :=
    ⟨(d.rxTiming_ring s s f).1, (d.rxTiming_ring s s f).2.1, (d.rxTiming_ring s (d.ringOf s) f).2.2.1, (d.rxTiming_ring s s f).2.2.2⟩
  have htimed : d.TelemKept timed := d.rxTiming_keepsTelem s f
  refine ⟨fun hok htype hn hbeat => ?_, fun hok => ?_⟩
  · have hgo' : ¬ (!f.ok ∨ f.type ≠ 1 ∨ f.n ≠ timed.ringCells a ∨ !(timed.onBeat f)) := by
      rw [show timed.ringCells a = d.ringCells (d.ringOf s) by rw [← hcells, ← hring], hbeat']
      simp [hok, htype, hn, hbeat]
    rw [if_neg hgo'] at hr
    have hend : compared.takesHalves s a f = r := hr
    rw [show a = d.ringOf s from hring] at hend
    clear_value timed
    have hheard : ((heard.spoke s).far = true) ∧ ∀ c, heard.cell c = timed.cell c := ⟨by rw [Dev.spoke_setSpoke_same], fun _ => rfl⟩
    clear_value heard
    have hcompared : heard.TelemKept compared := .ite (heard.compareHalves_keepsTelem f a) (.refl heard)
    clear_value compared
    obtain ⟨hfar, htakes⟩ := compared.takesHalves_takes s (d.ringOf s) f
    rw [hend] at hfar htakes
    refine ⟨by rw [hfar, (hcompared.port s).1, hheard.1], fun p hp hhalf hfresh => htakes p hp hhalf ?_⟩
    rw [hcompared.fresh, hheard.2, htimed.fresh, hfresh]
  · rw [if_pos (.inl (by rw [hok]; rfl))] at hr
    exact hr.symm

theorem parseFrame_ok_of_crcBad {bs : List Byte} {lineOk : Bool} (h : (parseFrame bs lineOk).crcBad = true) : (parseFrame bs lineOk).ok = false := by
  simp only [parseFrame, Bool.and_eq_true] at h ⊢
  simp [h.2]

/-- The halves of a RETURN frame leave the port's state, its turning positions and what it has heard; they clear no flag. -/
structure Dev.PortKept (d e : Dev) : Prop where
  par : ∀ p ∈ [Par.spokeState, Par.spokeTurnA, Par.spokeTurnB], Dev.Spares p d e
  port : ∀ s, (e.spoke s).far = (d.spoke s).far ∧ (e.spoke s).ret = (d.spoke s).ret
  flags : d.KeepsFlags e

theorem Dev.PortKept.refl (d : Dev) : d.PortKept d := ⟨fun _ _ => .refl d, fun _ => ⟨rfl, rfl⟩, .refl d⟩

theorem Dev.PortKept.trans {a b c : Dev} (h : a.PortKept b) (g : b.PortKept c) : a.PortKept c :=
  ⟨fun p hp => (h.par p hp).trans (g.par p hp), fun s => ⟨(g.port s).1.trans (h.port s).1, (g.port s).2.trans (h.port s).2⟩, h.flags.trans g.flags⟩

theorem Dev.PortKept.ite {a x y : Dev} {c : Prop} [Decidable c] (h : a.PortKept x) (g : a.PortKept y) : a.PortKept (if c then x else y) := by
  split
  · exact h
  · exact g

theorem Dev.PortKept.foldl {α : Type} {f : Dev → α → Dev} (hf : ∀ (d : Dev) x, d.PortKept (f d x)) (xs : List α) (d : Dev) : d.PortKept (xs.foldl f d) :=
  List.foldlRecOn xs f (motive := d.PortKept) (.refl d) (fun e h x _ => h.trans (hf e x))

theorem Dev.TelemKept.ports {d e : Dev} (h : d.TelemKept e) : d.PortKept e :=
  ⟨fun p hp => h.par p (List.mem_append_right [Par.cellVcap, Par.cellStatus, Par.cellFaults, Par.cellVgate] hp), h.port, h.flags⟩

theorem Dev.takeHalf_ports (d : Dev) (s a pos : Nat) (h : List Byte) : d.PortKept (d.takeHalf s a pos h) :=
  have hothers := (d.takeHalf_takes s a pos h).2
  ⟨hothers.ports, hothers.port, hothers.flags⟩

/-- The ring at a port in RUN splits (R101). -/
theorem Dev.enterSplit_splits {d : Dev} (hrun : d.get Par.spokeState s = rsRun) (hup : d.phase = .run) :
    (d.enterSplit s).get Par.spokeState s = rsSplit ∧ (d.enterSplit s).isOn Par.evtFlag evSpokeSplit = true := by
  unfold Dev.enterSplit
  rw [if_pos hrun]
  have hphase : ((d.setSpoke s { d.spoke s with goodRun := 0 }).put Par.spokeState s rsSplit).phase = .run := by
    rw [Dev.put_phase, Dev.setSpoke_phase, hup]
  refine ⟨?_, Dev.isOn_raise _ _ _ _ (Dev.evtUp_of_run hphase)⟩
  rw [(Dev.raise_frame _ _ _ _ _).get _ _ rfl rfl, Dev.get_put_same]
  rfl

theorem Dev.rxReturn_splits {d : Dev} {bs : List Byte} {lineOk : Bool} (hfull : d.full = true) (hrole : d.get Par.spokeRole s ≠ srUnused)
    (hok : (parseFrame bs lineOk).ok = true) (htype : (parseFrame bs lineOk).type = 4) (hbeat : d.onBeat (parseFrame bs lineOk) = true)
    (hrun : d.get Par.spokeState s = rsRun) :
    (d.rxReturn s bs lineOk).get Par.spokeState s = rsSplit ∧ ((d.rxReturn s bs lineOk).spoke s).ret = true
      ∧ (d.rxReturn s bs lineOk).isOn Par.evtFlag evSpokeSplit = true
      ∧ (d.rxReturn s bs lineOk).get (if d.bEnd s then Par.spokeTurnB else Par.spokeTurnA) s = (parseFrame bs lineOk).turn := by
  generalize hr : d.rxReturn s bs lineOk = r
  have hgo : ¬ (!d.full ∨ d.get Par.spokeRole s = srUnused) := by simp [hfull, hrole]
  have hstate : ¬ (!(d.get Par.spokeState s == rsRun || d.get Par.spokeState s == rsSplit)) = true := by simp [hrun]
  unfold Dev.rxReturn at hr
  extract_lets f st a b timed cell split port heard turned m first at hr
  rw [if_neg hgo, if_neg (show ¬ st = rsDiscover by rw [show st = rsRun from hrun]; decide), if_neg hstate] at hr
  have hbeat' : timed.onBeat f = d.onBeat f := (d.rxTiming_ring s s f).2.2.2
  have hgo' : ¬ (!f.ok ∨ f.type ≠ 4 ∨ !(timed.onBeat f)) := by
    rw [hbeat']
    simp [f, hok, htype, hbeat]
  rw [if_neg hgo'] at hr
  have hphase : timed.phase = .run := by
    rw [show timed.phase = d.phase from (d.rxTiming_frame s f).2 .phase rfl]
    exact Dev.run_of_full hfull
  have hrun' : timed.get Par.spokeState s = rsRun := by
    rw [show timed.get Par.spokeState s = d.get Par.spokeState s from (Dev.rxTiming_spares (by decide) rfl rfl d s f).get s, hrun]
  clear_value timed
  obtain ⟨hsplit, hflag⟩ : split.get Par.spokeState s = rsSplit ∧ split.isOn Par.evtFlag evSpokeSplit = true := Dev.enterSplit_splits hrun' hphase
  clear_value split
  have hheard : Dev.Spares Par.spokeState split heard ∧ split.KeepsFlags heard := ⟨split.setSpoke_spares s _, .of_raw (split.setSpoke_spares s _)⟩
  have hret : (heard.spoke s).ret = true := by rw [Dev.spoke_setSpoke_same]
  clear_value heard
  have hapart : ∀ c : Bool, Par.apart Par.spokeState (if c then Par.spokeTurnB else Par.spokeTurnA) = true
      ∧ Par.apart Par.evtFlag (if c then Par.spokeTurnB else Par.spokeTurnA) = true := by decide
  have hturned : Dev.Spares Par.spokeState heard turned ∧ heard.KeepsFlags turned := ⟨.put (.refl heard) (hapart b).1, .put (.refl heard) (hapart b).2⟩
  have hturn : turned.get (if b then Par.spokeTurnB else Par.spokeTurnA) s = f.turn :=
    Dev.get_put_lt _ (show byteAt bs 9 < 2 ^ 64 from (byteAt_lt bs 9).trans (by decide))
  have hport : turned.spoke s = heard.spoke s := Dev.spoke_of_spokes (Dev.put_spokes _ _ _ _) s
  clear_value turned
  have hhalf (x : Dev) (p : Nat) (h : List Byte) (c : Prop) [Decidable c] (dest : Nat) (body : List Byte) :
      x.PortKept (if p ≥ 8 then x else if c then (x.takeHalf s a p h).weavePut wkTelemRelay dest body else x.takeHalf s a p h) :=
    .ite (.refl x) (.ite ((x.takeHalf_ports s a p h).trans (Dev.weavePut_keepsTelem _ _ _ _ _).ports) (x.takeHalf_ports s a p h))
  have hend : turned.PortKept r := hr ▸ .foldl (fun x i => hhalf x _ _ _ _ _) _ turned
  refine ⟨?_, ?_, hend.flags _ (hturned.2 _ (hheard.2 _ hflag)), ?_⟩
  · rw [(hend.par _ (by decide)).get, hturned.1.get, hheard.1.get, hsplit]
  · rw [(hend.port s).2, hport, hret]
  · have hmem : ∀ c : Bool, (if c then Par.spokeTurnB else Par.spokeTurnA) ∈ [Par.spokeState, Par.spokeTurnA, Par.spokeTurnB] := by decide
    rw [(hend.par _ (hmem b)).get, hturn]

/-- In a discovery the turning position counts the cells reached (R105). -/
theorem Dev.rxReturn_counts {d : Dev} {bs : List Byte} {lineOk : Bool} {x : Disc} (hfull : d.full = true) (hrole : d.get Par.spokeRole s ≠ srUnused)
    (hok : (parseFrame bs lineOk).ok = true) (htype : (parseFrame bs lineOk).type = 4) (hbeat : d.onBeat (parseFrame bs lineOk) = true)
    (hstate : d.get Par.spokeState s = rsDiscover) (hdisc : (d.spoke (d.ringOf s)).disc = some x) :
    (d.rxReturn s bs lineOk).get Par.spokeState s = rsDiscover
      ∧ ((d.rxReturn s bs lineOk).spoke (d.ringOf s)).disc
        = some (if d.bEnd s then { x with retB := some (parseFrame bs lineOk).turn } else { x with retA := some (parseFrame bs lineOk).turn }) := by
  generalize hr : d.rxReturn s bs lineOk = r
  have hgo : ¬ (!d.full ∨ d.get Par.spokeRole s = srUnused) := by simp [hfull, hrole]
  unfold Dev.rxReturn at hr
  extract_lets f st a b timed cell split port heard turned m first at hr
  rw [if_neg hgo, if_pos (show st = rsDiscover from hstate)] at hr
  have hbeat' : timed.onBeat f = d.onBeat f := (d.rxTiming_ring s s f).2.2.2
  have hdisc' : (timed.spoke a).disc = some x := by
    rw [Dev.spoke_of_spokes (show timed.spokes = d.spokes from (d.rxTiming_frame s f).2 .spokes rfl)]
    exact hdisc
  have hstate' : timed.get Par.spokeState s = rsDiscover := by
    rw [show timed.get Par.spokeState s = d.get Par.spokeState s from (Dev.rxTiming_spares (by decide) rfl rfl d s f).get s, hstate]
  clear_value timed
  rw [hdisc'] at hr
  have hgo' : (f.ok && f.type == 4 && timed.onBeat f) = true := by
    rw [hbeat']
    simp [f, hok, htype, hbeat]
  simp only [hgo', if_true] at hr
  subst hr
  rw [(Dev.setSpoke_spares _ _ _).get, Dev.spoke_setSpoke_same]
  exact ⟨hstate', rfl⟩

/-- A receiver goes dead (R78): its link is down, and a used port tells of the loss. -/
theorem Dev.receiverDead_drops (d : Dev) (s : Nat) (hup : d.phase = .run) : (d.receiverDead s).get Par.spokeLink s = 0
    ∧ (bit (d.get Par.spokeLink s) 0 = true → d.get Par.spokeRole s ≠ srUnused → (d.receiverDead s).isOn Par.evtFlag evSpokeLinkDown = true)
    ∧ (d.receiverDead s).spokes = d.spokes := by
  have hframe := d.receiverDead_frame s
  unfold Dev.receiverDead at hframe ⊢
  extract_lets was down at hframe
  have hrole : down.get Par.spokeRole s = d.get Par.spokeRole s := Dev.get_put_apart _ _ _ _ rfl
  refine ⟨?_, fun hwas hused => ?_, hframe.2 .spokes rfl⟩
  · have hraised : Dev.Spares Par.spokeLink down (down.raise evSpokeLinkDown (oid 0x10 s)) := .frame (.refl down) (down.raise_frame _ _ _ _) rfl rfl
    have hend : Dev.Spares Par.spokeLink down (if was = true ∧ down.get Par.spokeRole s ≠ srUnused then down.raise evSpokeLinkDown (oid 0x10 s) else down) :=
      .ite hraised (.refl down)
    rw [hend.get]
    exact Dev.get_put_lt _ (by decide)
  · rw [if_pos ⟨hwas, by rw [hrole]; exact hused⟩]
    exact Dev.isOn_raise _ _ _ _ (Dev.evtUp_of_run (show down.phase = .run by rw [show down.phase = d.phase from Dev.put_phase _ _ _ _, hup]))

/-- A receiver becomes live (R78, R104): its link is up, and a ring in IDLE at an A end is held for discovery. -/
theorem Dev.receiverLive_rises (d : Dev) (s : Nat) : (d.receiverLive s).get Par.spokeLink s = 1
    ∧ ((d.get Par.spokeRole s = srSingleA ∨ d.get Par.spokeRole s = srDuplexA) → d.get Par.spokeState s = rsIdle → ((d.receiverLive s).spoke s).autoPend = true)
    ∧ ∀ k, k ≠ s → (d.receiverLive s).get Par.spokeLink k = d.get Par.spokeLink k ∧ (d.receiverLive s).spoke k = d.spoke k := by
  unfold Dev.receiverLive
  extract_lets live r
  have hrole : live.get Par.spokeRole s = d.get Par.spokeRole s := Dev.get_put_apart _ _ _ _ rfl
  have hstate : live.get Par.spokeState s = d.get Par.spokeState s := Dev.get_put_apart _ _ _ _ rfl
  have hlink : live.get Par.spokeLink s = 1 := Dev.get_put_lt _ (by decide)
  have hother (k : Nat) (hk : k ≠ s) : live.get Par.spokeLink k = d.get Par.spokeLink k ∧ live.spoke k = d.spoke k :=
    ⟨Dev.get_put_inst _ _ rfl hk, Dev.spoke_of_spokes (Dev.put_spokes _ _ _ _) k⟩
  clear_value live
  split
  · refine ⟨((live.setSpoke_spares s _).get s).trans hlink, fun _ _ => by rw [Dev.spoke_setSpoke_same], fun k hk => ?_⟩
    rw [(live.setSpoke_spares s _).get, Dev.spoke_setSpoke_other _ _ _ _ hk]
    exact hother k hk
  next hnot => exact ⟨hlink, fun h g => absurd ⟨by unfold r; rwa [hrole], by rw [hstate, g]⟩ hnot, hother⟩

end Sys2Proof.Machine

open Sys2Proof Sys2Proof.Machine

/-- Settles O28: a frame in order is heard, each of its halves is the record of its cell once in the beat, and a RETURN frame splits the ring. -/
theorem spokeFrames : Obligations.SpokeFrames := by
  unfold Obligations.SpokeFrames
  refine ⟨fun t s' bs lineOk s hfull hclk hrole hstate => ?_, fun t s' bs lineOk s hfull hclk hrole => ?_, fun t s' s hfull hclk => ?_, fun t s' s hfull hclk => ?_⟩
  · intro f a
    refine ⟨fun hok htype hn hbeat => ?_, fun hbad => ?_⟩
    · refine .of_whenOn hfull hclk rfl fun e he => ?_
      obtain ⟨hfar, htakes⟩ := (Dev.rxControl_hears (d := s.dev.atTime t) (s := s'.val) (bs := bs) (lineOk := lineOk) hfull hrole hstate).1 hok htype hn hbeat
      rw [he] at hfar htakes
      refine ⟨by rw [Dev.spoke_of_spokes (Dev.settle_spokes _ _), hfar], fun p hp => ?_⟩
      intro h hhalf hfresh
      obtain ⟨hvcap, hstatus, hfaults, hvgate, hnew⟩ := htakes p hp hhalf hfresh
      rw [Dev.settle_get _ _ _ rfl, Dev.settle_get _ _ _ rfl, Dev.settle_get _ _ _ rfl, Dev.settle_get _ _ _ rfl, Dev.cell_of_cells (Dev.settle_cells _ _)]
      exact ⟨hvcap, hstatus, hfaults, hvgate, hnew⟩
    · refine .of_whenOn hfull hclk rfl fun e he => ?_
      have hend := (Dev.rxControl_hears (d := s.dev.atTime t) (s := s'.val) (bs := bs) (lineOk := lineOk) hfull hrole hstate).2 (parseFrame_ok_of_crcBad hbad)
      obtain ⟨hcount, hpos⟩ := Dev.rxTiming_counts (d := s.dev.atTime t) (f := parseFrame bs lineOk) hbad s'.val
      have hframe := (s.dev.atTime t).rxTiming_frame s'.val (parseFrame bs lineOk)
      rw [← hend, he] at hcount hpos hframe
      rw [Dev.settle_get _ _ _ rfl, Dev.settle_get _ _ _ rfl, Dev.settle_cells, Dev.settle_spokes]
      exact ⟨hcount, hpos, hframe.2 .cells rfl, hframe.2 .spokes rfl⟩
  · intro f hok htype hbeat
    refine ⟨fun hrun => ?_, fun x hstate hdisc => ?_⟩
    · refine .of_whenOn hfull hclk rfl fun e he => ?_
      obtain ⟨hsplit, hret, hflag, hturn⟩ := Dev.rxReturn_splits (d := s.dev.atTime t) (s := s'.val) (bs := bs) (lineOk := lineOk) hfull hrole hok htype hbeat hrun
      rw [he] at hsplit hret hflag hturn
      have hstays : ∀ b : Bool, Par.stays (if b then Par.spokeTurnB else Par.spokeTurnA) = true := by decide
      rw [Dev.settle_get _ _ _ rfl, Dev.spoke_of_spokes (Dev.settle_spokes _ _), Dev.settle_get _ _ _ (hstays _)]
      exact ⟨hsplit, hret, Dev.settle_keepsFlags _ _ _ hflag, hturn⟩
    · refine .of_whenOn hfull hclk rfl fun e he => ?_
      obtain ⟨hkept, hcount⟩ := Dev.rxReturn_counts (d := s.dev.atTime t) (s := s'.val) (bs := bs) (lineOk := lineOk) hfull hrole hok htype hbeat hstate hdisc
      rw [he] at hkept hcount
      rw [Dev.settle_get _ _ _ rfl, Dev.spoke_of_spokes (Dev.settle_spokes _ _)]
      exact ⟨hkept, hcount⟩
  · refine .of_whenOn hfull hclk rfl fun e he => ?_
    obtain ⟨hlink, hflag, hspokes⟩ := (s.dev.atTime t).receiverDead_drops s'.val (Dev.run_of_full hfull)
    rw [he] at hlink hflag hspokes
    rw [Dev.settle_get _ _ _ rfl, Dev.settle_spokes]
    exact ⟨hlink, fun hwas hused => Dev.settle_keepsFlags _ _ _ (hflag hwas hused), hspokes⟩
  · refine .of_whenOn hfull hclk rfl fun e he => ?_
    obtain ⟨hlink, hhold, hother⟩ := (s.dev.atTime t).receiverLive_rises s'.val
    rw [he] at hlink hhold hother
    rw [Dev.settle_get _ _ _ rfl, Dev.spoke_of_spokes (Dev.settle_spokes _ _)]
    refine ⟨hlink, hhold, fun k _ hk => ?_⟩
    rw [Dev.settle_get _ _ _ rfl, Dev.spoke_of_spokes (Dev.settle_spokes _ _)]
    exact hother k hk

end

section
/-! PROOF. Discovery of a ring (R104 to R107), and the counts of spokes and cells (R98 to R101, R149 to R151). -/

namespace Sys2Proof.Machine

variable {s a c : Nat}

/-! ## Identity halves -/

/-- Cell `c` is known by what an identity half names (Table 4.6). -/
def Dev.knows (d : Dev) (c : Nat) (h : List Byte) : Prop :=
  d.get Par.cellSerial c = beAt h 2 6 ∧ d.get Par.cellMaker c = beAt h 8 2 ∧ (d.cell c).version = byteAt h 1

theorem Dev.identityCheck_keeps (d : Dev) (c : Nat) : (∀ k, ((d.identityCheck c).cell k).version = (d.cell k).version)
    ∧ ∀ p : Par, p.small = true → [0xC0].contains p.group = false → Dev.Spares p d (d.identityCheck c) := by
  refine ⟨fun k => ?_, fun p hp hg => .frame (.refl d) (d.identityCheck_frame c) hp hg⟩
  unfold Dev.identityCheck
  extract_lets bad told
  have htold : told.cells = d.cells := by
    unfold told
    split
    · exact Dev.raise_cells _ _ _ _ _
    · rfl
  by_cases hk : k = c
  · rw [hk, Dev.cell_setCell_same]
    have hversion := congrArg CellRt.version (Dev.cell_of_cells htold c)
    exact hversion
  · rw [Dev.cell_setCell_other _ _ _ _ hk, Dev.cell_of_cells htold]

/-- A valid identity half is stored (R106). -/
theorem Dev.takeIdentity_knows (d : Dev) {c : Nat} {h : List Byte} (hcrc : beAt h 14 2 = crc16 (slice h 0 14)) (hpresent : bit (byteAt h 0) 3 = true) :
    (d.takeIdentity c h).knows c h := by
  have hgo : ¬ (beAt h 14 2 ≠ crc16 (slice h 0 14) ∨ !(bit (byteAt h 0) 3)) := by simp [hcrc, hpresent]
  unfold Dev.takeIdentity
  rw [if_neg hgo]
  extract_lets named typed
  have hserial : Dev.Spares Par.cellSerial (d.put Par.cellSerial c (beAt h 2 6)) typed := .put (.put (.put (.refl _) rfl) rfl) rfl
  have hmaker : Dev.Spares Par.cellMaker ((d.put Par.cellSerial c (beAt h 2 6)).put Par.cellMaker c (beAt h 8 2)) typed := .put (.put (.refl _) rfl) rfl
  clear_value typed
  obtain ⟨hversion, hspares⟩ := (typed.setCell c { typed.cell c with version := byteAt h 1 }).identityCheck_keeps c
  refine ⟨?_, ?_, ?_⟩
  · rw [(hspares _ rfl rfl).get, (typed.setCell_spares c _).get, hserial.get, Dev.get_put_lt _ ((beAt_lt h 2 6).trans (by decide))]
  · rw [(hspares _ rfl rfl).get, (typed.setCell_spares c _).get, hmaker.get, Dev.get_put_lt _ ((beAt_lt h 8 2).trans (by decide))]
  · rw [hversion, Dev.cell_setCell_same]

/-- It is a matter of its cell. -/
theorem Dev.takeIdentity_other (d : Dev) {c k : Nat} {h g : List Byte} (hk : k ≠ c) (hknows : d.knows k g) : (d.takeIdentity c h).knows k g := by
  unfold Dev.takeIdentity
  split
  · exact hknows
  extract_lets named typed
  have honly : Dev.OnlyAt c d typed := .put (.put (.put (.put (fun _ _ _ _ => rfl) rfl) rfl) rfl) rfl
  have hcells : typed.cells = d.cells := by
    rw [Dev.put_cells, Dev.put_cells, Dev.put_cells, Dev.put_cells]
  clear_value typed
  obtain ⟨hversion, hspares⟩ := (typed.setCell c { typed.cell c with version := byteAt h 1 }).identityCheck_keeps c
  unfold Dev.knows
  rw [(hspares _ rfl rfl).get, (hspares _ rfl rfl).get, (typed.setCell_spares c _).get, (typed.setCell_spares c _).get, honly.get rfl hk, honly.get rfl hk,
    hversion, Dev.cell_setCell_other _ _ _ _ hk, Dev.cell_of_cells hcells]
  exact hknows

/-- The pair that serves the rings is a matter of the power mode and of the pairs (R26). -/
theorem Dev.controlHalted_of_agree {cs : List Nat} {fs : List Fld} {d e : Dev} (h : d.Agree cs fs e) (hl : (cs.contains 0xB0 || fs.contains .sup) = false) :
    e.controlHalted = d.controlHalted := by
  simp only [Bool.or_eq_false_iff] at hl
  have hsup : e.sup = d.sup := h.2 .sup hl.2
  have hmode : e.get Par.pwrMode 0 = d.get Par.pwrMode 0 := h.get _ _ rfl hl.1
  simp only [Dev.controlHalted, Dev.pairHalted, Dev.pmode, Dev.clkOk, hsup, hmode]

/-- What a DISCOVER frame of the A end makes of a discovery (R104). -/
def Disc.discovered (x : Disc) (f : RxFrame) : Disc :=
  { x with hopA := some f.hop, long := x.long || decide (f.n < f.hop), ids := (List.range f.n).map (fun p => slice f.slots (32 * p + 16) 16) }

theorem Dev.rxDiscover_counts {d : Dev} {bs : List Byte} {lineOk : Bool} {x : Disc} (hfull : d.full = true) (hrole : d.get Par.spokeRole s ≠ srUnused)
    (hdisc : (d.spoke (d.ringOf s)).disc = some x) (hok : (parseFrame bs lineOk).ok = true) (htype : (parseFrame bs lineOk).type = 2)
    (hbeat : d.onBeat (parseFrame bs lineOk) = true) (hhalted : d.controlHalted = false) (hend : bit (parseFrame bs lineOk).flags 2 = false) :
    let f := parseFrame bs lineOk
    ((d.rxDiscover s bs lineOk).spoke (d.ringOf s)).disc = some (x.discovered f)
      ∧ ∀ p < min f.n (min f.hop 8), beAt (slice f.slots (32 * p + 16) 16) 14 2 = crc16 (slice (slice f.slots (32 * p + 16) 16) 0 14) →
        bit (byteAt (slice f.slots (32 * p + 16) 16) 0) 3 = true → (d.rxDiscover s bs lineOk).knows (8 * d.ringOf s + p) (slice f.slots (32 * p + 16) 16) := by
  intro f
  generalize hr : d.rxDiscover s bs lineOk = r
  have hgo : ¬ (!d.full ∨ d.get Par.spokeRole s = srUnused) := by simp [hfull, hrole]
  unfold Dev.rxDiscover at hr
  extract_lets a timed begun fromB n count half taken port at hr
  rw [if_neg hgo] at hr
  have hring := d.rxTiming_ring s s f
  have htimed : d.Agree [0x10, 0xC0] [.evt] timed := d.rxTiming_frame s f
  have hgo' : ¬ (!f.ok ∨ f.type ≠ 2 ∨ !(timed.onBeat f) ∨ timed.controlHalted) := by
    rw [show timed.onBeat f = d.onBeat f from hring.2.2.2, Dev.controlHalted_of_agree htimed rfl]
    simp [f, hok, htype, hbeat, hhalted]
  rw [if_neg hgo'] at hr
  have hdisc' : (timed.spoke a).disc = some x := by
    rw [Dev.spoke_of_spokes (show timed.spokes = d.spokes from htimed.2 .spokes rfl)]
    exact hdisc
  have hrole' : timed.get Par.spokeRole s = d.get Par.spokeRole s := hring.1
  have hbegun : begun = timed := by
    refine if_neg fun ⟨hdup, hnone, _⟩ => ?_
    have hself : a = s := by
      rw [hrole'] at hdup
      exact if_neg (by rw [hdup]; decide)
    rw [← hself, hdisc'] at hnone
    cases hnone
  clear_value timed
  have hcount : count = f.hop := if_neg (by rw [show fromB = false from hend]; decide)
  have htaken : taken.spokes = begun.spokes :=
    (Dev.Agree.forN (fun x i h => h.trans (x.takeIdentity_frame _ _)) .refl : begun.Agree [0x11, 0xC0] [.evt, .cells] taken).2 .spokes rfl
  have hknows (p : Nat) (hp : p < min f.n (min f.hop 8)) (hcrc : beAt (half p) 14 2 = crc16 (slice (half p) 0 14)) (hpresent : bit (byteAt (half p) 0) 3 = true) :
      taken.knows (8 * a + p) (half p) := by
    have hplace (i : Nat) : (if fromB = true then n - 1 - i else i) = i := if_neg (by rw [show fromB = false from hend]; decide)
    refine Dev.forN_brings (I := fun _ => True) (Q := fun e => e.knows (8 * a + p) (half p)) (n := p) ?_ (fun _ _ _ _ => trivial) (fun e _ => ?_)
      (fun e m _ hm _ hq => ?_) trivial
    · rw [hcount]
      exact hp
    · rw [hplace]
      exact e.takeIdentity_knows hcrc hpresent
    · rw [hplace]
      exact e.takeIdentity_other (by omega) hq
  clear_value taken
  split at hr
  next y hy =>
    have hxy : y = x := Option.some.inj (by rw [← hy, hbegun, hdisc'])
    subst hxy
    extract_lets found at hr
    have hfound : found = y.discovered f := by
      unfold found
      rw [if_neg (show ¬ fromB = true by rw [show fromB = false from hend]; decide), hcount]
      rfl
    rw [hfound] at hr
    subst hr
    refine ⟨by rw [Dev.spoke_setSpoke_same], fun p hp hcrc hpresent => ?_⟩
    obtain ⟨hserial, hmaker, hversion⟩ := hknows p hp hcrc hpresent
    exact ⟨((taken.setSpoke_spares a _).get _).trans hserial, ((taken.setSpoke_spares a _).get _).trans hmaker, hversion⟩
  next hy =>
    rw [hbegun, hdisc'] at hy
    cases hy

/-- The round trip of a RANGE frame is kept (R107). -/
theorem Dev.rxRange_keeps {d : Dev} {bs : List Byte} {lineOk : Bool} {x : Disc} (rt : Nat)
    (hdisc : (d.spoke (d.ringOf s)).disc = some x) (hok : (parseFrame bs lineOk).ok = true) (htype : (parseFrame bs lineOk).type = 3)
    (hbeat : d.onBeat (parseFrame bs lineOk) = true) (hhalted : d.controlHalted = false) :
    ((d.rxRange s bs lineOk rt).spoke (d.ringOf s)).disc =
      some (if d.bEnd s then { x with rtB := x.rtB ++ [((parseFrame bs lineOk).turn, rt)] } else { x with rtA := x.rtA ++ [((parseFrame bs lineOk).turn, rt)] }) := by
  have hring := d.rxTiming_ring s s (parseFrame bs lineOk)
  have htimed := d.rxTiming_frame s (parseFrame bs lineOk)
  have hgo : ((parseFrame bs lineOk).ok && (parseFrame bs lineOk).type == 3 && (d.rxTiming s (parseFrame bs lineOk)).onBeat (parseFrame bs lineOk)
      && !(d.rxTiming s (parseFrame bs lineOk)).controlHalted) = true := by
    rw [hring.2.2.2, Dev.controlHalted_of_agree htimed rfl]
    simp [hok, htype, hbeat, hhalted]
  have hb : (d.rxTiming s (parseFrame bs lineOk)).bEnd s = d.bEnd s := by rw [Dev.bEnd, hring.1, Dev.bEnd]
  unfold Dev.rxRange
  extract_lets f a timed port
  split
  next y hy =>
    have hxy : y = x := Option.some.inj (by rw [← hy, hdisc])
    subst hxy
    extract_lets found
    rw [if_pos hgo, Dev.spoke_setSpoke_same]
    show some found = _
    unfold found
    rw [hb]
  next hy =>
    rw [hdisc] at hy
    cases hy

/-- A halted pair moves no discovery (R26). -/
theorem Dev.discovery_stands {d : Dev} (hhalted : d.controlHalted = true) (bs : List Byte) (lineOk : Bool) (rt : Nat) :
    (d.rxDiscover s bs lineOk).spokes = d.spokes ∧ (d.rxDiscover s bs lineOk).cells = d.cells
      ∧ (d.rxRange s bs lineOk rt).spokes = d.spokes ∧ (d.rxRange s bs lineOk rt).cells = d.cells ∧ d.discComplete a = d := by
  have htimed := d.rxTiming_frame s (parseFrame bs lineOk)
  have hhalted' : (d.rxTiming s (parseFrame bs lineOk)).controlHalted = true := by rw [Dev.controlHalted_of_agree htimed rfl, hhalted]
  have hdiscover : d.rxDiscover s bs lineOk = d ∨ d.rxDiscover s bs lineOk = d.rxTiming s (parseFrame bs lineOk) := by
    unfold Dev.rxDiscover
    extract_lets f a timed
    split
    · exact .inl rfl
    · rw [if_pos (.inr (.inr (.inr hhalted')))]
      exact .inr rfl
  have hrange : d.rxRange s bs lineOk rt = d ∨ d.rxRange s bs lineOk rt = d.rxTiming s (parseFrame bs lineOk) := by
    unfold Dev.rxRange
    extract_lets f a timed port
    split
    · rw [if_neg (by rw [hhalted', Bool.not_true, Bool.and_false]; decide)]
      exact .inr rfl
    · exact .inl rfl
  have hcomplete : d.discComplete a = d := by
    unfold Dev.discComplete
    split
    · rfl
    · exact if_pos (.inr hhalted)
  refine ⟨?_, ?_, ?_, ?_, hcomplete⟩
  · rcases hdiscover with h | h <;> rw [h]
    exact htimed.2 .spokes rfl
  · rcases hdiscover with h | h <;> rw [h]
    exact htimed.2 .cells rfl
  · rcases hrange with h | h <;> rw [h]
    exact htimed.2 .spokes rfl
  · rcases hrange with h | h <;> rw [h]
    exact htimed.2 .cells rfl

/-! ## The end of a discovery -/

/-- What the end of a discovery makes of one cell (R104, R146): present or not, its settings to be sent. -/
def Dev.cellFound (d : Dev) (c : Nat) (isHere : Bool) : Dev :=
  let d := (d.put Par.cellPresent c (b2n isHere)).put Par.cellProtState c bpNone
  d.setCell c { d.cell c with cfg := if isHere then List.range 8 else [], cfgSent := [], cfgBad := 0, bypSent := false, bypN := 0, heard := false,
                              unblk := none, uvTimes := [], leftBlock := none, clearLock := none }

/-- Cell `c` is present, with its settings to be sent, or absent. -/
def Dev.placed (d : Dev) (c : Nat) (isHere : Bool) : Prop := d.get Par.cellPresent c = b2n isHere ∧ (d.cell c).cfg = if isHere then List.range 8 else []

theorem Dev.cellFound_places (d : Dev) (c : Nat) (isHere : Bool) : (d.cellFound c isHere).placed c isHere := by
  unfold Dev.cellFound
  extract_lets shown
  have hpresent : Dev.Spares Par.cellPresent (d.put Par.cellPresent c (b2n isHere)) shown := .put (.refl _) rfl
  clear_value shown
  refine ⟨?_, by rw [Dev.cell_setCell_same]⟩
  rw [(shown.setCell_spares c _).get, hpresent.get, Dev.get_put_lt _ (by cases isHere <;> decide)]

theorem Dev.cellFound_other (d : Dev) {c k : Nat} {isHere b : Bool} (hk : k ≠ c) (h : d.placed k b) : (d.cellFound c isHere).placed k b := by
  unfold Dev.cellFound
  extract_lets shown
  have honly : Dev.OnlyAt c d shown := .put (.put (fun _ _ _ _ => rfl) rfl) rfl
  have hcells : shown.cells = d.cells := by rw [Dev.put_cells, Dev.put_cells]
  clear_value shown
  refine ⟨?_, ?_⟩
  · rw [(shown.setCell_spares c _).get, honly.get rfl hk, h.1]
  · rw [Dev.cell_setCell_other _ _ _ _ hk, Dev.cell_of_cells hcells, h.2]

theorem Dev.cellFound_frame (d : Dev) (c : Nat) (isHere : Bool) : d.Agree [0x11] [.cells] (d.cellFound c isHere) :=
  .upd_cells rfl (.put rfl rfl (.put rfl rfl .refl))

/-- The first steps at the end of a discovery of the ring at `a` (Table 4.11): it is over, its cells are counted, present or absent. -/
def Dev.discEnded (d : Dev) (a : Nat) (found : Nat) (reach : Nat → Bool) : Dev :=
  let n := d.ringCells a
  let d := (d.setSpoke a { d.spoke a with disc := none, far := false, ret := false }).put Par.spokeDiscover a 0
  let d := d.put Par.spokeCellsFound a found
  d.forN 8 (fun d p => d.cellFound (8 * a + p) (decide (p < n) && reach p))

theorem Dev.discEnded_ends (d : Dev) (a found : Nat) (reach : Nat → Bool) :
    ((d.discEnded a found reach).spoke a).disc = none ∧ (d.discEnded a found reach).get Par.spokeDiscover a = 0
      ∧ (d.discEnded a found reach).get Par.spokeRole a = d.get Par.spokeRole a
      ∧ ∀ p < 8, (d.discEnded a found reach).placed (8 * a + p) (decide (p < d.ringCells a) && reach p) := by
  unfold Dev.discEnded
  extract_lets n port ended counted
  have hcells : counted.Agree [0x11] [.cells] (counted.forN 8 fun d p => d.cellFound (8 * a + p) (decide (p < n) && reach p)) :=
    .forN (fun x p h => h.trans (x.cellFound_frame _ _)) .refl
  have hdiscover : counted.get Par.spokeDiscover a = 0 := (Dev.get_put_apart _ _ _ _ rfl).trans (Dev.get_put_lt _ (by decide))
  have hrole : counted.get Par.spokeRole a = d.get Par.spokeRole a :=
    (Dev.get_put_apart _ _ _ _ rfl).trans ((Dev.get_put_apart _ _ _ _ rfl).trans ((d.setSpoke_spares a _).get a))
  have hdisc : (counted.spoke a).disc = none := by
    rw [Dev.spoke_of_spokes ((Dev.put_spokes _ _ _ _).trans (Dev.put_spokes _ _ _ _)), Dev.spoke_setSpoke_same]
  clear_value counted
  refine ⟨by rw [Dev.spoke_of_spokes (hcells.2 .spokes rfl), hdisc], by rw [hcells.get _ _ rfl rfl, hdiscover], by rw [hcells.get _ _ rfl rfl, hrole], fun p hp => ?_⟩
  exact Dev.forN_brings (I := fun _ => True) (Q := fun e => e.placed (8 * a + p) (decide (p < n) && reach p)) hp (fun _ _ _ _ => trivial)
    (fun e _ => e.cellFound_places _ _) (fun e m _ hm _ hq => e.cellFound_other (by omega) hq) trivial

/-- Delays and the count of bypassed cells leave presence and the ports (R107, R150). -/
theorem Dev.storeRange_present (d : Dev) (a : Nat) (x : Disc) : Dev.Spares Par.cellPresent d (d.storeRange a x) := by
  unfold Dev.storeRange
  extract_lets n stored far
  have hstored : Dev.Spares Par.cellPresent d stored := .forN (fun x p => .put (.put (.refl x) rfl) rfl) n d
  exact .ite (.frame hstored (stored.raise_frame _ _ _ _) rfl rfl) hstored

theorem Dev.ringState_shows (d : Dev) {a st : Nat} (hst : st < 2 ^ 64) : (d.ringState a st).get Par.spokeState a = st ∧ ∀ p : Par, Par.apart p Par.spokeState = true →
    Dev.Spares p d (d.ringState a st) := by
  unfold Dev.ringState
  extract_lets set
  refine ⟨?_, fun p hp => .ite (.put (.put (.refl d) hp) hp) (.put (.refl d) hp)⟩
  have hset : set.get Par.spokeState a = st := Dev.get_put_lt _ hst
  split
  next h =>
    by_cases hfar : a = set.get Par.spokeFarSpoke a
    · rw [← hfar, Dev.get_put_lt _ hst]
    · rw [Dev.get_put_inst _ _ rfl hfar, hset]
  · exact hset

/-- A discovery that is through (R104 to R107): its cells, then the state of its ring (log entry 69). -/
theorem Dev.discComplete_ends {d : Dev} {x : Disc} (hdisc : (d.spoke a).disc = some x) (hspan : x.span (d.ringCells a) ≤ x.beats) (hhalted : d.controlHalted = false)
    (hA : x.retA = none) (hB : x.retB = none) (hhop : x.hopB = none) (hlong : x.long = false) :
    ∃ e f : Dev, (∃ found, e = d.discEnded a found (fun p => decide (p < x.hopA.getD 0))) ∧ e.Agree [0x11, 0x12, 0xC0] [.evt] f ∧ Dev.Spares Par.cellPresent e f
      ∧ (min (d.ringCells a) (x.hopA.getD 0) = 0 → d.discComplete a = f.ringState a rsFault)
      ∧ (min (d.ringCells a) (x.hopA.getD 0) ≠ 0 → d.get Par.spokeRole a = srSingleA → d.discComplete a = f.ringState a rsRun)
      ∧ ∃ g : Dev, ∃ st, g = f.ringState a st ∧ g.Agree [0xC0] [.evt] (d.discComplete a) := by
  generalize hr : d.discComplete a = r
  unfold Dev.discComplete at hr
  split at hr
  next hnone =>
    rw [hdisc] at hnone
    cases hnone
  next y hy =>
    have hxy : y = x := Option.some.inj (by rw [← hy, hdisc])
    subst hxy
    extract_lets n port ended reach found cnt counted placed tallied stored duplex split at hr
    have hgo : ¬ (y.beats < y.span n ∨ d.controlHalted) := by
      rw [hhalted]
      exact fun h => h.elim (fun h => absurd h (Nat.not_lt.mpr hspan)) (by decide)
    rw [if_neg hgo] at hr
    have hreach : reach = fun p => decide (p < y.hopA.getD 0) := by
      funext p
      unfold reach
      rw [hA, hB, hhop]
      cases y.hopA <;> simp
    have hfound : found = [] ↔ min (d.ringCells a) (y.hopA.getD 0) = 0 := by
      unfold found
      rw [hreach, List.filter_eq_nil_iff]
      simp only [List.mem_range, decide_eq_true_eq, Nat.not_lt]
      refine ⟨fun h => ?_, fun h p hp => ?_⟩
      · by_contra hne
        have hfirst := h 0 (show 0 < d.ringCells a by omega)
        omega
      · have hp' : p < d.ringCells a := hp
        omega
    have hplaced : placed = d.discEnded a (min 15 cnt) (fun p => decide (p < y.hopA.getD 0)) := by
      rw [← hreach]
      rfl
    have htallied : placed.Agree [0x12] [] tallied ∧ Dev.Spares Par.cellPresent placed tallied := by
      unfold tallied
      split
      · exact ⟨placed.countBypassed_frame _, .put (.refl placed) rfl⟩
      · exact ⟨.refl, .refl placed⟩
    have hstored : placed.Agree [0x11, 0x12, 0xC0] [.evt] stored ∧ Dev.Spares Par.cellPresent placed stored :=
      ⟨(htallied.1.mono rfl rfl).trans ((tallied.storeRange_frame a y).mono rfl rfl), htallied.2.trans (tallied.storeRange_present a y)⟩
    have hrole : stored.get Par.spokeRole a = d.get Par.spokeRole a := by
      rw [hstored.1.get _ _ rfl rfl, hplaced]
      exact (d.discEnded_ends a _ _).2.2.1
    rw [if_neg (by rw [hlong]; decide)] at hr
    refine ⟨placed, stored, ⟨_, hplaced⟩, hstored.1, hstored.2, fun hnone => ?_, fun hsome hsingle => ?_, ?_⟩
    · rw [if_pos (by rw [hfound.mpr hnone]; rfl)] at hr
      exact hr.symm
    · have hduplex : duplex = false := by
        unfold duplex
        rw [hrole, hsingle]
        rfl
      have hsplit : split = false := by
        unfold split
        rw [hA, hB, hduplex]
        rfl
      have hempty : ¬ found.isEmpty = true := by
        rw [List.isEmpty_iff, hfound]
        exact hsome
      rw [if_neg hempty, if_neg (by rw [hsplit]; decide)] at hr
      exact hr.symm
    · clear_value stored
      subst hr
      split
      · exact ⟨_, rsFault, rfl, .refl⟩
      · split
        · exact ⟨_, rsSplit, rfl, Dev.raise_frame _ _ _ _ _⟩
        · exact ⟨_, rsRun, rfl, .refl⟩

/-- So its ring is over, its cells are placed, and its state is shown. -/
theorem Dev.discComplete_places {d : Dev} {x : Disc} (hdisc : (d.spoke a).disc = some x) (hspan : x.span (d.ringCells a) ≤ x.beats) (hhalted : d.controlHalted = false)
    (hA : x.retA = none) (hB : x.retB = none) (hhop : x.hopB = none) (hlong : x.long = false) :
    ((d.discComplete a).spoke a).disc = none ∧ (d.discComplete a).get Par.spokeDiscover a = 0
      ∧ (∀ p < 8, (d.discComplete a).placed (8 * a + p) (decide (p < d.ringCells a) && decide (p < x.hopA.getD 0)))
      ∧ (min (d.ringCells a) (x.hopA.getD 0) = 0 → (d.discComplete a).get Par.spokeState a = rsFault)
      ∧ (min (d.ringCells a) (x.hopA.getD 0) ≠ 0 → d.get Par.spokeRole a = srSingleA → (d.discComplete a).get Par.spokeState a = rsRun) := by
  obtain ⟨e, f, ⟨found, he⟩, hframe, hpresent, hfault, hrun, g, st, hg, hend⟩ := Dev.discComplete_ends hdisc hspan hhalted hA hB hhop hlong
  obtain ⟨hover, hdiscover, -, hplaced⟩ := d.discEnded_ends a found (fun p => decide (p < x.hopA.getD 0))
  rw [← he] at hover hdiscover hplaced
  have hring : f.Agree [0x10] [] g := hg ▸ f.ringState_frame a st
  have hspares : ∀ p : Par, Par.apart p Par.spokeState = true → Dev.Spares p f g := by
    intro p hp
    rw [hg]
    unfold Dev.ringState
    extract_lets set
    exact .ite (.put (.put (.refl f) hp) hp) (.put (.refl f) hp)
  refine ⟨?_, ?_, fun p hp => ⟨?_, ?_⟩, fun hnone => ?_, fun hsome hsingle => ?_⟩
  · rw [Dev.spoke_of_spokes (hend.2 .spokes rfl), Dev.spoke_of_spokes (hring.2 .spokes rfl), Dev.spoke_of_spokes (hframe.2 .spokes rfl), hover]
  · rw [hend.get _ _ rfl rfl, (hspares _ rfl).get, hframe.get _ _ rfl rfl, hdiscover]
  · rw [hend.get _ _ rfl rfl, (hspares _ rfl).get, hpresent.get, (hplaced p hp).1]
  · rw [Dev.cell_of_cells (hend.2 .cells rfl), Dev.cell_of_cells (hring.2 .cells rfl), Dev.cell_of_cells (hframe.2 .cells rfl), (hplaced p hp).2]
  · rw [hfault hnone]
    exact (f.ringState_shows (by decide)).1
  · rw [hrun hsome hsingle]
    exact (f.ringState_shows (by decide)).1

/-! ## Counts that are reached -/

theorem Dev.spokeSplit_acts {d : Dev} (hup : d.phase = .run) (hmiss : 2 ≤ (d.spoke s).missRun)
    (hcell : ∃ p < 8, d.isOn Par.cellPresent (8 * d.ringOf s + p) = true) (hrun : d.get Par.spokeState s = rsRun) :
    (d.spokeSplit s).get Par.spokeState s = rsSplit ∧ (d.spokeSplit s).isOn Par.evtFlag evSpokeSplit = true
      ∧ ∀ k, k ≠ s → (d.spokeSplit s).get Par.spokeState k = d.get Par.spokeState k := by
  obtain ⟨p, hp, hpresent⟩ := hcell
  have hany : (List.range 8).any (fun p => d.isOn Par.cellPresent (8 * d.ringOf s + p)) = true :=
    List.any_eq_true.mpr ⟨p, List.mem_range.mpr hp, hpresent⟩
  have hend : d.spokeSplit s = d.enterSplit s := if_pos ⟨hmiss, hany⟩
  rw [hend]
  obtain ⟨hstate, hflag⟩ := Dev.enterSplit_splits hrun hup
  refine ⟨hstate, hflag, fun k hk => ?_⟩
  rw [Dev.enterSplit, if_pos hrun, (Dev.raise_frame _ _ _ _ _).get _ _ rfl rfl, Dev.get_put_inst _ _ rfl hk, (d.setSpoke_spares s _).get]

theorem Dev.spokeRejoin_acts {d : Dev} (hup : d.phase = .run) (hgood : 16 ≤ (d.spoke s).goodRun) (hsplit : d.get Par.spokeState s = rsSplit) :
    (d.spokeRejoin s).get Par.spokeState s = rsRun ∧ (d.spokeRejoin s).get Par.spokeTurnA s = 0xFF ∧ (d.spokeRejoin s).get Par.spokeTurnB s = 0xFF
      ∧ (d.spokeRejoin s).isOn Par.evtFlag evSpokeRejoined = true := by
  have hend : d.spokeRejoin s = _ := if_pos ⟨hsplit, hgood⟩
  have hraised := Dev.raise_frame (((d.put Par.spokeState s rsRun).put Par.spokeTurnA s 0xFF).put Par.spokeTurnB s 0xFF) evSpokeRejoined (oid 0x10 s) 0 false
  rw [hend, hraised.get _ _ rfl rfl, hraised.get _ _ rfl rfl, hraised.get _ _ rfl rfl]
  refine ⟨?_, ?_, Dev.get_put_lt _ (by decide), Dev.isOn_raise _ _ _ _ (Dev.evtUp_of_run ?_)⟩
  · rw [Dev.get_put_apart _ _ _ _ rfl, Dev.get_put_apart _ _ _ _ rfl, Dev.get_put_lt _ (by decide)]
  · rw [Dev.get_put_apart _ _ _ _ rfl, Dev.get_put_lt _ (by decide)]
  · rw [Dev.put_phase, Dev.put_phase, Dev.put_phase, hup]

/-- A cell chosen for bypass is pending from the next beat (R149, R150). -/
theorem Dev.selectBypass_pends {d : Dev} (hnone : d.get Par.cellProtState c = bpNone) : (d.selectBypass c).get Par.cellProtState c = bpPending
    ∧ ((d.selectBypass c).cell c).bypFrom = d.beatNo + 1 := by
  generalize hr : d.selectBypass c = r
  have hgo : ¬ d.get Par.cellProtState c ≠ bpNone := fun h => h hnone
  unfold Dev.selectBypass at hr
  rw [if_neg hgo] at hr
  extract_lets chosen cell marked at hr
  have hbeat : chosen.beatNo = d.beatNo := Dev.get_put_apart _ _ _ _ rfl
  have hchosen : chosen.get Par.cellProtState c = bpPending := Dev.get_put_lt _ (by decide)
  clear_value chosen
  have hmarked : marked.get Par.cellProtState c = bpPending ∧ (marked.cell c).bypFrom = chosen.beatNo + 1 :=
    ⟨((chosen.setCell_spares c _).get c).trans hchosen, by rw [Dev.cell_setCell_same]⟩
  clear_value marked
  rw [hbeat] at hmarked
  split at hr
  · subst hr
    exact ⟨(Dev.get_put_apart _ _ _ _ rfl).trans hmarked.1, by rw [Dev.cell_of_cells (Dev.inc_cells _ _ _ _ _)]; exact hmarked.2⟩
  · subst hr
    exact hmarked

/-- The choice is a matter of its cell, for which no UNBLOCK is due after it. -/
theorem Dev.selectBypass_cells (d : Dev) (c : Nat) : (∀ k, k ≠ c → (d.selectBypass c).cell k = d.cell k)
    ∧ ((d.cell c).unblk = none → ((d.selectBypass c).cell c).unblk = none) := by
  unfold Dev.selectBypass
  split
  · exact ⟨fun _ _ => rfl, id⟩
  extract_lets chosen cell marked
  have hother (k : Nat) (hk : k ≠ c) : marked.cell k = d.cell k :=
    (Dev.cell_setCell_other _ _ _ _ hk).trans (Dev.cell_of_cells (Dev.put_cells _ _ _ _) k)
  have hunblk : (marked.cell c).unblk = none := by rw [Dev.cell_setCell_same]
  clear_value marked
  split
  · exact ⟨fun k hk => (Dev.cell_of_cells (Dev.inc_cells _ _ _ _ _) k).trans (hother k hk), fun _ => by rw [Dev.cell_of_cells (Dev.inc_cells _ _ _ _ _), hunblk]⟩
  · exact ⟨hother, fun _ => hunblk⟩

theorem Dev.selectBypass_lost (d : Dev) (c : Nat) : Dev.Spares Par.cellLost d (d.selectBypass c) := by
  unfold Dev.selectBypass
  extract_lets chosen cell marked
  have hmarked : Dev.Spares Par.cellLost d marked := .trans (.put (.refl d) rfl) (chosen.setCell_spares c _)
  refine .ite (.refl d) ?_
  clear_value marked
  split
  · exact .put hmarked rfl
  · exact hmarked

theorem Dev.cellLost_acts {d : Dev} (hup : d.phase = .run) (hpresent : d.isOn Par.cellPresent c = true) (hstale : 4 ≤ d.get Par.cellStale c)
    (hlost : d.get Par.cellLost c = 0) :
    (d.cellLost c).get Par.cellLost c = 1 ∧ ((d.cellLost c).cell c).unblk = none ∧ (d.cellLost c).isOn Par.evtFlag evCellLost = true
      ∧ (d.inRunArm c = true → d.get Par.cellProtState c = bpNone →
          (d.cellLost c).get Par.cellProtState c = bpPending ∧ ((d.cellLost c).cell c).bypFrom = d.beatNo + 1)
      ∧ ∀ k, k ≠ c → (d.cellLost c).cell k = d.cell k ∧ (d.cellLost c).get Par.cellLost k = d.get Par.cellLost k := by
  generalize hr : d.cellLost c = r
  unfold Dev.cellLost at hr
  rw [if_pos ⟨hpresent, hstale, hlost⟩] at hr
  extract_lets run told cell marked at hr
  have htold : (d.put Par.cellLost c 1).Agree [0xC0] [.evt] told := Dev.raise_frame _ _ _ _ _
  have hflag : told.isOn Par.evtFlag evCellLost = true := Dev.isOn_raise _ _ _ _ (Dev.evtUp_of_run ((Dev.put_phase _ _ _ _).trans hup))
  have hcells : told.cells = d.cells := (htold.2 .cells rfl).trans (Dev.put_cells _ _ _ _)
  have hprot : told.get Par.cellProtState c = d.get Par.cellProtState c := (htold.get _ _ rfl rfl).trans (Dev.get_put_apart _ _ _ _ rfl)
  have hbeat : told.beatNo = d.beatNo := (htold.get _ _ rfl rfl).trans (Dev.get_put_apart _ _ _ _ rfl)
  have hown : told.get Par.cellLost c = 1 := (htold.get _ _ rfl rfl).trans (Dev.get_put_lt _ (by decide))
  have hother (k : Nat) (hk : k ≠ c) : told.get Par.cellLost k = d.get Par.cellLost k := (htold.get _ _ rfl rfl).trans (Dev.get_put_inst _ _ rfl hk)
  clear_value told
  have hset (p : Par) : Dev.Spares p told marked := told.setCell_spares c _
  have hunblk : (marked.cell c).unblk = none := by rw [Dev.cell_setCell_same]
  have hkept (k : Nat) (hk : k ≠ c) : marked.cell k = d.cell k := (Dev.cell_setCell_other _ _ _ _ hk).trans (Dev.cell_of_cells hcells k)
  have hmarked : told.TelemKept marked := .setCell (.refl told) rfl
  clear_value marked
  have hbeat' : marked.beatNo = d.beatNo := ((hset _).get 0).trans hbeat
  have hbypass := marked.selectBypass_keepsTelem c
  by_cases hrun : run = true
  · rw [if_pos hrun] at hr
    subst hr
    obtain ⟨hcellsOther, hcellUnblk⟩ := marked.selectBypass_cells c
    refine ⟨?_, hcellUnblk hunblk, hbypass.flags _ (hmarked.flags _ hflag), fun _ hnone => ?_, fun k hk => ⟨(hcellsOther k hk).trans (hkept k hk), ?_⟩⟩
    · rw [(marked.selectBypass_lost c).get, (hset _).get, hown]
    · rw [← hbeat']
      exact Dev.selectBypass_pends (by rw [(hset _).get, hprot, hnone])
    · rw [(marked.selectBypass_lost c).get, (hset _).get, hother k hk]
  · rw [if_neg hrun] at hr
    subst hr
    exact ⟨by rw [(hset _).get, hown], hunblk, hmarked.flags _ hflag, fun h => absurd h hrun, fun k hk => ⟨hkept k hk, by rw [(hset _).get, hother k hk]⟩⟩

theorem Dev.unblockFail_acts {d : Dev} {n : Nat} (hup : d.phase = .run) (hunblk : (d.cell c).unblk = some n) (hn : 64 < n) :
    (d.unblockFail c).cell c = { d.cell c with unblk := none } ∧ (d.unblockFail c).isOn Par.evtFlag evCellUnblockFail = true
      ∧ ∀ k, k ≠ c → (d.unblockFail c).cell k = d.cell k := by
  have hend : d.unblockFail c = (d.setCell c { d.cell c with unblk := none }).raise evCellUnblockFail (oid 0x11 c) := by
    rw [Dev.unblockFail, hunblk]
    exact if_pos hn
  rw [hend]
  refine ⟨?_, Dev.isOn_raise _ _ _ _ (Dev.evtUp_of_run ((Dev.setCell_phase _ _ _).trans hup)), fun k hk => ?_⟩
  · rw [Dev.cell_of_cells (Dev.raise_cells _ _ _ _ _), Dev.cell_setCell_same]
  · rw [Dev.cell_of_cells (Dev.raise_cells _ _ _ _ _), Dev.cell_setCell_other _ _ _ _ hk]

/-- An arm blocks (R151): its first cause is kept, and a converter trip is asked for. -/
theorem Dev.armBlock_blocks (d : Dev) {j cause : Nat} (cells : Nat) (hcause : cause < 2 ^ 64) : (d.armBlock j cause cells).get Par.armState j = asBlocked
    ∧ (d.get Par.armState j ≠ asBlocked → (d.armBlock j cause cells).get Par.armFaultCause j = cause ∧ (d.armBlock j cause cells).mode.tripReq = true) := by
  generalize hr : d.armBlock j cause cells = r
  unfold Dev.armBlock at hr
  extract_lets counted arm carried blocked listed mode asked raised at hr
  have hcounted : counted.get Par.armState j = d.get Par.armState j := Dev.get_put_apart _ _ _ _ rfl
  clear_value counted
  by_cases hstate : counted.get Par.armState j = asBlocked
  · rw [if_pos hstate] at hr
    subst hr
    exact ⟨hstate, fun h => absurd (by rw [← hcounted, hstate]) h⟩
  · rw [if_neg hstate] at hr
    have hblocked : listed.get Par.armState j = asBlocked := by
      rw [Dev.get_put_apart _ _ _ _ rfl, Dev.get_put_apart _ _ _ _ rfl, Dev.get_put_apart _ _ _ _ rfl, Dev.get_put_lt _ (by decide)]
    have hcaused : listed.get Par.armFaultCause j = cause := by
      rw [Dev.get_put_apart _ _ _ _ rfl, Dev.get_put_apart _ _ _ _ rfl, Dev.get_put_lt _ hcause]
    clear_value listed
    have hasked : asked.mode.tripReq = true ∧ ∀ p, Dev.Spares p listed asked := ⟨rfl, fun _ _ => rfl⟩
    clear_value asked
    have hraised : asked.Agree [0xC0] [.evt, .weave] r := by
      rw [← hr]
      exact .ite (fun _ => ((Dev.raise_frame _ _ _ _ _).mono rfl rfl).trans ((raised.weavePut_frame _ _ _ _).mono rfl rfl)) (fun _ => (Dev.raise_frame _ _ _ _ _).mono rfl rfl)
    rw [hraised.get _ _ rfl rfl, hraised.get _ _ rfl rfl, (hasked.2 _).get, (hasked.2 _).get, hraised.2 .mode rfl]
    exact ⟨hblocked, fun _ => ⟨hcaused, hasked.1⟩⟩

theorem Dev.bypassFail_acts {d : Dev} (hup : d.phase = .run) (hpending : d.get Par.cellProtState c = bpPending) (hn : 8 ≤ (d.cell c).bypN)
    (hlost : d.get Par.cellLost c = 0) :
    (d.bypassFail c).get Par.cellProtState c = bpFailed ∧ (d.bypassFail c).isOn Par.evtFlag evCellBypassFail = true
      ∧ ∀ j, d.armOf c = some j → (d.bypassFail c).get Par.armState j = asBlocked
          ∧ (d.get Par.armState j ≠ asBlocked → (d.bypassFail c).get Par.armFaultCause j = afBypassFail ∧ (d.bypassFail c).mode.tripReq = true) := by
  generalize hr : d.bypassFail c = r
  unfold Dev.bypassFail at hr
  rw [if_pos ⟨hpending, hn, hlost⟩] at hr
  extract_lets failed at hr
  have hraised : (d.put Par.cellProtState c bpFailed).Agree [0xC0] [.evt] failed := Dev.raise_frame _ _ _ _ _
  have hflag : failed.isOn Par.evtFlag evCellBypassFail = true := Dev.isOn_raise _ _ _ _ (Dev.evtUp_of_run ((Dev.put_phase _ _ _ _).trans hup))
  have hprot : failed.get Par.cellProtState c = bpFailed := (hraised.get _ _ rfl rfl).trans (Dev.get_put_lt _ (by decide))
  have hset (j : Nat) : failed.get Par.armSpokeSet j = d.get Par.armSpokeSet j := (hraised.get _ _ rfl rfl).trans (Dev.get_put_apart _ _ _ _ rfl)
  have hstate (j : Nat) : failed.get Par.armState j = d.get Par.armState j := (hraised.get _ _ rfl rfl).trans (Dev.get_put_apart _ _ _ _ rfl)
  clear_value failed
  have harm : failed.armOf c = d.armOf c := by simp only [Dev.armOf, hset]
  rw [harm] at hr
  split at hr
  next j hj =>
    subst hr
    have hblocks := failed.armBlock_blocks (j := j) (cause := afBypassFail) (faultCells c 0xFFFF) (by decide)
    have hframe := failed.armBlock_frame j afBypassFail (faultCells c 0xFFFF)
    refine ⟨by rw [hframe.get _ _ rfl rfl, hprot], failed.armBlock_keepsFlags _ _ _ _ hflag, fun k hk => ?_⟩
    have hjk : j = k := Option.some.inj (hj.symm.trans hk)
    subst hjk
    rw [← hstate]
    exact hblocks
  next hj =>
    subst hr
    refine ⟨hprot, hflag, fun k hk => ?_⟩
    rw [hj] at hk
    cases hk

end Sys2Proof.Machine
open Sys2Proof Sys2Proof.Machine

/-- Settles O29: a frame of a discovery is kept while the pair serves it, its end places the cells, and each count acts when it is reached. -/
theorem discoveries : Obligations.Discoveries := by
  unfold Obligations.Discoveries
  refine ⟨⟨fun t s' bs lineOk x s hfull hclk hrole hdisc => ?_, fun t rt s' bs lineOk x s hfull hclk hdisc => ?_, fun t rt s' bs lineOk s hfull hclk hhalted => ?_,
    fun t s' x s hfull hclk => ?_⟩, fun t s' s hfull hclk hmiss hcell hrun => ?_, fun t s' s hfull hclk hgood hsplit => ?_,
    fun t c s hfull hclk hpresent hstale hlost => ?_, fun t n c s hfull hclk hunblk hn => ?_, fun t c s hfull hclk hpending hn hlost => ?_⟩
  · intro f a hok htype hbeat hhalted hend
    refine .of_whenOn hfull hclk rfl fun e he => ?_
    obtain ⟨hcount, hknows⟩ := Dev.rxDiscover_counts (d := s.dev.atTime t) (s := s'.val) (bs := bs) (lineOk := lineOk) hfull hrole hdisc hok htype hbeat hhalted hend
    rw [he] at hcount hknows
    rw [Dev.spoke_of_spokes (Dev.settle_spokes _ _)]
    refine ⟨hcount, fun p hp => ?_⟩
    intro h hcrc hpresent
    rw [Dev.settle_get _ _ _ rfl, Dev.settle_get _ _ _ rfl, Dev.cell_of_cells (Dev.settle_cells _ _)]
    exact hknows p hp hcrc hpresent
  · intro f hok htype hbeat hhalted
    refine .of_whenOn hfull hclk rfl fun e he => ?_
    have hkeeps := Dev.rxRange_keeps (d := s.dev.atTime t) (s := s'.val) (bs := bs) (lineOk := lineOk) rt hdisc hok htype hbeat hhalted
    rw [he] at hkeeps
    rw [Dev.spoke_of_spokes (Dev.settle_spokes _ _)]
    exact hkeeps
  · obtain ⟨hdspokes, hdcells, hrspokes, hrcells, hcomplete⟩ :=
      Dev.discovery_stands (d := s.dev.atTime t) (s := s'.val) (a := (s.dev.atTime t).ringOf s'.val) hhalted bs lineOk rt
    refine ⟨.of_whenOn hfull hclk rfl fun e he => ?_, .of_whenOn hfull hclk rfl fun e he => ?_, .of_whenOn hfull hclk rfl fun e he => ?_⟩
    · rw [Dev.settle_spokes, Dev.settle_cells, ← he]
      exact ⟨hdspokes, hdcells⟩
    · rw [Dev.settle_spokes, Dev.settle_cells, ← he]
      exact ⟨hrspokes, hrcells⟩
    · rw [Dev.settle_spokes, Dev.settle_cells, ← he]
      have hspokes := congrArg Dev.spokes hcomplete
      have hcells := congrArg Dev.cells hcomplete
      exact ⟨hspokes, hcells⟩
  · intro a hdisc _ _ hA hB hhop hlong hspan hhalted
    refine .of_whenOn hfull hclk rfl fun e he => ?_
    obtain ⟨hover, hdiscover, hplaced, hfault, hrun⟩ := Dev.discComplete_places (d := s.dev.atTime t) (a := a) hdisc hspan hhalted hA hB hhop hlong
    have he' : (s.dev.atTime t).discComplete a = e := he
    rw [he'] at hover hdiscover hplaced hfault hrun
    rw [Dev.spoke_of_spokes (Dev.settle_spokes _ _), Dev.settle_get _ _ _ rfl, Dev.settle_get _ _ _ rfl]
    refine ⟨hover, hdiscover, fun p hp => ?_, fun p hp hpresent => ?_, hfault, hrun⟩
    · rw [Dev.settle_get _ _ _ rfl]
      exact (hplaced p hp).1
    · rw [Dev.settle_get _ _ _ rfl, (hplaced p hp).1] at hpresent
      rw [Dev.cell_of_cells (Dev.settle_cells _ _), (hplaced p hp).2]
      split
      · rfl
      next hnot =>
        rw [Bool.not_eq_true] at hnot
        rw [hnot] at hpresent
        cases hpresent
  · refine .of_whenOn hfull hclk rfl fun e he => ?_
    obtain ⟨hstate, hflag, hother⟩ := Dev.spokeSplit_acts (d := s.dev.atTime t) (s := s'.val) (Dev.run_of_full hfull) hmiss hcell hrun
    rw [he] at hstate hflag hother
    rw [Dev.settle_get _ _ _ rfl]
    refine ⟨hstate, Dev.settle_keepsFlags _ _ _ hflag, fun k _ hk => ?_⟩
    rw [Dev.settle_get _ _ _ rfl]
    exact hother k hk
  · refine .of_whenOn hfull hclk rfl fun e he => ?_
    obtain ⟨hstate, hA, hB, hflag⟩ := Dev.spokeRejoin_acts (d := s.dev.atTime t) (s := s'.val) (Dev.run_of_full hfull) hgood hsplit
    rw [he] at hstate hA hB hflag
    rw [Dev.settle_get _ _ _ rfl, Dev.settle_get _ _ _ rfl, Dev.settle_get _ _ _ rfl]
    exact ⟨hstate, hA, hB, Dev.settle_keepsFlags _ _ _ hflag⟩
  · refine .of_whenOn hfull hclk rfl fun e he => ?_
    obtain ⟨hgone, hunblk, hflag, hbypass, hother⟩ := Dev.cellLost_acts (d := s.dev.atTime t) (c := c.val) (Dev.run_of_full hfull) hpresent hstale hlost
    rw [he] at hgone hunblk hflag hbypass hother
    rw [Dev.settle_get _ _ _ rfl, Dev.settle_get _ _ _ rfl, Dev.cell_of_cells (Dev.settle_cells _ _)]
    refine ⟨hgone, hunblk, Dev.settle_keepsFlags _ _ _ hflag, hbypass, fun k _ hk => ?_⟩
    rw [Dev.settle_get _ _ _ rfl, Dev.cell_of_cells (Dev.settle_cells _ _)]
    exact hother k hk
  · refine .of_whenOn hfull hclk rfl fun e he => ?_
    obtain ⟨hcell, hflag, hother⟩ := Dev.unblockFail_acts (d := s.dev.atTime t) (c := c.val) (Dev.run_of_full hfull) hunblk hn
    rw [he] at hcell hflag hother
    rw [Dev.cell_of_cells (Dev.settle_cells _ _)]
    refine ⟨hcell, Dev.settle_keepsFlags _ _ _ hflag, fun k _ hk => ?_⟩
    rw [Dev.cell_of_cells (Dev.settle_cells _ _)]
    exact hother k hk
  · refine .of_whenOn hfull hclk rfl fun e he => ?_
    obtain ⟨hprot, hflag, harm⟩ := Dev.bypassFail_acts (d := s.dev.atTime t) (c := c.val) (Dev.run_of_full hfull) hpending hn hlost
    rw [he] at hprot hflag harm
    rw [Dev.settle_get _ _ _ rfl, Dev.settle_mode]
    refine ⟨hprot, Dev.settle_keepsFlags _ _ _ hflag, fun j hj => ?_⟩
    rw [Dev.settle_get _ _ _ rfl, Dev.settle_get _ _ _ rfl]
    exact harm j hj

end

section
/-! SUPPORT. What the end of a command does to the weave: messages leave, and nothing else of it moves (R314, R319, R351); and the receipt of a
message (R349, R351). -/

namespace Sys2Proof.Machine

/-- The state of the weave without the messages that leave and without the routes. -/
def WeaveSt.unsent (w : WeaveSt) : WeaveSt := { w with seqs := [], out := [], routes := [] }

/-- From `d` to `e` the weave only sends and routes: messages join those that leave, and nothing else of it moves. -/
structure Dev.WeaveSends (d e : Dev) : Prop where
  rest : e.weave.unsent = d.weave.unsent
  out : ∃ more, e.weave.out = d.weave.out ++ more

theorem Dev.WeaveSends.of_weave {d e : Dev} (h : e.weave = d.weave) : d.WeaveSends e := ⟨by rw [h], [], by rw [h, List.append_nil]⟩

theorem Dev.WeaveSends.refl (d : Dev) : d.WeaveSends d := .of_weave rfl

theorem Dev.WeaveSends.trans {a b c : Dev} (h : a.WeaveSends b) (g : b.WeaveSends c) : a.WeaveSends c := by
  obtain ⟨more, hmore⟩ := h.out
  obtain ⟨later, hlater⟩ := g.out
  exact ⟨g.rest.trans h.rest, more ++ later, by rw [hlater, hmore, List.append_assoc]⟩

theorem Dev.WeaveSends.then_weave {a d e : Dev} (h : a.WeaveSends d) (g : e.weave = d.weave) : a.WeaveSends e := h.trans (.of_weave g)

theorem Dev.WeaveSends.of_agree {cs : List Nat} {fs : List Fld} {d e : Dev} (h : d.Agree cs fs e) (hf : fs.contains .weave = false) : d.WeaveSends e :=
  .of_weave (h.2 .weave hf)

theorem Dev.WeaveSends.ite {a x y : Dev} {c : Prop} [Decidable c] (h : a.WeaveSends x) (g : a.WeaveSends y) : a.WeaveSends (if c then x else y) := by
  split
  · exact h
  · exact g

theorem Dev.WeaveSends.foldl {α : Type} {f : Dev → α → Dev} (hf : ∀ (d : Dev) x, d.WeaveSends (f d x)) (xs : List α) (d : Dev) : d.WeaveSends (xs.foldl f d) :=
  List.foldlRecOn xs f (motive := d.WeaveSends) (.refl d) (fun e h x _ => h.trans (hf e x))

section
variable {d e : Dev} (h : d.WeaveSends e)
include h

theorem Dev.WeaveSends.ports (p : Nat) : e.wport p = d.wport p := by
  have hports := congrArg WeaveSt.ports h.rest
  rw [Dev.wport, show e.weave.ports = d.weave.ports from hports, Dev.wport]

theorem Dev.WeaveSends.known : e.weave.known = d.weave.known := by
  have hknown := congrArg WeaveSt.known h.rest
  exact hknown

theorem Dev.WeaveSends.lsdb : e.weave.lsdb = d.weave.lsdb := by
  have hlsdb := congrArg WeaveSt.lsdb h.rest
  exact hlsdb

theorem Dev.WeaveSends.heard : e.weave.heard = d.weave.heard := by
  have hheard := congrArg WeaveSt.heard h.rest
  exact hheard

theorem Dev.WeaveSends.mem_out {w : WOut} (hw : w ∈ d.weave.out) : w ∈ e.weave.out := by
  obtain ⟨more, hmore⟩ := h.out
  rw [hmore]
  exact List.mem_append_left more hw

end

/-! ## Messages -/

theorem Dev.weavePut_sends (d : Dev) (kind dest : Nat) (body : List Byte) (port : Nat) : d.WeaveSends (d.weavePut kind dest body port) := by
  unfold Dev.weavePut
  split
  · exact .refl d
  · exact ⟨rfl, _, rfl⟩

/-- A message of a device with a number leaves. -/
theorem Dev.weavePut_leaves (d : Dev) {kind : Nat} (dest : Nat) (body : List Byte) (port : Nat) (h : d.weave.stake.isNone = false ∨ kind = wkIdent ∨ kind = wkAssign) :
    ∃ q, { kind := kind, src := d.stakeNo, dest := dest, seq := q, port := port, bytes := body } ∈ (d.weavePut kind dest body port).weave.out := by
  have hgo : ¬ (d.weave.stake.isNone && kind != wkIdent && kind != wkAssign) = true := by
    rcases h with h | h | h <;> simp [h]
  unfold Dev.weavePut
  rw [if_neg hgo]
  exact ⟨_, List.mem_append_right _ (List.mem_singleton_self _)⟩

/-- New routes move nothing else of the weave (R360). -/
theorem Dev.reroute_sends (d : Dev) : d.WeaveSends d.reroute := by
  unfold Dev.reroute
  extract_lets rs tab w routed shown
  clear_value tab
  have hrouted : d.WeaveSends routed := ⟨rfl, [], (List.append_nil _).symm⟩
  clear_value routed
  have hshow (x : Dev) (s : Nat) : x.WeaveSends (match x.routeTo s with
      | some (p, h) => (x.put Par.stakeHops s (min h 255)).put Par.stakeOutPort s p
      | none => (x.put Par.stakeHops s 255).put Par.stakeOutPort s 255) := by
    split <;> exact .of_weave (by rw [Dev.put_weave, Dev.put_weave])
  have hshown : routed.WeaveSends shown := .foldl hshow _ routed
  clear_value shown
  have hend : shown.WeaveSends ((shown.inc 32 Par.weaveRouteChanges 0).raise evWeaveRouteChange oWeave) :=
    .of_weave (by rw [Dev.raise_weave, Dev.inc_weave])
  exact .ite (.refl d) ((hrouted.trans hshown).trans hend)

theorem Dev.sendLsa_sends (d : Dev) : d.WeaveSends d.sendLsa := d.weavePut_sends _ _ _ _

/-! ## The end of a command -/

theorem Dev.fireTrig_sends (d : Dev) (n ts cause stake : Nat) : d.WeaveSends (d.fireTrig n ts cause stake) := by
  unfold Dev.fireTrig
  extract_lets st weave x raised told off mask split f sent
  have hmissed : d.WeaveSends (d.trigMissed n ts cause stake) := .of_agree (d.trigMissed_frame n ts cause stake) rfl
  have hoff : d.WeaveSends off := .of_weave (by rw [Dev.put_weave, Dev.put_weave, Dev.put_weave, Dev.put_weave, Dev.raise_weave, Dev.inc_weave])
  clear_value off
  have hsplit : d.WeaveSends split := by
    refine hoff.trans (.foldl (fun x s => ?_) _ off)
    refine .ite (.ite (.of_agree (x.capSplit_frame _ _) rfl) ?_) (.refl x)
    exact .trans (.of_weave (Dev.inc_weave _ _ _ _ _)) (.of_agree (Dev.capFlag_frame _ _ _) rfl)
  clear_value split
  refine .ite (.refl d) (.ite ?_ (.ite ?_ ?_))
  · split
    · next g hg =>
      extract_lets kept again
      have hagain : d.WeaveSends again := .of_weave (by rw [Dev.put_weave, Dev.put_weave, Dev.put_weave, Dev.setTrig_weave])
      refine .ite (hagain.trans (.foldl (fun y s => .ite (.of_agree (y.capSplit_frame _ _) rfl) (.refl y)) _ again)) (.ite ?_ hmissed)
      exact .of_weave (Dev.setTrig_weave _ _ _)
    · exact hmissed
  · have hsent : split.WeaveSends sent := .ite (.refl split) (split.weavePut_sends _ _ _ _)
    exact (hsplit.trans hsent).then_weave (Dev.setTrig_weave _ _ _)
  · exact .trans (hsplit.then_weave (Dev.setTrig_weave _ _ _)) (.of_agree (Dev.fireMarks_frame _ _ _) rfl)

theorem Dev.eventTrig_sends (d : Dev) (ev : Nat) : d.WeaveSends (d.eventTrig ev) := by
  unfold Dev.eventTrig
  extract_lets ts m marked
  have hmarked : d.WeaveSends marked := by
    refine .foldl (fun x n => .ite (.ite ?_ (.ite ?_ (.refl x))) (.refl x)) (List.range 32) d
    · exact .of_agree (x.markStream_frame _ _) rfl
    · exact .of_agree (x.markRing_frame _ _) rfl
  exact .ite (.refl d) (hmarked.trans (.foldl (fun x n => .ite (.ite (x.fireTrig_sends _ _ _ _) (.refl x)) (.refl x)) (List.range 16) marked))

theorem Dev.serveFresh_sends (k : Nat) (d : Dev) : d.WeaveSends (Dev.serveFresh k d) := by
  induction k generalizing d with
  | zero => exact .of_weave rfl
  | succ k ih =>
    unfold Dev.serveFresh
    split
    · exact .refl d
    · next ev obj rest _ =>
      have htaken : d.WeaveSends { d with evt := { d.evt with fresh := rest } } := .of_weave rfl
      exact htaken.trans ((Dev.eventTrig_sends _ ev).trans (ih _))

theorem Dev.settle_sends (d old : Dev) : d.WeaveSends (d.settle old) := by
  have hserved : d.WeaveSends (Dev.serveFresh ((d.wakeScan old).evt.fresh.length + 64) (d.wakeScan old)) :=
    .trans (.of_agree (d.wakeScan_frame old) rfl) (Dev.serveFresh_sends _ _)
  have hended (x : Dev) : x.WeaveSends x.ended := by
    unfold Dev.ended
    extract_lets e
    have he : x.WeaveSends e := .ite (.of_weave (Dev.put_weave _ _ _ _)) (.refl x)
    have hpins (y : Dev) (p : PinSt) : (y.setPins p).weave = y.weave := rfl
    exact he.then_weave (hpins e _)
  rw [Dev.settle_eq]
  exact hserved.trans (hended _)

/-! ## Receipt -/

/-- A message meant for this device acts (R349, R351). -/
theorem Dev.wrx_acts {d : Dev} {h : WHdr} (hh : d.hears h) (kind : Nat) (body : List Byte) (act : Dev → Dev) : d.wrx h kind body act = act d := by
  obtain ⟨hfull, hport, hcrc, hdest⟩ := hh
  have hgo : ¬ (!d.full ∨ !((d.wport h.port.val).state = wpUp ∨ ((d.wport h.port.val).state = wpLock ∧ kind = wkIdent))) := by simp [hfull, hport]
  have hgo' : ¬ (!h.crcOk) = true := by rw [hcrc]; decide
  unfold Dev.wrx
  extract_lets p st port dest src old seen noted told
  rw [if_neg hgo, if_neg hgo']
  rcases hdest with hnext | ⟨hlow, hown⟩
  · exact if_pos hnext
  · have hnext : ¬ dest = 0xFE := Nat.ne_of_lt hlow
    have hflood : ¬ dest = 0xFF := by
      have hlow' : dest < 0xFE := hlow
      omega
    rw [if_neg hnext, if_neg hflood, if_pos (show d.weave.stake = some dest from hown)]

/-- So does an IDENT from the neighbour on a port in LOCK or UP (R349). -/
theorem Dev.wrx_ident {d : Dev} {h : WHdr} (hfull : d.full = true) (hcrc : h.crcOk = true) (hdest : h.dest.toNat = 0xFE)
    (hport : (d.wport h.port.val).state = wpUp ∨ (d.wport h.port.val).state = wpLock) (body : List Byte) (act : Dev → Dev) : d.wrx h wkIdent body act = act d := by
  have hgo : ¬ (!d.full ∨ !((d.wport h.port.val).state = wpUp ∨ ((d.wport h.port.val).state = wpLock ∧ wkIdent = wkIdent))) := by
    rcases hport with hport | hport <;> simp [hfull, hport]
  have hgo' : ¬ (!h.crcOk) = true := by rw [hcrc]; decide
  unfold Dev.wrx
  extract_lets p st port dest src old seen noted told
  rw [if_neg hgo, if_neg hgo']
  exact if_pos hdest

end Sys2Proof.Machine
end

section
/-! PROOF. Weft ports, and the topology of the weave (R349, R355, R357, R359). -/

namespace Sys2Proof.Machine

variable {p : Nat}

theorem Dev.setWport_spares {q : Par} (d : Dev) (p : Nat) (x : WPort) : Dev.Spares q d (d.setWport p x) := fun _ => rfl

/-! ## Ports -/

/-- Block lock takes a port that is DOWN to LOCK, and its IDENT leaves (R349). -/
theorem Dev.weftLock_locks {d : Dev} (hfull : d.full = true) (hstate : (d.wport p).state = wpDown) (hwait : (d.wport p).waiting = false) (hclk : d.clkOk cdWeft = true) :
    ((d.weftLock p).wport p).state = wpLock ∧ ((d.weftLock p).wport p).identOut = true ∧ (∃ w ∈ (d.weftLock p).weave.out, w.kind = wkIdent ∧ w.port = p)
      ∧ ∀ q, q ≠ p → (d.weftLock p).wport q = d.wport q := by
  have hclock : bit d.sup.unlocked 5 = false := by simpa [Dev.clkOk] using hclk
  have hgo : ¬ (!d.full ∨ (d.wport p).state ≠ wpDown ∨ (d.wport p).waiting ∨ bit d.sup.unlocked 5) := by simp [hfull, hstate, hwait, hclock]
  unfold Dev.weftLock
  extract_lets x locked
  rw [if_neg hgo]
  have hlocked : (locked.wport p).state = wpLock ∧ (locked.wport p).identOut = true := by
    rw [Dev.wport_setWport_same]
    exact ⟨rfl, rfl⟩
  have hother (q : Nat) (hq : q ≠ p) : locked.wport q = d.wport q := Dev.wport_setWport_other _ _ _ _ hq
  clear_value locked
  have hsends := locked.weavePut_sends wkIdent 0xFF locked.identBytes p
  obtain ⟨q, hq⟩ := locked.weavePut_leaves (kind := wkIdent) 0xFF locked.identBytes p (.inr (.inl rfl))
  rw [hsends.ports]
  exact ⟨hlocked.1, hlocked.2, ⟨_, hq, rfl, rfl⟩, fun r hr => by rw [hsends.ports, hother r hr]⟩

/-- A port that goes DOWN waits; one that was UP is counted (R349). -/
theorem Dev.weftDown_drops {d : Dev} (hstate : (d.wport p).state ≠ wpDown) :
    ((d.weftDown p).wport p).state = wpDown ∧ ((d.weftDown p).wport p).waiting = true
      ∧ ((d.wport p).state = wpUp → ((d.weftDown p).wport p).downs = ((d.wport p).downs + 1) % 2 ^ 32 ∧ (d.weftDown p).get Par.linkState (3 + p) = 0)
      ∧ ∀ q, q ≠ p → (d.weftDown p).wport q = d.wport q := by
  unfold Dev.weftDown
  extract_lets x up y down
  rw [if_neg hstate]
  have hdown : down.wport p = y := Dev.wport_setWport_same _ _ _
  have hother (q : Nat) (hq : q ≠ p) : down.wport q = d.wport q := Dev.wport_setWport_other _ _ _ _ hq
  clear_value down
  have hraised := (down.put Par.linkState (3 + p) 0).raise_frame evWeftLinkDown (oid 0x90 (3 + p)) 0 false
  have hsends : down.WeaveSends (((down.put Par.linkState (3 + p) 0).raise evWeftLinkDown (oid 0x90 (3 + p))).reroute.sendLsa) :=
    .trans (.trans (.of_weave (by rw [Dev.raise_weave, Dev.put_weave])) (Dev.reroute_sends _)) (Dev.sendLsa_sends _)
  have hlink : (((down.put Par.linkState (3 + p) 0).raise evWeftLinkDown (oid 0x90 (3 + p))).reroute.sendLsa).get Par.linkState (3 + p) = 0 := by
    rw [(Dev.sendLsa_frame _).get _ _ rfl rfl, (Dev.reroute_frame _).get _ _ rfl rfl, hraised.get _ _ rfl rfl, Dev.get_put_lt _ (by decide)]
  by_cases hup : up
  · rw [if_pos hup, hsends.ports, hdown]
    refine ⟨rfl, rfl, fun _ => ⟨?_, hlink⟩, fun q hq => by rw [hsends.ports, hother q hq]⟩
    exact if_pos hup
  · rw [if_neg hup, hdown]
    exact ⟨rfl, rfl, fun h => absurd h hup, hother⟩

theorem Dev.weftMissed_drops {d : Dev} (hup : (d.wport p).state = wpUp) (hmiss : 3 ≤ (d.wport p).missRun) : d.weftMissed p = d.weftDown p := if_pos ⟨hup, hmiss⟩

/-! ## Identities -/

/-- From `d` to `e` what is known of the weave stays: its ports, the devices and the stakes that have been heard, and their identities. -/
structure Dev.KnownKept (d e : Dev) : Prop where
  ports : ∀ p, e.wport p = d.wport p
  known : e.weave.known = d.weave.known
  heard : e.weave.heard = d.weave.heard
  ident : Dev.Spares Par.stakeIdentity d e

theorem Dev.KnownKept.refl (d : Dev) : d.KnownKept d := ⟨fun _ => rfl, rfl, rfl, .refl d⟩

theorem Dev.KnownKept.trans {a b c : Dev} (h : a.KnownKept b) (g : b.KnownKept c) : a.KnownKept c :=
  ⟨fun p => (g.ports p).trans (h.ports p), g.known.trans h.known, g.heard.trans h.heard, h.ident.trans g.ident⟩

theorem Dev.KnownKept.ite {a x y : Dev} {c : Prop} [Decidable c] (h : a.KnownKept x) (g : a.KnownKept y) : a.KnownKept (if c then x else y) := by
  split
  · exact h
  · exact g

theorem Dev.KnownKept.of_sends {d e : Dev} (h : d.WeaveSends e) (g : Dev.Spares Par.stakeIdentity d e) : d.KnownKept e := ⟨h.ports, h.known, h.heard, g⟩

theorem Dev.reroute_identity (d : Dev) : Dev.Spares Par.stakeIdentity d d.reroute := by
  unfold Dev.reroute
  extract_lets rs tab w routed shown
  clear_value tab
  have hrouted : Dev.Spares Par.stakeIdentity d routed := .upd (.refl d) rfl
  clear_value routed
  have hshow (x : Dev) (s : Nat) : Dev.Spares Par.stakeIdentity x (match x.routeTo s with
      | some (p, h) => (x.put Par.stakeHops s (min h 255)).put Par.stakeOutPort s p
      | none => (x.put Par.stakeHops s 255).put Par.stakeOutPort s 255) := by
    split <;> exact .put (.put (.refl x) rfl) rfl
  have hshown : Dev.Spares Par.stakeIdentity routed shown := .forN hshow 64 routed
  clear_value shown
  exact .ite (.refl d) (.frame (.put (hrouted.trans hshown) rfl) (Dev.raise_frame _ _ _ _ _) rfl rfl)

theorem Dev.reroute_known (d : Dev) : d.KnownKept d.reroute := .of_sends d.reroute_sends d.reroute_identity

theorem Dev.sendLsa_known (d : Dev) : d.KnownKept d.sendLsa := .of_sends d.sendLsa_sends (.frame (.refl d) d.sendLsa_frame rfl rfl)

theorem Dev.raise_known (d : Dev) (n obj detail : Nat) (island : Bool) : d.KnownKept (d.raise n obj detail island) :=
  .of_sends (.of_weave (Dev.raise_weave _ _ _ _ _)) (.frame (.refl d) (d.raise_frame _ _ _ _) rfl rfl)

/-- The device with another stake number of its own. -/
def Dev.withStake (d : Dev) (s : Option Nat) : Dev := { d with weave := { d.weave with stake := s } }

theorem Dev.setStake_known (d : Dev) (s : Option Nat) (assigned : Bool) : d.KnownKept (d.setStake s assigned) := by
  have hset : d.KnownKept (d.withStake s) := ⟨fun _ => rfl, rfl, rfl, fun _ => rfl⟩
  have hput (x : Dev) (q : Par) (hq : Par.apart Par.stakeIdentity q = true) (v : Nat) : x.KnownKept (x.put q 0 v) :=
    .of_sends (.of_weave (Dev.put_weave _ _ _ _)) (.put (.refl x) hq)
  have hend : d.setStake s assigned = (((d.withStake s).put Par.weaveStake 0 (s.getD 255)).put Par.weaveAssigned 0 (b2n assigned)).reroute := rfl
  rw [hend]
  exact ((hset.trans (hput _ Par.weaveStake rfl _)).trans (hput _ Par.weaveAssigned rfl _)).trans (Dev.reroute_known _)

/-- A port in LOCK whose IDENT has passed both ways comes UP; its peer stays. -/
theorem Dev.weftUp_rises (d : Dev) (p : Nat) :
    ((d.weftUp p).wport p).peer = (d.wport p).peer ∧ ((d.weftUp p).wport p).peerPort = (d.wport p).peerPort
      ∧ ((d.weftUp p).wport p).state = (if (d.wport p).state = wpLock ∧ (d.wport p).identIn ∧ (d.wport p).identOut then wpUp else (d.wport p).state)
      ∧ (d.weftUp p).weave.known = d.weave.known ∧ (d.weftUp p).weave.heard = d.weave.heard := by
  unfold Dev.weftUp
  extract_lets x risen told
  split
  next h =>
    have hrisen : (risen.wport p).peer = (d.wport p).peer ∧ (risen.wport p).peerPort = (d.wport p).peerPort ∧ (risen.wport p).state = wpUp := by
      rw [Dev.wport_setWport_same]
      exact ⟨rfl, rfl, rfl⟩
    have hknown : risen.weave.known = d.weave.known ∧ risen.weave.heard = d.weave.heard := ⟨rfl, rfl⟩
    clear_value risen
    have htold : risen.WeaveSends told := .of_weave (by rw [Dev.raise_weave, Dev.put_weave])
    clear_value told
    have hend : risen.WeaveSends (told.reroute.sendLsa.weavePut wkIdent 0xFF told.identBytes) :=
      .trans (.trans (.trans htold (Dev.reroute_sends _)) (Dev.sendLsa_sends _)) (Dev.weavePut_sends _ _ _ _ _)
    rw [hend.ports, hend.known, hend.heard]
    exact ⟨hrisen.1, hrisen.2.1, hrisen.2.2, hknown⟩
  · exact ⟨rfl, rfl, rfl, rfl, rfl⟩

/-! ## A sorted list -/

theorem mem_insertBy {α : Type} (lt : α → α → Bool) (x y : α) (xs : List α) : y ∈ insertBy lt x xs ↔ y = x ∨ y ∈ xs := by
  induction xs with
  | nil => simp [insertBy]
  | cons z zs ih =>
    unfold insertBy
    split
    · simp
    · simp [ih]
      tauto

theorem mem_sortBy {α : Type} (lt : α → α → Bool) (y : α) (xs : List α) : y ∈ sortBy lt xs ↔ y ∈ xs := by
  induction xs with
  | nil => simp [sortBy]
  | cons z zs ih => simp [sortBy, mem_insertBy, ih]

/-- The only element with a property is the one that is found. -/
theorem find?_eq_of_unique {α : Type} {q : α → Bool} {x : α} {xs : List α} (hx : x ∈ xs) (hq : q x = true) (hone : ∀ y ∈ xs, q y = true → y = x) :
    xs.find? q = some x := by
  cases h : xs.find? q with
  | none => exact absurd hq (by simpa using List.find?_eq_none.mp h x hx)
  | some y => rw [hone y (List.mem_of_find?_eq_some h) (List.find?_some h)]

/-- The device without its number, as one that R358 isolates. -/
def Dev.isolate (d : Dev) : Dev := { d with weave := { d.weave with isolated := true } }

theorem Dev.isolate_known (d : Dev) : d.KnownKept d.isolate := ⟨fun _ => rfl, rfl, rfl, fun _ => rfl⟩

/-- The device that has heard of stake `s`. -/
def Dev.hasHeard (d : Dev) (s : Nat) : Dev := { d with weave := { d.weave with heard := s :: d.weave.heard } }

/-- What an IDENT teaches (R355): the device is known; its neighbour's port knows it and, with both IDENTs passed, comes UP. -/
theorem Dev.takeIdent_learns (d : Dev) (h : WHdr) {ident : W64} (strap : Nat) {stake : Nat} (partner : Nat) (peerPort : Nat) (hother : ident ≠ Config.identity) :
    (d.takeIdent h ident strap stake partner peerPort).weave.known.find? (fun x => x.ident == ident)
        = some { ident := ident, strap := strap, stake := stake, partner := partner }
      ∧ (h.hop = 8 → ((d.takeIdent h ident strap stake partner peerPort).wport h.port.val).peer = stake
          ∧ ((d.takeIdent h ident strap stake partner peerPort).wport h.port.val).peerPort = peerPort
          ∧ ((d.wport h.port.val).state = wpUp ∨ (d.wport h.port.val).state = wpLock → (d.wport h.port.val).identOut = true →
            ((d.takeIdent h ident strap stake partner peerPort).wport h.port.val).state = wpUp))
      ∧ (stake < 64 → (d.takeIdent h ident strap stake partner peerPort).get Par.stakeIdentity stake = ident.toNat
          ∧ stake ∈ (d.takeIdent h ident strap stake partner peerPort).weave.heard) := by
  generalize hr : d.takeIdent h ident strap stake partner peerPort = r
  unfold Dev.takeIdent at hr
  extract_lets k was w learned p x moved risen near named w' heard at hr
  rw [if_neg hother] at hr
  have hlearned : learned.weave.known = sortBy (fun a b => decide (a.ident.toNat < b.ident.toNat)) (k :: d.weave.known.filter (fun x => x.ident != ident)) := rfl
  have hports : learned.wport p = d.wport p := rfl
  clear_value learned
  have hfound : learned.weave.known.find? (fun x => x.ident == ident) = some k := by
    rw [hlearned]
    refine find?_eq_of_unique ((mem_sortBy _ _ _).mpr (List.mem_cons_self ..)) (by simp [k]) fun y hy hyk => ?_
    rcases List.mem_cons.mp ((mem_sortBy _ _ _).mp hy) with rfl | hrest
    · rfl
    · have hne := (List.mem_filter.mp hrest).2
      simp only [bne_iff_ne, ne_eq] at hne
      exact absurd (beq_iff_eq.mp hyk) hne
  clear hlearned
  -- The port of the neighbour.
  have hrisen : (risen.wport p).peer = stake ∧ (risen.wport p).peerPort = peerPort
      ∧ (risen.wport p).state = (if x.state = wpLock ∧ x.identOut then wpUp else x.state) ∧ risen.weave.known = learned.weave.known := by
    obtain ⟨hpeer, hpeerPort, hstate, hknown, -⟩ := (learned.setWport p { x with identIn := true, peer := stake, peerPort := peerPort }).weftUp_rises p
    rw [Dev.wport_setWport_same] at hpeer hpeerPort hstate
    refine ⟨hpeer, hpeerPort, hstate.trans ?_, hknown⟩
    simp
  have hx : x = d.wport p := hports
  clear_value risen
  clear_value x
  subst hx
  have hnear : near.weave.known = learned.weave.known ∧ (h.hop = 8 → near.wport p = risen.wport p) := by
    unfold near
    split
    · have hsend := risen.reroute_known.trans risen.reroute.sendLsa_known
      split
      · exact ⟨hsend.known.trans hrisen.2.2.2, fun _ => hsend.ports p⟩
      · exact ⟨hrisen.2.2.2, fun _ => rfl⟩
    next hhop => exact ⟨rfl, fun h => absurd h hhop⟩
  clear_value near
  -- The stake it names.
  have hnamed : near.WeaveSends named := .of_weave (by rw [Dev.put_weave, Dev.put_weave, Dev.put_weave])
  have hident : named.get Par.stakeIdentity stake = ident.toNat := by
    rw [Dev.get_put_apart _ _ _ _ rfl, Dev.get_put_apart _ _ _ _ rfl, Dev.get_put_lt _ ident.isLt]
  clear_value named
  have hheard : (∀ q, heard.wport q = near.wport q) ∧ heard.weave.known = near.weave.known
      ∧ (stake < 64 → heard.get Par.stakeIdentity stake = ident.toNat ∧ stake ∈ heard.weave.heard) := by
    have hadded (y : Dev) : (∀ q, (y.hasHeard stake).wport q = y.wport q) ∧ (y.hasHeard stake).weave.known = y.weave.known
        ∧ Dev.Spares Par.stakeIdentity y (y.hasHeard stake) ∧ stake ∈ (y.hasHeard stake).weave.heard := ⟨fun _ => rfl, rfl, fun _ => rfl, List.mem_cons_self ..⟩
    unfold heard
    split
    · split
      next hin => exact ⟨hnamed.ports, hnamed.known, fun _ => ⟨hident, by simpa using hin⟩⟩
      · obtain ⟨h1, h2, h3, h4⟩ := hadded named
        exact ⟨fun q => (h1 q).trans (hnamed.ports q), h2.trans hnamed.known, fun _ => ⟨(h3.get stake).trans hident, h4⟩⟩
    next hlow => exact ⟨fun _ => rfl, rfl, fun h => absurd h hlow⟩
  clear_value heard
  -- R356 to R358: a number that two devices hold.
  have hend : heard.KnownKept r := by
    subst hr
    split
    next me _ =>
      split
      · extract_lets told
        have htold : heard.KnownKept told := .ite (heard.raise_known _ _ _ _) (.refl heard)
        exact .ite ((htold.trans told.isolate_known).trans (Dev.setStake_known _ _ _)) htold
      · exact .ite (heard.setStake_known _ _) (.refl heard)
    · exact .refl heard
  rw [hend.known, hend.heard, hend.ident.get, show h.port.val = p from rfl, hend.ports, hheard.2.1, hheard.1, hnear.1]
  refine ⟨hfound, fun hhop => ?_, hheard.2.2⟩
  rw [hnear.2 hhop]
  refine ⟨hrisen.1, hrisen.2.1, fun hstate hout => ?_⟩
  rw [hrisen.2.2.1]
  rcases hstate with hup | hlock
  · rw [hup, ite_self]
  · rw [if_pos ⟨hlock, hout⟩]

/-! ## Links and numbers -/

theorem Dev.takeLsa_keeps (d : Dev) {src : Nat} (links : List (Nat × Nat × Nat)) (hsrc : src < 64) :
    (d.takeLsa src links).weave.lsdb.get (fun _ => []) src = links ∧ (d.takeLsa src links).weave.known = d.weave.known := by
  have hset : (d.weave.lsdb.set (fun _ => []) src links).get (fun _ => []) src = links := Tab.get_set_same (fun _ => []) d.weave.lsdb src links
  unfold Dev.takeLsa
  extract_lets w
  rw [if_neg (by omega), (Dev.reroute_sends _).lsdb, (Dev.reroute_sends _).known]
  exact ⟨hset, rfl⟩

theorem Dev.takeAssign_takes {d : Dev} {pairs : List (W64 × Nat)} {n : Nat} (hnone : d.weave.stake = none) (hiso : d.weave.isolated = false)
    (hfind : pairs.find? (fun p => p.1 == Config.identity) = some (Config.identity, n)) (hn : n < 63) :
    (d.takeAssign pairs).weave.assignedNo = some n ∧ (d.takeAssign pairs).weave.stake = none := by
  unfold Dev.takeAssign
  rw [hfind]
  have hgo : d.weave.stake.isNone ∧ (!d.weave.isolated) = true ∧ n < 63 := ⟨by rw [hnone]; rfl, by rw [hiso]; rfl, hn⟩
  refine ⟨?_, ?_⟩
  · exact congrArg (fun e : Dev => e.weave.assignedNo) (if_pos hgo)
  · exact (congrArg (fun e : Dev => e.weave.stake) (if_pos hgo)).trans hnone

end Sys2Proof.Machine

open Sys2Proof Sys2Proof.Machine

/-- Settles O30: a port follows its lock and its missed beats, and each message of the topology is noted; nothing of it moves at the end of the command. -/
theorem weftLinks : Obligations.WeftLinks := by
  unfold Obligations.WeftLinks
  refine ⟨⟨fun t p s hfull hstate hwait hclk => ?_, fun t p s hstate => ?_, fun t p s => ?_, fun t p s hup hmiss => ?_⟩,
    fun h ident strap stake partner peerPort s hother hfull hcrc hdest hport => ?_, fun h links s hhears hsrc => ?_, fun h pairs n s hhears hnone hiso hfind hn => ?_⟩
  · refine .of_does rfl fun e he => ?_
    have hsends := e.settle_sends (s.dev.atTime t)
    obtain ⟨hlock, hout, ⟨w, hw, hkind⟩, hother⟩ := Dev.weftLock_locks (d := s.dev.atTime t) (p := p.val) hfull hstate hwait hclk
    rw [he] at hlock hout hw hother
    rw [hsends.ports]
    exact ⟨hlock, hout, ⟨w, hsends.mem_out hw, hkind⟩, fun q _ hq => (hsends.ports q).trans (hother q hq)⟩
  · refine .of_does rfl fun e he => ?_
    have hsends := e.settle_sends (s.dev.atTime t)
    obtain ⟨hdown, hwait, hup, hother⟩ := Dev.weftDown_drops (d := s.dev.atTime t) (p := p.val) hstate
    rw [he] at hdown hwait hup hother
    rw [hsends.ports, Dev.settle_get _ _ _ rfl]
    exact ⟨hdown, hwait, hup, fun q _ hq => (hsends.ports q).trans (hother q hq)⟩
  · refine .of_does rfl fun e he => ?_
    have hsends := e.settle_sends (s.dev.atTime t)
    rw [hsends.ports, ← he]
    refine ⟨Dev.wport_setWport_same _ _ _, fun q _ hq => ?_⟩
    rw [he, hsends.ports, ← he]
    exact Dev.wport_setWport_other _ _ _ _ hq
  · refine .of_does rfl fun e he => ?_
    have hsends := e.settle_sends (s.dev.atTime t)
    have hstate : ((s.dev.atTime t).wport p.val).state ≠ wpDown := by
      rw [show (s.dev.atTime t).wport p.val = s.dev.wport p.val from rfl, hup]
      decide
    obtain ⟨hdown, -, hcount, -⟩ := Dev.weftDown_drops hstate
    rw [← Dev.weftMissed_drops (d := s.dev.atTime t) hup hmiss, he] at hdown hcount
    rw [hsends.ports, Dev.settle_get _ _ _ rfl]
    exact ⟨hdown, hcount hup⟩
  · refine .of_does rfl fun e he => ?_
    have hsends := e.settle_sends (s.dev.atTime h.t)
    rw [Dev.wrx_ident (d := s.dev.atTime h.t) hfull hcrc hdest hport] at he
    obtain ⟨hknown, hnear, hstake⟩ := (s.dev.atTime h.t).takeIdent_learns h strap.toNat (stake := stake.toNat) partner.toNat peerPort.toNat hother
    rw [he] at hknown hnear hstake
    rw [hsends.known, hsends.ports, hsends.heard, Dev.settle_get _ _ _ rfl]
    exact ⟨hknown, fun hhop => ⟨(hnear hhop).1, (hnear hhop).2.1, (hnear hhop).2.2 hport⟩, hstake⟩
  · refine .of_does rfl fun e he => ?_
    have hsends := e.settle_sends (s.dev.atTime h.t)
    rw [Dev.wrx_acts (d := s.dev.atTime h.t) hhears] at he
    obtain ⟨hlsdb, hknown⟩ := (s.dev.atTime h.t).takeLsa_keeps (links.map (fun l => (l.1.toNat, l.2.1.toNat, l.2.2.toNat))) hsrc
    rw [he] at hlsdb hknown
    rw [hsends.lsdb, hsends.known]
    exact ⟨hlsdb, hknown⟩
  · refine .of_does rfl fun e he => ?_
    have hsends := e.settle_sends (s.dev.atTime h.t)
    rw [Dev.wrx_acts (d := s.dev.atTime h.t) hhears] at he
    have hfind' : (pairs.map (fun p => (p.1, p.2.toNat))).find? (fun p => p.1 == Config.identity) = some (Config.identity, n.toNat) := by
      rw [List.find?_map]
      exact congrArg (Option.map fun p : W64 × Byte => (p.1, p.2.toNat)) hfind
    obtain ⟨hassigned, hstake⟩ := Dev.takeAssign_takes (d := s.dev.atTime h.t) hnone hiso hfind' hn
    rw [he] at hassigned hstake
    have hrest := hsends.rest
    have hassigned' := congrArg WeaveSt.assignedNo hrest
    have hstake' := congrArg WeaveSt.stake hrest
    exact ⟨hassigned'.trans hassigned, hstake'.trans hstake⟩

end

section
/-! PROOF. Messages of the weave: BEAT_PKT, TIME, signals and codes, and the messages of the partner (R206, R354, R362, R365, R366). -/

namespace Sys2Proof.Machine

variable {q : Par}

/-! ## BEAT_PKT -/

theorem Dev.reroute_spares (hq : ∀ p ∈ [Par.stakeHops, Par.stakeOutPort, Par.weaveRouteChanges], Par.apart q p = true) (hsmall : q.small = true)
    (hgroup : [0xC0].contains q.group = false) (d : Dev) : Dev.Spares q d d.reroute := by
  unfold Dev.reroute
  extract_lets rs tab w routed shown
  clear_value tab
  have hrouted : Dev.Spares q d routed := .upd (.refl d) rfl
  clear_value routed
  have hshow (x : Dev) (s : Nat) : Dev.Spares q x (match x.routeTo s with
      | some (p, h) => (x.put Par.stakeHops s (min h 255)).put Par.stakeOutPort s p
      | none => (x.put Par.stakeHops s 255).put Par.stakeOutPort s 255) := by
    split <;> exact .put (.put (.refl x) (hq _ (by decide))) (hq _ (by decide))
  have hshown : Dev.Spares q routed shown := .forN hshow 64 routed
  clear_value shown
  exact .ite (.refl d) (.frame (.put (hrouted.trans hshown) (hq _ (by decide))) (Dev.raise_frame _ _ _ _ _) hsmall hgroup)

/-- The parameters that show the last packet of a stake (Table 16.4). -/
def pktShown : List Par := [Par.stakeConvMode, Par.stakeTimeState, Par.stakeBeatTicks, Par.stakeBeatPhase, Par.stakeHoldsToken]

/-- From `d` to `e` what the packets of the beat have shown stays. -/
structure Dev.PktKept (d e : Dev) : Prop where
  par : ∀ p ∈ pktShown, Dev.Spares p d e
  pkts : e.weave.pkts = d.weave.pkts

theorem Dev.PktKept.refl (d : Dev) : d.PktKept d := ⟨fun _ _ => .refl d, rfl⟩

theorem Dev.PktKept.trans {a b c : Dev} (h : a.PktKept b) (g : b.PktKept c) : a.PktKept c := ⟨fun p hp => (h.par p hp).trans (g.par p hp), g.pkts.trans h.pkts⟩

theorem Dev.PktKept.ite {a x y : Dev} {c : Prop} [Decidable c] (h : a.PktKept x) (g : a.PktKept y) : a.PktKept (if c then x else y) := by
  split
  · exact h
  · exact g

theorem Dev.WeaveSends.pkts {d e : Dev} (h : d.WeaveSends e) : e.weave.pkts = d.weave.pkts := by
  have hpkts := congrArg WeaveSt.pkts h.rest
  exact hpkts

theorem Dev.weftDown_pkt (d : Dev) (p : Nat) : d.PktKept (d.weftDown p) := by
  unfold Dev.weftDown
  extract_lets x up y down
  have hdown : d.PktKept down := ⟨fun _ _ => d.setWport_spares p y, rfl⟩
  clear_value down
  have hsends : down.WeaveSends (((down.put Par.linkState (3 + p) 0).raise evWeftLinkDown (oid 0x90 (3 + p))).reroute.sendLsa) :=
    .trans (.trans (.of_weave (by rw [Dev.raise_weave, Dev.put_weave])) (Dev.reroute_sends _)) (Dev.sendLsa_sends _)
  have hpar : ∀ q ∈ pktShown, Dev.Spares q down (((down.put Par.linkState (3 + p) 0).raise evWeftLinkDown (oid 0x90 (3 + p))).reroute.sendLsa) := by
    have hall : ∀ q ∈ pktShown, q.small = true ∧ [0xC0].contains q.group = false ∧ Par.apart q Par.linkState = true
      ∧ ∀ r ∈ [Par.stakeHops, Par.stakeOutPort, Par.weaveRouteChanges], Par.apart q r = true := by decide
    intro q hq
    obtain ⟨hsmall, hgroup, hlink, hroutes⟩ := hall q hq
    have hraised : Dev.Spares q down ((down.put Par.linkState (3 + p) 0).raise evWeftLinkDown (oid 0x90 (3 + p))) :=
      .frame (.put (.refl down) hlink) (Dev.raise_frame _ _ _ _ _) hsmall hgroup
    exact .frame (hraised.trans (Dev.reroute_spares hroutes hsmall hgroup _)) (Dev.sendLsa_frame _) hsmall rfl
  exact .ite (.refl d) (.ite (hdown.trans ⟨hpar, hsends.pkts⟩) hdown)

/-- After it the port is DOWN, and no port leaves DOWN. -/
theorem Dev.weftDown_down (d : Dev) (p : Nat) : ((d.weftDown p).wport p).state = wpDown
    ∧ ∀ r, (d.wport r).state = wpDown → ((d.weftDown p).wport r).state = wpDown := by
  by_cases h : (d.wport p).state = wpDown
  · have hend : d.weftDown p = d := if_pos h
    rw [hend]
    exact ⟨h, fun _ => id⟩
  · obtain ⟨hdown, -, -, hother⟩ := Dev.weftDown_drops h
    refine ⟨hdown, fun r hr => ?_⟩
    rw [hother r (fun heq => h (by rw [← heq, hr])), hr]

/-- The device that has heard a packet of stake `s`, with the time root it announces. -/
def Dev.pktHeard (d : Dev) (s root : Nat) (ofBeat : Bool) : Dev :=
  { d with weave := { d.weave with
    roots := d.weave.roots.set (fun _ => 255) s root
    heard := if d.weave.heard.contains s then d.weave.heard else s :: d.weave.heard
    pkts := if ofBeat && !(d.weave.pkts.contains s) then s :: d.weave.pkts else d.weave.pkts } }

theorem Dev.pktHeard_spares (d : Dev) (s root : Nat) (ofBeat : Bool) : Dev.Spares q d (d.pktHeard s root ofBeat) := fun _ => rfl

theorem Dev.pktHeard_hears (d : Dev) (s root : Nat) : s ∈ (d.pktHeard s root true).weave.pkts := by
  have hpkts : (d.pktHeard s root true).weave.pkts = if true && !(d.weave.pkts.contains s) then s :: d.weave.pkts else d.weave.pkts := rfl
  rw [hpkts]
  by_cases hin : s ∈ d.weave.pkts <;> simp [hin]

theorem Dev.pktHeard_ports (d : Dev) (s root : Nat) (ofBeat : Bool) (p : Nat) : (d.pktHeard s root ofBeat).wport p = d.wport p := rfl

/-- The STAKE values of a packet's source (R375), and its arrival in its beat. -/
theorem Dev.notePkt_notes (d : Dev) (s : Nat) (b : BeatPkt) (ofBeat : Bool) :
    (d.notePkt s b ofBeat).get Par.stakeConvMode s = b.kind.toNat ∧ (d.notePkt s b ofBeat).get Par.stakeTimeState s = b.tstate.toNat
      ∧ (d.notePkt s b ofBeat).get Par.stakeBeatTicks s = b.ticks.toNat ∧ (d.notePkt s b ofBeat).get Par.stakeBeatPhase s = b.phase.toNat
      ∧ (d.notePkt s b ofBeat).get Par.stakeHoldsToken s = b2n b.hold ∧ (ofBeat = true → s ∈ (d.notePkt s b ofBeat).weave.pkts)
      ∧ ∀ p, (d.notePkt s b ofBeat).wport p = d.wport p := by
  generalize hr : d.notePkt s b ofBeat = r
  unfold Dev.notePkt at hr
  extract_lets first second w at hr
  have hend : second.pktHeard s b.root.toNat ofBeat = r := hr
  clear hr
  have hkind : Dev.Spares Par.stakeConvMode ((d.put Par.stakePartner s b.partner.toNat).put Par.stakeConvMode s b.kind.toNat) second :=
    .put (.put (.put (.put (.put (.put (.refl _) rfl) rfl) rfl) rfl) rfl) rfl
  have hstate : Dev.Spares Par.stakeTimeState (((d.put Par.stakePartner s b.partner.toNat).put Par.stakeConvMode s b.kind.toNat).put Par.stakeTimeState s b.tstate.toNat)
      second := .put (.put (.put (.put (.put (.refl _) rfl) rfl) rfl) rfl) rfl
  have hticks : Dev.Spares Par.stakeBeatTicks first second := .put (.put (.put (.refl _) rfl) rfl) rfl
  have hphase : Dev.Spares Par.stakeBeatPhase (first.put Par.stakeBeatPhase s b.phase.toNat) second := .put (.put (.refl _) rfl) rfl
  have hhold : Dev.Spares Par.stakeHoldsToken ((first.put Par.stakeBeatPhase s b.phase.toNat).put Par.stakeHoldsToken s (b2n b.hold)) second := .put (.refl _) rfl
  have hbyte (x : Byte) : x.toNat < 2 ^ 64 := x.isLt.trans (by decide)
  have hvalues : second.get Par.stakeConvMode s = b.kind.toNat ∧ second.get Par.stakeTimeState s = b.tstate.toNat ∧ second.get Par.stakeBeatTicks s = b.ticks.toNat
      ∧ second.get Par.stakeBeatPhase s = b.phase.toNat ∧ second.get Par.stakeHoldsToken s = b2n b.hold := by
    rw [hkind.get, hstate.get, hticks.get, hphase.get, hhold.get]
    exact ⟨Dev.get_put_lt _ (hbyte _), Dev.get_put_lt _ (b.tstate.isLt.trans (by decide)), Dev.get_put_lt _ (b.ticks.isLt.trans (by decide)),
      Dev.get_put_lt _ (b.phase.isLt.trans (by decide)), Dev.get_put_lt _ (by cases b.hold <;> decide)⟩
  have hweave : second.weave = d.weave := by simp only [second, first, Dev.put_weave]
  clear_value second
  subst hend
  rw [(second.pktHeard_spares _ _ _).get, (second.pktHeard_spares _ _ _).get, (second.pktHeard_spares _ _ _).get, (second.pktHeard_spares _ _ _).get,
    (second.pktHeard_spares _ _ _).get]
  refine ⟨hvalues.1, hvalues.2.1, hvalues.2.2.1, hvalues.2.2.2.1, hvalues.2.2.2.2, fun h => ?_, fun p => ?_⟩
  · rw [h]
    exact second.pktHeard_hears s _
  · rw [Dev.pktHeard_ports, Dev.wport, hweave, Dev.wport]

/-- The device whose PASS is over (R368). -/
def Dev.passDone (d : Dev) : Dev := { d with weave := { d.weave with passing := false } }

/-- The bits of the partner's packet (R368). -/
def Dev.partnerSeen (d : Dev) (b : BeatPkt) : Dev :=
  { d with weave := { d.weave with
    partnerNames := b.partner.toNat == d.stakeNo, partnerHold := b.hold
    partnerDepart := b.depart, partnerWindow := b.window.toNat } }

/-- From `d` to `e` the packets that have come, and the ports, stay. -/
def Dev.SameArrivals (d e : Dev) : Prop := e.weave.pkts = d.weave.pkts ∧ e.weave.ports = d.weave.ports

theorem Dev.planToken_arrivals (d : Dev) (n : Nat) (v : Bool) : d.SameArrivals (d.planToken n v) := by
  unfold Dev.planToken
  split <;> exact ⟨rfl, rfl⟩

theorem Dev.partnerPkt_arrivals (d : Dev) (b : BeatPkt) : d.SameArrivals (d.partnerPkt b) := by
  have hseen : d.SameArrivals (d.partnerSeen b) := ⟨rfl, rfl⟩
  have hpassed (x : Dev) : x.SameArrivals x.passDone := ⟨rfl, rfl⟩
  have htrans {x y z : Dev} (h : x.SameArrivals y) (g : y.SameArrivals z) : x.SameArrivals z := ⟨g.1.trans h.1, g.2.trans h.2⟩
  have hrefl (x : Dev) : x.SameArrivals x := ⟨rfl, rfl⟩
  refine htrans hseen ?_
  unfold Dev.partnerPkt
  extract_lets w noted w'
  have hnoted : noted = d.partnerSeen b := rfl
  rw [← hnoted]
  clear_value noted
  split
  · exact hrefl noted
  · split
    · exact noted.planToken_arrivals _ _
    · split
      · split
        · exact hpassed noted
        · exact hrefl noted
      · split
        · exact noted.planToken_arrivals _ _
        · exact hrefl noted

theorem Dev.partnerPkt_keeps (d : Dev) (b : BeatPkt) : d.PktKept (d.partnerPkt b) ∧ ∀ p, (d.partnerPkt b).wport p = d.wport p := by
  have hrest := d.partnerPkt_arrivals b
  refine ⟨⟨fun q hq => .frame (.refl d) (d.partnerPkt_frame b) ?_ rfl, hrest.1⟩, fun p => by rw [Dev.wport, hrest.2, Dev.wport]⟩
  have hall : ∀ q ∈ pktShown, q.small = true := by decide
  exact hall q hq

/-- A port that has heard its neighbour in this beat keeps its state and its peer. -/
theorem Dev.gotPkt_keeps (d : Dev) (p : Nat) : d.PktKept (d.setWport p { d.wport p with gotPkt := true })
    ∧ ∀ r, ((d.setWport p { d.wport p with gotPkt := true }).wport r).state = (d.wport r).state
      ∧ ((d.setWport p { d.wport p with gotPkt := true }).wport r).peer = (d.wport r).peer := by
  refine ⟨⟨fun _ _ => d.setWport_spares _ _, rfl⟩, fun r => ?_⟩
  by_cases hrp : r = p
  · rw [hrp, Dev.wport_setWport_same]
    exact ⟨rfl, rfl⟩
  · rw [Dev.wport_setWport_other _ _ _ _ hrp]
    exact ⟨rfl, rfl⟩

/-- A packet of another stake shows its values, and with DEPART takes the ports to it DOWN (R354, R373, R375). -/
theorem Dev.takeBeatPkt_shows {d : Dev} (h : WHdr) (b : BeatPkt) (hsrc : h.src.toNat < 64) (hother : h.src.toNat ≠ d.stakeNo) :
    (d.takeBeatPkt h b).get Par.stakeConvMode h.src.toNat = b.kind.toNat ∧ (d.takeBeatPkt h b).get Par.stakeTimeState h.src.toNat = b.tstate.toNat
      ∧ (d.takeBeatPkt h b).get Par.stakeBeatTicks h.src.toNat = b.ticks.toNat ∧ (d.takeBeatPkt h b).get Par.stakeBeatPhase h.src.toNat = b.phase.toNat
      ∧ (d.takeBeatPkt h b).get Par.stakeHoldsToken h.src.toNat = b2n b.hold
      ∧ (b.beat = BitVec.ofNat 32 d.beatNo → h.src.toNat ∈ (d.takeBeatPkt h b).weave.pkts)
      ∧ (b.depart = true → ∀ r < 4, (d.wport r).state = wpUp → (d.wport r).peer = h.src.toNat → ((d.takeBeatPkt h b).wport r).state = wpDown) := by
  generalize hr : d.takeBeatPkt h b = r
  unfold Dev.takeBeatPkt at hr
  extract_lets s p ofBeat noted port got told at hr
  rw [if_neg (show ¬ (64 ≤ s ∨ s = d.stakeNo) from fun h => h.elim (fun h => absurd hsrc (Nat.not_lt.mpr h)) hother)] at hr
  obtain ⟨hkind, hstate, hticks, hphase, hhold, hpkts, hports⟩ : noted.get Par.stakeConvMode s = b.kind.toNat ∧ noted.get Par.stakeTimeState s = b.tstate.toNat
      ∧ noted.get Par.stakeBeatTicks s = b.ticks.toNat ∧ noted.get Par.stakeBeatPhase s = b.phase.toNat ∧ noted.get Par.stakeHoldsToken s = b2n b.hold
      ∧ (ofBeat = true → s ∈ noted.weave.pkts) ∧ ∀ p, noted.wport p = d.wport p := d.notePkt_notes s b ofBeat
  clear_value noted
  have hgot : noted.PktKept got ∧ ∀ r, (got.wport r).state = (noted.wport r).state ∧ (got.wport r).peer = (noted.wport r).peer := by
    unfold got
    split
    · exact noted.gotPkt_keeps p
    · exact ⟨.refl noted, fun _ => ⟨rfl, rfl⟩⟩
  clear_value got
  have htold : noted.PktKept told ∧ ∀ r, (told.wport r).state = (d.wport r).state ∧ (told.wport r).peer = (d.wport r).peer := by
    have hpartner := got.partnerPkt_keeps b
    unfold told
    split
    · exact ⟨hgot.1.trans hpartner.1, fun r => by rw [hpartner.2, (hgot.2 r).1, (hgot.2 r).2, hports]; exact ⟨rfl, rfl⟩⟩
    · exact ⟨hgot.1, fun r => by rw [(hgot.2 r).1, (hgot.2 r).2, hports]; exact ⟨rfl, rfl⟩⟩
  clear_value told
  have hend : noted.PktKept r := by
    rw [← hr]
    refine htold.1.trans (.ite ?_ (.refl told))
    exact Dev.forL_induct (P := told.PktKept) (.refl told) fun x q _ hx => hx.trans (x.weftDown_pkt q)
  rw [(hend.par _ (by decide)).get, (hend.par _ (by decide)).get, (hend.par _ (by decide)).get, (hend.par _ (by decide)).get, (hend.par _ (by decide)).get, hend.pkts]
  refine ⟨hkind, hstate, hticks, hphase, hhold, fun hbeat => hpkts (beq_iff_eq.mpr hbeat), fun hdepart k hk hup hpeer => ?_⟩
  rw [if_pos hdepart] at hr
  rw [← hr]
  have hmem : k ∈ (List.range 4).filter (fun q => (told.wport q).state == wpUp && (told.wport q).peer == s) := by
    rw [List.mem_filter]
    refine ⟨List.mem_range.mpr hk, ?_⟩
    rw [(htold.2 k).1, (htold.2 k).2, hup, hpeer]
    exact (Bool.and_eq_true _ _).mpr ⟨rfl, beq_self_eq_true s⟩
  exact Dev.forL_brings (I := fun _ => True) (Q := fun e => (e.wport k).state = wpDown) hmem (fun _ _ _ _ => trivial) (fun x _ => (x.weftDown_down k).1)
    (fun x q _ _ hq => (x.weftDown_down q).2 k hq) trivial

/-! ## TIME -/

/-- The times of an exchange are kept and summed (R362). -/
theorem Dev.takeTime_sums (d : Dev) (h : WHdr) (t1 t2 echo : Nat) :
    ((d.takeTime h t1 t2 echo).wport h.port.val).t2 = d.now ∧ ((d.takeTime h t1 t2 echo).wport h.port.val).nbrT1 = t1
      ∧ (echo ≠ 0 → (d.wport h.port.val).n < 15 →
          ((d.takeTime h t1 t2 echo).wport h.port.val).n = (d.wport h.port.val).n + 1
          ∧ ((d.takeTime h t1 t2 echo).wport h.port.val).dSum = (d.wport h.port.val).dSum + (((t2 : Int) - echo) + ((d.now : Int) - t1))
          ∧ ((d.takeTime h t1 t2 echo).wport h.port.val).oSum = (d.wport h.port.val).oSum + (((t2 : Int) - echo) - ((d.now : Int) - t1))) := by
  generalize hr : d.takeTime h t1 t2 echo = r
  unfold Dev.takeTime at hr
  extract_lets p x kept a b summed off steered parent first ps at hr
  by_cases hecho : echo = 0
  · rw [if_pos hecho] at hr
    subst hr
    rw [Dev.wport_setWport_same]
    exact ⟨rfl, rfl, fun h => absurd hecho h⟩
  rw [if_neg hecho] at hr
  by_cases hn : summed.n < 16
  · rw [if_pos hn] at hr
    subst hr
    rw [Dev.wport_setWport_same]
    exact ⟨rfl, rfl, fun _ _ => ⟨rfl, rfl, rfl⟩⟩
  · rw [if_neg hn] at hr
    have hsteered : (steered.wport p).t2 = d.now ∧ (steered.wport p).nbrT1 = t1 := by
      rw [Dev.wport_setWport_same]
      exact ⟨rfl, rfl⟩
    have hover : ¬ (d.wport p).n < 15 := fun h => hn (Nat.succ_lt_succ h)
    clear_value steered
    have hend : r.weave = steered.weave := by
      rw [← hr]
      split
      · exact (Dev.timeMeasure_frame _ _ _).2 .weave rfl
      · rfl
    have hport : r.wport p = steered.wport p := by rw [Dev.wport, hend, Dev.wport]
    rw [hport]
    exact ⟨hsteered.1, hsteered.2, fun _ h => absurd h hover⟩

/-! ## Signals, codes and their readers -/

theorem Dev.sendRecords_sends (d : Dev) (recs : List SigRec) (from' : Nat) : d.WeaveSends (d.sendRecords recs from') :=
  .foldl (fun x _ => .ite (.refl x) (x.weavePut_sends _ _ _ _)) _ d

/-- One record of SIGNALS (R365). -/
def Dev.takeSig (d : Dev) (r : SigRec) : Dev :=
  let s := r.stake.toNat
  if s < 64 ∧ d.weave.subs.contains (s, r.signal.toNat) then
    d.setSig (s * 64 + r.signal.toNat) { val := r.val, fresh := r.fresh, arrived := true }
  else d

theorem Dev.takeSig_subs (d : Dev) (r : SigRec) : (d.takeSig r).weave.subs = d.weave.subs := by
  unfold Dev.takeSig
  extract_lets s
  split <;> rfl

theorem Dev.takeSig_takes {d : Dev} {r : SigRec} (hstake : r.stake.toNat < 64) (hsub : (r.stake.toNat, r.signal.toNat) ∈ d.weave.subs) :
    (d.takeSig r).weave.sig.get (fun _ => {}) (r.stake.toNat * 64 + r.signal.toNat) = { val := r.val, fresh := r.fresh, arrived := true } := by
  have hend : d.takeSig r = d.setSig (r.stake.toNat * 64 + r.signal.toNat) { val := r.val, fresh := r.fresh, arrived := true } :=
    if_pos ⟨hstake, List.contains_iff_mem.mpr hsub⟩
  rw [hend]
  exact Tab.get_set_same (fun _ => ({} : Sig)) d.weave.sig _ _

/-- The record of a subscribed signal is its value (R365), the last where several come. -/
theorem Dev.takeSignals_takes {d : Dev} (h : WHdr) (pre : List SigRec) {r : SigRec} (hstake : r.stake.toNat < 64) (hsub : (r.stake.toNat, r.signal.toNat) ∈ d.weave.subs) :
    (d.takeSignals h (pre ++ [r])).weave.sig.get (fun _ => {}) (r.stake.toNat * 64 + r.signal.toNat) = { val := r.val, fresh := r.fresh, arrived := true } := by
  generalize hr : d.takeSignals h (pre ++ [r]) = e
  unfold Dev.takeSignals at hr
  extract_lets taken at hr
  have htaken : taken.weave.sig.get (fun _ => {}) (r.stake.toNat * 64 + r.signal.toNat) = { val := r.val, fresh := r.fresh, arrived := true } := by
    have hlast : taken = (d.forL pre Dev.takeSig).takeSig r := by
      show (pre ++ [r]).foldl Dev.takeSig d = (pre.foldl Dev.takeSig d).takeSig r
      rw [List.foldl_append]
      rfl
    rw [hlast]
    refine Dev.takeSig_takes hstake ?_
    rw [Dev.forL_induct (P := fun e => e.weave.subs = d.weave.subs) rfl fun e x _ he => (e.takeSig_subs x).trans he]
    exact hsub
  clear_value taken
  have hend : taken.WeaveSends e := by
    rw [← hr]
    exact .ite (taken.sendRecords_sends _ _) (.refl taken)
  have hsig := congrArg (fun w : WeaveSt => w.sig) hend.rest
  have hsig' : e.weave.sig = taken.weave.sig := hsig
  rw [hsig', htaken]

/-- The codes of a stake replace those it sent before (R206). -/
theorem Dev.takeCodes_replaces (d : Dev) {src : Nat} (codes : List Nat) (hsrc : src < 64) :
    (d.takeCodes src codes).weave.codes = d.weave.codes.filter (fun c => decide (c.1 ≠ src)) ++ codes.map (fun c => (src, c)) := by
  unfold Dev.takeCodes
  extract_lets keep w stored
  rw [if_neg (by omega), (Dev.clashEval_frame _).2 .weave rfl]

/-- The readers of a publisher's signals are noted (R365). -/
theorem Dev.noteSubscribe_notes {d : Dev} {h : WHdr} (hh : d.hears h) (sigs : List Byte) :
    (∀ g ∈ sigs, (h.dest.toNat * 64 + g.toNat % 64, h.src.toNat) ∈ (d.noteSubscribe h (sigs.map (·.toNat))).weave.readers)
      ∧ ∀ r ∈ d.weave.readers, r.2 ≠ h.src.toNat → r ∈ (d.noteSubscribe h (sigs.map (·.toNat))).weave.readers := by
  obtain ⟨hfull, hport, hcrc, -⟩ := hh
  have hend : d.noteSubscribe h (sigs.map (·.toNat)) = d.takeSubscribe h.src.toNat h.dest.toNat (sigs.map (·.toNat)) := if_pos ⟨hfull, hport, hcrc⟩
  have hreaders : (d.takeSubscribe h.src.toNat h.dest.toNat (sigs.map (·.toNat))).weave.readers
      = d.weave.readers.filter (fun r => !(r.2 == h.src.toNat && r.1 / 64 == h.dest.toNat))
        ++ (sigs.map (·.toNat)).map (fun s => (h.dest.toNat * 64 + s % 64, h.src.toNat)) := rfl
  rw [hend, hreaders]
  refine ⟨fun g hg => List.mem_append_right _ ?_, fun r hr hne => List.mem_append_left _ (List.mem_filter.mpr ⟨hr, ?_⟩)⟩
  · rw [List.map_map]
    exact List.mem_map.mpr ⟨g, hg, rfl⟩
  · simp [hne]

/-! ## Messages of the partner -/

theorem Dev.arm_of_arms {d e : Dev} (h : e.arms = d.arms) (j : Nat) : e.arm j = d.arm j := by rw [Dev.arm, h, Dev.arm]

theorem Dev.ctx_of_ctxs {d e : Dev} (h : e.ctxs = d.ctxs) (c : Nat) : e.ctx c = d.ctx c := by rw [Dev.ctx, h, Dev.ctx]

/-- An arm current of the holder is kept for the next beat (R119), the last where several come. -/
theorem Dev.takeArmCur_keeps {d : Dev} {h : WHdr} (hholder : d.fromHolder h = true) (pre : List (Byte × F32)) {j : Byte} (v : F32) (hj : j.toNat < 24) :
    ((d.takeArmCur h ((pre ++ [(j, v)]).map (fun x => (x.1.toNat, x.2)))).arm j.toNat).partnerI = some v := by
  have hsplit : ((pre ++ [(j, v)]).map (fun x => (x.1.toNat, x.2))).filter (fun x => decide (x.1 < 24))
      = (pre.map (fun x => (x.1.toNat, x.2))).filter (fun x => decide (x.1 < 24)) ++ [(j.toNat, v)] := by
    simp [List.filter_append, hj]
  unfold Dev.takeArmCur
  rw [if_pos hholder, hsplit, Dev.forL, List.foldl_append]
  exact congrArg ArmRt.partnerI (Dev.arm_setArm_same _ _ _)

theorem Dev.takeCtxState_keeps {d : Dev} {h : WHdr} (hholder : d.fromHolder h = true) {c : Nat} (n : Nat) (xs : List F32) (hc : c < 128) :
    (d.takeCtxState h c n xs).ctx c = { d.ctx c with sync := some (xs.take n) } := by
  have hend : d.takeCtxState h c n xs = d.setCtx c { d.ctx c with sync := some (xs.take n) } := if_pos ⟨hholder, hc⟩
  rw [hend, Dev.ctx_setCtx_same]

theorem Dev.armBlock_counts (d : Dev) (j cause cells : Nat) : (d.armBlock j cause cells).get Par.armArmFaults j = (d.get Par.armArmFaults j + 1) % 2 ^ 32 := by
  unfold Dev.armBlock
  extract_lets counted arm carried blocked listed mode asked raised
  have hcounted : counted.get Par.armArmFaults j = (d.get Par.armArmFaults j + 1) % 2 ^ 32 := Dev.get_inc_same _ _ _ _ (by decide)
  clear_value counted
  have hcarried : Dev.Spares Par.armArmFaults counted carried := .trans (.upd (.refl counted) (counted.setArm_par j _)) (.putF (.refl _) rfl)
  clear_value carried
  have hlisted : Dev.Spares Par.armArmFaults counted listed := .put (.put (.put (.put hcarried rfl) rfl) rfl) rfl
  clear_value listed
  have hasked : Dev.Spares Par.armArmFaults listed asked := fun _ => rfl
  clear_value asked
  have hraised : Dev.Spares Par.armArmFaults asked raised := .frame (.refl asked) (asked.raise_frame _ _ _ _) rfl rfl
  clear_value raised
  have hend : Dev.Spares Par.armArmFaults counted (if counted.get Par.armState j = asBlocked then counted
      else if (raised.paired && !raised.token && cause != afPartner) = true then raised.weavePut wkArmBlock raised.partnerNo (leBytes 1 j ++ leBytes 1 cause) else raised) :=
    .ite (.refl counted) ((hlisted.trans (hasked.trans hraised)).trans (.ite (.frame (.refl raised) (raised.weavePut_frame _ _ _ _) rfl rfl) (.refl raised)))
  rw [hend.get, hcounted]

/-- A half that the partner relays in its beat is taken as at the port; a later one counts (R103, R366). -/
theorem Dev.telemRelay_takes {d : Dev} {s pos : Nat} {half : List Byte} (hfull : d.full = true) (hok : halfOk half pos = true) :
    (beAt half 10 2 = d.beatNo % 65536 → (d.cell (8 * d.ringOf s + pos)).fresh = false → (d.telemRelay s pos half).showsHalf (8 * d.ringOf s + pos) half)
      ∧ (beAt half 10 2 ≠ d.beatNo % 65536 → d.telemRelay s pos half = d.inc 32 Par.weaveRelayLate 0) := by
  have hgo : ¬ (!d.full ∨ !(halfOk half pos)) := by simp [hfull, hok]
  unfold Dev.telemRelay
  rw [if_neg hgo]
  refine ⟨fun hbeat hfresh => ?_, fun hbeat => if_pos hbeat⟩
  rw [if_neg (not_not.mpr hbeat)]
  exact (d.takeHalf_takes s (d.ringOf s) pos half).1 hok hfresh

/-- The partner's report counts the cells of a discovery (R104). -/
theorem Dev.ringReport_counts {d : Dev} {s : Nat} {x : Disc} (count : Nat) (ids : List (List Byte)) (hdisc : (d.spoke s).disc = some x) :
    ∃ y, ((d.ringReport s count ids).spoke s).disc = some y ∧ y.hopA = some count ∧ y.rtA = x.rtA := by
  unfold Dev.ringReport
  split
  next y hy =>
    have hxy : y = x := Option.some.inj (by rw [← hy, hdisc])
    subst hxy
    extract_lets named port
    rw [Dev.spoke_setSpoke_same]
    exact ⟨_, rfl, rfl, rfl⟩
  next hnone =>
    rw [hdisc] at hnone
    cases hnone

end Sys2Proof.Machine

open Sys2Proof Sys2Proof.Machine

/-- Settles O31: a message that the device hears acts at its receipt, and what it is kept in stays at the end of the command. -/
theorem weaveMessages : Obligations.WeaveMessages := by
  unfold Obligations.WeaveMessages
  refine ⟨⟨fun h b s hhears hsrc hother => ?_, fun h t1 t2 echo s hhears => ?_⟩, ⟨fun h pre r s hhears hstake hsub => ?_, fun h codes s hhears hsrc => ?_,
    fun h sigs s hhears => ?_⟩, fun h pre j v s hhears hholder hj => ?_, fun h c n xs s hhears hholder hc => ?_,
    fun h arm cause s hhears hpaired hpartner harm hstate => ?_, fun h spoke pos half s hhears hok => ⟨fun hbeat hfresh => ?_, fun hbeat => ?_⟩,
    fun h spoke count ids x s hhears hdisc => ?_⟩
  · refine .of_does rfl fun e he => ?_
    have hsends := e.settle_sends (s.dev.atTime h.t)
    rw [Dev.wrx_acts (d := s.dev.atTime h.t) hhears] at he
    have hshows := Dev.takeBeatPkt_shows (d := s.dev.atTime h.t) h b hsrc hother
    rw [he] at hshows
    obtain ⟨hkind, hstate, hticks, hphase, hhold, hpkts, hdepart⟩ := hshows
    rw [Dev.settle_get _ _ _ rfl, Dev.settle_get _ _ _ rfl, Dev.settle_get _ _ _ rfl, Dev.settle_get _ _ _ rfl, Dev.settle_get _ _ _ rfl, hsends.pkts]
    exact ⟨hkind, hstate, hticks, hphase, hhold, hpkts, fun hd r hr hup hpeer => by rw [hsends.ports]; exact hdepart hd r hr hup hpeer⟩
  · refine .of_does rfl fun e he => ?_
    have hsends := e.settle_sends (s.dev.atTime h.t)
    rw [Dev.wrx_acts (d := s.dev.atTime h.t) hhears] at he
    have hsums := (s.dev.atTime h.t).takeTime_sums h t1.toNat t2.toNat echo.toNat
    rw [he] at hsums
    rw [hsends.ports]
    refine ⟨hsums.1, hsums.2.1, fun hecho => hsums.2.2 fun hzero => hecho ?_⟩
    exact BitVec.eq_of_toNat_eq hzero
  · refine .of_does rfl fun e he => ?_
    have hsends := e.settle_sends (s.dev.atTime h.t)
    rw [Dev.wrx_acts (d := s.dev.atTime h.t) hhears] at he
    have htakes := Dev.takeSignals_takes (d := s.dev.atTime h.t) h pre hstake hsub
    rw [he] at htakes
    have hsig := congrArg WeaveSt.sig hsends.rest
    have hsig' : (e.settle (s.dev.atTime h.t)).weave.sig = e.weave.sig := hsig
    rw [hsig', htakes]
  · refine .of_does rfl fun e he => ?_
    have hsends := e.settle_sends (s.dev.atTime h.t)
    rw [Dev.wrx_acts (d := s.dev.atTime h.t) hhears] at he
    have hreplaces := (s.dev.atTime h.t).takeCodes_replaces (codes.map (·.toNat)) hsrc
    rw [he, List.map_map] at hreplaces
    have hcodes := congrArg WeaveSt.codes hsends.rest
    exact hcodes.trans hreplaces
  · refine .of_does rfl fun e he => ?_
    have hsends := e.settle_sends (s.dev.atTime h.t)
    rw [Dev.wrx_acts (d := s.dev.atTime h.t) hhears] at he
    have hnotes := Dev.noteSubscribe_notes (d := s.dev.atTime h.t) hhears sigs
    have he' : (s.dev.atTime h.t).noteSubscribe h (sigs.map (·.toNat)) = e := he
    rw [he'] at hnotes
    have hreaders := congrArg WeaveSt.readers hsends.rest
    have hreaders' : (e.settle (s.dev.atTime h.t)).weave.readers = e.weave.readers := hreaders
    rw [hreaders']
    exact hnotes
  · refine .of_does rfl fun e he => ?_
    rw [Dev.wrx_acts (d := s.dev.atTime h.t) hhears] at he
    have hkeeps := Dev.takeArmCur_keeps (d := s.dev.atTime h.t) hholder pre v hj
    rw [he] at hkeeps
    rw [Dev.arm_of_arms (Dev.settle_arms _ _)]
    exact hkeeps
  · refine .of_does rfl fun e he => ?_
    rw [Dev.wrx_acts (d := s.dev.atTime h.t) hhears] at he
    have hkeeps := Dev.takeCtxState_keeps (d := s.dev.atTime h.t) hholder n.toNat xs hc
    rw [he] at hkeeps
    rw [Dev.ctx_of_ctxs (Dev.settle_ctxs _ _)]
    exact hkeeps
  · refine .of_does rfl fun e he => ?_
    rw [Dev.wrx_acts (d := s.dev.atTime h.t) hhears] at he
    have hend : (s.dev.atTime h.t).takeArmBlock h arm.toNat = (s.dev.atTime h.t).armBlock arm.toNat afPartner (faultCells 0xFFFF 0xFFFF) :=
      if_pos ⟨hpaired, hpartner, harm, hstate⟩
    have heval := hend.symm.trans he
    have hblocks := (s.dev.atTime h.t).armBlock_blocks (j := arm.toNat) (cause := afPartner) (faultCells 0xFFFF 0xFFFF) (by decide)
    have hcounts := (s.dev.atTime h.t).armBlock_counts arm.toNat afPartner (faultCells 0xFFFF 0xFFFF)
    rw [heval] at hblocks hcounts
    rw [Dev.settle_get _ _ _ rfl, Dev.settle_get _ _ _ rfl, Dev.settle_get _ _ _ rfl, Dev.settle_mode]
    exact ⟨hblocks.1, (hblocks.2 hstate).1, hcounts, (hblocks.2 hstate).2⟩
  · refine .of_does rfl fun e he => ?_
    rw [Dev.wrx_acts (d := s.dev.atTime h.t) hhears] at he
    obtain ⟨hvcap, -, -, -, hnew⟩ := (Dev.telemRelay_takes (d := s.dev.atTime h.t) (s := spoke.toNat) hhears.1 hok).1 hbeat hfresh
    rw [he] at hvcap hnew
    rw [Dev.settle_get _ _ _ rfl, Dev.cell_of_cells (Dev.settle_cells _ _)]
    exact ⟨hvcap, hnew⟩
  · refine .of_does rfl fun e he => ?_
    rw [Dev.wrx_acts (d := s.dev.atTime h.t) hhears] at he
    have hlate := (Dev.telemRelay_takes (d := s.dev.atTime h.t) (s := spoke.toNat) hhears.1 hok).2 hbeat
    have heval := hlate.symm.trans he
    rw [Dev.settle_get _ _ _ rfl, Dev.settle_cells, ← heval, Dev.inc_cells]
    exact ⟨Dev.get_inc_same _ _ _ _ (by decide), rfl⟩
  · refine .of_does rfl fun e he => ?_
    rw [Dev.wrx_acts (d := s.dev.atTime h.t) hhears] at he
    have hcounts := Dev.ringReport_counts (d := s.dev.atTime h.t) count.toNat ids hdisc
    rw [he] at hcounts
    rw [Dev.spoke_of_spokes (Dev.settle_spokes _ _)]
    exact hcounts

end

section
/-! SUPPORT. Requests of a session on PCIe: how one that gets in is acted on, and what its answer leaves (R380, R381, R384). -/

namespace Sys2Proof.Machine

/-! ## A request gets in -/

theorem Dev.served.admits {d : Dev} {h : Hdr} {op : Nat} (hs : d.served h op) : d.Admits h := by
  obtain ⟨hrun, hpair, hlink, hunsealed, hseal, hopen, hpcie, -, hcommand, hstate, hroom, hreadable, hwaiting, -, -⟩ := hs
  exact ⟨⟨h.session.isLt, hopen, hpcie, hstate, hwaiting⟩, hrun, hpair, hlink, hunsealed, hseal, hcommand, hreadable, hroom⟩

theorem Dev.served.atTime {d : Dev} {h : Hdr} {op : Nat} (hs : d.served h op) (t : Nat) : (d.atTime t).served h op := hs

/-- The device with the time of a session's last message noted (R396). -/
def Dev.noted (d : Dev) (k : Nat) : Dev := d.setSess k { d.sess k with lastMsg := d.now }

theorem Dev.Sent.noted {d x : Dev} {k : Nat} (h : d.Sent x k 0 []) : d.Sent (x.noted k) k 0 [] := h.trans (x.setSess_lastMsg_sent k x.now)

/-- The device with the request taken and the time of the session's last message noted. -/
def Dev.heard (d : Dev) (h : Hdr) (m : HostMsg) : Dev := (d.gated h m).noted h.session.val

theorem Dev.heard_sent (d : Dev) (h : Hdr) (m : HostMsg) : d.Sent (d.heard h m) h.session.val 0 [] := (d.gated_sent h m).noted

theorem Dev.heard_agree (d : Dev) (h : Hdr) (m : HostMsg) : d.Agree [0x90, 0x91] [.host] (d.heard h m) := (d.heard_sent h m).frame

/-- A request that gets in, that no stored response answers and that is not registered yet, is acted on (R380). -/
theorem Dev.served.takeMsg {d x : Dev} {h : Hdr} {m : HostMsg} (hs : d.served h m.opcode) (hx : d.Sent x h.session.val 0 []) (back : Nat) :
    x.takeMsg h.session.val h.tag.toNat h.shadow false back m = (x.noted h.session.val).actOn h.session.val h.tag.toNat h.shadow false back m := by
  have hsent := hx.noted
  have hreplay : (x.noted h.session.val).replay h.session.val m.opcode h.tag.toNat = none := by
    obtain ⟨-, -, -, -, -, -, -, -, -, -, -, -, -, hstored, -⟩ := hs
    have hnone : (d.sess h.session.val).stored.filter
        (fun y => y.op == m.opcode && y.tag == h.tag.toNat && decide ((x.noted h.session.val).now ≤ y.ts + replayTime)) = [] := by
      refine List.filter_eq_nil_iff.mpr fun y hy => ?_
      simp only [Bool.and_eq_true, beq_iff_eq, decide_eq_true_eq, not_and]
      exact fun hreq => absurd hreq.2 (hstored y hy hreq.1)
    rw [Dev.replay, hsent.session, hnone]
    rfl
  have hnew : (x.noted h.session.val).host.msgs.any (fun y => y.session == h.session.val && y.op == m.opcode && y.tag == h.tag.toNat) = false := by
    obtain ⟨-, -, -, -, -, -, -, -, -, -, -, -, -, -, hmsgs⟩ := hs
    rw [hsent.msgs]
    refine List.any_eq_false.mpr fun y hy => ?_
    simp only [Bool.and_eq_true, beq_iff_eq, not_and, and_imp]
    exact fun hsess hop htag => hmsgs y hy hsess hop htag
  unfold Dev.takeMsg
  extract_lets y noted
  have hnoted : noted = x.noted h.session.val := rfl
  clear_value noted
  subst hnoted
  rw [hreplay]
  dsimp only
  rw [hnew]
  rfl

theorem Dev.served.hostMsg {d : Dev} {h : Hdr} {m : HostMsg} (hs : d.served h m.opcode) :
    d.hostMsg h m = (d.heard h m).actOn h.session.val h.tag.toNat h.shadow false 72 m := by
  rw [d.hostMsg_of_admits hs.admits, hs.takeMsg (d.gated_sent h m) 72]
  rfl

/-! ## Its answer -/

theorem Dev.ringTake_head (d : Dev) {n k : Nat} (m : List Byte × List Byte) (hn : k ≠ n) :
    (d.ringTake n m).get Par.ringHead k = d.get Par.ringHead k := by
  unfold Dev.ringTake
  extract_lets tail put r read headed
  have hput : d.Agree [] [.host] put := Dev.slotPut_frame _ _ _ _ _
  clear_value put
  have hset : put.Agree [] [.host] read := Dev.setRing_frame _ _ _
  clear_value read
  have hread : read.get Par.ringHead k = d.get Par.ringHead k := (hput.trans hset).get _ _ rfl rfl
  have hheaded : headed.get Par.ringHead k = read.get Par.ringHead k := by
    unfold headed
    split
    · exact read.get_put_inst _ rfl hn
    · rfl
  exact (headed.get_put_apart _ _ _ rfl).trans (hheaded.trans hread)

/-- From `d` to `e` the response ring of a request's session stands as it did, with room for an answer. -/
structure Dev.RingKept (d e : Dev) (h : Hdr) : Prop where
  now : e.now = d.now
  waiting : (e.ring (16 + h.session.val)).waiting = []
  room : e.ringFull (16 + h.session.val) = false
  slots : (e.ring (16 + h.session.val)).slots = (d.ring (16 + h.session.val)).slots
  head : e.get Par.ringHead (16 + h.session.val) = d.get Par.ringHead (16 + h.session.val)

/-- And it takes the answer: the session, on PCIe, is open or in its handshake, and the ring not in FAULT. -/
structure Dev.Waits (d e : Dev) (h : Hdr) : Prop extends d.RingKept e h where
  live : ((e.sess h.session.val).isOpen || (e.sess h.session.val).helloAt.isSome) = true
  pcie : (e.sess h.session.val).link = 0
  state : e.get Par.ringState (16 + h.session.val) ≠ 2
  own : (e.sess h.session.val).origin = none

/-- What puts nothing into the response ring and leaves its head. -/
theorem Dev.Sent.ringKept {d x : Dev} {h : Hdr} (hx : d.Sent x h.session.val 0 []) (hhead : x.get Par.ringHead (16 + h.session.val) = d.get Par.ringHead (16 + h.session.val))
    (hwaiting : (d.ring (16 + h.session.val)).waiting = []) (hroom : d.ringFull (16 + h.session.val) = false) : d.RingKept x h where
  now := hx.frame.2 .now rfl
  waiting := hx.waiting.trans hwaiting
  room := by
    have hused := hx.used
    simp only [Dev.ringFull, ge_iff_le, decide_eq_false_iff_not, not_le] at hroom ⊢
    rw [hx.depth]
    omega
  slots := hx.slots.trans (List.append_nil _)
  head := hhead

/-- A request taken from a ring of the host leaves the response ring's head as it is. -/
theorem Dev.taken_head (d : Dev) {n k : Nat} (m : List Byte × List Byte) (hn : k ≠ n) :
    ((d.ringTake n m).inc 64 Par.linkRxFrames 0).get Par.ringHead k = d.get Par.ringHead k :=
  (Dev.get_put_apart _ _ _ _ rfl).trans (d.ringTake_head m hn)

theorem Dev.gated_ringKept {d : Dev} {h : Hdr} (m : HostMsg) (hwaiting : (d.ring (16 + h.session.val)).waiting = [])
    (hroom : d.ringFull (16 + h.session.val) = false) : d.RingKept (d.gated h m) h :=
  (d.gated_sent h m).ringKept (d.taken_head _ (by omega)) hwaiting hroom

theorem Dev.setSess_ring (d : Dev) (s : Nat) (x : Sess) (n : Nat) : (d.setSess s x).ring n = d.ring n := rfl

/-- A request of a session that is open or in its handshake, heard. -/
theorem Dev.Sent.waits {d x : Dev} {h : Hdr} (hx : d.Sent x h.session.val 0 []) (hhead : x.get Par.ringHead (16 + h.session.val) = d.get Par.ringHead (16 + h.session.val))
    (hwaiting : (d.ring (16 + h.session.val)).waiting = []) (hroom : d.ringFull (16 + h.session.val) = false)
    (hlive : ((d.sess h.session.val).isOpen || (d.sess h.session.val).helloAt.isSome) = true) (hpcie : (d.sess h.session.val).link = 0)
    (hstate : d.get Par.ringState (16 + h.session.val) ≠ 2) (hown : (d.sess h.session.val).origin = none) : d.Waits (x.noted h.session.val) h := by
  have hset : x.Agree [] [.host] (x.noted h.session.val) := Dev.setSess_frame _ _ _
  have hkept := hx.noted.ringKept ((hset.get _ _ rfl rfl).trans hhead) hwaiting hroom
  have hsession := hx.noted.session
  have hfault := hx.noted.state
  generalize x.noted h.session.val = e at *
  exact ⟨hkept, by rw [hsession]; exact hlive, by rw [hsession]; exact hpcie, by rw [hfault]; exact hstate, by rw [hsession]; exact hown⟩

theorem Dev.heard_waits {d : Dev} {h : Hdr} (m : HostMsg) (hwaiting : (d.ring (16 + h.session.val)).waiting = [])
    (hroom : d.ringFull (16 + h.session.val) = false)
    (hlive : ((d.sess h.session.val).isOpen || (d.sess h.session.val).helloAt.isSome) = true) (hpcie : (d.sess h.session.val).link = 0)
    (hstate : d.get Par.ringState (16 + h.session.val) ≠ 2) (hown : (d.sess h.session.val).origin = none) : d.Waits (d.heard h m) h :=
  (d.gated_sent h m).waits (d.taken_head _ (by omega)) hwaiting hroom hlive hpcie hstate hown

theorem Dev.served.waits {d : Dev} {h : Hdr} {op : Nat} (hs : d.served h op) (m : HostMsg) : d.Waits (d.heard h m) h := by
  obtain ⟨-, -, -, -, -, hopen, hpcie, hown, -, hstate, hroom, -, hwaiting, -, -⟩ := hs
  exact Dev.heard_waits m hwaiting hroom (by rw [hopen, Bool.true_or]) hpcie hstate hown

/-- An effect that leaves the ring's parameters, the rings and the sessions alone. -/
theorem Dev.Waits.step {d e f : Dev} {h : Hdr} {cs : List Nat} {fs : List Fld} (hw : d.Waits e h) (he : e.Agree cs fs f)
    (hc : cs.contains Par.ringHead.group = false) (hn : fs.contains .now = false) (hsess : f.sess h.session.val = e.sess h.session.val)
    (hring : f.ring (16 + h.session.val) = e.ring (16 + h.session.val)) : d.Waits f h where
  now := (he.2 .now hn).trans hw.now
  live := by rw [hsess]; exact hw.live
  pcie := by rw [hsess]; exact hw.pcie
  state := by rw [he.get Par.ringState _ rfl hc]; exact hw.state
  waiting := by rw [hring]; exact hw.waiting
  own := by rw [hsess]; exact hw.own
  room := by
    have hroom := hw.room
    rw [Dev.ringFull, Dev.ringUsed] at hroom ⊢
    rw [he.get Par.ringHead _ rfl hc, he.get Par.ringTail _ rfl hc, he.get Par.ringDepth _ rfl hc]
    exact hroom
  slots := by rw [hring]; exact hw.slots
  head := (he.get _ _ rfl hc).trans hw.head

/-- An effect that leaves the host side alone. -/
theorem Dev.Waits.agree {d e f : Dev} {h : Hdr} {cs : List Nat} {fs : List Fld} (hw : d.Waits e h) (he : e.Agree cs fs f)
    (hc : cs.contains Par.ringHead.group = false) (hn : fs.contains .now = false) (hh : fs.contains .host = false) : d.Waits f h :=
  hw.step he hc hn (Dev.sess_of_host (he.2 .host hh) _) (Dev.ring_of_host (he.2 .host hh) _)

/-- What an answer leaves: beside the host side the counters of links and rings alone move; nothing is registered, claimed or asked for, and of the
sessions the stored responses of the one answered change. -/
structure Dev.Replied (e r : Dev) (s : Nat) : Prop where
  frame : e.Agree [0x90, 0x91] [.host] r
  msgs : r.host.msgs = e.host.msgs
  claims : r.host.claims = e.host.claims
  ops : r.host.ops = e.host.ops
  modeReq : r.host.modeReq = e.host.modeReq
  session : r.sess s = { e.sess s with lastMsg := (r.sess s).lastMsg, stored := (r.sess s).stored }
  others : ∀ k, k ≠ s → r.sess k = e.sess k

/-- The answer goes into the response ring at once, with the TS64 of the registration (R381). -/
theorem Dev.Waits.answers {d e : Dev} {h : Hdr} (hw : d.Waits e h) (op st : Nat) (body : List Byte) (more : Bool) {ts : Nat} (hts : ts = d.now) :
    let r := e.respond h.session.val h.tag.toNat op ts st body more
    (r.ring (16 + h.session.val)).slots = (d.ring (16 + h.session.val)).slots
        ++ [mkMsg op h.tag.toNat h.session.val st (if more then 12 else 4) (leBytes 8 d.now ++ body)]
      ∧ r.get Par.ringHead (16 + h.session.val) = (d.get Par.ringHead (16 + h.session.val) + 1) % 2 ^ 32 ∧ e.Replied r h.session.val := by
  subst hts
  generalize hr : e.respond h.session.val h.tag.toNat op d.now st body more = r
  intro r'
  subst r'
  unfold Dev.respond at hr
  extract_lets m x at hr
  have hm : m = mkMsg op h.tag.toNat h.session.val st (if more then 12 else 4) (leBytes 8 d.now ++ body) := by
    have hflags : flResponse + (if more then flDeferred else 0) = if more then 12 else 4 := by cases more <;> rfl
    simp only [m, hw.own, hflags, Option.map_none, Option.getD_none]
  clear_value m
  generalize hstored : storeResp x.stored op h.tag.toNat d.now m = stored at hr
  generalize hput : e.setSess h.session.val { x with stored := stored } = put at hr
  have hset : e.Agree [] [.host] put := hput ▸ Dev.setSess_frame _ _ _
  have hsess : put.sess h.session.val = { x with stored := stored } := by rw [← hput, Dev.sess_setSess_same]
  have hring : put.ring (16 + h.session.val) = e.ring (16 + h.session.val) := by rw [← hput]; rfl
  have hothers : ∀ k, k ≠ h.session.val → put.sess k = e.sess k := fun k hk => by rw [← hput]; exact Dev.sess_setSess_other _ _ _ _ hk
  have hhost : put.host.msgs = e.host.msgs ∧ put.host.claims = e.host.claims ∧ put.host.ops = e.host.ops ∧ put.host.modeReq = e.host.modeReq := by
    rw [← hput]
    exact ⟨rfl, rfl, rfl, rfl⟩
  have hlive : ((put.sess h.session.val).isOpen || (put.sess h.session.val).helloAt.isSome) = true := by rw [hsess]; exact hw.live
  have hpcie : (put.sess h.session.val).link = 0 := by rw [hsess]; exact hw.pcie
  have hstate : put.get Par.ringState (16 + h.session.val) ≠ 2 := by rw [hset.get Par.ringState _ rfl rfl]; exact hw.state
  have hwaiting : (put.ring (16 + h.session.val)).waiting = [] := by rw [hring]; exact hw.waiting
  have hroom : put.ringFull (16 + h.session.val) = false := by
    have hroom := hw.room
    rw [Dev.ringFull, Dev.ringUsed] at hroom ⊢
    rw [hset.get Par.ringHead _ rfl rfl, hset.get Par.ringTail _ rfl rfl, hset.get Par.ringDepth _ rfl rfl]
    exact hroom
  have hsend : put.sendTo h.session.val m = put.ringPut (16 + h.session.val) m := by
    rw [Dev.sendTo, if_pos h.session.isLt, if_pos hlive]
    simp [Dev.ringPush, hstate, hwaiting, hroom]
  rw [hsend] at hr
  have hsession : put.ringSession (16 + h.session.val) = h.session.val := by
    unfold Dev.ringSession
    rw [if_neg (by omega), if_pos (by omega), Nat.add_sub_cancel_left]
  obtain ⟨hslots, hhead, -⟩ := Dev.ringPut_puts (d := put) (r := 16 + h.session.val) (by rw [hsession]; exact hpcie) m
  have hsent := put.ringPut_sent m h.session.isLt hpcie
  rw [hr] at hslots hhead hsent
  refine ⟨by rw [hslots, hring, hw.slots, hm], by rw [hhead, hset.get _ _ rfl rfl, hw.head], ?_⟩
  exact {
    frame := (hset.mono rfl rfl : e.Agree [0x90, 0x91] [.host] put).trans hsent.frame
    msgs := hsent.msgs.trans hhost.1
    claims := hsent.claims.trans hhost.2.1
    ops := hsent.ops.trans hhost.2.2.1
    modeReq := hsent.modeReq.trans hhost.2.2.2
    session := by rw [hsent.session, hsess]
    others := fun k hk => (hsent.others k hk).trans (hothers k hk) }

/-- The answer of a request stands at the end of its command. -/
theorem Dev.Waits.answered {d e : Dev} {h : Hdr} (hw : (d.atTime h.t).Waits e h) (op st : Nat) (body : List Byte) (more : Bool) {ts : Nat}
    (hts : ts = (d.atTime h.t).now) (old : Dev) :
    d.answered ((e.respond h.session.val h.tag.toNat op ts st body more).settle old) h op st body more := by
  obtain ⟨hslots, hhead, -⟩ := hw.answers op st body more hts
  exact ⟨by rw [Dev.ring_of_host (Dev.settle_host _ _)]; exact hslots, by rw [Dev.settle_get _ _ _ rfl]; exact hhead⟩

end Sys2Proof.Machine
end

section
/-! SUPPORT and PROOF. The update process (ch. 18): the records that alternate, the tally of the key state, chunks, activation, trials and rollback
(R415, R416, R420, R422, R423, R425). -/

namespace Sys2Proof.Machine

/-! ## Records that alternate -/

/-- The next sequence number is higher than its predecessor, and not the other way round. -/
theorem seqHigher_next {n : Nat} (_ : n < 2 ^ 32) : seqHigher ((n + 1) % 2 ^ 32) n = true ∧ seqHigher n ((n + 1) % 2 ^ 32) = false := by
  simp only [seqHigher, decide_eq_true_eq, decide_eq_false_iff_not]
  omega

/-- Of two copies that alternate, the governing one is the copy in the place of its last bit. -/
theorem governing_place {α : Type} {seq : α → Nat} {a b : Option α} {n : Nat} (ha : ∀ r, a = some r → seq r % 2 = 0)
    (hb : ∀ r, b = some r → seq r % 2 = 1) (hn : n = ((governing seq a b).map seq).getD 0) :
    (n % 2 = 0 → ∀ r, a = some r → seq r = n) ∧ (n % 2 = 1 → ∀ r, b = some r → seq r = n) := by
  subst hn
  cases a with
  | none =>
    cases b with
    | none => exact ⟨fun _ _ h => (nomatch h), fun _ _ h => (nomatch h)⟩
    | some y => exact ⟨fun _ _ h => (nomatch h), fun _ r h => by cases h; rfl⟩
  | some x =>
    have hx := ha x rfl
    cases b with
    | none => exact ⟨fun _ r h => by cases h; rfl, fun _ _ h => (nomatch h)⟩
    | some y =>
      have hy := hb y rfl
      have hgov : governing seq (some x) (some y) = some x ∨ governing seq (some x) (some y) = some y := by
        by_cases hhigher : seqHigher (seq x) (seq y) = true <;> simp [governing, hhigher]
      rcases hgov with hgov | hgov <;> rw [hgov]
      · exact ⟨fun _ r h => by cases h; rfl, fun h => by have h' : seq x % 2 = 1 := h; omega⟩
      · exact ⟨fun h => by have h' : seq y % 2 = 0 := h; omega, fun _ r h => by cases h; rfl⟩

/-- A record written into the place of the next sequence number governs (R416). -/
theorem governing_set {α : Type} [DecidableEq α] {seq : α → Nat} {t : Tab (Option α)} {x : α}
    (halt : ∀ k < 2, ∀ r, t.get (fun _ => none) k = some r → seq r % 2 = k ∧ seq r < 2 ^ 32)
    (hx : seq x = (((governing seq (t.get (fun _ => none) 0) (t.get (fun _ => none) 1)).map seq).getD 0 + 1) % 2 ^ 32) :
    let u := t.set (fun _ => none) (seq x % 2) (some x)
    governing seq (u.get (fun _ => none) 0) (u.get (fun _ => none) 1) = some x := by
  intro u
  have hplace : u.get (fun _ => none) (seq x % 2) = some x := Tab.get_set_same _ _ _ _
  have hother : u.get (fun _ => none) (1 - seq x % 2) = t.get (fun _ => none) (1 - seq x % 2) := Tab.get_set_other _ _ _ _ _ (by omega)
  clear_value u
  have h0 := halt 0 (by decide)
  have h1 := halt 1 (by decide)
  generalize hn : ((governing seq (t.get (fun _ => none) 0) (t.get (fun _ => none) 1)).map seq).getD 0 = n at hx
  obtain ⟨heven, hodd⟩ := governing_place (fun r hr => (h0 r hr).1) (fun r hr => (h1 r hr).1) hn.symm
  rcases Nat.mod_two_eq_zero_or_one (seq x) with hpar | hpar
  · rw [hpar] at hplace hother
    rw [hplace, hother]
    cases hb : t.get (fun _ => none) 1 with
    | none => rfl
    | some y =>
      have hy := hodd (by omega) y hb
      have hhigher := (seqHigher_next (h1 y hb).2).1
      rw [hy, ← hx] at hhigher
      simp only [governing, hy, hhigher, if_true]
  · rw [hpar] at hplace hother
    rw [hplace, hother]
    cases ha : t.get (fun _ => none) 0 with
    | none => rfl
    | some y =>
      have hy := heven (by omega) y ha
      have hhigher := (seqHigher_next (h0 y ha).2).2
      rw [hy, ← hx] at hhigher
      simp [governing, hy, hhigher]

theorem Dev.ownRec_ownWrite {d : Dev} (h : d.recordsAlternate) (r : OwnRec) : (d.ownWrite r).ownRec = { r with seq := (d.ownRec.seq + 1) % 2 ^ 32 } := by
  have hgov := governing_set (seq := OwnRec.seq) (t := d.lid.own) (x := { r with seq := (d.ownRec.seq + 1) % 2 ^ 32 }) (fun k hk => (h k hk).2) (by
    rw [Dev.ownRec]
    cases governing OwnRec.seq (d.lid.own.get (fun _ => none) 0) (d.lid.own.get (fun _ => none) 1) <;> rfl)
  exact congrArg (Option.getD · {}) hgov

theorem Dev.bootRec_bootWrite {d : Dev} (h : d.recordsAlternate) (r : BootRec) :
    (d.bootWrite r).bootRec = { r with seq := (d.bootRec.seq + 1) % 2 ^ 32 } := by
  have hgov := governing_set (seq := BootRec.seq) (t := d.lid.boot) (x := { r with seq := (d.bootRec.seq + 1) % 2 ^ 32 }) (fun k hk => (h k hk).1) (by
    rw [Dev.bootRec]
    cases governing BootRec.seq (d.lid.boot.get (fun _ => none) 0) (d.lid.boot.get (fun _ => none) 1) <;> rfl)
  exact congrArg (Option.getD · {}) hgov

theorem Dev.ownRec_of_own {d e : Dev} (h : e.lid.own = d.lid.own) : e.ownRec = d.ownRec := by rw [Dev.ownRec, h, Dev.ownRec]

theorem Dev.bootRec_of_boot {d e : Dev} (h : e.lid.boot = d.lid.boot) : e.bootRec = d.bootRec := by rw [Dev.bootRec, h, Dev.bootRec]

/-! ## Events and outcomes -/

theorem Dev.evtUp_of_agree {d e : Dev} {cs : List Nat} {fs : List Fld} (h : d.Agree cs fs e) (hp : fs.contains .phase = false) : e.evtUp = d.evtUp := by
  have hphase : e.phase = d.phase := h.2 .phase hp
  rw [Dev.evtUp, Dev.evtUp, Dev.up, Dev.up, hphase]

theorem Dev.outcome_lid (d : Dev) (o : Oper) (status : Nat) (extra : List Byte) : (d.outcome o status extra).lid = d.lid :=
  (d.outcome_frame o status extra).2 .lid rfl

theorem Dev.respond_keepsFlags (d : Dev) (s tag op ts st : Nat) (bs : List Byte) (more : Bool) : d.KeepsFlags (d.respond s tag op ts st bs more) :=
  .frame (.refl d) (d.respond_frame s tag op ts st bs more) rfl

theorem Dev.outcome_keepsFlags (d : Dev) (o : Oper) (status : Nat) (extra : List Byte) : d.KeepsFlags (d.outcome o status extra) := by
  unfold Dev.outcome
  extract_lets host ended
  have hended : d.KeepsFlags ended := .upd (.refl d) rfl
  split
  · split
    · exact hended.trans (ended.respond_keepsFlags _ _ _ _ _ _ _)
    · exact hended.trans (ended.respond_keepsFlags _ _ _ _ _ _ _)
  · exact .raise hended

/-! ## The tally of the key state -/

/-- What the key state says once more is extended into register 7 (R408, Table 18.3); nothing else of the Lid but counts and log changes. -/
theorem Dev.tallyKeys_extends (d : Dev) :
    d.tallyKeys.tally 7 = sha384 (d.tally 7 ++ sha384 d.keyState) ∧ d.tallyKeys.tallyCount 7 = (d.tallyCount 7 + 1) % 2 ^ 32
      ∧ (∀ r < 7, d.tallyKeys.tally r = d.tally r) ∧ d.tallyKeys.keyState = d.keyState ∧ (∀ k, d.tallyKeys.keySlot k = d.keySlot k)
      ∧ d.tallyKeys.lid.epoch = d.lid.epoch ∧ d.tallyKeys.lid.fuses = d.lid.fuses ∧ d.tallyKeys.lid.blowTo = d.lid.blowTo :=
  ⟨Tab.get_set_same _ _ _ _, Tab.get_set_same _ _ _ _, fun r hr => Tab.get_set_other _ _ _ _ _ (by omega), rfl, fun _ => rfl, rfl, rfl, rfl⟩

/-! ## The update process -/

theorem Dev.keyState_of_lid {d e : Dev} (h : e.lid = d.lid) : e.keyState = d.keyState := by simp only [Dev.keyState, Dev.keySlot, h]

theorem Dev.whenService_of_pair {d : Dev} (h : d.pairHalted 1 = false) (f : Dev → Dev) : d.whenService f = f d := if_neg (by rw [h]; decide)

theorem Dev.whenUp_of_run {d : Dev} (h : d.phase = .run) (f : Dev → Dev) : d.whenUp f = f d := if_pos (by rw [Dev.up, h]; rfl)

/-- The reset at once is recovery's (R426). -/
theorem Dev.activated_of_run {d : Dev} (h : d.phase = .run) : d.activated = d.activationVerified := by
  have hphase : d.activationVerified.phase = .run := (d.activationVerified_frame.2 .phase rfl).trans h
  exact if_neg fun hrec => by rw [hphase] at hrec; exact absurd hrec.1 (by decide)

/-- A chunk marked (R422): it lies in the slot that does not run. -/
theorem Dev.chunkMarked_marks {d : Dev} {i : Nat} (hbytes : d.lid.marking.get (fun _ => []) i ≠ []) (hstate : d.ownRec.state = 1) (hi : i < 1792) :
    let e := d.chunkMarked i
    (e.slot d.inactiveSlot).chunk i = d.lid.marking.get (fun _ => []) i ∧ (e.slot d.inactiveSlot).made = false
      ∧ e.lid.bitmap = setBit d.lid.bitmap i true ∧ e.lid.marking.get (fun _ => []) i = [] ∧ e.lid.running = d.lid.running
      ∧ ((List.range d.ownRec.count).all (bit (setBit d.lid.bitmap i true)) = true → d.evtUp = true → e.isOn Par.evtFlag evUpdComplete = true) := by
  generalize hr : d.chunkMarked i = r
  intro e
  subst e
  unfold Dev.chunkMarked at hr
  extract_lets bs o k slot bm lid written done recorded at hr
  rw [if_neg (by simp only [not_or, not_not, not_le]; exact ⟨hbytes, hstate, hi⟩)] at hr
  have hslot : recorded.slot k = slot := Tab.get_set_same _ _ _ _
  have hmarking : recorded.lid.marking.get (fun _ => []) i = [] := by
    have hset : recorded.lid.marking = d.lid.marking.set (fun _ => []) i [] := rfl
    rw [hset, Tab.get_set_same]
  have hbitmap : recorded.lid.bitmap = bm := rfl
  have hrunning : recorded.lid.running = d.lid.running := rfl
  have hup : recorded.evtUp = d.evtUp := rfl
  clear_value recorded
  have hlid : r.lid = recorded.lid := by
    rw [← hr]
    split
    · exact recorded.raise_lid _ _ _ _
    · rfl
  have hat : (r.slot k) = slot := by rw [Dev.slot, hlid]; exact hslot
  refine ⟨by rw [hat]; exact Tab.get_set_same _ _ _ _, by rw [hat], by rw [hlid, hbitmap], by rw [hlid, hmarking], by rw [hlid, hrunning], fun hall hevt => ?_⟩
  rw [← hr, if_pos hall]
  exact recorded.isOn_raise _ _ _ (hup.trans hevt)

/-- The end of an activation: of the Lid, the ownership record alone changes, and none is under way. -/
theorem Dev.activateEnd_ends (d : Dev) (state status : Nat) :
    (d.activateEnd state status).lid.activating = false ∧ (d.activateEnd state status).lid.boot = d.lid.boot
      ∧ (d.activateEnd state status).lid.resetWanted = d.lid.resetWanted ∧ d.KeepsFlags (d.activateEnd state status) := by
  generalize hr : d.activateEnd state status = r
  unfold Dev.activateEnd at hr
  extract_lets lid ended owner recorded at hr
  have hrecorded : recorded.lid.activating = false ∧ recorded.lid.boot = d.lid.boot ∧ recorded.lid.resetWanted = d.lid.resetWanted ∧ d.KeepsFlags recorded := by
    unfold recorded
    split <;> exact ⟨rfl, rfl, rfl, .upd (.refl d) rfl⟩
  clear_value recorded
  split at hr
  · rw [← hr, Dev.outcome_lid]
    exact ⟨hrecorded.1, hrecorded.2.1, hrecorded.2.2.1, hrecorded.2.2.2.trans (recorded.outcome_keepsFlags _ _ _)⟩
  · rw [← hr]
    exact hrecorded

/-- An activation whose slot does not verify is refused (R423). -/
theorem Dev.activationVerified_refuses {d : Dev} {f : Nat} (hact : d.lid.activating = true) (hfault : d.activateFault = some f) :
    let e := d.activationVerified
    e.lid.activating = false ∧ e.lid.boot = d.lid.boot ∧ e.lid.resetWanted = d.lid.resetWanted
      ∧ e.get Par.updRefusals 0 = (d.get Par.updRefusals 0 + 1) % 2 ^ 32 ∧ e.get Par.updLastRefusal 0 = f % 2 ^ 64 := by
  have hend : d.activationVerified = (d.refuseUpd (some f)).activateEnd 2 stAuth := by
    unfold Dev.activationVerified
    rw [hact, hfault]
    rfl
  intro e
  subst e
  rw [hend]
  have hcount : (d.refuseUpd (some f)).get Par.updRefusals 0 = (d.get Par.updRefusals 0 + 1) % 2 ^ 32 :=
    (Dev.get_put_apart _ _ _ _ rfl).trans (Dev.get_inc_same _ _ _ _ (by decide))
  have hreason : (d.refuseUpd (some f)).get Par.updLastRefusal 0 = f % 2 ^ 64 := Dev.get_put_same _ _ _ _
  have hlid : (d.refuseUpd (some f)).lid = d.lid := (d.refuseUpd_frame _).2 .lid rfl
  generalize d.refuseUpd (some f) = refused at *
  have hframe := refused.activateEnd_frame 2 stAuth
  obtain ⟨hnone, hboot, hwanted, -⟩ := refused.activateEnd_ends 2 stAuth
  exact ⟨hnone, by rw [hboot, hlid], by rw [hwanted, hlid], by rw [hframe.get _ _ rfl rfl, hcount], by rw [hframe.get _ _ rfl rfl, hreason]⟩

/-- An activation whose slot verifies names it for the next boot (R423). -/
theorem Dev.activationVerified_names {d : Dev} (hact : d.lid.activating = true) (hfault : d.activateFault = none) (hrun : d.phase = .run) :
    let e := d.activationVerified
    e.lid.activating = false ∧ e.lid.resetWanted = (d.lid.resetWanted || d.lid.whenStopped) ∧ e.isOn Par.evtFlag evUpdActivated = true
      ∧ (d.recordsAlternate → e.bootRec.pending = d.inactiveSlot ∧ e.bootRec.started = false) := by
  generalize hr : d.activationVerified = r
  intro e
  subst e
  unfold Dev.activationVerified at hr
  rw [if_neg (by rw [hact]; decide)] at hr
  split at hr
  · next f hf => exact absurd (hfault.symm.trans hf) nofun
  extract_lets boot named lid wanted at hr
  have hnamed : d.recordsAlternate → named.bootRec.pending = d.inactiveSlot ∧ named.bootRec.started = false := fun halt => by
    rw [Dev.bootRec_bootWrite halt]
    exact ⟨rfl, rfl⟩
  have hlater : named.lid.resetWanted = d.lid.resetWanted ∧ named.lid.whenStopped = d.lid.whenStopped ∧ named.phase = .run := ⟨rfl, rfl, hrun⟩
  clear_value named
  have hwanted : wanted.bootRec = named.bootRec ∧ wanted.lid.resetWanted = (named.lid.resetWanted || named.lid.whenStopped || (named.phase == Phase.recovery))
      ∧ wanted.phase = named.phase := ⟨rfl, rfl, rfl⟩
  clear_value wanted
  have hflag : (wanted.raise evUpdActivated oUpd).isOn Par.evtFlag evUpdActivated = true :=
    wanted.isOn_raise _ _ _ (Dev.evtUp_of_run (hwanted.2.2.trans hlater.2.2))
  have hlid : (wanted.raise evUpdActivated oUpd).lid = wanted.lid := wanted.raise_lid _ _ _ _
  generalize wanted.raise evUpdActivated oUpd = told at *
  obtain ⟨hnone, hboot, hreset, hflags⟩ := told.activateEnd_ends 0 stCompleted
  have hr' : told.activateEnd 0 stCompleted = r := hr
  rw [hr'] at hnone hboot hreset hflags
  refine ⟨hnone, ?_, hflags _ hflag, fun halt => ?_⟩
  · rw [hreset, hlid, hwanted.2.1, hlater.1, hlater.2.1, hlater.2.2]
    exact Bool.or_false _
  · rw [Dev.bootRec_of_boot (hboot.trans (congrArg LidSt.boot hlid)), hwanted.1]
    exact hnamed halt

/-- The ownership lapses (R420). -/
theorem Dev.ownershipLapse_lapses {d : Dev} (hstate : d.ownRec.state = 1) (howned : d.ownRec.owned = true) (halt : d.recordsAlternate) :
    let e := d.ownershipLapse
    e.ownRec.owned = false ∧ e.ownRec.state = 1 ∧ e.ownRec.digest = d.ownRec.digest ∧ e.lid.bitmap = d.lid.bitmap
      ∧ (d.evtUp = true → e.isOn Par.evtFlag evUpdLapsed = true) := by
  have hend : d.ownershipLapse = (d.ownWrite { d.ownRec with link := 255, stake := 255, fp := 0 }).raise evUpdLapsed oUpd := if_pos ⟨hstate, howned⟩
  intro e
  subst e
  rw [hend]
  have hown := Dev.ownRec_ownWrite halt { d.ownRec with link := 255, stake := 255, fp := 0 }
  have hbitmap : (d.ownWrite { d.ownRec with link := 255, stake := 255, fp := 0 }).lid.bitmap = d.lid.bitmap := rfl
  have hup : (d.ownWrite { d.ownRec with link := 255, stake := 255, fp := 0 }).evtUp = d.evtUp := rfl
  generalize d.ownWrite { d.ownRec with link := 255, stake := 255, fp := 0 } = given at *
  have hlid : (given.raise evUpdLapsed oUpd).lid = given.lid := given.raise_lid _ _ _ _
  rw [Dev.ownRec_of_own (congrArg LidSt.own hlid), hown, hlid]
  exact ⟨rfl, hstate, rfl, hbitmap, fun hevt => given.isOn_raise _ _ _ (hup.trans hevt)⟩

/-- A trial confirmed (R415, R425). -/
theorem Dev.confirm_confirms (d : Dev) :
    let e := d.confirm
    e.lid.trial = false ∧ e.lid.bitmap = 0 ∧ e.lid.manifest = [] ∧ (d.evtUp = true → e.isOn Par.evtFlag evUpdConfirmed = true)
      ∧ e.lid.blowTo = (if d.lid.fuses < (d.slot d.lid.running).arc then some (d.slot d.lid.running).arc else d.lid.blowTo)
      ∧ e.lid.fuses = d.lid.fuses
      ∧ (d.recordsAlternate → e.bootRec.active = d.lid.running ∧ e.bootRec.pending = 255 ∧ e.ownRec.state = 0) := by
  generalize hr : d.confirm = r
  intro e
  subst e
  unfold Dev.confirm at hr
  extract_lets arc adv boot booted idle lid done at hr
  have hbooted : d.recordsAlternate → booted.bootRec.active = d.lid.running ∧ booted.bootRec.pending = 255 := fun halt => by
    rw [Dev.bootRec_bootWrite halt]
    exact ⟨rfl, rfl⟩
  have hkept : d.recordsAlternate → booted.recordsAlternate := fun halt => (d.bootWrite_keeps _).alternate halt
  have hsame : booted.lid.fuses = d.lid.fuses ∧ booted.lid.blowTo = d.lid.blowTo ∧ booted.evtUp = d.evtUp := ⟨rfl, rfl, rfl⟩
  clear_value booted
  have hown : d.recordsAlternate → idle.ownRec.state = 0 := fun halt => by
    have hwritten : idle.ownRec = (booted.ownWrite {}).ownRec := rfl
    rw [hwritten, Dev.ownRec_ownWrite (hkept halt)]
  have hidle : idle.lid.bitmap = 0 ∧ idle.lid.manifest = [] ∧ idle.lid.fuses = booted.lid.fuses ∧ idle.lid.blowTo = booted.lid.blowTo
      ∧ idle.lid.boot = booted.lid.boot ∧ idle.evtUp = booted.evtUp := ⟨rfl, rfl, rfl, rfl, rfl, rfl⟩
  clear_value idle
  have hdone : done.lid = { idle.lid with trial := false, blowTo := if adv then some arc else idle.lid.blowTo } ∧ done.evtUp = idle.evtUp := ⟨rfl, rfl⟩
  clear_value done
  have hlid : r.lid = { idle.lid with trial := false, blowTo := if adv then some arc else idle.lid.blowTo } := by
    rw [← hr, Dev.raise_lid, hdone.1]
  obtain ⟨hbitmap, hmanifest, hfuses, hblow, hboot, hevt⟩ := hidle
  refine ⟨by rw [hlid], by rw [hlid]; exact hbitmap, by rw [hlid]; exact hmanifest, fun hup => ?_, ?_, by rw [hlid]; exact hfuses.trans hsame.1, fun halt => ?_⟩
  · rw [← hr]
    exact done.isOn_raise _ _ _ (by rw [hdone.2, hevt, hsame.2.2, hup])
  · rw [hlid]
    show (if adv = true then some arc else idle.lid.blowTo) = _
    rw [hblow, hsame.2.1]
    simp only [adv, decide_eq_true_eq]
    rfl
  · have hbootRec : r.bootRec = booted.bootRec := Dev.bootRec_of_boot (by rw [hlid]; exact hboot)
    have hownRec : r.ownRec = idle.ownRec := Dev.ownRec_of_own (by rw [hlid])
    rw [hbootRec, hownRec]
    exact ⟨(hbooted halt).1, (hbooted halt).2, hown halt⟩

/-- A trial whose window expires has failed, and a reset is asked for (R425). -/
theorem Dev.trialExpiry_fails {d : Dev} (htrial : d.lid.trial = true) (hrun : d.phase = .run) :
    let e := d.trialExpiry
    e.lid.trial = false ∧ e.lid.resetWanted = true ∧ e.isOn Par.evtFlag evUpdTrialFailed = true
      ∧ (d.recordsAlternate → e.bootRec.failed = true ∧ e.bootRec.pending = 255) := by
  generalize hr : d.trialExpiry = r
  intro e
  subst e
  unfold Dev.trialExpiry at hr
  rw [if_neg (by rw [htrial]; decide)] at hr
  extract_lets boot booted lid at hr
  have hbooted : d.recordsAlternate → booted.bootRec.failed = true ∧ booted.bootRec.pending = 255 := fun halt => by
    rw [Dev.bootRec_bootWrite halt]
    exact ⟨rfl, rfl⟩
  have hphase : booted.phase = .run := hrun
  clear_value booted
  generalize hended : ({ booted with lid := { booted.lid with trial := false, resetWanted := true } } : Dev) = ended at hr
  have hsame : ended.lid = { booted.lid with trial := false, resetWanted := true } ∧ ended.phase = .run := by
    rw [← hended]
    exact ⟨rfl, hphase⟩
  have hlid : r.lid = { booted.lid with trial := false, resetWanted := true } := by
    rw [← hr, Dev.raise_lid, hsame.1]
  refine ⟨by rw [hlid], by rw [hlid], ?_, fun halt => ?_⟩
  · rw [← hr]
    exact ended.isOn_raise _ _ _ (Dev.evtUp_of_run hsame.2)
  · rw [Dev.bootRec_of_boot (d := booted) (by rw [hlid])]
    exact hbooted halt

/-- The fuses of an advance are blown, and the key state that names them is extended (R415). -/
theorem Dev.fusesBlown_blows {d : Dev} {a : Nat} (hblow : d.lid.blowTo = some a) :
    let e := d.fusesBlown
    e.lid.fuses = min 256 (max d.lid.fuses a) ∧ e.lid.blowTo = none ∧ e.tallyCount 7 = (d.tallyCount 7 + 1) % 2 ^ 32
      ∧ e.tally 7 = sha384 (d.tally 7 ++ sha384 e.keyState) ∧ (∀ r < 7, e.tally r = d.tally r)
      ∧ (d.evtUp = true → e.isOn Par.evtFlag evLidRollbackAdvance = true) := by
  generalize hr : d.fusesBlown = r
  intro e
  subst e
  unfold Dev.fusesBlown at hr
  split at hr
  · next hf => exact absurd (hblow.symm.trans hf) nofun
  next b hb =>
  obtain rfl := Option.some.inj (hblow.symm.trans hb)
  generalize hblown : ({ d with lid := { d.lid with fuses := min 256 (max d.lid.fuses a), blowTo := none } } : Dev) = blown at hr
  have hsame : blown.lid = { d.lid with fuses := min 256 (max d.lid.fuses a), blowTo := none } ∧ blown.evtUp = d.evtUp := by
    rw [← hblown]
    exact ⟨rfl, rfl⟩
  have hlid : (blown.raise evLidRollbackAdvance oLid).lid = { d.lid with fuses := min 256 (max d.lid.fuses a), blowTo := none } := by
    rw [Dev.raise_lid, hsame.1]
  have hflag : d.evtUp = true → (blown.raise evLidRollbackAdvance oLid).isOn Par.evtFlag evLidRollbackAdvance = true :=
    fun hup => blown.isOn_raise _ _ _ (hsame.2.trans hup)
  have hextend : (blown.raise evLidRollbackAdvance oLid).tallyKeys = r := hr
  clear hr
  generalize blown.raise evLidRollbackAdvance oLid = told at *
  obtain ⟨h7, hcount, hrest, hkeys, -, -, hfuses, hnone⟩ := told.tallyKeys_extends
  have hflags : told.KeepsFlags told.tallyKeys := .frame (.refl told) (told.tallyExtend_frame 7 _) rfl
  rw [hextend] at h7 hcount hrest hkeys hfuses hnone hflags
  have htally : ∀ k, told.tally k = d.tally k := fun k => by rw [Dev.tally, hlid, Dev.tally]
  have hcounts : told.tallyCount 7 = d.tallyCount 7 := by rw [Dev.tallyCount, hlid, Dev.tallyCount]
  exact ⟨by rw [hfuses, hlid], by rw [hnone, hlid], by rw [hcount, hcounts], by rw [h7, htally, hkeys], fun k hk => by rw [hrest k hk, htally],
    fun hup => hflags _ (hflag hup)⟩

end Sys2Proof.Machine
open Sys2Proof Sys2Proof.Machine

/-- Settles O39: each step of the update process acts as its rule says while the service pair runs, and the Lid keeps it at the end of the command. -/
theorem updates : Obligations.Updates := by
  unfold Obligations.Updates
  refine ⟨⟨fun t i s hpair hbytes hstate hi => ?_, fun t f s hrun hpair hact hfault => ?_, fun t s hrun hpair hact hfault => ?_,
    fun t s hpair hstate howned halt => ?_⟩, fun t s hfull hpair hauto htrial hclk hopen => ?_, fun t s hrun hpair htrial => ?_, fun t a s hpair hblow => ?_⟩
  · refine .of_does rfl fun e he => ?_
    rw [Dev.whenService_of_pair (d := s.dev.atTime t) hpair] at he
    have hmarks := Dev.chunkMarked_marks (d := s.dev.atTime t) hbytes hstate hi
    rw [he] at hmarks
    obtain ⟨hchunk, hmade, hbitmap, hmarking, hrunning, hflag⟩ := hmarks
    rw [Dev.slot, Dev.settle_lid]
    exact ⟨hchunk, hmade, hbitmap, hmarking, hrunning, fun hall hup => e.settle_keepsFlags _ _ (hflag hall hup)⟩
  · refine .of_does rfl fun e he => ?_
    rw [Dev.whenService_of_pair (d := s.dev.atTime t) hpair, Dev.activated_of_run (d := s.dev.atTime t) hrun] at he
    have hrefuses := Dev.activationVerified_refuses (d := s.dev.atTime t) hact hfault
    rw [he] at hrefuses
    rw [Dev.settle_lid, Dev.settle_get _ _ _ rfl, Dev.settle_get _ _ _ rfl]
    exact hrefuses
  · refine .of_does rfl fun e he => ?_
    rw [Dev.whenService_of_pair (d := s.dev.atTime t) hpair, Dev.activated_of_run (d := s.dev.atTime t) hrun] at he
    have hnames := Dev.activationVerified_names (d := s.dev.atTime t) hact hfault hrun
    have hphase : (s.dev.atTime t).activationVerified.phase = .run := ((s.dev.atTime t).activationVerified_frame.2 .phase rfl).trans hrun
    rw [he] at hnames hphase
    obtain ⟨hnone, hwanted, hflag, hboot⟩ := hnames
    rw [Dev.settle_lid, Dev.settle_phase, Dev.bootRec_of_boot (congrArg LidSt.boot (e.settle_lid _))]
    exact ⟨hnone, hphase, hwanted, e.settle_keepsFlags _ _ hflag, hboot⟩
  · refine .of_does rfl fun e he => ?_
    rw [Dev.whenService_of_pair (d := s.dev.atTime t) hpair] at he
    have hlapses := Dev.ownershipLapse_lapses (d := s.dev.atTime t) hstate howned halt
    rw [he] at hlapses
    obtain ⟨hfree, hstays, hdigest, hbitmap, hflag⟩ := hlapses
    rw [Dev.ownRec_of_own (congrArg LidSt.own (e.settle_lid _)), Dev.settle_lid]
    exact ⟨hfree, hstays, hdigest, hbitmap, fun hup => e.settle_keepsFlags _ _ (hflag hup)⟩
  · refine .of_does rfl fun e he => ?_
    have hrun := Dev.run_of_full hfull
    rw [Dev.whenUp_of_run (d := s.dev.atTime t) hrun, Dev.whenService_of_pair (d := s.dev.atTime t) hpair] at he
    have hconfirm : (s.dev.atTime t).autoConfirm = (s.dev.atTime t).confirm := if_pos ⟨hauto, htrial, hfull, by rw [Dev.atTime_lid, hclk]; rfl, hopen⟩
    rw [hconfirm] at he
    have hconfirms := (s.dev.atTime t).confirm_confirms
    rw [he] at hconfirms
    obtain ⟨hended, hbitmap, hmanifest, hflag, hblow, hfuses, hboot⟩ := hconfirms
    rw [Dev.settle_lid, Dev.bootRec_of_boot (congrArg LidSt.boot (e.settle_lid _))]
    exact ⟨hended, hbitmap, hmanifest, e.settle_keepsFlags _ _ (hflag (Dev.evtUp_of_run hrun)), hblow, hfuses, fun halt => ⟨(hboot halt).1, (hboot halt).2.1⟩⟩
  · refine .of_does rfl fun e he => ?_
    rw [Dev.whenUp_of_run (d := s.dev.atTime t) hrun, Dev.whenService_of_pair (d := s.dev.atTime t) hpair] at he
    have hfails := Dev.trialExpiry_fails (d := s.dev.atTime t) htrial hrun
    rw [he] at hfails
    obtain ⟨hended, hwanted, hflag, hboot⟩ := hfails
    rw [Dev.settle_lid, Dev.bootRec_of_boot (congrArg LidSt.boot (e.settle_lid _))]
    exact ⟨hended, hwanted, e.settle_keepsFlags _ _ hflag, hboot⟩
  · refine .of_does rfl fun e he => ?_
    rw [Dev.whenService_of_pair (d := s.dev.atTime t) hpair] at he
    have hblows := Dev.fusesBlown_blows (d := s.dev.atTime t) hblow
    rw [he] at hblows
    obtain ⟨hfuses, hnone, hcount, h7, hrest, hflag⟩ := hblows
    have hlid := e.settle_lid (s.dev.atTime t)
    have htally : ∀ k, (e.settle (s.dev.atTime t)).tally k = e.tally k := fun k => by rw [Dev.tally, hlid, Dev.tally]
    rw [Dev.tallyCount, hlid, htally, Dev.keyState_of_lid hlid]
    exact ⟨hfuses, hnone, hcount, h7, fun k hk => (htally k).trans (hrest k hk), fun hup => e.settle_keepsFlags _ _ (hflag hup)⟩

end

section
/-! SUPPORT. The answer of a request at the end of its command, and the messages of ch. 18 (R381, R428). -/

namespace Sys2Proof.Machine

/-- What the answer and the end of a command leave: nothing is registered, claimed or asked for, the flags of events stay, and the pins show the state. -/
structure Dev.AfterAnswer (x e : Dev) (s : Nat) : Prop where
  frame : x.Agree [0x60, 0x61, 0x90, 0x91, 0xB0, 0xC0] [.evt, .caps, .trigs, .weave, .pwr, .pins, .host] e
  flags : x.KeepsFlags e
  msgs : e.host.msgs = x.host.msgs
  claims : e.host.claims = x.host.claims
  ops : e.host.ops = x.host.ops
  modeReq : e.host.modeReq = x.host.modeReq
  session : e.sess s = { x.sess s with lastMsg := (e.sess s).lastMsg, stored := (e.sess s).stored }
  others : ∀ k, k ≠ s → e.sess k = x.sess k
  shown : e.pinsShown

theorem Dev.Replied.settled {x r : Dev} {s : Nat} (hr : x.Replied r s) (old : Dev) : x.AfterAnswer (r.settle old) s where
  frame := (hr.frame.mono rfl rfl).trans ((r.settle_frame old).mono rfl rfl)
  flags := .trans (.frame (.refl x) hr.frame rfl) (r.settle_keepsFlags old)
  msgs := by rw [Dev.settle_host, hr.msgs]
  claims := by rw [Dev.settle_host, hr.claims]
  ops := by rw [Dev.settle_host, hr.ops]
  modeReq := by rw [Dev.settle_host, hr.modeReq]
  session := by
    rw [Dev.sess_of_host (Dev.settle_host _ _)]
    exact hr.session
  others k hk := (Dev.sess_of_host (Dev.settle_host _ _) k).trans (hr.others k hk)
  shown := r.settle_pinsShown old

/-- The command of a message whose act is an effect and its answer. -/
theorem Completes.of_reply {c : Instr} {h : Hdr} {m : HostMsg} {s : State} {P : Dev → Prop} {x : Dev} {op ts st : Nat} {body : List Byte} {more : Bool}
    (hc : hostRequest c = some (h, m))
    (hact : (s.dev.atTime h.t).hostMsg h m = x.respond h.session.val h.tag.toNat op ts st body more)
    (hts : ts = (s.dev.atTime h.t).now) (hw : (s.dev.atTime h.t).Waits x h)
    (hP : ∀ e, s.dev.answered e h op st body more → x.AfterAnswer e h.session.val → P e) : Completes c s P := by
  refine .of_does (exec_of_hostRequest hc s) fun e he => ?_
  rw [hact] at he
  have hanswered := hw.answered op st body more hts (s.dev.atTime h.t)
  have hreplied := (hw.answers op st body more hts).2.2.settled (s.dev.atTime h.t)
  rw [he] at hanswered hreplied
  exact hP _ hanswered hreplied

/-- The command of a request that gets in, whose act is an effect and its answer. -/
theorem Completes.of_answer {c : Instr} {h : Hdr} {m : HostMsg} {s : State} {P : Dev → Prop} {x : Dev} {ts st : Nat} {body : List Byte} {more : Bool}
    (hc : hostRequest c = some (h, m)) (hs : s.dev.served h m.opcode)
    (hact : ((s.dev.atTime h.t).heard h m).actOn h.session.val h.tag.toNat h.shadow false 72 m
      = x.respond h.session.val h.tag.toNat m.opcode ts st body more)
    (hts : ts = (s.dev.atTime h.t).now) (hw : (s.dev.atTime h.t).Waits x h)
    (hP : ∀ e, s.dev.answered e h m.opcode st body more → x.AfterAnswer e h.session.val → P e) : Completes c s P :=
  .of_reply hc ((hs.atTime h.t).hostMsg.trans hact) hts hw hP

/-- A message of ch. 18 acts as it is judged. -/
theorem Dev.actOn_of_upd {d : Dev} {s tag : Nat} {shadow sealed' : Bool} {back : Nat} {m : HostMsg} {st : Nat} {bs : List Byte} {more : Bool} {x : Dev}
    (h : d.updMessage s tag m = some (st, bs, more, x)) : d.actOn s tag shadow sealed' back m = x.respond s tag m.opcode d.now st bs more := by
  cases m with
  | attest | updManifest | updChunk | updStatus | updCancel | updActivate | updConfirm | keyEnrol | keyRevoke =>
    unfold Dev.actOn
    dsimp only
    rw [h]
  | _ => cases h

theorem Dev.updMessage_updStatus (d : Dev) (s tag : Nat) : d.updMessage s tag .updStatus = some (stOk, d.ownRec.bytes ++ d.bitmapBytes, false, d) := rfl

/-- The command of a message of ch. 18 whose effect leaves the host side alone. -/
theorem Completes.of_upd {c : Instr} {h : Hdr} {m : HostMsg} {s : State} {P : Dev → Prop} {x : Dev} {st : Nat} {body : List Byte} {more : Bool}
    {cs : List Nat} {fs : List Fld} (hc : hostRequest c = some (h, m)) (hs : s.dev.served h m.opcode)
    (hupd : ((s.dev.atTime h.t).heard h m).updMessage h.session.val h.tag.toNat m = some (st, body, more, x))
    (hx : ((s.dev.atTime h.t).heard h m).Agree cs fs x) (h91 : cs.contains Par.ringHead.group = false) (hnow : fs.contains .now = false)
    (hhost : fs.contains .host = false)
    (hP : ∀ e, s.dev.answered e h m.opcode st body more → x.AfterAnswer e h.session.val → P e) : Completes c s P := by
  have hw := (hs.atTime h.t).waits m
  exact .of_answer hc hs (Dev.actOn_of_upd hupd) hw.now (hw.agree hx h91 hnow hhost) hP

/-! ## What a request finds -/

theorem Dev.heard_lid (d : Dev) (h : Hdr) (m : HostMsg) : (d.heard h m).lid = d.lid := (d.heard_agree h m).2 .lid rfl

theorem Dev.heard_phase (d : Dev) (h : Hdr) (m : HostMsg) : (d.heard h m).phase = d.phase := (d.heard_agree h m).2 .phase rfl

theorem Dev.heard_get (d : Dev) (h : Hdr) (m : HostMsg) {p : Par} (i : Nat) (hp : p.small = true)
    (hg : ([0x90, 0x91] : List Nat).contains p.group = false) : (d.heard h m).get p i = d.get p i := (d.heard_agree h m).get p i hp hg

/-- The session's source is the same before and after its message is noted. -/
theorem Dev.heard_srcOf (d : Dev) (h : Hdr) (m : HostMsg) : (d.heard h m).srcOf h.session.val = d.srcOf h.session.val := by
  have hweave : (d.heard h m).weave = d.weave := (d.heard_agree h m).2 .weave rfl
  have hsess := (d.heard_sent h m).session
  rw [Dev.srcOf, Dev.srcOf, Dev.stakeNo, Dev.stakeNo, hweave]
  generalize (d.heard h m).sess h.session.val = y at *
  rw [hsess]

theorem Dev.heard_ownRec (d : Dev) (h : Hdr) (m : HostMsg) : (d.heard h m).ownRec = d.ownRec := Dev.ownRec_of_own (by rw [Dev.heard_lid])

theorem Dev.heard_bootRec (d : Dev) (h : Hdr) (m : HostMsg) : (d.heard h m).bootRec = d.bootRec := Dev.bootRec_of_boot (by rw [Dev.heard_lid])

theorem Dev.heard_alternate {d : Dev} (halt : d.recordsAlternate) (h : Hdr) (m : HostMsg) : (d.heard h m).recordsAlternate :=
  Dev.alternate_of_same halt (by rw [Dev.heard_lid]) (by rw [Dev.heard_lid])

theorem Dev.heard_trialOpen (d : Dev) (h : Hdr) (m : HostMsg) : (d.heard h m).trialOpen = d.trialOpen := by
  have hbeat : (d.heard h m).beatStart = d.beatStart := (d.heard_agree h m).2 .beatStart rfl
  rw [Dev.trialOpen, Dev.heard_lid, hbeat, Dev.heard_bootRec, Dev.trialOpen]

theorem Dev.heard_report (d : Dev) (h : Hdr) (m : HostMsg) (nonce : List Byte) : (d.heard h m).report nonce = d.report nonce := by
  have hnow : (d.heard h m).now = d.now := (d.heard_agree h m).2 .now rfl
  have hbeat : (d.heard h m).beatNo = d.beatNo := by rw [Dev.beatNo, Dev.heard_get _ _ _ _ rfl rfl, Dev.beatNo]
  unfold Dev.report Dev.anchored Dev.keySlot
  rw [Dev.heard_lid, Dev.heard_phase, hnow, hbeat, Dev.heard_get _ _ _ _ rfl rfl, Dev.heard_get _ _ _ _ rfl rfl, Dev.heard_get _ _ _ _ rfl rfl,
    Dev.heard_get _ _ _ _ rfl rfl, Dev.heard_get _ _ _ _ rfl rfl]

theorem Dev.AfterAnswer.lid {x e : Dev} {s : Nat} (h : x.AfterAnswer e s) : e.lid = x.lid := h.frame.2 .lid rfl

theorem Dev.AfterAnswer.ownRec {x e : Dev} {s : Nat} (h : x.AfterAnswer e s) : e.ownRec = x.ownRec := Dev.ownRec_of_own (by rw [h.lid])

theorem Dev.AfterAnswer.bootRec {x e : Dev} {s : Nat} (h : x.AfterAnswer e s) : e.bootRec = x.bootRec := Dev.bootRec_of_boot (by rw [h.lid])

end Sys2Proof.Machine
open Sys2Proof Sys2Proof.Machine

/-- Settles O40: the messages are answered at once with what they are judged by, and the device keeps what they do. -/
theorem attestAndStatus : Obligations.AttestAndStatus := by
  unfold Obligations.AttestAndStatus
  refine ⟨fun h nonce s hs hmin hmax => ?_, fun h nonce s hs hlen => ?_, fun h s hs => ?_, fun h s hs htrial halt => ?_, fun h s hs htrial => ?_⟩
  · have hjudged : ((s.dev.atTime h.t).heard h (.attest nonce)).attest nonce = (stOk, ((s.dev.atTime h.t).heard h (.attest nonce)).report nonce,
        ((s.dev.atTime h.t).heard h (.attest nonce)).inc 32 Par.lidReports 0) := if_neg (by omega)
    have hcounted : ((s.dev.atTime h.t).heard h (.attest nonce)).Agree [0xA0] [] (((s.dev.atTime h.t).heard h (.attest nonce)).inc 32 Par.lidReports 0) :=
      .inc rfl rfl .refl
    refine .of_upd (m := .attest nonce) rfl hs (congrArg (fun r : Nat × List Byte × Dev => some (r.1, r.2.1, false, r.2.2)) hjudged)
      hcounted rfl rfl rfl fun e hanswered hafter => ⟨?_, ?_, ?_⟩
    · rw [Dev.heard_report] at hanswered
      exact hanswered
    · rw [hafter.frame.get _ _ rfl rfl, Dev.get_inc_same _ _ _ _ (by decide), Dev.heard_get _ _ _ _ rfl rfl, Dev.atTime_get]
    · rw [hafter.lid, hcounted.2 .lid rfl, Dev.heard_lid, Dev.atTime_lid]
  · have hjudged : ((s.dev.atTime h.t).heard h (.attest nonce)).attest nonce = (stLength, [], (s.dev.atTime h.t).heard h (.attest nonce)) := if_pos hlen
    refine .of_upd (m := .attest nonce) rfl hs (congrArg (fun r : Nat × List Byte × Dev => some (r.1, r.2.1, false, r.2.2)) hjudged)
      (.refl (cs := []) (fs := [])) rfl rfl rfl fun e hanswered hafter => ⟨hanswered, ?_⟩
    rw [hafter.frame.get _ _ rfl rfl, Dev.heard_get _ _ _ _ rfl rfl, Dev.atTime_get]
  · refine .of_upd (m := .updStatus) rfl hs (Dev.updMessage_updStatus _ _ _) (.refl (cs := []) (fs := [])) rfl rfl rfl fun e hanswered hafter => ⟨?_, ?_⟩
    · rw [Dev.heard_ownRec, Dev.bitmapBytes, Dev.heard_lid] at hanswered
      exact hanswered
    · rw [hafter.lid, Dev.heard_lid, Dev.atTime_lid]
  · have hopen : ((s.dev.atTime h.t).heard h .updConfirm).trialOpen = true := ((s.dev.atTime h.t).heard_trialOpen h .updConfirm).trans htrial
    have hjudged : ((s.dev.atTime h.t).heard h .updConfirm).updMessage h.session.val h.tag.toNat .updConfirm
        = some (stOk, [], false, ((s.dev.atTime h.t).heard h .updConfirm).confirm) := if_pos hopen
    have hup : ((s.dev.atTime h.t).heard h .updConfirm).evtUp = true := Dev.evtUp_of_run ((Dev.heard_phase _ _ _).trans hs.1)
    obtain ⟨hended, -, -, hflag, -, -, hboot⟩ := ((s.dev.atTime h.t).heard h .updConfirm).confirm_confirms
    obtain ⟨hactive, hpending, hidle⟩ := hboot (Dev.heard_alternate (d := s.dev.atTime h.t) halt _ _)
    refine .of_upd (m := .updConfirm) rfl hs hjudged (Dev.confirm_frame _) rfl rfl rfl fun e hanswered hafter => ⟨hanswered, ?_⟩
    rw [hafter.lid, hafter.bootRec, hafter.ownRec, hactive, Dev.heard_lid]
    exact ⟨hended, rfl, hpending, hidle, hafter.flags _ (hflag hup)⟩
  · have hopen : ((s.dev.atTime h.t).heard h .updConfirm).trialOpen = false := ((s.dev.atTime h.t).heard_trialOpen h .updConfirm).trans htrial
    have hjudged : ((s.dev.atTime h.t).heard h .updConfirm).updMessage h.session.val h.tag.toNat .updConfirm
        = some (stBadState, [], false, (s.dev.atTime h.t).heard h .updConfirm) := if_neg (by rw [hopen]; decide)
    refine .of_upd (m := .updConfirm) rfl hs hjudged (.refl (cs := []) (fs := [])) rfl rfl rfl fun e hanswered hafter => ⟨hanswered, ?_⟩
    rw [hafter.lid, Dev.heard_lid, Dev.atTime_lid]

end

section
/-! PROOF. Ownership of an update and the commands of the owner keys (R408, R420, R423). -/

namespace Sys2Proof.Machine

/-! ## Giving an update up -/

theorem Dev.updIdle_idles {d : Dev} (halt : d.recordsAlternate) :
    d.updIdle.ownRec.state = 0 ∧ d.updIdle.lid.bitmap = 0 ∧ d.updIdle.lid.manifest = [] ∧ d.updIdle.lid.boot = d.lid.boot := by
  have hwritten : d.updIdle.ownRec = (d.ownWrite {}).ownRec := rfl
  rw [hwritten, Dev.ownRec_ownWrite halt]
  exact ⟨rfl, rfl, rfl, rfl⟩

/-- UPD_CANCEL of the owner, or of anyone where none is recorded (R420). -/
theorem Dev.updCancel_gives {d : Dev} {s : Nat} (hstate : d.ownRec.state = 1 ∨ d.ownRec.state = 2)
    (howner : d.ownRec.owned = true → d.ownRec.is (d.srcOf s) = true) : d.updCancel s = (stOk, d.updIdle) := by
  have hgo : ¬ (d.ownRec.owned && !(d.ownRec.is (d.srcOf s))) = true := by
    cases howned : d.ownRec.owned with
    | true => rw [howner howned]; decide
    | false => exact Bool.false_ne_true
  dsimp only [Dev.updCancel]
  rw [if_neg (by omega), if_neg hgo]

theorem Dev.updCancel_refuses {d : Dev} {s : Nat} (hstate : d.ownRec.state = 1 ∨ d.ownRec.state = 2) (howned : d.ownRec.owned = true)
    (hother : d.ownRec.is (d.srcOf s) = false) : d.updCancel s = (stNotOwner, d) := by
  dsimp only [Dev.updCancel]
  rw [if_neg (by omega), if_pos (by rw [howned, hother]; decide)]

/-! ## Activation -/

theorem Dev.judgeActivate_ok {d : Dev} {s mode : Nat} (hstate : d.ownRec.state = 2) (hmode : mode < 2)
    (howner : d.ownRec.owned = true → d.ownRec.is (d.srcOf s) = true) : d.judgeActivate s mode = stOk := by
  have hgo : ¬ (d.ownRec.owned && !(d.ownRec.is (d.srcOf s))) = true := by
    cases howned : d.ownRec.owned with
    | true => rw [howner howned]; decide
    | false => exact Bool.false_ne_true
  unfold Dev.judgeActivate
  extract_lets o
  rw [if_neg hgo, if_neg (not_not.mpr hstate), if_neg (by omega)]

theorem Dev.judgeActivate_other {d : Dev} {s : Nat} (mode : Nat) (howned : d.ownRec.owned = true) (hother : d.ownRec.is (d.srcOf s) = false) :
    d.judgeActivate s mode = stNotOwner := by
  unfold Dev.judgeActivate
  extract_lets o
  exact if_pos (by rw [howned, hother]; decide)

/-- An activation started: its operation waits for its outcome (R383, R423). -/
theorem Dev.activateStart_starts {d : Dev} (halt : d.recordsAlternate) (s tag mode : Nat) :
    let e := d.activateStart s tag mode
    e.ownRec.state = 3 ∧ e.lid.activating = true ∧ e.lid.whenStopped = (mode == 1) ∧ e.lid.boot = d.lid.boot
      ∧ (∃ o ∈ e.host.ops, o.session = s ∧ o.tag = tag ∧ o.kind = .activate) ∧ e.host.sess = d.host.sess ∧ e.host.rings = d.host.rings := by
  intro e
  have hwritten : e.ownRec = (d.ownWrite { d.ownRec with state := 3 }).ownRec := rfl
  rw [hwritten, Dev.ownRec_ownWrite halt]
  exact ⟨rfl, rfl, rfl, rfl, ⟨_, List.mem_append_right _ (List.mem_singleton.mpr rfl), rfl, rfl, rfl⟩, rfl, rfl⟩

theorem Dev.updMessage_updActivate {d : Dev} {s : Nat} (tag : Nat) {mode : Byte} (h : d.judgeActivate s mode.toNat = stOk) :
    d.updMessage s tag (.updActivate mode) = some (stOk, [], true, d.activateStart s tag mode.toNat) := by
  unfold Dev.updMessage
  dsimp only
  rw [if_pos h]

theorem Dev.updMessage_updActivate_refused {d : Dev} {s st : Nat} (tag : Nat) {mode : Byte} (h : d.judgeActivate s mode.toNat = st) (hst : st ≠ stOk) :
    d.updMessage s tag (.updActivate mode) = some (st, [], false, d.refuseUpd none) := by
  unfold Dev.updMessage
  dsimp only
  rw [h, if_neg hst]

/-! ## Owner keys -/

theorem Dev.updMessage_keyEnrol (d : Dev) (s tag : Nat) (x : List Byte) : d.updMessage s tag (.keyEnrol x)
    = some (d.judgeKey s true x, [], false, if d.judgeKey s true x = stOk then d.keyChange x else d) := rfl

theorem Dev.updMessage_keyRevoke (d : Dev) (s tag : Nat) (x : List Byte) : d.updMessage s tag (.keyRevoke x)
    = some (d.judgeKey s false x, [], false, if d.judgeKey s false x = stOk then d.keyChange x else d) := rfl

/-- A key command that passes its checks (R408): the slot it names, the epoch, and the key state extended into register 7. -/
theorem Dev.keyChange_changes (d : Dev) (x : List Byte) :
    let e := d.keyChange x
    e.keySlot (byteAt x 0) = (if byteAt x 1 % 4 = 0 then (0, []) else (byteAt x 1 % 4, slice x 16 97))
      ∧ (∀ k, k ≠ byteAt x 0 → e.keySlot k = d.keySlot k) ∧ e.lid.epoch = (d.lid.epoch + 1) % 2 ^ 32
      ∧ (d.evtUp = true → e.isOn Par.evtFlag evLidKeyChange = true) ∧ e.tally 7 = sha384 (d.tally 7 ++ sha384 e.keyState) := by
  generalize hr : d.keyChange x = r
  intro e
  subst e
  unfold Dev.keyChange at hr
  extract_lets u lid changed at hr
  have hslot : changed.keySlot (byteAt x 0) = (if u = 0 then (0, []) else (u, slice x 16 97)) := Tab.get_set_same _ _ _ _
  have hothers : ∀ k, k ≠ byteAt x 0 → changed.keySlot k = d.keySlot k := fun k hk => Tab.get_set_other _ _ _ _ _ hk
  have hsame : changed.lid.epoch = (d.lid.epoch + 1) % 2 ^ 32 ∧ changed.evtUp = d.evtUp ∧ changed.tally 7 = d.tally 7 := ⟨rfl, rfl, rfl⟩
  clear_value changed
  have hlid := changed.raise_lid evLidKeyChange oLid 0 false
  have hflag : d.evtUp = true → (changed.raise evLidKeyChange oLid).isOn Par.evtFlag evLidKeyChange = true :=
    fun hup => changed.isOn_raise _ _ _ (hsame.2.1.trans hup)
  generalize changed.raise evLidKeyChange oLid = told at *
  obtain ⟨h7, -, -, hkeys, hslots, hepoch, -, -⟩ := told.tallyKeys_extends
  have hflags : told.KeepsFlags told.tallyKeys := .frame (.refl told) (told.tallyExtend_frame 7 _) rfl
  rw [hr] at h7 hkeys hslots hepoch hflags
  have hkept : ∀ k, told.keySlot k = changed.keySlot k := fun k => by rw [Dev.keySlot, hlid, Dev.keySlot]
  have htally : told.tally 7 = d.tally 7 := by rw [Dev.tally, hlid, ← Dev.tally, hsame.2.2]
  refine ⟨by rw [hslots, hkept, hslot], fun k hk => by rw [hslots, hkept, hothers k hk], by rw [hepoch, hlid, hsame.1], fun hup => hflags _ (hflag hup), ?_⟩
  rw [h7, htally, hkeys]

theorem Dev.heard_judgeKey (d : Dev) (h : Hdr) (m : HostMsg) (enrol : Bool) (x : List Byte) :
    (d.heard h m).judgeKey h.session.val enrol x = d.judgeKey h.session.val enrol x := by
  have hlink : ((d.heard h m).sess h.session.val).link = (d.sess h.session.val).link := by rw [(d.heard_sent h m).session]
  have hstop : (d.heard h m).offOrParked = d.offOrParked := by
    have hkind : (d.heard h m).kind = d.kind := by rw [Dev.kind, Dev.heard_get _ _ _ _ rfl rfl, Dev.kind]
    rw [Dev.offOrParked, hkind, Dev.offOrParked]
  unfold Dev.judgeKey Dev.anchored Dev.ownerSigned Dev.keySlot
  rw [Dev.heard_lid, hlink, hstop]

/-- A key command that passes its checks changes the keys, one that does not changes nothing of the Lid. -/
theorem Dev.keyCommand_changes {d x e : Dev} {h : Hdr} {m : HostMsg} {bs : List Byte} {st : Nat} (hrun : d.phase = .run)
    (hx : x = if st = stOk then (d.heard h m).keyChange bs else d.heard h m) (hafter : x.AfterAnswer e h.session.val) :
    if st = stOk then
      e.keySlot (byteAt bs 0) = (if byteAt bs 1 % 4 = 0 then (0, []) else (byteAt bs 1 % 4, slice bs 16 97))
        ∧ (∀ k, k ≠ byteAt bs 0 → e.keySlot k = d.keySlot k) ∧ e.lid.epoch = (d.lid.epoch + 1) % 2 ^ 32
        ∧ e.isOn Par.evtFlag evLidKeyChange = true ∧ e.tally 7 = sha384 (d.tally 7 ++ sha384 e.keyState)
    else e.lid = d.lid := by
  have hlid := d.heard_lid h m
  have hkey : ∀ k, (d.heard h m).keySlot k = d.keySlot k := fun k => by rw [Dev.keySlot, hlid, Dev.keySlot]
  have htally : (d.heard h m).tally 7 = d.tally 7 := by rw [Dev.tally, hlid, Dev.tally]
  by_cases hst : st = stOk
  · rw [if_pos hst] at hx ⊢
    obtain ⟨hslot, hothers, hepoch, hflag, h7⟩ := (d.heard h m).keyChange_changes bs
    rw [← hx] at hslot hothers hepoch hflag h7
    have hkept : ∀ k, e.keySlot k = x.keySlot k := fun k => by rw [Dev.keySlot, hafter.lid, Dev.keySlot]
    have hstays : e.tally 7 = x.tally 7 := by rw [Dev.tally, hafter.lid, Dev.tally]
    refine ⟨by rw [hkept, hslot], fun k hk => by rw [hkept, hothers k hk, hkey], by rw [hafter.lid, hepoch, hlid],
      hafter.flags _ (hflag (Dev.evtUp_of_run (Eq.trans (d.heard_phase h m) hrun))), ?_⟩
    rw [hstays, h7, htally, Dev.keyState_of_lid hafter.lid]
  · rw [if_neg hst] at hx ⊢
    rw [hafter.lid, hx, hlid]

/-- A revocation names no usage (R408). -/
theorem Dev.judgeKey_revoke {d : Dev} {k : Nat} {x : List Byte} (h : d.judgeKey k false x = stOk) : byteAt x 1 = 0 := by
  by_contra hne
  unfold Dev.judgeKey at h
  extract_lets key auth unsignedOk at h
  split at h
  · exact absurd h (by decide)
  · rw [if_pos (Or.inr (by simpa using hne))] at h
    exact absurd h (by decide)

end Sys2Proof.Machine

open Sys2Proof Sys2Proof.Machine

/-- Settles O41: the source is judged as it stands at the receipt; what it may do goes into the records, and into an operation with an outcome. -/
theorem updateOwnership : Obligations.UpdateOwnership := by
  unfold Obligations.UpdateOwnership
  refine ⟨fun h s hs halt hstate howner => ?_, fun h s hs hstate howned hother => ?_, fun h mode s hs halt hstate hmode howner => ?_,
    fun h mode s hs howned hother => ?_⟩
  · have hown := (s.dev.atTime h.t).heard_ownRec h .updCancel
    have hsrc := (s.dev.atTime h.t).heard_srcOf h .updCancel
    have hlid := (s.dev.atTime h.t).heard_lid h .updCancel
    obtain ⟨hidle, hbitmap, hmanifest, hboot⟩ := Dev.updIdle_idles (Dev.heard_alternate (d := s.dev.atTime h.t) halt h .updCancel)
    have hgives := Dev.updCancel_gives (d := (s.dev.atTime h.t).heard h .updCancel) (s := h.session.val) (by rw [hown]; exact hstate)
      (by rw [hown, hsrc]; exact howner)
    refine .of_upd (m := .updCancel) rfl hs (congrArg (fun r : Nat × Dev => some (r.1, [], false, r.2)) hgives) (Dev.updIdle_frame _) rfl rfl rfl
      fun e hanswered hafter => ⟨hanswered, ?_⟩
    rw [hafter.ownRec, hafter.lid, hboot, hlid]
    exact ⟨hidle, hbitmap, hmanifest, rfl⟩
  · have hown := (s.dev.atTime h.t).heard_ownRec h .updCancel
    have hsrc := (s.dev.atTime h.t).heard_srcOf h .updCancel
    have hlid := (s.dev.atTime h.t).heard_lid h .updCancel
    have hrefuses := Dev.updCancel_refuses (d := (s.dev.atTime h.t).heard h .updCancel) (s := h.session.val) (by rw [hown]; exact hstate)
      (by rw [hown]; exact howned) (by rw [hown, hsrc]; exact hother)
    refine .of_upd (m := .updCancel) rfl hs (congrArg (fun r : Nat × Dev => some (r.1, [], false, r.2)) hrefuses) (.refl (cs := []) (fs := [])) rfl rfl rfl
      fun e hanswered hafter => ⟨hanswered, ?_⟩
    rw [hafter.lid, hlid, Dev.atTime_lid]
  · have hown := (s.dev.atTime h.t).heard_ownRec h (.updActivate mode)
    have hsrc := (s.dev.atTime h.t).heard_srcOf h (.updActivate mode)
    have hlid := (s.dev.atTime h.t).heard_lid h (.updActivate mode)
    have hwaits := (hs.atTime h.t).waits (.updActivate mode)
    have hjudge := Dev.judgeActivate_ok (d := (s.dev.atTime h.t).heard h (.updActivate mode)) (s := h.session.val) (mode := mode.toNat)
      (by rw [hown]; exact hstate) hmode (by rw [hown, hsrc]; exact howner)
    obtain ⟨hstarted, hact, hwhen, hboot, hop, hsess, hrings⟩ :=
      Dev.activateStart_starts (Dev.heard_alternate (d := s.dev.atTime h.t) halt h (.updActivate mode)) h.session.val h.tag.toNat mode.toNat
    have hstays := hwaits.step (Dev.activateStart_frame _ h.session.val h.tag.toNat mode.toNat) rfl rfl (congrArg (fun t => t.get (fun _ => {}) h.session.val) hsess)
      (congrArg (fun t => t.get (fun _ => {}) (16 + h.session.val)) hrings)
    refine .of_answer (m := .updActivate mode) rfl hs (Dev.actOn_of_upd (Dev.updMessage_updActivate _ hjudge)) hwaits.now hstays
      fun e hanswered hafter => ⟨hanswered, ?_⟩
    rw [hafter.ownRec, hafter.lid, hafter.ops, hboot, hlid]
    exact ⟨hstarted, hact, hwhen, hop, rfl⟩
  · have hown := (s.dev.atTime h.t).heard_ownRec h (.updActivate mode)
    have hsrc := (s.dev.atTime h.t).heard_srcOf h (.updActivate mode)
    have hlid := (s.dev.atTime h.t).heard_lid h (.updActivate mode)
    have hjudge := Dev.judgeActivate_other (d := (s.dev.atTime h.t).heard h (.updActivate mode)) (s := h.session.val) mode.toNat
      (by rw [hown]; exact howned) (by rw [hown, hsrc]; exact hother)
    have hframe := ((s.dev.atTime h.t).heard h (.updActivate mode)).refuseUpd_frame none
    have hcount : (((s.dev.atTime h.t).heard h (.updActivate mode)).refuseUpd none).get Par.updRefusals 0
        = (((s.dev.atTime h.t).heard h (.updActivate mode)).get Par.updRefusals 0 + 1) % 2 ^ 32 := Dev.get_inc_same _ _ _ _ (by decide)
    refine .of_upd (m := .updActivate mode) rfl hs (Dev.updMessage_updActivate_refused _ hjudge (by decide)) hframe rfl rfl rfl
      fun e hanswered hafter => ⟨hanswered, ?_, ?_⟩
    · rw [hafter.lid, hframe.2 .lid rfl, hlid, Dev.atTime_lid]
    · rw [hafter.frame.get _ _ rfl rfl, hcount, Dev.heard_get _ _ _ _ rfl rfl, Dev.atTime_get]

/-- Settles O43: the judgement is the same at the receipt as before it, and decides whether the keys change. -/
theorem keyCommands : Obligations.KeyCommands := by
  unfold Obligations.KeyCommands
  refine ⟨fun h x s hs => ?_, fun h x s hs => ?_⟩
  · have hjudge := (s.dev.atTime h.t).heard_judgeKey h (.keyEnrol x) true x
    have hframe : ((s.dev.atTime h.t).heard h (.keyEnrol x)).Agree [0xA0, 0xC0] [.evt, .lid]
        (if ((s.dev.atTime h.t).heard h (.keyEnrol x)).judgeKey h.session.val true x = stOk then ((s.dev.atTime h.t).heard h (.keyEnrol x)).keyChange x
          else (s.dev.atTime h.t).heard h (.keyEnrol x)) := .ite (fun _ => Dev.keyChange_frame _ _) (fun _ => .refl)
    refine .of_upd (m := .keyEnrol x) rfl hs (Dev.updMessage_keyEnrol _ _ _ _) hframe rfl rfl rfl fun e hanswered hafter => ?_
    rw [hjudge] at hanswered hafter
    exact ⟨hanswered, Dev.keyCommand_changes (d := s.dev.atTime h.t) hs.1 rfl hafter⟩
  · have hjudge := (s.dev.atTime h.t).heard_judgeKey h (.keyRevoke x) false x
    have hframe : ((s.dev.atTime h.t).heard h (.keyRevoke x)).Agree [0xA0, 0xC0] [.evt, .lid]
        (if ((s.dev.atTime h.t).heard h (.keyRevoke x)).judgeKey h.session.val false x = stOk then ((s.dev.atTime h.t).heard h (.keyRevoke x)).keyChange x
          else (s.dev.atTime h.t).heard h (.keyRevoke x)) := .ite (fun _ => Dev.keyChange_frame _ _) (fun _ => .refl)
    refine .of_upd (m := .keyRevoke x) rfl hs (Dev.updMessage_keyRevoke _ _ _ _) hframe rfl rfl rfl fun e hanswered hafter => ?_
    rw [hjudge] at hanswered hafter
    have hchanges := Dev.keyCommand_changes (d := s.dev.atTime h.t) hs.1 rfl hafter
    refine ⟨hanswered, ?_⟩
    by_cases hst : s.dev.judgeKey h.session.val false x = stOk
    · rw [if_pos (show (s.dev.atTime h.t).judgeKey h.session.val false x = stOk from hst), Dev.judgeKey_revoke hst, if_pos rfl] at hchanges
      rw [if_pos hst]
      exact hchanges
    · rw [if_neg (show ¬ (s.dev.atTime h.t).judgeKey h.session.val false x = stOk from hst)] at hchanges
      rw [if_neg hst]
      exact hchanges

end

section
/-! PROOF. Manifests and chunks of an update (R419, R420, R422). -/

namespace Sys2Proof.Machine

/-! ## Parts of a manifest -/

theorem joinParts_one (off : Nat) {data : List Byte} (hdata : data ≠ []) : joinParts [(off, data)] 1 [] = if off = 0 then data else [] := by
  have hlen := List.length_pos_of_ne_nil hdata
  by_cases hoff : off = 0
  · subst hoff
    simp [joinParts, hlen]
  · simp [joinParts, hoff]

/-- The manifest in hand is judged by the keys and the fuses. -/
theorem Dev.manifestFault_of_keys {d e : Dev} (hkeys : e.lid.keys = d.lid.keys) (hfuses : e.lid.fuses = d.lid.fuses) (m : List Byte) :
    e.manifestFault m = d.manifestFault m := by
  have hkey : ∀ k, e.keySlot k = d.keySlot k := fun k => by rw [Dev.keySlot, hkeys, Dev.keySlot]
  have hanchored : e.anchored = d.anchored := by simp only [Dev.anchored, hkey]
  have hsigned : ∀ k digest sig, e.ownerSigned k digest sig = d.ownerSigned k digest sig := fun k digest sig => by simp only [Dev.ownerSigned, hkey]
  have hsign : ∀ bs cert sig arc mask, e.signFault bs cert sig arc mask = d.signFault bs cert sig arc mask := fun bs cert sig arc mask => by
    unfold Dev.signFault
    rw [hanchored, hsigned, hfuses]
  unfold Dev.manifestFault
  extract_lets c
  rw [hsign]

theorem Dev.setAssem_assem (d : Dev) (s : Nat) (v : Option Assem) : (d.setAssem s v).lid.assem.get (fun _ => none) s = v := Tab.get_set_same _ _ _ _

theorem Dev.setAssem_lid (d : Dev) (s : Nat) (v : Option Assem) : (d.setAssem s v).lid.own = d.lid.own ∧ (d.setAssem s v).lid.boot = d.lid.boot
    ∧ (d.setAssem s v).lid.manifest = d.lid.manifest ∧ (d.setAssem s v).lid.keys = d.lid.keys ∧ (d.setAssem s v).lid.fuses = d.lid.fuses :=
  ⟨rfl, rfl, rfl, rfl, rfl⟩

theorem Dev.setAssem_srcOf (d : Dev) (s k : Nat) (v : Option Assem) : (d.setAssem s v).srcOf k = d.srcOf k := rfl

theorem Dev.updMessage_updManifest {d e : Dev} {s st : Nat} {bs : List Byte} (tag : Nat) {total off : BitVec 32} {data : List Byte}
    (h : d.updManifest s total.toNat off.toNat data = (st, bs, e)) : d.updMessage s tag (.updManifest total off data) = some (st, bs, false, e) := by
  unfold Dev.updMessage
  dsimp only
  rw [h]

theorem Dev.updMessage_updChunk {d e : Dev} {s st : Nat} (tag : Nat) {i : BitVec 16} {half : Byte} {data : List Byte}
    (h : d.updChunk s i.toNat half.toNat data = (st, e)) : d.updMessage s tag (.updChunk i half data) = some (st, [], false, e) := by
  unfold Dev.updMessage
  dsimp only
  rw [h]

/-- A first part of a manifest, no other manifest being assembled. -/
theorem Dev.updManifest_first {d : Dev} {s total off : Nat} {data : List Byte} (hdata : data ≠ []) (hmax : data.length ≤ 4072)
    (hend : off + data.length ≤ total) (hnone : ∀ k < 80, d.lid.assem.get (fun _ => none) k = none) (hs : s < 80) :
    let m := if off = 0 then data else []
    let e := d.setAssem s none
    (m.length < total → d.updManifest s total off data = (stOk, [], d.setAssem s (some { total := total, parts := [(off, data)] })))
      ∧ (total ≤ m.length → ∀ st r, e.manifestFault (m.take total) = some (st, r) → d.updManifest s total off data = (st, [], e.refuseUpd (some r)))
      ∧ (total ≤ m.length → e.manifestFault (m.take total) = none → d.updManifest s total off data = e.acceptManifest (e.srcOf s) (m.take total)) := by
  have hlen := List.length_pos_of_ne_nil hdata
  have hothers : (List.range 80).filter (fun k => k != s && (d.lid.assem.get (fun _ => none) k).isSome) = [] := by
    refine List.filter_eq_nil_iff.mpr fun k hk => ?_
    rw [hnone k (List.mem_range.mp hk)]
    simp
  intro m e
  unfold Dev.updManifest
  extract_lets asm others x' x m' cut
  have hgo : ¬ ((asm s).isNone = true ∧ 4 ≤ others.length) := by
    rw [show others = [] from hothers]
    simp
  have hx : x' = { total := total } := by
    have hasm : asm s = none := hnone s hs
    simp only [x', hasm]
  have hjoin : m' = m := by
    have hx' : x.parts = [(off, data)] := by simp [x, hx]
    simp only [m', hx', m, List.reverse_singleton, List.length_singleton]
    exact joinParts_one off hdata
  have hparts : x = { total := total, parts := [(off, data)] } := by simp [x, hx]
  have hcut : cut = m.take total := by rw [show cut = m'.take total from rfl, hjoin]
  rw [if_neg (by omega), if_neg (by omega), if_neg hgo, hcut, hjoin, hparts]
  refine ⟨fun h => if_pos h, fun h st r hfault => ?_, fun h hfault => ?_⟩
  · rw [if_neg (by omega)]
    rw [hfault]
  · rw [if_neg (by omega)]
    rw [hfault]

/-- The ownership record of a manifest and its source (R420). -/
def manifestRecord (src : Src) (m : List Byte) : OwnRec :=
  { state := 1, link := src.link, stake := src.stake, fp := src.fp, digest := sha384 m, version := leAt m 0x08 4, arc := leAt m 0x0C 2, count := manC m }

/-- A manifest accepted while no update is under way (R420): its source is the owner. -/
theorem Dev.acceptManifest_records {d : Dev} (halt : d.recordsAlternate) (hstate : d.ownRec.state = 0) (src : Src) (m : List Byte) :
    let r := d.acceptManifest src m
    r.1 = stOk ∧ r.2.1 = [] ∧ r.2.2.ownRec.state = 1 ∧ r.2.2.ownRec.is src = decide (src.link ≠ 255) ∧ r.2.2.ownRec.digest = sha384 m
      ∧ r.2.2.lid.manifest = m ∧ r.2.2.lid.bitmap = 0 ∧ (d.evtUp = true → r.2.2.isOn Par.evtFlag evUpdManifestAccepted = true) := by
  have haccept : d.acceptManifest src m = (stOk, [], (d.ownManifest src m (sha384 m) false).raise evUpdManifestAccepted oUpd) := if_pos hstate
  have hwritten : (d.ownManifest src m (sha384 m) false).ownRec = (d.ownWrite (manifestRecord src m)).ownRec := rfl
  rw [Dev.ownRec_ownWrite halt] at hwritten
  have hsame : (d.ownManifest src m (sha384 m) false).lid.manifest = m ∧ (d.ownManifest src m (sha384 m) false).lid.bitmap = 0
      ∧ (d.ownManifest src m (sha384 m) false).evtUp = d.evtUp := ⟨rfl, rfl, rfl⟩
  intro r
  subst r
  rw [haccept]
  generalize d.ownManifest src m (sha384 m) false = owned at *
  have hlid := owned.raise_lid evUpdManifestAccepted oUpd 0 false
  dsimp only
  rw [Dev.ownRec_of_own (congrArg LidSt.own hlid), hwritten, hlid]
  refine ⟨rfl, rfl, rfl, ?_, rfl, hsame.1, hsame.2.1, fun hup => owned.isOn_raise _ _ _ (hsame.2.2.trans hup)⟩
  by_cases hlink : src.link = 255 <;> simp [OwnRec.is, OwnRec.owned, manifestRecord, hlink]

/-- A manifest complete in one part, while no update is under way (R419, R420). -/
theorem Dev.updManifest_whole {d : Dev} {s total : Nat} {data : List Byte} (halt : d.recordsAlternate) (hstate : d.ownRec.state = 0) (hdata : data ≠ [])
    (hmax : data.length ≤ 4072) (hwhole : data.length = total) (hnone : ∀ k < 80, d.lid.assem.get (fun _ => none) k = none) (hs : s < 80) :
    (∀ st r, d.manifestFault data = some (st, r) → ∃ e, d.updManifest s total 0 data = (st, [], e) ∧ d.Agree [0xA1, 0xC0] [.evt, .lid] e
        ∧ e.lid.own = d.lid.own ∧ e.lid.manifest = d.lid.manifest
        ∧ e.get Par.updRefusals 0 = (d.get Par.updRefusals 0 + 1) % 2 ^ 32 ∧ e.get Par.updLastRefusal 0 = r % 2 ^ 64)
      ∧ (d.manifestFault data = none → ∃ e, d.updManifest s total 0 data = (stOk, [], e) ∧ d.Agree [0xA1, 0xC0] [.evt, .lid] e ∧ e.ownRec.state = 1
        ∧ e.ownRec.is (d.srcOf s) = decide ((d.srcOf s).link ≠ 255) ∧ e.ownRec.digest = sha384 data
        ∧ e.lid.manifest = data ∧ e.lid.bitmap = 0 ∧ (d.evtUp = true → e.isOn Par.evtFlag evUpdManifestAccepted = true)) := by
  obtain ⟨-, hrefused, haccepted⟩ := Dev.updManifest_first (off := 0) hdata hmax (Nat.le_of_eq (by rw [Nat.zero_add, hwhole])) hnone hs
  have hframe := d.updManifest_frame s total 0 data
  obtain ⟨hown, hboot, hmanifest, hkeys, hfuses⟩ := d.setAssem_lid s none
  rw [if_pos rfl, List.take_of_length_le (by omega), Dev.manifestFault_of_keys hkeys hfuses] at hrefused haccepted
  refine ⟨fun st r hfault => ?_, fun hfault => ?_⟩
  · have hend := hrefused (by omega) st r hfault
    rw [hend] at hframe
    have hlid : ((d.setAssem s none).refuseUpd (some r)).lid = (d.setAssem s none).lid := (Dev.refuseUpd_frame _ _).2 .lid rfl
    have hcount : ((d.setAssem s none).refuseUpd (some r)).get Par.updRefusals 0 = ((d.setAssem s none).get Par.updRefusals 0 + 1) % 2 ^ 32 :=
      (Dev.get_put_apart _ _ _ _ rfl).trans (Dev.get_inc_same _ _ _ _ (by decide))
    have hreason : ((d.setAssem s none).refuseUpd (some r)).get Par.updLastRefusal 0 = r % 2 ^ 64 := Dev.get_put_same _ _ _ _
    refine ⟨_, hend, hframe, by rw [hlid, hown], by rw [hlid, hmanifest], ?_, hreason⟩
    rw [hcount, (d.setAssem_frame s none).get _ _ rfl rfl]
  · have hend := haccepted (by omega) hfault
    obtain ⟨hst, hbytes, hrest⟩ := Dev.acceptManifest_records (Dev.alternate_of_same halt hboot hown)
      (by rw [Dev.ownRec_of_own hown]; exact hstate) ((d.setAssem s none).srcOf s) data
    rw [hend] at hframe
    rw [d.setAssem_srcOf s s none] at *
    exact ⟨_, hend.trans (Prod.ext hst (Prod.ext hbytes rfl)), hframe, hrest⟩

/-! ## Chunks -/

/-- A chunk of a source that may send it, of the manifest in hand, not written yet. -/
structure Dev.ChunkDue (d : Dev) (s i : Nat) : Prop where
  state : d.ownRec.state = 1
  source : d.ownRec.is (d.srcOf s) = true
  manifest : d.lid.manifest ≠ []
  index : i < manC d.lid.manifest
  unwritten : bit d.lid.bitmap i = false
  unmarked : d.lid.marking.get (fun _ => []) i = []
  second : d.lid.halves.get (fun _ => []) (2 * i + 1) = []

/-- The device with the first half of a chunk in hand. -/
def Dev.holdHalf (d : Dev) (i : Nat) (data : List Byte) : Dev :=
  { d with lid := { d.lid with halves := d.lid.halves.set (fun _ => []) (2 * i) data } }

/-- The device with no half of a chunk in hand. -/
def Dev.dropHalves (d : Dev) (i : Nat) : Dev :=
  { d with lid := { d.lid with halves := (d.lid.halves.set (fun _ => []) (2 * i) []).set (fun _ => []) (2 * i + 1) [] } }

/-- The device with a verified chunk to be written and marked. -/
def Dev.markChunk (d : Dev) (i : Nat) (data : List Byte) : Dev :=
  { d with lid := { d.lid with marking := d.lid.marking.set (fun _ => []) i data } }

theorem Dev.holdHalf_agree (d : Dev) (i : Nat) (data : List Byte) : d.Agree [] [.lid] (d.holdHalf i data) := .upd_lid rfl .refl

theorem Dev.holdHalf_halves (d : Dev) (i : Nat) (data : List Byte) : (d.holdHalf i data).lid.halves.get (fun _ => []) (2 * i) = data :=
  Tab.get_set_same _ _ _ _

theorem Dev.holdHalf_marking (d : Dev) (i : Nat) (data : List Byte) : (d.holdHalf i data).lid.marking = d.lid.marking := rfl

theorem Dev.markChunk_agree (d : Dev) (i : Nat) (data : List Byte) : d.Agree [] [.lid] (((d.holdHalf i data).dropHalves i).markChunk i data) :=
  .upd_lid rfl (.upd_lid rfl (.upd_lid rfl .refl))

theorem Dev.markChunk_marks (d : Dev) (i : Nat) (data : List Byte) :
    (((d.holdHalf i data).dropHalves i).markChunk i data).lid.marking.get (fun _ => []) i = data
      ∧ (((d.holdHalf i data).dropHalves i).markChunk i data).lid.halves.get (fun _ => []) (2 * i) = []
      ∧ (((d.holdHalf i data).dropHalves i).markChunk i data).lid.bitmap = d.lid.bitmap := by
  have hhalves : (((d.holdHalf i data).dropHalves i).markChunk i data).lid.halves
      = ((d.holdHalf i data).lid.halves.set (fun _ => []) (2 * i) []).set (fun _ => []) (2 * i + 1) [] := rfl
  rw [hhalves, Tab.get_set_other _ _ (2 * i + 1) (2 * i) _ (by omega), Tab.get_set_same]
  exact ⟨Tab.get_set_same _ _ _ _, rfl, rfl⟩

theorem Dev.rejectChunk_agree (d : Dev) (i : Nat) (data : List Byte) :
    d.Agree [0xA1] [.lid] (((d.holdHalf i data).dropHalves i).inc 32 Par.updChunkRejects 0) :=
  .inc rfl rfl (.upd_lid rfl (.upd_lid rfl .refl))

theorem Dev.rejectChunk_rejects (d : Dev) (i : Nat) (data : List Byte) :
    (((d.holdHalf i data).dropHalves i).inc 32 Par.updChunkRejects 0).lid.marking = d.lid.marking
      ∧ (((d.holdHalf i data).dropHalves i).inc 32 Par.updChunkRejects 0).get Par.updChunkRejects 0 = (d.get Par.updChunkRejects 0 + 1) % 2 ^ 32 :=
  ⟨rfl, Dev.get_inc_same _ _ _ _ (by decide)⟩

/-- A first half of a chunk that is due (R422): kept while the second is missing, else the chunk is judged by its digest. -/
theorem Dev.ChunkDue.takes {d : Dev} {s i : Nat} (hc : d.ChunkDue s i) {data : List Byte} (hdata : data ≠ [])
    (hlen : data.length = min 2048 (manChunkLen d.lid.manifest i)) :
    d.updChunk s i 0 data = if 2048 < manChunkLen d.lid.manifest i then (stOk, d.holdHalf i data)
      else if sha384 data = slice d.lid.manifest (0x500 + 48 * i) 48 then (stOk, ((d.holdHalf i data).dropHalves i).markChunk i data)
      else (stAuth, ((d.holdHalf i data).dropHalves i).inc 32 Par.updChunkRejects 0) := by
  obtain ⟨hstate, hsource, hmanifest, hindex, hunwritten, hunmarked, hsecond⟩ := hc
  have h0 : (d.lid.halves.set (fun _ => []) (2 * i + 0) data).get (fun _ => []) (2 * i) = data := Tab.get_set_same _ _ _ _
  have h1 : (d.lid.halves.set (fun _ => []) (2 * i + 0) data).get (fun _ => []) (2 * i + 1) = [] :=
    (Tab.get_set_other _ _ _ _ _ (by omega)).trans hsecond
  have hpos := List.length_pos_of_ne_nil hdata
  unfold Dev.updChunk
  dsimp only
  rw [if_neg (by omega), if_neg (by omega), if_neg (by rw [hsource]; exact Bool.false_ne_true), if_neg hmanifest, if_neg (by omega),
    if_neg (by rw [if_pos rfl]; omega), if_neg (by rw [hunwritten, hunmarked]; simp), h0, h1, List.append_nil]
  by_cases hlong : 2048 < manChunkLen d.lid.manifest i
  · rw [if_pos (Or.inr ⟨hlong, rfl⟩), if_pos hlong]
    rfl
  · rw [if_neg (by simp [hdata, hlong]), if_neg hlong]
    rfl

end Sys2Proof.Machine

open Sys2Proof Sys2Proof.Machine

/-- Settles O42: parts and halves are kept until they make a whole, which is then judged, recorded or refused. -/
theorem manifestsAndChunks : Obligations.ManifestsAndChunks := by
  unfold Obligations.ManifestsAndChunks
  refine ⟨⟨fun h total off data s hs hdata hmax hend hpart hnone => ?_, fun h total data s hs hdata hmax hwhole hnone hstate halt => ?_⟩,
    fun h i data s hs hstate hsource hmanifest hindex hunwritten hunmarked hsecond hdata => ?_, fun h i half data s hs hstate => ?_⟩
  · have hlid := (s.dev.atTime h.t).heard_lid h (.updManifest total off data)
    obtain ⟨hkept, -, -⟩ := Dev.updManifest_first (d := (s.dev.atTime h.t).heard h (.updManifest total off data)) hdata hmax hend
      (by rw [hlid]; exact hnone) (Nat.lt_trans h.session.isLt (by decide))
    have hshort : (if off.toNat = 0 then data else []).length < total.toNat := by
      have hlen := List.length_pos_of_ne_nil hdata
      split
      · omega
      · rw [List.length_nil]
        omega
    refine .of_upd rfl hs (Dev.updMessage_updManifest _ (hkept hshort)) (Dev.setAssem_frame _ _ _) rfl rfl rfl fun e hanswered hafter => ⟨hanswered, ?_⟩
    obtain ⟨hown, -, hmanifest, -, -⟩ := Dev.setAssem_lid ((s.dev.atTime h.t).heard h (.updManifest total off data)) h.session.val
      (some { total := total.toNat, parts := [(off.toNat, data)] })
    rw [hafter.lid, Dev.setAssem_assem, hown, hmanifest, hlid]
    exact ⟨rfl, rfl, rfl⟩
  · have hlid := (s.dev.atTime h.t).heard_lid h (.updManifest total 0 data)
    have hsrc := (s.dev.atTime h.t).heard_srcOf h (.updManifest total 0 data)
    have hup : ((s.dev.atTime h.t).heard h (.updManifest total 0 data)).evtUp = true := Dev.evtUp_of_run ((Dev.heard_phase _ _ _).trans hs.1)
    have hfault : ((s.dev.atTime h.t).heard h (.updManifest total 0 data)).manifestFault data = s.dev.manifestFault data :=
      Dev.manifestFault_of_keys (by rw [hlid, Dev.atTime_lid]) (by rw [hlid, Dev.atTime_lid]) data
    obtain ⟨hrefused, haccepted⟩ := Dev.updManifest_whole (Dev.heard_alternate (d := s.dev.atTime h.t) halt h (.updManifest total 0 data))
      (by rw [Dev.heard_ownRec]; exact hstate) hdata hmax hwhole (by rw [hlid]; exact hnone) (Nat.lt_trans h.session.isLt (by decide))
    rw [hfault] at hrefused haccepted
    cases hjudged : s.dev.manifestFault data with
    | some f =>
      obtain ⟨x, hend, hframe, hown, hmanifest, hcount, hreason⟩ := hrefused f.1 f.2 hjudged
      refine .of_upd rfl hs (Dev.updMessage_updManifest _ hend) hframe rfl rfl rfl fun e hanswered hafter => ⟨hanswered, ?_⟩
      rw [hafter.lid, hown, hmanifest, hlid, hafter.frame.get _ _ rfl rfl, hafter.frame.get _ _ rfl rfl, hcount, hreason, Dev.heard_get _ _ _ _ rfl rfl]
      exact ⟨rfl, rfl, rfl, rfl⟩
    | none =>
      obtain ⟨x, hend, hframe, hrecorded, howner, hdigest, hmanifest, hbitmap, hflag⟩ := haccepted hjudged
      rw [hsrc] at howner
      refine .of_upd rfl hs (Dev.updMessage_updManifest _ hend) hframe rfl rfl rfl fun e hanswered hafter => ⟨hanswered, ?_⟩
      rw [hafter.lid, hafter.ownRec]
      exact ⟨hrecorded, howner, hdigest, hmanifest, hbitmap, hafter.flags _ (hflag hup)⟩
  · intro len good
    have hlid := (s.dev.atTime h.t).heard_lid h (.updChunk i 0 data)
    have hdue : ((s.dev.atTime h.t).heard h (.updChunk i 0 data)).ChunkDue h.session.val i.toNat := by
      refine ⟨by rw [Dev.heard_ownRec]; exact hstate, by rw [Dev.heard_ownRec, Dev.heard_srcOf]; exact hsource, ?_, ?_, ?_, ?_, ?_⟩ <;> rw [hlid] <;> assumption
    have htakes := fun hlen => hdue.takes hdata hlen
    rw [hlid] at htakes
    refine ⟨fun hlong hhalf => ?_, fun hwhole hshort hgood => ?_, fun hwhole hshort hbad => ?_⟩
    · have hheld := (htakes (by rw [hhalf]; exact (Nat.min_eq_left (Nat.le_of_lt hlong)).symm)).trans (if_pos hlong)
      refine .of_upd rfl hs (Dev.updMessage_updChunk _ hheld) (Dev.holdHalf_agree _ _ _) rfl rfl rfl fun e hanswered hafter => ⟨hanswered, ?_⟩
      rw [hafter.lid, Dev.holdHalf_halves, Dev.holdHalf_marking, hlid]
      exact ⟨rfl, rfl⟩
    · have hmarked := (htakes (by rw [hwhole]; exact (Nat.min_eq_right hshort).symm)).trans ((if_neg (Nat.not_lt.mpr hshort)).trans (if_pos hgood))
      refine .of_upd rfl hs (Dev.updMessage_updChunk _ hmarked) (Dev.markChunk_agree _ _ _) rfl rfl rfl fun e hanswered hafter => ⟨hanswered, ?_⟩
      rw [hafter.lid, (Dev.markChunk_marks _ _ _).1, (Dev.markChunk_marks _ _ _).2.1, (Dev.markChunk_marks _ _ _).2.2, hlid]
      exact ⟨rfl, rfl, rfl⟩
    · have hrejected := (htakes (by rw [hwhole]; exact (Nat.min_eq_right hshort).symm)).trans ((if_neg (Nat.not_lt.mpr hshort)).trans (if_neg hbad))
      refine .of_upd rfl hs (Dev.updMessage_updChunk _ hrejected) (Dev.rejectChunk_agree _ _ _) rfl rfl rfl fun e hanswered hafter => ⟨hanswered, ?_⟩
      obtain ⟨hmarking, hcount⟩ := ((s.dev.atTime h.t).heard h (.updChunk i 0 data)).rejectChunk_rejects i.toNat data
      rw [hafter.lid, hmarking, hafter.frame.get _ _ rfl rfl, hcount, hlid, Dev.heard_get _ _ _ _ rfl rfl]
      exact ⟨rfl, rfl⟩
  · have hjudged : ((s.dev.atTime h.t).heard h (.updChunk i half data)).updChunk h.session.val i.toNat half.toNat data
        = (stNotOwner, (s.dev.atTime h.t).heard h (.updChunk i half data)) := if_pos ((Dev.heard_ownRec _ _ _).symm ▸ hstate)
    refine .of_upd rfl hs (Dev.updMessage_updChunk _ hjudged) (.refl (cs := []) (fs := [])) rfl rfl rfl fun e hanswered hafter => ⟨hanswered, ?_⟩
    rw [hafter.lid, Dev.heard_lid, Dev.atTime_lid]

end

section
/-! PROOF. Reading (R33, R381): what a read returns is what the parts of the device say, none of which a message that is heard moves but the counters
of its link and ring. -/

namespace Sys2Proof.Machine

/-! ## What a read depends on -/

section
variable {d e : Dev} (h : d.Agree [0x90, 0x91] [.host] e)
include h

theorem Dev.Agree.read_get {p : Par} {i : Nat} (hs : p.small = true := by rfl) (hg : ([0x90, 0x91] : List Nat).contains p.group = false := by rfl) :
    e.get p i = d.get p i := h.get p i hs hg

theorem Dev.Agree.read_img (k : Nat) (shadow : Bool) (a n : Nat) : e.img k shadow a n = d.img k shadow a n := by
  have htsets : e.tsets = d.tsets := h.2 .tsets rfl
  rw [Dev.img, Dev.tset, htsets, ← Dev.tset, ← Dev.img]

theorem Dev.Agree.read_imgN (k : Nat) (shadow : Bool) (a n : Nat) : e.imgN k shadow a n = d.imgN k shadow a n := by rw [Dev.imgN, h.read_img, Dev.imgN]

theorem Dev.Agree.read_curveDir (shadow : Bool) : e.curveDir shadow = d.curveDir shadow := funext fun n => by rw [Dev.curveDir, h.read_imgN, Dev.curveDir]

theorem Dev.Agree.read_imgPar (shadow : Bool) (p : Par) (i : Nat) : e.imgPar shadow p i = d.imgPar shadow p i := by
  unfold Dev.imgPar
  rw [h.read_curveDir]
  split
  · rfl
  · rw [h.read_imgN]

theorem Dev.Agree.read_desc (sh : Bool) (n o k : Nat) : e.desc sh n o k = d.desc sh n o k := by rw [Dev.desc, h.read_imgN, Dev.desc]

theorem Dev.Agree.read_showCtx (p : Par) (c : Nat) : e.showCtx p c = d.showCtx p c := by
  have hctxs : e.ctxs = d.ctxs := h.2 .ctxs rfl
  simp only [Dev.showCtx, Dev.cCycles, Dev.cN, Dev.cM, Dev.cW, Dev.cFlags, h.read_desc, hctxs, h.read_get (p := Par.ctxProbeSel)]
  rfl

theorem Dev.Agree.read_showIsld (p : Par) (g : Nat) : e.showIsld p g = d.showIsld p g := by
  have hisls : e.isls = d.isls := h.2 .isls rfl
  simp only [Dev.showIsld, hisls, h.read_get (p := Par.isldZSel)]

theorem Dev.Agree.read_showMetr (p : Par) (i : Nat) : e.showMetr p i = d.showMetr p i := by
  have hmet : e.met = d.met := h.2 .met rfl
  simp only [Dev.showMetr, Dev.metLast, hmet, h.read_get (p := Par.metrRegSel), h.read_get (p := Par.metrAllocSel), h.read_get (p := Par.metrCommitSeq)]

theorem Dev.Agree.read_showWeave (p : Par) (i : Nat) : e.showWeave p i = d.showWeave p i := by
  have hweave : e.weave = d.weave := h.2 .weave rfl
  simp only [Dev.showWeave, Dev.wport, Dev.isOn, hweave, h.read_get (p := Par.weavePortSel), h.read_get (p := Par.stakeSigSel), h.read_get (p := Par.stakePresent)]

theorem Dev.Agree.read_showLid (p : Par) : e.showLid p = d.showLid p := by
  have hlid : e.lid = d.lid := h.2 .lid rfl
  have hnow : e.now = d.now := h.2 .now rfl
  have hkey : e.keySlot = d.keySlot := funext fun k => by rw [Dev.keySlot, hlid, Dev.keySlot]
  have hanchored : e.anchored = d.anchored := by rw [Dev.anchored, hkey, Dev.anchored]
  have hcount : e.tallyCount = d.tallyCount := funext fun k => by rw [Dev.tallyCount, hlid, Dev.tallyCount]
  unfold Dev.showLid
  rw [Dev.bootRec_of_boot (congrArg LidSt.boot hlid), Dev.ownRec_of_own (congrArg LidSt.own hlid), hkey, hanchored, hcount, hlid, hnow,
    h.read_get (p := Par.lidKeySel), h.read_get (p := Par.lidTallySel), h.read_get (p := Par.devFwSchema), h.read_get (p := Par.devFwVersion)]

theorem Dev.Agree.read_portOfLeg (n : Nat) : e.portOfLeg n = d.portOfLeg n := by
  simp only [Dev.portOfLeg, h.read_get (p := Par.portTopology), h.read_get (p := Par.portLegA), h.read_get (p := Par.portLegB)]

theorem Dev.Agree.read_legSet {p : Par} (hp : p.small = true) (hg : ([0x90, 0x91] : List Nat).contains p.group = false) (n : Nat) :
    e.legSet p n = d.legSet p n := by
  simp only [Dev.legSet, h.read_portOfLeg, h.read_get (p := Par.portTopology), h.read_get (p := Par.portLegA), h.read_get (p := Par.portLegB),
    h.read_get (p := Par.legPeriod), h.read_get hp hg]

theorem Dev.Agree.read_shown {p : Par} (hp : p.small = true) (hg : ([0x90, 0x91] : List Nat).contains p.group = false) (h90 : p.cls ≠ 0x90) (i : Nat) :
    e.shown p i = d.shown p i := by
  have hnow : e.now = d.now := h.2 .now rfl
  have htsets : e.tsets = d.tsets := h.2 .tsets rfl
  have hwindow : e.windowTicks = d.windowTicks := by
    rw [Dev.windowTicks, Dev.beatTicks, h.read_get (p := Par.beatBeatTicks), h.read_get (p := Par.beatWindowPct), ← Dev.beatTicks, ← Dev.windowTicks]
  have htset : e.tset = d.tset := funext fun k => by rw [Dev.tset, htsets, Dev.tset]
  have hpresent : e.isOn Par.cellPresent i = d.isOn Par.cellPresent i := by rw [Dev.isOn, h.read_get (p := Par.cellPresent), Dev.isOn]
  unfold Dev.shown
  rw [hnow, hwindow, htset, hpresent, h.read_showCtx, h.read_showIsld, h.read_showMetr, h.read_showWeave, h.read_showLid, h.read_portOfLeg,
    h.read_legSet hp hg]
  simp only [h90, if_false]

/-- A parameter of another class than links and rings reads as before. -/
theorem Dev.Agree.read_live {p : Par} (hp : p.small = true) (h90 : p.cls ≠ 0x90) (h91 : p.cls ≠ 0x91) (shadow : Bool) (i : Nat) :
    e.live shadow p i = d.live shadow p i := by
  have hg : ([0x90, 0x91] : List Nat).contains p.group = false := by
    rw [Par.group]
    split
    · rfl
    · simp [h90, h91]
  unfold Dev.live
  rw [h.read_shown hp hg h90, h.read_imgPar, h.1 p i hp hg]

theorem Dev.Agree.read_readImage (shadow : Bool) (obj off len : Nat) : e.readImage shadow obj off len = d.readImage shadow obj off len := by
  have hlid : e.lid = d.lid := h.2 .lid rfl
  have hpwr : e.pwr = d.pwr := h.2 .pwr rfl
  have hevt : e.evt = d.evt := h.2 .evt rfl
  have himg : ∀ k a n, e.imgRead k shadow a n = d.imgRead k shadow a n := fun k a n => by
    simp only [Dev.imgRead, Dev.heads, h.read_img, h.read_curveDir]
  have hregions : e.readRegions obj = d.readRegions obj := by
    have htally : e.tally = d.tally := funext fun k => by rw [Dev.tally, hlid, Dev.tally]
    have hcount : e.tallyCount = d.tallyCount := funext fun k => by rw [Dev.tallyCount, hlid, Dev.tallyCount]
    simp only [Dev.readRegions, Dev.keyState_of_lid hlid, Dev.bitmapBytes, htally, hcount, hlid, hpwr, hevt]
  unfold Dev.readImage
  rw [hregions]
  simp only [himg]

end

theorem Dev.heard_readEntry (d : Dev) (h : Hdr) (m : HostMsg) (shadow : Bool) {x : BitVec 32 × BitVec 16} (h90 : x.1.toNat / 16777216 ≠ 0x90)
    (h91 : x.1.toNat / 16777216 ≠ 0x91) : (d.heard h m).readEntry shadow x = d.readEntry shadow x := by
  have hsmall : (⟨x.1.toNat / 16777216, x.2.toNat⟩ : Par).small = true := by
    have hobj := x.1.isLt
    have hidx := x.2.isLt
    simp only [Par.small, Bool.and_eq_true, decide_eq_true_eq]
    omega
  unfold Dev.readEntry
  extract_lets p i ok
  rw [(d.heard_agree h m).read_live hsmall h90 h91]

theorem Dev.actOn_read (d : Dev) (s tag : Nat) (shadow : Bool) (back : Nat) {es : List (BitVec 32 × BitVec 16)} (hlen : ¬ (es = [] ∨ 255 < es.length)) :
    d.actOn s tag shadow false back (.read es) = d.respond s tag 0x10 d.now stOk (es.flatMap (d.readEntry shadow)) := by
  unfold Dev.actOn
  dsimp only
  rw [if_neg hlen]
  rfl

/-- An index beyond the objects of a class is RANGE, with the value 0 (R33). -/
theorem Dev.readEntry_range (d : Dev) (shadow : Bool) {cls inst : Nat} (idx : BitVec 16) (hcls : cls < 256) (hinst : inst < 16777216)
    (hbeyond : instances cls ≤ inst) :
    d.readEntry shadow (BitVec.ofNat 32 (oid cls inst), idx) = leBytes 4 (oid cls inst) ++ leBytes 2 idx.toNat ++ leBytes 2 stRange ++ leBytes 8 0 := by
  have hobj : (BitVec.ofNat 32 (oid cls inst)).toNat = oid cls inst := by
    rw [BitVec.toNat_ofNat, oid]
    exact Nat.mod_eq_of_lt (by omega)
  have hclass : oid cls inst / 16777216 = cls := by
    rw [oid]
    omega
  have hplace : oid cls inst % 16777216 = inst := by
    rw [oid]
    omega
  unfold Dev.readEntry
  dsimp only
  rw [hobj, hclass, hplace, decide_eq_false (Nat.not_lt.mpr hbeyond)]
  rfl

end Sys2Proof.Machine

open Sys2Proof Sys2Proof.Machine

/-- Settles O48: a read finds every part of the device but the host side as it is, and is answered at once. -/
theorem reads : Obligations.Reads := by
  unfold Obligations.Reads
  refine ⟨fun h x s hs h90 h91 => ?_, fun h obj off len s hs => ?_, fun d shadow cls inst idx hcls hinst hbeyond =>
    d.readEntry_range shadow idx hcls hinst hbeyond⟩
  · have hw := (hs.atTime h.t).waits (.read [x])
    have hact : ((s.dev.atTime h.t).heard h (.read [x])).actOn h.session.val h.tag.toNat h.shadow false 72 (.read [x])
        = ((s.dev.atTime h.t).heard h (.read [x])).respond h.session.val h.tag.toNat 0x10 ((s.dev.atTime h.t).heard h (.read [x])).now stOk
          ((s.dev.atTime h.t).readEntry h.shadow x) false := by
      have hbytes : [x].flatMap (((s.dev.atTime h.t).heard h (.read [x])).readEntry h.shadow) = (s.dev.atTime h.t).readEntry h.shadow x := by
        rw [List.flatMap_singleton, Dev.heard_readEntry _ _ _ _ h90 h91]
      have hgo : ¬ ([x] = [] ∨ 255 < [x].length) := by simp
      rw [Dev.actOn_read _ _ _ _ _ hgo, hbytes]
    refine .of_answer (m := .read [x]) rfl hs hact hw.now hw fun e hanswered hafter => ⟨hanswered, ?_⟩
    rw [hafter.msgs, ((s.dev.atTime h.t).heard_sent h _).msgs, Dev.atTime_host]
  · have hw := (hs.atTime h.t).waits (.readImage obj off len)
    have himage := ((s.dev.atTime h.t).heard_agree h (.readImage obj off len)).read_readImage h.shadow obj.toNat off.toNat len.toNat
    refine .of_answer (m := .readImage obj off len) rfl hs rfl hw.now hw fun e hanswered hafter => ⟨?_, ?_⟩
    · rw [himage] at hanswered
      exact hanswered
    · rw [hafter.msgs, ((s.dev.atTime h.t).heard_sent h _).msgs, Dev.atTime_host]

end

section
/-! PROOF. What is registered for the end of the beat: writes, claims, releases and mode requests (R55 to R58, R314, R382, R393). -/

namespace Sys2Proof.Machine

/-- The command of a request that gets in, acted on. -/
theorem Completes.of_heard {c : Instr} {h : Hdr} {m : HostMsg} {s : State} {P : Dev → Prop} (hc : hostRequest c = some (h, m)) (hs : s.dev.served h m.opcode)
    (hP : ∀ e, ((s.dev.atTime h.t).heard h m).actOn h.session.val h.tag.toNat h.shadow false 72 m = e → P (e.settle (s.dev.atTime h.t))) :
    Completes c s P := by
  refine .of_does (exec_of_hostRequest hc s) fun e he => ?_
  rw [(hs.atTime h.t).hostMsg] at he
  exact hP e he

/-! ## Claims stand against a write -/

theorem Dev.soleClaims.claimedByOther {d : Dev} {s : Nat} (h : d.soleClaims s) (obj : Nat) : d.claimedByOther s obj = false := by
  refine List.any_eq_false.mpr fun c hc => ?_
  simp [h c hc]

theorem Dev.soleClaims.classClaimed {d : Dev} {s : Nat} (h : d.soleClaims s) (cls : Nat) : d.classClaimed s cls = false := by
  refine List.any_eq_false.mpr fun c hc => ?_
  simp [h c hc]

theorem Dev.soleClaims.entryOwned {d : Dev} {s : Nat} (h : d.soleClaims s) (obj idx : Nat) (v : W64) : d.entryOwned s obj idx v = false := by
  simp [Dev.entryOwned, h.claimedByOther, h.classClaimed]

theorem Dev.soleClaims.heard {d : Dev} {k : Nat} (hsole : d.soleClaims k) (h : Hdr) (m : HostMsg) : (d.heard h m).soleClaims k := by
  rw [Dev.soleClaims, (d.heard_sent h m).claims]
  exact hsole

/-! ## Writes -/

/-- A write entry as it is registered, no other session's claim standing against it. -/
def entryWork (e : WEntry) : RegWrite := { obj := e.obj.toNat, idx := e.idx.toNat, val := e.val, status := stOk }

/-- A write of one parameter as its entry (R6). -/
def oneEntry (p : Par) (i : Nat) (v : W64) : WEntry := { obj := BitVec.ofNat 32 (oid p.cls i), idx := BitVec.ofNat 16 p.idx, val := v }

theorem oneEntry_work {p : Par} {i : Nat} (v : W64) (hp : p.small = true) (hi : i < 16777216) :
    entryWork (oneEntry p i v) = { obj := oid p.cls i, idx := p.idx, val := v, status := stOk } := by
  simp only [Par.small, Bool.and_eq_true, decide_eq_true_eq] at hp
  have hobj : oid p.cls i < 2 ^ 32 := by
    rw [oid]
    omega
  have ho : (BitVec.ofNat 32 (oid p.cls i)).toNat = oid p.cls i := by rw [BitVec.toNat_ofNat, Nat.mod_eq_of_lt hobj]
  have hx : (BitVec.ofNat 16 p.idx).toNat = p.idx := by rw [BitVec.toNat_ofNat, Nat.mod_eq_of_lt hp.2]
  simp only [entryWork, oneEntry, ho, hx]

/-- The command of a write of one parameter is a write of that entry. -/
theorem hostRequest_of_hostWrite {c : Instr} {h : Hdr} {p : Par} {i : Nat} {v : W64} (hc : hostWrite c = some (h, p, i, v)) :
    hostRequest c = some (h, .write [oneEntry p i v]) ∧ p.small = true ∧ i < 16777216 := by
  cases c with
  | beatGridWrite _ which | gridTargetWrite _ _ which =>
    cases hc
    refine ⟨rfl, ?_, by omega⟩
    fin_cases which <;> rfl
  | cellSettingWrite _ _ idx =>
    cases hc
    refine ⟨rfl, ?_, by omega⟩
    have hidx := idx.isLt
    simp only [Par.small, Bool.and_eq_true, decide_eq_true_eq]
    omega
  | tblCommit | tblAbort | sampleNow | socSet | pSetWrite | burstRequest | burstAbort | portClear | portUnlock | legClear | adcCalibrate | winReadback
    | capRunStart | capRunStop | hostFire | trigArmWrite | tokenGive | spokeDiscover | spokeUnblock | cellBypassWrite | cellClearLockWrite
    | cellSerialRefWrite | blockClear | recover | ringReset | retainedClear | resetReq | pwrRequestParked | pwrRequestRun | pwrRequestDark | evtRaise =>
    cases hc
    exact ⟨rfl, rfl, by omega⟩
  | _ => cases hc

/-- The fires among the entries of a write act at once, on the triggers and what hears them alone (R314); all entries are registered. -/
theorem Dev.regWrite_registers {d : Dev} {s tag : Nat} {es : List WEntry} (hsole : d.soleClaims s) (hne : es ≠ []) (hlen : es.length ≤ 255) :
    (d.register { session := s, tag := tag, op := 0x20, ts := d.now, status := stOk, work := es.map entryWork }).Agree [0x60, 0x61, 0xC0]
      [.evt, .caps, .trigs, .weave] (d.regWrite s tag es) := by
  unfold Dev.regWrite
  rw [if_neg (by simp only [not_or, not_lt]; exact ⟨hne, hlen⟩)]
  extract_lets work m fires
  have hwork : work = es.map entryWork := by
    refine List.map_congr_left fun e _ => ?_
    extract_lets o i
    rw [hsole.entryOwned]
    rfl
  rw [show m = { session := s, tag := tag, op := 0x20, ts := d.now, status := stOk, work := es.map entryWork } from by rw [← hwork]]
  exact .forL (fun x w hx => .step (x.fireTrig_frame _ _ _ _) rfl rfl hx) .refl

theorem Dev.register_msgs (d : Dev) (w : Msg) : (d.register w).host.msgs = d.host.msgs ++ [w] := rfl

theorem Dev.register_ring (d : Dev) (w : Msg) (n : Nat) : (d.register w).ring n = d.ring n := rfl

/-- What is registered stands at the end of the command, and no answer has gone out. -/
theorem Dev.registered_stands {d e : Dev} {h : Hdr} {m : HostMsg} {w : Msg} {cs : List Nat} {fs : List Fld} (he : ((d.heard h m).register w).Agree cs fs e)
    (hhost : fs.contains .host = false) (old : Dev) :
    (e.settle old).host.msgs = d.host.msgs ++ [w] ∧ ((e.settle old).ring (16 + h.session.val)).slots = (d.ring (16 + h.session.val)).slots := by
  have hmsgs := (d.heard h m).register_msgs w
  have hslots : (((d.heard h m).register w).ring (16 + h.session.val)).slots = (d.ring (16 + h.session.val)).slots := by
    rw [Dev.register_ring, (d.heard_sent h m).slots, List.append_nil]
  rw [(d.heard_sent h m).msgs] at hmsgs
  generalize (d.heard h m).register w = r at *
  have hsame : e.host = r.host := he.2 .host hhost
  rw [Dev.ring_of_host (Dev.settle_host _ _), Dev.settle_host, Dev.ring_of_host hsame, hsame]
  exact ⟨hmsgs, hslots⟩

/-- The command of a write that gets in: its entries wait for the end of the beat. -/
theorem Completes.of_write {c : Instr} {h : Hdr} {es : List WEntry} {s : State} {P : Dev → Prop} (hc : hostRequest c = some (h, .write es))
    (hs : s.dev.served h 0x20) (hsole : s.dev.soleClaims h.session.val) (hne : es ≠ []) (hlen : es.length ≤ 255)
    (hP : ∀ e, e.host.msgs = s.dev.host.msgs ++ [s.dev.registered h 0x20 stOk (es.map entryWork)]
      → (e.ring (16 + h.session.val)).slots = (s.dev.ring (16 + h.session.val)).slots → P e) : Completes c s P := by
  refine .of_heard hc hs fun e he => ?_
  have hregisters := Dev.regWrite_registers (tag := h.tag.toNat) (Dev.soleClaims.heard (d := s.dev.atTime h.t) hsole h (.write es)) hne hlen
  have hact : ((s.dev.atTime h.t).heard h (.write es)).regWrite h.session.val h.tag.toNat es = e := he
  rw [hact] at hregisters
  have hnow : ((s.dev.atTime h.t).heard h (.write es)).now = s.dev.instant h.t := ((s.dev.atTime h.t).heard_agree h (.write es)).2 .now rfl
  rw [hnow] at hregisters
  obtain ⟨hmsgs, hslots⟩ := Dev.registered_stands (d := s.dev.atTime h.t) hregisters rfl (s.dev.atTime h.t)
  exact hP _ hmsgs hslots

/-- A bulk write of a class that no other session claims (R58, R393). -/
theorem Completes.of_bulk {c : Instr} {h : Hdr} {obj off : BitVec 32} {data : List Byte} {s : State} {P : Dev → Prop}
    (hc : hostRequest c = some (h, .bulkWrite obj off data)) (hs : s.dev.served h 0x21) (hsole : s.dev.soleClaims h.session.val)
    (hP : ∀ e, e.host.msgs = s.dev.host.msgs ++ [{ s.dev.registered h 0x21 stOk [] with bulk := some (obj.toNat, off.toNat, data) }]
      → e.rim = s.dev.rim → P e) : Completes c s P := by
  refine .of_heard hc hs fun e he => ?_
  have hact : ((s.dev.atTime h.t).heard h (.bulkWrite obj off data)).register
      { s.dev.registered h 0x21 stOk [] with bulk := some (obj.toNat, off.toNat, data) } = e := by
    have hnow : ((s.dev.atTime h.t).heard h (.bulkWrite obj off data)).now = s.dev.instant h.t := ((s.dev.atTime h.t).heard_agree h _).2 .now rfl
    have hfree := (Dev.soleClaims.heard (d := s.dev.atTime h.t) hsole h (.bulkWrite obj off data)).classClaimed (obj.toNat / 16777216)
    rw [← he]
    show _ = Dev.regBulk _ _ _ _ _ _
    rw [Dev.regBulk, hfree, hnow]
    rfl
  have hframe : (((s.dev.atTime h.t).heard h (.bulkWrite obj off data)).register
      { s.dev.registered h 0x21 stOk [] with bulk := some (obj.toNat, off.toNat, data) }).Agree [] [] e := hact ▸ .refl
  obtain ⟨hmsgs, -⟩ := Dev.registered_stands (d := s.dev.atTime h.t) hframe rfl (s.dev.atTime h.t)
  have hrim : e.rim = s.dev.rim := by
    rw [← hact]
    exact ((s.dev.atTime h.t).heard_agree h (.bulkWrite obj off data)).2 .rim rfl
  exact hP _ hmsgs ((Dev.settle_rim _ _).trans hrim)

/-! ## A host fire -/

/-- What the checks of a fire read of the device: whether captures run (R54, R314). -/
theorem Dev.judgeStatic_fire {d e : Dev} (hagree : d.Agree [0x90, 0x91] [.host] e) {n : Nat} (hn : n < 16) (v : W64) :
    e.judgeStatic (oid 0x61 n) Par.trigFire.idx v = d.judgeStatic (oid 0x61 n) Par.trigFire.idx v := by
  have hcls : oid 0x61 n / 16777216 = 0x61 := by
    rw [oid]
    omega
  have hinst : oid 0x61 n % 16777216 = n := by
    rw [oid]
    omega
  have hpowered : e.powered 0x61 n = d.powered 0x61 n := by
    have hcap : e.capOn = d.capOn := by
      have hphase : e.phase = d.phase := hagree.2 .phase rfl
      have hsup : e.sup = d.sup := hagree.2 .sup rfl
      simp only [Dev.capOn, Dev.full, Dev.up, Dev.pmode, Dev.clkOk, hphase, hsup, hagree.read_get (p := Par.pwrMode)]
    exact hcap
  have hwired : ∀ x : Dev, x.wired ⟨0x61, Par.trigFire.idx⟩ n = false := fun x => by
    have hset : setPoints.contains (⟨0x61, Par.trigFire.idx⟩ : Par) = false := by decide
    rw [Dev.wired, hset]
    rfl
  have hstopped : e.stopped 0x61 n = d.stopped 0x61 n := by
    show (e.get Par.trigState n == tsOff) = (d.get Par.trigState n == tsOff)
    rw [hagree.read_get (p := Par.trigState)]
  have hpresent : e.isOn Par.cellPresent n = d.isOn Par.cellPresent n := by rw [Dev.isOn, hagree.read_get (p := Par.cellPresent), Dev.isOn]
  unfold Dev.judgeStatic
  dsimp only
  rw [hcls, hinst, hpowered, hwired, hwired, hstopped, hpresent]

/-- The one entry of a host fire whose checks pass fires the trigger once it is registered (R314). -/
theorem Dev.regWrite_fires {d : Dev} {s : Nat} (tag : Nat) {n : Nat} (hn : n < 16) (hsole : d.soleClaims s)
    (hok : d.judgeStatic (oid 0x61 n) Par.trigFire.idx 1 = stOk) :
    ∃ m : Msg, d.regWrite s tag [oneEntry Par.trigFire n 1] = (d.register m).fireTrig n d.now fcHost d.stakeNo := by
  have hinst : oid 0x61 n % 16777216 = n := by
    rw [oid]
    omega
  have hcls : oid 0x61 n / 16777216 = 0x61 := by
    rw [oid]
    omega
  have hwork := oneEntry_work (p := Par.trigFire) (i := n) 1 rfl (by omega)
  have hentry : (oneEntry Par.trigFire n 1).obj.toNat = oid 0x61 n ∧ (oneEntry Par.trigFire n 1).idx.toNat = Par.trigFire.idx :=
    ⟨congrArg RegWrite.obj hwork, congrArg RegWrite.idx hwork⟩
  have hfire : isFire (oid 0x61 n) Par.trigFire.idx = true := by
    rw [isFire, hcls]
    decide
  have hpass : (isFire (oid 0x61 n) Par.trigFire.idx && stOk == stOk && (1 : W64) == 1 && d.judgeStatic (oid 0x61 n) Par.trigFire.idx 1 == stOk) = true := by
    rw [hfire, hok]
    decide
  refine ⟨{ session := s, tag := tag, op := 0x20, ts := d.now, status := stOk, work := [entryWork (oneEntry Par.trigFire n 1)] }, ?_⟩
  unfold Dev.regWrite
  rw [if_neg (by simp)]
  extract_lets work m fires
  have hlist : work = [oneEntry Par.trigFire n 1].map entryWork := List.map_congr_left fun e _ => by
    extract_lets o i
    rw [hsole.entryOwned]
    rfl
  rw [List.map_singleton] at hlist
  have hfires : fires = [entryWork (oneEntry Par.trigFire n 1)] := by
    rw [show fires = work.filter _ from rfl, hlist, hwork]
    exact List.filter_cons_of_pos hpass
  rw [show m = { session := s, tag := tag, op := 0x20, ts := d.now, status := stOk, work := work } from rfl, hlist, hfires, hwork]
  show Dev.fireTrig _ (oid 0x61 n % 16777216) _ _ _ = _
  rw [hinst]
  rfl

/-- A host fire in WAIT or ARMED (R314, R316): the trigger fires with cause HOST at the registration and holds off. -/
theorem Completes.of_hostFire {h : Hdr} {n : Fin 16} {s : State} (hs : s.dev.served h 0x20) (hsole : s.dev.soleClaims h.session.val)
    (hok : s.dev.judgeStatic (oid 0x61 n.val) Par.trigFire.idx 1 = stOk)
    (hstate : s.dev.get Par.trigState n.val = tsWait ∨ s.dev.get Par.trigState n.val = tsArmed) :
    Completes (.hostFire h n 1) s (fun d => d.get Par.trigState n.val = tsHoldoff
      ∧ d.get Par.trigFires n.val = (s.dev.get Par.trigFires n.val + 1) % 2 ^ 32 ∧ d.get Par.trigLastTime n.val = s.dev.instant h.t % 2 ^ 64
      ∧ d.get Par.trigLastCause n.val = fcHost ∧ d.isOn Par.evtFlag evTrigFire = true) := by
  refine .of_heard (m := .write [oneEntry Par.trigFire n.val 1]) rfl hs fun e he => ?_
  have hagree := (s.dev.atTime h.t).heard_agree h (.write [oneEntry Par.trigFire n.val 1])
  have hheard := Dev.soleClaims.heard (d := s.dev.atTime h.t) hsole h (.write [oneEntry Par.trigFire n.val 1])
  have hact : ((s.dev.atTime h.t).heard h (.write [oneEntry Par.trigFire n.val 1])).regWrite h.session.val h.tag.toNat [oneEntry Par.trigFire n.val 1] = e := he
  generalize (s.dev.atTime h.t).heard h (.write [oneEntry Par.trigFire n.val 1]) = x at *
  obtain ⟨m, hfires⟩ := Dev.regWrite_fires h.tag.toNat n.isLt hheard ((Dev.judgeStatic_fire hagree n.isLt 1).trans hok)
  have hregistered : x.Agree [] [.host] (x.register m) := .upd_host rfl .refl
  have hget {p : Par} (hp : p.small = true) (hg : ([0x90, 0x91] : List Nat).contains p.group = false) :
      (x.register m).get p n.val = s.dev.get p n.val := (hregistered.get p _ hp rfl).trans (hagree.get p _ hp hg)
  have hup : (x.register m).evtUp = true := by
    rw [Dev.evtUp_of_agree hregistered rfl, Dev.evtUp_of_agree hagree rfl]
    exact Dev.evtUp_of_run hs.1
  have hnow : x.now = s.dev.instant h.t := hagree.2 .now rfl
  obtain ⟨hheld, hcount, htime, hcause, -, hflag⟩ := Dev.fireTrig_fires (d := x.register m) (n := n.val) (by rw [hget rfl rfl]; exact hstate) x.now fcHost x.stakeNo
  rw [← hfires, hact] at hheld hcount htime hcause hflag
  obtain ⟨-, hsstate, hsfires, hstime, hscause, -⟩ := Dev.settle_held hheld (s.dev.atTime h.t)
  rw [hsstate, hsfires, hstime, hscause, hcount, htime, hcause, hget rfl rfl, hnow]
  exact ⟨hheld, rfl, rfl, rfl, e.settle_keepsFlags _ _ (hflag hup)⟩

/-! ## Claims and requests -/

/-- The device with other claims. -/
def Dev.setClaims (d : Dev) (cs : List Claim) : Dev := { d with host := { d.host with claims := cs } }

theorem Dev.setClaims_register (d : Dev) (cs : List Claim) (m : Msg) :
    ((d.setClaims cs).register m).host.claims = cs ∧ ((d.setClaims cs).register m).host.msgs = d.host.msgs ++ [m] := ⟨rfl, rfl⟩

/-- A CLAIM of one entry (R393). -/
theorem Dev.regClaim_one (d : Dev) (s tag : Nat) (o : BitVec 32) {st : Nat} {own : Option (Nat × Nat)} {e : Dev} (h : d.claimEntry s o.toNat = (st, own, e)) :
    ∃ m : Msg, d.regClaim s tag [o] = e.register m ∧ m.work = [{ obj := o.toNat, idx := 0, val := 0, status := st }]
      ∧ (own = none → m = { session := s, tag := tag, op := 0x22, ts := d.now, status := stOk, work := [{ obj := o.toNat, idx := 0, val := 0, status := st }] }) := by
  unfold Dev.regClaim
  dsimp only [List.foldl]
  rw [h]
  refine ⟨_, rfl, rfl, fun hnone => ?_⟩
  subst hnone
  rfl

/-- An object that no other session holds is claimed (R56, R393). -/
theorem Dev.claimEntry_claims {d : Dev} {s obj : Nat} (hsole : d.soleClaims s) (hne : claimObjs obj ≠ [])
    (hroom : d.host.claims.length + (claimObjs obj).length ≤ 4096) :
    d.claimEntry s obj = (stOk, none, d.setClaims (d.host.claims.filter (fun c => !((claimObjs obj).contains c.obj))
      ++ (claimObjs obj).map (fun o => { obj := o, session := s, ending := false }))) := by
  have hnone : d.host.claims.find? (fun c => (claimObjs obj).contains c.obj && c.session != s) = none := by
    refine List.find?_eq_none.mpr fun c hc => ?_
    simp [hsole c hc]
  unfold Dev.claimEntry
  extract_lets os rest
  have hfew : rest.length ≤ d.host.claims.length := List.length_filter_le _ _
  have hos : os.length = (claimObjs obj).length := rfl
  rw [if_neg hne, hnone]
  exact if_neg (by omega)

/-- An object that another session holds is refused (R393). -/
theorem Dev.claimEntry_refuses {d : Dev} {s obj : Nat} {c : Claim} (hc : c ∈ d.host.claims) (hother : c.session ≠ s) (hobj : c.obj ∈ claimObjs obj) :
    ∃ own, d.claimEntry s obj = (stBusy, own, d) := by
  have hsome : (d.host.claims.find? (fun c => (claimObjs obj).contains c.obj && c.session != s)).isSome = true :=
    List.find?_isSome.mpr ⟨c, hc, by simp [hobj, hother]⟩
  obtain ⟨x, hx⟩ := Option.isSome_iff_exists.mp hsome
  refine ⟨some ((d.sess x.session).link, x.session), ?_⟩
  unfold Dev.claimEntry
  extract_lets os rest
  rw [if_neg (List.ne_nil_of_mem hobj), hx]

/-- A RELEASE of one entry is registered with its judgement (R393). -/
theorem Dev.regRelease_one (d : Dev) (s tag : Nat) (o : BitVec 32) : ∃ m : Msg, d.regRelease s tag [o] = (d.releaseEntry s o.toNat).2.register m := ⟨_, rfl⟩

/-- A RELEASE of one entry marks the own claims to end (R56). -/
theorem Dev.releaseEntry_marks {d : Dev} {s obj : Nat} {c : Claim} (hc : c ∈ d.host.claims) (hown : c.session = s) (hlive : c.ending = false)
    (hobj : c.obj ∈ claimObjs obj) :
    (d.releaseEntry s obj).2 = d.setClaims (d.host.claims.map (fun c =>
      if (claimObjs obj).contains c.obj && c.session == s && !c.ending then { c with ending := true } else c)) := by
  have hany : d.host.claims.any (fun c => (claimObjs obj).contains c.obj && c.session == s && !c.ending) = true :=
    List.any_eq_true.mpr ⟨c, hc, by simp [hobj, hown, hlive]⟩
  unfold Dev.releaseEntry
  extract_lets os own
  rw [if_neg (List.ne_nil_of_mem hobj), if_neg (by rw [show d.host.claims.any own = true from hany]; decide)]
  rfl

end Sys2Proof.Machine

open Sys2Proof Sys2Proof.Machine

/-- Settles O44: no other session's claim stands against an entry, so each is registered with the status OK; a host fire is the one that acts at once. -/
theorem writesRegistered : Obligations.WritesRegistered := by
  unfold Obligations.WritesRegistered
  refine ⟨⟨fun c h p i v s hc hs hsole => ?_, fun h es s hs hsole hne hlen => ?_, fun h x s hs hsole => ?_, fun h obj off data s hs hsole => ⟨?_, ?_⟩⟩,
    fun h n s hs hsole _ hok hstate => Completes.of_hostFire hs hsole hok hstate⟩
  · obtain ⟨hrequest, hp, hi⟩ := hostRequest_of_hostWrite hc
    refine .of_write hrequest hs hsole (List.cons_ne_nil _ _) (by simp) fun e hmsgs hslots => ⟨?_, hslots⟩
    rw [hmsgs, List.map_singleton, oneEntry_work v hp hi]
  · exact .of_write rfl hs hsole hne hlen fun e hmsgs _ => hmsgs
  · exact .of_write (es := [x]) rfl hs hsole (List.cons_ne_nil _ _) (by simp) fun e hmsgs _ => hmsgs
  · exact .of_bulk rfl hs hsole fun e hmsgs _ => hmsgs
  · exact .of_bulk rfl hs hsole fun e hmsgs hrim => ⟨hmsgs, hrim⟩

/-- Settles O49: the claims change at the receipt, and the message waits for the end of the beat with what was judged. -/
theorem claimsAndRequests : Obligations.ClaimsAndRequests := by
  unfold Obligations.ClaimsAndRequests
  refine ⟨fun h o s hs hsole hne hroom => ?_, fun h o c s hs hc hother hobj => ?_, fun h o c s hs hc hown hlive hobj => ?_, fun h code s hs => ?_⟩
  · refine .of_heard (m := .claim [o]) rfl hs fun e he => ?_
    have hsent := (s.dev.atTime h.t).heard_sent h (.claim [o])
    have hheard := Dev.soleClaims.heard (d := s.dev.atTime h.t) hsole h (.claim [o])
    have hact : ((s.dev.atTime h.t).heard h (.claim [o])).regClaim h.session.val h.tag.toNat [o] = e := he
    have hnow : ((s.dev.atTime h.t).heard h (.claim [o])).now = s.dev.instant h.t := hsent.frame.2 .now rfl
    have hmsgs := hsent.msgs
    have hclaims := hsent.claims
    generalize (s.dev.atTime h.t).heard h (.claim [o]) = x at *
    have hclaimed := Dev.claimEntry_claims hheard hne (by rw [hclaims]; exact hroom)
    obtain ⟨m, hm, -, hmsg⟩ := x.regClaim_one h.session.val h.tag.toNat o hclaimed
    rw [hm] at hact
    obtain ⟨hset, hadded⟩ := x.setClaims_register (x.host.claims.filter (fun c => !((claimObjs o.toNat).contains c.obj))
      ++ (claimObjs o.toNat).map (fun o => { obj := o, session := h.session.val, ending := false })) m
    rw [hact, hclaims] at hset
    rw [hact, hmsgs, hmsg rfl, hnow] at hadded
    rw [Dev.settle_host, hset, hadded]
    refine ⟨fun y hy => List.mem_append_right _ (List.mem_map.mpr ⟨y, hy, rfl⟩), fun c hc hout => List.mem_append_left _ (List.mem_filter.mpr ⟨hc, ?_⟩), rfl⟩
    simp [hout]
  · refine .of_heard (m := .claim [o]) rfl hs fun e he => ?_
    have hsent := (s.dev.atTime h.t).heard_sent h (.claim [o])
    have hact : ((s.dev.atTime h.t).heard h (.claim [o])).regClaim h.session.val h.tag.toNat [o] = e := he
    have hmsgs := hsent.msgs
    have hclaims := hsent.claims
    generalize (s.dev.atTime h.t).heard h (.claim [o]) = x at *
    obtain ⟨own, hrefused⟩ := Dev.claimEntry_refuses (d := x) (by rw [hclaims]; exact hc) hother hobj
    obtain ⟨m, hm, hwork, -⟩ := x.regClaim_one h.session.val h.tag.toNat o hrefused
    rw [hm] at hact
    have hkept : e.host.claims = x.host.claims := by rw [← hact]; rfl
    have hadded : e.host.msgs = x.host.msgs ++ [m] := by rw [← hact]; rfl
    rw [Dev.settle_host, hkept, hclaims, hadded, hmsgs]
    exact ⟨rfl, m, rfl, hwork⟩
  · refine .of_heard (m := .release [o]) rfl hs fun e he => ?_
    have hsent := (s.dev.atTime h.t).heard_sent h (.release [o])
    have hact : ((s.dev.atTime h.t).heard h (.release [o])).regRelease h.session.val h.tag.toNat [o] = e := he
    have hclaims := hsent.claims
    generalize (s.dev.atTime h.t).heard h (.release [o]) = x at *
    obtain ⟨m, hm⟩ := x.regRelease_one h.session.val h.tag.toNat o
    rw [hm, Dev.releaseEntry_marks (d := x) (by rw [hclaims]; exact hc) hown hlive hobj] at hact
    have hset := (x.setClaims_register (x.host.claims.map (fun c =>
      if (claimObjs o.toNat).contains c.obj && c.session == h.session.val && !c.ending then { c with ending := true } else c)) m).1
    rw [hact, hclaims] at hset
    rw [Dev.settle_host, hset]
    refine ⟨List.mem_map.mpr ⟨c, hc, if_pos (by simp [hobj, hown, hlive])⟩, fun y hy hsess hin => ?_, fun y hy hout => List.mem_map.mpr ⟨y, hy, if_neg (by simp [hout])⟩⟩
    obtain ⟨z, hz, rfl⟩ := List.mem_map.mp hy
    by_cases hmark : ((claimObjs o.toNat).contains z.obj && z.session == h.session.val && !z.ending) = true
    · rw [if_pos hmark]
    · rw [if_neg hmark] at hsess hin ⊢
      simpa [hsess, hin] using hmark
  · refine .of_heard (m := .modeRequest code) rfl hs fun e he => ?_
    have hsent := (s.dev.atTime h.t).heard_sent h (.modeRequest code)
    have hact : ((s.dev.atTime h.t).heard h (.modeRequest code)).regMode h.session.val h.tag.toNat code.toNat = e := he
    have hnow : ((s.dev.atTime h.t).heard h (.modeRequest code)).now = s.dev.instant h.t := hsent.frame.2 .now rfl
    have hjudge : ((s.dev.atTime h.t).heard h (.modeRequest code)).judgeMode h.session.val = s.dev.judgeMode h.session.val := by
      have hweave : ((s.dev.atTime h.t).heard h (.modeRequest code)).weave = s.dev.weave := hsent.frame.2 .weave rfl
      have hkind : ((s.dev.atTime h.t).heard h (.modeRequest code)).get Par.devConvMode 0 = s.dev.get Par.devConvMode 0 :=
        hsent.frame.get Par.devConvMode 0 rfl rfl
      have hclaimed : ((s.dev.atTime h.t).heard h (.modeRequest code)).classClaimed h.session.val 4 = s.dev.classClaimed h.session.val 4 := by
        rw [Dev.classClaimed, hsent.claims]
        rfl
      have hheld : ((s.dev.atTime h.t).heard h (.modeRequest code)).modeHeld = s.dev.modeHeld := by
        rw [Dev.modeHeld, Dev.offOrParked, Dev.kind, hweave, hkind]
        rfl
      rw [Dev.judgeMode, hclaimed, hheld, Dev.judgeMode]
    have hmsgs := hsent.msgs
    have hreqs := hsent.modeReq
    generalize (s.dev.atTime h.t).heard h (.modeRequest code) = x at *
    have hadded : e.host.msgs = x.host.msgs ++ [{ session := h.session.val, tag := h.tag.toNat, op := 0x30, ts := x.now
                                                  status := x.judgeMode h.session.val, work := [], code := code.toNat }] := by rw [← hact]; rfl
    have hkept : e.host.modeReq = x.host.modeReq := by rw [← hact]; rfl
    rw [Dev.settle_host, hadded, hkept, hmsgs, hreqs, hnow, hjudge]
    exact ⟨rfl, rfl⟩

end

section
/-! PROOF. Stop commands and ABORT (R394, R395). -/

namespace Sys2Proof.Machine

/-! ## Stops -/

/-- A trip of every leg leaves none of them in RUN or HOLD. -/
theorem Dev.tripAll_stops (d : Dev) {n : Nat} (hn : n < 40) : ¬ (d.tripLegs allLegs tcStop).legLive n := by
  obtain ⟨hnamed, hstill, -⟩ := d.tripLegs_legs allLegs tcStop n (by decide)
  by_cases hlive : d.legLive n
  · exact (hnamed (List.mem_range.mpr hn) hlive).not_live
  · rwa [Dev.legLive, hstill hlive, ← Dev.legLive]

/-- The device with a converter trip asked for by a stop (R99, R394). -/
def Dev.stopAsked (d : Dev) : Dev := { d with mode := { d.mode with tripReq := true, stopReq := true } }

theorem Dev.stopAsked_agree (d : Dev) : d.Agree [] [.mode] d.stopAsked := .upd_mode rfl .refl

theorem Dev.stopTrip_stops (d : Dev) : d.Agree [0x20, 0x30, 0x31, 0xC0] [.evt, .legs, .ports, .mode] d.stopTrip ∧ d.stopTrip.mode.tripReq = true
    ∧ d.stopTrip.mode.stopReq = true ∧ ∀ n < 40, ¬ d.stopTrip.legLive n := by
  have heq : d.stopTrip = d.stopAsked.tripLegs allLegs tcStop := rfl
  have htrip := d.stopAsked.tripLegs_frame allLegs tcStop
  have hmode : d.stopTrip.mode = d.stopAsked.mode := by rw [heq]; exact htrip.2 .mode rfl
  refine ⟨?_, by rw [hmode]; rfl, by rw [hmode]; rfl, fun n hn => by rw [heq]; exact d.stopAsked.tripAll_stops hn⟩
  rw [heq]
  exact (d.stopAsked_agree.mono rfl rfl).trans (htrip.mono rfl rfl)

theorem Dev.actOn_stopTrip (d : Dev) (s tag : Nat) (shadow : Bool) (back : Nat) :
    d.actOn s tag shadow false back .stopTrip = d.stopTrip.respond s tag 0x40 d.now stOk [] false := rfl

theorem Dev.actOn_stopLegs (d : Dev) (s tag : Nat) (shadow : Bool) (back : Nat) :
    d.actOn s tag shadow false back .stopLegs = (d.tripLegs allLegs tcStop).respond s tag 0x41 d.now stOk [] false := rfl

/-- Where the pins show the state, the pins of a leg that is not in RUN are low. -/
theorem Dev.gates_low {e : Dev} {n : Nat} (hshown : e.pinsShown) (hn : n < 40) (h : e.get Par.legState n ≠ lsRun) :
    e.pins.gateH.getLsbD n = false ∧ e.pins.gateL.getLsbD n = false := by
  have hlow : e.gatePins n = (false, false) := by
    unfold Dev.gatePins
    extract_lets y hs ls
    rw [beq_eq_false_iff_ne.mpr h, Bool.and_false]
    rfl
  have hmask : e.pinsNow.gateH.getLsbD n = (e.gatePins n).1 ∧ e.pinsNow.gateL.getLsbD n = (e.gatePins n).2 := ⟨getLsbD_maskOf _ hn, getLsbD_maskOf _ hn⟩
  rw [hshown, hmask.1, hmask.2, hlow]
  exact ⟨rfl, rfl⟩

/-- A leg not in RUN or HOLD stays so to the end of the command, its gate pins low (R252). -/
theorem Dev.AfterAnswer.leg_stopped {x e : Dev} {k n : Nat} (hafter : x.AfterAnswer e k) (hn : n < 40) (hstop : ¬ x.legLive n) :
    e.get Par.legState n ≠ lsRun ∧ e.get Par.legState n ≠ lsHold ∧ e.pins.gateH.getLsbD n = false ∧ e.pins.gateL.getLsbD n = false := by
  obtain ⟨hrun, hhold⟩ : e.get Par.legState n ≠ lsRun ∧ e.get Par.legState n ≠ lsHold := by
    rw [hafter.frame.get _ _ rfl rfl]
    exact not_or.mp hstop
  exact ⟨hrun, hhold, Dev.gates_low hafter.shown hn hrun⟩

/-! ## ABORT -/

theorem Dev.ringTake_doneOps (d : Dev) (n : Nat) (m : List Byte × List Byte) : (d.ringTake n m).host.doneOps = d.host.doneOps := by
  unfold Dev.ringTake
  extract_lets tail put r read headed
  have hput : put.host.doneOps = d.host.doneOps := by
    unfold put Dev.slotPut
    split <;> rfl
  have hread : read.host.doneOps = put.host.doneOps := rfl
  have hheaded : headed.host.doneOps = read.host.doneOps := by
    unfold headed
    split <;> rfl
  exact hheaded.trans (hread.trans hput)

theorem Dev.setSess_doneOps (d : Dev) (k : Nat) (x : Sess) : (d.setSess k x).host.doneOps = d.host.doneOps := rfl

theorem Dev.heard_doneOps (d : Dev) (h : Hdr) (m : HostMsg) : (d.heard h m).host.doneOps = d.host.doneOps := by
  rw [Dev.heard, Dev.noted, Dev.setSess_doneOps, Dev.gated, Dev.inc_host, Dev.ringTake_doneOps]

/-- An ABORT of a running activation ends it (R395, R423). -/
theorem Dev.abortOp_activate {d : Dev} {s tag : Nat} {o : Oper} (hop : d.host.ops.find? (fun x => x.session == s && x.tag == tag && !x.gone) = some o)
    (hkind : o.kind = .activate) : d.abortOp s tag = (stOk, d.activateAbort) := by
  unfold Dev.abortOp
  rw [hop]
  dsimp only
  rw [hkind]

/-- An ABORT of a tag that names no operation (R395). -/
theorem Dev.abortOp_none {d : Dev} {s tag : Nat} (hop : d.host.ops.find? (fun x => x.session == s && x.tag == tag && !x.gone) = none) :
    d.abortOp s tag = (if d.host.doneOps.contains (s, tag) then stLateAbort else stRange, d) := by
  unfold Dev.abortOp
  rw [hop]
  dsimp only
  split <;> rfl

theorem Dev.actOn_abort {d : Dev} (s tag : Nat) (shadow : Bool) (back : Nat) {t : BitVec 32} (hnow : d.abortWaits s t.toNat = false) :
    d.actOn s tag shadow false back (.abort t) = (d.abortOp s t.toNat).2.respond s tag 0x50 d.now (d.abortOp s t.toNat).1 [] := by
  unfold Dev.actOn
  dsimp only
  rw [if_neg (by rw [hnow]; decide)]
  rfl

end Sys2Proof.Machine

open Sys2Proof Sys2Proof.Machine

/-- Settles O50: every leg trips at the receipt, whatever the claims; what an ABORT names decides its answer. -/
theorem stopsAndAborts : Obligations.StopsAndAborts := by
  unfold Obligations.StopsAndAborts
  refine ⟨fun h s hs => ?_, fun h s hs => ?_, fun t v s hrun hlink => ⟨fun hv => ?_, fun hv => ?_⟩, fun h tag o s hs hop hkind => ?_,
    fun h tag s hs hmsgs hop => ?_⟩
  · have hw := (hs.atTime h.t).waits .stopTrip
    obtain ⟨hframe, htrip, hstop, hlegs⟩ := ((s.dev.atTime h.t).heard h .stopTrip).stopTrip_stops
    refine .of_answer (m := .stopTrip) rfl hs (Dev.actOn_stopTrip _ _ _ _ _) hw.now (hw.agree hframe rfl rfl rfl) fun e hanswered hafter => ?_
    rw [hafter.frame.2 .mode rfl]
    exact ⟨htrip, hstop, hanswered, fun n hn => hafter.leg_stopped hn (hlegs n hn)⟩
  · have hw := (hs.atTime h.t).waits .stopLegs
    have hframe := ((s.dev.atTime h.t).heard h .stopLegs).tripLegs_frame allLegs tcStop
    refine .of_answer (m := .stopLegs) rfl hs (Dev.actOn_stopLegs _ _ _ _ _) hw.now (hw.agree hframe rfl rfl rfl) fun e hanswered hafter => ⟨?_, hanswered, ?_⟩
    · rw [hafter.frame.2 .mode rfl]
      exact (hframe.2 .mode rfl).trans (((s.dev.atTime h.t).heard_agree h .stopLegs).2 .mode rfl)
    · exact fun n hn => hafter.leg_stopped hn (Dev.tripAll_stops _ hn)
  · refine .of_does rfl fun e he => ?_
    have hact : (s.dev.atTime t).stopTrip = e := (if_pos ⟨by rw [hv]; rfl, by rw [Dev.up, Dev.atTime_phase, hrun]; rfl, hlink⟩).symm.trans he
    obtain ⟨-, htrip, hstop, hlegs⟩ := (s.dev.atTime t).stopTrip_stops
    rw [hact] at htrip hstop hlegs
    rw [Dev.settle_mode]
    exact ⟨htrip, hstop, fun n hn => by rw [Dev.settle_get _ _ _ rfl]; exact not_or.mp (hlegs n hn)⟩
  · refine .of_does rfl fun e he => ?_
    have hne : ¬ v.toNat = 0x53544F50 := fun h => hv (BitVec.eq_of_toNat_eq h)
    have hact : s.dev.atTime t = e := (if_neg (fun h => hne h.1)).symm.trans he
    rw [Dev.settle_mode, Dev.settle_legs, ← hact]
    exact ⟨rfl, rfl⟩
  · refine .of_heard (m := .abort tag) rfl hs fun e he => ?_
    have hsent := (s.dev.atTime h.t).heard_sent h (.abort tag)
    have hlid := (s.dev.atTime h.t).heard_lid h (.abort tag)
    have hops := hsent.ops
    generalize (s.dev.atTime h.t).heard h (.abort tag) = x at *
    have hfind : x.host.ops.find? (fun y => y.session == h.session.val && y.tag == tag.toNat && !y.gone) = some o := by rw [hops]; exact hop
    have hnow : x.abortWaits h.session.val tag.toNat = false := by rw [Dev.abortWaits, hfind]; rfl
    rw [Dev.actOn_abort _ _ _ _ hnow, Dev.abortOp_activate hfind hkind] at he
    obtain ⟨hended, hboot, -, -⟩ := x.activateEnd_ends 2 stAborted
    have hreply : e.lid = x.activateAbort.lid := by
      rw [← he]
      exact (Dev.respond_frame _ _ _ _ _ _ _ _).2 .lid rfl
    rw [Dev.settle_lid, hreply]
    exact ⟨hended, hboot.trans (congrArg LidSt.boot hlid)⟩
  · have hw := (hs.atTime h.t).waits (.abort tag)
    have hsent := (s.dev.atTime h.t).heard_sent h (.abort tag)
    have hdone := (s.dev.atTime h.t).heard_doneOps h (.abort tag)
    have hfind : ((s.dev.atTime h.t).heard h (.abort tag)).host.ops.find? (fun y => y.session == h.session.val && y.tag == tag.toNat && !y.gone) = none := by
      rw [hsent.ops]
      exact hop
    have hnow : ((s.dev.atTime h.t).heard h (.abort tag)).abortWaits h.session.val tag.toNat = false := by
      rw [Dev.abortWaits, hsent.msgs, Dev.atTime_host, hmsgs]
      exact Bool.and_false _
    have hact := Dev.actOn_abort h.session.val h.tag.toNat h.shadow 72 hnow
    rw [Dev.abortOp_none hfind, hdone] at hact
    exact .of_answer (m := .abort tag) rfl hs hact hw.now hw fun e hanswered _ => hanswered

end

section
/-! PROOF. Sessions and handshakes (R376, R377, R396, R400, R407). -/

namespace Sys2Proof.Machine

/-! ## Ring pairs and sessions -/

theorem Dev.pairRings_rings {d : Dev} (i link st : Nat) (hst : st < 2 ^ 64) :
    (d.pairRings i link st).get Par.ringState i = st ∧ (d.pairRings i link st).get Par.ringState (16 + i) = st
      ∧ ∀ (p : Par) (n : Nat), p.small = true → p ≠ Par.ringLink → p ≠ Par.ringState → (d.pairRings i link st).get p n = d.get p n := by
  unfold Dev.pairRings
  refine ⟨?_, ?_, fun p n hp h1 h2 => ?_⟩
  · rw [Dev.get_put_inst _ _ rfl (by omega), Dev.get_put_same, Nat.mod_eq_of_lt hst]
  · rw [Dev.get_put_same, Nat.mod_eq_of_lt hst]
  · have hlink : Par.apart p Par.ringLink = true := by simp [Par.apart, h1, hp]; rfl
    have hstate : Par.apart p Par.ringState = true := by simp [Par.apart, h2, hp]; rfl
    rw [Dev.get_put_apart _ _ _ _ hstate, Dev.get_put_apart _ _ _ _ hstate, Dev.get_put_apart _ _ _ _ hlink, Dev.get_put_apart _ _ _ _ hlink]

/-- A session on a ring pair opens (R376, R396): its record, its ring pair, its bit in LINK.n. -/
theorem Dev.sessionOpen_opens {d : Dev} {k : Nat} (hk : k < 16) (x : Sess) :
    let e := d.sessionOpen k x
    e.sess k = { x with isOpen := true, auth := true, helloAt := none, lastMsg := d.now } ∧ (∀ j, j ≠ k → e.sess j = d.sess j)
      ∧ (∀ n, e.ring n = d.ring n) ∧ e.get Par.ringState k = 1 ∧ e.get Par.ringState (16 + k) = 1 ∧ bit (e.get Par.linkSessions x.link) k = true
      ∧ (∀ p : Par, p ∈ [Par.ringHead, Par.ringTail, Par.ringDepth] → ∀ n, e.get p n = d.get p n) ∧ e.lid.keys = d.lid.keys := by
  generalize hr : d.sessionOpen k x = r
  intro e
  subst e
  unfold Dev.sessionOpen at hr
  extract_lets noted lid opened at hr
  rw [if_neg (by omega)] at hr
  have hnoted : noted.sess k = { x with isOpen := true, auth := true, helloAt := none, lastMsg := d.now } := Dev.sess_setSess_same _ _ _
  have hothers : ∀ j, j ≠ k → noted.sess j = d.sess j := fun j hj => Dev.sess_setSess_other _ _ _ _ hj
  have hrings : ∀ n, noted.ring n = d.ring n := fun n => d.setSess_ring _ _ _
  have hagree : d.Agree [] [.host] noted := Dev.setSess_frame _ _ _
  clear_value noted
  have hopened : noted.Agree [] [.lid] opened := .upd_lid rfl .refl
  have hkeys : opened.lid.keys = noted.lid.keys := rfl
  clear_value opened
  obtain ⟨hstate, hstate', hrest⟩ := opened.pairRings_rings k x.link 1 (by decide)
  have hpair : opened.Agree [0x91] [] (opened.pairRings k x.link 1) := Dev.pairRings_frame _ _ _ _
  generalize opened.pairRings k x.link 1 = paired at *
  have hbit : paired.Agree [0x90] [] (paired.putBit Par.linkSessions x.link k true) := .putBit rfl rfl .refl
  have hset := paired.bit_putBit_same Par.linkSessions x.link (k := k) (by omega) true
  rw [hr] at hbit hset
  have hhost : r.host = noted.host := (hbit.2 .host rfl).trans ((hpair.2 .host rfl).trans (hopened.2 .host rfl))
  have hlid : r.lid = opened.lid := (hbit.2 .lid rfl).trans (hpair.2 .lid rfl)
  refine ⟨(Dev.sess_of_host hhost k).trans hnoted, fun j hj => (Dev.sess_of_host hhost j).trans (hothers j hj),
    fun n => (Dev.ring_of_host hhost n).trans (hrings n), (hbit.get _ _ rfl rfl).trans hstate, (hbit.get _ _ rfl rfl).trans hstate', hset,
    fun p hp n => ?_, ?_⟩
  · fin_cases hp <;>
    exact (hbit.get _ _ rfl rfl).trans ((hrest _ _ rfl (by decide) (by decide)).trans ((hopened.get _ _ rfl rfl).trans (hagree.get _ _ rfl rfl)))
  · rw [hlid, hkeys, hagree.2 .lid rfl]

/-- An opened session takes its answer. -/
theorem Dev.RingKept.opened {d e : Dev} {h : Hdr} (hr : d.RingKept e h) {x : Sess} (hpcie : x.link = 0) (hown : x.origin = none) :
    d.Waits (e.sessionOpen h.session.val x) h := by
  obtain ⟨hsess, -, hrings, -, hstate, -, hkept, -⟩ := e.sessionOpen_opens h.session.isLt x
  have hnow : (e.sessionOpen h.session.val x).now = e.now := (e.sessionOpen_frame h.session.val x).2 .now rfl
  have hfull : (e.sessionOpen h.session.val x).ringFull (16 + h.session.val) = e.ringFull (16 + h.session.val) := by
    rw [Dev.ringFull, Dev.ringUsed, hkept _ (by simp), hkept _ (by simp), hkept _ (by simp), ← Dev.ringUsed, ← Dev.ringFull]
  exact {
    now := hnow.trans hr.now
    waiting := by rw [hrings]; exact hr.waiting
    room := hfull.trans hr.room
    slots := by rw [hrings]; exact hr.slots
    head := (hkept _ (by simp) _).trans hr.head
    live := by rw [hsess]; rfl
    pcie := by rw [hsess]; exact hpcie
    state := by rw [hstate]; decide
    own := by rw [hsess]; exact hown }

/-! ## OPEN -/

theorem Dev.ringTake_sess (d : Dev) (n : Nat) (m : List Byte × List Byte) (k : Nat) : (d.ringTake n m).sess k = d.sess k := by
  unfold Dev.ringTake
  extract_lets tail put r read headed
  have hput : put.sess k = d.sess k := by
    unfold put Dev.slotPut
    split <;> rfl
  have hread : read.sess k = put.sess k := rfl
  have hheaded : headed.sess k = read.sess k := by
    unfold headed
    split <;> rfl
  exact hheaded.trans (hread.trans hput)

theorem Dev.gated_sess (d : Dev) (h : Hdr) (m : HostMsg) (k : Nat) : (d.gated h m).sess k = d.sess k :=
  (Dev.sess_of_host (Dev.inc_host _ _ _ _ _) k).trans (d.ringTake_sess _ _ k)

/-- OPEN in the command ring of a free pair gets in (R376). -/
theorem Dev.hostMsg_opn {d : Dev} {h : Hdr} (hrun : d.phase = .run) (hpair : d.pairHalted 1 = false) (hlink : d.linkIsUp 0 = true) (hunsealed : h.sealed = none)
    (hseal : d.isOn Par.linkSealRequired 0 = false) (hfree : d.sess h.session.val = {}) (hcommand : d.get Par.ringState h.session.val ≠ 2)
    (hreadable : d.slotBad h.session.val = false) :
    d.hostMsg h .opn = ((d.gated h .opn).sessionOpen h.session.val { link := 0 }).respond h.session.val h.tag.toNat 0x01 (d.gated h .opn).now stOk [] := by
  have hopen : (d.gated h .opn).isOn Par.linkSealRequired 0 = false := by
    have hcounted : (d.gated h .opn).get Par.linkSealRequired 0 = (d.ringTake h.session.val (d.msgSlot h .opn)).get Par.linkSealRequired 0 :=
      Dev.get_put_apart _ _ _ _ (by decide)
    rw [Dev.isOn, hcounted, (d.ringTake_frame _ _).get _ _ (by decide) (by decide)]
    exact hseal
  have hsess : (d.gated h .opn).sess h.session.val = {} := (d.gated_sess h .opn _).trans hfree
  have hgate : d.gate h h.session.val .opn = (.take, d.gated h .opn) := by
    unfold Dev.gated at hopen ⊢
    simp [Dev.gate, hpair, hfree, hlink, hcommand, hreadable, hunsealed, hopen, HostMsg.opcode]
  have hfreePair : (d.gated h .opn).pairFree h.session.val = true := by rw [Dev.pairFree, hsess]; decide
  unfold Dev.hostMsg Dev.hostMsgIn
  rw [if_neg (by rw [hrun]; decide), if_neg (by rw [Dev.up, hrun]; decide), hgate]
  dsimp only
  rw [hsess, if_pos (by decide), if_pos hfreePair]

/-! ## FINISH -/

/-- FINISH of a handshake gets in, where no session is open yet (R399, R400). -/
theorem Dev.hostMsg_finish {d : Dev} {h : Hdr} {sig : List Byte} (hrun : d.phase = .run) (hpair : d.pairHalted 1 = false) (hlink : d.linkIsUp 0 = true)
    (hunsealed : h.sealed = none) (hseal : d.isOn Par.linkSealRequired 0 = false) (hclosed : (d.sess h.session.val).isOpen = false)
    (hhello : (d.sess h.session.val).helloAt.isSome = true) (hpcie : (d.sess h.session.val).link = 0) (hstored : (d.sess h.session.val).stored = [])
    (hmsgs : d.host.msgs = []) (hreadable : d.slotBad h.session.val = false) (hcommand : d.get Par.ringState h.session.val ≠ 2)
    (hroom : d.ringFull (16 + h.session.val) = false) (hwaiting : (d.ring (16 + h.session.val)).waiting = []) :
    d.hostMsg h (.finish sig) = (d.heard h (.finish sig)).finish h.session.val h.tag.toNat false sig := by
  have hopen : (d.gated h (.finish sig)).isOn Par.linkSealRequired 0 = false := by
    have hcounted : (d.gated h (.finish sig)).get Par.linkSealRequired 0 = (d.ringTake h.session.val (d.msgSlot h (.finish sig))).get Par.linkSealRequired 0 :=
      Dev.get_put_apart _ _ _ _ (by decide)
    rw [Dev.isOn, hcounted, (d.ringTake_frame _ _).get _ _ (by decide) (by decide)]
    exact hseal
  have hgate : d.gate h h.session.val (.finish sig) = (.take, d.gated h (.finish sig)) := by
    unfold Dev.gated at hopen ⊢
    simp [Dev.gate, hpair, hclosed, hhello, hpcie, hlink, hcommand, hroom, hwaiting, hreadable, hunsealed, hopen, HostMsg.opcode]
  have hreplay : (d.heard h (.finish sig)).replay h.session.val 0x06 h.tag.toNat = none := by
    rw [Dev.replay, (d.heard_sent h _).session, hstored]
    rfl
  have hnew : (d.heard h (.finish sig)).host.msgs = [] := (d.heard_sent h _).msgs.trans hmsgs
  unfold Dev.hostMsg Dev.hostMsgIn
  rw [if_neg (by rw [hrun]; decide), if_neg (by rw [Dev.up, hrun]; decide), hgate]
  dsimp only
  rw [if_neg (by simp [HostMsg.opcode])]
  unfold Dev.takeMsg
  extract_lets x noted
  have hnoted : noted = d.heard h (.finish sig) := rfl
  clear_value noted
  subst hnoted
  rw [show (HostMsg.finish sig).opcode = 0x06 from rfl, hreplay, hunsealed]
  dsimp only
  rw [hnew, List.any_nil, if_neg Bool.false_ne_true]
  rfl

/-- The session of a FINISH that verifies: open, and counted where no key stands for the device (R400, R407). -/
def Dev.finishAccepted (d : Dev) (k : Nat) : Dev :=
  let opened := d.sessionOpen k (d.sess k)
  if opened.accessKeys = [] then (opened.inc 32 Par.lidUnanchoredSessions 0).raise evLidUnanchored oLid else opened

theorem Dev.finish_judged {d : Dev} {k : Nat} {sig : List Byte} (hhello : (d.sess k).helloAt.isSome = true) (hclosed : (d.sess k).isOpen = false)
    (hlen : sig.length = 96) (tag : Nat) :
    d.finish k tag false sig =
      if Config.ecdsaVerify ((Config.credentialKey (d.sess k).cred).getD []) (sha384 ((d.sess k).hello ++ (d.sess k).ack ++ (mkMsg 0x06 tag k 0 0 sig).take 16)) sig = true then
        (d.finishAccepted k).respond k tag 0x06 (d.finishAccepted k).now stOk []
      else d.respond k tag 0x06 d.now stAuth [] := by
  have hsome : ¬ (d.sess k).helloAt.isNone = true := by
    rw [Option.isNone_iff_eq_none, ← Option.not_isSome_iff_eq_none, hhello]
    decide
  unfold Dev.finish
  extract_lets x head key opened counted
  rw [if_neg hsome, if_neg (by omega), if_neg (show ¬ x.isOpen = true by rw [show x.isOpen = false from hclosed]; decide)]
  split
  case isTrue hbad => rw [if_neg (by simpa [x, key, head, b2n] using hbad)]
  case isFalse hok =>
    rw [if_pos (by simpa [x, key, head, b2n] using hok)]
    rfl

theorem Dev.finishAccepted_frame (d : Dev) (k : Nat) : (d.sessionOpen k (d.sess k)).Agree [0xA0, 0xC0] [.evt] (d.finishAccepted k) := by
  unfold Dev.finishAccepted
  extract_lets opened
  split
  · exact Dev.Agree.step (Dev.raise_frame _ _ _ _ _) rfl rfl (.inc rfl rfl .refl)
  · exact .refl

theorem Dev.finishAccepted_unanchored {d : Dev} {k : Nat} (hkeys : (d.sessionOpen k (d.sess k)).accessKeys = []) :
    (d.finishAccepted k).get Par.lidUnanchoredSessions 0 = ((d.sessionOpen k (d.sess k)).get Par.lidUnanchoredSessions 0 + 1) % 2 ^ 32 := by
  unfold Dev.finishAccepted
  extract_lets opened
  rw [if_pos hkeys, Dev.get_raise _ _ _ _ _ _ rfl rfl, Dev.get_inc_same _ _ _ _ (by decide)]

/-! ## The end of a session -/

/-- The end of a session (R377): its claims end with it, the other sessions stay. -/
theorem Dev.sessionEnd_ends {d : Dev} {k : Nat} (hlive : (d.sess k).isOpen = true ∨ (d.sess k).helloAt.isNone = false) :
    let e := d.sessionEnd k
    (e.sess k).isOpen = false ∧ (e.sess k).ending = true ∧ (∀ c ∈ e.host.claims, c.session = k → c.ending = true)
      ∧ (∀ j, j ≠ k → e.sess j = d.sess j) ∧ (∀ n, e.ring n = d.ring n) ∧ e.host.modeReq = d.host.modeReq := by
  generalize hr : d.sessionEnd k = r
  intro e
  subst e
  unfold Dev.sessionEnd at hr
  extract_lets x noted told host ended lid at hr
  rw [if_neg (fun h => hlive.elim (fun hopen => by simp [x, hopen] at h) (fun hhello => by simp [x, hhello] at h))] at hr
  have hnoted : (noted.sess k).isOpen = false ∧ (noted.sess k).ending = true := by rw [Dev.sess_setSess_same]; exact ⟨rfl, rfl⟩
  have hothers : ∀ j, j ≠ k → noted.sess j = d.sess j := fun j hj => Dev.sess_setSess_other _ _ _ _ hj
  have hsame : noted.host.rings = d.host.rings ∧ noted.host.modeReq = d.host.modeReq := ⟨rfl, rfl⟩
  clear_value noted
  have htold : told.host = noted.host := by
    unfold told
    split
    · exact Dev.putBit_host _ _ _ _ _
    · rfl
  clear_value told
  have hended : ended.host.sess = told.host.sess ∧ ended.host.rings = told.host.rings ∧ ended.host.modeReq = told.host.modeReq
      ∧ ∀ c ∈ ended.host.claims, c.session = k → c.ending = true := by
    refine ⟨rfl, rfl, rfl, fun c hc hk => ?_⟩
    obtain ⟨y, -, rfl⟩ := List.mem_map.mp hc
    by_cases hy : y.session = k
    · rw [if_pos hy]
    · rw [if_neg hy] at hk
      exact absurd hk hy
  clear_value ended
  have hend : r.host = ended.host := by
    rw [← hr]
    split <;> rfl
  obtain ⟨hsess, hrings, hmode, hclaims⟩ := hended
  have hkept : ∀ j, r.sess j = noted.sess j := fun j => by rw [Dev.sess, hend, hsess, htold, Dev.sess]
  refine ⟨by rw [hkept]; exact hnoted.1, by rw [hkept]; exact hnoted.2, by rw [hend]; exact hclaims, fun j hj => by rw [hkept, hothers j hj],
    fun n => by rw [Dev.ring, hend, hrings, htold, hsame.1, Dev.ring], by rw [hend, hmode, htold, hsame.2]⟩

/-- A session that has been silent for its limit is lost (R396). -/
theorem Dev.sessionTimeout_loses {d : Dev} {k : Nat} (hrun : d.phase = .run) (hmode : d.pmode = pmRun) (hopen : (d.sess k).isOpen = true) :
    let e := d.sessionTimeout k
    (e.sess k).isOpen = false ∧ e.isOn Par.evtFlag evHostLost = true ∧ (∀ c ∈ e.host.claims, c.session = k → c.ending = true)
      ∧ ((d.sess k).link < 3 → d.get Par.linkLossCmd (d.sess k).link ≠ 0 → e.host.modeReq = d.host.modeReq ++ [d.get Par.linkLossCmd (d.sess k).link])
      ∧ ∀ j, j ≠ k → e.sess j = d.sess j := by
  generalize hr : d.sessionTimeout k = r
  intro e
  subst e
  unfold Dev.sessionTimeout at hr
  extract_lets x code ended asked at hr
  rw [if_neg (by rw [show x.isOpen = true from hopen, Dev.up, hrun]; decide)] at hr
  obtain ⟨hclosed, -, hclaims, hothers, -, hreqs⟩ := Dev.sessionEnd_ends (.inl hopen)
  have hframe : d.Agree [0x90] [.host, .commits, .lid] ended := Dev.sessionEnd_frame _ _
  have hended : (ended.sess k).isOpen = false ∧ (∀ c ∈ ended.host.claims, c.session = k → c.ending = true) ∧ (∀ j, j ≠ k → ended.sess j = d.sess j)
      ∧ ended.host.modeReq = d.host.modeReq := ⟨hclosed, hclaims, hothers, hreqs⟩
  clear hclosed hclaims hothers hreqs
  clear_value ended
  have hwake : ¬ (ended.pmode = pmParked ∨ ended.pmode = pmWaking) := by
    have hkept : ended.pmode = pmRun := (hframe.get Par.pwrMode 0 rfl rfl).trans hmode
    rw [hkept]
    decide
  have hcommand : ended.modeCommand code = { ended with host := { ended.host with modeReq := ended.host.modeReq ++ [code] } } := if_neg hwake
  have hasked : asked.host.sess = ended.host.sess ∧ asked.host.claims = ended.host.claims ∧ asked.phase = ended.phase
      ∧ (code ≠ 0 → asked.host.modeReq = ended.host.modeReq ++ [code]) := by
    unfold asked
    by_cases hcode : code = 0
    · rw [if_pos hcode]
      exact ⟨rfl, rfl, rfl, fun h => absurd hcode h⟩
    · rw [if_neg hcode, hcommand]
      exact ⟨rfl, rfl, rfl, fun _ => rfl⟩
  clear_value asked
  obtain ⟨hsess, hclaims, hphase, hreq⟩ := hasked
  have hhost : r.host = asked.host := by rw [← hr, Dev.raise_host]
  have hkept : ∀ j, r.sess j = ended.sess j := fun j => by rw [Dev.sess, hhost, hsess, Dev.sess]
  refine ⟨by rw [hkept]; exact hended.1, ?_, by rw [hhost, hclaims]; exact hended.2.1, fun hl hne => ?_, fun j hj => by rw [hkept, hended.2.2.1 j hj]⟩
  · rw [← hr]
    exact asked.isOn_raise _ _ _ (Dev.evtUp_of_run (hphase.trans ((hframe.2 .phase rfl).trans hrun)))
  · have hcode : code = d.get Par.linkLossCmd (d.sess k).link := if_pos hl
    rw [hhost, hreq (by rw [hcode]; exact hne), hended.2.2.2, hcode]

/-! ## Handshakes -/

/-- A handshake that does not end in time frees its pair (R400). -/
theorem Dev.handshakeTimeout_frees {d : Dev} {k : Nat} (hhello : (d.sess k).helloAt.isSome = true) (hclosed : (d.sess k).isOpen = false) :
    let e := d.handshakeTimeout k
    e.sess k = {} ∧ e.get Par.ringState k = 0 ∧ e.get Par.ringState (16 + k) = 0 ∧ ∀ j, j ≠ k → e.sess j = d.sess j := by
  have hend : d.handshakeTimeout k = (d.setSess k {}).pairRings k 255 0 := by
    unfold Dev.handshakeTimeout
    extract_lets x
    rw [if_neg (by rw [Option.isNone_iff_eq_none, ← Option.not_isSome_iff_eq_none, show x.helloAt.isSome = true from hhello]; decide),
      if_neg (by rw [show x.isOpen = false from hclosed]; decide)]
  intro e
  subst e
  rw [hend]
  have hsess : (d.setSess k {}).sess k = {} := Dev.sess_setSess_same _ _ _
  have hothers : ∀ j, j ≠ k → (d.setSess k {}).sess j = d.sess j := fun j hj => Dev.sess_setSess_other _ _ _ _ hj
  generalize d.setSess k {} = x at *
  obtain ⟨hstate, hstate', -⟩ := x.pairRings_rings k 255 0 (by decide)
  have hkept := Dev.sess_of_host ((x.pairRings_frame k 255 0).2 .host rfl)
  exact ⟨(hkept k).trans hsess, hstate, hstate', fun j hj => (hkept j).trans (hothers j hj)⟩

/-- From `d` to `e` the sessions stay but for the number of the next datagram of session `k`, no ring changes its state and no link its sessions. -/
def Dev.RingSends (k : Nat) (d e : Dev) : Prop :=
  (∀ j, j ≠ k → e.sess j = d.sess j) ∧ e.sess k = { d.sess k with txSeq := (e.sess k).txSeq }
    ∧ ((d.sess k).link ≠ 1 → (d.sess k).link ≠ 2 → e.sess k = d.sess k) ∧ ∀ p ∈ [Par.ringState, Par.linkSessions], ∀ n, e.get p n = d.get p n

/-- What leaves the sessions, the states of the rings and the sessions of links alone. -/
theorem Dev.RingSends.of_sess {k : Nat} {d e : Dev} (hsess : ∀ j, e.sess j = d.sess j) (hstate : ∀ p ∈ [Par.ringState, Par.linkSessions], ∀ n, e.get p n = d.get p n) :
    Dev.RingSends k d e := ⟨fun j _ => hsess j, by rw [hsess], fun _ _ => hsess k, hstate⟩

theorem Dev.setRing_sends (k : Nat) (d : Dev) (n : Nat) (x : RingSt) : Dev.RingSends k d (d.setRing n x) := .of_sess (fun _ => rfl) (fun _ _ _ => rfl)

theorem Dev.ringPut_sends (d : Dev) {k : Nat} (hk : k < 16) (m : List Byte) : Dev.RingSends k d (d.ringPut (16 + k) m) := by
  have hsession : d.ringSession (16 + k) = k := by
    unfold Dev.ringSession
    rw [if_neg (by omega), if_pos (by omega), Nat.add_sub_cancel_left]
  generalize hr : d.ringPut (16 + k) m = r
  unfold Dev.ringPut at hr
  extract_lets s eth wasEmpty written x tailed sent src v y counted at hr
  have hs : s = k := hsession
  clear_value s
  subst hs
  have hslot : ∀ j, (d.slotPut (16 + s) (d.get Par.ringHead (16 + s)) m []).sess j = d.sess j := fun j => by
    unfold Dev.slotPut
    split <;> rfl
  have hplaced : d.Agree [] [.host] (d.slotPut (16 + s) (d.get Par.ringHead (16 + s)) m []) := Dev.slotPut_frame _ _ _ _ _
  have hwritten : ∀ j, written.sess j = d.sess j := fun j =>
    (Dev.sess_of_host ((Dev.inc_host _ _ _ _ _).trans (Dev.inc_host _ _ _ _ _)) j).trans (hslot j)
  have hstate : ∀ p ∈ [Par.ringState, Par.linkSessions], ∀ n, written.get p n = d.get p n := fun p hp n => by
    fin_cases hp <;> exact (Dev.get_put_apart _ _ _ _ rfl).trans ((Dev.get_put_apart _ _ _ _ rfl).trans (hplaced.get _ _ rfl rfl))
  by_cases heth : eth = true
  · rw [if_pos heth] at hr
    have htailed : ∀ j, tailed.sess j = d.sess j := fun j =>
      (Dev.sess_of_host ((Dev.inc_host _ _ _ _ _).trans (Dev.inc_host _ _ _ _ _)) j).trans (hwritten j)
    have htold : ∀ p ∈ [Par.ringState, Par.linkSessions], ∀ n, tailed.get p n = d.get p n := fun p hp n => by
      rw [← hstate p hp n]
      fin_cases hp <;> exact (Dev.get_put_apart _ _ _ _ rfl).trans (Dev.get_put_apart _ _ _ _ rfl)
    have hx : x = d.sess s := hwritten s
    have hsent : sent.sess s = { x with txSeq := x.txSeq + 1 } := Dev.sess_setSess_same _ _ _
    have hothers : ∀ j, j ≠ s → sent.sess j = tailed.sess j := fun j hj => Dev.sess_setSess_other _ _ _ _ hj
    have hnoted : tailed.Agree [] [.host] sent := Dev.setSess_frame _ _ _
    clear_value sent tailed x
    subst hx
    have hlast : (∀ j, r.sess j = sent.sess j) ∧ ∀ p n, r.get p n = sent.get p n := by
      rw [← hr]
      exact ⟨fun _ => rfl, fun _ _ => rfl⟩
    have hsessed : r.sess s = { d.sess s with txSeq := (d.sess s).txSeq + 1 } := (hlast.1 s).trans hsent
    refine ⟨fun j hj => by rw [hlast.1, hothers j hj, htailed], by rw [hsessed], fun h1 h2 => ?_, fun p hp n => ?_⟩
    · have hlink : (d.sess s).link = 1 ∨ (d.sess s).link = 2 := by simpa [eth, hk] using heth
      omega
    · rw [hlast.2, ← htold p hp]
      fin_cases hp <;> exact hnoted.get _ _ rfl rfl
  · rw [if_neg heth] at hr
    have hcounted : (∀ j, counted.sess j = d.sess j) ∧ ∀ p ∈ [Par.ringState, Par.linkSessions], ∀ n, counted.get p n = d.get p n :=
      ⟨fun j => (Dev.sess_of_host (Dev.inc_host _ _ _ _ _) j).trans (hwritten j), fun p hp n => by
        rw [← hstate p hp n]
        fin_cases hp <;> exact Dev.get_put_apart _ _ _ _ rfl⟩
    clear_value counted y
    rw [← hr]
    split
    · exact .of_sess hcounted.1 hcounted.2
    · split
      · exact .of_sess hcounted.1 hcounted.2
      · exact .of_sess hcounted.1 hcounted.2

/-- What a message into the ring of a session leaves. -/
theorem Dev.ringPush_sends (d : Dev) {k : Nat} (hk : k < 16) (m : List Byte) : Dev.RingSends k d (d.ringPush (16 + k) m) := by
  unfold Dev.ringPush
  extract_lets r
  split
  · exact d.setRing_sends k _ _
  · exact d.ringPut_sends hk m

/-- An answer changes the state of no ring and the sessions of no link. -/
theorem Dev.respond_rings (d : Dev) {k : Nat} (hk : k < 16) (tag op ts st : Nat) (body : List Byte) (more : Bool) (p : Par)
    (hp : p ∈ [Par.ringState, Par.linkSessions]) (n : Nat) : (d.respond k tag op ts st body more).get p n = d.get p n := by
  unfold Dev.respond
  extract_lets m x
  have hset : d.Agree [] [.host] (d.setSess k { x with stored := storeResp x.stored op tag ts m }) := Dev.setSess_frame _ _ _
  generalize d.setSess k { x with stored := storeResp x.stored op tag ts m } = e at *
  have hkept : e.get p n = d.get p n := by fin_cases hp <;> exact hset.get _ _ rfl rfl
  unfold Dev.sendTo
  rw [if_pos hk]
  split
  · obtain ⟨-, -, -, hpush⟩ := e.ringPush_sends hk m
    rw [hpush p hp, hkept]
  · exact hkept

/-- A HELLO accepted for a pair: it waits for FINISH (R400). -/
theorem Dev.helloTake_takes {d : Dev} {k : Nat} (hk : k < 16) (tag : Nat) {link : Nat} (hello cred : List Byte) :
    let e := d.helloTake k tag { link := link } hello cred
    (e.sess k).helloAt = some d.now ∧ (e.sess k).isOpen = false ∧ (e.sess k).link = link ∧ (e.sess k).cred = cred ∧ e.get Par.ringState k = 1
      ∧ ∀ j, j ≠ k → e.sess j = d.sess j := by
  generalize hr : d.helloTake k tag { link := link } hello cred = r
  intro e
  subst e
  unfold Dev.helloTake at hr
  extract_lets ack y noted paired at hr
  have hnoted : noted.sess k = y := Dev.sess_setSess_same _ _ _
  have hothers : ∀ j, j ≠ k → noted.sess j = d.sess j := fun j hj => Dev.sess_setSess_other _ _ _ _ hj
  have hy : y.helloAt = some d.now ∧ y.isOpen = false ∧ y.link = link ∧ y.cred = cred := ⟨rfl, rfl, rfl, rfl⟩
  clear_value noted y
  have hpaired : paired = noted.pairRings k link 1 := if_neg Bool.false_ne_true
  obtain ⟨hstate, -, -⟩ := noted.pairRings_rings k link 1 (by decide)
  have hkept := Dev.sess_of_host ((noted.pairRings_frame k link 1).2 .host rfl)
  rw [← hpaired] at hstate hkept
  clear_value paired
  obtain ⟨hhello, hclosed, hlink, hcred⟩ := hy
  have hsend : paired.sendTo k ack = paired.ringPush (16 + k) ack := by
    rw [Dev.sendTo, if_pos hk, if_pos (by rw [hkept, hnoted, hhello, hclosed]; rfl)]
  obtain ⟨hsessions, hsess, -, hstates⟩ := paired.ringPush_sends hk ack
  rw [← hsend, hr] at hsessions hsess hstates
  rw [hkept, hnoted] at hsess
  refine ⟨?_, ?_, ?_, ?_, (hstates _ (by simp) k).trans hstate, fun j hj => (hsessions j hj).trans ((hkept j).trans (hothers j hj))⟩ <;> rw [hsess] <;> assumption

theorem Dev.freePair_of_sess {d e : Dev} (h : ∀ j, e.sess j = d.sess j) : e.freePair = d.freePair := by
  have hfree : e.pairFree = d.pairFree := funext fun j => by rw [Dev.pairFree, h, Dev.pairFree]
  rw [Dev.freePair, hfree, Dev.freePair]

theorem Dev.accessKeys_of_keys {d e : Dev} (h : e.lid.keys = d.lid.keys) : e.accessKeys = d.accessKeys := by
  have hslot : e.keySlot = d.keySlot := funext fun k => by rw [Dev.keySlot, h, Dev.keySlot]
  rw [Dev.accessKeys, Dev.accessKeys, hslot]

/-- The checks of a credential look at the keys, the state of time, and the time alone (R407). -/
theorem Dev.Agree.credentialOk {d e : Dev} (h : d.Agree [0x90, 0x91] [.host] e) (cred : List Byte) : e.credentialOk cred = d.credentialOk cred := by
  rw [Dev.credentialOk, Dev.accessKeys_of_keys (congrArg LidSt.keys (h.2 .lid rfl)), h.get Par.beatTimeState 0 rfl rfl, show e.now = d.now from h.2 .now rfl, Dev.credentialOk]

/-- A HELLO that is refused takes no pair (R400). -/
theorem Dev.helloRefuse_keeps {d : Dev} {link i : Nat} (hi : i < 16) (hfree : link = 0 → d.sess i = {}) (tag st : Nat) :
    ∀ j, (d.helloRefuse link i tag st).sess j = d.sess j := by
  intro j
  unfold Dev.helloRefuse
  extract_lets m
  by_cases hl : link = 0
  · rw [if_pos hl, Nat.mod_eq_of_lt hi]
    obtain ⟨hothers, -, hsame, -⟩ := d.ringPush_sends hi m
    by_cases hj : j = i
    · rw [hj]
      exact hsame (by rw [hfree hl]; decide) (by rw [hfree hl]; decide)
    · exact hothers j hj
  · rw [if_neg hl]
    rfl

/-- A HELLO of the right length is judged, once its slot is taken, and takes the pair or is refused. -/
theorem Dev.hello_judged {d : Dev} {link i : Nat} {ses : Option Nat} {x : List Byte} (hrun : d.phase = .run) (hpair : d.pairHalted 1 = false)
    (hup : d.linkIsUp link = true) (hlen : 131 ≤ x.length) (hcred : (x.drop 131).length = leAt x 129 2)
    (hwhich : link = 0 ∧ ses = some i ∧ d.sess i = {} ∧ d.slotBad i = false ∨ (link = 1 ∨ link = 2) ∧ ses = none ∧ d.freePair = some i) (tag : Nat) :
    ∃ e : Dev, (∀ j, e.sess j = d.sess j) ∧ d.Agree [0x90, 0x91] [.host] e ∧ d.hello link ses tag x =
      if Config.validPoint (slice x 0 97) = true ∧ d.credentialOk (x.drop 131) = true then
        e.helloTake i tag { link := link } (mkMsg 0x04 tag (ses.getD 0) 0 0 x) (x.drop 131)
      else e.helloRefuse link i tag stAuth := by
  have hlink : ¬ 2 < link := by omega
  have hin : ¬ ((!d.up) = true ∨ d.pairHalted 1 = true ∨ 2 < link ∨ (!d.linkIsUp link) = true) := by
    rw [Dev.up, hrun, hpair, hup]
    simpa using hlink
  generalize hr : d.hello link ses tag x = r
  unfold Dev.hello at hr
  extract_lets bad counted taken cred hello st again pair at hr
  rw [if_neg hin] at hr
  have hcounted : d.Agree [0x90] [] counted := .inc rfl rfl .refl
  have htaken : (∀ j, taken.sess j = d.sess j) ∧ d.Agree [0x90, 0x91] [.host] taken := by
    have hsess : ∀ j, counted.sess j = d.sess j := Dev.sess_of_host (hcounted.2 .host rfl)
    unfold taken
    split
    · split
      · exact ⟨fun j => (counted.ringTake_sess _ _ j).trans (hsess j), (hcounted.mono rfl rfl).trans ((Dev.ringTake_frame _ _ _).mono rfl rfl)⟩
      · exact ⟨hsess, hcounted.mono rfl rfl⟩
    · exact ⟨hsess, hcounted.mono rfl rfl⟩
  have hbad : bad = false := by
    obtain ⟨hl, hses, -, hslot⟩ | ⟨hl, hses, -⟩ := hwhich <;> subst hses
    · simp [bad, hslot]
    · simp [bad]
  obtain ⟨hsess, hagree⟩ := htaken
  have hagain : again = none := by
    obtain ⟨-, hses, hfree, -⟩ | ⟨-, hses, -⟩ := hwhich <;> subst hses
    · simp [again, hsess, hfree]
    · rfl
  have hpairs : pair = some i := by
    obtain ⟨hl, hses, hfree, -⟩ | ⟨-, hses, hfree⟩ := hwhich <;> subst hses
    · simp [pair, hl, Dev.pairFree, hsess, hfree]
    · exact (Dev.freePair_of_sess hsess).trans hfree
  have hst : st = if Config.validPoint (slice x 0 97) = true ∧ d.credentialOk (x.drop 131) = true then stOk else stAuth := by
    simp only [st, cred, hagree.credentialOk, hcred, Bool.and_eq_true]
    rw [if_neg (by omega)]
  refine ⟨taken, hsess, hagree, ?_⟩
  clear_value taken st pair again bad
  subst hbad hpairs hagain hst
  rw [← hr, if_neg Bool.false_ne_true]
  by_cases hok : Config.validPoint (slice x 0 97) = true ∧ d.credentialOk (x.drop 131) = true
  · simp [hok, cred, hello]
  · simp [hok, stAuth, stOk]

/-- A HELLO of the right length (R400, R407). -/
theorem Dev.hello_waits {d : Dev} {link i : Nat} {ses : Option Nat} {x : List Byte} (hi : i < 16) (hrun : d.phase = .run) (hpair : d.pairHalted 1 = false)
    (hup : d.linkIsUp link = true) (hlen : 131 ≤ x.length) (hcred : (x.drop 131).length = leAt x 129 2)
    (hwhich : link = 0 ∧ ses = some i ∧ d.sess i = {} ∧ d.slotBad i = false ∨ (link = 1 ∨ link = 2) ∧ ses = none ∧ d.freePair = some i) (tag : Nat) :
    let e := d.hello link ses tag x
    (∀ k, k ≠ i → e.sess k = d.sess k) ∧ if Config.validPoint (slice x 0 97) = true ∧ d.credentialOk (x.drop 131) = true then
        (e.sess i).helloAt = some d.now ∧ (e.sess i).isOpen = false ∧ (e.sess i).link = link ∧ (e.sess i).cred = x.drop 131
          ∧ e.get Par.ringState i = 1
      else e.sess i = d.sess i := by
  obtain ⟨e, hsess, hagree, hjudged⟩ := Dev.hello_judged hrun hpair hup hlen hcred hwhich tag
  intro r
  subst r
  rw [hjudged]
  split
  case isTrue hok =>
    obtain ⟨hat, hclosed, hlink, hkept, hstate, hothers⟩ := Dev.helloTake_takes (d := e) hi tag (link := link) (mkMsg 0x04 tag (ses.getD 0) 0 0 x) (x.drop 131)
    exact ⟨fun k hk => (hothers k hk).trans (hsess k), by rw [hat, hagree.2 .now rfl], hclosed, hlink, hkept, hstate⟩
  case isFalse =>
    have hfree : link = 0 → e.sess i = {} := fun h0 => by
      obtain ⟨-, -, hfree, -⟩ | ⟨hl, -⟩ := hwhich
      · rw [hsess, hfree]
      · omega
    have hkeeps := Dev.helloRefuse_keeps hi hfree tag stAuth
    exact ⟨fun k _ => (hkeeps k).trans (hsess k), (hkeeps i).trans (hsess i)⟩

/-! ## The commands -/

theorem Completes.opn {h : Hdr} {s : State} (hrun : s.dev.phase = .run) (hpair : s.dev.pairHalted 1 = false) (hlink : s.dev.linkIsUp 0 = true)
    (hunsealed : h.sealed = none) (hseal : s.dev.isOn Par.linkSealRequired 0 = false) (hfree : s.dev.sess h.session.val = {})
    (hcommand : s.dev.get Par.ringState h.session.val ≠ 2) (hreadable : s.dev.slotBad h.session.val = false)
    (hroom : s.dev.ringFull (16 + h.session.val) = false) (hwaiting : (s.dev.ring (16 + h.session.val)).waiting = []) :
    Completes (.opn h) s (fun d => (d.sess h.session.val).isOpen = true ∧ (d.sess h.session.val).link = 0
      ∧ bit (d.get Par.linkSessions 0) h.session.val = true ∧ d.get Par.ringState h.session.val = 1 ∧ d.get Par.ringState (16 + h.session.val) = 1
      ∧ s.dev.answered d h 0x01 stOk [] false ∧ ∀ k < 80, k ≠ h.session.val → d.sess k = s.dev.sess k) := by
  have hkept := Dev.gated_ringKept (d := s.dev.atTime h.t) (h := h) .opn hwaiting hroom
  refine .of_does (exec_of_hostRequest (h := h) (m := .opn) rfl s) fun e he => ?_
  rw [Dev.hostMsg_opn (d := s.dev.atTime h.t) hrun hpair hlink hunsealed hseal hfree hcommand hreadable] at he
  have hwaits := hkept.opened (x := { link := 0 }) rfl rfl
  have hanswered := hwaits.answered 0x01 stOk [] false hkept.now (s.dev.atTime h.t)
  have hafter := (hwaits.answers 0x01 stOk [] false hkept.now).2.2
  have hpars := (((s.dev.atTime h.t).gated h .opn).sessionOpen h.session.val { link := 0 }).respond_rings h.session.isLt h.tag.toNat 0x01
    ((s.dev.atTime h.t).gated h .opn).now stOk [] false
  have hothers := (s.dev.atTime h.t).gated_sess h .opn
  obtain ⟨hsess, hsame, -, hstate, hstate', hbit, -⟩ := ((s.dev.atTime h.t).gated h .opn).sessionOpen_opens h.session.isLt { link := 0 }
  rw [he] at hanswered hafter hpars
  generalize ((s.dev.atTime h.t).gated h .opn).sessionOpen h.session.val { link := 0 } = opened at *
  have hkeeps := Dev.sess_of_host (e.settle_host (s.dev.atTime h.t))
  refine ⟨?_, ?_, ?_, ?_, ?_, hanswered, fun k _ hk => ?_⟩
  · rw [hkeeps, hafter.session, hsess]
  · rw [hkeeps, hafter.session, hsess]
  · rw [Dev.settle_get _ _ _ rfl, hpars _ (by simp)]
    exact hbit
  · rw [Dev.settle_get _ _ _ rfl, hpars _ (by simp), hstate]
  · rw [Dev.settle_get _ _ _ rfl, hpars _ (by simp), hstate']
  · rw [hkeeps, hafter.others k hk, hsame k hk, hothers]
    rfl

theorem Completes.close {h : Hdr} {s : State} (hs : s.dev.served h 0x02) :
    Completes (.close h) s (fun d => (d.sess h.session.val).isOpen = false ∧ (d.sess h.session.val).ending = true
      ∧ s.dev.answered d h 0x02 stOk [] false ∧ (∀ c ∈ d.host.claims, c.session = h.session.val → c.ending = true)
      ∧ ∀ k < 80, k ≠ h.session.val → d.sess k = s.dev.sess k) := by
  refine .of_heard (m := .close) rfl hs fun e he => ?_
  have hsent := (s.dev.atTime h.t).heard_sent h .close
  have hwaits := (hs.atTime h.t).waits .close
  obtain ⟨hslots, hhead, hreplied⟩ := hwaits.answers 0x02 stOk [] false hwaits.now
  have hact : e = (((s.dev.atTime h.t).heard h .close).respond h.session.val h.tag.toNat 0x02 ((s.dev.atTime h.t).heard h .close).now stOk []).sessionEnd
      h.session.val := he.symm
  clear he
  generalize ((s.dev.atTime h.t).heard h .close).respond h.session.val h.tag.toNat 0x02 ((s.dev.atTime h.t).heard h .close).now stOk [] = r at *
  have hlive : (r.sess h.session.val).isOpen = true := by
    obtain ⟨-, -, -, -, -, hopen, -⟩ := hs
    rw [hreplied.session, hsent.session]
    exact hopen
  obtain ⟨hclosed, hending, hclaims, hothers, hrings, -⟩ := Dev.sessionEnd_ends (.inl hlive)
  have hframe := r.sessionEnd_frame h.session.val
  rw [← hact] at hclosed hending hclaims hothers hrings hframe
  have hhost := e.settle_host (s.dev.atTime h.t)
  refine ⟨by rw [Dev.sess_of_host hhost]; exact hclosed, by rw [Dev.sess_of_host hhost]; exact hending, ⟨?_, ?_⟩, by rw [hhost]; exact hclaims, fun k _ hk => ?_⟩
  · rw [Dev.ring_of_host hhost, hrings]
    exact hslots
  · rw [Dev.settle_get _ _ _ rfl, hframe.get _ _ rfl rfl]
    exact hhead
  · rw [Dev.sess_of_host hhost, hothers k hk, hreplied.others k hk, hsent.others k hk]
    rfl

theorem Completes.heartbeat {h : Hdr} {s : State} (hs : s.dev.served h 0x03) :
    Completes (.heartbeat h) s (fun d => (d.sess h.session.val).isOpen = true ∧ (d.sess h.session.val).lastMsg = s.dev.instant h.t
      ∧ d.host.msgs = s.dev.host.msgs ∧ (d.ring (16 + h.session.val)).slots = (s.dev.ring (16 + h.session.val)).slots) := by
  refine .of_heard (m := .heartbeat) rfl hs fun e he => ?_
  have hact : e = (s.dev.atTime h.t).heard h .heartbeat := he.symm
  have hsent := (s.dev.atTime h.t).heard_sent h .heartbeat
  have hwaits := (hs.atTime h.t).waits .heartbeat
  have hlast : (((s.dev.atTime h.t).heard h .heartbeat).sess h.session.val).lastMsg = ((s.dev.atTime h.t).gated h .heartbeat).now :=
    congrArg Sess.lastMsg (Dev.sess_setSess_same _ _ _)
  have hnow : ((s.dev.atTime h.t).gated h .heartbeat).now = (s.dev.atTime h.t).now := ((s.dev.atTime h.t).gated_sent h .heartbeat).frame.2 .now rfl
  rw [← hact] at hsent hwaits hlast
  obtain ⟨-, -, -, -, -, hopen, -⟩ := hs
  have hhost := e.settle_host (s.dev.atTime h.t)
  refine ⟨?_, ?_, ?_, ?_⟩
  · rw [Dev.sess_of_host hhost, hsent.session]
    exact hopen
  · rw [Dev.sess_of_host hhost, hlast, hnow]
    rfl
  · rw [hhost]
    exact hsent.msgs
  · rw [Dev.ring_of_host hhost]
    exact hwaits.slots

theorem Completes.sessionTimeout {t : Nat} {k : Fin 80} {s : State} (hrun : s.dev.phase = .run) (hmode : s.dev.pmode = pmRun)
    (hopen : (s.dev.sess k.val).isOpen = true) :
    Completes (.sessionTimeout t k) s (fun d => (d.sess k.val).isOpen = false ∧ d.isOn Par.evtFlag evHostLost = true
      ∧ (∀ c ∈ d.host.claims, c.session = k.val → c.ending = true)
      ∧ ((s.dev.sess k.val).link < 3 → s.dev.get Par.linkLossCmd (s.dev.sess k.val).link ≠ 0 →
          d.host.modeReq = s.dev.host.modeReq ++ [s.dev.get Par.linkLossCmd (s.dev.sess k.val).link])
      ∧ ∀ j < 80, j ≠ k.val → d.sess j = s.dev.sess j) := by
  refine .of_does rfl fun e he => ?_
  obtain ⟨hclosed, hflag, hclaims, hreq, hothers⟩ := Dev.sessionTimeout_loses (d := s.dev.atTime t) hrun hmode hopen
  rw [he] at hclosed hflag hclaims hreq hothers
  have hhost := e.settle_host (s.dev.atTime t)
  refine ⟨by rw [Dev.sess_of_host hhost]; exact hclosed, ?_, by rw [hhost]; exact hclaims, by rw [hhost]; exact hreq,
    fun j _ hj => by rw [Dev.sess_of_host hhost]; exact hothers j hj⟩
  exact e.settle_keepsFlags _ _ hflag

theorem Completes.handshakeTimeout {t : Nat} {k : Fin 16} {s : State} (hhello : (s.dev.sess k.val).helloAt.isSome = true)
    (hclosed : (s.dev.sess k.val).isOpen = false) :
    Completes (.handshakeTimeout t k) s (fun d => d.sess k.val = {} ∧ d.get Par.ringState k.val = 0 ∧ d.get Par.ringState (16 + k.val) = 0
      ∧ ∀ j < 80, j ≠ k.val → d.sess j = s.dev.sess j) := by
  refine .of_does rfl fun e he => ?_
  obtain ⟨hfree, hstate, hstate', hothers⟩ := Dev.handshakeTimeout_frees (d := s.dev.atTime t) hhello hclosed
  rw [he] at hfree hstate hstate' hothers
  have hsess := Dev.sess_of_host (e.settle_host (s.dev.atTime t))
  refine ⟨by rw [hsess]; exact hfree, by rw [Dev.settle_get _ _ _ rfl]; exact hstate, by rw [Dev.settle_get _ _ _ rfl]; exact hstate',
    fun j _ hj => by rw [hsess]; exact hothers j hj⟩

theorem Completes.hello {t : Nat} {link : Fin 7} {ses : Option (Fin 16)} {i : Fin 16} {tag : BitVec 32} {x : List Byte} {s : State} (hrun : s.dev.phase = .run)
    (hpair : s.dev.pairHalted 1 = false) (hup : s.dev.linkIsUp link.val = true) (hlen : 131 ≤ x.length) (hcred : (x.drop 131).length = leAt x 129 2)
    (hwhich : link.val = 0 ∧ ses = some i ∧ s.dev.sess i.val = {} ∧ s.dev.slotBad i.val = false
      ∨ (link.val = 1 ∨ link.val = 2) ∧ ses = none ∧ s.dev.freePair = some i.val) :
    Completes (.hello t link ses tag x) s (fun d => (∀ k < 80, k ≠ i.val → d.sess k = s.dev.sess k)
      ∧ if Config.validPoint (slice x 0 97) = true ∧ (s.dev.atTime t).credentialOk (x.drop 131) = true then
          (d.sess i.val).helloAt = some (s.dev.instant t) ∧ (d.sess i.val).isOpen = false ∧ (d.sess i.val).link = link.val
          ∧ (d.sess i.val).cred = x.drop 131 ∧ d.get Par.ringState i.val = 1
        else d.sess i.val = s.dev.sess i.val) := by
  refine .of_does rfl fun e he => ?_
  have hpairs : link.val = 0 ∧ ses.map (·.val) = some i.val ∧ (s.dev.atTime t).sess i.val = {} ∧ (s.dev.atTime t).slotBad i.val = false
      ∨ (link.val = 1 ∨ link.val = 2) ∧ ses.map (·.val) = none ∧ (s.dev.atTime t).freePair = some i.val := by
    obtain ⟨hl, rfl, hfree, hslot⟩ | ⟨hl, rfl, hfree⟩ := hwhich
    · exact .inl ⟨hl, rfl, hfree, hslot⟩
    · exact .inr ⟨hl, rfl, hfree⟩
  obtain ⟨hothers, hjudged⟩ := Dev.hello_waits (d := s.dev.atTime t) i.isLt hrun hpair hup hlen hcred hpairs tag.toNat
  rw [he] at hothers hjudged
  have hsess := Dev.sess_of_host (e.settle_host (s.dev.atTime t))
  rw [hsess, Dev.settle_get _ _ _ rfl]
  exact ⟨fun k _ hk => (hsess k).trans (hothers k hk), hjudged⟩

theorem Completes.finish {h : Hdr} {sig : List Byte} {s : State} (hrun : s.dev.phase = .run) (hpair : s.dev.pairHalted 1 = false) (hlink : s.dev.linkIsUp 0 = true)
    (hunsealed : h.sealed = none) (hseal : s.dev.isOn Par.linkSealRequired 0 = false) (hclosed : (s.dev.sess h.session.val).isOpen = false)
    (hhello : (s.dev.sess h.session.val).helloAt.isSome = true) (hpcie : (s.dev.sess h.session.val).link = 0)
    (hown : (s.dev.sess h.session.val).origin = none) (hstored : (s.dev.sess h.session.val).stored = [])
    (hmsgs : s.dev.host.msgs = []) (hreadable : s.dev.slotBad h.session.val = false) (hcommand : s.dev.get Par.ringState h.session.val ≠ 2)
    (hstate : s.dev.get Par.ringState (16 + h.session.val) ≠ 2) (hroom : s.dev.ringFull (16 + h.session.val) = false)
    (hwaiting : (s.dev.ring (16 + h.session.val)).waiting = []) (hlen : sig.length = 96) :
    let y := s.dev.sess h.session.val
    let signed := Config.ecdsaVerify ((Config.credentialKey y.cred).getD [])
      (sha384 (y.hello ++ y.ack ++ (mkMsg 0x06 h.tag.toNat h.session.val 0 0 sig).take 16)) sig
    Completes (.finish h sig) s (fun d => if signed = true then
        (d.sess h.session.val).isOpen = true ∧ (d.sess h.session.val).auth = true
        ∧ (d.sess h.session.val).helloAt = none ∧ s.dev.answered d h 0x06 stOk [] false
        ∧ (s.dev.accessKeys = [] → d.get Par.lidUnanchoredSessions 0 = (s.dev.get Par.lidUnanchoredSessions 0 + 1) % 2 ^ 32)
      else (d.sess h.session.val).isOpen = false ∧ s.dev.answered d h 0x06 stAuth [] false) := by
  intro y signed
  have hmsg := Dev.hostMsg_finish (d := s.dev.atTime h.t) (sig := sig) hrun hpair hlink hunsealed hseal hclosed hhello hpcie hstored hmsgs hreadable hcommand hroom hwaiting
  have hwaits := Dev.heard_waits (d := s.dev.atTime h.t) (h := h) (.finish sig) hwaiting hroom (by rw [show ((s.dev.atTime h.t).sess h.session.val).helloAt.isSome = true from hhello, Bool.or_true]) hpcie hstate hown
  have hsent := (s.dev.atTime h.t).heard_sent h (.finish sig)
  generalize (s.dev.atTime h.t).heard h (.finish sig) = heard at *
  have hsession : heard.sess h.session.val = { y with lastMsg := (heard.sess h.session.val).lastMsg } := hsent.session
  have hjudged := Dev.finish_judged (d := heard) (k := h.session.val) (sig := sig) (by rw [hsession]; exact hhello) (by rw [hsession]; exact hclosed) hlen h.tag.toNat
  rw [hsession] at hjudged
  have hreply := hmsg.trans hjudged
  by_cases hsigned : signed = true
  · rw [if_pos hsigned] at hreply
    have hopened : (s.dev.atTime h.t).Waits (heard.sessionOpen h.session.val (heard.sess h.session.val)) h :=
      hwaits.toRingKept.opened (by rw [hsession]; exact hpcie) (by rw [hsession]; exact hown)
    obtain ⟨hsess, -, -, -, -, -, -, hkept⟩ := heard.sessionOpen_opens h.session.isLt (heard.sess h.session.val)
    have hopens := heard.sessionOpen_frame h.session.val (heard.sess h.session.val)
    have hcount := heard.finishAccepted_unanchored (k := h.session.val)
    have hframe := heard.finishAccepted_frame h.session.val
    generalize heard.sessionOpen h.session.val (heard.sess h.session.val) = opened at *
    generalize heard.finishAccepted h.session.val = accepted at *
    have haccepted := hopened.agree hframe rfl rfl rfl
    refine .of_reply (m := .finish sig) rfl hreply haccepted.now haccepted fun e hanswered hafter => ?_
    rw [if_pos hsigned, hafter.session, Dev.sess_of_host (hframe.2 .host rfl), hsess]
    refine ⟨rfl, rfl, rfl, hanswered, fun hkeys => ?_⟩
    have hlid : heard.lid = s.dev.lid := hsent.frame.2 .lid rfl
    rw [hafter.frame.get _ _ rfl rfl, hcount (by rw [Dev.accessKeys_of_keys (hkept.trans (congrArg LidSt.keys hlid)), hkeys]), hopens.get _ _ rfl rfl,
      hsent.frame.get _ _ rfl rfl]
    rfl
  · rw [if_neg hsigned] at hreply
    refine .of_reply (m := .finish sig) rfl hreply hwaits.now hwaits fun e hanswered hafter => ?_
    rw [if_neg hsigned]
    exact ⟨by rw [hafter.session, hsession]; exact hclosed, hanswered⟩

end Sys2Proof.Machine

open Sys2Proof Sys2Proof.Machine

/-- Settles O47: each message as it gets in: OPEN and FINISH open a session and answer in its ring, CLOSE answers and then ends it, HEARTBEAT is heard
and no more; a HELLO is judged once its slot is taken. -/
theorem sessionsAndHandshakes : Obligations.SessionsAndHandshakes := by
  unfold Obligations.SessionsAndHandshakes
  refine ⟨⟨fun h s => ?_, fun h s hs => .close hs, fun h s hs => .heartbeat hs, fun t k s => ?_, fun t k s => ?_⟩, fun t link ses i tag x s => ?_, fun h sig s => ?_⟩
  · exact fun hrun hpair hlink hunsealed hseal hfree hcommand hreadable hroom hwaiting =>
      .opn hrun hpair hlink hunsealed hseal hfree hcommand hreadable hroom hwaiting
  · exact fun hrun hmode hopen => .sessionTimeout hrun hmode hopen
  · exact fun hhello hclosed => .handshakeTimeout hhello hclosed
  · exact fun hrun hpair hup hlen hcred hwhich => .hello hrun hpair hup hlen hcred hwhich
  · exact fun hrun hpair hlink hunsealed hseal hclosed hhello hpcie hown hstored hmsgs hreadable hcommand hstate hroom hwaiting hlen =>
      .finish hrun hpair hlink hunsealed hseal hclosed hhello hpcie hown hstored hmsgs hreadable hcommand hstate hroom hwaiting hlen

end

section
/-! PROOF. Writes to SPOKE.n, CELL.s.p, ARM.j and CTX.n (R106, R109, R146, R149, R153, R177). -/

namespace Sys2Proof.Machine

/-! ## A write by its parameter -/

/-- A write of a parameter goes by the rule of its class, with the reserved bits of a bitset cleared (R11). -/
theorem Dev.applyWrite_oid (d : Dev) (ses tag ts : Nat) (p : Par) {i : Nat} (hi : i < 16777216) (v : W64)
    (hacc : ((rowOf p).map PRow.acc).getD .ro ≠ .ro) :
    d.applyWrite ses tag ts (oid p.cls i) p.idx v = (d.wRule ses tag ts p i (((rowOf p).map (fun r => domClean r.dom v)).getD v)).getD
      (stOk, d.setRaw p i (((rowOf p).map (fun r => domClean r.dom v)).getD v)) := by
  have hcls : oid p.cls i / 16777216 = p.cls := by
    rw [oid]
    omega
  have hinst : oid p.cls i % 16777216 = i := by
    rw [oid]
    omega
  unfold Dev.applyWrite
  extract_lets q j w
  have hq : q = p := by
    show (⟨oid p.cls i / 16777216, p.idx⟩ : Par) = p
    rw [hcls]
  have hj : j = i := hinst
  clear_value q j
  subst hq hj
  rw [if_neg hacc]

/-! ## SPOKE.n -/

/-- A discovery of a ring whose configuration stands starts; another takes it to FAULT (R104, R105). -/
theorem Dev.discStart_starts {d : Dev} {s : Nat} (hnone : (d.spoke s).disc = none) :
    (d.ringConfigBad s = false → ((d.discStart s).spoke s).disc.isSome = true ∧ (d.discStart s).get Par.spokeState s = rsDiscover)
      ∧ (d.ringConfigBad s = true → ((d.discStart s).spoke s).disc = none ∧ (d.discStart s).get Par.spokeState s = rsFault) := by
  generalize hr : d.discStart s = r
  unfold Dev.discStart at hr
  extract_lets before kept after found cells at hr
  rw [if_neg (by rw [hnone]; decide)] at hr
  refine ⟨fun hgood => ?_, fun hbad => ?_⟩
  · rw [if_neg (by rw [hgood]; decide)] at hr
    have hkept : kept.get Par.spokeState s = rsDiscover := (d.ringState_shows (by decide)).1
    have hfound : kept.Agree [] [.spokes] found ∧ (found.spoke s).disc.isSome = true := ⟨Dev.setSpoke_frame _ _ _, by rw [Dev.spoke_setSpoke_same]; rfl⟩
    clear_value found kept
    have hcells : found.Agree [] [.cells] cells := .forN (fun _ _ h => .step (Dev.setCell_frame _ _ _) rfl rfl h) .refl
    clear_value cells
    have hset : cells.Agree [0x10] [] r := hr ▸ .put rfl rfl (.put rfl rfl (.put rfl rfl .refl))
    refine ⟨?_, ?_⟩
    · rw [Dev.spoke_of_spokes (hset.2 .spokes rfl), Dev.spoke_of_spokes (hcells.2 .spokes rfl)]
      exact hfound.2
    · rw [← hr, Dev.get_put_apart _ _ _ _ rfl, Dev.get_put_apart _ _ _ _ rfl, Dev.get_put_apart _ _ _ _ rfl, hcells.get _ _ rfl rfl,
        hfound.1.get _ _ rfl rfl, hkept]
  · rw [if_pos hbad] at hr
    have hstate := (d.ringState_shows (a := s) (st := rsFault) (by decide)).1
    generalize d.ringState s rsFault = x at *
    have hset : x.Agree [] [.spokes] (x.setSpoke s { d.spoke s with autoPend := false }) ∧ ((x.setSpoke s { d.spoke s with autoPend := false }).spoke s).disc = none :=
      ⟨Dev.setSpoke_frame _ _ _, by rw [Dev.spoke_setSpoke_same]; exact hnone⟩
    generalize x.setSpoke s { d.spoke s with autoPend := false } = y at *
    have hraise : y.Agree [0xC0] [.evt] r := hr ▸ Dev.raise_frame _ _ _ _ _
    exact ⟨by rw [Dev.spoke_of_spokes (hraise.2 .spokes rfl)]; exact hset.2, by rw [hraise.get _ _ rfl rfl, hset.1.get _ _ rfl rfl, hstate]⟩

theorem Dev.applyWrite_discover (d : Dev) (ses tag ts : Nat) (s : Fin 64) : d.applyWrite ses tag ts (oid 0x10 s.val) Par.spokeDiscover.idx 1 =
    if d.judgeDiscover s.val ≠ stOk then (d.judgeDiscover s.val, d) else (stOk, if (d.spoke s.val).disc.isSome then d else d.discStart s.val) := by
  rw [show oid 0x10 s.val = oid Par.spokeDiscover.cls s.val from rfl, d.applyWrite_oid ses tag ts Par.spokeDiscover (by omega) 1 (by decide)]
  show ((if d.judgeDiscover s.val ≠ stOk then no d (d.judgeDiscover s.val) else did _ : Option (Nat × Dev))).getD _ = _
  split <;> rfl

theorem Dev.applyWrite_unblock {d : Dev} (ses tag ts : Nat) (s : Fin 64) (hruns : d.cellsRun = false) :
    d.applyWrite ses tag ts (oid 0x10 s.val) Par.spokeUnblock.idx 1 = (stBadState, d) := by
  rw [show oid 0x10 s.val = oid Par.spokeUnblock.cls s.val from rfl, d.applyWrite_oid ses tag ts Par.spokeUnblock (by omega) 1 (by decide)]
  show ((if (!d.cellsRun) = true then no d stBadState else did _ : Option (Nat × Dev))).getD _ = _
  rw [hruns]
  rfl

/-! ## CELL.s.p -/

theorem Dev.applyWrite_bypass (d : Dev) (ses tag ts : Nat) (c : Fin 512) :
    d.applyWrite ses tag ts (oid 0x11 c.val) Par.cellBypass.idx 1 = (stOk, d.selectBypass c.val) := by
  rw [show oid 0x11 c.val = oid Par.cellBypass.cls c.val from rfl, d.applyWrite_oid ses tag ts Par.cellBypass (by omega) 1 (by decide)]
  rfl

/-- A cell chosen for bypass counts in its arm (R149). -/
theorem Dev.selectBypass_counts {d : Dev} {c j : Nat} (hnone : d.get Par.cellProtState c = bpNone) (harm : d.armOf c = some j) :
    (d.selectBypass c).get Par.armBypassed j = (d.get Par.armBypassed j + 1) % 2 ^ 16 := by
  generalize hr : d.selectBypass c = r
  unfold Dev.selectBypass at hr
  extract_lets chosen cell marked at hr
  rw [if_neg (fun h => h hnone)] at hr
  have hagree : d.Agree [0x11] [.cells] marked := Dev.Agree.step (Dev.setCell_frame _ _ _) rfl rfl (.put rfl rfl .refl)
  clear_value marked
  have hmarked : marked.armOf c = some j := by
    rw [← harm, Dev.armOf, Dev.armOf]
    simp only [hagree.get Par.armSpokeSet _ rfl rfl]
  rw [hmarked] at hr
  subst hr
  rw [Dev.get_inc_same _ _ _ _ (by decide), hagree.get _ _ rfl rfl]

theorem Dev.applyWrite_clearLock (d : Dev) (ses tag ts : Nat) (c : Fin 512) (v : W64) :
    d.applyWrite ses tag ts (oid 0x11 c.val) Par.cellClearLock.idx v =
      if (!d.cellBlocked c.val) = true ∨ d.get Par.cellProtState c.val = bpBypassed ∨ d.inRunArm c.val = true then (stBadState, d)
      else (stOk, d.setCell c.val { d.cell c.val with clearLock := some (v.toNat % 16) }) := by
  have hreserved : (v &&& BitVec.ofNat 64 15).toNat % 16 = v.toNat % 16 := by
    rw [BitVec.toNat_and, show (BitVec.ofNat 64 15).toNat = 2 ^ 4 - 1 from rfl, Nat.and_two_pow_sub_one_eq_mod]
    exact Nat.mod_mod _ _
  rw [show oid 0x11 c.val = oid Par.cellClearLock.cls c.val from rfl, d.applyWrite_oid ses tag ts Par.cellClearLock (by omega) v (by decide)]
  show ((if (!d.cellBlocked c.val) = true ∨ d.get Par.cellProtState c.val = bpBypassed ∨ d.inRunArm c.val = true then no d stBadState
    else did (d.setCell c.val { d.cell c.val with clearLock := some ((v &&& BitVec.ofNat 64 15).toNat % 16) }) : Option (Nat × Dev))).getD _ = _
  rw [hreserved]
  split <;> rfl

/-! ## ARM.j and CTX.n -/

theorem Dev.applyWrite_blockClear (d : Dev) (ses tag ts : Nat) (j : Fin 24) : d.applyWrite ses tag ts (oid 0x12 j.val) Par.armBlockClear.idx 1 =
    if d.cellsRun = true then (stBadState, d) else (stOk, d.armBlockClear j.val) := by
  rw [show oid 0x12 j.val = oid Par.armBlockClear.cls j.val from rfl, d.applyWrite_oid ses tag ts Par.armBlockClear (by omega) 1 (by decide)]
  show ((if d.cellsRun = true then no d stBadState else did (d.armBlockClear j.val) : Option (Nat × Dev))).getD _ = _
  split <;> rfl

/-- A block_clear with the cells at rest takes a blocked arm to STOPPED (R151). -/
theorem Dev.armBlockClear_stops {d : Dev} {j : Nat} (hrest : d.cellsRun = false) :
    (d.armBlockClear j).get Par.armState j = if d.get Par.armState j = asBlocked then asStopped else d.get Par.armState j := by
  unfold Dev.armBlockClear
  rw [hrest]
  by_cases hblocked : d.get Par.armState j = asBlocked
  · rw [if_pos ⟨hblocked, rfl⟩, if_pos hblocked, (Dev.setArm_frame _ _ _).get _ _ rfl rfl, Dev.get_put_lt _ (by decide)]
  · rw [if_neg (fun h => hblocked h.1), if_neg hblocked]

theorem Dev.applyWrite_recover (d : Dev) (ses tag ts : Nat) (c : Fin 128) : d.applyWrite ses tag ts (oid 0x20 c.val) Par.ctxRecover.idx 1 =
    if d.get Par.ctxState c.val ≠ xsFallback then (stBadState, d) else (stOk, d.setCtx c.val { d.ctx c.val with recover := true }) := by
  rw [show oid 0x20 c.val = oid Par.ctxRecover.cls c.val from rfl, d.applyWrite_oid ses tag ts Par.ctxRecover (by omega) 1 (by decide)]
  show ((if d.get Par.ctxState c.val ≠ xsFallback then no d stBadState else did (d.setCtx c.val { d.ctx c.val with recover := true }) : Option (Nat × Dev))).getD _ = _
  split <;> rfl

end Sys2Proof.Machine

open Sys2Proof Sys2Proof.Machine

/-- Settles O56: each write is the rule of its parameter, and its effect the operation's. -/
theorem cellAndArmWrites : Obligations.CellAndArmWrites := by
  unfold Obligations.CellAndArmWrites
  refine ⟨fun d ses tag ts s => ?_, fun d ses tag ts c => ?_, fun d ses tag ts j => ?_, fun d ses tag ts c => ?_⟩
  · intro disc
    have hdisc : disc = _ := d.applyWrite_discover ses tag ts s
    refine ⟨fun hbad => ?_, fun hok hnone hgood => ?_, fun hok hnone hbad => ?_, fun hrest => Dev.applyWrite_unblock ses tag ts s hrest⟩
    · rw [hdisc, if_pos hbad]
    · rw [hdisc, if_neg (fun h => h hok), hnone, if_neg (by decide)]
      exact ⟨rfl, (Dev.discStart_starts hnone).1 hgood⟩
    · rw [hdisc, if_neg (fun h => h hok), hnone, if_neg (by decide)]
      exact ⟨rfl, (Dev.discStart_starts hnone).2 hbad⟩
  · intro byp unl
    have hbyp : byp = _ := d.applyWrite_bypass ses tag ts c
    have hunl : ∀ v, unl v = _ := d.applyWrite_clearLock ses tag ts c
    refine ⟨fun hnone => ?_, fun hchosen => ?_, fun v hno => ?_, fun v hblocked hbypassed hrest => ?_⟩
    · obtain ⟨hpends, hfrom⟩ := Dev.selectBypass_pends hnone
      rw [hbyp]
      exact ⟨rfl, hpends, hfrom, fun j harm => Dev.selectBypass_counts hnone harm⟩
    · rw [hbyp, Dev.selectBypass, if_pos hchosen]
    · rw [hunl, if_pos (by simpa using hno)]
    · rw [hunl, if_neg (by simp [hblocked, hbypassed, hrest])]
  · intro r
    have hr : r = _ := d.applyWrite_blockClear ses tag ts j
    refine ⟨fun hruns => by rw [hr, if_pos hruns], fun hrest => ?_⟩
    rw [hr, if_neg (by rw [hrest]; decide)]
    exact ⟨rfl, Dev.armBlockClear_stops hrest⟩
  · intro r
    have hr : r = _ := d.applyWrite_recover ses tag ts c
    refine ⟨fun hother => by rw [hr, if_pos hother], fun hfallback => ?_⟩
    rw [hr, if_neg (fun h => h hfallback)]
    exact ⟨rfl, by rw [Dev.ctx_setCtx_same], ((Dev.setCtx_frame _ _ _).get _ _ rfl rfl).trans hfallback⟩

end

section
/-! PROOF. Writes to CAP.n, TRIG.n, ADC.n, WIN.n and WEAVE.0 (R267, R279, R308, R313, R316, R318, R369). -/

namespace Sys2Proof.Machine

/-! ## CAP.n/run -/

theorem Dev.applyWrite_runOn (d : Dev) (ses tag ts : Nat) (n : Fin 32) : d.applyWrite ses tag ts (oid 0x60 n.val) Par.capRun.idx 1 =
    if d.judgeStart n.val ≠ stOk then (d.judgeStart n.val, d) else (stOk, d.startStream n.val none) := by
  rw [show oid 0x60 n.val = oid Par.capRun.cls n.val from rfl, d.applyWrite_oid ses tag ts Par.capRun (by omega) 1 (by decide)]
  show ((if d.judgeStart n.val ≠ stOk then no d (d.judgeStart n.val) else did (d.startStream n.val none) : Option (Nat × Dev))).getD _ = _
  split <;> rfl

theorem Dev.applyWrite_runOff (d : Dev) (ses tag ts : Nat) (n : Fin 32) : d.applyWrite ses tag ts (oid 0x60 n.val) Par.capRun.idx 0 =
    if d.get Par.capState n.val = csIdle then (stOk, d)
    else if d.get Par.capMode n.val = 0 then (stOk, if d.get Par.capState n.val = csStream then d.stopStream n.val else d)
    else if d.get Par.capState n.val = csDeliver then (stLateAbort, d) else (stAborted, d.capIdle n.val) := by
  rw [show oid 0x60 n.val = oid Par.capRun.cls n.val from rfl, d.applyWrite_oid ses tag ts Par.capRun (by omega) 0 (by decide)]
  show ((if d.get Par.capState n.val = csIdle then did d
    else if d.get Par.capMode n.val = 0 then did (if d.get Par.capState n.val = csStream then d.stopStream n.val else d)
    else if d.get Par.capState n.val = csDeliver then no d stLateAbort else some (stAborted, d.capIdle n.val) : Option (Nat × Dev))).getD _ = _
  split
  · rfl
  · split
    · rfl
    · split <;> rfl

/-- A start streams, or arms a ring-buffer capture (R307, R313). -/
theorem Dev.startStream_starts (d : Dev) (n : Nat) (gap : Option (Nat × Nat)) :
    let e := d.startStream n gap
    e.get Par.capRun n = 1 ∧ e.get Par.capSamples n = 0 ∧ e.get Par.capState n = if d.get Par.capMode n = 0 then csStream else csArmed := by
  generalize hr : d.startStream n gap = r
  intro e
  subst e
  unfold Dev.startStream at hr
  extract_lets x noted shown start at hr
  have hnoted : d.Agree [] [.caps] noted := Dev.setCap_frame _ _ _
  clear_value noted
  have hshown : shown.get Par.capRun n = 1 ∧ shown.get Par.capSamples n = 0 ∧ shown.get Par.capMode n = d.get Par.capMode n :=
    ⟨Dev.get_put_lt _ (by decide), (Dev.get_put_apart _ _ _ _ rfl).trans (Dev.get_put_lt _ (by decide)),
      (Dev.get_put_apart _ _ _ _ rfl).trans ((Dev.get_put_apart _ _ _ _ rfl).trans (hnoted.get _ _ rfl rfl))⟩
  clear_value shown
  obtain ⟨hrun, hsamples, hmode⟩ := hshown
  have hset (st : Nat) (hst : st < 2 ^ 64) : (shown.put Par.capState n st).get Par.capRun n = 1 ∧ (shown.put Par.capState n st).get Par.capSamples n = 0
      ∧ (shown.put Par.capState n st).get Par.capState n = st :=
    ⟨(Dev.get_put_apart _ _ _ _ rfl).trans hrun, (Dev.get_put_apart _ _ _ _ rfl).trans hsamples, Dev.get_put_lt _ hst⟩
  rw [hmode] at hr
  by_cases hstream : d.get Par.capMode n = 0
  · rw [if_pos hstream] at hr
    have hmarked := (shown.put Par.capState n csStream).markStream_frame n start
    rw [hr] at hmarked
    rw [if_pos hstream, hmarked.get _ _ rfl rfl, hmarked.get _ _ rfl rfl, hmarked.get _ _ rfl rfl]
    exact hset csStream (by decide)
  · rw [if_neg hstream] at hr
    have hmarked := (shown.put Par.capState n csArmed).markRing_frame n start
    rw [hr] at hmarked
    rw [if_neg hstream, hmarked.get _ _ rfl rfl, hmarked.get _ _ rfl rfl, hmarked.get _ _ rfl rfl]
    exact hset csArmed (by decide)

theorem Dev.capIdle_rests (d : Dev) (n : Nat) : (d.capIdle n).get Par.capState n = csIdle ∧ (d.capIdle n).get Par.capRun n = 0 ∧ (d.capIdle n).cap n = (d.cap n).kept := by
  unfold Dev.capIdle
  refine ⟨(Dev.get_put_apart _ _ _ _ rfl).trans (Dev.get_put_lt _ (by decide)), Dev.get_put_lt _ (by decide), ?_⟩
  have hset : (d.setCap n (d.cap n).kept).cap n = (d.cap n).kept := Dev.cap_setCap_same _ _ _
  generalize d.setCap n (d.cap n).kept = x at *
  rw [Dev.cap, Dev.put_caps, Dev.put_caps]
  exact hset

/-! ## TRIG.n/arm -/

/-- A weave-wide arm value waits for its beat here and leaves for every stake (R318). -/
def Dev.armEverywhere (d : Dev) (n v : Nat) : Dev :=
  (d.setTrig n { d.trig n with armNext := some (v, d.beatNo + 1), autoHere := true }).weavePut wkTrigArm 0xFF
    (leBytes 1 n ++ leBytes 1 v ++ leBytes 8 (d.beatNo + 1))

theorem Dev.armEverywhere_waits (d : Dev) (n v : Nat) :
    let e := d.armEverywhere n v
    (e.trig n).armNext = some (v, d.beatNo + 1) ∧ e.get Par.trigState n = d.get Par.trigState n
      ∧ (d.weave.stake.isSome = true → ∃ w ∈ e.weave.out, w.kind = wkTrigArm ∧ w.dest = 0xFF) := by
  unfold Dev.armEverywhere
  have hset : ((d.setTrig n { d.trig n with armNext := some (v, d.beatNo + 1), autoHere := true }).trig n).armNext = some (v, d.beatNo + 1) := by
    rw [Dev.trig_setTrig_same]
  have hagree : d.Agree [] [.trigs] (d.setTrig n { d.trig n with armNext := some (v, d.beatNo + 1), autoHere := true }) := Dev.setTrig_frame _ _ _
  generalize d.setTrig n { d.trig n with armNext := some (v, d.beatNo + 1), autoHere := true } = x at *
  have hsent := x.weavePut_frame wkTrigArm 0xFF (leBytes 1 n ++ leBytes 1 v ++ leBytes 8 (d.beatNo + 1)) 255
  refine ⟨?_, (hsent.get _ _ rfl rfl).trans (hagree.get _ _ rfl rfl), fun hstake => ?_⟩
  · rw [Dev.trig_of_trigs (hsent.2 .trigs rfl)]
    exact hset
  · have hnumber : x.weave.stake.isNone = false := by
      rw [show x.weave = d.weave from hagree.2 .weave rfl, Option.isNone_eq_false_iff]
      exact hstake
    obtain ⟨q, hq⟩ := x.weavePut_leaves (kind := wkTrigArm) 0xFF (leBytes 1 n ++ leBytes 1 v ++ leBytes 8 (d.beatNo + 1)) 255 (.inl hnumber)
    exact ⟨_, hq, rfl, rfl⟩

theorem Dev.applyWrite_arm (d : Dev) (ses tag ts : Nat) (n : Fin 16) (v : W64) : d.applyWrite ses tag ts (oid 0x61 n.val) Par.trigArm.idx v =
    if d.isOn Par.trigWeave n.val = true then
      (stOk, d.armEverywhere n.val v.toNat)
    else (stOk, d.trigArm n.val v.toNat true) := by
  rw [show oid 0x61 n.val = oid Par.trigArm.cls n.val from rfl, d.applyWrite_oid ses tag ts Par.trigArm (by omega) v (by decide)]
  show ((if d.isOn Par.trigWeave n.val = true then
      did (d.armEverywhere n.val v.toNat)
    else did (d.trigArm n.val v.toNat true) : Option (Nat × Dev))).getD _ = _
  split <;> rfl

/-- An arm value of the device's own trigger (R316). -/
theorem Dev.trigArm_takes (d : Dev) (n : Nat) (here : Bool) : (d.trigArm n 0 here).get Par.trigState n = tsOff
    ∧ (d.trigArm n 1 here).get Par.trigState n
      = if d.get Par.trigState n = tsOff then (if d.get Par.trigKind n = 1 then tsWait else tsArmed) else d.get Par.trigState n := by
  refine ⟨?_, ?_⟩
  · unfold Dev.trigArm
    rw [if_pos rfl, Dev.get_put_lt _ (by decide)]
  · generalize hr : d.trigArm n 1 here = r
    unfold Dev.trigArm at hr
    extract_lets put x set at hr
    have hput : put.get Par.trigState n = d.get Par.trigState n ∧ put.get Par.trigKind n = d.get Par.trigKind n :=
      ⟨Dev.get_put_apart _ _ _ _ rfl, Dev.get_put_apart _ _ _ _ rfl⟩
    have hset : put.Agree [] [.trigs] set := Dev.setTrig_frame _ _ _
    clear_value put set
    obtain ⟨hstate, hkind⟩ := hput
    rw [if_neg (by decide), hstate] at hr
    by_cases hoff : d.get Par.trigState n = tsOff
    · rw [if_neg (fun h => h hoff), hset.get _ _ rfl rfl, hkind] at hr
      rw [if_pos hoff, ← hr]
      split <;> exact Dev.get_put_lt _ (by decide)
    · rw [if_pos hoff] at hr
      rw [if_neg hoff, ← hr, hstate]

/-! ## ADC.n, WIN.n and WEAVE.0 -/

theorem Dev.applyWrite_calibrate (d : Dev) (ses tag ts : Nat) (n : Fin 24) :
    d.applyWrite ses tag ts (oid 0x40 n.val) Par.adcCalibrate.idx 1 = (stOk, d.adcCalStart n.val) := by
  rw [show oid 0x40 n.val = oid Par.adcCalibrate.cls n.val from rfl, d.applyWrite_oid ses tag ts Par.adcCalibrate (by omega) 1 (by decide)]
  rfl

theorem Dev.applyWrite_readback (d : Dev) (ses tag ts : Nat) (w : Fin 64) {v : W64} (hv : v ≠ 0) :
    d.applyWrite ses tag ts (oid 0x42 w.val) Par.winReadback.idx v =
      if d.judgeReadback w.val ≠ stOk then (stBusy, d) else (stOk, d.readbackStart w.val v.toNat) := by
  have hne : v.toNat ≠ 0 := fun h => hv (BitVec.eq_of_toNat_eq h)
  rw [show oid 0x42 w.val = oid Par.winReadback.cls w.val from rfl, d.applyWrite_oid ses tag ts Par.winReadback (by omega) v (by decide)]
  show ((if v.toNat = 0 then did d else if d.judgeReadback w.val ≠ stOk then no d stBusy else did (d.readbackStart w.val v.toNat) : Option (Nat × Dev))).getD _ = _
  rw [if_neg hne]
  split <;> rfl

/-- A check that is asked for. -/
theorem Dev.readbackStart_asks (d : Dev) (w : Nat) {which : Nat} (h : which < 2 ^ 64) :
    ((d.readbackStart w which).win w).check.isSome = true ∧ (d.readbackStart w which).get Par.winReadback w = which := by
  refine ⟨?_, Dev.get_put_lt _ h⟩
  unfold Dev.readbackStart
  have hset : ((d.setWin w { d.win w with check := some { which := which, chan := d.get Par.winReadbackChan w } }).win w).check.isSome = true := by
    rw [Dev.win_setWin_same]
    rfl
  generalize d.setWin w { d.win w with check := some { which := which, chan := d.get Par.winReadbackChan w } } = x at *
  rw [Dev.win, Dev.put_wins]
  exact hset

theorem Dev.applyWrite_winFlag (d : Dev) (ses tag ts : Nat) (w : Fin 64) : d.applyWrite ses tag ts (oid 0x42 w.val) Par.winFlag.idx 1 =
    (stOk, if (!d.isOn Par.winTripped w.val) = true ∧ (d.get Par.winTripCount w.val = 0 ∨ d.get Par.winTripTime w.val < ts) then d.put Par.winFlag w.val 0 else d) := by
  rw [show oid 0x42 w.val = oid Par.winFlag.cls w.val from rfl, d.applyWrite_oid ses tag ts Par.winFlag (by omega) 1 (by decide)]
  show (stOk, if bit 1 0 = true ∧ (!d.isOn Par.winTripped w.val) = true ∧ (d.get Par.winTripCount w.val = 0 ∨ d.get Par.winTripTime w.val < ts) then
    d.put Par.winFlag w.val 0 else d) = _
  have hbit : bit 1 0 = true := by decide
  simp only [hbit, true_and]

theorem Dev.applyWrite_tokenGive (d : Dev) (ses tag ts : Nat) : d.applyWrite ses tag ts 0x80000000 Par.weaveTokenGive.idx 1 =
    if d.judgeTokenGive ≠ stOk then (d.judgeTokenGive, d) else (stOk, d.tokenGive) := by
  rw [show (0x80000000 : Nat) = oid Par.weaveTokenGive.cls 0 from rfl, d.applyWrite_oid ses tag ts Par.weaveTokenGive (by decide) 1 (by decide)]
  show ((if d.judgeTokenGive ≠ stOk then no d d.judgeTokenGive else did d.tokenGive : Option (Nat × Dev))).getD _ = _
  split <;> rfl

end Sys2Proof.Machine

open Sys2Proof Sys2Proof.Machine

/-- Settles O57: each write is the rule of its parameter, and its effect the operation's. -/
theorem captureAndAnalogWrites : Obligations.CaptureAndAnalogWrites := by
  unfold Obligations.CaptureAndAnalogWrites
  refine ⟨fun d ses tag ts n => ?_, fun d ses tag ts n => ?_, fun d ses tag ts n => ?_, fun d ses tag ts w v hv => ?_, fun d ses tag ts w => ?_, fun d ses tag ts => ?_⟩
  · intro on off
    have hon : on = _ := d.applyWrite_runOn ses tag ts n
    have hoff : off = _ := d.applyWrite_runOff ses tag ts n
    refine ⟨fun hbad => by rw [hon, if_pos hbad], fun hok => ?_, fun hidle => by rw [hoff, if_pos hidle], fun hmode hdeliver => ?_, fun hmode hbusy hwait => ?_⟩
    · rw [hon, if_neg (fun h => h hok)]
      exact ⟨rfl, d.startStream_starts n.val none⟩
    · rw [hoff, if_neg (by rw [hdeliver]; decide), if_neg hmode, if_pos hdeliver]
    · rw [hoff, if_neg hbusy, if_neg hmode, if_neg hwait]
      exact ⟨rfl, d.capIdle_rests n.val⟩
  · intro off on
    have hoff : off = _ := d.applyWrite_arm ses tag ts n 0
    have hon : on = _ := d.applyWrite_arm ses tag ts n 1
    obtain ⟨hout, harm⟩ := d.trigArm_takes n.val true
    refine ⟨fun hown => ?_, fun hweave => ?_⟩
    · rw [hoff, hon, if_neg (by rw [hown]; decide), if_neg (by rw [hown]; decide)]
      exact ⟨rfl, hout, fun hfree => harm.trans (if_pos hfree), fun hbusy => harm.trans (if_neg hbusy)⟩
    · rw [hon, if_pos hweave]
      exact ⟨rfl, d.armEverywhere_waits n.val 1⟩
  · rw [d.applyWrite_calibrate ses tag ts n, Dev.adc_adcCalStart, if_pos rfl]
  · intro r
    have hr : r = _ := d.applyWrite_readback ses tag ts w hv
    refine ⟨fun hbusy => by rw [hr, if_pos hbusy], fun hfree => ?_⟩
    rw [hr, if_neg (fun h => h hfree)]
    exact ⟨rfl, d.readbackStart_asks w.val v.isLt⟩
  · intro r
    have hr : r = _ := d.applyWrite_winFlag ses tag ts w
    rw [hr]
    refine ⟨rfl, fun htripped => if_neg (by simp [htripped]), fun hclear hold => ?_⟩
    show (if _ then _ else d : Dev).get _ _ = 0
    rw [if_pos ⟨by rw [hclear]; rfl, .inr hold⟩, Dev.get_put_lt _ (by decide)]
  · intro r
    have hr : r = _ := d.applyWrite_tokenGive ses tag ts
    exact ⟨fun hbad => by rw [hr, if_pos hbad], fun hok => by rw [hr, if_neg (fun h => h hok)]⟩

end

section
/-! PROOF. Writes to LEG.n, PORT.n and GRID.g (R189, R227, R234, R236, R238, R240, R258). -/

namespace Sys2Proof.Machine

/-! ## LEG.n/clear -/

theorem Dev.applyWrite_legClear (d : Dev) (ses tag ts : Nat) (n : Fin 40) : d.applyWrite ses tag ts (oid 0x31 n.val) Par.legClear.idx 1 =
    if d.judgeLegClear n.val ≠ stOk then (d.judgeLegClear n.val, d) else (stOk, d.legClear n.val) := by
  have hfree : d.legFixed Par.legClear n.val = false := by
    have hnot : ∀ p ∈ [Par.legSyncLeg, Par.legPhase, Par.legPeriod, Par.legCarrier, Par.legDuty], (Par.legClear == p) = false := by decide
    simp [Dev.legFixed, hnot]
  rw [show oid 0x31 n.val = oid Par.legClear.cls n.val from rfl, d.applyWrite_oid ses tag ts Par.legClear (by omega) 1 (by decide)]
  show ((if d.legFixed Par.legClear n.val = true then no d stBadState else
    if d.judgeLegClear n.val ≠ stOk then no d (d.judgeLegClear n.val) else did (d.legClear n.val) : Option (Nat × Dev))).getD _ = _
  rw [hfree, if_neg Bool.false_ne_true]
  split <;> rfl

/-- A tripped leg that is cleared while no legs run is OFF (R258). -/
theorem Dev.legClear_off {d : Dev} {n : Nat} (htripped : d.get Par.legState n = lsTripped) (hclear : d.legInputs n = 0) (hrest : d.legsRun = false) :
    let e := d.legClear n
    e.get Par.legState n = lsOff ∧ e.get Par.legTripCause n = 0 ∧ ∀ k, k ≠ n → e.get Par.legState k = d.get Par.legState k := by
  generalize hr : d.legClear n = r
  intro e
  subst e
  unfold Dev.legClear at hr
  extract_lets put at hr
  have hput : put.get Par.legTripCause n = 0 ∧ ∀ k, put.get Par.legState k = d.get Par.legState k :=
    ⟨Dev.get_put_lt _ (by decide), fun k => Dev.get_put_apart _ _ _ _ rfl⟩
  have hmode : put.legsRun = d.legsRun := rfl
  clear_value put
  rw [if_neg (by rw [htripped, hclear]; decide), if_neg (by rw [hmode, hrest]; exact fun h => Bool.false_ne_true h.1)] at hr
  subst hr
  exact ⟨Dev.get_put_lt _ (by decide), (Dev.get_put_apart _ _ _ _ rfl).trans hput.1, fun k hk => (Dev.get_put_inst _ _ rfl hk).trans (hput.2 k)⟩

theorem Dev.legInputs_of_clear {d : Dev} {n : Nat} (hok : d.judgeLegClear n = stOk) (htripped : d.get Par.legState n = lsTripped) : d.legInputs n = 0 := by
  by_contra hin
  unfold Dev.judgeLegClear at hok
  split at hok
  · exact absurd hok (by decide)
  · rw [if_pos ⟨htripped, .inl hin⟩] at hok
    exact absurd hok (by decide)

/-! ## PORT.n -/

theorem Dev.applyWrite_portClear (d : Dev) (ses tag ts : Nat) (p : Fin 32) : d.applyWrite ses tag ts (oid 0x30 p.val) Par.portClear.idx 1 =
    if d.judgePortClear p.val ≠ stOk then (d.judgePortClear p.val, d) else (stOk, d.portRelease p.val psFault) := by
  rw [show oid 0x30 p.val = oid Par.portClear.cls p.val from rfl, d.applyWrite_oid ses tag ts Par.portClear (by omega) 1 (by decide)]
  show ((if d.judgePortClear p.val ≠ stOk then no d (d.judgePortClear p.val) else did (d.portRelease p.val psFault) : Option (Nat × Dev))).getD _ = _
  split <;> rfl

theorem Dev.applyWrite_portUnlock (d : Dev) (ses tag ts : Nat) (p : Fin 32) : d.applyWrite ses tag ts (oid 0x30 p.val) Par.portUnlock.idx 1 =
    if d.judgePortUnlock p.val ≠ stOk then (d.judgePortUnlock p.val, d) else (stOk, d.portRelease p.val psLocked) := by
  rw [show oid 0x30 p.val = oid Par.portUnlock.cls p.val from rfl, d.applyWrite_oid ses tag ts Par.portUnlock (by omega) 1 (by decide)]
  show ((if d.judgePortUnlock p.val ≠ stOk then no d (d.judgePortUnlock p.val) else did (d.portRelease p.val psLocked) : Option (Nat × Dev))).getD _ = _
  split <;> rfl

/-- One leg of a released port leaves TRIPPED (R240). -/
def Dev.legReleased (d : Dev) (p n : Nat) : Dev :=
  if d.get Par.legState n = lsTripped then
    let d := d.put Par.legTripCause n 0
    if d.get Par.portState p ≠ psOff then d.legEnter n .inputEdge (d.isPv p) else d.put Par.legState n lsOff
  else d

/-- With its port OFF, the leg is then not tripped, the port stays OFF, and the other legs stay. -/
theorem Dev.legReleased_off {d : Dev} {p : Nat} (hoff : d.get Par.portState p = psOff) (n : Nat) :
    (d.legReleased p n).get Par.portState p = psOff ∧ (d.legReleased p n).get Par.legState n ≠ lsTripped
      ∧ ∀ k, d.get Par.legState k ≠ lsTripped → (d.legReleased p n).get Par.legState k ≠ lsTripped := by
  generalize hr : d.legReleased p n = r
  unfold Dev.legReleased at hr
  extract_lets put at hr
  have hput : put.get Par.portState p = psOff ∧ ∀ k, put.get Par.legState k = d.get Par.legState k :=
    ⟨(Dev.get_put_apart _ _ _ _ rfl).trans hoff, fun k => Dev.get_put_apart _ _ _ _ rfl⟩
  clear_value put
  by_cases htripped : d.get Par.legState n = lsTripped
  case pos =>
    rw [if_pos htripped, if_neg (fun h => h hput.1)] at hr
    subst hr
    have hset : (put.put Par.legState n lsOff).get Par.legState n ≠ lsTripped := by
      rw [Dev.get_put_lt _ (by decide)]
      decide
    refine ⟨(Dev.get_put_apart _ _ _ _ rfl).trans hput.1, hset, fun k hk => ?_⟩
    by_cases hkn : k = n
    · rw [hkn]
      exact hset
    · rw [Dev.get_put_inst _ _ rfl hkn, hput.2]
      exact hk
  case neg =>
    rw [if_neg htripped] at hr
    subst hr
    exact ⟨hoff, htripped, fun k hk => hk⟩

theorem Dev.forL_legReleased_off {p : Nat} (ns : List Nat) {d : Dev} (hoff : d.get Par.portState p = psOff) :
    (d.forL ns (fun d n => d.legReleased p n)).get Par.portState p = psOff
      ∧ (∀ n ∈ ns, (d.forL ns (fun d n => d.legReleased p n)).get Par.legState n ≠ lsTripped)
      ∧ ∀ k, d.get Par.legState k ≠ lsTripped → (d.forL ns (fun d n => d.legReleased p n)).get Par.legState k ≠ lsTripped := by
  induction ns generalizing d with
  | nil => exact ⟨hoff, nofun, fun k hk => hk⟩
  | cons n ns ih =>
    obtain ⟨hstays, hreleased, hkept⟩ := Dev.legReleased_off hoff n
    obtain ⟨hend, hall, hothers⟩ := ih hstays
    exact ⟨hend, fun k hk => (List.mem_cons.mp hk).elim (fun h => h ▸ hothers n hreleased) (hall k), fun k hk => hothers k (hkept k hk)⟩

/-- A port released while no legs run is OFF, and none of its legs is tripped (R240). -/
theorem Dev.portRelease_off {d : Dev} {p : Nat} {st : Nat} (hstate : d.get Par.portState p = st) (hclear : d.portInputs p = false) (hrest : d.legsRun = false) :
    (d.portRelease p st).get Par.portState p = psOff ∧ ∀ n ∈ d.portLegs p, (d.portRelease p st).get Par.legState n ≠ lsTripped := by
  have hoff : (d.portOff p).get Par.portState p = psOff := by
    unfold Dev.portOff
    rw [Dev.get_putF_apart _ _ _ _ rfl, Dev.get_putF_apart _ _ _ _ rfl, Dev.get_put_lt _ (by decide)]
  have hlegs : (d.portOff p).portLegs p = d.portLegs p := by
    have hkept : ∀ q ∈ [Par.portTopology, Par.portLegA, Par.portLegB], (d.portOff p).get q p = d.get q p := fun q hq => by
      fin_cases hq <;> exact (Dev.get_putF_apart _ _ _ _ rfl).trans ((Dev.get_putF_apart _ _ _ _ rfl).trans (Dev.get_put_apart _ _ _ _ rfl))
    rw [Dev.portLegs, hkept _ (by simp), hkept _ (by simp), hkept _ (by simp), Dev.portLegs]
  have hrelease : d.portRelease p st = (d.portOff p).forL (d.portLegs p) (fun d n => d.legReleased p n) := by
    unfold Dev.portRelease
    extract_lets run off entered released
    have hreleased : released = entered.forL (entered.portLegs p) (fun d n => d.legReleased p n) := rfl
    rw [if_neg (by rw [hstate, hclear]; simp)]
    have hentered : entered = d.portOff p := if_neg (by simp [run, hrest])
    rw [hreleased, hentered, hlegs]
  rw [hrelease]
  obtain ⟨hend, hall, -⟩ := Dev.forL_legReleased_off (d.portLegs p) hoff
  exact ⟨hend, hall⟩

/-- A binary32 value as it is written and read (R379). -/
theorem setWidth_f32 (f : F32) : (f.setWidth 64 : W64).setWidth 32 = f := by simp

theorem Dev.applyWrite_socSet (d : Dev) (ses tag ts : Nat) (p : Fin 32) (f : F32) :
    d.applyWrite ses tag ts (oid 0x30 p.val) Par.portSocSet.idx (f.setWidth 64) =
      (stOk, if d.isPv p.val = true then d.putF Par.portSocSet p.val f else (d.putF Par.portSocSet p.val f).socSet p.val f) := by
  rw [show oid 0x30 p.val = oid Par.portSocSet.cls p.val from rfl, d.applyWrite_oid ses tag ts Par.portSocSet (by omega) _ (by decide)]
  show (stOk, if d.isPv p.val = true then d.putF Par.portSocSet p.val ((f.setWidth 64 : W64).setWidth 32)
    else (d.putF Par.portSocSet p.val ((f.setWidth 64 : W64).setWidth 32)).socSet p.val ((f.setWidth 64 : W64).setWidth 32)) = _
  rw [setWidth_f32]

theorem Dev.applyWrite_pSet (d : Dev) (ses tag ts : Nat) (p : Fin 32) (f : F32) :
    d.applyWrite ses tag ts (oid 0x30 p.val) Par.portPSet.idx (f.setWidth 64) = d.pSetWrite p.val f := by
  rw [show oid 0x30 p.val = oid Par.portPSet.cls p.val from rfl, d.applyWrite_oid ses tag ts Par.portPSet (by omega) _ (by decide)]
  show d.pSetWrite p.val ((f.setWidth 64 : W64).setWidth 32) = _
  rw [setWidth_f32]

theorem Dev.applyWrite_burstAbort (d : Dev) (ses tag ts : Nat) (p : Fin 32) :
    d.applyWrite ses tag ts (oid 0x30 p.val) Par.portBurstAbort.idx 1 = if d.isPv p.val = true then (stOk, d) else d.burstAbort p.val := by
  rw [show oid 0x30 p.val = oid Par.portBurstAbort.cls p.val from rfl, d.applyWrite_oid ses tag ts Par.portBurstAbort (by omega) 1 (by decide)]
  show ((if (1 : W64).toNat = 0 ∨ d.isPv p.val = true then did d else some (d.burstAbort p.val) : Option (Nat × Dev))).getD _ = _
  by_cases hpv : d.isPv p.val = true
  · rw [if_pos (.inr hpv), if_pos hpv]
    rfl
  · rw [if_neg (by simp [hpv]), if_neg hpv]
    rfl

theorem Dev.applyWrite_sampleNow (d : Dev) (ses tag ts : Nat) (p : Fin 32) :
    d.applyWrite ses tag ts (oid 0x30 p.val) Par.portSampleNow.idx 1 = (stOk, d.portDue p.val) := by
  rw [show oid 0x30 p.val = oid Par.portSampleNow.cls p.val from rfl, d.applyWrite_oid ses tag ts Par.portSampleNow (by omega) 1 (by decide)]
  rfl

/-- A stored energy is set from its share of the capacity (R234). -/
theorem Dev.socSet_sets (d : Dev) (p : Nat) (v : F32) :
    ((d.socSet p v).port p).energy = dmul (dmul (dof v) (dof (d.getF Par.portECap p))) (dint 3600000) ∧ bit ((d.socSet p v).get Par.portStatus p) 5 = false := by
  unfold Dev.socSet
  extract_lets e
  have hset : ((d.setPort p { d.port p with energy := e }).port p).energy = e := by rw [Dev.port_setPort_same]
  generalize d.setPort p { d.port p with energy := e } = x at *
  exact ⟨(congrArg PortRt.energy (Dev.port_of_ports (Dev.putBit_ports _ _ _ _ _) p)).trans hset, x.bit_putBit_same Par.portStatus p (by decide) false⟩

/-- An abort of a burst that runs starts its ramp-down (R238). -/
theorem Dev.burstAbort_aborts {d : Dev} {p : Nat} (hruns : d.get Par.portBurstState p ≠ 0) (hends : (d.port p).burstEnds = .completed) :
    (d.burstAbort p).1 = stAborted ∧ (d.burstAbort p).2.get Par.portBurstState p = 3 ∧ ((d.burstAbort p).2.port p).burstEnds = .aborted := by
  unfold Dev.burstAbort
  extract_lets x
  have hx : ¬ (x.burstEnds != .completed) = true := by rw [show x.burstEnds = .completed from hends]; decide
  rw [if_neg hruns, if_neg hx]
  refine ⟨rfl, Dev.get_put_lt _ (by decide), ?_⟩
  have hset : ((d.setPort p { x with burstDown := some (x.burstEl, x.pBurst), burstEnds := .aborted }).port p).burstEnds = .aborted := by rw [Dev.port_setPort_same]
  generalize d.setPort p { x with burstDown := some (x.burstEl, x.pBurst), burstEnds := .aborted } = y at *
  exact (congrArg PortRt.burstEnds (Dev.port_of_ports (Dev.put_ports _ _ _ _) p)).trans hset

/-- A request while a burst runs is BUSY (R236). -/
theorem Dev.burstRequest_busy {d : Dev} {p : Nat} (hruns : d.get Par.portBurstState p ≠ 0) :
    (d.burstRequest p).1 = stBusy ∧ (d.burstRequest p).2.get Par.portBurstState p = d.get Par.portBurstState p
      ∧ (d.burstRequest p).2.get Par.portBurstResult p = 4 := by
  generalize hr : d.burstRequest p = r
  unfold Dev.burstRequest at hr
  extract_lets before noted P D rate pb Pd pbd eta eb av partial' at hr
  have hnoted : noted.get Par.portBurstState p = d.get Par.portBurstState p := (Dev.setPort_frame _ _ _).get _ _ rfl rfl
  clear_value noted
  rw [if_pos (by rw [hnoted]; exact hruns)] at hr
  subst hr
  exact ⟨rfl, (Dev.get_put_apart _ _ _ _ rfl).trans hnoted, Dev.get_put_lt _ (by decide)⟩

/-- A request for a burst that passes 0.5 waits for the port step, or is refused where none will come (R236). -/
theorem Dev.burstReqWrite_judged {d : Dev} {p : Nat} (hstores : d.isPv p = false) (hbelow : fle (d.port p).reqPrev 0x3F000000 = true) :
    let r := d.burstReqWrite p f1
    (d.get Par.portTopology p ≠ 0 → d.full = true → r.1 = stOk ∧ r.2.1 = true ∧ (r.2.2.port p).reqDue = true
      ∧ (r.2.2.port p).reqOld = some (d.getF Par.portBurstReq p) ∧ r.2.2.getF Par.portBurstReq p = f1)
    ∧ (d.get Par.portTopology p = 0 ∨ d.full = false → r.1 = stBadState ∧ r.2.1 = false
      ∧ r.2.2.getF Par.portBurstReq p = d.getF Par.portBurstReq p ∧ r.2.2.port p = d.port p) := by
  generalize hr : d.burstReqWrite p f1 = r
  intro r'
  subst r'
  unfold Dev.burstReqWrite at hr
  extract_lets old prev put x at hr
  have hput : put.getF Par.portBurstReq p = f1 ∧ put.isPv p = d.isPv p ∧ put.get Par.portTopology p = d.get Par.portTopology p ∧ put.full = d.full ∧ put.ports = d.ports :=
    ⟨Dev.getF_putF_same _ _ _ _, by rw [Dev.isPv, show put.get Par.portKind p = d.get Par.portKind p from Dev.get_putF_apart _ _ _ _ rfl, Dev.isPv],
      Dev.get_putF_apart _ _ _ _ rfl, by
      rw [Dev.full, Dev.up, Dev.pmode, show put.phase = d.phase from Dev.putF_phase _ _ _ _, show put.get Par.pwrMode 0 = d.get Par.pwrMode 0 from Dev.get_putF_apart _ _ _ _ rfl,
        Dev.full, Dev.up, Dev.pmode], rfl⟩
  have hx : x = put.port p := rfl
  clear_value x put
  obtain ⟨hreq, hpv, htopology, hfull, hports⟩ := hput
  have hpasses : ¬ (put.isPv p || !(fle prev 0x3F000000 && flt 0x3F000000 f1)) = true := by
    rw [hpv, hstores, show fle prev 0x3F000000 = true from hbelow, show flt 0x3F000000 f1 = true by decide]
    decide
  rw [if_neg hpasses, htopology, hfull] at hr
  refine ⟨fun hused hruns => ?_, fun hno => ?_⟩
  · rw [if_neg (by rw [hruns]; simpa using hused)] at hr
    subst hr
    have hset : (put.setPort p { x with reqDue := true, reqOld := some old }).port p = { x with reqDue := true, reqOld := some old } := Dev.port_setPort_same _ _ _
    refine ⟨rfl, rfl, by rw [hset], by rw [hset], hreq⟩
  · rw [if_pos (by simpa using hno)] at hr
    subst hr
    exact ⟨rfl, rfl, Dev.getF_putF_same _ _ _ _, Dev.port_of_ports hports p⟩

theorem Dev.portDue_due {d : Dev} {p : Nat} (hused : d.get Par.portTopology p ≠ 0) (hpv : d.isPv p = true) (htracks : d.get Par.portState p = psTrack)
    (hclosed : (d.port p).opening = false) (hnone : (d.port p).due = none) : ((d.portDue p).port p).due = some d.now := by
  unfold Dev.portDue
  extract_lets x st
  rw [if_pos ⟨by simpa using hused, hpv, .inl htracks, by rw [show x.opening = false from hclosed]; rfl⟩, Dev.port_setPort_same]
  show some (x.due.getD d.now) = _
  rw [show x.due = none from hnone]
  rfl

/-- The answer to a target: accepted, and CLAMPED exactly where the target is not the value written (R189, R235). -/
theorem targetStatus_clamped (same ramps : Bool) :
    accepted (if (!same) = true then stClamped else if ramps = true then stRamping else stOk) = true
      ∧ ((if (!same) = true then stClamped else if ramps = true then stRamping else stOk) = stClamped ↔ same = false) := by
  cases same
  case false => cases ramps <;> decide
  case true => cases ramps <;> decide

/-- p_set is stored within its limits, and the answer says whether it was (R235). -/
theorem Dev.pSetWrite_stores (d : Dev) (p : Nat) (v : F32) :
    let t := fclamp (d.pSetLimits p).1 (d.pSetLimits p).2 v
    (d.pSetWrite p v).2.getF Par.portPSet p = t ∧ accepted (d.pSetWrite p v).1 = true ∧ ((d.pSetWrite p v).1 = stClamped ↔ feq t v = false) :=
  ⟨Dev.getF_putF_same _ _ _ _, targetStatus_clamped _ _⟩

/-! ## GRID.g -/

/-- p_ref and q_ref are stored within their limits, and the answer says whether they were (R189). -/
theorem Dev.applyWrite_target (d : Dev) (ses tag ts : Nat) (g : Fin 4) (f : F32) :
    (let r := d.applyWrite ses tag ts (oid 0x21 g.val) Par.gridPRef.idx (f.setWidth 64)
     let t := fclamp (d.getF Par.gridPMin g.val) (d.getF Par.gridPMax g.val) f
     r.2.getF Par.gridPRef g.val = t ∧ accepted r.1 = true ∧ (r.1 = stClamped ↔ feq t f = false))
    ∧ (let r := d.applyWrite ses tag ts (oid 0x21 g.val) Par.gridQRef.idx (f.setWidth 64)
       let t := fclamp (d.getF Par.gridQMin g.val) (d.getF Par.gridQMax g.val) f
       r.2.getF Par.gridQRef g.val = t ∧ accepted r.1 = true ∧ (r.1 = stClamped ↔ feq t f = false)) := by
  have hp : d.applyWrite ses tag ts (oid 0x21 g.val) Par.gridPRef.idx (f.setWidth 64) = d.gridTarget Par.gridPRef g.val f := by
    rw [show oid 0x21 g.val = oid Par.gridPRef.cls g.val from rfl, d.applyWrite_oid ses tag ts Par.gridPRef (by omega) _ (by decide)]
    show d.gridTarget Par.gridPRef g.val ((f.setWidth 64 : W64).setWidth 32) = _
    rw [setWidth_f32]
  have hq : d.applyWrite ses tag ts (oid 0x21 g.val) Par.gridQRef.idx (f.setWidth 64) = d.gridTarget Par.gridQRef g.val f := by
    rw [show oid 0x21 g.val = oid Par.gridQRef.cls g.val from rfl, d.applyWrite_oid ses tag ts Par.gridQRef (by omega) _ (by decide)]
    show d.gridTarget Par.gridQRef g.val ((f.setWidth 64 : W64).setWidth 32) = _
    rw [setWidth_f32]
  rw [hp, hq]
  exact ⟨⟨Dev.getF_putF_same _ _ _ _, targetStatus_clamped _ _⟩, Dev.getF_putF_same _ _ _ _, targetStatus_clamped _ _⟩

end Sys2Proof.Machine

open Sys2Proof Sys2Proof.Machine

/-- Settles O55: each write is the rule of its parameter, and its effect the operation's. -/
theorem legAndPortWrites : Obligations.LegAndPortWrites := by
  unfold Obligations.LegAndPortWrites
  refine ⟨fun d ses tag ts n => ?_, fun d ses tag ts p => ?_, fun d ses tag ts p f => ?_, fun d ses tag ts p => ?_,
    fun d p hstores hbelow => Dev.burstReqWrite_judged hstores hbelow, fun d p hruns => Dev.burstRequest_busy hruns, fun d ses tag ts g f => d.applyWrite_target ses tag ts g f⟩
  · intro r
    have hr : r = _ := d.applyWrite_legClear ses tag ts n
    refine ⟨fun hbad => by rw [hr, if_pos hbad], fun hok htripped hrest => ?_⟩
    rw [hr, if_neg (fun h => h hok)]
    obtain ⟨hoff, hcause, hothers⟩ := Dev.legClear_off htripped (Dev.legInputs_of_clear hok htripped) hrest
    exact ⟨rfl, hoff, hcause, fun k _ hk => hothers k hk⟩
  · intro clear unlock
    have hclear : clear = _ := d.applyWrite_portClear ses tag ts p
    have hunlock : unlock = _ := d.applyWrite_portUnlock ses tag ts p
    refine ⟨fun hlocked => ?_, fun hfault hin => ?_, fun hlocked hin => ?_, fun hlocked hfree hruns => ?_, fun hfree hrest => ⟨fun hfault hold => ?_, fun hlocked => ?_⟩⟩
    · have hjudged : d.judgePortClear p.val = stBadState := if_pos hlocked
      rw [hclear, hjudged, if_pos (by decide)]
    · have hjudged : d.judgePortClear p.val = stTripActive := by
        rw [Dev.judgePortClear, if_neg (by rw [hfault]; decide), if_pos ⟨hfault, .inl hin⟩]
      rw [hclear, hjudged, if_pos (by decide)]
    · have hjudged : d.judgePortUnlock p.val = stTripActive := by rw [Dev.judgePortUnlock, if_neg (fun h => h hlocked), if_pos hin]
      rw [hunlock, hjudged, if_pos (by decide)]
    · have hjudged : d.judgePortUnlock p.val = stBadState := by
        rw [Dev.judgePortUnlock, if_neg (fun h => h hlocked), if_neg (by rw [hfree]; decide), if_pos hruns]
      rw [hunlock, hjudged, if_pos (by decide)]
    · have hjudged : d.judgePortClear p.val = stOk := by
        rw [Dev.judgePortClear, if_neg (by rw [hfault]; decide), if_neg (by rw [hfree]; simp [hold])]
      rw [hclear, hjudged, if_neg (fun h => h rfl)]
      exact ⟨rfl, Dev.portRelease_off hfault hfree hrest⟩
    · have hjudged : d.judgePortUnlock p.val = stOk := by
        rw [Dev.judgePortUnlock, if_neg (fun h => h hlocked), if_neg (by rw [hfree]; decide), if_neg (by rw [hrest]; decide)]
      rw [hunlock, hjudged, if_neg (fun h => h rfl)]
      exact ⟨rfl, Dev.portRelease_off hlocked hfree hrest⟩
  · intro v soc set lim
    have hsoc : soc = _ := congrArg Prod.snd (d.applyWrite_socSet ses tag ts p f)
    have hset : set = _ := d.applyWrite_pSet ses tag ts p f
    obtain ⟨hstored, haccepted, hclamped⟩ := d.pSetWrite_stores p.val f
    refine ⟨fun hstores => ?_, fun hpv => ?_, by rw [hset]; exact hstored, by rw [hset]; exact haccepted, by rw [hset]; exact hclamped⟩
    · rw [hsoc, hstores]
      obtain ⟨henergy, hbit⟩ := (d.putF Par.portSocSet p.val f).socSet_sets p.val f
      rw [Dev.getF_putF_apart _ _ _ _ rfl] at henergy
      exact ⟨henergy, hbit⟩
    · rw [hsoc, hpv]
      exact Dev.port_of_ports (Dev.putF_ports _ _ _ _) p.val
  · intro stop
    have hstop : stop = _ := d.applyWrite_burstAbort ses tag ts p
    refine ⟨fun hstores hnone => ?_, fun hpv => by rw [hstop, if_pos hpv], fun hstores hruns hends => ?_, fun hused hpv htracks hclosed hdue => ?_⟩
    · rw [hstop, if_neg (by rw [hstores]; decide), Dev.burstAbort, if_pos hnone]
    · rw [hstop, if_neg (by rw [hstores]; decide)]
      exact Dev.burstAbort_aborts hruns hends
    · rw [d.applyWrite_sampleNow ses tag ts p]
      exact Dev.portDue_due hused hpv htracks hclosed hdue

end

section
/-! PROOF. What the end of a beat does with its registered messages (R55, R57, R382). -/

namespace Sys2Proof.Machine

/-! ## Nothing is registered while they are taken -/

/-- From `d` to `e` no message has been registered or taken. -/
def Dev.MsgsKept (d e : Dev) : Prop := e.host.msgs = d.host.msgs

theorem Dev.MsgsKept.refl (d : Dev) : d.MsgsKept d := rfl

theorem Dev.MsgsKept.trans {a b c : Dev} (h : a.MsgsKept b) (g : b.MsgsKept c) : a.MsgsKept c := Eq.trans g h

/-- What leaves the host side alone. -/
theorem Dev.MsgsKept.frame {a d e : Dev} {cs : List Nat} {fs : List Fld} (h : a.MsgsKept d) (g : d.Agree cs fs e) (hf : fs.contains .host = false) :
    a.MsgsKept e := h.trans (congrArg HostSt.msgs (g.2 .host hf))

theorem Dev.MsgsKept.ite {a x y : Dev} {c : Prop} [Decidable c] (h : a.MsgsKept x) (g : a.MsgsKept y) : a.MsgsKept (if c then x else y) := by
  split
  · exact h
  · exact g

theorem Dev.MsgsKept.forL {α : Type} {f : Dev → α → Dev} (hf : ∀ (d : Dev) x, d.MsgsKept (f d x)) (xs : List α) (d : Dev) : d.MsgsKept (d.forL xs f) :=
  List.foldlRecOn xs f (motive := d.MsgsKept) (.refl d) fun _ hd x _ => hd.trans (hf _ x)

theorem Dev.MsgsKept.put (d : Dev) (p : Par) (i v : Nat) : d.MsgsKept (d.put p i v) := congrArg HostSt.msgs (Dev.put_host _ _ _ _)

theorem Dev.MsgsKept.inc (d : Dev) (w : Nat) (p : Par) (i n : Nat) : d.MsgsKept (d.inc w p i n) := congrArg HostSt.msgs (Dev.inc_host _ _ _ _ _)

theorem Dev.setSess_msgsKept (d : Dev) (s : Nat) (x : Sess) : d.MsgsKept (d.setSess s x) := rfl

theorem Dev.setRing_msgsKept (d : Dev) (n : Nat) (x : RingSt) : d.MsgsKept (d.setRing n x) := rfl

theorem Dev.msixRaise_msgsKept (d : Dev) (v : Nat) : d.MsgsKept (d.msixRaise v) := rfl

theorem Dev.slotPut_msgsKept (d : Dev) (n i : Nat) (m r : List Byte) : d.MsgsKept (d.slotPut n i m r) := .ite (.refl d) rfl

theorem Dev.ringPut_msgsKept (d : Dev) (n : Nat) (m : List Byte) : d.MsgsKept (d.ringPut n m) := by
  unfold Dev.ringPut
  extract_lets s eth wasEmpty written x tailed sent src v y counted
  have hwritten : d.MsgsKept written := ((d.slotPut_msgsKept _ _ _ _).trans (.inc _ _ _ _ _)).trans (.inc _ _ _ _ _)
  have hsent : written.MsgsKept sent := ((Dev.MsgsKept.inc _ _ _ _ _).trans (.inc _ _ _ _ _)).trans (Dev.setSess_msgsKept _ _ _)
  have hcounted : written.MsgsKept counted := .inc _ _ _ _ _
  clear_value written sent counted
  refine .ite ((hwritten.trans hsent).trans rfl) ((hwritten.trans hcounted).trans ?_)
  exact .ite (counted.setRing_msgsKept _ _) (.ite ((counted.setRing_msgsKept _ _).trans (Dev.msixRaise_msgsKept _ _)) (counted.setRing_msgsKept _ _))

theorem Dev.sendTo_msgsKept (d : Dev) (s : Nat) (m : List Byte) : d.MsgsKept (d.sendTo s m) := by
  unfold Dev.sendTo
  refine .ite (.ite ?_ (.refl d)) ?_
  · unfold Dev.ringPush
    extract_lets r
    exact .ite (d.setRing_msgsKept _ _) (d.ringPut_msgsKept _ _)
  · split
    · exact .frame (.refl d) (d.weavePut_frame _ _ _ _) rfl
    · exact .refl d

theorem Dev.respond_msgsKept (d : Dev) (s tag op ts st : Nat) (body : List Byte) (more : Bool) : d.MsgsKept (d.respond s tag op ts st body more) := by
  unfold Dev.respond
  extract_lets m x
  exact (d.setSess_msgsKept _ _).trans (Dev.sendTo_msgsKept _ _ _)

theorem Dev.outcome_msgsKept (d : Dev) (o : Oper) (st : Nat) (extra : List Byte) : d.MsgsKept (d.outcome o st extra) := by
  unfold Dev.outcome
  extract_lets h noted
  have hnoted : d.MsgsKept noted := rfl
  clear_value noted
  refine .ite ?_ (.frame hnoted (Dev.raise_frame _ _ _ _ _) rfl)
  split
  · exact hnoted.trans (Dev.respond_msgsKept _ _ _ _ _ _ _ _)
  · exact hnoted.trans (Dev.respond_msgsKept _ _ _ _ _ _ _ _)

theorem Dev.commitEnd_msgsKept (d : Dev) (c : Commit) (st : Nat) (extra : List Byte) : d.MsgsKept (d.commitEnd c st extra) := by
  unfold Dev.commitEnd
  extract_lets ended
  have hended : d.MsgsKept ended := rfl
  clear_value ended
  exact (Dev.MsgsKept.frame hended (Dev.setsState_frame _ _ _) rfl).trans (Dev.outcome_msgsKept _ _ _ _)

theorem Dev.abortOp_msgsKept (d : Dev) (s tag : Nat) : d.MsgsKept (d.abortOp s tag).2 := by
  unfold Dev.abortOp
  split
  · split
    · unfold Dev.activateAbort Dev.activateEnd
      extract_lets l ended o written
      have hended : d.MsgsKept ended := rfl
      have hwritten : ended.MsgsKept written := .ite (.frame (.refl _) (Dev.ownWrite_frame _ _) rfl) (.frame (.refl _) (Dev.ownWrite_frame _ _) rfl)
      clear_value ended written
      split
      · exact (hended.trans hwritten).trans (Dev.outcome_msgsKept _ _ _ _)
      · exact hended.trans hwritten
    · split
      · exact d.commitEnd_msgsKept _ _ _
      · exact .refl d
  · split
    · exact .refl d
    · exact .refl d

theorem Dev.answerMsg_msgsKept (d : Dev) (m : Msg) : d.MsgsKept (d.answerMsg m) := by
  unfold Dev.answerMsg
  extract_lets r
  exact .ite ((d.abortOp_msgsKept _ _).trans (Dev.respond_msgsKept _ _ _ _ _ _ _ _)) (d.respond_msgsKept _ _ _ _ _ _ _)

theorem Dev.modeCommand_msgsKept (d : Dev) (code : Nat) : d.MsgsKept (d.modeCommand code) := by
  unfold Dev.modeCommand
  exact .ite (.trans (b := { d with host := { d.host with heldReq := some code } }) rfl (.frame (.refl _) (Dev.wake_frame _ _) rfl)) rfl

/-! ## Writes -/

/-- A rule of single parameters registers nothing where it answers. -/
def Dev.MsgsKeptO (d : Dev) (o : Option (Nat × Dev)) : Prop := ∀ r ∈ o, d.MsgsKept r.2

theorem Dev.AgreeO.msgsKeptO {cs : List Nat} {fs : List Fld} {d : Dev} {o : Option (Nat × Dev)} (h : d.AgreeO cs fs o) (hf : fs.contains .host = false) :
    d.MsgsKeptO o := by
  rintro r rfl
  exact .frame (.refl d) h hf

theorem Dev.MsgsKeptO.ite {d : Dev} {x y : Option (Nat × Dev)} {c : Prop} [Decidable c] (h : c → d.MsgsKeptO x) (g : ¬c → d.MsgsKeptO y) :
    d.MsgsKeptO (if c then x else y) := by
  split
  · exact h ‹_›
  · exact g ‹_›

theorem Dev.MsgsKeptO.did {d e : Dev} (h : d.MsgsKept e) : d.MsgsKeptO (did e) := by
  rintro r ⟨⟩
  exact h

theorem Dev.MsgsKeptO.no (d : Dev) (st : Nat) : d.MsgsKeptO (no d st) := by
  rintro r ⟨⟩
  exact .refl d

theorem Dev.MsgsKeptO.none (d : Dev) : d.MsgsKeptO none := by
  rintro r ⟨⟩

theorem Dev.wDev_msgsKeptO (d : Dev) (session tag ts : Nat) (p : Par) (v : Nat) : d.MsgsKeptO (d.wDev session tag ts p v) := by
  unfold Dev.wDev
  extract_lets m
  refine .ite (fun _ => .ite (fun _ => .did (.refl d)) fun _ => .ite (fun _ => .no d _) fun _ => .did ?_) fun _ => .ite (fun _ => ?_) fun _ => .none d
  · unfold Dev.commitStart
    extract_lets c named marked
    have hnamed : d.MsgsKept named := .frame (.refl d) (Dev.setsState_frame _ _ _) rfl
    have hmarked : named.MsgsKept marked := .forL (fun x k => .frame (.refl x) (Dev.setTset_frame _ _ _) rfl) _ _
    clear_value named marked
    exact (hnamed.trans hmarked).trans rfl
  · rintro r ⟨⟩
    unfold Dev.tblAbort
    split
    · exact .refl d
    · split
      · exact .forL (fun x c => x.commitEnd_msgsKept _ _ _) _ d
      · split
        · exact .refl d
        · exact .refl d

theorem Dev.wLink_msgsKeptO (d : Dev) (p : Par) (i v : Nat) : d.MsgsKeptO (d.wLink p i v) := by
  unfold Dev.wLink
  extract_lets k x y
  exact .ite (fun _ => .none d) fun _ => .ite (fun _ => .did (.put _ _ _ _)) fun _ => .did rfl

theorem Dev.ringEmpty_msgsKept (d : Dev) (n : Nat) : d.MsgsKept (d.ringEmpty n) := by
  unfold Dev.ringEmpty
  extract_lets x
  exact .trans (.trans (.put _ _ _ _) (Dev.setRing_msgsKept _ _ _)) (.put _ _ _ _)

theorem Dev.wRing_msgsKeptO (d : Dev) (p : Par) (n v : Nat) : d.MsgsKeptO (d.wRing p n v) := by
  unfold Dev.wRing
  extract_lets sum
  refine .ite (fun _ => .ite (fun _ => .no d _) fun _ => .ite (fun _ => .did ?_) fun _ => .none d) fun _ => .ite (fun _ => .no d _) fun _ => .ite (fun _ => .did ?_) fun _ => .none d
  · exact .trans (.put _ _ _ _) (Dev.ringEmpty_msgsKept _ _)
  · exact .ite (d.ringEmpty_msgsKept n) (.refl d)

theorem Dev.wRule_msgsKeptO (d : Dev) (session tag ts : Nat) {p : Par} (i : Nat) (v : W64) (hp : p.small = true) : d.MsgsKeptO (d.wRule session tag ts p i v) := by
  have group : ∀ {c : Nat} {cs : List Nat}, p.cls = c → c ≠ 2 → cs.contains c = true → cs.contains p.group = true := fun h hc hm => by
    rw [Par.group_of_cls h hc]
    exact hm
  unfold Dev.wRule
  extract_lets n
  refine .ite (fun _ => d.wDev_msgsKeptO _ _ _ _ _) fun _ => .ite (fun _ => (d.wImage_frame _ _ _).msgsKeptO rfl) fun _ => ?_
  refine .ite (fun h => (d.wSpoke_frame _ _ _ hp (group h (by decide) (by decide))).msgsKeptO rfl) fun _ => ?_
  refine .ite (fun h => (d.wCell_frame _ _ _ hp (group h (by decide) (by decide))).msgsKeptO rfl) fun _ => ?_
  refine .ite (fun h => (d.wArm_frame _ _ _ hp (group h (by decide) (by decide))).msgsKeptO rfl) fun _ => ?_
  refine .ite (fun _ => .ite (fun _ => (d.wImage_frame _ _ _).msgsKeptO rfl) fun _ => (d.wCtx_frame _ _ _).msgsKeptO rfl) fun _ => ?_
  refine .ite (fun h => (d.wGrid_frame _ _ _ hp (group h (by decide) (by decide))).msgsKeptO rfl) fun _ => ?_
  refine .ite (fun h => (d.wIsld_frame _ _ _ _ hp (group h (by decide) (by decide))).msgsKeptO rfl) fun _ => ?_
  refine .ite (fun h => (d.wPort_frame _ _ _ hp (group h (by decide) (by decide))).msgsKeptO rfl) fun _ => ?_
  refine .ite (fun _ => (d.wLeg_frame _ _ _).msgsKeptO rfl) fun _ => .ite (fun h => (d.wAnalog_frame _ _ _ _ hp ?_).msgsKeptO rfl) fun _ => ?_
  · exact h.elim (fun h => group h (by decide) (by decide)) fun h => h.elim (fun h => group h (by decide) (by decide)) fun h => group h (by decide) (by decide)
  refine .ite (fun h => (d.wMetr_frame _ _ _ hp (group h (by decide) (by decide))).msgsKeptO rfl) fun _ => ?_
  refine .ite (fun _ => (d.wCap_frame _ _ _ _).msgsKeptO rfl) fun _ => .ite (fun _ => (d.wTrig_frame _ _ _).msgsKeptO rfl) fun _ => ?_
  refine .ite (fun h => (d.wWeave_frame _ _ hp (group h (by decide) (by decide))).msgsKeptO rfl) fun _ => ?_
  refine .ite (fun _ => d.wLink_msgsKeptO _ _ _) fun _ => .ite (fun _ => d.wRing_msgsKeptO _ _ _) fun _ => ?_
  refine .ite (fun _ => (d.wPwr_frame _ _).msgsKeptO rfl) fun _ => ?_
  refine .ite (fun h => (d.wHarv_frame _ _ hp (group h (by decide) (by decide))).msgsKeptO rfl) fun _ => ?_
  exact .ite (fun _ => (d.wEvt_frame _ _ _ _).msgsKeptO rfl) fun _ => .none d

theorem Dev.applyWrite_msgsKept (d : Dev) (session tag ts obj idx : Nat) (v : W64) : d.MsgsKept (d.applyWrite session tag ts obj idx v).2 := by
  unfold Dev.applyWrite
  extract_lets p i v
  split
  · exact .refl d
  next hrow =>
  cases hrule : d.wRule session tag ts p i v with
  | none => exact congrArg HostSt.msgs (Dev.setRaw_host _ _ _ _)
  | some r => exact d.wRule_msgsKeptO session tag ts i v (rowOf_ok hrow).1 r hrule

theorem Dev.applyEntries_msgsKept (d : Dev) (sel : RegWrite → Bool) (m : Msg) : d.MsgsKept (d.applyEntries sel m).2 := by
  refine List.foldlRecOn m.work _ (motive := fun acc : List RegWrite × Dev => d.MsgsKept acc.2) (.refl d) ?_
  rintro ⟨done, e⟩ he w -
  dsimp only
  split
  · split
    · exact .frame he (e.burstReqWrite_frame _ _) rfl
    · exact he.trans (e.applyWrite_msgsKept _ _ _ _ _ _)
  · exact he

theorem Dev.applyMsgs_msgsKept (d : Dev) (sel : RegWrite → Bool) (bulk : Bool) (ms : List Msg) : d.MsgsKept (d.applyMsgs sel bulk ms).2 := by
  refine List.foldlRecOn ms _ (motive := fun acc : List Msg × Dev => d.MsgsKept acc.2) (.refl d) ?_
  rintro ⟨done, e⟩ he m -
  have hentries := he.trans (e.applyEntries_msgsKept sel m)
  dsimp only
  split
  · exact .frame hentries (Dev.applyBulk_frame _ _ _ _) rfl
  · exact hentries

theorem Dev.sessionsFreed_msgsKept (d : Dev) : d.MsgsKept d.sessionsFreed := by
  unfold Dev.sessionsFreed
  extract_lets h freed
  have hfreed : d.MsgsKept freed := rfl
  clear_value freed
  refine hfreed.trans (.forL (fun x s => ?_) (List.range 80) freed)
  extract_lets emptied paired shut
  have hemptied : x.MsgsKept emptied := x.setSess_msgsKept _ _
  have hpaired : emptied.MsgsKept (emptied.pairRings s 255 0) := .frame (.refl _) (Dev.pairRings_frame _ _ _ _) rfl
  exact .ite (.refl x) (.ite hemptied ((hemptied.trans hpaired).trans ((Dev.setRing_msgsKept _ _ _).trans (Dev.setRing_msgsKept _ _ _))))

/-- All messages registered in the beat are taken at its end (R55). -/
theorem Dev.applyWrites_msgs (d : Dev) : d.applyWrites.host.msgs = [] := by
  unfold Dev.applyWrites
  extract_lets ms host taken judged kept applied gridded burst moded answered hostAfter parked
  have htaken : taken.host.msgs = [] := rfl
  have happlied : taken.MsgsKept applied.2 := taken.applyMsgs_msgsKept _ true kept
  have hgridded : taken.MsgsKept gridded.2 := .frame happlied (applied.2.applyGrid_frame applied.1) rfl
  have hburst : taken.MsgsKept burst.2 := hgridded.trans (gridded.2.applyMsgs_msgsKept _ false gridded.1)
  clear_value burst
  have hmoded : burst.2.MsgsKept moded := .forL (fun x m => x.modeCommand_msgsKept _) _ _
  have hanswered : moded.MsgsKept answered := .forL (fun x m => x.answerMsg_msgsKept m) _ _
  clear_value answered
  have hparked : answered.MsgsKept parked := rfl
  have hall : taken.MsgsKept parked.sessionsFreed := ((hburst.trans hmoded).trans hanswered).trans (hparked.trans parked.sessionsFreed_msgsKept)
  exact Eq.trans hall htaken

/-! ## One entry by itself -/

/-- The device with its registered messages taken. -/
def Dev.taken (d : Dev) : Dev := { d with host := { d.host with msgs := [] } }

/-- The device with more messages that wait for their answer. -/
def Dev.parks (d : Dev) (ms : List Msg) : Dev := { d with host := { d.host with waiting := d.host.waiting ++ ms } }

theorem Dev.parks_nil (d : Dev) : d.parks [] = d := by rw [Dev.parks, List.append_nil]

/-- The one message of a beat, judged and applied, is answered, and the sessions that have ended are freed. -/
theorem Dev.applyWrites_one {d : Dev} {m k n : Msg} {v : RegWrite} {e : Dev} (hmsgs : d.host.msgs = [m]) (hjudged : d.taken.judgeMsg m = k)
    (happlied : d.taken.applyMsgs (fun w => !w.isGrid && !w.isBurst) true [k] = ([n], e)) (hplain : n.Plain v) (hop : n.op = 0x20) (hheld : v.held = false) :
    d.applyWrites = (e.answerMsg n).sessionsFreed := by
  have hwaits : n.waits = false := by rw [Msg.waits, hplain.work, List.any_cons, List.any_nil, hheld]; rfl
  have hbursts : e.applyMsgs RegWrite.isBurst false [n] = ([n], e) := by
    have hentries : e.applyEntries RegWrite.isBurst n = ([v], e) := by simp [Dev.applyEntries, hplain.work, hplain.burst]
    rw [e.applyMsgs_single _ _ hplain.bulk, hentries, ← hplain.work]
  unfold Dev.applyWrites
  extract_lets ms host taken judged kept applied gridded burst moded answered hostAfter parked
  have htaken : taken = d.taken := rfl
  have hkept : kept = [k] := by
    have hall : judged = [k] := by rw [show judged = ms.map taken.judgeMsg from rfl, show ms = [m] from hmsgs, htaken, List.map_singleton, hjudged]
    rw [show kept = judged.map (taken.clashMsg judged) from rfl, hall, List.map_singleton, Dev.clashMsg_alone]
  have happ : applied = ([n], e) := by rw [show applied = taken.applyMsgs (fun w => !w.isGrid && !w.isBurst) true kept from rfl, hkept, htaken, happlied]
  have hgrid : gridded = ([n], e) := by rw [show gridded = applied.2.applyGrid applied.1 from rfl, happ, e.applyGrid_plain hplain]
  have hburst : burst = ([n], e) := by rw [show burst = gridded.2.applyMsgs RegWrite.isBurst false gridded.1 from rfl, hgrid, hbursts]
  clear_value burst
  subst hburst
  have hmoded : moded = e := by
    rw [show moded = e.forL ([n].filter (fun m => m.op == 0x30 && m.status == stOk)) (fun d m => d.modeCommand m.code) from rfl,
      List.filter_cons_of_neg (by rw [hop]; simp)]
    rfl
  clear_value moded
  subst hmoded
  have hanswered : answered = moded.answerMsg n := by
    rw [show answered = moded.forL ([n].filter (fun m => !m.waits)) Dev.answerMsg from rfl, List.filter_cons_of_pos (by rw [hwaits]; rfl)]
    rfl
  clear_value answered
  have hparked : parked = answered := by
    have hnone : [n].filter Msg.waits = [] := List.filter_cons_of_neg (by rw [hwaits]; decide)
    rw [show parked = answered.parks ([n].filter Msg.waits) from rfl, hnone, Dev.parks_nil]
  rw [hparked, hanswered]

/-- A message of one write entry by itself, not refused at its registration. -/
structure Msg.WritesOne (m : Msg) (w : RegWrite) : Prop where
  plain : m.Plain w
  op : m.op = 0x20
  status : m.status = stOk
  entry : w.status = stOk
  held : w.held = false

/-- Its entry is judged on the state of the boundary (log entry 26). -/
theorem Dev.judgeMsg_one (d : Dev) {m : Msg} {w : RegWrite} (h : m.WritesOne w) :
    d.judgeMsg m = { m with work := [{ w with status := d.judgeStatic w.obj w.idx w.val }] } := by
  unfold Dev.judgeMsg
  simp [h.op, h.plain.work, h.plain.bulk, h.entry]

/-- It is applied where it passes the checks of every write, and answered with its status. -/
theorem Dev.applyWrites_accepted {d : Dev} {m : Msg} {w : RegWrite} (h : m.WritesOne w) (hmsgs : d.host.msgs = [m])
    (hok : d.taken.judgeStatic w.obj w.idx w.val = stOk) :
    d.applyWrites = ((d.taken.applyWrite m.session m.tag m.ts w.obj w.idx w.val).2.answerMsg
      { m with work := [{ w with status := (d.taken.applyWrite m.session m.tag m.ts w.obj w.idx w.val).1 }] }).sessionsFreed := by
  have hjudged : d.taken.judgeMsg m = { m with work := [{ w with status := stOk }] } := by rw [Dev.judgeMsg_one _ h, hok]
  generalize hr : d.taken.applyWrite m.session m.tag m.ts w.obj w.idx w.val = r
  have hentries : d.taken.applyEntries (fun w => !w.isGrid && !w.isBurst) { m with work := [{ w with status := stOk }] } = ([{ w with status := r.1 }], r.2) := by
    have hgrid : RegWrite.isGrid { w with status := stOk } = false := h.plain.grid
    have hburst : RegWrite.isBurst { w with status := stOk } = false := h.plain.burst
    simp [Dev.applyEntries, h.op, hgrid, hburst, hr]
  have happlied : d.taken.applyMsgs (fun w => !w.isGrid && !w.isBurst) true [{ m with work := [{ w with status := stOk }] }]
      = ([{ m with work := [{ w with status := r.1 }] }], r.2) := by
    rw [d.taken.applyMsgs_single _ _ (m := { m with work := [{ w with status := stOk }] }) h.plain.bulk, hentries]
  exact Dev.applyWrites_one (v := { w with status := r.1 }) hmsgs hjudged happlied ⟨h.plain.bulk, rfl, h.plain.grid, h.plain.burst⟩ h.op h.held

/-- Where it does not, nothing changes, and it is answered with its refusal. -/
theorem Dev.applyWrites_refused {d : Dev} {m : Msg} {w : RegWrite} (h : m.WritesOne w) (hmsgs : d.host.msgs = [m])
    (hbad : d.taken.judgeStatic w.obj w.idx w.val ≠ stOk) :
    d.applyWrites = (d.taken.answerMsg { m with work := [{ w with status := d.taken.judgeStatic w.obj w.idx w.val }] }).sessionsFreed := by
  generalize hst : d.taken.judgeStatic w.obj w.idx w.val = st at *
  have hjudged : d.taken.judgeMsg m = { m with work := [{ w with status := st }] } := by rw [Dev.judgeMsg_one _ h, hst]
  have hentries : d.taken.applyEntries (fun w => !w.isGrid && !w.isBurst) { m with work := [{ w with status := st }] } = ([{ w with status := st }], d.taken) := by
    simp [Dev.applyEntries, hbad]
  have happlied : d.taken.applyMsgs (fun w => !w.isGrid && !w.isBurst) true [{ m with work := [{ w with status := st }] }]
      = ([{ m with work := [{ w with status := st }] }], d.taken) := by
    rw [d.taken.applyMsgs_single _ _ (m := { m with work := [{ w with status := st }] }) h.plain.bulk, hentries]
  exact Dev.applyWrites_one (v := { w with status := st }) hmsgs hjudged happlied ⟨h.plain.bulk, rfl, h.plain.grid, h.plain.burst⟩ h.op h.held

/-- What is registered does not enter the checks of a write. -/
theorem Dev.judgeStatic_taken (d : Dev) (obj idx : Nat) (v : W64) : d.taken.judgeStatic obj idx v = d.judgeStatic obj idx v := rfl

end Sys2Proof.Machine

open Sys2Proof Sys2Proof.Machine

/-- Settles O45: nothing that is done with the messages registers one; a message of one entry is judged, applied and answered by itself. -/
theorem boundaryTakesWrites : Obligations.BoundaryTakesWrites := by
  unfold Obligations.BoundaryTakesWrites
  refine ⟨Dev.applyWrites_msgs, fun d m w hmsgs hop hstatus hbulk hwork hentry hgrid hburst hheld => ?_⟩
  have hone : m.WritesOne w := ⟨⟨hbulk, hwork, hgrid, hburst⟩, hop, hstatus, hentry, hheld⟩
  have htaken : d.taken.judgeStatic w.obj w.idx w.val = d.judgeStatic w.obj w.idx w.val := d.judgeStatic_taken _ _ _
  refine ⟨fun hok => ?_, fun hbad => ?_⟩
  · exact Dev.applyWrites_accepted hone hmsgs (htaken.trans hok)
  · rw [← htaken] at hbad ⊢
    exact Dev.applyWrites_refused hone hmsgs hbad

end

section
/-! PROOF. The log of events, their rings, and the second of delivery (R462, R463, R465). -/

namespace Sys2Proof.Machine

/-! ## A ring while others are served -/

/-- From `d` to `e` ring `n` and the sessions' states stay. -/
structure Dev.RingStands (n : Nat) (d e : Dev) : Prop where
  ring : e.ring n = d.ring n
  pars : ∀ p ∈ [Par.ringHead, Par.ringTail, Par.ringDepth, Par.ringState, Par.ringSession], e.get p n = d.get p n
  sess : ∀ k, (e.sess k).isOpen = (d.sess k).isOpen ∧ (e.sess k).link = (d.sess k).link

variable {n : Nat}

theorem Dev.RingStands.refl (d : Dev) : Dev.RingStands n d d := ⟨rfl, fun _ _ => rfl, fun _ => ⟨rfl, rfl⟩⟩

theorem Dev.RingStands.trans {a b c : Dev} (h : Dev.RingStands n a b) (g : Dev.RingStands n b c) : Dev.RingStands n a c :=
  ⟨g.ring.trans h.ring, fun p hp => (g.pars p hp).trans (h.pars p hp), fun k => ⟨(g.sess k).1.trans (h.sess k).1, (g.sess k).2.trans (h.sess k).2⟩⟩

theorem Dev.RingStands.ite {a x y : Dev} {c : Prop} [Decidable c] (h : Dev.RingStands n a x) (g : Dev.RingStands n a y) : Dev.RingStands n a (if c then x else y) := by
  split
  · exact h
  · exact g

/-- What leaves the host side and the rings' parameters alone. -/
theorem Dev.RingStands.of_agree {cs : List Nat} {fs : List Fld} {d e : Dev} (h : d.Agree cs fs e) (hc : cs.contains 0x91 = false) (hf : fs.contains .host = false) :
    Dev.RingStands n d e :=
  ⟨by rw [Dev.ring_of_host (h.2 .host hf)], fun p hp => by fin_cases hp <;> exact h.get _ _ rfl hc, fun k => by rw [Dev.sess_of_host (h.2 .host hf)]; exact ⟨rfl, rfl⟩⟩

theorem Dev.RingStands.of_par {d e : Dev} (hhost : e.host = d.host)
    (h : ∀ p ∈ [Par.ringHead, Par.ringTail, Par.ringDepth, Par.ringState, Par.ringSession], e.get p n = d.get p n) : Dev.RingStands n d e :=
  ⟨by rw [Dev.ring_of_host hhost], h, fun k => by rw [Dev.sess_of_host hhost]; exact ⟨rfl, rfl⟩⟩

/-- A parameter of another ring is stored. -/
theorem Dev.RingStands.put_other (d : Dev) {p : Par} {i v : Nat} (h : n ≠ i) (hp : p.small = true) : Dev.RingStands n d (d.put p i v) := by
  refine .of_par (Dev.put_host _ _ _ _) fun q hq => ?_
  by_cases hqp : q = p
  · rw [hqp, Dev.get_put_inst _ _ hp h]
  · have hsmall : q.small = true := by fin_cases hq <;> rfl
    exact Dev.get_put_apart _ _ _ _ (by simp [Par.apart, hqp, hp, hsmall])

theorem Dev.RingStands.sent (d : Dev) (link : Nat) : Dev.RingStands n d (d.inc 64 Par.linkTxFrames link) :=
  .of_par (Dev.inc_host _ _ _ _ _) fun q hq => by fin_cases hq <;> exact Dev.get_put_apart _ _ _ _ rfl

theorem Dev.setRing_stands (d : Dev) {m : Nat} (x : RingSt) (h : n ≠ m) : Dev.RingStands n d (d.setRing m x) :=
  ⟨by rw [Dev.ring_setRing_other _ _ _ _ h], fun _ _ => rfl, fun _ => ⟨rfl, rfl⟩⟩

/-- A message into another ring (R389). -/
theorem Dev.ringPut_stands (d : Dev) {m : Nat} (msg : List Byte) (h : n ≠ m) : Dev.RingStands n d (d.ringPut m msg) := by
  generalize hr : d.ringPut m msg = r
  unfold Dev.ringPut at hr
  extract_lets s eth wasEmpty written x tailed sent src v y counted at hr
  have hslot : Dev.RingStands n d (d.slotPut m (d.get Par.ringHead m) msg []) := by
    unfold Dev.slotPut
    exact .ite (.refl d) ⟨rfl, fun _ _ => rfl, fun _ => ⟨rfl, rfl⟩⟩
  have hwritten : Dev.RingStands n d written := (hslot.trans (.put_other _ h rfl)).trans (.put_other _ h rfl)
  clear_value written
  rw [← hr]
  refine hwritten.trans ?_
  refine .ite ?_ ?_
  · have htailed : Dev.RingStands n written tailed := .trans (.put_other _ h rfl) (.sent _ _)
    have hx : x = written.sess s := rfl
    have hlive := htailed.sess
    clear_value tailed
    have hsent : Dev.RingStands n tailed sent := by
      refine ⟨rfl, fun _ _ => rfl, fun k => ?_⟩
      by_cases hk : k = s
      · subst hk
        rw [show sent = tailed.setSess s { x with txSeq := x.txSeq + 1 } from rfl, Dev.sess_setSess_same, hx]
        exact ⟨(hlive s).1.symm, (hlive s).2.symm⟩
      · rw [show sent = tailed.setSess s { x with txSeq := x.txSeq + 1 } from rfl, Dev.sess_setSess_other _ _ _ _ hk]
        exact ⟨rfl, rfl⟩
    clear_value sent
    exact (htailed.trans hsent).trans ⟨rfl, fun _ _ => rfl, fun _ => ⟨rfl, rfl⟩⟩
  · have hcounted : Dev.RingStands n written counted := .sent _ _
    clear_value counted y
    refine hcounted.trans (.ite (counted.setRing_stands _ h) (.ite ?_ (counted.setRing_stands _ h)))
    exact (counted.setRing_stands _ h).trans ⟨rfl, fun _ _ => rfl, fun _ => ⟨rfl, rfl⟩⟩

/-- The messages of another ring (R391, R463). -/
theorem Dev.eventMsgs_stands {m : Nat} (h : n ≠ m) (k : Nat) (rs : List EvRec) (d : Dev) : Dev.RingStands n d (Dev.eventMsgs m k rs d) := by
  induction k generalizing rs d with
  | zero => exact .refl d
  | succ k ih =>
    unfold Dev.eventMsgs
    split
    · exact .refl d
    · extract_lets now first counted body
      have hcounted : Dev.RingStands n d counted := .put_other _ h rfl
      refine .ite (.trans ?_ (ih _ _)) ((d.ringPut_stands _ h).trans (ih _ _))
      exact .ite (hcounted.trans (.of_agree (Dev.raise_frame _ _ _ _ _) rfl rfl)) hcounted

/-! ## Delivery -/

/-- What makes way for the turn of one index, stands before it, and what its turn makes true, stands after it, holds at the end. -/
theorem Dev.forN_once {P Q : Dev → Prop} {f : Dev → Nat → Dev} {k i : Nat} (hi : i < k) (hbefore : ∀ d m, m < i → P d → P (f d m))
    (hturn : ∀ d, P d → Q (f d i)) (hafter : ∀ d m, i < m → m < k → Q d → Q (f d m)) {d : Dev} (h : P d) : Q (d.forN k f) := by
  have hpass (l : Nat) (hk : l ≤ k) : (l ≤ i → P (d.forN l f)) ∧ (i < l → Q (d.forN l f)) := by
    induction l with
    | zero => exact ⟨fun _ => h, fun h => absurd h (Nat.not_lt_zero i)⟩
    | succ l ih =>
      have ih := ih (by omega)
      have hstep : d.forN (l + 1) f = f (d.forN l f) l := by
        rw [Dev.forN, List.range_succ, List.foldl_append]
        rfl
      rw [hstep]
      refine ⟨fun hl => hbefore _ _ (by omega) (ih.1 (by omega)), fun hl => ?_⟩
      by_cases hli : l = i
      · subst hli
        exact hturn _ (ih.1 (by omega))
      · exact hafter _ _ (by omega) (by omega) (ih.2 (by omega))
  exact (hpass k (Nat.le_refl k)).2 hi

/-- The turn of one event ring (R463). -/
def Dev.eventTurn (recs : List (EvRec × Nat)) (d : Dev) (i : Nat) : Dev :=
  if d.ringSession (80 + i) < 16 ∧ (d.sess (d.ringSession (80 + i))).isOpen then
    Dev.eventMsgs (80 + i) (recs.filter (fun r => bit r.2 i)).length ((recs.filter (fun r => bit r.2 i)).map (·.1)) d
  else d

theorem Dev.eventTurn_stands (recs : List (EvRec × Nat)) (d : Dev) {i m : Nat} (h : i ≠ m) : Dev.RingStands (80 + i) d (d.eventTurn recs m) :=
  .ite (Dev.eventMsgs_stands (by omega) _ _ d) (.refl d)

/-- Records of one ring that fit one message go as one (R463). -/
theorem Dev.eventMsgs_one {d : Dev} {m : Nat} {rs : List EvRec} (hsome : rs ≠ []) (hfit : rs.length ≤ 127) (hlink : (d.sess (d.ringSession m)).link = 0)
    (hroom : d.ringFull m = false) (hstate : d.get Par.ringState m ≠ 2) :
    ((Dev.eventMsgs m rs.length rs d).ring m).slots = (d.ring m).slots ++ [mkMsg 0x80 0 (d.ringSession m) 0 0 (rs.flatMap (fun r => r.bytes 0xFFFFFFFF))] := by
  obtain ⟨r, rest, rfl⟩ := List.exists_cons_of_ne_nil hsome
  have htake : (r :: rest).take 127 = r :: rest := List.take_of_length_le hfit
  have hdrop : (r :: rest).drop 127 = [] := List.drop_eq_nil_of_le hfit
  have hnone (k : Nat) (e : Dev) : Dev.eventMsgs m k [] e = e := by cases k <;> rfl
  have hone : Dev.eventMsgs m (r :: rest).length (r :: rest) d
      = d.ringPut m (mkMsg 0x80 0 (d.ringSession m) 0 0 ((r :: rest).flatMap (fun r => r.bytes 0xFFFFFFFF))) := by
    rw [List.length_cons, Dev.eventMsgs, htake, hdrop, if_neg (by rw [hroom]; simp [hstate]), hnone]
    exact fun h => absurd h (List.cons_ne_nil _ _)
  rw [hone]
  exact (Dev.ringPut_puts hlink _).1

/-- The delivery puts the records of an open ring with room into it (R463). -/
theorem Dev.deliverEvents_delivers {d : Dev} {i : Nat} (hrun : d.phase = .run) (hpair : d.pairHalted 1 = false) (hi : i < 16)
    (hsession : d.ringSession (80 + i) < 16) (hopen : (d.sess (d.ringSession (80 + i))).isOpen = true) (hlink : (d.sess (d.ringSession (80 + i))).link = 0)
    (hroom : d.ringFull (80 + i) = false) (hstate : d.get Par.ringState (80 + i) ≠ 2) (hsome : (d.evt.toRings.filter (fun r => bit r.2 i)) ≠ [])
    (hfit : (d.evt.toRings.filter (fun r => bit r.2 i)).length ≤ 127) :
    (d.deliverEvents.ring (80 + i)).slots = (d.ring (80 + i)).slots
      ++ [mkMsg 0x80 0 (d.ringSession (80 + i)) 0 0 ((d.evt.toRings.filter (fun r => bit r.2 i)).flatMap (fun r => r.1.bytes 0xFFFFFFFF))] := by
  generalize hr : d.deliverEvents = r
  unfold Dev.deliverEvents at hr
  extract_lets recs evt cleared at hr
  rw [if_neg (by rw [Dev.up, hrun, hpair]; decide)] at hr
  have hcleared : Dev.RingStands (80 + i) d cleared := ⟨rfl, fun _ _ => rfl, fun _ => ⟨rfl, rfl⟩⟩
  have hloop : r = cleared.forN 16 (fun d i => d.eventTurn recs i) := hr.symm
  have hrecs : recs = d.evt.toRings := rfl
  clear hr
  clear_value cleared recs
  rw [hloop, ← hrecs]
  rw [← hrecs] at hsome hfit
  refine Dev.forN_once (P := Dev.RingStands (80 + i) d) hi (fun e m hm he => he.trans (e.eventTurn_stands _ (by omega))) (fun e he => ?_)
    (fun e m hm _ he => (congrArg RingSt.slots (e.eventTurn_stands _ (by omega)).ring).trans he) hcleared
  obtain ⟨hring, hpars, hsess⟩ := he
  have hown : e.ringSession (80 + i) = d.ringSession (80 + i) := by
    rw [Dev.ringSession, Dev.ringSession, if_neg (by omega), if_neg (by omega), if_neg (by omega), if_neg (by omega), hpars _ (by simp)]
  have hfull : e.ringFull (80 + i) = false := by
    rw [Dev.ringFull, Dev.ringUsed, hpars _ (by simp), hpars _ (by simp), hpars _ (by simp), ← Dev.ringUsed, ← Dev.ringFull]
    exact hroom
  unfold Dev.eventTurn
  rw [if_pos (by rw [hown, (hsess _).1]; exact ⟨hsession, hopen⟩), ← List.length_map (f := (·.1)),
    Dev.eventMsgs_one (by simpa using hsome) (by rw [List.length_map]; exact hfit) (by rw [hown, (hsess _).2]; exact hlink) hfull
      (by rw [hpars _ (by simp)]; exact hstate), hring, hown, List.flatMap_map]

/-! ## The log -/

/-- The oldest record that waits takes the next place of the log with the next seq; nothing is raised (R465). -/
theorem Dev.logNext_appends {d : Dev} {r : EvRec} {rest : List EvRec} (hrun : d.phase = .run) (hpair : d.pairHalted 1 = false) (hwaits : d.evt.toLog = r :: rest) :
    let e := d.logNext
    d.Agree [] [.evt] e ∧ e.evt.toLog = rest ∧ e.evt.logPos = (d.evt.logPos + 1) % 4096
      ∧ e.evt.log = d.evt.log.set (fun _ => List.replicate 32 0xFF) d.evt.logPos (r.bytes d.evt.seq)
      ∧ e.evt.seq = (if d.evt.seq + 1 ≥ 4294967295 then 0 else d.evt.seq + 1) ∧ e.evt.fresh = d.evt.fresh := by
  have hnext : d.logNext = ({ d with evt := { d.evt with toLog := rest } } : Dev).logAppend r := by
    unfold Dev.logNext
    rw [hwaits]
    exact if_pos (by rw [Dev.up, hrun, hpair]; decide)
  intro e
  subst e
  rw [hnext]
  refine ⟨Dev.Agree.step (Dev.logAppend_frame _ _) rfl rfl (.upd_evt rfl .refl), rfl, rfl, rfl, rfl, rfl⟩

theorem EvtSt.quiet {x : EvtSt} (h : x.fresh = []) : { x with fresh := [] } = x := by rw [← h]

/-- A device in RUN with the power mode RUN has all its blocks powered. -/
theorem Dev.full_of_run {d : Dev} (hrun : d.phase = .run) (hmode : d.pmode = pmRun) : d.full = true := by
  rw [Dev.full, Dev.up, hrun, hmode]
  decide

end Sys2Proof.Machine

open Sys2Proof Sys2Proof.Machine

/-- Settles O37: the log takes the oldest record, and a ring its records in its own turn; what raises nothing leaves nothing to serve. -/
theorem eventRecords : Obligations.EventRecords := by
  unfold Obligations.EventRecords
  refine ⟨fun t r rest s hrun hpair hfresh hmode hwaits => ?_, fun t i s hrun hpair hmode hfresh hi hsession hopen hlink hroom hstate hsome hfit => ?_,
    fun t s hfresh hmode => ?_⟩
  · refine .of_does rfl fun e he => ?_
    obtain ⟨hagree, hrest, hpos, hlog, hseq, hquiet⟩ := Dev.logNext_appends (d := s.dev.atTime t) hrun hpair hwaits
    rw [show (s.dev.atTime t).logNext = e from he] at hagree hrest hpos hlog hseq hquiet
    have hfull : e.full = true := (Dev.full_of_agree hagree rfl rfl).trans (Dev.full_of_run (d := s.dev.atTime t) hrun hmode)
    have hend := Dev.settle_of_quiet hfull (hquiet.trans hfresh) (s.dev.atTime t)
    have hevt : (e.settle (s.dev.atTime t)).evt = e.evt := hend.2 .evt rfl
    rw [hevt]
    refine ⟨hrest, hpos, ?_, fun k hk => ?_, hseq, fun n => ⟨?_, ?_⟩⟩
    · rw [hlog]
      exact Tab.get_set_same _ _ _ _
    · rw [hlog]
      exact Tab.get_set_other _ _ _ _ _ hk
    · exact (hend.get _ _ rfl rfl).trans (hagree.get _ _ rfl rfl)
    · exact (hend.get _ _ rfl rfl).trans (hagree.get _ _ rfl rfl)
  · refine .of_does rfl fun e he => ?_
    rw [Dev.ring_of_host (Dev.settle_host _ _), ← he]
    exact Dev.deliverEvents_delivers (d := s.dev.atTime t) hrun hpair hi hsession hopen hlink hroom hstate hsome hfit
  · refine .of_does rfl fun e he => ?_
    have hevent : e.evt = { s.dev.evt with rate := [] } := he ▸ rfl
    have hagree : (s.dev.atTime t).Agree [] [.evt] e := he ▸ .upd_evt rfl .refl
    by_cases hrun : s.dev.phase = .run
    · have hfull : e.full = true := (Dev.full_of_agree hagree rfl rfl).trans (Dev.full_of_run (d := s.dev.atTime t) hrun hmode)
      have hend := Dev.settle_of_quiet hfull ((congrArg EvtSt.fresh hevent).trans hfresh) (s.dev.atTime t)
      exact ⟨(hend.2 .evt rfl).trans hevent, fun n => (hend.get _ _ rfl rfl).trans (hagree.get _ _ rfl rfl)⟩
    · have hdown : e.phase ≠ .run := by rwa [show e.phase = s.dev.phase from hagree.2 .phase rfl]
      refine ⟨?_, fun n => (Dev.settle_down_get hdown _ _ _).trans (hagree.get _ _ rfl rfl)⟩
      rw [(Dev.settle_down_evt hdown _).1, EvtSt.quiet ((congrArg EvtSt.fresh hevent).trans hfresh), hevent]

end

section
/-! PROOF. The end of a stream's deviations judges the other streams again (R216): the criterion may turn true there. -/

namespace Sys2Proof.Machine

/-- A device in RUN whose detector 0 selects stream 0, which is there and has deviated for 30 ms, with sv_confirm just written from 60 ms to 20 ms:
the criterion SV has not been judged since and is still false. Stream 1 is not selected. -/
def shortenedConfirm : Dev :=
  (({ phase := .run, isls := [(0, { svDev := [(0, { since := some 0, last := 30 * fineMs })] })], host := { sv := [(0, { mac := 1, absent := false })] } } : Dev).put
    Par.isldSvMask 0 1).put Par.isldSvConfirm 0 20

/-- The absence of stream 1 turns SV of detector 0 true. -/
theorem shortenedConfirm_turns : (shortenedConfirm.isl 0).sv = false ∧ (((shortenedConfirm.atTime 0).svAbsent 1).isl 0).sv = true := by decide +kernel

end Sys2Proof.Machine

open Sys2Proof Sys2Proof.Machine

/-- Refutes O38: SV_STREAM_ABSENT judges every detector on the deviations of the streams that remain, and SV of a detector whose sv_confirm was
shortened since its last judgement turns true. -/
theorem not_islandingComputations : ¬ Obligations.IslandingComputations := by
  unfold Obligations.IslandingComputations
  intro h
  obtain ⟨-, -, habsent⟩ := h
  obtain ⟨e, hexec, -, -, hdetectors, -⟩ := habsent 0 1 ⟨shortenedConfirm, []⟩ (by decide +kernel)
  obtain ⟨hbefore, hafter⟩ := shortenedConfirm_turns
  have hdev : e.dev = ((shortenedConfirm.atTime 0).svAbsent 1).settle (shortenedConfirm.atTime 0) := by
    cases hexec
    rfl
  have hsv : (e.dev.isl 0).sv = true := by
    rw [hdev, Dev.isl, Dev.settle_isls]
    exact hafter
  exact absurd ((hdetectors 0 (by decide)).2 hsv) (by rw [hbefore]; decide)

end

section
/-! PROOF. Ethernet services: requests for an address, the HSR ring, supervision, sampled values (R397, R398, R402). -/

namespace Sys2Proof.Machine

/-! ## Frames -/

/-- From `d` to `e` no link changes its state, address or mode. -/
structure Dev.LinksStand (d e : Dev) : Prop where
  phase : e.phase = d.phase
  pars : ∀ p ∈ [Par.linkState, Par.linkRedMode, Par.linkMac], ∀ l, e.get p l = d.get p l

theorem Dev.LinksStand.up {d e : Dev} (h : d.LinksStand e) : e.up = d.up := by rw [Dev.up, h.phase, Dev.up]

theorem Dev.LinksStand.linkIsUp {d e : Dev} (h : d.LinksStand e) (l : Nat) : e.linkIsUp l = d.linkIsUp l := by
  rw [Dev.linkIsUp, h.pars _ (by simp), Dev.linkIsUp]

theorem Dev.LinksStand.mac {d e : Dev} (h : d.LinksStand e) (l : Nat) : e.get Par.linkMac l = d.get Par.linkMac l := h.pars _ (by simp) l

theorem Dev.linksStand_inc (d : Dev) {p : Par} (hp : p ∈ [Par.linkRxFrames, Par.linkTxFrames, Par.linkDupDrops]) (l : Nat) : d.LinksStand (d.inc 64 p l) where
  phase := Dev.put_phase _ _ _ _
  pars q hq n := by fin_cases hp <;> fin_cases hq <;> exact Dev.get_put_apart _ _ _ _ rfl

/-- A frame leaves a port that is up, and is counted as sent. -/
theorem Dev.frameOut_sends {d : Dev} {port : Nat} (hrun : d.phase = .run) (hup : d.linkIsUp (1 + port) = true) (kind : Nat) (bytes : List Byte) :
    (d.frameOut port kind bytes).host.sent = d.host.sent ++ [(port, kind, bytes)] ∧ d.LinksStand (d.frameOut port kind bytes)
      ∧ ∀ l, (d.frameOut port kind bytes).get Par.linkRxFrames l = d.get Par.linkRxFrames l := by
  have hgo : (d.up && d.linkIsUp (1 + port)) = true := by rw [Dev.up, hrun, hup]; decide
  unfold Dev.frameOut
  rw [if_pos hgo]
  have hcounted := d.linksStand_inc (p := Par.linkTxFrames) (by simp) (1 + port)
  have hsame : (d.inc 64 Par.linkTxFrames (1 + port)).host = d.host := Dev.inc_host _ _ _ _ _
  have hrx : ∀ l, (d.inc 64 Par.linkTxFrames (1 + port)).get Par.linkRxFrames l = d.get Par.linkRxFrames l := fun l => Dev.get_put_apart _ _ _ _ rfl
  generalize d.inc 64 Par.linkTxFrames (1 + port) = x at *
  refine ⟨?_, ⟨hcounted.phase, hcounted.pars⟩, hrx⟩
  show x.host.sent ++ _ = _
  rw [hsame]

/-- The device with the frames kept to tell duplicates. -/
def Dev.remembers (d : Dev) (xs : List (Nat × Nat)) : Dev := { d with host := { d.host with dups := xs } }

theorem Dev.remembers_stands (d : Dev) (xs : List (Nat × Nat)) : d.LinksStand (d.remembers xs) ∧ (d.remembers xs).host.sent = d.host.sent := ⟨⟨rfl, fun _ _ _ => rfl⟩, rfl⟩

/-! ## Requests for an address -/

/-- An echo request for the port's address is answered with what it brought (R398). -/
theorem Dev.echo_answers {d : Dev} {port target : Nat} {data : List Byte} (hrun : d.phase = .run) (hup : d.linkIsUp (1 + port) = true)
    (hv4 : d.get Par.linkIpv4 (d.addrLink port) ≠ 0) (hmine : target = d.get Par.linkIpv4 (d.addrLink port)) :
    let e := d.echo port .icmp target data
    e.host.sent = d.host.sent ++ [(port, frAnswer, data)] ∧ e.get Par.linkRxFrames (1 + port) = (d.get Par.linkRxFrames (1 + port) + 1) % 2 ^ 64 := by
  have hecho : d.echo port .icmp target data = (d.inc 64 Par.linkRxFrames (1 + port)).frameOut port frAnswer data := by
    unfold Dev.echo
    extract_lets l v4 lo hi v6 mine counted
    have hmine' : mine = true := by simp [mine, v4, l, hv4, hmine]
    rw [if_neg (by rw [Dev.up, hrun, hup]; decide), if_neg (by rw [hmine']; decide)]
  intro e
  subst e
  rw [hecho]
  have hcounted := d.linksStand_inc (p := Par.linkRxFrames) (by simp) (1 + port)
  obtain ⟨hsent, -, hrx⟩ := Dev.frameOut_sends (hcounted.phase.trans hrun) ((hcounted.linkIsUp (1 + port)).trans hup) frAnswer data
  exact ⟨by rw [hsent, Dev.inc_host], by rw [hrx, Dev.get_inc_same _ _ _ _ (by decide)]⟩

/-- A request for another address is not. -/
theorem Dev.echo_ignores {d : Dev} {port target : Nat} {data : List Byte} (hrun : d.phase = .run) (hup : d.linkIsUp (1 + port) = true)
    (hother : target ≠ d.get Par.linkIpv4 (d.addrLink port)) : (d.echo port .arp target data).host.sent = d.host.sent := by
  unfold Dev.echo
  extract_lets l v4 lo hi v6 mine counted
  have hmine : mine = false := by simp [mine, v4, l, hother]
  rw [if_neg (by rw [Dev.up, hrun, hup]; decide), if_pos (by rw [hmine]; rfl)]
  exact congrArg HostSt.sent (Dev.inc_host _ _ _ _ _)

/-! ## The HSR ring -/

/-- A frame of the ring that has not come before goes on by the other port; one that has come within 400 ms is dropped (R397). -/
theorem Dev.hsrForward_once {d : Dev} {port src seq : Nat} {frame : List Byte} (hport : port < 2) (hrun : d.phase = .run) (hring : d.get Par.linkRedMode 1 = 2)
    (hup1 : d.linkIsUp 1 = true) (hup2 : d.linkIsUp 2 = true) (hforeign : src ≠ d.get Par.linkMac 1) :
    ((∀ x ∈ d.host.dups, x.1 ≠ src * 65536 + seq) → (d.hsrForward port src seq frame).host.sent = d.host.sent ++ [(1 - port, frForward, frame)])
      ∧ ((∃ x ∈ d.host.dups, x.1 = src * 65536 + seq ∧ d.now < x.2 + 400 * fineMs) → (d.hsrForward port src seq frame).host.sent = d.host.sent
        ∧ (d.hsrForward port src seq frame).get Par.linkDupDrops (1 + port) = (d.get Par.linkDupDrops (1 + port) + 1) % 2 ^ 64) := by
  have hup : ∀ p < 2, d.linkIsUp (1 + p) = true := fun p hp => by
    obtain rfl | rfl : p = 0 ∨ p = 1 := by omega
    · exact hup1
    · exact hup2
  generalize hr : d.hsrForward port src seq frame = r
  unfold Dev.hsrForward at hr
  extract_lets counted key old at hr
  have hcounted : d.LinksStand counted := d.linksStand_inc (by simp) _
  have hsame : counted.host = d.host := Dev.inc_host _ _ _ _ _
  have hnow : counted.now = d.now := Dev.inc_now _ _ _ _ _
  have hdrops : counted.get Par.linkDupDrops (1 + port) = d.get Par.linkDupDrops (1 + port) := Dev.get_put_apart _ _ _ _ rfl
  have hold : old = d.host.dups.filter (fun x => decide (d.now < x.2 + 400 * fineMs)) := by
    rw [← hsame, ← hnow]
  clear_value counted old
  rw [if_neg (by rw [Dev.up, hrun, hring, hup port hport]; decide), if_neg (by rw [hcounted.mac]; exact hforeign)] at hr
  refine ⟨fun hnew => ?_, fun hseen => ?_⟩
  · have hnone : old.any (fun x => x.1 == key) = false := by
      rw [hold]
      exact List.any_eq_false.mpr fun x hx => by simpa using hnew x (List.mem_filter.mp hx).1
    rw [if_neg (by rw [hnone]; decide)] at hr
    obtain ⟨hkept, hsent⟩ := counted.remembers_stands (old ++ [(key, counted.now)])
    have hout := Dev.frameOut_sends (d := counted.remembers (old ++ [(key, counted.now)])) (port := 1 - port) (hkept.phase.trans (hcounted.phase.trans hrun))
      ((hkept.linkIsUp _).trans ((hcounted.linkIsUp _).trans (hup _ (by omega)))) frForward frame
    rw [← hr]
    exact hout.1.trans (by rw [hsent, hsame])
  · obtain ⟨x, hx, hkey, hfresh⟩ := hseen
    have hany : old.any (fun x => x.1 == key) = true := by
      rw [hold]
      exact List.any_eq_true.mpr ⟨x, List.mem_filter.mpr ⟨hx, by simpa using hfresh⟩, by simpa using hkey⟩
    rw [if_pos hany] at hr
    rw [← hr]
    have hdropped : (counted.remembers old).get Par.linkDupDrops (1 + port) = counted.get Par.linkDupDrops (1 + port) := rfl
    have hsent := (congrArg HostSt.sent (Dev.inc_host (counted.remembers old) 64 Par.linkDupDrops (1 + port) 1)).trans (counted.remembers_stands old).2
    refine ⟨hsent.trans (congrArg HostSt.sent hsame), ?_⟩
    rw [Dev.get_inc_same _ _ _ _ (by decide), ← hdrops, ← hdropped]
    rfl

/-! ## Supervision -/

/-- The supervision frame leaves both ports (R397). -/
theorem Dev.supervision_sends {d : Dev} (hrun : d.phase = .run) (hnode : d.redundant = true) (hup1 : d.linkIsUp 1 = true) (hup2 : d.linkIsUp 2 = true) :
    ∃ b, d.supervision.host.sent = d.host.sent ++ [(0, frSupervision, b), (1, frSupervision, b)] := by
  generalize hr : d.supervision = r
  unfold Dev.supervision at hr
  extract_lets h counted at hr
  rw [if_neg (by rw [Dev.up, hrun, hnode]; decide)] at hr
  have hcounted : d.LinksStand counted ∧ counted.host.sent = d.host.sent := ⟨⟨rfl, fun _ _ _ => rfl⟩, rfl⟩
  clear_value counted
  obtain ⟨hstand, hsame⟩ := hcounted
  obtain ⟨hfirst, hkept, -⟩ := Dev.frameOut_sends (port := 0) (hstand.phase.trans hrun) ((hstand.linkIsUp 1).trans hup1) frSupervision (leBytes 6 (counted.get Par.linkMac 1))
  obtain ⟨hsecond, -, -⟩ := Dev.frameOut_sends (port := 1) (hkept.phase.trans (hstand.phase.trans hrun)) ((hkept.linkIsUp 2).trans ((hstand.linkIsUp 2).trans hup2))
    frSupervision (leBytes 6 (counted.get Par.linkMac 1))
  refine ⟨leBytes 6 (counted.get Par.linkMac 1), ?_⟩
  rw [← hr, hsecond, hfirst, hsame, List.append_assoc]
  rfl

/-! ## Sampled values -/

theorem Dev.sv_of_host {d e : Dev} (h : e.host = d.host) (k : Nat) : e.sv k = d.sv k := by rw [Dev.sv, h, Dev.sv]

/-- The device with another record of a stream. -/
def Dev.setSv (d : Dev) (k : Nat) (x : SvSub) : Dev := { d with host := { d.host with sv := d.host.sv.set (fun _ => {}) k x } }

theorem Dev.sv_setSv (d : Dev) (k : Nat) (x : SvSub) : (d.setSv k x).sv k = x ∧ ∀ j, j ≠ k → (d.setSv k x).sv j = d.sv j :=
  ⟨Tab.get_set_same _ _ _ _, fun _ hj => Tab.get_set_other _ _ _ _ _ hj⟩

/-- The first stream that fits is the only one with its address. -/
theorem find_stream {f : Nat → Bool} {k : Nat} (hk : k < 8) (hfits : f k = true) (honly : ∀ j < 8, j ≠ k → f j = false) : (List.range 8).find? f = some k := by
  refine List.find?_eq_some_iff_append.mpr ⟨hfits, List.range k, (List.range' (k + 1) (7 - k)), ?_, fun j hj => ?_⟩
  · interval_cases k <;> rfl
  · have hlt := List.mem_range.mp hj
    simp [honly j (by omega) (by omega)]

/-- A valid frame of a subscribed stream is counted, and ends its absence (R402). -/
theorem Dev.svFrame_counts {d : Dev} {port mac appid id synch k : Nat} (hk : k < 8) (hrun : d.phase = .run) (hup : d.linkIsUp (1 + port) = true)
    (hsynch : synch = 1 ∨ synch = 2) (hmac : (d.sv k).mac = mac) (hsome : mac ≠ 0) (happid : (d.sv k).appid = appid) (hid : (d.sv k).id = id)
    (honly : ∀ j < 8, j ≠ k → (d.sv j).mac ≠ mac) :
    let e := d.svFrame port mac appid id synch true true false
    (e.sv k).absent = false ∧ (e.sv k).frames = ((d.sv k).frames + 1) % 2 ^ 32 ∧ ∀ j, j ≠ k → e.sv j = d.sv j := by
  generalize hr : d.svFrame port mac appid id synch true true false = r
  intro e
  subst e
  unfold Dev.svFrame at hr
  extract_lets l counted at hr
  have hsv : ∀ j, counted.sv j = d.sv j := Dev.sv_of_host (Dev.inc_host _ _ _ _ _)
  have hfind : (List.range 8).find? (fun k => (counted.sv k).mac != 0 && (counted.sv k).mac == mac && (counted.sv k).appid == appid && (counted.sv k).id == id) = some k := by
    refine find_stream hk ?_ fun j hj hjk => ?_
    · simp [hsv, hmac, happid, hid, hsome]
    · simp [hsv, honly j hj hjk]
  clear_value counted
  rw [if_neg (by rw [Dev.up, hrun, hup]; decide), if_neg (by simp), hfind] at hr
  dsimp only at hr
  rw [if_neg (by decide), if_neg (by rcases hsynch with h | h <;> simp [h])] at hr
  have hset := counted.sv_setSv k { counted.sv k with frames := ((counted.sv k).frames + 1) % 2 ^ 32, absent := false }
  have hjudged : (if (counted.sv k).absent = true then (counted.setSv k { counted.sv k with frames := ((counted.sv k).frames + 1) % 2 ^ 32, absent := false }).forN 4 Dev.svEval
      else counted.setSv k { counted.sv k with frames := ((counted.sv k).frames + 1) % 2 ^ 32, absent := false }) = r := hr
  clear hr
  generalize counted.setSv k { counted.sv k with frames := ((counted.sv k).frames + 1) % 2 ^ 32, absent := false } = x at *
  have hend : r.host = x.host := by
    have hframe : x.Agree [0x22, 0xC0] [.evt, .isls] r :=
      hjudged ▸ .ite (fun _ => .forN (fun _ _ h => .step (Dev.svEval_frame _ _) rfl rfl h) .refl) fun _ => .refl
    exact hframe.2 .host rfl
  refine ⟨?_, ?_, fun j hj => ?_⟩
  · rw [Dev.sv_of_host hend, hset.1]
  · rw [Dev.sv_of_host hend, hset.1, hsv]
  · rw [Dev.sv_of_host hend, hset.2 j hj, hsv]

end Sys2Proof.Machine

open Sys2Proof Sys2Proof.Machine

/-- Settles O52: what each service does while its link is up; what it sends and the records of streams stand on the host side, which the end of a command
leaves alone. -/
theorem ethernetServices : Obligations.EthernetServices := by
  unfold Obligations.EthernetServices
  refine ⟨fun t port target data s hrun hup => ?_, fun t port src seq frame s hrun hring hup1 hup2 hforeign => ?_, fun t s hrun hnode hup1 hup2 => ?_,
    fun t port mac appid id synch k s hrun hup hsynch hmac hsome happid hid honly => ?_⟩
  · intro v4
    refine ⟨fun hv4 hmine => .of_does rfl fun e he => ?_, fun hother => .of_does rfl fun e he => ?_⟩
    · obtain ⟨hsent, hrx⟩ := Dev.echo_answers (d := s.dev.atTime t) (data := data) hrun hup hv4 hmine
      rw [show (s.dev.atTime t).echo port.val .icmp target.toNat data = e from he] at hsent hrx
      rw [Dev.settle_host, Dev.settle_get _ _ _ rfl]
      exact ⟨hsent, hrx⟩
    · have hsent := Dev.echo_ignores (d := s.dev.atTime t) (data := data) hrun hup hother
      rw [show (s.dev.atTime t).echo port.val .arp target.toNat data = e from he] at hsent
      rw [Dev.settle_host]
      exact hsent
  · obtain ⟨hnew, hseen⟩ := Dev.hsrForward_once (d := s.dev.atTime t) (seq := seq.toNat) (frame := frame) port.isLt hrun hring hup1 hup2 hforeign
    refine ⟨fun hfirst => .of_does rfl fun e he => ?_, fun hagain => .of_does rfl fun e he => ?_⟩
    · rw [Dev.settle_host, ← he]
      exact hnew hfirst
    · rw [Dev.settle_host, Dev.settle_get _ _ _ rfl, ← he]
      exact hseen hagain
  · refine .of_does rfl fun e he => ?_
    rw [Dev.settle_host, ← he]
    exact Dev.supervision_sends (d := s.dev.atTime t) hrun hnode hup1 hup2
  · refine .of_does rfl fun e he => ?_
    obtain ⟨habsent, hframes, hothers⟩ := Dev.svFrame_counts (d := s.dev.atTime t) k.isLt hrun hup hsynch hmac hsome happid hid honly
    rw [show (s.dev.atTime t).svFrame port.val mac.toNat appid.toNat id.toNat synch.toNat true true false = e from he] at habsent hframes hothers
    have hsv := Dev.sv_of_host (e.settle_host (s.dev.atTime t))
    rw [hsv]
    exact ⟨habsent, hframes, fun j _ hj => (hsv j).trans (hothers j hj)⟩

end

section
/-! PROOF. Rings: BAR2, doorbells and tails, interrupts, heartbeats (R386 to R388, R391, R392, R396). -/

namespace Sys2Proof.Machine

/-! ## BAR2 -/

/-- Slots in all rings together, and the place of ring `n` in them (R386). -/
def Dev.ringPlace (d : Dev) (n : Nat) : Nat := ((List.range n).map (fun k => d.get Par.ringDepth k)).sum

theorem Dev.ringPlace_succ (d : Dev) (n : Nat) : d.ringPlace (n + 1) = d.ringPlace n + d.get Par.ringDepth n := by
  rw [Dev.ringPlace, List.range_succ, List.map_append, List.sum_append, Dev.ringPlace]
  simp

theorem Dev.ringPlace_mono (d : Dev) {n m : Nat} (h : n ≤ m) : d.ringPlace n ≤ d.ringPlace m := by
  induction m, h using Nat.le_induction with
  | base => exact Nat.le_refl _
  | succ m _ ih =>
    rw [d.ringPlace_succ]
    omega

/-- A ring's slots lie before the end of all rings. -/
theorem Dev.slotNo_lt {d : Dev} {n : Nat} (i : Nat) (hn : n < 96) (hdepth : d.get Par.ringDepth n ≠ 0) : d.slotNo n i < d.ringPlace 96 := by
  have hmod : i % d.get Par.ringDepth n < d.get Par.ringDepth n := Nat.mod_lt _ (by omega)
  have hplace : d.slotNo n i = d.ringPlace n + i % d.get Par.ringDepth n := rfl
  have hend := d.ringPlace_mono (show n + 1 ≤ 96 by omega)
  rw [d.ringPlace_succ] at hend
  omega

/-- What a slot in use holds. -/
def Dev.slotAt (d : Dev) (k : Nat) : List Byte × List Byte := if k < d.ringPlace 96 then d.host.bar2.get (fun _ => ([], [])) k else ([], [])

theorem Dev.bar2_eq (d : Dev) (a : Nat) : d.bar2 a =
    if a < 0x180000 then (d.slotAt (a / 4096)).1.getD (a % 4096) 0 else (d.slotAt ((a - 0x180000) / 32)).2.getD ((a - 0x180000) % 32) 0 := by
  have haddr : sealAddr 0 = 0x180000 := by rw [sealAddr, Nat.mul_zero]
  unfold Dev.bar2
  extract_lets used slot
  have hslot : slot = d.slotAt := rfl
  rw [haddr, hslot]

/-- A slot written lies at its place, and the other slots stay. -/
theorem Dev.slotAt_slotPut {d : Dev} {n : Nat} (i : Nat) (m r : List Byte) (hn : n < 96) (haddr : d.get Par.ringHostAddr n = 0) (hdepth : d.get Par.ringDepth n ≠ 0) :
    (d.slotPut n i m r).slotAt (d.slotNo n i) = (m, r) ∧ ∀ k, k ≠ d.slotNo n i → (d.slotPut n i m r).slotAt k = d.slotAt k := by
  have hlt := Dev.slotNo_lt i hn hdepth
  have hplace : (d.slotPut n i m r).ringPlace 96 = d.ringPlace 96 := by
    have hagree := d.slotPut_frame n i m r
    simp only [Dev.ringPlace, hagree.get Par.ringDepth _ rfl rfl]
  have hbar : (d.slotPut n i m r).host.bar2 = d.host.bar2.set (fun _ => ([], [])) (d.slotNo n i) (m, r) := by
    rw [Dev.slotPut, if_neg (fun h => h haddr)]
  refine ⟨?_, fun k hk => ?_⟩
  · rw [Dev.slotAt, hplace, if_pos hlt, hbar, Tab.get_set_same]
  · rw [Dev.slotAt, hplace, hbar, Tab.get_set_other _ _ _ _ _ hk, Dev.slotAt]

/-- BAR2 after a slot is written (R386). -/
theorem Dev.slotPut_bar2 {d : Dev} {n : Nat} (i : Nat) (m r : List Byte) (hn : n < 96) (haddr : d.get Par.ringHostAddr n = 0) (hdepth : d.get Par.ringDepth n ≠ 0)
    (hfits : d.ringPlace 96 ≤ 384) :
    (∀ k < 4096, (d.slotPut n i m r).bar2 (4096 * d.slotNo n i + k) = m.getD k 0)
      ∧ (∀ k < 32, (d.slotPut n i m r).bar2 (0x180000 + 32 * d.slotNo n i + k) = r.getD k 0)
      ∧ ∀ a, (a < 4096 * d.slotNo n i ∨ 4096 * d.slotNo n i + 4096 ≤ a) → (a < 0x180000 + 32 * d.slotNo n i ∨ 0x180000 + 32 * d.slotNo n i + 32 ≤ a) →
        (d.slotPut n i m r).bar2 a = d.bar2 a := by
  have hlt := Dev.slotNo_lt i hn hdepth
  obtain ⟨hat, hothers⟩ := Dev.slotAt_slotPut i m r hn haddr hdepth
  generalize d.slotNo n i = place at *
  refine ⟨fun k hk => ?_, fun k hk => ?_, fun a hslot hseal => ?_⟩
  · rw [Dev.bar2_eq, if_pos (by omega), show (4096 * place + k) / 4096 = place by omega, show (4096 * place + k) % 4096 = k by omega, hat]
  · rw [Dev.bar2_eq, if_neg (by omega), show (0x180000 + 32 * place + k - 0x180000) / 32 = place by omega,
      show (0x180000 + 32 * place + k - 0x180000) % 32 = k by omega, hat]
  · rw [Dev.bar2_eq, Dev.bar2_eq]
    split
    · rw [hothers _ (by omega)]
    · rw [hothers _ (by omega)]

/-- What belongs to no slot reads zero. -/
theorem Dev.bar2_beyond {d : Dev} {a : Nat} (hfits : d.ringPlace 96 ≤ 384) (h : (4096 * d.ringPlace 96 ≤ a ∧ a < 0x180000) ∨ 0x180000 + 32 * d.ringPlace 96 ≤ a) :
    d.bar2 a = 0 := by
  have hnone : ∀ k, d.ringPlace 96 ≤ k → d.slotAt k = ([], []) := fun k hk => if_neg (by omega)
  rw [Dev.bar2_eq]
  split
  · rw [hnone _ (by omega)]
    rfl
  · rw [hnone _ (by omega)]
    rfl

/-! ## Doorbells and tails -/

/-- A ring in FAULT, with its event (R388). -/
theorem Dev.ringFault_faults {d : Dev} (n : Nat) (hrun : d.phase = .run) :
    let e := (d.put Par.ringState n 2).raise evRingFault (oid 0x91 n)
    e.get Par.ringState n = 2 ∧ e.host = d.host ∧ e.isOn Par.evtFlag evRingFault = true
      ∧ ∀ p : Par, Par.apart p Par.ringState = true → [0xC0].contains p.group = false → e.get p n = d.get p n := by
  have hup : (d.put Par.ringState n 2).evtUp = true := Dev.evtUp_of_run ((Dev.put_phase _ _ _ _).trans hrun)
  refine ⟨?_, ?_, Dev.isOn_raise _ _ _ _ hup, fun p hp hg => ?_⟩
  · rw [Dev.get_raise _ _ _ _ _ _ rfl rfl, Dev.get_put_lt _ (by decide)]
  · rw [Dev.raise_host, Dev.put_host]
  · have hsmall : p.small = true := by simp only [Par.apart, Bool.and_eq_true] at hp; exact hp.1.2
    rw [Dev.get_raise _ _ _ _ _ _ hsmall hg, Dev.get_put_apart _ _ _ _ hp]

/-- A doorbell (R388): one within the ring moves its head, one beyond its depth takes it to FAULT. -/
theorem Dev.doorbell_rings {d : Dev} {n head : Nat} (hrun : d.phase = .run) (hhost : hostRing n = true) (hstate : d.get Par.ringState n ≠ 2) :
    ((head + 2 ^ 32 - d.get Par.ringTail n) % 2 ^ 32 ≤ d.get Par.ringDepth n → (head + 2 ^ 32 - d.get Par.ringHead n) % 2 ^ 32 < 2 ^ 31 →
        d.doorbell n head = d.put Par.ringHead n head)
      ∧ (d.get Par.ringDepth n < (head + 2 ^ 32 - d.get Par.ringTail n) % 2 ^ 32 → d.doorbell n head = (d.put Par.ringState n 2).raise evRingFault (oid 0x91 n)) := by
  have hgo : ¬ ((!d.up) = true ∨ (!hostRing n) = true ∨ d.get Par.ringState n = 2) := by
    rw [Dev.up, hrun, hhost]
    simp [hstate]
  unfold Dev.doorbell
  rw [if_neg hgo]
  exact ⟨fun hfits hback => if_neg (by omega), fun hbeyond => if_pos (.inr hbeyond)⟩

/-- A tail write (R387, R391): consumed slots leave the ring; one beyond its head takes it to FAULT. -/
theorem Dev.tailWrite_takes {d : Dev} {n tail : Nat} (hrun : d.phase = .run) (hown : hostRing n = false) (hstate : d.get Par.ringState n ≠ 2) :
    ((tail + 2 ^ 32 - d.get Par.ringTail n) % 2 ^ 32 ≤ d.ringUsed n → (d.ring n).waiting = [] →
        d.tailWrite n tail = (d.put Par.ringTail n tail).setRing n { d.ring n with slots := (d.ring n).slots.drop ((tail + 2 ^ 32 - d.get Par.ringTail n) % 2 ^ 32) })
      ∧ (d.ringUsed n < (tail + 2 ^ 32 - d.get Par.ringTail n) % 2 ^ 32 → d.tailWrite n tail = (d.put Par.ringState n 2).raise evRingFault (oid 0x91 n)) := by
  have hgo : ¬ ((!d.up) = true ∨ hostRing n = true ∨ d.get Par.ringState n = 2) := by
    rw [Dev.up, hrun, hown]
    simp [hstate]
  unfold Dev.tailWrite
  rw [if_neg hgo]
  refine ⟨fun hin hnone => ?_, fun hbeyond => if_pos hbeyond⟩
  rw [if_neg (by omega)]
  extract_lets r taken
  have hdrain : Dev.ringDrain n r.waiting.length taken = taken := by
    rw [show r.waiting = [] from hnone]
    rfl
  exact hdrain

/-! ## Heartbeats -/

/-- A message of another ring. -/
theorem Dev.ringPush_stands (d : Dev) {n m : Nat} (msg : List Byte) (h : n ≠ m) : Dev.RingStands n d (d.ringPush m msg) := by
  unfold Dev.ringPush
  extract_lets r
  exact .ite (d.setRing_stands _ h) (d.ringPut_stands msg h)

/-- The turn of one session (R396). -/
def Dev.heartbeatTurn (d : Dev) (s : Nat) : Dev :=
  if !(d.sess s).isOpen then d
  else d.sendTo s (mkMsg 0x03 0 s 0 0 (leBytes 8 d.now ++ leBytes 8 d.beatNo ++ leBytes 1 d.kind ++ leBytes 1 (d.get Par.devModeIndex 0)
    ++ leBytes 1 (d.get Par.rimState 0) ++ leBytes 1 (b2n d.weave.tokenCur + 2 * (d.get Par.beatTimeState 0 % 8)) ++ leBytes 4 d.evt.seq))

theorem Dev.heartbeatTurn_stands (d : Dev) {k s : Nat} (hs : s < 16) (h : k ≠ s) : Dev.RingStands (16 + k) d (d.heartbeatTurn s) := by
  refine .ite (.refl d) ?_
  unfold Dev.sendTo
  rw [if_pos hs]
  exact .ite (d.ringPush_stands _ (by omega)) (.refl d)

/-- The turn of an open session on PCIe puts one message into its ring. -/
theorem Dev.heartbeatTurn_sends {d : Dev} {k : Nat} (hk : k < 16) (hopen : (d.sess k).isOpen = true) (hlink : (d.sess k).link = 0) (hroom : d.ringFull (16 + k) = false)
    (hwaiting : (d.ring (16 + k)).waiting = []) (hstate : d.get Par.ringState (16 + k) ≠ 2) :
    ((d.heartbeatTurn k).ring (16 + k)).slots.length = (d.ring (16 + k)).slots.length + 1 := by
  have hsession : d.ringSession (16 + k) = k := by
    unfold Dev.ringSession
    rw [if_neg (by omega), if_pos (by omega), Nat.add_sub_cancel_left]
  unfold Dev.heartbeatTurn
  rw [if_neg (by rw [hopen]; decide), Dev.sendTo, if_pos hk, if_pos (by rw [hopen]; rfl), Dev.ringPush, if_neg (by rw [hroom, hwaiting]; simp [hstate]), (Dev.ringPut_puts (by rw [hsession]; exact hlink) _).1, List.length_append]
  rfl

theorem Dev.heartbeats_eq {d : Dev} (hrun : d.phase = .run) (hpair : d.pairHalted 1 = false) : d.heartbeats = d.forN 16 Dev.heartbeatTurn := by
  unfold Dev.heartbeats
  rw [if_neg (by rw [Dev.up, hrun, hpair]; decide)]
  rfl

/-- What stands in a loop's turns but one. -/
theorem Dev.forN_inv {P : Dev → Prop} {f : Dev → Nat → Dev} (k : Nat) (hf : ∀ d m, m < k → P d → P (f d m)) {d : Dev} (h : P d) : P (d.forN k f) :=
  List.foldlRecOn (List.range k) f (motive := P) h fun _ hd m hm => hf _ m (List.mem_range.mp hm) hd

/-- HEARTBEAT into the ring of each open session on PCIe (R396). -/
theorem Dev.heartbeats_sends {d : Dev} {k : Nat} (hk : k < 16) (hrun : d.phase = .run) (hpair : d.pairHalted 1 = false) :
    ((d.sess k).isOpen = true → (d.sess k).link = 0 → d.ringFull (16 + k) = false → (d.ring (16 + k)).waiting = [] → d.get Par.ringState (16 + k) ≠ 2 →
        (d.heartbeats.ring (16 + k)).slots.length = (d.ring (16 + k)).slots.length + 1)
      ∧ ((d.sess k).isOpen = false → d.heartbeats.ring (16 + k) = d.ring (16 + k)) := by
  rw [Dev.heartbeats_eq hrun hpair]
  refine ⟨fun hopen hlink hroom hwaiting hstate => ?_, fun hclosed => ?_⟩
  · refine Dev.forN_once (P := Dev.RingStands (16 + k) d) hk (fun e m hm he => he.trans (e.heartbeatTurn_stands (by omega) (by omega))) (fun e he => ?_)
      (fun e m hm hmk he => (congrArg (fun r : RingSt => r.slots.length) (e.heartbeatTurn_stands hmk (by omega)).ring).trans he) (.refl d)
    obtain ⟨hring, hpars, hsess⟩ := he
    have hfull : e.ringFull (16 + k) = false := by
      rw [Dev.ringFull, Dev.ringUsed, hpars _ (by simp), hpars _ (by simp), hpars _ (by simp), ← Dev.ringUsed, ← Dev.ringFull]
      exact hroom
    rw [← hring]
    exact Dev.heartbeatTurn_sends hk ((hsess k).1.trans hopen) ((hsess k).2.trans hlink) hfull (by rw [hring]; exact hwaiting) (by rw [hpars _ (by simp)]; exact hstate)
  · refine (Dev.forN_inv (P := Dev.RingStands (16 + k) d) 16 (fun e m hm he => ?_) (.refl d)).ring
    by_cases hmk : m = k
    · subst hmk
      have hidle : e.heartbeatTurn m = e := if_pos (by rw [(he.sess m).1, hclosed]; rfl)
      rw [hidle]
      exact he
    · exact he.trans (e.heartbeatTurn_stands hm (by omega))

end Sys2Proof.Machine
end

section
/-! PROOF. Links, the time register, and messages for other stakes (R377, R385, R398, R403, R404). -/

namespace Sys2Proof.Machine

/-! ## Interrupts -/

/-- The vector of slots not yet signalled is raised (R392). -/
theorem Dev.coalesce_raises {d : Dev} {n : Nat} (hwaits : (d.ring n).unsignalled.isSome = true) (hvector : d.get Par.ringVector n < 32) :
    let e := d.coalesce n
    (e.ring n).unsignalled = none ∧ (e.ring n).slots = (d.ring n).slots
      ∧ e.host.msix.get (fun _ => 0) (d.get Par.ringVector n) = d.host.msix.get (fun _ => 0) (d.get Par.ringVector n) + 1 := by
  have hgo : ¬ ((d.ring n).unsignalled.isNone = true ∨ 32 ≤ d.get Par.ringVector n) := by
    rw [Option.isNone_iff_eq_none, ← Option.not_isSome_iff_eq_none, hwaits]
    simpa using hvector
  have hraise : d.coalesce n = (d.setRing n { d.ring n with unsignalled := none }).msixRaise (d.get Par.ringVector n) := if_neg hgo
  intro e
  subst e
  rw [hraise]
  have hset : (d.setRing n { d.ring n with unsignalled := none }).ring n = { d.ring n with unsignalled := none } := Dev.ring_setRing_same _ _ _
  have hmsix : (d.setRing n { d.ring n with unsignalled := none }).host.msix = d.host.msix := rfl
  generalize d.setRing n { d.ring n with unsignalled := none } = x at *
  refine ⟨?_, ?_, ?_⟩
  · rw [Dev.msixRaise_ring, hset]
  · rw [Dev.msixRaise_ring, hset]
  · rw [← hmsix]
    have hraised : (x.msixRaise (d.get Par.ringVector n)).host.msix
        = x.host.msix.set (fun _ => 0) (d.get Par.ringVector n) (x.host.msix.get (fun _ => 0) (d.get Par.ringVector n) + 1) := rfl
    rw [hraised, Tab.get_set_same]

/-! ## Links -/

theorem Dev.sessionEnd_linkState (d : Dev) (k : Nat) : Dev.Spares Par.linkState d (d.sessionEnd k) := by
  unfold Dev.sessionEnd
  extract_lets x noted told host ended lid
  have hnoted : Dev.Spares Par.linkState d noted := .frame (.refl d) (Dev.setSess_frame _ _ _) rfl rfl
  have htold : Dev.Spares Par.linkState noted told := .ite (.put (.refl _) rfl) (.refl _)
  have hended : Dev.Spares Par.linkState told ended := .upd (.refl _) rfl
  exact .ite (.refl d) (((hnoted.trans htold).trans hended).trans (.ite (.refl _) (.upd (.refl _) rfl)))

/-- A session that is open ends, another stays as it is. -/
theorem Dev.sessionEnd_closed (d : Dev) (k : Nat) : ((d.sessionEnd k).sess k).isOpen = false ∧ ∀ j, j ≠ k → (d.sessionEnd k).sess j = d.sess j := by
  by_cases hlive : (d.sess k).isOpen = true ∨ (d.sess k).helloAt.isNone = false
  · obtain ⟨hclosed, -, -, hothers, -⟩ := Dev.sessionEnd_ends hlive
    exact ⟨hclosed, hothers⟩
  · obtain ⟨hclosed, hhello⟩ := not_or.mp hlive
    have hsame : d.sessionEnd k = d := by
      unfold Dev.sessionEnd
      extract_lets x
      exact if_pos ⟨by simpa using hclosed, by simpa using hhello⟩
    rw [hsame]
    exact ⟨by simpa using hclosed, fun j _ => rfl⟩

/-- The turn of one session when a link goes down. -/
def Dev.lostTurn (lost : Sess → Bool) (d : Dev) (s : Nat) : Dev := if lost (d.sess s) then d.sessionEnd s else d

theorem Dev.lostTurn_other (lost : Sess → Bool) (d : Dev) {s k : Nat} (h : k ≠ s) : (d.lostTurn lost s).sess k = d.sess k := by
  unfold Dev.lostTurn
  split
  · exact (d.sessionEnd_closed s).2 k h
  · rfl

/-- A link that goes down (R377): its sessions end; the sessions of the other links stay, and those of the weave. -/
theorem Dev.linkDown_ends (d : Dev) (l : Nat) :
    let e := d.linkDown l
    e.linkIsUp l = false ∧ (∀ k < 16, (d.sess k).link = l → (l = 0 ∨ d.redundant = false) → (e.sess k).isOpen = false)
      ∧ (∀ k < 16, l = 0 → (d.sess k).link ≠ 0 → e.sess k = d.sess k) ∧ ∀ k, 16 ≤ k → e.sess k = d.sess k := by
  generalize hr : d.linkDown l = r
  intro e
  subst e
  unfold Dev.linkDown at hr
  extract_lets put gone both lost at hr
  have hput : put.get Par.linkState l = 0 ∧ put.redundant = d.redundant :=
    ⟨Dev.get_put_lt _ (by decide), by rw [Dev.redundant, show put.get Par.linkRedMode 1 = d.get Par.linkRedMode 1 from Dev.get_put_apart _ _ _ _ rfl, Dev.redundant]⟩
  have hputHost : put.host = d.host := Dev.put_host _ _ _ _
  have hgone : put.Agree [0x02, 0xC0] [.evt, .sup] gone := .ite (fun _ => .refl) fun _ => put.ptpGone_frame _
  clear_value put
  have hsess : ∀ k, gone.sess k = d.sess k := fun k => Dev.sess_of_host ((hgone.2 .host rfl).trans hputHost) k
  have hstate : gone.get Par.linkState l = 0 := (hgone.get _ _ rfl rfl).trans hput.1
  have hred : gone.redundant = d.redundant := by rw [← hput.2, Dev.redundant, hgone.get _ _ rfl rfl, Dev.redundant]
  have hlost : ∀ x : Sess, lost x = if l = 0 ∨ d.redundant = false then x.link == l else both && (x.link == 1 || x.link == 2) := fun x => by
    simp only [lost, hred, Bool.not_eq_true']
  have hloop : gone.forN 16 (Dev.lostTurn lost) = r := hr
  clear hr
  clear_value gone lost both
  rw [← hloop]
  refine ⟨?_, fun k hk hlink hmode => ?_, fun k hk hzero hlink => ?_, fun k hk => ?_⟩
  · have hspares : Dev.Spares Par.linkState gone (gone.forN 16 (Dev.lostTurn lost)) := .forN (fun x s => .ite (x.sessionEnd_linkState s) (.refl x)) 16 gone
    rw [Dev.linkIsUp, hspares.get, hstate]
    rfl
  · refine Dev.forN_once (P := fun x => x.sess k = d.sess k) (Q := fun x => (x.sess k).isOpen = false) hk
      (fun x m hm hx => (Dev.lostTurn_other lost x (by omega)).trans hx) (fun x hx => ?_) (fun x m hm _ hx => ?_) (hsess k)
    · have hgo : lost (x.sess k) = true := by rw [hlost, if_pos hmode, hx, hlink]; simp
      unfold Dev.lostTurn
      rw [if_pos hgo]
      exact (x.sessionEnd_closed k).1
    · rw [Dev.lostTurn_other lost x (by omega)]
      exact hx
  · refine Dev.forN_inv (P := fun x => x.sess k = d.sess k) 16 (fun x m hm hx => ?_) (hsess k)
    by_cases hkm : k = m
    · subst hkm
      have hstays : lost (x.sess k) = false := by rw [hlost, if_pos (.inl hzero), hx, hzero]; simpa using hlink
      unfold Dev.lostTurn
      rw [hstays, if_neg (by decide)]
      exact hx
    · exact (Dev.lostTurn_other lost x hkm).trans hx
  · exact Dev.forN_inv (P := fun x => x.sess k = d.sess k) 16 (fun x m hm hx => (Dev.lostTurn_other lost x (by omega)).trans hx) (hsess k)

/-- A link comes up while the NET clock is there (R404). -/
theorem Dev.linkUp_ups {d : Dev} {l speed width : Nat} (hrun : d.phase = .run) (hmode : d.pmode ≠ pmParked) (hclk : d.clkOk cdNet = true) (hspeed : speed < 2 ^ 64) (hwidth : width < 2 ^ 64) :
    let e := d.linkUp l speed width
    e.linkIsUp l = true ∧ (l = 0 → e.get Par.linkPcieSpeed 0 = speed ∧ e.get Par.linkPcieWidth 0 = width) ∧ e.host = d.host := by
  generalize hr : d.linkUp l speed width = r
  intro e
  subst e
  unfold Dev.linkUp at hr
  extract_lets starting parked put at hr
  have hparked : parked = false := by simpa [parked] using hmode
  rw [if_neg (by rw [hclk]; decide), if_neg (by rw [hrun]; exact fun h => nomatch h.1), if_pos (by rw [hparked, Dev.up, hrun]; simp)] at hr
  have hput : put.get Par.linkState l = 1 := Dev.get_put_lt _ (by decide)
  have hhost : put.host = d.host := Dev.put_host _ _ _ _
  clear_value put
  by_cases hl : l = 0
  · rw [if_pos hl] at hr
    subst hr
    refine ⟨?_, fun _ => ⟨(Dev.get_put_apart _ _ _ _ rfl).trans (Dev.get_put_lt _ hspeed), Dev.get_put_lt _ hwidth⟩, by rw [Dev.put_host, Dev.put_host, hhost]⟩
    rw [Dev.linkIsUp, Dev.get_put_apart _ _ _ _ rfl, Dev.get_put_apart _ _ _ _ rfl, hput]
    rfl
  · rw [if_neg hl] at hr
    subst hr
    exact ⟨by rw [Dev.linkIsUp, hput]; rfl, fun h => absurd h hl, hhost⟩

/-! ## Messages for other stakes -/

/-- The device with a message taken from weave-out ring `ring`, heard. -/
def Dev.heardIn (d : Dev) (h : Hdr) (ring : Nat) (m : HostMsg) : Dev := ((d.ringTake ring (d.msgSlot h m)).inc 64 Par.linkRxFrames 0).noted h.session.val

theorem Dev.takenIn_sent (d : Dev) (h : Hdr) {ring : Nat} (m : HostMsg) (hring : 32 ≤ ring) :
    d.Sent ((d.ringTake ring (d.msgSlot h m)).inc 64 Par.linkRxFrames 0) h.session.val 0 [] :=
  (d.ringTake_sent _ (by omega)).trans (Dev.inc_sent _ _ (by decide) (by decide) (fun hp => absurd hp (by decide)))

/-- A message in another ring of the host gets in, and is acted on. -/
theorem Dev.served.hostMsgIn {d : Dev} {h : Hdr} {m : HostMsg} {ring back : Nat} (hs : d.served h m.opcode) (hring : 32 ≤ ring) (hstate : d.get Par.ringState ring ≠ 2)
    (hreadable : d.slotBad ring = false) :
    d.hostMsgIn h ring back m = (d.heardIn h ring m).actOn h.session.val h.tag.toNat h.shadow false back m := by
  obtain ⟨hrun, hpair, hlink, hunsealed, hseal, hopen, hpcie, -, -, -, hroom, -, hwaiting, -, -⟩ := id hs
  have hsent := d.takenIn_sent h m hring
  have hfree : ((d.ringTake ring (d.msgSlot h m)).inc 64 Par.linkRxFrames 0).isOn Par.linkSealRequired 0 = false := by
    rw [Dev.isOn, Dev.get_inc_apart _ _ _ _ _ (by decide), (d.ringTake_frame _ _).get _ _ (by decide) (by decide)]
    exact hseal
  have hgate : d.gate h ring m = (.take, (d.ringTake ring (d.msgSlot h m)).inc 64 Par.linkRxFrames 0) := by
    simp [Dev.gate, hpair, hopen, hpcie, hlink, hstate, hroom, hwaiting, hreadable, hunsealed, hfree]
  have hlive : (((d.ringTake ring (d.msgSlot h m)).inc 64 Par.linkRxFrames 0).sess h.session.val).isOpen = true := by
    rw [hsent.session]
    exact hopen
  have htake : d.hostMsgIn h ring back m
      = ((d.ringTake ring (d.msgSlot h m)).inc 64 Par.linkRxFrames 0).takeMsg h.session.val h.tag.toNat h.shadow false back m := by
    simp [Dev.hostMsgIn, Dev.up, hrun, hgate, hlive, hunsealed]
  rw [htake, hs.takeMsg hsent back]
  rfl

theorem Dev.served.heardIn_waits {d : Dev} {h : Hdr} {op : Nat} (hs : d.served h op) {ring : Nat} (m : HostMsg) (hring : 32 ≤ ring) : d.Waits (d.heardIn h ring m) h := by
  obtain ⟨-, -, -, -, -, hopen, hpcie, hown, -, hstate, hroom, -, hwaiting, -, -⟩ := hs
  exact (d.takenIn_sent h m hring).waits (d.taken_head _ (by omega)) hwaiting hroom (by rw [hopen, Bool.true_or]) hpcie hstate hown

/-- The device with a proxied message noted for its response (R403). -/
def Dev.proxies (d : Dev) (ps : List (Nat × Nat × Nat)) : Dev := { d with host := { d.host with proxied := ps } }

/-- A message for a stake that is present and has a route leaves as MGMT (R403). -/
theorem Dev.proxyOut_leaves {d : Dev} {s tag stake back : Nat} {inner : List Byte} (hroute : (d.routeTo stake).isSome = true) (hpresent : d.isOn Par.stakePresent stake = true)
    (hnumber : d.weave.stake.isSome = true) : ∃ w ∈ (d.proxyOut s tag stake back inner).weave.out, w.kind = wkMgmt ∧ w.dest = stake ∧ w.bytes = inner := by
  have hgo : ¬ ((d.routeTo stake).isNone = true ∨ (!d.isOn Par.stakePresent stake) = true) := by
    rw [Option.isNone_iff_eq_none, ← Option.not_isSome_iff_eq_none, hroute, hpresent]
    decide
  have hout : d.proxyOut s tag stake back inner
      = (d.proxies (d.host.proxied.filter (fun p => !(p.1 == stake && p.2.1 == leAt inner 8 2)) ++ [(stake, leAt inner 8 2, back)])).weavePut wkMgmt stake inner := if_neg hgo
  have hweave (ps : List (Nat × Nat × Nat)) : (d.proxies ps).weave.stake.isNone = false := Option.isNone_eq_false_iff.mpr hnumber
  obtain ⟨q, hq⟩ := Dev.weavePut_leaves _ stake inner 255 (.inl (hweave (d.host.proxied.filter (fun p => !(p.1 == stake && p.2.1 == leAt inner 8 2))
    ++ [(stake, leAt inner 8 2, back)])))
  rw [hout]
  exact ⟨_, hq, rfl, rfl, rfl⟩

theorem Completes.proxy {h : Hdr} {ring : Fin 8} {stake : Byte} {inner : List Byte} {s : State} (hs : s.dev.served h 0x70)
    (hstate : s.dev.get Par.ringState (64 + ring.val) ≠ 2) (hreadable : s.dev.slotBad (64 + ring.val) = false) :
    ((s.dev.routeTo stake.toNat).isSome = true → s.dev.isOn Par.stakePresent stake.toNat = true → s.dev.weave.stake.isSome = true →
      Completes (.proxy h ring stake inner) s (fun d => ∃ w ∈ d.weave.out, w.kind = wkMgmt ∧ w.dest = stake.toNat ∧ w.bytes = inner))
    ∧ ((s.dev.routeTo stake.toNat).isNone = true ∨ s.dev.isOn Par.stakePresent stake.toNat = false →
      Completes (.proxy h ring stake inner) s (fun d => s.dev.answered d h 0x70 stBadState [] false)) := by
  have hmsg := (hs.atTime h.t).hostMsgIn (m := .proxy stake inner) (ring := 64 + ring.val) (back := 72 + ring.val) (by omega) hstate hreadable
  have hwaits := (hs.atTime h.t).heardIn_waits (ring := 64 + ring.val) (.proxy stake inner) (by omega)
  have hagree := ((s.dev.atTime h.t).takenIn_sent h (ring := 64 + ring.val) (.proxy stake inner) (by omega)).noted.frame
  have hsame : ((s.dev.atTime h.t).heardIn h (64 + ring.val) (.proxy stake inner)) = (((s.dev.atTime h.t).ringTake (64 + ring.val)
    ((s.dev.atTime h.t).msgSlot h (.proxy stake inner))).inc 64 Par.linkRxFrames 0).noted h.session.val := rfl
  rw [← hsame] at hagree
  generalize (s.dev.atTime h.t).heardIn h (64 + ring.val) (.proxy stake inner) = x at *
  have hweave : x.weave = s.dev.weave := hagree.2 .weave rfl
  have hroute : x.routeTo stake.toNat = s.dev.routeTo stake.toNat := by rw [Dev.routeTo, hweave, Dev.routeTo]
  have hpresent : x.isOn Par.stakePresent stake.toNat = s.dev.isOn Par.stakePresent stake.toNat := by
    rw [Dev.isOn, hagree.get _ _ rfl rfl]
    rfl
  refine ⟨fun hsome hthere hnumber => .of_does rfl fun e he => ?_, fun hno => .of_does rfl fun e he => ?_⟩
  · rw [hmsg] at he
    have hout : x.proxyOut h.session.val h.tag.toNat stake.toNat (72 + ring.val) inner = e := he
    obtain ⟨w, hw, hkind, hdest, hbytes⟩ := Dev.proxyOut_leaves (d := x) (s := h.session.val) (tag := h.tag.toNat) (back := 72 + ring.val) (inner := inner)
      (by rw [hroute]; exact hsome) (by rw [hpresent]; exact hthere) (by rw [hweave]; exact hnumber)
    rw [hout] at hw
    exact ⟨w, (e.settle_sends (s.dev.atTime h.t)).mem_out hw, hkind, hdest, hbytes⟩
  · rw [hmsg] at he
    have hrefused : x.respond h.session.val h.tag.toNat 0x70 x.now stBadState [] = e := by
      rw [← he]
      exact (if_pos (by rw [hroute, hpresent]; simpa using hno)).symm
    rw [← hrefused]
    exact hwaits.answered 0x70 stBadState [] false hwaits.now _

end Sys2Proof.Machine

open Sys2Proof Sys2Proof.Machine

/-- Settles O51: a ring is moved by its own doorbell, tail or turn and by no other's; a link's sessions end one after the other; a message for another
stake gets in as one in the command ring does. -/
theorem ringsAndLinks : Obligations.RingsAndLinks := by
  unfold Obligations.RingsAndLinks
  refine ⟨⟨fun d n i m r hn haddr hdepth hfits => ?_, fun t n head s hrun hhost hstate => ?_, fun t n tail s hrun hown hstate => ?_,
    fun t n s hrun hwaits hvector => ?_, fun t k s hrun hpair => ?_⟩, ⟨fun t l s hrun => ?_, fun t l speed width s hrun hmode hclk => ?_, fun t n l s => ?_, fun t s hrun => ?_⟩,
    fun h ring stake inner s hs hstate hreadable => Completes.proxy hs hstate hreadable⟩
  · intro used at' e
    obtain ⟨hmsg, hseal, hrest⟩ := Dev.slotPut_bar2 (d := d) i m r hn haddr hdepth hfits
    exact ⟨hmsg, hseal, hrest, fun a ha => Dev.bar2_beyond hfits ha⟩
  · obtain ⟨hmoves, hfaults⟩ := Dev.doorbell_rings (d := s.dev.atTime t) (head := head.toNat) hrun hhost hstate
    refine ⟨fun hfits hback => .of_does rfl fun e he => ?_, fun hbeyond => .of_does rfl fun e he => ?_⟩
    · have hput : e = (s.dev.atTime t).put Par.ringHead n.val head.toNat := he.symm.trans (hmoves hfits hback)
      rw [Dev.settle_get _ _ _ rfl, Dev.settle_get _ _ _ rfl, hput, Dev.get_put_lt _ (by omega), Dev.get_put_apart _ _ _ _ rfl]
      exact ⟨rfl, rfl⟩
    · obtain ⟨hfault, -, hflag, hkept⟩ := Dev.ringFault_faults (d := s.dev.atTime t) n.val hrun
      rw [← hfaults hbeyond, show (s.dev.atTime t).doorbell n.val head.toNat = e from he] at hfault hflag hkept
      rw [Dev.settle_get _ _ _ rfl, Dev.settle_get _ _ _ rfl]
      exact ⟨hfault, hkept _ rfl rfl, e.settle_keepsFlags _ _ hflag⟩
  · obtain ⟨htakes, hfaults⟩ := Dev.tailWrite_takes (d := s.dev.atTime t) (tail := tail.toNat) hrun hown hstate
    refine ⟨fun hin hnone => .of_does rfl fun e he => ?_, fun hbeyond => .of_does rfl fun e he => ?_⟩
    · have hput := he.symm.trans (htakes hin hnone)
      rw [Dev.settle_get _ _ _ rfl, Dev.settle_get _ _ _ rfl, Dev.ring_of_host (Dev.settle_host _ _), hput, Dev.ring_setRing_same]
      have hset := (((s.dev.atTime t).put Par.ringTail n.val tail.toNat).setRing_frame n.val { (s.dev.atTime t).ring n.val with
        slots := ((s.dev.atTime t).ring n.val).slots.drop ((tail.toNat + 2 ^ 32 - (s.dev.atTime t).get Par.ringTail n.val) % 2 ^ 32) })
      rw [hset.get _ _ rfl rfl, hset.get _ _ rfl rfl, Dev.get_put_lt _ (by omega), Dev.get_put_apart _ _ _ _ rfl]
      exact ⟨rfl, rfl, rfl⟩
    · obtain ⟨hfault, hhost, hflag, -⟩ := Dev.ringFault_faults (d := s.dev.atTime t) n.val hrun
      rw [← hfaults hbeyond, show (s.dev.atTime t).tailWrite n.val tail.toNat = e from he] at hfault hhost hflag
      rw [Dev.settle_get _ _ _ rfl, Dev.settle_host]
      exact ⟨hfault, hhost, e.settle_keepsFlags _ _ hflag⟩
  · refine .of_does rfl fun e he => ?_
    rw [Dev.whenUp_of_run (d := s.dev.atTime t) hrun] at he
    have hraises := Dev.coalesce_raises (d := s.dev.atTime t) hwaits hvector
    rw [he] at hraises
    rw [Dev.ring_of_host (Dev.settle_host _ _), Dev.settle_host]
    exact hraises
  · obtain ⟨hopen, hclosed⟩ := Dev.heartbeats_sends (d := s.dev.atTime t) k.isLt hrun hpair
    refine ⟨fun hlive hlink hroom hwaiting hstate => .of_does rfl fun e he => ?_, fun hshut => .of_does rfl fun e he => ?_⟩
    · rw [Dev.ring_of_host (Dev.settle_host _ _), ← he]
      exact hopen hlive hlink hroom hwaiting hstate
    · rw [Dev.ring_of_host (Dev.settle_host _ _), ← he]
      exact hclosed hshut
  · refine .of_does rfl fun e he => ?_
    rw [Dev.whenUp_of_run (d := s.dev.atTime t) hrun] at he
    obtain ⟨hdown, hends, hstays, hweave⟩ := (s.dev.atTime t).linkDown_ends l.val
    rw [he] at hdown hends hstays hweave
    have hsess := Dev.sess_of_host (e.settle_host (s.dev.atTime t))
    refine ⟨?_, fun k hk hlink hmode => by rw [hsess]; exact hends k hk hlink hmode, fun k hk hzero hlink => by rw [hsess]; exact hstays k hk hzero hlink,
      fun k hk => by rw [hsess]; exact hweave k hk⟩
    rw [Dev.linkIsUp, Dev.settle_get _ _ _ rfl]
    exact hdown
  · refine .of_does rfl fun e he => ?_
    obtain ⟨hup, hpcie, hhost⟩ := Dev.linkUp_ups (d := s.dev.atTime t) (l := l.val) (speed := speed.toNat) (width := width.toNat) hrun hmode hclk (by omega) (by omega)
    rw [show (s.dev.atTime t).linkUp l.val speed.toNat width.toNat = e from he] at hup hpcie hhost
    rw [Dev.linkIsUp, Dev.settle_get _ _ _ rfl, Dev.settle_get _ _ _ rfl, Dev.settle_get _ _ _ rfl, Dev.settle_host]
    exact ⟨hup, hpcie, hhost⟩
  · refine .of_does rfl fun e he => ?_
    have hleft : e.host.fragments = s.dev.host.fragments.filter (fun f => f != (l.val, n)) := by rw [← he]; rfl
    rw [Dev.settle_host, hleft]
    exact ⟨fun hin => by simp at hin, fun f hf hne => List.mem_filter.mpr ⟨hf, by simpa using hne⟩⟩
  · refine .of_does rfl fun e he => ?_
    have hlatch : (s.dev.atTime t).timeRegisterRead = { s.dev.atTime t with host := { s.dev.host with timeLatch := s.dev.instant t, barRead := s.dev.instant t % 2 ^ 32 } } :=
      if_pos (by rw [Dev.up, show (s.dev.atTime t).phase = .run from hrun]; rfl)
    rw [Dev.settle_host, ← he, hlatch]
    exact ⟨rfl, rfl⟩

end

section
/-! PROOF. Weave-wide triggers, sessions of other stakes, the periodic messages, and the partner (R318, R319, R352, R367, R370, R403). -/

namespace Sys2Proof.Machine

variable {n : Nat}

/-! ## Triggers -/

/-- From `d` to `e` the arm value that waits for trigger `n`, and whether it arms itself here, stay. -/
def Dev.ArmKept (n : Nat) (d e : Dev) : Prop := (e.trig n).armNext = (d.trig n).armNext ∧ (e.trig n).autoHere = (d.trig n).autoHere

theorem Dev.ArmKept.refl (d : Dev) : Dev.ArmKept n d d := ⟨rfl, rfl⟩

theorem Dev.ArmKept.trans {a b c : Dev} (h : Dev.ArmKept n a b) (g : Dev.ArmKept n b c) : Dev.ArmKept n a c := ⟨g.1.trans h.1, g.2.trans h.2⟩

theorem Dev.ArmKept.ite {a x y : Dev} {c : Prop} [Decidable c] (h : Dev.ArmKept n a x) (g : Dev.ArmKept n a y) : Dev.ArmKept n a (if c then x else y) := by
  split
  · exact h
  · exact g

theorem Dev.ArmKept.foldl {α : Type} {f : Dev → α → Dev} (hf : ∀ (d : Dev) x, Dev.ArmKept n d (f d x)) (xs : List α) (d : Dev) : Dev.ArmKept n d (xs.foldl f d) :=
  List.foldlRecOn xs f (motive := Dev.ArmKept n d) (.refl d) (fun e h x _ => h.trans (hf e x))

theorem Dev.ArmKept.of_trigs {d e : Dev} (h : e.trigs = d.trigs) : Dev.ArmKept n d e := by rw [Dev.ArmKept, Dev.trig_of_trigs h]; exact ⟨rfl, rfl⟩

theorem Dev.ArmKept.of_agree {cs : List Nat} {fs : List Fld} {d e : Dev} (h : d.Agree cs fs e) (hf : fs.contains .trigs = false) : Dev.ArmKept n d e :=
  .of_trigs (h.2 .trigs hf)

theorem Dev.ArmKept.setTrig {d : Dev} {m : Nat} {x : TrigRt} (hnext : x.armNext = (d.trig m).armNext) (hhere : x.autoHere = (d.trig m).autoHere) :
    Dev.ArmKept n d (d.setTrig m x) := by
  by_cases h : n = m
  · subst h
    rw [Dev.ArmKept, Dev.trig_setTrig_same]
    exact ⟨hnext, hhere⟩
  · rw [Dev.ArmKept, d.trig_setTrig_other _ _ _ h]
    exact ⟨rfl, rfl⟩

/-- A fire moves no arm value that waits. -/
theorem Dev.fireTrig_armKept (d : Dev) (m ts cause stake : Nat) : Dev.ArmKept n d (d.fireTrig m ts cause stake) := by
  unfold Dev.fireTrig
  extract_lets st weave t told last held mask streams f sent src src'
  have hmissed : Dev.ArmKept n d (d.trigMissed m ts cause stake) := .of_agree (d.trigMissed_frame m ts cause stake) rfl
  have hheld : Dev.ArmKept n d held := .of_trigs (by rw [Dev.put_trigs, Dev.put_trigs, Dev.put_trigs, Dev.put_trigs, Dev.raise_trigs, Dev.inc_trigs])
  clear_value held
  have hstreams : Dev.ArmKept n d streams := by
    refine hheld.trans (.foldl (fun x s => .ite (.ite (.of_agree (x.capSplit_frame _ _) rfl) ?_) (.refl x)) _ held)
    exact .trans (.of_trigs (Dev.inc_trigs _ _ _ _ _)) (.of_agree (Dev.capFlag_frame _ _ _) rfl)
  clear_value streams
  have hmarks (x : Dev) : Dev.ArmKept n x (x.fireMarks m f) := .of_agree (x.fireMarks_frame m f) rfl
  refine .ite (.refl d) (.ite ?_ (.ite ?_ ?_))
  · split
    · next g _ =>
      have hkept : Dev.ArmKept n d (d.setTrig m { t with openFire := some ⟨ts, cause, stake⟩, missedFires := t.missedFires ++ [g] }) := .setTrig rfl rfl
      refine .ite ?_ (.ite (.setTrig rfl rfl) hmissed)
      refine .trans (hkept.trans (.of_trigs ?_)) (.foldl (fun y s => .ite (.of_agree (y.capSplit_frame _ _) rfl) (.refl y)) _ _)
      rw [Dev.put_trigs, Dev.put_trigs, Dev.put_trigs]
    · exact hmissed
  · have hput : Dev.ArmKept n streams (streams.sendFire m ts cause) := .of_agree (streams.sendFire_frame m ts cause) rfl
    have hsent : Dev.ArmKept n streams sent := .ite (.refl streams) hput
    exact (hstreams.trans hsent).trans (.setTrig rfl rfl)
  · refine .trans ?_ (hmarks _)
    exact hstreams.trans (.setTrig rfl rfl)

theorem Dev.eventTrig_armKept (d : Dev) (ev : Nat) : Dev.ArmKept n d (d.eventTrig ev) := by
  unfold Dev.eventTrig
  extract_lets ts m marked
  have hmarked : Dev.ArmKept n d marked :=
    .foldl (fun x k => .ite (.ite (.of_agree (x.markStream_frame _ _) rfl) (.ite (.of_agree (x.markRing_frame _ _) rfl) (.refl x))) (.refl x)) (List.range 32) d
  exact .ite (.refl d) (hmarked.trans (.foldl (fun x k => .ite (.ite (x.fireTrig_armKept _ _ _ _) (.refl x)) (.refl x)) (List.range 16) marked))

theorem Dev.serveFresh_armKept (k : Nat) (d : Dev) : Dev.ArmKept n d (Dev.serveFresh k d) := by
  induction k generalizing d with
  | zero => exact .of_trigs rfl
  | succ k ih =>
    unfold Dev.serveFresh
    split
    · exact .refl d
    · next ev obj rest _ =>
      have htaken : Dev.ArmKept n d { d with evt := { d.evt with fresh := rest } } := .of_trigs rfl
      exact htaken.trans ((Dev.eventTrig_armKept _ ev).trans (ih _))

theorem Dev.settle_armKept (d old : Dev) : Dev.ArmKept n d (d.settle old) := by
  rw [Dev.settle_eq]
  exact .trans (.of_agree (d.wakeScan_frame old) rfl) ((Dev.serveFresh_armKept _ _).trans (.of_agree (Dev.ended_agree _) rfl))

/-! ## Sessions of other stakes -/

/-- The first session of another stake's session takes the lowest free place (R376, R403). -/
theorem Dev.weaveSession_opens {d : Dev} {stake session : Nat} (port : Nat) (hnew : ∀ k < 80, (d.sess k).origin ≠ some (stake, session))
    (hfree : ∃ k < 64, d.pairFree (16 + k) = true) :
    ∃ k < 64, d.pairFree (16 + k) = true
      ∧ d.weaveSession stake session port = some (16 + k, d.sessionOpen (16 + k) { link := 3 + port, origin := some (stake, session) }) := by
  have hnone : (List.range 64).find? (fun k => (d.sess (16 + k)).isOpen && (d.sess (16 + k)).origin == some (stake, session)) = none := by
    refine List.find?_eq_none.mpr fun k hk => ?_
    have hk' := List.mem_range.mp hk
    simp [hnew (16 + k) (by omega)]
  obtain ⟨j, hj, hjfree⟩ := hfree
  have hsome : ((List.range 64).find? (fun k => d.pairFree (16 + k))).isSome = true := List.find?_isSome.mpr ⟨j, List.mem_range.mpr hj, hjfree⟩
  obtain ⟨k, hk⟩ := Option.isSome_iff_exists.mp hsome
  refine ⟨k, List.mem_range.mp (List.mem_of_find?_eq_some hk), List.find?_some (p := fun k => d.pairFree (16 + k)) hk, ?_⟩
  unfold Dev.weaveSession
  rw [hnone, hk]

/-- A session of the weave opens with no ring of its own (R376). -/
theorem Dev.sessionOpen_weave (d : Dev) {k : Nat} (hk : 16 ≤ k) (x : Sess) :
    (d.sessionOpen k x).sess k = { x with isOpen := true, auth := true, helloAt := none, lastMsg := d.now } := by
  unfold Dev.sessionOpen
  extract_lets noted lid opened
  have hnoted : noted.sess k = { x with isOpen := true, auth := true, helloAt := none, lastMsg := d.now } := Dev.sess_setSess_same _ _ _
  rw [if_pos hk]
  exact hnoted

/-- An answer keeps a session of the weave open, with its origin. -/
theorem Dev.respond_weave (d : Dev) {k : Nat} (hk : 16 ≤ k) (tag op ts st : Nat) (body : List Byte) (more : Bool) :
    ((d.respond k tag op ts st body more).sess k).isOpen = (d.sess k).isOpen ∧ ((d.respond k tag op ts st body more).sess k).origin = (d.sess k).origin := by
  unfold Dev.respond
  extract_lets m x
  have hset : (d.setSess k { x with stored := storeResp x.stored op tag ts m }).sess k = { x with stored := storeResp x.stored op tag ts m } :=
    Dev.sess_setSess_same _ _ _
  generalize d.setSess k { x with stored := storeResp x.stored op tag ts m } = e at *
  have hhost : (e.sendTo k m).host = e.host := by
    unfold Dev.sendTo
    rw [if_neg (by omega)]
    split
    · exact (e.weavePut_frame _ _ _).2 .host rfl
    · rfl
  rw [Dev.sess_of_host hhost, hset]
  exact ⟨rfl, rfl⟩

/-- OPEN of another stake's session opens a session of that origin, and keeps it open (R403). -/
theorem Dev.weaveRequest_open (d : Dev) {k : Nat} (hk : 16 ≤ k) {x : Sess} (hstored : x.stored = []) (tag : Nat) :
    (((d.sessionOpen k x).weaveRequest k tag false .opn).sess k).isOpen = true
      ∧ (((d.sessionOpen k x).weaveRequest k tag false .opn).sess k).origin = x.origin := by
  have hsess := d.sessionOpen_weave hk x
  generalize d.sessionOpen k x = e at *
  have hfresh : e.replay k 0x01 tag = none := by
    unfold Dev.replay
    rw [hsess]
    simp [hstored]
  unfold Dev.weaveRequest
  rw [if_pos rfl, hfresh]
  obtain ⟨hopen, horigin⟩ := e.respond_weave hk tag 0x01 e.now stOk [] false
  exact ⟨by rw [hopen, hsess], by rw [horigin, hsess]⟩

/-! ## The messages of every second -/

/-- From `d` to `e` the device keeps its number, and no message that is to leave is lost. -/
def Dev.OutKept (d e : Dev) : Prop := e.weave.stake = d.weave.stake ∧ ∀ w ∈ d.weave.out, w ∈ e.weave.out

theorem Dev.OutKept.trans {a b c : Dev} (h : a.OutKept b) (g : b.OutKept c) : a.OutKept c := ⟨g.1.trans h.1, fun w hw => g.2 w (h.2 w hw)⟩

theorem Dev.WeaveSends.outKept {d e : Dev} (h : d.WeaveSends e) : d.OutKept e := by
  have hstake := congrArg WeaveSt.stake h.rest
  exact ⟨hstake, fun w => h.mem_out⟩

theorem Dev.takeAssign_outKept (d : Dev) (pairs : List (W64 × Nat)) : d.OutKept (d.takeAssign pairs) := by
  unfold Dev.takeAssign
  split
  · split
    · exact ⟨rfl, fun w hw => hw⟩
    · exact ⟨rfl, fun w hw => hw⟩
  · exact ⟨rfl, fun w hw => hw⟩

/-- A message of a device with a number leaves, and none is lost. -/
theorem Dev.weavePut_posts {d : Dev} (hstake : d.weave.stake.isSome = true) (kind dest : Nat) (body : List Byte) :
    d.OutKept (d.weavePut kind dest body) ∧ ∃ w ∈ (d.weavePut kind dest body).weave.out, w.kind = kind ∧ w.dest = dest := by
  obtain ⟨q, hq⟩ := d.weavePut_leaves (kind := kind) dest body 255 (.inl (by rw [← Option.not_isSome, hstake]; rfl))
  exact ⟨(d.weavePut_sends _ _ _ _).outKept, _, hq, rfl, rfl⟩

/-- Every second IDENT, LSA and CODES leave for every stake (R352). -/
theorem Dev.weavePeriodic_sends {d : Dev} (hfull : d.full = true) (hstake : d.weave.stake.isSome = true) :
    d.OutKept d.weavePeriodic ∧ ∀ kind ∈ [wkIdent, wkLsa, wkCodes], ∃ w ∈ d.weavePeriodic.weave.out, w.kind = kind ∧ w.dest = 0xFF := by
  generalize hr : d.weavePeriodic = r
  unfold Dev.weavePeriodic at hr
  extract_lets ident lsa assigner as src made assigned at hr
  rw [if_neg (by rw [hfull]; decide)] at hr
  obtain ⟨hkept, hident⟩ : d.OutKept ident ∧ ∃ w ∈ ident.weave.out, w.kind = wkIdent ∧ w.dest = 0xFF := Dev.weavePut_posts hstake _ _ _
  clear_value ident
  obtain ⟨hkept', hlsa⟩ : ident.OutKept lsa ∧ ∃ w ∈ lsa.weave.out, w.kind = wkLsa ∧ w.dest = 0xFF := Dev.weavePut_posts (by rw [hkept.1]; exact hstake) _ _ _
  clear_value lsa
  have hassigned : lsa.OutKept assigned := by
    have hmade : lsa.OutKept made := ⟨rfl, fun w hw => hw⟩
    clear_value made
    show lsa.OutKept (if assigner then (if as = [] then made else (made.weavePut wkAssign 0xFF (assignBytes as)).takeAssign as) else lsa)
    split
    · split
      · exact hmade
      · exact hmade.trans ((made.weavePut_sends _ _ _ _).outKept.trans (Dev.takeAssign_outKept _ _))
    · exact ⟨rfl, fun w hw => hw⟩
  clear_value assigned
  obtain ⟨hkept'', hcodes⟩ := Dev.weavePut_posts (d := assigned) (by rw [hassigned.1, hkept'.1, hkept.1]; exact hstake) wkCodes 0xFF assigned.codeBytes
  have hend : (assigned.weavePut wkCodes 0xFF assigned.codeBytes).OutKept r := by
    rw [← hr]
    exact (Dev.WeaveSends.foldl (fun x s => x.weavePut_sends _ _ _ _) _ _).outKept
  have hlast := hassigned.trans (hkept''.trans hend)
  have hthen {kind : Nat} {a : Dev} (h : a.OutKept r) (hw : ∃ w ∈ a.weave.out, w.kind = kind ∧ w.dest = 0xFF) : ∃ w ∈ r.weave.out, w.kind = kind ∧ w.dest = 0xFF := by
    obtain ⟨w, hw, hs⟩ := hw
    exact ⟨w, h.2 w hw, hs⟩
  refine ⟨hkept.trans (hkept'.trans hlast), fun kind hkind => ?_⟩
  fin_cases hkind
  · exact hthen (hkept'.trans hlast) hident
  · exact hthen hlast hlsa
  · exact hthen hend hcodes

/-! ## The partner -/

/-- The holding set for the next beat (R368) leaves the state of the pair. -/
theorem Dev.setToken_sets (d : Dev) (v : Bool) :
    (d.setToken v).tokenNext = v ∧ Dev.Spares Par.weavePairState d (d.setToken v) ∧ d.KeepsFlags (d.setToken v) := by
  unfold Dev.setToken
  split
  · next h => exact ⟨h, .refl d, .refl d⟩
  · extract_lets counted
    have htoken : counted.get Par.weaveToken 0 = b2n v := by
      rw [Dev.get_inc_apart _ _ _ _ _ rfl, Dev.get_put_same]
      cases v <;> rfl
    have hspares : Dev.Spares Par.weavePairState d counted := .put (.put (.refl d) rfl) rfl
    have hkeeps : d.KeepsFlags counted := .put (.put (.refl d) rfl) rfl
    clear_value counted
    have hraised := counted.raise_frame (if v then evTokenTaken else evTokenReleased) oWeave 0 false
    refine ⟨?_, hspares.trans (.frame (.refl counted) hraised rfl rfl), hkeeps.trans (counted.raise_keepsFlags _ _ _ _)⟩
    rw [Dev.tokenNext, Dev.isOn, hraised.get _ _ rfl rfl, htoken]
    cases v <;> rfl

/-- 1 s without a direct link UP, or with declarations that disagree (R367): the pair is CONFIG, and this stake holds the token. -/
theorem Dev.duplexTimeout_configures {d : Dev} {me : Nat} (hfull : d.full = true) (hstake : d.weave.stake = some me) (hpartner : d.partnerNo < 64)
    (hstate : d.get Par.weavePairState 0 ≠ paConfig) (hwhy : d.get Par.stakePartner d.partnerNo ≠ me ∨ d.partnerNo ∉ d.neighbours) :
    d.duplexTimeout.get Par.weavePairState 0 = paConfig ∧ d.duplexTimeout.tokenNext = true ∧ d.duplexTimeout.isOn Par.evtFlag evDuplexConfig = true := by
  have hno : d.stakeNo = me := by rw [Dev.stakeNo, hstake]; rfl
  have hgo : ¬ (d.get Par.stakePartner d.partnerNo == d.stakeNo && d.neighbours.contains d.partnerNo) = true := by
    rw [hno]
    rcases hwhy with h | h <;> simp [h]
  unfold Dev.duplexTimeout
  extract_lets s agree direct
  rw [if_neg (by simp [hfull, hstake, hstate, s, hpartner]), if_neg hgo]
  have hput : (d.put Par.weavePairState 0 paConfig).get Par.weavePairState 0 = paConfig := Dev.get_put_same _ _ _ _
  have hagree : d.Agree [0x80] [] (d.put Par.weavePairState 0 paConfig) := .put rfl rfl .refl
  have hup : (d.put Par.weavePairState 0 paConfig).evtUp = true := by
    rw [Dev.evtUp_of_agree hagree rfl]
    exact Dev.evtUp_of_run (Dev.run_of_full hfull)
  generalize d.put Par.weavePairState 0 paConfig = put at *
  have hraised := put.raise_frame evDuplexConfig oWeave 0 false
  have hflag : (put.raise evDuplexConfig oWeave).isOn Par.evtFlag evDuplexConfig = true := Dev.isOn_raise _ _ _ _ hup
  generalize put.raise evDuplexConfig oWeave = raised at *
  obtain ⟨htoken, hspares, hkeeps⟩ := raised.setToken_sets true
  exact ⟨by rw [hspares.get, hraised.get _ _ rfl rfl, hput], htoken, hkeeps _ hflag⟩

/-- The partner becomes absent (R370): it is counted, this stake holds the token, and a pass under way is given up. -/
theorem Dev.partnerLost_absent {d : Dev} (hstake : d.weave.stake.isSome = true) (hpartner : d.partnerNo < 64) (hstate : d.get Par.weavePairState 0 ≠ paAbsent) :
    d.partnerLost.get Par.weavePairState 0 = paAbsent ∧ d.partnerLost.tokenNext = true ∧ d.partnerLost.get Par.stakePresent d.partnerNo = 0
      ∧ d.partnerLost.get Par.stakeAbsences d.partnerNo = (d.get Par.stakeAbsences d.partnerNo + 1) % 2 ^ 32
      ∧ d.partnerLost.weave.tokPlan = none ∧ d.partnerLost.weave.passing = false := by
  generalize hr : d.partnerLost = r
  unfold Dev.partnerLost at hr
  extract_lets s config absent src given counted raised at hr
  have hnone : d.weave.stake.isNone = false := by rw [← Option.not_isSome, hstake]; rfl
  rw [if_neg (by simp [s, hnone, hstate, hpartner])] at hr
  have habsent : absent.get Par.weavePairState 0 = paAbsent := Dev.get_put_same _ _ _ _
  have habsences : absent.get Par.stakeAbsences s = d.get Par.stakeAbsences s := Dev.get_put_apart _ _ _ _ rfl
  have hgiven : absent.Agree [] [.weave] given := .upd_weave rfl .refl
  have hplan : given.weave.tokPlan = none ∧ given.weave.passing = false := ⟨rfl, rfl⟩
  clear_value absent given
  have hcounted : counted.get Par.stakePresent s = 0 ∧ counted.get Par.stakeAbsences s = (d.get Par.stakeAbsences s + 1) % 2 ^ 32
      ∧ counted.get Par.weavePairState 0 = paAbsent ∧ counted.weave = given.weave := by
    refine ⟨?_, ?_, ?_, ?_⟩
    · rw [Dev.get_inc_apart _ _ _ _ _ rfl, Dev.get_put_same]
      rfl
    · rw [Dev.get_inc_same _ _ _ _ (by decide), Dev.get_put_apart _ _ _ _ rfl, hgiven.get _ _ rfl rfl, habsences]
    · rw [Dev.get_inc_apart _ _ _ _ _ rfl, Dev.get_put_apart _ _ _ _ rfl, hgiven.get _ _ rfl rfl, habsent]
    · rw [Dev.inc_weave, Dev.put_weave]
  clear_value counted
  obtain ⟨hpresent, hcount, hpair, hweave⟩ := hcounted
  have hraised : counted.Agree [0xC0] [.evt] raised := counted.raise_frame evStakeAbsent (oStake s) 0 false
  clear_value raised
  obtain ⟨htoken, hkept⟩ : r.tokenNext = true ∧ Dev.Spares Par.weavePairState raised r := by
    rw [← hr]
    split
    · next h => exact ⟨((Bool.and_eq_true _ _).mp h).2, .refl raised⟩
    · exact ⟨(raised.setToken_sets true).1, (raised.setToken_sets true).2.1⟩
  have hend : raised.Agree [0x80, 0xC0] [.evt] r := by
    rw [← hr]
    exact .ite (fun _ => .refl) (fun _ => raised.setToken_frame true)
  have hout : r.weave = given.weave := (hend.2 .weave rfl).trans ((hraised.2 .weave rfl).trans hweave)
  rw [hkept.get, hraised.get _ _ rfl rfl, hend.get _ _ rfl rfl, hraised.get _ _ rfl rfl, hend.get _ _ rfl rfl, hraised.get _ _ rfl rfl, hout]
  exact ⟨hpair, htoken, hpresent, hcount, hplan⟩

end Sys2Proof.Machine

open Sys2Proof Sys2Proof.Machine

/-- Settles O32: a message that the device hears acts at its receipt, and what each of the timers sets stays at the end of the command. -/
theorem weaveServices : Obligations.WeaveServices := by
  unfold Obligations.WeaveServices
  refine ⟨⟨fun h trig ts cause stake s hhears htrig hweave hstate => ?_, fun h trig arm beat s hhears htrig hweave => ?_⟩,
    fun h session tag s hhears hhalt hnew hfree => ?_, fun t me s hfull hstake => ?_, fun t me s hfull hstake hpartner hstate hwhy => ?_,
    fun t me s hfull hstake hpartner hmiss hstate => ?_⟩
  · refine .of_does rfl fun e he => ?_
    rw [Dev.wrx_acts (d := s.dev.atTime h.t) hhears] at he
    have hgo : (s.dev.atTime h.t).takeFire trig.toNat ts.toNat stake.toNat = (s.dev.atTime h.t).fireTrig trig.toNat ts.toNat fcWeave stake.toNat :=
      if_pos ⟨htrig, hweave⟩
    obtain ⟨hheld, hfires, htime, hcause, hlast, -⟩ := Dev.fireTrig_fires (d := s.dev.atTime h.t) (n := trig.toNat) hstate ts.toNat fcWeave stake.toNat
    rw [hgo.symm.trans he] at hheld hfires htime hcause hlast
    obtain ⟨-, gstate, gfires, gtime, gcause, glast⟩ := Dev.settle_held hheld (s.dev.atTime h.t)
    rw [gstate, gfires, gtime, gcause, glast]
    exact ⟨hheld, hfires, htime.trans (Nat.mod_eq_of_lt ts.isLt), hcause, hlast.trans (Nat.mod_eq_of_lt stake.isLt)⟩
  · refine .of_does rfl fun e he => ?_
    rw [Dev.wrx_acts (d := s.dev.atTime h.t) hhears] at he
    have hgo := if_pos (⟨htrig, hweave⟩ : trig.toNat < 16 ∧ (s.dev.atTime h.t).isOn Par.trigWeave trig.toNat = true) |>.symm.trans he
    obtain ⟨hnext, hhere⟩ := e.settle_armKept (n := trig.toNat) (s.dev.atTime h.t)
    rw [hnext, hhere, ← hgo, Dev.trig_setTrig_same]
    exact ⟨rfl, rfl⟩
  · refine .of_does rfl fun e he => ?_
    obtain ⟨k, hk, hpair, hsession⟩ := Dev.weaveSession_opens (d := s.dev.atTime h.t) h.port.val hnew hfree
    have hrequest : (s.dev.atTime h.t).mgmt h (.request session tag false .opn) = ((s.dev.atTime h.t).sessionOpen (16 + k)
        { link := 3 + h.port.val, origin := some (h.src.toNat, session.toNat) }).weaveRequest (16 + k) tag.toNat false .opn := by
      unfold Dev.mgmt
      rw [Dev.wrx_acts (d := s.dev.atTime h.t) hhears]
      extract_lets stake
      rw [if_neg (by rw [show (s.dev.atTime h.t).pairHalted 1 = false from hhalt]; decide)]
      dsimp only
      rw [hsession]
    obtain ⟨hopen, horigin⟩ := (s.dev.atTime h.t).weaveRequest_open (k := 16 + k) (by omega)
      (x := { link := 3 + h.port.val, origin := some (h.src.toNat, session.toNat) }) rfl tag.toNat
    rw [hrequest.symm.trans he] at hopen horigin
    have hclosed : s.dev.sess (16 + k) = {} := eq_of_beq hpair
    refine ⟨16 + k, by omega, by omega, ?_, ?_, by rw [hclosed]⟩
    · rw [Dev.sess_of_host (Dev.settle_host _ _)]
      exact hopen
    · rw [Dev.sess_of_host (Dev.settle_host _ _)]
      exact horigin
  · refine .of_does rfl fun e he => ?_
    obtain ⟨hkept, hsent⟩ := Dev.weavePeriodic_sends (d := s.dev.atTime t) hfull (by rw [show (s.dev.atTime t).weave.stake = some me from hstake]; rfl)
    rw [he] at hkept hsent
    have hsettle := e.settle_sends (s.dev.atTime t)
    have hthen (kind : Nat) (hkind : kind ∈ [wkIdent, wkLsa, wkCodes]) : ∃ w ∈ (e.settle (s.dev.atTime t)).weave.out, w.kind = kind ∧ w.dest = 0xFF := by
      obtain ⟨w, hw, hs⟩ := hsent kind hkind
      exact ⟨w, hsettle.mem_out hw, hs⟩
    exact ⟨hthen _ (by decide), hthen _ (by decide), hthen _ (by decide), fun w hw => hsettle.mem_out (hkept.2 w hw)⟩
  · refine .of_does rfl fun e he => ?_
    have hconfig := Dev.duplexTimeout_configures (d := s.dev.atTime t) hfull hstake hpartner hstate hwhy
    rw [he] at hconfig
    obtain ⟨hpair, htoken, hflag⟩ := hconfig
    rw [Dev.tokenNext, Dev.isOn, Dev.settle_get _ _ _ rfl, Dev.settle_get _ _ _ rfl]
    exact ⟨hpair, htoken, e.settle_keepsFlags _ _ hflag⟩
  · refine .of_does rfl fun e he => ?_
    have hgo : (s.dev.atTime t).partnerAbsent = (s.dev.atTime t).partnerLost := if_pos ⟨hfull, hmiss⟩
    have habsent := Dev.partnerLost_absent (d := s.dev.atTime t) (by rw [show (s.dev.atTime t).weave.stake = some me from hstake]; rfl) hpartner hstate
    rw [hgo.symm.trans he] at habsent
    obtain ⟨hpair, htoken, hpresent, hcount, hplan, hpass⟩ := habsent
    have hsettle := e.settle_sends (s.dev.atTime t)
    have hplan' := congrArg WeaveSt.tokPlan hsettle.rest
    have hpass' := congrArg WeaveSt.passing hsettle.rest
    rw [Dev.tokenNext, Dev.isOn, Dev.settle_get _ _ _ rfl, Dev.settle_get _ _ _ rfl, Dev.settle_get _ _ _ rfl, Dev.settle_get _ _ _ rfl]
    exact ⟨hpair, htoken, hpresent, hcount, hplan'.trans hplan, hpass'.trans hpass⟩

end

section
/-! PROOF. The validation of the curve store clears the reserved bits of its headers (R11, R65), in the shadow. -/

namespace Sys2Proof.Machine

/-- A device in RUN with every clock whose curve store is under validation: curve 0, at entry 64, has the points (0, 0) and (1, 0), and the two
reserved bits of the second byte of its header are 1. -/
def headReserved : Dev :=
  { phase := .run, sup := { unlocked := 0 }, commits := [{ mask := 1, session := 0, tag := 0 }],
    tsets := [(0, { state := 1, committed := true, shadow := [(0, 64), (512, 2), (513, 0xC0), (530, 0x80), (531, 0x3F)] })] }

/-- The commit has no fault. -/
theorem headReserved_valid : (setsOf 1).findSome? (fun k => minOf (headReserved.setFaults k)) = none := by decide +kernel

/-- Its validation clears the reserved bits. -/
theorem headReserved_cleared : ((headReserved.atTime 0).validated.tset 0).shadow.get (imgDefault 0) 513 ≠ (headReserved.tset 0).shadow.get (imgDefault 0) 513 := by
  decide +kernel

end Sys2Proof.Machine

open Sys2Proof Sys2Proof.Machine

/-- Refutes O35: COMMIT_VALIDATION_DONE of a curve store without a fault clears the reserved bits of its headers, so the shadow it digests is not the
shadow it found. -/
theorem not_tableSetsAndGrid : ¬ Obligations.TableSetsAndGrid := by
  unfold Obligations.TableSetsAndGrid
  intro h
  obtain ⟨⟨-, -, -, -, hvalid⟩, -⟩ := h
  obtain ⟨e, hexec, -, -, -, hkept⟩ := hvalid 0 { mask := 1, session := 0, tag := 0 } ⟨headReserved, []⟩ rfl rfl rfl headReserved_valid rfl
  have hdev : e.dev = ((headReserved.atTime 0).validated).settle (headReserved.atTime 0) := by
    cases hexec
    rfl
  have hshadow := (hkept 0 (by decide)).2
  rw [hdev, Dev.tset, Dev.settle_tsets, ← Dev.tset] at hshadow
  exact headReserved_cleared (congrArg (fun t => t.get (imgDefault 0) 513) hshadow)

end

section
/-! PROOF. A boundary and the end of a wake (R35, R413, R444): what a boundary does to the phase, the power mode and the memory found. -/

namespace Sys2Proof.Machine

/-- From `d` to `e` the phase and the memory found stay, a wake goes on, and a device in RUN or PARKING is still in one of the two. -/
structure Dev.PowerKept (d e : Dev) : Prop where
  phase : e.phase = d.phase
  memory : e.sup.ddrMiB = d.sup.ddrMiB
  waking : d.pmode = pmWaking → e.pmode = pmWaking
  powered : (d.pmode = pmRun ∨ d.pmode = pmParking) → (e.pmode = pmRun ∨ e.pmode = pmParking)

theorem Dev.PowerKept.refl (d : Dev) : d.PowerKept d := ⟨rfl, rfl, id, id⟩

theorem Dev.PowerKept.trans {a b c : Dev} (h : a.PowerKept b) (g : b.PowerKept c) : a.PowerKept c :=
  ⟨g.phase.trans h.phase, g.memory.trans h.memory, fun w => g.waking (h.waking w), fun p => g.powered (h.powered p)⟩

theorem Dev.full_iff {d : Dev} : d.full = true ↔ d.phase = .run ∧ (d.pmode = pmRun ∨ d.pmode = pmParking) := by
  rw [Dev.full, Dev.up, Bool.and_eq_true, Bool.or_eq_true, beq_iff_eq, beq_iff_eq, beq_iff_eq]

theorem Dev.PowerKept.full {d e : Dev} (h : d.PowerKept e) (hd : d.full = true) : e.full = true := by
  obtain ⟨hphase, hmode⟩ := Dev.full_iff.mp hd
  exact Dev.full_iff.mpr ⟨h.phase.trans hphase, h.powered hmode⟩

theorem Dev.PowerKept.of_mode {d e : Dev} (hphase : e.phase = d.phase) (hmemory : e.sup.ddrMiB = d.sup.ddrMiB) (hmode : e.pmode = d.pmode) : d.PowerKept e :=
  ⟨hphase, hmemory, hmode.trans, by rw [hmode]; exact id⟩

/-- A frame that names neither the class of PWR.0 nor the phase nor the clocks. -/
def leavesPower (cs : List Nat) (fs : List Fld) : Bool := !cs.contains 0xB0 && !fs.contains .phase && !fs.contains .sup

theorem Dev.Agree.powerKept {cs : List Nat} {fs : List Fld} {d e : Dev} (h : d.Agree cs fs e) (hl : leavesPower cs fs = true) : d.PowerKept e := by
  simp only [leavesPower, Bool.and_eq_true, Bool.not_eq_true'] at hl
  obtain ⟨⟨hmode, hphase⟩, hsup⟩ := hl
  exact .of_mode (h.2 .phase hphase) (by rw [h.2 .sup hsup]) (h.get Par.pwrMode 0 rfl hmode)

theorem Dev.PowerKept.ite {a x y : Dev} {c : Prop} [Decidable c] (h : a.PowerKept x) (g : a.PowerKept y) : a.PowerKept (if c then x else y) := by
  split
  · exact h
  · exact g

theorem Dev.PowerKept.foldl {α : Type} {f : Dev → α → Dev} (hf : ∀ (d : Dev) x, d.PowerKept (f d x)) (xs : List α) (d : Dev) : d.PowerKept (xs.foldl f d) :=
  List.foldlRecOn xs f (motive := d.PowerKept) (.refl d) (fun e h x _ => h.trans (hf e x))

/-- Storing a parameter other than the power mode. -/
theorem Dev.setRaw_powerKept (d : Dev) {p : Par} (i : Nat) (v : W64) (h : Par.apart Par.pwrMode p = true) : d.PowerKept (d.setRaw p i v) :=
  .of_mode (Dev.setRaw_phase _ _ _ _) (by rw [Dev.setRaw_sup]) (by rw [Dev.pmode, Dev.get, Dev.raw_setRaw_apart _ _ _ _ h]; rfl)

theorem Dev.put_powerKept (d : Dev) {p : Par} (i v : Nat) (h : Par.apart Par.pwrMode p = true) : d.PowerKept (d.put p i v) := d.setRaw_powerKept i _ h

/-- A wake cause takes PARKED to WAKING and no other power mode anywhere (R444, R445). -/
theorem Dev.wake_powerKept (d : Dev) (c : Nat) : d.PowerKept (d.wake c) := by
  unfold Dev.wake
  split
  · exact .refl d
  split
  · next hparked =>
    have hraised := (((d.put Par.pwrMode 0 pmWaking).put Par.pwrWakeCause 0 c).raise_frame evPwrWake oPwr 0 false).powerKept (by decide)
    have hnone : ¬ (d.pmode = pmRun ∨ d.pmode = pmParking) := by rw [hparked]; decide
    have hwaking : ¬ d.pmode = pmWaking := by rw [hparked]; decide
    refine ⟨?_, ?_, fun h => absurd h hwaking, fun h => absurd h hnone⟩
    · rw [hraised.phase, Dev.put_phase, Dev.put_phase]
    · rw [hraised.memory, Dev.put_sup, Dev.put_sup]
  · split
    · exact .of_mode rfl rfl rfl
    · exact .refl d

/-! ## Writes -/

/-- A rule of single parameters keeps the power where it answers. -/
def Dev.PowerKeptO (d : Dev) (o : Option (Nat × Dev)) : Prop := ∀ r ∈ o, d.PowerKept r.2

theorem Dev.AgreeO.powerKeptO {cs : List Nat} {fs : List Fld} {d : Dev} {o : Option (Nat × Dev)} (h : d.AgreeO cs fs o) (hl : leavesPower cs fs = true) :
    d.PowerKeptO o := by
  rintro r rfl
  exact Dev.Agree.powerKept h hl

theorem Dev.PowerKeptO.ite {d : Dev} {x y : Option (Nat × Dev)} {c : Prop} [Decidable c] (h : c → d.PowerKeptO x) (g : ¬c → d.PowerKeptO y) :
    d.PowerKeptO (if c then x else y) := by
  split
  · exact h ‹_›
  · exact g ‹_›

theorem Dev.PowerKeptO.did {d e : Dev} (h : d.PowerKept e) : d.PowerKeptO (did e) := by
  rintro r ⟨⟩
  exact h

theorem Dev.PowerKeptO.no (d : Dev) (st : Nat) : d.PowerKeptO (no d st) := by
  rintro r ⟨⟩
  exact .refl d

theorem Dev.PowerKeptO.none (d : Dev) : d.PowerKeptO none := by
  rintro r ⟨⟩

theorem Dev.wImage_powerKeptO (d : Dev) (p : Par) (i v : Nat) : d.PowerKeptO (d.wImage p i v) := by
  unfold Dev.wImage
  refine .ite (fun hp => .did ?_) fun _ => .ite (fun _ => .none d) fun _ => .ite (fun _ => .no d _) fun _ => .ite (fun _ => .no d _) fun _ =>
    .ite (fun _ => .no d _) fun _ => .did ((d.imgParWrite_frame p i v).powerKept (by decide))
  subst hp
  exact .ite (d.put_powerKept i 0 rfl) (.refl d)

/-- PWR.0 and UPD.0: requests wait for the boundary, and a host's wake is a wake (R441, R444, R446). -/
theorem Dev.wPwr_powerKeptO (d : Dev) (p : Par) (v : Nat) : d.PowerKeptO (d.wPwr p v) := by
  have hpwr (x : PwrSt) : d.PowerKept { d with pwr := x } := .of_mode rfl rfl rfl
  have hlid (x : LidSt) : d.PowerKept { d with lid := x } := .of_mode rfl rfl rfl
  unfold Dev.wPwr
  extract_lets pm
  refine .ite (fun _ => .did (.ite (hlid _) (.refl d))) fun _ => .ite (fun _ => ?_) fun _ => .ite (fun _ => ?_) fun _ => .none d
  · refine .ite (fun _ => .did (d.wake_powerKept _)) fun _ => .ite (fun _ => ?_) fun _ => .ite (fun _ => ?_) fun _ => .did (.refl d)
    · exact .ite (fun _ => .no d _) fun _ => .ite (fun _ => .no d _) fun _ => .did (.ite (hpwr _) (.refl d))
    · exact .ite (fun _ => .no d _) fun _ => .did (hpwr _)
  · exact .ite (fun _ => .did (.refl d)) fun _ => .ite (fun _ => .did (hpwr _)) fun _ => .no d _

theorem Dev.wRule_powerKeptO (d : Dev) (session tag ts : Nat) {p : Par} (i : Nat) (v : W64) (hp : p.small = true) :
    d.PowerKeptO (d.wRule session tag ts p i v) := by
  have group : ∀ {c : Nat} {cs : List Nat}, p.cls = c → c ≠ 2 → cs.contains c = true → cs.contains p.group = true := fun h hc hm => by
    rw [Par.group_of_cls h hc]
    exact hm
  unfold Dev.wRule
  extract_lets n
  refine .ite (fun _ => (d.wDev_frame _ _ _ _ _).powerKeptO (by decide)) fun _ => .ite (fun _ => d.wImage_powerKeptO _ _ _) fun _ => ?_
  refine .ite (fun h => (d.wSpoke_frame _ _ _ hp (group h (by decide) (by decide))).powerKeptO (by decide)) fun _ => ?_
  refine .ite (fun h => (d.wCell_frame _ _ _ hp (group h (by decide) (by decide))).powerKeptO (by decide)) fun _ => ?_
  refine .ite (fun h => (d.wArm_frame _ _ _ hp (group h (by decide) (by decide))).powerKeptO (by decide)) fun _ => ?_
  refine .ite (fun _ => .ite (fun _ => d.wImage_powerKeptO _ _ _) fun _ => (d.wCtx_frame _ _ _).powerKeptO (by decide)) fun _ => ?_
  refine .ite (fun h => (d.wGrid_frame _ _ _ hp (group h (by decide) (by decide))).powerKeptO (by decide)) fun _ => ?_
  refine .ite (fun h => (d.wIsld_frame _ _ _ _ hp (group h (by decide) (by decide))).powerKeptO (by decide)) fun _ => ?_
  refine .ite (fun h => (d.wPort_frame _ _ _ hp (group h (by decide) (by decide))).powerKeptO (by decide)) fun _ => ?_
  refine .ite (fun _ => (d.wLeg_frame _ _ _).powerKeptO (by decide)) fun _ => .ite (fun h => ?_) fun _ => ?_
  · refine (d.wAnalog_frame _ _ _ _ hp ?_).powerKeptO (by decide)
    obtain h | h | h := h <;> exact group h (by decide) (by decide)
  refine .ite (fun h => (d.wMetr_frame _ _ _ hp (group h (by decide) (by decide))).powerKeptO (by decide)) fun _ => ?_
  refine .ite (fun _ => (d.wCap_frame _ _ _ _).powerKeptO (by decide)) fun _ => .ite (fun _ => (d.wTrig_frame _ _ _).powerKeptO (by decide)) fun _ => ?_
  refine .ite (fun h => (d.wWeave_frame _ _ hp (group h (by decide) (by decide))).powerKeptO (by decide)) fun _ => ?_
  refine .ite (fun _ => (d.wLink_frame _ _ _).powerKeptO (by decide)) fun _ => .ite (fun _ => (d.wRing_frame _ _ _).powerKeptO (by decide)) fun _ => ?_
  refine .ite (fun _ => d.wPwr_powerKeptO _ _) fun _ => ?_
  refine .ite (fun h => (d.wHarv_frame _ _ hp (group h (by decide) (by decide))).powerKeptO (by decide)) fun _ => ?_
  exact .ite (fun _ => (d.wEvt_frame _ _ _ _).powerKeptO (by decide)) fun _ => .none d

/-- The power mode is read-only (Table 19.1). -/
theorem Dev.applyWrite_powerKept (d : Dev) (session tag ts obj idx : Nat) (v : W64) : d.PowerKept (d.applyWrite session tag ts obj idx v).2 := by
  unfold Dev.applyWrite
  extract_lets p i v
  split
  · exact .refl d
  next hrow =>
  have hsmall := (rowOf_ok hrow).1
  have hne : Par.pwrMode ≠ p := by
    intro h
    rw [← h] at hrow
    exact absurd (by decide) hrow
  cases hrule : d.wRule session tag ts p i v with
  | none => exact d.setRaw_powerKept i v (by simp [Par.apart, hne, hsmall]; rfl)
  | some r => exact d.wRule_powerKeptO session tag ts i v hsmall r hrule

theorem Dev.applyEntries_powerKept (d : Dev) (sel : RegWrite → Bool) (m : Msg) : d.PowerKept (d.applyEntries sel m).2 := by
  refine List.foldlRecOn m.work _ (motive := fun acc : List RegWrite × Dev => d.PowerKept acc.2) (.refl d) ?_
  rintro ⟨done, e⟩ he w -
  dsimp only
  split
  · split
    · exact he.trans ((e.burstReqWrite_frame _ _).powerKept (by decide))
    · exact he.trans (e.applyWrite_powerKept _ _ _ _ _ _)
  · exact he

theorem Dev.applyMsgs_powerKept (d : Dev) (sel : RegWrite → Bool) (bulk : Bool) (ms : List Msg) : d.PowerKept (d.applyMsgs sel bulk ms).2 := by
  refine List.foldlRecOn ms _ (motive := fun acc : List Msg × Dev => d.PowerKept acc.2) (.refl d) ?_
  rintro ⟨done, e⟩ he m -
  have hentries := he.trans (e.applyEntries_powerKept sel m)
  dsimp only
  split
  · exact hentries.trans ((Dev.applyBulk_frame _ _ _ _).powerKept (by decide))
  · exact hentries

theorem Dev.modeCommand_powerKept (d : Dev) (code : Nat) : d.PowerKept (d.modeCommand code) := by
  unfold Dev.modeCommand
  have hhost (x : HostSt) : d.PowerKept { d with host := x } := .of_mode rfl rfl rfl
  exact .ite ((hhost _).trans (Dev.wake_powerKept _ _)) (hhost _)

theorem Dev.applyWrites_powerKept (d : Dev) : d.PowerKept d.applyWrites := by
  unfold Dev.applyWrites
  extract_lets ms host taken judged kept applied gridded burst moded answered hostAfter parked
  have htaken : d.PowerKept taken := .of_mode rfl rfl rfl
  have happlied : taken.PowerKept applied.2 := taken.applyMsgs_powerKept _ true kept
  have hgridded : taken.PowerKept gridded.2 := happlied.trans ((applied.2.applyGrid_frame applied.1).powerKept (by decide))
  have hburst : d.PowerKept burst.2 := htaken.trans (hgridded.trans (gridded.2.applyMsgs_powerKept _ false gridded.1))
  clear_value burst
  have hmoded : burst.2.PowerKept moded := .foldl (fun x m => x.modeCommand_powerKept _) _ _
  have hanswered : moded.PowerKept answered := .foldl (fun x m => (x.answerMsg_frame m).powerKept (by decide)) _ _
  clear_value answered
  have hparked : answered.PowerKept parked := .of_mode rfl rfl rfl
  exact ((hburst.trans hmoded).trans hanswered).trans (hparked.trans (parked.sessionsFreed_frame.powerKept (by decide)))

/-! ## Firmware's part of a boundary -/

theorem Dev.timeLost_powerKept (d : Dev) : d.PowerKept d.timeLost := by
  unfold Dev.timeLost
  extract_lets own sup noted
  have hnoted : d.PowerKept noted := .of_mode rfl rfl rfl
  clear_value noted
  exact .ite (hnoted.trans ((noted.put_powerKept 0 _ rfl).trans ((Dev.raise_frame _ _ _ _ _).powerKept (by decide)))) hnoted

theorem Dev.timeBoundary_powerKept (d : Dev) : d.PowerKept d.timeBoundary := by
  unfold Dev.timeBoundary
  extract_lets roots root parent rank changed moved ranked raised st parentState timed errs
  have hranked : d.PowerKept ranked := ((d.put_powerKept 0 _ rfl).trans (Dev.put_powerKept _ 0 _ rfl)).trans (Dev.put_powerKept _ 0 _ rfl)
  have hraised : d.PowerKept raised := .ite (hranked.trans ((Dev.raise_frame _ _ _ _ _).powerKept (by decide))) hranked
  have hput : ∀ v, d.PowerKept (raised.put Par.beatTimeState 0 v) := fun v => hraised.trans (raised.put_powerKept 0 v rfl)
  have htimed : d.PowerKept timed := .ite (.ite (hput _) hraised) (.ite (.ite (hput _) hraised) (hraised.trans raised.timeLost_powerKept))
  exact htimed.trans (timed.put_powerKept 0 _ rfl)

/-- In PARKED and WAKING a transition that would act is a wake cause (R443). -/
theorem Dev.modePark_powerKept (d : Dev) (switched : Bool) : d.PowerKept (d.modePark switched) := by
  unfold Dev.modePark
  split
  · exact .refl d
  next s _ =>
  extract_lets shown lost would entered
  have hshown : d.PowerKept shown := .ite ((d.showState_frame s).powerKept (by decide)) (.refl d)
  clear_value shown
  refine .ite (hshown.trans (shown.modeServed_frame.powerKept (by decide))) ?_
  split
  · exact hshown.trans ((((shown.enterState_frame _ _).powerKept (by decide)).trans (Dev.wake_powerKept _ _)).trans ((Dev.modeDone_frame _).powerKept (by decide)))
  · have hentered : d.PowerKept entered :=
      .trans (.ite (hshown.trans ((shown.enterState_frame _ _).powerKept (by decide))) hshown) ((Dev.modeServed_frame _).powerKept (by decide))
    exact .ite (hentered.trans (entered.wake_powerKept _)) hentered

theorem Dev.modeBoundary_powerKept (d : Dev) (switched : Bool) : d.PowerKept (d.modeBoundary switched) := by
  unfold Dev.modeBoundary
  extract_lets old e
  have he : d.PowerKept e := .ite ((d.modeRun_frame switched).powerKept (by decide)) (d.modePark_powerKept switched)
  exact he.trans ((e.modeTold_frame _ _).powerKept (by decide))

/-- The entry to PARKED starts from RUN, with PARKING (R441). -/
theorem Dev.parkStart_powerKept (d : Dev) : d.PowerKept d.parkStart := by
  unfold Dev.parkStart
  extract_lets idle src parking src' src''
  split
  · exact .refl d
  next hrun =>
  refine .ite (.of_mode rfl rfl rfl) (.ite ?_ (.refl d))
  have hparking : parking.pmode = pmParking := Dev.get_put_same _ _ _ _
  have hphase : parking.phase = d.phase := Dev.put_phase _ _ _ _
  have hsup : parking.sup = d.sup := Dev.put_sup _ _ _ _
  clear_value parking
  have hend (p : PwrSt) (w : WeaveSt) : parking.PowerKept { parking with pwr := p, weave := w } := .of_mode rfl rfl rfl
  have hmode : d.pmode = pmRun := not_not.mp hrun
  have hstart : d.PowerKept parking := ⟨hphase, by rw [hsup], fun h => absurd (hmode.symm.trans h) (by decide), fun _ => .inr hparking⟩
  exact hstart.trans (hend _ _)

theorem Dev.beatFull_powerKept (d : Dev) (x : Samples) (switched : Bool) : d.PowerKept (d.beatFull x switched) := by
  unfold Dev.beatFull
  extract_lets timed armed isld moded recorded watched sent chopped synced
  have htimed : d.PowerKept timed := (((d.weaveBoundary_frame.powerKept (by decide)).trans ((Dev.codesFollow_frame _).powerKept (by decide))).trans
    (Dev.timeBoundary_powerKept _)).trans ((Dev.mismatchBoundary_frame _).powerKept (by decide))
  have harmed : timed.PowerKept armed := timed.armsBeat_frame.powerKept (by decide)
  have hisld : armed.PowerKept isld := .foldl (fun e g => (e.isldBoundary_frame g).powerKept (by decide)) _ _
  have hmoded : isld.PowerKept moded := ((isld.modeBoundary_powerKept switched).trans ((Dev.followMode_frame _).powerKept (by decide))).trans
    (Dev.parkStart_powerKept _)
  have hrecorded : moded.PowerKept recorded := (Dev.PowerKept.foldl (fun e n => (e.armTarget_frame n).powerKept (by decide)) _ _).trans
    (.foldl (fun e n => (e.rearm_frame n).powerKept (by decide)) _ _)
  have hwatched : recorded.PowerKept watched := .foldl (fun e w => (e.readbackBeat_frame w).powerKept (by decide)) _ _
  have hsent : watched.PowerKept sent := (((watched.sampleBeat_frame x).powerKept (by decide)).trans
    ((Dev.sendArmCur_frame _ _).powerKept (by decide))).trans ((Dev.sendTimes_frame _).powerKept (by decide))
  have hchopped : sent.PowerKept chopped := .foldl (fun e n => (e.chopperStep_frame n).powerKept (by decide)) _ _
  have hsynced : chopped.PowerKept synced := .foldl (fun e c => (e.ctxSync_frame c).powerKept (by decide)) _ _
  have hrun : synced.PowerKept synced.engineRun.signalsUsed :=
    (synced.engineRun_frame.powerKept (by decide)).trans ((Dev.signalsUsed_frame _).powerKept (by decide))
  exact htimed.trans (harmed.trans (hisld.trans (hmoded.trans (hrecorded.trans (hwatched.trans (hsent.trans (hchopped.trans (hsynced.trans hrun))))))))

theorem Dev.beatParked_powerKept (d : Dev) (switched : Bool) : d.PowerKept (d.beatParked switched) :=
  (d.timeBoundary_powerKept.trans (Dev.modeBoundary_powerKept _ _)).trans ((Dev.burstFlush_frame _).powerKept (by decide))

theorem Dev.settle_powerKept (d old : Dev) : d.PowerKept (d.settle old) := by
  have hscan : d.PowerKept (d.wakeScan old) := by
    unfold Dev.wakeScan
    extract_lets asleep rim grid
    exact .ite (.refl d) (.ite (d.wake_powerKept _) (.ite (d.wake_powerKept _) (.refl d)))
  have hserved : d.PowerKept (Dev.serveFresh ((d.wakeScan old).evt.fresh.length + 64) (d.wakeScan old)) :=
    hscan.trans ((Dev.serveFresh_frame _ _).powerKept (by decide))
  have hended (x : Dev) : x.PowerKept x.ended := by
    unfold Dev.ended
    extract_lets e
    have he : x.PowerKept e := .ite (x.put_powerKept 0 1 rfl) (.refl x)
    have hpins (y : Dev) (p : PinSt) : y.PowerKept (y.setPins p) := .of_mode rfl rfl rfl
    exact he.trans (hpins e _)
  rw [Dev.settle_eq]
  exact hserved.trans (hended _)

/-! ## The wake's end, and the close of a boundary -/

/-- Entry to RUN notes the memory found (R433). -/
theorem Dev.enterRun_notes (d : Dev) (ddr : Nat) : (d.enterRun ddr).phase = d.phase ∧ (d.enterRun ddr).sup.ddrMiB = ddr
    ∧ (d.pmode = pmRun → (d.enterRun ddr).pmode = pmRun ∨ (d.enterRun ddr).pmode = pmParking) := by
  generalize hr : d.enterRun ddr = r
  unfold Dev.enterRun at hr
  extract_lets sup weave noted rails shown staked calibrated at hr
  have hnoted : noted.phase = d.phase ∧ noted.sup.ddrMiB = ddr ∧ noted.pmode = d.pmode := ⟨rfl, rfl, rfl⟩
  clear_value noted
  have hshown : noted.PowerKept shown :=
    (noted.put_powerKept 0 _ rfl).trans (.of_mode (Dev.putBit_phase _ _ _ _ _) (by rw [Dev.putBit_sup]) (Dev.get_putBit_apart _ _ _ _ _ rfl))
  have hcalibrated : shown.PowerKept calibrated :=
    ((shown.setStake_frame _ _).powerKept (by decide)).trans (.foldl (fun x n => (x.adcCalStart_frame n).powerKept (by decide)) _ _)
  have hend : calibrated.PowerKept r := by
    rw [← hr]
    exact .foldl (fun x g => ((x.gridFreqInit_frame g).powerKept (by decide)).trans (Dev.put_powerKept _ g _ rfl)) _ _
  have hall := hshown.trans (hcalibrated.trans hend)
  obtain ⟨hphase, hmemory, hmode⟩ := hnoted
  exact ⟨hall.phase.trans hphase, hall.memory.trans hmemory, fun hrun => hall.powered (.inl (hmode.trans hrun))⟩

/-- The wake reaches RUN with the memory found (R444). -/
theorem Dev.wakeRun_reaches (d : Dev) (ddr : Nat) : (d.wakeRun ddr).phase = d.phase ∧ (d.wakeRun ddr).sup.ddrMiB = ddr
    ∧ ((d.wakeRun ddr).pmode = pmRun ∨ (d.wakeRun ddr).pmode = pmParking) := by
  generalize hr : d.wakeRun ddr = r
  unfold Dev.wakeRun at hr
  extract_lets was put entered src hosted at hr
  have hput : put.phase = d.phase ∧ put.pmode = pmRun := ⟨Dev.put_phase _ _ _ _, Dev.get_put_same _ _ _ _⟩
  clear_value put
  obtain ⟨hphase, hmemory, hmode⟩ := put.enterRun_notes ddr
  have hwins : (put.enterRun ddr).PowerKept entered := (Dev.winModes_frame _ _).powerKept (by decide)
  have hhosted : entered.PowerKept hosted := .of_mode rfl rfl rfl
  have hend : hosted.PowerKept r := by
    rw [← hr]
    exact .trans (.foldl (fun x n => (x.capResume_frame n).powerKept (by decide)) _ _) ((Dev.actionsRun_frame _).powerKept (by decide))
  have hall := hwins.trans (hhosted.trans hend)
  exact ⟨hall.phase.trans (hphase.trans hput.1), hall.memory.trans hmemory, hall.powered (hmode hput.2)⟩

/-- A warm reset keeps the beat (R435). -/
theorem Dev.warmReset_resets (d : Dev) (cause : Nat) :
    (d.warmReset cause).beatStart = d.beatStart ∧ (d.warmReset cause).phase = .warm ∧ (d.warmReset cause).pwr.cause = cause := by
  unfold Dev.warmReset
  extract_lets recorded cleared pwr
  have hrecorded : recorded.beatStart = d.beatStart := by
    have hagree : d.Agree [0x50] [.met] recorded := .ite (fun _ => d.metRecord_frame mcReset) (fun _ => .refl)
    exact hagree.2 .beatStart rfl
  clear_value recorded
  have hcleared : cleared.beatStart = recorded.beatStart ∧ cleared.phase = .warm := ⟨rfl, rfl⟩
  clear_value cleared
  exact ⟨hcleared.1.trans hrecorded, hcleared.2, rfl⟩

/-- The registers of the Lid are those attested in the beat (R413). -/
def Dev.Attested (d : Dev) : Prop := d.lid.tallySnap = d.lid.tally ∧ d.lid.countSnap = d.lid.counts

/-- The close of a boundary: a reset that waits for it, or the registers of the Lid as attested in the beat (R413, R435). -/
theorem Dev.beatClose_closes (d : Dev) : d.beatClose.beatStart = d.beatStart
    ∧ (d.beatClose.phase = .warm ∧ d.beatClose.pwr.cause = rsRequested ∨ d.PowerKept d.beatClose ∧ d.beatClose.Attested) := by
  unfold Dev.beatClose
  extract_lets lid snapped counted
  have hsnapped : snapped.Attested ∧ d.PowerKept snapped ∧ snapped.beatStart = d.beatStart := ⟨⟨rfl, rfl⟩, .of_mode rfl rfl rfl, rfl⟩
  clear_value snapped
  obtain ⟨hattested, hkept, hstart⟩ := hsnapped
  have hagree : snapped.Agree [0x01] [] counted := .inc rfl rfl .refl
  have hcounted : counted.beatStart = d.beatStart := (hagree.2 .beatStart rfl).trans hstart
  split
  · obtain ⟨hreset, hwarm⟩ := counted.warmReset_resets rsRequested
    exact ⟨hreset.trans hcounted, .inl hwarm⟩
  · refine ⟨hcounted, .inr ⟨hkept.trans (hagree.powerKept (by decide)), ?_⟩⟩
    rw [Dev.Attested, hagree.2 .lid rfl]
    exact hattested

/-! ## The boundary -/

theorem Dev.nextBeat_beatStart (d : Dev) (t : Nat) : (d.nextBeat t).beatStart = t := rfl

theorem Dev.nextBeat_powerKept (d : Dev) (t : Nat) : d.PowerKept (d.nextBeat t) := (d.nextBeat_frame t).powerKept (by decide)

/-- A boundary reached in time (R35): the new beat starts where the old one ended, in the phase of the old one unless a requested reset starts. With
firmware the registers of the Lid are attested, and a wake that ends here has reached RUN with the memory found. -/
theorem Dev.beat_joins {d : Dev} (x : Samples) (wake : Option Nat) (hclk : d.clkOk cdTb = true) (hnow : d.now ≤ d.beatStart + d.beatLen) :
    (d.beat x wake).beatStart = d.beatStart + d.beatLen
      ∧ ((d.beat x wake).phase = .warm ∧ (d.beat x wake).pwr.cause = rsRequested
        ∨ (d.beat x wake).phase = d.phase ∧ (d.phase = .run → (d.beat x wake).Attested
          ∧ ∀ ddr, wake = some ddr → d.pmode = pmWaking → (d.beat x wake).full = true ∧ (d.beat x wake).sup.ddrMiB = ddr)) := by
  generalize hr : d.beat x wake = r
  unfold Dev.beat at hr
  extract_lets anchored t ended started woken switched done at hr
  have hanchored : anchored = d := if_neg (Nat.not_lt.mpr hnow)
  clear_value anchored
  subst hanchored
  rw [if_neg (by rw [hclk]; decide)] at hr
  have hended : anchored.PowerKept ended :=
    .trans (.ite ((anchored.weaveEnd_frame.powerKept (by decide)).trans ((Dev.beatCount_frame _ _).powerKept (by decide))) (.refl anchored))
      (Dev.nextBeat_powerKept _ t)
  have hstart : ended.beatStart = t := Dev.nextBeat_beatStart _ t
  clear_value ended
  have hphase := hended.phase
  by_cases hrun : anchored.phase = .run
  · have hup : ended.up = true := by rw [Dev.up, hphase, hrun]; rfl
    rw [if_neg (by rw [hup]; decide)] at hr
    have hstarted : anchored.PowerKept started := hended.trans (ended.applyWrites_powerKept.trans (Dev.nextBeat_powerKept _ t))
    have hstart' : started.beatStart = t := Dev.nextBeat_beatStart _ t
    clear_value started
    have hwoken : woken.phase = .run ∧ woken.beatStart = t
        ∧ ∀ ddr, wake = some ddr → anchored.pmode = pmWaking → woken.sup.ddrMiB = ddr ∧ (woken.pmode = pmRun ∨ woken.pmode = pmParking) := by
      unfold woken
      cases wake with
      | none => exact ⟨hstarted.phase.trans hrun, hstart', nofun⟩
      | some ddr =>
        dsimp only
        split
        · obtain ⟨hphase, hmemory, hpowered⟩ := started.wakeRun_reaches ddr
          refine ⟨hphase.trans (hstarted.phase.trans hrun), ((started.wakeRun_frame ddr).2 .beatStart rfl).trans hstart', fun ddr' h _ => ?_⟩
          cases h
          exact ⟨hmemory, hpowered⟩
        · next hmode => exact ⟨hstarted.phase.trans hrun, hstart', fun _ _ h => absurd (hstarted.waking h) hmode⟩
    clear_value woken
    obtain ⟨hwphase, hwstart, hwake⟩ := hwoken
    have hswitched : woken.Agree _ _ switched.2 := woken.switchTables_frame
    clear_value switched
    have hdone : switched.2.PowerKept done ∧ done.beatStart = switched.2.beatStart := by
      show switched.2.PowerKept (if _ then _ else _) ∧ (if _ then _ else _ : Dev).beatStart = _
      split
      · exact ⟨switched.2.beatFull_powerKept x switched.1, (switched.2.beatFull_frame x switched.1).2 .beatStart rfl⟩
      · exact ⟨switched.2.beatParked_powerKept switched.1, (switched.2.beatParked_frame switched.1).2 .beatStart rfl⟩
    clear_value done
    have hkept : woken.PowerKept done := (hswitched.powerKept (by decide)).trans hdone.1
    obtain ⟨hclose, hcases⟩ := done.beatClose_closes
    rw [hr] at hclose hcases
    refine ⟨hclose.trans (hdone.2.trans ((hswitched.2 .beatStart rfl).trans hwstart)), hcases.imp id fun ⟨hclosed, hattested⟩ => ?_⟩
    have hend := hkept.trans hclosed
    have hrphase : r.phase = .run := hend.phase.trans hwphase
    refine ⟨hrphase.trans hrun.symm, fun _ => ⟨hattested, fun ddr hddr hmode => ?_⟩⟩
    obtain ⟨hmemory, hpowered⟩ := hwake ddr hddr hmode
    exact ⟨Dev.full_iff.mpr ⟨hrphase, hend.powered hpowered⟩, hend.memory.trans hmemory⟩
  · have hup : ended.up = false := by
      rw [Dev.up, hphase]
      exact beq_eq_false_iff_ne.mpr hrun
    rw [if_pos (by rw [hup]; rfl)] at hr
    rw [← hr]
    exact ⟨hstart, .inr ⟨hphase, fun h => absurd h hrun⟩⟩

end Sys2Proof.Machine

open Sys2Proof Sys2Proof.Machine

/-- Settles O34: the boundary itself joins the beats, and what follows a command moves neither the beat, the phase, the Lid nor the power mode. -/
theorem beatBoundaries : Obligations.BeatBoundaries := by
  unfold Obligations.BeatBoundaries
  refine ⟨fun x s hclk hnow => .of_does rfl fun e he => ?_, fun x s hclk => .of_does rfl fun e he => ?_,
    fun x ddr s hrun hmode hclk hnow => .of_does rfl fun e he => ?_⟩
  · obtain ⟨hstart, hcases⟩ := Dev.beat_joins (d := s.dev.atTime s.dev.beatLen) x none hclk (Dev.instant_beatLen_le hnow)
    rw [he] at hstart hcases
    obtain ⟨w, hpwr⟩ := e.settle_pwr (s.dev.atTime s.dev.beatLen)
    rw [Dev.settle_beatStart, Dev.settle_phase, Dev.settle_lid, hpwr]
    refine ⟨hstart, hcases.symm.imp And.left id, fun hrun hstill => ?_⟩
    rcases hcases with ⟨hwarm, -⟩ | ⟨-, hlid⟩
    · exact absurd (hwarm.symm.trans hstill) (by decide)
    · exact (hlid hrun).1
  · have hstill : (s.dev.atTime s.dev.beatLen).beat x none = s.dev.atTime s.dev.beatLen := if_pos (by rw [show (s.dev.atTime s.dev.beatLen).clkOk cdTb = false from hclk]; rfl)
    rw [hstill] at he
    subst he
    rw [Dev.settle_beatStart, Dev.settle_phase, Dev.settle_host, Dev.settle_mode, Dev.settle_legs, Dev.beatNo, Dev.settle_get _ _ _ rfl]
    exact ⟨rfl, rfl, rfl, rfl, rfl, rfl⟩
  · have hgo : (s.dev.atTime s.dev.beatLen).beat x (some ddr.val) = e := (if_pos ⟨Dev.up_of_run (d := s.dev.atTime s.dev.beatLen) hrun, hmode⟩).symm.trans he
    obtain ⟨hstart, hcases⟩ := Dev.beat_joins (d := s.dev.atTime s.dev.beatLen) x (some ddr.val) hclk (Dev.instant_beatLen_le hnow)
    rw [hgo] at hstart hcases
    have hkept := e.settle_powerKept (s.dev.atTime s.dev.beatLen)
    rw [Dev.settle_beatStart, Dev.settle_phase]
    refine ⟨hstart, hcases.imp And.left fun hrest => ?_⟩
    obtain ⟨-, hwoken⟩ := hrest
    obtain ⟨hfull, hmemory⟩ := (hwoken hrun).2 ddr.val rfl hmode
    exact ⟨hkept.full hfull, hkept.memory.trans hmemory⟩

end

section
/-! PROOF. The end of the compute window (R37, R251, R354): what the engine leaves of the weft ports, the latch of every leg, the BEAT_PKTs. -/

namespace Sys2Proof.Machine

/-! ## The weft ports through the engine's work -/

/-- From `d` to `e` the device keeps its number and its weft ports stay as they are. -/
def Dev.WeftKept (d e : Dev) : Prop := e.weave.stake = d.weave.stake ∧ e.weave.ports = d.weave.ports

theorem Dev.WeftKept.refl (d : Dev) : d.WeftKept d := ⟨rfl, rfl⟩

theorem Dev.WeftKept.trans {a b c : Dev} (h : a.WeftKept b) (g : b.WeftKept c) : a.WeftKept c := ⟨g.1.trans h.1, g.2.trans h.2⟩

theorem Dev.WeftKept.of_weave {d e : Dev} (h : e.weave = d.weave) : d.WeftKept e := ⟨by rw [h], by rw [h]⟩

theorem Dev.WeftKept.of_agree {cs : List Nat} {fs : List Fld} {d e : Dev} (h : d.Agree cs fs e) (hf : fs.contains .weave = false) : d.WeftKept e :=
  .of_weave (h.2 .weave hf)

theorem Dev.WeaveSends.weftKept {d e : Dev} (h : d.WeaveSends e) : d.WeftKept e := by
  have hstake := congrArg WeaveSt.stake h.rest
  have hports := congrArg WeaveSt.ports h.rest
  exact ⟨hstake, hports⟩

theorem Dev.WeftKept.ite {a x y : Dev} {c : Prop} [Decidable c] (h : a.WeftKept x) (g : a.WeftKept y) : a.WeftKept (if c then x else y) := by
  split
  · exact h
  · exact g

theorem Dev.WeftKept.foldl {α : Type} {f : Dev → α → Dev} (hf : ∀ (d : Dev) x, d.WeftKept (f d x)) (xs : List α) (d : Dev) : d.WeftKept (xs.foldl f d) :=
  List.foldlRecOn xs f (motive := d.WeftKept) (.refl d) (fun e h x _ => h.trans (hf e x))

theorem Dev.WeftKept.wport {d e : Dev} (h : d.WeftKept e) (p : Nat) : e.wport p = d.wport p := by rw [Dev.wport, h.2, Dev.wport]

theorem Dev.writeDest_weftKept (d : Dev) (s : OutSlot) (v : F32) : d.WeftKept (d.writeDest s v) := by
  unfold Dev.writeDest
  extract_lets p i lim src
  have hput (w : F32) : d.WeftKept (d.putF p i w) := .of_weave (Dev.putF_weave _ _ _ _)
  have hpub (t : Tab Sig) : d.WeftKept { d with weave := { d.weave with pub := t } } := ⟨rfl, rfl⟩
  exact .ite (.ite (hput _) (.refl d)) (.ite (hpub _) (.refl d))

theorem Dev.writeOuts_weftKept (d : Dev) (c : Nat) (us : List F32) : d.WeftKept (d.writeOuts c us) := .foldl (fun x _ => x.writeDest_weftKept _ _) _ d

theorem Dev.setCtx_weftKept (d : Dev) (c : Nat) (x : CtxRt) : d.WeftKept (d.setCtx c x) := .of_weave rfl

theorem Dev.fallbackWrite_weftKept (d : Dev) (c : Nat) : d.WeftKept (d.fallbackWrite c) := (d.setCtx_weftKept _ _).trans (Dev.writeOuts_weftKept _ _ _)

theorem Dev.overrun_weftKept (d : Dev) (c cause cycle : Nat) : d.WeftKept (d.overrun c cause cycle) := by
  unfold Dev.overrun
  extract_lets at' counted k tq told fallen
  have hcounted : d.WeftKept counted := .of_weave (by rw [Dev.put_weave, Dev.inc_weave])
  clear_value counted
  have htold : counted.WeftKept told := (Dev.WeftKept.of_weave (Dev.put_weave _ _ _ _)).trans (.of_agree (Dev.occur_frame _ _ _ _ _ _ _) rfl)
  clear_value told
  have hfallen : told.WeftKept fallen := (Dev.WeftKept.of_weave (Dev.put_weave _ _ _ _)).trans (.of_agree (Dev.occur_frame _ _ _ _ _ _ _) rfl)
  clear_value fallen
  exact (hcounted.trans htold).trans (.ite (hfallen.trans ((fallen.setCtx_weftKept c _).trans (Dev.writeOuts_weftKept _ c _))) (.refl told))

theorem Dev.passed_weftKept (d : Dev) (c cycle : Nat) : d.WeftKept (d.passed c cycle) := by
  unfold Dev.passed
  extract_lets src noted
  have hnoted : d.WeftKept noted := d.setCtx_weftKept _ _
  exact hnoted.trans (.ite (noted.overrun_weftKept _ _ _) (.ite (noted.fallbackWrite_weftKept _) (.refl noted)))

/-! ### Samples and triggers -/

theorem Dev.trigCond_sends (d : Dev) (n ts cause : Nat) : d.WeaveSends (d.trigCond n ts cause) := .ite (d.fireTrig_sends _ _ _ _) (.refl d)

theorem Dev.trigOffer_sends (d : Dev) (n ts : Nat) (v : F32) : d.WeaveSends (d.trigOffer n ts v) := by
  unfold Dev.trigOffer
  extract_lets t lvl hyst edge below above rise fall hit crossed fired hits below' waits
  have hcrossed : d.WeaveSends crossed := .of_weave (Dev.setTrig_weave _ _ _)
  have hfired : crossed.WeaveSends fired := crossed.trigCond_sends _ _ _
  have hbelow : d.WeaveSends below' := .of_weave (Dev.setTrig_weave _ _ _)
  exact .ite (.refl d) (.ite ((hcrossed.trans hfired).then_weave (Dev.setTrig_weave _ _ _)) (.ite (hbelow.then_weave (Dev.put_weave _ _ _ _)) hbelow))

theorem Dev.sample_sends (d : Dev) (cls inst sel ts : Nat) (v : F32) (rate : Nat) : d.WeaveSends (d.sample cls inst sel ts v rate) := by
  unfold Dev.sample
  extract_lets o captured
  have hcaptured : d.WeaveSends captured := .foldl (fun x n => .ite (.of_agree (x.capOffer_frame _ _ _) rfl) (.refl x)) (List.range 32) d
  exact .ite (.refl d) (hcaptured.trans (.foldl (fun x n => .ite (x.trigOffer_sends _ _ _) (.refl x)) (List.range 16) captured))

theorem Dev.finishCtx_weftKept (d : Dev) (c fin : Nat) (v : List F32) : d.WeftKept (d.finishCtx c fin v) := by
  unfold Dev.finishCtx
  extract_lets n m x raw lim u sats xn0 ints held xn counted src done written hi lo tallied stamped outs states
  have hcounted : d.WeftKept counted := .ite (.of_weave (Dev.inc_weave _ _ _ _ _)) (.refl d)
  clear_value counted
  have hdone : counted.WeftKept done := counted.setCtx_weftKept c _
  clear_value done
  have hwritten : done.WeftKept written := done.writeOuts_weftKept c u
  clear_value written
  have htallied : written.WeftKept tallied := .of_weave (by rw [Dev.inc_weave, Dev.put_weave, Dev.put_weave])
  clear_value tallied
  have hstamped : tallied.WeftKept stamped := .of_weave (by rw [Dev.put_weave, Dev.put_weave])
  clear_value stamped
  have houts : stamped.WeftKept outs := .foldl (fun x _ => (x.sample_sends _ _ _ _ _ _).weftKept) _ stamped
  clear_value outs
  have hstates : outs.WeftKept states := .foldl (fun x _ => (x.sample_sends _ _ _ _ _ _).weftKept) _ outs
  have hend := hcounted.trans (hdone.trans (hwritten.trans (htallied.trans (hstamped.trans (houts.trans hstates)))))
  refine .ite (d.overrun_weftKept c ocNumeric fin) (.ite (hcounted.trans (counted.overrun_weftKept c ocNumeric fin)) (.ite ?_ hend))
  exact hend.trans (states.weavePut_sends _ _ _ _).weftKept

/-! ### Answers -/

theorem Dev.sendTo_sends (d : Dev) (s : Nat) (m : List Byte) : d.WeaveSends (d.sendTo s m) := by
  unfold Dev.sendTo
  refine .ite (.ite (.of_agree (d.ringPush_frame _ _) rfl) (.refl d)) ?_
  split
  · exact d.weavePut_sends _ _ _ _
  · exact .refl d

theorem Dev.respond_sends (d : Dev) (s tag op ts st : Nat) (body : List Byte) (more : Bool) : d.WeaveSends (d.respond s tag op ts st body more) := by
  unfold Dev.respond
  extract_lets m x
  exact (Dev.WeaveSends.of_agree (d.setSess_frame _ _) rfl).trans (Dev.sendTo_sends _ _ _)

theorem Dev.outcome_sends (d : Dev) (o : Oper) (st : Nat) (extra : List Byte) : d.WeaveSends (d.outcome o st extra) := by
  unfold Dev.outcome
  extract_lets h noted
  have hnoted : d.WeaveSends noted := .of_weave rfl
  clear_value noted
  refine .ite ?_ (hnoted.trans (.of_agree (Dev.raise_frame _ _ _ _ _) rfl))
  split
  · exact hnoted.trans (Dev.respond_sends _ _ _ _ _ _ _ _)
  · exact hnoted.trans (Dev.respond_sends _ _ _ _ _ _ _ _)

theorem Dev.commitEnd_sends (d : Dev) (c : Commit) (st : Nat) (extra : List Byte) : d.WeaveSends (d.commitEnd c st extra) := by
  unfold Dev.commitEnd
  extract_lets ended
  have hended : d.WeaveSends ended := .of_weave rfl
  clear_value ended
  exact (hended.trans (.of_agree (ended.setsState_frame _ _) rfl)).trans (Dev.outcome_sends _ _ _ _)

theorem Dev.activateAbort_sends (d : Dev) : d.WeaveSends d.activateAbort := by
  unfold Dev.activateAbort Dev.activateEnd
  extract_lets l ended o written
  have hended : d.WeaveSends ended := .of_weave rfl
  have hwritten : ended.WeaveSends written := .ite (.of_agree (ended.ownWrite_frame _) rfl) (.of_agree (ended.ownWrite_frame _) rfl)
  clear_value ended written
  split
  · exact (hended.trans hwritten).trans (Dev.outcome_sends _ _ _ _)
  · exact hended.trans hwritten

theorem Dev.abortOp_sends (d : Dev) (s tag : Nat) : d.WeaveSends (d.abortOp s tag).2 := by
  unfold Dev.abortOp
  split
  · split
    · exact d.activateAbort_sends
    · split
      · exact d.commitEnd_sends _ _ _
      · exact .refl d
  · split
    · exact .refl d
    · exact .refl d

theorem Dev.answerMsg_sends (d : Dev) (m : Msg) : d.WeaveSends (d.answerMsg m) := by
  unfold Dev.answerMsg
  extract_lets r
  exact .ite ((d.abortOp_sends _ _).trans (Dev.respond_sends _ _ _ _ _ _ _ _)) (d.respond_sends _ _ _ _ _ _ _)

theorem Dev.burstAnswer_sends (d : Dev) (sel : Nat → Bool) (st : Nat) : d.WeaveSends (d.burstAnswer sel st) := by
  unfold Dev.burstAnswer
  extract_lets ms h noted
  have hnoted : d.WeaveSends noted := .of_weave rfl
  exact hnoted.trans (.foldl (fun x m => x.answerMsg_sends m) _ noted)

theorem Dev.burstDecide_sends (d : Dev) (p : Nat) : d.WeaveSends (d.burstDecide p) := by
  unfold Dev.burstDecide
  extract_lets r decided x settled
  have hdecided : d.WeaveSends decided := .of_agree (d.burstRequest_frame p) rfl
  clear_value decided
  have hsettled : decided.WeaveSends settled := by
    unfold settled
    split
    · extract_lets noted
      have hnoted : decided.WeaveSends noted := .of_weave rfl
      exact .ite hnoted (hnoted.then_weave (Dev.putF_weave _ _ _ _))
    · exact .refl decided
  exact (hdecided.trans hsettled).trans (settled.burstAnswer_sends _ _)

theorem Dev.portRun_sends (d : Dev) (p : Nat) : d.WeaveSends (d.portRun p) := by
  unfold Dev.portRun
  extract_lets stepped metered
  have hstepped : d.WeaveSends stepped := .of_agree (d.portStep_frame p) rfl
  have hmetered : stepped.WeaveSends metered := .ite (.refl stepped) (.of_agree (stepped.metAlloc_frame _ _) rfl)
  exact (hstepped.trans hmetered).trans (.ite (metered.burstDecide_sends p) (.refl metered))

/-! ### The engine -/

theorem Dev.atCycle_weftKept (d : Dev) (t : Nat) {f : Dev → Dev} (hf : ∀ x : Dev, x.WeftKept (f x)) : d.WeftKept (d.atCycle t f) :=
  (Dev.WeftKept.of_weave (d := d) (e := { d with now := d.beatStart + fineNs t }) rfl).trans ((hf _).trans (.of_weave rfl))

theorem Dev.engineFixed_weftKept (d : Dev) (it : Item) (fin : Nat) : d.WeftKept (d.engineFixed it fin) := by
  unfold Dev.engineFixed
  refine .ite (d.atCycle_weftKept fin fun x => .of_agree (x.gridStep_frame _) rfl) (.ite (d.atCycle_weftKept fin fun x => .of_agree (x.isldStep_frame _) rfl)
    (.ite (d.atCycle_weftKept fin fun x => (x.portRun_sends _).weftKept) (.refl d)))

theorem Dev.setEng_weftKept (d : Dev) (x : EngSt) : d.WeftKept { d with eng := x } := ⟨rfl, rfl⟩

theorem Dev.engineLate_weftKept (d : Dev) (c : Nat) (rest : List Item) (cycle : Nat) : d.WeftKept (d.engineLate c rest cycle) := by
  unfold Dev.engineLate
  extract_lets src late
  have hlate : d.WeftKept late := d.setCtx_weftKept c _
  clear_value late
  exact hlate.trans (late.setEng_weftKept _)

theorem Dev.engineCtx_weftKept (d : Dev) (c s fin : Nat) (rest : List Item) : d.WeftKept (d.engineCtx c s fin rest).2 := by
  unfold Dev.engineCtx
  extract_lets r
  have hgathered : d.WeftKept r.2.2 := .of_agree (d.gatherAt_frame c s) rfl
  clear_value r
  split
  · split
    · exact d.engineLate_weftKept c rest fin
    · dsimp only
      exact d.atCycle_weftKept fin fun x => x.fallbackWrite_weftKept c
  · split
    · dsimp only
      exact hgathered.trans (r.2.2.overrun_weftKept c ocInput (s + 1))
    · split
      · exact hgathered.trans (r.2.2.engineLate_weftKept c rest _)
      · dsimp only
        exact hgathered.trans (r.2.2.atCycle_weftKept fin fun x => x.finishCtx_weftKept c fin r.1)

theorem Dev.engineGo_weftKept (its : List Item) (t : Nat) (d : Dev) : d.WeftKept (Dev.engineGo its t d) := by
  induction its generalizing t d with
  | nil => exact d.setEng_weftKept {}
  | cons it rest ih =>
    unfold Dev.engineGo
    extract_lets s fin r
    have hctx : d.WeftKept r.2 := d.engineCtx_weftKept _ _ _ _
    clear_value r
    split
    · exact d.setEng_weftKept _
    · split
      · split
        · exact hctx.trans (ih _ _)
        · exact hctx
      · exact (d.engineFixed_weftKept it fin).trans (ih _ _)

/-- The work of the engine moves no weft port. -/
theorem Dev.deadlinePass_weftKept (d : Dev) (dl : Nat) : d.WeftKept (d.deadlinePass dl) := by
  unfold Dev.deadlinePass
  extract_lets e late hit rest noted passed
  have hnoted : d.WeftKept noted := .foldl (fun x c => x.passed_weftKept _ _) _ d
  have hpassed : noted.WeftKept passed := .foldl (fun x it => x.passed_weftKept _ _) _ noted
  exact .ite (.refl d) ((hnoted.trans hpassed).trans (Dev.engineGo_weftKept _ _ _))

/-! ## The latch of a leg -/

/-- What a leg holds once it has latched its set-points (R251). -/
def Dev.latched (d : Dev) (n : Nat) : LegRt :=
  let x := d.leg n
  let within := fun (hi v : F32) => if fisNaN v then f0 else fclamp f0 hi v
  let duty := within f1 (d.legDutyIn n)
  let duty := match (if d.legRole n = 2 then x.dutyLimit else none) with
    | some l => fmin duty l
    | none => duty
  { x with duty := duty, tCtrl := within 0x4A1EB100 (d.getF Par.legTCtrl n), shift := within 0x3F000000 (d.getF Par.legShift n)
           wait := if x.wait = .windowEnd then .updatePoint else x.wait }

theorem Dev.legLatch_eq (d : Dev) (n : Nat) : d.legLatch n = d.setLeg n (d.latched n) := rfl

/-- What a leg latches rests on the parameters of legs and ports and on its own record. -/
theorem Dev.Agree.latched {cs : List Nat} {fs : List Fld} {d e : Dev} (h : d.Agree cs fs e) (hports : cs.contains 0x30 = false) (hlegs : cs.contains 0x31 = false)
    {n : Nat} (hleg : e.leg n = d.leg n) : e.latched n = d.latched n := by
  have hport (p : Par) (hp : p.small = true) (hg : p.group = 0x30) (i : Nat) : e.get p i = d.get p i := h.get p i hp (by rw [hg]; exact hports)
  have hlegp (p : Par) (hp : p.small = true) (hg : p.group = 0x31) (i : Nat) : e.get p i = d.get p i := h.get p i hp (by rw [hg]; exact hlegs)
  have hof : e.portOfLeg n = d.portOfLeg n := by
    simp only [Dev.portOfLeg, hport Par.portTopology rfl rfl, hport Par.portLegA rfl rfl, hport Par.portLegB rfl rfl]
  have hduty : e.legDutyIn n = d.legDutyIn n := by
    simp only [Dev.legDutyIn, Dev.legSet, hof, hport Par.portTopology rfl rfl, hport Par.portLegA rfl rfl, hport Par.portLegB rfl rfl,
      hlegp Par.legDuty rfl rfl, hlegp Par.legPeriod rfl rfl]
  have hrole : e.legRole n = d.legRole n := by rw [Dev.legRole, hof, hlegp Par.legRole rfl rfl, Dev.legRole]
  have hctrl : e.getF Par.legTCtrl n = d.getF Par.legTCtrl n := h.getF _ _ rfl hlegs
  have hshift : e.getF Par.legShift n = d.getF Par.legShift n := h.getF _ _ rfl hlegs
  rw [Dev.latched, hleg, hduty, hrole, hctrl, hshift, Dev.latched]

/-- A leg that has latched no longer waits for the window's end (R246). -/
theorem Dev.latched_wait (d : Dev) (n : Nat) : (d.latched n).wait ≠ .windowEnd := by
  show (if (d.leg n).wait = .windowEnd then LegWait.updatePoint else (d.leg n).wait) ≠ .windowEnd
  split
  · decide
  · assumption

/-- Only a chopper's limit stands between the duty a leg is given and the one it latches (R242, R251). -/
theorem Dev.latched_duty {d : Dev} {n : Nat} (h : d.legRole n ≠ 2 ∨ (d.leg n).dutyLimit = none) :
    (d.latched n).duty = if fisNaN (d.legDutyIn n) then f0 else fclamp f0 f1 (d.legDutyIn n) := by
  have hnone : (if d.legRole n = 2 then (d.leg n).dutyLimit else none) = none := by
    split
    · next hrole => exact h.resolve_left fun hne => hne hrole
    · rfl
  unfold Dev.latched
  extract_lets x within duty limited
  have hduty : limited = duty := by
    unfold limited
    rw [hnone]
  rw [hduty]

/-- Every leg latches, on what it finds at the window's end. -/
theorem Dev.legLatches (d : Dev) {n : Nat} (hn : n < 40) :
    ((d.forN 40 Dev.legLatch).leg n) = d.latched n ∧ d.Agree [] [.legs] (d.forN 40 Dev.legLatch) := by
  refine ⟨?_, .forN (fun x m hx => hx.trans (x.legLatch_frame m)) .refl⟩
  refine Dev.forN_once (P := fun x => d.Agree [] [.legs] x ∧ x.leg n = d.leg n) (Q := fun x => x.leg n = d.latched n) hn
    (fun x m hm hx => ?_) (fun x hx => ?_) (fun x m hm _ hx => ?_) ⟨.refl, rfl⟩
  · exact ⟨hx.1.trans (x.legLatch_frame m), by rw [Dev.legLatch_eq, Dev.leg_setLeg_other _ _ _ _ (by omega), hx.2]⟩
  · rw [Dev.legLatch_eq, Dev.leg_setLeg_same, hx.1.latched rfl rfl hx.2]
  · rw [Dev.legLatch_eq, Dev.leg_setLeg_other _ _ _ _ (by omega), hx]

/-! ## BEAT_PKT -/

/-- A message that one turn of a loop of sends puts out leaves with the loop. -/
theorem Dev.WeaveSends.exists_out {α : Type} {f : Dev → α → Dev} (hf : ∀ (d : Dev) x, d.WeaveSends (f d x)) {xs : List α} {x : α} (hx : x ∈ xs) {d : Dev}
    {P : WOut → Prop} (hturn : ∀ e : Dev, d.WeaveSends e → ∃ w ∈ (f e x).weave.out, P w) : ∃ w ∈ (xs.foldl f d).weave.out, P w := by
  obtain ⟨before, after, rfl⟩ := List.append_of_mem hx
  rw [List.foldl_append, List.foldl_cons]
  obtain ⟨w, hw, hP⟩ := hturn _ (.foldl hf before d)
  exact ⟨w, (Dev.WeaveSends.foldl hf after _).mem_out hw, hP⟩

/-- A stake with a number sends a BEAT_PKT on every port that is UP (R354). -/
theorem Dev.beatPkts_leave {d : Dev} (hfull : d.full = true) (hstake : d.weave.stake.isSome = true) {p : Nat} (hp : p < 4) (hup : (d.wport p).state = wpUp) :
    ∃ w ∈ d.sendBeatPkts.weave.out, w.kind = wkBeatPkt ∧ w.port = p := by
  have hnumber : d.weave.stake.isNone = false := by rw [← Option.not_isSome, hstake]; rfl
  generalize hr : d.sendBeatPkts = r
  unfold Dev.sendBeatPkts at hr
  extract_lets src noted body ups sent routed src' at hr
  rw [if_neg (by simp [hfull, hnumber])] at hr
  have hnoted : d.WeftKept noted := .ite ⟨rfl, rfl⟩ (.refl d)
  have hmem : p ∈ ups := List.mem_filter.mpr ⟨List.mem_range.mpr hp, by rw [hnoted.wport, hup]; rfl⟩
  clear_value body ups noted
  have hsent : ∃ w ∈ sent.weave.out, w.kind = wkBeatPkt ∧ w.port = p := by
    refine Dev.WeaveSends.exists_out (f := fun x q => x.weavePut wkBeatPkt 0xFE body q) (fun x q => x.weavePut_sends _ _ _ _) hmem fun e he => ?_
    obtain ⟨q, hq⟩ := e.weavePut_leaves (kind := wkBeatPkt) 0xFE body p (.inl (by rw [he.weftKept.1, hnoted.1, hnumber]))
    exact ⟨_, hq, rfl, rfl⟩
  obtain ⟨w, hw, hkind⟩ := hsent
  have hrouted : sent.WeaveSends routed := .ite (sent.weavePut_sends _ _ _ _) (.refl sent)
  clear_value routed
  refine ⟨w, ?_, hkind⟩
  rw [← hr]
  split
  · exact hrouted.mem_out hw
  · exact hrouted.mem_out hw

/-- A port whose hold neither starts nor ends keeps its gates (R228). -/
theorem Dev.portHolds_none {d : Dev} (h : ∀ p < 32, (d.port p).holdNext = none) : d.forN 32 Dev.portHoldNext = d := by
  refine Dev.forN_inv (P := fun x => x = d) 32 (fun x m hm hx => ?_) rfl
  subst hx
  unfold Dev.portHoldNext
  rw [h m hm]

/-! ## The window's end -/

/-- The device once the last steps and the deadlines of the window have passed. -/
def Dev.windowPassed (d : Dev) : Dev := d.finalPass.deadlinePass (boundC d.windowTicks)

theorem Dev.windowPassed_powerKept (d : Dev) : d.PowerKept d.windowPassed :=
  (d.finalPass_frame.powerKept (by decide)).trans ((Dev.deadlinePass_frame _ _).powerKept (by decide))

theorem Dev.windowPassed_weftKept (d : Dev) : d.WeftKept d.windowPassed := by
  have hfinal : (d.deadlinePass (boundD d.windowTicks)).WeftKept d.finalPass := .of_agree (Dev.finalStep_frame _) rfl
  exact ((d.deadlinePass_weftKept _).trans hfinal).trans (Dev.deadlinePass_weftKept _ _)

theorem Dev.sendArmCur_sends (d : Dev) (ctx : Bool) : d.WeaveSends (d.sendArmCur ctx) := by
  unfold Dev.sendArmCur
  extract_lets js
  exact .ite (.ite (.refl d) (d.weavePut_sends _ _ _ _)) (.refl d)

theorem Dev.setSig_weftKept (d : Dev) (k : Nat) (g : Sig) : d.WeftKept (d.setSig k g) := ⟨rfl, rfl⟩

theorem Dev.publish_weftKept (d : Dev) : d.WeftKept d.publish := by
  have hclear (x : Dev) : x.WeftKept x.pubClear := ⟨rfl, rfl⟩
  unfold Dev.publish
  extract_lets recs sent own
  have hsent : d.WeftKept sent := (d.sendRecords_sends recs 255).weftKept
  have hown : sent.WeftKept own := .foldl (fun x _ => x.setSig_weftKept _ _) _ sent
  exact .ite (hclear d) ((hsent.trans hown).trans (hclear own))

/-- The end of the window (R37): on what its last steps and deadlines have left, every leg latches, and the BEAT_PKTs leave. -/
theorem Dev.windowEnd_ends {d : Dev} (hfull : d.full = true) (hclk : d.clkOk cdTb = true) (hholds : ∀ p < 32, (d.windowPassed.port p).holdNext = none) :
    (∀ n < 40, d.windowEnd.leg n = d.windowPassed.latched n)
      ∧ (d.weave.stake.isSome = true → ∀ p < 4, (d.wport p).state = wpUp → ∃ w ∈ d.windowEnd.weave.out, w.kind = wkBeatPkt ∧ w.port = p) := by
  have hpower := d.windowPassed_powerKept
  have hweft := d.windowPassed_weftKept
  generalize hr : d.windowEnd = r
  unfold Dev.windowEnd at hr
  rw [if_neg (by rw [hfull, hclk]; decide), show d.finalPass.deadlinePass (boundC d.windowTicks) = d.windowPassed from rfl] at hr
  generalize d.windowPassed = e at *
  extract_lets published rated sent latched at hr
  have hpublished : e.Agree [] [.weave] published := e.publish_frame
  have hweft' : d.WeftKept published := hweft.trans e.publish_weftKept
  clear_value published
  have hrated : published.Agree [0x12] [.spokes, .cells] rated := by
    refine .forN (fun x j hx => .step (x.armRates_frame j) rfl rfl hx) (.ite (fun _ => ?_) fun _ => .refl)
    exact published.spokesSend_frame.mono rfl rfl
  clear_value rated
  have hsigned : rated.Agree [] [.weave] (rated.sendArmCur true) := rated.sendArmCur_frame true
  have hweft'' : d.WeftKept (rated.sendArmCur true) := (hweft'.trans (.of_agree hrated rfl)).trans (rated.sendArmCur_sends true).weftKept
  have hfull' : (rated.sendArmCur true).full = true :=
    (((hpower.trans (hpublished.powerKept (by decide))).trans (hrated.powerKept (by decide))).trans (hsigned.powerKept (by decide))).full hfull
  have hsent : (rated.sendArmCur true).Agree [] [.weave] sent := Dev.sendBeatPkts_frame _
  have hagree : e.Agree [0x12] [.weave, .spokes, .cells] sent := .step hsent rfl rfl (.step hsigned rfl rfl (.step hrated rfl rfl (hpublished.mono rfl rfl)))
  have hout (hstake : d.weave.stake.isSome = true) (p : Nat) (hp : p < 4) (hup : (d.wport p).state = wpUp) :
      ∃ w ∈ sent.weave.out, w.kind = wkBeatPkt ∧ w.port = p :=
    Dev.beatPkts_leave hfull' (by rw [hweft''.1]; exact hstake) hp (by rw [hweft''.wport]; exact hup)
  clear_value sent
  have hlatched (n : Nat) (hn : n < 40) : latched.leg n = sent.latched n := (sent.legLatches hn).1
  have hframe : sent.Agree [] [.legs] latched := (sent.legLatches (n := 0) (by decide)).2
  clear_value latched
  have hnone : latched.forN 32 Dev.portHoldNext = latched := by
    refine Dev.portHolds_none fun p hp => ?_
    rw [Dev.port_of_ports (hframe.2 .ports rfl), Dev.port_of_ports (hagree.2 .ports rfl), hholds p hp]
  rw [hnone] at hr
  subst hr
  refine ⟨fun n hn => ?_, fun hstake p hp hup => ?_⟩
  · have hleg : sent.leg n = e.leg n := by rw [Dev.leg, hagree.2 .legs rfl, Dev.leg]
    rw [hlatched n hn, hagree.latched rfl rfl hleg]
  · rw [hframe.2 .weave rfl]
    exact hout hstake p hp hup

end Sys2Proof.Machine
end

section
/-! PROOF. The final step of the scheduler (R126 to R129, R117): what the step of one arm reads is what the steps of the others leave. -/

namespace Sys2Proof.Machine

variable {j : Nat}

/-! ## What one arm's final step decides -/

/-- The target of an arm in the final step: its reference with the carry, within what its cells in service can give. -/
def Dev.finalTarget (d : Dev) (j : Nat) : F64 :=
  let total := (((d.armCells j).filter (fun c => (d.cell c).inService)).map (fun c => dof (d.cell c).vhat)).foldl dadd d0
  let low := if d.get Par.armCellType j = 2 then dneg total else d0
  dmax low (dmin total (dadd (dof (d.getF Par.armVref j)) (d.arm j).carry))

/-- The ranked cells of the target's polarity. -/
def Dev.finalRank (d : Dev) (j : Nat) : List (Nat × F32) := if dlt (d.finalTarget j) d0 then (d.arm j).listN else (d.arm j).listP

/-- The plan of an arm in the final step. -/
def Dev.finalPlan (d : Dev) (j : Nat) : FinalPlan :=
  d.planArm j (dlt (d.finalTarget j) d0) (d.finalRank j) (dmin (((d.prefixes (d.finalRank j) d0).getLast?).getD d0) (dabs (d.finalTarget j)))

/-- The arm's final step is still to run in this beat. -/
def Dev.finalDue (d : Dev) (j : Nat) : Prop := d.get Par.armState j = asRun ∧ (d.arm j).finalBeat ≠ some d.beatNo

/-! ## What the steps of other arms leave -/

/-- What the final step reads of a cell. -/
def Dev.cellReads (d : Dev) (c : Nat) : Bool × F32 × Nat := ((d.cell c).inService, (d.cell c).vhat, (d.cell c).stCur)

/-- From `d` to `e` all that the final step of arm `j` reads stays: everything but the other arms, the plans of cells, and events. -/
structure Dev.ArmSees (j : Nat) (d e : Dev) : Prop where
  frame : d.Agree [0x12, 0xC0] [.evt, .cells, .arms] e
  params : ∀ p : Par, p.small = true → p.group = 0x12 → e.raw p j = d.raw p j
  arm : e.arm j = d.arm j
  cells : ∀ c, e.cellReads c = d.cellReads c

theorem Dev.ArmSees.refl (d : Dev) : Dev.ArmSees j d d := ⟨.refl, fun _ _ _ => rfl, rfl, fun _ => rfl⟩

theorem Dev.ArmSees.trans {a b c : Dev} (h : Dev.ArmSees j a b) (g : Dev.ArmSees j b c) : Dev.ArmSees j a c :=
  ⟨h.frame.trans g.frame, fun p hp hg => (g.params p hp hg).trans (h.params p hp hg), g.arm.trans h.arm, fun k => (g.cells k).trans (h.cells k)⟩

theorem Dev.ArmSees.ite {a x y : Dev} {c : Prop} [Decidable c] (h : Dev.ArmSees j a x) (g : Dev.ArmSees j a y) : Dev.ArmSees j a (if c then x else y) := by
  split
  · exact h
  · exact g

theorem Dev.ArmSees.setRaw (d : Dev) {m : Nat} (h : j ≠ m) {q : Par} (hq : q.small = true) (hg : q.group = 0x12) (v : W64) : Dev.ArmSees j d (d.setRaw q m v) where
  frame := by
    have hset : d.Agree [0x12] [] (d.setRaw q m v) := .setRaw hq (by rw [hg]; rfl) .refl
    exact hset.mono rfl rfl
  params p hp _ := by
    by_cases hpq : p = q
    · subst hpq
      exact Dev.raw_setRaw_inst _ _ hp h
    · exact Dev.raw_setRaw_apart _ _ _ _ (by simp [Par.apart, hpq, hp, hq])
  arm := Dev.arm_of_arms (Dev.setRaw_arms _ _ _ _) j
  cells c := by rw [Dev.cellReads, Dev.cell_of_cells (Dev.setRaw_cells _ _ _ _), Dev.cellReads]

theorem Dev.ArmSees.put {a d : Dev} (h : Dev.ArmSees j a d) {m : Nat} (hm : j ≠ m) {q : Par} (hq : q.small = true) (hg : q.group = 0x12) (v : Nat) :
    Dev.ArmSees j a (d.put q m v) := h.trans (.setRaw d hm hq hg _)

theorem Dev.ArmSees.putF {a d : Dev} (h : Dev.ArmSees j a d) {m : Nat} (hm : j ≠ m) {q : Par} (hq : q.small = true) (hg : q.group = 0x12) (v : F32) :
    Dev.ArmSees j a (d.putF q m v) := h.trans (.setRaw d hm hq hg _)

theorem Dev.ArmSees.inc {a d : Dev} (h : Dev.ArmSees j a d) {m : Nat} (hm : j ≠ m) {q : Par} (hq : q.small = true) (hg : q.group = 0x12) (w n : Nat) :
    Dev.ArmSees j a (d.inc w q m n) := h.trans (.setRaw d hm hq hg _)

theorem Dev.ArmSees.raise {a d : Dev} (h : Dev.ArmSees j a d) (n obj : Nat) : Dev.ArmSees j a (d.raise n obj) := by
  have hraised : d.Agree [0xC0] [.evt] (d.raise n obj) := d.raise_frame n obj 0 false
  refine h.trans ⟨hraised.mono rfl rfl, fun p hp hg => hraised.1 p j hp (by rw [hg]; rfl), Dev.arm_of_arms (hraised.2 .arms rfl) j, fun c => ?_⟩
  rw [Dev.cellReads, Dev.cell_of_cells (hraised.2 .cells rfl), Dev.cellReads]

theorem Dev.ArmSees.setArm {a d : Dev} (h : Dev.ArmSees j a d) {m : Nat} (hm : j ≠ m) (x : ArmRt) : Dev.ArmSees j a (d.setArm m x) := by
  have hset : d.Agree [] [.arms] (d.setArm m x) := d.setArm_frame m x
  refine h.trans ⟨hset.mono rfl rfl, fun p hp _ => hset.1 p j hp rfl, Dev.arm_setArm_other _ _ _ _ hm, fun c => ?_⟩
  rw [Dev.cellReads, Dev.cell_of_cells (hset.2 .cells rfl), Dev.cellReads]

theorem Dev.setPlan_sees (d : Dev) (c : Nat) (h : Option Half) : Dev.ArmSees j d (d.setCell c { d.cell c with plan := h }) := by
  have hset : d.Agree [] [.cells] (d.setCell c { d.cell c with plan := h }) := d.setCell_frame c _
  refine ⟨hset.mono rfl rfl, fun p hp _ => hset.1 p j hp rfl, Dev.arm_of_arms (hset.2 .arms rfl) j, fun k => ?_⟩
  by_cases hk : k = c
  · subst hk
    rw [Dev.cellReads, Dev.cell_setCell_same]
    rfl
  · rw [Dev.cellReads, Dev.cell_setCell_other _ _ _ _ hk, Dev.cellReads]

theorem Dev.armProbe_sees (d : Dev) {m : Nat} (hm : j ≠ m) : Dev.ArmSees j d (d.armProbe m) := by
  unfold Dev.armProbe
  extract_lets c x y l k shown
  have hshown : Dev.ArmSees j d shown := .putF (.putF (.putF (.refl d) hm rfl rfl _) hm rfl rfl _) hm rfl rfl _
  clear_value shown
  refine .ite (.put (.putF (.putF (.putF (.putF (.refl d) hm rfl rfl _) hm rfl rfl _) hm rfl rfl _) hm rfl rfl _) hm rfl rfl _) (.ite ?_ ?_)
  · exact .put (.putF hshown hm rfl rfl _) hm rfl rfl _
  · exact .put (.putF hshown hm rfl rfl _) hm rfl rfl _

/-- The final step of another arm. -/
theorem Dev.armFinal_sees (d : Dev) {m : Nat} (hm : j ≠ m) : Dev.ArmSees j d (d.armFinal m) := by
  unfold Dev.armFinal
  extract_lets x cells serv fbArm u0 S u1 sat neg l L clip t ulim p out carry cap carry' dfr planned src stepped st shown limited clipped deferred discarded counted placed
  have hplanned : Dev.ArmSees j d planned :=
    List.foldlRecOn cells _ (motive := Dev.ArmSees j d) (.refl d) fun e he c _ => he.trans (e.setPlan_sees c _)
  clear_value planned
  have hstepped : Dev.ArmSees j d stepped := hplanned.setArm hm _
  clear_value stepped
  have hshown : Dev.ArmSees j d shown := hstepped.put hm rfl rfl _
  clear_value shown
  have hlimited : Dev.ArmSees j d limited := .ite ((hshown.inc hm rfl rfl _ _).raise _ _) hshown
  clear_value limited
  have hclipped : Dev.ArmSees j d clipped := .ite ((hlimited.inc hm rfl rfl _ _).raise _ _) hlimited
  clear_value clipped
  have hdeferred : Dev.ArmSees j d deferred := .ite (hclipped.inc hm rfl rfl _ _) hclipped
  clear_value deferred
  have hdiscarded : Dev.ArmSees j d discarded := .ite (hdeferred.inc hm rfl rfl _ _) hdeferred
  clear_value discarded
  have hplaced : Dev.ArmSees j d placed := .putF (.put (.put (.put hdiscarded hm rfl rfl _) hm rfl rfl _) hm rfl rfl _) hm rfl rfl _
  clear_value placed
  exact .ite (.refl d) ((hplaced.putF hm rfl rfl _).trans (Dev.armProbe_sees _ hm))

/-! ## The step of one arm -/

/-- The step of an arm rests on what the steps of the others leave. -/
theorem Dev.ArmSees.finalPlan {d e : Dev} (h : Dev.ArmSees j d e) : e.finalPlan j = d.finalPlan j ∧ (e.finalDue j ↔ d.finalDue j) ∧ e.beatNo = d.beatNo := by
  obtain ⟨hframe, hparams, harm, hcells⟩ := h
  have hget (p : Par) (hp : p.small = true) (hg : p.group = 0x12) : e.get p j = d.get p j := by rw [Dev.get, hparams p hp hg, Dev.get]
  have hserv (c : Nat) : (e.cell c).inService = (d.cell c).inService := congrArg Prod.fst (hcells c)
  have hvhat (c : Nat) : (e.cell c).vhat = (d.cell c).vhat := congrArg (fun r => r.2.1) (hcells c)
  have hstate (c : Nat) : (e.cell c).stCur = (d.cell c).stCur := congrArg (fun r => r.2.2) (hcells c)
  have hfb (c : Nat) : e.isFB c = d.isFB c := by rw [Dev.isFB, hframe.get _ _ rfl rfl, Dev.isFB]
  have hinserted (c : Nat) (neg : Bool) : e.insertedAt c neg = d.insertedAt c neg := by rw [Dev.insertedAt, hstate, hfb, Dev.insertedAt]
  have harmCells : e.armCells j = d.armCells j := by
    have hring : e.ringCells = d.ringCells := funext fun a => by rw [Dev.ringCells, hframe.get _ _ rfl rfl, Dev.ringCells]
    rw [Dev.armCells, hget _ rfl rfl, hring, Dev.armCells]
  have hprefixes (xs : List (Nat × F32)) (s : F64) : e.prefixes xs s = d.prefixes xs s := by
    induction xs generalizing s with
    | nil => rfl
    | cons x xs ih => rw [Dev.prefixes, hvhat, ih, Dev.prefixes]
  have hvref : e.getF Par.armVref j = d.getF Par.armVref j := by rw [Dev.getF, hparams _ rfl rfl, Dev.getF]
  have htarget : e.finalTarget j = d.finalTarget j := by
    simp only [Dev.finalTarget, harmCells, hserv, hvhat, hget Par.armCellType rfl rfl, hvref, harm]
  have hrank : e.finalRank j = d.finalRank j := by rw [Dev.finalRank, htarget, harm, Dev.finalRank]
  have hticks : e.beatTicks = d.beatTicks := hframe.get _ _ rfl rfl
  have hno : e.beatNo = d.beatNo := hframe.get _ _ rfl rfl
  have hplan (neg : Bool) (xs : List (Nat × F32)) (u : F64) : e.planArm j neg xs u = d.planArm j neg xs u := by
    have hrotate : e.isOn Par.armFracRotate j = d.isOn Par.armFracRotate j := by rw [Dev.isOn, hget _ rfl rfl, Dev.isOn]
    simp only [Dev.planArm, hprefixes, hrotate, harm, hvhat, hticks, hfb, hinserted, hget Par.armDwellMin rfl rfl]
  refine ⟨?_, ?_, hno⟩
  · rw [Dev.finalPlan, htarget, hrank, hprefixes, hplan, Dev.finalPlan]
  · rw [Dev.finalDue, hget _ rfl rfl, harm, hno, Dev.finalDue]

/-- What arm `j` shows of a plan once its final step has run in beat `k`. -/
def Dev.ShowsPlan (d : Dev) (j : Nat) (plan : FinalPlan) (k : Nat) : Prop :=
  d.get Par.armNInserted j = plan.whole.length % 2 ^ 64 ∧ d.get Par.armFracCell j = (plan.frac.getD 0xFFFF) % 2 ^ 64
    ∧ d.get Par.armFracEdge j = plan.edge % 2 ^ 64 ∧ (d.arm j).finalBeat = some k ∧ (d.arm j).prevFrac = plan.frac

theorem Dev.ArmSees.showsPlan {d e : Dev} (h : Dev.ArmSees j d e) {plan : FinalPlan} {k : Nat} (hd : d.ShowsPlan j plan k) : e.ShowsPlan j plan k := by
  have hget (p : Par) (hp : p.small = true) (hg : p.group = 0x12) : e.get p j = d.get p j := by rw [Dev.get, h.params p hp hg, Dev.get]
  rw [Dev.ShowsPlan, hget _ rfl rfl, hget _ rfl rfl, hget _ rfl rfl, h.arm]
  exact hd

/-- The probe of an arm shows other parameters (R133). -/
theorem Dev.armProbe_showsPlan {d : Dev} {plan : FinalPlan} {k : Nat} (hd : d.ShowsPlan j plan k) : (d.armProbe j).ShowsPlan j plan k := by
  have hprobe (q : Par) (hq : q ∈ [Par.armNInserted, Par.armFracCell, Par.armFracEdge]) : Dev.Spares q d (d.armProbe j) := by
    unfold Dev.armProbe
    extract_lets c x y l k shown
    have hshown : Dev.Spares q d shown := by fin_cases hq <;> exact .putF (.putF (.putF (.refl d) rfl) rfl) rfl
    fin_cases hq <;> exact .ite (.put (.putF (.putF (.putF (.putF (.refl d) rfl) rfl) rfl) rfl) rfl) (.ite (.put (.putF hshown rfl) rfl) (.put (.putF hshown rfl) rfl))
  have harm : (d.armProbe j).arm j = d.arm j := Dev.arm_of_arms ((d.armProbe_frame j).2 .arms rfl) j
  rw [Dev.ShowsPlan, (hprobe Par.armNInserted (by decide)).get, (hprobe Par.armFracCell (by decide)).get, (hprobe Par.armFracEdge (by decide)).get, harm]
  exact hd

/-- The final step of an arm that is due shows its plan (R126 to R129). -/
theorem Dev.armFinal_showsPlan {d : Dev} (hdue : d.finalDue j) : (d.armFinal j).ShowsPlan j (d.finalPlan j) d.beatNo := by
  generalize hr : d.armFinal j = r
  unfold Dev.armFinal at hr
  extract_lets x cells serv fbArm u0 S u1 sat neg l L clip t ulim p out carry cap carry' dfr planned src stepped st shown limited clipped deferred discarded counted placed at hr
  rw [if_neg (by rw [not_or, not_not]; exact hdue)] at hr
  have hp : p = d.finalPlan j := rfl
  have hplanned : d.Agree [] [.cells] planned := .forL (fun e c he => he.trans (e.setCell_frame c _)) .refl
  clear_value planned
  have hstepped : (stepped.arm j).finalBeat = some planned.beatNo ∧ (stepped.arm j).prevFrac = p.frac := by
    rw [Dev.arm_setArm_same]
    exact ⟨rfl, rfl⟩
  clear_value stepped p
  have hshown : stepped.Agree [0x12, 0xC0] [.evt] shown := .put rfl rfl .refl
  have hlimited : stepped.Agree [0x12, 0xC0] [.evt] limited := .ite (fun _ => .step (Dev.raise_frame _ _ _ _ _) rfl rfl (.inc rfl rfl hshown)) (fun _ => hshown)
  have hclipped : stepped.Agree [0x12, 0xC0] [.evt] clipped :=
    .ite (fun _ => .step (Dev.raise_frame _ _ _ _ _) rfl rfl (.inc rfl rfl hlimited)) (fun _ => hlimited)
  have hdeferred : stepped.Agree [0x12, 0xC0] [.evt] deferred := .ite (fun _ => .inc rfl rfl hclipped) (fun _ => hclipped)
  have hdiscarded : stepped.Agree [0x12, 0xC0] [.evt] discarded := .ite (fun _ => .inc rfl rfl hdeferred) (fun _ => hdeferred)
  clear_value discarded
  have hplaced : discarded.Agree [0x12] [] (placed.putF Par.armCarry j (fofd carry')) := .putF rfl rfl (.putF rfl rfl (.put rfl rfl (.put rfl rfl (.put rfl rfl .refl))))
  have harm : (placed.putF Par.armCarry j (fofd carry')).arm j = stepped.arm j :=
    (Dev.arm_of_arms (hplaced.2 .arms rfl) j).trans (Dev.arm_of_arms (hdiscarded.2 .arms rfl) j)
  rw [← hr, ← hp]
  refine Dev.armProbe_showsPlan ?_
  have hno : planned.beatNo = d.beatNo := hplanned.get _ _ rfl rfl
  rw [Dev.ShowsPlan, harm, ← hno]
  refine ⟨?_, ?_, ?_, hstepped⟩
  · rw [Dev.get_putF_apart _ _ _ _ rfl, Dev.get_putF_apart _ _ _ _ rfl, Dev.get_put_apart _ _ _ _ rfl, Dev.get_put_apart _ _ _ _ rfl, Dev.get_put_same]
  · rw [Dev.get_putF_apart _ _ _ _ rfl, Dev.get_putF_apart _ _ _ _ rfl, Dev.get_put_apart _ _ _ _ rfl, Dev.get_put_same]
  · rw [Dev.get_putF_apart _ _ _ _ rfl, Dev.get_putF_apart _ _ _ _ rfl, Dev.get_put_same]

theorem Dev.armFinal_idle {d : Dev} (hidle : ¬ d.finalDue j) : d.armFinal j = d := by
  refine if_pos ?_
  rw [Dev.finalDue, not_and_or, not_not] at hidle
  exact hidle

/-! ## The step of every arm -/

/-- The final step runs for every arm that is due, on what it finds; an arm that is not due keeps all it has. -/
theorem Dev.finalStep_plans {d : Dev} (hfull : d.full = true) (hj : j < 24) :
    (d.finalDue j → d.finalStep.ShowsPlan j (d.finalPlan j) d.beatNo)
      ∧ (¬ d.finalDue j → d.finalStep.arm j = d.arm j ∧ d.finalStep.get Par.armNInserted j = d.get Par.armNInserted j) := by
  have hrun : d.finalStep = d.forN 24 Dev.armFinal := if_pos hfull
  have hbefore (x : Dev) (m : Nat) (hm : m < j) (hx : Dev.ArmSees j d x) : Dev.ArmSees j d (x.armFinal m) := hx.trans (x.armFinal_sees (by omega))
  rw [hrun]
  constructor
  · intro hdue
    refine Dev.forN_once (Q := fun x => x.ShowsPlan j (d.finalPlan j) d.beatNo) hj hbefore (fun x hx => ?_)
      (fun x m hm _ hx => (x.armFinal_sees (by omega)).showsPlan hx) (.refl d)
    obtain ⟨hplan, hsame, hno⟩ := hx.finalPlan
    rw [← hplan, ← hno]
    exact Dev.armFinal_showsPlan (hsame.mpr hdue)
  · intro hidle
    have hkept : Dev.ArmSees j d (d.forN 24 Dev.armFinal) := by
      refine Dev.forN_once (Q := Dev.ArmSees j d) hj hbefore (fun x hx => ?_) (fun x m hm _ hx => hx.trans (x.armFinal_sees (by omega))) (.refl d)
      rw [Dev.armFinal_idle fun h => hidle (hx.finalPlan.2.1.mp h)]
      exact hx
    exact ⟨hkept.arm, by rw [Dev.get, hkept.params _ rfl rfl, Dev.get]⟩

end Sys2Proof.Machine
end

section
/-! PROOF. A context's deadline (R175, R176), and what the compute window leaves (R37, R117, R126, R251, R354). -/

namespace Sys2Proof.Machine

variable {c : Nat}

/-! ## What a deadline leaves of the other contexts -/

/-- What a deadline moves of its context, beside its record. -/
def ctxMoved : List Par := [Par.ctxState, Par.ctxOverruns, Par.ctxLastCause, Par.ctxConsec]

/-- From `d` to `e` context `c` stays as a deadline finds it, and no flag is lost. -/
structure Dev.CtxSees (c : Nat) (d e : Dev) : Prop where
  ctx : e.ctx c = d.ctx c
  params : ∀ p ∈ ctxMoved, e.get p c = d.get p c
  tsets : e.tsets = d.tsets
  flags : d.KeepsFlags e

theorem Dev.CtxSees.refl (d : Dev) : Dev.CtxSees c d d := ⟨rfl, fun _ _ => rfl, rfl, .refl d⟩

theorem Dev.CtxSees.trans {a b d : Dev} (h : Dev.CtxSees c a b) (g : Dev.CtxSees c b d) : Dev.CtxSees c a d :=
  ⟨g.ctx.trans h.ctx, fun p hp => (g.params p hp).trans (h.params p hp), g.tsets.trans h.tsets, h.flags.trans g.flags⟩

theorem Dev.CtxSees.ite {a x y : Dev} {b : Prop} [Decidable b] (h : Dev.CtxSees c a x) (g : Dev.CtxSees c a y) : Dev.CtxSees c a (if b then x else y) := by
  split
  · exact h
  · exact g

theorem Dev.CtxSees.foldl {α : Type} {f : Dev → α → Dev} (hf : ∀ (d : Dev) x, Dev.CtxSees c d (f d x)) (xs : List α) (d : Dev) : Dev.CtxSees c d (xs.foldl f d) :=
  List.foldlRecOn xs f (motive := Dev.CtxSees c d) (.refl d) (fun e h x _ => h.trans (hf e x))

/-- A write to a set-point, or a published value (R160), is none of what a deadline moves. -/
theorem Dev.writeDest_sees (d : Dev) (s : OutSlot) (v : F32) : Dev.CtxSees c d (d.writeDest s v) := by
  have hagree : d.Agree [0x12, 0x20, 0x30, 0x31] [.weave] (d.writeDest s v) := d.writeDest_frame s v
  refine ⟨Dev.ctx_of_ctxs (hagree.2 .ctxs rfl) c, fun p hp => ?_, hagree.2 .tsets rfl, .of_agree hagree rfl⟩
  unfold Dev.writeDest
  extract_lets q i lim
  split
  · split
    · next hpoint =>
      have hapart : ∀ q ∈ setPoints, ∀ p ∈ ctxMoved, Par.apart p q = true := by decide
      exact Dev.get_putF_apart _ _ _ _ (hapart q (List.contains_iff_mem.mp hpoint) p hp)
    · rfl
  · split
    · rfl
    · rfl

theorem Dev.writeOuts_sees (d : Dev) (k : Nat) (us : List F32) : Dev.CtxSees c d (d.writeOuts k us) := .foldl (fun x _ => x.writeDest_sees _ _) _ d

theorem Dev.setCtx_sees (d : Dev) {k : Nat} (hk : c ≠ k) (x : CtxRt) : Dev.CtxSees c d (d.setCtx k x) :=
  ⟨Dev.ctx_setCtx_other _ _ _ _ hk, fun _ _ => rfl, rfl, .of_agree (d.setCtx_frame k x) rfl⟩

theorem Dev.put_sees (d : Dev) {q : Par} (hq : q ∈ ctxMoved) {k : Nat} (hk : c ≠ k) (v : Nat) : Dev.CtxSees c d (d.put q k v) := by
  refine ⟨Dev.ctx_of_ctxs (Dev.put_ctxs _ _ _ _) c, fun p hp => ?_, Dev.put_tsets _ _ _ _, ?_⟩
  · have hsmall : ∀ p ∈ ctxMoved, p.small = true := by decide
    by_cases hpq : p = q
    · subst hpq
      exact Dev.get_put_inst _ _ (hsmall p hp) hk
    · exact Dev.get_put_apart _ _ _ _ (by simp [Par.apart, hpq, hsmall p hp, hsmall q hq])
  · have hapart : ∀ q ∈ ctxMoved, Par.apart Par.evtFlag q = true := by decide
    exact .put (.refl d) (hapart q hq)

theorem Dev.occur_sees (d : Dev) (n ts obj detail tq : Nat) : Dev.CtxSees c d (d.occur n ts obj detail tq) := by
  have hoccur : d.Agree [0xC0] [.evt] (d.occur n ts obj detail tq) := d.occur_frame n ts obj detail tq false
  have hgroup : ∀ p ∈ ctxMoved, p.small = true ∧ ([0xC0] : List Nat).contains p.group = false := by decide
  exact ⟨Dev.ctx_of_ctxs (hoccur.2 .ctxs rfl) c, fun p hp => hoccur.get p c (hgroup p hp).1 (hgroup p hp).2, hoccur.2 .tsets rfl, d.occur_keepsFlags _ _ _ _ _ _⟩

theorem Dev.fallbackWrite_sees (d : Dev) {k : Nat} (hk : c ≠ k) : Dev.CtxSees c d (d.fallbackWrite k) := (d.setCtx_sees hk _).trans (Dev.writeOuts_sees _ _ _)

theorem Dev.overrun_sees (d : Dev) {k : Nat} (hk : c ≠ k) (cause cycle : Nat) : Dev.CtxSees c d (d.overrun k cause cycle) := by
  unfold Dev.overrun
  extract_lets at' counted n tq told fallen
  have hcounted : Dev.CtxSees c d counted := (d.put_sees (q := Par.ctxOverruns) (by decide) hk _).trans (Dev.put_sees _ (by decide) hk _)
  clear_value counted
  have htold : Dev.CtxSees c counted told := (counted.put_sees (q := Par.ctxConsec) (by decide) hk _).trans (Dev.occur_sees _ _ _ _ _ _)
  clear_value told
  have hfallen : Dev.CtxSees c told fallen := (told.put_sees (q := Par.ctxState) (by decide) hk _).trans (Dev.occur_sees _ _ _ _ _ _)
  clear_value fallen
  exact (hcounted.trans htold).trans (.ite (hfallen.trans ((fallen.setCtx_sees hk _).trans (Dev.writeOuts_sees _ k _))) (.refl told))

theorem Dev.passed_sees (d : Dev) {k : Nat} (hk : c ≠ k) (cycle : Nat) : Dev.CtxSees c d (d.passed k cycle) := by
  unfold Dev.passed
  extract_lets src noted
  have hnoted : Dev.CtxSees c d noted := d.setCtx_sees hk _
  clear_value noted
  exact hnoted.trans (.ite (noted.overrun_sees hk _ _) (.ite (noted.fallbackWrite_sees hk) (.refl noted)))

/-! ## The overrun of a context -/

/-- From `d` to `e` context `c` has overrun its deadline (R175, R176). -/
def Dev.Overran (c : Nat) (d e : Dev) : Prop :=
  (e.ctx c).late = false ∧ e.get Par.ctxOverruns c = (d.get Par.ctxOverruns c + 1) % 2 ^ 32 ∧ e.get Par.ctxLastCause c = ocDeadline
    ∧ e.isOn Par.evtFlag evCtxOverrun = true
    ∧ e.get Par.ctxState c = (if d.desc false c 8 1 ≤ d.get Par.ctxConsec c + 1 then xsFallback else xsRun)

theorem Dev.desc_of_tsets {d e : Dev} (h : e.tsets = d.tsets) (sh : Bool) (n o k : Nat) : e.desc sh n o k = d.desc sh n o k := by
  rw [Dev.desc, Dev.imgN, Dev.img, Dev.tset, h, Dev.desc, Dev.imgN, Dev.img, Dev.tset]

theorem Dev.CtxSees.overran {d x y : Dev} (h : Dev.CtxSees c x y) (hx : Dev.Overran c d x) : Dev.Overran c d y := by
  obtain ⟨hlate, hcount, hcause, hflag, hstate⟩ := hx
  refine ⟨by rw [h.ctx, hlate], ?_, ?_, h.flags _ hflag, ?_⟩
  · rw [h.params _ (by decide), hcount]
  · rw [h.params _ (by decide), hcause]
  · rw [h.params _ (by decide), hstate]

theorem Dev.Overran.of_sees {d x y : Dev} (h : Dev.CtxSees c d x) (hy : Dev.Overran c x y) : Dev.Overran c d y := by
  rwa [Dev.Overran, h.params _ (by decide), Dev.desc_of_tsets h.tsets, h.params _ (by decide)] at hy

/-- A context in RUN whose deadline passes overruns. -/
theorem Dev.passed_overran {d : Dev} (hrun : d.get Par.ctxState c = xsRun) (cycle : Nat) : Dev.Overran c d (d.passed c cycle) := by
  generalize hr : d.passed c cycle = r
  unfold Dev.passed at hr
  extract_lets src noted at hr
  have hnoted : d.Agree [] [.ctxs] noted := d.setCtx_frame c _
  have hlate : (noted.ctx c).late = false := by rw [Dev.ctx_setCtx_same]
  clear_value noted
  rw [if_pos ((hnoted.get _ _ rfl rfl).trans hrun)] at hr
  unfold Dev.overrun at hr
  extract_lets at' counted n tq told fallen src' fell at hr
  have hcounted : counted.get Par.ctxOverruns c = (noted.get Par.ctxOverruns c + 1) % 2 ^ 32 ∧ counted.get Par.ctxLastCause c = ocDeadline
      ∧ counted.get Par.ctxConsec c = noted.get Par.ctxConsec c ∧ counted.get Par.ctxState c = noted.get Par.ctxState c := by
    refine ⟨?_, Dev.get_put_same _ _ _ _, ?_, ?_⟩
    · rw [Dev.get_put_apart _ _ _ _ rfl, Dev.get_inc_same _ _ _ _ (by decide)]
    · rw [Dev.get_put_apart _ _ _ _ rfl, Dev.get_inc_apart _ _ _ _ _ rfl]
    · rw [Dev.get_put_apart _ _ _ _ rfl, Dev.get_inc_apart _ _ _ _ _ rfl]
  have hcounted' : noted.Agree [0x20] [] counted := .put rfl rfl (.inc rfl rfl .refl)
  clear_value counted
  obtain ⟨hcount, hcause, hconsec, hstate⟩ := hcounted
  have htold : (counted.put Par.ctxConsec c n).Agree [0xC0] [.evt] told := Dev.occur_frame _ _ _ _ _ _ _
  have hflag : told.isOn Par.evtFlag evCtxOverrun = true := Dev.occur_flag _ _ _ _ _ _ _ _ (Dev.isOn_put_one _ _ _)
  have hkept (p : Par) (hp : Par.apart p Par.ctxConsec = true) (hs : p.small = true) (hg : ([0xC0] : List Nat).contains p.group = false) :
      told.get p c = counted.get p c := by rw [htold.get _ _ hs hg, Dev.get_put_apart _ _ _ _ hp]
  have htold' : noted.Agree [0x20, 0xC0] [.evt] told := .step htold rfl rfl (.put rfl rfl (hcounted'.mono rfl rfl))
  clear_value told
  have hdesc : told.desc false c 8 1 = d.desc false c 8 1 := Dev.desc_of_tsets ((htold'.2 .tsets rfl).trans (hnoted.2 .tsets rfl)) _ _ _ _
  have hn : n = d.get Par.ctxConsec c + 1 := by rw [show n = counted.get Par.ctxConsec c + 1 from rfl, hconsec, hnoted.get _ _ rfl rfl]
  have hpast : told.get Par.ctxOverruns c = (d.get Par.ctxOverruns c + 1) % 2 ^ 32 ∧ told.get Par.ctxLastCause c = ocDeadline ∧ (told.ctx c).late = false := by
    rw [hkept _ rfl rfl rfl, hkept _ rfl rfl rfl, hcount, hcause, hnoted.get _ _ rfl rfl, Dev.ctx_of_ctxs (htold'.2 .ctxs rfl), hlate]
    exact ⟨rfl, rfl, rfl⟩
  have hstate' : told.get Par.ctxState c = xsRun := by rw [hkept _ rfl rfl rfl, hstate, hnoted.get _ _ rfl rfl, hrun]
  obtain ⟨hcount', hcause', hlate'⟩ := hpast
  rw [hdesc, hn] at hr
  split at hr
  · next hlimit =>
    have hfallen : (told.put Par.ctxState c xsFallback).Agree [0xC0] [.evt] fallen := Dev.occur_frame _ _ _ _ _ _ _
    have hflag' : fallen.isOn Par.evtFlag evCtxOverrun = true := by
      have hput : told.KeepsFlags (told.put Par.ctxState c xsFallback) := .put (.refl told) rfl
      exact Dev.occur_keepsFlags _ _ _ _ _ _ _ _ (hput _ hflag)
    have hfell : fallen.Agree [] [.ctxs] fell := fallen.setCtx_frame c _
    have hlate'' : (fell.ctx c).late = (fallen.ctx c).late := by rw [Dev.ctx_setCtx_same]
    have hfallen' : fallen.get Par.ctxState c = xsFallback ∧ fallen.get Par.ctxOverruns c = told.get Par.ctxOverruns c
        ∧ fallen.get Par.ctxLastCause c = told.get Par.ctxLastCause c ∧ fallen.ctx c = told.ctx c := by
      rw [hfallen.get _ _ rfl rfl, hfallen.get _ _ rfl rfl, hfallen.get _ _ rfl rfl, Dev.get_put_same, Dev.get_put_apart _ _ _ _ rfl, Dev.get_put_apart _ _ _ _ rfl]
      exact ⟨rfl, rfl, rfl, Dev.ctx_of_ctxs ((hfallen.2 .ctxs rfl).trans (Dev.put_ctxs _ _ _ _)) c⟩
    clear_value fallen fell
    obtain ⟨hstate'', hcount'', hcause'', hctx⟩ := hfallen'
    have hover : Dev.Overran c d fell := by
      refine ⟨by rw [hlate'', hctx, hlate'], ?_, ?_, ?_, ?_⟩
      · rw [hfell.get _ _ rfl rfl, hcount'', hcount']
      · rw [hfell.get _ _ rfl rfl, hcause'', hcause']
      · exact Dev.KeepsFlags.of_agree hfell rfl _ hflag'
      · rw [hfell.get _ _ rfl rfl, hstate'', if_pos hlimit]
    rw [← hr]
    exact (fell.writeOuts_sees c _).overran hover
  · next hlimit =>
    rw [← hr]
    exact ⟨hlate', hcount', hcause', hflag, by rw [hstate', if_neg hlimit]⟩

/-! ## The deadline -/

/-- One element's turn of a loop over different elements, where the turns before and after it leave what it rests on and what it makes. -/
theorem Dev.foldl_once {α : Type} {P Q : Dev → Prop} {f : Dev → α → Dev} {xs : List α} {x : α} (hx : x ∈ xs) (hnodup : xs.Nodup)
    (hbefore : ∀ d y, y ≠ x → P d → P (f d y)) (hturn : ∀ d, P d → Q (f d x)) (hafter : ∀ d y, y ≠ x → Q d → Q (f d y)) {d : Dev} (h : P d) :
    Q (xs.foldl f d) := by
  obtain ⟨before, after, rfl⟩ := List.append_of_mem hx
  have hne (y : α) (hy : y ∈ before ∨ y ∈ after) : y ≠ x := by
    rintro rfl
    have hparts := List.nodup_append.mp hnodup
    rcases hy with hy | hy
    · exact hparts.2.2 y hy y (List.mem_cons_self ..) rfl
    · exact (List.nodup_cons.mp hparts.2.1).1 hy
  rw [List.foldl_append, List.foldl_cons]
  refine List.foldlRecOn after f (motive := Q) (hturn _ ?_) fun e he y hy => hafter e y (hne y (.inr hy)) he
  exact List.foldlRecOn before f (motive := P) h fun e he y hy => hbefore e y (hne y (.inl hy)) he

/-- The engine with nothing left to run rests. -/
theorem Dev.engineGo_nil (t : Nat) (d : Dev) : (Dev.engineGo [] t d).eng.rest = [] ∧ Dev.CtxSees c d (Dev.engineGo [] t d) :=
  ⟨rfl, rfl, fun _ _ => rfl, rfl, .upd (.refl d) rfl⟩

/-- The deadline of a context in RUN passes while it is at work, or while it is all that has not started (R175). -/
theorem Dev.deadline_overran {d : Dev} (hc : c < 128) (hrun : d.get Par.ctxState c = xsRun)
    (hwork : ((d.ctx c).late = true ∧ (d.ctx c).lateCycle ≤ d.ctxDeadline c ∧ d.eng.rest = [])
      ∨ ((∀ k < 128, (d.ctx k).late = false) ∧ ∃ it : Item, d.eng.rest = [it] ∧ it.kind = 0 ∧ it.num = c)) :
    Dev.Overran c d (d.deadline c) ∧ (d.deadline c).eng.rest = [] := by
  generalize hr : d.deadline c = r
  unfold Dev.deadline at hr
  rw [if_pos (by
    rcases hwork with ⟨hlate, -, -⟩ | ⟨-, it, hrest, hkind, hnum⟩
    · rw [hlate]; rfl
    · rw [hrest]; simp [hkind, hnum])] at hr
  unfold Dev.deadlinePass at hr
  extract_lets e late hit rest noted passed at hr
  rcases hwork with ⟨hlate, hcycle, hnone⟩ | ⟨hnone, it, hone, hkind, hnum⟩
  · have hmem : c ∈ late := List.mem_filter.mpr ⟨List.mem_range.mpr hc, by simp [hlate, hcycle]⟩
    have hnodup : late.Nodup := List.nodup_range.filter _
    have hrest : rest = [] := by rw [show rest = d.eng.rest.filterMap _ from rfl, hnone]; rfl
    have hpassed : passed = noted := by rw [show passed = noted.forL (d.eng.rest.filter hit) _ from rfl, hnone]; rfl
    have hover : Dev.Overran c d noted :=
      Dev.foldl_once (P := Dev.CtxSees c d) hmem hnodup (fun x k hk hx => hx.trans (x.passed_sees (Ne.symm hk) _))
        (fun x hx => .of_sees hx (Dev.passed_overran ((hx.params _ (by decide)).trans hrun) _))
        (fun x k hk hx => (x.passed_sees (Ne.symm hk) _).overran hx) (.refl d)
    rw [if_neg fun h => List.ne_nil_of_mem hmem h.1, hrest, hpassed] at hr
    obtain ⟨hempty, hsees⟩ := Dev.engineGo_nil (c := c) e.cycle noted
    rw [hr] at hempty hsees
    exact ⟨hsees.overran hover, hempty⟩
  · have hhit : hit it = true := by
      show (it.kind == 0 && decide (d.ctxDeadline it.num ≤ d.ctxDeadline c)) = true
      simp [hkind, hnum]
    have hlist : e.rest = [it] := hone
    have hlate : late = [] := List.filter_eq_nil_iff.mpr fun k hk => by simp [hnone k (List.mem_range.mp hk)]
    have hrest : rest = [] := by
      rw [show rest = e.rest.filterMap _ from rfl, hlist]
      simp [hhit, hnum, hrun]
    have hnoted : noted = d := by rw [show noted = d.forL late _ from rfl, hlate]; rfl
    have hfilter : e.rest.filter hit = [it] := by rw [hlist]; simp [hhit]
    have hpassed : passed = d.passed it.num (d.ctxDeadline it.num) := by
      rw [show passed = noted.forL (e.rest.filter hit) _ from rfl, hnoted, hfilter]
      rfl
    rw [if_neg fun h => by simp [hlist, hhit] at h, hrest, hpassed, hnum] at hr
    obtain ⟨hempty, hsees⟩ := Dev.engineGo_nil (c := c) e.cycle (d.passed c (d.ctxDeadline c))
    rw [hr] at hempty hsees
    exact ⟨hsees.overran (Dev.passed_overran hrun _), hempty⟩

/-- The deadline of a context that is neither at work nor still to start is past already (R175). -/
theorem Dev.deadline_done {d : Dev} (hlate : (d.ctx c).late = false) (hnone : d.eng.rest.any (fun it => it.kind == 0 && it.num == c) = false) : d.deadline c = d := by
  refine if_neg ?_
  rw [hlate, hnone]
  decide

end Sys2Proof.Machine

open Sys2Proof Sys2Proof.Machine

/-- Settles O36: each of the three acts on the device as its own deadlines have left it, and what it sets stays at the end of the command. -/
theorem computeWindow : Obligations.ComputeWindow := by
  unfold Obligations.ComputeWindow
  refine ⟨fun s hfull hclk => ?_, fun s hfull hclk => ?_, fun t c s hfull hclk => ⟨fun hwork hrun => ?_, fun hlate hnone => ?_⟩⟩
  · extract_lets e within
    intro hholds
    refine .of_does rfl fun d hd => ?_
    obtain ⟨hlatches, hsends⟩ := Dev.windowEnd_ends (d := s.dev.atTime (s.dev.windowTicks * 16)) hfull hclk hholds
    have he : (s.dev.atTime (s.dev.windowTicks * 16)).windowPassed = e := rfl
    rw [hd, he] at hlatches
    rw [hd] at hsends
    clear_value e
    refine ⟨fun n hn => ?_, fun hstake p hp hup => ?_⟩
    · rw [Dev.leg_settle, hlatches n hn]
      exact ⟨rfl, rfl, e.latched_wait n, Dev.latched_duty, rfl⟩
    · obtain ⟨w, hw, hsent⟩ := hsends hstake p hp hup
      exact ⟨w, (d.settle_sends _).mem_out hw, hsent⟩
  · extract_lets e
    refine .of_whenOn hfull hclk rfl fun d hd j hj => ?_
    have hpower : (s.dev.atTime (s.dev.finalTicks * 16)).PowerKept e := (Dev.deadlinePass_frame _ _).powerKept (by decide)
    obtain ⟨hdue, hidle⟩ := Dev.finalStep_plans (d := e) (hpower.full hfull) hj
    have hstep : e.finalStep = d := hd
    rw [hstep] at hdue hidle
    clear_value e
    rw [Dev.arm_of_arms (Dev.settle_arms _ _), Dev.settle_get _ _ _ rfl, Dev.settle_get _ _ _ rfl, Dev.settle_get _ _ _ rfl]
    split
    · next h => exact hdue h
    · next h => exact hidle h
  · refine .of_whenOn hfull hclk rfl fun e he => ?_
    obtain ⟨hover, hempty⟩ := Dev.deadline_overran (d := s.dev.atTime t) c.isLt hrun hwork
    rw [he] at hover hempty
    obtain ⟨hlate, hcount, hcause, hflag, hstate⟩ := hover
    rw [Dev.ctx_of_ctxs (Dev.settle_ctxs _ _), Dev.settle_eng, Dev.settle_get _ _ _ rfl, Dev.settle_get _ _ _ rfl, Dev.settle_get _ _ _ rfl]
    exact ⟨hlate, hempty, hcount, hcause, e.settle_keepsFlags _ _ hflag, hstate⟩
  · refine .of_whenOn hfull hclk rfl fun e he => ?_
    have hdone := (Dev.deadline_done (d := s.dev.atTime t) hlate hnone).symm.trans he
    subst hdone
    rw [Dev.settle_ctxs, Dev.settle_eng, Dev.settle_get _ _ _ rfl, Dev.settle_get _ _ _ rfl]
    exact ⟨rfl, rfl, rfl, rfl⟩

end
